-- ==== Sys2Proof/Word.lean ====
section
/-!
DEFINITION. The plain word types of the module and their simplest arithmetic.
Multi-byte fields are little-endian (R8); registers are 32 bits (R11), scalars 64 bits (R142).
-/
namespace Sys2Proof

/-- One byte. -/
abbrev Byte := BitVec 8
/-- A 32-bit control register (R11) or vector lane. -/
abbrev Word32 := BitVec 32
/-- A 64-bit scalar or instruction word (R127, R142). -/
abbrev Word64 := BitVec 64

end Sys2Proof
end

