-- ==== Sys2Proof/Syntax.lean ====
section
/-!
DEFINITION. The commands the module takes: one constructor of `Instr` per row of the spec's table, with the operands
that the row needs. What an outside agent, a timer or a sensor brings is an operand of the command that reports it.
-/
namespace Sys2Proof

/-- Logical core (x, y), numbered 16y + x (R6, R485). -/
abbrev CoreId := Fin 256
/-- Task slot of a core (R6). -/
abbrev SlotId := Fin 16
/-- Context (R6). -/
abbrev CtxId := Fin 64
/-- Partition (R6). -/
abbrev PartId := Fin 32
/-- Pane, numbered 8·py + px (R49). -/
abbrev PaneId := Fin 64
/-- Port (R69). -/
abbrev PortId := Fin 80
/-- Regulator region 6n + k (R50). -/
abbrev RegionId := Fin 384
/-- Core position 5n + k (R527). -/
abbrev PosId := Fin 320
/-- Stream endpoint of a core (R6). -/
abbrev EpId := Fin 256
/-- Event queue (R491). -/
abbrev QueueId := Fin 8
/-- T2 channel (R264). -/
abbrev ChanId := Fin 16

/-- Who accesses control space (R11): the service controller, a supervisor by its index, the host under a job ID, or a
partition. -/
inductive Requester where
  | svc
  | sup (i : Fin 4)
  | host (job : BitVec 24)
  | part (p : PartId)
  deriving DecidableEq, Repr

/-- The next instruction of a task: its core and slot, bits [55:0] of its word (the OP is the row's own), and the word
that follows it, used where the opcode takes an extension (R127, R129). -/
structure Issue where
  core : CoreId
  slot : SlotId
  body : BitVec 56
  ext : BitVec 64
  deriving DecidableEq, Repr

/-- How a read outside the wafer ended: its bytes (with the poisoned sectors among them), or a status (R392). -/
inductive Reply where
  | ok (data : List Byte)
  | poisoned (data : List Byte)
  | status (code : Nat)
  deriving DecidableEq, Repr

/-- What the outside gives one band of a `GATHER.DL`: the position in the index list, and for a row of T2 or T3 that did
not arrive by the deadline nothing, otherwise its answer (R177). Positions not listed did not arrive. -/
abbrev GatherBand := List (Nat × Reply)

/-- A group that lands: the `i`-th of those on their way on this module; one from another module, from the `source`-th of the
endpoint's producers, with its layer and its tiles, or without data an announcement; a report that the far ring of the `peer`-th
consumer of an outbound endpoint has taken tiles; or the finding that no path leads to the peer (R194, R195, R397). -/
inductive Landing where
  | flight (i : Nat)
  | arrive (core : CoreId) (ep : EpId) (source count layer : Nat) (data : Option (List Byte))
  | report (core : CoreId) (ep : EpId) (peer n : Nat)
  | noPath (core : CoreId) (ep : EpId)
  deriving DecidableEq, Repr

/-- A credit that arrives: the `i`-th of those on their way on this module, or one from another module for an outbound
endpoint, from the `peer`-th of its consumers (R194). -/
inductive CreditFrom where
  | flight (i : Nat)
  | away (core : CoreId) (ep : EpId) (peer n : Nat)
  deriving DecidableEq, Repr

/-- The memories that keep an error count of their own (R272). -/
inductive MemKind where
  | t0 | t1 | t2 | acc
  deriving DecidableEq, Repr

/-- Code of a memory in MEM_UE (R272). -/
def MemKind.code : MemKind → Nat
  | .t0 => 0
  | .t1 => 1
  | .t2 => 2
  | .acc => 4

/-- An error that ECC finds: the memory, its core or channel, the byte offset, whether it is uncorrectable, and whose access
found it: none for the patrol scrubber (R268, R271). -/
structure EccFinding where
  mem : MemKind
  unit : Fin 256
  off : BitVec 37
  ue : Bool
  ctx : Option CtxId
  write : Bool
  deriving DecidableEq, Repr

/-- An error in one sector of a tile that an edge agent reads (R268). -/
structure EccAt where
  sector : Fin 64
  ue : Bool
  deriving DecidableEq, Repr

/-- What a fetched page or chunk is for: the running LOAD, the running SWAP, or the streamed chunks of a context (R286, R299). -/
inductive ChunkUse where
  | load | swap | stream
  deriving DecidableEq, Repr

/-- What the binder chooses for one task of the image that is bound on the module: its slot, the first tile of its accumulator
window and the place of its save area (R211, R471). -/
structure BindTask where
  slot : SlotId
  accFirst : Fin 2048
  saveArea : Nat
  deriving DecidableEq, Repr

/-- An area that the binder places above a core-unit's grant (R241). -/
structure BindArea where
  leaf : Nat
  t1 : Bool
  off : Nat
  len : Nat
  deriving DecidableEq, Repr

/-- What the binder chooses when it binds an image: whether everything fits, a handle, the module hops and the domain number of each
unit, a core for each leaf ordinal bound here, the bytes of T0 and T1 at which the share of each begins and the T1 address of its
staging pool, one entry for each entry of TASKS, areas, the code region's base, the buffers of the pools by leaf and address, for each
entry of STREAMS its endpoint and the place of its segment list, the places of the tables that it writes,
and whether a retained set-up is used again (R24, R25, R240, R241, R423, R471 to R478). -/
structure BindPlan where
  fits : Bool
  handles : List Nat
  hops : List Nat
  domains : List (Option Nat)
  cores : List (Option CoreId)
  bases : List (Nat × Nat)
  stages : List Nat
  tasks : List BindTask
  areas : List BindArea
  codeBase : Nat
  buffers : List (Nat × Nat)
  streams : List (EpId × Nat)
  aptBase : Nat
  placeBase : Nat
  srcBase : Nat
  reuse : Bool
  deriving DecidableEq, Repr

/-- Messages of the transom network (R331). -/
inductive TransomMsg where
  | readReq | readRsp | write | writeAck | event | fanout | vote | release | arm
  deriving DecidableEq, Repr

/-- What a packet carries: it gives the packet's network, its class, and what its sender learns of its loss (R317, R321). -/
inductive Cargo where
  /-- Tiles of an endpoint, by core and endpoint: a stream group, a contribution, a merged partial, chain forwarding. -/
  | stream (core : CoreId) (ep : EpId)
  /-- A stream or merge credit of an endpoint. -/
  | credit (core : CoreId) (ep : EpId)
  /-- Staging for a context. -/
  | staging (c : CtxId)
  | migration (c : CtxId)
  | louvre (c : CtxId)
  /-- A Virbael operation of a task. -/
  | request (core : CoreId) (slot : SlotId)
  /-- A completion or an acknowledgement. -/
  | done
  /-- Druter's own movement. -/
  | druter
  /-- A transom message. -/
  | message (m : TransomMsg)
  deriving DecidableEq, Repr

/-- A port at which a packet enters: a core's, an outward port of an edge agent, at its second stop or its first, an attachment of the wafer
block, the second or the first, or that of the service controller (R312). -/
inductive MeshFrom where
  | core (d : CoreId)
  | edge (e : Fin 32) (second : Bool)
  | block (second : Bool)
  | svc
  deriving DecidableEq, Repr

/-- What a packet is for: a core, an edge agent, the wafer block or the service controller (R312, R320). -/
inductive MeshTo where
  | core (d : CoreId)
  | edge (e : Fin 32)
  | block
  | svc
  deriving DecidableEq, Repr

/-- A packet that enters a network (R314, R325, R328, R330, R331): its ends, the destination set in place of its destination if it is a
multicast, whether a register access is of MGMT origin, its class on the mesh, the partition of an origin that the cargo does not
give, its flits on the mesh, its bytes, and its poisoned sectors. -/
structure MeshPacket where
  src : MeshFrom
  dst : MeshTo
  members : List CoreId
  mgmt : Bool
  cls : Fin 4
  part : PartId
  total : Fin 9
  data : List Byte
  poison : List (Fin 64)
  cargo : Cargo
  deriving DecidableEq, Repr

/-- A flit reaches a stop: its packet enters there, or the `i`-th flit in flight, which its outputs choose, goes on from the stop where it
is, its CRC bad on one outgoing link or on none (R315, R319). -/
inductive MeshEvent where
  | enter (p : MeshPacket)
  | hop (i : Nat) (bad : Option (Fin 4))
  deriving DecidableEq, Repr

/-- A physical MAC array of a core position (R51). -/
abbrev ArrayId := Fin 520

/-- A fragment-block whose check has disagreed, with its two repeats (R510): the core and slot of its MMA, the MMA's context and
PC, array a, the second array (none for checksum cells), whether X2 = X0, X3 = X0, X2 = X3 and X3 is consistent, and the tile of the
accumulator window that the fragment lies in, with the tile of its upper halves under INT32 (R155). -/
structure Mismatch where
  core : CoreId
  slot : SlotId
  ctx : CtxId
  pc : BitVec 44
  a : ArrayId
  second : Option ArrayId
  x2eq0 : Bool
  x3eq0 : Bool
  x2eq3 : Bool
  ok3 : Bool
  tile : Fin 2048
  high : Option (Fin 2048)
  /-- Block time of the fragment-block in array clocks (R82). -/
  clocks : Fin 33
  deriving DecidableEq, Repr

/-- How a scan ended (R518): the position's arrays and banks in service, whether every macro is repaired, the arrays that the scan
repaired, the position's repair record, and the duration in ticks. -/
structure ScanResult where
  arrays : Fin 513
  banksUp : Fin 65
  macros : Bool
  repaired : Fin 521
  bad : List ArrayId
  banks : List Byte
  rows : List Byte
  ticks : BitVec 64
  deriving DecidableEq, Repr

/-- How a calibration ended (R543): TRIM in mV, BASELINE in nΩ, and the duration in ticks. -/
structure CalibResult where
  trim : Byte
  baseline : BitVec 16
  ticks : BitVec 64
  deriving DecidableEq, Repr

/-- The 1 ms sample of the bus (R533, R577): voltage in 10 mV, current in A, power in W, the current of each busbar pair in A; that
the voltage has been below 38 V for 10 µs, above 39 V for 10 ms, below 36 V for 1 ms, above 62 V for 1 ms; that a pair has carried
more than 700 A for 10 ms; and, should the bus have collapsed, whether the record being written to the store is finished (R548). -/
structure InputSample where
  volts : BitVec 16
  amps : BitVec 16
  watts : BitVec 32
  pair0 : BitVec 16
  pair1 : BitVec 16
  low : Bool
  well : Bool
  sunk : Bool
  beyond : Bool
  uneven : Bool
  finishes : Bool
  deriving DecidableEq, Repr

/-- The 1 ms sample of the coolant (R546, R553): flows in 0.1 L/min, temperatures in 0.25 °C. -/
structure CoolantSample where
  top : BitVec 16
  bottom : BitVec 16
  topOut : Byte
  topIn : Byte
  botOut : Byte
  botIn : Byte
  deriving DecidableEq, Repr

/-- Where a management request comes from (R558): a UDP datagram, by its source address, destination address and destination port, or a
REQ frame of the sill chain for this module. -/
inductive MgmtSrc where
  | udp (src dst : List Byte) (port : BitVec 16)
  | chain
  deriving DecidableEq, Repr

/-- A management request beyond its OP (R558); `wedged`: a transom register access of its operation has no response within 1 ms (R556).
-/
structure MgmtMsg where
  src : MgmtSrc
  seq : BitVec 32
  arg0 : BitVec 32
  arg1 : BitVec 64
  rsvd : BitVec 64
  data : List Byte
  wedged : Bool
  deriving DecidableEq, Repr

/-- What a telemetry pass reads of a region (R547): VCORE in 0.1 mV, current in 0.1 A, temperature in 1/16 °C, contact estimate in nΩ,
stretch in %, and the pace that the region sets for its own current (R532, R538, R542). -/
structure RegionSample where
  r : RegionId
  vsense : BitVec 16
  current : BitVec 16
  temp : BitVec 16
  estimate : BitVec 16
  stretch : Byte
  pace : Fin 17
  deriving DecidableEq, Repr

/-- A telemetry pass (R547, R557): the regions, those not listed as before; whether TIM_TICK can be read; and whether a load of Druter has
completed since the last pass. -/
structure Telemetry where
  regions : List RegionSample
  readable : Bool
  druter : Bool
  deriving DecidableEq, Repr

/-- What bring-up finds (R566): the panes whose region and slices pass with the slices that fail, the scans of positions of a cold
bring-up, the positions whose BIST fails in a warm one, the stacks that come up, the duration in ms, and the route entries that Druter
writes in both copies, by stop and by a quarter of the destination number (R320, R335). -/
structure BringPlan where
  panes : List PaneId
  badSlices : List CoreId
  scans : List (PosId × ScanResult)
  badBist : List PosId
  chans : BitVec 16
  ms : BitVec 32
  routes : List (CoreId × Fin 64 × BitVec 32)
  deriving DecidableEq, Repr

/-- What a register write brings with it at a register whose write has a row of its own: that a MIGRATE's copy completes (PSW_CTRL),
that a test can never run (REL_SCAN_REQ); and who else reads or writes the register in the same transom clock (R13). -/
structure WriteSides where
  done : Bool
  never : Bool
  readers : List Requester
  also : List (Requester × BitVec 32)
  deriving DecidableEq, Repr

/-- One constructor per row of the spec's table of operations and events. -/
inductive Instr where
  /-- NOP (R183): Scalar instruction that does nothing. -/
  | nop (i : Issue)
  /-- ADD (R183): Adds s[SRCA] and B modulo 2^64 into s[DST]. -/
  | add (i : Issue)
  /-- SUB (R183): Subtracts B from s[SRCA] modulo 2^64 into s[DST]. -/
  | sub (i : Issue)
  /-- MUL (R183): Multiplies s[SRCA] by B modulo 2^64 into s[DST]. -/
  | mul (i : Issue)
  /-- AND (R183): Bitwise AND of s[SRCA] and B into s[DST]. -/
  | and (i : Issue)
  /-- OR (R183): Bitwise OR of s[SRCA] and B into s[DST]. -/
  | or (i : Issue)
  /-- XOR (R183): Bitwise XOR of s[SRCA] and B into s[DST]. -/
  | xor (i : Issue)
  /-- SHL (R183): Shifts s[SRCA] left by B[5:0]. -/
  | shl (i : Issue)
  /-- SHR (R183): Shifts s[SRCA] right logically by B[5:0]. -/
  | shr (i : Issue)
  /-- SRA (R183): Shifts s[SRCA] right arithmetically by B[5:0]. -/
  | sra (i : Issue)
  /-- MIN (R183): Writes the signed smaller of s[SRCA] and B. -/
  | min (i : Issue)
  /-- MAX (R183): Writes the signed larger of s[SRCA] and B. -/
  | max (i : Issue)
  /-- MOV (R183): Copies s[SRCA] with its poison into s[DST]. -/
  | mov (i : Issue)
  /-- LDI (R183): Loads the 64-bit immediate of the extension word into s[DST]. -/
  | ldi (i : Issue)
  /-- CMP_EQ (R183): Sets a predicate when s[SRCA] equals B. -/
  | cmpEq (i : Issue)
  /-- CMP_LT (R183): Sets a predicate when s[SRCA] is signed less than B. -/
  | cmpLt (i : Issue)
  /-- CMP_LTU (R183): Sets a predicate when s[SRCA] is unsigned less than B. -/
  | cmpLtu (i : Issue)
  /-- PAND (R183): Predicate AND. -/
  | pand (i : Issue)
  /-- POR (R183): Predicate OR. -/
  | por (i : Issue)
  /-- PXOR (R183): Predicate XOR. -/
  | pxor (i : Issue)
  /-- BR (R183): Branches relative by the immediate or absolute to s[SRCB]. -/
  | br (i : Issue)
  /-- HALT (R147): Ends the task, which becomes HALTED with STOP_CAUSE 6. -/
  | halt (i : Issue)
  /-- LD_S (R183): Loads 8 bytes from memory into a scalar register. -/
  | ldS (i : Issue)
  /-- ST_S (R183): Stores a scalar register as 8 bytes to memory. -/
  | stS (i : Issue)
  /-- FLAGS_RD (R144): Reads the task's sticky FLAGS after all older instructions retire. -/
  | flagsRd (i : Issue)
  /-- FLAGS_CLR (R144): Clears the selected sticky flags after all older instructions retire. -/
  | flagsClr (i : Issue)
  /-- TD_LD (R252): Loads a 64-byte tile descriptor from memory, possibly starting AHEAD staging. -/
  | tdLd (i : Issue)
  /-- TD_ST (R252): Stores a 64-byte tile descriptor to memory. -/
  | tdSt (i : Issue)
  /-- TD_SET (R252): Writes one selected descriptor field from a scalar without checking it. -/
  | tdSet (i : Issue)
  /-- TD_GET (R183): Reads one selected descriptor field into a scalar. -/
  | tdGet (i : Issue)
  /-- TD_ADV (R252): Advances a descriptor's BASE by a whole number of tiles. -/
  | tdAdv (i : Issue)
  /-- MMA (R154): Dense matrix multiply-accumulate into accumulator tiles, optionally emitted to TD. -/
  | mma (i : Issue)
  /-- MMA_CSR (R157): Matrix multiply with a CSR sparse A operand expanded under R227. -/
  | mmaCsr (i : Issue)
  /-- SPVALID (R158): Checks a CSR operand row by row and writes the ill-formed bits and count. -/
  | spvalid (i : Issue)
  /-- VADD (R159): Lane-wise vector add. -/
  | vadd (i : Issue)
  /-- VSUB (R159): Lane-wise vector subtract. -/
  | vsub (i : Issue)
  /-- VMUL (R159): Lane-wise vector multiply. -/
  | vmul (i : Issue)
  /-- VFMA (R159): Lane-wise fused multiply-add. -/
  | vfma (i : Issue)
  /-- VDIV (R159): Lane-wise correctly rounded division. -/
  | vdiv (i : Issue)
  /-- VMIN (R159): Lane-wise minimum. -/
  | vmin (i : Issue)
  /-- VMAX (R159): Lane-wise maximum. -/
  | vmax (i : Issue)
  /-- VSQRT (R159): Lane-wise correctly rounded square root. -/
  | vsqrt (i : Issue)
  /-- VFUNC (R160): Lane-wise primitive or composite function selected by FUNC. -/
  | vfunc (i : Issue)
  /-- VCMP (R159): Lane-wise comparison producing all-ones or zero. -/
  | vcmp (i : Issue)
  /-- VSEL (R159): Lane-wise select on the bits of VC. -/
  | vsel (i : Issue)
  /-- VLD (R162): Loads 1,024 elements of a descriptor operand into a vector register. -/
  | vld (i : Issue)
  /-- VST (R162): Converts and stores a vector register into 1,024 elements of an operand. -/
  | vst (i : Issue)
  /-- VRNG (R163): Fills a vector register with generator draws. -/
  | vrng (i : Issue)
  /-- VRED_SUM (R165): Canonical-tree sum of each segment. -/
  | vredSum (i : Issue)
  /-- VRED_MAX (R165): Maximum of each segment. -/
  | vredMax (i : Issue)
  /-- VRED_MIN (R165): Minimum of each segment. -/
  | vredMin (i : Issue)
  /-- VNORM (R166): Layer or RMS normalisation of each segment. -/
  | vnorm (i : Issue)
  /-- VSOFTMAX (R167): Softmax of each segment, optionally prescaled. -/
  | vsoftmax (i : Issue)
  /-- VACC_RD (R168): Copies an accumulator tile into a vector register. -/
  | vaccRd (i : Issue)
  /-- VACC_WR (R168): Copies a vector register into an accumulator tile. -/
  | vaccWr (i : Issue)
  /-- CVT (R170): Converts an operand element by element to another format. -/
  | cvt (i : Issue)
  /-- TCOPY (R171): Resumable bit copy of an operand with its side area and poison. -/
  | tcopy (i : Issue)
  /-- TFILL (R172): Resumable fill of every element of TD with one value. -/
  | tfill (i : Issue)
  /-- GATHER_DL (R177): Resumable gather of table rows with shadow substitution after a deadline. -/
  | gatherDl (i : Issue) (band : GatherBand)
  /-- SCATTER (R182): Resumable scatter of source rows to indexed table rows. -/
  | scatter (i : Issue)
  /-- ACC_OUT (R169): Converts and writes accumulator tiles to memory or a stream. -/
  | accOut (i : Issue)
  /-- RESUMABLE_UNIT (R174): One tile unit of a resumable instruction issues, completes and updates PROGRESS. -/
  | resumableUnit (core : CoreId) (slot : SlotId) (band : GatherBand)
  /-- STREAM_SEND (R190): Sends n tiles on an outbound stream once FREE allows. -/
  | streamSend (i : Issue)
  /-- STREAM_RECV (R192): Takes one group from an inbound ring once FILLED allows. -/
  | streamRecv (i : Issue)
  /-- LATCH_WAIT (R193): Waits until FILLED or FREE reaches n. -/
  | latchWait (i : Issue)
  /-- LATCH_SIG (R194): Releases taken tiles as credit, or announces tiles written by stores. -/
  | latchSig (i : Issue)
  /-- BUF_ALLOC (R200): Takes a buffer from a pool and returns a token, waiting if the pool is empty. -/
  | bufAlloc (i : Issue)
  /-- BUF_FREE (R201): Checks a token and frees its buffer or reports misuse. -/
  | bufFree (i : Issue)
  /-- STREAM_INJ (R197): Injects a contribution to a SUM binding. -/
  | streamInj (i : Issue)
  /-- BARRIER (R207): Arrives at a casement barrier and waits for release. -/
  | barrier (i : Issue)
  /-- THRESHOLD (R203): Layer boundary: a drain in a plain context or a vote in a privileged one. -/
  | threshold (i : Issue)
  /-- AT_LAUNCH (R209): Waits until a named tick begins, or retires late at once. -/
  | atLaunch (i : Issue)
  /-- TICK_RD (R345): Reads the tick number at the core's leaf. -/
  | tickRd (i : Issue)
  /-- UNIT_QUERY (R27): Returns a fact about units or copies the capability record. -/
  | unitQuery (i : Issue)
  /-- TASK_CTL_START (R211): Requests START of the selected tasks of a unit. -/
  | taskCtlStart (i : Issue)
  /-- TASK_CTL_STOP (R211): Requests STOP of the selected tasks. -/
  | taskCtlStop (i : Issue)
  /-- TASK_CTL_PREEMPT (R211): Requests stop, save to the save area and parking of the selected tasks. -/
  | taskCtlPreempt (i : Issue)
  /-- TASK_CTL_SAVE (R211): Requests a task state record to be written to an address. -/
  | taskCtlSave (i : Issue)
  /-- TASK_CTL_RESTORE (R211): Requests a task state record to be restored into a slot. -/
  | taskCtlRestore (i : Issue)
  /-- COLL_SUM (R423): Starts a member of a collective sum over a casement of modules. -/
  | collSum (i : Issue)
  /-- LEASE_ACQ (R415): Sends a lease acquire and waits for a non-HELD outcome. -/
  | leaseAcq (i : Issue)
  /-- LEASE_REL (R415): Sends a lease release and waits for its outcome. -/
  | leaseRel (i : Issue)
  /-- ATOM (R410): Sends a remote atomic operation and receives the old value. -/
  | atom (i : Issue)
  /-- RLD (R390): Remote 8-byte load, possibly hinged or cached. -/
  | rld (i : Issue)
  /-- RST (R390): Posted remote 8-byte store, possibly batched by the hinge. -/
  | rst (i : Issue)
  /-- INV (R408): Drops read-cache lines and staged T3 copies over a range. -/
  | inv (i : Issue)
  /-- DOORBELL (R390): Posts a doorbell write to a global address. -/
  | doorbell (i : Issue)
  /-- TASK_WAKE (R94): A waiting task becomes ready after the event that satisfies its wait and its stall is counted. -/
  | taskWake (core : CoreId) (slot : SlotId) (codes : BitVec 6)
  /-- AGE_LIMIT_ISSUE (R77): A ready task not issued for AGE_LIMIT clocks is issued next. -/
  | ageLimitIssue (core : CoreId) (slots : BitVec 16)
  /-- MMA_CHECK_MISMATCH (R510): A checked fragment-block disagrees and is repeated and classified. -/
  | mmaCheckMismatch (m : Mismatch)
  /-- PSW_APPLY_MIGRATE (R58): APPLY with KIND MIGRATE moves one slot to a new position with a copy. -/
  | pswApplyMigrate (req : Requester) (n : PaneId) (done : Bool)
  /-- PSW_APPLY_REPLACE (R59): APPLY with KIND REPLACE joins slots to new positions without copying. -/
  | pswApplyReplace (req : Requester) (n : PaneId)
  /-- COPY_FAIL (R59): The old position silent for 1 ms turns the MIGRATE into a REPLACE. -/
  | copyFail (n : PaneId)
  /-- MIGRATE_NEW_POSITION_FAIL (R61): The new position fails during a MIGRATE, which stops before step 4. -/
  | migrateNewPositionFail (n : PaneId)
  /-- GROUP_LAND (R195): A stream group lands whole in a ring and FILLED rises. -/
  | groupLand (g : Landing)
  /-- CREDIT_ARRIVE (R194): A stream credit reaches the producer and FREE rises. -/
  | creditArrive (c : CreditFrom)
  /-- FETCH_ENGINE_FETCH (R196): A FIXED or CREDIT engine fetches the next tile when depth and ring room allow. -/
  | fetchEngineFetch (core : CoreId) (ep : EpId)
  /-- CHAIN_FORWARD (R301): A landed group is forwarded to the next chain element when downstream FREE allows. -/
  | chainForward (core : CoreId) (ep : EpId)
  /-- MERGE_FLIT_ARRIVE (R327): A flit reaches a merge node and is combined or discarded. -/
  | mergeFlitArrive (i : Nat)
  /-- THRESHOLD_RELEASE (R204): After the last vote every waiting task resumes at one common tick. -/
  | thresholdRelease (c : CtxId)
  /-- BARRIER_RELEASE (R208): Barrier members resume at the named release tick. -/
  | barrierRelease (c : CtxId) (node : Nat)
  /-- LAUNCH_TICK (R351): A launch comparator matches and the task's next instruction issues. -/
  | launchTick (core : CoreId)
  /-- TASK_CTL_EFFECT (R212): A task-control operation takes effect on every selected task at one tick boundary. -/
  | taskCtlEffect (codes : BitVec 6)
  /-- PARKED_TASK_RESTORE (R211): A parked task is restored when its slot empties. -/
  | parkedTaskRestore (core : CoreId) (slot : SlotId)
  /-- DEADLOCK (R220): The armed monitor count reaches its limit and the context faults. -/
  | deadlock (c : CtxId)
  /-- STR_CFG_ENABLE (R222): Setting EN of an endpoint is checked and the endpoint enters use. The value written is CONTEXT `c` over the
  other bits `v`. -/
  | strCfgEnable (req : Requester) (core : CoreId) (ep : EpId) (c : CtxId) (v : BitVec 26)
  /-- STR_CFG_DISABLE (R222): Clearing EN removes the endpoint from its link. -/
  | strCfgDisable (req : Requester) (core : CoreId) (ep : EpId) (v : BitVec 32)
  /-- SYN_TSK_START (R223): Host or Druter START through SYN_TSK_CMD. -/
  | synTskStart (req : Requester) (c : CtxId) (mask : BitVec 16)
  /-- SYN_TSK_STOP (R223): Host or Druter STOP through SYN_TSK_CMD. -/
  | synTskStop (req : Requester) (c : CtxId) (mask : BitVec 16)
  /-- SYN_TSK_PREEMPT (R223): Host or Druter PREEMPT through SYN_TSK_CMD. -/
  | synTskPreempt (req : Requester) (c : CtxId) (mask : BitVec 16)
  /-- SYN_TSK_SAVE (R223): Host or Druter SAVE through SYN_TSK_CMD. -/
  | synTskSave (req : Requester) (c : CtxId) (mask : BitVec 16)
  /-- SYN_TSK_RESTORE (R223): Host or Druter RESTORE through SYN_TSK_CMD. -/
  | synTskRestore (req : Requester) (c : CtxId) (mask : BitVec 16)
  /-- STAGE_RESERVE (R256): The migration engine reserves all staging slots of a waiting instruction at once. -/
  | stageReserve (core : CoreId) (ahead : Option CtxId)
  /-- STAGE_COMPLETE (R255): The last staged tile of an instruction lands in the staging pool. -/
  | stageComplete (core : CoreId) (c : CtxId) (tile : BitVec 32) (found : List EccAt) (reply : Reply)
  /-- T2_WRITE_ACK (R258): An edge agent acknowledges a T2 write after holders retire and drops copies. -/
  | t2WriteAck (p : PartId) (tile : BitVec 32)
  /-- T2_LOST (R266): A stack is lost and its channel answers poisoned thereafter. -/
  | t2Lost (m : ChanId)
  /-- PATROL_SCRUB (R271): The scrubber reads a word on its period and handles any error. -/
  | patrolScrub (f : EccFinding)
  /-- MIG_RING_ENABLE (R276): Setting EN of the migration ring resets HEAD or is refused. -/
  | migRingEnable (req : Requester) (c : CtxId) (v : BitVec 32)
  /-- MIG_RING_TAIL_WRITE (R273): Advancing TAIL hands new commands to the engine. -/
  | migRingTailWrite (req : Requester) (c : CtxId) (v : BitVec 32)
  /-- MIG_COPY (R274): Migration COPY command moves tiles and writes its completion word. -/
  | migCopy (c : CtxId) (n : Nat) (replies : List Reply)
  /-- MIG_DROP (R273): Migration DROP command drops staged copies of a range. -/
  | migDrop (c : CtxId)
  /-- MIG_FENCE (R273): Migration FENCE command completes at once. -/
  | migFence (c : CtxId)
  /-- MIG_CNT_CLEAR (R276): MIG_CNT_CTRL CLEAR zeroes the context's stall and fallback counters. -/
  | migCntClear (req : Requester) (c : CtxId)
  /-- MIG_ERR_CLEAR (R277): MIG_ERR_CLR CLEAR zeroes the eight error counters. -/
  | migErrClear (req : Requester)
  /-- LVR_DESC_ENABLE (R310): Setting EN of the Louvre ring sets HEAD or is refused. -/
  | lvrDescEnable (req : Requester) (c : CtxId) (v : BitVec 32)
  /-- LVR_DESC_TAIL_WRITE (R288): Advancing TAIL hands new descriptors to Louvre. -/
  | lvrDescTailWrite (req : Requester) (c : CtxId) (v : BitVec 32)
  /-- LVR_LOAD (R295): LOAD descriptor verifies a manifest and places tensors. -/
  | lvrLoad (c : CtxId) (man : Reply)
  /-- LVR_SWAP (R305): SWAP descriptor fetches and verifies new layer weights into the swap buffer. -/
  | lvrSwap (c : CtxId) (man : Reply)
  /-- LVR_WRITE_BACK (R307): WRITE_BACK descriptor sends a gradient shard and rings the server doorbell. -/
  | lvrWriteBack (c : CtxId) (replies : List Reply)
  /-- LVR_FENCE (R291): FENCE descriptor completes when every earlier descriptor has. -/
  | lvrFence (c : CtxId)
  /-- LVR_CHUNK_VERIFY (R286): A fetched page or chunk arrives and is hashed, used or fetched again. -/
  | lvrChunkVerify (c : CtxId) (use : ChunkUse) (page : Bool) (i : Nat) (reply : Reply)
  /-- LVR_FETCH_TIMEOUT (R293): A weight-server request unanswered for FETCH_S ends its descriptor with TIMEOUT. -/
  | lvrFetchTimeout (c : CtxId) (swap : Bool)
  /-- SWAP_HOLD (R304): The context completes the hold generation and enters HELD for the exchange. -/
  | swapHold (c : CtxId)
  /-- SWAP_EXCHANGE_DONE (R305): The exchange completes and the context is released or awaits a command. -/
  | swapExchangeDone (c : CtxId)
  /-- SWAP_COMMIT (R305): LVR_SWAP_CMD COMMIT ends a held swap. -/
  | swapCommit (req : Requester) (c : CtxId)
  /-- SWAP_ROLLBACK (R305): LVR_SWAP_CMD ROLLBACK exchanges back and ends ROLLED_BACK. -/
  | swapRollback (req : Requester) (c : CtxId)
  /-- SWAP_TIMEOUT (R306): No command within HOLD_S rolls the swap back. -/
  | swapTimeout (c : CtxId)
  /-- LVR_CNT_CLEAR (R310): LVR_CNT_CTRL CLEAR zeroes the per-context Louvre counters. -/
  | lvrCntClear (req : Requester) (c : CtxId)
  /-- LVR_FAIL_CLEAR (R311): LVR_FAIL_CLR CLEAR zeroes the signature and hash failure counters. -/
  | lvrFailClear (req : Requester)
  /-- MESH_FLIT_ARRIVE (R320): A mesh flit reaches a stop and is routed, delivered, replayed or discarded. -/
  | meshFlitArrive (e : MeshEvent)
  /-- NET_TBL_ARM (R324): ARM of NET_TBL_CTRL arms a route-table switch or refuses it late. -/
  | netTblArm (req : Requester)
  /-- NET_TBL_SWITCH (R324): At the named tick every stop starts stamping the other copy. -/
  | netTblSwitch
  /-- MRG_NODE_ENABLE (R335): Setting EN of a merge node is checked and the node enters use. -/
  | mrgNodeEnable (req : Requester) (core : CoreId) (node : SlotId) (v : BitVec 32)
  /-- NET_CNT_CLEAR (R336): NET_CNT_CTRL CLEAR zeroes the network counters and RETRY. -/
  | netCntClear (req : Requester)
  /-- TIM_ACQUIRE (R347): ACQUIRE starts alignment to the parent or makes a master ALIGNED. -/
  | timAcquire (req : Requester) (v : BitVec 32)
  /-- TIM_DIV_ARM (R339): DIV_ARM arms a divider change or refuses it late. -/
  | timDivArm (req : Requester) (v : BitVec 32)
  /-- DIV_CHANGE (R339): At the named tick all core and mesh dividers change together. -/
  | divChange
  /-- REF_FAIL (R342): The selected reference fails and the PLL holds over. -/
  | refFail (src : Fin 3)
  /-- REF_RETURN (R342): The reference returns and the PLL relocks by slewing. -/
  | refReturn (src : Fin 3)
  /-- PLL_LOCK_LOSS (R340): The root PLL loses lock and every wafer clock stops. -/
  | pllLockLoss
  /-- TIME_FLIT_SEND (R364): An ACTIVE port sends a TIME flit after each 65,536-tick boundary. -/
  | timeFlitSend (p : PortId) (frac : Byte)
  /-- TIME_FLIT_RECEIVE (R348): A TIME marker is received and an exchange corrects the offset. -/
  | timeFlitReceive (p : PortId) (flit : List Byte) (corr uncorr : Nat) (frac : Byte)
  /-- MARKER_LOSS (R347): Parent markers stop for three intervals and the module enters HOLDOVER. -/
  | markerLoss
  /-- HOLDOVER_EXPIRY (R347): HOLDOVER lasts 1 ms and the module becomes UNALIGNED. -/
  | holdoverExpiry
  /-- LNK_ENABLE (R358): Setting EN of LNK_CTRL starts the port in DETECT. -/
  | lnkEnable (req : Requester) (p : PortId) (v : BitVec 32)
  /-- LNK_DISABLE (R358): Clearing EN of LNK_CTRL disables the port. -/
  | lnkDisable (req : Requester) (p : PortId) (v : BitVec 32)
  /-- LNK_RETRAIN (R366): RETRAIN of LNK_CTRL starts PMD re-adaptation on an ACTIVE port. -/
  | lnkRetrain (req : Requester) (p : PortId) (v : BitVec 32)
  /-- LIGHT_DETECT (R358): Light on all eight lanes moves the port to PMD_TRAIN. -/
  | lightDetect (p : PortId)
  /-- LOSS_OF_LIGHT (R366): The port loses light and falls to DETECT, losing link state. -/
  | lossOfLight (p : PortId)
  /-- PMD_TRAIN_DONE (R358): PMD training and FEC lock complete and the port moves to ALIGN. -/
  | pmdTrainDone (p : PortId)
  /-- ALIGN_DONE (R358): Deskew and flit alignment complete and the port moves to INIT. -/
  | alignDone (p : PortId)
  /-- INIT_FLIT_RECEIVE (R359): An INIT flit is checked and the port goes ACTIVE or MISCABLED. -/
  | initFlitReceive (p : PortId) (flit : List Byte) (corr uncorr : Nat)
  /-- TRAIN_TIMEOUT (R358): A training bound is overrun and the port returns to DETECT or FAILED. -/
  | trainTimeout (p : PortId)
  /-- RETRAIN_DONE (R366): RETRAIN ends and replay resumes from ACK + 1. -/
  | retrainDone (p : PortId)
  /-- RETRAIN_TIMEOUT (R358): RETRAIN overruns 100 ms and the port falls to DETECT. -/
  | retrainTimeout (p : PortId)
  /-- DATA_FLIT_RECEIVE (R365): A DATA flit is accepted in sequence or discarded with NAK. -/
  | dataFlitReceive (p : PortId) (flit : List Byte) (corr uncorr : Nat)
  /-- NAK_RECEIVE (R365): A NAK starts replay of every unacknowledged flit. -/
  | nakReceive (p : PortId) (flit : List Byte) (corr uncorr : Nat)
  /-- ACK_TIMEOUT (R365): No ACK advance for 16 µs starts replay. -/
  | ackTimeout (p : PortId)
  /-- LNK_CNT_CLEAR (R384): LNK_CNT_CTRL CLEAR zeroes every counter of the port block. -/
  | lnkCntClear (req : Requester) (p : PortId)
  /-- ETH_FRAME_RECEIVE (R382): An Ethernet-mode frame is checked and its packets passed on or dropped. -/
  | ethFrameReceive (p : PortId) (frame : List Byte)
  /-- TRANSPORT_PACKET_RECEIVE (R378): A transport packet is checked, forwarded, held, delivered or dropped. -/
  | transportPacketReceive
  /-- T_ACK_TIMER (R373): 2 µs after the first unacknowledged packet a T_ACK is sent. -/
  | tAckTimer (node : BitVec 20) (cls : Fin 4)
  /-- T_ACK_RECEIVE (R373): A T_ACK releases acknowledged packets or fails the connection with RESET. -/
  | tAckReceive
  /-- RTO_EXPIRY (R373): RTO passes without progress and the oldest packet is retransmitted. -/
  | rtoExpiry (node : BitVec 20) (cls : Fin 4)
  /-- CONNECTION_FAIL (R377): The oldest packet reaches LIFETIME and the connection fails, handing back messages. -/
  | connectionFail (node : BitVec 20)
  /-- CONN_IDLE_EVICT (R372): A connection idle for the quiet time is evicted. -/
  | connIdleEvict (send : Bool) (node : BitVec 20)
  /-- TRP_CNT_CLEAR (R385): TRP_CNT_CTRL CLEAR zeroes the transport counters. -/
  | trpCntClear (req : Requester)
  /-- TRANSIT_FORWARD (R396): A transit packet is forwarded between ports or dropped without a path. -/
  | transitForward
  /-- RD_RECEIVE (R399): A received RD is checked against the windows and answered. -/
  | rdReceive
  /-- WR_RECEIVE (R402): A received WR is checked and written at the target. -/
  | wrReceive
  /-- ATOMIC_RECEIVE (R410): A received ATOMIC is applied once, cached and answered. -/
  | atomicReceive
  /-- LEASE_RECEIVE (R415): A received LEASE acquire or release is applied to the lock. -/
  | leaseReceive
  /-- INV_RECEIVE (R409): A received INV drops matching copies and is answered. -/
  | invReceive
  /-- DOORBELL_RECEIVE (R418): A received doorbell advances a ring tail or is refused. -/
  | doorbellReceive
  /-- RSP_RECEIVE (R392): A response completes its request with a status, or is discarded as late. -/
  | rspReceive
  /-- REQUEST_RESEND (R412): An unanswered request is resent at 2, 4 and 6 ms. -/
  | requestResend (num : Nat)
  /-- OUTCOME_UNKNOWN (R412): No response by 8 ms completes the request with OUTCOME_UNKNOWN. -/
  | outcomeUnknown (num : Nat)
  /-- LEASE_RETRY (R416): A HELD acquire is presented again at EXPIRY or after 2,500 ticks. -/
  | leaseRetry (num : Nat)
  /-- RCACHE_EXPIRY (R411): A reply-cache entry expires 8 ms after its application. -/
  | rcacheExpiry
  /-- HINGE_HOLD_EXPIRY (R405): HOLD ticks after a batch's first store the hinge sends the batch. -/
  | hingeHoldExpiry (c : CtxId) (node : BitVec 20)
  /-- VBL_TBL_ARM (R401): ARM of VBL_TBL_CTRL arms a window-table switch or refuses it late. -/
  | vblTblArm (req : Requester)
  /-- VBL_TBL_SWITCH (R401): At the named tick the window table copy changes. -/
  | vblTblSwitch
  /-- VBL_CNT_CLEAR (R419): VBL_CNT_CTRL CLEAR zeroes the Virbael counters. -/
  | vblCntClear (req : Requester)
  /-- COLL_READY_RECEIVE (R427): A READY marker is compared with the member's parameters. -/
  | collReadyReceive
  /-- COLL_STEP_LAUNCH (R436): A collective step launches at a grid tick once its conditions hold. -/
  | collStepLaunch (core : CoreId) (slot : SlotId)
  /-- COLL_STEP_DATA_RECEIVE (R429): Step data arrives, is folded or stored, and completes the step with DONE. -/
  | collStepDataReceive
  /-- COLL_DONE_RECEIVE (R436): A DONE marker from a neighbour is recorded. -/
  | collDoneReceive
  /-- COLL_ABORT_RECEIVE (R441): An ABORT ends or pre-records the instance and is forwarded. -/
  | collAbortReceive
  /-- COLL_TIMEOUT (R442): A member without progress for TIMEOUT_S aborts the instance. -/
  | collTimeout (c : CtxId) (num : BitVec 32)
  /-- COLL_STEP_RESEND (R443): A failed connection causes a step's data to be resent once, or LINK_LOST. -/
  | collStepResend
  /-- COL_CNT_CLEAR (R448): COL_CNT_CTRL CLEAR zeroes the collective counters. -/
  | colCntClear (req : Requester) (c : CtxId)
  /-- CTX_LOAD (R462): CTX_CMD LOAD moves an IDLE context to LOADING and starts binding. -/
  | ctxLoad (req : Requester) (c : CtxId)
  /-- BINDING_DONE (R477): Druter finishes or refuses binding the image. -/
  | bindingDone (c : CtxId) (img : Reply) (plan : BindPlan)
  /-- CTX_SEAL (R462): CTX_CMD SEAL moves LOADING to READY. -/
  | ctxSeal (req : Requester) (c : CtxId)
  /-- CTX_START (R463): CTX_CMD START schedules the context to run at its start tick. -/
  | ctxStart (req : Requester) (c : CtxId)
  /-- CTX_START_TICK (R463): At the start tick the context enters RUNNING and its initial tasks start. -/
  | ctxStartTick (c : CtxId)
  /-- CTX_DRAIN (R462): CTX_CMD DRAIN moves RUNNING to DRAINING. -/
  | ctxDrain (req : Requester) (c : CtxId) (retain : Bool)
  /-- DRAIN_COMPLETE (R464): All drain conditions hold and the context tears down to IDLE. -/
  | drainComplete (c : CtxId)
  /-- CTX_KILL (R466): CTX_CMD KILL tears the context down to IDLE. -/
  | ctxKill (req : Requester) (c : CtxId) (retain : Bool)
  /-- BOOT_COMMIT_DONE (R596): The boot-field commit completes and the waiting happening takes effect. -/
  | bootCommitDone
  /-- SHT_RESET (R480): SHT_CTRL RESET tears down a partition's contexts and zeroes its T2. -/
  | shtReset (req : Requester) (p : PartId)
  /-- SHT_CLEAR (R457): SHT_CTRL CLEAR zeroes the partition's misuse counter. -/
  | shtClear (req : Requester) (p : PartId)
  /-- SHT_MOD_CLEAR (R457): SHT_MOD_CTRL CLEAR zeroes the module misuse counter. -/
  | shtModClear (req : Requester)
  /-- SHT_T2_SIZE_WRITE (R453): A checked SLICE_TILES write; from 0 to non-zero starts zeroing. -/
  | shtT2SizeWrite (req : Requester) (p : PartId) (v : BitVec 32)
  /-- T2_ZEROING_DONE (R456): Zeroing of a partition's T2 slices completes. -/
  | t2ZeroingDone (p : PartId)
  /-- EVENT_REPORT (R489): An event report is accepted, routed and written or held. -/
  | eventReport (src : BitVec 16)
  /-- COALESCE_TIMEOUT (R495): TIME_US after the first unsignalled record the queue signals. -/
  | coalesceTimeout (q : QueueId)
  /-- EVC_GDIS_WRITE (R499): Writing GDIS holds or releases all queue writes and signals. -/
  | evcGdisWrite (req : Requester) (v : BitVec 32)
  /-- EVC_QUEUE_ENABLE (R491): Setting EN of a queue resets its indices or is refused. -/
  | evcQueueEnable (req : Requester) (q : QueueId) (v : BitVec 32)
  /-- EVC_HEAD_WRITE (R491): A handler raises HEAD, checked against TAIL. -/
  | evcHeadWrite (req : Requester) (q : QueueId) (v : BitVec 32)
  /-- EVC_DONE (R497): DONE clears SIGNALLED, re-samples level sources and re-judges signalling. -/
  | evcDone (req : Requester) (q : QueueId)
  /-- TARGET_TIMEOUT (R497): SIGNALLED held for ACK_US passes the signal to the next target. -/
  | targetTimeout (q : QueueId)
  /-- ALARM (R501): A filtered alarm-line change is taken and raises ALARM. -/
  | alarm (line : Fin 8) (raw : Bool) (clocks : Fin 65536)
  /-- EVC_CNT_CLEAR (R503): EVC_CNT_CTRL CLEAR zeroes the event-controller counters. -/
  | evcCntClear (req : Requester)
  /-- SCAN_DUE (R517): SINCE_SCAN reaches its period and a scan falls due or is deferred. -/
  | scanDue (pos : PosId) (never : Bool)
  /-- SCAN_REQUEST (R517): REL_SCAN_REQ without CALIB requests a scan of a position. -/
  | scanRequest (req : Requester) (v : BitVec 32) (never : Bool)
  /-- CALIB_REQUEST (R521): REL_SCAN_REQ with CALIB requests a calibration of a position. -/
  | calibRequest (req : Requester) (v : BitVec 32) (never : Bool)
  /-- STEP_BOUNDARY_MIGRATE (R519): At the slot's step boundary the slot migrates to the free position for its test. -/
  | stepBoundaryMigrate (pos : PosId)
  /-- SCAN_COMPLETE (R518): A scan ends in pass or failure and is recorded. -/
  | scanComplete (n : PaneId) (x : ScanResult)
  /-- CALIB_COMPLETE (R543): A calibration sets TRIM and BASELINE and passes or fails. -/
  | calibComplete (r : RegionId) (x : CalibResult)
  /-- REL_FORCE (R520): FORCE of REL_CTX_CTRL runs a deferred test, holding the contexts. -/
  | relForce (req : Requester) (c : CtxId) (v : BitVec 32)
  /-- SUSPECT_CLEAR (R515): CLEAN_HOURS of clean service clears the suspect mark. -/
  | suspectClear (pos : PosId)
  /-- REL_CNT_CLEAR (R527): REL_CNT_CTRL CLEAR zeroes the reliability counters. -/
  | relCntClear (req : Requester)
  /-- PWR_EN_SET (R539): Setting EN brings a region toward ON, or latches PENDING_ON. -/
  | pwrEnSet (req : Requester) (r : RegionId)
  /-- PWR_EN_CLEAR (R539): Clearing EN shuts a region down. -/
  | pwrEnClear (req : Requester) (r : RegionId)
  /-- RAMP_DONE (R539): 2 µs after the first stage the region is ON. -/
  | rampDone (r : RegionId)
  /-- SHUTDOWN_DONE (R539): 1 µs after SHUTTING the region is OFF. -/
  | shutdownDone (r : RegionId)
  /-- MIN_OFF_EXPIRY (R540): The minimum off time ends and a latched or waiting region ramps. -/
  | minOffExpiry (r : RegionId)
  /-- DROOP_TRIP (R536): VCORE falls 4 % below setpoint and the region's clock stretches. -/
  | droopTrip (r : RegionId) (floor : Bool)
  /-- DROOP_RECOVER (R536): VCORE recovers and the clock period returns to nominal. -/
  | droopRecover (r : RegionId)
  /-- REGION_SAG (R537): A region at the floor for 10 µs switches off into SAGGED. -/
  | regionSag (r : RegionId)
  /-- CONTACT_FAULT (R542): A contact estimate or voltage step marks the region CAPPED. -/
  | contactFault (r : RegionId) (step : Option (BitVec 16)) (never : Bool)
  /-- THERM_HIGH (R544): A region reaches 90 °C and thermal pacing begins. -/
  | thermHigh (r : RegionId) (temp : BitVec 16)
  /-- THERM_TRIP (R544): A region reaches 105 °C, stops its clocks and starts power-off. -/
  | thermTrip (r : RegionId) (temp : BitVec 16)
  /-- INPUT_SUPERVISION (R533): The 1 ms bus sample sets the input cap, INPUT_LOW or power-off. -/
  | inputSupervision (x : InputSample)
  /-- COOLANT_SUPERVISION (R546): The 1 ms coolant sample raises COOLANT and applies its action. -/
  | coolantSupervision (x : CoolantSample)
  /-- POWER_CABLE_PULL (R548): The bus collapses below 34 V and the converter layer stops at once. -/
  | powerCablePull (finishes : Bool)
  /-- POWER_ON (R550): The bus reaches 40 V and the power-on sequence runs. -/
  | powerOn (x : CoolantSample) (pairs : Bool)
  /-- POWER_OFF_SEQUENCE (R551): The service controller runs the power-off sequence. -/
  | powerOffSequence
  /-- PWR_CNT_CLEAR (R553): PWR_CNT_CTRL CLEAR zeroes the power counters. -/
  | pwrCntClear (req : Requester)
  /-- TELEMETRY (R559): Management TELEMETRY returns up to 300 telemetry words. -/
  | telemetry (m : MgmtMsg)
  /-- LOG_READ (R560): Management LOG_READ returns up to 32 logged records. -/
  | logRead (m : MgmtMsg)
  /-- PART_RESET (R559): Management PART_RESET writes RESET, or resets the module if wedged. -/
  | partReset (m : MgmtMsg)
  /-- MODULE_RESET (R568): A module reset commits STOP, stops the wafer, holds ports and brings up. -/
  | moduleReset (m : MgmtMsg)
  /-- POWER_OFF (R559): Management POWER_OFF runs the power-off sequence. -/
  | powerOff (m : MgmtMsg)
  /-- DUMP (R570): Management DUMP stops a position and copies its state to the dump area. -/
  | dump (m : MgmtMsg)
  /-- STORE_UPDATE (R559): Management STORE_UPDATE stages section bytes and commits on COMMIT. -/
  | storeUpdate (m : MgmtMsg)
  /-- STATUS (R559): Management STATUS returns the service controller's status. -/
  | status (m : MgmtMsg)
  /-- DRUTER_RESTART (R569): Druter is halted, reloaded and restarted. -/
  | druterRestart (m : MgmtMsg)
  /-- ASSIGN (R559): Management ASSIGN writes the node number and torus position. -/
  | assign (m : MgmtMsg)
  /-- TELEMETRY_PASS (R547): The 1 ms pass samples every sensor and checks the tick counter. -/
  | telemetryPass (x : Telemetry)
  /-- SILL_ENUM (R562): An ENUM frame sets the chain address and is passed down. -/
  | sillEnum (v : Byte)
  /-- SILL_FRAME_FORWARD (R561): A chain frame is taken or forwarded in its direction. -/
  | sillFrameForward (fromUp : Bool) (frame : List Byte) (wedged : Bool)
  /-- SILL_LINK_CHANGE (R562): The DOWN link coming up or down re-enumerates the modules below. -/
  | sillLinkChange
  /-- BEAT (R562): Every 100 ms the service controller sends a BEAT. -/
  | beat
  /-- STORE_COMMIT (R563): A store record is written, committed and the other bank erased. -/
  | storeCommit (ok : Bool)
  /-- SVC_BEAT_WRITE (R569): Druter's heartbeat write restarts the watchdog count. -/
  | svcBeatWrite (req : Requester) (v : BitVec 32)
  /-- DRUTER_WATCHDOG (R569): SEQ unchanged for LIMIT_MS restarts Druter or leaves it halted. -/
  | druterWatchdog
  /-- BRING_UP (R566): Warm or cold bring-up of panes, positions, supervisors and Druter. -/
  | bringUp (plan : BringPlan)
  /-- BOOT_WRAP_HOLD_EXPIRY (R414): 2^36 ticks after a BOOT wrap the ports and loads are released. -/
  | bootWrapHoldExpiry
  /-- TEST_EN_CHANGE (R588): TEST_EN changes and the pane test chain passes to or from the header. -/
  | testEnChange (active : Bool)
  /-- REG64_LOW_READ (R11): A read of a 64-bit low half captures the high half in the requester's shadow. -/
  | reg64LowRead (req : Requester) (addr : BitVec 40)
  /-- REGISTER_WRITE (R12): A write to a register without a row of its own is applied, staged or ignored by its access type. -/
  | registerWrite (req : Requester) (addr : BitVec 40) (v : BitVec 32) (x : WriteSides)
  /-- UNDEF_OP (R138): A task issues an instruction word whose OP is reserved, and the task faults with ILLEGAL_INSTR cause UNDEF_OP.
  `words` is the instruction word and, above it, the extension word that is read with it where EXT is 1. -/
  | undefOp (core : CoreId) (slot : SlotId) (words : BitVec 128)
  /-- BAD_PC (R128): The sequencer fetches at a PC that is misaligned or outside the code region, and the task faults with cause BAD_PC with no word read. -/
  | badPc (core : CoreId) (slot : SlotId) (word : BitVec 64)
  /-- QUIET_TIME_EXPIRY (R374): The quiet time runs out for a message ID block or a generation value, and a message or connection open waiting on it proceeds. -/
  | quietTimeExpiry (node : BitVec 20)
  /-- MGMT_BAD_REQUEST (R558): A management datagram or REQ frame with a reserved OP, a non-zero reserved field or an unlisted sender is answered BAD_REQUEST or dropped and counted in SVC_MGMT_DROP. -/
  | mgmtBadRequest (op : Byte) (m : MgmtMsg)
  deriving DecidableEq, Repr

end Sys2Proof
end

