-- ==== Sys2Proof/Decode.lean ====
section
/-!
DEFINITION. The command that a word spells by the bits of the spec's table of operations and events. No row of the table has bits.
-/
namespace Sys2Proof

/-- No row has bits, so that no word spells a command. -/
def decodeTableWord (_nbits _w : Nat) : Option Instr := none

end Sys2Proof
end

