-- ==== Sys2Proof/Config.lean ====
section
/-!
DEFINITION. What the spec leaves to a part and what it leaves open: constants without a body, so that no proof can see a value.
-/
namespace Sys2Proof

/-- A byte that the module delivers and the spec gives no value for: byte `i` of the `n`-th such delivery (log entry 3). -/
opaque Config.freeByte : Nat → Nat → Byte

/-- Which of several equal choices the module takes: a number for the `n`-th such choice, reduced modulo how many there are
(log entry 4). -/
opaque Config.pick : Nat → Nat

/-- The bytes over which the flow hash of R395 takes its CRC-32C, from the source node, the destination node and the class: the
spec names the three and gives no layout (log entry 8). -/
opaque Config.flowBytes : Nat → Nat → Nat → List Byte

/-- STEPPING of the part, less one: `0x0001` or later (R29, log entry 5). -/
opaque Config.stepping : Fin 65535

end Sys2Proof
end

