-- ==== Sys2Proof/Machine/Bits.lean ====
section
/-!
DEFINITION. Bit fields, sign extension and little-endian byte order (R7, R8).
-/
namespace Sys2Proof

/-- Bits [lo+w-1:lo] of `n` (R7). -/
def field (n lo w : Nat) : Nat := (n >>> lo) % 2 ^ w

/-- Bit `i` of `n`. -/
def bitAt (n i : Nat) : Bool := (n >>> i) % 2 == 1

/-- `n` with bits [lo+w-1:lo] replaced by the low `w` bits of `v`. -/
def setField (n lo w v : Nat) : Nat :=
  n - (field n lo w <<< lo) + ((v % 2 ^ w) <<< lo)

/-- `n` with bit `i` set to `b`. -/
def setBit (n i : Nat) (b : Bool) : Nat := setField n i 1 b.toNat

/-- The low `w` bits of `n` read as two's complement. -/
def toSigned (w n : Nat) : Int :=
  let m := n % 2 ^ w
  if 2 * m < 2 ^ w then (m : Int) else (m : Int) - (2 ^ w : Nat)

/-- The `w`-bit two's complement code of `i`, modulo `2^w`. -/
def ofSigned (w : Nat) (i : Int) : Nat := (i % ((2 ^ w : Nat) : Int)).toNat

/-- The `k` little-endian bytes of `n` (R8). -/
def leBytes : Nat → Nat → List Byte
  | 0, _ => []
  | k + 1, n => BitVec.ofNat 8 n :: leBytes k (n / 256)

/-- The number that little-endian bytes hold (R8). -/
def ofLe : List Byte → Nat
  | [] => 0
  | b :: bs => b.toNat + 256 * ofLe bs

/-- The little-endian field of `w` bytes at byte `off` of a structure. -/
def leAt (bs : List Byte) (off w : Nat) : Nat := ofLe ((bs.drop off).take w)

/-- Every byte of a range is 0. -/
def zeroBytes (bs : List Byte) (off n : Nat) : Bool := ((bs.drop off).take n).all (· == 0#8)

/-- Smallest multiple of `m` at or above `n`. -/
def roundUp (n m : Nat) : Nat := (n + m - 1) / m * m

/-- `⌈n / m⌉`. -/
def ceilDiv (n m : Nat) : Nat := (n + m - 1) / m

/-- Number of set bits among the low `w` bits of `n`. -/
def popCount : Nat → Nat → Nat
  | 0, _ => 0
  | w + 1, n => n % 2 + popCount w (n / 2)

/-- The indexes below `w` of the set bits of `n`, ascending. -/
def setBits (w n : Nat) : List Nat := (List.range w).filter (bitAt n)

end Sys2Proof
end

