-- ==== Sys2Proof/Machine/Regs.lean ====
section
/-!
DEFINITION. The control space map (chapter 22, R10, R590 to R594): blocks, addresses, and every register's fields with
their access type and reset value, as the register tables of the chapters give them. A bit in no field is RSVD.
-/
namespace Sys2Proof

/-- Access types (R12); a bit in no field is RSVD. -/
inductive Access where
  | ro | rw | w1c | wo
  deriving DecidableEq, Repr

/-- One field of a register: low bit, width, access and reset value. -/
structure FieldSpec where
  lo : Nat
  w : Nat
  acc : Access
  reset : Nat
  deriving DecidableEq, Repr

/-- The kinds of register block, one per table of addresses. -/
inductive Block where
  | psw
  | core
  | str
  | syn
  | mig
  | migm
  | lvr
  | lvrm
  | net
  | rt
  | mrg
  | netm
  | tim
  | lnk
  | trp
  | ent
  | vbl
  | win
  | vblc
  | col
  | sht
  | shtm
  | ctx
  | evc
  | evq
  | evs
  | alm
  | ptc
  | ptcp
  | rel
  | relc
  | pwr
  | pwrm
  | svc
  deriving DecidableEq, Repr

/-- Base address of block `b` of agent `a` (R590). -/
def blockBase (a b : Nat) : Nat := a * 0x200000000 + b * 0x1000000

/-- Pane of logical core 16y + x (R49, R52). -/
def paneOf (core : Nat) : Nat := 8 * (core / 16 / 2) + core % 16 / 2

/-- Slot of logical core 16y + x within its pane (R52). -/
def slotOf (core : Nat) : Nat := core % 2 + 2 * (core / 16 % 2)

/-- Logical core of slot `k` of pane `n` (R52). -/
def coreOf (n k : Nat) : Nat := 16 * (2 * (n / 8) + k / 2) + (2 * (n % 8) + k % 2)

/-- Edge agent and block base of port `p` (R384, R592). -/
def portBase (p : Nat) : Nat :=
  let g := p / 5
  blockBase (64 + 8 * (g / 4) + 2 * (g % 4) + 1) (16 + p % 5)

/-- Base address of instance `i` of a block (R591 to R594). Instances are numbered: pane (psw, ptcp), logical core (core, net),
256·core + endpoint (str), 16·core + node (mrg), 128·core + 64·copy + quad (rt), context, partition, port, queue, alarm
line, 5·pane + position (ptc), 6·pane + region (pwr), entry (ent), 1,024·copy + window (win). -/
def Block.base : Block → Nat → Nat
  | .psw, i => blockBase i 3
  | .core, i => blockBase (paneOf i) (4 + slotOf i)
  | .str, i => blockBase (paneOf (i / 256)) (8 + slotOf (i / 256)) + 16 * (i % 256)
  | .syn, i => blockBase 96 20 + 0x40 * i
  | .mig, i => blockBase 96 24 + 0x80 * i
  | .migm, _ => blockBase 96 25
  | .lvr, i => blockBase 96 28 + 0x80 * i
  | .lvrm, _ => blockBase 96 29
  | .net, i => blockBase (paneOf i) 12 + 0x10 * slotOf i
  | .rt, i => blockBase (paneOf (i / 128)) 13 + 0x400 * (i / 64 % 2) + 0x100 * slotOf (i / 128) + 4 * (i % 64)
  | .mrg, i => blockBase (paneOf (i / 16)) 14 + 0x80 * slotOf (i / 16) + 8 * (i % 16)
  | .netm, _ => blockBase 96 32
  | .tim, _ => blockBase 96 16
  | .lnk, i => portBase i
  | .trp, _ => blockBase 96 36
  | .ent, i => blockBase 96 37 + 0x20 * i
  | .vbl, _ => blockBase 96 40
  | .win, i => blockBase 96 41 + 0x8000 * (i / 1024) + 0x20 * (i % 1024)
  | .vblc, i => blockBase 96 42 + 0x20 * i
  | .col, i => blockBase 96 44 + 0x40 * i
  | .sht, i => blockBase 96 48 + 0x40 * i
  | .shtm, _ => blockBase 96 48 + 0x800
  | .ctx, i => blockBase 96 49 + 0x40 * i
  | .evc, _ => blockBase 96 4
  | .evq, i => blockBase 96 4 + 0x100 + 0x80 * i
  | .evs, i => blockBase 96 5 + 4 * i
  | .alm, i => blockBase 96 6 + 0x10 * i
  | .ptc, i => blockBase (i / 5) 2 + 0x10 * (i % 5)
  | .ptcp, i => blockBase i 2
  | .rel, _ => blockBase 96 52
  | .relc, i => blockBase 96 53 + 0x20 * i
  | .pwr, i => blockBase (i / 6) 1 + 0x20 * (i % 6)
  | .pwrm, _ => blockBase 96 56
  | .svc, _ => blockBase 127 0

/-- A register's place: block, instance and offset within the instance. -/
structure Loc where
  blk : Block
  inst : Nat
  off : Nat
  deriving DecidableEq, Repr

/-- Place of a control-space byte address; none for a reserved agent or an unassigned block (R10, R591 to R594). Whether the
offset is assigned is for `regFields` to say. -/
def locate (addr : Nat) : Option Loc :=
  let agent := addr / 0x200000000
  let blk := addr / 0x1000000 % 512
  let off := addr % 0x1000000
  if agent < 64 then
    match blk with
    | 1 => if off < 0xC0 then some ⟨.pwr, 6 * agent + off / 0x20, off % 0x20⟩ else none
    | 2 => if off < 0x50 then some ⟨.ptc, 5 * agent + off / 0x10, off % 0x10⟩ else some ⟨.ptcp, agent, off⟩
    | 3 => some ⟨.psw, agent, off⟩
    | 4 => some ⟨.core, coreOf agent 0, off⟩
    | 5 => some ⟨.core, coreOf agent 1, off⟩
    | 6 => some ⟨.core, coreOf agent 2, off⟩
    | 7 => some ⟨.core, coreOf agent 3, off⟩
    | 8 => if off < 0x1000 then some ⟨.str, 256 * coreOf agent 0 + off / 16, off % 16⟩ else none
    | 9 => if off < 0x1000 then some ⟨.str, 256 * coreOf agent 1 + off / 16, off % 16⟩ else none
    | 10 => if off < 0x1000 then some ⟨.str, 256 * coreOf agent 2 + off / 16, off % 16⟩ else none
    | 11 => if off < 0x1000 then some ⟨.str, 256 * coreOf agent 3 + off / 16, off % 16⟩ else none
    | 12 => if off < 0x40 then some ⟨.net, coreOf agent (off / 0x10), off % 0x10⟩ else none
    | 13 =>
      if off < 0x800 then
        some ⟨.rt, 128 * coreOf agent (off / 0x100 % 4) + 64 * (off / 0x400) + off % 0x100 / 4, off % 4⟩
      else none
    | 14 => if off < 0x200 then some ⟨.mrg, 16 * coreOf agent (off / 0x80) + off % 0x80 / 8, off % 8⟩ else none
    | _ => none
  else if agent < 96 then
    let j := agent % 8
    if j % 2 == 1 && 16 ≤ blk && blk ≤ 20 then
      some ⟨.lnk, 5 * (4 * ((agent - 64) / 8) + (j - 1) / 2) + (blk - 16), off⟩
    else none
  else if agent == 96 then
    match blk with
    | 4 =>
      if off < 0x100 then some ⟨.evc, 0, off⟩
      else if off < 0x500 then some ⟨.evq, (off - 0x100) / 0x80, (off - 0x100) % 0x80⟩ else none
    | 5 => if off < 0x1000 then some ⟨.evs, off / 4, off % 4⟩ else none
    | 6 => if off < 0x80 then some ⟨.alm, off / 0x10, off % 0x10⟩ else none
    | 16 => some ⟨.tim, 0, off⟩
    | 20 => if off < 0x1000 then some ⟨.syn, off / 0x40, off % 0x40⟩ else none
    | 24 => if off < 0x2000 then some ⟨.mig, off / 0x80, off % 0x80⟩ else none
    | 25 => some ⟨.migm, 0, off⟩
    | 28 => if off < 0x2000 then some ⟨.lvr, off / 0x80, off % 0x80⟩ else none
    | 29 => some ⟨.lvrm, 0, off⟩
    | 32 => some ⟨.netm, 0, off⟩
    | 36 => some ⟨.trp, 0, off⟩
    | 37 => if off < 0x8000 then some ⟨.ent, off / 0x20, off % 0x20⟩ else none
    | 40 => some ⟨.vbl, 0, off⟩
    | 41 => if off < 0x10000 then some ⟨.win, 1024 * (off / 0x8000) + off % 0x8000 / 0x20, off % 0x20⟩ else none
    | 42 => if off < 0x800 then some ⟨.vblc, off / 0x20, off % 0x20⟩ else none
    | 44 => if off < 0x1000 then some ⟨.col, off / 0x40, off % 0x40⟩ else none
    | 48 => if off < 0x800 then some ⟨.sht, off / 0x40, off % 0x40⟩ else some ⟨.shtm, 0, off - 0x800⟩
    | 49 => if off < 0x1000 then some ⟨.ctx, off / 0x40, off % 0x40⟩ else none
    | 52 => some ⟨.rel, 0, off⟩
    | 53 => if off < 0x800 then some ⟨.relc, off / 0x20, off % 0x20⟩ else none
    | 56 => some ⟨.pwrm, 0, off⟩
    | _ => none
  else if agent == 127 && blk == 0 then some ⟨.svc, 0, off⟩
  else none

/-- Registers of block `psw` by offset; none where the offset is reserved. -/
def regsPsw (off : Nat) : Option (List FieldSpec) :=
  match off with
  | 0x0 => some [⟨0, 4, .ro, 0xf⟩, ⟨4, 4, .ro, 0xf⟩, ⟨8, 4, .ro, 0xf⟩, ⟨12, 4, .ro, 0xf⟩]   -- PSW_MAP
  | 0x4 => some [⟨0, 4, .rw, 0xf⟩, ⟨4, 4, .rw, 0xf⟩, ⟨8, 4, .rw, 0xf⟩, ⟨12, 4, .rw, 0xf⟩]   -- PSW_NEXT
  | 0x8 => some [⟨0, 1, .wo, 0⟩, ⟨1, 1, .wo, 0⟩]   -- PSW_CTRL
  | 0xc => some [⟨0, 1, .ro, 0⟩, ⟨1, 1, .w1c, 0⟩, ⟨2, 1, .w1c, 0⟩, ⟨3, 1, .w1c, 0⟩, ⟨4, 4, .ro, 0⟩]   -- PSW_STATUS
  | _ => none

/-- Registers of block `core` by offset; none where the offset is reserved. -/
def regsCore (off : Nat) : Option (List FieldSpec) :=
  match off with
  | 0x0 => some [⟨0, 10, .ro, 0⟩, ⟨10, 1, .ro, 0⟩, ⟨16, 16, .ro, 0⟩]   -- CORE_STATUS
  | 0x4 => some [⟨0, 32, .rw, 0⟩]   -- CORE_PRIO
  | 0x8 => some [⟨0, 16, .rw, 0x100⟩]   -- CORE_AGE
  | 0xc => some [⟨0, 1, .wo, 0⟩]   -- CORE_CNT_CTRL
  | 0x10 => some [⟨0, 32, .ro, 0⟩]   -- CORE_ISSUE, low half
  | 0x14 => some [⟨0, 32, .ro, 0⟩]   -- CORE_ISSUE, high half
  | 0x18 => some [⟨0, 32, .ro, 0⟩]   -- CORE_YIELD, low half
  | 0x1c => some [⟨0, 32, .ro, 0⟩]   -- CORE_YIELD, high half
  | 0x20 => some [⟨0, 32, .ro, 0⟩]   -- CORE_ABUSY, low half
  | 0x24 => some [⟨0, 32, .ro, 0⟩]   -- CORE_ABUSY, high half
  | _ => none

/-- Registers of block `str` by offset; none where the offset is reserved. -/
def regsStr (off : Nat) : Option (List FieldSpec) :=
  match off with
  | 0x0 => some [⟨0, 1, .rw, 0⟩, ⟨1, 1, .rw, 0⟩, ⟨3, 1, .rw, 0⟩, ⟨4, 2, .rw, 0⟩, ⟨6, 4, .rw, 0⟩, ⟨10, 6, .rw, 0⟩, ⟨22, 4, .rw, 0⟩, ⟨26, 6, .rw, 0⟩]   -- STR_CFG
  | 0x4 => some [⟨0, 8, .rw, 0⟩, ⟨8, 4, .rw, 0⟩, ⟨12, 4, .rw, 0⟩, ⟨16, 10, .rw, 0⟩, ⟨26, 1, .rw, 0⟩]   -- STR_PEER
  | 0x8 => some [⟨0, 17, .rw, 0⟩, ⟨17, 12, .rw, 0⟩, ⟨29, 1, .rw, 0⟩]   -- STR_RING
  | 0xc => some [⟨0, 13, .ro, 0⟩, ⟨16, 13, .ro, 0⟩, ⟨31, 1, .w1c, 0⟩]   -- STR_LATCH
  | _ => none

/-- Registers of block `syn` by offset; none where the offset is reserved. -/
def regsSyn (off : Nat) : Option (List FieldSpec) :=
  match off with
  | 0x0 => some [⟨0, 6, .rw, 0x14⟩, ⟨8, 1, .rw, 1⟩]   -- SYN_DLM_CTRL
  | 0x4 => some [⟨0, 1, .ro, 0⟩, ⟨1, 1, .w1c, 0⟩, ⟨16, 16, .ro, 0⟩]   -- SYN_DLM_STAT
  | 0x8 => some [⟨0, 32, .ro, 0⟩]   -- SYN_LATE
  | 0xc => some [⟨0, 16, .ro, 0⟩]   -- SYN_THR_GEN
  | 0x10 => some [⟨0, 32, .rw, 0⟩]   -- SYN_TSK_HANDLE
  | 0x14 => some [⟨0, 3, .wo, 0⟩, ⟨16, 16, .wo, 0⟩]   -- SYN_TSK_CMD
  | 0x18 => some [⟨0, 32, .rw, 0⟩]   -- SYN_TSK_ADDR, low half
  | 0x1c => some [⟨0, 12, .rw, 0⟩]   -- SYN_TSK_ADDR, high half
  | 0x20 => some [⟨0, 4, .ro, 0⟩, ⟨31, 1, .ro, 0⟩]   -- SYN_TSK_STATUS
  | _ => none

/-- Registers of block `mig` by offset; none where the offset is reserved. -/
def regsMig (off : Nat) : Option (List FieldSpec) :=
  match off with
  | 0x0 => some [⟨1, 1, .rw, 0⟩, ⟨2, 17, .rw, 0⟩]   -- MIG_CTX_CTRL
  | 0x4 => some [⟨0, 6, .w1c, 0⟩, ⟨8, 3, .ro, 0⟩]   -- MIG_CAUSE
  | 0x8 => some [⟨0, 32, .ro, 0⟩]   -- MIG_FALLBACK, low half
  | 0xc => some [⟨0, 32, .ro, 0⟩]   -- MIG_FALLBACK, high half
  | 0x10 => some [⟨0, 32, .ro, 0⟩]   -- MIG_STALL1, low half
  | 0x14 => some [⟨0, 32, .ro, 0⟩]   -- MIG_STALL1, high half
  | 0x18 => some [⟨0, 32, .ro, 0⟩]   -- MIG_STALL2, low half
  | 0x1c => some [⟨0, 32, .ro, 0⟩]   -- MIG_STALL2, high half
  | 0x20 => some [⟨0, 32, .ro, 0⟩]   -- MIG_STALL3, low half
  | 0x24 => some [⟨0, 32, .ro, 0⟩]   -- MIG_STALL3, high half
  | 0x28 => some [⟨0, 32, .ro, 0⟩]   -- MIG_STALL4, low half
  | 0x2c => some [⟨0, 32, .ro, 0⟩]   -- MIG_STALL4, high half
  | 0x30 => some [⟨0, 32, .ro, 0⟩]   -- MIG_STALL5, low half
  | 0x34 => some [⟨0, 32, .ro, 0⟩]   -- MIG_STALL5, high half
  | 0x38 => some [⟨0, 32, .ro, 0⟩]   -- MIG_STALL6, low half
  | 0x3c => some [⟨0, 32, .ro, 0⟩]   -- MIG_STALL6, high half
  | 0x40 => some [⟨0, 32, .ro, 0⟩]   -- MIG_STALL_TICKS, low half
  | 0x44 => some [⟨0, 32, .ro, 0⟩]   -- MIG_STALL_TICKS, high half
  | 0x48 => some [⟨0, 32, .rw, 0⟩]   -- MIG_RING_BASE, low half
  | 0x4c => some [⟨0, 12, .rw, 0⟩]   -- MIG_RING_BASE, high half
  | 0x50 => some [⟨0, 5, .rw, 4⟩, ⟨31, 1, .rw, 0⟩]   -- MIG_RING_CTRL
  | 0x54 => some [⟨0, 12, .rw, 0⟩]   -- MIG_RING_TAIL
  | 0x58 => some [⟨0, 12, .ro, 0⟩]   -- MIG_RING_HEAD
  | 0x5c => some [⟨0, 8, .ro, 0⟩, ⟨31, 1, .ro, 0⟩]   -- MIG_RING_STATUS
  | 0x60 => some [⟨0, 32, .rw, 0⟩]   -- MIG_APT_BASE, low half
  | 0x64 => some [⟨0, 12, .rw, 0⟩]   -- MIG_APT_BASE, high half
  | 0x68 => some [⟨0, 1, .wo, 0⟩]   -- MIG_CNT_CTRL
  | _ => none

/-- Registers of block `migm` by offset; none where the offset is reserved. -/
def regsMigm (off : Nat) : Option (List FieldSpec) :=
  match off with
  | 0x0 => some [⟨0, 32, .rw, 0x76543210⟩]   -- MIG_SLOT_MAP0
  | 0x4 => some [⟨0, 32, .rw, 0xfedcba98⟩]   -- MIG_SLOT_MAP1
  | 0x8 => some [⟨0, 16, .ro, 0⟩]   -- MIG_CHAN_UP
  | 0xc => some [⟨0, 1, .rw, 1⟩, ⟨8, 8, .rw, 0x18⟩]   -- MIG_SCRUB
  | 0x10 => some [⟨0, 32, .ro, 0⟩]   -- MIG_CE_T0
  | 0x14 => some [⟨0, 32, .ro, 0⟩]   -- MIG_CE_T1
  | 0x18 => some [⟨0, 32, .ro, 0⟩]   -- MIG_CE_T2
  | 0x1c => some [⟨0, 32, .ro, 0⟩]   -- MIG_CE_ACC
  | 0x20 => some [⟨0, 32, .ro, 0⟩]   -- MIG_UE_T0
  | 0x24 => some [⟨0, 32, .ro, 0⟩]   -- MIG_UE_T1
  | 0x28 => some [⟨0, 32, .ro, 0⟩]   -- MIG_UE_T2
  | 0x2c => some [⟨0, 32, .ro, 0⟩]   -- MIG_UE_ACC
  | 0x30 => some [⟨0, 1, .wo, 0⟩]   -- MIG_ERR_CLR
  | _ => none

/-- Registers of block `lvr` by offset; none where the offset is reserved. -/
def regsLvr (off : Nat) : Option (List FieldSpec) :=
  match off with
  | 0x0 => some [⟨0, 32, .rw, 0⟩]   -- LVR_DESC_BASE, low half
  | 0x4 => some [⟨0, 12, .rw, 0⟩]   -- LVR_DESC_BASE, high half
  | 0x8 => some [⟨0, 5, .rw, 4⟩, ⟨31, 1, .rw, 0⟩]   -- LVR_DESC_CTRL
  | 0xc => some [⟨0, 12, .rw, 0⟩]   -- LVR_DESC_TAIL
  | 0x10 => some [⟨0, 12, .ro, 0⟩]   -- LVR_DESC_HEAD
  | 0x14 => some [⟨0, 8, .ro, 0⟩, ⟨24, 3, .ro, 0⟩, ⟨31, 1, .ro, 0⟩]   -- LVR_STATUS
  | 0x18 => some [⟨0, 16, .rw, 0⟩]   -- LVR_KEYMASK
  | 0x1c => some [⟨0, 2, .wo, 0⟩]   -- LVR_SWAP_CMD
  | 0x20 => some [⟨0, 32, .ro, 0⟩]   -- LVR_STEP, low half
  | 0x24 => some [⟨0, 32, .ro, 0⟩]   -- LVR_STEP, high half
  | 0x28 => some [⟨0, 32, .rw, 0⟩]   -- LVR_MAN_BASE, low half
  | 0x2c => some [⟨0, 12, .rw, 0⟩]   -- LVR_MAN_BASE, high half
  | 0x30 => some [⟨0, 32, .rw, 0⟩]   -- LVR_PLACE_BASE, low half
  | 0x34 => some [⟨0, 12, .rw, 0⟩]   -- LVR_PLACE_BASE, high half
  | 0x38 => some [⟨0, 32, .rw, 0⟩]   -- LVR_SRC_BASE, low half
  | 0x3c => some [⟨0, 12, .rw, 0⟩]   -- LVR_SRC_BASE, high half
  | 0x40 => some [⟨0, 32, .rw, 0⟩]   -- LVR_SWAP_BASE, low half
  | 0x44 => some [⟨0, 12, .rw, 0⟩]   -- LVR_SWAP_BASE, high half
  | 0x48 => some [⟨0, 25, .rw, 0⟩]   -- LVR_SWAP_TILES
  | 0x4c => some [⟨0, 7, .rw, 8⟩]   -- LVR_CHUNK_CTRL
  | 0x50 => some [⟨0, 32, .rw, 0⟩]   -- LVR_CHUNK_BASE, low half
  | 0x54 => some [⟨0, 12, .rw, 0⟩]   -- LVR_CHUNK_BASE, high half
  | 0x58 => some [⟨0, 8, .rw, 0x1e⟩, ⟨8, 8, .rw, 0xa⟩]   -- LVR_TIMEOUT
  | 0x5c => some [⟨0, 8, .rw, 0⟩, ⟨8, 1, .rw, 0⟩]   -- LVR_PAYLOAD_APT
  | 0x60 => some [⟨0, 32, .ro, 0⟩]   -- LVR_HASH_RETRY, low half
  | 0x64 => some [⟨0, 32, .ro, 0⟩]   -- LVR_HASH_RETRY, high half
  | 0x68 => some [⟨0, 32, .ro, 0⟩]   -- LVR_HOLD_TICKS, low half
  | 0x6c => some [⟨0, 32, .ro, 0⟩]   -- LVR_HOLD_TICKS, high half
  | 0x70 => some [⟨0, 32, .ro, 0⟩]   -- LVR_BYTES_IN, low half
  | 0x74 => some [⟨0, 32, .ro, 0⟩]   -- LVR_BYTES_IN, high half
  | 0x78 => some [⟨0, 1, .wo, 0⟩]   -- LVR_CNT_CTRL
  | _ => none

/-- Registers of block `lvrm` by offset; none where the offset is reserved. -/
def regsLvrm (off : Nat) : Option (List FieldSpec) :=
  match off with
  | 0x0 => some [⟨0, 32, .rw, 0⟩]   -- LVR_KEY_STATE
  | 0x4 => some [⟨0, 32, .rw, 0⟩]   -- LVR_KEY_ID
  | 0x8 => some [⟨0, 32, .rw, 0⟩]   -- LVR_KEY_ID
  | 0xc => some [⟨0, 32, .rw, 0⟩]   -- LVR_KEY_ID
  | 0x10 => some [⟨0, 32, .rw, 0⟩]   -- LVR_KEY_ID
  | 0x14 => some [⟨0, 32, .rw, 0⟩]   -- LVR_KEY_ID
  | 0x18 => some [⟨0, 32, .rw, 0⟩]   -- LVR_KEY_ID
  | 0x1c => some [⟨0, 32, .rw, 0⟩]   -- LVR_KEY_ID
  | 0x20 => some [⟨0, 32, .rw, 0⟩]   -- LVR_KEY_ID
  | 0x24 => some [⟨0, 32, .rw, 0⟩]   -- LVR_KEY_ID
  | 0x28 => some [⟨0, 32, .rw, 0⟩]   -- LVR_KEY_ID
  | 0x2c => some [⟨0, 32, .rw, 0⟩]   -- LVR_KEY_ID
  | 0x30 => some [⟨0, 32, .rw, 0⟩]   -- LVR_KEY_ID
  | 0x34 => some [⟨0, 32, .rw, 0⟩]   -- LVR_KEY_ID
  | 0x38 => some [⟨0, 32, .rw, 0⟩]   -- LVR_KEY_ID
  | 0x3c => some [⟨0, 32, .rw, 0⟩]   -- LVR_KEY_ID
  | 0x40 => some [⟨0, 32, .rw, 0⟩]   -- LVR_KEY_ID
  | 0x44 => some [⟨0, 32, .ro, 0⟩]   -- LVR_SIG_FAILS
  | 0x48 => some [⟨0, 32, .ro, 0⟩]   -- LVR_HASH_FAILS
  | 0x4c => some [⟨0, 1, .wo, 0⟩]   -- LVR_FAIL_CLR
  | _ => none

/-- Registers of block `net` by offset; none where the offset is reserved. -/
def regsNet (off : Nat) : Option (List FieldSpec) :=
  match off with
  | 0x0 => some [⟨0, 4, .ro, 0⟩, ⟨4, 4, .ro, 0⟩, ⟨8, 4, .ro, 0⟩, ⟨12, 4, .ro, 0⟩, ⟨16, 1, .ro, 1⟩]   -- NET_LINK
  | 0x4 => some [⟨0, 16, .ro, 0⟩]   -- NET_LINK_ERR
  | 0x8 => some [⟨0, 5, .ro, 0⟩, ⟨16, 7, .ro, 0⟩]   -- NET_MERGE_USE
  | _ => none

/-- Registers of block `rt` by offset; none where the offset is reserved. -/
def regsRt (off : Nat) : Option (List FieldSpec) :=
  match off with
  | 0x0 => some [⟨0, 3, .rw, 5⟩, ⟨3, 2, .rw, 0⟩, ⟨8, 3, .rw, 5⟩, ⟨11, 2, .rw, 0⟩, ⟨16, 3, .rw, 5⟩, ⟨19, 2, .rw, 0⟩, ⟨24, 3, .rw, 5⟩, ⟨27, 2, .rw, 0⟩]   -- NET_RT
  | _ => none

/-- Registers of block `mrg` by offset; none where the offset is reserved. -/
def regsMrg (off : Nat) : Option (List FieldSpec) :=
  match off with
  | 0x0 => some [⟨0, 8, .rw, 0⟩, ⟨8, 4, .rw, 0⟩, ⟨12, 4, .rw, 0⟩, ⟨22, 1, .rw, 0⟩, ⟨23, 1, .rw, 0⟩, ⟨24, 6, .rw, 0⟩, ⟨30, 1, .rw, 0⟩, ⟨31, 1, .rw, 0⟩]   -- MRG_NODE_LO
  | 0x4 => some [⟨26, 6, .rw, 0⟩]   -- MRG_NODE_HI
  | _ => none

/-- Registers of block `netm` by offset; none where the offset is reserved. -/
def regsNetm (off : Nat) : Option (List FieldSpec) :=
  match off with
  | 0x0 => some [⟨0, 1, .ro, 0⟩, ⟨1, 1, .wo, 0⟩]   -- NET_TBL_CTRL
  | 0x4 => some [⟨0, 1, .ro, 0⟩, ⟨1, 1, .ro, 0⟩, ⟨2, 1, .w1c, 0⟩, ⟨3, 1, .w1c, 0⟩]   -- NET_TBL_STATUS
  | 0x8 => some [⟨0, 32, .rw, 0⟩]   -- NET_SWITCH_TICK, low half
  | 0xc => some [⟨0, 32, .rw, 0⟩]   -- NET_SWITCH_TICK, high half
  | 0x10 => some [⟨0, 1, .wo, 0⟩]   -- NET_CNT_CTRL
  | 0x14 => some [⟨0, 32, .ro, 0⟩]   -- NET_EX_SRC_HELD
  | 0x18 => some [⟨0, 32, .ro, 0⟩]   -- NET_EX_LINK_HELD
  | 0x1c => some [⟨0, 32, .ro, 0⟩]   -- NET_SHUT_DROP
  | 0x20 => some [⟨0, 32, .ro, 0⟩]   -- NET_LOST
  | 0x24 => some [⟨0, 32, .ro, 0⟩]   -- NET_UNREACH
  | 0x28 => some [⟨0, 32, .ro, 0⟩]   -- NET_LINK_FENCES
  | _ => none

/-- Registers of block `tim` by offset; none where the offset is reserved. -/
def regsTim (off : Nat) : Option (List FieldSpec) :=
  match off with
  | 0x0 => some [⟨0, 32, .ro, 0⟩]   -- TIM_TICK, low half
  | 0x4 => some [⟨0, 32, .ro, 0⟩]   -- TIM_TICK, high half
  | 0x8 => some [⟨0, 2, .rw, 0⟩, ⟨2, 7, .rw, 0⟩, ⟨16, 1, .rw, 0⟩, ⟨17, 1, .rw, 0⟩, ⟨30, 1, .wo, 0⟩, ⟨31, 1, .wo, 0⟩]   -- TIM_CTRL
  | 0xc => some [⟨0, 3, .ro, 0⟩, ⟨5, 1, .ro, 0⟩, ⟨6, 1, .ro, 0⟩, ⟨7, 1, .ro, 0⟩, ⟨8, 1, .ro, 0⟩, ⟨9, 1, .w1c, 0⟩, ⟨10, 1, .w1c, 0⟩]   -- TIM_STATUS
  | 0x10 => some [⟨0, 32, .ro, 0⟩]   -- TIM_OFFSET
  | 0x14 => some [⟨0, 32, .ro, 0⟩]   -- TIM_DELAY
  | 0x18 => some [⟨0, 32, .rw, 0⟩]   -- TIM_DIV_TICK, low half
  | 0x1c => some [⟨0, 32, .rw, 0⟩]   -- TIM_DIV_TICK, high half
  | 0x20 => some [⟨0, 32, .rw, 0⟩]   -- TIM_SET, low half
  | 0x24 => some [⟨0, 32, .rw, 0⟩]   -- TIM_SET, high half
  | 0x28 => some [⟨0, 16, .ro, 0⟩]   -- TIM_SKEW
  | _ => none

/-- Registers of block `lnk` by offset; none where the offset is reserved. -/
def regsLnk (off : Nat) : Option (List FieldSpec) :=
  match off with
  | 0x0 => some [⟨0, 1, .rw, 0⟩, ⟨1, 1, .rw, 0⟩, ⟨2, 1, .rw, 1⟩, ⟨3, 1, .wo, 0⟩]   -- LNK_CTRL
  | 0x4 => some [⟨0, 4, .ro, 0⟩, ⟨4, 4, .ro, 0⟩]   -- LNK_STATUS
  | 0x8 => some [⟨0, 20, .ro, 0⟩, ⟨21, 2, .ro, 0⟩, ⟨23, 3, .ro, 0⟩]   -- LNK_FAR0
  | 0xc => some [⟨0, 8, .ro, 0⟩, ⟨8, 8, .ro, 0⟩]   -- LNK_FAR1
  | 0x10 => some [⟨0, 32, .ro, 0⟩]   -- LNK_FEC_CORR, low half
  | 0x14 => some [⟨0, 32, .ro, 0⟩]   -- LNK_FEC_CORR, high half
  | 0x18 => some [⟨0, 32, .ro, 0⟩]   -- LNK_FEC_UNCORR, low half
  | 0x1c => some [⟨0, 32, .ro, 0⟩]   -- LNK_FEC_UNCORR, high half
  | 0x20 => some [⟨0, 32, .ro, 0⟩]   -- LNK_CRC_ERR, low half
  | 0x24 => some [⟨0, 32, .ro, 0⟩]   -- LNK_CRC_ERR, high half
  | 0x28 => some [⟨0, 32, .ro, 0⟩]   -- LNK_REPLAY, low half
  | 0x2c => some [⟨0, 32, .ro, 0⟩]   -- LNK_REPLAY, high half
  | 0x30 => some [⟨0, 32, .ro, 0⟩]   -- LNK_TX_FLITS, low half
  | 0x34 => some [⟨0, 32, .ro, 0⟩]   -- LNK_TX_FLITS, high half
  | 0x38 => some [⟨0, 32, .ro, 0⟩]   -- LNK_RX_FLITS, low half
  | 0x3c => some [⟨0, 32, .ro, 0⟩]   -- LNK_RX_FLITS, high half
  | 0x40 => some [⟨0, 32, .ro, 0⟩]   -- LNK_TRAIN_FAIL
  | 0x44 => some [⟨0, 32, .ro, 0⟩]   -- LNK_RETRAINS
  | 0x48 => some [⟨0, 32, .ro, 0⟩]   -- LNK_SHARE_DROP
  | 0x4c => some [⟨0, 32, .ro, 0⟩]   -- LNK_AGE_DROP
  | 0x50 => some [⟨0, 32, .ro, 0⟩]   -- LNK_ETH_DROP
  | 0x54 => some [⟨0, 1, .wo, 0⟩]   -- LNK_CNT_CTRL
  | 0x60 => some [⟨0, 32, .rw, 0⟩]   -- LNK_ETH_MAC_LO
  | 0x64 => some [⟨0, 16, .rw, 0⟩]   -- LNK_ETH_MAC_HI
  | 0x68 => some [⟨0, 12, .rw, 1⟩, ⟨16, 16, .rw, 0x4a58⟩]   -- LNK_ETH_CFG
  | 0x6c => some [⟨0, 14, .rw, 0x2400⟩]   -- LNK_ETH_MTU
  | 0x70 => some [⟨0, 32, .rw, 0⟩]   -- LNK_ETH_IP
  | 0x74 => some [⟨0, 32, .rw, 0⟩]   -- LNK_ETH_IP
  | 0x78 => some [⟨0, 32, .rw, 0⟩]   -- LNK_ETH_IP
  | 0x7c => some [⟨0, 32, .rw, 0⟩]   -- LNK_ETH_IP
  | 0x80 => some [⟨0, 24, .rw, 0⟩, ⟨24, 7, .rw, 0⟩]   -- LNK_SHARE
  | 0x84 => some [⟨0, 24, .rw, 0⟩, ⟨24, 7, .rw, 0⟩]   -- LNK_SHARE
  | 0x88 => some [⟨0, 24, .rw, 0⟩, ⟨24, 7, .rw, 0⟩]   -- LNK_SHARE
  | 0x8c => some [⟨0, 24, .rw, 0⟩, ⟨24, 7, .rw, 0⟩]   -- LNK_SHARE
  | 0x90 => some [⟨0, 24, .rw, 0⟩, ⟨24, 7, .rw, 0⟩]   -- LNK_SHARE
  | 0x94 => some [⟨0, 24, .rw, 0⟩, ⟨24, 7, .rw, 0⟩]   -- LNK_SHARE
  | 0x98 => some [⟨0, 24, .rw, 0⟩, ⟨24, 7, .rw, 0⟩]   -- LNK_SHARE
  | 0x9c => some [⟨0, 24, .rw, 0⟩, ⟨24, 7, .rw, 0⟩]   -- LNK_SHARE
  | 0xa0 => some [⟨0, 24, .rw, 0⟩, ⟨24, 7, .rw, 0⟩]   -- LNK_SHARE
  | 0xa4 => some [⟨0, 24, .rw, 0⟩, ⟨24, 7, .rw, 0⟩]   -- LNK_SHARE
  | 0xa8 => some [⟨0, 24, .rw, 0⟩, ⟨24, 7, .rw, 0⟩]   -- LNK_SHARE
  | 0xac => some [⟨0, 24, .rw, 0⟩, ⟨24, 7, .rw, 0⟩]   -- LNK_SHARE
  | 0xb0 => some [⟨0, 24, .rw, 0⟩, ⟨24, 7, .rw, 0⟩]   -- LNK_SHARE
  | 0xb4 => some [⟨0, 24, .rw, 0⟩, ⟨24, 7, .rw, 0⟩]   -- LNK_SHARE
  | 0xb8 => some [⟨0, 24, .rw, 0⟩, ⟨24, 7, .rw, 0⟩]   -- LNK_SHARE
  | 0xbc => some [⟨0, 24, .rw, 0⟩, ⟨24, 7, .rw, 0⟩]   -- LNK_SHARE
  | 0xc0 => some [⟨0, 24, .rw, 0⟩, ⟨24, 7, .rw, 0⟩]   -- LNK_SHARE
  | 0xc4 => some [⟨0, 24, .rw, 0⟩, ⟨24, 7, .rw, 0⟩]   -- LNK_SHARE
  | 0xc8 => some [⟨0, 24, .rw, 0⟩, ⟨24, 7, .rw, 0⟩]   -- LNK_SHARE
  | 0xcc => some [⟨0, 24, .rw, 0⟩, ⟨24, 7, .rw, 0⟩]   -- LNK_SHARE
  | 0xd0 => some [⟨0, 24, .rw, 0⟩, ⟨24, 7, .rw, 0⟩]   -- LNK_SHARE
  | 0xd4 => some [⟨0, 24, .rw, 0⟩, ⟨24, 7, .rw, 0⟩]   -- LNK_SHARE
  | 0xd8 => some [⟨0, 24, .rw, 0⟩, ⟨24, 7, .rw, 0⟩]   -- LNK_SHARE
  | 0xdc => some [⟨0, 24, .rw, 0⟩, ⟨24, 7, .rw, 0⟩]   -- LNK_SHARE
  | 0xe0 => some [⟨0, 24, .rw, 0⟩, ⟨24, 7, .rw, 0⟩]   -- LNK_SHARE
  | 0xe4 => some [⟨0, 24, .rw, 0⟩, ⟨24, 7, .rw, 0⟩]   -- LNK_SHARE
  | 0xe8 => some [⟨0, 24, .rw, 0⟩, ⟨24, 7, .rw, 0⟩]   -- LNK_SHARE
  | 0xec => some [⟨0, 24, .rw, 0⟩, ⟨24, 7, .rw, 0⟩]   -- LNK_SHARE
  | 0xf0 => some [⟨0, 24, .rw, 0⟩, ⟨24, 7, .rw, 0⟩]   -- LNK_SHARE
  | 0xf4 => some [⟨0, 24, .rw, 0⟩, ⟨24, 7, .rw, 0⟩]   -- LNK_SHARE
  | 0xf8 => some [⟨0, 24, .rw, 0⟩, ⟨24, 7, .rw, 0⟩]   -- LNK_SHARE
  | 0xfc => some [⟨0, 24, .rw, 0⟩, ⟨24, 7, .rw, 0⟩]   -- LNK_SHARE
  | _ => none

/-- Registers of block `trp` by offset; none where the offset is reserved. -/
def regsTrp (off : Nat) : Option (List FieldSpec) :=
  match off with
  | 0x0 => some [⟨0, 16, .rw, 0xfa0⟩]   -- TRP_LIFETIME
  | 0x4 => some [⟨0, 16, .rw, 0x64⟩]   -- TRP_RTO
  | 0x8 => some [⟨0, 16, .ro, 0⟩, ⟨16, 16, .ro, 0⟩]   -- TRP_STATUS
  | 0xc => some [⟨0, 32, .ro, 0⟩]   -- TRP_GEN_DROP
  | 0x10 => some [⟨0, 32, .ro, 0⟩]   -- TRP_DUP
  | 0x14 => some [⟨0, 32, .ro, 0⟩]   -- TRP_RETX
  | 0x18 => some [⟨0, 32, .ro, 0⟩]   -- TRP_GIVEUP
  | 0x1c => some [⟨0, 32, .ro, 0⟩]   -- TRP_ID_WAIT
  | 0x20 => some [⟨0, 32, .ro, 0⟩]   -- TRP_BAD_PKT
  | 0x24 => some [⟨0, 32, .ro, 0⟩]   -- TRP_CONN_FULL
  | 0x28 => some [⟨0, 1, .wo, 0⟩]   -- TRP_CNT_CTRL
  | _ => none

/-- Registers of block `ent` by offset; none where the offset is reserved. -/
def regsEnt (off : Nat) : Option (List FieldSpec) :=
  match off with
  | 0x0 => some [⟨0, 20, .rw, 0⟩, ⟨31, 1, .rw, 0⟩]   -- ENT_KEY
  | 0x4 => some [⟨0, 32, .rw, 0⟩]   -- ENT_IP
  | 0x8 => some [⟨0, 32, .rw, 0⟩]   -- ENT_IP
  | 0xc => some [⟨0, 32, .rw, 0⟩]   -- ENT_IP
  | 0x10 => some [⟨0, 32, .rw, 0⟩]   -- ENT_IP
  | 0x14 => some [⟨0, 32, .rw, 0⟩]   -- ENT_MAC_LO
  | 0x18 => some [⟨0, 16, .rw, 0⟩]   -- ENT_MAC_HI
  | 0x1c => some [⟨0, 32, .rw, 0⟩]   -- ENT_PORTS
  | _ => none

/-- Registers of block `vbl` by offset; none where the offset is reserved. -/
def regsVbl (off : Nat) : Option (List FieldSpec) :=
  match off with
  | 0x0 => some [⟨0, 20, .rw, 0⟩, ⟨31, 1, .rw, 0⟩]   -- VBL_NODE
  | 0x4 => some [⟨0, 6, .rw, 0⟩, ⟨6, 5, .rw, 0⟩, ⟨11, 5, .rw, 0⟩, ⟨16, 6, .rw, 0⟩, ⟨22, 5, .rw, 0⟩, ⟨27, 5, .rw, 0⟩]   -- VBL_TORUS
  | 0x8 => some [⟨0, 20, .rw, 0⟩, ⟨31, 1, .rw, 0⟩]   -- VBL_GW
  | 0xc => some [⟨0, 16, .rw, 0xfa⟩]   -- VBL_HINGE
  | 0x10 => some [⟨0, 1, .ro, 0⟩, ⟨1, 1, .wo, 0⟩]   -- VBL_TBL_CTRL
  | 0x14 => some [⟨0, 1, .ro, 0⟩, ⟨1, 1, .ro, 0⟩, ⟨2, 1, .w1c, 0⟩, ⟨3, 1, .w1c, 0⟩]   -- VBL_TBL_STATUS
  | 0x18 => some [⟨0, 32, .rw, 0⟩]   -- VBL_SWITCH_TICK, low half
  | 0x1c => some [⟨0, 32, .rw, 0⟩]   -- VBL_SWITCH_TICK, high half
  | 0x20 => some [⟨0, 16, .ro, 0⟩]   -- VBL_BOOT
  | 0x24 => some [⟨0, 32, .ro, 0⟩]   -- VBL_RX_DENIED
  | 0x28 => some [⟨0, 32, .ro, 0⟩]   -- VBL_FWD_DROP
  | 0x2c => some [⟨0, 32, .ro, 0⟩]   -- VBL_RCACHE_HIT
  | 0x30 => some [⟨0, 32, .ro, 0⟩]   -- VBL_RCACHE_FULL
  | 0x34 => some [⟨0, 32, .ro, 0⟩]   -- VBL_LATE_RSP
  | 0x38 => some [⟨0, 32, .ro, 0⟩]   -- VBL_EX_DEMOTED
  | 0x3c => some [⟨0, 1, .wo, 0⟩]   -- VBL_CNT_CTRL
  | _ => none

/-- Registers of block `win` by offset; none where the offset is reserved. -/
def regsWin (off : Nat) : Option (List FieldSpec) :=
  match off with
  | 0x0 => some [⟨0, 24, .rw, 0⟩, ⟨30, 1, .rw, 0⟩, ⟨31, 1, .rw, 0⟩]   -- WIN_KEY
  | 0x4 => some [⟨0, 4, .rw, 0⟩, ⟨24, 2, .rw, 0⟩, ⟨26, 6, .rw, 0⟩]   -- WIN_TGT
  | 0x8 => some [⟨0, 32, .rw, 0⟩]   -- WIN_BASE, low half
  | 0xc => some [⟨0, 12, .rw, 0⟩]   -- WIN_BASE, high half
  | 0x10 => some [⟨0, 32, .rw, 0⟩]   -- WIN_LIMIT, low half
  | 0x14 => some [⟨0, 12, .rw, 0⟩]   -- WIN_LIMIT, high half
  | 0x18 => some [⟨0, 32, .rw, 0⟩]   -- WIN_TARGET, low half
  | 0x1c => some [⟨0, 12, .rw, 0⟩]   -- WIN_TARGET, high half
  | _ => none

/-- Registers of block `vblc` by offset; none where the offset is reserved. -/
def regsVblc (off : Nat) : Option (List FieldSpec) :=
  match off with
  | 0x0 => some [⟨30, 1, .rw, 0⟩, ⟨31, 1, .rw, 0⟩]   -- VBL_CTX_CTRL
  | 0x4 => some [⟨0, 32, .ro, 0⟩]   -- VBL_INC
  | 0x8 => some [⟨0, 32, .ro, 0⟩]   -- VBL_UNKNOWN
  | 0xc => some [⟨0, 32, .ro, 0⟩]   -- VBL_DENIED
  | 0x10 => some [⟨0, 32, .ro, 0⟩]   -- VBL_UNREACH
  | _ => none

/-- Registers of block `col` by offset; none where the offset is reserved. -/
def regsCol (off : Nat) : Option (List FieldSpec) :=
  match off with
  | 0x0 => some [⟨0, 13, .rw, 0x100⟩, ⟨16, 5, .rw, 0xa⟩, ⟨24, 8, .rw, 0x1e⟩]   -- COL_CTX_CTRL
  | 0x4 => some [⟨0, 32, .rw, 0⟩]   -- COL_SCRATCH, low half
  | 0x8 => some [⟨0, 12, .rw, 0⟩]   -- COL_SCRATCH, high half
  | 0xc => some [⟨0, 24, .rw, 0⟩]   -- COL_SCRATCH_TILES
  | 0x10 => some [⟨0, 8, .ro, 0⟩, ⟨16, 8, .ro, 0⟩, ⟨24, 7, .ro, 0⟩]   -- COL_STATUS
  | 0x14 => some [⟨0, 32, .ro, 0⟩]   -- COL_DONE
  | 0x18 => some [⟨0, 32, .ro, 0⟩]   -- COL_ABORTS
  | 0x1c => some [⟨0, 32, .ro, 0⟩]   -- COL_SLIPS
  | 0x20 => some [⟨0, 32, .ro, 0⟩]   -- COL_STRAY
  | 0x24 => some [⟨0, 32, .ro, 0⟩]   -- COL_DROPPED, low half
  | 0x28 => some [⟨0, 32, .ro, 0⟩]   -- COL_DROPPED, high half
  | 0x2c => some [⟨0, 32, .ro, 0⟩]   -- COL_WAIT_TICKS, low half
  | 0x30 => some [⟨0, 32, .ro, 0⟩]   -- COL_WAIT_TICKS, high half
  | 0x34 => some [⟨0, 1, .wo, 0⟩]   -- COL_CNT_CTRL
  | _ => none

/-- Registers of block `sht` by offset; none where the offset is reserved. -/
def regsSht (off : Nat) : Option (List FieldSpec) :=
  match off with
  | 0x0 => some [⟨0, 4, .rw, 0⟩, ⟨4, 4, .rw, 0⟩, ⟨8, 4, .rw, 0⟩, ⟨12, 4, .rw, 0⟩, ⟨31, 1, .rw, 0⟩]   -- SHT_RECT
  | 0x4 => some [⟨0, 25, .rw, 0⟩]   -- SHT_T2_BASE
  | 0x8 => some [⟨0, 25, .rw, 0⟩]   -- SHT_T2_SIZE
  | 0xc => some [⟨0, 32, .rw, 0⟩]   -- SHT_PORTS
  | 0x10 => some [⟨0, 6, .rw, 0⟩, ⟨8, 1, .rw, 0⟩]   -- SHT_CFG
  | 0x14 => some [⟨0, 1, .wo, 0⟩, ⟨1, 1, .wo, 0⟩]   -- SHT_CTRL
  | 0x18 => some [⟨0, 1, .ro, 0⟩, ⟨1, 1, .ro, 0⟩, ⟨2, 1, .ro, 0⟩, ⟨3, 1, .ro, 0⟩, ⟨8, 8, .ro, 0⟩]   -- SHT_STATUS
  | 0x1c => some [⟨0, 32, .ro, 0⟩]   -- SHT_MISUSE
  | _ => none

/-- Registers of block `shtm` by offset; none where the offset is reserved. -/
def regsShtm (off : Nat) : Option (List FieldSpec) :=
  match off with
  | 0x0 => some [⟨0, 32, .ro, 0⟩]   -- SHT_MOD_MISUSE
  | 0x4 => some [⟨0, 1, .wo, 0⟩]   -- SHT_MOD_CTRL
  | _ => none

/-- Registers of block `ctx` by offset; none where the offset is reserved. -/
def regsCtx (off : Nat) : Option (List FieldSpec) :=
  match off with
  | 0x0 => some [⟨0, 5, .rw, 0⟩, ⟨31, 1, .rw, 0⟩]   -- CTX_CFG
  | 0x4 => some [⟨0, 24, .rw, 0⟩]   -- CTX_JOB
  | 0x8 => some [⟨0, 1, .rw, 0⟩]   -- CTX_OPT
  | 0xc => some [⟨0, 3, .wo, 0⟩, ⟨8, 1, .wo, 0⟩]   -- CTX_CMD
  | 0x10 => some [⟨0, 8, .ro, 0⟩, ⟨8, 8, .ro, 0⟩, ⟨16, 3, .ro, 0⟩, ⟨31, 1, .ro, 0⟩]   -- CTX_STATUS
  | 0x14 => some [⟨0, 8, .ro, 0⟩, ⟨8, 24, .ro, 0⟩]   -- CTX_FAULT
  | 0x18 => some [⟨0, 32, .rw, 0⟩]   -- CTX_SEED, low half
  | 0x1c => some [⟨0, 32, .rw, 0⟩]   -- CTX_SEED, high half
  | 0x20 => some [⟨0, 32, .rw, 0⟩]   -- CTX_IMAGE, low half
  | 0x24 => some [⟨0, 32, .rw, 0⟩]   -- CTX_IMAGE, high half
  | 0x28 => some [⟨0, 32, .rw, 0⟩]   -- CTX_START_TICK, low half
  | 0x2c => some [⟨0, 32, .rw, 0⟩]   -- CTX_START_TICK, high half
  | _ => none

/-- Registers of block `evc` by offset; none where the offset is reserved. -/
def regsEvc (off : Nat) : Option (List FieldSpec) :=
  match off with
  | 0x0 => some [⟨0, 1, .rw, 1⟩]   -- EVC_CTRL
  | 0x4 => some [⟨0, 13, .ro, 0⟩]   -- EVC_STATUS
  | 0x8 => some [⟨0, 32, .ro, 0⟩]   -- EVC_MASKED
  | 0xc => some [⟨0, 32, .ro, 0⟩]   -- EVC_DROPPED
  | 0x10 => some [⟨0, 1, .wo, 0⟩]   -- EVC_CNT_CTRL
  | 0x40 => some [⟨0, 3, .rw, 0⟩, ⟨31, 1, .rw, 0⟩]   -- EVC_PART_Q
  | 0x44 => some [⟨0, 3, .rw, 0⟩, ⟨31, 1, .rw, 0⟩]   -- EVC_PART_Q
  | 0x48 => some [⟨0, 3, .rw, 0⟩, ⟨31, 1, .rw, 0⟩]   -- EVC_PART_Q
  | 0x4c => some [⟨0, 3, .rw, 0⟩, ⟨31, 1, .rw, 0⟩]   -- EVC_PART_Q
  | 0x50 => some [⟨0, 3, .rw, 0⟩, ⟨31, 1, .rw, 0⟩]   -- EVC_PART_Q
  | 0x54 => some [⟨0, 3, .rw, 0⟩, ⟨31, 1, .rw, 0⟩]   -- EVC_PART_Q
  | 0x58 => some [⟨0, 3, .rw, 0⟩, ⟨31, 1, .rw, 0⟩]   -- EVC_PART_Q
  | 0x5c => some [⟨0, 3, .rw, 0⟩, ⟨31, 1, .rw, 0⟩]   -- EVC_PART_Q
  | 0x60 => some [⟨0, 3, .rw, 0⟩, ⟨31, 1, .rw, 0⟩]   -- EVC_PART_Q
  | 0x64 => some [⟨0, 3, .rw, 0⟩, ⟨31, 1, .rw, 0⟩]   -- EVC_PART_Q
  | 0x68 => some [⟨0, 3, .rw, 0⟩, ⟨31, 1, .rw, 0⟩]   -- EVC_PART_Q
  | 0x6c => some [⟨0, 3, .rw, 0⟩, ⟨31, 1, .rw, 0⟩]   -- EVC_PART_Q
  | 0x70 => some [⟨0, 3, .rw, 0⟩, ⟨31, 1, .rw, 0⟩]   -- EVC_PART_Q
  | 0x74 => some [⟨0, 3, .rw, 0⟩, ⟨31, 1, .rw, 0⟩]   -- EVC_PART_Q
  | 0x78 => some [⟨0, 3, .rw, 0⟩, ⟨31, 1, .rw, 0⟩]   -- EVC_PART_Q
  | 0x7c => some [⟨0, 3, .rw, 0⟩, ⟨31, 1, .rw, 0⟩]   -- EVC_PART_Q
  | 0x80 => some [⟨0, 3, .rw, 0⟩, ⟨31, 1, .rw, 0⟩]   -- EVC_PART_Q
  | 0x84 => some [⟨0, 3, .rw, 0⟩, ⟨31, 1, .rw, 0⟩]   -- EVC_PART_Q
  | 0x88 => some [⟨0, 3, .rw, 0⟩, ⟨31, 1, .rw, 0⟩]   -- EVC_PART_Q
  | 0x8c => some [⟨0, 3, .rw, 0⟩, ⟨31, 1, .rw, 0⟩]   -- EVC_PART_Q
  | 0x90 => some [⟨0, 3, .rw, 0⟩, ⟨31, 1, .rw, 0⟩]   -- EVC_PART_Q
  | 0x94 => some [⟨0, 3, .rw, 0⟩, ⟨31, 1, .rw, 0⟩]   -- EVC_PART_Q
  | 0x98 => some [⟨0, 3, .rw, 0⟩, ⟨31, 1, .rw, 0⟩]   -- EVC_PART_Q
  | 0x9c => some [⟨0, 3, .rw, 0⟩, ⟨31, 1, .rw, 0⟩]   -- EVC_PART_Q
  | 0xa0 => some [⟨0, 3, .rw, 0⟩, ⟨31, 1, .rw, 0⟩]   -- EVC_PART_Q
  | 0xa4 => some [⟨0, 3, .rw, 0⟩, ⟨31, 1, .rw, 0⟩]   -- EVC_PART_Q
  | 0xa8 => some [⟨0, 3, .rw, 0⟩, ⟨31, 1, .rw, 0⟩]   -- EVC_PART_Q
  | 0xac => some [⟨0, 3, .rw, 0⟩, ⟨31, 1, .rw, 0⟩]   -- EVC_PART_Q
  | 0xb0 => some [⟨0, 3, .rw, 0⟩, ⟨31, 1, .rw, 0⟩]   -- EVC_PART_Q
  | 0xb4 => some [⟨0, 3, .rw, 0⟩, ⟨31, 1, .rw, 0⟩]   -- EVC_PART_Q
  | 0xb8 => some [⟨0, 3, .rw, 0⟩, ⟨31, 1, .rw, 0⟩]   -- EVC_PART_Q
  | 0xbc => some [⟨0, 3, .rw, 0⟩, ⟨31, 1, .rw, 0⟩]   -- EVC_PART_Q
  | _ => none

/-- Registers of block `evq` by offset; none where the offset is reserved. -/
def regsEvq (off : Nat) : Option (List FieldSpec) :=
  match off with
  | 0x0 => some [⟨0, 32, .rw, 0⟩]   -- EVC_Q_BASE, low half
  | 0x4 => some [⟨0, 32, .rw, 0⟩]   -- EVC_Q_BASE, high half
  | 0x8 => some [⟨16, 4, .rw, 8⟩, ⟨24, 4, .rw, 0⟩, ⟨30, 1, .rw, 0⟩, ⟨31, 1, .rw, 0⟩]   -- EVC_Q_CTRL
  | 0xc => some [⟨0, 10, .rw, 0⟩, ⟨16, 16, .rw, 0x64⟩]   -- EVC_Q_COAL
  | 0x10 => some [⟨0, 16, .ro, 0⟩]   -- EVC_Q_TAIL
  | 0x14 => some [⟨0, 16, .rw, 0⟩]   -- EVC_Q_HEAD
  | 0x18 => some [⟨0, 1, .wo, 0⟩]   -- EVC_Q_DONE
  | 0x1c => some [⟨0, 9, .rw, 0⟩, ⟨28, 4, .ro, 8⟩]   -- EVC_Q_TGT
  | 0x20 => some [⟨0, 32, .rw, 0⟩]   -- EVC_Q_DB, low half
  | 0x24 => some [⟨0, 32, .rw, 0⟩]   -- EVC_Q_DB, high half
  | 0x28 => some [⟨0, 32, .rw, 0⟩]   -- EVC_Q_DB, low half
  | 0x2c => some [⟨0, 32, .rw, 0⟩]   -- EVC_Q_DB, high half
  | 0x30 => some [⟨0, 32, .rw, 0⟩]   -- EVC_Q_DB, low half
  | 0x34 => some [⟨0, 32, .rw, 0⟩]   -- EVC_Q_DB, high half
  | 0x38 => some [⟨0, 32, .rw, 0⟩]   -- EVC_Q_DB, low half
  | 0x3c => some [⟨0, 32, .rw, 0⟩]   -- EVC_Q_DB, high half
  | 0x40 => some [⟨0, 16, .rw, 0⟩]   -- EVC_Q_WMARK
  | 0x44 => some [⟨0, 16, .rw, 0⟩]   -- EVC_Q_ACK
  | 0x48 => some [⟨0, 13, .ro, 0⟩, ⟨30, 1, .ro, 0⟩, ⟨31, 1, .ro, 0⟩]   -- EVC_Q_STAT
  | 0x4c => some [⟨0, 32, .ro, 0⟩]   -- EVC_Q_DROP
  | 0x50 => some [⟨0, 32, .ro, 0⟩]   -- EVC_Q_REDELIVER
  | _ => none

/-- Registers of block `evs` by offset; none where the offset is reserved. -/
def regsEvs (off : Nat) : Option (List FieldSpec) :=
  match off with
  | 0x0 => some [⟨0, 32, .rw, 0x88888888⟩]   -- EVC_SRC
  | _ => none

/-- Registers of block `alm` by offset; none where the offset is reserved. -/
def regsAlm (off : Nat) : Option (List FieldSpec) :=
  match off with
  | 0x0 => some [⟨0, 16, .rw, 0x138⟩, ⟨16, 4, .rw, 2⟩, ⟨29, 1, .rw, 0⟩, ⟨30, 1, .rw, 0⟩, ⟨31, 1, .rw, 0⟩]   -- EVC_ALM_CFG
  | 0x4 => some [⟨30, 1, .ro, 0⟩, ⟨31, 1, .ro, 0⟩]   -- EVC_ALM_STAT
  | 0x8 => some [⟨0, 32, .ro, 0⟩]   -- EVC_ALM_GLITCH
  | _ => none

/-- Registers of block `ptc` by offset; none where the offset is reserved. -/
def regsPtc (off : Nat) : Option (List FieldSpec) :=
  match off with
  | 0x0 => some [⟨0, 10, .ro, 0⟩, ⟨16, 8, .ro, 0⟩, ⟨24, 4, .ro, 0⟩, ⟨30, 1, .ro, 0⟩, ⟨31, 1, .ro, 0⟩]   -- PTC_POS_STAT
  | 0x4 => some [⟨0, 16, .ro, 0⟩, ⟨16, 16, .ro, 0⟩]   -- PTC_POS_TIME
  | _ => none

/-- Registers of block `ptcp` by offset; none where the offset is reserved. -/
def regsPtcp (off : Nat) : Option (List FieldSpec) :=
  match off with
  | 0x50 => some [⟨0, 5, .ro, 0⟩, ⟨8, 3, .ro, 0⟩, ⟨30, 1, .ro, 0⟩, ⟨31, 1, .ro, 0⟩]   -- PTC_STATUS
  | 0x54 => some [⟨0, 4, .ro, 0⟩]   -- PTC_SAVE
  | _ => none

/-- Registers of block `rel` by offset; none where the offset is reserved. -/
def regsRel (off : Nat) : Option (List FieldSpec) :=
  match off with
  | 0x0 => some [⟨0, 16, .rw, 0xa⟩, ⟨16, 16, .rw, 0x50⟩]   -- REL_SCAN_CFG
  | 0x4 => some [⟨0, 8, .rw, 3⟩, ⟨8, 8, .rw, 0x18⟩]   -- REL_OBS_CFG
  | 0x8 => some [⟨0, 10, .rw, 0x1f0⟩]   -- REL_MIN_ARRAYS
  | 0xc => some [⟨0, 9, .wo, 0⟩, ⟨9, 1, .wo, 0⟩]   -- REL_SCAN_REQ
  | 0x10 => some [⟨0, 4, .ro, 0⟩]   -- REL_SCAN_RESULT
  | 0x14 => some [⟨0, 32, .ro, 0⟩]   -- REL_MISMATCHES
  | 0x18 => some [⟨0, 32, .ro, 0⟩]   -- REL_TRANSIENTS
  | 0x1c => some [⟨0, 32, .ro, 0⟩]   -- REL_PERMANENTS
  | 0x20 => some [⟨0, 32, .ro, 0⟩]   -- REL_UNRESOLVED
  | 0x24 => some [⟨0, 32, .ro, 0⟩]   -- REL_SCAN_PASS
  | 0x28 => some [⟨0, 32, .ro, 0⟩]   -- REL_SCAN_FAIL
  | 0x2c => some [⟨0, 32, .ro, 0⟩]   -- REL_DEFERRED
  | 0x30 => some [⟨0, 1, .wo, 0⟩]   -- REL_CNT_CTRL
  | _ => none

/-- Registers of block `relc` by offset; none where the offset is reserved. -/
def regsRelc (off : Nat) : Option (List FieldSpec) :=
  match off with
  | 0x0 => some [⟨0, 3, .rw, 0⟩, ⟨8, 1, .wo, 0⟩]   -- REL_CTX_CTRL
  | 0x4 => some [⟨0, 8, .ro, 0⟩, ⟨31, 1, .ro, 0⟩]   -- REL_CTX_STATUS
  | 0x8 => some [⟨0, 32, .ro, 0⟩]   -- REL_CTX_MISMATCH
  | 0xc => some [⟨0, 32, .ro, 0⟩]   -- REL_CTX_UNRESOLVED
  | _ => none

/-- Registers of block `pwr` by offset; none where the offset is reserved. -/
def regsPwr (off : Nat) : Option (List FieldSpec) :=
  match off with
  | 0x0 => some [⟨0, 1, .rw, 0⟩]   -- PWR_R_CTRL
  | 0x4 => some [⟨0, 3, .ro, 0⟩, ⟨16, 8, .ro, 0⟩, ⟨24, 5, .ro, 0⟩, ⟨30, 1, .ro, 0⟩, ⟨31, 1, .ro, 0⟩]   -- PWR_R_STAT
  | 0x8 => some [⟨0, 16, .ro, 0⟩, ⟨16, 16, .ro, 0⟩]   -- PWR_R_TEL0
  | 0xc => some [⟨8, 8, .ro, 0⟩, ⟨16, 16, .ro, 0⟩]   -- PWR_R_TEL1
  | 0x10 => some [⟨0, 16, .ro, 0⟩, ⟨16, 16, .ro, 0⟩]   -- PWR_R_RCON
  | 0x14 => some [⟨0, 16, .ro, 0⟩, ⟨16, 16, .ro, 0⟩]   -- PWR_R_CNT
  | _ => none

/-- Registers of block `pwrm` by offset; none where the offset is reserved. -/
def regsPwrm (off : Nat) : Option (List FieldSpec) :=
  match off with
  | 0x0 => some [⟨0, 16, .ro, 0⟩, ⟨16, 16, .ro, 0⟩]   -- PWR_IN
  | 0x4 => some [⟨0, 32, .ro, 0⟩]   -- PWR_IN_W
  | 0x8 => some [⟨0, 8, .ro, 0⟩, ⟨8, 8, .ro, 0⟩, ⟨16, 8, .ro, 0⟩, ⟨24, 8, .ro, 0⟩]   -- PWR_COOL_T
  | 0xc => some [⟨0, 16, .ro, 0⟩, ⟨16, 16, .ro, 0⟩]   -- PWR_COOL_F
  | 0x10 => some [⟨0, 9, .ro, 0⟩, ⟨16, 5, .ro, 0x10⟩, ⟨28, 1, .ro, 0⟩, ⟨29, 1, .ro, 0⟩, ⟨30, 1, .ro, 0⟩, ⟨31, 1, .ro, 0⟩]   -- PWR_STATUS
  | 0x14 => some [⟨0, 32, .ro, 0⟩]   -- PWR_SAGS
  | 0x18 => some [⟨0, 32, .ro, 0⟩]   -- PWR_CFAULTS
  | 0x1c => some [⟨0, 32, .ro, 0⟩]   -- PWR_CAP_MS
  | 0x20 => some [⟨0, 1, .wo, 0⟩]   -- PWR_CNT_CTRL
  | _ => none

/-- Registers of block `svc` by offset; none where the offset is reserved. -/
def regsSvc (off : Nat) : Option (List FieldSpec) :=
  match off with
  | 0x0 => some [⟨0, 1, .ro, 0⟩, ⟨1, 1, .ro, 0⟩, ⟨2, 1, .ro, 0⟩, ⟨8, 4, .ro, 0⟩, ⟨16, 4, .ro, 0⟩, ⟨24, 8, .ro, 0xff⟩]   -- SVC_STATUS
  | 0x4 => some [⟨0, 32, .ro, 0xffffffff⟩]   -- SVC_SUP
  | 0x8 => some [⟨0, 16, .rw, 0⟩]   -- SVC_BEAT
  | 0xc => some [⟨0, 16, .rw, 0x3e8⟩, ⟨16, 16, .ro, 0⟩]   -- SVC_WDT
  | 0x10 => some [⟨0, 32, .ro, 0⟩]   -- SVC_STORE
  | 0x14 => some [⟨0, 8, .ro, 0⟩, ⟨8, 1, .ro, 0⟩, ⟨31, 1, .ro, 0⟩]   -- SVC_STORE_STAT
  | 0x18 => some [⟨0, 32, .ro, 0⟩]   -- SVC_MGMT_DROP
  | _ => none

/-- The fields of a register; none where the offset is unassigned or reserved (R10). -/
def regFields (blk : Block) (off : Nat) : Option (List FieldSpec) :=
  match blk with
  | .psw => regsPsw off
  | .core => regsCore off
  | .str => regsStr off
  | .syn => regsSyn off
  | .mig => regsMig off
  | .migm => regsMigm off
  | .lvr => regsLvr off
  | .lvrm => regsLvrm off
  | .net => regsNet off
  | .rt => regsRt off
  | .mrg => regsMrg off
  | .netm => regsNetm off
  | .tim => regsTim off
  | .lnk => regsLnk off
  | .trp => regsTrp off
  | .ent => regsEnt off
  | .vbl => regsVbl off
  | .win => regsWin off
  | .vblc => regsVblc off
  | .col => regsCol off
  | .sht => regsSht off
  | .shtm => regsShtm off
  | .ctx => regsCtx off
  | .evc => regsEvc off
  | .evq => regsEvq off
  | .evs => regsEvs off
  | .alm => regsAlm off
  | .ptc => regsPtc off
  | .ptcp => regsPtcp off
  | .rel => regsRel off
  | .relc => regsRelc off
  | .pwr => regsPwr off
  | .pwrm => regsPwrm off
  | .svc => regsSvc off

/-- Offsets of the low halves of 64-bit quantities (R11). -/
def wideLows : Block → List Nat
  | .psw => []
  | .core => [0x10, 0x18, 0x20]
  | .str => []
  | .syn => [0x18]
  | .mig => [0x8, 0x10, 0x18, 0x20, 0x28, 0x30, 0x38, 0x40, 0x48, 0x60]
  | .migm => []
  | .lvr => [0x0, 0x20, 0x28, 0x30, 0x38, 0x40, 0x50, 0x60, 0x68, 0x70]
  | .lvrm => []
  | .net => []
  | .rt => []
  | .mrg => []
  | .netm => [0x8]
  | .tim => [0x0, 0x18, 0x20]
  | .lnk => [0x10, 0x18, 0x20, 0x28, 0x30, 0x38]
  | .trp => []
  | .ent => []
  | .vbl => [0x18]
  | .win => [0x8, 0x10, 0x18]
  | .vblc => []
  | .col => [0x4, 0x24, 0x2c]
  | .sht => []
  | .shtm => []
  | .ctx => [0x18, 0x20, 0x28]
  | .evc => []
  | .evq => [0x0, 0x20, 0x28, 0x30, 0x38]
  | .evs => []
  | .alm => []
  | .ptc => []
  | .ptcp => []
  | .rel => []
  | .relc => []
  | .pwr => []
  | .pwrm => []
  | .svc => []

/-- Reset value of the register at an address: its fields' reset values, 0 where nothing is assigned (R11). -/
def regReset (addr : Nat) : Nat :=
  match locate addr with
  | none => 0
  | some l =>
    match regFields l.blk l.off with
    | none => 0
    | some fs => fs.foldl (fun a f => a + f.reset <<< f.lo) 0

/-- A named field of a register. -/
structure Fld where
  addr : Nat
  lo : Nat
  w : Nat
  deriving DecidableEq, Repr

/-- PSW_MAP. -/
def Reg.pswMap (i : Nat) : Nat := Block.base .psw i + 0x0
def Fld.pswMapSlot0 (i : Nat) : Fld := ⟨Reg.pswMap i, 0, 4⟩
def Fld.pswMapSlot1 (i : Nat) : Fld := ⟨Reg.pswMap i, 4, 4⟩
def Fld.pswMapSlot2 (i : Nat) : Fld := ⟨Reg.pswMap i, 8, 4⟩
def Fld.pswMapSlot3 (i : Nat) : Fld := ⟨Reg.pswMap i, 12, 4⟩
/-- PSW_NEXT. -/
def Reg.pswNext (i : Nat) : Nat := Block.base .psw i + 0x4
def Fld.pswNextSlot0 (i : Nat) : Fld := ⟨Reg.pswNext i, 0, 4⟩
def Fld.pswNextSlot1 (i : Nat) : Fld := ⟨Reg.pswNext i, 4, 4⟩
def Fld.pswNextSlot2 (i : Nat) : Fld := ⟨Reg.pswNext i, 8, 4⟩
def Fld.pswNextSlot3 (i : Nat) : Fld := ⟨Reg.pswNext i, 12, 4⟩
/-- PSW_CTRL. -/
def Reg.pswCtrl (i : Nat) : Nat := Block.base .psw i + 0x8
def Fld.pswCtrlApply (i : Nat) : Fld := ⟨Reg.pswCtrl i, 0, 1⟩
def Fld.pswCtrlKind (i : Nat) : Fld := ⟨Reg.pswCtrl i, 1, 1⟩
/-- PSW_STATUS. -/
def Reg.pswStatus (i : Nat) : Nat := Block.base .psw i + 0xc
def Fld.pswStatusBusy (i : Nat) : Fld := ⟨Reg.pswStatus i, 0, 1⟩
def Fld.pswStatusDone (i : Nat) : Fld := ⟨Reg.pswStatus i, 1, 1⟩
def Fld.pswStatusRefused (i : Nat) : Fld := ⟨Reg.pswStatus i, 2, 1⟩
def Fld.pswStatusCopyFail (i : Nat) : Fld := ⟨Reg.pswStatus i, 3, 1⟩
def Fld.pswStatusReason (i : Nat) : Fld := ⟨Reg.pswStatus i, 4, 4⟩
/-- CORE_STATUS. -/
def Reg.coreStatus (i : Nat) : Nat := Block.base .core i + 0x0
def Fld.coreStatusArrays (i : Nat) : Fld := ⟨Reg.coreStatus i, 0, 10⟩
def Fld.coreStatusSuspect (i : Nat) : Fld := ⟨Reg.coreStatus i, 10, 1⟩
def Fld.coreStatusReady (i : Nat) : Fld := ⟨Reg.coreStatus i, 16, 16⟩
/-- CORE_PRIO. -/
def Reg.corePrio (i : Nat) : Nat := Block.base .core i + 0x4
def Fld.corePrioPrio (i : Nat) : Fld := ⟨Reg.corePrio i, 0, 32⟩
/-- CORE_AGE. -/
def Reg.coreAge (i : Nat) : Nat := Block.base .core i + 0x8
def Fld.coreAgeAgeLimit (i : Nat) : Fld := ⟨Reg.coreAge i, 0, 16⟩
/-- CORE_CNT_CTRL. -/
def Reg.coreCntCtrl (i : Nat) : Nat := Block.base .core i + 0xc
def Fld.coreCntCtrlClear (i : Nat) : Fld := ⟨Reg.coreCntCtrl i, 0, 1⟩
/-- CORE_ISSUE. -/
def Reg.coreIssue (i : Nat) : Nat := Block.base .core i + 0x10
/-- CORE_YIELD. -/
def Reg.coreYield (i : Nat) : Nat := Block.base .core i + 0x18
/-- CORE_ABUSY. -/
def Reg.coreAbusy (i : Nat) : Nat := Block.base .core i + 0x20
/-- STR_CFG. -/
def Reg.strCfg (i : Nat) : Nat := Block.base .str i + 0x0
def Fld.strCfgEn (i : Nat) : Fld := ⟨Reg.strCfg i, 0, 1⟩
def Fld.strCfgInj (i : Nat) : Fld := ⟨Reg.strCfg i, 1, 1⟩
def Fld.strCfgDir (i : Nat) : Fld := ⟨Reg.strCfg i, 3, 1⟩
def Fld.strCfgKind (i : Nat) : Fld := ⟨Reg.strCfg i, 4, 2⟩
def Fld.strCfgDepth (i : Nat) : Fld := ⟨Reg.strCfg i, 6, 4⟩
def Fld.strCfgGrain (i : Nat) : Fld := ⟨Reg.strCfg i, 10, 6⟩
def Fld.strCfgOwner (i : Nat) : Fld := ⟨Reg.strCfg i, 22, 4⟩
def Fld.strCfgContext (i : Nat) : Fld := ⟨Reg.strCfg i, 26, 6⟩
/-- STR_PEER. -/
def Reg.strPeer (i : Nat) : Nat := Block.base .str i + 0x4
def Fld.strPeerPeerEp (i : Nat) : Fld := ⟨Reg.strPeer i, 0, 8⟩
def Fld.strPeerPeerX (i : Nat) : Fld := ⟨Reg.strPeer i, 8, 4⟩
def Fld.strPeerPeerY (i : Nat) : Fld := ⟨Reg.strPeer i, 12, 4⟩
def Fld.strPeerWindow (i : Nat) : Fld := ⟨Reg.strPeer i, 16, 10⟩
def Fld.strPeerRemote (i : Nat) : Fld := ⟨Reg.strPeer i, 26, 1⟩
/-- STR_RING. -/
def Reg.strRing (i : Nat) : Nat := Block.base .str i + 0x8
def Fld.strRingBase (i : Nat) : Fld := ⟨Reg.strRing i, 0, 17⟩
def Fld.strRingLen (i : Nat) : Fld := ⟨Reg.strRing i, 17, 12⟩
def Fld.strRingTier (i : Nat) : Fld := ⟨Reg.strRing i, 29, 1⟩
/-- STR_LATCH. -/
def Reg.strLatch (i : Nat) : Nat := Block.base .str i + 0xc
def Fld.strLatchCountA (i : Nat) : Fld := ⟨Reg.strLatch i, 0, 13⟩
def Fld.strLatchCountB (i : Nat) : Fld := ⟨Reg.strLatch i, 16, 13⟩
def Fld.strLatchOverrun (i : Nat) : Fld := ⟨Reg.strLatch i, 31, 1⟩
/-- SYN_DLM_CTRL. -/
def Reg.synDlmCtrl (i : Nat) : Nat := Block.base .syn i + 0x0
def Fld.synDlmCtrlLimitLog2 (i : Nat) : Fld := ⟨Reg.synDlmCtrl i, 0, 6⟩
def Fld.synDlmCtrlEn (i : Nat) : Fld := ⟨Reg.synDlmCtrl i, 8, 1⟩
/-- SYN_DLM_STAT. -/
def Reg.synDlmStat (i : Nat) : Nat := Block.base .syn i + 0x4
def Fld.synDlmStatArmed (i : Nat) : Fld := ⟨Reg.synDlmStat i, 0, 1⟩
def Fld.synDlmStatTripped (i : Nat) : Fld := ⟨Reg.synDlmStat i, 1, 1⟩
def Fld.synDlmStatBlocked (i : Nat) : Fld := ⟨Reg.synDlmStat i, 16, 16⟩
/-- SYN_LATE. -/
def Reg.synLate (i : Nat) : Nat := Block.base .syn i + 0x8
def Fld.synLateCount (i : Nat) : Fld := ⟨Reg.synLate i, 0, 32⟩
/-- SYN_THR_GEN. -/
def Reg.synThrGen (i : Nat) : Nat := Block.base .syn i + 0xc
def Fld.synThrGenGen (i : Nat) : Fld := ⟨Reg.synThrGen i, 0, 16⟩
/-- SYN_TSK_HANDLE. -/
def Reg.synTskHandle (i : Nat) : Nat := Block.base .syn i + 0x10
def Fld.synTskHandleHandle (i : Nat) : Fld := ⟨Reg.synTskHandle i, 0, 32⟩
/-- SYN_TSK_CMD. -/
def Reg.synTskCmd (i : Nat) : Nat := Block.base .syn i + 0x14
def Fld.synTskCmdFunc (i : Nat) : Fld := ⟨Reg.synTskCmd i, 0, 3⟩
def Fld.synTskCmdMask (i : Nat) : Fld := ⟨Reg.synTskCmd i, 16, 16⟩
/-- SYN_TSK_ADDR. -/
def Reg.synTskAddr (i : Nat) : Nat := Block.base .syn i + 0x18
/-- SYN_TSK_STATUS. -/
def Reg.synTskStatus (i : Nat) : Nat := Block.base .syn i + 0x20
def Fld.synTskStatusResult (i : Nat) : Fld := ⟨Reg.synTskStatus i, 0, 4⟩
def Fld.synTskStatusBusy (i : Nat) : Fld := ⟨Reg.synTskStatus i, 31, 1⟩
/-- MIG_CTX_CTRL. -/
def Reg.migCtxCtrl (i : Nat) : Nat := Block.base .mig i + 0x0
def Fld.migCtxCtrlCredit (i : Nat) : Fld := ⟨Reg.migCtxCtrl i, 1, 1⟩
def Fld.migCtxCtrlStageTiles (i : Nat) : Fld := ⟨Reg.migCtxCtrl i, 2, 17⟩
/-- MIG_CAUSE. -/
def Reg.migCause (i : Nat) : Nat := Block.base .mig i + 0x4
def Fld.migCauseSeen (i : Nat) : Fld := ⟨Reg.migCause i, 0, 6⟩
def Fld.migCauseLast (i : Nat) : Fld := ⟨Reg.migCause i, 8, 3⟩
/-- MIG_FALLBACK. -/
def Reg.migFallback (i : Nat) : Nat := Block.base .mig i + 0x8
/-- MIG_STALL1. -/
def Reg.migStall1 (i : Nat) : Nat := Block.base .mig i + 0x10
/-- MIG_STALL2. -/
def Reg.migStall2 (i : Nat) : Nat := Block.base .mig i + 0x18
/-- MIG_STALL3. -/
def Reg.migStall3 (i : Nat) : Nat := Block.base .mig i + 0x20
/-- MIG_STALL4. -/
def Reg.migStall4 (i : Nat) : Nat := Block.base .mig i + 0x28
/-- MIG_STALL5. -/
def Reg.migStall5 (i : Nat) : Nat := Block.base .mig i + 0x30
/-- MIG_STALL6. -/
def Reg.migStall6 (i : Nat) : Nat := Block.base .mig i + 0x38
/-- MIG_STALL_TICKS. -/
def Reg.migStallTicks (i : Nat) : Nat := Block.base .mig i + 0x40
/-- MIG_RING_BASE. -/
def Reg.migRingBase (i : Nat) : Nat := Block.base .mig i + 0x48
/-- MIG_RING_CTRL. -/
def Reg.migRingCtrl (i : Nat) : Nat := Block.base .mig i + 0x50
def Fld.migRingCtrlSizeLog2 (i : Nat) : Fld := ⟨Reg.migRingCtrl i, 0, 5⟩
def Fld.migRingCtrlEn (i : Nat) : Fld := ⟨Reg.migRingCtrl i, 31, 1⟩
/-- MIG_RING_TAIL. -/
def Reg.migRingTail (i : Nat) : Nat := Block.base .mig i + 0x54
def Fld.migRingTailTail (i : Nat) : Fld := ⟨Reg.migRingTail i, 0, 12⟩
/-- MIG_RING_HEAD. -/
def Reg.migRingHead (i : Nat) : Nat := Block.base .mig i + 0x58
def Fld.migRingHeadHead (i : Nat) : Fld := ⟨Reg.migRingHead i, 0, 12⟩
/-- MIG_RING_STATUS. -/
def Reg.migRingStatus (i : Nat) : Nat := Block.base .mig i + 0x5c
def Fld.migRingStatusLastStatus (i : Nat) : Fld := ⟨Reg.migRingStatus i, 0, 8⟩
def Fld.migRingStatusBusy (i : Nat) : Fld := ⟨Reg.migRingStatus i, 31, 1⟩
/-- MIG_APT_BASE. -/
def Reg.migAptBase (i : Nat) : Nat := Block.base .mig i + 0x60
/-- MIG_CNT_CTRL. -/
def Reg.migCntCtrl (i : Nat) : Nat := Block.base .mig i + 0x68
def Fld.migCntCtrlClear (i : Nat) : Fld := ⟨Reg.migCntCtrl i, 0, 1⟩
/-- MIG_SLOT_MAP0. -/
def Reg.migSlotMap0 : Nat := Block.base .migm 0 + 0x0
def Fld.migSlotMap0Slots : Fld := ⟨Reg.migSlotMap0, 0, 32⟩
/-- MIG_SLOT_MAP1. -/
def Reg.migSlotMap1 : Nat := Block.base .migm 0 + 0x4
def Fld.migSlotMap1Slots : Fld := ⟨Reg.migSlotMap1, 0, 32⟩
/-- MIG_CHAN_UP. -/
def Reg.migChanUp : Nat := Block.base .migm 0 + 0x8
def Fld.migChanUpUp : Fld := ⟨Reg.migChanUp, 0, 16⟩
/-- MIG_SCRUB. -/
def Reg.migScrub : Nat := Block.base .migm 0 + 0xc
def Fld.migScrubEn : Fld := ⟨Reg.migScrub, 0, 1⟩
def Fld.migScrubHours : Fld := ⟨Reg.migScrub, 8, 8⟩
/-- MIG_CE_T0. -/
def Reg.migCeT0 : Nat := Block.base .migm 0 + 0x10
def Fld.migCeT0Count : Fld := ⟨Reg.migCeT0, 0, 32⟩
/-- MIG_CE_T1. -/
def Reg.migCeT1 : Nat := Block.base .migm 0 + 0x14
def Fld.migCeT1Count : Fld := ⟨Reg.migCeT1, 0, 32⟩
/-- MIG_CE_T2. -/
def Reg.migCeT2 : Nat := Block.base .migm 0 + 0x18
def Fld.migCeT2Count : Fld := ⟨Reg.migCeT2, 0, 32⟩
/-- MIG_CE_ACC. -/
def Reg.migCeAcc : Nat := Block.base .migm 0 + 0x1c
def Fld.migCeAccCount : Fld := ⟨Reg.migCeAcc, 0, 32⟩
/-- MIG_UE_T0. -/
def Reg.migUeT0 : Nat := Block.base .migm 0 + 0x20
def Fld.migUeT0Count : Fld := ⟨Reg.migUeT0, 0, 32⟩
/-- MIG_UE_T1. -/
def Reg.migUeT1 : Nat := Block.base .migm 0 + 0x24
def Fld.migUeT1Count : Fld := ⟨Reg.migUeT1, 0, 32⟩
/-- MIG_UE_T2. -/
def Reg.migUeT2 : Nat := Block.base .migm 0 + 0x28
def Fld.migUeT2Count : Fld := ⟨Reg.migUeT2, 0, 32⟩
/-- MIG_UE_ACC. -/
def Reg.migUeAcc : Nat := Block.base .migm 0 + 0x2c
def Fld.migUeAccCount : Fld := ⟨Reg.migUeAcc, 0, 32⟩
/-- MIG_ERR_CLR. -/
def Reg.migErrClr : Nat := Block.base .migm 0 + 0x30
def Fld.migErrClrClear : Fld := ⟨Reg.migErrClr, 0, 1⟩
/-- LVR_DESC_BASE. -/
def Reg.lvrDescBase (i : Nat) : Nat := Block.base .lvr i + 0x0
/-- LVR_MAN_BASE. -/
def Reg.lvrManBase (i : Nat) : Nat := Block.base .lvr i + 0x28
/-- LVR_PLACE_BASE. -/
def Reg.lvrPlaceBase (i : Nat) : Nat := Block.base .lvr i + 0x30
/-- LVR_SRC_BASE. -/
def Reg.lvrSrcBase (i : Nat) : Nat := Block.base .lvr i + 0x38
/-- LVR_SWAP_BASE. -/
def Reg.lvrSwapBase (i : Nat) : Nat := Block.base .lvr i + 0x40
/-- LVR_CHUNK_BASE. -/
def Reg.lvrChunkBase (i : Nat) : Nat := Block.base .lvr i + 0x50
/-- LVR_DESC_CTRL. -/
def Reg.lvrDescCtrl (i : Nat) : Nat := Block.base .lvr i + 0x8
def Fld.lvrDescCtrlSizeLog2 (i : Nat) : Fld := ⟨Reg.lvrDescCtrl i, 0, 5⟩
def Fld.lvrDescCtrlEn (i : Nat) : Fld := ⟨Reg.lvrDescCtrl i, 31, 1⟩
/-- LVR_DESC_TAIL. -/
def Reg.lvrDescTail (i : Nat) : Nat := Block.base .lvr i + 0xc
def Fld.lvrDescTailTail (i : Nat) : Fld := ⟨Reg.lvrDescTail i, 0, 12⟩
/-- LVR_DESC_HEAD. -/
def Reg.lvrDescHead (i : Nat) : Nat := Block.base .lvr i + 0x10
def Fld.lvrDescHeadHead (i : Nat) : Fld := ⟨Reg.lvrDescHead i, 0, 12⟩
/-- LVR_STATUS. -/
def Reg.lvrStatus (i : Nat) : Nat := Block.base .lvr i + 0x14
def Fld.lvrStatusLastStatus (i : Nat) : Fld := ⟨Reg.lvrStatus i, 0, 8⟩
def Fld.lvrStatusPhase (i : Nat) : Fld := ⟨Reg.lvrStatus i, 24, 3⟩
def Fld.lvrStatusBusy (i : Nat) : Fld := ⟨Reg.lvrStatus i, 31, 1⟩
/-- LVR_KEYMASK. -/
def Reg.lvrKeymask (i : Nat) : Nat := Block.base .lvr i + 0x18
def Fld.lvrKeymaskMask (i : Nat) : Fld := ⟨Reg.lvrKeymask i, 0, 16⟩
/-- LVR_SWAP_CMD. -/
def Reg.lvrSwapCmd (i : Nat) : Nat := Block.base .lvr i + 0x1c
def Fld.lvrSwapCmdCmd (i : Nat) : Fld := ⟨Reg.lvrSwapCmd i, 0, 2⟩
/-- LVR_STEP. -/
def Reg.lvrStep (i : Nat) : Nat := Block.base .lvr i + 0x20
/-- LVR_SWAP_TILES. -/
def Reg.lvrSwapTiles (i : Nat) : Nat := Block.base .lvr i + 0x48
def Fld.lvrSwapTilesTiles (i : Nat) : Fld := ⟨Reg.lvrSwapTiles i, 0, 25⟩
/-- LVR_CHUNK_CTRL. -/
def Reg.lvrChunkCtrl (i : Nat) : Nat := Block.base .lvr i + 0x4c
def Fld.lvrChunkCtrlChunks (i : Nat) : Fld := ⟨Reg.lvrChunkCtrl i, 0, 7⟩
/-- LVR_TIMEOUT. -/
def Reg.lvrTimeout (i : Nat) : Nat := Block.base .lvr i + 0x58
def Fld.lvrTimeoutHoldS (i : Nat) : Fld := ⟨Reg.lvrTimeout i, 0, 8⟩
def Fld.lvrTimeoutFetchS (i : Nat) : Fld := ⟨Reg.lvrTimeout i, 8, 8⟩
/-- LVR_PAYLOAD_APT. -/
def Reg.lvrPayloadApt (i : Nat) : Nat := Block.base .lvr i + 0x5c
def Fld.lvrPayloadAptApt (i : Nat) : Fld := ⟨Reg.lvrPayloadApt i, 0, 8⟩
def Fld.lvrPayloadAptValid (i : Nat) : Fld := ⟨Reg.lvrPayloadApt i, 8, 1⟩
/-- LVR_HASH_RETRY. -/
def Reg.lvrHashRetry (i : Nat) : Nat := Block.base .lvr i + 0x60
/-- LVR_HOLD_TICKS. -/
def Reg.lvrHoldTicks (i : Nat) : Nat := Block.base .lvr i + 0x68
/-- LVR_BYTES_IN. -/
def Reg.lvrBytesIn (i : Nat) : Nat := Block.base .lvr i + 0x70
/-- LVR_CNT_CTRL. -/
def Reg.lvrCntCtrl (i : Nat) : Nat := Block.base .lvr i + 0x78
def Fld.lvrCntCtrlClear (i : Nat) : Fld := ⟨Reg.lvrCntCtrl i, 0, 1⟩
/-- LVR_KEY_STATE. -/
def Reg.lvrKeyState : Nat := Block.base .lvrm 0 + 0x0
def Fld.lvrKeyStateState : Fld := ⟨Reg.lvrKeyState, 0, 32⟩
/-- LVR_KEY_ID. -/
def Reg.lvrKeyId (k : Nat) : Nat := Block.base .lvrm 0 + 0x4 + 4 * k
def Fld.lvrKeyIdKeyId (k : Nat) : Fld := ⟨Reg.lvrKeyId k, 0, 32⟩
/-- LVR_SIG_FAILS. -/
def Reg.lvrSigFails : Nat := Block.base .lvrm 0 + 0x44
def Fld.lvrSigFailsCount : Fld := ⟨Reg.lvrSigFails, 0, 32⟩
/-- LVR_HASH_FAILS. -/
def Reg.lvrHashFails : Nat := Block.base .lvrm 0 + 0x48
def Fld.lvrHashFailsCount : Fld := ⟨Reg.lvrHashFails, 0, 32⟩
/-- LVR_FAIL_CLR. -/
def Reg.lvrFailClr : Nat := Block.base .lvrm 0 + 0x4c
def Fld.lvrFailClrClear : Fld := ⟨Reg.lvrFailClr, 0, 1⟩
/-- NET_LINK. -/
def Reg.netLink (i : Nat) : Nat := Block.base .net i + 0x0
def Fld.netLinkUpA (i : Nat) : Fld := ⟨Reg.netLink i, 0, 4⟩
def Fld.netLinkUpB (i : Nat) : Fld := ⟨Reg.netLink i, 4, 4⟩
def Fld.netLinkUpT (i : Nat) : Fld := ⟨Reg.netLink i, 8, 4⟩
def Fld.netLinkShut (i : Nat) : Fld := ⟨Reg.netLink i, 12, 4⟩
def Fld.netLinkOut (i : Nat) : Fld := ⟨Reg.netLink i, 16, 1⟩
/-- NET_LINK_ERR. -/
def Reg.netLinkErr (i : Nat) : Nat := Block.base .net i + 0x4
def Fld.netLinkErrRetry (i : Nat) : Fld := ⟨Reg.netLinkErr i, 0, 16⟩
/-- NET_MERGE_USE. -/
def Reg.netMergeUse (i : Nat) : Nat := Block.base .net i + 0x8
def Fld.netMergeUseNodes (i : Nat) : Fld := ⟨Reg.netMergeUse i, 0, 5⟩
def Fld.netMergeUseTiles (i : Nat) : Fld := ⟨Reg.netMergeUse i, 16, 7⟩
/-- NET_RT. -/
def Reg.netRt (i : Nat) : Nat := Block.base .rt i + 0x0
def Fld.netRtDir0 (i : Nat) : Fld := ⟨Reg.netRt i, 0, 3⟩
def Fld.netRtPlanes0 (i : Nat) : Fld := ⟨Reg.netRt i, 3, 2⟩
def Fld.netRtDir1 (i : Nat) : Fld := ⟨Reg.netRt i, 8, 3⟩
def Fld.netRtPlanes1 (i : Nat) : Fld := ⟨Reg.netRt i, 11, 2⟩
def Fld.netRtDir2 (i : Nat) : Fld := ⟨Reg.netRt i, 16, 3⟩
def Fld.netRtPlanes2 (i : Nat) : Fld := ⟨Reg.netRt i, 19, 2⟩
def Fld.netRtDir3 (i : Nat) : Fld := ⟨Reg.netRt i, 24, 3⟩
def Fld.netRtPlanes3 (i : Nat) : Fld := ⟨Reg.netRt i, 27, 2⟩
/-- MRG_NODE_LO. -/
def Reg.mrgNodeLo (i : Nat) : Nat := Block.base .mrg i + 0x0
def Fld.mrgNodeLoOutId (i : Nat) : Fld := ⟨Reg.mrgNodeLo i, 0, 8⟩
def Fld.mrgNodeLoOutX (i : Nat) : Fld := ⟨Reg.mrgNodeLo i, 8, 4⟩
def Fld.mrgNodeLoOutY (i : Nat) : Fld := ⟨Reg.mrgNodeLo i, 12, 4⟩
def Fld.mrgNodeLoOutSide (i : Nat) : Fld := ⟨Reg.mrgNodeLo i, 22, 1⟩
def Fld.mrgNodeLoOutKind (i : Nat) : Fld := ⟨Reg.mrgNodeLo i, 23, 1⟩
def Fld.mrgNodeLoGrain (i : Nat) : Fld := ⟨Reg.mrgNodeLo i, 24, 6⟩
def Fld.mrgNodeLoType (i : Nat) : Fld := ⟨Reg.mrgNodeLo i, 30, 1⟩
def Fld.mrgNodeLoEn (i : Nat) : Fld := ⟨Reg.mrgNodeLo i, 31, 1⟩
/-- MRG_NODE_HI. -/
def Reg.mrgNodeHi (i : Nat) : Nat := Block.base .mrg i + 0x4
def Fld.mrgNodeHiContext (i : Nat) : Fld := ⟨Reg.mrgNodeHi i, 26, 6⟩
/-- NET_TBL_CTRL. -/
def Reg.netTblCtrl : Nat := Block.base .netm 0 + 0x0
def Fld.netTblCtrlActive : Fld := ⟨Reg.netTblCtrl, 0, 1⟩
def Fld.netTblCtrlArm : Fld := ⟨Reg.netTblCtrl, 1, 1⟩
/-- NET_TBL_STATUS. -/
def Reg.netTblStatus : Nat := Block.base .netm 0 + 0x4
def Fld.netTblStatusArmed : Fld := ⟨Reg.netTblStatus, 0, 1⟩
def Fld.netTblStatusOldBusy : Fld := ⟨Reg.netTblStatus, 1, 1⟩
def Fld.netTblStatusSwitched : Fld := ⟨Reg.netTblStatus, 2, 1⟩
def Fld.netTblStatusLate : Fld := ⟨Reg.netTblStatus, 3, 1⟩
/-- NET_SWITCH_TICK. -/
def Reg.netSwitchTick : Nat := Block.base .netm 0 + 0x8
/-- NET_CNT_CTRL. -/
def Reg.netCntCtrl : Nat := Block.base .netm 0 + 0x10
def Fld.netCntCtrlClear : Fld := ⟨Reg.netCntCtrl, 0, 1⟩
/-- NET_EX_SRC_HELD. -/
def Reg.netExSrcHeld : Nat := Block.base .netm 0 + 0x14
def Fld.netExSrcHeldCount : Fld := ⟨Reg.netExSrcHeld, 0, 32⟩
/-- NET_EX_LINK_HELD. -/
def Reg.netExLinkHeld : Nat := Block.base .netm 0 + 0x18
def Fld.netExLinkHeldCount : Fld := ⟨Reg.netExLinkHeld, 0, 32⟩
/-- NET_SHUT_DROP. -/
def Reg.netShutDrop : Nat := Block.base .netm 0 + 0x1c
def Fld.netShutDropCount : Fld := ⟨Reg.netShutDrop, 0, 32⟩
/-- NET_LOST. -/
def Reg.netLost : Nat := Block.base .netm 0 + 0x20
def Fld.netLostCount : Fld := ⟨Reg.netLost, 0, 32⟩
/-- NET_UNREACH. -/
def Reg.netUnreach : Nat := Block.base .netm 0 + 0x24
def Fld.netUnreachCount : Fld := ⟨Reg.netUnreach, 0, 32⟩
/-- NET_LINK_FENCES. -/
def Reg.netLinkFences : Nat := Block.base .netm 0 + 0x28
def Fld.netLinkFencesCount : Fld := ⟨Reg.netLinkFences, 0, 32⟩
/-- TIM_TICK. -/
def Reg.timTick : Nat := Block.base .tim 0 + 0x0
/-- TIM_CTRL. -/
def Reg.timCtrl : Nat := Block.base .tim 0 + 0x8
def Fld.timCtrlRefSel : Fld := ⟨Reg.timCtrl, 0, 2⟩
def Fld.timCtrlParent : Fld := ⟨Reg.timCtrl, 2, 7⟩
def Fld.timCtrlMaster : Fld := ⟨Reg.timCtrl, 16, 1⟩
def Fld.timCtrlDivNext : Fld := ⟨Reg.timCtrl, 17, 1⟩
def Fld.timCtrlDivArm : Fld := ⟨Reg.timCtrl, 30, 1⟩
def Fld.timCtrlAcquire : Fld := ⟨Reg.timCtrl, 31, 1⟩
/-- TIM_STATUS. -/
def Reg.timStatus : Nat := Block.base .tim 0 + 0xc
def Fld.timStatusState : Fld := ⟨Reg.timStatus, 0, 3⟩
def Fld.timStatusPllLock : Fld := ⟨Reg.timStatus, 5, 1⟩
def Fld.timStatusExtPresent : Fld := ⟨Reg.timStatus, 6, 1⟩
def Fld.timStatusDiv : Fld := ⟨Reg.timStatus, 7, 1⟩
def Fld.timStatusDivArmed : Fld := ⟨Reg.timStatus, 8, 1⟩
def Fld.timStatusDivLate : Fld := ⟨Reg.timStatus, 9, 1⟩
def Fld.timStatusRefused : Fld := ⟨Reg.timStatus, 10, 1⟩
/-- TIM_OFFSET. -/
def Reg.timOffset : Nat := Block.base .tim 0 + 0x10
def Fld.timOffsetOffset : Fld := ⟨Reg.timOffset, 0, 32⟩
/-- TIM_DELAY. -/
def Reg.timDelay : Nat := Block.base .tim 0 + 0x14
def Fld.timDelayDelay : Fld := ⟨Reg.timDelay, 0, 32⟩
/-- TIM_DIV_TICK. -/
def Reg.timDivTick : Nat := Block.base .tim 0 + 0x18
/-- TIM_SET. -/
def Reg.timSet : Nat := Block.base .tim 0 + 0x20
/-- TIM_SKEW. -/
def Reg.timSkew : Nat := Block.base .tim 0 + 0x28
def Fld.timSkewSpread : Fld := ⟨Reg.timSkew, 0, 16⟩
/-- LNK_CTRL. -/
def Reg.lnkCtrl (i : Nat) : Nat := Block.base .lnk i + 0x0
def Fld.lnkCtrlEn (i : Nat) : Fld := ⟨Reg.lnkCtrl i, 0, 1⟩
def Fld.lnkCtrlMode (i : Nat) : Fld := ⟨Reg.lnkCtrl i, 1, 1⟩
def Fld.lnkCtrlShut (i : Nat) : Fld := ⟨Reg.lnkCtrl i, 2, 1⟩
def Fld.lnkCtrlRetrain (i : Nat) : Fld := ⟨Reg.lnkCtrl i, 3, 1⟩
/-- LNK_STATUS. -/
def Reg.lnkStatus (i : Nat) : Nat := Block.base .lnk i + 0x4
def Fld.lnkStatusState (i : Nat) : Fld := ⟨Reg.lnkStatus i, 0, 4⟩
def Fld.lnkStatusReason (i : Nat) : Fld := ⟨Reg.lnkStatus i, 4, 4⟩
/-- LNK_FAR0. -/
def Reg.lnkFar0 (i : Nat) : Nat := Block.base .lnk i + 0x8
def Fld.lnkFar0Node (i : Nat) : Fld := ⟨Reg.lnkFar0 i, 0, 20⟩
def Fld.lnkFar0Role (i : Nat) : Fld := ⟨Reg.lnkFar0 i, 21, 2⟩
def Fld.lnkFar0Dir (i : Nat) : Fld := ⟨Reg.lnkFar0 i, 23, 3⟩
/-- LNK_FEC_CORR. -/
def Reg.lnkFecCorr (i : Nat) : Nat := Block.base .lnk i + 0x10
/-- LNK_FEC_UNCORR. -/
def Reg.lnkFecUncorr (i : Nat) : Nat := Block.base .lnk i + 0x18
/-- LNK_CRC_ERR. -/
def Reg.lnkCrcErr (i : Nat) : Nat := Block.base .lnk i + 0x20
/-- LNK_REPLAY. -/
def Reg.lnkReplay (i : Nat) : Nat := Block.base .lnk i + 0x28
/-- LNK_TX_FLITS. -/
def Reg.lnkTxFlits (i : Nat) : Nat := Block.base .lnk i + 0x30
/-- LNK_RX_FLITS. -/
def Reg.lnkRxFlits (i : Nat) : Nat := Block.base .lnk i + 0x38
/-- LNK_TRAIN_FAIL. -/
def Reg.lnkTrainFail (i : Nat) : Nat := Block.base .lnk i + 0x40
def Fld.lnkTrainFailCount (i : Nat) : Fld := ⟨Reg.lnkTrainFail i, 0, 32⟩
/-- LNK_RETRAINS. -/
def Reg.lnkRetrains (i : Nat) : Nat := Block.base .lnk i + 0x44
def Fld.lnkRetrainsCount (i : Nat) : Fld := ⟨Reg.lnkRetrains i, 0, 32⟩
/-- LNK_SHARE_DROP. -/
def Reg.lnkShareDrop (i : Nat) : Nat := Block.base .lnk i + 0x48
def Fld.lnkShareDropCount (i : Nat) : Fld := ⟨Reg.lnkShareDrop i, 0, 32⟩
/-- LNK_AGE_DROP. -/
def Reg.lnkAgeDrop (i : Nat) : Nat := Block.base .lnk i + 0x4c
def Fld.lnkAgeDropCount (i : Nat) : Fld := ⟨Reg.lnkAgeDrop i, 0, 32⟩
/-- LNK_ETH_DROP. -/
def Reg.lnkEthDrop (i : Nat) : Nat := Block.base .lnk i + 0x50
def Fld.lnkEthDropCount (i : Nat) : Fld := ⟨Reg.lnkEthDrop i, 0, 32⟩
/-- LNK_CNT_CTRL. -/
def Reg.lnkCntCtrl (i : Nat) : Nat := Block.base .lnk i + 0x54
def Fld.lnkCntCtrlClear (i : Nat) : Fld := ⟨Reg.lnkCntCtrl i, 0, 1⟩
/-- LNK_ETH_MAC_LO. -/
def Reg.lnkEthMacLo (i : Nat) : Nat := Block.base .lnk i + 0x60
def Fld.lnkEthMacLoValue (i : Nat) : Fld := ⟨Reg.lnkEthMacLo i, 0, 32⟩
/-- LNK_ETH_IP. -/
def Reg.lnkEthIp (i k : Nat) : Nat := Block.base .lnk i + 0x70 + 4 * k
def Fld.lnkEthIpValue (i k : Nat) : Fld := ⟨Reg.lnkEthIp i k, 0, 32⟩
/-- LNK_ETH_CFG. -/
def Reg.lnkEthCfg (i : Nat) : Nat := Block.base .lnk i + 0x68
def Fld.lnkEthCfgVid (i : Nat) : Fld := ⟨Reg.lnkEthCfg i, 0, 12⟩
def Fld.lnkEthCfgUdp (i : Nat) : Fld := ⟨Reg.lnkEthCfg i, 16, 16⟩
/-- LNK_ETH_MTU. -/
def Reg.lnkEthMtu (i : Nat) : Nat := Block.base .lnk i + 0x6c
def Fld.lnkEthMtuMtu (i : Nat) : Fld := ⟨Reg.lnkEthMtu i, 0, 14⟩
/-- LNK_SHARE. -/
def Reg.lnkShare (i k : Nat) : Nat := Block.base .lnk i + 0x80 + 4 * k
def Fld.lnkShareJob (i k : Nat) : Fld := ⟨Reg.lnkShare i k, 0, 24⟩
def Fld.lnkShareShare (i k : Nat) : Fld := ⟨Reg.lnkShare i k, 24, 7⟩
/-- TRP_LIFETIME. -/
def Reg.trpLifetime : Nat := Block.base .trp 0 + 0x0
def Fld.trpLifetimeLifetime : Fld := ⟨Reg.trpLifetime, 0, 16⟩
/-- TRP_RTO. -/
def Reg.trpRto : Nat := Block.base .trp 0 + 0x4
def Fld.trpRtoRto : Fld := ⟨Reg.trpRto, 0, 16⟩
/-- TRP_STATUS. -/
def Reg.trpStatus : Nat := Block.base .trp 0 + 0x8
def Fld.trpStatusTxConns : Fld := ⟨Reg.trpStatus, 0, 16⟩
def Fld.trpStatusRxConns : Fld := ⟨Reg.trpStatus, 16, 16⟩
/-- TRP_GEN_DROP. -/
def Reg.trpGenDrop : Nat := Block.base .trp 0 + 0xc
def Fld.trpGenDropCount : Fld := ⟨Reg.trpGenDrop, 0, 32⟩
/-- TRP_DUP. -/
def Reg.trpDup : Nat := Block.base .trp 0 + 0x10
def Fld.trpDupCount : Fld := ⟨Reg.trpDup, 0, 32⟩
/-- TRP_RETX. -/
def Reg.trpRetx : Nat := Block.base .trp 0 + 0x14
def Fld.trpRetxCount : Fld := ⟨Reg.trpRetx, 0, 32⟩
/-- TRP_GIVEUP. -/
def Reg.trpGiveup : Nat := Block.base .trp 0 + 0x18
def Fld.trpGiveupCount : Fld := ⟨Reg.trpGiveup, 0, 32⟩
/-- TRP_ID_WAIT. -/
def Reg.trpIdWait : Nat := Block.base .trp 0 + 0x1c
def Fld.trpIdWaitCount : Fld := ⟨Reg.trpIdWait, 0, 32⟩
/-- TRP_BAD_PKT. -/
def Reg.trpBadPkt : Nat := Block.base .trp 0 + 0x20
def Fld.trpBadPktCount : Fld := ⟨Reg.trpBadPkt, 0, 32⟩
/-- TRP_CONN_FULL. -/
def Reg.trpConnFull : Nat := Block.base .trp 0 + 0x24
def Fld.trpConnFullCount : Fld := ⟨Reg.trpConnFull, 0, 32⟩
/-- TRP_CNT_CTRL. -/
def Reg.trpCntCtrl : Nat := Block.base .trp 0 + 0x28
def Fld.trpCntCtrlClear : Fld := ⟨Reg.trpCntCtrl, 0, 1⟩
/-- VBL_NODE. -/
def Reg.vblNode : Nat := Block.base .vbl 0 + 0x0
def Fld.vblNodeNode : Fld := ⟨Reg.vblNode, 0, 20⟩
def Fld.vblNodeValid : Fld := ⟨Reg.vblNode, 31, 1⟩
/-- VBL_TORUS. -/
def Reg.vblTorus : Nat := Block.base .vbl 0 + 0x4
def Fld.vblTorusDxm1 : Fld := ⟨Reg.vblTorus, 0, 6⟩
def Fld.vblTorusDym1 : Fld := ⟨Reg.vblTorus, 6, 5⟩
def Fld.vblTorusDzm1 : Fld := ⟨Reg.vblTorus, 11, 5⟩
def Fld.vblTorusX : Fld := ⟨Reg.vblTorus, 16, 6⟩
def Fld.vblTorusY : Fld := ⟨Reg.vblTorus, 22, 5⟩
def Fld.vblTorusZ : Fld := ⟨Reg.vblTorus, 27, 5⟩
/-- VBL_GW. -/
def Reg.vblGw : Nat := Block.base .vbl 0 + 0x8
def Fld.vblGwGwNode : Fld := ⟨Reg.vblGw, 0, 20⟩
def Fld.vblGwGwValid : Fld := ⟨Reg.vblGw, 31, 1⟩
/-- VBL_HINGE. -/
def Reg.vblHinge : Nat := Block.base .vbl 0 + 0xc
def Fld.vblHingeHold : Fld := ⟨Reg.vblHinge, 0, 16⟩
/-- VBL_TBL_CTRL. -/
def Reg.vblTblCtrl : Nat := Block.base .vbl 0 + 0x10
def Fld.vblTblCtrlActive : Fld := ⟨Reg.vblTblCtrl, 0, 1⟩
def Fld.vblTblCtrlArm : Fld := ⟨Reg.vblTblCtrl, 1, 1⟩
/-- VBL_TBL_STATUS. -/
def Reg.vblTblStatus : Nat := Block.base .vbl 0 + 0x14
def Fld.vblTblStatusArmed : Fld := ⟨Reg.vblTblStatus, 0, 1⟩
def Fld.vblTblStatusOldBusy : Fld := ⟨Reg.vblTblStatus, 1, 1⟩
def Fld.vblTblStatusSwitched : Fld := ⟨Reg.vblTblStatus, 2, 1⟩
def Fld.vblTblStatusLate : Fld := ⟨Reg.vblTblStatus, 3, 1⟩
/-- VBL_SWITCH_TICK. -/
def Reg.vblSwitchTick : Nat := Block.base .vbl 0 + 0x18
/-- VBL_BOOT. -/
def Reg.vblBoot : Nat := Block.base .vbl 0 + 0x20
def Fld.vblBootBoot : Fld := ⟨Reg.vblBoot, 0, 16⟩
/-- VBL_RX_DENIED. -/
def Reg.vblRxDenied : Nat := Block.base .vbl 0 + 0x24
def Fld.vblRxDeniedCount : Fld := ⟨Reg.vblRxDenied, 0, 32⟩
/-- VBL_FWD_DROP. -/
def Reg.vblFwdDrop : Nat := Block.base .vbl 0 + 0x28
def Fld.vblFwdDropCount : Fld := ⟨Reg.vblFwdDrop, 0, 32⟩
/-- VBL_RCACHE_HIT. -/
def Reg.vblRcacheHit : Nat := Block.base .vbl 0 + 0x2c
def Fld.vblRcacheHitCount : Fld := ⟨Reg.vblRcacheHit, 0, 32⟩
/-- VBL_RCACHE_FULL. -/
def Reg.vblRcacheFull : Nat := Block.base .vbl 0 + 0x30
def Fld.vblRcacheFullCount : Fld := ⟨Reg.vblRcacheFull, 0, 32⟩
/-- VBL_LATE_RSP. -/
def Reg.vblLateRsp : Nat := Block.base .vbl 0 + 0x34
def Fld.vblLateRspCount : Fld := ⟨Reg.vblLateRsp, 0, 32⟩
/-- VBL_EX_DEMOTED. -/
def Reg.vblExDemoted : Nat := Block.base .vbl 0 + 0x38
def Fld.vblExDemotedCount : Fld := ⟨Reg.vblExDemoted, 0, 32⟩
/-- VBL_CNT_CTRL. -/
def Reg.vblCntCtrl : Nat := Block.base .vbl 0 + 0x3c
def Fld.vblCntCtrlClear : Fld := ⟨Reg.vblCntCtrl, 0, 1⟩
/-- VBL_CTX_CTRL. -/
def Reg.vblCtxCtrl (i : Nat) : Nat := Block.base .vblc i + 0x0
def Fld.vblCtxCtrlCache (i : Nat) : Fld := ⟨Reg.vblCtxCtrl i, 30, 1⟩
def Fld.vblCtxCtrlExpress (i : Nat) : Fld := ⟨Reg.vblCtxCtrl i, 31, 1⟩
/-- VBL_INC. -/
def Reg.vblInc (i : Nat) : Nat := Block.base .vblc i + 0x4
def Fld.vblIncInc (i : Nat) : Fld := ⟨Reg.vblInc i, 0, 32⟩
/-- VBL_UNKNOWN. -/
def Reg.vblUnknown (i : Nat) : Nat := Block.base .vblc i + 0x8
def Fld.vblUnknownCount (i : Nat) : Fld := ⟨Reg.vblUnknown i, 0, 32⟩
/-- VBL_DENIED. -/
def Reg.vblDenied (i : Nat) : Nat := Block.base .vblc i + 0xc
def Fld.vblDeniedCount (i : Nat) : Fld := ⟨Reg.vblDenied i, 0, 32⟩
/-- VBL_UNREACH. -/
def Reg.vblUnreach (i : Nat) : Nat := Block.base .vblc i + 0x10
def Fld.vblUnreachCount (i : Nat) : Fld := ⟨Reg.vblUnreach i, 0, 32⟩
/-- COL_CTX_CTRL. -/
def Reg.colCtxCtrl (i : Nat) : Nat := Block.base .col i + 0x0
def Fld.colCtxCtrlPieceTiles (i : Nat) : Fld := ⟨Reg.colCtxCtrl i, 0, 13⟩
def Fld.colCtxCtrlStepLog2 (i : Nat) : Fld := ⟨Reg.colCtxCtrl i, 16, 5⟩
def Fld.colCtxCtrlTimeoutS (i : Nat) : Fld := ⟨Reg.colCtxCtrl i, 24, 8⟩
/-- COL_SCRATCH. -/
def Reg.colScratch (i : Nat) : Nat := Block.base .col i + 0x4
/-- COL_SCRATCH_TILES. -/
def Reg.colScratchTiles (i : Nat) : Nat := Block.base .col i + 0xc
def Fld.colScratchTilesTiles (i : Nat) : Fld := ⟨Reg.colScratchTiles i, 0, 24⟩
/-- COL_STATUS. -/
def Reg.colStatus (i : Nat) : Nat := Block.base .col i + 0x10
def Fld.colStatusLastStatus (i : Nat) : Fld := ⟨Reg.colStatus i, 0, 8⟩
def Fld.colStatusLastReason (i : Nat) : Fld := ⟨Reg.colStatus i, 16, 8⟩
def Fld.colStatusRunning (i : Nat) : Fld := ⟨Reg.colStatus i, 24, 7⟩
/-- COL_DONE. -/
def Reg.colDone (i : Nat) : Nat := Block.base .col i + 0x14
def Fld.colDoneCount (i : Nat) : Fld := ⟨Reg.colDone i, 0, 32⟩
/-- COL_ABORTS. -/
def Reg.colAborts (i : Nat) : Nat := Block.base .col i + 0x18
def Fld.colAbortsCount (i : Nat) : Fld := ⟨Reg.colAborts i, 0, 32⟩
/-- COL_SLIPS. -/
def Reg.colSlips (i : Nat) : Nat := Block.base .col i + 0x1c
def Fld.colSlipsCount (i : Nat) : Fld := ⟨Reg.colSlips i, 0, 32⟩
/-- COL_STRAY. -/
def Reg.colStray (i : Nat) : Nat := Block.base .col i + 0x20
def Fld.colStrayCount (i : Nat) : Fld := ⟨Reg.colStray i, 0, 32⟩
/-- COL_DROPPED. -/
def Reg.colDropped (i : Nat) : Nat := Block.base .col i + 0x24
/-- COL_WAIT_TICKS. -/
def Reg.colWaitTicks (i : Nat) : Nat := Block.base .col i + 0x2c
/-- COL_CNT_CTRL. -/
def Reg.colCntCtrl (i : Nat) : Nat := Block.base .col i + 0x34
def Fld.colCntCtrlClear (i : Nat) : Fld := ⟨Reg.colCntCtrl i, 0, 1⟩
/-- SHT_RECT. -/
def Reg.shtRect (i : Nat) : Nat := Block.base .sht i + 0x0
def Fld.shtRectX0 (i : Nat) : Fld := ⟨Reg.shtRect i, 0, 4⟩
def Fld.shtRectX1 (i : Nat) : Fld := ⟨Reg.shtRect i, 4, 4⟩
def Fld.shtRectY0 (i : Nat) : Fld := ⟨Reg.shtRect i, 8, 4⟩
def Fld.shtRectY1 (i : Nat) : Fld := ⟨Reg.shtRect i, 12, 4⟩
def Fld.shtRectValid (i : Nat) : Fld := ⟨Reg.shtRect i, 31, 1⟩
/-- SHT_T2_BASE. -/
def Reg.shtT2Base (i : Nat) : Nat := Block.base .sht i + 0x4
def Fld.shtT2BaseTiles (i : Nat) : Fld := ⟨Reg.shtT2Base i, 0, 25⟩
/-- SHT_T2_SIZE. -/
def Reg.shtT2Size (i : Nat) : Nat := Block.base .sht i + 0x8
def Fld.shtT2SizeTiles (i : Nat) : Fld := ⟨Reg.shtT2Size i, 0, 25⟩
/-- SHT_PORTS. -/
def Reg.shtPorts (i : Nat) : Nat := Block.base .sht i + 0xc
def Fld.shtPortsPorts (i : Nat) : Fld := ⟨Reg.shtPorts i, 0, 32⟩
/-- SHT_CFG. -/
def Reg.shtCfg (i : Nat) : Nat := Block.base .sht i + 0x10
def Fld.shtCfgT2Share (i : Nat) : Fld := ⟨Reg.shtCfg i, 0, 6⟩
def Fld.shtCfgXex (i : Nat) : Fld := ⟨Reg.shtCfg i, 8, 1⟩
/-- SHT_CTRL. -/
def Reg.shtCtrl (i : Nat) : Nat := Block.base .sht i + 0x14
def Fld.shtCtrlReset (i : Nat) : Fld := ⟨Reg.shtCtrl i, 0, 1⟩
def Fld.shtCtrlClear (i : Nat) : Fld := ⟨Reg.shtCtrl i, 1, 1⟩
/-- SHT_STATUS. -/
def Reg.shtStatus (i : Nat) : Nat := Block.base .sht i + 0x18
def Fld.shtStatusActive (i : Nat) : Fld := ⟨Reg.shtStatus i, 0, 1⟩
def Fld.shtStatusResetting (i : Nat) : Fld := ⟨Reg.shtStatus i, 1, 1⟩
def Fld.shtStatusZeroing (i : Nat) : Fld := ⟨Reg.shtStatus i, 2, 1⟩
def Fld.shtStatusRetained (i : Nat) : Fld := ⟨Reg.shtStatus i, 3, 1⟩
def Fld.shtStatusLastRefusal (i : Nat) : Fld := ⟨Reg.shtStatus i, 8, 8⟩
/-- SHT_MISUSE. -/
def Reg.shtMisuse (i : Nat) : Nat := Block.base .sht i + 0x1c
def Fld.shtMisuseCount (i : Nat) : Fld := ⟨Reg.shtMisuse i, 0, 32⟩
/-- SHT_MOD_CTRL. -/
def Reg.shtModCtrl : Nat := Block.base .shtm 0 + 0x4
def Fld.shtModCtrlClear : Fld := ⟨Reg.shtModCtrl, 0, 1⟩
/-- CTX_CFG. -/
def Reg.ctxCfg (i : Nat) : Nat := Block.base .ctx i + 0x0
def Fld.ctxCfgPartition (i : Nat) : Fld := ⟨Reg.ctxCfg i, 0, 5⟩
def Fld.ctxCfgValid (i : Nat) : Fld := ⟨Reg.ctxCfg i, 31, 1⟩
/-- CTX_JOB. -/
def Reg.ctxJob (i : Nat) : Nat := Block.base .ctx i + 0x4
def Fld.ctxJobJob (i : Nat) : Fld := ⟨Reg.ctxJob i, 0, 24⟩
/-- CTX_OPT. -/
def Reg.ctxOpt (i : Nat) : Nat := Block.base .ctx i + 0x8
def Fld.ctxOptPriv (i : Nat) : Fld := ⟨Reg.ctxOpt i, 0, 1⟩
/-- CTX_CMD. -/
def Reg.ctxCmd (i : Nat) : Nat := Block.base .ctx i + 0xc
def Fld.ctxCmdCmd (i : Nat) : Fld := ⟨Reg.ctxCmd i, 0, 3⟩
def Fld.ctxCmdRetain (i : Nat) : Fld := ⟨Reg.ctxCmd i, 8, 1⟩
/-- CTX_STATUS. -/
def Reg.ctxStatus (i : Nat) : Nat := Block.base .ctx i + 0x10
def Fld.ctxStatusResult (i : Nat) : Fld := ⟨Reg.ctxStatus i, 0, 8⟩
def Fld.ctxStatusBind (i : Nat) : Fld := ⟨Reg.ctxStatus i, 8, 8⟩
def Fld.ctxStatusState (i : Nat) : Fld := ⟨Reg.ctxStatus i, 16, 3⟩
def Fld.ctxStatusBusy (i : Nat) : Fld := ⟨Reg.ctxStatus i, 31, 1⟩
/-- CTX_FAULT. -/
def Reg.ctxFault (i : Nat) : Nat := Block.base .ctx i + 0x14
def Fld.ctxFaultCause (i : Nat) : Fld := ⟨Reg.ctxFault i, 0, 8⟩
def Fld.ctxFaultOrdinal (i : Nat) : Fld := ⟨Reg.ctxFault i, 8, 24⟩
/-- CTX_SEED. -/
def Reg.ctxSeed (i : Nat) : Nat := Block.base .ctx i + 0x18
/-- CTX_IMAGE. -/
def Reg.ctxImage (i : Nat) : Nat := Block.base .ctx i + 0x20
/-- CTX_START_TICK. -/
def Reg.ctxStartTick (i : Nat) : Nat := Block.base .ctx i + 0x28
/-- EVC_CTRL. -/
def Reg.evcCtrl : Nat := Block.base .evc 0 + 0x0
def Fld.evcCtrlGdis : Fld := ⟨Reg.evcCtrl, 0, 1⟩
/-- EVC_STATUS. -/
def Reg.evcStatus : Nat := Block.base .evc 0 + 0x4
def Fld.evcStatusHeld : Fld := ⟨Reg.evcStatus, 0, 13⟩
/-- EVC_MASKED. -/
def Reg.evcMasked : Nat := Block.base .evc 0 + 0x8
def Fld.evcMaskedCount : Fld := ⟨Reg.evcMasked, 0, 32⟩
/-- EVC_DROPPED. -/
def Reg.evcDropped : Nat := Block.base .evc 0 + 0xc
def Fld.evcDroppedCount : Fld := ⟨Reg.evcDropped, 0, 32⟩
/-- EVC_CNT_CTRL. -/
def Reg.evcCntCtrl : Nat := Block.base .evc 0 + 0x10
def Fld.evcCntCtrlClear : Fld := ⟨Reg.evcCntCtrl, 0, 1⟩
/-- EVC_PART_Q. -/
def Reg.evcPartQ (k : Nat) : Nat := Block.base .evc 0 + 0x40 + 4 * k
def Fld.evcPartQQ (k : Nat) : Fld := ⟨Reg.evcPartQ k, 0, 3⟩
def Fld.evcPartQEn (k : Nat) : Fld := ⟨Reg.evcPartQ k, 31, 1⟩
/-- EVC_Q_BASE. -/
def Reg.evcQBase (i : Nat) : Nat := Block.base .evq i + 0x0
/-- EVC_Q_CTRL. -/
def Reg.evcQCtrl (i : Nat) : Nat := Block.base .evq i + 0x8
def Fld.evcQCtrlSizeLog2 (i : Nat) : Fld := ⟨Reg.evcQCtrl i, 16, 4⟩
def Fld.evcQCtrlSevNow (i : Nat) : Fld := ⟨Reg.evcQCtrl i, 24, 4⟩
def Fld.evcQCtrlKind (i : Nat) : Fld := ⟨Reg.evcQCtrl i, 30, 1⟩
def Fld.evcQCtrlEn (i : Nat) : Fld := ⟨Reg.evcQCtrl i, 31, 1⟩
/-- EVC_Q_COAL. -/
def Reg.evcQCoal (i : Nat) : Nat := Block.base .evq i + 0xc
def Fld.evcQCoalCount (i : Nat) : Fld := ⟨Reg.evcQCoal i, 0, 10⟩
def Fld.evcQCoalTimeUs (i : Nat) : Fld := ⟨Reg.evcQCoal i, 16, 16⟩
/-- EVC_Q_TAIL. -/
def Reg.evcQTail (i : Nat) : Nat := Block.base .evq i + 0x10
def Fld.evcQTailIndex (i : Nat) : Fld := ⟨Reg.evcQTail i, 0, 16⟩
/-- EVC_Q_HEAD. -/
def Reg.evcQHead (i : Nat) : Nat := Block.base .evq i + 0x14
def Fld.evcQHeadIndex (i : Nat) : Fld := ⟨Reg.evcQHead i, 0, 16⟩
/-- EVC_Q_DONE. -/
def Reg.evcQDone (i : Nat) : Nat := Block.base .evq i + 0x18
def Fld.evcQDoneDone (i : Nat) : Fld := ⟨Reg.evcQDone i, 0, 1⟩
/-- EVC_Q_TGT. -/
def Reg.evcQTgt (i : Nat) : Nat := Block.base .evq i + 0x1c
def Fld.evcQTgtEn (i : Nat) : Fld := ⟨Reg.evcQTgt i, 0, 9⟩
def Fld.evcQTgtLast (i : Nat) : Fld := ⟨Reg.evcQTgt i, 28, 4⟩
/-- EVC_Q_DB. -/
def Reg.evcQDb (i k : Nat) : Nat := Block.base .evq i + 0x20 + 8 * k
/-- EVC_Q_WMARK. -/
def Reg.evcQWmark (i : Nat) : Nat := Block.base .evq i + 0x40
def Fld.evcQWmarkValue (i : Nat) : Fld := ⟨Reg.evcQWmark i, 0, 16⟩
/-- EVC_Q_ACK. -/
def Reg.evcQAck (i : Nat) : Nat := Block.base .evq i + 0x44
def Fld.evcQAckValue (i : Nat) : Fld := ⟨Reg.evcQAck i, 0, 16⟩
/-- EVC_Q_STAT. -/
def Reg.evcQStat (i : Nat) : Nat := Block.base .evq i + 0x48
def Fld.evcQStatHeld (i : Nat) : Fld := ⟨Reg.evcQStat i, 0, 13⟩
def Fld.evcQStatFault (i : Nat) : Fld := ⟨Reg.evcQStat i, 30, 1⟩
def Fld.evcQStatSignalled (i : Nat) : Fld := ⟨Reg.evcQStat i, 31, 1⟩
/-- EVC_Q_DROP. -/
def Reg.evcQDrop (i : Nat) : Nat := Block.base .evq i + 0x4c
def Fld.evcQDropCount (i : Nat) : Fld := ⟨Reg.evcQDrop i, 0, 32⟩
/-- EVC_Q_REDELIVER. -/
def Reg.evcQRedeliver (i : Nat) : Nat := Block.base .evq i + 0x50
def Fld.evcQRedeliverCount (i : Nat) : Fld := ⟨Reg.evcQRedeliver i, 0, 32⟩
/-- EVC_SRC. -/
def Reg.evcSrc (i : Nat) : Nat := Block.base .evs i + 0x0
def Fld.evcSrcEntries (i : Nat) : Fld := ⟨Reg.evcSrc i, 0, 32⟩
/-- EVC_ALM_CFG. -/
def Reg.evcAlmCfg (i : Nat) : Nat := Block.base .alm i + 0x0
def Fld.evcAlmCfgFilter (i : Nat) : Fld := ⟨Reg.evcAlmCfg i, 0, 16⟩
def Fld.evcAlmCfgSev (i : Nat) : Fld := ⟨Reg.evcAlmCfg i, 16, 4⟩
def Fld.evcAlmCfgMode (i : Nat) : Fld := ⟨Reg.evcAlmCfg i, 29, 1⟩
def Fld.evcAlmCfgPol (i : Nat) : Fld := ⟨Reg.evcAlmCfg i, 30, 1⟩
def Fld.evcAlmCfgEn (i : Nat) : Fld := ⟨Reg.evcAlmCfg i, 31, 1⟩
/-- EVC_ALM_STAT. -/
def Reg.evcAlmStat (i : Nat) : Nat := Block.base .alm i + 0x4
def Fld.evcAlmStatTaken (i : Nat) : Fld := ⟨Reg.evcAlmStat i, 30, 1⟩
def Fld.evcAlmStatRaw (i : Nat) : Fld := ⟨Reg.evcAlmStat i, 31, 1⟩
/-- EVC_ALM_GLITCH. -/
def Reg.evcAlmGlitch (i : Nat) : Nat := Block.base .alm i + 0x8
def Fld.evcAlmGlitchCount (i : Nat) : Fld := ⟨Reg.evcAlmGlitch i, 0, 32⟩
/-- PTC_POS_STAT. -/
def Reg.ptcPosStat (i : Nat) : Nat := Block.base .ptc i + 0x0
def Fld.ptcPosStatArrays (i : Nat) : Fld := ⟨Reg.ptcPosStat i, 0, 10⟩
def Fld.ptcPosStatTransients (i : Nat) : Fld := ⟨Reg.ptcPosStat i, 16, 8⟩
def Fld.ptcPosStatLastResult (i : Nat) : Fld := ⟨Reg.ptcPosStat i, 24, 4⟩
def Fld.ptcPosStatFailed (i : Nat) : Fld := ⟨Reg.ptcPosStat i, 30, 1⟩
def Fld.ptcPosStatSuspect (i : Nat) : Fld := ⟨Reg.ptcPosStat i, 31, 1⟩
/-- PTC_POS_TIME. -/
def Reg.ptcPosTime (i : Nat) : Nat := Block.base .ptc i + 0x4
def Fld.ptcPosTimeClean (i : Nat) : Fld := ⟨Reg.ptcPosTime i, 0, 16⟩
def Fld.ptcPosTimeSinceScan (i : Nat) : Fld := ⟨Reg.ptcPosTime i, 16, 16⟩
/-- PTC_STATUS. -/
def Reg.ptcStatus (i : Nat) : Nat := Block.base .ptcp i + 0x50
def Fld.ptcStatusPending (i : Nat) : Fld := ⟨Reg.ptcStatus i, 0, 5⟩
def Fld.ptcStatusPos (i : Nat) : Fld := ⟨Reg.ptcStatus i, 8, 3⟩
def Fld.ptcStatusDeferred (i : Nat) : Fld := ⟨Reg.ptcStatus i, 30, 1⟩
def Fld.ptcStatusBusy (i : Nat) : Fld := ⟨Reg.ptcStatus i, 31, 1⟩
/-- PTC_SAVE. -/
def Reg.ptcSave (i : Nat) : Nat := Block.base .ptcp i + 0x54
def Fld.ptcSaveArea (i : Nat) : Fld := ⟨Reg.ptcSave i, 0, 4⟩
/-- REL_SCAN_CFG. -/
def Reg.relScanCfg : Nat := Block.base .rel 0 + 0x0
def Fld.relScanCfgSuspectMin : Fld := ⟨Reg.relScanCfg, 0, 16⟩
def Fld.relScanCfgPeriodMin : Fld := ⟨Reg.relScanCfg, 16, 16⟩
/-- REL_OBS_CFG. -/
def Reg.relObsCfg : Nat := Block.base .rel 0 + 0x4
def Fld.relObsCfgTransientLimit : Fld := ⟨Reg.relObsCfg, 0, 8⟩
def Fld.relObsCfgCleanHours : Fld := ⟨Reg.relObsCfg, 8, 8⟩
/-- REL_MIN_ARRAYS. -/
def Reg.relMinArrays : Nat := Block.base .rel 0 + 0x8
def Fld.relMinArraysMin : Fld := ⟨Reg.relMinArrays, 0, 10⟩
/-- REL_SCAN_REQ. -/
def Reg.relScanReq : Nat := Block.base .rel 0 + 0xc
def Fld.relScanReqPosition : Fld := ⟨Reg.relScanReq, 0, 9⟩
def Fld.relScanReqCalib : Fld := ⟨Reg.relScanReq, 9, 1⟩
/-- REL_SCAN_RESULT. -/
def Reg.relScanResult : Nat := Block.base .rel 0 + 0x10
def Fld.relScanResultResult : Fld := ⟨Reg.relScanResult, 0, 4⟩
/-- REL_MISMATCHES. -/
def Reg.relMismatches : Nat := Block.base .rel 0 + 0x14
def Fld.relMismatchesCount : Fld := ⟨Reg.relMismatches, 0, 32⟩
/-- REL_TRANSIENTS. -/
def Reg.relTransients : Nat := Block.base .rel 0 + 0x18
def Fld.relTransientsCount : Fld := ⟨Reg.relTransients, 0, 32⟩
/-- REL_PERMANENTS. -/
def Reg.relPermanents : Nat := Block.base .rel 0 + 0x1c
def Fld.relPermanentsCount : Fld := ⟨Reg.relPermanents, 0, 32⟩
/-- REL_UNRESOLVED. -/
def Reg.relUnresolved : Nat := Block.base .rel 0 + 0x20
def Fld.relUnresolvedCount : Fld := ⟨Reg.relUnresolved, 0, 32⟩
/-- REL_SCAN_PASS. -/
def Reg.relScanPass : Nat := Block.base .rel 0 + 0x24
def Fld.relScanPassCount : Fld := ⟨Reg.relScanPass, 0, 32⟩
/-- REL_SCAN_FAIL. -/
def Reg.relScanFail : Nat := Block.base .rel 0 + 0x28
def Fld.relScanFailCount : Fld := ⟨Reg.relScanFail, 0, 32⟩
/-- REL_DEFERRED. -/
def Reg.relDeferred : Nat := Block.base .rel 0 + 0x2c
def Fld.relDeferredCount : Fld := ⟨Reg.relDeferred, 0, 32⟩
/-- REL_CNT_CTRL. -/
def Reg.relCntCtrl : Nat := Block.base .rel 0 + 0x30
def Fld.relCntCtrlClear : Fld := ⟨Reg.relCntCtrl, 0, 1⟩
/-- REL_CTX_CTRL. -/
def Reg.relCtxCtrl (i : Nat) : Nat := Block.base .relc i + 0x0
def Fld.relCtxCtrlLevel (i : Nat) : Fld := ⟨Reg.relCtxCtrl i, 0, 3⟩
def Fld.relCtxCtrlForce (i : Nat) : Fld := ⟨Reg.relCtxCtrl i, 8, 1⟩
/-- REL_CTX_STATUS. -/
def Reg.relCtxStatus (i : Nat) : Nat := Block.base .relc i + 0x4
def Fld.relCtxStatusForceResult (i : Nat) : Fld := ⟨Reg.relCtxStatus i, 0, 8⟩
def Fld.relCtxStatusDupLocal (i : Nat) : Fld := ⟨Reg.relCtxStatus i, 31, 1⟩
/-- REL_CTX_MISMATCH. -/
def Reg.relCtxMismatch (i : Nat) : Nat := Block.base .relc i + 0x8
def Fld.relCtxMismatchCount (i : Nat) : Fld := ⟨Reg.relCtxMismatch i, 0, 32⟩
/-- REL_CTX_UNRESOLVED. -/
def Reg.relCtxUnresolved (i : Nat) : Nat := Block.base .relc i + 0xc
def Fld.relCtxUnresolvedCount (i : Nat) : Fld := ⟨Reg.relCtxUnresolved i, 0, 32⟩
/-- PWR_R_CTRL. -/
def Reg.pwrRCtrl (i : Nat) : Nat := Block.base .pwr i + 0x0
def Fld.pwrRCtrlEn (i : Nat) : Fld := ⟨Reg.pwrRCtrl i, 0, 1⟩
/-- PWR_R_STAT. -/
def Reg.pwrRStat (i : Nat) : Nat := Block.base .pwr i + 0x4
def Fld.pwrRStatState (i : Nat) : Fld := ⟨Reg.pwrRStat i, 0, 3⟩
def Fld.pwrRStatTrim (i : Nat) : Fld := ⟨Reg.pwrRStat i, 16, 8⟩
def Fld.pwrRStatPace (i : Nat) : Fld := ⟨Reg.pwrRStat i, 24, 5⟩
def Fld.pwrRStatCapped (i : Nat) : Fld := ⟨Reg.pwrRStat i, 30, 1⟩
def Fld.pwrRStatPendingOn (i : Nat) : Fld := ⟨Reg.pwrRStat i, 31, 1⟩
/-- PWR_R_TEL0. -/
def Reg.pwrRTel0 (i : Nat) : Nat := Block.base .pwr i + 0x8
def Fld.pwrRTel0Vsense (i : Nat) : Fld := ⟨Reg.pwrRTel0 i, 0, 16⟩
def Fld.pwrRTel0Current (i : Nat) : Fld := ⟨Reg.pwrRTel0 i, 16, 16⟩
/-- PWR_R_TEL1. -/
def Reg.pwrRTel1 (i : Nat) : Nat := Block.base .pwr i + 0xc
def Fld.pwrRTel1Stretch (i : Nat) : Fld := ⟨Reg.pwrRTel1 i, 8, 8⟩
def Fld.pwrRTel1Temp (i : Nat) : Fld := ⟨Reg.pwrRTel1 i, 16, 16⟩
/-- PWR_R_RCON. -/
def Reg.pwrRRcon (i : Nat) : Nat := Block.base .pwr i + 0x10
def Fld.pwrRRconEstimate (i : Nat) : Fld := ⟨Reg.pwrRRcon i, 0, 16⟩
def Fld.pwrRRconBaseline (i : Nat) : Fld := ⟨Reg.pwrRRcon i, 16, 16⟩
/-- PWR_R_CNT. -/
def Reg.pwrRCnt (i : Nat) : Nat := Block.base .pwr i + 0x14
def Fld.pwrRCntFloors (i : Nat) : Fld := ⟨Reg.pwrRCnt i, 0, 16⟩
def Fld.pwrRCntDroops (i : Nat) : Fld := ⟨Reg.pwrRCnt i, 16, 16⟩
/-- PWR_IN. -/
def Reg.pwrIn : Nat := Block.base .pwrm 0 + 0x0
def Fld.pwrInVoltage : Fld := ⟨Reg.pwrIn, 0, 16⟩
def Fld.pwrInCurrent : Fld := ⟨Reg.pwrIn, 16, 16⟩
/-- PWR_IN_W. -/
def Reg.pwrInW : Nat := Block.base .pwrm 0 + 0x4
def Fld.pwrInWPower : Fld := ⟨Reg.pwrInW, 0, 32⟩
/-- PWR_COOL_T. -/
def Reg.pwrCoolT : Nat := Block.base .pwrm 0 + 0x8
def Fld.pwrCoolTBotIn : Fld := ⟨Reg.pwrCoolT, 0, 8⟩
def Fld.pwrCoolTBotOut : Fld := ⟨Reg.pwrCoolT, 8, 8⟩
def Fld.pwrCoolTTopIn : Fld := ⟨Reg.pwrCoolT, 16, 8⟩
def Fld.pwrCoolTTopOut : Fld := ⟨Reg.pwrCoolT, 24, 8⟩
/-- PWR_COOL_F. -/
def Reg.pwrCoolF : Nat := Block.base .pwrm 0 + 0xc
def Fld.pwrCoolFBottom : Fld := ⟨Reg.pwrCoolF, 0, 16⟩
def Fld.pwrCoolFTop : Fld := ⟨Reg.pwrCoolF, 16, 16⟩
/-- PWR_STATUS. -/
def Reg.pwrStatus : Nat := Block.base .pwrm 0 + 0x10
def Fld.pwrStatusHottest : Fld := ⟨Reg.pwrStatus, 0, 9⟩
def Fld.pwrStatusCommonPace : Fld := ⟨Reg.pwrStatus, 16, 5⟩
def Fld.pwrStatusThermHigh : Fld := ⟨Reg.pwrStatus, 28, 1⟩
def Fld.pwrStatusCoolCap : Fld := ⟨Reg.pwrStatus, 29, 1⟩
def Fld.pwrStatusInputCap : Fld := ⟨Reg.pwrStatus, 30, 1⟩
def Fld.pwrStatusInputLow : Fld := ⟨Reg.pwrStatus, 31, 1⟩
/-- PWR_SAGS. -/
def Reg.pwrSags : Nat := Block.base .pwrm 0 + 0x14
def Fld.pwrSagsCount : Fld := ⟨Reg.pwrSags, 0, 32⟩
/-- PWR_CFAULTS. -/
def Reg.pwrCfaults : Nat := Block.base .pwrm 0 + 0x18
def Fld.pwrCfaultsCount : Fld := ⟨Reg.pwrCfaults, 0, 32⟩
/-- PWR_CAP_MS. -/
def Reg.pwrCapMs : Nat := Block.base .pwrm 0 + 0x1c
def Fld.pwrCapMsCount : Fld := ⟨Reg.pwrCapMs, 0, 32⟩
/-- PWR_CNT_CTRL. -/
def Reg.pwrCntCtrl : Nat := Block.base .pwrm 0 + 0x20
def Fld.pwrCntCtrlClear : Fld := ⟨Reg.pwrCntCtrl, 0, 1⟩
/-- SVC_STATUS. -/
def Reg.svcStatus : Nat := Block.base .svc 0 + 0x0
def Fld.svcStatusWarm : Fld := ⟨Reg.svcStatus, 0, 1⟩
def Fld.svcStatusGridComplete : Fld := ⟨Reg.svcStatus, 1, 1⟩
def Fld.svcStatusDruterDown : Fld := ⟨Reg.svcStatus, 2, 1⟩
def Fld.svcStatusSupValid : Fld := ⟨Reg.svcStatus, 8, 4⟩
def Fld.svcStatusPhase : Fld := ⟨Reg.svcStatus, 16, 4⟩
def Fld.svcStatusChainAddr : Fld := ⟨Reg.svcStatus, 24, 8⟩
/-- SVC_SUP. -/
def Reg.svcSup : Nat := Block.base .svc 0 + 0x4
def Fld.svcSupPanes : Fld := ⟨Reg.svcSup, 0, 32⟩
/-- SVC_BEAT. -/
def Reg.svcBeat : Nat := Block.base .svc 0 + 0x8
def Fld.svcBeatSeq : Fld := ⟨Reg.svcBeat, 0, 16⟩
/-- SVC_WDT. -/
def Reg.svcWdt : Nat := Block.base .svc 0 + 0xc
def Fld.svcWdtLimitMs : Fld := ⟨Reg.svcWdt, 0, 16⟩
def Fld.svcWdtRestarts : Fld := ⟨Reg.svcWdt, 16, 16⟩
/-- SVC_STORE. -/
def Reg.svcStore : Nat := Block.base .svc 0 + 0x10
def Fld.svcStoreSeq : Fld := ⟨Reg.svcStore, 0, 32⟩
/-- SVC_STORE_STAT. -/
def Reg.svcStoreStat : Nat := Block.base .svc 0 + 0x14
def Fld.svcStoreStatErased : Fld := ⟨Reg.svcStoreStat, 0, 8⟩
def Fld.svcStoreStatBank : Fld := ⟨Reg.svcStoreStat, 8, 1⟩
def Fld.svcStoreStatBusy : Fld := ⟨Reg.svcStoreStat, 31, 1⟩
/-- SVC_MGMT_DROP. -/
def Reg.svcMgmtDrop : Nat := Block.base .svc 0 + 0x18
def Fld.svcMgmtDropCount : Fld := ⟨Reg.svcMgmtDrop, 0, 32⟩
/-- LNK_FAR1. -/
def Reg.lnkFar1 (i : Nat) : Nat := Block.base .lnk i + 0xc
def Fld.lnkFar1Port (i : Nat) : Fld := ⟨Reg.lnkFar1 i, 0, 8⟩
def Fld.lnkFar1Version (i : Nat) : Fld := ⟨Reg.lnkFar1 i, 8, 8⟩
/-- LNK_ETH_MAC_HI. -/
def Reg.lnkEthMacHi (i : Nat) : Nat := Block.base .lnk i + 0x64
def Fld.lnkEthMacHiValue (i : Nat) : Fld := ⟨Reg.lnkEthMacHi i, 0, 16⟩
/-- SHT_MOD_MISUSE. -/
def Reg.shtModMisuse : Nat := Block.base .shtm 0 + 0x0
def Fld.shtModMisuseCount : Fld := ⟨Reg.shtModMisuse, 0, 32⟩
/-- ENT_KEY. -/
def Reg.entKey (i : Nat) : Nat := Block.base .ent i + 0x0
def Fld.entKeyNode (i : Nat) : Fld := ⟨Reg.entKey i, 0, 20⟩
def Fld.entKeyValid (i : Nat) : Fld := ⟨Reg.entKey i, 31, 1⟩
/-- ENT_IP. -/
def Reg.entIp (i k : Nat) : Nat := Block.base .ent i + 0x4 + 4 * k
def Fld.entIpIp (i k : Nat) : Fld := ⟨Reg.entIp i k, 0, 32⟩
/-- ENT_MAC_LO. -/
def Reg.entMacLo (i : Nat) : Nat := Block.base .ent i + 0x14
def Fld.entMacLoV (i : Nat) : Fld := ⟨Reg.entMacLo i, 0, 32⟩
/-- ENT_MAC_HI. -/
def Reg.entMacHi (i : Nat) : Nat := Block.base .ent i + 0x18
def Fld.entMacHiV (i : Nat) : Fld := ⟨Reg.entMacHi i, 0, 16⟩
/-- ENT_PORTS. -/
def Reg.entPorts (i : Nat) : Nat := Block.base .ent i + 0x1c
def Fld.entPortsV (i : Nat) : Fld := ⟨Reg.entPorts i, 0, 32⟩
/-- WIN_KEY. -/
def Reg.winKey (i : Nat) : Nat := Block.base .win i + 0x0
def Fld.winKeyJob (i : Nat) : Fld := ⟨Reg.winKey i, 0, 24⟩
def Fld.winKeyExpress (i : Nat) : Fld := ⟨Reg.winKey i, 30, 1⟩
def Fld.winKeyValid (i : Nat) : Fld := ⟨Reg.winKey i, 31, 1⟩
/-- WIN_TGT. -/
def Reg.winTgt (i : Nat) : Nat := Block.base .win i + 0x4
def Fld.winTgtPerm (i : Nat) : Fld := ⟨Reg.winTgt i, 0, 4⟩
def Fld.winTgtTier (i : Nat) : Fld := ⟨Reg.winTgt i, 24, 2⟩
def Fld.winTgtContext (i : Nat) : Fld := ⟨Reg.winTgt i, 26, 6⟩
/-- WIN_BASE. -/
def Reg.winBase (i : Nat) : Nat := Block.base .win i + 0x8
/-- WIN_LIMIT. -/
def Reg.winLimit (i : Nat) : Nat := Block.base .win i + 0x10
/-- WIN_TARGET. -/
def Reg.winTarget (i : Nat) : Nat := Block.base .win i + 0x18

end Sys2Proof
end

