-- ==== Sys2Proof/Machine/Flags.lean ====
section
/-!
DEFINITION. The six sticky exception flags of a task slot (R110) and how operations raise them (R47, R111).
-/
namespace Sys2Proof

/-- The FLAGS field of a task slot: bits [5:0] are IV DZ OF UF IX SA, bits [15:6] reserved (R110). -/
abbrev Flags := BitVec 16

def Flags.none : Flags := 0#16
/-- Invalid operation (R110 bit 0). -/
def Flags.iv : Flags := 1#16
/-- Division by zero (R110 bit 1). -/
def Flags.dz : Flags := 2#16
/-- Overflow (R110 bit 2). -/
def Flags.of : Flags := 4#16
/-- Underflow (R110 bit 3). -/
def Flags.uf : Flags := 8#16
/-- Inexact (R110 bit 4). -/
def Flags.ix : Flags := 16#16
/-- Saturation (R110 bit 5). -/
def Flags.sa : Flags := 32#16

/-- `f` when `c` holds, otherwise no flag. -/
def Flags.when (c : Bool) (f : Flags) : Flags := if c then f else Flags.none

/-- A value with the flags its computation raised. -/
abbrev Flagged (α : Type) := α × Flags

/-- Combine a list of flagged values; flags are sticky, so their union is raised (R47). -/
def Flagged.sequence {α : Type} (l : List (Flagged α)) : Flagged (List α) :=
  (l.map (·.1), l.foldl (fun f p => f ||| p.2) Flags.none)

end Sys2Proof
end

