-- ==== Sys2Proof/Machine/State.lean ====
section
/-!
DEFINITION. The machine's state as plain data, and the state after module reset (R145, register tables).
-/
namespace Sys2Proof.Machine
open Sys2Proof

/-- A sparse table: keys strictly rising. A key that is absent holds the default of its use. -/
abbrev SMap (α : Type) := List (Nat × α)

/-! ## Control space (chapters 0 and 22) -/

/-- The control registers, with the shadows and staged low halves of 64-bit quantities (R10 to R12). -/
structure Ctrl where
  /-- 32-bit registers by control-space byte address; an absent register holds its reset value. -/
  regs : SMap Word32
  /-- Captured high halves, by requester and address of the low half (R11). -/
  shadows : SMap Word32
  /-- Staged low halves, by requester and address of the low half (R11). -/
  staged : SMap Word32
  deriving DecidableEq, Repr

/-! ## Memory (chapter 9) -/

/-- T0, T1, T2 and the accumulator store as one byte map; poisoned sectors; pending ECC findings. -/
structure Memory where
  /-- Bytes by physical key, strictly rising, no zero byte listed. -/
  cells : List Host.Cell
  /-- Poisoned 64-byte sectors, strictly rising (R267). -/
  poison : List Nat
  /-- Writes of T2 tiles whose edge agent has not acknowledged them: partition and tile of its allocation (R258). -/
  acks : List (Nat × Nat)
  deriving DecidableEq, Repr

/-- One tile held in a core's staging pool for a context (R255 to R258). -/
structure Staged where
  /-- Tensor-space address of the tile. -/
  addr : Nat
  /-- Tile of the pool's area that the copy fills: its bytes and poison lie there (R241, R257). -/
  place : Nat
  /-- Slots whose task keeps the copy under PLACE 1 until its next THRESHOLD (R255). -/
  pins : List Nat
  /-- Slots whose unretired instruction holds the copy. -/
  holders : List Nat
  /-- The copy has landed. -/
  landed : Bool
  /-- The source was written and the copy drops when its holders retire. -/
  stale : Bool
  deriving DecidableEq, Repr

/-- The staging pool of one core for one context, least recently used copy first. -/
structure Pool where
  tiles : List Staged
  /-- Tiles that an AHEAD descriptor asked for and that are not staged yet (R255). -/
  ahead : List Nat
  deriving DecidableEq, Repr

/-! ## Cores (chapters 3 and 5 to 8) -/

/-- STATE of a task slot that is not EMPTY (R147). -/
inductive TState where
  | stopped | ready | waiting | faulted | halted
  deriving DecidableEq, Repr

/-- What a waiting task waits for. -/
inductive Wait where
  /-- WAIT_KIND 1: FILLED (or FREE) of an endpoint at least `n` (R190 to R194). -/
  | latch (ep : Nat) (free : Bool) (n : Nat)
  /-- WAIT_KIND 1: FREE of an endpoint at least `n`, and the credit of the merge node that it contributes to (R327). -/
  | inject (ep : Nat) (n : Nat)
  /-- WAIT_KIND 2: a buffer of the T0 or T1 pool (R200). -/
  | buffer (t1 : Bool)
  /-- WAIT_KIND 3: a tick (R209). -/
  | launch (tick : Nat)
  /-- WAIT_KIND 4: a casement's barrier, by node index (R207). -/
  | barrier (node : Nat)
  /-- WAIT_KIND 5 (R203, R204). -/
  | threshold
  /-- WAIT_KIND 6: a lease (R416). -/
  | lease
  /-- WAIT_KIND 7: tiles of T2 or T3, each with its PIN hint (R255). -/
  | tiles (addrs : List (Nat × Bool))
  /-- WAIT_KIND 7: tiles of an inbound stream (R92). -/
  | streamTiles (ep : Nat) (n : Nat)
  /-- WAIT_KIND 7: the collective instance that the task is a member of (R439). -/
  | coll
  /-- WAIT_KIND 7: an end of an instance, of which so many had ended when the wait began (R424, R426). -/
  | collRoom (ends : Nat)
  /-- A restored task waits again by issuing its instruction again (R148). -/
  | reissue (kind : Nat)
  deriving DecidableEq, Repr

/-- A resumable instruction whose first unit has issued (R173, R174). -/
structure Run where
  word : Word64
  ext : Word64
  /-- Number of units. -/
  units : Nat
  /-- Completed units. -/
  done : Nat
  /-- A unit's stream send that has not landed: the endpoint, and the number of its tiles that must have landed (R217). -/
  sending : Option (Nat × Nat)
  deriving DecidableEq, Repr

/-- A task slot that is not EMPTY (R142, R143, R147). Registers not listed hold zero. -/
structure Task where
  state : TState
  stopCause : Nat
  illCause : Nat
  wait : Option Wait
  ctx : Nat
  /-- Task number within its core-unit (R211). -/
  num : Nat
  /-- Leaf ordinal of its core-unit (R17). -/
  leaf : Nat
  pc : BitVec 44
  flags : Flags
  s : SMap Word64
  /-- Predicates; bit 0 reads as 1 whatever it holds (R137). -/
  p : BitVec 16
  /-- Tile descriptors, 64 bytes each. -/
  t : SMap (BitVec 512)
  /-- Vector registers, 1,024 lanes of 32 bits each. -/
  v : SMap (BitVec 32768)
  /-- Stream handles. -/
  h : SMap Word64
  sPoison : BitVec 64
  pPoison : BitVec 16
  tPoison : BitVec 32
  /-- Poisoned sectors of each vector register. -/
  vPoison : SMap Word64
  faultWord : Word64
  faultExt : Word64
  /-- Accumulator window: first tile and tile count (R85). -/
  accFirst : Nat
  accCount : Nat
  run : Option Run
  /-- Tick at which the wait in progress began, and the stall causes that have held during it, bit k − 1 for code k (R262). -/
  waitStart : Nat
  causes : Nat
  /-- A Virbael request of the task that has not completed: the message number. -/
  request : Option Nat
  /-- Instructions that the task has retired, for the deadlock monitor (R219). -/
  retired : Nat
  deriving DecidableEq, Repr

/-- A consumer of an outbound endpoint. -/
inductive Peer where
  /-- An endpoint of this module, as core × 256 + endpoint. -/
  | here (k : Nat)
  /-- A ring of `b` buffers on another module. -/
  | away (b : Nat)
  deriving DecidableEq, Repr

/-- What the image's stream declarations and bindings say of an endpoint beyond STR_PEER (R21, R197, R473, R474). -/
structure LinkPlan where
  /-- Outbound: its consumers. -/
  peers : List Peer
  /-- Outbound: the consumers of tile i, by their places among the peers, at i modulo the length: one entry that names all of them
  under BROADCAST, one for each child under DEAL. -/
  route : List (List Nat)
  /-- Outbound: it contributes to a sum of more than one contribution, and STR_PEER names its merge node (R326). -/
  merge : Bool
  /-- Inbound, under a DEAL outbound binding: the producer of tile i, at i modulo the length; none for one that is no endpoint of this
  module (another module, or the root of a sum). -/
  sources : List (Option Nat)
  deriving DecidableEq, Repr

/-- The counters and set-up of a stream endpoint in use, beyond its registers (R189, R203). -/
structure Endpoint where
  filled : Nat
  taken : Nat
  /-- Tiles landed that do not make a whole group yet (R190). -/
  part : Nat
  /-- Ring index of the next tile to take, and of the next to land. -/
  head : Nat
  tail : Nat
  /-- Outbound: its consumers, and the consumers of each tile in turn, by their places among them (R21, R197). -/
  peers : List Peer
  route : List (List Nat)
  /-- Outbound: for each consumer, the tiles sent for which no credit has come back: FREE is B less this (R189). -/
  used : List Nat
  /-- Outbound: for each consumer, the tiles that have landed in its ring, where it lies on another module. -/
  landedFar : List Nat
  /-- Outbound, injecting: the merge node as 16 × core + node, and whether it enters on the right (R326). -/
  node : Option (Nat × Bool)
  /-- Layer number (R203). -/
  layer : Nat
  /-- Tiles carried since set-up (R120). -/
  carried : Nat
  /-- Takes to release when the tiles of their instruction have landed: number of tiles that must have landed, inbound
  endpoint, tiles (R251). -/
  owed : List (Nat × Nat × Nat)
  /-- Flags to raise when the tiles of their instruction have landed: number of tiles that must have landed, the task's slot, the flags
  (R111). -/
  flagsDue : List (Nat × Nat × Flags)
  /-- Inbound from a fetch engine: tiles requested since set-up (R196). -/
  fetched : Nat
  /-- Inbound, under a DEAL outbound binding: the producers whose tiles it takes in turn (R21). -/
  sources : List (Option Nat)
  /-- Layer number at set-up, from which an engine counts LAYER_END marks (R203, R297). -/
  base : Nat
  /-- Inbound, in a chain: the endpoint that forwards its groups; tiles forwarded; tiles released; tiles whose credit has gone
  upstream (R301). -/
  fwd : Option Nat
  forwarded : Nat
  released : Nat
  credited : Nat
  deriving DecidableEq, Repr

/-- Where a group goes. -/
inductive Dest where
  /-- A ring, by endpoint core × 256 + endpoint. -/
  | ring (k : Nat)
  /-- A merge node, as 16 × core + node, and its side (R326). -/
  | node (n : Nat) (right : Bool)
  deriving DecidableEq, Repr

/-- A group of tiles on its way to a ring or a merge node, or an announcement of tiles written by stores (R194, R195). -/
structure Group where
  /-- Producing endpoint as core × 256 + endpoint; none for a fetch engine or a merge node. -/
  src : Option Nat
  ctx : Nat
  dst : Dest
  /-- Stop at which its packet entered the mesh, the partition that this stop stamped it with, and the route-table copy (R323, R328). -/
  stop : Nat
  part : Option Nat
  copy : Nat
  /-- The packet comes from an edge agent (R328). -/
  edge : Bool
  count : Nat
  /-- Layer number of the producer (R203). -/
  layer : Nat
  /-- Sum type of a contribution: INT32 (R197). -/
  int32 : Bool
  /-- The tiles, none for an announcement. -/
  data : Option (List Byte)
  /-- Poisoned sectors of the data. -/
  poison : List Nat
  deriving DecidableEq, Repr

/-- A credit on its way to a producer (R194). -/
structure Credit where
  /-- Consumer and producer endpoints as core × 256 + endpoint. -/
  src : Nat
  dst : Nat
  count : Nat
  deriving DecidableEq, Repr

/-- A buffer's owner (R199). -/
inductive BufOwner where
  | free
  | slot (k : Nat)
  | endpoint (e : Nat)
  deriving DecidableEq, Repr

/-- A 4 KiB buffer of a pool (R199). -/
structure Buffer where
  ctx : Nat
  core : Nat
  t1 : Bool
  /-- Tensor-space address. -/
  addr : Nat
  owner : BufOwner
  gen : BitVec 12
  deriving DecidableEq, Repr

structure Cores where
  /-- Task slots that are not EMPTY, by 16 × core + slot. -/
  tasks : SMap Task
  /-- Endpoints in use, by 256 × core + endpoint. -/
  eps : SMap Endpoint
  groups : List Group
  credits : List Credit
  buffers : List Buffer
  /-- Staging pools by 64 × core + context. -/
  pools : SMap Pool
  /-- Slots of each core that wait for staging, in the order in which they yielded (R256). -/
  stageQueue : SMap (List Nat)
  /-- Groups held at the left and right side of a merge node, by 16 × core + node (R327). -/
  merges : SMap (Option Group × Option Group)
  /-- Issue order at each priority level, by 4 × core + level: the slot that issued last (R77). -/
  lastIssue : SMap Nat
  /-- Slots that issue ahead of every other task of their core, in order, by core (R77, R209). -/
  first : SMap (List Nat)
  /-- Slots of each core whose next instruction has been presented and has an unresolved hazard: they are not ready until it is
  presented again (R76, R86). -/
  held : SMap (List Nat)
  /-- Sides of merge nodes whose group credit is out: 2 × (16 × core + node), and 1 for the right side (R327). -/
  spent : List Nat
  deriving DecidableEq, Repr

/-- The migration engine's running COPY of a context (R273 to R275). -/
structure MigRun where
  /-- Tiles moved, and poisoned sectors among them. -/
  done : Nat
  poisoned : Nat
  /-- T2 tiles written whose acknowledgement it waits for: partition and tile. -/
  acks : List (Nat × Nat)
  deriving DecidableEq, Repr

/-! ## Louvre (chapter 10) -/

/-- A LOAD or SWAP that has passed its manifest checks (R285). -/
structure LvrJob where
  /-- Ring index of its descriptor, and the descriptor's bytes. -/
  ring : Nat
  desc : List Byte
  /-- The verified manifest. -/
  man : List Byte
  /-- Listed layers, in the list's order. -/
  layers : List Nat
  /-- Hash pages that have verified, by number. -/
  pages : SMap (List Byte)
  wantPages : List Nat
  wantChunks : List Nat
  /-- Chunks completed. -/
  got : Nat
  /-- Failed fetches by 2 × index, and 1 for a page (R286), and the ticks of the reads that have no reply, by the same key (R293). -/
  fails : SMap Nat
  asked : SMap Nat
  poisoned : Nat
  deriving DecidableEq, Repr

/-- A SWAP in progress (R305). -/
structure Swap where
  job : LvrJob
  /-- 1 to 5 under R305. -/
  phase : Nat
  /-- The hold generation, once it is known (R304). -/
  gen : Option Nat
  /-- An exchange back is under way, and the status it ends with (R305, R306). -/
  back : Option Nat
  /-- The status the SWAP ends with, once only the release is left (R305, R306). -/
  fin : Option Nat
  /-- A write to a lost channel was dropped (R266). -/
  lost : Bool
  /-- Tick at which phase 5 began (R306). -/
  since : Nat
  deriving DecidableEq, Repr

/-- What Louvre holds for a context beyond its registers. -/
structure Lvr where
  /-- The descriptor whose manifest is being read, by ring index, and the tick of the request (R293, R305). -/
  reading : Option (Nat × Nat)
  load : Option LvrJob
  swap : Option Swap
  /-- Ring index of the next descriptor to start, and descriptors that ended ahead of HEAD (R291). -/
  next : Nat
  ended : List Nat
  /-- MODEL_ID and STEP of the LOAD whose manifest is kept, and the address of its hash pages and payload (R296). -/
  kept : Option (Nat × Nat)
  pageBase : Nat
  payload : Nat
  /-- Streamed chunks in the chunk buffer, with their slots, least recently used first (R299). -/
  chunks : List (Nat × Nat)
  /-- Streamed chunks that are being fetched, with the slots they will fill. -/
  asked : List (Nat × Nat)
  /-- Chunks with a tile that an endpoint needs and has not been given: (endpoint, chunk). -/
  needs : List (Nat × Nat)
  /-- Verified hash pages of the kept manifest, and failed fetches. -/
  pages : SMap (List Byte)
  fails : SMap Nat
  deriving DecidableEq, Repr

/-! ## Contexts (chapters 1 and 16) -/

/-- A unit of a context (R15 to R17, R24). -/
structure UnitNode where
  handle : Nat
  casement : Bool
  /-- A casement of modules (R423). -/
  modules : Bool
  d0 : Nat
  d1 : Nat
  d2 : Nat
  /-- Node index of the parent; none for the root. -/
  parent : Option Nat
  childIndex : Nat
  depth : Nat
  /-- Leaf ordinal of a core-unit; of a casement, the ordinal of its first leaf. -/
  leaf : Nat
  /-- Core-units below. -/
  leaves : Nat
  /-- Logical core that serves a core-unit on this module. -/
  core : Option Nat
  /-- Torus origin of a casement of modules (R423, R476). -/
  origin : Nat × Nat × Nat
  /-- Module hops between the root of the unit and its farthest member (R208). -/
  hops : Nat
  /-- Domain number of a casement of modules (R423). -/
  domain : Option Nat
  deriving DecidableEq, Repr

/-- Where a declared task stands (R211). -/
inductive TaskPhase where
  | notStarted | live | parked | restoring
  deriving DecidableEq, Repr

/-- A declared task and its binding (R211, R471). -/
structure TaskDecl where
  leaf : Nat
  num : Nat
  core : Nat
  slot : Nat
  prio : Nat
  initial : Bool
  entry : Nat
  arg : Word64
  accFirst : Nat
  accCount : Nat
  /-- Handle registers bound from the stream declarations. -/
  handles : SMap Word64
  /-- Tensor-space address of the save area. -/
  saveArea : Nat
  phase : TaskPhase
  /-- Completed thresholds of the task (R203, R204), and completed barriers on each casement, by node index (R208). -/
  thresholds : Nat
  barriers : SMap Nat
  deriving DecidableEq, Repr

/-- A mapped area of a core-unit's T0 or T1 share above its grant (R241). -/
structure Area where
  t1 : Bool
  off : Nat
  len : Nat
  deriving DecidableEq, Repr

/-- A core-unit's memory on this module, in order of module unit number (R241). -/
structure Member where
  leaf : Nat
  core : Nat
  /-- Byte of the core's T0 and of its T1 at which the core-unit's share begins (R240); a share wraps at the tier's end. -/
  base0 : Nat
  base1 : Nat
  t0Bytes : Nat
  t1Bytes : Nat
  areas : List Area
  /-- T1 address of its staging pool (R241). -/
  stage : Nat
  deriving DecidableEq, Repr

/-- A task-control operation that has not taken effect yet (R212). -/
structure TaskOp where
  ctx : Nat
  /-- Leaf ordinal of the issuing task, none for a host operation. -/
  issuer : Option Nat
  func : Nat
  node : Nat
  mask : Nat
  addr : Nat
  /-- Tick at which it takes effect. -/
  due : Nat
  deriving DecidableEq, Repr

/-- A teardown that runs (R466): RETAIN, ticks until its grants are zeroed, none once they are, and ticks until it ends. -/
structure Tear where
  retain : Bool
  zeroIn : Option Nat
  endIn : Nat
  deriving DecidableEq, Repr

/-- A named release of a threshold or of a casement's barrier: the generation that it completes, and its tick (R204, R208, R214). -/
structure Release where
  wait : Wait
  gen : Nat
  tick : Nat
  deriving DecidableEq, Repr

/-- What the binder and the contract hold for one context beyond its registers. -/
structure Context where
  units : List UnitNode
  tasks : List TaskDecl
  members : List Member
  /-- The links that the image declares for the endpoints on this module, by core × 256 + endpoint (R473, R474). -/
  links : SMap LinkPlan
  codeBase : Nat
  codeLen : Nat
  /-- Capability record fields fixed at LOADING (R29, R32). -/
  unitsBound : Nat
  t2Bytes : Nat
  priv : Bool
  /-- Completed threshold generations on this module, and by core (R204, R223, R258). -/
  gen : Nat
  coreGens : SMap Nat
  /-- Releases whose tick has been named and has not come (R214). -/
  releases : List Release
  /-- Deadlock monitor: what it compares between ticks, and its count (R219). -/
  dlmMark : List Nat
  dlmCount : Nat
  /-- Credit mode of the context's FIXED engines since the last layer boundary (R259). -/
  creditMode : Bool
  /-- The binding is done (R462). -/
  bound : Bool
  /-- Start tick of a START that is pending (R463). -/
  startAt : Option Nat
  /-- RETAIN of the DRAIN in progress (R478). -/
  retain : Bool
  /-- State to which a FORCE's hold returns (R462). -/
  forced : Option Nat
  /-- Collective instances that have ended, by 2^12 × domain + 16 × rank + task (R424). -/
  collSeqs : SMap Nat
  /-- Link shares that the image declares, by torus direction (R459, R476). -/
  shares : List Nat
  /-- Fragment-blocks dispatched since LOAD by core, and the draw at LOAD from which each core's sample offset comes (R506). -/
  blocks : SMap Nat
  sampleDraw : Nat
  tear : Option Tear
  deriving DecidableEq, Repr

/-- A happening that raises an incarnation and waits for the commit of the boot field (R414, R596). -/
inductive Rise where
  | load (c : Nat)
  | fault (c cause ordinal : Nat)
  | teardown (c : Nat) (retain : Bool)
  /-- An IDLE context of a partition that is reset (R480). -/
  | reset (c : Nat)
  deriving DecidableEq, Repr

/-! ## On-wafer networks (chapter 11) -/

/-- A mesh flit between stops (R314). -/
structure Flit where
  src : Nat
  /-- Ports of the packet's ends: 0 a core's, 1 + e that of edge agent 64 + e, 33 the wafer block's, 34 the service controller's
  (R312, R316). -/
  srcPort : Nat
  dstPort : Nat
  /-- The destination stops that this flit serves, each with the packet's sequence number there (R316, R325). -/
  members : List (Nat × Nat)
  multi : Bool
  /-- Class: 0 EX, 1 CT, 2 BK, 3 BG. -/
  cls : Nat
  /-- Partition of its stamp; one of MGMT origin has none (R328, R330). -/
  part : Option Nat
  mgmt : Bool
  /-- Index among the packet's flits, and their number. -/
  idx : Nat
  total : Nat
  /-- 0 plane A, 1 plane B, 2 the transom network. -/
  plane : Nat
  vc1 : Bool
  transit : Bool
  copy : Nat
  hops : Nat
  /-- Failures of this flit on the link it is crossing (R315). -/
  fails : Nat
  at_ : Nat
  /-- Where it entered the stop: 3 × direction + network of the link it came on, or 16 + 3 × its source port + network (R318). -/
  input : Nat
  /-- It last moved along Y. -/
  movedY : Bool
  /-- The source's EX shaper has let its message in; and the link's shaper has been counted as holding it (R334). -/
  admitted : Bool
  linkHeld : Bool
  /-- Its bytes, and its poisoned sectors (R314). -/
  data : List Byte
  poison : List Nat
  cargo : Cargo
  deriving DecidableEq, Repr

/-- A flit that has arrived: sequence number and index of its packet, the packet's number of flits, the bytes and the poisoned sectors. -/
structure RxFlit where
  seq : Nat
  idx : Nat
  total : Nat
  data : List Byte
  poison : List Nat
  deriving DecidableEq, Repr

/-- Arrivals at a destination from one source in one class (R316). -/
structure MeshRx where
  next : Nat
  got : List RxFlit
  skipped : List Nat
  deriving DecidableEq, Repr

/-- Tokens of an EX shaper as they stood at a mesh clock (R334). -/
structure Shaper where
  tokens : Nat
  clock : Nat
  deriving DecidableEq, Repr

/-- An output of a stop on one network (R319, R331, R334): its EX shaper; the EX channel served last; what is left of the weights of CT, BK
and BG; and of its last clocks, newest first, the ones in which a transit copy went ahead of a waiting own copy, or, on the transom
network, an EX word ahead of a waiting CT word. -/
structure MeshPort where
  ex : Shaper
  last : Nat
  weights : List Nat
  recent : List Bool
  deriving DecidableEq, Repr

structure Mesh where
  flits : List Flit
  /-- Next sequence number by source port, destination port, class and network (R316). -/
  tx : SMap Nat
  rx : SMap MeshRx
  /-- Ticks of the replays of the last millisecond, by 16 × stop + 4 × network + direction of the link (R315). -/
  replays : SMap (List Nat)
  /-- Plane of the last one-flit packet of a source port, by 64 × stop + port (R314). -/
  single : SMap Nat
  /-- Mesh clocks so far (R313). -/
  clock : Nat
  /-- EX shapers of the source ports, by 64 × stop + port (R334). -/
  shapers : SMap Shaper
  /-- Outputs by (stop × 3 + network) × 64 + 0 for the local port, 1 + direction, or 8 + port of an edge agent (R319). -/
  outs : SMap MeshPort
  deriving DecidableEq, Repr

/-! ## Time (chapter 12) -/

/-- The time unit beyond its registers (R342, R347 to R349). -/
structure Tim where
  /-- The module's own state; the register reports the worse of it and the parent's (R347). -/
  own : Nat
  /-- State in the parent's last marker. -/
  parent : Nat
  /-- Exchanges measured in ACQUIRING, and the sums of their offsets and delays in 1/256 tick. -/
  count : Nat
  offsets : Int
  /-- Ticks until a slew ends. -/
  slew : Nat
  /-- Ticks for which the counter is held. -/
  hold : Nat
  /-- The selected reference has failed. -/
  refLost : Bool
  /-- The parent's timing is missing, and the tick at which HOLDOVER began. -/
  lost : Bool
  since : Nat
  /-- Tick of the parent's last marker. -/
  marker : Nat
  /-- An exchange that has completed in this tick: its port, and its offset and delay in 1/256 tick (R348). -/
  due : Option (Nat × Int × Int)
  deriving DecidableEq, Repr

/-! ## Ports (chapter 13) -/

/-- A packet that waits to be sent on a port (R362, R368). -/
structure TxPacket where
  cls : Nat
  job : Nat
  /-- A transit packet's partition: the one that owns the port, none for module traffic and for a packet that began here (R396). -/
  part : Option Nat
  /-- The packet's header, by which a refusal finds its message (R369, R379). -/
  head : List Byte
  started : Bool
  /-- Its next flit has waited for an EX token and has been counted (R368). -/
  held : Bool
  /-- NEXT and payload of each flit left to send. -/
  flits : List (Nat × List Byte)
  deriving DecidableEq, Repr

/-- A DATA flit kept until it is acknowledged (R365). -/
structure SentFlit where
  seq : Nat
  cls : Nat
  next : Nat
  payload : List Byte
  replays : Nat
  deriving DecidableEq, Repr

/-- Timestamps of a TIME flit received: its XSEQ, TX and the local receive time, in 1/256 tick (R363). -/
structure TimeStamp where
  xseq : Nat
  tx : Nat
  rx : Nat
  deriving DecidableEq, Repr

/-- A port beyond its registers. -/
structure Port where
  /-- Consecutive trainings that have overrun a bound, and the tick at which the state began (R358). -/
  fails : Nat
  since : Nat
  /-- Payload of the far end's last INIT flit. -/
  farInit : List Byte
  /-- Far receive buffers by class (R359). -/
  farBuf : List Nat
  /-- Sender: next SEQ, flits kept, tick of the last advance of ACK, DATA flits sent by class, far FREED. -/
  seq : Nat
  kept : List SentFlit
  ackTick : Nat
  sent : List Nat
  farFreed : List Nat
  /-- Ticks of the replays of the last millisecond (R366). -/
  replays : List Nat
  /-- Receiver: next SEQ, the gap has been reported, buffers freed by class, bytes of the packet in progress by class; none
  while the class is out of step. -/
  expect : Nat
  nakSent : Bool
  freed : List Nat
  parts : List (Option (List Byte))
  queue : List TxPacket
  /-- EX tokens and the slot at which they were counted (R368). -/
  tokens : Nat
  slot : Nat
  /-- Deficits of CT, BK and BG, and of each job in each class by 4 × job + class; below 0 where a packet has run beyond its job's turn
  (R368, R369). -/
  weights : List Nat
  jobs : SMap Int
  /-- TIME flits: the last XSEQ sent, the tick of the last one sent, the last one received, and what the last one sent carried:
  TX and the stamps that it echoed (R363, R364). -/
  xseq : Nat
  timeAt : Option Nat
  stamp : Option TimeStamp
  echo : Option (Nat × TimeStamp)
  /-- Measured delay of the link, in 1/256 tick. -/
  delay : Option Nat
  deriving DecidableEq, Repr

/-! ## Transport (chapter 13) -/

/-- A message of the transport at its sender (R371, R380). -/
structure Msg where
  /-- What it is for: a request of the Virbael endpoint by its number, a collective step by its number, or neither. -/
  tok : Option (Bool × Nat)
  ptype : Nat
  cls : Nat
  job : Nat
  /-- The transaction block, 16 bytes, and the payload. -/
  block : List Byte
  data : List Byte
  deriving DecidableEq, Repr

/-- A packet that has been sent and is not acknowledged (R373). -/
structure SentPacket where
  cls : Nat
  tseq : Nat
  mid : Nat
  job : Nat
  bytes : List Byte
  /-- Tick of its first and of its last send, and the timeout in force, in µs. -/
  first : Nat
  last : Nat
  rto : Nat
  deriving DecidableEq, Repr

/-- A send connection (R372 to R375). -/
structure TxConn where
  gen : Nat
  /-- The generation is current; before that, the open waits. -/
  isOpen : Bool
  syn : Bool
  /-- Next TSEQ by class. -/
  tseq : List Nat
  unacked : List SentPacket
  /-- Segments not sent yet: message ID and segment index. -/
  todo : List (Nat × Nat)
  /-- Outstanding messages by ID, oldest first, and messages that wait for one. -/
  msgs : List (Nat × Msg)
  wait : List Msg
  nextId : Nat
  /-- Latest retirement in each block of 1,024 IDs, by tick. -/
  retired : SMap Nat
  /-- Tick at which each generation value was last current. -/
  used : SMap Nat
  idle : Nat
  deriving DecidableEq, Repr

/-- A message that arrives in parts (R371, R401). -/
structure RxPart where
  mid : Nat
  cls : Nat
  /-- Window copy in force when the first packet arrived, and the status the check gave a WR then (R400, R401). -/
  copy : Nat
  status : Nat
  ptype : Nat
  job : Nat
  block : List Byte
  data : List Byte
  deriving DecidableEq, Repr

/-- A receive connection (R372, R373). -/
structure RxConn where
  gen : Nat
  next : List Nat
  /-- Packets held ahead of their turn: class, TSEQ, bytes. -/
  held : List (Nat × Nat × List Byte)
  parts : List RxPart
  /-- Packets not acknowledged yet by class, and the tick of the first of them. -/
  unack : List (Nat × Nat)
  idle : Nat
  deriving DecidableEq, Repr

/-- A transport acknowledgement that has passed the packet checks. -/
structure TAck where
  src : Nat
  gen : Nat
  cls : Nat
  next : Nat
  reset : Bool
  deriving DecidableEq, Repr

/-- A packet for another node: arrival port and tick (R376). -/
structure Transit where
  port : Nat
  at_ : Nat
  bytes : List Byte
  deriving DecidableEq, Repr

structure Trp where
  tx : SMap TxConn
  rx : SMap RxConn
  /-- Packets that ports have taken in, with their port. -/
  inbox : List (Nat × List Byte)
  acks : List TAck
  transit : List Transit
  /-- Messages for which the table of send connections has no room. -/
  full : List (Nat × Msg)
  /-- Headers of packets that a port has refused as for an unreachable target, and whose messages have not been told (R369, R379). -/
  refused : List (List Byte)
  deriving DecidableEq, Repr

/-! ## Virbael (chapter 14) -/

/-- A whole message for the endpoint to act on. -/
structure RxMsg where
  src : Nat
  mid : Nat
  gen : Nat
  ptype : Nat
  cls : Nat
  job : Nat
  copy : Nat
  status : Nat
  block : List Byte
  data : List Byte
  deriving DecidableEq, Repr

/-- What an engine reads global memory for, beside the context (R255, R285, R299). -/
inductive EngineRead where
  /-- A T3 tile for a core's staging pool, by its tensor-space address. -/
  | stage (core a : Nat)
  /-- The manifest of the descriptor at a ring index. -/
  | manifest (ring : Nat)
  /-- A hash page or a chunk of the running LOAD, of the running SWAP, or of a fetch endpoint's stream. -/
  | load (page : Bool) (i : Nat)
  | swap (page : Bool) (i : Nat)
  | stream (page : Bool) (i : Nat)
  deriving DecidableEq, Repr

/-- What a request is for. -/
inductive ReqFor where
  /-- A read of an engine: its data are no part of the transport that the model keeps (log entry 44). -/
  | engine (e : EngineRead)
  /-- An RLD, with its destination register. -/
  | load (core slot sd : Nat)
  /-- A line read and the loads that wait on it: core, slot, destination register, offset in the line (R406). -/
  | line (core : Nat) (waiters : List (Nat × Nat × Nat × Nat))
  /-- An ATOM, with its destination register and FUNC. -/
  | atom (core slot sd func : Nat)
  | acquire (core slot sd : Nat)
  | release (core slot sd : Nat)
  /-- A release that the endpoint sends when an incarnation rises (R417). -/
  | giveUp
  | store (core : Nat)
  | bell (core : Nat)
  /-- A record of an event queue, and the interrupt that follows it (R491). -/
  | record (q : Nat)
  | ring (q : Nat)
  /-- A response for it is discarded: its context has faulted or been torn down (R391). -/
  | dropped
  deriving DecidableEq, Repr

/-- A request of the Virbael endpoint (R390, R393, R412). -/
structure Req where
  num : Nat
  ctx : Nat
  use : ReqFor
  dst : Nat
  ptype : Nat
  cls : Nat
  job : Nat
  addr : Nat
  opnd : Nat
  data : List Byte
  /-- Tick of the first send; none while it is held (R393) or waits to be presented again (R416). -/
  first : Option Nat
  resends : Nat
  /-- Lease acquire: tick at which it is presented again. -/
  again : Option Nat
  deriving DecidableEq, Repr

/-- A batch of stores of one context to one far node (R405). -/
structure Batch where
  ctx : Nat
  /-- Tasks whose stores it holds, by core and slot; the first names the core whose endpoint sends it. -/
  tasks : List (Nat × Nat)
  /-- It is to be sent. -/
  closed : Bool
  dst : Nat
  addr : Nat
  data : List Byte
  since : Nat
  deriving DecidableEq, Repr

/-- An entry of the reply cache (R411). -/
structure Reply1 where
  src : Nat
  mid : Nat
  gen : Nat
  status : Nat
  result : Nat
  since : Nat
  deriving DecidableEq, Repr

structure Vbl where
  /-- Requests in issue order. -/
  reqs : List Req
  nextNum : Nat
  batches : List Batch
  inbox : List RxMsg
  /-- Requests that wait for a free entry of the reply cache, and later ones of their sources (R393, R411). -/
  blocked : List RxMsg
  /-- Writes that have been done and are to be answered, in a class, once the T2 tiles that they wrote are acknowledged (R258). -/
  late : List (RxMsg × Nat × List (Nat × Nat))
  cache : List Reply1
  /-- Lease addresses held, by context (R417). -/
  leases : SMap (List Nat)
  /-- Contexts whose incarnation has risen and whose leases are to be released (R417). -/
  breaks : List Nat
  /-- Records and interrupts of event queues that have completed: the queue, an interrupt, the status. -/
  ended : List (Nat × Bool × Nat)
  deriving DecidableEq, Repr

/-! ## Collectives (chapter 15) -/

/-- A member of a collective instance (R424). -/
structure Coll where
  ctx : Nat
  leaf : Nat
  task : Nat
  job : Nat
  /-- Collective number. -/
  num : Nat
  /-- The instruction word and its extension. -/
  word : Word64
  extWord : Word64
  /-- The member's coordinates in the casement and its extent. -/
  coord : Nat × Nat × Nat
  extent : Nat × Nat × Nat
  /-- Nodes of the casement neighbours by direction: 2 × dimension, and 1 toward lower coordinates. -/
  nbrs : SMap Nat
  sparse : Bool
  /-- E and C (R425). -/
  elems : Nat
  cap : Nat
  /-- PIECE_TILES, STEP_LOG2 and TIMEOUT_S as latched (R426). -/
  pieceTiles : Nat
  stepLog2 : Nat
  timeoutS : Nat
  /-- COL_SCRATCH, and the tiles of the scratch that the instance has taken, by number (R426). -/
  scratch : Nat
  tiles : List Nat
  /-- Directions whose matching READY has come, and completed steps by direction as DONE markers say (R436). -/
  ready : List Nat
  dones : SMap Nat
  /-- Completed steps; the next one has launched. -/
  step : Nat
  launched : Bool
  /-- Tick of the last launch, and of the last progress (R436, R442). -/
  lastLaunch : Option Nat
  progress : Nat
  /-- Dense: flags of the pieces of w; the partial to send upward next, its flags and poison; the final piece to send downward
  next (R429, R430). -/
  flags : SMap Nat
  up : List Word32
  upFlags : Nat
  upPoison : Bool
  /-- Sparse: lists held by member index; indices of the own list whose values are poisoned; the blocks received last from below
  and from above (R433, R434). -/
  lists : SMap (List Byte)
  bad : List Int
  below : List Byte
  above : List Byte
  /-- The member's own dropped entries. -/
  dropped : Nat
  /-- Step data that has arrived: step, direction it came from, bytes. -/
  got : List (Nat × Nat × List Byte)
  /-- Directions in which the launched step has been sent again (R443). -/
  resent : List Nat
  /-- The instance has ended with this reason while its task was parked, and its instruction has not retired (R445). -/
  endedAs : Option Nat
  deriving DecidableEq, Repr

/-- An ABORT for a collective number that has not started (R441). -/
structure KeptAbort where
  job : Nat
  num : Nat
  reason : Nat
  node : Nat
  deriving DecidableEq, Repr

structure Collv where
  insts : List Coll
  kept : List KeptAbort
  /-- Messages to hand to the transport, with their nodes. -/
  out : List (Nat × Msg)
  /-- Messages that failed connections handed back: the node, whether a path is left, the message (R443). -/
  back : List (Nat × Bool × Msg)
  /-- Instances that have ended. -/
  ends : Nat
  deriving DecidableEq, Repr

/-! ## Events (chapter 17) -/

/-- An event record (R484). -/
structure Event where
  tick : Nat
  src : Nat
  code : Nat
  ctx : Nat
  part : Nat
  sev : Nat
  w2 : Word64
  w3 : Word64
  deriving DecidableEq, Repr

/-- An event queue beyond its registers (R491 to R497). -/
structure EvcQ where
  /-- Its records in the pending store, oldest first. -/
  held : List Event
  /-- A record that is being written to a global address, and that the queue was enabled anew meanwhile. -/
  writing : Option (Event × Bool)
  /-- The records from HEAD to TAIL, and whether the service controller's log has them (R560). -/
  ring : List (Event × Bool)
  /-- Records dropped that no EVC_LOST has told of, and the tick of the first. -/
  lost : Nat
  lostTick : Nat
  /-- Records written since the last signal or completion; ticks until TIME_US has passed since the first of them. -/
  count : Nat
  timer : Option Nat
  /-- A condition of R495 other than the count has fallen due. -/
  due : Bool
  /-- Ticks until ACK_US has passed. -/
  ack : Option Nat
  deriving DecidableEq, Repr

structure Evc where
  qs : SMap EvcQ
  /-- Records that the controller has raised itself and is about to route (R312). -/
  inner : List Event
  /-- Level sources with a record outstanding: the source ID, and the queue and index at which the record lies (R498). -/
  levels : SMap (Option (Nat × Nat))
  /-- Consecutive samples of each alarm line that differ from its taken value (R500). -/
  alarms : SMap Nat
  deriving DecidableEq, Repr

/-! ## Power (chapter 19) -/

/-- A VCORE setpoint that moves: where it stood at a tick, and where it goes, in mV without TRIM (R531, R535). -/
structure Vcore where
  start : Nat
  goal : Nat
  at_ : Nat
  deriving DecidableEq, Repr

/-- Power beyond the registers. -/
structure Pwr where
  /-- Setpoints of regions that are ON or RAMPING; one that is not listed stands at the setpoint of the divider in force (R535). -/
  vcore : SMap Vcore
  /-- Regions whose clock is at the floor, and the tick at which each reached it (R537). -/
  floorAt : SMap Nat
  /-- Regions in their minimum off time (R540). -/
  offWait : List Nat
  /-- Current pace of each region; 16 where not listed (R538). -/
  curPace : SMap Nat
  /-- Common pace of the input cap; the current or power has yet to fall; ms since it last rose (R533). -/
  inPace : Nat
  falling : Bool
  /-- The cap holds for each busbar pair (R577). -/
  pairs : Bool
  riseMs : Nat
  /-- Consecutive 1 ms samples in which each coolant condition has held (0: the flows are within limits), and the conditions that have
  been entered (R546). -/
  coolMs : SMap Nat
  coolIn : List Nat
  deriving DecidableEq, Repr

/-! ## Reliability (chapter 18) -/

/-- A core position beyond its registers (R511, R517, R565). -/
structure Position where
  /-- Physical arrays out of service, banks, and redundant-row assignments of its repair record. -/
  bad : List Nat
  banks : List Byte
  rows : List Byte
  /-- Milliseconds for which it has served a slot. -/
  service : Nat
  /-- TRANSIENT classifications: the array and the service time. -/
  transients : List (Nat × Nat)
  deriving DecidableEq, Repr

/-- A scan or calibration that waits (R517, R519, R520). -/
structure PosTest where
  pos : Nat
  calib : Bool
  /-- Completed generations of the contexts on the slot when it fell due. -/
  marks : SMap Nat
  /-- REASON for which it is deferred. -/
  deferred : Option Nat
  /-- The host has forced it: contexts that wait for it in HELD. -/
  held : List Nat
  deriving DecidableEq, Repr

/-- A scan or calibration that runs; `held`: the contexts that wait for it in HELD (R520). -/
structure PosRun where
  pos : Nat
  calib : Bool
  held : List Nat
  deriving DecidableEq, Repr

/-- A slot that the supervisors are to move and whose pane refuses an APPLY: the position that it leaves, the reason for which that has
failed, none where it has switched off, and the contexts that a forced test holds (R56, R516, R537). -/
structure SlotMove where
  pos : Nat
  reason : Option Nat
  held : List Nat
  deriving DecidableEq, Repr

structure Rel where
  tests : List PosTest
  runs : List PosRun
  pos : SMap Position
  /-- A MIGRATE whose copy has not completed, by pane: the slot, its new position, and the tick of the APPLY (R58 to R61). -/
  moving : SMap (Nat × Nat × Nat)
  /-- Moves that wait until their pane takes an APPLY. -/
  waits : List SlotMove
  /-- Checked clocks that an array carries to its next blocks, by 520 × position + array (R507). -/
  sums : SMap Nat
  deriving DecidableEq, Repr

/-! ## Service controller (chapter 20) -/

/-- A valid record of the store: its SEQ and its sections by type (R563, R564). -/
structure StoreRec where
  seq : Nat
  sections : SMap (List Byte)
  deriving DecidableEq, Repr

/-- A programmed slot of the store: when it was programmed, and its record, none where the write was cut off (R563). -/
structure StoreSlot where
  order : Nat
  record : Option StoreRec
  deriving DecidableEq, Repr

/-- A dumped position: its task state records and the registers of the stop that it served (R570). -/
structure Dump where
  pos : Nat
  records : List (List Byte)
  stop : List Word32
  deriving DecidableEq, Repr

structure Svc where
  /-- 0 without power; 1 waiting for coolant or for both busbar pairs; 2 converter layer running; 3 powered off, the service controller
  running (R550, R551). -/
  power : Nat
  /-- Telemetry passes since the service controller started: its own milliseconds. -/
  ms : Nat
  /-- The dual-bank store: programmed slots by 256 × bank + slot (R563). -/
  store : SMap StoreSlot
  order : Nat
  /-- Writes that wait: sections to change; REPAIR_MAP is taken as it stands at the commit (R571). -/
  writes : List (SMap (List Byte))
  /-- Section bytes that STORE_UPDATE has staged. -/
  stage : SMap (List Byte)
  /-- The log, and how many records have been logged (R560). -/
  log : List Event
  logged : Nat
  /-- Highest severity logged since the last BEAT (R562). -/
  worst : Nat
  /-- Milliseconds for which SVC_BEAT has not changed (R569). -/
  beat : Nat
  /-- Times of Druter's restarts, and the start and cause of the one that runs (R569). -/
  restarts : List Nat
  restart : Option (Nat × Nat)
  /-- Tick of the last pass, passes in which it has not advanced, and in which it could not be read (R557). -/
  lastTick : Nat
  stalls : Nat
  unread : Nat
  /-- Cause of a power-off that is due (R533, R544, R546). -/
  offDue : Option Nat
  /-- The next bring-up is to be cold. -/
  cold : Bool
  testEn : Bool
  dump : List Dump
  /-- Positions whose clock a DUMP has stopped. -/
  stopped : List Nat
  deriving DecidableEq, Repr

/-! ## What leaves the module -/

/-- What the module sends or answers outside, in order: the model's own record. -/
inductive Out where
  /-- Value that a read of a control register returned. -/
  | readValue (addr : Nat) (v : Word32)
  /-- A group sent to an endpoint of another module: source endpoint, the place of the consumer among its peers, tiles, layer, INT32
  sum, data with poisoned sectors; an announcement carries no data (R190, R194, R197). -/
  | group (ep peer : Nat) (count layer : Nat) (int32 : Bool) (data : Option (List Byte)) (poison : List Nat)
  /-- A credit sent to a producer on another module, by the inbound endpoint and the producer's place among its sources (R194). -/
  | credit (ep source : Nat) (count : Nat)
  /-- A read of global memory that an engine or Druter sends: job, global address and length (R255, R274, R389). -/
  | fetch (job addr len : Nat)
  /-- A bulk write of global memory that an engine sends, with its job (R274, R389). -/
  | bulk (job addr : Nat) (data : List Byte)
  /-- A chunk of a WRITE_BACK, with the weight port it leaves on, and its job (R307, R389). -/
  | chunk (port : Option Nat) (job addr : Nat) (data : List Byte)
  /-- A doorbell that Louvre rings, with its job (R307, R389). -/
  | ring (job addr value : Nat)
  /-- A mesh packet delivered to a stop's port: source stop, destination stop, class, sequence number, bytes and poisoned sectors
  (R314, R316). -/
  | mesh (src dst cls seq : Nat) (data : List Byte) (poison : List Nat)
  /-- A flit or an Ethernet frame that a port sends (R361, R381). -/
  | flit (port : Nat) (bytes : List Byte)
  | frame (port : Nat) (bytes : List Byte)
  /-- A signal of an event queue to a supervisor or the service controller, by target index (R496). -/
  | signal (q target : Nat)
  /-- A management response on the management port (R558). -/
  | mgmt (bytes : List Byte)
  /-- A frame that leaves on the sill chain, by UP or DOWN (R561). -/
  | sill (up : Bool) (bytes : List Byte)
  /-- A BEAT datagram to peer 0 (R562). -/
  | beat (bytes : List Byte)
  deriving DecidableEq, Repr

/-! ## The machine -/

structure State where
  /-- Commands that wait, first in first out. -/
  pending : List Instr
  out : List Out
  /-- Tick counter (R343). -/
  tick : Nat
  ctrl : Ctrl
  mem : Memory
  mesh : Mesh
  cores : Cores
  ctxs : SMap Context
  /-- Handles issued to the loads of each context number before the present one (R24, R25). -/
  oldHandles : SMap (List Nat)
  taskOps : List TaskOp
  /-- The boot count has wrapped and no context loads (R414). -/
  bootHold : Bool
  /-- Happenings that wait for the boot field, in the order in which they arose (R596). -/
  rises : List Rise
  /-- Partitions whose reset waits for a teardown that was running (R467). -/
  resets : List Nat
  /-- Running COPY commands of the migration engine, by context. -/
  migs : SMap MigRun
  /-- Louvre, by context. -/
  lvrs : SMap Lvr
  /-- Publisher keys by slot: 96 bytes, x then y, big-endian (R283). -/
  keys : SMap (List Byte)
  tim : Tim
  /-- Ports by number; one not listed is as after reset. -/
  ports : SMap Port
  trp : Trp
  vbl : Vbl
  coll : Collv
  evc : Evc
  pwr : Pwr
  rel : Rel
  svc : Svc
  /-- Event records that sources hold and the controller has not accepted, by source (R488). -/
  raised : List Event
  /-- Records a source could not hold: count and tick of the first, by source (R488). -/
  lost : SMap (Nat × Nat)
  /-- How many free values the model has drawn: the model's own field (log entry 3). -/
  draws : Nat
  deriving DecidableEq, Repr

/-- Why a step stops with a fault. -/
inductive Fault where
  /-- A command that is not well formed: the word of a TASK.CTL row holds the FUNC of another row. Raised by `taskCtl`; safe: such a
  word is the other row's instruction. -/
  | illFormed
  deriving DecidableEq, Repr

/-- Why a command has no meaning. -/
inductive Refusal where
  /-- The command's meaning has not been written. Raised by `exec`; safe. -/
  | notModelled (mnemonic : String)
  deriving DecidableEq, Repr

/-- The time unit after module reset: state FREE (R343). -/
def Tim.empty : Tim := ⟨0, 2, 0, 0, 0, 0, false, false, 0, 0, none⟩

/-- A port after module reset. -/
def Port.empty : Port where
  fails := 0
  since := 0
  farInit := []
  farBuf := [0, 0, 0, 0]
  seq := 0
  kept := []
  ackTick := 0
  sent := [0, 0, 0, 0]
  farFreed := [0, 0, 0, 0]
  replays := []
  expect := 0
  nakSent := false
  freed := [0, 0, 0, 0]
  parts := [some [], some [], some [], some []]
  queue := []
  tokens := 8
  slot := 0
  weights := [4, 11, 1]
  jobs := []
  xseq := 0
  timeAt := none
  stamp := none
  echo := none
  delay := none

/-- Power after module reset. -/
def Pwr.empty : Pwr := ⟨[], [], [], [], 16, false, false, 0, [], []⟩

/-- The service controller of a module whose store is blank, its converter layer running. -/
def Svc.empty : Svc where
  power := 2
  ms := 0
  store := []
  order := 0
  writes := []
  stage := []
  log := []
  logged := 0
  worst := 0
  beat := 0
  restarts := []
  restart := none
  lastTick := 0
  stalls := 0
  unread := 0
  offDue := none
  cold := false
  testEn := false
  dump := []
  stopped := []

/-- The machine right after module reset. -/
def State.reset : State where
  pending := []
  out := []
  tick := 0
  ctrl := ⟨[], [], []⟩
  mem := ⟨[], [], []⟩
  mesh := ⟨[], [], [], [], [], 0, [], []⟩
  cores := ⟨[], [], [], [], [], [], [], [], [], [], [], []⟩
  ctxs := []
  oldHandles := []
  taskOps := []
  bootHold := false
  rises := []
  resets := []
  migs := []
  lvrs := []
  keys := []
  tim := .empty
  ports := []
  trp := ⟨[], [], [], [], [], [], []⟩
  vbl := ⟨[], 0, [], [], [], [], [], [], [], []⟩
  coll := ⟨[], [], [], [], 0⟩
  evc := ⟨[], [], [], []⟩
  pwr := .empty
  rel := ⟨[], [], [], [], [], []⟩
  svc := .empty
  raised := []
  lost := []
  draws := 0

end Sys2Proof.Machine
end

