-- ==== Sys2Proof/Machine/Store.lean ====
section
/-!
DEFINITION. Sparse tables and byte memory: reading, writing, and the canonical form every writer keeps.
-/
namespace Sys2Proof.Machine
open Sys2Proof

/-! ## Sparse tables -/

/-- Keys strictly rise along the list. -/
def SMap.sorted {α : Type} : SMap α → Bool
  | [] => true
  | [_] => true
  | a :: b :: l => decide (a.1 < b.1) && SMap.sorted (b :: l)

def SMap.get? {α : Type} (m : SMap α) (k : Nat) : Option α := List.lookup k m

/-- The value at a key, `d` where the key is absent. -/
def SMap.getD {α : Type} (m : SMap α) (k : Nat) (d : α) : α := (SMap.get? m k).getD d

def SMap.del {α : Type} (m : SMap α) (k : Nat) : SMap α :=
  m.filter fun p => p.1 < k || k < p.1

/-- The table with `v` at `k`. -/
def SMap.put {α : Type} (m : SMap α) (k : Nat) (v : α) : SMap α :=
  m.filter (fun p => p.1 < k) ++ (k, v) :: m.filter (fun p => k < p.1)

/-- The table with `v` at `k`, where a value equal to the default `d` is not listed. -/
def SMap.putD {α : Type} [DecidableEq α] (m : SMap α) (k : Nat) (v d : α) : SMap α :=
  if v = d then SMap.del m k else SMap.put m k v

/-! ## Lists of numbers as sets -/

/-- Replace the members of a rising list that lie in [lo, hi] by `new`. -/
def setRange (l : List Nat) (lo hi : Nat) (new : List Nat) : List Nat :=
  l.filter (· < lo) ++ new ++ l.filter (hi < ·)

/-! ## Memory -/

/-- What a byte that nothing has written reads as (DESIGN CHOICE, log entry 2). -/
def Memory.unwritten : Byte := 0#8

/-- Canonical form: addresses strictly rise, no byte equal to what an unlisted address reads as is listed, and the poisoned
sectors strictly rise. -/
def Memory.wf (m : Memory) : Bool :=
  SMap.sorted m.cells && m.cells.all (fun c => c.2 != Memory.unwritten) &&
    SMap.sorted (m.poison.map fun q => (q, ()))

/-- One byte by physical key. -/
def Memory.byte (m : Memory) (key : Nat) : Byte := SMap.getD m.cells key Memory.unwritten

/-- `n` bytes from a physical key. -/
def Memory.bytes (m : Memory) (key n : Nat) : List Byte :=
  let near := m.cells.filter fun c => key ≤ c.1 && c.1 < key + n
  (List.range n).map fun i => SMap.getD near (key + i) Memory.unwritten

/-- The cells that hold `bs` from a key: bytes equal to the unwritten value are not listed. -/
def cellsOf : Nat → List Byte → List Host.Cell
  | _, [] => []
  | k, b :: bs => if b = Memory.unwritten then cellsOf (k + 1) bs else (k, b) :: cellsOf (k + 1) bs

/-- Sector `q` is poisoned. -/
def Memory.poisoned (m : Memory) (q : Nat) : Bool := m.poison.contains q

/-- The sectors that `n` bytes from `key` touch. -/
def sectorsOf (key n : Nat) : List Nat :=
  if n = 0 then [] else (List.range ((key + n - 1) / 64 - key / 64 + 1)).map (key / 64 + ·)

/-- Sector `q` lies wholly within `n` bytes from `key`. -/
def wholeSector (key n q : Nat) : Bool := key ≤ 64 * q && 64 * q + 64 ≤ key + n

/-- Write bytes at a physical key. A sector written whole takes the data's poison; a sector written in part keeps its
poison and takes the data's (R269). `pz` says which sectors' data is poisoned. -/
def Memory.store (m : Memory) (key : Nat) (bs : List Byte) (pz : Nat → Bool) : Memory :=
  if bs.isEmpty then m else
  { m with
    cells := m.cells.filter (·.1 < key) ++ cellsOf key bs ++ m.cells.filter (key + bs.length ≤ ·.1)
    poison := setRange m.poison (key / 64) ((key + bs.length - 1) / 64)
      ((sectorsOf key bs.length).filter fun q =>
        pz q || (!wholeSector key bs.length q && m.poisoned q)) }

/-- Any sector of `n` bytes from `key` is poisoned. -/
def Memory.anyPoison (m : Memory) (key n : Nat) : Bool := (sectorsOf key n).any m.poisoned

/-- Mark one sector poisoned (R268). -/
def Memory.setPoison (m : Memory) (q : Nat) : Memory :=
  { m with poison := setRange m.poison q q [q] }

/-- Clear `n` bytes from `key` to zero, unpoisoned; both are multiples of 64 (R456). -/
def Memory.zero (m : Memory) (key n : Nat) : Memory :=
  { m with
    cells := m.cells.filter fun c => c.1 < key || key + n ≤ c.1
    poison := m.poison.filter fun q => q < key / 64 || (key + n) / 64 ≤ q }

end Sys2Proof.Machine
end

