-- ==== Sys2Proof/Machine/Ops.lean ====
section
/-!
DEFINITION. Named operations on the state: registers and their fields, misuse counting, events, tensor-space addresses
and memory, tasks, contexts.
-/
namespace Sys2Proof.Machine
open Sys2Proof

/-! ## Registers -/

/-- Stored value of a control register (R11, R12). -/
def State.rd (s : State) (addr : Nat) : Nat :=
  (SMap.getD s.ctrl.regs addr (BitVec.ofNat 32 (regReset addr))).toNat

/-- Store a control register. A register at its reset value is not listed. -/
def State.wr (s : State) (addr v : Nat) : State :=
  { s with ctrl.regs := SMap.putD s.ctrl.regs addr (BitVec.ofNat 32 v) (BitVec.ofNat 32 (regReset addr)) }

/-- A field of a register. -/
def State.get (s : State) (f : Fld) : Nat := field (s.rd f.addr) f.lo f.w

/-- A one-bit field. -/
def State.flag (s : State) (f : Fld) : Bool := s.get f == 1

/-- What happens on the wafer, where every clock stands still while the root PLL has no lock (R340). -/
def State.clocked (s t : State) : State := if s.flag Fld.timStatusPllLock then t else s

/-- Store a field, modulo its width. -/
def State.put (s : State) (f : Fld) (v : Nat) : State := s.wr f.addr (setField (s.rd f.addr) f.lo f.w v)

/-- A 64-bit quantity by the address of its low half (R11). -/
def State.get64 (s : State) (addr : Nat) : Nat := s.rd addr + s.rd (addr + 4) * 2 ^ 32

def State.put64 (s : State) (addr v : Nat) : State := (s.wr addr v).wr (addr + 4) (v / 2 ^ 32)

/-- Add to a field that saturates. -/
def State.bump (s : State) (f : Fld) (n : Nat := 1) : State :=
  let m := 2 ^ f.w - 1
  s.put f (if s.get f + n > m then m else s.get f + n)

/-- Add to a field that wraps. -/
def State.wrap (s : State) (f : Fld) (n : Nat := 1) : State := s.put f (s.get f + n)

/-- Add to a 64-bit counter that wraps. -/
def State.wrap64 (s : State) (addr : Nat) (n : Nat := 1) : State :=
  s.put64 addr ((s.get64 addr + n) % 2 ^ 64)

/-- Add one to each of several saturating fields set to zero. -/
def State.clearAll (s : State) (fs : List Fld) : State := fs.foldl (fun s f => s.put f 0) s

/-- Set 64-bit quantities to zero. -/
def State.clear64 (s : State) (as : List Nat) : State := as.foldl (fun s a => s.put64 a 0) s

/-! ## Misuse (R12, R457) -/

/-- Count one in a partition's misuse counter. -/
def State.misusePart (s : State) (p : Nat) : State := s.bump (Fld.shtMisuseCount p)

/-- Count one in the module misuse counter. -/
def State.misuseMod (s : State) : State := s.bump Fld.shtModMisuseCount

/-- Count one where R12 counts it for a requester. -/
def State.misuse (s : State) (r : Requester) : State :=
  match r with
  | .part p => s.misusePart p
  | .svc | .sup _ | .host _ => s.misuseMod

/-- The supervisors and the service controller. -/
def isService : Requester → Bool
  | .svc => true
  | .sup _ => true
  | .host _ => false
  | .part _ => false

/-- Partition of a context (R461). -/
def State.partOf (s : State) (c : Nat) : Nat := s.get (Fld.ctxCfgPartition c)

/-- Job of a context (R461). -/
def State.jobOf (s : State) (c : Nat) : Nat := s.get (Fld.ctxJobJob c)

/-! ## Events (R484 to R488) -/

/-- A source raises an event: it holds at most four records, and counts those beyond (R488). -/
def State.raise (s : State) (src code sev ctx part : Nat) (w2 w3 : Nat) : State :=
  if (s.raised.filter (·.src == src)).length < 4 then
    { s with raised := s.raised ++
        [⟨s.tick, src, code, ctx, part, sev, BitVec.ofNat 64 w2, BitVec.ofNat 64 w3⟩] }
  else
    match SMap.get? s.lost src with
    | some (n, t) => { s with lost := SMap.put s.lost src (n + 1, t) }
    | none => { s with lost := SMap.put s.lost src (1, s.tick) }

/-- An event about a context, with that context's partition. -/
def State.raiseCtx (s : State) (src code sev ctx : Nat) (w2 w3 : Nat) : State :=
  s.raise src code sev ctx (s.partOf ctx) w2 w3

/-- An event about no context and no partition. -/
def State.raiseMod (s : State) (src code sev : Nat) (w2 w3 : Nat) : State :=
  s.raise src code sev 0xFF 0xFF w2 w3

/-- Source ID of a task slot (R485). -/
def srcTask (core slot : Nat) : Nat := 16 * core + slot
def srcPane (n : Nat) : Nat := 0x1000 + n
/-- Edge agent 64 + i. -/
def srcEdge (i : Nat) : Nat := 0x1040 + i
def srcTime : Nat := 0x1060
def srcEvc : Nat := 0x1061
def srcLouvre : Nat := 0x1062
def srcMig : Nat := 0x1063
def srcNet : Nat := 0x1064
def srcTransport : Nat := 0x1065
def srcVirbael : Nat := 0x1066
def srcColl : Nat := 0x1067
def srcCtx : Nat := 0x1068
def srcPort (p : Nat) : Nat := 0x1080 + p
def srcRegion (r : Nat) : Nat := 0x1100 + r
def srcAlarm (a : Nat) : Nat := 0x1280 + a
def srcWater (q : Nat) : Nat := 0x1288 + q
def srcSvc : Nat := 0x1290

/-- Record what leaves the module. -/
def State.emit (s : State) (o : Out) : State := { s with out := s.out ++ [o] }

/-! ## Contexts -/

/-- STATE codes of CTX_STATUS (R482). -/
def ctxIdle : Nat := 0
def ctxLoading : Nat := 1
def ctxReady : Nat := 2
def ctxRunning : Nat := 3
def ctxDraining : Nat := 4
def ctxHeld : Nat := 5
def ctxFaulted : Nat := 6

/-- A context that holds nothing (R462 IDLE). -/
def Context.empty : Context := ⟨[], [], [], [], 0, 0, 0, 0, false, 0, [], [], [], 0, false, false, none, false, none, [], [], [], 0, none⟩

/-- A happening of a context waits for the boot field (R596). -/
def Rise.ctx : Rise → Nat
  | .load c => c
  | .fault c _ _ => c
  | .teardown c _ => c
  | .reset c => c

def State.riseWaits (s : State) (c : Nat) : Bool := s.rises.any fun r => r.ctx == c

/-- A fault of the context waits: its tasks have stopped already (R596). -/
def State.faultWaits (s : State) (c : Nat) : Bool :=
  s.rises.any fun r => match r with | .fault k _ _ => k == c | _ => false

/-- What the binder holds for a context. -/
def State.ctx (s : State) (c : Nat) : Context := SMap.getD s.ctxs c .empty

/-- A teardown of the context runs. -/
def State.tearing (s : State) (c : Nat) : Bool := (s.ctx c).tear.isSome

/-- STATE of CTX_STATUS is not IDLE (R462). -/
def State.ctxUsed (s : State) (c : Nat) : Bool := s.get (Fld.ctxStatusState c) != ctxIdle

/-- The context's state, as all but CTX_STATUS and the binder take it: one that is torn down counts as IDLE (R466 step 1). -/
def State.ctxState (s : State) (c : Nat) : Nat := if s.tearing c then ctxIdle else s.get (Fld.ctxStatusState c)

def State.setCtx (s : State) (c : Nat) (x : Context) : State :=
  { s with ctxs := SMap.putD s.ctxs c x .empty }

/-! ## Tensor space (R240 to R244) -/

/-- Where a tensor-space address lies. -/
inductive Place where
  | t0 (core off : Nat)
  | t1 (core off : Nat)
  | t2 (off : Nat)
  | t3 (apt off : Nat)
  deriving DecidableEq, Repr

/-- Region and share of an address, before any check that it is mapped (R240). -/
inductive Region where
  | t0 (u off : Nat)
  | t1 (u off : Nat)
  | t2 (off : Nat)
  | t3 (apt off : Nat)
  | hole
  deriving DecidableEq, Repr

def region (a : Nat) : Region :=
  if a < 0x1000000000 then .t0 (a / 0x4000000) (a % 0x4000000)
  else if a < 0x3000000000 then .t1 ((a - 0x1000000000) / 0x20000000) ((a - 0x1000000000) % 0x20000000)
  else if a < 0x20000000000 then .hole
  else if 0x20000000000 ≤ a && a < 0x40000000000 then .t2 (a - 0x20000000000)
  else if 0x80000000000 ≤ a && a < 0x100000000000 then
    .t3 ((a - 0x80000000000) / 0x800000000) ((a - 0x80000000000) % 0x800000000)
  else .hole

/-- Tensor-space address of byte `off` of module unit `u`'s T0 or T1 share. -/
def shareAddr (t1 : Bool) (u off : Nat) : Nat :=
  if t1 then 0x1000000000 + u * 0x20000000 + off else u * 0x4000000 + off

/-- Byte `off` of a member's T0 or T1 share is mapped (R241). -/
def Member.maps (m : Member) (t1 : Bool) (off : Nat) : Bool :=
  decide (off < (if t1 then m.t1Bytes else m.t0Bytes)) ||
    m.areas.any fun a => a.t1 == t1 && a.off ≤ off && off < a.off + a.len

/-- Physical key of byte `off` of a core's T0 or T1. -/
def coreKey (t1 : Bool) (core off : Nat) : Nat :=
  if t1 then 2 ^ 38 + core * 2 ^ 29 + off else core * 2 ^ 26 + off

/-- Bytes of a core's T0 or T1 (R29). -/
def tierBytes (t1 : Bool) : Nat := if t1 then 2 ^ 29 else 2 ^ 26

/-- Byte of the core's tier that holds byte `off` of a member's share. -/
def Member.phys (m : Member) (t1 : Bool) (off : Nat) : Nat := ((if t1 then m.base1 else m.base0) + off) % tierBytes t1

/-- Byte of a member's share that lies at byte `phys` of the core's tier. -/
def Member.unphys (m : Member) (t1 : Bool) (phys : Nat) : Nat :=
  (phys + tierBytes t1 - (if t1 then m.base1 else m.base0) % tierBytes t1) % tierBytes t1

/-- Physical key of accumulator tile `k` of a core. -/
def accKey (core k : Nat) : Nat := 2 ^ 40 + core * 2 ^ 23 + k * 4096

/-- Physical key of a byte of a channel's stack. -/
def stackKey (chan off : Nat) : Nat := 2 ^ 42 + chan * 2 ^ 37 + off

/-- Hash slot of a tile of a T2 allocation: the xor of its eight 4-bit groups (R264). -/
def hashSlot (t : Nat) : Nat :=
  (List.range 8).foldl (fun a i => a ^^^ field t (4 * i) 4) 0

/-- Channel of a hash slot (R265). -/
def State.slotChan (s : State) (h : Nat) : Nat :=
  if h < 8 then field (s.rd Reg.migSlotMap0) (4 * h) 4 else field (s.rd Reg.migSlotMap1) (4 * (h - 8)) 4

/-- First tile of partition `p`'s slice for slot `h` in its stack (R453). -/
def State.sliceBase (s : State) (p h : Nat) : Nat :=
  let k := ((List.range h).filter fun j => s.slotChan j == s.slotChan h).length
  s.get (Fld.shtT2BaseTiles p) + k * s.get (Fld.shtT2SizeTiles p)

/-- Channel and physical key of byte `o` of a partition's T2 allocation (R264). -/
def State.t2Key (s : State) (p o : Nat) : Nat × Nat :=
  let t := o / 4096
  let h := hashSlot t
  (s.slotChan h, stackKey (s.slotChan h) ((s.sliceBase p h + t / 16) * 4096 + o % 4096))

/-- Channel `m` is in service (R266). -/
def State.chanUp (s : State) (m : Nat) : Bool := bitAt (s.rd Reg.migChanUp) m

/-- `n` bytes from byte `o` of a partition's T2 allocation, within one tile, and which sectors of them are poisoned: a lost
channel returns every sector poisoned, its bytes free (R264, R266). -/
def State.t2Read (s : State) (p o n : Nat) : List Byte × (Nat → Bool) :=
  let (m, key) := s.t2Key p o
  if s.chanUp m then (s.mem.bytes key n, fun i => s.mem.poisoned ((key + i) / 64))
  else ((List.range n).map (Config.freeByte s.draws), fun _ => true)

/-- `n` little-endian bytes at byte `off` of a context's aperture table; its T1 address is MIG_APT_BASE (R242). -/
def State.apertureTable (s : State) (c : Nat) : Option (Nat × Member) :=
  let base := s.get64 (Reg.migAptBase c)
  if base == 0 || base % 4096 != 0 then none else
  match region base with
  | .t1 u off =>
    match (s.ctx c).members[u]? with
    | some m =>
      if (List.range 64).all fun i => m.maps true (off + 64 * i) then some (coreKey true m.core (m.phys true off), m) else none
    | none => none
  | _ => none

/-- Global base address and length in tiles of aperture `i`; none where it is unmapped (R242). -/
def State.aperture (s : State) (c i : Nat) : Option (Nat × Nat) :=
  match s.apertureTable c with
  | none => none
  | some (key, _) =>
    let e := s.mem.bytes (key + 16 * i) 16
    let base := leAt e 0 8
    let len := leAt e 8 4
    if leAt e 12 4 != 0 || len > 2 ^ 23 || len == 0 || base % 4096 != 0 then none else some (base, len)

/-- Where a mapped tensor-space byte of a context lies; none where it is unmapped (R240 to R242). -/
def State.place (s : State) (c a : Nat) : Option Place :=
  match region a with
  | .t0 u off =>
    match (s.ctx c).members[u]? with
    | some m => if m.maps false off then some (.t0 m.core off) else none
    | none => none
  | .t1 u off =>
    match (s.ctx c).members[u]? with
    | some m => if m.maps true off then some (.t1 m.core off) else none
    | none => none
  | .t2 off => if off < (s.ctx c).t2Bytes then some (.t2 off) else none
  | .t3 i off =>
    match s.aperture c i with
    | some (_, len) => if off < 4096 * len then some (.t3 i off) else none
    | none => none
  | .hole => none

/-- Every byte of `n` from `a` is mapped for the context (R243). -/
def State.mapped (s : State) (c a n : Nat) : Bool :=
  n == 0 || ((sectorsOf a n).all fun q =>
    (s.place c (if 64 * q < a then a else 64 * q)).isSome) && (s.place c (a + n - 1)).isSome

/-- An address lies in T0 or T1. -/
def upperTier (a : Nat) : Bool :=
  match region a with
  | .t0 .. => true
  | .t1 .. => true
  | _ => false

def inT0 (a : Nat) : Bool := match region a with | .t0 .. => true | _ => false
def inT1 (a : Nat) : Bool := match region a with | .t1 .. => true | _ => false

/-- Some byte of `n` from `a` lies in the context's code region (R128). -/
def State.inCode (s : State) (c a n : Nat) : Bool :=
  let x := s.ctx c
  decide (a < x.codeBase + x.codeLen) && decide (x.codeBase < a + n)

/-- Compute may write `n` bytes from `a`: in T0 or T1 and outside the code region (R244). -/
def State.writable (s : State) (c a n : Nat) : Bool := upperTier a && !s.inCode c a n

/-- Physical key of a T0 or T1 byte of a context; 0 where there is none. -/
def State.key (s : State) (c a : Nat) : Nat :=
  match region a with
  | .t0 u off => match (s.ctx c).members[u]? with | some m => coreKey false m.core (m.phys false off) | none => 0
  | .t1 u off => match (s.ctx c).members[u]? with | some m => coreKey true m.core (m.phys true off) | none => 0
  | .t2 off => (s.t2Key (s.partOf c) off).2
  | .t3 .. => 0
  | .hole => 0

/-- Key of a staging pool. -/
def poolKey (core c : Nat) : Nat := 64 * core + c

def State.pool (s : State) (core c : Nat) : Pool := SMap.getD s.cores.pools (poolKey core c) ⟨[], []⟩

def State.setPool (s : State) (core c : Nat) (p : Pool) : State :=
  { s with cores.pools := SMap.putD s.cores.pools (poolKey core c) p ⟨[], []⟩ }

/-- The staged copy of the tile that holds an address. -/
def State.staged? (s : State) (core c a : Nat) : Option Staged :=
  (s.pool core c).tiles.find? fun x => x.addr == a / 4096 * 4096 && x.landed

/-- Tensor-space address of a tile of a core's staging pool. -/
def State.stageAddr (s : State) (core c place : Nat) : Nat :=
  (((s.ctx c).members.find? fun m => m.core == core).elim 0 (·.stage)) + 4096 * place

/-- Bytes of one 4 KiB page as a core's instruction reads them: T0 and T1 in place, T2 and T3 from the staged copy (R244). -/
def State.pageRead (s : State) (core c a n : Nat) : List Byte :=
  if upperTier a then s.mem.bytes (s.key c a) n
  else
    match s.staged? core c a with
    | some x => s.mem.bytes (s.key c (s.stageAddr core c x.place + a % 4096)) n
    | none => List.replicate n 0#8

/-- A sector of a page as an instruction reads it is poisoned. -/
def State.pagePoison (s : State) (core c a n : Nat) : Bool :=
  if upperTier a then s.mem.anyPoison (s.key c a) n
  else
    match s.staged? core c a with
    | some x => s.mem.anyPoison (s.key c (s.stageAddr core c x.place + a % 4096)) n
    | none => false

/-- Cut [a, a + n) at 4 KiB boundaries: (address, length) pieces. -/
def pieces (a n : Nat) : List (Nat × Nat) :=
  if n = 0 then [] else
  (List.range ((a + n - 1) / 4096 - a / 4096 + 1)).map fun i =>
    let lo := if i = 0 then a else (a / 4096 + i) * 4096
    let hi := if (a / 4096 + i + 1) * 4096 < a + n then (a / 4096 + i + 1) * 4096 else a + n
    (lo, hi - lo)

/-- `n` bytes of tensor space as an instruction of a core reads them. -/
def State.tread (s : State) (core c a n : Nat) : List Byte :=
  (pieces a n).flatMap fun p => s.pageRead core c p.1 p.2

/-- Some sector of `n` bytes of tensor space is poisoned as an instruction of a core reads it. -/
def State.tpoison (s : State) (core c a n : Nat) : Bool :=
  (pieces a n).any fun p => s.pagePoison core c p.1 p.2

/-- Write bytes of T0 or T1 of a context; `pz` marks the poisoned sectors of the data by tensor-space sector (R269). -/
def State.twrite (s : State) (c a : Nat) (bs : List Byte) (pz : Nat → Bool) : State :=
  (pieces a bs.length).foldl (fun s p =>
    let key := s.key c p.1
    let m := s.mem.store key ((bs.drop (p.1 - a)).take p.2) fun q => pz (p.1 / 64 + (q - key / 64))
    { s with mem := m }) s

/-- The T2 and T3 tiles that a range of tensor space lies in (R255). -/
def lowerTiles (a n : Nat) : List Nat :=
  if upperTier a || n = 0 then []
  else (List.range ((a + n - 1) / 4096 - a / 4096 + 1)).map fun i => (a / 4096 + i) * 4096

/-! ## Tasks -/

/-- Key of a task slot. -/
def taskKey (core slot : Nat) : Nat := 16 * core + slot

/-- The task in a slot; none where the slot is EMPTY. -/
def State.task? (s : State) (core slot : Nat) : Option Task := SMap.get? s.cores.tasks (taskKey core slot)

def State.setTask (s : State) (core slot : Nat) (t : Task) : State :=
  { s with cores.tasks := SMap.put s.cores.tasks (taskKey core slot) t }

/-- The slot becomes EMPTY. -/
def State.dropTask (s : State) (core slot : Nat) : State :=
  { s with cores.tasks := SMap.del s.cores.tasks (taskKey core slot) }

/-- Change the task in a slot, if there is one. -/
def State.modTask (s : State) (core slot : Nat) (f : Task → Task) : State :=
  match s.task? core slot with
  | some t => s.setTask core slot (f t)
  | none => s

/-- Tasks of a context: key and task. -/
def State.tasksOf (s : State) (c : Nat) : List (Nat × Task) := s.cores.tasks.filter fun p => p.2.ctx == c

def Task.reg (t : Task) (i : Nat) : Word64 := SMap.getD t.s i 0#64
def Task.setReg (t : Task) (i : Nat) (v : Word64) (poisoned : Bool) : Task :=
  { t with s := SMap.putD t.s i v 0#64
           sPoison := BitVec.ofNat 64 (setBit t.sPoison.toNat i poisoned) }
def Task.regPoison (t : Task) (i : Nat) : Bool := bitAt t.sPoison.toNat i

/-- A predicate; p0 reads as 1 (R137). -/
def Task.pred (t : Task) (i : Nat) : Bool := i == 0 || bitAt t.p.toNat i
def Task.predPoison (t : Task) (i : Nat) : Bool := i != 0 && bitAt t.pPoison.toNat i
/-- A write of p0 writes nothing (R137). -/
def Task.setPred (t : Task) (i : Nat) (v poisoned : Bool) : Task :=
  if i = 0 then t else
  { t with p := BitVec.ofNat 16 (setBit t.p.toNat i v)
           pPoison := BitVec.ofNat 16 (setBit t.pPoison.toNat i poisoned) }

def Task.desc (t : Task) (i : Nat) : Nat := (SMap.getD t.t i 0#512).toNat
def Task.setDesc (t : Task) (i : Nat) (v : Nat) (poisoned : Bool) : Task :=
  { t with t := SMap.putD t.t i (BitVec.ofNat 512 v) 0#512
           tPoison := BitVec.ofNat 32 (setBit t.tPoison.toNat i poisoned) }
def Task.descPoison (t : Task) (i : Nat) : Bool := bitAt t.tPoison.toNat i

def Task.vreg (t : Task) (i : Nat) : BitVec 32768 := SMap.getD t.v i 0#32768
/-- Poisoned sectors (16 lanes each) of a vector register, bit by bit. -/
def Task.vregPoison (t : Task) (i : Nat) : Nat := (SMap.getD t.vPoison i 0#64).toNat
def Task.setVreg (t : Task) (i : Nat) (v : BitVec 32768) (pz : Nat) : Task :=
  { t with v := SMap.putD t.v i v 0#32768
           vPoison := SMap.putD t.vPoison i (BitVec.ofNat 64 pz) 0#64 }
def Task.handle (t : Task) (i : Nat) : Word64 := SMap.getD t.h i 0#64

/-- WAIT_KIND code of a wait (R147). -/
def Wait.kind : Wait → Nat
  | .latch .. => 1
  | .inject .. => 1
  | .buffer _ => 2
  | .launch _ => 3
  | .barrier _ => 4
  | .threshold => 5
  | .lease => 6
  | .tiles _ => 7
  | .streamTiles .. => 7
  | .coll => 7
  | .collRoom _ => 7
  | .reissue k => k

/-- A fresh task: the start state of R145, not yet ready. -/
def Task.start (ctx num leaf accFirst accCount : Nat) (pc : Nat) (arg : Word64) (h : SMap Word64) : Task where
  state := .ready
  stopCause := 0
  illCause := 0
  wait := none
  ctx := ctx
  num := num
  leaf := leaf
  pc := BitVec.ofNat 44 pc
  flags := Flags.none
  s := SMap.putD [] 0 arg 0#64
  p := 1#16
  t := []
  v := []
  h := h
  sPoison := 0#64
  pPoison := 0#16
  tPoison := 0#32
  vPoison := []
  faultWord := 0#64
  faultExt := 0#64
  accFirst := accFirst
  accCount := accCount
  run := none
  waitStart := 0
  causes := 0
  request := none
  retired := 0

/-! ## Hinge batches (R405) -/

/-- The batches that hold stores of a task are to be sent: it executed THRESHOLD, BARRIER or HALT, or is stopped. -/
def State.closeBatches (s : State) (core slot : Nat) : State :=
  { s with vbl.batches := s.vbl.batches.map fun (b : Batch) =>
      if b.tasks.contains (core, slot) then { b with closed := true } else b }

/-! ## Endpoints -/

def epKey (core ep : Nat) : Nat := 256 * core + ep

/-- Endpoint counters; none where EN is 0 (R222). -/
def State.ep? (s : State) (k : Nat) : Option Endpoint := SMap.get? s.cores.eps k
def State.setEp (s : State) (k : Nat) (e : Endpoint) : State :=
  { s with cores.eps := SMap.put s.cores.eps k e }

/-- Grain g, ring length B, tensor-space base of the ring (R188, R222). -/
def State.epGrain (s : State) (k : Nat) : Nat := s.get (Fld.strCfgGrain k) + 1
def State.epRing (s : State) (k : Nat) : Nat := s.get (Fld.strRingLen k) + 1

end Sys2Proof.Machine
end

