-- ==== Sys2Proof/Machine/CtxFault.lean ====
section
/-!
DEFINITION. A context's fault (R465, R97) and the rule by which a task's fault spreads to its context (R22, R205).
-/
namespace Sys2Proof.Machine
open Sys2Proof

/-- Some task of the context waits at a threshold, or at the barrier of a casement that contains the leaf (R22, R205). A task that was
restored waiting at a threshold waits at it. -/
def State.faultSpreads (s : State) (c leaf : Nat) : Bool :=
  (s.tasksOf c).any fun p => p.2.state == .waiting &&
    match p.2.wait with
    | some .threshold => true
    | some (.reissue 5) => true
    | some (.barrier n) =>
      match (s.ctx c).units[n]? with
      | some u => u.leaf ≤ leaf && leaf < u.leaf + u.leaves
      | none => false
    | _ => false

/-- Every task of the context that has no STOP_CAUSE yet records one (R147). -/
def State.markStopped (s : State) (c cause : Nat) : State :=
  { s with cores.tasks := s.cores.tasks.map fun p =>
      if p.2.ctx == c && p.2.stopCause == 0 then (p.1, { p.2 with stopCause := cause }) else p }

/-- Every task of the context that has neither halted nor a cause of its own records STOP_CAUSE 4 (R147). The task whose own LATCH.SIG
overruns (R194) is one of them: no other value of STOP_CAUSE fits it (DESIGN CHOICE, log entry 32). -/
def State.markFaulted (s : State) (c : Nat) : State := s.markStopped c 4

/-- What a context's stages and queues hold is discarded: its groups on their way, the partials of its merge nodes, and the flags of
instructions that have not retired (R97, R111, R327). -/
def State.discardGroups (s : State) (c : Nat) : State :=
  { s with
    cores.eps := s.cores.eps.map fun p =>
      if s.get (Fld.strCfgContext p.1) == c then (p.1, { p.2 with flagsDue := [] }) else p
    cores.groups := s.cores.groups.filter fun g => g.ctx != c
    cores.merges := s.cores.merges.filterMap fun p =>
      let keep (g : Option Group) : Option Group := g.filter fun g => g.ctx != c
      if (keep p.2.1).isSome || (keep p.2.2).isSome then some (p.1, keep p.2.1, keep p.2.2) else none }

/-- The engine's running command of a context ends with ABORTED: its completion word and status, and MIG_DONE (R274, R275).
-/
def State.migEnd (s : State) (c status done poisoned : Nat) : State :=
  let base := s.get64 (Reg.migRingBase c) % 2 ^ 44
  let head := s.get (Fld.migRingHeadHead c)
  let cmd := s.mem.bytes (s.key c (base + 64 * head)) 64
  let word := status + done * 2 ^ 8 + poisoned * 2 ^ 32
  let compl := leAt cmd 24 8 % 2 ^ 44
  let s := { s with migs := SMap.del s.migs c }
  let s := if compl != 0 && compl % 8 == 0 && upperTier compl && s.mapped c compl 8 then
      s.twrite c compl (leBytes 8 word) fun _ => false else s
  let s := s.put (Fld.migRingStatusLastStatus c) status
  let s := s.put (Fld.migRingStatusBusy c) 0
  let l := s.get (Fld.migRingCtrlSizeLog2 c)
  let size := 2 ^ (if l < 4 then 4 else if 12 < l then 12 else l)
  let s := s.put (Fld.migRingHeadHead c) ((head + 1) % size)
  if bitAt (leAt cmd 1 1) 0 then s.raiseCtx srcMig 0x0312 0 c word head else s

/-- The ring of a context stops, its running command ABORTED (R275). -/
def State.migAbort (s : State) (c : Nat) : State :=
  match SMap.get? s.migs c with
  | some r => s.migEnd c 4 r.done r.poisoned
  | none => s

/-- What Louvre holds for a context, and a change of it. -/
def Lvr.empty : Lvr := ⟨none, none, none, 0, [], none, 0, 0, [], [], [], [], []⟩

def State.lvr (s : State) (c : Nat) : Lvr := SMap.getD s.lvrs c .empty

def State.setLvr (s : State) (c : Nat) (l : Lvr) : State := { s with lvrs := SMap.putD s.lvrs c l .empty }

def State.lvrSize (s : State) (c : Nat) : Nat :=
  let l := s.get (Fld.lvrDescCtrlSizeLog2 c)
  2 ^ (if l < 4 then 4 else if 12 < l then 12 else l)

/-- The descriptor at a ring index (R288). -/
def State.lvrDesc (s : State) (c ring : Nat) : List Byte :=
  s.mem.bytes (s.key c (s.get64 (Reg.lvrDescBase c) % 2 ^ 44 + 64 * ring)) 64

/-- HEAD passes every descriptor that has ended with all before it (R291). -/
def headPast (size : Nat) : Nat → Nat → List Nat → Nat × List Nat
  | 0, head, ended => (head, ended)
  | fuel + 1, head, ended =>
    if ended.contains head then headPast size fuel ((head + 1) % size) (ended.filter (· != head)) else (head, ended)

/-- A descriptor ends: completion word, LAST_STATUS, LVR_DONE, HEAD (R291, R292). -/
def State.lvrEnd (s : State) (c ring status chunks poisoned : Nat) : State :=
  let d := s.lvrDesc c ring
  let word := status + chunks % 2 ^ 24 * 2 ^ 8 + poisoned % 2 ^ 32 * 2 ^ 32
  let compl := leAt d 48 8
  let s := if compl != 0 && compl < 2 ^ 44 && compl % 8 == 0 && upperTier compl && s.mapped c compl 8 then
      s.twrite c compl (leBytes 8 word) fun _ => false else s
  let s := s.put (Fld.lvrStatusLastStatus c) status
  let l := s.lvr c
  let s := s.put (Fld.lvrStatusBusy c) (if l.reading.isSome || l.load.isSome || l.swap.isSome then 1 else 0)
  let s := if l.swap.isSome then s else s.put (Fld.lvrStatusPhase c) 0
  let (head, ended) := headPast (s.lvrSize c) 4096 (s.get (Fld.lvrDescHeadHead c)) (ring :: l.ended)
  let s := s.put (Fld.lvrDescHeadHead c) head
  let s := s.setLvr c { l with ended := ended }
  if bitAt (leAt d 1 1) 0 then s.raiseCtx srcLouvre 0x0402 0 c word ring else s

/-- Reads of a descriptor that ends: their answers are discarded. -/
def State.dropReads (s : State) (c : Nat) (q : EngineRead → Bool) : State :=
  { s with vbl.reqs := s.vbl.reqs.filter fun r => r.ctx != c || match r.use with
      | .engine e => !q e
      | _ => true }

/-- Reads of a LOAD, of a SWAP, and of either's manifest. -/
def EngineRead.ofLoad : EngineRead → Bool
  | .load .. => true
  | .stage .. | .manifest _ | .swap .. | .stream .. => false

def EngineRead.ofSwap : EngineRead → Bool
  | .swap .. => true
  | .stage .. | .manifest _ | .load .. | .stream .. => false

def EngineRead.ofManifest : EngineRead → Bool
  | .manifest _ => true
  | .stage .. | .load .. | .swap .. | .stream .. => false

/-- The running LOAD and SWAP of a context end with ABORTED and its ring stops (R293, R306). -/
def State.lvrAbort (s : State) (c : Nat) : State :=
  let l := s.lvr c
  let s := s.dropReads c fun e => e.ofLoad || e.ofSwap || e.ofManifest
  let s := s.setLvr c { l with reading := none, load := none, swap := none }
  let s := match l.reading with
    | some r => s.lvrEnd c r.1 4 0 0
    | none => s
  let s := match l.load with
    | some j => s.lvrEnd c j.ring 4 j.got j.poisoned
    | none => s
  match l.swap with
  | some w => s.lvrEnd c w.job.ring 4 w.job.got w.job.poisoned
  | none => s

/-! ## Incarnations (R414, R417, R596) -/

/-- A context's counter is at its last value, or a commit is awaited: its rise waits (R596). -/
def State.riseHeld (s : State) (c : Nat) : Bool := !s.rises.isEmpty || s.rd (Reg.vblInc c) % 2 ^ 16 == 0xFFFF

/-- An incarnation rises under the boot count as it stands, and its endpoint releases the leases that the context holds (R414,
R417). -/
def State.raiseInc (s : State) (c : Nat) : State :=
  let n := s.rd (Reg.vblInc c) % 2 ^ 16
  let s := s.wr (Reg.vblInc c) ((n + 1) % 2 ^ 16 + s.get Fld.vblBootBoot * 2 ^ 16)
  if s.vbl.breaks.contains c then s else { s with vbl.breaks := s.vbl.breaks ++ [c] }

/-- A rise waits; the context shows BUSY (R596). -/
def State.deferRise (s : State) (r : Rise) : State :=
  { s with rises := s.rises ++ [r] }.put (Fld.ctxStatusBusy r.ctx) 1

/-! ## Requests of a context that ends (R391) -/

/-- Requests that have been sent take effect, and their responses are discarded; what has not been sent is dropped, and so are an
engine's reads, which have no other effect. -/
def State.dropRequests (s : State) (c : Nat) : State :=
  { s with
    vbl.batches := s.vbl.batches.filter fun b => b.ctx != c
    vbl.reqs := (s.vbl.reqs.filter fun r =>
      r.ctx != c || match r.use with
        | .giveUp => true
        | .record _ => true
        | .ring _ => true
        | .engine _ => false
        | _ => r.first.isSome).map fun r =>
      if r.ctx != c then r else match r.use with
        | .giveUp => r
        | .record _ => r
        | .ring _ => r
        | _ => { r with use := .dropped } }

/-! ## Collective instances of a context that ends (R441) -/

/-- An ABORT marker (R437). -/
def Coll.abortMsg (i : Coll) (reason node : Nat) : Msg where
  tok := none
  ptype := 7
  cls := 1
  job := i.job
  block := leBytes 4 i.num ++ leBytes 2 2 ++ leBytes 2 3 ++ leBytes 8 i.step
  data := leBytes 4 reason ++ leBytes 4 node ++ List.replicate 24 0#8

/-- Key of a member's sequence (R424). -/
def Coll.seqKey (i : Coll) : Nat := i.num / 2 ^ 12

/-- An instance ends ABORTED: counters, event, the markers to its neighbours, its scratch (R441, R444). -/
def State.collEnd (s : State) (i : Coll) (reason node : Nat) : State :=
  let x := s.ctx i.ctx
  let s := s.setCtx i.ctx { x with
    collSeqs := SMap.put x.collSeqs i.seqKey ((SMap.getD x.collSeqs i.seqKey 0 + 1) % 4096) }
  let s := { s with
    coll.insts := s.coll.insts.filter fun k => !(k.job == i.job && k.num == i.num)
    coll.out := s.coll.out ++ i.nbrs.map fun (n : Nat × Nat) => (n.2, i.abortMsg reason node)
    coll.ends := s.coll.ends + 1 }
  let s := (s.put (Fld.colStatusLastStatus i.ctx) 2).put (Fld.colStatusLastReason i.ctx) reason
  (s.bump (Fld.colAbortsCount i.ctx)).raiseCtx srcColl 0x0901 2 i.ctx (i.num + reason * 2 ^ 32 + i.step * 2 ^ 40) node

/-- The instances of a context that faults or is torn down end with MEMBER_FAULT. -/
def State.collEndCtx (s : State) (c : Nat) : State :=
  let s := (s.coll.insts.filter fun i => i.ctx == c && i.endedAs.isNone).foldl
    (fun s i => s.collEnd i 2 (s.get Fld.vblNodeNode)) s
  { s with coll.insts := s.coll.insts.filter fun i => i.ctx != c }

/-! ## A context's fault (R97, R465) -/

/-- Containment: the first cause is recorded, the tasks stop, what the context has in flight is discarded, its engines end with
ABORTED (R97, R465, R596). -/
def State.contain (s : State) (c cause ordinal : Nat) : State :=
  let s := if s.get (Fld.ctxFaultCause c) == 0 then
      (s.put (Fld.ctxFaultCause c) cause).put (Fld.ctxFaultOrdinal c) ordinal else s
  let s := s.markFaulted c
  let s := s.setCtx c { s.ctx c with releases := [] }
  let s := if s.taskOps.any fun o => o.ctx == c && o.issuer.isNone then
      (s.put (Fld.synTskStatusBusy c) 0).put (Fld.synTskStatusResult c) 7 else s
  let s := { s with taskOps := s.taskOps.filter fun o => o.ctx != c }
  ((((s.collEndCtx c).discardGroups c).migAbort c).lvrAbort c).dropRequests c

/-- STATE becomes FAULTED, the incarnation rises, CTX_FAULTED is written; a start that was pending is cancelled (R414, R462, R483).
-/
def State.enterFaulted (s : State) (c cause ordinal : Nat) : State :=
  let s := ((s.put (Fld.ctxStatusState c) ctxFaulted).put (Fld.ctxStatusBusy c) 0).raiseInc c
  let s := s.setCtx c { s.ctx c with startAt := none, forced := none }
  s.raiseCtx srcCtx 0x0A00 3 c (c + cause * 2 ^ 8 + ordinal * 2 ^ 16) s.tick

/-- The context faults with its first cause (R465); a context that is IDLE or FAULTED stays as it is. Where the incarnation must
wait for the boot field, containment does not (R596). -/
def State.faultCtx (s : State) (c cause ordinal : Nat) : State :=
  let st := s.ctxState c
  if st == ctxIdle || st == ctxFaulted || s.faultWaits c then s else
  let s := s.contain c cause ordinal
  if s.riseHeld c then s.deferRise (.fault c cause ordinal) else s.enterFaulted c cause ordinal

end Sys2Proof.Machine
end

