-- ==== Sys2Proof/Machine/Mesh.lean ====
section
/-!
DEFINITION. Stops of the on-wafer networks, route tables, shutters and the refusal of a packet at its source (R62, R67, R312,
R320, R321, R328, R335, R451).
-/
namespace Sys2Proof.Machine
open Sys2Proof

/-- Leaf ordinal of a context's core-unit on a core. -/
def State.leafOn (s : State) (c core : Nat) : Nat :=
  match (s.ctx c).members.find? fun m => m.core == core with
  | some m => m.leaf
  | none => 0

/-- Position that serves a core's slot; 15 for none (R55). -/
def State.servedBy (s : State) (core : Nat) : Nat := field (s.rd (Reg.pswMap (paneOf core))) (4 * slotOf core) 4

/-- What is recorded of a core position (R51, R565). -/
def State.position (s : State) (pos : Nat) : Position := SMap.getD s.rel.pos pos ⟨[], [], [], 0, []⟩

def State.setPosition (s : State) (pos : Nat) (x : Position) : State :=
  { s with rel.pos := SMap.putD s.rel.pos pos x ⟨[], [], [], 0, []⟩ }

/-- A stop is out of service. -/
def State.stopOut (s : State) (d : Nat) : Bool := s.flag (Fld.netLinkOut d)

/-- A slot that no position serves, or whose pane is out of service, is fenced (R62, R63). -/
def State.fenced (s : State) (core : Nat) : Bool := s.servedBy core == 15 || s.stopOut core

/-- The slot's ports are closed by a MIGRATE, and traffic for it waits (R58, R60). -/
def State.portsClosed (s : State) (core : Nat) : Bool :=
  match SMap.get? s.rel.moving (paneOf core) with
  | some m => m.1 == slotOf core
  | none => false

/-- Route entry of a stop for a destination in a copy: DIR and PLANES (R320, R335). -/
def State.route (s : State) (copy stop dst : Nat) : Nat × Nat :=
  let w := s.rd (Reg.netRt (128 * stop + 64 * copy + dst / 4))
  (field w (8 * (dst % 4)) 3, field w (8 * (dst % 4) + 3) 2)

def dirUnreachable : Nat := 5

def State.netCopy (s : State) : Nat := s.get Fld.netTblCtrlActive

/-- The perimeter stop of an edge agent 64 + e whose coordinate along the side has a parity (R67). -/
def edgeStopAt (e parity : Nat) : Nat :=
  let along := 2 * (e % 8) + parity
  match e / 8 with
  | 0 => 16 * along
  | 1 => along
  | 2 => 16 * along + 15
  | _ => 240 + along

/-- The stop of an edge agent 64 + e that a sender uses: the one whose coordinate along the side has the sender's parity (R320). -/
def edgeStop (e sender : Nat) : Nat :=
  edgeStopAt e (if e / 8 % 2 == 0 then sender / 16 % 2 else sender % 16 % 2)

/-- The wafer block's two attachments (R312). -/
def attachment (second : Bool) : Nat := if second then 16 * 8 + 8 else 16 * 7 + 7

/-- The attachment that a packet for agent 96 goes to: by its sender's y, the other one while that is out of service (R312). -/
def State.blockStop (s : State) (sender : Nat) : Nat :=
  let second := decide (8 ≤ sender / 16)
  if s.stopOut (attachment second) then attachment (!second) else attachment second

/-- The stop where the service controller's packets enter (R312). -/
def State.svcStop (s : State) : Nat := if s.stopOut (16 * 7) then 16 * 8 else 16 * 7

/-- Neighbour of a stop in a direction: 0 east, 1 west, 2 north, 3 south; none at the wafer edge (R312). -/
def neighbour (d dir : Nat) : Option Nat :=
  match dir with
  | 0 => if d % 16 == 15 then none else some (d + 1)
  | 1 => if d % 16 == 0 then none else some (d - 1)
  | 2 => if d / 16 == 15 then none else some (d + 16)
  | _ => if d / 16 == 0 then none else some (d - 16)

/-- Partition whose valid rectangle holds a position (R450). -/
def State.partAt (s : State) (core : Nat) : Option Nat :=
  (List.range 32).find? fun p =>
    s.flag (Fld.shtRectValid p) && s.get (Fld.shtRectX0 p) ≤ core % 16 && core % 16 ≤ s.get (Fld.shtRectX1 p) &&
      s.get (Fld.shtRectY0 p) ≤ core / 16 && core / 16 ≤ s.get (Fld.shtRectY1 p)

/-- SHUT of a stop's direction: the neighbour lies in a different partition or in none (R451). -/
def State.shut (s : State) (d dir : Nat) : Bool :=
  match neighbour d dir with
  | none => false
  | some n => s.partAt n == none || s.partAt n != s.partAt d

/-- UP bit of a network of a stop's direction. -/
def State.linkUp (s : State) (d dir net : Nat) : Bool :=
  bitAt (s.get (match net with | 0 => Fld.netLinkUpA d | 1 => Fld.netLinkUpB d | _ => Fld.netLinkUpT d)) dir

/-- A link is lost that is down on the transom network or on both planes (R315). -/
def State.linkLost (s : State) (d dir : Nat) : Bool :=
  !s.linkUp d dir 2 || (!s.linkUp d dir 0 && !s.linkUp d dir 1)

/-- Word 2 of NET_LOST and NET_UNREACH (R337). -/
def netWord (src dst : Nat) (multi : Bool) (cls : Nat) (transom : Bool) : Nat :=
  src + (if multi then 0xFF else dst) * 2 ^ 8 + cls * 2 ^ 16 + transom.toNat * 2 ^ 18

/-- How a path through the mesh ends: it goes through, a stop on it discards the packet as lost, or a shutter discards it (R322, R328).
-/
inductive MeshPath where
  | through
  | lost (stop : Nat)
  | shut
  deriving DecidableEq, Repr

/-- The path of a packet from a stop by the entries of a table copy, at most so many hops; `edge`: one end of it is an edge agent (R320,
R322, R328). -/
def State.meshPath (s : State) (copy dst : Nat) (edge : Bool) : Nat → Nat → MeshPath
  | 0, d => .lost d
  | fuel + 1, d =>
    let code := (s.route copy d dst).1
    if s.stopOut d then .lost d
    else if code == 0 then (if d == dst then .through else .lost d)
    else if dirUnreachable ≤ code then .lost d
    else match neighbour d (code - 1) with
      | none => .lost d
      | some n =>
        if s.stopOut n || s.linkLost d (code - 1) then .lost d
        else if s.shut d (code - 1) && !edge then .shut
        else s.meshPath copy dst edge fuel n

/-- Deficit round-robin among the classes CT, BK and BG that have something to send, with weights 4, 11 and 1 out of 16: the class that
sends, and what is left of the weights; a class with nothing to send passes its turn (R319, R368). -/
def classTurn (classes weights : List Nat) : Option (Nat × List Nat) :=
  match classes with
  | [] => none
  | c :: _ =>
    let weights := if classes.any fun c => 0 < weights.getD (c - 1) 0 then weights else [4, 11, 1]
    let c := (classes.find? fun c => 0 < weights.getD (c - 1) 0).getD c
    some (c, weights.set (c - 1) (weights.getD (c - 1) 0 - 1))

/-- Most hops that a packet takes before a stop discards it (R322). -/
def hopsMax : Nat := 48

/-- A source stop takes a packet for a destination (R321). -/
def State.meshReach (s : State) (src dst : Nat) : Bool :=
  (s.route s.netCopy src dst).1 < dirUnreachable && !s.stopOut dst

/-- A source stop takes a packet for a core's slot (R321). -/
def State.coreReach (s : State) (src dst : Nat) : Bool := s.meshReach src dst && !s.fenced dst

/-- A refused packet is counted and reported (R321, R337). -/
def State.netUnreach (s : State) (src dst cls : Nat) : State :=
  (s.raiseMod (srcPane (paneOf src)) 0x0501 2 (src + dst * 2 ^ 8 + cls * 2 ^ 16) 0).bump Fld.netUnreachCount

/-- A refused or lost packet of a stream: the owning context faults with cause 6 (R321, R465). -/
def State.streamLost (s : State) (k : Nat) : State :=
  let c := s.get (Fld.strCfgContext k)
  s.faultCtx c 6 (s.leafOn c (k / 256))

end Sys2Proof.Machine
end

