-- ==== Sys2Proof/Machine/Access.lean ====
section
/-!
DEFINITION. Who may write a control register, accesses that are refused, and reserved bits (R12, R57, R461, R591 to R595).
-/
namespace Sys2Proof.Machine
open Sys2Proof

/-! ## Accesses to agents out of service (R595) -/

/-- Pane of supervisor `i`; 0xFF for none. -/
def State.supPane (s : State) (i : Nat) : Nat := field (s.rd Reg.svcSup) (8 * i) 8

/-- The requester's packets come from the wafer block (R312). The spec gives the host and a partition no place on the wafer: they are taken
to enter where the wafer block attaches (DEDUCED, log entry 46). -/
def atBlock : Requester → Bool
  | .host _ | .part _ => true
  | .svc | .sup _ => false

/-- Stop where a requester's packets enter: the service controller's, a stop of a supervisor's pane, or the wafer block's (R312). -/
def State.entryStop (s : State) : Requester → Nat
  | .svc => s.svcStop
  | .sup i => coreOf (s.supPane i.val % 64) 0
  | .host _ | .part _ => s.blockStop 0

/-- Stop of an agent that an access is for (R312, R320). -/
def State.agentStop (s : State) (agent sender : Nat) : Nat :=
  if agent < 64 then coreOf agent 0
  else if agent < 96 then edgeStop (agent - 64) sender
  else s.blockStop sender

/-- The access is refused at its source stop: that stop or the agent's is out of service, or the active copy has no path (R321, R595).
Agents above 96 do not exist, and the wafer block reaches agent 96 without the network (R312). -/
def State.accessRefused (s : State) (req : Requester) (addr : Nat) : Bool :=
  let agent := addr / 0x200000000
  let src := s.entryStop req
  let dst := s.agentStop agent src
  decide (agent ≤ 96) && !(atBlock req && agent == 96) &&
    (s.stopOut src || s.stopOut dst || decide (dirUnreachable ≤ (s.route s.netCopy src dst).1))

/-- A refused access is counted and reported, on the transom network in class CT (R321, R595). -/
def State.refuseAccess (s : State) (req : Requester) (addr : Nat) : State :=
  let src := s.entryStop req
  let dst := s.agentStop (addr / 0x200000000) src
  (s.raiseMod (srcPane (paneOf src)) 0x0501 2 (src + dst * 2 ^ 8 + 2 ^ 16 + 2 ^ 18) 0).bump Fld.netUnreachCount

/-! ## Writers (R57, R591 to R594) -/

/-- The host under the job of a context, or who may write any context's registers. -/
def State.mayWriteCtx (s : State) (req : Requester) (c : Nat) : Bool :=
  match req with
  | .svc => true
  | .sup _ => true
  | .host job => job.toNat != 0 && s.jobOf c == job.toNat
  | .part _ => false

/-- The requester may write a register of a block by the block's own rules. -/
def State.mayWriteLoc (s : State) (req : Requester) (l : Loc) : Bool :=
  let own (offs : List Nat) : Bool := isService req || (offs.contains l.off && s.mayWriteCtx req l.inst)
  match l.blk with
  | .syn => s.mayWriteCtx req l.inst
  | .mig => if l.off == 0x60 || l.off == 0x64 then isService req else s.mayWriteCtx req l.inst
  | .lvr => own [0x0, 0x4, 0x8, 0xC, 0x1C, 0x58, 0x78]
  | .lvrm => req == .svc || (l.off ≥ 0x44 && isService req)
  | .vblc => own [0x0]
  | .col => own [0x0, 0x34]
  | .ctx => own [0x8, 0xC, 0x18, 0x1C, 0x20, 0x24, 0x28, 0x2C]
  | .relc => own [0x0]
  | .evq => isService req ||
      ((l.off == 0x14 || l.off == 0x18) && s.flag (Fld.evcQCtrlKind l.inst) &&
        match req with
        | .host _ => true
        | _ => false)
  | .svc => match req with | .sup _ => l.off == 0x8 || l.off == 0xC | _ => false
  | .psw | .core | .str | .migm | .net | .rt | .mrg | .netm | .tim | .lnk | .trp | .ent | .vbl | .win | .sht | .shtm
  | .evc | .evs | .alm | .ptc | .ptcp | .rel | .pwr | .pwrm => isService req

/-! ## Reserved bits (R12) -/

/-- Bits of a register that belong to a field. -/
def fieldBits (fs : List FieldSpec) : Nat := fs.foldl (fun a f => a ||| (2 ^ f.w - 1) <<< f.lo) 0

/-- A value has a reserved bit set. -/
def rsvdSet (fs : List FieldSpec) (v : Nat) : Bool := v &&& fieldBits fs != v % 2 ^ 32

/-- What every write of a register shares: without power or clocks, a refused access, a reserved address and a writer that may not
write change nothing; a set reserved bit is counted, and the rest of the write is `f` (R10, R12, R57, R340, R595). -/
def State.write (s : State) (req : Requester) (addr v : Nat) (f : State → State) : State :=
  if s.svc.power != 2 || !s.flag Fld.timStatusPllLock then s else
  if s.accessRefused req addr then s.refuseAccess req addr else
  match locate addr with
  | none => s.misuse req
  | some l =>
    match regFields l.blk l.off with
    | none => s.misuse req
    | some fs =>
      if !s.mayWriteLoc req l then s.misuse req
      else f (if rsvdSet fs v then s.misuse req else s)

end Sys2Proof.Machine
end

