-- ==== Sys2Proof/Machine/Hash.lean ====
section
/-!
DEFINITION. CRC-32C, SHA-384 (FIPS 180-4) and ECDSA verification over P-384 (FIPS 186-5), which R281 and R282 name (PRESUMED, log entry
7).
-/
namespace Sys2Proof.Machine
open Sys2Proof

/-! ## CRC-32C -/

/-- One byte through the CRC-32C shift register: reflected, polynomial 0x1EDC6F41 (PRESUMED, log entry 6). -/
def crcByte (crc : BitVec 32) (b : Byte) : BitVec 32 :=
  (List.range 8).foldl (fun c _ => if c.getLsbD 0 then (c >>> 1) ^^^ 0x82F63B78#32 else c >>> 1)
    (crc ^^^ b.setWidth 32)

/-- CRC-32C of bytes (PRESUMED, log entry 6). -/
def crc32c (bs : List Byte) : Nat := (bs.foldl crcByte 0xFFFFFFFF#32 ^^^ 0xFFFFFFFF#32).toNat

/-! ## SHA-384 -/

def shaK0 : List Word64 :=
  [0x428a2f98d728ae22#64, 0x7137449123ef65cd#64, 0xb5c0fbcfec4d3b2f#64, 0xe9b5dba58189dbbc#64,
   0x3956c25bf348b538#64, 0x59f111f1b605d019#64, 0x923f82a4af194f9b#64, 0xab1c5ed5da6d8118#64,
   0xd807aa98a3030242#64, 0x12835b0145706fbe#64, 0x243185be4ee4b28c#64, 0x550c7dc3d5ffb4e2#64,
   0x72be5d74f27b896f#64, 0x80deb1fe3b1696b1#64, 0x9bdc06a725c71235#64, 0xc19bf174cf692694#64]

def shaK1 : List Word64 :=
  [0xe49b69c19ef14ad2#64, 0xefbe4786384f25e3#64, 0x0fc19dc68b8cd5b5#64, 0x240ca1cc77ac9c65#64,
   0x2de92c6f592b0275#64, 0x4a7484aa6ea6e483#64, 0x5cb0a9dcbd41fbd4#64, 0x76f988da831153b5#64,
   0x983e5152ee66dfab#64, 0xa831c66d2db43210#64, 0xb00327c898fb213f#64, 0xbf597fc7beef0ee4#64,
   0xc6e00bf33da88fc2#64, 0xd5a79147930aa725#64, 0x06ca6351e003826f#64, 0x142929670a0e6e70#64]

def shaK2 : List Word64 :=
  [0x27b70a8546d22ffc#64, 0x2e1b21385c26c926#64, 0x4d2c6dfc5ac42aed#64, 0x53380d139d95b3df#64,
   0x650a73548baf63de#64, 0x766a0abb3c77b2a8#64, 0x81c2c92e47edaee6#64, 0x92722c851482353b#64,
   0xa2bfe8a14cf10364#64, 0xa81a664bbc423001#64, 0xc24b8b70d0f89791#64, 0xc76c51a30654be30#64,
   0xd192e819d6ef5218#64, 0xd69906245565a910#64, 0xf40e35855771202a#64, 0x106aa07032bbd1b8#64]

def shaK3 : List Word64 :=
  [0x19a4c116b8d2d0c8#64, 0x1e376c085141ab53#64, 0x2748774cdf8eeb99#64, 0x34b0bcb5e19b48a8#64,
   0x391c0cb3c5c95a63#64, 0x4ed8aa4ae3418acb#64, 0x5b9cca4f7763e373#64, 0x682e6ff3d6b2b8a3#64,
   0x748f82ee5defb2fc#64, 0x78a5636f43172f60#64, 0x84c87814a1f0ab72#64, 0x8cc702081a6439ec#64,
   0x90befffa23631e28#64, 0xa4506cebde82bde9#64, 0xbef9a3f7b2c67915#64, 0xc67178f2e372532b#64]

def shaK4 : List Word64 :=
  [0xca273eceea26619c#64, 0xd186b8c721c0c207#64, 0xeada7dd6cde0eb1e#64, 0xf57d4f7fee6ed178#64,
   0x06f067aa72176fba#64, 0x0a637dc5a2c898a6#64, 0x113f9804bef90dae#64, 0x1b710b35131c471b#64,
   0x28db77f523047d84#64, 0x32caab7b40c72493#64, 0x3c9ebe0a15c9bebc#64, 0x431d67c49c100d4c#64,
   0x4cc5d4becb3e42b6#64, 0x597f299cfc657e2a#64, 0x5fcb6fab3ad6faec#64, 0x6c44198c4a475817#64]

/-- The 80 round constants. -/
def shaK : List Word64 := shaK0 ++ shaK1 ++ shaK2 ++ shaK3 ++ shaK4

/-- The initial state. -/
def shaInit : List Word64 :=
  [0xcbbb9d5dc1059ed8#64, 0x629a292a367cd507#64, 0x9159015a3070dd17#64, 0x152fecd8f70e5939#64,
   0x67332667ffc00b31#64, 0x8eb44a8768581511#64, 0xdb0c2e0d64f98fa7#64, 0x47b5481dbefa4fa4#64]

def ror64 (x : Word64) (n : Nat) : Word64 := x.rotateRight n

def shaS0 (x : Word64) : Word64 := ror64 x 1 ^^^ ror64 x 8 ^^^ (x >>> 7)
def shaS1 (x : Word64) : Word64 := ror64 x 19 ^^^ ror64 x 61 ^^^ (x >>> 6)

/-- The message schedule, newest word first, extended by `n` words. -/
def shaSchedule : Nat → List Word64 → List Word64
  | 0, w => w
  | n + 1, w =>
    shaSchedule n ((shaS1 (w.getD 1 0) + w.getD 6 0 + shaS0 (w.getD 14 0) + w.getD 15 0) :: w)

/-- Working variables of a round. -/
structure ShaVars where
  a : Word64
  b : Word64
  c : Word64
  d : Word64
  e : Word64
  f : Word64
  g : Word64
  h : Word64

/-- One round with its constant and schedule word. -/
def shaRound (v : ShaVars) (kw : Word64 × Word64) : ShaVars :=
  let s1 := ror64 v.e 14 ^^^ ror64 v.e 18 ^^^ ror64 v.e 41
  let ch := (v.e &&& v.f) ^^^ (~~~ v.e &&& v.g)
  let t1 := v.h + s1 + ch + kw.1 + kw.2
  let s0 := ror64 v.a 28 ^^^ ror64 v.a 34 ^^^ ror64 v.a 39
  let maj := (v.a &&& v.b) ^^^ (v.a &&& v.c) ^^^ (v.b &&& v.c)
  ⟨t1 + (s0 + maj), v.a, v.b, v.c, v.d + t1, v.e, v.f, v.g⟩

/-- One block of 16 words. -/
def shaBlock (h : List Word64) (block : List Word64) : List Word64 :=
  let w := (shaSchedule 64 block.reverse).reverse
  let v : ShaVars := ⟨h.getD 0 0, h.getD 1 0, h.getD 2 0, h.getD 3 0, h.getD 4 0, h.getD 5 0, h.getD 6 0, h.getD 7 0⟩
  let r := (shaK.zip w).foldl shaRound v
  List.zipWith (· + ·) h [r.a, r.b, r.c, r.d, r.e, r.f, r.g, r.h]

/-- A big-endian number. -/
def ofBe (bs : List Byte) : Nat := bs.foldl (fun n b => n * 256 + b.toNat) 0

/-- `n` big-endian bytes. -/
def beBytes (n v : Nat) : List Byte := (leBytes n v).reverse

/-- Big-endian 64-bit words of bytes. -/
def beWords : List Byte → List Word64
  | a :: b :: c :: d :: e :: f :: g :: h :: rest => BitVec.ofNat 64 (ofBe [a, b, c, d, e, f, g, h]) :: beWords rest
  | _ => []

/-- Blocks of 16 words, folded into the state; `fuel` bounds the number of blocks. -/
def shaBlocks : Nat → List Word64 → List Word64 → List Word64
  | 0, h, _ => h
  | fuel + 1, h, ws => if ws.isEmpty then h else shaBlocks fuel (shaBlock h (ws.take 16)) (ws.drop 16)

/-- The padded message. -/
def shaPad (bs : List Byte) : List Byte :=
  let n := bs.length
  bs ++ 0x80#8 :: List.replicate ((239 - n % 128) % 128) 0#8 ++ beBytes 16 (8 * n)

/-- The SHA-384 digest, 48 bytes. -/
def sha384 (bs : List Byte) : List Byte :=
  let ws := beWords (shaPad bs)
  ((shaBlocks (ws.length / 16 + 1) shaInit ws).take 6).flatMap fun w => beBytes 8 w.toNat

/-! ## ECDSA over P-384 -/

def ecP : Nat := 0xfffffffffffffffffffffffffffffffffffffffffffffffffffffffffffffffeffffffff0000000000000000ffffffff
def ecN : Nat := 0xffffffffffffffffffffffffffffffffffffffffffffffffc7634d81f4372ddf581a0db248b0a77aecec196accc52973
def ecB : Nat :=
  0xb3312fa7e23ee7e4988e056be3f82d19181d9c6efe8141120314088f5013875ac656398d8a2ed19d2a85c8edd3ec2aef
def ecG : Nat × Nat :=
  (0xaa87ca22be8b05378eb1c71ef320ad746e1d3b628ba79b9859f741e082542a385502f25dbf55296c3a545e3872760ab7,
   0x3617de4a96262c6f5d9e98bf9292dc29f8f41dbd289a147ce9da3113b5f0b8c00a60b1ce1d7e819d7a431d7c90ea0e5f)

/-- a^e modulo m, by the low `w` bits of e. -/
def powMod (m : Nat) : Nat → Nat → Nat → Nat
  | 0, _, _ => 1 % m
  | w + 1, a, e =>
    let r := powMod m w (a * a % m) (e / 2)
    if e % 2 == 1 then a * r % m else r

/-- Inverse modulo a prime m. -/
def invMod (m a : Nat) : Nat := powMod m 384 (a % m) (m - 2)

/-- Sum of two points; none is the point at infinity. -/
def ecAdd (a b : Option (Nat × Nat)) : Option (Nat × Nat) :=
  match a, b with
  | none, q => q
  | q, none => q
  | some (x1, y1), some (x2, y2) =>
    if x1 == x2 && (y1 + y2) % ecP == 0 then none else
    let l := if x1 == x2 then (3 * x1 * x1 + ecP - 3) * invMod ecP (2 * y1) % ecP
      else (y2 + ecP - y1) * invMod ecP (x2 + ecP - x1) % ecP
    let x3 := (l * l + 2 * ecP - x1 - x2) % ecP
    some (x3, (l * (x1 + ecP - x3) + ecP - y1) % ecP)

/-- k times a point, by the low `w` bits of k. -/
def ecMul : Nat → Nat → Option (Nat × Nat) → Option (Nat × Nat)
  | 0, _, _ => none
  | w + 1, k, q =>
    let r := ecMul w (k / 2) (ecAdd q q)
    if k % 2 == 1 then ecAdd q r else r

/-- A point of the curve. -/
def ecOn (x y : Nat) : Bool := x < ecP && y < ecP && y * y % ecP == (x * x * x + (ecP - 3) * x + ecB) % ecP

/-- ECDSA verification of a 48-byte digest under a public key. -/
def ecdsaOk (qx qy r s : Nat) (digest : List Byte) : Bool :=
  ecOn qx qy && 1 ≤ r && r < ecN && 1 ≤ s && s < ecN &&
    (let w := invMod ecN s
     let e := ofBe digest
     match ecAdd (ecMul 384 (e * w % ecN) (some ecG)) (ecMul 384 (r * w % ecN) (some (qx, qy))) with
     | none => false
     | some (x, _) => x % ecN == r)

end Sys2Proof.Machine
end

