-- ==== Sys2Proof/Machine/Route.lean ====
section
/-!
DEFINITION. Ports by role (R69), and the ports that lead to a fabric node (R383, R395, R396).
-/
namespace Sys2Proof.Machine
open Sys2Proof

/-- DIR of a peer port: 0 +X, 1 −X, 2 +Y, 3 −Y, 4 +Z, 5 −Z; none for a weight port (R69, R359). -/
def portDir (p : Nat) : Option Nat :=
  let i := p % 20
  if i < 8 then
    match p / 20 with
    | 0 => some 1
    | 1 => some 3
    | 2 => some 0
    | _ => some 2
  else if i < 12 then some (if p / 20 < 2 then 5 else 4)
  else none

/-- The opposite direction (R71). -/
def oppositeDir (d : Nat) : Nat := if d % 2 == 0 then d + 1 else d - 1

def allPorts : List Nat := List.range 80

/-- The weight ports in ascending port number (R386). -/
def weightPorts : List Nat := allPorts.filter fun p => (portDir p).isNone

/-- STATE codes of a port (R358). -/
def portActive : Nat := 5

def State.portState (s : State) (p : Nat) : Nat := s.get (Fld.lnkStatusState p)

/-- A port that is ACTIVE and not SHUT (R395). -/
def State.portOpen (s : State) (p : Nat) : Bool := s.portState p == portActive && !s.flag (Fld.lnkCtrlShut p)

/-- Open peer ports of a direction. -/
def State.dirPorts (s : State) (d : Nat) : List Nat := allPorts.filter fun p => portDir p == some d && s.portOpen p

/-- The module's own node (R419). -/
def State.ownNode (s : State) : Nat := s.get Fld.vblNodeNode

/-- Torus extents, and a node's coordinates in it (R395). -/
def State.torus (s : State) : Nat × Nat × Nat :=
  (s.get Fld.vblTorusDxm1 + 1, s.get Fld.vblTorusDym1 + 1, s.get Fld.vblTorusDzm1 + 1)

def State.coords (s : State) (d : Nat) : Nat × Nat × Nat :=
  let (dx, dy, _) := s.torus
  (d % dx, d / dx % dy, d / (dx * dy))

def State.ownCoords (s : State) : Nat × Nat × Nat :=
  (s.get Fld.vblTorusX, s.get Fld.vblTorusY, s.get Fld.vblTorusZ)

/-- Direction of the step from `own` toward `target` in dimension `k` of an extent: + when the distance that way is at most half
of it (R395). -/
def stepDir (k own target extent : Nat) : Nat :=
  if (target + extent - own % extent) % extent ≤ extent / 2 then 2 * k else 2 * k + 1

/-- Direction toward a module node: X, then Y, then Z; none at the node itself. -/
def State.torusDir (s : State) (d : Nat) : Option Nat :=
  let (dx, dy, dz) := s.torus
  let (x, y, z) := s.coords d
  let (ox, oy, oz) := s.ownCoords
  if x != ox then some (stepDir 0 ox x dx)
  else if y != oy then some (stepDir 1 oy y dy)
  else if z != oz then some (stepDir 2 oz z dz)
  else none

/-- Ports toward a module node (R395). -/
def State.torusPorts (s : State) (d : Nat) : List Nat :=
  let (dx, dy, dz) := s.torus
  if dx * dy * dz ≤ d then [] else
  match s.torusDir d with
  | none => []
  | some dir => if (s.dirPorts dir).isEmpty then s.dirPorts (oppositeDir dir) else s.dirPorts dir

/-- Index of the valid endpoint-table entry of a node (R386). -/
def State.entryOf (s : State) (d : Nat) : Option Nat :=
  (List.range 1024).find? fun e => let w := s.rd (Block.base .ent e); bitAt w 31 && field w 0 20 == d

/-- Weight ports that PORTS of an entry names. -/
def State.entryPorts (s : State) (e : Nat) : List Nat :=
  (weightPorts.zipIdx.filter fun p => bitAt (s.rd (Block.base .ent e + 0x1C)) p.2).map (·.1)

/-- Candidate ports toward a node, in ascending port number; none where it has no path (R395, R396). -/
def State.pathPorts (s : State) (d : Nat) : List Nat :=
  if d < 0x10000 then s.torusPorts d
  else
    match s.entryOf d with
    | some e => (s.entryPorts e).filter s.portOpen
    | none => if s.flag Fld.vblGwGwValid then s.torusPorts (s.get Fld.vblGwGwNode) else []

/-- The port of a (source, destination, class) flow: candidate h mod n (R395). -/
def State.pathPort (s : State) (src dst cls : Nat) : Option Nat :=
  let l := s.pathPorts dst
  l[crc32c (Config.flowBytes src dst cls) % l.length]?

/-- A node that the module reaches without leaving, or on some path. -/
def State.reachable (s : State) (d : Nat) : Bool := d == s.ownNode || !(s.pathPorts d).isEmpty

/-- Near destinations: a torus neighbour, or a node whose endpoint-table ports all run JEXRAL mode (R404). -/
def State.near (s : State) (d : Nat) : Bool :=
  if d < 0x10000 then
    let (x, y, z) := s.coords d
    let (ox, oy, oz) := s.ownCoords
    let (dx, dy, dz) := s.torus
    let one (a b n : Nat) : Bool := (a + n - b % n) % n == 1 || (b + n - a % n) % n == 1
    d < dx * dy * dz &&
      ((one x ox dx && y == oy && z == oz) || (x == ox && one y oy dy && z == oz) || (x == ox && y == oy && one z oz dz))
  else
    match s.entryOf d with
    | some e => (s.entryPorts e).all fun p => !s.flag (Fld.lnkCtrlMode p)
    | none => false

end Sys2Proof.Machine
end

