-- ==== Sys2Proof/Machine/Time.lean ====
section
/-!
DEFINITION. The time unit: references, acquisition and alignment, corrections, divider changes (R338 to R354).
-/
namespace Sys2Proof.Machine
open Sys2Proof

/-! ## States (R347) -/

def timFree : Nat := 0
def timAcquiring : Nat := 1
def timAligned : Nat := 2
def timHoldover : Nat := 3
def timUnaligned : Nat := 4

/-- Ticks of one marker interval (R348), and of one millisecond. -/
def markerTicks : Nat := 65536
def ticksPerMs : Nat := 250000

def State.isMaster (s : State) : Bool := s.flag Fld.timCtrlMaster

/-- The state that a module reports: the worse of its own and its parent's, in the order ALIGNED, HOLDOVER, UNALIGNED (R347).
-/
def worse (own parent : Nat) : Nat :=
  if timAligned ≤ own && own < parent && parent ≤ timUnaligned then parent else own

/-- TIM_STATUS.STATE follows the module's own state and its parent's. -/
def State.timReport (s : State) : State :=
  s.put Fld.timStatusState (if s.isMaster then s.tim.own else worse s.tim.own s.tim.parent)

/-- A change of the module's own state, with its event (R347, R354). -/
def State.timEnter (s : State) (new : Nat) : State :=
  let old := s.tim.own
  let s := { s with tim.own := new }
  let s := s.timReport
  if old == new then s else s.raiseMod srcTime 0x0601 1 (old + new * 2 ^ 8) (s.rd Reg.timOffset)

/-- Some context is RUNNING or HELD (R346). -/
def State.anyRunning (s : State) : Bool :=
  (List.range 64).any fun c => s.ctxState c == ctxRunning || s.ctxState c == ctxHeld

/-- An ACQUIRE or a correction is refused (R349). -/
def State.timRefuse (s : State) : State := s.put Fld.timStatusRefused 1

/-- The reference in use fails, or is selected while it is absent (R342, R584). -/
def State.refLost (s : State) : State :=
  { s with tim.refLost := true }.raiseMod srcTime 0x0600 2 (s.get Fld.timCtrlRefSel) 0

/-! ## Corrections (R349) -/

/-- Ticks that a slew of so many 1/256 ticks takes: 15.625 ps each, at most 200 ps in 4,000 ticks (R348, R349). -/
def slewTicks (units : Nat) : Nat := ceilDiv (units * 625) 2

/-- A value halved, or divided, whose rounding the spec leaves open: down or up by a free choice (log entry 4). -/
def openDiv (x : Int) (n : Nat) (pick : Nat) : Int := if x % n == 0 then x / n else x / n + (pick % 2 : Nat)

/-- HOLDOVER begins, or ACQUIRING fails, when the parent's timing is lost (R347). -/
def State.timLost (s : State) : State :=
  if s.isMaster then s else
  let own := s.tim.own
  let s := { s with tim.lost := true }
  if own == timAligned then { s with tim.since := s.tick }.timEnter timHoldover
  else if own == timAcquiring then s.timEnter timUnaligned
  else s

/-- Ticks that a slew of 25 ps takes (R349). -/
def alignedSlew : Nat := 500

/-- The hold is done and the offset is at most 25 ps: ACQUIRING ends in ALIGNED (R347, R348). -/
def State.timDone (s : State) : State :=
  if s.tim.own == timAcquiring && s.tim.count == 16 && s.tim.slew ≤ alignedSlew && s.tim.hold == 0 then s.timEnter timAligned else s

/-- Correct the module by −`off`, in 1/256 tick (R346, R349). -/
def State.timCorrect (s : State) (off : Int) : State :=
  if s.tim.own == timAcquiring && !s.anyRunning then
    let ticks := off.natAbs / 256
    let rest := off.natAbs % 256
    let s := if off < 0 then { s with tick := (s.tick + ticks) % 2 ^ 64 } else { s with tim.hold := ticks }
    { s with tim.slew := slewTicks rest }.timDone
  else if off.natAbs > 250 * 256 then s.timRefuse.timEnter timUnaligned
  else { s with tim.slew := slewTicks off.natAbs }.timDone

/-- The parent's timing is back (R347). -/
def State.timBack (s : State) : State :=
  if s.tim.own == timHoldover && !s.tim.lost && !s.tim.refLost then s.timEnter timAligned else s

/-- An exchange with the parent has given an offset and a delay in 1/256 tick (R348). -/
def State.timExchange (s : State) (off delay : Int) : State :=
  let s := s.put Fld.timOffsetOffset (ofSigned 32 (max (-(2 ^ 31)) (min off (2 ^ 31 - 1))))
  let s := s.put Fld.timDelayDelay (min delay.toNat (2 ^ 32 - 1))
  if s.tim.own == timAcquiring then
    if s.tim.count == 16 then s else
    let n := s.tim.count + 1
    let sum := s.tim.offsets + off
    let s := { s with tim.count := n, tim.offsets := sum }
    if n < 16 then s
    else { s with draws := s.draws + 1 }.timCorrect (openDiv sum 16 (Config.pick s.draws))
  else if s.tim.own == timAligned then s.timCorrect off
  else s

/-! ## Acquisition (R347, R349) -/

def State.acquireRefused (s : State) : Bool :=
  let ref := s.get Fld.timCtrlRefSel
  let p := s.get Fld.timCtrlParent
  ref == 3 ||
    (if s.isMaster then ref == 2 else 80 ≤ p || (portDir p).isNone || s.portState p != portActive)

/-- ACQUIRE: a master is ALIGNED at once, at TIM_SET where no context runs; another module measures (R347). A counter never moves
backward (R346). -/
def State.acquire (s : State) : State :=
  if s.acquireRefused then s.timRefuse
  else if s.isMaster then
    let v := s.get64 Reg.timSet
    let s := if s.anyRunning || v < s.tick then s else { s with tick := v }
    { s with tim := { s.tim with slew := 0, hold := 0, lost := false } }.timEnter timAligned
  else
    { s with tim := { s.tim with
        count := 0, offsets := 0, slew := 0, hold := 0, lost := false, marker := s.tick } }.timEnter timAcquiring

/-! ## Dividers and VCORE (R339, R535) -/

/-- Fewest ticks between an arm and its tick (R324, R339, R401). -/
def armLead : Nat := 2048

/-- Nominal VCORE in mV at a setting of DIV: ÷4 and ÷5 (R531). -/
def vcoreAt (div : Nat) : Nat := if div == 0 then 750 else 680

/-- A moving setpoint at a tick: 10 mV in each µs (R535). -/
def Vcore.now (v : Vcore) (tick : Nat) : Nat :=
  let d := (tick - v.at_) / 25
  if v.start ≤ v.goal then min v.goal (v.start + d) else max v.goal (v.start - d)

/-- The region is ON or RAMPING (R539). -/
def State.powered (s : State) (r : Nat) : Bool :=
  s.get (Fld.pwrRStatState r) == 1 || s.get (Fld.pwrRStatState r) == 2

/-- The VCORE setpoint of a region in mV without its TRIM; none where its rails are down (R535). -/
def State.vcore (s : State) (r : Nat) : Option Nat :=
  if !s.powered r then none else
  some (match SMap.get? s.pwr.vcore r with
    | some v => v.now s.tick
    | none => vcoreAt (s.get Fld.timStatusDiv))

/-- Every region that is ON or RAMPING begins to move to a setpoint (R535). -/
def State.vcoreMove (s : State) (goal : Nat) : State :=
  { s with pwr.vcore := (List.range 384).filterMap fun r =>
      (s.vcore r).map fun v => (r, ⟨v, goal, s.tick⟩) }

/-- The setpoint to which a region powers up: that of an armed change to ÷4, or of the divider in force (R535). -/
def State.vcoreStart (s : State) (r : Nat) : State :=
  if s.flag Fld.timStatusDivArmed && s.get Fld.timCtrlDivNext == 0 then
    { s with pwr.vcore := SMap.put s.pwr.vcore r ⟨vcoreAt 0, vcoreAt 0, s.tick⟩ }
  else { s with pwr.vcore := SMap.del s.pwr.vcore r }

def State.armDiv (s : State) : State :=
  let t := s.get64 Reg.timDivTick
  if t < s.tick + armLead then (s.put Fld.timStatusDivLate 1).raiseMod srcTime 0x0602 1 t s.tick
  else
    let s := s.put Fld.timStatusDivArmed 1
    if s.get Fld.timStatusDiv == 1 && s.get Fld.timCtrlDivNext == 0 then s.vcoreMove (vcoreAt 0) else s

/-- A write of TIM_CTRL (R339, R347, R353). -/
def State.timCtrl (s : State) (req : Requester) (v : Nat) : State :=
  let armed := s.flag Fld.timStatusDivArmed
  let old := s.get Fld.timCtrlRefSel
  let s := if armed && (bitAt v 30 || bitAt v 17 != s.flag Fld.timCtrlDivNext) then s.misuse req else s
  let s := if armed then s else s.put Fld.timCtrlDivNext (field v 17 1)
  let s := ((s.put Fld.timCtrlMaster (field v 16 1)).put Fld.timCtrlParent (field v 2 7)).put Fld.timCtrlRefSel (field v 0 2)
  let s :=
    if field v 0 2 == old then s
    else if field v 0 2 == 1 && !s.flag Fld.timStatusExtPresent then s.refLost
    else { s with tim.refLost := false }
  let s := s.timReport
  let s := if bitAt v 30 && !armed then s.armDiv else s
  if bitAt v 31 then s.acquire else s

def execTimAcquire (req : Requester) (v : BitVec 32) (s : State) : Host.Outcome State Fault Refusal :=
  .next (s.write req Reg.timCtrl (setBit v.toNat 31 true) fun s => s.timCtrl req (setBit v.toNat 31 true))

def execTimDivArm (req : Requester) (v : BitVec 32) (s : State) : Host.Outcome State Fault Refusal :=
  .next (s.write req Reg.timCtrl (setBit v.toNat 30 true) fun s => s.timCtrl req (setBit v.toNat 30 true))

/-- A write of TIM_DIV_TICK, ignored while a change is armed (R339). -/
def State.timDivTickWrite (s : State) (req : Requester) (v : Nat) : State :=
  if s.flag Fld.timStatusDivArmed then s.misuse req else s.put64 Reg.timDivTick v

/-- DIV_CHANGE: at the named tick DIV changes and DIV_ARMED clears, with no event (R339); under ÷5 the setpoints begin to fall (R535). -/
def State.divChange (s : State) : State :=
  if s.flag Fld.timStatusDivArmed && s.get64 Reg.timDivTick ≤ s.tick then
    let next := s.get Fld.timCtrlDivNext
    let s := if s.get Fld.timStatusDiv == 0 && next == 1 then s.vcoreMove (vcoreAt 1) else s
    (s.put Fld.timStatusDiv next).put Fld.timStatusDivArmed 0
  else s

def execDivChange (s : State) : Host.Outcome State Fault Refusal := .next (s.clocked s.divChange)

/-! ## References (R341, R342, R584) -/

/-- REF_FAIL: a source of the reference fails. The PLL holds its frequency; a module on LINK enters HOLDOVER. -/
def State.refFail (s : State) (src : Nat) : State :=
  let s := if src == 1 then s.put Fld.timStatusExtPresent 0 else s
  if src != s.get Fld.timCtrlRefSel || s.tim.refLost then s else
  let s := s.refLost
  if !s.isMaster && src == 2 && s.tim.own == timAligned then { s with tim.since := s.tick }.timEnter timHoldover else s

def execRefFail (src : Fin 3) (s : State) : Host.Outcome State Fault Refusal := .next (s.refFail src.val)

/-- REF_RETURN: the source returns and the PLL relocks. -/
def State.refReturn (s : State) (src : Nat) : State :=
  let s := if src == 1 then s.put Fld.timStatusExtPresent 1 else s
  if src != s.get Fld.timCtrlRefSel then s else { s with tim.refLost := false }.timBack

def execRefReturn (src : Fin 3) (s : State) : Host.Outcome State Fault Refusal := .next (s.refReturn src.val)

/-- PLL_LOCK_LOSS: every wafer clock stops at once, and nothing is written (R340). -/
def execPllLockLoss (s : State) : Host.Outcome State Fault Refusal := .next (s.put Fld.timStatusPllLock 0)

/-! ## Loss of timing (R347) -/

/-- MARKER_LOSS: the parent's markers have stopped for 3 marker intervals. -/
def State.markerLoss (s : State) : State :=
  if s.isMaster || s.tick < s.tim.marker + 3 * markerTicks then s else s.timLost

def execMarkerLoss (s : State) : Host.Outcome State Fault Refusal := .next (s.clocked s.markerLoss)

/-- HOLDOVER_EXPIRY: HOLDOVER has lasted 1 ms. -/
def State.holdoverExpiry (s : State) : State :=
  if s.tim.own == timHoldover && s.tim.since + ticksPerMs ≤ s.tick then s.timEnter timUnaligned else s

def execHoldoverExpiry (s : State) : Host.Outcome State Fault Refusal := .next (s.clocked s.holdoverExpiry)

/-! ## The tick (R343, R346) -/

/-- The exchange that completed in this tick takes effect: its port has not gone down in the same tick (R348). -/
def State.timDue (s : State) : State :=
  match s.tim.due with
  | some (_, off, delay) => { s with tim.due := none }.timExchange off delay
  | none => s

/-- A tick passes: the counter rises unless it is held, and wraps at 2^64; a slew goes on. -/
def State.timTick (s : State) : State :=
  let s := s.timDue
  let s := if s.tim.hold == 0 then { s with tick := (s.tick + 1) % 2 ^ 64 } else { s with tim.hold := s.tim.hold - 1 }
  { s with tim.slew := s.tim.slew - 1 }.timDone

end Sys2Proof.Machine
end

