-- ==== Sys2Proof/Machine/Flit.lean ====
section
/-!
DEFINITION. Flits: their layout, INIT and TIME records (R359, R361, R363).
-/
namespace Sys2Proof.Machine
open Sys2Proof

/-! ## Building -/

/-- Bytes padded with zeros to a length. -/
def padTo (n : Nat) (bs : List Byte) : List Byte := (bs ++ List.replicate (n - bs.length) 0#8).take n

/-- A sequence number one below another, modulo 2^16. -/
def prev16 (n : Nat) : Nat := (n + 0xFFFF) % 0x10000

/-- A flit of a port: kind 0 IDLE, 1 DATA or 2 CTRL (R361). -/
def mkFlit (p : Port) (kind cls next seq : Nat) (nak : Bool) (payload : List Byte) : List Byte :=
  let head := leBytes 1 (kind + 4 * cls) ++ leBytes 1 next ++ leBytes 2 seq ++ leBytes 2 (prev16 p.expect) ++
    leBytes 1 nak.toNat ++ leBytes 1 0 ++ p.freed.flatMap (leBytes 2) ++ leBytes 4 0 ++ padTo 232 payload
  head ++ leBytes 4 (crc32c head)

/-- The port's own INIT record (R359). -/
def State.initPayload (s : State) (p : Nat) : List Byte :=
  let dir := portDir p
  leBytes 1 1 ++ leBytes 1 1 ++ leBytes 1 (if dir.isSome then 0 else 1) ++ leBytes 1 (dir.getD 7) ++
    leBytes 4 (if s.flag Fld.vblNodeValid then s.ownNode else 0xFFFFF) ++ leBytes 1 p ++ leBytes 1 0 ++
    leBytes 2 64 ++ leBytes 2 512 ++ leBytes 2 3072 ++ leBytes 2 448 ++ leBytes 2 4096

/-- A TIME record (R363). Times are in 1/256 tick. -/
def timePayload (state xseq tx : Nat) (st : Option TimeStamp) : List Byte :=
  let e := st.getD ⟨0, 0, 0⟩
  leBytes 1 2 ++ leBytes 1 state ++ leBytes 2 xseq ++ leBytes 4 0 ++
    leBytes 8 (tx / 256) ++ leBytes 1 (tx % 256) ++ leBytes 7 0 ++
    leBytes 2 e.xseq ++ leBytes 6 0 ++ leBytes 8 (e.tx / 256) ++ leBytes 1 (e.tx % 256) ++ leBytes 7 0 ++
    leBytes 8 (e.rx / 256) ++ leBytes 1 (e.rx % 256)

/-! ## Reading -/

/-- A flit's fields as they were received. -/
structure FlitIn where
  kind : Nat
  cls : Nat
  next : Nat
  seq : Nat
  ack : Nat
  nak : Bool
  freed : List Nat
  payload : List Byte
  crcOk : Bool
  deriving DecidableEq, Repr

def FlitIn.of (b : List Byte) : FlitIn where
  kind := field (leAt b 0 1) 0 2
  cls := field (leAt b 0 1) 2 2
  next := leAt b 1 1
  seq := leAt b 2 2
  ack := leAt b 4 2
  nak := bitAt (leAt b 6 1) 0
  freed := [leAt b 8 2, leAt b 10 2, leAt b 12 2, leAt b 14 2]
  payload := (b.drop 20).take 232
  crcOk := b.length == 256 && leAt b 252 4 == crc32c (b.take 252)

/-- An INIT record as it was received. -/
structure InitIn where
  version : Nat
  role : Nat
  dir : Nat
  node : Nat
  port : Nat
  buf : List Nat
  deriving DecidableEq, Repr

def InitIn.of (p : List Byte) : InitIn where
  version := leAt p 1 1
  role := leAt p 2 1
  dir := leAt p 3 1
  node := leAt p 4 4 % 2 ^ 20
  port := leAt p 8 1
  buf := [leAt p 10 2, leAt p 12 2, leAt p 14 2, leAt p 16 2]

/-- A TIME record as it was received. -/
structure TimeIn where
  state : Nat
  xseq : Nat
  tx : Nat
  echoSeq : Nat
  echoTx : Nat
  echoRx : Nat
  deriving DecidableEq, Repr

def TimeIn.of (p : List Byte) : TimeIn where
  state := leAt p 1 1 % 8
  xseq := leAt p 2 2
  tx := leAt p 8 8 * 256 + leAt p 16 1
  echoSeq := leAt p 24 2
  echoTx := leAt p 32 8 * 256 + leAt p 40 1
  echoRx := leAt p 48 8 * 256 + leAt p 56 1

end Sys2Proof.Machine
end

