-- ==== Sys2Proof/Machine/Port.lean ====
section
/-!
DEFINITION. Ports: training, replay, credits, arbitration and shares, TIME flits (R355 to R369, R384).
-/
namespace Sys2Proof.Machine
open Sys2Proof

/-! ## States (R358) -/

def portDisabled : Nat := 0
def portDetect : Nat := 1
def portPmd : Nat := 2
def portAlign : Nat := 3
def portInit : Nat := 4
def portRetrain : Nat := 6
def portMiscabled : Nat := 7
def portFailed : Nat := 8

def State.port (s : State) (p : Nat) : Port := SMap.getD s.ports p .empty

def State.setPort (s : State) (p : Nat) (x : Port) : State := { s with ports := SMap.putD s.ports p x .empty }

def State.modPort (s : State) (p : Nat) (f : Port → Port) : State := s.setPort p (f (s.port p))

/-- ETHERNET mode (R355). -/
def State.ethPort (s : State) (p : Nat) : Bool := s.flag (Fld.lnkCtrlMode p)

/-- Bound of a state in ticks: 200 ms, 1 ms, 1 ms, and 100 ms in RETRAIN (R358). -/
def stateBound (st : Nat) : Nat := if st == 2 then 200 * ticksPerMs else if st == 6 then 100 * ticksPerMs else ticksPerMs

/-- Enter a state of training. -/
def State.portEnter (s : State) (p st : Nat) : State :=
  (s.put (Fld.lnkStatusState p) st).modPort p fun x => { x with since := s.tick }

/-! ## Sending (R365, R367 to R369) -/

/-- Slots that have passed: 781.25 million each second, 25 in 8 ticks (R357). -/
def slotsAt (tick : Nat) : Nat := tick * 25 / 8

/-- Tokens of the EX shaper: up to 8, one more every 8 slots (R368). -/
def State.refill (s : State) (x : Port) : Port :=
  let now := slotsAt s.tick / 8
  { x with tokens := min 8 (x.tokens + (now - x.slot)), slot := now }

/-- Share of a job at a port: none where it has no entry; 65 to 127 act as 0 (R369, R384). -/
def State.share (s : State) (p job : Nat) : Option Nat :=
  ((List.range 32).find? fun q =>
    let w := s.get (Fld.lnkShareShare p q)
    1 ≤ w && w ≤ 64 && s.get (Fld.lnkShareJob p q) == job).map fun q => s.get (Fld.lnkShareShare p q)

/-- Some share entry of the port is in use. -/
def State.shared (s : State) (p : Nat) : Bool :=
  (List.range 32).any fun q => let w := s.get (Fld.lnkShareShare p q); 1 ≤ w && w ≤ 64

/-- The port refuses a packet of the job (R369). -/
def State.shareShut (s : State) (p job : Nat) : Bool := job != 0 && s.shared p && (s.share p job).isNone

/-- Class that a packet is served as: job 0 is served as BG while shares are in use (R369). -/
def State.servedAs (s : State) (p : Nat) (k : TxPacket) : Nat := if k.job == 0 && s.shared p then 3 else k.cls

/-- The far end has a buffer for a DATA flit of the class (R367). -/
def Port.credit (x : Port) (c : Nat) : Bool :=
  (x.sent.getD c 0 + 0x10000 - x.farFreed.getD c 0) % 0x10000 < x.farBuf.getD c 0

/-- The packet may send its next flit: it has begun, or no other packet of its class has, and there is a buffer (R362, R367). -/
def Port.eligible (x : Port) (k : TxPacket) : Bool :=
  x.credit k.cls && (k.started || !x.queue.any fun j => j.cls == k.cls && j.started)

/-- Key of a job's deficit in a class. -/
def jobKey (job cls : Nat) : Nat := 4 * job + cls

/-- A round gives each job that waits its share: so many rounds give one of them a deficit above 0 (R369). -/
def roundsFor (deficit : Int) (share : Nat) : Nat := (-deficit).toNat / share + 1

/-- The next packet of a served class: one that has begun; without shares the first eligible one; otherwise the first whose job has a
deficit left, after as many rounds as that takes (R369). -/
def State.pickJob (s : State) (p : Nat) (x : Port) (cls : Nat) : Option (Nat × Port) :=
  let ready := x.queue.zipIdx.filter fun e => s.servedAs p e.1 == cls && x.eligible e.1
  let deficit (e : TxPacket × Nat) : Int := SMap.getD x.jobs (jobKey e.1.job cls) 0
  let share (e : TxPacket × Nat) : Nat := (s.share p e.1.job).getD 1
  match ready with
  | [] => none
  | e :: rest =>
    if !s.shared p then some (e.2, x) else
    match ready.find? fun e => e.1.started || 0 < deficit e with
    | some e => some (e.2, x)
    | none =>
      let n := rest.foldl (fun n e => min n (roundsFor (deficit e) (share e))) (roundsFor (deficit e) (share e))
      let jobs := ready.foldl (fun m e => SMap.putD m (jobKey e.1.job cls) (deficit e + n * share e) 0) x.jobs
      (ready.find? fun e => 0 < deficit e + n * share e).map fun e => (e.2, { x with jobs := jobs })

/-- Choice among CT, BK and BG by their deficits, weights 4, 11 and 1 (R368). -/
def State.pickRest (s : State) (p : Nat) (x : Port) : Option (Nat × Port) :=
  (classTurn ([1, 2, 3].filter fun c => (s.pickJob p x c).isSome) x.weights).bind fun (c, weights) =>
    s.pickJob p { x with weights := weights } c

/-- The next flit's packet (R368): EX with a token, then the other classes. -/
def State.pickPacket (s : State) (p : Nat) (x : Port) : Option (Nat × Port) :=
  match s.pickJob p x 0 with
  | some (i, x) => if 0 < x.tokens then some (i, { x with tokens := x.tokens - 1 }) else s.pickRest p x
  | none => s.pickRest p x

/-- Send one flit of a queued packet. -/
def State.sendFlit (s : State) (p : Nat) (i : Nat) (x : Port) : State :=
  match x.queue[i]? with
  | none => s
  | some k =>
    match k.flits with
    | [] => s.setPort p { x with queue := x.queue.eraseIdx i }
    | (next, payload) :: rest =>
      let key := jobKey k.job (s.servedAs p k)
      let x := { x with
        jobs := if s.shared p then SMap.putD x.jobs key (SMap.getD x.jobs key 0 - 1) 0 else x.jobs
        queue := if rest.isEmpty then x.queue.eraseIdx i
          else x.queue.set i { k with started := true, held := false, flits := rest }
        sent := x.sent.set k.cls ((x.sent.getD k.cls 0 + 1) % 0x10000) }
      let flit := mkFlit x 1 k.cls next x.seq false payload
      let x := { x with
        kept := x.kept ++ [⟨x.seq, k.cls, next, payload, 0⟩]
        ackTick := if x.kept.isEmpty then s.tick else x.ackTick
        seq := (x.seq + 1) % 0x10000 }
      ((s.setPort p x).emit (.flit p flit)).wrap64 (Reg.lnkTxFlits p)

/-- The port may send DATA flits (R360, R365, R384). -/
def State.portSends (s : State) (p : Nat) : Bool :=
  s.portOpen p && !s.ethPort p && s.flag Fld.vblNodeValid && (s.port p).kept.length < 4096

/-- Send what may be sent, flit by flit. -/
def State.pumpPort (p : Nat) : Nat → State → State
  | 0, s => s
  | n + 1, s =>
    if !s.portSends p then s else
    match s.pickPacket p (s.refill (s.port p)) with
    | none => s
    | some (i, x) => State.pumpPort p n (s.sendFlit p i x)

/-- The EX flit that is next and finds no token waits, and is counted once (R368). -/
def State.exHeld (s : State) (p : Nat) : State :=
  let x := s.refill (s.port p)
  if !s.portSends p || x.tokens != 0 then s else
  match s.pickJob p x 0 with
  | none => s
  | some (i, _) =>
    match x.queue[i]? with
    | some k =>
      if k.held then s
      else (s.modPort p fun y => { y with queue := y.queue.set i { k with held := true } }).bump Fld.netExLinkHeldCount
    | none => s

/-- Send what the port's queue holds. -/
def State.portPump (s : State) (p : Nat) : State :=
  State.pumpPort p (((s.port p).queue.map fun k => k.flits.length + 1).sum) s

/-- Cut a packet into flits; each packet begins at the start of a flit (R361, R362; DESIGN CHOICE, log entry 13). -/
def cutPacket : Nat → List Byte → List (Nat × List Byte)
  | 0, _ => []
  | n + 1, bs => if bs.isEmpty then [] else (255, bs.take 232) :: cutPacket n (bs.drop 232)

def packetFlits (bs : List Byte) : List (Nat × List Byte) :=
  match cutPacket (bs.length / 232 + 1) bs with
  | [] => []
  | (_, b) :: rest => (0, b) :: rest

/-- A packet joins a JEXRAL port's queue, with the partition of a transit packet (R396). -/
def State.queuePacket (s : State) (p cls job : Nat) (part : Option Nat) (bs : List Byte) : State :=
  let s := s.modPort p fun x => { x with queue := x.queue ++ [TxPacket.mk cls job part (bs.take 48) false false (packetFlits bs)] }
  (s.portPump p).exHeld p

/-- Send an IDLE flit with ACK, FREED and NAK (R361, R365). -/
def State.sendIdle (s : State) (p : Nat) (nak : Bool) : State :=
  (s.emit (.flit p (mkFlit (s.port p) 0 0 255 0 nak []))).wrap64 (Reg.lnkTxFlits p)

/-! ## Leaving ACTIVE (R358, R366) -/

/-- What a port holds for its link is discarded; its counts restart at the next INIT (R366, R379). -/
def Port.dropLink (x : Port) : Port :=
  { Port.empty with fails := x.fails, since := x.since, farInit := x.farInit, xseq := x.xseq }

/-- An exchange that a port has completed in this tick is discarded (R348). -/
def State.dropDue (s : State) (p : Nat) : State :=
  if s.tim.due.any fun e => e.1 == p then { s with tim.due := none } else s

/-- The port leaves ACTIVE or RETRAIN for a state in which it is down; the timing of a parent port is lost, and an exchange that completed
in the same tick is discarded (R347, R348, R358, R387). -/
def State.portDown (s : State) (p cause st : Nat) : State :=
  let prev := s.portState p
  let s := ((s.portEnter p st).modPort p Port.dropLink).dropDue p
  let s := if prev == portActive || (prev == portRetrain && st == portDetect)
    then s.raiseMod (srcPort p) 0x0701 1 p (prev + cause * 2 ^ 8) else s
  if s.get Fld.timCtrlParent == p && (prev == portActive || prev == portRetrain) then s.timLost else s

/-- The port enters ACTIVE (R358). -/
def State.portUp (s : State) (p : Nat) : State :=
  let s := (s.portEnter p portActive).modPort p fun x => { x with fails := 0 }
  s.raiseMod (srcPort p) 0x0700 0 (p + s.get (Fld.lnkFar0Node p) * 2 ^ 8) 0

/-! ## Replay (R365, R366) -/

/-- RETRAIN begins: replay buffer, SEQ, ACK and credit counts stay (R366). -/
def State.startRetrain (s : State) (p : Nat) : State :=
  if s.portState p != portActive || s.ethPort p then s else
  (s.portEnter p portRetrain).bump (Fld.lnkRetrainsCount p)

/-- Send every unacknowledged flit again, in order. -/
def State.resend (s : State) (p : Nat) : State :=
  (s.port p).kept.foldl (fun s f =>
    (s.emit (.flit p (mkFlit (s.port p) 1 f.cls f.next f.seq false f.payload))).wrap64 (Reg.lnkTxFlits p)) s

/-- One replay: counted; after 64 in 1 ms, or 8 of one flit, the port retrains (R365, R366). -/
def State.replay (s : State) (p : Nat) : State :=
  if (s.port p).kept.isEmpty then s else
  let s := s.wrap64 (Reg.lnkReplay p)
  let s := s.modPort p fun x => { x with
    replays := (x.replays.filter fun t => s.tick < t + ticksPerMs) ++ [s.tick]
    ackTick := s.tick
    kept := x.kept.map fun f => { f with replays := f.replays + 1 } }
  let s := s.resend p
  let x := s.port p
  if 64 ≤ x.replays.length || x.kept.any fun f => 8 ≤ f.replays then s.startRetrain p else s

/-- ACK of a received flit: the flits it covers leave the buffer (R365). -/
def Port.ackTo (x : Port) (ack tick : Nat) : Port :=
  match x.kept.findIdx? fun f => f.seq == ack with
  | none => x
  | some i => { x with kept := x.kept.drop (i + 1), ackTick := tick }

/-- ACK and FREED of a good flit (R363, R365, R367). -/
def State.flitAcks (s : State) (p : Nat) (f : FlitIn) : State :=
  s.modPort p fun x => { x.ackTo f.ack s.tick with farFreed := f.freed }

/-! ## Receiving (R361, R362, R365) -/

/-- Cut whole packets off a class's byte stream: the packets, and the bytes of one in progress; none where a length is out of
range, so that the class is out of step until a packet begins again (R362, R371). -/
def takePackets : Nat → List Byte → List (List Byte) × Option (List Byte)
  | 0, bs => ([], some bs)
  | n + 1, bs =>
    match bs with
    | [] => ([], some [])
    | b :: _ =>
      if b == 0#8 then ([], some [])
      else if bs.length < 4 then ([], some bs)
      else
        let len := leAt bs 2 2
        if len < 48 || 4144 < len then ([], none)
        else if bs.length < len then ([], some bs)
        else
          let r := takePackets n (bs.drop len)
          (bs.take len :: r.1, r.2)

/-- A DATA flit in order: its bytes join the class's stream, whole packets go to the transport, its buffer is freed. -/
def State.takeData (s : State) (p : Nat) (f : FlitIn) : State :=
  let x := s.port p
  let start : Option (List Byte) :=
    match x.parts.getD f.cls none with
    | some part => some (part ++ f.payload)
    | none => if f.next ≤ 231 then some (f.payload.drop f.next) else none
  let r : List (List Byte) × Option (List Byte) :=
    match start with
    | some bs => takePackets 8 bs
    | none => ([], none)
  let s := if start.isSome && r.2.isNone then s.bump Fld.trpBadPktCount else s
  let s := s.setPort p { x with
    expect := (x.expect + 1) % 0x10000
    nakSent := false
    freed := x.freed.set f.cls ((x.freed.getD f.cls 0 + 1) % 0x10000)
    parts := x.parts.set f.cls r.2 }
  { s with trp.inbox := s.trp.inbox ++ r.1.map fun b => (p, b) }

/-- A DATA flit: taken in order, otherwise discarded, with one NAK for each gap. -/
def State.dataFlit (s : State) (p : Nat) (f : FlitIn) : State :=
  let x := s.port p
  if s.flag (Fld.lnkCtrlShut p) then s
  else if f.seq == x.expect then (s.takeData p f).sendIdle p false
  else if x.nakSent then s
  else (s.modPort p fun x => { x with nakSent := true }).sendIdle p true

/-- Counts of a received flit; none where it is discarded (R361, R384). -/
def State.flitIn (s : State) (p : Nat) (b : List Byte) (corr uncorr : Nat) : State × Option FlitIn :=
  let f := FlitIn.of b
  let s := ((s.wrap64 (Reg.lnkFecCorr p) corr).wrap64 (Reg.lnkFecUncorr p) uncorr).wrap64 (Reg.lnkRxFlits p)
  if uncorr != 0 || !f.crcOk || f.kind == 3 then (s.wrap64 (Reg.lnkCrcErr p), none) else (s, some f)

/-- Flits of every kind pass a JEXRAL port that is ACTIVE (R358). -/
def State.flitsPass (s : State) (p : Nat) : Bool := s.portState p == portActive && !s.ethPort p

/-- An IDLE, DATA or CTRL flit: ACK and FREED first, a replay that a NAK asks for, then the data (R365, R367, R379). -/
def State.flitReceive (s : State) (p : Nat) (b : List Byte) (corr uncorr : Nat) : State :=
  if !s.flitsPass p then s else
  match s.flitIn p b corr uncorr with
  | (s, none) => s
  | (s, some f) =>
    let s := s.flitAcks p f
    let s := if f.nak then s.replay p else s
    let s := if f.kind == 1 then s.dataFlit p f else s
    (s.portPump p).exHeld p

def execDataFlitReceive (p : PortId) (flit : List Byte) (corr uncorr : Nat) (s : State) : Host.Outcome State Fault Refusal :=
  .next (s.clocked (s.flitReceive p flit corr uncorr))

/-- NAK_RECEIVE: a flit that carries NAK. -/
def execNakReceive (p : PortId) (flit : List Byte) (corr uncorr : Nat) (s : State) : Host.Outcome State Fault Refusal :=
  .next (s.clocked (if (FlitIn.of flit).nak then s.flitReceive p flit corr uncorr else s))

/-- ACK_TIMEOUT: no ACK has advanced for 16 µs while flits are unacknowledged (R365). -/
def State.ackTimeout (s : State) (p : Nat) : State :=
  if s.flitsPass p && !(s.port p).kept.isEmpty && (s.port p).ackTick + 4000 ≤ s.tick then s.replay p else s

def execAckTimeout (p : PortId) (s : State) : Host.Outcome State Fault Refusal := .next (s.clocked (s.ackTimeout p))

/-! ## Training (R358, R359) -/

/-- SHUT is set: packets queued for the port, and the rest of one that is being sent, are refused as for an unreachable target (R379).
-/
def State.refuseQueue (s : State) (p : Nat) : State :=
  { s.modPort p fun x => { x with queue := [] } with
    trp.refused := s.trp.refused ++ (s.port p).queue.map (·.head) }

/-- A write of LNK_CTRL (R355, R358, R366, R384); while the hold of R414 lasts the port stays DISABLED. -/
def State.lnkCtrl (s : State) (req : Requester) (p v : Nat) : State :=
  let en := s.flag (Fld.lnkCtrlEn p)
  if (bitAt v 1 && (portDir p).isSome) || (en && bitAt v 1 != s.ethPort p) then s.misuse req else
  let s := ((s.put (Fld.lnkCtrlMode p) (field v 1 1)).put (Fld.lnkCtrlShut p) (field v 2 1)).put (Fld.lnkCtrlEn p) (field v 0 1)
  let s := if bitAt v 2 then s.refuseQueue p else s
  let s :=
    if !en && bitAt v 0 && !s.bootHold then (s.portEnter p portDetect).modPort p fun x => { x with fails := 0 }
    else if en && !bitAt v 0 then (s.portDown p 2 portDisabled).put (Fld.lnkStatusReason p) 0
    else s
  let s := if bitAt v 3 then s.startRetrain p else s
  s.portPump p

def execLnkEnable (req : Requester) (p : PortId) (v : BitVec 32) (s : State) : Host.Outcome State Fault Refusal :=
  .next (s.write req (Reg.lnkCtrl p) v.toNat fun s => s.lnkCtrl req p (setBit v.toNat 0 true))

def execLnkDisable (req : Requester) (p : PortId) (v : BitVec 32) (s : State) : Host.Outcome State Fault Refusal :=
  .next (s.write req (Reg.lnkCtrl p) v.toNat fun s => s.lnkCtrl req p (setBit v.toNat 0 false))

def execLnkRetrain (req : Requester) (p : PortId) (v : BitVec 32) (s : State) : Host.Outcome State Fault Refusal :=
  .next (s.write req (Reg.lnkCtrl p) v.toNat fun s => s.lnkCtrl req p (setBit v.toNat 3 true))

/-- Edge site of a port's agent, as 8 × side + place along the side (R67). -/
def portSite (p : Nat) : Nat := 8 * (p / 20) + 2 * (p / 5 % 4) + 1

/-- LIGHT_DETECT: light on all eight receive lanes. A port whose agent has stopped stays down (R63). -/
def State.lightDetect (s : State) (p : Nat) : State :=
  if s.portState p == portDetect && !s.stopOut (edgeStop (portSite p) 0) then s.portEnter p portPmd else s

def execLightDetect (p : PortId) (s : State) : Host.Outcome State Fault Refusal := .next (s.clocked (s.lightDetect p))

/-- PMD_TRAIN_DONE: training is done; an ETHERNET port's PHY reports link. -/
def State.pmdTrainDone (s : State) (p : Nat) : State :=
  if s.portState p != portPmd then s
  else if s.ethPort p then s.portUp p
  else s.portEnter p portAlign

def execPmdTrainDone (p : PortId) (s : State) : Host.Outcome State Fault Refusal := .next (s.clocked (s.pmdTrainDone p))

/-- Enter INIT: the port's own INIT flit goes out (R359). -/
def State.portInit (s : State) (p : Nat) : State :=
  let s := (s.portEnter p Machine.portInit).put (Fld.lnkStatusReason p) 0
  let s := s.modPort p Port.dropLink
  (s.emit (.flit p (mkFlit (s.port p) 2 0 255 0 false (s.initPayload p)))).wrap64 (Reg.lnkTxFlits p)

/-- ALIGN_DONE: lane deskew and flit alignment are done. -/
def State.alignDone (s : State) (p : Nat) : State := if s.portState p == portAlign then s.portInit p else s

def execAlignDone (p : PortId) (s : State) : Host.Outcome State Fault Refusal := .next (s.clocked (s.alignDone p))

/-- REASON of a miscabled port; 0 where the far end fits (R359). -/
def initReason (p : Nat) (i : InitIn) : Nat :=
  if i.version != 1 then 1 else
  match portDir p with
  | some d => if i.role != 0 then 2 else if i.dir != oppositeDir d then 3 else 0
  | none => if i.role == 2 || i.role == 3 then 0 else 2

/-- INIT_FLIT_RECEIVE: the far end's INIT is checked in INIT; in MISCABLED, one that differs restarts INIT. -/
def State.initReceive (s : State) (p : Nat) (b : List Byte) (corr uncorr : Nat) : State :=
  let st := s.portState p
  if s.ethPort p || (st != Machine.portInit && st != portMiscabled) then s else
  match s.flitIn p b corr uncorr with
  | (s, none) => s
  | (s, some f) =>
    if f.kind != 2 || leAt f.payload 0 1 != 1 then s else
    let i := InitIn.of f.payload
    let changed := f.payload != (s.port p).farInit
    let s := ((s.put (Fld.lnkFar0Dir p) i.dir).put (Fld.lnkFar0Role p) i.role).put (Fld.lnkFar0Node p) i.node
    let s := (s.put (Fld.lnkFar1Version p) i.version).put (Fld.lnkFar1Port p) i.port
    let s := s.modPort p fun x => { x with farInit := f.payload }
    if st == portMiscabled then (if changed then s.portInit p else s) else
    let r := initReason p i
    if r == 0 then (s.modPort p fun x => { x with farBuf := i.buf }).portUp p
    else
      let s := (s.portEnter p portMiscabled).put (Fld.lnkStatusReason p) r
      s.raiseMod (srcPort p) 0x0702 2 (p + r * 2 ^ 8)
        (i.role % 4 + i.dir % 8 * 4 + i.port * 2 ^ 8 + i.version * 2 ^ 16)

def execInitFlitReceive (p : PortId) (flit : List Byte) (corr uncorr : Nat) (s : State) : Host.Outcome State Fault Refusal :=
  .next (s.clocked (s.initReceive p flit corr uncorr))

/-- TRAIN_TIMEOUT: a bound of states 2 to 4 is overrun; after three in a row the port has FAILED. An ETHERNET port only goes back
to DETECT. -/
def State.trainTimeout (s : State) (p : Nat) : State :=
  let st := s.portState p
  let x := s.port p
  if st < 2 || 4 < st || s.tick < x.since + stateBound st then s else
  let s := s.bump (Fld.lnkTrainFailCount p)
  let s := s.setPort p { x with fails := x.fails + 1 }
  s.portEnter p (if 3 ≤ x.fails + 1 && !s.ethPort p then portFailed else portDetect)

def execTrainTimeout (p : PortId) (s : State) : Host.Outcome State Fault Refusal := .next (s.clocked (s.trainTimeout p))

/-- RETRAIN_DONE: the port is ACTIVE again and replays from ACK + 1 (R366). -/
def State.retrainDone (s : State) (p : Nat) : State :=
  if s.portState p != portRetrain then s else
  let s := (s.portUp p).modPort p fun x => { x with
    replays := [], ackTick := s.tick, kept := x.kept.map fun f => { f with replays := 0 } }
  ((s.resend p).portPump p).exHeld p

def execRetrainDone (p : PortId) (s : State) : Host.Outcome State Fault Refusal := .next (s.clocked (s.retrainDone p))

/-- RETRAIN_TIMEOUT: RETRAIN has lasted 100 ms. -/
def State.retrainTimeout (s : State) (p : Nat) : State :=
  if s.portState p == portRetrain && (s.port p).since + stateBound 6 ≤ s.tick then s.portDown p 1 portDetect else s

def execRetrainTimeout (p : PortId) (s : State) : Host.Outcome State Fault Refusal := .next (s.clocked (s.retrainTimeout p))

/-- LOSS_OF_LIGHT: an ACTIVE port goes to DETECT (R358, R548). -/
def State.lossOfLight (s : State) (p : Nat) : State :=
  if s.portState p == portActive then s.portDown p 3 portDetect else s

def execLossOfLight (p : PortId) (s : State) : Host.Outcome State Fault Refusal := .next (s.clocked (s.lossOfLight p))

/-- The port has a DATA flit that it may send now (R368). -/
def State.portReady (s : State) (p : Nat) : Bool := s.portSends p && (s.pickPacket p (s.refill (s.port p))).isSome

/-- A tick passes at a port: packets that wait look for a slot, and an ACTIVE port without one sends an IDLE flit; a MISCABLED port sends
its INIT flit once every 1 ms (R358, R365, R368). One IDLE flit in a tick stands for the empty slots (log entry 42). -/
def State.portTick1 (s : State) (p : Nat) : State :=
  if s.portState p == portMiscabled then
    if (s.tick - (s.port p).since) % ticksPerMs == 0 then
      (s.emit (.flit p (mkFlit (s.port p) 2 0 255 0 false (s.initPayload p)))).wrap64 (Reg.lnkTxFlits p)
    else s
  else if s.portReady p then s.portPump p
  else if s.flitsPass p then s.sendIdle p false
  else s

def State.portTick (s : State) : State := allPorts.foldl State.portTick1 s

/-! ## TIME flits (R348, R363, R364) -/

/-- TIME_FLIT_SEND: one from an ACTIVE port, in a tick whose number is a multiple of 65,536. -/
def State.timeSend (s : State) (p frac : Nat) : State :=
  let x := s.port p
  if !s.flitsPass p || s.tick % markerTicks != 0 || x.timeAt == some s.tick then s else
  let xseq := (x.xseq + 1) % 0x10000
  let tx := s.tick * 256 + frac
  let s := s.setPort p { x with
    xseq := xseq, timeAt := some s.tick, echo := x.stamp.map fun st => (tx, st) }
  (s.emit (.flit p (mkFlit (s.port p) 2 0 255 0 false
    (timePayload (s.get Fld.timStatusState) xseq tx x.stamp)))).wrap64 (Reg.lnkTxFlits p)

def execTimeFlitSend (p : PortId) (frac : Byte) (s : State) : Host.Outcome State Fault Refusal :=
  .next (s.clocked (s.timeSend p frac.toNat))

/-- The four timestamps of an exchange: the far end's marker that the last one sent echoed, and the far end's echo of that one
(R348, R363). -/
def exchangeOf (x : Port) (t : TimeIn) : Option (Int × Int × Int × Int) :=
  match x.echo with
  | some (tx, st) => if t.echoSeq == x.xseq && t.echoTx == tx then some (st.tx, st.rx, tx, t.echoRx) else none
  | none => none

/-- A marker of the parent: its state, and that its timing is there (R347). -/
def State.parentMarker (s : State) (state : Nat) : State :=
  let s := { s with tim.parent := state, tim.marker := s.tick, tim.lost := false }
  s.timBack.timReport

/-- A completed exchange measures the link's delay, and from the parent the module's offset (R348). -/
def State.timeMeasured (s : State) (p : Nat) (parent : Bool) (e : Int × Int × Int × Int) : State :=
  let (t1, t2, t3, t4) := e
  let delay := openDiv ((t4 - t1) - (t3 - t2)) 2 (Config.pick s.draws)
  let off := openDiv ((t2 - t1) - (t4 - t3)) 2 (Config.pick (s.draws + 1))
  let s := { s with draws := s.draws + 2 }.modPort p fun x => { x with delay := some delay.toNat }
  if parent then { s with tim.due := some (p, off, delay) } else s

/-- TIME_FLIT_RECEIVE: the stamps are kept, and one that completes an exchange measures the link and, from the parent, the
module's offset (R348). -/
def State.timeReceive (s : State) (p : Nat) (b : List Byte) (corr uncorr frac : Nat) : State :=
  if !s.flitsPass p then s else
  match s.flitIn p b corr uncorr with
  | (s, none) => s
  | (s, some f) =>
    let s := s.flitAcks p f
    if f.kind != 2 || leAt f.payload 0 1 != 2 then s else
    let t := TimeIn.of f.payload
    let x := s.port p
    let parent := !s.isMaster && s.get Fld.timCtrlParent == p
    let ex := exchangeOf x t
    let s := s.setPort p { x with
      stamp := some ⟨t.xseq, t.tx, s.tick * 256 + frac⟩
      echo := if ex.isSome then none else x.echo }
    let s := if parent then s.parentMarker t.state else s
    match ex with
    | none => s
    | some e => s.timeMeasured p parent e

def execTimeFlitReceive (p : PortId) (flit : List Byte) (corr uncorr : Nat) (frac : Byte) (s : State) :
    Host.Outcome State Fault Refusal :=
  .next (s.clocked (s.timeReceive p flit corr uncorr frac.toNat))

/-! ## Registers (R369, R384) -/

/-- LNK_CNT_CLEAR: every counter of the block. -/
def State.lnkCntClear (s : State) (p : Nat) : State :=
  (s.clear64 [Reg.lnkFecCorr p, Reg.lnkFecUncorr p, Reg.lnkCrcErr p, Reg.lnkReplay p, Reg.lnkTxFlits p,
    Reg.lnkRxFlits p]).clearAll [Fld.lnkTrainFailCount p, Fld.lnkRetrainsCount p, Fld.lnkShareDropCount p,
    Fld.lnkAgeDropCount p, Fld.lnkEthDropCount p]

def execLnkCntClear (req : Requester) (p : PortId) (s : State) : Host.Outcome State Fault Refusal :=
  .next (s.write req (Reg.lnkCntCtrl p) 1 fun s => s.lnkCntClear p)

/-- A write of a share entry: ignored where the total would pass 64; a share of 65 to 127 acts as 0 and is counted (R369, R384).
-/
def State.shareWrite (s : State) (req : Requester) (p q v : Nat) : State :=
  let w := field v 24 7
  let w := if w ≤ 64 then w else 0
  let others := ((List.range 32).filter (· != q)).map fun i =>
    let w := s.get (Fld.lnkShareShare p i)
    if w ≤ 64 then w else 0
  if others.sum + w > 64 then s.misuse req else
  let s := if field v 24 7 > 64 then s.misuse req else s
  (s.put (Fld.lnkShareShare p q) (field v 24 7)).put (Fld.lnkShareJob p q) (field v 0 24)

end Sys2Proof.Machine
end

