-- ==== Sys2Proof/Machine/Ether.lean ====
section
/-!
DEFINITION. Ethernet mode: frames sent and received (R381 to R383).
-/
namespace Sys2Proof.Machine
open Sys2Proof

/-! ## Checksums -/

/-- One byte through the CRC-32 shift register of IEEE 802.3: reflected, polynomial 0x04C11DB7 (PRESUMED, log entry 6). -/
def crcEthByte (crc : BitVec 32) (b : Byte) : BitVec 32 :=
  (List.range 8).foldl (fun c _ => if c.getLsbD 0 then (c >>> 1) ^^^ 0xEDB88320#32 else c >>> 1)
    (crc ^^^ b.setWidth 32)

/-- FCS of a frame. -/
def crcEth (bs : List Byte) : Nat := (bs.foldl crcEthByte 0xFFFFFFFF#32 ^^^ 0xFFFFFFFF#32).toNat

/-- Sum of big-endian 16-bit words, an odd last byte padded with zero. -/
def sumWords : List Byte → Nat
  | a :: b :: l => a.toNat * 256 + b.toNat + sumWords l
  | [a] => a.toNat * 256
  | [] => 0

/-- Ones' complement folding of a sum to 16 bits. -/
def fold16 (n : Nat) : Nat :=
  let n := n % 65536 + n / 65536
  let n := n % 65536 + n / 65536
  n % 65536 + n / 65536

/-- UDP checksum over the IPv6 pseudo-header and the datagram with its checksum field as it stands (PRESUMED, log entry 6). -/
def udpSum (src dst : List Byte) (udp : List Byte) : Nat :=
  fold16 (sumWords (src ++ dst ++ beBytes 4 udp.length ++ beBytes 4 17 ++ udp))

/-! ## Addresses -/

/-- IPv6 address of four words, [31:0] in the first, as it stands in a header. -/
def ipBytes (w : Nat → Nat) : List Byte := beBytes 16 (w 0 + w 1 * 2 ^ 32 + w 2 * 2 ^ 64 + w 3 * 2 ^ 96)

def State.portIp (s : State) (p : Nat) : List Byte := ipBytes fun k => s.rd (Reg.lnkEthIp p k)

def State.portMac (s : State) (p : Nat) : List Byte :=
  beBytes 6 (s.rd (Reg.lnkEthMacLo p) + s.get (Fld.lnkEthMacHiValue p) * 2 ^ 32)

/-- VID in use: 0 and 0xFFF act as 1 (R384). -/
def State.portVid (s : State) (p : Nat) : Nat :=
  let v := s.get (Fld.lnkEthCfgVid p)
  if v == 0 || v == 0xFFF then 1 else v

/-- Largest frame: 1,518 to 9,216 bytes (R384). -/
def State.portMtu (s : State) (p : Nat) : Nat := max 1518 (min 9216 (s.get (Fld.lnkEthMtuMtu p)))

/-! ## Sending (R381, R383) -/

/-- Flow hash of source node, destination node and class (R381; log entry 8). -/
def flowHash (src dst cls : Nat) : Nat := crc32c (Config.flowBytes src dst cls)

/-- The frame that carries one packet to an endpoint-table entry. -/
def State.ethFrame (s : State) (p e cls src dst : Nat) (pkt : List Byte) : List Byte :=
  let h := flowHash src dst cls
  let pcp := match cls with | 0 => 5 | 1 => 4 | 2 => 1 | _ => 0
  let dscp := match cls with | 0 => 46 | 1 => 24 | 2 => 10 | _ => 8
  let ipS := s.portIp p
  let ipD := ipBytes fun k => s.rd (Reg.entIp e k)
  let udp (sum : Nat) : List Byte :=
    beBytes 2 (49152 + h % 16384) ++ beBytes 2 (s.get (Fld.lnkEthCfgUdp p)) ++ beBytes 2 (8 + pkt.length) ++ beBytes 2 sum ++ pkt
  let sum := 65535 - udpSum ipS ipD (udp 0)
  let head := beBytes 6 (s.rd (Reg.entMacLo e) + s.get (Fld.entMacHiV e) * 2 ^ 32) ++ s.portMac p ++
    beBytes 2 0x8100 ++ beBytes 2 (pcp * 2 ^ 13 + s.portVid p) ++ beBytes 2 0x86DD
  let ip := beBytes 4 (6 * 2 ^ 28 + dscp * 2 ^ 22 + h % 2 ^ 20) ++ beBytes 2 (8 + pkt.length) ++ beBytes 1 17 ++ beBytes 1 64 ++
    ipS ++ ipD
  let body := head ++ ip ++ udp (if sum == 0 then 65535 else sum)
  body ++ leBytes 4 (crcEth body)

/-- Send one packet in a frame of its own; a frame over the MTU is not sent (R357). -/
def State.sendFrame (s : State) (p dst cls : Nat) (pkt : List Byte) : State :=
  if !s.portOpen p || !s.flag Fld.vblNodeValid || s.portMtu p < pkt.length + 70 then s else
  match s.entryOf dst with
  | none => s
  | some e => (s.emit (.frame p (s.ethFrame p e cls (leAt pkt 8 4 % 2 ^ 20) dst pkt))).wrap64 (Reg.lnkTxFlits p)

/-- Send a packet on a port, in the port's mode. A packet of a job that the port's shares refuse is dropped and counted, and the message of
one that began here is refused (R369). -/
def State.portSend (s : State) (p dst cls job : Nat) (part : Option Nat) (pkt : List Byte) : State :=
  if s.shareShut p job then
    let s := s.bump (Fld.lnkShareDropCount p)
    if leAt pkt 8 4 % 2 ^ 20 == s.ownNode then { s with trp.refused := s.trp.refused ++ [pkt.take 48] } else s
  else if s.ethPort p then s.sendFrame p dst cls pkt
  else s.queuePacket p cls job part pkt

/-! ## Receiving (R382) -/

/-- A received frame passes every check. -/
def State.frameOk (s : State) (p : Nat) (b : List Byte) : Bool :=
  let n := b.length
  let be (off w : Nat) : Nat := ofBe ((b.drop off).take w)
  let udpLen := be 62 2
  n ≤ s.portMtu p && 70 ≤ n &&
    leAt b (n - 4) 4 == crcEth (b.take (n - 4)) &&
    b.take 6 == s.portMac p &&
    be 12 2 == 0x8100 && be 14 2 % 4096 == s.portVid p && be 16 2 == 0x86DD &&
    be 18 1 / 16 == 6 && be 24 1 == 17 && (b.drop 42).take 16 == s.portIp p &&
    8 ≤ udpLen && 58 + udpLen + 4 ≤ n &&
    be 60 2 == s.get (Fld.lnkEthCfgUdp p) && be 64 2 != 0 &&
    udpSum ((b.drop 26).take 16) ((b.drop 42).take 16) ((b.drop 58).take udpLen) == 65535

/-- The whole packets of a datagram, laid end to end; what cannot be a packet is one bad packet. -/
def framePackets : Nat → List Byte → List (List Byte)
  | 0, _ => []
  | n + 1, bs =>
    if bs.isEmpty then [] else
    let len := leAt bs 2 2
    if len < 48 || bs.length < len then [bs] else bs.take len :: framePackets n (bs.drop len)

/-- ETH_FRAME_RECEIVE: a frame that fails a check is dropped and counted; its packets go to the transport. -/
def State.frameReceive (s : State) (p : Nat) (b : List Byte) : State :=
  if !s.ethPort p || s.portState p != portActive || s.flag (Fld.lnkCtrlShut p) then s else
  let s := s.wrap64 (Reg.lnkRxFlits p)
  if !s.frameOk p b then s.bump (Fld.lnkEthDropCount p) else
  let pkts := framePackets 192 ((b.drop 66).take (ofBe ((b.drop 62).take 2) - 8))
  { s with trp.inbox := s.trp.inbox ++ pkts.map fun k => (p, k) }

def execEthFrameReceive (p : PortId) (frame : List Byte) (s : State) : Host.Outcome State Fault Refusal :=
  .next (s.clocked (s.frameReceive p frame))

end Sys2Proof.Machine
end

