-- ==== Sys2Proof/Machine/Window.lean ====
section
/-!
DEFINITION. Windows and the checks of a received request (R388, R398 to R402, R418), and their table switch (R401).
-/
namespace Sys2Proof.Machine
open Sys2Proof

/-! ## Types and statuses (R380, R392) -/

def ptRd : Nat := 1
def ptWr : Nat := 2
def ptAtomic : Nat := 3
def ptLease : Nat := 4
def ptInv : Nat := 5
def ptDoorbell : Nat := 6
def ptColl : Nat := 7
def ptRsp : Nat := 0x40
def ptTAck : Nat := 0x41

def vOk : Nat := 0
def vDenied : Nat := 1
def vBad : Nat := 2
def vUnreach : Nat := 3
def vUnknown : Nat := 4
def vPoisoned : Nat := 5
def vHeld : Nat := 6
def vBroken : Nat := 7
def vNotOwner : Nat := 8

/-! ## Windows (R398) -/

/-- Register address of window `w` of a copy. -/
def winIx (copy w : Nat) : Nat := 1024 * copy + w

def State.winCopy (s : State) : Nat := s.get Fld.vblTblCtrlActive

def State.winLow (s : State) (a : Nat) : Nat := s.get64 a % 2 ^ 44

/-- A range of tensor space lies wholly in the region that TIER names. -/
def tierHolds (tier a n : Nat) : Bool :=
  let lo := match tier with | 0 => 0 | 1 => 0x1000000000 | _ => 0x20000000000
  let hi := match tier with | 0 => 0x1000000000 | 1 => 0x3000000000 | _ => 0x40000000000
  tier != 3 && lo ≤ a && a + n ≤ hi

/-- First offset of the doorbell page (R418). -/
def bellPage : Nat := 0xFFFFFFF0000

def inBellPage (off : Nat) : Bool := bellPage ≤ off && off < bellPage + 0x1000

/-- A window matches an offset (R398). -/
def State.winMatch (s : State) (i off : Nat) : Bool :=
  let base := s.winLow (Reg.winBase i)
  let limit := s.winLow (Reg.winLimit i)
  s.flag (Fld.winKeyValid i) && base < limit && base ≤ off && off < limit &&
    tierHolds (s.get (Fld.winTgtTier i)) (s.winLow (Reg.winTarget i)) (limit - base) && !inBellPage off

/-- The window of a copy that an offset matches: the lowest (R398). -/
def State.winFind (s : State) (copy off : Nat) : Option Nat :=
  ((List.range 1024).map (winIx copy)).find? fun i => s.winMatch i off

/-- What a request may do at a window: its context, its tensor-space address, and the class of the answer (R399). -/
structure Target where
  ctx : Nat
  addr : Nat
  window : Nat
  deriving DecidableEq, Repr

/-- PERM bit of an operation (R420). -/
def permBit (pt : Nat) : Nat := pt - 1

/-- The first line of R399, by the transaction block and the payload. -/
def wellMade (pt addr opnd : Nat) (data : List Byte) : Bool :=
  match pt with
  | 1 => 1 ≤ opnd && opnd ≤ 65536 && addr % 8 == 0
  | 2 => addr % 8 == 0
  | 3 => leAt data 0 1 ≤ 6 && zeroBytes data 1 7 && addr % (if leAt data 0 1 == 0 || leAt data 0 1 == 2 then 4 else 8) == 0
  | 4 => leAt data 0 1 ≤ 1 && zeroBytes data 2 2 && zeroBytes data 8 8 && addr % 32 == 0
  | 6 => addr % 8 == 0
  | _ => true

/-- The window checks of R399 in order, for `n` bytes from a global address: the target, or the status of the first that fails.
-/
def State.winCheck (s : State) (copy job pt addr n : Nat) : Except Nat Target :=
  let off := addr % 2 ^ 44
  if addr / 2 ^ 44 != s.ownNode then .error vDenied else
  match s.winFind copy off with
  | none => .error vDenied
  | some i =>
    let a := s.winLow (Reg.winTarget i) + (off - s.winLow (Reg.winBase i))
    let c := s.get (Fld.winTgtContext i)
    if s.winLow (Reg.winLimit i) < off + n then .error vDenied
    else if s.get (Fld.winKeyJob i) != job then .error vDenied
    else if !bitAt (s.get (Fld.winTgtPerm i)) (permBit pt) then .error vDenied
    else if s.ctxState c == ctxIdle || !s.mapped c a n then .error vDenied
    else if (pt == ptWr || pt == ptAtomic || pt == ptLease) && s.inCode c a n then .error vDenied
    else if (pt == ptAtomic || pt == ptLease) && !upperTier a then .error vBad
    else .ok ⟨c, a, i⟩

/-- Bytes that a request covers. -/
def reqBytes (pt opnd : Nat) (data : List Byte) : Nat :=
  match pt with
  | 1 => opnd
  | 2 => opnd
  | 3 => if leAt data 0 1 == 0 || leAt data 0 1 == 2 then 4 else 8
  | 4 => 32
  | _ => 0

/-- Every check of a request before it acts: none of the doorbell page, of INV or of a window fails, or the status (R399). -/
def State.reqCheck (s : State) (copy job pt addr opnd : Nat) (data : List Byte) : Except Nat Target :=
  if !wellMade pt addr opnd data then .error vBad
  else if inBellPage (addr % 2 ^ 44) then .error vDenied
  else s.winCheck copy job pt addr (reqBytes pt opnd data)

/-! ## The table switch (R401) -/

/-- VBL_TBL_ARM: an arm is ignored while one is pending; late, it is refused; else it is pending. -/
def State.vblArm (s : State) (req : Requester) : State :=
  let t := s.get64 Reg.vblSwitchTick
  if s.flag Fld.vblTblStatusArmed then s.misuse req
  else if t < s.tick + armLead then (s.put Fld.vblTblStatusLate 1).raiseMod srcVirbael 0x0804 1 t s.tick
  else s.put Fld.vblTblStatusArmed 1

def execVblTblArm (req : Requester) (s : State) : Host.Outcome State Fault Refusal :=
  .next (s.write req Reg.vblTblCtrl 2 fun s => s.vblArm req)

/-- VBL_TBL_SWITCH: at the named tick. -/
def State.vblSwitch (s : State) : State :=
  let t := s.get64 Reg.vblSwitchTick
  if !s.flag Fld.vblTblStatusArmed || s.tick < t then s else
  let new := 1 - s.winCopy
  let s := ((s.put Fld.vblTblStatusArmed 0).put Fld.vblTblCtrlActive new).put Fld.vblTblStatusSwitched 1
  s.raiseMod srcVirbael 0x0803 0 t new

def execVblTblSwitch (s : State) : Host.Outcome State Fault Refusal := .next (s.clocked s.vblSwitch)

/-- VBL_CNT_CLEAR: the six counters (R419). -/
def State.vblCntClear (s : State) : State :=
  s.clearAll [Fld.vblRxDeniedCount, Fld.vblFwdDropCount, Fld.vblRcacheHitCount, Fld.vblRcacheFullCount,
    Fld.vblLateRspCount, Fld.vblExDemotedCount]

def execVblCntClear (req : Requester) (s : State) : Host.Outcome State Fault Refusal :=
  .next (s.write req Reg.vblCntCtrl 1 fun s => s.vblCntClear)

end Sys2Proof.Machine
end

