-- ==== Sys2Proof/Machine/Transport.lean ====
section
/-!
DEFINITION. The transport: packets, connections, generations, sequence numbers, acknowledgement, message IDs, failure (R371 to
R379).
-/
namespace Sys2Proof.Machine
open Sys2Proof

/-! ## Times (R373, R374, R385) -/

def ticksPerUs : Nat := 250

/-- LIFETIME in µs: 1,000 to 32,000 (R385). -/
def State.lifetime (s : State) : Nat := max 1000 (min 32000 (s.get Fld.trpLifetimeLifetime))

/-- The quiet time in ticks (R374). -/
def State.quiet (s : State) : Nat := 2 * s.lifetime * ticksPerUs

/-- First retransmission timeout in µs; 0 acts as 1 (R385). -/
def State.rto0 (s : State) : Nat := max 1 (s.get Fld.trpRtoRto)

def connLimit : Nat := 16384

/-! ## Packets (R371, R380) -/

/-- A packet with AGE and HOPS 0 and its ECRC. -/
def mkPacket (pt flags dst cls src gen mid seg job tseq : Nat) (block data : List Byte) : List Byte :=
  let a := leBytes 1 pt ++ leBytes 1 flags ++ leBytes 2 (48 + data.length) ++ leBytes 4 (dst + cls * 2 ^ 20) ++
    leBytes 4 (src + gen * 2 ^ 20) ++ leBytes 2 mid ++ leBytes 2 seg ++ leBytes 4 job ++ leBytes 4 0 ++ leBytes 4 tseq
  let b := block ++ data
  a ++ leBytes 4 (crc32c (a ++ leBytes 4 0 ++ b)) ++ b

/-- The transaction block of a request: ADDR and OPND. -/
def reqBlock (addr opnd : Nat) : List Byte := leBytes 8 addr ++ leBytes 8 opnd

/-- The block of segment `i`: a WR's address and a collective step's offset move with it (R380). -/
def segBlock (m : Msg) (i : Nat) : List Byte :=
  if m.ptype == ptWr then reqBlock (leAt m.block 0 8 + 4096 * i) (leAt m.block 8 8)
  else if m.ptype == ptColl then reqBlock (leAt m.block 0 8) (leAt m.block 8 8 + 4096 * i)
  else m.block

/-- Segments of a message (R371). -/
def Msg.segs (m : Msg) : Nat := max 1 (ceilDiv m.data.length 4096)

/-- A packet's fields as they were received. -/
structure PacketIn where
  pt : Nat
  syn : Bool
  last : Bool
  aclass : Nat
  reset : Bool
  len : Nat
  dst : Nat
  cls : Nat
  src : Nat
  gen : Nat
  mid : Nat
  job : Nat
  hops : Nat
  age : Nat
  tseq : Nat
  block : List Byte
  data : List Byte
  /-- LENGTH in range, PTYPE defined, reserved fields 0, ECRC good (R378). -/
  ok : Bool
  deriving DecidableEq, Repr

/-- The packet with AGE, HOPS and ECRC taken as 0 (R371). -/
def ecrcBytes (b : List Byte) : List Byte :=
  b.take 19 ++ [0#8, 0#8, 0#8] ++ (b.drop 22).take 6 ++ leBytes 4 0 ++ b.drop 32

def PacketIn.of (b : List Byte) : PacketIn :=
  let pt := leAt b 0 1
  let fl := leAt b 1 1
  let len := leAt b 2 2
  let dst := leAt b 4 4
  let src := leAt b 8 4
  let ok := 48 ≤ len && len ≤ 4144 && b.length == len && ((1 ≤ pt && pt ≤ 7) || pt == ptRsp || pt == ptTAck) &&
    fl < 32 && dst < 2 ^ 22 && src < 2 ^ 24 && leAt b 14 2 < 16 && leAt b 22 2 == 0 && leAt b 28 4 == crc32c (ecrcBytes b)
  ⟨pt, bitAt fl 0, bitAt fl 1, field fl 2 2, bitAt fl 4, len, dst % 2 ^ 20, field dst 20 2, src % 2 ^ 20, field src 20 4,
    leAt b 12 2, leAt b 16 3, leAt b 19 1, leAt b 20 2, leAt b 24 4, (b.drop 32).take 16, b.drop 48, ok⟩

/-! ## Send connections (R372 to R375) -/

def State.txConn (s : State) (d : Nat) : Option TxConn := SMap.get? s.trp.tx d

def State.setTx (s : State) (d : Nat) (x : TxConn) : State := { s with trp.tx := SMap.put s.trp.tx d x }

/-- Direction in which a collective engine sends to a casement neighbour: that of the instance that the packet names, or the torus
direction once the instance has ended. -/
def State.collDir (s : State) (job num d : Nat) : Option Nat :=
  match s.coll.insts.find? fun i => i.job == job && i.num == num with
  | some i => (i.nbrs.find? fun n => n.2 == d).map (·.1)
  | none => s.torusDir d

/-- Port of a collective step's packet: message m of a step goes on the (m mod k)-th of the k open ports of its direction (R432).
-/
def State.collPort (s : State) (d job : Nat) (b : List Byte) : Option Nat :=
  match s.collDir job (leAt b 32 4) d with
  | none => none
  | some dir =>
    let l := s.dirPorts dir
    let m := if leAt b 38 2 == 3 then 0 else leAt b 40 8 / 65536
    l[m % l.length]?

/-- Send a packet toward a node on the port of its flow; without a path it is lost (R395, R432). -/
def State.sendPacket (s : State) (src d cls job : Nat) (b : List Byte) : State :=
  match if leAt b 0 1 == ptColl then s.collPort d job b else s.pathPort src d cls with
  | some p => s.portSend p d cls job none b
  | none => s

/-- The quiet time has passed since a tick. -/
def State.quietSince (s : State) (t : Nat) : Bool := t + s.quiet ≤ s.tick

/-- The open of a generation that has waited goes ahead (R375). -/
def State.tryOpen (s : State) (x : TxConn) : TxConn :=
  if x.isOpen then x else
  match SMap.get? x.used x.gen with
  | some t => if s.quietSince t then { x with isOpen := true } else x
  | none => { x with isOpen := true }

/-- ID `n` may be assigned (R374). -/
def State.idFree (s : State) (x : TxConn) (n : Nat) : Bool :=
  !(x.msgs.any fun m => m.1 == n) &&
    match SMap.get? x.retired (n / 1024) with
    | some t => s.quietSince t
    | none => true

/-- Waiting messages take the next IDs in ascending order while they may (R374). -/
def State.assignIds (s : State) : Nat → TxConn → TxConn
  | 0, x => x
  | n + 1, x =>
    match x.wait with
    | [] => x
    | m :: rest =>
      if !x.isOpen || !s.idFree x x.nextId then x else
      s.assignIds n { x with
        wait := rest
        msgs := x.msgs ++ [(x.nextId, m)]
        todo := x.todo ++ (List.range m.segs).map fun i => (x.nextId, i)
        nextId := (x.nextId + 1) % 0x10000 }

/-- Class of a segment's message. -/
def TxConn.clsOf (x : TxConn) (e : Nat × Nat) : Nat := ((x.msgs.find? fun m => m.1 == e.1).elim 0 fun m => m.2.cls)

/-- First segment whose class has fewer than 256 packets unacknowledged (R373). -/
def TxConn.nextSeg (x : TxConn) : Option Nat :=
  x.todo.findIdx? fun e => (x.unacked.filter fun p => p.cls == x.clsOf e).length < 256

/-- Send segments while a class's window allows (R371 to R373). -/
def State.sendSegs (d : Nat) : Nat → State → State
  | 0, s => s
  | n + 1, s =>
    match s.txConn d with
    | none => s
    | some x =>
      match x.nextSeg with
      | none => s
      | some k =>
        match x.todo[k]? with
        | none => s
        | some (mid, i) =>
          match x.msgs.find? fun m => m.1 == mid with
          | none => State.sendSegs d n (s.setTx d { x with todo := x.todo.eraseIdx k })
          | some (_, m) =>
            let tseq := x.tseq.getD m.cls 0
            let flags := x.syn.toNat + (if i + 1 == m.segs then 2 else 0)
            let b := mkPacket m.ptype flags d m.cls s.ownNode x.gen mid i m.job tseq (segBlock m i)
              ((m.data.drop (4096 * i)).take 4096)
            let s := s.setTx d { x with
              todo := x.todo.eraseIdx k
              syn := false
              idle := s.tick
              tseq := x.tseq.set m.cls ((tseq + 1) % 2 ^ 32)
              unacked := x.unacked ++ [⟨m.cls, tseq, mid, m.job, b, s.tick, s.tick, s.rto0⟩] }
            State.sendSegs d n (s.sendPacket s.ownNode d m.cls m.job b)

/-- What a connection may do goes ahead: its open, IDs, and segments. -/
def State.connPump (s : State) (d : Nat) : State :=
  match s.txConn d with
  | none => s
  | some x =>
    let x := s.tryOpen x
    let x := s.assignIds x.wait.length x
    State.sendSegs d x.todo.length (s.setTx d x)

/-- A connection that has no state yet: its first generation and message ID are free values (log entry 4). -/
def State.newConn (s : State) : TxConn :=
  ⟨Config.pick s.draws % 16, true, true, [0, 0, 0, 0], [], [], [], [], Config.pick (s.draws + 1) % 0x10000, [], [], s.tick⟩

/-- A message for a node: it waits where no ID can be assigned (R374). -/
def State.trpSend (s : State) (d : Nat) (m : Msg) : State :=
  match s.txConn d with
  | some x =>
    let s := (s.setTx d { x with wait := x.wait ++ [m] }).connPump d
    match s.txConn d with
    | some x => if x.wait.isEmpty then s else s.bump Fld.trpIdWaitCount
    | none => s
  | none =>
    if connLimit ≤ s.trp.tx.length then { s with trp.full := s.trp.full ++ [(d, m)] } else
    let x := s.newConn
    ({ s with draws := s.draws + 2 }.setTx d { x with wait := [m] }).connPump d

/-- Message `mid` retires (R374). -/
def State.retireMsg (s : State) (d mid : Nat) : State :=
  match s.txConn d with
  | none => s
  | some x =>
    (s.setTx d { x with
      msgs := x.msgs.filter fun m => m.1 != mid
      todo := x.todo.filter fun e => e.1 != mid
      retired := SMap.put x.retired (mid / 1024) s.tick
      idle := s.tick }).connPump d

/-- The message of a request or a collective step on its connection: its ID and generation. -/
def State.msgOf (s : State) (d : Nat) (tok : Bool × Nat) : Option (Nat × Nat) :=
  (s.txConn d).bind fun x => (x.msgs.find? fun m => m.2.tok == some tok).map fun m => (m.1, x.gen)

/-- Send a message of a connection again as new packets, with the same ID (R412). -/
def State.resendMsg (s : State) (d mid : Nat) : State :=
  match s.txConn d with
  | none => s
  | some x =>
    match x.msgs.find? fun m => m.1 == mid with
    | none => s
    | some (_, m) =>
      (s.setTx d { x with todo := x.todo ++ (List.range m.segs).map fun i => (mid, i) }).connPump d

/-- A message is taken back before it retires (R374, R377). -/
def TxConn.without (x : TxConn) (tok : Bool × Nat) : TxConn :=
  { x with wait := x.wait.filter fun m => m.tok != some tok }

/-! ## Failure (R377) -/

/-- Messages that the transport reissues: reads, writes and invalidations. -/
def reissued (m : Msg) : Bool := m.ptype == ptRd || m.ptype == ptWr || m.ptype == ptInv

/-- Every message that is not retired is handed back; the next generation opens, and reads, writes and invalidations go out on it
ahead of newer messages. The other messages are the result. Without a path nothing is reissued (R377, R397). -/
def State.handBack (s : State) (d : Nat) (path : Bool) : State × List Msg :=
  match s.txConn d with
  | none => (s, [])
  | some x =>
    let all := x.msgs.map (·.2)
    let again := if path then all.filter reissued else []
    let back := (if path then all.filter fun m => !reissued m else all ++ x.wait)
    let gen := (x.gen + 1) % 16
    let x := { x with
      gen := gen, isOpen := false, syn := true, tseq := [0, 0, 0, 0], unacked := [], todo := [], msgs := []
      wait := if path then again ++ x.wait else []
      retired := [], used := SMap.put x.used x.gen s.tick, idle := s.tick }
    ((s.setTx d x).connPump d, back)

/-- TRP_GIVEUP and its counter (R377, R387). -/
def State.giveUp (s : State) (d : Nat) : State :=
  match s.txConn d with
  | none => s
  | some x =>
    let (cls, tseq) := match x.unacked with
      | u :: _ => (u.cls, u.tseq)
      | [] => (0, 0)
    (s.bump Fld.trpGiveupCount).raiseMod srcTransport 0x0703 2 (d + x.gen * 2 ^ 20 + cls * 2 ^ 24) tseq

/-- A path leads to the node (R395, R396). -/
def State.hasPath (s : State) (d : Nat) : Bool := !(s.pathPorts d).isEmpty

/-- The connection has failed, apart from a RESET (R377). -/
def State.connFailed (s : State) (d : Nat) : Bool :=
  match s.txConn d with
  | none => false
  | some x =>
    (x.unacked.any fun u => u.first + s.lifetime * ticksPerUs ≤ s.tick) ||
      (!s.hasPath d && !(x.unacked.isEmpty && x.msgs.isEmpty && x.wait.isEmpty))

/-! ## Acknowledgement (R373) -/

/-- `a` is below `b` in the sequence modulo 2^32. -/
def seqBelow (a b : Nat) : Bool := a != b && (b + 2 ^ 32 - a) % 2 ^ 32 < 2 ^ 31

/-- Send a T_ACK (R373, R380). -/
def State.sendTAck (s : State) (d gen cls next : Nat) (reset : Bool) : State :=
  s.sendPacket s.ownNode d 1 0 (mkPacket ptTAck (cls * 4 + (if reset then 16 else 0)) d 1 s.ownNode gen 0 0 0 0
    (reqBlock 0 next) [])

def State.setRx (s : State) (d : Nat) (x : RxConn) : State := { s with trp.rx := SMap.put s.trp.rx d x }

/-- Acknowledge a class of a receive connection. -/
def State.ackClass (s : State) (d cls : Nat) : State :=
  match SMap.get? s.trp.rx d with
  | none => s
  | some x =>
    (s.setRx d { x with unack := x.unack.set cls (0, 0) }).sendTAck d x.gen cls (x.next.getD cls 0) false

/-- T_ACK_TIMER: 2 µs after the first packet not yet acknowledged. -/
def State.tAckTimer (s : State) (d cls : Nat) : State :=
  match SMap.get? s.trp.rx d with
  | none => s
  | some x =>
    let (n, t) := x.unack.getD cls (0, 0)
    if n != 0 && t + 2 * ticksPerUs ≤ s.tick then s.ackClass d cls else s

def execTAckTimer (node : BitVec 20) (cls : Fin 4) (s : State) : Host.Outcome State Fault Refusal :=
  .next (s.clocked (s.tAckTimer node.toNat cls.val))

/-- A T_ACK takes the packets that it covers; posted messages whose packets are all acknowledged retire, and are the result
(R373, R374). -/
def State.ackPackets (s : State) (a : TAck) : State × List Msg :=
  match s.txConn a.src with
  | none => (s, [])
  | some x =>
    if x.gen != a.gen then (s, []) else
    let rest := x.unacked.filter fun u => !(u.cls == a.cls && seqBelow u.tseq a.next)
    let progress := rest.length < x.unacked.length
    let rest := if progress then rest.map fun u =>
        if u.cls == a.cls then { u with rto := s.rto0, last := s.tick } else u else rest
    let left (mid : Nat) : Bool := rest.any (fun u => u.mid == mid) || x.todo.any fun e => e.1 == mid
    let posted (m : Nat × Msg) : Bool := m.2.ptype ≥ ptDoorbell && !left m.1
    let done := x.msgs.filter posted
    let s := s.setTx a.src { x with unacked := rest, idle := s.tick }
    let s := done.foldl (fun s m => s.retireMsg a.src m.1) s
    (s.connPump a.src, done.map (·.2))

/-- RTO_EXPIRY: the oldest unacknowledged packet of a class goes out again; its timeout doubles, up to 16 times TRP_RTO (R373). -/
def State.rtoExpiry (s : State) (d cls : Nat) : State :=
  match s.txConn d with
  | none => s
  | some x =>
    match x.unacked.findIdx? fun u => u.cls == cls with
    | none => s
    | some i =>
      match x.unacked[i]? with
      | none => s
      | some u =>
        if s.tick < u.last + u.rto * ticksPerUs then s else
        let s := s.setTx d { x with
          unacked := x.unacked.set i { u with last := s.tick, rto := min (2 * u.rto) (16 * s.rto0) } }
        (s.bump Fld.trpRetxCount).sendPacket s.ownNode d cls u.job u.bytes

def execRtoExpiry (node : BitVec 20) (cls : Fin 4) (s : State) : Host.Outcome State Fault Refusal :=
  .next (s.clocked (s.rtoExpiry node.toNat cls.val))

/-! ## Receiving (R372, R373, R378) -/

/-- A part of a message that has begun to arrive: the window copy, and the check of a WR as a whole (R400, R401). -/
def State.newPart (s : State) (k : PacketIn) : RxPart :=
  let copy := s.winCopy
  let addr := leAt k.block 0 8
  let opnd := leAt k.block 8 8
  let status := if k.pt != ptWr then vOk else
    match s.reqCheck copy k.job ptWr addr opnd [] with
    | .ok _ => vOk
    | .error e => e
  ⟨k.mid, k.cls, copy, status, k.pt, k.job, k.block, []⟩

/-- The next packet of a class in order: its segment joins its message, and a whole message goes to the endpoint. -/
def State.deliver (s : State) (d : Nat) (x : RxConn) (k : PacketIn) : State × RxConn :=
  let part := (x.parts.find? fun r => r.mid == k.mid && r.cls == k.cls).getD (s.newPart k)
  let part := { part with data := part.data ++ k.data }
  let others := x.parts.filter fun r => !(r.mid == k.mid && r.cls == k.cls)
  let x := { x with
    next := x.next.set k.cls ((k.tseq + 1) % 2 ^ 32)
    parts := if k.last then others else others ++ [part]
    idle := s.tick }
  if k.last then
    let m : RxMsg := ⟨d, k.mid, x.gen, part.ptype, k.cls, part.job, part.copy, part.status, part.block, part.data⟩
    ({ s with vbl.inbox := s.vbl.inbox ++ [m] }, x)
  else (s, x)

/-- Packets held ahead of their turn follow (R373). -/
def State.drainHeld (d cls : Nat) : Nat → State × RxConn → State × RxConn
  | 0, r => r
  | n + 1, (s, x) =>
    match x.held.find? fun h => h.1 == cls && h.2.1 == x.next.getD cls 0 with
    | none => (s, x)
    | some h =>
      let x := { x with held := x.held.filter fun g => !(g.1 == cls && g.2.1 == h.2.1) }
      State.drainHeld d cls n (s.deliver d x (PacketIn.of h.2.2))

/-- A packet of a class has been taken, in its turn or to be held: it is to be acknowledged (R373). -/
def RxConn.taken (x : RxConn) (cls tick : Nat) : RxConn :=
  let (n, t) := x.unack.getD cls (0, 0)
  { x with unack := x.unack.set cls (n + 1, if n == 0 then tick else t), idle := tick }

/-- A T_ACK after every 16 packets of a class. -/
def State.ackDue (s : State) (d cls : Nat) : State :=
  match SMap.get? s.trp.rx d with
  | some x => if 16 ≤ (x.unack.getD cls (0, 0)).1 then s.ackClass d cls else s
  | none => s

/-- A packet of the current generation (R373). -/
def State.inSequence (s : State) (d : Nat) (x : RxConn) (k : PacketIn) (b : List Byte) : State :=
  let next := x.next.getD k.cls 0
  if k.tseq == next then
    let (s, x) := State.drainHeld d k.cls 257 (s.deliver d (x.taken k.cls s.tick) k)
    (s.setRx d x).ackDue d k.cls
  else if seqBelow k.tseq next then ((s.setRx d { x with idle := s.tick }).bump Fld.trpDupCount).ackClass d k.cls
  else if (k.tseq + 2 ^ 32 - next) % 2 ^ 32 ≤ 256 && !(x.held.any fun h => h.1 == k.cls && h.2.1 == k.tseq) then
    (s.setRx d { x.taken k.cls s.tick with held := x.held ++ [(k.cls, k.tseq, b)] }).ackDue d k.cls
  else (s.setRx d { x with idle := s.tick }).bump Fld.trpDupCount

/-- A receive connection that has just adopted a generation. -/
def freshRx (gen tick : Nat) : RxConn := ⟨gen, [0, 0, 0, 0], [], [], [(0, 0), (0, 0), (0, 0), (0, 0)], tick⟩

/-- Generation and SYN, then sequence (R372, R373). The second result: a new generation was adopted over an old one. -/
def State.fromPeer (s : State) (k : PacketIn) (b : List Byte) : State × Bool :=
  let d := k.src
  match SMap.get? s.trp.rx d with
  | none =>
    if !k.syn then ((s.bump Fld.trpGenDropCount).sendTAck d k.gen k.cls 0 true, false)
    else if connLimit ≤ s.trp.rx.length then (s.bump Fld.trpConnFullCount, false)
    else (s.inSequence d (freshRx k.gen s.tick) k b, false)
  | some x =>
    if k.gen == x.gen then (s.inSequence d x k b, false)
    else
      let ahead := (k.gen + 16 - x.gen) % 16
      if k.syn && ahead ≤ 7 then
        ((s.bump Fld.trpGenDropCount x.held.length).inSequence d (freshRx k.gen s.tick) k b, true)
      else (s.bump Fld.trpGenDropCount, false)

/-- The first packet that a port has taken in, through the checks of R378. The result names a source that has opened a new
generation (R377). -/
def State.packetIn (s : State) : State × Option Nat :=
  match s.trp.inbox with
  | [] => (s, none)
  | (p, b) :: rest =>
    let s := { s with trp.inbox := rest }
    let k := PacketIn.of b
    if !k.ok then (s.bump Fld.trpBadPktCount, none)
    else if s.lifetime < k.age || k.hops == 255 then (s.bump (Fld.lnkAgeDropCount p), none)
    else if !s.flag Fld.vblNodeValid || k.dst != s.ownNode then
      ({ s with trp.transit := s.trp.transit ++ [⟨p, s.tick, b⟩] }, none)
    else if k.pt == ptTAck then
      ({ s with trp.acks := s.trp.acks ++ [⟨k.src, k.gen, k.aclass, leAt k.block 8 4, k.reset⟩] }, none)
    else
      let (s, adopted) := s.fromPeer k b
      (s, if adopted then some k.src else none)

/-! ## Transit (R376, R396, R397) -/

/-- Residence and link delay of a transit packet, in whole µs (R376). -/
def State.ageOf (s : State) (t : Transit) : Nat :=
  ceilDiv (s.tick - t.at_) ticksPerUs + max 1 (ceilDiv ((s.port t.port).delay.getD 0) (256 * ticksPerUs))

/-- Partition that owns a port; only weight ports are owned (R455). -/
def State.portOwner (s : State) (p : Nat) : Option Nat :=
  match weightPorts.findIdx? (· == p) with
  | some k => (List.range 32).find? fun q => bitAt (s.rd (Reg.shtPorts q)) k
  | none => none

/-- TRANSIT_FORWARD: the oldest transit packet goes on, older by its stay and the link, one hop further: as traffic of the partition that
owns the port, or as module traffic, which job 0 is (R369, R396; DEDUCED, log entry 43). -/
def State.transitForward (s : State) : State :=
  match s.trp.transit with
  | [] => s
  | t :: rest =>
    let s := { s with trp.transit := rest }
    let k := PacketIn.of t.bytes
    let age := k.age + s.ageOf t
    let hops := k.hops + 1
    if s.lifetime < age || 255 ≤ hops then s.bump (Fld.lnkAgeDropCount t.port) else
    let b := t.bytes.take 19 ++ leBytes 1 hops ++ leBytes 2 age ++ t.bytes.drop 22
    match s.pathPort k.src k.dst k.cls with
    | none => s.bump Fld.vblFwdDropCount
    | some p =>
      let owner := s.portOwner p
      s.portSend p k.dst k.cls (if owner.isSome then k.job else 0) owner b

def execTransitForward (s : State) : Host.Outcome State Fault Refusal := .next (s.clocked s.transitForward)

/-! ## Eviction, waits and counters (R372, R374, R375, R385) -/

/-- CONN_IDLE_EVICT: a connection idle for the quiet time, with nothing unacknowledged and nothing outstanding. -/
def State.connEvict (s : State) (send : Bool) (d : Nat) : State :=
  if send then
    match s.txConn d with
    | none => s
    | some x =>
      if x.unacked.isEmpty && x.todo.isEmpty && x.msgs.isEmpty && x.wait.isEmpty && s.quietSince x.idle then
        let s := { s with trp.tx := SMap.del s.trp.tx d }
        match s.trp.full with
        | [] => s
        | (d', m) :: rest => { s with trp.full := rest }.trpSend d' m
      else s
  else
    match SMap.get? s.trp.rx d with
    | none => s
    | some x =>
      if x.held.isEmpty && x.parts.isEmpty && (x.unack.all fun u => u.1 == 0) && s.quietSince x.idle then
        { s with trp.rx := SMap.del s.trp.rx d }
      else s

def execConnIdleEvict (send : Bool) (node : BitVec 20) (s : State) : Host.Outcome State Fault Refusal :=
  .next (s.clocked (s.connEvict send node.toNat))

/-- QUIET_TIME_EXPIRY: an open or an ID that waited for the quiet time goes ahead. -/
def execQuietTimeExpiry (node : BitVec 20) (s : State) : Host.Outcome State Fault Refusal := .next (s.clocked (s.connPump node.toNat))

/-- TRP_CNT_CLEAR: the seven counters. -/
def State.trpCntClear (s : State) : State :=
  s.clearAll [Fld.trpGenDropCount, Fld.trpDupCount, Fld.trpRetxCount, Fld.trpGiveupCount, Fld.trpIdWaitCount,
    Fld.trpBadPktCount, Fld.trpConnFullCount]

def execTrpCntClear (req : Requester) (s : State) : Host.Outcome State Fault Refusal :=
  .next (s.write req Reg.trpCntCtrl 1 fun s => s.trpCntClear)

/-- A write of TRP_LIFETIME: only while no connection is held (R385). -/
def State.lifetimeWrite (s : State) (req : Requester) (v : Nat) : State :=
  if s.trp.tx.isEmpty && s.trp.rx.isEmpty then s.put Fld.trpLifetimeLifetime v else s.misuse req

end Sys2Proof.Machine
end

