-- ==== Sys2Proof/Machine/Requests.lean ====
section
/-!
DEFINITION. The list of the Virbael endpoint's requests, the batches of the hinge, what a request to the module's own node does, and the
reads of engines (R389, R390, R393, R397, R402, R405).
-/
namespace Sys2Proof.Machine
open Sys2Proof

/-! ## Requests -/

def State.req? (s : State) (num : Nat) : Option Req := s.vbl.reqs.find? fun r => r.num == num

def State.dropReq (s : State) (num : Nat) : State :=
  { s with vbl.reqs := s.vbl.reqs.filter fun r => r.num != num }

def State.modReq (s : State) (num : Nat) (f : Req → Req) : State :=
  { s with vbl.reqs := s.vbl.reqs.map fun r => if r.num == num then f r else r }

/-- Message ID of a request to the module's own node: its number, modulo 2^16. -/
def Req.ownMid (r : Req) : Nat := r.num % 0x10000

/-- Class of a context's message of `n` bytes: EX where it is small and EXPRESS is set, otherwise CT or, for a batch, BK (R390). -/
def State.reqClass (s : State) (c n : Nat) (bulk : Bool) : Nat :=
  if n ≤ 256 && s.flag (Fld.vblCtxCtrlExpress c) then 0 else if bulk then 2 else 1

/-- A new request joins the endpoint's list, in issue order (R393). -/
def State.addReq (s : State) (c : Nat) (use : ReqFor) (pt cls job addr opnd : Nat) (data : List Byte) : State :=
  { s with
    vbl.reqs := s.vbl.reqs ++ [⟨s.vbl.nextNum, c, use, addr / 2 ^ 44, pt, cls, job, addr, opnd, data, none, 0, none⟩]
    vbl.nextNum := s.vbl.nextNum + 1 }

/-! ## Batches (R405) -/

/-- A batch goes out as one WR (R405). -/
def State.sendBatch (s : State) (b : Batch) : State :=
  let core := match b.tasks with | (k, _) :: _ => k | [] => 0
  s.addReq b.ctx (.store core) ptWr (s.reqClass b.ctx b.data.length true) (s.jobOf b.ctx) b.addr b.data.length b.data

/-- Closed batches become requests, oldest first. -/
def State.flushBatches (s : State) : State :=
  let due := s.vbl.batches.filter (·.closed)
  due.foldl State.sendBatch { s with vbl.batches := s.vbl.batches.filter fun b => !b.closed }

/-- The batch of a context to a node closes before any other request to the node (R405). -/
def State.closeFor (s : State) (c d : Nat) : State :=
  { s with vbl.batches := s.vbl.batches.map fun (b : Batch) =>
      if b.ctx == c && b.dst == d then { b with closed := true } else b }.flushBatches

/-! ## Writes of T2 (R258, R266) -/

/-- A staged copy of a partition's T2 tile, in a pool of one of its contexts. -/
def State.copiesOf (s : State) (p tile : Nat) : List (Nat × Staged) :=
  s.cores.pools.flatMap fun q =>
    if s.partOf (q.1 % 64) == p then
      (q.2.tiles.filter fun y => y.addr == 0x20000000000 + 4096 * tile).map fun y => (q.1, y)
    else []

/-- Write within one tile of a partition's T2 allocation; none where the channel is lost. A copy of the tile makes the write
wait for its acknowledgement. -/
def State.t2Write (s : State) (p o : Nat) (bs : List Byte) (pz : Nat → Bool) : Option State :=
  let (m, key) := s.t2Key p o
  if !s.chanUp m then none else
  let mem := s.mem.store key bs fun q => pz (q - key / 64)
  let wait := !(s.copiesOf p (o / 4096)).isEmpty && !mem.acks.contains (p, o / 4096)
  some { s with mem := if wait then { mem with acks := mem.acks ++ [(p, o / 4096)] } else mem }

/-! ## Tensor space as the endpoint reaches it -/

/-- Bytes of T0, T1 or T2 of a context, and whether a sector among them is poisoned. -/
def State.spaceRead (s : State) (c a n : Nat) : List Byte × Bool :=
  let parts := (pieces a n).map fun p =>
    match region p.1 with
    | .t2 o =>
      let (bs, pz) := s.t2Read (s.partOf c) o p.2
      (bs, (List.range p.2).any pz)
    | .t0 .. => (s.mem.bytes (s.key c p.1) p.2, s.mem.anyPoison (s.key c p.1) p.2)
    | .t1 .. => (s.mem.bytes (s.key c p.1) p.2, s.mem.anyPoison (s.key c p.1) p.2)
    | .t3 .. => ([], false)
    | .hole => ([], false)
  (parts.flatMap (·.1), parts.any (·.2))

/-- Write bytes of T0, T1 or T2 of a context, unpoisoned; what lies on a lost channel is dropped (R266, R402). -/
def State.spaceWrite (s : State) (c a : Nat) (bs : List Byte) : State :=
  (pieces a bs.length).foldl (fun s p =>
    let part := (bs.drop (p.1 - a)).take p.2
    match region p.1 with
    | .t2 o => (s.t2Write (s.partOf c) o part fun _ => false).getD s
    | .t0 .. => s.twrite c p.1 part fun _ => false
    | .t1 .. => s.twrite c p.1 part fun _ => false
    | .t3 .. => s
    | .hole => s) s

/-! ## Requests to the module's own node (R389, R399 to R402) -/

/-- A refusal: memory is unchanged, it is counted and reported (R400, R422). -/
def State.countRefusal (s : State) (src job pt addr status : Nat) : State :=
  (s.bump Fld.vblRxDeniedCount).raiseMod srcVirbael 0x0800 2 (src + job * 2 ^ 20 + pt * 2 ^ 44 + status * 2 ^ 56) addr

/-- A read of the module's own node, checked and executed as a received one is. -/
def State.ownRead (s : State) (job g n : Nat) : State × Reply :=
  match s.reqCheck s.winCopy job ptRd g n [] with
  | .error e => (s.countRefusal s.ownNode job ptRd g e, .status e)
  | .ok t =>
    let (bs, bad) := s.spaceRead t.ctx t.addr n
    (s, if bad then .status vPoisoned else .ok bs)

/-- Several such reads, in order, up to the first that brings no data. -/
def State.ownReads (s : State) (job : Nat) (reads : List (Nat × Nat)) : State × Reply :=
  reads.foldl (fun r q =>
    match r.2 with
    | .ok bs =>
      match r.1.ownRead job q.1 q.2 with
      | (s, .ok d) => (s, .ok (bs ++ d))
      | e => e
    | _ => r) (s, .ok [])

/-- A write of the module's own node. -/
def State.ownWrite (s : State) (job g : Nat) (bs : List Byte) : State × Reply :=
  match s.reqCheck s.winCopy job ptWr g bs.length [] with
  | .error e => (s.countRefusal s.ownNode job ptWr g e, .status e)
  | .ok t => (s.spaceWrite t.ctx t.addr bs, .ok [])

/-! ## Reads and writes of engines (R389, R393, R397, R405) -/

/-- A read of an engine joins the context's requests, in class CT (R317; DEDUCED, log entry 44). -/
def State.askEngine (s : State) (c : Nat) (e : EngineRead) (g n : Nat) : State :=
  (s.closeFor c (g / 2 ^ 44)).addReq c (.engine e) ptRd 1 (s.jobOf c) g n []

/-- An engine's read whose answer comes with the command that asks: it is sent, executed here, or has no path. -/
def State.readGlobal (s : State) (c g n : Nat) (reply : Reply) : State × Reply :=
  let s := s.closeFor c (g / 2 ^ 44)
  if g / 2 ^ 44 == s.ownNode then s.ownRead (s.jobOf c) g n
  else if s.hasPath (g / 2 ^ 44) then (s.emit (.fetch (s.jobOf c) g n), reply)
  else (s, .status vUnreach)

/-- An engine's write whose answer comes with the command that asks. -/
def State.writeGlobal (s : State) (c g : Nat) (bs : List Byte) (reply : Reply) : State × Reply :=
  let s := s.closeFor c (g / 2 ^ 44)
  if g / 2 ^ 44 == s.ownNode then s.ownWrite (s.jobOf c) g bs
  else if s.hasPath (g / 2 ^ 44) then (s.emit (.bulk (s.jobOf c) g bs), reply)
  else (s, .status vUnreach)

end Sys2Proof.Machine
end

