-- ==== Sys2Proof/Machine/Checks.lean ====
section
/-!
DEFINITION. Checking levels, and what the fragment-blocks of an MMA and their checks occupy of the arrays (R82, R83, R85, R99, R505 to R508).
-/
namespace Sys2Proof.Machine
open Sys2Proof

/-! ## Checks in force (R505, R508, R515) -/

/-- LEVEL of a context. -/
def State.level (s : State) (c : Nat) : Nat := s.get (Fld.relCtxCtrlLevel c)

/-- Position 5n + k that serves a logical core; none where its slot is fenced. -/
def State.posOf (s : State) (core : Nat) : Option Nat :=
  let k := s.servedBy core
  if k < 5 then some (5 * paneOf core + k) else none

/-- The buddy of a core: (x xor 1, y) (R508). -/
def buddyOf (core : Nat) : Nat := core ^^^ 1

/-- A DUPLICATE context computes both sums on the core itself: its buddy slot is unserved. -/
def State.dupHere (s : State) (core : Nat) : Bool := (s.posOf (buddyOf core)).isNone

/-- Sampled or duplicated blocks, and checksum-checked blocks, are checked for a context on a position. -/
def State.pairChecks (s : State) (c : Nat) : Bool := let l := s.level c; l == 1 || l == 3 || l == 4
def State.sumChecks (s : State) (c pos : Nat) : Bool :=
  let l := s.level c
  l == 2 || l == 3 || s.flag (Fld.ptcPosStatSuspect pos)

/-! ## Array time (R85, R99) -/

/-- A fragment-block that is dispatched: its block time, and that a product in it is infinite or NaN, so that its checksums are not
formed (R82, R507). -/
abbrev FragBlock := Nat × Bool

def blockTime (bs : List FragBlock) : Nat := bs.foldl (fun n b => n + b.1) 0

/-- Arrays of a position in service. -/
def State.arraysUp (s : State) (pos : Nat) : List Nat :=
  ((List.range 520).filter fun a => !(s.position pos).bad.contains a).take (s.get (Fld.ptcPosStatArrays pos))

/-- Offset of a context's samples on a core: drawn at its LOAD, free (R506, log entry 4). -/
def State.sampleAt (s : State) (c core : Nat) : Nat := Config.pick ((s.ctx c).sampleDraw + core) % 64

/-- SAMPLE: the sampled blocks run again on a second array of the core; the core numbers the context's blocks (R506). -/
def State.chargeSamples (s : State) (c core : Nat) (bs : List FragBlock) : State :=
  let j := SMap.getD (s.ctx c).blocks core 0
  let again := bs.zipIdx.filter fun b => (j + b.2) % 64 == s.sampleAt c core
  (s.wrap64 (Reg.coreAbusy core) (blockTime (again.map (·.1)))).setCtx c
    { s.ctx c with blocks := SMap.put (s.ctx c).blocks core (j + bs.length) }

/-- CHECKSUM of one block: 1 further clock for every 32 checked on its array, which carries the remainder. Which array runs the block is
free: cycle counts are no part of the model (R507, log entries 4 and 20). -/
def State.chargeSum (s : State) (core pos : Nat) (b : FragBlock) : State :=
  if b.2 then s else
  let up := s.arraysUp pos
  let k := 520 * pos + up.getD (Config.pick s.draws % up.length) 0
  let n := SMap.getD s.rel.sums k 0 + b.1
  { s with draws := s.draws + 1, rel.sums := SMap.putD s.rel.sums k (n % 32) 0 }.wrap64 (Reg.coreAbusy core) (n / 32)

/-- The second computations of the fragment-blocks that a context's check level asks for (R505 to R507). -/
def State.chargeSecond (s : State) (c core : Nat) (bs : List FragBlock) : State :=
  if s.level c == 4 then s.wrap64 (Reg.coreAbusy (if s.dupHere core then core else buddyOf core)) (blockTime bs)
  else if s.level c == 1 || s.level c == 3 then s.chargeSamples c core bs
  else s

/-- The checksums of the fragment-blocks, where the core's position makes them (R508). -/
def State.chargeSums (s : State) (c core : Nat) (bs : List FragBlock) : State :=
  match s.posOf core with
  | some pos => if s.sumChecks c pos then bs.foldl (fun s b => s.chargeSum core pos b) s else s
  | none => s

/-- CORE_ABUSY for the fragment-blocks that an MMA of a context dispatches, and for their checks (R85, R99, R505 to R508). -/
def State.chargeArrays (s : State) (c core : Nat) (bs : List FragBlock) : State :=
  ((s.wrap64 (Reg.coreAbusy core) (blockTime bs)).chargeSecond c core bs).chargeSums c core bs

end Sys2Proof.Machine
end

