-- ==== Sys2Proof/Machine/Formats.lean ====
section
/-!
DEFINITION. The thirteen number formats (chapter 4, R100 to R120): codes, exact values, rounding, conversion,
MX block encoding and the stochastic draw. Values are exact dyadic numbers; a result is rounded once.
-/
namespace Sys2Proof

/-- The formats of R100. -/
inductive Fmt where
  | fp32 | fp16 | bf16 | e4m3 | e5m2 | e3m2 | e2m3 | e2m1 | int8 | int4 | int32 | e8m0 | cb4
  deriving DecidableEq, Repr

/-- Format of a one-byte code; 0 and 14 to 255 name none (R100). -/
def Fmt.ofCode (n : Nat) : Option Fmt :=
  match n with
  | 1 => some .fp32 | 2 => some .fp16 | 3 => some .bf16 | 4 => some .e4m3 | 5 => some .e5m2
  | 6 => some .e3m2 | 7 => some .e2m3 | 8 => some .e2m1 | 9 => some .int8 | 10 => some .int4
  | 11 => some .int32 | 12 => some .e8m0 | 13 => some .cb4
  | _ => none

/-- Code of a format (R100). -/
def Fmt.code : Fmt → Nat
  | .fp32 => 1 | .fp16 => 2 | .bf16 => 3 | .e4m3 => 4 | .e5m2 => 5 | .e3m2 => 6 | .e2m3 => 7
  | .e2m1 => 8 | .int8 => 9 | .int4 => 10 | .int32 => 11 | .e8m0 => 12 | .cb4 => 13

/-- Bits per element (R100). -/
def Fmt.bits : Fmt → Nat
  | .fp32 => 32 | .int32 => 32
  | .fp16 => 16 | .bf16 => 16
  | .e4m3 => 8 | .e5m2 => 8 | .int8 => 8 | .e8m0 => 8
  | .e3m2 => 6 | .e2m3 => 6
  | .e2m1 => 4 | .int4 => 4 | .cb4 => 4

/-- Elements per tile (R125). -/
def Fmt.perTile : Fmt → Nat
  | .fp32 => 1024 | .int32 => 1024
  | .fp16 => 2048 | .bf16 => 2048
  | .e4m3 => 4096 | .e5m2 => 4096 | .int8 => 4096 | .e8m0 => 4096 | .e3m2 => 4096 | .e2m3 => 4096
  | .e2m1 => 8192 | .int4 => 8192 | .cb4 => 8192

/-- The layout of a floating-point format (R101). `maxMag` is the code of the largest finite magnitude. -/
structure FpLayout where
  ebits : Nat
  mbits : Nat
  bias : Nat
  maxMag : Nat
  hasInf : Bool
  /-- The canonical NaN, where the format has a NaN. -/
  nan : Option Nat
  deriving DecidableEq, Repr

/-- R101. -/
def Fmt.layout : Fmt → Option FpLayout
  | .fp32 => some ⟨8, 23, 127, 0x7F7FFFFF, true, some 0x7FC00000⟩
  | .fp16 => some ⟨5, 10, 15, 0x7BFF, true, some 0x7E00⟩
  | .bf16 => some ⟨8, 7, 127, 0x7F7F, true, some 0x7FC0⟩
  | .e4m3 => some ⟨4, 3, 7, 0x7E, false, some 0x7F⟩
  | .e5m2 => some ⟨5, 2, 15, 0x7B, true, some 0x7E⟩
  | .e3m2 => some ⟨3, 2, 3, 0x1F, false, none⟩
  | .e2m3 => some ⟨2, 3, 1, 0x1F, false, none⟩
  | .e2m1 => some ⟨2, 1, 1, 0x7, false, none⟩
  | .int8 | .int4 | .int32 | .e8m0 | .cb4 => none

/-- Width of a two's complement integer format (R103). -/
def Fmt.intBits : Fmt → Option Nat
  | .int8 => some 8 | .int4 => some 4 | .int32 => some 32
  | .fp32 | .fp16 | .bf16 | .e4m3 | .e5m2 | .e3m2 | .e2m3 | .e2m1 | .e8m0 | .cb4 => none

def Fmt.isInt (f : Fmt) : Bool := f.intBits.isSome

/-- FP16 or BF16. -/
def Fmt.half (f : Fmt) : Bool := f == .fp16 || f == .bf16
/-- The FP8, FP6 and FP4 formats. -/
def Fmt.small (f : Fmt) : Bool := f == .e4m3 || f == .e5m2 || f == .e3m2 || f == .e2m3 || f == .e2m1
/-- INT8 or INT4. -/
def Fmt.narrowInt (f : Fmt) : Bool := f == .int8 || f == .int4

/-- The exact value of an element: a NaN (no payload is kept, R102), an infinity, or `± mag · 2^exp`. -/
inductive Val where
  | nan
  | inf (neg : Bool)
  | num (neg : Bool) (mag : Nat) (exp : Int)
  deriving DecidableEq, Repr

def Val.zero : Val := .num false 0 0
def Val.isNan : Val → Bool | .nan => true | _ => false
def Val.isInf : Val → Bool | .inf _ => true | _ => false
def Val.isZero : Val → Bool | .num _ m _ => m == 0 | _ => false
def Val.isNeg : Val → Bool | .nan => false | .inf s => s | .num s _ _ => s

/-- The value of an integer. -/
def Val.ofInt (i : Int) : Val := .num (i < 0) i.natAbs 0

/-- Value times `2^k`. -/
def Val.scale (v : Val) (k : Int) : Val :=
  match v with
  | .num s m e => .num s m (e + k)
  | _ => v

def Val.neg (v : Val) : Val :=
  match v with
  | .nan => .nan
  | .inf s => .inf (!s)
  | .num s m e => .num (!s) m e

/-- Decode a floating-point code (R101). -/
def FpLayout.decode (l : FpLayout) (code : Nat) : Val :=
  let neg := bitAt code (l.ebits + l.mbits)
  let mag := code % 2 ^ (l.ebits + l.mbits)
  let e := mag >>> l.mbits
  let m := mag % 2 ^ l.mbits
  if mag > l.maxMag then
    if l.hasInf && m == 0 then .inf neg else .nan
  else if e == 0 then .num neg m (1 - (l.bias : Int) - l.mbits)
  else .num neg (2 ^ l.mbits + m) ((e : Int) - l.bias - l.mbits)

/-- Decode an element of a format other than CB4, whose value needs its codebook record (R101, R103, R104, R106). -/
def Fmt.decode (f : Fmt) (code : Nat) : Val :=
  match f.layout with
  | some l => l.decode code
  | none =>
    match f.intBits with
    | some w => .ofInt (toSigned w code)
    | none => if code % 256 == 255 then .nan else .num false 1 ((code % 256 : Nat) - 127)

/-- The value of a CB4 element: entry × row scale, exactly (R106). An element that is NaN because one factor is infinite and the other 0
counts as a NaN input outside an MMA, and sets no flag there (DESIGN CHOICE, log entry 36). -/
def cb4Value (entry scale : Nat) : Val :=
  match Fmt.fp16.decode entry, Fmt.fp16.decode scale with
  | .nan, _ => .nan
  | _, .nan => .nan
  | .inf s, v => if v.isZero then .nan else .inf (s != v.isNeg)
  | v, .inf s => if v.isZero then .nan else .inf (s != v.isNeg)
  | .num s m e, .num s' m' e' => .num (s != s') (m * m') (e + e')

/-- How a conversion rounds: to nearest even, or stochastically with a 24-bit draw (R112, R119). -/
inductive Rounding where
  | rne
  | sr (u : Nat)
  deriving DecidableEq, Repr

/-- Keep `mag` in units of `2^shift`, rounding: the kept integer and whether anything was lost (R113, R119). -/
def roundShift (mode : Rounding) (mag shift : Nat) : Nat × Bool :=
  let kept := mag >>> shift
  let rem := mag % 2 ^ shift
  let up :=
    match mode with
    | .rne => decide (2 * rem > 2 ^ shift) || (2 * rem == 2 ^ shift && rem != 0 && kept % 2 == 1)
    | .sr u => decide (u < (rem <<< 24) >>> shift)
  (if rem != 0 && up then kept + 1 else kept, rem != 0)

/-- Round `mag · 2^exp` to the layout with an unbounded exponent range above: the magnitude code, which may exceed
`maxMag`, whether it is inexact, and whether a non-zero value lay below the smallest normal (R110, R113). -/
def FpLayout.roundMag (l : FpLayout) (mode : Rounding) (mag : Nat) (exp : Int) : Nat × Bool × Bool :=
  if mag == 0 then (0, false, false) else
  let emin : Int := 1 - (l.bias : Int)
  let lead : Int := (Nat.log2 mag : Int) + exp
  let e : Int := if lead < emin then emin else lead
  let q : Int := e - l.mbits
  let (kept, lost) :=
    if q ≤ exp then (mag <<< (exp - q).toNat, false) else roundShift mode mag (q - exp).toNat
  (((e - emin).toNat <<< l.mbits) + kept, lost, decide (lead < emin))

/-- Sign bit placed over a magnitude code. -/
def FpLayout.withSign (l : FpLayout) (neg : Bool) (mag : Nat) : Nat :=
  mag + (neg.toNat <<< (l.ebits + l.mbits))

/-- The code of infinity in a layout that has one. -/
def FpLayout.infCode (l : FpLayout) (neg : Bool) : Nat := l.withSign neg (l.maxMag + 1)

/-- Round to a floating-point format, with the outcomes of R113 and R114. -/
def FpLayout.encode (l : FpLayout) (mode : Rounding) (sat : Bool) (v : Val) : Flagged Nat :=
  match v with
  | .nan =>
    match l.nan with
    | some c => (c, Flags.none)
    | none => (0, Flags.iv)
  | .inf neg =>
    if l.hasInf then (l.infCode neg, Flags.none)
    else if l.nan.isNone || sat then (l.withSign neg l.maxMag, Flags.sa)
    else (l.nan.getD 0, Flags.iv)
  | .num neg mag exp =>
    let (code, lost, tiny) := l.roundMag mode mag exp
    if code > l.maxMag then
      let fl := Flags.of ||| Flags.ix
      if l.nan.isNone || sat then (l.withSign neg l.maxMag, fl ||| Flags.sa)
      else if l.hasInf then (l.infCode neg, fl)
      else (l.nan.getD 0, fl ||| Flags.iv)
    else (l.withSign neg code, Flags.when lost Flags.ix ||| Flags.when (lost && tiny) Flags.uf)

/-- Clamp an integer into `w`-bit two's complement; the flag says whether it was clamped. -/
def clampInt (w : Nat) (i : Int) : Int × Bool :=
  let hi : Int := (2 ^ (w - 1) : Nat) - 1
  let lo : Int := -(2 ^ (w - 1) : Nat)
  if i > hi then (hi, true) else if i < lo then (lo, true) else (i, false)

/-- Round `mag · 2^exp` to an integer by RNE (R115). -/
def roundInt (mag : Nat) (exp : Int) : Nat × Bool :=
  if exp ≥ 0 then (mag <<< exp.toNat, false) else roundShift .rne mag (-exp).toNat

/-- Conversion to an integer format (R114, R115). -/
def encodeInt (w : Nat) (v : Val) : Flagged Nat :=
  match v with
  | .nan => (0, Flags.iv)
  | .inf neg => (ofSigned w (if neg then -(2 ^ (w - 1) : Nat) else (2 ^ (w - 1) : Nat) - 1), Flags.sa)
  | .num neg mag exp =>
    let (n, lost) := roundInt mag exp
    let (i, clamped) := clampInt w (if neg then -(n : Int) else n)
    (ofSigned w i,
      Flags.when lost Flags.ix ||| Flags.when clamped (Flags.of ||| Flags.ix ||| Flags.sa))

/-- Conversion to E8M0 (R114, R116). -/
def encodeE8M0 (v : Val) : Flagged Nat :=
  match v with
  | .nan => (255, Flags.none)
  | .inf _ => (255, Flags.iv)
  | .num _ mag exp =>
    if mag == 0 then (0, Flags.uf ||| Flags.ix) else
    let lead : Int := (Nat.log2 mag : Int) + exp
    if lead < -127 then (0, Flags.uf ||| Flags.ix)
    else if lead > 127 then (254, Flags.of ||| Flags.ix ||| Flags.sa)
    else ((lead + 127).toNat, Flags.when (mag != 2 ^ Nat.log2 mag) Flags.ix)

/-- The letters of the conversion matrix (R118). -/
inductive ConvKind where
  /-- `=`: copies, NaNs canonical. -/
  | same
  /-- E: exact; infinities and NaNs map to the destination's own. -/
  | exact
  /-- R: rounded under RND and SAT. -/
  | round
  /-- I: to integer. -/
  | toInt
  /-- K: to E8M0. -/
  | toScale
  /-- X: ILLEGAL_INSTR. -/
  | illegal
  deriving DecidableEq, Repr

/-- Rows of R118 for the floating destinations that are exact; every other floating destination rounds. -/
def Fmt.exactTargets : Fmt → List Fmt
  | .fp32 => []
  | .fp16 => [.fp32]
  | .bf16 => [.fp32]
  | .e4m3 => [.fp32, .fp16, .bf16]
  | .e5m2 => [.fp32, .fp16, .bf16]
  | .e3m2 => [.fp32, .fp16, .bf16, .e4m3, .e5m2]
  | .e2m3 => [.fp32, .fp16, .bf16, .e4m3]
  | .e2m1 => [.fp32, .fp16, .bf16, .e4m3, .e5m2, .e3m2, .e2m3]
  | .int8 => [.fp32, .fp16, .bf16, .int32]
  | .int4 => [.fp32, .fp16, .bf16, .e4m3, .e5m2, .e3m2, .int8, .int32]
  | .int32 => []
  | .e8m0 => [.fp32, .bf16]
  | .cb4 => [.fp32]

/-- The conversion matrix (R118). -/
def convKind (src dst : Fmt) : ConvKind :=
  if dst = .cb4 then .illegal
  else if src = dst then .same
  else if src.exactTargets.contains dst then .exact
  else if dst = .e8m0 then .toScale
  else if dst.isInt then .toInt
  else .round

/-- Encode an exact value in a destination format under RND and SAT (R113 to R116); CB4 is never a destination. -/
def Fmt.encode (dst : Fmt) (mode : Rounding) (sat : Bool) (v : Val) : Flagged Nat :=
  match dst.layout with
  | some l => l.encode mode sat v
  | none =>
    match dst.intBits with
    | some w => encodeInt w v
    | none => encodeE8M0 v

/-- Convert one element whose exact value is `v` and whose code is `code` (R118). -/
def convert (src dst : Fmt) (mode : Rounding) (sat : Bool) (code : Nat) (v : Val) : Flagged Nat :=
  match convKind src dst with
  | .same => if v.isNan then ((dst.encode .rne false .nan).1, Flags.none) else (code, Flags.none)
  | .exact => dst.encode .rne false v
  | .round => dst.encode mode sat v
  | .toInt => dst.encode .rne sat v
  | .toScale => dst.encode .rne sat v
  | .illegal => (0, Flags.none)

/-- Stochastic-rounding targets: the floating-point formats other than FP32 (R112). -/
def Fmt.srTarget (f : Fmt) : Bool := f.layout.isSome && f != .fp32

/-- `floor(log2 |x|)` of a non-zero finite magnitude. -/
def floorLog2 (mag : Nat) (exp : Int) : Int := (Nat.log2 mag : Int) + exp

/-- The exponent of the largest finite value of an MX element format (R117). -/
def Fmt.emax : Fmt → Int
  | .e4m3 => 8 | .e5m2 => 15 | .e3m2 => 4 | .e2m3 => 2 | .e2m1 => 2 | .int4 => 2
  | .fp32 | .fp16 | .bf16 | .int8 | .int32 | .e8m0 | .cb4 => 0

/-- The formats an MX-scaled operand may have (R108). -/
def Fmt.mxElement : Fmt → Bool
  | .e4m3 | .e5m2 | .e3m2 | .e2m3 | .e2m1 | .int4 => true
  | .fp32 | .fp16 | .bf16 | .int8 | .int32 | .e8m0 | .cb4 => false

/-- `floor(log2 amax)` over a block, none when every element is zero. -/
def blockLog2 (vs : List Val) : Option Int :=
  vs.foldl (fun acc v =>
    match v with
    | .num _ m e =>
      if m == 0 then acc else
        match acc with
        | none => some (floorLog2 m e)
        | some a => some (if a < floorLog2 m e then floorLog2 m e else a)
    | _ => acc) none

/-- Encode one MX block: its E8M0 scale, its element codes and the flags (R117). Each element has its own rounding. -/
def encodeMxBlock (dst : Fmt) (sat : Bool) (vs : List (Val × Rounding)) : Nat × List Nat × Flags :=
  let anyNan := vs.any (·.1.isNan)
  let anyInf := vs.any (·.1.isInf)
  if anyNan || anyInf then
    (255, vs.map fun _ => 0,
      Flags.when anyNan Flags.iv ||| Flags.when anyInf (Flags.of ||| Flags.iv))
  else
    match blockLog2 (vs.map (·.1)) with
    | none => (127, vs.map fun p => (dst.encode .rne sat p.1).1, Flags.none)
    | some lg =>
      let e : Int := lg - dst.emax + 127
      let e : Int := if e < 0 then 0 else if e > 254 then 254 else e
      let rs := vs.map fun p => dst.encode p.2 sat (p.1.scale (127 - e))
      (e.toNat, rs.map (·.1), rs.foldl (fun f p => f ||| p.2) Flags.none)

/-- `mix` of R120, modulo `2^64`. -/
def srMix (z : Word64) : Word64 :=
  let z := (z ^^^ (z >>> 30)) * 0xBF58476D1CE4E5B9#64
  let z := (z ^^^ (z >>> 27)) * 0x94D049BB133111EB#64
  z ^^^ (z >>> 31)

/-- `draw` of R120: the 24-bit draw of an element. -/
def srDraw (seed : Word64) (ordinal index : Nat) : Nat :=
  let k := srMix (seed + 0x9E3779B97F4A7C15#64 * BitVec.ofNat 64 (ordinal + 1))
  let r := srMix (k ^^^ BitVec.ofNat 64 index)
  (r >>> 40).toNat

end Sys2Proof
end

