-- ==== Sys2Proof/Machine/Arith.lean ====
section
/-!
DEFINITION. Exact sums and products and the correctly rounded FP32 operations of the arrays and of Shape
(R38 to R44, R121 to R124).
-/
namespace Sys2Proof

/-- FP32 layout. -/
def fp32 : FpLayout := ⟨8, 23, 127, 0x7F7FFFFF, true, some 0x7FC00000⟩

/-- The value of an FP32 word. -/
def f32Val (w : Word32) : Val := fp32.decode w.toNat

/-- Round an exact value to FP32 by RNE without saturation (R38, R124). -/
def f32Round (v : Val) : Flagged Word32 :=
  let (c, fl) := fp32.encode .rne false v
  (BitVec.ofNat 32 c, fl)

/-- The NaN every reduction and Shape operation produces (R40, R102). -/
def f32Nan : Word32 := 0x7FC00000#32
def f32PosInf : Word32 := 0x7F800000#32
def f32One : Word32 := 0x3F800000#32

/-- Exact sum of signed dyadics as one dyadic: numerator over the least exponent. -/
def exactSum (l : List (Bool × Nat × Int)) : Int × Int :=
  let e := l.foldl (fun (a : Option Int) p =>
    match a with
    | none => some p.2.2
    | some x => some (if p.2.2 < x then p.2.2 else x)) none
  let e := e.getD 0
  (l.foldl (fun acc p =>
    let t : Int := ((p.2.1 <<< (p.2.2 - e).toNat : Nat) : Int)
    if p.1 then acc - t else acc + t) 0, e)

/-- The value `i · 2^e`, +0 for an exact zero (R40). -/
def Val.ofDyadic (i : Int) (e : Int) : Val := .num (i < 0) i.natAbs e

/-- Exact product; the flag IV marks infinity × 0 (R40, R110). -/
def Val.mul (a b : Val) : Flagged Val :=
  match a, b with
  | .nan, _ => (.nan, Flags.none)
  | _, .nan => (.nan, Flags.none)
  | .inf s, v => if v.isZero then (.nan, Flags.iv) else (.inf (s != v.isNeg), Flags.none)
  | v, .inf s => if v.isZero then (.nan, Flags.iv) else (.inf (s != v.isNeg), Flags.none)
  | .num s m e, .num s' m' e' => (.num (s != s') (m * m') (e + e'), Flags.none)

/-- Exact sum of two values under IEEE 754 (zero signs for RNE); IV marks infinities of opposite signs (R40). -/
def Val.add (a b : Val) : Flagged Val :=
  match a, b with
  | .nan, _ => (.nan, Flags.none)
  | _, .nan => (.nan, Flags.none)
  | .inf s, .inf s' => if s == s' then (.inf s, Flags.none) else (.nan, Flags.iv)
  | .inf s, .num .. => (.inf s, Flags.none)
  | .num .., .inf s => (.inf s, Flags.none)
  | .num s m e, .num s' m' e' =>
    let (i, x) := exactSum [(s, m, e), (s', m', e')]
    if i = 0 then (.num (s && s' && m == 0 && m' == 0) 0 0, Flags.none)
    else (Val.ofDyadic i x, Flags.none)

/-- Round a flagged exact value to FP32. -/
def f32OfVal (p : Flagged Val) : Flagged Word32 :=
  let (w, fl) := f32Round p.1
  (w, p.2 ||| fl)

def f32Add (a b : Word32) : Flagged Word32 := f32OfVal ((f32Val a).add (f32Val b))
def f32Sub (a b : Word32) : Flagged Word32 := f32OfVal ((f32Val a).add (f32Val b).neg)
def f32Mul (a b : Word32) : Flagged Word32 := f32OfVal ((f32Val a).mul (f32Val b))

/-- Fused multiply-add `a × b + c`, rounded once (R124); infinity × 0 sets IV unless the addend is a NaN (R110). -/
def f32Fma (a b c : Word32) : Flagged Word32 :=
  let (p, f1) := (f32Val a).mul (f32Val b)
  let (r, f2) := p.add (f32Val c)
  f32OfVal (r, (if (f32Val c).isNan then Flags.none else f1) ||| f2)

/-- Division, correctly rounded (R124); DZ for a zero divisor under a finite non-zero dividend (R110). -/
def Val.div (a b : Val) : Flagged Val :=
  match a, b with
  | .nan, _ => (.nan, Flags.none)
  | _, .nan => (.nan, Flags.none)
  | .inf _, .inf _ => (.nan, Flags.iv)
  | .inf s, v => (.inf (s != v.isNeg), Flags.none)
  | v, .inf s => (.num (s != v.isNeg) 0 0, Flags.none)
  | .num s m e, .num s' m' e' =>
    if m' == 0 then
      if m == 0 then (.nan, Flags.iv) else (.inf (s != s'), Flags.dz)
    else
      let n := m <<< 64
      let q := n / m'
      let sticky := if n % m' == 0 then 0 else 1
      (.num (s != s') (2 * q + sticky) (e - e' - 65), Flags.none)

def f32Div (a b : Word32) : Flagged Word32 := f32OfVal ((f32Val a).div (f32Val b))

/-- Integer square root by bisection on the bits of the result; `k` bits are tried from the top. -/
def isqrtGo (n : Nat) : Nat → Nat → Nat
  | 0, r => r
  | k + 1, r =>
    let t := r + 2 ^ k
    isqrtGo n k (if t * t ≤ n then t else r)

/-- `⌊√n⌋`. -/
def isqrt (n : Nat) : Nat := isqrtGo n (Nat.log2 n / 2 + 1) 0

/-- Square root, with a sticky last bit (R124); of a negative non-zero value: NaN with IV (R110). -/
def Val.sqrt (a : Val) : Flagged Val :=
  match a with
  | .nan => (.nan, Flags.none)
  | .inf s => if s then (.nan, Flags.iv) else (.inf false, Flags.none)
  | .num s m e =>
    if m == 0 then (.num s 0 0, Flags.none)
    else if s then (.nan, Flags.iv)
    else
      let (m, e) := if e % 2 == 0 then (m, e) else (2 * m, e - 1)
      let n := m <<< 64
      let r := isqrt n
      let sticky := if r * r == n then 0 else 1
      (.num false (2 * r + sticky) (e / 2 - 33), Flags.none)

def f32Sqrt (a : Word32) : Flagged Word32 := f32OfVal (f32Val a).sqrt

/-- Order of two non-NaN values, with +0 greater than −0 (R43). -/
def Val.lt (a b : Val) : Bool :=
  match a, b with
  | .nan, _ => false
  | _, .nan => false
  | .inf s, .inf s' => s && !s'
  | .inf s, .num .. => s
  | .num .., .inf s => !s
  | .num s m e, .num s' m' e' =>
    let i := (exactSum [(s, m, e), (!s', m', e')]).1
    if i = 0 then (m == 0 && s && !s') else decide (i < 0)

/-- Numeric order of two values; −0 equals +0 and a NaN is unordered. -/
def Val.ltNum (a b : Val) : Bool := a.lt b && !(a.isZero && b.isZero)
def Val.eqNum (a b : Val) : Bool :=
  !a.isNan && !b.isNan && ((!a.lt b && !b.lt a) || (a.isZero && b.isZero))

/-- The exact sum of one block's products, rounded once to FP32 (R38, R40). -/
def blockSum (ps : List (Val × Val)) : Flagged Word32 :=
  let prods := ps.map fun p => p.1.mul p.2
  let posInf := prods.any fun p => match p.1 with | .inf s => !s | _ => false
  let negInf := prods.any fun p => match p.1 with | .inf s => s | _ => false
  let iv := prods.any (fun p => p.2 == Flags.iv) || (posInf && negInf)
  let nan := prods.any (·.1.isNan) || (posInf && negInf)
  let fl := Flags.when iv Flags.iv
  if nan then (f32Nan, fl)
  else if posInf then (0x7F800000#32, fl)
  else if negInf then (0xFF800000#32, fl)
  else
    let terms := prods.filterMap fun p => match p.1 with | .num s m e => some (s, m, e) | _ => none
    let (i, e) := exactSum terms
    let (w, f2) := f32Round (if i = 0 then .zero else Val.ofDyadic i e)
    (w, fl ||| f2)

/-- Cut a list into blocks of `n`; `fuel` bounds their number. -/
def chunks {α : Type} (n : Nat) : Nat → List α → List (List α)
  | 0, _ => []
  | fuel + 1, l => if l.isEmpty then [] else l.take n :: chunks n fuel (l.drop n)

/-- One output element of an MMA: blocks of `bs` added in ascending K order to `c` (R39). -/
def mmaElement (bs : Nat) (c : Word32) (ps : List (Val × Val)) : Flagged Word32 :=
  (chunks bs (ps.length + 1) ps).foldl (fun acc blk =>
    let (s, f1) := blockSum blk
    let (r, f2) := f32Add acc.1 s
    (r, acc.2 ||| f1 ||| f2)) (c, Flags.none)

/-- One output element of an integer MMA with an INT32 destination: the exact sum, saturated once (R41). -/
def mmaIntElement (c : Word32) (ps : List (Int × Int)) : Flagged Word32 :=
  let t : Int := ps.foldl (fun a p => a + p.1 * p.2) (toSigned 32 c.toNat)
  let (i, cl) := clampInt 32 t
  (BitVec.ofNat 32 (ofSigned 32 i), Flags.when cl (Flags.sa ||| Flags.ix ||| Flags.of))

/-- Largest power of two less than `n`, for `n ≥ 2` (R42). -/
def treeSplit (n : Nat) : Nat := 2 ^ Nat.log2 (n - 1)

/-- The canonical tree over a non-empty list (R42), with `fuel` at least the depth of the tree. -/
def treeSum (op : Word32 → Word32 → Flagged Word32) : Nat → List Word32 → Flagged Word32
  | 0, l => (l.headD 0#32, Flags.none)
  | fuel + 1, l =>
    if l.length ≤ 1 then (l.headD 0#32, Flags.none)
    else
      let m := treeSplit l.length
      let a := treeSum op fuel (l.take m)
      let b := treeSum op fuel (l.drop m)
      let r := op a.1 b.1
      (r.1, a.2 ||| b.2 ||| r.2)

/-- A NaN word becomes the canonical NaN (R40, R102). -/
def f32Canon (w : Word32) : Word32 := if (f32Val w).isNan then f32Nan else w

/-- Canonical tree of FP32 words (R42); any NaN result is the canonical NaN. -/
def f32Tree (l : List Word32) : Flagged Word32 :=
  let r := treeSum f32Add (Nat.log2 l.length + 2) l
  (f32Canon r.1, r.2)

/-- INT32 addition modulo 2^32 (R44). -/
def i32Add (a b : Word32) : Flagged Word32 := (a + b, Flags.none)

end Sys2Proof
end

