-- ==== Sys2Proof/Machine/Generation.lean ====
section
/-!
DEFINITION. Threshold generations of a context and of each of its cores (R204, R258), and what their completion drops.
-/
namespace Sys2Proof.Machine
open Sys2Proof

/-- A staged copy is of T3, or is a line of the read cache, whose key lies beyond tensor space (R258, R407). -/
def remoteCopy (a : Nat) : Bool :=
  match region a with
  | .t3 .. => true
  | .hole => decide (2 ^ 44 ≤ a)
  | .t0 .. => false
  | .t1 .. => false
  | .t2 _ => false

/-- Drop staged copies: one that an unretired instruction holds drops when that retires (R258, R408). -/
def State.dropCopies (s : State) (core c : Nat) (which : Nat → Bool) : State :=
  let p := s.pool core c
  let tiles := p.tiles.filterMap fun y =>
    if !which y.addr then some y
    else if y.holders.isEmpty then none
    else some { y with stale := true }
  s.setPool core c { p with tiles := tiles }

/-- A declared task has started and has neither halted nor faulted (R204). -/
def State.liveDecl (s : State) (d : TaskDecl) : Bool :=
  match d.phase with
  | .notStarted => false
  | .parked => true
  | .restoring => true
  | .live =>
    match s.task? d.core d.slot with
    | none => false
    | some t => t.state != .halted && t.state != .faulted

def least? : List Nat → Option Nat
  | [] => none
  | a :: l => some (l.foldl min a)

/-- Recompute a context's completed generations after a threshold, a HALT or a fault; a core that completes one drops its T3
copies (R204, R258). -/
def State.thrUpdate (s : State) (c : Nat) : State :=
  let x := s.ctx c
  let live := x.tasks.filter s.liveDecl
  let done : Nat := match least? (live.map (·.thresholds)) with
    | some m => m
    | none => x.tasks.foldl (fun m d => max m d.thresholds) 0
  let g := max x.gen done
  let coreGen (core : Nat) : Nat :=
    max (SMap.getD x.coreGens core 0)
      ((least? ((live.filter (·.core == core)).map (·.thresholds))).getD g)
  let cores := (x.members.map (·.core)).eraseDups
  let risen := cores.filter fun k => SMap.getD x.coreGens k 0 < coreGen k
  let s := s.setCtx c { x with
    gen := g
    creditMode := if x.gen < g then s.flag (Fld.migCtxCtrlCredit c) else x.creditMode
    coreGens := risen.foldl (fun m k => SMap.put m k (coreGen k)) x.coreGens }
  let s := if x.gen < g then s.put (Fld.synThrGenGen c) (g % 2 ^ 16) else s
  risen.foldl (fun s k => s.dropCopies k c remoteCopy) s

/-- The `n`-th threshold of a context, modulo 2^16, is the hold generation of its SWAP (R304). -/
def State.holdsAt (s : State) (c n : Nat) : Bool :=
  match (s.lvr c).swap with
  | some w => (w.phase == 1 || w.phase == 2) && w.gen == some (n % 2 ^ 16)
  | none => false

/-- A task leaves its slot's PIN copies as STAGE copies (R255). -/
def State.unpin (s : State) (core slot c : Nat) : State :=
  let p := s.pool core c
  s.setPool core c { p with tiles := p.tiles.map fun y => { y with pins := y.pins.filter (· != slot) } }

/-- The index of the declaration of the task in a slot. -/
def State.declIx (s : State) (c core slot : Nat) : Option Nat :=
  (s.ctx c).tasks.findIdx? fun d => d.core == core && d.slot == slot &&
    (match s.task? core slot with | some t => t.num == d.num && t.leaf == d.leaf | none => false)

/-- Change a declared task. -/
def State.modDecl (s : State) (c i : Nat) (f : TaskDecl → TaskDecl) : State :=
  let x := s.ctx c
  s.setCtx c { x with tasks := x.tasks.modify i f }

/-- The threshold that a task executes next is the one a SWAP holds the context at (R304). -/
def State.heldTask (s : State) (c core slot : Nat) : Bool :=
  match s.declIx c core slot with
  | none => false
  | some i => s.holdsAt c ((((s.ctx c).tasks[i]?).elim 0 (·.thresholds)) + 1)

/-- The generations of a threshold, or of a casement's barrier, that a declared task has completed (R204, R208). -/
def TaskDecl.passed (d : TaskDecl) : Wait → Nat
  | .threshold => d.thresholds
  | .barrier n => SMap.getD d.barriers n 0
  | .latch .. => 0
  | .inject .. => 0
  | .buffer _ => 0
  | .launch _ => 0
  | .lease => 0
  | .tiles _ => 0
  | .streamTiles .. => 0
  | .coll => 0
  | .collRoom _ => 0
  | .reissue _ => 0

/-- A declared task waits in its slot with `w` (R205: a stopped or pre-empted one does not). -/
def State.waitsAt (s : State) (d : TaskDecl) (w : Wait) : Bool :=
  d.phase == .live &&
    match s.task? d.core d.slot with
    | some t => t.state == .waiting && t.wait == some w
    | none => false

/-- The release that a declared task's wait belongs to has been named (R214). -/
def State.named (s : State) (c : Nat) (d : TaskDecl) : Bool :=
  (s.ctx c).releases.any fun r => s.waitsAt d r.wait && d.passed r.wait + 1 == r.gen

/-- A task has passed a casement's barrier (R208). -/
def State.passBarrier (n : Nat) (s : State) (core slot : Nat) : State :=
  match s.task? core slot with
  | none => s
  | some t =>
    match s.declIx t.ctx core slot with
    | some i => s.modDecl t.ctx i fun d => { d with barriers := SMap.put d.barriers n (SMap.getD d.barriers n 0 + 1) }
    | none => s

/-- A task has completed a threshold: it is counted, its endpoints move to the next layer, its PIN copies are freed (R203,
R204, R255). -/
def State.passThreshold (s : State) (core slot : Nat) : State :=
  match s.task? core slot with
  | none => s
  | some t =>
    let s := match s.declIx t.ctx core slot with
      | some i => s.modDecl t.ctx i fun d => { d with thresholds := d.thresholds + 1 }
      | none => s
    let s := { s with cores.eps := s.cores.eps.map fun (p : Nat × Endpoint) =>
      if p.1 / 256 == core && s.get (Fld.strCfgOwner p.1) == slot && s.get (Fld.strCfgContext p.1) == t.ctx then
        (p.1, { p.2 with layer := p.2.layer + 1 }) else p }
    (s.unpin core slot t.ctx).thrUpdate t.ctx

end Sys2Proof.Machine
end

