-- ==== Sys2Proof/Machine/Issue.lean ====
section
/-!
DEFINITION. Issuing one instruction of a task: the checks of R139 in order, the guard (R137), and what each way of ending
does to the task (R140, R93, R96).
-/
namespace Sys2Proof.Machine
open Sys2Proof

/-- The instruction that issues, as its meaning sees it. -/
structure Cx where
  core : Nat
  slot : Nat
  /-- Context of the task. -/
  c : Nat
  word : Nat
  ext : Nat
  t : Task

/-- How an instruction ends without retiring. -/
inductive Stop where
  /-- ILLEGAL_INSTR with a cause of R139; `misuse`: also counted in the partition's misuse counter (R244). -/
  | ill (cause : Nat) (misuse : Bool)
  /-- BAD_HANDLE (R25). -/
  | handle
  /-- Poison at an observing use: kind, register file and index of R523. -/
  | poison (kind file index : Nat)
  /-- LATCH_OVERRUN (R194): endpoint, count, TAKEN. -/
  | overrun (ep n taken : Nat)
  /-- The task waits and yields (R93). -/
  | wait (w : Wait)
  /-- The instruction does not issue yet; nothing changes (R86, R144, R194). -/
  | hold

/-- How an instruction ends when it runs. -/
inductive Next where
  /-- It retires and the PC moves past it. -/
  | retire (s : State)
  /-- It retires and the PC takes a target (R183). -/
  | jump (s : State) (pc : Nat)
  /-- The PC stays on it: a resumable instruction with units left, or a task that ended (R174, R147). -/
  | stay (s : State)

abbrev Chk (α : Type) := Except Stop α

def need (ok : Bool) (e : Stop) : Chk Unit := if ok then .ok () else .error e

def badPc : Stop := .ill 1 false
def rsvdEnum : Stop := .ill 5 false
def badDesc : Stop := .ill 6 false
def badFormat : Stop := .ill 7 false
def badShape : Stop := .ill 8 false
def badAcc : Stop := .ill 9 false

/-- What the opcode map and the field lists say of an opcode (R138, R150). -/
structure OpSpec where
  op : Nat
  /-- The opcode requires an extension word. -/
  ext : Bool
  /-- Every reserved field of the word and its extension is 0 (R135), given the word and the extension. -/
  rsvd : Nat → Nat → Bool
  /-- No used field holds a reserved value (R139 cause 5). -/
  enum : Nat → Nat → Bool

/-- The 64-bit word of an issue: the row's OP over the body. -/
def issueBits (i : Issue) (op : Nat) : Nat := op * 2 ^ 56 + i.body.toNat

def wordExt (w : Nat) : Bool := bitAt w 50
def wordPred (w : Nat) : Nat := field w 52 4
def wordPneg (w : Nat) : Bool := bitAt w 51

/-- The PC breaks R128: misaligned, or a word of the instruction outside the code region. -/
def State.pcBad (s : State) (c pc : Nat) (ext : Bool) : Bool :=
  let x := s.ctx c
  pc % 8 != 0 || pc < x.codeBase || x.codeBase + x.codeLen < pc + (if ext then 16 else 8)

/-- The first word at a PC can be read (R140). -/
def State.pcReadable (s : State) (c pc : Nat) : Bool := !s.pcBad c pc false

/-- A task's exception: FAULTED with its cause, and the event of R140. `cause` 0 is BAD_HANDLE. -/
def State.taskFault (s : State) (core slot cause word ext : Nat) : State :=
  match s.task? core slot with
  | none => s
  | some t =>
    let read := !(cause == 1 && !s.pcReadable t.ctx t.pc.toNat)
    let w := if read then word else 0
    let e := if read && wordExt word && cause != 1 then ext else 0
    let s := s.setTask core slot { t with
      state := .faulted
      stopCause := if cause == 0 then 2 else 1
      illCause := cause
      wait := none
      run := none
      faultWord := BitVec.ofNat 64 w
      faultExt := BitVec.ofNat 64 e }
    let s := s.raiseCtx (srcTask core slot) (if cause == 0 then 0x0101 else 0x0100) 3 t.ctx w
      (cause * 2 ^ 48 + slot * 2 ^ 44 + t.pc.toNat)
    let s := s.thrUpdate t.ctx
    if s.faultSpreads t.ctx t.leaf then s.faultCtx t.ctx (if cause == 0 then 2 else 1) t.leaf else s

/-- Poison at an observing use of a task: the task keeps cause 3 and its context faults (R96, R522, R523). -/
def State.poisonFault (s : State) (core slot kind file index word ext : Nat) : State :=
  match s.task? core slot with
  | none => s
  | some t =>
    let s := s.setTask core slot { t with
      state := .faulted
      stopCause := 3
      wait := none
      run := none
      faultWord := BitVec.ofNat 64 word
      faultExt := BitVec.ofNat 64 (if wordExt word then ext else 0) }
    let s := s.raiseCtx (srcTask core slot) 0x0102 3 t.ctx
      (kind + file * 2 ^ 8 + index * 2 ^ 12 + t.leaf * 2 ^ 32) t.pc.toNat
    s.faultCtx t.ctx 3 t.leaf

/-- Issue priority of a slot (R99). -/
def State.prioOf (s : State) (core slot : Nat) : Nat := field (s.rd (Reg.corePrio core)) (2 * slot) 2

/-- Count an issued instruction and note the round-robin place (R77, R99). -/
def State.noteIssue (s : State) (core slot : Nat) : State :=
  let level := s.prioOf core slot
  let s := s.wrap64 (Reg.coreIssue core)
  { s with cores.lastIssue := SMap.put s.cores.lastIssue (4 * core + level) slot }

/-- A task that waits for staging joins its core's queue (R256). -/
def State.queueStage (s : State) (core slot : Nat) (w : Wait) : State :=
  match w with
  | .tiles _ =>
    let q := (SMap.getD s.cores.stageQueue core []).filter (· != slot) ++ [slot]
    { s with cores.stageQueue := SMap.put s.cores.stageQueue core q }
  | _ => s

/-- The task waits: WAITING with its condition, and the yield is counted (R93). -/
def State.taskWait (s : State) (core slot : Nat) (w : Wait) : State :=
  let s := s.modTask core slot fun t => { t with state := .waiting, wait := some w, waitStart := s.tick, causes := 0 }
  let s := s.queueStage core slot w
  let s := match w with
    | .threshold => s.closeBatches core slot
    | .barrier _ => s.closeBatches core slot
    | _ => s
  s.wrap64 (Reg.coreYield core)

/-- Move the task's PC past its instruction. -/
def State.advance (s : State) (core slot : Nat) (word : Nat) : State :=
  s.modTask core slot fun t =>
    { t with pc := t.pc + BitVec.ofNat 44 (if wordExt word then 16 else 8) }

/-- A slot is in a core's list. -/
def slotIn (m : SMap (List Nat)) (core slot : Nat) : Bool := (SMap.getD m core []).contains slot

/-- A core's list without a slot. -/
def slotOut (m : SMap (List Nat)) (core slot : Nat) : SMap (List Nat) :=
  SMap.putD m core ((SMap.getD m core []).filter (· != slot)) []

/-- The slot's turn is over: it leaves the slots that issue first, and its hazard is resolved. -/
def State.dropFirst (s : State) (core slot : Nat) : State :=
  { s with cores.first := slotOut s.cores.first core slot, cores.held := slotOut s.cores.held core slot }

/-- The slot's next instruction has an unresolved hazard (R86, R144, R194). -/
def State.markHeld (s : State) (core slot : Nat) : State :=
  if slotIn s.cores.held core slot then s
  else { s with cores.held := SMap.put s.cores.held core (slot :: SMap.getD s.cores.held core []) }

/-- A task of a RUNNING or DRAINING context may issue (R462). -/
def State.runs (s : State) (c : Nat) : Bool :=
  (s.ctxState c == ctxRunning || s.ctxState c == ctxDraining) && !s.faultWaits c

/-- The task could issue but for a hazard: it is READY, its context's tasks issue, no Virbael request of it is outstanding (R391), and
no unit of it is still being sent (R217). -/
def State.taskReady (s : State) (t : Task) : Bool :=
  t.state == .ready && s.runs t.ctx && t.request.isNone && !(t.run.any fun r => r.sending.isSome)

/-- A task slot is ready (R76). -/
def State.slotReady (s : State) (core slot : Nat) : Bool :=
  match s.task? core slot with
  | some t => s.taskReady t && !slotIn s.cores.held core slot
  | none => false

/-- Round-robin among the slots for which `p` holds: the first after `last` in ascending order, then from slot 0 (R77). -/
def nextAfter (last : Option Nat) (p : Nat → Bool) : Option Nat :=
  let l := (List.range 16).filter p
  match last.bind fun k => l.find? (k < ·) with
  | some k => some k
  | none => l.head?

/-- The slot that R77 takes: one that issues first (its parts 3, and R209), or by level and, within a level, round-robin. -/
def State.chosen (s : State) (core : Nat) : Option Nat :=
  match (SMap.getD s.cores.first core []).find? (s.slotReady core) with
  | some k => some k
  | none => [3, 2, 1, 0].findSome? fun level =>
      nextAfter (SMap.get? s.cores.lastIssue (4 * core + level)) fun k => s.slotReady core k && s.prioOf core k == level

/-- It is the slot's turn once its instruction is presented: the clocks run (R340), and the slot is the one that R77 takes, the hazard
of an instruction presented before aside. -/
def State.hasTurn (s : State) (core slot : Nat) : Bool :=
  s.flag Fld.timStatusPllLock &&
    { s with cores.held := slotOut s.cores.held core slot }.chosen core == some slot

/-- Count a retired instruction (R219). -/
def State.noteRetire (s : State) (core slot : Nat) : State :=
  s.modTask core slot fun t => { t with retired := t.retired + 1 }

def Next.state : Next → State
  | .retire s => s
  | .jump s _ => s
  | .stay s => s

/-- The instruction would send poisoned data to a stream peer on another module, an observing use before the group is sent
(R96, R522). -/
def poisonLeaves (s : State) (n : Next) : Bool :=
  (n.state.out.drop s.out.length).any fun o =>
    match o with
    | .group _ _ _ _ _ _ pz => !pz.isEmpty
    | _ => false

/-- Poison on its way off the module turns an instruction's end into its context's fault. -/
def guardRemote (s : State) (r : Chk Next) : Chk Next :=
  match r with
  | .ok n => if poisonLeaves s n then .error (.poison 7 0 0) else .ok n
  | .error e => .error e

/-- What the end of an instruction does to the machine. `s` is the state before it. -/
def State.conclude (s : State) (x : Cx) (r : Chk Next) : State :=
  match guardRemote s r with
  | .ok (.retire s') => ((s'.advance x.core x.slot x.word).noteRetire x.core x.slot).noteIssue x.core x.slot
  | .ok (.jump s' pc) =>
    let s' := s'.modTask x.core x.slot fun t => { t with pc := BitVec.ofNat 44 pc }
    (s'.noteRetire x.core x.slot).noteIssue x.core x.slot
  | .ok (.stay s') => s'.noteIssue x.core x.slot
  | .error (.ill cause mis) =>
    let s := if mis then s.misusePart (s.partOf x.c) else s
    (s.noteIssue x.core x.slot).taskFault x.core x.slot cause x.word x.ext
  | .error .handle => (s.noteIssue x.core x.slot).taskFault x.core x.slot 0 x.word x.ext
  | .error (.poison k f i) => (s.noteIssue x.core x.slot).poisonFault x.core x.slot k f i x.word x.ext
  | .error (.overrun ep n taken) =>
    let s := (s.noteIssue x.core x.slot).raiseCtx (srcTask x.core x.slot) 0x0103 3 x.c
      (ep + x.slot * 2 ^ 8 + n * 2 ^ 24) taken
    let s := s.put (Fld.strLatchOverrun (epKey x.core ep)) 1
    s.faultCtx x.c 5 x.t.leaf
  | .error (.wait w) => s.taskWait x.core x.slot w
  | .error .hold => s

/-- Causes 1 to 5 and the guard (R137, R139): none when the instruction is to execute. -/
def frontEnd (sp : OpSpec) (s : State) (x : Cx) : Option (Chk Next) :=
  if s.pcBad x.c x.t.pc.toNat (wordExt x.word) then some (.error badPc)
  else if wordExt x.word != sp.ext then some (.error (.ill 3 false))
  else if !sp.rsvd x.word x.ext then some (.error (.ill 4 false))
  else if !sp.enum x.word x.ext then some (.error rsvdEnum)
  else if x.t.predPoison (wordPred x.word) then some (.error (.poison 3 2 (wordPred x.word)))
  else if x.t.pred (wordPred x.word) == wordPneg x.word then some (.ok (.retire s))
  else none

/-- Issue one instruction word of a task: nothing happens unless it is the slot's turn (R76, R77), and no resumable instruction of the
task is between units. An instruction with an unresolved hazard leaves its task not ready (R76, R86). -/
def issueRaw (core slot word ext : Nat) (run : Cx → State → Chk Next) (s : State) : State :=
  match s.task? core slot with
  | none => s
  | some t =>
    if t.run.isSome || !s.hasTurn core slot then s
    else
      let x : Cx := ⟨core, slot, t.ctx, word, ext, t⟩
      let s1 := s.dropFirst core slot
      match run x s1 with
      | .error .hold => s.markHeld core slot
      | r => s1.conclude x r

def issueWord (sp : OpSpec) (core slot word ext : Nat) (body : Cx → State → Chk Next) (s : State) : State :=
  issueRaw core slot word ext (fun x s => (frontEnd sp s x).getD (body x s)) s

/-- The meaning of a row of the opcode map. -/
def issue (sp : OpSpec) (body : Cx → State → Chk Next) (i : Issue) (s : State) :
    Host.Outcome State Fault Refusal :=
  .next (issueWord sp i.core i.slot (issueBits i sp.op) i.ext.toNat body s)

/-! ## Fields of the word (R130 to R134) -/

def Cx.f (x : Cx) (lo w : Nat) : Nat := field x.word lo w
/-- Form S. -/
def Cx.immf (x : Cx) : Bool := bitAt x.word 49
def Cx.dst (x : Cx) : Nat := x.f 42 6
def Cx.srcA (x : Cx) : Nat := x.f 36 6
def Cx.srcB (x : Cx) : Nat := x.f 30 6
def Cx.imm36 (x : Cx) : Int := toSigned 36 x.word
/-- Forms T and V. -/
def Cx.rnd (x : Cx) : Nat := x.f 48 2
def Cx.sat (x : Cx) : Bool := bitAt x.word 47
def Cx.td (x : Cx) : Nat := x.f 42 5
def Cx.ta (x : Cx) : Nat := x.f 37 5
def Cx.tb (x : Cx) : Nat := x.f 32 5
def Cx.afmt (x : Cx) : Nat := x.f 28 4
def Cx.bfmt (x : Cx) : Nat := x.f 24 4
def Cx.dfmt (x : Cx) : Nat := x.f 20 4
def Cx.acc (x : Cx) : Nat := x.f 9 11
def Cx.mode (x : Cx) : Nat := x.f 6 3
def Cx.sreg (x : Cx) : Nat := x.f 0 6
def Cx.vc (x : Cx) : Nat := x.f 27 5
def Cx.vimmf (x : Cx) : Bool := bitAt x.word 26
def Cx.vsreg (x : Cx) : Nat := x.f 20 6
def Cx.vfunc (x : Cx) : Nat := x.f 16 4
def Cx.imm16 (x : Cx) : Nat := x.f 0 16
/-- Form Q. -/
def Cx.hnd (x : Cx) : Nat := x.f 46 4
def Cx.sa (x : Cx) : Nat := x.f 40 6
def Cx.sb (x : Cx) : Nat := x.f 34 6
def Cx.sd (x : Cx) : Nat := x.f 28 6
def Cx.qfunc (x : Cx) : Nat := x.f 24 4
def Cx.imm24 (x : Cx) : Nat := x.f 0 24
/-- Extension X-TEN. -/
def Cx.te (x : Cx) : Nat := field x.ext 59 5
def Cx.tf (x : Cx) : Nat := field x.ext 54 5
def Cx.sreg2 (x : Cx) : Nat := field x.ext 48 6

/-- A scalar operand's value. -/
def Cx.s (x : Cx) (i : Nat) : Nat := (x.t.reg i).toNat

/-- Bits of the word outside the listed (low, width) fields and the header are 0. -/
def onlyFields (fs : List (Nat × Nat)) (w : Nat) : Bool :=
  (fs.foldl (fun w f => setField w f.1 f.2 0) (w % 2 ^ 50)) == 0

/-- Write a scalar result. -/
def Cx.putS (x : Cx) (s : State) (i : Nat) (v : Nat) (poisoned : Bool) : State :=
  s.modTask x.core x.slot fun t => t.setReg i (BitVec.ofNat 64 v) poisoned

/-- Raise flags at retirement (R111). -/
def Cx.putFlags (x : Cx) (s : State) (f : Flags) : State :=
  s.modTask x.core x.slot fun t => { t with flags := t.flags ||| f }

end Sys2Proof.Machine
end

