-- ==== Sys2Proof/Machine/Scalar.lean ====
section
/-!
DEFINITION. The scalar, compare, predicate, branch, scalar memory and flag instructions (R183, opcodes 0x01 to 0x1B).
-/
namespace Sys2Proof.Machine
open Sys2Proof

/-! ## Operand forms of form S (R130, R183) -/

/-- DST, SRCA and B are used: with IMMF 0, bits [29:0] are reserved. -/
def rsvdAluB (w _e : Nat) : Bool :=
  !bitAt w 48 && (bitAt w 49 || field w 0 30 == 0)

/-- Every value of the used fields is defined. -/
def enumAny (_w _e : Nat) : Bool := true

/-- B: s[SRCB], or the sign-extended IMM36 modulo 2^64 (R183). -/
def Cx.opB (x : Cx) : Nat := if x.immf then ofSigned 64 x.imm36 else x.s x.srcB

def Cx.opBPoison (x : Cx) : Bool := !x.immf && x.t.regPoison x.srcB

/-- `s[DST] ← f (s[SRCA]) B`, with the poison of its inputs (R143, R183). -/
def aluBody (f : Nat → Nat → Nat) (x : Cx) (s : State) : Chk Next :=
  .ok (.retire (x.putS s x.dst (f (x.s x.srcA) x.opB) (x.t.regPoison x.srcA || x.opBPoison)))

def aluSpec (op : Nat) : OpSpec := ⟨op, false, rsvdAluB, enumAny⟩

/-- An opcode with no used field. -/
def rsvdNone (w _e : Nat) : Bool := onlyFields [] w

/-- NOP (R183). -/
def execNop (i : Issue) (s : State) : Host.Outcome State Fault Refusal :=
  issue ⟨0x01, false, rsvdNone, enumAny⟩ (fun _ s => .ok (.retire s)) i s

def execAdd (i : Issue) (s : State) : Host.Outcome State Fault Refusal :=
  issue (aluSpec 0x02) (aluBody fun a b => (a + b) % 2 ^ 64) i s

def execSub (i : Issue) (s : State) : Host.Outcome State Fault Refusal :=
  issue (aluSpec 0x03) (aluBody fun a b => (a + 2 ^ 64 - b) % 2 ^ 64) i s

def execMul (i : Issue) (s : State) : Host.Outcome State Fault Refusal :=
  issue (aluSpec 0x04) (aluBody fun a b => (a * b) % 2 ^ 64) i s

def execAnd (i : Issue) (s : State) : Host.Outcome State Fault Refusal :=
  issue (aluSpec 0x05) (aluBody fun a b => a &&& b) i s

def execOr (i : Issue) (s : State) : Host.Outcome State Fault Refusal :=
  issue (aluSpec 0x06) (aluBody fun a b => a ||| b) i s

def execXor (i : Issue) (s : State) : Host.Outcome State Fault Refusal :=
  issue (aluSpec 0x07) (aluBody fun a b => a ^^^ b) i s

/-- Shifts by B[5:0] (R183). -/
def execShl (i : Issue) (s : State) : Host.Outcome State Fault Refusal :=
  issue (aluSpec 0x08) (aluBody fun a b => (a <<< (b % 64)) % 2 ^ 64) i s

def execShr (i : Issue) (s : State) : Host.Outcome State Fault Refusal :=
  issue (aluSpec 0x09) (aluBody fun a b => a >>> (b % 64)) i s

/-- Arithmetic shift right of a 64-bit word. -/
def sra64 (a n : Nat) : Nat := ofSigned 64 (toSigned 64 a / (2 ^ (n % 64) : Nat))

def execSra (i : Issue) (s : State) : Host.Outcome State Fault Refusal :=
  issue (aluSpec 0x0A) (aluBody sra64) i s

/-- Signed minimum and maximum (R183). -/
def execMin (i : Issue) (s : State) : Host.Outcome State Fault Refusal :=
  issue (aluSpec 0x0B) (aluBody fun a b => if toSigned 64 a ≤ toSigned 64 b then a else b) i s

def execMax (i : Issue) (s : State) : Host.Outcome State Fault Refusal :=
  issue (aluSpec 0x0C) (aluBody fun a b => if toSigned 64 a ≤ toSigned 64 b then b else a) i s

/-- MOV copies the register with its poison (R183). -/
def movBody (x : Cx) (s : State) : Chk Next :=
  .ok (.retire (x.putS s x.dst (x.s x.srcA) (x.t.regPoison x.srcA)))

def execMov (i : Issue) (s : State) : Host.Outcome State Fault Refusal :=
  issue ⟨0x0D, false, fun w _ => onlyFields [(42, 6), (36, 6)] w, enumAny⟩ movBody i s

def ldiBody (x : Cx) (s : State) : Chk Next := .ok (.retire (x.putS s x.dst x.ext false))

def execLdi (i : Issue) (s : State) : Host.Outcome State Fault Refusal :=
  issue ⟨0x0E, true, fun w _ => onlyFields [(42, 6)] w, enumAny⟩ ldiBody i s

/-! ## Compares and predicate logic -/

/-- DST names a predicate: 0 to 15 (R135). -/
def enumPredDst (w _e : Nat) : Bool := field w 42 6 < 16

def Cx.putP (x : Cx) (s : State) (v poisoned : Bool) : State :=
  s.modTask x.core x.slot fun t => t.setPred x.dst v poisoned

def cmpBody (f : Nat → Nat → Bool) (x : Cx) (s : State) : Chk Next :=
  .ok (.retire (x.putP s (f (x.s x.srcA) x.opB) (x.t.regPoison x.srcA || x.opBPoison)))

def cmpSpec (op : Nat) : OpSpec := ⟨op, false, rsvdAluB, enumPredDst⟩

def execCmpEq (i : Issue) (s : State) : Host.Outcome State Fault Refusal :=
  issue (cmpSpec 0x10) (cmpBody fun a b => a == b) i s

def execCmpLt (i : Issue) (s : State) : Host.Outcome State Fault Refusal :=
  issue (cmpSpec 0x11) (cmpBody fun a b => decide (toSigned 64 a < toSigned 64 b)) i s

def execCmpLtu (i : Issue) (s : State) : Host.Outcome State Fault Refusal :=
  issue (cmpSpec 0x12) (cmpBody fun a b => decide (a < b)) i s

/-- Predicate logic: SRCA and SRCB are predicates, IMMF is 0 (R183). -/
def predSpec (op : Nat) : OpSpec :=
  ⟨op, false, fun w _ => if bitAt w 49 then !bitAt w 48 else onlyFields [(42, 6), (36, 6), (30, 6)] w,
    fun w _ => !bitAt w 49 && field w 42 6 < 16 && field w 36 6 < 16 && field w 30 6 < 16⟩

def predBody (f : Bool → Bool → Bool) (x : Cx) (s : State) : Chk Next :=
  .ok (.retire (x.putP s (f (x.t.pred x.srcA) (x.t.pred x.srcB))
    (x.t.predPoison x.srcA || x.t.predPoison x.srcB)))

def execPand (i : Issue) (s : State) : Host.Outcome State Fault Refusal :=
  issue (predSpec 0x13) (predBody fun a b => a && b) i s

def execPor (i : Issue) (s : State) : Host.Outcome State Fault Refusal :=
  issue (predSpec 0x14) (predBody fun a b => a || b) i s

def execPxor (i : Issue) (s : State) : Host.Outcome State Fault Refusal :=
  issue (predSpec 0x15) (predBody fun a b => a != b) i s

/-! ## Branch -/

/-- BR: relative by IMM36 words modulo 2^44, or to s[SRCB][43:0]; a poisoned target is an observing use (R183, R143). -/
def brBody (x : Cx) (s : State) : Chk Next :=
  if x.immf then
    .ok (.jump s (((x.t.pc.toNat : Int) + 8 * x.imm36) % ((2 ^ 44 : Nat) : Int)).toNat)
  else do
    need (!x.t.regPoison x.srcB) (.poison 4 1 x.srcB)
    .ok (.jump s (x.s x.srcB % 2 ^ 44))

def execBr (i : Issue) (s : State) : Host.Outcome State Fault Refusal :=
  issue ⟨0x16, false, fun w _ => onlyFields [(49, 1), if bitAt w 49 then (0, 36) else (30, 6)] w, enumAny⟩
    brBody i s

/-! ## Scalar memory -/

/-- Address s[SRCA] + IMM36 of a memory form (R183). -/
def Cx.addr (x : Cx) : Nat := ofSigned 64 ((x.s x.srcA : Int) + x.imm36)

/-- DST, SRCA and IMM36 with IMMF 1 (R183); IMMF 0 is a reserved value. -/
def memSpec (op : Nat) (enum : Nat → Nat → Bool) : OpSpec :=
  ⟨op, false, fun w _ => !bitAt w 48, fun w e => bitAt w 49 && enum w e⟩

/-- STAGE_TILES of a context (R256, R276): at most 65,536. -/
def State.stageTiles (s : State) (c : Nat) : Nat :=
  let n := s.get (Fld.migCtxCtrlStageTiles c)
  if n > 65536 then 65536 else n

/-- An instruction names at most STAGE_TILES / 2 tiles of T2 and T3 (R256). -/
def State.stageFits (s : State) (c : Nat) (tiles : List (Nat × Bool)) : Bool :=
  tiles.isEmpty || (tiles.map (·.1)).eraseDups.length ≤ s.stageTiles c / 2

/-- Every tile is staged on the core. -/
def State.allStaged (s : State) (core c : Nat) (tiles : List (Nat × Bool)) : Bool :=
  tiles.all fun a => (s.staged? core c a.1).isSome

/-- Tiles of T2 or T3 that an instruction reads must be staged: otherwise the task waits (R255). -/
def State.needStaged (s : State) (x : Cx) (tiles : List (Nat × Bool)) : Chk Unit :=
  need (s.allStaged x.core x.c tiles) (.wait (.tiles tiles))

/-- An instruction has used staged copies: they become the most recently used, a PIN hint stays with them, and the
instruction no longer holds them; a copy whose source was written is dropped (R255 to R258). -/
def State.useStaged (s : State) (core slot c : Nat) (tiles : List (Nat × Bool)) : State :=
  if tiles.isEmpty then s else
  let p := s.pool core c
  let used (y : Staged) : Bool := tiles.any fun a => a.1 / 4096 == y.addr / 4096
  let pin (y : Staged) : Bool := tiles.any fun a => a.2 && a.1 / 4096 == y.addr / 4096
  let hot := (p.tiles.filter used).map fun y => { y with
    pins := if pin y && !y.pins.contains slot then y.pins ++ [slot] else y.pins
    holders := y.holders.filter (· != slot) }
  let keep := (p.tiles.filter fun y => !used y) ++ hot
  s.setPool core c { p with tiles := keep.filter fun y => !(y.stale && y.holders.isEmpty) }

/-- LD.S: eight bytes (R183, R243). -/
def ldSBody (x : Cx) (s : State) : Chk Next := do
  let a := x.addr
  let tiles := (lowerTiles a 8).map fun q => (q, false)
  need (a % 8 == 0 && s.mapped x.c a 8 && s.stageFits x.c tiles) badShape
  need (!x.t.regPoison x.srcA) (.poison 1 1 x.srcA)
  s.needStaged x tiles
  let v := ofLe (s.tread x.core x.c a 8)
  let pz := s.tpoison x.core x.c a 8
  .ok (.retire (x.putS (s.useStaged x.core x.slot x.c tiles) x.dst v pz))

def execLdS (i : Issue) (s : State) : Host.Outcome State Fault Refusal :=
  issue (memSpec 0x18 enumAny) ldSBody i s

/-- A compute write of `n` bytes at a scalar address: mapped, aligned, in T0 or T1 and outside the code region (R243, R244). -/
def State.needWritable (s : State) (c a n align : Nat) : Chk Unit := do
  need (a % align == 0 && s.mapped c a n) badShape
  need (s.writable c a n) (.ill 8 true)

/-- ST.S: eight bytes; poisoned data poisons its sector (R183, R269). -/
def stSBody (x : Cx) (s : State) : Chk Next := do
  let a := x.addr
  s.needWritable x.c a 8 8
  need (!x.t.regPoison x.srcA) (.poison 1 1 x.srcA)
  .ok (.retire (s.twrite x.c a (leBytes 8 (x.s x.dst)) fun _ => x.t.regPoison x.dst))

def execStS (i : Issue) (s : State) : Host.Outcome State Fault Refusal :=
  issue (memSpec 0x19 enumAny) stSBody i s

/-! ## Words that never execute -/

/-- OP is in a Defined column of the opcode map (R138). -/
def opDefined (op : Nat) : Bool :=
  [(0x01, 0x0E), (0x10, 0x1B), (0x20, 0x24), (0x30, 0x32), (0x40, 0x4D), (0x50, 0x56), (0x60, 0x65), (0x70, 0x76), (0x80, 0x85),
    (0x90, 0x97)].any fun r => r.1 ≤ op && op ≤ r.2

/-- UNDEF_OP: a word whose OP is reserved stops its task with cause 2, after the PC check (R138, R139); its extension word, where EXT
is 1, has been read with it (R146). A word of a defined OP is no undefined one. -/
def execUndefOp (core : CoreId) (slot : SlotId) (words : BitVec 128) (s : State) :
    Host.Outcome State Fault Refusal :=
  let word := words.toNat % 2 ^ 64
  .next (if opDefined (field word 56 8) then s else issueRaw core slot word (words.toNat / 2 ^ 64)
    (fun x s => .error (if s.pcBad x.c x.t.pc.toNat (wordExt x.word) then badPc else .ill 2 false)) s)

/-- BAD_PC: the word at a PC that breaks R128 is not executed (R139 cause 1). A PC that does not break it gives no BAD_PC. -/
def execBadPc (core : CoreId) (slot : SlotId) (word : BitVec 64) (s : State) :
    Host.Outcome State Fault Refusal :=
  .next (match s.task? core slot with
    | some t => if s.pcBad t.ctx t.pc.toNat (wordExt word.toNat) then issueRaw core slot word.toNat 0 (fun _ _ => .error badPc) s else s
    | none => s)

end Sys2Proof.Machine
end

