-- ==== Sys2Proof/Machine/Operands.lean ====
section
/-!
DEFINITION. Operand forms: tile descriptors (R249 to R251), tiles and their elements in memory (R245 to R248), stream
operands, scales and codebooks, and writing a destination (R151, R153).
-/
namespace Sys2Proof.Machine
open Sys2Proof

/-! ## Tile descriptors -/

/-- Tile shape of a format: TILE_ROWS, TILE_COLS (R31, R245). -/
def tileShape : Fmt → Nat × Nat
  | .fp32 | .int32 => (32, 32)
  | .fp16 | .bf16 => (32, 64)
  | .e4m3 | .e5m2 | .int8 | .e8m0 | .e3m2 | .e2m3 => (64, 64)
  | .e2m1 | .int4 | .cb4 => (64, 128)

/-- Bit position and width of a descriptor field by its number (R249); none for a reserved selector. -/
def descSelector : Nat → Option (Nat × Nat)
  | 0 => some (0, 64) | 1 => some (64, 32) | 2 => some (96, 32) | 3 => some (128, 64) | 4 => some (192, 64)
  | 5 => some (256, 8) | 6 => some (264, 8) | 7 => some (272, 8) | 8 => some (288, 32)
  | _ => none

/-- A descriptor's fields. -/
structure Desc where
  base : Nat
  rows : Nat
  cols : Nat
  tstride : Nat
  side : Nat
  fmt : Nat
  place : Nat
  dkind : Nat
  rsvd : Nat
  progress : Nat
  deriving DecidableEq, Repr

def Desc.of (n : Nat) : Desc where
  base := field n 0 64
  rows := field n 64 32
  cols := field n 96 32
  tstride := field n 128 64
  side := field n 192 64
  fmt := field n 256 8
  place := field n 264 8
  dkind := field n 272 8
  rsvd := field n 280 8 + field n 320 192
  progress := field n 288 32

def Desc.stream (d : Desc) : Bool := d.dkind == 1

/-- No reserved field and no reserved value (R250, cause 6 of R139). -/
def Desc.valid (d : Desc) : Bool :=
  match Fmt.ofCode d.fmt with
  | none => false
  | some f =>
    let packed := ceilDiv d.cols (tileShape f).2 * 4096
    d.rsvd == 0 && d.dkind < 2 && d.place < 3 && d.rows != 0 && d.cols != 0 &&
    (if d.dkind == 0 then d.base < 2 ^ 44 && d.base % 4096 == 0 else d.base < 16 && true) &&
    d.tstride < 2 ^ 44 && d.tstride % 4096 == 0 && (d.tstride == 0 || packed ≤ d.tstride) &&
    d.side < 2 ^ 44 && d.side % 64 == 0 &&
    (match f with
     | .fp32 | .fp16 | .bf16 | .int8 | .int32 | .e8m0 => d.side == 0
     | .cb4 => d.side != 0
     | .e4m3 | .e5m2 | .e3m2 | .e2m3 | .e2m1 | .int4 => true)

/-- Where an operand's tiles lie. -/
inductive Tiles where
  /-- DKIND 0: the address of tile (0, 0) and the stride between tile rows. -/
  | mem (base stride : Nat)
  /-- DKIND 1, inbound: address of the ring, its length and the index of the first tile. -/
  | ring (base len head : Nat)
  /-- DKIND 1, outbound: the tiles are sent. -/
  | send
  deriving DecidableEq, Repr

/-- An operand as an instruction uses it. -/
structure Opnd where
  d : Desc
  f : Fmt
  tiles : Tiles
  deriving DecidableEq, Repr

def Opnd.tr (o : Opnd) : Nat := (tileShape o.f).1
def Opnd.tc (o : Opnd) : Nat := (tileShape o.f).2
/-- Tile grid (R151). -/
def Opnd.gr (o : Opnd) : Nat := ceilDiv o.d.rows o.tr
def Opnd.gc (o : Opnd) : Nat := ceilDiv o.d.cols o.tc
def Opnd.count (o : Opnd) : Nat := o.gr * o.gc
/-- Bytes of a row of a tile (R245). -/
def Opnd.rowBytes (o : Opnd) : Nat := o.tc * o.f.bits / 8
/-- MX-scaled (R247). -/
def Opnd.mx (o : Opnd) : Bool := o.f.mxElement && o.d.side != 0

/-- Address of tile (a, b) (R245, R251). -/
def Opnd.tileAddr (o : Opnd) (a b : Nat) : Nat :=
  match o.tiles with
  | .mem base stride => base + a * (if stride == 0 then o.gc * 4096 else stride) + b * 4096
  | .ring base len head => base + ((head + a * o.gc + b) % len) * 4096
  | .send => 0

/-- The tiles of the grid in the order of R151. -/
def Opnd.grid (o : Opnd) : List (Nat × Nat) :=
  (List.range o.gr).flatMap fun a => (List.range o.gc).map fun b => (a, b)

/-- Bytes of the side area: scale blocks (R247) or codebook records (R248). -/
def Opnd.sideBytes (o : Opnd) : Nat :=
  if o.f == .cb4 then 34 * o.d.rows
  else if o.mx then o.count * (o.tr * o.tc / 32)
  else 0

/-- The memory tiles and the side area are mapped (R243). -/
def Opnd.mapped (o : Opnd) (s : State) (c : Nat) : Bool :=
  (match o.tiles with
   | .mem .. => o.grid.all fun p => s.mapped c (o.tileAddr p.1 p.2) 4096
   | .ring .. => true
   | .send => true) &&
  s.mapped c o.d.side o.sideBytes

/-- Compute may write the operand (R244). -/
def Opnd.writable (o : Opnd) (s : State) (c : Nat) : Bool :=
  (match o.tiles with
   | .mem .. => o.grid.all fun p => s.writable c (o.tileAddr p.1 p.2) 4096
   | .ring .. => true
   | .send => true) &&
  (o.sideBytes == 0 || (pieces o.d.side o.sideBytes).all fun p => s.writable c p.1 p.2)

/-- T2 and T3 slots of the operand: tiles and side-area slots (R255). -/
def Opnd.lower (o : Opnd) : List Nat :=
  (match o.tiles with
   | .mem .. => (o.grid.map fun p => o.tileAddr p.1 p.2).filter fun a => !upperTier a
   | .ring .. => []
   | .send => []) ++
  (if o.sideBytes == 0 then [] else lowerTiles o.d.side o.sideBytes)

/-! ## Streams as operands -/

/-- Tensor-space address of ring tile `i` of an inbound endpoint (R188, R222). -/
def State.ringAddr (s : State) (c k : Nat) (i : Nat) : Nat :=
  let t1 := s.flag (Fld.strRingTier k)
  let phys := (s.get (Fld.strRingBase k) + i) * 4096
  match (s.ctx c).members.zipIdx.find? fun m => m.1.core == k / 256 with
  | some (m, u) => shareAddr t1 u (m.unphys t1 phys)
  | none => shareAddr t1 0 phys

/-- Handle of the core-unit with a leaf ordinal; 0, which no unit has, where there is none. -/
def State.leafHandle (s : State) (c leaf : Nat) : Nat :=
  ((s.ctx c).units.find? fun u => !u.casement && u.leaf == leaf).elim 0 (·.handle)

/-- The endpoint that a stream-handle register names, or BAD_HANDLE: an endpoint of the task's own core-unit that the task owns, in
the direction needed (R25, R142, R187, R222). -/
def State.needEndpoint (s : State) (x : Cx) (h : Nat) (out : Bool) : Chk Nat := do
  let v := (x.t.handle h).toNat
  let k := epKey x.core (field v 32 8)
  need (field v 41 23 == 0 && field v 0 32 != 0 && field v 0 32 == s.leafHandle x.c x.t.leaf && bitAt v 40 == out &&
    s.flag (Fld.strCfgEn k) && s.flag (Fld.strCfgDir k) == out &&
    s.get (Fld.strCfgContext k) == x.c && s.get (Fld.strCfgOwner k) == x.slot && (s.ep? k).isSome) .handle
  .ok k

/-! ## Checking operands -/

/-- Cause 6 for one descriptor register: reserved values, a stream where none may stand, unmapped addresses (R139, R243, R251).
`role`: 0 a memory operand only, 1 a source that may be a stream, 2 a destination that may be a stream, 3 a memory
destination. An extent of more than one tile is no fault here: R33 and cause 8 of R139 would refuse it, R151, R155, R245 and the
spec's examples use it, and the model takes the second reading (DEDUCED, log entry 26). -/
def descCheck (s : State) (x : Cx) (r role : Nat) : Chk Unit := do
  let d := Desc.of (x.t.desc r)
  need d.valid badDesc
  need (!d.stream || (role == 1 && d.place == 0) || role == 2) badDesc
  let o : Opnd := ⟨d, (Fmt.ofCode d.fmt).getD .fp32, if d.stream then .send else .mem d.base d.tstride⟩
  need (o.mapped s x.c) badDesc
  if role == 2 || role == 3 then need (o.writable s x.c) (.ill 6 true) else .ok ()

/-- The format field must equal the descriptor's FORMAT (R136, cause 7). -/
def fmtCheck (x : Cx) (r code : Nat) : Chk Unit := need ((Desc.of (x.t.desc r)).fmt == code) badFormat

/-- The operand of a checked memory descriptor. -/
def Cx.opnd (x : Cx) (r : Nat) : Opnd :=
  let d := Desc.of (x.t.desc r)
  ⟨d, (Fmt.ofCode d.fmt).getD .fp32, if d.stream then .send else .mem d.base d.tstride⟩

/-- A poisoned descriptor register is an address at an observing use (R143). -/
def descPoisonCheck (x : Cx) (r : Nat) : Chk Unit := need (!x.t.descPoison r) (.poison 1 3 r)

/-! ## Elements -/

/-- Codes of the first `n` elements of `w` bits packed from bit 0 of `bs` (R105). -/
def unpackCodes (w n : Nat) (bs : List Byte) : List Nat :=
  let v := ofLe bs
  (List.range n).map fun i => field v (w * i) w

/-- Pack element codes of `w` bits from bit 0 (R105). -/
def packCodes (w : Nat) (cs : List Nat) : Nat :=
  (cs.zipIdx).foldl (fun a p => a + p.1 <<< (w * p.2)) 0

/-- Columns of the extent in tile column `b`. -/
def Opnd.colsIn (o : Opnd) (b : Nat) : Nat := if o.d.cols - b * o.tc < o.tc then o.d.cols - b * o.tc else o.tc
def Opnd.rowsIn (o : Opnd) (a : Nat) : Nat := if o.d.rows - a * o.tr < o.tr then o.d.rows - a * o.tr else o.tr

/-- An element: its code, its exact value, and the poison of the sectors it depends on. -/
structure Elem where
  code : Nat
  val : Val
  poison : Bool

/-- Address of the E8M0 scale of MX block `blk` of extent row `r` (R247). -/
def Opnd.scaleAddr (o : Opnd) (r blk : Nat) : Nat :=
  let perTile := o.tc / 32
  let tile := (r / o.tr) * o.gc + blk / perTile
  o.d.side + tile * (o.tr * perTile) + (r % o.tr) * perTile + blk % perTile

/-- Scale exponent code and poison of an MX block of a row. -/
def Opnd.scale (o : Opnd) (s : State) (x : Cx) (r blk : Nat) : Nat × Bool :=
  let a := o.scaleAddr r blk
  (ofLe (s.tread x.core x.c a 1), s.tpoison x.core x.c a 1)

/-- An element under its MX scale (R108). -/
def mxValue (v : Val) (e : Nat) : Val := if e == 255 then .nan else v.scale ((e : Int) - 127)

/-- Elements [c0, c0 + n) of extent row `r`, c0 within one tile column and n not leaving it. -/
def Opnd.run (o : Opnd) (s : State) (x : Cx) (r c0 n : Nat) : List Elem :=
  let a := o.tileAddr (r / o.tr) (c0 / o.tc)
  let rowOff := (r % o.tr) * o.rowBytes
  let bit0 := (c0 % o.tc) * o.f.bits
  let first := rowOff + bit0 / 8
  let nbytes := ceilDiv (bit0 % 8 + n * o.f.bits) 8
  let bs := s.tread x.core x.c (a + first) nbytes
  let v := ofLe bs
  let rec0 := o.d.side + 34 * r
  let book := if o.f == .cb4 then s.tread x.core x.c rec0 34 else []
  let bookPoison := o.f == .cb4 && s.tpoison x.core x.c rec0 34
  (List.range n).map fun i =>
    let code := field v (bit0 % 8 + i * o.f.bits) o.f.bits
    let byte0 := a + first + (bit0 % 8 + i * o.f.bits) / 8
    let byte1 := a + first + (bit0 % 8 + (i + 1) * o.f.bits - 1) / 8
    let p := s.tpoison x.core x.c byte0 (byte1 - byte0 + 1)
    if o.f == .cb4 then
      ⟨code, cb4Value (leAt book (2 * code) 2) (leAt book 32 2), p || bookPoison⟩
    else if o.mx then
      let (e, pe) := o.scale s x r ((c0 + i) / 32)
      ⟨code, mxValue (o.f.decode code) e, p || pe⟩
    else ⟨code, o.f.decode code, p⟩

/-- The codes of elements [c0, c0 + n) of a row, with the poison of their own sectors alone. -/
def Opnd.codes (o : Opnd) (s : State) (x : Cx) (r c0 n : Nat) : List (Nat × Bool) :=
  let a := o.tileAddr (r / o.tr) (c0 / o.tc) + (r % o.tr) * o.rowBytes
  let bit0 := (c0 % o.tc) * o.f.bits
  let v := ofLe (s.tread x.core x.c (a + bit0 / 8) (ceilDiv (bit0 % 8 + n * o.f.bits) 8))
  (List.range n).map fun i =>
    let lo := a + (bit0 + i * o.f.bits) / 8
    let hi := a + (bit0 + (i + 1) * o.f.bits - 1) / 8
    (field v (bit0 % 8 + i * o.f.bits) o.f.bits, s.tpoison x.core x.c lo (hi - lo + 1))

/-- One extent row of an operand (R245 to R248). -/
def Opnd.row (o : Opnd) (s : State) (x : Cx) (r : Nat) : List Elem :=
  (List.range o.gc).flatMap fun b => o.run s x r (b * o.tc) (o.colsIn b)

/-- Extent row and column of a flat element index (R151). -/
def Opnd.coord (o : Opnd) (idx : Nat) : Nat × Nat :=
  -- elements in the tile rows above, then in the tiles to the left, then within the tile
  let perBand := o.tr * o.d.cols
  let a := if idx / perBand < o.gr - 1 then idx / perBand else o.gr - 1
  let rest := idx - a * perBand
  let h := o.rowsIn a
  let b := if rest / (h * o.tc) < o.gc - 1 then rest / (h * o.tc) else o.gc - 1
  let inTile := rest - b * (h * o.tc)
  let w := o.colsIn b
  (a * o.tr + inTile / w, b * o.tc + inTile % w)

/-- Flat element index of (r, c) (R151). -/
def Opnd.flat (o : Opnd) (r c : Nat) : Nat :=
  let a := r / o.tr
  let b := c / o.tc
  a * o.tr * o.d.cols + b * o.tc * o.rowsIn a + (r % o.tr) * o.colsIn b + c % o.tc

/-- Element at a flat index below rows × columns. -/
def Opnd.at (o : Opnd) (s : State) (x : Cx) (idx : Nat) : Elem :=
  let (r, c) := o.coord idx
  (o.run s x r c 1).headD ⟨0, .zero, false⟩

/-! ## Destinations -/

/-- Write `codes` of `w` bits at bit offset `bit` from address `a`: whole bytes replaced, the rest of a byte merged. -/
def State.writeBits (s : State) (c a bit w : Nat) (codes : List (Nat × Bool)) : State :=
  let a := a + bit / 8
  let bit := bit % 8
  let n := ceilDiv (bit + w * codes.length) 8
  let old := ofLe (s.mem.bytes (s.key c a) n)
  let new := setField old bit (w * codes.length) (packCodes w (codes.map (·.1)))
  let bad := (codes.zipIdx.filter (·.1.2)).flatMap fun p =>
    [(a + (bit + w * p.2) / 8) / 64, (a + (bit + w * p.2 + w - 1) / 8) / 64]
  -- a byte that is written in part leaves its sector written in part (R269)
  let kept (q : Nat) : Bool :=
    ((bit != 0 && q == a / 64) || ((bit + w * codes.length) % 8 != 0 && q == (a + n - 1) / 64)) &&
      s.mem.poisoned (s.key c (64 * q) / 64)
  s.twrite c a (leBytes n new) fun q => bad.contains q || kept q

/-- Write the element at a flat index of a memory operand. -/
def State.putElem (s : State) (x : Cx) (o : Opnd) (idx : Nat) (code : Nat × Bool) : State :=
  let (r, c) := o.coord idx
  let a := o.tileAddr (r / o.tr) (c / o.tc)
  s.writeBits x.c a (8 * (r % o.tr) * o.rowBytes + (c % o.tc) * o.f.bits) o.f.bits [code]

/-- Write the elements of one tile that lie in the extent, row-major; a tile whose rows are whole is one write (R246, R269). -/
def Opnd.writeTile (o : Opnd) (c a b : Nat) (rows : List (List (Nat × Bool))) (s : State) : State :=
  let base := o.tileAddr a b
  if o.colsIn b == o.tc then s.writeBits c base 0 o.f.bits (rows.flatten)
  else rows.zipIdx.foldl (fun s p => s.writeBits c (base + p.2 * o.rowBytes) 0 o.f.bits p.1) s

/-- A tile's 4 KiB payload as it is sent on a stream, padding zero, with its poisoned sectors (R191). -/
def Opnd.payload (o : Opnd) (rows : List (List (Nat × Bool))) : List Byte × List Nat :=
  let n := rows.zipIdx.foldl (fun acc p => acc + packCodes o.f.bits (p.1.map (·.1)) <<< (8 * o.rowBytes * p.2)) 0
  let bad := (List.range 64).filter fun q =>
    rows.zipIdx.any fun p => p.1.zipIdx.any fun e =>
      e.1.2 && (8 * o.rowBytes * p.2 + o.f.bits * e.2) / 512 ≤ q &&
        q ≤ (8 * o.rowBytes * p.2 + o.f.bits * e.2 + o.f.bits - 1) / 512
  (leBytes 4096 n, bad)

/-- Elements (code, poison) of tile (a, b) cut from extent rows. -/
def Opnd.cut (o : Opnd) (a b : Nat) (rows : List (List (Nat × Bool))) : List (List (Nat × Bool)) :=
  ((rows.drop (a * o.tr)).take o.tr).map fun r => (r.drop (b * o.tc)).take o.tc

/-- A byte to write, and whether it is poisoned. -/
structure Poke where
  addr : Nat
  byte : Byte
  poison : Bool
  deriving DecidableEq, Repr

/-- Bytes at successive addresses joined into runs: the address of each and its bytes. -/
def joinPokes (l : List Poke) : List (Nat × List (Byte × Bool)) :=
  l.foldr (fun p acc =>
    match acc with
    | (a, bs) :: rest => if p.addr + 1 == a then (p.addr, (p.byte, p.poison) :: bs) :: rest else (p.addr, [(p.byte, p.poison)]) :: acc
    | [] => [(p.addr, [(p.byte, p.poison)])]) []

/-- Write bytes of T0 or T1 run by run, so that a sector whose every byte is written is written whole (R153, R269). -/
def State.pokes (s : State) (c : Nat) (l : List Poke) : State :=
  (joinPokes l).foldl (fun s r =>
    s.twrite c r.1 (r.2.map (·.1)) fun q => r.2.zipIdx.any fun p => p.1.2 && (r.1 + p.2) / 64 == q) s

/-! ## Rounding controls -/

/-- RND of a conversion for an element: SR draws with the context seed, the leaf ordinal and the index (R112, R120). -/
def rounding (s : State) (x : Cx) (rnd index : Nat) : Rounding :=
  if rnd == 1 then .sr (srDraw (BitVec.ofNat 64 (s.get64 (Reg.ctxSeed x.c))) x.t.leaf index) else .rne

/-- RND holds a defined value (R112). -/
def rndOk (w : Nat) : Bool := field w 48 2 < 2

/-- A 4-bit format field holds a defined code (R136). -/
def fmtOk (code : Nat) : Bool := 1 ≤ code && code ≤ 13

/-- Convert one extent row of exact values to a destination's codes, with the scales of its MX blocks: codes with poison,
(block, scale, poison), flags (R113 to R119, R153). With no source format the values are MX-scaled, and round (R170). -/
def convertRow (src : Option Fmt) (dst : Fmt) (mx sat : Bool) (rnd : Nat → Rounding) (row : List Elem) :
    List (Nat × Bool) × List (Nat × Nat × Bool) × Flags :=
  if mx then
    let blocks : List (List (Nat × Bool) × (Nat × Bool) × Flags) :=
      (chunks 32 (row.length + 1) row.zipIdx).map fun blk =>
        let r := encodeMxBlock dst sat (blk.map fun p => (p.1.val, rnd p.2))
        (r.2.1.zip (blk.map (·.1.poison)), (r.1, blk.any (·.1.poison)), r.2.2)
    (blocks.flatMap (·.1), blocks.zipIdx.map fun p => (p.2, p.1.2.1.1, p.1.2.1.2),
      blocks.foldl (fun f p => f ||| p.2.2) Flags.none)
  else
    let rs := row.zipIdx.map fun p => ((match src with
        | some f => convert f dst (rnd p.2) sat p.1.code p.1.val
        | none => dst.encode (rnd p.2) sat p.1.val), p.1.poison)
    (rs.map fun p => (p.1.1, p.2), [], rs.foldl (fun f p => f ||| p.1.2) Flags.none)

end Sys2Proof.Machine
end

