-- ==== Sys2Proof/Machine/Links.lean ====
section
/-!
DEFINITION. Stream links: rings, latches, groups in flight, sends and releases (R186 to R198, R251), and the checks that a
stream instruction or a stream operand makes.
-/
namespace Sys2Proof.Machine
open Sys2Proof

/-! ## Latches (R188, R189) -/

/-- B of an inbound endpoint; 0 where its ring has not been set up (R188). -/
def State.ringB (s : State) (k : Nat) : Nat :=
  let n := s.get (Fld.strRingLen k) + 1
  if n < 2 then 0 else n

/-- Counters at set-up: FILLED and TAKEN 0 and FREE B (R189). -/
def Endpoint.fresh (p : LinkPlan) (node : Option (Nat × Bool)) (layer : Nat) : Endpoint where
  filled := 0
  taken := 0
  part := 0
  head := 0
  tail := 0
  peers := p.peers
  route := p.route
  used := p.peers.map fun _ => 0
  landedFar := p.peers.map fun _ => 0
  node := node
  layer := layer
  carried := 0
  owed := []
  flagsDue := []
  fetched := 0
  sources := p.sources
  base := layer
  fwd := none
  forwarded := 0
  released := 0
  credited := 0

def LinkPlan.none : LinkPlan := ⟨[], [], false, []⟩

def State.epD (s : State) (k : Nat) : Endpoint := (s.ep? k).getD (.fresh .none Option.none 0)

def State.modEp (s : State) (k : Nat) (f : Endpoint → Endpoint) : State :=
  match s.ep? k with
  | some e => s.setEp k (f e)
  | none => s

/-- B of a consumer's ring. -/
def State.peerB (s : State) : Peer → Nat
  | .here k => s.ringB k
  | .away b => b

/-- FREE toward each consumer of an outbound endpoint. -/
def State.frees (s : State) (k : Nat) : List Nat :=
  let e := s.epD k
  e.peers.zipIdx.map fun p => s.peerB p.1 - e.used.getD p.2 0

/-- The least of a list; 0 of an empty one. -/
def leastOf : List Nat → Nat
  | [] => 0
  | a :: l => l.foldl min a

/-- FREE of an outbound endpoint: the least over its consumers (R197). -/
def State.free (s : State) (k : Nat) : Nat := leastOf (s.frees k)

/-- B of the link of an outbound endpoint: the least over its consumers. -/
def State.linkB (s : State) (k : Nat) : Nat := leastOf ((s.epD k).peers.map s.peerB)

/-- Released tiles of a chain's endpoint whose credit waits for the forward (R301). -/
def State.heldBack (s : State) (k : Nat) : Nat := (s.epD k).released - (s.epD k).credited

/-- Credits on their way from a consumer to a producer; one that waits for a forward counts among them (R301). -/
def State.creditsTo (s : State) (src dst : Nat) : Nat :=
  s.cores.credits.foldl (fun n c => if c.src == src && c.dst == dst then n + c.count else n) (s.heldBack src)

/-- Tiles of groups on their way from an endpoint to a ring. -/
def State.groupTiles (s : State) (k d : Nat) : Nat :=
  s.cores.groups.foldl (fun n g => if g.src == some k && g.dst == .ring d then n + g.count else n) 0

/-- Places of the consumers of tile `i` (R21, R197). -/
def Endpoint.goesTo (e : Endpoint) (i : Nat) : List Nat := e.route.getD (i % e.route.length) []

/-- How many of `n` tiles from tile number `i` go to the `j`-th consumer (R21). -/
def Endpoint.dealt (e : Endpoint) (i n j : Nat) : Nat := ((List.range n).filter fun d => (e.goesTo (i + d)).contains j).length

/-- The endpoint deals its tiles among its consumers (R197). -/
def Endpoint.deals (e : Endpoint) : Bool := 1 < e.route.length

/-- Tiles in flight from an outbound endpoint to its `i`-th consumer, by the identity of R189; where several producers fill
one ring in turn, those of its own groups; to another module, those sent that it has not reported. -/
def State.flightTo (s : State) (k i : Nat) : Nat :=
  let e := s.epD k
  match e.peers[i]? with
  | some (.here d) =>
    if (s.epD d).sources.isEmpty then e.used.getD i 0 - ((s.epD d).filled + (s.epD d).taken + s.creditsTo d k)
    else s.groupTiles k d
  | some (.away _) => e.dealt 0 e.carried i - e.landedFar.getD i 0
  | none => 0

/-- Tiles in flight (COUNT_A): the sum over the children of a DEAL producer, otherwise the most over the consumers (R197). -/
def State.inFlight (s : State) (k : Nat) : Nat :=
  let e := s.epD k
  let l := (List.range e.peers.length).map (s.flightTo k)
  if e.deals then l.foldl (· + ·) 0 else l.foldl max 0

/-- Tiles of an outbound endpoint that have landed since set-up. -/
def State.landed (s : State) (k : Nat) : Nat := (s.epD k).carried - s.inFlight k

/-- A send of `n` tiles has room at every consumer that receives a tile of it (R190, R197). -/
def State.room (s : State) (k n : Nat) : Bool :=
  let e := s.epD k
  let fs := s.frees k
  !fs.isEmpty && fs.zipIdx.all fun p => e.dealt e.carried n p.2 ≤ p.1

/-- The task owns an outbound endpoint with tiles in flight: an older instruction of it has not retired (R190, R194). -/
def State.unretired (s : State) (core slot : Nat) : Bool :=
  s.cores.eps.any fun p => p.1 / 256 == core && s.get (Fld.strCfgOwner p.1) == slot &&
    s.flag (Fld.strCfgDir p.1) && 0 < s.inFlight p.1

/-- The task has a request of the fabric that has not completed, or a stream send in flight (R144, R194). -/
def State.older (s : State) (core slot : Nat) : Bool :=
  s.unretired core slot || ((s.task? core slot).elim false fun t => t.request.isSome)

/-! ## Sends -/

/-- Raise what an outbound endpoint has used of each consumer's ring. -/
def Endpoint.spend (e : Endpoint) (n : Nat) : Endpoint :=
  { e with
    carried := e.carried + n
    used := e.peers.zipIdx.map fun p => e.used.getD p.2 0 + e.dealt e.carried n p.2 }

/-- Join tiles, each 4 KiB with its poisoned sectors, into a payload. -/
def joinTiles (ts : List (List Byte × List Nat)) : List Byte × List Nat :=
  (ts.flatMap (·.1), ts.zipIdx.flatMap fun p => p.1.2.map fun q => q + 64 * p.2)

/-- The stop that a group goes to. -/
def Dest.stop : Dest → Nat
  | .ring k => k / 256
  | .node n _ => n / 16

/-- The source stop refuses groups of an endpoint: the destination that it refuses, 0xFF for a multicast, whose members must
also lie in one partition with the sender (R321, R325). -/
def State.sendRefused (s : State) (k : Nat) (gs : List Group) : Option Nat :=
  let src := k / 256
  let multi := 1 < (s.epD k).peers.length && !(s.epD k).deals
  let ok (g : Group) : Bool :=
    s.coreReach src g.dst.stop && (!multi || s.partAt g.dst.stop == s.partAt src)
  match gs.find? fun g => !ok g with
  | none => none
  | some g => some (if multi then 255 else g.dst.stop)

/-- A side of a merge node as a number. -/
def sideKey (n : Nat) (right : Bool) : Nat := 2 * n + right.toNat

/-- A group's packet enters the mesh: it takes the credit of the side of the merge node that it goes to (R327). -/
def State.putGroups (s : State) (gs : List Group) : State :=
  { s with
    cores.groups := s.cores.groups ++ gs
    cores.spent := s.cores.spent ++ gs.filterMap fun g => match g.dst with | .node n r => some (sideKey n r) | .ring _ => none }

/-- Put `n` tiles on an outbound endpoint in order: whole groups to each consumer, or tile by tile to the children (R190,
R197). `ts` holds the tiles; none announces tiles that stores have written (R194). -/
def State.sendGroups (s : State) (k n : Nat) (int32 : Bool) (ts : Option (List (List Byte × List Nat))) : State :=
  let e := s.epD k
  let c := s.get (Fld.strCfgContext k)
  -- (first tile, tiles) of each group
  let step := if e.deals then 1 else s.epGrain k
  let cut : List (Nat × Nat) := (List.range (ceilDiv n step)).map fun i =>
    (i * step, if n - i * step < step then n - i * step else step)
  let load (g : Nat × Nat) : Option (List Byte) × List Nat :=
    match ts with
    | none => (none, [])
    | some l => let p := joinTiles ((l.drop g.1).take g.2); (some p.1, p.2)
  let mk (d : Dest) (g : Nat × Nat) : Group :=
    ⟨some k, c, d, k / 256, s.partAt (k / 256), s.netCopy, false, g.2, e.layer, int32, (load g).1, (load g).2⟩
  let gs : List Group := cut.flatMap fun g =>
    match e.node with
    | some (m, right) => [mk (.node m right) g]
    | none => (e.goesTo (e.carried + g.1)).filterMap fun j =>
      match (e.peers[j]? : Option Peer) with
      | some (.here d) => some (mk (.ring d) g)
      | _ => none
  let away : List Out := cut.flatMap fun g =>
    (e.goesTo (e.carried + g.1)).filterMap fun j =>
      match (e.peers[j]? : Option Peer) with
      | some (.away _) => some (.group k j g.2 e.layer int32 (load g).1 (load g).2)
      | _ => none
  match s.sendRefused k gs with
  | some d => (s.netUnreach (k / 256) d 2).streamLost k
  | none =>
  let s := (s.modEp k (·.spend n)).putGroups gs
  { s with out := s.out ++ away }

/-- Send tiles, each 4 KiB with its poisoned sectors. -/
def State.send (s : State) (k : Nat) (int32 : Bool) (ts : List (List Byte × List Nat)) : State :=
  s.sendGroups k ts.length int32 (some ts)

/-- Producers whose tiles reach an inbound endpoint (R197). -/
def State.producers (s : State) (k : Nat) : List Nat :=
  s.cores.eps.filterMap fun p =>
    if s.flag (Fld.strCfgDir p.1) && p.2.peers.contains (.here k) then some p.1 else none

/-- How many of `n` tiles from tile number `i` come from the `j`-th of the sources of a ring (R21). -/
def Endpoint.drawn (e : Endpoint) (i n j : Nat) : Nat := ((List.range n).filter fun d => (i + d) % e.sources.length == j).length

/-- Credits for `n` tiles from tile number `i` of an inbound endpoint: to every producer, or where several producers fill the
ring in turn, to each for its own tiles (R194, R197). -/
def State.creditsFor (s : State) (k i n : Nat) : List Credit :=
  let e := s.epD k
  if e.sources.isEmpty then (s.producers k).map fun p => ⟨k, p, n⟩
  else (s.producers k).filterMap fun p =>
    let m := (e.sources.zipIdx.map fun q => if q.1 == some p then e.drawn i n q.2 else 0).sum
    if m == 0 then none else some ⟨k, p, m⟩

/-- Credits of `n` tiles from tile number `i` leave an inbound endpoint; producers on another module get theirs by their places among
its sources. -/
def State.giveCredit (s : State) (k i n : Nat) : State :=
  if n == 0 then s else
  let e := s.epD k
  let away : List Out :=
    if e.sources.isEmpty then (if s.flag (Fld.strPeerRemote k) then [.credit k 0 n] else [])
    else e.sources.zipIdx.filterMap fun q =>
      if q.1.isNone && e.drawn i n q.2 != 0 then some (.credit k q.2 (e.drawn i n q.2)) else none
  { s with cores.credits := s.cores.credits ++ s.creditsFor k i n, out := s.out ++ away }

/-- A chain's endpoint gives the credit of tiles that are both released and forwarded (R301). -/
def State.giveChained (s : State) (k : Nat) : State :=
  let e := s.epD k
  match e.fwd with
  | none => s
  | some f =>
    let m := min e.released (s.landed f)
    (s.giveCredit k e.credited (m - e.credited)).modEp k fun e => { e with credited := max e.credited m }

/-- Release `n` taken tiles: TAKEN falls and the credits travel to the producers (R194, R197, R301). -/
def State.release (s : State) (k n : Nat) : State :=
  let e := s.epD k
  let i := e.carried - (e.part + e.filled + e.taken)
  let s := s.modEp k fun e => { e with taken := e.taken - n }
  if e.fwd.isSome then (s.modEp k fun e => { e with released := e.released + n }).giveChained k
  else s.giveCredit k i n

/-- Take `n` tiles: FILLED falls, TAKEN rises and the ring head advances (R192). -/
def State.takeTiles (s : State) (k n : Nat) : State :=
  let b := s.epRing k
  s.modEp k fun e => { e with filled := e.filled - n, taken := e.taken + n, head := (e.head + n) % b }

/-- Raise flags of a slot's task (R111). -/
def State.slotFlags (s : State) (core slot : Nat) (f : Flags) : State :=
  s.modTask core slot fun t => { t with flags := t.flags ||| f }

/-- Instructions whose tiles have all landed retire: their takes are released (R251), and their flags are set (R111). -/
def State.settle (s : State) (k : Nat) : State :=
  let m := s.landed k
  let due := (s.epD k).owed.filter fun o => o.1 ≤ m
  let flags := (s.epD k).flagsDue.filter fun o => o.1 ≤ m
  let s := s.modEp k fun e => { e with
    owed := e.owed.filter fun o => m < o.1
    flagsDue := e.flagsDue.filter fun o => m < o.1 }
  let s := flags.foldl (fun s o => s.slotFlags (k / 256) o.2.1 o.2.2) s
  due.foldl (fun s o => s.release o.2.1 o.2.2) s

/-! ## Stream operands of an instruction (R251) -/

/-- A stream operand: descriptor register, endpoint and tiles. -/
structure Link where
  reg : Nat
  k : Nat
  n : Nat
  out : Bool

/-- A send names no endpoint that contributes to a SUM binding, and none that forwards a chain (R187, R301). -/
def State.notInj (s : State) (k : Nat) : Bool :=
  !s.flag (Fld.strCfgInj k) && !(s.cores.eps.any fun p => p.2.fwd == some k)

/-- The endpoint of an operand that is a stream (R187, R251). -/
def Cx.link (x : Cx) (s : State) (r : Nat) (out : Bool) (n : Nat) : Chk (List Link) :=
  let o := x.opnd r
  if !o.d.stream then .ok [] else do
    let k ← s.needEndpoint x o.d.base out
    need (!out || s.notInj k) .handle
    .ok [⟨r, k, n, out⟩]

/-- The links of the stream operands: inbound sources, then the destination (R139: BAD_HANDLE comes first). -/
def Cx.links (x : Cx) (s : State) (ins outs : List (Nat × Nat)) : Chk (List Link) := do
  let a ← ins.mapM fun p => x.link s p.1 false p.2
  let b ← outs.mapM fun p => x.link s p.1 true p.2
  .ok (a.flatten ++ b.flatten)

/-- Counts are multiples of g and at most B (R190, R251). -/
def State.linkRules (s : State) (ls : List Link) : Chk Unit :=
  need (ls.all fun l => l.n % s.epGrain l.k == 0 &&
    l.n ≤ (if l.out then s.linkB l.k else s.ringB l.k)) badShape

/-- Tiles that the sources take from one endpoint. -/
def takenBy (ls : List Link) (k : Nat) : Nat :=
  ls.foldl (fun n l => if !l.out && l.k == k then n + l.n else n) 0

/-- The tiles of stream sources have been received, otherwise the task waits (R92). -/
def State.needFilled (s : State) (ls : List Link) : Chk Unit :=
  match ls.find? fun l => !l.out && (s.epD l.k).filled < takenBy ls l.k with
  | some l => .error (.wait (.streamTiles (l.k % 256) (takenBy ls l.k)))
  | none => .ok ()

/-- The stream destination has room, otherwise the task waits as at LATCH.WAIT FREE (R190, R191). -/
def State.needRoom (s : State) (ls : List Link) : Chk Unit :=
  match ls.find? fun l => l.out && !s.room l.k l.n with
  | some l => .error (.wait (.latch (l.k % 256) true l.n))
  | none => .ok ()

/-- The operand of a descriptor register as the instruction reads it: a stream source lies in the ring from the head, after the
tiles that earlier sources of the instruction take. Where two operands name one register, both are the one operand that the register
describes, and view the same tiles (DESIGN CHOICE, log entry 25). -/
def Cx.view (x : Cx) (s : State) (ls : List Link) (r : Nat) : Opnd :=
  let o := x.opnd r
  match ls.zipIdx.find? fun l => !l.1.out && l.1.reg == r with
  | none => o
  | some (l, i) =>
    { o with tiles := .ring (s.ringAddr x.c l.k 0) (s.epRing l.k) ((s.epD l.k).head + takenBy (ls.take i) l.k) }

/-- The endpoint that a destination register sends on. -/
def outLink (ls : List Link) : Option Nat := (ls.find? (·.out)).map (·.k)

/-- At retirement the stream sources are released; with a stream destination, once the sent tiles have landed (R251). -/
def State.finishLinks (s : State) (ls : List Link) : State :=
  (ls.filter fun l => !l.out).foldl (fun s l =>
    let s := s.takeTiles l.k l.n
    match outLink ls with
    | none => s.release l.k l.n
    | some k => s.modEp k fun e => { e with owed := e.owed ++ [(e.carried, l.k, l.n)] }) s

/-- The flags of an instruction: set as it retires; with a stream destination, once the tiles that it sent have landed. An instruction
whose send was refused sets none (R111, R190). -/
def Cx.raiseFlags (x : Cx) (s : State) (ls : List Link) (f : Flags) : State :=
  match outLink ls with
  | none => x.putFlags s f
  | some k =>
    if s.runs x.c then s.modEp k fun e => { e with flagsDue := e.flagsDue ++ [(e.carried, x.slot, f)] } else s

/-! ## Staged tiles of an instruction -/

/-- T2 and T3 tiles of an operand with its PIN hint (R255). -/
def Opnd.stage (o : Opnd) : List (Nat × Bool) := o.lower.map fun a => (a / 4096 * 4096, o.d.place == 1)

/-- Poisoned tile-descriptor registers of the operands are observing uses (R143). -/
def descPoisons (x : Cx) (rs : List Nat) : Chk Unit :=
  match rs.find? x.t.descPoison with
  | some r => .error (.poison 1 3 r)
  | none => .ok ()

/-! ## Emitting a whole destination -/

/-- Element index of (r, c) for stochastic rounding: the flat index, or its place among the tiles that the stream carries
(R120). -/
def Opnd.drawIndex (o : Opnd) (s : State) (out : Option Nat) (r c : Nat) : Nat :=
  match out with
  | none => o.flat r c
  | some k =>
    ((s.epD k).carried + (r / o.tr) * o.gc + c / o.tc) * o.f.perTile + (r % o.tr) * o.tc + c % o.tc

/-- Write codes of all extent rows to a memory destination, or send them (R151, R191). -/
def State.putTiles (s : State) (x : Cx) (o : Opnd) (out : Option Nat) (codes : List (List (Nat × Bool))) : State :=
  match out with
  | none => o.grid.foldl (fun s p => o.writeTile x.c p.1 p.2 (o.cut p.1 p.2 codes) s) s
  | some k => s.send k false (o.grid.map fun p => o.payload (o.cut p.1 p.2 codes))

/-- Scales of an operand's rows, each (block, exponent, poison), as bytes in rising order of address (R117, R247). -/
def Opnd.scalePokes (o : Opnd) (rows : List (List (Nat × Nat × Bool))) : List Poke :=
  o.grid.flatMap fun p =>
    ((rows.zipIdx.drop (p.1 * o.tr)).take o.tr).flatMap fun r =>
      (r.1.filter fun e => e.1 / (o.tc / 32) == p.2).map fun e => ⟨o.scaleAddr r.2 e.1, BitVec.ofNat 8 e.2.1, e.2.2⟩

/-- Convert rows of exact values to a destination operand under RND and SAT, write or send them, and give the flags
(R112 to R119, R153, R154). -/
def Cx.emit (x : Cx) (s : State) (o : Opnd) (out : Option Nat) (src : Option Fmt) (rows : List (List Elem)) :
    State × Flags :=
  let conv := rows.zipIdx.map fun p =>
    convertRow src o.f o.mx x.sat (fun c => rounding s x x.rnd (o.drawIndex s out p.2 c)) p.1
  let s := s.pokes x.c (o.scalePokes (conv.map (·.2.1)))
  let s := s.putTiles x o out (conv.map (·.1))
  (s, conv.foldl (fun f p => f ||| p.2.2) Flags.none)

end Sys2Proof.Machine
end

