-- ==== Sys2Proof/Machine/Matrix.lean ====
section
/-!
DEFINITION. Matrix instructions MMA and MMA.CSR (R154 to R157, R224 to R233), accumulator tiles (R152), and the transfers
between accumulator tiles, vector registers and operands (R168, R169).
-/
namespace Sys2Proof.Machine
open Sys2Proof

/-! ## Accumulator tiles (R152) -/

/-- The 1,024 lanes of tile `i` of the task's window. -/
def Cx.accLanes (x : Cx) (s : State) (i : Nat) : List Word32 :=
  let v := ofLe (s.mem.bytes (accKey x.core (x.t.accFirst + i)) 4096)
  (List.range 1024).map fun l => BitVec.ofNat 32 (v >>> (32 * l))

/-- Sector `q` of tile `i` of the window is poisoned. -/
def Cx.accPoison (x : Cx) (s : State) (i q : Nat) : Bool :=
  s.mem.poisoned (accKey x.core (x.t.accFirst + i) / 64 + q)

/-- Write the 1,024 lanes of tile `i` of the window with the poison of its 64 sectors. -/
def Cx.putAcc (x : Cx) (s : State) (i : Nat) (lanes : List Word32) (pz : Nat → Bool) : State :=
  let key := accKey x.core (x.t.accFirst + i)
  let m := s.mem.store key (lanes.flatMap fun w => leBytes 4 w.toNat) fun q => pz (q - key / 64)
  { s with mem := m }

/-- Tile within an output of `n` columns, and lane, of element (i, j). -/
def accPlace (n i j : Nat) : Nat × Nat := ((i / 32) * ceilDiv n 32 + j / 32, 32 * (i % 32) + j % 32)

/-- Accumulator tiles of an M × N output. -/
def accTiles (m n : Nat) : Nat := ceilDiv m 32 * ceilDiv n 32

/-- Element (i, j) of an output of `n` columns at tile `acc`: its lane and its sector's poison. -/
def Cx.accAt (x : Cx) (s : State) (acc n i j : Nat) : Word32 × Bool :=
  let (t, l) := accPlace n i j
  (BitVec.ofNat 32 (ofLe (s.mem.bytes (accKey x.core (x.t.accFirst + acc + t) + 4 * l) 4)),
    x.accPoison s (acc + t) (l / 16))

/-- The lanes and sector poison of tile (a, b) of rows of results; lanes outside the output are zero (R152). -/
def tileLanes (rows : List (List Elem)) (a b : Nat) : List Word32 × List Bool :=
  let es := (List.range 32).flatMap fun i =>
    let r := (rows.getD (32 * a + i) []).drop (32 * b)
    (List.range 32).map fun j => r.getD j ⟨0, .zero, false⟩
  (es.map fun e => BitVec.ofNat 32 e.code, (chunks 16 65 es).map fun l => l.any (·.poison))

/-- Write an M × N output at tile `acc`; with `wide`, the upper T tiles are zero and carry the same poison (R155). -/
def Cx.putResult (x : Cx) (s : State) (acc m n : Nat) (wide : Bool) (rows : List (List Elem)) : State :=
  let gc := ceilDiv n 32
  (List.range (accTiles m n)).foldl (fun s t =>
    let (ls, pz) := tileLanes rows (t / gc) (t % gc)
    let s := x.putAcc s (acc + t) ls fun q => pz.getD q false
    if wide then x.putAcc s (acc + accTiles m n + t) (List.replicate 1024 0#32) fun q => pz.getD q false
    else s) s

/-! ## Operand pairs (R121, R38, R82) -/

/-- The pairs of R121, in either order. -/
def pairOk (a b : Fmt) : Bool :=
  (a == .fp32 && b == .fp32) || (a.half && b.half) || (a.small && b.small) ||
    (a == .cb4 && b.small) || (a.small && b == .cb4) || (a.narrowInt && b.narrowInt)

/-- BLOCK_K of the wider operand (R38). -/
def blockK (a b : Fmt) : Nat :=
  let w := max a.bits b.bits
  if w == 32 then 4 else if w == 16 then 16 else 64

/-- Clocks of a block of `len` steps on an array (R82). -/
def blockClocks (a b : Fmt) (len : Nat) : Nat :=
  let w := max a.bits b.bits
  let n := if w == 32 then 4 * len else if w == 16 then len else if w == 4 then ceilDiv len 4 else ceilDiv len 2
  max n 1

/-! ## The multiplication -/

/-- An element of an expanded row of A: none where it is absent (R227). -/
abbrev MaybeElem := Option Elem

/-- One row of A with the poison of everything it depends on (R153, R230). -/
structure ARow where
  els : List MaybeElem
  poison : Bool

/-- One output element with FP32 destination (R38 to R40). -/
def mmaFloat (bs : Nat) (c : Word32) (a : ARow) (b : List Elem) : Flagged Word32 :=
  mmaElement bs c ((a.els.zip b).map fun p =>
    match p.1 with
    | some e => (e.val, p.2.val)
    | none => (.zero, .zero))

/-- One output element with INT32 destination (R41). -/
def mmaInt (fa fb : Fmt) (c : Word32) (a : ARow) (b : List Elem) : Flagged Word32 :=
  mmaIntElement c ((a.els.zip b).map fun p =>
    match p.1 with
    | some e => (toSigned fa.bits e.code, toSigned fb.bits p.2.code)
    | none => (0, 0))

/-- All elements of the result with their poison, and the flags. -/
def mmaRows (fa fb : Fmt) (idst : Bool) (c : Nat → Nat → Word32 × Bool) (as : List ARow) (bs : List (List Elem)) :
    List (List Elem) × Flags :=
  let bz : List (List Elem × Bool) := bs.map fun r => (r, r.any (·.poison))
  let rows : List (List (Elem × Flags)) := as.zipIdx.map fun (a, i) => bz.zipIdx.map fun (b, j) =>
    let (cw, cz) := c i j
    let (w, fl) := if idst then mmaInt fa fb cw a b.1 else mmaFloat (blockK fa fb) cw a b.1
    let v : Val := if idst then .ofInt (toSigned 32 w.toNat) else f32Val w
    ((⟨w.toNat, v, a.poison || b.2 || cz⟩ : Elem), fl)
  (rows.map fun r => r.map (·.1), rows.foldl (fun f r => r.foldl (fun f p => f ||| p.2) f) Flags.none)

/-- A product of a fragment-block is infinite or NaN: an element that is meets one that is present (R507). -/
def blockSpecial (as : List ARow) (bs : List (List Elem)) (lo len : Nat) : Bool :=
  let odd (e : Elem) : Bool := e.val.isNan || e.val.isInf
  let slice {α : Type} (l : List α) : List α := (l.drop lo).take len
  as.any fun a => bs.any fun b =>
    ((slice a.els).zip (slice b)).any fun p => match p.1 with | some e => odd e || odd p.2 | none => false

/-- Fragment-blocks of an MMA in the order of dispatch: by K block, then by fragment; one without an element of A is not dispatched (R82,
R83, R232). -/
def fragBlocks (fa fb : Fmt) (as : List ARow) (bs : List (List Elem)) (k : Nat) : List FragBlock :=
  let bk := blockK fa fb
  (List.range (ceilDiv k bk)).flatMap fun q =>
    let lo := q * bk
    let len := if k - lo < bk then k - lo else bk
    (List.range (ceilDiv as.length 16)).flatMap fun f =>
      let rows := (as.drop (16 * f)).take 16
      if rows.any fun r => ((r.els.drop lo).take len).any (·.isSome) then
        (List.range (ceilDiv bs.length 64)).map fun g => (blockClocks fa fb len, blockSpecial rows ((bs.drop (64 * g)).take 64) lo len)
      else []

def Cx.mmaAccum (x : Cx) : Bool := bitAt x.mode 0
def Cx.mmaOut (x : Cx) : Bool := bitAt x.mode 1
def Cx.mmaIdst (x : Cx) : Bool := bitAt x.mode 2

/-- TD, DFMT, RND and SAT are used only when OUT is 1 (R154). -/
def rsvdMma (w : Nat) : Bool :=
  field w 0 6 == 0 &&
    (bitAt w 7 || (field w 47 3 == 0 && field w 42 5 == 0 && field w 20 4 == 0))

def enumMma (w : Nat) : Bool :=
  fmtOk (field w 28 4) && fmtOk (field w 24 4) && (!bitAt w 7 || (rndOk w && fmtOk (field w 20 4)))

/-- A destination that Emit converts to may not be CB4 or E8M0, and SR needs a target of R112 (R155, R169). -/
def emitFormatOk (x : Cx) (dst : Fmt) : Bool :=
  dst != .cb4 && dst != .e8m0 && (x.rnd != 1 || dst.srTarget)

/-- Format conditions common to MMA and MMA.CSR (R121, R154, R155). -/
def Cx.mmaFormats (x : Cx) (a b : Opnd) : Bool :=
  pairOk a.f b.f && (!x.mmaIdst || (a.f.narrowInt && b.f.narrowInt && !a.mx && !b.mx)) &&
    (!x.mmaOut || emitFormatOk x (x.opnd x.td).f)

/-- C of the instruction (R154). -/
def Cx.mmaC (x : Cx) (s : State) (n : Nat) (i j : Nat) : Word32 × Bool :=
  if x.mmaAccum then x.accAt s x.acc n i j else (0#32, false)

/-- Write D to the accumulator tiles and, with OUT, to TD; release the sources; set the flags (R154). -/
def Cx.mmaFinish (x : Cx) (s : State) (ls : List Link) (m n : Nat) (r : List (List Elem) × Flags)
    (blocks : List FragBlock) : State :=
  let s := (x.putResult s x.acc m n x.mmaIdst r.1).chargeArrays x.c x.core blocks
  let (s, f2) :=
    if x.mmaOut then x.emit s (x.opnd x.td) (outLink ls) (some (if x.mmaIdst then .int32 else .fp32)) r.1
    else (s, Flags.none)
  x.raiseFlags (s.finishLinks ls) ls (r.2 ||| f2)

/-- Tiles in the task's window (R155, cause 9). -/
def Cx.mmaAccOk (x : Cx) (m n : Nat) : Bool :=
  x.acc + (if x.mmaIdst then 2 else 1) * accTiles m n ≤ x.t.accCount

/-- T2 and T3 tiles that MMA reads (R255). -/
def Cx.mmaStage (x : Cx) : List (Nat × Bool) := (x.opnd x.ta).stage ++ (x.opnd x.tb).stage

/-- The checks of MMA and its waits, and the stream operands that it uses (R139, R154, R155, R251). -/
def mmaCheck (x : Cx) (s : State) : Chk (List Link) := do
  descCheck s x x.ta 1
  descCheck s x x.tb 1
  if x.mmaOut then descCheck s x x.td 2 else .ok ()
  fmtCheck x x.ta x.afmt
  fmtCheck x x.tb x.bfmt
  if x.mmaOut then fmtCheck x x.td x.dfmt else .ok ()
  let a := x.opnd x.ta
  let b := x.opnd x.tb
  let d := x.opnd x.td
  need (x.mmaFormats a b) badFormat
  let m := a.d.rows
  let n := b.d.rows
  need (m ≤ 256 && n ≤ 256 && a.d.cols ≤ 8192 && a.d.cols == b.d.cols &&
    (!x.mmaOut || (d.d.rows == m && d.d.cols == n)) && s.stageFits x.c x.mmaStage) badShape
  need (x.mmaAccOk m n) (.ill 9 false)
  let ls ← x.links s [(x.ta, a.count), (x.tb, b.count)] (if x.mmaOut then [(x.td, d.count)] else [])
  s.linkRules ls
  descPoisons x ([x.ta, x.tb] ++ if x.mmaOut then [x.td] else [])
  s.needFilled ls
  s.needStaged x x.mmaStage
  s.needRoom ls
  .ok ls

/-- Rows of the sources as MMA reads them, a stream source from its ring: A by rows, B by columns of the product (R154). -/
def Cx.mmaA (x : Cx) (s : State) (ls : List Link) : List ARow :=
  (List.range (x.opnd x.ta).d.rows).map fun i =>
    let r := (x.view s ls x.ta).row s x i
    ⟨r.map some, r.any (·.poison)⟩
def Cx.mmaB (x : Cx) (s : State) (ls : List Link) : List (List Elem) :=
  (List.range (x.opnd x.tb).d.rows).map fun j => (x.view s ls x.tb).row s x j

/-- What MMA does (R154, R155). -/
def mmaRun (x : Cx) (s : State) (ls : List Link) : State :=
  let a := x.opnd x.ta
  let b := x.opnd x.tb
  let m := a.d.rows
  let n := b.d.rows
  let (as, bs) := (x.mmaA s ls, x.mmaB s ls)
  let r := mmaRows a.f b.f x.mmaIdst (x.mmaC s n) as bs
  x.mmaFinish (s.useStaged x.core x.slot x.c x.mmaStage) ls m n r (fragBlocks a.f b.f as bs a.d.cols)

/-- MMA (R154, R155). -/
def mmaBody (x : Cx) (s : State) : Chk Next := do
  let ls ← mmaCheck x s
  .ok (.retire (mmaRun x s ls))

def execMma (i : Issue) (s : State) : Host.Outcome State Fault Refusal :=
  issue ⟨0x30, false, fun w _ => rsvdMma w, fun w _ => enumMma w⟩ mmaBody i s

/-! ## CSR operands (R224 to R228) -/

/-- Number of elements of an extent. -/
def Opnd.elems (o : Opnd) : Nat := o.d.rows * o.d.cols

/-- An INT32 element at a flat index, with its poison. -/
def Opnd.intAt (o : Opnd) (s : State) (x : Cx) (idx : Nat) : Int × Bool :=
  let e := o.at s x idx
  (toSigned 32 e.code, e.poison)

def clampNat (i : Int) (z : Nat) : Nat := if i < 0 then 0 else if i.toNat > z then z else i.toNat

/-- The positions lo to hi − 1 of a row's entries that MMA.CSR reads, before the limit of K entries. -/
def csrSpan (lo hi : Int) (z : Nat) : Nat × Nat := (clampNat lo z, clampNat hi z)

/-- Place the entries of a row: the expanded row (R227). -/
def csrPlace (k : Nat) (entries : List (Int × Elem)) : List MaybeElem :=
  (entries.foldl (fun (acc : List MaybeElem × Int) p =>
    if acc.2 < p.1 && p.1 < (k : Int) then (acc.1.set p.1.toNat (some p.2), p.1) else acc)
    (List.replicate k none, -1)).1

/-- The expanded row `r` of a CSR operand with its poison (R227, R230). -/
def csrRow (s : State) (x : Cx) (va ci pt : Opnd) (k r : Nat) : ARow :=
  let z := va.elems
  let p0 := pt.intAt s x r
  let p1 := pt.intAt s x (r + 1)
  let (lo, hi) := csrSpan p0.1 p1.1 z
  let hi := if lo + k < hi then lo + k else hi
  let es := (List.range (hi - lo)).map fun q =>
    let c := ci.intAt s x (lo + q)
    (c, va.at s x (lo + q))
  ⟨csrPlace k (es.map fun e => (e.1.1, e.2)),
    p0.2 || p1.2 || es.any fun e => e.1.2 || e.2.poison⟩

/-- Value formats of a CSR operand (R226). -/
def csrValueOk (o : Opnd) : Bool :=
  !o.mx && (o.f == .fp32 || o.f.half || o.f.small || o.f.narrowInt)

/-- Sizes of a CSR operand (R225). -/
def csrShapeOk (va ci pt : Opnd) : Bool :=
  va.elems ≤ 2097152 && ci.elems == va.elems && 3 ≤ pt.elems && pt.elems ≤ 258

/-- T2 and T3 tiles that MMA.CSR reads (R255). -/
def Cx.csrStage (x : Cx) : List (Nat × Bool) :=
  (x.opnd x.ta).stage ++ (x.opnd x.tb).stage ++ (x.opnd x.te).stage ++ (x.opnd x.tf).stage

/-- The checks of MMA.CSR and its waits, and the stream operands that it uses (R139, R157, R224 to R228). -/
def mmaCsrCheck (x : Cx) (s : State) : Chk (List Link) := do
  descCheck s x x.ta 0
  descCheck s x x.tb 1
  if x.mmaOut then descCheck s x x.td 2 else .ok ()
  descCheck s x x.te 0
  descCheck s x x.tf 0
  fmtCheck x x.ta x.afmt
  fmtCheck x x.tb x.bfmt
  if x.mmaOut then fmtCheck x x.td x.dfmt else .ok ()
  let a := x.opnd x.ta
  let b := x.opnd x.tb
  let d := x.opnd x.td
  let ci := x.opnd x.te
  let pt := x.opnd x.tf
  need (csrValueOk a && ci.f == .int32 && pt.f == .int32 && x.mmaFormats a b) badFormat
  let m := pt.elems - 2
  let n := b.d.rows
  let k := b.d.cols
  need (csrShapeOk a ci pt && n ≤ 256 && k ≤ 8192 &&
    (!x.mmaOut || (d.d.rows == m && d.d.cols == n)) && s.stageFits x.c x.csrStage) badShape
  need (x.mmaAccOk m n) (.ill 9 false)
  let ls ← x.links s [(x.tb, b.count)] (if x.mmaOut then [(x.td, d.count)] else [])
  s.linkRules ls
  descPoisons x ([x.ta, x.tb, x.te, x.tf] ++ if x.mmaOut then [x.td] else [])
  s.needFilled ls
  s.needStaged x x.csrStage
  s.needRoom ls
  .ok ls

/-- What MMA.CSR does (R157, R229 to R233). -/
def mmaCsrRun (x : Cx) (s : State) (ls : List Link) : State :=
  let a := x.opnd x.ta
  let b := x.opnd x.tb
  let pt := x.opnd x.tf
  let m := pt.elems - 2
  let n := b.d.rows
  let k := b.d.cols
  let as := (List.range m).map fun r => csrRow s x a (x.opnd x.te) pt k r
  let bs := x.mmaB s ls
  let r := mmaRows a.f b.f x.mmaIdst (x.mmaC s n) as bs
  x.mmaFinish (s.useStaged x.core x.slot x.c x.csrStage) ls m n r (fragBlocks a.f b.f as bs k)

/-- MMA.CSR (R157, R224 to R233). -/
def mmaCsrBody (x : Cx) (s : State) : Chk Next := do
  let ls ← mmaCsrCheck x s
  .ok (.retire (mmaCsrRun x s ls))

/-- X-TEN with TE and TF; SREG2 and IMM16X are 0 (R157). -/
def execMmaCsr (i : Issue) (s : State) : Host.Outcome State Fault Refusal :=
  issue ⟨0x31, true, fun w e => rsvdMma w && field e 0 54 == 0, fun w _ => enumMma w⟩ mmaCsrBody i s

/-! ## ACC.OUT (R169) -/

/-- The checks of ACC.OUT and its wait, and its stream destination (R139, R169). -/
def accOutCheck (x : Cx) (s : State) : Chk (List Link) := do
  descCheck s x x.td 2
  fmtCheck x x.td x.dfmt
  let d := x.opnd x.td
  need ((x.afmt == 1 || x.afmt == 11) && emitFormatOk x d.f) badFormat
  let m := d.d.rows
  let n := d.d.cols
  need (m ≤ 256 && n ≤ 256) badShape
  need (x.acc + accTiles m n ≤ x.t.accCount) (.ill 9 false)
  let ls ← x.links s [] [(x.td, d.count)]
  s.linkRules ls
  descPoisons x [x.td]
  s.needRoom ls
  .ok ls

/-- The accumulator elements that ACC.OUT reads, as FP32 or INT32 (R169). -/
def Cx.accRows (x : Cx) (s : State) : List (List Elem) :=
  let d := x.opnd x.td
  let src : Fmt := if x.afmt == 1 then .fp32 else .int32
  (List.range d.d.rows).map fun i => (List.range d.d.cols).map fun j =>
    let (w, pz) := x.accAt s x.acc d.d.cols i j
    (⟨w.toNat, src.decode w.toNat, pz⟩ : Elem)

/-- What ACC.OUT does (R169). -/
def accOutRun (x : Cx) (s : State) (ls : List Link) : State :=
  let r := x.emit s (x.opnd x.td) (outLink ls) (some (if x.afmt == 1 then .fp32 else .int32)) (x.accRows s)
  x.raiseFlags (r.1.finishLinks ls) ls r.2

def accOutBody (x : Cx) (s : State) : Chk Next := do
  let ls ← accOutCheck x s
  .ok (.retire (accOutRun x s ls))

def execAccOut (i : Issue) (s : State) : Host.Outcome State Fault Refusal :=
  issue ⟨0x65, false, fun w _ => field w 32 10 == 0 && field w 24 4 == 0 && field w 0 9 == 0,
    fun w _ => rndOk w && fmtOk (field w 28 4) && fmtOk (field w 20 4)⟩ accOutBody i s

/-! ## CVT (R170) -/

/-- Columns that an MX-scaled destination of CVT may have (R170). -/
def mxColsOk (o : Opnd) : Bool := !o.mx || o.d.cols % 32 == 0 || o.d.cols < 32

/-- The checks of CVT and its waits, and the stream operands that it uses (R139, R170). -/
def cvtCheck (x : Cx) (s : State) : Chk (List Link) := do
  descCheck s x x.ta 1
  descCheck s x x.td 2
  fmtCheck x x.ta x.afmt
  fmtCheck x x.td x.dfmt
  let a := x.opnd x.ta
  let d := x.opnd x.td
  need (convKind a.f d.f != .illegal && (x.rnd != 1 || d.f.srTarget)) badFormat
  need (a.d.rows == d.d.rows && a.d.cols == d.d.cols && d.count ≤ 256 && mxColsOk d &&
    s.stageFits x.c a.stage) badShape
  let ls ← x.links s [(x.ta, a.count)] [(x.td, d.count)]
  s.linkRules ls
  descPoisons x [x.ta, x.td]
  s.needFilled ls
  s.needStaged x a.stage
  s.needRoom ls
  .ok ls

/-- What CVT does (R170). -/
def cvtRun (x : Cx) (s : State) (ls : List Link) : State :=
  let a := x.opnd x.ta
  let av := x.view s ls x.ta
  let r := x.emit s (x.opnd x.td) (outLink ls) (if a.mx then none else some a.f)
    ((List.range a.d.rows).map fun r => av.row s x r)
  x.raiseFlags ((r.1.useStaged x.core x.slot x.c a.stage).finishLinks ls) ls r.2

def cvtBody (x : Cx) (s : State) : Chk Next := do
  let ls ← cvtCheck x s
  .ok (.retire (cvtRun x s ls))

def execCvt (i : Issue) (s : State) : Host.Outcome State Fault Refusal :=
  issue ⟨0x60, false, fun w _ => field w 32 5 == 0 && field w 24 4 == 0 && field w 0 20 == 0,
    fun w _ => rndOk w && fmtOk (field w 28 4) && fmtOk (field w 20 4)⟩ cvtBody i s

end Sys2Proof.Machine
end

