-- ==== Sys2Proof/Machine/Resumable.lean ====
section
/-!
DEFINITION. The resumable instructions that work by tile units: SPVALID, TCOPY, TFILL, GATHER.DL and SCATTER (R158,
R171 to R182, R217, R234 to R236).
-/
namespace Sys2Proof.Machine
open Sys2Proof

/-- What one unit does beyond its operands: the state, and the flags it raises. -/
abbrev Effect := State × Flags

/-- What one unit of each resumable instruction does. -/
inductive UnitKind where
  | spvalid
  | tcopy
  | tfill
  | gather
  | scatter
  deriving DecidableEq, Repr

/-- A resumable instruction as its units see it. -/
structure Units where
  /-- Number of units. -/
  n : Nat
  /-- Tiles of T2 and T3 that unit `u` reads, known before it runs (R255). -/
  stage : Nat → List (Nat × Bool)
  /-- Inbound and outbound stream operands with their tiles for each unit. -/
  ins : List (Nat × Nat)
  outs : List (Nat × Nat)
  /-- What each unit does. -/
  kind : UnitKind

/-! ## Rows of operands -/

/-- Tile (a, b) of a grid by its place in the order of R151. -/
def Opnd.tileNo (o : Opnd) (u : Nat) : Nat × Nat := (u / o.gc, u % o.gc)

/-- Side-area ranges of tile (a, b): its rows of scales, or the records of its tile row, carried with its first tile (R171). -/
def Opnd.tileSide (o : Opnd) (a b : Nat) : List (Nat × Nat) :=
  if o.f == .cb4 then (if b == 0 then [(o.d.side + 34 * (a * o.tr), 34 * o.rowsIn a)] else [])
  else if o.mx then (List.range (o.rowsIn a)).map fun r =>
    (o.scaleAddr (a * o.tr + r) (b * (o.tc / 32)), ceilDiv (o.colsIn b) 32)
  else []

/-- Side-area ranges of extent row `r` (R182). -/
def Opnd.rowSide (o : Opnd) (r : Nat) : List (Nat × Nat) :=
  if o.f == .cb4 then [(o.d.side + 34 * r, 34)]
  else if o.mx then (List.range o.gc).map fun b => (o.scaleAddr r (b * (o.tc / 32)), ceilDiv (o.colsIn b) 32)
  else []

/-- T2 and T3 slots of tile (a, b) with its side area. -/
def Opnd.tileStage (o : Opnd) (a b : Nat) : List (Nat × Bool) :=
  let slots :=
    (match o.tiles with
     | .mem .. => lowerTiles (o.tileAddr a b) 4096
     | .ring .. => []
     | .send => []) ++ (o.tileSide a b).flatMap fun p => lowerTiles p.1 p.2
  slots.map fun q => (q, o.d.place == 1)

/-- Elements of tile (a, b) as codes with the poison of their own sectors. -/
def Opnd.tileCodes (o : Opnd) (s : State) (x : Cx) (a b : Nat) : List (List (Nat × Bool)) :=
  (List.range (o.rowsIn a)).map fun r => o.codes s x (a * o.tr + r) (b * o.tc) (o.colsIn b)

/-- Write one extent row, tile column by tile column (R177, R182). -/
def State.putRow (s : State) (x : Cx) (o : Opnd) (r : Nat) (codes : List (Nat × Bool)) : State :=
  (List.range o.gc).foldl (fun s b =>
    s.writeBits x.c (o.tileAddr (r / o.tr) b + (r % o.tr) * o.rowBytes) 0 o.f.bits
      ((codes.drop (b * o.tc)).take (o.colsIn b))) s

/-- `n` side-area bytes from `a` as they stand, each with the poison of its sector. -/
def State.sideBytes (s : State) (x : Cx) (a n : Nat) : List (Byte × Bool) :=
  (s.tread x.core x.c a n).zipIdx.map fun b => (b.1, s.tpoison x.core x.c (a + b.2) 1)

/-- A source view whose ring position belongs to tile `t` of the grid: earlier units took the tiles before it (R251). -/
def Opnd.fromTile (o : Opnd) (t : Nat) : Opnd :=
  match o.tiles with
  | .ring base len head => { o with tiles := .ring base len (head + t * len - t) }
  | .mem .. => o
  | .send => o

/-- The tiles of band `u` sent on a stream (R217). -/
def State.sendBand (s : State) (o : Opnd) (k : Nat) (rows : List (List (Nat × Bool))) : State :=
  s.send k false ((List.range o.gc).map fun b =>
    o.payload (rows.map fun r => (r.drop (b * o.tc)).take (o.colsIn b)))

/-! ## TCOPY and TFILL (R171, R172) -/

/-- Which MX blocks of a row have a poisoned element: their scales are poisoned (R153). -/
def blockPoison (row : List (Nat × Bool)) : List Bool := (chunks 32 (row.length + 1) row).map fun b => b.any (·.2)

/-- The side-area bytes that travel with tile (a, b), read before any of them is written: its scales, each with its block's poison too,
or its records (R153, R171). -/
def tcopySide (x : Cx) (s : State) (src d : Opnd) (a b : Nat) (rows : List (List (Nat × Bool))) : List Poke :=
  ((src.tileSide a b).zip (d.tileSide a b)).zipIdx.flatMap fun p =>
    let bad := if d.mx then blockPoison (rows.getD p.2 []) else []
    (s.sideBytes x p.1.1.1 p.1.1.2).zipIdx.map fun q => ⟨p.1.2.1 + q.2, q.1.1, q.1.2 || bad.getD q.2 false⟩

/-- One tile of TCOPY (R171). Where only one of TA and TD has a side area for an MX format, the tile is copied and no scales travel:
the spec names no check for it (DESIGN CHOICE, log entry 27). -/
def tcopyUnit (x : Cx) (s : State) (ls : List Link) (u : Nat) (_ : GatherBand) : Chk Effect :=
  let d := x.opnd x.td
  let (a, b) := d.tileNo u
  let src := (x.view s ls x.ta).fromTile u
  let rows := src.tileCodes s x a b
  let s := s.pokes x.c (tcopySide x s src d a b rows)
  let s :=
    match outLink ls with
    | none => d.writeTile x.c a b rows s
    | some k => s.send k false [d.payload rows]
  .ok (s, Flags.none)

def tcopyUnits (x : Cx) : Units :=
  let a := x.opnd x.ta
  let d := x.opnd x.td
  ⟨d.count, fun u => a.tileStage (a.tileNo u).1 (a.tileNo u).2, [(x.ta, 1)], [(x.td, 1)], .tcopy⟩

def tcopyCheck (x : Cx) (s : State) : Chk Units := do
  descCheck s x x.ta 1
  descCheck s x x.td 2
  fmtCheck x x.ta x.afmt
  fmtCheck x x.td x.dfmt
  let a := x.opnd x.ta
  let d := x.opnd x.td
  need (a.f == d.f) badFormat
  need (a.d.rows == d.d.rows && a.d.cols == d.d.cols && d.count ≤ 2 ^ 24) badShape
  .ok (tcopyUnits x)

def tfillUnit (x : Cx) (s : State) (ls : List Link) (u : Nat) (_ : GatherBand) : Chk Effect :=
  let d := x.opnd x.td
  let (a, b) := d.tileNo u
  let pz := x.t.regPoison x.sreg
  let code := (x.s x.sreg % 2 ^ d.f.bits, pz)
  let rows := List.replicate (d.rowsIn a) (List.replicate (d.colsIn b) code)
  let s := s.pokes x.c ((d.tileSide a b).flatMap fun p => (List.range p.2).map fun i => ⟨p.1 + i, 127#8, pz⟩)
  let s :=
    match outLink ls with
    | none => d.writeTile x.c a b rows s
    | some k => s.send k false [d.payload rows]
  .ok (s, Flags.none)

def tfillUnits (x : Cx) : Units := ⟨(x.opnd x.td).count, fun _ => [], [], [(x.td, 1)], .tfill⟩

def tfillCheck (x : Cx) (s : State) : Chk Units := do
  descCheck s x x.td 2
  fmtCheck x x.td x.dfmt
  let d := x.opnd x.td
  need (d.f != .cb4) badFormat
  need (d.count ≤ 2 ^ 24) badShape
  .ok (tfillUnits x)

/-! ## SPVALID (R158, R234 to R236) -/

/-- Add to the count in s[SREG2][31:0], whose upper half is 0; poison is kept (R235). -/
def Cx.addCount (x : Cx) (s : State) (n : Nat) (poisoned : Bool) : State :=
  s.modTask x.core x.slot fun t =>
    t.setReg x.sreg2 (BitVec.ofNat 64 (((t.reg x.sreg2).toNat + n) % 2 ^ 32)) (t.regPoison x.sreg2 || poisoned)

/-- T2 and T3 tiles that hold flat elements [lo, hi) of an operand. -/
def Opnd.flatStage (o : Opnd) (lo hi : Nat) : List (Nat × Bool) :=
  ((List.range (hi - lo)).map fun i =>
      let (r, c) := o.coord (lo + i)
      o.tileAddr (r / o.tr) (c / o.tc)).eraseDups.filterMap fun a =>
    if upperTier a then none else some (a, o.d.place == 1)

/-- Rows of band `u`. -/
def spBand (pt : Opnd) (u : Nat) : Nat × Nat := (32 * u, if 32 * u + 32 < pt.elems - 2 then 32 * u + 32 else pt.elems - 2)

/-- TF tiles of a band: its pointers and the trailer (R236). -/
def spPtrStage (pt : Opnd) (u : Nat) : List (Nat × Bool) :=
  let (lo, hi) := spBand pt u
  pt.flatStage lo (hi + 1) ++ pt.flatStage (pt.elems - 1) pt.elems

/-- Whether row `r` is ill-formed, and whether anything that was read for it is poisoned (R228, R234, R235). -/
def spRow (s : State) (x : Cx) (ci pt : Opnd) (r : Nat) : Bool × Bool :=
  let z := ci.elems
  let tr := pt.intAt s x (pt.elems - 1)
  let p0 := pt.intAt s x r
  let p1 := pt.intAt s x (r + 1)
  let (lo, hi) := csrSpan p0.1 p1.1 z
  let es := (List.range (hi - lo)).map fun q => ci.intAt s x (lo + q)
  let poison := tr.2 || p0.2 || p1.2 || es.any (·.2)
  let ptrOk := 0 ≤ p0.1 && p0.1 ≤ p1.1 && p1.1 ≤ (z : Int)
  let ascending := (es.foldl (fun (acc : Bool × Int) e =>
    (acc.1 && acc.2 < e.1 && e.1 < tr.1, e.1)) (true, -1)).1
  (!(1 ≤ tr.1 && tr.1 ≤ 8192 && ptrOk && ascending) || poison, poison)

def spvalidUnit (x : Cx) (s : State) (_ : List Link) (u : Nat) (_ : GatherBand) : Chk Effect := do
  let ci := x.opnd x.te
  let pt := x.opnd x.tf
  let d := x.opnd x.td
  let (lo, hi) := spBand pt u
  let spans := (List.range (hi - lo)).flatMap fun i =>
    let (a, b) := csrSpan (pt.intAt s x (lo + i)).1 (pt.intAt s x (lo + i + 1)).1 ci.elems
    ci.flatStage a b
  let tiles := spPtrStage pt u ++ spans
  s.needStaged x tiles
  let rows := (List.range (hi - lo)).map fun i => spRow s x ci pt (lo + i)
  let word := (rows.zipIdx.foldl fun n p => if p.1.1 then n + 2 ^ p.2 else n) 0
  let bad := rows.any (·.2)
  let s := s.putElem x d u (word, bad)
  let s := s.useStaged x.core x.slot x.c tiles
  .ok (x.addCount s (rows.filter (·.1)).length bad, Flags.none)

def spvalidUnits (x : Cx) : Units :=
  let pt := x.opnd x.tf
  ⟨ceilDiv (pt.elems - 2) 32, fun u => spPtrStage pt u, [], [], .spvalid⟩

def spvalidCheck (x : Cx) (s : State) : Chk Units := do
  descCheck s x x.td 3
  descCheck s x x.ta 0
  descCheck s x x.te 0
  descCheck s x x.tf 0
  fmtCheck x x.ta x.afmt
  let a := x.opnd x.ta
  let ci := x.opnd x.te
  let pt := x.opnd x.tf
  let d := x.opnd x.td
  need (csrValueOk a && ci.f == .int32 && pt.f == .int32 && d.f == .int32) badFormat
  need (csrShapeOk a ci pt && d.d.rows == 1 && d.d.cols == ceilDiv (pt.elems - 2) 32 &&
    (List.range (ceilDiv (pt.elems - 2) 32)).all fun u => s.stageFits x.c (spPtrStage pt u ++ ci.stage)) badShape
  .ok (spvalidUnits x)

/-! ## Index lists -/

/-- Index positions of band `u` of `tr` rows. -/
def bandOf (n tr u : Nat) : Nat × Nat := (tr * u, if tr * u + tr < n then tr * u + tr else n)

/-- The index values of a band; a poisoned index is an observing use (R180, R182). -/
def bandIndex (x : Cx) (s : State) (o : Opnd) (lo hi : Nat) : Chk (List Int) := do
  let l := (List.range (hi - lo)).map fun i => o.intAt s x (lo + i)
  need (!l.any (·.2)) (.poison 2 0 x.tb)
  .ok (l.map (·.1))

/-! ## GATHER.DL (R176 to R180) -/

/-- (address, columns) of extent row `r` in each tile column. -/
def Opnd.rowSegs (o : Opnd) (r : Nat) : List (Nat × Nat) :=
  (List.range o.gc).map fun b => (o.tileAddr (r / o.tr) b + (r % o.tr) * o.rowBytes, o.colsIn b)

/-- The formats of a gathered table (R176). -/
def gatherFmt (f : Fmt) : Bool :=
  f == .fp32 || f.half || f == .e4m3 || f == .e5m2 || f == .int8

/-- How a row of the table reaches its band. -/
inductive GatherRow where
  /-- The row, its codes, and whether any sector of it is poisoned. -/
  | row (codes : List Nat) (poison : Bool)
  /-- Not arrived by the deadline; a status and global address where the read was refused or found no path. -/
  | late (refused : Option (Nat × Nat))

/-- The row of a table as the band receives it: from T0 or T1 directly, from T2 where the band's data says that it arrived, from T3
with the answer the band's data carries (R177). -/
def gatherRow (x : Cx) (s : State) (o : Opnd) (r : Nat) (ans : Option Reply) : GatherRow :=
  let segs := o.rowSegs r
  let a0 := (segs.headD (0, 0)).1
  let bytesOf (n : Nat) := ceilDiv (n * o.f.bits) 8
  match region a0 with
  | .t2 _ =>
    match ans with
    | none => .late none
    | some _ =>
      let parts := segs.map fun g =>
        let (bs, pz) := s.t2Read (s.partOf x.c) (g.1 - 0x20000000000) (bytesOf g.2)
        (unpackCodes o.f.bits g.2 bs, (List.range (bytesOf g.2)).any pz)
      .row (parts.flatMap (·.1)) (parts.any (·.2))
  | .t3 i off =>
    let g := (s.aperture x.c i).elim 0 (·.1) + off
    let cut (bs : List Byte) : List Nat :=
      (segs.foldl (fun (acc : List Nat × List Byte) g =>
        (acc.1 ++ unpackCodes o.f.bits g.2 (acc.2.take (bytesOf g.2)), acc.2.drop (bytesOf g.2))) ([], bs)).1
    match ans with
    | none => .late none
    | some (.ok bs) => .row (cut bs) false
    | some (.poisoned bs) => .row (cut bs) true
    | some (.status 5) => .row (cut ((List.range (segs.map fun g => bytesOf g.2).sum).map fun k => Config.freeByte s.draws (65536 * r + k))) true
    | some (.status c) => .late (some (c, g))
  | .t0 .. | .t1 .. | .hole =>
    let cs := segs.zipIdx.flatMap fun p => o.codes s x r (p.2 * o.tc) p.1.2
    .row (cs.map (·.1)) (cs.any (·.2))

/-- A refused or pathless read of the requester: the context's counter and the event (R177, R394, R422). -/
def State.readRefused (s : State) (c status g ptype : Nat) : State :=
  let node := g / 2 ^ 44
  if status == 3 then
    (s.bump (Fld.vblUnreachCount c)).raiseCtx srcVirbael 0x0801 2 c (node + ptype * 2 ^ 44) g
  else if status == 1 || status == 2 then
    (s.bump (Fld.vblDeniedCount c)).raiseCtx srcVirbael 0x0800 2 c
      (node + s.jobOf c * 2 ^ 20 + ptype * 2 ^ 44 + 2 ^ 52 + status * 2 ^ 56) g
  else s

/-- Shadow row `r` converted from CB4 to the destination's format, with its poison (R106, R118, R177). -/
def shadowRow (x : Cx) (s : State) (d e : Opnd) (out : Option Nat) (u r p : Nat) : List Nat × Bool × Flags :=
  let es := e.row s x r
  let idx (c : Nat) : Nat :=
    match out with
    | none => d.flat p c
    | some k => ((s.epD k).carried + c / d.tc) * d.f.perTile + ((p - u * d.tr) % d.tr) * d.tc + c % d.tc
  let rs := es.zipIdx.map fun q => convert .cb4 d.f (rounding s x x.rnd (idx q.2)) x.sat q.1.code q.1.val
  (rs.map (·.1), es.any (·.poison), rs.foldl (fun f r => f ||| r.2) Flags.none)

/-- What one index position gives: its codes and poison, its status bit, whether it was substituted or bad, the flags, and a refused
read. -/
structure Gathered where
  codes : List (Nat × Bool)
  bit : Bool
  subst : Bool
  bad : Bool
  flags : Flags
  refused : Option (Nat × Nat)

def gatherOne (x : Cx) (s : State) (out : Option Nat) (band : GatherBand) (u p : Nat) (v : Int) : Gathered :=
  let t := x.opnd x.ta
  let d := x.opnd x.td
  let zero := List.replicate d.d.cols (0, false)
  if v = -1 then ⟨zero, false, false, false, Flags.none, none⟩
  else if v < 0 || (t.d.rows : Int) ≤ v then ⟨zero, true, false, true, Flags.none, none⟩
  else
    match gatherRow x s t v.toNat (List.lookup p band) with
    | .row cs pz => ⟨cs.map fun c => (c, pz), false, false, false, Flags.none, none⟩
    | .late ref =>
      let (cs, pz, fl) := shadowRow x s d (x.opnd x.te) out u v.toNat p
      ⟨cs.map fun c => (c, pz), true, true, false, fl, ref⟩

/-- Global address and bytes of each piece of a table row in T3; none for a row that lies elsewhere (R181). -/
def gatherReads (x : Cx) (s : State) (o : Opnd) (v : Int) : List (Nat × Nat) :=
  if v < 0 || (o.d.rows : Int) ≤ v then [] else
  (o.rowSegs v.toNat).filterMap fun g =>
    match region g.1 with
    | .t3 i off => some ((s.aperture x.c i).elim 0 (·.1) + off, ceilDiv (g.2 * o.f.bits) 8)
    | .t0 .. | .t1 .. | .t2 _ | .hole => none

/-- The requests of one row of a band, in class CT: they leave the module, are answered here, or find no path (R181, R389, R397). -/
def State.askRow (s : State) (c : Nat) (reads : List (Nat × Nat)) (ans : Option Reply) : State × Option Reply :=
  match reads with
  | [] => (s, ans)
  | (g, _) :: _ =>
    let s := s.closeFor c (g / 2 ^ 44)
    if g / 2 ^ 44 == s.ownNode then
      let r := s.ownReads (s.jobOf c) reads
      (r.1, some r.2)
    else if s.hasPath (g / 2 ^ 44) then (reads.foldl (fun s q => s.emit (.fetch (s.jobOf c) q.1 q.2)) s, ans)
    else (s, some (.status vUnreach))

/-- A band requests its rows from T3 in ascending index position; the answers by position (R181). -/
def gatherAsk (x : Cx) (s : State) (lo : Nat) (vs : List Int) (band : GatherBand) : State × GatherBand :=
  vs.zipIdx.foldl (fun r q =>
    let p := lo + q.2
    let a := r.1.askRow x.c (gatherReads x r.1 (x.opnd x.ta) q.1) (List.lookup p band)
    (a.1, r.2 ++ (a.2.map fun y => (p, y)).toList)) (s, [])

def gatherUnit (x : Cx) (s : State) (ls : List Link) (u : Nat) (band : GatherBand) : Chk Effect := do
  let d := x.opnd x.td
  let ix := x.opnd x.tb
  let st := x.opnd x.tf
  let (lo, hi) := bandOf ix.elems d.tr u
  let vs ← bandIndex x s ix lo hi
  let (s, band) := gatherAsk x s lo vs band
  let gs : List Gathered := vs.zipIdx.map fun p => gatherOne x s (outLink ls) band u (lo + p.2) p.1
  let s' : State :=
    match outLink ls with
    | none => gs.zipIdx.foldl (fun s p => s.putRow x d (lo + p.2) p.1.codes) s
    | some k => s.sendBand d k (gs.map (·.codes))
  let words := (List.range (ceilDiv (hi - lo) 32)).map fun w =>
    ((gs.drop (32 * w)).take 32).zipIdx.foldl (fun n p => if p.1.bit then n + 2 ^ p.2 else n) 0
  let s' := words.zipIdx.foldl (fun s p => s.putElem x st (lo / 32 + p.2) (p.1, false)) s'
  let s' := gs.foldl (fun s g => match g.refused with | some r => s.readRefused x.c r.1 r.2 1 | none => s) s'
  let subs := (gs.filter (·.subst)).length
  let bads := (gs.filter (·.bad)).length
  let s' := s'.modTask x.core x.slot fun t =>
    let v := (t.reg x.sreg2).toNat
    t.setReg x.sreg2 (BitVec.ofNat 64 ((v + subs) % 2 ^ 32 + (v / 2 ^ 32 + bads) % 2 ^ 32 * 2 ^ 32)) false
  let s' := s'.wrap64 (Reg.migFallback x.c) subs
  .ok ({ s' with draws := s'.draws + 1 }, gs.foldl (fun f g => f ||| g.flags) Flags.none)

def gatherUnits (x : Cx) : Units :=
  let d := x.opnd x.td
  let ix := x.opnd x.tb
  ⟨ceilDiv ix.elems d.tr, fun u => let (lo, hi) := bandOf ix.elems d.tr u; ix.flatStage lo hi, [], [(x.td, d.gc)],
    .gather⟩

/-- Tiles and side area of an operand lie in T1 (R176). -/
def Opnd.allT1 (o : Opnd) : Bool :=
  (o.grid.all fun p => inT1 (o.tileAddr p.1 p.2)) && (o.sideBytes == 0 || inT1 o.d.side)

def gatherCheck (x : Cx) (s : State) : Chk Units := do
  descCheck s x x.td 2
  descCheck s x x.ta 0
  descCheck s x x.tb 0
  descCheck s x x.te 0
  descCheck s x x.tf 3
  fmtCheck x x.ta x.afmt
  fmtCheck x x.tb x.bfmt
  fmtCheck x x.td x.dfmt
  let t := x.opnd x.ta
  let ix := x.opnd x.tb
  let d := x.opnd x.td
  let e := x.opnd x.te
  let st := x.opnd x.tf
  need (gatherFmt t.f && !t.mx && ix.f == .int32 && d.f == t.f && e.f == .cb4 && st.f == .int32 &&
    (x.rnd != 1 || d.f.srTarget)) badFormat
  let n := ix.d.cols
  let us := gatherUnits x
  need (ix.d.rows == 1 && n ≤ 65536 && d.d.rows == n && d.d.cols == t.d.cols && e.d.rows == t.d.rows &&
    e.d.cols == t.d.cols && st.d.rows == 1 && st.d.cols == ceilDiv n 32 && x.s x.sreg / 2 ^ 32 == 0 && e.allT1 &&
    (List.range us.n).all fun u => s.stageFits x.c (us.stage u)) badShape
  .ok us

/-! ## SCATTER (R182) -/

def scatterUnit (x : Cx) (s : State) (ls : List Link) (u : Nat) (_ : GatherBand) : Chk Effect := do
  let a := (x.view s ls x.ta).fromTile (u * (x.opnd x.ta).gc)
  let ix := x.opnd x.tb
  let d := x.opnd x.td
  let (lo, hi) := bandOf ix.elems a.tr u
  let vs ← bandIndex x s ix lo hi
  let s' := vs.zipIdx.foldl (fun s' p =>
    if p.1 < 0 || (d.d.rows : Int) ≤ p.1 then s' else
    let r := lo + p.2
    let es := (List.range a.gc).flatMap fun b => a.codes s x r (b * a.tc) (a.colsIn b)
    let side := (a.rowSide r).map fun q => s.tpoison x.core x.c q.1 q.2
    let bad := es.any (·.2) || side.any id
    let s' := s'.putRow x d p.1.toNat (es.map fun e => (e.1, bad))
    ((a.rowSide r).zip (d.rowSide p.1.toNat)).foldl (fun s' q =>
      s'.twrite x.c q.2.1 (s.tread x.core x.c q.1.1 q.1.2) fun _ => bad) s') s
  let bads := (vs.filter fun v => v != -1 && (v < 0 || (d.d.rows : Int) ≤ v)).length
  .ok (x.addCount s' bads false, Flags.none)

def scatterUnits (x : Cx) : Units :=
  let a := x.opnd x.ta
  let ix := x.opnd x.tb
  ⟨ceilDiv ix.elems a.tr, fun u =>
      let (lo, hi) := bandOf ix.elems a.tr u
      ix.flatStage lo hi ++ (List.range a.gc).flatMap fun b => a.tileStage u b,
    [(x.ta, a.gc)], [], .scatter⟩

def scatterCheck (x : Cx) (s : State) : Chk Units := do
  descCheck s x x.td 3
  descCheck s x x.ta 1
  descCheck s x x.tb 0
  fmtCheck x x.ta x.afmt
  fmtCheck x x.tb x.bfmt
  fmtCheck x x.td x.dfmt
  let a := x.opnd x.ta
  let ix := x.opnd x.tb
  let d := x.opnd x.td
  need (ix.f == .int32 && d.f == a.f && (a.d.side != 0) == (d.d.side != 0)) badFormat
  let n := ix.d.cols
  let us := scatterUnits x
  need (ix.d.rows == 1 && n ≤ 65536 && a.d.rows == n && d.d.cols == a.d.cols &&
    (List.range us.n).all fun u => s.stageFits x.c (us.stage u)) badShape
  .ok us

/-! ## Running units (R173 to R175, R217) -/

/-- The links of a unit, without the checks that only the first unit makes (R174). -/
def Cx.unitLinks (x : Cx) (us : Units) : List Link :=
  let mk (out : Bool) (p : Nat × Nat) : List Link :=
    let o := x.opnd p.1
    if o.d.stream then [⟨p.1, epKey x.core (field (x.t.handle o.d.base).toNat 32 8), p.2, out⟩] else []
  us.ins.flatMap (mk false) ++ us.outs.flatMap (mk true)

/-- Write PROGRESS of the destination descriptor (R173). -/
def State.putProgress (s : State) (core slot r v : Nat) : State :=
  s.modTask core slot fun t => t.setDesc r (setField (t.desc r) 288 32 v) (t.descPoison r)

/-- A unit has retired: PROGRESS counts it, and after the last one is 0 and the PC moves on (R173, R174). -/
def State.unitDone (s : State) (core slot : Nat) : State :=
  match s.task? core slot with
  | none => s
  | some t =>
    match t.run with
    | none => s
    | some r =>
      let w := r.word.toNat
      let td := field w 42 5
      if r.done + 1 < r.units then
        let s := s.putProgress core slot td (field w 56 8 * 2 ^ 24 + (r.done + 1))
        s.modTask core slot fun t => { t with run := some { r with done := r.done + 1, sending := none } }
      else
        let s := s.putProgress core slot td 0
        let s := s.modTask core slot fun t => { t with run := none }
        (s.advance core slot w).noteRetire core slot

/-- Unit `u` with its links and, for a gather, its band. -/
def UnitKind.unit (k : UnitKind) (x : Cx) (s : State) (ls : List Link) (u : Nat) (band : GatherBand) : Chk Effect :=
  match k with
  | .spvalid => spvalidUnit x s ls u band
  | .tcopy => tcopyUnit x s ls u band
  | .tfill => tfillUnit x s ls u band
  | .gather => gatherUnit x s ls u band
  | .scatter => scatterUnit x s ls u band

/-- The waits of a unit: its stream sources, its staged tiles, and room for what it sends (R92, R174, R255). -/
def unitReady (x : Cx) (us : Units) (s : State) (u : Nat) : Chk Unit := do
  s.needFilled (x.unitLinks us)
  s.needStaged x (us.stage u)
  s.needRoom (x.unitLinks us)

/-- The end of a unit after its effect: its flags, its sources, and its place in the instruction; it retires at once, or when the tiles
it sent have landed (R217). -/
def unitEnd (x : Cx) (us : Units) (u : Nat) (r : Effect) : State :=
  let ls := x.unitLinks us
  let s := x.raiseFlags (r.1.finishLinks ls) ls r.2
  let s := s.useStaged x.core x.slot x.c (us.stage u)
  let run : Run := ⟨BitVec.ofNat 64 x.word, BitVec.ofNat 64 x.ext, us.n, u, (outLink ls).map fun k => (k, (s.epD k).carried)⟩
  let s := s.modTask x.core x.slot fun t => { t with run := some run }
  if run.sending.isSome then s else s.unitDone x.core x.slot

/-- One unit: its waits, then its effect. -/
def runUnit (x : Cx) (us : Units) (s : State) (u : Nat) (band : GatherBand) : Chk Next := do
  unitReady x us s u
  let r ← us.kind.unit x s (x.unitLinks us) u band
  .ok (.stay (unitEnd x us u r))

/-- The unit that PROGRESS names: the count where OP agrees and the count is below the number of units, otherwise 0 (R173). -/
def Cx.firstUnit (x : Cx) (us : Units) : Nat :=
  let p := (Desc.of (x.t.desc x.td)).progress
  let n := p % 2 ^ 24
  if p / 2 ^ 24 == field x.word 56 8 && n < us.n then n else 0

/-- The checks of a resumable instruction, and its units. `regs` are the descriptor registers it uses, `own` its further checks of
poisoned scalars (R174, R175). -/
def unitsCheck (check : Cx → State → Chk Units) (regs : Cx → List Nat) (own : Cx → Chk Unit) (x : Cx) (s : State) : Chk Units := do
  let us ← check x s
  let ls ← x.links s us.ins us.outs
  s.linkRules ls
  descPoisons x (regs x)
  own x
  .ok us

/-- The first unit of a resumable instruction: every check, the counts set to zero at unit 0, then the unit. `counts` says that it
keeps s[SREG2] (R174, R175). -/
def startUnits (check : Cx → State → Chk Units) (regs : Cx → List Nat) (own : Cx → Chk Unit) (counts : Bool)
    (band : GatherBand) (x : Cx) (s : State) : Chk Next := do
  let us ← unitsCheck check regs own x s
  let u := x.firstUnit us
  runUnit x us (if counts && u == 0 then x.putS s x.sreg2 0 false else s) u band

def noOwn (_x : Cx) : Chk Unit := .ok ()

/-- A poisoned deadline is an observing use (R153, R523). -/
def deadlinePoison (x : Cx) : Chk Unit := need (!x.t.regPoison x.sreg) (.poison 5 1 x.sreg)

/-- SREG2 and IMM16X of an extension; bits [31:0] are reserved (R134). -/
def rsvdTen (e : Nat) (useTeTf : Bool) : Bool := field e 0 48 == 0 && (useTeTf || field e 54 10 == 0)

def execSpvalid (i : Issue) (s : State) : Host.Outcome State Fault Refusal :=
  issue ⟨0x32, true, fun w e => onlyFields [(42, 5), (37, 5), (28, 4)] w && rsvdTen e true,
    fun w _ => fmtOk (field w 28 4)⟩
    (startUnits spvalidCheck (fun x => [x.td, x.ta, x.te, x.tf]) noOwn true []) i s

def execTcopy (i : Issue) (s : State) : Host.Outcome State Fault Refusal :=
  issue ⟨0x61, false, fun w _ => onlyFields [(42, 5), (37, 5), (28, 4), (20, 4)] w,
    fun w _ => fmtOk (field w 28 4) && fmtOk (field w 20 4)⟩
    (startUnits (fun x s => do
        let us ← tcopyCheck x s
        need ((List.range us.n).all fun u => s.stageFits x.c (us.stage u)) badShape
        .ok us) (fun x => [x.td, x.ta]) noOwn false []) i s

def execTfill (i : Issue) (s : State) : Host.Outcome State Fault Refusal :=
  issue ⟨0x62, false, fun w _ => onlyFields [(42, 5), (20, 4), (0, 6)] w, fun w _ => fmtOk (field w 20 4)⟩
    (startUnits tfillCheck (fun x => [x.td]) noOwn false []) i s

def execGatherDl (i : Issue) (band : GatherBand) (s : State) : Host.Outcome State Fault Refusal :=
  issue ⟨0x63, true, fun w e => field w 6 14 == 0 && rsvdTen e true,
    fun w _ => rndOk w && fmtOk (field w 28 4) && fmtOk (field w 24 4) && fmtOk (field w 20 4)⟩
    (startUnits gatherCheck (fun x => [x.td, x.ta, x.tb, x.te, x.tf]) deadlinePoison true band) i s

def execScatter (i : Issue) (s : State) : Host.Outcome State Fault Refusal :=
  issue ⟨0x64, true, fun w e =>
      onlyFields [(42, 5), (37, 5), (32, 5), (28, 4), (24, 4), (20, 4)] w && rsvdTen e false,
    fun w _ => fmtOk (field w 28 4) && fmtOk (field w 24 4) && fmtOk (field w 20 4)⟩
    (startUnits scatterCheck (fun x => [x.td, x.ta, x.tb]) noOwn true []) i s

/-- The units of the resumable instruction that a word spells. -/
def unitsOf (x : Cx) : Option Units :=
  match field x.word 56 8 with
  | 0x32 => some (spvalidUnits x)
  | 0x61 => some (tcopyUnits x)
  | 0x62 => some (tfillUnits x)
  | 0x63 => some (gatherUnits x)
  | 0x64 => some (scatterUnits x)
  | _ => none

/-- The next unit of a task's resumable instruction issues as an instruction of its own (R174). -/
def State.nextUnit (s : State) (core slot : Nat) (band : GatherBand) : State :=
  match s.task? core slot with
  | none => s
  | some t =>
    match t.run with
    | none => s
    | some r =>
      if !s.hasTurn core slot then s
      else
        let x : Cx := ⟨core, slot, t.ctx, r.word.toNat, r.ext.toNat, t⟩
        match unitsOf x with
        | none => s
        | some us => (s.dropFirst core slot).conclude x (runUnit x us (s.dropFirst core slot) r.done band)

def execResumableUnit (core : CoreId) (slot : SlotId) (band : GatherBand) (s : State) :
    Host.Outcome State Fault Refusal :=
  .next (s.clocked (s.nextUnit core slot band))

end Sys2Proof.Machine
end

