-- ==== Sys2Proof/Machine/Stream.lean ====
section
/-!
DEFINITION. Stream and buffer instructions (R190 to R201), groups and credits that arrive (R194, R195), merge nodes (R326,
R327), and stream endpoints set up and torn down (R222).
-/
namespace Sys2Proof.Machine
open Sys2Proof

/-! ## Fields of form Q (R132, R184) -/

/-- Used fields beside FUNC, which every form Q opcode uses (R184). -/
def specQ (op : Nat) (used : List (Nat × Nat)) (func : Nat → Bool) : OpSpec :=
  ⟨op, false, fun w _ => onlyFields ((24, 4) :: used) w, fun w _ => func (field w 24 4)⟩

def qHnd : Nat × Nat := (46, 4)
def qSa : Nat × Nat := (40, 6)
def qSb : Nat × Nat := (34, 6)
def qSd : Nat × Nat := (28, 6)
def qImm : Nat × Nat := (0, 24)

/-- Counts in IMM24 lie from 1 to 64 (R184). -/
def Cx.countOk (x : Cx) : Bool := 1 ≤ x.imm24 && x.imm24 ≤ 64

/-- A poisoned scalar at an observing use of a kind (R522, R523). -/
def Cx.clean (x : Cx) (kind i : Nat) : Chk Unit := need (!x.t.regPoison i) (.poison kind 1 i)

/-! ## Sending -/

/-- A 4 KiB tile as an instruction reads it, with its poisoned sectors. -/
def State.tileAt (s : State) (core c a : Nat) : List Byte × List Nat :=
  (s.tread core c a 4096, (List.range 64).filter fun q => s.tpoison core c (a + 64 * q) 64)

/-- Tiles that a send names (R190). -/
def Cx.sendList (x : Cx) : List Nat := (List.range x.imm24).map fun i => x.s x.sa % 2 ^ 44 + 4096 * i

/-- The checks of STREAM.SEND and STREAM.INJ and the wait for room, and the endpoint (R190, R197); the tiles lie in T0 or T1 (R244).
`ready` is a further condition of issue, and `wait` what the task waits for otherwise. -/
def Cx.sendCheck (x : Cx) (s : State) (inj : Bool) (ready : Nat → Bool) (wait : Nat → Nat → Wait) : Chk Nat := do
  let n := x.imm24
  let a := x.s x.sa % 2 ^ 44
  need (x.countOk && a % 4096 == 0 && s.mapped x.c a (4096 * n) && x.sendList.all upperTier) badShape
  let k ← s.needEndpoint x x.hnd true
  need (if inj then s.flag (Fld.strCfgInj k) else s.notInj k) .handle
  need (n % s.epGrain k == 0 && n ≤ s.linkB k) badShape
  x.clean 1 x.sa
  need (s.room k n && ready k) (.wait (wait (k % 256) n))
  .ok k

/-- The tiles of a send go out on an endpoint (R190). -/
def Cx.sendRun (x : Cx) (s : State) (int32 : Bool) (k : Nat) : State :=
  s.send k int32 (x.sendList.map (s.tileAt x.core x.c))

/-- What STREAM.SEND and STREAM.INJ share. -/
def Cx.sendTiles (x : Cx) (s : State) (inj int32 : Bool) (ready : Nat → Bool) (wait : Nat → Nat → Wait) : Chk Next := do
  let k ← x.sendCheck s inj ready wait
  .ok (.retire (x.sendRun s int32 k))

/-- STREAM.SEND (R190). -/
def execStreamSend (i : Issue) (s : State) : Host.Outcome State Fault Refusal :=
  issue (specQ 0x70 [qHnd, qSa, qImm] (· == 0)) (fun x s => x.sendTiles s false false (fun _ => true) fun e n => .latch e true n) i s

/-- The group credit of a side of a merge node is there to be used; the node returns it when the combined group has been sent on, and
not for a group that it discards (R327). -/
def State.sideFree (s : State) (n : Nat) (right : Bool) : Bool := !s.cores.spent.contains (sideKey n right)

/-- The merge node that an endpoint contributes to has a credit for it (R327). -/
def State.sideReady (s : State) (k : Nat) : Bool :=
  match (s.epD k).node with
  | some (n, right) => s.sideFree n right
  | none => true

/-- STREAM.INJ: FUNC 0 sums FP32, FUNC 1 INT32; it issues only with FREE and with the credit of its node's side (R197,
R327). -/
def execStreamInj (i : Issue) (s : State) : Host.Outcome State Fault Refusal :=
  issue (specQ 0x76 [qHnd, qSa, qImm] (· < 2))
    (fun x s => x.sendTiles s true (x.qfunc == 1) s.sideReady .inject) i s

/-! ## Receiving and signalling -/

/-- STREAM.RECV takes one group and gives the address of its first buffer (R192), whose tiles are mapped (R243). -/
def streamRecvBody (x : Cx) (s : State) : Chk Next := do
  let n := x.imm24
  need x.countOk badShape
  let k ← s.needEndpoint x x.hnd false
  let a := s.ringAddr x.c k (s.epD k).head
  need (n == s.epGrain k && s.mapped x.c a (4096 * n)) badShape
  need (n ≤ (s.epD k).filled) (.wait (.latch (k % 256) false n))
  .ok (.retire (x.putS (s.takeTiles k n) x.sd a false))

def execStreamRecv (i : Issue) (s : State) : Host.Outcome State Fault Refusal :=
  issue (specQ 0x71 [qHnd, qSd, qImm] (· == 0)) streamRecvBody i s

/-- The counter that a latch wait names is at least `n` (R193). -/
def State.latchAt (s : State) (k : Nat) (free : Bool) (n : Nat) : Bool :=
  n ≤ (if free then s.free k else (s.epD k).filled)

/-- LATCH.WAIT: FUNC 0 FILLED of an inbound endpoint, FUNC 1 FREE of an outbound one (R193). -/
def latchWaitBody (x : Cx) (s : State) : Chk Next := do
  let n := x.imm24
  let free := x.qfunc == 1
  need x.countOk badShape
  let k ← s.needEndpoint x x.hnd free
  need (n ≤ (if free then s.linkB k else s.ringB k)) badShape
  need (s.latchAt k free n) (.wait (.latch (k % 256) free n))
  .ok (.retire s)

def execLatchWait (i : Issue) (s : State) : Host.Outcome State Fault Refusal :=
  issue (specQ 0x72 [qHnd, qImm] (· < 2)) latchWaitBody i s

/-- LATCH.SIG: FUNC 1 releases taken tiles of an inbound endpoint; FUNC 0 announces tiles written by stores into the ring of
an outbound endpoint's consumer (R194). -/
def latchSigBody (x : Cx) (s : State) : Chk Next := do
  let n := x.imm24
  let filled := x.qfunc == 0
  need x.countOk badShape
  let k ← s.needEndpoint x x.hnd filled
  need (!filled || s.notInj k) .handle
  need (!filled || n % s.epGrain k == 0) badShape
  need (!s.older x.core x.slot) .hold
  if filled then
    need (s.room k n) (.wait (.latch (k % 256) true n))
    .ok (.retire (s.sendGroups k n false none))
  else
    need (n ≤ (s.epD k).taken) (.overrun (k % 256) n (s.epD k).taken)
    .ok (.retire (s.release k n))

def execLatchSig (i : Issue) (s : State) : Host.Outcome State Fault Refusal :=
  issue (specQ 0x73 [qHnd, qImm] (· < 2)) latchSigBody i s

/-! ## Buffer pools (R199 to R202) -/

/-- Indices of the free buffers of a pool. -/
def State.freeBuffers (s : State) (c core : Nat) (t1 : Bool) : List Nat :=
  (List.range s.cores.buffers.length).filter fun i =>
    match s.cores.buffers[i]? with
    | some b => b.ctx == c && b.core == core && b.t1 == t1 && b.owner == .free
    | none => false

/-- A task of a lower slot waits for the same pool, or has been woken for a buffer that it has not taken yet (R200). -/
def State.bufferQueue (s : State) (c core slot : Nat) (t1 : Bool) : Bool :=
  (List.range slot).any fun k =>
    match s.task? core k with
    | some t => t.ctx == c && (t.state == .waiting || t.state == .ready) && t.wait == some (.buffer t1)
    | none => false

/-- The token of a buffer (R200). -/
def Buffer.token (b : Buffer) : Nat := b.addr + b.gen.toNat * 2 ^ 44

/-- BUF.ALLOC takes a free buffer; which of several it takes is free (R200, log entry 4). -/
def bufAllocBody (x : Cx) (s : State) : Chk Next := do
  let t1 := x.qfunc == 1
  let l := s.freeBuffers x.c x.core t1
  match l[Config.pick s.draws % l.length]? with
  | none => .error (.wait (.buffer t1))
  | some i =>
    need (!s.bufferQueue x.c x.core x.slot t1) (.wait (.buffer t1))
    match s.cores.buffers[i]? with
    | none => .error (.wait (.buffer t1))
    | some b =>
      let b := { b with owner := .slot x.slot, gen := b.gen + 1 }
      let s := { s with cores.buffers := s.cores.buffers.set i b, draws := s.draws + 1 }
      let s := s.modTask x.core x.slot fun t => { t with wait := none }
      .ok (.retire (x.putS s x.sd b.token false))

def execBufAlloc (i : Issue) (s : State) : Host.Outcome State Fault Refusal :=
  issue (specQ 0x74 [qSd] (· < 2)) bufAllocBody i s

/-- What BUF.FREE finds: the buffer to free, or the kind of misuse (R201). -/
def State.bufCheck (s : State) (c core slot token : Nat) : Except Nat Nat :=
  match s.cores.buffers.findIdx? fun b => b.ctx == c && b.core == core && b.addr == token % 2 ^ 44 with
  | none => .error 1
  | some i =>
    match s.cores.buffers[i]? with
    | none => .error 1
    | some b =>
      if field token 56 8 != 0 then .error 1
      else if b.owner == .free then .error 2
      else if b.owner != .slot slot then .error 3
      else if b.gen.toNat != field token 44 12 then .error 4
      else .ok i

/-- BUF.FREE (R201). -/
def bufFreeBody (x : Cx) (s : State) : Chk Next := do
  let token := x.s x.sa
  x.clean 1 x.sa
  match s.bufCheck x.c x.core x.slot token with
  | .ok i => .ok (.retire { s with cores.buffers := s.cores.buffers.modify i fun b => { b with owner := .free } })
  | .error kind =>
    let s := s.raiseCtx (srcTask x.core x.slot) 0x0104 2 x.c token (kind + x.slot * 2 ^ 8)
    .ok (.retire (s.misusePart (s.partOf x.c)))

def execBufFree (i : Issue) (s : State) : Host.Outcome State Fault Refusal :=
  issue (specQ 0x75 [qSa] (· == 0)) bufFreeBody i s

/-- A slot is cleared: it becomes EMPTY and its buffers become free (R202). -/
def State.clearSlot (s : State) (core slot : Nat) : State :=
  match s.task? core slot with
  | none => s
  | some t =>
    let s := { s with cores.buffers := s.cores.buffers.map fun (b : Buffer) =>
      if b.ctx == t.ctx && b.core == core && b.owner == BufOwner.slot slot then { b with owner := .free } else b }
    (s.unpin core slot t.ctx).dropTask core slot

/-! ## Arrivals -/

/-- A unit whose tiles have all landed retires; a task that has stopped meanwhile keeps no unit in progress (R98, R217). -/
def State.settleUnits (s : State) (k : Nat) : State :=
  (List.range 16).foldl (fun s slot =>
    match s.task? (k / 256) slot with
    | none => s
    | some t =>
      match t.run with
      | none => s
      | some r =>
        match r.sending with
        | none => s
        | some (e, target) =>
          if e == k && target ≤ s.landed k then
            let s := s.unitDone (k / 256) slot
            if t.state == .ready then s
            else s.modTask (k / 256) slot fun t => { t with run := none }
          else s) s

/-- After tiles of a producer have landed: takes that waited for it are released, and its units retire. -/
def State.settleSend (s : State) (k : Nat) : State :=
  let s := (s.settle k).settleUnits k
  ((s.cores.eps.filter fun p => p.2.fwd == some k).map (·.1)).foldl State.giveChained s

/-- The inbound endpoint has a place in its ring for `n` more tiles. -/
def State.ringRoom (s : State) (k n : Nat) : Bool :=
  let e := s.epD k
  e.filled + e.taken + e.part + s.heldBack k + n ≤ s.epRing k

/-- Tiles written into a ring from its tail (R190). -/
def State.fillRing (s : State) (k : Nat) (bs : List Byte) (pz : List Nat) : State :=
  let c := s.get (Fld.strCfgContext k)
  let e := s.epD k
  (List.range (bs.length / 4096)).foldl (fun s i =>
    let key := s.key c (s.ringAddr c k ((e.tail + i) % s.epRing k))
    { s with mem := s.mem.store key ((bs.drop (4096 * i)).take 4096) fun q => pz.contains (64 * i + (q - key / 64)) }) s

/-- `n` tiles count as received: FILLED rises by each whole group (R190, R194). -/
def State.countTiles (s : State) (k n : Nat) : State :=
  let g := s.epGrain k
  let b := s.epRing k
  s.modEp k fun e => { e with
    part := (e.part + n) % g
    filled := e.filled + (e.part + n) / g * g
    tail := (e.tail + n) % b
    carried := e.carried + n }

/-- A group reaches its ring: the ring takes it, the counters rise, and its producers settle (R190, R195). -/
def State.landGroup (s : State) (k : Nat) (g : Group) : State :=
  let s := match g.data with
    | some bs => s.fillRing k bs g.poison
    | none => s
  let s := s.countTiles k g.count
  match g.src with
  | some p => s.settleSend p
  | none => (s.producers k).foldl State.settleSend s

/-- An endpoint takes part in its link for a context (R222). -/
def State.linked (s : State) (k c : Nat) : Bool :=
  s.flag (Fld.strCfgEn k) && s.get (Fld.strCfgContext k) == c && (s.ep? k).isSome

/-- The ring takes the group's next tiles: its layer has come, its producer's turn has come, and there is room (R195, R203, R21). -/
def State.ringTakes (s : State) (k : Nat) (src : Option Nat) (layer n : Nat) : Bool :=
  let e := s.epD k
  ((s.ctx (s.get (Fld.strCfgContext k))).priv || layer ≤ e.layer) &&
    (e.sources.isEmpty || e.sources[e.carried % e.sources.length]? == some src) && s.ringRoom k n

/-- Tiles of a group that enter its ring at once: where several producers fill the ring in turn, one (R21, R197). -/
def State.landing (s : State) (k : Nat) (g : Group) : Nat :=
  if (s.epD k).sources.isEmpty then g.count else 1

/-- The group's destination takes it as it stands: the ring, or the side of the merge node, or nobody, and it is discarded. -/
def State.destTakes (s : State) (g : Group) : Bool :=
  match g.dst with
  | .ring k => s.portsClosed (k / 256) == false && (!s.linked k g.ctx || s.ringTakes k g.src g.layer (s.landing k g))
  | .node n right =>
    let held := SMap.getD s.cores.merges n (none, none)
    (if right then held.2 else held.1).isNone

/-- An earlier group comes before the `i`-th: one of the same producer for the same destination, or one between the same stops that
its destination takes (R195, R316). -/
def State.groupBehind (s : State) (i : Nat) (g : Group) : Bool :=
  (s.cores.groups.take i).any fun h => h.stop == g.stop && h.dst.stop == g.dst.stop &&
    ((h.src == g.src && h.dst == g.dst) || s.destTakes h)

/-- The group may land now (R195, R203, R21, R316). -/
def State.mayLand (s : State) (i k : Nat) (g : Group) : Bool :=
  !s.groupBehind i g && s.ringTakes k g.src g.layer (s.landing k g)

def State.dropGroup (s : State) (i : Nat) : State :=
  { s with cores.groups := s.cores.groups.eraseIdx i }

/-- The first `n` tiles of a group, and what is left of it. -/
def Group.split (g : Group) (n : Nat) : Group × Group :=
  ({ g with count := n, data := g.data.map (·.take (4096 * n)), poison := g.poison.filter (· < 64 * n) },
   { g with
      count := g.count - n
      data := g.data.map (·.drop (4096 * n))
      poison := (g.poison.filter (64 * n ≤ ·)).map (· - 64 * n) })

/-- A packet of groups is discarded at a shutter: NET_SHUT_DROP and its partition's misuse counter (R328). -/
def State.groupShut (s : State) (i : Nat) (g : Group) : State :=
  let s := (s.dropGroup i).bump Fld.netShutDropCount
  match g.part with
  | some p => s.misusePart p
  | none => s

/-- A stop discards a group's packet: the event, and what its sender learns (R322). -/
def State.groupLost (s : State) (i : Nat) (g : Group) (stop : Nat) : State :=
  let multi := g.src.any fun k => 1 < (s.epD k).peers.length && !(s.epD k).deals
  let s := (s.dropGroup i).raiseMod (srcPane (paneOf stop)) 0x0500 2 (netWord g.stop g.dst.stop multi 2 false) stop
  (s.bump Fld.netLostCount).faultCtx g.ctx 6 (s.leafOn g.ctx (g.src.elim g.dst.stop (· / 256)))

/-- What the networks do with a group on its way: the path of its table copy, the partition of its destination, and a fenced slot, to
which the mesh delivers nothing (R62, R322, R328). A group's packet counts as crossing as a whole when it lands (log entry 30). -/
def State.groupPath (s : State) (g : Group) : MeshPath :=
  match s.meshPath g.copy g.dst.stop g.edge (hopsMax + 1) g.stop with
  | .through =>
    if s.partAt g.dst.stop != g.part || g.part.isNone then .shut
    else match g.dst with
      | .ring k => if s.fenced (k / 256) then .lost (k / 256) else .through
      | .node _ _ => .through
  | r => r

/-- Groups that need a stop or a link that is lost are discarded (R322). -/
def State.loseGroups (s : State) : Nat → State
  | 0 => s
  | fuel + 1 =>
    let lost (g : Group) : Option Nat := match s.groupPath g with | .lost d => some d | _ => none
    match s.cores.groups.findIdx? fun g => (lost g).isSome with
    | none => s
    | some i =>
      match s.cores.groups[i]? with
      | none => s
      | some g => (s.groupLost i g ((lost g).getD 0)).loseGroups fuel

/-- A group on its way lands: in the ring it is for, or, where the endpoint is out of use or the stop belongs to another partition,
nowhere (R195, R222, R328). Traffic for a slot whose ports a MIGRATE has closed waits (R60). -/
def State.groupLand (s : State) (i : Nat) : State :=
  match s.cores.groups[i]? with
  | none => s
  | some g =>
    match g.dst with
    | .node _ _ => s
    | .ring k =>
      if s.portsClosed (k / 256) then s else
      match s.groupPath g with
      | .lost d => s.groupLost i g d
      | .shut => s.groupShut i g
      | .through =>
      if !s.linked k g.ctx then (s.dropGroup i).misusePart (s.partOf (s.get (Fld.strCfgContext k)))
      else if !s.mayLand i k g then s
      else
        let (now, rest) := g.split (s.landing k g)
        if rest.count == 0 then (s.dropGroup i).landGroup k now
        else { s with cores.groups := s.cores.groups.set i rest }.landGroup k now

/-- A group from another module reaches an inbound endpoint, from the `source`-th of its producers where several fill the ring in turn
(R21, R195). The spec gives no packet for a group between modules: it leaves as an `Out.group` in the order of its send and comes as
this event (DESIGN CHOICE, log entry 28). -/
def State.groupArrive (s : State) (k source count layer : Nat) (data : Option (List Byte)) : State :=
  let c := s.get (Fld.strCfgContext k)
  let e := s.epD k
  if s.portsClosed (k / 256) then s else
  if !s.flag (Fld.strCfgEn k) then s.misusePart (s.partOf c)
  else if !s.flag (Fld.strPeerRemote k) && !e.sources.contains none || s.flag (Fld.strCfgDir k) then s
  else
    let g : Group := ⟨none, c, .ring k, k / 256, s.partAt (k / 256), s.netCopy, true, count, layer, false, data, []⟩
    let turn := e.sources.isEmpty || (e.sources[source]? == some none && e.carried % e.sources.length == source && count == 1)
    if turn && s.ringTakes k none layer count then s.landGroup k g else s

/-- The far ring of a consumer reports tiles landed in it (R190). -/
def State.groupReport (s : State) (k peer n : Nat) : State :=
  let s := s.modEp k fun e => { e with
    landedFar := e.landedFar.modify peer fun m => min (e.dealt 0 e.carried peer) (m + n) }
  s.settleSend k

/-- No path leads to the peer of a remote stream: the owning context faults with cause 6 (R397, R465). -/
def State.groupNoPath (s : State) (k : Nat) : State :=
  if s.flag (Fld.strCfgEn k) && (s.flag (Fld.strPeerRemote k) || (s.epD k).peers.any fun p => match p with | .away _ => true | .here _ => false) then
    let c := s.get (Fld.strCfgContext k)
    s.faultCtx c 6 (s.leafOn c (k / 256))
  else s

/-- GROUP_LAND (R195). -/
def execGroupLand (g : Landing) (s : State) : Host.Outcome State Fault Refusal :=
  .next (s.clocked (match g with
    | .flight i => s.groupLand i
    | .arrive core ep source count layer data => s.groupArrive (epKey core ep) source count layer data
    | .report core ep peer n => s.groupReport (epKey core ep) peer n
    | .noPath core ep => s.groupNoPath (epKey core ep)))

/-- Tiles of a consumer become free again at an outbound endpoint (R189). -/
def State.restoreFree (s : State) (k peer n : Nat) : State :=
  s.modEp k fun e => { e with used := e.used.modify peer fun u => u - n }

/-- A credit reaches its producer, whose FREE rises (R194); an endpoint out of use discards it (R222). One for a slot whose ports a
MIGRATE has closed waits in its stop (R60). -/
def State.creditArrive (s : State) (i : Nat) : State :=
  match s.cores.credits[i]? with
  | none => s
  | some c =>
    if s.portsClosed (c.dst / 256) then s else
    let s := { s with cores.credits := s.cores.credits.eraseIdx i }
    if !s.flag (Fld.strCfgEn c.dst) then s.misusePart (s.partOf (s.get (Fld.strCfgContext c.dst))) else
    match (s.epD c.dst).peers.findIdx? (· == .here c.src) with
    | some j => s.restoreFree c.dst j c.count
    | none => s

/-- A credit from the `peer`-th consumer, on another module (R194). -/
def State.creditAway (s : State) (k peer n : Nat) : State :=
  if s.portsClosed (k / 256) then s else
  if !s.flag (Fld.strCfgEn k) then s.misusePart (s.partOf (s.get (Fld.strCfgContext k))) else
  match (s.epD k).peers[peer]? with
  | some (.away _) => s.restoreFree k peer n
  | _ => s

/-- CREDIT_ARRIVE (R194). -/
def execCreditArrive (g : CreditFrom) (s : State) : Host.Outcome State Fault Refusal :=
  .next (s.clocked (match g with
    | .flight i => s.creditArrive i
    | .away core ep peer n => s.creditAway (epKey core ep) peer n))

/-! ## Merge nodes (R326, R327) -/

/-- The 1,024 words of each tile, added as the node's TYPE says. The flags of these additions belong to no task that the spec names,
and are dropped (DESIGN CHOICE, log entry 29). -/
def addWords (int32 : Bool) (a b : List Byte) : List Byte :=
  (List.range (a.length / 4)).flatMap fun i =>
    let u := leAt a (4 * i) 4
    let v := leAt b (4 * i) 4
    leBytes 4 (if int32 then (u + v) % 2 ^ 32
      else (f32Add (BitVec.ofNat 32 u) (BitVec.ofNat 32 v)).1.toNat)

/-- Where a node sends (R335). -/
def State.nodeOut (s : State) (n : Nat) : Dest :=
  let stop := 16 * s.get (Fld.mrgNodeLoOutY n) + s.get (Fld.mrgNodeLoOutX n)
  let id := s.get (Fld.mrgNodeLoOutId n)
  if s.flag (Fld.mrgNodeLoOutKind n) then .ring (epKey stop id)
  else .node (16 * stop + id) (s.flag (Fld.mrgNodeLoOutSide n))

/-- The combined group of a node's two sides, as the node's stop sends it. -/
def State.combine (s : State) (n : Nat) (l r : Group) : Group :=
  { l with
    src := none
    dst := s.nodeOut n
    stop := n / 16
    part := s.partAt (n / 16)
    copy := s.netCopy
    edge := false
    layer := max l.layer r.layer
    data := match l.data, r.data with
      | some a, some b => some (addWords l.int32 a b)
      | _, _ => none
    poison := l.poison ++ r.poison.filter fun q => !l.poison.contains q }

/-- A node that holds both sides, and whose output has room, sends the combined group and returns both credits (R327). The root's
group has room: each contributor has held its FREE for it (R197). -/
def State.mergeAt (s : State) (n : Nat) : State :=
  match SMap.get? s.cores.merges n with
  | some (some l, some r) =>
    let ready := match s.nodeOut n with
      | .ring _ => true
      | .node m right => s.sideFree m right
    if !ready then s else
    let sides := [sideKey n false, sideKey n true]
    let s := { s with
      cores.merges := SMap.del s.cores.merges n
      cores.spent := s.cores.spent.filter fun k => !sides.contains k }
    s.putGroups [s.combine n l r]
  | _ => s

/-- Every node that can send sends. -/
def State.mergeAll (s : State) : State := (s.cores.merges.map (·.1)).foldl State.mergeAt s

/-- Flits of a tile on the mesh (R314, R326). -/
def tileFlits : Nat := 8

/-- A group reaches a merge node (R327): the node's EN, CONTEXT and TYPE must fit, otherwise each of its flits is discarded and counted;
the credit of its side does not come back. -/
def State.mergeArrive (s : State) (i : Nat) : State :=
  match s.cores.groups[i]? with
  | none => s
  | some g =>
    match g.dst with
    | .ring _ => s
    | .node n right =>
      match s.groupPath g with
      | .lost d => s.groupLost i g d
      | .shut => s.groupShut i g
      | .through =>
      if !s.flag (Fld.mrgNodeLoEn n) || s.get (Fld.mrgNodeHiContext n) != g.ctx ||
          s.flag (Fld.mrgNodeLoType n) != g.int32 then
        (s.dropGroup i).bump (Fld.shtMisuseCount (s.partOf g.ctx)) (tileFlits * g.count)
      else if s.groupBehind i g then s
      else
        let held := SMap.getD s.cores.merges n (none, none)
        if (if right then held.2 else held.1).isSome then s
        else
          let new := if right then (held.1, some g) else (some g, held.2)
          let s := { s.dropGroup i with cores.merges := SMap.put s.cores.merges n new }
          s.mergeAll

/-- MERGE_FLIT_ARRIVE (R327). -/
def execMergeFlitArrive (i : Nat) (s : State) : Host.Outcome State Fault Refusal := .next (s.clocked (s.mergeArrive i))

/-! ## Setting endpoints up (R188, R197, R222) -/

/-- The consumer endpoint at the root of the chain of merge nodes from a node (R326). -/
def State.mergeRoot (s : State) : Nat → Nat → Option Nat
  | 0, _ => none
  | fuel + 1, n =>
    match s.nodeOut n with
    | .ring k => some k
    | .node m _ => s.mergeRoot fuel m

/-- Every tile of the ring is a free buffer of the context's pool on the core (R188); `v` is the STR_CFG to be written. -/
def State.ringInPool (s : State) (k v : Nat) : Bool :=
  let c := field v 26 6
  (List.range (s.epRing k)).all fun i =>
    let a := s.ringAddr c k i
    s.cores.buffers.any fun b => b.ctx == c && b.core == k / 256 && b.addr == a && b.owner == .free

/-- A set-up is refused (R188, R222). -/
def State.setupBad (s : State) (k v : Nat) : Bool :=
  let dir := bitAt v 3
  let kind := field v 4 2
  let depth := field v 6 4
  let g := field v 10 6 + 1
  let b := s.get (Fld.strRingLen k) + 1
  let base := s.get (Fld.strRingBase k)
  (!dir && (b < 2 || b % g != 0 || b < 2 * g ||
    (!s.flag (Fld.strRingTier k) && 16384 < base + b) || 131072 < base + b || !s.ringInPool k v)) ||
    64 < g || (kind == 1 && (depth < 2 || 8 < depth)) || kind == 3 || (bitAt v 1 && !dir)

/-- Layer number of an endpoint at set-up: its owner's completed thresholds (R203). -/
def State.ownerLayer (s : State) (c core slot : Nat) : Nat :=
  match (s.ctx c).tasks.find? fun d => d.core == core && d.slot == slot with
  | some d => d.thresholds
  | none => 0

/-- The link of an outbound endpoint with one consumer. -/
def LinkPlan.single (p : Peer) : LinkPlan := ⟨[p], [[0]], false, []⟩

/-- The endpoint as the set-up gives it: what the image declares for it (R197, R473, R474), or, for an endpoint that the image does
not declare, what STR_PEER names: a consumer here, a merge node, or a peer on another module, of whose ring nothing is known (R222,
R326). -/
def State.endpointFor (s : State) (k v : Nat) : Endpoint :=
  let w := s.rd (Reg.strPeer k)
  let stop := 16 * field w 12 4 + field w 8 4
  let n := 16 * stop + field w 1 4
  let layer := s.ownerLayer (field v 26 6) (k / 256) (field v 22 4)
  let declared := SMap.get? (s.ctx (field v 26 6)).links k
  let merges := bitAt v 1 && (declared.elim true (·.merge))
  if !bitAt v 3 then .fresh (declared.getD .none) none layer
  else if merges then
    .fresh ((s.mergeRoot 4096 n).elim .none fun r => .single (.here r)) (some (n, bitAt w 0)) layer
  else .fresh (declared.getD (.single (if bitAt w 26 then .away 0 else .here (epKey stop (field w 0 8))))) none layer

/-- Owner tags of the buffers that a ring occupies (R188). -/
def State.tagRing (s : State) (k : Nat) (new : BufOwner) : State :=
  let c := s.get (Fld.strCfgContext k)
  let lo := s.ringAddr c k 0
  { s with cores.buffers := s.cores.buffers.map fun (b : Buffer) =>
      if b.ctx == c && b.core == k / 256 && lo ≤ b.addr && b.addr < lo + 4096 * s.epRing k then
        { b with owner := new } else b }

/-- Write STR_CFG with EN 1 (R222). -/
def State.strEnable (s : State) (req : Requester) (k v : Nat) : State :=
  if s.flag (Fld.strCfgEn k) || s.setupBad k v then s.misuse req
  else
    let s := (s.wr (Reg.strCfg k) v).setEp k (s.endpointFor k v)
    if bitAt v 3 then s else s.tagRing k (.endpoint (k % 256))

/-- Write STR_CFG with EN 0: while EN is 1, a write that changes nothing else takes the endpoint out of its link (R222). -/
def State.strDisable (s : State) (req : Requester) (k v : Nat) : State :=
  if s.flag (Fld.strCfgEn k) && v + 1 != s.rd (Reg.strCfg k) then s.misuse req
  else
    let s := if s.flag (Fld.strCfgEn k) && !s.flag (Fld.strCfgDir k) then s.tagRing k .free else s
    let s := s.wr (Reg.strCfg k) v
    { s with cores.eps := SMap.del s.cores.eps k }

/-- Reserved bits of STR_CFG are written as 0 (R12). -/
def strCfgMask (v : Nat) : Nat := setField (setField v 2 1 0) 16 6 0

/-- STR_CFG_DISABLE (R222). -/
def execStrCfgDisable (req : Requester) (core : CoreId) (ep : EpId) (v : BitVec 32) (s : State) :
    Host.Outcome State Fault Refusal :=
  .next (s.write req (Reg.strCfg (epKey core ep)) v.toNat fun s =>
    s.strDisable req (epKey core ep) (setBit (strCfgMask v.toNat) 0 false))

end Sys2Proof.Machine
end

