-- ==== Sys2Proof/Machine/Sync.lean ====
section
/-!
DEFINITION. Thresholds, barriers, timed launch and the end of waits (R93, R94, R203 to R210, R261, R262), issue under the
ageing limit (R77), and the deadlock monitor (R218 to R221).
-/
namespace Sys2Proof.Machine
open Sys2Proof

/-! ## Ends of waits -/

/-- KIND of an endpoint of a core is FIXED or CREDIT (R186). -/
def State.fetched (s : State) (core ep : Nat) : Bool := s.get (Fld.strCfgKind (epKey core ep)) != 0

/-- The wait is a stall (R261). -/
def State.isStall (s : State) (core : Nat) : Wait → Bool
  | .tiles _ => true
  | .streamTiles ep _ => s.fetched core ep
  | .latch ep free _ => !free && s.fetched core ep
  | .inject .. => false
  | .buffer _ => false
  | .launch _ => false
  | .barrier _ => false
  | .threshold => false
  | .lease => false
  | .coll => false
  | .collRoom _ => false
  | .reissue _ => false

/-- MIG_STALLk (R276). -/
def stallReg (c k : Nat) : Nat := Reg.migStall1 c + 8 * (k - 1)

/-- Count a stall that has ended, under the highest of the codes that held (R262); `codes` bit k − 1 is code k. Where no code held,
because the missing tile's source lies in T0 or T1, its ticks are counted and no cause is (DEDUCED, log entry 31). -/
def State.countStall (s : State) (c codes ticks : Nat) : State :=
  let s := s.wrap64 (Reg.migStallTicks c) ticks
  if codes == 0 then s else
  let k := Nat.log2 codes + 1
  let s := s.wrap64 (stallReg c k)
  let s := s.put (Fld.migCauseLast c) k
  s.put (Fld.migCauseSeen c) (s.get (Fld.migCauseSeen c) ||| codes)

/-- Some port replays flits or retrains (R366). -/
def State.replaying (s : State) : Bool :=
  s.ports.any fun p => s.get (Fld.lnkStatusState p.1) == 6 || p.2.kept.any fun f => 0 < f.replays

/-- Stall causes that a command may name beside those that the state shows: LINK_RETRY while a port replays, and POISON, since the
state does not hold which flit carries a tile or which sector is read again (R261, log entry 31). -/
def State.extraCauses (s : State) (codes : Nat) : Nat := codes &&& ((if s.replaying then 16 else 0) ||| 32)

/-- A slot leaves its core's staging queue. -/
def State.leaveStage (s : State) (core slot : Nat) : State :=
  let q := (SMap.getD s.cores.stageQueue core []).filter (· != slot)
  { s with cores.stageQueue := SMap.putD s.cores.stageQueue core q [] }

/-- The wait of a task ends: a stall is counted, or a wait in a collective (R262, R439). -/
def State.endWait (s : State) (core slot codes : Nat) : State :=
  match s.task? core slot with
  | none => s
  | some t =>
    match t.wait with
    | none => s
    | some w =>
      let s := if s.isStall core w then s.countStall t.ctx (t.causes ||| s.extraCauses codes) (s.tick - t.waitStart) else s
      let s := if w == .coll then s.wrap64 (Reg.colWaitTicks t.ctx) (s.tick - t.waitStart) else s
      s.leaveStage core slot

/-- The waiting instruction completes: the task moves past it and is READY. -/
def State.completeWait (s : State) (core slot : Nat) : State :=
  let s := s.modTask core slot fun t =>
    { t with state := .ready, wait := none, pc := t.pc + 8#44 }
  (s.noteRetire core slot).noteIssue core slot

/-- The endpoints that a task owns. -/
def State.owned (s : State) (core slot c : Nat) : List (Nat × Endpoint) :=
  s.cores.eps.filter fun p => p.1 / 256 == core && s.get (Fld.strCfgOwner p.1) == slot &&
    s.get (Fld.strCfgContext p.1) == c

/-- A group is bound for an inbound endpoint: for its ring, or for a merge node of the tree whose root sends to it (R326). -/
def State.bound (s : State) (k : Nat) : Dest → Bool
  | .ring r => r == k
  | .node n _ => s.mergeRoot 4096 n == some k

/-- A group of the current layer is in flight to an inbound endpoint: on its way, or held at a merge node of its sum (R203). -/
def State.inbound (s : State) (k layer : Nat) : Bool :=
  (s.cores.groups.any fun g => s.bound k g.dst && g.layer ≤ layer) ||
  s.cores.merges.any fun p => s.mergeRoot 4096 p.1 == some k &&
    (p.2.1.toList ++ p.2.2.toList).any fun g => g.layer ≤ layer

/-- Every endpoint that a task owns is drained (R203). -/
def State.drained (s : State) (core slot c : Nat) : Bool :=
  (s.owned core slot c).all fun p =>
    if s.flag (Fld.strCfgDir p.1) then p.2.used.all (· == 0) && s.inFlight p.1 == 0
    else p.2.filled == 0 && p.2.taken == 0 && p.2.part == 0 && !s.inbound p.1 p.2.layer

/-- The condition of a wait holds, for a wait that ends by a look at the core's own state (R94). -/
def State.waitOver (s : State) (core slot : Nat) (t : Task) : Wait → Bool
  | .latch ep free n => s.latchAt (epKey core ep) free n || (free && s.room (epKey core ep) n)
  | .inject ep n => s.room (epKey core ep) n && s.sideReady (epKey core ep)
  | .buffer t1 => !(s.freeBuffers t.ctx core t1).isEmpty && !s.bufferQueue t.ctx core slot t1
  | .threshold => !(s.ctx t.ctx).priv && s.drained core slot t.ctx && !s.heldTask t.ctx core slot
  | .tiles addrs => s.allStaged core t.ctx addrs
  | .streamTiles ep n => n ≤ (s.epD (epKey core ep)).filled
  | .reissue _ => true
  | .launch _ => false
  | .barrier _ => false
  | .lease => false
  | .coll => false
  | .collRoom n => n != s.coll.ends

/-- A waiting task whose condition holds becomes ready (R94); one that waited for a buffer keeps its turn until it takes one (R200); a drain that ends completes its THRESHOLD (R203). -/
def State.wake (s : State) (core slot codes : Nat) : State :=
  match s.task? core slot with
  | none => s
  | some t =>
    match t.wait with
    | none => s
    | some w =>
      if t.state != .waiting || !s.runs t.ctx || !s.waitOver core slot t w then s
      else
        let s := s.endWait core slot codes
        match w with
        | .threshold => (s.completeWait core slot).passThreshold core slot
        | .latch .. => s.modTask core slot fun t => { t with state := .ready, wait := none }
        | .inject .. => s.modTask core slot fun t => { t with state := .ready, wait := none }
        | .buffer _ => s.modTask core slot fun t => { t with state := .ready }
        | .launch _ => s
        | .barrier _ => s
        | .lease => s
        | .coll => s
        | .collRoom _ => s.modTask core slot fun t => { t with state := .ready, wait := none }
        | .tiles _ => s.modTask core slot fun t => { t with state := .ready, wait := none }
        | .streamTiles .. => s.modTask core slot fun t => { t with state := .ready, wait := none }
        | .reissue _ => s.modTask core slot fun t => { t with state := .ready, wait := none }

/-- TASK_WAKE; `codes` says which stall causes held (R94, R261). -/
def execTaskWake (core : CoreId) (slot : SlotId) (codes : BitVec 6) (s : State) : Host.Outcome State Fault Refusal :=
  .next (s.clocked (s.wake core slot codes.toNat))

/-- AGE_LIMIT_ISSUE: the named ready slots of a core have not issued for AGE_LIMIT clocks, and issue next, the lowest first
(R77). -/
def execAgeLimitIssue (core : CoreId) (slots : BitVec 16) (s : State) : Host.Outcome State Fault Refusal :=
  let old := SMap.getD s.cores.first core []
  let new := (setBits 16 slots.toNat).filter fun k => !old.contains k && s.slotReady core k
  .next (s.clocked { s with cores.first := SMap.putD s.cores.first core (old ++ new) [] })

/-! ## THRESHOLD (R203 to R206) -/

/-- THRESHOLD: a vote in a privileged context, a drain in any other. -/
def thresholdBody (x : Cx) (s : State) : Chk Next := do
  need (!(s.ctx x.c).priv && s.drained x.core x.slot x.c && !s.heldTask x.c x.core x.slot) (.wait .threshold)
  .ok (.retire ((s.closeBatches x.core x.slot).passThreshold x.core x.slot))

def execThreshold (i : Issue) (s : State) : Host.Outcome State Fault Refusal :=
  issue (specQ 0x81 [] (· == 0)) thresholdBody i s

/-- Every live declared task for which `p` holds waits with `w`, in a slot, and there is one. -/
def State.allWait (s : State) (c : Nat) (p : TaskDecl → Bool) (w : Wait) : Bool :=
  let l := ((s.ctx c).tasks.filter p).filter s.liveDecl
  !l.isEmpty && l.all fun d => s.waitsAt d w

/-- The declared tasks for which `p` holds that wait with `w` and complete its generation `g`. -/
def State.voters (s : State) (c : Nat) (p : TaskDecl → Bool) (w : Wait) (g : Nat) : List TaskDecl :=
  ((s.ctx c).tasks.filter p).filter fun d => s.waitsAt d w && d.passed w + 1 == g

/-- Release the tasks that wait with `w` and complete its generation `g`. -/
def State.releaseAll (s : State) (c : Nat) (p : TaskDecl → Bool) (w : Wait) (g : Nat) (after : State → Nat → Nat → State) : State :=
  (s.voters c p w g).foldl (fun s d => after (s.completeWait d.core d.slot) d.core d.slot) s

/-- The generation that the tasks waiting with `w` complete next (R204, R208). -/
def State.voteGen (s : State) (c : Nat) (p : TaskDecl → Bool) (w : Wait) : Nat :=
  (least? ((((s.ctx c).tasks.filter p).filter fun d => s.waitsAt d w).map fun d => d.passed w + 1)).getD 0

/-- Every task that counts has arrived at generation `g`: it has completed it, or waits to (R204, R205, R207). -/
def State.arrived (s : State) (c : Nat) (p : TaskDecl → Bool) (w : Wait) (g : Nat) : Bool :=
  ((s.ctx c).tasks.filter p).all fun d => g ≤ d.passed w || (s.waitsAt d w && d.passed w + 1 == g)

/-- Tick of the last arrival at generation `g`. -/
def State.lastArrival (s : State) (c : Nat) (p : TaskDecl → Bool) (w : Wait) (g : Nat) : Nat :=
  ((s.voters c p w g).map fun d => ((s.task? d.core d.slot).elim 0 (·.waitStart))).foldl max 0

/-- The collector of a threshold or barrier: once every task that counts has arrived it names the release tick, and at that tick the
waiting tasks resume together (R204, R208, R214). `tickAt` gives the tick from that of the last arrival. -/
def State.collect (s : State) (c : Nat) (p : TaskDecl → Bool) (w : Wait) (tickAt : Nat → Nat) (after : State → Nat → Nat → State) :
    State :=
  let x := s.ctx c
  match x.releases.find? fun r => r.wait == w with
  | some r =>
    if s.tick < r.tick then s
    else (s.setCtx c { x with releases := x.releases.filter fun r => r.wait != w }).releaseAll c p w r.gen after
  | none =>
    let g := s.voteGen c p w
    if g == 0 || !s.arrived c p w g then s
    else { s with draws := s.draws + 1 }.setCtx c { x with releases := x.releases ++ [Release.mk w g (tickAt (s.lastArrival c p w g))] }

/-- Release tick of a threshold: free, no later than 192 ticks after the last vote (R204, log entry 4). -/
def State.thresholdTick (s : State) (last : Nat) : Nat :=
  s.tick + (if last + 192 < s.tick then 0 else Config.pick s.draws % (last + 193 - s.tick))

/-- THRESHOLD_RELEASE: the collector of a privileged context's threshold acts (R204). -/
def execThresholdRelease (c : CtxId) (s : State) : Host.Outcome State Fault Refusal :=
  .next (s.clocked (if (s.ctx c).priv && s.runs c && !s.holdsAt c ((s.ctx c).gen + 1) then
    s.collect c s.liveDecl .threshold s.thresholdTick State.passThreshold else s))

/-! ## BARRIER (R207, R208) -/

/-- BARRIER: the handle of a casement that contains the issuing core-unit. -/
def barrierBody (x : Cx) (s : State) : Chk Next :=
  match (s.ctx x.c).units.findIdx? fun u =>
      u.handle == x.s x.sa && u.casement && u.leaf ≤ x.t.leaf && x.t.leaf < u.leaf + u.leaves with
  | none => .error .handle
  | some n => do
    x.clean 6 x.sa
    .error (.wait (.barrier n))

def execBarrier (i : Issue) (s : State) : Host.Outcome State Fault Refusal :=
  issue (specQ 0x80 [qSa] (· == 0)) barrierBody i s

/-- The declared tasks of the core-units below a unit. -/
def State.under (s : State) (c n : Nat) (d : TaskDecl) : Bool :=
  match (s.ctx c).units[n]? with
  | some u => decide (u.leaf ≤ d.leaf) && decide (d.leaf < u.leaf + u.leaves)
  | none => false

/-- A declared task has started and has not halted: a barrier of a casement above it waits for it (R207). -/
def State.startedDecl (s : State) (d : TaskDecl) : Bool :=
  d.phase != .notStarted && !(d.phase == .live && ((s.task? d.core d.slot).elim true fun t => t.state == .halted))

/-- Release lead of a casement: 192 ticks, and 250 for each module hop (R208). -/
def UnitNode.lead (u : UnitNode) : Nat := 192 + 250 * u.hops

/-- Release tick of a casement's barrier: free, no earlier than the last arrival plus the release lead (R208, log entry 4). -/
def State.barrierTick (s : State) (c node last : Nat) : Nat :=
  max s.tick (last + (((s.ctx c).units[node]?).elim 192 UnitNode.lead)) + Config.pick s.draws

/-- BARRIER_RELEASE: the collector at a casement's root acts; where the casement spans modules the command says that every core-unit on
the others has arrived (R22, R208). -/
def execBarrierRelease (c : CtxId) (node : Nat) (s : State) : Host.Outcome State Fault Refusal :=
  .next (s.clocked (if s.runs c then
    s.collect c (fun d => s.under c node d && s.startedDecl d) (.barrier node) (s.barrierTick c node) (State.passBarrier node) else s))

/-! ## Timed launch (R209, R210, R351) -/

/-- AT.LAUNCH: a tick that has begun is late and counted (R210). -/
def atLaunchBody (x : Cx) (s : State) : Chk Next := do
  let v := x.s x.sa
  x.clean 5 x.sa
  need (v ≤ s.tick) (.wait (.launch v))
  .ok (.retire (s.wrap (Fld.synLateCount x.c)))

def execAtLaunch (i : Issue) (s : State) : Host.Outcome State Fault Refusal :=
  issue (specQ 0x82 [qSa] (· == 0)) atLaunchBody i s

/-- LAUNCH_TICK: the launches of a core whose tick has begun retire, and their tasks issue next in ascending slot order. -/
def State.launchTick (s : State) (core : Nat) : State :=
  let due := (List.range 16).filter fun k =>
    match s.task? core k with
    | some t =>
      t.state == .waiting && s.runs t.ctx &&
        (match t.wait with | some (.launch v) => decide (v ≤ s.tick) | _ => false)
    | none => false
  let s := due.foldl (fun s k => s.completeWait core k) s
  let old := (SMap.getD s.cores.first core []).filter fun k => !due.contains k
  { s with cores.first := SMap.putD s.cores.first core (due ++ old) [] }

def execLaunchTick (core : CoreId) (s : State) : Host.Outcome State Fault Refusal := .next (s.clocked (s.launchTick core))

/-- TICK.RD (R345). -/
def tickRdBody (x : Cx) (s : State) : Chk Next := .ok (.retire (x.putS s x.sd (s.tick % 2 ^ 64) false))

def execTickRd (i : Issue) (s : State) : Host.Outcome State Fault Refusal :=
  issue (specQ 0x83 [qSd] (· == 0)) tickRdBody i s

/-! ## Deadlock monitor (R218 to R221) -/

/-- A task is blocked (R218). -/
def Task.blocked (t : Task) : Bool :=
  t.state == .waiting &&
    match t.wait with
    | none => false
    | some (.latch ..) => true
    | some (.inject ..) => true
    | some (.buffer _) => true
    | some (.launch _) => false
    | some (.barrier _) => true
    | some .threshold => true
    | some .lease => true
    | some (.tiles _) => false
    | some (.streamTiles ..) => true
    | some .coll => false
    | some (.collRoom _) => false
    | some (.reissue k) => k != 3 && k != 7

/-- The monitor is armed for a context (R218, R221); it does not count while the context is HELD (R304). -/
def State.dlmArmed (s : State) (c : Nat) : Bool :=
  let ts := s.tasksOf c
  let st := s.ctxState c
  s.flag (Fld.synDlmCtrlEn c) && st != ctxIdle && st != ctxFaulted && st != ctxHeld && !s.faultWaits c &&
    ts.any (fun p => p.2.state == .waiting) &&
    ts.all (fun p => p.2.blocked || p.2.state == .halted || p.2.state == .faulted) &&
    !((s.ctx c).tasks.any fun d => d.phase == .parked || d.phase == .restoring)

def State.dlmLimit (s : State) (c : Nat) : Nat :=
  let l := s.get (Fld.synDlmCtrlLimitLog2 c)
  2 ^ (if l < 12 then 12 else if 32 < l then 32 else l)

/-- What restarts the count: FILLED, FREE and TAKEN of the context's endpoints, tiles landed, and retirements (R219). -/
def State.dlmMark (s : State) (c : Nat) : List Nat :=
  ((s.cores.eps.filter fun p => s.get (Fld.strCfgContext p.1) == c).flatMap fun p =>
    [p.2.filled, p.2.taken, p.2.carried] ++ p.2.used) ++ (s.tasksOf c).map fun p => p.2.retired

/-- A tick passes for the monitor of a context: it has been counted where the monitor was armed in it (R219). -/
def State.dlmTick (s : State) (c : Nat) : State :=
  let x := s.ctx c
  let m := s.dlmMark c
  let n := if !s.dlmArmed c then 0 else if x.dlmMark == m then x.dlmCount + 1 else 1
  s.setCtx c { x with dlmMark := if s.dlmArmed c then m else [], dlmCount := n }

/-- Word 3 of DEADLOCK: byte k − 1 counts the tasks that wait with kind k (R220). -/
def State.waitCounts (s : State) (c : Nat) : Nat :=
  (List.range 7).foldl (fun n i =>
    let m := ((s.tasksOf c).filter fun p => p.2.state == .waiting &&
      (match p.2.wait with | some w => w.kind == i + 1 | none => false)).length
    n + (if 255 < m then 255 else m) * 2 ^ (8 * i)) 0

/-- DEADLOCK: the count has reached the limit (R220). -/
def State.deadlock (s : State) (c : Nat) : State :=
  if !s.dlmArmed c || (s.ctx c).dlmMark != s.dlmMark c || (s.ctx c).dlmCount < s.dlmLimit c then s
  else
    let blocked := (s.tasksOf c).filter fun p => p.2.blocked
    let low := (least? (blocked.map fun p => p.2.leaf)).getD 0
    let kinds := s.waitCounts c
    let s := s.put (Fld.synDlmStatTripped c) 1
    let s := s.raiseCtx srcCtx 0x0105 3 c (blocked.length + low * 2 ^ 32) kinds
    s.faultCtx c 4 low

def execDeadlock (c : CtxId) (s : State) : Host.Outcome State Fault Refusal := .next (s.clocked (s.deadlock c))

end Sys2Proof.Machine
end

