-- ==== Sys2Proof/Machine/Units.lean ====
section
/-!
DEFINITION. UNIT.QUERY (R27, R185) and the capability record (R29 to R32).
-/
namespace Sys2Proof.Machine
open Sys2Proof

/-! ## The capability record -/

/-- BLOCK_K of a format's entry (R31). -/
def blockKOf : Fmt → Nat
  | .fp32 => 4
  | .fp16 | .bf16 => 16
  | .e4m3 | .e5m2 | .e3m2 | .e2m3 | .e2m1 | .int8 | .int4 | .cb4 => 64
  | .int32 | .e8m0 => 0

/-- FLAGS of a format's entry: MMA, vector, MX, SR target, accumulator only (R30, R31). -/
def capFlagsOf : Fmt → Nat
  | .fp32 => 3
  | .fp16 | .bf16 => 11
  | .e4m3 | .e5m2 | .e3m2 | .e2m3 | .e2m1 => 13
  | .int8 => 3
  | .int4 => 5
  | .int32 => 18
  | .e8m0 => 16
  | .cb4 => 1

/-- MAC_RATE of a format (R31). -/
def macRateOf : Fmt → Nat
  | .fp32 => 256
  | .fp16 | .bf16 => 1024
  | .e4m3 | .e5m2 | .e3m2 | .e2m3 | .int8 => 2048
  | .e2m1 | .int4 | .cb4 => 4096
  | .int32 | .e8m0 => 0

/-- One entry of FORMAT_TABLE (R30). -/
def capEntry (code : Nat) : List Byte :=
  match Fmt.ofCode code with
  | none => List.replicate 16 0#8
  | some f =>
    let (r, c) := tileShape f
    leBytes 1 code ++ leBytes 1 f.bits ++ leBytes 1 (blockKOf f) ++ leBytes 1 (capFlagsOf f) ++ leBytes 2 r ++ leBytes 2 c ++
      leBytes 2 (r * c * f.bits / 8) ++ leBytes 2 (macRateOf f) ++ leBytes 4 0

/-- The 512 bytes of a context's capability record (R29). -/
def Context.caps (x : Context) : List Byte :=
  leBytes 4 0x52435854 ++ leBytes 2 512 ++ leBytes 1 1 ++ leBytes 1 0 ++
  leBytes 4 0x00020040 ++ leBytes 2 (Config.stepping.val + 1) ++ leBytes 2 0 ++
  leBytes 4 x.unitsBound ++ leBytes 2 256 ++ leBytes 2 16 ++ leBytes 2 256 ++ leBytes 2 32 ++ leBytes 4 65536 ++
  leBytes 4 4096 ++ leBytes 4 64 ++ leBytes 2 512 ++ leBytes 1 16 ++ leBytes 1 64 ++ leBytes 2 1024 ++ leBytes 2 32 ++
  leBytes 8 0x04000000 ++ leBytes 8 0x00800000 ++ leBytes 8 0x20000000 ++ leBytes 8 x.t2Bytes ++
  leBytes 8 0x100000000000 ++ leBytes 4 1250000000 ++ leBytes 4 4000 ++
  leBytes 1 2 ++ leBytes 1 8 ++ leBytes 1 4 ++ leBytes 1 0 ++ leBytes 2 256 ++ leBytes 2 0 ++
  leBytes 4 (if x.priv then 0xFF else 0xDF) ++ leBytes 4 13 ++ leBytes 16 0 ++
  ((List.range 16).flatMap fun i => capEntry (i + 1)) ++ leBytes 128 0

/-! ## UNIT.QUERY -/

/-- A context may reach the units of another through a window: one that is valid in the active table for the context's job, onto the
other's memory (R25, R398). Declared streams join units of one context only (R473). -/
def State.reaches (s : State) (c d : Nat) : Bool :=
  let i := 1024 * s.get Fld.vblTblCtrlActive
  (List.range 1024).any fun w => s.flag (Fld.winKeyValid (i + w)) && s.get (Fld.winKeyJob (i + w)) == s.jobOf c &&
    s.get (Fld.winTgtContext (i + w)) == d

/-- The unit that a handle names, with the context that holds it: of the task's own context, or of one it may reach (R25). -/
def State.unit? (s : State) (c h : Nat) : Option (Context × UnitNode) :=
  let x := s.ctx c
  match x.units.find? fun u => u.handle == h with
  | some u => some (x, u)
  | none => s.ctxs.findSome? fun p => (p.2.units.find? fun u => u.handle == h && s.reaches c p.1).map fun u => (p.2, u)

/-- Used fields of each selector (R185); of a reserved selector none is held reserved. -/
def queryFields : Nat → List (Nat × Nat)
  | 0 => [qSd]
  | 1 => [qSa, qSd]
  | 2 => [qSa, qSb, qSd]
  | 3 => [qSa, qSd]
  | 4 => [qSa, qSd]
  | 5 => [qSd]
  | 6 => [qSa, qSd]
  | 7 => [qSa]
  | _ => [qHnd, qSa, qSb, qSd, qImm]

/-- A selector that names a unit by handle: its value, or BAD_HANDLE (R27). -/
def Cx.query (x : Cx) (s : State) (f : Context → UnitNode → Option Nat) : Chk Next :=
  match s.unit? x.c (x.s x.sa) with
  | none => .error .handle
  | some (k, u) =>
    match f k u with
    | none => .error .handle
    | some v => do
      x.clean 6 x.sa
      if x.qfunc == 2 then x.clean 2 x.sb else .ok ()
      .ok (.retire (x.putS s x.sd v false))

/-- The handle of child `i` of a unit; a core-unit has no children (R16, R27). -/
def Context.child (k : Context) (u : UnitNode) (i : Nat) : Option Nat :=
  if !u.casement || u.d0 * u.d1 * u.d2 ≤ i then none else
  (k.units.find? fun v =>
    v.childIndex == i && (match v.parent with | some p => k.units[p]? == some u | none => false)).map (·.handle)

/-- The handle of the parent; 0 for the root (R27). -/
def Context.parentOf (k : Context) (u : UnitNode) : Nat :=
  match u.parent with
  | none => 0
  | some p => match k.units[p]? with | some v => v.handle | none => 0

/-- CAPS copies the record to T0 (R27, R185). -/
def Cx.queryCaps (x : Cx) (s : State) : Chk Next := do
  let a := x.s x.sa
  need (a % 64 == 0 && inT0 a && inT0 (a + 511) && s.mapped x.c a 512) badShape
  x.clean 1 x.sa
  .ok (.retire (s.twrite x.c a (s.ctx x.c).caps fun _ => false))

/-- The handle of the core-unit with a leaf ordinal. -/
def Context.selfHandle (k : Context) (leaf : Nat) : Nat :=
  match k.units.find? fun u => !u.casement && u.leaf == leaf with
  | some u => u.handle
  | none => 0

def unitQueryBody (x : Cx) (s : State) : Chk Next :=
  match x.qfunc with
  | 0 => .ok (.retire (x.putS s x.sd ((s.ctx x.c).selfHandle x.t.leaf) false))
  | 1 => x.query s fun k u => some (k.parentOf u)
  | 2 => x.query s fun k u => k.child u (x.s x.sb)
  | 3 => x.query s fun _ u => some (u.d0 + u.d1 * 2 ^ 21 + u.d2 * 2 ^ 42)
  | 4 => x.query s fun _ u => some (u.childIndex + u.depth * 2 ^ 32)
  | 5 => .ok (.retire (x.putS s x.sd x.t.leaf false))
  | 6 => x.query s fun _ u => some u.leaves
  | _ => x.queryCaps s

def execUnitQuery (i : Issue) (s : State) : Host.Outcome State Fault Refusal :=
  issue ⟨0x84, false, fun w _ => onlyFields ((24, 4) :: queryFields (field w 24 4)) w, fun w _ => field w 24 4 < 8⟩
    unitQueryBody i s

end Sys2Proof.Machine
end

