-- ==== Sys2Proof/Machine/TaskRecord.lean ====
section
/-!
DEFINITION. The task state record: its bytes, and the checks a restore makes (R146 to R149).
-/
namespace Sys2Proof.Machine
open Sys2Proof

/-! ## Layout (R146) -/

def recordBytes : Nat := 135168

/-- STATE of a record: a stopped task that was waiting is recorded as waiting (R147, R148). -/
def Task.recState (t : Task) : Nat :=
  match t.state with
  | .stopped => if t.wait.isSome then 3 else 1
  | .ready => 2
  | .waiting => 3
  | .faulted => 4
  | .halted => 5

/-- WAIT_KIND of a record: that of a waiting task, or of one stopped while it waited. -/
def Task.recWait (t : Task) : Nat := if t.recState == 3 then t.wait.elim 0 Wait.kind else 0

/-- The record's bytes from offset 64 on: registers and their poison. -/
def Task.recRegs (t : Task) : List Byte :=
  ((List.range 64).flatMap fun i => leBytes 8 (t.reg i).toNat) ++
  leBytes 8 t.sPoison.toNat ++
  leBytes 2 (setBit t.p.toNat 0 true) ++ leBytes 2 t.pPoison.toNat ++ leBytes 4 t.tPoison.toNat ++
  leBytes 432 0 ++
  ((List.range 32).flatMap fun i => leBytes 64 (t.desc i)) ++
  ((List.range 16).flatMap fun i => leBytes 8 (t.handle i).toNat) ++
  ((List.range 32).flatMap fun i => leBytes 8 (t.vregPoison i)) ++
  leBytes 640 0 ++
  ((List.range 32).flatMap fun i => leBytes 4096 (t.vreg i).toNat)

/-- The first 64 bytes of the record with a given CRC. -/
def Task.recHead (t : Task) (slot prio tick crc : Nat) : List Byte :=
  leBytes 4 0x54534B54 ++ leBytes 4 recordBytes ++ leBytes 2 1 ++ leBytes 1 slot ++ leBytes 1 t.ctx ++
  leBytes 1 t.recState ++ leBytes 1 prio ++ leBytes 2 t.flags.toNat ++ leBytes 8 t.pc.toNat ++ leBytes 8 tick ++
  leBytes 1 t.stopCause ++ leBytes 1 t.illCause ++ leBytes 1 t.recWait ++ leBytes 1 0 ++
  leBytes 4 t.leaf ++ leBytes 8 t.faultWord.toNat ++ leBytes 8 t.faultExt.toNat ++
  leBytes 4 (t.accFirst % 2048 + t.accCount * 2 ^ 16) ++ leBytes 4 crc

/-- The record of a task (R146, R148). -/
def Task.record (t : Task) (slot prio tick : Nat) : List Byte :=
  let regs := t.recRegs
  t.recHead slot prio tick (crc32c (t.recHead slot prio tick 0 ++ regs)) ++ regs

/-! ## Reading a record back (R149) -/

/-- The record's checks: identity, CRC, reserved bytes and fields, enumerated fields, context and window (R149). -/
def recordOk (bs : List Byte) (ctx accFirst accCount : Nat) : Bool :=
  leAt bs 0 4 == 0x54534B54 && leAt bs 4 4 == recordBytes && leAt bs 8 2 == 1 &&
  leAt bs 60 4 == crc32c (bs.take 60 ++ leBytes 4 0 ++ bs.drop 64) &&
  leAt bs 11 1 == ctx && leAt bs 12 1 < 6 && leAt bs 13 1 < 4 && leAt bs 14 2 < 64 && leAt bs 16 8 < 2 ^ 44 &&
  leAt bs 32 1 < 7 && leAt bs 33 1 < 10 && leAt bs 34 1 < 8 && zeroBytes bs 35 1 &&
  zeroBytes bs 592 432 && zeroBytes bs 3456 640 &&
  ((List.range 16).all fun i => leAt bs (3072 + 8 * i) 8 < 2 ^ 41) &&
  (let w := leAt bs 56 4
   let first := field w 0 11
   let count := field w 16 12
   field w 11 5 == 0 && field w 28 4 == 0 && accFirst ≤ first && first + count ≤ accFirst + accCount)

/-- Entries of a table built from `n` values, those equal to the default left out. -/
def tableOf {α : Type} [DecidableEq α] (n : Nat) (d : α) (f : Nat → α) : SMap α :=
  ((List.range n).map fun i => (i, f i)).filter fun p => p.2 != d

/-- The task that a record restores for a declared task, none where its STATE is EMPTY (R149). -/
def recordTask (bs : List Byte) (d : TaskDecl) (ctx tick : Nat) : Option Task :=
  let kind := leAt bs 34 1
  let st : Option TState :=
    match leAt bs 12 1 with
    | 1 => some .stopped
    | 2 => some .ready
    | 3 => some .waiting
    | 4 => some .faulted
    | 5 => some .halted
    | _ => none
  st.map fun st =>
    { state := st
      stopCause := leAt bs 32 1
      illCause := leAt bs 33 1
      wait := if st == .waiting then some (.reissue kind) else none
      ctx := ctx
      num := d.num
      leaf := d.leaf
      pc := BitVec.ofNat 44 (leAt bs 16 8)
      flags := BitVec.ofNat 16 (leAt bs 14 2)
      s := tableOf 64 0#64 fun i => BitVec.ofNat 64 (leAt bs (64 + 8 * i) 8)
      p := BitVec.ofNat 16 (setBit (leAt bs 584 2) 0 true)
      t := tableOf 32 0#512 fun i => BitVec.ofNat 512 (leAt bs (1024 + 64 * i) 64)
      v := tableOf 32 0#32768 fun i => BitVec.ofNat 32768 (leAt bs (4096 + 4096 * i) 4096)
      h := tableOf 16 0#64 fun i => BitVec.ofNat 64 (leAt bs (3072 + 8 * i) 8)
      sPoison := BitVec.ofNat 64 (leAt bs 576 8)
      pPoison := BitVec.ofNat 16 (leAt bs 586 2)
      tPoison := BitVec.ofNat 32 (leAt bs 588 4)
      vPoison := tableOf 32 0#64 fun i => BitVec.ofNat 64 (leAt bs (3200 + 8 * i) 8)
      faultWord := BitVec.ofNat 64 (leAt bs 40 8)
      faultExt := BitVec.ofNat 64 (leAt bs 48 8)
      accFirst := field (leAt bs 56 4) 0 11
      accCount := field (leAt bs 56 4) 16 12
      run := none
      waitStart := tick
      causes := 0
      request := none
      retired := 0 }

end Sys2Proof.Machine
end

