-- ==== Sys2Proof/WellFormed.lean ====
section
/-!
DEFINITION. Commands that are well formed: a TASK.CTL row fixes FUNC, and the instruction word holds that FUNC or one that is not listed
(R150, R184, R211). Every other rule about an operand is a check that the command itself makes.
-/
namespace Sys2Proof

/-- FUNC of a TASK.CTL word is the row's own, or a value that is not listed. -/
def taskCtlForm (f : Nat) (i : Issue) : Bool := field i.body.toNat 24 4 == f || 5 ≤ field i.body.toNat 24 4

/-- The FUNC that a row fixes, and its instruction. -/
def Instr.taskCtl : Instr → Option (Nat × Issue)
  | .taskCtlStart i => some (0, i)
  | .taskCtlStop i => some (1, i)
  | .taskCtlPreempt i => some (2, i)
  | .taskCtlSave i => some (3, i)
  | .taskCtlRestore i => some (4, i)
  | _ => none

/-- A command is well formed. -/
def WellFormed (c : Instr) : Bool :=
  match c.taskCtl with
  | some (f, i) => taskCtlForm f i
  | none => true

end Sys2Proof
end

