-- ==== Sys2Proof/Machine/TaskCtl.lean ====
section
/-!
DEFINITION. Task control: TASK.CTL and the context synchronisation registers, and what an operation does when it takes effect
(R98, R211 to R215, R223).
-/
namespace Sys2Proof.Machine
open Sys2Proof

/-! ## Results of SYN_TSK_STATUS (R223) -/
def resOk : Nat := 0
def resBadHandle : Nat := 1
def resBadRecord : Nat := 2
def resSlotBusy : Nat := 3
def resBusy : Nat := 4
def resBadMask : Nat := 5
def resBadAddress : Nat := 6
def resBadState : Nat := 7

/-! ## Effects on one declared task -/

/-- PRIO of a slot: its field of CORE_PRIO. -/
def State.prio (s : State) (core slot : Nat) : Nat := field (s.rd (Reg.corePrio core)) (2 * slot) 2

/-- STOP: the task becomes STOPPED; a resumable instruction keeps the units it has completed (R98, R211). -/
def State.stopTask (s : State) (core slot codes : Nat) : State :=
  match s.task? core slot with
  | none => s
  | some t =>
    if t.state == .ready || t.state == .waiting then
      ((s.closeBatches core slot).endWait core slot codes).modTask core slot fun t =>
        { t with state := .stopped, wait := if t.state == .waiting then t.wait else none, run := none }
    else s

/-- A started task enters its slot (R145). -/
def State.beginTask (s : State) (c : Nat) (i : Nat) (d : TaskDecl) : State :=
  let s := s.setTask d.core d.slot (Task.start c d.num d.leaf d.accFirst d.accCount d.entry d.arg d.handles)
  s.modDecl c i fun d => { d with phase := .live }

/-- Buffers and endpoints of a task restored into another slot of its core follow it, unless a task holds the old slot (R202, R213). -/
def State.retag (s : State) (c core old new : Nat) : State :=
  if old == new || (s.task? core old).isSome then s else
  let eps := (s.cores.eps.map (·.1)).filter fun k =>
    k / 256 == core && s.get (Fld.strCfgContext k) == c && s.get (Fld.strCfgOwner k) == old
  let s := { s with cores.buffers := s.cores.buffers.map fun (b : Buffer) =>
      if b.ctx == c && b.core == core && b.owner == BufOwner.slot old then { b with owner := .slot new } else b }
  eps.foldl (fun s k => s.put (Fld.strCfgOwner k) new) s

/-- A range that may hold a record: aligned, in the context's T0 or T1, mapped (R212). -/
def State.recordPlace (s : State) (c a : Nat) : Bool :=
  a % 4096 == 0 && upperTier a && upperTier (a + recordBytes - 1) && s.mapped c a recordBytes

/-- Write a task's record (R146, R148). -/
def State.writeRecord (s : State) (c a core slot : Nat) (t : Task) : State :=
  s.twrite c a (t.record slot (s.prio core slot) s.tick) fun _ => false

/-- Restore the record at an address into a declared task's slot (R149); `start` continues a task that START restores. -/
def State.restoreTask (s : State) (c i : Nat) (d : TaskDecl) (a : Nat) (start : Bool) : State × Nat :=
  if !s.recordPlace c a then (s, resBadAddress)
  else if (s.task? d.core d.slot).isSome then (s, resSlotBusy)
  else
    let bs := s.tread d.core c a recordBytes
    if s.tpoison d.core c a recordBytes || !recordOk bs c d.accFirst d.accCount then (s, resBadRecord)
    else
      match recordTask bs d c s.tick with
      | none => (s, resOk)
      | some t =>
        let t := if start && t.state == .stopped then { t with state := .ready } else t
        let s := s.setTask d.core d.slot t
        let prio := setField (s.rd (Reg.corePrio d.core)) (2 * d.slot) 2 (leAt bs 13 1)
        let s := s.wr (Reg.corePrio d.core) prio
        let s := if leAt bs 36 4 == d.leaf then s.retag c d.core (leAt bs 10 1) d.slot else s
        (s.modDecl c i fun d => { d with phase := .live }, resOk)

/-- A STOPPED task continues: READY, or WAITING again; a launch whose tick has begun is late (R210, R211). -/
def State.continueTask (s : State) (core slot : Nat) : State :=
  match s.task? core slot with
  | none => s
  | some t =>
    if t.state != .stopped then s else
    match t.wait with
    | none => s.modTask core slot fun t => { t with state := .ready }
    | some w =>
      let s := s.modTask core slot fun t => { t with state := .waiting, waitStart := s.tick }
      match w with
      | .launch v =>
        if v ≤ s.tick then (s.completeWait core slot).wrap (Fld.synLateCount t.ctx) else s
      | .tiles _ => s.queueStage core slot w
      | .latch .. => s
      | .inject .. => s
      | .buffer _ => s
      | .barrier _ => s
      | .threshold => s
      | .lease => s
      | .streamTiles .. => s
      | .coll => s
      | .collRoom _ => s
      | .reissue _ => s

/-- START of one task (R211); a DRAINING context starts none (R464). -/
def State.ctlStart (s : State) (c i : Nat) (d : TaskDecl) : State × Nat :=
  match d.phase with
  | .notStarted =>
    if s.ctxState c == ctxDraining || (s.task? d.core d.slot).isSome then (s, resOk) else (s.beginTask c i d, resOk)
  | .live => (s.continueTask d.core d.slot, resOk)
  | .parked =>
    if (s.task? d.core d.slot).isSome then (s.modDecl c i fun d => { d with phase := .restoring }, resOk)
    else s.restoreTask c i d d.saveArea true
  | .restoring => (s, resOk)

/-- PREEMPT of one task (R211, R213): its slot becomes EMPTY, its buffers and endpoints stay its own. -/
def State.ctlPreempt (s : State) (c i : Nat) (d : TaskDecl) (codes : Nat) : State × Nat :=
  if d.phase != .live then (s, resOk) else
  let s := s.stopTask d.core d.slot codes
  match s.task? d.core d.slot with
  | none => (s, resOk)
  | some t =>
    if t.state != .stopped then (s, resOk) else
    let s := (s.writeRecord c d.saveArea d.core d.slot t).dropTask d.core d.slot
    (s.modDecl c i fun d => { d with phase := .parked }, resOk)

/-- SAVE of one task; a slot that is EMPTY writes no record (R148, R211). -/
def State.ctlSave (s : State) (c : Nat) (d : TaskDecl) (a codes : Nat) : State × Nat :=
  if !s.recordPlace c a || s.inCode c a recordBytes then (s, resBadAddress)
  else if d.phase != .live then (s, resOk)
  else
    let s := s.stopTask d.core d.slot codes
    match s.task? d.core d.slot with
    | none => (s, resOk)
    | some t => (s.writeRecord c a d.core d.slot t, resOk)

/-- One operation on one task: the state after it and its result code. -/
def State.ctlOne (s : State) (o : TaskOp) (i codes : Nat) : State × Nat :=
  match (s.ctx o.ctx).tasks[i]? with
  | none => (s, resOk)
  | some d =>
    match o.func with
    | 0 => s.ctlStart o.ctx i d
    | 1 => if d.phase == .live then (s.stopTask d.core d.slot codes, resOk) else (s, resOk)
    | 2 => s.ctlPreempt o.ctx i d codes
    | 3 => s.ctlSave o.ctx d o.addr codes
    | _ => s.restoreTask o.ctx i d o.addr false

/-- The tasks that an operation selects, as indices of the context's declarations. -/
def State.selected (s : State) (o : TaskOp) : List Nat :=
  let ts := (s.ctx o.ctx).tasks
  (List.range ts.length).filter fun i =>
    match ts[i]? with
    | some d => s.under o.ctx o.node d && bitAt o.mask d.num
    | none => false

/-- A step of a collective sum of the task has launched and is not complete (R438). -/
def State.collBusy (s : State) (core slot : Nat) : Bool :=
  match s.task? core slot with
  | some t => t.wait == some .coll && s.coll.insts.any fun i => i.ctx == t.ctx && i.leaf == t.leaf && i.task == t.num && i.launched
  | none => false

/-- An operation waits while a selected slot's ports are closed (R60); one that stops a task waits until that task's issued instructions
have retired and a unit in progress has completed (R98, R174, R391, R438), and while the task waits for a release whose tick has been
named (R214; for STOP and SAVE as for PREEMPT: DEDUCED, log entry 33). -/
def State.ctlWaits (s : State) (o : TaskOp) : Bool :=
  (s.selected o).any fun i =>
    match (s.ctx o.ctx).tasks[i]? with
    | some d => s.portsClosed d.core ||
        ((1 ≤ o.func && o.func ≤ 3) && d.phase == .live &&
          (s.older d.core d.slot || s.collBusy d.core d.slot || s.named o.ctx d) &&
          (match s.task? d.core d.slot with | some t => t.state == .ready || t.state == .waiting | none => false))
    | none => false

/-- The operation changes nothing in the state its context is in (R214): all but SAVE when FAULTED, every one when IDLE. -/
def State.ctlBarred (s : State) (c func : Nat) : Bool :=
  s.ctxState c == ctxIdle || (s.ctxState c == ctxFaulted && func != 3)

/-- A host operation completes (R223). -/
def State.ctlResult (s : State) (o : TaskOp) (r : Nat) : State :=
  if o.issuer.isSome then s else (s.put (Fld.synTskStatusBusy o.ctx) 0).put (Fld.synTskStatusResult o.ctx) r

/-- A failure writes TASK_CTL_FAILED (R212). -/
def State.ctlFailed (s : State) (o : TaskOp) (num r : Nat) : State :=
  if r == resOk then s else
  let h := ((s.ctx o.ctx).units[o.node]?).elim 0 (·.handle)
  s.raiseCtx srcCtx 0x0106 1 o.ctx h (r + num * 2 ^ 8)

/-- An operation takes effect on every selected task (R211, R212). -/
def State.ctlApply (s : State) (o : TaskOp) (codes : Nat) : State :=
  if s.ctlBarred o.ctx o.func then s.ctlResult o resBadState else
  let step (p : State × Nat) (i : Nat) : State × Nat :=
    let q := p.1.ctlOne o i codes
    let num := (((p.1.ctx o.ctx).tasks[i]?).elim 0 (·.num))
    (q.1.ctlFailed o num q.2, if p.2 == resOk then q.2 else p.2)
  let r := (s.selected o).foldl step (s, resOk)
  (r.1.thrUpdate o.ctx).ctlResult o r.2

/-- Order in which operations of one tick apply: the issuing task's leaf ordinal, host operations last (R23). -/
def TaskOp.before (a b : TaskOp) : Bool :=
  a.due < b.due || (a.due == b.due &&
    match a.issuer, b.issuer with
    | some x, some y => decide (x < y)
    | some _, none => true
    | none, some _ => false
    | none, none => false)

/-- An operation applies now: its tick has come, nothing holds it, and no operation on a task of its own applies before it (R214). -/
def State.opReady (s : State) (o : TaskOp) : Bool :=
  o.due ≤ s.tick && !s.ctlWaits o &&
    !(s.taskOps.any fun b => b.ctx == o.ctx && b.before o && (s.selected b).any (s.selected o).contains)

/-- Index of the operation that applies next. -/
def State.nextOp (s : State) : Option Nat :=
  s.taskOps.zipIdx.foldl (fun (best : Option Nat) p =>
    if !s.opReady p.1 then best else
    match best with
    | none => some p.2
    | some j => match s.taskOps[j]? with
      | some b => if p.1.before b then some p.2 else some j
      | none => some p.2) none

/-- TASK_CTL_EFFECT: the next operation whose tick has come takes effect; `codes` may name further stall causes of the waits that it
ends (R212, R262). -/
def execTaskCtlEffect (codes : BitVec 6) (s : State) : Host.Outcome State Fault Refusal :=
  .next (s.clocked (match s.nextOp with
    | none => s
    | some j =>
      match s.taskOps[j]? with
      | none => s
      | some o => ({ s with taskOps := s.taskOps.eraseIdx j }).ctlApply o codes.toNat))

/-- PARKED_TASK_RESTORE: a pre-empted task that a START found its slot taken for is restored when the slot empties (R211). -/
def execParkedTaskRestore (core : CoreId) (slot : SlotId) (s : State) : Host.Outcome State Fault Refusal :=
  let go (s : State) (c : Nat) : State :=
    match (s.ctx c).tasks.findIdx? fun d => d.core == core.val && d.slot == slot.val && d.phase == .restoring with
    | none => s
    | some i =>
      match (s.ctx c).tasks[i]? with
      | none => s
      | some d =>
        if (s.task? core slot).isSome || s.ctlBarred c 0 then s
        else
          let r := s.restoreTask c i d d.saveArea true
          r.1.ctlFailed ⟨c, some d.leaf, 0, 0, 0, 0, 0⟩ d.num r.2
  .next (s.clocked ((s.ctxs.map (·.1)).foldl go s))

/-! ## TASK.CTL (R211, R212) -/

/-- TASK.CTL with FUNC `f`. The handle of every unit of the task's context is valid (R25), a casement's descendant included, though R20
says that a unit outside a casement cannot address its descendants (DEDUCED, log entry 34). -/
def taskCtlBody (f : Nat) (x : Cx) (s : State) : Chk Next := do
  let mask := x.imm24
  let record := f == 3 || f == 4
  let a := x.s x.sb
  need (mask != 0 && (!record || (popCount 16 mask == 1 && s.mapped x.c a recordBytes))) badShape
  match (s.ctx x.c).units.findIdx? fun u => u.handle == x.s x.sa with
  | none => .error .handle
  | some n =>
    match (s.ctx x.c).units[n]? with
    | none => .error .handle
    | some u => do
      let self := bitAt mask x.t.num && u.leaf ≤ x.t.leaf && x.t.leaf < u.leaf + u.leaves
      need (!(self && 2 ≤ f)) .handle
      need (!record || !u.casement) badShape
      x.clean 6 x.sa
      if record then x.clean 1 x.sb else .ok ()
      let o : TaskOp := ⟨x.c, some x.t.leaf, f, n, mask, a, s.tick + u.lead⟩
      .ok (.retire { s with taskOps := s.taskOps ++ [o] })

def taskCtl (f : Nat) (i : Issue) (s : State) : Host.Outcome State Fault Refusal :=
  if !taskCtlForm f i then .fault .illFormed else
  issue ⟨0x85, false,
    fun w _ => onlyFields ([qSa, (24, 4), (0, 16)] ++ (if 3 ≤ field w 24 4 then [qSb] else [])) w,
    fun w _ => field w 24 4 < 5⟩ (taskCtlBody f) i s

def execTaskCtlStart (i : Issue) (s : State) : Host.Outcome State Fault Refusal := taskCtl 0 i s
def execTaskCtlStop (i : Issue) (s : State) : Host.Outcome State Fault Refusal := taskCtl 1 i s
def execTaskCtlPreempt (i : Issue) (s : State) : Host.Outcome State Fault Refusal := taskCtl 2 i s
def execTaskCtlSave (i : Issue) (s : State) : Host.Outcome State Fault Refusal := taskCtl 3 i s
def execTaskCtlRestore (i : Issue) (s : State) : Host.Outcome State Fault Refusal := taskCtl 4 i s

/-! ## SYN_TSK_CMD (R223) -/

/-- The result that a command has at once, or the unit it names (R223). -/
def State.synCheck (s : State) (c func mask : Nat) : Except Nat Nat :=
  if 5 ≤ func then .error resBadMask
  else if s.ctlBarred c func then .error resBadState
  else if mask == 0 then .error resBadMask
  else
    match (s.ctx c).units.findIdx? fun u => u.handle == s.get (Fld.synTskHandleHandle c) with
    | none => .error resBadHandle
    | some n =>
      if 3 ≤ func then
        if popCount 16 mask != 1 || (((s.ctx c).units[n]?).elim true (·.casement)) then .error resBadMask
        else .ok n
      else .ok n

/-- A write of SYN_TSK_CMD. -/
def State.synCmd (s : State) (c func mask : Nat) : State :=
  if s.flag (Fld.synTskStatusBusy c) then s.put (Fld.synTskStatusResult c) resBusy
  else
    match s.synCheck c func mask with
    | .error r => s.put (Fld.synTskStatusResult c) r
    | .ok n =>
      let lead := ((s.ctx c).units[n]?).elim 192 UnitNode.lead
      let o : TaskOp := ⟨c, none, func, n, mask, s.get64 (Reg.synTskAddr c) % 2 ^ 44, s.tick + lead⟩
      { s.put (Fld.synTskStatusBusy c) 1 with taskOps := s.taskOps ++ [o] }

/-- A write of SYN_TSK_CMD with a FUNC and a mask (R223). -/
def State.synWrite (s : State) (req : Requester) (c func mask : Nat) : State :=
  s.write req (Reg.synTskCmd c) (func + mask * 2 ^ 16) fun s => s.synCmd c func mask

def execSynTskStart (req : Requester) (c : CtxId) (mask : BitVec 16) (s : State) : Host.Outcome State Fault Refusal :=
  .next (s.synWrite req c 0 mask.toNat)
def execSynTskStop (req : Requester) (c : CtxId) (mask : BitVec 16) (s : State) : Host.Outcome State Fault Refusal :=
  .next (s.synWrite req c 1 mask.toNat)
def execSynTskPreempt (req : Requester) (c : CtxId) (mask : BitVec 16) (s : State) : Host.Outcome State Fault Refusal :=
  .next (s.synWrite req c 2 mask.toNat)
def execSynTskSave (req : Requester) (c : CtxId) (mask : BitVec 16) (s : State) : Host.Outcome State Fault Refusal :=
  .next (s.synWrite req c 3 mask.toNat)
def execSynTskRestore (req : Requester) (c : CtxId) (mask : BitVec 16) (s : State) : Host.Outcome State Fault Refusal :=
  .next (s.synWrite req c 4 mask.toNat)

end Sys2Proof.Machine
end

