-- ==== Sys2Proof/Machine/Staging.lean ====
section
/-!
DEFINITION. Staging from T2 and T3 (R255 to R258), errors of memories (R266 to R271), and the migration engine (R273 to
R277).
-/
namespace Sys2Proof.Machine
open Sys2Proof

/-! ## Errors (R267 to R272) -/

/-- Edge agent index of a channel: stack 4s + j/2 at site (s, j) (R67, R68). -/
def chanEdge (m : Nat) : Nat := 8 * (m / 4) + 2 * (m % 4)

/-- Physical key of a sector's first byte, by memory code, unit and byte offset (R272). -/
def memKey (mem unit off : Nat) : Nat :=
  match mem with
  | 0 => coreKey false unit off
  | 1 => coreKey true unit off
  | 2 => stackKey unit off
  | _ => 2 ^ 40 + unit * 2 ^ 23 + off

def ceField : Nat → Fld
  | 0 => Fld.migCeT0Count
  | 1 => Fld.migCeT1Count
  | 2 => Fld.migCeT2Count
  | _ => Fld.migCeAccCount

def ueField : Nat → Fld
  | 0 => Fld.migUeT0Count
  | 1 => Fld.migUeT1Count
  | 2 => Fld.migUeT2Count
  | _ => Fld.migUeAccCount

/-- Source ID of the unit whose ECC found an error (R272). -/
def eccSource (mem unit : Nat) : Nat := if mem == 2 then srcEdge (chanEdge unit) else srcPane (paneOf unit)

/-- A read or a partial write finds an error in a sector (R268, R269). `ctx` 0xFF is the scrubber. Two copies of a poison bit that
disagree are a UE (R267). A sector of a lost channel logs nothing (R266); a poisoned one logs a UE that a partial write finds, and nothing
else (R269). -/
def State.eccFound (s : State) (mem unit off : Nat) (ue : Bool) (ctx : Nat) (write : Bool) : State :=
  let off := off / 64 * 64
  let q := memKey mem unit off / 64
  if (mem == 2 && !s.chanUp unit) || (s.mem.poisoned q && !(write && ue)) then s
  else if !ue then s.bump (ceField mem)
  else
    let s := { s with mem := s.mem.setPoison q }
    let s := s.bump (ueField mem)
    let part := if ctx == 0xFF then 0xFF else s.partOf ctx
    s.raise (eccSource mem unit) 0x0310 2 ctx part (mem + unit * 2 ^ 8 + off * 2 ^ 16)
      (ctx + (if write then 2 ^ 8 else 0))

/-- PATROL_SCRUB: the scrubber, or an access of a context, finds an error (R268 to R271). -/
def execPatrolScrub (f : EccFinding) (s : State) : Host.Outcome State Fault Refusal :=
  .next (s.clocked (match f.ctx with
    | none => if s.flag Fld.migScrubEn then s.eccFound f.mem.code f.unit.val f.off.toNat f.ue 0xFF false else s
    | some c => s.eccFound f.mem.code f.unit.val f.off.toNat f.ue c f.write))

/-- T2_LOST (R266). -/
def execT2Lost (m : ChanId) (s : State) : Host.Outcome State Fault Refusal :=
  .next (s.clocked (if s.chanUp m then
    (s.put Fld.migChanUpUp (setBit (s.get Fld.migChanUpUp) m false)).raiseMod (srcEdge (chanEdge m)) 0x0311 4 m 0
    else s))

/-! ## Reservation (R255 to R257) -/

/-- PIN copies beyond STAGE_TILES / 2 are kept as STAGE copies (R257): the addresses whose PIN counts. -/
def Pool.pinned (p : Pool) (limit : Nat) : List Nat :=
  ((p.tiles.filter fun y => !y.pins.isEmpty).take (limit / 2)).map (·.addr)

/-- A copy may be evicted: nothing reserves it, no PIN keeps it, and it is not one of `keep` (R257). -/
def Pool.evictable (p : Pool) (limit : Nat) (keep : List Nat) (y : Staged) : Bool :=
  y.holders.isEmpty && y.landed && !(p.pinned limit).contains y.addr && !keep.contains y.addr

/-- Remove the first `n` copies that satisfy a test. -/
def dropFirstN {α : Type} (q : α → Bool) : Nat → List α → List α
  | _, [] => []
  | 0, l => l
  | n + 1, a :: l => if q a then dropFirstN q n l else a :: dropFirstN q (n + 1) l

/-- The pool with every wanted tile reserved for a slot, all of them or none (R256). -/
def Pool.reserve (p : Pool) (limit : Nat) (slot : Option Nat) (want : List (Nat × Bool)) : Option Pool :=
  let addrs := (want.map (·.1)).eraseDups
  let new := addrs.filter fun a => !(p.tiles.any fun y => y.addr == a)
  let ev := (p.tiles.filter (p.evictable limit addrs)).length
  if limit + ev < p.tiles.length + new.length then none else
  let excess := p.tiles.length + new.length - limit
  let kept := dropFirstN (p.evictable limit addrs) excess p.tiles
  let isPin (a : Nat) : Bool := want.any fun w => w.2 && w.1 == a
  let hold (y : Staged) : Staged :=
    match slot with
    | none => y
    | some k => { y with
        holders := if y.holders.contains k then y.holders else y.holders ++ [k]
        pins := if isPin y.addr && !y.pins.contains k then y.pins ++ [k] else y.pins }
  let old := (kept.filter fun y => addrs.contains y.addr).map hold
  let rest := kept.filter fun y => !addrs.contains y.addr
  let used := kept.map (·.place)
  let free := (List.range (used.length + new.length)).filter fun k => !used.contains k
  let fresh := new.zipIdx.map fun q => hold ⟨q.1, free.getD q.2 0, [], [], false, false⟩
  some { p with tiles := rest ++ old ++ fresh }

/-- Global address of a T3 tile of a context. -/
def State.globalOf (s : State) (c a : Nat) : Option Nat :=
  match s.place c a with
  | some (.t3 i off) => (s.aperture c i).map fun p => p.1 + off
  | _ => none

/-- The reads that T3 tiles of a reservation ask for. -/
def State.requestT3 (s : State) (core c : Nat) (addrs : List Nat) : State :=
  addrs.foldl (fun s a =>
    match s.globalOf c a with
    | some g => s.askEngine c (.stage core a) g 4096
    | none => s) s

/-- Tiles of a pool that are not in it yet. -/
def Pool.missing (p : Pool) (addrs : List Nat) : List Nat :=
  addrs.filter fun a => !(p.tiles.any fun y => y.addr == a)

/-- The stall causes of a task that waits for tiles of T2 and T3: T2_BUSY or T3_LATE for one that has been requested, POISON for one on a
lost channel, CREDIT_EXHAUSTED while the pool has no room for the first waiting instruction of the core (R256, R261, R266). -/
def State.stageCauses (s : State) (core c : Nat) (want : List (Nat × Bool)) : Nat :=
  let p := s.pool core c
  let full : Bool :=
    match SMap.getD s.cores.stageQueue core [] with
    | [] => false
    | k :: _ =>
      match (s.task? core k).bind (·.wait) with
      | some (.tiles l) => (p.reserve (s.stageTiles c) (some k) l).isNone
      | _ => false
  want.foldl (fun m a =>
    m ||| match p.tiles.find? fun y => y.addr == a.1 / 4096 * 4096 with
      | none => if full then 4 else 0
      | some y =>
        if y.landed then 0 else
        match region a.1 with
        | .t2 o => if s.chanUp (s.t2Key (s.partOf c) o).1 then 1 else 32
        | .t3 .. => 2
        | .t0 .. => 0
        | .t1 .. => 0
        | .hole => 0) 0

/-- Stall causes that hold now for a slot's wait for staged tiles are noted (R262). -/
def State.noteStage (s : State) (core slot : Nat) : State :=
  match s.task? core slot with
  | some t =>
    match t.state, t.wait with
    | .waiting, some (.tiles want) => s.setTask core slot { t with causes := t.causes ||| s.stageCauses core t.ctx want }
    | _, _ => s
  | none => s

/-- The same for every slot of a core. -/
def State.noteCore (s : State) (core : Nat) : State := (List.range 16).foldl (fun s k => s.noteStage core k) s

/-- The first waiting instruction of a core reserves its slots (R256). -/
def State.reserveHead (s : State) (core : Nat) : State :=
  match SMap.getD s.cores.stageQueue core [] with
  | [] => s
  | slot :: _ =>
    match s.task? core slot with
    | none => s.leaveStage core slot
    | some t =>
      match t.state, t.wait with
      | .waiting, some (.tiles want) =>
        let p := s.pool core t.ctx
        match p.reserve (s.stageTiles t.ctx) (some slot) want with
        | none => s
        | some p' =>
          let s := s.requestT3 core t.ctx (p.missing ((want.map (·.1)).eraseDups))
          (s.setPool core t.ctx p').leaveStage core slot
      | _, _ => s.leaveStage core slot

/-- Staging of the next tile that an AHEAD descriptor named (R255). -/
def State.reserveAhead (s : State) (core c : Nat) : State :=
  let p := s.pool core c
  match p.ahead with
  | [] => s
  | a :: rest =>
    let s := s.setPool core c { p with ahead := rest }
    match ({ p with ahead := rest } : Pool).reserve (s.stageTiles c) none [(a, false)] with
    | none => s.setPool core c p
    | some p' => (s.requestT3 core c (p.missing [a])).setPool core c p'

/-! ## Landing (R255, R257, R266) -/

/-- A staged copy lands in its tile of the pool. -/
def State.landCopy (s : State) (core c a : Nat) (data : List Byte) (pz : List Nat) : State :=
  let p := s.pool core c
  match p.tiles.find? fun y => y.addr == a && !y.landed with
  | none => s
  | some y =>
    let b := s.stageAddr core c y.place
    (s.twrite c b data fun q => pz.contains (q - b / 64)).setPool core c { p with tiles := p.tiles.map fun y =>
      if y.addr == a && !y.landed then { y with landed := true } else y }

/-- The edge agent reads a T2 tile: errors are handled, then the tile is delivered with its poison (R266, R268). -/
def State.t2Deliver (s : State) (c o : Nat) (found : List EccAt) : State × List Byte × List Nat :=
  let p := s.partOf c
  let (m, key) := s.t2Key p (o / 4096 * 4096)
  let s := if !s.chanUp m then s else
    found.foldl (fun s f => s.eccFound 2 m (key - stackKey m 0 + 64 * f.sector.val) f.ue c false) s
  let (bs, pz) := s.t2Read p (o / 4096 * 4096) 4096
  let s := if s.chanUp m then s else { s with draws := s.draws + 1 }
  (s, bs, (List.range 64).filter fun q => pz (64 * q))

/-- What a read of global memory brings for `n` bytes: the bytes with their poisoned sectors, or the status that refuses it
(R255, R402). An answer of POISONED brings no data: the bytes are free and every sector poisoned. -/
def State.replyBytes (s : State) (n : Nat) : Reply → Except Nat (List Byte × List Nat)
  | .ok data => .ok ((data ++ List.replicate n 0#8).take n, [])
  | .poisoned data => .ok ((data ++ List.replicate n 0#8).take n, List.range (ceilDiv n 64))
  | .status 5 => .ok ((List.range n).map (Config.freeByte s.draws), List.range (ceilDiv n 64))
  | .status k => .error k

/-- The waits for a tile whose read is refused end: their stalls are counted (R255, R262). -/
def State.endStage (s : State) (core c a : Nat) : State :=
  (List.range 16).foldl (fun s k =>
    match s.task? core k with
    | some t =>
      match t.state, t.wait with
      | .waiting, some (.tiles want) =>
        if t.ctx == c && want.any (·.1 == a) then
          (s.endWait core k 0).modTask core k fun t => { t with state := .ready, wait := none }
        else s
      | _, _ => s
    | none => s) s

/-- The answer to the read of a T3 tile: it lands, or a refusal faults the context with cause 6 (R255). -/
def State.stageAnswer (s : State) (core c a : Nat) (reply : Reply) : State :=
  match s.replyBytes 4096 reply with
  | .ok (bs, pz) => ({ s with draws := s.draws + 1 }).landCopy core c a bs pz
  | .error _ => (s.endStage core c a).faultCtx c 6 (s.leafOn c core)

/-! ## Acknowledgement of T2 writes (R258) -/

/-- T2_WRITE_ACK: once no reservation of a copy of the tile is held, the edge agent drops every copy and acknowledges
(R258). -/
def State.t2Ack (s : State) (p tile : Nat) : State :=
  if !s.mem.acks.contains (p, tile) || (s.copiesOf p tile).any fun y => !y.2.holders.isEmpty then s else
  let pools := s.cores.pools.map fun (q : Nat × Pool) =>
    if s.partOf (q.1 % 64) == p then
      (q.1, { q.2 with tiles := q.2.tiles.filter fun y => y.addr != 0x20000000000 + 4096 * tile }) else q
  { s with
    cores.pools := pools.filter fun q => q.2 != ⟨[], []⟩
    mem.acks := s.mem.acks.filter fun a => a != (p, tile) }

/-! ## Tiles that engines move -/

/-- A whole tile of T0, T1 or T2 of a context, with its poisoned sectors. -/
def State.engineRead (s : State) (c a : Nat) : List Byte × List Nat :=
  match region a with
  | .t2 o =>
    let (bs, pz) := s.t2Read (s.partOf c) o 4096
    (bs, (List.range 64).filter fun q => pz (64 * q))
  | .t0 .. => (s.mem.bytes (s.key c a) 4096, (List.range 64).filter fun q => s.mem.poisoned (s.key c a / 64 + q))
  | .t1 .. => (s.mem.bytes (s.key c a) 4096, (List.range 64).filter fun q => s.mem.poisoned (s.key c a / 64 + q))
  | .t3 .. => ([], [])
  | .hole => ([], [])

/-- Write a whole tile of T0, T1 or T2; none where its channel is lost (R266). -/
def State.engineWrite (s : State) (c a : Nat) (bs : List Byte) (pz : List Nat) : Option State :=
  match region a with
  | .t2 o => s.t2Write (s.partOf c) o bs pz.contains
  | .t0 .. => some (s.twrite c a bs fun q => pz.contains (q - a / 64))
  | .t1 .. => some (s.twrite c a bs fun q => pz.contains (q - a / 64))
  | .t3 .. => some s
  | .hole => some s

/-! ## The migration engine's ring (R273 to R276) -/

def State.migSize (s : State) (c : Nat) : Nat :=
  let l := s.get (Fld.migRingCtrlSizeLog2 c)
  2 ^ (if l < 4 then 4 else if 12 < l then 12 else l)

/-- The ring lies in T1 of the context at a multiple of 1,024 (R273, R276). -/
def State.migRingOk (s : State) (c : Nat) : Bool :=
  let a := s.get64 (Reg.migRingBase c) % 2 ^ 44
  let n := 64 * s.migSize c
  a % 1024 == 0 && inT1 a && inT1 (a + n - 1) && s.mapped c a n

/-- A write of MIG_RING_CTRL. -/
def State.migRingCtrl (s : State) (req : Requester) (c v : Nat) : State :=
  let was := s.flag (Fld.migRingCtrlEn c)
  let s := s.put (Fld.migRingCtrlSizeLog2 c) (field v 0 5)
  if bitAt v 31 then
    if was then s
    else if !s.migRingOk c then s.misuse req
    else (s.put (Fld.migRingCtrlEn c) 1).put (Fld.migRingHeadHead c) (s.get (Fld.migRingTailTail c) % s.migSize c)
  else (s.migAbort c).put (Fld.migRingCtrlEn c) 0

/-- MIG_RING_ENABLE (R276). -/
def execMigRingEnable (req : Requester) (c : CtxId) (v : BitVec 32) (s : State) : Host.Outcome State Fault Refusal :=
  .next (s.write req (Reg.migRingCtrl c) v.toNat fun s => s.migRingCtrl req c (setBit v.toNat 31 true))

/-- TAIL of the ring is written by a register write or a doorbell (R276, R418). -/
def State.migTail (s : State) (c v : Nat) : State := s.put (Fld.migRingTailTail c) (v % 4096)

def execMigRingTailWrite (req : Requester) (c : CtxId) (v : BitVec 32) (s : State) : Host.Outcome State Fault Refusal :=
  .next (s.write req (Reg.migRingTail c) v.toNat fun s => s.migTail c v.toNat)

/-- A command (R273). -/
structure MigCmd where
  op : Nat
  tiles : Nat
  src : Nat
  dst : Nat
  /-- No reserved value and no reserved byte set. -/
  ok : Bool

def MigCmd.of (bs : List Byte) : MigCmd :=
  let op := leAt bs 0 1
  let tiles := leAt bs 4 4
  let src := leAt bs 8 8
  let dst := leAt bs 16 8
  let compl := leAt bs 24 8
  ⟨op, tiles, src, dst,
    1 ≤ op && op ≤ 3 && leAt bs 1 1 < 2 && zeroBytes bs 2 2 && 1 ≤ tiles && tiles < 2 ^ 24 &&
      src < 2 ^ 44 && src % 4096 == 0 && (op != 1 || (dst < 2 ^ 44 && dst % 4096 == 0)) &&
      compl < 2 ^ 44 && compl % 8 == 0 && zeroBytes bs 32 32⟩

/-- The command at HEAD, where the ring runs and holds one. -/
def State.migCmd (s : State) (c : Nat) : Option MigCmd :=
  let st := s.ctxState c
  if !s.flag (Fld.migRingCtrlEn c) || st == ctxIdle || st == ctxFaulted || (s.ctx c).tear.isSome then none
  else if s.get (Fld.migRingHeadHead c) == s.get (Fld.migRingTailTail c) % s.migSize c then none
  else some (.of (s.mem.bytes (s.key c (s.get64 (Reg.migRingBase c) % 2 ^ 44 + 64 * s.get (Fld.migRingHeadHead c))) 64))

/-- Every tile from `a` is mapped. -/
def State.tilesMapped (s : State) (c a n : Nat) : Bool := s.mapped c a (4096 * n)

/-- How the move of one tile ends. -/
inductive Moved where
  | on (s : State) (poisoned : Nat) (ack : Option (Nat × Nat))
  | stop (s : State) (status : Nat)
  /-- Poison would leave the module. -/
  | poison (s : State) (a : Nat)

/-- The stop of a tile of a context as a packet to or from stop `other` sees it; none outside the module's memories (R67,
R320). -/
def State.tileStop (s : State) (c a other : Nat) : Option Nat :=
  match region a with
  | .t0 u _ => ((s.ctx c).members[u]?).map (·.core)
  | .t1 u _ => ((s.ctx c).members[u]?).map (·.core)
  | .t2 o => some (edgeStop (chanEdge (s.t2Key (s.partOf c) o).1) other)
  | .t3 .. => none
  | .hole => none

/-- The address lies in a core's memory. -/
def onCore (a : Nat) : Bool :=
  match region a with
  | .t0 .. | .t1 .. => true
  | .t2 _ | .t3 .. | .hole => false

/-- A source stop takes a packet for a tile that lies at a stop (R62, R321). -/
def State.tileReach (s : State) (a src dst : Nat) : Bool := if onCore a then s.coreReach src dst else s.meshReach src dst

/-- The stops between which a tile moves, where its source stop refuses the packet (R321). -/
def State.moveRefused (s : State) (c src dst : Nat) : Option (Nat × Nat) :=
  match s.tileStop c src ((s.tileStop c dst 0).getD 0), s.tileStop c dst ((s.tileStop c src 0).getD 0) with
  | some a, some b =>
    if s.tileReach dst a b then none else some (a, b)
  | _, _ => none

/-- The state in which the move of a tile ends. -/
def Moved.state : Moved → State
  | .on s _ _ | .stop s _ | .poison s _ => s

/-- The tile that a COPY reads, with its poisoned sectors; `reply` is what a source outside the module answers. -/
def State.migRead (s : State) (c src : Nat) (reply : Reply) : State × Except Nat (List Byte × List Nat) :=
  match region src with
  | .t3 .. =>
    match s.globalOf c src with
    | some g => ((s.readGlobal c g 4096 reply).1, (s.readGlobal c g 4096 reply).1.replyBytes 4096 (s.readGlobal c g 4096 reply).2)
    | none => (s, .error vUnreach)
  | .t0 .. => (s, .ok (s.engineRead c src))
  | .t1 .. => (s, .ok (s.engineRead c src))
  | .t2 .. => (s, .ok (s.engineRead c src))
  | .hole => (s, .ok ([], []))

/-- Move one tile; `reply` is what its source or its destination outside the module answers (R274, R397). -/
def State.migMove (s : State) (c src dst : Nat) (reply : Reply) : Moved :=
  match s.migRead c src reply with
  | (s, .error _) => .stop s 4
  | (s, .ok (bs, pz)) =>
    let s := { s with draws := s.draws + 1 }
    match region dst with
    | .t3 .. =>
      if !pz.isEmpty then .poison s (src + 64 * pz.headD 0) else
      match s.globalOf c dst with
      | none => .stop s 4
      | some g =>
        match s.writeGlobal c g bs reply with
        | (s, .status (_ + 1)) => .stop s 4
        | (s, _) => .on s 0 none
    | .t0 .. => match s.engineWrite c dst bs pz with | some s => .on s pz.length none | none => .stop s 3
    | .t1 .. => match s.engineWrite c dst bs pz with | some s => .on s pz.length none | none => .stop s 3
    | .t2 o =>
      match s.engineWrite c dst bs pz with
      | some s => .on s pz.length (some (s.partOf c, o / 4096))
      | none => .stop s 3
    | .hole => .stop s 2

/-- Move up to `n` more tiles of the running command; it completes when all have moved and every T2 write is acknowledged. -/
def State.migGo (c : Nat) (cmd : MigCmd) : Nat → List Reply → MigRun → State → State
  | n, replies, r, s =>
    if r.done == cmd.tiles then
      if r.acks.any s.mem.acks.contains then { s with migs := SMap.put s.migs c r }
      else s.migEnd c 0 r.done r.poisoned
    else
      match n with
      | 0 => { s with migs := SMap.put s.migs c r }
      | n + 1 =>
        match s.moveRefused c (cmd.src + 4096 * r.done) (cmd.dst + 4096 * r.done) with
        | some (a, b) => (s.netUnreach a b 2).migEnd c 4 r.done r.poisoned
        | none =>
        match s.migMove c (cmd.src + 4096 * r.done) (cmd.dst + 4096 * r.done) (replies.headD (.ok [])) with
        | .stop s st => s.migEnd c st r.done r.poisoned
        | .poison s a =>
          let s := s.raiseCtx srcMig 0x0102 3 c 9 a
          s.faultCtx c 3 (match region a with
            | .t0 u _ => (((s.ctx c).members[u]?).elim 0 (·.leaf))
            | .t1 u _ => (((s.ctx c).members[u]?).elim 0 (·.leaf))
            | .t2 _ => 0
            | .t3 .. => 0
            | .hole => 0)
        | .on s p ack => State.migGo c cmd n (replies.drop 1)
            ⟨r.done + 1, r.poisoned + p, r.acks ++ ack.toList⟩ s

/-- A command that breaks R273 ends with BAD_CMD, and one whose tiles are not mapped with UNMAPPED; neither moves anything. -/
def State.migRefused (s : State) (c : Nat) (cmd : MigCmd) : Option Nat :=
  if !cmd.ok then some 1
  else if cmd.op == 1 && !(s.tilesMapped c cmd.src cmd.tiles && s.tilesMapped c cmd.dst cmd.tiles) then some 2
  else none

/-- MIG_COPY moves up to `n` tiles of the COPY at HEAD (R274). -/
def State.migCopy (s : State) (c n : Nat) (replies : List Reply) : State :=
  match s.migCmd c with
  | none => s
  | some cmd =>
    if cmd.op == 2 || cmd.op == 3 then s else
    match SMap.get? s.migs c with
    | some r => State.migGo c cmd n replies r s
    | none =>
      match s.migRefused c cmd with
      | some st => s.migEnd c st 0 0
      | none => State.migGo c cmd n replies ⟨0, 0, []⟩ (s.put (Fld.migRingStatusBusy c) 1)

/-- DROP drops staged copies of its range on every core (R273). -/
def State.migDropRange (s : State) (c a n : Nat) : State :=
  ((s.cores.pools.filter fun q => q.1 % 64 == c).map fun q => q.1 / 64).foldl
    (fun s core => s.dropCopies core c fun b => a ≤ b && b < a + 4096 * n) s

/-- MIG_DROP (R273). -/
def execMigDrop (c : CtxId) (s : State) : Host.Outcome State Fault Refusal :=
  .next (s.clocked (match s.migCmd c with
    | none => s
    | some cmd =>
      if cmd.op != 2 then s
      else if !cmd.ok then s.migEnd c 1 0 0
      else (s.migDropRange c cmd.src cmd.tiles).migEnd c 0 cmd.tiles 0))

/-- MIG_FENCE completes at once (R273); a command with a reserved OP ends with BAD_CMD. -/
def execMigFence (c : CtxId) (s : State) : Host.Outcome State Fault Refusal :=
  .next (s.clocked (match s.migCmd c with
    | none => s
    | some cmd =>
      if cmd.op == 1 || cmd.op == 2 then s
      else s.migEnd c (if cmd.ok then 0 else 1) 0 0))

/-! ## Clears (R276, R277) -/

/-- The counters of a context's memory registers. -/
def State.migClear (s : State) (c : Nat) : State :=
  (s.clear64 ([Reg.migFallback c, Reg.migStallTicks c] ++ (List.range 6).map fun i => stallReg c (i + 1))).put
    (Fld.migCauseLast c) 0

/-- MIG_CNT_CLEAR (R276). -/
def execMigCntClear (req : Requester) (c : CtxId) (s : State) : Host.Outcome State Fault Refusal :=
  .next (s.write req (Reg.migCntCtrl c) 1 fun s => s.migClear c)

def State.migErrClear (s : State) : State :=
  s.clearAll ([0, 1, 2, 4].map ceField ++ [0, 1, 2, 4].map ueField)

/-- MIG_ERR_CLEAR (R277). -/
def execMigErrClear (req : Requester) (s : State) : Host.Outcome State Fault Refusal :=
  .next (s.write req Reg.migErrClr 1 fun s => s.migErrClear)

end Sys2Proof.Machine
end

