-- ==== Sys2Proof/Machine/Manifest.lean ====
section
/-!
DEFINITION. Manifests of Louvre: layout, checks and signature (R278 to R285).
-/
namespace Sys2Proof.Machine
open Sys2Proof

/-! ## Header (R278) -/

def manTotal (m : List Byte) : Nat := leAt m 8 4
def manKey (m : List Byte) : Nat := leAt m 12 4
def manModel (m : List Byte) : Nat := leAt m 16 8
def manStep (m : List Byte) : Nat := leAt m 24 8
def manJob (m : List Byte) : Nat := leAt m 32 4
def manPayload (m : List Byte) : Nat := leAt m 40 8
def manChunks (m : List Byte) : Nat := leAt m 48 4
def manLayers (m : List Byte) : Nat := leAt m 52 4
def manTensors (m : List Byte) : Nat := leAt m 56 4
def manPages (m : List Byte) : Nat := leAt m 60 4
def manLayerOff (m : List Byte) : Nat := leAt m 64 4
def manTensorOff (m : List Byte) : Nat := leAt m 68 4
def manPageOff (m : List Byte) : Nat := leAt m 72 4

/-- Step 1 of R285: MAGIC, VERSION, HDR_BYTES, TOTAL_BYTES and the reserved bytes. -/
def manHeaderOk (m : List Byte) : Bool :=
  leAt m 0 4 == 0x464D564C && leAt m 4 2 == 1 && leAt m 6 2 == 128 &&
    256 ≤ manTotal m && manTotal m ≤ 8388608 && manTotal m % 8 == 0 && zeroBytes m 76 52

/-! ## Tables (R279, R280) -/

/-- A layer entry (R279). -/
structure LayerEnt where
  layer : Nat
  first : Nat
  count : Nat
  rsvd : Nat
  deriving DecidableEq, Repr

def manLayer (m : List Byte) (i : Nat) : LayerEnt :=
  let o := manLayerOff m + 16 * i
  ⟨leAt m o 4, leAt m (o + 4) 4, leAt m (o + 8) 4, leAt m (o + 12) 4⟩

def manLayerList (m : List Byte) : List LayerEnt := (List.range (manLayers m)).map (manLayer m)

/-- A tensor entry (R280). -/
structure TensorEnt where
  id : Nat
  layer : Nat
  fmt : Nat
  tflags : Nat
  rows : Nat
  cols : Nat
  off : Nat
  tileBytes : Nat
  sideBytes : Nat
  rsvd : Nat
  deriving DecidableEq, Repr

def manTensor (m : List Byte) (i : Nat) : TensorEnt :=
  let o := manTensorOff m + 48 * i
  ⟨leAt m o 4, leAt m (o + 4) 4, leAt m (o + 8) 1, leAt m (o + 9) 1, leAt m (o + 12) 4, leAt m (o + 16) 4,
    leAt m (o + 24) 8, leAt m (o + 32) 8, leAt m (o + 40) 8, leAt m (o + 10) 2 + leAt m (o + 20) 4⟩

def manTensorList (m : List Byte) : List TensorEnt := (List.range (manTensors m)).map (manTensor m)

/-- Bytes of a tensor in the payload, and SPAN_TILES (R280, R294). -/
def TensorEnt.span (t : TensorEnt) : Nat := t.tileBytes + t.sideBytes
def TensorEnt.spanTiles (t : TensorEnt) : Nat := ceilDiv t.span 4096

/-- Tiles of the extent's grid (R31). -/
def TensorEnt.tiles (t : TensorEnt) (f : Fmt) : Nat :=
  ceilDiv t.rows (tileShape f).1 * ceilDiv t.cols (tileShape f).2

/-- The side area's size, by format and TFLAGS (R247, R248, R280). -/
def TensorEnt.side (t : TensorEnt) (f : Fmt) : Nat :=
  if f == .cb4 then 34 * t.rows
  else if bitAt t.tflags 0 then t.tiles f * ((tileShape f).1 * (tileShape f).2 / 32)
  else 0

/-- A tensor entry by itself is valid (R280). -/
def TensorEnt.ok (t : TensorEnt) (payload : Nat) : Bool :=
  match Fmt.ofCode t.fmt with
  | none => false
  | some f =>
    t.rsvd == 0 && t.tflags < 4 && 1 ≤ t.rows && 1 ≤ t.cols && t.off % 4096 == 0 &&
      (bitAt t.tflags 1 == (f == .cb4)) && (!bitAt t.tflags 0 || f.mxElement) &&
      t.tileBytes == 4096 * t.tiles f && t.sideBytes == t.side f && t.off + t.span ≤ payload

/-- Ranges [off, off + len) that do not overlap. -/
def disjoint (a b : Nat × Nat) : Bool := a.1 + a.2 ≤ b.1 || b.1 + b.2 ≤ a.1

/-- No two of a list are related by a failing test. -/
def pairwise {α : Type} (q : α → α → Bool) : List α → Bool
  | [] => true
  | a :: l => l.all (q a) && pairwise q l

/-- Step 3 of R285: every other rule of R278 to R281. -/
def manTablesOk (m : List Byte) : Bool :=
  let tables := [(manLayerOff m, 16 * manLayers m), (manTensorOff m, 48 * manTensors m), (manPageOff m, 48 * manPages m)]
  let layers := manLayerList m
  let tensors := manTensorList m
  manJob m < 2 ^ 24 && leAt m 36 4 < 2 &&
    manChunks m == ceilDiv (manPayload m) (2 ^ 20) && 1 ≤ manChunks m && manChunks m < 2 ^ 24 &&
    1 ≤ manLayers m && manLayers m ≤ 65536 && 1 ≤ manTensors m && manTensors m ≤ 65536 &&
    manPages m == ceilDiv (manChunks m) 1024 &&
    tables.all (fun p => p.1 % 8 == 0 && p.1 + p.2 ≤ manTotal m - 96) && pairwise disjoint tables &&
    layers.all (fun l => l.rsvd == 0 && 1 ≤ l.count && l.first + l.count ≤ manTensors m) &&
    (layers.zip (layers.drop 1)).all (fun p => p.1.layer < p.2.layer) &&
    tensors.zipIdx.all (fun p =>
      match layers.filter fun l => l.first ≤ p.2 && p.2 < l.first + l.count with
      | [l] => l.layer == p.1.layer
      | _ => false) &&
    tensors.all (·.ok (manPayload m)) &&
    pairwise (fun a b => a.id != b.id && disjoint (a.off, a.span) (b.off, b.span)) tensors

/-- Tensors of a layer, in the table's order. -/
def layerTensors (m : List Byte) (layer : Nat) : List TensorEnt := (manTensorList m).filter (·.layer == layer)

/-- Tensors of layers, in the order of the list. -/
def listTensors (m : List Byte) (layers : List Nat) : List TensorEnt := layers.flatMap (layerTensors m)

/-! ## Chunks and pages (R281) -/

/-- Bytes of chunk `i`. -/
def chunkLen (m : List Byte) (i : Nat) : Nat := min (2 ^ 20) (manPayload m - i * 2 ^ 20)

/-- Bytes of hash page `p`. -/
def pageLen (m : List Byte) (p : Nat) : Nat := 48 * min 1024 (manChunks m - 1024 * p)

/-- Chunks that a tensor's span touches. -/
def TensorEnt.chunks (t : TensorEnt) : List Nat :=
  if t.span == 0 then [] else
  (List.range ((t.off + t.span - 1) / 2 ^ 20 - t.off / 2 ^ 20 + 1)).map (· + t.off / 2 ^ 20)

/-- The digest that the page-hash table holds for page `p`. -/
def pageDigest (m : List Byte) (p : Nat) : List Byte := (m.drop (manPageOff m + 48 * p)).take 48

/-- The leaf of chunk `i` in its verified page. -/
def chunkDigest (page : List Byte) (i : Nat) : List Byte := (page.drop (48 * (i % 1024))).take 48

/-! ## Keys and signature (R282 to R284) -/

/-- The key slot that accepts a KEY_ID for a context: the lowest ACTIVE one that carries it, where KEYMASK allows that one (R284). -/
def State.keySlot (s : State) (c id : Nat) : Option Nat :=
  ((List.range 16).find? fun k =>
    field (s.get Fld.lvrKeyStateState) (2 * k) 2 == 1 && s.get (Fld.lvrKeyIdKeyId k) == id).filter fun k =>
      bitAt (s.get (Fld.lvrKeymaskMask c)) k

/-- The signature of the manifest's first TOTAL_BYTES − 96 bytes verifies under the key in a slot (R282). -/
def State.sigOk (s : State) (slot : Nat) (m : List Byte) : Bool :=
  let key := SMap.getD s.keys slot []
  let n := manTotal m - 96
  ecdsaOk (ofBe (key.take 48)) (ofBe ((key.drop 48).take 48)) (ofBe ((m.drop n).take 48)) (ofBe ((m.drop (n + 48)).take 48))
    (sha384 (m.take n))

/-! ## Placement table (R294) -/

structure PlaceEnt where
  dest : Nat
  stride : Nat
  copies : Nat
  kind : Nat
  fmt : Nat
  rows : Nat
  cols : Nat
  deriving DecidableEq, Repr

/-- Address of the placement entry of a tensor. -/
def State.placeAddr (s : State) (c id : Nat) : Nat := s.get64 (Reg.lvrPlaceBase c) % 2 ^ 44 + 32 * id

/-- The placement entry of a tensor; one that is not mapped reads as unused. -/
def State.placeEnt (s : State) (c id : Nat) : PlaceEnt :=
  let a := s.placeAddr c id
  if !(inT1 a && inT1 (a + 31) && s.mapped c a 32) then ⟨0, 0, 0, 0, 0, 0, 0⟩ else
  let b := (pieces a 32).flatMap fun p => s.mem.bytes (s.key c p.1) p.2
  ⟨leAt b 0 8 % 2 ^ 44, leAt b 8 8 % 2 ^ 44, leAt b 16 2, leAt b 18 1, leAt b 19 1, leAt b 20 4, leAt b 24 4⟩

/-- Addresses of a tensor's copies. -/
def PlaceEnt.addrs (e : PlaceEnt) : List Nat := (List.range e.copies).map fun i => (e.dest + i * e.stride) % 2 ^ 44

/-- Bytes of T0, T1 and T2 as Louvre reads them. -/
def State.lvrRead (s : State) (c a n : Nat) : List Byte :=
  (pieces a n).flatMap fun p =>
    match region p.1 with
    | .t0 .. => s.mem.bytes (s.key c p.1) p.2
    | .t1 .. => s.mem.bytes (s.key c p.1) p.2
    | .t2 o => (s.t2Read (s.partOf c) o p.2).1
    | .t3 .. => List.replicate p.2 0#8
    | .hole => List.replicate p.2 0#8

/-- Poisoned sectors of `n` bytes from `a`, by tensor-space sector. -/
def State.lvrPoison (s : State) (c a n : Nat) : List Nat :=
  (sectorsOf a n).filter fun q =>
    let b := 64 * q
    match region b with
    | .t0 .. => s.mem.anyPoison (s.key c b) 1
    | .t1 .. => s.mem.anyPoison (s.key c b) 1
    | .t2 o => (s.t2Read (s.partOf c) o 1).2 0
    | .t3 .. => false
    | .hole => false

/-- Write mapped bytes of T0, T1 or T2; a T2 write drops every staged copy (R258). The answer says whether a write to a lost
channel was dropped (R266). `pz` marks poisoned sectors by tensor-space sector. -/
def State.lvrWrite (s : State) (c a : Nat) (bs : List Byte) (pz : Nat → Bool) : State × Bool :=
  (pieces a bs.length).foldl (fun r p =>
    let (s, lost) := r
    let b := (bs.drop (p.1 - a)).take p.2
    match region p.1 with
    | .t2 o =>
      let part := s.partOf c
      match s.t2Write part o b fun q => pz (p.1 / 64 + q) with
      | some s => (s.t2Ack part (o / 4096), lost)
      | none => (s, true)
    | .t0 .. => if s.mapped c p.1 p.2 then (s.twrite c p.1 b pz, lost) else (s, lost)
    | .t1 .. => if s.mapped c p.1 p.2 then (s.twrite c p.1 b pz, lost) else (s, lost)
    | .t3 .. => (s, lost)
    | .hole => (s, lost)) (s, false)

/-- An address range lies in T0, T1 or T2. -/
def placedTier (a n : Nat) : Bool :=
  let ok (b : Nat) : Bool := match region b with
    | .t0 .. => true | .t1 .. => true | .t2 _ => true | .t3 .. => false | .hole => false
  ok a && ok (a + n - 1)

end Sys2Proof.Machine
end

