-- ==== Sys2Proof/Machine/Louvre.lean ====
section
/-!
DEFINITION. Louvre's descriptor ring, LOAD, SWAP, WRITE_BACK and FENCE (R286 to R293, R295, R296, R303 to R311).
-/
namespace Sys2Proof.Machine
open Sys2Proof

/-! ## Descriptors (R288, R289) -/

structure LvrCmd where
  op : Nat
  flags : Nat
  count : Nat
  a0 : Nat
  a1 : Nat
  a2 : Nat
  arg : Nat
  list : Nat
  compl : Nat
  /-- No reserved value and no reserved byte set. -/
  ok : Bool
  deriving DecidableEq, Repr

def LvrCmd.of (b : List Byte) : LvrCmd :=
  let op := leAt b 0 1
  let flags := leAt b 1 1
  let count := leAt b 4 4
  let a0 := leAt b 8 8
  let a1 := leAt b 16 8
  let a2 := leAt b 24 8
  let arg := leAt b 32 8
  let list := leAt b 40 8
  let compl := leAt b 48 8
  let common := zeroBytes b 2 2 && zeroBytes b 56 8 && compl < 2 ^ 44 && compl % 8 == 0 && list < 2 ^ 44
  let own := match op with
    | 1 => flags < 2 && count ≤ 65536 && arg == 0 && (count == 0 || list != 0)
    | 2 => flags < 4 && 1 ≤ count && count ≤ 65536 && arg < 2 ^ 17 && list != 0
    | 3 => (flags == 0 || flags == 1 || flags == 4 || flags == 5) && 1 ≤ count && count < 2 ^ 24 && a0 < 2 ^ 44 && list == 0
    | 4 => flags < 2 && count == 0 && a0 == 0 && a1 == 0 && a2 == 0 && arg == 0 && list == 0
    | _ => false
  ⟨op, flags, count, a0, a1, a2, arg, list, compl, common && own⟩

/-- COMPL is 0, or eight mapped bytes of T0 or T1. -/
def State.complOk (s : State) (c a : Nat) : Bool := a == 0 || (upperTier a && s.mapped c a 8)

/-- An address of the descriptor is unmapped or in the wrong tier. -/
def State.lvrUnmapped (s : State) (c : Nat) (d : LvrCmd) : Bool :=
  !s.complOk c d.compl ||
    match d.op with
    | 3 => !(upperTier d.a0 && upperTier (d.a0 + 4096 * d.count - 1) && s.mapped c d.a0 (4096 * d.count))
    | 4 => false
    | _ => d.count != 0 && !(placedTier d.list (4 * d.count) && s.mapped c d.list (4 * d.count))

/-- The ring lies in T1 of the context at a multiple of 1,024 (R288, R310). -/
def State.lvrRingOk (s : State) (c : Nat) : Bool :=
  let a := s.get64 (Reg.lvrDescBase c) % 2 ^ 44
  let n := 64 * s.lvrSize c
  a % 1024 == 0 && inT1 a && inT1 (a + n - 1) && s.mapped c a n

/-- A write of LVR_DESC_CTRL (R310). -/
def State.lvrDescCtrl (s : State) (req : Requester) (c v : Nat) : State :=
  let was := s.flag (Fld.lvrDescCtrlEn c)
  let s := s.put (Fld.lvrDescCtrlSizeLog2 c) (field v 0 5)
  if bitAt v 31 then
    if was then s
    else if !s.lvrRingOk c then s.misuse req
    else
      let head := s.get (Fld.lvrDescTailTail c) % s.lvrSize c
      let s := (s.put (Fld.lvrDescCtrlEn c) 1).put (Fld.lvrDescHeadHead c) head
      s.setLvr c { s.lvr c with next := head, ended := [] }
  else (s.lvrAbort c).put (Fld.lvrDescCtrlEn c) 0

/-- LVR_DESC_ENABLE (R310). -/
def execLvrDescEnable (req : Requester) (c : CtxId) (v : BitVec 32) (s : State) : Host.Outcome State Fault Refusal :=
  .next (s.write req (Reg.lvrDescCtrl c) v.toNat fun s => s.lvrDescCtrl req c (setBit v.toNat 31 true))

/-- TAIL of the ring is written by a register write or a doorbell (R288, R418). -/
def State.lvrTail (s : State) (c v : Nat) : State := s.put (Fld.lvrDescTailTail c) (v % 4096)

def execLvrDescTailWrite (req : Requester) (c : CtxId) (v : BitVec 32) (s : State) : Host.Outcome State Fault Refusal :=
  .next (s.write req (Reg.lvrDescTail c) v.toNat fun s => s.lvrTail c v.toNat)

/-- A SWAP waits for its generation (R291). -/
def State.swapWaits (s : State) (c : Nat) : Bool :=
  match (s.lvr c).swap with
  | some w => w.phase == 2 || w.phase == 3
  | none => false

/-- Ring indices of the descriptors that have not been started, in ring order. -/
def State.lvrQueue (s : State) (c : Nat) : List Nat :=
  let l := s.lvr c
  let n := s.lvrSize c
  ((List.range ((s.get (Fld.lvrDescTailTail c) % n + n - l.next) % n)).map fun i => (l.next + i) % n).filter fun i => !l.ended.contains i

/-- The descriptor that Louvre starts next: its ring index and fields (R291). A waiting SWAP lets the WRITE_BACKs behind it start, and
nothing else. A teardown stops the ring (R293, R466). -/
def State.lvrNext (s : State) (c : Nat) : Option (Nat × LvrCmd) :=
  let st := s.ctxState c
  let l := s.lvr c
  if !s.flag (Fld.lvrDescCtrlEn c) || st == ctxIdle || st == ctxFaulted || (s.ctx c).tear.isSome || l.load.isSome || l.reading.isSome then
    none
  else
    let q := s.lvrQueue c
    (if l.swap.isNone then q.head?
      else if s.swapWaits c then q.find? fun i => (LvrCmd.of (s.lvrDesc c i)).op == 3 else none).map
      fun i => (i, LvrCmd.of (s.lvrDesc c i))

/-- A descriptor has been taken: the next to start is the first behind it that has not ended. -/
def State.lvrTake (s : State) (c ring : Nat) : State :=
  let l := s.lvr c
  if ring != l.next then s
  else s.setLvr c { l with next := (headPast (s.lvrSize c) 4096 ((l.next + 1) % s.lvrSize c) l.ended).1 }

/-- The context's state accepts the operation (R290); a WRITE_BACK behind a SWAP that holds the context runs (R291). -/
def State.lvrState (s : State) (c op : Nat) : Bool :=
  let st := s.ctxState c
  match op with
  | 1 => st == ctxLoading
  | 2 => st == ctxReady || st == ctxRunning
  | 3 => st == ctxRunning || (st == ctxHeld && s.swapWaits c)
  | _ => st == ctxLoading || st == ctxReady || st == ctxRunning

/-! ## Manifest checks (R285) -/

/-- Event SIG_FAIL and its counter (R309); `kind` 1 is NO_KEY. -/
def State.sigFail (s : State) (c ring key kind : Nat) : State :=
  (s.raiseCtx srcLouvre 0x0400 2 c (key + kind * 2 ^ 32) ring).bump Fld.lvrSigFailsCount

/-- The status that an unsuccessful answer gives a descriptor (R307, R397). -/
def replyStatus (k : Nat) : Nat := if k == 3 || k == 4 then 15 else 13

/-- Steps 1 to 3 of R285: the manifest's bytes, or the status; a manifest that arrives poisoned fails its signature. -/
def State.takeManifest (s : State) (c ring : Nat) (man : Reply) : State × Except Nat (List Byte) :=
  let check (data : List Byte) (clean : Bool) : State × Except Nat (List Byte) :=
    if !manHeaderOk data then (s, .error 8) else
    let m := (data ++ List.replicate (manTotal data) 0#8).take (manTotal data)
    match s.keySlot c (manKey m) with
    | none => (s.sigFail c ring (manKey m) 1, .error 6)
    | some k =>
      if !clean || !s.sigOk k m then (s.sigFail c ring (manKey m) 0, .error 7)
      else if !manTablesOk m then (s, .error 8)
      else (s, .ok m)
  match man with
  | .ok data => check data true
  | .poisoned data => check data false
  | .status 5 => (s.sigFail c ring 0 0, .error 7)
  | .status k => (s, .error (replyStatus k))

/-- The layers that a descriptor lists; a LOAD with COUNT 0 lists all. -/
def State.listed (s : State) (c : Nat) (d : LvrCmd) (m : List Byte) : List Nat :=
  if d.count == 0 then (manLayerList m).map (·.layer)
  else
    let b := s.lvrRead c d.list (4 * d.count)
    (List.range d.count).map fun i => leAt b (4 * i) 4

/-- Every listed layer is in the manifest. -/
def inManifest (m : List Byte) (layers : List Nat) : Bool :=
  layers.all fun l => (manLayerList m).any fun e => e.layer == l

/-- Every copy of a tensor lies in the context's mapped T0, T1 or T2 (R294, R296). -/
def State.copiesMapped (s : State) (c : Nat) (e : PlaceEnt) (t : TensorEnt) : Bool :=
  1 ≤ e.copies && e.copies ≤ 256 &&
    e.addrs.all fun a => a % 4096 == 0 && placedTier a t.span && s.mapped c a t.span

/-- The payload aperture's base is the payload's global address (R296). -/
def State.payloadAptAt (s : State) (c a : Nat) : Bool :=
  s.flag (Fld.lvrPayloadAptValid c) &&
    match s.aperture c (s.get (Fld.lvrPayloadAptApt c)) with
    | some (base, _) => base == a
    | none => false

/-- R296: the manifest fits the context. -/
def State.loadFits (s : State) (c : Nat) (d : LvrCmd) (m : List Byte) (layers : List Nat) : Bool :=
  manJob m == s.jobOf c && inManifest m layers &&
    (listTensors m layers).all (fun t =>
      let e := s.placeEnt c t.id
      if e.kind == 1 then s.copiesMapped c e t
      else if e.kind == 2 then s.payloadAptAt c d.a1
      else false) &&
    match (s.lvr c).kept with
    | some (model, step) => model == manModel m && step == manStep m
    | none => true

/-- Tensors of the list that are PLACED. -/
def State.placed (s : State) (c : Nat) (m : List Byte) (layers : List Nat) : List TensorEnt :=
  (listTensors m layers).filter fun t => (s.placeEnt c t.id).kind == 1

/-- A job over the chunks of tensors, and the pages that hold their leaves. -/
def lvrJob (ring : Nat) (desc m : List Byte) (layers : List Nat) (ts : List TensorEnt) : LvrJob :=
  let chunks := (ts.flatMap (·.chunks)).eraseDups
  ⟨ring, desc, m, layers, [], (chunks.map (· / 1024)).eraseDups, chunks, 0, [], [], 0⟩

/-- Key of a page or chunk. -/
def fetchKey (page : Bool) (i : Nat) : Nat := 2 * i + page.toNat

/-- Global address and length of a page or a chunk of a job (R281, R289). -/
def LvrJob.place (j : LvrJob) (page : Bool) (i : Nat) : Nat × Nat :=
  let d := LvrCmd.of j.desc
  if page then (d.a2 + 49152 * i, pageLen j.man i) else (d.a1 + i * 2 ^ 20, chunkLen j.man i)

/-- The read of a page or a chunk of a LOAD or SWAP is asked for (R285, R286). -/
def State.askJob (c : Nat) (r : State × LvrJob) (page : Bool) (i : Nat) : State × LvrJob :=
  let p := r.2.place page i
  let use : EngineRead := if (LvrCmd.of r.2.desc).op == 2 then .swap page i else .load page i
  (r.1.askEngine c use p.1 p.2, { r.2 with asked := SMap.put r.2.asked (fetchKey page i) r.1.tick })

/-- A job starts with the reads of its hash pages; a chunk is read once its page has verified (R285). -/
def State.askPages (s : State) (c : Nat) (j : LvrJob) : State × LvrJob :=
  j.wantPages.foldl (fun r i => State.askJob c r true i) (s, j)

def State.askChunks (s : State) (c : Nat) (j : LvrJob) (page : Nat) : State × LvrJob :=
  (j.wantChunks.filter fun i => i / 1024 == page).foldl (fun r i => State.askJob c r false i) (s, j)

/-- Ticks after which a read without a reply times out (R293), and a held SWAP without a command (R306). -/
def secondsOf (n : Nat) : Nat := (max 1 n) * 250000000

/-- A write of T2 within some ranges of a context's tensor space has not been acknowledged (R258). -/
def State.ackWait (s : State) (c : Nat) (ranges : List (Nat × Nat)) : Bool :=
  s.mem.acks.any fun a => a.1 == s.partOf c &&
    ranges.any fun r => r.1 < 0x20000000000 + 4096 * (a.2 + 1) && 0x20000000000 + 4096 * a.2 < r.1 + r.2

/-- Ranges of the copies of tensors. -/
def State.copyRanges (s : State) (c : Nat) (ts : List TensorEnt) : List (Nat × Nat) :=
  ts.flatMap fun t => (s.placeEnt c t.id).addrs.map fun a => (a, t.span)

/-! ## LOAD (R295, R296) -/

/-- Write the record fields of a tensor's placement entry (R294). -/
def State.writePlace (s : State) (c : Nat) (t : TensorEnt) : State :=
  let a := s.placeAddr c t.id
  let s := (s.lvrWrite c (a + 19) (leBytes 1 t.fmt ++ leBytes 4 t.rows) fun _ => false).1
  (s.lvrWrite c (a + 24) (leBytes 4 t.cols ++ leBytes 4 t.spanTiles) fun _ => false).1

/-- A LOAD completes with OK. -/
def State.loadDone (s : State) (c : Nat) (j : LvrJob) : State :=
  let d := LvrCmd.of j.desc
  let s := (listTensors j.man j.layers).foldl (fun s t => s.writePlace c t) s
  let s := (s.lvrWrite c (s.get64 (Reg.lvrManBase c) % 2 ^ 44) j.man fun _ => false).1
  let s := s.put64 (Reg.lvrStep c) (manStep j.man)
  let s := s.setLvr c { s.lvr c with
    load := none, kept := some (manModel j.man, manStep j.man), pageBase := d.a2, payload := d.a1, pages := j.pages
    fails := [] }
  s.lvrEnd c j.ring 0 j.got 0

/-- The running LOAD goes on with a job that has one chunk or page more; it completes when every write has been acknowledged (R258). -/
def State.loadGo (s : State) (c : Nat) (j : LvrJob) : State :=
  if j.wantChunks.isEmpty && !s.ackWait c (s.copyRanges c (s.placed c j.man j.layers)) then s.loadDone c j
  else s.setLvr c { s.lvr c with load := some j }

/-- The running LOAD ends with a status. -/
def State.loadEnd (s : State) (c : Nat) (j : LvrJob) (status : Nat) : State :=
  ((s.dropReads c EngineRead.ofLoad).setLvr c { s.lvr c with load := none }).lvrEnd c j.ring status j.got 0

/-- Write the part of a chunk that belongs to a tensor at each address of a list. -/
def State.placeChunk (s : State) (c i : Nat) (data : List Byte) (t : TensorEnt) (addrs : List Nat) : State × Bool :=
  let lo := max t.off (i * 2 ^ 20)
  let hi := min (t.off + t.span) ((i + 1) * 2 ^ 20)
  if hi ≤ lo then (s, false) else
  let b := (data.drop (lo - i * 2 ^ 20)).take (hi - lo)
  addrs.foldl (fun r a =>
    let w := r.1.lvrWrite c (a + (lo - t.off)) b fun _ => false
    (w.1, r.2 || w.2)) (s, false)

/-- The stops of the first packet that a source stop refuses, when a payload at a global address is placed at addresses of a context: the
whole multicast is refused then (R321, R325). Louvre's data comes in at the edge agent of a port; which of the ports that lead to the
payload's node, and that a copy is where its first byte is, is the model's choice (DESIGN CHOICE, log entry 47). -/
def State.placeRefused (s : State) (c payload : Nat) (addrs : List Nat) : Option (Nat × Nat) :=
  (s.pathPorts (payload / 2 ^ 44)).head?.bind fun p =>
    addrs.findSome? fun a =>
      (s.tileStop c a 0).bind fun d0 =>
        let src := edgeStop (portSite p) d0
        let dst := (s.tileStop c a src).getD d0
        if s.tileReach a src dst && (!onCore a || s.partAt dst == some (s.partOf c)) then none else some (src, dst)

/-- A chunk holds bytes of a tensor. -/
def TensorEnt.inChunk (t : TensorEnt) (i : Nat) : Bool := max t.off (i * 2 ^ 20) < min (t.off + t.span) ((i + 1) * 2 ^ 20)

/-- A verified chunk of a LOAD goes to every copy of every PLACED tensor that it holds bytes of; where a copy cannot be reached, nothing is
sent, and the descriptor ends with ABORTED (R295, R321, R325). -/
def State.loadChunk (s : State) (c i : Nat) (data : List Byte) (j : LvrJob) : State :=
  match ((s.placed c j.man j.layers).filter (·.inChunk i)).findSome? fun t =>
      s.placeRefused c (LvrCmd.of j.desc).a1 (s.placeEnt c t.id).addrs with
  | some (src, dst) => (s.netUnreach src dst 2).loadEnd c j 4
  | none =>
  let r := (s.placed c j.man j.layers).foldl (fun r t =>
    let w := r.1.placeChunk c i data t (r.1.placeEnt c t.id).addrs
    (w.1, r.2 || w.2)) (s, false)
  let s := r.1.wrap64 (Reg.lvrBytesIn c) (chunkLen j.man i)
  let j := { j with wantChunks := j.wantChunks.filter (· != i), got := j.got + 1 }
  if r.2 then s.loadEnd c j 3 else s.loadGo c j

/-- A descriptor's first checks: BAD_CMD, then UNMAPPED (R289). -/
def State.lvrRefused (s : State) (c : Nat) (d : LvrCmd) : Option Nat :=
  if !d.ok then some 1 else if s.lvrUnmapped c d then some 2 else none

/-- A LOAD or SWAP starts: its first checks, then the read of the manifest's header (R285, R289, R305); `phase` is LVR_STATUS.PHASE. -/
def State.lvrStart (s : State) (c ring : Nat) (d : LvrCmd) (phase : Nat) : State :=
  let s := s.lvrTake c ring
  match s.lvrRefused c d with
  | some st => s.lvrEnd c ring st 0 0
  | none =>
    let s := (s.askEngine c (.manifest ring) d.a0 128).setLvr c { s.lvr c with reading := some (ring, s.tick) }
    (s.put (Fld.lvrStatusBusy c) 1).put (Fld.lvrStatusPhase c) phase

/-- The bytes of a reply that begin with a sound header are followed by a read of the rest of the manifest (R285). -/
def State.readRest (s : State) (c : Nat) (d : LvrCmd) (r : Reply) : State :=
  let rest (data : List Byte) : State :=
    if manHeaderOk data then s.emit (.fetch (s.jobOf c) (d.a0 + 128) (manTotal data - 128)) else s
  match r with
  | .ok data => rest data
  | .poisoned data => rest data
  | .status _ => s

/-- The manifest of a LOAD arrives: its checks, then the reads of its pages (R285, R296). -/
def State.loadManifest (s : State) (c ring : Nat) (d : LvrCmd) (man : Reply) : State :=
  let desc := s.lvrDesc c ring
  let s := (s.readRest c d man).setLvr c { s.lvr c with reading := none }
  match s.takeManifest c ring man with
  | (s, .error st) => s.lvrEnd c ring st 0 0
  | (s, .ok m) =>
    let layers := s.listed c d m
    if !s.lvrState c 1 then s.lvrEnd c ring 5 0 0
    else if layers.eraseDups.length != layers.length then s.lvrEnd c ring 1 0 0
    else if !s.loadFits c d m layers then s.lvrEnd c ring 9 0 0
    else
      let r := s.askPages c (lvrJob ring desc m layers (s.placed c m layers))
      r.1.loadGo c r.2

/-- A LOAD at the front of the ring starts. -/
def State.loadStart (s : State) (c : Nat) : State :=
  match s.lvrNext c with
  | none => s
  | some (ring, d) => if d.op != 1 then s else s.lvrStart c ring d 0

/-! ## SWAP: checks and phase 1 (R303, R305) -/

/-- The manifest kept by the last LOAD, as T1 holds it (R296). -/
def State.keptMan (s : State) (c : Nat) : List Byte :=
  let a := s.get64 (Reg.lvrManBase c) % 2 ^ 44
  s.lvrRead c a (min 8388608 (manTotal (s.lvrRead c a 128)))

/-- SPAN_TILES of the listed layers. -/
def swapTiles (m : List Byte) (layers : List Nat) : Nat := (listTensors m layers).foldl (fun n t => n + t.spanTiles) 0

/-- The layers' tensors equal those recorded at LOAD: the TENSOR_ID set of each layer, KIND PLACED, FORMAT, ROWS, COLS and
TFLAGS (R303). -/
def State.swapSame (s : State) (c : Nat) (m : List Byte) (layers : List Nat) : Bool :=
  let old := s.keptMan c
  layers.all fun l =>
    let a := layerTensors m l
    let b := layerTensors old l
    a.length == b.length && a.all fun t =>
      let e := s.placeEnt c t.id
      e.kind == 1 && e.fmt == t.fmt && e.rows == t.rows && e.cols == t.cols &&
        b.any fun u => u.id == t.id && u.tflags == t.tflags

/-- R303 in the order of its table: the status of the first check that fails. -/
def State.swapRefused (s : State) (c : Nat) (d : LvrCmd) (m : List Byte) (layers : List Nat) : Option Nat :=
  let gen := (s.ctx c).gen
  let ahead := (field d.arg 0 16 + 2 ^ 16 - gen % 2 ^ 16) % 2 ^ 16
  match (s.lvr c).kept with
  | none => some 9
  | some (model, _) =>
    if model != manModel m || manJob m != s.jobOf c then some 9
    else if manStep m ≤ s.get64 (Reg.lvrStep c) then some 10
    else if !inManifest m layers || !s.swapSame c m layers then some 9
    else if s.get (Fld.lvrSwapTilesTiles c) < swapTiles m layers then some 9
    else if !bitAt d.arg 16 && (ahead == 0 || 32768 < ahead) then some 11
    else none

/-- The swap buffer lies in mapped T1 or T2. -/
def State.swapBufOk (s : State) (c n : Nat) : Bool :=
  let a := s.get64 (Reg.lvrSwapBase c) % 2 ^ 44
  a % 4096 == 0 && !inT0 a && placedTier a n && s.mapped c a n

/-- The manifest of a SWAP arrives: its checks, then the reads of its pages (R285, R303, R305). -/
def State.swapManifest (s : State) (c ring : Nat) (d : LvrCmd) (man : Reply) : State :=
  let desc := s.lvrDesc c ring
  let s := (s.readRest c d man).setLvr c { s.lvr c with reading := none }
  match s.takeManifest c ring man with
  | (s, .error st) => s.lvrEnd c ring st 0 0
  | (s, .ok m) =>
    let layers := s.listed c d m
    if !s.lvrState c 2 then s.lvrEnd c ring 5 0 0
    else if layers.eraseDups.length != layers.length then s.lvrEnd c ring 1 0 0
    else match s.swapRefused c d m layers with
    | some st => s.lvrEnd c ring st 0 0
    | none =>
      if !s.swapBufOk c (4096 * swapTiles m layers) then s.lvrEnd c ring 2 0 0 else
      let s := (s.lvrWrite c (s.get64 (Reg.lvrManBase c) % 2 ^ 44 + 8388608) m fun _ => false).1
      let r := s.askPages c (lvrJob ring desc m layers (listTensors m layers))
      let gen := if bitAt d.arg 16 then none else some (field d.arg 0 16)
      r.1.setLvr c { r.1.lvr c with swap := some ⟨r.2, 1, gen, none, none, false, 0⟩ }

/-- A SWAP at the front of the ring starts. -/
def State.swapStart (s : State) (c : Nat) : State :=
  match s.lvrNext c with
  | none => s
  | some (ring, d) => if d.op != 2 then s else s.lvrStart c ring d 1

/-- The answer to the read of a manifest: that of the descriptor which reads it. -/
def State.manifestAnswer (s : State) (c ring : Nat) (man : Reply) : State :=
  let d := LvrCmd.of (s.lvrDesc c ring)
  if !((s.lvr c).reading.any fun r => r.1 == ring) then s
  else if d.op == 1 then s.loadManifest c ring d man
  else if d.op == 2 then s.swapManifest c ring d man
  else s

/-- The SWAP of a context changes. -/
def State.setSwap (s : State) (c : Nat) (w : Swap) : State :=
  (s.setLvr c { s.lvr c with swap := some w }).put (Fld.lvrStatusPhase c) w.phase

/-- Every live task of the context waits at its threshold, drained unless the context is privileged (R304). -/
def State.allHeld (s : State) (c : Nat) : Bool :=
  s.allWait c (fun _ => true) .threshold &&
    ((s.ctx c).priv || ((s.ctx c).tasks.filter s.liveDecl).all fun d => s.drained d.core d.slot c)

/-- Ranges that a SWAP writes: the copies of its tensors and the swap buffer. -/
def State.swapRanges (s : State) (c : Nat) (w : Swap) : List (Nat × Nat) :=
  (s.get64 (Reg.lvrSwapBase c) % 2 ^ 44, 4096 * swapTiles w.job.man w.job.layers) ::
    s.copyRanges c (listTensors w.job.man w.job.layers)

/-- Step 7 of R305: the context runs again and its waiting tasks resume at one tick; the completion word is written. A task
that is pre-empted or stopped makes the release wait (R306), and so does a write that is not acknowledged (R258). -/
def State.swapRelease (s : State) (c : Nat) (w : Swap) (status : Nat) : State :=
  if !s.allWait c (fun _ => true) .threshold || s.ackWait c (s.swapRanges c w) then s.setSwap c { w with fin := some status } else
  let s := if status == 0 || status == 3 && w.phase ≥ 4 then s.put64 (Reg.lvrStep c) (manStep w.job.man) else s
  let s := s.setLvr c { s.lvr c with swap := none }
  let s := if (s.ctx c).forced.isSome then s.setCtx c { s.ctx c with forced := some ctxRunning }
    else s.put (Fld.ctxStatusState c) ctxRunning
  let s := s.releaseAll c (fun _ => true) .threshold ((s.ctx c).gen + 1) State.passThreshold
  s.lvrEnd c w.job.ring status w.job.got w.job.poisoned

/-- HASH_FAIL or TIMEOUT of a SWAP: it ends in phase 1 or 2, and in phase 3 the context is released first (R306). -/
def State.swapFail (s : State) (c : Nat) (w : Swap) (status : Nat) : State :=
  if w.phase == 3 then (s.dropReads c EngineRead.ofSwap).swapRelease c w status
  else ((s.dropReads c EngineRead.ofSwap).setLvr c { s.lvr c with swap := none }).lvrEnd c w.job.ring status w.job.got w.job.poisoned

/-! ## Fetch endpoints while a context is held (R304, R305) -/

/-- A segment of an endpoint's list (R297). -/
structure Seg where
  addr : Nat
  count : Nat
  layer : Nat
  last : Bool
  /-- Reserved bits. -/
  rsvd : Nat
  deriving DecidableEq, Repr

/-- The source-table entry of an endpoint (R297). -/
structure SrcEnt where
  list : Nat
  count : Nat
  fwdEp : Nat
  flags : Nat
  rsvd : Nat
  deriving DecidableEq, Repr

/-- Module unit number of a core of a context (R241). -/
def State.unitOn (s : State) (c core : Nat) : Nat := ((s.ctx c).members.findIdx? (·.core == core)).getD 0

def State.srcAddr (s : State) (k : Nat) : Nat :=
  let c := s.get (Fld.strCfgContext k)
  s.get64 (Reg.lvrSrcBase c) % 2 ^ 44 + 16 * (256 * s.unitOn c (k / 256) + k % 256)

/-- The entry lies in mapped T1. -/
def State.srcMapped (s : State) (k : Nat) : Bool :=
  let c := s.get (Fld.strCfgContext k)
  let a := s.srcAddr k
  s.get64 (Reg.lvrSrcBase c) != 0 && inT1 a && inT1 (a + 15) && s.mapped c a 16

def State.srcEnt (s : State) (k : Nat) : SrcEnt :=
  let c := s.get (Fld.strCfgContext k)
  if !s.srcMapped k then ⟨0, 0, 0, 0, 0⟩ else
  let b := s.lvrRead c (s.srcAddr k) 16
  ⟨leAt b 0 8, leAt b 8 2, leAt b 10 1, leAt b 11 1, leAt b 12 4⟩

/-- The segments of an endpoint's list. -/
def State.segs (s : State) (k : Nat) : List Seg :=
  let c := s.get (Fld.strCfgContext k)
  let e := s.srcEnt k
  (List.range e.count).map fun i =>
    let b := s.lvrRead c (e.list % 2 ^ 44 + 16 * i) 16
    ⟨leAt b 0 8, leAt b 8 4, leAt b 12 2, bitAt (leAt b 14 1) 0, leAt b 14 1 / 2 + leAt b 15 1⟩

/-- The segment that holds tile `n` of a list, and the tile's index in it. -/
def segOf : List Seg → Nat → Option (Seg × Nat)
  | [], _ => none
  | g :: l, n => if n < g.count then some (g, n) else segOf l (n - g.count)

/-- LAYER_END marks passed before tile `n` of a list. -/
def endsBefore : List Seg → Nat → Nat
  | [], _ => 0
  | g :: l, n => if n < g.count then 0 else (if g.last then 1 else 0) + endsBefore l (n - g.count)

def segTiles (l : List Seg) : Nat := l.foldl (fun n g => n + g.count) 0

/-- Tile `n` since set-up of an endpoint's source: its segment, its index, and the LAYER_END marks before it (R297). -/
def State.srcTile (s : State) (k n : Nat) : Option (Seg × Nat × Nat) :=
  let l := s.segs k
  let total := segTiles l
  if total == 0 then none else
  let loop := bitAt (s.srcEnt k).flags 1
  if !loop && total ≤ n then none else
  (segOf l (n % total)).map fun p => (p.1, p.2, n / total * (l.filter (·.last)).length + endsBefore l (n % total))

/-- The first FILLED tile, in whole groups, whose segment belongs to a swapped layer. -/
def State.firstSwapped (s : State) (k : Nat) (layers : List Nat) : Option Nat :=
  let e := s.epD k
  let first := e.carried - (e.part + e.filled)
  let g := s.epGrain k
  ((List.range (e.fetched - first)).find? fun i =>
    match s.srcTile k (first + i) with
    | some (seg, _, _) => layers.contains seg.layer
    | none => false).map fun i => first + i / g * g

/-- A list without the elements that satisfy a test, except the first `n` of them. -/
def keepFirst {α : Type} (q : α → Bool) : Nat → List α → List α
  | _, [] => []
  | 0, l => l.filter fun a => !q a
  | n + 1, a :: l => if q a then a :: keepFirst q n l else a :: keepFirst q (n + 1) l

/-- Withdraw the tiles of an endpoint from tile `n` on: its FREE rises and its engine's cursor returns to tile `n` (R305). -/
def State.withdraw (s : State) (k n : Nat) : State :=
  let b := s.epRing k
  let landed := (s.epD k).carried
  let ours (g : Group) : Bool := g.src.isNone && g.dst == Dest.ring k
  let s := { s with cores.groups := keepFirst ours (n - landed) s.cores.groups }
  if landed ≤ n then s.modEp k fun e => { e with fetched := n }
  else
    s.modEp k fun e => { e with
      filled := e.filled - (e.carried - e.part - n)
      part := 0
      tail := (e.tail + b - (e.carried - n) % b) % b
      carried := n
      fetched := n }

/-- Inbound endpoints of a context that Louvre fetches for. -/
def State.fetchEndpoints (s : State) (c : Nat) : List Nat :=
  (s.cores.eps.map (·.1)).filter fun k =>
    s.get (Fld.strCfgContext k) == c && !s.flag (Fld.strCfgDir k) && s.get (Fld.strCfgKind k) != 0

/-- Step 4 of R305 and the start of step 5. -/
def State.startExchange (s : State) (c : Nat) (w : Swap) : State :=
  let s := (s.fetchEndpoints c).foldl (fun s k =>
    match s.firstSwapped k w.job.layers with
    | some n => s.withdraw k n
    | none => s) s
  s.setSwap c { w with phase := 4 }

/-- The pages and chunks of a SWAP have all verified (steps 1 and 3 of R305). -/
def State.swapVerified (s : State) (c : Nat) (w : Swap) : State :=
  if w.phase == 3 then s.startExchange c w
  else
    let w := { w with
      phase := 2
      gen := match w.gen with | some g => some g | none => some (((s.ctx c).gen + 1) % 2 ^ 16) }
    s.setSwap c w

/-- SWAP_HOLD: the context completes the hold generation and enters HELD (R304). -/
def State.swapHold (s : State) (c : Nat) : State :=
  match (s.lvr c).swap with
  | none => s
  | some w =>
    let forced := s.ctxState c == ctxHeld && (s.ctx c).forced == some ctxRunning
    if (s.ctxState c == ctxRunning || forced) && s.holdsAt c ((s.ctx c).gen + 1) && s.allHeld c then
      let s := s.setCtx c { s.ctx c with releases := (s.ctx c).releases.filter fun r => r.wait != .threshold }
      let s := if forced then s.setCtx c { s.ctx c with forced := some ctxHeld } else s.put (Fld.ctxStatusState c) ctxHeld
      if w.job.wantChunks.isEmpty then s.startExchange c { w with phase := 3 } else s.setSwap c { w with phase := 3 }
    else s

def execSwapHold (c : CtxId) (s : State) : Host.Outcome State Fault Refusal := .next (s.clocked (s.swapHold c))

/-! ## The exchange (R305, R306) -/

/-- One swapped tensor with its place in the swap buffer. -/
def swapPlan (m : List Byte) (layers : List Nat) (base : Nat) : List (TensorEnt × Nat) :=
  ((listTensors m layers).foldl (fun (r : List (TensorEnt × Nat) × Nat) t =>
    (r.1 ++ [(t, r.2)], r.2 + 4096 * t.spanTiles)) ([], base)).1

/-- A verified chunk of a SWAP goes to the swap buffer, or, where that cannot be reached, the SWAP ends with ABORTED (R305, R321). -/
def State.swapChunk (s : State) (c i : Nat) (data : List Byte) (w : Swap) : State :=
  let plan := swapPlan w.job.man w.job.layers (s.get64 (Reg.lvrSwapBase c) % 2 ^ 44)
  match s.placeRefused c (LvrCmd.of w.job.desc).a1 ((plan.filter (·.1.inChunk i)).map (·.2)) with
  | some (src, dst) => (s.netUnreach src dst 2).swapFail c w 4
  | none =>
  let r := plan.foldl (fun r p =>
    let q := r.1.placeChunk c i data p.1 [p.2]
    (q.1, r.2 || q.2)) (s, false)
  let s := r.1.wrap64 (Reg.lvrBytesIn c) (chunkLen w.job.man i)
  let w := { w with job := { w.job with wantChunks := w.job.wantChunks.filter (· != i), got := w.job.got + 1 } }
  if r.2 then s.swapFail c w 3
  else if w.job.wantChunks.isEmpty then s.swapVerified c w
  else s.setSwap c w

/-- Exchange `n` bytes between the buffer and every copy: the buffer's go to all copies, and those of the first copy to the
buffer, each with its poison. The answer adds the poisoned sectors found, and whether a write was dropped. -/
def State.exchange (s : State) (c buf n : Nat) (addrs : List Nat) : State × Nat × Bool :=
  let first := addrs.headD buf
  let new := s.lvrRead c buf n
  let old := s.lvrRead c first n
  let newPz := s.lvrPoison c buf n
  let oldPz := s.lvrPoison c first n
  let s := { s with draws := s.draws + 1 }
  let r := addrs.foldl (fun r a =>
    let q := r.1.lvrWrite c a new fun q => newPz.contains (q - a / 64 + buf / 64)
    (q.1, r.2 || q.2)) (s, false)
  let q := r.1.lvrWrite c buf old fun q => oldPz.contains (q - buf / 64 + first / 64)
  (q.1, newPz.length + oldPz.length, r.2 || q.2)

/-- Step 5 of R305, for every tensor. -/
def State.exchangeAll (s : State) (c : Nat) (w : Swap) : State × Swap :=
  let plan := swapPlan w.job.man w.job.layers (s.get64 (Reg.lvrSwapBase c) % 2 ^ 44)
  plan.foldl (fun r p =>
    let (s, pz, lost) := r.1.exchange c p.2 p.1.span (r.1.placeEnt c p.1.id).addrs
    (s, { r.2 with job := { r.2.job with poisoned := r.2.job.poisoned + pz }, lost := r.2.lost || lost })) (s, w)

/-- SWAP_EXCHANGE_DONE: the exchange of phase 4 is complete, or a release that waited for a task goes on (R305, R306). -/
def State.swapDone (s : State) (c : Nat) : State :=
  match (s.lvr c).swap with
  | none => s
  | some w =>
    match w.fin with
    | some st => s.swapRelease c w st
    | none =>
      if w.phase != 4 then s else
      let (s, w) := s.exchangeAll c w
      match w.back with
      | some st => s.swapRelease c w st
      | none =>
        if bitAt (LvrCmd.of w.job.desc).flags 1 then s.setSwap c { w with phase := 5, since := s.tick }
        else s.swapRelease c w (if w.lost then 3 else 0)

def execSwapExchangeDone (c : CtxId) (s : State) : Host.Outcome State Fault Refusal := .next (s.clocked (s.swapDone c))

/-- Writes of LVR_SWAP_CMD: 1 COMMIT, 2 ROLLBACK, 0 nothing, 3 reserved (R306, R310). -/
def State.swapCmd (s : State) (req : Requester) (c cmd : Nat) : State :=
  match cmd with
  | 0 => s
  | 3 => s.misuse req
  | _ =>
    match (s.lvr c).swap with
    | none => s.misusePart (s.partOf c)
    | some w =>
      if w.phase != 5 || w.fin.isSome then s.misusePart (s.partOf c)
      else if cmd == 1 then s.swapRelease c w (if w.lost then 3 else 0)
      else s.setSwap c { w with phase := 4, back := some 14 }

/-- SWAP_COMMIT (R305). -/
def execSwapCommit (req : Requester) (c : CtxId) (s : State) : Host.Outcome State Fault Refusal := 
  .next (s.write req (Reg.lvrSwapCmd c) 1 fun s => s.swapCmd req c 1)

/-- SWAP_ROLLBACK (R305). -/
def execSwapRollback (req : Requester) (c : CtxId) (s : State) : Host.Outcome State Fault Refusal := 
  .next (s.write req (Reg.lvrSwapCmd c) 2 fun s => s.swapCmd req c 2)

/-- SWAP_TIMEOUT: no command within HOLD_S seconds (R306). -/
def execSwapTimeout (c : CtxId) (s : State) : Host.Outcome State Fault Refusal :=
  .next (s.clocked (match (s.lvr c).swap with
    | none => s
    | some w =>
      if w.phase != 5 || w.fin.isSome || s.tick < w.since + secondsOf (s.get (Fld.lvrTimeoutHoldS c)) then s
      else (s.raiseCtx srcLouvre 0x0404 2 c (manStep w.job.man) w.job.ring).setSwap c { w with phase := 4, back := some 15 }))

/-! ## Pages and chunks that arrive (R286) -/

/-- The bytes of an answer, where it brings clean ones. -/
def cleanBytes : Reply → Option (List Byte)
  | .ok data => some data
  | .poisoned _ => none
  | .status _ => none

/-- A failed fetch is counted; the fourth writes HASH_FAIL (R286, R309). The answer is the new count. -/
def State.hashMiss (s : State) (c i : Nat) (page : Bool) (ring : Nat) (n : Nat) : State :=
  let s := s.wrap64 (Reg.lvrHashRetry c)
  if n < 4 then s
  else (s.raiseCtx srcLouvre 0x0401 2 c (i + if page then 2 ^ 32 else 0) ring).bump Fld.lvrHashFailsCount

/-- What a page or chunk of a job comes to. -/
inductive Fetched where
  /-- Not asked for. -/
  | idle
  | page (j : LvrJob)
  | chunk (j : LvrJob) (data : List Byte)
  /-- A failed fetch, and whether it is the fourth. -/
  | miss (j : LvrJob) (n : Nat)
  /-- The server's answer ends the job. -/
  | refused (status : Nat)
  deriving DecidableEq, Repr

/-- Check a page or a chunk of a job against its digest (steps 5 and 6 of R285). -/
def LvrJob.check (j : LvrJob) (page : Bool) (i : Nat) (reply : Reply) : Fetched :=
  let key := fetchKey page i
  let n := SMap.getD j.fails key 0 + 1
  let j := { j with asked := SMap.del j.asked key }
  let missed := Fetched.miss { j with fails := SMap.put j.fails key n } n
  let asked := if page then j.wantPages.contains i else j.wantChunks.contains i && (SMap.get? j.pages (i / 1024)).isSome
  if !asked then .idle else
  match reply, cleanBytes reply with
  | .status 5, _ => missed
  | .status k, _ => .refused (replyStatus k)
  | _, none => missed
  | _, some data =>
    if page then
      if data.length == pageLen j.man i && sha384 data == pageDigest j.man i then
        .page { j with pages := SMap.put j.pages i data, wantPages := j.wantPages.filter (· != i) }
      else missed
    else if data.length == chunkLen j.man i && sha384 data == chunkDigest (SMap.getD j.pages (i / 1024) []) i then .chunk j data
    else missed

/-- A page or chunk of the running LOAD. -/
def State.loadArrive (s : State) (c : Nat) (page : Bool) (i : Nat) (reply : Reply) : State :=
  match (s.lvr c).load with
  | none => s
  | some j =>
    match j.check page i reply with
    | .idle => s
    | .page j =>
      let r := s.askChunks c j i
      r.1.setLvr c { r.1.lvr c with load := some r.2 }
    | .chunk j data => s.loadChunk c i data j
    | .miss j n =>
      let r := if n < 4 then State.askJob c (s, j) page i else (s, j)
      let s := (r.1.setLvr c { r.1.lvr c with load := some r.2 }).hashMiss c i page j.ring n
      if n < 4 then s else s.loadEnd c j 12
    | .refused st => s.loadEnd c j st

/-- A page or chunk of the running SWAP. -/
def State.swapArrive (s : State) (c : Nat) (page : Bool) (i : Nat) (reply : Reply) : State :=
  match (s.lvr c).swap with
  | none => s
  | some w =>
    if w.fin.isSome then s else
    match w.job.check page i reply with
    | .idle => s
    | .page j =>
      let r := s.askChunks c j i
      r.1.setSwap c { w with job := r.2 }
    | .chunk j data => s.swapChunk c i data { w with job := j }
    | .miss j n =>
      let r := if n < 4 then State.askJob c (s, j) page i else (s, j)
      let s := (r.1.setSwap c { w with job := r.2 }).hashMiss c i page j.ring n
      if n < 4 then s else s.swapFail c { w with job := j } 12
    | .refused st => s.swapFail c w st

/-- The read of a page or chunk for the fetch endpoints is asked for (R299). -/
def State.askStream (s : State) (c : Nat) (l : Lvr) (man : List Byte) (page : Bool) (i : Nat) : State :=
  if page then s.askEngine c (.stream true i) (l.pageBase + 49152 * i) (pageLen man i)
  else s.askEngine c (.stream false i) (l.payload + i * 2 ^ 20) (chunkLen man i)

/-- A page or chunk for the fetch endpoints: a chunk goes to its slot of the chunk buffer; the fourth failure faults the
context with cause 7, a refused read with cause 6 (R255, R299, R397). -/
def State.streamArrive (s : State) (c : Nat) (page : Bool) (i : Nat) (reply : Reply) : State :=
  let l := s.lvr c
  let man := s.keptMan c
  let wanted := if page then l.asked.any (fun q => q.1 / 1024 == i) && (SMap.get? l.pages i).isNone
    else l.asked.any (·.1 == i) && (SMap.get? l.pages (i / 1024)).isSome
  let leaf := match l.needs.find? fun q => if page then q.2 / 1024 == i else q.2 == i with
    | some q => s.leafOn c (q.1 / 256)
    | none => 0
  let key := fetchKey page i
  let n := SMap.getD l.fails key 0 + 1
  let miss : State :=
    let s := (s.setLvr c { l with fails := SMap.put l.fails key n }).hashMiss c i page 0xFFF n
    if n < 4 then s.askStream c l man page i else s.faultCtx c 7 leaf
  if !wanted then s else
  match reply, cleanBytes reply with
  | .status 5, _ => miss
  | .status _, _ => s.faultCtx c 6 leaf
  | _, none => miss
  | _, some data =>
    if page then
      if data.length == pageLen man i && sha384 data == pageDigest man i then
        s.setLvr c { l with pages := SMap.put l.pages i data }
      else miss
    else if data.length == chunkLen man i && sha384 data == chunkDigest (SMap.getD l.pages (i / 1024) []) i then
      let slot := ((l.asked.find? (·.1 == i)).map (·.2)).getD 0
      let s := (s.lvrWrite c (s.get64 (Reg.lvrChunkBase c) % 2 ^ 44 + slot * 2 ^ 20) data fun _ => false).1
      let s := s.wrap64 (Reg.lvrBytesIn c) data.length
      s.setLvr c { l with
        asked := l.asked.filter (·.1 != i), chunks := l.chunks ++ [(i, slot)], fails := SMap.del l.fails key }
    else miss

/-- Some read of a list has had no reply for FETCH_S seconds (R293). -/
def State.unanswered (s : State) (c : Nat) (ticks : List Nat) : Bool :=
  ticks.any fun t => t + secondsOf (s.get (Fld.lvrTimeoutFetchS c)) ≤ s.tick

/-- The read of a manifest has had no reply for FETCH_S seconds: its LOAD (OP 1) or SWAP (OP 2) ends with TIMEOUT. -/
def State.manifestTimeout (s : State) (c op : Nat) : State :=
  match (s.lvr c).reading with
  | none => s
  | some r =>
    if (LvrCmd.of (s.lvrDesc c r.1)).op != op || !s.unanswered c [r.2] then s
    else ((s.dropReads c EngineRead.ofManifest).setLvr c { s.lvr c with reading := none }).lvrEnd c r.1 15 0 0

/-- LVR_FETCH_TIMEOUT: no reply for FETCH_S seconds ends the LOAD, or the SWAP while it fetches, with TIMEOUT (R293). -/
def execLvrFetchTimeout (c : CtxId) (swap : Bool) (s : State) : Host.Outcome State Fault Refusal :=
  .next (s.clocked (if swap then
    match (s.lvr c).swap with
    | some w => if !s.unanswered c (w.job.asked.map (·.2)) || w.fin.isSome then s else s.swapFail c w 15
    | none => s.manifestTimeout c 2
  else
    match (s.lvr c).load with
    | some j => if s.unanswered c (j.asked.map (·.2)) then s.loadEnd c j 15 else s
    | none => s.manifestTimeout c 1))

/-! ## WRITE_BACK and FENCE (R291, R307, R308) -/

/-- Weight ports of the context's partition that reach a node, in ascending port number (R307). -/
def State.writePorts (s : State) (c a : Nat) : List Nat :=
  let mask := s.get (Fld.shtPortsPorts (s.partOf c))
  let mine := (weightPorts.zipIdx.filter fun p => bitAt mask p.2).map (·.1)
  (s.pathPorts (a / 2 ^ 44)).filter mine.contains

/-- Core-unit of the sector at a T0 or T1 address. -/
def State.leafAt (s : State) (c a : Nat) : Nat :=
  match region a with
  | .t0 u _ => ((s.ctx c).members[u]?).elim 0 (·.leaf)
  | .t1 u _ => ((s.ctx c).members[u]?).elim 0 (·.leaf)
  | .t2 _ => 0
  | .t3 .. => 0
  | .hole => 0

/-- Chunks of a shard: (index, address in tensor space, bytes). -/
def shardChunks (d : LvrCmd) : List (Nat × Nat × Nat) :=
  let n := 4096 * d.count
  (List.range (ceilDiv n (2 ^ 20))).map fun i => (i, d.a0 + i * 2 ^ 20, min (2 ^ 20) (n - i * 2 ^ 20))

/-- How the chunks of a WRITE_BACK end: chunks sent, and the status or the poisoned sectors that stop it. -/
inductive Sent where
  | done (digests : List Byte)
  | refused (status chunks : Nat)
  | poisoned (chunks : Nat) (sectors : List Nat)

/-- Send chunks in order, each after its poison check; `replies` answers each write. -/
def State.sendChunks (c : Nat) (d : LvrCmd) (ports : List Nat) :
    List (Nat × Nat × Nat) → List Reply → List Byte → State → State × Sent
  | [], _, h, s => (s, .done h)
  | (i, a, n) :: rest, replies, h, s =>
    let pz := s.lvrPoison c a n
    if !pz.isEmpty then (s, .poisoned i pz)
    else
      let data := s.lvrRead c a n
      let s := s.emit (.chunk ports[i % ports.length]? (s.jobOf c) (d.a1 + (a - d.a0)) data)
      match replies.headD (.ok []) with
      | .status (k + 1) => (s, .refused (replyStatus (k + 1)) i)
      | _ => State.sendChunks c d ports rest (replies.drop 1) (h ++ sha384 data) s

/-- The end of a write-back all of whose `n` chunks are sent: with HASH their digests follow, and the doorbell is rung. -/
def State.lvrSent (s : State) (c ring : Nat) (d : LvrCmd) (ports : List Nat) (n : Nat) (replies : List Reply) (h : List Byte) : State :=
  let hash := bitAt d.flags 2
  let s := if hash then s.emit (.chunk ports[n % ports.length]? (s.jobOf c) (d.a1 + 4096 * d.count) h) else s
  match if hash then replies.getD n (.ok []) else .ok [] with
  | .status (k + 1) => s.lvrEnd c ring (replyStatus (k + 1)) n 0
  | _ => (s.emit (.ring (s.jobOf c) d.a2 d.arg)).lvrEnd c ring 0 n 0

/-- A chunk of a write-back holds poison: `n` chunks were sent, and the context faults. -/
def State.lvrPoisoned (s : State) (c ring n : Nat) (pz : List Nat) : State :=
  let a := 64 * pz.headD 0
  let s := s.raiseCtx srcLouvre 0x0102 3 c 9 a
  (s.lvrEnd c ring 4 n pz.length).faultCtx c 3 (s.leafAt c a)

/-- Send the shard of a write-back through some ports. -/
def State.lvrSend (s : State) (c ring : Nat) (d : LvrCmd) (ports : List Nat) (chunks : List (Nat × Nat × Nat))
    (replies : List Reply) : State :=
  match State.sendChunks c d ports chunks replies [] s with
  | (s, .refused st n) => s.lvrEnd c ring st n 0
  | (s, .poisoned n pz) => s.lvrPoisoned c ring n pz
  | (s, .done h) => s.lvrSent c ring d ports chunks.length replies h

/-- LVR_WRITE_BACK: the shard is sent, its digests with HASH, and the doorbell rung; `replies` answers each write in order. -/
def State.lvrWriteBack (s : State) (c : Nat) (replies : List Reply) : State :=
  match s.lvrNext c with
  | none => s
  | some (ring, d) =>
    if d.op != 3 then s else
    let s := s.lvrTake c ring
    match s.lvrRefused c d with
    | some st => s.lvrEnd c ring st 0 0
    | none =>
      if !s.lvrState c 3 then s.lvrEnd c ring 5 0 0 else
      if (s.writePorts c d.a1).isEmpty then s.lvrEnd c ring 15 0 0 else
      s.lvrSend c ring d (s.writePorts c d.a1) (shardChunks d) replies

def execLvrWriteBack (c : CtxId) (replies : List Reply) (s : State) : Host.Outcome State Fault Refusal :=
  .next (s.clocked (s.lvrWriteBack c replies))

/-- LVR_FENCE: a FENCE at the front completes, since every earlier descriptor has; a reserved OP ends with BAD_CMD. -/
def execLvrFence (c : CtxId) (s : State) : Host.Outcome State Fault Refusal :=
  .next (s.clocked (match s.lvrNext c with
    | none => s
    | some (ring, d) =>
      if d.op == 1 || d.op == 2 || d.op == 3 then s else
      let s := s.lvrTake c ring
      match s.lvrRefused c d with
      | some st => s.lvrEnd c ring st 0 0
      | none => s.lvrEnd c ring (if s.lvrState c 4 then 0 else 5) 0 0))

/-! ## Clears (R310, R311) -/

def State.lvrClear (s : State) (c : Nat) : State :=
  s.clear64 [Reg.lvrHashRetry c, Reg.lvrHoldTicks c, Reg.lvrBytesIn c]

def execLvrCntClear (req : Requester) (c : CtxId) (s : State) : Host.Outcome State Fault Refusal :=
  .next (s.write req (Reg.lvrCntCtrl c) 1 fun s => s.lvrClear c)

def State.lvrFailClear (s : State) : State := s.clearAll [Fld.lvrSigFailsCount, Fld.lvrHashFailsCount]

def execLvrFailClear (req : Requester) (s : State) : Host.Outcome State Fault Refusal :=
  .next (s.write req Reg.lvrFailClr 1 fun s => s.lvrFailClear)

end Sys2Proof.Machine
end

