-- ==== Sys2Proof/Machine/Virbael.lean ====
section
/-!
DEFINITION. The Virbael endpoint: requests, their order and outcomes, the hinge and the read cache (R389 to R397, R404 to R409,
R412, R416, R417).
-/
namespace Sys2Proof.Machine
open Sys2Proof

/-! ## Outcomes (R390, R392, R394, R412, R422) -/

/-- The request's task learns of a refusal or of no path by an event only (R394). -/
def Req.posted (r : Req) : Bool :=
  match r.use with
  | .store _ => true
  | .bell _ => true
  | _ => false

/-- The request belongs to a context. -/
def Req.ofCtx (r : Req) : Bool :=
  match r.use with
  | .record _ => false
  | .ring _ => false
  | .dropped => false
  | _ => true

/-- Message ID and generation of a request (R422). -/
def State.reqId (s : State) (r : Req) : Nat × Nat :=
  if r.dst == s.ownNode then (r.ownMid, 0) else (s.msgOf r.dst (false, r.num)).getD (0, 0)

/-- Counters and events of an outcome (R394, R412, R421, R422). -/
def State.outcome (s : State) (r : Req) (status : Nat) : State :=
  let where_ := r.dst + r.ptype * 2 ^ 44
  if !r.ofCtx then s
  else if status == vDenied || status == vBad then
    let s := s.bump (Fld.vblDeniedCount r.ctx)
    if r.posted then s.raiseCtx srcVirbael 0x0800 2 r.ctx (where_ + r.job * 2 ^ 20 + 2 ^ 52 + status * 2 ^ 56) r.addr else s
  else if status == vUnreach then
    let s := s.bump (Fld.vblUnreachCount r.ctx)
    if r.posted then s.raiseCtx srcVirbael 0x0801 2 r.ctx where_ r.addr else s
  else if status == vUnknown then
    let (mid, gen) := s.reqId r
    (s.bump (Fld.vblUnknownCount r.ctx)).raiseCtx srcVirbael 0x0802 2 r.ctx
      (r.dst + mid * 2 ^ 20 + gen * 2 ^ 36 + r.ptype * 2 ^ 44) r.addr
  else s

/-- The task's instruction retires with its results; nothing where the task no longer waits for this request. -/
def State.answer (s : State) (core slot num : Nat) (f : Task → Task) : State :=
  match s.task? core slot with
  | none => s
  | some t =>
    if t.request != some num then s else
    s.setTask core slot { f t with
      request := none, wait := none, pc := t.pc + 8#44, retired := t.retired + 1
      state := if t.state == .waiting then .ready else t.state }

/-- SD, then the status word in s63 (R390). -/
def withStatus (sd v status : Nat) (poisoned : Bool) (t : Task) : Task :=
  (t.setReg sd (BitVec.ofNat 64 v) poisoned).setReg 63 (BitVec.ofNat 64 status) false

/-- A load's outcome: the data, poison where the target's data is poisoned (the value then is free, log entry 3), otherwise 0
(R390, R392, R402). -/
def State.answerLoad (s : State) (core slot sd num status : Nat) (data : List Byte) : State :=
  let v := if status == vOk then leAt data 0 8
    else if status == vPoisoned then ofLe ((List.range 8).map (Config.freeByte s.draws))
    else 0
  let s := if status == vPoisoned then { s with draws := s.draws + 1 } else s
  s.answer core slot num (withStatus sd v status (status == vPoisoned))

/-- An atomic's outcome: the old value, sign-extended from INT32 or zero-extended from FP32; no value where it is poisoned (R392,
R402, R410). -/
def State.answerAtom (s : State) (core slot sd func num status result : Nat) : State :=
  let v := if func == 0 then ofSigned 64 (toSigned 32 result) else if func == 2 then result % 2 ^ 32 else result
  s.answer core slot num fun t =>
    if status == vPoisoned then t.setReg 63 (BitVec.ofNat 64 status) false
    else withStatus sd (if status == vOk then v else 0) status false t

/-- The lease status word (R415). -/
def leaseWord (status result : Nat) : Nat := status + (if status == vBroken then field result 0 26 * 2 ^ 16 else 0)

def State.answerLease (s : State) (core slot sd num status result : Nat) : State :=
  s.answer core slot num fun t => t.setReg sd (BitVec.ofNat 64 (leaseWord status result)) false

/-! ## The read cache (R407, R408) -/

/-- Staging-pool address of a line of the read cache, beyond tensor space. -/
def lineKey (g : Nat) : Nat := 2 ^ 64 + g / 4096 * 4096

/-- Keep a line in a core's staging pool, where the pool has room (R257, R407). -/
def State.keepLine (s : State) (core c g : Nat) (data : List Byte) (pz : List Nat) : State :=
  match (s.pool core c).reserve (s.stageTiles c) none [(lineKey g, false)] with
  | none => s
  | some p => (s.setPool core c p).landCopy core c (lineKey g) data pz

/-- Global range of a staged copy: of a read-cache line, or of a T3 tile. -/
def State.copyGlobal (s : State) (c a : Nat) : Option Nat := if 2 ^ 64 ≤ a then some (a - 2 ^ 64) else s.globalOf c a

/-- Drop a context's lines and T3 copies that overlap a global range (R408). -/
def State.invDrop (s : State) (c g n : Nat) : State :=
  let hit (a : Nat) : Bool :=
    match s.copyGlobal c a with
    | some b => n != 0 && b < g + n && g < b + 4096
    | none => false
  (s.cores.pools.filter fun p => p.1 % 64 == c).foldl (fun s p => s.dropCopies (p.1 / 64) c hit) s

/-! ## Completion -/

/-- Lease addresses of a context, at most 64 (R417). -/
def State.leasesOf (s : State) (c : Nat) : List Nat := SMap.getD s.vbl.leases c []

def State.setLeases (s : State) (c : Nat) (l : List Nat) : State :=
  { s with vbl.leases := SMap.putD s.vbl.leases c l [] }

def State.noteLease (s : State) (c a : Nat) : State :=
  let l := s.leasesOf c
  if l.contains a || 64 ≤ l.length then s else s.setLeases c (l ++ [a])

/-- An acquire answered HELD: it is as if not issued, the task waits, and the endpoint presents it again at the earlier of EXPIRY
and 2,500 ticks from now (R416). -/
def State.heldLease (s : State) (r : Req) (core slot expiry : Nat) : State :=
  let s := s.modReq r.num fun r => { r with
    first := none, resends := 0, again := some (min expiry (s.tick + 2500)) }
  match s.task? core slot with
  | none => s.dropReq r.num
  | some t =>
    if t.request != some r.num then s.dropReq r.num
    else
      let s := s.setTask core slot { t with request := none }
      if t.state == .waiting then s else s.taskWait core slot .lease

/-- The answer to an engine's read goes to what asked for it (R255, R285, R299, R397). -/
def State.engineAnswer (s : State) (c : Nat) (e : EngineRead) (reply : Reply) : State :=
  match e with
  | .stage core a => s.stageAnswer core c a reply
  | .manifest ring => s.manifestAnswer c ring reply
  | .load page i => s.loadArrive c page i reply
  | .swap page i => s.swapArrive c page i reply
  | .stream page i =>
    if s.ctxState c == ctxIdle || s.ctxState c == ctxFaulted then s else s.streamArrive c page i reply

/-- A request completes with a status, a result and data (R390, R406). -/
def State.finish (s : State) (num status result : Nat) (data : List Byte) : State :=
  match s.req? num with
  | none => s
  | some r =>
    let s := s.outcome r status
    let gone := s.dropReq num
    match r.use with
    | .engine e => gone.engineAnswer r.ctx e (.status status)
    | .load core slot sd => gone.answerLoad core slot sd num status data
    | .line core waiters =>
      let bytes := if status == vOk then padTo 4096 data else (List.range 4096).map (Config.freeByte s.draws)
      let keep := (status == vOk || status == vPoisoned) && s.flag (Fld.vblCtxCtrlCache r.ctx)
      let gone := { gone with draws := gone.draws + (if status == vOk then 0 else 1) }
      let s := if keep then gone.keepLine core r.ctx r.addr bytes (if status == vOk then [] else List.range 64) else gone
      waiters.foldl (fun s w => s.answerLoad w.1 w.2.1 w.2.2.1 num status (bytes.drop w.2.2.2)) s
    | .atom core slot sd func => gone.answerAtom core slot sd func num status result
    | .acquire core slot sd =>
      if status == vHeld then s.heldLease r core slot result else
      let gone := if status == vOk || status == vBroken then gone.noteLease r.ctx r.addr else gone
      gone.answerLease core slot sd num status result
    | .release core slot sd =>
      let gone := if status == vOk then gone.setLeases r.ctx ((gone.leasesOf r.ctx).filter (· != r.addr)) else gone
      gone.answerLease core slot sd num status result
    | .giveUp => gone
    | .store _ => gone
    | .bell _ => gone
    | .record q => { gone with vbl.ended := s.vbl.ended ++ [(q, false, status)] }
    | .ring q => { gone with vbl.ended := s.vbl.ended ++ [(q, true, status)] }
    | .dropped => gone

/-! ## Sending (R389, R393, R397, R405, R417) -/

/-- The request as a message for the module's own node (R389). -/
def State.ownMsg (s : State) (r : Req) : RxMsg :=
  let status := if r.ptype != ptWr then vOk else
    match s.reqCheck s.winCopy r.job ptWr r.addr r.opnd [] with
    | .ok _ => vOk
    | .error e => e
  ⟨s.ownNode, r.ownMid, 0, r.ptype, r.cls, r.job, s.winCopy, status, reqBlock r.addr r.opnd, r.data⟩

/-- Put a request on its way: to the module's own node, over a connection, or, with no path, to its end. An engine's read of the own node is
executed when its answer is taken (`State.engineReply`). A port whose shares
refuse the job discards it (R369, R395 to R397). -/
def State.sendReq (s : State) (r : Req) : State :=
  let sent (s : State) : State := s.modReq r.num fun r => { r with first := some (r.first.getD s.tick), again := none }
  if r.dst == s.ownNode then
    match r.use with
    | .engine _ => sent s
    | _ => sent { s with vbl.inbox := s.vbl.inbox ++ [s.ownMsg r] }
  else
  match s.pathPort s.ownNode r.dst r.cls with
  | none => s.finish r.num vUnreach 0 []
  | some p =>
    if s.shareShut p r.job then (s.bump (Fld.lnkShareDropCount p)).finish r.num vUnreach 0 []
    else match r.use with
      | .engine _ => (sent s).emit (.fetch r.job r.addr r.opnd)
      | _ => (sent s).trpSend r.dst ⟨some (false, r.num), r.ptype, r.cls, r.job, reqBlock r.addr r.opnd, r.data⟩

/-- The first request that may go out: every earlier one of its context to the same node in another class has completed (R393). -/
def eligibleReq : List Req → List Req → Option Req
  | _, [] => none
  | before, r :: rest =>
    if r.first.isNone && r.again.isNone &&
        !(before.any fun e => e.ctx == r.ctx && e.dst == r.dst && e.cls != r.cls && e.again.isNone) then some r
    else eligibleReq (before ++ [r]) rest

/-- The payload of a LEASE: operation, context, incarnation (R380). -/
def leaseData (op c inc : Nat) : List Byte := leBytes 1 op ++ leBytes 1 c ++ leBytes 2 0 ++ leBytes 4 inc ++ leBytes 8 0

/-- The leases of contexts whose incarnation has risen are released under the new one (R417). -/
def State.releaseLeases (s : State) : State :=
  s.vbl.breaks.foldl (fun s c =>
    let l := s.leasesOf c
    l.foldl (fun s a =>
      (s.closeFor c (a / 2 ^ 44)).addReq c .giveUp ptLease (s.reqClass c 16 false) (s.jobOf c) a 0 (leaseData 1 c (s.rd (Reg.vblInc c))))
      (s.setLeases c [])) { s with vbl.breaks := [] }

/-- Send every request that may go out; the bound is the number of requests. -/
def State.sendReqs : Nat → State → State
  | 0, s => s
  | n + 1, s =>
    match eligibleReq [] s.vbl.reqs with
    | none => s
    | some r => State.sendReqs n (s.sendReq r)

/-- Messages of the collective engine go to the transport. -/
def State.collFlush (s : State) : State :=
  s.coll.out.foldl (fun s m => s.trpSend m.1 m.2) { s with coll.out := [] }

/-- The message of a request is taken off its connection. -/
def State.cancelMsg (s : State) (r : Req) : State :=
  match s.msgOf r.dst (false, r.num) with
  | some (mid, _) => s.retireMsg r.dst mid
  | none =>
    match s.txConn r.dst with
    | some x => s.setTx r.dst (x.without (false, r.num))
    | none => s

/-- A message that is not reissued: an atomic or a lease completes with OUTCOME_UNKNOWN, a request without a path with
UNREACHABLE; a doorbell on a path ends; the data of a collective step goes to its engine (R377, R397, R412, R443). -/
def State.handedBack (s : State) (d : Nat) (path : Bool) (m : Msg) : State :=
  match m.tok with
  | some (false, num) =>
    if !path then s.finish num vUnreach 0 []
    else if m.ptype == ptAtomic || m.ptype == ptLease then s.finish num vUnknown 0 []
    else s.finish num vOk 0 []
  | some (true, _) => { s with coll.back := s.coll.back ++ [(d, path, m)] }
  | none => s

/-- A packet that a port has refused: its message has the outcome of an unreachable target; one in transit has no onward path (R369, R379,
R397). -/
def State.refusedPacket (s : State) (head : List Byte) : State :=
  let k := PacketIn.of head
  if k.src != s.ownNode then s.bump Fld.vblFwdDropCount else
  match (s.txConn k.dst).bind fun x => if x.gen == k.gen then x.msgs.find? fun m => m.1 == k.mid else none with
  | some (_, m) => if k.pt == ptTAck then s else (s.handedBack k.dst false m).retireMsg k.dst k.mid
  | none => s

/-- The endpoint and the collective engine do what they may. -/
def State.vblPump (s : State) : State :=
  let s := s.trp.refused.foldl State.refusedPacket { s with trp.refused := [] }
  let s := s.collFlush.releaseLeases.flushBatches
  State.sendReqs s.vbl.reqs.length s

/-- The command that brings the answer to an engine's read: one that has been sent and not answered (R389, R394, R422). -/
def State.engineReply (s : State) (c : Nat) (e : EngineRead) (reply : Reply) : State :=
  match s.vbl.reqs.find? fun r => r.ctx == c && r.use == .engine e && r.first.isSome with
  | none => s
  | some r =>
    let (s, reply) := if r.dst == s.ownNode then s.ownRead r.job r.addr r.opnd else (s, reply)
    let s := match reply with
      | .status st => s.outcome r st
      | .ok _ => s
      | .poisoned _ => s
    ((s.dropReq r.num).engineAnswer c e reply).vblPump

/-! ## RLD (R390, R406, R407) -/

/-- The instruction's task waits for request `num` without being ready (R391). -/
def State.hold (s : State) (core slot num : Nat) : State := s.modTask core slot fun t => { t with request := some num }

/-- A destination whose loads and stores pass the hinge: every one that is not near, the module's own node among them (R404). -/
def State.far (s : State) (d : Nat) : Bool := !s.near d

/-- Join a line read of the context that is outstanding, or start one, which closes the batch to its node (R405, R406). -/
def State.lineRead (s : State) (core slot c sd a : Nat) : State :=
  let line := a / 4096 * 4096
  let mine (r : Req) : Bool :=
    r.ctx == c && r.addr == line &&
      match r.use with
      | .line _ _ => true
      | _ => false
  match s.vbl.reqs.find? mine with
  | some r =>
    (s.modReq r.num fun r => { r with use := match r.use with
      | .line k ws => .line k (ws ++ [(core, slot, sd, a % 4096)])
      | u => u }).hold core slot r.num
  | none =>
    let s := s.closeFor c (a / 2 ^ 44)
    let num := s.vbl.nextNum
    (s.addReq c (.line core [(core, slot, sd, a % 4096)]) ptRd (s.reqClass c 4096 false) (s.jobOf c) line 4096 []).hold
      core slot num

/-- RLD: a hit of the read cache, a line read, or a read of 8 bytes. -/
def rldBody (x : Cx) (s : State) : Chk Next := do
  let a := x.s x.sa
  need (a % 8 == 0) badShape
  x.clean 1 x.sa
  need (!s.older x.core x.slot) .hold
  let cache := s.flag (Fld.vblCtxCtrlCache x.c)
  match (if cache then s.staged? x.core x.c (lineKey a) else none) with
  | some _ =>
    let line := lineKey a + a % 4096
    let bad := s.pagePoison x.core x.c line 8
    .ok (.retire ((s.useStaged x.core x.slot x.c [(lineKey a, false)]).modTask x.core x.slot
      (withStatus x.sd (ofLe (s.pageRead x.core x.c line 8)) (if bad then vPoisoned else vOk) bad)))
  | none =>
    if cache || s.far (a / 2 ^ 44) then .ok (.stay (s.lineRead x.core x.slot x.c x.sd a).vblPump)
    else
      let s := s.closeFor x.c (a / 2 ^ 44)
      let num := s.vbl.nextNum
      let s := s.addReq x.c (.load x.core x.slot x.sd) ptRd (s.reqClass x.c 8 false) (s.jobOf x.c) a 8 []
      .ok (.stay (s.hold x.core x.slot num).vblPump)

def execRld (i : Issue) (s : State) : Host.Outcome State Fault Refusal := issue (specQ 0x94 [qSa, qSd] (· == 0)) rldBody i s

/-! ## RST and DOORBELL (R390, R391, R405) -/

/-- Requests of a core that wait in its queue (R391). -/
def State.queued (s : State) (core : Nat) : Nat :=
  (s.vbl.reqs.filter fun r => r.first.isNone &&
    match r.use with
    | .store k => k == core
    | .bell k => k == core
    | _ => false).length

/-- A store to a far node joins the context's batch, or ends it and begins one (R405). -/
def State.hinge (s : State) (core slot c a : Nat) (bs : List Byte) : State :=
  let d := a / 2 ^ 44
  let fits (b : Batch) : Bool := b.ctx == c && b.dst == d && !b.closed && a == b.addr + b.data.length && b.data.length < 65536
  if s.vbl.batches.any fits then
    { s with vbl.batches := s.vbl.batches.map fun (b : Batch) =>
        if fits b then { b with
          data := b.data ++ bs
          tasks := if b.tasks.contains (core, slot) then b.tasks else b.tasks ++ [(core, slot)]
          closed := 65536 ≤ b.data.length + bs.length } else b }
  else
    let s := s.closeFor c d
    { s with vbl.batches := s.vbl.batches ++ [⟨c, [(core, slot)], false, d, a, bs, s.tick⟩] }

/-- RST: the endpoint accepts a store of 8 bytes. -/
def rstBody (x : Cx) (s : State) : Chk Next := do
  let a := x.s x.sa
  need (a % 8 == 0) badShape
  x.clean 1 x.sa
  x.clean 8 x.sb
  need (s.queued x.core < 256) .hold
  let bs := leBytes 8 (x.s x.sb)
  if s.far (a / 2 ^ 44) then .ok (.retire (s.hinge x.core x.slot x.c a bs).vblPump)
  else
    .ok (.retire ((s.closeFor x.c (a / 2 ^ 44)).addReq x.c (.store x.core) ptWr (s.reqClass x.c 8 false) (s.jobOf x.c) a 8
      bs).vblPump)

def execRst (i : Issue) (s : State) : Host.Outcome State Fault Refusal := issue (specQ 0x95 [qSa, qSb] (· == 0)) rstBody i s

/-- DOORBELL: posted. -/
def doorbellBody (x : Cx) (s : State) : Chk Next := do
  let a := x.s x.sa
  need (a % 8 == 0) badShape
  x.clean 1 x.sa
  x.clean 8 x.sb
  need (s.queued x.core < 256) .hold
  .ok (.retire ((s.closeFor x.c (a / 2 ^ 44)).addReq x.c (.bell x.core) ptDoorbell (s.reqClass x.c 8 false) (s.jobOf x.c) a
    (x.s x.sb) []).vblPump)

def execDoorbell (i : Issue) (s : State) : Host.Outcome State Fault Refusal :=
  issue (specQ 0x97 [qSa, qSb] (· == 0)) doorbellBody i s

/-! ## ATOM, LEASE and INV (R390, R408, R410, R415) -/

/-- ATOM: its operation and the compare value travel in the payload. -/
def atomBody (x : Cx) (s : State) : Chk Next := do
  let a := x.s x.sa
  let f := x.qfunc
  need (a % (if f == 0 || f == 2 then 4 else 8) == 0) badShape
  x.clean 1 x.sa
  x.clean 8 x.sb
  if f == 4 then x.clean 8 x.sd else .ok ()
  need (!s.older x.core x.slot) .hold
  let s := s.closeFor x.c (a / 2 ^ 44)
  let num := s.vbl.nextNum
  let data := leBytes 8 f ++ leBytes 8 (if f == 4 then x.s x.sd else 0)
  let s := s.addReq x.c (.atom x.core x.slot x.sd f) ptAtomic (s.reqClass x.c 16 false) (s.jobOf x.c) a (x.s x.sb) data
  .ok (.stay (s.hold x.core x.slot num).vblPump)

def execAtom (i : Issue) (s : State) : Host.Outcome State Fault Refusal :=
  issue (specQ 0x93 [qSa, qSb, qSd] (· ≤ 6)) atomBody i s

/-- An acquire that the slot's earlier task left to be presented again is given up. -/
def State.staleAcquires (s : State) (core slot : Nat) : State :=
  { s with vbl.reqs := s.vbl.reqs.filter fun r => r.again.isNone ||
      match r.use with
      | .acquire k j _ => !(k == core && j == slot)
      | _ => true }

/-- LEASE.ACQ. -/
def leaseAcqBody (x : Cx) (s : State) : Chk Next := do
  let a := x.s x.sa
  need (a % 32 == 0 && 1 ≤ x.s x.sb && x.s x.sb < 2 ^ 36) badShape
  x.clean 1 x.sa
  x.clean 8 x.sb
  need (!s.older x.core x.slot) .hold
  let s := (s.closeFor x.c (a / 2 ^ 44)).staleAcquires x.core x.slot
  let num := s.vbl.nextNum
  let s := s.addReq x.c (.acquire x.core x.slot x.sd) ptLease (s.reqClass x.c 16 false) (s.jobOf x.c) a (x.s x.sb)
    (leaseData 0 x.c (s.rd (Reg.vblInc x.c)))
  .ok (.stay (s.hold x.core x.slot num).vblPump)

def execLeaseAcq (i : Issue) (s : State) : Host.Outcome State Fault Refusal :=
  issue (specQ 0x91 [qSa, qSb, qSd] (· == 0)) leaseAcqBody i s

/-- LEASE.REL. -/
def leaseRelBody (x : Cx) (s : State) : Chk Next := do
  let a := x.s x.sa
  need (a % 32 == 0) badShape
  x.clean 1 x.sa
  need (!s.older x.core x.slot) .hold
  let s := s.closeFor x.c (a / 2 ^ 44)
  let num := s.vbl.nextNum
  let s := s.addReq x.c (.release x.core x.slot x.sd) ptLease (s.reqClass x.c 16 false) (s.jobOf x.c) a 0
    (leaseData 1 x.c (s.rd (Reg.vblInc x.c)))
  .ok (.stay (s.hold x.core x.slot num).vblPump)

def execLeaseRel (i : Issue) (s : State) : Host.Outcome State Fault Refusal :=
  issue (specQ 0x92 [qSa, qSd] (· == 0)) leaseRelBody i s

/-- INV: the drop is done at once (R391, R408). -/
def invBody (x : Cx) (s : State) : Chk Next := do
  x.clean 1 x.sa
  x.clean 8 x.sb
  need (!s.older x.core x.slot) .hold
  .ok (.retire (s.invDrop x.c (x.s x.sa) (x.s x.sb)))

def execInv (i : Issue) (s : State) : Host.Outcome State Fault Refusal := issue (specQ 0x96 [qSa, qSb] (· == 0)) invBody i s

/-! ## Timers (R405, R412, R416) -/

/-- HINGE_HOLD_EXPIRY: HOLD ticks have passed since a batch's first store; 0 acts as 1 (R405, R419). -/
def State.hingeExpiry (s : State) (c d : Nat) : State :=
  let hold := max 1 (s.get Fld.vblHingeHold)
  { s with vbl.batches := s.vbl.batches.map fun (b : Batch) =>
      if b.ctx == c && b.dst == d && b.since + hold ≤ s.tick then { b with closed := true } else b }.vblPump

def execHingeHoldExpiry (c : CtxId) (node : BitVec 20) (s : State) : Host.Outcome State Fault Refusal :=
  .next (s.clocked (s.hingeExpiry c node.toNat))

/-- Two milliseconds (R412). -/
def resendTicks : Nat := 500000

/-- A request that waits for an RSP. -/
def Req.answered (r : Req) : Bool := r.ptype != ptDoorbell

/-- REQUEST_RESEND: 2, 4 and 6 ms after the first send without an RSP. -/
def State.requestResend (s : State) (num : Nat) : State :=
  match s.req? num with
  | none => s
  | some r =>
    match r.first with
    | none => s
    | some t =>
      if !r.answered || 3 ≤ r.resends || s.tick < t + resendTicks * (r.resends + 1) then s else
      let s := s.modReq num fun r => { r with resends := r.resends + 1 }
      if r.dst == s.ownNode then s else
      match r.use, s.msgOf r.dst (false, num) with
      | .engine _, _ => s.emit (.fetch r.job r.addr r.opnd)
      | _, some (mid, _) => s.resendMsg r.dst mid
      | _, none => s

def execRequestResend (num : Nat) (s : State) : Host.Outcome State Fault Refusal := .next (s.clocked (s.requestResend num))

/-- OUTCOME_UNKNOWN: 8 ms after the first send without an RSP. -/
def State.outcomeUnknown (s : State) (num : Nat) : State :=
  match s.req? num with
  | none => s
  | some r =>
    match r.first with
    | none => s
    | some t =>
      if !r.answered || s.tick < t + 4 * resendTicks then s
      else ((s.finish num vUnknown 0 []).cancelMsg r).vblPump

def execOutcomeUnknown (num : Nat) (s : State) : Host.Outcome State Fault Refusal := .next (s.clocked (s.outcomeUnknown num))

/-- LEASE_RETRY: a waiting acquire is presented again at its tick; it counts as issued then, behind the requests issued since, and closes
the batch to its node (R393, R405, R416). -/
def State.leaseRetry (s : State) (num : Nat) : State :=
  match s.req? num with
  | none => s
  | some r =>
    match r.again, r.use with
    | some t, .acquire core slot _ =>
      if s.tick < t then s else
      match s.task? core slot with
      | none => s.dropReq num
      | some k =>
        if k.ctx != r.ctx || k.wait != some .lease then s.dropReq num
        else if k.state != .waiting || !s.runs r.ctx then s
        else
          let s := (s.hold core slot num).closeFor r.ctx r.dst
          { s with vbl.reqs := (s.vbl.reqs.filter fun (q : Req) => q.num != num) ++ [{ r with again := none }] }.vblPump
    | _, _ => s

def execLeaseRetry (num : Nat) (s : State) : Host.Outcome State Fault Refusal := .next (s.clocked (s.leaseRetry num))

/-! ## What a failed connection hands back (R377, R397, R412) -/

/-- An engine's reads of a node whose connection has failed are reissued, or find no path. -/
def State.readsBack (s : State) (d : Nat) (path : Bool) : State :=
  (s.vbl.reqs.filter fun r => r.dst == d && r.first.isSome).foldl (fun s r =>
    match r.use with
    | .engine _ => if path then s.emit (.fetch r.job r.addr r.opnd) else s.finish r.num vUnreach 0 []
    | _ => s) s

/-- A connection fails, or its requests are treated as on a failed one (R377). -/
def State.failConn (s : State) (d : Nat) (event : Bool) : State :=
  let path := s.hasPath d
  let s := if event then s.giveUp d else s
  let (s, back) := s.handBack d path
  ((back.foldl (fun s m => s.handedBack d path m) s).readsBack d path).vblPump

/-- CONNECTION_FAIL: the oldest unacknowledged packet was first sent LIFETIME ago, or no path remains. -/
def execConnectionFail (node : BitVec 20) (s : State) : Host.Outcome State Fault Refusal :=
  .next (s.clocked (if s.connFailed node.toNat then s.failConn node.toNat true else s))

/-- Some request to a node is outstanding. -/
def State.asked (s : State) (d : Nat) : Bool :=
  match s.txConn d with
  | some x => x.msgs.any fun m => m.2.tok.isSome && m.2.ptype ≤ ptInv
  | none => false

/-- TRANSPORT_PACKET_RECEIVE: a packet through the checks of R378. A source that opens a new generation while requests to it are
outstanding has them handed back (R377). -/
def execTransportPacketReceive (s : State) : Host.Outcome State Fault Refusal :=
  let (s', adopted) := s.packetIn
  .next (s.clocked (match adopted with
    | some d => if s'.asked d then s'.failConn d false else s'
    | none => s'))

/-- A posted message of the endpoint has been acknowledged. -/
def State.acked (s : State) (m : Msg) : State :=
  match m.tok with
  | some (false, num) => s.finish num vOk 0 []
  | some (true, _) => s
  | none => s

/-- T_ACK_RECEIVE: an acknowledgement, or a RESET that fails the connection (R372, R373, R377). -/
def State.tAckReceive (s : State) : State :=
  match s.trp.acks with
  | [] => s
  | a :: rest =>
    let s := { s with trp.acks := rest }
    match s.txConn a.src with
    | none => s
    | some x =>
      if a.reset then (if x.gen == a.gen then s.failConn a.src true else s)
      else
        let (s, done) := s.ackPackets a
        (done.foldl State.acked s).vblPump

def execTAckReceive (s : State) : Host.Outcome State Fault Refusal := .next (s.clocked s.tAckReceive)

end Sys2Proof.Machine
end

