-- ==== Sys2Proof/Machine/Net.lean ====
section
/-!
DEFINITION. The on-wafer networks: packets that enter, cross, arrive or are lost, link fencing, the route-table switch, merge nodes
and the counters (R312 to R337, R460).
-/
namespace Sys2Proof

/-! ## Packets as their senders give them: ports, networks and classes (R312, R317, R330, R331) -/

def MeshFrom.port : MeshFrom → Nat
  | .core _ => 0
  | .edge e _ => 1 + e.val
  | .block _ => 33
  | .svc => 34

def MeshTo.port : MeshTo → Nat
  | .core _ => 0
  | .edge e => 1 + e.val
  | .block => 33
  | .svc => 34

/-- Words of a transom message. -/
def TransomMsg.words : TransomMsg → Nat
  | .readReq => 3
  | .readRsp => 2
  | .write => 4
  | .writeAck => 1
  | .event => 9
  | .fanout => 4
  | .vote => 2
  | .release => 3
  | .arm => 3

def TransomMsg.cls : TransomMsg → Nat
  | .readReq | .readRsp | .write | .writeAck | .event => 1
  | .fanout | .vote | .release | .arm => 0

/-- The message is of MGMT origin; a register access is as its requester is (R330). -/
def TransomMsg.managed (access : Bool) : TransomMsg → Bool
  | .readReq | .readRsp | .write | .writeAck => access
  | .event | .arm => true
  | .fanout | .vote | .release => false

/-- The transom message that a packet is. -/
def MeshPacket.msg (p : MeshPacket) : Option TransomMsg :=
  match p.cargo with
  | .message m => some m
  | _ => none

def MeshPacket.transom (p : MeshPacket) : Bool := p.msg.isSome

/-- Class that the sender gives the packet. -/
def MeshPacket.sent (p : MeshPacket) : Nat := (p.msg.map (·.cls)).getD p.cls.val

/-- Number of its flits; a transom word goes as one. -/
def MeshPacket.flits (p : MeshPacket) : Nat := (p.msg.map (·.words)).getD p.total.val

/-- Bytes of a flit of it. -/
def MeshPacket.unit (p : MeshPacket) : Nat := if p.transom then 4 else 512

end Sys2Proof

namespace Sys2Proof.Machine
open Sys2Proof

/-! ## What a sender learns of a refused or lost packet (R321, R322) -/

def State.cargoLost (s : State) : Cargo → State
  | .stream core ep => s.streamLost (epKey core.val ep.val)
  | .migration c => s.migAbort c.val
  | .louvre c => s.lvrAbort c.val
  | .request core slot =>
    match (s.task? core.val slot.val).bind (·.request) with
    | some num => s.finish num vUnreach 0 []
    | none => s
  | .credit _ _ | .staging _ | .done | .druter | .message _ => s

/-! ## Ports of packets (R312) -/

/-- The port is an outward port. -/
def edgePort (port : Nat) : Bool := 1 ≤ port && port ≤ 32

/-- The stop at which a packet enters. -/
def State.fromStop (s : State) : MeshFrom → Nat
  | .core d => d.val
  | .edge e second => edgeStopAt e.val second.toNat
  | .block second => attachment second
  | .svc => s.svcStop

/-- The stop that a packet from a stop is addressed to (R312, R320). -/
def State.toStop (s : State) (src : Nat) : MeshTo → Nat
  | .core d => d.val
  | .edge e => edgeStop e.val src
  | .block => s.blockStop src
  | .svc => s.svcStop

/-! ## Arrival in order (R316) -/

def portKey (stop port : Nat) : Nat := 64 * stop + port

/-- A source port, destination port, class and network. -/
def meshKey (src srcPort dst dstPort cls : Nat) (transom : Bool) : Nat :=
  ((portKey src srcPort * 16384 + portKey dst dstPort) * 4 + cls) * 2 + transom.toNat

def Flit.transom (f : Flit) : Bool := f.plane == 2

/-- One end of the packet is at an edge agent. -/
def Flit.edge (f : Flit) : Bool := edgePort f.srcPort || edgePort f.dstPort

/-- Key of the flit's packets to one destination. -/
def Flit.key (f : Flit) (d : Nat) : Nat := meshKey f.src f.srcPort d f.dstPort f.cls f.transom

/-- A packet as its port gets it: sequence number, bytes, poisoned sectors. -/
abbrev RxPacket := Nat × List Byte × List Nat

/-- The packet that arrived flits make up (R314). -/
def assemble (seq total : Nat) (fs : List RxFlit) : RxPacket :=
  let at_ (i : Nat) : List RxFlit := (fs.filter fun g => g.idx == i).take 1
  (seq, (List.range total).flatMap (fun i => (at_ i).flatMap (·.data)),
    (List.range total).flatMap fun i => (at_ i).flatMap fun g => g.poison.map (8 * i + ·))

/-- Sequence numbers whose packets can be delivered or skipped now, in order: what is delivered, and what is left. -/
def MeshRx.drain : Nat → MeshRx → List RxPacket → List RxPacket × MeshRx
  | 0, r, out => (out, r)
  | fuel + 1, r, out =>
    if r.skipped.contains r.next then
      drain fuel { next := r.next + 1
                   got := r.got.filter fun g => g.seq != r.next
                   skipped := r.skipped.filter (· != r.next) } out
    else
      let mine := r.got.filter fun g => g.seq == r.next
      match mine with
      | [] => (out, r)
      | g :: _ =>
        if mine.length < g.total then (out, r)
        else drain fuel { r with next := r.next + 1, got := r.got.filter fun g => g.seq != r.next }
          (out ++ [assemble r.next g.total mine])

/-- A destination's record of one flow changes, and what is now in order is delivered to the port. -/
def State.meshRx (s : State) (f : Flit) (d : Nat) (change : MeshRx → MeshRx) : State :=
  let k := f.key d
  let r := change (SMap.getD s.mesh.rx k ⟨0, [], []⟩)
  let (out, r) := r.drain (r.got.length + r.skipped.length + 1) []
  let s := { s with mesh.rx := SMap.putD s.mesh.rx k r ⟨0, [], []⟩ }
  out.foldl (fun s q => s.emit (.mesh f.src d f.cls q.1 q.2.1 q.2.2)) s

/-! ## Loss (R322, R328) -/

/-- Two flits are of one flow. -/
def Flit.sameFlow (f g : Flit) : Bool :=
  f.src == g.src && f.srcPort == g.srcPort && f.dstPort == g.dstPort && f.cls == g.cls && f.transom == g.transom

/-- The packet of a flit goes no further for some of its members: its flits for them leave the networks, and each destination skips
its sequence number and drops what has arrived. -/
def State.meshGone (s : State) (f : Flit) (ms : List (Nat × Nat)) : State :=
  let s := { s with mesh.flits := s.mesh.flits.filterMap fun (g : Flit) =>
      if !f.sameFlow g then some g
      else
        let left := g.members.filter fun m => !ms.contains m
        if left.isEmpty then none else some { g with members := left } }
  ms.foldl (fun s m => s.meshRx f m.1 fun r => { r with skipped := m.2 :: r.skipped }) s

/-- NET_LOST: the packet is discarded at a stop (R322). -/
def State.meshLost (s : State) (f : Flit) (ms : List (Nat × Nat)) (stop : Nat) : State :=
  let dst := (ms.map (·.1)).headD 0
  let s := s.meshGone f ms
  let s := (s.raiseMod (srcPane (paneOf stop)) 0x0500 2 (netWord f.src dst f.multi f.cls f.transom) stop).bump Fld.netLostCount
  s.cargoLost f.cargo

/-- A packet is discarded under the shutter rules (R328, R330). -/
def State.shutDrop (s : State) (f : Flit) (ms : List (Nat × Nat)) : State :=
  let s := (s.meshGone f ms).bump Fld.netShutDropCount
  match f.part with
  | some p => s.misusePart p
  | none => s

/-- Flits inside a stop when it leaves service are lost (R322). -/
def State.stopLoses : Nat → State → Nat → State
  | 0, s, _ => s
  | fuel + 1, s, d =>
    match s.mesh.flits.find? fun f => f.at_ == d with
    | none => s
    | some f => (s.meshLost f f.members d).stopLoses fuel d

/-! ## Packets that a source may send (R312, R317, R325) -/

/-- The packet is of a class that R317 gives its cargo; an operation of a task is in its request's class, and in EX or CT only up to 256
bytes. -/
def State.classLawful (s : State) (p : MeshPacket) : Bool :=
  match p.cargo with
  | .stream _ _ | .staging _ | .migration _ | .louvre _ => p.cls == 2
  | .credit _ _ | .done => p.cls == 1
  | .druter => p.cls == 3
  | .request core slot =>
    p.cls != 3 && (p.cls == 2 || decide (p.data.length ≤ 256)) &&
      match ((s.task? core.val slot.val).bind (·.request)).bind s.req? with
      | some q => p.cls.val == q.cls
      | none => true
  | .message _ => true

/-- The packet is one that a source may send: of its cargo's class, with one destination or, in class BK and for cores, a set; only
transom messages have an end at an attachment of the wafer block or of the service controller, and the wafer block reaches itself
without the networks (R312, R317, R325). -/
def State.packetLawful (s : State) (p : MeshPacket) : Bool :=
  s.classLawful p && p.flits != 0 &&
    (p.members.isEmpty || (p.sent == 2 && !p.transom && p.dst.port == 0)) &&
    (p.transom || (p.src.port < 33 && p.dst.port < 33)) && !(p.src.port == 33 && p.dst.port == 33)

/-! ## Entering (R314, R320, R321, R325, R328, R460) -/

def State.packetTargets (s : State) (p : MeshPacket) : List Nat :=
  if p.members.isEmpty then [s.toStop (s.fromStop p.src) p.dst] else p.members.map (·.val)

/-- Context on whose behalf the packet is sent. -/
def State.cargoCtx (s : State) : Cargo → Option Nat
  | .stream core ep | .credit core ep => some (s.get (Fld.strCfgContext (epKey core.val ep.val)))
  | .staging c | .migration c | .louvre c => some c.val
  | .request core slot => (s.task? core.val slot.val).map (·.ctx)
  | .done | .druter | .message _ => none

/-- The partition of the packet's stamp: a core's is its slot's, an edge agent's that of the context on whose behalf it acts (R328); a
transom message of MGMT origin has none (R330). -/
def State.stampOf (s : State) (p : MeshPacket) : Option Nat :=
  match p.msg with
  | some m => if m.managed p.mgmt then none else some p.part.val
  | none =>
    match p.src with
    | .core d => s.partAt d.val
    | _ => some (((s.cargoCtx p.cargo).map s.partOf).getD p.part.val)

/-- The packet is refused at its source (R321, R325). -/
def State.meshRefuses (s : State) (p : MeshPacket) : Bool :=
  (s.packetTargets p).any fun d =>
    dirUnreachable ≤ (s.route s.netCopy (s.fromStop p.src) d).1 || s.stopOut d || (p.dst.port == 0 && s.fenced d) ||
      (!p.members.isEmpty && (s.partAt d).isNone) || (!p.members.isEmpty && s.partAt d != s.stampOf p)

/-- The path from a stop leaves the positions of a partition. -/
def State.pathLeaves (s : State) (p : Nat) (dst : Nat) : Nat → Nat → Bool
  | 0, d => s.partAt d != some p
  | fuel + 1, d =>
    s.partAt d != some p ||
      (d != dst &&
        let dir := (s.route s.netCopy d dst).1
        dir == 0 || dirUnreachable ≤ dir ||
          match neighbour d (dir - 1) with
          | some n => s.pathLeaves p dst fuel n
          | none => true)

/-- Class in which the packet travels: an EX packet of an edge agent that leaves its partition's rectangle is CT unless XEX is 1
(R460). -/
def State.meshClass (s : State) (p : MeshPacket) : Nat :=
  match s.stampOf p with
  | some k =>
    if p.sent == 0 && !p.transom && (edgePort p.src.port || edgePort p.dst.port) && !s.flag (Fld.shtCfgXex k) &&
        (s.packetTargets p).any (fun d => s.pathLeaves k d hopsMax (s.fromStop p.src)) then 1 else p.sent
  | none => p.sent

/-- Sequence numbers for each destination, in order. -/
def State.meshSeqs (s : State) (keys : List (Nat × Nat)) : State × List (Nat × Nat) :=
  keys.foldl (fun (a : State × List (Nat × Nat)) dk =>
    let n := SMap.getD a.1.mesh.tx dk.2 0
    ({ a.1 with mesh.tx := SMap.put a.1.mesh.tx dk.2 (n + 1) }, a.2 ++ [(dk.1, n)])) (s, [])

/-- Plane of flit `i` of `total` for a destination with these PLANES; `alt` is the plane that one-flit packets take next (R314,
R335). -/
def flitPlane (planes total i alt : Nat) : Nat :=
  match planes with
  | 1 => 0
  | 2 => 1
  | _ => if total == 1 then alt else i % 2

/-! ## EX shapers (R334) -/

/-- The shaper at a mesh clock: one token more every `period` clocks, up to `cap`. -/
def Shaper.fill (x : Shaper) (cap period clock : Nat) : Shaper := ⟨min cap (x.tokens + (clock / period - x.clock / period)), clock⟩

/-- A source port's EX shaper: up to 4 tokens, one every 64 mesh clocks. -/
def State.srcShaper (s : State) (port : Nat) : Shaper := (SMap.getD s.mesh.shapers port ⟨4, 0⟩).fill 4 64 s.mesh.clock

def Flit.srcKey (f : Flit) : Nat := portKey f.src f.srcPort

/-- An EX message of the port waits for a token. -/
def State.portHeld (s : State) (port : Nat) : Bool := s.mesh.flits.any fun g => !g.admitted && g.srcKey == port

/-- Take a token of a source port, if it has one. -/
def State.takeToken (s : State) (port : Nat) : Option State :=
  let x := s.srcShaper port
  if x.tokens == 0 then none
  else some { s with mesh.shapers := SMap.put s.mesh.shapers port { x with tokens := x.tokens - 1 } }

/-- A message enters at a port: an EX message of the mesh takes a token, or waits and is counted. -/
def State.letIn (s : State) (port : Nat) (ex : Bool) : State × Bool :=
  if !ex then (s, true)
  else match (if s.portHeld port then none else s.takeToken port) with
    | some s => (s, true)
    | none => (s.bump Fld.netExSrcHeldCount, false)

/-- The port's first message that waits is admitted once there is a token. -/
def State.meshAdmit (s : State) (i : Nat) (f : Flit) : State :=
  let same (g : Flit) : Bool := f.sameFlow g && g.members == f.members
  let first := (s.mesh.flits.take i).all fun g => g.admitted || g.srcKey != f.srcKey || same g
  match (if first then s.takeToken f.srcKey else none) with
  | none => s
  | some s => { s with mesh.flits := s.mesh.flits.map fun (g : Flit) => if same g then { g with admitted := true } else g }

/-- One flit of a packet that enters: those of its members whose copies take one plane (R314). -/
def meshFlit (p : MeshPacket) (src cls copy : Nat) (stamp : Option Nat) (admitted : Bool) (i plane : Nat)
    (members : List (Nat × Nat)) : Flit :=
  { src := src
    srcPort := p.src.port
    dstPort := p.dst.port
    members := members
    multi := !p.members.isEmpty
    cls := cls
    part := stamp
    mgmt := (p.msg.map (·.managed p.mgmt)).getD false
    idx := i
    total := p.flits
    plane := plane
    vc1 := false
    transit := false
    copy := copy
    hops := 0
    fails := 0
    at_ := src
    input := 16 + 3 * p.src.port + plane
    movedY := false
    admitted := admitted
    linkHeld := false
    data := (p.data.drop (p.unit * i)).take p.unit
    poison := (p.poison.map (·.val)).filter (· / 8 == i) |>.map (· % 8)
    cargo := p.cargo }

/-- The plane that a port's packets of one flit take next (R314). -/
def State.nextPlane (s : State) (port : Nat) : Nat :=
  match SMap.get? s.mesh.single port with
  | some k => 1 - k
  | none => Config.pick s.draws % 2

/-- The flits of a packet join their port's, in order; each member has its sequence number. -/
def State.meshQueue (s : State) (p : MeshPacket) (cls : Nat) (stamp : Option Nat) (admitted : Bool) (ms : List (Nat × Nat)) : State :=
  let src := s.fromStop p.src
  let port := portKey src p.src.port
  let planeOf (i d : Nat) : Nat := if p.transom then 2 else flitPlane (s.route s.netCopy src d).2 p.flits i (s.nextPlane port)
  let flits := (List.range p.flits).flatMap fun i => (List.range 3).filterMap fun k =>
    let l := ms.filter fun m => planeOf i m.1 == k
    if l.isEmpty then none else some (meshFlit p src cls s.netCopy stamp admitted i k l)
  let single := if p.flits == 1 && !p.transom then SMap.put s.mesh.single port (planeOf 0 ((ms.map (·.1)).headD 0)) else s.mesh.single
  { s with draws := s.draws + 1, mesh.single := single, mesh.flits := s.mesh.flits ++ flits }

/-- A packet enters at its source stop: it is refused there, or its flits wait at the port in order. -/
def State.meshEnter (s : State) (p : MeshPacket) : State :=
  let src := s.fromStop p.src
  let targets := s.packetTargets p
  if !s.packetLawful p || s.stopOut src then s
  else if s.meshRefuses p then
    ((s.raiseMod (srcPane (paneOf src)) 0x0501 2
        (netWord src (targets.headD 0) (!p.members.isEmpty) p.sent p.transom) 0).bump Fld.netUnreachCount).cargoLost p.cargo
  else
    let cls := s.meshClass p
    let a := s.letIn (portKey src p.src.port) (cls == 0 && !p.transom)
    let q := a.1.meshSeqs (targets.map fun d => (d, meshKey src p.src.port d p.dst.port cls p.transom))
    q.1.meshQueue p cls (s.stampOf p) a.2 q.2

/-! ## Links (R315, R322) -/

def State.clearUp (s : State) (d dir net : Nat) : State :=
  let f := match net with | 0 => Fld.netLinkUpA d | 1 => Fld.netLinkUpB d | _ => Fld.netLinkUpT d
  s.put f (setBit (s.get f) dir false)

/-- Network on which a flit crosses: the other plane's link carries a fenced plane's flits (R315). -/
def State.crossNet (s : State) (f : Flit) (dir : Nat) : Nat :=
  if f.transom then 2 else if s.linkUp f.at_ dir f.plane then f.plane else 1 - f.plane

/-- A bad CRC: the receiving stop counts, the sender replays, and a link with 16 replays in 1 ms or 4 failures of one flit is
fenced (R315); stream groups that a lost link cuts off are discarded (R322). The flit stays where it is. -/
def State.meshReplay (s : State) (f : Flit) (next dir : Nat) : State × Flit :=
  let net := s.crossNet f dir
  let s := s.bump (Fld.netLinkErrRetry next)
  let k := 16 * f.at_ + 4 * net + dir
  let log := (SMap.getD s.mesh.replays k []).filter (fun t => s.tick < t + ticksPerMs) ++ [s.tick]
  if 16 ≤ log.length || 4 ≤ f.fails + 1 then
    let s := { s with mesh.replays := SMap.del s.mesh.replays k }
    let s := (s.clearUp f.at_ dir net).bump Fld.netLinkFencesCount
    let s := s.raiseMod (srcPane (paneOf f.at_)) 0x0502 4 (f.at_ + dir * 2 ^ 8 + net * 2 ^ 10) (s.get (Fld.netLinkErrRetry next))
    (s.loseGroups s.cores.groups.length, { f with fails := 0 })
  else ({ s with mesh.replays := SMap.put s.mesh.replays k log }, { f with fails := f.fails + 1 })

/-! ## One stop's handling of a flit (R318, R320, R322, R325, R328, R330) -/

/-- A flit is delivered to the port of a destination: a core's local port takes only packets of its slot's partition (R328). -/
def State.meshArrive (s : State) (f : Flit) (m : Nat × Nat) : State :=
  if f.dstPort == 0 && !f.transom && (f.part.isNone || s.partAt m.1 != f.part) then s.shutDrop f [m]
  else s.meshRx f m.1 fun r =>
    if r.skipped.contains m.2 || m.2 < r.next then r
    else { r with got := r.got ++ [⟨m.2, f.idx, f.total, f.data, f.poison⟩] }

/-- The flit may not cross a SHUT link (R328, R330). -/
def Flit.shutOut (f : Flit) : Bool := if f.transom then !f.mgmt else f.multi || !f.edge

/-- A flit crosses in a direction toward a neighbour: its channel there (R318, R328). -/
def State.meshCross (s : State) (f : Flit) (next dir : Nat) : Flit :=
  let inside := f.part.isSome && s.partAt f.at_ == f.part && s.partAt next == f.part
  { f with
    at_ := next
    hops := f.hops + 1
    fails := 0
    vc1 := f.vc1 || (f.movedY && dir < 2)
    movedY := decide (2 ≤ dir)
    transit := f.edge && !f.transom && !inside
    input := 3 * dir + s.crossNet f dir
    linkHeld := false }

/-- What a stop does with a flit for a member of its set: deliver it to the port, send it on in a direction, hold it while a MIGRATE has
closed the slot's ports (R60), discard it as lost, or discard it at a shutter. -/
inductive MeshExit where
  | deliver
  | cross (dir : Nat)
  | closed
  | lost
  | shut
  deriving DecidableEq, Repr

/-- By the stop's entry in the flit's table copy; the local port of a fenced slot takes nothing (R62, R320, R322, R328; DEDUCED, log
entry 30). -/
def State.meshExit (s : State) (f : Flit) (m : Nat × Nat) : MeshExit :=
  let d := f.at_
  let code := (s.route f.copy d m.1).1
  if code == 0 then
    if m.1 != d || (f.dstPort == 0 && s.fenced d) then .lost
    else if f.dstPort == 0 && s.portsClosed d then .closed
    else .deliver
  else if dirUnreachable ≤ code then .lost
  else
    match neighbour d (code - 1) with
    | none => .lost
    | some n =>
      if s.stopOut n || s.linkLost d (code - 1) then .lost
      else if s.shut d (code - 1) && f.shutOut then .shut
      else .cross (code - 1)

/-! ## Outputs (R318, R319, R331, R334) -/

/-- The channel that the flit waits in at its stop (R318). -/
def Flit.chan (f : Flit) : Nat := ((f.input * 4 + f.cls) * 2 + f.vc1.toNat) * 2 + f.transit.toNat

/-- No flit is before the `i`-th one in its channel. -/
def State.chanHead (s : State) (i : Nat) (f : Flit) : Bool :=
  !(s.mesh.flits.take i).any fun g => g.at_ == f.at_ && g.chan == f.chan

/-- Flits that a channel holds. -/
def chanSize : Nat := 4

/-- The channel beyond a link has a credit for the flit; the words of the transom network need none (R318). -/
def State.chanRoom (s : State) (f : Flit) (dir : Nat) : Bool :=
  match neighbour f.at_ dir with
  | none => false
  | some n => f.transom ||
    (s.mesh.flits.filter fun g => g.at_ == n && g.chan == (s.meshCross f n dir).chan).length < chanSize

/-- Every output of the flit can take it: its copies leave together (R325). -/
def State.roomAhead (s : State) (f : Flit) : Bool :=
  f.members.all fun m =>
    match s.meshExit f m with
    | .cross dir => s.chanRoom f dir
    | .closed => false
    | .deliver | .lost | .shut => true

/-- Key of an output: a stop, a network, and 0 for the core's port, 1 + direction, or 8 + another port. -/
def outKey (stop net o : Nat) : Nat := (3 * stop + net) * 64 + o

/-- The output that a flit takes for one of its members. -/
def State.exitOut (s : State) (f : Flit) (m : Nat × Nat) : Option Nat :=
  match s.meshExit f m with
  | .deliver => some (outKey f.at_ f.plane (if f.dstPort == 0 then 0 else 8 + f.dstPort))
  | .cross dir => some (outKey f.at_ (s.crossNet f dir) (1 + dir))
  | .closed | .lost | .shut => none

/-- The outputs that a flit takes. -/
def State.flitOuts (s : State) (f : Flit) : List Nat := (f.members.filterMap (s.exitOut f)).eraseDups

/-- The flits that an output of a stop can send now. -/
def State.bidders (s : State) (stop o : Nat) : List Flit :=
  (List.range s.mesh.flits.length).filterMap fun i =>
    match s.mesh.flits[i]? with
    | some f =>
      if f.at_ == stop && f.admitted && s.chanHead i f && s.roomAhead f && (s.flitOuts f).contains o then some f else none
    | none => none

/-- An output's record, its EX shaper filled: up to 8 tokens, one every 8 mesh clocks (R334). -/
def State.meshOut (s : State) (o : Nat) : MeshPort :=
  let x := SMap.getD s.mesh.outs o ⟨⟨8, 0⟩, 0, [4, 11, 1], []⟩
  { x with ex := x.ex.fill 8 8 s.mesh.clock }

/-- The next channel in turn after the last one served. -/
def nextChan (last : Nat) (chans : List Nat) : Option Nat :=
  match (chans.filter (last < ·)).min? with
  | some c => some c
  | none => chans.min?

/-- The flit is the EX flit whose channel's turn it is. -/
def MeshPort.exTurn (x : MeshPort) (bids : List Flit) (f : Flit) : Bool :=
  f.cls == 0 && nextChan x.last ((bids.filter (·.cls == 0)).map Flit.chan) == some f.chan

/-- A transom output sends the flit: EX words go ahead of CT words, but in no more than 3 of any 4 clocks while CT words wait (R331).
Answers the output's record afterwards. -/
def MeshPort.transomTakes (x : MeshPort) (bids : List Flit) (f : Flit) : Option MeshPort :=
  let ct := bids.any (·.cls != 0)
  if bids.any (·.cls == 0) && !(ct && x.recent == [true, true, true]) then
    if x.exTurn bids f then some { x with last := f.chan, recent := (ct :: x.recent).take 3 } else none
  else if f.cls == 0 then none
  else some { x with recent := (false :: x.recent).take 3 }

/-- A mesh output sends the flit: an EX flit while the shaper holds a token, the EX channels in turn; otherwise one of the class whose
turn it is. While own copies wait, transit copies receive at most 4 of every 16 clocks (R319). Which of a class's channels goes first the
spec leaves open. -/
def MeshPort.meshTakes (x : MeshPort) (bids : List Flit) (f : Flit) : Option MeshPort :=
  if bids.any (·.cls == 0) && 0 < x.ex.tokens then
    if x.exTurn bids f then some { x with ex := { x.ex with tokens := x.ex.tokens - 1 }, last := f.chan } else none
  else if f.cls == 0 then none
  else
    let rest := bids.filter (·.cls != 0)
    let own := rest.any (!·.transit)
    let barred := own && 4 ≤ x.recent.count true
    if barred && f.transit then none
    else
      let open_ := if barred then rest.filter (!·.transit) else rest
      match classTurn ([1, 2, 3].filter fun c => open_.any (·.cls == c)) x.weights with
      | some (c, weights) =>
        if c == f.cls then some { x with weights := weights, recent := ((own && f.transit) :: x.recent).take 15 } else none
      | none => none

/-- An output sends the flit in its next clock; its record afterwards. -/
def State.outTakes (s : State) (f : Flit) (o : Nat) : Option MeshPort :=
  let bids := s.bidders f.at_ o
  if f.transom then (s.meshOut o).transomTakes bids f else (s.meshOut o).meshTakes bids f

/-- An EX flit of the mesh that finds no token at an output waits, and is counted once there (R334). -/
def State.holdLink (s : State) (i : Nat) (f : Flit) : State :=
  if f.cls == 0 && !f.transom && !f.linkHeld && (s.flitOuts f).any (fun o => (s.meshOut o).ex.tokens == 0) then
    { s with mesh.flits := s.mesh.flits.set i { f with linkHeld := true } }.bump Fld.netExLinkHeldCount
  else s

/-- The copy of a flit for the members that it takes across in a direction. -/
def State.copyAcross (s : State) (f : Flit) (dir : Nat) : Option Flit :=
  let ms := f.members.filter fun m => s.meshExit f m == .cross dir
  if ms.isEmpty then none
  else (neighbour f.at_ dir).map fun n => s.meshCross { f with members := ms } n dir

/-- The link of a direction spoils the copy for its members, if it has any: the copy stays to be replayed (R315). -/
def State.meshStay (s : State) (f : Flit) (bad : Option Nat) (stay : List (Nat × Nat)) : State × List Flit :=
  match bad.bind fun dir => (neighbour f.at_ dir).map ((dir, ·)) with
  | some (dir, n) => if stay.isEmpty then (s, []) else ((s.meshReplay f n dir).1, [{ (s.meshReplay f n dir).2 with members := stay }])
  | none => (s, [])

/-- The `i`-th flit leaves its stop: a copy in each direction, but for the one whose link spoils it, where it stays to be replayed;
delivery at the stop's port; and what the stop discards (R315, R322, R325, R328). -/
def State.meshSend (s : State) (i : Nat) (f : Flit) (bad : Option Nat) : State :=
  let here (e : MeshExit) : List (Nat × Nat) := f.members.filter fun m => s.meshExit f m == e
  let stay : List (Nat × Nat) := match bad with | some dir => here (.cross dir) | none => []
  let copies := (List.range 4).filterMap fun dir => if bad == some dir then none else s.copyAcross f dir
  let r := s.meshStay f bad stay
  let s := { r.1 with mesh.flits := r.1.mesh.flits.take i ++ r.2 ++ r.1.mesh.flits.drop (i + 1) ++ copies }
  let s := if (here .lost).isEmpty then s else s.meshLost f (here .lost) f.at_
  let s := if (here .shut).isEmpty then s else s.shutDrop f (here .shut)
  (here .deliver).foldl (fun s m => s.meshArrive f m) s

/-- The `i`-th flit in flight goes on from its stop, if it stands first in its channel and each of its outputs sends it next. -/
def State.meshHop (s : State) (i : Nat) (bad : Option Nat) : State :=
  match s.mesh.flits[i]? with
  | none => s
  | some f =>
    if s.stopOut f.at_ || hopsMax < f.hops then s.meshLost f f.members f.at_
    else if !f.admitted then s.meshAdmit i f
    else if !s.chanHead i f || !s.roomAhead f then s
    else
      let outs := s.flitOuts f
      let taken := outs.filterMap fun o => (s.outTakes f o).map ((o, ·))
      if taken.length != outs.length then s.holdLink i f
      else { s with mesh.outs := taken.foldl (fun m (t : Nat × MeshPort) => SMap.put m t.1 t.2) s.mesh.outs }.meshSend i f bad

def execMeshFlitArrive (e : MeshEvent) (s : State) : Host.Outcome State Fault Refusal :=
  .next (s.clocked (match e with
    | .enter p => s.meshEnter p
    | .hop i bad => s.meshHop i (bad.map (·.val))))

/-- A tick's mesh clocks: 5, or 4 while the clocks run at the ÷5 setting (R313, R339). -/
def State.meshTick (s : State) : State :=
  { s with mesh.clock := s.mesh.clock + (if s.get Fld.timStatusDiv == 1 then 4 else 5) }

/-! ## The table switch (R323, R324) -/

/-- A write of ARM. -/
def State.netArm (s : State) (req : Requester) : State :=
  let t := s.get64 Reg.netSwitchTick
  if s.flag Fld.netTblStatusArmed then s.misuse req
  else if t < s.tick + armLead then (s.put Fld.netTblStatusLate 1).raiseMod srcNet 0x0504 1 t s.tick
  else s.put Fld.netTblStatusArmed 1

def execNetTblArm (req : Requester) (s : State) : Host.Outcome State Fault Refusal :=
  .next (s.write req Reg.netTblCtrl 2 fun s => s.netArm req)

/-- At the named tick. -/
def State.netSwitch (s : State) : State :=
  let t := s.get64 Reg.netSwitchTick
  if !s.flag Fld.netTblStatusArmed || s.tick < t then s else
  let new := 1 - s.netCopy
  let s := ((s.put Fld.netTblStatusArmed 0).put Fld.netTblCtrlActive new).put Fld.netTblStatusSwitched 1
  s.raiseMod srcNet 0x0503 0 t new

def execNetTblSwitch (s : State) : Host.Outcome State Fault Refusal := .next (s.clocked s.netSwitch)

/-- OLD_BUSY: packets stamped with the inactive copy are in flight (R324, R336). -/
def State.netOldBusy (s : State) : Bool :=
  (s.mesh.flits.any fun f => f.copy != s.netCopy) || s.cores.groups.any fun g => g.copy != s.netCopy

/-- A write of NET_SWITCH_TICK (R324). -/
def State.netTickWrite (s : State) (req : Requester) (v : Nat) : State :=
  if s.flag Fld.netTblStatusArmed then s.misuse req else s.put64 Reg.netSwitchTick v

/-- A write of the route register `i`: of the active copy, or of the other while OLD_BUSY, ignored; reserved values are counted
(R323, R335). -/
def State.routeWrite (s : State) (req : Requester) (i v : Nat) : State :=
  if i / 64 % 2 == s.netCopy || s.netOldBusy then s.misuse req else
  let odd := (List.range 4).any fun j => 6 ≤ field v (8 * j) 3 || field v (8 * j + 3) 2 == 3
  let s := if odd then s.misuse req else s
  s.wr (Reg.netRt i) (v &&& 0x1F1F1F1F)

/-! ## Merge nodes (R327, R335) -/

/-- Nodes of a stop that are in use, and the tiles that they reserve. -/
def State.nodesUp (s : State) (core : Nat) : List Nat := (List.range 16).filter fun i => s.flag (Fld.mrgNodeLoEn (16 * core + i))

def State.mergeTiles (s : State) (core : Nat) : Nat :=
  (s.nodesUp core).foldl (fun n i => n + s.get (Fld.mrgNodeLoGrain (16 * core + i)) + 1) 0

/-- Setting EN is refused (R335). -/
def State.nodeRefuses (s : State) (core node v : Nat) : Bool :=
  let c := s.get (Fld.mrgNodeHiContext (16 * core + node))
  let out := 16 * field v 12 4 + field v 8 4
  64 < s.mergeTiles core + field v 24 6 + 1 || (!bitAt v 23 && 16 ≤ field v 0 8) ||
    s.partAt out != some (s.partOf c)

/-- A merge node holds no partials, and both its sides have their credits (R327). -/
def State.nodeFresh (s : State) (k : Nat) : State :=
  { s with
    cores.merges := SMap.del s.cores.merges k
    cores.spent := s.cores.spent.filter fun x => x != sideKey k false && x != sideKey k true }

/-- A write of MRG_NODE_LO (R335): while EN is 1 nothing changes but by a write that clears EN. -/
def State.nodeWrite (s : State) (req : Requester) (core node v : Nat) : State :=
  let k := 16 * core + node
  if s.flag (Fld.mrgNodeLoEn k) then
    if bitAt v 31 then s else (s.wr (Reg.mrgNodeLo k) (v &&& 0x7FC0FFFF)).nodeFresh k
  else if bitAt v 31 && s.nodeRefuses core node v then (s.wr (Reg.mrgNodeLo k) (v &&& 0x7FC0FFFF)).misuse req
  else (s.wr (Reg.mrgNodeLo k) (v &&& 0xFFC0FFFF)).nodeFresh k

def execMrgNodeEnable (req : Requester) (core : CoreId) (node : SlotId) (v : BitVec 32) (s : State) :
    Host.Outcome State Fault Refusal :=
  let w := setBit v.toNat 31 true
  .next (s.write req (Reg.mrgNodeLo (16 * core.val + node.val)) w fun s => s.nodeWrite req core.val node.val w)

/-! ## Counters (R336) -/

def State.netCntClear (s : State) : State :=
  let s := s.clearAll [Fld.netExSrcHeldCount, Fld.netExLinkHeldCount, Fld.netShutDropCount, Fld.netLostCount,
    Fld.netUnreachCount, Fld.netLinkFencesCount]
  s.clearAll ((List.range 256).map Fld.netLinkErrRetry)

def execNetCntClear (req : Requester) (s : State) : Host.Outcome State Fault Refusal :=
  .next (s.write req Reg.netCntCtrl 1 fun s => s.netCntClear)

end Sys2Proof.Machine
end

