-- ==== Sys2Proof/Machine/Event.lean ====
section
/-!
DEFINITION. The event controller: intake, routing, queues, the pending store, coalescing, signals, level sources and alarm lines (R484
to R504).
-/
namespace Sys2Proof.Machine
open Sys2Proof

/-! ## Records and queues (R484, R491) -/

/-- A record's 32 bytes. -/
def Event.bytes (e : Event) : List Byte :=
  leBytes 8 e.tick ++
    leBytes 8 (e.sev * 2 ^ 12 + e.part * 2 ^ 16 + e.ctx * 2 ^ 24 + e.code * 2 ^ 32 + e.src * 2 ^ 48) ++
    leBytes 8 e.w2.toNat ++ leBytes 8 e.w3.toNat

def EvcQ.empty : EvcQ := ⟨[], none, [], 0, 0, 0, none, false, none⟩

def State.evq (s : State) (q : Nat) : EvcQ := SMap.getD s.evc.qs q .empty

def State.setEvq (s : State) (q : Nat) (x : EvcQ) : State := { s with evc.qs := SMap.putD s.evc.qs q x .empty }

def allQueues : List Nat := List.range 8

def State.gdis (s : State) : Bool := s.flag Fld.evcCtrlGdis

/-- Records of a queue's ring. -/
def State.evqSize (s : State) (q : Nat) : Nat :=
  let l := s.get (Fld.evcQCtrlSizeLog2 q)
  2 ^ (if l < 6 then 6 else if 15 < l then 15 else l)

/-- Records that a queue holds. -/
def State.evqCount (s : State) (q : Nat) : Nat :=
  (s.get (Fld.evcQTailIndex q) + 0x10000 - s.get (Fld.evcQHeadIndex q)) % 0x10000

/-- Records of a queue in the pending store; one that is being written is among them until its write completes. -/
def EvcQ.held' (x : EvcQ) : Nat := x.held.length + x.writing.isSome.toNat

/-- HELD of EVC_STATUS. -/
def State.evcHeld (s : State) : Nat := s.evc.qs.foldl (fun n p => n + p.2.held') 0

/-- The controller raises a record of its own (R312). -/
def State.evcRaise (s : State) (src code sev w2 w3 : Nat) : State :=
  { s with evc.inner := s.evc.inner ++ [⟨s.tick, src, code, 0xFF, 0xFF, sev, BitVec.ofNat 64 w2, BitVec.ofNat 64 w3⟩] }

/-! ## The service controller's log (R560) -/

/-- A record enters the log, of which the last 65,536 are kept. -/
def State.svcLog (s : State) (e : Event) : State :=
  { s with
    svc.log := (if 65536 ≤ s.svc.log.length then s.svc.log.drop 1 else s.svc.log) ++ [e]
    svc.logged := s.svc.logged + 1
    svc.worst := max s.svc.worst e.sev }

/-- The records of a queue that is signalled to the service controller are copied once. -/
def State.logQueue (s : State) (q : Nat) : State :=
  let x := s.evq q
  let s := (x.ring.filter fun r => !r.2).foldl (fun s r => s.svcLog r.1) s
  s.setEvq q { x with ring := x.ring.map fun (r : Event × Bool) => (r.1, true) }

/-- The service controller raises an event, and logs it (R560, R573). -/
def State.svcRaise (s : State) (code sev w2 w3 : Nat) : State :=
  let e : Event := ⟨s.tick, srcSvc, code, 0xFF, 0xFF, sev, BitVec.ofNat 64 w2, BitVec.ofNat 64 w3⟩
  (s.raiseMod srcSvc code sev w2 w3).svcLog e

/-! ## Signals (R495, R496) -/

/-- A supervisor is in service: it runs Druter, and its pane's stops are in service (R567, R569). -/
def State.supUp (s : State) (i : Nat) : Bool :=
  bitAt (s.get Fld.svcStatusSupValid) i && !s.flag Fld.svcStatusDruterDown && !s.stopOut (coreOf (field (s.rd Reg.svcSup) (8 * i) 8 % 64) 0)

/-- The next enabled target after one, in cyclic index order. -/
def State.nextTarget (s : State) (q after : Nat) : Option Nat :=
  ((List.range 9).map fun d => (after + 1 + d) % 9).find? fun t =>
    bitAt (s.get (Fld.evcQTgtEn q)) t && (4 ≤ t || s.supUp t)

/-- Ticks of a number of microseconds. -/
def usTicks (n : Nat) : Nat := 250 * n

/-- Send a queue's signal; with no target in service, the condition stays pending (R496). -/
def State.evcSignal (s : State) (q : Nat) : State :=
  let x := s.evq q
  match s.nextTarget q (s.get (Fld.evcQTgtLast q)) with
  | none => (s.put (Fld.evcQStatSignalled q) 0).setEvq q { x with due := true, ack := none }
  | some t =>
    let us := s.get (Fld.evcQAckValue q)
    let s := s.setEvq q { x with count := 0, timer := none, due := false, ack := if us == 0 then none else some (usTicks us) }
    let s := (s.put (Fld.evcQStatSignalled q) 1).put (Fld.evcQTgtLast q) t
    let s := if t == 4 then s.logQueue q else s
    if t < 5 then s.emit (.signal q t)
    else s.addReq 0xFF (.ring q) ptDoorbell 1 0 (s.get64 (Reg.evcQDb q (t - 5)))
      (s.get (Fld.evcQTailIndex q) * 2 ^ 16 + q) []

/-- R495: the queue signals if a condition holds. A queue whose TGT mask is 0 is never signalled. -/
def State.evcJudge (s : State) (q : Nat) : State :=
  let x := s.evq q
  if !s.gdis && !s.flag (Fld.evcQStatSignalled q) && s.get (Fld.evcQTgtEn q) != 0 &&
      (x.due || s.get (Fld.evcQCoalCount q) + 1 ≤ x.count) then s.evcSignal q else s

/-! ## Level sources (R494, R498, R501) -/

/-- Level sources: the alarm lines and watermarks by source ID, THERM_HIGH and INPUT_CAP by 2^16 + code (R494, R501, R533, R544). -/
def lvlTherm : Nat := 0x10C03
def lvlInput : Nat := 0x10C06

/-- What a level source would report now: code, severity and words; none while it is not asserted. -/
def State.levelSample (s : State) (src : Nat) : Option (Nat × Nat × Nat × Nat) :=
  if src == lvlTherm then
    let r := s.get Fld.pwrStatusHottest
    if s.flag Fld.pwrStatusThermHigh then some (0x0C03, 2, r + s.get (Fld.pwrRTel1Temp r) * 2 ^ 16, 0) else none
  else if src == lvlInput then
    if s.flag Fld.pwrStatusInputCap then
      some (0x0C06, 2, s.get Fld.pwrInCurrent + s.get Fld.pwrStatusCommonPace * 2 ^ 16, s.get Fld.pwrInWPower) else none
  else if src < 0x1288 then
    let a := src - 0x1280
    let sev := s.get (Fld.evcAlmCfgSev a)
    if s.flag (Fld.evcAlmCfgEn a) && s.flag (Fld.evcAlmCfgMode a) && s.flag (Fld.evcAlmStatTaken a) then
      some (3, min sev 4, a + 2 ^ 8 + 2 ^ 9, s.get (Fld.evcAlmGlitchCount a)) else none
  else
    let q := src - 0x1288
    let w := s.get (Fld.evcQWmarkValue q)
    if w != 0 && w ≤ s.evqCount q then some (2, 1, q + s.evqCount q * 2 ^ 16, w) else none

/-- A level source raises its record if it is asserted and has none outstanding. -/
def State.levelRaise (s : State) (src : Nat) : State :=
  if (SMap.get? s.evc.levels src).isSome then s else
  match s.levelSample src with
  | none => s
  | some (code, sev, w2, w3) =>
    let s := { s with evc.levels := SMap.put s.evc.levels src none }
    if src < 0x10000 then s.evcRaise src code sev w2 w3 else s.svcRaise code sev w2 w3

/-- The level source that a record is of. -/
def Event.level (e : Event) : Option Nat :=
  if 0x1288 ≤ e.src && e.src < 0x1290 then some e.src
  else if 0x1280 ≤ e.src && e.src < 0x1288 && bitAt e.w2.toNat 9 then some e.src
  else if e.src == srcSvc && (e.code == 0x0C03 || e.code == 0x0C06) then some (0x10000 + e.code)
  else none

/-- DONE of a queue: sources whose outstanding record there lies behind HEAD are sampled again. -/
def State.resample (s : State) (q : Nat) : State :=
  let head := s.get (Fld.evcQHeadIndex q)
  (s.evc.levels.filter fun l => match l.2 with
    | some (k, i) => k == q && s.evqCount q ≤ (i + 0x10000 - head) % 0x10000
    | none => false).foldl (fun s l => { s with evc.levels := SMap.del s.evc.levels l.1 }.levelRaise l.1) s

/-! ## Writing records (R491 to R493) -/

/-- A record lies in its slot: TAIL rises, and what follows from a written record. -/
def State.evcWritten (s : State) (q : Nat) (e : Event) : State :=
  let tail := s.get (Fld.evcQTailIndex q)
  let s := s.put (Fld.evcQTailIndex q) (tail + 1)
  let s := match e.level with
    | some k => { s with evc.levels := SMap.put s.evc.levels k (some (q, tail)) }
    | none => s
  let x := s.evq q
  let now := s.get (Fld.evcQCtrlSevNow q)
  let s := s.setEvq q { x with
    ring := x.ring ++ [(e, false)]
    count := x.count + 1
    timer := if x.count == 0 then some (usTicks (max 1 (s.get (Fld.evcQCoalTimeUs q)))) else x.timer
    due := x.due || (now != 0 && now ≤ e.sev) }
  (s.levelRaise (0x1288 + q)).evcJudge q

/-- A ring write fails: the queue stops, and its record waits ahead of the others (R493). -/
def State.evcFail (s : State) (q : Nat) (e : Event) : State :=
  let x := s.evq q
  let s := (s.setEvq q { x with held := e :: x.held }).put (Fld.evcQStatFault q) 1
  s.evcRaise srcEvc 5 2 q (s.get (Fld.evcQTailIndex q))

/-- Write a record into slot TAIL: into a T1 slice at once, to a global address through the Virbael endpoint under job 0 (R389,
R491). -/
def State.evcPut (s : State) (q : Nat) (e : Event) : State :=
  let base := s.get64 (Reg.evcQBase q)
  let off := 32 * (s.get (Fld.evcQTailIndex q) % s.evqSize q)
  if s.flag (Fld.evcQCtrlKind q) then
    (s.setEvq q { s.evq q with writing := some (e, false) }).addReq 0xFF (.record q) ptWr 1 0 (base + off) 32 e.bytes
  else
    let core := field base 29 8
    if s.fenced core then s.evcFail q e
    else
      let m := s.mem.store (coreKey true core (base % 2 ^ 29 + off)) e.bytes fun _ => false
      { s with mem := m }.evcWritten q e

/-- EVC_LOST of records that a queue has dropped (R492). -/
def State.evcLost (s : State) (q n t : Nat) : Event :=
  ⟨s.tick, srcEvc, 1, 0xFF, 0xFF, 2, BitVec.ofNat 64 (n % 2 ^ 32 + q * 2 ^ 32), BitVec.ofNat 64 t⟩

/-- Write held records while the queue takes them. -/
def State.evcDrain : Nat → State → Nat → State
  | 0, s, _ => s
  | fuel + 1, s, q =>
    let x := s.evq q
    if s.gdis || !s.flag (Fld.evcQCtrlEn q) || s.flag (Fld.evcQStatFault q) || x.writing.isSome ||
        s.evqSize q ≤ s.evqCount q then s
    else
      match x.held with
      | [] => s
      | e :: rest =>
        if x.lost != 0 then
          ((s.setEvq q { x with lost := 0, lostTick := 0 }).evcPut q (s.evcLost q x.lost x.lostTick)).evcDrain fuel q
        else ((s.setEvq q { x with held := rest }).evcPut q e).evcDrain fuel q

def State.evcPump (s : State) (q : Nat) : State := s.evcDrain ((s.evq q).held.length + 2) q

/-- A record is discarded and counted (R492). -/
def State.evcDrop (s : State) (q : Nat) (e : Event) : State :=
  let x := s.evq q
  let s := s.setEvq q { x with lost := x.lost + 1, lostTick := if x.lost == 0 then e.tick else x.lostTick }
  (s.bump (Fld.evcQDropCount q)).bump Fld.evcDroppedCount

/-- A record for a queue: it waits in the pending store behind those before it, and is written when the queue takes it; it is
discarded where the queue is off, or the store is full (R492). -/
def State.evcFile (s : State) (q : Nat) (e : Event) : State :=
  let x := s.evq q
  if !s.gdis && !s.flag (Fld.evcQCtrlEn q) then s.evcDrop q e
  else
    let free := !s.gdis && x.held.isEmpty && x.writing.isNone && !s.flag (Fld.evcQStatFault q) && s.evqCount q < s.evqSize q
    if !free && 4096 ≤ s.evcHeld then s.evcDrop q e
    else (s.setEvq q { x with held := x.held ++ [e] }).evcPump q

/-- R489: the queue of a record, by its partition or by its source's entry. -/
def State.evcQueue (s : State) (e : Event) : Option Nat :=
  if e.part < 32 && s.flag (Fld.evcPartQEn e.part) then some (s.get (Fld.evcPartQQ e.part))
  else
    let n := field (s.rd (Reg.evcSrc (e.src / 8))) (4 * (e.src % 8)) 4
    if 8 ≤ n then some (n - 8) else none

def State.evcRoute (s : State) (e : Event) : State :=
  match s.evcQueue e with
  | some q => s.evcFile q e
  | none => s.bump Fld.evcMaskedCount

/-- The controller's own records are routed in turn. -/
def State.evcSettle : Nat → State → State
  | 0, s => s
  | fuel + 1, s =>
    match s.evc.inner with
    | [] => s
    | e :: rest => ({ s with evc.inner := rest }.evcRoute e).evcSettle fuel

/-- Writes of records to global addresses that have completed (R491, R493). -/
def State.evcEnded (s : State) : State :=
  s.vbl.ended.foldl (fun s d =>
    let q := d.1
    let x := s.evq q
    if d.2.1 then s else
    match x.writing with
    | none => s
    | some (e, anew) =>
      let s := s.setEvq q { x with writing := none }
      if anew then (s.setEvq q { s.evq q with held := e :: (s.evq q).held }).evcPump q
      else if d.2.2 == vOk then (s.evcWritten q e).evcPump q
      else s.evcFail q e) { s with vbl.ended := [] }

/-- A signal held by a supervisor that has left service passes on with ACK_US 0, and one that waited for a target goes out (R496,
R497). -/
def State.supCheck (s : State) : State :=
  allQueues.foldl (fun s q =>
    let last := s.get (Fld.evcQTgtLast q)
    if s.flag (Fld.evcQStatSignalled q) then
      if !s.gdis && s.get (Fld.evcQAckValue q) == 0 && last < 4 && !s.supUp last then s.evcSignal q else s
    else s.evcJudge q) s

/-- What the controller does of itself after a happening. -/
def State.evcFlow (s : State) : State := (s.evcEnded.supCheck).evcSettle 64

/-- A tick passes: the timers run while GDIS is 0 (R495, R497, R499). -/
def State.evcTick (s : State) : State :=
  if s.gdis then s.evcFlow
  else { s with evc.qs := s.evc.qs.map fun (p : Nat × EvcQ) =>
      (p.1, { p.2 with timer := p.2.timer.map (· - 1), ack := p.2.ack.map (· - 1) }) }.evcFlow

/-! ## Commands -/

/-- No report of a source reaches the controller: both attachments of the wafer block are out of service, and the report needs one; the
controller's own records and those of its alarm lines and queue watermarks do not (R312). -/
def State.intakeOut (s : State) (src : Nat) : Bool :=
  s.stopOut (attachment false) && s.stopOut (attachment true) && src != srcEvc && !(srcAlarm 0 ≤ src && src < srcSvc)

/-- EVENT_REPORT: the oldest record that a source holds is accepted; a source that lost records reports it next (R488, R489). -/
def State.eventReport (s : State) (src : Nat) : State :=
  match s.raised.find? fun e => e.src == src with
  | none => s
  | some e =>
    if s.intakeOut src then s else
    let s := { s with raised := s.raised.erase e }
    let s := match SMap.get? s.lost src with
      | none => s
      | some (n, t) => { s with lost := SMap.del s.lost src }.raiseMod src 1 2 (n % 2 ^ 32 + 2 ^ 35) t
    (s.evcRoute e).evcFlow

def execEventReport (src : BitVec 16) (s : State) : Host.Outcome State Fault Refusal := .next (s.clocked (s.eventReport src.toNat))

/-- COALESCE_TIMEOUT: TIME_US has passed since the first record written (R495). -/
def State.coalesce (s : State) (q : Nat) : State :=
  let x := s.evq q
  if x.timer == some 0 && !s.gdis then ((s.setEvq q { x with timer := none, due := true }).evcJudge q).evcFlow else s

def execCoalesceTimeout (q : QueueId) (s : State) : Host.Outcome State Fault Refusal := .next (s.clocked (s.coalesce q.val))

/-- A write of GDIS: when it clears, each queue's held records are written in order, those of a queue that is off are discarded, and
each queue is judged (R492, R499). -/
def State.gdisWrite (s : State) (v : Nat) : State :=
  let s := s.put Fld.evcCtrlGdis v
  if s.gdis then s else
  (allQueues.foldl (fun s q =>
    if s.flag (Fld.evcQCtrlEn q) then (s.evcPump q).evcJudge q
    else
      let x := s.evq q
      x.held.foldl (fun s e => s.evcDrop q e) (s.setEvq q { x with held := [] })) s).evcFlow

def execEvcGdisWrite (req : Requester) (v : BitVec 32) (s : State) : Host.Outcome State Fault Refusal :=
  .next (s.write req Reg.evcCtrl v.toNat fun s => s.gdisWrite v.toNat)

/-- The ring of a queue fits (R491). -/
def State.ringFits (s : State) (q : Nat) (kind : Bool) (sizeLog2 : Nat) : Bool :=
  let base := s.get64 (Reg.evcQBase q)
  let l := if sizeLog2 < 6 then 6 else if 15 < sizeLog2 then 15 else sizeLog2
  base % 4096 == 0 && (kind || base % 2 ^ 29 + 32 * 2 ^ l ≤ 2 ^ 29)

/-- A write of EVC_Qn_CTRL: KIND and SIZE_LOG2 stay while EN is 1; setting EN empties the ring and restarts the queue, or is refused
(R491, R493, R502). -/
def State.evqCtrlWrite (s : State) (req : Requester) (q v : Nat) : State :=
  let kind := bitAt v 30
  let size := field v 16 4
  let s := s.put (Fld.evcQCtrlSevNow q) (field v 24 4)
  if s.flag (Fld.evcQCtrlEn q) then
    let s := if kind != s.flag (Fld.evcQCtrlKind q) || size != s.get (Fld.evcQCtrlSizeLog2 q) then s.misuse req else s
    s.put (Fld.evcQCtrlEn q) (v / 2 ^ 31)
  else
    let s := (s.put (Fld.evcQCtrlKind q) kind.toNat).put (Fld.evcQCtrlSizeLog2 q) size
    if !bitAt v 31 then s
    else if !s.ringFits q kind size then s.misuse req
    else
      let x := s.evq q
      let s := ((s.put (Fld.evcQHeadIndex q) 0).put (Fld.evcQTailIndex q) 0).put (Fld.evcQStatFault q) 0
      let s := (s.put (Fld.evcQCtrlEn q) 1).setEvq q { x with
        ring := [], count := 0, timer := none, due := false, writing := x.writing.map fun (w : Event × Bool) => (w.1, true) }
      (s.evcPump q).evcFlow

def execEvcQueueEnable (req : Requester) (q : QueueId) (v : BitVec 32) (s : State) : Host.Outcome State Fault Refusal :=
  let w := setBit v.toNat 31 true
  .next (s.write req (Reg.evcQCtrl q.val) w fun s => s.evqCtrlWrite req q.val w)

/-- A write of HEAD: one that would increase the count is ignored (R491). -/
def State.evqHeadWrite (s : State) (req : Requester) (q v : Nat) : State :=
  if s.evqCount q < (s.get (Fld.evcQTailIndex q) + 0x10000 - v % 0x10000) % 0x10000 then s.misuse req
  else
    let x := s.evq q
    let n := (v + 0x10000 - s.get (Fld.evcQHeadIndex q)) % 0x10000
    let s := s.setEvq q { x with ring := x.ring.drop n }
    ((s.put (Fld.evcQHeadIndex q) v).evcPump q).evcFlow

def execEvcHeadWrite (req : Requester) (q : QueueId) (v : BitVec 32) (s : State) : Host.Outcome State Fault Refusal :=
  .next (s.write req (Reg.evcQHead q.val) v.toNat fun s => s.evqHeadWrite req q.val v.toNat)

/-- DONE (R497). -/
def State.evqDone (s : State) (q : Nat) : State :=
  let was := s.flag (Fld.evcQStatSignalled q)
  let s := (s.put (Fld.evcQStatSignalled q) 0).resample q
  if !was then s.evcFlow
  else
    let s := s.setEvq q { s.evq q with count := 0, timer := none, due := decide (0 < s.evqCount q), ack := none }
    (s.evcJudge q).evcFlow

def execEvcDone (req : Requester) (q : QueueId) (s : State) : Host.Outcome State Fault Refusal :=
  .next (s.write req (Reg.evcQDone q.val) 1 fun s => s.evqDone q.val)

/-- TARGET_TIMEOUT: SIGNALLED has stayed 1 for ACK_US (R497). -/
def State.targetTimeout (s : State) (q : Nat) : State :=
  if (s.evq q).ack == some 0 && s.flag (Fld.evcQStatSignalled q) && !s.gdis then
    let s := s.evcRaise srcEvc 4 2 (q + s.get (Fld.evcQTgtLast q) * 2 ^ 8) (s.get (Fld.evcQTailIndex q))
    ((s.bump (Fld.evcQRedeliverCount q)).evcSignal q).evcFlow
  else s

def execTargetTimeout (q : QueueId) (s : State) : Host.Outcome State Fault Refusal := .next (s.clocked (s.targetTimeout q.val))

/-- ALARM: a line is sampled at a level in so many consecutive transom clocks. A level that differs from the taken one is taken after
FILTER of them; one that goes back before is a glitch (R500, R501). -/
def State.alarm (s : State) (a : Nat) (raw : Bool) (clocks : Nat) : State :=
  if clocks == 0 then s else
  let active := raw != s.flag (Fld.evcAlmCfgPol a)
  let run := SMap.getD s.evc.alarms a 0
  let s := s.put (Fld.evcAlmStatRaw a) raw.toNat
  if active == s.flag (Fld.evcAlmStatTaken a) then
    if run == 0 then s else { s with evc.alarms := SMap.del s.evc.alarms a }.bump (Fld.evcAlmGlitchCount a)
  else if run + clocks < max 1 (s.get (Fld.evcAlmCfgFilter a)) then
    { s with evc.alarms := SMap.put s.evc.alarms a (run + clocks) }
  else
    let s := { s with evc.alarms := SMap.del s.evc.alarms a }.put (Fld.evcAlmStatTaken a) active.toNat
    if !s.flag (Fld.evcAlmCfgEn a) then s
    else if s.flag (Fld.evcAlmCfgMode a) then (s.levelRaise (srcAlarm a)).evcFlow
    else (s.evcRaise (srcAlarm a) 3 (min (s.get (Fld.evcAlmCfgSev a)) 4) (a + active.toNat * 2 ^ 8)
      (s.get (Fld.evcAlmGlitchCount a))).evcFlow

def execAlarm (line : Fin 8) (raw : Bool) (clocks : Fin 65536) (s : State) : Host.Outcome State Fault Refusal :=
  .next (s.clocked (s.alarm line.val raw clocks.val))

/-- EVC_CNT_CLEAR: every counter of blocks 4 and 6 (R503). -/
def State.evcCntClear (s : State) : State :=
  s.clearAll ([Fld.evcMaskedCount, Fld.evcDroppedCount] ++
    allQueues.flatMap fun q => [Fld.evcQDropCount q, Fld.evcQRedeliverCount q, Fld.evcAlmGlitchCount q])

def execEvcCntClear (req : Requester) (s : State) : Host.Outcome State Fault Refusal :=
  .next (s.write req Reg.evcCntCtrl 1 fun s => s.evcCntClear)

end Sys2Proof.Machine
end

