-- ==== Sys2Proof/Machine/Vault.lean ====
section
/-!
DEFINITION. The dual-bank store: its slots and records, the sections that the service controller writes, and the key slots loaded from
it (R283, R563 to R565).
-/
namespace Sys2Proof.Machine
open Sys2Proof

/-! ## Slots and records (R563) -/

def secRepair : Nat := 1
def secKeys : Nat := 3
def secBoot : Nat := 5
def secStop : Nat := 6
def secMgmt : Nat := 7

/-- The valid record with the highest SEQ, with its slot as 256 × bank + slot. -/
def State.newest (s : State) : Option (Nat × StoreRec) :=
  s.svc.store.foldl (fun best p =>
    match p.2.record, best with
    | some r, some (_, b) => if b.seq < r.seq then some (p.1, r) else best
    | some r, none => some (p.1, r)
    | none, _ => best) none

/-- A section of the store's contents; none where there is none. -/
def State.section? (s : State) (t : Nat) : Option (List Byte) :=
  s.newest.bind fun r => SMap.get? r.2.sections t

/-- The erased slots of a bank, in ascending order. -/
def State.erased (s : State) (bank : Nat) : List Nat :=
  (List.range 256).filter fun k => (SMap.get? s.svc.store (256 * bank + k)).isNone

/-- The bank that a write goes to: not the one of the newest valid record. -/
def State.writeBank (s : State) : Nat :=
  match s.newest with
  | some (k, _) => 1 - k / 256
  | none => 0

/-- The oldest programmed slot of a bank. -/
def State.oldestSlot (s : State) (bank : Nat) : Option Nat :=
  ((s.svc.store.filter fun p => p.1 / 256 == bank).foldl (fun (o : Option (Nat × Nat)) p =>
    match o with
    | some (_, a) => if p.2.order < a then some (p.1, p.2.order) else o
    | none => some (p.1, p.2.order)) none).map (·.1)

/-- Erase the oldest slots of a bank until it holds four erased ones. -/
def State.eraseOld : Nat → Nat → State → State
  | 0, _, s => s
  | fuel + 1, bank, s =>
    if 4 ≤ (s.erased bank).length then s else
    match s.oldestSlot bank with
    | some k => State.eraseOld fuel bank { s with svc.store := SMap.del s.svc.store k }
    | none => s

/-- SVC_STORE and SVC_STORE_STAT (R572). -/
def State.storeReport (s : State) : State :=
  let bank := match s.newest with | some (k, _) => k / 256 | none => 0
  let seq := match s.newest with | some (_, r) => r.seq | none => 0
  let s := (s.put Fld.svcStoreSeq seq).put Fld.svcStoreStatBank bank
  (s.put Fld.svcStoreStatErased (min 255 (s.erased (1 - bank)).length)).put Fld.svcStoreStatBusy
    (if s.svc.writes.isEmpty then 0 else 1)

/-- Program a slot, with a record or with a write that was cut off. -/
def State.program (s : State) (k : Nat) (r : Option StoreRec) : State :=
  { s with
    svc.store := SMap.put s.svc.store k ⟨s.svc.order, r⟩
    svc.order := s.svc.order + 1 }

/-! ## REPAIR_MAP (R565) -/

/-- Region 6n + k of a core position 5n + k (R50, R527). -/
def posRegion (pos : Nat) : Nat := 6 * (pos / 5) + pos % 5

/-- Bytes cut or padded with a value to a length. -/
def fitTo (n : Nat) (v : Byte) (l : List Byte) : List Byte := (l ++ List.replicate (n - l.length) v).take n

/-- STATE codes of a region (R539). -/
def regOff : Nat := 0
def regRamping : Nat := 1
def regOn : Nat := 2
def regShutting : Nat := 3
def regSagged : Nat := 4

def State.regState (s : State) (r : Nat) : Nat := s.get (Fld.pwrRStatState r)

/-- The 96-byte record of a position. -/
def State.posRecord (s : State) (pos : Nat) : List Byte :=
  let r := posRegion pos
  let x := s.position pos
  leBytes 1 (s.get (Fld.ptcPosStatFailed pos) + 2 * s.get (Fld.ptcPosStatSuspect pos) + 4 * s.get (Fld.pwrRStatCapped r) +
      (if s.regState r == regSagged then 8 else 0)) ++
    leBytes 1 (s.get (Fld.pwrRStatTrim r)) ++ leBytes 2 (s.get (Fld.pwrRRconBaseline r)) ++
    leBytes 2 (s.get (Fld.ptcPosTimeClean pos)) ++ leBytes 2 (s.get (Fld.ptcPosTimeSinceScan pos)) ++
    fitTo 48 0xFF#8 (x.bad.flatMap (leBytes 2)) ++ fitTo 4 0xFF#8 x.banks ++ leBytes 4 0 ++
    fitTo 32 0#8 x.rows

/-- The 512-byte entry of a pane. -/
def State.paneRecord (s : State) (n : Nat) : List Byte :=
  let r := 6 * n + 5
  leBytes 2 (s.rd (Reg.pswMap n)) ++
    leBytes 1 ((s.stopOut (coreOf n 0)).toNat + 2 * s.get (Fld.pwrRStatCapped r) + (if s.regState r == regSagged then 4 else 0)) ++
    leBytes 1 (s.get (Fld.pwrRStatTrim r)) ++ leBytes 2 (s.get (Fld.pwrRRconBaseline r)) ++ leBytes 10 0 ++
    ((List.range 5).flatMap fun k => s.posRecord (5 * n + k)) ++ leBytes 16 0

/-- REPAIR_MAP as it stands: the module entry, with the ports that have failed, and the panes. -/
def State.repairMap (s : State) : List Byte :=
  let failed := (allPorts.filter fun p => s.portState p == 8).foldl (fun n p => n + 2 ^ p) 0
  leBytes 2 (s.get Fld.migChanUpUp) ++ leBytes 6 0 ++ leBytes 10 failed ++ leBytes 46 0 ++
    (List.range 64).flatMap s.paneRecord

/-! ## Commits (R563, R571) -/

/-- Sections as a record takes them. -/
def State.freshSections (s : State) (w : SMap (List Byte)) : SMap (List Byte) :=
  let old := match s.newest with | some (_, r) => r.sections | none => []
  let all := w.foldl (fun m p => SMap.put m p.1 p.2) old
  if (SMap.get? w secRepair).isSome then SMap.put all secRepair s.repairMap else all

/-- Word 2 of STORE_FAIL (R573). -/
def failWord (k seq : Nat) : Nat := k / 256 + k % 256 * 2 ^ 8 + seq * 2 ^ 32

/-- The committed KEYS section fills the key slots (R283, R564). -/
def State.loadKeys (s : State) : State :=
  match s.section? secKeys with
  | none => s
  | some b =>
    (List.range 16).foldl (fun (s : State) i =>
      let e := (b.drop (104 * i)).take 104
      let st := leAt e 4 1 % 4
      let s := (s.wr (Reg.lvrKeyId i) (leAt e 0 4)).wr Reg.lvrKeyState (setField (s.rd Reg.lvrKeyState) (2 * i) 2 st)
      { s with keys := if st == 0 then SMap.del s.keys i else SMap.put s.keys i (e.drop 8) }) s

/-- Write a record at once: it commits, and the other bank's oldest slots are erased; with SEQ exhausted it is refused. The answer
says whether it committed. -/
def State.storeCommit (s : State) (w : SMap (List Byte)) : State × Bool :=
  let seq := match s.newest with | some (_, r) => r.seq + 1 | none => 1
  let bank := s.writeBank
  match (s.erased bank).head? with
  | none => (s.svcRaise 0x0D04 3 (failWord (256 * bank) seq) 1, false)
  | some slot =>
    if 0xFFFFFFFF < seq then (s.svcRaise 0x0D04 3 (failWord (256 * bank + slot) 0xFFFFFFFF) 2, false)
    else
      let s := s.program (256 * bank + slot) (some ⟨seq, s.freshSections w⟩)
      let s := State.eraseOld 256 (1 - bank) s
      let s := if (SMap.get? w secKeys).isSome then s.loadKeys else s
      (s.storeReport, true)

/-- A write joins those that wait. -/
def State.storeWrite (s : State) (w : SMap (List Byte)) : State :=
  { s with svc.writes := s.svc.writes ++ [w] }.storeReport

/-- REPAIR_MAP is to be written again (R565). -/
def State.repairWrite (s : State) : State := s.storeWrite [(secRepair, [])]

/-- Every write that waits commits now, in order. -/
def State.storeFlush (s : State) : State :=
  (s.svc.writes.foldl (fun (s : State) w => (s.storeCommit w).1) { s with svc.writes := [] }).storeReport

/-- STORE_COMMIT: the oldest waiting write commits, or its slot fails to program and the write waits for the next slot. -/
def State.storeStep (s : State) (ok : Bool) : State :=
  match s.svc.writes with
  | [] => s
  | w :: rest =>
    if ok then (State.storeCommit { s with svc.writes := rest } w).1.storeReport
    else
      let seq := match s.newest with | some (_, r) => r.seq + 1 | none => 1
      let bank := s.writeBank
      match (s.erased bank).head? with
      | none => s
      | some slot => ((s.program (256 * bank + slot) none).svcRaise 0x0D04 3 (failWord (256 * bank + slot) seq) 1).storeReport

def execStoreCommit (ok : Bool) (s : State) : Host.Outcome State Fault Refusal := .next (s.storeStep ok).evcFlow

/-- BOOT in the store (R564). -/
def State.bootStored (s : State) : Nat := ((s.section? secBoot).map fun b => leAt b 0 2).getD 0

/-- A STOP section (R564). -/
def stopSection (boot cause tick : Nat) : List Byte :=
  leBytes 2 boot ++ leBytes 2 0 ++ leBytes 1 cause ++ leBytes 3 0 ++ leBytes 8 tick

end Sys2Proof.Machine
end

