-- ==== Sys2Proof/Machine/Region.lean ====
section
/-!
DEFINITION. Regulator regions: their states, pace and droop, and the telemetry registers (R532, R536 to R542, R544, R547).
-/
namespace Sys2Proof.Machine
open Sys2Proof

def allRegions : List Nat := List.range 384

/-! ## Pace (R538) -/

/-- A temperature field in 1/16 °C as a signed number. -/
def tempOf (f : Nat) : Int := toSigned 16 f

/-- Thermal pace: 16 below 90 °C, and 16 − floor(2 (T − 90 °C)) from there, at least 4. -/
def thermalPace (t : Int) : Nat :=
  if t < 1440 then 16 else max 4 (16 - ((t - 1440) / 8).toNat)

/-- Common pace of core-position regions: that of the input cap, at most 8 under the coolant cap (R533, R546). -/
def State.commonPace (s : State) : Nat := if s.flag Fld.pwrStatusCoolCap then min 8 s.pwr.inPace else s.pwr.inPace

/-- The pace in force in a region. -/
def State.paceOf (s : State) (r : Nat) : Nat :=
  let own := min (thermalPace (tempOf (s.get (Fld.pwrRTel1Temp r)))) (SMap.getD s.pwr.curPace r 16)
  if r % 6 == 5 then own else min own s.commonPace

/-- PACE follows: the pace in force while ON, otherwise 0. -/
def State.paceReport (s : State) (r : Nat) : State :=
  s.put (Fld.pwrRStatPace r) (if s.regState r == regOn then s.paceOf r else 0)

def State.paceAll (s : State) : State :=
  (allRegions.filter fun r => s.regState r == regOn).foldl State.paceReport (s.put Fld.pwrStatusCommonPace s.commonPace)

/-! ## Switching (R539 to R541) -/

/-- Regions that are RAMPING. -/
def State.ramping (s : State) : Nat := (allRegions.filter fun r => s.regState r == regRamping).length

/-- VCORE of a region that enters a state: it starts with RAMPING or ON, and ends with any other state (R535). -/
def State.vcoreEnter (s : State) (r st : Nat) : State :=
  if st == regRamping || st == regOn then (if s.powered r then s else s.vcoreStart r)
  else { s with pwr.vcore := SMap.del s.pwr.vcore r }

/-- A region changes its state. -/
def State.regEnter (s : State) (r st : Nat) : State :=
  ({ s.vcoreEnter r st with pwr.floorAt := SMap.del s.pwr.floorAt r }.put (Fld.pwrRStatState r) st).paceReport r

/-- A region that is to be ON and is OFF: it ramps, or waits with PENDING_ON for its off time or its turn. -/
def State.regWant (s : State) (r : Nat) : State :=
  if s.regState r == regOff && !s.pwr.offWait.contains r && s.ramping < 16 then s.regEnter r regRamping
  else s.put (Fld.pwrRStatPendingOn r) 1

/-- The waiting regions ramp in ascending number while fewer than 16 do. -/
def State.rampNext (s : State) : State :=
  (allRegions.filter fun r => s.flag (Fld.pwrRStatPendingOn r)).foldl (fun s r =>
    if s.regState r == regOff && s.flag (Fld.pwrRCtrlEn r) && !s.pwr.offWait.contains r && s.ramping < 16
    then s.regEnter r regRamping else s) s

/-- EN is set. -/
def State.enSet (s : State) (r : Nat) : State :=
  let s := s.put (Fld.pwrRCtrlEn r) 1
  let st := s.regState r
  if st == regOff || st == regShutting then s.regWant r else s

/-- EN is cleared. -/
def State.enClear (s : State) (r : Nat) : State :=
  let s := (s.put (Fld.pwrRCtrlEn r) 0).put (Fld.pwrRStatPendingOn r) 0
  let st := s.regState r
  if st == regOn || st == regRamping then (s.regEnter r regShutting).rampNext else s

/-- RAMP_DONE: 2 µs after the first stage. -/
def State.rampDone (s : State) (r : Nat) : State :=
  if s.regState r != regRamping then s else ((s.put (Fld.pwrRStatPendingOn r) 0).regEnter r regOn).rampNext

def execRampDone (r : RegionId) (s : State) : Host.Outcome State Fault Refusal := .next (s.rampDone r.val)

/-- SHUTDOWN_DONE: 1 µs after SHUTTING; the minimum off time begins. -/
def State.shutdownDone (s : State) (r : Nat) : State :=
  if s.regState r != regShutting then s
  else { s with pwr.offWait := s.pwr.offWait ++ [r] }.regEnter r regOff

def execShutdownDone (r : RegionId) (s : State) : Host.Outcome State Fault Refusal := .next (s.shutdownDone r.val)

/-- MIN_OFF_EXPIRY. -/
def State.minOffExpiry (s : State) (r : Nat) : State := { s with pwr.offWait := s.pwr.offWait.filter (· != r) }.rampNext

def execMinOffExpiry (r : RegionId) (s : State) : Host.Outcome State Fault Refusal := .next (s.minOffExpiry r.val)

/-- A region is ON at once, as bring-up and a completed change leave it. -/
def State.regOnNow (s : State) (r : Nat) : State :=
  ({ s with pwr.offWait := s.pwr.offWait.filter (· != r) }.put (Fld.pwrRCtrlEn r) 1
    |>.put (Fld.pwrRStatPendingOn r) 0).regEnter r regOn

/-! ## Droop (R536) -/

/-- DROOP_TRIP: a detector trips; `floor` says that the clock's period reaches the floor. -/
def State.droopTrip (s : State) (r : Nat) (floor : Bool) : State :=
  if s.regState r != regOn && s.regState r != regRamping then s else
  let s := s.bump (Fld.pwrRCntDroops r)
  if floor && (SMap.get? s.pwr.floorAt r).isNone then
    { s with pwr.floorAt := SMap.put s.pwr.floorAt r s.tick }.bump (Fld.pwrRCntFloors r)
  else s

def execDroopTrip (r : RegionId) (floor : Bool) (s : State) : Host.Outcome State Fault Refusal := .next (s.droopTrip r.val floor)

/-- DROOP_RECOVER. -/
def execDroopRecover (r : RegionId) (s : State) : Host.Outcome State Fault Refusal :=
  .next { s with pwr.floorAt := SMap.del s.pwr.floorAt r.val }

/-! ## Heat (R544) -/

/-- A temperature of a region, in 1/16 °C: its pace, HOTTEST, and THERM_HIGH while any region is at 90 °C or above. -/
def State.hottest (s : State) : Nat :=
  allRegions.foldl (fun h r =>
    if tempOf (s.get (Fld.pwrRTel1Temp h)) < tempOf (s.get (Fld.pwrRTel1Temp r)) then r else h) 0

def State.thermReport (s : State) : State :=
  let h := s.hottest
  let high : Bool := decide (1440 ≤ tempOf (s.get (Fld.pwrRTel1Temp h)))
  let s := (s.put Fld.pwrStatusHottest h).put Fld.pwrStatusThermHigh high.toNat
  s.levelRaise lvlTherm

/-- THERM_HIGH: a region's hottest sensor reads so much. -/
def State.thermHigh (s : State) (r temp : Nat) : State :=
  (((s.put (Fld.pwrRTel1Temp r) temp).paceReport r).thermReport).evcFlow

def execThermHigh (r : RegionId) (temp : BitVec 16) (s : State) : Host.Outcome State Fault Refusal :=
  .next (s.thermHigh r.val temp.toNat)

/-! ## Counters (R553) -/

def State.pwrCntClear (s : State) : State :=
  let s := s.clearAll [Fld.pwrSagsCount, Fld.pwrCfaultsCount, Fld.pwrCapMsCount]
  s.clearAll (allRegions.flatMap fun r => [Fld.pwrRCntDroops r, Fld.pwrRCntFloors r])

def execPwrCntClear (req : Requester) (s : State) : Host.Outcome State Fault Refusal :=
  .next (s.write req Reg.pwrCntCtrl 1 fun s => s.pwrCntClear)

end Sys2Proof.Machine
end

