-- ==== Sys2Proof/Machine/Switch.lean ====
section
/-!
DEFINITION. The substitution switch, panes that leave service, positions that fail, and the tests of core positions that wait and run (R52
to R63, R515 to R521, R567).
-/
namespace Sys2Proof.Machine
open Sys2Proof

/-! ## Positions (R55, R62) -/

/-- The slot that a position serves. -/
def State.serves (s : State) (pos : Nat) : Option Nat :=
  (List.range 4).find? fun k => field (s.rd (Reg.pswMap (pos / 5))) (4 * k) 4 == pos % 5

/-- The logical core that a position serves. -/
def State.coreServed (s : State) (pos : Nat) : Option Nat := (s.serves pos).map (coreOf (pos / 5))

/-- A position that could serve a slot: not failed, not SAGGED, its clock not stopped by a DUMP. -/
def State.usable (s : State) (pos : Nat) : Bool :=
  !s.flag (Fld.ptcPosStatFailed pos) && s.regState (posRegion pos) != regSagged && !s.svc.stopped.contains pos

/-- A MIGRATE that has not completed moves a slot to the position. -/
def State.movesTo (s : State) (pos : Nat) : Bool :=
  match SMap.get? s.rel.moving (pos / 5) with
  | some m => m.2.1 == pos % 5
  | none => false

/-- A pane's free positions: usable, serving no slot, and not the new position of a MIGRATE. -/
def State.freePositions (s : State) (n : Nat) : List Nat :=
  ((List.range 5).map (5 * n + ·)).filter fun p => s.usable p && (s.serves p).isNone && !s.movesTo p

/-- A free position of a pane that is not under test. -/
def State.freePos (s : State) (n : Nat) : Option Nat :=
  (s.freePositions n).find? fun p => !(s.rel.runs.any fun r => r.pos == p)

/-! ## Contexts on a core -/

/-- Contexts with a task in a slot of a core, ascending. -/
def State.ctxsOn (s : State) (core : Nat) : List Nat :=
  (List.range 64).filter fun c => s.cores.tasks.any fun p => p.1 / 16 == core && p.2.ctx == c

/-- Contexts with a unit bound to a core, ascending. -/
def State.boundOn (s : State) (core : Nat) : List Nat :=
  (List.range 64).filter fun c => (s.ctx c).members.any fun m => m.core == core

/-- The tasks of a slot are lost, and contexts fault with cause 8 (R59, R465). -/
def State.loseSlot (s : State) (core : Nat) (bound : Bool) : State :=
  let cs := (List.range 64).filter fun c => (s.ctxsOn core).contains c || (bound && (s.boundOn core).contains c)
  let s := cs.foldl (fun s c => s.faultCtx c 8 (s.leafOn c core)) s
  { s with
    cores.tasks := s.cores.tasks.filter fun p => p.1 / 16 != core
    cores.stageQueue := SMap.del s.cores.stageQueue core
    cores.first := SMap.del s.cores.first core
    cores.held := SMap.del s.cores.held core }

/-- T0 and the accumulator store of a newly joined core are zero and unpoisoned (R59). -/
def State.zeroCore (s : State) (core : Nat) : State :=
  { s with mem := (s.mem.zero (coreKey false core 0) (2 ^ 26)).zero (accKey core 0) (2 ^ 23) }

/-! ## Joining a slot to a position (R53, R58, R59, R539) -/

/-- The switch joins slot `k` of pane `n` to position `p`, 15 for none. The core's counters start again (R99). -/
def State.joinSlot (s : State) (n k p : Nat) (copy : Bool) : State :=
  let old := field (s.rd (Reg.pswMap n)) (4 * k) 4
  let core := coreOf n k
  let s := if copy then s else s.loseSlot core (p == 15)
  let s := if copy || p == 15 then s else s.zeroCore core
  let s := s.clear64 [Reg.coreIssue core, Reg.coreYield core, Reg.coreAbusy core]
  let s := s.wr (Reg.pswMap n) (setField (s.rd (Reg.pswMap n)) (4 * k) 4 p)
  let s := if p < 5 && s.regState (6 * n + p) != regSagged then s.regOnNow (6 * n + p) else s
  if old < 5 && (s.serves (5 * n + old)).isNone then s.enClear (6 * n + old) else s

/-! ## APPLY (R56, R58 to R61) -/

def nibbles (v : Nat) : List Nat := (List.range 4).map fun k => field v (4 * k) 4

/-- Slots whose position changes. -/
def State.pswChanged (s : State) (n : Nat) : List Nat :=
  (List.range 4).filter fun k => field (s.rd (Reg.pswMap n)) (4 * k) 4 != field (s.rd (Reg.pswNext n)) (4 * k) 4

/-- The slot holds a task that has not been stopped under R98: one that is READY or WAITING. A HALTED or FAULTED task executes nothing, and
counts as stopped (DESIGN CHOICE, log entry 39). -/
def State.slotRuns (s : State) (core : Nat) : Bool :=
  s.cores.tasks.any fun p => p.1 / 16 == core && (p.2.state == .ready || p.2.state == .waiting)

/-- The pane-common region reports a fault: it is SAGGED, or CAPPED by a contact fault (R56; DEDUCED, log entry 37). -/
def State.paneFault (s : State) (n : Nat) : Bool := s.regState (6 * n + 5) == regSagged || s.flag (Fld.pwrRStatCapped (6 * n + 5))

/-- An APPLY of the pane is refused whatever it names (R56). -/
def State.applyBarred (s : State) (n : Nat) : Bool := s.flag (Fld.pswStatusBusy n) || s.paneFault n

/-- REASON of a refusal; 0 where the APPLY is accepted. Of several, the first of R56's list is recorded. -/
def State.pswReason (s : State) (n : Nat) (migrate : Bool) : Nat :=
  let nx := nibbles (s.rd (Reg.pswNext n))
  let named := nx.filter (· < 5)
  let ch := s.pswChanged n
  if nx.any fun v => 5 ≤ v && v < 15 then 1
  else if named.eraseDups.length != named.length then 2
  else if s.flag (Fld.pswStatusBusy n) then 3
  else if s.paneFault n then 4
  else if migrate && 1 < ch.length then 6
  else if migrate && ch.any fun k => field (s.rd (Reg.pswNext n)) (4 * k) 4 == 15 || s.slotRuns (coreOf n k) then 5
  else 0

/-- A refused APPLY or a change that stops (R56, R61). -/
def State.pswRefuse (s : State) (n reason : Nat) : State :=
  (s.put (Fld.pswStatusRefused n) 1).put (Fld.pswStatusReason n) reason

/-- The change has completed. -/
def State.pswDone (s : State) (n : Nat) : State :=
  { (s.put (Fld.pswStatusBusy n) 0).put (Fld.pswStatusDone n) 1 with rel.moving := SMap.del s.rel.moving n }.repairWrite

/-- The new position fails before step 4: the slot stays where it is (R61). -/
def State.newPosFail (s : State) (n : Nat) : State :=
  match SMap.get? s.rel.moving n with
  | none => s
  | some (_, p, _) =>
    let s := { s with rel.moving := SMap.del s.rel.moving n }
    let s := ((s.put (Fld.pswStatusBusy n) 0).put (Fld.pswStatusCopyFail n) 1).pswRefuse n 7
    if (s.serves (5 * n + p)).isNone then s.enClear (6 * n + p) else s

/-- APPLY; `done`: the copy of a MIGRATE completes. A MIGRATE of a slot that no position serves has no old position to copy from: it is
accepted, and completes with what the slot held (DESIGN CHOICE, log entry 40). -/
def State.pswApply (s : State) (n : Nat) (migrate done : Bool) : State :=
  let reason := s.pswReason n migrate
  if reason != 0 then (s.pswRefuse n reason).misuseMod else
  let next (k : Nat) : Nat := field (s.rd (Reg.pswNext n)) (4 * k) 4
  match s.pswChanged n with
  | [] => s.put (Fld.pswStatusDone n) 1
  | k :: rest =>
    if !migrate then ((k :: rest).foldl (fun s k => s.joinSlot n k (next k) false) s).pswDone n
    else
      let s := { s with rel.moving := SMap.put s.rel.moving n (k, next k, s.tick) }.put (Fld.pswStatusBusy n) 1
      if s.regState (6 * n + next k) == regSagged then s.newPosFail n
      else if !done then s.enSet (6 * n + next k)
      else (s.joinSlot n k (next k) true).pswDone n

/-- The copy has ended, and the slot joins its new position: by the copy, or, where the old position gave no reply, as a REPLACE of the
slot (R58, R59). -/
def State.moveEnds (s : State) (n : Nat) (copied : Bool) : State :=
  match SMap.get? s.rel.moving n with
  | none => s
  | some (k, p, _) => ((if copied then s else s.put (Fld.pswStatusCopyFail n) 1).joinSlot n k p copied).pswDone n

/-- The copy runs: the region of the new position is ON. -/
def State.copying (s : State) (n p : Nat) : Bool := s.regState (6 * n + p) == regOn

/-! ## Supervisors (R567) -/

/-- Panes in the order of supervisor candidates: px, then |2py − 7|, then py. -/
def candidates : List Nat :=
  (List.range 8).flatMap fun px => [3, 4, 2, 5, 1, 6, 0, 7].map fun py => 8 * py + px

/-- A supervisor's pane has left service: its index passes to the next candidate, which then loads Druter. -/
def State.reElect (s : State) (n : Nat) : State :=
  (List.range 4).foldl (fun s i =>
    if s.supPane i != n then s else
    let next := candidates.find? fun p => !s.stopOut (coreOf p 0) && (List.range 4).all fun j => s.supPane j != p
    let s := s.put Fld.svcStatusSupValid (setBit (s.get Fld.svcStatusSupValid) i false)
    let s := s.wr Reg.svcSup (setField (s.rd Reg.svcSup) (8 * i) 8 (next.getD 0xFF))
    match next with
    | some p => s.svcRaise 0x0D01 1 (i + p * 2 ^ 8 + 2 ^ 16) 0
    | none => s) s

/-! ## A pane out of service (R63) -/

/-- Edge sites of a pane, as 8 × side + place along the side (R67). -/
def paneSites (n : Nat) : List Nat :=
  let px := n % 8
  let py := n / 8
  (if px == 0 then [py] else []) ++ (if py == 0 then [8 + px] else []) ++
    (if px == 7 then [16 + py] else []) ++ (if py == 7 then [24 + px] else [])

/-- A site's agent stops: a memory site's channel is lost, a port site's five ports are down (R63, R67). -/
def State.siteOut (s : State) (e : Nat) : State :=
  if e % 2 == 0 then
    let m := 4 * (e / 8) + e % 8 / 2
    if s.chanUp m then
      (s.put Fld.migChanUpUp (setBit (s.get Fld.migChanUpUp) m false)).raiseMod (srcEdge e) 0x0311 4 m 0
    else s
  else
    let g := 4 * (e / 8) + (e % 8 - 1) / 2
    (List.range 5).foldl (fun s i =>
      let p := 5 * g + i
      if s.portState p == portDisabled then s else s.portDown p 1 portDetect) s

/-- A stop leaves service: what is inside is lost, and its neighbours' links to it are down. -/
def State.stopLeaves (s : State) (d : Nat) : State :=
  let s := s.put (Fld.netLinkOut d) 1
  let s := (List.range 4).foldl (fun s dir =>
    match neighbour d dir with
    | some n => (List.range 3).foldl (fun s net => s.clearUp n (oppositeDir dir) net) s
    | none => s) s
  let s := s.stopLoses s.mesh.flits.length d
  s.loseGroups s.cores.groups.length

/-- A test that runs in the pane ends ABORTED (R526). -/
def State.abortRun (s : State) (n : Nat) : State :=
  { s with rel.runs := s.rel.runs.filter fun r => r.pos / 5 != n } |> fun t =>
    (s.rel.runs.filter fun r => r.pos / 5 == n).foldl (fun t r => t.put (Fld.ptcPosStatLastResult r.pos) 3) t

def State.paneOut (s : State) (n : Nat) : State :=
  let cores := (List.range 4).map (coreOf n)
  if s.stopOut (coreOf n 0) then s else
  let s := { s.abortRun n with
    rel.moving := SMap.del s.rel.moving n
    rel.waits := s.rel.waits.filter fun (m : SlotMove) => m.pos / 5 != n
    rel.tests := s.rel.tests.filter fun (t : PosTest) => t.pos / 5 != n }.put (Fld.pswStatusBusy n) 0
  let s := cores.foldl State.stopLeaves s
  let s := cores.foldl (fun s core => s.loseSlot core true) s
  let s := (paneSites n).foldl State.siteOut s
  ((s.reElect n).supCheck.repairWrite).vblPump.evcFlow

/-! ## Tests that wait and run (R517, R519 to R521) -/

/-- PTC_STATUS of a pane (R526). -/
def State.ptcReport (s : State) (n : Nat) : State :=
  let waiting := s.rel.tests.filter fun t => t.pos / 5 == n
  let run := s.rel.runs.find? fun r => r.pos / 5 == n
  let s := s.put (Fld.ptcStatusPending n) (waiting.foldl (fun m t => setBit m (t.pos % 5) true) 0)
  let s := s.put (Fld.ptcStatusDeferred n) (waiting.any (·.deferred.isSome)).toNat
  let s := s.put (Fld.ptcStatusBusy n) (run.isSome && !s.svc.testEn).toNat
  s.put (Fld.ptcStatusPos n) ((run.map (·.pos % 5)).getD 0)

/-- The slot that a position serves holds no task, and no context has a unit there. -/
def State.slotEmpty (s : State) (pos : Nat) : Bool :=
  match s.coreServed pos with
  | some core => (s.ctxsOn core).isEmpty && (s.boundOn core).isEmpty
  | none => true

/-- A waiting test may begin now: its pane tests nothing else, fewer than 16 tests run, and its position serves no slot, or serves one
without tasks in a pane that has no free position. -/
def State.testStarts (s : State) (t : PosTest) : Bool :=
  !s.svc.testEn && s.rel.runs.length < 16 && !(s.rel.runs.any fun r => r.pos / 5 == t.pos / 5) &&
    ((s.serves t.pos).isNone ||
      ((!t.held.isEmpty || (t.deferred.isSome && s.slotEmpty t.pos)) && (s.freePositions (t.pos / 5)).isEmpty))

/-- A deferred test runs as a test that waits again once its pane has a free position, or its slot holds no task (R520). -/
def State.undefer (s : State) : State :=
  { s with rel.tests := s.rel.tests.map fun (t : PosTest) =>
      if !(s.freePositions (t.pos / 5)).isEmpty && (t.deferred == some 1 || s.slotEmpty t.pos) then { t with deferred := none } else t }

/-- Tests begin in the order in which they fell due. -/
def State.startTests : Nat → State → State
  | 0, s => s
  | fuel + 1, s =>
    match s.rel.tests.find? s.testStarts with
    | none => s
    | some t =>
      State.startTests fuel
        ({ s with
          rel.tests := s.rel.tests.erase t
          rel.runs := s.rel.runs ++ [PosRun.mk t.pos t.calib t.held] }.ptcReport (t.pos / 5))

def State.relPump (s : State) : State :=
  if s.rel.tests.isEmpty then s else
  let s := State.startTests s.rel.tests.length s.undefer
  ((s.rel.tests.map (·.pos / 5)).eraseDups).foldl State.ptcReport s

/-- A test of a position waits or runs. -/
def State.testPending (s : State) (pos : Nat) : Bool :=
  (s.rel.tests.any fun t => t.pos == pos) || s.rel.runs.any fun r => r.pos == pos

/-- A test falls due; `never`: the slot holds a task of a context that never executes THRESHOLD (R519, R520). -/
def State.testDue (s : State) (pos : Nat) (calib never : Bool) : State :=
  if s.testPending pos then s else
  let n := pos / 5
  let cs := (s.coreServed pos).elim [] s.ctxsOn
  let deferred : Option Nat :=
    if (s.serves pos).isNone then none
    else if (s.freePositions n).isEmpty then some 1
    else if never && !cs.isEmpty then some 2 else none
  let s := { s with rel.tests := s.rel.tests ++ [PosTest.mk pos calib (cs.map fun c => (c, (s.ctx c).gen)) deferred []] }
  let s := match deferred with
    | some r => (s.raiseMod (srcPane n) 0x0B05 1 (pos + r * 2 ^ 8) 0).bump Fld.relDeferredCount
    | none => s
  (s.relPump).ptcReport n

/-! ## Contexts that a FORCE holds (R462, R520) -/

def State.forceHold (s : State) (c : Nat) : State :=
  let st := s.ctxState c
  if (s.ctx c).forced.isNone && (st == ctxRunning || st == ctxDraining || st == ctxHeld) then
    (s.setCtx c { s.ctx c with forced := some st }).put (Fld.ctxStatusState c) ctxHeld
  else s

/-- A test still holds the context. -/
def State.testHolds (s : State) (c : Nat) : Bool :=
  (s.rel.tests.any fun t => t.held.contains c) || s.rel.runs.any fun r => r.held.contains c

/-- The contexts go on as they were, once no other test holds them. -/
def State.unhold (s : State) (cs : List Nat) : State :=
  cs.foldl (fun s c =>
    match (s.ctx c).forced with
    | some st =>
      if s.testHolds c || s.ctxState c != ctxHeld then s
      else (s.setCtx c { s.ctx c with forced := none }).put (Fld.ctxStatusState c) st
    | none => s) s

/-! ## A position fails or switches off (R516, R537) -/

/-- The supervisors write PSW_NEXT and APPLY: slot `k` of a pane moves to a position, or to none (R55, R58, R59). -/
def State.supApply (s : State) (n k p : Nat) (copy : Bool) : State :=
  let s := s.wr (Reg.pswNext n) (setField (s.rd (Reg.pswMap n)) (4 * k) 4 p)
  (s.joinSlot n k p copy).pswDone n

/-- The event of a failed position, with what became of its slot; the store records the failure. -/
def State.posEvent (s : State) (pos reason flags core : Nat) : State :=
  (s.raiseMod (srcPane (pos / 5)) 0x0B06 4 (pos + reason * 2 ^ 8 + flags * 2 ^ 12) core).repairWrite.vblPump

/-- A slot leaves its position now: with a copy from one that has failed, as a REPLACE from one that has switched off; it moves to the
pane's free position, or to none. -/
def State.moveNow (s : State) (m : SlotMove) : State :=
  let n := m.pos / 5
  match m.reason, s.serves m.pos with
  | some r, none => (s.posEvent m.pos r 0 0xFF).ptcReport n
  | some r, some k =>
    match s.freePos n with
    | some p => (((s.supApply n k (p % 5) true).unhold m.held).posEvent m.pos r 1 (coreOf n k)).ptcReport n
    | none => ((s.supApply n k 15 false).posEvent m.pos r 2 (coreOf n k)).ptcReport n
  | none, some k => (s.supApply n k (((s.freePos n).map (· % 5)).getD 15) false).vblPump
  | none, none => s

/-- The supervisors move a slot at once, or as soon as its pane takes an APPLY (R56; DEDUCED, log entry 37). -/
def State.moveSlot (s : State) (m : SlotMove) : State :=
  if s.applyBarred (m.pos / 5) then { s with rel.waits := s.rel.waits ++ [m] } else s.moveNow m

/-- Moves that waited for a pane go ahead in order, while it takes them. -/
def State.moveWaiting (n : Nat) : Nat → State → State
  | 0, s => s
  | fuel + 1, s =>
    if s.applyBarred n then s else
    match s.rel.waits.find? fun m => m.pos / 5 == n with
    | none => s
    | some m => State.moveWaiting n fuel ({ s with rel.waits := s.rel.waits.erase m }.moveNow m)

def State.movesGo (s : State) (n : Nat) : State := State.moveWaiting n s.rel.waits.length s

/-- A position fails for a reason. -/
def State.posFail (s : State) (pos reason : Nat) : State :=
  if s.flag (Fld.ptcPosStatFailed pos) then s else
  let s := s.put (Fld.ptcPosStatFailed pos) 1
  let held := (s.rel.tests.filter fun t => t.pos == pos).flatMap (·.held)
  let s := { s with rel.tests := s.rel.tests.filter fun (t : PosTest) => t.pos != pos }
  let s := if s.movesTo pos then s.newPosFail (pos / 5) else s
  (s.moveSlot ⟨pos, some reason, held⟩).movesGo (pos / 5)

/-- A position has gone: the tasks of the slot that it served are lost at once, and the slot is joined by REPLACE (R59, R537). -/
def State.replaceSlot (s : State) (pos : Nat) : State :=
  match s.coreServed pos with
  | none => s
  | some core => (s.loseSlot core false).moveSlot ⟨pos, none, []⟩

/-! ## Commands of the switch (R56 to R61) -/

def execPswApplyMigrate (req : Requester) (n : PaneId) (done : Bool) (s : State) : Host.Outcome State Fault Refusal :=
  .next (s.write req (Reg.pswCtrl n.val) 1 fun s => (s.pswApply n.val true done).movesGo n.val)

def execPswApplyReplace (req : Requester) (n : PaneId) (s : State) : Host.Outcome State Fault Refusal :=
  .next (s.write req (Reg.pswCtrl n.val) 3 fun s => (s.pswApply n.val false true).movesGo n.val).vblPump

/-- COPY_FAIL: the copy runs, and the old position has been silent for 1 ms (R59). -/
def State.copyFail (s : State) (n : Nat) : State :=
  match SMap.get? s.rel.moving n with
  | none => s
  | some (_, p, since) =>
    if s.copying n p && since + ticksPerMs ≤ s.tick then ((s.moveEnds n false).movesGo n).vblPump else s

def execCopyFail (n : PaneId) (s : State) : Host.Outcome State Fault Refusal := .next (s.clocked (s.copyFail n.val))

def execMigrateNewPositionFail (n : PaneId) (s : State) : Host.Outcome State Fault Refusal :=
  .next (s.clocked ((s.newPosFail n.val).movesGo n.val))

/-- A tick of the copies that run: each may end in it; how many ticks a copy takes is free (R58, log entry 41). -/
def State.copyTick (s : State) : State :=
  s.rel.moving.foldl (fun (s : State) m =>
    if !s.copying m.1 m.2.2.1 then s else
    let pick := Config.pick s.draws
    let s := { s with draws := s.draws + 1 }
    if pick % 2 == 0 then ((s.moveEnds m.1 true).movesGo m.1).vblPump else s) s

/-! ## EN of a region (R539, R552) -/

/-- A write of PWR_Rk_CTRL; EN of a SAGGED region is ignored, and setting it is counted (R537, R552). Clearing EN of a
pane-common region takes its pane out of service (R63; DEDUCED, log entry 38). -/
def State.pwrCtrl (s : State) (req : Requester) (r v : Nat) : State :=
  if s.regState r == regSagged then (if bitAt v 0 then s.misuse req else s)
  else if bitAt v 0 then s.enSet r
  else if r % 6 == 5 then (s.enClear r).paneOut (r / 6)
  else s.enClear r

def execPwrEnSet (req : Requester) (r : RegionId) (s : State) : Host.Outcome State Fault Refusal :=
  .next (s.write req (Reg.pwrRCtrl r.val) 1 fun s => s.pwrCtrl req r.val 1)

def execPwrEnClear (req : Requester) (r : RegionId) (s : State) : Host.Outcome State Fault Refusal :=
  .next (s.write req (Reg.pwrRCtrl r.val) 0 fun s => s.pwrCtrl req r.val 0)

end Sys2Proof.Machine
end

