-- ==== Sys2Proof/Machine/Relia.lean ====
section
/-!
DEFINITION. Checks that disagree, suspects, scans and calibrations of core positions (R505 to R521, R526 to R529, R543).
-/
namespace Sys2Proof.Machine
open Sys2Proof

/-! ## Charges (R510 to R513) -/

/-- Milliseconds in 24 hours. -/
def dayMs : Nat := 86400000

/-- A position's transients of the last 24 hours of its service. -/
def Position.recent (x : Position) : List (Nat × Nat) := x.transients.filter fun t => x.service < t.2 + dayMs

/-- Keep the recent transients, and show their number. -/
def State.transReport (s : State) (pos : Nat) : State :=
  let x := s.position pos
  let r := x.recent
  (s.setPosition pos { x with transients := r }).put (Fld.ptcPosStatTransients pos) (min 255 r.length)

/-- A TRANSIENT is charged to an array; the answer says whether its count has reached the limit (R511). -/
def State.chargeTransient (s : State) (pos a : Nat) : State × Bool :=
  let x := s.position pos
  let s := (s.setPosition pos { x with transients := x.transients ++ [(a, x.service)] }).transReport pos
  let n := ((s.position pos).transients.filter (·.1 == a)).length
  (s, decide (max 1 (s.get Fld.relObsCfgTransientLimit) ≤ n))

/-- An array leaves service (R512). -/
def State.fenceArray (s : State) (pos a : Nat) : State :=
  let x := s.position pos
  if x.bad.contains a then s else
  (s.setPosition pos { x with bad := x.bad ++ [a] }).put (Fld.ptcPosStatArrays pos) (s.get (Fld.ptcPosStatArrays pos) - 1)

/-- A position that has been charged a PERMANENT or UNRESOLVED fault becomes a suspect, or fails (R515, R516). -/
def State.judge (s : State) (pos a reason : Nat) : State :=
  let s := s.repairWrite
  if s.flag (Fld.ptcPosStatSuspect pos) then s.posFail pos 2
  else if s.get (Fld.ptcPosStatArrays pos) < min 512 (s.get Fld.relMinArraysMin) then s.posFail pos 3
  else (s.put (Fld.ptcPosStatSuspect pos) 1).raiseMod (srcPane (pos / 5)) 0x0B00 3 (pos + reason * 2 ^ 8) a

/-- An array is charged a PERMANENT fault. -/
def State.chargePermanent (s : State) (pos a reason : Nat) : State := (s.fenceArray pos a).judge pos a reason

/-! ## MMA_CHECK_MISMATCH (R510 to R514) -/

inductive MismatchClass where
  | transientChecker | transientA | permanentA | unresolved
  deriving DecidableEq, Repr

/-- The first row of R510's table that applies. -/
def mismatchClass (m : Mismatch) : MismatchClass :=
  if m.x2eq0 && m.x3eq0 then .transientChecker
  else if m.x2eq3 && !m.x2eq0 then .transientA
  else if m.x2eq0 && !m.x3eq0 && m.ok3 then .permanentA
  else .unresolved

/-- Position of the second array: the buddy's under DUPLICATE, otherwise the core's own. -/
def State.secondPos (s : State) (m : Mismatch) (pos : Nat) : Nat :=
  if s.level m.ctx.val == 4 then (s.posOf (buddyOf m.core.val)).getD pos else pos

/-- The mismatch can arise: the context's checks, and arrays in service. -/
def State.mismatchFits (s : State) (m : Mismatch) (pos : Nat) : Bool :=
  m.clocks.val != 0 &&
  let own := !(s.position pos).bad.contains m.a.val
  match m.second with
  | none => own && s.sumChecks m.ctx.val pos
  | some b =>
    own && s.pairChecks m.ctx.val && !(s.position (s.secondPos m pos)).bad.contains b.val &&
      !(s.secondPos m pos == pos && m.a == b)

/-- REL_TRANSIENT, REL_PERMANENT or REL_UNRESOLVED (R529). -/
def State.relEvent (s : State) (m : Mismatch) (pos code sev : Nat) : State :=
  s.raiseMod (srcPane (pos / 5)) code sev
    (pos + m.a.val * 2 ^ 16 + ((m.second.map (·.val)).getD 0x3FF) * 2 ^ 32 + m.ctx.val * 2 ^ 48 + s.level m.ctx.val * 2 ^ 56)
    (m.pc.toNat + m.slot.val * 2 ^ 44)

/-- A TRANSIENT in an array, or the PERMANENT that it makes (R511). -/
def State.transient (s : State) (m : Mismatch) (pos p a : Nat) : State :=
  match s.chargeTransient p a with
  | (s, false) => (s.bump Fld.relTransientsCount).relEvent m pos 0x0B01 1
  | (s, true) => ((s.bump Fld.relPermanentsCount).relEvent m pos 0x0B02 3).chargePermanent p a 3

/-- The sectors of an accumulator tile are poisoned. -/
def State.poisonTile (s : State) (core tile : Nat) : State :=
  let q := accKey core tile / 64
  { s with mem := (List.range 64).foldl (fun (m : Memory) i => m.setPoison (q + i)) s.mem }

/-- The fragment's output is poisoned, unless its context has gone or has faulted (R513, R514). -/
def State.poisonOut (s : State) (m : Mismatch) : State :=
  match s.task? m.core.val m.slot.val with
  | none => s
  | some t =>
    if t.ctx != m.ctx.val || s.ctxState t.ctx == ctxFaulted || s.faultWaits t.ctx then s else
    ((m.tile.val :: (m.high.map (·.val)).toList).filter (· < t.accCount)).foldl
      (fun s i => s.poisonTile m.core.val (t.accFirst + i)) s

/-- Array a and the second array are each charged, and their positions judged once each (R513). -/
def State.unresolved (s : State) (m : Mismatch) (pos : Nat) : State :=
  let s := ((s.bump Fld.relUnresolvedCount).bump (Fld.relCtxUnresolvedCount m.ctx.val)).relEvent m pos 0x0B03 3
  let s := (s.poisonOut m).fenceArray pos m.a.val
  match m.second with
  | none => s.judge pos m.a.val 2
  | some b =>
    let p := s.secondPos m pos
    let s := s.fenceArray p b.val
    if p == pos then s.judge pos m.a.val 2 else (s.judge pos m.a.val 2).judge p b.val 2

/-- Clean service starts again for the position charged. -/
def State.unclean (s : State) (pos : Nat) : State := s.put (Fld.ptcPosTimeClean pos) 0

/-- Both repeats run on arrays of the issuing core (R85, R510). -/
def State.mismatch (s : State) (m : Mismatch) : State :=
  match s.posOf m.core.val with
  | none => s
  | some pos =>
    if !s.mismatchFits m pos then s else
    let s := (s.bump Fld.relMismatchesCount).bump (Fld.relCtxMismatchCount m.ctx.val)
    let s := s.wrap64 (Reg.coreAbusy m.core.val) (2 * m.clocks.val)
    let p := match m.second with | some _ => s.secondPos m pos | none => pos
    let b := ((m.second.map (·.val)).getD m.a.val)
    match mismatchClass m with
    | .transientChecker => (s.unclean p).transient m pos p b
    | .transientA => (s.unclean pos).transient m pos pos m.a.val
    | .permanentA =>
      (((s.unclean pos).bump Fld.relPermanentsCount).relEvent m pos 0x0B02 3).chargePermanent pos m.a.val 1
    | .unresolved => ((s.unclean pos).unclean p).unresolved m pos

def execMmaCheckMismatch (m : Mismatch) (s : State) : Host.Outcome State Fault Refusal := .next (s.clocked (s.mismatch m).evcFlow)

/-! ## Tests fall due (R517, R519, R521) -/

/-- Minutes of service after which a position is scanned. -/
def State.scanPeriod (s : State) (pos : Nat) : Nat :=
  max 1 (if s.flag (Fld.ptcPosStatSuspect pos) then s.get Fld.relScanCfgSuspectMin else s.get Fld.relScanCfgPeriodMin)

def State.scanDue (s : State) (pos : Nat) (never : Bool) : State :=
  if s.flag (Fld.ptcPosStatFailed pos) || (s.serves pos).isNone || s.get (Fld.ptcPosTimeSinceScan pos) < s.scanPeriod pos then s
  else (s.testDue pos false never).evcFlow

def execScanDue (pos : PosId) (never : Bool) (s : State) : Host.Outcome State Fault Refusal := .next (s.clocked (s.scanDue pos.val never))

/-- REL_SCAN_REQ: RESULT, and a scan or calibration that falls due. -/
def State.scanReq (s : State) (v : Nat) (never : Bool) : State :=
  let pos := field v 0 9
  let r := if 319 < pos then 1 else if s.flag (Fld.ptcPosStatFailed pos) then 2 else if s.testPending pos then 3 else 0
  let s := s.put Fld.relScanResultResult r
  if r == 0 then (s.testDue pos (bitAt v 9) never).evcFlow else s

def execScanRequest (req : Requester) (v : BitVec 32) (never : Bool) (s : State) : Host.Outcome State Fault Refusal :=
  let w := setBit v.toNat 9 false
  .next (s.write req Reg.relScanReq w fun s => s.scanReq w never)

def execCalibRequest (req : Requester) (v : BitVec 32) (never : Bool) (s : State) : Host.Outcome State Fault Refusal :=
  let w := setBit v.toNat 9 true
  .next (s.write req Reg.relScanReq w fun s => s.scanReq w never)

/-! ## STEP_BOUNDARY_MIGRATE (R519) -/

/-- Every context with a task on the slot has completed a generation since the test fell due; a forced test does not wait. -/
def State.atBoundary (s : State) (t : PosTest) (core : Nat) : Bool :=
  !t.held.isEmpty || (s.ctxsOn core).all fun c =>
    let g := (s.ctx c).gen
    g != 0 && some g != SMap.get? t.marks c

/-- The slot moves to the pane's free position, and the test of the position that it leaves can run. -/
def State.stepMigrate (s : State) (pos : Nat) : State :=
  match s.rel.tests.find? (fun t => t.pos == pos), s.serves pos, s.freePos (pos / 5) with
  | some t, some k, some p =>
    if t.deferred.isSome || s.applyBarred (pos / 5) || !s.atBoundary t (coreOf (pos / 5) k) then s
    else
      let s := { s with rel.tests := s.rel.tests.map fun (x : PosTest) => if x.pos == pos then { x with held := [] } else x }
      ((s.supApply (pos / 5) k (p % 5) true).unhold t.held).relPump.evcFlow
  | _, _, _ => s

def execStepBoundaryMigrate (pos : PosId) (s : State) : Host.Outcome State Fault Refusal := .next (s.clocked (s.stepMigrate pos.val))

/-! ## REL_FORCE (R520) -/

/-- The deferred tests of the slots that hold a task of a context, with their slots' cores. -/
def State.forcible (s : State) (c : Nat) : List (PosTest × Nat) :=
  s.rel.tests.filterMap fun t =>
    match s.coreServed t.pos with
    | some core => if t.deferred.isSome && (s.ctxsOn core).contains c then some (t, core) else none
    | none => none

/-- FORCE_RESULT. -/
def State.forceResult (s : State) (c : Nat) : Nat :=
  let ts := s.forcible c
  if ts.isEmpty then 3
  else if ts.any fun t => (s.ctxsOn t.2).any fun d => s.jobOf d != s.jobOf c then 1
  else if ts.any fun t =>
    (s.freePositions (t.1.pos / 5)).isEmpty && !bitAt (s.get (Fld.ptcSaveArea (t.1.pos / 5))) (slotOf t.2) then 2
  else 0

/-- FORCE: the contexts of the slots enter HELD, and the tests wait no more for a step boundary. -/
def State.force (s : State) (c : Nat) : State :=
  let r := s.forceResult c
  let s := s.put (Fld.relCtxStatusForceResult c) r
  if r != 0 then s else
  (s.forcible c).foldl (fun s t =>
    let cs := s.ctxsOn t.2
    let s := cs.foldl State.forceHold s
    let s := { s with rel.tests := s.rel.tests.map fun (x : PosTest) =>
      if x.pos == t.1.pos then { x with deferred := none, held := cs } else x }
    ((s.stepMigrate t.1.pos).relPump).ptcReport (t.1.pos / 5)) s

/-- LEVEL is stored while the context is IDLE; a reserved value is ignored and counted (R505). -/
def State.levelWrite (s : State) (req : Requester) (c v : Nat) : State :=
  if 4 < field v 0 3 then s.misuse req
  else if !s.ctxUsed c && !s.riseWaits c then s.put (Fld.relCtxCtrlLevel c) (field v 0 3)
  else s

/-- A write of REL_CTX_CTRL. -/
def State.relCtrl (s : State) (req : Requester) (c v : Nat) : State :=
  let s := s.levelWrite req c v
  if bitAt v 8 then (s.force c).evcFlow else s

def execRelForce (req : Requester) (c : CtxId) (v : BitVec 32) (s : State) : Host.Outcome State Fault Refusal :=
  let w := setBit v.toNat 8 true
  .next (s.write req (Reg.relCtxCtrl c.val) w fun s => s.relCtrl req c.val w)

/-! ## SCAN_COMPLETE and CALIB_COMPLETE (R518 to R521, R543) -/

/-- A test ends: its run is gone, and SCAN_DONE is written. -/
def State.testEnd (s : State) (n pos : Nat) (pass calib : Bool) (repaired ticks : Nat) : State :=
  let s := { s with rel.runs := s.rel.runs.filter fun (r : PosRun) => r.pos != pos }
  s.raiseMod (srcPane n) 0x0B04 (if pass then 0 else 3)
    (pos + (if pass then 1 else 2) * 2 ^ 8 + calib.toNat * 2 ^ 12 + repaired * 2 ^ 16) ticks

/-- LAST_RESULT, and what follows for the position and the contexts held. -/
def State.testFollow (s : State) (r : PosRun) (pass : Bool) : State :=
  let s := (s.put (Fld.ptcPosStatLastResult r.pos) (if pass then 1 else 2)).repairWrite
  let s := if pass then s.unhold r.held else s.posFail r.pos 1
  ((s.relPump).ptcReport (r.pos / 5)).evcFlow

def State.scanComplete (s : State) (n : Nat) (x : ScanResult) : State :=
  match s.rel.runs.find? fun r => r.pos / 5 == n && !r.calib with
  | none => s
  | some r =>
    if s.svc.testEn then s else
    let pass := x.arrays.val == 512 && x.banksUp.val == 64 && x.macros
    let s := s.setPosition r.pos { s.position r.pos with bad := x.bad.map (·.val), banks := x.banks, rows := x.rows }
    let s := s.put (Fld.ptcPosStatArrays r.pos) x.arrays.val
    let s := if pass then (s.put (Fld.ptcPosTimeSinceScan r.pos) 0).bump Fld.relScanPassCount else s.bump Fld.relScanFailCount
    (s.testEnd n r.pos pass false x.repaired.val x.ticks.toNat).testFollow r pass

def execScanComplete (n : PaneId) (x : ScanResult) (s : State) : Host.Outcome State Fault Refusal :=
  .next (s.clocked (s.scanComplete n.val x))

/-- TRIM and BASELINE lie within their limits. -/
def calibPass (r : Nat) (x : CalibResult) : Bool :=
  let trim := toSigned 8 x.trim.toNat
  decide (-32 ≤ trim) && decide (trim ≤ 31) && decide (x.baseline.toNat ≤ if r % 6 == 5 then 39000 else 13000)

/-- A region that has been calibrated: its records; a pass clears CAPPED and SAGGED and leaves it OFF, or ON where its position
serves a slot. -/
def State.calibSet (s : State) (r : Nat) (x : CalibResult) (pass stays : Bool) : State :=
  let s := (s.put (Fld.pwrRStatTrim r) x.trim.toNat).put (Fld.pwrRRconBaseline r) x.baseline.toNat
  if !pass then s else
  let s := s.put (Fld.pwrRStatCapped r) 0
  if stays then s.regOnNow r
  else ({ s with pwr.offWait := s.pwr.offWait.filter (· != r) ++ [r] }.put (Fld.pwrRCtrlEn r) 0).regEnter r regOff

def State.calibComplete (s : State) (r : Nat) (x : CalibResult) : State :=
  let n := r / 6
  let pass := calibPass r x
  if s.svc.testEn then s
  else if r % 6 == 5 then
    if !s.stopOut (coreOf n 0) then s else
    ((s.calibSet r x pass false).testEnd n 0x1FF pass true 0 x.ticks.toNat).repairWrite.evcFlow
  else
    let pos := 5 * n + r % 6
    match s.rel.runs.find? fun t => t.pos == pos && t.calib with
    | none => s
    | some t =>
      ((s.calibSet r x pass (s.serves pos).isSome).testEnd n pos pass true 0 x.ticks.toNat).testFollow t pass

def execCalibComplete (r : RegionId) (x : CalibResult) (s : State) : Host.Outcome State Fault Refusal :=
  .next (s.clocked (s.calibComplete r.val x))

/-! ## SUSPECT_CLEAR and REL_CNT_CLEAR (R515, R527) -/

def State.suspectClear (s : State) (pos : Nat) : State :=
  if s.flag (Fld.ptcPosStatSuspect pos) && 60 * max 1 (s.get Fld.relObsCfgCleanHours) ≤ s.get (Fld.ptcPosTimeClean pos) then
    (s.put (Fld.ptcPosStatSuspect pos) 0).put (Fld.ptcPosTimeClean pos) 0
  else s

def execSuspectClear (pos : PosId) (s : State) : Host.Outcome State Fault Refusal := .next (s.clocked (s.suspectClear pos.val))

def State.relCntClear (s : State) : State :=
  s.clearAll [Fld.relMismatchesCount, Fld.relTransientsCount, Fld.relPermanentsCount, Fld.relUnresolvedCount,
    Fld.relScanPassCount, Fld.relScanFailCount, Fld.relDeferredCount]

def execRelCntClear (req : Requester) (s : State) : Host.Outcome State Fault Refusal :=
  .next (s.write req Reg.relCntCtrl 1 fun s => s.relCntClear)

end Sys2Proof.Machine
end

