-- ==== Sys2Proof/Machine/Supply.lean ====
section
/-!
DEFINITION. Module reset, power-off and loss of power; sags, contact faults, trips, and the supervision of the bus and the coolant (R533,
R537, R542, R544, R546, R548 to R551, R554, R568, R577, R578).
-/
namespace Sys2Proof.Machine
open Sys2Proof

/-! ## The wafer after a reset (R568) -/

/-- PHASE codes (R572). -/
def phaseOff : Nat := 0
def phaseBoot : Nat := 1
def phaseReady : Nat := 6
def phaseFailed : Nat := 7

/-- Every register and every part of the wafer is as after module reset; the service controller holds `x`. -/
def State.waferReset (s : State) (x : Svc) : State :=
  { State.reset with
    pending := s.pending
    out := s.out
    draws := s.draws
    svc := x }

/-- What the service controller keeps of itself when the wafer is reset: watchdog, measurements and what is due start again. -/
def Svc.afterReset (x : Svc) : Svc :=
  { x with beat := 0, restart := none, lastTick := 0, stalls := 0, unread := 0, stopped := [], stage := [] }

/-- STOP is committed, after every write that waits (R568, R571). -/
def State.stopRecord (s : State) (cause : Nat) : State :=
  let s := s.storeFlush
  (s.storeCommit [(secStop, stopSection s.bootStored cause s.tick)]).1

/-- The wafer is reset under a service controller that goes on: its events that wait and its count of restarts stay. -/
def State.resetKeep (s : State) (x : Svc) (phase : Nat) : State :=
  let t := { s.waferReset x with
    raised := s.raised.filter fun (e : Event) => e.src == srcSvc
    lost := s.lost.filter fun (p : Nat × (Nat × Nat)) => p.1 == srcSvc }
  ((t.put Fld.svcWdtRestarts (s.get Fld.svcWdtRestarts)).put Fld.svcStatusPhase phase).storeReport

/-- Module reset with a STOP cause; the bring-up that follows is a command of its own. -/
def State.moduleReset (s : State) (cause : Nat) (cold : Bool) : State :=
  let s := s.stopRecord cause
  s.resetKeep { s.svc.afterReset with cold := cold } (if s.svc.power == 2 then phaseBoot else phaseOff)

/-- The power-off sequence (R551). -/
def State.powerOff (s : State) (cause : Nat) : State :=
  let s := s.stopRecord cause
  s.resetKeep { s.svc.afterReset with power := 3, offDue := none, cold := false } phaseOff

/-- The bus collapses: everything but the store and the scan flash is lost, and a record that was being written has its marker or counts as
used (R548, R563). -/
def State.cablePull (s : State) (finishes : Bool) : State :=
  let s := if finishes then s.storeFlush
    else if s.svc.writes.isEmpty then s
    else match (s.erased s.writeBank).head? with
      | some slot => s.program (256 * s.writeBank + slot) none
      | none => s
  (s.waferReset { Svc.empty with
    power := 0
    store := s.svc.store
    order := s.svc.order
    dump := s.svc.dump
    testEn := s.svc.testEn }).put Fld.svcStatusPhase phaseOff

/-- POWER_CABLE_PULL. -/
def execPowerCablePull (finishes : Bool) (s : State) : Host.Outcome State Fault Refusal :=
  .next (if s.svc.power == 0 then s else s.cablePull finishes)

/-- POWER_OFF_SEQUENCE: a sequence that is due runs. -/
def execPowerOffSequence (s : State) : Host.Outcome State Fault Refusal :=
  .next (match s.svc.offDue with | some cause => s.powerOff cause | none => s)

/-- A power-off falls due, for the first cause that asks for it. -/
def State.offDue (s : State) (cause : Nat) : State :=
  if s.svc.offDue.isSome then s else { s with svc.offDue := some cause }

/-! ## Regions (R537, R542, R544, R549) -/

/-- A test that runs on a position ends ABORTED. -/
def State.abortTest (s : State) (pos : Nat) : State :=
  if !(s.rel.runs.any fun r => r.pos == pos) then s else
  ({ s with rel.runs := s.rel.runs.filter fun (r : PosRun) => r.pos != pos }.put (Fld.ptcPosStatLastResult pos) 3).ptcReport (pos / 5)

/-- A core position has switched off: a change that joins it stops, one that leaves it completes as a REPLACE, its slot moves, and its
calibration is requested. -/
def State.posSagged (s : State) (pos : Nat) : State :=
  let n := pos / 5
  let s := s.abortTest pos
  let s := match SMap.get? s.rel.moving n with
    | some (k, p, _) => if p == pos % 5 then s.newPosFail n else if s.serves pos == some k then s.moveEnds n false else s
    | none => s
  ((s.movesGo n).replaceSlot pos).testDue pos true false

/-- REGION_SAG: the region has been at the floor for 10 µs. -/
def State.regionSag (s : State) (r : Nat) : State :=
  match SMap.get? s.pwr.floorAt r with
  | none => s
  | some t =>
    if s.regState r != regOn || s.tick < t + 2500 then s else
    let s := (s.bump Fld.pwrSagsCount).raiseMod (srcRegion r) 0x0C00 4
      (r + s.get (Fld.pwrRTel0Vsense r) * 2 ^ 16 + s.get (Fld.pwrRTel0Current r) * 2 ^ 32) t
    let s := (s.put (Fld.pwrRStatPendingOn r) 0).regEnter r regSagged
    if r % 6 == 5 then s.paneOut (r / 6) else (s.posSagged (5 * (r / 6) + r % 6)).evcFlow

def execRegionSag (r : RegionId) (s : State) : Host.Outcome State Fault Refusal := .next (s.regionSag r.val)

/-- CONTACT_FAULT: of kind 2 with its voltage step, otherwise of kind 1. -/
def State.contactFault (s : State) (r : Nat) (step : Option Nat) (never : Bool) : State :=
  if s.regState r != regOn then s else
  let s := (s.put (Fld.pwrRStatCapped r) 1).bump Fld.pwrCfaultsCount
  let s := s.raiseMod (srcRegion r) 0x0C01 4
    (r + (if step.isSome then 2 else 1) * 2 ^ 8 + s.get (Fld.pwrRRconEstimate r) * 2 ^ 16 + s.get (Fld.pwrRRconBaseline r) * 2 ^ 32)
    (step.getD 0)
  (if r % 6 == 5 then s else s.testDue (5 * (r / 6) + r % 6) true never).evcFlow

def execContactFault (r : RegionId) (step : Option (BitVec 16)) (never : Bool) (s : State) : Host.Outcome State Fault Refusal :=
  .next (s.contactFault r.val (step.map (·.toNat)) never)

/-- Changes and tests that run end unfinished (R549). -/
def State.abortAll (s : State) : State :=
  let s := (s.rel.runs.map (·.pos)).foldl State.abortTest s
  (s.rel.moving.map (·.1)).foldl (fun (s : State) n => s.put (Fld.pswStatusBusy n) 0) { s with rel.moving := [], rel.waits := [] }

/-- THERM_TRIP: a region has reached 105 °C. -/
def State.thermTrip (s : State) (r temp : Nat) : State :=
  if tempOf temp < 1680 || s.svc.power != 2 then s else
  let s := ((s.put (Fld.pwrRTel1Temp r) temp).paceReport r).thermReport
  ((s.raiseMod (srcRegion r) 0x0C04 4 (r + temp * 2 ^ 16) 0).abortAll.offDue 5).evcFlow

def execThermTrip (r : RegionId) (temp : BitVec 16) (s : State) : Host.Outcome State Fault Refusal :=
  .next (s.thermTrip r.val temp.toNat)

/-! ## The bus (R533, R577) -/

/-- The common pace of the input cap after a sample. -/
def State.inputCap (s : State) (x : InputSample) : State :=
  let past : Bool := decide (1400 < x.amps.toNat) || decide (56000 < x.watts.toNat)
  let pairs := s.pwr.pairs || x.uneven
  let p := max x.pair0.toNat x.pair1.toNat
  let below : Bool := decide (x.amps.toNat ≤ 1350) && decide (x.watts.toNat ≤ 54000) && (!pairs || decide (p ≤ 675))
  let rises : Bool := decide (x.amps.toNat < 1300) && decide (x.watts.toNat < 52000) && (!pairs || decide (p < 650))
  let falling := (s.pwr.falling || past || x.uneven) && !below
  let s := if past || x.uneven then s.put Fld.pwrStatusInputCap 1 else s
  let ms := if falling || !rises then 0 else s.pwr.riseMs + 1
  let pace := if falling then max 1 (s.pwr.inPace - 1) else if 10 ≤ ms then min 16 (s.pwr.inPace + 1) else s.pwr.inPace
  let free : Bool := pace == 16 && !falling
  let s := { s with
    pwr.falling := falling
    pwr.pairs := pairs && !free
    pwr.riseMs := if 10 ≤ ms then 0 else ms
    pwr.inPace := pace }
  (if free then s.put Fld.pwrStatusInputCap 0 else s).paceAll.levelRaise lvlInput

/-- INPUT_SUPERVISION. -/
def State.inputSample (s : State) (x : InputSample) : State :=
  if s.svc.power == 0 then s
  else if x.volts.toNat < 3400 then s.cablePull x.finishes
  else
    let s := ((s.put Fld.pwrInVoltage x.volts.toNat).put Fld.pwrInCurrent x.amps.toNat).put Fld.pwrInWPower x.watts.toNat
    let s := s.inputCap x
    let s := if x.low && !s.flag Fld.pwrStatusInputLow then
        (s.put Fld.pwrStatusInputLow 1).svcRaise 0x0C02 4 (x.volts.toNat + x.amps.toNat * 2 ^ 16) 0
      else if x.well && !x.low then s.put Fld.pwrStatusInputLow 0 else s
    let s := if x.sunk || x.beyond then s.offDue 4 else s
    (if s.flag Fld.pwrStatusInputCap || s.flag Fld.pwrStatusCoolCap then s.bump Fld.pwrCapMsCount else s).evcFlow

def execInputSupervision (x : InputSample) (s : State) : Host.Outcome State Fault Refusal := .next (s.inputSample x)

/-! ## The coolant (R546) -/

/-- Conditions of R546 on one sample. -/
def coolFlow (x : CoolantSample) : Bool :=
  decide (x.top.toNat + x.bottom.toNat < 800) || decide (x.top.toNat < 720) || decide (x.bottom.toNat < 80)

def coolHot (limit : Nat) (x : CoolantSample) : Bool := decide (limit < x.topIn.toNat) || decide (limit < x.botIn.toNat)

def coolHolds (x : CoolantSample) : Nat → Bool
  | 1 => coolFlow x
  | 2 => coolHot 160 x
  | 3 => decide (x.topIn.toNat < 100) || decide (x.botIn.toNat < 100)
  | 5 => decide (x.top.toNat + x.bottom.toNat < 400) || coolHot 180 x
  | _ => false

/-- Core-position regions at pace 16 whose temperatures differ by more than 10 °C. -/
def State.coolSpread (s : State) : Bool :=
  let ts := (allRegions.filter fun r => r % 6 != 5 && s.get (Fld.pwrRStatPace r) == 16).map fun r => tempOf (s.get (Fld.pwrRTel1Temp r))
  ts.any fun a => ts.any fun b => decide (160 < a - b)

def State.coolRegs (s : State) (x : CoolantSample) : State :=
  (s.wr Reg.pwrCoolT (x.botIn.toNat + x.botOut.toNat * 2 ^ 8 + x.topIn.toNat * 2 ^ 16 + x.topOut.toNat * 2 ^ 24)).wr Reg.pwrCoolF
    (x.bottom.toNat + x.top.toNat * 2 ^ 16)

/-- A condition is entered: COOLANT, and its action. -/
def State.coolEnter (s : State) (kind : Nat) : State :=
  let s := { s with pwr.coolIn := s.pwr.coolIn ++ [kind] }
  let s := s.svcRaise 0x0C05 (if kind == 5 then 4 else 3) (kind + s.rd Reg.pwrCoolF * 2 ^ 16) (s.rd Reg.pwrCoolT)
  if kind == 1 then s.put Fld.pwrStatusCoolCap 1 else if kind == 5 then s.offDue 6 else s

/-- One condition after a sample; it is entered when it has held for so many samples. -/
def State.coolJudge (s : State) (kind : Nat) (holds : Bool) (ms : Nat) : State :=
  if !holds then { s with pwr.coolMs := SMap.del s.pwr.coolMs kind, pwr.coolIn := s.pwr.coolIn.filter (· != kind) } else
  let n := min ms (SMap.getD s.pwr.coolMs kind 0 + 1)
  let s := { s with pwr.coolMs := SMap.put s.pwr.coolMs kind n }
  if n == ms && !s.pwr.coolIn.contains kind then s.coolEnter kind else s

/-- COOL_CAP clears when the flows have been within limits for 10 s. -/
def State.coolFree (s : State) (x : CoolantSample) : State :=
  let n := if coolFlow x then 0 else min 10000 (SMap.getD s.pwr.coolMs 0 0 + 1)
  let s := { s with pwr.coolMs := SMap.putD s.pwr.coolMs 0 n 0 }
  if n == 10000 then s.put Fld.pwrStatusCoolCap 0 else s

/-- COOLANT_SUPERVISION. -/
def State.coolSample (s : State) (x : CoolantSample) : State :=
  if s.svc.power != 2 then s else
  let s := s.coolRegs x
  let s := [1, 2, 3, 5].foldl (fun s k => s.coolJudge k (coolHolds x k) 1000) s
  (((s.coolJudge 4 s.coolSpread 1).coolFree x).paceAll).evcFlow

def execCoolantSupervision (x : CoolantSample) (s : State) : Host.Outcome State Fault Refusal := .next (s.coolSample x)

/-! ## Power-on (R550, R578) -/

/-- The service controller has power: it waits until the coolant meets kinds 1, 2 and 5, and both busbar pairs have held 40 V; COOLANT is
written once. -/
def State.powerOn (s : State) (x : CoolantSample) (pairs : Bool) : State :=
  if 1 < s.svc.power then s else
  let s := if s.svc.power == 0 then ({ s with svc.power := 1 }.put Fld.svcStatusPhase phaseBoot).storeReport else s
  match [1, 2, 5].find? (coolHolds x) with
  | some k =>
    if s.pwr.coolIn.isEmpty then
      let s := { s.coolRegs x with pwr.coolIn := [k] }
      s.svcRaise 0x0C05 (if k == 5 then 4 else 3) (k + s.rd Reg.pwrCoolF * 2 ^ 16) (s.rd Reg.pwrCoolT)
    else s
  | none => if pairs then { s with svc.power := 2, pwr.coolIn := [] } else s

def execPowerOn (x : CoolantSample) (pairs : Bool) (s : State) : Host.Outcome State Fault Refusal := .next (s.powerOn x pairs)

end Sys2Proof.Machine
end

