-- ==== Sys2Proof/Machine/Serve.lean ====
section
/-!
DEFINITION. What the endpoint does with messages that arrive: requests checked against the windows and answered, atomics and leases
with the reply cache, doorbells, invalidations, responses (R389, R399 to R403, R409 to R412, R415, R418).
-/
namespace Sys2Proof.Machine
open Sys2Proof

/-- A request of this source waits for the reply cache: later requests of the source wait behind it (R393, R411). -/
def State.behind (s : State) (m : RxMsg) : Bool := m.ptype ≤ ptDoorbell && s.vbl.blocked.any fun b => b.src == m.src

/-- Take the first message, if it has the type. -/
def State.takeMsg (s : State) (pt : Nat) : Option (RxMsg × State) :=
  match s.vbl.inbox with
  | m :: rest => if m.ptype == pt then some (m, { s with vbl.inbox := rest }) else none
  | [] => none

/-- The first message, if it has the type, is acted on, or joins the requests of its source that wait. -/
def State.serve (s : State) (pt : Nat) (act : RxMsg → State → State) : State :=
  match s.takeMsg pt with
  | some (m, s) => if s.behind m then { s with vbl.blocked := s.vbl.blocked ++ [m] } else act m s
  | none => s

def RxMsg.addr (m : RxMsg) : Nat := leAt m.block 0 8
def RxMsg.opnd (m : RxMsg) : Nat := leAt m.block 8 8

/-! ## Answers (R380, R399, R400) -/

/-- Transaction block of an RSP. -/
def rspBlock (mid gen status result : Nat) : List Byte :=
  leBytes 2 mid ++ leBytes 1 gen ++ leBytes 1 status ++ leBytes 4 0 ++ leBytes 8 result

/-- Answer a request: an RSP in its class, or in BK where the data is longer than 256 bytes (R317, R390). -/
def State.respond (s : State) (m : RxMsg) (cls status result : Nat) (data : List Byte) : State :=
  let cls := if 256 < data.length then 2 else cls
  let block := rspBlock m.mid m.gen status result
  if m.src == s.ownNode then
    { s with vbl.inbox := s.vbl.inbox ++ [⟨m.src, 0, 0, ptRsp, cls, m.job, 0, vOk, block, data⟩] }
  else s.trpSend m.src ⟨none, ptRsp, cls, m.job, block, data⟩

/-- Class in which a request is executed and answered: CT for an EX one at a window that does not accept EX (R399). -/
def State.servedClass (s : State) (m : RxMsg) (window : Nat) : State × Nat :=
  if m.cls == 0 && !s.flag (Fld.winKeyExpress window) then (s.bump Fld.vblExDemotedCount, 1) else (s, m.cls)

/-! ## RD and WR (R399 to R402) -/

/-- A received request is refused (R400, R422). -/
def State.refuseReq (s : State) (m : RxMsg) (status : Nat) : State := s.countRefusal m.src m.job m.ptype m.addr status

/-- The class of the answer to a request that acts at no window's target: that of the window which matches, if one does (R399). -/
def State.demoted (s : State) (m : RxMsg) : State × Nat :=
  match s.winFind m.copy (m.addr % 2 ^ 44) with
  | some i => s.servedClass m i
  | none => (s, m.cls)

/-- A request to the module's own node that was refused, seen from the requester's side, answers as any other. -/
def State.deny (s : State) (m : RxMsg) (status : Nat) : State :=
  let (s, cls) := (s.refuseReq m status).demoted m
  s.respond m cls status 0 []

/-- RD_RECEIVE. -/
def State.rdReceive (s : State) : State :=
  s.serve ptRd fun m s =>
    match s.reqCheck m.copy m.job ptRd m.addr m.opnd [] with
    | .error e => (s.deny m e).vblPump
    | .ok t =>
      let (s, cls) := s.servedClass m t.window
      let (bs, bad) := s.spaceRead t.ctx t.addr m.opnd
      (if bad then s.respond m cls vPoisoned 0 [] else s.respond m cls vOk 0 bs).vblPump

def execRdReceive (s : State) : Host.Outcome State Fault Refusal := .next (s.clocked s.rdReceive)

/-- T2 tiles of a context's tensor space whose writes await an acknowledgement, among those of a range (R258). -/
def State.awaited (s : State) (c a n : Nat) : List (Nat × Nat) :=
  s.mem.acks.filter fun k => k.1 == s.partOf c &&
    decide (a < 0x20000000000 + 4096 * (k.2 + 1) && 0x20000000000 + 4096 * k.2 < a + n)

/-- A write that has been done is answered, once the T2 tiles that it wrote are acknowledged (R258). -/
def State.wrDone (s : State) (m : RxMsg) (cls : Nat) (acks : List (Nat × Nat)) : State :=
  if acks.isEmpty then (s.respond m cls vOk 0 []).vblPump
  else { s with vbl.late := s.vbl.late ++ [(m, cls, acks)] }

/-- WR_RECEIVE: the check was made as a whole when its first packet arrived; then every byte is written, or none (R400). -/
def State.wrReceive (s : State) : State :=
  s.serve ptWr fun m s =>
    if m.status != vOk then (s.deny m m.status).vblPump
    else if m.data.length != m.opnd then (s.deny m vBad).vblPump
    else
      match s.winFind m.copy (m.addr % 2 ^ 44) with
      | none => (s.deny m vDenied).vblPump
      | some i =>
        let (s, cls) := s.servedClass m i
        let c := s.get (Fld.winTgtContext i)
        let a := s.winLow (Reg.winTarget i) + (m.addr % 2 ^ 44 - s.winLow (Reg.winBase i))
        let s := s.spaceWrite c a m.data
        s.wrDone m cls (s.awaited c a m.data.length)

def execWrReceive (s : State) : Host.Outcome State Fault Refusal := .next (s.clocked s.wrReceive)

/-- The writes that wait for no acknowledgement any more are answered, in the order in which they were done. -/
def State.lateGo (s : State) : State :=
  let due := s.vbl.late.filter fun w => !w.2.2.any s.mem.acks.contains
  due.foldl (fun s w => (s.respond w.1 w.2.1 vOk 0 []).vblPump)
    { s with vbl.late := s.vbl.late.filter fun w => w.2.2.any s.mem.acks.contains }

/-- T2_WRITE_ACK: the edge agent acknowledges a write (R258): a LOAD that waited for it completes, and a write from the fabric is answered.
-/
def execT2WriteAck (p : PartId) (tile : BitVec 32) (s : State) : Host.Outcome State Fault Refusal :=
  let go (s : State) (c : Nat) : State :=
    match (s.lvr c).load with
    | some j => if j.wantChunks.isEmpty then s.loadGo c j else s
    | none => s
  .next (s.clocked ((s.lvrs.map (·.1)).foldl go (s.t2Ack p tile.toNat)).lateGo)

/-! ## The reply cache (R411) -/

def cacheLimit : Nat := 131072
def cacheTicks : Nat := 2000000

def State.cached (s : State) (m : RxMsg) : Option Reply1 :=
  s.vbl.cache.find? fun e => e.src == m.src && e.mid == m.mid && e.gen == m.gen && s.tick < e.since + cacheTicks

/-- The cache holds no free entry. -/
def State.cacheFull (s : State) : Bool := cacheLimit ≤ (s.vbl.cache.filter fun e => s.tick < e.since + cacheTicks).length

/-- Keep a response and send it. -/
def State.applied (s : State) (m : RxMsg) (cls status result : Nat) : State :=
  { s with vbl.cache := s.vbl.cache ++ [Reply1.mk m.src m.mid m.gen status result s.tick] }.respond m cls status result []

/-- An ATOMIC or LEASE: answered from the cache, kept waiting while the cache is full, refused, answered POISONED, or applied at
its target (R399, R402, R411). -/
def State.serveOnce (s : State) (m : RxMsg) (apply : State → Target → Nat → State) : State :=
  match s.cached m with
  | some e =>
    let (s, cls) := (s.bump Fld.vblRcacheHitCount).demoted m
    s.respond m cls e.status e.result []
  | none =>
    match s.reqCheck m.copy m.job m.ptype m.addr m.opnd m.data with
    | .error e => s.deny m e
    | .ok t =>
      if s.cacheFull then { s with vbl.blocked := s.vbl.blocked ++ [m] }.bump Fld.vblRcacheFullCount else
      let (s, cls) := s.servedClass m t.window
      if s.mem.poisoned (s.key t.ctx t.addr / 64) then s.respond m cls vPoisoned 0 []
      else apply s t cls

/-- New value of the word an ATOMIC acts on (R410). -/
def atomNew (func old opnd cmp : Nat) : Nat :=
  match func with
  | 0 => (old + opnd) % 2 ^ 32
  | 1 => (old + opnd) % 2 ^ 64
  | 2 => (f32Canon (f32Add (BitVec.ofNat 32 old) (BitVec.ofNat 32 opnd)).1).toNat
  | 3 => opnd
  | 4 => if old == cmp then opnd else old
  | 5 => if toSigned 64 old ≤ toSigned 64 opnd then old else opnd
  | _ => if toSigned 64 old ≥ toSigned 64 opnd then old else opnd

/-- Apply an ATOMIC: a read-modify-write of its word, answered with the old value (R403, R410). -/
def State.applyAtomic (s : State) (m : RxMsg) (t : Target) (cls : Nat) : State :=
  let func := leAt m.data 0 1
  let w := if func == 0 || func == 2 then 4 else 8
  let old := ofLe (s.spaceRead t.ctx t.addr w).1
  let new := atomNew func old m.opnd (leAt m.data 8 8)
  (s.spaceWrite t.ctx t.addr (leBytes w new)).applied m cls vOk old

/-- ATOMIC_RECEIVE. -/
def State.atomicReceive (s : State) : State :=
  s.serve ptAtomic fun m s => (s.serveOnce m fun s t cls => s.applyAtomic m t cls).vblPump

def execAtomicReceive (s : State) : Host.Outcome State Fault Refusal := .next (s.clocked s.atomicReceive)

/-! ## Leases (R413, R415) -/

/-- A lock's fields. -/
structure Lock where
  owner : Nat
  state : Nat
  inc : Nat
  expiry : Nat
  prior : Nat
  priorInc : Nat
  deriving DecidableEq, Repr

def Lock.of (b : List Byte) : Lock := ⟨leAt b 0 4, leAt b 4 1, leAt b 8 4, leAt b 16 8, leAt b 24 4, leAt b 28 4⟩

def Lock.bytes (l : Lock) : List Byte :=
  leBytes 4 l.owner ++ leBytes 1 l.state ++ leBytes 3 0 ++ leBytes 4 l.inc ++ leBytes 4 0 ++ leBytes 8 l.expiry ++
    leBytes 4 l.prior ++ leBytes 4 l.priorInc

/-- OWNER of a node's context. -/
def ownerWord (node ctx : Nat) : Nat := node + ctx % 64 * 2 ^ 20

/-- The lock after an acquire, with its status and the result of the RSP: EXPIRY with HELD, the former owner with BROKEN (R415). -/
def Lock.acquire (l : Lock) (owner inc len tick : Nat) : Lock × Nat × Nat :=
  let fresh : Lock := ⟨owner, 1, inc, (tick + len) % 2 ^ 64, l.owner, l.inc⟩
  if l.state == 0 then (fresh, vOk, 0)
  else if l.state == 1 && tick < l.expiry then
    if l.owner == owner then
      if l.inc == inc then ({ l with expiry := (tick + len) % 2 ^ 64 }, vOk, 0) else (fresh, vBroken, l.owner)
    else (l, vHeld, l.expiry)
  else (fresh, vBroken, l.owner)

/-- The lock after a release, with its status (R415). A FREE lock is all zeros (R413). -/
def Lock.release (l : Lock) (owner inc : Nat) : Lock × Nat :=
  if l.state == 1 && l.owner == owner then
    if l.inc == inc then (⟨0, 0, 0, 0, 0, 0⟩, vOk) else ({ l with state := 2 }, vOk)
  else (l, vNotOwner)

/-- Apply a LEASE. -/
def State.applyLease (s : State) (m : RxMsg) (t : Target) (cls : Nat) : State :=
  let l := Lock.of (s.spaceRead t.ctx t.addr 32).1
  let owner := ownerWord m.src (leAt m.data 1 1)
  let inc := leAt m.data 4 4
  let (new, status, result) :=
    if leAt m.data 0 1 == 0 then l.acquire owner inc m.opnd s.tick
    else let r := l.release owner inc; (r.1, r.2, 0)
  let s := if new == l then s else s.spaceWrite t.ctx t.addr new.bytes
  s.applied m cls status result

/-- LEASE_RECEIVE. -/
def State.leaseReceive (s : State) : State :=
  s.serve ptLease fun m s => (s.serveOnce m fun s t cls => s.applyLease m t cls).vblPump

def execLeaseReceive (s : State) : Host.Outcome State Fault Refusal := .next (s.clocked s.leaseReceive)

/-- RCACHE_EXPIRY: entries live 8 ms; requests that waited for a free one are taken up again (R411). -/
def State.rcacheExpiry (s : State) : State :=
  { s with
    vbl.cache := s.vbl.cache.filter fun e => s.tick < e.since + cacheTicks
    vbl.inbox := s.vbl.blocked ++ s.vbl.inbox
    vbl.blocked := [] }

def execRcacheExpiry (s : State) : Host.Outcome State Fault Refusal := .next (s.clocked s.rcacheExpiry)

/-! ## INV and DOORBELL (R409, R418) -/

/-- INV_RECEIVE: the copies of every context of the job drop, and the answer is OK. -/
def State.invReceive (s : State) : State :=
  s.serve ptInv fun m s =>
    let cs := (List.range 64).filter fun c => s.ctxState c != ctxIdle && s.jobOf c == m.job
    ((cs.foldl (fun s c => s.invDrop c m.addr m.opnd) s).respond m m.cls vOk 0 []).vblPump

def execInvReceive (s : State) : Host.Outcome State Fault Refusal := .next (s.clocked s.invReceive)

/-- Status of a doorbell: its alignment, its page, its context's job, its number (R399, R418). -/
def State.bellStatus (s : State) (m : RxMsg) : Nat :=
  let off := m.addr % 2 ^ 44
  if off % 8 != 0 then vBad
  else if !inBellPage off || m.addr / 2 ^ 44 != s.ownNode then vDenied
  else if s.jobOf ((off - bellPage) / 64) != m.job then vDenied
  else if 2 ≤ off % 64 / 8 then vBad
  else vOk

/-- DOORBELL_RECEIVE: doorbell 0 sets LVR_DESC_TAIL, doorbell 1 MIG_RING_TAIL. A refused one from the module itself is reported
to its requester too (R394). -/
def State.doorbellReceive (s : State) : State :=
  s.serve ptDoorbell fun m s =>
    let st := s.bellStatus m
    let c := (m.addr % 2 ^ 44 - bellPage) / 64
    let s := if st != vOk then s.refuseReq m st
      else if m.addr % 64 / 8 == 0 then s.lvrTail c m.opnd
      else s.migTail c m.opnd
    if m.src != s.ownNode then s else
    match s.vbl.reqs.find? fun r => r.dst == s.ownNode && r.ownMid == m.mid && r.ptype == ptDoorbell with
    | some r => (s.finish r.num st 0 []).vblPump
    | none => s

def execDoorbellReceive (s : State) : Host.Outcome State Fault Refusal := .next (s.clocked s.doorbellReceive)

/-! ## RSP (R392, R411, R412) -/

/-- The request that an RSP answers. -/
def State.asker (s : State) (m : RxMsg) : Option Nat :=
  let mid := leAt m.block 0 2
  let gen := leAt m.block 2 1 % 16
  if m.src == s.ownNode then
    (s.vbl.reqs.find? fun r => r.dst == s.ownNode && r.ownMid == mid && r.first.isSome).map (·.num)
  else
    match s.txConn m.src with
    | none => none
    | some x =>
      if x.gen != gen then none else
      match x.msgs.find? fun e => e.1 == mid with
      | some (_, msg) => match msg.tok with
        | some (false, num) => if (s.req? num).isSome then some num else none
        | some (true, _) => none
        | none => none
      | none => none

/-- RSP_RECEIVE: its request completes; one that answers no outstanding request is counted. A status above 8 is BAD_REQUEST. -/
def State.rspReceive (s : State) : State :=
  s.serve ptRsp fun m s =>
    match s.asker m with
    | none => s.bump Fld.vblLateRspCount
    | some num =>
      let status := leAt m.block 3 1
      let status := if 9 ≤ status then vBad else status
      let s := s.finish num status (leAt m.block 8 8) m.data
      (s.retireMsg m.src (leAt m.block 0 2)).vblPump

def execRspReceive (s : State) : Host.Outcome State Fault Refusal := .next (s.clocked s.rspReceive)

end Sys2Proof.Machine
end

