-- ==== Sys2Proof/Machine/Image.lean ====
section
/-!
DEFINITION. The image: its header, sections and unit tree, and the checks that Druter makes in order (R34, R468 to R477).
-/
namespace Sys2Proof.Machine
open Sys2Proof

/-! ## Header and section table (R468, R469) -/

/-- Order 2 of R477: the header fields, for an image of which so many bytes were read. -/
def imgHeaderOk (b : List Byte) : Bool :=
  let total := leAt b 8 8
  let n := leAt b 16 4
  128 ≤ b.length && leAt b 0 4 == 0x47454D49 && leAt b 4 2 == 128 && total % 8 == 0 && 256 ≤ total && total ≤ 2 ^ 36 &&
    total ≤ b.length && 4 ≤ n && n ≤ 11 && leAt b 20 4 % 8 == 0 && 128 ≤ leAt b 20 4 && zeroBytes b 28 4 && zeroBytes b 40 88

/-- Order 3: the CRC over the whole image with its field taken as 0. -/
def imgCrcOk (b : List Byte) : Bool :=
  leAt b 24 4 == crc32c (b.take 24 ++ leBytes 4 0 ++ (b.take (leAt b 8 8)).drop 28)

/-- Order 4: contract version 1.0 (R29, R34). -/
def imgVersionOk (b : List Byte) : Bool := leAt b 6 1 == 1 && leAt b 7 1 == 0

/-- An entry of the section table. -/
structure Section where
  type : Nat
  count : Nat
  off : Nat
  bytes : Nat
  rsvd : Nat
  deriving DecidableEq, Repr

def imgSections (b : List Byte) : List Section :=
  (List.range (leAt b 16 4)).map fun i =>
    let e := leAt b 20 4 + 24 * i
    ⟨leAt b e 2, leAt b (e + 4) 4, leAt b (e + 8) 8, leAt b (e + 16) 8, leAt b (e + 2) 2⟩

/-- Entry size by type. -/
def entrySize (t : Nat) : Nat :=
  match t with
  | 2 => 32
  | 3 => 1
  | 5 => 32
  | 7 => 24
  | 9 => 32
  | _ => 16

/-- No two of these ranges overlap. -/
def apartAll : List (Nat × Nat) → Bool
  | [] => true
  | r :: rest => (rest.all fun q => r.1 + r.2 ≤ q.1 || q.1 + q.2 ≤ r.1 || r.2 == 0 || q.2 == 0) && apartAll rest

def imgTableOk (b : List Byte) : Bool :=
  let l := imgSections b
  let total := leAt b 8 8
  let tab := leAt b 20 4
  tab + 24 * l.length ≤ total &&
    (l.all fun x => 1 ≤ x.type && x.type ≤ 11 && x.rsvd == 0 && x.off % 8 == 0 && x.bytes == x.count * entrySize x.type &&
      x.off + x.bytes ≤ total) &&
    (l.map (·.type)).eraseDups.length == l.length &&
    ([1, 2, 3, 4].all fun t => l.any fun x => x.type == t) &&
    apartAll ((0, 128) :: (tab, 24 * l.length) :: l.map fun x => (x.off, x.bytes))

/-- Bytes of a section; none where the image has no such section. -/
def imgBytes (b : List Byte) (t : Nat) : List Byte :=
  match (imgSections b).find? fun x => x.type == t with
  | some x => (b.drop x.off).take x.bytes
  | none => []

/-- Entries of a section. -/
def imgEntries (b : List Byte) (t : Nat) : List (List Byte) :=
  match (imgSections b).find? fun x => x.type == t with
  | some x => (List.range x.count).map fun i => (b.drop (x.off + entrySize t * i)).take (entrySize t)
  | none => []

/-! ## The unit tree (R15 to R17, R470) -/

/-- A unit as UNITS lists it, with what follows from the walk. -/
structure ImgUnit where
  casement : Bool
  modules : Bool
  onModule : Bool
  d0 : Nat
  d1 : Nat
  d2 : Nat
  parent : Option Nat
  child : Nat
  depth : Nat
  leaf : Nat
  deriving DecidableEq, Repr

def ImgUnit.children (u : ImgUnit) : Nat := if u.casement then u.d0 * u.d1 * u.d2 else 0

/-- A casement that the walk is inside: its node, the next child and the number of children. -/
structure Open1 where
  node : Nat
  next : Nat
  total : Nat

/-- Leave every casement whose children are complete. -/
def closeDone : List Open1 → List Open1
  | [] => []
  | o :: rest => if o.next == o.total then closeDone rest else o :: rest

/-- The depth-first walk: none where UNITS does not list exactly the units that the extents describe. -/
def walkUnits : List (List Byte) → Nat → Nat → List Open1 → List ImgUnit → Option (List ImgUnit)
  | [], _, _, stack, acc => if (closeDone stack).isEmpty then some acc else none
  | e :: rest, i, leaf, stack, acc =>
    let kind := leAt e 0 1
    let fl := leAt e 1 1
    let d0 := leAt e 4 4
    let d1 := leAt e 8 4
    let d2 := leAt e 12 4
    let open_ := closeDone stack
    let bad := 1 < kind || 3 < fl || leAt e 2 2 != 0 || d0 == 0 || d1 == 0 || d2 == 0 ||
      (kind == 0 && (d0 != 1 || d1 != 1 || d2 != 1 || fl != 0)) || (i == 0 && kind == 0) || (i != 0 && open_.isEmpty)
    if bad then none else
    let (parent, child) := match open_ with
      | [] => (none, 0)
      | o :: _ => (some o.node, o.next)
    let u : ImgUnit := ⟨kind == 1, bitAt fl 0, bitAt fl 1, d0, d1, d2, parent, child, open_.length, leaf⟩
    let open_ := match open_ with
      | [] => []
      | o :: more => { o with next := o.next + 1 } :: more
    let stack := if kind == 1 then ⟨i, 0, d0 * d1 * d2⟩ :: open_ else open_
    walkUnits rest (i + 1) (if kind == 0 then leaf + 1 else leaf) stack (acc ++ [u])

def imgUnits (b : List Byte) : Option (List ImgUnit) := walkUnits (imgEntries b 1) 0 0 [] []

/-- Number of core-units. -/
def leafCount (us : List ImgUnit) : Nat := (us.filter fun u => !u.casement).length

/-- Node `i`'s ancestors, nearest first. -/
def ancestors (us : List ImgUnit) : Nat → Nat → List Nat
  | 0, _ => []
  | n + 1, i =>
    match us[i]? with
    | some u => match u.parent with
      | some p => p :: ancestors us n p
      | none => []
    | none => []

/-- Nodes below node `i`, in list order. -/
def below (us : List ImgUnit) (i : Nat) : List Nat :=
  match us[i]? with
  | none => []
  | some u => ((List.range us.length).drop (i + 1)).takeWhile fun j => match us[j]? with | some v => u.depth < v.depth | none => false

/-- Casements of modules and what may lie below them (R470). -/
def modulesOk (us : List ImgUnit) : Bool :=
  us.all fun u =>
    let up := u.parent.bind fun p => us[p]?
    (match up with
      | some p => !(p.modules && u.casement && !u.onModule) && !(p.onModule && u.modules)
      | none => true) &&
    !(u.modules && u.onModule)

/-- Every child of a casement of modules has the same unit tree (R423). -/
def sameTrees (us : List ImgUnit) : Bool :=
  let shape (i : Nat) : List (Bool × Nat × Nat × Nat) :=
    (i :: below us i).filterMap fun j => (us[j]?).map fun v => (v.casement, v.d0, v.d1, v.d2)
  (List.range us.length).all fun i =>
    match us[i]? with
    | some u => !u.modules ||
      (match (List.range us.length).filter fun j => match us[j]? with | some v => v.parent == some i | none => false with
        | [] => true
        | k :: ks => ks.all fun j => shape j == shape k)
    | none => true

/-! ## FABRIC (R476) -/

/-- Torus origin that FABRIC gives a casement of modules. -/
def imgOrigin (b : List Byte) (node : Nat) : Option (Nat × Nat × Nat) :=
  ((imgEntries b 11).drop 1).findSome? fun e =>
    if leAt e 0 4 == node then some (leAt e 4 1, leAt e 5 1, leAt e 6 1) else none

def imgShares (b : List Byte) : List Nat :=
  match imgEntries b 11 with
  | e :: _ => (List.range 6).map fun i => leAt e i 1
  | [] => [0, 0, 0, 0, 0, 0]

def imgXex (b : List Byte) : Bool := match imgEntries b 11 with | e :: _ => bitAt (leAt e 6 1) 0 | [] => false
def imgT2Slice (b : List Byte) : Nat := match imgEntries b 11 with | e :: _ => leAt e 8 4 | [] => 0
def imgStage (b : List Byte) : Nat := match imgEntries b 11 with | e :: _ => leAt e 12 4 | [] => 0

def fabricOk (b : List Byte) (us : List ImgUnit) : Bool :=
  let es := imgEntries b 11
  let mods := (List.range us.length).filter fun i => match us[i]? with | some u => u.modules | none => false
  (match es with
    | e :: _ => leAt e 6 1 ≤ 1 && leAt e 7 1 == 0 && (imgShares b).all (· ≤ 64)
    | [] => true) &&
    ((es.drop 1).all fun e => mods.contains (leAt e 0 4) && zeroBytes e 7 9) &&
    (es.drop 1).length == mods.length && mods.all fun i => (imgOrigin b i).isSome

/-! ## TASKS, CODE and GRANTS (R471, R472) -/

structure ImgTask where
  leaf : Nat
  num : Nat
  prio : Nat
  initial : Bool
  entry : Nat
  arg : Nat
  acc : Nat
  deriving DecidableEq, Repr

def imgTasks (b : List Byte) : List ImgTask :=
  (imgEntries b 2).map fun e =>
    ⟨leAt e 0 4, leAt e 4 1, leAt e 5 1, bitAt (leAt e 6 1) 0, leAt e 8 8, leAt e 16 8, leAt e 24 2⟩

def tasksOk (b : List Byte) (leaves : Nat) : Bool :=
  let ts := imgTasks b
  let code := (imgBytes b 3).length
  ((imgEntries b 2).all fun e => leAt e 6 1 ≤ 1 && leAt e 7 1 == 0 && zeroBytes e 26 6) &&
    (ts.all fun t => t.leaf < leaves && t.num < 16 && t.prio < 4 && t.entry % 8 == 0 && t.entry < code && t.acc ≤ 2048) &&
    (ts.map fun t => (t.leaf, t.num)).eraseDups.length == ts.length && code % 8 == 0 && 8 ≤ code

/-- Grants: leaf, T0 bytes, T1 bytes, T0 buffers, T1 buffers. -/
structure ImgGrant where
  leaf : Nat
  t0 : Nat
  t1 : Nat
  pool0 : Nat
  pool1 : Nat
  deriving DecidableEq, Repr

def imgGrants (b : List Byte) : List ImgGrant :=
  (imgEntries b 4).map fun e => ⟨leAt e 0 4, leAt e 4 4, leAt e 8 4, leAt e 12 2, leAt e 14 2⟩

def imgGrant (b : List Byte) (leaf : Nat) : ImgGrant :=
  ((imgGrants b).find? fun g => g.leaf == leaf).getD ⟨leaf, 0, 0, 0, 0⟩

def grantsOk (b : List Byte) (leaves : Nat) : Bool :=
  let gs := imgGrants b
  (gs.all fun g => g.leaf < leaves && g.t0 % 4096 == 0 && g.t1 % 4096 == 0) &&
    (gs.map (·.leaf)).eraseDups.length == gs.length

/-! ## STREAMS and BINDINGS (R188, R473, R474) -/

structure ImgStream where
  leaf : Nat
  task : Nat
  h : Nat
  dir : Nat
  kind : Nat
  grain : Nat
  depth : Nat
  tier : Nat
  flags : Nat
  ring : Nat
  peer : Nat
  fwd : Nat
  first : Nat
  count : Nat
  deriving DecidableEq, Repr

def imgStreams (b : List Byte) : List ImgStream :=
  (imgEntries b 5).map fun e =>
    ⟨leAt e 0 4, leAt e 4 1, leAt e 5 1, leAt e 6 1, leAt e 7 1, leAt e 8 1, leAt e 9 1, leAt e 10 1, leAt e 11 1,
      leAt e 12 4, leAt e 16 4, leAt e 20 4, leAt e 24 4, leAt e 28 4⟩

structure ImgBinding where
  node : Nat
  port : Nat
  how : Nat
  dir : Nat
  child : Nat
  inner : Nat
  deriving DecidableEq, Repr

def imgBindings (b : List Byte) : List ImgBinding :=
  (imgEntries b 6).map fun e => ⟨leAt e 0 4, leAt e 4 2, leAt e 6 1, leAt e 7 1, leAt e 8 4, leAt e 12 2⟩

def noPeer : Nat := 0xFFFFFFFF

/-- Node of the casement that holds a core-unit. -/
def leafParent (us : List ImgUnit) (leaf : Nat) : Option Nat :=
  (us.find? fun u => !u.casement && u.leaf == leaf).bind (·.parent)

/-- INNER of a binding names a declaration: of a child that the binding reaches, of its direction (R474). -/
def ImgBinding.names (y : ImgBinding) (us : List ImgUnit) (x : ImgStream) : Bool :=
  leafParent us x.leaf == some y.node && x.dir == y.dir && x.task == field y.inner 8 4 && x.h == field y.inner 0 4 &&
    (y.how != 0 || us.any fun u => !u.casement && u.leaf == x.leaf && u.child == y.child)

/-- A declaration joins a binding as one of its children, or from outside its casement as a neighbour of it (R20, R474). -/
def joinOk (us : List ImgUnit) (x : ImgStream) (y : ImgBinding) : Bool :=
  y.names us x || (x.dir != y.dir && (match us[y.node]? with | some u => leafParent us x.leaf == u.parent | none => false))

/-- One declaration of STREAMS. A peer named directly lies in the same casement: a unit reaches into another casement only through its
boundary streams (R20). -/
def streamOk (b : List Byte) (us : List ImgUnit) (leaves : Nat) (all : List ImgStream) (i : Nat) (x : ImgStream) : Bool :=
  let fed := x.kind != 0
  x.leaf < leaves && ((imgTasks b).any fun t => t.leaf == x.leaf && t.num == x.task) && x.h < 16 && x.dir ≤ 1 && x.kind ≤ 2 &&
    1 ≤ x.grain && x.grain ≤ 64 && x.flags < 8 &&
    (if x.kind == 1 then 2 ≤ x.depth && x.depth ≤ 8 else x.depth == 0) &&
    (if x.dir == 0 then x.tier ≤ 1 && 2 ≤ x.ring && x.ring ≤ 4096 && x.ring % x.grain == 0 && 2 * x.grain ≤ x.ring &&
        !bitAt x.flags 2
      else x.tier == 0 && x.ring == 0 && !fed) &&
    (if fed then 1 ≤ x.count && x.count ≤ 4096 && x.first + x.count ≤ (imgEntries b 10).length
      else x.first == 0 && x.count == 0) &&
    (if fed then x.peer == noPeer
      else if x.peer == noPeer then false
      else if bitAt x.peer 31 then (match (imgBindings b)[x.peer - 2 ^ 31]? with | some y => joinOk us x y | none => false)
      else match all[x.peer]? with
        | some y => y.peer == i && y.dir != x.dir && y.grain == x.grain && leafParent us x.leaf == leafParent us y.leaf
        | none => false) &&
    (x.fwd == noPeer ||
      match all[x.fwd]? with
      | some y => y.leaf == x.leaf && y.dir == 1 && x.dir == 0
      | none => false)

def streamsOk (b : List Byte) (us : List ImgUnit) (leaves : Nat) : Bool :=
  let all := imgStreams b
  (all.zipIdx.all fun p => streamOk b us leaves all p.2 p.1) &&
    (all.map fun x => (x.leaf, x.task, x.h)).eraseDups.length == all.length

/-- A child named through INNER has a declaration or binding of the same DIR that names this entry. -/
def innerOk (b : List Byte) (us : List ImgUnit) (k : Nat) (x : ImgBinding) (node : Nat) : Bool :=
  match us[node]? with
  | none => false
  | some u =>
    if u.casement then (imgBindings b).any fun y => y.node == node && y.port == x.inner && y.dir == x.dir
    else field x.inner 4 4 == 0 && field x.inner 12 4 == 0 &&
      (imgStreams b).any fun y => y.leaf == u.leaf && y.task == field x.inner 8 4 && y.h == field x.inner 0 4 &&
        y.dir == x.dir && y.peer == 2 ^ 31 + k

def childrenOf (us : List ImgUnit) (i : Nat) : List Nat :=
  (List.range us.length).filter fun j => match us[j]? with | some v => v.parent == some i | none => false

/-- The bindings of an enclosing casement whose INNER names entry `x`. -/
def outerBindings (b : List Byte) (us : List ImgUnit) (x : ImgBinding) : List ImgBinding :=
  match us[x.node]? with
  | none => []
  | some u => (imgBindings b).filter fun y => u.parent == some y.node && y.inner == x.port && y.dir == x.dir &&
      (y.how != 0 || y.child == u.child)

/-- The declarations outside a casement that name its entry `k`. -/
def outsiders (b : List Byte) (us : List ImgUnit) (k : Nat) (x : ImgBinding) : List Nat :=
  (imgStreams b).zipIdx.filterMap fun p => if p.1.peer == 2 ^ 31 + k && !x.names us p.1 then some p.2 else none

def bindingsOk (b : List Byte) (us : List ImgUnit) : Bool :=
  let all := imgBindings b
  ((imgEntries b 6).all fun e => leAt e 14 2 == 0) &&
    (all.zipIdx.all fun p =>
      let x := p.1
      match us[x.node]? with
      | none => false
      | some u =>
        u.casement && x.how ≤ 3 && x.dir ≤ 1 && (if x.how == 0 then x.child < u.children else x.child == 0) &&
          ((if x.how == 0 then ((childrenOf us x.node)[x.child]?).toList else childrenOf us x.node).all
            (innerOk b us p.2 x)) &&
          (outsiders b us p.2 x).length + (outerBindings b us x).length == 1) &&
    (all.map fun x => (x.node, x.port)).eraseDups.length == all.length

/-- Bindings that the table of R21 does not allow. -/
def bindingBarred (x : ImgBinding) : Bool := (x.how == 1 && x.dir == 1) || (x.how == 3 && x.dir == 0)

/-! ## DATA, APERTURES, PLACEMENT and SOURCES (R475) -/

structure ImgData where
  addr : Nat
  len : Nat
  off : Nat
  deriving DecidableEq, Repr

def imgData (b : List Byte) : List ImgData := (imgEntries b 7).map fun e => ⟨leAt e 0 8, leAt e 8 8, leAt e 16 8⟩

/-- A range of DATA lies within a core-unit's grant; `leafOf` gives the leaf ordinal of a module unit number. -/
def dataOk (b : List Byte) (leafOf : Nat → Option Nat) (d : ImgData) : Bool :=
  d.addr % 64 == 0 && d.len % 64 == 0 && d.off + d.len ≤ leAt b 8 8 &&
    match region d.addr with
    | .t0 u o => match leafOf u with | some l => o + d.len ≤ (imgGrant b l).t0 | none => false
    | .t1 u o => match leafOf u with | some l => o + d.len ≤ (imgGrant b l).t1 | none => false
    | .t2 _ => false
    | .t3 .. => false
    | .hole => false

def apertureOk (e : List Byte) : Bool := leAt e 0 8 % 4096 == 0 && leAt e 8 4 ≤ 2 ^ 23 && leAt e 12 4 == 0

def placementOk (e : List Byte) : Bool :=
  let kind := leAt e 18 1
  zeroBytes e 19 13 && kind ≤ 2 && leAt e 0 8 % 4096 == 0 && leAt e 0 8 < 2 ^ 44 && leAt e 8 8 % 4096 == 0 &&
    leAt e 8 8 < 2 ^ 44 && (kind == 0 || (1 ≤ leAt e 16 2 && leAt e 16 2 ≤ 256))

def sourceOk (e : List Byte) : Bool :=
  leAt e 0 8 % 4096 == 0 && leAt e 0 8 < 2 ^ 44 && 1 ≤ leAt e 8 4 && leAt e 8 4 ≤ 2 ^ 24 && leAt e 14 1 ≤ 1 && leAt e 15 1 == 0

/-! ## The checks in order (R477) -/

/-- A unit lies on the module at these torus coordinates: each casement of modules above it places it there (R423, R470). -/
def onModule (b : List Byte) (us : List ImgUnit) (own torus : Nat × Nat × Nat) (i : Nat) : Bool :=
  (i :: ancestors us us.length i).all fun j =>
    match us[j]? with
    | none => true
    | some u =>
      match u.parent with
      | none => true
      | some p =>
        match us[p]? with
        | none => true
        | some q =>
          if !q.modules then true else
          match imgOrigin b p with
          | none => false
          | some (x, y, z) =>
            (x + u.child % q.d0) % torus.1 == own.1 % torus.1 &&
              (y + u.child / q.d0 % q.d1) % torus.2.1 == own.2.1 % torus.2.1 &&
              (z + u.child / (q.d0 * q.d1)) % torus.2.2 == own.2.2 % torus.2.2

/-- Leaf ordinals bound on the module, ascending: the module unit number is the place in the list (R241). -/
def leavesHere (b : List Byte) (us : List ImgUnit) (own torus : Nat × Nat × Nat) : List Nat :=
  us.zipIdx.filterMap fun p => if !p.1.casement && onModule b us own torus p.2 then some p.1.leaf else none

/-- Order 5: sections, their contents and the unit tree. -/
def imgContentOk (b : List Byte) (own torus : Nat × Nat × Nat) : Bool :=
  imgTableOk b &&
    match imgUnits b with
    | none => false
    | some us =>
      let here := leavesHere b us own torus
      modulesOk us && fabricOk b us && tasksOk b (leafCount us) && grantsOk b (leafCount us) && streamsOk b us (leafCount us) &&
        bindingsOk b us && ((imgData b).all (dataOk b fun u => here[u]?)) &&
        (imgEntries b 8).length ≤ 256 && (imgEntries b 8).all apertureOk && (imgEntries b 9).all placementOk &&
        (imgEntries b 10).all sourceOk

/-- The limits of order 6 that the image alone decides: nesting, children, bindings, casements of modules that fit the torus
and have equal children (R19, R21, R423). -/
def imgLimitsOk (b : List Byte) (torus : Nat × Nat × Nat) : Bool :=
  match imgUnits b with
  | none => false
  | some us =>
    (us.all fun u => u.depth ≤ 32 && u.children ≤ 65536 &&
      (!u.modules || (u.d0 ≤ torus.1 && u.d1 ≤ torus.2.1 && u.d2 ≤ torus.2.2))) &&
      sameTrees us && !(imgBindings b).any bindingBarred

/-- BIND of a refused image, by the first check that fails; 0 where orders 1 to 5 and the image's own limits pass. -/
def bindResult (r : Reply) (own torus : Nat × Nat × Nat) : Nat :=
  match r with
  | .poisoned _ => 4
  | .status _ => 4
  | .ok b =>
    if !imgHeaderOk b || !imgCrcOk b then 3
    else if !imgVersionOk b then 2
    else if !imgContentOk b own torus then 3
    else if !imgLimitsOk b torus then 1
    else 0

end Sys2Proof.Machine
end

