-- ==== Sys2Proof/Machine/Bindings.lean ====
section
/-!
DEFINITION. The links that an image's stream declarations and bindings describe (R21, R197, R473, R474).
-/
namespace Sys2Proof.Machine
open Sys2Proof

/-- The far ends of one tile of a boundary stream: declarations, by index; `sum` where they contribute to one sum (R21). -/
structure Turn where
  decls : List Nat
  sum : Bool
  deriving DecidableEq, Repr

/-- Tile `i` of a stream whose far ends repeat. -/
def turnAt (l : List Turn) (i : Nat) : Turn := l.getD (i % l.length) ⟨[], false⟩

/-- The least common multiple of the lengths, at least 1. -/
def periodOf (ls : List (List Turn)) : Nat := ls.foldl (fun n l => Nat.lcm n (max 1 l.length)) 1

/-- Every child takes its part in every tile: BROADCAST, or SUM with several contributions (R21). -/
def joinTurns (sum : Bool) (ls : List (List Turn)) : List Turn :=
  (List.range (periodOf ls)).map fun i =>
    ⟨ls.flatMap fun l => (turnAt l i).decls, sum && (1 < ls.length || ls.any fun l => (turnAt l i).sum)⟩

/-- Tile `i` belongs to child i mod n, as that child's tile i / n (R21). -/
def dealTurns (ls : List (List Turn)) : List Turn :=
  (List.range (ls.length * periodOf ls)).map fun i => turnAt (ls.getD (i % ls.length) []) (i / ls.length)

/-- The far ends inside a casement of its boundary stream `x`, tile by tile: those of the children that the binding reaches. -/
def innerTurns (b : List Byte) (us : List ImgUnit) : Nat → ImgBinding → List Turn
  | 0, _ => []
  | fuel + 1, x =>
    let kids := if x.how == 0 then ((childrenOf us x.node)[x.child]?).toList else childrenOf us x.node
    let ofKid (n : Nat) : List Turn :=
      match us[n]? with
      | none => []
      | some u =>
        if u.casement then
          match (imgBindings b).find? fun y => y.node == n && y.port == x.inner && y.dir == x.dir with
          | some y => innerTurns b us fuel y
          | none => []
        else
          match (imgStreams b).findIdx? fun y => y.leaf == u.leaf && y.task == field x.inner 8 4 && y.h == field x.inner 0 4 with
          | some d => [⟨[d], false⟩]
          | none => []
    let ls := kids.map ofKid
    match x.how with
    | 0 => joinTurns false ls
    | 1 => joinTurns false ls
    | 2 => dealTurns ls
    | _ => joinTurns true ls

/-- The declaration outside every casement that entry `k` belongs to, with the outermost entry (R474). -/
def outerEnd (b : List Byte) (us : List ImgUnit) : Nat → Nat → Option (Nat × ImgBinding)
  | 0, _ => none
  | fuel + 1, k =>
    match (imgBindings b)[k]? with
    | none => none
    | some x =>
      match outsiders b us k x with
      | d :: _ => some (d, x)
      | [] =>
        match outerBindings b us x with
        | y :: _ =>
          match (imgBindings b).findIdx? (· == y) with
          | some j => outerEnd b us fuel j
          | none => none
        | [] => none

/-- What the image says of declaration `i`: its consumers and their turns, or the producers of its ring in turn. `peer` gives the
consumer that a declaration is, and `here` the endpoint that it is on this module, if it is one. -/
def imgLink (b : List Byte) (us : List ImgUnit) (peer : Nat → Peer) (here : Nat → Option Nat) (i : Nat) : LinkPlan :=
  match (imgStreams b)[i]? with
  | none => .none
  | some x =>
    let single (d : Nat) : LinkPlan := ⟨[peer d], [[0]], false, []⟩
    if x.peer == noPeer then .none
    else if !bitAt x.peer 31 then (if x.dir == 1 then single x.peer else .none)
    else
      match (imgBindings b)[x.peer - 2 ^ 31]? with
      | none => .none
      | some y =>
        if y.names us x then
          match outerEnd b us us.length (x.peer - 2 ^ 31) with
          | none => .none
          | some (d, z) =>
            if x.dir == 0 then .none
            else { single d with merge := (innerTurns b us us.length z).any fun t => t.sum && t.decls.contains i }
        else
          let turns := innerTurns b us us.length y
          if x.dir == 1 then
            let ends := (turns.flatMap (·.decls)).eraseDups
            { peers := ends.map peer
              route := turns.map fun t => t.decls.filterMap fun d => ends.findIdx? (· == d)
              merge := false
              sources := [] }
          else if turns.length ≤ 1 then .none
          else { LinkPlan.none with sources := turns.map fun t =>
              if t.sum then none else match t.decls with | [d] => here d | _ => none }

end Sys2Proof.Machine
end

