-- ==== Sys2Proof/Machine/Collective.lean ====
section
/-!
DEFINITION. Collective sums: members and instances, dense and sparse steps, the tick grid, markers, aborts (R423 to R446).
-/
namespace Sys2Proof.Machine
open Sys2Proof

/-! ## Passes and steps (R428, R434) -/

def Coll.ext (i : Coll) : Nat → Nat
  | 0 => i.extent.1
  | 1 => i.extent.2.1
  | _ => i.extent.2.2

def Coll.at_ (i : Coll) : Nat → Nat
  | 0 => i.coord.1
  | 1 => i.coord.2.1
  | _ => i.coord.2.2

/-- Elements of a piece, and Q (R427). -/
def Coll.pieceLen (i : Coll) : Nat := 1024 * i.pieceTiles
def Coll.pieces (i : Coll) : Nat := ceilDiv i.elems i.pieceLen

/-- Dimensions that the instance passes over. -/
def Coll.passes (i : Coll) : List Nat := [0, 1, 2].filter fun k => 1 < i.ext k

/-- Steps of a pass: Q + 2d − 3 dense, d − 1 sparse. -/
def Coll.passLen (i : Coll) (k : Nat) : Nat := if i.sparse then i.ext k - 1 else i.pieces + 2 * i.ext k - 3

/-- Steps of the instance; one where no dimension exceeds 1. -/
def Coll.steps (i : Coll) : Nat := max 1 (i.passes.map i.passLen).sum

/-- Dimension and step within its pass of a global step, and that the pass is the last. -/
def Coll.locate (i : Coll) : List Nat → Nat → Option (Nat × Nat × Bool)
  | [], _ => none
  | k :: rest, n => if n < i.passLen k then some (k, n, rest.isEmpty) else i.locate rest (n - i.passLen k)

def Coll.where_ (i : Coll) : Option (Nat × Nat × Bool) := i.locate i.passes i.step

/-- Piece `j − off`, if there is such a piece. -/
def Coll.pieceAt (i : Coll) (j off : Nat) : Option Nat := if off ≤ j && j - off < i.pieces then some (j - off) else none

/-- The pieces that a member sends upward, receives from below, sends downward and receives from above in step `j` of a pass
over dimension `k` (R429). -/
def Coll.sendUp (i : Coll) (k j : Nat) : Option Nat :=
  if i.at_ k + 1 < i.ext k then i.pieceAt j (i.at_ k) else none

def Coll.recvUp (i : Coll) (k j : Nat) : Option Nat := if i.at_ k == 0 then none else i.pieceAt j (i.at_ k - 1)

def Coll.sendDown (i : Coll) (k j : Nat) : Option Nat :=
  let c := i.at_ k
  let d := i.ext k
  if c == 0 then none else i.pieceAt j (2 * d - 2 - c)

def Coll.recvDown (i : Coll) (k j : Nat) : Option Nat :=
  let c := i.at_ k
  let d := i.ext k
  if c + 1 < d then i.pieceAt j (2 * d - 3 - c) else none

/-! ## The working vector (R426, R427) -/

/-- Logical core of a member's core-unit. -/
def State.collCore (s : State) (i : Coll) : Nat :=
  match (s.ctx i.ctx).members.find? fun m => m.leaf == i.leaf with
  | some m => m.core
  | none => 0

/-- Address of tile `k` of the working vector, which takes the first tiles of the instance's scratch in flat order (log entry 11).
-/
def Coll.wTile (i : Coll) (k : Nat) : Nat := i.scratch + 4096 * i.tiles.getD k 0

/-- Tiles of a piece: number and elements. -/
def Coll.pieceTiles_ (i : Coll) (q : Nat) : List (Nat × Nat) :=
  ((List.range i.pieceTiles).map fun t => (q * i.pieceTiles + t, min 1024 (i.elems - 1024 * (q * i.pieceTiles + t)))).filter
    fun p => p.2 != 0

/-- w[q]: values and the poison of their sectors. -/
def State.readW (s : State) (i : Coll) (q : Nat) : List (Word32 × Bool) :=
  let core := s.collCore i
  (i.pieceTiles_ q).flatMap fun p =>
    let a := i.wTile p.1
    (unpackCodes 32 p.2 (s.tread core i.ctx a (4 * p.2))).zipIdx.map fun v =>
      (BitVec.ofNat 32 v.1, s.tpoison core i.ctx (a + 4 * v.2) 4)

/-- First poisoned sector of w[q]. -/
def State.badW (s : State) (i : Coll) (q : Nat) : Option Nat :=
  let core := s.collCore i
  ((i.pieceTiles_ q).flatMap fun p => (List.range (ceilDiv (4 * p.2) 64)).map fun n => i.wTile p.1 + 64 * n).find? fun a =>
    s.tpoison core i.ctx a 4

/-- Write values with their poison to an address, one write. -/
def State.putVals (s : State) (c a : Nat) (vs : List (Word32 × Bool)) : State :=
  let bad := (vs.zipIdx.filter (·.1.2)).map fun p => (a + 4 * p.2) / 64
  s.twrite c a (vs.flatMap fun v => leBytes 4 v.1.toNat) bad.contains

/-- Replace w[q]. -/
def State.writeW (s : State) (i : Coll) (q : Nat) (vs : List (Word32 × Bool)) : State :=
  ((i.pieceTiles_ q).zipIdx).foldl (fun s p => s.putVals i.ctx (i.wTile p.1.1) ((vs.drop (1024 * p.2)).take p.1.2)) s

/-! ## The task of a member -/

/-- The slot and task that wait in the instance. -/
def State.collTask (s : State) (i : Coll) : Option (Nat × Nat × Task) :=
  (s.cores.tasks.find? fun p => p.2.ctx == i.ctx && p.2.leaf == i.leaf && p.2.num == i.task && p.2.wait == some .coll).map
    fun p => (p.1 / 16, p.1 % 16, p.2)

/-- The instruction as its meaning sees it. -/
def Coll.cx (i : Coll) (core slot : Nat) (t : Task) : Cx := ⟨core, slot, i.ctx, i.word.toNat, i.extWord.toNat, t⟩

/-- Completion word (R440). -/
def collWord (status reason own total : Nat) : Nat :=
  status + reason * 2 ^ 8 + own % 2 ^ 24 * 2 ^ 16 + min total (2 ^ 24 - 1) * 2 ^ 40

def State.putS63 (s : State) (core slot v : Nat) : State :=
  s.modTask core slot fun t => t.setReg 63 (BitVec.ofNat 64 v) false

/-- The instruction retires: PROGRESS 0, s63, the PC moves on (R173, R440, R444). -/
def State.collRetire (s : State) (core slot word w63 : Nat) : State :=
  let s := (s.putProgress core slot (field word 42 5) 0).putS63 core slot w63
  let s := (s.modTask core slot fun t => { t with
    state := if t.state == .waiting then .ready else t.state
    wait := none }).advance core slot word
  s.noteRetire core slot

/-- The wait of a member's task so far is counted (R439). -/
def State.collWaited (s : State) (core slot : Nat) : State :=
  match s.task? core slot with
  | none => s
  | some t =>
    if t.state != .waiting then s else
    (s.wrap64 (Reg.colWaitTicks t.ctx) (s.tick - t.waitStart)).modTask core slot fun t => { t with waitStart := s.tick }

def State.setColl (s : State) (i : Coll) : State :=
  { s with coll.insts := s.coll.insts.map fun k => if k.job == i.job && k.num == i.num && k.endedAs.isNone then i else k }

/-- An instance ends ABORTED; its task retires, or will when it is restored (R441, R444, R445). -/
def State.collAbort (s : State) (i : Coll) (reason node : Nat) : State :=
  match s.collTask i with
  | some (core, slot, _) =>
    ((s.collWaited core slot).collEnd i reason node).collRetire core slot i.word.toNat (collWord 2 reason i.dropped 0)
  | none =>
    let s := s.collEnd i reason node
    { s with coll.insts := s.coll.insts ++ [{ i with endedAs := some reason, tiles := [], launched := false }] }

/-! ## Markers and step data (R432, R437) -/

def collBlock (num step dim opnd : Nat) : List Byte := leBytes 4 num ++ leBytes 2 step ++ leBytes 2 dim ++ leBytes 8 opnd

def Coll.readyData (i : Coll) : List Byte :=
  leBytes 8 i.elems ++ leBytes 4 i.cap ++ leBytes 2 i.pieceTiles ++ leBytes 1 i.stepLog2 ++ leBytes 1 i.sparse.toNat ++
    leBytes 2 i.extent.1 ++ leBytes 2 i.extent.2.1 ++ leBytes 2 i.extent.2.2 ++ List.replicate 10 0#8

/-- A marker to every neighbour. -/
def State.collMark (s : State) (i : Coll) (kind opnd : Nat) (data : List Byte) : State :=
  { s with coll.out := s.coll.out ++ i.nbrs.map fun (n : Nat × Nat) =>
      (n.2, ⟨none, ptColl, 1, i.job, collBlock i.num kind 3 opnd, data⟩) }

/-- Messages of one direction's step data, of up to 64 KiB each. -/
def Coll.dataMsgs (i : Coll) (dir : Nat) (data : List Byte) : List (Nat × Msg) :=
  match SMap.get? i.nbrs dir with
  | none => []
  | some node => (List.range (ceilDiv data.length 65536)).map fun m =>
      (node, ⟨some (true, 0), ptColl, 2, i.job, collBlock i.num i.step (dir / 2) (65536 * m), (data.drop (65536 * m)).take 65536⟩)

def pieceData (vs : List Word32) (flags : Nat) : List Byte := vs.flatMap (fun v => leBytes 4 v.toNat) ++ leBytes 8 (flags % 64)

/-- The lists that a member holds, as a block (R434). -/
def Coll.block (i : Coll) : List Byte := i.lists.flatMap (·.2)

/-- What the member sends in the step that it launches, by direction (R429, R434). -/
def State.collSends (s : State) (i : Coll) : List (Nat × List Byte) :=
  match i.where_ with
  | none => []
  | some (k, j, _) =>
    if i.sparse then
      let up := if j == 0 then i.block else i.below
      let down := if j == 0 then i.block else i.above
      (if i.at_ k + 1 < i.ext k && j ≤ i.at_ k then [(2 * k, up)] else []) ++
        (if 0 < i.at_ k && j + i.at_ k < i.ext k then [(2 * k + 1, down)] else [])
    else
      (match i.sendUp k j with
        | none => []
        | some q => [(2 * k,
            if i.at_ k == 0 then pieceData ((s.readW i q).map (·.1)) (SMap.getD i.flags q 0)
            else pieceData i.up i.upFlags)]) ++
      (match i.sendDown k j with
        | none => []
        | some q => [(2 * k + 1, pieceData ((s.readW i q).map (·.1)) (SMap.getD i.flags q 0))])

/-- First poisoned sector among the bytes of an operand. -/
def Opnd.badSector (o : Opnd) (s : State) (core c : Nat) : Option Nat :=
  (o.grid.flatMap fun p => (List.range 64).map fun n => o.tileAddr p.1 p.2 + 64 * n).find? fun a => s.tpoison core c a 64

/-- The poisoned sector that the step would send (R444). -/
def State.collPoison (s : State) (i : Coll) (x : Cx) : Option Nat :=
  match i.where_ with
  | none => none
  | some (k, j, _) =>
    if i.sparse then
      if i.bad.isEmpty then none else (x.opnd x.ta).badSector s x.core x.c
    else
      let up := match i.sendUp k j with
        | some q => if i.at_ k == 0 || i.upPoison then s.badW i q else none
        | none => none
      match up with
      | some a => some a
      | none => (i.sendDown k j).bind (s.badW i)

/-! ## Destination (R430, R431, R435) -/

/-- Byte runs with the sectors of their poisoned elements: contiguous elements join. -/
def joinRuns : List (Nat × List Byte × Bool) → List (Nat × List Byte × List Nat)
  | [] => []
  | (a, bs, p) :: rest =>
    let own := if p then [a / 64] else []
    match joinRuns rest with
    | (a', bs', ps) :: more => if a + bs.length == a' then (a, bs ++ bs', own ++ ps) :: more else (a, bs, own) :: (a', bs', ps) :: more
    | [] => [(a, bs, own)]

/-- Convert FP32 values to the destination from flat index `e0`, write them and raise the flags. -/
def State.putSum (s : State) (x : Cx) (e0 : Nat) (vs : List (Word32 × Bool)) (flags : Nat) : State :=
  let o := x.opnd x.td
  let rs := vs.zipIdx.map fun p =>
    let e := e0 + p.2
    let r := convert .fp32 o.f (rounding s x x.rnd e) x.sat p.1.1.toNat (f32Val p.1.1)
    let (row, col) := o.coord e
    let a := o.tileAddr (row / o.tr) (col / o.tc) + (row % o.tr) * o.rowBytes + (col % o.tc) * (o.f.bits / 8)
    ((a, leBytes (o.f.bits / 8) r.1, p.1.2), r.2)
  let s := (joinRuns (rs.map (·.1))).foldl (fun s q => s.twrite x.c q.1 q.2.1 q.2.2.contains) s
  x.putFlags s (rs.foldl (fun f r => f ||| r.2) (BitVec.ofNat 16 flags))

/-! ## Dense: the additions of a step (R429) -/

/-- A received piece: its values and its trailer. -/
def pieceOf (data : List Byte) : List Word32 × Nat :=
  let n := (data.length - 8) / 4
  ((unpackCodes 32 n data).map (BitVec.ofNat 32), leAt data (data.length - 8) 1 % 64)

/-- A partial from below: p + w[q], element by element. -/
def State.collFold (s : State) (i : Coll) (q : Nat) (data : List Byte) : List (Word32 × Bool) × Nat :=
  let (p, fl) := pieceOf data
  let rs := (p.zip (s.readW i q)).map fun v => (f32Add v.1 v.2.1, v.2.2)
  (rs.map fun r => (r.1.1, r.2),
    fl ||| SMap.getD i.flags q 0 ||| (rs.foldl (fun f r => f ||| r.1.2) Flags.none).toNat)

/-- A final piece takes the place of w[q], and in the last pass goes to the destination. -/
def State.collFinal (s : State) (i : Coll) (x : Cx) (last : Bool) (q : Nat) (vs : List (Word32 × Bool)) (fl : Nat) :
    State × Coll :=
  let s := s.writeW i q vs
  let s := if last then s.putSum x (q * i.pieceLen) vs fl else s
  (s, { i with flags := SMap.putD i.flags q fl 0 })

/-- Data that has arrived for the launched step from a direction. -/
def Coll.data (i : Coll) (dir : Nat) : List Byte :=
  match i.got.find? fun g => g.1 == i.step && g.2.1 == dir with
  | some g => g.2.2
  | none => []

def State.denseStep (s : State) (i : Coll) (x : Cx) (k j : Nat) (last : Bool) : State × Coll :=
  let (s, i) := match i.recvUp k j with
    | none => (s, i)
    | some q =>
      let (vs, fl) := s.collFold i q (i.data (2 * k + 1))
      if i.at_ k + 1 == i.ext k then s.collFinal i x last q vs fl
      else (s, { i with up := vs.map fun (v : Word32 × Bool) => v.1, upFlags := fl, upPoison := vs.any fun (v : Word32 × Bool) => v.2 })
  match i.recvDown k j with
  | none => (s, i)
  | some q =>
    let (vs, fl) := pieceOf (i.data (2 * k))
    s.collFinal i x last q (vs.map fun v => (v, false)) fl

/-! ## Sparse: lists and the sum (R433 to R435) -/

def Coll.listBytes (i : Coll) : Nat := 16 + 8 * i.cap
def Coll.memberIndex (i : Coll) (c : Nat × Nat × Nat) : Nat := c.1 + i.extent.1 * (c.2.1 + i.extent.2.1 * c.2.2)

/-- Insert an entry in ascending index; equal indices fold in order (R433). The flags of these additions go to no task: R435 names those
of the folds of R45 alone (DESIGN CHOICE, log entry 29). -/
def putEntry : List (Int × Word32 × Bool) → Int × Word32 × Bool → List (Int × Word32 × Bool)
  | [], e => [e]
  | h :: t, e =>
    if e.1 < h.1 then e :: h :: t
    else if e.1 == h.1 then (h.1, (f32Add h.2.1 e.2.1).1, h.2.2 || e.2.2) :: t
    else h :: putEntry t e

/-- Steps 1 to 4 of R433: the kept entries and the dropped count. -/
def reduceEntries (elems cap : Nat) (es : List (Int × Word32 × Bool)) : List (Int × Word32 × Bool) × Nat :=
  let es := es.filter fun e => e.1 != -1
  let inside := es.filter fun e => 0 ≤ e.1 && e.1 < (elems : Int)
  let all := inside.foldl putEntry []
  (all.take cap, es.length - inside.length + (all.length - cap))

/-- The list as it is sent: header, entries, padding. -/
def Coll.listOf (i : Coll) (es : List (Int × Word32 × Bool)) (dropped : Nat) : List Byte :=
  leBytes 2 i.coord.1 ++ leBytes 2 i.coord.2.1 ++ leBytes 2 i.coord.2.2 ++ leBytes 2 0 ++ leBytes 4 dropped ++ leBytes 4 0 ++
    (es.flatMap fun e => leBytes 4 (ofSigned 32 e.1) ++ leBytes 4 e.2.1.toNat) ++
    (List.replicate (i.cap - es.length) (leBytes 4 0xFFFFFFFF ++ leBytes 4 0)).flatten

/-- Lists of a block that has arrived join those held. -/
def Coll.addBlock (i : Coll) (data : List Byte) : Coll :=
  (List.range (data.length / i.listBytes)).foldl (fun i n =>
    let l := (data.drop (n * i.listBytes)).take i.listBytes
    { i with lists := SMap.put i.lists (i.memberIndex (leAt l 0 2, leAt l 2 2, leAt l 4 2)) l }) i

/-- Entries of a list. -/
def Coll.entries (i : Coll) (l : List Byte) : List (Nat × Word32) :=
  ((List.range i.cap).map fun n => (leAt l (16 + 8 * n) 4, BitVec.ofNat 32 (leAt l (20 + 8 * n) 4))).filter fun e =>
    e.1 != 0xFFFFFFFF

/-- Fold of the values that are there, in order: none of them, no value (R45). -/
def foldSome : List (Option Word32) → Flagged (Option Word32)
  | [] => (none, Flags.none)
  | l => l.foldl (fun r v =>
      match r.1, v with
      | none, v => (v, r.2)
      | some a, none => (some a, r.2)
      | some a, some b => let t := f32Add a b; (some t.1, r.2 ||| t.2)) (none, Flags.none)

/-- Sum of one element over the members' entries, first along c0, then c1, then c2 (R45, R435). -/
def Coll.sumAt (i : Coll) (val : Nat → Option Word32) : Flagged Word32 :=
  let (d0, d1, d2) := i.extent
  let rows (c2 : Nat) := (List.range d1).map fun c1 => foldSome ((List.range d0).map fun c0 => val (i.memberIndex (c0, c1, c2)))
  let plane (c2 : Nat) : Flagged (Option Word32) :=
    let r := foldSome ((rows c2).map (·.1))
    (r.1, (rows c2).foldl (fun f q => f ||| q.2) r.2)
  let all := (List.range d2).map plane
  let r := foldSome (all.map (·.1))
  (r.1.getD 0#32, all.foldl (fun f q => f ||| q.2) r.2)

/-- The last step of a sparse instance writes every element of the destination. -/
def State.sparseSum (s : State) (i : Coll) (x : Cx) : State :=
  let tables := i.lists.map fun p => (p.1, i.entries p.2)
  let val (e m : Nat) : Option Word32 := (SMap.get? tables m).bind fun l => List.lookup e l
  let rs := (List.range i.elems).map fun e => (i.sumAt (val e), i.bad.contains (e : Int))
  s.putSum x 0 (rs.map fun r => (r.1.1, r.2)) (rs.foldl (fun f r => f ||| r.1.2) Flags.none).toNat

/-- Dropped entries of all members. -/
def Coll.total (i : Coll) : Nat := (i.lists.map fun p => leAt p.2 8 4).sum

def State.sparseStep (s : State) (i : Coll) (x : Cx) (k j : Nat) (last : Bool) : State × Coll :=
  let below := if j < i.at_ k then i.data (2 * k + 1) else []
  let above := if i.at_ k + 1 + j < i.ext k then i.data (2 * k) else []
  let i := { (i.addBlock below).addBlock above with below := below, above := above }
  if last && j + 1 == i.passLen k then (s.sparseSum i x, i) else (s, i)

/-! ## Completing a step (R436) -/

/-- Bytes that the launched step is to receive, by direction. -/
def Coll.expects (i : Coll) : List (Nat × Nat) :=
  match i.where_ with
  | none => []
  | some (k, j, _) =>
    if i.sparse then
      let n := i.listBytes * ((List.range k).map i.ext).foldl (· * ·) 1
      (if j < i.at_ k then [(2 * k + 1, n)] else []) ++ (if i.at_ k + 1 + j < i.ext k then [(2 * k, n)] else [])
    else
      let len (q : Nat) := 4 * min i.pieceLen (i.elems - q * i.pieceLen) + 8
      ((i.recvUp k j).toList.map fun q => (2 * k + 1, len q)) ++ (i.recvDown k j).toList.map fun q => (2 * k, len q)

/-- The effect of the step. -/
def State.collWork (s : State) (i : Coll) (x : Cx) : State × Coll :=
  match i.where_ with
  | some (k, j, last) => if i.sparse then s.sparseStep i x k j last else s.denseStep i x k j last
  | none =>
    if i.sparse then (s.sparseSum i x, i)
    else ((List.range i.pieces).foldl (fun s q => s.putSum x (q * i.pieceLen) (s.readW i q) 0) s, i)

/-- An instance ends OK or OVERFLOW_DROPPED (R440). -/
def State.collOk (s : State) (i : Coll) (core slot : Nat) : State :=
  let total := if i.sparse then i.total else 0
  let status := if total == 0 then 0 else 1
  let x := s.ctx i.ctx
  let s := s.setCtx i.ctx { x with
    collSeqs := SMap.put x.collSeqs i.seqKey ((SMap.getD x.collSeqs i.seqKey 0 + 1) % 4096) }
  let s := { s with
    coll.insts := s.coll.insts.filter fun k => !(k.job == i.job && k.num == i.num)
    coll.ends := s.coll.ends + 1 }
  let s := (s.put (Fld.colStatusLastStatus i.ctx) status).put (Fld.colStatusLastReason i.ctx) 0
  (s.bump (Fld.colDoneCount i.ctx)).collRetire core slot i.word.toNat (collWord status 0 i.dropped total)

/-- A launched step that has received everything completes: its effect, PROGRESS, s63 and DONE. -/
def State.collAdvance (s : State) (i : Coll) : State :=
  if !i.launched || !(i.expects.all fun p => (i.data p.1).length == p.2) then s else
  match s.collTask i with
  | none => s
  | some (core, slot, t) =>
    let s := s.collWaited core slot
    let (s, i) := s.collWork i (i.cx core slot t)
    let s := s.collMark i 1 i.step []
    let i := { i with
      got := i.got.filter fun g => g.1 != i.step
      step := i.step + 1, launched := false, progress := s.tick, resent := [] }
    if i.step == i.steps then s.collOk i core slot
    else
      ((s.setColl i).putProgress core slot (field i.word.toNat 42 5) (0x90 * 2 ^ 24 + i.step)).putS63 core slot
        (collWord 0 0 i.dropped 0)

/-! ## Launch (R436, R444) -/

/-- COLL_STEP_LAUNCH: at a grid tick the next step of a waiting member launches once its conditions hold. -/
def State.collLaunch (s : State) (core slot : Nat) : State :=
  match s.task? core slot with
  | none => s
  | some t =>
    match s.coll.insts.find? fun i => i.ctx == t.ctx && i.leaf == t.leaf && i.task == t.num && i.endedAs.isNone with
    | none => s
    | some i =>
      let met := if i.step == 0 then i.nbrs.all fun n => i.ready.contains n.1
        else i.nbrs.all fun n => i.step ≤ SMap.getD i.dones n.1 0
      if t.state != .waiting || t.wait != some .coll || !s.runs t.ctx || !s.flag Fld.timStatusPllLock || i.launched ||
          s.tick % 2 ^ i.stepLog2 != 0 || !met then s
      else
        let x := i.cx core slot t
        match s.collPoison i x with
        | some a =>
          (s.raiseCtx srcColl 0x0102 3 t.ctx (10 + t.leaf * 2 ^ 32) a).faultCtx t.ctx 3 t.leaf |>.vblPump
        | none =>
          let late : Bool := match i.lastLaunch with
            | some n => decide (n + 2 ^ i.stepLog2 < s.tick)
            | none => false
          let s := if late then s.bump (Fld.colSlipsCount t.ctx) else s
          let s := (s.collWaited core slot).noteIssue core slot
          let sends := s.collSends i
          let i := { i with launched := true, lastLaunch := some s.tick, progress := s.tick, resent := [] }
          let s := { s with coll.out := s.coll.out ++ sends.flatMap fun (p : Nat × List Byte) => i.dataMsgs p.1 p.2 }
          ((s.setColl i).collAdvance i).vblPump

def execCollStepLaunch (core : CoreId) (slot : SlotId) (s : State) : Host.Outcome State Fault Refusal :=
  .next (s.clocked (s.collLaunch core slot))

/-! ## COLL.SUM (R423 to R427, R433) -/

/-- The casement of modules and the child on this module that holds the issuing core-unit, or BAD_HANDLE (R423). -/
def State.collPlace (s : State) (x : Cx) : Chk (UnitNode × Nat × UnitNode) :=
  let us := (s.ctx x.c).units
  match us.findIdx? fun u => u.handle == x.s x.sreg with
  | none => .error .handle
  | some n =>
    match us[n]?, us.find? fun v => v.parent == some n && v.leaf ≤ x.t.leaf && x.t.leaf < v.leaf + v.leaves with
    | some u, some v =>
      match u.domain with
      | some d => if u.modules then .ok (u, d, v) else .error .handle
      | none => .error .handle
    | _, _ => .error .handle

/-- The casement neighbours: direction and node, in the torus of the module (R423, R427). -/
def State.collNbrs (s : State) (u : UnitNode) (c : Nat × Nat × Nat) : SMap Nat :=
  let (dx, dy, dz) := s.torus
  let (ox, oy, oz) := u.origin
  let node (a : Nat × Nat × Nat) : Nat :=
    (ox + a.1) % dx + dx * ((oy + a.2.1) % dy + dy * ((oz + a.2.2) % dz))
  (if c.1 + 1 < u.d0 then [(0, node (c.1 + 1, c.2.1, c.2.2))] else []) ++
  (if 0 < c.1 then [(1, node (c.1 - 1, c.2.1, c.2.2))] else []) ++
  (if c.2.1 + 1 < u.d1 then [(2, node (c.1, c.2.1 + 1, c.2.2))] else []) ++
  (if 0 < c.2.1 then [(3, node (c.1, c.2.1 - 1, c.2.2))] else []) ++
  (if c.2.2 + 1 < u.d2 then [(4, node (c.1, c.2.1, c.2.2 + 1))] else []) ++
  (if 0 < c.2.2 then [(5, node (c.1, c.2.1, c.2.2 - 1))] else [])

/-- PIECE_TILES and STEP_LOG2 within their limits (R448). -/
def State.collPieceTiles (s : State) (c : Nat) : Nat := max 1 (min 4096 (s.get (Fld.colCtxCtrlPieceTiles c)))
def State.collStepLog2 (s : State) (c : Nat) : Nat := max 6 (min 24 (s.get (Fld.colCtxCtrlStepLog2 c)))

/-- The causes 6 to 8 that no handle decides (R425). -/
def collCheck (x : Cx) (s : State) (sparse : Bool) : Chk Unit := do
  descCheck s x x.td 0
  descCheck s x x.ta 0
  if sparse then descCheck s x x.tb 0 else .ok ()
  let d := x.opnd x.td
  let a := x.opnd x.ta
  let b := x.opnd x.tb
  need (d.grid.all fun p => !s.inCode x.c (d.tileAddr p.1 p.2) 4096) (.ill 6 true)
  fmtCheck x x.ta x.afmt
  fmtCheck x x.td x.dfmt
  if sparse then fmtCheck x x.tb x.bfmt else .ok ()
  need ((a.f == .bf16 || a.f == .fp32) && (d.f == .bf16 || d.f == .fp32) && (!sparse || b.f == .int32) &&
    (x.rnd != 1 || d.f.srTarget)) badFormat
  let tier (o : Opnd) : Bool := o.grid.all fun p => upperTier (o.tileAddr p.1 p.2)
  let e := d.d.rows * d.d.cols
  let n := a.d.rows * a.d.cols
  let c := x.s x.sreg2
  need (tier d) (.ill 8 true)
  need (tier a && e ≤ 2 ^ 28) badShape
  if sparse then
    need (tier b && b.d.rows * b.d.cols == n && n ≤ 2 ^ 20 && 1 ≤ c && c ≤ 65536) badShape
  else
    need (n == e && ceilDiv e (1024 * s.collPieceTiles x.c) ≤ 16384 &&
      ceilDiv e 1024 + 4 * s.collPieceTiles x.c ≤ s.get (Fld.colScratchTilesTiles x.c)) badShape

/-- Tiles that the instance needs (R426). -/
def Coll.need (i : Coll) : Nat :=
  if i.sparse then ceilDiv (i.extent.1 * i.extent.2.1 * i.extent.2.2 * i.listBytes) 4096 + 1
  else ceilDiv i.elems 1024 + 4 * i.pieceTiles

/-- Free tiles of a context's scratch. -/
def State.scratchFree (s : State) (c : Nat) : List Nat :=
  let used := (s.coll.insts.filter fun i => i.ctx == c).flatMap (·.tiles)
  (List.range (s.get (Fld.colScratchTilesTiles c))).filter fun k => !used.contains k

/-- The member as its instruction describes it, before it takes scratch. -/
def State.collMember (s : State) (x : Cx) (sparse : Bool) (u : UnitNode) (dom : Nat) (v : UnitNode) : Coll :=
  let d := x.opnd x.td
  let c := (v.childIndex % u.d0, v.childIndex / u.d0 % u.d1, v.childIndex / (u.d0 * u.d1))
  let key := dom * 2 ^ 12 + (x.t.leaf - v.leaf) % 256 * 2 ^ 4 + x.t.num
  { ctx := x.c, leaf := x.t.leaf, task := x.t.num, job := s.jobOf x.c
    num := key * 2 ^ 12 + SMap.getD (s.ctx x.c).collSeqs key 0 % 4096
    word := BitVec.ofNat 64 x.word, extWord := BitVec.ofNat 64 x.ext
    coord := c, extent := (u.d0, u.d1, u.d2), nbrs := s.collNbrs u c
    sparse := sparse, elems := d.d.rows * d.d.cols, cap := if sparse then x.s x.sreg2 else 0
    pieceTiles := s.collPieceTiles x.c, stepLog2 := s.collStepLog2 x.c
    timeoutS := max 1 (s.get (Fld.colCtxCtrlTimeoutS x.c))
    scratch := s.get64 (Reg.colScratch x.c) % 2 ^ 44, tiles := []
    ready := [], dones := [], step := 0, launched := false, lastLaunch := none, progress := s.tick
    flags := [], up := [], upFlags := 0, upPoison := false
    lists := [], bad := [], below := [], above := [], dropped := 0, got := [], resent := [], endedAs := none }

/-- The first unit fills the working vector, or reduces the entries to the own list. -/
def State.collFill (s : State) (x : Cx) (i : Coll) : State × Coll :=
  let a := x.opnd x.ta
  let val (e : Nat) : Word32 × Bool :=
    let v := a.at s x e
    (BitVec.ofNat 32 (convert a.f .fp32 .rne false v.code v.val).1, v.poison)
  if i.sparse then
    let b := x.opnd x.tb
    let es := (List.range (a.d.rows * a.d.cols)).map fun p => (toSigned 32 (b.at s x p).code, val p)
    let (kept, dropped) := reduceEntries i.elems i.cap es
    (s, { i with
      dropped := dropped
      lists := [(i.memberIndex i.coord, i.listOf kept dropped)]
      bad := (kept.filter fun e => e.2.2).map (·.1) })
  else
    ((List.range i.pieces).foldl (fun s' q =>
      s'.writeW i q ((List.range (min i.pieceLen (i.elems - q * i.pieceLen))).map fun n => val (q * i.pieceLen + n))) s, i)

/-- A member starts: it takes its scratch, sends READY and waits (R426, R427). -/
def State.collStart (s : State) (x : Cx) (i : Coll) : State :=
  let i := { i with tiles := (s.scratchFree x.c).take i.need }
  let (s, i) := s.collFill x i
  let s := s.wrap64 (Reg.colDropped x.c) i.dropped
  let s := { s with coll.insts := s.coll.insts ++ [i] }
  let s := ((s.collMark i 0 0 i.readyData).putS63 x.core x.slot (collWord 0 0 i.dropped 0))
  (s.taskWait x.core x.slot .coll).vblPump

/-- The scratch is mapped T1 of the context. -/
def State.scratchOk (s : State) (i : Coll) : Bool :=
  inT1 i.scratch && i.scratch % 4096 == 0 && s.mapped i.ctx i.scratch (4096 * s.get (Fld.colScratchTilesTiles i.ctx))

/-- The observing uses of poison by a collective: its descriptors, its scalars and, when sparse, its index lists (R153). -/
def collPoisons (x : Cx) (s : State) (sparse : Bool) : Chk Unit := do
  descPoisons x ([x.td, x.ta] ++ if sparse then [x.tb] else [])
  x.clean 6 x.sreg
  if sparse then x.clean 5 x.sreg2
  if sparse then
    let b := x.opnd x.tb
    need ((List.range (b.d.rows * b.d.cols)).all fun p => !(b.at s x p).poison) (.poison 2 0 0)

/-- The end of a collective of a task: PROGRESS zero and the completion word in s63. -/
def collRetire (x : Cx) (s : State) (reason dropped : Nat) : Next :=
  .retire ((s.putProgress x.core x.slot x.td 0).putS63 x.core x.slot (collWord 2 reason dropped 0))

/-- The binding, leaf, task and block of numbers that make an instance the one of an issuing task. -/
def collMine (x : Cx) (m i : Coll) : Bool :=
  i.ctx == x.c && i.leaf == x.t.leaf && i.task == x.t.num && i.num / 2 ^ 12 == m.num / 2 ^ 12

/-- The instance of the task exists: it ended, or still runs. -/
def collAgain (x : Cx) (s : State) (m i : Coll) (count : Nat) : Next :=
  match i.endedAs with
  | some reason =>
    collRetire x { s with coll.insts := s.coll.insts.filter fun k => !collMine x m k } reason i.dropped
  | none =>
    if count == i.step then .stay (s.taskWait x.core x.slot .coll)
    else collRetire x (s.collEnd i 4 s.ownNode).vblPump 4 i.dropped

/-- A collective that passed its checks, `m` the instance it would make. -/
def collRun (x : Cx) (s : State) (m : Coll) : Chk Next :=
  let p := (Desc.of (x.t.desc x.td)).progress
  let count := if p / 2 ^ 24 == 0x90 then p % 2 ^ 24 else 0
  match s.coll.insts.find? (collMine x m) with
  | some i => .ok (collAgain x s m i count)
  | none =>
    if count != 0 && count < m.steps then .ok (collRetire x (s.collEnd { m with step := count } 4 s.ownNode).vblPump 4 0)
    else
      match s.coll.kept.find? fun k => k.job == m.job && k.num == m.num with
      | some k =>
        let s := { s with coll.kept := s.coll.kept.filter fun k => !(k.job == m.job && k.num == m.num) }
        .ok (collRetire x (s.collEnd { m with nbrs := [] } k.reason k.node) k.reason 0)
      | none =>
        if (s.coll.insts.filter fun i => i.endedAs.isNone).length < 64 && m.need ≤ (s.scratchFree x.c).length then
          .ok (.stay (s.collStart x m))
        else .error (.wait (.collRoom s.coll.ends))

/-- COLL.SUM: a first issue starts a member, a later one takes up its instance again (R424, R441, R445). -/
def collBody (x : Cx) (s : State) : Chk Next := do
  let sparse := x.mode == 1
  collCheck x s sparse
  let v ← s.collPlace x
  let m := s.collMember x sparse v.1 v.2.1 v.2.2
  need (m.need ≤ s.get (Fld.colScratchTilesTiles x.c) && (!sparse || v.1.d0 * v.1.d1 * v.1.d2 * m.cap ≤ 2 ^ 22) && s.scratchOk m)
    badShape
  collPoisons x s sparse
  collRun x s m

def execCollSum (i : Issue) (s : State) : Host.Outcome State Fault Refusal :=
  issue ⟨0x90, true,
    fun w e => let sp := field w 6 3 == 1
      onlyFields ([(48, 2), (47, 1), (42, 5), (37, 5), (28, 4), (20, 4), (6, 3), (0, 6)] ++
        if sp then [(32, 5), (24, 4)] else []) w && rsvdTen e false && (sp || field e 48 6 == 0),
    fun w _ => rndOk w && field w 6 3 < 2 && fmtOk (field w 28 4) && fmtOk (field w 20 4) &&
      (field w 6 3 == 0 || fmtOk (field w 24 4))⟩ collBody i s

/-! ## Arrivals (R427, R436, R437, R441) -/

/-- Fields of a collective message: number, step, dimension, offset. -/
def RxMsg.collNum (m : RxMsg) : Nat := leAt m.block 0 4
def RxMsg.collStep (m : RxMsg) : Nat := leAt m.block 4 2
def RxMsg.collDim (m : RxMsg) : Nat := leAt m.block 6 2 % 4

/-- The running instance that a message names, with the direction of the neighbour that sent it. -/
def State.collFor (s : State) (m : RxMsg) : Option (Coll × Nat) :=
  (s.coll.insts.find? fun i => i.job == m.job && i.num == m.collNum && i.endedAs.isNone).bind fun i =>
    (i.nbrs.find? fun n => n.2 == m.src).map fun n => (i, n.1)

/-- The context of a message's job that holds its domain. -/
def State.collCtx (s : State) (m : RxMsg) : Option Nat :=
  (s.ctxs.find? fun p => s.ctxState p.1 != ctxIdle && s.jobOf p.1 == m.job &&
    p.2.units.any fun u => u.domain == some (m.collNum / 2 ^ 24)).map (·.1)

/-- A stray message is dropped and counted (R437, R448). -/
def State.collStray (s : State) (m : RxMsg) : State :=
  match s.collCtx m with
  | some c => s.bump (Fld.colStrayCount c)
  | none => s.misuseMod

/-- The marker at the head of the inbox, of a kind. -/
def State.takeMark (s : State) (kind : Nat → Bool) : Option (RxMsg × State) :=
  match s.takeMsg ptColl with
  | some (m, s') => if m.collDim == 3 && kind m.collStep then some (m, s') else none
  | none => none

/-- COLL_READY_RECEIVE: a READY is compared with the member's own parameters; a marker of a reserved kind is stray. -/
def State.collReady (s : State) : State :=
  match s.takeMark fun k => k == 0 || 3 ≤ k with
  | none => s
  | some (m, s) =>
    match if m.collStep == 0 then s.collFor m else none with
    | none => s.collStray m
    | some (i, dir) =>
      if m.data.take 22 != i.readyData.take 22 then (s.collAbort i 3 s.ownNode).vblPump
      else s.setColl { i with ready := if i.ready.contains dir then i.ready else i.ready ++ [dir] }

def execCollReadyReceive (s : State) : Host.Outcome State Fault Refusal := .next (s.clocked s.collReady)

/-- COLL_DONE_RECEIVE: a neighbour has completed a step, which is the member's current step or its next. -/
def State.collDone (s : State) : State :=
  match s.takeMark fun k => k == 1 with
  | none => s
  | some (m, s) =>
    match s.collFor m with
    | none => s.collStray m
    | some (i, dir) =>
      let n := m.opnd
      let near : Bool := if i.launched then n == i.step || n == i.step + 1 else n == i.step || n + 1 == i.step
      if !near then s.collStray m
      else s.setColl { i with dones := SMap.put i.dones dir (max (n + 1) (SMap.getD i.dones dir 0)) }

def execCollDoneReceive (s : State) : Host.Outcome State Fault Refusal := .next (s.clocked s.collDone)

/-- The number has not started on the module: its sequence is not behind that of its member. -/
def State.collAhead (s : State) (c : Nat) (num : Nat) : Bool :=
  (num % 4096 + 4096 - SMap.getD (s.ctx c).collSeqs (num / 4096) 0 % 4096) % 4096 < 2048

/-- COLL_ABORT_RECEIVE: a running instance ends and passes the ABORT on; one for a number that has not started is kept, for up to
64 numbers. -/
def State.collAbortIn (s : State) : State :=
  match s.takeMark fun k => k == 2 with
  | none => s
  | some (m, s) =>
    let reason := leAt m.data 0 1
    let node := leAt m.data 4 4 % 2 ^ 20
    match s.collFor m with
    | some (i, _) => (s.collAbort i reason node).vblPump
    | none =>
      match s.collCtx m with
      | none => s.misuseMod
      | some c =>
        if s.coll.kept.any fun k => k.job == m.job && k.num == m.collNum then s
        else if s.collAhead c m.collNum && s.coll.kept.length < 64 then
          { s with coll.kept := s.coll.kept ++ [⟨m.job, m.collNum, reason, node⟩] }
        else s.collStray m

def execCollAbortReceive (s : State) : Host.Outcome State Fault Refusal := .next (s.clocked s.collAbortIn)

/-- Data of a step joins what has arrived from that direction; an offset of 0 begins anew (R443). -/
def Coll.addData (i : Coll) (step dir off : Nat) (bs : List Byte) : Coll :=
  let old := match i.got.find? fun g => g.1 == step && g.2.1 == dir with
    | some g => g.2.2
    | none => []
  let rest := i.got.filter fun g => !(g.1 == step && g.2.1 == dir)
  if off == 0 then { i with got := rest ++ [(step, dir, bs)] }
  else if off == old.length then { i with got := rest ++ [(step, dir, old ++ bs)] }
  else i

/-- COLL_STEP_DATA_RECEIVE: data of the member's current or next step; a step that has all of its data completes. -/
def State.collDataIn (s : State) : State :=
  match s.takeMsg ptColl with
  | none => s
  | some (m, s') =>
    if m.collDim == 3 then s else
    match s'.collFor m with
    | none => s'.collStray m
    | some (i, dir) =>
      let n := m.collStep
      if dir / 2 != m.collDim || !(n == i.step || (i.launched && n == i.step + 1)) then s'.collStray m
      else
        let i := i.addData n dir m.opnd m.data
        ((s'.setColl i).collAdvance i).vblPump

def execCollStepDataReceive (s : State) : Host.Outcome State Fault Refusal := .next (s.clocked s.collDataIn)

/-! ## Timeouts and resends (R442, R443) -/

def ticksPerSecond : Nat := 250000000

/-- COLL_TIMEOUT: TIMEOUT_S seconds without progress. -/
def State.collTimeout (s : State) (c num : Nat) : State :=
  match s.coll.insts.find? fun i => i.ctx == c && i.num == num && i.endedAs.isNone with
  | none => s
  | some i =>
    if s.tick < i.progress + i.timeoutS * ticksPerSecond then s else
    let s := s.raiseCtx srcColl 0x0900 3 c (num + i.step % 2 ^ 16 * 2 ^ 32) i.progress
    (s.collAbort i 1 s.ownNode).vblPump

def execCollTimeout (c : CtxId) (num : BitVec 32) (s : State) : Host.Outcome State Fault Refusal :=
  .next (s.clocked (s.collTimeout c num.toNat))

/-- A message carries data of this instance's step in this direction. -/
def Coll.same (i : Coll) (m : Msg) : Bool :=
  m.ptype == ptColl && m.job == i.job && leAt m.block 0 4 == i.num && leAt m.block 4 2 == i.step && leAt m.block 6 2 != 3

/-- COLL_STEP_RESEND: the first message that a failed connection handed back. Data of the launched step goes out again once, whole;
a second failure, or no path, ends the instance with LINK_LOST. -/
def State.collResend (s : State) : State :=
  match s.coll.back with
  | [] => s
  | (node, path, m) :: rest =>
    let s := { s with coll.back := rest }
    match s.coll.insts.find? fun i => i.launched && i.endedAs.isNone && i.same m with
    | none => s
    | some i =>
      match i.nbrs.find? fun n => n.2 == node with
      | none => s
      | some (dir, _) =>
        if !path || i.resent.contains dir then (s.collAbort i 5 s.ownNode).vblPump
        else
          let s := { s with coll.back := s.coll.back.filter fun (b : Nat × Bool × Msg) => !(b.1 == node && i.same b.2.2) }
          let s := match s.txConn node with
            | some x => s.setTx node { x with wait := x.wait.filter fun m => !i.same m }
            | none => s
          let i := { i with resent := i.resent ++ [dir] }
          let again := ((s.collSends i).filter fun p => p.1 == dir).flatMap fun p => i.dataMsgs p.1 p.2
          ({ s with coll.out := s.coll.out ++ again }.setColl i).vblPump

def execCollStepResend (s : State) : Host.Outcome State Fault Refusal := .next (s.clocked s.collResend)

/-! ## COL_CNT_CTRL (R448) -/

def State.collClear (s : State) (c : Nat) : State :=
  (s.clearAll [Fld.colDoneCount c, Fld.colAbortsCount c, Fld.colSlipsCount c, Fld.colStrayCount c]).clear64
    [Reg.colDropped c, Reg.colWaitTicks c]

def execColCntClear (req : Requester) (c : CtxId) (s : State) : Host.Outcome State Fault Refusal :=
  .next (s.write req (Reg.colCntCtrl c) 1 fun s => s.collClear c)

end Sys2Proof.Machine
end

