-- ==== Sys2Proof/Machine/Contexts.lean ====
section
/-!
DEFINITION. Contexts and partitions: the commands of CTX_CMD, binding, the start tick, teardown, retained set-ups, partition
registers and partition reset (R450 to R467, R477 to R480, R596).
-/
namespace Sys2Proof.Machine
open Sys2Proof

/-! ## Partitions (R450 to R457) -/

/-- Contexts whose CTX_CFG names a partition and that are assigned to it. -/
def State.ctxsOf (s : State) (p : Nat) : List Nat :=
  (List.range 64).filter fun c => s.flag (Fld.ctxCfgValid c) && s.partOf c == p

/-- A context of the partition is not IDLE (ACTIVE of SHT_STATUS). -/
def State.partActive (s : State) (p : Nat) : Bool := (s.ctxsOf p).any s.ctxUsed

def State.partBusy (s : State) (p : Nat) : Bool := s.flag (Fld.shtStatusResetting p) || s.flag (Fld.shtStatusZeroing p)

/-- A refused write: LAST_REFUSAL and the module misuse counter (R452). -/
def State.shtRefuse (s : State) (p reason : Nat) : State := (s.put (Fld.shtStatusLastRefusal p) reason).misuseMod

/-- A write of one of the four registers that must wait for idle contexts: reasons 6 and 2, then its own, then the effect. -/
def State.shtWrite (s : State) (p : Nat) (own : Nat) (f : State → State) : State :=
  if s.partBusy p then s.shtRefuse p 6
  else if s.partActive p then s.shtRefuse p 2
  else if own != 0 then s.shtRefuse p own
  else f s

/-- The rectangle that SHT_RECT holds in `v`: x0, x1, y0, y1. -/
def rectOf (v : Nat) : Nat × Nat × Nat × Nat := (field v 0 4, field v 4 4, field v 8 4, field v 12 4)

def rectsMeet (a b : Nat × Nat × Nat × Nat) : Bool :=
  a.1 ≤ b.2.1 && b.1 ≤ a.2.1 && a.2.2.1 ≤ b.2.2.2 && b.2.2.1 ≤ a.2.2.2

/-- A write of SHT_RECT (R450, R452). -/
def State.rectWrite (s : State) (p v : Nat) : State :=
  let r := rectOf v
  let own :=
    if r.2.1 < r.1 || r.2.2.2 < r.2.2.1 then 7
    else if bitAt v 31 && (List.range 32).any fun q => q != p && s.flag (Fld.shtRectValid q) &&
        rectsMeet r (rectOf (s.rd (Reg.shtRect q))) then 1
    else 0
  s.shtWrite p own fun s => s.wr (Reg.shtRect p) (setField v 16 15 0)

/-- A write of SHT_T2_BASE: only while SLICE_TILES is 0 (R453). -/
def State.t2BaseWrite (s : State) (p v : Nat) : State :=
  s.shtWrite p (if s.get (Fld.shtT2SizeTiles p) != 0 then 3 else 0) fun s => s.put (Fld.shtT2BaseTiles p) v

/-- Tiles of a stack (R453). -/
def stackTiles : Nat := 25165824

/-- Hash slots that map to a channel (R265). -/
def State.slotsOn (s : State) (m : Nat) : Nat := ((List.range 16).filter fun h => s.slotChan h == m).length

/-- Slices of SLICE_TILES `n` for a partition end beyond a stack or meet another partition's (R453). -/
def State.slicesBad (s : State) (p n : Nat) : Bool :=
  let base := s.get (Fld.shtT2BaseTiles p)
  (List.range 16).any fun m =>
    let k := s.slotsOn m
    k != 0 && n != 0 && (stackTiles < base + k * n || (List.range 32).any fun q =>
      let b := s.get (Fld.shtT2BaseTiles q)
      let z := s.get (Fld.shtT2SizeTiles q)
      q != p && z != 0 && base < b + k * z && b < base + k * n)

/-- SHT_T2_SIZE_WRITE: from 0 to another value the slices are zeroed (R453, R456). -/
def State.t2SizeWrite (s : State) (p v : Nat) : State :=
  let n := field v 0 25
  s.shtWrite p (if s.slicesBad p n then 3 else 0) fun s =>
    let old := s.get (Fld.shtT2SizeTiles p)
    let s := s.put (Fld.shtT2SizeTiles p) n
    if old == 0 && n != 0 then s.put (Fld.shtStatusZeroing p) 1 else s

def execShtT2SizeWrite (req : Requester) (p : PartId) (v : BitVec 32) (s : State) : Host.Outcome State Fault Refusal :=
  .next (s.write req (Reg.shtT2Size p) v.toNat fun s => s.t2SizeWrite p v.toNat)

/-- Set or clear SHUT of a port; what waits behind a SHUT port is discarded (R395, R455). -/
def State.setShut (s : State) (p : Nat) (b : Bool) : State :=
  let s := s.put (Fld.lnkCtrlShut p) b.toNat
  if b then s.modPort p fun x => { x with queue := [] } else s

/-- Weight ports that a partition owns (R455). -/
def State.partPorts (s : State) (p : Nat) : List Nat :=
  (weightPorts.zipIdx.filter fun w => bitAt (s.rd (Reg.shtPorts p)) w.2).map (·.1)

/-- A write of SHT_PORTS; a weight port that no partition owns is SHUT (R455). -/
def State.portsWrite (s : State) (p v : Nat) : State :=
  let own := if (List.range 32).any fun q => q != p && s.rd (Reg.shtPorts q) &&& v != 0 then 4 else 0
  s.shtWrite p own fun s =>
    let old := s.partPorts p
    let s := s.wr (Reg.shtPorts p) v
    (old.filter fun w => !(s.partPorts p).contains w).foldl (fun s w => s.setShut w true) s

/-- A write of SHT_CFG (R452, R454). -/
def State.cfgWrite (s : State) (p v : Nat) : State :=
  let others := (((List.range 32).filter (· != p)).map fun q => s.get (Fld.shtCfgT2Share q)).sum
  if s.partBusy p then s.shtRefuse p 6
  else if 63 < others + field v 0 6 then s.shtRefuse p 5
  else (s.put (Fld.shtCfgT2Share p) v).put (Fld.shtCfgXex p) (v / 2 ^ 8)

def execShtClear (req : Requester) (p : PartId) (s : State) : Host.Outcome State Fault Refusal :=
  .next (s.write req (Reg.shtCtrl p) 2 fun s => s.put (Fld.shtMisuseCount p) 0)

def execShtModClear (req : Requester) (s : State) : Host.Outcome State Fault Refusal :=
  .next (s.write req Reg.shtModCtrl 1 fun s => s.put Fld.shtModMisuseCount 0)

/-! ## Link shares (R459, R478) -/

/-- Place of a job's entry on a port, or of one not in use. -/
def State.shareEntry (s : State) (port job : Nat) : Option Nat :=
  match (List.range 32).find? fun q => s.get (Fld.lnkShareShare port q) != 0 && s.get (Fld.lnkShareJob port q) == job with
  | some q => some q
  | none => (List.range 32).find? fun q => s.get (Fld.lnkShareShare port q) == 0

/-- Entries of a port's other jobs. -/
def State.otherShares (s : State) (port job : Nat) : Nat :=
  ((List.range 32).map fun q => if s.get (Fld.lnkShareJob port q) == job then 0 else s.get (Fld.lnkShareShare port q)).sum

def State.putShare (s : State) (port q job w : Nat) : State :=
  (s.put (Fld.lnkShareJob port q) job).put (Fld.lnkShareShare port q) w

/-- A port and the share that the job declares on it. -/
def sharePorts (shares : List Nat) : List (Nat × Nat) :=
  allPorts.filterMap fun p => match portDir p with
    | some d => if shares.getD d 0 == 0 then none else some (p, shares.getD d 0)
    | none => none

/-- Jobs with a context in a partition, in ascending ID. -/
def State.partJobs (s : State) (p : Nat) : List Nat :=
  (((s.ctxsOf p).filter s.ctxUsed).map s.jobOf).foldl (fun l j =>
    if l.contains j then l else l.filter (· < j) ++ j :: l.filter (j < ·)) []

/-- The entries that a LOAD needs do not fit (R459). -/
def State.sharesBad (s : State) (c : Nat) (shares : List Nat) : Bool :=
  let job := s.jobOf c
  ((sharePorts shares).any fun p => 64 < s.otherShares p.1 job + p.2 || (s.shareEntry p.1 job).isNone) ||
    (!(s.partPorts (s.partOf c)).isEmpty && 32 < (s.partJobs (s.partOf c)).length)

/-- Druter writes the entries: the declared share on the peer ports, and equal parts of 64 on the partition's weight ports (R459).
-/
def State.writeShares (s : State) (c : Nat) (shares : List Nat) : State :=
  let job := s.jobOf c
  let s := (sharePorts shares).foldl (fun s p =>
    match s.shareEntry p.1 job with
    | some q => s.putShare p.1 q job p.2
    | none => s) s
  let jobs := s.partJobs (s.partOf c)
  let n := jobs.length
  (s.partPorts (s.partOf c)).foldl (fun s p =>
    (List.range 32).foldl (fun s q =>
      match jobs[q]? with
      | some j => s.putShare p q j (64 / n + if q == 0 then 64 % n else 0)
      | none => s.putShare p q 0 0) s) s

/-- Without RETAIN the set-up of a partition is released (R478). -/
def State.releaseSetup (s : State) (p : Nat) : State :=
  let jobs := (s.ctxsOf p).map s.jobOf
  let gone := jobs.filter fun j => !((List.range 64).any fun c => s.jobOf c == j && s.partOf c != p && s.ctxUsed c)
  let s := allPorts.foldl (fun s port => (List.range 32).foldl (fun s q =>
    if s.get (Fld.lnkShareShare port q) != 0 && gone.contains (s.get (Fld.lnkShareJob port q)) then s.putShare port q 0 0
    else s) s) s
  ((s.partPorts p).foldl (fun s w => s.setShut w true) s).put (Fld.shtStatusRetained p) 0

/-! ## Teardown (R456, R466) -/

/-- Zero `len` bytes of a member's share from `off`; both are multiples of 64. -/
def Memory.zeroShare (m : Memory) (u : Member) (t1 : Bool) (off len : Nat) : Memory :=
  let a := u.phys t1 off
  let first := min len (tierBytes t1 - a)
  (m.zero (coreKey t1 u.core a) first).zero (coreKey t1 u.core 0) (len - first)

/-- The memory that a core-unit holds becomes zero, and its poison is cleared (R456). -/
def Memory.zeroMember (m : Memory) (u : Member) : Memory :=
  let m := (m.zeroShare u false 0 u.t0Bytes).zeroShare u true 0 u.t1Bytes
  u.areas.foldl (fun m a => m.zeroShare u a.t1 a.off a.len) m

/-- Endpoints and merge nodes of a context are disabled (R466). -/
def State.dropStreams (s : State) (c : Nat) : State :=
  let ks := (s.cores.eps.filter fun p => s.get (Fld.strCfgContext p.1) == c).map (·.1)
  let s := ks.foldl (fun s k => { s.put (Fld.strCfgEn k) 0 with cores.eps := SMap.del s.cores.eps k }) s
  let nodes := s.ctrl.regs.filterMap fun r => match locate r.1 with
    | some l => if l.blk == .mrg && l.off == 0 then some l.inst else none
    | none => none
  let mine := nodes.filter fun i => s.flag (Fld.mrgNodeLoEn i) && s.get (Fld.mrgNodeHiContext i) == c
  let s := mine.foldl (fun s i => s.put (Fld.mrgNodeLoEn i) 0) s
  { s with cores.spent := s.cores.spent.filter fun q => !mine.contains (q / 2) }

/-- Slots become EMPTY, buffers are free, staged copies and lines are dropped. -/
def State.dropTasks (s : State) (c : Nat) : State :=
  let mine (core slot : Nat) : Bool := match s.task? core slot with | some t => t.ctx == c | none => false
  { s with
    cores.tasks := s.cores.tasks.filter fun p => p.2.ctx != c
    cores.buffers := s.cores.buffers.filter fun (b : Buffer) => b.ctx != c
    cores.pools := s.cores.pools.filter fun p => p.1 % 64 != c
    cores.credits := s.cores.credits.filter fun (k : Credit) => s.get (Fld.strCfgContext k.dst) != c
    cores.stageQueue := (s.cores.stageQueue.map fun p => (p.1, p.2.filter fun k => !mine p.1 k)).filter fun p => !p.2.isEmpty
    cores.first := (s.cores.first.map fun p => (p.1, p.2.filter fun k => !mine p.1 k)).filter fun p => !p.2.isEmpty
    cores.held := (s.cores.held.map fun p => (p.1, p.2.filter fun k => !mine p.1 k)).filter fun p => !p.2.isEmpty }

/-- Grants, the areas above them and accumulator windows are zeroed (R456). -/
def State.zeroGrants (s : State) (c : Nat) : State :=
  let x := s.ctx c
  let m := x.members.foldl Memory.zeroMember s.mem
  let m := x.tasks.foldl (fun m d => m.zero (accKey d.core d.accFirst) (4096 * d.accCount)) m
  { s with mem := m }

/-- Ranges of a core's tier that a member holds, as (first byte, length) of the tier. -/
def Member.ranges (m : Member) (t1 : Bool) : List (Nat × Nat) :=
  ((0, if t1 then m.t1Bytes else m.t0Bytes) :: ((m.areas.filter fun a => a.t1 == t1).map fun a => (a.off, a.len))).flatMap fun r =>
    let a := m.phys t1 r.1
    let first := min r.2 (tierBytes t1 - a)
    [(a, first), (0, r.2 - first)]

/-- Members of every context on a core. -/
def State.onCore (s : State) (core : Nat) : List Member :=
  s.ctxs.flatMap fun p => p.2.members.filter fun m => m.core == core

/-! ## Scan save areas (R520) -/

/-- First byte of a slot's scan save area in its glazing slice: 80 MiB to the slice's end. -/
def saveLo : Nat := 432 * 2 ^ 20

def Member.belowSave (m : Member) : Bool := (m.ranges true).all fun r => r.2 == 0 || r.1 + r.2 ≤ saveLo

/-- The binder grants no byte of the save area of a slot whose pane has no free position. -/
def State.saveOk (s : State) (ms : List Member) : Bool :=
  ms.all fun m => !(s.freePositions (paneOf m.core)).isEmpty || m.belowSave

/-- It reserves the save areas of such slots. -/
def State.saveTake (s : State) (ms : List Member) : State :=
  ms.foldl (fun s m =>
    let f := Fld.ptcSaveArea (paneOf m.core)
    if (s.freePositions (paneOf m.core)).isEmpty && (s.onCore m.core).all Member.belowSave then
      s.put f (setBit (s.get f) (slotOf m.core) true)
    else s) s

/-- A slot that no context has a unit on gives its area back. -/
def State.saveDrop (s : State) (ms : List Member) : State :=
  ms.foldl (fun s m =>
    let f := Fld.ptcSaveArea (paneOf m.core)
    if (s.onCore m.core).isEmpty then s.put f (setBit (s.get f) (slotOf m.core) false) else s) s

/-- A unit of a DUPLICATE context whose buddy slot is unserved, or outside the partition's rectangle (R508). -/
def State.dupBad (s : State) (c : Nat) (ms : List Member) : Bool :=
  s.get (Fld.relCtxCtrlLevel c) == 4 && ms.any fun m =>
    let b := m.core ^^^ 1
    s.partAt b != some (s.partOf c) || s.servedBy b == 15

/-- What the context has in flight ends: task control, collectives, engines, groups, requests (R97, R466 steps 1 and 2). -/
def State.stopAll (s : State) (c : Nat) : State :=
  let s := if s.taskOps.any fun o => o.ctx == c && o.issuer.isNone then
      (s.put (Fld.synTskStatusBusy c) 0).put (Fld.synTskStatusResult c) resBadState else s
  let s := { s with taskOps := s.taskOps.filter fun (o : TaskOp) => o.ctx != c }
  ((((s.collEndCtx c).migAbort c).lvrAbort c).discardGroups c).dropRequests c

/-- Longest times, in ticks, from the start of a teardown to the zeroing, and from there to its end (R466). -/
def tearZeroMax : Nat := 62500
def tearEndMax : Nat := 187500

/-- A teardown begins: what is in flight ends, slots, endpoints and buffers are freed, the incarnation rises (R466 steps 1 to 3). When
the zeroing and the end come is free within their bounds (log entry 4). -/
def State.tearDown (s : State) (c : Nat) (retain : Bool) : State :=
  let s := (((s.stopAll c).dropTasks c).dropStreams c).raiseInc c
  let z := Config.pick s.draws % (tearZeroMax + 1)
  let e := Config.pick (s.draws + 1) % (tearEndMax + 1)
  let s := s.setCtx c { s.ctx c with tear := some ⟨retain, some z, z + e⟩, startAt := none, forced := none }
  { s.put (Fld.ctxStatusBusy c) 1 with draws := s.draws + 2 }.vblPump

/-- A teardown runs, or waits for the boot field (R414, R596); the tasks that it ends record STOP_CAUSE 5 (R147). -/
def State.teardown (s : State) (c : Nat) (retain : Bool) : State :=
  let s := s.markStopped c 5
  if s.riseHeld c then s.deferRise (.teardown c retain) else s.tearDown c retain

/-! ## Partition reset (R456, R467, R480) -/

/-- Every context of the partition is torn down, or its incarnation rises (R480 step 2). -/
def State.resetCtxs (s : State) (p : Nat) : State :=
  (s.ctxsOf p).foldl (fun s c =>
    if s.riseWaits c then s
    else if s.ctxUsed c then s.teardown c false
    else if s.riseHeld c then s.deferRise (.reset c)
    else s.raiseInc c) { s with resets := s.resets.filter (· != p) }

/-- A reset goes on as far as it can: once no teardown runs that was running before it, the contexts end; once none is left, the
zeroing begins, or the reset ends (R467, R480). -/
def State.resetGoes (s : State) (p : Nat) : State :=
  let s := if s.resets.contains p && !(s.ctxsOf p).any s.tearing then s.resetCtxs p else s
  if !s.flag (Fld.shtStatusResetting p) || s.resets.contains p || s.partActive p || (s.ctxsOf p).any s.riseWaits then s else
  let s := s.put (Fld.shtStatusRetained p) 0
  if s.get (Fld.shtT2SizeTiles p) != 0 then s.put (Fld.shtStatusZeroing p) 1
  else (s.put (Fld.shtStatusResetting p) 0).raise srcCtx 0x0A02 0 0xFF p p 0

/-- SHT_RESET. -/
def State.partReset (s : State) (p : Nat) : State :=
  if s.flag (Fld.shtStatusResetting p) then s else
  ({ s.put (Fld.shtStatusResetting p) 1 with resets := s.resets ++ [p] }.resetGoes p).vblPump

/-- A teardown ends: the context is IDLE, and the set-up is kept or released (R466 step 5, R478). -/
def State.tearEnd (s : State) (c : Nat) (retain : Bool) : State :=
  let ms := (s.ctx c).members
  let s := { s with ctxs := SMap.del s.ctxs c, migs := SMap.del s.migs c }
  let s := s.setLvr c { Lvr.empty with next := s.get (Fld.lvrDescHeadHead c) }
  let s := ((s.put (Fld.ctxStatusState c) ctxIdle).put (Fld.ctxStatusBusy c) 0).saveDrop ms
  let p := s.partOf c
  let last := !s.partActive p
  let kept := retain && last
  let s := s.raiseCtx srcCtx 0x0A01 0 c (c + kept.toNat * 2 ^ 8) (s.rd (Reg.vblInc c))
  let s := if !last then s else if kept then s.put (Fld.shtStatusRetained p) 1 else s.releaseSetup p
  (s.resetGoes p).vblPump

/-- A tick of a teardown: its grants are zeroed in their turn, and it ends (R466 steps 4 and 5). -/
def State.tearTick (s : State) (c : Nat) : State :=
  match (s.ctx c).tear with
  | none => s
  | some t =>
    let s := if t.zeroIn == some 0 then s.zeroGrants c else s
    if t.endIn == 0 then s.tearEnd c t.retain
    else
      let z := match t.zeroIn with
        | some (n + 1) => some n
        | _ => none
      s.setCtx c { s.ctx c with tear := some ⟨t.retain, z, t.endIn - 1⟩ }

def execShtReset (req : Requester) (p : PartId) (s : State) : Host.Outcome State Fault Refusal :=
  .next (s.write req (Reg.shtCtrl p) 1 fun s => s.partReset p)

/-- Every slice of a partition reads zero, without poison (R456). -/
def State.zeroSlices (s : State) (p : Nat) : State :=
  let n := s.get (Fld.shtT2SizeTiles p)
  { s with mem := (List.range 16).foldl (fun m h =>
      m.zero (stackKey (s.slotChan h) (4096 * s.sliceBase p h)) (4096 * n)) s.mem }

/-- T2_ZEROING_DONE. -/
def State.zeroingDone (s : State) (p : Nat) : State :=
  if !s.flag (Fld.shtStatusZeroing p) then s else
  let s := (s.zeroSlices p).put (Fld.shtStatusZeroing p) 0
  if s.flag (Fld.shtStatusResetting p) then
    (s.put (Fld.shtStatusResetting p) 0).raise srcCtx 0x0A02 0 0xFF p p (16 * s.get (Fld.shtT2SizeTiles p))
  else s

def execT2ZeroingDone (p : PartId) (s : State) : Host.Outcome State Fault Refusal := .next (s.clocked (s.zeroingDone p.val))

/-! ## CTX_CMD (R461 to R463, R467, R596) -/

def State.ctxResult (s : State) (c r : Nat) : State := s.put (Fld.ctxStatusResult c) r

/-- LOADING: the incarnation has risen, CTX_FAULT is clear, Druter reads the image (R462). -/
def State.enterLoading (s : State) (c : Nat) : State :=
  let s := ((s.put (Fld.ctxStatusState c) ctxLoading).put (Fld.ctxStatusBusy c) 1).put (Fld.ctxStatusBind c) 0
  let s := (s.put (Fld.relCtxMismatchCount c) 0).put (Fld.relCtxUnresolvedCount c) 0
  let s := ((s.raiseInc c).wr (Reg.ctxFault c) 0).put (Fld.synThrGenGen c) 0
  -- each core draws the offset of its samples (R506)
  { s with draws := s.draws + 256 }.setCtx c { Context.empty with
    t2Bytes := 16 * 4096 * s.get (Fld.shtT2SizeTiles (s.partOf c))
    priv := s.flag (Fld.ctxOptPriv c)
    sampleDraw := s.draws }

/-- LOAD is in order (R462). -/
def State.loadOk (s : State) (c : Nat) : Bool :=
  let p := s.partOf c
  s.flag (Fld.ctxCfgValid c) && s.jobOf c != 0 && s.get64 (Reg.ctxImage c) % 4096 == 0 && s.flag (Fld.shtRectValid p) &&
    !s.partBusy p && !s.bootHold

def State.ctxLoad (s : State) (c : Nat) : State :=
  if s.ctxState c != ctxIdle then s.ctxResult c 1
  else if !s.loadOk c then s.ctxResult c 2
  else
    let s := s.ctxResult c 0
    if s.riseHeld c then s.deferRise (.load c) else (s.enterLoading c).vblPump

/-- Louvre's ring of a context is idle. -/
def State.lvrIdle (s : State) (c : Nat) : Bool :=
  let l := s.lvr c
  l.load.isNone && l.swap.isNone && s.get (Fld.lvrDescHeadHead c) == s.get (Fld.lvrDescTailTail c)

def State.ctxSeal (s : State) (c : Nat) : State :=
  if s.ctxState c != ctxLoading then s.ctxResult c 1
  else if !s.lvrIdle c then s.ctxResult c 3
  else (s.ctxResult c 0).put (Fld.ctxStatusState c) ctxReady

/-- START: a start tick of 0 names the first that lies far enough ahead (R463). -/
def State.ctxStart (s : State) (c : Nat) : State :=
  if s.ctxState c != ctxReady || (s.ctx c).startAt.isSome then s.ctxResult c 1
  else
    let t := s.get64 (Reg.ctxStartTick c)
    if t != 0 && t < s.tick + armLead then s.ctxResult c 4
    else (s.ctxResult c 0).setCtx c { s.ctx c with startAt := some (if t == 0 then s.tick + armLead else t) }

def State.ctxDrain (s : State) (c : Nat) (retain : Bool) : State :=
  if s.ctxState c != ctxRunning then s.ctxResult c 1
  else ((s.ctxResult c 0).put (Fld.ctxStatusState c) ctxDraining).setCtx c { s.ctx c with retain := retain }

def State.ctxKill (s : State) (c : Nat) (retain : Bool) : State :=
  if s.ctxState c == ctxIdle then s.ctxResult c 1 else (s.ctxResult c 0).teardown c retain

/-- A write of CTX_CMD; while Druter is down it completes with RESULT 3 (R569). -/
def State.ctxCmd (s : State) (c cmd : Nat) (retain : Bool) : State :=
  if cmd == 0 then s
  else if 5 < cmd then s.ctxResult c 5
  else if s.flag Fld.svcStatusDruterDown || s.riseWaits c || s.tearing c || (s.flag (Fld.ctxStatusBusy c) && cmd != 5) then s.ctxResult c 3
  else
    match cmd with
    | 1 => s.ctxLoad c
    | 2 => s.ctxSeal c
    | 3 => s.ctxStart c
    | 4 => s.ctxDrain c retain
    | _ => s.ctxKill c retain

def State.ctxCmdWrite (s : State) (req : Requester) (c cmd : Nat) (retain : Bool) : State :=
  s.write req (Reg.ctxCmd c) (cmd + retain.toNat * 2 ^ 8) fun s => s.ctxCmd c cmd retain

def execCtxLoad (req : Requester) (c : CtxId) (s : State) : Host.Outcome State Fault Refusal :=
  .next (s.ctxCmdWrite req c 1 false)
def execCtxSeal (req : Requester) (c : CtxId) (s : State) : Host.Outcome State Fault Refusal :=
  .next (s.ctxCmdWrite req c 2 false)
def execCtxStart (req : Requester) (c : CtxId) (s : State) : Host.Outcome State Fault Refusal :=
  .next (s.ctxCmdWrite req c 3 false)
def execCtxDrain (req : Requester) (c : CtxId) (retain : Bool) (s : State) : Host.Outcome State Fault Refusal :=
  .next (s.ctxCmdWrite req c 4 retain)
def execCtxKill (req : Requester) (c : CtxId) (retain : Bool) (s : State) : Host.Outcome State Fault Refusal :=
  .next (s.ctxCmdWrite req c 5 retain)

/-- CTX_START_TICK: at its start tick the context is RUNNING and its initial tasks start (R463). -/
def State.startTick (s : State) (c : Nat) : State :=
  match (s.ctx c).startAt with
  | none => s
  | some t =>
    if s.ctxState c != ctxReady || s.riseWaits c || s.tick < t then s else
    let s := (s.put (Fld.ctxStatusState c) ctxRunning).setCtx c { s.ctx c with startAt := none }
    let ds := (s.ctx c).tasks.zipIdx.filter fun d => d.1.initial
    (ds.foldl (fun s d => (s.ctlStart c d.2 d.1).1) s).thrUpdate c

def execCtxStartTick (c : CtxId) (s : State) : Host.Outcome State Fault Refusal := .next (s.clocked (s.startTick c.val))

/-- The drain of a context is complete (R464). -/
def State.drainDone (s : State) (c : Nat) : Bool :=
  s.ctxState c == ctxDraining && !s.riseWaits c &&
    (s.tasksOf c).all (fun p => p.2.state == .halted) && s.lvrIdle c &&
    (SMap.get? s.migs c).isNone && s.get (Fld.migRingHeadHead c) == s.get (Fld.migRingTailTail c) &&
    !(s.coll.insts.any fun i => i.ctx == c && i.endedAs.isNone) &&
    !(s.vbl.reqs.any fun r => r.ctx == c) && !(s.vbl.batches.any fun b => b.ctx == c)

def execDrainComplete (c : CtxId) (s : State) : Host.Outcome State Fault Refusal :=
  .next (s.clocked (if s.drainDone c then s.teardown c (s.ctx c).retain else s))

/-! ## Happenings that waited for the boot field (R596) -/

/-- One happening takes effect after the commit, against the state that the ones before it leave. -/
def State.applyRise (s : State) : Rise → State
  | .load c => s.enterLoading c
  | .fault c cause ordinal =>
    if s.ctxState c == ctxIdle || s.ctxState c == ctxFaulted then s else s.enterFaulted c cause ordinal
  | .teardown c retain => if s.ctxUsed c then s.tearDown c retain else s.put (Fld.ctxStatusBusy c) 0
  | .reset c => (s.raiseInc c).put (Fld.ctxStatusBusy c) 0

def State.applyRises (s : State) : State :=
  let rs := s.rises
  let s := rs.foldl State.applyRise { s with rises := [] }
  ((List.range 32).foldl State.resetGoes s).vblPump

/-! ## Binding (R24, R241, R471 to R478) -/

/-- Units of the context as the tree and the plan give them. -/
def bindUnits (b : List Byte) (us : List ImgUnit) (plan : BindPlan) : List UnitNode :=
  us.zipIdx.map fun p =>
    let (u, i) := p
    { handle := plan.handles.getD i 0
      casement := u.casement, modules := u.modules
      d0 := u.d0, d1 := u.d1, d2 := u.d2
      parent := u.parent, childIndex := u.child, depth := u.depth, leaf := u.leaf
      leaves := if u.casement then ((below us i).filter fun j => match us[j]? with | some v => !v.casement | none => false).length
        else 1
      core := if u.casement then none else ((plan.cores.getD u.leaf none).map (·.val))
      origin := (imgOrigin b i).getD (0, 0, 0)
      hops := plan.hops.getD i 0
      domain := if u.modules then plan.domains.getD i none else none }

/-- Memory of the core-units bound here, in ascending leaf ordinal. -/
def bindMembers (b : List Byte) (here : List Nat) (plan : BindPlan) : List Member :=
  here.zipIdx.map fun p =>
    let g := imgGrant b p.1
    let base := plan.bases.getD p.2 (0, 0)
    { leaf := p.1, core := ((plan.cores.getD p.1 none).elim 0 (·.val)), base0 := base.1, base1 := base.2
      t0Bytes := g.t0, t1Bytes := g.t1
      areas := (plan.areas.filter fun a => a.leaf == p.1).map fun a => ⟨a.t1, a.off, a.len⟩
      stage := plan.stages.getD p.2 0 }

/-- Stream-handle registers of a task, from its declarations (R142, R145, R473). -/
def bindHandles (b : List Byte) (us : List UnitNode) (plan : BindPlan) (leaf task : Nat) : SMap Word64 :=
  let own := (us.find? fun u => !u.casement && u.leaf == leaf).elim 0 (·.handle)
  (imgStreams b).zipIdx.foldl (fun m p =>
    if p.1.leaf == leaf && p.1.task == task then
      let ep := (plan.streams[p.2]?).elim 0 (·.1.val)
      SMap.put m p.1.h (BitVec.ofNat 64 (own + ep * 2 ^ 32 + p.1.dir * 2 ^ 40))
    else m) []

/-- The links of the endpoints bound here (R473, R474). -/
def bindLinks (b : List Byte) (us : List ImgUnit) (here : List Nat) (plan : BindPlan) : SMap LinkPlan :=
  let key (i : Nat) : Option Nat :=
    match (imgStreams b)[i]?, plan.streams[i]? with
    | some x, some p => if here.contains x.leaf then ((plan.cores.getD x.leaf none).map fun k => epKey k.val p.1.val) else none
    | _, _ => none
  let peer (i : Nat) : Peer :=
    match key i with
    | some k => .here k
    | none => .away (((imgStreams b)[i]?).elim 0 (·.ring))
  (List.range (imgStreams b).length).foldl (fun m i =>
    match key i with
    | some k => SMap.put m k (imgLink b us peer key i)
    | none => m) []

/-- The tasks bound here (R211, R471). -/
def bindTasks (b : List Byte) (us : List UnitNode) (here : List Nat) (plan : BindPlan) : List TaskDecl :=
  (imgTasks b).zipIdx.filterMap fun p =>
    let (t, i) := p
    if !here.contains t.leaf then none else
    (plan.tasks[i]?).map fun k =>
      { leaf := t.leaf, num := t.num, core := ((plan.cores.getD t.leaf none).elim 0 (·.val)), slot := k.slot.val
        prio := t.prio, initial := t.initial, entry := plan.codeBase + t.entry, arg := BitVec.ofNat 64 t.arg
        accFirst := k.accFirst.val, accCount := t.acc, handles := bindHandles b us plan t.leaf t.num
        saveArea := k.saveArea, phase := .notStarted, thresholds := 0, barriers := [] }

/-- The context that a good binding gives. -/
def State.bindCtx (s : State) (c : Nat) (b : List Byte) (us : List ImgUnit) (here : List Nat) (plan : BindPlan) : Context :=
  let nodes := bindUnits b us plan
  { s.ctx c with
    units := nodes, tasks := bindTasks b nodes here plan, members := bindMembers b here plan
    links := bindLinks b us here plan, codeBase := plan.codeBase, codeLen := (imgBytes b 3).length
    unitsBound := leafCount us, bound := true, shares := imgShares b }

/-- Shares, slots and accumulator windows are free for the context, and nothing overlaps; `s` holds it already. -/
def State.bindRoom (s : State) (c : Nat) : Bool :=
  let x := s.ctx c
  (x.members.all fun m => [false, true].all fun t1 =>
    (m.areas.all fun a => a.t1 != t1 || (a.off % 64 == 0 && a.len % 64 == 0 && a.off + a.len ≤ tierBytes t1 &&
      (if t1 then m.t1Bytes else m.t0Bytes) ≤ a.off)) &&
    (if t1 then m.t1Bytes else m.t0Bytes) ≤ tierBytes t1 &&
    (if t1 then m.base1 else m.base0) % 4096 == 0 &&
    apartAll ((s.onCore m.core).flatMap fun k => k.ranges t1)) &&
  (x.tasks.all fun d => (s.task? d.core d.slot).isNone &&
    (s.ctxs.flatMap fun p => p.2.tasks.filter fun e => e.core == d.core && e.slot == d.slot).length == 1 &&
    d.accFirst + d.accCount ≤ 2048 &&
    apartAll (s.ctxs.flatMap fun p => (p.2.tasks.filter fun e => e.core == d.core).map fun e => (e.accFirst, e.accCount)))

/-- `n` bytes from an address are mapped T1 of the context, at a multiple of `al`. -/
def State.mappedT1 (s : State) (c a n al : Nat) : Bool := inT1 a && a % al == 0 && s.mapped c a n

/-- The places that the plan names are mapped, of the right kind and number, and the pools begin at multiples of 16 KiB of their cores'
tiers (R241, R253); rings are drawn from the pools (R188). `s` holds the context already. -/
def State.bindPlaces (s : State) (c : Nat) (b : List Byte) (here : List Nat) (plan : BindPlan) : Bool :=
  let x := s.ctx c
  let unitOf (a : Nat) : Option Nat := match region a with
    | .t0 u _ => here[u]?
    | .t1 u _ => here[u]?
    | .t2 _ => none
    | .t3 .. => none
    | .hole => none
  s.mappedT1 c plan.codeBase x.codeLen 8 &&
    (x.tasks.all fun d => s.mappedT1 c d.saveArea recordBytes 4096 && unitOf d.saveArea == some d.leaf) &&
    (plan.buffers.all fun p => p.2 % 4096 == 0 && upperTier p.2 && s.mapped c p.2 4096 && unitOf p.2 == some p.1) &&
    plan.buffers.eraseDups.length == plan.buffers.length &&
    ([false, true].all fun t1 => here.all fun l =>
      match least? ((plan.buffers.filter fun p => p.1 == l && inT1 p.2 == t1).map (·.2)) with
      | some a => s.key c a % 16384 == 0
      | none => true) &&
    (imgStage b == 0 || (x.members.all fun m =>
      s.mappedT1 c m.stage (4096 * imgStage b) 4096 && s.key c m.stage % 16384 == 0 && unitOf m.stage == some m.leaf &&
        apartAll ((m.stage, 4096 * imgStage b) :: (plan.codeBase, x.codeLen) ::
          (plan.buffers.map fun p => (p.2, 4096)) ++ x.tasks.map fun d => (d.saveArea, recordBytes)))) &&
    (here.all fun l =>
      ((plan.buffers.filter fun p => p.1 == l && inT0 p.2).length == (imgGrant b l).pool0) &&
      ((plan.buffers.filter fun p => p.1 == l && inT1 p.2).length == (imgGrant b l).pool1)) &&
    (if (imgEntries b 8).isEmpty then plan.aptBase == 0 else s.mappedT1 c plan.aptBase 4096 4096) &&
    (if (imgEntries b 9).isEmpty then plan.placeBase == 0
      else s.mappedT1 c plan.placeBase (32 * (imgEntries b 9).length) 4096) &&
    (if (imgStreams b).all fun t => t.kind == 0 && !bitAt t.flags 0 then plan.srcBase == 0
      else s.mappedT1 c plan.srcBase (4096 * here.length) 4096) &&
    ((imgStreams b).zipIdx.all fun p => !here.contains p.1.leaf || p.1.kind == 0 ||
      s.mappedT1 c ((plan.streams[p.2]?).elim 0 (·.2)) (16 * p.1.count) 16)

/-- The plan gives the context everything that the image asks for, on cores of its partition, with handles that no load of the same
context number has had (R24, R25, R62, R450). -/
def State.planOk (s : State) (c : Nat) (b : List Byte) (us : List ImgUnit) (here : List Nat) (plan : BindPlan) : Bool :=
  let s' := s.setCtx c (s.bindCtx c b us here plan)
  let eps := (imgStreams b).zipIdx.filterMap fun p =>
    if here.contains p.1.leaf then some (p.1.leaf, (plan.streams[p.2]?).elim 0 (·.1.val)) else none
  let cores := here.map fun l => (plan.cores.getD l none).map (·.val)
  plan.handles.length == us.length && plan.handles.eraseDups.length == us.length &&
    (plan.handles.all fun h => 0 < h && h < 0xFFFFFFFF && !(SMap.getD s.oldHandles c []).contains h) && plan.hops.length == us.length && plan.domains.length == us.length &&
    plan.cores.length == leafCount us && plan.tasks.length == (imgTasks b).length &&
    plan.streams.length == (imgStreams b).length && plan.bases.length == here.length && plan.stages.length == here.length &&
    (cores.all fun k => match k with
      | some k => s.partAt k == some (s.partOf c) && !s.fenced k
      | none => false) &&
    ((List.range (leafCount us)).all fun l => here.contains l || (plan.cores.getD l none).isNone) &&
    cores.eraseDups.length == cores.length && eps.eraseDups.length == eps.length &&
    (plan.domains.zipIdx.all fun d => match d.1, us[d.2]? with
      | some n, some u => u.modules && n < 256
      | none, some u => !u.modules
      | _, none => false) &&
    (plan.domains.filter (·.isSome)).eraseDups.length == (plan.domains.filter (·.isSome)).length &&
    s'.bindRoom c && s'.bindPlaces c b here plan && s.saveOk (s'.ctx c).members

/-- Bytes of the aperture table (R242), of the placement table (R294), and of a stream's source entry (R297). -/
def aptBytes (b : List Byte) : List Byte :=
  let l := (imgEntries b 8).flatten
  l ++ List.replicate (4096 - l.length) 0#8

def placeBytes (b : List Byte) : List Byte := (imgEntries b 9).flatten

def srcEntry (plan : BindPlan) (i : Nat) (t : ImgStream) : List Byte :=
  let at_ := (plan.streams[i]?).elim 0 (·.2)
  let fwd := bitAt t.flags 0
  let ep := if fwd then (plan.streams[t.fwd]?).elim 0 (·.1.val) else 0
  leBytes 8 (if t.kind == 0 then 0 else at_) ++ leBytes 2 (if t.kind == 0 then 0 else t.count) ++ leBytes 1 ep ++
    leBytes 1 (t.flags % 4) ++ leBytes 4 0

/-- Write unpoisoned bytes. -/
def State.put0 (s : State) (c a : Nat) (bs : List Byte) : State := s.twrite c a bs fun _ => false

/-- Code, data and tables are written (R472, R475). -/
def State.bindBytes (s : State) (c : Nat) (b : List Byte) (here : List Nat) (plan : BindPlan) : State :=
  let s := s.put0 c plan.codeBase (imgBytes b 3)
  let s := (imgData b).foldl (fun s d => s.put0 c d.addr ((b.drop d.off).take d.len)) s
  let s := if plan.aptBase == 0 then s else s.put0 c plan.aptBase (aptBytes b)
  let s := if plan.placeBase == 0 then s else s.put0 c plan.placeBase (placeBytes b)
  let segs := imgEntries b 10
  (imgStreams b).zipIdx.foldl (fun s p =>
    match here.findIdx? (· == p.1.leaf), plan.streams[p.2]? with
    | some u, some (ep, at_) =>
      if p.1.kind == 0 && !bitAt p.1.flags 0 then s else
      let s := s.put0 c (plan.srcBase + 16 * (256 * u + ep.val)) (srcEntry plan p.2 p.1)
      if p.1.kind == 0 then s else s.put0 c at_ ((segs.drop p.1.first).take p.1.count).flatten
    | _, _ => s) s

/-- Registers and pools that Druter sets up: the tables' addresses, priorities, the staging pool, buffers, shares, express
transit, and the weight ports opened. -/
def State.bindRegs (s : State) (c : Nat) (b : List Byte) (here : List Nat) (plan : BindPlan) : State :=
  let s := ((s.put64 (Reg.migAptBase c) plan.aptBase).put64 (Reg.lvrPlaceBase c) plan.placeBase).put64 (Reg.lvrSrcBase c) plan.srcBase
  let s := (s.ctx c).tasks.foldl (fun s d =>
    s.wr (Reg.corePrio d.core) (setField (s.rd (Reg.corePrio d.core)) (2 * d.slot) 2 d.prio)) s
  let s := s.put (Fld.migCtxCtrlStageTiles c) (imgStage b)
  let pool := plan.buffers.filterMap fun (p : Nat × Nat) =>
    if here.contains p.1 then
      some (Buffer.mk c ((plan.cores.getD p.1 none).elim 0 (·.val)) (inT1 p.2) p.2 .free 0#12)
    else none
  let s := { s with cores.buffers := s.cores.buffers ++ pool }
  let s := s.writeShares c (imgShares b)
  let p := s.partOf c
  let s := if imgXex b then s.put (Fld.shtCfgXex p) 1 else s
  if plan.reuse then s else ((s.partPorts p).foldl (fun s w => s.setShut w false) s).put (Fld.shtStatusRetained p) 0

/-- Binding refused: IDLE with BIND, and nothing of the LOAD remains (R462, R477). -/
def State.bindRefused (s : State) (c r : Nat) : State :=
  let s := ((s.put (Fld.ctxStatusState c) ctxIdle).put (Fld.ctxStatusBusy c) 0).put (Fld.ctxStatusBind c) r
  { s with ctxs := SMap.del s.ctxs c }

/-- Druter's read of the image, with the context's job: its length is that of the answer; one of the own node is checked and executed here
(R389, R470). -/
def State.readImage (s : State) (c : Nat) (img : Reply) : State × Reply :=
  let g := s.get64 (Reg.ctxImage c)
  let n := match img with | .ok b => b.length | .poisoned b => b.length | .status _ => 0
  if g / 2 ^ 44 != s.ownNode then s.readGlobal c g n img
  else
    match s.ownRead (s.jobOf c) g 128 with
    | (s, .ok h) =>
      let total := if leAt h 8 8 ≤ 2 ^ 36 then leAt h 8 8 else 128
      s.ownReads (s.jobOf c) ((List.range (ceilDiv total 65536)).map fun k => (g + 65536 * k, min 65536 (total - 65536 * k)))
    | r => r

/-- BINDING_DONE: Druter has read the image and finishes binding, or refuses it (R477). -/
def State.bindDone (s : State) (c : Nat) (img : Reply) (plan : BindPlan) : State :=
  if s.ctxState c != ctxLoading || !s.flag (Fld.ctxStatusBusy c) || (s.ctx c).bound || s.riseWaits c then s else
  let (s, img) := s.readImage c img
  match bindResult img s.ownCoords s.torus, img with
  | 0, .ok b =>
    match imgUnits b with
    | none => s
    | some us =>
      let here := leavesHere b us s.ownCoords s.torus
      if !plan.fits || s.get (Fld.shtT2SizeTiles (s.partOf c)) < imgT2Slice b || s.sharesBad c (imgShares b) ||
          s.dupBad c (bindMembers b here plan) then s.bindRefused c 1
      else if !s.planOk c b us here plan then s
      else
        let s := s.setCtx c (s.bindCtx c b us here plan)
        let s := { s with oldHandles := SMap.put s.oldHandles c (SMap.getD s.oldHandles c [] ++ plan.handles) }
        ((((s.bindBytes c b here plan).bindRegs c b here plan).saveTake (s.ctx c).members).put (Fld.ctxStatusBusy c) 0).vblPump
  | r, _ => s.bindRefused c r

def execBindingDone (c : CtxId) (img : Reply) (plan : BindPlan) (s : State) : Host.Outcome State Fault Refusal :=
  .next (s.clocked (s.bindDone c.val img plan))

end Sys2Proof.Machine
end

