-- ==== Sys2Proof/Machine/Views.lean ====
section
/-!
DEFINITION. What a control register reads as: fields that report the state of a unit are taken from that state, and WO fields read as
zero (R12, R99, R222, R223, R335, R385, R419, R448, R481, R504, R528).
-/
namespace Sys2Proof.Machine
open Sys2Proof

/-- CORE_STATUS of a served slot (R76, R99). -/
def State.coreStatus (s : State) (core : Nat) : Nat :=
  let ready := (List.range 16).foldl (fun m k => setBit m k (s.slotReady core k)) 0
  match s.posOf core with
  | none => 0
  | some p => s.get (Fld.ptcPosStatArrays p) + s.get (Fld.ptcPosStatSuspect p) * 2 ^ 10 + ready * 2 ^ 16

/-- COUNT_B of an endpoint: TAKEN, or the least FREE. -/
def State.countB (s : State) (k : Nat) : Nat := if s.flag (Fld.strCfgDir k) then s.free k else (s.epD k).taken

/-- STR_LATCH (R222); the counters read zero while EN is 0. -/
def State.strLatch (s : State) (k v : Nat) : Nat :=
  match s.ep? k with
  | none => v
  | some e =>
    let a := if s.flag (Fld.strCfgDir k) then s.inFlight k else e.filled
    setField (setField v 0 13 a) 16 13 (s.countB k)

/-- Requests checked under the inactive window copy are incomplete (R401); responses and collective steps meet no window. -/
def State.vblOldBusy (s : State) : Bool :=
  let old (ptype copy : Nat) : Bool := ptype ≤ ptDoorbell && copy != s.winCopy
  (s.trp.rx.any fun x => x.2.parts.any fun m => old m.ptype m.copy) || (s.vbl.inbox.any fun m => old m.ptype m.copy) ||
    s.vbl.blocked.any fun m => old m.ptype m.copy

/-- A register's fields that report a unit's state; the rest as stored in `v`. -/
def State.report (s : State) (l : Loc) (v : Nat) : Nat :=
  let i := l.inst
  match l.blk, l.off with
  | .core, 0x0 => s.coreStatus i
  | .str, 0xC => s.strLatch i v
  | .syn, 0x4 => setField (setField v 0 1 (s.dlmArmed i).toNat) 16 16 ((s.tasksOf i).filter fun p => p.2.blocked).length
  | .net, 0x0 => setField v 12 4 ((List.range 4).foldl (fun m d => setBit m d (s.shut i d)) 0)
  | .net, 0x8 => (s.nodesUp i).length + s.mergeTiles i * 2 ^ 16
  | .netm, 0x4 => setBit v 1 s.netOldBusy
  | .tim, 0x0 => s.tick % 2 ^ 32
  | .tim, 0x4 => s.tick / 2 ^ 32
  | .trp, 0x8 => s.trp.tx.length + s.trp.rx.length * 2 ^ 16
  | .vbl, 0x14 => setBit v 1 s.vblOldBusy
  | .col, 0x10 => setField v 24 7 (s.coll.insts.filter fun c => c.ctx == i && c.endedAs.isNone).length
  | .sht, 0x18 => setBit v 0 (s.partActive i)
  | .evc, 0x4 => s.evcHeld
  | .evq, 0x48 => setField v 0 13 (s.evq i).held'
  | .relc, 0x4 => setBit v 31 (s.get (Fld.relCtxCtrlLevel i) == 4 && (s.ctx i).members.any fun m => s.dupHere m.core)
  | _, _ => v

/-- Bits of the WO fields of a register. -/
def writeOnly (fs : List FieldSpec) (v : Nat) : Nat :=
  fs.foldl (fun v f => if f.acc == .wo then setField v f.lo f.w 0 else v) v

/-- What a read of an assigned register returns: fields of a block of an unserved slot read as zero (R99, R222). -/
def State.view (s : State) (l : Loc) (fs : List FieldSpec) (addr : Nat) : Nat :=
  let dark := match l.blk with
    | .core => s.servedBy l.inst == 15
    | .str => s.servedBy (l.inst / 256) == 15
    | _ => false
  if dark then 0 else writeOnly fs (s.report l (s.rd addr))

/-- What an aligned access at an address reads: zero at a reserved agent, block or offset (R10). -/
def State.look (s : State) (addr : Nat) : Nat :=
  match locate addr with
  | none => 0
  | some l => match regFields l.blk l.off with
    | none => 0
    | some fs => s.view l fs addr

end Sys2Proof.Machine
end

