-- ==== Sys2Proof/Machine/Manage.lean ====
section
/-!
DEFINITION. The service controller: management requests, telemetry passes, the watchdog over Druter and the sill chain (R547, R555 to R562,
R564, R569, R570, R572, R588).
-/
namespace Sys2Proof.Machine
open Sys2Proof

/-! ## The sill chain's frames (R561) -/

def State.chainAddr (s : State) : Nat := s.get Fld.svcStatusChainAddr

def sillEnum : Nat := 1
def sillBeat : Nat := 2
def sillReq : Nat := 3
def sillRsp : Nat := 4
def sillChange : Nat := 5

/-- A frame with its CRC. -/
def sillFrame (type dst src value : Nat) (payload : List Byte) : List Byte :=
  let b := leBytes 1 type ++ leBytes 1 dst ++ leBytes 1 src ++ leBytes 1 value ++ leBytes 2 payload.length ++ leBytes 2 0 ++ payload
  b ++ leBytes 4 (crc32c b)

/-- A frame whose CRC is good and whose TYPE is not reserved. -/
def sillGood (b : List Byte) : Bool :=
  let n := b.length - 4
  12 ≤ b.length && leAt b n 4 == crc32c (b.take n) && leAt b 4 2 == n - 8 && 1 ≤ leAt b 0 1 && leAt b 0 1 ≤ 5

/-! ## Management messages (R558, R559) -/

def mgmtMagic : Nat := 0x4D474D54
def stOk : Nat := 0
def stBad : Nat := 1
def stRefused : Nat := 2
def stBusy : Nat := 3
def stWedged : Nat := 4

/-- What an operation answers: STATUS, ARG1 and payload. -/
structure MgmtAns where
  status : Nat
  arg1 : Nat := 0
  data : List Byte := []
  deriving DecidableEq, Repr

def mgmtRsp (op seq : Nat) (a : MgmtAns) : List Byte :=
  leBytes 4 mgmtMagic ++ leBytes 1 op ++ leBytes 1 a.status ++ leBytes 2 a.data.length ++ leBytes 4 seq ++ leBytes 4 0 ++
    leBytes 8 a.arg1 ++ leBytes 8 0 ++ a.data

/-- Peer `i` of the MGMT section; none where its address is all zeros. -/
def State.mgmtPeer (s : State) (i : Nat) : Option (List Byte) :=
  match s.section? secMgmt with
  | none => none
  | some b =>
    let a := (b.drop (24 + 16 * i)).take 16
    if a.all (· == 0#8) then none else some a

/-- The request comes from a listed peer to the controller's own address and port, or on the chain. -/
def State.mgmtTaken (s : State) (src : MgmtSrc) : Bool :=
  match src with
  | .chain => s.chainAddr != 255
  | .udp a d port =>
    let b := (s.section? secMgmt).getD []
    ((List.range 4).any fun i => s.mgmtPeer i == some a) && d == b.take 16 && port.toNat == leAt b 16 2

/-- Answer a request. -/
def State.mgmtAnswer (s : State) (m : MgmtMsg) (own op : Nat) (a : MgmtAns) : State :=
  let r := mgmtRsp op m.seq.toNat a
  match m.src with
  | .chain => s.emit (.sill true (sillFrame sillRsp 255 own 0 r))
  | .udp .. => s.emit (.mgmt r)

/-- The wafer does not answer on the transom network (R556). -/
def State.wedged (s : State) (m : MgmtMsg) : Bool := m.wedged || s.svc.power != 2 || !s.flag Fld.timStatusPllLock

/-- TELEMETRY: registers of R547, module first, then region by region (order: DESIGN CHOICE, log entry 12). -/
def telemetryRegs : List Nat :=
  [Reg.pwrIn, Reg.pwrInW, Reg.pwrCoolT, Reg.pwrCoolF, Reg.pwrStatus] ++
    allRegions.flatMap fun r => [Reg.pwrRTel0 r, Reg.pwrRTel1 r, Reg.pwrRRcon r]

def State.opTelemetry (s : State) (m : MgmtMsg) : State × MgmtAns :=
  (s, { status := stOk, data := ((telemetryRegs.drop m.arg0.toNat).take 300).flatMap fun a => leBytes 4 (s.rd a) })

/-- LOG_READ: records from an index on, or from the oldest that is kept; ARG1 of the answer is the first one's index. -/
def State.opLogRead (s : State) (m : MgmtMsg) : State × MgmtAns :=
  let base := s.svc.logged - s.svc.log.length
  let first := max base m.arg1.toNat
  (s, { status := stOk, arg1 := first, data := ((s.svc.log.drop (first - base)).take 32).flatMap Event.bytes })

/-- PART_RESET; on a wedged wafer a module reset. -/
def State.opPartReset (s : State) (m : MgmtMsg) : State × MgmtAns :=
  if s.wedged m then (s.moduleReset 2 false, { status := stWedged })
  else
    let p := field m.arg0.toNat 0 5
    (s.write .svc (Reg.shtCtrl p) 1 fun s => s.partReset p, { status := stOk })

def State.opModuleReset (s : State) (m : MgmtMsg) : State × MgmtAns :=
  (s.moduleReset 2 (bitAt m.arg0.toNat 0), { status := stOk })

def State.opPowerOff (s : State) (_ : MgmtMsg) : State × MgmtAns := (s.powerOff 1, { status := stOk })

/-- DUMP: the position's clock stops, its task slots and the registers of its stop are copied, and the contexts with tasks there fault
(R570). -/
def State.dump (s : State) (pos : Nat) : State :=
  let core := s.coreServed pos
  let stop := core.getD (coreOf (pos / 5) (pos % 5 % 4))
  let records := match core with
    | none => []
    | some c => (List.range 16).map fun k =>
      match s.task? c k with
      | some t => t.record k (s.prio c k) s.tick
      | none => []
  let d := Dump.mk pos records ([Reg.netLink stop, Reg.netLinkErr stop, Reg.netMergeUse stop].map fun a => BitVec.ofNat 32 (s.look a))
  let s := { s with
    svc.dump := (if 900 ≤ s.svc.dump.length then s.svc.dump.drop 1 else s.svc.dump) ++ [d]
    svc.stopped := if s.svc.stopped.contains pos then s.svc.stopped else s.svc.stopped ++ [pos] }
  match core with
  | none => s
  | some c => ((s.ctxsOn c).foldl (fun s x => s.faultCtx x 8 (s.leafOn x c)) s).vblPump.evcFlow

def State.opDump (s : State) (m : MgmtMsg) : State × MgmtAns :=
  let pos := field m.arg0.toNat 0 9
  if 319 < pos then (s, { status := stBad })
  else if s.svc.testEn then (s, { status := stBusy })
  else if s.svc.power != 2 then (s, { status := stRefused })
  else (s.dump pos, { status := stOk })

/-- Sections that STORE_UPDATE changes, with their sizes (R564). -/
def updateSize (type : Nat) : Option Nat := if type == 3 then some 1664 else if type == 4 then some 21 else if type == 7 then some 88 else none

/-- STORE_UPDATE: stage bytes; with COMMIT, what is staged is written. -/
def State.opStoreUpdate (s : State) (m : MgmtMsg) : State × MgmtAns :=
  let type := field m.arg0.toNat 0 16
  let off := m.arg1.toNat
  match updateSize type with
  | none => (s, { status := stRefused })
  | some n =>
    if n < off + m.data.length then (s, { status := stBad })
    else
      let old := fitTo n 0#8 ((SMap.get? s.svc.stage type).getD ((s.section? type).getD []))
      let s := { s with svc.stage := SMap.put s.svc.stage type (old.take off ++ m.data ++ old.drop (off + m.data.length)) }
      if bitAt m.arg0.toNat 31 then ({ s with svc.stage := [] }.storeWrite s.svc.stage, { status := stOk })
      else (s, { status := stOk })

def State.opStatus (s : State) (_ : MgmtMsg) : State × MgmtAns :=
  (s, { status := stOk, data := leBytes 4 (s.rd Reg.svcStatus) ++ leBytes 4 (s.rd Reg.svcSup) ++ leBytes 1 s.chainAddr })

/-! ## Druter (R569) -/

/-- Druter is halted on all supervisors, and its restart begins; signals to supervisors pass on. -/
def State.druterRestart (s : State) (cause : Nat) : State :=
  let s := (s.put Fld.svcStatusDruterDown 1).bump Fld.svcWdtRestarts
  ({ s with
    svc.restart := some (s.svc.ms, cause)
    svc.restarts := s.svc.restarts ++ [s.svc.ms]
    svc.beat := 0 }).evcFlow

def State.opDruterRestart (s : State) (_ : MgmtMsg) : State × MgmtAns :=
  if s.svc.restart.isSome then (s, { status := stBusy })
  else if s.get Fld.svcStatusPhase != phaseReady then (s, { status := stRefused })
  else (s.druterRestart 2, { status := stOk })

/-- ASSIGN: refused while connections are open; on a wedged wafer a module reset. -/
def State.opAssign (s : State) (m : MgmtMsg) : State × MgmtAns :=
  if s.wedged m then (s.moduleReset 2 false, { status := stWedged })
  else if !s.trp.tx.isEmpty || !s.trp.rx.isEmpty then (s, { status := stRefused })
  else
    (((s.put Fld.vblNodeNode (field m.arg0.toNat 0 20)).put Fld.vblNodeValid 1).wr Reg.vblTorus (m.arg1.toNat % 2 ^ 32),
      { status := stOk })

/-! ## Requests -/

/-- A request is dropped and counted, answered BAD_REQUEST, or run. -/
def State.mgmtOp (s : State) (op : Nat) (m : MgmtMsg) (f : State → MgmtMsg → State × MgmtAns) : State :=
  if s.svc.power == 0 then s
  else if !s.mgmtTaken m.src then s.bump Fld.svcMgmtDropCount
  else if m.rsvd != 0#64 || 1200 < m.data.length then s.mgmtAnswer m s.chainAddr op { status := stBad }
  else
    let (t, a) := f s m
    t.mgmtAnswer m s.chainAddr op a

/-- A reserved OP. -/
def State.mgmtBad (s : State) (op : Nat) (m : MgmtMsg) : State :=
  if s.svc.power == 0 then s
  else if !s.mgmtTaken m.src then s.bump Fld.svcMgmtDropCount
  else if m.rsvd != 0#64 || 1200 < m.data.length || op == 0 || 10 < op then s.mgmtAnswer m s.chainAddr op { status := stBad }
  else s

/-- A request by its OP. -/
def State.mgmtRun (s : State) (op : Nat) (m : MgmtMsg) : State :=
  match op with
  | 1 => s.mgmtOp 1 m State.opTelemetry
  | 2 => s.mgmtOp 2 m State.opLogRead
  | 3 => s.mgmtOp 3 m State.opPartReset
  | 4 => s.mgmtOp 4 m State.opModuleReset
  | 5 => s.mgmtOp 5 m State.opPowerOff
  | 6 => s.mgmtOp 6 m State.opDump
  | 7 => s.mgmtOp 7 m State.opStoreUpdate
  | 8 => s.mgmtOp 8 m State.opStatus
  | 9 => s.mgmtOp 9 m State.opDruterRestart
  | 10 => s.mgmtOp 10 m State.opAssign
  | _ => s.mgmtBad op m

def execTelemetry (m : MgmtMsg) (s : State) : Host.Outcome State Fault Refusal := .next (s.mgmtRun 1 m)
def execLogRead (m : MgmtMsg) (s : State) : Host.Outcome State Fault Refusal := .next (s.mgmtRun 2 m)
def execPartReset (m : MgmtMsg) (s : State) : Host.Outcome State Fault Refusal := .next (s.mgmtRun 3 m)
def execModuleReset (m : MgmtMsg) (s : State) : Host.Outcome State Fault Refusal := .next (s.mgmtRun 4 m)
def execPowerOff (m : MgmtMsg) (s : State) : Host.Outcome State Fault Refusal := .next (s.mgmtRun 5 m)
def execDump (m : MgmtMsg) (s : State) : Host.Outcome State Fault Refusal := .next (s.mgmtRun 6 m)
def execStoreUpdate (m : MgmtMsg) (s : State) : Host.Outcome State Fault Refusal := .next (s.mgmtRun 7 m)
def execStatus (m : MgmtMsg) (s : State) : Host.Outcome State Fault Refusal := .next (s.mgmtRun 8 m)
def execDruterRestart (m : MgmtMsg) (s : State) : Host.Outcome State Fault Refusal := .next (s.mgmtRun 9 m)
def execAssign (m : MgmtMsg) (s : State) : Host.Outcome State Fault Refusal := .next (s.mgmtRun 10 m)

def execMgmtBadRequest (op : Byte) (m : MgmtMsg) (s : State) : Host.Outcome State Fault Refusal := .next (s.mgmtBad op.toNat m)

/-! ## Telemetry passes (R547, R557, R565, R569) -/

def State.regionSample (s : State) (x : RegionSample) : State :=
  let r := x.r.val
  let s := s.wr (Reg.pwrRTel0 r) (x.vsense.toNat + x.current.toNat * 2 ^ 16)
  let s := s.wr (Reg.pwrRTel1 r) (x.stretch.toNat * 2 ^ 8 + x.temp.toNat * 2 ^ 16)
  let s := s.put (Fld.pwrRRconEstimate r) x.estimate.toNat
  { s with pwr.curPace := SMap.putD s.pwr.curPace r (max 1 x.pace.val) 16 }.paceReport r

/-- A millisecond of service of a position that serves a slot. -/
def State.servePass (s : State) (pos : Nat) : State :=
  let x := s.position pos
  let s := s.setPosition pos { x with service := x.service + 1 }
  let s := if x.transients.isEmpty then s else s.transReport pos
  if (x.service + 1) % 60000 != 0 then s else
  let s := s.bump (Fld.ptcPosTimeSinceScan pos)
  if s.flag (Fld.ptcPosStatSuspect pos) then s.bump (Fld.ptcPosTimeClean pos) else s

/-- TIM_TICK has not advanced over two passes, or could not be read for 10 ms (R557). -/
def State.tickCheck (s : State) (readable : Bool) : State :=
  if s.get Fld.svcStatusPhase != phaseReady then s else
  let s := if readable then
      { s with
        svc.unread := 0
        svc.stalls := if s.tick == s.svc.lastTick then s.svc.stalls + 1 else 0
        svc.lastTick := s.tick }
    else { s with svc.unread := s.svc.unread + 1 }
  if 2 ≤ s.svc.stalls || 10 ≤ s.svc.unread then s.moduleReset 3 false else s

/-- Supervisors whose panes are in service. -/
def State.supsIn (s : State) : Nat :=
  (List.range 4).foldl (fun m i => setBit m i (s.supPane i < 64 && !s.stopOut (coreOf (s.supPane i) 0))) 0

/-- A load of Druter completes: that of a restart, or that of a pane newly elected. -/
def State.druterUp (s : State) : State :=
  match s.svc.restart with
  | some (t, cause) =>
    let s := (s.put Fld.svcStatusDruterDown 0).put Fld.svcStatusSupValid s.supsIn
    let s := { s with svc.restart := none, svc.beat := 0 }
    (s.svcRaise 0x0D02 2 (cause + s.get Fld.svcWdtRestarts * 2 ^ 16) (s.svc.ms - t)).evcFlow
  | none => if s.flag Fld.svcStatusDruterDown then s else (s.put Fld.svcStatusSupValid s.supsIn).evcFlow

/-- TELEMETRY_PASS. -/
def State.telemetryPass (s : State) (x : Telemetry) : State :=
  if s.svc.power == 0 then s else
  let s := { s with svc.ms := s.svc.ms + 1 }
  if s.svc.power != 2 then s else
  let s := (x.regions.foldl State.regionSample s).thermReport
  let s := ((List.range 320).filter fun p => (s.serves p).isSome).foldl State.servePass s
  let s := if s.svc.ms % 3600000 == 0 then s.repairWrite else s
  let s := if s.get Fld.svcStatusPhase == phaseReady then
      let s := if s.flag Fld.svcStatusDruterDown then s else { s with svc.beat := s.svc.beat + 1 }
      if x.druter then s.druterUp else s
    else s
  (s.tickCheck x.readable).evcFlow

def execTelemetryPass (x : Telemetry) (s : State) : Host.Outcome State Fault Refusal := .next (s.telemetryPass x)

/-- SVC_BEAT_WRITE: a changed SEQ restarts the count. -/
def State.beatWrite (s : State) (v : Nat) : State :=
  let s := if field v 0 16 != s.get Fld.svcBeatSeq then { s with svc.beat := 0 } else s
  s.put Fld.svcBeatSeq (field v 0 16)

def execSvcBeatWrite (req : Requester) (v : BitVec 32) (s : State) : Host.Outcome State Fault Refusal :=
  .next (s.write req Reg.svcBeat v.toNat fun s => s.beatWrite v.toNat)

/-- DRUTER_WATCHDOG: SEQ has not changed for LIMIT_MS. After three restarts within 10 minutes Druter stays halted. -/
def State.watchdog (s : State) : State :=
  if s.get Fld.svcStatusPhase != phaseReady || s.flag Fld.svcStatusDruterDown || s.svc.restart.isSome ||
      s.svc.beat < max 200 (s.get Fld.svcWdtLimitMs) then s
  else if 3 ≤ (s.svc.restarts.filter fun t => s.svc.ms < t + 600000).length then
    ((s.put Fld.svcStatusDruterDown 1).put Fld.svcStatusSupValid 0).evcFlow
  else s.druterRestart 1

def execDruterWatchdog (s : State) : Host.Outcome State Fault Refusal := .next s.watchdog

/-! ## The sill chain (R561, R562) -/

/-- ENUM for the module below. -/
def State.enumDown (s : State) : State :=
  s.emit (.sill false (sillFrame sillEnum 255 s.chainAddr (min 255 (s.chainAddr + 1)) []))

/-- The last chain address is kept in CHAIN_ID (R564). -/
def State.keepAddr (s : State) (a : Nat) : State :=
  s.storeWrite [(4, (fitTo 20 0#8 ((s.section? 4).getD [])) ++ leBytes 1 a)]

/-- ENUM arrives on UP; a module whose service controller does not run passes it on. -/
def State.sillEnumIn (s : State) (v : Nat) : State :=
  if s.svc.power == 0 then s.emit (.sill false (sillFrame sillEnum 255 255 v [])) else
  let old := s.chainAddr
  let s := (s.put Fld.svcStatusChainAddr v).enumDown
  if old == v then s else
  let s := (s.emit (.sill true (sillFrame sillChange 255 v 0 []))).keepAddr v
  (s.svcRaise 0x0D03 0 (old + v * 2 ^ 8) 0).evcFlow

def execSillEnum (v : Byte) (s : State) : Host.Outcome State Fault Refusal := .next (s.sillEnumIn v.toNat)

/-- DOWN comes up or goes down. -/
def execSillLinkChange (s : State) : Host.Outcome State Fault Refusal :=
  .next (if s.svc.power == 0 then s else s.enumDown)

/-- The management message of a REQ frame. -/
def parseMgmt (b : List Byte) (wedged : Bool) : Option (Nat × MgmtMsg) :=
  if b.length < 32 || leAt b 0 4 != mgmtMagic || leAt b 6 2 != b.length - 32 then none
  else some (leAt b 4 1, ⟨.chain, BitVec.ofNat 32 (leAt b 8 4), BitVec.ofNat 32 (leAt b 12 4), BitVec.ofNat 64 (leAt b 16 8),
    BitVec.ofNat 64 (leAt b 24 8), b.drop 32, wedged⟩)

/-- A frame arrives on UP or on DOWN: it is discarded, taken, or passed on. -/
def State.sillIn (s : State) (fromUp : Bool) (b : List Byte) (wedged : Bool) : State :=
  if s.svc.power == 0 then s.emit (.sill (!fromUp) b)
  else if !sillGood b then s
  else
    let type := leAt b 0 1
    if fromUp then
      if type == sillEnum then s.sillEnumIn (leAt b 3 1)
      else if type != sillReq then s
      else if leAt b 1 1 == s.chainAddr && s.chainAddr != 255 then
        match parseMgmt ((b.drop 8).take (b.length - 12)) wedged with
        | some (op, m) => s.mgmtRun op m
        | none => s
      else s.emit (.sill false b)
    else if type == sillRsp || type == sillBeat || type == sillChange then s.emit (.sill true b)
    else s

def execSillFrameForward (fromUp : Bool) (frame : List Byte) (wedged : Bool) (s : State) : Host.Outcome State Fault Refusal :=
  .next (s.sillIn fromUp frame wedged)

/-- BEAT: 100 ms have passed. -/
def State.beat (s : State) : State :=
  if s.svc.power == 0 || s.chainAddr == 255 then s else
  let b := leBytes 4 (s.rd Reg.svcStatus) ++ leBytes 4 (s.rd Reg.vblNode) ++ leBytes 4 (s.rd Reg.pwrStatus) ++ leBytes 1 s.svc.worst
  let s := { s with svc.worst := 0 }.emit (.sill true (sillFrame sillBeat 255 s.chainAddr 0 b))
  if (s.mgmtPeer 0).isSome then s.emit (.beat b) else s

def execBeat (s : State) : Host.Outcome State Fault Refusal := .next s.beat

/-! ## TEST_EN (R555, R588) -/

/-- TEST_EN changes: tests that run stop, and run again when it becomes inactive. -/
def State.testEnWrite (s : State) (active : Bool) : State :=
  let s := { s with svc.testEn := active }
  let s := (s.rel.runs.map (·.pos / 5)).foldl State.ptcReport s
  if active then s else s.relPump

def execTestEnChange (active : Bool) (s : State) : Host.Outcome State Fault Refusal := .next (s.testEnWrite active)

end Sys2Proof.Machine
end

