-- ==== Sys2Proof/Machine/Bringup.lean ====
section
/-!
DEFINITION. Bring-up, the hold after a wrap of BOOT, and the epoch step (R64, R414, R566, R567, R573, R596).
-/
namespace Sys2Proof.Machine
open Sys2Proof

/-! ## Warm or cold (R566) -/

def State.stopBoot (s : State) : Option Nat := (s.section? secStop).map fun b => leAt b 0 2
def State.stopCause (s : State) : Nat := ((s.section? secStop).map fun b => leAt b 4 1).getD 0
def State.stopTick (s : State) : Nat := ((s.section? secStop).map fun b => leAt b 8 8).getD 0

def State.isWarm (s : State) : Bool :=
  (s.section? secRepair).isSome && s.stopBoot == some s.bootStored && (s.stopCause == 1 || s.stopCause == 2) && !s.svc.cold

/-! ## Panes (R566 step 3) -/

/-- Distance of a pane. -/
def paneDist (n : Nat) : Nat :=
  let py : Int := (n / 8 : Nat)
  n % 8 + min (py - 3).natAbs (py - 4).natAbs

def paneNbrs (n : Nat) : List Nat :=
  (if n % 8 == 0 then [] else [n - 1]) ++ (if n % 8 == 7 then [] else [n + 1]) ++ (if n < 8 then [] else [n - 8]) ++
    (if 56 ≤ n then [] else [n + 8])

/-- Panes that join, wave by wave: a pane of a wave is powered by a neighbour of the wave before that has passed. -/
def joinedPanes (pass : Nat → Bool) : List Nat :=
  (List.range 11).foldl (fun joined w =>
    joined ++ (List.range 64).filter fun n =>
      paneDist n == w && pass n && (w == 0 || (paneNbrs n).any fun m => paneDist m + 1 == w && joined.contains m)) []

/-- The stops of the joined panes are in service, and the links between them are up. -/
def State.joinStops (s : State) (joined : List Nat) : State :=
  (List.range 256).foldl (fun s d =>
    if !joined.contains (paneOf d) then s else
    let up := (List.range 4).foldl (fun m dir =>
      match neighbour d dir with
      | some e => setBit m dir (joined.contains (paneOf e))
      | none => m) 0
    -- toward the wafer edge, a bit reports the outward port; the transom network has one on the west side, at (0, 7) and (0, 8)
    let out := (List.range 4).foldl (fun m dir => setBit m dir (bitAt up dir || (neighbour d dir).isNone)) 0
    let upT := if d == 112 || d == 128 then setBit up 1 true else up
    (((s.put (Fld.netLinkOut d) 0).put (Fld.netLinkUpA d) out).put (Fld.netLinkUpB d) out).put (Fld.netLinkUpT d) upT) s

/-! ## Positions (R565, R566 step 4) -/

/-- The stored entry of a pane, and the record of a position. -/
def State.storedPane (s : State) (n : Nat) : Option (List Byte) := (s.section? secRepair).map fun b => (b.drop (64 + 512 * n)).take 512

def storedPos (e : List Byte) (k : Nat) : List Byte := (e.drop (16 + 96 * k)).take 96

/-- Bytes that are not 0xFF, as numbers. -/
def usedWords (b : List Byte) (n : Nat) : List Nat := ((List.range n).map fun i => leAt b (2 * i) 2).filter (· != 0xFFFF)

/-- A region takes its stored TRIM, BASELINE, CAPPED and SAGGED. -/
def State.restoreRegion (s : State) (r trim baseline : Nat) (capped sagged : Bool) : State :=
  let s := ((s.put (Fld.pwrRStatTrim r) trim).put (Fld.pwrRRconBaseline r) baseline).put (Fld.pwrRStatCapped r) capped.toNat
  if sagged then s.put (Fld.pwrRStatState r) regSagged else s

/-- The stored repair record of a position is applied. Spare arrays stand in for the fenced ones: 512 of the 520 are in service, or all that
are not fenced where those are fewer (DESIGN CHOICE, log entry 45). -/
def State.restorePos (s : State) (n k : Nat) (e : List Byte) : State :=
  let b := storedPos e k
  let pos := 5 * n + k
  let flags := leAt b 0 1
  let bad := usedWords (b.drop 8) 24
  let s := s.restoreRegion (6 * n + k) (leAt b 1 1) (leAt b 2 2) (bitAt flags 2) (bitAt flags 3)
  let s := s.setPosition pos ⟨bad, ((b.drop 56).take 4).filter (· != 0xFF#8), (b.drop 64).take 32, 0, []⟩
  let s := (s.put (Fld.ptcPosStatFailed pos) (flags % 2)).put (Fld.ptcPosStatSuspect pos) (field flags 1 1)
  ((s.put (Fld.ptcPosStatArrays pos) (min 512 (520 - bad.length))).put (Fld.ptcPosTimeClean pos) (leAt b 4 2)).put
    (Fld.ptcPosTimeSinceScan pos) (leAt b 6 2)

/-- The stored entries of the panes are applied; a position without one has every array in service. -/
def State.restorePanes (s : State) : State :=
  (List.range 64).foldl (fun s n =>
    match s.storedPane n with
    | some e =>
      let flags := leAt e 2 1
      let s := s.restoreRegion (6 * n + 5) (leAt e 3 1) (leAt e 4 2) (bitAt flags 1) (bitAt flags 2)
      (List.range 5).foldl (fun s k => s.restorePos n k e) s
    | none => (List.range 5).foldl (fun (s : State) k => s.put (Fld.ptcPosStatArrays (5 * n + k)) 512) s) s

/-- A scan of a cold bring-up: its records, and the verdict. -/
def State.coldScan (s : State) (pos : Nat) (x : ScanResult) : State :=
  let pass := x.arrays.val == 512 && x.banksUp.val == 64 && x.macros
  let s := s.setPosition pos { s.position pos with bad := x.bad.map (·.val), banks := x.banks, rows := x.rows }
  let s := ((s.put (Fld.ptcPosStatArrays pos) x.arrays.val).put (Fld.ptcPosStatFailed pos) (!pass).toNat).put
    (Fld.ptcPosStatLastResult pos) (if pass then 1 else 2)
  if pass then s.put (Fld.ptcPosTimeSinceScan pos) 0 else s

/-- Verdicts of the positions of the joined panes. -/
def State.testPositions (s : State) (joined : List Nat) (warm : Bool) (plan : BringPlan) : State :=
  if warm then
    plan.badBist.foldl (fun (s : State) p => if joined.contains (p.val / 5) then s.put (Fld.ptcPosStatFailed p.val) 1 else s) s
  else
    plan.scans.foldl (fun s x =>
      if joined.contains (x.1.val / 5) && s.regState (posRegion x.1.val) != regSagged then s.coldScan x.1.val x.2 else s) s

/-! ## The repair map (R567) -/

/-- The position that a slot takes: its own where that passes, otherwise the lowest passing one that serves no slot. -/
def mapSlot (passes : Nat → Bool) (badSlice : Bool) (map k : Nat) : Nat :=
  let own := field map (4 * k) 4
  let used := (List.range 4).map fun j => field map (4 * j) 4
  let p := if own < 5 && passes own then own
    else (((List.range 5).find? fun p => passes p && !used.contains p)).getD 15
  setField map (4 * k) 4 (if badSlice then 15 else p)

/-- PSW_MAP of a joined pane. -/
def State.formMap (s : State) (n : Nat) (plan : BringPlan) : Nat :=
  let start := ((s.storedPane n).map fun e => leAt e 0 2).getD 0x3210
  let passes (p : Nat) : Bool := s.usable (5 * n + p)
  -- a slot whose slice failed gives its position up first
  let start := (List.range 4).foldl (fun m k => if plan.badSlices.any (·.val == coreOf n k) then setField m (4 * k) 4 15 else m) start
  (List.range 4).foldl (fun m k => mapSlot passes (plan.badSlices.any (·.val == coreOf n k)) m k) start

/-- The pane applies its map, and the regions of its serving positions are ON. -/
def State.applyMap (s : State) (plan : BringPlan) (n : Nat) : State :=
  let m := s.formMap n plan
  let s := ((s.wr (Reg.pswNext n) m).wr (Reg.pswMap n) m).put (Fld.pswStatusDone n) 1
  (nibbles m).foldl (fun (s : State) p => if p < 5 then s.regOnNow (6 * n + p) else s) (s.regOnNow (6 * n + 5))

/-! ## BRING_UP (R566, R567, R573) -/

/-- Memory agents whose pane has joined. -/
def edgeMems (joined : List Nat) : List Nat :=
  joined.flatMap fun n => ((paneSites n).filter fun e => e % 2 == 0).map fun e => 4 * (e / 8) + e % 8 / 2

/-- The event controller takes a record of the service controller at once. -/
def State.svcEvent (s : State) (code sev w2 w3 : Nat) : State := (s.svcRaise code sev w2 w3).eventReport srcSvc

/-- Supervisors are elected, or bring-up fails. -/
def State.elect (s : State) (joined : List Nat) : Option State :=
  let sups := (candidates.filter joined.contains).take 4
  if sups.length < 4 then none else
  some (sups.zipIdx.foldl (fun (s : State) x =>
    (s.wr Reg.svcSup (setField (s.rd Reg.svcSup) (8 * x.2) 8 x.1)).svcEvent 0x0D01 1 (x.2 + x.1 * 2 ^ 8) 0) s)

/-- BOOT is raised and committed; the answer says whether it was, and whether it wrapped. -/
def State.raiseBoot (s : State) : State × Bool × Bool :=
  let boot := (s.bootStored + 1) % 2 ^ 16
  let (s, ok) := s.storeCommit [(secBoot, leBytes 2 boot)]
  (s, ok, boot == 0)

/-- Panes, positions and stacks (steps 3 and 4). -/
def State.bringPanes (s : State) (warm : Bool) (plan : BringPlan) : State × List Nat :=
  let pass (n : Nat) : Bool := plan.panes.any (·.val == n) &&
    !((s.storedPane n).map fun e => bitAt (leAt e 2 1) 2).getD false
  let joined := joinedPanes pass
  let s := (s.joinStops joined).restorePanes.testPositions joined warm plan
  (s.put Fld.migChanUpUp ((List.range 16).foldl (fun m i => setBit m i (bitAt plan.chans.toNat i && (edgeMems joined).contains i)) 0), joined)

/-- Druter's route entries, in both copies (R320, R335). -/
def State.writeRoutes (s : State) (routes : List (CoreId × Fin 64 × BitVec 32)) : State :=
  routes.foldl (fun (s : State) r =>
    let v := r.2.2.toNat &&& 0x1F1F1F1F
    (s.wr (Reg.netRt (128 * r.1.val + r.2.1.val)) v).wr (Reg.netRt (128 * r.1.val + 64 + r.2.1.val)) v) s

/-- Steps 6 and 7. -/
def State.bringReady (s : State) (warm : Bool) (joined : List Nat) (plan : BringPlan) : State :=
  let s := (joined.foldl (fun s n => s.applyMap plan n) s).writeRoutes plan.routes
  let s := ((s.storeCommit [(secRepair, [])]).1).storeReport
  let fenced := ((List.range 256).filter fun c => s.servedBy c == 15).length
  let s := (s.put Fld.svcStatusGridComplete (fenced == 0).toNat).put Fld.svcStatusWarm warm.toNat
  let s := (s.put Fld.timStatusPllLock 1).put Fld.vblBootBoot s.bootStored
  let s := { s.put Fld.timSkewSpread (Config.pick s.draws % 801) with draws := s.draws + 1 }
  let s := ((s.put Fld.svcStatusSupValid 0xF).put Fld.svcStatusDruterDown 0).put Fld.svcStatusPhase phaseReady
  ({ s with svc.cold := false, svc.beat := 0, svc.lastTick := s.tick }.svcRaise 0x0D00 (if fenced == 0 then 0 else 3)
    (warm.toNat + (fenced == 0).toNat * 2 + min 255 fenced * 2 ^ 8 + (64 - joined.length) * 2 ^ 16) plan.ms.toNat).evcFlow

/-- BRING_UP: from power-on or module reset until Druter runs. -/
def State.bringUp (s : State) (plan : BringPlan) : State :=
  if s.svc.power != 2 || s.svc.testEn || s.get Fld.svcStatusPhase == phaseReady || s.get Fld.svcStatusPhase == phaseFailed then s
  else
    let warm := s.isWarm
    let stopped := s.stopBoot == some s.bootStored
    let (s, ok, wrapped) := s.raiseBoot
    if !ok then s.put Fld.svcStatusPhase phaseFailed
    else
      let s := { s with bootHold := wrapped }.loadKeys
      let s := if stopped then s.svcEvent 0x0D05 2 (s.stopCause + s.bootStored * 2 ^ 16) s.stopTick else s
      let (s, joined) := s.bringPanes warm plan
      match s.elect joined with
      | none => s.put Fld.svcStatusPhase phaseFailed
      | some s => s.bringReady warm joined plan

def execBringUp (plan : BringPlan) (s : State) : Host.Outcome State Fault Refusal := .next (s.bringUp plan)

/-! ## BOOT (R414, R596) -/

/-- BOOT_WRAP_HOLD_EXPIRY: ports whose EN is 1 train, and contexts may load. -/
def State.holdExpiry (s : State) : State :=
  if !s.bootHold then s else
  (allPorts.filter fun p => s.flag (Fld.lnkCtrlEn p)).foldl (fun s p =>
    (s.portEnter p portDetect).modPort p fun x => { x with fails := 0 }) { s with bootHold := false }

def execBootWrapHoldExpiry (s : State) : Host.Outcome State Fault Refusal := .next (s.clocked s.holdExpiry)

/-- BOOT_COMMIT_DONE: BOOT is raised and committed, and the happenings that wait take effect; past 0xFFFF a module reset is made instead.
-/
def State.bootCommit (s : State) : State :=
  if s.rises.isEmpty then s
  else if s.bootStored == 0xFFFF then s.moduleReset 7 false
  else
    let (s, ok) := s.storeCommit [(secBoot, leBytes 2 (s.bootStored + 1))]
    if ok then ((s.put Fld.vblBootBoot s.bootStored).applyRises).evcFlow else s

def execBootCommitDone (s : State) : Host.Outcome State Fault Refusal := .next s.bootCommit

end Sys2Proof.Machine
end

