-- ==== Sys2Proof/Machine/Fetch.lean ====
section
/-!
DEFINITION. Fetch engines and their source lists (R196, R259, R297 to R300), chain forwarding (R301), and the set-up of an
endpoint with its source check (R222, R298).
-/
namespace Sys2Proof.Machine
open Sys2Proof

/-! ## Source check at EN (R298) -/

/-- A T3 segment lies within the payload aperture (R297). -/
def State.inPayloadApt (s : State) (c a n : Nat) : Bool :=
  match region a with
  | .t3 i _ => s.flag (Fld.lvrPayloadAptValid c) && i == s.get (Fld.lvrPayloadAptApt c) && s.mapped c a n &&
      (match region (a + n - 1) with | .t3 j _ => i == j | _ => false)
  | .t0 .. => true
  | .t1 .. => true
  | .t2 _ => true
  | .hole => false

/-- A segment by itself is valid. -/
def State.segOk (s : State) (c : Nat) (g : Seg) : Bool :=
  g.addr < 2 ^ 44 && g.addr % 4096 == 0 && 1 ≤ g.count && g.count ≤ 2 ^ 24 && g.rsvd == 0 &&
    s.mapped c g.addr (4096 * g.count) && s.inPayloadApt c g.addr (4096 * g.count)

/-- Tiles of the runs that LAYER_END marks close, and of the rest. -/
def runsOf : List Seg → Nat → List Nat × Nat
  | [], n => ([], n)
  | g :: l, n =>
    if g.last then let r := runsOf l 0; ((n + g.count) :: r.1, r.2) else runsOf l (n + g.count)

/-- The entry and the list of an inbound endpoint pass R298. -/
def State.sourceOk (s : State) (k : Nat) : Bool :=
  let c := s.get (Fld.strCfgContext k)
  let e := s.srcEnt k
  if s.get (Fld.strCfgKind k) == 0 then !bitAt e.flags 0 || (e.rsvd == 0 && e.flags < 4)
  else
    s.srcMapped k && e.rsvd == 0 && e.flags < 4 &&
    (e.count == 0 ||
      (e.count ≤ 4096 && e.list < 2 ^ 44 && inT1 e.list && inT1 (e.list + 16 * e.count - 1) &&
        s.mapped c e.list (16 * e.count) &&
        (let l := s.segs k
         let r := runsOf l 0
         let g := s.epGrain k
         l.all (s.segOk c) && r.1.all (· % g == 0) && (!bitAt e.flags 1 || r.2 % g == 0))))

/-- STR_CFG_ENABLE: the set-up of R222, then Louvre's check of an inbound endpoint's entry and list. -/
def State.strSetup (s : State) (req : Requester) (k v : Nat) : State :=
  let was := s.flag (Fld.strCfgEn k)
  let s := s.strEnable req k v
  if was || !s.flag (Fld.strCfgEn k) || s.flag (Fld.strCfgDir k) then s
  else
    let c := s.get (Fld.strCfgContext k)
    if s.sourceOk k then
      let e := s.srcEnt k
      if bitAt e.flags 0 then s.modEp k fun ep => { ep with fwd := some (epKey (k / 256) e.fwdEp) } else s
    else
      let s := s.raiseCtx srcLouvre 0x0403 3 c (s.unitOn c (k / 256) + k % 256 * 2 ^ 16) 0
      s.faultCtx c 7 (s.leafOn c (k / 256))

def execStrCfgEnable (req : Requester) (core : CoreId) (ep : EpId) (c : CtxId) (v : BitVec 26) (s : State) :
    Host.Outcome State Fault Refusal :=
  let w := c.val * 2 ^ 26 + v.toNat
  .next (s.write req (Reg.strCfg (epKey core ep)) w fun s => s.strSetup req (epKey core ep) (setBit (strCfgMask w) 0 true))

/-! ## Fetching (R196, R259, R299) -/

/-- Tiles requested by the engine that have not landed. -/
def Endpoint.coming (e : Endpoint) : Nat := e.fetched - e.carried

/-- The engine has a place, or below its depth, for one more tile: in credit mode or from T3 the ring decides alone (R196,
R259). -/
def State.engineRoom (s : State) (k : Nat) (t3 : Bool) : Bool :=
  let e := s.epD k
  let c := s.get (Fld.strCfgContext k)
  let credit := s.get (Fld.strCfgKind k) == 2 || t3 || (s.ctx c).creditMode
  e.filled + e.taken + e.part + s.heldBack k + e.coming < s.epRing k &&
    (credit || e.filled + e.part + e.coming < s.get (Fld.strCfgDepth k))

/-- A tile of the layer may be fetched now: a plain context's engine stops at a layer mark until the owner's THRESHOLD, and a
held context's fetches no tile of a swapped layer (R203, R204, R304). -/
def State.layerOpen (s : State) (k : Nat) (seg : Seg) (ends : Nat) : Bool :=
  let c := s.get (Fld.strCfgContext k)
  let e := s.epD k
  ((s.ctx c).priv || ends ≤ e.layer - e.base) &&
    !(s.ctxState c == ctxHeld &&
      match (s.lvr c).swap with
      | some w => w.job.layers.contains seg.layer
      | none => false)

/-- A tile from address `a` is on its way to the ring, unless its source stop refuses it (R321). -/
def State.sendFetched (s : State) (k a : Nat) (bs : List Byte) (pz : List Nat) : State :=
  let src := (s.tileStop (s.get (Fld.strCfgContext k)) a (k / 256)).getD (k / 256)
  if !s.coreReach src (k / 256) then (s.netUnreach src (k / 256) 2).streamLost k else
  let c := s.get (Fld.strCfgContext k)
  let edge := match region a with | .t2 _ => true | .t0 .. => false | .t1 .. => false | .t3 .. => false | .hole => false
  let part := if edge then some (s.partOf c) else s.partAt src
  let g : Group := ⟨none, c, .ring k, src, part, s.netCopy, edge, 1, (s.epD k).layer, false, some bs, pz⟩
  (s.putGroups [g]).modEp k fun e => { e with fetched := e.fetched + 1 }

/-- Slots of the chunk buffer (R299, R310). -/
def State.chunkSlots (s : State) (c : Nat) : Nat :=
  let n := s.get (Fld.lvrChunkCtrlChunks c)
  if n < 2 then 2 else if 64 < n then 64 else n

/-- A free slot of the chunk buffer, after the least recently used chunk without undelivered tiles has been evicted if need be
(R299). -/
def Lvr.freeSlot (l : Lvr) (n : Nat) : Option (Lvr × Nat) :=
  let used := (l.chunks ++ l.asked).map (·.2)
  match (List.range n).find? fun k => !used.contains k with
  | some k => some (l, k)
  | none =>
    match l.chunks.find? fun q => q.2 < n && !(l.needs.any fun d => d.2 == q.1) with
    | some q => some ({ l with chunks := l.chunks.filter (·.1 != q.1) }, q.2)
    | none => none

/-- Ask for a chunk that an endpoint needs: the read of its hash page, if that has not verified, and its own. -/
def State.askChunk (s : State) (c k i : Nat) : State :=
  let l := s.lvr c
  let need (l : Lvr) : Lvr := if l.needs.contains (k, i) then l else { l with needs := l.needs ++ [(k, i)] }
  if l.asked.any (·.1 == i) then s.setLvr c (need l)
  else
    match l.freeSlot (s.chunkSlots c) with
    | none => s
    | some (l, slot) =>
      let man := s.keptMan c
      let page := i / 1024
      let s := s.setLvr c (need { l with asked := l.asked ++ [(i, slot)] })
      let s := if (SMap.get? l.pages page).isSome then s else s.askStream c l man true page
      s.askStream c l man false i

/-- A T3 tile: from its verified chunk, or a request for the chunk; the chunk stays needed while the endpoint's next tile lies in it
(R299). -/
def State.fetchStreamed (s : State) (c k a : Nat) : State :=
  match region a with
  | .t3 _ off =>
    let i := off / 2 ^ 20
    let l := s.lvr c
    match l.chunks.find? (·.1 == i) with
    | none => s.askChunk c k i
    | some q =>
      let b := s.get64 (Reg.lvrChunkBase c) % 2 ^ 44 + q.2 * 2 ^ 20 + off % 2 ^ 20
      let more := match s.srcTile k ((s.epD k).fetched + 1) with
        | some (seg, j, _) => (match region (seg.addr + 4096 * j) with | .t3 _ o => o / 2 ^ 20 == i | _ => false)
        | none => false
      let s := s.setLvr c { l with
        chunks := l.chunks.filter (·.1 != i) ++ [q]
        needs := if more then l.needs else l.needs.filter (· != (k, i)) }
      let pz := (s.lvrPoison c b 4096).map fun p => p - b / 64
      s.sendFetched k b (s.lvrRead c b 4096) pz
  | .t0 .. => s
  | .t1 .. => s
  | .t2 _ => s
  | .hole => s

/-- FETCH_ENGINE_FETCH: the engine of an endpoint fetches its next tile (R196, R297). -/
def State.engineFetch (s : State) (k : Nat) : State :=
  let c := s.get (Fld.strCfgContext k)
  let st := s.ctxState c
  if !s.flag (Fld.strCfgEn k) || s.flag (Fld.strCfgDir k) || s.get (Fld.strCfgKind k) == 0 || st == ctxIdle ||
      st == ctxFaulted then s else
  match s.srcTile k (s.epD k).fetched with
  | none => s
  | some (seg, i, ends) =>
    let a := seg.addr + 4096 * i
    let t3 := match region a with | .t3 .. => true | _ => false
    if !s.engineRoom k t3 || !s.layerOpen k seg ends then s
    else if t3 then s.fetchStreamed c k a
    else
      let (bs, pz) := s.engineRead c a
      ({ s with draws := s.draws + 1 }).sendFetched k a bs pz

/-! ## Stall causes of fetched streams (R261, R262) -/

/-- The cause that holds for the next tile of an engine's endpoint: its tile on its way from T2; its chunk in flight, or being fetched
again after a failed hash; no slot of the chunk buffer, or no room in the ring (R261, R286, R299). -/
def State.engineCauses (s : State) (k : Nat) : Nat :=
  let c := s.get (Fld.strCfgContext k)
  let e := s.epD k
  let sent := e.carried < e.fetched
  match s.srcTile k (if sent then e.carried else e.fetched) with
  | none => 0
  | some (seg, j, _) =>
    match region (seg.addr + 4096 * j) with
    | .t3 _ o =>
      let i := o / 2 ^ 20
      let l := s.lvr c
      if sent then 2
      else if l.asked.any (·.1 == i) then
        2 ||| (if SMap.getD l.fails (fetchKey false i) 0 != 0 || SMap.getD l.fails (fetchKey true (i / 1024)) 0 != 0 then 8 else 0)
      else if !s.engineRoom k true || (!(l.chunks.any (·.1 == i)) && (l.freeSlot (s.chunkSlots c)).isNone) then 4 else 0
    | .t2 _ => if sent then 1 else if s.engineRoom k false then 0 else 4
    | .t0 .. => if sent || s.engineRoom k false then 0 else 4
    | .t1 .. => if sent || s.engineRoom k false then 0 else 4
    | .hole => 0

/-- Stall causes that hold now for a waiting task. -/
def State.stallCauses (s : State) (core : Nat) (t : Task) : Nat :=
  if t.state != .waiting then 0 else
  match t.wait with
  | some w =>
    if !s.isStall core w then 0 else
    match w with
    | .tiles want => s.stageCauses core t.ctx want
    | .streamTiles ep _ => s.engineCauses (epKey core ep)
    | .latch ep _ _ => s.engineCauses (epKey core ep)
    | .inject .. => 0
    | .buffer _ => 0
    | .launch _ => 0
    | .barrier _ => 0
    | .threshold => 0
    | .lease => 0
    | .coll => 0
    | .collRoom _ => 0
    | .reissue _ => 0
  | none => 0

/-- Stall causes that hold now are noted for every waiting task (R262). -/
def State.noteStalls (s : State) : State :=
  { s with cores.tasks := s.cores.tasks.map fun (p : Nat × Task) =>
      (p.1, { p.2 with causes := p.2.causes ||| s.stallCauses (p.1 / 16) p.2 }) }

/-! ## Chains (R301) -/

/-- CHAIN_FORWARD: a landed group goes on to the next element when its FREE is at least g (R301). -/
def State.chainForward (s : State) (k : Nat) : State :=
  let e := s.epD k
  let g := s.epGrain k
  let c := s.get (Fld.strCfgContext k)
  match e.fwd with
  | none => s
  | some f =>
    if !s.linked k c || !s.linked f c || !s.flag (Fld.strCfgDir f) || s.ctxState c == ctxFaulted then s
    else if e.carried / g * g < e.forwarded + g || !s.room f g then s
    else
      let b := s.epRing k
      let tiles := (List.range g).map fun i =>
        let slot := (e.tail + b * (e.carried + 1) - (e.carried - (e.forwarded + i))) % b
        let key := s.key c (s.ringAddr c k slot)
        (s.mem.bytes key 4096, (List.range 64).filter fun q => s.mem.poisoned (key / 64 + q))
      let s := s.modEp k fun e => { e with forwarded := e.forwarded + g }
      s.send f false tiles

def execChainForward (core : CoreId) (ep : EpId) (s : State) : Host.Outcome State Fault Refusal :=
  .next (s.clocked (s.chainForward (epKey core ep)))

end Sys2Proof.Machine
end

