-- ==== Sys2Proof/Machine/Engines.lean ====
section
/-!
DEFINITION. Commands of the engines whose reads pass the Virbael endpoint: staging, migration, Louvre, fetch engines (R255 to R257, R274,
R285, R286, R299, R389).
-/
namespace Sys2Proof.Machine
open Sys2Proof

/-! ## Staging -/

/-- STAGE_RESERVE: the engine serves the first waiting instruction of a core, or an AHEAD tile of a context (R255, R256). -/
def execStageReserve (core : CoreId) (ahead : Option CtxId) (s : State) : Host.Outcome State Fault Refusal :=
  .next (s.clocked (match ahead with
    | none => (s.reserveHead core).noteCore core
    | some c => s.reserveAhead core c).vblPump)

/-- STAGE_COMPLETE: a requested tile returns: from its T2 channel, or with the answer to its read (R255, R266). -/
def State.stageComplete (s : State) (core c a : Nat) (found : List EccAt) (reply : Reply) : State :=
  if !((s.pool core c).tiles.any fun y => y.addr == a && !y.landed) then s else
  let s := s.noteCore core
  match region a with
  | .t2 o =>
    let (s, bs, pz) := s.t2Deliver c o found
    s.landCopy core c a bs pz
  | .t3 _ _ => s.engineReply c (.stage core a) reply
  | .t0 _ _ => s
  | .t1 _ _ => s
  | .hole => s

def execStageComplete (core : CoreId) (c : CtxId) (tile : BitVec 32) (found : List EccAt) (reply : Reply) (s : State) :
    Host.Outcome State Fault Refusal :=
  .next (s.clocked (s.stageComplete core c (tile.toNat * 4096) found reply))

/-! ## Migration -/

def execMigCopy (c : CtxId) (n : Nat) (replies : List Reply) (s : State) : Host.Outcome State Fault Refusal :=
  .next (s.clocked (s.migCopy c n replies).vblPump)

/-! ## Louvre -/

/-- LVR_LOAD: a LOAD starts, or the manifest that it reads arrives. -/
def State.lvrLoad (s : State) (c : Nat) (man : Reply) : State :=
  match (s.lvr c).reading with
  | some r => if (LvrCmd.of (s.lvrDesc c r.1)).op == 1 then s.engineReply c (.manifest r.1) man else s
  | none => (s.loadStart c).vblPump

def execLvrLoad (c : CtxId) (man : Reply) (s : State) : Host.Outcome State Fault Refusal := .next (s.clocked (s.lvrLoad c man))

/-- LVR_SWAP: a SWAP starts, or the manifest that it reads arrives. -/
def State.lvrSwap (s : State) (c : Nat) (man : Reply) : State :=
  match (s.lvr c).reading with
  | some r => if (LvrCmd.of (s.lvrDesc c r.1)).op == 2 then s.engineReply c (.manifest r.1) man else s
  | none => (s.swapStart c).vblPump

def execLvrSwap (c : CtxId) (man : Reply) (s : State) : Host.Outcome State Fault Refusal := .next (s.clocked (s.lvrSwap c man))

/-- LVR_CHUNK_VERIFY: the answer to the read of a page or a chunk (R286). -/
def execLvrChunkVerify (c : CtxId) (use : ChunkUse) (page : Bool) (i : Nat) (reply : Reply) (s : State) :
    Host.Outcome State Fault Refusal :=
  .next (s.clocked (s.engineReply c (match use with
    | .load => .load page i
    | .swap => .swap page i
    | .stream => .stream page i) reply))

/-! ## Fetch engines -/

def execFetchEngineFetch (core : CoreId) (ep : EpId) (s : State) : Host.Outcome State Fault Refusal :=
  .next (s.clocked (s.engineFetch (epKey core ep)).vblPump.noteStalls)

end Sys2Proof.Machine
end

