-- ==== Sys2Proof/Machine/Control.lean ====
section
/-!
DEFINITION. Reads and writes of control space: 64-bit quantities, and the write of every register (R10 to R13, R57, R590 to R595).
-/
namespace Sys2Proof.Machine
open Sys2Proof

/-! ## 64-bit quantities (R11) -/

/-- Number of a requester. -/
def Requester.num : Requester → Nat
  | .svc => 0
  | .sup i => 1 + i.val
  | .part p => 8 + p.val
  | .host job => 64 + job.toNat

/-- Key of a requester's shadow and staged half, by the address of the low half. -/
def wideKey (req : Requester) (low : Nat) : Nat := Requester.num req * 2 ^ 40 + low

/-- The register is the low half, or the high half, of a 64-bit quantity. -/
def regIsLow (l : Loc) : Bool := (wideLows l.blk).contains l.off
def regIsHigh (l : Loc) : Bool := decide (4 ≤ l.off) && (wideLows l.blk).contains (l.off - 4)

/-! ## Reads -/

/-- The read of an assigned register: the low half captures the high half, and the high half takes the capture. -/
def State.readReg (s : State) (req : Requester) (l : Loc) (fs : List FieldSpec) (addr : Nat) : State :=
  let v := BitVec.ofNat 32 (s.view l fs addr)
  if regIsLow l then
    { s with ctrl.shadows := SMap.put s.ctrl.shadows (wideKey req addr) (BitVec.ofNat 32 (s.look (addr + 4))) }.emit
      (.readValue addr v)
  else if regIsHigh l then
    match SMap.get? s.ctrl.shadows (wideKey req (addr - 4)) with
    | some w => { s with ctrl.shadows := SMap.del s.ctrl.shadows (wideKey req (addr - 4)) }.emit (.readValue addr w)
    | none => s.emit (.readValue addr v)
  else s.emit (.readValue addr v)

/-- A read of control space. A misaligned, refused, or reserved address reads as zero (R10, R11, R595). -/
def State.readCtrl (s : State) (req : Requester) (addr : Nat) : State :=
  if s.svc.power != 2 || !s.flag Fld.timStatusPllLock then s
  else if addr % 4 != 0 then (s.misuse req).emit (.readValue addr 0#32)
  else if s.accessRefused req addr then (s.refuseAccess req addr).emit (.readValue addr 0#32)
  else
    match locate addr with
    | none => s.emit (.readValue addr 0#32)
    | some l => match regFields l.blk l.off with
      | none => s.emit (.readValue addr 0#32)
      | some fs => s.readReg req l fs addr

/-- REG64_LOW_READ: a read; at a low half, it captures the high half in the requester's shadow. -/
def execReg64LowRead (req : Requester) (addr : BitVec 40) (s : State) : Host.Outcome State Fault Refusal :=
  .next (s.readCtrl req addr.toNat)

/-! ## Writes by access type (R12) -/

/-- A register's value after a write: RW fields store, W1C bits clear, the others stay. -/
def written (fs : List FieldSpec) (old v : Nat) : Nat :=
  fs.foldl (fun a f =>
    match f.acc with
    | .rw => setField a f.lo f.w (field v f.lo f.w)
    | .w1c =>
      let o := field old f.lo f.w
      setField a f.lo f.w (o - (o &&& field v f.lo f.w))
    | .ro => a
    | .wo => a) old

def State.poke (s : State) (fs : List FieldSpec) (addr v : Nat) : State := s.wr addr (written fs (s.rd addr) v)

/-- The context is not IDLE, or BUSY (R461). -/
def State.ctxLocked (s : State) (c : Nat) : Bool := s.ctxUsed c || s.flag (Fld.ctxStatusBusy c)

/-- A window of copy `i / 1024` may not be written now (R401). -/
def State.winLocked (s : State) (i : Nat) : Bool := i / 1024 == s.winCopy || s.vblOldBusy

/-- A write of a half of a 64-bit quantity is ignored and counted: R324, R339, R401, R310, R448, R461, R502. -/
def State.wideLocked (s : State) (l : Loc) : Bool :=
  match l.blk with
  | .netm => s.flag Fld.netTblStatusArmed
  | .tim => decide (l.off < 0x20) && s.flag Fld.timStatusDivArmed
  | .vbl => s.flag Fld.vblTblStatusArmed
  | .lvr => if l.off < 8 then s.flag (Fld.lvrDescCtrlEn l.inst) else s.ctxUsed l.inst
  | .col => s.ctxUsed l.inst
  | .ctx => decide (l.off < 0x28) && s.ctxLocked l.inst
  | .evq => decide (l.off < 8) && s.flag (Fld.evcQCtrlEn l.inst)
  | .win => s.winLocked l.inst
  | _ => false

/-- A write of a half of a 64-bit quantity (R11). -/
def State.wideWrite (s : State) (req : Requester) (l : Loc) (fs : List FieldSpec) (addr v : Nat) : State :=
  if !(fs.any fun f => f.acc == .rw) then s
  else if s.wideLocked l then s.misuse req
  else if regIsLow l then { s with ctrl.staged := SMap.put s.ctrl.staged (wideKey req addr) (BitVec.ofNat 32 v) }
  else
    let key := wideKey req (addr - 4)
    match SMap.get? s.ctrl.staged key, regFields l.blk (l.off - 4) with
    | some low, some lowFs =>
      ({ s with ctrl.staged := SMap.del s.ctrl.staged key }.poke lowFs (addr - 4) low.toNat).poke fs addr v
    | _, _ => s.poke fs addr v

/-! ## Registers whose writes do more -/

/-- The counters of a core block become zero (R99). -/
def State.coreClear (s : State) (core : Nat) : State := s.clear64 [Reg.coreIssue core, Reg.coreYield core, Reg.coreAbusy core]

/-- A write of STAGE_TILES and CREDIT: STAGE_TILES changes only by the service, while the context is IDLE (R276). -/
def State.migCtxWrite (s : State) (req : Requester) (c v : Nat) : State :=
  let s := s.put (Fld.migCtxCtrlCredit c) (field v 1 1)
  if field v 2 17 == s.get (Fld.migCtxCtrlStageTiles c) then s
  else if !isService req || s.ctxUsed c then s.misuse req
  else s.put (Fld.migCtxCtrlStageTiles c) (field v 2 17)

/-- Slots map to channels only while no partition holds T2 capacity (R265). -/
def State.slotMapWrite (s : State) (addr v : Nat) : State :=
  if (List.range 32).any fun p => s.get (Fld.shtT2SizeTiles p) != 0 then s.misuseMod else s.wr addr v

/-- CTX_CFG, CTX_JOB and CTX_OPT (R461). -/
def State.ctxWrite (s : State) (c off : Nat) (fs : List FieldSpec) (addr v : Nat) : State :=
  if s.ctxLocked c then s.misuseMod
  else if off == 4 && field v 0 24 == 0 then s.ctxResult c 2
  else s.poke fs addr v

/-- A filtered line's configuration: a change that is pending counts anew, and a level line is sampled (R500, R501). -/
def State.almWrite (s : State) (a : Nat) (fs : List FieldSpec) (addr v : Nat) : State :=
  let s := s.poke fs addr v
  ({ s with evc.alarms := SMap.del s.evc.alarms a }.levelRaise (srcAlarm a)).evcFlow

/-- Registers of an event queue without a row of their own (R491 to R497). -/
def State.evqWrite (s : State) (req : Requester) (q off : Nat) (fs : List FieldSpec) (addr v : Nat) : State :=
  match off with
  | 0x8 => s.evqCtrlWrite req q v
  | 0x14 => s.evqHeadWrite req q v
  | 0x18 => if bitAt v 0 then s.evqDone q else s
  | 0x40 => ((s.poke fs addr v).levelRaise (srcWater q)).evcFlow
  | _ => ((s.poke fs addr v).evcJudge q).evcFlow

/-- Endpoint registers stay while EN is 1 (R222). -/
def State.strWrite (s : State) (req : Requester) (k off : Nat) (fs : List FieldSpec) (addr v : Nat) (x : WriteSides) : State :=
  match off with
  | 0x0 => if bitAt v 0 then s.strSetup req k (strCfgMask v) else s.strDisable req k (strCfgMask v)
  | 0xC => s.poke fs addr v
  | _ => if s.flag (Fld.strCfgEn k) then s.misuse req else s.poke fs addr v

/-- Port registers (R355, R369, R384). -/
def State.lnkWrite (s : State) (req : Requester) (p off : Nat) (fs : List FieldSpec) (addr v : Nat) : State :=
  if off == 0 then s.lnkCtrl req p v
  else if off == 0x54 then (if bitAt v 0 then s.lnkCntClear p else s)
  else if 0x80 ≤ off then s.shareWrite req p ((off - 0x80) / 4) v
  else if off == 0x68 || off == 0x6C then s.poke fs addr v
  else if 0x60 ≤ off && s.flag (Fld.lnkCtrlEn p) then s.misuse req
  else s.poke fs addr v

/-- Registers of a partition (R452). -/
def State.shtRegWrite (s : State) (p off v : Nat) : State :=
  match off with
  | 0x0 => s.rectWrite p v
  | 0x4 => s.t2BaseWrite p v
  | 0x8 => s.t2SizeWrite p v
  | 0xC => s.portsWrite p v
  | 0x10 => s.cfgWrite p v
  | 0x14 =>
    let s := if bitAt v 1 then s.put (Fld.shtMisuseCount p) 0 else s
    if bitAt v 0 then s.partReset p else s
  | _ => s

/-- Registers of a context in the blocks of the memory tiers and of Louvre. -/
def State.migRegWrite (s : State) (req : Requester) (c off : Nat) (fs : List FieldSpec) (addr v : Nat) : State :=
  match off with
  | 0x0 => s.migCtxWrite req c v
  | 0x50 => s.migRingCtrl req c v
  | 0x54 => s.migTail c v
  | 0x68 => if bitAt v 0 then s.migClear c else s
  | _ => s.poke fs addr v

def State.lvrRegWrite (s : State) (req : Requester) (c off : Nat) (fs : List FieldSpec) (addr v : Nat) : State :=
  match off with
  | 0x8 => s.lvrDescCtrl req c v
  | 0xC => s.lvrTail c v
  | 0x1C => s.swapCmd req c (field v 0 2)
  | 0x78 => if bitAt v 0 then s.lvrClear c else s
  | _ => s.poke fs addr v

/-- A write of any register but a half of a 64-bit quantity. -/
def State.plainWrite (s : State) (req : Requester) (l : Loc) (fs : List FieldSpec) (addr v : Nat) (x : WriteSides) : State :=
  let i := l.inst
  match l.blk, l.off with
  | .psw, 0x8 => if bitAt v 0 then ((s.pswApply i (!bitAt v 1) (x.done || bitAt v 1)).movesGo i).vblPump else s
  | .core, 0xC => if bitAt v 0 then s.coreClear i else s
  | .str, off => s.strWrite req i off fs addr v x
  | .syn, 0x14 => s.synCmd i (field v 0 3) (field v 16 16)
  | .mig, off => s.migRegWrite req i off fs addr v
  | .migm, 0x30 => if bitAt v 0 then s.migErrClear else s
  | .migm, 0x0 => s.slotMapWrite addr v
  | .migm, 0x4 => s.slotMapWrite addr v
  | .lvr, off => s.lvrRegWrite req i off fs addr v
  | .lvrm, 0x4C => if bitAt v 0 then s.lvrFailClear else s
  | .rt, _ => s.routeWrite req i v
  | .mrg, 0x0 => s.nodeWrite req (i / 16) (i % 16) v
  | .mrg, _ => if s.flag (Fld.mrgNodeLoEn i) then s else s.poke fs addr v
  | .netm, 0x0 => if bitAt v 1 then s.netArm req else s
  | .netm, 0x10 => if bitAt v 0 then s.netCntClear else s
  | .tim, 0x8 => s.timCtrl req v
  | .lnk, off => s.lnkWrite req i off fs addr v
  | .trp, 0x0 => s.lifetimeWrite req v
  | .trp, 0x28 => if bitAt v 0 then s.trpCntClear else s
  | .ent, off =>
    if s.flag (Fld.entKeyValid i) && (off != 0 || bitAt v 31) then s.misuse req else s.poke fs addr v
  | .vbl, 0x10 => if bitAt v 1 then s.vblArm req else s
  | .vbl, 0x3C => if bitAt v 0 then s.vblCntClear else s
  | .vbl, off =>
    if off < 8 && !(s.trp.tx.isEmpty && s.trp.rx.isEmpty) then s.misuse req else s.poke fs addr v
  | .win, _ => if s.winLocked i then s.misuse req else s.poke fs addr v
  | .col, 0xC => if s.ctxUsed i then s.misuse req else s.poke fs addr v
  | .col, 0x34 => if bitAt v 0 then s.collClear i else s
  | .sht, off => s.shtRegWrite i off v
  | .shtm, 0x4 => if bitAt v 0 then s.put Fld.shtModMisuseCount 0 else s
  | .ctx, 0xC => s.ctxCmd i (field v 0 3) (bitAt v 8)
  | .ctx, off => if off < 0xC then s.ctxWrite i off fs addr v else s
  | .evc, 0x0 => s.gdisWrite v
  | .evc, 0x10 => if bitAt v 0 then s.evcCntClear else s
  | .evq, off => s.evqWrite req i off fs addr v
  | .alm, 0x0 => s.almWrite i fs addr v
  | .rel, 0xC => s.scanReq v x.never
  | .rel, 0x30 => if bitAt v 0 then s.relCntClear else s
  | .relc, 0x0 => s.relCtrl req i v
  | .pwr, 0x0 => s.pwrCtrl req i v
  | .pwrm, 0x20 => if bitAt v 0 then s.pwrCntClear else s
  | .svc, 0x8 => s.beatWrite v
  | _, _ => s.poke fs addr v

/-- A write of an assigned register, once every check of `State.write` has passed. -/
def State.regWrite (s : State) (req : Requester) (l : Loc) (fs : List FieldSpec) (addr v : Nat) (x : WriteSides) : State :=
  if regIsLow l || regIsHigh l then s.wideWrite req l fs addr v else s.plainWrite req l fs addr v x

/-- One write of control space. A write whose address is not a multiple of 4 touches no register and is counted (R11). -/
def State.writeCtrl (s : State) (req : Requester) (addr v : Nat) (x : WriteSides) : State :=
  if s.svc.power != 2 || !s.flag Fld.timStatusPllLock then s
  else if addr % 4 != 0 then s.misuse req
  else s.write req addr v fun s =>
    match locate addr with
    | none => s
    | some l => match regFields l.blk l.off with
      | none => s
      | some fs => s.regWrite req l fs addr v x

/-- Place of a writer among those of one transom clock: the service controller, the supervisors by pane, the host, the partitions
(R13). -/
def State.writerRank (s : State) : Requester → Nat
  | .svc => 0
  | .sup i => 1 + s.supPane i.val
  | .host _ => 65
  | .part p => 66 + p.val

/-- A write joins those of its clock, behind the ones of its rank. -/
def State.insertWriter (s : State) (w : Requester × BitVec 32) : List (Requester × BitVec 32) → List (Requester × BitVec 32)
  | [] => [w]
  | h :: t => if s.writerRank w.1 < s.writerRank h.1 then w :: h :: t else h :: s.insertWriter w t

/-- The accesses of one transom clock to one register: every read first, then the writes in the order of R13, so that the last one
stays. -/
def State.clockAccess (s : State) (addr : Nat) (readers : List Requester) (writers : List (Requester × BitVec 32)) (x : WriteSides) :
    State :=
  let order := writers.foldl (fun l w => s.insertWriter w l) []
  let s := readers.foldl (fun s req => s.readCtrl req addr) s
  order.foldl (fun s w => s.writeCtrl w.1 addr w.2.toNat x) s

/-- REGISTER_WRITE. -/
def execRegisterWrite (req : Requester) (addr : BitVec 40) (v : BitVec 32) (x : WriteSides) (s : State) :
    Host.Outcome State Fault Refusal :=
  .next (s.clockAccess addr.toNat x.readers ((req, v) :: x.also) x)

end Sys2Proof.Machine
end

