-- ==== Sys2Proof/Machine/Clock.lean ====
section
/-!
DEFINITION. One tick of the module: what happens with time, whatever is commanded (R219, R310, R343, R359, R495, R497).
-/
namespace Sys2Proof.Machine
open Sys2Proof

/-- A tick passes for a context: the time that it spends HELD, its deadlock monitor and its teardown. -/
def State.ctxTick (s : State) (c : Nat) : State :=
  let s := if s.ctxState c == ctxHeld then s.wrap64 (Reg.lvrHoldTicks c) else s
  (s.dlmTick c).tearTick c

/-- A tick passes, while the root PLL is locked (log entry 1). -/
def State.tickPass (s : State) : State :=
  if !s.flag Fld.timStatusPllLock then s else
  let s := (List.range 64).foldl State.ctxTick s.timTick.meshTick.copyTick.noteStalls
  s.portTick.vblPump.relPump.evcTick

end Sys2Proof.Machine
end

