-- ==== Sys2Proof/Machine/Descriptor.lean ====
section
/-!
DEFINITION. The descriptor instructions TD.LD, TD.ST, TD.SET, TD.GET and TD.ADV (R183, R249, R252), and the staging that an
AHEAD descriptor begins (R255).
-/
namespace Sys2Proof.Machine
open Sys2Proof

/-- A DST or SRCA field that names a tile-descriptor register: its bit 5 is reserved (R183). -/
def rsvdT (lo : Nat) (w : Nat) : Bool := !bitAt w (lo + 5)

/-- Staging of an AHEAD descriptor begins when TD.LD or TD.SET writes its BASE or PLACE, unless the register is poisoned or
holds a reserved value (R255). -/
def State.beginAhead (s : State) (x : Cx) (desc : Nat) (poisoned : Bool) : State :=
  let d := Desc.of desc
  if poisoned || !d.valid || d.stream || d.place != 2 then s else
  let o : Opnd := ⟨d, (Fmt.ofCode d.fmt).getD .fp32, .mem d.base d.tstride⟩
  let p := s.pool x.core x.c
  let new := o.lower.filter fun a => s.mapped x.c (a / 4096 * 4096) 4096 && !p.ahead.contains a
  s.setPool x.core x.c { p with ahead := p.ahead ++ new }

/-- TD.LD: 64 bytes at s[SRCA] + IMM36 (R183, R252). -/
def tdLdBody (x : Cx) (s : State) : Chk Next := do
  let a := x.addr
  let r := x.dst % 32
  let tiles := (lowerTiles a 64).map fun q => (q, false)
  need (a % 64 == 0 && s.mapped x.c a 64 && s.stageFits x.c tiles) badShape
  need (!x.t.regPoison x.srcA) (.poison 1 1 x.srcA)
  s.needStaged x tiles
  let v := ofLe (s.tread x.core x.c a 64)
  let pz := s.tpoison x.core x.c a 64
  let s := s.useStaged x.core x.slot x.c tiles
  let s := s.modTask x.core x.slot fun t => t.setDesc r v pz
  .ok (.retire (s.beginAhead x v pz))

def execTdLd (i : Issue) (s : State) : Host.Outcome State Fault Refusal :=
  issue ⟨0x20, false, fun w _ => !bitAt w 48 && rsvdT 42 w, fun w _ => bitAt w 49⟩ tdLdBody i s

/-- TD.ST: the 64 bytes of t (R183, R252). -/
def tdStBody (x : Cx) (s : State) : Chk Next := do
  let a := x.addr
  let r := x.dst % 32
  s.needWritable x.c a 64 64
  need (!x.t.regPoison x.srcA) (.poison 1 1 x.srcA)
  .ok (.retire (s.twrite x.c a (leBytes 64 (x.t.desc r)) fun _ => x.t.descPoison r))

def execTdSt (i : Issue) (s : State) : Host.Outcome State Fault Refusal :=
  issue ⟨0x21, false, fun w _ => !bitAt w 48 && rsvdT 42 w, fun w _ => bitAt w 49⟩ tdStBody i s

/-- IMM36 holds a selector in [7:0]; its other bits are not used (R183). IMMF 0 is a reserved value of a used field, whatever the
selector. -/
def rsvdSel (w : Nat) : Bool := !bitAt w 48 && field w 8 28 == 0

/-- TD.SET: the low bits of s[SRCA] into the selected field, unchecked (R252). -/
def tdSetBody (x : Cx) (s : State) : Chk Next :=
  let r := x.dst % 32
  match descSelector (x.f 0 8) with
  | none => .error rsvdEnum
  | some (lo, w) =>
    let v := setField (x.t.desc r) lo w (x.s x.srcA)
    let pz := x.t.descPoison r || x.t.regPoison x.srcA
    let s := s.modTask x.core x.slot fun t => t.setDesc r v pz
    .ok (.retire (if lo == 0 || lo == 264 then s.beginAhead x v pz else s))

def execTdSet (i : Issue) (s : State) : Host.Outcome State Fault Refusal :=
  issue ⟨0x22, false, fun w _ => rsvdSel w && rsvdT 42 w,
    fun w _ => bitAt w 49 && (descSelector (field w 0 8)).isSome⟩ tdSetBody i s

/-- TD.GET: the selected field, zero-extended (R183). -/
def tdGetBody (x : Cx) (s : State) : Chk Next :=
  let r := x.srcA % 32
  match descSelector (x.f 0 8) with
  | none => .error rsvdEnum
  | some (lo, w) => .ok (.retire (x.putS s x.dst (field (x.t.desc r) lo w) (x.t.descPoison r)))

def execTdGet (i : Issue) (s : State) : Host.Outcome State Fault Refusal :=
  issue ⟨0x23, false, fun w _ => rsvdSel w && rsvdT 36 w,
    fun w _ => bitAt w 49 && (descSelector (field w 0 8)).isSome⟩ tdGetBody i s

/-- TD.ADV: BASE[43:0] plus IMM36 × 4,096 modulo 2^44; BASE[63:44] stays (R252). -/
def tdAdvBody (x : Cx) (s : State) : Chk Next :=
  let r := x.dst % 32
  let d := x.t.desc r
  let b := ofSigned 44 ((field d 0 44 : Int) + x.imm36 * 4096)
  .ok (.retire (s.modTask x.core x.slot fun t => t.setDesc r (setField d 0 44 b) (t.descPoison r)))

def execTdAdv (i : Issue) (s : State) : Host.Outcome State Fault Refusal :=
  issue ⟨0x24, false, fun w _ => !bitAt w 48 && rsvdT 42 w && field w 36 6 == 0, fun w _ => bitAt w 49⟩
    tdAdvBody i s

end Sys2Proof.Machine
end

