-- ==== Sys2Proof/Machine/Flow.lean ====
section
/-!
DEFINITION. Instructions that issue only when every older instruction of their task has retired: HALT, FLAGS.RD and
FLAGS.CLR (R144, R147).
-/
namespace Sys2Proof.Machine
open Sys2Proof

/-- HALT: the task ends HALTED with STOP_CAUSE 6 (R147); it keeps its slot. -/
def haltBody (x : Cx) (s : State) : Chk Next := do
  need (!s.older x.core x.slot) .hold
  let s := s.modTask x.core x.slot fun t => { t with state := .halted, stopCause := 6 }
  .ok (.retire ((s.closeBatches x.core x.slot).thrUpdate x.c))

def execHalt (i : Issue) (s : State) : Host.Outcome State Fault Refusal :=
  issue ⟨0x17, false, rsvdNone, enumAny⟩ haltBody i s

/-! ## Flags -/

/-- FLAGS.RD: FLAGS into sd[15:0], when every older instruction has retired (R144). -/
def flagsRdBody (x : Cx) (s : State) : Chk Next := do
  need (!s.older x.core x.slot) .hold
  .ok (.retire (x.putS s x.dst x.t.flags.toNat false))

def execFlagsRd (i : Issue) (s : State) : Host.Outcome State Fault Refusal :=
  issue ⟨0x1A, false, fun w _ => onlyFields [(42, 6)] w, enumAny⟩ flagsRdBody i s

/-- FLAGS.CLR clears each flag whose bit is 1 in IMM36[5:0] (R144). -/
def flagsClrBody (x : Cx) (s : State) : Chk Next := do
  need (!s.older x.core x.slot) .hold
  .ok (.retire (s.modTask x.core x.slot fun t =>
    { t with flags := t.flags &&& ~~~ BitVec.ofNat 16 (x.f 0 6) }))

def execFlagsClr (i : Issue) (s : State) : Host.Outcome State Fault Refusal :=
  issue ⟨0x1B, false, fun w _ => onlyFields [(49, 1), (0, 6)] w, fun w _ => bitAt w 49⟩ flagsClrBody i s

end Sys2Proof.Machine
end

