-- ==== Sys2Proof/Machine/Elementary.lean ====
section
/-!
DEFINITION. The VFUNC primitives and composites (R160). A transcendental result is bracketed by integer arithmetic at 256,
512 and then 1,024 fraction bits until both ends of the bracket round to one FP32 value with one set of flags.
-/
namespace Sys2Proof

/-! ## Constants and series in fixed point with `p` fraction bits -/

/-- `Σ ± pow / (2k+1)` from term `k`, `pow` divided by `d²` at each step: alternating for `atan`, plain for `atanh`. -/
def atanGo (d2 : Nat) (alt : Bool) : Nat → Nat → Nat → Int → Int
  | 0, _, _, acc => acc
  | fuel + 1, k, pow, acc =>
    let t : Int := (pow / (2 * k + 1) : Nat)
    atanGo d2 alt fuel (k + 1) (pow / d2) (if alt && k % 2 == 1 then acc - t else acc + t)

/-- `atan (1/d)` or `atanh (1/d)`. -/
def atanInv (p d : Nat) (alt : Bool) : Int := atanGo (d * d) alt p 0 (2 ^ p / d) 0

/-- π, by Machin's formula. -/
def piFix (p : Nat) : Nat := (16 * atanInv p 5 true - 4 * atanInv p 239 true).toNat

/-- ln 2 = 2 atanh (1/3). -/
def ln2Fix (p : Nat) : Nat := (2 * atanInv p 3 false).toNat

/-- `Σ y^n / n!` from term `n`. -/
def expGo (p y : Nat) : Nat → Nat → Nat → Nat → Nat
  | 0, _, _, acc => acc
  | fuel + 1, n, term, acc => expGo p y fuel (n + 1) ((term * y) >>> p / (n + 1)) (acc + term)

/-- `e^y` for 0 ≤ y < 1. -/
def expFix (p y : Nat) : Nat := expGo p y p 0 (2 ^ p) 0

/-- `Σ t^(2k+1) / (2k+1)`. -/
def atanhGo (p t2 : Nat) : Nat → Nat → Nat → Nat → Nat
  | 0, _, _, acc => acc
  | fuel + 1, k, pow, acc => atanhGo p t2 fuel (k + 1) ((pow * t2) >>> p) (acc + pow / (2 * k + 1))

/-- `ln (m / 2^w)` for 2^w ≤ m < 2^(w+1). -/
def lnFix (p m w : Nat) : Nat :=
  let t := ((m - 2 ^ w) <<< p) / (m + 2 ^ w)
  2 * atanhGo p ((t * t) >>> p) p 0 t 0

/-- Alternating series of sine and cosine from term `n`. -/
def sinGo (p r2 : Nat) : Nat → Nat → Nat → Bool → Int → Int
  | 0, _, _, _, acc => acc
  | fuel + 1, n, term, neg, acc =>
    sinGo p r2 fuel (n + 2) ((term * r2) >>> p / ((n + 1) * (n + 2))) (!neg)
      (if neg then acc - term else acc + term)

def sinFix (p r : Nat) : Int := sinGo p ((r * r) >>> p) p 1 r false 0
def cosFix (p r : Nat) : Int := sinGo p ((r * r) >>> p) p 0 (2 ^ p) false 0

/-! ## Rounding a bracketed value -/

/-- The half-width of every bracket, in units of the last fraction bit. -/
def slack : Int := 2 ^ 24

/-- The rounding of `v · 2^e` where it is sure: both ends of the bracket agree in code and flags. -/
def certify (r : Int × Int) : Option (Flagged Word32) :=
  let lo := f32Round (Val.ofDyadic (r.1 - slack) r.2)
  let hi := f32Round (Val.ofDyadic (r.1 + slack) r.2)
  if lo.1 = hi.1 && lo.2 ||| Flags.ix = hi.2 ||| Flags.ix then some (lo.1, lo.2 ||| Flags.ix) else none

/-- The rounding of an irrational result `v · 2^e` that `f` gives for any number of fraction bits. -/
def roundIrrational (f : Nat → Int × Int) : Flagged Word32 :=
  match certify (f 256) with
  | some r => r
  | none =>
    match certify (f 512) with
    | some r => r
    | none =>
      match certify (f 1024) with
      | some r => r
      | none => f32Round (Val.ofDyadic (f 1024).1 (f 1024).2)

/-! ## Primitives -/

/-- `mag · 2^exp` in units of 2^-p, rounded down. -/
def toFix (p mag : Nat) (exp : Int) : Nat :=
  let e := exp + p
  if e ≥ 0 then mag <<< e.toNat else mag >>> (-e).toNat

/-- 2^x of a finite x that is not an integer: 2^(x − ⌊x⌋) with `p` fraction bits, and its exponent. -/
def exp2Fix (neg : Bool) (mag : Nat) (exp : Int) (p : Nat) : Int × Int :=
  let x : Int := if neg then -(toFix p mag exp : Int) else toFix p mag exp
  let n := x / (2 ^ p : Nat)
  let f := (x % ((2 ^ p : Nat) : Int)).toNat
  (expFix p ((f * ln2Fix p) >>> p), n - p)

/-- x is an integer. -/
def isWhole (mag : Nat) (exp : Int) : Bool := exp ≥ 0 || mag % 2 ^ (-exp).toNat == 0

/-- EXP2 (R160). -/
def f32Exp2 (a : Word32) : Flagged Word32 :=
  match f32Val a with
  | .nan => (f32Nan, Flags.none)
  | .inf neg => (if neg then 0#32 else f32PosInf, Flags.none)
  | .num neg mag exp =>
    if mag == 0 then (f32One, Flags.none)
    else if 8 ≤ floorLog2 mag exp then f32Round (.num false 1 (if neg then -256 else 256))
    else if isWhole mag exp then
      let n : Int := toFix 0 mag exp
      f32Round (.num false 1 (if neg then -n else n))
    else
      roundIrrational (exp2Fix neg mag exp)

/-- LOG2 (R160). -/
def f32Log2 (a : Word32) : Flagged Word32 :=
  match f32Val a with
  | .nan => (f32Nan, Flags.none)
  | .inf neg => if neg then (f32Nan, Flags.iv) else (f32PosInf, Flags.none)
  | .num neg mag exp =>
    if mag == 0 then (0xFF800000#32, Flags.none)
    else if neg then (f32Nan, Flags.iv)
    else
      let w := Nat.log2 mag
      let e := floorLog2 mag exp
      if mag == 2 ^ w then f32Round (Val.ofInt e)
      else roundIrrational fun p =>
        (e * (2 ^ p : Nat) + ((lnFix p mag w <<< p) / ln2Fix p : Nat), -(p : Int))

/-- RCP: 1 / x (R160). -/
def f32Rcp (a : Word32) : Flagged Word32 := f32Div f32One a

/-- 1 / √(mag · 2^exp) with a sticky last bit. -/
def rsqrtVal (mag : Nat) (exp : Int) : Val :=
  let (m, e) := if exp % 2 == 0 then (mag, exp) else (2 * mag, exp - 1)
  let n := 2 ^ 128 / m
  let r := isqrt n
  let sticky := if r * r * m == 2 ^ 128 then 0 else 1
  .num false (2 * r + sticky) (-(e / 2) - 65)

/-- RSQRT (R160). -/
def f32Rsqrt (a : Word32) : Flagged Word32 :=
  match f32Val a with
  | .nan => (f32Nan, Flags.none)
  | .inf neg => if neg then (f32Nan, Flags.iv) else (0#32, Flags.none)
  | .num neg mag exp =>
    if mag == 0 then (if neg then 0xFF800000#32 else f32PosInf, Flags.dz)
    else if neg then (f32Nan, Flags.iv)
    else f32Round (rsqrtVal mag exp)

/-- Quadrant and remainder of a positive dyadic modulo π/2, with `p` fraction bits (R160: exact argument reduction). -/
def reduceAngle (p mag : Nat) (exp : Int) : Nat × Nat :=
  let q := p + 200
  let half := piFix q / 2
  let x := toFix q mag exp
  ((x / half) % 4, (x % half) >>> 200)

/-- sin or cos of a positive dyadic. -/
def circFix (cos : Bool) (mag : Nat) (exp : Int) (p : Nat) : Int :=
  let (k, r) := reduceAngle p mag exp
  match (k + cos.toNat) % 4 with
  | 0 => sinFix p r
  | 1 => cosFix p r
  | 2 => -sinFix p r
  | _ => -cosFix p r

/-- SIN (R160). -/
def f32Sin (a : Word32) : Flagged Word32 :=
  match f32Val a with
  | .nan => (f32Nan, Flags.none)
  | .inf _ => (f32Nan, Flags.iv)
  | .num neg mag exp =>
    if mag == 0 then (a, Flags.none)
    else roundIrrational fun p =>
      let v := circFix false mag exp p
      (if neg then -v else v, -(p : Int))

/-- COS (R160). -/
def f32Cos (a : Word32) : Flagged Word32 :=
  match f32Val a with
  | .nan => (f32Nan, Flags.none)
  | .inf _ => (f32Nan, Flags.iv)
  | .num _ mag exp =>
    if mag == 0 then (f32One, Flags.none) 
    else roundIrrational fun p => (circFix true mag exp p, -(p : Int))

/-! ## Composites: each step rounded, the flags of the steps united (R160) -/

/-- Sequence two flagged steps. -/
def Flagged.then {α β : Type} (a : Flagged α) (f : α → Flagged β) : Flagged β :=
  let r := f a.1
  (r.1, a.2 ||| r.2)

/-- Negation of FP32 bits. -/
def f32Neg (a : Word32) : Word32 := a ^^^ 0x80000000#32

def f32Exp (x : Word32) : Flagged Word32 := (f32Mul x 0x3FB8AA3B#32).then f32Exp2
def f32Sigmoid (x : Word32) : Flagged Word32 :=
  ((f32Exp (f32Neg x)).then (f32Add f32One)).then f32Rcp
def f32Tanh (x : Word32) : Flagged Word32 :=
  ((f32Mul 0x40000000#32 x).then f32Sigmoid).then fun g => f32Fma 0x40000000#32 g 0xBF800000#32
def f32Silu (x : Word32) : Flagged Word32 := (f32Sigmoid x).then (f32Mul x)
def f32Gelu (x : Word32) : Flagged Word32 :=
  ((f32Mul x 0x3FD9DB23#32).then f32Sigmoid).then (f32Mul x)

/-- VFUNC by function code, 0 to 10 (R160). -/
def vfuncOf (code : Nat) (x : Word32) : Flagged Word32 :=
  match code with
  | 0 => f32Exp2 x
  | 1 => f32Log2 x
  | 2 => f32Rcp x
  | 3 => f32Rsqrt x
  | 4 => f32Sin x
  | 5 => f32Cos x
  | 6 => f32Exp x
  | 7 => f32Sigmoid x
  | 8 => f32Tanh x
  | 9 => f32Silu x
  | _ => f32Gelu x

end Sys2Proof
end

