-- ==== Sys2Proof/Machine/Vector.lean ====
section
/-!
DEFINITION. The vector instructions: element-wise, loads and stores, random draws, reductions, normalisation, softmax and
accumulator transfers (R159 to R168).
-/
namespace Sys2Proof.Machine
open Sys2Proof

/-! ## Lanes -/

/-- The 1,024 lanes of a vector register. -/
def lanesOf (v : BitVec 32768) : List Word32 :=
  let n := v.toNat
  (List.range 1024).map fun i => BitVec.ofNat 32 (n >>> (32 * i))

/-- A vector register of 1,024 lanes, lane 0 in the low bits. -/
def vectorOf (ls : List Word32) : BitVec 32768 :=
  BitVec.ofNat 32768 (ofLe (ls.flatMap fun w => leBytes 4 w.toNat))

/-- Write a vector result with its poisoned sectors. -/
def Cx.putV (x : Cx) (s : State) (r : Nat) (ls : List Word32) (pz : Nat) : State :=
  s.modTask x.core x.slot fun t => t.setVreg r (vectorOf ls) pz

def Cx.vd (x : Cx) : Nat := x.td
def Cx.va (x : Cx) : Nat := x.ta
def Cx.vb (x : Cx) : Nat := x.tb

/-- Every sector of a register. -/
def allSectors : Nat := 2 ^ 64 - 1

/-! ## Operand b (R159) -/

/-- IMM16 broadcast: a BF16 value widened for FP32 lanes, sign-extended for INT32 lanes. -/
def Cx.immLane (x : Cx) (int : Bool) : Word32 :=
  if int then BitVec.ofNat 32 (ofSigned 32 (toSigned 16 x.imm16)) else BitVec.ofNat 32 (x.imm16 * 65536)

/-- The lanes of operand b and their poisoned sectors; `sb` is the FUNC bit of SBCAST. -/
def Cx.opLanes (x : Cx) (int : Bool) (sb : Nat) : List Word32 × Nat :=
  if x.vimmf then (List.replicate 1024 (x.immLane int), 0)
  else if bitAt x.vfunc sb then
    (List.replicate 1024 (BitVec.ofNat 32 (x.s x.vsreg)), if x.t.regPoison x.vsreg then allSectors else 0)
  else (lanesOf (x.t.vreg x.vb), x.t.vregPoison x.vb)

/-- The (low, width) fields that operand b uses; `sb` is the FUNC bit of SBCAST, 4 where the opcode has none. -/
def bFields (sb w : Nat) : List (Nat × Nat) :=
  [(26, 1)] ++ (if bitAt w 26 then [(0, 16)] else []) ++
    (if sb < 4 && bitAt w (16 + sb) then [(20, 6)] else []) ++
    (if !bitAt w 26 && !(sb < 4 && bitAt w (16 + sb)) then [(32, 5)] else [])

/-- IMMF and SBCAST are not both 1 (R159). -/
def bEnum (sb w : Nat) : Bool := !(bitAt w 26 && sb < 4 && bitAt w (16 + sb))

def funcOf (w : Nat) : Nat := field w 16 4

/-! ## Element-wise instructions (R159) -/

/-- A vector result computed lane by lane from a, b and c, with the poison of the same sectors (R153). -/
def laneBody (int : Cx → Bool) (sb : Nat) (useC : Bool) (f : Cx → Word32 → Word32 → Word32 → Flagged Word32)
    (x : Cx) (s : State) : Chk Next :=
  let a := lanesOf (x.t.vreg x.va)
  let (b, pb) := x.opLanes (int x) sb
  let c := if useC then lanesOf (x.t.vreg x.vc) else List.replicate 1024 0#32
  let pz := x.t.vregPoison x.va ||| pb ||| (if useC then x.t.vregPoison x.vc else 0)
  let rs := ((a.zip b).zip c).map fun p => f x p.1.1 p.1.2 p.2
  let r := Flagged.sequence rs
  .ok (.retire (x.putFlags (x.putV s x.vd r.1 pz) r.2))

/-- A vector result computed lane by lane from a alone. -/
def unaryBody (f : Cx → Word32 → Flagged Word32) (x : Cx) (s : State) : Chk Next :=
  let r := Flagged.sequence ((lanesOf (x.t.vreg x.va)).map (f x))
  .ok (.retire (x.putFlags (x.putV s x.vd r.1 (x.t.vregPoison x.va)) r.2))

/-- VD, VA, operand b, the extra fields, and FUNC among the listed values. -/
def laneSpec (op sb : Nat) (extra : Nat → List (Nat × Nat)) (funcs : List Nat) : OpSpec :=
  ⟨op, false, fun w _ => onlyFields ([(42, 5), (37, 5), (16, 4)] ++ bFields sb w ++ extra w) w,
    fun w _ => bEnum sb w && funcs.contains (funcOf w)⟩

/-- SAT is used by the INT32 forms only (R159). -/
def satInt (w : Nat) : List (Nat × Nat) := if bitAt w 16 then [(47, 1)] else []

def noExtra (_w : Nat) : List (Nat × Nat) := []

/-- TYPE: FUNC bit 0. -/
def Cx.typ (x : Cx) : Bool := bitAt x.vfunc 0

/-- The exact integer result of an INT32 lane: wrapped, or clamped with SAT (R124, R159). -/
def int32Result (sat : Bool) (i : Int) : Flagged Word32 :=
  let (c, cl) := clampInt 32 i
  if sat then (BitVec.ofNat 32 (ofSigned 32 c), Flags.when cl (Flags.sa ||| Flags.ix ||| Flags.of))
  else (BitVec.ofNat 32 (ofSigned 32 i), Flags.none)

def i32 (w : Word32) : Int := toSigned 32 w.toNat

/-- VADD, VSUB, VMUL on either lane type. -/
def arithLane (fp : Word32 → Word32 → Flagged Word32) (int : Int → Int → Int) (x : Cx) (a b _c : Word32) :
    Flagged Word32 :=
  if x.typ then int32Result x.sat (int (i32 a) (i32 b)) else fp a b

def execVadd (i : Issue) (s : State) : Host.Outcome State Fault Refusal :=
  issue (laneSpec 0x40 1 satInt [0, 1, 2, 3]) (laneBody Cx.typ 1 false (arithLane f32Add (· + ·))) i s

def execVsub (i : Issue) (s : State) : Host.Outcome State Fault Refusal :=
  issue (laneSpec 0x41 1 satInt [0, 1, 2, 3]) (laneBody Cx.typ 1 false (arithLane f32Sub (· - ·))) i s

def execVmul (i : Issue) (s : State) : Host.Outcome State Fault Refusal :=
  issue (laneSpec 0x42 1 satInt [0, 1, 2, 3]) (laneBody Cx.typ 1 false (arithLane f32Mul (· * ·))) i s

def vcField (_w : Nat) : List (Nat × Nat) := [(27, 5)]

def fpLanes (_x : Cx) : Bool := false

def execVfma (i : Issue) (s : State) : Host.Outcome State Fault Refusal :=
  issue (laneSpec 0x43 1 vcField [0, 2]) (laneBody fpLanes 1 true fun _ a b c => f32Fma a b c) i s

def execVdiv (i : Issue) (s : State) : Host.Outcome State Fault Refusal :=
  issue (laneSpec 0x44 1 noExtra [0, 2]) (laneBody fpLanes 1 false fun _ a b _ => f32Div a b) i s

/-- Smaller (or larger) FP32 value: a NaN gives the canonical NaN, +0 is greater than −0 (R43, R159). -/
def f32Pick (larger : Bool) (a b : Word32) : Flagged Word32 :=
  if (f32Val a).isNan || (f32Val b).isNan then (f32Nan, Flags.none)
  else if larger then (if (f32Val a).lt (f32Val b) then b else a, Flags.none)
  else (if (f32Val b).lt (f32Val a) then b else a, Flags.none)

def i32Pick (larger : Bool) (a b : Word32) : Word32 :=
  if larger then (if i32 a < i32 b then b else a) else (if i32 b < i32 a then b else a)

def pickLane (larger : Bool) (x : Cx) (a b _c : Word32) : Flagged Word32 :=
  if x.typ then (i32Pick larger a b, Flags.none) else f32Pick larger a b

def execVmin (i : Issue) (s : State) : Host.Outcome State Fault Refusal :=
  issue (laneSpec 0x45 1 noExtra [0, 1, 2, 3]) (laneBody Cx.typ 1 false (pickLane false)) i s

def execVmax (i : Issue) (s : State) : Host.Outcome State Fault Refusal :=
  issue (laneSpec 0x46 1 noExtra [0, 1, 2, 3]) (laneBody Cx.typ 1 false (pickLane true)) i s

/-- VD and VA only. -/
def unarySpec (op : Nat) (funcs : List Nat) : OpSpec :=
  ⟨op, false, fun w _ => onlyFields [(42, 5), (37, 5), (16, 4)] w, fun w _ => funcs.contains (funcOf w)⟩

def execVsqrt (i : Issue) (s : State) : Host.Outcome State Fault Refusal :=
  issue (unarySpec 0x47 [0]) (unaryBody fun _ a => f32Sqrt a) i s

/-- VFUNC: the function code is FUNC, 0 to 10 (R160). -/
def execVfunc (i : Issue) (s : State) : Host.Outcome State Fault Refusal :=
  issue (unarySpec 0x48 [0, 1, 2, 3, 4, 5, 6, 7, 8, 9, 10]) (unaryBody fun x a => vfuncOf x.vfunc a) i s

/-- Relation of VCMP: 0 EQ, 1 LT, 2 LE, 3 NE, signed for INT32; a NaN makes only NE true (R159). -/
def vcmpHolds (rel : Nat) (int : Bool) (a b : Word32) : Bool :=
  let eq := if int then a == b else (f32Val a).eqNum (f32Val b)
  let lt := if int then decide (i32 a < i32 b) else (f32Val a).ltNum (f32Val b)
  match rel with
  | 0 => eq
  | 1 => lt
  | 2 => lt || eq
  | _ => !eq

def vcmpInt (x : Cx) : Bool := bitAt x.vfunc 2

def execVcmp (i : Issue) (s : State) : Host.Outcome State Fault Refusal :=
  issue (laneSpec 0x49 3 noExtra (List.range 16)) (laneBody vcmpInt 3 false fun x a b _ =>
    (if vcmpHolds (x.vfunc % 4) (vcmpInt x) a b then 0xFFFFFFFF#32 else 0#32, Flags.none)) i s

/-- VSEL tests the bits of VC (R159). -/
def execVsel (i : Issue) (s : State) : Host.Outcome State Fault Refusal :=
  issue (laneSpec 0x4A 4 vcField [0]) (laneBody fpLanes 4 true fun _ a b c =>
    (if c = 0#32 then b else a, Flags.none)) i s

/-! ## VLD, VST and VRNG (R162, R163) -/

/-- Formats that VLD and VST move. -/
def groupFmt (f : Fmt) : Bool :=
  f == .fp32 || f == .fp16 || f == .bf16 || f == .int8 || f == .int32

/-- The group number q: IMM16, or s[SREG][31:0] with QSRC (R162). -/
def Cx.groupNo (x : Cx) : Nat := if bitAt x.vfunc 0 then x.s x.vsreg % 2 ^ 32 else x.imm16

/-- A poisoned group number is an index at an observing use. -/
def Cx.groupPoison (x : Cx) : Chk Unit :=
  need (!(bitAt x.vfunc 0 && x.t.regPoison x.vsreg)) (.poison 2 1 x.vsreg)

/-- IMM16 or SREG by QSRC. -/
def qFields (w : Nat) : List (Nat × Nat) := if bitAt w 16 then [(20, 6)] else [(0, 16)]

/-- An element as a vector lane: FP16, BF16 and INT8 become FP32 exactly, FP32 and INT32 keep their bits (R162). -/
def loadLane (f : Fmt) (e : Elem) : Word32 :=
  if f == .fp32 || f == .int32 then BitVec.ofNat 32 e.code else (f32Round e.val).1

/-- Poison of lanes gathered by sector of 16. -/
def lanePoison (ps : List Bool) : Nat :=
  ((chunks 16 65 ps).zipIdx.foldl fun n p => if p.1.any id then n + 2 ^ p.2 else n) 0

/-- The checks of VLD and its wait (R139, R162, R255). Every tile of the descriptor is a source tile of the instruction, also one that holds
no element of its group (DESIGN CHOICE, log entry 35). -/
def vldCheck (x : Cx) (s : State) : Chk Unit := do
  descCheck s x x.vc 0
  let o := x.opnd x.vc
  need (groupFmt o.f) badFormat
  need (s.stageFits x.c o.stage) badShape
  descPoisons x [x.vc]
  x.groupPoison
  s.needStaged x o.stage

/-- Lane `l` of a loaded group with its poison: the element, or zero past the end (R162). -/
def Cx.vldLane (x : Cx) (s : State) (l : Nat) : Word32 × Bool :=
  let o := x.opnd x.vc
  let idx := 1024 * x.groupNo + l
  if idx < o.elems then
    let e := o.at s x idx
    (loadLane o.f e, e.poison)
  else (0#32, false)

def vldBody (x : Cx) (s : State) : Chk Next := do
  vldCheck x s
  let es := (List.range 1024).map (x.vldLane s)
  .ok (.retire (x.putV (s.useStaged x.core x.slot x.c (x.opnd x.vc).stage) x.vd (es.map (·.1)) (lanePoison (es.map (·.2)))))

def execVld (i : Issue) (s : State) : Host.Outcome State Fault Refusal :=
  issue ⟨0x4B, false, fun w _ => onlyFields ([(42, 5), (27, 5), (16, 4)] ++ qFields w) w,
    fun w _ => funcOf w < 2⟩ vldBody i s

/-- The elements of a group that lie in one row of a tile are written together, so that a sector they cover is written
whole (R269). -/
def State.putGroup (s : State) (x : Cx) (o : Opnd) : Nat → List (Nat × (Nat × Bool)) → State
  | 0, _ => s
  | _ + 1, [] => s
  | fuel + 1, (idx, code) :: rest =>
    let (r, c) := o.coord idx
    let sameRow := rest.takeWhile fun p =>
      let (r', c') := o.coord p.1
      c' / o.tc == c / o.tc && (r' == r || (o.colsIn (c / o.tc) == o.tc && r' / o.tr == r / o.tr))
    let a := o.tileAddr (r / o.tr) (c / o.tc)
    let s := s.writeBits x.c a (8 * (r % o.tr) * o.rowBytes + (c % o.tc) * o.f.bits) o.f.bits
      (code :: sameRow.map (·.2))
    State.putGroup s x o fuel (rest.drop sameRow.length)

/-- The checks of VST (R139, R162). -/
def vstCheck (x : Cx) (s : State) : Chk Unit := do
  descCheck s x x.vc 3
  let o := x.opnd x.vc
  need (groupFmt o.f && (x.rnd != 1 || o.f.srTarget)) badFormat
  descPoisons x [x.vc]
  x.groupPoison

/-- The elements that VST stores: index, code with poison, flags; lanes past the end are left out (R162). -/
def Cx.vstElems (x : Cx) (s : State) : List ((Nat × (Nat × Bool)) × Flags) :=
  let o := x.opnd x.vc
  let src : Fmt := if bitAt x.vfunc 1 then .int32 else .fp32
  let pz := x.t.vregPoison x.va
  (lanesOf (x.t.vreg x.va)).zipIdx.filterMap fun p =>
    let idx := 1024 * x.groupNo + p.2
    if idx < o.elems then
      let r := convert src o.f (rounding s x x.rnd idx) x.sat p.1.toNat (src.decode p.1.toNat)
      some ((idx, (r.1, bitAt pz (p.2 / 16))), r.2)
    else none

def vstBody (x : Cx) (s : State) : Chk Next := do
  vstCheck x s
  let rs := x.vstElems s
  .ok (.retire (x.putFlags (s.putGroup x (x.opnd x.vc) 1025 (rs.map (·.1))) (rs.foldl (fun f p => f ||| p.2) Flags.none)))

def execVst (i : Issue) (s : State) : Host.Outcome State Fault Refusal :=
  issue ⟨0x4C, false, fun w _ => onlyFields ([(47, 3), (37, 5), (27, 5), (16, 4)] ++ qFields w) w,
    fun w _ => rndOk w && funcOf w < 4⟩ vstBody i s

/-- VRNG: UNIFORM draws u × 2^−24, BITS draws u (R163). -/
def vrngBody (x : Cx) (s : State) : Chk Next := do
  need (!x.t.regPoison x.vsreg) (.poison 2 1 x.vsreg)
  let seed := BitVec.ofNat 64 (s.get64 (Reg.ctxSeed x.c))
  let ls := (List.range 1024).map fun l =>
    let u := srDraw seed x.t.leaf ((x.s x.vsreg % 2 ^ 48 + l) % 2 ^ 48)
    if x.vfunc == 1 then BitVec.ofNat 32 u else (f32Round (.num false u (-24))).1
  .ok (.retire (x.putV s x.vd ls 0))

def execVrng (i : Issue) (s : State) : Host.Outcome State Fault Refusal :=
  issue ⟨0x4D, false, fun w _ => onlyFields [(42, 5), (20, 6), (16, 4)] w, fun w _ => funcOf w < 2⟩ vrngBody i s

/-! ## Segments (R164) -/

/-- L: IMM16, where 0 means 1,024. -/
def Cx.segLen (x : Cx) : Nat := if x.imm16 == 0 then 1024 else x.imm16

/-- L is a power of two up to 1,024. -/
def segOk (l : Nat) : Bool := l ≤ 1024 && l == 2 ^ Nat.log2 l

/-- The segments of VA with the poison of each: lanes and whether any lane's sector is poisoned (R153). -/
def Cx.segments (x : Cx) : List (List Word32 × Bool) :=
  let l := x.segLen
  let pz := x.t.vregPoison x.va
  (chunks l 1025 (lanesOf (x.t.vreg x.va))).zipIdx.map fun p =>
    (p.1, (List.range 64).any fun q => bitAt pz q && p.2 * l < 16 * q + 16 && 16 * q < p.2 * l + l)

/-- One result of VRED for a segment (R165). -/
def redBody (f : Cx → List Word32 → Flagged Word32) (x : Cx) (s : State) : Chk Next := do
  need (segOk x.segLen) badShape
  let rs := x.segments.map fun g => (f x g.1, g.2)
  let r := Flagged.sequence (rs.map (·.1))
  let pad := 1024 - rs.length
  .ok (.retire (x.putFlags (x.putV s x.vd (r.1 ++ List.replicate pad 0#32)
    (lanePoison (rs.map (·.2) ++ List.replicate pad false))) r.2))

def redSpec (op : Nat) : OpSpec :=
  ⟨op, false, fun w _ => onlyFields [(47, 1), (42, 5), (37, 5), (16, 4), (0, 16)] w, fun w _ => funcOf w < 2⟩

/-- The sum of a segment: the canonical tree, or the wrapped or once clamped INT32 sum (R165). -/
def segSum (x : Cx) (l : List Word32) : Flagged Word32 :=
  if x.typ then int32Result x.sat (l.foldl (fun a w => a + i32 w) 0) else f32Tree l

/-- The FP32 maximum or minimum of a list: the canonical NaN where any element is a NaN (R43). -/
def f32Extreme (larger : Bool) (l : List Word32) : Word32 :=
  match l with
  | [] => 0#32
  | a :: r => (a :: r).foldl (fun m w => (f32Pick larger m w).1) a

def segExtreme (larger : Bool) (x : Cx) (l : List Word32) : Flagged Word32 :=
  if x.typ then
    (match l with
     | [] => 0#32
     | a :: r => r.foldl (i32Pick larger) a, Flags.none)
  else (f32Extreme larger l, Flags.none)

def execVredSum (i : Issue) (s : State) : Host.Outcome State Fault Refusal :=
  issue (redSpec 0x50) (redBody segSum) i s

def execVredMax (i : Issue) (s : State) : Host.Outcome State Fault Refusal :=
  issue (redSpec 0x51) (redBody (segExtreme true)) i s

def execVredMin (i : Issue) (s : State) : Host.Outcome State Fault Refusal :=
  issue (redSpec 0x52) (redBody (segExtreme false)) i s

/-! ## VNORM and VSOFTMAX (R166, R167) -/

/-- Apply a flagged step to each lane. -/
def mapLanes (f : Word32 → Flagged Word32) (l : List Word32) : Flagged (List Word32) :=
  Flagged.sequence (l.map f)

/-- FP32 value of a segment length, a power of two. -/
def lenWord (n : Nat) : Word32 := (f32Round (.num false n 0)).1

def normSegment (rms : Bool) (eps : Word32) (l : List Word32) : Flagged (List Word32) :=
  let n := lenWord l.length
  let meanSq (d : List Word32) : Flagged Word32 :=
    ((mapLanes (fun w => f32Mul w w) d).then f32Tree).then fun t => f32Div t n
  let scale (d : List Word32) : Flagged (List Word32) :=
    ((meanSq d).then fun v => (f32Add v eps).then f32Rsqrt).then fun r => mapLanes (fun w => f32Mul w r) d
  if rms then scale l
  else (((f32Tree l).then fun t => f32Div t n).then fun m => mapLanes (fun w => f32Sub w m) l).then scale

def softSegment (c : Option Word32) (l : List Word32) : Flagged (List Word32) :=
  (match c with
   | some k => mapLanes (fun w => f32Mul w k) l
   | none => (l, Flags.none)).then fun l =>
  let m := f32Extreme true l
  (mapLanes (fun w => (f32Sub w m).then f32Exp) l).then fun e =>
  (f32Tree e).then fun t => mapLanes (fun w => f32Div w t) e

/-- Whole segments rewritten; a poisoned lane or scalar poisons its whole segment (R153). -/
def segmentBody (useS : Cx → Bool) (f : Cx → List Word32 → Flagged (List Word32)) (x : Cx) (s : State) :
    Chk Next := do
  need (segOk x.segLen) badShape
  let sp := useS x && x.t.regPoison x.vsreg
  let rs := x.segments.map fun g => (f x g.1, g.2 || sp)
  let r := Flagged.sequence (rs.map (·.1))
  let ps := rs.flatMap fun g => List.replicate x.segLen g.2
  .ok (.retire (x.putFlags (x.putV s x.vd r.1.flatten (lanePoison ps)) r.2))

/-- s[SREG][31:0] as an FP32 value. -/
def Cx.sregF32 (x : Cx) : Word32 := BitVec.ofNat 32 (x.s x.vsreg)

def execVnorm (i : Issue) (s : State) : Host.Outcome State Fault Refusal :=
  issue ⟨0x53, false, fun w _ => onlyFields [(42, 5), (37, 5), (20, 6), (16, 4), (0, 16)] w,
    fun w _ => funcOf w < 2⟩
    (segmentBody (fun _ => true) fun x l => normSegment (x.vfunc == 1) x.sregF32 l) i s

def execVsoftmax (i : Issue) (s : State) : Host.Outcome State Fault Refusal :=
  issue ⟨0x54, false, fun w _ =>
      onlyFields ([(42, 5), (37, 5), (16, 4), (0, 16)] ++ if bitAt w 16 then [(20, 6)] else []) w,
    fun w _ => funcOf w < 2⟩
    (segmentBody (fun x => x.vfunc == 1) fun x l =>
      softSegment (if x.vfunc == 1 then some x.sregF32 else none) l) i s

/-! ## VACC.RD and VACC.WR (R168) -/

/-- Tile IMM16[10:0] of the task's window. -/
def Cx.accImm (x : Cx) : Nat := x.f 0 11

def vaccRdBody (x : Cx) (s : State) : Chk Next := do
  need (x.accImm < x.t.accCount) (.ill 9 false)
  let pz := (List.range 64).foldl (fun n q => if x.accPoison s x.accImm q then n + 2 ^ q else n) 0
  .ok (.retire (x.putV s x.vd (x.accLanes s x.accImm) pz))

def execVaccRd (i : Issue) (s : State) : Host.Outcome State Fault Refusal :=
  issue ⟨0x55, false, fun w _ => onlyFields [(42, 5), (16, 4), (0, 11)] w, fun w _ => funcOf w == 0⟩ vaccRdBody i s

def vaccWrBody (x : Cx) (s : State) : Chk Next := do
  need (x.accImm < x.t.accCount) (.ill 9 false)
  .ok (.retire (x.putAcc s x.accImm (lanesOf (x.t.vreg x.va)) (bitAt (x.t.vregPoison x.va))))

def execVaccWr (i : Issue) (s : State) : Host.Outcome State Fault Refusal :=
  issue ⟨0x56, false, fun w _ => onlyFields [(37, 5), (16, 4), (0, 11)] w, fun w _ => funcOf w == 0⟩ vaccWrBody i s

end Sys2Proof.Machine
end

