-- ==== Sys2Proof/Machine/Dispatch.lean ====
section
/-!
DEFINITION. One arm per row of the spec's table: each command's meaning, by one direct call.
-/
namespace Sys2Proof.Machine

/-- The effect of one command on everything but the queue. -/
def exec (i : Instr) (s : State) : Host.Outcome State Fault Refusal :=
  match i with
  | .nop j => Sys2Proof.Machine.execNop j s
  | .add j => Sys2Proof.Machine.execAdd j s
  | .sub j => Sys2Proof.Machine.execSub j s
  | .mul j => Sys2Proof.Machine.execMul j s
  | .and j => Sys2Proof.Machine.execAnd j s
  | .or j => Sys2Proof.Machine.execOr j s
  | .xor j => Sys2Proof.Machine.execXor j s
  | .shl j => Sys2Proof.Machine.execShl j s
  | .shr j => Sys2Proof.Machine.execShr j s
  | .sra j => Sys2Proof.Machine.execSra j s
  | .min j => Sys2Proof.Machine.execMin j s
  | .max j => Sys2Proof.Machine.execMax j s
  | .mov j => Sys2Proof.Machine.execMov j s
  | .ldi j => Sys2Proof.Machine.execLdi j s
  | .cmpEq j => Sys2Proof.Machine.execCmpEq j s
  | .cmpLt j => Sys2Proof.Machine.execCmpLt j s
  | .cmpLtu j => Sys2Proof.Machine.execCmpLtu j s
  | .pand j => Sys2Proof.Machine.execPand j s
  | .por j => Sys2Proof.Machine.execPor j s
  | .pxor j => Sys2Proof.Machine.execPxor j s
  | .br j => Sys2Proof.Machine.execBr j s
  | .halt j => Sys2Proof.Machine.execHalt j s
  | .ldS j => Sys2Proof.Machine.execLdS j s
  | .stS j => Sys2Proof.Machine.execStS j s
  | .flagsRd j => Sys2Proof.Machine.execFlagsRd j s
  | .flagsClr j => Sys2Proof.Machine.execFlagsClr j s
  | .tdLd j => Sys2Proof.Machine.execTdLd j s
  | .tdSt j => Sys2Proof.Machine.execTdSt j s
  | .tdSet j => Sys2Proof.Machine.execTdSet j s
  | .tdGet j => Sys2Proof.Machine.execTdGet j s
  | .tdAdv j => Sys2Proof.Machine.execTdAdv j s
  | .mma j => Sys2Proof.Machine.execMma j s
  | .mmaCsr j => Sys2Proof.Machine.execMmaCsr j s
  | .spvalid j => Sys2Proof.Machine.execSpvalid j s
  | .vadd j => Sys2Proof.Machine.execVadd j s
  | .vsub j => Sys2Proof.Machine.execVsub j s
  | .vmul j => Sys2Proof.Machine.execVmul j s
  | .vfma j => Sys2Proof.Machine.execVfma j s
  | .vdiv j => Sys2Proof.Machine.execVdiv j s
  | .vmin j => Sys2Proof.Machine.execVmin j s
  | .vmax j => Sys2Proof.Machine.execVmax j s
  | .vsqrt j => Sys2Proof.Machine.execVsqrt j s
  | .vfunc j => Sys2Proof.Machine.execVfunc j s
  | .vcmp j => Sys2Proof.Machine.execVcmp j s
  | .vsel j => Sys2Proof.Machine.execVsel j s
  | .vld j => Sys2Proof.Machine.execVld j s
  | .vst j => Sys2Proof.Machine.execVst j s
  | .vrng j => Sys2Proof.Machine.execVrng j s
  | .vredSum j => Sys2Proof.Machine.execVredSum j s
  | .vredMax j => Sys2Proof.Machine.execVredMax j s
  | .vredMin j => Sys2Proof.Machine.execVredMin j s
  | .vnorm j => Sys2Proof.Machine.execVnorm j s
  | .vsoftmax j => Sys2Proof.Machine.execVsoftmax j s
  | .vaccRd j => Sys2Proof.Machine.execVaccRd j s
  | .vaccWr j => Sys2Proof.Machine.execVaccWr j s
  | .cvt j => Sys2Proof.Machine.execCvt j s
  | .tcopy j => Sys2Proof.Machine.execTcopy j s
  | .tfill j => Sys2Proof.Machine.execTfill j s
  | .gatherDl j band => Sys2Proof.Machine.execGatherDl j band s
  | .scatter j => Sys2Proof.Machine.execScatter j s
  | .accOut j => Sys2Proof.Machine.execAccOut j s
  | .resumableUnit core slot band => Sys2Proof.Machine.execResumableUnit core slot band s
  | .streamSend j => Sys2Proof.Machine.execStreamSend j s
  | .streamRecv j => Sys2Proof.Machine.execStreamRecv j s
  | .latchWait j => Sys2Proof.Machine.execLatchWait j s
  | .latchSig j => Sys2Proof.Machine.execLatchSig j s
  | .bufAlloc j => Sys2Proof.Machine.execBufAlloc j s
  | .bufFree j => Sys2Proof.Machine.execBufFree j s
  | .streamInj j => Sys2Proof.Machine.execStreamInj j s
  | .barrier j => Sys2Proof.Machine.execBarrier j s
  | .threshold j => Sys2Proof.Machine.execThreshold j s
  | .atLaunch j => Sys2Proof.Machine.execAtLaunch j s
  | .tickRd j => Sys2Proof.Machine.execTickRd j s
  | .unitQuery j => Sys2Proof.Machine.execUnitQuery j s
  | .taskCtlStart j => Sys2Proof.Machine.execTaskCtlStart j s
  | .taskCtlStop j => Sys2Proof.Machine.execTaskCtlStop j s
  | .taskCtlPreempt j => Sys2Proof.Machine.execTaskCtlPreempt j s
  | .taskCtlSave j => Sys2Proof.Machine.execTaskCtlSave j s
  | .taskCtlRestore j => Sys2Proof.Machine.execTaskCtlRestore j s
  | .collSum j => Sys2Proof.Machine.execCollSum j s
  | .leaseAcq j => Sys2Proof.Machine.execLeaseAcq j s
  | .leaseRel j => Sys2Proof.Machine.execLeaseRel j s
  | .atom j => Sys2Proof.Machine.execAtom j s
  | .rld j => Sys2Proof.Machine.execRld j s
  | .rst j => Sys2Proof.Machine.execRst j s
  | .inv j => Sys2Proof.Machine.execInv j s
  | .doorbell j => Sys2Proof.Machine.execDoorbell j s
  | .taskWake core slot codes => Sys2Proof.Machine.execTaskWake core slot codes s
  | .ageLimitIssue core slots => Sys2Proof.Machine.execAgeLimitIssue core slots s
  | .mmaCheckMismatch m => Sys2Proof.Machine.execMmaCheckMismatch m s
  | .pswApplyMigrate req n done => Sys2Proof.Machine.execPswApplyMigrate req n done s
  | .pswApplyReplace req n => Sys2Proof.Machine.execPswApplyReplace req n s
  | .copyFail n => Sys2Proof.Machine.execCopyFail n s
  | .migrateNewPositionFail n => Sys2Proof.Machine.execMigrateNewPositionFail n s
  | .groupLand g => Sys2Proof.Machine.execGroupLand g s
  | .creditArrive c => Sys2Proof.Machine.execCreditArrive c s
  | .fetchEngineFetch core ep => Sys2Proof.Machine.execFetchEngineFetch core ep s
  | .chainForward core ep => Sys2Proof.Machine.execChainForward core ep s
  | .mergeFlitArrive j => Sys2Proof.Machine.execMergeFlitArrive j s
  | .thresholdRelease c => Sys2Proof.Machine.execThresholdRelease c s
  | .barrierRelease c node => Sys2Proof.Machine.execBarrierRelease c node s
  | .launchTick core => Sys2Proof.Machine.execLaunchTick core s
  | .taskCtlEffect codes => Sys2Proof.Machine.execTaskCtlEffect codes s
  | .parkedTaskRestore core slot => Sys2Proof.Machine.execParkedTaskRestore core slot s
  | .deadlock c => Sys2Proof.Machine.execDeadlock c s
  | .strCfgEnable req core ep c v => Sys2Proof.Machine.execStrCfgEnable req core ep c v s
  | .strCfgDisable req core ep v => Sys2Proof.Machine.execStrCfgDisable req core ep v s
  | .synTskStart req c mask => Sys2Proof.Machine.execSynTskStart req c mask s
  | .synTskStop req c mask => Sys2Proof.Machine.execSynTskStop req c mask s
  | .synTskPreempt req c mask => Sys2Proof.Machine.execSynTskPreempt req c mask s
  | .synTskSave req c mask => Sys2Proof.Machine.execSynTskSave req c mask s
  | .synTskRestore req c mask => Sys2Proof.Machine.execSynTskRestore req c mask s
  | .stageReserve core ahead => Sys2Proof.Machine.execStageReserve core ahead s
  | .stageComplete core c tile found reply => Sys2Proof.Machine.execStageComplete core c tile found reply s
  | .t2WriteAck p tile => Sys2Proof.Machine.execT2WriteAck p tile s
  | .t2Lost m => Sys2Proof.Machine.execT2Lost m s
  | .patrolScrub f => Sys2Proof.Machine.execPatrolScrub f s
  | .migRingEnable req c v => Sys2Proof.Machine.execMigRingEnable req c v s
  | .migRingTailWrite req c v => Sys2Proof.Machine.execMigRingTailWrite req c v s
  | .migCopy c n replies => Sys2Proof.Machine.execMigCopy c n replies s
  | .migDrop c => Sys2Proof.Machine.execMigDrop c s
  | .migFence c => Sys2Proof.Machine.execMigFence c s
  | .migCntClear req c => Sys2Proof.Machine.execMigCntClear req c s
  | .migErrClear req => Sys2Proof.Machine.execMigErrClear req s
  | .lvrDescEnable req c v => Sys2Proof.Machine.execLvrDescEnable req c v s
  | .lvrDescTailWrite req c v => Sys2Proof.Machine.execLvrDescTailWrite req c v s
  | .lvrLoad c man => Sys2Proof.Machine.execLvrLoad c man s
  | .lvrSwap c man => Sys2Proof.Machine.execLvrSwap c man s
  | .lvrWriteBack c replies => Sys2Proof.Machine.execLvrWriteBack c replies s
  | .lvrFence c => Sys2Proof.Machine.execLvrFence c s
  | .lvrChunkVerify c use page j reply => Sys2Proof.Machine.execLvrChunkVerify c use page j reply s
  | .lvrFetchTimeout c swap => Sys2Proof.Machine.execLvrFetchTimeout c swap s
  | .swapHold c => Sys2Proof.Machine.execSwapHold c s
  | .swapExchangeDone c => Sys2Proof.Machine.execSwapExchangeDone c s
  | .swapCommit req c => Sys2Proof.Machine.execSwapCommit req c s
  | .swapRollback req c => Sys2Proof.Machine.execSwapRollback req c s
  | .swapTimeout c => Sys2Proof.Machine.execSwapTimeout c s
  | .lvrCntClear req c => Sys2Proof.Machine.execLvrCntClear req c s
  | .lvrFailClear req => Sys2Proof.Machine.execLvrFailClear req s
  | .meshFlitArrive e => Sys2Proof.Machine.execMeshFlitArrive e s
  | .netTblArm req => Sys2Proof.Machine.execNetTblArm req s
  | .netTblSwitch => Sys2Proof.Machine.execNetTblSwitch s
  | .mrgNodeEnable req core node v => Sys2Proof.Machine.execMrgNodeEnable req core node v s
  | .netCntClear req => Sys2Proof.Machine.execNetCntClear req s
  | .timAcquire req v => Sys2Proof.Machine.execTimAcquire req v s
  | .timDivArm req v => Sys2Proof.Machine.execTimDivArm req v s
  | .divChange => Sys2Proof.Machine.execDivChange s
  | .refFail src => Sys2Proof.Machine.execRefFail src s
  | .refReturn src => Sys2Proof.Machine.execRefReturn src s
  | .pllLockLoss => Sys2Proof.Machine.execPllLockLoss s
  | .timeFlitSend p frac => Sys2Proof.Machine.execTimeFlitSend p frac s
  | .timeFlitReceive p flit corr uncorr frac => Sys2Proof.Machine.execTimeFlitReceive p flit corr uncorr frac s
  | .markerLoss => Sys2Proof.Machine.execMarkerLoss s
  | .holdoverExpiry => Sys2Proof.Machine.execHoldoverExpiry s
  | .lnkEnable req p v => Sys2Proof.Machine.execLnkEnable req p v s
  | .lnkDisable req p v => Sys2Proof.Machine.execLnkDisable req p v s
  | .lnkRetrain req p v => Sys2Proof.Machine.execLnkRetrain req p v s
  | .lightDetect p => Sys2Proof.Machine.execLightDetect p s
  | .lossOfLight p => Sys2Proof.Machine.execLossOfLight p s
  | .pmdTrainDone p => Sys2Proof.Machine.execPmdTrainDone p s
  | .alignDone p => Sys2Proof.Machine.execAlignDone p s
  | .initFlitReceive p flit corr uncorr => Sys2Proof.Machine.execInitFlitReceive p flit corr uncorr s
  | .trainTimeout p => Sys2Proof.Machine.execTrainTimeout p s
  | .retrainDone p => Sys2Proof.Machine.execRetrainDone p s
  | .retrainTimeout p => Sys2Proof.Machine.execRetrainTimeout p s
  | .dataFlitReceive p flit corr uncorr => Sys2Proof.Machine.execDataFlitReceive p flit corr uncorr s
  | .nakReceive p flit corr uncorr => Sys2Proof.Machine.execNakReceive p flit corr uncorr s
  | .ackTimeout p => Sys2Proof.Machine.execAckTimeout p s
  | .lnkCntClear req p => Sys2Proof.Machine.execLnkCntClear req p s
  | .ethFrameReceive p frame => Sys2Proof.Machine.execEthFrameReceive p frame s
  | .transportPacketReceive => Sys2Proof.Machine.execTransportPacketReceive s
  | .tAckTimer node cls => Sys2Proof.Machine.execTAckTimer node cls s
  | .tAckReceive => Sys2Proof.Machine.execTAckReceive s
  | .rtoExpiry node cls => Sys2Proof.Machine.execRtoExpiry node cls s
  | .connectionFail node => Sys2Proof.Machine.execConnectionFail node s
  | .connIdleEvict send node => Sys2Proof.Machine.execConnIdleEvict send node s
  | .trpCntClear req => Sys2Proof.Machine.execTrpCntClear req s
  | .transitForward => Sys2Proof.Machine.execTransitForward s
  | .rdReceive => Sys2Proof.Machine.execRdReceive s
  | .wrReceive => Sys2Proof.Machine.execWrReceive s
  | .atomicReceive => Sys2Proof.Machine.execAtomicReceive s
  | .leaseReceive => Sys2Proof.Machine.execLeaseReceive s
  | .invReceive => Sys2Proof.Machine.execInvReceive s
  | .doorbellReceive => Sys2Proof.Machine.execDoorbellReceive s
  | .rspReceive => Sys2Proof.Machine.execRspReceive s
  | .requestResend num => Sys2Proof.Machine.execRequestResend num s
  | .outcomeUnknown num => Sys2Proof.Machine.execOutcomeUnknown num s
  | .leaseRetry num => Sys2Proof.Machine.execLeaseRetry num s
  | .rcacheExpiry => Sys2Proof.Machine.execRcacheExpiry s
  | .hingeHoldExpiry c node => Sys2Proof.Machine.execHingeHoldExpiry c node s
  | .vblTblArm req => Sys2Proof.Machine.execVblTblArm req s
  | .vblTblSwitch => Sys2Proof.Machine.execVblTblSwitch s
  | .vblCntClear req => Sys2Proof.Machine.execVblCntClear req s
  | .collReadyReceive => Sys2Proof.Machine.execCollReadyReceive s
  | .collStepLaunch core slot => Sys2Proof.Machine.execCollStepLaunch core slot s
  | .collStepDataReceive => Sys2Proof.Machine.execCollStepDataReceive s
  | .collDoneReceive => Sys2Proof.Machine.execCollDoneReceive s
  | .collAbortReceive => Sys2Proof.Machine.execCollAbortReceive s
  | .collTimeout c num => Sys2Proof.Machine.execCollTimeout c num s
  | .collStepResend => Sys2Proof.Machine.execCollStepResend s
  | .colCntClear req c => Sys2Proof.Machine.execColCntClear req c s
  | .ctxLoad req c => Sys2Proof.Machine.execCtxLoad req c s
  | .bindingDone c img plan => Sys2Proof.Machine.execBindingDone c img plan s
  | .ctxSeal req c => Sys2Proof.Machine.execCtxSeal req c s
  | .ctxStart req c => Sys2Proof.Machine.execCtxStart req c s
  | .ctxStartTick c => Sys2Proof.Machine.execCtxStartTick c s
  | .ctxDrain req c retain => Sys2Proof.Machine.execCtxDrain req c retain s
  | .drainComplete c => Sys2Proof.Machine.execDrainComplete c s
  | .ctxKill req c retain => Sys2Proof.Machine.execCtxKill req c retain s
  | .bootCommitDone => Sys2Proof.Machine.execBootCommitDone s
  | .shtReset req p => Sys2Proof.Machine.execShtReset req p s
  | .shtClear req p => Sys2Proof.Machine.execShtClear req p s
  | .shtModClear req => Sys2Proof.Machine.execShtModClear req s
  | .shtT2SizeWrite req p v => Sys2Proof.Machine.execShtT2SizeWrite req p v s
  | .t2ZeroingDone p => Sys2Proof.Machine.execT2ZeroingDone p s
  | .eventReport src => Sys2Proof.Machine.execEventReport src s
  | .coalesceTimeout q => Sys2Proof.Machine.execCoalesceTimeout q s
  | .evcGdisWrite req v => Sys2Proof.Machine.execEvcGdisWrite req v s
  | .evcQueueEnable req q v => Sys2Proof.Machine.execEvcQueueEnable req q v s
  | .evcHeadWrite req q v => Sys2Proof.Machine.execEvcHeadWrite req q v s
  | .evcDone req q => Sys2Proof.Machine.execEvcDone req q s
  | .targetTimeout q => Sys2Proof.Machine.execTargetTimeout q s
  | .alarm line raw clocks => Sys2Proof.Machine.execAlarm line raw clocks s
  | .evcCntClear req => Sys2Proof.Machine.execEvcCntClear req s
  | .scanDue pos never => Sys2Proof.Machine.execScanDue pos never s
  | .scanRequest req v never => Sys2Proof.Machine.execScanRequest req v never s
  | .calibRequest req v never => Sys2Proof.Machine.execCalibRequest req v never s
  | .stepBoundaryMigrate pos => Sys2Proof.Machine.execStepBoundaryMigrate pos s
  | .scanComplete n x => Sys2Proof.Machine.execScanComplete n x s
  | .calibComplete r x => Sys2Proof.Machine.execCalibComplete r x s
  | .relForce req c v => Sys2Proof.Machine.execRelForce req c v s
  | .suspectClear pos => Sys2Proof.Machine.execSuspectClear pos s
  | .relCntClear req => Sys2Proof.Machine.execRelCntClear req s
  | .pwrEnSet req r => Sys2Proof.Machine.execPwrEnSet req r s
  | .pwrEnClear req r => Sys2Proof.Machine.execPwrEnClear req r s
  | .rampDone r => Sys2Proof.Machine.execRampDone r s
  | .shutdownDone r => Sys2Proof.Machine.execShutdownDone r s
  | .minOffExpiry r => Sys2Proof.Machine.execMinOffExpiry r s
  | .droopTrip r floor => Sys2Proof.Machine.execDroopTrip r floor s
  | .droopRecover r => Sys2Proof.Machine.execDroopRecover r s
  | .regionSag r => Sys2Proof.Machine.execRegionSag r s
  | .contactFault r step never => Sys2Proof.Machine.execContactFault r step never s
  | .thermHigh r temp => Sys2Proof.Machine.execThermHigh r temp s
  | .thermTrip r temp => Sys2Proof.Machine.execThermTrip r temp s
  | .inputSupervision x => Sys2Proof.Machine.execInputSupervision x s
  | .coolantSupervision x => Sys2Proof.Machine.execCoolantSupervision x s
  | .powerCablePull finishes => Sys2Proof.Machine.execPowerCablePull finishes s
  | .powerOn x pairs => Sys2Proof.Machine.execPowerOn x pairs s
  | .powerOffSequence => Sys2Proof.Machine.execPowerOffSequence s
  | .pwrCntClear req => Sys2Proof.Machine.execPwrCntClear req s
  | .telemetry m => Sys2Proof.Machine.execTelemetry m s
  | .logRead m => Sys2Proof.Machine.execLogRead m s
  | .partReset m => Sys2Proof.Machine.execPartReset m s
  | .moduleReset m => Sys2Proof.Machine.execModuleReset m s
  | .powerOff m => Sys2Proof.Machine.execPowerOff m s
  | .dump m => Sys2Proof.Machine.execDump m s
  | .storeUpdate m => Sys2Proof.Machine.execStoreUpdate m s
  | .status m => Sys2Proof.Machine.execStatus m s
  | .druterRestart m => Sys2Proof.Machine.execDruterRestart m s
  | .assign m => Sys2Proof.Machine.execAssign m s
  | .telemetryPass x => Sys2Proof.Machine.execTelemetryPass x s
  | .sillEnum v => Sys2Proof.Machine.execSillEnum v s
  | .sillFrameForward fromUp frame wedged => Sys2Proof.Machine.execSillFrameForward fromUp frame wedged s
  | .sillLinkChange => Sys2Proof.Machine.execSillLinkChange s
  | .beat => Sys2Proof.Machine.execBeat s
  | .storeCommit ok => Sys2Proof.Machine.execStoreCommit ok s
  | .svcBeatWrite req v => Sys2Proof.Machine.execSvcBeatWrite req v s
  | .druterWatchdog => Sys2Proof.Machine.execDruterWatchdog s
  | .bringUp plan => Sys2Proof.Machine.execBringUp plan s
  | .bootWrapHoldExpiry => Sys2Proof.Machine.execBootWrapHoldExpiry s
  | .testEnChange active => Sys2Proof.Machine.execTestEnChange active s
  | .reg64LowRead req addr => Sys2Proof.Machine.execReg64LowRead req addr s
  | .registerWrite req addr v x => Sys2Proof.Machine.execRegisterWrite req addr v x s
  | .undefOp core slot words => Sys2Proof.Machine.execUndefOp core slot words s
  | .badPc core slot word => Sys2Proof.Machine.execBadPc core slot word s
  | .quietTimeExpiry node => Sys2Proof.Machine.execQuietTimeExpiry node s
  | .mgmtBadRequest op m => Sys2Proof.Machine.execMgmtBadRequest op m s

end Sys2Proof.Machine
end

