-- ==== Sys2Proof/Safety.lean ====
section
/-!
DEFINITION. What claims call a safe run, and the invariants of the machine's data.
-/
namespace Sys2Proof.Machine
open Sys2Proof

/-- A run of `n` steps meets no fault and no refusal. -/
def Safe : Nat → State → Prop
  | 0, _ => True
  | n + 1, s => ∃ t, step s = .next t ∧ Safe n t

/-- The control registers lie in one canonical form: addresses rise, and no register at its reset value is listed. -/
def Ctrl.wf (c : Ctrl) : Bool :=
  SMap.sorted c.regs && c.regs.all fun r => r.2 != BitVec.ofNat 32 (regReset r.1)

/-- Memory and control registers are in canonical form. -/
def State.Inv (s : State) : Prop := s.mem.wf = true ∧ Ctrl.wf s.ctrl = true

/-! ## When an instruction executes (R77, R92, R137 to R139, R174, R340, R391, R462) -/

/-- The slot holds the task `t`, no unit of it is under way, and the slot has its core's turn: the clocks run, the task is READY in a
context that runs, with no request outstanding, and no other ready slot of the core comes first. -/
structure CanIssue (i : Issue) (s : State) (t : Task) : Prop where
  task : s.task? i.core i.slot = some t
  between : t.run = none
  turn : s.hasTurn i.core i.slot = true

/-- The instruction as its meaning sees it. -/
def cxOf (i : Issue) (op : Nat) (t : Task) : Cx := ⟨i.core, i.slot, t.ctx, issueBits i op, i.ext.toNat, t⟩

/-- The task can issue, causes 1 to 5 of R139 do not arise for a row with the form `sp`, and the guard holds (R137). -/
structure Executes (sp : OpSpec) (i : Issue) (s : State) (t : Task) : Prop extends CanIssue i s t where
  pc : s.pcBad t.ctx t.pc.toNat sp.ext = false
  ext : wordExt (issueBits i sp.op) = sp.ext
  reserved : sp.rsvd (issueBits i sp.op) i.ext.toNat = true
  enum : sp.enum (issueBits i sp.op) i.ext.toNat = true
  clean : t.predPoison (wordPred (issueBits i sp.op)) = false
  guard : t.pred (wordPred (issueBits i sp.op)) = !wordPneg (issueBits i sp.op)

/-- The slot of an instruction that issues gives up its turn (R77). -/
def State.turn (s : State) (i : Issue) : State := s.dropFirst i.core i.slot

/-- The task after an instruction retires: its PC passes the instruction, and it has retired one more (R128, R219). -/
def Task.past (t : Task) (ext : Bool) : Task := { t with pc := t.pc + (if ext then 16#44 else 8#44), retired := t.retired + 1 }

/-- An instruction retires whose effect gave this state: its task goes past it, and its core counts it (R77, R99). -/
def State.retire (s : State) (i : Issue) (ext : Bool) : State :=
  (s.modTask i.core i.slot fun t => t.past ext).noteIssue i.core i.slot

/-- The task of an instruction. -/
def State.putTask (s : State) (i : Issue) (t : Task) : State := s.setTask i.core i.slot t

/-- A write of a control register goes through: power, the clocks, the path, the register and the writer are in order, and no reserved bit
is set (R10, R12, R57, R340, R595). -/
def State.accepts (s : State) (req : Requester) (addr v : Nat) : Bool :=
  s.svc.power == 2 && s.flag Fld.timStatusPllLock && !s.accessRefused req addr &&
    match locate addr with
    | none => false
    | some l =>
      match regFields l.blk l.off with
      | none => false
      | some fs => s.mayWriteLoc req l && !rsvdSet fs v

end Sys2Proof.Machine
end

