-- ==== Sys2Proof/Certificates/Slice0/Obligations.lean ====
section
/-!
DEFINITION. The statements for the provers: what the spec's rules say of the machine and of each command. Each statement's docstring
names the rules that it formalises.
-/
namespace Sys2Proof.Machine
open Sys2Proof

/-! ## Words of the statements -/

/-- Bits [lo+w-1:lo] of an instruction word's body (R129 to R134). -/
def wordField (i : Issue) (lo w : Nat) : Nat := field i.body.toNat lo w

/-- IMMF of form S (R130). -/
def immForm (i : Issue) : Bool := i.body.getLsbD 49

/-- DST, SRCA and SRCB of form S (R130). -/
def dstOf (i : Issue) : Nat := wordField i 42 6
def srcAOf (i : Issue) : Nat := wordField i 36 6
def srcBOf (i : Issue) : Nat := wordField i 30 6

/-- IMM36, sign-extended (R130). -/
def immOf (i : Issue) : Word64 := (i.body.setWidth 36).signExtend 64

/-- B: s[SRCB] when IMMF is 0, and the sign-extended IMM36 when IMMF is 1 (R183); and its poison. -/
def operandB (i : Issue) (t : Task) : Word64 := if immForm i then immOf i else t.reg (srcBOf i)
def operandBPoison (i : Issue) (t : Task) : Bool := !immForm i && t.regPoison (srcBOf i)

/-- Poison of a result of s[SRCA] and B (R143). -/
def poisonAB (i : Issue) (t : Task) : Bool := t.regPoison (srcAOf i) || operandBPoison i t

/-- Wherever an instruction executes, it retires with its task changed by `f` and nothing else: the rest of the state is that of a
turn taken and an instruction counted. -/
def RetiresWith (op : Issue → Instr) (sp : OpSpec) (f : Issue → Task → Task) : Prop :=
  ∀ i s t, Executes sp i s t → exec (op i) s = .next (((s.turn i).putTask i (f i t)).retire i sp.ext)

/-- s[DST] ← s[SRCA] op B (R183), with the poison of its inputs (R143). -/
def aluResult (f : Word64 → Word64 → Word64) (i : Issue) (t : Task) : Task :=
  t.setReg (dstOf i) (f (t.reg (srcAOf i)) (operandB i t)) (poisonAB i t)

/-- p[DST] ← a comparison of s[SRCA] with B (R183), with the poison of its inputs (R143). -/
def compareResult (f : Word64 → Word64 → Bool) (i : Issue) (t : Task) : Task :=
  t.setPred (dstOf i) (f (t.reg (srcAOf i)) (operandB i t)) (poisonAB i t)

/-- p[DST] ← logic of p[SRCA] and p[SRCB] (R183), with the poison of its inputs (R143). -/
def logicResult (f : Bool → Bool → Bool) (i : Issue) (t : Task) : Task :=
  t.setPred (dstOf i) (f (t.pred (srcAOf i)) (t.pred (srcBOf i))) (t.predPoison (srcAOf i) || t.predPoison (srcBOf i))

/-- The address s[SRCA] + IMM36 of a memory form (R183). -/
def memAddr (i : Issue) (t : Task) : Nat := (t.reg (srcAOf i) + immOf i).toNat

/-- An address from which an instruction reads `n` bytes in place: aligned, mapped, in T0 or T1, its register not poisoned. -/
structure Readable (i : Issue) (s : State) (t : Task) (n : Nat) : Prop where
  aligned : memAddr i t % n = 0
  mapped : s.mapped t.ctx (memAddr i t) n = true
  upper : upperTier (memAddr i t) = true
  clean : t.regPoison (srcAOf i) = false

/-- An address to which an instruction writes `n` bytes: aligned, mapped, in T0 or T1 and outside the code region, its register not
poisoned (R243, R244). -/
structure Writable (i : Issue) (s : State) (t : Task) (n : Nat) : Prop extends Readable i s t n where
  writable : s.writable t.ctx (memAddr i t) n = true

/-- What a form S memory word may hold. -/
def ldSpec (op : Nat) : OpSpec := memSpec op enumAny

/-- The words of BR (R183). -/
def brSpec : OpSpec := ⟨0x16, false, fun w _ => onlyFields [(49, 1), if bitAt w 49 then (0, 36) else (30, 6)] w, enumAny⟩

/-- A branch retires: the PC takes its target, and the instruction is counted. -/
def branched (i : Issue) (s : State) (t : Task) (pc : BitVec 44) : State :=
  ((s.turn i).putTask i { t with pc := pc, retired := t.retired + 1 }).noteIssue i.core i.slot

/-- Wherever an instruction executes and its checks and waits let it go on, it retires with what `run` says of it: `check` reads the
task, its operands and what they name, and `run` takes what `check` found. No poison leaves the module with it (R96). -/
def RetiresAs {α : Type} (op : Issue → Instr) (sp : OpSpec) (check : Cx → State → Chk α) (run : Cx → State → α → State) : Prop :=
  ∀ i s t a, Executes sp i s t → check (cxOf i sp.op t) (s.turn i) = .ok a →
    poisonLeaves (s.turn i) (.retire (run (cxOf i sp.op t) (s.turn i) a)) = false →
    exec (op i) s = .next ((run (cxOf i sp.op t) (s.turn i) a).retire i sp.ext)

/-- The words of the descriptor instructions (R183). -/
def tdLdSpec : OpSpec := ⟨0x20, false, fun w _ => !bitAt w 48 && rsvdT 42 w, fun w _ => bitAt w 49⟩
def tdStSpec : OpSpec := ⟨0x21, false, fun w _ => !bitAt w 48 && rsvdT 42 w, fun w _ => bitAt w 49⟩
def tdSetSpec : OpSpec := ⟨0x22, false, fun w _ => rsvdSel w && rsvdT 42 w,
  fun w _ => bitAt w 49 && (descSelector (field w 0 8)).isSome⟩
def tdGetSpec : OpSpec := ⟨0x23, false, fun w _ => rsvdSel w && rsvdT 36 w,
  fun w _ => bitAt w 49 && (descSelector (field w 0 8)).isSome⟩
def tdAdvSpec : OpSpec := ⟨0x24, false, fun w _ => !bitAt w 48 && rsvdT 42 w && field w 36 6 == 0, fun w _ => bitAt w 49⟩

/-- A descriptor whose PLACE is not AHEAD, or that is no memory descriptor, begins no staging (R255). -/
def noAhead (d : Nat) : Prop := field d 264 8 ≠ 2 ∨ field d 272 8 = 1

/-! ## Vectors (R159) -/

/-- Lane `l` of a vector register. -/
def lane (v : BitVec 32768) (l : Nat) : Word32 := v.extractLsb' (32 * l) 32

def vdOf (i : Issue) : Nat := wordField i 42 5
def vaOf (i : Issue) : Nat := wordField i 37 5
def vbOf (i : Issue) : Nat := wordField i 32 5
def vcOf (i : Issue) : Nat := wordField i 27 5
def vfuncBit (i : Issue) (k : Nat) : Bool := i.body.getLsbD (16 + k)

/-- Lane `l` of operand b: IMM16 broadcast (a BF16 value for FP32 lanes, sign-extended for INT32 lanes), s[SREG][31:0] broadcast when
SBCAST, FUNC bit `sb`, is 1, or lane `l` of VB (R159). -/
def laneB (i : Issue) (t : Task) (int : Bool) (sb l : Nat) : Word32 :=
  if i.body.getLsbD 26 then (if int then (i.body.setWidth 16).signExtend 32 else (i.body.setWidth 16).setWidth 32 <<< 16)
  else if sb < 4 && vfuncBit i sb then (t.reg (wordField i 20 6)).setWidth 32
  else lane (t.vreg (vbOf i)) l

/-- Poisoned sectors of operand b (R153). -/
def laneBPoison (i : Issue) (t : Task) (sb : Nat) : Nat :=
  if i.body.getLsbD 26 then 0
  else if sb < 4 && vfuncBit i sb then (if t.regPoison (wordField i 20 6) then 2 ^ 64 - 1 else 0)
  else t.vregPoison (vbOf i)

/-- Wherever a vector instruction executes, it retires with VD holding `f` lane by lane, the poisoned sectors `pz`, and the flags of every
lane raised (R47, R153, R159). -/
def WritesLanes (op : Issue → Instr) (sp : OpSpec) (pz : Issue → Task → Nat) (f : Issue → Task → Nat → Flagged Word32) : Prop :=
  ∀ i s t, Executes sp i s t → ∃ v : BitVec 32768, (∀ l, l < 1024 → lane v l = (f i t l).1) ∧
    exec (op i) s = .next (((s.turn i).putTask i { t.setVreg (vdOf i) v (pz i t) with
      flags := t.flags ||| (List.range 1024).foldl (fun a l => a ||| (f i t l).2) 0#16 }).retire i false)

/-- An exact integer result of an INT32 lane: modulo 2^32, or with SAT the nearest end of the range with SA, IX and OF (R124, R159). -/
def intLane (i : Issue) (z : Int) : Flagged Word32 :=
  if !i.body.getLsbD 47 then (BitVec.ofInt 32 z, 0#16)
  else if z < -(2 ^ 31) then (0x80000000#32, 52#16)
  else if 2 ^ 31 - 1 < z then (0x7FFFFFFF#32, 52#16)
  else (BitVec.ofInt 32 z, 0#16)

/-- Poisoned sectors of VA and operand b. -/
def sectorsAB (sb : Nat) (i : Issue) (t : Task) : Nat := t.vregPoison (vaOf i) ||| laneBPoison i t sb

/-- A lane of VADD, VSUB or VMUL. -/
def arithResult (fp : Word32 → Word32 → Flagged Word32) (int : Int → Int → Int) (i : Issue) (t : Task) (l : Nat) : Flagged Word32 :=
  let a := lane (t.vreg (vaOf i)) l
  let b := laneB i t (vfuncBit i 0) 1 l
  if vfuncBit i 0 then intLane i (int a.toInt b.toInt) else fp a b

/-- A lane of VMIN or VMAX: signed for INT32; for FP32 a NaN gives the canonical NaN, and +0 is above −0 (R43, R159). -/
def pickResult (larger : Bool) (i : Issue) (t : Task) (l : Nat) : Flagged Word32 :=
  let a := lane (t.vreg (vaOf i)) l
  let b := laneB i t (vfuncBit i 0) 1 l
  if vfuncBit i 0 then (if larger then (if a.slt b then b else a) else (if b.slt a then b else a), 0#16) else f32Pick larger a b

/-- The rows of results that a segmented instruction writes: `f` of each of the 1,024 / L segments of VA, in turn. -/
def segmentsOf (l : Nat) (v : BitVec 32768) (k : Nat) : List Word32 := (List.range l).map fun j => lane v (k * l + j)

/-- L of a segmented instruction: IMM16, where 0 means 1,024 (R164). -/
def segLenOf (i : Issue) : Nat := if wordField i 0 16 = 0 then 1024 else wordField i 0 16

/-- Some lane of segment `k` of VA, of `l` lanes, lies in a poisoned sector (R153). -/
def segPoisoned (i : Issue) (t : Task) (l k : Nat) : Prop :=
  ∃ p, p < 64 ∧ bitAt (t.vregPoison (vaOf i)) p = true ∧ k * l < 16 * p + 16 ∧ 16 * p < k * l + l

/-- Wherever a reduction executes with L a power of two, lane g of VD holds the result of segment g and the lanes above hold 0; a sector of
VD is poisoned where a segment that it holds a result of is (R153, R165). -/
def WritesReductions (op : Issue → Instr) (sp : OpSpec) (f : Issue → List Word32 → Flagged Word32) : Prop :=
  ∀ i s t e, Executes sp i s t → e ≤ 10 → segLenOf i = 2 ^ e →
    ∃ (v : BitVec 32768) (pz : Nat),
      (∀ g, g < 1024 / 2 ^ e → lane v g = (f i (segmentsOf (2 ^ e) (t.vreg (vaOf i)) g)).1) ∧
      (∀ g, 1024 / 2 ^ e ≤ g → g < 1024 → lane v g = 0#32) ∧
      (∀ q, q < 64 → (bitAt pz q = true ↔ ∃ g, g < 1024 / 2 ^ e ∧ g / 16 = q ∧ segPoisoned i t (2 ^ e) g)) ∧
      exec (op i) s = .next (((s.turn i).putTask i { t.setVreg (vdOf i) v pz with
        flags := t.flags ||| (List.range (1024 / 2 ^ e)).foldl
          (fun a g => a ||| (f i (segmentsOf (2 ^ e) (t.vreg (vaOf i)) g)).2) 0#16 }).retire i false)

/-- Wherever a segmented instruction executes with L a power of two, lane j of segment k of VD holds element j of `f` of segment k of VA, and
a segment with a poisoned lane, or under a poisoned scalar that it uses, is poisoned (R153, R166, R167). -/
def WritesSegments (op : Issue → Instr) (sp : OpSpec) (useS : Issue → Bool)
    (f : Issue → Word32 → List Word32 → Flagged (List Word32)) : Prop :=
  ∀ i s t e, Executes sp i s t → e ≤ 10 → segLenOf i = 2 ^ e →
    let sc := (t.reg (wordField i 20 6)).setWidth 32
    let out (k : Nat) := f i sc (segmentsOf (2 ^ e) (t.vreg (vaOf i)) k)
    ∃ (v : BitVec 32768) (pz : Nat),
      (∀ k j, k < 1024 / 2 ^ e → j < 2 ^ e → lane v (k * 2 ^ e + j) = (out k).1.getD j 0#32) ∧
      (∀ q, q < 64 → (bitAt pz q = true ↔ ∃ k, k < 1024 / 2 ^ e ∧ k * 2 ^ e < 16 * q + 16 ∧ 16 * q < k * 2 ^ e + 2 ^ e ∧
        (segPoisoned i t (2 ^ e) k ∨ (useS i = true ∧ t.regPoison (wordField i 20 6) = true)))) ∧
      exec (op i) s = .next (((s.turn i).putTask i { t.setVreg (vdOf i) v pz with
        flags := t.flags ||| (List.range (1024 / 2 ^ e)).foldl (fun a k => a ||| (out k).2) 0#16 }).retire i false)

/-- The words of the other vector instructions (R162 to R168). -/
def vldSpec : OpSpec := ⟨0x4B, false, fun w _ => onlyFields ([(42, 5), (27, 5), (16, 4)] ++ qFields w) w, fun w _ => funcOf w < 2⟩
def vstSpec : OpSpec := ⟨0x4C, false, fun w _ => onlyFields ([(47, 3), (37, 5), (27, 5), (16, 4)] ++ qFields w) w,
  fun w _ => rndOk w && funcOf w < 4⟩
def vrngSpec : OpSpec := ⟨0x4D, false, fun w _ => onlyFields [(42, 5), (20, 6), (16, 4)] w, fun w _ => funcOf w < 2⟩
def vnormSpec : OpSpec := ⟨0x53, false, fun w _ => onlyFields [(42, 5), (37, 5), (20, 6), (16, 4), (0, 16)] w, fun w _ => funcOf w < 2⟩
def vsoftmaxSpec : OpSpec := ⟨0x54, false, fun w _ =>
  onlyFields ([(42, 5), (37, 5), (16, 4), (0, 16)] ++ if bitAt w 16 then [(20, 6)] else []) w, fun w _ => funcOf w < 2⟩
def vaccRdSpec : OpSpec := ⟨0x55, false, fun w _ => onlyFields [(42, 5), (16, 4), (0, 11)] w, fun w _ => funcOf w == 0⟩
def vaccWrSpec : OpSpec := ⟨0x56, false, fun w _ => onlyFields [(37, 5), (16, 4), (0, 11)] w, fun w _ => funcOf w == 0⟩

/-- Address of accumulator tile `k` of a task's window, as memory is keyed (R85, R152). -/
def accBase (i : Issue) (t : Task) (k : Nat) : Nat := accKey i.core (t.accFirst + k)

end Sys2Proof.Machine

open Sys2Proof Sys2Proof.Machine

/-! ## Form S (R183) -/

/-- R183, R143: ADD to XOR, the shifts, MIN and MAX write s[DST] modulo 2^64, with the poison of their inputs, and retire.
R183, R137, R143: MOV and LDI write s[DST]; the compares and the predicate logic write p[DST], where p0 keeps its 1; NOP does
nothing. -/
def Obligations.RegisterAndPredicateResults : Prop :=
  RetiresWith .add (aluSpec 0x02) (aluResult fun a b => a + b) ∧
  RetiresWith .sub (aluSpec 0x03) (aluResult fun a b => a - b) ∧
  RetiresWith .mul (aluSpec 0x04) (aluResult fun a b => a * b) ∧
  RetiresWith .and (aluSpec 0x05) (aluResult fun a b => a &&& b) ∧
  RetiresWith .or (aluSpec 0x06) (aluResult fun a b => a ||| b) ∧
  RetiresWith .xor (aluSpec 0x07) (aluResult fun a b => a ^^^ b) ∧
  RetiresWith .shl (aluSpec 0x08) (aluResult fun a b => a <<< (b.toNat % 64)) ∧
  RetiresWith .shr (aluSpec 0x09) (aluResult fun a b => a >>> (b.toNat % 64)) ∧
  RetiresWith .sra (aluSpec 0x0A) (aluResult fun a b => a.sshiftRight (b.toNat % 64)) ∧
  RetiresWith .min (aluSpec 0x0B) (aluResult fun a b => if a.sle b then a else b) ∧
  RetiresWith .max (aluSpec 0x0C) (aluResult fun a b => if a.sle b then b else a) ∧
  RetiresWith .nop ⟨0x01, false, rsvdNone, enumAny⟩ (fun _ t => t) ∧
  RetiresWith .mov ⟨0x0D, false, fun w _ => onlyFields [(42, 6), (36, 6)] w, enumAny⟩
    (fun i t => t.setReg (dstOf i) (t.reg (srcAOf i)) (t.regPoison (srcAOf i))) ∧
  RetiresWith .ldi ⟨0x0E, true, fun w _ => onlyFields [(42, 6)] w, enumAny⟩ (fun i t => t.setReg (dstOf i) i.ext false) ∧
  RetiresWith .cmpEq (cmpSpec 0x10) (compareResult fun a b => a == b) ∧
  RetiresWith .cmpLt (cmpSpec 0x11) (compareResult fun a b => a.slt b) ∧
  RetiresWith .cmpLtu (cmpSpec 0x12) (compareResult fun a b => a.ult b) ∧
  RetiresWith .pand (predSpec 0x13) (logicResult fun a b => a && b) ∧
  RetiresWith .por (predSpec 0x14) (logicResult fun a b => a || b) ∧
  RetiresWith .pxor (predSpec 0x15) (logicResult fun a b => a ^^ b) ∧
  (∀ (t : Task) (v pz : Bool), t.setPred 0 v pz = t ∧ t.pred 0 = true)

/-- R183, R8: LD.S reads eight little-endian bytes of T0 or T1 at s[SRCA] + IMM36 into s[DST], with the poison of their sector;
ST.S writes s[DST] there as eight bytes. The address of a store is the one that the statement computes. -/
def Obligations.ScalarLoadAndStore : Prop :=
  (∀ i s t, Executes (ldSpec 0x18) i s t → Readable i s t 8 →
    exec (.ldS i) s = .next (((s.turn i).putTask i (t.setReg (dstOf i)
      (BitVec.ofNat 64 (ofLe (s.mem.bytes (s.key t.ctx (memAddr i t)) 8)))
      (s.mem.anyPoison (s.key t.ctx (memAddr i t)) 8))).retire i false)) ∧
  (∀ i s t, Executes (ldSpec 0x19) i s t → Writable i s t 8 →
    ∃ u, exec (.stS i) s = .next u ∧
      u.mem.bytes (s.key t.ctx (memAddr i t)) 8 = leBytes 8 (t.reg (dstOf i)).toNat ∧
      (∀ a, a < s.key t.ctx (memAddr i t) ∨ s.key t.ctx (memAddr i t) + 8 ≤ a → u.mem.byte a = s.mem.byte a) ∧
      { u with mem := s.mem } = (s.turn i).retire i false)

/-- R183: BR with IMMF 1 jumps to (PC + 8 × IMM36) mod 2^44; with IMMF 0 to s[SRCB][43:0], unless that register is poisoned.
R144, R147: with no older instruction of the task unretired, FLAGS.RD writes FLAGS into sd[15:0] and zero above, FLAGS.CLR clears
the named flags, and HALT ends the task HALTED with STOP_CAUSE 6. -/
def Obligations.BranchesFlagsAndHalt : Prop :=
  (∀ i s t, Executes brSpec i s t → immForm i = true →
    exec (.br i) s = .next (branched i s t (t.pc + 8#44 * (i.body.setWidth 36).signExtend 44))) ∧
  (∀ i s t, Executes brSpec i s t → immForm i = false → t.regPoison (srcBOf i) = false →
    exec (.br i) s = .next (branched i s t ((t.reg (srcBOf i)).setWidth 44))) ∧
  (∀ i s t, Executes ⟨0x1A, false, fun w _ => onlyFields [(42, 6)] w, enumAny⟩ i s t → s.older i.core i.slot = false →
    exec (.flagsRd i) s = .next (((s.turn i).putTask i (t.setReg (dstOf i) (t.flags.setWidth 64) false)).retire i false)) ∧
  (∀ i s t, Executes ⟨0x1B, false, fun w _ => onlyFields [(49, 1), (0, 6)] w, fun w _ => bitAt w 49⟩ i s t →
    s.older i.core i.slot = false →
    exec (.flagsClr i) s = .next (((s.turn i).putTask i
      { t with flags := t.flags &&& ~~~ ((i.body.setWidth 6).setWidth 16) }).retire i false)) ∧
  (∀ i s t, Executes ⟨0x17, false, rsvdNone, enumAny⟩ i s t → s.older i.core i.slot = false →
    ∃ u v, exec (.halt i) s = .next u ∧ u.task? i.core i.slot = some v ∧ v.state = .halted ∧ v.stopCause = 6 ∧
      v.s = t.s ∧ v.p = t.p ∧ v.t = t.t ∧ v.v = t.v ∧ v.h = t.h ∧ v.flags = t.flags ∧ u.mem = s.mem)

/-- R183, R252: the descriptor instructions move, build, read or advance a descriptor whatever it holds. TD.LD and TD.SET of a descriptor
that begins no staging, TD.GET and TD.ADV change their register alone; TD.ST stores the 64 bytes at the address that the statement
computes. -/
def Obligations.DescriptorInstructions : Prop :=
  (∀ i s t, Executes tdLdSpec i s t → Readable i s t 64 →
    noAhead (ofLe (s.mem.bytes (s.key t.ctx (memAddr i t)) 64)) →
    exec (.tdLd i) s = .next (((s.turn i).putTask i (t.setDesc (dstOf i)
      (ofLe (s.mem.bytes (s.key t.ctx (memAddr i t)) 64))
      (s.mem.anyPoison (s.key t.ctx (memAddr i t)) 64))).retire i false)) ∧
  (∀ i s t, Executes tdStSpec i s t → Writable i s t 64 →
    ∃ u, exec (.tdSt i) s = .next u ∧
      u.mem.bytes (s.key t.ctx (memAddr i t)) 64 = leBytes 64 (t.desc (dstOf i)) ∧
      (∀ a, a < s.key t.ctx (memAddr i t) ∨ s.key t.ctx (memAddr i t) + 64 ≤ a → u.mem.byte a = s.mem.byte a) ∧
      { u with mem := s.mem } = (s.turn i).retire i false) ∧
  (∀ i s t lo w, Executes tdSetSpec i s t → descSelector (wordField i 0 8) = some (lo, w) →
    noAhead (setField (t.desc (dstOf i)) lo w (t.reg (srcAOf i)).toNat) →
    exec (.tdSet i) s = .next (((s.turn i).putTask i (t.setDesc (dstOf i)
      (setField (t.desc (dstOf i)) lo w (t.reg (srcAOf i)).toNat)
      (t.descPoison (dstOf i) || t.regPoison (srcAOf i)))).retire i false)) ∧
  (∀ i s t lo w, Executes tdGetSpec i s t → descSelector (wordField i 0 8) = some (lo, w) →
    exec (.tdGet i) s = .next (((s.turn i).putTask i (t.setReg (dstOf i)
      (BitVec.ofNat 64 (field (t.desc (srcAOf i)) lo w)) (t.descPoison (srcAOf i)))).retire i false)) ∧
  (∀ i s t, Executes tdAdvSpec i s t →
    exec (.tdAdv i) s = .next (((s.turn i).putTask i (t.setDesc (dstOf i)
      (setField (t.desc (dstOf i)) 0 44
        ((BitVec.ofNat 44 (t.desc (dstOf i))) + 4096#44 * (i.body.setWidth 36).signExtend 44).toNat)
      (t.descPoison (dstOf i)))).retire i false)) ∧
  (∀ n, n < 9 → (descSelector n).isSome = true) ∧ (∀ n, 9 ≤ n → descSelector n = none)

/-- R159, R153, R47: the element-wise instructions compute each of the 1,024 lanes of VD from the same lanes of VA, operand b and VC, with
the poison of the same sectors, and raise the flags of every lane. -/
def Obligations.ElementwiseVectorResults : Prop :=
  WritesLanes .vadd (laneSpec 0x40 1 satInt [0, 1, 2, 3]) (sectorsAB 1) (arithResult f32Add (· + ·)) ∧
  WritesLanes .vsub (laneSpec 0x41 1 satInt [0, 1, 2, 3]) (sectorsAB 1) (arithResult f32Sub (· - ·)) ∧
  WritesLanes .vmul (laneSpec 0x42 1 satInt [0, 1, 2, 3]) (sectorsAB 1) (arithResult f32Mul (· * ·)) ∧
  WritesLanes .vfma (laneSpec 0x43 1 vcField [0, 2]) (fun i t => sectorsAB 1 i t ||| t.vregPoison (vcOf i))
    (fun i t l => f32Fma (lane (t.vreg (vaOf i)) l) (laneB i t false 1 l) (lane (t.vreg (vcOf i)) l)) ∧
  WritesLanes .vdiv (laneSpec 0x44 1 noExtra [0, 2]) (sectorsAB 1)
    (fun i t l => f32Div (lane (t.vreg (vaOf i)) l) (laneB i t false 1 l)) ∧
  WritesLanes .vmin (laneSpec 0x45 1 noExtra [0, 1, 2, 3]) (sectorsAB 1) (pickResult false) ∧
  WritesLanes .vmax (laneSpec 0x46 1 noExtra [0, 1, 2, 3]) (sectorsAB 1) (pickResult true) ∧
  WritesLanes .vsqrt (unarySpec 0x47 [0]) (fun i t => t.vregPoison (vaOf i)) (fun i t l => f32Sqrt (lane (t.vreg (vaOf i)) l)) ∧
  WritesLanes .vfunc (unarySpec 0x48 [0, 1, 2, 3, 4, 5, 6, 7, 8, 9, 10]) (fun i t => t.vregPoison (vaOf i))
    (fun i t l => vfuncOf (wordField i 16 4) (lane (t.vreg (vaOf i)) l)) ∧
  WritesLanes .vcmp (laneSpec 0x49 3 noExtra (List.range 16)) (sectorsAB 3)
    (fun i t l => (if vcmpHolds (wordField i 16 2) (vfuncBit i 2) (lane (t.vreg (vaOf i)) l) (laneB i t (vfuncBit i 2) 3 l)
      then 0xFFFFFFFF#32 else 0#32, 0#16)) ∧
  WritesLanes .vsel (laneSpec 0x4A 4 vcField [0]) (fun i t => sectorsAB 4 i t ||| t.vregPoison (vcOf i))
    (fun i t l => (if lane (t.vreg (vcOf i)) l = 0#32 then laneB i t false 4 l else lane (t.vreg (vaOf i)) l, 0#16))

/-- R165, R166, R167, R164: the reductions, VNORM and VSOFTMAX work segment by segment; VRED.SUM is the canonical tree over FP32 lanes, and
wraps or clamps the exact sum once over INT32 lanes; an L that is not a power of two up to 1,024 raises BAD_SHAPE.
R162, R163, R168: VLD fills VD with the elements of its group and zero past the extent; VST converts and writes those of its lanes that
lie in the extent; VRNG fills VD with draws; VACC.RD and VACC.WR copy an accumulator tile of the task's window lane for lane. -/
def Obligations.SegmentedVectorsAndTransfers : Prop :=
  WritesReductions .vredSum (redSpec 0x50)
    (fun i l => if vfuncBit i 0 then intLane i (l.foldl (fun a w => a + w.toInt) 0) else f32Tree l) ∧
  WritesReductions .vredMax (redSpec 0x51)
    (fun i l => if vfuncBit i 0 then (l.tail.foldl (fun a b => if a.slt b then b else a) (l.headD 0#32), 0#16)
      else (f32Extreme true l, 0#16)) ∧
  WritesReductions .vredMin (redSpec 0x52)
    (fun i l => if vfuncBit i 0 then (l.tail.foldl (fun a b => if b.slt a then b else a) (l.headD 0#32), 0#16)
      else (f32Extreme false l, 0#16)) ∧
  WritesSegments .vnorm vnormSpec (fun _ => true) (fun i eps l => normSegment (vfuncBit i 0) eps l) ∧
  WritesSegments .vsoftmax vsoftmaxSpec (fun i => vfuncBit i 0) (fun i c l => softSegment (if vfuncBit i 0 then some c else none) l) ∧
  (∀ i s t, Executes (redSpec 0x50) i s t → (∀ e, e ≤ 10 → segLenOf i ≠ 2 ^ e) →
    exec (.vredSum i) s = .next (((s.turn i).noteIssue i.core i.slot).taskFault i.core i.slot 8 (issueBits i 0x50) i.ext.toNat)) ∧
  (∀ i s t, Executes vldSpec i s t → vldCheck (cxOf i 0x4B t) (s.turn i) = .ok () → ((cxOf i 0x4B t).opnd (vcOf i)).stage = [] →
    ∃ v pz, (∀ l, l < 1024 → lane v l = ((cxOf i 0x4B t).vldLane s l).1) ∧
      (∀ q, q < 64 → (bitAt pz q = true ↔ ∃ l, l < 1024 ∧ l / 16 = q ∧ ((cxOf i 0x4B t).vldLane s l).2 = true)) ∧
      exec (.vld i) s = .next (((s.turn i).putTask i (t.setVreg (vdOf i) v pz)).retire i false)) ∧
  RetiresAs .vst vstSpec vstCheck (fun x s _ =>
    x.putFlags (s.putGroup x (x.opnd x.vc) 1025 ((x.vstElems s).map (·.1))) ((x.vstElems s).foldl (fun f p => f ||| p.2) 0#16)) ∧
  (∀ i s t, Executes vrngSpec i s t → t.regPoison (wordField i 20 6) = false →
    ∃ v, (∀ l, l < 1024 → lane v l =
        let u := srDraw (BitVec.ofNat 64 (s.get64 (Reg.ctxSeed t.ctx))) t.leaf (((t.reg (wordField i 20 6)).toNat + l) % 2 ^ 48)
        if vfuncBit i 0 then BitVec.ofNat 32 u else (f32Round (.num false u (-24))).1) ∧
      exec (.vrng i) s = .next (((s.turn i).putTask i (t.setVreg (vdOf i) v 0)).retire i false)) ∧
  (∀ i s t, Executes vaccRdSpec i s t → wordField i 0 11 < t.accCount →
    ∃ v pz, (∀ l, l < 1024 → lane v l = BitVec.ofNat 32 (ofLe (s.mem.bytes (accBase i t (wordField i 0 11) + 4 * l) 4))) ∧
      (∀ q, q < 64 → bitAt pz q = s.mem.poisoned (accBase i t (wordField i 0 11) / 64 + q)) ∧
      exec (.vaccRd i) s = .next (((s.turn i).putTask i (t.setVreg (vdOf i) v pz)).retire i false)) ∧
  (∀ i s t, Executes vaccWrSpec i s t → wordField i 0 11 < t.accCount →
    ∃ u, exec (.vaccWr i) s = .next u ∧
      (∀ l, l < 1024 → BitVec.ofNat 32 (ofLe (u.mem.bytes (accBase i t (wordField i 0 11) + 4 * l) 4)) = lane (t.vreg (vaOf i)) l) ∧
      (∀ q, q < 64 → u.mem.poisoned (accBase i t (wordField i 0 11) / 64 + q) = bitAt (t.vregPoison (vaOf i)) q) ∧
      (∀ a, a < accBase i t (wordField i 0 11) ∨ accBase i t (wordField i 0 11) + 4096 ≤ a → u.mem.byte a = s.mem.byte a) ∧
      { u with mem := s.mem } = (s.turn i).retire i false)

namespace Sys2Proof.Machine

/-- The words of the matrix and conversion instructions (R154, R157, R169, R170). -/
def mmaSpec : OpSpec := ⟨0x30, false, fun w _ => rsvdMma w, fun w _ => enumMma w⟩
def mmaCsrSpec : OpSpec := ⟨0x31, true, fun w e => rsvdMma w && field e 0 54 == 0, fun w _ => enumMma w⟩
def accOutSpec : OpSpec := ⟨0x65, false, fun w _ => field w 32 10 == 0 && field w 24 4 == 0 && field w 0 9 == 0,
  fun w _ => rndOk w && fmtOk (field w 28 4) && fmtOk (field w 20 4)⟩
def cvtSpec : OpSpec := ⟨0x60, false, fun w _ => field w 32 5 == 0 && field w 24 4 == 0 && field w 0 20 == 0,
  fun w _ => rndOk w && fmtOk (field w 28 4) && fmtOk (field w 20 4)⟩

/-- A source operand that the instruction reads in place: a valid memory descriptor of the format that its field names, its register not
poisoned, every tile and side byte mapped and in T0 or T1 (R33, R136, R139, R143, R243, R255). -/
structure MemSource (x : Cx) (s : State) (r code : Nat) : Prop where
  valid : (x.opnd r).d.valid = true
  memory : (x.opnd r).d.stream = false
  format : (x.opnd r).d.fmt = code
  mapped : (x.opnd r).mapped s x.c = true
  upper : (x.opnd r).stage = []
  clean : x.t.descPoison r = false

/-- A destination operand in memory: a valid memory descriptor of the format that its field names, its register not poisoned, every tile
and side byte mapped, in T0 or T1 and outside the code region (R33, R136, R139, R143, R243, R244). -/
structure MemDest (x : Cx) (s : State) (r code : Nat) : Prop where
  valid : (x.opnd r).d.valid = true
  memory : (x.opnd r).d.stream = false
  format : (x.opnd r).d.fmt = code
  mapped : (x.opnd r).mapped s x.c = true
  writable : (x.opnd r).writable s x.c = true
  clean : x.t.descPoison r = false

/-- The words of the resumable instructions (R158, R171, R172, R176, R182). -/
def spvalidSpec : OpSpec := ⟨0x32, true, fun w e => onlyFields [(42, 5), (37, 5), (28, 4)] w && rsvdTen e true,
  fun w _ => fmtOk (field w 28 4)⟩
def tcopySpec : OpSpec := ⟨0x61, false, fun w _ => onlyFields [(42, 5), (37, 5), (28, 4), (20, 4)] w,
  fun w _ => fmtOk (field w 28 4) && fmtOk (field w 20 4)⟩
def tfillSpec : OpSpec := ⟨0x62, false, fun w _ => onlyFields [(42, 5), (20, 4), (0, 6)] w, fun w _ => fmtOk (field w 20 4)⟩
def gatherSpec : OpSpec := ⟨0x63, true, fun w e => field w 6 14 == 0 && rsvdTen e true,
  fun w _ => rndOk w && fmtOk (field w 28 4) && fmtOk (field w 24 4) && fmtOk (field w 20 4)⟩
def scatterSpec : OpSpec := ⟨0x64, true,
  fun w e => onlyFields [(42, 5), (37, 5), (32, 5), (28, 4), (24, 4), (20, 4)] w && rsvdTen e false,
  fun w _ => fmtOk (field w 28 4) && fmtOk (field w 24 4) && fmtOk (field w 20 4)⟩

/-- The checks of TCOPY with the limit of R256. -/
def tcopyWhole (x : Cx) (s : State) : Chk Units := do
  let us ← tcopyCheck x s
  need ((List.range us.n).all fun u => s.stageFits x.c (us.stage u)) badShape
  .ok us

/-- Wherever a resumable instruction executes, its checks pass and its first unit is ready and runs, that unit's effect is the state that
follows, the instruction is counted as issued, and it retires with its last unit (R173, R174, R217). `counts`: at unit 0 it sets
s[SREG2] to 0. -/
def StartsUnits (op : Issue → Instr) (sp : OpSpec) (check : Cx → State → Chk Units) (regs : Cx → List Nat) (own : Cx → Chk Unit)
    (counts : Bool) (band : GatherBand) : Prop :=
  ∀ i s t us r, Executes sp i s t →
    let x := cxOf i sp.op t
    unitsCheck check regs own x (s.turn i) = .ok us →
    let u := x.firstUnit us
    let s1 := if counts && u == 0 then x.putS (s.turn i) x.sreg2 0 false else s.turn i
    unitReady x us s1 u = .ok () → us.kind.unit x s1 (x.unitLinks us) u band = .ok r →
    poisonLeaves (s.turn i) (.stay (unitEnd x us u r)) = false →
    exec (op i) s = .next ((unitEnd x us u r).noteIssue i.core i.slot)

end Sys2Proof.Machine

/-- R154, R155, R157, R169, R170: MMA, MMA.CSR, ACC.OUT and CVT retire with the results of their rules wherever their checks pass and their
operands are ready; with operands in memory, that is wherever the descriptors are valid, the formats and extents fit and the accumulator
tiles lie in the task's window. Each element of an MMA's result is the accumulator input and the blocks of its row of A and row of B, summed
in the order of R38 to R41. -/
def Obligations.MatrixAndConversionResults : Prop :=
  RetiresAs .mma mmaSpec mmaCheck mmaRun ∧
  RetiresAs .mmaCsr mmaCsrSpec mmaCsrCheck mmaCsrRun ∧
  RetiresAs .accOut accOutSpec accOutCheck accOutRun ∧
  RetiresAs .cvt cvtSpec cvtCheck cvtRun ∧
  (∀ i s t, Executes mmaSpec i s t →
    let x := cxOf i 0x30 t
    let a := x.opnd x.ta
    let b := x.opnd x.tb
    let d := x.opnd x.td
    MemSource x s x.ta x.afmt → MemSource x s x.tb x.bfmt → (x.mmaOut = true → MemDest x s x.td x.dfmt) →
    x.mmaFormats a b = true → a.d.rows ≤ 256 → b.d.rows ≤ 256 → a.d.cols ≤ 8192 → a.d.cols = b.d.cols →
    (x.mmaOut = true → d.d.rows = a.d.rows ∧ d.d.cols = b.d.rows) → x.mmaAccOk a.d.rows b.d.rows = true →
    exec (.mma i) s = .next ((mmaRun x (s.turn i) []).retire i false)) ∧
  (∀ i s t, Executes mmaCsrSpec i s t →
    let x := cxOf i 0x31 t
    let a := x.opnd x.ta
    let b := x.opnd x.tb
    let d := x.opnd x.td
    let ci := x.opnd x.te
    let pt := x.opnd x.tf
    MemSource x s x.ta x.afmt → MemSource x s x.tb x.bfmt → MemSource x s x.te ci.d.fmt → MemSource x s x.tf pt.d.fmt →
    (x.mmaOut = true → MemDest x s x.td x.dfmt) →
    csrValueOk a = true → ci.f = .int32 → pt.f = .int32 → x.mmaFormats a b = true → csrShapeOk a ci pt = true →
    b.d.rows ≤ 256 → b.d.cols ≤ 8192 → (x.mmaOut = true → d.d.rows = pt.elems - 2 ∧ d.d.cols = b.d.rows) →
    x.mmaAccOk (pt.elems - 2) b.d.rows = true →
    exec (.mmaCsr i) s = .next ((mmaCsrRun x (s.turn i) []).retire i true)) ∧
  (∀ i s t, Executes accOutSpec i s t →
    let x := cxOf i 0x65 t
    let d := x.opnd x.td
    MemDest x s x.td x.dfmt → (x.afmt = 1 ∨ x.afmt = 11) → emitFormatOk x d.f = true → d.d.rows ≤ 256 → d.d.cols ≤ 256 →
    x.acc + accTiles d.d.rows d.d.cols ≤ t.accCount →
    exec (.accOut i) s = .next ((accOutRun x (s.turn i) []).retire i false)) ∧
  (∀ i s t, Executes cvtSpec i s t →
    let x := cxOf i 0x60 t
    let a := x.opnd x.ta
    let d := x.opnd x.td
    MemSource x s x.ta x.afmt → MemDest x s x.td x.dfmt → convKind a.f d.f ≠ .illegal → (x.rnd ≠ 1 ∨ d.f.srTarget = true) →
    a.d.rows = d.d.rows → a.d.cols = d.d.cols → d.count ≤ 256 → mxColsOk d = true →
    exec (.cvt i) s = .next ((cvtRun x (s.turn i) []).retire i false)) ∧
  (∀ (fa fb : Fmt) (c : Nat → Nat → Word32 × Bool) (as : List ARow) (bs : List (List Elem)) (i j : Nat) (a : ARow) (b : List Elem),
    as[i]? = some a → bs[j]? = some b →
    ∃ row e, (mmaRows fa fb false c as bs).1[i]? = some row ∧ row[j]? = some e ∧
      e.code = (mmaFloat (blockK fa fb) (c i j).1 a b).1.toNat ∧
      e.poison = (a.poison || b.any (·.poison) || (c i j).2)) ∧
  (∀ (fa fb : Fmt) (c : Nat → Nat → Word32 × Bool) (as : List ARow) (bs : List (List Elem)) (i j : Nat) (a : ARow) (b : List Elem),
    as[i]? = some a → bs[j]? = some b →
    ∃ row e, (mmaRows fa fb true c as bs).1[i]? = some row ∧ row[j]? = some e ∧ e.code = (mmaInt fa fb (c i j).1 a b).1.toNat)

/-- R158, R171, R172, R173, R174, R176, R182: SPVALID, TCOPY, TFILL, GATHER.DL and SCATTER run their first unit, and a unit that follows
issues as an instruction of its own.
R173, R174: when a unit retires with units left, PROGRESS of the destination descriptor holds OP and the number of completed units, and
the PC stays; when the last one retires PROGRESS is 0, the instruction is over and the PC passes it. -/
def Obligations.ResumableInstructionsRunUnits : Prop :=
  StartsUnits .spvalid spvalidSpec spvalidCheck (fun x => [x.td, x.ta, x.te, x.tf]) noOwn true [] ∧
  StartsUnits .tcopy tcopySpec tcopyWhole (fun x => [x.td, x.ta]) noOwn false [] ∧
  StartsUnits .tfill tfillSpec tfillCheck (fun x => [x.td]) noOwn false [] ∧
  (∀ band, StartsUnits (.gatherDl · band) gatherSpec gatherCheck (fun x => [x.td, x.ta, x.tb, x.te, x.tf]) deadlinePoison true band) ∧
  StartsUnits .scatter scatterSpec scatterCheck (fun x => [x.td, x.ta, x.tb]) noOwn true [] ∧
  (∀ (core : CoreId) (slot : SlotId) band s t r us e, s.task? core slot = some t → t.run = some r → s.hasTurn core slot = true →
    let x : Cx := ⟨core, slot, t.ctx, r.word.toNat, r.ext.toNat, t⟩
    unitsOf x = some us → unitReady x us (s.dropFirst core slot) r.done = .ok () →
    us.kind.unit x (s.dropFirst core slot) (x.unitLinks us) r.done band = .ok e →
    poisonLeaves (s.dropFirst core slot) (.stay (unitEnd x us r.done e)) = false →
    exec (.resumableUnit core slot band) s = .next ((unitEnd x us r.done e).noteIssue core slot)) ∧
  (∀ (s : State) core slot t r, s.task? core slot = some t → t.run = some r → r.done + 1 < r.units → r.units ≤ 2 ^ 24 →
    ∃ v, (s.unitDone core slot).task? core slot = some v ∧ v.pc = t.pc ∧ v.retired = t.retired ∧
      v.run = some { r with done := r.done + 1, sending := none } ∧
      (Desc.of (v.desc (field r.word.toNat 42 5))).progress = field r.word.toNat 56 8 * 2 ^ 24 + (r.done + 1)) ∧
  (∀ (s : State) core slot t r, s.task? core slot = some t → t.run = some r → r.units ≤ r.done + 1 →
    ∃ v, (s.unitDone core slot).task? core slot = some v ∧ v.run = none ∧ v.retired = t.retired + 1 ∧
      v.pc = t.pc + (if wordExt r.word.toNat then 16#44 else 8#44) ∧
      (Desc.of (v.desc (field r.word.toNat 42 5))).progress = 0)

namespace Sys2Proof.Machine

/-- IMM24, the count of tiles of a form Q word (R184). -/
def countOf (i : Issue) : Nat := wordField i 0 24

/-- The words of the stream and buffer instructions (R184, R190 to R201). -/
def streamSendSpec : OpSpec := specQ 0x70 [qHnd, qSa, qImm] (· == 0)
def streamRecvSpec : OpSpec := specQ 0x71 [qHnd, qSd, qImm] (· == 0)
def latchWaitSpec : OpSpec := specQ 0x72 [qHnd, qImm] (· < 2)
def latchSigSpec : OpSpec := specQ 0x73 [qHnd, qImm] (· < 2)
def bufAllocSpec : OpSpec := specQ 0x74 [qSd] (· < 2)
def bufFreeSpec : OpSpec := specQ 0x75 [qSa] (· == 0)
def streamInjSpec : OpSpec := specQ 0x76 [qHnd, qSa, qImm] (· < 2)

/-- The stream-handle register of a form Q word names an endpoint in use of the task's, in the given direction (R142, R187, R222). -/
def namesEndpoint (i : Issue) (op : Nat) (s : State) (t : Task) (out : Bool) (k : Nat) : Prop :=
  s.needEndpoint (cxOf i op t) (wordField i 46 4) out = .ok k

/-- The count of a form Q word lies from 1 to 64 (R184). -/
def countFits (i : Issue) : Prop := 1 ≤ countOf i ∧ countOf i ≤ 64

end Sys2Proof.Machine

/-- R190, R197, R327: STREAM.SEND and STREAM.INJ retire with their tiles sent wherever the checks pass and FREE, and for STREAM.INJ the credit
of the merge node's side, allows. -/
def Obligations.StreamSends : Prop :=
  RetiresAs .streamSend streamSendSpec
    (fun x s => x.sendCheck s false (fun _ => true) fun e n => .latch e true n) (fun x s k => x.sendRun s false k) ∧
  RetiresAs .streamInj streamInjSpec
    (fun x s => x.sendCheck s true s.sideReady .inject) (fun x s k => x.sendRun s (x.qfunc == 1) k) ∧
  (∀ (s : State) k n int32 ts d (e : Endpoint), s.ep? k = some e → e.node = none → e.route = [[0]] → e.peers = [.here d] →
    s.coreReach (k / 256) (d / 256) = true → n = s.epGrain k → ts.length = n →
    ∃ e', (s.send k int32 ts).ep? k = some e' ∧ e'.carried = e.carried + n ∧ e'.used = [e.used.getD 0 0 + n] ∧
      (s.send k int32 ts).cores.groups = s.cores.groups ++
        [⟨some k, s.get (Fld.strCfgContext k), .ring d, k / 256, s.partAt (k / 256), s.netCopy, false, n, e.layer, int32,
          some (joinTiles ts).1, (joinTiles ts).2⟩])

/-- R192, R193, R194: STREAM.RECV takes one group of FILLED tiles and writes the address of its first buffer; LATCH.WAIT retires once the
counter that it names is high enough; LATCH.SIG releases taken tiles, or announces tiles written by stores.
R93, R194: an instruction whose stream counter is too low makes its task wait, and the yield is counted; a release of more tiles than
TAKEN is LATCH_OVERRUN, which faults the context. -/
def Obligations.StreamReceivesSignalsAndWaits : Prop :=
  (∀ i s t k, Executes streamRecvSpec i s t → countFits i → namesEndpoint i 0x71 s t false k → countOf i = s.epGrain k →
    s.mapped t.ctx (s.ringAddr t.ctx k (s.epD k).head) (4096 * countOf i) = true → countOf i ≤ (s.epD k).filled →
    exec (.streamRecv i) s = .next ((((s.turn i).takeTiles k (countOf i)).putTask i
      (t.setReg (wordField i 28 6) (BitVec.ofNat 64 (s.ringAddr t.ctx k (s.epD k).head)) false)).retire i false)) ∧
  (∀ (s : State) k n e, s.ep? k = some e → ∃ e', (s.takeTiles k n).ep? k = some e' ∧ e'.filled = e.filled - n ∧
    e'.taken = e.taken + n ∧ e'.head = (e.head + n) % s.epRing k) ∧
  (∀ i s t k, Executes latchWaitSpec i s t → countFits i → namesEndpoint i 0x72 s t (wordField i 24 4 == 1) k →
    countOf i ≤ (if wordField i 24 4 = 1 then s.linkB k else s.ringB k) →
    countOf i ≤ (if wordField i 24 4 = 1 then s.free k else (s.epD k).filled) →
    exec (.latchWait i) s = .next ((s.turn i).retire i false)) ∧
  (∀ i s t k, Executes latchSigSpec i s t → wordField i 24 4 = 1 → countFits i → namesEndpoint i 0x73 s t false k →
    s.older i.core i.slot = false → countOf i ≤ (s.epD k).taken →
    exec (.latchSig i) s = .next (((s.turn i).release k (countOf i)).retire i false)) ∧
  (∀ i s t k, Executes latchSigSpec i s t → wordField i 24 4 = 0 → countFits i → namesEndpoint i 0x73 s t true k → s.notInj k = true →
    countOf i % s.epGrain k = 0 → s.older i.core i.slot = false → s.room k (countOf i) = true →
    poisonLeaves (s.turn i) (.retire ((s.turn i).sendGroups k (countOf i) false none)) = false →
    exec (.latchSig i) s = .next (((s.turn i).sendGroups k (countOf i) false none).retire i false)) ∧
  (∀ (s : State) k n e, s.ep? k = some e → e.fwd = none → 0 < n →
    ∃ e', (s.release k n).ep? k = some e' ∧ e'.taken = e.taken - n ∧ e'.filled = e.filled ∧
      (s.release k n).cores.credits = s.cores.credits ++
        (s.modEp k fun e => { e with taken := e.taken - n }).creditsFor k (e.carried - (e.part + e.filled + e.taken)) n) ∧
  (∀ i s t k, Executes streamRecvSpec i s t → countFits i → namesEndpoint i 0x71 s t false k → countOf i = s.epGrain k →
    s.mapped t.ctx (s.ringAddr t.ctx k (s.epD k).head) (4096 * countOf i) = true → (s.epD k).filled < countOf i →
    exec (.streamRecv i) s = .next ((s.turn i).taskWait i.core i.slot (.latch (k % 256) false (countOf i)))) ∧
  (∀ i s t k, Executes latchWaitSpec i s t → wordField i 24 4 = 0 → countFits i → namesEndpoint i 0x72 s t false k →
    countOf i ≤ s.ringB k → (s.epD k).filled < countOf i →
    exec (.latchWait i) s = .next ((s.turn i).taskWait i.core i.slot (.latch (k % 256) false (countOf i)))) ∧
  (∀ (s : State) core slot t ep free n, s.task? core slot = some t →
    ∃ u v, s.taskWait core slot (.latch ep free n) = u ∧ u.task? core slot = some v ∧ v.state = .waiting ∧
      v.wait = some (.latch ep free n) ∧ v.waitStart = s.tick ∧ v.pc = t.pc ∧
      u.get64 (Reg.coreYield core) = (s.get64 (Reg.coreYield core) + 1) % 2 ^ 64 ∧ u.mem = s.mem) ∧
  (∀ i s t k, Executes latchSigSpec i s t → wordField i 24 4 = 1 → countFits i → namesEndpoint i 0x73 s t false k →
    s.older i.core i.slot = false → (s.epD k).taken < countOf i →
    exec (.latchSig i) s = .next
      (((((s.turn i).noteIssue i.core i.slot).raiseCtx (srcTask i.core i.slot) 0x0103 3 t.ctx
        (k % 256 + i.slot * 2 ^ 8 + countOf i * 2 ^ 24) (s.epD k).taken).put (Fld.strLatchOverrun (epKey i.core (k % 256))) 1).faultCtx
          t.ctx 5 t.leaf))

/-- R200, R201, R202: BUF.ALLOC takes some free buffer of the pool for the task, raises its generation and writes its token; BUF.FREE of a
token that passes the checks frees its buffer; of one that does not, it frees nothing, raises POOL_MISUSE with the kind and counts misuse. -/
def Obligations.BufferAllocationAndFree : Prop :=
  (∀ i s t, Executes bufAllocSpec i s t → s.freeBuffers t.ctx i.core (wordField i 24 4 == 1) ≠ [] →
    s.bufferQueue t.ctx i.core i.slot (wordField i 24 4 == 1) = false →
    ∃ j b, j ∈ s.freeBuffers t.ctx i.core (wordField i 24 4 == 1) ∧ s.cores.buffers[j]? = some b ∧
      exec (.bufAlloc i) s = .next (({ s.turn i with
        cores.buffers := s.cores.buffers.set j { b with owner := .slot i.slot, gen := b.gen + 1 }, draws := s.draws + 1 }.putTask i
          ({ t with wait := none }.setReg (wordField i 28 6) (BitVec.ofNat 64 (b.addr + (b.gen + 1).toNat * 2 ^ 44)) false)).retire i false)) ∧
  (∀ i s t, Executes bufAllocSpec i s t → s.freeBuffers t.ctx i.core (wordField i 24 4 == 1) = [] →
    exec (.bufAlloc i) s = .next ((s.turn i).taskWait i.core i.slot (.buffer (wordField i 24 4 == 1)))) ∧
  (∀ i s t j, Executes bufFreeSpec i s t → t.regPoison (wordField i 40 6) = false →
    s.bufCheck t.ctx i.core i.slot (t.reg (wordField i 40 6)).toNat = .ok j →
    exec (.bufFree i) s = .next ({ s.turn i with
      cores.buffers := s.cores.buffers.modify j fun b => { b with owner := .free } }.retire i false)) ∧
  (∀ i s t kind, Executes bufFreeSpec i s t → t.regPoison (wordField i 40 6) = false →
    s.bufCheck t.ctx i.core i.slot (t.reg (wordField i 40 6)).toNat = .error kind →
    exec (.bufFree i) s = .next ((((s.turn i).raiseCtx (srcTask i.core i.slot) 0x0104 2 t.ctx (t.reg (wordField i 40 6)).toNat
      (kind + i.slot * 2 ^ 8)).misusePart (s.partOf t.ctx)).retire i false))

namespace Sys2Proof.Machine

/-- The words of the synchronisation instructions (R184, R203 to R210, R345). -/
def barrierSpec : OpSpec := specQ 0x80 [qSa] (· == 0)
def thresholdSpec : OpSpec := specQ 0x81 [] (· == 0)
def atLaunchSpec : OpSpec := specQ 0x82 [qSa] (· == 0)
def tickRdSpec : OpSpec := specQ 0x83 [qSd] (· == 0)

/-- A task as it is after its waiting instruction has completed: READY, past the instruction, one more retired (R94, R208, R209). -/
def Task.resumed (t : Task) : Task := { t with state := .ready, wait := none, pc := t.pc + 8#44, retired := t.retired + 1 }

/-- No two declared tasks of a context share a slot. -/
def slotsApart (s : State) (c : Nat) : Prop := ((s.ctx c).tasks.map fun d => taskKey d.core d.slot).Nodup

end Sys2Proof.Machine

/-- R94, R262, R203, R340: while the clocks run, a waiting task whose condition holds becomes READY on the same instruction, and one that
waits at a THRESHOLD has completed it; a stall on tiles is counted under its highest cause; while they stand still, nothing wakes.
R77: ready slots that have not issued for AGE_LIMIT clocks issue before every other task of their core, the lowest first. -/
def Obligations.WaitingTasksWakeAndAge : Prop :=
  (∀ (core : CoreId) (slot : SlotId) codes s t w, s.task? core slot = some t → t.state = .waiting → t.wait = some w →
    s.runs t.ctx = true → s.waitOver core slot t w = true → w ≠ .threshold → s.flag Fld.timStatusPllLock = true →
    ∃ u, exec (.taskWake core slot codes) s = .next u ∧
      u.task? core slot = some { t with state := .ready, wait := match w with | .buffer b => some (.buffer b) | _ => none } ∧ u.mem = s.mem ∧
      u.ctxs = s.ctxs ∧
      (∀ k, k ≠ taskKey core slot → SMap.get? u.cores.tasks k = SMap.get? s.cores.tasks k)) ∧
  (∀ (core : CoreId) (slot : SlotId) codes s t, s.task? core slot = some t → t.state = .waiting → t.wait = some .threshold →
    s.runs t.ctx = true → s.waitOver core slot t .threshold = true → s.flag Fld.timStatusPllLock = true →
    ∃ u, exec (.taskWake core slot codes) s = .next u ∧ u.task? core slot = some t.resumed ∧ u.mem = s.mem) ∧
  (∀ (core : CoreId) (slot : SlotId) (codes : BitVec 6) s t l n, s.task? core slot = some t → t.state = .waiting →
    t.wait = some (.tiles l) → s.runs t.ctx = true → s.allStaged core t.ctx l = true → s.flag Fld.timStatusPllLock = true →
    n = t.causes ||| s.extraCauses codes.toNat → n ≠ 0 → n < 64 → t.ctx < 64 →
    ∃ u, exec (.taskWake core slot codes) s = .next u ∧
      u.get (Fld.migCauseLast t.ctx) = Nat.log2 n + 1 ∧
      u.get64 (stallReg t.ctx (Nat.log2 n + 1)) = (s.get64 (stallReg t.ctx (Nat.log2 n + 1)) + 1) % 2 ^ 64) ∧
  (∀ (core : CoreId) (slot : SlotId) codes s, s.flag Fld.timStatusPllLock = false → exec (.taskWake core slot codes) s = .next s) ∧
  (∀ (core : CoreId) (slots : BitVec 16) s, s.flag Fld.timStatusPllLock = true → ∃ u, exec (.ageLimitIssue core slots) s = .next u ∧
    { u with cores.first := s.cores.first } = s ∧
    (∀ k, k ∈ SMap.getD u.cores.first core [] ↔ k ∈ SMap.getD s.cores.first core [] ∨
      (k < 16 ∧ slots.getLsbD k = true ∧ s.slotReady core k = true)) ∧
    (∀ n, n ≠ core.val → SMap.getD u.cores.first n [] = SMap.getD s.cores.first n [])) ∧
  (∀ (core : CoreId) (slots : BitVec 16) s k, s.flag Fld.timStatusPllLock = true → SMap.getD s.cores.first core [] = [] → k < 16 →
    slots.getLsbD k = true → s.slotReady core k = true → (∀ j, j < k → slots.getLsbD j = true → s.slotReady core j = false) →
    ∃ u, exec (.ageLimitIssue core slots) s = .next u ∧ u.chosen core = some k)

/-- R203, R204, R207, R208, R209, R210, R345: THRESHOLD in an unprivileged context retires once the task's endpoints are drained, and
otherwise waits, as every THRESHOLD of a privileged context does; BARRIER waits at the casement that its handle names; AT.LAUNCH waits for
its tick, or retires at once when the tick has begun, counted in SYN_LATE; TICK.RD reads the tick counter.
R204, R208, R209: when the last core-unit of a privileged context has voted, its collector names a release tick no later than 192 ticks
after the last vote, and when every member of a casement has arrived at its barrier, one no earlier than the last arrival and the release
lead; at that tick, and when a launch tick has come, every task that waits there becomes READY past its instruction. Tasks released by one
launch tick issue first, in ascending slot order. -/
def Obligations.SynchronisationAndReleases : Prop :=
  (∀ i s t, Executes thresholdSpec i s t → (s.ctx t.ctx).priv = false → s.drained i.core i.slot t.ctx = true →
    s.heldTask t.ctx i.core i.slot = false →
    exec (.threshold i) s = .next ((((s.turn i).closeBatches i.core i.slot).passThreshold i.core i.slot).retire i false)) ∧
  (∀ i s t, Executes thresholdSpec i s t →
    (s.ctx t.ctx).priv = true ∨ s.drained i.core i.slot t.ctx = false ∨ s.heldTask t.ctx i.core i.slot = true →
    exec (.threshold i) s = .next ((s.turn i).taskWait i.core i.slot .threshold)) ∧
  (∀ i s t n, Executes barrierSpec i s t →
    ((s.ctx t.ctx).units.findIdx? fun u => u.handle == (t.reg (wordField i 40 6)).toNat && u.casement && u.leaf ≤ t.leaf &&
      t.leaf < u.leaf + u.leaves) = some n → t.regPoison (wordField i 40 6) = false →
    ∃ v w, exec (.barrier i) s = .next v ∧ v.task? i.core i.slot = some w ∧ w.state = .waiting ∧ w.wait = some (.barrier n) ∧
      w.pc = t.pc ∧ w.waitStart = s.tick ∧ v.mem = s.mem) ∧
  (∀ i s t, Executes atLaunchSpec i s t → t.regPoison (wordField i 40 6) = false → s.tick < (t.reg (wordField i 40 6)).toNat →
    exec (.atLaunch i) s = .next ((s.turn i).taskWait i.core i.slot (.launch (t.reg (wordField i 40 6)).toNat))) ∧
  (∀ i s t, Executes tickRdSpec i s t →
    exec (.tickRd i) s = .next (((s.turn i).putTask i (t.setReg (wordField i 28 6) (BitVec.ofNat 64 s.tick) false)).retire i false)) ∧
  (∀ (c : CtxId) s g, s.flag Fld.timStatusPllLock = true → (s.ctx c).priv = true → s.runs c = true →
    s.holdsAt c ((s.ctx c).gen + 1) = false → ((s.ctx c).releases.find? fun r => r.wait == .threshold) = none →
    g = s.voteGen c s.liveDecl .threshold → g ≠ 0 → s.arrived c s.liveDecl .threshold g = true →
    ∃ u tick, exec (.thresholdRelease c) s = .next u ∧ (u.ctx c).releases = (s.ctx c).releases ++ [Release.mk .threshold g tick] ∧
      s.tick ≤ tick ∧ tick ≤ max s.tick (s.lastArrival c s.liveDecl .threshold g + 192) ∧ u.cores = s.cores ∧ u.mem = s.mem) ∧
  (∀ (c : CtxId) s r, s.flag Fld.timStatusPllLock = true → (s.ctx c).priv = true → s.runs c = true →
    s.holdsAt c ((s.ctx c).gen + 1) = false → ((s.ctx c).releases.find? fun r => r.wait == .threshold) = some r → r.tick ≤ s.tick →
    slotsApart s c →
    ∃ u, exec (.thresholdRelease c) s = .next u ∧ u.mem = s.mem ∧
      ∀ d t, d ∈ (s.ctx c).tasks → s.waitsAt d .threshold = true → d.passed .threshold + 1 = r.gen →
        s.task? d.core d.slot = some t → u.task? d.core d.slot = some t.resumed) ∧
  (∀ (c : CtxId) node s g n, s.flag Fld.timStatusPllLock = true → s.runs c = true → (s.ctx c).units[node]? = some n →
    ((s.ctx c).releases.find? fun r => r.wait == .barrier node) = none →
    let p := fun d => s.under c node d && s.startedDecl d
    g = s.voteGen c p (.barrier node) → g ≠ 0 → s.arrived c p (.barrier node) g = true →
    ∃ u tick, exec (.barrierRelease c node) s = .next u ∧
      (u.ctx c).releases = (s.ctx c).releases ++ [Release.mk (.barrier node) g tick] ∧
      s.tick ≤ tick ∧ s.lastArrival c p (.barrier node) g + 192 + 250 * n.hops ≤ tick ∧ u.cores = s.cores ∧ u.mem = s.mem) ∧
  (∀ (c : CtxId) node s r, s.flag Fld.timStatusPllLock = true → s.runs c = true →
    ((s.ctx c).releases.find? fun r => r.wait == .barrier node) = some r → r.tick ≤ s.tick → slotsApart s c →
    ∃ u, exec (.barrierRelease c node) s = .next u ∧ u.mem = s.mem ∧
      ∀ d t, d ∈ (s.ctx c).tasks → s.under c node d = true → s.waitsAt d (.barrier node) = true → d.passed (.barrier node) + 1 = r.gen →
        s.task? d.core d.slot = some t → u.task? d.core d.slot = some t.resumed) ∧
  (∀ (core : CoreId) s k t v, s.flag Fld.timStatusPllLock = true → k < 16 → s.task? core k = some t → t.state = .waiting →
    s.runs t.ctx = true → t.request = none → t.run = none → slotIn s.cores.held core k = false →
    t.wait = some (.launch v) → v ≤ s.tick →
    (∀ j w, j < k → s.task? core j = some w → w.state = .waiting → ∀ x, w.wait = some (.launch x) → s.tick < x) →
    ∃ u, exec (.launchTick core) s = .next u ∧ u.task? core k = some t.resumed ∧ u.chosen core = some k ∧ u.mem = s.mem)

/-- R218, R219, R220: a monitor that is armed, and whose count has reached the limit with nothing to restart it, trips: TRIPPED is set,
DEADLOCK is written, and the context faults with cause 4 at the lowest blocked leaf ordinal; a monitor that is not armed changes nothing.
R97, R147, R465: a context that is neither IDLE nor FAULTED faults: its state becomes FAULTED, or its incarnation waits for the boot field
with its tasks stopped; what it has in flight is discarded, and every task of it without a cause of its own records STOP_CAUSE 4. -/
def Obligations.DeadlocksAndContextFaults : Prop :=
  (∀ (c : CtxId) s, s.dlmArmed c = true → (s.ctx c).dlmMark = s.dlmMark c → s.dlmLimit c ≤ (s.ctx c).dlmCount →
    let blocked := (s.tasksOf c).filter fun p => p.2.blocked
    let low := (least? (blocked.map fun p => p.2.leaf)).getD 0
    exec (.deadlock c) s = .next (s.clocked (((s.put (Fld.synDlmStatTripped c) 1).raiseCtx srcCtx 0x0105 3 c
      (blocked.length + low * 2 ^ 32) (s.waitCounts c)).faultCtx c 4 low))) ∧
  (∀ (c : CtxId) s, s.dlmArmed c = false → exec (.deadlock c) s = .next s) ∧
  (∀ (s : State) (c : CtxId), s.dlmArmed c = true → (s.ctx c).dlmMark = s.dlmMark c →
    ((s.dlmTick c).ctx c).dlmCount = (s.ctx c).dlmCount + 1) ∧
  (∀ (s : State) (c : CtxId), s.dlmArmed c = true → (s.ctx c).dlmMark ≠ s.dlmMark c → ((s.dlmTick c).ctx c).dlmCount = 1) ∧
  (∀ (s : State) (c : CtxId), s.dlmArmed c = false → ((s.dlmTick c).ctx c).dlmCount = 0) ∧
  (∀ (s : State) (c : CtxId) cause ordinal, s.ctxState c ≠ ctxIdle → s.ctxState c ≠ ctxFaulted → s.faultWaits c = false →
    let u := s.faultCtx c cause ordinal
    (u.get (Fld.ctxStatusState c) = ctxFaulted ∨ u.faultWaits c = true) ∧
    (∀ g, g ∈ u.cores.groups → g.ctx ≠ c) ∧
    (∀ b, b ∈ u.vbl.batches → b.ctx ≠ c) ∧
    (∀ i, i ∈ u.coll.insts → i.ctx ≠ c) ∧
    (∀ k t, SMap.get? s.cores.tasks k = some t →
      SMap.get? u.cores.tasks k = some (if t.ctx = c ∧ t.stopCause = 0 then { t with stopCause := 4 } else t)))

namespace Sys2Proof.Machine

/-- The scalar register that SA, SB or SD of a form Q word names (R132, R184). -/
def qRegA (i : Issue) : Nat := wordField i 40 6
def qRegB (i : Issue) : Nat := wordField i 34 6
def qRegD (i : Issue) : Nat := wordField i 28 6

/-- FUNC of a form Q word. -/
def qFuncOf (i : Issue) : Nat := wordField i 24 4

/-- The words of UNIT.QUERY (R185). -/
def unitQuerySpec : OpSpec :=
  ⟨0x84, false, fun w _ => onlyFields ((24, 4) :: queryFields (field w 24 4)) w, fun w _ => field w 24 4 < 8⟩

/-- UNIT.QUERY wrote a number into SD and retired. -/
def queryGives (i : Issue) (s : State) (t : Task) (v : Nat) : Prop :=
  exec (.unitQuery i) s = .next (((s.turn i).putTask i (t.setReg (qRegD i) (BitVec.ofNat 64 v) false)).retire i false)

/-- Where byte `j` of a write that starts at a tensor-space address lies: the write goes page by page (R240, R244). -/
def State.byteKey (s : State) (c a j : Nat) : Nat :=
  if (a + j) / 4096 = a / 4096 then s.key c a + j else s.key c ((a + j) / 4096 * 4096) + (a + j) % 4096

/-- The words of TASK.CTL (R184, R211): SB is used by SAVE and RESTORE alone, and IMM24[23:16] is reserved. -/
def taskCtlSpec : OpSpec :=
  ⟨0x85, false, fun w _ => onlyFields ([qSa, (24, 4), (0, 16)] ++ (if 3 ≤ field w 24 4 then [qSb] else [])) w,
    fun w _ => field w 24 4 < 5⟩

/-- The unit that SA names, by index, of the task's own context. -/
def namesUnit (i : Issue) (s : State) (t : Task) (n : Nat) (u : UnitNode) : Prop :=
  ((s.ctx t.ctx).units.findIdx? fun v => v.handle == (t.reg (qRegA i)).toNat) = some n ∧ (s.ctx t.ctx).units[n]? = some u

/-- The unit holds the issuing task's core-unit, and the mask selects the task. -/
def selectsItself (i : Issue) (t : Task) (u : UnitNode) : Bool :=
  bitAt (wordField i 0 24) t.num && u.leaf ≤ t.leaf && t.leaf < u.leaf + u.leaves

/-- A task-control operation is queued for the release lead of R208: 192 ticks, and 250 for each module hop. -/
def queuesOp (op : Issue → Instr) (f : Nat) : Prop :=
  ∀ i s t n u, Executes taskCtlSpec i s t → qFuncOf i = f → wordField i 0 24 ≠ 0 → namesUnit i s t n u →
    t.regPoison (qRegA i) = false → (2 ≤ f → selectsItself i t u = false) →
    (3 ≤ f → popCount 16 (wordField i 0 24) = 1 ∧ u.casement = false ∧ s.mapped t.ctx (t.reg (qRegB i)).toNat recordBytes = true ∧
      t.regPoison (qRegB i) = false) →
    exec (op i) s = .next (({ s.turn i with taskOps := s.taskOps ++
      [⟨t.ctx, some t.leaf, f, n, wordField i 0 24, (t.reg (qRegB i)).toNat, s.tick + (192 + 250 * u.hops)⟩] } : State).retire i false)

/-- A write of SYN_TSK_CMD that passes every check queues a host operation and shows BUSY. -/
def hostQueues (cmd : Requester → CtxId → BitVec 16 → Instr) (f : Nat) : Prop :=
  ∀ req (c : CtxId) (mask : BitVec 16) s n u, s.accepts req (Reg.synTskCmd c) (f + mask.toNat * 2 ^ 16) = true →
    s.flag (Fld.synTskStatusBusy c) = false → s.ctlBarred c f = false → mask ≠ 0#16 →
    ((s.ctx c).units.findIdx? fun v => v.handle == s.get (Fld.synTskHandleHandle c)) = some n → (s.ctx c).units[n]? = some u →
    (3 ≤ f → popCount 16 mask.toNat = 1 ∧ u.casement = false) →
    exec (cmd req c mask) s = .next { s.put (Fld.synTskStatusBusy c) 1 with taskOps := s.taskOps ++
      [⟨c, none, f, n, mask.toNat, s.get64 (Reg.synTskAddr c) % 2 ^ 44, s.tick + (192 + 250 * u.hops)⟩] }

/-- A write of SYN_TSK_CMD while an operation is BUSY records the result 4, and one for a context that is IDLE the result 7. -/
def hostRefuses (cmd : Requester → CtxId → BitVec 16 → Instr) (f : Nat) : Prop :=
  (∀ req (c : CtxId) (mask : BitVec 16) s, s.accepts req (Reg.synTskCmd c) (f + mask.toNat * 2 ^ 16) = true →
    s.flag (Fld.synTskStatusBusy c) = true →
    exec (cmd req c mask) s = .next (s.put (Fld.synTskStatusResult c) 4)) ∧
  (∀ req (c : CtxId) (mask : BitVec 16) s, s.accepts req (Reg.synTskCmd c) (f + mask.toNat * 2 ^ 16) = true →
    s.flag (Fld.synTskStatusBusy c) = false → s.ctxState c = ctxIdle →
    exec (cmd req c mask) s = .next (s.put (Fld.synTskStatusResult c) 7))

end Sys2Proof.Machine

/-- R27, R185: UNIT.QUERY writes what its selector names into SD; CAPS copies the capability record of R29 to T0, and nothing else of
memory changes. -/
def Obligations.UnitQuerySelectors : Prop :=
  (∀ i s t u, Executes unitQuerySpec i s t → qFuncOf i = 0 →
    ((s.ctx t.ctx).units.find? fun v => !v.casement && v.leaf == t.leaf) = some u → queryGives i s t u.handle) ∧
  (∀ i s t, Executes unitQuerySpec i s t → qFuncOf i = 5 → queryGives i s t t.leaf) ∧
  (∀ i s t k u, Executes unitQuerySpec i s t → s.unit? t.ctx (t.reg (qRegA i)).toNat = some (k, u) →
    t.regPoison (qRegA i) = false →
    (qFuncOf i = 1 → u.parent = none → queryGives i s t 0) ∧
    (∀ p v, qFuncOf i = 1 → u.parent = some p → k.units[p]? = some v → queryGives i s t v.handle) ∧
    (∀ h, qFuncOf i = 2 → k.child u (t.reg (qRegB i)).toNat = some h → t.regPoison (qRegB i) = false → queryGives i s t h) ∧
    (qFuncOf i = 3 → queryGives i s t (u.d0 + u.d1 * 2 ^ 21 + u.d2 * 2 ^ 42)) ∧
    (qFuncOf i = 4 → queryGives i s t (u.childIndex + u.depth * 2 ^ 32)) ∧
    (qFuncOf i = 6 → queryGives i s t u.leaves)) ∧
  (∀ i s t, Executes unitQuerySpec i s t → qFuncOf i = 7 → (t.reg (qRegA i)).toNat % 64 = 0 →
    inT0 (t.reg (qRegA i)).toNat = true → inT0 ((t.reg (qRegA i)).toNat + 511) = true →
    s.mapped t.ctx (t.reg (qRegA i)).toNat 512 = true → t.regPoison (qRegA i) = false →
    ∃ u : State, exec (.unitQuery i) s = .next u ∧ { u with mem := s.mem } = (s.turn i).retire i false ∧
      (∀ k, (∀ j, j < 512 → s.byteKey t.ctx (t.reg (qRegA i)).toNat j ≠ k) → u.mem.byte k = s.mem.byte k) ∧
      ((∀ j k, j < 512 → k < 512 → s.byteKey t.ctx (t.reg (qRegA i)).toNat j = s.byteKey t.ctx (t.reg (qRegA i)).toNat k → j = k) →
        ∀ j, j < 512 → u.mem.byte (s.byteKey t.ctx (t.reg (qRegA i)).toNat j) = (s.ctx t.ctx).caps.getD j 0#8))

/-- R211, R212: each function of TASK.CTL is queued and takes effect at the release lead; the issuing task goes on. A word that holds
another function's number is that function's instruction, and is no word of this row.
R223: a host operation is queued and shown BUSY; a command while one is BUSY, or for a context that is IDLE, only records its
result. -/
def Obligations.TaskControlRequests : Prop :=
  queuesOp .taskCtlStart 0 ∧ queuesOp .taskCtlStop 1 ∧ queuesOp .taskCtlPreempt 2 ∧ queuesOp .taskCtlSave 3 ∧
  queuesOp .taskCtlRestore 4 ∧
  (∀ i s, WellFormed (.taskCtlStart i) = false → exec (.taskCtlStart i) s = .fault .illFormed) ∧
  (∀ i s, WellFormed (.taskCtlStop i) = false → exec (.taskCtlStop i) s = .fault .illFormed) ∧
  (∀ i s, WellFormed (.taskCtlPreempt i) = false → exec (.taskCtlPreempt i) s = .fault .illFormed) ∧
  (∀ i s, WellFormed (.taskCtlSave i) = false → exec (.taskCtlSave i) s = .fault .illFormed) ∧
  (∀ i s, WellFormed (.taskCtlRestore i) = false → exec (.taskCtlRestore i) s = .fault .illFormed) ∧
  hostQueues .synTskStart 0 ∧ hostQueues .synTskStop 1 ∧ hostQueues .synTskPreempt 2 ∧ hostQueues .synTskSave 3 ∧
  hostQueues .synTskRestore 4 ∧
  hostRefuses .synTskStart 0 ∧ hostRefuses .synTskStop 1 ∧ hostRefuses .synTskPreempt 2 ∧ hostRefuses .synTskSave 3 ∧
  hostRefuses .synTskRestore 4

namespace Sys2Proof.Machine

/-- The clocks run, one operation is under way, its tick has come, nothing that it would stop is unretired, its context takes it, and it
selects one task: the declaration `j`. -/
structure SoleOp (s : State) (o : TaskOp) (j : Nat) (d : TaskDecl) : Prop where
  clocks : s.flag Fld.timStatusPllLock = true
  ops : s.taskOps = [o]
  due : o.due ≤ s.tick
  retired : s.ctlWaits o = false
  taken : s.ctlBarred o.ctx o.func = false
  selects : s.selected o = [j]
  decl : (s.ctx o.ctx).tasks[j]? = some d
  known : o.ctx < 64 ∧ d.core < 256 ∧ d.slot < 16

/-- A task that has been stopped in its slot: a FAULTED or HALTED one stays as it is (R211). -/
def Task.stop (t : Task) : Task :=
  if t.state = .ready ∨ t.state = .waiting then { t with state := .stopped, wait := if t.state = .waiting then t.wait else none, run := none } else t

/-- The record that a range of memory holds can be restored for a declared task, and gives this task (R149). -/
def restores (s : State) (c : Nat) (d : TaskDecl) (a : Nat) (t : Task) : Prop :=
  s.recordPlace c a = true ∧ s.task? d.core d.slot = none ∧ s.tpoison d.core c a recordBytes = false ∧
    recordOk (s.tread d.core c a recordBytes) c d.accFirst d.accCount = true ∧
    recordTask (s.tread d.core c a recordBytes) d c s.tick = some t

end Sys2Proof.Machine

/-- R211, R212, R145, R146, R149: when its tick comes an operation takes effect on the tasks that it selects: START begins a task with its start
state, STOP stops it in its slot, PREEMPT writes its record and empties its slot, SAVE writes its record, RESTORE restores one; before
its tick it changes nothing.
R211: a pre-empted task that a START found its slot taken for is restored from its save area once the slot is EMPTY, and goes on; while
the slot is taken nothing changes. -/
def Obligations.TaskControlTakesEffect : Prop :=
  (∀ codes s, (∀ o, o ∈ s.taskOps → s.tick < o.due) → exec (.taskCtlEffect codes) s = .next s) ∧
  (∀ codes s o j d, SoleOp s o j d → o.func = 0 → d.phase = .notStarted → s.ctxState o.ctx ≠ ctxDraining →
    s.task? d.core d.slot = none →
    ∃ u, exec (.taskCtlEffect codes) s = .next u ∧ u.taskOps = [] ∧ u.mem = s.mem ∧
      u.task? d.core d.slot = some (Task.start o.ctx d.num d.leaf d.accFirst d.accCount d.entry d.arg d.handles)) ∧
  (∀ codes s o j d t, SoleOp s o j d → o.func = 1 → d.phase = .live → s.task? d.core d.slot = some t →
    ∃ u, exec (.taskCtlEffect codes) s = .next u ∧ u.taskOps = [] ∧ u.mem = s.mem ∧ u.task? d.core d.slot = some t.stop) ∧
  (∀ codes s o j d t, SoleOp s o j d → o.func = 2 → d.phase = .live → s.task? d.core d.slot = some t → t.ctx = o.ctx →
    t.state = .ready ∨ t.state = .waiting ∨ t.state = .stopped → s.recordPlace o.ctx d.saveArea = true →
    ∃ u, exec (.taskCtlEffect codes) s = .next u ∧ u.taskOps = [] ∧ u.task? d.core d.slot = none ∧
      ((u.ctx o.ctx).tasks[j]?).map (·.phase) = some .parked ∧
      u.mem = (s.twrite o.ctx d.saveArea (t.stop.record d.slot (s.prio d.core d.slot) s.tick) fun _ => false).mem) ∧
  (∀ codes s o j d t, SoleOp s o j d → o.func = 3 → d.phase = .live → s.task? d.core d.slot = some t → t.ctx = o.ctx →
    s.recordPlace o.ctx o.addr = true → s.inCode o.ctx o.addr recordBytes = false →
    ∃ u, exec (.taskCtlEffect codes) s = .next u ∧ u.taskOps = [] ∧ u.task? d.core d.slot = some t.stop ∧
      u.mem = (s.twrite o.ctx o.addr (t.stop.record d.slot (s.prio d.core d.slot) s.tick) fun _ => false).mem) ∧
  (∀ codes s o j d t, SoleOp s o j d → o.func = 4 → restores s o.ctx d o.addr t →
    ∃ u, exec (.taskCtlEffect codes) s = .next u ∧ u.taskOps = [] ∧ u.mem = s.mem ∧ u.task? d.core d.slot = some t) ∧
  (∀ (core : CoreId) (slot : SlotId) s c i d t, s.flag Fld.timStatusPllLock = true → c ∈ s.ctxs.map (·.1) →
    ((s.ctx c).tasks.findIdx? fun d => d.core == core.val && d.slot == slot.val && d.phase == .restoring) = some i →
    (∀ e, e ≠ c → ∀ k, k ∈ (s.ctx e).tasks → ¬ (k.core = core.val ∧ k.slot = slot.val ∧ k.phase = .restoring)) →
    (s.ctx c).tasks[i]? = some d → s.ctlBarred c 0 = false → restores s c d d.saveArea t →
    ∃ u, exec (.parkedTaskRestore core slot) s = .next u ∧ u.mem = s.mem ∧
      u.task? core slot = some (if t.state = .stopped then { t with state := .ready } else t) ∧
      ((u.ctx c).tasks[i]?).map (·.phase) = some .live) ∧
  (∀ (core : CoreId) (slot : SlotId) s t, s.task? core slot = some t → exec (.parkedTaskRestore core slot) s = .next s)

/-- The value of a write of STR_CFG that sets EN for context `c`, whose field is bits 31:26 (R222). -/
def strWord (c : CtxId) (v : BitVec 26) : Nat := c.val * 2 ^ 26 + v.toNat

/-- R190, R194, R195, R222, R328, R397: a group that may land is written into its ring from the tail, and FILLED rises by each whole group that
has come; one for an endpoint out of use is discarded and counted, and so is one at a shutter; a remote stream without a path faults its
context with cause 6. While the wafer clocks stand still, nothing lands (R340).
R60, R189, R194, R222: a credit raises FREE of its producer toward the consumer that gave it; an endpoint out of use discards and
counts it; one for a slot whose ports are closed waits. -/
def Obligations.GroupsLandAndCreditsReturn : Prop :=
  (∀ s i g k e, s.flag Fld.timStatusPllLock = true → s.cores.groups[i]? = some g → g.dst = .ring k → s.portsClosed (k / 256) = false →
    s.groupPath g = .through → s.linked k g.ctx = true → s.mayLand i k g = true → s.ep? k = some e →
    ∃ h u f, h = (g.split (s.landing k g)).1 ∧ exec (.groupLand (.flight i)) s = .next u ∧ u.ep? k = some f ∧
      f.filled = e.filled + (e.part + h.count) / s.epGrain k * s.epGrain k ∧ f.part = (e.part + h.count) % s.epGrain k ∧
      f.tail = (e.tail + h.count) % s.epRing k ∧ f.carried = e.carried + h.count ∧
      u.mem = (match h.data with | some bs => (s.fillRing k bs h.poison).mem | none => s.mem)) ∧
  (∀ s i g k, s.cores.groups[i]? = some g → g.dst = .ring k → s.portsClosed (k / 256) = false → s.groupPath g = .through →
    s.linked k g.ctx = false → exec (.groupLand (.flight i)) s = .next
      (s.clocked ((s.dropGroup i).misusePart (s.partOf (s.get (Fld.strCfgContext k)))))) ∧
  (∀ s i g k p, s.cores.groups[i]? = some g → g.dst = .ring k → s.portsClosed (k / 256) = false → s.groupPath g = .shut →
    g.part = some p → exec (.groupLand (.flight i)) s = .next
      (s.clocked (((s.dropGroup i).bump Fld.netShutDropCount).misusePart p))) ∧
  (∀ (core : CoreId) (ep : EpId) source count layer data s e, s.flag Fld.timStatusPllLock = true → s.portsClosed core = false →
    s.flag (Fld.strCfgEn (epKey core ep)) = true → s.flag (Fld.strPeerRemote (epKey core ep)) = true →
    s.flag (Fld.strCfgDir (epKey core ep)) = false → s.ep? (epKey core ep) = some e → e.sources = [] →
    ((s.ctx (s.get (Fld.strCfgContext (epKey core ep)))).priv = true ∨ layer ≤ e.layer) → s.ringRoom (epKey core ep) count = true →
    ∃ u f, exec (.groupLand (.arrive core ep source count layer data)) s = .next u ∧ u.ep? (epKey core ep) = some f ∧
      f.filled = e.filled + (e.part + count) / s.epGrain (epKey core ep) * s.epGrain (epKey core ep) ∧
      f.carried = e.carried + count) ∧
  (∀ (core : CoreId) (ep : EpId) peer n s e, s.flag Fld.timStatusPllLock = true → s.ep? (epKey core ep) = some e →
    ∃ u f, exec (.groupLand (.report core ep peer n)) s = .next u ∧ u.ep? (epKey core ep) = some f ∧
      f.landedFar = e.landedFar.modify peer (fun m => min (e.dealt 0 e.carried peer) (m + n)) ∧ u.mem = s.mem) ∧
  (∀ (core : CoreId) (ep : EpId) s, s.flag (Fld.strCfgEn (epKey core ep)) = true → s.flag (Fld.strPeerRemote (epKey core ep)) = true →
    exec (.groupLand (.noPath core ep)) s = .next (s.clocked (s.faultCtx (s.get (Fld.strCfgContext (epKey core ep))) 6
      (s.leafOn (s.get (Fld.strCfgContext (epKey core ep))) core)))) ∧
  (∀ s i c e j, s.cores.credits[i]? = some c → s.portsClosed (c.dst / 256) = false → s.flag (Fld.strCfgEn c.dst) = true →
    s.ep? c.dst = some e → (e.peers.findIdx? (· == .here c.src)) = some j →
    exec (.creditArrive (.flight i)) s = .next (s.clocked (({ s with cores.credits := s.cores.credits.eraseIdx i } : State).setEp c.dst
      { e with used := e.used.modify j fun n => n - c.count }))) ∧
  (∀ s i c, s.cores.credits[i]? = some c → s.portsClosed (c.dst / 256) = false → s.flag (Fld.strCfgEn c.dst) = false →
    exec (.creditArrive (.flight i)) s = .next (s.clocked (({ s with cores.credits := s.cores.credits.eraseIdx i } : State).misusePart
      (s.partOf (s.get (Fld.strCfgContext c.dst)))))) ∧
  (∀ s i c, s.cores.credits[i]? = some c → s.portsClosed (c.dst / 256) = true → exec (.creditArrive (.flight i)) s = .next s) ∧
  (∀ (core : CoreId) (ep : EpId) peer n b s e, s.flag Fld.timStatusPllLock = true → s.portsClosed core = false →
    s.flag (Fld.strCfgEn (epKey core ep)) = true → s.ep? (epKey core ep) = some e → e.peers[peer]? = some (.away b) →
    ∃ u, exec (.creditArrive (.away core ep peer n)) s = .next u ∧ u.mem = s.mem ∧
      (u.frees (epKey core ep))[peer]? = some (b - (e.used.getD peer 0 - n))) ∧
  (∀ (core : CoreId) (ep : EpId) peer n s, s.portsClosed core = false → s.flag (Fld.strCfgEn (epKey core ep)) = false →
    exec (.creditArrive (.away core ep peer n)) s = .next
      (s.clocked (s.misusePart (s.partOf (s.get (Fld.strCfgContext (epKey core ep)))))))

/-- An engine of an inbound endpoint that may fetch: in use, its context neither IDLE nor FAULTED, and a next tile in its list (R196). -/
structure EngineAt (s : State) (k : Nat) (seg : Seg) (j ends : Nat) : Prop where
  enabled : s.flag (Fld.strCfgEn k) = true
  inbound : s.flag (Fld.strCfgDir k) = false
  engine : s.get (Fld.strCfgKind k) ≠ 0
  begun : s.ctxState (s.get (Fld.strCfgContext k)) ≠ ctxIdle
  sound : s.ctxState (s.get (Fld.strCfgContext k)) ≠ ctxFaulted
  next : s.srcTile k (s.epD k).fetched = some (seg, j, ends)
  opened : s.layerOpen k seg ends = true
  setUp : s.ep? k ≠ none

/-- R188, R189, R222, R298: setting EN of STR_CFG sets an endpoint up with its counters at 0 and FREE B, unless EN is 1 already or R188 is
broken, which is counted as misuse; a bad source entry or list faults the context. Clearing EN alone takes the endpoint out of its link.
R196, R259, R297, R299, R301: an engine with room fetches its next tile from T0, T1 or T2 onto its way to the ring, and asks for the chunk
of a T3 tile that it has not; without room it fetches nothing. After the engine, the endpoint's requests go out and the stalls are noted. A
chain forwards a landed group unchanged when the next element has room. -/
def Obligations.EndpointsAndEngines : Prop :=
  (∀ req (core : CoreId) (ep : EpId) (c : CtxId) (v : BitVec 26) s, s.accepts req (Reg.strCfg (epKey core ep)) (strWord c v) = true →
    s.flag (Fld.strCfgEn (epKey core ep)) = false → s.setupBad (epKey core ep) (strWord c v) = false → v.getLsbD 0 = true →
    v.getLsbD 3 = true →
    ∃ u e, exec (.strCfgEnable req core ep c v) s = .next u ∧ u.rd (Reg.strCfg (epKey core ep)) = strWord c v ∧
      u.ep? (epKey core ep) = some e ∧ e.filled = 0 ∧ e.taken = 0 ∧ e.carried = 0 ∧ (∀ n, n ∈ e.used → n = 0) ∧ u.mem = s.mem ∧
      (∀ k, k ≠ epKey core ep → u.ep? k = s.ep? k)) ∧
  (∀ req (core : CoreId) (ep : EpId) (c : CtxId) (v : BitVec 26) s, s.accepts req (Reg.strCfg (epKey core ep)) (strWord c v) = true →
    s.flag (Fld.strCfgEn (epKey core ep)) = false → s.setupBad (epKey core ep) (strWord c v) = false → v.getLsbD 0 = true →
    v.getLsbD 3 = false → (s.strEnable req (epKey core ep) (strWord c v)).sourceOk (epKey core ep) = true →
    ∃ u e, exec (.strCfgEnable req core ep c v) s = .next u ∧ u.rd (Reg.strCfg (epKey core ep)) = strWord c v ∧
      u.ep? (epKey core ep) = some e ∧ e.filled = 0 ∧ e.taken = 0 ∧ e.carried = 0 ∧ u.mem = s.mem) ∧
  (∀ req (core : CoreId) (ep : EpId) (c : CtxId) (v : BitVec 26) s, s.accepts req (Reg.strCfg (epKey core ep)) (strWord c v) = true →
    s.flag (Fld.strCfgEn (epKey core ep)) = false → s.setupBad (epKey core ep) (strWord c v) = false → v.getLsbD 0 = true →
    v.getLsbD 3 = false → (s.strEnable req (epKey core ep) (strWord c v)).sourceOk (epKey core ep) = false →
    ∃ w : State, w = s.strEnable req (epKey core ep) (strWord c v) ∧
      exec (.strCfgEnable req core ep c v) s = .next ((w.raiseCtx srcLouvre 0x0403 3 c
        (w.unitOn c core + ep * 2 ^ 16) 0).faultCtx c 7 (w.leafOn c core))) ∧
  (∀ req (core : CoreId) (ep : EpId) (c : CtxId) (v : BitVec 26) s, s.accepts req (Reg.strCfg (epKey core ep)) (strWord c v) = true →
    s.flag (Fld.strCfgEn (epKey core ep)) = true → exec (.strCfgEnable req core ep c v) s = .next (s.misuse req)) ∧
  (∀ req (core : CoreId) (ep : EpId) (c : CtxId) (v : BitVec 26) s, s.accepts req (Reg.strCfg (epKey core ep)) (strWord c v) = true →
    s.flag (Fld.strCfgEn (epKey core ep)) = false → s.setupBad (epKey core ep) (strWord c v) = true → v.getLsbD 0 = true →
    exec (.strCfgEnable req core ep c v) s = .next (s.misuse req)) ∧
  (∀ req (core : CoreId) (ep : EpId) v s, s.accepts req (Reg.strCfg (epKey core ep)) (BitVec.toNat v) = true →
    s.flag (Fld.strCfgEn (epKey core ep)) = true → v.getLsbD 0 = false → v.toNat + 1 = s.rd (Reg.strCfg (epKey core ep)) →
    ∃ u, exec (.strCfgDisable req core ep v) s = .next u ∧ u.rd (Reg.strCfg (epKey core ep)) = v.toNat ∧
      u.ep? (epKey core ep) = none ∧ u.mem = s.mem ∧ (∀ k, k ≠ epKey core ep → u.ep? k = s.ep? k)) ∧
  (∀ req (core : CoreId) (ep : EpId) v s, s.accepts req (Reg.strCfg (epKey core ep)) (BitVec.toNat v) = true →
    s.flag (Fld.strCfgEn (epKey core ep)) = true → v.getLsbD 0 = false → v.toNat + 1 ≠ s.rd (Reg.strCfg (epKey core ep)) →
    exec (.strCfgDisable req core ep v) s = .next (s.misuse req)) ∧
  (∀ (core : CoreId) (ep : EpId) s seg j ends, EngineAt s (epKey core ep) seg j ends →
    (upperTier (seg.addr + 4096 * j) = true → s.engineRoom (epKey core ep) false = true →
      s.coreReach ((s.tileStop (s.get (Fld.strCfgContext (epKey core ep))) (seg.addr + 4096 * j) core).getD core) core = true →
      ∃ (w : State) (f : Endpoint) (g : Group), exec (.fetchEngineFetch core ep) s = .next (s.clocked w.vblPump.noteStalls) ∧ w.ep? (epKey core ep) = some f ∧
        f.fetched = (s.epD (epKey core ep)).fetched + 1 ∧ w.cores.groups = s.cores.groups ++ [g] ∧ g.dst = .ring (epKey core ep) ∧
        g.count = 1 ∧ w.mem = s.mem ∧
        g.data = some (s.mem.bytes (s.key (s.get (Fld.strCfgContext (epKey core ep))) (seg.addr + 4096 * j)) 4096)) ∧
    (upperTier (seg.addr + 4096 * j) = true → s.engineRoom (epKey core ep) false = false →
      exec (.fetchEngineFetch core ep) s = .next (s.clocked s.vblPump.noteStalls)) ∧
    (∀ a o, region (seg.addr + 4096 * j) = .t3 a o → s.engineRoom (epKey core ep) true = true →
      exec (.fetchEngineFetch core ep) s = .next (s.clocked (s.fetchStreamed (s.get (Fld.strCfgContext (epKey core ep))) (epKey core ep)
        (seg.addr + 4096 * j)).vblPump.noteStalls))) ∧
  (∀ (core : CoreId) (ep : EpId) s f, s.flag Fld.timStatusPllLock = true →
    s.linked (epKey core ep) (s.get (Fld.strCfgContext (epKey core ep))) = true →
    s.linked f (s.get (Fld.strCfgContext (epKey core ep))) = true → s.flag (Fld.strCfgDir f) = true →
    s.ctxState (s.get (Fld.strCfgContext (epKey core ep))) ≠ ctxFaulted → (s.epD (epKey core ep)).fwd = some f → f ≠ epKey core ep →
    (s.epD (epKey core ep)).forwarded + s.epGrain (epKey core ep) ≤
      (s.epD (epKey core ep)).carried / s.epGrain (epKey core ep) * s.epGrain (epKey core ep) →
    s.room f (s.epGrain (epKey core ep)) = true →
    (s.epD f).node = none → (s.epD f).route = [[0]] → (∃ d, (s.epD f).peers = [.here d] ∧ s.coreReach (f / 256) (d / 256) = true) →
    ∃ u a b, exec (.chainForward core ep) s = .next u ∧ u.ep? (epKey core ep) = some a ∧ u.ep? f = some b ∧
      a.forwarded = (s.epD (epKey core ep)).forwarded + s.epGrain (epKey core ep) ∧
      b.carried = (s.epD f).carried + s.epGrain (epKey core ep) ∧ u.mem = s.mem) ∧
  (∀ (core : CoreId) (ep : EpId) s, (s.epD (epKey core ep)).fwd = none → exec (.chainForward core ep) s = .next s)

namespace Sys2Proof.Machine

/-- The address that SA of a form Q word holds, and the node in its upper bits (R380). -/
def gaddr (i : Issue) (t : Task) : Nat := (t.reg (qRegA i)).toNat

/-- The endpoint as an instruction finds it once the batch of its context to the node has closed (R405). -/
def fabricAt (i : Issue) (s : State) (t : Task) : State := (s.turn i).closeFor t.ctx (gaddr i t / 2 ^ 44)

/-- The endpoint after it has taken a request from a state, in the class of a message of `n` bytes, under the context's job. -/
def State.asking (w : State) (i : Issue) (t : Task) (use : ReqFor) (ptype n opnd : Nat) (data : List Byte) : State :=
  w.addReq t.ctx use ptype (w.reqClass t.ctx n false) (w.jobOf t.ctx) (gaddr i t) opnd data

/-- The instruction has sent its request, and its task issues nothing further until the outcome is known (R391). -/
def asks (op : Issue → Instr) (i : Issue) (s : State) (u : State) (num : Nat) : Prop :=
  poisonLeaves (s.turn i) (.stay (u.hold i.core i.slot num).vblPump) = false →
    exec (op i) s = .next ((u.hold i.core i.slot num).vblPump.noteIssue i.core i.slot)

/-- The endpoint has accepted a posted request, and the instruction retires (R390). -/
def posts (op : Issue → Instr) (i : Issue) (s : State) (u : State) : Prop :=
  poisonLeaves (s.turn i) (.retire u.vblPump) = false → exec (op i) s = .next (u.vblPump.retire i false)

/-- The words of the fabric instructions (R184, R390). -/
def leaseAcqSpec : OpSpec := specQ 0x91 [qSa, qSb, qSd] (· == 0)
def leaseRelSpec : OpSpec := specQ 0x92 [qSa, qSd] (· == 0)
def atomSpec : OpSpec := specQ 0x93 [qSa, qSb, qSd] (· ≤ 6)
def rldSpec : OpSpec := specQ 0x94 [qSa, qSd] (· == 0)
def rstSpec : OpSpec := specQ 0x95 [qSa, qSb] (· == 0)
def invSpec : OpSpec := specQ 0x96 [qSa, qSb] (· == 0)
def doorbellSpec : OpSpec := specQ 0x97 [qSa, qSb] (· == 0)

/-- Nothing waits at the endpoint: no request, batch, lease to give up, collective message or refused packet. -/
def restful (s : State) : Prop := s.vbl.reqs = [] ∧ s.vbl.batches = [] ∧ s.vbl.breaks = [] ∧ s.coll.out = [] ∧
  s.trp.refused = []

end Sys2Proof.Machine

/-- R390, R391, R405, R410, R415: RLD of a near node without the cache, ATOM, LEASE.ACQ and LEASE.REL each send their request and hold their task
until its outcome is known.
R405, R406, R407: an RLD that hits the read cache retires at once with the line's data; one of a far node, or with CACHE set, reads the aligned
4 KiB line, joining a read of that line that is outstanding. A hit makes the line the pool's most recently used. -/
def Obligations.FabricRequestsAndLineReads : Prop :=
  (∀ i s t w, Executes rldSpec i s t → gaddr i t % 8 = 0 → t.regPoison (qRegA i) = false → s.older i.core i.slot = false →
    s.flag (Fld.vblCtxCtrlCache t.ctx) = false → s.far (gaddr i t / 2 ^ 44) = false → w = fabricAt i s t →
    asks .rld i s (w.asking i t (.load i.core i.slot (qRegD i)) 1 8 8 []) w.vbl.nextNum) ∧
  (∀ i s t w, Executes atomSpec i s t → gaddr i t % (if qFuncOf i = 0 ∨ qFuncOf i = 2 then 4 else 8) = 0 →
    t.regPoison (qRegA i) = false → t.regPoison (qRegB i) = false → (qFuncOf i = 4 → t.regPoison (qRegD i) = false) →
    s.older i.core i.slot = false → w = fabricAt i s t →
    asks .atom i s (w.asking i t (.atom i.core i.slot (qRegD i) (qFuncOf i)) 3 16 (t.reg (qRegB i)).toNat
      (leBytes 8 (qFuncOf i) ++ leBytes 8 (if qFuncOf i = 4 then (t.reg (qRegD i)).toNat else 0))) w.vbl.nextNum) ∧
  (∀ i s t w, Executes leaseAcqSpec i s t → gaddr i t % 32 = 0 → 1 ≤ (t.reg (qRegB i)).toNat → (t.reg (qRegB i)).toNat < 2 ^ 36 →
    t.regPoison (qRegA i) = false → t.regPoison (qRegB i) = false → s.older i.core i.slot = false →
    w = (fabricAt i s t).staleAcquires i.core i.slot →
    asks .leaseAcq i s (w.asking i t (.acquire i.core i.slot (qRegD i)) 4 16 (t.reg (qRegB i)).toNat
      (leaseData 0 t.ctx (w.rd (Reg.vblInc t.ctx)))) w.vbl.nextNum) ∧
  (∀ i s t w, Executes leaseRelSpec i s t → gaddr i t % 32 = 0 → t.regPoison (qRegA i) = false → s.older i.core i.slot = false →
    w = fabricAt i s t →
    asks .leaseRel i s (w.asking i t (.release i.core i.slot (qRegD i)) 4 16 0 (leaseData 1 t.ctx (w.rd (Reg.vblInc t.ctx))))
      w.vbl.nextNum) ∧
  (∀ i s t y, Executes rldSpec i s t → gaddr i t % 8 = 0 → t.regPoison (qRegA i) = false → s.older i.core i.slot = false →
    s.flag (Fld.vblCtxCtrlCache t.ctx) = true → s.staged? i.core t.ctx (2 ^ 64 + gaddr i t / 4096 * 4096) = some y →
    let k := s.key t.ctx (s.stageAddr i.core t.ctx y.place + gaddr i t % 4096)
    let v := BitVec.ofNat 64 (ofLe (s.mem.bytes k 8))
    let bad := s.mem.anyPoison k 8
    exec (.rld i) s = .next ((((s.turn i).useStaged i.core i.slot t.ctx [(2 ^ 64 + gaddr i t / 4096 * 4096, false)]).putTask i
      ((t.setReg (qRegD i) v bad).setReg 63 (if bad then 5#64 else 0#64) false)).retire i false)) ∧
  (∀ i s t, Executes rldSpec i s t → gaddr i t % 8 = 0 → t.regPoison (qRegA i) = false → s.older i.core i.slot = false →
    s.flag (Fld.vblCtxCtrlCache t.ctx) = true ∨ s.far (gaddr i t / 2 ^ 44) = true →
    (s.flag (Fld.vblCtxCtrlCache t.ctx) = true → s.staged? i.core t.ctx (2 ^ 64 + gaddr i t / 4096 * 4096) = none) →
    ∀ u, u = ((s.turn i).lineRead i.core i.slot t.ctx (qRegD i) (gaddr i t)).vblPump →
      poisonLeaves (s.turn i) (.stay u) = false → exec (.rld i) s = .next (u.noteIssue i.core i.slot)) ∧
  (∀ (s : State) core slot c sd a r ws, s.vbl.reqs = [r] → r.ctx = c → r.addr = a / 4096 * 4096 → r.use = .line core ws →
    (s.lineRead core slot c sd a).vbl.reqs = [{ r with use := .line core (ws ++ [(core, slot, sd, a % 4096)]) }]) ∧
  (∀ (s : State) core slot c sd a, s.vbl.reqs = [] → s.vbl.batches = [] →
    (s.lineRead core slot c sd a).vbl.reqs = [⟨s.vbl.nextNum, c, .line core [(core, slot, sd, a % 4096)], a / 4096 * 4096 / 2 ^ 44, 1,
      s.reqClass c 4096 false, s.jobOf c, a / 4096 * 4096, 4096, [], none, 0, none⟩])

/-- R390, R391, R404, R405, R408, R418: RST and DOORBELL are posted while their core's queue has room; a store to a far node joins or begins its
batch; INV drops the cached copies of its range. A full queue holds the instruction back. -/
def Obligations.FabricPosts : Prop :=
  (∀ i s t, Executes rstSpec i s t → gaddr i t % 8 = 0 → t.regPoison (qRegA i) = false → t.regPoison (qRegB i) = false →
    s.queued i.core < 256 → s.far (gaddr i t / 2 ^ 44) = false →
    posts .rst i s ((fabricAt i s t).asking i t (.store i.core) 2 8 8 (leBytes 8 (t.reg (qRegB i)).toNat))) ∧
  (∀ i s t, Executes rstSpec i s t → gaddr i t % 8 = 0 → t.regPoison (qRegA i) = false → t.regPoison (qRegB i) = false →
    s.queued i.core < 256 → s.far (gaddr i t / 2 ^ 44) = true →
    posts .rst i s ((s.turn i).hinge i.core i.slot t.ctx (gaddr i t) (leBytes 8 (t.reg (qRegB i)).toNat))) ∧
  (∀ (s : State) core slot c a bs b, s.vbl.batches = [b] → b.ctx = c → b.dst = a / 2 ^ 44 → b.closed = false →
    a = b.addr + b.data.length → b.data.length + bs.length < 65536 → b.tasks = [(core, slot)] →
    s.hinge core slot c a bs = { s with vbl.batches := [{ b with data := b.data ++ bs }] }) ∧
  (∀ (s : State) core slot c a bs, s.vbl.batches = [] →
    s.hinge core slot c a bs = { s with vbl.batches := [⟨c, [(core, slot)], false, a / 2 ^ 44, a, bs, s.tick⟩] }) ∧
  (∀ i s t, Executes doorbellSpec i s t → gaddr i t % 8 = 0 → t.regPoison (qRegA i) = false → t.regPoison (qRegB i) = false →
    s.queued i.core < 256 →
    posts .doorbell i s ((fabricAt i s t).asking i t (.bell i.core) 6 8 (t.reg (qRegB i)).toNat [])) ∧
  (∀ i s t, Executes doorbellSpec i s t → gaddr i t % 8 = 0 → t.regPoison (qRegA i) = false → t.regPoison (qRegB i) = false →
    256 ≤ s.queued i.core → exec (.doorbell i) s = .next (s.markHeld i.core i.slot)) ∧
  (∀ i s t, Executes invSpec i s t → t.regPoison (qRegA i) = false → t.regPoison (qRegB i) = false →
    s.older i.core i.slot = false →
    exec (.inv i) s = .next (((s.turn i).invDrop t.ctx (gaddr i t) (t.reg (qRegB i)).toNat).retire i false)) ∧
  (∀ (s : State) core c g n p, s.cores.pools = [(64 * core + c, p)] → c < 64 → (∀ y, y ∈ p.tiles → y.holders = []) →
    (s.invDrop c g n).pool core c = { p with tiles := p.tiles.filter fun y =>
      !(match s.copyGlobal c y.addr with
        | some b => n != 0 && b < g + n && g < b + 4096
        | none => false) })

/-- R390, R392, R402, R416: a request's outcome writes SD and the status word in s63 and lets its task go on past the instruction: the data
of a load that is OK, 0 for a load or atomic that is neither OK nor POISONED, the lease status word of a lease. R405, R412, R416: the hinge
sends a batch HOLD ticks after its first store; a request is sent again at 2, 4 and 6 ms and completes with OUTCOME_UNKNOWN at 8 ms; a held
acquire is presented again at its tick, behind the requests issued since, and closes the batch to its node (R393). -/
def Obligations.FabricOutcomesAndTimers : Prop :=
  (∀ (s : State) num r core slot sd t status data, s.req? num = some r → r.use = .load core slot sd → s.task? core slot = some t →
    t.request = some num → t.state = .ready → status ≠ 5 →
    (s.finish num status 0 data).task? core slot = some { (t.setReg sd (if status = 0 then BitVec.ofNat 64 (leAt data 0 8) else 0#64)
      false).setReg 63 (BitVec.ofNat 64 status) false with
        request := none, wait := none, pc := t.pc + 8#44, retired := t.retired + 1 }) ∧
  (∀ (s : State) num r core slot sd func t status result, s.req? num = some r → r.use = .atom core slot sd func →
    s.task? core slot = some t → t.request = some num → t.state = .ready → status ≠ 5 →
    (s.finish num status result []).task? core slot = some { (t.setReg sd (if status ≠ 0 then 0#64
      else if func = 0 then (BitVec.ofNat 32 result).signExtend 64
      else if func = 2 then (BitVec.ofNat 32 result).setWidth 64 else BitVec.ofNat 64 result) false).setReg 63
        (BitVec.ofNat 64 status) false with
        request := none, wait := none, pc := t.pc + 8#44, retired := t.retired + 1 }) ∧
  (∀ (s : State) num r core slot sd t status result, s.req? num = some r → r.use = .acquire core slot sd →
    s.task? core slot = some t → t.request = some num → t.state = .ready → status ≠ 6 →
    (s.finish num status result []).task? core slot = some { t.setReg sd
      (BitVec.ofNat 64 (status + (if status = 7 then result % 2 ^ 26 * 2 ^ 16 else 0))) false with
        request := none, wait := none, pc := t.pc + 8#44, retired := t.retired + 1 }) ∧
  (∀ (s : State) num r core slot sd t expiry, s.req? num = some r → r.use = .acquire core slot sd → s.task? core slot = some t →
    t.request = some num → t.state = .ready →
    ∃ u v, s.finish num 6 expiry [] = u ∧ u.task? core slot = some v ∧ v.state = .waiting ∧ v.wait = some .lease ∧ v.pc = t.pc ∧
      v.s = t.s ∧ u.req? num = some { r with first := none, resends := 0, again := some (min expiry (s.tick + 2500)) }) ∧
  (∀ (c : CtxId) (node : BitVec 20) s, s.flag Fld.timStatusPllLock = true → s.vbl.breaks = [] → s.trp.refused = [] →
    (∀ r, r ∈ s.vbl.reqs → r.first ≠ none) → ∃ u, exec (.hingeHoldExpiry c node) s = .next u ∧
    u.vbl.batches = s.vbl.batches.filter fun b => !(b.closed || (b.ctx == c.val && b.dst == node.toNat &&
      decide (b.since + max 1 (s.get Fld.vblHingeHold) ≤ s.tick)))) ∧
  (∀ num s r t, s.flag Fld.timStatusPllLock = true → s.req? num = some r → r.first = some t → r.ptype ≠ 6 → r.resends < 3 →
    t + 500000 * (r.resends + 1) ≤ s.tick →
    ∃ u, exec (.requestResend num) s = .next u ∧ u.req? num = some { r with resends := r.resends + 1 } ∧
      (r.dst = s.ownNode → u = s.modReq num fun r => { r with resends := r.resends + 1 })) ∧
  (∀ num s r t, s.req? num = some r → r.first = some t → s.tick < t + 500000 * (r.resends + 1) →
    exec (.requestResend num) s = .next s) ∧
  (∀ num s r t, s.req? num = some r → r.first = some t → r.ptype ≠ 6 → t + 2000000 ≤ s.tick →
    exec (.outcomeUnknown num) s = .next (s.clocked ((s.finish num 4 0 []).cancelMsg r).vblPump)) ∧
  (∀ num s r t, s.req? num = some r → r.first = some t → s.tick < t + 2000000 → exec (.outcomeUnknown num) s = .next s) ∧
  (∀ num s r t core slot sd k, s.req? num = some r → r.again = some t → r.use = .acquire core slot sd → t ≤ s.tick →
    s.task? core slot = some k → k.ctx = r.ctx → k.state = .waiting → k.wait = some .lease → s.runs r.ctx = true →
    ∀ w : State, w = (s.setTask core slot { k with request := some num }).closeFor r.ctx r.dst →
      exec (.leaseRetry num) s = .next (s.clocked ({ w with
        vbl.reqs := (w.vbl.reqs.filter fun (q : Req) => q.num != num) ++ [{ r with again := none }] } : State).vblPump)) ∧
  (∀ num s r t core slot sd, s.req? num = some r → r.again = some t → r.use = .acquire core slot sd → s.tick < t →
    exec (.leaseRetry num) s = .next s)

/-- R372, R373, R377: a T_ACK takes the packets that it covers; a connection whose oldest packet is as old as LIFETIME fails, is counted,
and its next generation opens; a packet that fails a check of R378 has no effect but the count, one for another node goes to transit, and
one in sequence is delivered. R369, R373, R374, R376, R385, R396, R397: a T_ACK leaves 2 µs after the first packet that it is to cover; the
oldest packet goes out again when RTO passes, which doubles; a transit packet goes on one hop further, as traffic of the partition that owns
the port or as module traffic, or is dropped without a path; an idle connection is evicted after the quiet time, and what waited for it goes
ahead. -/
def Obligations.TransportReceivesAndTimers : Prop :=
  (∀ s p b rest, s.trp.inbox = (p, b) :: rest → (PacketIn.of b).ok = false →
    exec .transportPacketReceive s = .next (s.clocked (({ s with trp.inbox := rest } : State).bump Fld.trpBadPktCount))) ∧
  (∀ s p b rest, s.trp.inbox = (p, b) :: rest → (PacketIn.of b).ok = true →
    s.lifetime < (PacketIn.of b).age ∨ (PacketIn.of b).hops = 255 →
    exec .transportPacketReceive s = .next (s.clocked (({ s with trp.inbox := rest } : State).bump (Fld.lnkAgeDropCount p)))) ∧
  (∀ s p b rest, s.trp.inbox = (p, b) :: rest → (PacketIn.of b).ok = true → (PacketIn.of b).age ≤ s.lifetime →
    (PacketIn.of b).hops ≠ 255 → s.flag Fld.vblNodeValid = false ∨ (PacketIn.of b).dst ≠ s.ownNode →
    exec .transportPacketReceive s = .next (s.clocked { s with trp.inbox := rest, trp.transit := s.trp.transit ++ [⟨p, s.tick, b⟩] })) ∧
  (∀ s p b rest, s.trp.inbox = (p, b) :: rest → (PacketIn.of b).ok = true → (PacketIn.of b).age ≤ s.lifetime →
    (PacketIn.of b).hops ≠ 255 → s.flag Fld.vblNodeValid = true → (PacketIn.of b).dst = s.ownNode → (PacketIn.of b).pt = ptTAck →
    exec .transportPacketReceive s = .next (s.clocked { s with trp.inbox := rest, trp.acks := s.trp.acks ++
      [⟨(PacketIn.of b).src, (PacketIn.of b).gen, (PacketIn.of b).aclass, leAt (PacketIn.of b).block 8 4, (PacketIn.of b).reset⟩] })) ∧
  (∀ s p b rest, s.flag Fld.timStatusPllLock = true → s.trp.inbox = (p, b) :: rest → (PacketIn.of b).ok = true →
    (PacketIn.of b).age ≤ s.lifetime →
    (PacketIn.of b).hops ≠ 255 → s.flag Fld.vblNodeValid = true → (PacketIn.of b).dst = s.ownNode → (PacketIn.of b).pt ≠ ptTAck →
    SMap.get? s.trp.rx (PacketIn.of b).src = none → (PacketIn.of b).syn = true → s.trp.rx.length < connLimit →
    (PacketIn.of b).tseq = 0 → (PacketIn.of b).last = true →
    ∃ u m x, exec .transportPacketReceive s = .next u ∧ u.trp.inbox = rest ∧ u.vbl.inbox = s.vbl.inbox ++ [m] ∧
      m.src = (PacketIn.of b).src ∧ m.mid = (PacketIn.of b).mid ∧ m.ptype = (PacketIn.of b).pt ∧ m.data = (PacketIn.of b).data ∧
      m.block = (PacketIn.of b).block ∧ SMap.get? u.trp.rx (PacketIn.of b).src = some x ∧ x.gen = (PacketIn.of b).gen ∧
      x.next.getD (PacketIn.of b).cls 0 = 1) ∧
  (∀ s a rest x, s.flag Fld.timStatusPllLock = true → restful s → s.trp.acks = a :: rest → a.reset = false → s.txConn a.src = some x →
    x.gen = a.gen → x.msgs = [] →
    x.todo = [] → x.wait = [] →
    ∃ u y, exec .tAckReceive s = .next u ∧ u.trp.acks = rest ∧ u.txConn a.src = some y ∧
      y.unacked.map (fun p => (p.cls, p.tseq)) = (x.unacked.filter fun p => !(p.cls == a.cls && seqBelow p.tseq a.next)).map
        (fun p => (p.cls, p.tseq))) ∧
  (∀ s a rest, s.trp.acks = a :: rest → s.txConn a.src = none → exec .tAckReceive s = .next (s.clocked { s with trp.acks := rest })) ∧
  (∀ (node : BitVec 20) s x, s.flag Fld.timStatusPllLock = true → restful s → s.txConn node.toNat = some x → s.hasPath node.toNat = true →
    x.msgs = [] → x.wait = [] →
    (∃ p, p ∈ x.unacked ∧ p.first + s.lifetime * 250 ≤ s.tick) →
    ∃ u y, exec (.connectionFail node) s = .next u ∧ u.txConn node.toNat = some y ∧ y.gen = (x.gen + 1) % 16 ∧ y.unacked = [] ∧
      y.syn = true ∧ u.get Fld.trpGiveupCount = min (s.get Fld.trpGiveupCount + 1) (2 ^ 32 - 1)) ∧
  (∀ (node : BitVec 20) s, s.connFailed node.toNat = false → exec (.connectionFail node) s = .next s) ∧
  (∀ (node : BitVec 20) (cls : Fin 4) s x n t, SMap.get? s.trp.rx node.toNat = some x → x.unack.getD cls (0, 0) = (n, t) → n ≠ 0 →
    t + 500 ≤ s.tick →
    exec (.tAckTimer node cls) s = .next (s.clocked ((s.setRx node.toNat
      { x with unack := x.unack.set cls (0, 0) }).sendTAck node.toNat x.gen cls (x.next.getD cls 0) false))) ∧
  (∀ (node : BitVec 20) (cls : Fin 4) s x, SMap.get? s.trp.rx node.toNat = some x → (x.unack.getD cls (0, 0)).1 = 0 →
    exec (.tAckTimer node cls) s = .next s) ∧
  (∀ (node : BitVec 20) (cls : Fin 4) s x p l, s.txConn node.toNat = some x → x.unacked = p :: l → p.cls = cls.val →
    p.last + p.rto * 250 ≤ s.tick →
    exec (.rtoExpiry node cls) s = .next (s.clocked (((s.setTx node.toNat { x with
      unacked := { p with last := s.tick, rto := min (2 * p.rto) (16 * max 1 (s.get Fld.trpRtoRto)) } :: l }).bump
        Fld.trpRetxCount).sendPacket s.ownNode node.toNat cls p.job p.bytes))) ∧
  (∀ s k rest, s.trp.transit = k :: rest → s.lifetime < (PacketIn.of k.bytes).age + s.ageOf k ∨ 254 ≤ (PacketIn.of k.bytes).hops →
    exec .transitForward s = .next (s.clocked (({ s with trp.transit := rest } : State).bump (Fld.lnkAgeDropCount k.port)))) ∧
  (∀ s k rest, s.trp.transit = k :: rest → (PacketIn.of k.bytes).age + s.ageOf k ≤ s.lifetime → (PacketIn.of k.bytes).hops < 254 →
    s.pathPort (PacketIn.of k.bytes).src (PacketIn.of k.bytes).dst (PacketIn.of k.bytes).cls = none →
    exec .transitForward s = .next (s.clocked (({ s with trp.transit := rest } : State).bump Fld.vblFwdDropCount))) ∧
  (∀ s k rest p, s.trp.transit = k :: rest → (PacketIn.of k.bytes).age + s.ageOf k ≤ s.lifetime → (PacketIn.of k.bytes).hops < 254 →
    s.pathPort (PacketIn.of k.bytes).src (PacketIn.of k.bytes).dst (PacketIn.of k.bytes).cls = some p →
    exec .transitForward s = .next (s.clocked (({ s with trp.transit := rest } : State).portSend p (PacketIn.of k.bytes).dst
      (PacketIn.of k.bytes).cls (if (s.portOwner p).isSome then (PacketIn.of k.bytes).job else 0) (s.portOwner p)
      (k.bytes.take 19 ++ leBytes 1 ((PacketIn.of k.bytes).hops + 1) ++
        leBytes 2 ((PacketIn.of k.bytes).age + s.ageOf k) ++ k.bytes.drop 22)))) ∧
  (∀ (node : BitVec 20) s x, SMap.get? s.trp.rx node.toNat = some x → x.held = [] → x.parts = [] →
    (∀ u, u ∈ x.unack → u.1 = 0) → x.idle + 500 * s.lifetime ≤ s.tick →
    exec (.connIdleEvict false node) s = .next (s.clocked { s with trp.rx := SMap.del s.trp.rx node.toNat })) ∧
  (∀ (node : BitVec 20) s x, s.txConn node.toNat = some x → x.unacked = [] → x.todo = [] → x.msgs = [] → x.wait = [] →
    x.idle + 500 * s.lifetime ≤ s.tick → s.trp.full = [] →
    exec (.connIdleEvict true node) s = .next (s.clocked { s with trp.tx := SMap.del s.trp.tx node.toNat })) ∧
  (∀ (node : BitVec 20) s x t, s.txConn node.toNat = some x → x.isOpen = false → SMap.get? x.used x.gen = some t → x.wait = [] →
    x.todo = [] →
    exec (.quietTimeExpiry node) s = .next (s.clocked (s.setTx node.toNat { x with isOpen := decide (t + 500 * s.lifetime ≤ s.tick) })))

namespace Sys2Proof.Machine

/-- New value of the word that an ATOMIC acts on (R410). -/
def atomicWord (func old opnd cmp : Nat) : Nat :=
  match func with
  | 0 => (BitVec.ofNat 32 old + BitVec.ofNat 32 opnd).toNat
  | 1 => (BitVec.ofNat 64 old + BitVec.ofNat 64 opnd).toNat
  | 2 => (f32Canon (f32Add (BitVec.ofNat 32 old) (BitVec.ofNat 32 opnd)).1).toNat
  | 3 => opnd
  | 4 => if old = cmp then opnd else old
  | 5 => if (BitVec.ofNat 64 old).sle (BitVec.ofNat 64 opnd) then old else opnd
  | _ => if (BitVec.ofNat 64 old).sle (BitVec.ofNat 64 opnd) then opnd else old

/-- Bytes of the word that an ATOMIC acts on (R410). -/
def atomicWidth (func : Nat) : Nat := if func = 0 ∨ func = 2 then 4 else 8

/-- The endpoint after its first message has been taken up. -/
def State.took (s : State) (rest : List RxMsg) : State := { s with vbl.inbox := rest }

/-- The first message is of a type, and what follows it; no earlier request of its source waits for the reply cache (R393). -/
def firstMsg (s : State) (ptype : Nat) (m : RxMsg) (rest : List RxMsg) : Prop :=
  s.vbl.inbox = m :: rest ∧ m.ptype = ptype ∧ s.behind m = false

/-- The request may be answered in its own class: it is not EX, or its window accepts EX (R399). -/
def keepsClass (s : State) (m : RxMsg) (window : Nat) : Prop := m.cls ≠ 0 ∨ s.flag (Fld.winKeyExpress window) = true

/-- An ATOMIC or a LEASE that is applied: no reply is kept for it, every check passes, the cache has room and its sector is clean. -/
structure Applies (s : State) (m : RxMsg) (t : Target) : Prop where
  fresh : s.cached m = none
  checked : s.reqCheck m.copy m.job m.ptype m.addr m.opnd m.data = .ok t
  room : s.cacheFull = false
  clean : s.mem.poisoned (s.key t.ctx t.addr / 64) = false
  cls : keepsClass s m t.window

end Sys2Proof.Machine

/-- R399, R400, R402: an RD that passes the checks of R399 is answered with the bytes, or with POISONED and no data where a sector is
poisoned; a WR that passed them writes its bytes, and is answered once the T2 tiles that it wrote are acknowledged (R258); an EX request at
a window that does not accept EX is demoted; a refused request is counted, reported and answered, and memory stays. A request behind one of
its source that waits for the reply cache waits too (R393). -/
def Obligations.ReadsAndWritesServed : Prop :=
  (∀ s m rest t, firstMsg s 1 m rest → s.reqCheck m.copy m.job 1 m.addr m.opnd [] = .ok t → keepsClass s m t.window →
    exec .rdReceive s = .next (s.clocked ((if (s.spaceRead t.ctx t.addr m.opnd).2 then (s.took rest).respond m m.cls 5 0 []
      else (s.took rest).respond m m.cls 0 0 (s.spaceRead t.ctx t.addr m.opnd).1).vblPump))) ∧
  (∀ s m rest, s.vbl.inbox = m :: rest → m.ptype = 1 → s.behind m = true →
    exec .rdReceive s = .next (s.clocked { s with vbl.inbox := rest, vbl.blocked := s.vbl.blocked ++ [m] })) ∧
  (∀ s m rest t w, firstMsg s 1 m rest → s.reqCheck m.copy m.job 1 m.addr m.opnd [] = .ok t → ¬ keepsClass s m t.window →
    w = (s.took rest).bump Fld.vblExDemotedCount → (w.spaceRead t.ctx t.addr m.opnd).2 = false →
    exec .rdReceive s = .next (s.clocked ((w.respond m 1 0 0 (w.spaceRead t.ctx t.addr m.opnd).1).vblPump))) ∧
  (∀ s m rest e, firstMsg s 1 m rest → s.reqCheck m.copy m.job 1 m.addr m.opnd [] = .error e →
    exec .rdReceive s = .next (s.clocked (((s.took rest).deny m e).vblPump))) ∧
  (∀ s m rest w c a, firstMsg s 2 m rest → m.status = 0 → m.data.length = m.opnd → s.winFind m.copy (m.addr % 2 ^ 44) = some w →
    keepsClass s m w → c = s.get (Fld.winTgtContext w) →
    a = s.get64 (Reg.winTarget w) % 2 ^ 44 + (m.addr % 2 ^ 44 - s.get64 (Reg.winBase w) % 2 ^ 44) →
    ∀ u : State, u = (s.took rest).spaceWrite c a m.data →
      (u.awaited c a m.data.length = [] → exec .wrReceive s = .next (s.clocked ((u.respond m m.cls 0 0 []).vblPump))) ∧
      (u.awaited c a m.data.length ≠ [] →
        exec .wrReceive s = .next (s.clocked { u with vbl.late := u.vbl.late ++ [(m, m.cls, u.awaited c a m.data.length)] }))) ∧
  (∀ s m rest, firstMsg s 2 m rest → m.status ≠ 0 →
    exec .wrReceive s = .next (s.clocked (((s.took rest).deny m m.status).vblPump))) ∧
  (∀ (s : State) m e, (s.refuseReq m e).mem = s.mem ∧
    (s.refuseReq m e).get Fld.vblRxDeniedCount = min (s.get Fld.vblRxDeniedCount + 1) (2 ^ 32 - 1)) ∧
  (∀ (s : State) m cls status result data, m.src = s.ownNode → data.length ≤ 256 →
    s.respond m cls status result data = { s with vbl.inbox := s.vbl.inbox ++ [⟨m.src, 0, 0, 0x40, cls, m.job, 0, 0,
      leBytes 2 m.mid ++ leBytes 1 m.gen ++ leBytes 1 status ++ leBytes 4 0 ++ leBytes 8 result, data⟩] })

/-- R402, R403, R410, R411: an ATOMIC that is applied writes the new value of its word, answers with the old one and keeps the reply for 8
ms; one that a kept reply answers is not applied again; with the cache full it waits; an entry expires 8 ms after it was kept. R413, R415: a
LEASE acts on its lock by the table of R415, and its reply is kept as an atomic's is. -/
def Obligations.AtomicsAndLeasesServed : Prop :=
  (∀ s m rest t, firstMsg s 3 m rest → Applies (s.took rest) m t →
    let func := leAt m.data 0 1
    let old := ofLe (s.spaceRead t.ctx t.addr (atomicWidth func)).1
    let w := (s.took rest).spaceWrite t.ctx t.addr
      (leBytes (atomicWidth func) (atomicWord func old m.opnd (leAt m.data 8 8)))
    exec .atomicReceive s = .next (s.clocked ((({ w with vbl.cache := w.vbl.cache ++ [⟨m.src, m.mid, m.gen, 0, old, s.tick⟩] } : State).respond m
      m.cls 0 old []).vblPump))) ∧
  (∀ s m rest e w, firstMsg s 3 m rest → s.cached m = some e → w = ((s.took rest).bump Fld.vblRcacheHitCount).demoted m →
    exec .atomicReceive s = .next (s.clocked ((w.1.respond m w.2 e.status e.result []).vblPump))) ∧
  (∀ s m rest t, firstMsg s 3 m rest → s.cached m = none → s.reqCheck m.copy m.job 3 m.addr m.opnd m.data = .ok t →
    s.cacheFull = true →
    exec .atomicReceive s = .next (s.clocked ((({ s.took rest with vbl.blocked := s.vbl.blocked ++ [m] } : State).bump
      Fld.vblRcacheFullCount).vblPump))) ∧
  (∀ s m rest t, firstMsg s 3 m rest → s.cached m = none → s.reqCheck m.copy m.job 3 m.addr m.opnd m.data = .ok t →
    s.cacheFull = false → keepsClass s m t.window → s.mem.poisoned (s.key t.ctx t.addr / 64) = true →
    exec .atomicReceive s = .next (s.clocked (((s.took rest).respond m m.cls 5 0 []).vblPump))) ∧
  (∀ s, exec .rcacheExpiry s = .next (s.clocked { s with
    vbl.cache := s.vbl.cache.filter (fun e => decide (s.tick < e.since + 2000000)), vbl.inbox := s.vbl.blocked ++ s.vbl.inbox,
    vbl.blocked := [] })) ∧
  (∀ s m rest t l r, firstMsg s 4 m rest → Applies (s.took rest) m t → leAt m.data 0 1 = 0 →
    l = Lock.of (s.spaceRead t.ctx t.addr 32).1 → r = l.acquire (m.src + leAt m.data 1 1 % 64 * 2 ^ 20) (leAt m.data 4 4) m.opnd s.tick →
    ∃ w : State, w = (if r.1 = l then s.took rest else (s.took rest).spaceWrite t.ctx t.addr r.1.bytes) ∧
      exec .leaseReceive s = .next (s.clocked (((w.applied m m.cls r.2.1 r.2.2)).vblPump))) ∧
  (∀ s m rest t l r, firstMsg s 4 m rest → Applies (s.took rest) m t → leAt m.data 0 1 = 1 →
    l = Lock.of (s.spaceRead t.ctx t.addr 32).1 → r = l.release (m.src + leAt m.data 1 1 % 64 * 2 ^ 20) (leAt m.data 4 4) →
    ∃ w : State, w = (if r.1 = l then s.took rest else (s.took rest).spaceWrite t.ctx t.addr r.1.bytes) ∧
      exec .leaseReceive s = .next (s.clocked (((w.applied m m.cls r.2 0)).vblPump))) ∧
  (∀ (l : Lock) owner inc len tick, l.state = 0 →
    l.acquire owner inc len tick = (⟨owner, 1, inc, (tick + len) % 2 ^ 64, l.owner, l.inc⟩, 0, 0)) ∧
  (∀ (l : Lock) owner inc len tick, l.state = 1 → tick < l.expiry →
    l.acquire owner inc len tick =
      if l.owner ≠ owner then (l, 6, l.expiry)
      else if l.inc = inc then ({ l with expiry := (tick + len) % 2 ^ 64 }, 0, 0)
      else (⟨owner, 1, inc, (tick + len) % 2 ^ 64, l.owner, l.inc⟩, 7, l.owner)) ∧
  (∀ (l : Lock) owner inc len tick, (l.state = 1 ∧ l.expiry ≤ tick) ∨ l.state = 2 →
    l.acquire owner inc len tick = (⟨owner, 1, inc, (tick + len) % 2 ^ 64, l.owner, l.inc⟩, 7, l.owner)) ∧
  (∀ (l : Lock) owner inc, l.state = 1 → l.owner = owner →
    l.release owner inc = if l.inc = inc then (⟨0, 0, 0, 0, 0, 0⟩, 0) else ({ l with state := 2 }, 0)) ∧
  (∀ (l : Lock) owner inc, l.state ≠ 1 ∨ l.owner ≠ owner → l.release owner inc = (l, 8))

/-- R288, R392, R409, R412, R418: a received INV drops the copies of the contexts of its job and answers OK; a doorbell in order moves the
tail that its number names; a response completes the request that it answers, and one that answers none is counted. -/
def Obligations.InvalidationsBellsAndResponses : Prop :=
  (∀ s m rest c, firstMsg s 5 m rest → c < 64 →
    (∀ k, k < 64 → (s.ctxState k ≠ ctxIdle ∧ s.jobOf k = m.job ↔ k = c)) →
    exec .invReceive s = .next (s.clocked ((((s.took rest).invDrop c m.addr m.opnd).respond m m.cls 0 0 []).vblPump))) ∧
  (∀ s m rest (c : CtxId), firstMsg s 6 m rest → m.src ≠ s.ownNode → m.addr = s.ownNode * 2 ^ 44 + 0xFFFFFFF0000 + 64 * c →
    s.jobOf c = m.job → exec .doorbellReceive s = .next (s.clocked ((s.took rest).lvrTail c m.opnd))) ∧
  (∀ s m rest (c : CtxId), firstMsg s 6 m rest → m.src ≠ s.ownNode → m.addr = s.ownNode * 2 ^ 44 + 0xFFFFFFF0000 + 64 * c + 8 →
    s.jobOf c = m.job → exec .doorbellReceive s = .next (s.clocked ((s.took rest).migTail c m.opnd))) ∧
  (∀ s m rest, firstMsg s 6 m rest → m.src ≠ s.ownNode → m.addr % 8 ≠ 0 →
    exec .doorbellReceive s = .next (s.clocked ((s.took rest).refuseReq m 2))) ∧
  (∀ s m rest (c : CtxId) d, firstMsg s 6 m rest → m.src ≠ s.ownNode → d < 8 →
    m.addr = s.ownNode * 2 ^ 44 + 0xFFFFFFF0000 + 64 * c + 8 * d → s.jobOf c ≠ m.job →
    exec .doorbellReceive s = .next (s.clocked ((s.took rest).refuseReq m 1))) ∧
  (∀ s m rest num, firstMsg s 0x40 m rest → (s.took rest).asker m = some num →
    exec .rspReceive s = .next (s.clocked ((((s.took rest).finish num (if leAt m.block 3 1 < 9 then leAt m.block 3 1 else 2) (leAt m.block 8 8)
      m.data).retireMsg m.src (leAt m.block 0 2)).vblPump))) ∧
  (∀ s m rest, firstMsg s 0x40 m rest → (s.took rest).asker m = none →
    exec .rspReceive s = .next (s.clocked ((s.took rest).bump Fld.vblLateRspCount)))

namespace Sys2Proof.Machine

/-- An armed switch at a tick: late under 2,048 ticks ahead, pending otherwise, ignored and counted while one is pending (R324, R339, R401). -/
def armsSwitch (cmd : Requester → Instr) (ctrl : Nat) (armed late : Fld) (tick src code : Nat) : Prop :=
  (∀ req s, s.accepts req ctrl 2 = true → s.flag armed = false → s.tick + 2048 ≤ s.get64 tick →
    exec (cmd req) s = .next (s.put armed 1)) ∧
  (∀ req s, s.accepts req ctrl 2 = true → s.flag armed = false → s.get64 tick < s.tick + 2048 →
    exec (cmd req) s = .next ((s.put late 1).raiseMod src code 1 (s.get64 tick) s.tick)) ∧
  (∀ req s, s.accepts req ctrl 2 = true → s.flag armed = true → exec (cmd req) s = .next (s.misuse req))

/-- At the named tick ACTIVE changes, ARMED clears, SWITCHED is set and the event is written; before it nothing changes (R324, R401). -/
def switches (cmd : Instr) (armed active switched : Fld) (tick src code : Nat) : Prop :=
  (∀ s, s.flag armed = true → s.get64 tick ≤ s.tick →
    exec cmd s = .next (s.clocked ((((s.put armed 0).put active (1 - s.get active)).put switched 1).raiseMod src code 0 (s.get64 tick)
      (1 - s.get active)))) ∧
  (∀ s, s.flag armed = false ∨ s.tick < s.get64 tick → exec cmd s = .next s)

/-- A packet of one destination that its source may send on the mesh. -/
structure Sendable (s : State) (p : MeshPacket) : Prop where
  clocks : s.flag Fld.timStatusPllLock = true
  lawful : s.packetLawful p = true
  plain : p.members = []
  up : s.stopOut (s.fromStop p.src) = false

/-- A flit of one destination that its stop may send now on an output `o`: the clocks run, the source's EX shaper has let it in, it stands
first in its channel, there is room beyond its output, and its output sends it next (R318, R319). -/
structure SentNext (s : State) (i : Nat) (f : Flit) (d q o : Nat) : Prop where
  clocks : s.flag Fld.timStatusPllLock = true
  there : s.mesh.flits[i]? = some f
  one : f.members = [(d, q)]
  up : s.stopOut f.at_ = false
  hops : f.hops ≤ 48
  admitted : f.admitted = true
  first : s.chanHead i f = true
  room : s.roomAhead f = true
  output : s.flitOuts f = [o]
  sends : (s.outTakes f o).isSome = true

end Sys2Proof.Machine

/-- R324, R339, R401, R535: the route tables, the window table and the divider change at an armed tick, as armed at least 2,048 ticks ahead;
a late arm only sets its LATE bit and writes its event. Arming ÷4 under ÷5 begins to raise the VCORE setpoint of every powered region, and
÷5 in force begins to lower it, by 10 mV in each µs. -/
def Obligations.ArmedSwitches : Prop :=
  armsSwitch .netTblArm Reg.netTblCtrl Fld.netTblStatusArmed Fld.netTblStatusLate Reg.netSwitchTick srcNet 0x0504 ∧
  armsSwitch .vblTblArm Reg.vblTblCtrl Fld.vblTblStatusArmed Fld.vblTblStatusLate Reg.vblSwitchTick srcVirbael 0x0804 ∧
  switches .netTblSwitch Fld.netTblStatusArmed Fld.netTblCtrlActive Fld.netTblStatusSwitched Reg.netSwitchTick srcNet 0x0503 ∧
  switches .vblTblSwitch Fld.vblTblStatusArmed Fld.vblTblCtrlActive Fld.vblTblStatusSwitched Reg.vblSwitchTick srcVirbael 0x0803 ∧
  (∀ req (v : BitVec 32) s, s.accepts req Reg.timCtrl v.toNat = true → v.getLsbD 30 = true → v.getLsbD 31 = false →
    s.flag Fld.timStatusDivArmed = false → s.tick + 2048 ≤ s.get64 Reg.timDivTick →
    ∃ u, exec (.timDivArm req v) s = .next u ∧ u.flag Fld.timStatusDivArmed = true ∧
      u.get Fld.timCtrlDivNext = field v.toNat 17 1 ∧ u.get Fld.timStatusDiv = s.get Fld.timStatusDiv ∧ u.tick = s.tick ∧
      u.pwr.vcore = (if s.get Fld.timStatusDiv = 1 ∧ v.getLsbD 17 = false then s.vcoreMove 750 else s).pwr.vcore) ∧
  (∀ req (v : BitVec 32) s, s.accepts req Reg.timCtrl v.toNat = true → v.getLsbD 30 = true → v.getLsbD 31 = false →
    s.flag Fld.timStatusDivArmed = false → s.get64 Reg.timDivTick < s.tick + 2048 →
    ∃ u, exec (.timDivArm req v) s = .next u ∧ u.flag Fld.timStatusDivArmed = false ∧ u.flag Fld.timStatusDivLate = true) ∧
  (∀ s, s.flag Fld.timStatusDivArmed = true → s.get64 Reg.timDivTick ≤ s.tick →
    ∀ w : State, w = (if s.get Fld.timStatusDiv = 0 ∧ s.get Fld.timCtrlDivNext = 1 then s.vcoreMove 680 else s) →
      exec .divChange s = .next (s.clocked ((w.put Fld.timStatusDiv (s.get Fld.timCtrlDivNext)).put Fld.timStatusDivArmed 0))) ∧
  (∀ (s : State) r goal v, r < 384 → s.vcore r = some v → (s.vcoreMove goal).vcore r = some v ∧
    SMap.get? (s.vcoreMove goal).pwr.vcore r = some ⟨v, goal, s.tick⟩) ∧
  (∀ (v : Vcore) tick, v.at_ ≤ tick → v.start ≤ v.goal → v.now tick = min v.goal (v.start + (tick - v.at_) / 25)) ∧
  (∀ s, s.flag Fld.timStatusDivArmed = false ∨ s.tick < s.get64 Reg.timDivTick → exec .divChange s = .next s)

/-- R340, R342, R347, R349: ACQUIRE aligns a master at once and makes another module measure, or is refused; a lost reference or lost
markers turn an ALIGNED module to HOLDOVER, which becomes UNALIGNED after 1 ms; a lost PLL lock stops the clocks. -/
def Obligations.TimeUnitStates : Prop :=
  (∀ req (v : BitVec 32) s, s.accepts req Reg.timCtrl v.toNat = true → v.getLsbD 31 = true → v.getLsbD 16 = true →
    v.getLsbD 1 = false → s.anyRunning = false → s.tick ≤ s.get64 Reg.timSet →
    ∃ u, exec (.timAcquire req v) s = .next u ∧ u.tim.own = 2 ∧ u.get Fld.timStatusState = 2 ∧ u.tick = s.get64 Reg.timSet) ∧
  (∀ req (v : BitVec 32) s, s.accepts req Reg.timCtrl v.toNat = true → v.getLsbD 31 = true → v.getLsbD 16 = false →
    field v.toNat 0 2 ≠ 3 → field v.toNat 2 7 < 80 → (portDir (field v.toNat 2 7)).isSome = true →
    s.portState (field v.toNat 2 7) = portActive →
    ∃ u, exec (.timAcquire req v) s = .next u ∧ u.tim.own = 1 ∧ u.tim.count = 0 ∧ u.tick = s.tick) ∧
  (∀ req (v : BitVec 32) s, s.accepts req Reg.timCtrl v.toNat = true → v.getLsbD 31 = true →
    field v.toNat 0 2 = 3 ∨ (v.getLsbD 16 = true ∧ field v.toNat 0 2 = 2) →
    ∃ u, exec (.timAcquire req v) s = .next u ∧ u.flag Fld.timStatusRefused = true ∧ u.tim.own = s.tim.own ∧ u.tick = s.tick) ∧
  (∀ s, s.get Fld.timCtrlRefSel = 2 → s.tim.refLost = false → s.isMaster = false → s.tim.own = 2 →
    ∃ u, exec (.refFail 2) s = .next u ∧ u.tim.own = 3 ∧ u.tim.since = s.tick ∧ u.tim.refLost = true ∧ u.tick = s.tick) ∧
  (∀ (src : Fin 3) s, src.val = s.get Fld.timCtrlRefSel → s.tim.refLost = false → s.isMaster = true → src ≠ 1 →
    exec (.refFail src) s = .next ({ s with tim.refLost := true }.raiseMod srcTime 0x0600 2 src 0)) ∧
  (∀ s, s.get Fld.timCtrlRefSel = 2 → s.tim.own = 3 → s.tim.lost = false →
    ∃ u, exec (.refReturn 2) s = .next u ∧ u.tim.own = 2 ∧ u.tim.refLost = false) ∧
  (∀ s, s.flag Fld.timStatusPllLock = true → s.isMaster = false → s.tim.marker + 3 * 65536 ≤ s.tick → s.tim.own = 2 →
    ∃ u, exec .markerLoss s = .next u ∧ u.tim.own = 3 ∧ u.tim.since = s.tick ∧ u.tim.lost = true) ∧
  (∀ s, s.tick < s.tim.marker + 3 * 65536 → exec .markerLoss s = .next s) ∧
  (∀ s, s.flag Fld.timStatusPllLock = true → s.tim.own = 3 → s.tim.since + 250000 ≤ s.tick → ∃ u, exec .holdoverExpiry s = .next u ∧ u.tim.own = 4 ∧
    u.tick = s.tick) ∧
  (∀ s, s.tick < s.tim.since + 250000 → exec .holdoverExpiry s = .next s) ∧
  (∀ s, ∃ u, exec .pllLockLoss s = .next u ∧ u.flag Fld.timStatusPllLock = false ∧ { u with ctrl := s.ctrl } = s ∧
    (∀ a, a ≠ Reg.timStatus → u.rd a = s.rd a) ∧ u.tickPass = u)

/-- R314, R316, R318 to R322: a packet enters its source stop with its flits stamped and numbered, or is refused there; a flit that its output
sends goes on to the next stop of its route, is delivered in order at its destination, is replayed after a bad CRC, and is lost where its stop
is. An output with an EX token sends EX flits before the others, and sends no transit copy while own copies wait and four of the last fifteen
clocks have gone to transit copies. -/
def Obligations.MeshPackets : Prop :=
  (∀ p s, Sendable s p → s.meshRefuses p = false →
    let src := s.fromStop p.src
    let d := s.toStop src p.dst
    let k := meshKey src p.src.port d p.dst.port (s.meshClass p) p.transom
    let n := SMap.getD s.mesh.tx k 0
    ∃ u l, exec (.meshFlitArrive (.enter p)) s = .next u ∧ u.mesh.flits = s.mesh.flits ++ l ∧ l.length = p.flits ∧
      SMap.get? u.mesh.tx k = some (n + 1) ∧ l.flatMap (·.data) = p.data.take (p.unit * p.flits) ∧
      (∀ f : Flit, f ∈ l → f.src = src ∧ f.at_ = src ∧ f.members = [(d, n)] ∧ f.cls = s.meshClass p ∧
        f.part = s.stampOf p ∧ f.copy = s.netCopy ∧ f.total = p.flits ∧
        (p.transom = true ∨ s.meshClass p ≠ 0 → f.admitted = true))) ∧
  (∀ p s src, Sendable s p → s.meshRefuses p = true → src = s.fromStop p.src →
    exec (.meshFlitArrive (.enter p)) s = .next (((s.raiseMod (srcPane (paneOf src)) 0x0501 2
      (netWord src (s.toStop src p.dst) false p.sent p.transom) 0).bump Fld.netUnreachCount).cargoLost p.cargo)) ∧
  (∀ i s f d q, SentNext s i f d q (outKey d f.plane (if f.dstPort = 0 then 0 else 8 + f.dstPort)) → f.at_ = d →
    s.meshExit f (d, q) = .deliver →
    (f.dstPort ≠ 0 ∨ f.transom = true ∨ (f.part.isSome = true ∧ s.partAt d = f.part)) → f.idx = 0 → f.total = 1 →
    SMap.getD s.mesh.rx (f.key d) ⟨0, [], []⟩ = ⟨q, [], []⟩ →
    ∃ u, exec (.meshFlitArrive (.hop i none)) s = .next u ∧ u.out = s.out ++ [.mesh f.src d f.cls q f.data f.poison] ∧
      u.mesh.flits = s.mesh.flits.eraseIdx i) ∧
  (∀ i s f d q dir n, SentNext s i f d q (outKey f.at_ (s.crossNet f dir) (1 + dir)) → s.meshExit f (d, q) = .cross dir → dir < 4 →
    neighbour f.at_ dir = some n →
    (∃ u g, exec (.meshFlitArrive (.hop i none)) s = .next u ∧ u.mesh.flits = s.mesh.flits.eraseIdx i ++ [g] ∧ g.at_ = n ∧
      g.hops = f.hops + 1 ∧ g.members = f.members ∧ g.fails = 0 ∧ g.data = f.data ∧ g.poison = f.poison ∧
      (g.vc1 = true ↔ f.vc1 = true ∨ (f.movedY = true ∧ dir < 2))) ∧
    (∀ b : Fin 4, b.val = dir → f.fails = 0 → SMap.get? s.mesh.replays (16 * f.at_ + 4 * s.crossNet f dir + dir) = none →
      ∃ u, exec (.meshFlitArrive (.hop i (some b))) s = .next u ∧ u.mesh.flits = s.mesh.flits.set i { f with fails := 1 } ∧
        u.get (Fld.netLinkErrRetry n) = min (s.get (Fld.netLinkErrRetry n) + 1) (2 ^ 16 - 1))) ∧
  (∀ i s (f g : Flit) o bad, s.mesh.flits[i]? = some f → s.stopOut f.at_ = false → f.hops ≤ 48 → f.admitted = true →
    f.transom = false → f.cls ≠ 0 → s.flitOuts f = [o] → g ∈ s.bidders f.at_ o →
    (g.cls = 0 ∧ 0 < (s.meshOut o).ex.tokens) ∨ (f.transit = true ∧ g.cls ≠ 0 ∧ g.transit = false ∧
      4 ≤ (s.meshOut o).recent.count true) →
    exec (.meshFlitArrive (.hop i bad)) s = .next s) ∧
  (∀ i s f, s.flag Fld.timStatusPllLock = true → s.mesh.flits[i]? = some f → s.stopOut f.at_ = true ∨ 48 < f.hops →
    f.cargo = .done ∨ f.cargo = .druter →
    ∃ u, exec (.meshFlitArrive (.hop i none)) s = .next u ∧
      u.get Fld.netLostCount = min (s.get Fld.netLostCount + 1) (2 ^ 32 - 1) ∧
      (∀ g : Flit, g ∈ u.mesh.flits → f.sameFlow g = true → ∀ m, m ∈ g.members → m ∉ f.members))

/-- R326, R327: a merge node holds the first side's group, and once both sides are there and its output has room sends their
element-by-element sum; the flits of a group that its EN, CONTEXT or TYPE does not fit are discarded and counted. R327, R335: setting EN of
a merge node stores its set-up, with no partials held and the credits of both sides, unless its stop's tiles, its output or its partition
forbid it: then EN stays 0 and the write is counted. -/
def Obligations.MergeNodes : Prop :=
  (∀ s i g n right, s.cores.groups[i]? = some g → g.dst = .node n right → s.groupPath g = .through →
    s.flag (Fld.mrgNodeLoEn n) = false ∨ s.get (Fld.mrgNodeHiContext n) ≠ g.ctx ∨ s.flag (Fld.mrgNodeLoType n) ≠ g.int32 →
    exec (.mergeFlitArrive i) s = .next
      (s.clocked ((s.dropGroup i).bump (Fld.shtMisuseCount (s.partOf g.ctx)) (8 * g.count)))) ∧
  (∀ s g n, s.cores.groups = [g] → g.dst = .node n false → s.groupPath g = .through → s.flag (Fld.mrgNodeLoEn n) = true →
    s.get (Fld.mrgNodeHiContext n) = g.ctx → s.flag (Fld.mrgNodeLoType n) = g.int32 → s.cores.merges = [] →
    exec (.mergeFlitArrive 0) s = .next (s.clocked { s with cores.groups := [], cores.merges := [(n, some g, none)] })) ∧
  (∀ s l r n k, s.flag Fld.timStatusPllLock = true → s.cores.groups = [r] → r.dst = .node n true → s.groupPath r = .through →
    s.flag (Fld.mrgNodeLoEn n) = true → s.get (Fld.mrgNodeHiContext n) = r.ctx → s.flag (Fld.mrgNodeLoType n) = r.int32 →
    s.cores.merges = [(n, some l, none)] → l.int32 = r.int32 → s.nodeOut n = .ring k → ∀ a b, l.data = some a → r.data = some b →
    ∃ u g d, exec (.mergeFlitArrive 0) s = .next u ∧ u.cores.merges = [] ∧ u.cores.groups = [g] ∧ g.dst = .ring k ∧ g.data = some d ∧
      g.layer = max l.layer r.layer ∧ d.length = a.length / 4 * 4 ∧
      ∀ w, w < a.length / 4 → leAt d (4 * w) 4 =
        if r.int32 then (leAt a (4 * w) 4 + leAt b (4 * w) 4) % 2 ^ 32
        else (f32Add (BitVec.ofNat 32 (leAt a (4 * w) 4)) (BitVec.ofNat 32 (leAt b (4 * w) 4))).1.toNat) ∧
  (∀ req (core : CoreId) (node : SlotId) (v : BitVec 32) s, s.accepts req (Reg.mrgNodeLo (16 * core + node)) v.toNat = true →
    v.getLsbD 31 = true → s.flag (Fld.mrgNodeLoEn (16 * core + node)) = false → s.nodeRefuses core node v.toNat = false →
    ∃ u, exec (.mrgNodeEnable req core node v) s = .next u ∧ u.rd (Reg.mrgNodeLo (16 * core + node)) = v.toNat ∧
      { u with ctrl := s.ctrl } = s.nodeFresh (16 * core + node) ∧
      (∀ a, a ≠ Reg.mrgNodeLo (16 * core + node) → u.rd a = s.rd a)) ∧
  (∀ req (core : CoreId) (node : SlotId) (v : BitVec 32) s, s.accepts req (Reg.mrgNodeLo (16 * core + node)) v.toNat = true →
    v.getLsbD 31 = true → s.flag (Fld.mrgNodeLoEn (16 * core + node)) = false → s.nodeRefuses core node v.toNat = true →
    exec (.mrgNodeEnable req core node v) s = .next ((s.wr (Reg.mrgNodeLo (16 * core + node)) (v.toNat - 2 ^ 31)).misuse req)) ∧
  (∀ req (core : CoreId) (node : SlotId) (v : BitVec 32) s, s.accepts req (Reg.mrgNodeLo (16 * core + node)) v.toNat = true →
    v.getLsbD 31 = true → s.flag (Fld.mrgNodeLoEn (16 * core + node)) = true → exec (.mrgNodeEnable req core node v) s = .next s)

namespace Sys2Proof.Machine

/-- The port has entered a state now (R358). -/
def enteredNow (s u : State) (p st : Nat) : Prop := u.portState p = st ∧ (u.port p).since = s.tick

/-- A flit that a port takes in: it is good, and of a kind (R361). -/
structure GoodFlit (s : State) (p : Nat) (b : List Byte) (uncorr kind : Nat) : Prop where
  pass : s.flitsPass p = true
  corrected : uncorr = 0
  crc : (FlitIn.of b).crcOk = true
  kind : (FlitIn.of b).kind = kind

/-- An INIT flit that a port in INIT takes in (R359, R363). -/
structure GoodInit (s : State) (p : Nat) (b : List Byte) (uncorr : Nat) : Prop where
  state : s.portState p = 4
  jexral : s.ethPort p = false
  corrected : uncorr = 0
  crc : (FlitIn.of b).crcOk = true
  kind : (FlitIn.of b).kind = 2
  subtype : leAt (FlitIn.of b).payload 0 1 = 1

/-- Every unacknowledged flit again, in order (R365). -/
def replayed (x : Port) (p : Nat) (kept : List SentFlit) : List Out :=
  kept.map fun f => .flit p (mkFlit x 1 f.cls f.next f.seq false f.payload)

/-- The port came down from ACTIVE: what it held for its link is gone, and LNK_DOWN was raised (R358, R366, R387). -/
def cameDown (s u : State) (p prev cause st : Nat) : Prop :=
  enteredNow s u p st ∧ (u.port p).kept = [] ∧ (u.port p).queue = [] ∧
    (s.get Fld.timCtrlParent ≠ p → (s.raised.filter (·.src == srcPort p)).length < 4 →
      u.raised = s.raised ++ [⟨s.tick, srcPort p, 0x0701, 0xFF, 0xFF, 1, BitVec.ofNat 64 p, BitVec.ofNat 64 (prev + cause * 2 ^ 8)⟩])

end Sys2Proof.Machine

/-- R63, R355, R358, R359, R366: a port trains from DETECT to ACTIVE as its light, PMD, alignment and the far INIT come, is MISCABLED where
the far end does not fit, goes back to DETECT at an overrun bound and to FAILED at the third, retrains and comes down. A port whose agent
has stopped does not train. While the wafer clocks stand still, no event changes a port (R340). R361, R363, R365, R382, R348: a port takes
DATA flits in sequence and passes their packets on, answers a gap with one NAK, counts a bad flit, replays what is unacknowledged on a NAK
or after 16 µs, keeps the stamps of TIME flits and sends its own, and passes the packets of a good Ethernet frame on. -/
def Obligations.PortsTrainAndCarryFlits : Prop :=
  (∀ req (p : PortId) (v : BitVec 32) s, s.accepts req (Reg.lnkCtrl p) v.toNat = true → s.flag (Fld.lnkCtrlEn p) = false →
    v.getLsbD 0 = true → (v.getLsbD 1 = true → portDir p = none) → s.bootHold = false →
    ∃ u, exec (.lnkEnable req p v) s = .next u ∧ enteredNow s u p 1 ∧ u.flag (Fld.lnkCtrlEn p) = true ∧
      u.ethPort p = v.getLsbD 1 ∧ u.flag (Fld.lnkCtrlShut p) = v.getLsbD 2) ∧
  (∀ req (p : PortId) (v : BitVec 32) s, s.accepts req (Reg.lnkCtrl p) v.toNat = true → s.flag (Fld.lnkCtrlEn p) = true →
    v.getLsbD 0 = false → v.getLsbD 1 = s.ethPort p → (v.getLsbD 1 = true → portDir p = none) →
    ∃ u, exec (.lnkDisable req p v) s = .next u ∧ enteredNow s u p 0 ∧ u.flag (Fld.lnkCtrlEn p) = false ∧ (u.port p).kept = []) ∧
  (∀ req (p : PortId) (v : BitVec 32) s, s.accepts req (Reg.lnkCtrl p) v.toNat = true → s.flag (Fld.lnkCtrlEn p) = true →
    v.getLsbD 0 = true → v.getLsbD 1 = false → s.ethPort p = false → v.getLsbD 3 = true → s.portState p = 5 →
    ∃ u, exec (.lnkRetrain req p v) s = .next u ∧ enteredNow s u p 6 ∧ (u.port p).kept = (s.port p).kept ∧
      (u.port p).seq = (s.port p).seq ∧ u.get (Fld.lnkRetrainsCount p) = min (s.get (Fld.lnkRetrainsCount p) + 1) (2 ^ 32 - 1)) ∧
  (∀ (p : PortId) s, s.flag Fld.timStatusPllLock = true → s.portState p = 1 → s.stopOut (edgeStop (portSite p) 0) = false →
    ∃ u, exec (.lightDetect p) s = .next u ∧ enteredNow s u p 2 ∧ u.out = s.out) ∧
  (∀ (p : PortId) s, s.stopOut (edgeStop (portSite p) 0) = true → exec (.lightDetect p) s = .next s) ∧
  (∀ (p : PortId) s, s.flag Fld.timStatusPllLock = true → s.portState p = 2 → s.ethPort p = false →
    ∃ u, exec (.pmdTrainDone p) s = .next u ∧ enteredNow s u p 3 ∧ u.out = s.out) ∧
  (∀ (p : PortId) s, s.flag Fld.timStatusPllLock = true → s.portState p = 2 → s.ethPort p = true →
    ∃ u, exec (.pmdTrainDone p) s = .next u ∧ enteredNow s u p 5 ∧ (u.port p).fails = 0) ∧
  (∀ (p : PortId) s, s.flag Fld.timStatusPllLock = true → s.portState p = 3 → ∃ u b, exec (.alignDone p) s = .next u ∧ enteredNow s u p 4 ∧
    u.out = s.out ++ [.flit p b] ∧ b.length = 256 ∧ (b.drop 20).take 20 = s.initPayload p) ∧
  (∀ (p : PortId) b corr uncorr s, s.flag Fld.timStatusPllLock = true → GoodInit s p b uncorr → (InitIn.of (FlitIn.of b).payload).version = 1 →
    (∃ d, portDir p = some d ∧ (InitIn.of (FlitIn.of b).payload).role = 0 ∧ (InitIn.of (FlitIn.of b).payload).dir = oppositeDir d) ∨
      (portDir p = none ∧ ((InitIn.of (FlitIn.of b).payload).role = 2 ∨ (InitIn.of (FlitIn.of b).payload).role = 3)) →
    ∃ u, exec (.initFlitReceive p b corr uncorr) s = .next u ∧ enteredNow s u p 5 ∧
      (u.port p).farBuf = (InitIn.of (FlitIn.of b).payload).buf) ∧
  (∀ (p : PortId) b corr uncorr s, s.flag Fld.timStatusPllLock = true → GoodInit s p b uncorr → ∀ r,
    ((InitIn.of (FlitIn.of b).payload).version ≠ 1 ∧ r = 1) ∨
      ((InitIn.of (FlitIn.of b).payload).version = 1 ∧ ∃ d, portDir p = some d ∧
        (((InitIn.of (FlitIn.of b).payload).role ≠ 0 ∧ r = 2) ∨
          ((InitIn.of (FlitIn.of b).payload).role = 0 ∧ (InitIn.of (FlitIn.of b).payload).dir ≠ oppositeDir d ∧ r = 3))) ∨
      ((InitIn.of (FlitIn.of b).payload).version = 1 ∧ portDir p = none ∧ (InitIn.of (FlitIn.of b).payload).role ≠ 2 ∧
        (InitIn.of (FlitIn.of b).payload).role ≠ 3 ∧ r = 2) →
    ∃ u, exec (.initFlitReceive p b corr uncorr) s = .next u ∧ enteredNow s u p 7 ∧ u.get (Fld.lnkStatusReason p) = r) ∧
  (∀ (p : PortId) s, s.flag Fld.timStatusPllLock = true → 2 ≤ s.portState p → s.portState p ≤ 4 →
    (s.port p).since + (if s.portState p = 2 then 50000000 else 250000) ≤ s.tick →
    ∃ u, exec (.trainTimeout p) s = .next u ∧
      enteredNow s u p (if 2 ≤ (s.port p).fails ∧ s.ethPort p = false then 8 else 1) ∧ (u.port p).fails = (s.port p).fails + 1 ∧
      u.get (Fld.lnkTrainFailCount p) = min (s.get (Fld.lnkTrainFailCount p) + 1) (2 ^ 32 - 1)) ∧
  (∀ (p : PortId) s, s.flag Fld.timStatusPllLock = true → s.portState p = 6 →
    ∃ u l, exec (.retrainDone p) s = .next u ∧ u.portState p = 5 ∧ u.out = s.out ++ replayed (s.port p) p (s.port p).kept ++ l) ∧
  (∀ (p : PortId) s, s.flag Fld.timStatusPllLock = true → s.portState p = 6 → (s.port p).since + 25000000 ≤ s.tick →
    ∃ u, exec (.retrainTimeout p) s = .next u ∧ cameDown s u p 6 1 1) ∧
  (∀ (p : PortId) s, s.portState p = 6 → s.tick < (s.port p).since + 25000000 → exec (.retrainTimeout p) s = .next s) ∧
  (∀ (p : PortId) s, s.flag Fld.timStatusPllLock = true → s.portState p = 5 → ∃ u, exec (.lossOfLight p) s = .next u ∧ cameDown s u p 5 3 1) ∧
  (∀ (p : PortId) b corr uncorr s part, s.flag Fld.timStatusPllLock = true → GoodFlit s p b uncorr 1 → (FlitIn.of b).nak = false →
    s.flag (Fld.lnkCtrlShut p) = false →
    (FlitIn.of b).seq = (s.port p).expect → (s.port p).parts.getD (FlitIn.of b).cls none = some part →
    ∃ u, exec (.dataFlitReceive p b corr uncorr) s = .next u ∧ (u.port p).expect = ((s.port p).expect + 1) % 2 ^ 16 ∧
      (u.port p).nakSent = false ∧
      u.trp.inbox = s.trp.inbox ++ (takePackets 8 (part ++ (FlitIn.of b).payload)).1.map fun k => (p.val, k)) ∧
  (∀ (p : PortId) b corr uncorr s, s.flag Fld.timStatusPllLock = true → GoodFlit s p b uncorr 1 → (FlitIn.of b).nak = false →
    s.flag (Fld.lnkCtrlShut p) = false →
    (FlitIn.of b).seq ≠ (s.port p).expect → (s.port p).nakSent = false →
    ∃ u f l, exec (.dataFlitReceive p b corr uncorr) s = .next u ∧ (u.port p).expect = (s.port p).expect ∧ (u.port p).nakSent = true ∧
      u.trp.inbox = s.trp.inbox ∧ u.out = s.out ++ [.flit p f] ++ l ∧ (FlitIn.of f).nak = true) ∧
  (∀ (p : PortId) b corr uncorr s, s.flitsPass p = true → uncorr ≠ 0 ∨ (FlitIn.of b).crcOk = false →
    exec (.dataFlitReceive p b corr uncorr) s = .next (s.clocked ((((s.wrap64 (Reg.lnkFecCorr p) corr).wrap64 (Reg.lnkFecUncorr p)
      uncorr).wrap64 (Reg.lnkRxFlits p)).wrap64 (Reg.lnkCrcErr p)))) ∧
  (∀ (p : PortId) b corr uncorr s, s.flag Fld.timStatusPllLock = true → GoodFlit s p b uncorr 0 → (FlitIn.of b).nak = true →
    ((s.port p).ackTo (FlitIn.of b).ack s.tick).kept ≠ [] →
    ∃ u l, exec (.nakReceive p b corr uncorr) s = .next u ∧
      u.out = s.out ++ replayed (s.port p) p ((s.port p).ackTo (FlitIn.of b).ack s.tick).kept ++ l ∧
      u.get64 (Reg.lnkReplay p) = (s.get64 (Reg.lnkReplay p) + 1) % 2 ^ 64) ∧
  (∀ (p : PortId) s, s.flag Fld.timStatusPllLock = true → s.flitsPass p = true → (s.port p).kept ≠ [] → (s.port p).ackTick + 4000 ≤ s.tick →
    ∃ u l, exec (.ackTimeout p) s = .next u ∧ u.out = s.out ++ replayed (s.port p) p (s.port p).kept ++ l ∧
      u.get64 (Reg.lnkReplay p) = (s.get64 (Reg.lnkReplay p) + 1) % 2 ^ 64 ∧ (u.port p).ackTick = s.tick) ∧
  (∀ (p : PortId) s, s.tick < (s.port p).ackTick + 4000 → exec (.ackTimeout p) s = .next s) ∧
  (∀ (p : PortId) (frac : Byte) s, s.flag Fld.timStatusPllLock = true → s.flitsPass p = true → s.tick % 65536 = 0 → (s.port p).timeAt ≠ some s.tick →
    ∃ u b, exec (.timeFlitSend p frac) s = .next u ∧ u.out = s.out ++ [.flit p b] ∧
      (u.port p).xseq = ((s.port p).xseq + 1) % 2 ^ 16 ∧ (b.drop 20).take 57 = timePayload (s.get Fld.timStatusState)
        (((s.port p).xseq + 1) % 2 ^ 16) (s.tick * 256 + frac.toNat) (s.port p).stamp) ∧
  (∀ (p : PortId) b corr uncorr (frac : Byte) s, s.flag Fld.timStatusPllLock = true → GoodFlit s p b uncorr 2 → leAt (FlitIn.of b).payload 0 1 = 2 →
    (s.port p).echo = none →
    ∃ u, exec (.timeFlitReceive p b corr uncorr frac) s = .next u ∧ (u.port p).stamp = some ⟨(TimeIn.of (FlitIn.of b).payload).xseq,
        (TimeIn.of (FlitIn.of b).payload).tx, s.tick * 256 + frac.toNat⟩ ∧
      (s.isMaster = false → s.get Fld.timCtrlParent = p → u.tim.marker = s.tick ∧
        u.tim.parent = (TimeIn.of (FlitIn.of b).payload).state)) ∧
  (∀ (p : PortId) b corr uncorr (frac : Byte) s tx (st : TimeStamp), s.flag Fld.timStatusPllLock = true → GoodFlit s p b uncorr 2 →
    leAt (FlitIn.of b).payload 0 1 = 2 →
    (s.port p).echo = some (tx, st) → (TimeIn.of (FlitIn.of b).payload).echoSeq = (s.port p).xseq →
    (TimeIn.of (FlitIn.of b).payload).echoTx = tx →
    let twice : Int := (((TimeIn.of (FlitIn.of b).payload).echoRx : Int) - st.tx) - ((tx : Int) - st.rx)
    ∃ u d, exec (.timeFlitReceive p b corr uncorr frac) s = .next u ∧ (u.port p).delay = some (Int.toNat d) ∧
      (2 * d = twice ∨ 2 * d = twice - 1 ∨ 2 * d = twice + 1)) ∧
  (∀ (p : PortId) b s, s.ethPort p = true → s.portState p = portActive → s.flag (Fld.lnkCtrlShut p) = false →
    (s.wrap64 (Reg.lnkRxFlits p)).frameOk p b = false →
    exec (.ethFrameReceive p b) s = .next (s.clocked ((s.wrap64 (Reg.lnkRxFlits p)).bump (Fld.lnkEthDropCount p)))) ∧
  (∀ (p : PortId) b s, s.flag Fld.timStatusPllLock = true → s.ethPort p = true → s.portState p = portActive → s.flag (Fld.lnkCtrlShut p) = false →
    (s.wrap64 (Reg.lnkRxFlits p)).frameOk p b = true →
    ∃ u, exec (.ethFrameReceive p b) s = .next u ∧ u.trp.inbox = s.trp.inbox ++
      (framePackets 192 ((b.drop 66).take (ofBe ((b.drop 62).take 2) - 8))).map fun k => (p.val, k))

namespace Sys2Proof.Machine

/-- The words of the instructions that no statement above names (R183, R184, R226). -/
def vselRow : OpSpec := laneSpec 0x4A 4 vcField [0]
def collSumSpec : OpSpec := ⟨0x90, true,
  fun w e => onlyFields ([(48, 2), (47, 1), (42, 5), (37, 5), (28, 4), (20, 4), (6, 3), (0, 6)] ++
    if field w 6 3 == 1 then [(32, 5), (24, 4)] else []) w && rsvdTen e false && (field w 6 3 == 1 || field e 48 6 == 0),
  fun w _ => rndOk w && field w 6 3 < 2 && fmtOk (field w 28 4) && fmtOk (field w 20 4) &&
    (field w 6 3 == 0 || fmtOk (field w 24 4))⟩

/-- The scalar instructions that write a register, a predicate or a flag, or nothing. -/
def scalarRows : List ((Issue → Instr) × OpSpec) :=
  [(.nop, ⟨0x01, false, rsvdNone, enumAny⟩), (.add, aluSpec 0x02), (.sub, aluSpec 0x03), (.mul, aluSpec 0x04), (.and, aluSpec 0x05),
   (.or, aluSpec 0x06), (.xor, aluSpec 0x07), (.shl, aluSpec 0x08), (.shr, aluSpec 0x09), (.sra, aluSpec 0x0A), (.min, aluSpec 0x0B),
   (.max, aluSpec 0x0C), (.mov, ⟨0x0D, false, fun w _ => onlyFields [(42, 6), (36, 6)] w, enumAny⟩),
   (.ldi, ⟨0x0E, true, fun w _ => onlyFields [(42, 6)] w, enumAny⟩), (.cmpEq, cmpSpec 0x10), (.cmpLt, cmpSpec 0x11),
   (.cmpLtu, cmpSpec 0x12), (.pand, predSpec 0x13), (.por, predSpec 0x14), (.pxor, predSpec 0x15), (.br, brSpec),
   (.flagsRd, ⟨0x1A, false, fun w _ => onlyFields [(42, 6)] w, enumAny⟩),
   (.flagsClr, ⟨0x1B, false, fun w _ => onlyFields [(49, 1), (0, 6)] w, fun w _ => bitAt w 49⟩)]

/-- The vector instructions that write a vector register. -/
def vectorRows : List ((Issue → Instr) × OpSpec) :=
  [(.vadd, laneSpec 0x40 1 satInt [0, 1, 2, 3]), (.vsub, laneSpec 0x41 1 satInt [0, 1, 2, 3]),
   (.vmul, laneSpec 0x42 1 satInt [0, 1, 2, 3]), (.vfma, laneSpec 0x43 1 vcField [0, 2]), (.vdiv, laneSpec 0x44 1 noExtra [0, 2]),
   (.vmin, laneSpec 0x45 1 noExtra [0, 1, 2, 3]), (.vmax, laneSpec 0x46 1 noExtra [0, 1, 2, 3]), (.vsqrt, unarySpec 0x47 [0]),
   (.vfunc, unarySpec 0x48 [0, 1, 2, 3, 4, 5, 6, 7, 8, 9, 10]), (.vcmp, laneSpec 0x49 3 noExtra (List.range 16)), (.vsel, vselRow),
   (.vrng, vrngSpec), (.vredSum, redSpec 0x50), (.vredMax, redSpec 0x51), (.vredMin, redSpec 0x52), (.vnorm, vnormSpec),
   (.vsoftmax, vsoftmaxSpec), (.vaccRd, vaccRdSpec)]

/-- The other instructions, but for the five of TASK.CTL and GATHER.DL, whose commands hold more than the word. -/
def otherRows : List ((Issue → Instr) × OpSpec) :=
  [(.halt, ⟨0x17, false, rsvdNone, enumAny⟩), (.ldS, ldSpec 0x18), (.stS, ldSpec 0x19), (.tdLd, tdLdSpec), (.tdSt, tdStSpec),
   (.tdSet, tdSetSpec), (.tdGet, tdGetSpec), (.tdAdv, tdAdvSpec), (.mma, mmaSpec), (.mmaCsr, mmaCsrSpec), (.spvalid, spvalidSpec),
   (.vld, vldSpec), (.vst, vstSpec), (.vaccWr, vaccWrSpec), (.cvt, cvtSpec), (.tcopy, tcopySpec), (.tfill, tfillSpec),
   (.scatter, scatterSpec), (.accOut, accOutSpec), (.streamSend, streamSendSpec), (.streamRecv, streamRecvSpec),
   (.latchWait, latchWaitSpec), (.latchSig, latchSigSpec), (.bufAlloc, bufAllocSpec), (.bufFree, bufFreeSpec),
   (.streamInj, streamInjSpec), (.barrier, barrierSpec), (.threshold, thresholdSpec), (.atLaunch, atLaunchSpec), (.tickRd, tickRdSpec),
   (.unitQuery, unitQuerySpec), (.collSum, collSumSpec), (.leaseAcq, leaseAcqSpec), (.leaseRel, leaseRelSpec), (.atom, atomSpec),
   (.rld, rldSpec), (.rst, rstSpec), (.inv, invSpec), (.doorbell, doorbellSpec)]

def instructionRows : List ((Issue → Instr) × OpSpec) :=
  scalarRows ++ vectorRows ++ otherRows ++ [((.gatherDl · []), gatherSpec)]

/-- The instruction stops its task with cause `k` of R139: it is counted as issued, and the fault of R140 follows. -/
def Faults (c : Instr) (i : Issue) (op k : Nat) (s : State) : Prop :=
  exec c s = .next (((s.turn i).noteIssue i.core i.slot).taskFault i.core i.slot k (issueBits i op) i.ext.toNat)

/-- What the machine holds beside the task that issues, its slot's turn and its core's issue counter. -/
structure SameBut (i : Issue) (s u : State) : Prop where
  mem : ∀ a, u.mem.byte a = s.mem.byte a
  regs : ∀ a, a ≠ Reg.coreIssue i.core → a ≠ Reg.coreIssue i.core + 4 → u.rd a = s.rd a
  tasks : ∀ (core : CoreId) (slot : SlotId), (core, slot) ≠ (i.core, i.slot) → u.task? core slot = s.task? core slot
  ctxs : u.ctxs = s.ctxs
  eps : u.cores.eps = s.cores.eps
  sent : u.out = s.out
  events : u.raised = s.raised

end Sys2Proof.Machine

/-- The block takes the command at the front of its queue and runs it with the rest; the table's rows hold no bits, so no word spells a
command (log entry 9). -/
def Obligations.FrontCommandRuns : Prop :=
  (∀ (c : Instr) (s : State), step { s with pending := c :: s.pending } = exec c s) ∧
  (∀ (s : State) nbits w, s.withFetchWord nbits w = s)

/-- On an empty queue a tick passes while the root PLL is locked (log entry 1, the model's choice): first the tick counter rises modulo
2^64, or counts down a hold (R343, R346), the mesh clocks pass, 5 of them or 4 at the ÷5 setting (R313, R339), and then a context that is
HELD counts the tick (R310). Without the lock nothing happens (R340). -/
def Obligations.EmptyQueueTicks : Prop :=
  (∀ s : State, s.pending = [] → s.flag Fld.timStatusPllLock = false → step s = .next s) ∧
  (∀ s : State, s.pending = [] → s.flag Fld.timStatusPllLock = true →
    step s = .next ((List.range 64).foldl State.ctxTick
      s.timTick.meshTick.copyTick.noteStalls).portTick.vblPump.relPump.evcTick ∧
    (s.tim.due = none → s.tim.hold = 0 → s.timTick.tick = (s.tick + 1) % 2 ^ 64) ∧
    (s.tim.due = none → s.tim.hold ≠ 0 → s.timTick.tick = s.tick ∧ s.timTick.tim.hold = s.tim.hold - 1) ∧ s.timTick.mem = s.mem) ∧
  (∀ s : State, s.meshTick.mesh.clock = s.mesh.clock + (if s.get Fld.timStatusDiv = 1 then 4 else 5)) ∧
  (∀ (s : State) c, s.ctxState c = ctxHeld → (s.ctx c).tear = none → s.ctxTick c = (s.wrap64 (Reg.lvrHoldTicks c)).dlmTick c)

/-- What reset leaves: every register of control space at its reset value, no context, task, endpoint or message, an empty queue. The
contents of memory are the model's choice (log entry 2): they read as zero, with no poison. -/
def Obligations.ResetState : Prop :=
  State.reset.Inv ∧ State.reset.pending = [] ∧ (∀ a, State.reset.rd a = regReset a % 2 ^ 32) ∧
  (∀ a, State.reset.mem.byte a = 0#8 ∧ State.reset.mem.anyPoison a 1 = false) ∧
  (∀ core slot, State.reset.task? core slot = none) ∧ (∀ k, State.reset.ep? k = none) ∧ State.reset.tick = 0 ∧
  (∀ c, c < 64 → State.reset.ctxState c = ctxIdle) ∧ State.reset.raised = []

/-- Every step keeps memory and the control registers in canonical form: addresses rise, nothing is listed that equals what is not
listed. -/
def Obligations.EveryStepKeepsCanonicalForms : Prop :=
  ∀ s t : State, s.Inv → step s = .next t → t.Inv

/-- Every well-formed command answers a next state, and leaves the queue of waiting commands as it is; an ill-formed one, a TASK.CTL word of
another row, stops by name. No command is refused. -/
def Obligations.WellFormedCommandsComplete : Prop :=
  ∀ (c : Instr) (s : State), (WellFormed c = true → ∃ t, exec c s = .next t ∧ t.pending = s.pending) ∧
    (WellFormed c = false → exec c s = .fault .illFormed)

/-- R137 to R140, R96: an instruction whose turn it is, is checked for causes 1 to 5 in order, whatever its predicate, and stops its task with
the first; a poisoned guard then faults its context; where the guard does not hold it retires with no effect. The effect
of UNDEF_OP and of BAD_PC is the exception itself: the command completes in the state in which the task has stopped, with cause 2 for a word
of a reserved OP, whose extension word was read with it, and with cause 1 at a PC that breaks R128.
R140: a task that an exception stops is FAULTED with STOP_CAUSE ILLEGAL_INSTR and its cause, its PC names the instruction, and it keeps its
registers; an event record of severity 3 holds the word, the cause, the slot and the PC; no memory changes unless the fault spreads to the
context. -/
def Obligations.InstructionChecksAndFaults : Prop :=
  (∀ r, r ∈ instructionRows → ∀ i s t, CanIssue i s t →
    let w := issueBits i r.2.op
    (s.pcBad t.ctx t.pc.toNat (wordExt w) = true → Faults (r.1 i) i r.2.op 1 s) ∧
    (s.pcBad t.ctx t.pc.toNat (wordExt w) = false →
      (wordExt w ≠ r.2.ext → Faults (r.1 i) i r.2.op 3 s) ∧
      (wordExt w = r.2.ext →
        (r.2.rsvd w i.ext.toNat = false → Faults (r.1 i) i r.2.op 4 s) ∧
        (r.2.rsvd w i.ext.toNat = true →
          (r.2.enum w i.ext.toNat = false → Faults (r.1 i) i r.2.op 5 s) ∧
          (r.2.enum w i.ext.toNat = true →
            (t.predPoison (wordPred w) = true → exec (r.1 i) s = .next
              (((s.turn i).noteIssue i.core i.slot).poisonFault i.core i.slot 3 2 (wordPred w) w i.ext.toNat)) ∧
            (t.predPoison (wordPred w) = false → t.pred (wordPred w) = wordPneg w →
              exec (r.1 i) s = .next ((s.turn i).retire i r.2.ext))))))) ∧
  (∀ (core : CoreId) (slot : SlotId) (words : BitVec 128) s t, s.task? core slot = some t → t.run = none →
    s.hasTurn core slot = true → opDefined (field (words.toNat % 2 ^ 64) 56 8) = false →
    s.pcBad t.ctx t.pc.toNat (wordExt (words.toNat % 2 ^ 64)) = false →
    exec (.undefOp core slot words) s = .next (((s.dropFirst core slot).noteIssue core slot).taskFault core slot 2
      (words.toNat % 2 ^ 64) (words.toNat / 2 ^ 64))) ∧
  (∀ (core : CoreId) (slot : SlotId) (word : BitVec 64) s t, s.task? core slot = some t → t.run = none →
    s.hasTurn core slot = true → s.pcBad t.ctx t.pc.toNat (wordExt word.toNat) = true →
    exec (.badPc core slot word) s = .next (((s.dropFirst core slot).noteIssue core slot).taskFault core slot 1 word.toNat 0)) ∧
  (∀ (core : CoreId) (slot : SlotId) (words : BitVec 128) s, opDefined (field (words.toNat % 2 ^ 64) 56 8) = true →
    exec (.undefOp core slot words) s = .next s) ∧
  (∀ (s : State) (core slot k word ext : Nat) t, s.task? core slot = some t → 2 ≤ k → k ≤ 9 →
    s.faultSpreads t.ctx t.leaf = false → s.raised = [] →
    ∃ v, (s.taskFault core slot k word ext).task? core slot = some v ∧ v.state = .faulted ∧ v.stopCause = 1 ∧ v.illCause = k ∧
      v.pc = t.pc ∧ v.s = t.s ∧ v.p = t.p ∧ v.t = t.t ∧ v.v = t.v ∧ v.flags = t.flags ∧ v.retired = t.retired ∧
      v.faultWord = BitVec.ofNat 64 word ∧ (s.taskFault core slot k word ext).mem = s.mem ∧
      ∃ e, (s.taskFault core slot k word ext).raised = [e] ∧ e.src = srcTask core slot ∧ e.code = 0x0100 ∧ e.sev = 3 ∧
        e.ctx = t.ctx ∧ e.w2 = BitVec.ofNat 64 word ∧ e.w3 = BitVec.ofNat 64 (k * 2 ^ 48 + slot * 2 ^ 44 + t.pc.toNat))

/-- Frames: a scalar or vector instruction that writes only registers, once it has retired, leaves every byte of memory, every control register
but its core's issue counter, every other task, every context, every endpoint, what the module has sent and the pending events as they were;
a scalar one leaves the vector registers, and a vector one the scalar registers and predicates. -/
def Obligations.RegisterInstructionFrames : Prop :=
  (∀ r, r ∈ scalarRows → ∀ i s u t v, exec (r.1 i) s = .next u → s.task? i.core i.slot = some t →
    u.task? i.core i.slot = some v → v.retired = t.retired + 1 →
    SameBut i s u ∧ v.v = t.v ∧ v.vPoison = t.vPoison ∧ v.t = t.t ∧ v.ctx = t.ctx ∧ v.state = t.state ∧
      (∀ k, k ≠ dstOf i → v.reg k = t.reg k ∧ v.regPoison k = t.regPoison k ∧ v.pred k = t.pred k)) ∧
  (∀ r, r ∈ vectorRows → ∀ i s u t v, exec (r.1 i) s = .next u → s.task? i.core i.slot = some t →
    u.task? i.core i.slot = some v → v.retired = t.retired + 1 →
    SameBut i s u ∧ v.s = t.s ∧ v.p = t.p ∧ v.t = t.t ∧ v.ctx = t.ctx ∧ v.state = t.state ∧
      (∀ k, k ≠ vdOf i → v.vreg k = t.vreg k ∧ v.vregPoison k = t.vregPoison k))

namespace Sys2Proof.Machine

/-- The command sets fields and 64-bit counters to zero, and changes no other register and nothing else. -/
def Clears (cmd : Instr) (s : State) (fs : List Fld) (as : List Nat) : Prop :=
  ∃ u, exec cmd s = .next u ∧ (∀ f, f ∈ fs → u.get f = 0) ∧ (∀ a, a ∈ as → u.get64 a = 0) ∧
    (∀ a, (∀ f, f ∈ fs → f.addr ≠ a) → (∀ b, b ∈ as → a ≠ b ∧ a ≠ b + 4) → u.rd a = s.rd a) ∧
    { u with ctrl.regs := s.ctrl.regs } = s

/-- The register at an address of a module that is on and whose clocks run, reached by the requester, and the register's fields. -/
structure RegAt (s : State) (req : Requester) (addr : BitVec 40) (l : Loc) (fs : List FieldSpec) : Prop where
  power : s.svc.power = 2
  clocks : s.flag Fld.timStatusPllLock = true
  aligned : addr.toNat % 4 = 0
  reached : s.accessRefused req addr.toNat = false
  place : locate addr.toNat = some l
  fields : regFields l.blk l.off = some fs

/-- The same, where the requester may write the register and sets no reserved bit. -/
structure WritableAt (s : State) (req : Requester) (addr : BitVec 40) (v : BitVec 32) (l : Loc) (fs : List FieldSpec) : Prop
    extends RegAt s req addr l fs where
  writer : s.mayWriteLoc req l = true
  bits : rsvdSet fs v.toNat = false

/-- Nothing else reads or writes the register in the same transom clock (R13). -/
def Alone (x : WriteSides) : Prop := x.readers = [] ∧ x.also = []

/-- What a read answers is added to what the module has answered; nothing else changes. -/
def State.answers (s : State) (addr : BitVec 40) (v : Nat) : State :=
  { s with out := s.out ++ [.readValue addr.toNat (BitVec.ofNat 32 v)] }

end Sys2Proof.Machine

/-- R10, R11: a read answers the register's value; a read of the low half of a 64-bit quantity also captures the high half for its requester
alone, and the requester's next read of the high half answers the capture, or the live value without one. A misaligned read answers zero and
is counted; a read of an unassigned address answers zero.
R10 to R13, R57, R99: RW fields store, W1C bits clear, RO fields keep their value; a write of the low half of a 64-bit quantity is staged for
its requester and changes nothing, and one of the high half stores both; CORE_PRIO takes its value, and CLEAR of CORE_CNT_CTRL zeroes three
counters. A misaligned write, one of an unassigned address and one by a requester that may not write the register only count. Of two writes in
one transom clock the one of the later writer stays, and a read in that clock answers the old value. -/
def Obligations.RegisterReadsAndWrites : Prop :=
  (∀ req addr s l fs, RegAt s req addr l fs → regIsLow l = false → regIsHigh l = false →
    exec (.reg64LowRead req addr) s = .next (s.answers addr (s.view l fs addr.toNat))) ∧
  (∀ req addr s l fs, RegAt s req addr l fs → regIsLow l = true →
    ∃ u, exec (.reg64LowRead req addr) s = .next u ∧ { u with ctrl.shadows := s.ctrl.shadows } = s.answers addr (s.view l fs addr.toNat) ∧
      SMap.get? u.ctrl.shadows (wideKey req addr.toNat) = some (BitVec.ofNat 32 (s.look (addr.toNat + 4))) ∧
      ∀ k, k ≠ wideKey req addr.toNat → SMap.get? u.ctrl.shadows k = SMap.get? s.ctrl.shadows k) ∧
  (∀ req addr s l fs w, RegAt s req addr l fs → regIsLow l = false → regIsHigh l = true →
    SMap.get? s.ctrl.shadows (wideKey req (addr.toNat - 4)) = some w →
    ∃ u, exec (.reg64LowRead req addr) s = .next u ∧ { u with ctrl.shadows := s.ctrl.shadows } = s.answers addr w.toNat ∧
      SMap.get? u.ctrl.shadows (wideKey req (addr.toNat - 4)) = none ∧
      ∀ k, k ≠ wideKey req (addr.toNat - 4) → SMap.get? u.ctrl.shadows k = SMap.get? s.ctrl.shadows k) ∧
  (∀ req addr s l fs, RegAt s req addr l fs → regIsLow l = false → regIsHigh l = true →
    SMap.get? s.ctrl.shadows (wideKey req (addr.toNat - 4)) = none →
    exec (.reg64LowRead req addr) s = .next (s.answers addr (s.view l fs addr.toNat))) ∧
  (∀ req (addr : BitVec 40) s, s.svc.power = 2 → s.flag Fld.timStatusPllLock = true → addr.toNat % 4 ≠ 0 →
    exec (.reg64LowRead req addr) s = .next ((s.misuse req).answers addr 0)) ∧
  (∀ req (addr : BitVec 40) s, s.svc.power = 2 → s.flag Fld.timStatusPllLock = true → addr.toNat % 4 = 0 → s.accessRefused req addr.toNat = false →
    locate addr.toNat = none → exec (.reg64LowRead req addr) s = .next (s.answers addr 0)) ∧
  (∀ (fs : List FieldSpec) (old v : Nat) f, fs.Pairwise (fun a b => a.lo + a.w ≤ b.lo ∨ b.lo + b.w ≤ a.lo) → f ∈ fs →
    field (written fs old v) f.lo f.w = match f.acc with
      | .rw => field v f.lo f.w
      | .w1c => field old f.lo f.w - (field old f.lo f.w &&& field v f.lo f.w)
      | _ => field old f.lo f.w) ∧
  (∀ req (core : CoreId) (addr : BitVec 40) v x s l fs, WritableAt s req addr v l fs → Alone x → addr.toNat = Reg.corePrio core →
    ∃ u, exec (.registerWrite req addr v x) s = .next u ∧ u.rd (Reg.corePrio core) = v.toNat ∧
      (∀ a, a ≠ Reg.corePrio core → u.rd a = s.rd a) ∧ { u with ctrl.regs := s.ctrl.regs } = s) ∧
  (∀ req req' r (core : CoreId) (addr : BitVec 40) v v' x s l fs, WritableAt s req addr v l fs → WritableAt s req' addr v' l fs →
    RegAt s r addr l fs → addr.toNat = Reg.corePrio core → x.readers = [r] → x.also = [(req', v')] →
    ∃ u, exec (.registerWrite req addr v x) s = .next u ∧
      u.out = s.out ++ [.readValue addr.toNat (BitVec.ofNat 32 (s.view l fs addr.toNat))] ∧
      u.rd (Reg.corePrio core) = if s.writerRank req' < s.writerRank req then v.toNat else v'.toNat) ∧
  (∀ req (core : CoreId) (addr : BitVec 40) x s l fs, WritableAt s req addr 1#32 l fs → Alone x → addr.toNat = Reg.coreCntCtrl core →
    Clears (.registerWrite req addr 1#32 x) s [] [Reg.coreIssue core, Reg.coreYield core, Reg.coreAbusy core]) ∧
  (∀ req addr v x s l fs, WritableAt s req addr v l fs → Alone x → regIsLow l = true → (fs.any fun f => f.acc == .rw) = true →
    s.wideLocked l = false →
    exec (.registerWrite req addr v x) s =
      .next { s with ctrl.staged := SMap.put s.ctrl.staged (wideKey req addr.toNat) (BitVec.ofNat 32 v.toNat) }) ∧
  (∀ req addr v x s l fs lows w, WritableAt s req addr v l fs → Alone x → regIsLow l = false → regIsHigh l = true →
    (fs.any fun f => f.acc == .rw) = true → s.wideLocked l = false → regFields l.blk (l.off - 4) = some lows →
    SMap.get? s.ctrl.staged (wideKey req (addr.toNat - 4)) = some w →
    ∃ u, exec (.registerWrite req addr v x) s = .next u ∧ SMap.get? u.ctrl.staged (wideKey req (addr.toNat - 4)) = none ∧
      u.rd addr.toNat = written fs (s.rd addr.toNat) v.toNat % 2 ^ 32 ∧
      u.rd (addr.toNat - 4) = written lows (s.rd (addr.toNat - 4)) w.toNat % 2 ^ 32 ∧
      ∀ a, a ≠ addr.toNat → a ≠ addr.toNat - 4 → u.rd a = s.rd a) ∧
  (∀ req addr v x s l fs, WritableAt s req addr v l fs → Alone x → regIsLow l = false → regIsHigh l = true →
    (fs.any fun f => f.acc == .rw) = true → s.wideLocked l = false →
    SMap.get? s.ctrl.staged (wideKey req (addr.toNat - 4)) = none →
    exec (.registerWrite req addr v x) s = .next (s.wr addr.toNat (written fs (s.rd addr.toNat) v.toNat))) ∧
  (∀ req (addr : BitVec 40) v x s, Alone x → s.svc.power = 2 → s.flag Fld.timStatusPllLock = true → addr.toNat % 4 ≠ 0 →
    exec (.registerWrite req addr v x) s = .next (s.misuse req)) ∧
  (∀ req (addr : BitVec 40) v x s, Alone x → s.svc.power = 2 → s.flag Fld.timStatusPllLock = true → addr.toNat % 4 = 0 →
    s.accessRefused req addr.toNat = false →
    locate addr.toNat = none → exec (.registerWrite req addr v x) s = .next (s.misuse req)) ∧
  (∀ req addr v x s l fs, Alone x → RegAt s req addr l fs → s.mayWriteLoc req l = false →
    exec (.registerWrite req addr v x) s = .next (s.misuse req))

/-- R276, R310, R311, R336, R384, R385, R419, R448, R457, R503, R527, R553: a write of CLEAR sets the counters that its register names to
zero, and nothing else changes. -/
def Obligations.CounterClears : Prop :=
  (∀ req (c : CtxId) s, s.accepts req (Reg.lvrCntCtrl c) 1 = true →
    Clears (.lvrCntClear req c) s [] [Reg.lvrHashRetry c, Reg.lvrHoldTicks c, Reg.lvrBytesIn c]) ∧
  (∀ req s, s.accepts req Reg.lvrFailClr 1 = true →
    Clears (.lvrFailClear req) s [Fld.lvrSigFailsCount, Fld.lvrHashFailsCount] []) ∧
  (∀ req s, s.accepts req Reg.netCntCtrl 1 = true →
    Clears (.netCntClear req) s ([Fld.netExSrcHeldCount, Fld.netExLinkHeldCount, Fld.netShutDropCount, Fld.netLostCount,
      Fld.netUnreachCount, Fld.netLinkFencesCount] ++ (List.range 256).map Fld.netLinkErrRetry) []) ∧
  (∀ req (c : CtxId) s, s.accepts req (Reg.migCntCtrl c) 1 = true →
    Clears (.migCntClear req c) s [Fld.migCauseLast c] [Reg.migFallback c, Reg.migStallTicks c, Reg.migStall1 c, Reg.migStall1 c + 8,
      Reg.migStall1 c + 16, Reg.migStall1 c + 24, Reg.migStall1 c + 32, Reg.migStall1 c + 40]) ∧
  (∀ req s, s.accepts req Reg.migErrClr 1 = true →
    Clears (.migErrClear req) s [Fld.migCeT0Count, Fld.migCeT1Count, Fld.migCeT2Count, Fld.migCeAccCount, Fld.migUeT0Count,
      Fld.migUeT1Count, Fld.migUeT2Count, Fld.migUeAccCount] []) ∧
  (∀ req (p : PortId) s, s.accepts req (Reg.lnkCntCtrl p) 1 = true →
    Clears (.lnkCntClear req p) s [Fld.lnkTrainFailCount p, Fld.lnkRetrainsCount p, Fld.lnkShareDropCount p, Fld.lnkAgeDropCount p,
      Fld.lnkEthDropCount p] [Reg.lnkFecCorr p, Reg.lnkFecUncorr p, Reg.lnkCrcErr p, Reg.lnkReplay p, Reg.lnkTxFlits p,
      Reg.lnkRxFlits p]) ∧
  (∀ req s, s.accepts req Reg.trpCntCtrl 1 = true →
    Clears (.trpCntClear req) s [Fld.trpGenDropCount, Fld.trpDupCount, Fld.trpRetxCount, Fld.trpGiveupCount, Fld.trpIdWaitCount,
      Fld.trpBadPktCount, Fld.trpConnFullCount] []) ∧
  (∀ req s, s.accepts req Reg.vblCntCtrl 1 = true →
    Clears (.vblCntClear req) s [Fld.vblRxDeniedCount, Fld.vblFwdDropCount, Fld.vblRcacheHitCount, Fld.vblRcacheFullCount,
      Fld.vblLateRspCount, Fld.vblExDemotedCount] []) ∧
  (∀ req (c : CtxId) s, s.accepts req (Reg.colCntCtrl c) 1 = true →
    Clears (.colCntClear req c) s [Fld.colDoneCount c, Fld.colAbortsCount c, Fld.colSlipsCount c, Fld.colStrayCount c]
      [Reg.colDropped c, Reg.colWaitTicks c]) ∧
  (∀ req (p : PartId) s, s.accepts req (Reg.shtCtrl p) 2 = true → Clears (.shtClear req p) s [Fld.shtMisuseCount p] []) ∧
  (∀ req s, s.accepts req Reg.shtModCtrl 1 = true → Clears (.shtModClear req) s [Fld.shtModMisuseCount] []) ∧
  (∀ req s, s.accepts req Reg.evcCntCtrl 1 = true →
    Clears (.evcCntClear req) s ([Fld.evcMaskedCount, Fld.evcDroppedCount] ++
      allQueues.flatMap fun q => [Fld.evcQDropCount q, Fld.evcQRedeliverCount q, Fld.evcAlmGlitchCount q]) []) ∧
  (∀ req s, s.accepts req Reg.relCntCtrl 1 = true →
    Clears (.relCntClear req) s [Fld.relMismatchesCount, Fld.relTransientsCount, Fld.relPermanentsCount, Fld.relUnresolvedCount,
      Fld.relScanPassCount, Fld.relScanFailCount, Fld.relDeferredCount] []) ∧
  (∀ req s, s.accepts req Reg.pwrCntCtrl 1 = true →
    Clears (.pwrCntClear req) s ([Fld.pwrSagsCount, Fld.pwrCfaultsCount, Fld.pwrCapMsCount] ++
      allRegions.flatMap fun r => [Fld.pwrRCntDroops r, Fld.pwrRCntFloors r]) [])

namespace Sys2Proof.Machine

/-- The mismatch is one that the context's checks can find, at the position that serves its core. -/
structure Mismatched (s : State) (m : Mismatch) (pos : Nat) : Prop where
  served : s.posOf m.core.val = some pos
  fits : s.mismatchFits m pos = true

/-- Every mismatch is counted, for the module and for its context, and the two repeats occupy arrays of the issuing core (R85, R99,
R510). -/
def State.counted (s : State) (m : Mismatch) : State :=
  ((s.bump Fld.relMismatchesCount).bump (Fld.relCtxMismatchCount m.ctx.val)).wrap64 (Reg.coreAbusy m.core.val) (2 * m.clocks.val)

/-- A test falls due for a position: it waits, or begins at once (R517, R519). -/
def State.dueNow (s : State) (pos : Nat) (calib never : Bool) : State := (s.testDue pos calib never).evcFlow

/-- The records of a scanned position (R518). -/
def State.scanned (s : State) (pos : Nat) (x : ScanResult) : State :=
  (s.setPosition pos { s.position pos with bad := x.bad.map (·.val), banks := x.banks, rows := x.rows }).put
    (Fld.ptcPosStatArrays pos) x.arrays.val

end Sys2Proof.Machine

/-- R510 to R516: a mismatch is counted and classified by the first row of R510's table that applies: a TRANSIENT is charged to the checker
or to array a, a PERMANENT array leaves service and its position is judged, an UNRESOLVED one charges both arrays and poisons the output. A
suspect whose CLEAN_HOURS have passed is one no longer. R517 to R521, R543: a scan falls due after its period of service or on request,
waits for a step boundary or a FORCE, and its result is recorded: a position that passes has every array back, and one that fails leaves
service. A calibration records TRIM and BASELINE. -/
def Obligations.MismatchesAndScans : Prop :=
  (∀ m s pos w, Mismatched s m pos → m.x2eq0 = true → m.x3eq0 = true → m.second = none →
    ((s.counted m).unclean pos).chargeTransient pos m.a.val = (w, false) →
    exec (.mmaCheckMismatch m) s = .next (s.clocked ((w.bump Fld.relTransientsCount).relEvent m pos 0x0B01 1).evcFlow)) ∧
  (∀ m s pos w, Mismatched s m pos → m.x2eq0 = false → m.x2eq3 = true →
    ((s.counted m).unclean pos).chargeTransient pos m.a.val = (w, false) →
    exec (.mmaCheckMismatch m) s = .next (s.clocked ((w.bump Fld.relTransientsCount).relEvent m pos 0x0B01 1).evcFlow)) ∧
  (∀ m s pos w, Mismatched s m pos → m.x2eq0 = false → m.x2eq3 = true →
    ((s.counted m).unclean pos).chargeTransient pos m.a.val = (w, true) →
    exec (.mmaCheckMismatch m) s =
      .next (s.clocked ((((w.bump Fld.relPermanentsCount).relEvent m pos 0x0B02 3).fenceArray pos m.a.val).judge pos m.a.val 3).evcFlow)) ∧
  (∀ m s pos, Mismatched s m pos → m.x2eq0 = true → m.x3eq0 = false → m.ok3 = true →
    exec (.mmaCheckMismatch m) s = .next (s.clocked ((((((s.counted m).unclean pos).bump Fld.relPermanentsCount).relEvent m pos 0x0B02 3).fenceArray
      pos m.a.val).judge pos m.a.val 1).evcFlow)) ∧
  (∀ m s pos, Mismatched s m pos → m.second = none → m.x2eq0 = false → m.x2eq3 = false →
    exec (.mmaCheckMismatch m) s = .next (s.clocked ((((((((s.counted m).unclean pos).unclean pos).bump Fld.relUnresolvedCount).bump
      (Fld.relCtxUnresolvedCount m.ctx.val)).relEvent m pos 0x0B03 3).poisonOut m |>.fenceArray pos m.a.val).judge pos m.a.val 2).evcFlow)) ∧
  (∀ (s : State) pos a, (s.position pos).bad.contains a = false →
    ((s.fenceArray pos a).position pos).bad = (s.position pos).bad ++ [a] ∧
    (s.fenceArray pos a).get (Fld.ptcPosStatArrays pos) = s.get (Fld.ptcPosStatArrays pos) - 1) ∧
  (∀ (s : State) core tile i, i < 64 → (s.poisonTile core tile).mem.anyPoison (accKey core tile + 64 * i) 64 = true) ∧
  (∀ (pos : PosId) s, s.flag (Fld.ptcPosStatSuspect pos) = true →
    60 * max 1 (s.get Fld.relObsCfgCleanHours) ≤ s.get (Fld.ptcPosTimeClean pos) →
    exec (.suspectClear pos) s = .next (s.clocked ((s.put (Fld.ptcPosStatSuspect pos) 0).put (Fld.ptcPosTimeClean pos) 0))) ∧
  (∀ (pos : PosId) s, s.flag (Fld.ptcPosStatSuspect pos) = false → exec (.suspectClear pos) s = .next s) ∧
  (∀ (pos : PosId) never s, s.flag (Fld.ptcPosStatFailed pos) = false → (s.serves pos).isSome = true →
    s.scanPeriod pos ≤ s.get (Fld.ptcPosTimeSinceScan pos) →
    exec (.scanDue pos never) s = .next (s.clocked (s.dueNow pos false never))) ∧
  (∀ (pos : PosId) never s, s.get (Fld.ptcPosTimeSinceScan pos) < s.scanPeriod pos → exec (.scanDue pos never) s = .next s) ∧
  (∀ req (v : BitVec 32) never s, s.accepts req Reg.relScanReq v.toNat = true → v.getLsbD 9 = false →
    (319 < v.toNat % 512 → exec (.scanRequest req v never) s = .next (s.put Fld.relScanResultResult 1)) ∧
    (v.toNat % 512 ≤ 319 → s.flag (Fld.ptcPosStatFailed (v.toNat % 512)) = true →
      exec (.scanRequest req v never) s = .next (s.put Fld.relScanResultResult 2)) ∧
    (v.toNat % 512 ≤ 319 → s.flag (Fld.ptcPosStatFailed (v.toNat % 512)) = false → s.testPending (v.toNat % 512) = true →
      exec (.scanRequest req v never) s = .next (s.put Fld.relScanResultResult 3)) ∧
    (v.toNat % 512 ≤ 319 → s.flag (Fld.ptcPosStatFailed (v.toNat % 512)) = false → s.testPending (v.toNat % 512) = false →
      exec (.scanRequest req v never) s = .next ((s.put Fld.relScanResultResult 0).dueNow (v.toNat % 512) false never))) ∧
  (∀ req (v : BitVec 32) never s, s.accepts req Reg.relScanReq v.toNat = true → v.getLsbD 9 = true → v.toNat % 512 ≤ 319 →
    s.flag (Fld.ptcPosStatFailed (v.toNat % 512)) = false → s.testPending (v.toNat % 512) = false →
    exec (.calibRequest req v never) s = .next ((s.put Fld.relScanResultResult 0).dueNow (v.toNat % 512) true never)) ∧
  (∀ (pos : PosId) s t k p, (s.rel.tests.find? fun t => t.pos == pos.val) = some t → s.serves pos = some k →
    s.freePos (pos / 5) = some p → t.deferred = none → s.applyBarred (pos / 5) = false →
    s.atBoundary t (coreOf (pos / 5) k) = true → t.held = [] →
    exec (.stepBoundaryMigrate pos) s = .next (s.clocked ((({ s with rel.tests := s.rel.tests.map fun (x : PosTest) =>
      if x.pos == pos.val then { x with held := [] } else x } : State).supApply (pos / 5) k (p % 5) true).relPump).evcFlow)) ∧
  (∀ (pos : PosId) s, (s.rel.tests.find? fun t => t.pos == pos.val) = none → exec (.stepBoundaryMigrate pos) s = .next s) ∧
  (∀ req (c : CtxId) (v : BitVec 32) s, s.accepts req (Reg.relCtxCtrl c) v.toNat = true → v.getLsbD 8 = true → v.toNat % 8 ≤ 4 →
    s.ctxUsed c = true → s.forceResult c ≠ 0 →
    exec (.relForce req c v) s = .next (s.put (Fld.relCtxStatusForceResult c) (s.forceResult c)).evcFlow) ∧
  (∀ req (c : CtxId) (v : BitVec 32) s t core, s.accepts req (Reg.relCtxCtrl c) v.toNat = true → v.getLsbD 8 = true → v.toNat % 8 ≤ 4 →
    s.ctxUsed c = true → s.forceResult c = 0 → s.forcible c = [(t, core)] →
    exec (.relForce req c v) s = .next (((({ (s.ctxsOn core).foldl State.forceHold (s.put (Fld.relCtxStatusForceResult c) 0) with
      rel.tests := s.rel.tests.map fun (x : PosTest) => if x.pos == t.pos then { x with deferred := none, held := s.ctxsOn core } else x
      } : State).stepMigrate t.pos).relPump).ptcReport (t.pos / 5)).evcFlow) ∧
  (∀ (n : PaneId) x s r, (s.rel.runs.find? fun r => r.pos / 5 == n.val && !r.calib) = some r → s.svc.testEn = false →
    (x.arrays.val = 512 → x.banksUp.val = 64 → x.macros = true →
      exec (.scanComplete n x) s = .next (s.clocked (((((s.scanned r.pos x).put (Fld.ptcPosTimeSinceScan r.pos) 0).bump Fld.relScanPassCount).testEnd
        n r.pos true false x.repaired.val x.ticks.toNat).testFollow r true))) ∧
    (¬(x.arrays.val = 512 ∧ x.banksUp.val = 64 ∧ x.macros = true) →
      exec (.scanComplete n x) s = .next (s.clocked ((((s.scanned r.pos x).bump Fld.relScanFailCount).testEnd
        n r.pos false false x.repaired.val x.ticks.toNat).testFollow r false)))) ∧
  (∀ (s : State) n pos pass calib rep ticks, s.raised = [] →
    ((s.testEnd n pos pass calib rep ticks).rel.runs = s.rel.runs.filter fun (r : PosRun) => r.pos != pos) ∧
    ∃ e, (s.testEnd n pos pass calib rep ticks).raised = [e] ∧ e.code = 0x0B04 ∧ e.src = srcPane n ∧ e.sev = (if pass then 0 else 3) ∧
      e.w3 = BitVec.ofNat 64 ticks) ∧
  (∀ (r : RegionId) x s t, s.svc.testEn = false → r.val % 6 ≠ 5 →
    (s.rel.runs.find? fun t => t.pos == 5 * (r.val / 6) + r.val % 6 && t.calib) = some t →
    exec (.calibComplete r x) s = .next (s.clocked (((s.calibSet r x (calibPass r x) (s.serves (5 * (r.val / 6) + r.val % 6)).isSome).testEnd
      (r.val / 6) (5 * (r.val / 6) + r.val % 6) (calibPass r x) true 0 x.ticks.toNat).testFollow t (calibPass r x)))) ∧
  (∀ (s : State) (r : Nat) x stays,
    s.calibSet r x false stays = (s.put (Fld.pwrRStatTrim r) x.trim.toNat).put (Fld.pwrRRconBaseline r) x.baseline.toNat) ∧
  (∀ (r : RegionId) x, calibPass r x = true ↔ -32 ≤ x.trim.toInt ∧ x.trim.toInt ≤ 31 ∧
    x.baseline.toNat ≤ if r.val % 6 = 5 then 39000 else 13000)

/-- R56 to R61, R99: APPLY with REPLACE joins every slot whose position changes to its new one and completes at once; with MIGRATE it moves
one slot, BUSY until the copy completes, in one of the ticks in which the new position's region is ON; a copy that fails, once its source
has been silent for 1 ms, completes as a REPLACE, and a new position that fails leaves the slot where it is. A refused APPLY records its
reason and is counted. Whatever ends BUSY lets the pane's waiting moves go (log entry 37, the model's choice). -/
def Obligations.SubstitutionSwitch : Prop :=
  (∀ req (n : PaneId) s, s.accepts req (Reg.pswCtrl n) 3 = true → s.pswReason n false ≠ 0 →
    exec (.pswApplyReplace req n) s = .next ((((s.put (Fld.pswStatusRefused n) 1).put (Fld.pswStatusReason n)
      (s.pswReason n false)).misuseMod).movesGo n).vblPump) ∧
  (∀ req (n : PaneId) s, s.accepts req (Reg.pswCtrl n) 3 = true → s.pswReason n false = 0 → s.pswChanged n = [] →
    exec (.pswApplyReplace req n) s = .next ((s.put (Fld.pswStatusDone n) 1).movesGo n).vblPump) ∧
  (∀ req (n : PaneId) s k, s.accepts req (Reg.pswCtrl n) 3 = true → s.pswReason n false = 0 → s.pswChanged n = [k] →
    exec (.pswApplyReplace req n) s =
      .next (((s.joinSlot n k (field (s.rd (Reg.pswNext n)) (4 * k) 4) false).pswDone n).movesGo n).vblPump) ∧
  (∀ req (n : PaneId) done s, s.accepts req (Reg.pswCtrl n) 1 = true → s.pswReason n true ≠ 0 →
    exec (.pswApplyMigrate req n done) s =
      .next ((((s.put (Fld.pswStatusRefused n) 1).put (Fld.pswStatusReason n) (s.pswReason n true)).misuseMod).movesGo n)) ∧
  (∀ req (n : PaneId) s k p, s.accepts req (Reg.pswCtrl n) 1 = true → s.pswReason n true = 0 → s.pswChanged n = [k] →
    p = field (s.rd (Reg.pswNext n)) (4 * k) 4 → s.regState (6 * n + p) ≠ regSagged →
    let w := ({ s with rel.moving := SMap.put s.rel.moving n (k, p, s.tick) } : State).put (Fld.pswStatusBusy n) 1
    exec (.pswApplyMigrate req n false) s = .next ((w.enSet (6 * n + p)).movesGo n) ∧
    exec (.pswApplyMigrate req n true) s = .next (((w.joinSlot n k p true).pswDone n).movesGo n)) ∧
  (∀ (s : State) n k p since, s.rel.moving = [(n, (k, p, since))] → s.copying n p = true →
    let w := ({ s with draws := s.draws + 1 } : State)
    s.copyTick = w ∨ s.copyTick = (((w.joinSlot n k p true).pswDone n).movesGo n).vblPump) ∧
  (∀ (n : PaneId) s k p since, SMap.get? s.rel.moving n = some (k, p, since) → s.copying n p = true → since + 250000 ≤ s.tick →
    exec (.copyFail n) s = .next (s.clocked
      ((((s.put (Fld.pswStatusCopyFail n) 1).joinSlot n k p false).pswDone n).movesGo n).vblPump)) ∧
  (∀ (n : PaneId) s k p since, SMap.get? s.rel.moving n = some (k, p, since) → s.tick < since + 250000 →
    exec (.copyFail n) s = .next s) ∧
  (∀ (n : PaneId) s k p since, SMap.get? s.rel.moving n = some (k, p, since) → s.serves (5 * n + p) = some k →
    exec (.migrateNewPositionFail n) s = .next (s.clocked (((((({ s with rel.moving := SMap.del s.rel.moving n } : State).put
      (Fld.pswStatusBusy n) 0).put (Fld.pswStatusCopyFail n) 1).put (Fld.pswStatusRefused n) 1).put
        (Fld.pswStatusReason n) 7).movesGo n))) ∧
  (∀ (n : PaneId) s k p since, SMap.get? s.rel.moving n = some (k, p, since) → s.serves (5 * n + p) = none →
    exec (.migrateNewPositionFail n) s = .next (s.clocked ((((((({ s with rel.moving := SMap.del s.rel.moving n } : State).put
      (Fld.pswStatusBusy n) 0).put (Fld.pswStatusCopyFail n) 1).put (Fld.pswStatusRefused n) 1).put (Fld.pswStatusReason n) 7).enClear
        (6 * n + p)).movesGo n))) ∧
  (∀ (n : PaneId) s, SMap.get? s.rel.moving n = none →
    exec (.copyFail n) s = .next s ∧ exec (.migrateNewPositionFail n) s = .next (s.clocked (s.movesGo n))) ∧
  (∀ (s : State) (n : PaneId) k p, k < 4 → p < 16 →
    (s.joinSlot n k p true).rd (Reg.pswMap n) = setField (s.rd (Reg.pswMap n)) (4 * k) 4 p ∧
    (s.joinSlot n k p true).get64 (Reg.coreIssue (coreOf n k)) = 0 ∧ (s.joinSlot n k p true).get64 (Reg.coreYield (coreOf n k)) = 0 ∧
    (s.joinSlot n k p true).get64 (Reg.coreAbusy (coreOf n k)) = 0)

namespace Sys2Proof.Machine

/-- The engine's ring of a context runs, and its command at HEAD is `cmd`, in order and not begun. -/
structure MigNext (s : State) (c : Nat) (cmd : MigCmd) : Prop where
  head : s.migCmd c = some cmd
  fresh : SMap.get? s.migs c = none

/-- The first sector byte of a finding, and what MEM_UE says of it (R272). -/
def eccSector (f : EccFinding) : Nat := memKey f.mem.code f.unit.val (f.off.toNat / 64 * 64) / 64

/-- An uncorrectable error poisons its sector, is counted and reported (R268, R272); `who`: the context, or 0xFF for the scrubber. -/
def State.ueSeen (s : State) (f : EccFinding) (who part : Nat) (write : Bool) : State :=
  (({ s with mem := s.mem.setPoison (eccSector f) } : State).bump (ueField f.mem.code)).raise (eccSource f.mem.code f.unit.val) 0x0310 2 who part
    (f.mem.code + f.unit.val * 2 ^ 8 + f.off.toNat / 64 * 64 * 2 ^ 16) (who + if write then 2 ^ 8 else 0)

end Sys2Proof.Machine

/-- R255 to R258, R397: the engine reserves every slot of the first waiting instruction at once or none of them, within STAGE_TILES, each in
a tile of the pool of its own; a tile that returns lands in its place with its poison, and a refused T3 read faults the context with cause
6; a T2 write is acknowledged once no reservation of a copy of its tile is held, and the copies drop; a write from the fabric that waited
for it is then answered. R266 to R269, R271, R272: an uncorrectable error, of an access or of the scrubber, poisons its sector, is counted
and reported, a correctable one is only counted; in a poisoned sector only one that a partial write finds is counted and reported; a lost
stack takes its channel out of service with an event, and no error is found there. -/
def Obligations.StagingPoolAndMemoryErrors : Prop :=
  (∀ (core : CoreId) s slot rest t want p, SMap.getD s.cores.stageQueue core [] = slot :: rest → s.task? core slot = some t →
    t.state = .waiting → t.wait = some (.tiles want) → (s.pool core t.ctx).reserve (s.stageTiles t.ctx) (some slot) want = some p →
    exec (.stageReserve core none) s = .next (s.clocked ((((s.requestT3 core t.ctx ((s.pool core t.ctx).missing
      ((want.map (·.1)).eraseDups))).setPool core t.ctx p).leaveStage core slot).noteCore core).vblPump)) ∧
  (∀ (core : CoreId) s slot rest t want, SMap.getD s.cores.stageQueue core [] = slot :: rest → s.task? core slot = some t →
    t.state = .waiting → t.wait = some (.tiles want) → (s.pool core t.ctx).reserve (s.stageTiles t.ctx) (some slot) want = none →
    exec (.stageReserve core none) s = .next (s.clocked (s.noteCore core).vblPump)) ∧
  (∀ (p q : Pool) limit k want, p.reserve limit (some k) want = some q →
    (∀ w, w ∈ want → ∃ y, y ∈ q.tiles ∧ y.addr = w.1 ∧ k ∈ y.holders) ∧ (p.tiles.length ≤ limit → q.tiles.length ≤ limit) ∧
    ((p.tiles.map (·.place)).Nodup → (q.tiles.map (·.place)).Nodup) ∧
    ((∀ y, y ∈ p.tiles → y.place < limit) → ∀ y, y ∈ q.tiles → y.place < limit)) ∧
  (∀ (core : CoreId) (c : CtxId) s a rest (q p : Pool), (s.pool core c).ahead = a :: rest → q = { s.pool core c with ahead := rest } →
    q.reserve (s.stageTiles c) none [(a, false)] = some p →
    exec (.stageReserve core (some c)) s = .next (s.clocked ((((s.setPool core c q).requestT3 core c
      ((s.pool core c).missing [a])).setPool core c p).vblPump))) ∧
  (∀ (core : CoreId) (c : CtxId) (tile : BitVec 32) reply s o,
    ((s.pool core c).tiles.any fun y => y.addr == tile.toNat * 4096 && !y.landed) = true → region (tile.toNat * 4096) = .t2 o →
    s.chanUp (s.t2Key (s.partOf c) o).1 = true →
    exec (.stageComplete core c tile [] reply) s = .next (s.clocked ((s.noteCore core).landCopy core c (tile.toNat * 4096)
      (s.mem.bytes (s.t2Key (s.partOf c) o).2 4096)
      ((List.range 64).filter fun q => s.mem.poisoned (((s.t2Key (s.partOf c) o).2 + 64 * q) / 64))))) ∧
  (∀ (core : CoreId) (c : CtxId) (tile : BitVec 32) found data s i o r,
    ((s.pool core c).tiles.any fun y => y.addr == tile.toNat * 4096 && !y.landed) = true → region (tile.toNat * 4096) = .t3 i o →
    (s.vbl.reqs.find? fun q => q.ctx == c.val && q.use == .engine (.stage core (tile.toNat * 4096)) && q.first.isSome) = some r →
    r.dst ≠ s.ownNode → data.length = 4096 →
    exec (.stageComplete core c tile found (.ok data)) s = .next (s.clocked
      (({ (s.noteCore core).dropReq r.num with draws := s.draws + 1 } : State).landCopy core c (tile.toNat * 4096) data []).vblPump)) ∧
  (∀ (s : State) core c a data pz y, (s.pool core c).tiles.find? (fun y => y.addr == a && !y.landed) = some y → c < 64 →
    (s.landCopy core c a data pz).mem = (s.twrite c (s.stageAddr core c y.place) data
      fun q => pz.contains (q - s.stageAddr core c y.place / 64)).mem ∧
    { y with landed := true } ∈ ((s.landCopy core c a data pz).pool core c).tiles) ∧
  (∀ (core : CoreId) (c : CtxId) (tile : BitVec 32) found k s i o r,
    ((s.pool core c).tiles.any fun y => y.addr == tile.toNat * 4096 && !y.landed) = true → region (tile.toNat * 4096) = .t3 i o →
    (s.vbl.reqs.find? fun q => q.ctx == c.val && q.use == .engine (.stage core (tile.toNat * 4096)) && q.first.isSome) = some r →
    r.dst ≠ s.ownNode → k ≠ 5 →
    exec (.stageComplete core c tile found (.status k)) s = .next (s.clocked (((((s.noteCore core).outcome r k).dropReq r.num).endStage
      core c (tile.toNat * 4096)).faultCtx c 6 (s.leafOn c core)).vblPump)) ∧
  (∀ (p : PartId) (tile : BitVec 32) s, s.flag Fld.timStatusPllLock = true → s.lvrs = [] → s.vbl.late = [] →
    s.mem.acks.contains (p.val, tile.toNat) = true →
    ((s.copiesOf p tile.toNat).any fun y => !y.2.holders.isEmpty) = false →
    ∃ u, exec (.t2WriteAck p tile) s = .next u ∧ u.mem.acks.contains (p.val, tile.toNat) = false ∧ u.copiesOf p tile.toNat = [] ∧
      ({ u with mem.acks := s.mem.acks, cores.pools := s.cores.pools } : State) = s) ∧
  (∀ (p : PartId) (tile : BitVec 32) s m cls, s.lvrs = [] → s.vbl.late = [(m, cls, [(p.val, tile.toNat)])] →
    s.mem.acks = [(p.val, tile.toNat)] → ((s.copiesOf p tile.toNat).any fun y => !y.2.holders.isEmpty) = false →
    exec (.t2WriteAck p tile) s = .next (s.clocked
      ((({ s.t2Ack p tile.toNat with vbl.late := [] } : State).respond m cls 0 0 []).vblPump))) ∧
  (∀ (p : PartId) (tile : BitVec 32) s, s.lvrs = [] → s.vbl.late = [] →
    ((s.copiesOf p tile.toNat).any fun y => !y.2.holders.isEmpty) = true → exec (.t2WriteAck p tile) s = .next s) ∧
  (∀ (f : EccFinding) s, f.ctx = none → s.flag Fld.migScrubEn = true → (f.mem.code = 2 → s.chanUp f.unit.val = true) →
    s.mem.poisoned (eccSector f) = false → f.ue = true →
    exec (.patrolScrub f) s = .next (s.clocked (s.ueSeen f 0xFF 0xFF false))) ∧
  (∀ (f : EccFinding) (c : CtxId) s, f.ctx = some c → (f.mem.code = 2 → s.chanUp f.unit.val = true) → f.ue = true →
    s.mem.poisoned (eccSector f) = false ∨ f.write = true →
    exec (.patrolScrub f) s = .next (s.clocked (s.ueSeen f c (s.partOf c) f.write))) ∧
  (∀ (f : EccFinding) s, (f.ctx = none → s.flag Fld.migScrubEn = true) → (f.mem.code = 2 → s.chanUp f.unit.val = true) →
    s.mem.poisoned (eccSector f) = false → f.ue = false →
    exec (.patrolScrub f) s = .next (s.clocked (s.bump (ceField f.mem.code)))) ∧
  (∀ (f : EccFinding) s, s.mem.poisoned (eccSector f) = true → f.ctx = none ∨ f.write = false ∨ f.ue = false →
    exec (.patrolScrub f) s = .next s) ∧
  (∀ (f : EccFinding) s, f.mem.code = 2 → s.chanUp f.unit.val = false → exec (.patrolScrub f) s = .next s) ∧
  (∀ (f : EccFinding) s, f.ctx = none → s.flag Fld.migScrubEn = false → exec (.patrolScrub f) s = .next s) ∧
  (∀ (f : EccFinding) who part write (s : State), ((s.ueSeen f who part write).mem.poisoned (eccSector f)) = true) ∧
  (∀ (m : ChanId) s, s.flag Fld.timStatusPllLock = true → s.chanUp m = true →
    ∃ u e, exec (.t2Lost m) s = .next u ∧ u.chanUp m = false ∧ (∀ k, k < 16 → k ≠ m.val → u.chanUp k = s.chanUp k) ∧ u.mem = s.mem ∧
      (s.raised = [] → u.raised = [e] ∧ e.src = srcEdge (chanEdge m) ∧ e.code = 0x0311 ∧ e.sev = 4)) ∧
  (∀ (m : ChanId) s, s.chanUp m = false → exec (.t2Lost m) s = .next s)

/-- R273 to R276: enabling the ring sets HEAD to TAIL's value, or is refused and counted; the engine moves the tiles of a COPY with their
poison, drops the copies of a DROP and ends a FENCE at once; a command that ends writes its status and HEAD passes it. -/
def Obligations.MigrationRing : Prop :=
  (∀ req (c : CtxId) (v : BitVec 32) s w, s.accepts req (Reg.migRingCtrl c) v.toNat = true → s.flag (Fld.migRingCtrlEn c) = false →
    w = s.put (Fld.migRingCtrlSizeLog2 c) (v.toNat % 32) →
    (w.migRingOk c = true → ∃ u, exec (.migRingEnable req c v) s = .next u ∧ u.flag (Fld.migRingCtrlEn c) = true ∧
      u.get (Fld.migRingHeadHead c) = s.get (Fld.migRingTailTail c) % w.migSize c ∧ u.mem = s.mem) ∧
    (w.migRingOk c = false → exec (.migRingEnable req c v) s = .next (w.misuse req))) ∧
  (∀ req (c : CtxId) (v : BitVec 32) s, s.accepts req (Reg.migRingTail c) v.toNat = true →
    exec (.migRingTailWrite req c v) s = .next (s.put (Fld.migRingTailTail c) (v.toNat % 4096))) ∧
  (∀ (c : CtxId) n replies s cmd w, MigNext s c cmd → cmd.op = 1 → s.migRefused c cmd = none → cmd.tiles = 1 →
    upperTier cmd.src = true → upperTier cmd.dst = true → w = s.put (Fld.migRingStatusBusy c) 1 →
    w.moveRefused c cmd.src cmd.dst = none →
    exec (.migCopy c (n + 1) replies) s = .next (s.clocked ((({ w with draws := w.draws + 1 } : State).twrite c cmd.dst (s.mem.bytes (s.key c cmd.src) 4096)
      fun q => ((List.range 64).filter fun q => s.mem.poisoned (s.key c cmd.src / 64 + q)).contains (q - cmd.dst / 64)).migEnd c 0 1
        ((List.range 64).filter fun q => s.mem.poisoned (s.key c cmd.src / 64 + q)).length).vblPump)) ∧
  (∀ (c : CtxId) n replies s cmd st, MigNext s c cmd → cmd.op ≠ 2 → cmd.op ≠ 3 → s.migRefused c cmd = some st →
    exec (.migCopy c n replies) s = .next (s.clocked (s.migEnd c st 0 0).vblPump)) ∧
  (∀ (c : CtxId) s cmd, MigNext s c cmd → cmd.op = 2 → cmd.ok = true →
    exec (.migDrop c) s = .next (s.clocked ((s.migDropRange c cmd.src cmd.tiles).migEnd c 0 cmd.tiles 0))) ∧
  (∀ (c : CtxId) s cmd, MigNext s c cmd → cmd.op = 3 → cmd.ok = true → exec (.migFence c) s = .next (s.clocked (s.migEnd c 0 0 0))) ∧
  (∀ (c : CtxId) n replies s, s.migCmd c = none →
    exec (.migCopy c n replies) s = .next (s.clocked s.vblPump) ∧ exec (.migDrop c) s = .next s ∧ exec (.migFence c) s = .next s) ∧
  (∀ (s : State) (c : CtxId) st done pz, st < 256 →
    (s.migEnd c st done pz).get (Fld.migRingStatusLastStatus c) = st ∧ (s.migEnd c st done pz).flag (Fld.migRingStatusBusy c) = false ∧
    (s.migEnd c st done pz).get (Fld.migRingHeadHead c) = (s.get (Fld.migRingHeadHead c) + 1) % s.migSize c) ∧
  (∀ (s : State) (c : CtxId) st done pz compl, compl = leAt (s.mem.bytes (s.key c (s.get64 (Reg.migRingBase c) % 2 ^ 44 +
      64 * s.get (Fld.migRingHeadHead c))) 64) 24 8 % 2 ^ 44 → compl ≠ 0 → compl % 8 = 0 → upperTier compl = true →
    s.mapped c compl 8 = true →
    (s.migEnd c st done pz).mem.bytes (s.key c compl) 8 = leBytes 8 (st + done * 2 ^ 8 + pz * 2 ^ 32) ∧
    (∀ a, a < s.key c compl ∨ s.key c compl + 8 ≤ a → (s.migEnd c st done pz).mem.byte a = s.mem.byte a))

namespace Sys2Proof.Machine

/-- The descriptor that Louvre starts next, which passes the first checks of R289 once it has been taken. -/
structure LvrStarts (s : State) (c ring : Nat) (d : LvrCmd) (w : State) : Prop where
  next : s.lvrNext c = some (ring, d)
  taken : w = s.lvrTake c ring
  fits : w.lvrRefused c d = none

/-- A read of an engine was sent to another module, and its answer ends it: an unsuccessful one has its outcome (R389, R397, R422). -/
structure EngineAnswers (s : State) (c : CtxId) (e : EngineRead) (reply : Reply) (r : Req) (w : State) : Prop where
  sent : (s.vbl.reqs.find? fun q => q.ctx == c.val && q.use == .engine e && q.first.isSome) = some r
  far : r.dst ≠ s.ownNode
  ended : w = (match reply with
    | .status st => s.outcome r st
    | .ok _ => s
    | .poisoned _ => s).dropReq r.num

/-- The manifest that a LOAD (OP 1) or a SWAP (OP 2) reads arrives; `u` has asked for the rest of it and waits for it no more (R285). -/
structure ManifestIn (s : State) (c : CtxId) (op ring : Nat) (d : LvrCmd) (man : Reply) (u : State) : Prop where
  reading : ∃ t, (s.lvr c).reading = some (ring, t)
  desc : d = LvrCmd.of (s.lvrDesc c ring)
  code : d.op = op
  here : ∃ r w, EngineAnswers s c (.manifest ring) man r w ∧ u = (w.readRest c d man).setLvr c { w.lvr c with reading := none }

/-- A LOAD or SWAP has passed its first checks and reads its manifest's header (R285, R305). -/
def State.readsManifest (w : State) (c ring : Nat) (d : LvrCmd) (phase : Nat) : State :=
  ((((w.askEngine c (.manifest ring) d.a0 128).setLvr c { w.lvr c with reading := some (ring, w.tick) }).put
    (Fld.lvrStatusBusy c) 1).put (Fld.lvrStatusPhase c) phase).vblPump

/-- A SWAP that begins: phase 1, its hold generation as the descriptor gives it (R303, R305). -/
def swapBegun (j : LvrJob) (gen : Option Nat) : Swap := ⟨j, 1, gen, none, none, false, 0⟩

end Sys2Proof.Machine

/-- R285, R286, R295, R296: no manifest is used whose header, key and signature have not passed, and no chunk whose digest does not match
its leaf. A LOAD whose manifest fits the context asks for its pages; a verified page is kept and its chunks are asked for, a mismatch is
asked for again, and the fourth ends the LOAD, as a refused read does; FETCH_S seconds without an answer end it with TIMEOUT (R293). -/
def Obligations.WeightsVerified : Prop :=
  (∀ (s t : State) c ring man m, s.takeManifest c ring man = (t, .ok m) →
    t = s ∧ ∃ data k, man = .ok data ∧ m = (data ++ List.replicate (manTotal data) 0#8).take (manTotal data) ∧
      manHeaderOk data = true ∧ s.keySlot c (manKey m) = some k ∧ s.sigOk k m = true ∧ manTablesOk m = true) ∧
  (∀ (j k : LvrJob) i reply data, j.check false i reply = .chunk k data →
    reply = .ok data ∧ data.length = chunkLen j.man i ∧ sha384 data = chunkDigest (SMap.getD j.pages (i / 1024) []) i ∧
      k = { j with asked := SMap.del j.asked (2 * i) }) ∧
  (∀ (j k : LvrJob) i reply, j.check true i reply = .page k →
    ∃ data, reply = .ok data ∧ data.length = pageLen j.man i ∧ sha384 data = pageDigest j.man i ∧ SMap.get? k.pages i = some data) ∧
  (∀ (c : CtxId) man s ring d u m x, ManifestIn s c 1 ring d man u → u.takeManifest c ring man = (u, .ok m) → u.lvrState c 1 = true →
    (u.listed c d m).eraseDups.length = (u.listed c d m).length → u.loadFits c d m (u.listed c d m) = true →
    x = u.askPages c (lvrJob ring (s.lvrDesc c ring) m (u.listed c d m) (u.placed c m (u.listed c d m))) →
    exec (.lvrLoad c man) s = .next (s.clocked (x.1.loadGo c x.2).vblPump)) ∧
  (∀ (c : CtxId) man s ring d u t st, ManifestIn s c 1 ring d man u → u.takeManifest c ring man = (t, .error st) →
    exec (.lvrLoad c man) s = .next (s.clocked (t.lvrEnd c ring st 0 0).vblPump)) ∧
  (∀ (c : CtxId) page i reply s r w j k x, EngineAnswers s c (.load page i) reply r w → (s.lvr c).load = some j →
    j.check page i reply = .page k → x = w.askChunks c k i →
    exec (.lvrChunkVerify c .load page i reply) s =
      .next (s.clocked (x.1.setLvr c { x.1.lvr c with load := some x.2 }).vblPump)) ∧
  (∀ (c : CtxId) page i reply s r w j k data, EngineAnswers s c (.load page i) reply r w → (s.lvr c).load = some j →
    j.check page i reply = .chunk k data →
    exec (.lvrChunkVerify c .load page i reply) s = .next (s.clocked (w.loadChunk c i data k).vblPump)) ∧
  (∀ (c : CtxId) page i reply s r w j k n x, EngineAnswers s c (.load page i) reply r w → (s.lvr c).load = some j →
    j.check page i reply = .miss k n → n < 4 → x = State.askJob c (w, k) page i →
    exec (.lvrChunkVerify c .load page i reply) s =
      .next (s.clocked ((x.1.setLvr c { x.1.lvr c with load := some x.2 }).wrap64 (Reg.lvrHashRetry c)).vblPump)) ∧
  (∀ (c : CtxId) page i reply s r w j k n, EngineAnswers s c (.load page i) reply r w → (s.lvr c).load = some j →
    j.check page i reply = .miss k n → 4 ≤ n →
    exec (.lvrChunkVerify c .load page i reply) s =
      .next (s.clocked (((w.setLvr c { w.lvr c with load := some k }).hashMiss c i page k.ring n).loadEnd c k 12).vblPump)) ∧
  (∀ (c : CtxId) page i reply s r w j st, EngineAnswers s c (.load page i) reply r w → (s.lvr c).load = some j →
    j.check page i reply = .refused st →
    exec (.lvrChunkVerify c .load page i reply) s = .next (s.clocked (w.loadEnd c j st).vblPump)) ∧
  (∀ (c : CtxId) page i reply s r w v k data, EngineAnswers s c (.swap page i) reply r w → (s.lvr c).swap = some v → v.fin = none →
    v.job.check page i reply = .chunk k data →
    exec (.lvrChunkVerify c .swap page i reply) s = .next (s.clocked (w.swapChunk c i data { v with job := k }).vblPump)) ∧
  (∀ (c : CtxId) s j, (s.lvr c).load = some j → s.unanswered c (j.asked.map (·.2)) = true →
    exec (.lvrFetchTimeout c false) s = .next (s.clocked (s.loadEnd c j 15))) ∧
  (∀ (c : CtxId) s j, (s.lvr c).load = some j → s.unanswered c (j.asked.map (·.2)) = false →
    exec (.lvrFetchTimeout c false) s = .next s) ∧
  (∀ (c : CtxId) s ring t, (s.lvr c).load = none → (s.lvr c).reading = some (ring, t) → (LvrCmd.of (s.lvrDesc c ring)).op = 1 →
    s.unanswered c [t] = true →
    exec (.lvrFetchTimeout c false) s =
      .next (s.clocked (((s.dropReads c EngineRead.ofManifest).setLvr c { s.lvr c with reading := none }).lvrEnd c ring 15 0 0))) ∧
  (∀ (c : CtxId) s w, (s.lvr c).swap = some w → w.fin = none → s.unanswered c (w.job.asked.map (·.2)) = true →
    exec (.lvrFetchTimeout c true) s = .next (s.clocked (s.swapFail c w 15))) ∧
  (∀ (c : CtxId) s, (s.lvr c).load = none → (s.lvr c).reading = none → exec (.lvrFetchTimeout c false) s = .next s)

/-- R288 to R292, R310: enabling the descriptor ring sets HEAD to TAIL's value, or is refused and counted; a descriptor that breaks its
format or names an unmapped address ends with that status; a LOAD or SWAP that passes these checks sets BUSY and reads its manifest's
header; a FENCE completes; a descriptor that ends writes its status and HEAD passes it; a WRITE_BACK sends its shard and rings its doorbell
only then (R307). R303 to R306: a SWAP whose checks pass enters phase 1; its context is HELD at the hold generation in phase 3; the exchange
of phase 4 puts the new bytes in place and the old ones in the buffer; with HOLD, phase 5 waits for COMMIT, or ROLLBACK or HOLD_S exchange
back; a command outside phase 5 is counted. -/
def Obligations.LouvreRingAndSwaps : Prop :=
  (∀ req (c : CtxId) (v : BitVec 32) s w, s.accepts req (Reg.lvrDescCtrl c) v.toNat = true → s.flag (Fld.lvrDescCtrlEn c) = false →
    w = s.put (Fld.lvrDescCtrlSizeLog2 c) (v.toNat % 32) →
    (w.lvrRingOk c = true → ∃ u, exec (.lvrDescEnable req c v) s = .next u ∧ u.flag (Fld.lvrDescCtrlEn c) = true ∧
      u.get (Fld.lvrDescHeadHead c) = s.get (Fld.lvrDescTailTail c) % w.lvrSize c ∧
      (u.lvr c).next = s.get (Fld.lvrDescTailTail c) % w.lvrSize c ∧ (u.lvr c).ended = [] ∧ u.mem = s.mem) ∧
    (w.lvrRingOk c = false → exec (.lvrDescEnable req c v) s = .next (w.misuse req))) ∧
  (∀ req (c : CtxId) (v : BitVec 32) s, s.accepts req (Reg.lvrDescTail c) v.toNat = true →
    exec (.lvrDescTailWrite req c v) s = .next (s.put (Fld.lvrDescTailTail c) (v.toNat % 4096))) ∧
  (∀ (c : CtxId) s ring d st, s.lvrNext c = some (ring, d) → (s.lvrTake c ring).lvrRefused c d = some st →
    (∀ man, d.op = 1 → exec (.lvrLoad c man) s = .next (s.clocked ((s.lvrTake c ring).lvrEnd c ring st 0 0).vblPump)) ∧
    (∀ man, d.op = 2 → exec (.lvrSwap c man) s = .next (s.clocked ((s.lvrTake c ring).lvrEnd c ring st 0 0).vblPump)) ∧
    (∀ replies, d.op = 3 → exec (.lvrWriteBack c replies) s = .next (s.clocked ((s.lvrTake c ring).lvrEnd c ring st 0 0))) ∧
    (d.op = 4 → exec (.lvrFence c) s = .next (s.clocked ((s.lvrTake c ring).lvrEnd c ring st 0 0)))) ∧
  (∀ (c : CtxId) man s ring d w, LvrStarts s c ring d w →
    (d.op = 1 → exec (.lvrLoad c man) s = .next (s.clocked (w.readsManifest c ring d 0))) ∧
    (d.op = 2 → exec (.lvrSwap c man) s = .next (s.clocked (w.readsManifest c ring d 1)))) ∧
  (∀ (c : CtxId) s ring d w, LvrStarts s c ring d w → d.op = 4 →
    exec (.lvrFence c) s = .next (s.clocked (w.lvrEnd c ring (if w.lvrState c 4 = true then 0 else 5) 0 0))) ∧
  (∀ (c : CtxId) s ring d w, LvrStarts s c ring d w → d.op = 3 → w.lvrState c 3 = true → w.writePorts c d.a1 ≠ [] →
    d.count ≤ 256 → bitAt d.flags 2 = false → w.lvrPoison c d.a0 (4096 * d.count) = [] →
    exec (.lvrWriteBack c []) s = .next (s.clocked (((w.emit (.chunk (w.writePorts c d.a1).head? (w.jobOf c) d.a1
      (w.lvrRead c d.a0 (4096 * d.count)))).emit (.ring (w.jobOf c) d.a2 d.arg)).lvrEnd c ring 0 1 0))) ∧
  (∀ (c : CtxId) s ring d w replies, LvrStarts s c ring d w → d.op = 3 → w.lvrState c 3 = true → w.writePorts c d.a1 = [] →
    exec (.lvrWriteBack c replies) s = .next (s.clocked (w.lvrEnd c ring 15 0 0))) ∧
  (∀ (c : CtxId) (s : State), (s.lvr c).reading = none → (s.ctx c).tear = none → (s.lvr c).load = none → s.flag (Fld.lvrDescCtrlEn c) = true →
    s.ctxState c ≠ ctxIdle → s.ctxState c ≠ ctxFaulted →
    ((s.lvr c).swap = none → ∀ i, (s.lvrQueue c).head? = some i → s.lvrNext c = some (i, LvrCmd.of (s.lvrDesc c i))) ∧
    (∀ i, s.swapWaits c = true → ((s.lvrQueue c).find? fun i => (LvrCmd.of (s.lvrDesc c i)).op == 3) = some i →
      s.lvrNext c = some (i, LvrCmd.of (s.lvrDesc c i)))) ∧
  (∀ (c : CtxId) man replies s, s.lvrNext c = none → (s.lvr c).reading = none →
    exec (.lvrLoad c man) s = .next (s.clocked s.vblPump) ∧ exec (.lvrSwap c man) s = .next (s.clocked s.vblPump) ∧
    exec (.lvrWriteBack c replies) s = .next s ∧ exec (.lvrFence c) s = .next s) ∧
  (∀ (s : State) (c : CtxId) ring st n pz, st < 256 → (s.lvr c).ended = [] → s.get (Fld.lvrDescHeadHead c) = ring →
    (s.lvrEnd c ring st n pz).get (Fld.lvrStatusLastStatus c) = st ∧
    (s.lvrEnd c ring st n pz).get (Fld.lvrDescHeadHead c) = (ring + 1) % s.lvrSize c) ∧
  (∀ (c : CtxId) man s ring d u m t x, ManifestIn s c 2 ring d man u → u.takeManifest c ring man = (u, .ok m) → u.lvrState c 2 = true →
    (u.listed c d m).eraseDups.length = (u.listed c d m).length → u.swapRefused c d m (u.listed c d m) = none →
    u.swapBufOk c (4096 * swapTiles m (u.listed c d m)) = true →
    t = (u.lvrWrite c (u.get64 (Reg.lvrManBase c) % 2 ^ 44 + 8388608) m fun _ => false).1 →
    x = t.askPages c (lvrJob ring (s.lvrDesc c ring) m (u.listed c d m) (listTensors m (u.listed c d m))) →
    exec (.lvrSwap c man) s = .next (s.clocked (x.1.setLvr c { x.1.lvr c with
      swap := some (swapBegun x.2 (if bitAt d.arg 16 then none else some (d.arg % 65536))) }).vblPump)) ∧
  (∀ (c : CtxId) man s ring d u m st, ManifestIn s c 2 ring d man u → u.takeManifest c ring man = (u, .ok m) → u.lvrState c 2 = true →
    (u.listed c d m).eraseDups.length = (u.listed c d m).length → u.swapRefused c d m (u.listed c d m) = some st →
    exec (.lvrSwap c man) s = .next (s.clocked (u.lvrEnd c ring st 0 0).vblPump)) ∧
  (∀ (c : CtxId) s w, (s.lvr c).swap = some w → s.ctxState c = ctxRunning → s.holdsAt c ((s.ctx c).gen + 1) = true → s.allHeld c = true →
    w.job.wantChunks ≠ [] → s.flag Fld.timStatusPllLock = true →
    ∃ u, exec (.swapHold c) s = .next u ∧ u.get (Fld.ctxStatusState c) = ctxHeld ∧ (u.lvr c).swap = some { w with phase := 3 } ∧
      u.get (Fld.lvrStatusPhase c) = 3 ∧ u.mem = s.mem) ∧
  (∀ (c : CtxId) s w, (s.lvr c).swap = some w → s.ctxState c = ctxRunning → s.holdsAt c ((s.ctx c).gen + 1) = true → s.allHeld c = true →
    w.job.wantChunks = [] →
    exec (.swapHold c) s = .next (s.clocked (((s.setCtx c { s.ctx c with
      releases := (s.ctx c).releases.filter fun r => r.wait != .threshold }).put (Fld.ctxStatusState c) ctxHeld).startExchange c
        { w with phase := 3 }))) ∧
  (∀ (c : CtxId) s, s.holdsAt c ((s.ctx c).gen + 1) = false → exec (.swapHold c) s = .next s) ∧
  (∀ (s : State) (c : CtxId) buf a, buf % 4096 = 0 → a % 4096 = 0 → upperTier buf = true → upperTier a = true →
    s.mapped c buf 4096 = true → s.mapped c a 4096 = true →
    s.key c buf + 4096 ≤ s.key c a ∨ s.key c a + 4096 ≤ s.key c buf →
    (s.exchange c buf 4096 [a]).1.lvrRead c a 4096 = s.lvrRead c buf 4096 ∧
    (s.exchange c buf 4096 [a]).1.lvrRead c buf 4096 = s.lvrRead c a 4096) ∧
  (∀ (c : CtxId) s w t v, (s.lvr c).swap = some w → w.fin = none → w.phase = 4 → s.exchangeAll c w = (t, v) → v.back = none →
    (bitAt (LvrCmd.of v.job.desc).flags 1 = true → exec (.swapExchangeDone c) s = .next (s.clocked (t.setSwap c
      { v with phase := 5, since := t.tick }))) ∧
    (bitAt (LvrCmd.of v.job.desc).flags 1 = false →
      exec (.swapExchangeDone c) s = .next (s.clocked (t.swapRelease c v (if v.lost then 3 else 0))))) ∧
  (∀ (c : CtxId) s w t v st, (s.lvr c).swap = some w → w.fin = none → w.phase = 4 → s.exchangeAll c w = (t, v) → v.back = some st →
    exec (.swapExchangeDone c) s = .next (s.clocked (t.swapRelease c v st))) ∧
  (∀ req (c : CtxId) s w, s.accepts req (Reg.lvrSwapCmd c) 1 = true → (s.lvr c).swap = some w → w.phase = 5 → w.fin = none →
    exec (.swapCommit req c) s = .next (s.swapRelease c w (if w.lost then 3 else 0))) ∧
  (∀ req (c : CtxId) s w, s.accepts req (Reg.lvrSwapCmd c) 2 = true → (s.lvr c).swap = some w → w.phase = 5 → w.fin = none →
    exec (.swapRollback req c) s = .next (s.setSwap c { w with phase := 4, back := some 14 })) ∧
  (∀ req (c : CtxId) s, (∀ w, (s.lvr c).swap = some w → w.phase ≠ 5) →
    (s.accepts req (Reg.lvrSwapCmd c) 1 = true → exec (.swapCommit req c) s = .next (s.misusePart (s.partOf c))) ∧
    (s.accepts req (Reg.lvrSwapCmd c) 2 = true → exec (.swapRollback req c) s = .next (s.misusePart (s.partOf c)))) ∧
  (∀ (c : CtxId) s w, (s.lvr c).swap = some w → w.phase = 5 → w.fin = none →
    (w.since + secondsOf (s.get (Fld.lvrTimeoutHoldS c)) ≤ s.tick →
      exec (.swapTimeout c) s = .next (s.clocked ((s.raiseCtx srcLouvre 0x0404 2 c (manStep w.job.man) w.job.ring).setSwap c
        { w with phase := 4, back := some 15 }))) ∧
    (s.tick < w.since + secondsOf (s.get (Fld.lvrTimeoutHoldS c)) → exec (.swapTimeout c) s = .next s)) ∧
  (∀ (c : CtxId) s, (s.lvr c).swap = none → exec (.swapTimeout c) s = .next s ∧ exec (.swapHold c) s = .next s ∧
    exec (.swapExchangeDone c) s = .next s)

namespace Sys2Proof.Machine

/-- A COLL.SUM that executes and whose checks and limits pass: `m` is the member that it describes (R423, R425, R426). -/
structure CollMember (i : Issue) (s : State) (t : Task) (w : State) (m : Coll) : Prop where
  executes : Executes collSumSpec i s t
  turn : w = s.turn i
  checked : collCheck (cxOf i 0x90 t) w (wordField i 6 3 == 1) = .ok ()
  placed : ∃ v, w.collPlace (cxOf i 0x90 t) = .ok v ∧ m = w.collMember (cxOf i 0x90 t) (wordField i 6 3 == 1) v.1 v.2.1 v.2.2 ∧
    (wordField i 6 3 = 1 → v.1.d0 * v.1.d1 * v.1.d2 * m.cap ≤ 2 ^ 22)
  scratch : m.need ≤ w.get (Fld.colScratchTilesTiles t.ctx) ∧ w.scratchOk m = true
  clean : collPoisons (cxOf i 0x90 t) w (wordField i 6 3 == 1) = .ok ()
  fresh : w.coll.insts.find? (collMine (cxOf i 0x90 t) m) = none ∧
    (w.coll.kept.find? fun k => k.job == m.job && k.num == m.num) = none ∧
    (Desc.of (t.desc (wordField i 42 5))).progress = 0

/-- Collective messages join those that wait to leave. -/
def State.collPost (s : State) (ms : List (Nat × Msg)) : State := { s with coll.out := s.coll.out ++ ms }

/-- A collective message stands first in the inbox; `s'` is the state without it. -/
def collIn (s : State) (m : RxMsg) (w : State) : Prop := s.takeMsg ptColl = some (m, w)

/-- The message is from a neighbour of a running instance, in a direction. -/
def collOf (w : State) (m : RxMsg) (i : Coll) (dir : Nat) : Prop := w.collFor m = some (i, dir)

end Sys2Proof.Machine

/-- R423 to R427, R441: COLL.SUM starts a member where an instance and its scratch are free, and otherwise waits for room. A neighbour's
READY must carry the member's own parameters, or the instance ends with PARAM_MISMATCH; a stray marker is counted. R429, R433, R436, R437: a
step launches at its grid tick once every neighbour is ready, or has completed the step before; step data and DONE markers of the current or
the next step are taken, others are stray and counted; a partial adds w[q] element by element in FP32; a sparse list holds at most its
capacity of entries, in ascending index. -/
def Obligations.CollectiveStepsRun : Prop :=
  (∀ i s t w m, CollMember i s t w m → (w.coll.insts.filter fun k => k.endedAs.isNone).length < 64 →
    m.need ≤ (w.scratchFree t.ctx).length → poisonLeaves w (.stay (w.collStart (cxOf i 0x90 t) m)) = false →
    exec (.collSum i) s = .next ((w.collStart (cxOf i 0x90 t) m).noteIssue i.core i.slot)) ∧
  (∀ i s t w m, CollMember i s t w m → 64 ≤ (w.coll.insts.filter fun k => k.endedAs.isNone).length ∨
      (w.scratchFree t.ctx).length < m.need →
    exec (.collSum i) s = .next (w.taskWait i.core i.slot (.collRoom w.coll.ends))) ∧
  (∀ s m w i dir, collIn s m w → m.collDim = 3 → m.collStep = 0 → collOf w m i dir → m.data.take 22 = i.readyData.take 22 →
    exec .collReadyReceive s = .next (s.clocked (w.setColl { i with ready := if i.ready.contains dir then i.ready else i.ready ++ [dir] }))) ∧
  (∀ s m w i dir, collIn s m w → m.collDim = 3 → m.collStep = 0 → collOf w m i dir → m.data.take 22 ≠ i.readyData.take 22 →
    exec .collReadyReceive s = .next (s.clocked (w.collAbort i 3 w.ownNode).vblPump)) ∧
  (∀ s m w c, collIn s m w → m.collDim = 3 → m.collStep = 0 → w.collFor m = none → w.collCtx m = some c →
    exec .collReadyReceive s = .next (s.clocked (w.bump (Fld.colStrayCount c)))) ∧
  (∀ s m w, collIn s m w → m.collDim = 3 → m.collStep = 0 → w.collFor m = none → w.collCtx m = none →
    exec .collReadyReceive s = .next w.misuseMod) ∧
  (∀ s, s.takeMsg ptColl = none → exec .collReadyReceive s = .next s ∧ exec .collDoneReceive s = .next s ∧
    exec .collAbortReceive s = .next s ∧ exec .collStepDataReceive s = .next s) ∧
  (∀ (core : CoreId) (slot : SlotId) s t i w, s.task? core slot = some t → t.state = .waiting → t.wait = some .coll →
    (s.coll.insts.find? fun i => i.ctx == t.ctx && i.leaf == t.leaf && i.task == t.num && i.endedAs.isNone) = some i →
    s.runs t.ctx = true → s.flag Fld.timStatusPllLock = true → i.launched = false → s.tick % 2 ^ i.stepLog2 = 0 →
    (if i.step = 0 then i.nbrs.all fun n => i.ready.contains n.1 else i.nbrs.all fun n => i.step ≤ SMap.getD i.dones n.1 0) = true →
    s.collPoison i (i.cx core slot t) = none → i.lastLaunch = none → w = (s.collWaited core slot).noteIssue core slot →
    let j := { i with launched := true, lastLaunch := some w.tick, progress := w.tick, resent := [] }
    exec (.collStepLaunch core slot) s = .next (s.clocked ((((w.collPost ((w.collSends i).flatMap
      fun (p : Nat × List Byte) => j.dataMsgs p.1 p.2)).setColl j).collAdvance j).vblPump))) ∧
  (∀ (core : CoreId) (slot : SlotId) s t, s.task? core slot = some t → t.wait ≠ some .coll →
    exec (.collStepLaunch core slot) s = .next s) ∧
  (∀ s m w i dir, collIn s m w → m.collDim ≠ 3 → collOf w m i dir → dir / 2 = m.collDim →
    m.collStep = i.step ∨ (i.launched = true ∧ m.collStep = i.step + 1) →
    exec .collStepDataReceive s =
      .next (s.clocked (((w.setColl (i.addData m.collStep dir m.opnd m.data)).collAdvance (i.addData m.collStep dir m.opnd m.data)).vblPump))) ∧
  (∀ s m w i dir, collIn s m w → m.collDim ≠ 3 → collOf w m i dir → dir / 2 = m.collDim → m.collStep ≠ i.step →
    (i.launched = true → m.collStep ≠ i.step + 1) → exec .collStepDataReceive s = .next (s.clocked (w.collStray m))) ∧
  (∀ s m w i dir, collIn s m w → m.collDim = 3 → m.collStep = 1 → collOf w m i dir → m.opnd = i.step →
    exec .collDoneReceive s =
      .next (s.clocked (w.setColl { i with dones := SMap.put i.dones dir (max (m.opnd + 1) (SMap.getD i.dones dir 0)) }))) ∧
  (∀ s m w i dir, collIn s m w → m.collDim = 3 → m.collStep = 1 → collOf w m i dir → i.step + 1 < m.opnd →
    exec .collDoneReceive s = .next (s.clocked (w.collStray m))) ∧
  (∀ (s : State) (i : Coll) (q : Nat) (data : List Byte) (n : Nat) (p : Word32) (v : Word32 × Bool), (pieceOf data).1[n]? = some p →
    (s.readW i q)[n]? = some v →
    (s.collFold i q data).1[n]? = some ((f32Add p v.1).1, v.2)) ∧
  (∀ (elems cap : Nat) (es : List (Int × Word32 × Bool)), (reduceEntries elems cap es).1.length ≤ cap ∧
    (reduceEntries elems cap es).1.Pairwise (fun a b => a.1 < b.1) ∧
    ∀ e, e ∈ (reduceEntries elems cap es).1 → 0 ≤ e.1 ∧ e.1 < elems)

/-- R437, R441 to R444: an ABORT ends a running instance with its reason, and one for a number that has not started is kept; TIMEOUT_S
seconds without progress and a second failed connection end the instance; the first failure sends the step's data again. An instance that
ends leaves, is counted, and its task retires with its reason in s63. -/
def Obligations.CollectivesEndOnce : Prop :=
  (∀ s m w i dir, collIn s m w → m.collDim = 3 → m.collStep = 2 → collOf w m i dir →
    exec .collAbortReceive s = .next (s.clocked (w.collAbort i (leAt m.data 0 1) (leAt m.data 4 4 % 2 ^ 20)).vblPump)) ∧
  (∀ s m w c, collIn s m w → m.collDim = 3 → m.collStep = 2 → w.collFor m = none → w.collCtx m = some c →
    (w.coll.kept.any fun k => k.job == m.job && k.num == m.collNum) = false → w.collAhead c m.collNum = true → w.coll.kept.length < 64 →
    exec .collAbortReceive s = .next (s.clocked { w with
      coll.kept := w.coll.kept ++ [⟨m.job, m.collNum, leAt m.data 0 1, leAt m.data 4 4 % 2 ^ 20⟩] })) ∧
  (∀ (c : CtxId) (num : BitVec 32) s i, (s.coll.insts.find? fun i => i.ctx == c.val && i.num == num.toNat && i.endedAs.isNone) = some i →
    (i.progress + i.timeoutS * 250000000 ≤ s.tick → exec (.collTimeout c num) s =
      .next (s.clocked ((s.raiseCtx srcColl 0x0900 3 c (num.toNat + i.step % 2 ^ 16 * 2 ^ 32) i.progress).collAbort i 1 s.ownNode).vblPump)) ∧
    (s.tick < i.progress + i.timeoutS * 250000000 → exec (.collTimeout c num) s = .next s)) ∧
  (∀ s node path m rest i dir w, s.coll.back = (node, path, m) :: rest → w = { s with coll.back := rest } →
    (s.coll.insts.find? fun i => i.launched && i.endedAs.isNone && i.same m) = some i →
    (i.nbrs.find? fun n => n.2 == node) = some (dir, node) → path = false ∨ i.resent.contains dir = true →
    exec .collStepResend s = .next (s.clocked (w.collAbort i 5 w.ownNode).vblPump)) ∧
  (∀ s node m rest i dir w, s.coll.back = (node, true, m) :: rest →
    w = { s with coll.back := rest.filter fun (b : Nat × Bool × Msg) => !(b.1 == node && i.same b.2.2) } →
    (s.coll.insts.find? fun i => i.launched && i.endedAs.isNone && i.same m) = some i →
    (i.nbrs.find? fun n => n.2 == node) = some (dir, node) → i.resent.contains dir = false → s.txConn node = none →
    exec .collStepResend s = .next (s.clocked (((w.collPost (((w.collSends { i with resent := i.resent ++ [dir] }).filter fun p => p.1 == dir).flatMap
        fun p => ({ i with resent := i.resent ++ [dir] } : Coll).dataMsgs p.1 p.2)).setColl
          { i with resent := i.resent ++ [dir] }).vblPump))) ∧
  (∀ s, s.coll.back = [] → exec .collStepResend s = .next s) ∧
  (∀ (s : State) i reason node core slot t, s.collTask i = some (core, slot, t) → s.task? core slot = some t → reason < 2 ^ 8 → i.ctx < 64 →
    (∀ k, k ∈ (s.collAbort i reason node).coll.insts → ¬(k.job = i.job ∧ k.num = i.num)) ∧
    (s.collAbort i reason node).coll.ends = s.coll.ends + 1 ∧
    (s.collAbort i reason node).get (Fld.colAbortsCount i.ctx) = min (s.get (Fld.colAbortsCount i.ctx) + 1) (2 ^ 32 - 1) ∧
    (s.collAbort i reason node).get (Fld.colStatusLastReason i.ctx) = reason ∧
    ∃ v, (s.collAbort i reason node).task? core slot = some v ∧ v.retired = t.retired + 1 ∧ v.wait = none ∧
      v.reg 63 = BitVec.ofNat 64 (2 + reason * 2 ^ 8 + i.dropped % 2 ^ 24 * 2 ^ 16))

namespace Sys2Proof.Machine

/-- A command of CTX_CMD that a requester may give, to a context that takes one: Druter runs, nothing waits, no teardown, and BUSY is 0 or
the command is KILL (R462, R569, R596). -/
structure CtxTakes (s : State) (req : Requester) (c : CtxId) (cmd : Nat) (retain : Bool) : Prop where
  accepted : s.accepts req (Reg.ctxCmd c) (cmd + retain.toNat * 2 ^ 8) = true
  druter : s.flag Fld.svcStatusDruterDown = false
  settled : s.riseWaits c = false
  whole : s.tearing c = false
  free : s.flag (Fld.ctxStatusBusy c) = false ∨ cmd = 5

/-- The RESULT of a command (R462). -/
def State.result (s : State) (c : CtxId) (r : Nat) : State := s.put (Fld.ctxStatusResult c) r

/-- A context whose binding is under way (R462, R477). -/
structure Binds (s : State) (c : CtxId) : Prop where
  loading : s.ctxState c = ctxLoading
  busy : s.flag (Fld.ctxStatusBusy c) = true
  unbound : (s.ctx c).bound = false
  settled : s.riseWaits c = false

/-- What CTX_CMD names, by its number. -/
def ctxCommands (req : Requester) (c : CtxId) (retain : Bool) : List (Nat × Instr) :=
  [(1, .ctxLoad req c), (2, .ctxSeal req c), (3, .ctxStart req c), (4, .ctxDrain req c retain), (5, .ctxKill req c retain)]

/-- Every write of a T2 size goes through the checks of R452. -/
structure Sizes (s : State) (req : Requester) (p : PartId) (v : BitVec 32) : Prop where
  accepted : s.accepts req (Reg.shtT2Size p) v.toNat = true
  idle : s.partBusy p = false ∧ s.partActive p = false

/-- The service controller's store takes a record into an erased slot of the bank that it writes (R563). -/
structure StoreTakes (s : State) (slot : Nat) : Prop where
  erased : (s.erased s.writeBank).head? = some slot
  room : ∀ k r, s.newest = some (k, r) → r.seq < 0xFFFFFFFF

end Sys2Proof.Machine

/-- R462 to R464, R466, R569: each command of CTX_CMD moves its context as R462's table says, and in another state completes with RESULT 1
and changes nothing; a LOAD that is not in order completes with 2, a SEAL with a busy ring with 3, a START too close with 4, and any command
while Druter is down, a rise waits or a teardown runs with 3. At the start tick the context is RUNNING. -/
def Obligations.ContextCommands : Prop :=
  (∀ req c s, CtxTakes s req c 1 false → s.ctxState c = ctxIdle → s.loadOk c = true → s.riseHeld c = false →
    exec (.ctxLoad req c) s = .next ((s.result c 0).enterLoading c).vblPump) ∧
  (∀ req c s, CtxTakes s req c 1 false → s.ctxState c = ctxIdle → s.loadOk c = false → exec (.ctxLoad req c) s = .next (s.result c 2)) ∧
  (∀ req c s, CtxTakes s req c 2 false → s.ctxState c = ctxLoading → s.lvrIdle c = true →
    exec (.ctxSeal req c) s = .next ((s.result c 0).put (Fld.ctxStatusState c) ctxReady)) ∧
  (∀ req c s, CtxTakes s req c 2 false → s.ctxState c = ctxLoading → s.lvrIdle c = false → exec (.ctxSeal req c) s = .next (s.result c 3)) ∧
  (∀ req c s, CtxTakes s req c 3 false → s.ctxState c = ctxReady → (s.ctx c).startAt = none → s.get64 (Reg.ctxStartTick c) = 0 →
    exec (.ctxStart req c) s = .next ((s.result c 0).setCtx c { s.ctx c with startAt := some (s.tick + 2048) })) ∧
  (∀ req c s, CtxTakes s req c 3 false → s.ctxState c = ctxReady → (s.ctx c).startAt = none → s.tick + 2048 ≤ s.get64 (Reg.ctxStartTick c) →
    exec (.ctxStart req c) s = .next ((s.result c 0).setCtx c { s.ctx c with startAt := some (s.get64 (Reg.ctxStartTick c)) })) ∧
  (∀ req c s, CtxTakes s req c 3 false → s.ctxState c = ctxReady → (s.ctx c).startAt = none → s.get64 (Reg.ctxStartTick c) ≠ 0 →
    s.get64 (Reg.ctxStartTick c) < s.tick + 2048 → exec (.ctxStart req c) s = .next (s.result c 4)) ∧
  (∀ req c s, CtxTakes s req c 3 false → s.ctxState c = ctxReady → (s.ctx c).startAt ≠ none → exec (.ctxStart req c) s = .next (s.result c 1)) ∧
  (∀ req c retain s, CtxTakes s req c 4 retain → s.ctxState c = ctxRunning → exec (.ctxDrain req c retain) s =
    .next (((s.result c 0).put (Fld.ctxStatusState c) ctxDraining).setCtx c { s.ctx c with retain := retain })) ∧
  (∀ req c retain s, CtxTakes s req c 5 retain → s.ctxState c ≠ ctxIdle → s.riseHeld c = false →
    exec (.ctxKill req c retain) s = .next (((s.result c 0).markStopped c 5).tearDown c retain)) ∧
  (∀ req c retain s cmd i from_, (cmd, i) ∈ ctxCommands req c retain → CtxTakes s req c cmd (retain && 4 ≤ cmd) →
    from_ = [ctxIdle, ctxLoading, ctxReady, ctxRunning].getD (cmd - 1) ctxIdle →
    (if cmd = 5 then s.ctxState c = ctxIdle else s.ctxState c ≠ from_) → exec i s = .next (s.result c 1)) ∧
  (∀ req c retain s cmd i, (cmd, i) ∈ ctxCommands req c retain →
    s.accepts req (Reg.ctxCmd c) (cmd + (retain && 4 ≤ cmd).toNat * 2 ^ 8) = true →
    s.flag Fld.svcStatusDruterDown = true ∨ s.riseWaits c = true ∨ s.tearing c = true ∨ (s.flag (Fld.ctxStatusBusy c) = true ∧ cmd ≠ 5) →
    exec i s = .next (s.result c 3)) ∧
  (∀ (c : CtxId) s t, (s.ctx c).startAt = some t → s.ctxState c = ctxReady → s.riseWaits c = false → t ≤ s.tick →
    exec (.ctxStartTick c) s = .next (s.clocked (((((s.ctx c).tasks.zipIdx.filter fun d => d.1.initial).foldl (fun s d => (s.ctlStart c d.2 d.1).1)
      ((s.put (Fld.ctxStatusState c) ctxRunning).setCtx c { s.ctx c with startAt := none })).thrUpdate c)))) ∧
  (∀ (c : CtxId) s t, (s.ctx c).startAt = some t → s.tick < t → exec (.ctxStartTick c) s = .next s) ∧
  (∀ (c : CtxId) s, s.drainDone c = true → exec (.drainComplete c) s = .next (s.clocked (s.teardown c (s.ctx c).retain))) ∧
  (∀ (c : CtxId) s, s.drainDone c = false → exec (.drainComplete c) s = .next s)

/-- R414, R456, R462, R466, R472, R477: a LOAD makes a fresh LOADING context under a new incarnation; a binding that is refused leaves it
IDLE with its reason, and one that is done leaves it bound with BUSY clear; a teardown ends with the context IDLE and its grants zeroed.
R453, R456, R467, R480: a partition's T2 size may change only while its contexts are IDLE, and its new slices are zeroed; a RESET tears its
contexts down, and with none left clears RETAINED and zeroes; zeroing leaves every byte of the slices 0 and unpoisoned. -/
def Obligations.BindingTeardownAndPartitions : Prop :=
  (∀ (s : State) (c : CtxId),
    (s.enterLoading c).get (Fld.ctxStatusState c) = ctxLoading ∧ (s.enterLoading c).flag (Fld.ctxStatusBusy c) = true ∧
    (s.enterLoading c).rd (Reg.ctxFault c) = 0 ∧ (s.enterLoading c).rd (Reg.vblInc c) % 2 ^ 16 = (s.rd (Reg.vblInc c) + 1) % 2 ^ 16 ∧
    ((s.enterLoading c).ctx c).tasks = [] ∧ ((s.enterLoading c).ctx c).bound = false ∧ (s.enterLoading c).mem = s.mem) ∧
  (∀ (c : CtxId) img plan s x i r, Binds s c → s.readImage c img = (x, i) → bindResult i x.ownCoords x.torus = r + 1 →
    exec (.bindingDone c img plan) s = .next (s.clocked (x.bindRefused c (r + 1)))) ∧
  (∀ (x : State) (c : CtxId) r, r < 16 → (x.bindRefused c r).get (Fld.ctxStatusState c) = ctxIdle ∧
    (x.bindRefused c r).flag (Fld.ctxStatusBusy c) = false ∧ (x.bindRefused c r).get (Fld.ctxStatusBind c) = r ∧
    SMap.get? (x.bindRefused c r).ctxs c = none ∧ (x.bindRefused c r).mem = x.mem) ∧
  (∀ (s : State) (c : CtxId) img g, g = s.get64 (Reg.ctxImage c) → g / 2 ^ 44 ≠ s.ownNode →
    ((s.closeFor c (g / 2 ^ 44)).hasPath (g / 2 ^ 44) = false → (s.readImage c img).2 = .status vUnreach) ∧
    (∀ b, img = .ok b → (s.closeFor c (g / 2 ^ 44)).hasPath (g / 2 ^ 44) = true → (s.closeFor c (g / 2 ^ 44)).ownNode = s.ownNode →
      s.readImage c img = ((s.closeFor c (g / 2 ^ 44)).emit (.fetch ((s.closeFor c (g / 2 ^ 44)).jobOf c) g b.length), .ok b))) ∧
  (∀ (c : CtxId) img plan s x b us here w, Binds s c → s.readImage c img = (x, .ok b) → bindResult (.ok b) x.ownCoords x.torus = 0 →
    imgUnits b = some us → here = leavesHere b us x.ownCoords x.torus → plan.fits = true →
    imgT2Slice b ≤ x.get (Fld.shtT2SizeTiles (x.partOf c)) → x.sharesBad c (imgShares b) = false →
    x.dupBad c (bindMembers b here plan) = false → x.planOk c b us here plan = true →
    w = { x.setCtx c (x.bindCtx c b us here plan) with
      oldHandles := SMap.put x.oldHandles c (SMap.getD x.oldHandles c [] ++ plan.handles) } →
    exec (.bindingDone c img plan) s = .next (s.clocked
      ((((w.bindBytes c b here plan).bindRegs c b here plan).saveTake (w.ctx c).members).put (Fld.ctxStatusBusy c) 0).vblPump)) ∧
  (∀ (c : CtxId) img plan s, s.ctxState c ≠ ctxLoading → exec (.bindingDone c img plan) s = .next s) ∧
  (∀ (s : State) c t, (s.ctx c).tear = some t → t.endIn = 0 → s.tearTick c =
    (if t.zeroIn = some 0 then s.zeroGrants c else s).tearEnd c t.retain) ∧
  (∀ (m : Memory) (u : Member) k, u.t0Bytes % 64 = 0 → u.t0Bytes ≤ 2 ^ 26 → u.base0 = 0 → k < u.t0Bytes →
    (m.zeroMember u).byte (coreKey false u.core k) = 0#8) ∧
  (∀ req p (v : BitVec 32) s, Sizes s req p v → s.slicesBad p (v.toNat % 2 ^ 25) = false →
    ∃ u, exec (.shtT2SizeWrite req p v) s = .next u ∧ u.get (Fld.shtT2SizeTiles p) = v.toNat % 2 ^ 25 ∧
      (s.get (Fld.shtT2SizeTiles p) = 0 → v.toNat % 2 ^ 25 ≠ 0 → u.flag (Fld.shtStatusZeroing p) = true) ∧ u.mem = s.mem) ∧
  (∀ req p (v : BitVec 32) s, Sizes s req p v → s.slicesBad p (v.toNat % 2 ^ 25) = true →
    exec (.shtT2SizeWrite req p v) s = .next ((s.put (Fld.shtStatusLastRefusal p) 3).misuseMod)) ∧
  (∀ req (p : PartId) (v : BitVec 32) s, s.accepts req (Reg.shtT2Size p) v.toNat = true →
    (s.partBusy p = true → exec (.shtT2SizeWrite req p v) s = .next ((s.put (Fld.shtStatusLastRefusal p) 6).misuseMod)) ∧
    (s.partBusy p = false → s.partActive p = true →
      exec (.shtT2SizeWrite req p v) s = .next ((s.put (Fld.shtStatusLastRefusal p) 2).misuseMod))) ∧
  (∀ req (p : PartId) s, s.accepts req (Reg.shtCtrl p) 1 = true → s.flag (Fld.shtStatusResetting p) = true →
    exec (.shtReset req p) s = .next s) ∧
  (∀ req (p : PartId) s, s.accepts req (Reg.shtCtrl p) 1 = true → s.flag (Fld.shtStatusResetting p) = false →
    exec (.shtReset req p) s = .next ((({ s.put (Fld.shtStatusResetting p) 1 with resets := s.resets ++ [p.val] } : State).resetGoes p).vblPump)) ∧
  (∀ (p : PartId) (s : State), s.ctxsOf p = [] → s.flag (Fld.shtStatusResetting p) = true → s.resets.contains p.val = false →
    s.get (Fld.shtT2SizeTiles p) ≠ 0 →
    s.resetGoes p = (s.put (Fld.shtStatusRetained p) 0).put (Fld.shtStatusZeroing p) 1) ∧
  (∀ (p : PartId) s, s.flag (Fld.shtStatusZeroing p) = true → s.flag (Fld.shtStatusResetting p) = false →
    exec (.t2ZeroingDone p) s = .next (s.clocked ((s.zeroSlices p).put (Fld.shtStatusZeroing p) 0))) ∧
  (∀ (p : PartId) s, s.flag (Fld.shtStatusZeroing p) = true → s.flag (Fld.shtStatusResetting p) = true →
    exec (.t2ZeroingDone p) s = .next (s.clocked ((((s.zeroSlices p).put (Fld.shtStatusZeroing p) 0).put (Fld.shtStatusResetting p) 0).raise
      srcCtx 0x0A02 0 0xFF p p (16 * s.get (Fld.shtT2SizeTiles p))))) ∧
  (∀ (p : PartId) s, s.flag (Fld.shtStatusZeroing p) = false → exec (.t2ZeroingDone p) s = .next s) ∧
  (∀ (s : State) (p : PartId) h k, h < 16 → stackKey (s.slotChan h) (4096 * s.sliceBase p h) ≤ k →
    k < stackKey (s.slotChan h) (4096 * s.sliceBase p h) + 4096 * s.get (Fld.shtT2SizeTiles p) →
    (s.zeroSlices p).mem.byte k = 0#8 ∧ (s.zeroSlices p).mem.anyPoison k 1 = false)

/-- R414, R563, R566, R596: a commit writes the newest record of the store, one SEQ above the last, or fails its slot with an event; BOOT is
committed before the happenings that wait take effect, past 0xFFFF with a module reset; the hold after a wrap ends with its ports training;
bring-up raises BOOT first, and fails where it cannot be committed. -/
def Obligations.StoreAndBringUp : Prop :=
  (∀ s w rest slot, s.svc.writes = w :: rest → StoreTakes s slot →
    exec (.storeCommit true) s = .next ((State.storeCommit { s with svc.writes := rest } w).1.storeReport).evcFlow) ∧
  (∀ s w rest slot, s.svc.writes = w :: rest → StoreTakes s slot →
    exec (.storeCommit false) s = .next ((((s.program (256 * s.writeBank + slot) none).svcRaise 0x0D04 3
      (failWord (256 * s.writeBank + slot) (match s.newest with | some (_, r) => r.seq + 1 | none => 1)) 1).storeReport).evcFlow)) ∧
  (∀ (s : State) w slot, StoreTakes s slot → s.newest = none ∨ (∃ k r, s.newest = some (k, r) ∧ k < 512) →
    (s.storeCommit w).2 = true ∧ ∃ k r, (s.storeCommit w).1.newest = some (k, r) ∧ k = 256 * s.writeBank + slot ∧
      r.seq = (match s.newest with | some (_, b) => b.seq + 1 | none => 1) ∧ r.sections = s.freshSections w) ∧
  (∀ s, s.rises = [] → exec .bootCommitDone s = .next s) ∧
  (∀ s, s.rises ≠ [] → s.bootStored = 0xFFFF → exec .bootCommitDone s = .next (s.moduleReset 7 false)) ∧
  (∀ s w, s.rises ≠ [] → s.bootStored ≠ 0xFFFF → s.storeCommit [(secBoot, leBytes 2 (s.bootStored + 1))] = (w, true) →
    exec .bootCommitDone s = .next ((w.put Fld.vblBootBoot w.bootStored).applyRises).evcFlow) ∧
  (∀ s, s.bootHold = false → exec .bootWrapHoldExpiry s = .next s) ∧
  (∀ s, s.bootHold = true → (∀ p, p ∈ allPorts → s.flag (Fld.lnkCtrlEn p) = false) →
    exec .bootWrapHoldExpiry s = .next (s.clocked { s with bootHold := false })) ∧
  (∀ s p, s.bootHold = true → (allPorts.filter fun p => s.flag (Fld.lnkCtrlEn p)) = [p] →
    exec .bootWrapHoldExpiry s = .next (s.clocked (((({ s with bootHold := false } : State).portEnter p portDetect).modPort p fun x => { x with fails := 0 })))) ∧
  (∀ plan s w wrapped, s.svc.power = 2 → s.svc.testEn = false → s.get Fld.svcStatusPhase ≠ phaseReady →
    s.get Fld.svcStatusPhase ≠ phaseFailed → s.raiseBoot = (w, false, wrapped) →
    exec (.bringUp plan) s = .next (w.put Fld.svcStatusPhase phaseFailed)) ∧
  (∀ plan s w wrapped t joined v, s.svc.power = 2 → s.svc.testEn = false → s.get Fld.svcStatusPhase ≠ phaseReady →
    s.get Fld.svcStatusPhase ≠ phaseFailed → s.raiseBoot = (w, true, wrapped) → (s.stopBoot == some s.bootStored) = false →
    ({ w with bootHold := wrapped } : State).loadKeys.bringPanes s.isWarm plan = (t, joined) → t.elect joined = some v →
    exec (.bringUp plan) s = .next (v.bringReady s.isWarm joined plan)) ∧
  (∀ plan s w wrapped t joined, s.svc.power = 2 → s.svc.testEn = false → s.get Fld.svcStatusPhase ≠ phaseReady →
    s.get Fld.svcStatusPhase ≠ phaseFailed → s.raiseBoot = (w, true, wrapped) → (s.stopBoot == some s.bootStored) = false →
    ({ w with bootHold := wrapped } : State).loadKeys.bringPanes s.isWarm plan = (t, joined) → t.elect joined = none →
    exec (.bringUp plan) s = .next (t.put Fld.svcStatusPhase phaseFailed)) ∧
  (∀ plan s, s.get Fld.svcStatusPhase = phaseReady → exec (.bringUp plan) s = .next s)

namespace Sys2Proof.Machine

/-- A queue that takes a record at once: it is on and has not failed, nothing is held before the record or being written, nothing is lost,
GDIS is 0 and a slot is free; its ring lies in a T1 slice in service (R491, R492). -/
structure QueueTakes (s : State) (q : Nat) : Prop where
  on : s.flag (Fld.evcQCtrlEn q) = true ∧ s.flag (Fld.evcQStatFault q) = false ∧ s.gdis = false
  first : (s.evq q).held = [] ∧ (s.evq q).writing = none ∧ (s.evq q).lost = 0
  room : s.evqCount q < s.evqSize q
  slice : s.flag (Fld.evcQCtrlKind q) = false ∧ s.fenced (field (s.get64 (Reg.evcQBase q)) 29 8) = false
  inside : s.get64 (Reg.evcQBase q) % 2 ^ 29 + 32 * s.evqSize q ≤ 2 ^ 29

/-- Physical key of the slot TAIL of a ring in a T1 slice (R491). -/
def State.tailKey (s : State) (q : Nat) : Nat :=
  coreKey true (field (s.get64 (Reg.evcQBase q)) 29 8)
    (s.get64 (Reg.evcQBase q) % 2 ^ 29 + 32 * (s.get (Fld.evcQTailIndex q) % s.evqSize q))

/-- A value that a write of EVC_Qn_CTRL with EN sets stores into it. -/
def enableWord (v : BitVec 32) : Nat := setBit v.toNat 31 true

/-- An alarm line after its RAW bit has been set. -/
def State.almRaw (s : State) (a : Nat) (raw : Bool) : State := s.put (Fld.evcAlmStatRaw a) raw.toNat

/-- A level of an alarm line that differs from the taken one and has lasted is taken. -/
def State.almTake (s : State) (a : Nat) (raw : Bool) : State :=
  ({ s.almRaw a raw with evc.alarms := SMap.del s.evc.alarms a } : State).put (Fld.evcAlmStatTaken a) (raw != s.flag (Fld.evcAlmCfgPol a)).toNat

/-- A queue whose signal has gone out: it waits ACK_US microseconds for DONE, or without end where ACK_US is 0 (R497). -/
def EvcQ.told (x : EvcQ) (us : Nat) : EvcQ := { x with count := 0, timer := none, due := false, ack := if us = 0 then none else some (250 * us) }

/-- A restarted queue: its ring is empty, and a record that was being written will be written anew. -/
def EvcQ.restarted (x : EvcQ) : EvcQ :=
  { x with ring := [], count := 0, timer := none, due := false, writing := x.writing.map fun (w : Event × Bool) => (w.1, true) }

end Sys2Proof.Machine

/-- R312, R484, R488, R489, R491, R492: the controller accepts the oldest record of a source, unless both attachments that reports take are
out of service; the record goes to its partition's queue, or its source's, or is masked and counted; a queue that is off drops it, and so
does a full pending store; a queue that takes it has its 32 bytes in slot TAIL, and TAIL rises by one. -/
def Obligations.EventsRoutedAndFiled : Prop :=
  (∀ (src : BitVec 16) (s : State) e, (s.raised.find? fun (x : Event) => x.src == src.toNat) = some e → s.intakeOut src.toNat = false →
    SMap.get? s.lost src.toNat = none →
    exec (.eventReport src) s = .next (s.clocked (({ s with raised := s.raised.erase e } : State).evcRoute e).evcFlow)) ∧
  (∀ (src : BitVec 16) (s : State) e n t, (s.raised.find? fun (x : Event) => x.src == src.toNat) = some e → s.intakeOut src.toNat = false →
    SMap.get? s.lost src.toNat = some (n, t) →
    exec (.eventReport src) s = .next (s.clocked (((({ s with raised := s.raised.erase e, lost := SMap.del s.lost src.toNat } : State).raiseMod src.toNat 1 2
      (n % 2 ^ 32 + 2 ^ 35) t).evcRoute e).evcFlow))) ∧
  (∀ (src : BitVec 16) (s : State), (s.raised.find? fun (x : Event) => x.src == src.toNat) = none ∨ s.intakeOut src.toNat = true →
    exec (.eventReport src) s = .next s) ∧
  (∀ (s : State) (e : Event), e.part < 32 → s.flag (Fld.evcPartQEn e.part) = true → s.evcRoute e = s.evcFile (s.get (Fld.evcPartQQ e.part)) e) ∧
  (∀ (s : State) (e : Event) n, 32 ≤ e.part ∨ s.flag (Fld.evcPartQEn e.part) = false → n = field (s.rd (Reg.evcSrc (e.src / 8))) (4 * (e.src % 8)) 4 →
    s.evcRoute e = if 8 ≤ n then s.evcFile (n - 8) e else s.bump Fld.evcMaskedCount) ∧
  (∀ (s : State) (q : QueueId) e, s.gdis = false → s.flag (Fld.evcQCtrlEn q) = false → s.evcFile q e = s.evcDrop q e) ∧
  (∀ (s : State) (q : QueueId) e, s.gdis = true → 4096 ≤ s.evcHeld → s.evcFile q e = s.evcDrop q e) ∧
  (∀ (s : State) (q : QueueId) e, (s.evcDrop q e).get (Fld.evcQDropCount q) =
    (if s.get (Fld.evcQDropCount q) + 1 < 2 ^ (Fld.evcQDropCount q).w then s.get (Fld.evcQDropCount q) + 1 else 2 ^ (Fld.evcQDropCount q).w - 1) ∧
    ((s.evcDrop q e).evq q).lost = (s.evq q).lost + 1 ∧ (s.evcDrop q e).mem = s.mem) ∧
  (∀ (s : State) (q : QueueId) (e : Event), QueueTakes s q →
    (s.evcFile q e).get (Fld.evcQTailIndex q) = (s.get (Fld.evcQTailIndex q) + 1) % 2 ^ 16 ∧
    ∀ i b, e.bytes[i]? = some b → (s.evcFile q e).mem.byte (s.tailKey q + i) = b) ∧
  (∀ (e : Event), e.bytes.length = 32 ∧ e.bytes.take 8 = leBytes 8 e.tick ∧ (e.bytes.drop 16).take 8 = leBytes 8 e.w2.toNat ∧
    e.bytes.drop 24 = leBytes 8 e.w3.toNat)

/-- R491 to R493, R495 to R497, R499 to R502: the registers of a queue, DONE, its timers and an alarm line do as their rules say: HEAD past
TAIL is a misuse, an enabled queue restarts empty, DONE judges the queue again, a target that does not answer passes the signal on, and a
level is taken after FILTER clocks. -/
def Obligations.EventQueuesAndAlarms : Prop :=
  (∀ req (v : BitVec 32) s, s.accepts req Reg.evcCtrl v.toNat = true → v.toNat % 2 = 1 →
    exec (.evcGdisWrite req v) s = .next (s.put Fld.evcCtrlGdis 1)) ∧
  (∀ req (v : BitVec 32) s, s.accepts req Reg.evcCtrl v.toNat = true → v.toNat % 2 = 0 →
    exec (.evcGdisWrite req v) s = .next (allQueues.foldl (fun w q =>
      if w.flag (Fld.evcQCtrlEn q) then (w.evcPump q).evcJudge q
      else (w.evq q).held.foldl (fun w e => w.evcDrop q e) (w.setEvq q { w.evq q with held := [] })) (s.put Fld.evcCtrlGdis 0)).evcFlow) ∧
  (∀ req (q : QueueId) (v : BitVec 32) s w, s.accepts req (Reg.evcQCtrl q) (enableWord v) = true → s.flag (Fld.evcQCtrlEn q) = false →
    s.ringFits q (bitAt (enableWord v) 30) (field (enableWord v) 16 4) = true →
    w = (((((((s.put (Fld.evcQCtrlSevNow q) (field (enableWord v) 24 4)).put (Fld.evcQCtrlKind q) (bitAt (enableWord v) 30).toNat).put
      (Fld.evcQCtrlSizeLog2 q) (field (enableWord v) 16 4)).put (Fld.evcQHeadIndex q) 0).put (Fld.evcQTailIndex q) 0).put
      (Fld.evcQStatFault q) 0).put (Fld.evcQCtrlEn q) 1) →
    exec (.evcQueueEnable req q v) s = .next (((w.setEvq q (s.evq q).restarted).evcPump q).evcFlow)) ∧
  (∀ req (q : QueueId) (v : BitVec 32) s, s.accepts req (Reg.evcQCtrl q) (enableWord v) = true → s.flag (Fld.evcQCtrlEn q) = false →
    s.ringFits q (bitAt (enableWord v) 30) (field (enableWord v) 16 4) = false →
    exec (.evcQueueEnable req q v) s = .next ((((s.put (Fld.evcQCtrlSevNow q) (field (enableWord v) 24 4)).put (Fld.evcQCtrlKind q)
      (bitAt (enableWord v) 30).toNat).put (Fld.evcQCtrlSizeLog2 q) (field (enableWord v) 16 4)).misuse req)) ∧
  (∀ req (q : QueueId) (v : BitVec 32) s, s.accepts req (Reg.evcQHead q) v.toNat = true → v.toNat < 2 ^ 16 →
    s.evqCount q < (s.get (Fld.evcQTailIndex q) + 0x10000 - v.toNat) % 0x10000 →
    exec (.evcHeadWrite req q v) s = .next (s.misuse req)) ∧
  (∀ req (q : QueueId) (v : BitVec 32) s n, s.accepts req (Reg.evcQHead q) v.toNat = true → v.toNat < 2 ^ 16 →
    (s.get (Fld.evcQTailIndex q) + 0x10000 - v.toNat) % 0x10000 ≤ s.evqCount q →
    n = (v.toNat + 0x10000 - s.get (Fld.evcQHeadIndex q)) % 0x10000 →
    exec (.evcHeadWrite req q v) s = .next ((((s.setEvq q { s.evq q with ring := (s.evq q).ring.drop n }).put (Fld.evcQHeadIndex q) v.toNat).evcPump q).evcFlow)) ∧
  (∀ req (q : QueueId) s, s.accepts req (Reg.evcQDone q) 1 = true → s.flag (Fld.evcQStatSignalled q) = false →
    exec (.evcDone req q) s = .next (((s.put (Fld.evcQStatSignalled q) 0).resample q).evcFlow)) ∧
  (∀ req (q : QueueId) s w, s.accepts req (Reg.evcQDone q) 1 = true → s.flag (Fld.evcQStatSignalled q) = true →
    w = (s.put (Fld.evcQStatSignalled q) 0).resample q →
    exec (.evcDone req q) s = .next (((w.setEvq q { w.evq q with count := 0, timer := none, due := decide (0 < w.evqCount q), ack := none }).evcJudge q).evcFlow)) ∧
  (∀ (q : QueueId) s, (s.evq q).timer = some 0 → s.gdis = false →
    exec (.coalesceTimeout q) s = .next (s.clocked (((s.setEvq q { s.evq q with timer := none, due := true }).evcJudge q).evcFlow))) ∧
  (∀ (q : QueueId) s, (s.evq q).timer ≠ some 0 ∨ s.gdis = true → exec (.coalesceTimeout q) s = .next s) ∧
  (∀ (q : QueueId) s, (s.evq q).ack = some 0 → s.flag (Fld.evcQStatSignalled q) = true → s.gdis = false →
    exec (.targetTimeout q) s = .next (s.clocked ((((s.evcRaise srcEvc 4 2 (q + s.get (Fld.evcQTgtLast q) * 2 ^ 8) (s.get (Fld.evcQTailIndex q))).bump
      (Fld.evcQRedeliverCount q)).evcSignal q).evcFlow))) ∧
  (∀ (q : QueueId) s, (s.evq q).ack ≠ some 0 ∨ s.flag (Fld.evcQStatSignalled q) = false ∨ s.gdis = true → exec (.targetTimeout q) s = .next s) ∧
  (∀ (a : Fin 8) raw s, exec (.alarm a raw 0) s = .next s) ∧
  (∀ (a : Fin 8) raw (n : Fin 65536) s, n ≠ 0 → (raw != s.flag (Fld.evcAlmCfgPol a)) = s.flag (Fld.evcAlmStatTaken a) →
    exec (.alarm a raw n) s = .next (s.clocked (if SMap.getD s.evc.alarms a 0 = 0 then s.almRaw a raw
      else ({ s.almRaw a raw with evc.alarms := SMap.del s.evc.alarms a } : State).bump (Fld.evcAlmGlitchCount a)))) ∧
  (∀ (a : Fin 8) raw (n : Fin 65536) s, n ≠ 0 → (raw != s.flag (Fld.evcAlmCfgPol a)) ≠ s.flag (Fld.evcAlmStatTaken a) →
    SMap.getD s.evc.alarms a 0 + n.val < max 1 (s.get (Fld.evcAlmCfgFilter a)) →
    exec (.alarm a raw n) s = .next (s.clocked ({ s.almRaw a raw with
      evc.alarms := SMap.put s.evc.alarms a (SMap.getD s.evc.alarms a 0 + n.val) } : State))) ∧
  (∀ (a : Fin 8) raw (n : Fin 65536) s, n ≠ 0 → (raw != s.flag (Fld.evcAlmCfgPol a)) ≠ s.flag (Fld.evcAlmStatTaken a) →
    max 1 (s.get (Fld.evcAlmCfgFilter a)) ≤ SMap.getD s.evc.alarms a 0 + n.val →
    exec (.alarm a raw n) s = .next (s.clocked (if s.flag (Fld.evcAlmCfgEn a) = false then s.almTake a raw
      else if s.flag (Fld.evcAlmCfgMode a) = true then ((s.almTake a raw).levelRaise (srcAlarm a)).evcFlow
      else ((s.almTake a raw).evcRaise (srcAlarm a) 3 (min (s.get (Fld.evcAlmCfgSev a)) 4)
        (a.val + (raw != s.flag (Fld.evcAlmCfgPol a)).toNat * 2 ^ 8) (s.get (Fld.evcAlmGlitchCount a))).evcFlow))) ∧
  (∀ (s : State) (q : QueueId) t us, s.nextTarget q (s.get (Fld.evcQTgtLast q)) = some t → t ≤ 3 → us = s.get (Fld.evcQAckValue q) →
    s.evcSignal q = (((s.setEvq q ((s.evq q).told us)).put (Fld.evcQStatSignalled q) 1).put (Fld.evcQTgtLast q) t).emit (.signal q t)) ∧
  (∀ (s : State) (q : QueueId), s.nextTarget q (s.get (Fld.evcQTgtLast q)) = none →
    s.evcSignal q = (s.put (Fld.evcQStatSignalled q) 0).setEvq q { s.evq q with due := true, ack := none }) ∧
  (∀ (s : State) (q : QueueId), s.get (Fld.evcQTgtEn q) = 0 → s.evcJudge q = s)

namespace Sys2Proof.Machine

/-- A region can ramp at once: it is OFF, its minimum off time has passed, and fewer than 16 regions ramp (R540, R541). -/
structure RampsNow (s : State) (r : Nat) : Prop where
  off : s.regState r = regOff
  waited : s.pwr.offWait.contains r = false
  turn : s.ramping < 16

/-- What the telemetry of a region shows in a REGION_SAG (R537, R552). -/
def State.sagWord (s : State) (r : Nat) : Nat := r + s.get (Fld.pwrRTel0Vsense r) * 2 ^ 16 + s.get (Fld.pwrRTel0Current r) * 2 ^ 32

/-- A region that has been at the floor for 10 µs raises REGION_SAG and is SAGGED (R537). -/
def State.sagged (s : State) (r t : Nat) : State :=
  (((s.bump Fld.pwrSagsCount).raiseMod (srcRegion r) 0x0C00 4 (s.sagWord r) t).put (Fld.pwrRStatPendingOn r) 0).regEnter r regSagged

/-- The registers of the bus after a sample. -/
def State.busRegs (s : State) (x : InputSample) : State :=
  ((s.put Fld.pwrInVoltage x.volts.toNat).put Fld.pwrInCurrent x.amps.toNat).put Fld.pwrInWPower x.watts.toNat

/-- What is left after a cable is pulled: the store and the scan flash, with TEST_EN as it stands. -/
def Svc.unplugged (x : Svc) : Svc := { Svc.empty with power := 0, store := x.store, order := x.order, dump := x.dump, testEn := x.testEn }

end Sys2Proof.Machine

/-- R63, R535, R536, R538 to R541, R544, R552: EN of a region ramps it, latches PENDING_ON, or is ignored and counted while SAGGED; clearing
EN of a pane-common region takes its pane out of service (log entry 38: the model's reading of R63); a region that ramps goes to the VCORE
setpoint of the divider in force or of an armed change to ÷4; a shutdown and its minimum off time pass in turn; droops and floors count; a
region's temperature sets its pace and HOTTEST. -/
def Obligations.RegionsSwitch : Prop :=
  (∀ req (r : RegionId) s, s.accepts req (Reg.pwrRCtrl r) 1 = true → RampsNow s r →
    exec (.pwrEnSet req r) s = .next ((s.put (Fld.pwrRCtrlEn r) 1).regEnter r regRamping)) ∧
  (∀ req (r : RegionId) s, s.accepts req (Reg.pwrRCtrl r) 1 = true → s.regState r = regOff → ¬RampsNow s r →
    exec (.pwrEnSet req r) s = .next ((s.put (Fld.pwrRCtrlEn r) 1).put (Fld.pwrRStatPendingOn r) 1)) ∧
  (∀ req (r : RegionId) s, s.accepts req (Reg.pwrRCtrl r) 1 = true → s.regState r = regShutting →
    exec (.pwrEnSet req r) s = .next ((s.put (Fld.pwrRCtrlEn r) 1).put (Fld.pwrRStatPendingOn r) 1)) ∧
  (∀ req (r : RegionId) s, s.accepts req (Reg.pwrRCtrl r) 1 = true → s.regState r = regOn ∨ s.regState r = regRamping →
    exec (.pwrEnSet req r) s = .next (s.put (Fld.pwrRCtrlEn r) 1)) ∧
  (∀ req (r : RegionId) s, s.accepts req (Reg.pwrRCtrl r) 1 = true → s.regState r = regSagged →
    exec (.pwrEnSet req r) s = .next (s.misuse req)) ∧
  (∀ req (r : RegionId) s w, s.accepts req (Reg.pwrRCtrl r) 0 = true → s.regState r = regOn ∨ s.regState r = regRamping →
    w = (((s.put (Fld.pwrRCtrlEn r) 0).put (Fld.pwrRStatPendingOn r) 0).regEnter r regShutting).rampNext →
    exec (.pwrEnClear req r) s = .next (if r.val % 6 = 5 then w.paneOut (r / 6) else w)) ∧
  (∀ req (r : RegionId) s w, s.accepts req (Reg.pwrRCtrl r) 0 = true → s.regState r = regOff ∨ s.regState r = regShutting →
    w = (s.put (Fld.pwrRCtrlEn r) 0).put (Fld.pwrRStatPendingOn r) 0 →
    exec (.pwrEnClear req r) s = .next (if r.val % 6 = 5 then w.paneOut (r / 6) else w)) ∧
  (∀ req (r : RegionId) s, s.accepts req (Reg.pwrRCtrl r) 0 = true → s.regState r = regSagged → exec (.pwrEnClear req r) s = .next s) ∧
  (∀ (r : RegionId) s, s.regState r = regRamping →
    exec (.rampDone r) s = .next (((s.put (Fld.pwrRStatPendingOn r) 0).regEnter r regOn).rampNext)) ∧
  (∀ (r : RegionId) s, s.regState r ≠ regRamping → exec (.rampDone r) s = .next s) ∧
  (∀ (r : RegionId) s, s.regState r = regShutting →
    exec (.shutdownDone r) s = .next (({ s with pwr.offWait := s.pwr.offWait ++ [r.val] } : State).regEnter r regOff)) ∧
  (∀ (r : RegionId) s, s.regState r ≠ regShutting → exec (.shutdownDone r) s = .next s) ∧
  (∀ (r : RegionId) s, exec (.minOffExpiry r) s = .next (({ s with pwr.offWait := s.pwr.offWait.filter (· != r.val) } : State).rampNext)) ∧
  (∀ (s : State) (r : RegionId) st, st < 8 → (s.regEnter r st).regState r = st ∧
    (st ≠ regOn → (s.regEnter r st).get (Fld.pwrRStatPace r) = 0) ∧ (s.regEnter r st).mem = s.mem ∧
    (st ≠ regOn → st ≠ regRamping → (s.regEnter r st).vcore r = none)) ∧
  (∀ (s : State) (r : RegionId), s.powered r = false →
    (s.flag Fld.timStatusDivArmed = true → s.get Fld.timCtrlDivNext = 0 → (s.regEnter r regRamping).vcore r = some 750) ∧
    (s.flag Fld.timStatusDivArmed = false ∨ s.get Fld.timCtrlDivNext ≠ 0 →
      (s.regEnter r regRamping).vcore r = some (if s.get Fld.timStatusDiv = 0 then 750 else 680))) ∧
  (∀ (s : State), (∀ r, r ∈ allRegions → s.flag (Fld.pwrRStatPendingOn r) = false) → s.rampNext = s) ∧
  (∀ (r : RegionId) floor s, s.regState r = regOn ∨ s.regState r = regRamping →
    exec (.droopTrip r floor) s = .next (if floor = true ∧ SMap.get? s.pwr.floorAt r = none then
      ({ s.bump (Fld.pwrRCntDroops r) with pwr.floorAt := SMap.put s.pwr.floorAt r s.tick } : State).bump (Fld.pwrRCntFloors r)
      else s.bump (Fld.pwrRCntDroops r))) ∧
  (∀ (r : RegionId) floor s, s.regState r ≠ regOn → s.regState r ≠ regRamping → exec (.droopTrip r floor) s = .next s) ∧
  (∀ (r : RegionId) s, exec (.droopRecover r) s = .next { s with pwr.floorAt := SMap.del s.pwr.floorAt r }) ∧
  (∀ (r : RegionId) (temp : BitVec 16) s,
    exec (.thermHigh r temp) s = .next ((((s.put (Fld.pwrRTel1Temp r) temp.toNat).paceReport r).thermReport).evcFlow)) ∧
  (∀ t : Int, (t < 1440 → thermalPace t = 16) ∧ (1440 ≤ t → (thermalPace t : Int) = max 4 (16 - (t - 1440) / 8)))

/-- R533, R537, R542, R544, R546, R548 to R551, R554, R578: a sag, a contact fault and a trip take the region and say so; the bus sets its
pace cap, its power-off or loses all but the store; the coolant is judged kind by kind; the module powers on once the coolant and both pairs
allow it, and off for the first cause. -/
def Obligations.PowerFaultsAndSupplies : Prop :=
  (∀ (r : RegionId) s t, SMap.get? s.pwr.floorAt r = some t → s.regState r = regOn → t + 2500 ≤ s.tick →
    exec (.regionSag r) s = .next (if r.val % 6 = 5 then (s.sagged r t).paneOut (r / 6)
      else ((s.sagged r t).posSagged (5 * (r / 6) + r % 6)).evcFlow)) ∧
  (∀ (r : RegionId) s, SMap.get? s.pwr.floorAt r = none ∨ s.regState r ≠ regOn → exec (.regionSag r) s = .next s) ∧
  (∀ (r : RegionId) s t, SMap.get? s.pwr.floorAt r = some t → s.tick < t + 2500 → exec (.regionSag r) s = .next s) ∧
  (∀ (r : RegionId) (step : Option (BitVec 16)) never s w, s.regState r = regOn →
    w = (((s.put (Fld.pwrRStatCapped r) 1).bump Fld.pwrCfaultsCount).raiseMod (srcRegion r) 0x0C01 4
      (r + (if step = none then 1 else 2) * 2 ^ 8 + s.get (Fld.pwrRRconEstimate r) * 2 ^ 16 + s.get (Fld.pwrRRconBaseline r) * 2 ^ 32)
      (step.elim 0 (·.toNat))) →
    exec (.contactFault r step never) s = .next (if r.val % 6 = 5 then w.evcFlow
      else (w.testDue (5 * (r / 6) + r % 6) true never).evcFlow)) ∧
  (∀ (r : RegionId) step never s, s.regState r ≠ regOn → exec (.contactFault r step never) s = .next s) ∧
  (∀ (r : RegionId) (temp : BitVec 16) s, 1680 ≤ tempOf temp.toNat → s.svc.power = 2 →
    exec (.thermTrip r temp) s = .next (((((((s.put (Fld.pwrRTel1Temp r) temp.toNat).paceReport r).thermReport).raiseMod (srcRegion r) 0x0C04 4
      (r + temp.toNat * 2 ^ 16) 0).abortAll).offDue 5).evcFlow)) ∧
  (∀ (r : RegionId) (temp : BitVec 16) s, tempOf temp.toNat < 1680 → exec (.thermTrip r temp) s = .next s) ∧
  (∀ (x : InputSample) s, s.svc.power ≠ 0 → x.volts.toNat < 3400 → exec (.inputSupervision x) s = .next (s.cablePull x.finishes)) ∧
  (∀ (x : InputSample) s w, s.svc.power ≠ 0 → 3400 ≤ x.volts.toNat → x.low = false → x.well = false → x.sunk = false → x.beyond = false →
    w = (s.busRegs x).inputCap x → w.flag Fld.pwrStatusInputCap = false → w.flag Fld.pwrStatusCoolCap = false →
    exec (.inputSupervision x) s = .next w.evcFlow) ∧
  (∀ (x : InputSample) s w, s.svc.power ≠ 0 → 3400 ≤ x.volts.toNat → x.low = true →
    x.sunk = true ∨ x.beyond = true → w = (s.busRegs x).inputCap x → w.flag Fld.pwrStatusInputLow = false →
    w.flag Fld.pwrStatusInputCap = false → w.flag Fld.pwrStatusCoolCap = false →
    exec (.inputSupervision x) s = .next ((((w.put Fld.pwrStatusInputLow 1).svcRaise 0x0C02 4 (x.volts.toNat + x.amps.toNat * 2 ^ 16) 0).offDue 4).evcFlow)) ∧
  (∀ (x : InputSample) (s : State), x.uneven = false → s.pwr.pairs = false → 1400 < x.amps.toNat ∨ 56000 < x.watts.toNat →
    (s.inputCap x).pwr.inPace = max 1 (s.pwr.inPace - 1)) ∧
  (∀ (x : InputSample) s, s.svc.power = 0 → exec (.inputSupervision x) s = .next s) ∧
  (∀ (x : CoolantSample) s, s.svc.power ≠ 2 → exec (.coolantSupervision x) s = .next s) ∧
  (∀ (x : CoolantSample) s w, s.svc.power = 2 →
    w = ([1, 2, 3, 5].foldl (fun w k => State.coolJudge w k (coolHolds x k) 1000) (s.coolRegs x)) →
    exec (.coolantSupervision x) s = .next (((w.coolJudge 4 w.coolSpread 1).coolFree x).paceAll).evcFlow) ∧
  (∀ (s : State) kind ms, (s.coolJudge kind false ms).pwr.coolIn = s.pwr.coolIn.filter (· != kind)) ∧
  (∀ (s : State) kind ms, SMap.getD s.pwr.coolMs kind 0 + 1 = ms → s.pwr.coolIn.contains kind = false →
    s.coolJudge kind true ms = ({ s with pwr.coolMs := SMap.put s.pwr.coolMs kind ms } : State).coolEnter kind) ∧
  (∀ (s : State), (s.coolEnter 1).flag Fld.pwrStatusCoolCap = true ∧ (s.svc.offDue = none → (s.coolEnter 5).svc.offDue = some 6)) ∧
  (∀ finishes s, s.svc.power = 0 → exec (.powerCablePull finishes) s = .next s) ∧
  (∀ finishes s, s.svc.power ≠ 0 → ∃ u, exec (.powerCablePull finishes) s = .next u ∧
    u.mem = State.reset.mem ∧ u.ctxs = [] ∧ u.cores = State.reset.cores ∧ u.svc.power = 0 ∧ u.svc.writes = [] ∧
    u.get Fld.svcStatusPhase = phaseOff ∧ u.out = s.out ∧ (s.svc.writes = [] → u.svc = s.svc.unplugged)) ∧
  (∀ s cause, s.svc.offDue = some cause → exec .powerOffSequence s = .next (s.powerOff cause)) ∧
  (∀ s, s.svc.offDue = none → exec .powerOffSequence s = .next s) ∧
  (∀ (s : State) cause, (s.powerOff cause).svc.power = 3 ∧ (s.powerOff cause).svc.offDue = none ∧ (s.powerOff cause).mem = State.reset.mem ∧
    (s.powerOff cause).ctxs = [] ∧ (s.powerOff cause).get Fld.svcStatusPhase = phaseOff ∧
    (s.powerOff cause).get Fld.svcWdtRestarts = s.get Fld.svcWdtRestarts) ∧
  (∀ (x : CoolantSample) pairs s, 1 < s.svc.power → exec (.powerOn x pairs) s = .next s) ∧
  (∀ (x : CoolantSample) pairs s, s.svc.power = 1 → coolHolds x 1 = false → coolHolds x 2 = false → coolHolds x 5 = false →
    exec (.powerOn x pairs) s = .next (if pairs = true then { s with svc.power := 2, pwr.coolIn := [] } else s)) ∧
  (∀ (x : CoolantSample) pairs s, s.svc.power = 1 → coolHolds x 1 = true → s.pwr.coolIn = [] →
    exec (.powerOn x pairs) s = .next (({ s.coolRegs x with pwr.coolIn := [1] } : State).svcRaise 0x0C05 3
      (1 + (s.coolRegs x).rd Reg.pwrCoolF * 2 ^ 16) ((s.coolRegs x).rd Reg.pwrCoolT))) ∧
  (∀ (x : CoolantSample) pairs s, s.svc.power = 1 → coolHolds x 1 = true → s.pwr.coolIn ≠ [] → exec (.powerOn x pairs) s = .next s) ∧
  (∀ (x : CoolantSample) s, s.svc.power = 0 → coolHolds x 1 = false → coolHolds x 2 = false → coolHolds x 5 = false →
    exec (.powerOn x false) s = .next ((({ s with svc.power := 1 } : State).put Fld.svcStatusPhase phaseBoot).storeReport))

namespace Sys2Proof.Machine

/-- A request that the service controller runs: it has power, the request comes from a listed peer or on the chain, and its reserved bytes
and its length are in order (R558, R559). -/
structure MgmtTakes (s : State) (m : MgmtMsg) : Prop where
  power : s.svc.power ≠ 0
  taken : s.mgmtTaken m.src = true
  rsvd : m.rsvd = 0#64
  size : m.data.length ≤ 1200

/-- An answer with status OK. -/
def answered (data : List Byte) : MgmtAns := { status := stOk, data := data }

/-- An answer with a status alone. -/
def answerOf (status : Nat) : MgmtAns := { status := status }

/-- The answer to a request with the OP, at a module in state `s`, out of the state `t` that the operation leaves. -/
def State.mgmtDone (s t : State) (m : MgmtMsg) (op : Nat) (a : MgmtAns) : Host.Outcome State Fault Refusal := .next (t.mgmtAnswer m s.chainAddr op a)

/-- The commands of a management request, by OP. -/
def mgmtCommand (m : MgmtMsg) (op : Nat) (i : Instr) : Prop :=
  (op = 1 ∧ i = .telemetry m) ∨ (op = 2 ∧ i = .logRead m) ∨ (op = 3 ∧ i = .partReset m) ∨ (op = 4 ∧ i = .moduleReset m) ∨
  (op = 5 ∧ i = .powerOff m) ∨ (op = 6 ∧ i = .dump m) ∨ (op = 7 ∧ i = .storeUpdate m) ∨ (op = 8 ∧ i = .status m) ∨
  (op = 9 ∧ i = .druterRestart m) ∨ (op = 10 ∧ i = .assign m)

/-- What a section holds that STORE_UPDATE changes: its staged bytes, or those of the store (R564). -/
def State.stagedOf (s : State) (type n : Nat) : List Byte := fitTo n 0#8 ((SMap.get? s.svc.stage type).getD ((s.section? type).getD []))

/-- The section with the bytes of a request written over it. -/
def State.stagedWith (s : State) (type n : Nat) (m : MgmtMsg) : List Byte :=
  (s.stagedOf type n).take m.arg1.toNat ++ m.data ++ (s.stagedOf type n).drop (m.arg1.toNat + m.data.length)

/-- The section is staged. -/
def State.stages (s : State) (type n : Nat) (m : MgmtMsg) : State := { s with svc.stage := SMap.put s.svc.stage type (s.stagedWith type n m) }

/-- Druter is up and its watchdog counts: SEQ has not changed for LIMIT_MS, at least 200 (R569). -/
structure WatchdogDue (s : State) : Prop where
  up : s.get Fld.svcStatusPhase = phaseReady ∧ s.flag Fld.svcStatusDruterDown = false ∧ s.svc.restart = none
  late : max 200 (s.get Fld.svcWdtLimitMs) ≤ s.svc.beat

/-- The bytes of a BEAT (R562). -/
def State.beatBytes (s : State) : List Byte :=
  leBytes 4 (s.rd Reg.svcStatus) ++ leBytes 4 (s.rd Reg.vblNode) ++ leBytes 4 (s.rd Reg.pwrStatus) ++ leBytes 1 s.svc.worst

end Sys2Proof.Machine

/-- R547, R556, R558 to R560, R564, R568 to R570, R572: a request of a peer that is not listed is dropped and counted, one that is malformed
is answered BAD_REQUEST, and each operation has its effect and answers with its status; a wedged wafer is reset. -/
def Obligations.ManagementRequests : Prop :=
  (∀ m s op i, mgmtCommand m op i → s.svc.power ≠ 0 → s.mgmtTaken m.src = false → exec i s = .next (s.bump Fld.svcMgmtDropCount)) ∧
  (∀ m s op i, mgmtCommand m op i → s.svc.power ≠ 0 → s.mgmtTaken m.src = true → m.rsvd ≠ 0#64 ∨ 1200 < m.data.length →
    exec i s = s.mgmtDone s m op (answerOf stBad)) ∧
  (∀ m s op i, mgmtCommand m op i → s.svc.power = 0 → exec i s = .next s) ∧
  (∀ (op : Byte) m s, MgmtTakes s m → op = 0#8 ∨ 10#8 < op → exec (.mgmtBadRequest op m) s = s.mgmtDone s m op.toNat (answerOf stBad)) ∧
  (∀ (op : Byte) m s, s.svc.power ≠ 0 → s.mgmtTaken m.src = false → exec (.mgmtBadRequest op m) s = .next (s.bump Fld.svcMgmtDropCount)) ∧
  (∀ m s, MgmtTakes s m → exec (.telemetry m) s = s.mgmtDone s m 1
    (answered (((telemetryRegs.drop m.arg0.toNat).take 300).flatMap fun a => leBytes 4 (s.rd a)))) ∧
  (∀ m s first, MgmtTakes s m → first = max (s.svc.logged - s.svc.log.length) m.arg1.toNat →
    exec (.logRead m) s = s.mgmtDone s m 2 { answered (((s.svc.log.drop (first - (s.svc.logged - s.svc.log.length))).take 32).flatMap Event.bytes) with
      arg1 := first }) ∧
  (∀ m s, MgmtTakes s m → s.wedged m = true → exec (.partReset m) s = s.mgmtDone (s.moduleReset 2 false) m 3 (answerOf stWedged)) ∧
  (∀ m s p, MgmtTakes s m → s.wedged m = false → p = m.arg0.toNat % 32 → s.accepts .svc (Reg.shtCtrl p) 1 = true →
    exec (.partReset m) s = s.mgmtDone (s.partReset p) m 3 (answerOf stOk)) ∧
  (∀ m s, MgmtTakes s m → exec (.moduleReset m) s = s.mgmtDone (s.moduleReset 2 (bitAt m.arg0.toNat 0)) m 4 (answerOf stOk)) ∧
  (∀ m s, MgmtTakes s m → exec (.powerOff m) s = s.mgmtDone (s.powerOff 1) m 5 (answerOf stOk)) ∧
  (∀ m s, MgmtTakes s m → 319 < m.arg0.toNat % 512 → exec (.dump m) s = s.mgmtDone s m 6 (answerOf stBad)) ∧
  (∀ m s, MgmtTakes s m → m.arg0.toNat % 512 ≤ 319 → s.svc.testEn = true → exec (.dump m) s = s.mgmtDone s m 6 (answerOf stBusy)) ∧
  (∀ m s, MgmtTakes s m → m.arg0.toNat % 512 ≤ 319 → s.svc.testEn = false → s.svc.power ≠ 2 →
    exec (.dump m) s = s.mgmtDone s m 6 (answerOf stRefused)) ∧
  (∀ m s, MgmtTakes s m → m.arg0.toNat % 512 ≤ 319 → s.svc.testEn = false → s.svc.power = 2 →
    exec (.dump m) s = s.mgmtDone (s.dump (m.arg0.toNat % 512)) m 6 (answerOf stOk)) ∧
  (∀ (s : State) pos, s.coreServed pos = none → s.svc.dump.length < 900 → ∃ d, (s.dump pos).svc.dump = s.svc.dump ++ [d] ∧ d.pos = pos ∧
    pos ∈ (s.dump pos).svc.stopped ∧ (s.dump pos).mem = s.mem ∧ (s.dump pos).ctrl = s.ctrl) ∧
  (∀ m s n, MgmtTakes s m → updateSize (m.arg0.toNat % 2 ^ 16) = some n → m.arg1.toNat + m.data.length ≤ n → bitAt m.arg0.toNat 31 = false →
    exec (.storeUpdate m) s = s.mgmtDone (s.stages (m.arg0.toNat % 2 ^ 16) n m) m 7 (answerOf stOk)) ∧
  (∀ m s n w, MgmtTakes s m → updateSize (m.arg0.toNat % 2 ^ 16) = some n → m.arg1.toNat + m.data.length ≤ n → bitAt m.arg0.toNat 31 = true →
    w = s.stages (m.arg0.toNat % 2 ^ 16) n m →
    exec (.storeUpdate m) s = s.mgmtDone (({ w with svc.stage := [] } : State).storeWrite w.svc.stage) m 7 (answerOf stOk)) ∧
  (∀ m s n, MgmtTakes s m → updateSize (m.arg0.toNat % 2 ^ 16) = some n → n < m.arg1.toNat + m.data.length →
    exec (.storeUpdate m) s = s.mgmtDone s m 7 (answerOf stBad)) ∧
  (∀ m s, MgmtTakes s m → updateSize (m.arg0.toNat % 2 ^ 16) = none → exec (.storeUpdate m) s = s.mgmtDone s m 7 (answerOf stRefused)) ∧
  (∀ m s, MgmtTakes s m → exec (.status m) s = s.mgmtDone s m 8
    (answered (leBytes 4 (s.rd Reg.svcStatus) ++ leBytes 4 (s.rd Reg.svcSup) ++ leBytes 1 (s.get Fld.svcStatusChainAddr)))) ∧
  (∀ m s, MgmtTakes s m → s.svc.restart ≠ none → exec (.druterRestart m) s = s.mgmtDone s m 9 (answerOf stBusy)) ∧
  (∀ m s, MgmtTakes s m → s.svc.restart = none → s.get Fld.svcStatusPhase ≠ phaseReady →
    exec (.druterRestart m) s = s.mgmtDone s m 9 (answerOf stRefused)) ∧
  (∀ m s, MgmtTakes s m → s.svc.restart = none → s.get Fld.svcStatusPhase = phaseReady →
    exec (.druterRestart m) s = s.mgmtDone (s.druterRestart 2) m 9 (answerOf stOk)) ∧
  (∀ m s, MgmtTakes s m → s.wedged m = true → exec (.assign m) s = s.mgmtDone (s.moduleReset 2 false) m 10 (answerOf stWedged)) ∧
  (∀ m s, MgmtTakes s m → s.wedged m = false → s.trp.tx ≠ [] ∨ s.trp.rx ≠ [] → exec (.assign m) s = s.mgmtDone s m 10 (answerOf stRefused)) ∧
  (∀ m s, MgmtTakes s m → s.wedged m = false → s.trp.tx = [] → s.trp.rx = [] →
    exec (.assign m) s = s.mgmtDone (((s.put Fld.vblNodeNode (m.arg0.toNat % 2 ^ 20)).put Fld.vblNodeValid 1).wr Reg.vblTorus (m.arg1.toNat % 2 ^ 32))
      m 10 (answerOf stOk)) ∧
  (∀ (s : State) cause cold, (s.moduleReset cause cold).mem = State.reset.mem ∧ (s.moduleReset cause cold).ctxs = [] ∧
    (s.moduleReset cause cold).cores = State.reset.cores ∧ (s.moduleReset cause cold).svc.cold = cold ∧
    (s.svc.power = 2 → (s.moduleReset cause cold).get Fld.svcStatusPhase = phaseBoot ∧ (s.moduleReset cause cold).svc.power = 2))

/-- R547, R555, R557, R561, R562, R569, R588: a pass counts a millisecond and resets a module whose tick stands still; Druter's watchdog
restarts it, three times in ten minutes; frames of the chain are taken, passed on or discarded; a BEAT goes up; TEST_EN stops the tests. -/
def Obligations.ServiceControllerWatches : Prop :=
  (∀ x s, s.svc.power = 0 → exec (.telemetryPass x) s = .next s) ∧
  (∀ x s, s.svc.power = 1 ∨ s.svc.power = 3 → exec (.telemetryPass x) s = .next { s with svc.ms := s.svc.ms + 1 }) ∧
  (∀ x s, s.svc.power = 2 → x.regions = [] → (∀ p, p < 320 → s.serves p = none) → (s.svc.ms + 1) % 3600000 ≠ 0 →
    s.get Fld.svcStatusPhase ≠ phaseReady →
    exec (.telemetryPass x) s = .next ((({ s with svc.ms := s.svc.ms + 1 } : State).thermReport).evcFlow)) ∧
  (∀ (s : State), s.get Fld.svcStatusPhase = phaseReady → s.tick = s.svc.lastTick → 1 ≤ s.svc.stalls →
    s.tickCheck true = State.moduleReset { s with svc.unread := 0, svc.stalls := s.svc.stalls + 1, svc.lastTick := s.tick } 3 false) ∧
  (∀ (s : State), s.get Fld.svcStatusPhase = phaseReady → s.tick ≠ s.svc.lastTick →
    s.tickCheck true = { s with svc.unread := 0, svc.stalls := 0, svc.lastTick := s.tick }) ∧
  (∀ (s : State), s.get Fld.svcStatusPhase = phaseReady → s.svc.stalls < 2 → 9 ≤ s.svc.unread →
    s.tickCheck false = State.moduleReset { s with svc.unread := s.svc.unread + 1 } 3 false) ∧
  (∀ (s : State) (x : RegionSample), (s.regionSample x).get (Fld.pwrRTel1Temp x.r) = x.temp.toNat ∧
    (s.regionSample x).get (Fld.pwrRTel0Vsense x.r) = x.vsense.toNat ∧ (s.regionSample x).get (Fld.pwrRTel0Current x.r) = x.current.toNat) ∧
  (∀ req (v : BitVec 32) s, s.accepts req Reg.svcBeat v.toNat = true → v.toNat % 2 ^ 16 ≠ s.get Fld.svcBeatSeq →
    exec (.svcBeatWrite req v) s = .next (({ s with svc.beat := 0 } : State).put Fld.svcBeatSeq (v.toNat % 2 ^ 16))) ∧
  (∀ req (v : BitVec 32) s, s.accepts req Reg.svcBeat v.toNat = true → v.toNat % 2 ^ 16 = s.get Fld.svcBeatSeq →
    exec (.svcBeatWrite req v) s = .next (s.put Fld.svcBeatSeq (v.toNat % 2 ^ 16))) ∧
  (∀ s, WatchdogDue s → (s.svc.restarts.filter fun t => s.svc.ms < t + 600000).length < 3 →
    exec .druterWatchdog s = .next (s.druterRestart 1)) ∧
  (∀ s, WatchdogDue s → 3 ≤ (s.svc.restarts.filter fun t => s.svc.ms < t + 600000).length →
    exec .druterWatchdog s = .next (((s.put Fld.svcStatusDruterDown 1).put Fld.svcStatusSupValid 0).evcFlow)) ∧
  (∀ s, ¬WatchdogDue s → exec .druterWatchdog s = .next s) ∧
  (∀ (s : State) cause, (s.druterRestart cause).flag Fld.svcStatusDruterDown = true ∧ (s.druterRestart cause).svc.restart = some (s.svc.ms, cause) ∧
    (s.druterRestart cause).svc.beat = 0) ∧
  (∀ (v : Byte) s, s.svc.power = 0 → exec (.sillEnum v) s = .next (s.emit (.sill false (sillFrame sillEnum 255 255 v.toNat [])))) ∧
  (∀ (v : Byte) s, s.svc.power ≠ 0 → s.chainAddr = v.toNat → exec (.sillEnum v) s = .next ((s.put Fld.svcStatusChainAddr v.toNat).enumDown)) ∧
  (∀ (v : Byte) s, s.svc.power ≠ 0 → s.chainAddr ≠ v.toNat → ∃ u, exec (.sillEnum v) s = .next u ∧ u.chainAddr = v.toNat ∧
    ∃ more, u.out = s.out ++ [.sill false (sillFrame sillEnum 255 v.toNat (min 255 (v.toNat + 1)) []),
      .sill true (sillFrame sillChange 255 v.toNat 0 [])] ++ more) ∧
  (∀ s, s.svc.power ≠ 0 → exec .sillLinkChange s =
    .next (s.emit (.sill false (sillFrame sillEnum 255 s.chainAddr (min 255 (s.chainAddr + 1)) [])))) ∧
  (∀ s, s.svc.power = 0 → exec .sillLinkChange s = .next s) ∧
  (∀ fromUp b wedged s, s.svc.power = 0 → exec (.sillFrameForward fromUp b wedged) s = .next (s.emit (.sill (!fromUp) b))) ∧
  (∀ fromUp b wedged s, s.svc.power ≠ 0 → sillGood b = false → exec (.sillFrameForward fromUp b wedged) s = .next s) ∧
  (∀ b wedged s, s.svc.power ≠ 0 → sillGood b = true → leAt b 0 1 = sillReq → leAt b 1 1 ≠ s.chainAddr →
    exec (.sillFrameForward true b wedged) s = .next (s.emit (.sill false b))) ∧
  (∀ b wedged s op m, s.svc.power ≠ 0 → sillGood b = true → leAt b 0 1 = sillReq → leAt b 1 1 = s.chainAddr → s.chainAddr ≠ 255 →
    parseMgmt ((b.drop 8).take (b.length - 12)) wedged = some (op, m) → exec (.sillFrameForward true b wedged) s = .next (s.mgmtRun op m)) ∧
  (∀ b wedged s, s.svc.power ≠ 0 → sillGood b = true → leAt b 0 1 = sillRsp ∨ leAt b 0 1 = sillBeat ∨ leAt b 0 1 = sillChange →
    exec (.sillFrameForward false b wedged) s = .next (s.emit (.sill true b))) ∧
  (∀ s, s.svc.power ≠ 0 → s.chainAddr ≠ 255 → s.mgmtPeer 0 = none → exec .beat s =
    .next (({ s with svc.worst := 0 } : State).emit (.sill true (sillFrame sillBeat 255 s.chainAddr 0 s.beatBytes)))) ∧
  (∀ s, s.svc.power ≠ 0 → s.chainAddr ≠ 255 → s.mgmtPeer 0 ≠ none → exec .beat s =
    .next ((({ s with svc.worst := 0 } : State).emit (.sill true (sillFrame sillBeat 255 s.chainAddr 0 s.beatBytes))).emit (.beat s.beatBytes))) ∧
  (∀ s, s.svc.power = 0 ∨ s.chainAddr = 255 → exec .beat s = .next s) ∧
  (∀ s, exec (.testEnChange true) s = .next ((s.rel.runs.map (·.pos / 5)).foldl State.ptcReport { s with svc.testEn := true })) ∧
  (∀ s, exec (.testEnChange false) s = .next (((s.rel.runs.map (·.pos / 5)).foldl State.ptcReport { s with svc.testEn := false }).relPump))

/-- R57: only the supervisors and the service controller may write PSW_NEXT and PSW_CTRL. A write of another requester changes nothing but
the misuse counter of its partition, or for the host that of the module; a write of PSW_NEXT by one of theirs takes effect. -/
def Obligations.SubstitutionRegistersGuarded : Prop :=
  (∀ req (n : PaneId) (addr : BitVec 40) v x s, Alone x → s.svc.power = 2 → s.flag Fld.timStatusPllLock = true → isService req = false →
    s.accessRefused req addr.toNat = false →
    addr.toNat = Reg.pswNext n ∨ addr.toNat = Reg.pswCtrl n → exec (.registerWrite req addr v x) s = .next (s.misuse req)) ∧
  (∀ req (n : PaneId) done s, s.svc.power = 2 → s.flag Fld.timStatusPllLock = true → isService req = false →
    s.accessRefused req (Reg.pswCtrl n) = false →
    exec (.pswApplyMigrate req n done) s = .next (s.misuse req) ∧ exec (.pswApplyReplace req n) s = .next (s.misuse req).vblPump) ∧
  (∀ (s : State) (p : PartId) job a, (a ≠ Reg.shtMisuse p → (s.misuse (.part p)).rd a = s.rd a) ∧
    (s.misuse (.part p)).get (Fld.shtMisuseCount p) = min (s.get (Fld.shtMisuseCount p) + 1) 0xFFFFFFFF ∧
    (a ≠ Reg.shtModMisuse → (s.misuse (.host job)).rd a = s.rd a) ∧
    (s.misuse (.host job)).get Fld.shtModMisuseCount = min (s.get Fld.shtModMisuseCount + 1) 0xFFFFFFFF) ∧
  (∀ req (n : PaneId) (addr : BitVec 40) (v : BitVec 32) x s, Alone x → s.svc.power = 2 → s.flag Fld.timStatusPllLock = true → isService req = true →
    s.accessRefused req addr.toNat = false → addr.toNat = Reg.pswNext n → v.toNat < 2 ^ 16 →
    exec (.registerWrite req addr v x) s = .next (s.wr (Reg.pswNext n) (s.rd (Reg.pswNext n) / 2 ^ 16 * 2 ^ 16 + v.toNat)))

/-- R210: an AT.LAUNCH whose tick has begun retires at once and SYN_LATE of its context rises by 1, whatever state the task comes from;
before its tick it is never taken: the task waits for it, at the instruction. -/
def Obligations.LateLaunchesCounted : Prop :=
  (∀ i s t, Executes atLaunchSpec i s t → t.regPoison (wordField i 40 6) = false → (t.reg (wordField i 40 6)).toNat ≤ s.tick →
    exec (.atLaunch i) s = .next (((s.turn i).wrap (Fld.synLateCount t.ctx)).retire i false)) ∧
  (∀ (s : State) (c : CtxId), (s.wrap (Fld.synLateCount c)).get (Fld.synLateCount c) =
    (s.get (Fld.synLateCount c) + 1) % 2 ^ (Fld.synLateCount c).w) ∧
  (∀ i s t, Executes atLaunchSpec i s t → t.regPoison (wordField i 40 6) = false → s.tick < (t.reg (wordField i 40 6)).toNat →
    ∃ u v, exec (.atLaunch i) s = .next u ∧ u.task? i.core i.slot = some v ∧ v.state = .waiting ∧
      v.wait = some (.launch (t.reg (wordField i 40 6)).toNat) ∧ v.pc = t.pc ∧ v.retired = t.retired ∧
      u.get (Fld.synLateCount t.ctx) = s.get (Fld.synLateCount t.ctx))

/-- R578: the converter layer starts only once both busbar pairs have held; the service controller runs on one pair, and a module whose
cable is pulled under load loses power as R548 gives. -/
def Obligations.ConverterStartsOnTwoPairs : Prop :=
  (∀ (x : CoolantSample) (s : State), s.svc.power ≤ 1 → ∃ u, exec (.powerOn x false) s = .next u ∧ u.svc.power = 1) ∧
  (∀ (x : CoolantSample) (s : State), s.svc.power ≤ 1 → coolHolds x 1 = false → coolHolds x 2 = false → coolHolds x 5 = false →
    ∃ u, exec (.powerOn x true) s = .next u ∧ u.svc.power = 2 ∧ u.pwr.coolIn = []) ∧
  (∀ finishes (s : State), s.svc.power ≠ 0 → ∃ u, exec (.powerCablePull finishes) s = .next u ∧ u.svc.power = 0 ∧ u.mem = State.reset.mem)
end

