-- ==== Sys2Proof/Laws/Store.lean ====
section
/-!
SUPPORT. Laws of sparse tables and of byte memory: a read after a write, and the canonical form that every writer keeps.
-/
namespace Sys2Proof.Machine
open Sys2Proof

/-! ## Sparse tables -/

theorem SMap.sorted_iff {α : Type} : ∀ m : SMap α, SMap.sorted m = true ↔ m.Pairwise fun a b => a.1 < b.1
  | [] => by simp [SMap.sorted]
  | [_] => by simp [SMap.sorted]
  | a :: b :: l => by
    have ih := SMap.sorted_iff (b :: l)
    simp only [SMap.sorted, Bool.and_eq_true, decide_eq_true_eq, ih, List.pairwise_cons]
    constructor
    · rintro ⟨h, hb, hl⟩
      refine ⟨fun x hx => ?_, hb, hl⟩
      rcases List.mem_cons.1 hx with rfl | hx
      · exact h
      · exact h.trans (hb x hx)
    · rintro ⟨h, hb, hl⟩
      exact ⟨h b (by simp), hb, hl⟩

theorem lookup_cons_same {α : Type} (k : Nat) (v : α) (m : SMap α) : List.lookup k ((k, v) :: m) = some v := by simp

theorem lookup_cons_ne {α : Type} {j k : Nat} (v : α) (m : SMap α) (h : j ≠ k) :
    List.lookup j ((k, v) :: m) = List.lookup j m := by
  have : (j == k) = false := by simpa using h
  simp [List.lookup_cons, this]

theorem lookup_filter_key {α : Type} (p : Nat → Bool) (j : Nat) :
    ∀ m : SMap α, List.lookup j (m.filter fun q => p q.1) = if p j then List.lookup j m else none
  | [] => by simp
  | (k, v) :: m => by
    have ih := lookup_filter_key p j m
    by_cases hk : p k <;> by_cases hj : j = k
    · subst hj; simp [hk]
    · rw [List.filter_cons_of_pos (by simpa using hk), lookup_cons_ne v _ hj, lookup_cons_ne v _ hj, ih]
    · subst hj; simp [hk, ih]
    · rw [List.filter_cons_of_neg (by simpa using hk), lookup_cons_ne v _ hj, ih]

theorem lookup_append_or {α : Type} (j : Nat) : ∀ l m : SMap α,
    List.lookup j (l ++ m) = (List.lookup j l).or (List.lookup j m)
  | [], m => by simp
  | (k, v) :: l, m => by
    by_cases h : j = k
    · subst h; simp
    · rw [List.cons_append, lookup_cons_ne v _ h, lookup_cons_ne v _ h, lookup_append_or j l m]

theorem SMap.get?_put {α : Type} (m : SMap α) (k j : Nat) (v : α) :
    SMap.get? (SMap.put m k v) j = if j = k then some v else SMap.get? m j := by
  unfold SMap.get? SMap.put
  have h1 := lookup_filter_key (fun q => decide (q < k)) j m
  have h2 := lookup_filter_key (fun q => decide (k < q)) j m
  rcases Nat.lt_trichotomy j k with h | h | h
  · rw [lookup_append_or, h1, lookup_cons_ne v _ (Nat.ne_of_lt h), h2]
    simp [h, Nat.ne_of_lt h, Nat.not_lt.2 h.le]
  · subst h; rw [lookup_append_or, h1]; simp
  · rw [lookup_append_or, h1, lookup_cons_ne v _ (Nat.ne_of_gt h), h2]
    simp [h, Nat.ne_of_gt h, Nat.not_lt.2 h.le]

theorem SMap.get?_put_same {α : Type} (m : SMap α) (k : Nat) (v : α) : SMap.get? (SMap.put m k v) k = some v := by
  simp [SMap.get?_put]

theorem SMap.get?_put_ne {α : Type} (m : SMap α) {k j : Nat} (v : α) (h : j ≠ k) :
    SMap.get? (SMap.put m k v) j = SMap.get? m j := by simp [SMap.get?_put, h]

theorem SMap.get?_del {α : Type} (m : SMap α) (k j : Nat) :
    SMap.get? (SMap.del m k) j = if j = k then none else SMap.get? m j := by
  unfold SMap.get? SMap.del
  have h1 := lookup_filter_key (fun q => decide (q < k) || decide (k < q)) j m
  show List.lookup j (m.filter fun p => p.1 < k || k < p.1) = _
  rw [h1]
  rcases Nat.lt_trichotomy j k with h | h | h
  · simp [h, Nat.ne_of_lt h]
  · subst h; simp
  · simp [h, Nat.ne_of_gt h]

theorem SMap.getD_putD {α : Type} [DecidableEq α] (m : SMap α) (k j : Nat) (v d : α) :
    SMap.getD (SMap.putD m k v d) j d = if j = k then v else SMap.getD m j d := by
  unfold SMap.getD SMap.putD
  by_cases hv : v = d
  · by_cases hj : j = k <;> simp [hv, hj, SMap.get?_del]
  · by_cases hj : j = k <;> simp [hv, hj, SMap.get?_put]

theorem SMap.getD_putD_same {α : Type} [DecidableEq α] (m : SMap α) (k : Nat) (v d : α) :
    SMap.getD (SMap.putD m k v d) k d = v := by simp [SMap.getD_putD]

theorem SMap.getD_putD_ne {α : Type} [DecidableEq α] (m : SMap α) {k j : Nat} (v d e : α) (h : j ≠ k) :
    SMap.getD (SMap.putD m k v d) j e = SMap.getD m j e := by
  unfold SMap.getD SMap.putD
  by_cases hv : v = d <;> simp [hv, h, SMap.get?_del, SMap.get?_put]

theorem SMap.sorted_put {α : Type} (m : SMap α) (k : Nat) (v : α) (h : SMap.sorted m = true) :
    SMap.sorted (SMap.put m k v) = true := by
  rw [SMap.sorted_iff] at h ⊢
  unfold SMap.put
  rw [List.pairwise_append, List.pairwise_cons]
  refine ⟨h.filter _, ⟨?_, h.filter _⟩, ?_⟩
  · intro x hx
    simpa using (List.mem_filter.1 hx).2
  · intro x hx y hy
    have hx' : x.1 < k := by simpa using (List.mem_filter.1 hx).2
    rcases List.mem_cons.1 hy with rfl | hy
    · exact hx'
    · have hy' : k < y.1 := by simpa using (List.mem_filter.1 hy).2
      exact hx'.trans hy'

theorem SMap.sorted_del {α : Type} (m : SMap α) (k : Nat) (h : SMap.sorted m = true) :
    SMap.sorted (SMap.del m k) = true := by
  rw [SMap.sorted_iff] at h ⊢
  exact h.filter _

theorem SMap.sorted_putD {α : Type} [DecidableEq α] (m : SMap α) (k : Nat) (v d : α) (h : SMap.sorted m = true) :
    SMap.sorted (SMap.putD m k v d) = true := by
  unfold SMap.putD
  split
  · exact SMap.sorted_del m k h
  · exact SMap.sorted_put m k v h

theorem SMap.mem_put {α : Type} {m : SMap α} {k : Nat} {v : α} {x : Nat × α} (h : x ∈ SMap.put m k v) :
    x = (k, v) ∨ x ∈ m := by
  unfold SMap.put at h
  rcases List.mem_append.1 h with h | h
  · exact .inr (List.mem_filter.1 h).1
  · rcases List.mem_cons.1 h with rfl | h
    · exact .inl rfl
    · exact .inr (List.mem_filter.1 h).1

theorem SMap.mem_del {α : Type} {m : SMap α} {k : Nat} {x : Nat × α} (h : x ∈ SMap.del m k) : x ∈ m :=
  (List.mem_filter.1 h).1

theorem SMap.mem_putD {α : Type} [DecidableEq α] {m : SMap α} {k : Nat} {v d : α} {x : Nat × α}
    (h : x ∈ SMap.putD m k v d) : (x = (k, v) ∧ v ≠ d) ∨ x ∈ m := by
  unfold SMap.putD at h
  split at h
  · exact .inr (SMap.mem_del h)
  · next hv =>
    rcases SMap.mem_put h with rfl | h
    · exact .inl ⟨rfl, hv⟩
    · exact .inr h

/-! ## Byte memory -/

theorem mem_cellsOf : ∀ (bs : List Byte) (k : Nat) {x : Host.Cell}, x ∈ cellsOf k bs →
    k ≤ x.1 ∧ x.1 < k + bs.length ∧ x.2 ≠ Memory.unwritten
  | [], _, x, h => by simp [cellsOf] at h
  | b :: bs, k, x, h => by
    unfold cellsOf at h
    split at h
    · have := mem_cellsOf bs (k + 1) h
      simp only [List.length_cons]
      exact ⟨by omega, by omega, this.2.2⟩
    · next hb =>
      rcases List.mem_cons.1 h with rfl | h
      · simp only [List.length_cons]
        exact ⟨le_rfl, by omega, hb⟩
      · have := mem_cellsOf bs (k + 1) h
        simp only [List.length_cons]
        exact ⟨by omega, by omega, this.2.2⟩

theorem cellsOf_sorted : ∀ (bs : List Byte) (k : Nat), (cellsOf k bs).Pairwise fun a b => a.1 < b.1
  | [], _ => by simp [cellsOf]
  | b :: bs, k => by
    unfold cellsOf
    split
    · exact cellsOf_sorted bs (k + 1)
    · rw [List.pairwise_cons]
      exact ⟨fun x hx => (mem_cellsOf bs (k + 1) hx).1, cellsOf_sorted bs (k + 1)⟩

theorem lookup_cellsOf : ∀ (bs : List Byte) (k j : Nat),
    (List.lookup j (cellsOf k bs)).getD Memory.unwritten =
      if k ≤ j ∧ j < k + bs.length then bs.getD (j - k) Memory.unwritten else Memory.unwritten
  | [], k, j => by simp [cellsOf]
  | b :: bs, k, j => by
    have ih := lookup_cellsOf bs (k + 1) j
    unfold cellsOf
    by_cases hj : j = k
    · subst hj
      have hn : ¬(j + 1 ≤ j ∧ j < j + 1 + bs.length) := by omega
      split
      · next hb => rw [ih, if_neg hn]; simp [hb]
      · simp
    · have he : (if k + 1 ≤ j ∧ j < k + 1 + bs.length then bs.getD (j - (k + 1)) Memory.unwritten else Memory.unwritten) =
          if k ≤ j ∧ j < k + (b :: bs).length then (b :: bs).getD (j - k) Memory.unwritten else Memory.unwritten := by
        by_cases hr : k + 1 ≤ j ∧ j < k + 1 + bs.length
        · have hr' : k ≤ j ∧ j < k + (b :: bs).length := by simp only [List.length_cons]; omega
          rw [if_pos hr, if_pos hr']
          obtain ⟨d, rfl⟩ : ∃ d, j = k + 1 + d := ⟨j - (k + 1), by omega⟩
          have e1 : k + 1 + d - (k + 1) = d := by omega
          have e2 : k + 1 + d - k = d + 1 := by omega
          rw [e1, e2, List.getD_cons_succ]
        · have hr' : ¬(k ≤ j ∧ j < k + (b :: bs).length) := by simp only [List.length_cons]; omega
          rw [if_neg hr, if_neg hr']
      split
      · rw [ih, he]
      · rw [lookup_cons_ne b _ hj, ih, he]

theorem setRange_sorted (l : List Nat) (lo hi : Nat) (new : List Nat) (hl : l.Pairwise (· < ·)) (hn : new.Pairwise (· < ·))
    (hb : ∀ x ∈ new, lo ≤ x ∧ x ≤ hi) (hle : lo ≤ hi) : (setRange l lo hi new).Pairwise (· < ·) := by
  unfold setRange
  rw [List.pairwise_append, List.pairwise_append]
  refine ⟨⟨hl.filter _, hn, ?_⟩, hl.filter _, ?_⟩
  · intro x hx y hy
    have hx' : x < lo := by simpa using (List.mem_filter.1 hx).2
    have := (hb y hy).1
    omega
  · intro x hx y hy
    have hy' : hi < y := by simpa using (List.mem_filter.1 hy).2
    rcases List.mem_append.1 hx with hx | hx
    · have hx' : x < lo := by simpa using (List.mem_filter.1 hx).2
      omega
    · have := (hb x hx).2
      omega

theorem sorted_keys (l : List Nat) : SMap.sorted (l.map fun q => (q, ())) = true ↔ l.Pairwise (· < ·) := by
  rw [SMap.sorted_iff, List.pairwise_map]

theorem Memory.wf_iff (m : Memory) : m.wf = true ↔
    (m.cells.Pairwise fun a b => a.1 < b.1) ∧ (∀ c ∈ m.cells, c.2 ≠ Memory.unwritten) ∧ m.poison.Pairwise (· < ·) := by
  unfold Memory.wf
  rw [Bool.and_eq_true, Bool.and_eq_true, SMap.sorted_iff, List.all_eq_true, sorted_keys]
  constructor
  · rintro ⟨⟨a, b⟩, c⟩
    exact ⟨a, fun x hx => by simpa using b x hx, c⟩
  · rintro ⟨a, b, c⟩
    exact ⟨⟨a, fun x hx => by simpa using b x hx⟩, c⟩

theorem sectorsOf_sorted (key n : Nat) : (sectorsOf key n).Pairwise (· < ·) := by
  unfold sectorsOf
  split
  · simp
  · rw [List.pairwise_map]
    exact List.pairwise_lt_range.imp (by intro a b h; omega)

theorem mem_sectorsOf {key n q : Nat} (h : q ∈ sectorsOf key n) : key / 64 ≤ q ∧ q ≤ (key + n - 1) / 64 := by
  unfold sectorsOf at h
  split at h
  · simp at h
  · rename_i hn
    obtain ⟨i, hi, rfl⟩ := List.mem_map.1 h
    have := List.mem_range.1 hi
    have hle : key / 64 ≤ (key + n - 1) / 64 := Nat.div_le_div_right (by omega)
    omega

/-- A store keeps the canonical form. -/
theorem Memory.store_wf (m : Memory) (key : Nat) (bs : List Byte) (pz : Nat → Bool) (h : m.wf = true) :
    (m.store key bs pz).wf = true := by
  unfold Memory.store
  split
  · exact h
  · rename_i hb
    have hlen : 0 < bs.length := by
      cases bs with
      | nil => simp at hb
      | cons _ _ => simp
    rw [Memory.wf_iff] at h ⊢
    obtain ⟨h1, h2, h3⟩ := h
    refine ⟨?_, ?_, ?_⟩
    · show List.Pairwise _ (_ ++ _ ++ _)
      rw [List.pairwise_append, List.pairwise_append]
      refine ⟨⟨h1.filter _, cellsOf_sorted _ _, ?_⟩, h1.filter _, ?_⟩
      · intro x hx y hy
        have hx' : x.1 < key := by simpa using (List.mem_filter.1 hx).2
        have := (mem_cellsOf bs key hy).1
        omega
      · intro x hx y hy
        have hy' : key + bs.length ≤ y.1 := by simpa using (List.mem_filter.1 hy).2
        rcases List.mem_append.1 hx with hx | hx
        · have hx' : x.1 < key := by simpa using (List.mem_filter.1 hx).2
          omega
        · have := (mem_cellsOf bs key hx).2.1
          omega
    · intro c hc
      rcases List.mem_append.1 hc with hc | hc
      · rcases List.mem_append.1 hc with hc | hc
        · exact h2 c (List.mem_filter.1 hc).1
        · exact (mem_cellsOf bs key hc).2.2
      · exact h2 c (List.mem_filter.1 hc).1
    · exact setRange_sorted _ _ _ _ h3 ((sectorsOf_sorted _ _).filter _)
        (fun x hx => mem_sectorsOf (List.mem_filter.1 hx).1) (Nat.div_le_div_right (by omega))

theorem Memory.setPoison_wf (m : Memory) (q : Nat) (h : m.wf = true) : (m.setPoison q).wf = true := by
  rw [Memory.wf_iff] at h ⊢
  exact ⟨h.1, h.2.1, setRange_sorted _ _ _ _ h.2.2 (by simp) (by simp) le_rfl⟩

theorem Memory.zero_wf (m : Memory) (key n : Nat) (h : m.wf = true) : (m.zero key n).wf = true := by
  rw [Memory.wf_iff] at h ⊢
  exact ⟨h.1.filter _, fun c hc => h.2.1 c (List.mem_filter.1 hc).1, h.2.2.filter _⟩

/-- What one byte reads as after a store: the stored byte inside the stored range, what it was outside. -/
theorem Memory.byte_store (m : Memory) (key : Nat) (bs : List Byte) (pz : Nat → Bool) (j : Nat) :
    (m.store key bs pz).byte j =
      if key ≤ j ∧ j < key + bs.length then bs.getD (j - key) Memory.unwritten else m.byte j := by
  unfold Memory.store
  by_cases hb : bs.isEmpty
  · have : bs = [] := by simpa using hb
    subst this
    simp
  · rw [if_neg hb]
    show SMap.getD (_ ++ _ ++ _) j _ = _
    unfold Memory.byte SMap.getD SMap.get?
    have h1 := lookup_filter_key (fun q => decide (q < key)) j m.cells
    have h2 := lookup_filter_key (fun q => decide (key + bs.length ≤ q)) j m.cells
    have h3 := lookup_cellsOf bs key j
    rw [lookup_append_or, lookup_append_or, h1, h2]
    rcases Nat.lt_or_ge j key with hlt | hge
    · have hn : ¬(key ≤ j ∧ j < key + bs.length) := by omega
      have hc : List.lookup j (cellsOf key bs) = none := by
        rw [List.lookup_eq_none_iff]
        intro p hp
        have := (mem_cellsOf bs key hp).1
        simp; omega
      have h4 : ¬(key + bs.length ≤ j) := by omega
      rw [if_neg hn, hc]
      simp [hlt, h4]
    · have hnl : ¬ j < key := by omega
      rcases Nat.lt_or_ge j (key + bs.length) with hin | hout
      · have h4 : ¬(key + bs.length ≤ j) := by omega
        have hy : key ≤ j ∧ j < key + bs.length := ⟨hge, hin⟩
        rw [if_pos hy] at h3 ⊢
        rw [← h3]
        simp [hnl, h4]
      · have hn : ¬(key ≤ j ∧ j < key + bs.length) := by omega
        have hc : List.lookup j (cellsOf key bs) = none := by
          rw [List.lookup_eq_none_iff]
          intro p hp
          have := (mem_cellsOf bs key hp).2.1
          simp; omega
        rw [if_neg hn, hc]
        simp [hnl, hout]

theorem Memory.byte_store_out (m : Memory) {key j : Nat} {bs : List Byte} (pz : Nat → Bool)
    (h : j < key ∨ key + bs.length ≤ j) : (m.store key bs pz).byte j = m.byte j := by
  rw [Memory.byte_store, if_neg (by omega)]

theorem Memory.byte_store_in (m : Memory) (key : Nat) (bs : List Byte) (pz : Nat → Bool) (i : Nat) (h : i < bs.length) :
    (m.store key bs pz).byte (key + i) = bs.getD i Memory.unwritten := by
  rw [Memory.byte_store, if_pos (by omega), Nat.add_sub_cancel_left]

theorem Memory.byte_setPoison (m : Memory) (q j : Nat) : (m.setPoison q).byte j = m.byte j := rfl

/-- What one byte reads as after a range is zeroed (R456). -/
theorem Memory.byte_zero (m : Memory) (key n j : Nat) :
    (m.zero key n).byte j = if key ≤ j ∧ j < key + n then Memory.unwritten else m.byte j := by
  unfold Memory.zero Memory.byte SMap.getD SMap.get?
  have h1 := lookup_filter_key (fun q => decide (q < key) || decide (key + n ≤ q)) j m.cells
  show (List.lookup j (m.cells.filter fun c => decide (c.1 < key) || decide (key + n ≤ c.1))).getD _ = _
  rw [h1]
  by_cases h : key ≤ j ∧ j < key + n
  · have a : ¬ j < key := by omega
    have b : ¬ key + n ≤ j := by omega
    simp [h, a, b]
  · have : (decide (j < key) || decide (key + n ≤ j)) = true := by simp; omega
    rw [if_pos this, if_neg h]

theorem Memory.length_bytes (m : Memory) (key n : Nat) : (m.bytes key n).length = n := by simp [Memory.bytes]

/-- A read of several bytes is the reads of each. -/
theorem Memory.bytes_eq (m : Memory) (key n : Nat) : m.bytes key n = (List.range n).map fun i => m.byte (key + i) := by
  unfold Memory.bytes
  apply List.map_congr_left
  intro i hi
  have hi := List.mem_range.1 hi
  unfold Memory.byte SMap.getD SMap.get?
  have h1 := lookup_filter_key (fun q => decide (key ≤ q) && decide (q < key + n)) (key + i) m.cells
  rw [h1, if_pos (by simp; omega)]

end Sys2Proof.Machine
end

