-- ==== Sys2Proof/Laws/Reg.lean ====
section
/-!
SUPPORT. Laws of control registers and their fields: what a read gives after a write of the same or of another place.
-/
namespace Sys2Proof.Machine
open Sys2Proof

/-! ## Bit fields -/

theorem field_lt (n lo w : Nat) : field n lo w < 2 ^ w := Nat.mod_lt _ (by positivity)

/-- A number is what lies above a field, the field, and what lies below it. -/
theorem field_split (n lo w : Nat) : n = n / 2 ^ (lo + w) * 2 ^ (lo + w) + field n lo w * 2 ^ lo + n % 2 ^ lo := by
  unfold field
  rw [Nat.shiftRight_eq_div_pow]
  have h1 := Nat.div_add_mod n (2 ^ lo)
  have h2 := Nat.div_add_mod (n / 2 ^ lo) (2 ^ w)
  rw [Nat.div_div_eq_div_mul, ← pow_add] at h2
  calc n = 2 ^ lo * (n / 2 ^ lo) + n % 2 ^ lo := h1.symm
    _ = 2 ^ lo * (2 ^ w * (n / 2 ^ (lo + w)) + n / 2 ^ lo % 2 ^ w) + n % 2 ^ lo := by rw [h2]
    _ = _ := by rw [pow_add]; ring

theorem setField_eq (n lo w v : Nat) :
    setField n lo w v = n / 2 ^ (lo + w) * 2 ^ (lo + w) + v % 2 ^ w * 2 ^ lo + n % 2 ^ lo := by
  unfold setField
  rw [Nat.shiftLeft_eq, Nat.shiftLeft_eq]
  have h := field_split n lo w
  omega

theorem field_setField_same (n lo w v : Nat) : field (setField n lo w v) lo w = v % 2 ^ w := by
  rw [setField_eq]
  unfold field
  rw [Nat.shiftRight_eq_div_pow]
  have e : n / 2 ^ (lo + w) * 2 ^ (lo + w) + v % 2 ^ w * 2 ^ lo + n % 2 ^ lo =
      n % 2 ^ lo + 2 ^ lo * (v % 2 ^ w + 2 ^ w * (n / 2 ^ (lo + w))) := by rw [pow_add]; ring
  rw [e, Nat.add_mul_div_left _ _ (by positivity), Nat.div_eq_of_lt (Nat.mod_lt _ (by positivity)), zero_add,
    Nat.add_mul_mod_self_left, Nat.mod_mod]

/-- A field above the one that is set keeps its value. -/
theorem field_setField_above (n lo w v lo' w' : Nat) (h : lo + w ≤ lo') :
    field (setField n lo w v) lo' w' = field n lo' w' := by
  obtain ⟨d, rfl⟩ := Nat.exists_eq_add_of_le h
  unfold field
  rw [Nat.shiftRight_eq_div_pow, Nat.shiftRight_eq_div_pow, pow_add 2 (lo + w) d, ← Nat.div_div_eq_div_mul,
    ← Nat.div_div_eq_div_mul]
  congr 2
  rw [setField_eq]
  have hb : v % 2 ^ w * 2 ^ lo + n % 2 ^ lo < 2 ^ (lo + w) := by
    have h1 : v % 2 ^ w < 2 ^ w := Nat.mod_lt _ (by positivity)
    have h2 : n % 2 ^ lo < 2 ^ lo := Nat.mod_lt _ (by positivity)
    have h3 : v % 2 ^ w * 2 ^ lo ≤ (2 ^ w - 1) * 2 ^ lo := Nat.mul_le_mul_right _ (by omega)
    have h4 : (2 ^ w - 1) * 2 ^ lo + 2 ^ lo = 2 ^ (lo + w) := by
      rw [← Nat.succ_mul, Nat.succ_eq_add_one, Nat.sub_add_cancel Nat.one_le_two_pow, pow_add, mul_comm]
    omega
  rw [add_assoc, Nat.mul_comm (n / 2 ^ (lo + w)), Nat.mul_add_div (by positivity), Nat.div_eq_of_lt hb, add_zero]

/-- A field below the one that is set keeps its value. -/
theorem field_setField_below (n lo w v lo' w' : Nat) (h : lo' + w' ≤ lo) :
    field (setField n lo w v) lo' w' = field n lo' w' := by
  obtain ⟨d, rfl⟩ := Nat.exists_eq_add_of_le h
  have key : ∀ m : Nat, field m lo' w' = field (m % 2 ^ (lo' + w' + d)) lo' w' := by
    intro m
    unfold field
    rw [Nat.shiftRight_eq_div_pow, Nat.shiftRight_eq_div_pow]
    have e : 2 ^ (lo' + w' + d) = 2 ^ lo' * (2 ^ w' * 2 ^ d) := by rw [pow_add, pow_add]; ring
    rw [e, Nat.mod_mul_right_div_self, Nat.mod_mul_right_mod]
  rw [key, key n]
  congr 1
  rw [setField_eq]
  have e : n / 2 ^ (lo' + w' + d + w) * 2 ^ (lo' + w' + d + w) + v % 2 ^ w * 2 ^ (lo' + w' + d) + n % 2 ^ (lo' + w' + d) =
      n % 2 ^ (lo' + w' + d) + 2 ^ (lo' + w' + d) * (v % 2 ^ w + 2 ^ w * (n / 2 ^ (lo' + w' + d + w))) := by
    rw [pow_add _ (lo' + w' + d) w]; ring
  rw [e, Nat.add_mul_mod_self_left, Nat.mod_mod]

theorem setField_lt {n lo w v k : Nat} (hn : n < 2 ^ k) (h : lo + w ≤ k) : setField n lo w v < 2 ^ k := by
  obtain ⟨d, rfl⟩ := Nat.exists_eq_add_of_le h
  rw [setField_eq]
  have h0 : n / 2 ^ (lo + w) < 2 ^ d := by
    apply Nat.div_lt_of_lt_mul
    rwa [← pow_add]
  have h1 : v % 2 ^ w < 2 ^ w := Nat.mod_lt _ (by positivity)
  have h2 : n % 2 ^ lo < 2 ^ lo := Nat.mod_lt _ (by positivity)
  have h3 : v % 2 ^ w * 2 ^ lo ≤ (2 ^ w - 1) * 2 ^ lo := Nat.mul_le_mul_right _ (by omega)
  have h4 : (2 ^ w - 1) * 2 ^ lo + 2 ^ lo = 2 ^ (lo + w) := by
    rw [← Nat.succ_mul, Nat.succ_eq_add_one, Nat.sub_add_cancel Nat.one_le_two_pow, pow_add, mul_comm]
  have h5 : n / 2 ^ (lo + w) * 2 ^ (lo + w) ≤ (2 ^ d - 1) * 2 ^ (lo + w) := Nat.mul_le_mul_right _ (by omega)
  have h6 : (2 ^ d - 1) * 2 ^ (lo + w) + 2 ^ (lo + w) = 2 ^ (lo + w + d) := by
    rw [← Nat.succ_mul, Nat.succ_eq_add_one, Nat.sub_add_cancel Nat.one_le_two_pow, pow_add _ (lo + w) d, mul_comm]
  omega

/-! ## Registers -/

theorem State.rd_lt (s : State) (a : Nat) : s.rd a < 2 ^ 32 := (SMap.getD s.ctrl.regs a _).isLt

/-- A read after a write of a register. -/
theorem State.rd_wr (s : State) (a b v : Nat) : (s.wr a v).rd b = if b = a then v % 2 ^ 32 else s.rd b := by
  unfold State.rd State.wr
  by_cases h : b = a
  · subst h
    simp only [SMap.getD_putD_same, if_true, BitVec.toNat_ofNat]
  · simp only [h, if_false]
    rw [SMap.getD_putD_ne _ _ _ _ h]

theorem State.rd_wr_same (s : State) (a v : Nat) : (s.wr a v).rd a = v % 2 ^ 32 := by rw [State.rd_wr, if_pos rfl]

theorem State.rd_wr_ne (s : State) {a b : Nat} (v : Nat) (h : b ≠ a) : (s.wr a v).rd b = s.rd b := by
  rw [State.rd_wr, if_neg h]

theorem State.rd_put_ne (s : State) (f : Fld) (v : Nat) {b : Nat} (h : b ≠ f.addr) : (s.put f v).rd b = s.rd b :=
  State.rd_wr_ne s _ h

/-- A field reads as it was set, modulo its width. -/
theorem State.get_put_same (s : State) (f : Fld) (v : Nat) (h : f.lo + f.w ≤ 32) : (s.put f v).get f = v % 2 ^ f.w := by
  unfold State.put State.get
  rw [State.rd_wr_same, Nat.mod_eq_of_lt (setField_lt (s.rd_lt _) h), field_setField_same]

/-- A field of another register keeps its value. -/
theorem State.get_put_ne (s : State) (f g : Fld) (v : Nat) (h : g.addr ≠ f.addr) : (s.put f v).get g = s.get g := by
  unfold State.get
  rw [State.rd_put_ne s f v h]

/-- A field of the same register outside the bits that are set keeps its value. -/
theorem State.get_put_beside (s : State) (f g : Fld) (v : Nat) (hw : f.lo + f.w ≤ 32)
    (h : f.lo + f.w ≤ g.lo ∨ g.lo + g.w ≤ f.lo) : (s.put f v).get g = s.get g := by
  by_cases ha : g.addr = f.addr
  · unfold State.get State.put
    rw [ha, State.rd_wr_same, Nat.mod_eq_of_lt (setField_lt (s.rd_lt _) hw)]
    rcases h with h | h
    · exact field_setField_above _ _ _ _ _ _ h
    · exact field_setField_below _ _ _ _ _ _ h
  · exact State.get_put_ne s f g v ha

/-- The control registers keep their canonical form. -/
theorem State.wr_sorted (s : State) (a v : Nat) (h : SMap.sorted s.ctrl.regs = true) :
    SMap.sorted (s.wr a v).ctrl.regs = true := SMap.sorted_putD _ _ _ _ h

theorem State.get64_lt (s : State) (a : Nat) : s.get64 a < 2 ^ 64 := by
  have h1 := s.rd_lt a
  have h2 := s.rd_lt (a + 4)
  unfold State.get64
  omega

theorem State.get64_put64 (s : State) (a v : Nat) : (s.put64 a v).get64 a = v % 2 ^ 64 := by
  unfold State.put64 State.get64
  rw [State.rd_wr_same, State.rd_wr_ne _ _ (by omega), State.rd_wr_same]
  omega

theorem State.rd_put64_ne (s : State) {a b : Nat} (v : Nat) (h1 : b ≠ a) (h2 : b ≠ a + 4) :
    (s.put64 a v).rd b = s.rd b := by
  unfold State.put64
  rw [State.rd_wr_ne _ _ h2, State.rd_wr_ne _ _ h1]

end Sys2Proof.Machine
end

