-- ==== Sys2Proof/Laws/Issue.lean ====
section
/-!
SUPPORT. What the front end of an issue does once its checks have passed, and what the ends of an instruction do.
-/
namespace Sys2Proof.Machine
open Sys2Proof

theorem SMap.put_put {α : Type} (m : SMap α) (k : Nat) (v w : α) : SMap.put (SMap.put m k v) k w = SMap.put m k w := by
  unfold SMap.put
  have h1 : (m.filter fun p => decide (p.1 < k)).filter (fun p => decide (k < p.1)) = [] := by
    simp only [List.filter_eq_nil_iff, List.mem_filter]
    rintro a ⟨_, h⟩
    simp at h ⊢
    omega
  have h2 : (m.filter fun p => decide (k < p.1)).filter (fun p => decide (p.1 < k)) = [] := by
    simp only [List.filter_eq_nil_iff, List.mem_filter]
    rintro a ⟨_, h⟩
    simp at h ⊢
    omega
  simp [List.filter_append, h1, h2]

theorem State.setTask_setTask (s : State) (c k : Nat) (t u : Task) : (s.setTask c k t).setTask c k u = s.setTask c k u := by
  unfold State.setTask
  simp [SMap.put_put]

@[simp] theorem State.task?_setTask (s : State) (c k : Nat) (t : Task) : (s.setTask c k t).task? c k = some t := by
  unfold State.setTask State.task?
  simp [SMap.get?_put_same]

theorem State.modTask_setTask (s : State) (c k : Nat) (t : Task) (f : Task → Task) :
    (s.setTask c k t).modTask c k f = s.setTask c k (f t) := by
  unfold State.modTask
  simp [State.setTask_setTask]

theorem State.modTask_of (s : State) {c k : Nat} {t : Task} (h : s.task? c k = some t) (f : Task → Task) :
    s.modTask c k f = s.setTask c k (f t) := by
  unfold State.modTask
  rw [h]

theorem State.modTask_modTask (s : State) (c k : Nat) (f g : Task → Task) :
    (s.modTask c k f).modTask c k g = s.modTask c k fun t => g (f t) := by
  cases h : s.task? c k with
  | none => unfold State.modTask; rw [h]; simp [h]
  | some t => rw [State.modTask_of s h, State.modTask_of s h, State.modTask_setTask]

/-- No check of the front end stops an instruction that executes; its context is read after the slot gave up its turn. -/
theorem frontEnd_none {sp : OpSpec} {i : Issue} {s : State} {t : Task} (h : Executes sp i s t) (u : State) (hc : u.ctxs = s.ctxs) :
    frontEnd sp u (cxOf i sp.op t) = none := by
  have e : u.pcBad t.ctx t.pc.toNat (wordExt (issueBits i sp.op)) = false := by
    rw [h.ext, ← h.pc]
    unfold State.pcBad State.ctx
    rw [hc]
  have h1 := h.ext
  have h2 := h.reserved
  have h3 := h.enum
  have h4 := h.clean
  have h5 := h.guard
  unfold frontEnd cxOf
  simp_all

theorem poisonLeaves_same (s : State) (n : Next) (h : n.state.out = s.out) : poisonLeaves s n = false := by
  unfold poisonLeaves
  rw [h]
  simp

/-- An instruction that executes ends as its body says. -/
theorem issue_body {sp : OpSpec} {i : Issue} {s : State} {t : Task} (h : Executes sp i s t) (body : Cx → State → Chk Next) {r : Chk Next}
    (hb : body (cxOf i sp.op t) (s.turn i) = r) (hr : r ≠ .error .hold) :
    issue sp body i s = .next ((s.turn i).conclude (cxOf i sp.op t) r) := by
  have e := frontEnd_none h (s.dropFirst i.core i.slot) rfl
  have h1 := h.between
  have h2 := h.turn
  subst hb
  unfold State.turn cxOf at hr
  unfold cxOf at e
  unfold issue issueWord issueRaw State.turn cxOf
  rw [h.task]
  simp only [h1, h2, e, Option.isSome_none, Bool.not_true, Bool.or_self, Bool.false_eq_true, if_false, Option.getD_none]

/-- An instruction whose body retires without sending poison off the module retires. -/
theorem issue_retire {sp : OpSpec} {i : Issue} {s : State} {t : Task} (h : Executes sp i s t) (body : Cx → State → Chk Next)
    {u : State} (hb : body (cxOf i sp.op t) (s.turn i) = .ok (.retire u)) (ho : poisonLeaves (s.turn i) (.retire u) = false) :
    issue sp body i s = .next (u.retire i sp.ext) := by
  rw [issue_body h body hb (by intro e; cases e)]
  have he := h.ext
  unfold State.conclude guardRemote State.retire State.advance State.noteRetire cxOf Task.past
  simp only [ho, Bool.false_eq_true, if_false, State.modTask_modTask, he]
  cases sp.ext <;> rfl

/-- An instruction whose body only changes its task retires with the task so changed. -/
theorem issue_task {sp : OpSpec} {i : Issue} {s : State} {t : Task} (h : Executes sp i s t) (body : Cx → State → Chk Next)
    (f : Task → Task) (hb : body (cxOf i sp.op t) (s.turn i) = .ok (.retire ((s.turn i).modTask i.core i.slot f))) :
    issue sp body i s = .next (((s.turn i).putTask i (f t)).retire i sp.ext) := by
  have ht : (s.turn i).task? i.core i.slot = some t := h.task
  rw [issue_retire h body hb]
  · unfold State.putTask
    rw [State.modTask_of _ ht]
  · apply poisonLeaves_same
    rw [State.modTask_of _ ht]
    rfl

end Sys2Proof.Machine
end

