-- ==== Sys2Proof/Laws/Keeps.lean ====
section
/-!
SUPPORT. What every command keeps: the queue of waiting commands, and the canonical forms of memory and of the control registers. Here
the relation and its rules; the files named after a file of the machine hold one lemma for each of its functions.
-/
namespace Sys2Proof.Machine
open Sys2Proof

/-- `t` has the queue of `s`, and its memory and control registers are in canonical form where those of `s` are. -/
structure Keeps (s t : State) : Prop where
  queue : t.pending = s.pending
  mem : s.mem.wf = true → t.mem.wf = true
  ctrl : Ctrl.wf s.ctrl = true → Ctrl.wf t.ctrl = true

/-- The state of every end of an instruction. -/
def ChkKeeps (s : State) (r : Chk Next) : Prop := ∀ n, r = .ok n → Keeps s n.state

/-- The state of every result that comes with a second value. -/
def FstKeeps {α : Type} (s : State) (r : Chk (State × α)) : Prop := ∀ p, r = .ok p → Keeps s p.1

/-- The state of every next outcome. -/
def OutKeeps (s : State) (o : Host.Outcome State Fault Refusal) : Prop := ∀ t, o = .next t → Keeps s t

/-- The state of a result that may be absent. -/
def OptKeeps (s : State) (o : Option State) : Prop := ∀ t, o = some t → Keeps s t

/-- The state of a result that may be absent and comes with another value before it. -/
def SndKeeps {α : Type} (s : State) (o : Option (α × State)) : Prop := ∀ p, o = some p → Keeps s p.2

theorem Keeps.rfl {s : State} : Keeps s s := ⟨Eq.refl _, id, id⟩

theorem Keeps.trans {r s t : State} (h : Keeps r s) (k : Keeps s t) : Keeps r t :=
  ⟨k.queue.trans h.queue, fun w => k.mem (h.mem w), fun w => k.ctrl (h.ctrl w)⟩

/-- A state given field by field, its queue, memory and control registers those of `t`. -/
theorem Keeps.mk' {s t : State} (h : Keeps s t) {pending out tick ctrl mem mesh cores ctxs oldHandles taskOps bootHold rises resets migs lvrs keys
    tim ports trp vbl coll evc pwr rel svc raised lost draws} (hp : pending = t.pending) (hc : ctrl = t.ctrl) (hm : mem = t.mem) :
    Keeps s ⟨pending, out, tick, ctrl, mem, mesh, cores, ctxs, oldHandles, taskOps, bootHold, rises, resets, migs, lvrs, keys, tim, ports, trp,
      vbl, coll, evc, pwr, rel, svc, raised, lost, draws⟩ := by
  subst hp hc hm
  exact ⟨h.queue, h.mem, h.ctrl⟩

theorem Keeps.mkOf {s t : State} (h : Keeps s t) {out tick mesh cores ctxs oldHandles taskOps bootHold rises resets migs lvrs keys tim ports trp
    vbl coll evc pwr rel svc raised lost draws} :
    Keeps s ⟨t.pending, out, tick, t.ctrl, t.mem, mesh, cores, ctxs, oldHandles, taskOps, bootHold, rises, resets, migs, lvrs, keys, tim, ports,
      trp, vbl, coll, evc, pwr, rel, svc, raised, lost, draws⟩ := Keeps.mk' h (Eq.refl _) (Eq.refl _) (Eq.refl _)

/-- The same where memory is another one in canonical form. -/
theorem Keeps.mkMem {s t : State} (h : Keeps s t) {pending out tick ctrl mem mesh cores ctxs oldHandles taskOps bootHold rises resets migs lvrs keys
    tim ports trp vbl coll evc pwr rel svc raised lost draws} (hp : pending = t.pending) (hc : ctrl = t.ctrl)
    (hm : t.mem.wf = true → mem.wf = true) :
    Keeps s ⟨pending, out, tick, ctrl, mem, mesh, cores, ctxs, oldHandles, taskOps, bootHold, rises, resets, migs, lvrs, keys, tim, ports, trp,
      vbl, coll, evc, pwr, rel, svc, raised, lost, draws⟩ := by
  subst hp hc
  exact ⟨h.queue, fun w => hm (h.mem w), h.ctrl⟩

/-- The same where the shadows or staged halves are others. -/
theorem Keeps.mkCtrl {s t : State} (h : Keeps s t) {pending out tick ctrl mem mesh cores ctxs oldHandles taskOps bootHold rises resets migs lvrs
    keys tim ports trp vbl coll evc pwr rel svc raised lost draws} (hp : pending = t.pending) (hc : ctrl.regs = t.ctrl.regs)
    (hm : mem = t.mem) :
    Keeps s ⟨pending, out, tick, ctrl, mem, mesh, cores, ctxs, oldHandles, taskOps, bootHold, rises, resets, migs, lvrs, keys, tim, ports, trp,
      vbl, coll, evc, pwr, rel, svc, raised, lost, draws⟩ := by
  subst hp hm
  refine ⟨h.queue, h.mem, fun w => ?_⟩
  have := h.ctrl w
  unfold Ctrl.wf at this ⊢
  rw [show ctrl.regs = t.ctrl.regs from hc]
  exact this

theorem Keeps.have_ {P Q : Prop} (q : Q) (h : Q → P) : P := h q

theorem Keeps.foldl {α : Type} {s : State} {f : State → α → State} (hf : ∀ t x, Keeps s t → Keeps s (f t x)) :
    ∀ (l : List α) {t : State}, Keeps s t → Keeps s (l.foldl f t)
  | [], _, h => h
  | a :: l, _, h => Keeps.foldl hf l (hf _ a h)

theorem Keeps.foldlFst {α β : Type} {s : State} {f : State × β → α → State × β}
    (hf : ∀ p x, Keeps s p.1 → Keeps s (f p x).1) :
    ∀ (l : List α) {p : State × β}, Keeps s p.1 → Keeps s (l.foldl f p).1
  | [], _, h => h
  | a :: l, _, h => Keeps.foldlFst hf l (hf _ a h)

theorem Keeps.ofFst {α : Type} {s t : State} {p : State × α} {a : α} (e : p = (t, a)) (h : Keeps s p.1) : Keeps s t := by
  subst e; exact h

theorem Keeps.ofOpt {s t : State} {o : Option State} (e : o = some t) (h : OptKeeps s o) : Keeps s t := h t e

theorem Keeps.ofSnd {α : Type} {s t : State} {o : Option (α × State)} {a : α} (e : o = some (a, t)) (h : SndKeeps s o) :
    Keeps s t := h (a, t) e

theorem OptKeeps.some {s t : State} (h : Keeps s t) : OptKeeps s (some t) := fun _ e => by cases e; exact h
theorem OptKeeps.none {s : State} : OptKeeps s none := fun _ e => by cases e
theorem SndKeeps.some {α : Type} {s t : State} {a : α} (h : Keeps s t) : SndKeeps s (some (a, t)) := fun _ e => by cases e; exact h
theorem SndKeeps.none {α : Type} {s : State} : SndKeeps s (none : Option (α × State)) := fun _ e => by cases e

theorem OutKeeps.next {s t : State} (h : Keeps s t) : OutKeeps s (.next t) := fun _ e => by cases e; exact h
theorem OutKeeps.fault {s : State} {f : Fault} : OutKeeps s (.fault f) := fun _ e => by cases e
theorem OutKeeps.refused {s : State} {f : Refusal} : OutKeeps s (.refused f) := fun _ e => by cases e

theorem ChkKeeps.retire {s t : State} (h : Keeps s t) : ChkKeeps s (.ok (.retire t)) := fun _ e => by cases e; exact h
theorem ChkKeeps.jump {s t : State} {a : Nat} (h : Keeps s t) : ChkKeeps s (.ok (.jump t a)) := fun _ e => by cases e; exact h
theorem ChkKeeps.stay {s t : State} (h : Keeps s t) : ChkKeeps s (.ok (.stay t)) := fun _ e => by cases e; exact h
theorem ChkKeeps.error {s : State} {e : Stop} : ChkKeeps s (.error e) := fun _ h => by cases h
theorem ChkKeeps.bind {α : Type} {s : State} {x : Chk α} {f : α → Chk Next} (h : ∀ a, ChkKeeps s (f a)) :
    ChkKeeps s (x >>= f) := by
  intro n e
  cases x with
  | error _ => cases e
  | ok a => exact h a n e

theorem ChkKeeps.bindFst {α : Type} {s : State} {x : Chk (State × α)} {f : State × α → Chk Next} (hx : FstKeeps s x)
    (h : ∀ p, Keeps s p.1 → ChkKeeps s (f p)) : ChkKeeps s (x >>= f) := by
  intro n e
  cases x with
  | error _ => cases e
  | ok a => exact h a (hx a (Eq.refl _)) n e

theorem FstKeeps.ok {α : Type} {s : State} {p : State × α} (h : Keeps s p.1) : FstKeeps s (.ok p) := fun _ e => by cases e; exact h
theorem FstKeeps.error {α : Type} {s : State} {e : Stop} : FstKeeps s (.error e : Chk (State × α)) := fun _ h => by cases h
theorem FstKeeps.bind {α β : Type} {s : State} {x : Chk α} {f : α → Chk (State × β)} (h : ∀ a, FstKeeps s (f a)) :
    FstKeeps s (x >>= f) := by
  intro n e
  cases x with
  | error _ => cases e
  | ok a => exact h a n e

/-! ## The operations that write control registers -/

theorem Ctrl.wf_iff (c : Ctrl) : Ctrl.wf c = true ↔
    SMap.sorted c.regs = true ∧ ∀ r ∈ c.regs, r.2 ≠ BitVec.ofNat 32 (regReset r.1) := by
  unfold Ctrl.wf
  rw [Bool.and_eq_true, List.all_eq_true]
  constructor
  · rintro ⟨a, b⟩
    exact ⟨a, fun x hx => by simpa using b x hx⟩
  · rintro ⟨a, b⟩
    exact ⟨a, fun x hx => by simpa using b x hx⟩

theorem State.wr_keeps {s0 : State} (s : State) (addr v : Nat) (h : Keeps s0 s) : Keeps s0 (s.wr addr v) := by
  refine h.trans ⟨Eq.refl _, id, fun w => ?_⟩
  rw [Ctrl.wf_iff] at w ⊢
  refine ⟨SMap.sorted_putD _ _ _ _ w.1, fun r hr => ?_⟩
  rcases SMap.mem_putD hr with ⟨rfl, hv⟩ | hr
  · exact hv
  · exact w.2 r hr

/-- A number of memory operations in turn keep the canonical form. -/
theorem Memory.foldl_wf {α : Type} {f : Memory → α → Memory} (hf : ∀ m x, m.wf = true → (f m x).wf = true) :
    ∀ (l : List α) {m : Memory}, m.wf = true → (l.foldl f m).wf = true
  | [], _, h => h
  | a :: l, _, h => Memory.foldl_wf hf l (hf _ a h)

end Sys2Proof.Machine
end

