-- ==== Sys2Proof/Laws/KeepsOps.lean ====
section
/-!
SUPPORT. Every function of Machine/Ops.lean keeps the queue and the canonical forms.
-/
namespace Sys2Proof.Machine
open Sys2Proof

theorem State.clocked_keeps {s0 : State} (s : State) (t : State) (h0 : Keeps s0 s) (h1 : Keeps s0 t) :
    Keeps s0 (State.clocked s t) := by
  unfold State.clocked
  repeat' first
    | with_reducible assumption
    | with_reducible exact Keeps.mk' (by assumption) rfl rfl rfl
    | split

theorem State.put_keeps {s0 : State} (s : State) (f : Fld) (v : Nat) (h0 : Keeps s0 s) :
    Keeps s0 (State.put s f v) := by
  unfold State.put
  repeat' first
    | with_reducible assumption
    | with_reducible apply State.wr_keeps

theorem State.put64_keeps {s0 : State} (s : State) (addr : Nat) (v : Nat) (h0 : Keeps s0 s) :
    Keeps s0 (State.put64 s addr v) := by
  unfold State.put64
  repeat' first
    | with_reducible assumption
    | with_reducible apply State.wr_keeps

theorem State.bump_keeps {s0 : State} (s : State) (f : Fld) (n : Nat) (h0 : Keeps s0 s) :
    Keeps s0 (State.bump s f n) := by
  unfold State.bump
  repeat' first
    | with_reducible assumption
    | with_reducible apply State.put_keeps

theorem State.wrap_keeps {s0 : State} (s : State) (f : Fld) (n : Nat) (h0 : Keeps s0 s) :
    Keeps s0 (State.wrap s f n) := by
  unfold State.wrap
  repeat' first
    | with_reducible assumption
    | with_reducible apply State.put_keeps

theorem State.wrap64_keeps {s0 : State} (s : State) (addr : Nat) (n : Nat) (h0 : Keeps s0 s) :
    Keeps s0 (State.wrap64 s addr n) := by
  unfold State.wrap64
  repeat' first
    | with_reducible assumption
    | with_reducible apply State.put64_keeps

theorem State.clearAll_keeps {s0 : State} (s : State) (fs : List Fld) (h0 : Keeps s0 s) :
    Keeps s0 (State.clearAll s fs) := by
  unfold State.clearAll
  repeat' first
    | with_reducible assumption
    | with_reducible apply State.put_keeps
    | with_reducible exact Keeps.mk' (by assumption) rfl rfl rfl
    | (with_reducible refine Keeps.foldl (fun _ _ _ => ?_) _ ?_)

theorem State.clear64_keeps {s0 : State} (s : State) (as : List Nat) (h0 : Keeps s0 s) :
    Keeps s0 (State.clear64 s as) := by
  unfold State.clear64
  repeat' first
    | with_reducible assumption
    | with_reducible apply State.put64_keeps
    | with_reducible exact Keeps.mk' (by assumption) rfl rfl rfl
    | (with_reducible refine Keeps.foldl (fun _ _ _ => ?_) _ ?_)

theorem State.misusePart_keeps {s0 : State} (s : State) (p : Nat) (h0 : Keeps s0 s) :
    Keeps s0 (State.misusePart s p) := by
  unfold State.misusePart
  repeat' first
    | with_reducible assumption
    | with_reducible apply State.bump_keeps

theorem State.misuseMod_keeps {s0 : State} (s : State) (h0 : Keeps s0 s) :
    Keeps s0 (State.misuseMod s) := by
  unfold State.misuseMod
  repeat' first
    | with_reducible assumption
    | with_reducible apply State.bump_keeps

theorem State.misuse_keeps {s0 : State} (s : State) (r : Requester) (h0 : Keeps s0 s) :
    Keeps s0 (State.misuse s r) := by
  unfold State.misuse
  repeat' first
    | with_reducible assumption
    | with_reducible apply State.misuseMod_keeps
    | with_reducible apply State.misusePart_keeps
    | with_reducible exact Keeps.mk' (by assumption) rfl rfl rfl
    | split

theorem State.raise_keeps {s0 : State} (s : State) (src : Nat) (code : Nat) (sev : Nat) (ctx : Nat) (part : Nat) (w2 : Nat) (w3 : Nat) (h0 : Keeps s0 s) :
    Keeps s0 (State.raise s src code sev ctx part w2 w3) := by
  unfold State.raise
  repeat' first
    | with_reducible assumption
    | with_reducible apply State.put_keeps
    | with_reducible exact Keeps.mk' (by assumption) rfl rfl rfl
    | split

theorem State.raiseCtx_keeps {s0 : State} (s : State) (src : Nat) (code : Nat) (sev : Nat) (ctx : Nat) (w2 : Nat) (w3 : Nat) (h0 : Keeps s0 s) :
    Keeps s0 (State.raiseCtx s src code sev ctx w2 w3) := by
  unfold State.raiseCtx
  repeat' first
    | with_reducible assumption
    | with_reducible apply State.raise_keeps

theorem State.raiseMod_keeps {s0 : State} (s : State) (src : Nat) (code : Nat) (sev : Nat) (w2 : Nat) (w3 : Nat) (h0 : Keeps s0 s) :
    Keeps s0 (State.raiseMod s src code sev w2 w3) := by
  unfold State.raiseMod
  repeat' first
    | with_reducible assumption
    | with_reducible apply State.raise_keeps

theorem State.emit_keeps {s0 : State} (s : State) (o : Out) (h0 : Keeps s0 s) :
    Keeps s0 (State.emit s o) := by
  unfold State.emit
  repeat' first
    | with_reducible assumption
    | with_reducible exact Keeps.mk' (by assumption) rfl rfl rfl

theorem State.setCtx_keeps {s0 : State} (s : State) (c : Nat) (x : Context) (h0 : Keeps s0 s) :
    Keeps s0 (State.setCtx s c x) := by
  unfold State.setCtx
  repeat' first
    | with_reducible assumption
    | with_reducible exact Keeps.mk' (by assumption) rfl rfl rfl

theorem State.setPool_keeps {s0 : State} (s : State) (core : Nat) (c : Nat) (p : Pool) (h0 : Keeps s0 s) :
    Keeps s0 (State.setPool s core c p) := by
  unfold State.setPool
  repeat' first
    | with_reducible assumption
    | with_reducible exact Keeps.mk' (by assumption) rfl rfl rfl

theorem State.twrite_keeps {s0 : State} (s : State) (c a : Nat) (bs : List Byte) (pz : Nat → Bool) (h0 : Keeps s0 s) :
    Keeps s0 (State.twrite s c a bs pz) :=
  Keeps.foldl (fun _ _ ht => Keeps.mkMem ht rfl rfl (Memory.store_wf _ _ _ _)) _ h0

theorem State.setTask_keeps {s0 : State} (s : State) (core : Nat) (slot : Nat) (t : Task) (h0 : Keeps s0 s) :
    Keeps s0 (State.setTask s core slot t) := by
  unfold State.setTask
  repeat' first
    | with_reducible assumption
    | with_reducible apply State.put_keeps
    | with_reducible exact Keeps.mk' (by assumption) rfl rfl rfl

theorem State.dropTask_keeps {s0 : State} (s : State) (core : Nat) (slot : Nat) (h0 : Keeps s0 s) :
    Keeps s0 (State.dropTask s core slot) := by
  unfold State.dropTask
  repeat' first
    | with_reducible assumption
    | with_reducible exact Keeps.mk' (by assumption) rfl rfl rfl

theorem State.modTask_keeps {s0 : State} (s : State) (core : Nat) (slot : Nat) (f : Task → Task) (h0 : Keeps s0 s) :
    Keeps s0 (State.modTask s core slot f) := by
  unfold State.modTask
  repeat' first
    | with_reducible assumption
    | with_reducible apply State.setTask_keeps
    | with_reducible exact Keeps.mk' (by assumption) rfl rfl rfl
    | split

theorem State.closeBatches_keeps {s0 : State} (s : State) (core : Nat) (slot : Nat) (h0 : Keeps s0 s) :
    Keeps s0 (State.closeBatches s core slot) := by
  unfold State.closeBatches
  repeat' first
    | with_reducible assumption
    | with_reducible exact Keeps.mk' (by assumption) rfl rfl rfl

theorem State.setEp_keeps {s0 : State} (s : State) (k : Nat) (e : Endpoint) (h0 : Keeps s0 s) :
    Keeps s0 (State.setEp s k e) := by
  unfold State.setEp
  repeat' first
    | with_reducible assumption
    | with_reducible apply State.put_keeps
    | with_reducible exact Keeps.mk' (by assumption) rfl rfl rfl

end Sys2Proof.Machine
end

