-- ==== Sys2Proof/Laws/KeepsCtxFault.lean ====
section
/-!
SUPPORT. Every function of Machine/CtxFault.lean keeps the queue and the canonical forms.
-/
namespace Sys2Proof.Machine
open Sys2Proof

theorem State.markStopped_keeps {s0 : State} (s : State) (c : Nat) (cause : Nat) (h0 : Keeps s0 s) :
    Keeps s0 (State.markStopped s c cause) := by
  unfold State.markStopped
  repeat' first
    | with_reducible assumption
    | with_reducible exact Keeps.mk' (by assumption) rfl rfl rfl

theorem State.markFaulted_keeps {s0 : State} (s : State) (c : Nat) (h0 : Keeps s0 s) :
    Keeps s0 (State.markFaulted s c) := by
  unfold State.markFaulted
  repeat' first
    | with_reducible assumption
    | with_reducible apply State.markStopped_keeps

theorem State.discardGroups_keeps {s0 : State} (s : State) (c : Nat) (h0 : Keeps s0 s) :
    Keeps s0 (State.discardGroups s c) := by
  unfold State.discardGroups
  repeat' first
    | with_reducible assumption
    | with_reducible exact Keeps.mk' (by assumption) rfl rfl rfl

theorem State.migEnd_keeps {s0 : State} (s : State) (c : Nat) (status : Nat) (done : Nat) (poisoned : Nat) (h0 : Keeps s0 s) :
    Keeps s0 (State.migEnd s c status done poisoned) := by
  unfold State.migEnd
  dsimp only
  repeat' first
    | with_reducible assumption
    | with_reducible apply State.twrite_keeps
    | with_reducible apply State.raiseCtx_keeps
    | with_reducible apply State.put_keeps
    | with_reducible exact Keeps.mk' (by assumption) rfl rfl rfl
    | split

theorem State.migAbort_keeps {s0 : State} (s : State) (c : Nat) (h0 : Keeps s0 s) :
    Keeps s0 (State.migAbort s c) := by
  unfold State.migAbort
  repeat' first
    | with_reducible assumption
    | with_reducible apply State.migEnd_keeps
    | with_reducible exact Keeps.mk' (by assumption) rfl rfl rfl
    | split

theorem State.setLvr_keeps {s0 : State} (s : State) (c : Nat) (l : Lvr) (h0 : Keeps s0 s) :
    Keeps s0 (State.setLvr s c l) := by
  unfold State.setLvr
  repeat' first
    | with_reducible assumption
    | with_reducible exact Keeps.mk' (by assumption) rfl rfl rfl

theorem State.lvrEnd_keeps {s0 : State} (s : State) (c : Nat) (ring : Nat) (status : Nat) (chunks : Nat) (poisoned : Nat) (h0 : Keeps s0 s) :
    Keeps s0 (State.lvrEnd s c ring status chunks poisoned) := by
  unfold State.lvrEnd
  dsimp only
  repeat' first
    | with_reducible assumption
    | with_reducible apply State.put_keeps
    | with_reducible apply State.raiseCtx_keeps
    | with_reducible apply State.setLvr_keeps
    | with_reducible apply State.twrite_keeps
    | with_reducible exact Keeps.mk' (by assumption) rfl rfl rfl
    | split

theorem State.dropReads_keeps {s0 : State} (s : State) (c : Nat) (q : EngineRead → Bool) (h0 : Keeps s0 s) :
    Keeps s0 (State.dropReads s c q) := by
  unfold State.dropReads
  repeat' first
    | with_reducible assumption
    | with_reducible exact Keeps.mk' (by assumption) rfl rfl rfl

theorem State.lvrAbort_keeps {s0 : State} (s : State) (c : Nat) (h0 : Keeps s0 s) :
    Keeps s0 (State.lvrAbort s c) := by
  unfold State.lvrAbort
  dsimp only
  repeat' first
    | with_reducible assumption
    | with_reducible apply State.dropReads_keeps
    | with_reducible apply State.lvrEnd_keeps
    | with_reducible apply State.setLvr_keeps
    | with_reducible exact Keeps.mk' (by assumption) rfl rfl rfl
    | split

theorem State.raiseInc_keeps {s0 : State} (s : State) (c : Nat) (h0 : Keeps s0 s) :
    Keeps s0 (State.raiseInc s c) := by
  unfold State.raiseInc
  repeat' first
    | with_reducible assumption
    | with_reducible apply State.wr_keeps
    | with_reducible exact Keeps.mk' (by assumption) rfl rfl rfl
    | (intro x; refine Keeps.have_ (Q := Keeps s0 x) ?q ?h; (case' q => subst x); (case' h => (intro hx; clear_value x)))
    | (intro x; clear_value x)
    | split
    | lift_lets

theorem State.deferRise_keeps {s0 : State} (s : State) (r : Rise) (h0 : Keeps s0 s) :
    Keeps s0 (State.deferRise s r) := by
  unfold State.deferRise
  repeat' first
    | with_reducible assumption
    | with_reducible apply State.put_keeps
    | with_reducible exact Keeps.mk' (by assumption) rfl rfl rfl

theorem State.dropRequests_keeps {s0 : State} (s : State) (c : Nat) (h0 : Keeps s0 s) :
    Keeps s0 (State.dropRequests s c) := by
  unfold State.dropRequests
  repeat' first
    | with_reducible assumption
    | with_reducible apply State.giveUp_keeps
    | with_reducible exact Keeps.mk' (by assumption) rfl rfl rfl

theorem State.collEnd_keeps {s0 : State} (s : State) (i : Coll) (reason : Nat) (node : Nat) (h0 : Keeps s0 s) :
    Keeps s0 (State.collEnd s i reason node) := by
  unfold State.collEnd
  repeat' first
    | with_reducible assumption
    | with_reducible apply State.setCtx_keeps
    | with_reducible apply State.raiseCtx_keeps
    | with_reducible apply State.bump_keeps
    | with_reducible apply State.put_keeps
    | with_reducible exact Keeps.mk' (by assumption) rfl rfl rfl
    | (fail_if_no_progress extract_lets +onlyGivenNames x)
    | split
    | (fail_if_no_progress with_reducible apply Keeps.mkOf)

theorem State.collEndCtx_keeps {s0 : State} (s : State) (c : Nat) (h0 : Keeps s0 s) :
    Keeps s0 (State.collEndCtx s c) := by
  unfold State.collEndCtx
  repeat' first
    | with_reducible assumption
    | with_reducible apply State.collEnd_keeps
    | with_reducible exact Keeps.mk' (by assumption) rfl rfl rfl
    | (with_reducible refine Keeps.foldl (fun _ _ _ => ?_) _ ?_)
    | (with_reducible refine Keeps.foldlFst (fun _ _ _ => ?_) _ ?_)
    | (intro x; refine Keeps.have_ (Q := Keeps s0 x) ?q ?h; (case' q => subst x); (case' h => (intro hx; clear_value x)))
    | split
    | lift_lets

theorem State.contain_keeps {s0 : State} (s : State) (c : Nat) (cause : Nat) (ordinal : Nat) (h0 : Keeps s0 s) :
    Keeps s0 (State.contain s c cause ordinal) := by
  unfold State.contain
  repeat' first
    | with_reducible assumption
    | with_reducible apply State.collEndCtx_keeps
    | with_reducible apply State.discardGroups_keeps
    | with_reducible apply State.dropRequests_keeps
    | with_reducible apply State.lvrAbort_keeps
    | with_reducible apply State.markFaulted_keeps
    | with_reducible apply State.migAbort_keeps
    | with_reducible apply State.put_keeps
    | with_reducible apply State.setCtx_keeps
    | with_reducible exact Keeps.mk' (by assumption) rfl rfl rfl
    | (fail_if_no_progress extract_lets +onlyGivenNames x)
    | split
    | intro _
    | (fail_if_no_progress with_reducible apply Keeps.mkOf)

theorem State.enterFaulted_keeps {s0 : State} (s : State) (c : Nat) (cause : Nat) (ordinal : Nat) (h0 : Keeps s0 s) :
    Keeps s0 (State.enterFaulted s c cause ordinal) := by
  unfold State.enterFaulted
  repeat' first
    | with_reducible assumption
    | with_reducible apply State.raiseInc_keeps
    | with_reducible apply State.setCtx_keeps
    | with_reducible apply State.raiseCtx_keeps
    | with_reducible apply State.put_keeps

theorem State.faultCtx_keeps {s0 : State} (s : State) (c : Nat) (cause : Nat) (ordinal : Nat) (h0 : Keeps s0 s) :
    Keeps s0 (State.faultCtx s c cause ordinal) := by
  unfold State.faultCtx
  repeat' first
    | with_reducible assumption
    | with_reducible apply State.enterFaulted_keeps
    | with_reducible apply State.contain_keeps
    | with_reducible apply State.deferRise_keeps
    | with_reducible exact Keeps.mk' (by assumption) rfl rfl rfl
    | (intro x; refine Keeps.have_ (Q := Keeps s0 x) ?q ?h; (case' q => subst x); (case' h => (intro hx; clear_value x)))
    | (intro x; clear_value x)
    | split
    | lift_lets

end Sys2Proof.Machine
end

