-- ==== Sys2Proof/Laws/KeepsMesh.lean ====
section
/-!
SUPPORT. Every function of Machine/Mesh.lean keeps the queue and the canonical forms.
-/
namespace Sys2Proof.Machine
open Sys2Proof

theorem State.setPosition_keeps {s0 : State} (s : State) (pos : Nat) (x : Position) (h0 : Keeps s0 s) :
    Keeps s0 (State.setPosition s pos x) := by
  unfold State.setPosition
  repeat' first
    | with_reducible assumption
    | with_reducible exact Keeps.mk' (by assumption) rfl rfl rfl

theorem State.netUnreach_keeps {s0 : State} (s : State) (src : Nat) (dst : Nat) (cls : Nat) (h0 : Keeps s0 s) :
    Keeps s0 (State.netUnreach s src dst cls) := by
  unfold State.netUnreach
  repeat' first
    | with_reducible assumption
    | with_reducible apply State.raiseMod_keeps
    | with_reducible apply State.bump_keeps

theorem State.streamLost_keeps {s0 : State} (s : State) (k : Nat) (h0 : Keeps s0 s) :
    Keeps s0 (State.streamLost s k) := by
  unfold State.streamLost
  repeat' first
    | with_reducible assumption
    | with_reducible apply State.faultCtx_keeps

end Sys2Proof.Machine
end

