-- ==== Sys2Proof/Laws/KeepsAccess.lean ====
section
/-!
SUPPORT. Every function of Machine/Access.lean keeps the queue and the canonical forms.
-/
namespace Sys2Proof.Machine
open Sys2Proof

theorem State.refuseAccess_keeps {s0 : State} (s : State) (req : Requester) (addr : Nat) (h0 : Keeps s0 s) :
    Keeps s0 (State.refuseAccess s req addr) := by
  unfold State.refuseAccess
  repeat' first
    | with_reducible assumption
    | with_reducible apply State.bump_keeps
    | with_reducible apply State.raiseMod_keeps

theorem State.write_keeps {s0 : State} (s : State) (req : Requester) (addr : Nat) (v : Nat) (f : State → State) (h0 : Keeps s0 s) (h1 : ∀ a0, Keeps s0 a0 → Keeps s0 (f a0)) :
    Keeps s0 (State.write s req addr v f) := by
  unfold State.write
  repeat' first
    | with_reducible assumption
    | with_reducible apply State.refuseAccess_keeps
    | with_reducible apply State.misuse_keeps
    | with_reducible exact Keeps.mk' (by assumption) rfl rfl rfl
    | split
    | (with_reducible refine Keeps.ofFst (by with_reducible assumption) ?_)
    | (with_reducible refine Keeps.ofOpt (by with_reducible assumption) ?_)
    | (with_reducible refine Keeps.ofSnd (by with_reducible assumption) ?_)
    | lift_lets
    | with_reducible apply_assumption

end Sys2Proof.Machine
end

