-- ==== Sys2Proof/Laws/KeepsChecks.lean ====
section
/-!
SUPPORT. Every function of Machine/Checks.lean keeps the queue and the canonical forms.
-/
namespace Sys2Proof.Machine
open Sys2Proof

theorem State.chargeSamples_keeps {s0 : State} (s : State) (c : Nat) (core : Nat) (bs : List FragBlock) (h0 : Keeps s0 s) :
    Keeps s0 (State.chargeSamples s c core bs) := by
  unfold State.chargeSamples
  repeat' first
    | with_reducible assumption
    | with_reducible apply State.put_keeps
    | with_reducible apply State.setCtx_keeps
    | with_reducible apply State.wrap64_keeps

theorem State.chargeSum_keeps {s0 : State} (s : State) (core : Nat) (pos : Nat) (b : FragBlock) (h0 : Keeps s0 s) :
    Keeps s0 (State.chargeSum s core pos b) := by
  unfold State.chargeSum
  repeat' first
    | with_reducible assumption
    | with_reducible apply State.wrap64_keeps
    | with_reducible exact Keeps.mk' (by assumption) rfl rfl rfl
    | split

theorem State.chargeSecond_keeps {s0 : State} (s : State) (c : Nat) (core : Nat) (bs : List FragBlock) (h0 : Keeps s0 s) :
    Keeps s0 (State.chargeSecond s c core bs) := by
  unfold State.chargeSecond
  repeat' first
    | with_reducible assumption
    | with_reducible apply State.chargeSamples_keeps
    | with_reducible apply State.wrap64_keeps
    | with_reducible exact Keeps.mk' (by assumption) rfl rfl rfl
    | split

theorem State.chargeSums_keeps {s0 : State} (s : State) (c : Nat) (core : Nat) (bs : List FragBlock) (h0 : Keeps s0 s) :
    Keeps s0 (State.chargeSums s c core bs) := by
  unfold State.chargeSums
  repeat' first
    | with_reducible assumption
    | with_reducible apply State.chargeSum_keeps
    | with_reducible exact Keeps.mk' (by assumption) rfl rfl rfl
    | (with_reducible refine Keeps.foldl (fun _ _ _ => ?_) _ ?_)
    | (with_reducible refine Keeps.foldlFst (fun _ _ _ => ?_) _ ?_)
    | split

theorem State.chargeArrays_keeps {s0 : State} (s : State) (c : Nat) (core : Nat) (bs : List FragBlock) (h0 : Keeps s0 s) :
    Keeps s0 (State.chargeArrays s c core bs) := by
  unfold State.chargeArrays
  repeat' first
    | with_reducible assumption
    | with_reducible apply State.chargeSecond_keeps
    | with_reducible apply State.chargeSums_keeps
    | with_reducible apply State.wrap64_keeps

end Sys2Proof.Machine
end

