-- ==== Sys2Proof/Laws/KeepsGeneration.lean ====
section
/-!
SUPPORT. Every function of Machine/Generation.lean keeps the queue and the canonical forms.
-/
namespace Sys2Proof.Machine
open Sys2Proof

theorem State.dropCopies_keeps {s0 : State} (s : State) (core : Nat) (c : Nat) (which : Nat → Bool) (h0 : Keeps s0 s) :
    Keeps s0 (State.dropCopies s core c which) := by
  unfold State.dropCopies
  repeat' first
    | with_reducible assumption
    | with_reducible apply State.setPool_keeps

theorem State.thrUpdate_keeps {s0 : State} (s : State) (c : Nat) (h0 : Keeps s0 s) :
    Keeps s0 (State.thrUpdate s c) := by
  unfold State.thrUpdate
  repeat' first
    | with_reducible assumption
    | with_reducible apply State.dropCopies_keeps
    | with_reducible apply State.put_keeps
    | with_reducible apply State.setCtx_keeps
    | with_reducible exact Keeps.mk' (by assumption) rfl rfl rfl
    | (with_reducible refine Keeps.foldl (fun _ _ _ => ?_) _ ?_)
    | (with_reducible refine Keeps.foldlFst (fun _ _ _ => ?_) _ ?_)
    | split

theorem State.unpin_keeps {s0 : State} (s : State) (core : Nat) (slot : Nat) (c : Nat) (h0 : Keeps s0 s) :
    Keeps s0 (State.unpin s core slot c) := by
  unfold State.unpin
  repeat' first
    | with_reducible assumption
    | with_reducible apply State.setPool_keeps

theorem State.modDecl_keeps {s0 : State} (s : State) (c : Nat) (i : Nat) (f : TaskDecl → TaskDecl) (h0 : Keeps s0 s) :
    Keeps s0 (State.modDecl s c i f) := by
  unfold State.modDecl
  repeat' first
    | with_reducible assumption
    | with_reducible apply State.setCtx_keeps

theorem State.passBarrier_keeps {s0 : State} (n : Nat) (s : State) (core : Nat) (slot : Nat) (h0 : Keeps s0 s) :
    Keeps s0 (State.passBarrier n s core slot) := by
  unfold State.passBarrier
  repeat' first
    | with_reducible assumption
    | with_reducible apply State.modDecl_keeps
    | with_reducible apply State.put_keeps
    | with_reducible exact Keeps.mk' (by assumption) rfl rfl rfl
    | split

theorem State.passThreshold_keeps {s0 : State} (s : State) (core : Nat) (slot : Nat) (h0 : Keeps s0 s) :
    Keeps s0 (State.passThreshold s core slot) := by
  unfold State.passThreshold
  repeat' first
    | with_reducible assumption
    | with_reducible apply State.modDecl_keeps
    | with_reducible apply State.unpin_keeps
    | with_reducible apply State.thrUpdate_keeps
    | with_reducible exact Keeps.mk' (by assumption) rfl rfl rfl
    | (fail_if_no_progress extract_lets +onlyGivenNames x)
    | split
    | (fail_if_no_progress with_reducible apply Keeps.mkOf)

end Sys2Proof.Machine
end

