-- ==== Sys2Proof/Laws/KeepsIssue.lean ====
section
/-!
SUPPORT. Every function of Machine/Issue.lean keeps the queue and the canonical forms.
-/
namespace Sys2Proof.Machine
open Sys2Proof

theorem State.taskFault_keeps {s0 : State} (s : State) (core : Nat) (slot : Nat) (cause : Nat) (word : Nat) (ext : Nat) (h0 : Keeps s0 s) :
    Keeps s0 (State.taskFault s core slot cause word ext) := by
  unfold State.taskFault
  repeat' first
    | with_reducible assumption
    | with_reducible apply State.thrUpdate_keeps
    | with_reducible apply State.faultCtx_keeps
    | with_reducible apply State.setTask_keeps
    | with_reducible apply State.raiseCtx_keeps
    | with_reducible exact Keeps.mk' (by assumption) rfl rfl rfl
    | (intro x; refine Keeps.have_ (Q := Keeps s0 x) ?q ?h; (case' q => subst x); (case' h => intro hx))
    | (intro x; skip)
    | split
    | (with_reducible refine Keeps.ofFst (by with_reducible assumption) ?_)
    | (with_reducible refine Keeps.ofOpt (by with_reducible assumption) ?_)
    | (with_reducible refine Keeps.ofSnd (by with_reducible assumption) ?_)
    | lift_lets

theorem State.poisonFault_keeps {s0 : State} (s : State) (core : Nat) (slot : Nat) (kind : Nat) (file : Nat) (index : Nat) (word : Nat) (ext : Nat) (h0 : Keeps s0 s) :
    Keeps s0 (State.poisonFault s core slot kind file index word ext) := by
  unfold State.poisonFault
  repeat' first
    | with_reducible assumption
    | with_reducible apply State.faultCtx_keeps
    | with_reducible apply State.setTask_keeps
    | with_reducible apply State.raiseCtx_keeps
    | with_reducible exact Keeps.mk' (by assumption) rfl rfl rfl
    | split

theorem State.noteIssue_keeps {s0 : State} (s : State) (core : Nat) (slot : Nat) (h0 : Keeps s0 s) :
    Keeps s0 (State.noteIssue s core slot) := by
  unfold State.noteIssue
  repeat' first
    | with_reducible assumption
    | with_reducible apply State.put_keeps
    | with_reducible apply State.wrap64_keeps
    | with_reducible exact Keeps.mk' (by assumption) rfl rfl rfl
    | (intro x; refine Keeps.have_ (Q := Keeps s0 x) ?q ?h; (case' q => subst x); (case' h => (intro hx; clear_value x)))
    | (intro x; clear_value x)
    | lift_lets

theorem State.queueStage_keeps {s0 : State} (s : State) (core : Nat) (slot : Nat) (w : Wait) (h0 : Keeps s0 s) :
    Keeps s0 (State.queueStage s core slot w) := by
  unfold State.queueStage
  repeat' first
    | with_reducible assumption
    | with_reducible apply State.put_keeps
    | with_reducible exact Keeps.mk' (by assumption) rfl rfl rfl
    | split

theorem State.taskWait_keeps {s0 : State} (s : State) (core : Nat) (slot : Nat) (w : Wait) (h0 : Keeps s0 s) :
    Keeps s0 (State.taskWait s core slot w) := by
  unfold State.taskWait
  repeat' first
    | with_reducible assumption
    | with_reducible apply Next.state_keeps
    | with_reducible apply State.closeBatches_keeps
    | with_reducible apply State.modTask_keeps
    | with_reducible apply State.queueStage_keeps
    | with_reducible apply State.wrap64_keeps
    | with_reducible exact Keeps.mk' (by assumption) rfl rfl rfl
    | (intro x; refine Keeps.have_ (Q := Keeps s0 x) ?q ?h; (case' q => subst x); (case' h => (intro hx; clear_value x)))
    | (intro x; clear_value x)
    | split
    | (with_reducible refine Keeps.ofFst (by with_reducible assumption) ?_)
    | (with_reducible refine Keeps.ofOpt (by with_reducible assumption) ?_)
    | (with_reducible refine Keeps.ofSnd (by with_reducible assumption) ?_)
    | lift_lets
    | intro _

theorem State.advance_keeps {s0 : State} (s : State) (core : Nat) (slot : Nat) (word : Nat) (h0 : Keeps s0 s) :
    Keeps s0 (State.advance s core slot word) := by
  unfold State.advance
  repeat' first
    | with_reducible assumption
    | with_reducible apply State.modTask_keeps

theorem State.dropFirst_keeps {s0 : State} (s : State) (core : Nat) (slot : Nat) (h0 : Keeps s0 s) :
    Keeps s0 (State.dropFirst s core slot) := by
  unfold State.dropFirst
  repeat' first
    | with_reducible assumption
    | with_reducible exact Keeps.mk' (by assumption) rfl rfl rfl

theorem State.markHeld_keeps {s0 : State} (s : State) (core : Nat) (slot : Nat) (h0 : Keeps s0 s) :
    Keeps s0 (State.markHeld s core slot) := by
  unfold State.markHeld
  repeat' first
    | with_reducible assumption
    | with_reducible apply State.put_keeps
    | with_reducible exact Keeps.mk' (by assumption) rfl rfl rfl
    | split

theorem State.noteRetire_keeps {s0 : State} (s : State) (core : Nat) (slot : Nat) (h0 : Keeps s0 s) :
    Keeps s0 (State.noteRetire s core slot) := by
  unfold State.noteRetire
  repeat' first
    | with_reducible assumption
    | with_reducible apply State.modTask_keeps

theorem Next.state_keeps {s0 : State} (b0 : Next) (h0 : Keeps s0 b0.state) :
    Keeps s0 (Next.state b0) := by
  unfold Next.state
  repeat' first
    | with_reducible assumption
    | with_reducible exact Keeps.mk' (by assumption) rfl rfl rfl
    | split
    | with_reducible apply_assumption

theorem guardRemote_keeps {s0 : State} (s : State) (r : Chk Next) (h0 : Keeps s0 s) (h1 : ChkKeeps s0 r) :
    ChkKeeps s0 (guardRemote s r) := by
  unfold guardRemote
  repeat' first
    | with_reducible assumption
    | with_reducible exact Keeps.mk' (by assumption) rfl rfl rfl
    | with_reducible apply ChkKeeps.retire
    | with_reducible apply ChkKeeps.jump
    | with_reducible apply ChkKeeps.stay
    | with_reducible apply ChkKeeps.error
    | (with_reducible refine ChkKeeps.bind (fun _ => ?_))
    | (intro x; clear_value x)
    | split

theorem State.conclude_keeps {s0 : State} (s : State) (x : Cx) (r : Chk Next) (h0 : Keeps s0 s) (h1 : ChkKeeps s0 r) :
    Keeps s0 (State.conclude s x r) := by
  have hg := guardRemote_keeps s r h0 h1
  have hn : Keeps s0 (s.noteIssue x.core x.slot) := State.noteIssue_keeps _ _ _ h0
  unfold State.conclude
  split
  · next s' e => exact State.noteIssue_keeps _ _ _ (State.noteRetire_keeps _ _ _ (State.advance_keeps _ _ _ _ (hg _ e)))
  · next s' pc e => exact State.noteIssue_keeps _ _ _ (State.noteRetire_keeps _ _ _ (State.modTask_keeps _ _ _ _ (hg _ e)))
  · next s' e => exact State.noteIssue_keeps _ _ _ (hg _ e)
  · refine State.taskFault_keeps _ _ _ _ _ _ (State.noteIssue_keeps _ _ _ ?_)
    split
    · exact State.misusePart_keeps _ _ h0
    · exact h0
  · exact State.taskFault_keeps _ _ _ _ _ _ hn
  · exact State.poisonFault_keeps _ _ _ _ _ _ _ _ hn
  · exact State.faultCtx_keeps _ _ _ _ (State.put_keeps _ _ _ (State.raiseCtx_keeps _ _ _ _ _ _ _ hn))
  · exact State.taskWait_keeps _ _ _ _ h0
  · exact h0

theorem frontEnd_keeps {s0 : State} (sp : OpSpec) (s : State) (x : Cx) (h0 : Keeps s0 s) :
    ∀ r, (frontEnd sp s x) = some r → ChkKeeps s0 r := by
  intro r e
  unfold frontEnd at e
  repeat' split at e
  all_goals cases e
  all_goals first | exact ChkKeeps.error | exact ChkKeeps.retire h0

theorem issueRaw_keeps {s0 : State} (core : Nat) (slot : Nat) (word : Nat) (ext : Nat) (run : Cx → State → Chk Next) (s : State) (h0 : ∀ a0 a1, Keeps s0 a1 → ChkKeeps s0 (run a0 a1)) (h1 : Keeps s0 s) :
    Keeps s0 (issueRaw core slot word ext run s) := by
  unfold issueRaw
  split
  · assumption
  · split
    · assumption
    · dsimp only
      split
      · exact State.markHeld_keeps _ _ _ h1
      · exact State.conclude_keeps _ _ _ (State.dropFirst_keeps _ _ _ h1) (h0 _ _ (State.dropFirst_keeps _ _ _ h1))

theorem issueWord_keeps {s0 : State} (sp : OpSpec) (core : Nat) (slot : Nat) (word : Nat) (ext : Nat)
    (body : Cx → State → Chk Next) (s : State) (h0 : ∀ a0 a1, Keeps s0 a1 → ChkKeeps s0 (body a0 a1)) (h1 : Keeps s0 s) :
    Keeps s0 (issueWord sp core slot word ext body s) := by
  refine issueRaw_keeps _ _ _ _ _ _ (fun x t ht => ?_) h1
  cases e : frontEnd sp t x with
  | none => exact h0 _ _ ht
  | some r => exact frontEnd_keeps _ _ _ ht r e

theorem issue_keeps {s0 : State} (sp : OpSpec) (body : Cx → State → Chk Next) (i : Issue) (s : State) (h0 : ∀ a0 a1, Keeps s0 a1 → ChkKeeps s0 (body a0 a1)) (h1 : Keeps s0 s) :
    OutKeeps s0 (issue sp body i s) := by
  unfold issue
  repeat' first
    | with_reducible assumption
    | with_reducible apply issueWord_keeps
    | with_reducible exact Keeps.mk' (by assumption) rfl rfl rfl
    | with_reducible apply OutKeeps.next

theorem Cx.putS_keeps {s0 : State} (x : Cx) (s : State) (i : Nat) (v : Nat) (poisoned : Bool) (h0 : Keeps s0 s) :
    Keeps s0 (Cx.putS x s i v poisoned) := by
  unfold Cx.putS
  repeat' first
    | with_reducible assumption
    | with_reducible apply State.modTask_keeps

theorem Cx.putFlags_keeps {s0 : State} (x : Cx) (s : State) (f : Flags) (h0 : Keeps s0 s) :
    Keeps s0 (Cx.putFlags x s f) := by
  unfold Cx.putFlags
  repeat' first
    | with_reducible assumption
    | with_reducible apply State.modTask_keeps

end Sys2Proof.Machine
end

