-- ==== Sys2Proof/Laws/KeepsScalar.lean ====
section
/-!
SUPPORT. Every function of Machine/Scalar.lean keeps the queue and the canonical forms.
-/
namespace Sys2Proof.Machine
open Sys2Proof

theorem aluBody_keeps {s0 : State} (f : Nat → Nat → Nat) (x : Cx) (s : State) (h0 : Keeps s0 s) :
    ChkKeeps s0 (aluBody f x s) := by
  unfold aluBody
  repeat' first
    | with_reducible assumption
    | with_reducible apply Cx.putS_keeps
    | with_reducible exact Keeps.mk' (by assumption) rfl rfl rfl
    | with_reducible apply ChkKeeps.retire

theorem execNop_keeps {s0 : State} (i : Issue) (s : State) (h0 : Keeps s0 s) : OutKeeps s0 (execNop i s) :=
  issue_keeps _ _ _ _ (fun _ _ ht => ChkKeeps.retire ht) h0

theorem execAdd_keeps {s0 : State} (i : Issue) (s : State) (h0 : Keeps s0 s) :
    OutKeeps s0 (execAdd i s) := by
  unfold execAdd
  repeat' first
    | with_reducible assumption
    | with_reducible apply aluBody_keeps
    | with_reducible apply issue_keeps

theorem execSub_keeps {s0 : State} (i : Issue) (s : State) (h0 : Keeps s0 s) :
    OutKeeps s0 (execSub i s) := by
  unfold execSub
  repeat' first
    | with_reducible assumption
    | with_reducible apply aluBody_keeps
    | with_reducible apply issue_keeps

theorem execMul_keeps {s0 : State} (i : Issue) (s : State) (h0 : Keeps s0 s) :
    OutKeeps s0 (execMul i s) := by
  unfold execMul
  repeat' first
    | with_reducible assumption
    | with_reducible apply aluBody_keeps
    | with_reducible apply issue_keeps

theorem execAnd_keeps {s0 : State} (i : Issue) (s : State) (h0 : Keeps s0 s) :
    OutKeeps s0 (execAnd i s) := by
  unfold execAnd
  repeat' first
    | with_reducible assumption
    | with_reducible apply aluBody_keeps
    | with_reducible apply issue_keeps

theorem execOr_keeps {s0 : State} (i : Issue) (s : State) (h0 : Keeps s0 s) :
    OutKeeps s0 (execOr i s) := by
  unfold execOr
  repeat' first
    | with_reducible assumption
    | with_reducible apply aluBody_keeps
    | with_reducible apply issue_keeps

theorem execXor_keeps {s0 : State} (i : Issue) (s : State) (h0 : Keeps s0 s) :
    OutKeeps s0 (execXor i s) := by
  unfold execXor
  repeat' first
    | with_reducible assumption
    | with_reducible apply aluBody_keeps
    | with_reducible apply issue_keeps

theorem execShl_keeps {s0 : State} (i : Issue) (s : State) (h0 : Keeps s0 s) :
    OutKeeps s0 (execShl i s) := by
  unfold execShl
  repeat' first
    | with_reducible assumption
    | with_reducible apply aluBody_keeps
    | with_reducible apply issue_keeps

theorem execShr_keeps {s0 : State} (i : Issue) (s : State) (h0 : Keeps s0 s) :
    OutKeeps s0 (execShr i s) := by
  unfold execShr
  repeat' first
    | with_reducible assumption
    | with_reducible apply aluBody_keeps
    | with_reducible apply issue_keeps

theorem execSra_keeps {s0 : State} (i : Issue) (s : State) (h0 : Keeps s0 s) :
    OutKeeps s0 (execSra i s) := by
  unfold execSra
  repeat' first
    | with_reducible assumption
    | with_reducible apply aluBody_keeps
    | with_reducible apply issue_keeps

theorem execMin_keeps {s0 : State} (i : Issue) (s : State) (h0 : Keeps s0 s) :
    OutKeeps s0 (execMin i s) := by
  unfold execMin
  repeat' first
    | with_reducible assumption
    | with_reducible apply aluBody_keeps
    | with_reducible apply issue_keeps

theorem execMax_keeps {s0 : State} (i : Issue) (s : State) (h0 : Keeps s0 s) :
    OutKeeps s0 (execMax i s) := by
  unfold execMax
  repeat' first
    | with_reducible assumption
    | with_reducible apply aluBody_keeps
    | with_reducible apply issue_keeps

theorem movBody_keeps {s0 : State} (x : Cx) (s : State) (h0 : Keeps s0 s) :
    ChkKeeps s0 (movBody x s) := by
  unfold movBody
  repeat' first
    | with_reducible assumption
    | with_reducible apply Cx.putS_keeps
    | with_reducible exact Keeps.mk' (by assumption) rfl rfl rfl
    | with_reducible apply ChkKeeps.retire

theorem execMov_keeps {s0 : State} (i : Issue) (s : State) (h0 : Keeps s0 s) :
    OutKeeps s0 (execMov i s) := by
  unfold execMov
  repeat' first
    | with_reducible assumption
    | with_reducible apply movBody_keeps
    | with_reducible apply issue_keeps

theorem ldiBody_keeps {s0 : State} (x : Cx) (s : State) (h0 : Keeps s0 s) :
    ChkKeeps s0 (ldiBody x s) := by
  unfold ldiBody
  repeat' first
    | with_reducible assumption
    | with_reducible apply Cx.putS_keeps
    | with_reducible exact Keeps.mk' (by assumption) rfl rfl rfl
    | with_reducible apply ChkKeeps.retire

theorem execLdi_keeps {s0 : State} (i : Issue) (s : State) (h0 : Keeps s0 s) :
    OutKeeps s0 (execLdi i s) := by
  unfold execLdi
  repeat' first
    | with_reducible assumption
    | with_reducible apply ldiBody_keeps
    | with_reducible apply issue_keeps

theorem Cx.putP_keeps {s0 : State} (x : Cx) (s : State) (v : Bool) (poisoned : Bool) (h0 : Keeps s0 s) :
    Keeps s0 (Cx.putP x s v poisoned) := by
  unfold Cx.putP
  repeat' first
    | with_reducible assumption
    | with_reducible apply State.modTask_keeps

theorem cmpBody_keeps {s0 : State} (f : Nat → Nat → Bool) (x : Cx) (s : State) (h0 : Keeps s0 s) :
    ChkKeeps s0 (cmpBody f x s) := by
  unfold cmpBody
  repeat' first
    | with_reducible assumption
    | with_reducible apply Cx.putP_keeps
    | with_reducible exact Keeps.mk' (by assumption) rfl rfl rfl
    | with_reducible apply ChkKeeps.retire

theorem execCmpEq_keeps {s0 : State} (i : Issue) (s : State) (h0 : Keeps s0 s) :
    OutKeeps s0 (execCmpEq i s) := by
  unfold execCmpEq
  repeat' first
    | with_reducible assumption
    | with_reducible apply cmpBody_keeps
    | with_reducible apply issue_keeps

theorem execCmpLt_keeps {s0 : State} (i : Issue) (s : State) (h0 : Keeps s0 s) :
    OutKeeps s0 (execCmpLt i s) := by
  unfold execCmpLt
  repeat' first
    | with_reducible assumption
    | with_reducible apply cmpBody_keeps
    | with_reducible apply issue_keeps

theorem execCmpLtu_keeps {s0 : State} (i : Issue) (s : State) (h0 : Keeps s0 s) :
    OutKeeps s0 (execCmpLtu i s) := by
  unfold execCmpLtu
  repeat' first
    | with_reducible assumption
    | with_reducible apply cmpBody_keeps
    | with_reducible apply issue_keeps

theorem predBody_keeps {s0 : State} (f : Bool → Bool → Bool) (x : Cx) (s : State) (h0 : Keeps s0 s) :
    ChkKeeps s0 (predBody f x s) := by
  unfold predBody
  repeat' first
    | with_reducible assumption
    | with_reducible apply Cx.putP_keeps
    | with_reducible exact Keeps.mk' (by assumption) rfl rfl rfl
    | with_reducible apply ChkKeeps.retire

theorem execPand_keeps {s0 : State} (i : Issue) (s : State) (h0 : Keeps s0 s) :
    OutKeeps s0 (execPand i s) := by
  unfold execPand
  repeat' first
    | with_reducible assumption
    | with_reducible apply predBody_keeps
    | with_reducible apply issue_keeps

theorem execPor_keeps {s0 : State} (i : Issue) (s : State) (h0 : Keeps s0 s) :
    OutKeeps s0 (execPor i s) := by
  unfold execPor
  repeat' first
    | with_reducible assumption
    | with_reducible apply predBody_keeps
    | with_reducible apply issue_keeps

theorem execPxor_keeps {s0 : State} (i : Issue) (s : State) (h0 : Keeps s0 s) :
    OutKeeps s0 (execPxor i s) := by
  unfold execPxor
  repeat' first
    | with_reducible assumption
    | with_reducible apply predBody_keeps
    | with_reducible apply issue_keeps

theorem brBody_keeps {s0 : State} (x : Cx) (s : State) (h0 : Keeps s0 s) :
    ChkKeeps s0 (brBody x s) := by
  unfold brBody
  repeat' first
    | with_reducible assumption
    | with_reducible exact Keeps.mk' (by assumption) rfl rfl rfl
    | with_reducible apply ChkKeeps.retire
    | with_reducible apply ChkKeeps.jump
    | with_reducible apply ChkKeeps.stay
    | with_reducible apply ChkKeeps.error
    | (with_reducible refine ChkKeeps.bind (fun _ => ?_))
    | split

theorem execBr_keeps {s0 : State} (i : Issue) (s : State) (h0 : Keeps s0 s) :
    OutKeeps s0 (execBr i s) := by
  unfold execBr
  repeat' first
    | with_reducible assumption
    | with_reducible apply brBody_keeps
    | with_reducible apply issue_keeps

theorem State.useStaged_keeps {s0 : State} (s : State) (core : Nat) (slot : Nat) (c : Nat) (tiles : List (Nat × Bool)) (h0 : Keeps s0 s) :
    Keeps s0 (State.useStaged s core slot c tiles) := by
  unfold State.useStaged
  repeat' first
    | with_reducible assumption
    | with_reducible apply State.setPool_keeps
    | with_reducible exact Keeps.mk' (by assumption) rfl rfl rfl
    | split

theorem ldSBody_keeps {s0 : State} (x : Cx) (s : State) (h0 : Keeps s0 s) :
    ChkKeeps s0 (ldSBody x s) := by
  unfold ldSBody
  repeat' first
    | with_reducible assumption
    | with_reducible apply State.useStaged_keeps
    | with_reducible apply Cx.putS_keeps
    | with_reducible exact Keeps.mk' (by assumption) rfl rfl rfl
    | with_reducible apply ChkKeeps.retire
    | with_reducible apply ChkKeeps.jump
    | with_reducible apply ChkKeeps.stay
    | with_reducible apply ChkKeeps.error
    | (with_reducible refine ChkKeeps.bind (fun _ => ?_))

theorem execLdS_keeps {s0 : State} (i : Issue) (s : State) (h0 : Keeps s0 s) :
    OutKeeps s0 (execLdS i s) := by
  unfold execLdS
  repeat' first
    | with_reducible assumption
    | with_reducible apply ldSBody_keeps
    | with_reducible apply issue_keeps

theorem stSBody_keeps {s0 : State} (x : Cx) (s : State) (h0 : Keeps s0 s) :
    ChkKeeps s0 (stSBody x s) := by
  unfold stSBody
  repeat' first
    | with_reducible assumption
    | with_reducible apply State.twrite_keeps
    | with_reducible exact Keeps.mk' (by assumption) rfl rfl rfl
    | with_reducible apply ChkKeeps.retire
    | with_reducible apply ChkKeeps.jump
    | with_reducible apply ChkKeeps.stay
    | with_reducible apply ChkKeeps.error
    | (with_reducible refine ChkKeeps.bind (fun _ => ?_))

theorem execStS_keeps {s0 : State} (i : Issue) (s : State) (h0 : Keeps s0 s) :
    OutKeeps s0 (execStS i s) := by
  unfold execStS
  repeat' first
    | with_reducible assumption
    | with_reducible apply stSBody_keeps
    | with_reducible apply issue_keeps

theorem execUndefOp_keeps {s0 : State} (core : CoreId) (slot : SlotId) (words : BitVec 128) (s : State) (h0 : Keeps s0 s) :
    OutKeeps s0 (execUndefOp core slot words s) := by
  unfold execUndefOp
  apply OutKeeps.next
  split
  · exact h0
  · exact (issueRaw_keeps _ _ _ _ _ _ (fun _ _ _ => ChkKeeps.error) h0)

theorem execBadPc_keeps {s0 : State} (core : CoreId) (slot : SlotId) (word : BitVec 64) (s : State) (h0 : Keeps s0 s) :
    OutKeeps s0 (execBadPc core slot word s) := by
  unfold execBadPc
  apply OutKeeps.next
  split
  · split
    · exact issueRaw_keeps _ _ _ _ _ _ (fun _ _ _ => ChkKeeps.error) h0
    · exact h0
  · exact h0

end Sys2Proof.Machine
end

