-- ==== Sys2Proof/Laws/KeepsOperands.lean ====
section
/-!
SUPPORT. Every function of Machine/Operands.lean keeps the queue and the canonical forms.
-/
namespace Sys2Proof.Machine
open Sys2Proof

theorem State.writeBits_keeps {s0 : State} (s : State) (c : Nat) (a : Nat) (bit : Nat) (w : Nat) (codes : List (Nat × Bool)) (h0 : Keeps s0 s) :
    Keeps s0 (State.writeBits s c a bit w codes) := by
  unfold State.writeBits
  repeat' first
    | with_reducible assumption
    | with_reducible apply State.twrite_keeps

theorem State.putElem_keeps {s0 : State} (s : State) (x : Cx) (o : Opnd) (idx : Nat) (code : Nat × Bool) (h0 : Keeps s0 s) :
    Keeps s0 (State.putElem s x o idx code) := by
  unfold State.putElem
  repeat' first
    | with_reducible assumption
    | with_reducible apply State.writeBits_keeps

theorem Opnd.writeTile_keeps {s0 : State} (o : Opnd) (c : Nat) (a : Nat) (b : Nat) (rows : List (List (Nat × Bool))) (s : State) (h0 : Keeps s0 s) :
    Keeps s0 (Opnd.writeTile o c a b rows s) := by
  unfold Opnd.writeTile
  repeat' first
    | with_reducible assumption
    | with_reducible apply State.writeBits_keeps
    | with_reducible exact Keeps.mk' (by assumption) rfl rfl rfl
    | (with_reducible refine Keeps.foldl (fun _ _ _ => ?_) _ ?_)
    | (with_reducible refine Keeps.foldlFst (fun _ _ _ => ?_) _ ?_)
    | split

theorem State.pokes_keeps {s0 : State} (s : State) (c : Nat) (l : List Poke) (h0 : Keeps s0 s) :
    Keeps s0 (State.pokes s c l) := by
  unfold State.pokes
  repeat' first
    | with_reducible assumption
    | with_reducible apply State.twrite_keeps
    | with_reducible exact Keeps.mk' (by assumption) rfl rfl rfl
    | (with_reducible refine Keeps.foldl (fun _ _ _ => ?_) _ ?_)

end Sys2Proof.Machine
end

