-- ==== Sys2Proof/Laws/KeepsLinks.lean ====
section
/-!
SUPPORT. Every function of Machine/Links.lean keeps the queue and the canonical forms.
-/
namespace Sys2Proof.Machine
open Sys2Proof

theorem State.modEp_keeps {s0 : State} (s : State) (k : Nat) (f : Endpoint → Endpoint) (h0 : Keeps s0 s) :
    Keeps s0 (State.modEp s k f) := by
  unfold State.modEp
  repeat' first
    | with_reducible assumption
    | with_reducible apply State.setEp_keeps
    | with_reducible exact Keeps.mk' (by assumption) rfl rfl rfl
    | split

theorem State.putGroups_keeps {s0 : State} (s : State) (gs : List Group) (h0 : Keeps s0 s) :
    Keeps s0 (State.putGroups s gs) := by
  unfold State.putGroups
  repeat' first
    | with_reducible assumption
    | with_reducible exact Keeps.mk' (by assumption) rfl rfl rfl

theorem State.sendGroups_keeps {s0 : State} (s : State) (k : Nat) (n : Nat) (int32 : Bool) (ts : Option (List (List Byte × List Nat))) (h0 : Keeps s0 s) :
    Keeps s0 (State.sendGroups s k n int32 ts) := by
  unfold State.sendGroups
  repeat' first
    | with_reducible assumption
    | with_reducible apply State.modEp_keeps
    | with_reducible apply State.netUnreach_keeps
    | with_reducible apply State.putGroups_keeps
    | with_reducible apply State.streamLost_keeps
    | with_reducible exact Keeps.mk' (by assumption) rfl rfl rfl
    | (fail_if_no_progress extract_lets +onlyGivenNames x)
    | split
    | (with_reducible refine Keeps.ofFst (by with_reducible assumption) ?_)
    | (with_reducible refine Keeps.ofOpt (by with_reducible assumption) ?_)
    | (with_reducible refine Keeps.ofSnd (by with_reducible assumption) ?_)
    | intro _
    | (fail_if_no_progress with_reducible apply Keeps.mkOf)

theorem State.send_keeps {s0 : State} (s : State) (k : Nat) (int32 : Bool) (ts : List (List Byte × List Nat)) (h0 : Keeps s0 s) :
    Keeps s0 (State.send s k int32 ts) := by
  unfold State.send
  repeat' first
    | with_reducible assumption
    | with_reducible apply State.sendGroups_keeps

theorem State.giveCredit_keeps {s0 : State} (s : State) (k : Nat) (i : Nat) (n : Nat) (h0 : Keeps s0 s) :
    Keeps s0 (State.giveCredit s k i n) := by
  unfold State.giveCredit
  repeat' first
    | with_reducible assumption
    | with_reducible exact Keeps.mk' (by assumption) rfl rfl rfl
    | split

theorem State.giveChained_keeps {s0 : State} (s : State) (k : Nat) (h0 : Keeps s0 s) :
    Keeps s0 (State.giveChained s k) := by
  unfold State.giveChained
  repeat' first
    | with_reducible assumption
    | with_reducible apply State.giveCredit_keeps
    | with_reducible apply State.modEp_keeps
    | with_reducible exact Keeps.mk' (by assumption) rfl rfl rfl
    | (intro x; clear_value x)
    | split
    | (with_reducible refine Keeps.ofFst (by with_reducible assumption) ?_)
    | (with_reducible refine Keeps.ofOpt (by with_reducible assumption) ?_)
    | (with_reducible refine Keeps.ofSnd (by with_reducible assumption) ?_)
    | lift_lets

theorem State.release_keeps {s0 : State} (s : State) (k : Nat) (n : Nat) (h0 : Keeps s0 s) :
    Keeps s0 (State.release s k n) := by
  unfold State.release
  repeat' first
    | with_reducible assumption
    | with_reducible apply State.giveChained_keeps
    | with_reducible apply State.giveCredit_keeps
    | with_reducible apply State.modEp_keeps
    | with_reducible exact Keeps.mk' (by assumption) rfl rfl rfl
    | (intro x; refine Keeps.have_ (Q := Keeps s0 x) ?q ?h; (case' q => subst x); (case' h => (intro hx; clear_value x)))
    | (intro x; clear_value x)
    | split
    | lift_lets

theorem State.takeTiles_keeps {s0 : State} (s : State) (k : Nat) (n : Nat) (h0 : Keeps s0 s) :
    Keeps s0 (State.takeTiles s k n) := by
  unfold State.takeTiles
  repeat' first
    | with_reducible assumption
    | with_reducible apply State.modEp_keeps

theorem State.slotFlags_keeps {s0 : State} (s : State) (core : Nat) (slot : Nat) (f : Flags) (h0 : Keeps s0 s) :
    Keeps s0 (State.slotFlags s core slot f) := by
  unfold State.slotFlags
  repeat' first
    | with_reducible assumption
    | with_reducible apply State.modTask_keeps

theorem State.settle_keeps {s0 : State} (s : State) (k : Nat) (h0 : Keeps s0 s) :
    Keeps s0 (State.settle s k) := by
  unfold State.settle
  repeat' first
    | with_reducible assumption
    | with_reducible apply State.modEp_keeps
    | with_reducible apply State.release_keeps
    | with_reducible apply State.slotFlags_keeps
    | with_reducible exact Keeps.mk' (by assumption) rfl rfl rfl
    | (with_reducible refine Keeps.foldl (fun _ _ _ => ?_) _ ?_)

theorem State.finishLinks_keeps {s0 : State} (s : State) (ls : List Link) (h0 : Keeps s0 s) :
    Keeps s0 (State.finishLinks s ls) := by
  unfold State.finishLinks
  repeat' first
    | with_reducible assumption
    | with_reducible apply State.takeTiles_keeps
    | with_reducible apply State.release_keeps
    | with_reducible apply State.modEp_keeps
    | with_reducible exact Keeps.mk' (by assumption) rfl rfl rfl
    | (with_reducible refine Keeps.foldl (fun _ _ _ => ?_) _ ?_)
    | (with_reducible refine Keeps.foldlFst (fun _ _ _ => ?_) _ ?_)
    | split

theorem Cx.raiseFlags_keeps {s0 : State} (x : Cx) (s : State) (ls : List Link) (f : Flags) (h0 : Keeps s0 s) :
    Keeps s0 (Cx.raiseFlags x s ls f) := by
  unfold Cx.raiseFlags
  repeat' first
    | with_reducible assumption
    | with_reducible apply Cx.putFlags_keeps
    | with_reducible apply State.modEp_keeps
    | with_reducible exact Keeps.mk' (by assumption) rfl rfl rfl
    | split

theorem State.putTiles_keeps {s0 : State} (s : State) (x : Cx) (o : Opnd) (out : Option Nat) (codes : List (List (Nat × Bool))) (h0 : Keeps s0 s) :
    Keeps s0 (State.putTiles s x o out codes) := by
  unfold State.putTiles
  repeat' first
    | with_reducible assumption
    | with_reducible apply State.send_keeps
    | with_reducible apply Opnd.writeTile_keeps
    | with_reducible exact Keeps.mk' (by assumption) rfl rfl rfl
    | (with_reducible refine Keeps.foldl (fun _ _ _ => ?_) _ ?_)
    | (with_reducible refine Keeps.foldlFst (fun _ _ _ => ?_) _ ?_)
    | split

theorem Cx.emit_keeps {s0 : State} (x : Cx) (s : State) (o : Opnd) (out : Option Nat) (src : Option Fmt) (rows : List (List Elem)) (h0 : Keeps s0 s) :
    Keeps s0 (Cx.emit x s o out src rows).1 := by
  unfold Cx.emit
  repeat' first
    | with_reducible assumption
    | with_reducible apply State.pokes_keeps
    | with_reducible apply State.putTiles_keeps

end Sys2Proof.Machine
end

