-- ==== Sys2Proof/Laws/KeepsMatrix.lean ====
section
/-!
SUPPORT. Every function of Machine/Matrix.lean keeps the queue and the canonical forms.
-/
namespace Sys2Proof.Machine
open Sys2Proof

theorem Cx.putAcc_keeps {s0 : State} (x : Cx) (s : State) (i : Nat) (lanes : List Word32) (pz : Nat → Bool)
    (h0 : Keeps s0 s) : Keeps s0 (Cx.putAcc x s i lanes pz) :=
  Keeps.mkMem h0 rfl rfl (Memory.store_wf _ _ _ _)

theorem Cx.putResult_keeps {s0 : State} (x : Cx) (s : State) (acc : Nat) (m : Nat) (n : Nat) (wide : Bool) (rows : List (List Elem)) (h0 : Keeps s0 s) :
    Keeps s0 (Cx.putResult x s acc m n wide rows) := by
  unfold Cx.putResult
  repeat' first
    | with_reducible assumption
    | with_reducible apply Cx.putAcc_keeps
    | with_reducible exact Keeps.mk' (by assumption) rfl rfl rfl
    | (with_reducible refine Keeps.foldl (fun _ _ _ => ?_) _ ?_)
    | (with_reducible refine Keeps.foldlFst (fun _ _ _ => ?_) _ ?_)
    | split

theorem Cx.mmaFinish_keeps {s0 : State} (x : Cx) (s : State) (ls : List Link) (m : Nat) (n : Nat) (r : List (List Elem) × Flags) (blocks : List FragBlock) (h0 : Keeps s0 s) :
    Keeps s0 (Cx.mmaFinish x s ls m n r blocks) := by
  unfold Cx.mmaFinish
  repeat' first
    | with_reducible assumption
    | with_reducible apply Cx.emit_keeps
    | with_reducible apply Cx.putResult_keeps
    | with_reducible apply Cx.raiseFlags_keeps
    | with_reducible apply State.chargeArrays_keeps
    | with_reducible apply State.emit_keeps
    | with_reducible apply State.finishLinks_keeps
    | with_reducible exact Keeps.mk' (by assumption) rfl rfl rfl
    | split

theorem mmaRun_keeps {s0 : State} (x : Cx) (s : State) (ls : List Link) (h0 : Keeps s0 s) :
    Keeps s0 (mmaRun x s ls) := by
  unfold mmaRun
  repeat' first
    | with_reducible assumption
    | with_reducible apply Cx.mmaFinish_keeps
    | with_reducible apply State.useStaged_keeps

theorem mmaBody_keeps {s0 : State} (x : Cx) (s : State) (h0 : Keeps s0 s) :
    ChkKeeps s0 (mmaBody x s) := by
  unfold mmaBody
  repeat' first
    | with_reducible assumption
    | with_reducible apply mmaRun_keeps
    | with_reducible exact Keeps.mk' (by assumption) rfl rfl rfl
    | with_reducible apply ChkKeeps.retire
    | with_reducible apply ChkKeeps.jump
    | with_reducible apply ChkKeeps.stay
    | with_reducible apply ChkKeeps.error
    | (with_reducible refine ChkKeeps.bind (fun _ => ?_))

theorem execMma_keeps {s0 : State} (i : Issue) (s : State) (h0 : Keeps s0 s) :
    OutKeeps s0 (execMma i s) := by
  unfold execMma
  repeat' first
    | with_reducible assumption
    | with_reducible apply mmaBody_keeps
    | with_reducible apply issue_keeps

theorem mmaCsrRun_keeps {s0 : State} (x : Cx) (s : State) (ls : List Link) (h0 : Keeps s0 s) :
    Keeps s0 (mmaCsrRun x s ls) := by
  unfold mmaCsrRun
  repeat' first
    | with_reducible assumption
    | with_reducible apply Cx.mmaFinish_keeps
    | with_reducible apply State.useStaged_keeps

theorem mmaCsrBody_keeps {s0 : State} (x : Cx) (s : State) (h0 : Keeps s0 s) :
    ChkKeeps s0 (mmaCsrBody x s) := by
  unfold mmaCsrBody
  repeat' first
    | with_reducible assumption
    | with_reducible apply mmaCsrRun_keeps
    | with_reducible exact Keeps.mk' (by assumption) rfl rfl rfl
    | with_reducible apply ChkKeeps.retire
    | with_reducible apply ChkKeeps.jump
    | with_reducible apply ChkKeeps.stay
    | with_reducible apply ChkKeeps.error
    | (with_reducible refine ChkKeeps.bind (fun _ => ?_))

theorem execMmaCsr_keeps {s0 : State} (i : Issue) (s : State) (h0 : Keeps s0 s) :
    OutKeeps s0 (execMmaCsr i s) := by
  unfold execMmaCsr
  repeat' first
    | with_reducible assumption
    | with_reducible apply mmaCsrBody_keeps
    | with_reducible apply issue_keeps

theorem accOutRun_keeps {s0 : State} (x : Cx) (s : State) (ls : List Link) (h0 : Keeps s0 s) :
    Keeps s0 (accOutRun x s ls) := by
  unfold accOutRun
  repeat' first
    | with_reducible assumption
    | with_reducible apply Cx.emit_keeps
    | with_reducible apply Cx.raiseFlags_keeps
    | with_reducible apply State.emit_keeps
    | with_reducible apply State.finishLinks_keeps

theorem accOutBody_keeps {s0 : State} (x : Cx) (s : State) (h0 : Keeps s0 s) :
    ChkKeeps s0 (accOutBody x s) := by
  unfold accOutBody
  repeat' first
    | with_reducible assumption
    | with_reducible apply accOutRun_keeps
    | with_reducible exact Keeps.mk' (by assumption) rfl rfl rfl
    | with_reducible apply ChkKeeps.retire
    | with_reducible apply ChkKeeps.jump
    | with_reducible apply ChkKeeps.stay
    | with_reducible apply ChkKeeps.error
    | (with_reducible refine ChkKeeps.bind (fun _ => ?_))

theorem execAccOut_keeps {s0 : State} (i : Issue) (s : State) (h0 : Keeps s0 s) :
    OutKeeps s0 (execAccOut i s) := by
  unfold execAccOut
  repeat' first
    | with_reducible assumption
    | with_reducible apply accOutBody_keeps
    | with_reducible apply issue_keeps

theorem cvtRun_keeps {s0 : State} (x : Cx) (s : State) (ls : List Link) (h0 : Keeps s0 s) :
    Keeps s0 (cvtRun x s ls) := by
  unfold cvtRun
  repeat' first
    | with_reducible assumption
    | with_reducible apply Cx.emit_keeps
    | with_reducible apply Cx.raiseFlags_keeps
    | with_reducible apply State.emit_keeps
    | with_reducible apply State.finishLinks_keeps
    | with_reducible apply State.useStaged_keeps

theorem cvtBody_keeps {s0 : State} (x : Cx) (s : State) (h0 : Keeps s0 s) :
    ChkKeeps s0 (cvtBody x s) := by
  unfold cvtBody
  repeat' first
    | with_reducible assumption
    | with_reducible apply cvtRun_keeps
    | with_reducible exact Keeps.mk' (by assumption) rfl rfl rfl
    | with_reducible apply ChkKeeps.retire
    | with_reducible apply ChkKeeps.jump
    | with_reducible apply ChkKeeps.stay
    | with_reducible apply ChkKeeps.error
    | (with_reducible refine ChkKeeps.bind (fun _ => ?_))

theorem execCvt_keeps {s0 : State} (i : Issue) (s : State) (h0 : Keeps s0 s) :
    OutKeeps s0 (execCvt i s) := by
  unfold execCvt
  repeat' first
    | with_reducible assumption
    | with_reducible apply cvtBody_keeps
    | with_reducible apply issue_keeps

end Sys2Proof.Machine
end

