-- ==== Sys2Proof/Laws/KeepsTime.lean ====
section
/-!
SUPPORT. Every function of Machine/Time.lean keeps the queue and the canonical forms.
-/
namespace Sys2Proof.Machine
open Sys2Proof

theorem State.timReport_keeps {s0 : State} (s : State) (h0 : Keeps s0 s) :
    Keeps s0 (State.timReport s) := by
  unfold State.timReport
  repeat' first
    | with_reducible assumption
    | with_reducible apply State.put_keeps

theorem State.timEnter_keeps {s0 : State} (s : State) (new : Nat) (h0 : Keeps s0 s) :
    Keeps s0 (State.timEnter s new) := by
  unfold State.timEnter
  repeat' first
    | with_reducible assumption
    | with_reducible apply State.timReport_keeps
    | with_reducible apply State.raiseMod_keeps
    | with_reducible exact Keeps.mk' (by assumption) rfl rfl rfl
    | (intro x; refine Keeps.have_ (Q := Keeps s0 x) ?q ?h; (case' q => subst x); (case' h => intro hx))
    | (intro x; skip)
    | split
    | lift_lets

theorem State.timRefuse_keeps {s0 : State} (s : State) (h0 : Keeps s0 s) :
    Keeps s0 (State.timRefuse s) := by
  unfold State.timRefuse
  repeat' first
    | with_reducible assumption
    | with_reducible apply State.put_keeps

theorem State.refLost_keeps {s0 : State} (s : State) (h0 : Keeps s0 s) :
    Keeps s0 (State.refLost s) := by
  unfold State.refLost
  repeat' first
    | with_reducible assumption
    | with_reducible apply State.raiseMod_keeps
    | with_reducible exact Keeps.mk' (by assumption) rfl rfl rfl

theorem State.timLost_keeps {s0 : State} (s : State) (h0 : Keeps s0 s) :
    Keeps s0 (State.timLost s) := by
  unfold State.timLost
  repeat' first
    | with_reducible assumption
    | with_reducible apply State.timEnter_keeps
    | with_reducible exact Keeps.mk' (by assumption) rfl rfl rfl
    | (intro x; refine Keeps.have_ (Q := Keeps s0 x) ?q ?h; (case' q => subst x); (case' h => (intro hx; clear_value x)))
    | (intro x; clear_value x)
    | split
    | lift_lets

theorem State.timDone_keeps {s0 : State} (s : State) (h0 : Keeps s0 s) :
    Keeps s0 (State.timDone s) := by
  unfold State.timDone
  repeat' first
    | with_reducible assumption
    | with_reducible apply State.hold_keeps
    | with_reducible apply State.timEnter_keeps
    | with_reducible exact Keeps.mk' (by assumption) rfl rfl rfl
    | split

theorem State.timCorrect_keeps {s0 : State} (s : State) (off : Int) (h0 : Keeps s0 s) :
    Keeps s0 (State.timCorrect s off) := by
  unfold State.timCorrect
  repeat' first
    | with_reducible assumption
    | with_reducible apply State.hold_keeps
    | with_reducible apply State.timDone_keeps
    | with_reducible apply State.timEnter_keeps
    | with_reducible apply State.timRefuse_keeps
    | with_reducible exact Keeps.mk' (by assumption) rfl rfl rfl
    | (extract_lets +onlyGivenNames x; refine Keeps.have_ (Q := Keeps s0 x) ?q ?h; (case' q => subst x); (case' h => intro hx))
    | (fail_if_no_progress extract_lets +onlyGivenNames x)
    | split

theorem State.timBack_keeps {s0 : State} (s : State) (h0 : Keeps s0 s) :
    Keeps s0 (State.timBack s) := by
  unfold State.timBack
  repeat' first
    | with_reducible assumption
    | with_reducible apply State.refLost_keeps
    | with_reducible apply State.timEnter_keeps
    | with_reducible exact Keeps.mk' (by assumption) rfl rfl rfl
    | split

theorem State.timExchange_keeps {s0 : State} (s : State) (off : Int) (delay : Int) (h0 : Keeps s0 s) :
    Keeps s0 (State.timExchange s off delay) := by
  unfold State.timExchange
  repeat' first
    | with_reducible assumption
    | with_reducible apply State.timCorrect_keeps
    | with_reducible apply State.put_keeps
    | with_reducible exact Keeps.mk' (by assumption) rfl rfl rfl
    | (extract_lets +onlyGivenNames x; refine Keeps.have_ (Q := Keeps s0 x) ?q ?h; (case' q => subst x); (case' h => intro hx))
    | (fail_if_no_progress extract_lets +onlyGivenNames x)
    | split
    | (fail_if_no_progress with_reducible apply Keeps.mkOf)

theorem State.acquire_keeps {s0 : State} (s : State) (h0 : Keeps s0 s) :
    Keeps s0 (State.acquire s) := by
  unfold State.acquire
  repeat' first
    | with_reducible assumption
    | with_reducible apply State.timRefuse_keeps
    | with_reducible apply State.timEnter_keeps
    | with_reducible exact Keeps.mk' (by assumption) rfl rfl rfl
    | (extract_lets +onlyGivenNames x; refine Keeps.have_ (Q := Keeps s0 x) ?q ?h; (case' q => subst x); (case' h => intro hx))
    | (fail_if_no_progress extract_lets +onlyGivenNames x)
    | split

theorem State.vcoreMove_keeps {s0 : State} (s : State) (goal : Nat) (h0 : Keeps s0 s) :
    Keeps s0 (State.vcoreMove s goal) := by
  unfold State.vcoreMove
  repeat' first
    | with_reducible assumption
    | with_reducible exact Keeps.mk' (by assumption) rfl rfl rfl
    | intro _

theorem State.vcoreStart_keeps {s0 : State} (s : State) (r : Nat) (h0 : Keeps s0 s) :
    Keeps s0 (State.vcoreStart s r) := by
  unfold State.vcoreStart
  repeat' first
    | with_reducible assumption
    | with_reducible apply State.put_keeps
    | with_reducible exact Keeps.mk' (by assumption) rfl rfl rfl
    | split

theorem State.armDiv_keeps {s0 : State} (s : State) (h0 : Keeps s0 s) :
    Keeps s0 (State.armDiv s) := by
  unfold State.armDiv
  repeat' first
    | with_reducible assumption
    | with_reducible apply State.put_keeps
    | with_reducible apply State.raiseMod_keeps
    | with_reducible apply State.vcoreMove_keeps
    | with_reducible exact Keeps.mk' (by assumption) rfl rfl rfl
    | (intro x; refine Keeps.have_ (Q := Keeps s0 x) ?q ?h; (case' q => subst x); (case' h => (intro hx; clear_value x)))
    | (intro x; clear_value x)
    | split
    | lift_lets

theorem State.timCtrl_keeps {s0 : State} (s : State) (req : Requester) (v : Nat) (h0 : Keeps s0 s) :
    Keeps s0 (State.timCtrl s req v) := by
  unfold State.timCtrl
  extract_lets armed old s1 s2 s3 src s4 s5 s6
  have h1 : Keeps s0 s1 := by
    subst s1
    split
    · exact State.misuse_keeps _ _ h0
    · exact h0
  have h2 : Keeps s0 s2 := by
    subst s2
    split
    · exact h1
    · exact State.put_keeps _ _ _ h1
  have h3 : Keeps s0 s3 := State.put_keeps _ _ _ (State.put_keeps _ _ _ (State.put_keeps _ _ _ h2))
  have h4 : Keeps s0 s4 := by
    subst s4
    split
    · exact h3
    split
    · exact State.refLost_keeps _ h3
    · exact Keeps.mkOf h3
  have h5 : Keeps s0 s5 := State.timReport_keeps _ h4
  have h6 : Keeps s0 s6 := by
    subst s6
    split
    · exact State.armDiv_keeps _ h5
    · exact h5
  split
  · exact State.acquire_keeps _ h6
  · exact h6

theorem execTimAcquire_keeps {s0 : State} (req : Requester) (v : BitVec 32) (s : State) (h0 : Keeps s0 s) :
    OutKeeps s0 (execTimAcquire req v s) := by
  unfold execTimAcquire
  repeat' first
    | with_reducible assumption
    | with_reducible apply State.timCtrl_keeps
    | with_reducible apply State.write_keeps
    | with_reducible exact Keeps.mk' (by assumption) rfl rfl rfl
    | with_reducible apply OutKeeps.next
    | with_reducible apply OutKeeps.fault
    | split
    | with_reducible apply_assumption
    | intro _

theorem execTimDivArm_keeps {s0 : State} (req : Requester) (v : BitVec 32) (s : State) (h0 : Keeps s0 s) :
    OutKeeps s0 (execTimDivArm req v s) := by
  unfold execTimDivArm
  repeat' first
    | with_reducible assumption
    | with_reducible apply State.timCtrl_keeps
    | with_reducible apply State.write_keeps
    | with_reducible exact Keeps.mk' (by assumption) rfl rfl rfl
    | with_reducible apply OutKeeps.next
    | with_reducible apply OutKeeps.fault
    | split
    | with_reducible apply_assumption
    | intro _

theorem State.timDivTickWrite_keeps {s0 : State} (s : State) (req : Requester) (v : Nat) (h0 : Keeps s0 s) :
    Keeps s0 (State.timDivTickWrite s req v) := by
  unfold State.timDivTickWrite
  repeat' first
    | with_reducible assumption
    | with_reducible apply State.misuse_keeps
    | with_reducible apply State.put64_keeps
    | with_reducible exact Keeps.mk' (by assumption) rfl rfl rfl
    | split

theorem State.divChange_keeps {s0 : State} (s : State) (h0 : Keeps s0 s) :
    Keeps s0 (State.divChange s) := by
  unfold State.divChange
  repeat' first
    | with_reducible assumption
    | with_reducible apply State.put_keeps
    | with_reducible apply State.vcoreMove_keeps
    | with_reducible exact Keeps.mk' (by assumption) rfl rfl rfl
    | (intro x; refine Keeps.have_ (Q := Keeps s0 x) ?q ?h; (case' q => subst x); (case' h => (intro hx; clear_value x)))
    | (intro x; clear_value x)
    | split
    | lift_lets

theorem execDivChange_keeps {s0 : State} (s : State) (h0 : Keeps s0 s) :
    OutKeeps s0 (execDivChange s) := by
  unfold execDivChange
  repeat' first
    | with_reducible assumption
    | with_reducible apply State.clocked_keeps
    | with_reducible apply State.divChange_keeps
    | with_reducible exact Keeps.mk' (by assumption) rfl rfl rfl
    | with_reducible apply OutKeeps.next
    | with_reducible apply OutKeeps.fault

theorem State.refFail_keeps {s0 : State} (s : State) (src : Nat) (h0 : Keeps s0 s) :
    Keeps s0 (State.refFail s src) := by
  unfold State.refFail
  repeat' first
    | with_reducible assumption
    | with_reducible apply State.refLost_keeps
    | with_reducible apply State.timEnter_keeps
    | with_reducible apply State.put_keeps
    | with_reducible exact Keeps.mk' (by assumption) rfl rfl rfl
    | (extract_lets +onlyGivenNames x; refine Keeps.have_ (Q := Keeps s0 x) ?q ?h; (case' q => subst x); (case' h => intro hx))
    | (fail_if_no_progress extract_lets +onlyGivenNames x)
    | split
    | (fail_if_no_progress with_reducible apply Keeps.mkOf)

theorem execRefFail_keeps {s0 : State} (src : Fin 3) (s : State) (h0 : Keeps s0 s) :
    OutKeeps s0 (execRefFail src s) := by
  unfold execRefFail
  repeat' first
    | with_reducible assumption
    | with_reducible apply State.refFail_keeps
    | with_reducible exact Keeps.mk' (by assumption) rfl rfl rfl
    | with_reducible apply OutKeeps.next

theorem State.refReturn_keeps {s0 : State} (s : State) (src : Nat) (h0 : Keeps s0 s) :
    Keeps s0 (State.refReturn s src) := by
  unfold State.refReturn
  repeat' first
    | with_reducible assumption
    | with_reducible apply State.timBack_keeps
    | with_reducible apply State.refLost_keeps
    | with_reducible apply State.put_keeps
    | with_reducible exact Keeps.mk' (by assumption) rfl rfl rfl
    | (intro x; refine Keeps.have_ (Q := Keeps s0 x) ?q ?h; (case' q => subst x); (case' h => intro hx))
    | (intro x; skip)
    | split
    | lift_lets

theorem execRefReturn_keeps {s0 : State} (src : Fin 3) (s : State) (h0 : Keeps s0 s) :
    OutKeeps s0 (execRefReturn src s) := by
  unfold execRefReturn
  repeat' first
    | with_reducible assumption
    | with_reducible apply State.refReturn_keeps
    | with_reducible exact Keeps.mk' (by assumption) rfl rfl rfl
    | with_reducible apply OutKeeps.next

theorem execPllLockLoss_keeps {s0 : State} (s : State) (h0 : Keeps s0 s) :
    OutKeeps s0 (execPllLockLoss s) := by
  unfold execPllLockLoss
  repeat' first
    | with_reducible assumption
    | with_reducible apply State.put_keeps
    | with_reducible exact Keeps.mk' (by assumption) rfl rfl rfl
    | with_reducible apply OutKeeps.next

theorem State.markerLoss_keeps {s0 : State} (s : State) (h0 : Keeps s0 s) :
    Keeps s0 (State.markerLoss s) := by
  unfold State.markerLoss
  repeat' first
    | with_reducible assumption
    | with_reducible apply State.timLost_keeps
    | with_reducible exact Keeps.mk' (by assumption) rfl rfl rfl
    | split

theorem execMarkerLoss_keeps {s0 : State} (s : State) (h0 : Keeps s0 s) :
    OutKeeps s0 (execMarkerLoss s) := by
  unfold execMarkerLoss
  repeat' first
    | with_reducible assumption
    | with_reducible apply State.clocked_keeps
    | with_reducible apply State.markerLoss_keeps
    | with_reducible exact Keeps.mk' (by assumption) rfl rfl rfl
    | with_reducible apply OutKeeps.next
    | with_reducible apply OutKeeps.fault

theorem State.holdoverExpiry_keeps {s0 : State} (s : State) (h0 : Keeps s0 s) :
    Keeps s0 (State.holdoverExpiry s) := by
  unfold State.holdoverExpiry
  repeat' first
    | with_reducible assumption
    | with_reducible apply State.timEnter_keeps
    | with_reducible exact Keeps.mk' (by assumption) rfl rfl rfl
    | split

theorem execHoldoverExpiry_keeps {s0 : State} (s : State) (h0 : Keeps s0 s) :
    OutKeeps s0 (execHoldoverExpiry s) := by
  unfold execHoldoverExpiry
  repeat' first
    | with_reducible assumption
    | with_reducible apply State.clocked_keeps
    | with_reducible apply State.holdoverExpiry_keeps
    | with_reducible exact Keeps.mk' (by assumption) rfl rfl rfl
    | with_reducible apply OutKeeps.next
    | with_reducible apply OutKeeps.fault

theorem State.timDue_keeps {s0 : State} (s : State) (h0 : Keeps s0 s) :
    Keeps s0 (State.timDue s) := by
  unfold State.timDue
  repeat' first
    | with_reducible assumption
    | with_reducible apply State.timExchange_keeps
    | with_reducible exact Keeps.mk' (by assumption) rfl rfl rfl
    | split
    | (with_reducible refine Keeps.ofFst (by with_reducible assumption) ?_)
    | (with_reducible refine Keeps.ofOpt (by with_reducible assumption) ?_)
    | (with_reducible refine Keeps.ofSnd (by with_reducible assumption) ?_)

theorem State.timTick_keeps {s0 : State} (s : State) (h0 : Keeps s0 s) :
    Keeps s0 (State.timTick s) := by
  unfold State.timTick
  repeat' first
    | with_reducible assumption
    | with_reducible apply State.hold_keeps
    | with_reducible apply State.timDone_keeps
    | with_reducible apply State.timDue_keeps
    | with_reducible exact Keeps.mk' (by assumption) rfl rfl rfl
    | (fail_if_no_progress extract_lets +onlyGivenNames x)
    | split
    | (fail_if_no_progress with_reducible apply Keeps.mkOf)

end Sys2Proof.Machine
end

