-- ==== Sys2Proof/Laws/KeepsPort.lean ====
section
/-!
SUPPORT. Every function of Machine/Port.lean keeps the queue and the canonical forms.
-/
namespace Sys2Proof.Machine
open Sys2Proof

theorem State.setPort_keeps {s0 : State} (s : State) (p : Nat) (x : Port) (h0 : Keeps s0 s) :
    Keeps s0 (State.setPort s p x) := by
  unfold State.setPort
  repeat' first
    | with_reducible assumption
    | with_reducible exact Keeps.mk' (by assumption) rfl rfl rfl

theorem State.modPort_keeps {s0 : State} (s : State) (p : Nat) (f : Port → Port) (h0 : Keeps s0 s) :
    Keeps s0 (State.modPort s p f) := by
  unfold State.modPort
  repeat' first
    | with_reducible assumption
    | with_reducible apply State.setPort_keeps

theorem State.portEnter_keeps {s0 : State} (s : State) (p : Nat) (st : Nat) (h0 : Keeps s0 s) :
    Keeps s0 (State.portEnter s p st) := by
  unfold State.portEnter
  repeat' first
    | with_reducible assumption
    | with_reducible apply State.modPort_keeps
    | with_reducible apply State.put_keeps

theorem State.sendFlit_keeps {s0 : State} (s : State) (p : Nat) (i : Nat) (x : Port) (h0 : Keeps s0 s) :
    Keeps s0 (State.sendFlit s p i x) := by
  unfold State.sendFlit
  repeat' first
    | with_reducible assumption
    | with_reducible apply Cx.emit_keeps
    | with_reducible apply State.emit_keeps
    | with_reducible apply State.setPort_keeps
    | with_reducible apply State.wrap64_keeps
    | with_reducible exact Keeps.mk' (by assumption) rfl rfl rfl
    | (intro x; refine Keeps.have_ (Q := Keeps s0 x) ?q ?h; (case' q => subst x); (case' h => (intro hx; clear_value x)))
    | (intro x; clear_value x)
    | split
    | (with_reducible refine Keeps.ofFst (by with_reducible assumption) ?_)
    | (with_reducible refine Keeps.ofOpt (by with_reducible assumption) ?_)
    | (with_reducible refine Keeps.ofSnd (by with_reducible assumption) ?_)
    | lift_lets

theorem State.pumpPort_keeps {s0 : State} (p : Nat) : ∀ (b0 : Nat) (b1 : State), Keeps s0 b1 → Keeps s0 (State.pumpPort p b0 b1) := by
  intro b0
  induction b0 with
  | zero =>
    intros
    unfold State.pumpPort
    repeat' first
      | with_reducible assumption
  | succ n ih =>
    intros
    unfold State.pumpPort
    repeat' first
      | with_reducible assumption
      | with_reducible apply ih
      | with_reducible apply State.sendFlit_keeps
      | with_reducible exact Keeps.mk' (by assumption) rfl rfl rfl
      | split

theorem State.exHeld_keeps {s0 : State} (s : State) (p : Nat) (h0 : Keeps s0 s) :
    Keeps s0 (State.exHeld s p) := by
  unfold State.exHeld
  repeat' first
    | with_reducible assumption
    | with_reducible apply State.bump_keeps
    | with_reducible apply State.modPort_keeps
    | with_reducible exact Keeps.mk' (by assumption) rfl rfl rfl
    | (intro x; refine Keeps.have_ (Q := Keeps s0 x) ?q ?h; (case' q => subst x); (case' h => (intro hx; clear_value x)))
    | (intro x; clear_value x)
    | split
    | (with_reducible refine Keeps.ofFst (by with_reducible assumption) ?_)
    | (with_reducible refine Keeps.ofOpt (by with_reducible assumption) ?_)
    | (with_reducible refine Keeps.ofSnd (by with_reducible assumption) ?_)
    | lift_lets
    | intro _

theorem State.portPump_keeps {s0 : State} (s : State) (p : Nat) (h0 : Keeps s0 s) :
    Keeps s0 (State.portPump s p) := by
  unfold State.portPump
  repeat' first
    | with_reducible assumption
    | with_reducible apply State.pumpPort_keeps

theorem State.queuePacket_keeps {s0 : State} (s : State) (p : Nat) (cls : Nat) (job : Nat) (part : Option Nat) (bs : List Byte) (h0 : Keeps s0 s) :
    Keeps s0 (State.queuePacket s p cls job part bs) := by
  unfold State.queuePacket
  repeat' first
    | with_reducible assumption
    | with_reducible apply State.exHeld_keeps
    | with_reducible apply State.modPort_keeps
    | with_reducible apply State.portPump_keeps
    | with_reducible exact Keeps.mk' (by assumption) rfl rfl rfl
    | (intro x; refine Keeps.have_ (Q := Keeps s0 x) ?q ?h; (case' q => subst x); (case' h => (intro hx; clear_value x)))
    | (intro x; clear_value x)
    | lift_lets
    | intro _

theorem State.sendIdle_keeps {s0 : State} (s : State) (p : Nat) (nak : Bool) (h0 : Keeps s0 s) :
    Keeps s0 (State.sendIdle s p nak) := by
  unfold State.sendIdle
  repeat' first
    | with_reducible assumption
    | with_reducible apply Cx.emit_keeps
    | with_reducible apply State.emit_keeps
    | with_reducible apply State.wrap64_keeps

theorem State.dropDue_keeps {s0 : State} (s : State) (p : Nat) (h0 : Keeps s0 s) :
    Keeps s0 (State.dropDue s p) := by
  unfold State.dropDue
  repeat' first
    | with_reducible assumption
    | with_reducible exact Keeps.mk' (by assumption) rfl rfl rfl
    | split
    | intro _

theorem State.portDown_keeps {s0 : State} (s : State) (p : Nat) (cause : Nat) (st : Nat) (h0 : Keeps s0 s) :
    Keeps s0 (State.portDown s p cause st) := by
  unfold State.portDown
  dsimp only
  repeat' first
    | with_reducible assumption
    | with_reducible apply State.dropDue_keeps
    | with_reducible apply State.modPort_keeps
    | with_reducible apply State.portEnter_keeps
    | with_reducible apply State.raiseMod_keeps
    | with_reducible apply State.timLost_keeps
    | with_reducible exact Keeps.mk' (by assumption) rfl rfl rfl
    | split
    | lift_lets

theorem State.portUp_keeps {s0 : State} (s : State) (p : Nat) (h0 : Keeps s0 s) :
    Keeps s0 (State.portUp s p) := by
  unfold State.portUp
  repeat' first
    | with_reducible assumption
    | with_reducible apply State.portEnter_keeps
    | with_reducible apply State.modPort_keeps
    | with_reducible apply State.raiseMod_keeps

theorem State.startRetrain_keeps {s0 : State} (s : State) (p : Nat) (h0 : Keeps s0 s) :
    Keeps s0 (State.startRetrain s p) := by
  unfold State.startRetrain
  repeat' first
    | with_reducible assumption
    | with_reducible apply State.portEnter_keeps
    | with_reducible apply State.bump_keeps
    | with_reducible exact Keeps.mk' (by assumption) rfl rfl rfl
    | split

theorem State.resend_keeps {s0 : State} (s : State) (p : Nat) (h0 : Keeps s0 s) :
    Keeps s0 (State.resend s p) := by
  unfold State.resend
  repeat' first
    | with_reducible assumption
    | with_reducible apply Cx.emit_keeps
    | with_reducible apply State.emit_keeps
    | with_reducible apply State.wrap64_keeps
    | with_reducible exact Keeps.mk' (by assumption) rfl rfl rfl
    | (with_reducible refine Keeps.foldl (fun _ _ _ => ?_) _ ?_)

theorem State.replay_keeps {s0 : State} (s : State) (p : Nat) (h0 : Keeps s0 s) :
    Keeps s0 (State.replay s p) := by
  unfold State.replay
  repeat' first
    | with_reducible assumption
    | with_reducible apply State.resend_keeps
    | with_reducible apply State.startRetrain_keeps
    | with_reducible apply State.modPort_keeps
    | with_reducible apply State.wrap64_keeps
    | with_reducible exact Keeps.mk' (by assumption) rfl rfl rfl
    | (intro x; refine Keeps.have_ (Q := Keeps s0 x) ?q ?h; (case' q => subst x); (case' h => intro hx))
    | (intro x; skip)
    | split
    | lift_lets

theorem State.flitAcks_keeps {s0 : State} (s : State) (p : Nat) (f : FlitIn) (h0 : Keeps s0 s) :
    Keeps s0 (State.flitAcks s p f) := by
  unfold State.flitAcks
  repeat' first
    | with_reducible assumption
    | with_reducible apply State.modPort_keeps

theorem State.takeData_keeps {s0 : State} (s : State) (p : Nat) (f : FlitIn) (h0 : Keeps s0 s) :
    Keeps s0 (State.takeData s p f) := by
  unfold State.takeData
  repeat' first
    | with_reducible assumption
    | with_reducible apply State.setPort_keeps
    | with_reducible apply State.bump_keeps
    | with_reducible exact Keeps.mk' (by assumption) rfl rfl rfl
    | (extract_lets +onlyGivenNames x; refine Keeps.have_ (Q := Keeps s0 x) ?q ?h; (case' q => subst x); (case' h => intro hx))
    | (fail_if_no_progress extract_lets +onlyGivenNames x)
    | split
    | (fail_if_no_progress with_reducible apply Keeps.mkOf)

theorem State.dataFlit_keeps {s0 : State} (s : State) (p : Nat) (f : FlitIn) (h0 : Keeps s0 s) :
    Keeps s0 (State.dataFlit s p f) := by
  unfold State.dataFlit
  repeat' first
    | with_reducible assumption
    | with_reducible apply State.takeData_keeps
    | with_reducible apply State.sendIdle_keeps
    | with_reducible apply State.modPort_keeps
    | with_reducible exact Keeps.mk' (by assumption) rfl rfl rfl
    | (intro x; clear_value x)
    | split
    | lift_lets

theorem State.flitIn_keeps {s0 : State} (s : State) (p : Nat) (b : List Byte) (corr : Nat) (uncorr : Nat) (h0 : Keeps s0 s) :
    Keeps s0 (State.flitIn s p b corr uncorr).1 := by
  unfold State.flitIn
  repeat' first
    | with_reducible assumption
    | with_reducible apply State.wrap64_keeps
    | with_reducible exact Keeps.mk' (by assumption) rfl rfl rfl
    | (intro x; refine Keeps.have_ (Q := Keeps s0 x) ?q ?h; (case' q => subst x); (case' h => (intro hx; clear_value x)))
    | (intro x; clear_value x)
    | split
    | lift_lets

theorem State.flitReceive_keeps {s0 : State} (s : State) (p : Nat) (b : List Byte) (corr : Nat) (uncorr : Nat) (h0 : Keeps s0 s) :
    Keeps s0 (State.flitReceive s p b corr uncorr) := by
  unfold State.flitReceive
  repeat' first
    | with_reducible assumption
    | with_reducible apply State.flitIn_keeps
    | with_reducible apply State.dataFlit_keeps
    | with_reducible apply State.flitAcks_keeps
    | with_reducible apply State.replay_keeps
    | with_reducible apply State.portPump_keeps
    | with_reducible apply State.exHeld_keeps
    | with_reducible exact Keeps.mk' (by assumption) rfl rfl rfl
    | split
    | (with_reducible refine Keeps.ofFst (by with_reducible assumption) ?_)

theorem execDataFlitReceive_keeps {s0 : State} (p : PortId) (flit : List Byte) (corr : Nat) (uncorr : Nat) (s : State) (h0 : Keeps s0 s) :
    OutKeeps s0 (execDataFlitReceive p flit corr uncorr s) := by
  unfold execDataFlitReceive
  repeat' first
    | with_reducible assumption
    | with_reducible apply State.clocked_keeps
    | with_reducible apply State.flitReceive_keeps
    | with_reducible exact Keeps.mk' (by assumption) rfl rfl rfl
    | with_reducible apply OutKeeps.next
    | with_reducible apply OutKeeps.fault

theorem execNakReceive_keeps {s0 : State} (p : PortId) (flit : List Byte) (corr : Nat) (uncorr : Nat) (s : State) (h0 : Keeps s0 s) :
    OutKeeps s0 (execNakReceive p flit corr uncorr s) := by
  unfold execNakReceive
  repeat' first
    | with_reducible assumption
    | with_reducible apply State.clocked_keeps
    | with_reducible apply State.flitReceive_keeps
    | with_reducible exact Keeps.mk' (by assumption) rfl rfl rfl
    | with_reducible apply OutKeeps.next
    | with_reducible apply OutKeeps.fault
    | split

theorem State.ackTimeout_keeps {s0 : State} (s : State) (p : Nat) (h0 : Keeps s0 s) :
    Keeps s0 (State.ackTimeout s p) := by
  unfold State.ackTimeout
  repeat' first
    | with_reducible assumption
    | with_reducible apply State.replay_keeps
    | with_reducible exact Keeps.mk' (by assumption) rfl rfl rfl
    | split

theorem execAckTimeout_keeps {s0 : State} (p : PortId) (s : State) (h0 : Keeps s0 s) :
    OutKeeps s0 (execAckTimeout p s) := by
  unfold execAckTimeout
  repeat' first
    | with_reducible assumption
    | with_reducible apply State.ackTimeout_keeps
    | with_reducible apply State.clocked_keeps
    | with_reducible exact Keeps.mk' (by assumption) rfl rfl rfl
    | with_reducible apply OutKeeps.next
    | with_reducible apply OutKeeps.fault

theorem State.refuseQueue_keeps {s0 : State} (s : State) (p : Nat) (h0 : Keeps s0 s) :
    Keeps s0 (State.refuseQueue s p) := by
  unfold State.refuseQueue
  repeat' first
    | with_reducible assumption
    | with_reducible apply State.modPort_keeps
    | with_reducible exact Keeps.mk' (by assumption) rfl rfl rfl
    | intro _
    | (fail_if_no_progress extract_lets +onlyGivenNames x)
    | (fail_if_no_progress with_reducible apply Keeps.mkOf)

theorem State.lnkCtrl_keeps {s0 : State} (s : State) (req : Requester) (p : Nat) (v : Nat) (h0 : Keeps s0 s) :
    Keeps s0 (State.lnkCtrl s req p v) := by
  unfold State.lnkCtrl
  dsimp only
  repeat' first
    | with_reducible assumption
    | with_reducible apply State.misuse_keeps
    | with_reducible apply State.modPort_keeps
    | with_reducible apply State.portDown_keeps
    | with_reducible apply State.portEnter_keeps
    | with_reducible apply State.portPump_keeps
    | with_reducible apply State.put_keeps
    | with_reducible apply State.refuseQueue_keeps
    | with_reducible apply State.startRetrain_keeps
    | with_reducible exact Keeps.mk' (by assumption) rfl rfl rfl
    | split
    | lift_lets
    | intro _

theorem execLnkEnable_keeps {s0 : State} (req : Requester) (p : PortId) (v : BitVec 32) (s : State) (h0 : Keeps s0 s) :
    OutKeeps s0 (execLnkEnable req p v s) := by
  unfold execLnkEnable
  repeat' first
    | with_reducible assumption
    | with_reducible apply State.lnkCtrl_keeps
    | with_reducible apply State.write_keeps
    | with_reducible exact Keeps.mk' (by assumption) rfl rfl rfl
    | with_reducible apply OutKeeps.next
    | with_reducible apply OutKeeps.fault
    | split
    | with_reducible apply_assumption
    | intro _

theorem execLnkDisable_keeps {s0 : State} (req : Requester) (p : PortId) (v : BitVec 32) (s : State) (h0 : Keeps s0 s) :
    OutKeeps s0 (execLnkDisable req p v s) := by
  unfold execLnkDisable
  repeat' first
    | with_reducible assumption
    | with_reducible apply State.lnkCtrl_keeps
    | with_reducible apply State.write_keeps
    | with_reducible exact Keeps.mk' (by assumption) rfl rfl rfl
    | with_reducible apply OutKeeps.next
    | with_reducible apply OutKeeps.fault
    | split
    | with_reducible apply_assumption
    | intro _

theorem execLnkRetrain_keeps {s0 : State} (req : Requester) (p : PortId) (v : BitVec 32) (s : State) (h0 : Keeps s0 s) :
    OutKeeps s0 (execLnkRetrain req p v s) := by
  unfold execLnkRetrain
  repeat' first
    | with_reducible assumption
    | with_reducible apply State.lnkCtrl_keeps
    | with_reducible apply State.write_keeps
    | with_reducible exact Keeps.mk' (by assumption) rfl rfl rfl
    | with_reducible apply OutKeeps.next
    | with_reducible apply OutKeeps.fault
    | split
    | with_reducible apply_assumption
    | intro _

theorem State.lightDetect_keeps {s0 : State} (s : State) (p : Nat) (h0 : Keeps s0 s) :
    Keeps s0 (State.lightDetect s p) := by
  unfold State.lightDetect
  repeat' first
    | with_reducible assumption
    | with_reducible apply State.portEnter_keeps
    | with_reducible exact Keeps.mk' (by assumption) rfl rfl rfl
    | split

theorem execLightDetect_keeps {s0 : State} (p : PortId) (s : State) (h0 : Keeps s0 s) :
    OutKeeps s0 (execLightDetect p s) := by
  unfold execLightDetect
  repeat' first
    | with_reducible assumption
    | with_reducible apply State.clocked_keeps
    | with_reducible apply State.lightDetect_keeps
    | with_reducible exact Keeps.mk' (by assumption) rfl rfl rfl
    | with_reducible apply OutKeeps.next
    | with_reducible apply OutKeeps.fault

theorem State.pmdTrainDone_keeps {s0 : State} (s : State) (p : Nat) (h0 : Keeps s0 s) :
    Keeps s0 (State.pmdTrainDone s p) := by
  unfold State.pmdTrainDone
  repeat' first
    | with_reducible assumption
    | with_reducible apply State.portUp_keeps
    | with_reducible apply State.portEnter_keeps
    | with_reducible exact Keeps.mk' (by assumption) rfl rfl rfl
    | split

theorem execPmdTrainDone_keeps {s0 : State} (p : PortId) (s : State) (h0 : Keeps s0 s) :
    OutKeeps s0 (execPmdTrainDone p s) := by
  unfold execPmdTrainDone
  repeat' first
    | with_reducible assumption
    | with_reducible apply State.clocked_keeps
    | with_reducible apply State.pmdTrainDone_keeps
    | with_reducible exact Keeps.mk' (by assumption) rfl rfl rfl
    | with_reducible apply OutKeeps.next
    | with_reducible apply OutKeeps.fault

theorem State.portInit_keeps {s0 : State} (s : State) (p : Nat) (h0 : Keeps s0 s) :
    Keeps s0 (State.portInit s p) := by
  unfold State.portInit
  repeat' first
    | with_reducible assumption
    | with_reducible apply State.portEnter_keeps
    | with_reducible apply State.modPort_keeps
    | with_reducible apply Cx.emit_keeps
    | with_reducible apply State.emit_keeps
    | with_reducible apply State.wrap64_keeps
    | with_reducible apply State.put_keeps

theorem State.alignDone_keeps {s0 : State} (s : State) (p : Nat) (h0 : Keeps s0 s) :
    Keeps s0 (State.alignDone s p) := by
  unfold State.alignDone
  repeat' first
    | with_reducible assumption
    | with_reducible apply State.portInit_keeps
    | with_reducible exact Keeps.mk' (by assumption) rfl rfl rfl
    | split

theorem execAlignDone_keeps {s0 : State} (p : PortId) (s : State) (h0 : Keeps s0 s) :
    OutKeeps s0 (execAlignDone p s) := by
  unfold execAlignDone
  repeat' first
    | with_reducible assumption
    | with_reducible apply State.alignDone_keeps
    | with_reducible apply State.clocked_keeps
    | with_reducible exact Keeps.mk' (by assumption) rfl rfl rfl
    | with_reducible apply OutKeeps.next
    | with_reducible apply OutKeeps.fault

theorem State.initReceive_keeps {s0 : State} (s : State) (p : Nat) (b : List Byte) (corr : Nat) (uncorr : Nat) (h0 : Keeps s0 s) :
    Keeps s0 (State.initReceive s p b corr uncorr) := by
  unfold State.initReceive
  dsimp only
  repeat' first
    | with_reducible assumption
    | with_reducible apply State.portInit_keeps
    | with_reducible apply State.flitIn_keeps
    | with_reducible apply State.portUp_keeps
    | with_reducible apply State.portEnter_keeps
    | with_reducible apply State.modPort_keeps
    | with_reducible apply State.raiseMod_keeps
    | with_reducible apply State.put_keeps
    | with_reducible exact Keeps.mk' (by assumption) rfl rfl rfl
    | split
    | (with_reducible refine Keeps.ofFst (by with_reducible assumption) ?_)

theorem execInitFlitReceive_keeps {s0 : State} (p : PortId) (flit : List Byte) (corr : Nat) (uncorr : Nat) (s : State) (h0 : Keeps s0 s) :
    OutKeeps s0 (execInitFlitReceive p flit corr uncorr s) := by
  unfold execInitFlitReceive
  repeat' first
    | with_reducible assumption
    | with_reducible apply State.clocked_keeps
    | with_reducible apply State.initReceive_keeps
    | with_reducible exact Keeps.mk' (by assumption) rfl rfl rfl
    | with_reducible apply OutKeeps.next
    | with_reducible apply OutKeeps.fault

theorem State.trainTimeout_keeps {s0 : State} (s : State) (p : Nat) (h0 : Keeps s0 s) :
    Keeps s0 (State.trainTimeout s p) := by
  unfold State.trainTimeout
  repeat' first
    | with_reducible assumption
    | with_reducible apply State.portEnter_keeps
    | with_reducible apply State.setPort_keeps
    | with_reducible apply State.bump_keeps
    | with_reducible exact Keeps.mk' (by assumption) rfl rfl rfl
    | (intro x; refine Keeps.have_ (Q := Keeps s0 x) ?q ?h; (case' q => subst x); (case' h => intro hx))
    | (intro x; skip)
    | split
    | lift_lets

theorem execTrainTimeout_keeps {s0 : State} (p : PortId) (s : State) (h0 : Keeps s0 s) :
    OutKeeps s0 (execTrainTimeout p s) := by
  unfold execTrainTimeout
  repeat' first
    | with_reducible assumption
    | with_reducible apply State.clocked_keeps
    | with_reducible apply State.trainTimeout_keeps
    | with_reducible exact Keeps.mk' (by assumption) rfl rfl rfl
    | with_reducible apply OutKeeps.next
    | with_reducible apply OutKeeps.fault

theorem State.retrainDone_keeps {s0 : State} (s : State) (p : Nat) (h0 : Keeps s0 s) :
    Keeps s0 (State.retrainDone s p) := by
  unfold State.retrainDone
  repeat' first
    | with_reducible assumption
    | with_reducible apply State.resend_keeps
    | with_reducible apply State.portUp_keeps
    | with_reducible apply State.portPump_keeps
    | with_reducible apply State.exHeld_keeps
    | with_reducible apply State.modPort_keeps
    | with_reducible exact Keeps.mk' (by assumption) rfl rfl rfl
    | split

theorem execRetrainDone_keeps {s0 : State} (p : PortId) (s : State) (h0 : Keeps s0 s) :
    OutKeeps s0 (execRetrainDone p s) := by
  unfold execRetrainDone
  repeat' first
    | with_reducible assumption
    | with_reducible apply State.clocked_keeps
    | with_reducible apply State.retrainDone_keeps
    | with_reducible exact Keeps.mk' (by assumption) rfl rfl rfl
    | with_reducible apply OutKeeps.next
    | with_reducible apply OutKeeps.fault

theorem State.retrainTimeout_keeps {s0 : State} (s : State) (p : Nat) (h0 : Keeps s0 s) :
    Keeps s0 (State.retrainTimeout s p) := by
  unfold State.retrainTimeout
  repeat' first
    | with_reducible assumption
    | with_reducible apply State.portDown_keeps
    | with_reducible exact Keeps.mk' (by assumption) rfl rfl rfl
    | split

theorem execRetrainTimeout_keeps {s0 : State} (p : PortId) (s : State) (h0 : Keeps s0 s) :
    OutKeeps s0 (execRetrainTimeout p s) := by
  unfold execRetrainTimeout
  repeat' first
    | with_reducible assumption
    | with_reducible apply State.clocked_keeps
    | with_reducible apply State.retrainTimeout_keeps
    | with_reducible exact Keeps.mk' (by assumption) rfl rfl rfl
    | with_reducible apply OutKeeps.next
    | with_reducible apply OutKeeps.fault

theorem State.lossOfLight_keeps {s0 : State} (s : State) (p : Nat) (h0 : Keeps s0 s) :
    Keeps s0 (State.lossOfLight s p) := by
  unfold State.lossOfLight
  repeat' first
    | with_reducible assumption
    | with_reducible apply State.portDown_keeps
    | with_reducible exact Keeps.mk' (by assumption) rfl rfl rfl
    | split

theorem execLossOfLight_keeps {s0 : State} (p : PortId) (s : State) (h0 : Keeps s0 s) :
    OutKeeps s0 (execLossOfLight p s) := by
  unfold execLossOfLight
  repeat' first
    | with_reducible assumption
    | with_reducible apply State.clocked_keeps
    | with_reducible apply State.lossOfLight_keeps
    | with_reducible exact Keeps.mk' (by assumption) rfl rfl rfl
    | with_reducible apply OutKeeps.next
    | with_reducible apply OutKeeps.fault

theorem State.portTick1_keeps {s0 : State} (s : State) (p : Nat) (h0 : Keeps s0 s) :
    Keeps s0 (State.portTick1 s p) := by
  unfold State.portTick1
  repeat' first
    | with_reducible assumption
    | with_reducible apply Cx.emit_keeps
    | with_reducible apply State.emit_keeps
    | with_reducible apply State.portPump_keeps
    | with_reducible apply State.sendIdle_keeps
    | with_reducible apply State.wrap64_keeps
    | with_reducible exact Keeps.mk' (by assumption) rfl rfl rfl
    | split

theorem State.portTick_keeps {s0 : State} (s : State) (h0 : Keeps s0 s) :
    Keeps s0 (State.portTick s) := by
  unfold State.portTick
  repeat' first
    | with_reducible assumption
    | with_reducible apply State.portTick1_keeps
    | with_reducible exact Keeps.mk' (by assumption) rfl rfl rfl
    | (with_reducible refine Keeps.foldl (fun _ _ _ => ?_) _ ?_)
    | (with_reducible refine Keeps.foldlFst (fun _ _ _ => ?_) _ ?_)

theorem State.timeSend_keeps {s0 : State} (s : State) (p : Nat) (frac : Nat) (h0 : Keeps s0 s) :
    Keeps s0 (State.timeSend s p frac) := by
  unfold State.timeSend
  repeat' first
    | with_reducible assumption
    | with_reducible apply State.setPort_keeps
    | with_reducible apply Cx.emit_keeps
    | with_reducible apply State.emit_keeps
    | with_reducible apply State.wrap64_keeps
    | with_reducible exact Keeps.mk' (by assumption) rfl rfl rfl
    | (intro x; refine Keeps.have_ (Q := Keeps s0 x) ?q ?h; (case' q => subst x); (case' h => (intro hx; clear_value x)))
    | (intro x; clear_value x)
    | split
    | lift_lets

theorem execTimeFlitSend_keeps {s0 : State} (p : PortId) (frac : Byte) (s : State) (h0 : Keeps s0 s) :
    OutKeeps s0 (execTimeFlitSend p frac s) := by
  unfold execTimeFlitSend
  repeat' first
    | with_reducible assumption
    | with_reducible apply State.clocked_keeps
    | with_reducible apply State.timeSend_keeps
    | with_reducible exact Keeps.mk' (by assumption) rfl rfl rfl
    | with_reducible apply OutKeeps.next
    | with_reducible apply OutKeeps.fault

theorem State.parentMarker_keeps {s0 : State} (s : State) (state : Nat) (h0 : Keeps s0 s) :
    Keeps s0 (State.parentMarker s state) := by
  unfold State.parentMarker
  repeat' first
    | with_reducible assumption
    | with_reducible apply State.timBack_keeps
    | with_reducible apply State.timReport_keeps
    | with_reducible apply Next.state_keeps
    | with_reducible exact Keeps.mk' (by assumption) rfl rfl rfl

theorem State.timeMeasured_keeps {s0 : State} (s : State) (p : Nat) (parent : Bool) (e : Int × Int × Int × Int) (h0 : Keeps s0 s) :
    Keeps s0 (State.timeMeasured s p parent e) := by
  unfold State.timeMeasured
  repeat' first
    | with_reducible assumption
    | with_reducible apply State.modPort_keeps
    | with_reducible exact Keeps.mk' (by assumption) rfl rfl rfl
    | (intro x; refine Keeps.have_ (Q := Keeps s0 x) ?q ?h; (case' q => subst x); (case' h => (intro hx; clear_value x)))
    | (intro x; clear_value x)
    | split
    | (with_reducible refine Keeps.ofFst (by with_reducible assumption) ?_)
    | (with_reducible refine Keeps.ofOpt (by with_reducible assumption) ?_)
    | (with_reducible refine Keeps.ofSnd (by with_reducible assumption) ?_)
    | lift_lets
    | intro _

theorem State.timeReceive_keeps {s0 : State} (s : State) (p : Nat) (b : List Byte) (corr : Nat) (uncorr : Nat) (frac : Nat) (h0 : Keeps s0 s) :
    Keeps s0 (State.timeReceive s p b corr uncorr frac) := by
  unfold State.timeReceive
  dsimp only
  repeat' first
    | with_reducible assumption
    | with_reducible apply Next.state_keeps
    | with_reducible apply State.flitAcks_keeps
    | with_reducible apply State.flitIn_keeps
    | with_reducible apply State.parentMarker_keeps
    | with_reducible apply State.setPort_keeps
    | with_reducible apply State.timeMeasured_keeps
    | with_reducible exact Keeps.mk' (by assumption) rfl rfl rfl
    | split
    | (with_reducible refine Keeps.ofFst (by with_reducible assumption) ?_)
    | (with_reducible refine Keeps.ofOpt (by with_reducible assumption) ?_)
    | (with_reducible refine Keeps.ofSnd (by with_reducible assumption) ?_)
    | lift_lets

theorem execTimeFlitReceive_keeps {s0 : State} (p : PortId) (flit : List Byte) (corr : Nat) (uncorr : Nat) (frac : Byte) (s : State) (h0 : Keeps s0 s) :
    OutKeeps s0 (execTimeFlitReceive p flit corr uncorr frac s) := by
  unfold execTimeFlitReceive
  repeat' first
    | with_reducible assumption
    | with_reducible apply State.clocked_keeps
    | with_reducible apply State.timeReceive_keeps
    | with_reducible exact Keeps.mk' (by assumption) rfl rfl rfl
    | with_reducible apply OutKeeps.next
    | with_reducible apply OutKeeps.fault

theorem State.lnkCntClear_keeps {s0 : State} (s : State) (p : Nat) (h0 : Keeps s0 s) :
    Keeps s0 (State.lnkCntClear s p) := by
  unfold State.lnkCntClear
  repeat' first
    | with_reducible assumption
    | with_reducible apply State.clear64_keeps
    | with_reducible apply State.clearAll_keeps

theorem execLnkCntClear_keeps {s0 : State} (req : Requester) (p : PortId) (s : State) (h0 : Keeps s0 s) :
    OutKeeps s0 (execLnkCntClear req p s) := by
  unfold execLnkCntClear
  repeat' first
    | with_reducible assumption
    | with_reducible apply State.lnkCntClear_keeps
    | with_reducible apply State.write_keeps
    | with_reducible exact Keeps.mk' (by assumption) rfl rfl rfl
    | with_reducible apply OutKeeps.next
    | with_reducible apply OutKeeps.fault
    | split
    | with_reducible apply_assumption
    | intro _

theorem State.shareWrite_keeps {s0 : State} (s : State) (req : Requester) (p : Nat) (q : Nat) (v : Nat) (h0 : Keeps s0 s) :
    Keeps s0 (State.shareWrite s req p q v) := by
  unfold State.shareWrite
  repeat' first
    | with_reducible assumption
    | with_reducible apply State.misuse_keeps
    | with_reducible apply State.put_keeps
    | with_reducible exact Keeps.mk' (by assumption) rfl rfl rfl
    | (intro x; refine Keeps.have_ (Q := Keeps s0 x) ?q ?h; (case' q => subst x); (case' h => intro hx))
    | (intro x; skip)
    | split
    | lift_lets

end Sys2Proof.Machine
end

