-- ==== Sys2Proof/Laws/KeepsEther.lean ====
section
/-!
SUPPORT. Every function of Machine/Ether.lean keeps the queue and the canonical forms.
-/
namespace Sys2Proof.Machine
open Sys2Proof

theorem State.sendFrame_keeps {s0 : State} (s : State) (p : Nat) (dst : Nat) (cls : Nat) (pkt : List Byte) (h0 : Keeps s0 s) :
    Keeps s0 (State.sendFrame s p dst cls pkt) := by
  unfold State.sendFrame
  repeat' first
    | with_reducible assumption
    | with_reducible apply Cx.emit_keeps
    | with_reducible apply State.emit_keeps
    | with_reducible apply State.wrap64_keeps
    | with_reducible exact Keeps.mk' (by assumption) rfl rfl rfl
    | split

theorem State.portSend_keeps {s0 : State} (s : State) (p : Nat) (dst : Nat) (cls : Nat) (job : Nat) (part : Option Nat) (pkt : List Byte) (h0 : Keeps s0 s) :
    Keeps s0 (State.portSend s p dst cls job part pkt) := by
  unfold State.portSend
  repeat' first
    | with_reducible assumption
    | with_reducible apply State.bump_keeps
    | with_reducible apply State.queuePacket_keeps
    | with_reducible apply State.sendFrame_keeps
    | with_reducible exact Keeps.mk' (by assumption) rfl rfl rfl
    | (intro x; refine Keeps.have_ (Q := Keeps s0 x) ?q ?h; (case' q => subst x); (case' h => (intro hx; clear_value x)))
    | (intro x; clear_value x)
    | split
    | lift_lets

theorem State.frameReceive_keeps {s0 : State} (s : State) (p : Nat) (b : List Byte) (h0 : Keeps s0 s) :
    Keeps s0 (State.frameReceive s p b) := by
  unfold State.frameReceive
  repeat' first
    | with_reducible assumption
    | with_reducible apply State.wrap64_keeps
    | with_reducible apply State.bump_keeps
    | with_reducible exact Keeps.mk' (by assumption) rfl rfl rfl
    | (intro x; refine Keeps.have_ (Q := Keeps s0 x) ?q ?h; (case' q => subst x); (case' h => (intro hx; clear_value x)))
    | (intro x; clear_value x)
    | split
    | lift_lets

theorem execEthFrameReceive_keeps {s0 : State} (p : PortId) (frame : List Byte) (s : State) (h0 : Keeps s0 s) :
    OutKeeps s0 (execEthFrameReceive p frame s) := by
  unfold execEthFrameReceive
  repeat' first
    | with_reducible assumption
    | with_reducible apply State.clocked_keeps
    | with_reducible apply State.frameReceive_keeps
    | with_reducible exact Keeps.mk' (by assumption) rfl rfl rfl
    | with_reducible apply OutKeeps.next

end Sys2Proof.Machine
end

