-- ==== Sys2Proof/Laws/KeepsWindow.lean ====
section
/-!
SUPPORT. Every function of Machine/Window.lean keeps the queue and the canonical forms.
-/
namespace Sys2Proof.Machine
open Sys2Proof

theorem State.vblArm_keeps {s0 : State} (s : State) (req : Requester) (h0 : Keeps s0 s) :
    Keeps s0 (State.vblArm s req) := by
  unfold State.vblArm
  repeat' first
    | with_reducible assumption
    | with_reducible apply State.raiseMod_keeps
    | with_reducible apply State.misuse_keeps
    | with_reducible apply State.put_keeps
    | with_reducible exact Keeps.mk' (by assumption) rfl rfl rfl
    | (intro x; clear_value x)
    | split
    | lift_lets

theorem execVblTblArm_keeps {s0 : State} (req : Requester) (s : State) (h0 : Keeps s0 s) :
    OutKeeps s0 (execVblTblArm req s) := by
  unfold execVblTblArm
  repeat' first
    | with_reducible assumption
    | with_reducible apply State.vblArm_keeps
    | with_reducible apply State.write_keeps
    | with_reducible exact Keeps.mk' (by assumption) rfl rfl rfl
    | with_reducible apply OutKeeps.next
    | with_reducible apply OutKeeps.fault
    | split
    | with_reducible apply_assumption
    | intro _

theorem State.vblSwitch_keeps {s0 : State} (s : State) (h0 : Keeps s0 s) :
    Keeps s0 (State.vblSwitch s) := by
  unfold State.vblSwitch
  repeat' first
    | with_reducible assumption
    | with_reducible apply State.raiseMod_keeps
    | with_reducible apply State.put_keeps
    | with_reducible exact Keeps.mk' (by assumption) rfl rfl rfl
    | (intro x; refine Keeps.have_ (Q := Keeps s0 x) ?q ?h; (case' q => subst x); (case' h => (intro hx; clear_value x)))
    | (intro x; clear_value x)
    | split
    | lift_lets

theorem execVblTblSwitch_keeps {s0 : State} (s : State) (h0 : Keeps s0 s) :
    OutKeeps s0 (execVblTblSwitch s) := by
  unfold execVblTblSwitch
  repeat' first
    | with_reducible assumption
    | with_reducible apply State.clocked_keeps
    | with_reducible apply State.vblSwitch_keeps
    | with_reducible exact Keeps.mk' (by assumption) rfl rfl rfl
    | with_reducible apply OutKeeps.next

theorem State.vblCntClear_keeps {s0 : State} (s : State) (h0 : Keeps s0 s) :
    Keeps s0 (State.vblCntClear s) := by
  unfold State.vblCntClear
  repeat' first
    | with_reducible assumption
    | with_reducible apply State.clearAll_keeps

theorem execVblCntClear_keeps {s0 : State} (req : Requester) (s : State) (h0 : Keeps s0 s) :
    OutKeeps s0 (execVblCntClear req s) := by
  unfold execVblCntClear
  repeat' first
    | with_reducible assumption
    | with_reducible apply State.vblCntClear_keeps
    | with_reducible apply State.write_keeps
    | with_reducible exact Keeps.mk' (by assumption) rfl rfl rfl
    | with_reducible apply OutKeeps.next

end Sys2Proof.Machine
end

