-- ==== Sys2Proof/Laws/KeepsTransport.lean ====
section
/-!
SUPPORT. Every function of Machine/Transport.lean keeps the queue and the canonical forms.
-/
namespace Sys2Proof.Machine
open Sys2Proof

theorem State.setTx_keeps {s0 : State} (s : State) (d : Nat) (x : TxConn) (h0 : Keeps s0 s) :
    Keeps s0 (State.setTx s d x) := by
  unfold State.setTx
  repeat' first
    | with_reducible assumption
    | with_reducible apply State.put_keeps
    | with_reducible exact Keeps.mk' (by assumption) rfl rfl rfl

theorem State.sendPacket_keeps {s0 : State} (s : State) (src : Nat) (d : Nat) (cls : Nat) (job : Nat) (b : List Byte) (h0 : Keeps s0 s) :
    Keeps s0 (State.sendPacket s src d cls job b) := by
  unfold State.sendPacket
  repeat' first
    | with_reducible assumption
    | with_reducible apply State.portSend_keeps
    | with_reducible exact Keeps.mk' (by assumption) rfl rfl rfl
    | split

theorem State.sendSegs_keeps {s0 : State} (d : Nat) : ∀ (b0 : Nat) (b1 : State), Keeps s0 b1 → Keeps s0 (State.sendSegs d b0 b1) := by
  intro b0
  induction b0 with
  | zero =>
    intros
    unfold State.sendSegs
    repeat' first
      | with_reducible assumption
  | succ n ih =>
    intros
    unfold State.sendSegs
    repeat' first
      | with_reducible assumption
      | with_reducible apply ih
      | with_reducible apply State.sendPacket_keeps
      | with_reducible apply State.setTx_keeps
      | with_reducible exact Keeps.mk' (by assumption) rfl rfl rfl
      | split

theorem State.connPump_keeps {s0 : State} (s : State) (d : Nat) (h0 : Keeps s0 s) :
    Keeps s0 (State.connPump s d) := by
  unfold State.connPump
  repeat' first
    | with_reducible assumption
    | with_reducible apply State.sendSegs_keeps
    | with_reducible apply State.setTx_keeps
    | with_reducible exact Keeps.mk' (by assumption) rfl rfl rfl
    | split

theorem State.trpSend_keeps {s0 : State} (s : State) (d : Nat) (m : Msg) (h0 : Keeps s0 s) :
    Keeps s0 (State.trpSend s d m) := by
  unfold State.trpSend
  repeat' first
    | with_reducible assumption
    | with_reducible apply State.connPump_keeps
    | with_reducible apply State.setTx_keeps
    | with_reducible apply State.bump_keeps
    | with_reducible exact Keeps.mk' (by assumption) rfl rfl rfl
    | (intro x; refine Keeps.have_ (Q := Keeps s0 x) ?q ?h; (case' q => subst x); (case' h => (intro hx; clear_value x)))
    | split
    | (with_reducible refine Keeps.ofFst (by with_reducible assumption) ?_)
    | (with_reducible refine Keeps.ofOpt (by with_reducible assumption) ?_)
    | (with_reducible refine Keeps.ofSnd (by with_reducible assumption) ?_)
    | lift_lets

theorem State.retireMsg_keeps {s0 : State} (s : State) (d : Nat) (mid : Nat) (h0 : Keeps s0 s) :
    Keeps s0 (State.retireMsg s d mid) := by
  unfold State.retireMsg
  repeat' first
    | with_reducible assumption
    | with_reducible apply State.connPump_keeps
    | with_reducible apply State.setTx_keeps
    | with_reducible apply State.put_keeps
    | with_reducible exact Keeps.mk' (by assumption) rfl rfl rfl
    | split

theorem State.resendMsg_keeps {s0 : State} (s : State) (d : Nat) (mid : Nat) (h0 : Keeps s0 s) :
    Keeps s0 (State.resendMsg s d mid) := by
  unfold State.resendMsg
  repeat' first
    | with_reducible assumption
    | with_reducible apply State.connPump_keeps
    | with_reducible apply State.setTx_keeps
    | with_reducible exact Keeps.mk' (by assumption) rfl rfl rfl
    | split

theorem State.handBack_keeps {s0 : State} (s : State) (d : Nat) (path : Bool) (h0 : Keeps s0 s) :
    Keeps s0 (State.handBack s d path).1 := by
  unfold State.handBack
  repeat' first
    | with_reducible assumption
    | with_reducible apply State.connPump_keeps
    | with_reducible apply State.setTx_keeps
    | with_reducible apply State.put_keeps
    | with_reducible exact Keeps.mk' (by assumption) rfl rfl rfl
    | split

theorem State.giveUp_keeps {s0 : State} (s : State) (d : Nat) (h0 : Keeps s0 s) :
    Keeps s0 (State.giveUp s d) := by
  unfold State.giveUp
  repeat' first
    | with_reducible assumption
    | with_reducible apply State.raiseMod_keeps
    | with_reducible apply State.bump_keeps
    | with_reducible exact Keeps.mk' (by assumption) rfl rfl rfl
    | split

theorem State.sendTAck_keeps {s0 : State} (s : State) (d : Nat) (gen : Nat) (cls : Nat) (next : Nat) (reset : Bool) (h0 : Keeps s0 s) :
    Keeps s0 (State.sendTAck s d gen cls next reset) := by
  unfold State.sendTAck
  repeat' first
    | with_reducible assumption
    | with_reducible apply State.sendPacket_keeps

theorem State.setRx_keeps {s0 : State} (s : State) (d : Nat) (x : RxConn) (h0 : Keeps s0 s) :
    Keeps s0 (State.setRx s d x) := by
  unfold State.setRx
  repeat' first
    | with_reducible assumption
    | with_reducible apply State.put_keeps
    | with_reducible exact Keeps.mk' (by assumption) rfl rfl rfl

theorem State.ackClass_keeps {s0 : State} (s : State) (d : Nat) (cls : Nat) (h0 : Keeps s0 s) :
    Keeps s0 (State.ackClass s d cls) := by
  unfold State.ackClass
  repeat' first
    | with_reducible assumption
    | with_reducible apply State.setRx_keeps
    | with_reducible apply State.sendTAck_keeps
    | with_reducible exact Keeps.mk' (by assumption) rfl rfl rfl
    | split

theorem State.tAckTimer_keeps {s0 : State} (s : State) (d : Nat) (cls : Nat) (h0 : Keeps s0 s) :
    Keeps s0 (State.tAckTimer s d cls) := by
  unfold State.tAckTimer
  repeat' first
    | with_reducible assumption
    | with_reducible apply State.ackClass_keeps
    | with_reducible exact Keeps.mk' (by assumption) rfl rfl rfl
    | split

theorem execTAckTimer_keeps {s0 : State} (node : BitVec 20) (cls : Fin 4) (s : State) (h0 : Keeps s0 s) :
    OutKeeps s0 (execTAckTimer node cls s) := by
  unfold execTAckTimer
  repeat' first
    | with_reducible assumption
    | with_reducible apply State.clocked_keeps
    | with_reducible apply State.tAckTimer_keeps
    | with_reducible exact Keeps.mk' (by assumption) rfl rfl rfl
    | with_reducible apply OutKeeps.next

theorem State.ackPackets_keeps {s0 : State} (s : State) (a : TAck) (h0 : Keeps s0 s) :
    Keeps s0 (State.ackPackets s a).1 := by
  unfold State.ackPackets
  repeat' first
    | with_reducible assumption
    | with_reducible apply State.retireMsg_keeps
    | with_reducible apply State.connPump_keeps
    | with_reducible apply State.setTx_keeps
    | with_reducible exact Keeps.mk' (by assumption) rfl rfl rfl
    | (with_reducible refine Keeps.foldl (fun _ _ _ => ?_) _ ?_)
    | (with_reducible refine Keeps.foldlFst (fun _ _ _ => ?_) _ ?_)
    | split

theorem State.rtoExpiry_keeps {s0 : State} (s : State) (d : Nat) (cls : Nat) (h0 : Keeps s0 s) :
    Keeps s0 (State.rtoExpiry s d cls) := by
  unfold State.rtoExpiry
  repeat' first
    | with_reducible assumption
    | with_reducible apply State.sendPacket_keeps
    | with_reducible apply State.setTx_keeps
    | with_reducible apply State.bump_keeps
    | with_reducible exact Keeps.mk' (by assumption) rfl rfl rfl
    | split

theorem execRtoExpiry_keeps {s0 : State} (node : BitVec 20) (cls : Fin 4) (s : State) (h0 : Keeps s0 s) :
    OutKeeps s0 (execRtoExpiry node cls s) := by
  unfold execRtoExpiry
  repeat' first
    | with_reducible assumption
    | with_reducible apply State.clocked_keeps
    | with_reducible apply State.rtoExpiry_keeps
    | with_reducible exact Keeps.mk' (by assumption) rfl rfl rfl
    | with_reducible apply OutKeeps.next

theorem State.deliver_keeps {s0 : State} (s : State) (d : Nat) (x : RxConn) (k : PacketIn) (h0 : Keeps s0 s) :
    Keeps s0 (State.deliver s d x k).1 := by
  unfold State.deliver
  repeat' first
    | with_reducible assumption
    | with_reducible exact Keeps.mk' (by assumption) rfl rfl rfl
    | split

theorem State.drainHeld_keeps {s0 : State} (d : Nat) (cls : Nat) : ∀ (b0 : Nat) (b1 : State × RxConn), Keeps s0 b1.1 → Keeps s0 (State.drainHeld d cls b0 b1).1 := by
  intro b0
  induction b0 with
  | zero =>
    intros
    unfold State.drainHeld
    repeat' first
      | with_reducible assumption
  | succ n ih =>
    intros
    unfold State.drainHeld
    repeat' first
      | with_reducible assumption
      | with_reducible apply ih
      | with_reducible apply State.deliver_keeps
      | with_reducible exact Keeps.mk' (by assumption) rfl rfl rfl
      | split

theorem State.ackDue_keeps {s0 : State} (s : State) (d : Nat) (cls : Nat) (h0 : Keeps s0 s) :
    Keeps s0 (State.ackDue s d cls) := by
  unfold State.ackDue
  repeat' first
    | with_reducible assumption
    | with_reducible apply State.ackClass_keeps
    | with_reducible exact Keeps.mk' (by assumption) rfl rfl rfl
    | split

theorem State.inSequence_keeps {s0 : State} (s : State) (d : Nat) (x : RxConn) (k : PacketIn) (b : List Byte) (h0 : Keeps s0 s) :
    Keeps s0 (State.inSequence s d x k b) := by
  unfold State.inSequence
  repeat' first
    | with_reducible assumption
    | with_reducible apply State.ackClass_keeps
    | with_reducible apply State.ackDue_keeps
    | with_reducible apply State.bump_keeps
    | with_reducible apply State.deliver_keeps
    | with_reducible apply State.drainHeld_keeps
    | with_reducible apply State.setRx_keeps
    | with_reducible exact Keeps.mk' (by assumption) rfl rfl rfl
    | (intro x; clear_value x)
    | split
    | (with_reducible refine Keeps.ofFst (by with_reducible assumption) ?_)
    | (with_reducible refine Keeps.ofOpt (by with_reducible assumption) ?_)
    | (with_reducible refine Keeps.ofSnd (by with_reducible assumption) ?_)
    | lift_lets

theorem State.fromPeer_keeps {s0 : State} (s : State) (k : PacketIn) (b : List Byte) (h0 : Keeps s0 s) :
    Keeps s0 (State.fromPeer s k b).1 := by
  unfold State.fromPeer
  repeat' first
    | with_reducible assumption
    | with_reducible apply State.inSequence_keeps
    | with_reducible apply State.sendTAck_keeps
    | with_reducible apply State.bump_keeps
    | with_reducible exact Keeps.mk' (by assumption) rfl rfl rfl
    | (intro x; clear_value x)
    | split
    | (with_reducible refine Keeps.ofFst (by with_reducible assumption) ?_)
    | (with_reducible refine Keeps.ofOpt (by with_reducible assumption) ?_)
    | (with_reducible refine Keeps.ofSnd (by with_reducible assumption) ?_)
    | lift_lets

theorem State.packetIn_keeps {s0 : State} (s : State) (h0 : Keeps s0 s) :
    Keeps s0 (State.packetIn s).1 := by
  unfold State.packetIn
  repeat' first
    | with_reducible assumption
    | with_reducible apply State.fromPeer_keeps
    | with_reducible apply State.bump_keeps
    | with_reducible exact Keeps.mk' (by assumption) rfl rfl rfl
    | (intro x; refine Keeps.have_ (Q := Keeps s0 x) ?q ?h; (case' q => subst x); (case' h => (intro hx; clear_value x)))
    | (intro x; clear_value x)
    | split
    | (with_reducible refine Keeps.ofFst (by with_reducible assumption) ?_)
    | (with_reducible refine Keeps.ofOpt (by with_reducible assumption) ?_)
    | (with_reducible refine Keeps.ofSnd (by with_reducible assumption) ?_)
    | lift_lets

theorem State.transitForward_keeps {s0 : State} (s : State) (h0 : Keeps s0 s) :
    Keeps s0 (State.transitForward s) := by
  unfold State.transitForward
  repeat' first
    | with_reducible assumption
    | with_reducible apply State.bump_keeps
    | with_reducible apply State.portSend_keeps
    | with_reducible exact Keeps.mk' (by assumption) rfl rfl rfl
    | (intro x; refine Keeps.have_ (Q := Keeps s0 x) ?q ?h; (case' q => subst x); (case' h => (intro hx; clear_value x)))
    | (intro x; clear_value x)
    | split
    | (with_reducible refine Keeps.ofFst (by with_reducible assumption) ?_)
    | (with_reducible refine Keeps.ofOpt (by with_reducible assumption) ?_)
    | (with_reducible refine Keeps.ofSnd (by with_reducible assumption) ?_)
    | lift_lets

theorem execTransitForward_keeps {s0 : State} (s : State) (h0 : Keeps s0 s) :
    OutKeeps s0 (execTransitForward s) := by
  unfold execTransitForward
  repeat' first
    | with_reducible assumption
    | with_reducible apply State.clocked_keeps
    | with_reducible apply State.transitForward_keeps
    | with_reducible exact Keeps.mk' (by assumption) rfl rfl rfl
    | with_reducible apply OutKeeps.next

theorem State.connEvict_keeps {s0 : State} (s : State) (send : Bool) (d : Nat) (h0 : Keeps s0 s) :
    Keeps s0 (State.connEvict s send d) := by
  unfold State.connEvict
  repeat' first
    | with_reducible assumption
    | with_reducible apply State.trpSend_keeps
    | with_reducible apply State.send_keeps
    | with_reducible exact Keeps.mk' (by assumption) rfl rfl rfl
    | (intro x; refine Keeps.have_ (Q := Keeps s0 x) ?q ?h; (case' q => subst x); (case' h => (intro hx; clear_value x)))
    | (intro x; clear_value x)
    | split
    | (with_reducible refine Keeps.ofFst (by with_reducible assumption) ?_)
    | (with_reducible refine Keeps.ofOpt (by with_reducible assumption) ?_)
    | (with_reducible refine Keeps.ofSnd (by with_reducible assumption) ?_)
    | lift_lets

theorem execConnIdleEvict_keeps {s0 : State} (send : Bool) (node : BitVec 20) (s : State) (h0 : Keeps s0 s) :
    OutKeeps s0 (execConnIdleEvict send node s) := by
  unfold execConnIdleEvict
  repeat' first
    | with_reducible assumption
    | with_reducible apply State.clocked_keeps
    | with_reducible apply State.connEvict_keeps
    | with_reducible apply State.send_keeps
    | with_reducible exact Keeps.mk' (by assumption) rfl rfl rfl
    | with_reducible apply OutKeeps.next

theorem execQuietTimeExpiry_keeps {s0 : State} (node : BitVec 20) (s : State) (h0 : Keeps s0 s) :
    OutKeeps s0 (execQuietTimeExpiry node s) := by
  unfold execQuietTimeExpiry
  repeat' first
    | with_reducible assumption
    | with_reducible apply State.clocked_keeps
    | with_reducible apply State.connPump_keeps
    | with_reducible exact Keeps.mk' (by assumption) rfl rfl rfl
    | with_reducible apply OutKeeps.next

theorem State.trpCntClear_keeps {s0 : State} (s : State) (h0 : Keeps s0 s) :
    Keeps s0 (State.trpCntClear s) := by
  unfold State.trpCntClear
  repeat' first
    | with_reducible assumption
    | with_reducible apply State.clearAll_keeps

theorem execTrpCntClear_keeps {s0 : State} (req : Requester) (s : State) (h0 : Keeps s0 s) :
    OutKeeps s0 (execTrpCntClear req s) := by
  unfold execTrpCntClear
  repeat' first
    | with_reducible assumption
    | with_reducible apply State.trpCntClear_keeps
    | with_reducible apply State.write_keeps
    | with_reducible exact Keeps.mk' (by assumption) rfl rfl rfl
    | with_reducible apply OutKeeps.next

theorem State.lifetimeWrite_keeps {s0 : State} (s : State) (req : Requester) (v : Nat) (h0 : Keeps s0 s) :
    Keeps s0 (State.lifetimeWrite s req v) := by
  unfold State.lifetimeWrite
  repeat' first
    | with_reducible assumption
    | with_reducible apply State.misuse_keeps
    | with_reducible apply State.put_keeps
    | with_reducible exact Keeps.mk' (by assumption) rfl rfl rfl
    | split

end Sys2Proof.Machine
end

