-- ==== Sys2Proof/Laws/KeepsRequests.lean ====
section
/-!
SUPPORT. Every function of Machine/Requests.lean keeps the queue and the canonical forms.
-/
namespace Sys2Proof.Machine
open Sys2Proof

theorem State.dropReq_keeps {s0 : State} (s : State) (num : Nat) (h0 : Keeps s0 s) :
    Keeps s0 (State.dropReq s num) := by
  unfold State.dropReq
  repeat' first
    | with_reducible assumption
    | with_reducible exact Keeps.mk' (by assumption) rfl rfl rfl

theorem State.modReq_keeps {s0 : State} (s : State) (num : Nat) (f : Req → Req) (h0 : Keeps s0 s) :
    Keeps s0 (State.modReq s num f) := by
  unfold State.modReq
  repeat' first
    | with_reducible assumption
    | with_reducible exact Keeps.mk' (by assumption) rfl rfl rfl

theorem State.addReq_keeps {s0 : State} (s : State) (c : Nat) (use : ReqFor) (pt : Nat) (cls : Nat) (job : Nat) (addr : Nat) (opnd : Nat) (data : List Byte) (h0 : Keeps s0 s) :
    Keeps s0 (State.addReq s c use pt cls job addr opnd data) := by
  unfold State.addReq
  repeat' first
    | with_reducible assumption
    | with_reducible exact Keeps.mk' (by assumption) rfl rfl rfl

theorem State.sendBatch_keeps {s0 : State} (s : State) (b : Batch) (h0 : Keeps s0 s) :
    Keeps s0 (State.sendBatch s b) := by
  unfold State.sendBatch
  repeat' first
    | with_reducible assumption
    | with_reducible apply State.addReq_keeps

theorem State.flushBatches_keeps {s0 : State} (s : State) (h0 : Keeps s0 s) :
    Keeps s0 (State.flushBatches s) := by
  unfold State.flushBatches
  repeat' first
    | with_reducible assumption
    | with_reducible apply State.sendBatch_keeps
    | with_reducible exact Keeps.mk' (by assumption) rfl rfl rfl
    | (with_reducible refine Keeps.foldl (fun _ _ _ => ?_) _ ?_)

theorem State.closeFor_keeps {s0 : State} (s : State) (c : Nat) (d : Nat) (h0 : Keeps s0 s) :
    Keeps s0 (State.closeFor s c d) := by
  unfold State.closeFor
  repeat' first
    | with_reducible assumption
    | with_reducible apply State.flushBatches_keeps
    | with_reducible exact Keeps.mk' (by assumption) rfl rfl rfl

theorem State.t2Write_keeps {s0 : State} (s : State) (p o : Nat) (bs : List Byte) (pz : Nat → Bool) (h0 : Keeps s0 s) :
    OptKeeps s0 (State.t2Write s p o bs pz) := by
  unfold State.t2Write
  lift_lets
  split
  split
  · exact OptKeeps.none
  · refine OptKeeps.some (Keeps.mkMem h0 rfl rfl fun w => ?_)
    have := Memory.store_wf s.mem (s.t2Key p o).2 bs (fun q => pz (q - (s.t2Key p o).2 / 64)) w
    split
    · simpa [Memory.wf, *] using this
    · simpa [Memory.wf, *] using this

theorem State.spaceWrite_keeps {s0 : State} (s : State) (c : Nat) (a : Nat) (bs : List Byte) (h0 : Keeps s0 s) :
    Keeps s0 (State.spaceWrite s c a bs) := by
  refine Keeps.foldl (fun t p ht => ?_) _ h0
  dsimp only
  split
  · next o _ =>
    cases e : t.t2Write (t.partOf c) o ((bs.drop (p.1 - a)).take p.2) fun _ => false with
    | none => exact ht
    | some u => exact State.t2Write_keeps _ _ _ _ _ ht u e
  · exact State.twrite_keeps _ _ _ _ _ ht
  · exact State.twrite_keeps _ _ _ _ _ ht
  · exact ht
  · exact ht

theorem State.countRefusal_keeps {s0 : State} (s : State) (src : Nat) (job : Nat) (pt : Nat) (addr : Nat) (status : Nat) (h0 : Keeps s0 s) :
    Keeps s0 (State.countRefusal s src job pt addr status) := by
  unfold State.countRefusal
  repeat' first
    | with_reducible assumption
    | with_reducible apply State.bump_keeps
    | with_reducible apply State.raiseMod_keeps

theorem State.ownRead_keeps {s0 : State} (s : State) (job : Nat) (g : Nat) (n : Nat) (h0 : Keeps s0 s) :
    Keeps s0 (State.ownRead s job g n).1 := by
  unfold State.ownRead
  repeat' first
    | with_reducible assumption
    | with_reducible apply State.countRefusal_keeps
    | with_reducible exact Keeps.mk' (by assumption) rfl rfl rfl
    | split

theorem State.ownReads_keeps {s0 : State} (s : State) (job : Nat) (reads : List (Nat × Nat)) (h0 : Keeps s0 s) :
    Keeps s0 (State.ownReads s job reads).1 := by
  unfold State.ownReads
  repeat' first
    | with_reducible assumption
    | with_reducible apply State.ownRead_keeps
    | with_reducible exact Keeps.mk' (by assumption) rfl rfl rfl
    | (with_reducible refine Keeps.foldl (fun _ _ _ => ?_) _ ?_)
    | (with_reducible refine Keeps.foldlFst (fun _ _ _ => ?_) _ ?_)
    | split
    | (with_reducible refine Keeps.ofFst (by with_reducible assumption) ?_)

theorem State.ownWrite_keeps {s0 : State} (s : State) (job : Nat) (g : Nat) (bs : List Byte) (h0 : Keeps s0 s) :
    Keeps s0 (State.ownWrite s job g bs).1 := by
  unfold State.ownWrite
  repeat' first
    | with_reducible assumption
    | with_reducible apply State.countRefusal_keeps
    | with_reducible apply State.spaceWrite_keeps
    | with_reducible exact Keeps.mk' (by assumption) rfl rfl rfl
    | split

theorem State.askEngine_keeps {s0 : State} (s : State) (c : Nat) (e : EngineRead) (g : Nat) (n : Nat) (h0 : Keeps s0 s) :
    Keeps s0 (State.askEngine s c e g n) := by
  unfold State.askEngine
  repeat' first
    | with_reducible assumption
    | with_reducible apply State.addReq_keeps
    | with_reducible apply State.closeFor_keeps

theorem State.readGlobal_keeps {s0 : State} (s : State) (c : Nat) (g : Nat) (n : Nat) (reply : Reply) (h0 : Keeps s0 s) :
    Keeps s0 (State.readGlobal s c g n reply).1 := by
  unfold State.readGlobal
  repeat' first
    | with_reducible assumption
    | with_reducible apply Cx.emit_keeps
    | with_reducible apply State.closeFor_keeps
    | with_reducible apply State.emit_keeps
    | with_reducible apply State.ownRead_keeps
    | with_reducible exact Keeps.mk' (by assumption) rfl rfl rfl
    | (intro x; refine Keeps.have_ (Q := Keeps s0 x) ?q ?h; (case' q => subst x); (case' h => (intro hx; clear_value x)))
    | split
    | lift_lets

theorem State.writeGlobal_keeps {s0 : State} (s : State) (c : Nat) (g : Nat) (bs : List Byte) (reply : Reply) (h0 : Keeps s0 s) :
    Keeps s0 (State.writeGlobal s c g bs reply).1 := by
  unfold State.writeGlobal
  repeat' first
    | with_reducible assumption
    | with_reducible apply Cx.emit_keeps
    | with_reducible apply State.closeFor_keeps
    | with_reducible apply State.emit_keeps
    | with_reducible apply State.ownWrite_keeps
    | with_reducible exact Keeps.mk' (by assumption) rfl rfl rfl
    | (intro x; refine Keeps.have_ (Q := Keeps s0 x) ?q ?h; (case' q => subst x); (case' h => (intro hx; clear_value x)))
    | split
    | lift_lets

end Sys2Proof.Machine
end

