-- ==== Sys2Proof/Laws/KeepsResumable.lean ====
section
/-!
SUPPORT. Every function of Machine/Resumable.lean keeps the queue and the canonical forms.
-/
namespace Sys2Proof.Machine
open Sys2Proof

theorem State.putRow_keeps {s0 : State} (s : State) (x : Cx) (o : Opnd) (r : Nat) (codes : List (Nat × Bool)) (h0 : Keeps s0 s) :
    Keeps s0 (State.putRow s x o r codes) := by
  unfold State.putRow
  repeat' first
    | with_reducible assumption
    | with_reducible apply State.writeBits_keeps
    | with_reducible exact Keeps.mk' (by assumption) rfl rfl rfl
    | (with_reducible refine Keeps.foldl (fun _ _ _ => ?_) _ ?_)

theorem State.sendBand_keeps {s0 : State} (s : State) (o : Opnd) (k : Nat) (rows : List (List (Nat × Bool))) (h0 : Keeps s0 s) :
    Keeps s0 (State.sendBand s o k rows) := by
  unfold State.sendBand
  repeat' first
    | with_reducible assumption
    | with_reducible apply State.send_keeps

theorem tcopyUnit_keeps {s0 : State} (x : Cx) (s : State) (ls : List Link) (u : Nat) (u4 : GatherBand) (h0 : Keeps s0 s) :
    FstKeeps s0 (tcopyUnit x s ls u u4) := by
  unfold tcopyUnit
  repeat' first
    | with_reducible assumption
    | with_reducible apply State.pokes_keeps
    | with_reducible apply State.send_keeps
    | with_reducible apply Opnd.writeTile_keeps
    | with_reducible exact Keeps.mk' (by assumption) rfl rfl rfl
    | with_reducible apply FstKeeps.ok
    | with_reducible apply FstKeeps.error
    | (with_reducible refine FstKeeps.bind (fun _ => ?_))
    | (with_reducible refine Keeps.foldl (fun _ _ _ => ?_) _ ?_)
    | (with_reducible refine Keeps.foldlFst (fun _ _ _ => ?_) _ ?_)
    | split

theorem tfillUnit_keeps {s0 : State} (x : Cx) (s : State) (ls : List Link) (u : Nat) (u4 : GatherBand) (h0 : Keeps s0 s) :
    FstKeeps s0 (tfillUnit x s ls u u4) := by
  unfold tfillUnit
  repeat' first
    | with_reducible assumption
    | with_reducible apply State.pokes_keeps
    | with_reducible apply State.send_keeps
    | with_reducible apply Opnd.writeTile_keeps
    | with_reducible apply State.twrite_keeps
    | with_reducible exact Keeps.mk' (by assumption) rfl rfl rfl
    | with_reducible apply FstKeeps.ok
    | with_reducible apply FstKeeps.error
    | (with_reducible refine FstKeeps.bind (fun _ => ?_))
    | (with_reducible refine Keeps.foldl (fun _ _ _ => ?_) _ ?_)
    | (with_reducible refine Keeps.foldlFst (fun _ _ _ => ?_) _ ?_)
    | split

theorem Cx.addCount_keeps {s0 : State} (x : Cx) (s : State) (n : Nat) (poisoned : Bool) (h0 : Keeps s0 s) :
    Keeps s0 (Cx.addCount x s n poisoned) := by
  unfold Cx.addCount
  repeat' first
    | with_reducible assumption
    | with_reducible apply State.modTask_keeps

theorem spvalidUnit_keeps {s0 : State} (x : Cx) (s : State) (u2 : List Link) (u : Nat) (u4 : GatherBand) (h0 : Keeps s0 s) :
    FstKeeps s0 (spvalidUnit x s u2 u u4) := by
  unfold spvalidUnit
  repeat' first
    | with_reducible assumption
    | with_reducible apply Cx.addCount_keeps
    | with_reducible apply State.putElem_keeps
    | with_reducible apply State.useStaged_keeps
    | with_reducible exact Keeps.mk' (by assumption) rfl rfl rfl
    | with_reducible apply FstKeeps.ok
    | with_reducible apply FstKeeps.error
    | (with_reducible refine FstKeeps.bind (fun _ => ?_))

theorem State.readRefused_keeps {s0 : State} (s : State) (c : Nat) (status : Nat) (g : Nat) (ptype : Nat) (h0 : Keeps s0 s) :
    Keeps s0 (State.readRefused s c status g ptype) := by
  unfold State.readRefused
  repeat' first
    | with_reducible assumption
    | with_reducible apply State.raiseCtx_keeps
    | with_reducible apply State.bump_keeps
    | with_reducible exact Keeps.mk' (by assumption) rfl rfl rfl
    | split

theorem State.askRow_keeps {s0 : State} (s : State) (c : Nat) (reads : List (Nat × Nat)) (ans : Option Reply) (h0 : Keeps s0 s) :
    Keeps s0 (State.askRow s c reads ans).1 := by
  unfold State.askRow
  dsimp only
  repeat' first
    | with_reducible assumption
    | with_reducible apply Cx.emit_keeps
    | with_reducible apply State.closeFor_keeps
    | with_reducible apply State.emit_keeps
    | with_reducible apply State.ownReads_keeps
    | with_reducible exact Keeps.mk' (by assumption) rfl rfl rfl
    | (with_reducible refine Keeps.foldl (fun _ _ _ => ?_) _ ?_)
    | (with_reducible refine Keeps.foldlFst (fun _ _ _ => ?_) _ ?_)
    | split

theorem gatherAsk_keeps {s0 : State} (x : Cx) (s : State) (lo : Nat) (vs : List Int) (band : GatherBand) (h0 : Keeps s0 s) :
    Keeps s0 (gatherAsk x s lo vs band).1 := by
  unfold gatherAsk
  repeat' first
    | with_reducible assumption
    | with_reducible apply State.askRow_keeps
    | with_reducible exact Keeps.mk' (by assumption) rfl rfl rfl
    | (with_reducible refine Keeps.foldl (fun _ _ _ => ?_) _ ?_)
    | (with_reducible refine Keeps.foldlFst (fun _ _ _ => ?_) _ ?_)

theorem gatherUnit_keeps {s0 : State} (x : Cx) (s : State) (ls : List Link) (u : Nat) (band : GatherBand) (h0 : Keeps s0 s) :
    FstKeeps s0 (gatherUnit x s ls u band) := by
  unfold gatherUnit
  repeat' first
    | with_reducible assumption
    | with_reducible apply gatherAsk_keeps
    | with_reducible apply State.readRefused_keeps
    | with_reducible apply State.sendBand_keeps
    | with_reducible apply State.putRow_keeps
    | with_reducible apply State.putElem_keeps
    | with_reducible apply State.modTask_keeps
    | with_reducible apply State.wrap64_keeps
    | with_reducible exact Keeps.mk' (by assumption) rfl rfl rfl
    | with_reducible apply FstKeeps.ok
    | with_reducible apply FstKeeps.error
    | (with_reducible refine FstKeeps.bind (fun _ => ?_))
    | (with_reducible refine Keeps.foldl (fun _ _ _ => ?_) _ ?_)
    | (with_reducible refine Keeps.foldlFst (fun _ _ _ => ?_) _ ?_)
    | (fail_if_no_progress extract_lets +onlyGivenNames x)
    | split
    | (fail_if_no_progress with_reducible apply Keeps.mkOf)

theorem scatterUnit_keeps {s0 : State} (x : Cx) (s : State) (ls : List Link) (u : Nat) (u4 : GatherBand) (h0 : Keeps s0 s) :
    FstKeeps s0 (scatterUnit x s ls u u4) := by
  unfold scatterUnit
  repeat' first
    | with_reducible assumption
    | with_reducible apply Cx.addCount_keeps
    | with_reducible apply State.putRow_keeps
    | with_reducible apply State.twrite_keeps
    | with_reducible exact Keeps.mk' (by assumption) rfl rfl rfl
    | with_reducible apply FstKeeps.ok
    | with_reducible apply FstKeeps.error
    | (with_reducible refine FstKeeps.bind (fun _ => ?_))
    | (with_reducible refine Keeps.foldl (fun _ _ _ => ?_) _ ?_)
    | (with_reducible refine Keeps.foldlFst (fun _ _ _ => ?_) _ ?_)
    | split

theorem State.putProgress_keeps {s0 : State} (s : State) (core : Nat) (slot : Nat) (r : Nat) (v : Nat) (h0 : Keeps s0 s) :
    Keeps s0 (State.putProgress s core slot r v) := by
  unfold State.putProgress
  repeat' first
    | with_reducible assumption
    | with_reducible apply State.modTask_keeps

theorem State.unitDone_keeps {s0 : State} (s : State) (core : Nat) (slot : Nat) (h0 : Keeps s0 s) :
    Keeps s0 (State.unitDone s core slot) := by
  unfold State.unitDone
  repeat' first
    | with_reducible assumption
    | with_reducible apply State.putProgress_keeps
    | with_reducible apply State.noteRetire_keeps
    | with_reducible apply State.advance_keeps
    | with_reducible apply State.modTask_keeps
    | with_reducible exact Keeps.mk' (by assumption) rfl rfl rfl
    | split

theorem UnitKind.unit_keeps {s0 : State} (k : UnitKind) (x : Cx) (s : State) (ls : List Link) (u : Nat) (band : GatherBand)
    (h0 : Keeps s0 s) : FstKeeps s0 (UnitKind.unit k x s ls u band) := by
  cases k
  · exact spvalidUnit_keeps _ _ ls _ band h0
  · exact tcopyUnit_keeps _ _ _ _ band h0
  · exact tfillUnit_keeps _ _ _ _ band h0
  · exact gatherUnit_keeps _ _ _ _ band h0
  · exact scatterUnit_keeps _ _ _ _ band h0

theorem unitEnd_keeps {s0 : State} (x : Cx) (us : Units) (u : Nat) (r : Effect) (h0 : Keeps s0 r.1) :
    Keeps s0 (unitEnd x us u r) := by
  unfold unitEnd
  repeat' first
    | with_reducible assumption
    | with_reducible apply Cx.raiseFlags_keeps
    | with_reducible apply State.finishLinks_keeps
    | with_reducible apply State.modTask_keeps
    | with_reducible apply State.unitDone_keeps
    | with_reducible apply State.useStaged_keeps
    | with_reducible exact Keeps.mk' (by assumption) rfl rfl rfl
    | extract_lets
    | split

theorem runUnit_keeps {s0 : State} (x : Cx) (us : Units) (s : State) (u : Nat) (band : GatherBand) (h0 : Keeps s0 s) :
    ChkKeeps s0 (runUnit x us s u band) :=
  ChkKeeps.bind fun _ => ChkKeeps.bindFst (UnitKind.unit_keeps _ _ _ _ _ _ h0) fun p h1 => ChkKeeps.stay (unitEnd_keeps x us u p h1)

theorem startUnits_keeps {s0 : State} (check : Cx → State → Chk Units) (regs : Cx → List Nat) (own : Cx → Chk Unit) (counts : Bool) (band : GatherBand) (x : Cx) (s : State) (h0 : Keeps s0 s) :
    ChkKeeps s0 (startUnits check regs own counts band x s) := by
  unfold startUnits
  repeat' first
    | with_reducible assumption
    | with_reducible apply runUnit_keeps
    | with_reducible apply Cx.putS_keeps
    | with_reducible exact Keeps.mk' (by assumption) rfl rfl rfl
    | with_reducible apply ChkKeeps.retire
    | with_reducible apply ChkKeeps.jump
    | with_reducible apply ChkKeeps.stay
    | with_reducible apply ChkKeeps.error
    | (with_reducible refine ChkKeeps.bind (fun _ => ?_))
    | split

theorem execSpvalid_keeps {s0 : State} (i : Issue) (s : State) (h0 : Keeps s0 s) :
    OutKeeps s0 (execSpvalid i s) := by
  unfold execSpvalid
  repeat' first
    | with_reducible assumption
    | with_reducible apply startUnits_keeps
    | with_reducible apply issue_keeps

theorem execTcopy_keeps {s0 : State} (i : Issue) (s : State) (h0 : Keeps s0 s) :
    OutKeeps s0 (execTcopy i s) := by
  unfold execTcopy
  repeat' first
    | with_reducible assumption
    | with_reducible apply startUnits_keeps
    | with_reducible apply issue_keeps

theorem execTfill_keeps {s0 : State} (i : Issue) (s : State) (h0 : Keeps s0 s) :
    OutKeeps s0 (execTfill i s) := by
  unfold execTfill
  repeat' first
    | with_reducible assumption
    | with_reducible apply startUnits_keeps
    | with_reducible apply issue_keeps

theorem execGatherDl_keeps {s0 : State} (i : Issue) (band : GatherBand) (s : State) (h0 : Keeps s0 s) :
    OutKeeps s0 (execGatherDl i band s) := by
  unfold execGatherDl
  repeat' first
    | with_reducible assumption
    | with_reducible apply startUnits_keeps
    | with_reducible apply issue_keeps

theorem execScatter_keeps {s0 : State} (i : Issue) (s : State) (h0 : Keeps s0 s) :
    OutKeeps s0 (execScatter i s) := by
  unfold execScatter
  repeat' first
    | with_reducible assumption
    | with_reducible apply startUnits_keeps
    | with_reducible apply issue_keeps

theorem State.nextUnit_keeps {s0 : State} (s : State) (core : Nat) (slot : Nat) (band : GatherBand) (h0 : Keeps s0 s) :
    Keeps s0 (State.nextUnit s core slot band) := by
  unfold State.nextUnit
  repeat' first
    | with_reducible assumption
    | with_reducible apply State.conclude_keeps
    | with_reducible apply State.dropFirst_keeps
    | with_reducible apply runUnit_keeps
    | with_reducible exact Keeps.mk' (by assumption) rfl rfl rfl
    | (intro x; clear_value x)
    | split
    | (with_reducible refine Keeps.ofFst (by with_reducible assumption) ?_)
    | (with_reducible refine Keeps.ofOpt (by with_reducible assumption) ?_)
    | (with_reducible refine Keeps.ofSnd (by with_reducible assumption) ?_)
    | lift_lets

theorem execResumableUnit_keeps {s0 : State} (core : CoreId) (slot : SlotId) (band : GatherBand) (s : State) (h0 : Keeps s0 s) :
    OutKeeps s0 (execResumableUnit core slot band s) := by
  unfold execResumableUnit
  repeat' first
    | with_reducible assumption
    | with_reducible apply State.clocked_keeps
    | with_reducible apply State.nextUnit_keeps
    | with_reducible exact Keeps.mk' (by assumption) rfl rfl rfl
    | with_reducible apply OutKeeps.next

end Sys2Proof.Machine
end

