-- ==== Sys2Proof/Laws/KeepsStream.lean ====
section
/-!
SUPPORT. Every function of Machine/Stream.lean keeps the queue and the canonical forms.
-/
namespace Sys2Proof.Machine
open Sys2Proof

theorem Cx.sendRun_keeps {s0 : State} (x : Cx) (s : State) (int32 : Bool) (k : Nat) (h0 : Keeps s0 s) :
    Keeps s0 (Cx.sendRun x s int32 k) := by
  unfold Cx.sendRun
  repeat' first
    | with_reducible assumption
    | with_reducible apply State.send_keeps

theorem Cx.sendTiles_keeps {s0 : State} (x : Cx) (s : State) (inj : Bool) (int32 : Bool) (ready : Nat → Bool) (wait : Nat → Nat → Wait) (h0 : Keeps s0 s) :
    ChkKeeps s0 (Cx.sendTiles x s inj int32 ready wait) := by
  unfold Cx.sendTiles
  repeat' first
    | with_reducible assumption
    | with_reducible apply Cx.sendRun_keeps
    | with_reducible exact Keeps.mk' (by assumption) rfl rfl rfl
    | with_reducible apply ChkKeeps.retire
    | with_reducible apply ChkKeeps.jump
    | with_reducible apply ChkKeeps.stay
    | with_reducible apply ChkKeeps.error
    | (with_reducible refine ChkKeeps.bind (fun _ => ?_))

theorem execStreamSend_keeps {s0 : State} (i : Issue) (s : State) (h0 : Keeps s0 s) :
    OutKeeps s0 (execStreamSend i s) := by
  unfold execStreamSend
  repeat' first
    | with_reducible assumption
    | with_reducible apply Cx.sendTiles_keeps
    | with_reducible apply issue_keeps
    | with_reducible exact Keeps.mk' (by assumption) rfl rfl rfl
    | with_reducible apply OutKeeps.next
    | with_reducible apply OutKeeps.fault
    | split
    | with_reducible apply_assumption
    | intro _

theorem execStreamInj_keeps {s0 : State} (i : Issue) (s : State) (h0 : Keeps s0 s) :
    OutKeeps s0 (execStreamInj i s) := by
  unfold execStreamInj
  repeat' first
    | with_reducible assumption
    | with_reducible apply Cx.sendTiles_keeps
    | with_reducible apply issue_keeps
    | with_reducible exact Keeps.mk' (by assumption) rfl rfl rfl
    | with_reducible apply OutKeeps.next
    | with_reducible apply OutKeeps.fault
    | split
    | with_reducible apply_assumption
    | intro _

theorem streamRecvBody_keeps {s0 : State} (x : Cx) (s : State) (h0 : Keeps s0 s) :
    ChkKeeps s0 (streamRecvBody x s) := by
  unfold streamRecvBody
  repeat' first
    | with_reducible assumption
    | with_reducible apply Cx.putS_keeps
    | with_reducible apply State.takeTiles_keeps
    | with_reducible exact Keeps.mk' (by assumption) rfl rfl rfl
    | with_reducible apply ChkKeeps.retire
    | with_reducible apply ChkKeeps.jump
    | with_reducible apply ChkKeeps.stay
    | with_reducible apply ChkKeeps.error
    | (with_reducible refine ChkKeeps.bind (fun _ => ?_))

theorem execStreamRecv_keeps {s0 : State} (i : Issue) (s : State) (h0 : Keeps s0 s) :
    OutKeeps s0 (execStreamRecv i s) := by
  unfold execStreamRecv
  repeat' first
    | with_reducible assumption
    | with_reducible apply streamRecvBody_keeps
    | with_reducible apply issue_keeps

theorem latchWaitBody_keeps {s0 : State} (x : Cx) (s : State) (h0 : Keeps s0 s) :
    ChkKeeps s0 (latchWaitBody x s) := by
  unfold latchWaitBody
  repeat' first
    | with_reducible assumption
    | with_reducible exact Keeps.mk' (by assumption) rfl rfl rfl
    | with_reducible apply ChkKeeps.retire
    | with_reducible apply ChkKeeps.jump
    | with_reducible apply ChkKeeps.stay
    | with_reducible apply ChkKeeps.error
    | (with_reducible refine ChkKeeps.bind (fun _ => ?_))

theorem execLatchWait_keeps {s0 : State} (i : Issue) (s : State) (h0 : Keeps s0 s) :
    OutKeeps s0 (execLatchWait i s) := by
  unfold execLatchWait
  repeat' first
    | with_reducible assumption
    | with_reducible apply latchWaitBody_keeps
    | with_reducible apply issue_keeps

theorem latchSigBody_keeps {s0 : State} (x : Cx) (s : State) (h0 : Keeps s0 s) :
    ChkKeeps s0 (latchSigBody x s) := by
  unfold latchSigBody
  repeat' first
    | with_reducible assumption
    | with_reducible apply State.release_keeps
    | with_reducible apply State.sendGroups_keeps
    | with_reducible exact Keeps.mk' (by assumption) rfl rfl rfl
    | with_reducible apply ChkKeeps.retire
    | with_reducible apply ChkKeeps.jump
    | with_reducible apply ChkKeeps.stay
    | with_reducible apply ChkKeeps.error
    | (with_reducible refine ChkKeeps.bind (fun _ => ?_))
    | split

theorem execLatchSig_keeps {s0 : State} (i : Issue) (s : State) (h0 : Keeps s0 s) :
    OutKeeps s0 (execLatchSig i s) := by
  unfold execLatchSig
  repeat' first
    | with_reducible assumption
    | with_reducible apply latchSigBody_keeps
    | with_reducible apply issue_keeps

theorem bufAllocBody_keeps {s0 : State} (x : Cx) (s : State) (h0 : Keeps s0 s) :
    ChkKeeps s0 (bufAllocBody x s) := by
  unfold bufAllocBody
  repeat' first
    | with_reducible assumption
    | with_reducible apply Cx.putS_keeps
    | with_reducible apply State.modTask_keeps
    | with_reducible exact Keeps.mk' (by assumption) rfl rfl rfl
    | with_reducible apply ChkKeeps.retire
    | with_reducible apply ChkKeeps.jump
    | with_reducible apply ChkKeeps.stay
    | with_reducible apply ChkKeeps.error
    | (with_reducible refine ChkKeeps.bind (fun _ => ?_))
    | (intro x; clear_value x)
    | split
    | (with_reducible refine Keeps.ofFst (by with_reducible assumption) ?_)
    | (with_reducible refine Keeps.ofOpt (by with_reducible assumption) ?_)
    | (with_reducible refine Keeps.ofSnd (by with_reducible assumption) ?_)
    | lift_lets

theorem execBufAlloc_keeps {s0 : State} (i : Issue) (s : State) (h0 : Keeps s0 s) :
    OutKeeps s0 (execBufAlloc i s) := by
  unfold execBufAlloc
  repeat' first
    | with_reducible assumption
    | with_reducible apply bufAllocBody_keeps
    | with_reducible apply issue_keeps

theorem bufFreeBody_keeps {s0 : State} (x : Cx) (s : State) (h0 : Keeps s0 s) :
    ChkKeeps s0 (bufFreeBody x s) := by
  unfold bufFreeBody
  repeat' first
    | with_reducible assumption
    | with_reducible apply State.raiseCtx_keeps
    | with_reducible apply State.misusePart_keeps
    | with_reducible exact Keeps.mk' (by assumption) rfl rfl rfl
    | with_reducible apply ChkKeeps.retire
    | with_reducible apply ChkKeeps.jump
    | with_reducible apply ChkKeeps.stay
    | with_reducible apply ChkKeeps.error
    | (with_reducible refine ChkKeeps.bind (fun _ => ?_))
    | split

theorem execBufFree_keeps {s0 : State} (i : Issue) (s : State) (h0 : Keeps s0 s) :
    OutKeeps s0 (execBufFree i s) := by
  unfold execBufFree
  repeat' first
    | with_reducible assumption
    | with_reducible apply bufFreeBody_keeps
    | with_reducible apply issue_keeps

theorem State.clearSlot_keeps {s0 : State} (s : State) (core : Nat) (slot : Nat) (h0 : Keeps s0 s) :
    Keeps s0 (State.clearSlot s core slot) := by
  unfold State.clearSlot
  repeat' first
    | with_reducible assumption
    | with_reducible apply State.unpin_keeps
    | with_reducible apply State.dropTask_keeps
    | with_reducible exact Keeps.mk' (by assumption) rfl rfl rfl
    | split

theorem State.settleUnits_keeps {s0 : State} (s : State) (k : Nat) (h0 : Keeps s0 s) :
    Keeps s0 (State.settleUnits s k) := by
  unfold State.settleUnits
  repeat' first
    | with_reducible assumption
    | with_reducible apply State.unitDone_keeps
    | with_reducible apply Next.state_keeps
    | with_reducible apply State.modTask_keeps
    | with_reducible exact Keeps.mk' (by assumption) rfl rfl rfl
    | (with_reducible refine Keeps.foldl (fun _ _ _ => ?_) _ ?_)
    | (with_reducible refine Keeps.foldlFst (fun _ _ _ => ?_) _ ?_)
    | split

theorem State.settleSend_keeps {s0 : State} (s : State) (k : Nat) (h0 : Keeps s0 s) :
    Keeps s0 (State.settleSend s k) := by
  unfold State.settleSend
  repeat' first
    | with_reducible assumption
    | with_reducible apply State.settleUnits_keeps
    | with_reducible apply State.settle_keeps
    | with_reducible apply State.giveChained_keeps
    | with_reducible exact Keeps.mk' (by assumption) rfl rfl rfl
    | (with_reducible refine Keeps.foldl (fun _ _ _ => ?_) _ ?_)

theorem State.fillRing_keeps {s0 : State} (s : State) (k : Nat) (bs : List Byte) (pz : List Nat) (h0 : Keeps s0 s) :
    Keeps s0 (State.fillRing s k bs pz) :=
  Keeps.foldl (fun _ _ ht => Keeps.mkMem ht rfl rfl (Memory.store_wf _ _ _ _)) _ h0

theorem State.countTiles_keeps {s0 : State} (s : State) (k : Nat) (n : Nat) (h0 : Keeps s0 s) :
    Keeps s0 (State.countTiles s k n) := by
  unfold State.countTiles
  repeat' first
    | with_reducible assumption
    | with_reducible apply State.modEp_keeps

theorem State.landGroup_keeps {s0 : State} (s : State) (k : Nat) (g : Group) (h0 : Keeps s0 s) :
    Keeps s0 (State.landGroup s k g) := by
  unfold State.landGroup
  repeat' first
    | with_reducible assumption
    | with_reducible apply State.countTiles_keeps
    | with_reducible apply State.fillRing_keeps
    | with_reducible apply State.settleSend_keeps
    | with_reducible exact Keeps.mk' (by assumption) rfl rfl rfl
    | (with_reducible refine Keeps.foldl (fun _ _ _ => ?_) _ ?_)
    | (with_reducible refine Keeps.foldlFst (fun _ _ _ => ?_) _ ?_)
    | split

theorem State.dropGroup_keeps {s0 : State} (s : State) (i : Nat) (h0 : Keeps s0 s) :
    Keeps s0 (State.dropGroup s i) := by
  unfold State.dropGroup
  repeat' first
    | with_reducible assumption
    | with_reducible exact Keeps.mk' (by assumption) rfl rfl rfl

theorem State.groupShut_keeps {s0 : State} (s : State) (i : Nat) (g : Group) (h0 : Keeps s0 s) :
    Keeps s0 (State.groupShut s i g) := by
  unfold State.groupShut
  repeat' first
    | with_reducible assumption
    | with_reducible apply State.bump_keeps
    | with_reducible apply State.dropGroup_keeps
    | with_reducible apply State.misusePart_keeps
    | with_reducible exact Keeps.mk' (by assumption) rfl rfl rfl
    | split

theorem State.groupLost_keeps {s0 : State} (s : State) (i : Nat) (g : Group) (stop : Nat) (h0 : Keeps s0 s) :
    Keeps s0 (State.groupLost s i g stop) := by
  unfold State.groupLost
  repeat' first
    | with_reducible assumption
    | with_reducible apply State.bump_keeps
    | with_reducible apply State.dropGroup_keeps
    | with_reducible apply State.faultCtx_keeps
    | with_reducible apply State.raiseMod_keeps

theorem State.loseGroups_keeps {s0 : State} : ∀ (n : Nat) (s : State), Keeps s0 s → Keeps s0 (State.loseGroups s n)
  | 0, _, h => h
  | n + 1, s, h => by
    unfold State.loseGroups
    dsimp only
    split
    · exact h
    · split
      · exact h
      · exact State.loseGroups_keeps n _ (State.groupLost_keeps _ _ _ _ h)

theorem State.groupLand_keeps {s0 : State} (s : State) (i : Nat) (h0 : Keeps s0 s) :
    Keeps s0 (State.groupLand s i) := by
  unfold State.groupLand
  repeat' first
    | with_reducible assumption
    | with_reducible apply State.dropGroup_keeps
    | with_reducible apply State.groupLost_keeps
    | with_reducible apply State.groupShut_keeps
    | with_reducible apply State.landGroup_keeps
    | with_reducible apply State.misusePart_keeps
    | with_reducible exact Keeps.mk' (by assumption) rfl rfl rfl
    | split

theorem State.groupArrive_keeps {s0 : State} (s : State) (k : Nat) (source : Nat) (count : Nat) (layer : Nat) (data : Option (List Byte)) (h0 : Keeps s0 s) :
    Keeps s0 (State.groupArrive s k source count layer data) := by
  unfold State.groupArrive
  repeat' first
    | with_reducible assumption
    | with_reducible apply State.landGroup_keeps
    | with_reducible apply State.misusePart_keeps
    | with_reducible exact Keeps.mk' (by assumption) rfl rfl rfl
    | (intro x; clear_value x)
    | split
    | lift_lets

theorem State.groupReport_keeps {s0 : State} (s : State) (k : Nat) (peer : Nat) (n : Nat) (h0 : Keeps s0 s) :
    Keeps s0 (State.groupReport s k peer n) := by
  unfold State.groupReport
  repeat' first
    | with_reducible assumption
    | with_reducible apply State.modEp_keeps
    | with_reducible apply State.settleSend_keeps

theorem State.groupNoPath_keeps {s0 : State} (s : State) (k : Nat) (h0 : Keeps s0 s) :
    Keeps s0 (State.groupNoPath s k) := by
  unfold State.groupNoPath
  repeat' first
    | with_reducible assumption
    | with_reducible apply State.faultCtx_keeps
    | with_reducible exact Keeps.mk' (by assumption) rfl rfl rfl
    | split

theorem execGroupLand_keeps {s0 : State} (g : Landing) (s : State) (h0 : Keeps s0 s) :
    OutKeeps s0 (execGroupLand g s) := by
  unfold execGroupLand
  repeat' first
    | with_reducible assumption
    | with_reducible apply State.clocked_keeps
    | with_reducible apply State.groupArrive_keeps
    | with_reducible apply State.groupLand_keeps
    | with_reducible apply State.groupNoPath_keeps
    | with_reducible apply State.groupReport_keeps
    | with_reducible exact Keeps.mk' (by assumption) rfl rfl rfl
    | with_reducible apply OutKeeps.next
    | with_reducible apply OutKeeps.fault
    | split

theorem State.restoreFree_keeps {s0 : State} (s : State) (k : Nat) (peer : Nat) (n : Nat) (h0 : Keeps s0 s) :
    Keeps s0 (State.restoreFree s k peer n) := by
  unfold State.restoreFree
  repeat' first
    | with_reducible assumption
    | with_reducible apply State.modEp_keeps

theorem State.creditArrive_keeps {s0 : State} (s : State) (i : Nat) (h0 : Keeps s0 s) :
    Keeps s0 (State.creditArrive s i) := by
  unfold State.creditArrive
  repeat' first
    | with_reducible assumption
    | with_reducible apply State.misusePart_keeps
    | with_reducible apply State.restoreFree_keeps
    | with_reducible exact Keeps.mk' (by assumption) rfl rfl rfl
    | (intro x; refine Keeps.have_ (Q := Keeps s0 x) ?q ?h; (case' q => subst x); (case' h => (intro hx; clear_value x)))
    | (intro x; clear_value x)
    | split
    | (with_reducible refine Keeps.ofFst (by with_reducible assumption) ?_)
    | (with_reducible refine Keeps.ofOpt (by with_reducible assumption) ?_)
    | (with_reducible refine Keeps.ofSnd (by with_reducible assumption) ?_)
    | lift_lets

theorem State.creditAway_keeps {s0 : State} (s : State) (k : Nat) (peer : Nat) (n : Nat) (h0 : Keeps s0 s) :
    Keeps s0 (State.creditAway s k peer n) := by
  unfold State.creditAway
  repeat' first
    | with_reducible assumption
    | with_reducible apply State.misusePart_keeps
    | with_reducible apply State.restoreFree_keeps
    | with_reducible exact Keeps.mk' (by assumption) rfl rfl rfl
    | split

theorem execCreditArrive_keeps {s0 : State} (g : CreditFrom) (s : State) (h0 : Keeps s0 s) :
    OutKeeps s0 (execCreditArrive g s) := by
  unfold execCreditArrive
  repeat' first
    | with_reducible assumption
    | with_reducible apply State.clocked_keeps
    | with_reducible apply State.creditArrive_keeps
    | with_reducible apply State.creditAway_keeps
    | with_reducible exact Keeps.mk' (by assumption) rfl rfl rfl
    | with_reducible apply OutKeeps.next
    | with_reducible apply OutKeeps.fault
    | split

theorem State.mergeAt_keeps {s0 : State} (s : State) (n : Nat) (h0 : Keeps s0 s) :
    Keeps s0 (State.mergeAt s n) := by
  unfold State.mergeAt
  dsimp only
  repeat' first
    | with_reducible assumption
    | with_reducible apply State.putGroups_keeps
    | with_reducible exact Keeps.mk' (by assumption) rfl rfl rfl
    | split

theorem State.mergeAll_keeps {s0 : State} (s : State) (h0 : Keeps s0 s) :
    Keeps s0 (State.mergeAll s) := by
  unfold State.mergeAll
  repeat' first
    | with_reducible assumption
    | with_reducible apply State.mergeAt_keeps
    | with_reducible exact Keeps.mk' (by assumption) rfl rfl rfl
    | (with_reducible refine Keeps.foldl (fun _ _ _ => ?_) _ ?_)

theorem State.mergeArrive_keeps {s0 : State} (s : State) (i : Nat) (h0 : Keeps s0 s) :
    Keeps s0 (State.mergeArrive s i) := by
  unfold State.mergeArrive
  repeat' first
    | with_reducible assumption
    | with_reducible apply State.bump_keeps
    | with_reducible apply State.dropGroup_keeps
    | with_reducible apply State.groupLost_keeps
    | with_reducible apply State.groupShut_keeps
    | with_reducible apply State.mergeAll_keeps
    | with_reducible apply State.put_keeps
    | with_reducible exact Keeps.mk' (by assumption) rfl rfl rfl
    | (fail_if_no_progress extract_lets +onlyGivenNames x)
    | split
    | (with_reducible refine Keeps.ofFst (by with_reducible assumption) ?_)
    | (with_reducible refine Keeps.ofOpt (by with_reducible assumption) ?_)
    | (with_reducible refine Keeps.ofSnd (by with_reducible assumption) ?_)
    | (fail_if_no_progress with_reducible apply Keeps.mkOf)

theorem execMergeFlitArrive_keeps {s0 : State} (i : Nat) (s : State) (h0 : Keeps s0 s) :
    OutKeeps s0 (execMergeFlitArrive i s) := by
  unfold execMergeFlitArrive
  repeat' first
    | with_reducible assumption
    | with_reducible apply State.clocked_keeps
    | with_reducible apply State.mergeArrive_keeps
    | with_reducible exact Keeps.mk' (by assumption) rfl rfl rfl
    | with_reducible apply OutKeeps.next

theorem State.tagRing_keeps {s0 : State} (s : State) (k : Nat) (new : BufOwner) (h0 : Keeps s0 s) :
    Keeps s0 (State.tagRing s k new) := by
  unfold State.tagRing
  repeat' first
    | with_reducible assumption
    | with_reducible exact Keeps.mk' (by assumption) rfl rfl rfl

theorem State.strEnable_keeps {s0 : State} (s : State) (req : Requester) (k : Nat) (v : Nat) (h0 : Keeps s0 s) :
    Keeps s0 (State.strEnable s req k v) := by
  unfold State.strEnable
  repeat' first
    | with_reducible assumption
    | with_reducible apply State.misuse_keeps
    | with_reducible apply State.setEp_keeps
    | with_reducible apply State.tagRing_keeps
    | with_reducible apply State.wr_keeps
    | with_reducible exact Keeps.mk' (by assumption) rfl rfl rfl
    | split

theorem State.strDisable_keeps {s0 : State} (s : State) (req : Requester) (k : Nat) (v : Nat) (h0 : Keeps s0 s) :
    Keeps s0 (State.strDisable s req k v) := by
  unfold State.strDisable
  repeat' first
    | with_reducible assumption
    | with_reducible apply State.tagRing_keeps
    | with_reducible apply State.misuse_keeps
    | with_reducible apply State.wr_keeps
    | with_reducible exact Keeps.mk' (by assumption) rfl rfl rfl
    | (extract_lets +onlyGivenNames x; refine Keeps.have_ (Q := Keeps s0 x) ?q ?h; (case' q => subst x); (case' h => intro hx))
    | (fail_if_no_progress extract_lets +onlyGivenNames x)
    | split
    | (fail_if_no_progress with_reducible apply Keeps.mkOf)

theorem execStrCfgDisable_keeps {s0 : State} (req : Requester) (core : CoreId) (ep : EpId) (v : BitVec 32) (s : State) (h0 : Keeps s0 s) :
    OutKeeps s0 (execStrCfgDisable req core ep v s) := by
  unfold execStrCfgDisable
  repeat' first
    | with_reducible assumption
    | with_reducible apply State.strDisable_keeps
    | with_reducible apply State.write_keeps
    | with_reducible exact Keeps.mk' (by assumption) rfl rfl rfl
    | with_reducible apply OutKeeps.next
    | with_reducible apply OutKeeps.fault
    | split
    | with_reducible apply_assumption
    | intro _

end Sys2Proof.Machine
end

