-- ==== Sys2Proof/Laws/KeepsSync.lean ====
section
/-!
SUPPORT. Every function of Machine/Sync.lean keeps the queue and the canonical forms.
-/
namespace Sys2Proof.Machine
open Sys2Proof

theorem State.countStall_keeps {s0 : State} (s : State) (c : Nat) (codes : Nat) (ticks : Nat) (h0 : Keeps s0 s) :
    Keeps s0 (State.countStall s c codes ticks) := by
  unfold State.countStall
  repeat' first
    | with_reducible assumption
    | with_reducible apply State.put_keeps
    | with_reducible apply State.wrap64_keeps
    | with_reducible exact Keeps.mk' (by assumption) rfl rfl rfl
    | split

theorem State.leaveStage_keeps {s0 : State} (s : State) (core : Nat) (slot : Nat) (h0 : Keeps s0 s) :
    Keeps s0 (State.leaveStage s core slot) := by
  unfold State.leaveStage
  repeat' first
    | with_reducible assumption
    | with_reducible exact Keeps.mk' (by assumption) rfl rfl rfl

theorem State.endWait_keeps {s0 : State} (s : State) (core : Nat) (slot : Nat) (codes : Nat) (h0 : Keeps s0 s) :
    Keeps s0 (State.endWait s core slot codes) := by
  unfold State.endWait
  repeat' first
    | with_reducible assumption
    | with_reducible apply State.countStall_keeps
    | with_reducible apply State.leaveStage_keeps
    | with_reducible apply State.wrap64_keeps
    | with_reducible exact Keeps.mk' (by assumption) rfl rfl rfl
    | split

theorem State.completeWait_keeps {s0 : State} (s : State) (core : Nat) (slot : Nat) (h0 : Keeps s0 s) :
    Keeps s0 (State.completeWait s core slot) := by
  unfold State.completeWait
  repeat' first
    | with_reducible assumption
    | with_reducible apply Next.state_keeps
    | with_reducible apply State.noteRetire_keeps
    | with_reducible apply State.noteIssue_keeps
    | with_reducible apply State.modTask_keeps

theorem State.wake_keeps {s0 : State} (s : State) (core : Nat) (slot : Nat) (codes : Nat) (h0 : Keeps s0 s) :
    Keeps s0 (State.wake s core slot codes) := by
  unfold State.wake
  repeat' first
    | with_reducible assumption
    | with_reducible apply Next.state_keeps
    | with_reducible apply State.completeWait_keeps
    | with_reducible apply State.endWait_keeps
    | with_reducible apply State.modTask_keeps
    | with_reducible apply State.passThreshold_keeps
    | with_reducible exact Keeps.mk' (by assumption) rfl rfl rfl
    | split

theorem execTaskWake_keeps {s0 : State} (core : CoreId) (slot : SlotId) (codes : BitVec 6) (s : State) (h0 : Keeps s0 s) :
    OutKeeps s0 (execTaskWake core slot codes s) := by
  unfold execTaskWake
  repeat' first
    | with_reducible assumption
    | with_reducible apply State.clocked_keeps
    | with_reducible apply State.wake_keeps
    | with_reducible exact Keeps.mk' (by assumption) rfl rfl rfl
    | with_reducible apply OutKeeps.next

theorem execAgeLimitIssue_keeps {s0 : State} (core : CoreId) (slots : BitVec 16) (s : State) (h0 : Keeps s0 s) :
    OutKeeps s0 (execAgeLimitIssue core slots s) := by
  unfold execAgeLimitIssue
  repeat' first
    | with_reducible assumption
    | with_reducible apply State.clocked_keeps
    | with_reducible exact Keeps.mk' (by assumption) rfl rfl rfl
    | with_reducible apply OutKeeps.next

theorem thresholdBody_keeps {s0 : State} (x : Cx) (s : State) (h0 : Keeps s0 s) :
    ChkKeeps s0 (thresholdBody x s) := by
  unfold thresholdBody
  repeat' first
    | with_reducible assumption
    | with_reducible apply State.passThreshold_keeps
    | with_reducible apply State.closeBatches_keeps
    | with_reducible exact Keeps.mk' (by assumption) rfl rfl rfl
    | with_reducible apply ChkKeeps.retire
    | with_reducible apply ChkKeeps.jump
    | with_reducible apply ChkKeeps.stay
    | with_reducible apply ChkKeeps.error
    | (with_reducible refine ChkKeeps.bind (fun _ => ?_))

theorem execThreshold_keeps {s0 : State} (i : Issue) (s : State) (h0 : Keeps s0 s) :
    OutKeeps s0 (execThreshold i s) := by
  unfold execThreshold
  repeat' first
    | with_reducible assumption
    | with_reducible apply thresholdBody_keeps
    | with_reducible apply issue_keeps

theorem State.releaseAll_keeps {s0 : State} (s : State) (c : Nat) (p : TaskDecl → Bool) (w : Wait) (g : Nat)
    (after : State → Nat → Nat → State) (h0 : Keeps s0 s) (h1 : ∀ a0 a1 a2, Keeps s0 a0 → Keeps s0 (after a0 a1 a2)) :
    Keeps s0 (State.releaseAll s c p w g after) := by
  unfold State.releaseAll
  exact Keeps.foldl (fun _ _ h => h1 _ _ _ (State.completeWait_keeps _ _ _ h)) _ h0

theorem State.collect_keeps {s0 : State} (s : State) (c : Nat) (p : TaskDecl → Bool) (w : Wait) (tickAt : Nat → Nat)
    (after : State → Nat → Nat → State) (h0 : Keeps s0 s) (h1 : ∀ a0 a1 a2, Keeps s0 a0 → Keeps s0 (after a0 a1 a2)) :
    Keeps s0 (State.collect s c p w tickAt after) := by
  unfold State.collect
  dsimp only
  split
  · split
    · exact h0
    · exact State.releaseAll_keeps _ _ _ _ _ _ (State.setCtx_keeps _ _ _ h0) h1
  · split
    · exact h0
    · exact State.setCtx_keeps _ _ _ (Keeps.mkOf h0)

theorem execThresholdRelease_keeps {s0 : State} (c : CtxId) (s : State) (h0 : Keeps s0 s) :
    OutKeeps s0 (execThresholdRelease c s) := by
  unfold execThresholdRelease
  refine OutKeeps.next (State.clocked_keeps _ _ h0 ?_)
  split
  · exact State.collect_keeps _ _ _ _ _ _ h0 State.passThreshold_keeps
  · exact h0

theorem barrierBody_keeps {s0 : State} (x : Cx) (s : State) (h0 : Keeps s0 s) :
    ChkKeeps s0 (barrierBody x s) := by
  unfold barrierBody
  repeat' first
    | with_reducible assumption
    | with_reducible exact Keeps.mk' (by assumption) rfl rfl rfl
    | with_reducible apply ChkKeeps.retire
    | with_reducible apply ChkKeeps.jump
    | with_reducible apply ChkKeeps.stay
    | with_reducible apply ChkKeeps.error
    | (with_reducible refine ChkKeeps.bind (fun _ => ?_))
    | split

theorem execBarrier_keeps {s0 : State} (i : Issue) (s : State) (h0 : Keeps s0 s) :
    OutKeeps s0 (execBarrier i s) := by
  unfold execBarrier
  repeat' first
    | with_reducible assumption
    | with_reducible apply barrierBody_keeps
    | with_reducible apply issue_keeps

theorem execBarrierRelease_keeps {s0 : State} (c : CtxId) (node : Nat) (s : State) (h0 : Keeps s0 s) :
    OutKeeps s0 (execBarrierRelease c node s) := by
  unfold execBarrierRelease
  refine OutKeeps.next (State.clocked_keeps _ _ h0 ?_)
  split
  · exact State.collect_keeps _ _ _ _ _ _ h0 (State.passBarrier_keeps node)
  · exact h0

theorem atLaunchBody_keeps {s0 : State} (x : Cx) (s : State) (h0 : Keeps s0 s) :
    ChkKeeps s0 (atLaunchBody x s) := by
  unfold atLaunchBody
  repeat' first
    | with_reducible assumption
    | with_reducible apply State.wrap_keeps
    | with_reducible exact Keeps.mk' (by assumption) rfl rfl rfl
    | with_reducible apply ChkKeeps.retire
    | with_reducible apply ChkKeeps.jump
    | with_reducible apply ChkKeeps.stay
    | with_reducible apply ChkKeeps.error
    | (with_reducible refine ChkKeeps.bind (fun _ => ?_))

theorem execAtLaunch_keeps {s0 : State} (i : Issue) (s : State) (h0 : Keeps s0 s) :
    OutKeeps s0 (execAtLaunch i s) := by
  unfold execAtLaunch
  repeat' first
    | with_reducible assumption
    | with_reducible apply atLaunchBody_keeps
    | with_reducible apply issue_keeps

theorem State.launchTick_keeps {s0 : State} (s : State) (core : Nat) (h0 : Keeps s0 s) :
    Keeps s0 (State.launchTick s core) := by
  unfold State.launchTick
  repeat' first
    | with_reducible assumption
    | with_reducible apply State.completeWait_keeps
    | with_reducible apply Next.state_keeps
    | with_reducible exact Keeps.mk' (by assumption) rfl rfl rfl
    | (with_reducible refine Keeps.foldl (fun _ _ _ => ?_) _ ?_)
    | (with_reducible refine Keeps.foldlFst (fun _ _ _ => ?_) _ ?_)
    | (intro x; refine Keeps.have_ (Q := Keeps s0 x) ?q ?h; (case' q => subst x); (case' h => (intro hx; clear_value x)))
    | (intro x; clear_value x)
    | split
    | (with_reducible refine Keeps.ofFst (by with_reducible assumption) ?_)
    | (with_reducible refine Keeps.ofOpt (by with_reducible assumption) ?_)
    | (with_reducible refine Keeps.ofSnd (by with_reducible assumption) ?_)
    | lift_lets

theorem execLaunchTick_keeps {s0 : State} (core : CoreId) (s : State) (h0 : Keeps s0 s) :
    OutKeeps s0 (execLaunchTick core s) := by
  unfold execLaunchTick
  repeat' first
    | with_reducible assumption
    | with_reducible apply State.clocked_keeps
    | with_reducible apply State.launchTick_keeps
    | with_reducible exact Keeps.mk' (by assumption) rfl rfl rfl
    | with_reducible apply OutKeeps.next

theorem tickRdBody_keeps {s0 : State} (x : Cx) (s : State) (h0 : Keeps s0 s) :
    ChkKeeps s0 (tickRdBody x s) := by
  unfold tickRdBody
  repeat' first
    | with_reducible assumption
    | with_reducible apply Cx.putS_keeps
    | with_reducible exact Keeps.mk' (by assumption) rfl rfl rfl
    | with_reducible apply ChkKeeps.retire

theorem execTickRd_keeps {s0 : State} (i : Issue) (s : State) (h0 : Keeps s0 s) :
    OutKeeps s0 (execTickRd i s) := by
  unfold execTickRd
  repeat' first
    | with_reducible assumption
    | with_reducible apply tickRdBody_keeps
    | with_reducible apply issue_keeps

theorem State.dlmTick_keeps {s0 : State} (s : State) (c : Nat) (h0 : Keeps s0 s) :
    Keeps s0 (State.dlmTick s c) := by
  unfold State.dlmTick
  repeat' first
    | with_reducible assumption
    | with_reducible apply State.setCtx_keeps

theorem State.deadlock_keeps {s0 : State} (s : State) (c : Nat) (h0 : Keeps s0 s) :
    Keeps s0 (State.deadlock s c) := by
  unfold State.deadlock
  repeat' first
    | with_reducible assumption
    | with_reducible apply State.faultCtx_keeps
    | with_reducible apply State.raiseCtx_keeps
    | with_reducible apply State.put_keeps
    | with_reducible exact Keeps.mk' (by assumption) rfl rfl rfl
    | split

theorem execDeadlock_keeps {s0 : State} (c : CtxId) (s : State) (h0 : Keeps s0 s) :
    OutKeeps s0 (execDeadlock c s) := by
  unfold execDeadlock
  repeat' first
    | with_reducible assumption
    | with_reducible apply State.clocked_keeps
    | with_reducible apply State.deadlock_keeps
    | with_reducible exact Keeps.mk' (by assumption) rfl rfl rfl
    | with_reducible apply OutKeeps.next

end Sys2Proof.Machine
end

