-- ==== Sys2Proof/Laws/KeepsUnits.lean ====
section
/-!
SUPPORT. Every function of Machine/Units.lean keeps the queue and the canonical forms.
-/
namespace Sys2Proof.Machine
open Sys2Proof

theorem Cx.query_keeps {s0 : State} (x : Cx) (s : State) (f : Context → UnitNode → Option Nat) (h0 : Keeps s0 s) :
    ChkKeeps s0 (Cx.query x s f) := by
  unfold Cx.query
  repeat' first
    | with_reducible assumption
    | with_reducible apply Cx.putS_keeps
    | with_reducible exact Keeps.mk' (by assumption) rfl rfl rfl
    | with_reducible apply ChkKeeps.retire
    | with_reducible apply ChkKeeps.jump
    | with_reducible apply ChkKeeps.stay
    | with_reducible apply ChkKeeps.error
    | (with_reducible refine ChkKeeps.bind (fun _ => ?_))
    | split

theorem Cx.queryCaps_keeps {s0 : State} (x : Cx) (s : State) (h0 : Keeps s0 s) :
    ChkKeeps s0 (Cx.queryCaps x s) := by
  unfold Cx.queryCaps
  repeat' first
    | with_reducible assumption
    | with_reducible apply State.twrite_keeps
    | with_reducible exact Keeps.mk' (by assumption) rfl rfl rfl
    | with_reducible apply ChkKeeps.retire
    | with_reducible apply ChkKeeps.jump
    | with_reducible apply ChkKeeps.stay
    | with_reducible apply ChkKeeps.error
    | (with_reducible refine ChkKeeps.bind (fun _ => ?_))

theorem unitQueryBody_keeps {s0 : State} (x : Cx) (s : State) (h0 : Keeps s0 s) :
    ChkKeeps s0 (unitQueryBody x s) := by
  unfold unitQueryBody
  repeat' first
    | with_reducible assumption
    | with_reducible apply Cx.queryCaps_keeps
    | with_reducible apply Cx.query_keeps
    | with_reducible apply Cx.putS_keeps
    | with_reducible exact Keeps.mk' (by assumption) rfl rfl rfl
    | with_reducible apply ChkKeeps.retire
    | with_reducible apply ChkKeeps.jump
    | with_reducible apply ChkKeeps.stay
    | with_reducible apply ChkKeeps.error
    | (with_reducible refine ChkKeeps.bind (fun _ => ?_))
    | split

theorem execUnitQuery_keeps {s0 : State} (i : Issue) (s : State) (h0 : Keeps s0 s) :
    OutKeeps s0 (execUnitQuery i s) := by
  unfold execUnitQuery
  repeat' first
    | with_reducible assumption
    | with_reducible apply unitQueryBody_keeps
    | with_reducible apply issue_keeps

end Sys2Proof.Machine
end

