-- ==== Sys2Proof/Laws/KeepsTaskCtl.lean ====
section
/-!
SUPPORT. Every function of Machine/TaskCtl.lean keeps the queue and the canonical forms.
-/
namespace Sys2Proof.Machine
open Sys2Proof

theorem State.stopTask_keeps {s0 : State} (s : State) (core : Nat) (slot : Nat) (codes : Nat) (h0 : Keeps s0 s) :
    Keeps s0 (State.stopTask s core slot codes) := by
  unfold State.stopTask
  repeat' first
    | with_reducible assumption
    | with_reducible apply Next.state_keeps
    | with_reducible apply State.closeBatches_keeps
    | with_reducible apply State.endWait_keeps
    | with_reducible apply State.modTask_keeps
    | with_reducible exact Keeps.mk' (by assumption) rfl rfl rfl
    | split

theorem State.beginTask_keeps {s0 : State} (s : State) (c : Nat) (i : Nat) (d : TaskDecl) (h0 : Keeps s0 s) :
    Keeps s0 (State.beginTask s c i d) := by
  unfold State.beginTask
  repeat' first
    | with_reducible assumption
    | with_reducible apply State.modDecl_keeps
    | with_reducible apply State.setTask_keeps

theorem State.retag_keeps {s0 : State} (s : State) (c : Nat) (core : Nat) (old : Nat) (new : Nat) (h0 : Keeps s0 s) :
    Keeps s0 (State.retag s c core old new) := by
  unfold State.retag
  repeat' first
    | with_reducible assumption
    | with_reducible apply State.put_keeps
    | with_reducible exact Keeps.mk' (by assumption) rfl rfl rfl
    | (with_reducible refine Keeps.foldl (fun _ _ _ => ?_) _ ?_)
    | (with_reducible refine Keeps.foldlFst (fun _ _ _ => ?_) _ ?_)
    | split

theorem State.writeRecord_keeps {s0 : State} (s : State) (c : Nat) (a : Nat) (core : Nat) (slot : Nat) (t : Task) (h0 : Keeps s0 s) :
    Keeps s0 (State.writeRecord s c a core slot t) := by
  unfold State.writeRecord
  repeat' first
    | with_reducible assumption
    | with_reducible apply State.twrite_keeps

theorem State.restoreTask_keeps {s0 : State} (s : State) (c : Nat) (i : Nat) (d : TaskDecl) (a : Nat) (start : Bool) (h0 : Keeps s0 s) :
    Keeps s0 (State.restoreTask s c i d a start).1 := by
  unfold State.restoreTask
  repeat' first
    | with_reducible assumption
    | with_reducible apply State.retag_keeps
    | with_reducible apply Next.state_keeps
    | with_reducible apply State.modDecl_keeps
    | with_reducible apply State.setTask_keeps
    | with_reducible apply State.wr_keeps
    | with_reducible exact Keeps.mk' (by assumption) rfl rfl rfl
    | (fail_if_no_progress extract_lets +onlyGivenNames x)
    | split

theorem State.continueTask_keeps {s0 : State} (s : State) (core : Nat) (slot : Nat) (h0 : Keeps s0 s) :
    Keeps s0 (State.continueTask s core slot) := by
  unfold State.continueTask
  repeat' first
    | with_reducible assumption
    | with_reducible apply State.completeWait_keeps
    | with_reducible apply Next.state_keeps
    | with_reducible apply State.queueStage_keeps
    | with_reducible apply State.modTask_keeps
    | with_reducible apply State.wrap_keeps
    | with_reducible exact Keeps.mk' (by assumption) rfl rfl rfl
    | (intro x; refine Keeps.have_ (Q := Keeps s0 x) ?q ?h; (case' q => subst x); (case' h => (intro hx; clear_value x)))
    | split
    | (with_reducible refine Keeps.ofFst (by with_reducible assumption) ?_)
    | (with_reducible refine Keeps.ofOpt (by with_reducible assumption) ?_)
    | (with_reducible refine Keeps.ofSnd (by with_reducible assumption) ?_)
    | lift_lets

theorem State.ctlStart_keeps {s0 : State} (s : State) (c : Nat) (i : Nat) (d : TaskDecl) (h0 : Keeps s0 s) :
    Keeps s0 (State.ctlStart s c i d).1 := by
  unfold State.ctlStart
  repeat' first
    | with_reducible assumption
    | with_reducible apply State.continueTask_keeps
    | with_reducible apply State.restoreTask_keeps
    | with_reducible apply State.beginTask_keeps
    | with_reducible apply State.modDecl_keeps
    | with_reducible exact Keeps.mk' (by assumption) rfl rfl rfl
    | split

theorem State.ctlPreempt_keeps {s0 : State} (s : State) (c : Nat) (i : Nat) (d : TaskDecl) (codes : Nat) (h0 : Keeps s0 s) :
    Keeps s0 (State.ctlPreempt s c i d codes).1 := by
  unfold State.ctlPreempt
  repeat' first
    | with_reducible assumption
    | with_reducible apply State.writeRecord_keeps
    | with_reducible apply State.stopTask_keeps
    | with_reducible apply Next.state_keeps
    | with_reducible apply State.modDecl_keeps
    | with_reducible apply State.dropTask_keeps
    | with_reducible exact Keeps.mk' (by assumption) rfl rfl rfl
    | (intro x; refine Keeps.have_ (Q := Keeps s0 x) ?q ?h; (case' q => subst x); (case' h => (intro hx; clear_value x)))
    | split
    | (with_reducible refine Keeps.ofFst (by with_reducible assumption) ?_)
    | (with_reducible refine Keeps.ofOpt (by with_reducible assumption) ?_)
    | (with_reducible refine Keeps.ofSnd (by with_reducible assumption) ?_)
    | lift_lets

theorem State.ctlSave_keeps {s0 : State} (s : State) (c : Nat) (d : TaskDecl) (a : Nat) (codes : Nat) (h0 : Keeps s0 s) :
    Keeps s0 (State.ctlSave s c d a codes).1 := by
  unfold State.ctlSave
  repeat' first
    | with_reducible assumption
    | with_reducible apply State.writeRecord_keeps
    | with_reducible apply State.stopTask_keeps
    | with_reducible exact Keeps.mk' (by assumption) rfl rfl rfl
    | (intro x; refine Keeps.have_ (Q := Keeps s0 x) ?q ?h; (case' q => subst x); (case' h => (intro hx; clear_value x)))
    | split
    | (with_reducible refine Keeps.ofFst (by with_reducible assumption) ?_)
    | (with_reducible refine Keeps.ofOpt (by with_reducible assumption) ?_)
    | (with_reducible refine Keeps.ofSnd (by with_reducible assumption) ?_)
    | lift_lets

theorem State.ctlOne_keeps {s0 : State} (s : State) (o : TaskOp) (i : Nat) (codes : Nat) (h0 : Keeps s0 s) :
    Keeps s0 (State.ctlOne s o i codes).1 := by
  unfold State.ctlOne
  repeat' first
    | with_reducible assumption
    | with_reducible apply State.ctlSave_keeps
    | with_reducible apply State.ctlPreempt_keeps
    | with_reducible apply State.ctlStart_keeps
    | with_reducible apply State.restoreTask_keeps
    | with_reducible apply State.stopTask_keeps
    | with_reducible exact Keeps.mk' (by assumption) rfl rfl rfl
    | split

theorem State.ctlResult_keeps {s0 : State} (s : State) (o : TaskOp) (r : Nat) (h0 : Keeps s0 s) :
    Keeps s0 (State.ctlResult s o r) := by
  unfold State.ctlResult
  repeat' first
    | with_reducible assumption
    | with_reducible apply State.put_keeps
    | with_reducible exact Keeps.mk' (by assumption) rfl rfl rfl
    | split

theorem State.ctlFailed_keeps {s0 : State} (s : State) (o : TaskOp) (num : Nat) (r : Nat) (h0 : Keeps s0 s) :
    Keeps s0 (State.ctlFailed s o num r) := by
  unfold State.ctlFailed
  repeat' first
    | with_reducible assumption
    | with_reducible apply State.raiseCtx_keeps
    | with_reducible exact Keeps.mk' (by assumption) rfl rfl rfl
    | split

theorem State.ctlApply_keeps {s0 : State} (s : State) (o : TaskOp) (codes : Nat) (h0 : Keeps s0 s) :
    Keeps s0 (State.ctlApply s o codes) := by
  unfold State.ctlApply
  repeat' first
    | with_reducible assumption
    | with_reducible apply State.ctlFailed_keeps
    | with_reducible apply State.ctlResult_keeps
    | with_reducible apply State.ctlOne_keeps
    | with_reducible apply State.thrUpdate_keeps
    | with_reducible exact Keeps.mk' (by assumption) rfl rfl rfl
    | (with_reducible refine Keeps.foldl (fun _ _ _ => ?_) _ ?_)
    | (with_reducible refine Keeps.foldlFst (fun _ _ _ => ?_) _ ?_)
    | split

theorem execTaskCtlEffect_keeps {s0 : State} (codes : BitVec 6) (s : State) (h0 : Keeps s0 s) :
    OutKeeps s0 (execTaskCtlEffect codes s) := by
  unfold execTaskCtlEffect
  repeat' first
    | with_reducible assumption
    | with_reducible apply State.clocked_keeps
    | with_reducible apply State.ctlApply_keeps
    | with_reducible exact Keeps.mk' (by assumption) rfl rfl rfl
    | with_reducible apply OutKeeps.next
    | with_reducible apply OutKeeps.fault
    | split

theorem execParkedTaskRestore_keeps {s0 : State} (core : CoreId) (slot : SlotId) (s : State) (h0 : Keeps s0 s) :
    OutKeeps s0 (execParkedTaskRestore core slot s) := by
  unfold execParkedTaskRestore
  repeat' first
    | with_reducible assumption
    | with_reducible apply State.clocked_keeps
    | with_reducible apply State.ctlFailed_keeps
    | with_reducible apply State.restoreTask_keeps
    | with_reducible exact Keeps.mk' (by assumption) rfl rfl rfl
    | (with_reducible refine Keeps.foldl (fun _ _ _ => ?_) _ ?_)
    | (with_reducible refine Keeps.foldlFst (fun _ _ _ => ?_) _ ?_)
    | with_reducible apply OutKeeps.next
    | with_reducible apply OutKeeps.fault
    | split

theorem taskCtlBody_keeps {s0 : State} (f : Nat) (x : Cx) (s : State) (h0 : Keeps s0 s) :
    ChkKeeps s0 (taskCtlBody f x s) := by
  unfold taskCtlBody
  repeat' first
    | with_reducible assumption
    | with_reducible exact Keeps.mk' (by assumption) rfl rfl rfl
    | with_reducible apply ChkKeeps.retire
    | with_reducible apply ChkKeeps.jump
    | with_reducible apply ChkKeeps.stay
    | with_reducible apply ChkKeeps.error
    | (with_reducible refine ChkKeeps.bind (fun _ => ?_))
    | split

theorem taskCtl_keeps {s0 : State} (f : Nat) (i : Issue) (s : State) (h0 : Keeps s0 s) :
    OutKeeps s0 (taskCtl f i s) := by
  unfold taskCtl
  repeat' first
    | with_reducible assumption
    | with_reducible apply taskCtlBody_keeps
    | with_reducible apply issue_keeps
    | with_reducible exact Keeps.mk' (by assumption) rfl rfl rfl
    | with_reducible apply OutKeeps.next
    | with_reducible apply OutKeeps.fault
    | split

theorem execTaskCtlStart_keeps {s0 : State} (i : Issue) (s : State) (h0 : Keeps s0 s) :
    OutKeeps s0 (execTaskCtlStart i s) := by
  unfold execTaskCtlStart
  repeat' first
    | with_reducible assumption
    | with_reducible apply taskCtl_keeps

theorem execTaskCtlStop_keeps {s0 : State} (i : Issue) (s : State) (h0 : Keeps s0 s) :
    OutKeeps s0 (execTaskCtlStop i s) := by
  unfold execTaskCtlStop
  repeat' first
    | with_reducible assumption
    | with_reducible apply taskCtl_keeps

theorem execTaskCtlPreempt_keeps {s0 : State} (i : Issue) (s : State) (h0 : Keeps s0 s) :
    OutKeeps s0 (execTaskCtlPreempt i s) := by
  unfold execTaskCtlPreempt
  repeat' first
    | with_reducible assumption
    | with_reducible apply taskCtl_keeps

theorem execTaskCtlSave_keeps {s0 : State} (i : Issue) (s : State) (h0 : Keeps s0 s) :
    OutKeeps s0 (execTaskCtlSave i s) := by
  unfold execTaskCtlSave
  repeat' first
    | with_reducible assumption
    | with_reducible apply taskCtl_keeps

theorem execTaskCtlRestore_keeps {s0 : State} (i : Issue) (s : State) (h0 : Keeps s0 s) :
    OutKeeps s0 (execTaskCtlRestore i s) := by
  unfold execTaskCtlRestore
  repeat' first
    | with_reducible assumption
    | with_reducible apply taskCtl_keeps

theorem State.synCmd_keeps {s0 : State} (s : State) (c : Nat) (func : Nat) (mask : Nat) (h0 : Keeps s0 s) :
    Keeps s0 (State.synCmd s c func mask) := by
  unfold State.synCmd
  repeat' first
    | with_reducible assumption
    | with_reducible apply State.put_keeps
    | with_reducible exact Keeps.mk' (by assumption) rfl rfl rfl
    | (intro x; refine Keeps.have_ (Q := Keeps s0 x) ?q ?h; (case' q => subst x); (case' h => (intro hx; clear_value x)))
    | (intro x; clear_value x)
    | split
    | (with_reducible refine Keeps.ofFst (by with_reducible assumption) ?_)
    | (with_reducible refine Keeps.ofOpt (by with_reducible assumption) ?_)
    | (with_reducible refine Keeps.ofSnd (by with_reducible assumption) ?_)
    | lift_lets

theorem State.synWrite_keeps {s0 : State} (s : State) (req : Requester) (c : Nat) (func : Nat) (mask : Nat) (h0 : Keeps s0 s) :
    Keeps s0 (State.synWrite s req c func mask) := by
  unfold State.synWrite
  repeat' first
    | with_reducible assumption
    | with_reducible apply State.synCmd_keeps
    | with_reducible apply State.write_keeps
    | with_reducible exact Keeps.mk' (by assumption) rfl rfl rfl
    | split
    | with_reducible apply_assumption
    | intro _

theorem execSynTskStart_keeps {s0 : State} (req : Requester) (c : CtxId) (mask : BitVec 16) (s : State) (h0 : Keeps s0 s) :
    OutKeeps s0 (execSynTskStart req c mask s) := by
  unfold execSynTskStart
  repeat' first
    | with_reducible assumption
    | with_reducible apply State.synWrite_keeps
    | with_reducible exact Keeps.mk' (by assumption) rfl rfl rfl
    | with_reducible apply OutKeeps.next

theorem execSynTskStop_keeps {s0 : State} (req : Requester) (c : CtxId) (mask : BitVec 16) (s : State) (h0 : Keeps s0 s) :
    OutKeeps s0 (execSynTskStop req c mask s) := by
  unfold execSynTskStop
  repeat' first
    | with_reducible assumption
    | with_reducible apply State.synWrite_keeps
    | with_reducible exact Keeps.mk' (by assumption) rfl rfl rfl
    | with_reducible apply OutKeeps.next

theorem execSynTskPreempt_keeps {s0 : State} (req : Requester) (c : CtxId) (mask : BitVec 16) (s : State) (h0 : Keeps s0 s) :
    OutKeeps s0 (execSynTskPreempt req c mask s) := by
  unfold execSynTskPreempt
  repeat' first
    | with_reducible assumption
    | with_reducible apply State.synWrite_keeps
    | with_reducible exact Keeps.mk' (by assumption) rfl rfl rfl
    | with_reducible apply OutKeeps.next

theorem execSynTskSave_keeps {s0 : State} (req : Requester) (c : CtxId) (mask : BitVec 16) (s : State) (h0 : Keeps s0 s) :
    OutKeeps s0 (execSynTskSave req c mask s) := by
  unfold execSynTskSave
  repeat' first
    | with_reducible assumption
    | with_reducible apply State.synWrite_keeps
    | with_reducible exact Keeps.mk' (by assumption) rfl rfl rfl
    | with_reducible apply OutKeeps.next

theorem execSynTskRestore_keeps {s0 : State} (req : Requester) (c : CtxId) (mask : BitVec 16) (s : State) (h0 : Keeps s0 s) :
    OutKeeps s0 (execSynTskRestore req c mask s) := by
  unfold execSynTskRestore
  repeat' first
    | with_reducible assumption
    | with_reducible apply State.synWrite_keeps
    | with_reducible exact Keeps.mk' (by assumption) rfl rfl rfl
    | with_reducible apply OutKeeps.next

end Sys2Proof.Machine
end

