-- ==== Sys2Proof/Laws/KeepsStaging.lean ====
section
/-!
SUPPORT. Every function of Machine/Staging.lean keeps the queue and the canonical forms.
-/
namespace Sys2Proof.Machine
open Sys2Proof

theorem State.eccFound_keeps {s0 : State} (s : State) (mem unit off : Nat) (ue : Bool) (ctx : Nat) (write : Bool)
    (h0 : Keeps s0 s) : Keeps s0 (State.eccFound s mem unit off ue ctx write) := by
  unfold State.eccFound
  extract_lets o q s1 s2 part
  split
  · exact h0
  · split
    · exact State.bump_keeps _ _ _ h0
    · exact State.raise_keeps _ _ _ _ _ _ _ _ (State.bump_keeps _ _ _ (Keeps.mkMem h0 rfl rfl (Memory.setPoison_wf _ _)))

theorem execPatrolScrub_keeps {s0 : State} (f : EccFinding) (s : State) (h0 : Keeps s0 s) :
    OutKeeps s0 (execPatrolScrub f s) := by
  unfold execPatrolScrub
  repeat' first
    | with_reducible assumption
    | with_reducible apply State.clocked_keeps
    | with_reducible apply State.eccFound_keeps
    | with_reducible apply State.write_keeps
    | with_reducible apply UnitKind.unit_keeps
    | with_reducible exact Keeps.mk' (by assumption) rfl rfl rfl
    | with_reducible apply OutKeeps.next
    | with_reducible apply OutKeeps.fault
    | split

theorem execT2Lost_keeps {s0 : State} (m : ChanId) (s : State) (h0 : Keeps s0 s) :
    OutKeeps s0 (execT2Lost m s) := by
  unfold execT2Lost
  repeat' first
    | with_reducible assumption
    | with_reducible apply State.clocked_keeps
    | with_reducible apply State.put_keeps
    | with_reducible apply State.raiseMod_keeps
    | with_reducible exact Keeps.mk' (by assumption) rfl rfl rfl
    | with_reducible apply OutKeeps.next
    | with_reducible apply OutKeeps.fault
    | split

theorem State.requestT3_keeps {s0 : State} (s : State) (core : Nat) (c : Nat) (addrs : List Nat) (h0 : Keeps s0 s) :
    Keeps s0 (State.requestT3 s core c addrs) := by
  unfold State.requestT3
  repeat' first
    | with_reducible assumption
    | with_reducible apply State.askEngine_keeps
    | with_reducible exact Keeps.mk' (by assumption) rfl rfl rfl
    | (with_reducible refine Keeps.foldl (fun _ _ _ => ?_) _ ?_)
    | (with_reducible refine Keeps.foldlFst (fun _ _ _ => ?_) _ ?_)
    | split

theorem State.noteStage_keeps {s0 : State} (s : State) (core : Nat) (slot : Nat) (h0 : Keeps s0 s) :
    Keeps s0 (State.noteStage s core slot) := by
  unfold State.noteStage
  repeat' first
    | with_reducible assumption
    | with_reducible apply Next.state_keeps
    | with_reducible apply State.setTask_keeps
    | with_reducible exact Keeps.mk' (by assumption) rfl rfl rfl
    | split

theorem State.noteCore_keeps {s0 : State} (s : State) (core : Nat) (h0 : Keeps s0 s) :
    Keeps s0 (State.noteCore s core) := by
  unfold State.noteCore
  repeat' first
    | with_reducible assumption
    | with_reducible apply State.noteStage_keeps
    | with_reducible exact Keeps.mk' (by assumption) rfl rfl rfl
    | (with_reducible refine Keeps.foldl (fun _ _ _ => ?_) _ ?_)

theorem State.reserveHead_keeps {s0 : State} (s : State) (core : Nat) (h0 : Keeps s0 s) :
    Keeps s0 (State.reserveHead s core) := by
  unfold State.reserveHead
  repeat' first
    | with_reducible assumption
    | with_reducible apply Next.state_keeps
    | with_reducible apply State.leaveStage_keeps
    | with_reducible apply State.requestT3_keeps
    | with_reducible apply State.setPool_keeps
    | with_reducible exact Keeps.mk' (by assumption) rfl rfl rfl
    | (intro x; refine Keeps.have_ (Q := Keeps s0 x) ?q ?h; (case' q => subst x); (case' h => (intro hx; clear_value x)))
    | (intro x; clear_value x)
    | split
    | (with_reducible refine Keeps.ofFst (by with_reducible assumption) ?_)
    | (with_reducible refine Keeps.ofOpt (by with_reducible assumption) ?_)
    | (with_reducible refine Keeps.ofSnd (by with_reducible assumption) ?_)
    | lift_lets

theorem State.reserveAhead_keeps {s0 : State} (s : State) (core : Nat) (c : Nat) (h0 : Keeps s0 s) :
    Keeps s0 (State.reserveAhead s core c) := by
  unfold State.reserveAhead
  repeat' first
    | with_reducible assumption
    | with_reducible apply State.requestT3_keeps
    | with_reducible apply State.setPool_keeps
    | with_reducible exact Keeps.mk' (by assumption) rfl rfl rfl
    | (intro x; refine Keeps.have_ (Q := Keeps s0 x) ?q ?h; (case' q => subst x); (case' h => (intro hx; clear_value x)))
    | (intro x; clear_value x)
    | split
    | (with_reducible refine Keeps.ofFst (by with_reducible assumption) ?_)
    | (with_reducible refine Keeps.ofOpt (by with_reducible assumption) ?_)
    | (with_reducible refine Keeps.ofSnd (by with_reducible assumption) ?_)
    | lift_lets

theorem State.landCopy_keeps {s0 : State} (s : State) (core : Nat) (c : Nat) (a : Nat) (data : List Byte) (pz : List Nat) (h0 : Keeps s0 s) :
    Keeps s0 (State.landCopy s core c a data pz) := by
  unfold State.landCopy
  repeat' first
    | with_reducible assumption
    | with_reducible apply State.setPool_keeps
    | with_reducible apply State.twrite_keeps
    | with_reducible exact Keeps.mk' (by assumption) rfl rfl rfl
    | (intro x; clear_value x)
    | split
    | (with_reducible refine Keeps.ofFst (by with_reducible assumption) ?_)
    | (with_reducible refine Keeps.ofOpt (by with_reducible assumption) ?_)
    | (with_reducible refine Keeps.ofSnd (by with_reducible assumption) ?_)
    | lift_lets

theorem State.t2Deliver_keeps {s0 : State} (s : State) (c : Nat) (o : Nat) (found : List EccAt) (h0 : Keeps s0 s) :
    Keeps s0 (State.t2Deliver s c o found).1 := by
  unfold State.t2Deliver
  extract_lets p
  split
  extract_lets s1 s2
  have h1 : Keeps s0 s1 := by
    subst s1
    split
    · exact h0
    · exact Keeps.foldl (fun _ _ ht => State.eccFound_keeps _ _ _ _ _ _ _ ht) _ h0
  have h2 : Keeps s0 s2 := by
    subst s2
    split
    · exact h1
    · exact Keeps.mkOf h1
  exact h2

theorem State.endStage_keeps {s0 : State} (s : State) (core : Nat) (c : Nat) (a : Nat) (h0 : Keeps s0 s) :
    Keeps s0 (State.endStage s core c a) := by
  unfold State.endStage
  repeat' first
    | with_reducible assumption
    | with_reducible apply Next.state_keeps
    | with_reducible apply State.endWait_keeps
    | with_reducible apply State.modTask_keeps
    | with_reducible exact Keeps.mk' (by assumption) rfl rfl rfl
    | (with_reducible refine Keeps.foldl (fun _ _ _ => ?_) _ ?_)
    | (with_reducible refine Keeps.foldlFst (fun _ _ _ => ?_) _ ?_)
    | split

theorem State.stageAnswer_keeps {s0 : State} (s : State) (core : Nat) (c : Nat) (a : Nat) (reply : Reply) (h0 : Keeps s0 s) :
    Keeps s0 (State.stageAnswer s core c a reply) := by
  unfold State.stageAnswer
  repeat' first
    | with_reducible assumption
    | with_reducible apply State.endStage_keeps
    | with_reducible apply State.faultCtx_keeps
    | with_reducible apply State.landCopy_keeps
    | with_reducible exact Keeps.mk' (by assumption) rfl rfl rfl
    | split

theorem State.t2Ack_keeps {s0 : State} (s : State) (p tile : Nat) (h0 : Keeps s0 s) : Keeps s0 (State.t2Ack s p tile) := by
  unfold State.t2Ack
  split
  · exact h0
  · exact Keeps.mkMem h0 rfl rfl id

theorem State.engineWrite_keeps {s0 : State} (s : State) (c : Nat) (a : Nat) (bs : List Byte) (pz : List Nat) (h0 : Keeps s0 s) :
    OptKeeps s0 (State.engineWrite s c a bs pz) := by
  unfold State.engineWrite
  repeat' first
    | with_reducible assumption
    | with_reducible apply State.t2Write_keeps
    | with_reducible apply State.twrite_keeps
    | with_reducible exact Keeps.mk' (by assumption) rfl rfl rfl
    | with_reducible apply OptKeeps.some
    | with_reducible apply OptKeeps.none
    | split

theorem State.migRingCtrl_keeps {s0 : State} (s : State) (req : Requester) (c : Nat) (v : Nat) (h0 : Keeps s0 s) :
    Keeps s0 (State.migRingCtrl s req c v) := by
  unfold State.migRingCtrl
  repeat' first
    | with_reducible assumption
    | with_reducible apply State.migAbort_keeps
    | with_reducible apply State.misuse_keeps
    | with_reducible apply State.put_keeps
    | with_reducible exact Keeps.mk' (by assumption) rfl rfl rfl
    | (intro x; refine Keeps.have_ (Q := Keeps s0 x) ?q ?h; (case' q => subst x); (case' h => (intro hx; clear_value x)))
    | (intro x; clear_value x)
    | split
    | lift_lets

theorem execMigRingEnable_keeps {s0 : State} (req : Requester) (c : CtxId) (v : BitVec 32) (s : State) (h0 : Keeps s0 s) :
    OutKeeps s0 (execMigRingEnable req c v s) := by
  unfold execMigRingEnable
  repeat' first
    | with_reducible assumption
    | with_reducible apply State.migRingCtrl_keeps
    | with_reducible apply State.write_keeps
    | with_reducible exact Keeps.mk' (by assumption) rfl rfl rfl
    | with_reducible apply OutKeeps.next
    | with_reducible apply OutKeeps.fault
    | split
    | with_reducible apply_assumption
    | intro _

theorem State.migTail_keeps {s0 : State} (s : State) (c : Nat) (v : Nat) (h0 : Keeps s0 s) :
    Keeps s0 (State.migTail s c v) := by
  unfold State.migTail
  repeat' first
    | with_reducible assumption
    | with_reducible apply State.put_keeps

theorem execMigRingTailWrite_keeps {s0 : State} (req : Requester) (c : CtxId) (v : BitVec 32) (s : State) (h0 : Keeps s0 s) :
    OutKeeps s0 (execMigRingTailWrite req c v s) := by
  unfold execMigRingTailWrite
  repeat' first
    | with_reducible assumption
    | with_reducible apply State.migTail_keeps
    | with_reducible apply State.write_keeps
    | with_reducible exact Keeps.mk' (by assumption) rfl rfl rfl
    | with_reducible apply OutKeeps.next
    | with_reducible apply OutKeeps.fault
    | split
    | with_reducible apply_assumption
    | intro _

theorem State.migRead_keeps {s0 : State} (s : State) (c src : Nat) (reply : Reply) (h0 : Keeps s0 s) :
    Keeps s0 (State.migRead s c src reply).1 := by
  unfold State.migRead
  split
  · split
    · exact State.readGlobal_keeps _ _ _ _ _ h0
    · exact h0
  all_goals exact h0

theorem State.migMove_keeps {s0 : State} (s : State) (c src dst : Nat) (reply : Reply) (h0 : Keeps s0 s) :
    Keeps s0 (State.migMove s c src dst reply).state := by
  have hr := State.migRead_keeps s c src reply h0
  unfold State.migMove
  split
  · next e => exact Keeps.ofFst e hr
  · next t bs pz e =>
    have hd : Keeps s0 { t with draws := t.draws + 1 } := Keeps.mkOf (Keeps.ofFst e hr)
    dsimp only
    generalize ({ t with draws := t.draws + 1 } : State) = u at hd ⊢
    have hw : ∀ v, u.engineWrite c dst bs pz = some v → Keeps s0 v := fun v hv => State.engineWrite_keeps _ _ _ _ _ hd v hv
    have hg : ∀ g, Keeps s0 (u.writeGlobal c g bs reply).1 := fun g => State.writeGlobal_keeps _ _ _ _ _ hd
    split
    · split
      · exact hd
      · split
        · exact hd
        · split
          · next e => exact Keeps.ofFst e (hg _)
          · next e => exact Keeps.ofFst e (hg _)
    · split
      · next hv => exact hw _ hv
      · exact hd
    · split
      · next hv => exact hw _ hv
      · exact hd
    · split
      · next hv => exact hw _ hv
      · exact hd
    · exact hd

theorem State.migGo_keeps {s0 : State} (c : Nat) (cmd : MigCmd) : ∀ (n : Nat) (replies : List Reply) (r : MigRun) (s : State),
    Keeps s0 s → Keeps s0 (State.migGo c cmd n replies r s) := by
  intro n
  induction n with
  | zero =>
    intro replies r s h0
    unfold State.migGo
    split
    · split
      · exact Keeps.mkOf h0
      · exact State.migEnd_keeps _ _ _ _ _ h0
    · exact Keeps.mkOf h0
  | succ n ih =>
    intro replies r s h0
    unfold State.migGo
    split
    · split
      · exact Keeps.mkOf h0
      · exact State.migEnd_keeps _ _ _ _ _ h0
    · split
      · contradiction
      · next e =>
        cases e
        split
        · exact State.migEnd_keeps _ _ _ _ _ (State.netUnreach_keeps _ _ _ _ h0)
        · have hm := State.migMove_keeps s c (cmd.src + 4096 * r.done) (cmd.dst + 4096 * r.done) (replies.headD (.ok [])) h0
          split
          · next e => rw [e] at hm; exact State.migEnd_keeps _ _ _ _ _ hm
          · next e => rw [e] at hm; exact State.faultCtx_keeps _ _ _ _ (State.raiseCtx_keeps _ _ _ _ _ _ _ hm)
          · next e => rw [e] at hm; exact ih _ _ _ hm

theorem State.migCopy_keeps {s0 : State} (s : State) (c : Nat) (n : Nat) (replies : List Reply) (h0 : Keeps s0 s) :
    Keeps s0 (State.migCopy s c n replies) := by
  unfold State.migCopy
  repeat' first
    | with_reducible assumption
    | with_reducible apply State.migGo_keeps
    | with_reducible apply State.migEnd_keeps
    | with_reducible apply State.put_keeps
    | with_reducible exact Keeps.mk' (by assumption) rfl rfl rfl
    | split

theorem State.migDropRange_keeps {s0 : State} (s : State) (c : Nat) (a : Nat) (n : Nat) (h0 : Keeps s0 s) :
    Keeps s0 (State.migDropRange s c a n) := by
  unfold State.migDropRange
  repeat' first
    | with_reducible assumption
    | with_reducible apply State.dropCopies_keeps
    | with_reducible exact Keeps.mk' (by assumption) rfl rfl rfl
    | (with_reducible refine Keeps.foldl (fun _ _ _ => ?_) _ ?_)

theorem execMigDrop_keeps {s0 : State} (c : CtxId) (s : State) (h0 : Keeps s0 s) :
    OutKeeps s0 (execMigDrop c s) := by
  unfold execMigDrop
  repeat' first
    | with_reducible assumption
    | with_reducible apply State.clocked_keeps
    | with_reducible apply State.migDropRange_keeps
    | with_reducible apply State.migEnd_keeps
    | with_reducible exact Keeps.mk' (by assumption) rfl rfl rfl
    | with_reducible apply OutKeeps.next
    | with_reducible apply OutKeeps.fault
    | split

theorem execMigFence_keeps {s0 : State} (c : CtxId) (s : State) (h0 : Keeps s0 s) :
    OutKeeps s0 (execMigFence c s) := by
  unfold execMigFence
  repeat' first
    | with_reducible assumption
    | with_reducible apply State.clocked_keeps
    | with_reducible apply State.migEnd_keeps
    | with_reducible exact Keeps.mk' (by assumption) rfl rfl rfl
    | with_reducible apply OutKeeps.next
    | with_reducible apply OutKeeps.fault
    | split

theorem State.migClear_keeps {s0 : State} (s : State) (c : Nat) (h0 : Keeps s0 s) :
    Keeps s0 (State.migClear s c) := by
  unfold State.migClear
  repeat' first
    | with_reducible assumption
    | with_reducible apply State.clear64_keeps
    | with_reducible apply State.put_keeps

theorem execMigCntClear_keeps {s0 : State} (req : Requester) (c : CtxId) (s : State) (h0 : Keeps s0 s) :
    OutKeeps s0 (execMigCntClear req c s) := by
  unfold execMigCntClear
  repeat' first
    | with_reducible assumption
    | with_reducible apply State.migClear_keeps
    | with_reducible apply State.write_keeps
    | with_reducible exact Keeps.mk' (by assumption) rfl rfl rfl
    | with_reducible apply OutKeeps.next
    | with_reducible apply OutKeeps.fault
    | split
    | with_reducible apply_assumption
    | intro _

theorem State.migErrClear_keeps {s0 : State} (s : State) (h0 : Keeps s0 s) :
    Keeps s0 (State.migErrClear s) := by
  unfold State.migErrClear
  repeat' first
    | with_reducible assumption
    | with_reducible apply State.clearAll_keeps

theorem execMigErrClear_keeps {s0 : State} (req : Requester) (s : State) (h0 : Keeps s0 s) :
    OutKeeps s0 (execMigErrClear req s) := by
  unfold execMigErrClear
  repeat' first
    | with_reducible assumption
    | with_reducible apply State.migErrClear_keeps
    | with_reducible apply State.write_keeps
    | with_reducible exact Keeps.mk' (by assumption) rfl rfl rfl
    | with_reducible apply OutKeeps.next

end Sys2Proof.Machine
end

