-- ==== Sys2Proof/Laws/KeepsManifest.lean ====
section
/-!
SUPPORT. Every function of Machine/Manifest.lean keeps the queue and the canonical forms.
-/
namespace Sys2Proof.Machine
open Sys2Proof

theorem State.lvrWrite_keeps {s0 : State} (s : State) (c : Nat) (a : Nat) (bs : List Byte) (pz : Nat → Bool) (h0 : Keeps s0 s) :
    Keeps s0 (State.lvrWrite s c a bs pz).1 := by
  unfold State.lvrWrite
  repeat' first
    | with_reducible assumption
    | with_reducible apply State.t2Ack_keeps
    | with_reducible apply State.t2Write_keeps
    | with_reducible apply State.twrite_keeps
    | with_reducible exact Keeps.mk' (by assumption) rfl rfl rfl
    | (with_reducible refine Keeps.foldl (fun _ _ _ => ?_) _ ?_)
    | (with_reducible refine Keeps.foldlFst (fun _ _ _ => ?_) _ ?_)
    | (intro x; clear_value x)
    | split
    | (with_reducible refine Keeps.ofFst (by with_reducible assumption) ?_)
    | (with_reducible refine Keeps.ofOpt (by with_reducible assumption) ?_)
    | (with_reducible refine Keeps.ofSnd (by with_reducible assumption) ?_)
    | lift_lets

end Sys2Proof.Machine
end

