-- ==== Sys2Proof/Laws/KeepsLouvre.lean ====
section
/-!
SUPPORT. Every function of Machine/Louvre.lean keeps the queue and the canonical forms.
-/
namespace Sys2Proof.Machine
open Sys2Proof

theorem State.lvrDescCtrl_keeps {s0 : State} (s : State) (req : Requester) (c : Nat) (v : Nat) (h0 : Keeps s0 s) :
    Keeps s0 (State.lvrDescCtrl s req c v) := by
  unfold State.lvrDescCtrl
  dsimp only
  repeat' first
    | with_reducible assumption
    | with_reducible apply State.lvrAbort_keeps
    | with_reducible apply State.setLvr_keeps
    | with_reducible apply State.misuse_keeps
    | with_reducible apply State.put_keeps
    | with_reducible exact Keeps.mk' (by assumption) rfl rfl rfl
    | split

theorem execLvrDescEnable_keeps {s0 : State} (req : Requester) (c : CtxId) (v : BitVec 32) (s : State) (h0 : Keeps s0 s) :
    OutKeeps s0 (execLvrDescEnable req c v s) := by
  unfold execLvrDescEnable
  repeat' first
    | with_reducible assumption
    | with_reducible apply State.lvrDescCtrl_keeps
    | with_reducible apply State.write_keeps
    | with_reducible exact Keeps.mk' (by assumption) rfl rfl rfl
    | with_reducible apply OutKeeps.next
    | with_reducible apply OutKeeps.fault
    | split
    | with_reducible apply_assumption
    | intro _

theorem State.lvrTail_keeps {s0 : State} (s : State) (c : Nat) (v : Nat) (h0 : Keeps s0 s) :
    Keeps s0 (State.lvrTail s c v) := by
  unfold State.lvrTail
  repeat' first
    | with_reducible assumption
    | with_reducible apply State.put_keeps

theorem execLvrDescTailWrite_keeps {s0 : State} (req : Requester) (c : CtxId) (v : BitVec 32) (s : State) (h0 : Keeps s0 s) :
    OutKeeps s0 (execLvrDescTailWrite req c v s) := by
  unfold execLvrDescTailWrite
  repeat' first
    | with_reducible assumption
    | with_reducible apply State.lvrTail_keeps
    | with_reducible apply State.write_keeps
    | with_reducible exact Keeps.mk' (by assumption) rfl rfl rfl
    | with_reducible apply OutKeeps.next
    | with_reducible apply OutKeeps.fault
    | split
    | with_reducible apply_assumption
    | intro _

theorem State.lvrTake_keeps {s0 : State} (s : State) (c : Nat) (ring : Nat) (h0 : Keeps s0 s) :
    Keeps s0 (State.lvrTake s c ring) := by
  unfold State.lvrTake
  repeat' first
    | with_reducible assumption
    | with_reducible apply State.setLvr_keeps
    | with_reducible exact Keeps.mk' (by assumption) rfl rfl rfl
    | (intro x; clear_value x)
    | split
    | lift_lets

theorem State.sigFail_keeps {s0 : State} (s : State) (c : Nat) (ring : Nat) (key : Nat) (kind : Nat) (h0 : Keeps s0 s) :
    Keeps s0 (State.sigFail s c ring key kind) := by
  unfold State.sigFail
  repeat' first
    | with_reducible assumption
    | with_reducible apply State.raiseCtx_keeps
    | with_reducible apply State.bump_keeps

theorem State.takeManifest_keeps {s0 : State} (s : State) (c : Nat) (ring : Nat) (man : Reply) (h0 : Keeps s0 s) :
    Keeps s0 (State.takeManifest s c ring man).1 := by
  unfold State.takeManifest
  dsimp only
  repeat' first
    | with_reducible assumption
    | with_reducible apply State.sigFail_keeps
    | with_reducible exact Keeps.mk' (by assumption) rfl rfl rfl
    | split

theorem State.askJob_keeps {s0 : State} (c : Nat) (r : State × LvrJob) (page : Bool) (i : Nat) (h0 : Keeps s0 r.1) :
    Keeps s0 (State.askJob c r page i).1 := by
  unfold State.askJob
  repeat' first
    | with_reducible assumption
    | with_reducible apply State.askEngine_keeps

theorem State.askPages_keeps {s0 : State} (s : State) (c : Nat) (j : LvrJob) (h0 : Keeps s0 s) :
    Keeps s0 (State.askPages s c j).1 := by
  unfold State.askPages
  repeat' first
    | with_reducible assumption
    | with_reducible apply State.askJob_keeps
    | with_reducible exact Keeps.mk' (by assumption) rfl rfl rfl
    | (with_reducible refine Keeps.foldl (fun _ _ _ => ?_) _ ?_)
    | (with_reducible refine Keeps.foldlFst (fun _ _ _ => ?_) _ ?_)

theorem State.askChunks_keeps {s0 : State} (s : State) (c : Nat) (j : LvrJob) (page : Nat) (h0 : Keeps s0 s) :
    Keeps s0 (State.askChunks s c j page).1 := by
  unfold State.askChunks
  repeat' first
    | with_reducible assumption
    | with_reducible apply State.askJob_keeps
    | with_reducible exact Keeps.mk' (by assumption) rfl rfl rfl
    | (with_reducible refine Keeps.foldl (fun _ _ _ => ?_) _ ?_)
    | (with_reducible refine Keeps.foldlFst (fun _ _ _ => ?_) _ ?_)

theorem State.writePlace_keeps {s0 : State} (s : State) (c : Nat) (t : TensorEnt) (h0 : Keeps s0 s) :
    Keeps s0 (State.writePlace s c t) := by
  have e : State.writePlace = State.writePlace := rfl
  conv at e => rhs; delta State.writePlace
  rw [e]
  clear e
  dsimp only
  apply State.lvrWrite_keeps
  apply State.lvrWrite_keeps
  exact h0

theorem State.loadDone_keeps {s0 : State} (s : State) (c : Nat) (j : LvrJob) (h0 : Keeps s0 s) :
    Keeps s0 (State.loadDone s c j) := by
  unfold State.loadDone
  repeat' first
    | with_reducible assumption
    | with_reducible apply State.writePlace_keeps
    | with_reducible apply State.lvrWrite_keeps
    | with_reducible apply State.lvrEnd_keeps
    | with_reducible apply State.setLvr_keeps
    | with_reducible apply State.put64_keeps
    | with_reducible exact Keeps.mk' (by assumption) rfl rfl rfl
    | (with_reducible refine Keeps.foldl (fun _ _ _ => ?_) _ ?_)

theorem State.loadGo_keeps {s0 : State} (s : State) (c : Nat) (j : LvrJob) (h0 : Keeps s0 s) :
    Keeps s0 (State.loadGo s c j) := by
  unfold State.loadGo
  repeat' first
    | with_reducible assumption
    | with_reducible apply State.loadDone_keeps
    | with_reducible apply State.setLvr_keeps
    | with_reducible exact Keeps.mk' (by assumption) rfl rfl rfl
    | split

theorem State.loadEnd_keeps {s0 : State} (s : State) (c : Nat) (j : LvrJob) (status : Nat) (h0 : Keeps s0 s) :
    Keeps s0 (State.loadEnd s c j status) := by
  unfold State.loadEnd
  repeat' first
    | with_reducible assumption
    | with_reducible apply State.dropReads_keeps
    | with_reducible apply State.lvrEnd_keeps
    | with_reducible apply State.setLvr_keeps

theorem State.placeChunk_keeps {s0 : State} (s : State) (c : Nat) (i : Nat) (data : List Byte) (t : TensorEnt) (addrs : List Nat) (h0 : Keeps s0 s) :
    Keeps s0 (State.placeChunk s c i data t addrs).1 := by
  unfold State.placeChunk
  repeat' first
    | with_reducible assumption
    | with_reducible apply State.lvrWrite_keeps
    | with_reducible exact Keeps.mk' (by assumption) rfl rfl rfl
    | (with_reducible refine Keeps.foldl (fun _ _ _ => ?_) _ ?_)
    | (with_reducible refine Keeps.foldlFst (fun _ _ _ => ?_) _ ?_)
    | (intro x; clear_value x)
    | split
    | lift_lets

theorem State.loadChunk_keeps {s0 : State} (s : State) (c : Nat) (i : Nat) (data : List Byte) (j : LvrJob) (h0 : Keeps s0 s) :
    Keeps s0 (State.loadChunk s c i data j) := by
  unfold State.loadChunk
  dsimp only
  repeat' first
    | with_reducible assumption
    | with_reducible apply State.loadEnd_keeps
    | with_reducible apply State.loadGo_keeps
    | with_reducible apply State.netUnreach_keeps
    | with_reducible apply State.placeChunk_keeps
    | with_reducible apply State.wrap64_keeps
    | with_reducible exact Keeps.mk' (by assumption) rfl rfl rfl
    | (with_reducible refine Keeps.foldl (fun _ _ _ => ?_) _ ?_)
    | (with_reducible refine Keeps.foldlFst (fun _ _ _ => ?_) _ ?_)
    | split

theorem State.lvrStart_keeps {s0 : State} (s : State) (c : Nat) (ring : Nat) (d : LvrCmd) (phase : Nat) (h0 : Keeps s0 s) :
    Keeps s0 (State.lvrStart s c ring d phase) := by
  unfold State.lvrStart
  dsimp only
  repeat' first
    | with_reducible assumption
    | with_reducible apply State.askEngine_keeps
    | with_reducible apply State.lvrEnd_keeps
    | with_reducible apply State.lvrTake_keeps
    | with_reducible apply State.put_keeps
    | with_reducible apply State.setLvr_keeps
    | with_reducible exact Keeps.mk' (by assumption) rfl rfl rfl
    | split

theorem State.readRest_keeps {s0 : State} (s : State) (c : Nat) (d : LvrCmd) (r : Reply) (h0 : Keeps s0 s) :
    Keeps s0 (State.readRest s c d r) := by
  unfold State.readRest
  dsimp only
  repeat' first
    | with_reducible assumption
    | with_reducible apply Cx.emit_keeps
    | with_reducible apply State.emit_keeps
    | with_reducible exact Keeps.mk' (by assumption) rfl rfl rfl
    | split

theorem State.loadManifest_keeps {s0 : State} (s : State) (c : Nat) (ring : Nat) (d : LvrCmd) (man : Reply) (h0 : Keeps s0 s) :
    Keeps s0 (State.loadManifest s c ring d man) := by
  unfold State.loadManifest
  dsimp only
  repeat' first
    | with_reducible assumption
    | with_reducible apply State.askPages_keeps
    | with_reducible apply State.loadGo_keeps
    | with_reducible apply State.lvrEnd_keeps
    | with_reducible apply State.readRest_keeps
    | with_reducible apply State.setLvr_keeps
    | with_reducible apply State.takeManifest_keeps
    | with_reducible exact Keeps.mk' (by assumption) rfl rfl rfl
    | split
    | (with_reducible refine Keeps.ofFst (by with_reducible assumption) ?_)

theorem State.loadStart_keeps {s0 : State} (s : State) (c : Nat) (h0 : Keeps s0 s) :
    Keeps s0 (State.loadStart s c) := by
  unfold State.loadStart
  repeat' first
    | with_reducible assumption
    | with_reducible apply State.lvrStart_keeps
    | with_reducible exact Keeps.mk' (by assumption) rfl rfl rfl
    | split

theorem State.swapManifest_keeps {s0 : State} (s : State) (c : Nat) (ring : Nat) (d : LvrCmd) (man : Reply) (h0 : Keeps s0 s) :
    Keeps s0 (State.swapManifest s c ring d man) := by
  unfold State.swapManifest
  dsimp only
  repeat' first
    | with_reducible assumption
    | with_reducible apply State.askPages_keeps
    | with_reducible apply State.lvrEnd_keeps
    | with_reducible apply State.lvrWrite_keeps
    | with_reducible apply State.readRest_keeps
    | with_reducible apply State.setLvr_keeps
    | with_reducible apply State.takeManifest_keeps
    | with_reducible exact Keeps.mk' (by assumption) rfl rfl rfl
    | split
    | (with_reducible refine Keeps.ofFst (by with_reducible assumption) ?_)

theorem State.swapStart_keeps {s0 : State} (s : State) (c : Nat) (h0 : Keeps s0 s) :
    Keeps s0 (State.swapStart s c) := by
  unfold State.swapStart
  repeat' first
    | with_reducible assumption
    | with_reducible apply State.lvrStart_keeps
    | with_reducible exact Keeps.mk' (by assumption) rfl rfl rfl
    | split

theorem State.manifestAnswer_keeps {s0 : State} (s : State) (c : Nat) (ring : Nat) (man : Reply) (h0 : Keeps s0 s) :
    Keeps s0 (State.manifestAnswer s c ring man) := by
  unfold State.manifestAnswer
  repeat' first
    | with_reducible assumption
    | with_reducible apply State.loadManifest_keeps
    | with_reducible apply State.swapManifest_keeps
    | with_reducible exact Keeps.mk' (by assumption) rfl rfl rfl
    | (intro x; clear_value x)
    | split
    | lift_lets

theorem State.setSwap_keeps {s0 : State} (s : State) (c : Nat) (w : Swap) (h0 : Keeps s0 s) :
    Keeps s0 (State.setSwap s c w) := by
  unfold State.setSwap
  repeat' first
    | with_reducible assumption
    | with_reducible apply State.setLvr_keeps
    | with_reducible apply State.put_keeps

theorem State.swapRelease_keeps {s0 : State} (s : State) (c : Nat) (w : Swap) (status : Nat) (h0 : Keeps s0 s) :
    Keeps s0 (State.swapRelease s c w status) := by
  unfold State.swapRelease
  repeat' first
    | with_reducible assumption
    | with_reducible apply State.lvrEnd_keeps
    | with_reducible apply State.passThreshold_keeps
    | with_reducible apply State.put_keeps
    | with_reducible apply State.put64_keeps
    | with_reducible apply State.releaseAll_keeps
    | with_reducible apply State.setCtx_keeps
    | with_reducible apply State.setLvr_keeps
    | with_reducible apply State.setSwap_keeps
    | with_reducible exact Keeps.mk' (by assumption) rfl rfl rfl
    | split

theorem State.swapFail_keeps {s0 : State} (s : State) (c : Nat) (w : Swap) (status : Nat) (h0 : Keeps s0 s) :
    Keeps s0 (State.swapFail s c w status) := by
  unfold State.swapFail
  repeat' first
    | with_reducible assumption
    | with_reducible apply State.dropReads_keeps
    | with_reducible apply State.lvrEnd_keeps
    | with_reducible apply State.setLvr_keeps
    | with_reducible apply State.swapRelease_keeps
    | with_reducible exact Keeps.mk' (by assumption) rfl rfl rfl
    | split

theorem State.withdraw_keeps {s0 : State} (s : State) (k : Nat) (n : Nat) (h0 : Keeps s0 s) :
    Keeps s0 (State.withdraw s k n) := by
  unfold State.withdraw
  repeat' first
    | with_reducible assumption
    | with_reducible apply State.modEp_keeps
    | with_reducible exact Keeps.mk' (by assumption) rfl rfl rfl
    | (intro x; refine Keeps.have_ (Q := Keeps s0 x) ?q ?h; (case' q => subst x); (case' h => (intro hx; clear_value x)))
    | (intro x; clear_value x)
    | split
    | lift_lets

theorem State.startExchange_keeps {s0 : State} (s : State) (c : Nat) (w : Swap) (h0 : Keeps s0 s) :
    Keeps s0 (State.startExchange s c w) := by
  unfold State.startExchange
  repeat' first
    | with_reducible assumption
    | with_reducible apply State.withdraw_keeps
    | with_reducible apply State.setSwap_keeps
    | with_reducible exact Keeps.mk' (by assumption) rfl rfl rfl
    | (with_reducible refine Keeps.foldl (fun _ _ _ => ?_) _ ?_)
    | (with_reducible refine Keeps.foldlFst (fun _ _ _ => ?_) _ ?_)
    | split

theorem State.swapVerified_keeps {s0 : State} (s : State) (c : Nat) (w : Swap) (h0 : Keeps s0 s) :
    Keeps s0 (State.swapVerified s c w) := by
  unfold State.swapVerified
  repeat' first
    | with_reducible assumption
    | with_reducible apply State.startExchange_keeps
    | with_reducible apply State.setSwap_keeps
    | with_reducible exact Keeps.mk' (by assumption) rfl rfl rfl
    | split

theorem State.swapHold_keeps {s0 : State} (s : State) (c : Nat) (h0 : Keeps s0 s) :
    Keeps s0 (State.swapHold s c) := by
  unfold State.swapHold
  dsimp only
  repeat' first
    | with_reducible assumption
    | with_reducible apply State.startExchange_keeps
    | with_reducible apply State.setSwap_keeps
    | with_reducible apply State.setCtx_keeps
    | with_reducible apply State.put_keeps
    | with_reducible exact Keeps.mk' (by assumption) rfl rfl rfl
    | split

theorem execSwapHold_keeps {s0 : State} (c : CtxId) (s : State) (h0 : Keeps s0 s) :
    OutKeeps s0 (execSwapHold c s) := by
  unfold execSwapHold
  repeat' first
    | with_reducible assumption
    | with_reducible apply State.clocked_keeps
    | with_reducible apply State.swapHold_keeps
    | with_reducible exact Keeps.mk' (by assumption) rfl rfl rfl
    | with_reducible apply OutKeeps.next

theorem State.swapChunk_keeps {s0 : State} (s : State) (c : Nat) (i : Nat) (data : List Byte) (w : Swap) (h0 : Keeps s0 s) :
    Keeps s0 (State.swapChunk s c i data w) := by
  unfold State.swapChunk
  dsimp only
  repeat' first
    | with_reducible assumption
    | with_reducible apply State.netUnreach_keeps
    | with_reducible apply State.placeChunk_keeps
    | with_reducible apply State.setSwap_keeps
    | with_reducible apply State.swapFail_keeps
    | with_reducible apply State.swapVerified_keeps
    | with_reducible apply State.wrap64_keeps
    | with_reducible exact Keeps.mk' (by assumption) rfl rfl rfl
    | (with_reducible refine Keeps.foldl (fun _ _ _ => ?_) _ ?_)
    | (with_reducible refine Keeps.foldlFst (fun _ _ _ => ?_) _ ?_)
    | split

theorem State.exchange_keeps {s0 : State} (s : State) (c : Nat) (buf : Nat) (n : Nat) (addrs : List Nat) (h0 : Keeps s0 s) :
    Keeps s0 (State.exchange s c buf n addrs).1 := by
  unfold State.exchange
  repeat' first
    | with_reducible assumption
    | with_reducible apply State.lvrWrite_keeps
    | with_reducible exact Keeps.mk' (by assumption) rfl rfl rfl
    | (with_reducible refine Keeps.foldl (fun _ _ _ => ?_) _ ?_)
    | (with_reducible refine Keeps.foldlFst (fun _ _ _ => ?_) _ ?_)

theorem State.exchangeAll_keeps {s0 : State} (s : State) (c : Nat) (w : Swap) (h0 : Keeps s0 s) :
    Keeps s0 (State.exchangeAll s c w).1 := by
  unfold State.exchangeAll
  repeat' first
    | with_reducible assumption
    | with_reducible apply State.exchange_keeps
    | with_reducible exact Keeps.mk' (by assumption) rfl rfl rfl
    | (with_reducible refine Keeps.foldl (fun _ _ _ => ?_) _ ?_)
    | (with_reducible refine Keeps.foldlFst (fun _ _ _ => ?_) _ ?_)

theorem State.swapDone_keeps {s0 : State} (s : State) (c : Nat) (h0 : Keeps s0 s) :
    Keeps s0 (State.swapDone s c) := by
  unfold State.swapDone
  repeat' first
    | with_reducible assumption
    | with_reducible apply State.exchangeAll_keeps
    | with_reducible apply State.setSwap_keeps
    | with_reducible apply State.swapRelease_keeps
    | with_reducible exact Keeps.mk' (by assumption) rfl rfl rfl
    | split
    | (with_reducible refine Keeps.ofFst (by with_reducible assumption) ?_)

theorem execSwapExchangeDone_keeps {s0 : State} (c : CtxId) (s : State) (h0 : Keeps s0 s) :
    OutKeeps s0 (execSwapExchangeDone c s) := by
  unfold execSwapExchangeDone
  repeat' first
    | with_reducible assumption
    | with_reducible apply State.clocked_keeps
    | with_reducible apply State.swapDone_keeps
    | with_reducible exact Keeps.mk' (by assumption) rfl rfl rfl
    | with_reducible apply OutKeeps.next

theorem State.swapCmd_keeps {s0 : State} (s : State) (req : Requester) (c : Nat) (cmd : Nat) (h0 : Keeps s0 s) :
    Keeps s0 (State.swapCmd s req c cmd) := by
  unfold State.swapCmd
  repeat' first
    | with_reducible assumption
    | with_reducible apply State.swapRelease_keeps
    | with_reducible apply State.setSwap_keeps
    | with_reducible apply State.misuse_keeps
    | with_reducible apply State.misusePart_keeps
    | with_reducible exact Keeps.mk' (by assumption) rfl rfl rfl
    | split

theorem execSwapCommit_keeps {s0 : State} (req : Requester) (c : CtxId) (s : State) (h0 : Keeps s0 s) :
    OutKeeps s0 (execSwapCommit req c s) := by
  unfold execSwapCommit
  repeat' first
    | with_reducible assumption
    | with_reducible apply State.swapCmd_keeps
    | with_reducible apply State.write_keeps
    | with_reducible exact Keeps.mk' (by assumption) rfl rfl rfl
    | with_reducible apply OutKeeps.next
    | with_reducible apply OutKeeps.fault
    | split
    | with_reducible apply_assumption
    | intro _

theorem execSwapRollback_keeps {s0 : State} (req : Requester) (c : CtxId) (s : State) (h0 : Keeps s0 s) :
    OutKeeps s0 (execSwapRollback req c s) := by
  unfold execSwapRollback
  repeat' first
    | with_reducible assumption
    | with_reducible apply State.swapCmd_keeps
    | with_reducible apply State.write_keeps
    | with_reducible exact Keeps.mk' (by assumption) rfl rfl rfl
    | with_reducible apply OutKeeps.next
    | with_reducible apply OutKeeps.fault
    | split
    | with_reducible apply_assumption
    | intro _

theorem execSwapTimeout_keeps {s0 : State} (c : CtxId) (s : State) (h0 : Keeps s0 s) :
    OutKeeps s0 (execSwapTimeout c s) := by
  unfold execSwapTimeout
  repeat' first
    | with_reducible assumption
    | with_reducible apply State.clocked_keeps
    | with_reducible apply State.raiseCtx_keeps
    | with_reducible apply State.setSwap_keeps
    | with_reducible exact Keeps.mk' (by assumption) rfl rfl rfl
    | with_reducible apply OutKeeps.next
    | with_reducible apply OutKeeps.fault
    | split

theorem State.hashMiss_keeps {s0 : State} (s : State) (c : Nat) (i : Nat) (page : Bool) (ring : Nat) (n : Nat) (h0 : Keeps s0 s) :
    Keeps s0 (State.hashMiss s c i page ring n) := by
  unfold State.hashMiss
  repeat' first
    | with_reducible assumption
    | with_reducible apply State.raiseCtx_keeps
    | with_reducible apply State.wrap64_keeps
    | with_reducible apply State.bump_keeps
    | with_reducible exact Keeps.mk' (by assumption) rfl rfl rfl
    | split

theorem State.loadArrive_keeps {s0 : State} (s : State) (c : Nat) (page : Bool) (i : Nat) (reply : Reply) (h0 : Keeps s0 s) :
    Keeps s0 (State.loadArrive s c page i reply) := by
  unfold State.loadArrive
  repeat' first
    | with_reducible assumption
    | with_reducible apply State.askChunks_keeps
    | with_reducible apply State.askJob_keeps
    | with_reducible apply State.hashMiss_keeps
    | with_reducible apply State.loadChunk_keeps
    | with_reducible apply State.loadEnd_keeps
    | with_reducible apply State.setLvr_keeps
    | with_reducible exact Keeps.mk' (by assumption) rfl rfl rfl
    | split

theorem State.swapArrive_keeps {s0 : State} (s : State) (c : Nat) (page : Bool) (i : Nat) (reply : Reply) (h0 : Keeps s0 s) :
    Keeps s0 (State.swapArrive s c page i reply) := by
  unfold State.swapArrive
  repeat' first
    | with_reducible assumption
    | with_reducible apply State.askChunks_keeps
    | with_reducible apply State.askJob_keeps
    | with_reducible apply State.hashMiss_keeps
    | with_reducible apply State.setSwap_keeps
    | with_reducible apply State.swapChunk_keeps
    | with_reducible apply State.swapFail_keeps
    | with_reducible exact Keeps.mk' (by assumption) rfl rfl rfl
    | split

theorem State.askStream_keeps {s0 : State} (s : State) (c : Nat) (l : Lvr) (man : List Byte) (page : Bool) (i : Nat) (h0 : Keeps s0 s) :
    Keeps s0 (State.askStream s c l man page i) := by
  unfold State.askStream
  repeat' first
    | with_reducible assumption
    | with_reducible apply State.askEngine_keeps
    | with_reducible exact Keeps.mk' (by assumption) rfl rfl rfl
    | split

theorem State.streamArrive_keeps {s0 : State} (s : State) (c : Nat) (page : Bool) (i : Nat) (reply : Reply) (h0 : Keeps s0 s) :
    Keeps s0 (State.streamArrive s c page i reply) := by
  unfold State.streamArrive
  dsimp only
  repeat' first
    | with_reducible assumption
    | with_reducible apply State.askStream_keeps
    | with_reducible apply State.faultCtx_keeps
    | with_reducible apply State.hashMiss_keeps
    | with_reducible apply State.lvrWrite_keeps
    | with_reducible apply State.put_keeps
    | with_reducible apply State.setLvr_keeps
    | with_reducible apply State.wrap64_keeps
    | with_reducible exact Keeps.mk' (by assumption) rfl rfl rfl
    | split

theorem State.manifestTimeout_keeps {s0 : State} (s : State) (c : Nat) (op : Nat) (h0 : Keeps s0 s) :
    Keeps s0 (State.manifestTimeout s c op) := by
  unfold State.manifestTimeout
  repeat' first
    | with_reducible assumption
    | with_reducible apply State.dropReads_keeps
    | with_reducible apply State.lvrEnd_keeps
    | with_reducible apply State.setLvr_keeps
    | with_reducible exact Keeps.mk' (by assumption) rfl rfl rfl
    | split

theorem execLvrFetchTimeout_keeps {s0 : State} (c : CtxId) (swap : Bool) (s : State) (h0 : Keeps s0 s) :
    OutKeeps s0 (execLvrFetchTimeout c swap s) := by
  unfold execLvrFetchTimeout
  repeat' first
    | with_reducible assumption
    | with_reducible apply State.clocked_keeps
    | with_reducible apply State.loadEnd_keeps
    | with_reducible apply State.manifestTimeout_keeps
    | with_reducible apply State.swapFail_keeps
    | with_reducible exact Keeps.mk' (by assumption) rfl rfl rfl
    | with_reducible apply OutKeeps.next
    | with_reducible apply OutKeeps.fault
    | split

theorem State.sendChunks_keeps {s0 : State} (c : Nat) (d : LvrCmd) (ports : List Nat) : ∀ (b0 : List (Nat × Nat × Nat)) (b1 : List Reply) (b2 : List Byte) (b3 : State), Keeps s0 b3 → Keeps s0 (State.sendChunks c d ports b0 b1 b2 b3).1 := by
  intro b0
  induction b0 with
  | nil =>
    intros
    unfold State.sendChunks
    repeat' first
      | with_reducible assumption
  | cons y l ih =>
    intros
    unfold State.sendChunks
    repeat' first
      | with_reducible assumption
      | with_reducible apply ih
      | with_reducible apply Cx.emit_keeps
      | with_reducible apply State.emit_keeps
      | with_reducible exact Keeps.mk' (by assumption) rfl rfl rfl
      | (intro x; refine Keeps.have_ (Q := Keeps s0 x) ?q ?h; (case' q => subst x); (case' h => intro hx))
      | (intro x; skip)
      | split
      | (with_reducible refine Keeps.ofFst (by with_reducible assumption) ?_)
      | (with_reducible refine Keeps.ofOpt (by with_reducible assumption) ?_)
      | (with_reducible refine Keeps.ofSnd (by with_reducible assumption) ?_)
      | lift_lets

theorem State.lvrSent_keeps {s0 : State} (s : State) (c : Nat) (ring : Nat) (d : LvrCmd) (ports : List Nat) (n : Nat) (replies : List Reply) (h : List Byte) (h0 : Keeps s0 s) :
    Keeps s0 (State.lvrSent s c ring d ports n replies h) := by
  unfold State.lvrSent
  repeat' first
    | with_reducible assumption
    | with_reducible apply Cx.emit_keeps
    | with_reducible apply State.emit_keeps
    | with_reducible apply State.lvrEnd_keeps
    | with_reducible exact Keeps.mk' (by assumption) rfl rfl rfl
    | (intro x; refine Keeps.have_ (Q := Keeps s0 x) ?q ?h; (case' q => subst x); (case' h => (intro hx; clear_value x)))
    | (intro x; clear_value x)
    | split
    | (with_reducible refine Keeps.ofFst (by with_reducible assumption) ?_)
    | (with_reducible refine Keeps.ofOpt (by with_reducible assumption) ?_)
    | (with_reducible refine Keeps.ofSnd (by with_reducible assumption) ?_)
    | lift_lets

theorem State.lvrPoisoned_keeps {s0 : State} (s : State) (c : Nat) (ring : Nat) (n : Nat) (pz : List Nat) (h0 : Keeps s0 s) :
    Keeps s0 (State.lvrPoisoned s c ring n pz) := by
  unfold State.lvrPoisoned
  repeat' first
    | with_reducible assumption
    | with_reducible apply State.faultCtx_keeps
    | with_reducible apply State.lvrEnd_keeps
    | with_reducible apply State.raiseCtx_keeps

theorem State.lvrSend_keeps {s0 : State} (s : State) (c : Nat) (ring : Nat) (d : LvrCmd) (ports : List Nat) (chunks : List (Nat × Nat × Nat)) (replies : List Reply) (h0 : Keeps s0 s) :
    Keeps s0 (State.lvrSend s c ring d ports chunks replies) := by
  unfold State.lvrSend
  repeat' first
    | with_reducible assumption
    | with_reducible apply State.lvrPoisoned_keeps
    | with_reducible apply State.lvrSent_keeps
    | with_reducible apply State.sendChunks_keeps
    | with_reducible apply State.lvrEnd_keeps
    | with_reducible exact Keeps.mk' (by assumption) rfl rfl rfl
    | split
    | (with_reducible refine Keeps.ofFst (by with_reducible assumption) ?_)

theorem State.lvrWriteBack_keeps {s0 : State} (s : State) (c : Nat) (replies : List Reply) (h0 : Keeps s0 s) :
    Keeps s0 (State.lvrWriteBack s c replies) := by
  unfold State.lvrWriteBack
  repeat' first
    | with_reducible assumption
    | with_reducible apply State.lvrEnd_keeps
    | with_reducible apply State.lvrSend_keeps
    | with_reducible apply State.lvrTake_keeps
    | with_reducible exact Keeps.mk' (by assumption) rfl rfl rfl
    | (intro x; refine Keeps.have_ (Q := Keeps s0 x) ?q ?h; (case' q => subst x); (case' h => (intro hx; clear_value x)))
    | split
    | (with_reducible refine Keeps.ofFst (by with_reducible assumption) ?_)
    | (with_reducible refine Keeps.ofOpt (by with_reducible assumption) ?_)
    | (with_reducible refine Keeps.ofSnd (by with_reducible assumption) ?_)
    | lift_lets

theorem execLvrWriteBack_keeps {s0 : State} (c : CtxId) (replies : List Reply) (s : State) (h0 : Keeps s0 s) :
    OutKeeps s0 (execLvrWriteBack c replies s) := by
  unfold execLvrWriteBack
  repeat' first
    | with_reducible assumption
    | with_reducible apply State.clocked_keeps
    | with_reducible apply State.lvrWriteBack_keeps
    | with_reducible exact Keeps.mk' (by assumption) rfl rfl rfl
    | with_reducible apply OutKeeps.next

theorem execLvrFence_keeps {s0 : State} (c : CtxId) (s : State) (h0 : Keeps s0 s) :
    OutKeeps s0 (execLvrFence c s) := by
  unfold execLvrFence
  repeat' first
    | with_reducible assumption
    | with_reducible apply State.clocked_keeps
    | with_reducible apply State.lvrEnd_keeps
    | with_reducible apply State.lvrTake_keeps
    | with_reducible exact Keeps.mk' (by assumption) rfl rfl rfl
    | with_reducible apply OutKeeps.next
    | with_reducible apply OutKeeps.fault
    | (intro x; refine Keeps.have_ (Q := Keeps s0 x) ?q ?h; (case' q => subst x); (case' h => (intro hx; clear_value x)))
    | split
    | (with_reducible refine Keeps.ofFst (by with_reducible assumption) ?_)
    | (with_reducible refine Keeps.ofOpt (by with_reducible assumption) ?_)
    | (with_reducible refine Keeps.ofSnd (by with_reducible assumption) ?_)
    | lift_lets

theorem State.lvrClear_keeps {s0 : State} (s : State) (c : Nat) (h0 : Keeps s0 s) :
    Keeps s0 (State.lvrClear s c) := by
  unfold State.lvrClear
  repeat' first
    | with_reducible assumption
    | with_reducible apply State.clear64_keeps

theorem execLvrCntClear_keeps {s0 : State} (req : Requester) (c : CtxId) (s : State) (h0 : Keeps s0 s) :
    OutKeeps s0 (execLvrCntClear req c s) := by
  unfold execLvrCntClear
  repeat' first
    | with_reducible assumption
    | with_reducible apply State.lvrClear_keeps
    | with_reducible apply State.write_keeps
    | with_reducible exact Keeps.mk' (by assumption) rfl rfl rfl
    | with_reducible apply OutKeeps.next
    | with_reducible apply OutKeeps.fault
    | split
    | with_reducible apply_assumption
    | intro _

theorem State.lvrFailClear_keeps {s0 : State} (s : State) (h0 : Keeps s0 s) :
    Keeps s0 (State.lvrFailClear s) := by
  unfold State.lvrFailClear
  repeat' first
    | with_reducible assumption
    | with_reducible apply State.clearAll_keeps

theorem execLvrFailClear_keeps {s0 : State} (req : Requester) (s : State) (h0 : Keeps s0 s) :
    OutKeeps s0 (execLvrFailClear req s) := by
  unfold execLvrFailClear
  repeat' first
    | with_reducible assumption
    | with_reducible apply State.lvrFailClear_keeps
    | with_reducible apply State.write_keeps
    | with_reducible exact Keeps.mk' (by assumption) rfl rfl rfl
    | with_reducible apply OutKeeps.next

end Sys2Proof.Machine
end

