-- ==== Sys2Proof/Laws/KeepsVirbael.lean ====
section
/-!
SUPPORT. Every function of Machine/Virbael.lean keeps the queue and the canonical forms.
-/
namespace Sys2Proof.Machine
open Sys2Proof

theorem State.outcome_keeps {s0 : State} (s : State) (r : Req) (status : Nat) (h0 : Keeps s0 s) :
    Keeps s0 (State.outcome s r status) := by
  unfold State.outcome
  repeat' first
    | with_reducible assumption
    | with_reducible apply State.raiseCtx_keeps
    | with_reducible apply State.bump_keeps
    | with_reducible exact Keeps.mk' (by assumption) rfl rfl rfl
    | split

theorem State.answer_keeps {s0 : State} (s : State) (core : Nat) (slot : Nat) (num : Nat) (f : Task → Task) (h0 : Keeps s0 s) :
    Keeps s0 (State.answer s core slot num f) := by
  unfold State.answer
  repeat' first
    | with_reducible assumption
    | with_reducible apply Next.state_keeps
    | with_reducible apply State.setTask_keeps
    | with_reducible exact Keeps.mk' (by assumption) rfl rfl rfl
    | split

theorem State.answerLoad_keeps {s0 : State} (s : State) (core : Nat) (slot : Nat) (sd : Nat) (num : Nat) (status : Nat) (data : List Byte) (h0 : Keeps s0 s) :
    Keeps s0 (State.answerLoad s core slot sd num status data) := by
  unfold State.answerLoad
  repeat' first
    | with_reducible assumption
    | with_reducible apply State.answer_keeps
    | with_reducible exact Keeps.mk' (by assumption) rfl rfl rfl
    | split

theorem State.answerAtom_keeps {s0 : State} (s : State) (core : Nat) (slot : Nat) (sd : Nat) (func : Nat) (num : Nat) (status : Nat) (result : Nat) (h0 : Keeps s0 s) :
    Keeps s0 (State.answerAtom s core slot sd func num status result) := by
  unfold State.answerAtom
  repeat' first
    | with_reducible assumption
    | with_reducible apply State.answer_keeps

theorem State.answerLease_keeps {s0 : State} (s : State) (core : Nat) (slot : Nat) (sd : Nat) (num : Nat) (status : Nat) (result : Nat) (h0 : Keeps s0 s) :
    Keeps s0 (State.answerLease s core slot sd num status result) := by
  unfold State.answerLease
  repeat' first
    | with_reducible assumption
    | with_reducible apply State.answer_keeps

theorem State.keepLine_keeps {s0 : State} (s : State) (core : Nat) (c : Nat) (g : Nat) (data : List Byte) (pz : List Nat) (h0 : Keeps s0 s) :
    Keeps s0 (State.keepLine s core c g data pz) := by
  unfold State.keepLine
  repeat' first
    | with_reducible assumption
    | with_reducible apply State.landCopy_keeps
    | with_reducible apply State.setPool_keeps
    | with_reducible exact Keeps.mk' (by assumption) rfl rfl rfl
    | split

theorem State.invDrop_keeps {s0 : State} (s : State) (c : Nat) (g : Nat) (n : Nat) (h0 : Keeps s0 s) :
    Keeps s0 (State.invDrop s c g n) := by
  unfold State.invDrop
  repeat' first
    | with_reducible assumption
    | with_reducible apply State.dropCopies_keeps
    | with_reducible exact Keeps.mk' (by assumption) rfl rfl rfl
    | (with_reducible refine Keeps.foldl (fun _ _ _ => ?_) _ ?_)

theorem State.setLeases_keeps {s0 : State} (s : State) (c : Nat) (l : List Nat) (h0 : Keeps s0 s) :
    Keeps s0 (State.setLeases s c l) := by
  unfold State.setLeases
  repeat' first
    | with_reducible assumption
    | with_reducible exact Keeps.mk' (by assumption) rfl rfl rfl

theorem State.noteLease_keeps {s0 : State} (s : State) (c : Nat) (a : Nat) (h0 : Keeps s0 s) :
    Keeps s0 (State.noteLease s c a) := by
  unfold State.noteLease
  repeat' first
    | with_reducible assumption
    | with_reducible apply State.setLeases_keeps
    | with_reducible exact Keeps.mk' (by assumption) rfl rfl rfl
    | (intro x; clear_value x)
    | split
    | lift_lets

theorem State.heldLease_keeps {s0 : State} (s : State) (r : Req) (core : Nat) (slot : Nat) (expiry : Nat) (h0 : Keeps s0 s) :
    Keeps s0 (State.heldLease s r core slot expiry) := by
  unfold State.heldLease
  repeat' first
    | with_reducible assumption
    | with_reducible apply State.modReq_keeps
    | with_reducible apply State.dropReq_keeps
    | with_reducible apply Next.state_keeps
    | with_reducible apply State.taskWait_keeps
    | with_reducible apply State.setTask_keeps
    | with_reducible exact Keeps.mk' (by assumption) rfl rfl rfl
    | (intro x; refine Keeps.have_ (Q := Keeps s0 x) ?q ?h; (case' q => subst x); (case' h => (intro hx; clear_value x)))
    | split
    | (with_reducible refine Keeps.ofFst (by with_reducible assumption) ?_)
    | (with_reducible refine Keeps.ofOpt (by with_reducible assumption) ?_)
    | (with_reducible refine Keeps.ofSnd (by with_reducible assumption) ?_)
    | lift_lets

theorem State.engineAnswer_keeps {s0 : State} (s : State) (c : Nat) (e : EngineRead) (reply : Reply) (h0 : Keeps s0 s) :
    Keeps s0 (State.engineAnswer s c e reply) := by
  unfold State.engineAnswer
  repeat' first
    | with_reducible assumption
    | with_reducible apply State.loadArrive_keeps
    | with_reducible apply State.manifestAnswer_keeps
    | with_reducible apply State.stageAnswer_keeps
    | with_reducible apply State.streamArrive_keeps
    | with_reducible apply State.swapArrive_keeps
    | with_reducible exact Keeps.mk' (by assumption) rfl rfl rfl
    | split
    | (with_reducible refine Keeps.ofFst (by with_reducible assumption) ?_)
    | (with_reducible refine Keeps.ofOpt (by with_reducible assumption) ?_)
    | (with_reducible refine Keeps.ofSnd (by with_reducible assumption) ?_)

theorem State.finish_keeps {s0 : State} (s : State) (num : Nat) (status : Nat) (result : Nat) (data : List Byte) (h0 : Keeps s0 s) :
    Keeps s0 (State.finish s num status result data) := by
  unfold State.finish
  split
  · exact h0
  next r _ =>
  extract_lets s1 gone bytes keep g1 ga gr src
  have h1 : Keeps s0 s1 := State.outcome_keeps _ _ _ h0
  have hg : Keeps s0 gone := State.dropReq_keeps _ _ h1
  split
  · exact State.engineAnswer_keeps _ _ _ _ hg
  · exact State.answerLoad_keeps _ _ _ _ _ _ _ hg
  · extract_lets s2
    have hg1 : Keeps s0 g1 := Keeps.mkOf hg
    have h2 : Keeps s0 s2 := by
      subst s2
      split
      · exact State.keepLine_keeps _ _ _ _ _ _ hg1
      · exact hg1
    exact Keeps.foldl (fun _ _ ht => State.answerLoad_keeps _ _ _ _ _ _ _ ht) _ h2
  · exact State.answerAtom_keeps _ _ _ _ _ _ _ _ hg
  · split
    · exact State.heldLease_keeps _ _ _ _ _ h1
    · have hg1 : Keeps s0 ga := by
        subst ga
        split
        · exact State.noteLease_keeps _ _ _ hg
        · exact hg
      exact State.answerLease_keeps _ _ _ _ _ _ _ hg1
  · have hg1 : Keeps s0 gr := by
      subst gr
      split
      · exact State.setLeases_keeps _ _ _ hg
      · exact hg
    exact State.answerLease_keeps _ _ _ _ _ _ _ hg1
  · exact hg
  · exact hg
  · exact hg
  · exact Keeps.mkOf hg
  · exact Keeps.mkOf hg
  · exact hg

theorem State.sendReq_keeps {s0 : State} (s : State) (r : Req) (h0 : Keeps s0 s) :
    Keeps s0 (State.sendReq s r) := by
  unfold State.sendReq
  repeat' first
    | with_reducible assumption
    | with_reducible apply Cx.emit_keeps
    | with_reducible apply State.bump_keeps
    | with_reducible apply State.emit_keeps
    | with_reducible apply State.finish_keeps
    | with_reducible apply State.modReq_keeps
    | with_reducible apply State.trpSend_keeps
    | with_reducible exact Keeps.mk' (by assumption) rfl rfl rfl
    | (intro x; refine Keeps.have_ (Q := Keeps s0 x) ?q ?h; (case' q => subst x); (case' h => (intro hx; clear_value x)))
    | (intro x; clear_value x)
    | split
    | (with_reducible refine Keeps.ofFst (by with_reducible assumption) ?_)
    | (with_reducible refine Keeps.ofOpt (by with_reducible assumption) ?_)
    | (with_reducible refine Keeps.ofSnd (by with_reducible assumption) ?_)
    | lift_lets
    | intro _

theorem State.releaseLeases_keeps {s0 : State} (s : State) (h0 : Keeps s0 s) :
    Keeps s0 (State.releaseLeases s) := by
  unfold State.releaseLeases
  repeat' first
    | with_reducible assumption
    | with_reducible apply State.addReq_keeps
    | with_reducible apply State.closeFor_keeps
    | with_reducible apply State.giveUp_keeps
    | with_reducible apply State.setLeases_keeps
    | with_reducible exact Keeps.mk' (by assumption) rfl rfl rfl
    | (with_reducible refine Keeps.foldl (fun _ _ _ => ?_) _ ?_)
    | (with_reducible refine Keeps.foldlFst (fun _ _ _ => ?_) _ ?_)
    | (intro x; refine Keeps.have_ (Q := Keeps s0 x) ?q ?h; (case' q => subst x); (case' h => (intro hx; clear_value x)))
    | (intro x; clear_value x)
    | lift_lets
    | intro _

theorem State.sendReqs_keeps {s0 : State}  : ∀ (b0 : Nat) (b1 : State), Keeps s0 b1 → Keeps s0 (State.sendReqs b0 b1) := by
  intro b0
  induction b0 with
  | zero =>
    intros
    unfold State.sendReqs
    repeat' first
      | with_reducible assumption
  | succ n ih =>
    intros
    unfold State.sendReqs
    repeat' first
      | with_reducible assumption
      | with_reducible apply ih
      | with_reducible apply State.sendReq_keeps
      | with_reducible exact Keeps.mk' (by assumption) rfl rfl rfl
      | split

theorem State.collFlush_keeps {s0 : State} (s : State) (h0 : Keeps s0 s) :
    Keeps s0 (State.collFlush s) := by
  unfold State.collFlush
  repeat' first
    | with_reducible assumption
    | with_reducible apply State.trpSend_keeps
    | with_reducible exact Keeps.mk' (by assumption) rfl rfl rfl
    | (with_reducible refine Keeps.foldl (fun _ _ _ => ?_) _ ?_)

theorem State.handedBack_keeps {s0 : State} (s : State) (d : Nat) (path : Bool) (m : Msg) (h0 : Keeps s0 s) :
    Keeps s0 (State.handedBack s d path m) := by
  unfold State.handedBack
  repeat' first
    | with_reducible assumption
    | with_reducible apply State.finish_keeps
    | with_reducible exact Keeps.mk' (by assumption) rfl rfl rfl
    | split

theorem State.refusedPacket_keeps {s0 : State} (s : State) (head : List Byte) (h0 : Keeps s0 s) :
    Keeps s0 (State.refusedPacket s head) := by
  unfold State.refusedPacket
  repeat' first
    | with_reducible assumption
    | with_reducible apply State.bump_keeps
    | with_reducible apply State.handedBack_keeps
    | with_reducible apply State.retireMsg_keeps
    | with_reducible exact Keeps.mk' (by assumption) rfl rfl rfl
    | extract_lets
    | split
    | (with_reducible refine Keeps.ofFst (by with_reducible assumption) ?_)
    | (with_reducible refine Keeps.ofOpt (by with_reducible assumption) ?_)
    | (with_reducible refine Keeps.ofSnd (by with_reducible assumption) ?_)
    | intro _
    | (fail_if_no_progress with_reducible apply Keeps.mkOf)

theorem State.vblPump_keeps {s0 : State} (s : State) (h0 : Keeps s0 s) :
    Keeps s0 (State.vblPump s) := by
  unfold State.vblPump
  extract_lets _ s1 s2
  have h1 : Keeps s0 s1 := Keeps.foldl (fun _ _ h => State.refusedPacket_keeps _ _ h) _ (Keeps.mkOf h0)
  exact State.sendReqs_keeps _ _ (State.flushBatches_keeps _ (State.releaseLeases_keeps _ (State.collFlush_keeps _ h1)))

theorem State.engineReply_keeps {s0 : State} (s : State) (c : Nat) (e : EngineRead) (reply : Reply) (h0 : Keeps s0 s) :
    Keeps s0 (State.engineReply s c e reply) := by
  unfold State.engineReply
  repeat' first
    | with_reducible assumption
    | with_reducible apply State.dropReq_keeps
    | with_reducible apply State.engineAnswer_keeps
    | with_reducible apply State.outcome_keeps
    | with_reducible apply State.ownRead_keeps
    | with_reducible apply State.vblPump_keeps
    | with_reducible exact Keeps.mk' (by assumption) rfl rfl rfl
    | (intro x; refine Keeps.have_ (Q := Keeps s0 x) ?q ?h; (case' q => subst x); (case' h => (intro hx; clear_value x)))
    | (intro x; clear_value x)
    | split
    | (with_reducible refine Keeps.ofFst (by with_reducible assumption) ?_)
    | (with_reducible refine Keeps.ofOpt (by with_reducible assumption) ?_)
    | (with_reducible refine Keeps.ofSnd (by with_reducible assumption) ?_)
    | lift_lets
    | intro _

theorem State.hold_keeps {s0 : State} (s : State) (core : Nat) (slot : Nat) (num : Nat) (h0 : Keeps s0 s) :
    Keeps s0 (State.hold s core slot num) := by
  unfold State.hold
  repeat' first
    | with_reducible assumption
    | with_reducible apply State.modTask_keeps

theorem State.lineRead_keeps {s0 : State} (s : State) (core : Nat) (slot : Nat) (c : Nat) (sd : Nat) (a : Nat) (h0 : Keeps s0 s) :
    Keeps s0 (State.lineRead s core slot c sd a) := by
  unfold State.lineRead
  repeat' first
    | with_reducible assumption
    | with_reducible apply State.addReq_keeps
    | with_reducible apply State.closeFor_keeps
    | with_reducible apply State.hold_keeps
    | with_reducible apply State.modReq_keeps
    | with_reducible exact Keeps.mk' (by assumption) rfl rfl rfl
    | (intro x; refine Keeps.have_ (Q := Keeps s0 x) ?q ?h; (case' q => subst x); (case' h => (intro hx; clear_value x)))
    | (intro x; clear_value x)
    | split
    | (with_reducible refine Keeps.ofFst (by with_reducible assumption) ?_)
    | (with_reducible refine Keeps.ofOpt (by with_reducible assumption) ?_)
    | (with_reducible refine Keeps.ofSnd (by with_reducible assumption) ?_)
    | lift_lets
    | intro _

theorem rldBody_keeps {s0 : State} (x : Cx) (s : State) (h0 : Keeps s0 s) :
    ChkKeeps s0 (rldBody x s) := by
  unfold rldBody
  dsimp only
  repeat' first
    | with_reducible assumption
    | with_reducible apply State.addReq_keeps
    | with_reducible apply State.closeFor_keeps
    | with_reducible apply State.hold_keeps
    | with_reducible apply State.lineRead_keeps
    | with_reducible apply State.modTask_keeps
    | with_reducible apply State.useStaged_keeps
    | with_reducible apply State.vblPump_keeps
    | with_reducible exact Keeps.mk' (by assumption) rfl rfl rfl
    | with_reducible apply ChkKeeps.retire
    | with_reducible apply ChkKeeps.jump
    | with_reducible apply ChkKeeps.stay
    | with_reducible apply ChkKeeps.error
    | (with_reducible refine ChkKeeps.bind (fun _ => ?_))
    | split
    | (with_reducible refine Keeps.ofFst (by with_reducible assumption) ?_)
    | (with_reducible refine Keeps.ofOpt (by with_reducible assumption) ?_)
    | (with_reducible refine Keeps.ofSnd (by with_reducible assumption) ?_)
    | lift_lets

theorem execRld_keeps {s0 : State} (i : Issue) (s : State) (h0 : Keeps s0 s) :
    OutKeeps s0 (execRld i s) := by
  unfold execRld
  repeat' first
    | with_reducible assumption
    | with_reducible apply rldBody_keeps
    | with_reducible apply issue_keeps

theorem State.hinge_keeps {s0 : State} (s : State) (core : Nat) (slot : Nat) (c : Nat) (a : Nat) (bs : List Byte) (h0 : Keeps s0 s) :
    Keeps s0 (State.hinge s core slot c a bs) := by
  unfold State.hinge
  repeat' first
    | with_reducible assumption
    | with_reducible apply State.closeFor_keeps
    | with_reducible exact Keeps.mk' (by assumption) rfl rfl rfl
    | (intro x; refine Keeps.have_ (Q := Keeps s0 x) ?q ?h; (case' q => subst x); (case' h => (intro hx; clear_value x)))
    | (intro x; clear_value x)
    | split
    | lift_lets

theorem rstBody_keeps {s0 : State} (x : Cx) (s : State) (h0 : Keeps s0 s) :
    ChkKeeps s0 (rstBody x s) := by
  unfold rstBody
  repeat' first
    | with_reducible assumption
    | with_reducible apply State.hinge_keeps
    | with_reducible apply State.closeFor_keeps
    | with_reducible apply State.hold_keeps
    | with_reducible apply State.vblPump_keeps
    | with_reducible apply State.addReq_keeps
    | with_reducible exact Keeps.mk' (by assumption) rfl rfl rfl
    | with_reducible apply ChkKeeps.retire
    | with_reducible apply ChkKeeps.jump
    | with_reducible apply ChkKeeps.stay
    | with_reducible apply ChkKeeps.error
    | (with_reducible refine ChkKeeps.bind (fun _ => ?_))
    | (intro x; clear_value x)
    | split

theorem execRst_keeps {s0 : State} (i : Issue) (s : State) (h0 : Keeps s0 s) :
    OutKeeps s0 (execRst i s) := by
  unfold execRst
  repeat' first
    | with_reducible assumption
    | with_reducible apply rstBody_keeps
    | with_reducible apply issue_keeps

theorem doorbellBody_keeps {s0 : State} (x : Cx) (s : State) (h0 : Keeps s0 s) :
    ChkKeeps s0 (doorbellBody x s) := by
  unfold doorbellBody
  repeat' first
    | with_reducible assumption
    | with_reducible apply State.closeFor_keeps
    | with_reducible apply State.hold_keeps
    | with_reducible apply State.vblPump_keeps
    | with_reducible apply State.addReq_keeps
    | with_reducible exact Keeps.mk' (by assumption) rfl rfl rfl
    | with_reducible apply ChkKeeps.retire
    | with_reducible apply ChkKeeps.jump
    | with_reducible apply ChkKeeps.stay
    | with_reducible apply ChkKeeps.error
    | (with_reducible refine ChkKeeps.bind (fun _ => ?_))

theorem execDoorbell_keeps {s0 : State} (i : Issue) (s : State) (h0 : Keeps s0 s) :
    OutKeeps s0 (execDoorbell i s) := by
  unfold execDoorbell
  repeat' first
    | with_reducible assumption
    | with_reducible apply doorbellBody_keeps
    | with_reducible apply issue_keeps

theorem atomBody_keeps {s0 : State} (x : Cx) (s : State) (h0 : Keeps s0 s) :
    ChkKeeps s0 (atomBody x s) := by
  unfold atomBody
  repeat' first
    | with_reducible assumption
    | with_reducible apply State.closeFor_keeps
    | with_reducible apply State.hold_keeps
    | with_reducible apply State.vblPump_keeps
    | with_reducible apply State.addReq_keeps
    | with_reducible exact Keeps.mk' (by assumption) rfl rfl rfl
    | with_reducible apply ChkKeeps.retire
    | with_reducible apply ChkKeeps.jump
    | with_reducible apply ChkKeeps.stay
    | with_reducible apply ChkKeeps.error
    | (with_reducible refine ChkKeeps.bind (fun _ => ?_))
    | (intro x; clear_value x)
    | split

theorem execAtom_keeps {s0 : State} (i : Issue) (s : State) (h0 : Keeps s0 s) :
    OutKeeps s0 (execAtom i s) := by
  unfold execAtom
  repeat' first
    | with_reducible assumption
    | with_reducible apply atomBody_keeps
    | with_reducible apply issue_keeps

theorem State.staleAcquires_keeps {s0 : State} (s : State) (core : Nat) (slot : Nat) (h0 : Keeps s0 s) :
    Keeps s0 (State.staleAcquires s core slot) := by
  unfold State.staleAcquires
  repeat' first
    | with_reducible assumption
    | with_reducible apply State.acquire_keeps
    | with_reducible exact Keeps.mk' (by assumption) rfl rfl rfl

theorem leaseAcqBody_keeps {s0 : State} (x : Cx) (s : State) (h0 : Keeps s0 s) :
    ChkKeeps s0 (leaseAcqBody x s) := by
  unfold leaseAcqBody
  repeat' first
    | with_reducible assumption
    | with_reducible apply State.staleAcquires_keeps
    | with_reducible apply State.closeFor_keeps
    | with_reducible apply State.hold_keeps
    | with_reducible apply State.vblPump_keeps
    | with_reducible apply State.addReq_keeps
    | with_reducible apply State.acquire_keeps
    | with_reducible exact Keeps.mk' (by assumption) rfl rfl rfl
    | with_reducible apply ChkKeeps.retire
    | with_reducible apply ChkKeeps.jump
    | with_reducible apply ChkKeeps.stay
    | with_reducible apply ChkKeeps.error
    | (with_reducible refine ChkKeeps.bind (fun _ => ?_))

theorem execLeaseAcq_keeps {s0 : State} (i : Issue) (s : State) (h0 : Keeps s0 s) :
    OutKeeps s0 (execLeaseAcq i s) := by
  unfold execLeaseAcq
  repeat' first
    | with_reducible assumption
    | with_reducible apply leaseAcqBody_keeps
    | with_reducible apply issue_keeps

theorem leaseRelBody_keeps {s0 : State} (x : Cx) (s : State) (h0 : Keeps s0 s) :
    ChkKeeps s0 (leaseRelBody x s) := by
  unfold leaseRelBody
  repeat' first
    | with_reducible assumption
    | with_reducible apply State.closeFor_keeps
    | with_reducible apply State.hold_keeps
    | with_reducible apply State.vblPump_keeps
    | with_reducible apply State.addReq_keeps
    | with_reducible apply State.release_keeps
    | with_reducible exact Keeps.mk' (by assumption) rfl rfl rfl
    | with_reducible apply ChkKeeps.retire
    | with_reducible apply ChkKeeps.jump
    | with_reducible apply ChkKeeps.stay
    | with_reducible apply ChkKeeps.error
    | (with_reducible refine ChkKeeps.bind (fun _ => ?_))

theorem execLeaseRel_keeps {s0 : State} (i : Issue) (s : State) (h0 : Keeps s0 s) :
    OutKeeps s0 (execLeaseRel i s) := by
  unfold execLeaseRel
  repeat' first
    | with_reducible assumption
    | with_reducible apply leaseRelBody_keeps
    | with_reducible apply issue_keeps

theorem invBody_keeps {s0 : State} (x : Cx) (s : State) (h0 : Keeps s0 s) :
    ChkKeeps s0 (invBody x s) := by
  unfold invBody
  repeat' first
    | with_reducible assumption
    | with_reducible apply State.hold_keeps
    | with_reducible apply State.invDrop_keeps
    | with_reducible exact Keeps.mk' (by assumption) rfl rfl rfl
    | with_reducible apply ChkKeeps.retire
    | with_reducible apply ChkKeeps.jump
    | with_reducible apply ChkKeeps.stay
    | with_reducible apply ChkKeeps.error
    | (with_reducible refine ChkKeeps.bind (fun _ => ?_))

theorem execInv_keeps {s0 : State} (i : Issue) (s : State) (h0 : Keeps s0 s) :
    OutKeeps s0 (execInv i s) := by
  unfold execInv
  repeat' first
    | with_reducible assumption
    | with_reducible apply invBody_keeps
    | with_reducible apply issue_keeps

theorem State.hingeExpiry_keeps {s0 : State} (s : State) (c : Nat) (d : Nat) (h0 : Keeps s0 s) :
    Keeps s0 (State.hingeExpiry s c d) := by
  unfold State.hingeExpiry
  repeat' first
    | with_reducible assumption
    | with_reducible apply State.hold_keeps
    | with_reducible apply State.vblPump_keeps
    | with_reducible exact Keeps.mk' (by assumption) rfl rfl rfl

theorem execHingeHoldExpiry_keeps {s0 : State} (c : CtxId) (node : BitVec 20) (s : State) (h0 : Keeps s0 s) :
    OutKeeps s0 (execHingeHoldExpiry c node s) := by
  unfold execHingeHoldExpiry
  repeat' first
    | with_reducible assumption
    | with_reducible apply State.clocked_keeps
    | with_reducible apply State.hingeExpiry_keeps
    | with_reducible exact Keeps.mk' (by assumption) rfl rfl rfl
    | with_reducible apply OutKeeps.next
    | with_reducible apply OutKeeps.fault

theorem State.requestResend_keeps {s0 : State} (s : State) (num : Nat) (h0 : Keeps s0 s) :
    Keeps s0 (State.requestResend s num) := by
  unfold State.requestResend
  repeat' first
    | with_reducible assumption
    | with_reducible apply Cx.emit_keeps
    | with_reducible apply State.emit_keeps
    | with_reducible apply State.modReq_keeps
    | with_reducible apply State.resendMsg_keeps
    | with_reducible exact Keeps.mk' (by assumption) rfl rfl rfl
    | (intro x; refine Keeps.have_ (Q := Keeps s0 x) ?q ?h; (case' q => subst x); (case' h => (intro hx; clear_value x)))
    | (intro x; clear_value x)
    | split
    | (with_reducible refine Keeps.ofFst (by with_reducible assumption) ?_)
    | (with_reducible refine Keeps.ofOpt (by with_reducible assumption) ?_)
    | (with_reducible refine Keeps.ofSnd (by with_reducible assumption) ?_)
    | lift_lets
    | intro _

theorem execRequestResend_keeps {s0 : State} (num : Nat) (s : State) (h0 : Keeps s0 s) :
    OutKeeps s0 (execRequestResend num s) := by
  unfold execRequestResend
  repeat' first
    | with_reducible assumption
    | with_reducible apply State.clocked_keeps
    | with_reducible apply State.requestResend_keeps
    | with_reducible exact Keeps.mk' (by assumption) rfl rfl rfl
    | with_reducible apply OutKeeps.next
    | with_reducible apply OutKeeps.fault

theorem State.cancelMsg_keeps {s0 : State} (s : State) (r : Req) (h0 : Keeps s0 s) :
    Keeps s0 (State.cancelMsg s r) := by
  unfold State.cancelMsg
  repeat' first
    | with_reducible assumption
    | with_reducible apply State.retireMsg_keeps
    | with_reducible apply State.setTx_keeps
    | with_reducible exact Keeps.mk' (by assumption) rfl rfl rfl
    | split

theorem State.outcomeUnknown_keeps {s0 : State} (s : State) (num : Nat) (h0 : Keeps s0 s) :
    Keeps s0 (State.outcomeUnknown s num) := by
  unfold State.outcomeUnknown
  repeat' first
    | with_reducible assumption
    | with_reducible apply State.cancelMsg_keeps
    | with_reducible apply State.vblPump_keeps
    | with_reducible apply State.finish_keeps
    | with_reducible exact Keeps.mk' (by assumption) rfl rfl rfl
    | split

theorem execOutcomeUnknown_keeps {s0 : State} (num : Nat) (s : State) (h0 : Keeps s0 s) :
    OutKeeps s0 (execOutcomeUnknown num s) := by
  unfold execOutcomeUnknown
  repeat' first
    | with_reducible assumption
    | with_reducible apply State.clocked_keeps
    | with_reducible apply State.outcomeUnknown_keeps
    | with_reducible exact Keeps.mk' (by assumption) rfl rfl rfl
    | with_reducible apply OutKeeps.next
    | with_reducible apply OutKeeps.fault

theorem State.leaseRetry_keeps {s0 : State} (s : State) (num : Nat) (h0 : Keeps s0 s) :
    Keeps s0 (State.leaseRetry s num) := by
  unfold State.leaseRetry
  repeat' first
    | with_reducible assumption
    | with_reducible apply Next.state_keeps
    | with_reducible apply State.acquire_keeps
    | with_reducible apply State.closeFor_keeps
    | with_reducible apply State.dropReq_keeps
    | with_reducible apply State.hold_keeps
    | with_reducible apply State.vblPump_keeps
    | with_reducible exact Keeps.mk' (by assumption) rfl rfl rfl
    | (fail_if_no_progress extract_lets +onlyGivenNames x)
    | split
    | (with_reducible refine Keeps.ofFst (by with_reducible assumption) ?_)
    | (with_reducible refine Keeps.ofOpt (by with_reducible assumption) ?_)
    | (with_reducible refine Keeps.ofSnd (by with_reducible assumption) ?_)
    | intro _
    | (fail_if_no_progress with_reducible apply Keeps.mkOf)

theorem execLeaseRetry_keeps {s0 : State} (num : Nat) (s : State) (h0 : Keeps s0 s) :
    OutKeeps s0 (execLeaseRetry num s) := by
  unfold execLeaseRetry
  repeat' first
    | with_reducible assumption
    | with_reducible apply State.clocked_keeps
    | with_reducible apply State.leaseRetry_keeps
    | with_reducible exact Keeps.mk' (by assumption) rfl rfl rfl
    | with_reducible apply OutKeeps.next
    | with_reducible apply OutKeeps.fault

theorem State.readsBack_keeps {s0 : State} (s : State) (d : Nat) (path : Bool) (h0 : Keeps s0 s) :
    Keeps s0 (State.readsBack s d path) := by
  unfold State.readsBack
  repeat' first
    | with_reducible assumption
    | with_reducible apply Cx.emit_keeps
    | with_reducible apply State.emit_keeps
    | with_reducible apply State.finish_keeps
    | with_reducible exact Keeps.mk' (by assumption) rfl rfl rfl
    | (with_reducible refine Keeps.foldl (fun _ _ _ => ?_) _ ?_)
    | (with_reducible refine Keeps.foldlFst (fun _ _ _ => ?_) _ ?_)
    | split
    | (with_reducible refine Keeps.ofFst (by with_reducible assumption) ?_)
    | (with_reducible refine Keeps.ofOpt (by with_reducible assumption) ?_)
    | (with_reducible refine Keeps.ofSnd (by with_reducible assumption) ?_)
    | intro _

theorem State.failConn_keeps {s0 : State} (s : State) (d : Nat) (event : Bool) (h0 : Keeps s0 s) :
    Keeps s0 (State.failConn s d event) := by
  unfold State.failConn
  repeat' first
    | with_reducible assumption
    | with_reducible apply State.giveUp_keeps
    | with_reducible apply State.handBack_keeps
    | with_reducible apply State.handedBack_keeps
    | with_reducible apply State.readsBack_keeps
    | with_reducible apply State.vblPump_keeps
    | with_reducible exact Keeps.mk' (by assumption) rfl rfl rfl
    | (with_reducible refine Keeps.foldl (fun _ _ _ => ?_) _ ?_)
    | (with_reducible refine Keeps.foldlFst (fun _ _ _ => ?_) _ ?_)
    | (intro x; refine Keeps.have_ (Q := Keeps s0 x) ?q ?h; (case' q => subst x); (case' h => (intro hx; clear_value x)))
    | (intro x; clear_value x)
    | split
    | (with_reducible refine Keeps.ofFst (by with_reducible assumption) ?_)
    | (with_reducible refine Keeps.ofOpt (by with_reducible assumption) ?_)
    | (with_reducible refine Keeps.ofSnd (by with_reducible assumption) ?_)
    | lift_lets
    | intro _

theorem execConnectionFail_keeps {s0 : State} (node : BitVec 20) (s : State) (h0 : Keeps s0 s) :
    OutKeeps s0 (execConnectionFail node s) := by
  unfold execConnectionFail
  repeat' first
    | with_reducible assumption
    | with_reducible apply State.clocked_keeps
    | with_reducible apply State.failConn_keeps
    | with_reducible exact Keeps.mk' (by assumption) rfl rfl rfl
    | with_reducible apply OutKeeps.next
    | with_reducible apply OutKeeps.fault
    | split

theorem execTransportPacketReceive_keeps {s0 : State} (s : State) (h0 : Keeps s0 s) :
    OutKeeps s0 (execTransportPacketReceive s) := by
  unfold execTransportPacketReceive
  repeat' first
    | with_reducible assumption
    | with_reducible apply State.clocked_keeps
    | with_reducible apply State.failConn_keeps
    | with_reducible apply State.packetIn_keeps
    | with_reducible exact Keeps.mk' (by assumption) rfl rfl rfl
    | with_reducible apply OutKeeps.next
    | with_reducible apply OutKeeps.fault
    | (intro x; refine Keeps.have_ (Q := Keeps s0 x) ?q ?h; (case' q => subst x); (case' h => (intro hx; clear_value x)))
    | (intro x; clear_value x)
    | split
    | (with_reducible refine Keeps.ofFst (by with_reducible assumption) ?_)
    | (with_reducible refine Keeps.ofOpt (by with_reducible assumption) ?_)
    | (with_reducible refine Keeps.ofSnd (by with_reducible assumption) ?_)
    | lift_lets

theorem State.acked_keeps {s0 : State} (s : State) (m : Msg) (h0 : Keeps s0 s) :
    Keeps s0 (State.acked s m) := by
  unfold State.acked
  repeat' first
    | with_reducible assumption
    | with_reducible apply State.finish_keeps
    | with_reducible exact Keeps.mk' (by assumption) rfl rfl rfl
    | split

theorem State.tAckReceive_keeps {s0 : State} (s : State) (h0 : Keeps s0 s) :
    Keeps s0 (State.tAckReceive s) := by
  unfold State.tAckReceive
  repeat' first
    | with_reducible assumption
    | with_reducible apply State.acked_keeps
    | with_reducible apply State.failConn_keeps
    | with_reducible apply State.vblPump_keeps
    | with_reducible apply State.ackPackets_keeps
    | with_reducible exact Keeps.mk' (by assumption) rfl rfl rfl
    | (with_reducible refine Keeps.foldl (fun _ _ _ => ?_) _ ?_)
    | (with_reducible refine Keeps.foldlFst (fun _ _ _ => ?_) _ ?_)
    | (intro x; refine Keeps.have_ (Q := Keeps s0 x) ?q ?h; (case' q => subst x); (case' h => intro hx))
    | (intro x; skip)
    | split
    | (with_reducible refine Keeps.ofFst (by with_reducible assumption) ?_)
    | (with_reducible refine Keeps.ofOpt (by with_reducible assumption) ?_)
    | (with_reducible refine Keeps.ofSnd (by with_reducible assumption) ?_)
    | lift_lets

theorem execTAckReceive_keeps {s0 : State} (s : State) (h0 : Keeps s0 s) :
    OutKeeps s0 (execTAckReceive s) := by
  unfold execTAckReceive
  repeat' first
    | with_reducible assumption
    | with_reducible apply State.clocked_keeps
    | with_reducible apply State.tAckReceive_keeps
    | with_reducible exact Keeps.mk' (by assumption) rfl rfl rfl
    | with_reducible apply OutKeeps.next
    | with_reducible apply OutKeeps.fault

end Sys2Proof.Machine
end

