-- ==== Sys2Proof/Laws/KeepsServe.lean ====
section
/-!
SUPPORT. Every function of Machine/Serve.lean keeps the queue and the canonical forms.
-/
namespace Sys2Proof.Machine
open Sys2Proof

theorem State.takeMsg_keeps {s0 : State} (s : State) (pt : Nat) (h0 : Keeps s0 s) :
    SndKeeps s0 (State.takeMsg s pt) := by
  unfold State.takeMsg
  repeat' first
    | with_reducible assumption
    | with_reducible exact Keeps.mk' (by assumption) rfl rfl rfl
    | with_reducible apply SndKeeps.some
    | with_reducible apply SndKeeps.none
    | split

theorem State.serve_keeps {s0 : State} (s : State) (pt : Nat) (act : RxMsg → State → State) (h0 : Keeps s0 s)
    (h1 : ∀ m t, Keeps s0 t → Keeps s0 (act m t)) : Keeps s0 (State.serve s pt act) := by
  unfold State.serve
  split
  next m t e =>
    have ht : Keeps s0 t := Keeps.ofSnd e (State.takeMsg_keeps s pt h0)
    split
    · exact Keeps.mkOf ht
    · exact h1 m t ht
  · exact h0

theorem State.respond_keeps {s0 : State} (s : State) (m : RxMsg) (cls : Nat) (status : Nat) (result : Nat) (data : List Byte) (h0 : Keeps s0 s) :
    Keeps s0 (State.respond s m cls status result data) := by
  unfold State.respond
  repeat' first
    | with_reducible assumption
    | with_reducible apply State.trpSend_keeps
    | with_reducible exact Keeps.mk' (by assumption) rfl rfl rfl
    | split

theorem State.refuseReq_keeps {s0 : State} (s : State) (m : RxMsg) (status : Nat) (h0 : Keeps s0 s) :
    Keeps s0 (State.refuseReq s m status) := by
  unfold State.refuseReq
  repeat' first
    | with_reducible assumption
    | with_reducible apply State.countRefusal_keeps

theorem State.servedClass_keeps {s0 : State} (s : State) (m : RxMsg) (window : Nat) (h0 : Keeps s0 s) :
    Keeps s0 (State.servedClass s m window).1 := by
  unfold State.servedClass
  repeat' first
    | with_reducible assumption
    | with_reducible apply State.bump_keeps
    | with_reducible exact Keeps.mk' (by assumption) rfl rfl rfl
    | split

theorem State.demoted_keeps {s0 : State} (s : State) (m : RxMsg) (h0 : Keeps s0 s) :
    Keeps s0 (State.demoted s m).1 := by
  unfold State.demoted
  split
  · exact State.servedClass_keeps _ _ _ h0
  · exact h0

theorem State.deny_keeps {s0 : State} (s : State) (m : RxMsg) (status : Nat) (h0 : Keeps s0 s) :
    Keeps s0 (State.deny s m status) := by
  unfold State.deny
  repeat' first
    | with_reducible assumption
    | with_reducible apply State.demoted_keeps
    | with_reducible apply State.refuseReq_keeps
    | with_reducible apply State.respond_keeps

theorem State.rdReceive_keeps {s0 : State} (s : State) (h0 : Keeps s0 s) :
    Keeps s0 (State.rdReceive s) := by
  unfold State.rdReceive
  refine State.serve_keeps _ _ _ h0 fun m t ht => ?_
  split
  · exact State.vblPump_keeps _ (State.deny_keeps _ _ _ ht)
  · split
    next e =>
    have h2 := Keeps.ofFst e (State.servedClass_keeps _ _ _ ht)
    split
    apply State.vblPump_keeps
    split
    · exact State.respond_keeps _ _ _ _ _ _ h2
    · exact State.respond_keeps _ _ _ _ _ _ h2

theorem execRdReceive_keeps {s0 : State} (s : State) (h0 : Keeps s0 s) :
    OutKeeps s0 (execRdReceive s) := by
  unfold execRdReceive
  repeat' first
    | with_reducible assumption
    | with_reducible apply State.clocked_keeps
    | with_reducible apply State.rdReceive_keeps
    | with_reducible exact Keeps.mk' (by assumption) rfl rfl rfl
    | with_reducible apply OutKeeps.next

theorem State.wrDone_keeps {s0 : State} (s : State) (m : RxMsg) (cls : Nat) (acks : List (Nat × Nat)) (h0 : Keeps s0 s) :
    Keeps s0 (State.wrDone s m cls acks) := by
  unfold State.wrDone
  repeat' first
    | with_reducible assumption
    | with_reducible apply State.respond_keeps
    | with_reducible apply State.vblPump_keeps
    | with_reducible exact Keeps.mk' (by assumption) rfl rfl rfl
    | split

theorem State.wrReceive_keeps {s0 : State} (s : State) (h0 : Keeps s0 s) :
    Keeps s0 (State.wrReceive s) := by
  unfold State.wrReceive
  refine State.serve_keeps _ _ _ h0 fun m t ht => ?_
  split
  · exact State.vblPump_keeps _ (State.deny_keeps _ _ _ ht)
  · split
    · exact State.vblPump_keeps _ (State.deny_keeps _ _ _ ht)
    · split
      · exact State.vblPump_keeps _ (State.deny_keeps _ _ _ ht)
      · split
        next e =>
        have h2 := Keeps.ofFst e (State.servedClass_keeps _ _ _ ht)
        exact State.wrDone_keeps _ _ _ _ (State.spaceWrite_keeps _ _ _ _ h2)

theorem execWrReceive_keeps {s0 : State} (s : State) (h0 : Keeps s0 s) :
    OutKeeps s0 (execWrReceive s) := by
  unfold execWrReceive
  repeat' first
    | with_reducible assumption
    | with_reducible apply State.clocked_keeps
    | with_reducible apply State.wrReceive_keeps
    | with_reducible exact Keeps.mk' (by assumption) rfl rfl rfl
    | with_reducible apply OutKeeps.next

theorem State.lateGo_keeps {s0 : State} (s : State) (h0 : Keeps s0 s) :
    Keeps s0 (State.lateGo s) := by
  unfold State.lateGo
  repeat' first
    | with_reducible assumption
    | with_reducible apply State.respond_keeps
    | with_reducible apply State.vblPump_keeps
    | with_reducible exact Keeps.mk' (by assumption) rfl rfl rfl
    | (with_reducible refine Keeps.foldl (fun _ _ _ => ?_) _ ?_)

theorem execT2WriteAck_keeps {s0 : State} (p : PartId) (tile : BitVec 32) (s : State) (h0 : Keeps s0 s) :
    OutKeeps s0 (execT2WriteAck p tile s) := by
  unfold execT2WriteAck
  repeat' first
    | with_reducible assumption
    | with_reducible apply State.clocked_keeps
    | with_reducible apply State.lateGo_keeps
    | with_reducible apply State.loadGo_keeps
    | with_reducible apply State.t2Ack_keeps
    | with_reducible exact Keeps.mk' (by assumption) rfl rfl rfl
    | (with_reducible refine Keeps.foldl (fun _ _ _ => ?_) _ ?_)
    | (with_reducible refine Keeps.foldlFst (fun _ _ _ => ?_) _ ?_)
    | with_reducible apply OutKeeps.next
    | with_reducible apply OutKeeps.fault
    | split

theorem State.applied_keeps {s0 : State} (s : State) (m : RxMsg) (cls : Nat) (status : Nat) (result : Nat) (h0 : Keeps s0 s) :
    Keeps s0 (State.applied s m cls status result) := by
  unfold State.applied
  repeat' first
    | with_reducible assumption
    | with_reducible apply State.respond_keeps
    | with_reducible exact Keeps.mk' (by assumption) rfl rfl rfl

theorem State.serveOnce_keeps {s0 : State} (s : State) (m : RxMsg) (apply : State → Target → Nat → State) (h0 : Keeps s0 s) (h1 : ∀ a0 a1 a2, Keeps s0 a0 → Keeps s0 (apply a0 a1 a2)) :
    Keeps s0 (State.serveOnce s m apply) := by
  unfold State.serveOnce
  split
  · split
    next e => exact State.respond_keeps _ _ _ _ _ _ (Keeps.ofFst e (State.demoted_keeps _ _ (State.bump_keeps _ _ _ h0)))
  · split
    · exact State.deny_keeps _ _ _ h0
    · split
      · exact State.bump_keeps _ _ _ (Keeps.mkOf h0)
      · split
        next e =>
        have h2 := Keeps.ofFst e (State.servedClass_keeps _ _ _ h0)
        split
        · exact State.respond_keeps _ _ _ _ _ _ h2
        · exact h1 _ _ _ h2

theorem State.applyAtomic_keeps {s0 : State} (s : State) (m : RxMsg) (t : Target) (cls : Nat) (h0 : Keeps s0 s) :
    Keeps s0 (State.applyAtomic s m t cls) := by
  unfold State.applyAtomic
  repeat' first
    | with_reducible assumption
    | with_reducible apply State.applied_keeps
    | with_reducible apply State.spaceWrite_keeps

theorem State.atomicReceive_keeps {s0 : State} (s : State) (h0 : Keeps s0 s) :
    Keeps s0 (State.atomicReceive s) := by
  unfold State.atomicReceive
  refine State.serve_keeps _ _ _ h0 fun m t ht => ?_
  exact State.vblPump_keeps _ (State.serveOnce_keeps _ _ _ ht fun _ _ _ h => State.applyAtomic_keeps _ _ _ _ h)

theorem execAtomicReceive_keeps {s0 : State} (s : State) (h0 : Keeps s0 s) :
    OutKeeps s0 (execAtomicReceive s) := by
  unfold execAtomicReceive
  repeat' first
    | with_reducible assumption
    | with_reducible apply State.atomicReceive_keeps
    | with_reducible apply State.clocked_keeps
    | with_reducible exact Keeps.mk' (by assumption) rfl rfl rfl
    | with_reducible apply OutKeeps.next

theorem State.applyLease_keeps {s0 : State} (s : State) (m : RxMsg) (t : Target) (cls : Nat) (h0 : Keeps s0 s) :
    Keeps s0 (State.applyLease s m t cls) := by
  unfold State.applyLease
  repeat' first
    | with_reducible assumption
    | with_reducible apply State.applied_keeps
    | with_reducible apply State.spaceWrite_keeps
    | with_reducible apply State.acquire_keeps
    | with_reducible apply State.release_keeps
    | with_reducible exact Keeps.mk' (by assumption) rfl rfl rfl
    | split

theorem State.leaseReceive_keeps {s0 : State} (s : State) (h0 : Keeps s0 s) :
    Keeps s0 (State.leaseReceive s) := by
  unfold State.leaseReceive
  refine State.serve_keeps _ _ _ h0 fun m t ht => ?_
  exact State.vblPump_keeps _ (State.serveOnce_keeps _ _ _ ht fun _ _ _ h => State.applyLease_keeps _ _ _ _ h)

theorem execLeaseReceive_keeps {s0 : State} (s : State) (h0 : Keeps s0 s) :
    OutKeeps s0 (execLeaseReceive s) := by
  unfold execLeaseReceive
  repeat' first
    | with_reducible assumption
    | with_reducible apply State.clocked_keeps
    | with_reducible apply State.leaseReceive_keeps
    | with_reducible exact Keeps.mk' (by assumption) rfl rfl rfl
    | with_reducible apply OutKeeps.next

theorem State.rcacheExpiry_keeps {s0 : State} (s : State) (h0 : Keeps s0 s) :
    Keeps s0 (State.rcacheExpiry s) := by
  unfold State.rcacheExpiry
  repeat' first
    | with_reducible assumption
    | with_reducible exact Keeps.mk' (by assumption) rfl rfl rfl

theorem execRcacheExpiry_keeps {s0 : State} (s : State) (h0 : Keeps s0 s) :
    OutKeeps s0 (execRcacheExpiry s) := by
  unfold execRcacheExpiry
  repeat' first
    | with_reducible assumption
    | with_reducible apply State.clocked_keeps
    | with_reducible apply State.rcacheExpiry_keeps
    | with_reducible exact Keeps.mk' (by assumption) rfl rfl rfl
    | with_reducible apply OutKeeps.next

theorem State.invReceive_keeps {s0 : State} (s : State) (h0 : Keeps s0 s) :
    Keeps s0 (State.invReceive s) := by
  unfold State.invReceive
  refine State.serve_keeps _ _ _ h0 fun m t ht => ?_
  exact State.vblPump_keeps _ (State.respond_keeps _ _ _ _ _ _ (Keeps.foldl (fun _ _ h => State.invDrop_keeps _ _ _ _ h) _ ht))

theorem execInvReceive_keeps {s0 : State} (s : State) (h0 : Keeps s0 s) :
    OutKeeps s0 (execInvReceive s) := by
  unfold execInvReceive
  repeat' first
    | with_reducible assumption
    | with_reducible apply State.clocked_keeps
    | with_reducible apply State.invReceive_keeps
    | with_reducible exact Keeps.mk' (by assumption) rfl rfl rfl
    | with_reducible apply OutKeeps.next

theorem State.doorbellReceive_keeps {s0 : State} (s : State) (h0 : Keeps s0 s) :
    Keeps s0 (State.doorbellReceive s) := by
  unfold State.doorbellReceive
  refine State.serve_keeps _ _ _ h0 fun m t ht => ?_
  extract_lets st c s1
  have h1 : Keeps s0 s1 := by
    subst s1
    split
    · exact State.refuseReq_keeps _ _ _ ht
    · split
      · exact State.lvrTail_keeps _ _ _ ht
      · exact State.migTail_keeps _ _ _ ht
  split
  · exact h1
  · split
    · exact State.vblPump_keeps _ (State.finish_keeps _ _ _ _ _ h1)
    · exact h1

theorem execDoorbellReceive_keeps {s0 : State} (s : State) (h0 : Keeps s0 s) :
    OutKeeps s0 (execDoorbellReceive s) := by
  unfold execDoorbellReceive
  repeat' first
    | with_reducible assumption
    | with_reducible apply State.clocked_keeps
    | with_reducible apply State.doorbellReceive_keeps
    | with_reducible exact Keeps.mk' (by assumption) rfl rfl rfl
    | with_reducible apply OutKeeps.next

theorem State.rspReceive_keeps {s0 : State} (s : State) (h0 : Keeps s0 s) :
    Keeps s0 (State.rspReceive s) := by
  unfold State.rspReceive
  refine State.serve_keeps _ _ _ h0 fun m t ht => ?_
  split
  · exact State.bump_keeps _ _ _ ht
  · exact State.vblPump_keeps _ (State.retireMsg_keeps _ _ _ (State.finish_keeps _ _ _ _ _ ht))

theorem execRspReceive_keeps {s0 : State} (s : State) (h0 : Keeps s0 s) :
    OutKeeps s0 (execRspReceive s) := by
  unfold execRspReceive
  repeat' first
    | with_reducible assumption
    | with_reducible apply State.clocked_keeps
    | with_reducible apply State.rspReceive_keeps
    | with_reducible exact Keeps.mk' (by assumption) rfl rfl rfl
    | with_reducible apply OutKeeps.next

end Sys2Proof.Machine
end

