-- ==== Sys2Proof/Laws/KeepsCollective.lean ====
section
/-!
SUPPORT. Every function of Machine/Collective.lean keeps the queue and the canonical forms.
-/
namespace Sys2Proof.Machine
open Sys2Proof

theorem State.putVals_keeps {s0 : State} (s : State) (c : Nat) (a : Nat) (vs : List (Word32 × Bool)) (h0 : Keeps s0 s) :
    Keeps s0 (State.putVals s c a vs) := by
  unfold State.putVals
  repeat' first
    | with_reducible assumption
    | with_reducible apply State.twrite_keeps

theorem State.writeW_keeps {s0 : State} (s : State) (i : Coll) (q : Nat) (vs : List (Word32 × Bool)) (h0 : Keeps s0 s) :
    Keeps s0 (State.writeW s i q vs) := by
  unfold State.writeW
  repeat' first
    | with_reducible assumption
    | with_reducible apply State.putVals_keeps
    | with_reducible exact Keeps.mk' (by assumption) rfl rfl rfl
    | (with_reducible refine Keeps.foldl (fun _ _ _ => ?_) _ ?_)

theorem State.putS63_keeps {s0 : State} (s : State) (core : Nat) (slot : Nat) (v : Nat) (h0 : Keeps s0 s) :
    Keeps s0 (State.putS63 s core slot v) := by
  unfold State.putS63
  repeat' first
    | with_reducible assumption
    | with_reducible apply State.modTask_keeps

theorem State.collRetire_keeps {s0 : State} (s : State) (core : Nat) (slot : Nat) (word : Nat) (w63 : Nat) (h0 : Keeps s0 s) :
    Keeps s0 (State.collRetire s core slot word w63) := by
  unfold State.collRetire
  repeat' first
    | with_reducible assumption
    | with_reducible apply State.putS63_keeps
    | with_reducible apply State.putProgress_keeps
    | with_reducible apply Next.state_keeps
    | with_reducible apply State.noteRetire_keeps
    | with_reducible apply State.advance_keeps
    | with_reducible apply State.modTask_keeps

theorem State.collWaited_keeps {s0 : State} (s : State) (core : Nat) (slot : Nat) (h0 : Keeps s0 s) :
    Keeps s0 (State.collWaited s core slot) := by
  unfold State.collWaited
  repeat' first
    | with_reducible assumption
    | with_reducible apply Next.state_keeps
    | with_reducible apply State.modTask_keeps
    | with_reducible apply State.wrap64_keeps
    | with_reducible exact Keeps.mk' (by assumption) rfl rfl rfl
    | split

theorem State.setColl_keeps {s0 : State} (s : State) (i : Coll) (h0 : Keeps s0 s) :
    Keeps s0 (State.setColl s i) := by
  unfold State.setColl
  repeat' first
    | with_reducible assumption
    | with_reducible exact Keeps.mk' (by assumption) rfl rfl rfl

theorem State.collAbort_keeps {s0 : State} (s : State) (i : Coll) (reason : Nat) (node : Nat) (h0 : Keeps s0 s) :
    Keeps s0 (State.collAbort s i reason node) := by
  unfold State.collAbort
  repeat' first
    | with_reducible assumption
    | with_reducible apply State.collWaited_keeps
    | with_reducible apply State.collRetire_keeps
    | with_reducible apply State.collEnd_keeps
    | with_reducible exact Keeps.mk' (by assumption) rfl rfl rfl
    | (intro x; refine Keeps.have_ (Q := Keeps s0 x) ?q ?h; (case' q => subst x); (case' h => (intro hx; clear_value x)))
    | split
    | (with_reducible refine Keeps.ofFst (by with_reducible assumption) ?_)
    | (with_reducible refine Keeps.ofOpt (by with_reducible assumption) ?_)
    | (with_reducible refine Keeps.ofSnd (by with_reducible assumption) ?_)
    | lift_lets

theorem State.collMark_keeps {s0 : State} (s : State) (i : Coll) (kind : Nat) (opnd : Nat) (data : List Byte) (h0 : Keeps s0 s) :
    Keeps s0 (State.collMark s i kind opnd data) := by
  unfold State.collMark
  repeat' first
    | with_reducible assumption
    | with_reducible exact Keeps.mk' (by assumption) rfl rfl rfl

theorem State.putSum_keeps {s0 : State} (s : State) (x : Cx) (e0 : Nat) (vs : List (Word32 × Bool)) (flags : Nat) (h0 : Keeps s0 s) :
    Keeps s0 (State.putSum s x e0 vs flags) := by
  unfold State.putSum
  repeat' first
    | with_reducible assumption
    | with_reducible apply Cx.putFlags_keeps
    | with_reducible apply State.twrite_keeps
    | with_reducible exact Keeps.mk' (by assumption) rfl rfl rfl
    | (with_reducible refine Keeps.foldl (fun _ _ _ => ?_) _ ?_)

theorem State.collFinal_keeps {s0 : State} (s : State) (i : Coll) (x : Cx) (last : Bool) (q : Nat) (vs : List (Word32 × Bool)) (fl : Nat) (h0 : Keeps s0 s) :
    Keeps s0 (State.collFinal s i x last q vs fl).1 := by
  unfold State.collFinal
  repeat' first
    | with_reducible assumption
    | with_reducible apply State.putSum_keeps
    | with_reducible apply State.writeW_keeps
    | with_reducible exact Keeps.mk' (by assumption) rfl rfl rfl
    | split

theorem State.denseStep_keeps {s0 : State} (s : State) (i : Coll) (x : Cx) (k : Nat) (j : Nat) (last : Bool) (h0 : Keeps s0 s) :
    Keeps s0 (State.denseStep s i x k j last).1 := by
  unfold State.denseStep
  repeat' first
    | with_reducible assumption
    | with_reducible apply State.collFinal_keeps
    | with_reducible exact Keeps.mk' (by assumption) rfl rfl rfl
    | split
    | (with_reducible refine Keeps.ofFst (by with_reducible assumption) ?_)

theorem State.sparseSum_keeps {s0 : State} (s : State) (i : Coll) (x : Cx) (h0 : Keeps s0 s) :
    Keeps s0 (State.sparseSum s i x) := by
  unfold State.sparseSum
  repeat' first
    | with_reducible assumption
    | with_reducible apply State.putSum_keeps

theorem State.sparseStep_keeps {s0 : State} (s : State) (i : Coll) (x : Cx) (k : Nat) (j : Nat) (last : Bool) (h0 : Keeps s0 s) :
    Keeps s0 (State.sparseStep s i x k j last).1 := by
  unfold State.sparseStep
  repeat' first
    | with_reducible assumption
    | with_reducible apply State.sparseSum_keeps
    | with_reducible exact Keeps.mk' (by assumption) rfl rfl rfl
    | (intro x; clear_value x)
    | split
    | lift_lets

theorem State.collWork_keeps {s0 : State} (s : State) (i : Coll) (x : Cx) (h0 : Keeps s0 s) :
    Keeps s0 (State.collWork s i x).1 := by
  unfold State.collWork
  repeat' first
    | with_reducible assumption
    | with_reducible apply State.sparseStep_keeps
    | with_reducible apply State.sparseSum_keeps
    | with_reducible apply State.denseStep_keeps
    | with_reducible apply State.putSum_keeps
    | with_reducible exact Keeps.mk' (by assumption) rfl rfl rfl
    | (with_reducible refine Keeps.foldl (fun _ _ _ => ?_) _ ?_)
    | (with_reducible refine Keeps.foldlFst (fun _ _ _ => ?_) _ ?_)
    | split

theorem State.collOk_keeps {s0 : State} (s : State) (i : Coll) (core : Nat) (slot : Nat) (h0 : Keeps s0 s) :
    Keeps s0 (State.collOk s i core slot) := by
  unfold State.collOk
  repeat' first
    | with_reducible assumption
    | with_reducible apply State.collRetire_keeps
    | with_reducible apply State.setCtx_keeps
    | with_reducible apply State.bump_keeps
    | with_reducible apply State.put_keeps
    | with_reducible exact Keeps.mk' (by assumption) rfl rfl rfl
    | (fail_if_no_progress extract_lets +onlyGivenNames x)
    | split
    | (fail_if_no_progress with_reducible apply Keeps.mkOf)

theorem State.collAdvance_keeps {s0 : State} (s : State) (i : Coll) (h0 : Keeps s0 s) :
    Keeps s0 (State.collAdvance s i) := by
  unfold State.collAdvance
  repeat' first
    | with_reducible assumption
    | with_reducible apply State.collOk_keeps
    | with_reducible apply State.collWork_keeps
    | with_reducible apply State.collMark_keeps
    | with_reducible apply State.setColl_keeps
    | with_reducible apply State.collWaited_keeps
    | with_reducible apply State.putS63_keeps
    | with_reducible apply State.putProgress_keeps
    | with_reducible exact Keeps.mk' (by assumption) rfl rfl rfl
    | (intro x; refine Keeps.have_ (Q := Keeps s0 x) ?q ?h; (case' q => subst x); (case' h => intro hx))
    | (intro x; skip)
    | split
    | (with_reducible refine Keeps.ofFst (by with_reducible assumption) ?_)
    | (with_reducible refine Keeps.ofOpt (by with_reducible assumption) ?_)
    | (with_reducible refine Keeps.ofSnd (by with_reducible assumption) ?_)
    | lift_lets

theorem State.collLaunch_keeps {s0 : State} (s : State) (core : Nat) (slot : Nat) (h0 : Keeps s0 s) :
    Keeps s0 (State.collLaunch s core slot) := by
  unfold State.collLaunch
  repeat' first
    | with_reducible assumption
    | with_reducible apply State.collAdvance_keeps
    | with_reducible apply State.setColl_keeps
    | with_reducible apply State.collWaited_keeps
    | with_reducible apply State.vblPump_keeps
    | with_reducible apply Next.state_keeps
    | with_reducible apply State.noteIssue_keeps
    | with_reducible apply State.faultCtx_keeps
    | with_reducible apply State.raiseCtx_keeps
    | with_reducible apply State.bump_keeps
    | with_reducible exact Keeps.mk' (by assumption) rfl rfl rfl
    | (extract_lets +onlyGivenNames x; refine Keeps.have_ (Q := Keeps s0 x) ?q ?h; (case' q => subst x); (case' h => intro hx))
    | (fail_if_no_progress extract_lets +onlyGivenNames x)
    | split
    | (fail_if_no_progress with_reducible apply Keeps.mkOf)

theorem execCollStepLaunch_keeps {s0 : State} (core : CoreId) (slot : SlotId) (s : State) (h0 : Keeps s0 s) :
    OutKeeps s0 (execCollStepLaunch core slot s) := by
  unfold execCollStepLaunch
  repeat' first
    | with_reducible assumption
    | with_reducible apply State.clocked_keeps
    | with_reducible apply State.collLaunch_keeps
    | with_reducible exact Keeps.mk' (by assumption) rfl rfl rfl
    | with_reducible apply OutKeeps.next
    | with_reducible apply OutKeeps.fault

theorem State.collFill_keeps {s0 : State} (s : State) (x : Cx) (i : Coll) (h0 : Keeps s0 s) :
    Keeps s0 (State.collFill s x i).1 := by
  unfold State.collFill
  repeat' first
    | with_reducible assumption
    | with_reducible apply State.writeW_keeps
    | with_reducible exact Keeps.mk' (by assumption) rfl rfl rfl
    | (with_reducible refine Keeps.foldl (fun _ _ _ => ?_) _ ?_)
    | (with_reducible refine Keeps.foldlFst (fun _ _ _ => ?_) _ ?_)
    | split

theorem State.collStart_keeps {s0 : State} (s : State) (x : Cx) (i : Coll) (h0 : Keeps s0 s) :
    Keeps s0 (State.collStart s x i) := by
  unfold State.collStart
  repeat' first
    | with_reducible assumption
    | with_reducible apply State.collFill_keeps
    | with_reducible apply State.collMark_keeps
    | with_reducible apply State.putS63_keeps
    | with_reducible apply State.vblPump_keeps
    | with_reducible apply State.taskWait_keeps
    | with_reducible apply State.wrap64_keeps
    | with_reducible exact Keeps.mk' (by assumption) rfl rfl rfl
    | (fail_if_no_progress extract_lets +onlyGivenNames x)
    | split
    | (fail_if_no_progress with_reducible apply Keeps.mkOf)

theorem collRetire_keeps {s0 : State} (x : Cx) (s : State) (reason dropped : Nat) (h0 : Keeps s0 s) :
    Keeps s0 (collRetire x s reason dropped).state :=
  State.putS63_keeps _ _ _ _ (State.putProgress_keeps _ _ _ _ _ h0)

theorem collAgain_keeps {s0 : State} (x : Cx) (s : State) (m i : Coll) (count : Nat) (h0 : Keeps s0 s) :
    Keeps s0 (collAgain x s m i count).state := by
  unfold collAgain
  split
  · exact collRetire_keeps _ _ _ _ (Keeps.mkOf h0)
  split
  · exact (State.taskWait_keeps _ _ _ _ h0 : Keeps s0 (s.taskWait x.core x.slot .coll))
  · exact collRetire_keeps _ _ _ _ (State.vblPump_keeps _ (State.collEnd_keeps _ _ _ _ h0))

theorem collRun_keeps {s0 : State} (x : Cx) (s : State) (m : Coll) (h0 : Keeps s0 s) : ChkKeeps s0 (collRun x s m) := by
  have hr : ∀ t a b, Keeps s0 t → ChkKeeps s0 (.ok (collRetire x t a b)) := fun t a b ht n e => by
    cases e; exact collRetire_keeps _ _ _ _ ht
  unfold collRun
  extract_lets p count
  split
  · intro n e
    cases e
    exact collAgain_keeps _ _ _ _ _ h0
  split
  · exact hr _ _ _ (State.vblPump_keeps _ (State.collEnd_keeps _ _ _ _ h0))
  split
  · exact hr _ _ _ (State.collEnd_keeps _ _ _ _ (Keeps.mkOf h0))
  split
  · exact ChkKeeps.stay (State.collStart_keeps _ _ _ h0)
  · exact ChkKeeps.error

theorem collBody_keeps {s0 : State} (x : Cx) (s : State) (h0 : Keeps s0 s) :
    ChkKeeps s0 (collBody x s) := by
  unfold collBody
  repeat' first
    | with_reducible assumption
    | with_reducible apply collRun_keeps
    | with_reducible exact Keeps.mk' (by assumption) rfl rfl rfl
    | with_reducible apply ChkKeeps.retire
    | with_reducible apply ChkKeeps.jump
    | with_reducible apply ChkKeeps.stay
    | with_reducible apply ChkKeeps.error
    | (with_reducible refine ChkKeeps.bind (fun _ => ?_))

theorem execCollSum_keeps {s0 : State} (i : Issue) (s : State) (h0 : Keeps s0 s) :
    OutKeeps s0 (execCollSum i s) := by
  unfold execCollSum
  repeat' first
    | with_reducible assumption
    | with_reducible apply collBody_keeps
    | with_reducible apply issue_keeps

theorem State.collStray_keeps {s0 : State} (s : State) (m : RxMsg) (h0 : Keeps s0 s) :
    Keeps s0 (State.collStray s m) := by
  unfold State.collStray
  repeat' first
    | with_reducible assumption
    | with_reducible apply State.misuseMod_keeps
    | with_reducible apply State.bump_keeps
    | with_reducible exact Keeps.mk' (by assumption) rfl rfl rfl
    | split

theorem State.takeMark_keeps {s0 : State} (s : State) (kind : Nat → Bool) (h0 : Keeps s0 s) :
    SndKeeps s0 (State.takeMark s kind) := by
  unfold State.takeMark
  repeat' first
    | with_reducible assumption
    | with_reducible apply State.takeMsg_keeps
    | with_reducible exact Keeps.mk' (by assumption) rfl rfl rfl
    | with_reducible apply SndKeeps.some
    | with_reducible apply SndKeeps.none
    | (intro x; clear_value x)
    | split
    | (with_reducible refine Keeps.ofFst (by with_reducible assumption) ?_)
    | (with_reducible refine Keeps.ofOpt (by with_reducible assumption) ?_)
    | (with_reducible refine Keeps.ofSnd (by with_reducible assumption) ?_)

theorem State.collReady_keeps {s0 : State} (s : State) (h0 : Keeps s0 s) :
    Keeps s0 (State.collReady s) := by
  unfold State.collReady
  repeat' first
    | with_reducible assumption
    | with_reducible apply State.takeMark_keeps
    | with_reducible apply State.collStray_keeps
    | with_reducible apply State.collAbort_keeps
    | with_reducible apply State.setColl_keeps
    | with_reducible apply State.vblPump_keeps
    | with_reducible exact Keeps.mk' (by assumption) rfl rfl rfl
    | split
    | (with_reducible refine Keeps.ofFst (by with_reducible assumption) ?_)
    | (with_reducible refine Keeps.ofOpt (by with_reducible assumption) ?_)
    | (with_reducible refine Keeps.ofSnd (by with_reducible assumption) ?_)

theorem execCollReadyReceive_keeps {s0 : State} (s : State) (h0 : Keeps s0 s) :
    OutKeeps s0 (execCollReadyReceive s) := by
  unfold execCollReadyReceive
  repeat' first
    | with_reducible assumption
    | with_reducible apply State.clocked_keeps
    | with_reducible apply State.collReady_keeps
    | with_reducible exact Keeps.mk' (by assumption) rfl rfl rfl
    | with_reducible apply OutKeeps.next
    | with_reducible apply OutKeeps.fault

theorem State.collDone_keeps {s0 : State} (s : State) (h0 : Keeps s0 s) :
    Keeps s0 (State.collDone s) := by
  unfold State.collDone
  repeat' first
    | with_reducible assumption
    | with_reducible apply State.takeMark_keeps
    | with_reducible apply State.collStray_keeps
    | with_reducible apply State.setColl_keeps
    | with_reducible apply State.put_keeps
    | with_reducible exact Keeps.mk' (by assumption) rfl rfl rfl
    | (intro x; clear_value x)
    | split
    | (with_reducible refine Keeps.ofFst (by with_reducible assumption) ?_)
    | (with_reducible refine Keeps.ofOpt (by with_reducible assumption) ?_)
    | (with_reducible refine Keeps.ofSnd (by with_reducible assumption) ?_)
    | lift_lets

theorem execCollDoneReceive_keeps {s0 : State} (s : State) (h0 : Keeps s0 s) :
    OutKeeps s0 (execCollDoneReceive s) := by
  unfold execCollDoneReceive
  repeat' first
    | with_reducible assumption
    | with_reducible apply State.clocked_keeps
    | with_reducible apply State.collDone_keeps
    | with_reducible exact Keeps.mk' (by assumption) rfl rfl rfl
    | with_reducible apply OutKeeps.next
    | with_reducible apply OutKeeps.fault

theorem State.collAbortIn_keeps {s0 : State} (s : State) (h0 : Keeps s0 s) :
    Keeps s0 (State.collAbortIn s) := by
  unfold State.collAbortIn
  repeat' first
    | with_reducible assumption
    | with_reducible apply State.takeMark_keeps
    | with_reducible apply State.collStray_keeps
    | with_reducible apply State.collAbort_keeps
    | with_reducible apply State.vblPump_keeps
    | with_reducible apply State.misuseMod_keeps
    | with_reducible exact Keeps.mk' (by assumption) rfl rfl rfl
    | (fail_if_no_progress extract_lets +onlyGivenNames x)
    | split
    | (fail_if_no_progress with_reducible apply Keeps.mkOf)
    | (with_reducible refine Keeps.ofFst (by with_reducible assumption) ?_)
    | (with_reducible refine Keeps.ofOpt (by with_reducible assumption) ?_)
    | (with_reducible refine Keeps.ofSnd (by with_reducible assumption) ?_)

theorem execCollAbortReceive_keeps {s0 : State} (s : State) (h0 : Keeps s0 s) :
    OutKeeps s0 (execCollAbortReceive s) := by
  unfold execCollAbortReceive
  repeat' first
    | with_reducible assumption
    | with_reducible apply State.clocked_keeps
    | with_reducible apply State.collAbortIn_keeps
    | with_reducible exact Keeps.mk' (by assumption) rfl rfl rfl
    | with_reducible apply OutKeeps.next
    | with_reducible apply OutKeeps.fault

theorem State.collDataIn_keeps {s0 : State} (s : State) (h0 : Keeps s0 s) :
    Keeps s0 (State.collDataIn s) := by
  unfold State.collDataIn
  repeat' first
    | with_reducible assumption
    | with_reducible apply State.collStray_keeps
    | with_reducible apply State.collAdvance_keeps
    | with_reducible apply State.setColl_keeps
    | with_reducible apply State.takeMsg_keeps
    | with_reducible apply State.vblPump_keeps
    | with_reducible exact Keeps.mk' (by assumption) rfl rfl rfl
    | (intro x; clear_value x)
    | split
    | (with_reducible refine Keeps.ofFst (by with_reducible assumption) ?_)
    | (with_reducible refine Keeps.ofOpt (by with_reducible assumption) ?_)
    | (with_reducible refine Keeps.ofSnd (by with_reducible assumption) ?_)
    | lift_lets

theorem execCollStepDataReceive_keeps {s0 : State} (s : State) (h0 : Keeps s0 s) :
    OutKeeps s0 (execCollStepDataReceive s) := by
  unfold execCollStepDataReceive
  repeat' first
    | with_reducible assumption
    | with_reducible apply State.clocked_keeps
    | with_reducible apply State.collDataIn_keeps
    | with_reducible exact Keeps.mk' (by assumption) rfl rfl rfl
    | with_reducible apply OutKeeps.next
    | with_reducible apply OutKeeps.fault

theorem State.collTimeout_keeps {s0 : State} (s : State) (c : Nat) (num : Nat) (h0 : Keeps s0 s) :
    Keeps s0 (State.collTimeout s c num) := by
  unfold State.collTimeout
  repeat' first
    | with_reducible assumption
    | with_reducible apply State.collAbort_keeps
    | with_reducible apply State.vblPump_keeps
    | with_reducible apply State.raiseCtx_keeps
    | with_reducible exact Keeps.mk' (by assumption) rfl rfl rfl
    | split

theorem execCollTimeout_keeps {s0 : State} (c : CtxId) (num : BitVec 32) (s : State) (h0 : Keeps s0 s) :
    OutKeeps s0 (execCollTimeout c num s) := by
  unfold execCollTimeout
  repeat' first
    | with_reducible assumption
    | with_reducible apply State.clocked_keeps
    | with_reducible apply State.collTimeout_keeps
    | with_reducible exact Keeps.mk' (by assumption) rfl rfl rfl
    | with_reducible apply OutKeeps.next
    | with_reducible apply OutKeeps.fault

theorem State.collResend_keeps {s0 : State} (s : State) (h0 : Keeps s0 s) : Keeps s0 (State.collResend s) := by
  unfold State.collResend
  split
  · exact h0
  extract_lets src s1 src2
  have h1 : Keeps s0 s1 := Keeps.mkOf h0
  split
  · exact h1
  split
  · exact h1
  split
  · exact State.vblPump_keeps _ (State.collAbort_keeps _ _ _ _ h1)
  extract_lets s2 s3 i again src3
  have h2 : Keeps s0 s2 := Keeps.mkOf h1
  have h3 : Keeps s0 s3 := by
    subst s3
    split
    · exact State.setTx_keeps _ _ _ h2
    · exact h2
  exact State.vblPump_keeps _ (State.setColl_keeps _ _ (Keeps.mkOf h3))

theorem execCollStepResend_keeps {s0 : State} (s : State) (h0 : Keeps s0 s) :
    OutKeeps s0 (execCollStepResend s) := by
  unfold execCollStepResend
  repeat' first
    | with_reducible assumption
    | with_reducible apply State.clocked_keeps
    | with_reducible apply State.collResend_keeps
    | with_reducible exact Keeps.mk' (by assumption) rfl rfl rfl
    | with_reducible apply OutKeeps.next
    | with_reducible apply OutKeeps.fault

theorem State.collClear_keeps {s0 : State} (s : State) (c : Nat) (h0 : Keeps s0 s) :
    Keeps s0 (State.collClear s c) := by
  unfold State.collClear
  repeat' first
    | with_reducible assumption
    | with_reducible apply State.clear64_keeps
    | with_reducible apply State.clearAll_keeps

theorem execColCntClear_keeps {s0 : State} (req : Requester) (c : CtxId) (s : State) (h0 : Keeps s0 s) :
    OutKeeps s0 (execColCntClear req c s) := by
  unfold execColCntClear
  repeat' first
    | with_reducible assumption
    | with_reducible apply State.collClear_keeps
    | with_reducible apply State.write_keeps
    | with_reducible exact Keeps.mk' (by assumption) rfl rfl rfl
    | with_reducible apply OutKeeps.next
    | with_reducible apply OutKeeps.fault
    | split
    | with_reducible apply_assumption
    | intro _

end Sys2Proof.Machine
end

