-- ==== Sys2Proof/Laws/KeepsNet.lean ====
section
/-!
SUPPORT. Every function of Machine/Net.lean keeps the queue and the canonical forms.
-/
namespace Sys2Proof.Machine
open Sys2Proof

theorem State.cargoLost_keeps {s0 : State} (s : State) (b0 : Cargo) (h0 : Keeps s0 s) :
    Keeps s0 (State.cargoLost s b0) := by
  unfold State.cargoLost
  repeat' first
    | with_reducible assumption
    | with_reducible apply State.finish_keeps
    | with_reducible apply State.lvrAbort_keeps
    | with_reducible apply State.migAbort_keeps
    | with_reducible apply State.streamLost_keeps
    | with_reducible exact Keeps.mk' (by assumption) rfl rfl rfl
    | split

theorem State.meshRx_keeps {s0 : State} (s : State) (f : Flit) (d : Nat) (change : MeshRx → MeshRx) (h0 : Keeps s0 s) :
    Keeps s0 (State.meshRx s f d change) := by
  unfold State.meshRx
  repeat' first
    | with_reducible assumption
    | with_reducible apply Cx.emit_keeps
    | with_reducible apply State.emit_keeps
    | with_reducible exact Keeps.mk' (by assumption) rfl rfl rfl
    | (with_reducible refine Keeps.foldl (fun _ _ _ => ?_) _ ?_)

theorem State.meshGone_keeps {s0 : State} (s : State) (f : Flit) (ms : List (Nat × Nat)) (h0 : Keeps s0 s) :
    Keeps s0 (State.meshGone s f ms) := by
  unfold State.meshGone
  repeat' first
    | with_reducible assumption
    | with_reducible apply State.meshRx_keeps
    | with_reducible exact Keeps.mk' (by assumption) rfl rfl rfl
    | (with_reducible refine Keeps.foldl (fun _ _ _ => ?_) _ ?_)

theorem State.meshLost_keeps {s0 : State} (s : State) (f : Flit) (ms : List (Nat × Nat)) (stop : Nat) (h0 : Keeps s0 s) :
    Keeps s0 (State.meshLost s f ms stop) := by
  unfold State.meshLost
  repeat' first
    | with_reducible assumption
    | with_reducible apply State.meshGone_keeps
    | with_reducible apply State.cargoLost_keeps
    | with_reducible apply State.raiseMod_keeps
    | with_reducible apply State.bump_keeps

theorem State.shutDrop_keeps {s0 : State} (s : State) (f : Flit) (ms : List (Nat × Nat)) (h0 : Keeps s0 s) :
    Keeps s0 (State.shutDrop s f ms) := by
  unfold State.shutDrop
  repeat' first
    | with_reducible assumption
    | with_reducible apply State.meshGone_keeps
    | with_reducible apply State.misusePart_keeps
    | with_reducible apply State.bump_keeps
    | with_reducible exact Keeps.mk' (by assumption) rfl rfl rfl
    | split

theorem State.stopLoses_keeps {s0 : State}  : ∀ (b0 : Nat) (b1 : State) (b2 : Nat), Keeps s0 b1 → Keeps s0 (State.stopLoses b0 b1 b2) := by
  intro b0
  induction b0 with
  | zero =>
    intros
    unfold State.stopLoses
    repeat' first
      | with_reducible assumption
  | succ n ih =>
    intros
    unfold State.stopLoses
    repeat' first
      | with_reducible assumption
      | with_reducible apply ih
      | with_reducible apply State.meshLost_keeps
      | with_reducible exact Keeps.mk' (by assumption) rfl rfl rfl
      | split

theorem State.meshSeqs_keeps {s0 : State} (s : State) (keys : List (Nat × Nat)) (h0 : Keeps s0 s) :
    Keeps s0 (State.meshSeqs s keys).1 := by
  unfold State.meshSeqs
  repeat' first
    | with_reducible assumption
    | with_reducible apply State.put_keeps
    | with_reducible exact Keeps.mk' (by assumption) rfl rfl rfl
    | (with_reducible refine Keeps.foldl (fun _ _ _ => ?_) _ ?_)
    | (with_reducible refine Keeps.foldlFst (fun _ _ _ => ?_) _ ?_)

theorem State.takeToken_keeps {s0 : State} (s : State) (port : Nat) (h0 : Keeps s0 s) :
    OptKeeps s0 (State.takeToken s port) := by
  unfold State.takeToken
  repeat' first
    | with_reducible assumption
    | with_reducible apply State.put_keeps
    | with_reducible exact Keeps.mk' (by assumption) rfl rfl rfl
    | with_reducible apply OptKeeps.some
    | with_reducible apply OptKeeps.none
    | (intro x; clear_value x)
    | split
    | lift_lets

theorem State.letIn_keeps {s0 : State} (s : State) (port : Nat) (ex : Bool) (h0 : Keeps s0 s) :
    Keeps s0 (State.letIn s port ex).1 := by
  unfold State.letIn
  split
  · exact h0
  · split
    next e =>
      refine Keeps.ofOpt e ?_
      split
      · exact OptKeeps.none
      · exact State.takeToken_keeps _ _ h0
    · exact State.bump_keeps _ _ _ h0

theorem State.meshAdmit_keeps {s0 : State} (s : State) (i : Nat) (f : Flit) (h0 : Keeps s0 s) :
    Keeps s0 (State.meshAdmit s i f) := by
  unfold State.meshAdmit
  extract_lets same first
  split
  · exact h0
  next e =>
    have h1 : Keeps s0 _ := Keeps.ofOpt e (by
      split
      · exact State.takeToken_keeps _ _ h0
      · exact OptKeeps.none)
    exact Keeps.mkOf h1

theorem State.meshQueue_keeps {s0 : State} (s : State) (p : MeshPacket) (cls : Nat) (stamp : Option Nat) (admitted : Bool)
    (ms : List (Nat × Nat)) (h0 : Keeps s0 s) : Keeps s0 (State.meshQueue s p cls stamp admitted ms) := Keeps.mkOf h0

theorem State.meshEnter_keeps {s0 : State} (s : State) (p : MeshPacket) (h0 : Keeps s0 s) :
    Keeps s0 (State.meshEnter s p) := by
  unfold State.meshEnter
  extract_lets src targets
  split
  · exact h0
  · split
    · exact State.cargoLost_keeps _ _ (State.bump_keeps _ _ _ (State.raiseMod_keeps _ _ _ _ _ _ h0))
    · exact State.meshQueue_keeps _ _ _ _ _ _ (State.meshSeqs_keeps _ _ (State.letIn_keeps _ _ _ h0))

theorem State.clearUp_keeps {s0 : State} (s : State) (d : Nat) (dir : Nat) (net : Nat) (h0 : Keeps s0 s) :
    Keeps s0 (State.clearUp s d dir net) := by
  unfold State.clearUp
  repeat' first
    | with_reducible assumption
    | with_reducible apply State.put_keeps

theorem State.meshReplay_keeps {s0 : State} (s : State) (f : Flit) (next : Nat) (dir : Nat) (h0 : Keeps s0 s) :
    Keeps s0 (State.meshReplay s f next dir).1 := by
  unfold State.meshReplay
  repeat' first
    | with_reducible assumption
    | with_reducible apply State.bump_keeps
    | with_reducible apply State.clearUp_keeps
    | with_reducible apply State.loseGroups_keeps
    | with_reducible apply State.put_keeps
    | with_reducible apply State.raiseMod_keeps
    | with_reducible exact Keeps.mk' (by assumption) rfl rfl rfl
    | (fail_if_no_progress extract_lets +onlyGivenNames x)
    | split
    | intro _
    | (fail_if_no_progress with_reducible apply Keeps.mkOf)

theorem State.meshArrive_keeps {s0 : State} (s : State) (f : Flit) (m : Nat × Nat) (h0 : Keeps s0 s) :
    Keeps s0 (State.meshArrive s f m) := by
  unfold State.meshArrive
  repeat' first
    | with_reducible assumption
    | with_reducible apply State.meshRx_keeps
    | with_reducible apply State.shutDrop_keeps
    | with_reducible exact Keeps.mk' (by assumption) rfl rfl rfl
    | split

theorem State.holdLink_keeps {s0 : State} (s : State) (i : Nat) (f : Flit) (h0 : Keeps s0 s) :
    Keeps s0 (State.holdLink s i f) := by
  unfold State.holdLink
  split
  · exact State.bump_keeps _ _ _ (Keeps.mkOf h0)
  · exact h0

theorem State.meshStay_keeps {s0 : State} (s : State) (f : Flit) (bad : Option Nat) (stay : List (Nat × Nat)) (h0 : Keeps s0 s) :
    Keeps s0 (State.meshStay s f bad stay).1 := by
  unfold State.meshStay
  split
  · split
    · exact h0
    · exact State.meshReplay_keeps _ _ _ _ h0
  · exact h0

theorem State.meshSend_keeps {s0 : State} (s : State) (i : Nat) (f : Flit) (bad : Option Nat) (h0 : Keeps s0 s) :
    Keeps s0 (State.meshSend s i f bad) := by
  unfold State.meshSend
  extract_lets here stay copies r src mesh s1 s2 s3
  have h1 : Keeps s0 s1 := Keeps.mkOf (State.meshStay_keeps _ _ _ _ h0)
  have h2 : Keeps s0 s2 := by
    subst s2
    split
    · exact h1
    · exact State.meshLost_keeps _ _ _ _ h1
  have h3 : Keeps s0 s3 := by
    subst s3
    split
    · exact h2
    · exact State.shutDrop_keeps _ _ _ h2
  exact Keeps.foldl (fun _ _ h => State.meshArrive_keeps _ _ _ h) _ h3

theorem State.meshHop_keeps {s0 : State} (s : State) (i : Nat) (bad : Option Nat) (h0 : Keeps s0 s) :
    Keeps s0 (State.meshHop s i bad) := by
  unfold State.meshHop
  split
  · exact h0
  · split
    · exact State.meshLost_keeps _ _ _ _ h0
    · split
      · exact State.meshAdmit_keeps _ _ _ h0
      · split
        · exact h0
        · extract_lets outs taken
          split
          · exact State.holdLink_keeps _ _ _ h0
          · exact State.meshSend_keeps _ _ _ _ (Keeps.mkOf h0)

theorem execMeshFlitArrive_keeps {s0 : State} (e : MeshEvent) (s : State) (h0 : Keeps s0 s) :
    OutKeeps s0 (execMeshFlitArrive e s) := by
  unfold execMeshFlitArrive
  repeat' first
    | with_reducible assumption
    | with_reducible apply State.clocked_keeps
    | with_reducible apply State.meshEnter_keeps
    | with_reducible apply State.meshHop_keeps
    | with_reducible exact Keeps.mk' (by assumption) rfl rfl rfl
    | with_reducible apply OutKeeps.next
    | with_reducible apply OutKeeps.fault
    | (fail_if_no_progress extract_lets +onlyGivenNames x)
    | split

theorem State.meshTick_keeps {s0 : State} (s : State) (h0 : Keeps s0 s) :
    Keeps s0 (State.meshTick s) := by
  unfold State.meshTick
  repeat' first
    | with_reducible assumption
    | with_reducible exact Keeps.mk' (by assumption) rfl rfl rfl

theorem State.netArm_keeps {s0 : State} (s : State) (req : Requester) (h0 : Keeps s0 s) :
    Keeps s0 (State.netArm s req) := by
  unfold State.netArm
  repeat' first
    | with_reducible assumption
    | with_reducible apply State.raiseMod_keeps
    | with_reducible apply State.misuse_keeps
    | with_reducible apply State.put_keeps
    | with_reducible exact Keeps.mk' (by assumption) rfl rfl rfl
    | (intro x; clear_value x)
    | split
    | lift_lets

theorem execNetTblArm_keeps {s0 : State} (req : Requester) (s : State) (h0 : Keeps s0 s) :
    OutKeeps s0 (execNetTblArm req s) := by
  unfold execNetTblArm
  repeat' first
    | with_reducible assumption
    | with_reducible apply State.netArm_keeps
    | with_reducible apply State.write_keeps
    | with_reducible exact Keeps.mk' (by assumption) rfl rfl rfl
    | with_reducible apply OutKeeps.next
    | with_reducible apply OutKeeps.fault
    | split
    | with_reducible apply_assumption
    | intro _

theorem State.netSwitch_keeps {s0 : State} (s : State) (h0 : Keeps s0 s) :
    Keeps s0 (State.netSwitch s) := by
  unfold State.netSwitch
  repeat' first
    | with_reducible assumption
    | with_reducible apply State.raiseMod_keeps
    | with_reducible apply State.put_keeps
    | with_reducible exact Keeps.mk' (by assumption) rfl rfl rfl
    | (intro x; refine Keeps.have_ (Q := Keeps s0 x) ?q ?h; (case' q => subst x); (case' h => (intro hx; clear_value x)))
    | (intro x; clear_value x)
    | split
    | lift_lets

theorem execNetTblSwitch_keeps {s0 : State} (s : State) (h0 : Keeps s0 s) :
    OutKeeps s0 (execNetTblSwitch s) := by
  unfold execNetTblSwitch
  repeat' first
    | with_reducible assumption
    | with_reducible apply State.clocked_keeps
    | with_reducible apply State.netSwitch_keeps
    | with_reducible exact Keeps.mk' (by assumption) rfl rfl rfl
    | with_reducible apply OutKeeps.next

theorem State.netTickWrite_keeps {s0 : State} (s : State) (req : Requester) (v : Nat) (h0 : Keeps s0 s) :
    Keeps s0 (State.netTickWrite s req v) := by
  unfold State.netTickWrite
  repeat' first
    | with_reducible assumption
    | with_reducible apply State.misuse_keeps
    | with_reducible apply State.put64_keeps
    | with_reducible exact Keeps.mk' (by assumption) rfl rfl rfl
    | split

theorem State.routeWrite_keeps {s0 : State} (s : State) (req : Requester) (i : Nat) (v : Nat) (h0 : Keeps s0 s) :
    Keeps s0 (State.routeWrite s req i v) := by
  unfold State.routeWrite
  repeat' first
    | with_reducible assumption
    | with_reducible apply State.misuse_keeps
    | with_reducible apply State.wr_keeps
    | with_reducible exact Keeps.mk' (by assumption) rfl rfl rfl
    | split

theorem State.nodeFresh_keeps {s0 : State} (s : State) (k : Nat) (h0 : Keeps s0 s) :
    Keeps s0 (State.nodeFresh s k) := by
  unfold State.nodeFresh
  repeat' first
    | with_reducible assumption
    | with_reducible exact Keeps.mk' (by assumption) rfl rfl rfl

theorem State.nodeWrite_keeps {s0 : State} (s : State) (req : Requester) (core : Nat) (node : Nat) (v : Nat) (h0 : Keeps s0 s) :
    Keeps s0 (State.nodeWrite s req core node v) := by
  unfold State.nodeWrite
  repeat' first
    | with_reducible assumption
    | with_reducible apply State.misuse_keeps
    | with_reducible apply State.nodeFresh_keeps
    | with_reducible apply State.wr_keeps
    | with_reducible exact Keeps.mk' (by assumption) rfl rfl rfl
    | (intro x; clear_value x)
    | split
    | lift_lets

theorem execMrgNodeEnable_keeps {s0 : State} (req : Requester) (core : CoreId) (node : SlotId) (v : BitVec 32) (s : State) (h0 : Keeps s0 s) :
    OutKeeps s0 (execMrgNodeEnable req core node v s) := by
  unfold execMrgNodeEnable
  repeat' first
    | with_reducible assumption
    | with_reducible apply State.nodeWrite_keeps
    | with_reducible apply State.write_keeps
    | with_reducible exact Keeps.mk' (by assumption) rfl rfl rfl
    | with_reducible apply OutKeeps.next
    | with_reducible apply OutKeeps.fault
    | split
    | lift_lets
    | with_reducible apply_assumption
    | intro _

theorem State.netCntClear_keeps {s0 : State} (s : State) (h0 : Keeps s0 s) :
    Keeps s0 (State.netCntClear s) := by
  unfold State.netCntClear
  repeat' first
    | with_reducible assumption
    | with_reducible apply State.clearAll_keeps

theorem execNetCntClear_keeps {s0 : State} (req : Requester) (s : State) (h0 : Keeps s0 s) :
    OutKeeps s0 (execNetCntClear req s) := by
  unfold execNetCntClear
  repeat' first
    | with_reducible assumption
    | with_reducible apply State.netCntClear_keeps
    | with_reducible apply State.write_keeps
    | with_reducible exact Keeps.mk' (by assumption) rfl rfl rfl
    | with_reducible apply OutKeeps.next

end Sys2Proof.Machine
end

