-- ==== Sys2Proof/Laws/KeepsEvent.lean ====
section
/-!
SUPPORT. Every function of Machine/Event.lean keeps the queue and the canonical forms.
-/
namespace Sys2Proof.Machine
open Sys2Proof

theorem State.setEvq_keeps {s0 : State} (s : State) (q : Nat) (x : EvcQ) (h0 : Keeps s0 s) :
    Keeps s0 (State.setEvq s q x) := by
  unfold State.setEvq
  repeat' first
    | with_reducible assumption
    | with_reducible exact Keeps.mk' (by assumption) rfl rfl rfl

theorem State.evcRaise_keeps {s0 : State} (s : State) (src : Nat) (code : Nat) (sev : Nat) (w2 : Nat) (w3 : Nat) (h0 : Keeps s0 s) :
    Keeps s0 (State.evcRaise s src code sev w2 w3) := by
  unfold State.evcRaise
  repeat' first
    | with_reducible assumption
    | with_reducible exact Keeps.mk' (by assumption) rfl rfl rfl

theorem State.svcLog_keeps {s0 : State} (s : State) (e : Event) (h0 : Keeps s0 s) :
    Keeps s0 (State.svcLog s e) := by
  unfold State.svcLog
  repeat' first
    | with_reducible assumption
    | with_reducible exact Keeps.mk' (by assumption) rfl rfl rfl

theorem State.logQueue_keeps {s0 : State} (s : State) (q : Nat) (h0 : Keeps s0 s) :
    Keeps s0 (State.logQueue s q) := by
  unfold State.logQueue
  repeat' first
    | with_reducible assumption
    | with_reducible apply State.svcLog_keeps
    | with_reducible apply State.setEvq_keeps
    | with_reducible exact Keeps.mk' (by assumption) rfl rfl rfl
    | (with_reducible refine Keeps.foldl (fun _ _ _ => ?_) _ ?_)

theorem State.svcRaise_keeps {s0 : State} (s : State) (code : Nat) (sev : Nat) (w2 : Nat) (w3 : Nat) (h0 : Keeps s0 s) :
    Keeps s0 (State.svcRaise s code sev w2 w3) := by
  unfold State.svcRaise
  repeat' first
    | with_reducible assumption
    | with_reducible apply State.svcLog_keeps
    | with_reducible apply State.raiseMod_keeps

theorem State.evcSignal_keeps {s0 : State} (s : State) (q : Nat) (h0 : Keeps s0 s) :
    Keeps s0 (State.evcSignal s q) := by
  unfold State.evcSignal
  repeat' first
    | with_reducible assumption
    | with_reducible apply State.logQueue_keeps
    | with_reducible apply State.setEvq_keeps
    | with_reducible apply State.addReq_keeps
    | with_reducible apply Cx.emit_keeps
    | with_reducible apply State.emit_keeps
    | with_reducible apply State.put_keeps
    | with_reducible exact Keeps.mk' (by assumption) rfl rfl rfl
    | split

theorem State.evcJudge_keeps {s0 : State} (s : State) (q : Nat) (h0 : Keeps s0 s) :
    Keeps s0 (State.evcJudge s q) := by
  unfold State.evcJudge
  repeat' first
    | with_reducible assumption
    | with_reducible apply State.evcSignal_keeps
    | with_reducible exact Keeps.mk' (by assumption) rfl rfl rfl
    | (intro x; clear_value x)
    | split
    | lift_lets

theorem State.levelRaise_keeps {s0 : State} (s : State) (src : Nat) (h0 : Keeps s0 s) :
    Keeps s0 (State.levelRaise s src) := by
  unfold State.levelRaise
  repeat' first
    | with_reducible assumption
    | with_reducible apply State.svcRaise_keeps
    | with_reducible apply State.evcRaise_keeps
    | with_reducible apply State.put_keeps
    | with_reducible exact Keeps.mk' (by assumption) rfl rfl rfl
    | split

theorem State.resample_keeps {s0 : State} (s : State) (q : Nat) (h0 : Keeps s0 s) :
    Keeps s0 (State.resample s q) := by
  unfold State.resample
  repeat' first
    | with_reducible assumption
    | with_reducible apply State.levelRaise_keeps
    | with_reducible exact Keeps.mk' (by assumption) rfl rfl rfl
    | (with_reducible refine Keeps.foldl (fun _ _ _ => ?_) _ ?_)

theorem State.evcWritten_keeps {s0 : State} (s : State) (q : Nat) (e : Event) (h0 : Keeps s0 s) :
    Keeps s0 (State.evcWritten s q e) := by
  unfold State.evcWritten
  repeat' first
    | with_reducible assumption
    | with_reducible apply State.levelRaise_keeps
    | with_reducible apply State.evcJudge_keeps
    | with_reducible apply State.setEvq_keeps
    | with_reducible apply State.put_keeps
    | with_reducible exact Keeps.mk' (by assumption) rfl rfl rfl
    | (fail_if_no_progress extract_lets +onlyGivenNames x)
    | split
    | (fail_if_no_progress with_reducible apply Keeps.mkOf)

theorem State.evcFail_keeps {s0 : State} (s : State) (q : Nat) (e : Event) (h0 : Keeps s0 s) :
    Keeps s0 (State.evcFail s q e) := by
  unfold State.evcFail
  repeat' first
    | with_reducible assumption
    | with_reducible apply State.evcRaise_keeps
    | with_reducible apply State.setEvq_keeps
    | with_reducible apply State.put_keeps

theorem State.evcPut_keeps {s0 : State} (s : State) (q : Nat) (e : Event) (h0 : Keeps s0 s) :
    Keeps s0 (State.evcPut s q e) := by
  unfold State.evcPut
  extract_lets base off core m
  split
  · exact State.addReq_keeps _ _ _ _ _ _ _ _ _ (State.setEvq_keeps _ _ _ h0)
  split
  · exact State.evcFail_keeps _ _ _ h0
  · exact State.evcWritten_keeps _ _ _ (Keeps.mkMem h0 rfl rfl (Memory.store_wf _ _ _ _))

theorem State.evcDrain_keeps {s0 : State}  : ∀ (b0 : Nat) (b1 : State) (b2 : Nat), Keeps s0 b1 → Keeps s0 (State.evcDrain b0 b1 b2) := by
  intro b0
  induction b0 with
  | zero =>
    intros
    unfold State.evcDrain
    repeat' first
      | with_reducible assumption
  | succ n ih =>
    intros
    unfold State.evcDrain
    repeat' first
      | with_reducible assumption
      | with_reducible apply ih
      | with_reducible apply State.evcPut_keeps
      | with_reducible apply State.setEvq_keeps
      | with_reducible exact Keeps.mk' (by assumption) rfl rfl rfl
      | (intro x; clear_value x)
      | split
      | (with_reducible refine Keeps.ofFst (by with_reducible assumption) ?_)
      | (with_reducible refine Keeps.ofOpt (by with_reducible assumption) ?_)
      | (with_reducible refine Keeps.ofSnd (by with_reducible assumption) ?_)
      | lift_lets

theorem State.evcPump_keeps {s0 : State} (s : State) (q : Nat) (h0 : Keeps s0 s) :
    Keeps s0 (State.evcPump s q) := by
  unfold State.evcPump
  repeat' first
    | with_reducible assumption
    | with_reducible apply State.evcDrain_keeps

theorem State.evcDrop_keeps {s0 : State} (s : State) (q : Nat) (e : Event) (h0 : Keeps s0 s) :
    Keeps s0 (State.evcDrop s q e) := by
  unfold State.evcDrop
  repeat' first
    | with_reducible assumption
    | with_reducible apply State.setEvq_keeps
    | with_reducible apply State.bump_keeps

theorem State.evcFile_keeps {s0 : State} (s : State) (q : Nat) (e : Event) (h0 : Keeps s0 s) :
    Keeps s0 (State.evcFile s q e) := by
  unfold State.evcFile
  repeat' first
    | with_reducible assumption
    | with_reducible apply State.evcDrop_keeps
    | with_reducible apply State.evcPump_keeps
    | with_reducible apply State.setEvq_keeps
    | with_reducible exact Keeps.mk' (by assumption) rfl rfl rfl
    | (intro x; clear_value x)
    | split
    | lift_lets

theorem State.evcRoute_keeps {s0 : State} (s : State) (e : Event) (h0 : Keeps s0 s) :
    Keeps s0 (State.evcRoute s e) := by
  unfold State.evcRoute
  repeat' first
    | with_reducible assumption
    | with_reducible apply State.evcFile_keeps
    | with_reducible apply State.bump_keeps
    | with_reducible exact Keeps.mk' (by assumption) rfl rfl rfl
    | split

theorem State.evcSettle_keeps {s0 : State}  : ∀ (b0 : Nat) (b1 : State), Keeps s0 b1 → Keeps s0 (State.evcSettle b0 b1) := by
  intro b0
  induction b0 with
  | zero =>
    intros
    unfold State.evcSettle
    repeat' first
      | with_reducible assumption
  | succ n ih =>
    intros
    unfold State.evcSettle
    repeat' first
      | with_reducible assumption
      | with_reducible apply ih
      | with_reducible apply State.evcRoute_keeps
      | with_reducible exact Keeps.mk' (by assumption) rfl rfl rfl
      | split

theorem State.evcEnded_keeps {s0 : State} (s : State) (h0 : Keeps s0 s) :
    Keeps s0 (State.evcEnded s) := by
  unfold State.evcEnded
  repeat' first
    | with_reducible assumption
    | with_reducible apply State.evcPump_keeps
    | with_reducible apply State.evcFail_keeps
    | with_reducible apply State.evcWritten_keeps
    | with_reducible apply State.setEvq_keeps
    | with_reducible exact Keeps.mk' (by assumption) rfl rfl rfl
    | (with_reducible refine Keeps.foldl (fun _ _ _ => ?_) _ ?_)
    | (with_reducible refine Keeps.foldlFst (fun _ _ _ => ?_) _ ?_)
    | (intro x; refine Keeps.have_ (Q := Keeps s0 x) ?q ?h; (case' q => subst x); (case' h => intro hx))
    | (intro x; skip)
    | split
    | (with_reducible refine Keeps.ofFst (by with_reducible assumption) ?_)
    | (with_reducible refine Keeps.ofOpt (by with_reducible assumption) ?_)
    | (with_reducible refine Keeps.ofSnd (by with_reducible assumption) ?_)
    | lift_lets

theorem State.supCheck_keeps {s0 : State} (s : State) (h0 : Keeps s0 s) :
    Keeps s0 (State.supCheck s) := by
  unfold State.supCheck
  repeat' first
    | with_reducible assumption
    | with_reducible apply State.evcJudge_keeps
    | with_reducible apply State.evcSignal_keeps
    | with_reducible exact Keeps.mk' (by assumption) rfl rfl rfl
    | (with_reducible refine Keeps.foldl (fun _ _ _ => ?_) _ ?_)
    | (with_reducible refine Keeps.foldlFst (fun _ _ _ => ?_) _ ?_)
    | (intro x; clear_value x)
    | split
    | lift_lets

theorem State.evcFlow_keeps {s0 : State} (s : State) (h0 : Keeps s0 s) :
    Keeps s0 (State.evcFlow s) := by
  unfold State.evcFlow
  repeat' first
    | with_reducible assumption
    | with_reducible apply State.supCheck_keeps
    | with_reducible apply State.evcEnded_keeps
    | with_reducible apply State.evcSettle_keeps

theorem State.evcTick_keeps {s0 : State} (s : State) (h0 : Keeps s0 s) :
    Keeps s0 (State.evcTick s) := by
  unfold State.evcTick
  repeat' first
    | with_reducible assumption
    | with_reducible apply State.evcFlow_keeps
    | with_reducible exact Keeps.mk' (by assumption) rfl rfl rfl
    | split

theorem State.eventReport_keeps {s0 : State} (s : State) (src : Nat) (h0 : Keeps s0 s) :
    Keeps s0 (State.eventReport s src) := by
  unfold State.eventReport
  dsimp only
  repeat' first
    | with_reducible assumption
    | with_reducible apply State.evcFlow_keeps
    | with_reducible apply State.evcRoute_keeps
    | with_reducible apply State.raiseMod_keeps
    | with_reducible exact Keeps.mk' (by assumption) rfl rfl rfl
    | split

theorem execEventReport_keeps {s0 : State} (src : BitVec 16) (s : State) (h0 : Keeps s0 s) :
    OutKeeps s0 (execEventReport src s) := by
  unfold execEventReport
  repeat' first
    | with_reducible assumption
    | with_reducible apply State.clocked_keeps
    | with_reducible apply State.eventReport_keeps
    | with_reducible exact Keeps.mk' (by assumption) rfl rfl rfl
    | with_reducible apply OutKeeps.next
    | with_reducible apply OutKeeps.fault

theorem State.coalesce_keeps {s0 : State} (s : State) (q : Nat) (h0 : Keeps s0 s) :
    Keeps s0 (State.coalesce s q) := by
  unfold State.coalesce
  repeat' first
    | with_reducible assumption
    | with_reducible apply State.evcFlow_keeps
    | with_reducible apply State.evcJudge_keeps
    | with_reducible apply State.setEvq_keeps
    | with_reducible exact Keeps.mk' (by assumption) rfl rfl rfl
    | (intro x; clear_value x)
    | split
    | lift_lets

theorem execCoalesceTimeout_keeps {s0 : State} (q : QueueId) (s : State) (h0 : Keeps s0 s) :
    OutKeeps s0 (execCoalesceTimeout q s) := by
  unfold execCoalesceTimeout
  repeat' first
    | with_reducible assumption
    | with_reducible apply State.clocked_keeps
    | with_reducible apply State.coalesce_keeps
    | with_reducible exact Keeps.mk' (by assumption) rfl rfl rfl
    | with_reducible apply OutKeeps.next
    | with_reducible apply OutKeeps.fault

theorem State.gdisWrite_keeps {s0 : State} (s : State) (v : Nat) (h0 : Keeps s0 s) :
    Keeps s0 (State.gdisWrite s v) := by
  unfold State.gdisWrite
  repeat' first
    | with_reducible assumption
    | with_reducible apply State.evcFlow_keeps
    | with_reducible apply State.evcDrop_keeps
    | with_reducible apply State.evcPump_keeps
    | with_reducible apply State.evcJudge_keeps
    | with_reducible apply State.setEvq_keeps
    | with_reducible apply State.put_keeps
    | with_reducible exact Keeps.mk' (by assumption) rfl rfl rfl
    | (with_reducible refine Keeps.foldl (fun _ _ _ => ?_) _ ?_)
    | (with_reducible refine Keeps.foldlFst (fun _ _ _ => ?_) _ ?_)
    | (intro x; refine Keeps.have_ (Q := Keeps s0 x) ?q ?h; (case' q => subst x); (case' h => (intro hx; clear_value x)))
    | split
    | lift_lets

theorem execEvcGdisWrite_keeps {s0 : State} (req : Requester) (v : BitVec 32) (s : State) (h0 : Keeps s0 s) :
    OutKeeps s0 (execEvcGdisWrite req v s) := by
  unfold execEvcGdisWrite
  repeat' first
    | with_reducible assumption
    | with_reducible apply State.gdisWrite_keeps
    | with_reducible apply State.write_keeps
    | with_reducible exact Keeps.mk' (by assumption) rfl rfl rfl
    | with_reducible apply OutKeeps.next
    | with_reducible apply OutKeeps.fault
    | split
    | with_reducible apply_assumption
    | intro _

theorem State.evqCtrlWrite_keeps {s0 : State} (s : State) (req : Requester) (q : Nat) (v : Nat) (h0 : Keeps s0 s) :
    Keeps s0 (State.evqCtrlWrite s req q v) := by
  unfold State.evqCtrlWrite
  dsimp only
  repeat' first
    | with_reducible assumption
    | with_reducible apply State.evcFlow_keeps
    | with_reducible apply State.evcPump_keeps
    | with_reducible apply State.setEvq_keeps
    | with_reducible apply State.misuse_keeps
    | with_reducible apply State.put_keeps
    | with_reducible exact Keeps.mk' (by assumption) rfl rfl rfl
    | split

theorem execEvcQueueEnable_keeps {s0 : State} (req : Requester) (q : QueueId) (v : BitVec 32) (s : State) (h0 : Keeps s0 s) :
    OutKeeps s0 (execEvcQueueEnable req q v s) := by
  unfold execEvcQueueEnable
  repeat' first
    | with_reducible assumption
    | with_reducible apply State.evqCtrlWrite_keeps
    | with_reducible apply State.write_keeps
    | with_reducible exact Keeps.mk' (by assumption) rfl rfl rfl
    | with_reducible apply OutKeeps.next
    | with_reducible apply OutKeeps.fault
    | (intro x; clear_value x)
    | split
    | lift_lets
    | with_reducible apply_assumption
    | intro _

theorem State.evqHeadWrite_keeps {s0 : State} (s : State) (req : Requester) (q : Nat) (v : Nat) (h0 : Keeps s0 s) :
    Keeps s0 (State.evqHeadWrite s req q v) := by
  unfold State.evqHeadWrite
  repeat' first
    | with_reducible assumption
    | with_reducible apply State.evcFlow_keeps
    | with_reducible apply State.evcPump_keeps
    | with_reducible apply State.setEvq_keeps
    | with_reducible apply State.misuse_keeps
    | with_reducible apply State.put_keeps
    | with_reducible exact Keeps.mk' (by assumption) rfl rfl rfl
    | split

theorem execEvcHeadWrite_keeps {s0 : State} (req : Requester) (q : QueueId) (v : BitVec 32) (s : State) (h0 : Keeps s0 s) :
    OutKeeps s0 (execEvcHeadWrite req q v s) := by
  unfold execEvcHeadWrite
  repeat' first
    | with_reducible assumption
    | with_reducible apply State.evqHeadWrite_keeps
    | with_reducible apply State.write_keeps
    | with_reducible exact Keeps.mk' (by assumption) rfl rfl rfl
    | with_reducible apply OutKeeps.next
    | with_reducible apply OutKeeps.fault
    | split
    | with_reducible apply_assumption
    | intro _

theorem State.evqDone_keeps {s0 : State} (s : State) (q : Nat) (h0 : Keeps s0 s) :
    Keeps s0 (State.evqDone s q) := by
  unfold State.evqDone
  repeat' first
    | with_reducible assumption
    | with_reducible apply State.evcFlow_keeps
    | with_reducible apply State.resample_keeps
    | with_reducible apply State.evcJudge_keeps
    | with_reducible apply State.setEvq_keeps
    | with_reducible apply State.put_keeps
    | with_reducible exact Keeps.mk' (by assumption) rfl rfl rfl
    | (intro x; refine Keeps.have_ (Q := Keeps s0 x) ?q ?h; (case' q => subst x); (case' h => intro hx))
    | (intro x; skip)
    | split
    | lift_lets

theorem execEvcDone_keeps {s0 : State} (req : Requester) (q : QueueId) (s : State) (h0 : Keeps s0 s) :
    OutKeeps s0 (execEvcDone req q s) := by
  unfold execEvcDone
  repeat' first
    | with_reducible assumption
    | with_reducible apply State.evqDone_keeps
    | with_reducible apply State.write_keeps
    | with_reducible exact Keeps.mk' (by assumption) rfl rfl rfl
    | with_reducible apply OutKeeps.next
    | with_reducible apply OutKeeps.fault
    | split
    | with_reducible apply_assumption
    | intro _

theorem State.targetTimeout_keeps {s0 : State} (s : State) (q : Nat) (h0 : Keeps s0 s) :
    Keeps s0 (State.targetTimeout s q) := by
  unfold State.targetTimeout
  repeat' first
    | with_reducible assumption
    | with_reducible apply State.evcFlow_keeps
    | with_reducible apply State.evcSignal_keeps
    | with_reducible apply State.evcRaise_keeps
    | with_reducible apply State.bump_keeps
    | with_reducible exact Keeps.mk' (by assumption) rfl rfl rfl
    | split

theorem execTargetTimeout_keeps {s0 : State} (q : QueueId) (s : State) (h0 : Keeps s0 s) :
    OutKeeps s0 (execTargetTimeout q s) := by
  unfold execTargetTimeout
  repeat' first
    | with_reducible assumption
    | with_reducible apply State.clocked_keeps
    | with_reducible apply State.targetTimeout_keeps
    | with_reducible exact Keeps.mk' (by assumption) rfl rfl rfl
    | with_reducible apply OutKeeps.next
    | with_reducible apply OutKeeps.fault

theorem State.alarm_keeps {s0 : State} (s : State) (a : Nat) (raw : Bool) (clocks : Nat) (h0 : Keeps s0 s) :
    Keeps s0 (State.alarm s a raw clocks) := by
  unfold State.alarm
  extract_lets active run s1 src s2
  have h1 : Keeps s0 s1 := State.put_keeps _ _ _ h0
  have h2 : Keeps s0 s2 := State.put_keeps _ _ _ (Keeps.mkOf h1)
  split
  · exact h0
  split
  · split
    · exact h1
    · exact State.bump_keeps _ _ _ (Keeps.mkOf h1)
  split
  · exact Keeps.mkOf h1
  split
  · exact h2
  split
  · exact State.evcFlow_keeps _ (State.levelRaise_keeps _ _ h2)
  · exact State.evcFlow_keeps _ (State.evcRaise_keeps _ _ _ _ _ _ h2)

theorem execAlarm_keeps {s0 : State} (line : Fin 8) (raw : Bool) (clocks : Fin 65536) (s : State) (h0 : Keeps s0 s) :
    OutKeeps s0 (execAlarm line raw clocks s) := by
  unfold execAlarm
  repeat' first
    | with_reducible assumption
    | with_reducible apply State.alarm_keeps
    | with_reducible apply State.clocked_keeps
    | with_reducible exact Keeps.mk' (by assumption) rfl rfl rfl
    | with_reducible apply OutKeeps.next
    | with_reducible apply OutKeeps.fault

theorem State.evcCntClear_keeps {s0 : State} (s : State) (h0 : Keeps s0 s) :
    Keeps s0 (State.evcCntClear s) := by
  unfold State.evcCntClear
  repeat' first
    | with_reducible assumption
    | with_reducible apply State.clearAll_keeps

theorem execEvcCntClear_keeps {s0 : State} (req : Requester) (s : State) (h0 : Keeps s0 s) :
    OutKeeps s0 (execEvcCntClear req s) := by
  unfold execEvcCntClear
  repeat' first
    | with_reducible assumption
    | with_reducible apply State.evcCntClear_keeps
    | with_reducible apply State.write_keeps
    | with_reducible exact Keeps.mk' (by assumption) rfl rfl rfl
    | with_reducible apply OutKeeps.next

end Sys2Proof.Machine
end

