-- ==== Sys2Proof/Laws/KeepsVault.lean ====
section
/-!
SUPPORT. Every function of Machine/Vault.lean keeps the queue and the canonical forms.
-/
namespace Sys2Proof.Machine
open Sys2Proof

theorem State.eraseOld_keeps {s0 : State}  : ∀ (b0 : Nat) (b1 : Nat) (b2 : State), Keeps s0 b2 → Keeps s0 (State.eraseOld b0 b1 b2) := by
  intro b0
  induction b0 with
  | zero =>
    intros
    unfold State.eraseOld
    repeat' first
      | with_reducible assumption
  | succ n ih =>
    intros
    unfold State.eraseOld
    repeat' first
      | with_reducible assumption
      | with_reducible apply ih
      | with_reducible exact Keeps.mk' (by assumption) rfl rfl rfl
      | split

theorem State.storeReport_keeps {s0 : State} (s : State) (h0 : Keeps s0 s) :
    Keeps s0 (State.storeReport s) := by
  unfold State.storeReport
  repeat' first
    | with_reducible assumption
    | with_reducible apply State.put_keeps

theorem State.program_keeps {s0 : State} (s : State) (k : Nat) (r : Option StoreRec) (h0 : Keeps s0 s) :
    Keeps s0 (State.program s k r) := by
  unfold State.program
  repeat' first
    | with_reducible assumption
    | with_reducible apply State.put_keeps
    | with_reducible exact Keeps.mk' (by assumption) rfl rfl rfl

theorem State.loadKeys_keeps {s0 : State} (s : State) (h0 : Keeps s0 s) :
    Keeps s0 (State.loadKeys s) := by
  unfold State.loadKeys
  repeat' first
    | with_reducible assumption
    | with_reducible apply State.put_keeps
    | with_reducible apply State.wr_keeps
    | with_reducible exact Keeps.mk' (by assumption) rfl rfl rfl
    | (with_reducible refine Keeps.foldl (fun _ _ _ => ?_) _ ?_)
    | (with_reducible refine Keeps.foldlFst (fun _ _ _ => ?_) _ ?_)
    | (intro x; refine Keeps.have_ (Q := Keeps s0 x) ?q ?h; (case' q => subst x); (case' h => (intro hx; clear_value x)))
    | (intro x; clear_value x)
    | split
    | (with_reducible refine Keeps.ofFst (by with_reducible assumption) ?_)
    | (with_reducible refine Keeps.ofOpt (by with_reducible assumption) ?_)
    | (with_reducible refine Keeps.ofSnd (by with_reducible assumption) ?_)
    | lift_lets

theorem State.storeCommit_keeps {s0 : State} (s : State) (w : SMap (List Byte)) (h0 : Keeps s0 s) :
    Keeps s0 (State.storeCommit s w).1 := by
  unfold State.storeCommit
  repeat' first
    | with_reducible assumption
    | with_reducible apply State.loadKeys_keeps
    | with_reducible apply State.program_keeps
    | with_reducible apply State.storeReport_keeps
    | with_reducible apply State.eraseOld_keeps
    | with_reducible apply State.svcRaise_keeps
    | with_reducible exact Keeps.mk' (by assumption) rfl rfl rfl
    | (intro x; clear_value x)
    | split
    | (with_reducible refine Keeps.ofFst (by with_reducible assumption) ?_)
    | (with_reducible refine Keeps.ofOpt (by with_reducible assumption) ?_)
    | (with_reducible refine Keeps.ofSnd (by with_reducible assumption) ?_)
    | lift_lets

theorem State.storeWrite_keeps {s0 : State} (s : State) (w : SMap (List Byte)) (h0 : Keeps s0 s) :
    Keeps s0 (State.storeWrite s w) := by
  unfold State.storeWrite
  repeat' first
    | with_reducible assumption
    | with_reducible apply State.storeReport_keeps
    | with_reducible exact Keeps.mk' (by assumption) rfl rfl rfl

theorem State.repairWrite_keeps {s0 : State} (s : State) (h0 : Keeps s0 s) :
    Keeps s0 (State.repairWrite s) := by
  unfold State.repairWrite
  repeat' first
    | with_reducible assumption
    | with_reducible apply State.storeWrite_keeps

theorem State.storeFlush_keeps {s0 : State} (s : State) (h0 : Keeps s0 s) :
    Keeps s0 (State.storeFlush s) := by
  unfold State.storeFlush
  repeat' first
    | with_reducible assumption
    | with_reducible apply State.storeCommit_keeps
    | with_reducible apply State.storeReport_keeps
    | with_reducible exact Keeps.mk' (by assumption) rfl rfl rfl
    | (with_reducible refine Keeps.foldl (fun _ _ _ => ?_) _ ?_)

theorem State.storeStep_keeps {s0 : State} (s : State) (ok : Bool) (h0 : Keeps s0 s) :
    Keeps s0 (State.storeStep s ok) := by
  unfold State.storeStep
  repeat' first
    | with_reducible assumption
    | with_reducible apply State.storeCommit_keeps
    | with_reducible apply State.program_keeps
    | with_reducible apply State.storeReport_keeps
    | with_reducible apply State.svcRaise_keeps
    | with_reducible exact Keeps.mk' (by assumption) rfl rfl rfl
    | (intro x; clear_value x)
    | split
    | (with_reducible refine Keeps.ofFst (by with_reducible assumption) ?_)
    | (with_reducible refine Keeps.ofOpt (by with_reducible assumption) ?_)
    | (with_reducible refine Keeps.ofSnd (by with_reducible assumption) ?_)
    | lift_lets

theorem execStoreCommit_keeps {s0 : State} (ok : Bool) (s : State) (h0 : Keeps s0 s) :
    OutKeeps s0 (execStoreCommit ok s) := by
  unfold execStoreCommit
  repeat' first
    | with_reducible assumption
    | with_reducible apply State.storeStep_keeps
    | with_reducible apply State.evcFlow_keeps
    | with_reducible exact Keeps.mk' (by assumption) rfl rfl rfl
    | with_reducible apply OutKeeps.next

end Sys2Proof.Machine
end

