-- ==== Sys2Proof/Laws/KeepsRegion.lean ====
section
/-!
SUPPORT. Every function of Machine/Region.lean keeps the queue and the canonical forms.
-/
namespace Sys2Proof.Machine
open Sys2Proof

theorem State.paceReport_keeps {s0 : State} (s : State) (r : Nat) (h0 : Keeps s0 s) :
    Keeps s0 (State.paceReport s r) := by
  unfold State.paceReport
  repeat' first
    | with_reducible assumption
    | with_reducible apply State.put_keeps

theorem State.paceAll_keeps {s0 : State} (s : State) (h0 : Keeps s0 s) :
    Keeps s0 (State.paceAll s) := by
  unfold State.paceAll
  repeat' first
    | with_reducible assumption
    | with_reducible apply State.paceReport_keeps
    | with_reducible apply State.put_keeps
    | with_reducible exact Keeps.mk' (by assumption) rfl rfl rfl
    | (with_reducible refine Keeps.foldl (fun _ _ _ => ?_) _ ?_)

theorem State.vcoreEnter_keeps {s0 : State} (s : State) (r : Nat) (st : Nat) (h0 : Keeps s0 s) :
    Keeps s0 (State.vcoreEnter s r st) := by
  unfold State.vcoreEnter
  repeat' first
    | with_reducible assumption
    | with_reducible apply State.vcoreStart_keeps
    | with_reducible exact Keeps.mk' (by assumption) rfl rfl rfl
    | split

theorem State.regEnter_keeps {s0 : State} (s : State) (r : Nat) (st : Nat) (h0 : Keeps s0 s) :
    Keeps s0 (State.regEnter s r st) := by
  unfold State.regEnter
  repeat' first
    | with_reducible assumption
    | with_reducible apply State.paceReport_keeps
    | with_reducible apply State.put_keeps
    | with_reducible apply State.vcoreEnter_keeps
    | with_reducible exact Keeps.mk' (by assumption) rfl rfl rfl
    | (fail_if_no_progress extract_lets +onlyGivenNames x)
    | (fail_if_no_progress with_reducible apply Keeps.mkOf)

theorem State.regWant_keeps {s0 : State} (s : State) (r : Nat) (h0 : Keeps s0 s) :
    Keeps s0 (State.regWant s r) := by
  unfold State.regWant
  repeat' first
    | with_reducible assumption
    | with_reducible apply State.regEnter_keeps
    | with_reducible apply State.put_keeps
    | with_reducible exact Keeps.mk' (by assumption) rfl rfl rfl
    | split

theorem State.rampNext_keeps {s0 : State} (s : State) (h0 : Keeps s0 s) :
    Keeps s0 (State.rampNext s) := by
  unfold State.rampNext
  repeat' first
    | with_reducible assumption
    | with_reducible apply State.regEnter_keeps
    | with_reducible exact Keeps.mk' (by assumption) rfl rfl rfl
    | (with_reducible refine Keeps.foldl (fun _ _ _ => ?_) _ ?_)
    | (with_reducible refine Keeps.foldlFst (fun _ _ _ => ?_) _ ?_)
    | split

theorem State.enSet_keeps {s0 : State} (s : State) (r : Nat) (h0 : Keeps s0 s) :
    Keeps s0 (State.enSet s r) := by
  unfold State.enSet
  repeat' first
    | with_reducible assumption
    | with_reducible apply State.regWant_keeps
    | with_reducible apply State.put_keeps
    | with_reducible exact Keeps.mk' (by assumption) rfl rfl rfl
    | (intro x; refine Keeps.have_ (Q := Keeps s0 x) ?q ?h; (case' q => subst x); (case' h => (intro hx; clear_value x)))
    | (intro x; clear_value x)
    | split
    | lift_lets

theorem State.enClear_keeps {s0 : State} (s : State) (r : Nat) (h0 : Keeps s0 s) :
    Keeps s0 (State.enClear s r) := by
  unfold State.enClear
  repeat' first
    | with_reducible assumption
    | with_reducible apply State.rampNext_keeps
    | with_reducible apply State.regEnter_keeps
    | with_reducible apply State.put_keeps
    | with_reducible exact Keeps.mk' (by assumption) rfl rfl rfl
    | (intro x; refine Keeps.have_ (Q := Keeps s0 x) ?q ?h; (case' q => subst x); (case' h => (intro hx; clear_value x)))
    | (intro x; clear_value x)
    | split
    | lift_lets

theorem State.rampDone_keeps {s0 : State} (s : State) (r : Nat) (h0 : Keeps s0 s) :
    Keeps s0 (State.rampDone s r) := by
  unfold State.rampDone
  repeat' first
    | with_reducible assumption
    | with_reducible apply State.rampNext_keeps
    | with_reducible apply State.regEnter_keeps
    | with_reducible apply State.put_keeps
    | with_reducible exact Keeps.mk' (by assumption) rfl rfl rfl
    | split

theorem execRampDone_keeps {s0 : State} (r : RegionId) (s : State) (h0 : Keeps s0 s) :
    OutKeeps s0 (execRampDone r s) := by
  unfold execRampDone
  repeat' first
    | with_reducible assumption
    | with_reducible apply State.rampDone_keeps
    | with_reducible exact Keeps.mk' (by assumption) rfl rfl rfl
    | with_reducible apply OutKeeps.next

theorem State.shutdownDone_keeps {s0 : State} (s : State) (r : Nat) (h0 : Keeps s0 s) :
    Keeps s0 (State.shutdownDone s r) := by
  unfold State.shutdownDone
  repeat' first
    | with_reducible assumption
    | with_reducible apply State.regEnter_keeps
    | with_reducible exact Keeps.mk' (by assumption) rfl rfl rfl
    | split

theorem execShutdownDone_keeps {s0 : State} (r : RegionId) (s : State) (h0 : Keeps s0 s) :
    OutKeeps s0 (execShutdownDone r s) := by
  unfold execShutdownDone
  repeat' first
    | with_reducible assumption
    | with_reducible apply State.shutdownDone_keeps
    | with_reducible exact Keeps.mk' (by assumption) rfl rfl rfl
    | with_reducible apply OutKeeps.next

theorem State.minOffExpiry_keeps {s0 : State} (s : State) (r : Nat) (h0 : Keeps s0 s) :
    Keeps s0 (State.minOffExpiry s r) := by
  unfold State.minOffExpiry
  repeat' first
    | with_reducible assumption
    | with_reducible apply State.rampNext_keeps
    | with_reducible exact Keeps.mk' (by assumption) rfl rfl rfl

theorem execMinOffExpiry_keeps {s0 : State} (r : RegionId) (s : State) (h0 : Keeps s0 s) :
    OutKeeps s0 (execMinOffExpiry r s) := by
  unfold execMinOffExpiry
  repeat' first
    | with_reducible assumption
    | with_reducible apply State.minOffExpiry_keeps
    | with_reducible exact Keeps.mk' (by assumption) rfl rfl rfl
    | with_reducible apply OutKeeps.next

theorem State.regOnNow_keeps {s0 : State} (s : State) (r : Nat) (h0 : Keeps s0 s) :
    Keeps s0 (State.regOnNow s r) := by
  unfold State.regOnNow
  repeat' first
    | with_reducible assumption
    | with_reducible apply State.regEnter_keeps
    | with_reducible apply State.put_keeps
    | with_reducible exact Keeps.mk' (by assumption) rfl rfl rfl

theorem State.droopTrip_keeps {s0 : State} (s : State) (r : Nat) (floor : Bool) (h0 : Keeps s0 s) :
    Keeps s0 (State.droopTrip s r floor) := by
  unfold State.droopTrip
  repeat' first
    | with_reducible assumption
    | with_reducible apply State.bump_keeps
    | with_reducible apply State.put_keeps
    | with_reducible exact Keeps.mk' (by assumption) rfl rfl rfl
    | (intro x; refine Keeps.have_ (Q := Keeps s0 x) ?q ?h; (case' q => subst x); (case' h => (intro hx; clear_value x)))
    | (intro x; clear_value x)
    | split
    | lift_lets

theorem execDroopTrip_keeps {s0 : State} (r : RegionId) (floor : Bool) (s : State) (h0 : Keeps s0 s) :
    OutKeeps s0 (execDroopTrip r floor s) := by
  unfold execDroopTrip
  repeat' first
    | with_reducible assumption
    | with_reducible apply State.droopTrip_keeps
    | with_reducible exact Keeps.mk' (by assumption) rfl rfl rfl
    | with_reducible apply OutKeeps.next

theorem execDroopRecover_keeps {s0 : State} (r : RegionId) (s : State) (h0 : Keeps s0 s) :
    OutKeeps s0 (execDroopRecover r s) := by
  unfold execDroopRecover
  repeat' first
    | with_reducible assumption
    | with_reducible exact Keeps.mk' (by assumption) rfl rfl rfl
    | with_reducible apply OutKeeps.next

theorem State.thermReport_keeps {s0 : State} (s : State) (h0 : Keeps s0 s) :
    Keeps s0 (State.thermReport s) := by
  unfold State.thermReport
  repeat' first
    | with_reducible assumption
    | with_reducible apply State.levelRaise_keeps
    | with_reducible apply State.put_keeps

theorem State.thermHigh_keeps {s0 : State} (s : State) (r : Nat) (temp : Nat) (h0 : Keeps s0 s) :
    Keeps s0 (State.thermHigh s r temp) := by
  unfold State.thermHigh
  repeat' first
    | with_reducible assumption
    | with_reducible apply State.thermReport_keeps
    | with_reducible apply State.paceReport_keeps
    | with_reducible apply State.evcFlow_keeps
    | with_reducible apply State.put_keeps

theorem execThermHigh_keeps {s0 : State} (r : RegionId) (temp : BitVec 16) (s : State) (h0 : Keeps s0 s) :
    OutKeeps s0 (execThermHigh r temp s) := by
  unfold execThermHigh
  repeat' first
    | with_reducible assumption
    | with_reducible apply State.thermHigh_keeps
    | with_reducible exact Keeps.mk' (by assumption) rfl rfl rfl
    | with_reducible apply OutKeeps.next

theorem State.pwrCntClear_keeps {s0 : State} (s : State) (h0 : Keeps s0 s) :
    Keeps s0 (State.pwrCntClear s) := by
  unfold State.pwrCntClear
  repeat' first
    | with_reducible assumption
    | with_reducible apply State.clearAll_keeps

theorem execPwrCntClear_keeps {s0 : State} (req : Requester) (s : State) (h0 : Keeps s0 s) :
    OutKeeps s0 (execPwrCntClear req s) := by
  unfold execPwrCntClear
  repeat' first
    | with_reducible assumption
    | with_reducible apply State.pwrCntClear_keeps
    | with_reducible apply State.write_keeps
    | with_reducible exact Keeps.mk' (by assumption) rfl rfl rfl
    | with_reducible apply OutKeeps.next

end Sys2Proof.Machine
end

