-- ==== Sys2Proof/Laws/KeepsSwitch.lean ====
section
/-!
SUPPORT. Every function of Machine/Switch.lean keeps the queue and the canonical forms.
-/
namespace Sys2Proof.Machine
open Sys2Proof

theorem State.loseSlot_keeps {s0 : State} (s : State) (core : Nat) (bound : Bool) (h0 : Keeps s0 s) :
    Keeps s0 (State.loseSlot s core bound) := by
  unfold State.loseSlot
  repeat' first
    | with_reducible assumption
    | with_reducible apply State.faultCtx_keeps
    | with_reducible exact Keeps.mk' (by assumption) rfl rfl rfl
    | (with_reducible refine Keeps.foldl (fun _ _ _ => ?_) _ ?_)
    | (with_reducible refine Keeps.foldlFst (fun _ _ _ => ?_) _ ?_)
    | (intro x; refine Keeps.have_ (Q := Keeps s0 x) ?q ?h; (case' q => subst x); (case' h => (intro hx; clear_value x)))
    | (intro x; clear_value x)
    | lift_lets
    | intro _

theorem State.zeroCore_keeps {s0 : State} (s : State) (core : Nat) (h0 : Keeps s0 s) : Keeps s0 (State.zeroCore s core) :=
  Keeps.mkMem h0 rfl rfl fun w => Memory.zero_wf _ _ _ (Memory.zero_wf _ _ _ w)

theorem State.joinSlot_keeps {s0 : State} (s : State) (n : Nat) (k : Nat) (p : Nat) (copy : Bool) (h0 : Keeps s0 s) :
    Keeps s0 (State.joinSlot s n k p copy) := by
  unfold State.joinSlot
  dsimp only
  repeat' first
    | with_reducible assumption
    | with_reducible apply State.clear64_keeps
    | with_reducible apply State.enClear_keeps
    | with_reducible apply State.loseSlot_keeps
    | with_reducible apply State.regOnNow_keeps
    | with_reducible apply State.wr_keeps
    | with_reducible apply State.zeroCore_keeps
    | with_reducible exact Keeps.mk' (by assumption) rfl rfl rfl
    | split
    | lift_lets

theorem State.pswRefuse_keeps {s0 : State} (s : State) (n : Nat) (reason : Nat) (h0 : Keeps s0 s) :
    Keeps s0 (State.pswRefuse s n reason) := by
  unfold State.pswRefuse
  repeat' first
    | with_reducible assumption
    | with_reducible apply State.put_keeps

theorem State.pswDone_keeps {s0 : State} (s : State) (n : Nat) (h0 : Keeps s0 s) :
    Keeps s0 (State.pswDone s n) := by
  unfold State.pswDone
  repeat' first
    | with_reducible assumption
    | with_reducible apply State.repairWrite_keeps
    | with_reducible apply State.put_keeps
    | with_reducible exact Keeps.mk' (by assumption) rfl rfl rfl
    | (intro x; refine Keeps.have_ (Q := Keeps s0 x) ?q ?h; (case' q => subst x); (case' h => (intro hx; clear_value x)))
    | split
    | lift_lets

theorem State.newPosFail_keeps {s0 : State} (s : State) (n : Nat) (h0 : Keeps s0 s) :
    Keeps s0 (State.newPosFail s n) := by
  unfold State.newPosFail
  repeat' first
    | with_reducible assumption
    | with_reducible apply State.pswRefuse_keeps
    | with_reducible apply State.enClear_keeps
    | with_reducible apply State.put_keeps
    | with_reducible exact Keeps.mk' (by assumption) rfl rfl rfl
    | (intro x; refine Keeps.have_ (Q := Keeps s0 x) ?q ?h; (case' q => subst x); (case' h => intro hx))
    | (intro x; skip)
    | split
    | (with_reducible refine Keeps.ofFst (by with_reducible assumption) ?_)
    | (with_reducible refine Keeps.ofOpt (by with_reducible assumption) ?_)
    | (with_reducible refine Keeps.ofSnd (by with_reducible assumption) ?_)
    | lift_lets

theorem State.pswApply_keeps {s0 : State} (s : State) (n : Nat) (migrate : Bool) (done : Bool) (h0 : Keeps s0 s) :
    Keeps s0 (State.pswApply s n migrate done) := by
  unfold State.pswApply
  repeat' first
    | with_reducible assumption
    | with_reducible apply State.newPosFail_keeps
    | with_reducible apply State.pswDone_keeps
    | with_reducible apply State.pswRefuse_keeps
    | with_reducible apply State.joinSlot_keeps
    | with_reducible apply State.enSet_keeps
    | with_reducible apply State.misuseMod_keeps
    | with_reducible apply State.put_keeps
    | with_reducible exact Keeps.mk' (by assumption) rfl rfl rfl
    | (with_reducible refine Keeps.foldl (fun _ _ _ => ?_) _ ?_)
    | (with_reducible refine Keeps.foldlFst (fun _ _ _ => ?_) _ ?_)
    | (intro x; refine Keeps.have_ (Q := Keeps s0 x) ?q ?h; (case' q => subst x); (case' h => intro hx))
    | (intro x; skip)
    | split
    | (with_reducible refine Keeps.ofFst (by with_reducible assumption) ?_)
    | (with_reducible refine Keeps.ofOpt (by with_reducible assumption) ?_)
    | (with_reducible refine Keeps.ofSnd (by with_reducible assumption) ?_)
    | lift_lets

theorem State.moveEnds_keeps {s0 : State} (s : State) (n : Nat) (copied : Bool) (h0 : Keeps s0 s) :
    Keeps s0 (State.moveEnds s n copied) := by
  unfold State.moveEnds
  repeat' first
    | with_reducible assumption
    | with_reducible apply State.joinSlot_keeps
    | with_reducible apply State.pswDone_keeps
    | with_reducible apply State.put_keeps
    | with_reducible exact Keeps.mk' (by assumption) rfl rfl rfl
    | split
    | (with_reducible refine Keeps.ofFst (by with_reducible assumption) ?_)
    | (with_reducible refine Keeps.ofOpt (by with_reducible assumption) ?_)
    | (with_reducible refine Keeps.ofSnd (by with_reducible assumption) ?_)

theorem State.reElect_keeps {s0 : State} (s : State) (n : Nat) (h0 : Keeps s0 s) :
    Keeps s0 (State.reElect s n) := by
  unfold State.reElect
  dsimp only
  repeat' first
    | with_reducible assumption
    | with_reducible apply State.svcRaise_keeps
    | with_reducible apply State.put_keeps
    | with_reducible apply State.wr_keeps
    | with_reducible exact Keeps.mk' (by assumption) rfl rfl rfl
    | (with_reducible refine Keeps.foldl (fun _ _ _ => ?_) _ ?_)
    | (with_reducible refine Keeps.foldlFst (fun _ _ _ => ?_) _ ?_)
    | split

theorem State.siteOut_keeps {s0 : State} (s : State) (e : Nat) (h0 : Keeps s0 s) :
    Keeps s0 (State.siteOut s e) := by
  unfold State.siteOut
  repeat' first
    | with_reducible assumption
    | with_reducible apply State.portDown_keeps
    | with_reducible apply State.raiseMod_keeps
    | with_reducible apply State.put_keeps
    | with_reducible exact Keeps.mk' (by assumption) rfl rfl rfl
    | (with_reducible refine Keeps.foldl (fun _ _ _ => ?_) _ ?_)
    | (with_reducible refine Keeps.foldlFst (fun _ _ _ => ?_) _ ?_)
    | (intro x; clear_value x)
    | split
    | lift_lets

theorem State.stopLeaves_keeps {s0 : State} (s : State) (d : Nat) (h0 : Keeps s0 s) :
    Keeps s0 (State.stopLeaves s d) := by
  unfold State.stopLeaves
  repeat' first
    | with_reducible assumption
    | with_reducible apply State.clearUp_keeps
    | with_reducible apply State.loseGroups_keeps
    | with_reducible apply State.put_keeps
    | with_reducible apply State.stopLoses_keeps
    | with_reducible exact Keeps.mk' (by assumption) rfl rfl rfl
    | (with_reducible refine Keeps.foldl (fun _ _ _ => ?_) _ ?_)
    | (with_reducible refine Keeps.foldlFst (fun _ _ _ => ?_) _ ?_)
    | (intro x; refine Keeps.have_ (Q := Keeps s0 x) ?q ?h; (case' q => subst x); (case' h => (intro hx; clear_value x)))
    | (intro x; clear_value x)
    | split
    | (with_reducible refine Keeps.ofFst (by with_reducible assumption) ?_)
    | (with_reducible refine Keeps.ofOpt (by with_reducible assumption) ?_)
    | (with_reducible refine Keeps.ofSnd (by with_reducible assumption) ?_)
    | lift_lets
    | intro _

theorem State.abortRun_keeps {s0 : State} (s : State) (n : Nat) (h0 : Keeps s0 s) :
    Keeps s0 (State.abortRun s n) := by
  unfold State.abortRun
  repeat' first
    | with_reducible assumption
    | with_reducible apply State.put_keeps
    | with_reducible exact Keeps.mk' (by assumption) rfl rfl rfl
    | (with_reducible refine Keeps.foldl (fun _ _ _ => ?_) _ ?_)

theorem State.paneOut_keeps {s0 : State} (s : State) (n : Nat) (h0 : Keeps s0 s) :
    Keeps s0 (State.paneOut s n) := by
  unfold State.paneOut
  repeat' first
    | with_reducible assumption
    | with_reducible apply State.abortRun_keeps
    | with_reducible apply State.evcFlow_keeps
    | with_reducible apply State.loseSlot_keeps
    | with_reducible apply State.put_keeps
    | with_reducible apply State.reElect_keeps
    | with_reducible apply State.repairWrite_keeps
    | with_reducible apply State.siteOut_keeps
    | with_reducible apply State.stopLeaves_keeps
    | with_reducible apply State.supCheck_keeps
    | with_reducible apply State.vblPump_keeps
    | with_reducible exact Keeps.mk' (by assumption) rfl rfl rfl
    | (with_reducible refine Keeps.foldl (fun _ _ _ => ?_) _ ?_)
    | (with_reducible refine Keeps.foldlFst (fun _ _ _ => ?_) _ ?_)
    | (intro x; refine Keeps.have_ (Q := Keeps s0 x) ?q ?h; (case' q => subst x); (case' h => (intro hx; clear_value x)))
    | (intro x; clear_value x)
    | split
    | lift_lets
    | intro _

theorem State.ptcReport_keeps {s0 : State} (s : State) (n : Nat) (h0 : Keeps s0 s) :
    Keeps s0 (State.ptcReport s n) := by
  unfold State.ptcReport
  repeat' first
    | with_reducible assumption
    | with_reducible apply State.put_keeps

theorem State.undefer_keeps {s0 : State} (s : State) (h0 : Keeps s0 s) :
    Keeps s0 (State.undefer s) := by
  unfold State.undefer
  repeat' first
    | with_reducible assumption
    | with_reducible exact Keeps.mk' (by assumption) rfl rfl rfl

theorem State.startTests_keeps {s0 : State}  : ∀ (b0 : Nat) (b1 : State), Keeps s0 b1 → Keeps s0 (State.startTests b0 b1) := by
  intro b0
  induction b0 with
  | zero =>
    intros
    unfold State.startTests
    repeat' first
      | with_reducible assumption
  | succ n ih =>
    intros
    unfold State.startTests
    repeat' first
      | with_reducible assumption
      | with_reducible apply ih
      | with_reducible apply State.ptcReport_keeps
      | with_reducible exact Keeps.mk' (by assumption) rfl rfl rfl
      | split

theorem State.relPump_keeps {s0 : State} (s : State) (h0 : Keeps s0 s) :
    Keeps s0 (State.relPump s) := by
  unfold State.relPump
  repeat' first
    | with_reducible assumption
    | with_reducible apply State.startTests_keeps
    | with_reducible apply State.undefer_keeps
    | with_reducible apply State.ptcReport_keeps
    | with_reducible exact Keeps.mk' (by assumption) rfl rfl rfl
    | (with_reducible refine Keeps.foldl (fun _ _ _ => ?_) _ ?_)
    | (with_reducible refine Keeps.foldlFst (fun _ _ _ => ?_) _ ?_)
    | split

theorem State.testDue_keeps {s0 : State} (s : State) (pos : Nat) (calib : Bool) (never : Bool) (h0 : Keeps s0 s) :
    Keeps s0 (State.testDue s pos calib never) := by
  unfold State.testDue
  repeat' first
    | with_reducible assumption
    | with_reducible apply State.relPump_keeps
    | with_reducible apply State.ptcReport_keeps
    | with_reducible apply State.raiseMod_keeps
    | with_reducible apply State.bump_keeps
    | with_reducible exact Keeps.mk' (by assumption) rfl rfl rfl
    | split

theorem State.forceHold_keeps {s0 : State} (s : State) (c : Nat) (h0 : Keeps s0 s) :
    Keeps s0 (State.forceHold s c) := by
  unfold State.forceHold
  repeat' first
    | with_reducible assumption
    | with_reducible apply State.setCtx_keeps
    | with_reducible apply State.put_keeps
    | with_reducible exact Keeps.mk' (by assumption) rfl rfl rfl
    | (intro x; clear_value x)
    | split
    | lift_lets

theorem State.unhold_keeps {s0 : State} (s : State) (cs : List Nat) (h0 : Keeps s0 s) :
    Keeps s0 (State.unhold s cs) := by
  unfold State.unhold
  repeat' first
    | with_reducible assumption
    | with_reducible apply State.setCtx_keeps
    | with_reducible apply State.put_keeps
    | with_reducible exact Keeps.mk' (by assumption) rfl rfl rfl
    | (with_reducible refine Keeps.foldl (fun _ _ _ => ?_) _ ?_)
    | (with_reducible refine Keeps.foldlFst (fun _ _ _ => ?_) _ ?_)
    | split

theorem State.supApply_keeps {s0 : State} (s : State) (n : Nat) (k : Nat) (p : Nat) (copy : Bool) (h0 : Keeps s0 s) :
    Keeps s0 (State.supApply s n k p copy) := by
  unfold State.supApply
  repeat' first
    | with_reducible assumption
    | with_reducible apply State.pswDone_keeps
    | with_reducible apply State.joinSlot_keeps
    | with_reducible apply State.wr_keeps

theorem State.posEvent_keeps {s0 : State} (s : State) (pos : Nat) (reason : Nat) (flags : Nat) (core : Nat) (h0 : Keeps s0 s) :
    Keeps s0 (State.posEvent s pos reason flags core) := by
  unfold State.posEvent
  repeat' first
    | with_reducible assumption
    | with_reducible apply State.repairWrite_keeps
    | with_reducible apply State.vblPump_keeps
    | with_reducible apply State.raiseMod_keeps

theorem State.moveNow_keeps {s0 : State} (s : State) (m : SlotMove) (h0 : Keeps s0 s) :
    Keeps s0 (State.moveNow s m) := by
  unfold State.moveNow
  repeat' first
    | with_reducible assumption
    | with_reducible apply State.posEvent_keeps
    | with_reducible apply State.ptcReport_keeps
    | with_reducible apply State.supApply_keeps
    | with_reducible apply State.unhold_keeps
    | with_reducible apply State.vblPump_keeps
    | with_reducible exact Keeps.mk' (by assumption) rfl rfl rfl
    | (intro x; refine Keeps.have_ (Q := Keeps s0 x) ?q ?h; (case' q => subst x); (case' h => (intro hx; clear_value x)))
    | (intro x; clear_value x)
    | split
    | (with_reducible refine Keeps.ofFst (by with_reducible assumption) ?_)
    | (with_reducible refine Keeps.ofOpt (by with_reducible assumption) ?_)
    | (with_reducible refine Keeps.ofSnd (by with_reducible assumption) ?_)
    | lift_lets

theorem State.moveSlot_keeps {s0 : State} (s : State) (m : SlotMove) (h0 : Keeps s0 s) :
    Keeps s0 (State.moveSlot s m) := by
  unfold State.moveSlot
  repeat' first
    | with_reducible assumption
    | with_reducible apply State.moveNow_keeps
    | with_reducible exact Keeps.mk' (by assumption) rfl rfl rfl
    | split

theorem State.moveWaiting_keeps {s0 : State} (n : Nat) : ∀ (b1 : Nat) (b2 : State), Keeps s0 b2 → Keeps s0 (State.moveWaiting n b1 b2) := by
  intro b1
  induction b1 with
  | zero =>
    intro s h
    exact h
  | succ k ih =>
    intro s h
    unfold State.moveWaiting
    split
    · exact h
    · split
      · exact h
      · exact ih _ (State.moveNow_keeps _ _ (Keeps.mkOf h))

theorem State.movesGo_keeps {s0 : State} (s : State) (n : Nat) (h0 : Keeps s0 s) :
    Keeps s0 (State.movesGo s n) := by
  unfold State.movesGo
  repeat' first
    | with_reducible assumption
    | with_reducible apply State.moveWaiting_keeps
    | with_reducible exact Keeps.mk' (by assumption) rfl rfl rfl

theorem State.posFail_keeps {s0 : State} (s : State) (pos : Nat) (reason : Nat) (h0 : Keeps s0 s) :
    Keeps s0 (State.posFail s pos reason) := by
  unfold State.posFail
  split
  · exact h0
  extract_lets s1 held src s2 s3
  have h2 : Keeps s0 s2 := Keeps.mkOf (State.put_keeps _ _ _ h0)
  have h3 : Keeps s0 s3 := by
    subst s3
    split
    · exact State.newPosFail_keeps _ _ h2
    · exact h2
  exact State.movesGo_keeps _ _ (State.moveSlot_keeps _ _ h3)

theorem State.replaceSlot_keeps {s0 : State} (s : State) (pos : Nat) (h0 : Keeps s0 s) :
    Keeps s0 (State.replaceSlot s pos) := by
  unfold State.replaceSlot
  repeat' first
    | with_reducible assumption
    | with_reducible apply State.loseSlot_keeps
    | with_reducible apply State.moveSlot_keeps
    | with_reducible exact Keeps.mk' (by assumption) rfl rfl rfl
    | split
    | (with_reducible refine Keeps.ofFst (by with_reducible assumption) ?_)
    | (with_reducible refine Keeps.ofOpt (by with_reducible assumption) ?_)
    | (with_reducible refine Keeps.ofSnd (by with_reducible assumption) ?_)

theorem execPswApplyMigrate_keeps {s0 : State} (req : Requester) (n : PaneId) (done : Bool) (s : State) (h0 : Keeps s0 s) :
    OutKeeps s0 (execPswApplyMigrate req n done s) := by
  unfold execPswApplyMigrate
  repeat' first
    | with_reducible assumption
    | with_reducible apply State.movesGo_keeps
    | with_reducible apply State.pswApply_keeps
    | with_reducible apply State.write_keeps
    | with_reducible exact Keeps.mk' (by assumption) rfl rfl rfl
    | with_reducible apply OutKeeps.next
    | with_reducible apply OutKeeps.fault
    | intro _
    | (fail_if_no_progress extract_lets +onlyGivenNames x)
    | (fail_if_no_progress with_reducible apply Keeps.mkOf)

theorem execPswApplyReplace_keeps {s0 : State} (req : Requester) (n : PaneId) (s : State) (h0 : Keeps s0 s) :
    OutKeeps s0 (execPswApplyReplace req n s) := by
  unfold execPswApplyReplace
  repeat' first
    | with_reducible assumption
    | with_reducible apply State.movesGo_keeps
    | with_reducible apply State.pswApply_keeps
    | with_reducible apply State.vblPump_keeps
    | with_reducible apply State.write_keeps
    | with_reducible exact Keeps.mk' (by assumption) rfl rfl rfl
    | with_reducible apply OutKeeps.next
    | with_reducible apply OutKeeps.fault
    | intro _
    | (fail_if_no_progress extract_lets +onlyGivenNames x)
    | (fail_if_no_progress with_reducible apply Keeps.mkOf)

theorem State.copyFail_keeps {s0 : State} (s : State) (n : Nat) (h0 : Keeps s0 s) :
    Keeps s0 (State.copyFail s n) := by
  unfold State.copyFail
  repeat' first
    | with_reducible assumption
    | with_reducible apply State.moveEnds_keeps
    | with_reducible apply State.movesGo_keeps
    | with_reducible apply State.vblPump_keeps
    | with_reducible exact Keeps.mk' (by assumption) rfl rfl rfl
    | extract_lets
    | split
    | (with_reducible refine Keeps.ofFst (by with_reducible assumption) ?_)
    | (with_reducible refine Keeps.ofOpt (by with_reducible assumption) ?_)
    | (with_reducible refine Keeps.ofSnd (by with_reducible assumption) ?_)
    | (fail_if_no_progress with_reducible apply Keeps.mkOf)

theorem execCopyFail_keeps {s0 : State} (n : PaneId) (s : State) (h0 : Keeps s0 s) :
    OutKeeps s0 (execCopyFail n s) := by
  unfold execCopyFail
  repeat' first
    | with_reducible assumption
    | with_reducible apply State.clocked_keeps
    | with_reducible apply State.copyFail_keeps
    | with_reducible exact Keeps.mk' (by assumption) rfl rfl rfl
    | with_reducible apply OutKeeps.next
    | with_reducible apply OutKeeps.fault

theorem execMigrateNewPositionFail_keeps {s0 : State} (n : PaneId) (s : State) (h0 : Keeps s0 s) :
    OutKeeps s0 (execMigrateNewPositionFail n s) := by
  unfold execMigrateNewPositionFail
  repeat' first
    | with_reducible assumption
    | with_reducible apply State.clocked_keeps
    | with_reducible apply State.movesGo_keeps
    | with_reducible apply State.newPosFail_keeps
    | with_reducible exact Keeps.mk' (by assumption) rfl rfl rfl
    | with_reducible apply OutKeeps.next
    | with_reducible apply OutKeeps.fault
    | (fail_if_no_progress extract_lets +onlyGivenNames x)
    | (fail_if_no_progress with_reducible apply Keeps.mkOf)

theorem State.copyTick_keeps {s0 : State} (s : State) (h0 : Keeps s0 s) :
    Keeps s0 (State.copyTick s) := by
  unfold State.copyTick
  repeat' first
    | with_reducible assumption
    | with_reducible apply State.moveEnds_keeps
    | with_reducible apply State.movesGo_keeps
    | with_reducible apply State.vblPump_keeps
    | with_reducible exact Keeps.mk' (by assumption) rfl rfl rfl
    | (with_reducible refine Keeps.foldl (fun _ _ _ => ?_) _ ?_)
    | (with_reducible refine Keeps.foldlFst (fun _ _ _ => ?_) _ ?_)
    | extract_lets
    | split
    | intro _
    | (fail_if_no_progress with_reducible apply Keeps.mkOf)

theorem State.pwrCtrl_keeps {s0 : State} (s : State) (req : Requester) (r : Nat) (v : Nat) (h0 : Keeps s0 s) :
    Keeps s0 (State.pwrCtrl s req r v) := by
  unfold State.pwrCtrl
  repeat' first
    | with_reducible assumption
    | with_reducible apply State.enClear_keeps
    | with_reducible apply State.enSet_keeps
    | with_reducible apply State.misuse_keeps
    | with_reducible apply State.paneOut_keeps
    | with_reducible exact Keeps.mk' (by assumption) rfl rfl rfl
    | extract_lets
    | split
    | (fail_if_no_progress with_reducible apply Keeps.mkOf)

theorem execPwrEnSet_keeps {s0 : State} (req : Requester) (r : RegionId) (s : State) (h0 : Keeps s0 s) :
    OutKeeps s0 (execPwrEnSet req r s) := by
  unfold execPwrEnSet
  repeat' first
    | with_reducible assumption
    | with_reducible apply State.pwrCtrl_keeps
    | with_reducible apply State.write_keeps
    | with_reducible exact Keeps.mk' (by assumption) rfl rfl rfl
    | with_reducible apply OutKeeps.next
    | with_reducible apply OutKeeps.fault
    | intro _

theorem execPwrEnClear_keeps {s0 : State} (req : Requester) (r : RegionId) (s : State) (h0 : Keeps s0 s) :
    OutKeeps s0 (execPwrEnClear req r s) := by
  unfold execPwrEnClear
  repeat' first
    | with_reducible assumption
    | with_reducible apply State.pwrCtrl_keeps
    | with_reducible apply State.write_keeps
    | with_reducible exact Keeps.mk' (by assumption) rfl rfl rfl
    | with_reducible apply OutKeeps.next
    | with_reducible apply OutKeeps.fault
    | intro _

end Sys2Proof.Machine
end

