-- ==== Sys2Proof/Laws/KeepsContexts.lean ====
section
/-!
SUPPORT. Every function of Machine/Contexts.lean keeps the queue and the canonical forms.
-/
namespace Sys2Proof.Machine
open Sys2Proof

theorem State.shtRefuse_keeps {s0 : State} (s : State) (p : Nat) (reason : Nat) (h0 : Keeps s0 s) :
    Keeps s0 (State.shtRefuse s p reason) := by
  unfold State.shtRefuse
  repeat' first
    | with_reducible assumption
    | with_reducible apply State.misuseMod_keeps
    | with_reducible apply State.put_keeps

theorem State.shtWrite_keeps {s0 : State} (s : State) (p : Nat) (own : Nat) (f : State → State) (h0 : Keeps s0 s) (h1 : ∀ a0, Keeps s0 a0 → Keeps s0 (f a0)) :
    Keeps s0 (State.shtWrite s p own f) := by
  unfold State.shtWrite
  repeat' first
    | with_reducible assumption
    | with_reducible apply State.shtRefuse_keeps
    | with_reducible exact Keeps.mk' (by assumption) rfl rfl rfl
    | split
    | with_reducible apply_assumption

theorem State.rectWrite_keeps {s0 : State} (s : State) (p : Nat) (v : Nat) (h0 : Keeps s0 s) :
    Keeps s0 (State.rectWrite s p v) := by
  unfold State.rectWrite
  repeat' first
    | with_reducible assumption
    | with_reducible apply State.shtWrite_keeps
    | with_reducible apply State.wr_keeps
    | with_reducible exact Keeps.mk' (by assumption) rfl rfl rfl
    | (intro x; clear_value x)
    | split
    | lift_lets
    | with_reducible apply_assumption
    | intro _

theorem State.t2BaseWrite_keeps {s0 : State} (s : State) (p : Nat) (v : Nat) (h0 : Keeps s0 s) :
    Keeps s0 (State.t2BaseWrite s p v) := by
  unfold State.t2BaseWrite
  repeat' first
    | with_reducible assumption
    | with_reducible apply State.shtWrite_keeps
    | with_reducible apply State.put_keeps
    | with_reducible exact Keeps.mk' (by assumption) rfl rfl rfl
    | split
    | with_reducible apply_assumption
    | intro _

theorem State.t2SizeWrite_keeps {s0 : State} (s : State) (p : Nat) (v : Nat) (h0 : Keeps s0 s) :
    Keeps s0 (State.t2SizeWrite s p v) := by
  unfold State.t2SizeWrite
  repeat' first
    | with_reducible assumption
    | with_reducible apply State.shtWrite_keeps
    | with_reducible apply State.put_keeps
    | with_reducible exact Keeps.mk' (by assumption) rfl rfl rfl
    | (intro x; refine Keeps.have_ (Q := Keeps s0 x) ?q ?h; (case' q => subst x); (case' h => intro hx))
    | (intro x; skip)
    | split
    | lift_lets

theorem execShtT2SizeWrite_keeps {s0 : State} (req : Requester) (p : PartId) (v : BitVec 32) (s : State) (h0 : Keeps s0 s) :
    OutKeeps s0 (execShtT2SizeWrite req p v s) := by
  unfold execShtT2SizeWrite
  repeat' first
    | with_reducible assumption
    | with_reducible apply State.t2SizeWrite_keeps
    | with_reducible apply State.write_keeps
    | with_reducible exact Keeps.mk' (by assumption) rfl rfl rfl
    | with_reducible apply OutKeeps.next
    | with_reducible apply OutKeeps.fault
    | split
    | with_reducible apply_assumption
    | intro _

theorem State.setShut_keeps {s0 : State} (s : State) (p : Nat) (b : Bool) (h0 : Keeps s0 s) :
    Keeps s0 (State.setShut s p b) := by
  unfold State.setShut
  repeat' first
    | with_reducible assumption
    | with_reducible apply State.modPort_keeps
    | with_reducible apply State.put_keeps
    | with_reducible exact Keeps.mk' (by assumption) rfl rfl rfl
    | split

theorem State.portsWrite_keeps {s0 : State} (s : State) (p : Nat) (v : Nat) (h0 : Keeps s0 s) :
    Keeps s0 (State.portsWrite s p v) := by
  unfold State.portsWrite
  repeat' first
    | with_reducible assumption
    | with_reducible apply State.setShut_keeps
    | with_reducible apply State.shtWrite_keeps
    | with_reducible apply State.wr_keeps
    | with_reducible exact Keeps.mk' (by assumption) rfl rfl rfl
    | (with_reducible refine Keeps.foldl (fun _ _ _ => ?_) _ ?_)
    | (with_reducible refine Keeps.foldlFst (fun _ _ _ => ?_) _ ?_)
    | (intro x; skip)

theorem State.cfgWrite_keeps {s0 : State} (s : State) (p : Nat) (v : Nat) (h0 : Keeps s0 s) :
    Keeps s0 (State.cfgWrite s p v) := by
  unfold State.cfgWrite
  repeat' first
    | with_reducible assumption
    | with_reducible apply State.shtRefuse_keeps
    | with_reducible apply State.put_keeps
    | with_reducible exact Keeps.mk' (by assumption) rfl rfl rfl
    | (intro x; clear_value x)
    | split
    | lift_lets

theorem execShtClear_keeps {s0 : State} (req : Requester) (p : PartId) (s : State) (h0 : Keeps s0 s) :
    OutKeeps s0 (execShtClear req p s) := by
  unfold execShtClear
  repeat' first
    | with_reducible assumption
    | with_reducible apply State.write_keeps
    | with_reducible apply State.put_keeps
    | with_reducible exact Keeps.mk' (by assumption) rfl rfl rfl
    | with_reducible apply OutKeeps.next
    | with_reducible apply OutKeeps.fault
    | split
    | with_reducible apply_assumption
    | intro _

theorem execShtModClear_keeps {s0 : State} (req : Requester) (s : State) (h0 : Keeps s0 s) :
    OutKeeps s0 (execShtModClear req s) := by
  unfold execShtModClear
  repeat' first
    | with_reducible assumption
    | with_reducible apply State.write_keeps
    | with_reducible apply State.put_keeps
    | with_reducible exact Keeps.mk' (by assumption) rfl rfl rfl
    | with_reducible apply OutKeeps.next
    | with_reducible apply OutKeeps.fault
    | split
    | with_reducible apply_assumption
    | intro _

theorem State.putShare_keeps {s0 : State} (s : State) (port : Nat) (q : Nat) (job : Nat) (w : Nat) (h0 : Keeps s0 s) :
    Keeps s0 (State.putShare s port q job w) := by
  unfold State.putShare
  repeat' first
    | with_reducible assumption
    | with_reducible apply State.put_keeps

theorem State.writeShares_keeps {s0 : State} (s : State) (c : Nat) (shares : List Nat) (h0 : Keeps s0 s) :
    Keeps s0 (State.writeShares s c shares) := by
  unfold State.writeShares
  repeat' first
    | with_reducible assumption
    | with_reducible apply State.putShare_keeps
    | with_reducible exact Keeps.mk' (by assumption) rfl rfl rfl
    | (with_reducible refine Keeps.foldl (fun _ _ _ => ?_) _ ?_)
    | (with_reducible refine Keeps.foldlFst (fun _ _ _ => ?_) _ ?_)
    | split

theorem State.releaseSetup_keeps {s0 : State} (s : State) (p : Nat) (h0 : Keeps s0 s) :
    Keeps s0 (State.releaseSetup s p) := by
  unfold State.releaseSetup
  repeat' first
    | with_reducible assumption
    | with_reducible apply State.putShare_keeps
    | with_reducible apply State.setShut_keeps
    | with_reducible apply State.put_keeps
    | with_reducible exact Keeps.mk' (by assumption) rfl rfl rfl
    | (with_reducible refine Keeps.foldl (fun _ _ _ => ?_) _ ?_)
    | (with_reducible refine Keeps.foldlFst (fun _ _ _ => ?_) _ ?_)
    | split

theorem State.dropStreams_keeps {s0 : State} (s : State) (c : Nat) (h0 : Keeps s0 s) :
    Keeps s0 (State.dropStreams s c) := by
  unfold State.dropStreams
  repeat' first
    | with_reducible assumption
    | with_reducible apply State.put_keeps
    | with_reducible exact Keeps.mk' (by assumption) rfl rfl rfl
    | (with_reducible refine Keeps.foldl (fun _ _ _ => ?_) _ ?_)
    | (with_reducible refine Keeps.foldlFst (fun _ _ _ => ?_) _ ?_)
    | (fail_if_no_progress extract_lets +onlyGivenNames x)
    | split
    | (with_reducible refine Keeps.ofFst (by with_reducible assumption) ?_)
    | (with_reducible refine Keeps.ofOpt (by with_reducible assumption) ?_)
    | (with_reducible refine Keeps.ofSnd (by with_reducible assumption) ?_)
    | intro _
    | (fail_if_no_progress with_reducible apply Keeps.mkOf)

theorem State.dropTasks_keeps {s0 : State} (s : State) (c : Nat) (h0 : Keeps s0 s) :
    Keeps s0 (State.dropTasks s c) := by
  unfold State.dropTasks
  repeat' first
    | with_reducible assumption
    | with_reducible exact Keeps.mk' (by assumption) rfl rfl rfl
    | (intro x; refine Keeps.have_ (Q := Keeps s0 x) ?q ?h; (case' q => subst x); (case' h => (intro hx; clear_value x)))
    | (intro x; clear_value x)
    | split
    | (with_reducible refine Keeps.ofFst (by with_reducible assumption) ?_)
    | (with_reducible refine Keeps.ofOpt (by with_reducible assumption) ?_)
    | (with_reducible refine Keeps.ofSnd (by with_reducible assumption) ?_)
    | lift_lets
    | intro _

theorem Memory.zeroMember_wf (m : Memory) (u : Member) (h : m.wf = true) : (m.zeroMember u).wf = true := by
  have share (m : Memory) (t1 : Bool) (off len : Nat) (h : m.wf = true) : (m.zeroShare u t1 off len).wf = true :=
    Memory.zero_wf _ _ _ (Memory.zero_wf _ _ _ h)
  exact Memory.foldl_wf (fun m _ hm => share m _ _ _ hm) _ (share _ _ _ _ (share _ _ _ _ h))

theorem State.zeroGrants_keeps {s0 : State} (s : State) (c : Nat) (h0 : Keeps s0 s) : Keeps s0 (State.zeroGrants s c) :=
  Keeps.mkMem h0 rfl rfl fun w => Memory.foldl_wf (fun m _ => Memory.zero_wf m _ _) _
    (Memory.foldl_wf (fun m u => Memory.zeroMember_wf m u) _ w)

theorem State.saveTake_keeps {s0 : State} (s : State) (ms : List Member) (h0 : Keeps s0 s) :
    Keeps s0 (State.saveTake s ms) := by
  unfold State.saveTake
  repeat' first
    | with_reducible assumption
    | with_reducible apply State.put_keeps
    | with_reducible exact Keeps.mk' (by assumption) rfl rfl rfl
    | (with_reducible refine Keeps.foldl (fun _ _ _ => ?_) _ ?_)
    | (with_reducible refine Keeps.foldlFst (fun _ _ _ => ?_) _ ?_)
    | split

theorem State.saveDrop_keeps {s0 : State} (s : State) (ms : List Member) (h0 : Keeps s0 s) :
    Keeps s0 (State.saveDrop s ms) := by
  unfold State.saveDrop
  repeat' first
    | with_reducible assumption
    | with_reducible apply State.put_keeps
    | with_reducible exact Keeps.mk' (by assumption) rfl rfl rfl
    | (with_reducible refine Keeps.foldl (fun _ _ _ => ?_) _ ?_)
    | (with_reducible refine Keeps.foldlFst (fun _ _ _ => ?_) _ ?_)
    | split

theorem State.stopAll_keeps {s0 : State} (s : State) (c : Nat) (h0 : Keeps s0 s) :
    Keeps s0 (State.stopAll s c) := by
  unfold State.stopAll
  repeat' first
    | with_reducible assumption
    | with_reducible apply State.collEndCtx_keeps
    | with_reducible apply State.dropRequests_keeps
    | with_reducible apply State.lvrAbort_keeps
    | with_reducible apply State.migAbort_keeps
    | with_reducible apply State.discardGroups_keeps
    | with_reducible apply State.put_keeps
    | with_reducible exact Keeps.mk' (by assumption) rfl rfl rfl
    | (fail_if_no_progress extract_lets +onlyGivenNames x)
    | split
    | (fail_if_no_progress with_reducible apply Keeps.mkOf)

theorem State.tearDown_keeps {s0 : State} (s : State) (c : Nat) (retain : Bool) (h0 : Keeps s0 s) :
    Keeps s0 (State.tearDown s c retain) := by
  unfold State.tearDown
  repeat' first
    | with_reducible assumption
    | with_reducible apply State.stopAll_keeps
    | with_reducible apply State.dropTasks_keeps
    | with_reducible apply State.dropStreams_keeps
    | with_reducible apply State.vblPump_keeps
    | with_reducible apply State.raiseInc_keeps
    | with_reducible apply State.setCtx_keeps
    | with_reducible apply State.put_keeps
    | with_reducible exact Keeps.mk' (by assumption) rfl rfl rfl
    | (intro x; refine Keeps.have_ (Q := Keeps s0 x) ?q ?h; (case' q => subst x); (case' h => (intro hx; clear_value x)))
    | (intro x; clear_value x)
    | split
    | lift_lets

theorem State.teardown_keeps {s0 : State} (s : State) (c : Nat) (retain : Bool) (h0 : Keeps s0 s) :
    Keeps s0 (State.teardown s c retain) := by
  unfold State.teardown
  repeat' first
    | with_reducible assumption
    | with_reducible apply State.deferRise_keeps
    | with_reducible apply State.markStopped_keeps
    | with_reducible apply State.tearDown_keeps
    | with_reducible exact Keeps.mk' (by assumption) rfl rfl rfl
    | (intro x; refine Keeps.have_ (Q := Keeps s0 x) ?q ?h; (case' q => subst x); (case' h => (intro hx; clear_value x)))
    | (intro x; clear_value x)
    | split
    | lift_lets

theorem State.resetCtxs_keeps {s0 : State} (s : State) (p : Nat) (h0 : Keeps s0 s) :
    Keeps s0 (State.resetCtxs s p) := by
  unfold State.resetCtxs
  repeat' first
    | with_reducible assumption
    | with_reducible apply State.teardown_keeps
    | with_reducible apply State.deferRise_keeps
    | with_reducible apply State.raiseInc_keeps
    | with_reducible exact Keeps.mk' (by assumption) rfl rfl rfl
    | (with_reducible refine Keeps.foldl (fun _ _ _ => ?_) _ ?_)
    | (with_reducible refine Keeps.foldlFst (fun _ _ _ => ?_) _ ?_)
    | split

theorem State.resetGoes_keeps {s0 : State} (s : State) (p : Nat) (h0 : Keeps s0 s) :
    Keeps s0 (State.resetGoes s p) := by
  unfold State.resetGoes
  repeat' first
    | with_reducible assumption
    | with_reducible apply State.resetCtxs_keeps
    | with_reducible apply State.raise_keeps
    | with_reducible apply State.put_keeps
    | with_reducible exact Keeps.mk' (by assumption) rfl rfl rfl
    | (intro x; refine Keeps.have_ (Q := Keeps s0 x) ?q ?h; (case' q => subst x); (case' h => intro hx))
    | (intro x; skip)
    | split
    | lift_lets

theorem State.partReset_keeps {s0 : State} (s : State) (p : Nat) (h0 : Keeps s0 s) :
    Keeps s0 (State.partReset s p) := by
  unfold State.partReset
  repeat' first
    | with_reducible assumption
    | with_reducible apply State.resetGoes_keeps
    | with_reducible apply State.vblPump_keeps
    | with_reducible apply State.put_keeps
    | with_reducible exact Keeps.mk' (by assumption) rfl rfl rfl
    | (intro x; refine Keeps.have_ (Q := Keeps s0 x) ?q ?h; (case' q => subst x); (case' h => (intro hx; clear_value x)))
    | split
    | lift_lets

theorem State.tearEnd_keeps {s0 : State} (s : State) (c : Nat) (retain : Bool) (h0 : Keeps s0 s) :
    Keeps s0 (State.tearEnd s c retain) := by
  unfold State.tearEnd
  repeat' first
    | with_reducible assumption
    | with_reducible apply State.put_keeps
    | with_reducible apply State.raiseCtx_keeps
    | with_reducible apply State.releaseSetup_keeps
    | with_reducible apply State.resetGoes_keeps
    | with_reducible apply State.saveDrop_keeps
    | with_reducible apply State.setLvr_keeps
    | with_reducible apply State.vblPump_keeps
    | with_reducible exact Keeps.mk' (by assumption) rfl rfl rfl
    | (intro x; refine Keeps.have_ (Q := Keeps s0 x) ?q ?h; (case' q => subst x); (case' h => (intro hx; clear_value x)))
    | (intro x; clear_value x)
    | split
    | lift_lets

theorem State.tearTick_keeps {s0 : State} (s : State) (c : Nat) (h0 : Keeps s0 s) :
    Keeps s0 (State.tearTick s c) := by
  unfold State.tearTick
  repeat' first
    | with_reducible assumption
    | with_reducible apply State.tearEnd_keeps
    | with_reducible apply State.zeroGrants_keeps
    | with_reducible apply State.setCtx_keeps
    | with_reducible exact Keeps.mk' (by assumption) rfl rfl rfl
    | split

theorem execShtReset_keeps {s0 : State} (req : Requester) (p : PartId) (s : State) (h0 : Keeps s0 s) :
    OutKeeps s0 (execShtReset req p s) := by
  unfold execShtReset
  repeat' first
    | with_reducible assumption
    | with_reducible apply State.partReset_keeps
    | with_reducible apply State.write_keeps
    | with_reducible exact Keeps.mk' (by assumption) rfl rfl rfl
    | with_reducible apply OutKeeps.next
    | with_reducible apply OutKeeps.fault
    | split
    | with_reducible apply_assumption
    | intro _

theorem State.zeroSlices_keeps {s0 : State} (s : State) (p : Nat) (h0 : Keeps s0 s) : Keeps s0 (State.zeroSlices s p) :=
  Keeps.mkMem h0 rfl rfl fun w => Memory.foldl_wf (fun m _ => Memory.zero_wf m _ _) _ w

theorem State.zeroingDone_keeps {s0 : State} (s : State) (p : Nat) (h0 : Keeps s0 s) :
    Keeps s0 (State.zeroingDone s p) := by
  unfold State.zeroingDone
  repeat' first
    | with_reducible assumption
    | with_reducible apply State.zeroSlices_keeps
    | with_reducible apply State.raise_keeps
    | with_reducible apply State.put_keeps
    | with_reducible exact Keeps.mk' (by assumption) rfl rfl rfl
    | (intro x; refine Keeps.have_ (Q := Keeps s0 x) ?q ?h; (case' q => subst x); (case' h => (intro hx; clear_value x)))
    | split
    | lift_lets

theorem execT2ZeroingDone_keeps {s0 : State} (p : PartId) (s : State) (h0 : Keeps s0 s) :
    OutKeeps s0 (execT2ZeroingDone p s) := by
  unfold execT2ZeroingDone
  repeat' first
    | with_reducible assumption
    | with_reducible apply State.clocked_keeps
    | with_reducible apply State.zeroingDone_keeps
    | with_reducible exact Keeps.mk' (by assumption) rfl rfl rfl
    | with_reducible apply OutKeeps.next
    | with_reducible apply OutKeeps.fault

theorem State.ctxResult_keeps {s0 : State} (s : State) (c : Nat) (r : Nat) (h0 : Keeps s0 s) :
    Keeps s0 (State.ctxResult s c r) := by
  unfold State.ctxResult
  repeat' first
    | with_reducible assumption
    | with_reducible apply State.put_keeps

theorem State.enterLoading_keeps {s0 : State} (s : State) (c : Nat) (h0 : Keeps s0 s) :
    Keeps s0 (State.enterLoading s c) := by
  unfold State.enterLoading
  repeat' first
    | with_reducible assumption
    | with_reducible apply State.put_keeps
    | with_reducible apply State.raiseInc_keeps
    | with_reducible apply State.setCtx_keeps
    | with_reducible apply State.wr_keeps
    | with_reducible exact Keeps.mk' (by assumption) rfl rfl rfl
    | (with_reducible refine Keeps.ofFst (by with_reducible assumption) ?_)
    | (with_reducible refine Keeps.ofOpt (by with_reducible assumption) ?_)
    | (with_reducible refine Keeps.ofSnd (by with_reducible assumption) ?_)
    | (fail_if_no_progress extract_lets +onlyGivenNames x)
    | (fail_if_no_progress with_reducible apply Keeps.mkOf)

theorem State.ctxLoad_keeps {s0 : State} (s : State) (c : Nat) (h0 : Keeps s0 s) :
    Keeps s0 (State.ctxLoad s c) := by
  unfold State.ctxLoad
  repeat' first
    | with_reducible assumption
    | with_reducible apply State.enterLoading_keeps
    | with_reducible apply State.ctxResult_keeps
    | with_reducible apply State.vblPump_keeps
    | with_reducible apply State.deferRise_keeps
    | with_reducible exact Keeps.mk' (by assumption) rfl rfl rfl
    | (intro x; refine Keeps.have_ (Q := Keeps s0 x) ?q ?h; (case' q => subst x); (case' h => (intro hx; clear_value x)))
    | split
    | lift_lets

theorem State.ctxSeal_keeps {s0 : State} (s : State) (c : Nat) (h0 : Keeps s0 s) :
    Keeps s0 (State.ctxSeal s c) := by
  unfold State.ctxSeal
  repeat' first
    | with_reducible assumption
    | with_reducible apply State.ctxResult_keeps
    | with_reducible apply State.put_keeps
    | with_reducible exact Keeps.mk' (by assumption) rfl rfl rfl
    | split

theorem State.ctxStart_keeps {s0 : State} (s : State) (c : Nat) (h0 : Keeps s0 s) :
    Keeps s0 (State.ctxStart s c) := by
  unfold State.ctxStart
  repeat' first
    | with_reducible assumption
    | with_reducible apply State.ctxResult_keeps
    | with_reducible apply State.setCtx_keeps
    | with_reducible exact Keeps.mk' (by assumption) rfl rfl rfl
    | (intro x; clear_value x)
    | split
    | lift_lets

theorem State.ctxDrain_keeps {s0 : State} (s : State) (c : Nat) (retain : Bool) (h0 : Keeps s0 s) :
    Keeps s0 (State.ctxDrain s c retain) := by
  unfold State.ctxDrain
  repeat' first
    | with_reducible assumption
    | with_reducible apply State.ctxResult_keeps
    | with_reducible apply State.setCtx_keeps
    | with_reducible apply State.put_keeps
    | with_reducible exact Keeps.mk' (by assumption) rfl rfl rfl
    | split

theorem State.ctxKill_keeps {s0 : State} (s : State) (c : Nat) (retain : Bool) (h0 : Keeps s0 s) :
    Keeps s0 (State.ctxKill s c retain) := by
  unfold State.ctxKill
  repeat' first
    | with_reducible assumption
    | with_reducible apply State.ctxResult_keeps
    | with_reducible apply State.teardown_keeps
    | with_reducible exact Keeps.mk' (by assumption) rfl rfl rfl
    | split

theorem State.ctxCmd_keeps {s0 : State} (s : State) (c : Nat) (cmd : Nat) (retain : Bool) (h0 : Keeps s0 s) :
    Keeps s0 (State.ctxCmd s c cmd retain) := by
  unfold State.ctxCmd
  repeat' first
    | with_reducible assumption
    | with_reducible apply State.ctxKill_keeps
    | with_reducible apply State.ctxDrain_keeps
    | with_reducible apply State.ctxStart_keeps
    | with_reducible apply State.ctxSeal_keeps
    | with_reducible apply State.ctxLoad_keeps
    | with_reducible apply State.ctxResult_keeps
    | with_reducible exact Keeps.mk' (by assumption) rfl rfl rfl
    | split

theorem State.ctxCmdWrite_keeps {s0 : State} (s : State) (req : Requester) (c : Nat) (cmd : Nat) (retain : Bool) (h0 : Keeps s0 s) :
    Keeps s0 (State.ctxCmdWrite s req c cmd retain) := by
  unfold State.ctxCmdWrite
  repeat' first
    | with_reducible assumption
    | with_reducible apply State.ctxCmd_keeps
    | with_reducible apply State.write_keeps
    | with_reducible exact Keeps.mk' (by assumption) rfl rfl rfl
    | split
    | with_reducible apply_assumption
    | intro _

theorem execCtxLoad_keeps {s0 : State} (req : Requester) (c : CtxId) (s : State) (h0 : Keeps s0 s) :
    OutKeeps s0 (execCtxLoad req c s) := by
  unfold execCtxLoad
  repeat' first
    | with_reducible assumption
    | with_reducible apply State.ctxCmdWrite_keeps
    | with_reducible exact Keeps.mk' (by assumption) rfl rfl rfl
    | with_reducible apply OutKeeps.next

theorem execCtxSeal_keeps {s0 : State} (req : Requester) (c : CtxId) (s : State) (h0 : Keeps s0 s) :
    OutKeeps s0 (execCtxSeal req c s) := by
  unfold execCtxSeal
  repeat' first
    | with_reducible assumption
    | with_reducible apply State.ctxCmdWrite_keeps
    | with_reducible exact Keeps.mk' (by assumption) rfl rfl rfl
    | with_reducible apply OutKeeps.next

theorem execCtxStart_keeps {s0 : State} (req : Requester) (c : CtxId) (s : State) (h0 : Keeps s0 s) :
    OutKeeps s0 (execCtxStart req c s) := by
  unfold execCtxStart
  repeat' first
    | with_reducible assumption
    | with_reducible apply State.ctxCmdWrite_keeps
    | with_reducible exact Keeps.mk' (by assumption) rfl rfl rfl
    | with_reducible apply OutKeeps.next

theorem execCtxDrain_keeps {s0 : State} (req : Requester) (c : CtxId) (retain : Bool) (s : State) (h0 : Keeps s0 s) :
    OutKeeps s0 (execCtxDrain req c retain s) := by
  unfold execCtxDrain
  repeat' first
    | with_reducible assumption
    | with_reducible apply State.ctxCmdWrite_keeps
    | with_reducible exact Keeps.mk' (by assumption) rfl rfl rfl
    | with_reducible apply OutKeeps.next

theorem execCtxKill_keeps {s0 : State} (req : Requester) (c : CtxId) (retain : Bool) (s : State) (h0 : Keeps s0 s) :
    OutKeeps s0 (execCtxKill req c retain s) := by
  unfold execCtxKill
  repeat' first
    | with_reducible assumption
    | with_reducible apply State.ctxCmdWrite_keeps
    | with_reducible exact Keeps.mk' (by assumption) rfl rfl rfl
    | with_reducible apply OutKeeps.next

theorem State.startTick_keeps {s0 : State} (s : State) (c : Nat) (h0 : Keeps s0 s) :
    Keeps s0 (State.startTick s c) := by
  unfold State.startTick
  repeat' first
    | with_reducible assumption
    | with_reducible apply State.ctlStart_keeps
    | with_reducible apply State.thrUpdate_keeps
    | with_reducible apply State.setCtx_keeps
    | with_reducible apply State.put_keeps
    | with_reducible exact Keeps.mk' (by assumption) rfl rfl rfl
    | (with_reducible refine Keeps.foldl (fun _ _ _ => ?_) _ ?_)
    | (with_reducible refine Keeps.foldlFst (fun _ _ _ => ?_) _ ?_)
    | split

theorem execCtxStartTick_keeps {s0 : State} (c : CtxId) (s : State) (h0 : Keeps s0 s) :
    OutKeeps s0 (execCtxStartTick c s) := by
  unfold execCtxStartTick
  repeat' first
    | with_reducible assumption
    | with_reducible apply State.clocked_keeps
    | with_reducible apply State.startTick_keeps
    | with_reducible exact Keeps.mk' (by assumption) rfl rfl rfl
    | with_reducible apply OutKeeps.next
    | with_reducible apply OutKeeps.fault

theorem execDrainComplete_keeps {s0 : State} (c : CtxId) (s : State) (h0 : Keeps s0 s) :
    OutKeeps s0 (execDrainComplete c s) := by
  unfold execDrainComplete
  repeat' first
    | with_reducible assumption
    | with_reducible apply State.clocked_keeps
    | with_reducible apply State.teardown_keeps
    | with_reducible exact Keeps.mk' (by assumption) rfl rfl rfl
    | with_reducible apply OutKeeps.next
    | with_reducible apply OutKeeps.fault
    | split

theorem State.applyRise_keeps {s0 : State} (s : State) (b0 : Rise) (h0 : Keeps s0 s) :
    Keeps s0 (State.applyRise s b0) := by
  unfold State.applyRise
  repeat' first
    | with_reducible assumption
    | with_reducible apply State.enterLoading_keeps
    | with_reducible apply State.teardown_keeps
    | with_reducible apply State.tearDown_keeps
    | with_reducible apply State.enterFaulted_keeps
    | with_reducible apply State.raiseInc_keeps
    | with_reducible apply State.put_keeps
    | with_reducible exact Keeps.mk' (by assumption) rfl rfl rfl
    | split

theorem State.applyRises_keeps {s0 : State} (s : State) (h0 : Keeps s0 s) :
    Keeps s0 (State.applyRises s) := by
  unfold State.applyRises
  repeat' first
    | with_reducible assumption
    | with_reducible apply State.applyRise_keeps
    | with_reducible apply State.resetGoes_keeps
    | with_reducible apply State.vblPump_keeps
    | with_reducible exact Keeps.mk' (by assumption) rfl rfl rfl
    | (with_reducible refine Keeps.foldl (fun _ _ _ => ?_) _ ?_)

theorem State.put0_keeps {s0 : State} (s : State) (c : Nat) (a : Nat) (bs : List Byte) (h0 : Keeps s0 s) :
    Keeps s0 (State.put0 s c a bs) := by
  unfold State.put0
  repeat' first
    | with_reducible assumption
    | with_reducible apply State.twrite_keeps

theorem State.bindBytes_keeps {s0 : State} (s : State) (c : Nat) (b : List Byte) (here : List Nat) (plan : BindPlan) (h0 : Keeps s0 s) :
    Keeps s0 (State.bindBytes s c b here plan) := by
  unfold State.bindBytes
  repeat' first
    | with_reducible assumption
    | with_reducible apply State.put0_keeps
    | with_reducible exact Keeps.mk' (by assumption) rfl rfl rfl
    | (with_reducible refine Keeps.foldl (fun _ _ _ => ?_) _ ?_)
    | (with_reducible refine Keeps.foldlFst (fun _ _ _ => ?_) _ ?_)
    | split

theorem State.bindRegs_keeps {s0 : State} (s : State) (c : Nat) (b : List Byte) (here : List Nat) (plan : BindPlan) (h0 : Keeps s0 s) :
    Keeps s0 (State.bindRegs s c b here plan) := by
  unfold State.bindRegs
  extract_lets s1 s2 s3 pool src s4 s5 p s6
  have h1 : Keeps s0 s1 := State.put64_keeps _ _ _ (State.put64_keeps _ _ _ (State.put64_keeps _ _ _ h0))
  have h2 : Keeps s0 s2 := Keeps.foldl (fun _ _ ht => State.wr_keeps _ _ _ ht) _ h1
  have h3 : Keeps s0 s3 := State.put_keeps _ _ _ h2
  have h4 : Keeps s0 s4 := Keeps.mkOf h3
  have h5 : Keeps s0 s5 := State.writeShares_keeps _ _ _ h4
  have h6 : Keeps s0 s6 := by
    subst s6
    split
    · exact State.put_keeps _ _ _ h5
    · exact h5
  split
  · exact h6
  · exact State.put_keeps _ _ _ (Keeps.foldl (fun _ _ ht => State.setShut_keeps _ _ _ ht) _ h6)

theorem State.bindRefused_keeps {s0 : State} (s : State) (c : Nat) (r : Nat) (h0 : Keeps s0 s) :
    Keeps s0 (State.bindRefused s c r) := by
  unfold State.bindRefused
  repeat' first
    | with_reducible assumption
    | with_reducible apply State.put_keeps
    | with_reducible exact Keeps.mk' (by assumption) rfl rfl rfl
    | (intro x; refine Keeps.have_ (Q := Keeps s0 x) ?q ?h; (case' q => subst x); (case' h => (intro hx; clear_value x)))
    | split
    | lift_lets

theorem State.readImage_keeps {s0 : State} (s : State) (c : Nat) (img : Reply) (h0 : Keeps s0 s) :
    Keeps s0 (State.readImage s c img).1 := by
  unfold State.readImage
  repeat' first
    | with_reducible assumption
    | with_reducible apply State.ownRead_keeps
    | with_reducible apply State.ownReads_keeps
    | with_reducible apply State.readGlobal_keeps
    | with_reducible exact Keeps.mk' (by assumption) rfl rfl rfl
    | (fail_if_no_progress extract_lets +onlyGivenNames x)
    | split
    | (with_reducible refine Keeps.ofFst (by with_reducible assumption) ?_)
    | (with_reducible refine Keeps.ofOpt (by with_reducible assumption) ?_)
    | (with_reducible refine Keeps.ofSnd (by with_reducible assumption) ?_)
    | intro _
    | (fail_if_no_progress with_reducible apply Keeps.mkOf)

theorem State.bindDone_keeps {s0 : State} (s : State) (c : Nat) (img : Reply) (plan : BindPlan) (h0 : Keeps s0 s) :
    Keeps s0 (State.bindDone s c img plan) := by
  unfold State.bindDone
  repeat' first
    | with_reducible assumption
    | with_reducible apply State.bindBytes_keeps
    | with_reducible apply State.bindRefused_keeps
    | with_reducible apply State.bindRegs_keeps
    | with_reducible apply State.put_keeps
    | with_reducible apply State.readImage_keeps
    | with_reducible apply State.saveTake_keeps
    | with_reducible apply State.setCtx_keeps
    | with_reducible apply State.vblPump_keeps
    | with_reducible exact Keeps.mk' (by assumption) rfl rfl rfl
    | (fail_if_no_progress extract_lets +onlyGivenNames x)
    | split
    | (with_reducible refine Keeps.ofFst (by with_reducible assumption) ?_)
    | (with_reducible refine Keeps.ofOpt (by with_reducible assumption) ?_)
    | (with_reducible refine Keeps.ofSnd (by with_reducible assumption) ?_)
    | (fail_if_no_progress with_reducible apply Keeps.mkOf)

theorem execBindingDone_keeps {s0 : State} (c : CtxId) (img : Reply) (plan : BindPlan) (s : State) (h0 : Keeps s0 s) :
    OutKeeps s0 (execBindingDone c img plan s) := by
  unfold execBindingDone
  repeat' first
    | with_reducible assumption
    | with_reducible apply State.bindDone_keeps
    | with_reducible apply State.clocked_keeps
    | with_reducible exact Keeps.mk' (by assumption) rfl rfl rfl
    | with_reducible apply OutKeeps.next
    | with_reducible apply OutKeeps.fault

end Sys2Proof.Machine
end

