-- ==== Sys2Proof/Laws/KeepsRelia.lean ====
section
/-!
SUPPORT. Every function of Machine/Relia.lean keeps the queue and the canonical forms.
-/
namespace Sys2Proof.Machine
open Sys2Proof

theorem State.transReport_keeps {s0 : State} (s : State) (pos : Nat) (h0 : Keeps s0 s) :
    Keeps s0 (State.transReport s pos) := by
  unfold State.transReport
  repeat' first
    | with_reducible assumption
    | with_reducible apply State.setPosition_keeps
    | with_reducible apply State.put_keeps

theorem State.chargeTransient_keeps {s0 : State} (s : State) (pos : Nat) (a : Nat) (h0 : Keeps s0 s) :
    Keeps s0 (State.chargeTransient s pos a).1 := by
  unfold State.chargeTransient
  repeat' first
    | with_reducible assumption
    | with_reducible apply State.transReport_keeps
    | with_reducible apply State.setPosition_keeps

theorem State.fenceArray_keeps {s0 : State} (s : State) (pos : Nat) (a : Nat) (h0 : Keeps s0 s) :
    Keeps s0 (State.fenceArray s pos a) := by
  unfold State.fenceArray
  repeat' first
    | with_reducible assumption
    | with_reducible apply State.setPosition_keeps
    | with_reducible apply State.put_keeps
    | with_reducible exact Keeps.mk' (by assumption) rfl rfl rfl
    | (intro x; clear_value x)
    | split
    | lift_lets

theorem State.judge_keeps {s0 : State} (s : State) (pos : Nat) (a : Nat) (reason : Nat) (h0 : Keeps s0 s) :
    Keeps s0 (State.judge s pos a reason) := by
  unfold State.judge
  repeat' first
    | with_reducible assumption
    | with_reducible apply State.posFail_keeps
    | with_reducible apply State.repairWrite_keeps
    | with_reducible apply State.raiseMod_keeps
    | with_reducible apply State.put_keeps
    | with_reducible exact Keeps.mk' (by assumption) rfl rfl rfl
    | (intro x; refine Keeps.have_ (Q := Keeps s0 x) ?q ?h; (case' q => subst x); (case' h => (intro hx; clear_value x)))
    | split
    | lift_lets

theorem State.chargePermanent_keeps {s0 : State} (s : State) (pos : Nat) (a : Nat) (reason : Nat) (h0 : Keeps s0 s) :
    Keeps s0 (State.chargePermanent s pos a reason) := by
  unfold State.chargePermanent
  repeat' first
    | with_reducible assumption
    | with_reducible apply State.judge_keeps
    | with_reducible apply State.fenceArray_keeps

theorem State.relEvent_keeps {s0 : State} (s : State) (m : Mismatch) (pos : Nat) (code : Nat) (sev : Nat) (h0 : Keeps s0 s) :
    Keeps s0 (State.relEvent s m pos code sev) := by
  unfold State.relEvent
  repeat' first
    | with_reducible assumption
    | with_reducible apply State.raiseMod_keeps

theorem State.transient_keeps {s0 : State} (s : State) (m : Mismatch) (pos : Nat) (p : Nat) (a : Nat) (h0 : Keeps s0 s) :
    Keeps s0 (State.transient s m pos p a) := by
  unfold State.transient
  repeat' first
    | with_reducible assumption
    | with_reducible apply State.relEvent_keeps
    | with_reducible apply State.chargePermanent_keeps
    | with_reducible apply State.chargeTransient_keeps
    | with_reducible apply State.bump_keeps
    | with_reducible exact Keeps.mk' (by assumption) rfl rfl rfl
    | split
    | (with_reducible refine Keeps.ofFst (by with_reducible assumption) ?_)

theorem State.poisonTile_keeps {s0 : State} (s : State) (core tile : Nat) (h0 : Keeps s0 s) :
    Keeps s0 (State.poisonTile s core tile) :=
  Keeps.mkMem h0 rfl rfl fun w => Memory.foldl_wf (fun m _ => Memory.setPoison_wf m _) _ w

theorem State.poisonOut_keeps {s0 : State} (s : State) (m : Mismatch) (h0 : Keeps s0 s) :
    Keeps s0 (State.poisonOut s m) := by
  unfold State.poisonOut
  repeat' first
    | with_reducible assumption
    | with_reducible apply State.poisonTile_keeps
    | with_reducible exact Keeps.mk' (by assumption) rfl rfl rfl
    | (with_reducible refine Keeps.foldl (fun _ _ _ => ?_) _ ?_)
    | (with_reducible refine Keeps.foldlFst (fun _ _ _ => ?_) _ ?_)
    | split

theorem State.unresolved_keeps {s0 : State} (s : State) (m : Mismatch) (pos : Nat) (h0 : Keeps s0 s) :
    Keeps s0 (State.unresolved s m pos) := by
  unfold State.unresolved
  repeat' first
    | with_reducible assumption
    | with_reducible apply State.poisonOut_keeps
    | with_reducible apply State.relEvent_keeps
    | with_reducible apply State.judge_keeps
    | with_reducible apply State.fenceArray_keeps
    | with_reducible apply State.bump_keeps
    | with_reducible exact Keeps.mk' (by assumption) rfl rfl rfl
    | (intro x; refine Keeps.have_ (Q := Keeps s0 x) ?q ?h; (case' q => subst x); (case' h => intro hx))
    | (intro x; skip)
    | split
    | (with_reducible refine Keeps.ofFst (by with_reducible assumption) ?_)
    | (with_reducible refine Keeps.ofOpt (by with_reducible assumption) ?_)
    | (with_reducible refine Keeps.ofSnd (by with_reducible assumption) ?_)
    | lift_lets

theorem State.unclean_keeps {s0 : State} (s : State) (pos : Nat) (h0 : Keeps s0 s) :
    Keeps s0 (State.unclean s pos) := by
  unfold State.unclean
  repeat' first
    | with_reducible assumption
    | with_reducible apply State.put_keeps

theorem State.mismatch_keeps {s0 : State} (s : State) (m : Mismatch) (h0 : Keeps s0 s) :
    Keeps s0 (State.mismatch s m) := by
  unfold State.mismatch
  repeat' first
    | with_reducible assumption
    | with_reducible apply State.bump_keeps
    | with_reducible apply State.chargePermanent_keeps
    | with_reducible apply State.relEvent_keeps
    | with_reducible apply State.transient_keeps
    | with_reducible apply State.unclean_keeps
    | with_reducible apply State.unresolved_keeps
    | with_reducible apply State.wrap64_keeps
    | with_reducible exact Keeps.mk' (by assumption) rfl rfl rfl
    | (intro x; refine Keeps.have_ (Q := Keeps s0 x) ?q ?h; (case' q => subst x); (case' h => (intro hx; clear_value x)))
    | (intro x; clear_value x)
    | split
    | (with_reducible refine Keeps.ofFst (by with_reducible assumption) ?_)
    | (with_reducible refine Keeps.ofOpt (by with_reducible assumption) ?_)
    | (with_reducible refine Keeps.ofSnd (by with_reducible assumption) ?_)
    | lift_lets

theorem execMmaCheckMismatch_keeps {s0 : State} (m : Mismatch) (s : State) (h0 : Keeps s0 s) :
    OutKeeps s0 (execMmaCheckMismatch m s) := by
  unfold execMmaCheckMismatch
  repeat' first
    | with_reducible assumption
    | with_reducible apply State.clocked_keeps
    | with_reducible apply State.evcFlow_keeps
    | with_reducible apply State.mismatch_keeps
    | with_reducible exact Keeps.mk' (by assumption) rfl rfl rfl
    | with_reducible apply OutKeeps.next
    | with_reducible apply OutKeeps.fault
    | (with_reducible refine Keeps.ofFst (by with_reducible assumption) ?_)
    | (with_reducible refine Keeps.ofOpt (by with_reducible assumption) ?_)
    | (with_reducible refine Keeps.ofSnd (by with_reducible assumption) ?_)

theorem State.scanDue_keeps {s0 : State} (s : State) (pos : Nat) (never : Bool) (h0 : Keeps s0 s) :
    Keeps s0 (State.scanDue s pos never) := by
  unfold State.scanDue
  repeat' first
    | with_reducible assumption
    | with_reducible apply State.testDue_keeps
    | with_reducible apply State.evcFlow_keeps
    | with_reducible exact Keeps.mk' (by assumption) rfl rfl rfl
    | split

theorem execScanDue_keeps {s0 : State} (pos : PosId) (never : Bool) (s : State) (h0 : Keeps s0 s) :
    OutKeeps s0 (execScanDue pos never s) := by
  unfold execScanDue
  repeat' first
    | with_reducible assumption
    | with_reducible apply State.clocked_keeps
    | with_reducible apply State.scanDue_keeps
    | with_reducible exact Keeps.mk' (by assumption) rfl rfl rfl
    | with_reducible apply OutKeeps.next
    | with_reducible apply OutKeeps.fault

theorem State.scanReq_keeps {s0 : State} (s : State) (v : Nat) (never : Bool) (h0 : Keeps s0 s) :
    Keeps s0 (State.scanReq s v never) := by
  unfold State.scanReq
  repeat' first
    | with_reducible assumption
    | with_reducible apply State.testDue_keeps
    | with_reducible apply State.evcFlow_keeps
    | with_reducible apply State.put_keeps
    | with_reducible exact Keeps.mk' (by assumption) rfl rfl rfl
    | (intro x; refine Keeps.have_ (Q := Keeps s0 x) ?q ?h; (case' q => subst x); (case' h => (intro hx; clear_value x)))
    | (intro x; clear_value x)
    | split
    | lift_lets

theorem execScanRequest_keeps {s0 : State} (req : Requester) (v : BitVec 32) (never : Bool) (s : State) (h0 : Keeps s0 s) :
    OutKeeps s0 (execScanRequest req v never s) := by
  unfold execScanRequest
  repeat' first
    | with_reducible assumption
    | with_reducible apply State.scanReq_keeps
    | with_reducible apply State.write_keeps
    | with_reducible exact Keeps.mk' (by assumption) rfl rfl rfl
    | with_reducible apply OutKeeps.next
    | with_reducible apply OutKeeps.fault
    | (intro x; clear_value x)
    | split
    | lift_lets
    | with_reducible apply_assumption
    | intro _

theorem execCalibRequest_keeps {s0 : State} (req : Requester) (v : BitVec 32) (never : Bool) (s : State) (h0 : Keeps s0 s) :
    OutKeeps s0 (execCalibRequest req v never s) := by
  unfold execCalibRequest
  repeat' first
    | with_reducible assumption
    | with_reducible apply State.scanReq_keeps
    | with_reducible apply State.write_keeps
    | with_reducible exact Keeps.mk' (by assumption) rfl rfl rfl
    | with_reducible apply OutKeeps.next
    | with_reducible apply OutKeeps.fault
    | (intro x; clear_value x)
    | split
    | lift_lets
    | with_reducible apply_assumption
    | intro _

theorem State.stepMigrate_keeps {s0 : State} (s : State) (pos : Nat) (h0 : Keeps s0 s) :
    Keeps s0 (State.stepMigrate s pos) := by
  unfold State.stepMigrate
  repeat' first
    | with_reducible assumption
    | with_reducible apply State.evcFlow_keeps
    | with_reducible apply State.relPump_keeps
    | with_reducible apply State.supApply_keeps
    | with_reducible apply State.unhold_keeps
    | with_reducible exact Keeps.mk' (by assumption) rfl rfl rfl
    | (intro x; refine Keeps.have_ (Q := Keeps s0 x) ?q ?h; (case' q => subst x); (case' h => (intro hx; clear_value x)))
    | (intro x; clear_value x)
    | split
    | (with_reducible refine Keeps.ofFst (by with_reducible assumption) ?_)
    | (with_reducible refine Keeps.ofOpt (by with_reducible assumption) ?_)
    | (with_reducible refine Keeps.ofSnd (by with_reducible assumption) ?_)
    | lift_lets
    | intro _

theorem execStepBoundaryMigrate_keeps {s0 : State} (pos : PosId) (s : State) (h0 : Keeps s0 s) :
    OutKeeps s0 (execStepBoundaryMigrate pos s) := by
  unfold execStepBoundaryMigrate
  repeat' first
    | with_reducible assumption
    | with_reducible apply State.clocked_keeps
    | with_reducible apply State.stepMigrate_keeps
    | with_reducible exact Keeps.mk' (by assumption) rfl rfl rfl
    | with_reducible apply OutKeeps.next
    | with_reducible apply OutKeeps.fault

theorem State.force_keeps {s0 : State} (s : State) (c : Nat) (h0 : Keeps s0 s) :
    Keeps s0 (State.force s c) := by
  unfold State.force
  repeat' first
    | with_reducible assumption
    | with_reducible apply State.stepMigrate_keeps
    | with_reducible apply State.forceHold_keeps
    | with_reducible apply State.relPump_keeps
    | with_reducible apply State.ptcReport_keeps
    | with_reducible apply State.put_keeps
    | with_reducible exact Keeps.mk' (by assumption) rfl rfl rfl
    | (with_reducible refine Keeps.foldl (fun _ _ _ => ?_) _ ?_)
    | (with_reducible refine Keeps.foldlFst (fun _ _ _ => ?_) _ ?_)
    | (extract_lets +onlyGivenNames x; refine Keeps.have_ (Q := Keeps s0 x) ?q ?h; (case' q => subst x); (case' h => intro hx))
    | (fail_if_no_progress extract_lets +onlyGivenNames x)
    | split
    | (fail_if_no_progress with_reducible apply Keeps.mkOf)

theorem State.levelWrite_keeps {s0 : State} (s : State) (req : Requester) (c : Nat) (v : Nat) (h0 : Keeps s0 s) :
    Keeps s0 (State.levelWrite s req c v) := by
  unfold State.levelWrite
  repeat' first
    | with_reducible assumption
    | with_reducible apply State.misuse_keeps
    | with_reducible apply State.put_keeps
    | with_reducible exact Keeps.mk' (by assumption) rfl rfl rfl
    | split

theorem State.relCtrl_keeps {s0 : State} (s : State) (req : Requester) (c : Nat) (v : Nat) (h0 : Keeps s0 s) :
    Keeps s0 (State.relCtrl s req c v) := by
  unfold State.relCtrl
  repeat' first
    | with_reducible assumption
    | with_reducible apply State.levelWrite_keeps
    | with_reducible apply State.force_keeps
    | with_reducible apply State.evcFlow_keeps
    | with_reducible exact Keeps.mk' (by assumption) rfl rfl rfl
    | split

theorem execRelForce_keeps {s0 : State} (req : Requester) (c : CtxId) (v : BitVec 32) (s : State) (h0 : Keeps s0 s) :
    OutKeeps s0 (execRelForce req c v s) := by
  unfold execRelForce
  repeat' first
    | with_reducible assumption
    | with_reducible apply State.relCtrl_keeps
    | with_reducible apply State.write_keeps
    | with_reducible exact Keeps.mk' (by assumption) rfl rfl rfl
    | with_reducible apply OutKeeps.next
    | with_reducible apply OutKeeps.fault
    | (intro x; clear_value x)
    | split
    | lift_lets
    | with_reducible apply_assumption
    | intro _

theorem State.testEnd_keeps {s0 : State} (s : State) (n : Nat) (pos : Nat) (pass : Bool) (calib : Bool) (repaired : Nat) (ticks : Nat) (h0 : Keeps s0 s) :
    Keeps s0 (State.testEnd s n pos pass calib repaired ticks) := by
  unfold State.testEnd
  repeat' first
    | with_reducible assumption
    | with_reducible apply State.raiseMod_keeps
    | with_reducible exact Keeps.mk' (by assumption) rfl rfl rfl

theorem State.testFollow_keeps {s0 : State} (s : State) (r : PosRun) (pass : Bool) (h0 : Keeps s0 s) :
    Keeps s0 (State.testFollow s r pass) := by
  unfold State.testFollow
  repeat' first
    | with_reducible assumption
    | with_reducible apply State.posFail_keeps
    | with_reducible apply State.unhold_keeps
    | with_reducible apply State.relPump_keeps
    | with_reducible apply State.ptcReport_keeps
    | with_reducible apply State.repairWrite_keeps
    | with_reducible apply State.evcFlow_keeps
    | with_reducible apply State.put_keeps
    | with_reducible exact Keeps.mk' (by assumption) rfl rfl rfl
    | split

theorem State.scanComplete_keeps {s0 : State} (s : State) (n : Nat) (x : ScanResult) (h0 : Keeps s0 s) :
    Keeps s0 (State.scanComplete s n x) := by
  unfold State.scanComplete
  repeat' first
    | with_reducible assumption
    | with_reducible apply State.testFollow_keeps
    | with_reducible apply State.testEnd_keeps
    | with_reducible apply State.setPosition_keeps
    | with_reducible apply State.bump_keeps
    | with_reducible apply State.put_keeps
    | with_reducible exact Keeps.mk' (by assumption) rfl rfl rfl
    | split

theorem execScanComplete_keeps {s0 : State} (n : PaneId) (x : ScanResult) (s : State) (h0 : Keeps s0 s) :
    OutKeeps s0 (execScanComplete n x s) := by
  unfold execScanComplete
  repeat' first
    | with_reducible assumption
    | with_reducible apply State.clocked_keeps
    | with_reducible apply State.scanComplete_keeps
    | with_reducible exact Keeps.mk' (by assumption) rfl rfl rfl
    | with_reducible apply OutKeeps.next
    | with_reducible apply OutKeeps.fault

theorem State.calibSet_keeps {s0 : State} (s : State) (r : Nat) (x : CalibResult) (pass : Bool) (stays : Bool) (h0 : Keeps s0 s) :
    Keeps s0 (State.calibSet s r x pass stays) := by
  unfold State.calibSet
  extract_lets s1 s2
  have h1 : Keeps s0 s1 := State.put_keeps _ _ _ (State.put_keeps _ _ _ h0)
  have h2 : Keeps s0 s2 := State.put_keeps _ _ _ h1
  split
  · exact h1
  split
  · exact State.regOnNow_keeps _ _ h2
  · exact State.regEnter_keeps _ _ _ (State.put_keeps _ _ _ (Keeps.mkOf h2))

theorem State.calibComplete_keeps {s0 : State} (s : State) (r : Nat) (x : CalibResult) (h0 : Keeps s0 s) :
    Keeps s0 (State.calibComplete s r x) := by
  unfold State.calibComplete
  repeat' first
    | with_reducible assumption
    | with_reducible apply State.calibSet_keeps
    | with_reducible apply State.testFollow_keeps
    | with_reducible apply State.testEnd_keeps
    | with_reducible apply State.repairWrite_keeps
    | with_reducible apply State.evcFlow_keeps
    | with_reducible exact Keeps.mk' (by assumption) rfl rfl rfl
    | (intro x; clear_value x)
    | split
    | (with_reducible refine Keeps.ofFst (by with_reducible assumption) ?_)
    | (with_reducible refine Keeps.ofOpt (by with_reducible assumption) ?_)
    | (with_reducible refine Keeps.ofSnd (by with_reducible assumption) ?_)
    | lift_lets

theorem execCalibComplete_keeps {s0 : State} (r : RegionId) (x : CalibResult) (s : State) (h0 : Keeps s0 s) :
    OutKeeps s0 (execCalibComplete r x s) := by
  unfold execCalibComplete
  repeat' first
    | with_reducible assumption
    | with_reducible apply State.calibComplete_keeps
    | with_reducible apply State.clocked_keeps
    | with_reducible exact Keeps.mk' (by assumption) rfl rfl rfl
    | with_reducible apply OutKeeps.next
    | with_reducible apply OutKeeps.fault

theorem State.suspectClear_keeps {s0 : State} (s : State) (pos : Nat) (h0 : Keeps s0 s) :
    Keeps s0 (State.suspectClear s pos) := by
  unfold State.suspectClear
  repeat' first
    | with_reducible assumption
    | with_reducible apply State.put_keeps
    | with_reducible exact Keeps.mk' (by assumption) rfl rfl rfl
    | split

theorem execSuspectClear_keeps {s0 : State} (pos : PosId) (s : State) (h0 : Keeps s0 s) :
    OutKeeps s0 (execSuspectClear pos s) := by
  unfold execSuspectClear
  repeat' first
    | with_reducible assumption
    | with_reducible apply State.clocked_keeps
    | with_reducible apply State.suspectClear_keeps
    | with_reducible exact Keeps.mk' (by assumption) rfl rfl rfl
    | with_reducible apply OutKeeps.next
    | with_reducible apply OutKeeps.fault

theorem State.relCntClear_keeps {s0 : State} (s : State) (h0 : Keeps s0 s) :
    Keeps s0 (State.relCntClear s) := by
  unfold State.relCntClear
  repeat' first
    | with_reducible assumption
    | with_reducible apply State.clearAll_keeps

theorem execRelCntClear_keeps {s0 : State} (req : Requester) (s : State) (h0 : Keeps s0 s) :
    OutKeeps s0 (execRelCntClear req s) := by
  unfold execRelCntClear
  repeat' first
    | with_reducible assumption
    | with_reducible apply State.relCntClear_keeps
    | with_reducible apply State.write_keeps
    | with_reducible exact Keeps.mk' (by assumption) rfl rfl rfl
    | with_reducible apply OutKeeps.next

end Sys2Proof.Machine
end

