-- ==== Sys2Proof/Laws/KeepsSupply.lean ====
section
/-!
SUPPORT. Every function of Machine/Supply.lean keeps the queue and the canonical forms.
-/
namespace Sys2Proof.Machine
open Sys2Proof

theorem State.waferReset_keeps {s0 : State} (s : State) (x : Svc) (h0 : Keeps s0 s) : Keeps s0 (State.waferReset s x) :=
  ⟨h0.queue, fun _ => rfl, fun _ => rfl⟩

theorem State.stopRecord_keeps {s0 : State} (s : State) (cause : Nat) (h0 : Keeps s0 s) :
    Keeps s0 (State.stopRecord s cause) := by
  unfold State.stopRecord
  repeat' first
    | with_reducible assumption
    | with_reducible apply State.storeFlush_keeps
    | with_reducible apply State.storeCommit_keeps

theorem State.resetKeep_keeps {s0 : State} (s : State) (x : Svc) (phase : Nat) (h0 : Keeps s0 s) :
    Keeps s0 (State.resetKeep s x phase) := by
  unfold State.resetKeep
  repeat' first
    | with_reducible assumption
    | with_reducible apply State.waferReset_keeps
    | with_reducible apply State.storeReport_keeps
    | with_reducible apply State.put_keeps
    | with_reducible exact Keeps.mk' (by assumption) rfl rfl rfl
    | (intro x; refine Keeps.have_ (Q := Keeps s0 x) ?q ?h; (case' q => subst x); (case' h => (intro hx; clear_value x)))
    | split
    | lift_lets

theorem State.moduleReset_keeps {s0 : State} (s : State) (cause : Nat) (cold : Bool) (h0 : Keeps s0 s) :
    Keeps s0 (State.moduleReset s cause cold) := by
  unfold State.moduleReset
  repeat' first
    | with_reducible assumption
    | with_reducible apply State.resetKeep_keeps
    | with_reducible apply State.stopRecord_keeps

theorem State.powerOff_keeps {s0 : State} (s : State) (cause : Nat) (h0 : Keeps s0 s) :
    Keeps s0 (State.powerOff s cause) := by
  unfold State.powerOff
  repeat' first
    | with_reducible assumption
    | with_reducible apply State.resetKeep_keeps
    | with_reducible apply State.stopRecord_keeps

theorem State.cablePull_keeps {s0 : State} (s : State) (finishes : Bool) (h0 : Keeps s0 s) :
    Keeps s0 (State.cablePull s finishes) := by
  unfold State.cablePull
  repeat' first
    | with_reducible assumption
    | with_reducible apply State.waferReset_keeps
    | with_reducible apply State.storeFlush_keeps
    | with_reducible apply State.program_keeps
    | with_reducible apply State.put_keeps
    | with_reducible exact Keeps.mk' (by assumption) rfl rfl rfl
    | split

theorem execPowerCablePull_keeps {s0 : State} (finishes : Bool) (s : State) (h0 : Keeps s0 s) :
    OutKeeps s0 (execPowerCablePull finishes s) := by
  unfold execPowerCablePull
  repeat' first
    | with_reducible assumption
    | with_reducible apply State.cablePull_keeps
    | with_reducible exact Keeps.mk' (by assumption) rfl rfl rfl
    | with_reducible apply OutKeeps.next
    | with_reducible apply OutKeeps.fault
    | split

theorem execPowerOffSequence_keeps {s0 : State} (s : State) (h0 : Keeps s0 s) :
    OutKeeps s0 (execPowerOffSequence s) := by
  unfold execPowerOffSequence
  repeat' first
    | with_reducible assumption
    | with_reducible apply State.powerOff_keeps
    | with_reducible exact Keeps.mk' (by assumption) rfl rfl rfl
    | with_reducible apply OutKeeps.next
    | with_reducible apply OutKeeps.fault
    | split

theorem State.offDue_keeps {s0 : State} (s : State) (cause : Nat) (h0 : Keeps s0 s) :
    Keeps s0 (State.offDue s cause) := by
  unfold State.offDue
  repeat' first
    | with_reducible assumption
    | with_reducible exact Keeps.mk' (by assumption) rfl rfl rfl
    | split

theorem State.abortTest_keeps {s0 : State} (s : State) (pos : Nat) (h0 : Keeps s0 s) :
    Keeps s0 (State.abortTest s pos) := by
  unfold State.abortTest
  repeat' first
    | with_reducible assumption
    | with_reducible apply State.ptcReport_keeps
    | with_reducible apply State.put_keeps
    | with_reducible exact Keeps.mk' (by assumption) rfl rfl rfl
    | split

theorem State.posSagged_keeps {s0 : State} (s : State) (pos : Nat) (h0 : Keeps s0 s) :
    Keeps s0 (State.posSagged s pos) := by
  unfold State.posSagged
  repeat' first
    | with_reducible assumption
    | with_reducible apply State.abortTest_keeps
    | with_reducible apply State.moveEnds_keeps
    | with_reducible apply State.movesGo_keeps
    | with_reducible apply State.newPosFail_keeps
    | with_reducible apply State.replaceSlot_keeps
    | with_reducible apply State.testDue_keeps
    | with_reducible exact Keeps.mk' (by assumption) rfl rfl rfl
    | (intro x; refine Keeps.have_ (Q := Keeps s0 x) ?q ?h; (case' q => subst x); (case' h => (intro hx; clear_value x)))
    | (intro x; clear_value x)
    | split
    | (with_reducible refine Keeps.ofFst (by with_reducible assumption) ?_)
    | (with_reducible refine Keeps.ofOpt (by with_reducible assumption) ?_)
    | (with_reducible refine Keeps.ofSnd (by with_reducible assumption) ?_)
    | lift_lets

theorem State.regionSag_keeps {s0 : State} (s : State) (r : Nat) (h0 : Keeps s0 s) :
    Keeps s0 (State.regionSag s r) := by
  unfold State.regionSag
  repeat' first
    | with_reducible assumption
    | with_reducible apply State.posSagged_keeps
    | with_reducible apply State.paneOut_keeps
    | with_reducible apply State.regEnter_keeps
    | with_reducible apply State.evcFlow_keeps
    | with_reducible apply State.raiseMod_keeps
    | with_reducible apply State.bump_keeps
    | with_reducible apply State.put_keeps
    | with_reducible exact Keeps.mk' (by assumption) rfl rfl rfl
    | split

theorem execRegionSag_keeps {s0 : State} (r : RegionId) (s : State) (h0 : Keeps s0 s) :
    OutKeeps s0 (execRegionSag r s) := by
  unfold execRegionSag
  repeat' first
    | with_reducible assumption
    | with_reducible apply State.regionSag_keeps
    | with_reducible exact Keeps.mk' (by assumption) rfl rfl rfl
    | with_reducible apply OutKeeps.next

theorem State.contactFault_keeps {s0 : State} (s : State) (r : Nat) (step : Option Nat) (never : Bool) (h0 : Keeps s0 s) :
    Keeps s0 (State.contactFault s r step never) := by
  unfold State.contactFault
  repeat' first
    | with_reducible assumption
    | with_reducible apply State.testDue_keeps
    | with_reducible apply State.evcFlow_keeps
    | with_reducible apply State.raiseMod_keeps
    | with_reducible apply State.bump_keeps
    | with_reducible apply State.put_keeps
    | with_reducible exact Keeps.mk' (by assumption) rfl rfl rfl
    | split

theorem execContactFault_keeps {s0 : State} (r : RegionId) (step : Option (BitVec 16)) (never : Bool) (s : State) (h0 : Keeps s0 s) :
    OutKeeps s0 (execContactFault r step never s) := by
  unfold execContactFault
  repeat' first
    | with_reducible assumption
    | with_reducible apply State.contactFault_keeps
    | with_reducible exact Keeps.mk' (by assumption) rfl rfl rfl
    | with_reducible apply OutKeeps.next

theorem State.abortAll_keeps {s0 : State} (s : State) (h0 : Keeps s0 s) :
    Keeps s0 (State.abortAll s) := by
  unfold State.abortAll
  repeat' first
    | with_reducible assumption
    | with_reducible apply State.abortTest_keeps
    | with_reducible apply State.put_keeps
    | with_reducible exact Keeps.mk' (by assumption) rfl rfl rfl
    | (with_reducible refine Keeps.foldl (fun _ _ _ => ?_) _ ?_)
    | (with_reducible refine Keeps.foldlFst (fun _ _ _ => ?_) _ ?_)
    | (fail_if_no_progress extract_lets +onlyGivenNames x)
    | split
    | (fail_if_no_progress with_reducible apply Keeps.mkOf)

theorem State.thermTrip_keeps {s0 : State} (s : State) (r : Nat) (temp : Nat) (h0 : Keeps s0 s) :
    Keeps s0 (State.thermTrip s r temp) := by
  unfold State.thermTrip
  repeat' first
    | with_reducible assumption
    | with_reducible apply State.abortAll_keeps
    | with_reducible apply State.offDue_keeps
    | with_reducible apply State.thermReport_keeps
    | with_reducible apply State.paceReport_keeps
    | with_reducible apply State.evcFlow_keeps
    | with_reducible apply State.raiseMod_keeps
    | with_reducible apply State.put_keeps
    | with_reducible exact Keeps.mk' (by assumption) rfl rfl rfl
    | split

theorem execThermTrip_keeps {s0 : State} (r : RegionId) (temp : BitVec 16) (s : State) (h0 : Keeps s0 s) :
    OutKeeps s0 (execThermTrip r temp s) := by
  unfold execThermTrip
  repeat' first
    | with_reducible assumption
    | with_reducible apply State.thermTrip_keeps
    | with_reducible exact Keeps.mk' (by assumption) rfl rfl rfl
    | with_reducible apply OutKeeps.next

theorem State.inputCap_keeps {s0 : State} (s : State) (x : InputSample) (h0 : Keeps s0 s) :
    Keeps s0 (State.inputCap s x) := by
  unfold State.inputCap
  repeat' first
    | with_reducible assumption
    | with_reducible apply State.paceAll_keeps
    | with_reducible apply State.levelRaise_keeps
    | with_reducible apply State.put_keeps
    | with_reducible exact Keeps.mk' (by assumption) rfl rfl rfl
    | (fail_if_no_progress extract_lets +onlyGivenNames x)
    | split
    | (fail_if_no_progress with_reducible apply Keeps.mkOf)

theorem State.inputSample_keeps {s0 : State} (s : State) (x : InputSample) (h0 : Keeps s0 s) :
    Keeps s0 (State.inputSample s x) := by
  unfold State.inputSample
  repeat' first
    | with_reducible assumption
    | with_reducible apply State.inputCap_keeps
    | with_reducible apply State.offDue_keeps
    | with_reducible apply State.cablePull_keeps
    | with_reducible apply State.evcFlow_keeps
    | with_reducible apply State.svcRaise_keeps
    | with_reducible apply State.bump_keeps
    | with_reducible apply State.put_keeps
    | with_reducible exact Keeps.mk' (by assumption) rfl rfl rfl
    | split

theorem execInputSupervision_keeps {s0 : State} (x : InputSample) (s : State) (h0 : Keeps s0 s) :
    OutKeeps s0 (execInputSupervision x s) := by
  unfold execInputSupervision
  repeat' first
    | with_reducible assumption
    | with_reducible apply State.inputSample_keeps
    | with_reducible exact Keeps.mk' (by assumption) rfl rfl rfl
    | with_reducible apply OutKeeps.next

theorem State.coolRegs_keeps {s0 : State} (s : State) (x : CoolantSample) (h0 : Keeps s0 s) :
    Keeps s0 (State.coolRegs s x) := by
  unfold State.coolRegs
  repeat' first
    | with_reducible assumption
    | with_reducible apply State.wr_keeps

theorem State.coolEnter_keeps {s0 : State} (s : State) (kind : Nat) (h0 : Keeps s0 s) :
    Keeps s0 (State.coolEnter s kind) := by
  unfold State.coolEnter
  repeat' first
    | with_reducible assumption
    | with_reducible apply State.offDue_keeps
    | with_reducible apply State.svcRaise_keeps
    | with_reducible apply State.put_keeps
    | with_reducible exact Keeps.mk' (by assumption) rfl rfl rfl
    | split

theorem State.coolJudge_keeps {s0 : State} (s : State) (kind : Nat) (holds : Bool) (ms : Nat) (h0 : Keeps s0 s) :
    Keeps s0 (State.coolJudge s kind holds ms) := by
  unfold State.coolJudge
  repeat' first
    | with_reducible assumption
    | with_reducible apply State.coolEnter_keeps
    | with_reducible apply State.put_keeps
    | with_reducible exact Keeps.mk' (by assumption) rfl rfl rfl
    | (intro x; refine Keeps.have_ (Q := Keeps s0 x) ?q ?h; (case' q => subst x); (case' h => (intro hx; clear_value x)))
    | (intro x; clear_value x)
    | split
    | lift_lets

theorem State.coolFree_keeps {s0 : State} (s : State) (x : CoolantSample) (h0 : Keeps s0 s) :
    Keeps s0 (State.coolFree s x) := by
  unfold State.coolFree
  repeat' first
    | with_reducible assumption
    | with_reducible apply State.put_keeps
    | with_reducible exact Keeps.mk' (by assumption) rfl rfl rfl
    | (intro x; refine Keeps.have_ (Q := Keeps s0 x) ?q ?h; (case' q => subst x); (case' h => intro hx))
    | (intro x; skip)
    | split
    | lift_lets

theorem State.coolSample_keeps {s0 : State} (s : State) (x : CoolantSample) (h0 : Keeps s0 s) :
    Keeps s0 (State.coolSample s x) := by
  unfold State.coolSample
  repeat' first
    | with_reducible assumption
    | with_reducible apply State.coolFree_keeps
    | with_reducible apply State.coolJudge_keeps
    | with_reducible apply State.coolRegs_keeps
    | with_reducible apply State.paceAll_keeps
    | with_reducible apply State.evcFlow_keeps
    | with_reducible exact Keeps.mk' (by assumption) rfl rfl rfl
    | (with_reducible refine Keeps.foldl (fun _ _ _ => ?_) _ ?_)
    | (with_reducible refine Keeps.foldlFst (fun _ _ _ => ?_) _ ?_)
    | split

theorem execCoolantSupervision_keeps {s0 : State} (x : CoolantSample) (s : State) (h0 : Keeps s0 s) :
    OutKeeps s0 (execCoolantSupervision x s) := by
  unfold execCoolantSupervision
  repeat' first
    | with_reducible assumption
    | with_reducible apply State.coolSample_keeps
    | with_reducible exact Keeps.mk' (by assumption) rfl rfl rfl
    | with_reducible apply OutKeeps.next

theorem State.powerOn_keeps {s0 : State} (s : State) (x : CoolantSample) (pairs : Bool) (h0 : Keeps s0 s) :
    Keeps s0 (State.powerOn s x pairs) := by
  unfold State.powerOn
  repeat' first
    | with_reducible assumption
    | with_reducible apply State.coolRegs_keeps
    | with_reducible apply State.storeReport_keeps
    | with_reducible apply State.svcRaise_keeps
    | with_reducible apply State.put_keeps
    | with_reducible exact Keeps.mk' (by assumption) rfl rfl rfl
    | (extract_lets +onlyGivenNames x; refine Keeps.have_ (Q := Keeps s0 x) ?q ?h; (case' q => subst x); (case' h => intro hx))
    | (fail_if_no_progress extract_lets +onlyGivenNames x)
    | split
    | (fail_if_no_progress with_reducible apply Keeps.mkOf)

theorem execPowerOn_keeps {s0 : State} (x : CoolantSample) (pairs : Bool) (s : State) (h0 : Keeps s0 s) :
    OutKeeps s0 (execPowerOn x pairs s) := by
  unfold execPowerOn
  repeat' first
    | with_reducible assumption
    | with_reducible apply State.powerOn_keeps
    | with_reducible exact Keeps.mk' (by assumption) rfl rfl rfl
    | with_reducible apply OutKeeps.next

end Sys2Proof.Machine
end

