-- ==== Sys2Proof/Laws/KeepsManage.lean ====
section
/-!
SUPPORT. Every function of Machine/Manage.lean keeps the queue and the canonical forms.
-/
namespace Sys2Proof.Machine
open Sys2Proof

theorem State.mgmtAnswer_keeps {s0 : State} (s : State) (m : MgmtMsg) (own : Nat) (op : Nat) (a : MgmtAns) (h0 : Keeps s0 s) :
    Keeps s0 (State.mgmtAnswer s m own op a) := by
  unfold State.mgmtAnswer
  repeat' first
    | with_reducible assumption
    | with_reducible apply Cx.emit_keeps
    | with_reducible apply State.emit_keeps
    | with_reducible exact Keeps.mk' (by assumption) rfl rfl rfl
    | split

theorem State.opTelemetry_keeps {s0 : State} (s : State) (m : MgmtMsg) (h0 : Keeps s0 s) :
    Keeps s0 (State.opTelemetry s m).1 := by
  unfold State.opTelemetry
  repeat' first
    | with_reducible assumption

theorem State.opLogRead_keeps {s0 : State} (s : State) (m : MgmtMsg) (h0 : Keeps s0 s) :
    Keeps s0 (State.opLogRead s m).1 := by
  unfold State.opLogRead
  repeat' first
    | with_reducible assumption

theorem State.opPartReset_keeps {s0 : State} (s : State) (m : MgmtMsg) (h0 : Keeps s0 s) :
    Keeps s0 (State.opPartReset s m).1 := by
  unfold State.opPartReset
  repeat' first
    | with_reducible assumption
    | with_reducible apply State.moduleReset_keeps
    | with_reducible apply State.partReset_keeps
    | with_reducible apply State.write_keeps
    | with_reducible exact Keeps.mk' (by assumption) rfl rfl rfl
    | (intro x; skip)
    | split

theorem State.opModuleReset_keeps {s0 : State} (s : State) (m : MgmtMsg) (h0 : Keeps s0 s) :
    Keeps s0 (State.opModuleReset s m).1 := by
  unfold State.opModuleReset
  repeat' first
    | with_reducible assumption
    | with_reducible apply State.moduleReset_keeps

theorem State.opPowerOff_keeps {s0 : State} (s : State) (u1 : MgmtMsg) (h0 : Keeps s0 s) :
    Keeps s0 (State.opPowerOff s u1).1 := by
  unfold State.opPowerOff
  repeat' first
    | with_reducible assumption
    | with_reducible apply State.powerOff_keeps

theorem State.dump_keeps {s0 : State} (s : State) (pos : Nat) (h0 : Keeps s0 s) :
    Keeps s0 (State.dump s pos) := by
  unfold State.dump
  dsimp only
  repeat' first
    | with_reducible assumption
    | with_reducible apply State.evcFlow_keeps
    | with_reducible apply State.vblPump_keeps
    | with_reducible apply State.faultCtx_keeps
    | with_reducible exact Keeps.mk' (by assumption) rfl rfl rfl
    | (with_reducible refine Keeps.foldl (fun _ _ _ => ?_) _ ?_)
    | (with_reducible refine Keeps.foldlFst (fun _ _ _ => ?_) _ ?_)
    | split

theorem State.opDump_keeps {s0 : State} (s : State) (m : MgmtMsg) (h0 : Keeps s0 s) :
    Keeps s0 (State.opDump s m).1 := by
  unfold State.opDump
  repeat' first
    | with_reducible assumption
    | with_reducible apply State.dump_keeps
    | with_reducible exact Keeps.mk' (by assumption) rfl rfl rfl
    | (intro x; clear_value x)
    | split
    | lift_lets

theorem State.opStoreUpdate_keeps {s0 : State} (s : State) (m : MgmtMsg) (h0 : Keeps s0 s) :
    Keeps s0 (State.opStoreUpdate s m).1 := by
  unfold State.opStoreUpdate
  dsimp only
  repeat' first
    | with_reducible assumption
    | with_reducible apply State.storeWrite_keeps
    | with_reducible apply State.put_keeps
    | with_reducible exact Keeps.mk' (by assumption) rfl rfl rfl
    | split

theorem State.opStatus_keeps {s0 : State} (s : State) (u1 : MgmtMsg) (h0 : Keeps s0 s) :
    Keeps s0 (State.opStatus s u1).1 := by
  unfold State.opStatus
  repeat' first
    | with_reducible assumption

theorem State.druterRestart_keeps {s0 : State} (s : State) (cause : Nat) (h0 : Keeps s0 s) :
    Keeps s0 (State.druterRestart s cause) := by
  unfold State.druterRestart
  repeat' first
    | with_reducible assumption
    | with_reducible apply State.evcFlow_keeps
    | with_reducible apply State.bump_keeps
    | with_reducible apply State.put_keeps
    | with_reducible exact Keeps.mk' (by assumption) rfl rfl rfl
    | (fail_if_no_progress extract_lets +onlyGivenNames x)
    | split
    | (fail_if_no_progress with_reducible apply Keeps.mkOf)

theorem State.opDruterRestart_keeps {s0 : State} (s : State) (u1 : MgmtMsg) (h0 : Keeps s0 s) :
    Keeps s0 (State.opDruterRestart s u1).1 := by
  unfold State.opDruterRestart
  repeat' first
    | with_reducible assumption
    | with_reducible apply State.druterRestart_keeps
    | with_reducible exact Keeps.mk' (by assumption) rfl rfl rfl
    | split

theorem State.opAssign_keeps {s0 : State} (s : State) (m : MgmtMsg) (h0 : Keeps s0 s) :
    Keeps s0 (State.opAssign s m).1 := by
  unfold State.opAssign
  repeat' first
    | with_reducible assumption
    | with_reducible apply State.moduleReset_keeps
    | with_reducible apply State.put_keeps
    | with_reducible apply State.wr_keeps
    | with_reducible exact Keeps.mk' (by assumption) rfl rfl rfl
    | split

theorem State.mgmtOp_keeps {s0 : State} (s : State) (op : Nat) (m : MgmtMsg) (f : State → MgmtMsg → State × MgmtAns) (h0 : Keeps s0 s) (h1 : ∀ a0 a1, Keeps s0 a0 → Keeps s0 (f a0 a1).1) :
    Keeps s0 (State.mgmtOp s op m f) := by
  unfold State.mgmtOp
  repeat' first
    | with_reducible assumption
    | with_reducible apply State.mgmtAnswer_keeps
    | with_reducible apply State.bump_keeps
    | with_reducible exact Keeps.mk' (by assumption) rfl rfl rfl
    | split
    | (with_reducible refine Keeps.ofFst (by with_reducible assumption) ?_)
    | (with_reducible refine Keeps.ofOpt (by with_reducible assumption) ?_)
    | (with_reducible refine Keeps.ofSnd (by with_reducible assumption) ?_)
    | lift_lets
    | with_reducible apply_assumption

theorem State.mgmtBad_keeps {s0 : State} (s : State) (op : Nat) (m : MgmtMsg) (h0 : Keeps s0 s) :
    Keeps s0 (State.mgmtBad s op m) := by
  unfold State.mgmtBad
  repeat' first
    | with_reducible assumption
    | with_reducible apply State.mgmtAnswer_keeps
    | with_reducible apply State.bump_keeps
    | with_reducible exact Keeps.mk' (by assumption) rfl rfl rfl
    | split

theorem State.mgmtRun_keeps {s0 : State} (s : State) (op : Nat) (m : MgmtMsg) (h0 : Keeps s0 s) :
    Keeps s0 (State.mgmtRun s op m) := by
  unfold State.mgmtRun
  repeat' first
    | with_reducible assumption
    | with_reducible apply State.mgmtBad_keeps
    | with_reducible apply State.mgmtOp_keeps
    | with_reducible apply State.opAssign_keeps
    | with_reducible apply State.opDruterRestart_keeps
    | with_reducible apply State.opStatus_keeps
    | with_reducible apply State.opStoreUpdate_keeps
    | with_reducible apply State.opDump_keeps
    | with_reducible apply State.opPowerOff_keeps
    | with_reducible apply State.opModuleReset_keeps
    | with_reducible apply State.opPartReset_keeps
    | with_reducible apply State.opLogRead_keeps
    | with_reducible apply State.opTelemetry_keeps
    | with_reducible exact Keeps.mk' (by assumption) rfl rfl rfl
    | split

theorem execTelemetry_keeps {s0 : State} (m : MgmtMsg) (s : State) (h0 : Keeps s0 s) :
    OutKeeps s0 (execTelemetry m s) := by
  unfold execTelemetry
  repeat' first
    | with_reducible assumption
    | with_reducible apply State.mgmtRun_keeps
    | with_reducible exact Keeps.mk' (by assumption) rfl rfl rfl
    | with_reducible apply OutKeeps.next

theorem execLogRead_keeps {s0 : State} (m : MgmtMsg) (s : State) (h0 : Keeps s0 s) :
    OutKeeps s0 (execLogRead m s) := by
  unfold execLogRead
  repeat' first
    | with_reducible assumption
    | with_reducible apply State.mgmtRun_keeps
    | with_reducible exact Keeps.mk' (by assumption) rfl rfl rfl
    | with_reducible apply OutKeeps.next

theorem execPartReset_keeps {s0 : State} (m : MgmtMsg) (s : State) (h0 : Keeps s0 s) :
    OutKeeps s0 (execPartReset m s) := by
  unfold execPartReset
  repeat' first
    | with_reducible assumption
    | with_reducible apply State.mgmtRun_keeps
    | with_reducible exact Keeps.mk' (by assumption) rfl rfl rfl
    | with_reducible apply OutKeeps.next

theorem execModuleReset_keeps {s0 : State} (m : MgmtMsg) (s : State) (h0 : Keeps s0 s) :
    OutKeeps s0 (execModuleReset m s) := by
  unfold execModuleReset
  repeat' first
    | with_reducible assumption
    | with_reducible apply State.mgmtRun_keeps
    | with_reducible exact Keeps.mk' (by assumption) rfl rfl rfl
    | with_reducible apply OutKeeps.next

theorem execPowerOff_keeps {s0 : State} (m : MgmtMsg) (s : State) (h0 : Keeps s0 s) :
    OutKeeps s0 (execPowerOff m s) := by
  unfold execPowerOff
  repeat' first
    | with_reducible assumption
    | with_reducible apply State.mgmtRun_keeps
    | with_reducible exact Keeps.mk' (by assumption) rfl rfl rfl
    | with_reducible apply OutKeeps.next

theorem execDump_keeps {s0 : State} (m : MgmtMsg) (s : State) (h0 : Keeps s0 s) :
    OutKeeps s0 (execDump m s) := by
  unfold execDump
  repeat' first
    | with_reducible assumption
    | with_reducible apply State.mgmtRun_keeps
    | with_reducible exact Keeps.mk' (by assumption) rfl rfl rfl
    | with_reducible apply OutKeeps.next

theorem execStoreUpdate_keeps {s0 : State} (m : MgmtMsg) (s : State) (h0 : Keeps s0 s) :
    OutKeeps s0 (execStoreUpdate m s) := by
  unfold execStoreUpdate
  repeat' first
    | with_reducible assumption
    | with_reducible apply State.mgmtRun_keeps
    | with_reducible exact Keeps.mk' (by assumption) rfl rfl rfl
    | with_reducible apply OutKeeps.next

theorem execStatus_keeps {s0 : State} (m : MgmtMsg) (s : State) (h0 : Keeps s0 s) :
    OutKeeps s0 (execStatus m s) := by
  unfold execStatus
  repeat' first
    | with_reducible assumption
    | with_reducible apply State.mgmtRun_keeps
    | with_reducible exact Keeps.mk' (by assumption) rfl rfl rfl
    | with_reducible apply OutKeeps.next

theorem execDruterRestart_keeps {s0 : State} (m : MgmtMsg) (s : State) (h0 : Keeps s0 s) :
    OutKeeps s0 (execDruterRestart m s) := by
  unfold execDruterRestart
  repeat' first
    | with_reducible assumption
    | with_reducible apply State.mgmtRun_keeps
    | with_reducible exact Keeps.mk' (by assumption) rfl rfl rfl
    | with_reducible apply OutKeeps.next

theorem execAssign_keeps {s0 : State} (m : MgmtMsg) (s : State) (h0 : Keeps s0 s) :
    OutKeeps s0 (execAssign m s) := by
  unfold execAssign
  repeat' first
    | with_reducible assumption
    | with_reducible apply State.mgmtRun_keeps
    | with_reducible exact Keeps.mk' (by assumption) rfl rfl rfl
    | with_reducible apply OutKeeps.next

theorem execMgmtBadRequest_keeps {s0 : State} (op : Byte) (m : MgmtMsg) (s : State) (h0 : Keeps s0 s) :
    OutKeeps s0 (execMgmtBadRequest op m s) := by
  unfold execMgmtBadRequest
  repeat' first
    | with_reducible assumption
    | with_reducible apply State.mgmtBad_keeps
    | with_reducible exact Keeps.mk' (by assumption) rfl rfl rfl
    | with_reducible apply OutKeeps.next

theorem State.regionSample_keeps {s0 : State} (s : State) (x : RegionSample) (h0 : Keeps s0 s) :
    Keeps s0 (State.regionSample s x) := by
  unfold State.regionSample
  repeat' first
    | with_reducible assumption
    | with_reducible apply State.paceReport_keeps
    | with_reducible apply State.put_keeps
    | with_reducible apply State.wr_keeps
    | with_reducible exact Keeps.mk' (by assumption) rfl rfl rfl
    | (fail_if_no_progress extract_lets +onlyGivenNames x)
    | split
    | (fail_if_no_progress with_reducible apply Keeps.mkOf)

theorem State.servePass_keeps {s0 : State} (s : State) (pos : Nat) (h0 : Keeps s0 s) :
    Keeps s0 (State.servePass s pos) := by
  unfold State.servePass
  dsimp only
  repeat' first
    | with_reducible assumption
    | with_reducible apply State.transReport_keeps
    | with_reducible apply State.setPosition_keeps
    | with_reducible apply State.bump_keeps
    | with_reducible exact Keeps.mk' (by assumption) rfl rfl rfl
    | split

theorem State.tickCheck_keeps {s0 : State} (s : State) (readable : Bool) (h0 : Keeps s0 s) :
    Keeps s0 (State.tickCheck s readable) := by
  unfold State.tickCheck
  repeat' first
    | with_reducible assumption
    | with_reducible apply State.moduleReset_keeps
    | with_reducible exact Keeps.mk' (by assumption) rfl rfl rfl
    | (intro x; refine Keeps.have_ (Q := Keeps s0 x) ?q ?h; (case' q => subst x); (case' h => intro hx))
    | (intro x; skip)
    | split
    | lift_lets

theorem State.druterUp_keeps {s0 : State} (s : State) (h0 : Keeps s0 s) :
    Keeps s0 (State.druterUp s) := by
  unfold State.druterUp
  repeat' first
    | with_reducible assumption
    | with_reducible apply State.evcFlow_keeps
    | with_reducible apply State.svcRaise_keeps
    | with_reducible apply State.put_keeps
    | with_reducible exact Keeps.mk' (by assumption) rfl rfl rfl
    | (extract_lets +onlyGivenNames x; refine Keeps.have_ (Q := Keeps s0 x) ?q ?h; (case' q => subst x); (case' h => intro hx))
    | (fail_if_no_progress extract_lets +onlyGivenNames x)
    | split

theorem State.telemetryPass_keeps {s0 : State} (s : State) (x : Telemetry) (h0 : Keeps s0 s) :
    Keeps s0 (State.telemetryPass s x) := by
  unfold State.telemetryPass
  extract_lets src s1 s2 s3 s4 src2 s6 s5
  have h1 : Keeps s0 s1 := Keeps.mkOf h0
  have h2 : Keeps s0 s2 := State.thermReport_keeps _ (Keeps.foldl (fun _ _ ht => State.regionSample_keeps _ _ ht) _ h1)
  have h3 : Keeps s0 s3 := Keeps.foldl (fun _ _ ht => State.servePass_keeps _ _ ht) _ h2
  have h4 : Keeps s0 s4 := by
    subst s4
    split
    · exact State.repairWrite_keeps _ h3
    · exact h3
  split
  · exact h0
  split
  · exact h1
  · refine State.evcFlow_keeps _ (State.tickCheck_keeps _ _ ?_)
    subst s5
    split
    · have h6 : Keeps s0 s6 := by
        subst s6
        split
        · exact h4
        · exact Keeps.mkOf h4
      split
      · exact State.druterUp_keeps _ h6
      · exact h6
    · exact h4

theorem execTelemetryPass_keeps {s0 : State} (x : Telemetry) (s : State) (h0 : Keeps s0 s) :
    OutKeeps s0 (execTelemetryPass x s) := by
  unfold execTelemetryPass
  repeat' first
    | with_reducible assumption
    | with_reducible apply State.telemetryPass_keeps
    | with_reducible exact Keeps.mk' (by assumption) rfl rfl rfl
    | with_reducible apply OutKeeps.next

theorem State.beatWrite_keeps {s0 : State} (s : State) (v : Nat) (h0 : Keeps s0 s) :
    Keeps s0 (State.beatWrite s v) := by
  unfold State.beatWrite
  repeat' first
    | with_reducible assumption
    | with_reducible apply State.put_keeps
    | with_reducible exact Keeps.mk' (by assumption) rfl rfl rfl
    | split

theorem execSvcBeatWrite_keeps {s0 : State} (req : Requester) (v : BitVec 32) (s : State) (h0 : Keeps s0 s) :
    OutKeeps s0 (execSvcBeatWrite req v s) := by
  unfold execSvcBeatWrite
  repeat' first
    | with_reducible assumption
    | with_reducible apply State.beatWrite_keeps
    | with_reducible apply State.write_keeps
    | with_reducible exact Keeps.mk' (by assumption) rfl rfl rfl
    | with_reducible apply OutKeeps.next
    | with_reducible apply OutKeeps.fault
    | split
    | with_reducible apply_assumption
    | intro _

theorem State.watchdog_keeps {s0 : State} (s : State) (h0 : Keeps s0 s) :
    Keeps s0 (State.watchdog s) := by
  unfold State.watchdog
  repeat' first
    | with_reducible assumption
    | with_reducible apply State.druterRestart_keeps
    | with_reducible apply State.evcFlow_keeps
    | with_reducible apply State.put_keeps
    | with_reducible exact Keeps.mk' (by assumption) rfl rfl rfl
    | split

theorem execDruterWatchdog_keeps {s0 : State} (s : State) (h0 : Keeps s0 s) :
    OutKeeps s0 (execDruterWatchdog s) := by
  unfold execDruterWatchdog
  repeat' first
    | with_reducible assumption
    | with_reducible apply State.watchdog_keeps
    | with_reducible exact Keeps.mk' (by assumption) rfl rfl rfl
    | with_reducible apply OutKeeps.next

theorem State.enumDown_keeps {s0 : State} (s : State) (h0 : Keeps s0 s) :
    Keeps s0 (State.enumDown s) := by
  unfold State.enumDown
  repeat' first
    | with_reducible assumption
    | with_reducible apply Cx.emit_keeps
    | with_reducible apply State.emit_keeps

theorem State.keepAddr_keeps {s0 : State} (s : State) (a : Nat) (h0 : Keeps s0 s) :
    Keeps s0 (State.keepAddr s a) := by
  unfold State.keepAddr
  repeat' first
    | with_reducible assumption
    | with_reducible apply State.storeWrite_keeps

theorem State.sillEnumIn_keeps {s0 : State} (s : State) (v : Nat) (h0 : Keeps s0 s) :
    Keeps s0 (State.sillEnumIn s v) := by
  unfold State.sillEnumIn
  dsimp only
  repeat' first
    | with_reducible assumption
    | with_reducible apply State.keepAddr_keeps
    | with_reducible apply State.enumDown_keeps
    | with_reducible apply State.evcFlow_keeps
    | with_reducible apply State.svcRaise_keeps
    | with_reducible apply Cx.emit_keeps
    | with_reducible apply State.emit_keeps
    | with_reducible apply State.put_keeps
    | with_reducible exact Keeps.mk' (by assumption) rfl rfl rfl
    | split

theorem execSillEnum_keeps {s0 : State} (v : Byte) (s : State) (h0 : Keeps s0 s) :
    OutKeeps s0 (execSillEnum v s) := by
  unfold execSillEnum
  repeat' first
    | with_reducible assumption
    | with_reducible apply State.sillEnumIn_keeps
    | with_reducible exact Keeps.mk' (by assumption) rfl rfl rfl
    | with_reducible apply OutKeeps.next

theorem execSillLinkChange_keeps {s0 : State} (s : State) (h0 : Keeps s0 s) :
    OutKeeps s0 (execSillLinkChange s) := by
  unfold execSillLinkChange
  repeat' first
    | with_reducible assumption
    | with_reducible apply State.enumDown_keeps
    | with_reducible exact Keeps.mk' (by assumption) rfl rfl rfl
    | with_reducible apply OutKeeps.next
    | with_reducible apply OutKeeps.fault
    | split

theorem State.sillIn_keeps {s0 : State} (s : State) (fromUp : Bool) (b : List Byte) (wedged : Bool) (h0 : Keeps s0 s) :
    Keeps s0 (State.sillIn s fromUp b wedged) := by
  unfold State.sillIn
  repeat' first
    | with_reducible assumption
    | with_reducible apply State.sillEnumIn_keeps
    | with_reducible apply State.mgmtRun_keeps
    | with_reducible apply Cx.emit_keeps
    | with_reducible apply State.emit_keeps
    | with_reducible exact Keeps.mk' (by assumption) rfl rfl rfl
    | (intro x; clear_value x)
    | split
    | (with_reducible refine Keeps.ofFst (by with_reducible assumption) ?_)
    | (with_reducible refine Keeps.ofOpt (by with_reducible assumption) ?_)
    | (with_reducible refine Keeps.ofSnd (by with_reducible assumption) ?_)
    | lift_lets

theorem execSillFrameForward_keeps {s0 : State} (fromUp : Bool) (frame : List Byte) (wedged : Bool) (s : State) (h0 : Keeps s0 s) :
    OutKeeps s0 (execSillFrameForward fromUp frame wedged s) := by
  unfold execSillFrameForward
  repeat' first
    | with_reducible assumption
    | with_reducible apply State.sillIn_keeps
    | with_reducible exact Keeps.mk' (by assumption) rfl rfl rfl
    | with_reducible apply OutKeeps.next

theorem State.beat_keeps {s0 : State} (s : State) (h0 : Keeps s0 s) :
    Keeps s0 (State.beat s) := by
  unfold State.beat
  repeat' first
    | with_reducible assumption
    | with_reducible apply Cx.emit_keeps
    | with_reducible apply State.emit_keeps
    | with_reducible exact Keeps.mk' (by assumption) rfl rfl rfl
    | (intro x; refine Keeps.have_ (Q := Keeps s0 x) ?q ?h; (case' q => subst x); (case' h => (intro hx; clear_value x)))
    | (intro x; clear_value x)
    | split
    | lift_lets

theorem execBeat_keeps {s0 : State} (s : State) (h0 : Keeps s0 s) :
    OutKeeps s0 (execBeat s) := by
  unfold execBeat
  repeat' first
    | with_reducible assumption
    | with_reducible apply State.beat_keeps
    | with_reducible exact Keeps.mk' (by assumption) rfl rfl rfl
    | with_reducible apply OutKeeps.next

theorem State.testEnWrite_keeps {s0 : State} (s : State) (active : Bool) (h0 : Keeps s0 s) :
    Keeps s0 (State.testEnWrite s active) := by
  unfold State.testEnWrite
  repeat' first
    | with_reducible assumption
    | with_reducible apply State.relPump_keeps
    | with_reducible apply State.ptcReport_keeps
    | with_reducible exact Keeps.mk' (by assumption) rfl rfl rfl
    | (with_reducible refine Keeps.foldl (fun _ _ _ => ?_) _ ?_)
    | (with_reducible refine Keeps.foldlFst (fun _ _ _ => ?_) _ ?_)
    | split

theorem execTestEnChange_keeps {s0 : State} (active : Bool) (s : State) (h0 : Keeps s0 s) :
    OutKeeps s0 (execTestEnChange active s) := by
  unfold execTestEnChange
  repeat' first
    | with_reducible assumption
    | with_reducible apply State.testEnWrite_keeps
    | with_reducible exact Keeps.mk' (by assumption) rfl rfl rfl
    | with_reducible apply OutKeeps.next

end Sys2Proof.Machine
end

