-- ==== Sys2Proof/Laws/KeepsBringup.lean ====
section
/-!
SUPPORT. Every function of Machine/Bringup.lean keeps the queue and the canonical forms.
-/
namespace Sys2Proof.Machine
open Sys2Proof

theorem State.joinStops_keeps {s0 : State} (s : State) (joined : List Nat) (h0 : Keeps s0 s) :
    Keeps s0 (State.joinStops s joined) := by
  unfold State.joinStops
  repeat' first
    | with_reducible assumption
    | with_reducible apply State.put_keeps
    | with_reducible exact Keeps.mk' (by assumption) rfl rfl rfl
    | (with_reducible refine Keeps.foldl (fun _ _ _ => ?_) _ ?_)
    | (with_reducible refine Keeps.foldlFst (fun _ _ _ => ?_) _ ?_)
    | split

theorem State.restoreRegion_keeps {s0 : State} (s : State) (r : Nat) (trim : Nat) (baseline : Nat) (capped : Bool) (sagged : Bool) (h0 : Keeps s0 s) :
    Keeps s0 (State.restoreRegion s r trim baseline capped sagged) := by
  unfold State.restoreRegion
  repeat' first
    | with_reducible assumption
    | with_reducible apply State.put_keeps
    | with_reducible exact Keeps.mk' (by assumption) rfl rfl rfl
    | split

theorem State.restorePos_keeps {s0 : State} (s : State) (n : Nat) (k : Nat) (e : List Byte) (h0 : Keeps s0 s) :
    Keeps s0 (State.restorePos s n k e) := by
  unfold State.restorePos
  repeat' first
    | with_reducible assumption
    | with_reducible apply State.restoreRegion_keeps
    | with_reducible apply State.setPosition_keeps
    | with_reducible apply State.put_keeps

theorem State.restorePanes_keeps {s0 : State} (s : State) (h0 : Keeps s0 s) :
    Keeps s0 (State.restorePanes s) := by
  unfold State.restorePanes
  repeat' first
    | with_reducible assumption
    | with_reducible apply State.restorePos_keeps
    | with_reducible apply State.restoreRegion_keeps
    | with_reducible apply State.put_keeps
    | with_reducible exact Keeps.mk' (by assumption) rfl rfl rfl
    | (with_reducible refine Keeps.foldl (fun _ _ _ => ?_) _ ?_)
    | (with_reducible refine Keeps.foldlFst (fun _ _ _ => ?_) _ ?_)
    | split

theorem State.coldScan_keeps {s0 : State} (s : State) (pos : Nat) (x : ScanResult) (h0 : Keeps s0 s) :
    Keeps s0 (State.coldScan s pos x) := by
  unfold State.coldScan
  dsimp only
  repeat' first
    | with_reducible assumption
    | with_reducible apply State.setPosition_keeps
    | with_reducible apply State.put_keeps
    | with_reducible exact Keeps.mk' (by assumption) rfl rfl rfl
    | split

theorem State.testPositions_keeps {s0 : State} (s : State) (joined : List Nat) (warm : Bool) (plan : BringPlan) (h0 : Keeps s0 s) :
    Keeps s0 (State.testPositions s joined warm plan) := by
  unfold State.testPositions
  repeat' first
    | with_reducible assumption
    | with_reducible apply State.coldScan_keeps
    | with_reducible apply State.put_keeps
    | with_reducible exact Keeps.mk' (by assumption) rfl rfl rfl
    | (with_reducible refine Keeps.foldl (fun _ _ _ => ?_) _ ?_)
    | (with_reducible refine Keeps.foldlFst (fun _ _ _ => ?_) _ ?_)
    | split

theorem State.applyMap_keeps {s0 : State} (s : State) (plan : BringPlan) (n : Nat) (h0 : Keeps s0 s) :
    Keeps s0 (State.applyMap s plan n) := by
  unfold State.applyMap
  repeat' first
    | with_reducible assumption
    | with_reducible apply State.regOnNow_keeps
    | with_reducible apply State.put_keeps
    | with_reducible apply State.wr_keeps
    | with_reducible exact Keeps.mk' (by assumption) rfl rfl rfl
    | (with_reducible refine Keeps.foldl (fun _ _ _ => ?_) _ ?_)
    | (with_reducible refine Keeps.foldlFst (fun _ _ _ => ?_) _ ?_)
    | split

theorem State.svcEvent_keeps {s0 : State} (s : State) (code : Nat) (sev : Nat) (w2 : Nat) (w3 : Nat) (h0 : Keeps s0 s) :
    Keeps s0 (State.svcEvent s code sev w2 w3) := by
  unfold State.svcEvent
  repeat' first
    | with_reducible assumption
    | with_reducible apply State.eventReport_keeps
    | with_reducible apply State.svcRaise_keeps

theorem State.elect_keeps {s0 : State} (s : State) (joined : List Nat) (h0 : Keeps s0 s) :
    OptKeeps s0 (State.elect s joined) := by
  unfold State.elect
  repeat' first
    | with_reducible assumption
    | with_reducible apply State.svcEvent_keeps
    | with_reducible apply State.wr_keeps
    | with_reducible exact Keeps.mk' (by assumption) rfl rfl rfl
    | with_reducible apply OptKeeps.some
    | with_reducible apply OptKeeps.none
    | (with_reducible refine Keeps.foldl (fun _ _ _ => ?_) _ ?_)
    | (with_reducible refine Keeps.foldlFst (fun _ _ _ => ?_) _ ?_)
    | (intro x; clear_value x)
    | split
    | lift_lets

theorem State.raiseBoot_keeps {s0 : State} (s : State) (h0 : Keeps s0 s) :
    Keeps s0 (State.raiseBoot s).1 := by
  unfold State.raiseBoot
  repeat' first
    | with_reducible assumption
    | with_reducible apply State.storeCommit_keeps

theorem State.bringPanes_keeps {s0 : State} (s : State) (warm : Bool) (plan : BringPlan) (h0 : Keeps s0 s) :
    Keeps s0 (State.bringPanes s warm plan).1 := by
  unfold State.bringPanes
  repeat' first
    | with_reducible assumption
    | with_reducible apply State.testPositions_keeps
    | with_reducible apply State.restorePanes_keeps
    | with_reducible apply State.joinStops_keeps
    | with_reducible apply State.put_keeps

theorem State.writeRoutes_keeps {s0 : State} (s : State) (routes : List (CoreId × Fin 64 × BitVec 32)) (h0 : Keeps s0 s) :
    Keeps s0 (State.writeRoutes s routes) := by
  unfold State.writeRoutes
  repeat' first
    | with_reducible assumption
    | with_reducible apply State.wr_keeps
    | with_reducible exact Keeps.mk' (by assumption) rfl rfl rfl
    | (with_reducible refine Keeps.foldl (fun _ _ _ => ?_) _ ?_)

theorem State.bringReady_keeps {s0 : State} (s : State) (warm : Bool) (joined : List Nat) (plan : BringPlan) (h0 : Keeps s0 s) :
    Keeps s0 (State.bringReady s warm joined plan) := by
  unfold State.bringReady
  repeat' first
    | with_reducible assumption
    | with_reducible apply State.applyMap_keeps
    | with_reducible apply State.beat_keeps
    | with_reducible apply State.evcFlow_keeps
    | with_reducible apply State.put_keeps
    | with_reducible apply State.storeCommit_keeps
    | with_reducible apply State.storeReport_keeps
    | with_reducible apply State.svcRaise_keeps
    | with_reducible apply State.writeRoutes_keeps
    | with_reducible exact Keeps.mk' (by assumption) rfl rfl rfl
    | (with_reducible refine Keeps.foldl (fun _ _ _ => ?_) _ ?_)
    | (with_reducible refine Keeps.foldlFst (fun _ _ _ => ?_) _ ?_)
    | (fail_if_no_progress extract_lets +onlyGivenNames x)
    | split
    | intro _
    | (fail_if_no_progress with_reducible apply Keeps.mkOf)

theorem State.bringUp_keeps {s0 : State} (s : State) (plan : BringPlan) (h0 : Keeps s0 s) :
    Keeps s0 (State.bringUp s plan) := by
  have hr : Keeps s0 s.raiseBoot.1 := State.raiseBoot_keeps _ h0
  unfold State.bringUp
  split
  · exact h0
  extract_lets warm stopped
  split
  next s1 ok wrapped e =>
  have h1 : Keeps s0 s1 := Keeps.ofFst e hr
  split
  · exact State.put_keeps _ _ _ h1
  extract_lets s2 s3
  have h2 : Keeps s0 s2 := State.loadKeys_keeps _ (Keeps.mkOf h1)
  have h3 : Keeps s0 s3 := by
    subst s3
    split
    · exact State.svcEvent_keeps _ _ _ _ _ h2
    · exact h2
  have hb : Keeps s0 (s3.bringPanes warm plan).1 := State.bringPanes_keeps _ _ _ h3
  split
  next s4 joined e4 =>
  have h4 : Keeps s0 s4 := Keeps.ofFst e4 hb
  split
  · exact State.put_keeps _ _ _ h4
  · next s5 e5 => exact State.bringReady_keeps _ _ _ _ (Keeps.ofOpt e5 (State.elect_keeps _ _ h4))

theorem execBringUp_keeps {s0 : State} (plan : BringPlan) (s : State) (h0 : Keeps s0 s) :
    OutKeeps s0 (execBringUp plan s) := by
  unfold execBringUp
  repeat' first
    | with_reducible assumption
    | with_reducible apply State.bringUp_keeps
    | with_reducible exact Keeps.mk' (by assumption) rfl rfl rfl
    | with_reducible apply OutKeeps.next

theorem State.holdExpiry_keeps {s0 : State} (s : State) (h0 : Keeps s0 s) :
    Keeps s0 (State.holdExpiry s) := by
  unfold State.holdExpiry
  repeat' first
    | with_reducible assumption
    | with_reducible apply State.portEnter_keeps
    | with_reducible apply State.modPort_keeps
    | with_reducible exact Keeps.mk' (by assumption) rfl rfl rfl
    | (with_reducible refine Keeps.foldl (fun _ _ _ => ?_) _ ?_)
    | (with_reducible refine Keeps.foldlFst (fun _ _ _ => ?_) _ ?_)
    | split

theorem execBootWrapHoldExpiry_keeps {s0 : State} (s : State) (h0 : Keeps s0 s) :
    OutKeeps s0 (execBootWrapHoldExpiry s) := by
  unfold execBootWrapHoldExpiry
  repeat' first
    | with_reducible assumption
    | with_reducible apply State.clocked_keeps
    | with_reducible apply State.holdExpiry_keeps
    | with_reducible exact Keeps.mk' (by assumption) rfl rfl rfl
    | with_reducible apply OutKeeps.next

theorem State.bootCommit_keeps {s0 : State} (s : State) (h0 : Keeps s0 s) :
    Keeps s0 (State.bootCommit s) := by
  unfold State.bootCommit
  repeat' first
    | with_reducible assumption
    | with_reducible apply State.moduleReset_keeps
    | with_reducible apply State.applyRises_keeps
    | with_reducible apply State.storeCommit_keeps
    | with_reducible apply State.evcFlow_keeps
    | with_reducible apply State.put_keeps
    | with_reducible exact Keeps.mk' (by assumption) rfl rfl rfl
    | split
    | (with_reducible refine Keeps.ofFst (by with_reducible assumption) ?_)

theorem execBootCommitDone_keeps {s0 : State} (s : State) (h0 : Keeps s0 s) :
    OutKeeps s0 (execBootCommitDone s) := by
  unfold execBootCommitDone
  repeat' first
    | with_reducible assumption
    | with_reducible apply State.bootCommit_keeps
    | with_reducible exact Keeps.mk' (by assumption) rfl rfl rfl
    | with_reducible apply OutKeeps.next

end Sys2Proof.Machine
end

