-- ==== Sys2Proof/Laws/KeepsFetch.lean ====
section
/-!
SUPPORT. Every function of Machine/Fetch.lean keeps the queue and the canonical forms.
-/
namespace Sys2Proof.Machine
open Sys2Proof

theorem State.strSetup_keeps {s0 : State} (s : State) (req : Requester) (k : Nat) (v : Nat) (h0 : Keeps s0 s) :
    Keeps s0 (State.strSetup s req k v) := by
  unfold State.strSetup
  dsimp only
  repeat' first
    | with_reducible assumption
    | with_reducible apply State.faultCtx_keeps
    | with_reducible apply State.modEp_keeps
    | with_reducible apply State.raiseCtx_keeps
    | with_reducible apply State.strEnable_keeps
    | with_reducible exact Keeps.mk' (by assumption) rfl rfl rfl
    | split

theorem execStrCfgEnable_keeps {s0 : State} (req : Requester) (core : CoreId) (ep : EpId) (c : CtxId) (v : BitVec 26) (s : State) (h0 : Keeps s0 s) :
    OutKeeps s0 (execStrCfgEnable req core ep c v s) := by
  unfold execStrCfgEnable
  repeat' first
    | with_reducible assumption
    | with_reducible apply State.strSetup_keeps
    | with_reducible apply State.write_keeps
    | with_reducible exact Keeps.mk' (by assumption) rfl rfl rfl
    | with_reducible apply OutKeeps.next
    | with_reducible apply OutKeeps.fault
    | intro _

theorem State.sendFetched_keeps {s0 : State} (s : State) (k : Nat) (a : Nat) (bs : List Byte) (pz : List Nat) (h0 : Keeps s0 s) :
    Keeps s0 (State.sendFetched s k a bs pz) := by
  unfold State.sendFetched
  repeat' first
    | with_reducible assumption
    | with_reducible apply State.modEp_keeps
    | with_reducible apply State.netUnreach_keeps
    | with_reducible apply State.putGroups_keeps
    | with_reducible apply State.streamLost_keeps
    | with_reducible exact Keeps.mk' (by assumption) rfl rfl rfl
    | (intro x; clear_value x)
    | split
    | (with_reducible refine Keeps.ofFst (by with_reducible assumption) ?_)
    | (with_reducible refine Keeps.ofOpt (by with_reducible assumption) ?_)
    | (with_reducible refine Keeps.ofSnd (by with_reducible assumption) ?_)
    | lift_lets

theorem State.askChunk_keeps {s0 : State} (s : State) (c : Nat) (k : Nat) (i : Nat) (h0 : Keeps s0 s) :
    Keeps s0 (State.askChunk s c k i) := by
  unfold State.askChunk
  repeat' first
    | with_reducible assumption
    | with_reducible apply State.askStream_keeps
    | with_reducible apply State.setLvr_keeps
    | with_reducible exact Keeps.mk' (by assumption) rfl rfl rfl
    | (intro x; clear_value x)
    | split
    | (with_reducible refine Keeps.ofFst (by with_reducible assumption) ?_)
    | (with_reducible refine Keeps.ofOpt (by with_reducible assumption) ?_)
    | (with_reducible refine Keeps.ofSnd (by with_reducible assumption) ?_)
    | lift_lets

theorem State.fetchStreamed_keeps {s0 : State} (s : State) (c : Nat) (k : Nat) (a : Nat) (h0 : Keeps s0 s) :
    Keeps s0 (State.fetchStreamed s c k a) := by
  unfold State.fetchStreamed
  repeat' first
    | with_reducible assumption
    | with_reducible apply State.askChunk_keeps
    | with_reducible apply State.sendFetched_keeps
    | with_reducible apply State.setLvr_keeps
    | with_reducible exact Keeps.mk' (by assumption) rfl rfl rfl
    | (intro x; clear_value x)
    | split
    | (with_reducible refine Keeps.ofFst (by with_reducible assumption) ?_)
    | (with_reducible refine Keeps.ofOpt (by with_reducible assumption) ?_)
    | (with_reducible refine Keeps.ofSnd (by with_reducible assumption) ?_)
    | lift_lets

theorem State.engineFetch_keeps {s0 : State} (s : State) (k : Nat) (h0 : Keeps s0 s) :
    Keeps s0 (State.engineFetch s k) := by
  unfold State.engineFetch
  repeat' first
    | with_reducible assumption
    | with_reducible apply State.fetchStreamed_keeps
    | with_reducible apply State.sendFetched_keeps
    | with_reducible exact Keeps.mk' (by assumption) rfl rfl rfl
    | (intro x; clear_value x)
    | split
    | (with_reducible refine Keeps.ofFst (by with_reducible assumption) ?_)
    | (with_reducible refine Keeps.ofOpt (by with_reducible assumption) ?_)
    | (with_reducible refine Keeps.ofSnd (by with_reducible assumption) ?_)
    | lift_lets

theorem State.noteStalls_keeps {s0 : State} (s : State) (h0 : Keeps s0 s) :
    Keeps s0 (State.noteStalls s) := by
  unfold State.noteStalls
  repeat' first
    | with_reducible assumption
    | with_reducible exact Keeps.mk' (by assumption) rfl rfl rfl

theorem State.chainForward_keeps {s0 : State} (s : State) (k : Nat) (h0 : Keeps s0 s) :
    Keeps s0 (State.chainForward s k) := by
  unfold State.chainForward
  repeat' first
    | with_reducible assumption
    | with_reducible apply State.send_keeps
    | with_reducible apply State.modEp_keeps
    | with_reducible exact Keeps.mk' (by assumption) rfl rfl rfl
    | (intro x; refine Keeps.have_ (Q := Keeps s0 x) ?q ?h; (case' q => subst x); (case' h => (intro hx; clear_value x)))
    | (intro x; clear_value x)
    | split
    | (with_reducible refine Keeps.ofFst (by with_reducible assumption) ?_)
    | (with_reducible refine Keeps.ofOpt (by with_reducible assumption) ?_)
    | (with_reducible refine Keeps.ofSnd (by with_reducible assumption) ?_)
    | lift_lets

theorem execChainForward_keeps {s0 : State} (core : CoreId) (ep : EpId) (s : State) (h0 : Keeps s0 s) :
    OutKeeps s0 (execChainForward core ep s) := by
  unfold execChainForward
  repeat' first
    | with_reducible assumption
    | with_reducible apply State.chainForward_keeps
    | with_reducible apply State.clocked_keeps
    | with_reducible exact Keeps.mk' (by assumption) rfl rfl rfl
    | with_reducible apply OutKeeps.next

end Sys2Proof.Machine
end

