-- ==== Sys2Proof/Laws/KeepsEngines.lean ====
section
/-!
SUPPORT. Every function of Machine/Engines.lean keeps the queue and the canonical forms.
-/
namespace Sys2Proof.Machine
open Sys2Proof

theorem execStageReserve_keeps {s0 : State} (core : CoreId) (ahead : Option CtxId) (s : State) (h0 : Keeps s0 s) :
    OutKeeps s0 (execStageReserve core ahead s) := by
  unfold execStageReserve
  repeat' first
    | with_reducible assumption
    | with_reducible apply State.clocked_keeps
    | with_reducible apply State.noteCore_keeps
    | with_reducible apply State.reserveAhead_keeps
    | with_reducible apply State.reserveHead_keeps
    | with_reducible apply State.vblPump_keeps
    | with_reducible exact Keeps.mk' (by assumption) rfl rfl rfl
    | with_reducible apply OutKeeps.next
    | with_reducible apply OutKeeps.fault
    | split

theorem State.stageComplete_keeps {s0 : State} (s : State) (core : Nat) (c : Nat) (a : Nat) (found : List EccAt) (reply : Reply) (h0 : Keeps s0 s) :
    Keeps s0 (State.stageComplete s core c a found reply) := by
  unfold State.stageComplete
  repeat' first
    | with_reducible assumption
    | with_reducible apply State.engineReply_keeps
    | with_reducible apply State.landCopy_keeps
    | with_reducible apply State.noteCore_keeps
    | with_reducible apply State.t2Deliver_keeps
    | with_reducible exact Keeps.mk' (by assumption) rfl rfl rfl
    | split

theorem execStageComplete_keeps {s0 : State} (core : CoreId) (c : CtxId) (tile : BitVec 32) (found : List EccAt) (reply : Reply) (s : State) (h0 : Keeps s0 s) :
    OutKeeps s0 (execStageComplete core c tile found reply s) := by
  unfold execStageComplete
  repeat' first
    | with_reducible assumption
    | with_reducible apply State.clocked_keeps
    | with_reducible apply State.stageComplete_keeps
    | with_reducible exact Keeps.mk' (by assumption) rfl rfl rfl
    | with_reducible apply OutKeeps.next

theorem execMigCopy_keeps {s0 : State} (c : CtxId) (n : Nat) (replies : List Reply) (s : State) (h0 : Keeps s0 s) :
    OutKeeps s0 (execMigCopy c n replies s) := by
  unfold execMigCopy
  repeat' first
    | with_reducible assumption
    | with_reducible apply State.clocked_keeps
    | with_reducible apply State.migCopy_keeps
    | with_reducible apply State.vblPump_keeps
    | with_reducible exact Keeps.mk' (by assumption) rfl rfl rfl
    | with_reducible apply OutKeeps.next

theorem State.lvrLoad_keeps {s0 : State} (s : State) (c : Nat) (man : Reply) (h0 : Keeps s0 s) :
    Keeps s0 (State.lvrLoad s c man) := by
  unfold State.lvrLoad
  repeat' first
    | with_reducible assumption
    | with_reducible apply State.engineReply_keeps
    | with_reducible apply State.loadStart_keeps
    | with_reducible apply State.vblPump_keeps
    | with_reducible exact Keeps.mk' (by assumption) rfl rfl rfl
    | split

theorem execLvrLoad_keeps {s0 : State} (c : CtxId) (man : Reply) (s : State) (h0 : Keeps s0 s) :
    OutKeeps s0 (execLvrLoad c man s) := by
  unfold execLvrLoad
  repeat' first
    | with_reducible assumption
    | with_reducible apply State.clocked_keeps
    | with_reducible apply State.lvrLoad_keeps
    | with_reducible exact Keeps.mk' (by assumption) rfl rfl rfl
    | with_reducible apply OutKeeps.next

theorem State.lvrSwap_keeps {s0 : State} (s : State) (c : Nat) (man : Reply) (h0 : Keeps s0 s) :
    Keeps s0 (State.lvrSwap s c man) := by
  unfold State.lvrSwap
  repeat' first
    | with_reducible assumption
    | with_reducible apply State.engineReply_keeps
    | with_reducible apply State.swapStart_keeps
    | with_reducible apply State.vblPump_keeps
    | with_reducible exact Keeps.mk' (by assumption) rfl rfl rfl
    | split

theorem execLvrSwap_keeps {s0 : State} (c : CtxId) (man : Reply) (s : State) (h0 : Keeps s0 s) :
    OutKeeps s0 (execLvrSwap c man s) := by
  unfold execLvrSwap
  repeat' first
    | with_reducible assumption
    | with_reducible apply State.clocked_keeps
    | with_reducible apply State.lvrSwap_keeps
    | with_reducible exact Keeps.mk' (by assumption) rfl rfl rfl
    | with_reducible apply OutKeeps.next

theorem execLvrChunkVerify_keeps {s0 : State} (c : CtxId) (use : ChunkUse) (page : Bool) (i : Nat) (reply : Reply) (s : State) (h0 : Keeps s0 s) :
    OutKeeps s0 (execLvrChunkVerify c use page i reply s) := by
  unfold execLvrChunkVerify
  repeat' first
    | with_reducible assumption
    | with_reducible apply State.clocked_keeps
    | with_reducible apply State.engineReply_keeps
    | with_reducible exact Keeps.mk' (by assumption) rfl rfl rfl
    | with_reducible apply OutKeeps.next

theorem execFetchEngineFetch_keeps {s0 : State} (core : CoreId) (ep : EpId) (s : State) (h0 : Keeps s0 s) :
    OutKeeps s0 (execFetchEngineFetch core ep s) := by
  unfold execFetchEngineFetch
  repeat' first
    | with_reducible assumption
    | with_reducible apply State.clocked_keeps
    | with_reducible apply State.engineFetch_keeps
    | with_reducible apply State.noteStalls_keeps
    | with_reducible apply State.vblPump_keeps
    | with_reducible exact Keeps.mk' (by assumption) rfl rfl rfl
    | with_reducible apply OutKeeps.next

end Sys2Proof.Machine
end

