-- ==== Sys2Proof/Laws/KeepsControl.lean ====
section
/-!
SUPPORT. Every function of Machine/Control.lean keeps the queue and the canonical forms.
-/
namespace Sys2Proof.Machine
open Sys2Proof

theorem State.readReg_keeps {s0 : State} (s : State) (req : Requester) (l : Loc) (fs : List FieldSpec) (addr : Nat) (h0 : Keeps s0 s) :
    Keeps s0 (State.readReg s req l fs addr) := by
  unfold State.readReg
  repeat' first
    | with_reducible assumption
    | with_reducible apply Cx.emit_keeps
    | with_reducible apply State.emit_keeps
    | with_reducible apply State.put_keeps
    | with_reducible exact Keeps.mkCtrl (by assumption) rfl rfl rfl
    | with_reducible exact Keeps.mk' (by assumption) rfl rfl rfl
    | split

theorem State.readCtrl_keeps {s0 : State} (s : State) (req : Requester) (addr : Nat) (h0 : Keeps s0 s) :
    Keeps s0 (State.readCtrl s req addr) := by
  unfold State.readCtrl
  repeat' first
    | with_reducible assumption
    | with_reducible apply Cx.emit_keeps
    | with_reducible apply State.emit_keeps
    | with_reducible apply State.misuse_keeps
    | with_reducible apply State.readReg_keeps
    | with_reducible apply State.refuseAccess_keeps
    | with_reducible exact Keeps.mk' (by assumption) rfl rfl rfl
    | split
    | (with_reducible refine Keeps.ofFst (by with_reducible assumption) ?_)
    | (with_reducible refine Keeps.ofOpt (by with_reducible assumption) ?_)
    | (with_reducible refine Keeps.ofSnd (by with_reducible assumption) ?_)

theorem execReg64LowRead_keeps {s0 : State} (req : Requester) (addr : BitVec 40) (s : State) (h0 : Keeps s0 s) :
    OutKeeps s0 (execReg64LowRead req addr s) := by
  unfold execReg64LowRead
  repeat' first
    | with_reducible assumption
    | with_reducible apply State.readCtrl_keeps
    | with_reducible exact Keeps.mk' (by assumption) rfl rfl rfl
    | with_reducible apply OutKeeps.next

theorem State.poke_keeps {s0 : State} (s : State) (fs : List FieldSpec) (addr : Nat) (v : Nat) (h0 : Keeps s0 s) :
    Keeps s0 (State.poke s fs addr v) := by
  unfold State.poke
  repeat' first
    | with_reducible assumption
    | with_reducible apply State.wr_keeps

theorem State.wideWrite_keeps {s0 : State} (s : State) (req : Requester) (l : Loc) (fs : List FieldSpec) (addr : Nat) (v : Nat) (h0 : Keeps s0 s) :
    Keeps s0 (State.wideWrite s req l fs addr v) := by
  unfold State.wideWrite
  repeat' first
    | with_reducible assumption
    | with_reducible apply State.poke_keeps
    | with_reducible apply State.misuse_keeps
    | with_reducible apply State.put_keeps
    | with_reducible exact Keeps.mkCtrl (by assumption) rfl rfl rfl
    | with_reducible exact Keeps.mk' (by assumption) rfl rfl rfl
    | (intro x; skip)
    | split
    | (with_reducible refine Keeps.ofFst (by with_reducible assumption) ?_)
    | (with_reducible refine Keeps.ofOpt (by with_reducible assumption) ?_)
    | (with_reducible refine Keeps.ofSnd (by with_reducible assumption) ?_)
    | lift_lets

theorem State.coreClear_keeps {s0 : State} (s : State) (core : Nat) (h0 : Keeps s0 s) :
    Keeps s0 (State.coreClear s core) := by
  unfold State.coreClear
  repeat' first
    | with_reducible assumption
    | with_reducible apply State.clear64_keeps

theorem State.migCtxWrite_keeps {s0 : State} (s : State) (req : Requester) (c : Nat) (v : Nat) (h0 : Keeps s0 s) :
    Keeps s0 (State.migCtxWrite s req c v) := by
  unfold State.migCtxWrite
  repeat' first
    | with_reducible assumption
    | with_reducible apply State.misuse_keeps
    | with_reducible apply State.put_keeps
    | with_reducible exact Keeps.mk' (by assumption) rfl rfl rfl
    | (intro x; refine Keeps.have_ (Q := Keeps s0 x) ?q ?h; (case' q => subst x); (case' h => (intro hx; clear_value x)))
    | split
    | lift_lets

theorem State.slotMapWrite_keeps {s0 : State} (s : State) (addr : Nat) (v : Nat) (h0 : Keeps s0 s) :
    Keeps s0 (State.slotMapWrite s addr v) := by
  unfold State.slotMapWrite
  repeat' first
    | with_reducible assumption
    | with_reducible apply State.misuseMod_keeps
    | with_reducible apply State.wr_keeps
    | with_reducible exact Keeps.mk' (by assumption) rfl rfl rfl
    | split

theorem State.ctxWrite_keeps {s0 : State} (s : State) (c : Nat) (off : Nat) (fs : List FieldSpec) (addr : Nat) (v : Nat) (h0 : Keeps s0 s) :
    Keeps s0 (State.ctxWrite s c off fs addr v) := by
  unfold State.ctxWrite
  repeat' first
    | with_reducible assumption
    | with_reducible apply State.poke_keeps
    | with_reducible apply State.ctxResult_keeps
    | with_reducible apply State.misuseMod_keeps
    | with_reducible exact Keeps.mk' (by assumption) rfl rfl rfl
    | split

theorem State.almWrite_keeps {s0 : State} (s : State) (a : Nat) (fs : List FieldSpec) (addr : Nat) (v : Nat) (h0 : Keeps s0 s) :
    Keeps s0 (State.almWrite s a fs addr v) := by
  unfold State.almWrite
  repeat' first
    | with_reducible assumption
    | with_reducible apply State.poke_keeps
    | with_reducible apply State.evcFlow_keeps
    | with_reducible apply State.levelRaise_keeps
    | with_reducible exact Keeps.mk' (by assumption) rfl rfl rfl
    | (fail_if_no_progress extract_lets +onlyGivenNames x)
    | split
    | (fail_if_no_progress with_reducible apply Keeps.mkOf)

theorem State.evqWrite_keeps {s0 : State} (s : State) (req : Requester) (q : Nat) (off : Nat) (fs : List FieldSpec) (addr : Nat) (v : Nat) (h0 : Keeps s0 s) :
    Keeps s0 (State.evqWrite s req q off fs addr v) := by
  unfold State.evqWrite
  repeat' first
    | with_reducible assumption
    | with_reducible apply State.poke_keeps
    | with_reducible apply State.evqDone_keeps
    | with_reducible apply State.evqHeadWrite_keeps
    | with_reducible apply State.evqCtrlWrite_keeps
    | with_reducible apply State.evcFlow_keeps
    | with_reducible apply State.levelRaise_keeps
    | with_reducible apply State.evcJudge_keeps
    | with_reducible exact Keeps.mk' (by assumption) rfl rfl rfl
    | split

theorem State.strWrite_keeps {s0 : State} (s : State) (req : Requester) (k : Nat) (off : Nat) (fs : List FieldSpec) (addr : Nat) (v : Nat) (x : WriteSides) (h0 : Keeps s0 s) :
    Keeps s0 (State.strWrite s req k off fs addr v x) := by
  unfold State.strWrite
  repeat' first
    | with_reducible assumption
    | with_reducible apply State.misuse_keeps
    | with_reducible apply State.poke_keeps
    | with_reducible apply State.strDisable_keeps
    | with_reducible apply State.strSetup_keeps
    | with_reducible exact Keeps.mk' (by assumption) rfl rfl rfl
    | split
    | (with_reducible refine Keeps.ofFst (by with_reducible assumption) ?_)
    | (with_reducible refine Keeps.ofOpt (by with_reducible assumption) ?_)
    | (with_reducible refine Keeps.ofSnd (by with_reducible assumption) ?_)

theorem State.lnkWrite_keeps {s0 : State} (s : State) (req : Requester) (p : Nat) (off : Nat) (fs : List FieldSpec) (addr : Nat) (v : Nat) (h0 : Keeps s0 s) :
    Keeps s0 (State.lnkWrite s req p off fs addr v) := by
  unfold State.lnkWrite
  repeat' first
    | with_reducible assumption
    | with_reducible apply State.poke_keeps
    | with_reducible apply State.shareWrite_keeps
    | with_reducible apply State.lnkCntClear_keeps
    | with_reducible apply State.lnkCtrl_keeps
    | with_reducible apply State.misuse_keeps
    | with_reducible exact Keeps.mk' (by assumption) rfl rfl rfl
    | split

theorem State.shtRegWrite_keeps {s0 : State} (s : State) (p : Nat) (off : Nat) (v : Nat) (h0 : Keeps s0 s) :
    Keeps s0 (State.shtRegWrite s p off v) := by
  unfold State.shtRegWrite
  repeat' first
    | with_reducible assumption
    | with_reducible apply State.partReset_keeps
    | with_reducible apply State.cfgWrite_keeps
    | with_reducible apply State.portsWrite_keeps
    | with_reducible apply State.t2SizeWrite_keeps
    | with_reducible apply State.t2BaseWrite_keeps
    | with_reducible apply State.rectWrite_keeps
    | with_reducible apply State.put_keeps
    | with_reducible exact Keeps.mk' (by assumption) rfl rfl rfl
    | split

theorem State.migRegWrite_keeps {s0 : State} (s : State) (req : Requester) (c : Nat) (off : Nat) (fs : List FieldSpec) (addr : Nat) (v : Nat) (h0 : Keeps s0 s) :
    Keeps s0 (State.migRegWrite s req c off fs addr v) := by
  unfold State.migRegWrite
  repeat' first
    | with_reducible assumption
    | with_reducible apply State.migCtxWrite_keeps
    | with_reducible apply State.poke_keeps
    | with_reducible apply State.migClear_keeps
    | with_reducible apply State.migTail_keeps
    | with_reducible apply State.migRingCtrl_keeps
    | with_reducible exact Keeps.mk' (by assumption) rfl rfl rfl
    | split

theorem State.lvrRegWrite_keeps {s0 : State} (s : State) (req : Requester) (c : Nat) (off : Nat) (fs : List FieldSpec) (addr : Nat) (v : Nat) (h0 : Keeps s0 s) :
    Keeps s0 (State.lvrRegWrite s req c off fs addr v) := by
  unfold State.lvrRegWrite
  repeat' first
    | with_reducible assumption
    | with_reducible apply State.poke_keeps
    | with_reducible apply State.lvrClear_keeps
    | with_reducible apply State.swapCmd_keeps
    | with_reducible apply State.lvrTail_keeps
    | with_reducible apply State.lvrDescCtrl_keeps
    | with_reducible exact Keeps.mk' (by assumption) rfl rfl rfl
    | split

theorem State.plainWrite_keeps {s0 : State} (s : State) (req : Requester) (l : Loc) (fs : List FieldSpec) (addr : Nat) (v : Nat) (x : WriteSides) (h0 : Keeps s0 s) :
    Keeps s0 (State.plainWrite s req l fs addr v x) := by
  unfold State.plainWrite
  repeat' first
    | with_reducible assumption
    | with_reducible apply State.almWrite_keeps
    | with_reducible apply State.beatWrite_keeps
    | with_reducible apply State.collClear_keeps
    | with_reducible apply State.coreClear_keeps
    | with_reducible apply State.ctxCmd_keeps
    | with_reducible apply State.ctxWrite_keeps
    | with_reducible apply State.evcCntClear_keeps
    | with_reducible apply State.evqWrite_keeps
    | with_reducible apply State.gdisWrite_keeps
    | with_reducible apply State.lifetimeWrite_keeps
    | with_reducible apply State.lnkWrite_keeps
    | with_reducible apply State.lvrFailClear_keeps
    | with_reducible apply State.lvrRegWrite_keeps
    | with_reducible apply State.migErrClear_keeps
    | with_reducible apply State.migRegWrite_keeps
    | with_reducible apply State.misuse_keeps
    | with_reducible apply State.movesGo_keeps
    | with_reducible apply State.netArm_keeps
    | with_reducible apply State.netCntClear_keeps
    | with_reducible apply State.nodeWrite_keeps
    | with_reducible apply State.poke_keeps
    | with_reducible apply State.pswApply_keeps
    | with_reducible apply State.put_keeps
    | with_reducible apply State.pwrCntClear_keeps
    | with_reducible apply State.pwrCtrl_keeps
    | with_reducible apply State.relCntClear_keeps
    | with_reducible apply State.relCtrl_keeps
    | with_reducible apply State.routeWrite_keeps
    | with_reducible apply State.scanReq_keeps
    | with_reducible apply State.shtRegWrite_keeps
    | with_reducible apply State.slotMapWrite_keeps
    | with_reducible apply State.strWrite_keeps
    | with_reducible apply State.synCmd_keeps
    | with_reducible apply State.timCtrl_keeps
    | with_reducible apply State.trpCntClear_keeps
    | with_reducible apply State.vblArm_keeps
    | with_reducible apply State.vblCntClear_keeps
    | with_reducible apply State.vblPump_keeps
    | with_reducible exact Keeps.mk' (by assumption) rfl rfl rfl
    | (intro x; refine Keeps.have_ (Q := Keeps s0 x) ?q ?h; (case' q => subst x); (case' h => (intro hx; clear_value x)))
    | (intro x; clear_value x)
    | split
    | (with_reducible refine Keeps.ofFst (by with_reducible assumption) ?_)
    | (with_reducible refine Keeps.ofOpt (by with_reducible assumption) ?_)
    | (with_reducible refine Keeps.ofSnd (by with_reducible assumption) ?_)
    | lift_lets

theorem State.regWrite_keeps {s0 : State} (s : State) (req : Requester) (l : Loc) (fs : List FieldSpec) (addr : Nat) (v : Nat) (x : WriteSides) (h0 : Keeps s0 s) :
    Keeps s0 (State.regWrite s req l fs addr v x) := by
  unfold State.regWrite
  repeat' first
    | with_reducible assumption
    | with_reducible apply State.plainWrite_keeps
    | with_reducible apply State.wideWrite_keeps
    | with_reducible exact Keeps.mk' (by assumption) rfl rfl rfl
    | split

theorem State.writeCtrl_keeps {s0 : State} (s : State) (req : Requester) (addr : Nat) (v : Nat) (x : WriteSides) (h0 : Keeps s0 s) :
    Keeps s0 (State.writeCtrl s req addr v x) := by
  unfold State.writeCtrl
  repeat' first
    | with_reducible assumption
    | with_reducible apply State.misuse_keeps
    | with_reducible apply State.regWrite_keeps
    | with_reducible apply State.write_keeps
    | with_reducible exact Keeps.mk' (by assumption) rfl rfl rfl
    | split
    | (with_reducible refine Keeps.ofFst (by with_reducible assumption) ?_)
    | (with_reducible refine Keeps.ofOpt (by with_reducible assumption) ?_)
    | (with_reducible refine Keeps.ofSnd (by with_reducible assumption) ?_)
    | intro _

theorem State.clockAccess_keeps {s0 : State} (s : State) (addr : Nat) (readers : List Requester) (writers : List (Requester × BitVec 32)) (x : WriteSides) (h0 : Keeps s0 s) :
    Keeps s0 (State.clockAccess s addr readers writers x) := by
  unfold State.clockAccess
  repeat' first
    | with_reducible assumption
    | with_reducible apply State.readCtrl_keeps
    | with_reducible apply State.writeCtrl_keeps
    | with_reducible exact Keeps.mk' (by assumption) rfl rfl rfl
    | (with_reducible refine Keeps.foldl (fun _ _ _ => ?_) _ ?_)
    | (with_reducible refine Keeps.foldlFst (fun _ _ _ => ?_) _ ?_)
    | (intro x; refine Keeps.have_ (Q := Keeps s0 x) ?q ?h; (case' q => subst x); (case' h => (intro hx; clear_value x)))
    | (intro x; clear_value x)
    | lift_lets
    | intro _

theorem execRegisterWrite_keeps {s0 : State} (req : Requester) (addr : BitVec 40) (v : BitVec 32) (x : WriteSides) (s : State) (h0 : Keeps s0 s) :
    OutKeeps s0 (execRegisterWrite req addr v x s) := by
  unfold execRegisterWrite
  repeat' first
    | with_reducible assumption
    | with_reducible apply State.clockAccess_keeps
    | with_reducible exact Keeps.mk' (by assumption) rfl rfl rfl
    | with_reducible apply OutKeeps.next
    | with_reducible apply OutKeeps.fault

end Sys2Proof.Machine
end

