-- ==== Sys2Proof/Laws/KeepsClock.lean ====
section
/-!
SUPPORT. Every function of Machine/Clock.lean keeps the queue and the canonical forms.
-/
namespace Sys2Proof.Machine
open Sys2Proof

theorem State.ctxTick_keeps {s0 : State} (s : State) (c : Nat) (h0 : Keeps s0 s) :
    Keeps s0 (State.ctxTick s c) := by
  unfold State.ctxTick
  repeat' first
    | with_reducible assumption
    | with_reducible apply State.tearTick_keeps
    | with_reducible apply State.dlmTick_keeps
    | with_reducible apply State.wrap64_keeps
    | with_reducible exact Keeps.mk' (by assumption) rfl rfl rfl
    | split

theorem State.tickPass_keeps {s0 : State} (s : State) (h0 : Keeps s0 s) :
    Keeps s0 (State.tickPass s) := by
  unfold State.tickPass
  repeat' first
    | with_reducible assumption
    | with_reducible apply State.copyTick_keeps
    | with_reducible apply State.ctxTick_keeps
    | with_reducible apply State.evcTick_keeps
    | with_reducible apply State.meshTick_keeps
    | with_reducible apply State.noteStalls_keeps
    | with_reducible apply State.portTick_keeps
    | with_reducible apply State.relPump_keeps
    | with_reducible apply State.timTick_keeps
    | with_reducible apply State.vblPump_keeps
    | with_reducible exact Keeps.mk' (by assumption) rfl rfl rfl
    | (with_reducible refine Keeps.foldl (fun _ _ _ => ?_) _ ?_)
    | (with_reducible refine Keeps.foldlFst (fun _ _ _ => ?_) _ ?_)
    | split

end Sys2Proof.Machine
end

