-- ==== Sys2Proof/Laws/KeepsDescriptor.lean ====
section
/-!
SUPPORT. Every function of Machine/Descriptor.lean keeps the queue and the canonical forms.
-/
namespace Sys2Proof.Machine
open Sys2Proof

theorem State.beginAhead_keeps {s0 : State} (s : State) (x : Cx) (desc : Nat) (poisoned : Bool) (h0 : Keeps s0 s) :
    Keeps s0 (State.beginAhead s x desc poisoned) := by
  unfold State.beginAhead
  repeat' first
    | with_reducible assumption
    | with_reducible apply State.setPool_keeps
    | with_reducible exact Keeps.mk' (by assumption) rfl rfl rfl
    | (intro x; clear_value x)
    | split
    | lift_lets

theorem tdLdBody_keeps {s0 : State} (x : Cx) (s : State) (h0 : Keeps s0 s) :
    ChkKeeps s0 (tdLdBody x s) := by
  unfold tdLdBody
  repeat' first
    | with_reducible assumption
    | with_reducible apply State.beginAhead_keeps
    | with_reducible apply State.useStaged_keeps
    | with_reducible apply State.modTask_keeps
    | with_reducible exact Keeps.mk' (by assumption) rfl rfl rfl
    | with_reducible apply ChkKeeps.retire
    | with_reducible apply ChkKeeps.jump
    | with_reducible apply ChkKeeps.stay
    | with_reducible apply ChkKeeps.error
    | (with_reducible refine ChkKeeps.bind (fun _ => ?_))

theorem execTdLd_keeps {s0 : State} (i : Issue) (s : State) (h0 : Keeps s0 s) :
    OutKeeps s0 (execTdLd i s) := by
  unfold execTdLd
  repeat' first
    | with_reducible assumption
    | with_reducible apply tdLdBody_keeps
    | with_reducible apply issue_keeps

theorem tdStBody_keeps {s0 : State} (x : Cx) (s : State) (h0 : Keeps s0 s) :
    ChkKeeps s0 (tdStBody x s) := by
  unfold tdStBody
  repeat' first
    | with_reducible assumption
    | with_reducible apply State.twrite_keeps
    | with_reducible exact Keeps.mk' (by assumption) rfl rfl rfl
    | with_reducible apply ChkKeeps.retire
    | with_reducible apply ChkKeeps.jump
    | with_reducible apply ChkKeeps.stay
    | with_reducible apply ChkKeeps.error
    | (with_reducible refine ChkKeeps.bind (fun _ => ?_))

theorem execTdSt_keeps {s0 : State} (i : Issue) (s : State) (h0 : Keeps s0 s) :
    OutKeeps s0 (execTdSt i s) := by
  unfold execTdSt
  repeat' first
    | with_reducible assumption
    | with_reducible apply tdStBody_keeps
    | with_reducible apply issue_keeps

theorem tdSetBody_keeps {s0 : State} (x : Cx) (s : State) (h0 : Keeps s0 s) :
    ChkKeeps s0 (tdSetBody x s) := by
  unfold tdSetBody
  repeat' first
    | with_reducible assumption
    | with_reducible apply State.beginAhead_keeps
    | with_reducible apply State.modTask_keeps
    | with_reducible exact Keeps.mk' (by assumption) rfl rfl rfl
    | with_reducible apply ChkKeeps.retire
    | with_reducible apply ChkKeeps.jump
    | with_reducible apply ChkKeeps.stay
    | with_reducible apply ChkKeeps.error
    | (with_reducible refine ChkKeeps.bind (fun _ => ?_))
    | split

theorem execTdSet_keeps {s0 : State} (i : Issue) (s : State) (h0 : Keeps s0 s) :
    OutKeeps s0 (execTdSet i s) := by
  unfold execTdSet
  repeat' first
    | with_reducible assumption
    | with_reducible apply tdSetBody_keeps
    | with_reducible apply issue_keeps

theorem tdGetBody_keeps {s0 : State} (x : Cx) (s : State) (h0 : Keeps s0 s) :
    ChkKeeps s0 (tdGetBody x s) := by
  unfold tdGetBody
  repeat' first
    | with_reducible assumption
    | with_reducible apply Cx.putS_keeps
    | with_reducible exact Keeps.mk' (by assumption) rfl rfl rfl
    | with_reducible apply ChkKeeps.retire
    | with_reducible apply ChkKeeps.jump
    | with_reducible apply ChkKeeps.stay
    | with_reducible apply ChkKeeps.error
    | (with_reducible refine ChkKeeps.bind (fun _ => ?_))
    | split

theorem execTdGet_keeps {s0 : State} (i : Issue) (s : State) (h0 : Keeps s0 s) :
    OutKeeps s0 (execTdGet i s) := by
  unfold execTdGet
  repeat' first
    | with_reducible assumption
    | with_reducible apply tdGetBody_keeps
    | with_reducible apply issue_keeps

theorem tdAdvBody_keeps {s0 : State} (x : Cx) (s : State) (h0 : Keeps s0 s) :
    ChkKeeps s0 (tdAdvBody x s) := by
  unfold tdAdvBody
  repeat' first
    | with_reducible assumption
    | with_reducible apply State.modTask_keeps
    | with_reducible exact Keeps.mk' (by assumption) rfl rfl rfl
    | with_reducible apply ChkKeeps.retire

theorem execTdAdv_keeps {s0 : State} (i : Issue) (s : State) (h0 : Keeps s0 s) :
    OutKeeps s0 (execTdAdv i s) := by
  unfold execTdAdv
  repeat' first
    | with_reducible assumption
    | with_reducible apply tdAdvBody_keeps
    | with_reducible apply issue_keeps

end Sys2Proof.Machine
end

