-- ==== Sys2Proof/Laws/KeepsFlow.lean ====
section
/-!
SUPPORT. Every function of Machine/Flow.lean keeps the queue and the canonical forms.
-/
namespace Sys2Proof.Machine
open Sys2Proof

theorem haltBody_keeps {s0 : State} (x : Cx) (s : State) (h0 : Keeps s0 s) :
    ChkKeeps s0 (haltBody x s) := by
  unfold haltBody
  repeat' first
    | with_reducible assumption
    | with_reducible apply Next.state_keeps
    | with_reducible apply State.thrUpdate_keeps
    | with_reducible apply State.closeBatches_keeps
    | with_reducible apply State.modTask_keeps
    | with_reducible exact Keeps.mk' (by assumption) rfl rfl rfl
    | with_reducible apply ChkKeeps.retire
    | with_reducible apply ChkKeeps.jump
    | with_reducible apply ChkKeeps.stay
    | with_reducible apply ChkKeeps.error
    | (with_reducible refine ChkKeeps.bind (fun _ => ?_))

theorem execHalt_keeps {s0 : State} (i : Issue) (s : State) (h0 : Keeps s0 s) :
    OutKeeps s0 (execHalt i s) := by
  unfold execHalt
  repeat' first
    | with_reducible assumption
    | with_reducible apply haltBody_keeps
    | with_reducible apply issue_keeps

theorem flagsRdBody_keeps {s0 : State} (x : Cx) (s : State) (h0 : Keeps s0 s) :
    ChkKeeps s0 (flagsRdBody x s) := by
  unfold flagsRdBody
  repeat' first
    | with_reducible assumption
    | with_reducible apply Cx.putS_keeps
    | with_reducible exact Keeps.mk' (by assumption) rfl rfl rfl
    | with_reducible apply ChkKeeps.retire
    | with_reducible apply ChkKeeps.jump
    | with_reducible apply ChkKeeps.stay
    | with_reducible apply ChkKeeps.error
    | (with_reducible refine ChkKeeps.bind (fun _ => ?_))

theorem execFlagsRd_keeps {s0 : State} (i : Issue) (s : State) (h0 : Keeps s0 s) :
    OutKeeps s0 (execFlagsRd i s) := by
  unfold execFlagsRd
  repeat' first
    | with_reducible assumption
    | with_reducible apply flagsRdBody_keeps
    | with_reducible apply issue_keeps

theorem flagsClrBody_keeps {s0 : State} (x : Cx) (s : State) (h0 : Keeps s0 s) :
    ChkKeeps s0 (flagsClrBody x s) := by
  unfold flagsClrBody
  repeat' first
    | with_reducible assumption
    | with_reducible apply State.modTask_keeps
    | with_reducible exact Keeps.mk' (by assumption) rfl rfl rfl
    | with_reducible apply ChkKeeps.retire
    | with_reducible apply ChkKeeps.jump
    | with_reducible apply ChkKeeps.stay
    | with_reducible apply ChkKeeps.error
    | (with_reducible refine ChkKeeps.bind (fun _ => ?_))

theorem execFlagsClr_keeps {s0 : State} (i : Issue) (s : State) (h0 : Keeps s0 s) :
    OutKeeps s0 (execFlagsClr i s) := by
  unfold execFlagsClr
  repeat' first
    | with_reducible assumption
    | with_reducible apply flagsClrBody_keeps
    | with_reducible apply issue_keeps

end Sys2Proof.Machine
end

