-- ==== Sys2Proof/Laws/KeepsVector.lean ====
section
/-!
SUPPORT. Every function of Machine/Vector.lean keeps the queue and the canonical forms.
-/
namespace Sys2Proof.Machine
open Sys2Proof

theorem Cx.putV_keeps {s0 : State} (x : Cx) (s : State) (r : Nat) (ls : List Word32) (pz : Nat) (h0 : Keeps s0 s) :
    Keeps s0 (Cx.putV x s r ls pz) := by
  unfold Cx.putV
  repeat' first
    | with_reducible assumption
    | with_reducible apply State.modTask_keeps

theorem laneBody_keeps {s0 : State} (int : Cx → Bool) (sb : Nat) (useC : Bool) (f : Cx → Word32 → Word32 → Word32 → Flagged Word32) (x : Cx) (s : State) (h0 : Keeps s0 s) :
    ChkKeeps s0 (laneBody int sb useC f x s) := by
  unfold laneBody
  repeat' first
    | with_reducible assumption
    | with_reducible apply Cx.putV_keeps
    | with_reducible apply Cx.putFlags_keeps
    | with_reducible exact Keeps.mk' (by assumption) rfl rfl rfl
    | with_reducible apply ChkKeeps.retire

theorem unaryBody_keeps {s0 : State} (f : Cx → Word32 → Flagged Word32) (x : Cx) (s : State) (h0 : Keeps s0 s) :
    ChkKeeps s0 (unaryBody f x s) := by
  unfold unaryBody
  repeat' first
    | with_reducible assumption
    | with_reducible apply Cx.putV_keeps
    | with_reducible apply Cx.putFlags_keeps
    | with_reducible exact Keeps.mk' (by assumption) rfl rfl rfl
    | with_reducible apply ChkKeeps.retire

theorem execVadd_keeps {s0 : State} (i : Issue) (s : State) (h0 : Keeps s0 s) :
    OutKeeps s0 (execVadd i s) := by
  unfold execVadd
  repeat' first
    | with_reducible assumption
    | with_reducible apply laneBody_keeps
    | with_reducible apply issue_keeps

theorem execVsub_keeps {s0 : State} (i : Issue) (s : State) (h0 : Keeps s0 s) :
    OutKeeps s0 (execVsub i s) := by
  unfold execVsub
  repeat' first
    | with_reducible assumption
    | with_reducible apply laneBody_keeps
    | with_reducible apply issue_keeps

theorem execVmul_keeps {s0 : State} (i : Issue) (s : State) (h0 : Keeps s0 s) :
    OutKeeps s0 (execVmul i s) := by
  unfold execVmul
  repeat' first
    | with_reducible assumption
    | with_reducible apply laneBody_keeps
    | with_reducible apply issue_keeps

theorem execVfma_keeps {s0 : State} (i : Issue) (s : State) (h0 : Keeps s0 s) :
    OutKeeps s0 (execVfma i s) := by
  unfold execVfma
  repeat' first
    | with_reducible assumption
    | with_reducible apply laneBody_keeps
    | with_reducible apply issue_keeps

theorem execVdiv_keeps {s0 : State} (i : Issue) (s : State) (h0 : Keeps s0 s) :
    OutKeeps s0 (execVdiv i s) := by
  unfold execVdiv
  repeat' first
    | with_reducible assumption
    | with_reducible apply laneBody_keeps
    | with_reducible apply issue_keeps

theorem execVmin_keeps {s0 : State} (i : Issue) (s : State) (h0 : Keeps s0 s) :
    OutKeeps s0 (execVmin i s) := by
  unfold execVmin
  repeat' first
    | with_reducible assumption
    | with_reducible apply laneBody_keeps
    | with_reducible apply issue_keeps

theorem execVmax_keeps {s0 : State} (i : Issue) (s : State) (h0 : Keeps s0 s) :
    OutKeeps s0 (execVmax i s) := by
  unfold execVmax
  repeat' first
    | with_reducible assumption
    | with_reducible apply laneBody_keeps
    | with_reducible apply issue_keeps

theorem execVsqrt_keeps {s0 : State} (i : Issue) (s : State) (h0 : Keeps s0 s) :
    OutKeeps s0 (execVsqrt i s) := by
  unfold execVsqrt
  repeat' first
    | with_reducible assumption
    | with_reducible apply unaryBody_keeps
    | with_reducible apply issue_keeps

theorem execVfunc_keeps {s0 : State} (i : Issue) (s : State) (h0 : Keeps s0 s) :
    OutKeeps s0 (execVfunc i s) := by
  unfold execVfunc
  repeat' first
    | with_reducible assumption
    | with_reducible apply unaryBody_keeps
    | with_reducible apply issue_keeps

theorem execVcmp_keeps {s0 : State} (i : Issue) (s : State) (h0 : Keeps s0 s) :
    OutKeeps s0 (execVcmp i s) := by
  unfold execVcmp
  repeat' first
    | with_reducible assumption
    | with_reducible apply laneBody_keeps
    | with_reducible apply issue_keeps

theorem execVsel_keeps {s0 : State} (i : Issue) (s : State) (h0 : Keeps s0 s) :
    OutKeeps s0 (execVsel i s) := by
  unfold execVsel
  repeat' first
    | with_reducible assumption
    | with_reducible apply laneBody_keeps
    | with_reducible apply issue_keeps

theorem vldBody_keeps {s0 : State} (x : Cx) (s : State) (h0 : Keeps s0 s) :
    ChkKeeps s0 (vldBody x s) := by
  unfold vldBody
  repeat' first
    | with_reducible assumption
    | with_reducible apply Cx.putV_keeps
    | with_reducible apply State.useStaged_keeps
    | with_reducible exact Keeps.mk' (by assumption) rfl rfl rfl
    | with_reducible apply ChkKeeps.retire
    | with_reducible apply ChkKeeps.jump
    | with_reducible apply ChkKeeps.stay
    | with_reducible apply ChkKeeps.error
    | (with_reducible refine ChkKeeps.bind (fun _ => ?_))

theorem execVld_keeps {s0 : State} (i : Issue) (s : State) (h0 : Keeps s0 s) :
    OutKeeps s0 (execVld i s) := by
  unfold execVld
  repeat' first
    | with_reducible assumption
    | with_reducible apply vldBody_keeps
    | with_reducible apply issue_keeps

theorem State.putGroup_keeps {s0 : State} (x : Cx) (o : Opnd) : ∀ (n : Nat) (s : State) (l : List (Nat × (Nat × Bool))),
    Keeps s0 s → Keeps s0 (State.putGroup s x o n l)
  | 0, _, _, h => by unfold State.putGroup; exact h
  | _ + 1, _, [], h => by unfold State.putGroup; exact h
  | n + 1, _, _ :: _, h => by
    unfold State.putGroup
    exact State.putGroup_keeps x o n _ _ (State.writeBits_keeps _ _ _ _ _ _ h)

theorem vstBody_keeps {s0 : State} (x : Cx) (s : State) (h0 : Keeps s0 s) :
    ChkKeeps s0 (vstBody x s) := by
  unfold vstBody
  repeat' first
    | with_reducible assumption
    | with_reducible apply State.putGroup_keeps
    | with_reducible apply Cx.putFlags_keeps
    | with_reducible exact Keeps.mk' (by assumption) rfl rfl rfl
    | with_reducible apply ChkKeeps.retire
    | with_reducible apply ChkKeeps.jump
    | with_reducible apply ChkKeeps.stay
    | with_reducible apply ChkKeeps.error
    | (with_reducible refine ChkKeeps.bind (fun _ => ?_))

theorem execVst_keeps {s0 : State} (i : Issue) (s : State) (h0 : Keeps s0 s) :
    OutKeeps s0 (execVst i s) := by
  unfold execVst
  repeat' first
    | with_reducible assumption
    | with_reducible apply vstBody_keeps
    | with_reducible apply issue_keeps

theorem vrngBody_keeps {s0 : State} (x : Cx) (s : State) (h0 : Keeps s0 s) :
    ChkKeeps s0 (vrngBody x s) := by
  unfold vrngBody
  repeat' first
    | with_reducible assumption
    | with_reducible apply Cx.putV_keeps
    | with_reducible exact Keeps.mk' (by assumption) rfl rfl rfl
    | with_reducible apply ChkKeeps.retire
    | with_reducible apply ChkKeeps.jump
    | with_reducible apply ChkKeeps.stay
    | with_reducible apply ChkKeeps.error
    | (with_reducible refine ChkKeeps.bind (fun _ => ?_))

theorem execVrng_keeps {s0 : State} (i : Issue) (s : State) (h0 : Keeps s0 s) :
    OutKeeps s0 (execVrng i s) := by
  unfold execVrng
  repeat' first
    | with_reducible assumption
    | with_reducible apply vrngBody_keeps
    | with_reducible apply issue_keeps

theorem redBody_keeps {s0 : State} (f : Cx → List Word32 → Flagged Word32) (x : Cx) (s : State) (h0 : Keeps s0 s) :
    ChkKeeps s0 (redBody f x s) := by
  unfold redBody
  repeat' first
    | with_reducible assumption
    | with_reducible apply Cx.putV_keeps
    | with_reducible apply Cx.putFlags_keeps
    | with_reducible exact Keeps.mk' (by assumption) rfl rfl rfl
    | with_reducible apply ChkKeeps.retire
    | with_reducible apply ChkKeeps.jump
    | with_reducible apply ChkKeeps.stay
    | with_reducible apply ChkKeeps.error
    | (with_reducible refine ChkKeeps.bind (fun _ => ?_))

theorem execVredSum_keeps {s0 : State} (i : Issue) (s : State) (h0 : Keeps s0 s) :
    OutKeeps s0 (execVredSum i s) := by
  unfold execVredSum
  repeat' first
    | with_reducible assumption
    | with_reducible apply redBody_keeps
    | with_reducible apply issue_keeps

theorem execVredMax_keeps {s0 : State} (i : Issue) (s : State) (h0 : Keeps s0 s) :
    OutKeeps s0 (execVredMax i s) := by
  unfold execVredMax
  repeat' first
    | with_reducible assumption
    | with_reducible apply redBody_keeps
    | with_reducible apply issue_keeps

theorem execVredMin_keeps {s0 : State} (i : Issue) (s : State) (h0 : Keeps s0 s) :
    OutKeeps s0 (execVredMin i s) := by
  unfold execVredMin
  repeat' first
    | with_reducible assumption
    | with_reducible apply redBody_keeps
    | with_reducible apply issue_keeps

theorem segmentBody_keeps {s0 : State} (useS : Cx → Bool) (f : Cx → List Word32 → Flagged (List Word32)) (x : Cx) (s : State) (h0 : Keeps s0 s) :
    ChkKeeps s0 (segmentBody useS f x s) := by
  unfold segmentBody
  repeat' first
    | with_reducible assumption
    | with_reducible apply Cx.putV_keeps
    | with_reducible apply Cx.putFlags_keeps
    | with_reducible exact Keeps.mk' (by assumption) rfl rfl rfl
    | with_reducible apply ChkKeeps.retire
    | with_reducible apply ChkKeeps.jump
    | with_reducible apply ChkKeeps.stay
    | with_reducible apply ChkKeeps.error
    | (with_reducible refine ChkKeeps.bind (fun _ => ?_))

theorem execVnorm_keeps {s0 : State} (i : Issue) (s : State) (h0 : Keeps s0 s) :
    OutKeeps s0 (execVnorm i s) := by
  unfold execVnorm
  repeat' first
    | with_reducible assumption
    | with_reducible apply segmentBody_keeps
    | with_reducible apply issue_keeps

theorem execVsoftmax_keeps {s0 : State} (i : Issue) (s : State) (h0 : Keeps s0 s) :
    OutKeeps s0 (execVsoftmax i s) := by
  unfold execVsoftmax
  repeat' first
    | with_reducible assumption
    | with_reducible apply segmentBody_keeps
    | with_reducible apply issue_keeps

theorem vaccRdBody_keeps {s0 : State} (x : Cx) (s : State) (h0 : Keeps s0 s) :
    ChkKeeps s0 (vaccRdBody x s) := by
  unfold vaccRdBody
  repeat' first
    | with_reducible assumption
    | with_reducible apply Cx.putV_keeps
    | with_reducible exact Keeps.mk' (by assumption) rfl rfl rfl
    | with_reducible apply ChkKeeps.retire
    | with_reducible apply ChkKeeps.jump
    | with_reducible apply ChkKeeps.stay
    | with_reducible apply ChkKeeps.error
    | (with_reducible refine ChkKeeps.bind (fun _ => ?_))

theorem execVaccRd_keeps {s0 : State} (i : Issue) (s : State) (h0 : Keeps s0 s) :
    OutKeeps s0 (execVaccRd i s) := by
  unfold execVaccRd
  repeat' first
    | with_reducible assumption
    | with_reducible apply vaccRdBody_keeps
    | with_reducible apply issue_keeps

theorem vaccWrBody_keeps {s0 : State} (x : Cx) (s : State) (h0 : Keeps s0 s) :
    ChkKeeps s0 (vaccWrBody x s) := by
  unfold vaccWrBody
  repeat' first
    | with_reducible assumption
    | with_reducible apply Cx.putAcc_keeps
    | with_reducible exact Keeps.mk' (by assumption) rfl rfl rfl
    | with_reducible apply ChkKeeps.retire
    | with_reducible apply ChkKeeps.jump
    | with_reducible apply ChkKeeps.stay
    | with_reducible apply ChkKeeps.error
    | (with_reducible refine ChkKeeps.bind (fun _ => ?_))

theorem execVaccWr_keeps {s0 : State} (i : Issue) (s : State) (h0 : Keeps s0 s) :
    OutKeeps s0 (execVaccWr i s) := by
  unfold execVaccWr
  repeat' first
    | with_reducible assumption
    | with_reducible apply vaccWrBody_keeps
    | with_reducible apply issue_keeps

end Sys2Proof.Machine
end

