-- ==== Sys2Proof/Laws/Mem.lean ====
section
/-!
SUPPORT. A write of tensor space within one page is one store, and what it does to bytes and poison.
-/
namespace Sys2Proof.Machine
open Sys2Proof

/-- A range within one page is one piece. -/
theorem pieces_page (a n : Nat) (h0 : 0 < n) (h : a % 4096 + n ≤ 4096) : pieces a n = [(a, n)] := by
  have e : (a + n - 1) / 4096 - a / 4096 + 1 = 1 := by omega
  have e2 : ¬ (a / 4096 + 0 + 1) * 4096 < a + n := by omega
  unfold pieces
  rw [if_neg (by omega), e]
  simp only [List.range_one, List.map_cons, List.map_nil, if_true, if_neg e2]
  congr 2
  omega

/-- A write within one page is one store at the key of its first byte. -/
theorem State.twrite_page (s : State) (c a : Nat) (bs : List Byte) (pz : Nat → Bool) (h0 : 0 < bs.length)
    (h : a % 4096 + bs.length ≤ 4096) :
    s.twrite c a bs pz = { s with mem := s.mem.store (s.key c a) bs fun q => pz (a / 64 + (q - s.key c a / 64)) } := by
  unfold State.twrite
  rw [pieces_page a _ h0 h]
  simp

theorem mem_setRange (l : List Nat) (lo hi : Nat) (new : List Nat) (q : Nat) :
    (setRange l lo hi new).contains q = ((l.contains q && (decide (q < lo) || decide (hi < q))) || new.contains q) := by
  unfold setRange
  rw [Bool.eq_iff_iff]
  simp only [List.contains_iff_mem, List.mem_append, List.mem_filter, Bool.or_eq_true, Bool.and_eq_true, decide_eq_true_eq]
  tauto

theorem contains_sectorsOf (key n q : Nat) (h : 0 < n) :
    q ∈ sectorsOf key n ↔ key / 64 ≤ q ∧ q ≤ (key + n - 1) / 64 := by
  constructor
  · exact mem_sectorsOf
  · rintro ⟨h1, h2⟩
    unfold sectorsOf
    rw [if_neg (by omega)]
    exact List.mem_map.2 ⟨q - key / 64, by simp; omega, by omega⟩

/-- Which sectors are poisoned after a store: outside its range those before; within it those of the data, and in a sector that it
covers in part those before as well (R269). -/
theorem Memory.poisoned_store (m : Memory) (key : Nat) (bs : List Byte) (pz : Nat → Bool) (q : Nat) (h0 : 0 < bs.length) :
    (m.store key bs pz).poisoned q =
      if key / 64 ≤ q ∧ q ≤ (key + bs.length - 1) / 64 then pz q || (!wholeSector key bs.length q && m.poisoned q)
      else m.poisoned q := by
  have hb : bs.isEmpty = false := by cases bs <;> simp_all
  unfold Memory.store
  rw [hb]
  simp only [Bool.false_eq_true, if_false]
  show (setRange _ _ _ _).contains q = _
  rw [mem_setRange, Bool.eq_iff_iff]
  have hs := contains_sectorsOf key bs.length q h0
  simp only [List.contains_iff_mem, List.mem_filter, hs, Bool.or_eq_true, Bool.and_eq_true, decide_eq_true_eq]
  split
  · next h =>
    have : ¬ (q < key / 64 ∨ (key + bs.length - 1) / 64 < q) := by omega
    simp only [h, this, and_false, false_or, true_and, Bool.or_eq_true, Bool.and_eq_true]
  · next h =>
    have : q < key / 64 ∨ (key + bs.length - 1) / 64 < q := by omega
    simp only [h, this, and_true, false_and, or_false]
    unfold Memory.poisoned
    simp

end Sys2Proof.Machine
end

