-- ==== Sys2Proof/Laws/State.lean ====
section
/-!
SUPPORT. One lemma for each field that an update of the state leaves or sets, so that no proof unfolds the update.
-/
namespace Sys2Proof.Machine
open Sys2Proof

/-! ## State.wr -/

@[simp] theorem State.wr_pending (s : State) (addr v : Nat) : (s.wr addr v).pending = s.pending := rfl
@[simp] theorem State.wr_out (s : State) (addr v : Nat) : (s.wr addr v).out = s.out := rfl
@[simp] theorem State.wr_tick (s : State) (addr v : Nat) : (s.wr addr v).tick = s.tick := rfl
@[simp] theorem State.wr_mem (s : State) (addr v : Nat) : (s.wr addr v).mem = s.mem := rfl
@[simp] theorem State.wr_mesh (s : State) (addr v : Nat) : (s.wr addr v).mesh = s.mesh := rfl
@[simp] theorem State.wr_cores (s : State) (addr v : Nat) : (s.wr addr v).cores = s.cores := rfl
@[simp] theorem State.wr_ctxs (s : State) (addr v : Nat) : (s.wr addr v).ctxs = s.ctxs := rfl
@[simp] theorem State.wr_oldHandles (s : State) (addr v : Nat) : (s.wr addr v).oldHandles = s.oldHandles := rfl
@[simp] theorem State.wr_taskOps (s : State) (addr v : Nat) : (s.wr addr v).taskOps = s.taskOps := rfl
@[simp] theorem State.wr_bootHold (s : State) (addr v : Nat) : (s.wr addr v).bootHold = s.bootHold := rfl
@[simp] theorem State.wr_rises (s : State) (addr v : Nat) : (s.wr addr v).rises = s.rises := rfl
@[simp] theorem State.wr_resets (s : State) (addr v : Nat) : (s.wr addr v).resets = s.resets := rfl
@[simp] theorem State.wr_migs (s : State) (addr v : Nat) : (s.wr addr v).migs = s.migs := rfl
@[simp] theorem State.wr_lvrs (s : State) (addr v : Nat) : (s.wr addr v).lvrs = s.lvrs := rfl
@[simp] theorem State.wr_keys (s : State) (addr v : Nat) : (s.wr addr v).keys = s.keys := rfl
@[simp] theorem State.wr_tim (s : State) (addr v : Nat) : (s.wr addr v).tim = s.tim := rfl
@[simp] theorem State.wr_ports (s : State) (addr v : Nat) : (s.wr addr v).ports = s.ports := rfl
@[simp] theorem State.wr_trp (s : State) (addr v : Nat) : (s.wr addr v).trp = s.trp := rfl
@[simp] theorem State.wr_vbl (s : State) (addr v : Nat) : (s.wr addr v).vbl = s.vbl := rfl
@[simp] theorem State.wr_coll (s : State) (addr v : Nat) : (s.wr addr v).coll = s.coll := rfl
@[simp] theorem State.wr_evc (s : State) (addr v : Nat) : (s.wr addr v).evc = s.evc := rfl
@[simp] theorem State.wr_pwr (s : State) (addr v : Nat) : (s.wr addr v).pwr = s.pwr := rfl
@[simp] theorem State.wr_rel (s : State) (addr v : Nat) : (s.wr addr v).rel = s.rel := rfl
@[simp] theorem State.wr_svc (s : State) (addr v : Nat) : (s.wr addr v).svc = s.svc := rfl
@[simp] theorem State.wr_raised (s : State) (addr v : Nat) : (s.wr addr v).raised = s.raised := rfl
@[simp] theorem State.wr_lost (s : State) (addr v : Nat) : (s.wr addr v).lost = s.lost := rfl
@[simp] theorem State.wr_draws (s : State) (addr v : Nat) : (s.wr addr v).draws = s.draws := rfl
@[simp] theorem State.wr_ctrl_shadows (s : State) (addr v : Nat) : (s.wr addr v).ctrl.shadows = s.ctrl.shadows := rfl
@[simp] theorem State.wr_ctrl_staged (s : State) (addr v : Nat) : (s.wr addr v).ctrl.staged = s.ctrl.staged := rfl

/-! ## State.put -/

@[simp] theorem State.put_pending (s : State) (f : Fld) (v : Nat) : (s.put f v).pending = s.pending := rfl
@[simp] theorem State.put_out (s : State) (f : Fld) (v : Nat) : (s.put f v).out = s.out := rfl
@[simp] theorem State.put_tick (s : State) (f : Fld) (v : Nat) : (s.put f v).tick = s.tick := rfl
@[simp] theorem State.put_mem (s : State) (f : Fld) (v : Nat) : (s.put f v).mem = s.mem := rfl
@[simp] theorem State.put_mesh (s : State) (f : Fld) (v : Nat) : (s.put f v).mesh = s.mesh := rfl
@[simp] theorem State.put_cores (s : State) (f : Fld) (v : Nat) : (s.put f v).cores = s.cores := rfl
@[simp] theorem State.put_ctxs (s : State) (f : Fld) (v : Nat) : (s.put f v).ctxs = s.ctxs := rfl
@[simp] theorem State.put_oldHandles (s : State) (f : Fld) (v : Nat) : (s.put f v).oldHandles = s.oldHandles := rfl
@[simp] theorem State.put_taskOps (s : State) (f : Fld) (v : Nat) : (s.put f v).taskOps = s.taskOps := rfl
@[simp] theorem State.put_bootHold (s : State) (f : Fld) (v : Nat) : (s.put f v).bootHold = s.bootHold := rfl
@[simp] theorem State.put_rises (s : State) (f : Fld) (v : Nat) : (s.put f v).rises = s.rises := rfl
@[simp] theorem State.put_resets (s : State) (f : Fld) (v : Nat) : (s.put f v).resets = s.resets := rfl
@[simp] theorem State.put_migs (s : State) (f : Fld) (v : Nat) : (s.put f v).migs = s.migs := rfl
@[simp] theorem State.put_lvrs (s : State) (f : Fld) (v : Nat) : (s.put f v).lvrs = s.lvrs := rfl
@[simp] theorem State.put_keys (s : State) (f : Fld) (v : Nat) : (s.put f v).keys = s.keys := rfl
@[simp] theorem State.put_tim (s : State) (f : Fld) (v : Nat) : (s.put f v).tim = s.tim := rfl
@[simp] theorem State.put_ports (s : State) (f : Fld) (v : Nat) : (s.put f v).ports = s.ports := rfl
@[simp] theorem State.put_trp (s : State) (f : Fld) (v : Nat) : (s.put f v).trp = s.trp := rfl
@[simp] theorem State.put_vbl (s : State) (f : Fld) (v : Nat) : (s.put f v).vbl = s.vbl := rfl
@[simp] theorem State.put_coll (s : State) (f : Fld) (v : Nat) : (s.put f v).coll = s.coll := rfl
@[simp] theorem State.put_evc (s : State) (f : Fld) (v : Nat) : (s.put f v).evc = s.evc := rfl
@[simp] theorem State.put_pwr (s : State) (f : Fld) (v : Nat) : (s.put f v).pwr = s.pwr := rfl
@[simp] theorem State.put_rel (s : State) (f : Fld) (v : Nat) : (s.put f v).rel = s.rel := rfl
@[simp] theorem State.put_svc (s : State) (f : Fld) (v : Nat) : (s.put f v).svc = s.svc := rfl
@[simp] theorem State.put_raised (s : State) (f : Fld) (v : Nat) : (s.put f v).raised = s.raised := rfl
@[simp] theorem State.put_lost (s : State) (f : Fld) (v : Nat) : (s.put f v).lost = s.lost := rfl
@[simp] theorem State.put_draws (s : State) (f : Fld) (v : Nat) : (s.put f v).draws = s.draws := rfl
@[simp] theorem State.put_ctrl_shadows (s : State) (f : Fld) (v : Nat) : (s.put f v).ctrl.shadows = s.ctrl.shadows := rfl
@[simp] theorem State.put_ctrl_staged (s : State) (f : Fld) (v : Nat) : (s.put f v).ctrl.staged = s.ctrl.staged := rfl

/-! ## State.put64 -/

@[simp] theorem State.put64_pending (s : State) (addr v : Nat) : (s.put64 addr v).pending = s.pending := rfl
@[simp] theorem State.put64_out (s : State) (addr v : Nat) : (s.put64 addr v).out = s.out := rfl
@[simp] theorem State.put64_tick (s : State) (addr v : Nat) : (s.put64 addr v).tick = s.tick := rfl
@[simp] theorem State.put64_mem (s : State) (addr v : Nat) : (s.put64 addr v).mem = s.mem := rfl
@[simp] theorem State.put64_mesh (s : State) (addr v : Nat) : (s.put64 addr v).mesh = s.mesh := rfl
@[simp] theorem State.put64_cores (s : State) (addr v : Nat) : (s.put64 addr v).cores = s.cores := rfl
@[simp] theorem State.put64_ctxs (s : State) (addr v : Nat) : (s.put64 addr v).ctxs = s.ctxs := rfl
@[simp] theorem State.put64_oldHandles (s : State) (addr v : Nat) : (s.put64 addr v).oldHandles = s.oldHandles := rfl
@[simp] theorem State.put64_taskOps (s : State) (addr v : Nat) : (s.put64 addr v).taskOps = s.taskOps := rfl
@[simp] theorem State.put64_bootHold (s : State) (addr v : Nat) : (s.put64 addr v).bootHold = s.bootHold := rfl
@[simp] theorem State.put64_rises (s : State) (addr v : Nat) : (s.put64 addr v).rises = s.rises := rfl
@[simp] theorem State.put64_resets (s : State) (addr v : Nat) : (s.put64 addr v).resets = s.resets := rfl
@[simp] theorem State.put64_migs (s : State) (addr v : Nat) : (s.put64 addr v).migs = s.migs := rfl
@[simp] theorem State.put64_lvrs (s : State) (addr v : Nat) : (s.put64 addr v).lvrs = s.lvrs := rfl
@[simp] theorem State.put64_keys (s : State) (addr v : Nat) : (s.put64 addr v).keys = s.keys := rfl
@[simp] theorem State.put64_tim (s : State) (addr v : Nat) : (s.put64 addr v).tim = s.tim := rfl
@[simp] theorem State.put64_ports (s : State) (addr v : Nat) : (s.put64 addr v).ports = s.ports := rfl
@[simp] theorem State.put64_trp (s : State) (addr v : Nat) : (s.put64 addr v).trp = s.trp := rfl
@[simp] theorem State.put64_vbl (s : State) (addr v : Nat) : (s.put64 addr v).vbl = s.vbl := rfl
@[simp] theorem State.put64_coll (s : State) (addr v : Nat) : (s.put64 addr v).coll = s.coll := rfl
@[simp] theorem State.put64_evc (s : State) (addr v : Nat) : (s.put64 addr v).evc = s.evc := rfl
@[simp] theorem State.put64_pwr (s : State) (addr v : Nat) : (s.put64 addr v).pwr = s.pwr := rfl
@[simp] theorem State.put64_rel (s : State) (addr v : Nat) : (s.put64 addr v).rel = s.rel := rfl
@[simp] theorem State.put64_svc (s : State) (addr v : Nat) : (s.put64 addr v).svc = s.svc := rfl
@[simp] theorem State.put64_raised (s : State) (addr v : Nat) : (s.put64 addr v).raised = s.raised := rfl
@[simp] theorem State.put64_lost (s : State) (addr v : Nat) : (s.put64 addr v).lost = s.lost := rfl
@[simp] theorem State.put64_draws (s : State) (addr v : Nat) : (s.put64 addr v).draws = s.draws := rfl
@[simp] theorem State.put64_ctrl_shadows (s : State) (addr v : Nat) : (s.put64 addr v).ctrl.shadows = s.ctrl.shadows := rfl
@[simp] theorem State.put64_ctrl_staged (s : State) (addr v : Nat) : (s.put64 addr v).ctrl.staged = s.ctrl.staged := rfl

/-! ## State.bump -/

@[simp] theorem State.bump_pending (s : State) (f : Fld) (n : Nat) : (s.bump f n).pending = s.pending := rfl
@[simp] theorem State.bump_out (s : State) (f : Fld) (n : Nat) : (s.bump f n).out = s.out := rfl
@[simp] theorem State.bump_tick (s : State) (f : Fld) (n : Nat) : (s.bump f n).tick = s.tick := rfl
@[simp] theorem State.bump_mem (s : State) (f : Fld) (n : Nat) : (s.bump f n).mem = s.mem := rfl
@[simp] theorem State.bump_mesh (s : State) (f : Fld) (n : Nat) : (s.bump f n).mesh = s.mesh := rfl
@[simp] theorem State.bump_cores (s : State) (f : Fld) (n : Nat) : (s.bump f n).cores = s.cores := rfl
@[simp] theorem State.bump_ctxs (s : State) (f : Fld) (n : Nat) : (s.bump f n).ctxs = s.ctxs := rfl
@[simp] theorem State.bump_oldHandles (s : State) (f : Fld) (n : Nat) : (s.bump f n).oldHandles = s.oldHandles := rfl
@[simp] theorem State.bump_taskOps (s : State) (f : Fld) (n : Nat) : (s.bump f n).taskOps = s.taskOps := rfl
@[simp] theorem State.bump_bootHold (s : State) (f : Fld) (n : Nat) : (s.bump f n).bootHold = s.bootHold := rfl
@[simp] theorem State.bump_rises (s : State) (f : Fld) (n : Nat) : (s.bump f n).rises = s.rises := rfl
@[simp] theorem State.bump_resets (s : State) (f : Fld) (n : Nat) : (s.bump f n).resets = s.resets := rfl
@[simp] theorem State.bump_migs (s : State) (f : Fld) (n : Nat) : (s.bump f n).migs = s.migs := rfl
@[simp] theorem State.bump_lvrs (s : State) (f : Fld) (n : Nat) : (s.bump f n).lvrs = s.lvrs := rfl
@[simp] theorem State.bump_keys (s : State) (f : Fld) (n : Nat) : (s.bump f n).keys = s.keys := rfl
@[simp] theorem State.bump_tim (s : State) (f : Fld) (n : Nat) : (s.bump f n).tim = s.tim := rfl
@[simp] theorem State.bump_ports (s : State) (f : Fld) (n : Nat) : (s.bump f n).ports = s.ports := rfl
@[simp] theorem State.bump_trp (s : State) (f : Fld) (n : Nat) : (s.bump f n).trp = s.trp := rfl
@[simp] theorem State.bump_vbl (s : State) (f : Fld) (n : Nat) : (s.bump f n).vbl = s.vbl := rfl
@[simp] theorem State.bump_coll (s : State) (f : Fld) (n : Nat) : (s.bump f n).coll = s.coll := rfl
@[simp] theorem State.bump_evc (s : State) (f : Fld) (n : Nat) : (s.bump f n).evc = s.evc := rfl
@[simp] theorem State.bump_pwr (s : State) (f : Fld) (n : Nat) : (s.bump f n).pwr = s.pwr := rfl
@[simp] theorem State.bump_rel (s : State) (f : Fld) (n : Nat) : (s.bump f n).rel = s.rel := rfl
@[simp] theorem State.bump_svc (s : State) (f : Fld) (n : Nat) : (s.bump f n).svc = s.svc := rfl
@[simp] theorem State.bump_raised (s : State) (f : Fld) (n : Nat) : (s.bump f n).raised = s.raised := rfl
@[simp] theorem State.bump_lost (s : State) (f : Fld) (n : Nat) : (s.bump f n).lost = s.lost := rfl
@[simp] theorem State.bump_draws (s : State) (f : Fld) (n : Nat) : (s.bump f n).draws = s.draws := rfl
@[simp] theorem State.bump_ctrl_shadows (s : State) (f : Fld) (n : Nat) : (s.bump f n).ctrl.shadows = s.ctrl.shadows := rfl
@[simp] theorem State.bump_ctrl_staged (s : State) (f : Fld) (n : Nat) : (s.bump f n).ctrl.staged = s.ctrl.staged := rfl

/-! ## State.wrap -/

@[simp] theorem State.wrap_pending (s : State) (f : Fld) (n : Nat) : (s.wrap f n).pending = s.pending := rfl
@[simp] theorem State.wrap_out (s : State) (f : Fld) (n : Nat) : (s.wrap f n).out = s.out := rfl
@[simp] theorem State.wrap_tick (s : State) (f : Fld) (n : Nat) : (s.wrap f n).tick = s.tick := rfl
@[simp] theorem State.wrap_mem (s : State) (f : Fld) (n : Nat) : (s.wrap f n).mem = s.mem := rfl
@[simp] theorem State.wrap_mesh (s : State) (f : Fld) (n : Nat) : (s.wrap f n).mesh = s.mesh := rfl
@[simp] theorem State.wrap_cores (s : State) (f : Fld) (n : Nat) : (s.wrap f n).cores = s.cores := rfl
@[simp] theorem State.wrap_ctxs (s : State) (f : Fld) (n : Nat) : (s.wrap f n).ctxs = s.ctxs := rfl
@[simp] theorem State.wrap_oldHandles (s : State) (f : Fld) (n : Nat) : (s.wrap f n).oldHandles = s.oldHandles := rfl
@[simp] theorem State.wrap_taskOps (s : State) (f : Fld) (n : Nat) : (s.wrap f n).taskOps = s.taskOps := rfl
@[simp] theorem State.wrap_bootHold (s : State) (f : Fld) (n : Nat) : (s.wrap f n).bootHold = s.bootHold := rfl
@[simp] theorem State.wrap_rises (s : State) (f : Fld) (n : Nat) : (s.wrap f n).rises = s.rises := rfl
@[simp] theorem State.wrap_resets (s : State) (f : Fld) (n : Nat) : (s.wrap f n).resets = s.resets := rfl
@[simp] theorem State.wrap_migs (s : State) (f : Fld) (n : Nat) : (s.wrap f n).migs = s.migs := rfl
@[simp] theorem State.wrap_lvrs (s : State) (f : Fld) (n : Nat) : (s.wrap f n).lvrs = s.lvrs := rfl
@[simp] theorem State.wrap_keys (s : State) (f : Fld) (n : Nat) : (s.wrap f n).keys = s.keys := rfl
@[simp] theorem State.wrap_tim (s : State) (f : Fld) (n : Nat) : (s.wrap f n).tim = s.tim := rfl
@[simp] theorem State.wrap_ports (s : State) (f : Fld) (n : Nat) : (s.wrap f n).ports = s.ports := rfl
@[simp] theorem State.wrap_trp (s : State) (f : Fld) (n : Nat) : (s.wrap f n).trp = s.trp := rfl
@[simp] theorem State.wrap_vbl (s : State) (f : Fld) (n : Nat) : (s.wrap f n).vbl = s.vbl := rfl
@[simp] theorem State.wrap_coll (s : State) (f : Fld) (n : Nat) : (s.wrap f n).coll = s.coll := rfl
@[simp] theorem State.wrap_evc (s : State) (f : Fld) (n : Nat) : (s.wrap f n).evc = s.evc := rfl
@[simp] theorem State.wrap_pwr (s : State) (f : Fld) (n : Nat) : (s.wrap f n).pwr = s.pwr := rfl
@[simp] theorem State.wrap_rel (s : State) (f : Fld) (n : Nat) : (s.wrap f n).rel = s.rel := rfl
@[simp] theorem State.wrap_svc (s : State) (f : Fld) (n : Nat) : (s.wrap f n).svc = s.svc := rfl
@[simp] theorem State.wrap_raised (s : State) (f : Fld) (n : Nat) : (s.wrap f n).raised = s.raised := rfl
@[simp] theorem State.wrap_lost (s : State) (f : Fld) (n : Nat) : (s.wrap f n).lost = s.lost := rfl
@[simp] theorem State.wrap_draws (s : State) (f : Fld) (n : Nat) : (s.wrap f n).draws = s.draws := rfl
@[simp] theorem State.wrap_ctrl_shadows (s : State) (f : Fld) (n : Nat) : (s.wrap f n).ctrl.shadows = s.ctrl.shadows := rfl
@[simp] theorem State.wrap_ctrl_staged (s : State) (f : Fld) (n : Nat) : (s.wrap f n).ctrl.staged = s.ctrl.staged := rfl

/-! ## State.emit -/

@[simp] theorem State.emit_pending (s : State) (o : Out) : (s.emit o).pending = s.pending := rfl
@[simp] theorem State.emit_tick (s : State) (o : Out) : (s.emit o).tick = s.tick := rfl
@[simp] theorem State.emit_ctrl (s : State) (o : Out) : (s.emit o).ctrl = s.ctrl := rfl
@[simp] theorem State.emit_mem (s : State) (o : Out) : (s.emit o).mem = s.mem := rfl
@[simp] theorem State.emit_mesh (s : State) (o : Out) : (s.emit o).mesh = s.mesh := rfl
@[simp] theorem State.emit_cores (s : State) (o : Out) : (s.emit o).cores = s.cores := rfl
@[simp] theorem State.emit_ctxs (s : State) (o : Out) : (s.emit o).ctxs = s.ctxs := rfl
@[simp] theorem State.emit_oldHandles (s : State) (o : Out) : (s.emit o).oldHandles = s.oldHandles := rfl
@[simp] theorem State.emit_taskOps (s : State) (o : Out) : (s.emit o).taskOps = s.taskOps := rfl
@[simp] theorem State.emit_bootHold (s : State) (o : Out) : (s.emit o).bootHold = s.bootHold := rfl
@[simp] theorem State.emit_rises (s : State) (o : Out) : (s.emit o).rises = s.rises := rfl
@[simp] theorem State.emit_resets (s : State) (o : Out) : (s.emit o).resets = s.resets := rfl
@[simp] theorem State.emit_migs (s : State) (o : Out) : (s.emit o).migs = s.migs := rfl
@[simp] theorem State.emit_lvrs (s : State) (o : Out) : (s.emit o).lvrs = s.lvrs := rfl
@[simp] theorem State.emit_keys (s : State) (o : Out) : (s.emit o).keys = s.keys := rfl
@[simp] theorem State.emit_tim (s : State) (o : Out) : (s.emit o).tim = s.tim := rfl
@[simp] theorem State.emit_ports (s : State) (o : Out) : (s.emit o).ports = s.ports := rfl
@[simp] theorem State.emit_trp (s : State) (o : Out) : (s.emit o).trp = s.trp := rfl
@[simp] theorem State.emit_vbl (s : State) (o : Out) : (s.emit o).vbl = s.vbl := rfl
@[simp] theorem State.emit_coll (s : State) (o : Out) : (s.emit o).coll = s.coll := rfl
@[simp] theorem State.emit_evc (s : State) (o : Out) : (s.emit o).evc = s.evc := rfl
@[simp] theorem State.emit_pwr (s : State) (o : Out) : (s.emit o).pwr = s.pwr := rfl
@[simp] theorem State.emit_rel (s : State) (o : Out) : (s.emit o).rel = s.rel := rfl
@[simp] theorem State.emit_svc (s : State) (o : Out) : (s.emit o).svc = s.svc := rfl
@[simp] theorem State.emit_raised (s : State) (o : Out) : (s.emit o).raised = s.raised := rfl
@[simp] theorem State.emit_lost (s : State) (o : Out) : (s.emit o).lost = s.lost := rfl
@[simp] theorem State.emit_draws (s : State) (o : Out) : (s.emit o).draws = s.draws := rfl
@[simp] theorem State.emit_out (s : State) (o : Out) : (s.emit o).out = s.out ++ [o] := rfl

/-! ## State.setCtx -/

@[simp] theorem State.setCtx_pending (s : State) (c : Nat) (x : Context) : (s.setCtx c x).pending = s.pending := rfl
@[simp] theorem State.setCtx_out (s : State) (c : Nat) (x : Context) : (s.setCtx c x).out = s.out := rfl
@[simp] theorem State.setCtx_tick (s : State) (c : Nat) (x : Context) : (s.setCtx c x).tick = s.tick := rfl
@[simp] theorem State.setCtx_ctrl (s : State) (c : Nat) (x : Context) : (s.setCtx c x).ctrl = s.ctrl := rfl
@[simp] theorem State.setCtx_mem (s : State) (c : Nat) (x : Context) : (s.setCtx c x).mem = s.mem := rfl
@[simp] theorem State.setCtx_mesh (s : State) (c : Nat) (x : Context) : (s.setCtx c x).mesh = s.mesh := rfl
@[simp] theorem State.setCtx_cores (s : State) (c : Nat) (x : Context) : (s.setCtx c x).cores = s.cores := rfl
@[simp] theorem State.setCtx_oldHandles (s : State) (c : Nat) (x : Context) : (s.setCtx c x).oldHandles = s.oldHandles := rfl
@[simp] theorem State.setCtx_taskOps (s : State) (c : Nat) (x : Context) : (s.setCtx c x).taskOps = s.taskOps := rfl
@[simp] theorem State.setCtx_bootHold (s : State) (c : Nat) (x : Context) : (s.setCtx c x).bootHold = s.bootHold := rfl
@[simp] theorem State.setCtx_rises (s : State) (c : Nat) (x : Context) : (s.setCtx c x).rises = s.rises := rfl
@[simp] theorem State.setCtx_resets (s : State) (c : Nat) (x : Context) : (s.setCtx c x).resets = s.resets := rfl
@[simp] theorem State.setCtx_migs (s : State) (c : Nat) (x : Context) : (s.setCtx c x).migs = s.migs := rfl
@[simp] theorem State.setCtx_lvrs (s : State) (c : Nat) (x : Context) : (s.setCtx c x).lvrs = s.lvrs := rfl
@[simp] theorem State.setCtx_keys (s : State) (c : Nat) (x : Context) : (s.setCtx c x).keys = s.keys := rfl
@[simp] theorem State.setCtx_tim (s : State) (c : Nat) (x : Context) : (s.setCtx c x).tim = s.tim := rfl
@[simp] theorem State.setCtx_ports (s : State) (c : Nat) (x : Context) : (s.setCtx c x).ports = s.ports := rfl
@[simp] theorem State.setCtx_trp (s : State) (c : Nat) (x : Context) : (s.setCtx c x).trp = s.trp := rfl
@[simp] theorem State.setCtx_vbl (s : State) (c : Nat) (x : Context) : (s.setCtx c x).vbl = s.vbl := rfl
@[simp] theorem State.setCtx_coll (s : State) (c : Nat) (x : Context) : (s.setCtx c x).coll = s.coll := rfl
@[simp] theorem State.setCtx_evc (s : State) (c : Nat) (x : Context) : (s.setCtx c x).evc = s.evc := rfl
@[simp] theorem State.setCtx_pwr (s : State) (c : Nat) (x : Context) : (s.setCtx c x).pwr = s.pwr := rfl
@[simp] theorem State.setCtx_rel (s : State) (c : Nat) (x : Context) : (s.setCtx c x).rel = s.rel := rfl
@[simp] theorem State.setCtx_svc (s : State) (c : Nat) (x : Context) : (s.setCtx c x).svc = s.svc := rfl
@[simp] theorem State.setCtx_raised (s : State) (c : Nat) (x : Context) : (s.setCtx c x).raised = s.raised := rfl
@[simp] theorem State.setCtx_lost (s : State) (c : Nat) (x : Context) : (s.setCtx c x).lost = s.lost := rfl
@[simp] theorem State.setCtx_draws (s : State) (c : Nat) (x : Context) : (s.setCtx c x).draws = s.draws := rfl
@[simp] theorem State.setCtx_ctxs (s : State) (c : Nat) (x : Context) : (s.setCtx c x).ctxs = SMap.putD s.ctxs c x .empty := rfl

/-! ## State.setTask -/

@[simp] theorem State.setTask_pending (s : State) (core slot : Nat) (t : Task) : (s.setTask core slot t).pending = s.pending := rfl
@[simp] theorem State.setTask_out (s : State) (core slot : Nat) (t : Task) : (s.setTask core slot t).out = s.out := rfl
@[simp] theorem State.setTask_tick (s : State) (core slot : Nat) (t : Task) : (s.setTask core slot t).tick = s.tick := rfl
@[simp] theorem State.setTask_ctrl (s : State) (core slot : Nat) (t : Task) : (s.setTask core slot t).ctrl = s.ctrl := rfl
@[simp] theorem State.setTask_mem (s : State) (core slot : Nat) (t : Task) : (s.setTask core slot t).mem = s.mem := rfl
@[simp] theorem State.setTask_mesh (s : State) (core slot : Nat) (t : Task) : (s.setTask core slot t).mesh = s.mesh := rfl
@[simp] theorem State.setTask_ctxs (s : State) (core slot : Nat) (t : Task) : (s.setTask core slot t).ctxs = s.ctxs := rfl
@[simp] theorem State.setTask_oldHandles (s : State) (core slot : Nat) (t : Task) : (s.setTask core slot t).oldHandles = s.oldHandles := rfl
@[simp] theorem State.setTask_taskOps (s : State) (core slot : Nat) (t : Task) : (s.setTask core slot t).taskOps = s.taskOps := rfl
@[simp] theorem State.setTask_bootHold (s : State) (core slot : Nat) (t : Task) : (s.setTask core slot t).bootHold = s.bootHold := rfl
@[simp] theorem State.setTask_rises (s : State) (core slot : Nat) (t : Task) : (s.setTask core slot t).rises = s.rises := rfl
@[simp] theorem State.setTask_resets (s : State) (core slot : Nat) (t : Task) : (s.setTask core slot t).resets = s.resets := rfl
@[simp] theorem State.setTask_migs (s : State) (core slot : Nat) (t : Task) : (s.setTask core slot t).migs = s.migs := rfl
@[simp] theorem State.setTask_lvrs (s : State) (core slot : Nat) (t : Task) : (s.setTask core slot t).lvrs = s.lvrs := rfl
@[simp] theorem State.setTask_keys (s : State) (core slot : Nat) (t : Task) : (s.setTask core slot t).keys = s.keys := rfl
@[simp] theorem State.setTask_tim (s : State) (core slot : Nat) (t : Task) : (s.setTask core slot t).tim = s.tim := rfl
@[simp] theorem State.setTask_ports (s : State) (core slot : Nat) (t : Task) : (s.setTask core slot t).ports = s.ports := rfl
@[simp] theorem State.setTask_trp (s : State) (core slot : Nat) (t : Task) : (s.setTask core slot t).trp = s.trp := rfl
@[simp] theorem State.setTask_vbl (s : State) (core slot : Nat) (t : Task) : (s.setTask core slot t).vbl = s.vbl := rfl
@[simp] theorem State.setTask_coll (s : State) (core slot : Nat) (t : Task) : (s.setTask core slot t).coll = s.coll := rfl
@[simp] theorem State.setTask_evc (s : State) (core slot : Nat) (t : Task) : (s.setTask core slot t).evc = s.evc := rfl
@[simp] theorem State.setTask_pwr (s : State) (core slot : Nat) (t : Task) : (s.setTask core slot t).pwr = s.pwr := rfl
@[simp] theorem State.setTask_rel (s : State) (core slot : Nat) (t : Task) : (s.setTask core slot t).rel = s.rel := rfl
@[simp] theorem State.setTask_svc (s : State) (core slot : Nat) (t : Task) : (s.setTask core slot t).svc = s.svc := rfl
@[simp] theorem State.setTask_raised (s : State) (core slot : Nat) (t : Task) : (s.setTask core slot t).raised = s.raised := rfl
@[simp] theorem State.setTask_lost (s : State) (core slot : Nat) (t : Task) : (s.setTask core slot t).lost = s.lost := rfl
@[simp] theorem State.setTask_draws (s : State) (core slot : Nat) (t : Task) : (s.setTask core slot t).draws = s.draws := rfl
@[simp] theorem State.setTask_tasks (s : State) (core slot : Nat) (t : Task) : (s.setTask core slot t).cores.tasks = SMap.put s.cores.tasks (taskKey core slot) t := rfl
@[simp] theorem State.setTask_eps (s : State) (core slot : Nat) (t : Task) : (s.setTask core slot t).cores.eps = s.cores.eps := rfl
@[simp] theorem State.setTask_groups (s : State) (core slot : Nat) (t : Task) : (s.setTask core slot t).cores.groups = s.cores.groups := rfl
@[simp] theorem State.setTask_credits (s : State) (core slot : Nat) (t : Task) : (s.setTask core slot t).cores.credits = s.cores.credits := rfl
@[simp] theorem State.setTask_buffers (s : State) (core slot : Nat) (t : Task) : (s.setTask core slot t).cores.buffers = s.cores.buffers := rfl
@[simp] theorem State.setTask_pools (s : State) (core slot : Nat) (t : Task) : (s.setTask core slot t).cores.pools = s.cores.pools := rfl
@[simp] theorem State.setTask_stageQueue (s : State) (core slot : Nat) (t : Task) : (s.setTask core slot t).cores.stageQueue = s.cores.stageQueue := rfl
@[simp] theorem State.setTask_merges (s : State) (core slot : Nat) (t : Task) : (s.setTask core slot t).cores.merges = s.cores.merges := rfl
@[simp] theorem State.setTask_lastIssue (s : State) (core slot : Nat) (t : Task) : (s.setTask core slot t).cores.lastIssue = s.cores.lastIssue := rfl
@[simp] theorem State.setTask_first (s : State) (core slot : Nat) (t : Task) : (s.setTask core slot t).cores.first = s.cores.first := rfl
@[simp] theorem State.setTask_held (s : State) (core slot : Nat) (t : Task) : (s.setTask core slot t).cores.held = s.cores.held := rfl
@[simp] theorem State.setTask_spent (s : State) (core slot : Nat) (t : Task) : (s.setTask core slot t).cores.spent = s.cores.spent := rfl

/-! ## State.dropTask -/

@[simp] theorem State.dropTask_pending (s : State) (core slot : Nat) : (s.dropTask core slot).pending = s.pending := rfl
@[simp] theorem State.dropTask_out (s : State) (core slot : Nat) : (s.dropTask core slot).out = s.out := rfl
@[simp] theorem State.dropTask_tick (s : State) (core slot : Nat) : (s.dropTask core slot).tick = s.tick := rfl
@[simp] theorem State.dropTask_ctrl (s : State) (core slot : Nat) : (s.dropTask core slot).ctrl = s.ctrl := rfl
@[simp] theorem State.dropTask_mem (s : State) (core slot : Nat) : (s.dropTask core slot).mem = s.mem := rfl
@[simp] theorem State.dropTask_mesh (s : State) (core slot : Nat) : (s.dropTask core slot).mesh = s.mesh := rfl
@[simp] theorem State.dropTask_ctxs (s : State) (core slot : Nat) : (s.dropTask core slot).ctxs = s.ctxs := rfl
@[simp] theorem State.dropTask_oldHandles (s : State) (core slot : Nat) : (s.dropTask core slot).oldHandles = s.oldHandles := rfl
@[simp] theorem State.dropTask_taskOps (s : State) (core slot : Nat) : (s.dropTask core slot).taskOps = s.taskOps := rfl
@[simp] theorem State.dropTask_bootHold (s : State) (core slot : Nat) : (s.dropTask core slot).bootHold = s.bootHold := rfl
@[simp] theorem State.dropTask_rises (s : State) (core slot : Nat) : (s.dropTask core slot).rises = s.rises := rfl
@[simp] theorem State.dropTask_resets (s : State) (core slot : Nat) : (s.dropTask core slot).resets = s.resets := rfl
@[simp] theorem State.dropTask_migs (s : State) (core slot : Nat) : (s.dropTask core slot).migs = s.migs := rfl
@[simp] theorem State.dropTask_lvrs (s : State) (core slot : Nat) : (s.dropTask core slot).lvrs = s.lvrs := rfl
@[simp] theorem State.dropTask_keys (s : State) (core slot : Nat) : (s.dropTask core slot).keys = s.keys := rfl
@[simp] theorem State.dropTask_tim (s : State) (core slot : Nat) : (s.dropTask core slot).tim = s.tim := rfl
@[simp] theorem State.dropTask_ports (s : State) (core slot : Nat) : (s.dropTask core slot).ports = s.ports := rfl
@[simp] theorem State.dropTask_trp (s : State) (core slot : Nat) : (s.dropTask core slot).trp = s.trp := rfl
@[simp] theorem State.dropTask_vbl (s : State) (core slot : Nat) : (s.dropTask core slot).vbl = s.vbl := rfl
@[simp] theorem State.dropTask_coll (s : State) (core slot : Nat) : (s.dropTask core slot).coll = s.coll := rfl
@[simp] theorem State.dropTask_evc (s : State) (core slot : Nat) : (s.dropTask core slot).evc = s.evc := rfl
@[simp] theorem State.dropTask_pwr (s : State) (core slot : Nat) : (s.dropTask core slot).pwr = s.pwr := rfl
@[simp] theorem State.dropTask_rel (s : State) (core slot : Nat) : (s.dropTask core slot).rel = s.rel := rfl
@[simp] theorem State.dropTask_svc (s : State) (core slot : Nat) : (s.dropTask core slot).svc = s.svc := rfl
@[simp] theorem State.dropTask_raised (s : State) (core slot : Nat) : (s.dropTask core slot).raised = s.raised := rfl
@[simp] theorem State.dropTask_lost (s : State) (core slot : Nat) : (s.dropTask core slot).lost = s.lost := rfl
@[simp] theorem State.dropTask_draws (s : State) (core slot : Nat) : (s.dropTask core slot).draws = s.draws := rfl
@[simp] theorem State.dropTask_tasks (s : State) (core slot : Nat) : (s.dropTask core slot).cores.tasks = SMap.del s.cores.tasks (taskKey core slot) := rfl
@[simp] theorem State.dropTask_eps (s : State) (core slot : Nat) : (s.dropTask core slot).cores.eps = s.cores.eps := rfl
@[simp] theorem State.dropTask_groups (s : State) (core slot : Nat) : (s.dropTask core slot).cores.groups = s.cores.groups := rfl
@[simp] theorem State.dropTask_credits (s : State) (core slot : Nat) : (s.dropTask core slot).cores.credits = s.cores.credits := rfl
@[simp] theorem State.dropTask_buffers (s : State) (core slot : Nat) : (s.dropTask core slot).cores.buffers = s.cores.buffers := rfl
@[simp] theorem State.dropTask_pools (s : State) (core slot : Nat) : (s.dropTask core slot).cores.pools = s.cores.pools := rfl
@[simp] theorem State.dropTask_stageQueue (s : State) (core slot : Nat) : (s.dropTask core slot).cores.stageQueue = s.cores.stageQueue := rfl
@[simp] theorem State.dropTask_merges (s : State) (core slot : Nat) : (s.dropTask core slot).cores.merges = s.cores.merges := rfl
@[simp] theorem State.dropTask_lastIssue (s : State) (core slot : Nat) : (s.dropTask core slot).cores.lastIssue = s.cores.lastIssue := rfl
@[simp] theorem State.dropTask_first (s : State) (core slot : Nat) : (s.dropTask core slot).cores.first = s.cores.first := rfl
@[simp] theorem State.dropTask_held (s : State) (core slot : Nat) : (s.dropTask core slot).cores.held = s.cores.held := rfl
@[simp] theorem State.dropTask_spent (s : State) (core slot : Nat) : (s.dropTask core slot).cores.spent = s.cores.spent := rfl

/-! ## State.setEp -/

@[simp] theorem State.setEp_pending (s : State) (k : Nat) (e : Endpoint) : (s.setEp k e).pending = s.pending := rfl
@[simp] theorem State.setEp_out (s : State) (k : Nat) (e : Endpoint) : (s.setEp k e).out = s.out := rfl
@[simp] theorem State.setEp_tick (s : State) (k : Nat) (e : Endpoint) : (s.setEp k e).tick = s.tick := rfl
@[simp] theorem State.setEp_ctrl (s : State) (k : Nat) (e : Endpoint) : (s.setEp k e).ctrl = s.ctrl := rfl
@[simp] theorem State.setEp_mem (s : State) (k : Nat) (e : Endpoint) : (s.setEp k e).mem = s.mem := rfl
@[simp] theorem State.setEp_mesh (s : State) (k : Nat) (e : Endpoint) : (s.setEp k e).mesh = s.mesh := rfl
@[simp] theorem State.setEp_ctxs (s : State) (k : Nat) (e : Endpoint) : (s.setEp k e).ctxs = s.ctxs := rfl
@[simp] theorem State.setEp_oldHandles (s : State) (k : Nat) (e : Endpoint) : (s.setEp k e).oldHandles = s.oldHandles := rfl
@[simp] theorem State.setEp_taskOps (s : State) (k : Nat) (e : Endpoint) : (s.setEp k e).taskOps = s.taskOps := rfl
@[simp] theorem State.setEp_bootHold (s : State) (k : Nat) (e : Endpoint) : (s.setEp k e).bootHold = s.bootHold := rfl
@[simp] theorem State.setEp_rises (s : State) (k : Nat) (e : Endpoint) : (s.setEp k e).rises = s.rises := rfl
@[simp] theorem State.setEp_resets (s : State) (k : Nat) (e : Endpoint) : (s.setEp k e).resets = s.resets := rfl
@[simp] theorem State.setEp_migs (s : State) (k : Nat) (e : Endpoint) : (s.setEp k e).migs = s.migs := rfl
@[simp] theorem State.setEp_lvrs (s : State) (k : Nat) (e : Endpoint) : (s.setEp k e).lvrs = s.lvrs := rfl
@[simp] theorem State.setEp_keys (s : State) (k : Nat) (e : Endpoint) : (s.setEp k e).keys = s.keys := rfl
@[simp] theorem State.setEp_tim (s : State) (k : Nat) (e : Endpoint) : (s.setEp k e).tim = s.tim := rfl
@[simp] theorem State.setEp_ports (s : State) (k : Nat) (e : Endpoint) : (s.setEp k e).ports = s.ports := rfl
@[simp] theorem State.setEp_trp (s : State) (k : Nat) (e : Endpoint) : (s.setEp k e).trp = s.trp := rfl
@[simp] theorem State.setEp_vbl (s : State) (k : Nat) (e : Endpoint) : (s.setEp k e).vbl = s.vbl := rfl
@[simp] theorem State.setEp_coll (s : State) (k : Nat) (e : Endpoint) : (s.setEp k e).coll = s.coll := rfl
@[simp] theorem State.setEp_evc (s : State) (k : Nat) (e : Endpoint) : (s.setEp k e).evc = s.evc := rfl
@[simp] theorem State.setEp_pwr (s : State) (k : Nat) (e : Endpoint) : (s.setEp k e).pwr = s.pwr := rfl
@[simp] theorem State.setEp_rel (s : State) (k : Nat) (e : Endpoint) : (s.setEp k e).rel = s.rel := rfl
@[simp] theorem State.setEp_svc (s : State) (k : Nat) (e : Endpoint) : (s.setEp k e).svc = s.svc := rfl
@[simp] theorem State.setEp_raised (s : State) (k : Nat) (e : Endpoint) : (s.setEp k e).raised = s.raised := rfl
@[simp] theorem State.setEp_lost (s : State) (k : Nat) (e : Endpoint) : (s.setEp k e).lost = s.lost := rfl
@[simp] theorem State.setEp_draws (s : State) (k : Nat) (e : Endpoint) : (s.setEp k e).draws = s.draws := rfl
@[simp] theorem State.setEp_tasks (s : State) (k : Nat) (e : Endpoint) : (s.setEp k e).cores.tasks = s.cores.tasks := rfl
@[simp] theorem State.setEp_eps (s : State) (k : Nat) (e : Endpoint) : (s.setEp k e).cores.eps = SMap.put s.cores.eps k e := rfl
@[simp] theorem State.setEp_groups (s : State) (k : Nat) (e : Endpoint) : (s.setEp k e).cores.groups = s.cores.groups := rfl
@[simp] theorem State.setEp_credits (s : State) (k : Nat) (e : Endpoint) : (s.setEp k e).cores.credits = s.cores.credits := rfl
@[simp] theorem State.setEp_buffers (s : State) (k : Nat) (e : Endpoint) : (s.setEp k e).cores.buffers = s.cores.buffers := rfl
@[simp] theorem State.setEp_pools (s : State) (k : Nat) (e : Endpoint) : (s.setEp k e).cores.pools = s.cores.pools := rfl
@[simp] theorem State.setEp_stageQueue (s : State) (k : Nat) (e : Endpoint) : (s.setEp k e).cores.stageQueue = s.cores.stageQueue := rfl
@[simp] theorem State.setEp_merges (s : State) (k : Nat) (e : Endpoint) : (s.setEp k e).cores.merges = s.cores.merges := rfl
@[simp] theorem State.setEp_lastIssue (s : State) (k : Nat) (e : Endpoint) : (s.setEp k e).cores.lastIssue = s.cores.lastIssue := rfl
@[simp] theorem State.setEp_first (s : State) (k : Nat) (e : Endpoint) : (s.setEp k e).cores.first = s.cores.first := rfl
@[simp] theorem State.setEp_held (s : State) (k : Nat) (e : Endpoint) : (s.setEp k e).cores.held = s.cores.held := rfl
@[simp] theorem State.setEp_spent (s : State) (k : Nat) (e : Endpoint) : (s.setEp k e).cores.spent = s.cores.spent := rfl

/-! ## State.setPool -/

@[simp] theorem State.setPool_pending (s : State) (core c : Nat) (p : Pool) : (s.setPool core c p).pending = s.pending := rfl
@[simp] theorem State.setPool_out (s : State) (core c : Nat) (p : Pool) : (s.setPool core c p).out = s.out := rfl
@[simp] theorem State.setPool_tick (s : State) (core c : Nat) (p : Pool) : (s.setPool core c p).tick = s.tick := rfl
@[simp] theorem State.setPool_ctrl (s : State) (core c : Nat) (p : Pool) : (s.setPool core c p).ctrl = s.ctrl := rfl
@[simp] theorem State.setPool_mem (s : State) (core c : Nat) (p : Pool) : (s.setPool core c p).mem = s.mem := rfl
@[simp] theorem State.setPool_mesh (s : State) (core c : Nat) (p : Pool) : (s.setPool core c p).mesh = s.mesh := rfl
@[simp] theorem State.setPool_ctxs (s : State) (core c : Nat) (p : Pool) : (s.setPool core c p).ctxs = s.ctxs := rfl
@[simp] theorem State.setPool_oldHandles (s : State) (core c : Nat) (p : Pool) : (s.setPool core c p).oldHandles = s.oldHandles := rfl
@[simp] theorem State.setPool_taskOps (s : State) (core c : Nat) (p : Pool) : (s.setPool core c p).taskOps = s.taskOps := rfl
@[simp] theorem State.setPool_bootHold (s : State) (core c : Nat) (p : Pool) : (s.setPool core c p).bootHold = s.bootHold := rfl
@[simp] theorem State.setPool_rises (s : State) (core c : Nat) (p : Pool) : (s.setPool core c p).rises = s.rises := rfl
@[simp] theorem State.setPool_resets (s : State) (core c : Nat) (p : Pool) : (s.setPool core c p).resets = s.resets := rfl
@[simp] theorem State.setPool_migs (s : State) (core c : Nat) (p : Pool) : (s.setPool core c p).migs = s.migs := rfl
@[simp] theorem State.setPool_lvrs (s : State) (core c : Nat) (p : Pool) : (s.setPool core c p).lvrs = s.lvrs := rfl
@[simp] theorem State.setPool_keys (s : State) (core c : Nat) (p : Pool) : (s.setPool core c p).keys = s.keys := rfl
@[simp] theorem State.setPool_tim (s : State) (core c : Nat) (p : Pool) : (s.setPool core c p).tim = s.tim := rfl
@[simp] theorem State.setPool_ports (s : State) (core c : Nat) (p : Pool) : (s.setPool core c p).ports = s.ports := rfl
@[simp] theorem State.setPool_trp (s : State) (core c : Nat) (p : Pool) : (s.setPool core c p).trp = s.trp := rfl
@[simp] theorem State.setPool_vbl (s : State) (core c : Nat) (p : Pool) : (s.setPool core c p).vbl = s.vbl := rfl
@[simp] theorem State.setPool_coll (s : State) (core c : Nat) (p : Pool) : (s.setPool core c p).coll = s.coll := rfl
@[simp] theorem State.setPool_evc (s : State) (core c : Nat) (p : Pool) : (s.setPool core c p).evc = s.evc := rfl
@[simp] theorem State.setPool_pwr (s : State) (core c : Nat) (p : Pool) : (s.setPool core c p).pwr = s.pwr := rfl
@[simp] theorem State.setPool_rel (s : State) (core c : Nat) (p : Pool) : (s.setPool core c p).rel = s.rel := rfl
@[simp] theorem State.setPool_svc (s : State) (core c : Nat) (p : Pool) : (s.setPool core c p).svc = s.svc := rfl
@[simp] theorem State.setPool_raised (s : State) (core c : Nat) (p : Pool) : (s.setPool core c p).raised = s.raised := rfl
@[simp] theorem State.setPool_lost (s : State) (core c : Nat) (p : Pool) : (s.setPool core c p).lost = s.lost := rfl
@[simp] theorem State.setPool_draws (s : State) (core c : Nat) (p : Pool) : (s.setPool core c p).draws = s.draws := rfl
@[simp] theorem State.setPool_tasks (s : State) (core c : Nat) (p : Pool) : (s.setPool core c p).cores.tasks = s.cores.tasks := rfl
@[simp] theorem State.setPool_eps (s : State) (core c : Nat) (p : Pool) : (s.setPool core c p).cores.eps = s.cores.eps := rfl
@[simp] theorem State.setPool_groups (s : State) (core c : Nat) (p : Pool) : (s.setPool core c p).cores.groups = s.cores.groups := rfl
@[simp] theorem State.setPool_credits (s : State) (core c : Nat) (p : Pool) : (s.setPool core c p).cores.credits = s.cores.credits := rfl
@[simp] theorem State.setPool_buffers (s : State) (core c : Nat) (p : Pool) : (s.setPool core c p).cores.buffers = s.cores.buffers := rfl
@[simp] theorem State.setPool_pools (s : State) (core c : Nat) (p : Pool) : (s.setPool core c p).cores.pools = SMap.putD s.cores.pools (poolKey core c) p ⟨[], []⟩ := rfl
@[simp] theorem State.setPool_stageQueue (s : State) (core c : Nat) (p : Pool) : (s.setPool core c p).cores.stageQueue = s.cores.stageQueue := rfl
@[simp] theorem State.setPool_merges (s : State) (core c : Nat) (p : Pool) : (s.setPool core c p).cores.merges = s.cores.merges := rfl
@[simp] theorem State.setPool_lastIssue (s : State) (core c : Nat) (p : Pool) : (s.setPool core c p).cores.lastIssue = s.cores.lastIssue := rfl
@[simp] theorem State.setPool_first (s : State) (core c : Nat) (p : Pool) : (s.setPool core c p).cores.first = s.cores.first := rfl
@[simp] theorem State.setPool_held (s : State) (core c : Nat) (p : Pool) : (s.setPool core c p).cores.held = s.cores.held := rfl
@[simp] theorem State.setPool_spent (s : State) (core c : Nat) (p : Pool) : (s.setPool core c p).cores.spent = s.cores.spent := rfl

/-! ## State.closeBatches -/

@[simp] theorem State.closeBatches_pending (s : State) (core slot : Nat) : (s.closeBatches core slot).pending = s.pending := rfl
@[simp] theorem State.closeBatches_out (s : State) (core slot : Nat) : (s.closeBatches core slot).out = s.out := rfl
@[simp] theorem State.closeBatches_tick (s : State) (core slot : Nat) : (s.closeBatches core slot).tick = s.tick := rfl
@[simp] theorem State.closeBatches_ctrl (s : State) (core slot : Nat) : (s.closeBatches core slot).ctrl = s.ctrl := rfl
@[simp] theorem State.closeBatches_mem (s : State) (core slot : Nat) : (s.closeBatches core slot).mem = s.mem := rfl
@[simp] theorem State.closeBatches_mesh (s : State) (core slot : Nat) : (s.closeBatches core slot).mesh = s.mesh := rfl
@[simp] theorem State.closeBatches_cores (s : State) (core slot : Nat) : (s.closeBatches core slot).cores = s.cores := rfl
@[simp] theorem State.closeBatches_ctxs (s : State) (core slot : Nat) : (s.closeBatches core slot).ctxs = s.ctxs := rfl
@[simp] theorem State.closeBatches_oldHandles (s : State) (core slot : Nat) : (s.closeBatches core slot).oldHandles = s.oldHandles := rfl
@[simp] theorem State.closeBatches_taskOps (s : State) (core slot : Nat) : (s.closeBatches core slot).taskOps = s.taskOps := rfl
@[simp] theorem State.closeBatches_bootHold (s : State) (core slot : Nat) : (s.closeBatches core slot).bootHold = s.bootHold := rfl
@[simp] theorem State.closeBatches_rises (s : State) (core slot : Nat) : (s.closeBatches core slot).rises = s.rises := rfl
@[simp] theorem State.closeBatches_resets (s : State) (core slot : Nat) : (s.closeBatches core slot).resets = s.resets := rfl
@[simp] theorem State.closeBatches_migs (s : State) (core slot : Nat) : (s.closeBatches core slot).migs = s.migs := rfl
@[simp] theorem State.closeBatches_lvrs (s : State) (core slot : Nat) : (s.closeBatches core slot).lvrs = s.lvrs := rfl
@[simp] theorem State.closeBatches_keys (s : State) (core slot : Nat) : (s.closeBatches core slot).keys = s.keys := rfl
@[simp] theorem State.closeBatches_tim (s : State) (core slot : Nat) : (s.closeBatches core slot).tim = s.tim := rfl
@[simp] theorem State.closeBatches_ports (s : State) (core slot : Nat) : (s.closeBatches core slot).ports = s.ports := rfl
@[simp] theorem State.closeBatches_trp (s : State) (core slot : Nat) : (s.closeBatches core slot).trp = s.trp := rfl
@[simp] theorem State.closeBatches_coll (s : State) (core slot : Nat) : (s.closeBatches core slot).coll = s.coll := rfl
@[simp] theorem State.closeBatches_evc (s : State) (core slot : Nat) : (s.closeBatches core slot).evc = s.evc := rfl
@[simp] theorem State.closeBatches_pwr (s : State) (core slot : Nat) : (s.closeBatches core slot).pwr = s.pwr := rfl
@[simp] theorem State.closeBatches_rel (s : State) (core slot : Nat) : (s.closeBatches core slot).rel = s.rel := rfl
@[simp] theorem State.closeBatches_svc (s : State) (core slot : Nat) : (s.closeBatches core slot).svc = s.svc := rfl
@[simp] theorem State.closeBatches_raised (s : State) (core slot : Nat) : (s.closeBatches core slot).raised = s.raised := rfl
@[simp] theorem State.closeBatches_lost (s : State) (core slot : Nat) : (s.closeBatches core slot).lost = s.lost := rfl
@[simp] theorem State.closeBatches_draws (s : State) (core slot : Nat) : (s.closeBatches core slot).draws = s.draws := rfl

/-! ## State.setEvq -/

@[simp] theorem State.setEvq_pending (s : State) (q : Nat) (x : EvcQ) : (s.setEvq q x).pending = s.pending := rfl
@[simp] theorem State.setEvq_out (s : State) (q : Nat) (x : EvcQ) : (s.setEvq q x).out = s.out := rfl
@[simp] theorem State.setEvq_tick (s : State) (q : Nat) (x : EvcQ) : (s.setEvq q x).tick = s.tick := rfl
@[simp] theorem State.setEvq_ctrl (s : State) (q : Nat) (x : EvcQ) : (s.setEvq q x).ctrl = s.ctrl := rfl
@[simp] theorem State.setEvq_mem (s : State) (q : Nat) (x : EvcQ) : (s.setEvq q x).mem = s.mem := rfl
@[simp] theorem State.setEvq_mesh (s : State) (q : Nat) (x : EvcQ) : (s.setEvq q x).mesh = s.mesh := rfl
@[simp] theorem State.setEvq_cores (s : State) (q : Nat) (x : EvcQ) : (s.setEvq q x).cores = s.cores := rfl
@[simp] theorem State.setEvq_ctxs (s : State) (q : Nat) (x : EvcQ) : (s.setEvq q x).ctxs = s.ctxs := rfl
@[simp] theorem State.setEvq_oldHandles (s : State) (q : Nat) (x : EvcQ) : (s.setEvq q x).oldHandles = s.oldHandles := rfl
@[simp] theorem State.setEvq_taskOps (s : State) (q : Nat) (x : EvcQ) : (s.setEvq q x).taskOps = s.taskOps := rfl
@[simp] theorem State.setEvq_bootHold (s : State) (q : Nat) (x : EvcQ) : (s.setEvq q x).bootHold = s.bootHold := rfl
@[simp] theorem State.setEvq_rises (s : State) (q : Nat) (x : EvcQ) : (s.setEvq q x).rises = s.rises := rfl
@[simp] theorem State.setEvq_resets (s : State) (q : Nat) (x : EvcQ) : (s.setEvq q x).resets = s.resets := rfl
@[simp] theorem State.setEvq_migs (s : State) (q : Nat) (x : EvcQ) : (s.setEvq q x).migs = s.migs := rfl
@[simp] theorem State.setEvq_lvrs (s : State) (q : Nat) (x : EvcQ) : (s.setEvq q x).lvrs = s.lvrs := rfl
@[simp] theorem State.setEvq_keys (s : State) (q : Nat) (x : EvcQ) : (s.setEvq q x).keys = s.keys := rfl
@[simp] theorem State.setEvq_tim (s : State) (q : Nat) (x : EvcQ) : (s.setEvq q x).tim = s.tim := rfl
@[simp] theorem State.setEvq_ports (s : State) (q : Nat) (x : EvcQ) : (s.setEvq q x).ports = s.ports := rfl
@[simp] theorem State.setEvq_trp (s : State) (q : Nat) (x : EvcQ) : (s.setEvq q x).trp = s.trp := rfl
@[simp] theorem State.setEvq_vbl (s : State) (q : Nat) (x : EvcQ) : (s.setEvq q x).vbl = s.vbl := rfl
@[simp] theorem State.setEvq_coll (s : State) (q : Nat) (x : EvcQ) : (s.setEvq q x).coll = s.coll := rfl
@[simp] theorem State.setEvq_pwr (s : State) (q : Nat) (x : EvcQ) : (s.setEvq q x).pwr = s.pwr := rfl
@[simp] theorem State.setEvq_rel (s : State) (q : Nat) (x : EvcQ) : (s.setEvq q x).rel = s.rel := rfl
@[simp] theorem State.setEvq_svc (s : State) (q : Nat) (x : EvcQ) : (s.setEvq q x).svc = s.svc := rfl
@[simp] theorem State.setEvq_raised (s : State) (q : Nat) (x : EvcQ) : (s.setEvq q x).raised = s.raised := rfl
@[simp] theorem State.setEvq_lost (s : State) (q : Nat) (x : EvcQ) : (s.setEvq q x).lost = s.lost := rfl
@[simp] theorem State.setEvq_draws (s : State) (q : Nat) (x : EvcQ) : (s.setEvq q x).draws = s.draws := rfl
@[simp] theorem State.setEvq_qs (s : State) (q : Nat) (x : EvcQ) : (s.setEvq q x).evc.qs = SMap.putD s.evc.qs q x .empty := rfl
@[simp] theorem State.setEvq_inner (s : State) (q : Nat) (x : EvcQ) : (s.setEvq q x).evc.inner = s.evc.inner := rfl
@[simp] theorem State.setEvq_levels (s : State) (q : Nat) (x : EvcQ) : (s.setEvq q x).evc.levels = s.evc.levels := rfl
@[simp] theorem State.setEvq_alarms (s : State) (q : Nat) (x : EvcQ) : (s.setEvq q x).evc.alarms = s.evc.alarms := rfl

end Sys2Proof.Machine
end

