-- ==== Sys2Proof/Tests/Slice0.lean ====
section
/-!
SUPPORT. Tests of single steps on small states, and for each statement states and operands that meet the hypotheses of each of its clauses.
-/
namespace Sys2Proof.Tests
open Sys2Proof Sys2Proof.Machine
set_option Elab.async false
set_option maxRecDepth 20000
set_option linter.unusedVariables false

/-! ## Small states -/
/-- Every conjunct of `Executes`, as one value. -/
def executesB (sp : OpSpec) (i : Issue) (s : State) (t : Task) : Bool :=
  s.task? i.core i.slot == some t && t.run.isNone && s.hasTurn i.core i.slot && !s.pcBad t.ctx t.pc.toNat sp.ext &&
    (wordExt (issueBits i sp.op) == sp.ext) && sp.rsvd (issueBits i sp.op) i.ext.toNat && sp.enum (issueBits i sp.op) i.ext.toNat &&
    !t.predPoison (wordPred (issueBits i sp.op)) && (t.pred (wordPred (issueBits i sp.op)) == !wordPneg (issueBits i sp.op))

theorem executes_of (sp : OpSpec) (i : Issue) (s : State) (t : Task) (h : executesB sp i s t = true) : Executes sp i s t := by
  simp only [executesB, Bool.and_eq_true, beq_iff_eq, Option.isNone_iff_eq_none, Bool.not_eq_true'] at h
  obtain ⟨⟨⟨⟨⟨⟨⟨⟨h1, h2⟩, h3⟩, h4⟩, h5⟩, h6⟩, h7⟩, h8⟩, h9⟩ := h
  exact ⟨⟨h1, h2, h3⟩, h4, h5, h6, h7, h8, h9⟩

/-- A task of context 0 at PC 0x1000001000 of core 0, slot 0, with some registers, and two tiles of accumulator. -/
def tTask : Task :=
  { Task.start 0 0 0 0 2 0x1000001000 5#64 [] with
    s := [(0, 5#64), (1, 7#64), (2, 0x2000#64), (3, 0x4000000000003000#64)] }

/-- Context 0 with one core-unit on core 0, its code at byte 4,096 of T1. -/
def tCtx : Context :=
  { Context.empty with
    members := [⟨0, 0, 0, 0, 0x10000, 0x10000, [], 0⟩]
    codeBase := 0x1000001000
    codeLen := 64 }

/-- A locked module with context 0 RUNNING and one task. -/
def tState : State :=
  { ((State.reset.put (Fld.ctxStatusState 0) 3).put Fld.timStatusPllLock 1).setCtx 0 tCtx with
    cores.tasks := [(0, tTask)] }

/-- An instruction of slot 0 of core 0. -/
def tWord (body : Nat) (ext : Nat := 0) : Issue := ⟨0, 0, BitVec.ofNat 56 body, BitVec.ofNat 64 ext⟩

/-- A word of an opcode: the format fields, the extension bit and the bits that its row asks for, and 0 elsewhere. -/
def tBody (op : Nat) : Nat :=
  if op = 0x0E then 2 ^ 50
  else if op = 0x1B || op = 0x18 || op = 0x19 || (0x20 ≤ op && op ≤ 0x24) then 2 ^ 49
  else if op = 0x30 then 2 ^ 28 + 2 ^ 24
  else if op = 0x31 then 2 ^ 50 + 2 ^ 28 + 2 ^ 24
  else if op = 0x32 then 2 ^ 50 + 2 ^ 28
  else if op = 0x60 || op = 0x61 || op = 0x65 then 2 ^ 28 + 2 ^ 20
  else if op = 0x62 then 2 ^ 20
  else if op = 0x63 || op = 0x64 then 2 ^ 50 + 2 ^ 28 + 2 ^ 24 + 2 ^ 20
  else if op = 0x90 then 2 ^ 50 + 2 ^ 28 + 2 ^ 20
  else 0

/-- A task whose descriptors 1 and 2 name FP32 operands of one element in T0, and 3 and 4 BF16 ones. -/
def tTensor : Task :=
  { tTask with t := [(1, BitVec.ofNat 512 (0x4000 + 2 ^ 64 + 2 ^ 96 + 1 * 2 ^ 256)), (2, BitVec.ofNat 512 (0x5000 + 2 ^ 64 + 2 ^ 96 + 1 * 2 ^ 256)),
      (3, BitVec.ofNat 512 (0x6000 + 2 ^ 64 + 2 ^ 96 + 3 * 2 ^ 256)), (4, BitVec.ofNat 512 (0x7000 + 2 ^ 64 + 2 ^ 96 + 3 * 2 ^ 256))] }

def tTensors : State := { tState with cores.tasks := [(0, tTensor)] }
/-- `tState` with another task. -/
def tWith (t : Task) : State := { tState with cores.tasks := [(0, t)] }
def tVec : Task := { tTask with
  v := [(1, BitVec.ofNat 32768 (0x3F800000 + 0x40000000 * 2 ^ 32 + 0xFF800000 * 2 ^ 64 + 0x7FC00000 * 2^96 + 0xC0000000*2^128 + 1 * 2^160 + 0x3f800001 * 2 ^ 32736)),
        (2, BitVec.ofNat 32768 (0x3F800000 + 0xBF800000 * 2 ^ 32 + 0x7F800000 * 2 ^ 64 + 0x40490FDB * 2^96 + 0xFFFFFFFF * 2^160 + 0x7F000000 * 2^ 512)),
        (3, BitVec.ofNat 32768 (0x3F800000 * 2 ^ 32 + 5 * 2 ^ 64))],
  vPoison := [(1, 2#64), (2, 0x8000000000000000#64)] }
def tVecs : State := tWith tVec
/-- A descriptor of a memory operand. -/
def tDesc (base rows cols fmt : Nat) (side : Nat := 0) : BitVec 512 :=
  BitVec.ofNat 512 (base + rows * 2 ^ 64 + cols * 2 ^ 96 + side * 2 ^ 192 + fmt * 2 ^ 256)
def tMany : Task := { tTask with t := [(1, tDesc 0x4000 1 1 1), (2, tDesc 0x5000 1 1 1), (3, tDesc 0x6000 1 1 3), (4, tDesc 0x7000 1 1 3), (5, tDesc 0x8000 1 1 11),
   (6, tDesc 0x9000 1 3 11), (7, tDesc 0xA000 1 1 11), (8, tDesc 0x1000002000 1 1 13 0x1000003000)] }
def tManys : State := tWith tMany
/-- Set fields, in turn. -/
def puts (s : State) (l : List (Fld × Nat)) : State := l.foldl (fun s p => s.put p.1 p.2) s
def tEp : Endpoint := ⟨0, 0, 0, 0, 0, [], [], [], [], none, 0, 0, [], [], 0, [], 0, none, 0, 0, 0⟩
/-- Endpoints of context 0 on core 0: 1 inbound with 2 tiles received and 1 taken of a ring of 4, 2 outbound to it, 3 outbound and injecting. -/
def tUnit : UnitNode := ⟨9, false, false, 1, 1, 1, none, 0, 0, 0, 1, some 0, (0, 0, 0), 0, none⟩
def tCtxU : Context := { tCtx with units := [tUnit] }
def tStrTask : Task := { tTask with h := [(0, BitVec.ofNat 64 (9 + 2^32)), (1, BitVec.ofNat 64 (9 + 2*2^32 + 2^40)), (2, BitVec.ofNat 64 (9 + 3*2^32+2^40))] }
def tStr : State :=
  { puts (tState.setCtx 0 tCtxU) [(Fld.strCfgEn 1, 1), (Fld.strRingLen 1, 3), (Fld.strRingBase 1, 3), (Fld.strCfgEn 2, 1), (Fld.strCfgDir 2, 1),
      (Fld.strCfgEn 3, 1), (Fld.strCfgDir 3, 1), (Fld.strCfgInj 3, 1)] with
    cores.tasks := [(0, tStrTask)]
    cores.eps := [(1, { tEp with filled := 2, taken := 1, carried := 3 }), (2, { tEp with peers := [.here 1], route := [[0]], used := [3], carried := 3 }), (3, { tEp with peers := [.here 1], route := [[0]], used := [0] })] }
def tStr0 : State := { tStr with
    cores.eps := [(1, { tEp with filled := 0, taken := 1, carried := 1 }), (2, { tEp with peers := [.here 1], route := [[0]], used := [1], carried := 1 }), (3, { tEp with peers := [.here 1], route := [[0]], used := [0] })] }
/-- The slots of pane 0 are served, stops 0 and 1 are up, and their route entries lead to each other. -/
def up (s : State) : State :=
  let s := puts (s.wr (Reg.pswMap 0) 0x3210) [(Fld.netLinkOut 0, 0), (Fld.netLinkOut 1, 0)]
  let rt (s : State) (n w : Nat) : State := s.wr (Reg.netRt (128 * n)) (s.rd (Reg.netRt (128 * n)) / 2 ^ 16 * 2 ^ 16 + w)
  rt (rt s 0 0x100) 1 0x2
/-- A stop, at first that of the service controller, has a path to a stop. -/
def way (s : State) (d : Nat) (src : Nat := 128) : State :=
  let r := Reg.netRt (128 * src + d / 4)
  let k := 256 ^ (d % 4)
  s.wr r (s.rd r - s.rd r / k % 256 * k)
/-- Stops are in service, with that of the service controller and its paths to them. -/
def stops (l : List Nat) (s : State) : State := puts (l.foldl (fun s d => way s d) s) ((l ++ [128]).map fun d => (Fld.netLinkOut d, 0))
def tOn : State := stops [119] (up tState)
/-- Little-endian numbers in the memory of context 0: address, bytes, value. -/
def memPut (l : List (Nat × Nat × Nat)) (s : State) : State :=
  l.foldl (fun s p => { s with mem := s.mem.store (s.key 0 p.1) (leBytes p.2.1 p.2.2) fun _ => false }) s

/-- The value of an option that holds one. -/
def pickO {α : Type} (o : Option α) (h : o.isSome = true) : α := o.get h
theorem pickO_eq {α : Type} (o : Option α) (h : o.isSome = true) : o = some (pickO o h) := by simp [pickO]
/-- A check that answers. -/
def isOk {ε α : Type} : Except ε α → Bool
  | .ok _ => true
  | .error _ => false
/-- The answer of a check that answers. -/
def pickOk {ε α : Type} : (o : Except ε α) → isOk o = true → α
  | .ok a, _ => a
  | .error _, h => nomatch h
theorem pickOk_eq {ε α : Type} (o : Except ε α) (h : isOk o = true) : o = .ok (pickOk o h) := by
  cases o with
  | ok a => rfl
  | error e => cases h
/-- A check answers a given value. -/
def okIs {ε α : Type} [DecidableEq α] (a : α) : Except ε α → Bool
  | .ok b => b = a
  | .error _ => false
theorem okIs_eq {ε α : Type} [DecidableEq α] {o : Except ε α} {a : α} (h : okIs a o = true) : o = .ok a := by
  cases o with
  | ok b => simp [okIs] at h; rw [h]
  | error e => cases h
/-- A check fails. -/
def isErr {ε α : Type} : Except ε α → Bool
  | .ok _ => false
  | .error _ => true
/-- The error of a check that fails. -/
def pickErr {ε α : Type} : (o : Except ε α) → isErr o = true → ε
  | .error e, _ => e
  | .ok _, h => nomatch h
theorem pickErr_eq {ε α : Type} (o : Except ε α) (h : isErr o = true) : o = .error (pickErr o h) := by
  cases o with
  | ok a => cases h
  | error e => rfl
theorem pathPort_one {s : State} {src dst cls p : Nat} (h : s.pathPorts dst = [p]) : s.pathPort src dst cls = some p := by
  simp [State.pathPort, h, Nat.mod_one]
theorem cached_replicate (s : State) (m : RxMsg) (e : Reply1) (n : Nat) (h : (e.mid == m.mid) = false) :
    ({ s with vbl.cache := List.replicate n e } : State).cached m = none := by
  simp [State.cached, h]
theorem cacheFull_replicate (s : State) (e : Reply1) (n : Nat) (h : s.tick < e.since + cacheTicks) (h2 : cacheLimit ≤ n) :
    ({ s with vbl.cache := List.replicate n e } : State).cacheFull = true := by
  simp [State.cacheFull, h, h2]
theorem storeRoom (s : State) (h : (s.newest.all fun p => p.2.seq < 0xFFFFFFFF) = true) :
    ∀ k r, s.newest = some (k, r) → r.seq < 0xFFFFFFFF := by
  intro k r e
  simpa [e] using h
theorem okUnit {ε : Type} {o : Except ε Unit} (h : isOk o = true) : o = .ok () := by
  cases o with
  | ok a => rfl
  | error e => cases h

namespace Vectors
def wr1 := tWord (1*2^37+16)
end Vectors

namespace Tensors
def wCsr := tWord (2^50 + 3*2^37 + 4*2^32 + 3*2^28 + 3*2^24) (5*2^59+6*2^54)
def wSpv := tWord (2^50 + 7*2^42 + 3*2^37 + 3*2^28) (5*2^59+6*2^54)
def wGat := tWord (2^50 + 4*2^42 + 3*2^37 + 5*2^32+ 3*2^28+11*2^24+3*2^20 + 6) (8*2^59+7*2^54 + 9*2^48)
def wSca := tWord (2^50 + 4*2^42 + 3*2^37 + 5*2^32+ 3*2^28+11*2^24+3*2^20) (9*2^48)
def wMma := tWord (3*2^28+3*2^24+3*2^37+4*2^32)
def wCvt := tWord (2^28+2^20+1*2^37+2*2^42)
def wOut := tWord (2^28+2^20+2*2^42)
def wFill := tWord (2^20+2*2^42)
def tRun : Task := { tMany with run := some ⟨BitVec.ofNat 64 (0x62*2^56 + 2^20+2*2^42), 0, 1, 0, none⟩ }
def tRun2 : Task := { tMany with run := some ⟨BitVec.ofNat 64 (0x62*2^56 + 2^20+2*2^42), 0, 2, 0, none⟩ }
end Tensors

namespace Streams
def sa2 := tWord (1*2^46 + 2*2^40 + 1)
def tBuf : State := { tState with cores.buffers := [⟨0,0,false,0x8000,.free,5⟩, ⟨0,0,false,0x9000,.free,6⟩,⟨0,0,true,0x2000,.slot 0,0xfff⟩] }
def tTok (n : Nat) : Task := { tTask with s := [(1, BitVec.ofNat 64 n)] }
end Streams

namespace Sends
def tGrp : Group := ⟨some 2, 0, .ring 1, 0, some 0, 0, false, 1, 0, false, some (List.replicate 4096 5), [3]⟩
def land0 : State := puts (up tStr0) [(Fld.shtRectValid 0, 1), (Fld.shtRectX1 0, 1)]
def tLand : State := { land0 with cores.groups := [tGrp] , cores.eps := [(1, { tEp with filled := 0, taken := 1, carried := 1, tail := 1 }), (2, { tEp with peers := [.here 1], route := [[0]], used := [2], carried := 2 })]}
def tShut : State := { tLand with cores.groups := [{ tGrp with part := some 1 }] }
def tRem : State := { puts tLand [(Fld.strPeerRemote 1, 1), (Fld.strPeerRemote 2, 1)] with cores.eps := [(1, { tEp with filled := 0, taken := 1, carried := 1, tail := 1 }), (2, { tEp with peers := [.away 8], route := [[0]], landedFar := [0], used := [2], carried := 5 })] }
def tCrd : State := { tLand with cores.credits := [⟨1, 2, 1⟩] }
def closed : State := { tCrd with cores.credits := [⟨1, 2, 1⟩], rel.moving := [(0, (0, 5, 0))] }
end Sends

namespace Waits
def tWait (w : Wait) : Task := { tStrTask with state := .waiting, wait := some w }
def strW (w : Wait) : State := { tStr0 with cores.tasks := [(0, tWait w)] }
def dec0 : TaskDecl := ⟨0, 0, 0, 0, 0, true, 0x1000001000, 5#64, 0, 2, [], 0x1000010000, .live, 0, []⟩
def cas : UnitNode := ⟨10, true, false, 1, 1, 1, none, 0, 0, 0, 1, none, (0,0,0), 2, none⟩
def tC2 (t : Task) (d : TaskDecl) (f : Context → Context := id) : State :=
  { tStr0.setCtx 0 (f { tCtxU with units := [cas, tUnit], tasks := [d], members := [⟨0, 0, 0, 0, 0x10000, 0x100000, [], 0⟩] }) with cores.tasks := [(0, t)], cores.eps := [] }
def poolS : State := { (tC2 (tWait (.tiles [(0x20000001000, false)])) dec0) with cores.pools := [(0, ⟨[⟨0x20000001000, 0, [], [0], true, false⟩], []⟩)] }
def poolC : State := { poolS with cores.tasks := [(0, { tWait (.tiles [(0x20000001000, false)]) with causes := 2 })] }
def tS10 (n : Nat) : Task := { tStrTask with s := [(1, BitVec.ofNat 64 n)] }
def rlS (w : Wait) (l : List Release) : State := { tC2 (tWait w) dec0 (fun c => { c with priv := true, releases := l }) with tick := 9 }
def uqS (n : Nat) (f : Context → Context := id) : State := tC2 (tS10 n) dec0 f
def tUnit2 : UnitNode := { tUnit with parent := some 0, childIndex := 3, depth := 1 }
def uq2 (n : Nat) : State := uqS n (fun c => { c with units := [cas, tUnit2] })
def uq4 : State := uqS 9 (fun c => { c with units := [{ cas with d0 := 4 }, tUnit2] })
/-- A task that names a casement's third child, and its state. -/
def tSel : Task := { tS10 10 with s := [(1, 10), (2,3)] }
def uq5 : State := { uq4 with cores.tasks := [(0, tSel)] }
end Waits

namespace Control
def dec0 : TaskDecl := ⟨0, 0, 0, 0, 0, true, 0x1000001000, 5#64, 0, 2, [], 0x1000010000, .live, 0, []⟩
def cas : UnitNode := ⟨10, true, false, 1, 1, 1, none, 0, 0, 0, 1, none, (0,0,0), 2, none⟩
def tC2 (t : Task) (d : TaskDecl) (f : Context → Context := id) : State :=
  { tStr0.setCtx 0 (f { tCtxU with units := [cas, tUnit], tasks := [d], members := [⟨0, 0, 0, 0, 0x10000, 0x100000, [], 0⟩] }) with cores.tasks := [(0, t)], cores.eps := [] }
def tS10 (n : Nat) : Task := { tStrTask with s := [(1, BitVec.ofNat 64 n)] }
def ctlT : Task := { tS10 10 with s := [(1, 10), (2, 0x1000000000)] }
def ctlT2 : Task := { tS10 10 with s := [(1, 9), (2, 0x1000000000)] }
def ctlS (t : Task) : State := tC2 t dec0
def hoS : State := (puts (stops [119] (ctlS ctlT2)) [(Fld.synTskHandleHandle 0, 9)]).wr (Reg.synTskAddr 0 + 4) 0x10
def opS (f : Nat) (t : List (Nat × Task)) (ph : TaskPhase) (a : Nat := 0) : State := { tC2 ctlT { dec0 with phase := ph} with cores.tasks := t, taskOps := [⟨0, none, f, 0, 1, a, 0⟩] }
end Control

namespace Landing
def ringBufs : List Buffer := (List.range 4).map fun i => ⟨0, 0, false, 0x3000 + 4096 * i, .free, 0⟩
def offS : State := stops [0,1,119] { puts (tState.setCtx 0 tCtxU) [(Fld.strRingLen 1, 3), (Fld.strRingBase 1, 3)] with cores.eps := [(5, tEp)], cores.buffers := ringBufs }
end Landing

namespace Engines
def fe (taken : Nat) (kind : Nat := 2) : State := memPut [(0x1000004010, 8, 0x1000005000), (0x1000004018, 2, 1), (0x1000005000, 8, 0x1000006000), (0x1000005008,4, 3), (0x100000500F-1, 1, 1), (0x1000006000, 8, 0x1122334455)]
  { (up (puts ((tState.setCtx 0 { tCtxU with priv := true }).put64 (Reg.lvrSrcBase 0) 0x1000004000) [(Fld.strCfgEn 1, 1), (Fld.strCfgKind 1, kind), (Fld.strCfgDepth 1, 2), (Fld.strRingLen 1, 3), (Fld.strRingBase 1, 3)])) with cores.eps := [(1, {tEp with taken := taken, fetched := 0})] }
def chS (rel : Nat) (n := 1) : State := { up tStr with cores.eps := [(1, { tEp with filled := 2, taken := 1, carried := 3, forwarded := 2, fwd := some 2, released := rel }), (2, { tEp with peers := [.here 257], route := [[0]], used := [0], carried := 3 })] }
end Engines

namespace Fabric
def fT (a : Nat) (b : Nat := 7) : Task := { tTask with s := [(1, BitVec.ofNat 64 a), (2, BitVec.ofNat 64 b), (3, 9)] }
def fS (a : Nat) (b : Nat := 7) : State := tWith (fT a b)
def fw : Issue := tWord (1*2^40 + 3*2^28)
def fwB : Issue := tWord (1*2^40 + 2*2^34 + 3*2^28)
def fwS : Issue := tWord (1*2^40 + 2*2^34)
def nrS : State := puts (fS (2^44+0x1008)) [(Fld.vblTorusDxm1, 1)]
def lnPool : Pool := ⟨[⟨2^64+0x1000, 0, [], [], true, false⟩, ⟨2^64+0x2000, 1, [], [], true, false⟩], []⟩
def lnS (a : Nat) : State := { puts (fS a) [(Fld.vblCtxCtrlCache 0, 1)] with cores.pools := [(0, ⟨[⟨2^64+0x1000, 0, [], [], true, false⟩], []⟩)] }
def rq (use : ReqFor) (a : Nat := 0x1000) (first : Option Nat := none) (rs : Nat := 0) : Req := ⟨5, 0, use, 3, 1, 1, 0, a, 8, [], first, rs, none⟩
def rT : Task := { tTask with request := some 5 }
def rS (u : ReqFor) (first : Option Nat := none) (rs : Nat := 0) (tick : Nat := 0) : State := { (tWith rT) with vbl.reqs := [rq u 0x1000 first rs], tick := tick }
def lT : Task := { tTask with state := .waiting, wait := some .lease }
def lS (t : Nat) : State := { (tWith lT) with vbl.reqs := [{ rq (.acquire 0 0 2) with again := some 50 }], tick := t }
end Fabric

namespace Serving
/-- Node 1 of a torus of 4 by 1 by 1, with port 40 (+X) and port 0 (−X) ACTIVE. -/
def nodeS (s : State) : State := puts s [(Fld.vblNodeNode, 1), (Fld.vblNodeValid, 1), (Fld.vblTorusX, 1), (Fld.vblTorusDxm1, 3), (Fld.lnkStatusState 40, 5), (Fld.lnkStatusState 0, 5), (Fld.lnkCtrlShut 40, 0), (Fld.lnkCtrlShut 0, 0)]
def inbox (b : List Byte) (s : State := nodeS tState) : State := { s with trp.inbox := [(7, b)] }
def pkt (pt dst cls : Nat) (data : List Byte := []) (fl : Nat := 3) : List Byte := mkPacket pt fl dst cls 2 9 0x55 0 7 0 (reqBlock 8 8) data
def hopped (b : List Byte) (h a : Nat) : List Byte := b.take 19 ++ leBytes 1 h ++ leBytes 2 a ++ b.drop 22
def sp (q f : Nat) (rto := 100) : SentPacket := ⟨1, q, 3, 7, pkt 1 2 1, f, f, rto⟩
def tx (l : List SentPacket) : TxConn := ⟨9, true, false, [0,2,0,0], l, [], [], [], 4, [], [], 0⟩
def txS (x : TxConn) (tick : Nat := 0) (a : List TAck := []) : State := { nodeS tState with trp.tx := [(2, x)], trp.acks := a, tick := tick }
def rx (u : List (Nat × Nat)) : RxConn := ⟨9, [0,2,0,0], [], [], u, 0⟩
def rxS (x : RxConn) (tick : Nat) : State := { nodeS tState with trp.rx := [(2, x)], tick := tick }
def trS (b : List Byte) : State := { nodeS tState with trp.transit := [⟨7, 0, b⟩], tick := 250 }
def win (s : State) : State := puts ((((nodeS s).put64 (Reg.winBase 2) 0x1000).put64 (Reg.winLimit 2) 0x3000).put64 (Reg.winTarget 2) 0x1000002000)
  [(Fld.winKeyJob 2, 7), (Fld.winKeyValid 2, 1), (Fld.winTgtPerm 2, 15), (Fld.winTgtTier 2, 1), (Fld.ctxJobJob 0, 7)]
def ms (pt off opnd : Nat) (data : List Byte := []) (cls : Nat := 1) (st : Nat := 0) : RxMsg := ⟨2, 0x55, 9, pt, cls, 7, 0, st, reqBlock (2^44+off) opnd, data⟩
def inS (m : RxMsg) (s : State := tState) : State := { win s with vbl.inbox := [m] }
def ackS (m : RxMsg) : State := let s := (inS m).put64 (Reg.winTarget 2) 0x20000001000; { puts s [(Fld.winTgtTier 2, 2), (Fld.migChanUpUp, 0xFFFF)] with mem.acks := [(s.partOf 0, 1)] }
def mem8 (v : Nat) (s : State) : State := memPut [(0x1000002008, 8, v)] s
def atm (f opnd cmp : Nat) : RxMsg := ms 3 0x1008 opnd (leBytes 8 f ++ leBytes 8 cmp)
def ch (m : RxMsg) : Reply1 := ⟨2, 0x55, 9, 0, 77, 0⟩
def lea (f c inc len : Nat) : RxMsg := ms 4 0x1020 len (leaseData f c inc)
def lck (l : Lock) (m : RxMsg) (t : Nat := 100) : State := let s := inS m; { s with mem := s.mem.store (s.key 0 0x1000002020) l.bytes fun _ => false, tick := t }
def rsp (mid gen st : Nat) : RxMsg := ⟨2, 0x33, 1, 0x40, 1, 7, 0, 0, leBytes 2 mid ++ leBytes 1 gen ++ leBytes 1 st ++ leBytes 4 0 ++ leBytes 8 77, [1]⟩
def rspS (m : RxMsg) : State := { inS m (tWith { tTask with request := some 5 }) with vbl.reqs := [⟨5, 0, .load 0 0 2, 2, 1, 1, 7, 0x1000, 8, [], some 0, 0, none⟩], trp.tx := [(2, ⟨9, true, false, [0,2,0,0], [], [], [(3, ⟨some (false, 5), 1, 1, 7, reqBlock 8 8, []⟩)], [], 4, [], [], 0⟩)] }
end Serving

namespace Clocks
def swS (a : Nat) (t : Nat) : State := stops [119] (({ tState with tick := 100 }).put64 a t)
def vcS : State := { puts tState [(Fld.pwrRStatState 5, 2)] with pwr.vcore := [(5, ⟨700, 700, 0⟩)], tick := 60 }
def noRun (t : Nat) : State := stops [119] (({ State.reset with tick := 100, tim := { Tim.empty with own := 3 } }.put Fld.timStatusPllLock 1).put64 Reg.timSet t)
def tm (o : Nat) (sel : Nat) (mas : Nat := 0) (lost : Bool := false) (rl : Bool := false) (t : Nat := 200) (since : Nat := 0): State := puts { tState with tick := t, tim := { Tim.empty with own := o, lost := lost, refLost := rl, since := since } } [(Fld.timCtrlRefSel, sel), (Fld.timCtrlMaster, mas)]
def mp : MeshPacket := ⟨.core 0, .core 1, [], false, 1, 0, 3, [1#8, 2#8], [], .done⟩
def fl (at_ : Nat) : Flit := ⟨0, 0, 0, [(1, 0)], false, 1, some 0, false, 0, 1, 0, false, false, 0, 0, 0, at_, 0, false, true, false, [7#8], [], .done⟩
def parts (s : State) : State := puts s [(Fld.shtRectValid 0, 1), (Fld.shtRectX1 0, 3), (Fld.shtRectY1 0, 3)]
def linkUps (s : State) : State := puts s [(Fld.netLinkUpA 0, 15), (Fld.netLinkUpB 0, 15), (Fld.netLinkUpT 0, 15), (Fld.netLinkUpA 1, 15), (Fld.netLinkUpB 1, 15), (Fld.netLinkUpT 1, 15)]
def mfs (l : List Flit) : State := { linkUps (parts (up tState)) with mesh := ⟨l, [], [], [], [], 0, [], []⟩ }
def mf (f : Flit) : State := mfs [f]
def gr (right : Bool) (d : List Byte := leBytes 8 0x4000000040000000) (i : Bool := false) : Group := ⟨none, 0, .node 5 right, 0, some 0, 0, false, 1, 2, i, some d, []⟩
def mg (g : List Group) (m : List (Nat × Option Group × Option Group)) (ty := 0) : State := { puts (parts (up tState)) [(Fld.mrgNodeLoEn 5, 1), (Fld.mrgNodeLoType 5, ty)] with cores.groups := g, cores.merges := m }
def ring5 (ty : Nat) (m : List (Nat × Option Group × Option Group)) (i : Bool) : State := puts (mg [gr true (leBytes 8 0x3f800000C0000000) i] m ty) [(Fld.mrgNodeLoOutKind 5, 1), (Fld.mrgNodeLoOutId 5, 9)]
def nd : State := stops [0, 15, 119] (parts (up tState))
end Clocks

namespace Ports
/-- Port 0 in a state, with what it holds. -/
def portS (st : Nat) (x : Port := .empty) (p : Nat := 0) (t : Nat := 0) (l : List (Fld × Nat) := []) : State :=
  { puts (stops [32, 224, 254] tState) ([(Fld.lnkStatusState p, st), (Fld.lnkCtrlShut p, 0), (Fld.vblNodeValid, 1)] ++ l) with ports := [(p, x)], tick := t }
def kept1 : SentFlit := ⟨4, 1, 0, [1,2,3], 0⟩
def pK : Port := { Port.empty with kept := [kept1, { kept1 with seq := 5, replays := 7 }], seq := 6, fails := 2, since := 1, ackTick := 5 }
def initB (ver role dir : Nat) : List Byte := mkFlit .empty 2 0 255 0 false (leBytes 1 1 ++ leBytes 1 ver ++ leBytes 1 role ++ leBytes 1 dir ++ leBytes 4 7 ++ leBytes 1 3 ++ leBytes 1 0 ++ leBytes 2 64 ++ leBytes 2 512 ++ leBytes 2 3072 ++ leBytes 2 448 ++ leBytes 2 4096)
def dat (seq : Nat) (nak := false) (kind := 1) (pl : List Byte := leBytes 1 1 ++ leBytes 1 0 ++ leBytes 2 48) : List Byte := mkFlit { Port.empty with expect := 5 } kind 2 0 seq nak pl
def timB (p : Port) (xs tx : Nat) (st : Option TimeStamp) : List Byte := mkFlit p 2 0 255 0 false (timePayload 2 xs tx st)
def ethS : State := portS 5 .empty 19 0 [(Fld.lnkCtrlMode 19, 1)]
end Ports

namespace Registers
def pcTask : Task := { tTask with pc := 4 }
def ra (a : Nat) : BitVec 40 := BitVec.ofNat 40 a
def on : State := puts (stops [119, 0, 32] (up tState)) [(Fld.timStatusState, 2)]
def shad : State := { on.put64 Reg.timSet 0x123456789 with ctrl.shadows := [(wideKey .svc Reg.timSet, 77#32)] }
end Registers

namespace Writes
def ra (a : Nat) : BitVec 40 := BitVec.ofNat 40 a
def on : State := puts (stops [119, 0, 32] (up tState)) [(Fld.timStatusState, 2)]
def sides : WriteSides := ⟨false, false, [], []⟩
def stag : State := { on.put64 Reg.timSet 0x123456789 with ctrl.staged := [(wideKey .svc Reg.timSet, 77#32)] }
end Writes

namespace Checks
def mm (x2 x3 x23 ok3 : Bool) (sec : Option ArrayId := none) : Mismatch := ⟨0, 0, 0, 0x1000001000, 3, sec, x2, x3, x23, ok3, 0, none, 8⟩
def rel (l : List (Fld × Nat) := []) (st : State := tState) : State := puts (stops [119, 0] (up st)) ([(Fld.relCtxCtrlLevel 0, 2)] ++ l)
def tst (d : Option Nat) : PosTest := ⟨0, false, [(0, 0)], d, []⟩
def gen1 : State := { rel [(Fld.ptcPosStatArrays 4, 512)] (tState.setCtx 0 { tCtx with gen := 1 }) with rel.tests := [tst none] }
def forS : State := { rel [(Fld.ptcPosStatArrays 4, 512), (Fld.pwrRStatState 4, 0)] with rel.tests := [tst (some 2)] }
def run0 (cal : Bool) : State := { rel with rel.runs := [⟨4, cal, [0]⟩] }
def sr (a b : Nat) (m : Bool) : ScanResult := ⟨Fin.ofNat 513 a, Fin.ofNat 65 b, m, 5, [7], [], [], 99⟩
def psw (nx : Nat) (l : List (Fld × Nat) := []) : State := (rel l).wr (Reg.pswNext 0) nx
def mov (t : Nat) : State := { rel [(Fld.pwrRStatState 4, 2)] with rel.moving := [(0, (2, 4, 5))], tick := t }
end Checks

namespace Staging
/-- T2 of partition 0: 64 tiles, all channels up. -/
def wT : Task := { tTask with state := .waiting, wait := some (.tiles [(0x20000001000, true)]) }
def cp (a : Nat) (landed : Bool) (h : List Nat := []) (place : Nat := 0) : Staged := ⟨a, place, [], h, landed, false⟩
def stg (tiles : List Staged) (ah : List Nat := []) (l : List (Fld × Nat) := []) : State :=
  { puts (stops [119,0] (up (tWith wT))) ([(Fld.migCtxCtrlStageTiles 0, 2), (Fld.migChanUpUp, 0xFFFF)] ++ l) with cores.stageQueue := [(0, [0])], cores.pools := [(0, ⟨tiles, ah⟩)] }
def eng : Req := ⟨5, 0, .engine (.stage 0 0x80000001000), 3, 1, 1, 0, 0x1000, 4096, [], some 0, 0, none⟩
def t3S : State := { stg [cp 0x80000001000 false, cp 0x80000002000 true [] 1] with vbl.reqs := [eng] }
def ackS (h : List Nat) : State := { stg [cp 0x20000001000 true h, cp 0x20000002000 true [] 1] with mem.acks := [(0, 1), (1, 1)] }
def wrM : RxMsg := ⟨2, 0x55, 9, 2, 1, 7, 0, 0, reqBlock (2^44+0x1008) 3, [1,2,3]⟩
def ef (m : MemKind) (ue : Bool) (c : Option CtxId) (w : Bool := true) : EccFinding := ⟨m, 3, 77, ue, c, w⟩
def psn (f : EccFinding) (s : State) : State := { s with mem := s.mem.setPoison (eccSector f) }
def mig (tail : Nat) (en : Nat) (cmd : List (Nat × Nat × Nat)) (l : List (Fld × Nat) := []) : State :=
  memPut (cmd.map fun p => (0x1000004000 + p.1, p.2)) ((puts (stops [119,0] (up tState)) ([(Fld.migRingCtrlEn 0, en), (Fld.migRingTailTail 0, tail), (Fld.migChanUpUp, 0xFFFF)] ++ l)).put64 (Reg.migRingBase 0) 0x1000004000)
def cpy (src dst n : Nat) (compl := 0) : List (Nat × Nat × Nat) := [(0, 1, 1), (4, 4, n), (8, 8, src), (16, 8, dst), (24, 8, compl)]
def mcpy : State := let s := mig 1 1 (cpy 0x1000006000 0x1000008000 1 0x1000002008); memPut [(0x1000006010, 8, 0x99)] { s with mem := s.mem.setPoison (s.key 0 0x1000006040 / 64) }
def mdrop : State := { mig 1 1 [(0, 1, 2), (4, 4, 2), (8, 8, 0x20000001000)] with cores.pools := [(0, ⟨[cp 0x20000001000 true, cp 0x20000003000 true], []⟩)] }
def mfen : State := mig 1 1 [(0, 1, 3), (4, 4, 1)]
end Staging

namespace Contexts
def ctlS (l : List (Fld × Nat)) : State := puts tOn l
def pathS : State := way (stops [0] (ctlS [])) 0 119
def ldS : State := (ctlS [(Fld.ctxCfgValid 1, 1), (Fld.ctxJobJob 1, 7), (Fld.shtRectValid 0, 1)]).put64 (Reg.ctxImage 1) 0x3000
def rdy : State := { puts ldS [(Fld.ctxStatusState 1, 2)] with tick := 100 }
def decl : TaskDecl := ⟨0, 0, 0, 1, 2, true, 0, 5, 0, 0, [], 0, .notStarted, 0, []⟩
def bsy0 : State := puts ldS [(Fld.ctxStatusState 1, 1), (Fld.ctxStatusBusy 1, 1)]
def bsy : State := (puts ldS [(Fld.ctxStatusState 1, 1), (Fld.ctxStatusBusy 1, 1), (Fld.vblNodeValid, 1), (Fld.vblTorusDxm1, 3), (Fld.lnkStatusState 40, 5), (Fld.lnkStatusState 0, 5), (Fld.lnkCtrlShut 40, 0), (Fld.lnkCtrlShut 0, 0)]).put64 (Reg.ctxImage 1) (2^44+0x3000)
def img0 (crc : Nat) : List Byte :=
  leBytes 4 0x47454D49 ++ leBytes 2 128 ++ leBytes 1 1 ++ leBytes 1 0 ++ leBytes 8 312 ++ leBytes 4 4 ++ leBytes 4 128 ++ leBytes 4 crc ++ leBytes 4 0 ++ leBytes 8 5 ++ List.replicate 88 0 ++
  (leBytes 4 1 ++ leBytes 4 2 ++ leBytes 8 224 ++ leBytes 8 32) ++ (leBytes 4 2 ++ leBytes 4 1 ++ leBytes 8 256 ++ leBytes 8 32) ++
  (leBytes 4 3 ++ leBytes 4 8 ++ leBytes 8 288 ++ leBytes 8 8) ++ (leBytes 4 4 ++ leBytes 4 1 ++ leBytes 8 296 ++ leBytes 8 16) ++
  (leBytes 4 1 ++ leBytes 4 1 ++ leBytes 4 1 ++ leBytes 4 1) ++ (leBytes 4 0 ++ leBytes 4 1 ++ leBytes 4 1 ++ leBytes 4 1) ++
  (leBytes 4 0 ++ leBytes 1 0 ++ leBytes 1 2 ++ leBytes 1 1 ++ leBytes 1 0 ++ leBytes 8 0 ++ leBytes 8 5 ++ leBytes 2 2 ++ leBytes 6 0) ++
  leBytes 8 (0x01 * 2 ^ 56) ++ (leBytes 4 0 ++ leBytes 4 0x10000 ++ leBytes 4 0x100000 ++ leBytes 4 0)
def img1 : List Byte := img0 (crc32c (img0 0))
def pl1 : BindPlan := ⟨true, [9, 10], [0, 0], [none, none], [some 1], [(0, 0)], [0x1000004000], [⟨3, 0, 0x1000002000⟩], [], 0x1000001000, [], [], 0, 0, 0, false⟩
def us1 : List ImgUnit := (imgUnits img1).getD []
def bs2 : State := puts bsy [(Fld.shtRectX1 0, 15), (Fld.shtRectY1 0, 15)]
def pt (l : List (Fld × Nat)) : State := puts tOn (l ++ [(Fld.ctxCfgPartition 0, 3), (Fld.migChanUpUp, 0xFFFF)])
def cs (f : Nat) : CoolantSample := ⟨BitVec.ofNat 16 f, BitVec.ofNat 16 f, 100, 80, 100, 80⟩
def pw (n : Nat) : State := { tOn with svc.power := n }
end Contexts

namespace Power
def rg (l : List (Fld × Nat)) : State := puts (stops [0] tOn) l
def rgS (st : Nat) (l : List (Fld × Nat) := []) : State := (rg l).put (Fld.pwrRStatState 0) st
def sag (r t : Nat) (l : List (Fld × Nat) := []) : State := { (rg l).put (Fld.pwrRStatState r) regOn with pwr.floorAt := [(r, t)], tick := 2600 }
def inp (v a w p0 p1 : Nat) (lo we su be un : Bool) : InputSample := ⟨BitVec.ofNat 16 v, BitVec.ofNat 16 a, BitVec.ofNat 32 w, BitVec.ofNat 16 p0, BitVec.ofNat 16 p1, lo, we, su, be, un, false⟩
def cl (f ti to_ bi bo : Nat) : CoolantSample := ⟨BitVec.ofNat 16 f, BitVec.ofNat 16 f, BitVec.ofNat 8 to_, BitVec.ofNat 8 ti, BitVec.ofNat 8 bo, BitVec.ofNat 8 bi⟩
end Power

namespace Management
def mgSec : List Byte := leBytes 16 0x77 ++ leBytes 2 5000 ++ leBytes 6 0 ++ leBytes 16 0x99 ++ List.replicate 48 0
def sv (l : List (Fld × Nat) := []) : State := { puts tOn ([(Fld.svcStatusChainAddr, 3)] ++ l) with svc.store := [(0, ⟨1, some ⟨1, [(7, mgSec)]⟩⟩)] }
def mm (a0 a1 : Nat) (data : List Byte := []) (w := false) (src : MgmtSrc := .chain) : MgmtMsg := ⟨src, 9, BitVec.ofNat 32 a0, BitVec.ofNat 64 a1, 0, data, w⟩
def udp (p : Nat) : MgmtSrc := .udp (leBytes 16 p) (leBytes 16 0x77) 5000
def ev (n : Nat) : Event := ⟨n, 1, 2, 3, 4, 1, 5, 6⟩
def lg : State := { sv with svc.log := (List.range 40).map ev, svc.logged := 50 }
def te (l : List RegionSample := []) : Telemetry := ⟨l, true, false⟩
def rr : State := sv [(Fld.svcStatusPhase, 6)]
def wd (n : Nat) (b := 1000) : State := { rr with svc.restarts := List.replicate n 5, svc.ms := 600004, svc.beat := b }
def fr (t dst src v : Nat) (p : List Byte := []) : List Byte := sillFrame t dst src v p
def rq (op : Nat) : List Byte := leBytes 4 mgmtMagic ++ leBytes 1 op ++ leBytes 1 0 ++ leBytes 2 0 ++ leBytes 4 9 ++ leBytes 4 0 ++ leBytes 8 0 ++ leBytes 8 0
end Management

namespace Events
def e1 : Event := ⟨7, 21, 0x105, 0, 0, 2, 0x1122334455667788, 99⟩
def q0 (l : List (Fld × Nat) := []) : State := (puts tOn ([(Fld.evcCtrlGdis, 0), (Fld.evcQCtrlEn 2, 1), (Fld.evcQCtrlSizeLog2 2, 4), (Fld.evcPartQEn 0, 1), (Fld.evcPartQQ 0, 2)] ++ l)).put64 (Reg.evcQBase 2) 0x1000
def qr (h t : Nat) (l : List (Fld × Nat) := []) : State := { q0 ([(Fld.evcQTailIndex 2, t), (Fld.evcQHeadIndex 2, h)] ++ l) with evc.qs := [(2, { EvcQ.empty with ring := List.replicate ((t + 65536 - h) % 65536) (e1, false), held := [e1] })] }
def tm (t a : Option Nat) (l : List (Fld × Nat) := []) : State := { q0 l with evc.qs := [(2, { EvcQ.empty with timer := t, ack := a })] }
def al (l : List (Fld × Nat)) (n : Nat := 0) : State := { q0 l with evc.alarms := if n == 0 then [] else [(3, n)] }
end Events

namespace Bringing
def st1 (k seq boot : Nat) (w : List (SMap (List Byte))) : State := { tOn with svc.store := [(k, ⟨0, some ⟨seq, [(5, leBytes 2 boot), (7, [1])]⟩⟩)], svc.writes := w, svc.order := 1 }
def bpl (l : List PaneId) : BringPlan := ⟨l, [], [], [], 0xFFFF, 9, []⟩
def bm : State := { State.reset with svc.store := [(3, ⟨0, some ⟨7, [(5, leBytes 2 9)]⟩⟩)], svc.order := 1 }
def bmx : State := { State.reset with svc.store := [(3, ⟨0, some ⟨0xFFFFFFFF, [(5, leBytes 2 9)]⟩⟩)], svc.order := 1 }
def allPanes : List PaneId := (List.range 64).map fun n => (Fin.ofNat 64 n)
def brP (p : BringPlan) : State × List Nat := ({ bm.raiseBoot.1 with bootHold := false } : State).loadKeys.bringPanes bm.isWarm p
end Bringing

namespace Collectives
/-- A casement of two modules, and the core-unit below it on this module. -/
def clUnits : List UnitNode := [⟨5, true, true, 2, 1, 1, none, 0, 0, 0, 2, none, (0, 0, 0), 1, some 3⟩, ⟨9, false, false, 1, 1, 1, some 0, 0, 1, 0, 1, some 0, (0, 0, 0), 0, none⟩]
def clState : State :=
  { puts ((tState.setCtx 0 { tCtx with units := clUnits }).put64 (Reg.colScratch 0) 0x1000002000) [(Fld.colScratchTilesTiles 0, 8), (Fld.ctxJobJob 0, 7), (Fld.colCtxCtrlPieceTiles 0, 1), (Fld.vblTorusDxm1, 3), (Fld.vblTorusDym1, 3), (Fld.vblTorusDzm1, 3)] with
    cores.tasks := [(0, { tMany with s := [(0, 5#64), (1, 4#64)] })], tick := 1024 }
def clIss : Issue := tWord (tBody 0x90 + 2^42 + 2*2^37) 0
def tk : Task := { tMany with s := [(0, 5#64), (1, 4#64)] }
def cxo (i : Issue) (s : State) : Cx := cxOf i 0x90 tk
def mOf (i : Issue) (s : State) : Coll :=
  match (s.turn i).collPlace (cxo i s) with
  | .ok v => (s.turn i).collMember (cxo i s) (wordField i 6 3 == 1) v.1 v.2.1 v.2.2
  | .error _ => (s.turn i).collMember (cxo i s) false tUnit 0 tUnit
/-- A casement of one module: a member without neighbours. -/
def clOne : State := clState.setCtx 0 { tCtx with units := [⟨5, true, true, 1, 1, 1, none, 0, 0, 0, 1, none, (0, 0, 0), 1, some 3⟩, ⟨9, false, false, 1, 1, 1, some 0, 0, 1, 0, 1, some 0, (0, 0, 0), 0, none⟩] }
def noRoom : State := { clState with coll.insts := [{ mOf clIss clState with tiles := [0,1,2,3], num := 99 * 4096 }] }
/-- The instance of core 0, slot 0, waiting in it. -/
def inst : Coll := { mOf clIss clState with tiles := [0, 1, 2, 3, 4] }
def clRun (i : Coll) (s : State := clState) : State := { s with coll.insts := [i], cores.tasks := [(0, { tk with state := .waiting, wait := some .coll })] }
def msgOf (i : Coll) (src step dim opnd : Nat) (data : List Byte) (num : Nat := i.num) : RxMsg := ⟨src, 4, 0, ptColl, 1, 7, 0, 0, collBlock num step dim opnd, data⟩
def withMsg (m : RxMsg) (s : State) : State := { s with vbl.inbox := [m] }
def nd : Nat := (inst.nbrs.head?.getD (0,0)).2
def rdy := withMsg (msgOf inst nd 0 3 0 inst.readyData) (clRun inst)
def rdyB := withMsg (msgOf inst nd 0 3 0 (inst.readyData.set 0 9#8)) (clRun inst)
def rdyC := withMsg (msgOf inst nd 0 3 0 inst.readyData (inst.num + 1)) (clRun inst)
def rdyD := withMsg (msgOf inst nd 0 3 0 inst.readyData 5) (clRun inst)
def ln (i : Coll) : State := clRun { i with ready := [0] }
def run1 (i : Coll) : Coll := { i with launched := true, ready := [0] }
def sd (i : Coll) (st : Nat) (d : List Byte) := withMsg (msgOf i nd st 0 0 d) (clRun i)
def dn (i : Coll) (k : Nat) := withMsg (msgOf i nd 1 3 k []) (clRun i)
def ab := withMsg (msgOf inst nd 2 3 0 [5,0,0,0,7,0,0,0]) (clRun inst)
def ab2 := withMsg (msgOf inst nd 2 3 0 [5,0,0,0,7,0,0,0] (inst.num + 3)) (clRun inst)
def late : State := { clRun inst with tick := inst.progress + inst.timeoutS * 250000000 }
def bk (path : Bool) (i : Coll) : State := { clRun i with coll.back := [(nd, path, ⟨some (true, 0), ptColl, 2, 7, collBlock i.num i.step 0 0, [1]⟩)] }
end Collectives

namespace Louvre
/-- The descriptor ring of context 0 at 0x1000004000, with two descriptors. -/
def lvRing (d : List (Nat × Nat × Nat)) (l : Lvr := Lvr.empty) (s : State := tOn) : State :=
  { memPut (d.map fun p => (0x1000004000 + p.1, p.2.1, p.2.2)) (puts ((s.put64 (Reg.lvrDescBase 0) 0x1000004000).put64 (Reg.lvrSwapBase 0) 0x1000008000)
      [(Fld.lvrDescCtrlEn 0, 1), (Fld.lvrDescCtrlSizeLog2 0, 4), (Fld.lvrDescTailTail 0, 2)]) with lvrs := [(0, l)] }
def en0 : State := (lvRing []).put (Fld.lvrDescCtrlEn 0) 0
def cmd (s : State) (k : Nat := 0) : LvrCmd := LvrCmd.of (s.lvrDesc 0 k)
def f4 := lvRing [(0, 1, 4)]
def f1g := lvRing [(0, 1, 1), (8, 8, 3 * 2 ^ 44)]
def f2g := lvRing [(0, 1, 2), (4, 4, 1), (8, 8, 3 * 2 ^ 44), (32, 8, 0x10000), (40, 8, 0x100000A000)]
def runL (s : State) : State := s.put (Fld.ctxStatusState 0) 3
def wb2 : State := lvRing [(0, 1, 1), (64, 1, 3)] { Lvr.empty with swap := some ⟨⟨0, [2], [], [], [], [], [], 0, [], [], 0⟩, 2, some 1, none, none, false, 5⟩ }
def f4bad := lvRing [(0, 1, 4), (2, 1, 4)]
def f1bad := lvRing [(0, 1, 1), (2, 1, 4)]
def f2bad := lvRing [(0, 1, 2), (2, 1, 4)]
def f3bad := lvRing [(0, 1, 3), (4, 4, 1), (8, 8, 0x900000000000)]
/-- A WRITE_BACK of two tiles of T0 to a node of the storage pool. -/
def f3 := (lvRing [(0, 1, 3), (4, 4, 2), (8, 8, 0x4000), (16, 8, 3 * 2 ^ 44), (24, 8, 7), (32, 8, 9)] (s := puts tOn [(Fld.shtPortsPorts 0, 0xFFFF)]))
def f3p : State := puts ((lvRing [(0, 1, 3), (4, 4, 2), (8, 8, 0x4000), (16, 8, 0x10000 * 2 ^ 44), (24, 8, 7), (32, 8, 9)]).wr (Block.base .ent 0) (2 ^ 31 + 0x10000) |>.wr (Block.base .ent 0 + 0x1C) 1) [(Fld.shtPortsPorts 0, 0xFFFF), (Fld.lnkStatusState 12, 5), (Fld.lnkCtrlShut 12, 0)]
def swJob (d : List Byte := [2]) (want : List Nat := []) : LvrJob := ⟨0, d, [], [], [], [], want, 0, [], [], 0⟩
def swS (p : Nat) (back fin : Option Nat := none) (d : List Byte := [2]) (want : List Nat := []) : Swap := ⟨swJob d want, p, some 1, back, fin, false, 5⟩
def dec0 : TaskDecl := ⟨0, 0, 0, 0, 0, true, 0x1000001000, 5#64, 0, 2, [], 0x1000010000, .live, 0, []⟩
def lvSwap (w : Swap) : State := lvRing [] { Lvr.empty with swap := some w } { tOn.setCtx 0 { tCtx with tasks := [dec0] } with cores.tasks := [(0, { tTask with state := .waiting, wait := some .threshold })] }
def h1 := swS 2 (want := [3])
def exS : State := memPut [(0x1000008000, 8, 0x1122334455667788), (0x4000, 4, 0xAABBCCDD)] tOn
def ex4 : Swap := swS 4
def ex4h : Swap := swS 4 (d := [2, 2])
def ex4b : Swap := swS 4 (some 14)
def sw5 : State := lvSwap (swS 5)
def swT (t : Nat) : State := { sw5 with tick := t }
def d16 : List Byte := [1,2,3]
def ldJob (fails : SMap Nat := []) : LvrJob := ⟨0, [1], (leBytes 4 0 ++ List.replicate 36 0 ++ leBytes 8 3 ++ leBytes 4 1 ++ leBytes 20 0 ++ leBytes 4 80 ++ List.replicate 4 0) ++ sha384 (sha384 d16), [], [(0, sha384 d16)], [0], [0], 0, fails, [(0, 7), (1, 7)], 0⟩
def er (e : EngineRead) : Req := ⟨5, 0, .engine e, 3, 1, 1, 0, 0x1000, 4096, [], some 0, 0, none⟩
def ask (e : EngineRead) (s : State) : State := { s with vbl.reqs := [er e] }
def ld (j : LvrJob) (page : Bool := false) : State := ask (.load page 0) (lvRing [] { Lvr.empty with load := some j })
def pgOf (j : LvrJob) (r : Reply) : LvrJob := match j.check true 0 r with | .page k => k | _ => j
def chOf (j : LvrJob) (r : Reply) : LvrJob := match j.check false 0 r with | .chunk k _ => k | _ => j
def ms (j : LvrJob) : LvrJob × Nat := match j.check false 0 (.ok [1]) with | .miss k n => (k, n) | _ => (j, 0)
def swl : Swap := ⟨ldJob, 1, some 1, none, none, false, 5⟩
def lateT : State := { ld ldJob with tick := 7 + 60 * 250000000 }
end Louvre

namespace Manifests
/-- A manifest of one FP32 tensor of one tile, of model 1, step 2 and job 7, and the key that its signature verifies under. -/
def sgMan : List Byte := leBytes 336 0x934b46bc45ac55edaf2884dc74b1f522325a71e9276501196135d93639a4d931dba68f5bf19e9e963e7fb8723c80cec7934b46bc45ac55edaf2884dc74b1f522325a71e9276501196135d93639a4d931dba68f5bf19e9e963e7fb8723c80cec70000000000000000000000000000000000000000000000000000000000000000000000000000000000000000000000000000000000000000000000000000100000000000000000000000000000000001000000010000000100000001000000030000000000000001000000000000000100000000000000000000000000000000000000000000000000000000000000000000000000000000000000000000000000000000000000c00000009000000080000000010000000100000001000000010000000000001000000000000000000700000000000000020000000000000001000000050000015000800001464d564c
def sgKey : List Byte := beBytes 48 0x4d17f3a772502a1ef2703996e7b57df80558c0151297a18456addcaa6204edec80257b2724bb9926d2278357227bc03a ++
  beBytes 48 0x18563e762ea01503426b8124d1436a60b53a18e9a94613c305f82e6cc9b23eba092330e70e7e58329a1bf77d6d7cf33e
/-- Context 0 with a descriptor that waits, the key in slot 0, the tensor placed at 0x5000, and its swap buffer. -/
def sgState (d : List (Nat × Nat × Nat)) (st : Nat) (kept : Option (Nat × Nat)) : State :=
  { memPut ((d.map fun p => (0x1000004000 + p.1, p.2.1, p.2.2)) ++ [(0x1000009060, 8, 0x5000), (0x1000009070, 2, 1), (0x1000009072, 2, 0x101), (0x1000009074, 4, 1), (0x1000009078, 4, 1), (0x100000B000, 336, ofLe sgMan), (0x100000A000, 4, 1)])
      (puts ((((tOn.put64 (Reg.lvrDescBase 0) 0x1000004000).put64 (Reg.lvrSwapBase 0) 0x1000008000).put64 (Reg.lvrPlaceBase 0) 0x1000009000).put64 (Reg.lvrManBase 0) 0x100000B000)
        [(Fld.lvrDescCtrlEn 0, 1), (Fld.lvrDescCtrlSizeLog2 0, 4), (Fld.lvrDescTailTail 0, 2), (Fld.ctxStatusState 0, st), (Fld.ctxJobJob 0, 7),
         (Fld.lvrKeyStateState, 1), (Fld.lvrKeyIdKeyId 0, 5), (Fld.lvrKeymaskMask 0, 1), (Fld.lvrSwapTilesTiles 0, 1)]) with
    lvrs := [(0, { Lvr.empty with kept := kept })]
    keys := [(0, sgKey)] }
def sgLoad : State := sgState [(0, 1, 1)] ctxLoading none
def sgSwap : State := sgState [(0, 1, 2), (4, 4, 1), (32, 8, 0x10000), (40, 8, 0x100000A000)] ctxRunning (some (1, 1))
def cmd (s : State) : LvrCmd := LvrCmd.of (s.lvrDesc 0 0)
/-- The manifest of descriptor 0 is being read, and it arrives. -/
def erM : Req := ⟨5, 0, .engine (.manifest 0), 3, 1, 1, 0, 0x1000, 128, [], some 0, 0, none⟩
def reads (s : State) : State := { s with vbl.reqs := [erM], lvrs := [(0, { s.lvr 0 with reading := some (0, 7) })] }
def arrived (r : Req) (s : State) (c : CtxId) (d : LvrCmd) (man : Reply) : State :=
  let w := (match man with | .status st => s.outcome r st | .ok _ => s | .poisoned _ => s).dropReq r.num
  (w.readRest c d man).setLvr c { w.lvr c with reading := none }
theorem arrived_in {r : Req} {s : State} {c : CtxId} {op ring : Nat} {d : LvrCmd} {man : Reply} (t : Nat)
    (h : (s.lvr c).reading = some (ring, t)) (hd : d = LvrCmd.of (s.lvrDesc c ring)) (ho : d.op = op)
    (hr : (s.vbl.reqs.find? fun q => q.ctx == c.val && q.use == .engine (.manifest ring) && q.first.isSome) = some r)
    (hn : r.dst ≠ s.ownNode) : ManifestIn s c op ring d man (arrived r s c d man) :=
  ⟨⟨t, h⟩, hd, ho, ⟨r, _, ⟨hr, hn, rfl⟩, rfl⟩⟩
def sgMis : State := (reads sgSwap).put (Fld.lvrSwapTilesTiles 0) 0
end Manifests

/-! ## Checks of single commands -/

/-- The next state of an outcome that has one. -/
def isNext {σ φ ρ : Type} : Host.Outcome σ φ ρ → Bool
  | .next _ => true
  | .fault _ => false
  | .refused _ => false
def pickNext {σ φ ρ : Type} : (o : Host.Outcome σ φ ρ) → isNext o = true → σ
  | .next s, _ => s
  | .fault _, h => nomatch h
  | .refused _, h => nomatch h
theorem pickNext_eq {σ φ ρ : Type} (o : Host.Outcome σ φ ρ) (h : isNext o = true) : o = .next (pickNext o h) := by
  cases o with
  | next s => rfl
  | fault r => cases h
  | refused r => cases h
/-- What a test reads of the task of core 0, slot 0, after a command. -/
def after {α : Type} (o : Host.Outcome State Fault Refusal) (f : State → Task → α) : Option α :=
  match o with
  | .next s => (s.task? 0 0).map (f s)
  | .fault _ => none
  | .refused _ => none

/-- A TASK.CTL word with FUNC 1 is no TASK.CTL START: the row refuses it, and the STOP row takes it (R211). -/
theorem test_taskCtl_other_func_is_ill_formed :
    WellFormed (.taskCtlStart (tWord (2 ^ 24))) = false ∧ WellFormed (.taskCtlStop (tWord (2 ^ 24))) = true := by decide
theorem test_taskCtl_each_row_refuses_another_func :
    WellFormed (.taskCtlStop (tWord 0)) = false ∧ WellFormed (.taskCtlPreempt (tWord 0)) = false ∧
      WellFormed (.taskCtlSave (tWord 0)) = false ∧ WellFormed (.taskCtlRestore (tWord 0)) = false := by decide
/-- No row of the table has bits. -/
theorem test_no_word_spells_a_command : decodeTableWord 64 0x0200000000000000 = none := rfl
/-- ADD s5 ← s1 + s2 wraps at 2^64, with a result by hand (R183). -/
theorem test_add_wraps :
    after (exec (.add (tWord (5 * 2 ^ 42 + 1 * 2 ^ 36 + 2 * 2 ^ 30)))
      (tWith { tTask with s := [(1, 0xFFFFFFFFFFFFFFFF#64), (2, 3#64)] })) (fun _ t => (t.reg 5, t.pc))
      = some (2#64, 0x1000001008#44) := by decide +kernel
/-- p0 keeps its 1 whatever a compare gives (R137). -/
theorem test_p0_stays_set :
    after (exec (.cmpLt (tWord (1 * 2 ^ 36)))
      (tWith { tTask with s := [(0, 0#64), (1, 5#64)] })) (fun _ t => t.pred 0) = some true := by decide +kernel
/-- The canonical form of memory: a byte written as zero is not listed. -/
theorem test_store_of_zero_is_not_listed :
    ((Memory.store ⟨[(7, 3#8)], [], []⟩ 6 [1#8, 0#8] fun _ => false).cells) = [(6, 1#8)] := by decide
/-- An instruction whose PC lies outside the code region stops with cause 1 (R128, R140). -/
theorem test_bad_pc_faults_the_task :
    after (exec (.nop (tWord 0)) (tWith { tTask with pc := 0x2000#44 })) (fun _ t => (t.state, t.illCause)) =
      some (.faulted, 1) := by decide +kernel
/-- SHA-384 of the three bytes "abc" (FIPS 180-4). -/
theorem test_sha384_abc : ofBe (sha384 [0x61#8, 0x62#8, 0x63#8]) =
    0xcb00753f45a35e8bb5a03d699ac65007272c32ab0eded1631a8b605a43ff5bed8086072ba1e7cc2358baeca134c825a7 := by decide +kernel
/-- 1 + 2^-24 lies halfway between two FP32 numbers and rounds to the even one (R113). -/
theorem test_f32Add_rounds_to_even : (f32Add 0x3F800000#32 0x33800000#32).1 = 0x3F800000#32 := by decide +kernel

/-- Registers survive a NOP, and its slot's task alone changes. -/
theorem witness_RegisterInstructionFrames :
    (∃ (r : (Issue → Instr) × OpSpec) (i : Issue) (s u : State) (t v : Task), r ∈ scalarRows ∧ exec (r.1 i) s = .next u ∧
      s.task? i.core i.slot = some t ∧ u.task? i.core i.slot = some v ∧ v.retired = t.retired + 1) ∧
    (∃ (r : (Issue → Instr) × OpSpec) (i : Issue) (s u : State) (t v : Task), r ∈ vectorRows ∧ exec (r.1 i) s = .next u ∧
      s.task? i.core i.slot = some t ∧ u.task? i.core i.slot = some v ∧ v.retired = t.retired + 1) :=
  ⟨⟨(.nop, ⟨0x01, false, rsvdNone, enumAny⟩), tWord 0, tState, _, tTask, _, by simp [scalarRows], pickNext_eq _ (by decide +kernel),
      by decide +kernel, pickO_eq _ (by decide +kernel), by decide +kernel⟩,
    ⟨(.vadd, laneSpec 0x40 1 satInt [0, 1, 2, 3]), tWord 0, tState, _, tTask, _, by simp [vectorRows], pickNext_eq _ (by decide +kernel),
      by decide +kernel, pickO_eq _ (by decide +kernel), by decide +kernel⟩⟩

/-- A row, an instruction of it and a task whose turn it is. -/
theorem witness_InstructionChecksAndFaults_rows :
    ∃ (r : (Issue → Instr) × OpSpec) (i : Issue) (s : State) (t : Task), r ∈ instructionRows ∧ CanIssue i s t ∧
      s.pcBad t.ctx t.pc.toNat (wordExt (issueBits i r.2.op)) = false ∧ wordExt (issueBits i r.2.op) = r.2.ext ∧
      r.2.rsvd (issueBits i r.2.op) i.ext.toNat = true ∧ r.2.enum (issueBits i r.2.op) i.ext.toNat = true ∧
      t.predPoison (wordPred (issueBits i r.2.op)) = false ∧ t.pred (wordPred (issueBits i r.2.op)) = wordPneg (issueBits i r.2.op) :=
  ⟨(.nop, ⟨0x01, false, rsvdNone, enumAny⟩), tWord (2 ^ 52), tState, tTask, by simp [instructionRows, scalarRows], ⟨by decide +kernel, by decide +kernel, by decide +kernel⟩, by decide +kernel⟩

/-- A canonical state with a register, a byte and a waiting command, and its step. -/
theorem witness_EveryStepKeepsCanonicalForms : ∃ s t : State, s.Inv ∧ step s = .next t :=
  ⟨{ memPut [(0x4000, 2, 0x105)] tState with pending := [.nop (tWord 0)] }, _, ⟨by decide +kernel, by decide +kernel⟩,
    pickNext_eq _ (by decide +kernel)⟩
theorem witness_WellFormedCommandsComplete : (∃ c : Instr, WellFormed c = true) ∧ (∃ c : Instr, WellFormed c = false) :=
  ⟨⟨.nop (tWord 0), rfl⟩, ⟨.taskCtlStart (tWord (2 ^ 24)), rfl⟩⟩
/-- Selectors 0 and 8 are the first and the last that a descriptor has; 9 is none (R183). -/
theorem witness_DescriptorInstructions_selectors : (∃ n, n < 9 ∧ 0 < n) ∧ ∃ n, 9 ≤ n ∧ descSelector n = none :=
  ⟨⟨8, by decide⟩, ⟨9, by decide⟩⟩

/-! ## States and operands that meet the hypotheses of the statements -/

theorem witness_RegisterAndPredicateResults :
    (∃ (i : Issue) (s : State) (t : Task), Executes (aluSpec 2) i s t) ∧
    (∃ (i : Issue) (s : State) (t : Task), Executes (aluSpec 3) i s t) ∧
    (∃ (i : Issue) (s : State) (t : Task), Executes (aluSpec 4) i s t) ∧
    (∃ (i : Issue) (s : State) (t : Task), Executes (aluSpec 5) i s t) ∧
    (∃ (i : Issue) (s : State) (t : Task), Executes (aluSpec 6) i s t) ∧
    (∃ (i : Issue) (s : State) (t : Task), Executes (aluSpec 7) i s t) ∧
    (∃ (i : Issue) (s : State) (t : Task), Executes (aluSpec 8) i s t) ∧
    (∃ (i : Issue) (s : State) (t : Task), Executes (aluSpec 9) i s t) ∧
    (∃ (i : Issue) (s : State) (t : Task), Executes (aluSpec 10) i s t) ∧
    (∃ (i : Issue) (s : State) (t : Task), Executes (aluSpec 11) i s t) ∧
    (∃ (i : Issue) (s : State) (t : Task), Executes (aluSpec 12) i s t) ∧
    (∃ (i : Issue) (s : State) (t : Task), Executes { op := 1, ext := false, rsvd := rsvdNone, enum := enumAny } i s t) ∧
    (∃ (i : Issue) (s : State) (t : Task), (Executes { op := 13, ext := false, rsvd := fun w x => onlyFields [(42, 6), (36, 6)] w, enum := enumAny } i s t)) ∧
    (∃ (i : Issue) (s : State) (t : Task), (Executes { op := 14, ext := true, rsvd := fun w x => onlyFields [(42, 6)] w, enum := enumAny } i s t)) ∧
    (∃ (i : Issue) (s : State) (t : Task), Executes (cmpSpec 16) i s t) ∧
    (∃ (i : Issue) (s : State) (t : Task), Executes (cmpSpec 17) i s t) ∧
    (∃ (i : Issue) (s : State) (t : Task), Executes (cmpSpec 18) i s t) ∧
    (∃ (i : Issue) (s : State) (t : Task), Executes (predSpec 19) i s t) ∧
    (∃ (i : Issue) (s : State) (t : Task), Executes (predSpec 20) i s t) ∧
    (∃ (i : Issue) (s : State) (t : Task), Executes (predSpec 21) i s t) :=
  ⟨⟨tWord (2^49+2^36-1), tState, tTask, executes_of _ _ _ _ (by decide +kernel)⟩,
   ⟨tWord (2^49+5+1*2^36), tState, tTask, executes_of _ _ _ _ (by decide +kernel)⟩,
   ⟨tWord (1*2^36), tState, tTask, executes_of _ _ _ _ (by decide +kernel)⟩,
   ⟨tWord (1*2^36), tState, tTask, executes_of _ _ _ _ (by decide +kernel)⟩,
   ⟨tWord (1*2^36), tState, tTask, executes_of _ _ _ _ (by decide +kernel)⟩,
   ⟨tWord (1*2^36), tState, tTask, executes_of _ _ _ _ (by decide +kernel)⟩,
   ⟨tWord (1*2^36+2^49+65), tState, tTask, executes_of _ _ _ _ (by decide +kernel)⟩,
   ⟨tWord (1*2^36), tState, tTask, executes_of _ _ _ _ (by decide +kernel)⟩,
   ⟨tWord (1*2^36), tState, tTask, executes_of _ _ _ _ (by decide +kernel)⟩,
   ⟨tWord (1*2^36+2^49+2^36-2^35), tState, tTask, executes_of _ _ _ _ (by decide +kernel)⟩,
   ⟨tWord (1*2^36), tState, tTask, executes_of _ _ _ _ (by decide +kernel)⟩,
   ⟨tWord 0, tState, tTask, executes_of _ _ _ _ (by decide +kernel)⟩,
   ⟨tWord (1*2^36), tState, tTask, executes_of _ _ _ _ (by decide +kernel)⟩,
   ⟨tWord (2^50) 0x123456789abcdef0, tState, tTask, executes_of _ _ _ _ (by decide +kernel)⟩,
   ⟨tWord (1*2^36+3*2^42), tState, tTask, executes_of _ _ _ _ (by decide +kernel)⟩,
   ⟨tWord (1*2^36+2^42), tState, tTask, executes_of _ _ _ _ (by decide +kernel)⟩,
   ⟨tWord (1*2^36), tState, tTask, executes_of _ _ _ _ (by decide +kernel)⟩,
   ⟨tWord (1*2^36), tState, tTask, executes_of _ _ _ _ (by decide +kernel)⟩,
   ⟨tWord (2^42), tState, tTask, executes_of _ _ _ _ (by decide +kernel)⟩,
   ⟨tWord (2^42), tState, tTask, executes_of _ _ _ _ (by decide +kernel)⟩⟩

theorem witness_ScalarLoadAndStore :
    (∃ (i : Issue) (s : State) (t : Task), Executes (ldSpec 24) i s t ∧ Readable i s t 8) ∧
    (∃ (i : Issue) (s : State) (t : Task), Executes (ldSpec 25) i s t ∧ Writable i s t 8) :=
  ⟨⟨tWord (2^49 + 2*2^36 + 8 + 5*2^42), tState, tTask, executes_of _ _ _ _ (by decide +kernel), by constructor <;> decide +kernel⟩,
   ⟨tWord (2^49 + 2*2^36 + 8 + 1*2^42), tState, tTask, executes_of _ _ _ _ (by decide +kernel), ⟨(by constructor <;> decide +kernel), by decide +kernel⟩⟩⟩

theorem witness_BranchesFlagsAndHalt :
    (∃ (i : Issue) (s : State) (t : Task), Executes brSpec i s t ∧ immForm i = true) ∧
    (∃ (i : Issue) (s : State) (t : Task), Executes brSpec i s t ∧ immForm i = false ∧ t.regPoison (srcBOf i) = false) ∧
    (∃ (i : Issue) (s : State) (t : Task), (Executes { op := 26, ext := false, rsvd := fun w x => onlyFields [(42, 6)] w, enum := enumAny } i s t) ∧ s.older ↑i.core ↑i.slot = false) ∧
    (∃ (i : Issue) (s : State) (t : Task), (Executes { op := 27, ext := false, rsvd := fun w x => onlyFields [(49, 1), (0, 6)] w, enum := fun w x => bitAt w 49 } i s t) ∧ s.older ↑i.core ↑i.slot = false) ∧
    (∃ (i : Issue) (s : State) (t : Task), Executes { op := 23, ext := false, rsvd := rsvdNone, enum := enumAny } i s t ∧ s.older ↑i.core ↑i.slot = false) :=
  ⟨⟨tWord (2^49 + 2^36-1), tState, tTask, executes_of _ _ _ _ (by decide +kernel), by decide +kernel⟩,
   ⟨tWord (2*2^30), tState, tTask, executes_of _ _ _ _ (by decide +kernel), by decide +kernel⟩,
   ⟨tWord (2^42), tState, tTask, executes_of _ _ _ _ (by decide +kernel), by decide +kernel⟩,
   ⟨tWord (2^49+5), tState, tTask, executes_of _ _ _ _ (by decide +kernel), by decide +kernel⟩,
   ⟨tWord 0, tState, tTask, executes_of _ _ _ _ (by decide +kernel), by decide +kernel⟩⟩

theorem witness_DescriptorInstructions :
    (∃ (i : Issue) (s : State) (t : Task), Executes tdLdSpec i s t ∧ Readable i s t 64 ∧ noAhead (ofLe (s.mem.bytes (s.key t.ctx (memAddr i t)) 64))) ∧
    (∃ (i : Issue) (s : State) (t : Task), Executes tdStSpec i s t ∧ Writable i s t 64) ∧
    (∃ (i : Issue) (s : State) (t : Task) (lo w : Nat), Executes tdSetSpec i s t ∧ descSelector (wordField i 0 8) = some (lo, w) ∧ noAhead (setField (t.desc (dstOf i)) lo w (BitVec.toNat (t.reg (srcAOf i))))) ∧
    (∃ (i : Issue) (s : State) (t : Task) (lo w : Nat), Executes tdGetSpec i s t ∧ descSelector (wordField i 0 8) = some (lo, w)) ∧
    (∃ (i : Issue) (s : State) (t : Task), Executes tdAdvSpec i s t) :=
  ⟨⟨tWord (2^49+2*2^36+3*2^42), tState, tTask, executes_of _ _ _ _ (by decide +kernel), by constructor <;> decide +kernel, by unfold noAhead; decide +kernel⟩,
   ⟨tWord (2^49+2*2^36+1*2^42), tWith tTensor, tTensor, executes_of _ _ _ _ (by decide +kernel), ⟨(by constructor <;> decide +kernel), by decide +kernel⟩⟩,
   ⟨tWord (2^49+1*2^36+1*2^42+2), tWith tTensor, tTensor, (pickO (descSelector (wordField (tWord (2^49+1*2^36+1*2^42+2)) 0 8)) (by decide +kernel)).1, (pickO (descSelector (wordField (tWord (2^49+1*2^36+1*2^42+2)) 0 8)) (by decide +kernel)).2, executes_of _ _ _ _ (by decide +kernel), by decide +kernel, by unfold noAhead; decide +kernel⟩,
   ⟨tWord (2^49+1*2^36+1*2^42), tWith tTensor, tTensor, (pickO (descSelector (wordField (tWord (2^49+1*2^36+1*2^42)) 0 8)) (by decide +kernel)).1, (pickO (descSelector (wordField (tWord (2^49+1*2^36+1*2^42)) 0 8)) (by decide +kernel)).2, executes_of _ _ _ _ (by decide +kernel), by decide +kernel⟩,
   ⟨tWord (2^49+1*2^42+2^36-1), tWith tTensor, tTensor, executes_of _ _ _ _ (by decide +kernel)⟩⟩

theorem witness_ElementwiseVectorResults :
    (∃ (i : Issue) (s : State) (t : Task), Executes (laneSpec 64 1 satInt [0, 1, 2, 3]) i s t) ∧
    (∃ (i : Issue) (s : State) (t : Task), Executes (laneSpec 65 1 satInt [0, 1, 2, 3]) i s t) ∧
    (∃ (i : Issue) (s : State) (t : Task), Executes (laneSpec 66 1 satInt [0, 1, 2, 3]) i s t) ∧
    (∃ (i : Issue) (s : State) (t : Task), Executes (laneSpec 67 1 vcField [0, 2]) i s t) ∧
    (∃ (i : Issue) (s : State) (t : Task), Executes (laneSpec 68 1 noExtra [0, 2]) i s t) ∧
    (∃ (i : Issue) (s : State) (t : Task), Executes (laneSpec 69 1 noExtra [0, 1, 2, 3]) i s t) ∧
    (∃ (i : Issue) (s : State) (t : Task), Executes (laneSpec 70 1 noExtra [0, 1, 2, 3]) i s t) ∧
    (∃ (i : Issue) (s : State) (t : Task), Executes (unarySpec 71 [0]) i s t) ∧
    (∃ (i : Issue) (s : State) (t : Task), Executes (unarySpec 72 [0, 1, 2, 3, 4, 5, 6, 7, 8, 9, 10]) i s t) ∧
    (∃ (i : Issue) (s : State) (t : Task), Executes (laneSpec 73 3 noExtra (List.range 16)) i s t) ∧
    (∃ (i : Issue) (s : State) (t : Task), Executes (laneSpec 74 4 vcField [0]) i s t) :=
  ⟨⟨tWord (1*2^37+2*2^32), tVecs, tVec, executes_of _ _ _ _ (by decide +kernel)⟩,
   ⟨tWord (1*2^37+2*2^32), tVecs, tVec, executes_of _ _ _ _ (by decide +kernel)⟩,
   ⟨tWord (1*2^37+2*2^32), tVecs, tVec, executes_of _ _ _ _ (by decide +kernel)⟩,
   ⟨tWord (1*2^37+2*2^32+3*2^27), tVecs, tVec, executes_of _ _ _ _ (by decide +kernel)⟩,
   ⟨tWord (1*2^37+2*2^32), tVecs, tVec, executes_of _ _ _ _ (by decide +kernel)⟩,
   ⟨tWord (1*2^37+2*2^32), tVecs, tVec, executes_of _ _ _ _ (by decide +kernel)⟩,
   ⟨tWord (1*2^37+2*2^32), tVecs, tVec, executes_of _ _ _ _ (by decide +kernel)⟩,
   ⟨tWord (1*2^37), tVecs, tVec, executes_of _ _ _ _ (by decide +kernel)⟩,
   ⟨tWord (1*2^37), tVecs, tVec, executes_of _ _ _ _ (by decide +kernel)⟩,
   ⟨tWord (1*2^37+2*2^32+2^16), tVecs, tVec, executes_of _ _ _ _ (by decide +kernel)⟩,
   ⟨tWord (1*2^37+2*2^32+3*2^27), tVecs, tVec, executes_of _ _ _ _ (by decide +kernel)⟩⟩

section
open Vectors
theorem witness_SegmentedVectorsAndTransfers :
    (∃ (i : Issue) (s : State) (t : Task) (e : Nat), Executes (redSpec 80) i s t ∧ e ≤ 10 ∧ segLenOf i = 2 ^ e) ∧
    (∃ (i : Issue) (s : State) (t : Task) (e : Nat), Executes (redSpec 81) i s t ∧ e ≤ 10 ∧ segLenOf i = 2 ^ e) ∧
    (∃ (i : Issue) (s : State) (t : Task) (e : Nat), Executes (redSpec 82) i s t ∧ e ≤ 10 ∧ segLenOf i = 2 ^ e) ∧
    (∃ (i : Issue) (s : State) (t : Task) (e : Nat), Executes vnormSpec i s t ∧ e ≤ 10 ∧ segLenOf i = 2 ^ e) ∧
    (∃ (i : Issue) (s : State) (t : Task) (e : Nat), Executes vsoftmaxSpec i s t ∧ e ≤ 10 ∧ segLenOf i = 2 ^ e) ∧
    (∃ (i : Issue) (s : State) (t : Task), Executes (redSpec 80) i s t ∧ (∀ e ≤ 10, segLenOf i ≠ 2 ^ e)) ∧
    (∃ (i : Issue) (s : State) (t : Task), Executes vldSpec i s t ∧ vldCheck (cxOf i 75 t) (s.turn i) = Except.ok () ∧ ((cxOf i 75 t).opnd (vcOf i)).stage = []) ∧
    (∃ (i : Issue) (s : State) (t : Task) (a : Unit), Executes vstSpec i s t ∧ vstCheck (cxOf i vstSpec.op t) (s.turn i) = Except.ok a ∧ (poisonLeaves (s.turn i) (Next.retire ((fun x s x_1 => x.putFlags (s.putGroup x (x.opnd x.vc) 1025 (List.map (fun x => x.1) (x.vstElems s))) (List.foldl (fun f p => f ||| p.2) (0#16) (x.vstElems s))) (cxOf i vstSpec.op t) (s.turn i) a)) = false)) ∧
    (∃ (i : Issue) (s : State) (t : Task), Executes vrngSpec i s t ∧ t.regPoison (wordField i 20 6) = false) ∧
    (∃ (i : Issue) (s : State) (t : Task), Executes vaccRdSpec i s t ∧ wordField i 0 11 < t.accCount) ∧
    (∃ (i : Issue) (s : State) (t : Task), Executes vaccWrSpec i s t ∧ wordField i 0 11 < t.accCount) :=
  ⟨⟨wr1, tVecs, tVec, 4, executes_of _ _ _ _ (by decide +kernel), by decide +kernel⟩,
   ⟨wr1, tVecs, tVec, 4, executes_of _ _ _ _ (by decide +kernel), by decide +kernel⟩,
   ⟨wr1, tVecs, tVec, 4, executes_of _ _ _ _ (by decide +kernel), by decide +kernel⟩,
   ⟨wr1, tVecs, tVec, 4, executes_of _ _ _ _ (by decide +kernel), by decide +kernel⟩,
   ⟨wr1, tVecs, tVec, 4, executes_of _ _ _ _ (by decide +kernel), by decide +kernel⟩,
   ⟨tWord (2^37+3), tVecs, tVec, executes_of _ _ _ _ (by decide +kernel), by decide +kernel⟩,
   ⟨tWord (1*2^27), tWith tTensor, tTensor, executes_of _ _ _ _ (by decide +kernel), okUnit (by decide +kernel), by decide +kernel⟩,
   ⟨tWord (1*2^27), tWith tTensor, tTensor, _, executes_of _ _ _ _ (by decide +kernel), pickOk_eq _ (by decide +kernel), by decide +kernel⟩,
   ⟨tWord 0, tVecs, tVec, executes_of _ _ _ _ (by decide +kernel), by decide +kernel⟩,
   ⟨tWord 1, tVecs, tVec, executes_of _ _ _ _ (by decide +kernel), by decide +kernel⟩,
   ⟨tWord (1+2^37), tVecs, tVec, executes_of _ _ _ _ (by decide +kernel), by decide +kernel⟩⟩
end

section
open Tensors
theorem witness_MatrixAndConversionResults :
    (∃ (i : Issue) (s : State) (t : Task) (a : List Link), Executes mmaSpec i s t ∧ mmaCheck (cxOf i mmaSpec.op t) (s.turn i) = Except.ok a ∧ poisonLeaves (s.turn i) (Next.retire (mmaRun (cxOf i mmaSpec.op t) (s.turn i) a)) = false) ∧
    (∃ (i : Issue) (s : State) (t : Task) (a : List Link), Executes mmaCsrSpec i s t ∧ mmaCsrCheck (cxOf i mmaCsrSpec.op t) (s.turn i) = Except.ok a ∧ poisonLeaves (s.turn i) (Next.retire (mmaCsrRun (cxOf i mmaCsrSpec.op t) (s.turn i) a)) = false) ∧
    (∃ (i : Issue) (s : State) (t : Task) (a : List Link), Executes accOutSpec i s t ∧ accOutCheck (cxOf i accOutSpec.op t) (s.turn i) = Except.ok a ∧ poisonLeaves (s.turn i) (Next.retire (accOutRun (cxOf i accOutSpec.op t) (s.turn i) a)) = false) ∧
    (∃ (i : Issue) (s : State) (t : Task) (a : List Link), Executes cvtSpec i s t ∧ cvtCheck (cxOf i cvtSpec.op t) (s.turn i) = Except.ok a ∧ poisonLeaves (s.turn i) (Next.retire (cvtRun (cxOf i cvtSpec.op t) (s.turn i) a)) = false) ∧
    (∃ (i : Issue) (s : State) (t : Task), Executes mmaSpec i s t ∧ MemSource (cxOf i 48 t) s (cxOf i 48 t).ta (cxOf i 48 t).afmt ∧ MemSource (cxOf i 48 t) s (cxOf i 48 t).tb (cxOf i 48 t).bfmt ∧ ((cxOf i 48 t).mmaOut = true → MemDest (cxOf i 48 t) s (cxOf i 48 t).td (cxOf i 48 t).dfmt) ∧ (cxOf i 48 t).mmaFormats ((cxOf i 48 t).opnd (cxOf i 48 t).ta) ((cxOf i 48 t).opnd (cxOf i 48 t).tb) = true ∧ ((cxOf i 48 t).opnd (cxOf i 48 t).ta).d.rows ≤ 256 ∧ ((cxOf i 48 t).opnd (cxOf i 48 t).tb).d.rows ≤ 256 ∧ ((cxOf i 48 t).opnd (cxOf i 48 t).ta).d.cols ≤ 8192 ∧ ((cxOf i 48 t).opnd (cxOf i 48 t).ta).d.cols = ((cxOf i 48 t).opnd (cxOf i 48 t).tb).d.cols ∧ ((cxOf i 48 t).mmaOut = true → ((cxOf i 48 t).opnd (cxOf i 48 t).td).d.rows = ((cxOf i 48 t).opnd (cxOf i 48 t).ta).d.rows ∧ ((cxOf i 48 t).opnd (cxOf i 48 t).td).d.cols = ((cxOf i 48 t).opnd (cxOf i 48 t).tb).d.rows) ∧ (cxOf i 48 t).mmaAccOk ((cxOf i 48 t).opnd (cxOf i 48 t).ta).d.rows ((cxOf i 48 t).opnd (cxOf i 48 t).tb).d.rows = true) ∧
    (∃ (i : Issue) (s : State) (t : Task), Executes mmaCsrSpec i s t ∧ MemSource (cxOf i 49 t) s (cxOf i 49 t).ta (cxOf i 49 t).afmt ∧ MemSource (cxOf i 49 t) s (cxOf i 49 t).tb (cxOf i 49 t).bfmt ∧ MemSource (cxOf i 49 t) s (cxOf i 49 t).te ((cxOf i 49 t).opnd (cxOf i 49 t).te).d.fmt ∧ MemSource (cxOf i 49 t) s (cxOf i 49 t).tf ((cxOf i 49 t).opnd (cxOf i 49 t).tf).d.fmt ∧ ((cxOf i 49 t).mmaOut = true → MemDest (cxOf i 49 t) s (cxOf i 49 t).td (cxOf i 49 t).dfmt) ∧ csrValueOk ((cxOf i 49 t).opnd (cxOf i 49 t).ta) = true ∧ ((cxOf i 49 t).opnd (cxOf i 49 t).te).f = Fmt.int32 ∧ ((cxOf i 49 t).opnd (cxOf i 49 t).tf).f = Fmt.int32 ∧ (cxOf i 49 t).mmaFormats ((cxOf i 49 t).opnd (cxOf i 49 t).ta) ((cxOf i 49 t).opnd (cxOf i 49 t).tb) = true ∧ csrShapeOk ((cxOf i 49 t).opnd (cxOf i 49 t).ta) ((cxOf i 49 t).opnd (cxOf i 49 t).te) ((cxOf i 49 t).opnd (cxOf i 49 t).tf) = true ∧ ((cxOf i 49 t).opnd (cxOf i 49 t).tb).d.rows ≤ 256 ∧ ((cxOf i 49 t).opnd (cxOf i 49 t).tb).d.cols ≤ 8192 ∧ ((cxOf i 49 t).mmaOut = true → ((cxOf i 49 t).opnd (cxOf i 49 t).td).d.rows = ((cxOf i 49 t).opnd (cxOf i 49 t).tf).elems - 2 ∧ ((cxOf i 49 t).opnd (cxOf i 49 t).td).d.cols = ((cxOf i 49 t).opnd (cxOf i 49 t).tb).d.rows) ∧ (cxOf i 49 t).mmaAccOk (((cxOf i 49 t).opnd (cxOf i 49 t).tf).elems - 2) ((cxOf i 49 t).opnd (cxOf i 49 t).tb).d.rows = true) ∧
    (∃ (i : Issue) (s : State) (t : Task), Executes accOutSpec i s t ∧ MemDest (cxOf i 101 t) s (cxOf i 101 t).td (cxOf i 101 t).dfmt ∧ ((cxOf i 101 t).afmt = 1 ∨ (cxOf i 101 t).afmt = 11) ∧ emitFormatOk (cxOf i 101 t) ((cxOf i 101 t).opnd (cxOf i 101 t).td).f = true ∧ ((cxOf i 101 t).opnd (cxOf i 101 t).td).d.rows ≤ 256 ∧ ((cxOf i 101 t).opnd (cxOf i 101 t).td).d.cols ≤ 256 ∧ (cxOf i 101 t).acc + accTiles ((cxOf i 101 t).opnd (cxOf i 101 t).td).d.rows ((cxOf i 101 t).opnd (cxOf i 101 t).td).d.cols ≤ t.accCount) ∧
    (∃ (i : Issue) (s : State) (t : Task), Executes cvtSpec i s t ∧ MemSource (cxOf i 96 t) s (cxOf i 96 t).ta (cxOf i 96 t).afmt ∧ MemDest (cxOf i 96 t) s (cxOf i 96 t).td (cxOf i 96 t).dfmt ∧ convKind ((cxOf i 96 t).opnd (cxOf i 96 t).ta).f ((cxOf i 96 t).opnd (cxOf i 96 t).td).f ≠ ConvKind.illegal ∧ ((cxOf i 96 t).rnd ≠ 1 ∨ ((cxOf i 96 t).opnd (cxOf i 96 t).td).f.srTarget = true) ∧ ((cxOf i 96 t).opnd (cxOf i 96 t).ta).d.rows = ((cxOf i 96 t).opnd (cxOf i 96 t).td).d.rows ∧ ((cxOf i 96 t).opnd (cxOf i 96 t).ta).d.cols = ((cxOf i 96 t).opnd (cxOf i 96 t).td).d.cols ∧ ((cxOf i 96 t).opnd (cxOf i 96 t).td).count ≤ 256 ∧ mxColsOk ((cxOf i 96 t).opnd (cxOf i 96 t).td) = true) ∧
    (∃ (as : List ARow) (bs : List (List Elem)) (i j : Nat) (a : ARow) (b : List Elem), as[i]? = some a ∧ bs[j]? = some b) ∧
    (∃ (as : List ARow) (bs : List (List Elem)) (i j : Nat) (a : ARow) (b : List Elem), as[i]? = some a ∧ bs[j]? = some b) :=
  ⟨⟨wMma, tManys, tMany, _, executes_of _ _ _ _ (by decide +kernel), pickOk_eq _ (by decide +kernel), by decide +kernel⟩,
   ⟨wCsr, tManys, tMany, _, executes_of _ _ _ _ (by decide +kernel), pickOk_eq _ (by decide +kernel), by decide +kernel⟩,
   ⟨wOut, tTensors, tTensor, _, executes_of _ _ _ _ (by decide +kernel), pickOk_eq _ (by decide +kernel), by decide +kernel⟩,
   ⟨wCvt, tTensors, tTensor, _, executes_of _ _ _ _ (by decide +kernel), pickOk_eq _ (by decide +kernel), by decide +kernel⟩,
   ⟨wMma, tManys, tMany, executes_of _ _ _ _ (by decide +kernel), by constructor <;> decide +kernel, by constructor <;> decide +kernel, fun h => absurd h (by decide +kernel), by decide +kernel⟩,
   ⟨wCsr, tManys, tMany, executes_of _ _ _ _ (by decide +kernel), by constructor <;> decide +kernel, by constructor <;> decide +kernel, by constructor <;> decide +kernel, by constructor <;> decide +kernel, fun h => absurd h (by decide +kernel), by decide +kernel⟩,
   ⟨wOut, tTensors, tTensor, executes_of _ _ _ _ (by decide +kernel), by constructor <;> decide +kernel, by decide +kernel⟩,
   ⟨wCvt, tTensors, tTensor, executes_of _ _ _ _ (by decide +kernel), by constructor <;> decide +kernel, by constructor <;> decide +kernel, by decide +kernel⟩,
   ⟨[⟨[some ⟨0x3f80, .num false 1 0, false⟩], true⟩], [[⟨0x4000, .num false 2 0, false⟩]], 0, 0, _, _, pickO_eq _ (by decide +kernel), pickO_eq _ (by decide +kernel)⟩,
   ⟨[⟨[some ⟨3, .num false 3 0, false⟩], true⟩], [[⟨0xfe, .num true 2 0, false⟩]], 0, 0, _, _, pickO_eq _ (by decide +kernel), pickO_eq _ (by decide +kernel)⟩⟩
end

section
open Tensors
theorem witness_ResumableInstructionsRunUnits :
    (∃ (i : Issue) (s : State) (t : Task) (us : Machine.Units) (r : Effect), Executes spvalidSpec i s t ∧ (unitsCheck spvalidCheck (fun x => [x.td, x.ta, x.te, x.tf]) noOwn (cxOf i spvalidSpec.op t) (s.turn i) = Except.ok us) ∧ (unitReady (cxOf i spvalidSpec.op t) us (if (true && (cxOf i spvalidSpec.op t).firstUnit us == 0) = true then (cxOf i spvalidSpec.op t).putS (s.turn i) (cxOf i spvalidSpec.op t).sreg2 0 false else s.turn i) ((cxOf i spvalidSpec.op t).firstUnit us) = Except.ok ()) ∧ (us.kind.unit (cxOf i spvalidSpec.op t) (if (true && (cxOf i spvalidSpec.op t).firstUnit us == 0) = true then (cxOf i spvalidSpec.op t).putS (s.turn i) (cxOf i spvalidSpec.op t).sreg2 0 false else s.turn i) ((cxOf i spvalidSpec.op t).unitLinks us) ((cxOf i spvalidSpec.op t).firstUnit us) [] = Except.ok r) ∧ poisonLeaves (s.turn i) (Next.stay (unitEnd (cxOf i spvalidSpec.op t) us ((cxOf i spvalidSpec.op t).firstUnit us) r)) = false) ∧
    (∃ (i : Issue) (s : State) (t : Task) (us : Machine.Units) (r : Effect), Executes tcopySpec i s t ∧ (unitsCheck tcopyWhole (fun x => [x.td, x.ta]) noOwn (cxOf i tcopySpec.op t) (s.turn i) = Except.ok us) ∧ (unitReady (cxOf i tcopySpec.op t) us (if (false && (cxOf i tcopySpec.op t).firstUnit us == 0) = true then (cxOf i tcopySpec.op t).putS (s.turn i) (cxOf i tcopySpec.op t).sreg2 0 false else s.turn i) ((cxOf i tcopySpec.op t).firstUnit us) = Except.ok ()) ∧ (us.kind.unit (cxOf i tcopySpec.op t) (if (false && (cxOf i tcopySpec.op t).firstUnit us == 0) = true then (cxOf i tcopySpec.op t).putS (s.turn i) (cxOf i tcopySpec.op t).sreg2 0 false else s.turn i) ((cxOf i tcopySpec.op t).unitLinks us) ((cxOf i tcopySpec.op t).firstUnit us) [] = Except.ok r) ∧ poisonLeaves (s.turn i) (Next.stay (unitEnd (cxOf i tcopySpec.op t) us ((cxOf i tcopySpec.op t).firstUnit us) r)) = false) ∧
    (∃ (i : Issue) (s : State) (t : Task) (us : Machine.Units) (r : Effect), Executes tfillSpec i s t ∧ (unitsCheck tfillCheck (fun x => [x.td]) noOwn (cxOf i tfillSpec.op t) (s.turn i) = Except.ok us) ∧ (unitReady (cxOf i tfillSpec.op t) us (if (false && (cxOf i tfillSpec.op t).firstUnit us == 0) = true then (cxOf i tfillSpec.op t).putS (s.turn i) (cxOf i tfillSpec.op t).sreg2 0 false else s.turn i) ((cxOf i tfillSpec.op t).firstUnit us) = Except.ok ()) ∧ (us.kind.unit (cxOf i tfillSpec.op t) (if (false && (cxOf i tfillSpec.op t).firstUnit us == 0) = true then (cxOf i tfillSpec.op t).putS (s.turn i) (cxOf i tfillSpec.op t).sreg2 0 false else s.turn i) ((cxOf i tfillSpec.op t).unitLinks us) ((cxOf i tfillSpec.op t).firstUnit us) [] = Except.ok r) ∧ poisonLeaves (s.turn i) (Next.stay (unitEnd (cxOf i tfillSpec.op t) us ((cxOf i tfillSpec.op t).firstUnit us) r)) = false) ∧
    (∃ (band : GatherBand) (i : Issue) (s : State) (t : Task) (us : Machine.Units) (r : Effect), Executes gatherSpec i s t ∧ (unitsCheck gatherCheck (fun x => [x.td, x.ta, x.tb, x.te, x.tf]) deadlinePoison (cxOf i gatherSpec.op t) (s.turn i) = Except.ok us) ∧ (unitReady (cxOf i gatherSpec.op t) us (if (true && (cxOf i gatherSpec.op t).firstUnit us == 0) = true then (cxOf i gatherSpec.op t).putS (s.turn i) (cxOf i gatherSpec.op t).sreg2 0 false else s.turn i) ((cxOf i gatherSpec.op t).firstUnit us) = Except.ok ()) ∧ (us.kind.unit (cxOf i gatherSpec.op t) (if (true && (cxOf i gatherSpec.op t).firstUnit us == 0) = true then (cxOf i gatherSpec.op t).putS (s.turn i) (cxOf i gatherSpec.op t).sreg2 0 false else s.turn i) ((cxOf i gatherSpec.op t).unitLinks us) ((cxOf i gatherSpec.op t).firstUnit us) band = Except.ok r) ∧ poisonLeaves (s.turn i) (Next.stay (unitEnd (cxOf i gatherSpec.op t) us ((cxOf i gatherSpec.op t).firstUnit us) r)) = false) ∧
    (∃ (i : Issue) (s : State) (t : Task) (us : Machine.Units) (r : Effect), Executes scatterSpec i s t ∧ (unitsCheck scatterCheck (fun x => [x.td, x.ta, x.tb]) noOwn (cxOf i scatterSpec.op t) (s.turn i) = Except.ok us) ∧ (unitReady (cxOf i scatterSpec.op t) us (if (true && (cxOf i scatterSpec.op t).firstUnit us == 0) = true then (cxOf i scatterSpec.op t).putS (s.turn i) (cxOf i scatterSpec.op t).sreg2 0 false else s.turn i) ((cxOf i scatterSpec.op t).firstUnit us) = Except.ok ()) ∧ (us.kind.unit (cxOf i scatterSpec.op t) (if (true && (cxOf i scatterSpec.op t).firstUnit us == 0) = true then (cxOf i scatterSpec.op t).putS (s.turn i) (cxOf i scatterSpec.op t).sreg2 0 false else s.turn i) ((cxOf i scatterSpec.op t).unitLinks us) ((cxOf i scatterSpec.op t).firstUnit us) [] = Except.ok r) ∧ poisonLeaves (s.turn i) (Next.stay (unitEnd (cxOf i scatterSpec.op t) us ((cxOf i scatterSpec.op t).firstUnit us) r)) = false) ∧
    (∃ (core : CoreId) (slot : SlotId) (band : GatherBand) (s : State) (t : Task) (r : Run) (us : Machine.Units) (e : Effect), s.task? core.val slot.val = some t ∧ t.run = some r ∧ s.hasTurn core.val slot.val = true ∧ unitsOf ({ core := core.val, slot := slot.val, c := t.ctx, word := BitVec.toNat r.word, ext := BitVec.toNat r.ext, t := t } : Cx) = some us ∧ unitReady ({ core := core.val, slot := slot.val, c := t.ctx, word := BitVec.toNat r.word, ext := BitVec.toNat r.ext, t := t } : Cx) us (s.dropFirst core.val slot.val) r.done = Except.ok () ∧ us.kind.unit ({ core := core.val, slot := slot.val, c := t.ctx, word := BitVec.toNat r.word, ext := BitVec.toNat r.ext, t := t } : Cx) (s.dropFirst core.val slot.val) (({ core := core.val, slot := slot.val, c := t.ctx, word := BitVec.toNat r.word, ext := BitVec.toNat r.ext, t := t } : Cx).unitLinks us) r.done band = Except.ok e ∧ poisonLeaves (s.dropFirst core.val slot.val) (Next.stay (unitEnd ({ core := core.val, slot := slot.val, c := t.ctx, word := BitVec.toNat r.word, ext := BitVec.toNat r.ext, t := t } : Cx) us r.done e)) = false) ∧
    (∃ (s : State) (core slot : Nat) (t : Task) (r : Run), s.task? core slot = some t ∧ t.run = some r ∧ r.done + 1 < r.units ∧ r.units ≤ 2 ^ 24) ∧
    (∃ (s : State) (core slot : Nat) (t : Task) (r : Run), s.task? core slot = some t ∧ t.run = some r ∧ r.units ≤ r.done + 1) :=
  ⟨⟨wSpv, tManys, tMany, _, _, executes_of _ _ _ _ (by decide +kernel), pickOk_eq _ (by decide +kernel), okUnit (by decide +kernel), pickOk_eq _ (by decide +kernel), by decide +kernel⟩,
   ⟨wCvt, tTensors, tTensor, _, _, executes_of _ _ _ _ (by decide +kernel), pickOk_eq _ (by decide +kernel), okUnit (by decide +kernel), pickOk_eq _ (by decide +kernel), by decide +kernel⟩,
   ⟨wFill, tTensors, tTensor, _, _, executes_of _ _ _ _ (by decide +kernel), pickOk_eq _ (by decide +kernel), okUnit (by decide +kernel), pickOk_eq _ (by decide +kernel), by decide +kernel⟩,
   ⟨[], wGat, tManys, tMany, _, _, executes_of _ _ _ _ (by decide +kernel), pickOk_eq _ (by decide +kernel), okUnit (by decide +kernel), pickOk_eq _ (by decide +kernel), by decide +kernel⟩,
   ⟨wSca, tManys, tMany, _, _, executes_of _ _ _ _ (by decide +kernel), pickOk_eq _ (by decide +kernel), okUnit (by decide +kernel), pickOk_eq _ (by decide +kernel), by decide +kernel⟩,
   ⟨0, 0, [], tWith tRun, tRun, _, _, _, by decide +kernel, pickO_eq _ (by decide +kernel), by decide +kernel, pickO_eq _ (by decide +kernel), okUnit (by decide +kernel), pickOk_eq _ (by decide +kernel), by decide +kernel⟩,
   ⟨tWith tRun2, 0, 0, tRun2, _, by decide +kernel, pickO_eq _ (by decide +kernel), by decide +kernel⟩,
   ⟨tWith tRun, 0, 0, tRun, _, by decide +kernel, pickO_eq _ (by decide +kernel), by decide +kernel⟩⟩
end

section
open Streams
theorem witness_StreamSends :
    (∃ (i : Issue) (s : State) (t : Task) (a : Nat), Executes streamSendSpec i s t ∧ ((fun x s => x.sendCheck s false (fun x => true) fun e n => Wait.latch e true n) (cxOf i streamSendSpec.op t) (s.turn i) = Except.ok a) ∧ (poisonLeaves (s.turn i) (Next.retire ((fun x s k => x.sendRun s false k) (cxOf i streamSendSpec.op t) (s.turn i) a)) = false)) ∧
    (∃ (i : Issue) (s : State) (t : Task) (a : Nat), Executes streamInjSpec i s t ∧ ((fun x s => x.sendCheck s true s.sideReady Wait.inject) (cxOf i streamInjSpec.op t) (s.turn i) = Except.ok a) ∧ (poisonLeaves (s.turn i) (Next.retire ((fun x s k => x.sendRun s (x.qfunc == 1) k) (cxOf i streamInjSpec.op t) (s.turn i) a)) = false)) :=
  ⟨⟨sa2, tStr0, tStrTask, _, executes_of _ _ _ _ (by decide +kernel), pickOk_eq _ (by decide +kernel), by decide +kernel⟩,
   ⟨tWord (2*2^46 + 2*2^40 + 1), tStr0, tStrTask, _, executes_of _ _ _ _ (by decide +kernel), pickOk_eq _ (by decide +kernel), by decide +kernel⟩⟩
end

section
open Sends
theorem witness_StreamSends_2 :
    (∃ (s : State) (k n : Nat) (ts : List (List Byte × List Nat)) (d : Nat) (e : Endpoint), s.ep? k = some e ∧ e.node = none ∧ e.route = [[0]] ∧ e.peers = [Peer.here d] ∧ s.coreReach (k / 256) (d / 256) = true ∧ n = s.epGrain k ∧ ts.length = n) :=
  ⟨(up tStr0), 2, 1, [([1,2], [3])], 1, _, pickO_eq _ (by decide +kernel), by decide +kernel⟩
end

section
open Streams
theorem witness_StreamReceivesSignalsAndWaits :
    (∃ (i : Issue) (s : State) (t : Task) (k : Nat), Executes streamRecvSpec i s t ∧ countFits i ∧ namesEndpoint i 113 s t false k ∧ countOf i = s.epGrain k ∧ s.mapped t.ctx (s.ringAddr t.ctx k (s.epD k).head) (4096 * countOf i) = true ∧ countOf i ≤ (s.epD k).filled) ∧
    (∃ (s : State) (k : Nat) (e : Endpoint), s.ep? k = some e) ∧
    (∃ (i : Issue) (s : State) (t : Task) (k : Nat), Executes latchWaitSpec i s t ∧ countFits i ∧ namesEndpoint i 114 s t (wordField i 24 4 == 1) k ∧ (countOf i ≤ if wordField i 24 4 = 1 then s.linkB k else s.ringB k) ∧ (countOf i ≤ if wordField i 24 4 = 1 then s.free k else (s.epD k).filled)) ∧
    (∃ (i : Issue) (s : State) (t : Task) (k : Nat), Executes latchSigSpec i s t ∧ wordField i 24 4 = 1 ∧ countFits i ∧ namesEndpoint i 115 s t false k ∧ s.older ↑i.core ↑i.slot = false ∧ countOf i ≤ (s.epD k).taken) ∧
    (∃ (i : Issue) (s : State) (t : Task) (k : Nat), Executes latchSigSpec i s t ∧ wordField i 24 4 = 0 ∧ countFits i ∧ namesEndpoint i 115 s t true k ∧ s.notInj k = true ∧ countOf i % s.epGrain k = 0 ∧ s.older ↑i.core ↑i.slot = false ∧ s.room k (countOf i) = true ∧ poisonLeaves (s.turn i) (Next.retire ((s.turn i).sendGroups k (countOf i) false none)) = false) ∧
    (∃ (s : State) (k n : Nat) (e : Endpoint), s.ep? k = some e ∧ e.fwd = none ∧ 0 < n) ∧
    (∃ (i : Issue) (s : State) (t : Task) (k : Nat), Executes streamRecvSpec i s t ∧ countFits i ∧ namesEndpoint i 113 s t false k ∧ countOf i = s.epGrain k ∧ s.mapped t.ctx (s.ringAddr t.ctx k (s.epD k).head) (4096 * countOf i) = true ∧ (s.epD k).filled < countOf i) ∧
    (∃ (i : Issue) (s : State) (t : Task) (k : Nat), Executes latchWaitSpec i s t ∧ wordField i 24 4 = 0 ∧ countFits i ∧ namesEndpoint i 114 s t false k ∧ countOf i ≤ s.ringB k ∧ (s.epD k).filled < countOf i) ∧
    (∃ (s : State) (core slot : Nat) (t : Task), s.task? core slot = some t) ∧
    (∃ (i : Issue) (s : State) (t : Task) (k : Nat), Executes latchSigSpec i s t ∧ wordField i 24 4 = 1 ∧ countFits i ∧ namesEndpoint i 115 s t false k ∧ s.older ↑i.core ↑i.slot = false ∧ (s.epD k).taken < countOf i) :=
  ⟨⟨tWord (5*2^28+1), tStr, tStrTask, 1, executes_of _ _ _ _ (by decide +kernel), (And.intro (by decide +kernel) (by decide +kernel)), okIs_eq (by decide +kernel), by decide +kernel⟩,
   ⟨tStr, 1, _, pickO_eq _ (by decide +kernel)⟩,
   ⟨tWord 2, tStr, tStrTask, 1, executes_of _ _ _ _ (by decide +kernel), (And.intro (by decide +kernel) (by decide +kernel)), okIs_eq (by decide +kernel), by decide +kernel⟩,
   ⟨tWord (2^24+1), tStr, tStrTask, 1, executes_of _ _ _ _ (by decide +kernel), by decide +kernel, (And.intro (by decide +kernel) (by decide +kernel)), okIs_eq (by decide +kernel), by decide +kernel⟩,
   ⟨tWord (2^46+1), tStr0, tStrTask, 2, executes_of _ _ _ _ (by decide +kernel), by decide +kernel, (And.intro (by decide +kernel) (by decide +kernel)), okIs_eq (by decide +kernel), by decide +kernel⟩,
   ⟨tStr, 1, 1, _, pickO_eq _ (by decide +kernel), by decide +kernel⟩,
   ⟨tWord (5*2^28+1), tStr0, tStrTask, 1, executes_of _ _ _ _ (by decide +kernel), (And.intro (by decide +kernel) (by decide +kernel)), okIs_eq (by decide +kernel), by decide +kernel⟩,
   ⟨tWord 3, tStr, tStrTask, 1, executes_of _ _ _ _ (by decide +kernel), by decide +kernel, (And.intro (by decide +kernel) (by decide +kernel)), okIs_eq (by decide +kernel), by decide +kernel⟩,
   ⟨tStr, 0, 0, tStrTask, by decide +kernel⟩,
   ⟨tWord (2^24+2), tStr, tStrTask, 1, executes_of _ _ _ _ (by decide +kernel), by decide +kernel, (And.intro (by decide +kernel) (by decide +kernel)), okIs_eq (by decide +kernel), by decide +kernel⟩⟩
end

section
open Streams
theorem witness_BufferAllocationAndFree :
    (∃ (i : Issue) (s : State) (t : Task), Executes bufAllocSpec i s t ∧ s.freeBuffers t.ctx (↑i.core) (wordField i 24 4 == 1) ≠ [] ∧ s.bufferQueue t.ctx (↑i.core) (↑i.slot) (wordField i 24 4 == 1) = false) ∧
    (∃ (i : Issue) (s : State) (t : Task), Executes bufAllocSpec i s t ∧ s.freeBuffers t.ctx (↑i.core) (wordField i 24 4 == 1) = []) ∧
    (∃ (i : Issue) (s : State) (t : Task) (j : Nat), Executes bufFreeSpec i s t ∧ t.regPoison (wordField i 40 6) = false ∧ s.bufCheck t.ctx (↑i.core) (↑i.slot) (BitVec.toNat (t.reg (wordField i 40 6))) = Except.ok j) ∧
    (∃ (i : Issue) (s : State) (t : Task) (kind : Nat), Executes bufFreeSpec i s t ∧ t.regPoison (wordField i 40 6) = false ∧ s.bufCheck t.ctx (↑i.core) (↑i.slot) (BitVec.toNat (t.reg (wordField i 40 6))) = Except.error kind) :=
  ⟨⟨tWord (3*2^28), tBuf, tTask, executes_of _ _ _ _ (by decide +kernel), by decide +kernel⟩,
   ⟨tWord (3*2^28), tState, tTask, executes_of _ _ _ _ (by decide +kernel), by decide +kernel⟩,
   ⟨tWord (1*2^40), { tBuf with cores.tasks := [(0, tTok (0x2000+0xfff*2^44))] }, tTok (0x2000+0xfff*2^44), _, executes_of _ _ _ _ (by decide +kernel), by decide +kernel, pickOk_eq _ (by decide +kernel)⟩,
   ⟨tWord (1*2^40), { tBuf with cores.tasks := [(0, tTok (0x2000+0xff*2^44))] }, tTok (0x2000+0xff*2^44), _, executes_of _ _ _ _ (by decide +kernel), by decide +kernel, pickErr_eq _ (by decide +kernel)⟩⟩
end

section
open Waits
theorem witness_WaitingTasksWakeAndAge :
    (∃ (core : CoreId) (slot : SlotId) (s : State) (t : Task) (w : Wait), s.task? core.val slot.val = some t ∧ t.state = TState.waiting ∧ t.wait = some w ∧ s.runs t.ctx = true ∧ s.waitOver core.val slot.val t w = true ∧ w ≠ Wait.threshold ∧ s.flag Fld.timStatusPllLock = true) ∧
    (∃ (core : CoreId) (slot : SlotId) (s : State) (t : Task), s.task? core.val slot.val = some t ∧ t.state = TState.waiting ∧ t.wait = some Wait.threshold ∧ s.runs t.ctx = true ∧ s.waitOver core.val slot.val t Wait.threshold = true ∧ s.flag Fld.timStatusPllLock = true) ∧
    (∃ (core : CoreId) (slot : SlotId) (codes : BitVec 6) (s : State) (t : Task) (l : List (Nat × Bool)) (n : Nat), s.task? core.val slot.val = some t ∧ t.state = TState.waiting ∧ t.wait = some (Wait.tiles l) ∧ s.runs t.ctx = true ∧ s.allStaged core.val t.ctx l = true ∧ s.flag Fld.timStatusPllLock = true ∧ n = t.causes ||| s.extraCauses codes.toNat ∧ n ≠ 0 ∧ n < 64 ∧ t.ctx < 64) ∧
    (∃ (s : State), s.flag Fld.timStatusPllLock = false) ∧
    (∃ (s : State), s.flag Fld.timStatusPllLock = true) ∧
    (∃ (core : CoreId) (slots : BitVec 16) (s : State) (k : Nat), s.flag Fld.timStatusPllLock = true ∧ s.cores.first.getD core.val [] = [] ∧ k < 16 ∧ slots.getLsbD k = true ∧ s.slotReady core.val k = true ∧ (∀ j < k, slots.getLsbD j = true → s.slotReady core.val j = false)) :=
  ⟨⟨0, 0, strW (.latch 2 true 1), tWait (.latch 2 true 1), _, by decide +kernel, by decide +kernel, pickO_eq _ (by decide +kernel), by decide +kernel⟩,
   ⟨0, 0, tC2 (tWait .threshold) dec0, tWait .threshold, by decide +kernel⟩,
   ⟨0, 0, 0, poolC, { tWait (.tiles [(0x20000001000, false)]) with causes := 2 }, [(0x20000001000, false)], 2, by decide +kernel⟩,
   ⟨State.reset, by decide +kernel⟩,
   ⟨tState, by decide +kernel⟩,
   ⟨0, 1, tState, 0, by decide +kernel⟩⟩
end

section
open Waits
theorem witness_SynchronisationAndReleases :
    (∃ (i : Issue) (s : State) (t : Task), Executes thresholdSpec i s t ∧ (s.ctx t.ctx).priv = false ∧ s.drained (↑i.core) (↑i.slot) t.ctx = true ∧ s.heldTask t.ctx ↑i.core ↑i.slot = false) ∧
    (∃ (i : Issue) (s : State) (t : Task), Executes thresholdSpec i s t ∧ ((s.ctx t.ctx).priv = true ∨ s.drained (↑i.core) (↑i.slot) t.ctx = false ∨ s.heldTask t.ctx ↑i.core ↑i.slot = true)) ∧
    (∃ (i : Issue) (s : State) (t : Task) (n : Nat), Executes barrierSpec i s t ∧ (List.findIdx? (fun u => u.handle == BitVec.toNat (t.reg (wordField i 40 6)) && u.casement && decide (u.leaf ≤ t.leaf) && decide (t.leaf < u.leaf + u.leaves)) (s.ctx t.ctx).units = some n) ∧ t.regPoison (wordField i 40 6) = false) ∧
    (∃ (i : Issue) (s : State) (t : Task), Executes atLaunchSpec i s t ∧ t.regPoison (wordField i 40 6) = false ∧ s.tick < BitVec.toNat (t.reg (wordField i 40 6))) ∧
    (∃ (i : Issue) (s : State) (t : Task), Executes tickRdSpec i s t) ∧
    (∃ (c : CtxId) (s : State) (g : Nat), s.flag Fld.timStatusPllLock = true ∧ (s.ctx c.val).priv = true ∧ s.runs c.val = true ∧ s.holdsAt c.val ((s.ctx c.val).gen + 1) = false ∧ (List.find? (fun r => r.wait == Wait.threshold) (s.ctx c.val).releases = none) ∧ g = s.voteGen c.val s.liveDecl Wait.threshold ∧ g ≠ 0 ∧ s.arrived c.val s.liveDecl Wait.threshold g = true) ∧
    (∃ (c : CtxId) (s : State) (r : Release), s.flag Fld.timStatusPllLock = true ∧ (s.ctx c.val).priv = true ∧ s.runs c.val = true ∧ s.holdsAt c.val ((s.ctx c.val).gen + 1) = false ∧ (List.find? (fun r => r.wait == Wait.threshold) (s.ctx c.val).releases = some r) ∧ r.tick ≤ s.tick ∧ slotsApart s c.val) ∧
    (∃ (c : CtxId) (node : Nat) (s : State) (g : Nat) (n : UnitNode), s.flag Fld.timStatusPllLock = true ∧ s.runs c.val = true ∧ (s.ctx c.val).units[node]? = some n ∧ (List.find? (fun r => r.wait == Wait.barrier node) (s.ctx c.val).releases = none) ∧ (g = s.voteGen c.val (fun d => s.under c.val node d && s.startedDecl d) (Wait.barrier node)) ∧ g ≠ 0 ∧ (s.arrived c.val (fun d => s.under c.val node d && s.startedDecl d) (Wait.barrier node) g = true)) ∧
    (∃ (c : CtxId) (node : Nat) (s : State) (r : Release), s.flag Fld.timStatusPllLock = true ∧ s.runs c.val = true ∧ (List.find? (fun r => r.wait == Wait.barrier node) (s.ctx c.val).releases = some r) ∧ r.tick ≤ s.tick ∧ slotsApart s c.val) ∧
    (∃ (core : CoreId) (s : State) (k : Nat) (t : Task) (v : Nat), s.flag Fld.timStatusPllLock = true ∧ k < 16 ∧ s.task? core.val k = some t ∧ t.state = TState.waiting ∧ s.runs t.ctx = true ∧ t.request = none ∧ t.run = none ∧ slotIn s.cores.held core.val k = false ∧ t.wait = some (Wait.launch v) ∧ v ≤ s.tick ∧ (∀ (j : Nat) (w : Task), j < k → s.task? core.val j = some w → w.state = TState.waiting → ∀ (x : Nat), w.wait = some (Wait.launch x) → s.tick < x)) :=
  ⟨⟨tWord 0, tState, tTask, executes_of _ _ _ _ (by decide +kernel), by decide +kernel⟩,
   ⟨tWord 0, tStr0, tStrTask, executes_of _ _ _ _ (by decide +kernel), by decide +kernel⟩,
   ⟨tWord (1*2^40), tC2 (tS10 10) dec0, tS10 10, _, executes_of _ _ _ _ (by decide +kernel), pickO_eq _ (by decide +kernel), by decide +kernel⟩,
   ⟨tWord (1*2^40), tC2 (tS10 10) dec0, tS10 10, executes_of _ _ _ _ (by decide +kernel), by decide +kernel⟩,
   ⟨tWord (7*2^28), { tC2 (tS10 10) dec0 with tick := 2^64-1 }, tS10 10, executes_of _ _ _ _ (by decide +kernel)⟩,
   by refine ⟨0, rlS .threshold [], _, ?_, ?_, ?_, ?_, ?_, rfl, ?_⟩ <;> decide +kernel,
   by refine ⟨0, rlS .threshold [⟨.threshold, 1, 5⟩], ⟨.threshold, 1, 5⟩, ?_, ?_, ?_, ?_, ?_, ?_, by unfold slotsApart; decide +kernel⟩ <;> decide +kernel,
   ⟨0, 0, rlS (.barrier 0) [], 1, cas, by decide +kernel⟩,
   by refine ⟨0, 0, rlS (.barrier 0) [⟨.barrier 0, 1, 5⟩], ⟨.barrier 0, 1, 5⟩, ?_, ?_, ?_, ?_, by unfold slotsApart; decide +kernel⟩ <;> decide +kernel,
   by refine ⟨0, tC2 (tWait (.launch 0)) dec0, 0, tWait (.launch 0), 0, ?_, ?_, ?_, ?_, ?_, ?_, ?_, ?_, ?_, ?_, fun j v h => absurd h (Nat.not_lt_zero j)⟩ <;> decide +kernel⟩
end

section
open Waits
theorem witness_DeadlocksAndContextFaults :
    (∃ (c : CtxId) (s : State), s.dlmArmed c.val = true ∧ (s.ctx c.val).dlmMark = s.dlmMark c.val ∧ s.dlmLimit c.val ≤ (s.ctx c.val).dlmCount) ∧
    (∃ (c : CtxId) (s : State), s.dlmArmed c.val = false) ∧
    (∃ (s : State) (c : CtxId), s.dlmArmed c.val = true ∧ (s.ctx c.val).dlmMark = s.dlmMark c.val) ∧
    (∃ (s : State) (c : CtxId), s.dlmArmed c.val = true ∧ (s.ctx c.val).dlmMark ≠ s.dlmMark c.val) ∧
    (∃ (s : State) (c : CtxId), s.dlmArmed c.val = false) ∧
    (∃ (s : State) (c : CtxId), s.ctxState c.val ≠ ctxIdle ∧ s.ctxState c.val ≠ ctxFaulted ∧ s.faultWaits c.val = false) :=
  ⟨⟨0, puts (tC2 (tWait (.barrier 0)) dec0 (fun c => { c with dlmMark := [0], dlmCount := 4096 })) [(Fld.synDlmCtrlEn 0, 1), (Fld.synDlmCtrlLimitLog2 0, 0)], by decide +kernel⟩,
   ⟨0, tState, by decide +kernel⟩,
   ⟨puts (tC2 (tWait (.barrier 0)) dec0 (fun c => { c with dlmMark := [0], dlmCount := 95 })) [(Fld.synDlmCtrlEn 0, 1)], 0, by decide +kernel⟩,
   ⟨puts (tC2 (tWait (.barrier 0)) dec0 (fun c => { c with dlmMark := [1], dlmCount := 95 })) [(Fld.synDlmCtrlEn 0, 1)], 0, by decide +kernel⟩,
   ⟨tState, 0, by decide +kernel⟩,
   ⟨tState, 0, by decide +kernel⟩⟩
end

section
open Waits
theorem witness_UnitQuerySelectors :
    (∃ (i : Issue) (s : State) (t : Task) (u : UnitNode), Executes unitQuerySpec i s t ∧ qFuncOf i = 0 ∧ (List.find? (fun v => !v.casement && v.leaf == t.leaf) (s.ctx t.ctx).units = some u)) ∧
    (∃ (i : Issue) (s : State) (t : Task), Executes unitQuerySpec i s t ∧ qFuncOf i = 5) ∧
    (∃ (i : Issue) (s : State) (t : Task) (k : Context) (u : UnitNode), Executes unitQuerySpec i s t ∧ s.unit? t.ctx (BitVec.toNat (t.reg (qRegA i))) = some (k, u) ∧ t.regPoison (qRegA i) = false ∧ qFuncOf i = 1 ∧ u.parent = none) ∧
    (∃ (i : Issue) (s : State) (t : Task) (k : Context) (u : UnitNode) (p : Nat) (v : UnitNode), Executes unitQuerySpec i s t ∧ s.unit? t.ctx (BitVec.toNat (t.reg (qRegA i))) = some (k, u) ∧ t.regPoison (qRegA i) = false ∧ qFuncOf i = 1 ∧ u.parent = some p ∧ k.units[p]? = some v) ∧
    (∃ (i : Issue) (s : State) (t : Task) (k : Context) (u : UnitNode) (h : Nat), Executes unitQuerySpec i s t ∧ s.unit? t.ctx (BitVec.toNat (t.reg (qRegA i))) = some (k, u) ∧ t.regPoison (qRegA i) = false ∧ qFuncOf i = 2 ∧ k.child u (BitVec.toNat (t.reg (qRegB i))) = some h ∧ t.regPoison (qRegB i) = false) ∧
    (∃ (i : Issue) (s : State) (t : Task) (k : Context) (u : UnitNode), Executes unitQuerySpec i s t ∧ s.unit? t.ctx (BitVec.toNat (t.reg (qRegA i))) = some (k, u) ∧ t.regPoison (qRegA i) = false ∧ qFuncOf i = 3) ∧
    (∃ (i : Issue) (s : State) (t : Task) (k : Context) (u : UnitNode), Executes unitQuerySpec i s t ∧ s.unit? t.ctx (BitVec.toNat (t.reg (qRegA i))) = some (k, u) ∧ t.regPoison (qRegA i) = false ∧ qFuncOf i = 4) ∧
    (∃ (i : Issue) (s : State) (t : Task) (k : Context) (u : UnitNode), Executes unitQuerySpec i s t ∧ s.unit? t.ctx (BitVec.toNat (t.reg (qRegA i))) = some (k, u) ∧ t.regPoison (qRegA i) = false ∧ qFuncOf i = 6) ∧
    (∃ (i : Issue) (s : State) (t : Task), Executes unitQuerySpec i s t ∧ qFuncOf i = 7 ∧ BitVec.toNat (t.reg (qRegA i)) % 64 = 0 ∧ inT0 (BitVec.toNat (t.reg (qRegA i))) = true ∧ inT0 (BitVec.toNat (t.reg (qRegA i)) + 511) = true ∧ s.mapped t.ctx (BitVec.toNat (t.reg (qRegA i))) 512 = true ∧ t.regPoison (qRegA i) = false) :=
  ⟨⟨tWord 0, uqS 9, tS10 9, _, executes_of _ _ _ _ (by decide +kernel), by decide +kernel, pickO_eq _ (by decide +kernel)⟩,
   ⟨tWord (5*2^24), uqS 9, tS10 9, executes_of _ _ _ _ (by decide +kernel), by decide +kernel⟩,
   ⟨tWord (1*2^24+2^40), uqS 9, tS10 9, (pickO ((uqS 9).unit? (tS10 9).ctx (BitVec.toNat ((tS10 9).reg (qRegA (tWord (1*2^24+2^40)))))) (by decide +kernel)).1, (pickO ((uqS 9).unit? (tS10 9).ctx (BitVec.toNat ((tS10 9).reg (qRegA (tWord (1*2^24+2^40)))))) (by decide +kernel)).2, executes_of _ _ _ _ (by decide +kernel), by decide +kernel⟩,
   ⟨tWord (1*2^24+2^40), uq2 9, tS10 9, (pickO ((uq2 9).unit? (tS10 9).ctx (BitVec.toNat ((tS10 9).reg (qRegA (tWord (1*2^24+2^40)))))) (by decide +kernel)).1, (pickO ((uq2 9).unit? (tS10 9).ctx (BitVec.toNat ((tS10 9).reg (qRegA (tWord (1*2^24+2^40)))))) (by decide +kernel)).2, _, _, executes_of _ _ _ _ (by decide +kernel), by decide +kernel, by decide +kernel, by decide +kernel, pickO_eq _ (by decide +kernel), pickO_eq _ (by decide +kernel)⟩,
   ⟨tWord (2*2^24+2^40+2*2^34+ 4*2^28), uq5, tSel, uq5.ctx 0, { cas with d0 := 4 }, _, executes_of _ _ _ _ (by decide +kernel), by decide +kernel, by decide +kernel, by decide +kernel, pickO_eq _ (by decide +kernel), by decide +kernel⟩,
   ⟨tWord (3*2^24+2^40+ 4*2^28), uq2 9, tS10 9, (pickO ((uq2 9).unit? (tS10 9).ctx (BitVec.toNat ((tS10 9).reg (qRegA (tWord (3*2^24+2^40+ 4*2^28)))))) (by decide +kernel)).1, (pickO ((uq2 9).unit? (tS10 9).ctx (BitVec.toNat ((tS10 9).reg (qRegA (tWord (3*2^24+2^40+ 4*2^28)))))) (by decide +kernel)).2, executes_of _ _ _ _ (by decide +kernel), by decide +kernel⟩,
   ⟨tWord (4*2^24+2^40+ 4*2^28), uq2 9, tS10 9, (pickO ((uq2 9).unit? (tS10 9).ctx (BitVec.toNat ((tS10 9).reg (qRegA (tWord (4*2^24+2^40+ 4*2^28)))))) (by decide +kernel)).1, (pickO ((uq2 9).unit? (tS10 9).ctx (BitVec.toNat ((tS10 9).reg (qRegA (tWord (4*2^24+2^40+ 4*2^28)))))) (by decide +kernel)).2, executes_of _ _ _ _ (by decide +kernel), by decide +kernel⟩,
   ⟨tWord (6*2^24+2^40+ 4*2^28), uq2 10, tS10 10, (pickO ((uq2 10).unit? (tS10 10).ctx (BitVec.toNat ((tS10 10).reg (qRegA (tWord (6*2^24+2^40+ 4*2^28)))))) (by decide +kernel)).1, (pickO ((uq2 10).unit? (tS10 10).ctx (BitVec.toNat ((tS10 10).reg (qRegA (tWord (6*2^24+2^40+ 4*2^28)))))) (by decide +kernel)).2, executes_of _ _ _ _ (by decide +kernel), by decide +kernel⟩,
   ⟨tWord (7*2^24+2^40), uq2 0x40, tS10 0x40, executes_of _ _ _ _ (by decide +kernel), by decide +kernel⟩⟩
end

section
open Control
theorem witness_TaskControlRequests :
    (∃ (i : Issue) (s : State) (t : Task) (n : Nat) (u : UnitNode), Executes taskCtlSpec i s t ∧ qFuncOf i = 0 ∧ wordField i 0 24 ≠ 0 ∧ namesUnit i s t n u ∧ t.regPoison (qRegA i) = false ∧ (2 ≤ 0 → selectsItself i t u = false) ∧ (3 ≤ 0 → popCount 16 (wordField i 0 24) = 1 ∧ u.casement = false ∧ s.mapped t.ctx (BitVec.toNat (t.reg (qRegB i))) recordBytes = true ∧ t.regPoison (qRegB i) = false)) ∧
    (∃ (i : Issue) (s : State) (t : Task) (n : Nat) (u : UnitNode), Executes taskCtlSpec i s t ∧ qFuncOf i = 1 ∧ wordField i 0 24 ≠ 0 ∧ namesUnit i s t n u ∧ t.regPoison (qRegA i) = false ∧ (2 ≤ 1 → selectsItself i t u = false) ∧ (3 ≤ 1 → popCount 16 (wordField i 0 24) = 1 ∧ u.casement = false ∧ s.mapped t.ctx (BitVec.toNat (t.reg (qRegB i))) recordBytes = true ∧ t.regPoison (qRegB i) = false)) ∧
    (∃ (i : Issue) (s : State) (t : Task) (n : Nat) (u : UnitNode), Executes taskCtlSpec i s t ∧ qFuncOf i = 2 ∧ wordField i 0 24 ≠ 0 ∧ namesUnit i s t n u ∧ t.regPoison (qRegA i) = false ∧ (2 ≤ 2 → selectsItself i t u = false) ∧ (3 ≤ 2 → popCount 16 (wordField i 0 24) = 1 ∧ u.casement = false ∧ s.mapped t.ctx (BitVec.toNat (t.reg (qRegB i))) recordBytes = true ∧ t.regPoison (qRegB i) = false)) ∧
    (∃ (i : Issue) (s : State) (t : Task) (n : Nat) (u : UnitNode), Executes taskCtlSpec i s t ∧ qFuncOf i = 3 ∧ wordField i 0 24 ≠ 0 ∧ namesUnit i s t n u ∧ t.regPoison (qRegA i) = false ∧ (2 ≤ 3 → selectsItself i t u = false) ∧ (3 ≤ 3 → popCount 16 (wordField i 0 24) = 1 ∧ u.casement = false ∧ s.mapped t.ctx (BitVec.toNat (t.reg (qRegB i))) recordBytes = true ∧ t.regPoison (qRegB i) = false)) ∧
    (∃ (i : Issue) (s : State) (t : Task) (n : Nat) (u : UnitNode), Executes taskCtlSpec i s t ∧ qFuncOf i = 4 ∧ wordField i 0 24 ≠ 0 ∧ namesUnit i s t n u ∧ t.regPoison (qRegA i) = false ∧ (2 ≤ 4 → selectsItself i t u = false) ∧ (3 ≤ 4 → popCount 16 (wordField i 0 24) = 1 ∧ u.casement = false ∧ s.mapped t.ctx (BitVec.toNat (t.reg (qRegB i))) recordBytes = true ∧ t.regPoison (qRegB i) = false)) ∧
    (∃ (i : Issue), WellFormed (Instr.taskCtlStart i) = false) ∧
    (∃ (i : Issue), WellFormed (Instr.taskCtlStop i) = false) ∧
    (∃ (i : Issue), WellFormed (Instr.taskCtlPreempt i) = false) ∧
    (∃ (i : Issue), WellFormed (Instr.taskCtlSave i) = false) ∧
    (∃ (i : Issue), WellFormed (Instr.taskCtlRestore i) = false) ∧
    (∃ (req : Requester) (c : CtxId) (mask : BitVec 16) (s : State) (n : Nat) (u : UnitNode), s.accepts req (Reg.synTskCmd c.val) (0 + mask.toNat * 2 ^ 16) = true ∧ s.flag (Fld.synTskStatusBusy c.val) = false ∧ s.ctlBarred c.val 0 = false ∧ mask ≠ 0#16 ∧ (List.findIdx? (fun v => v.handle == s.get (Fld.synTskHandleHandle c.val)) (s.ctx c.val).units = some n) ∧ (s.ctx c.val).units[n]? = some u ∧ (3 ≤ 0 → popCount 16 mask.toNat = 1 ∧ u.casement = false)) ∧
    (∃ (req : Requester) (c : CtxId) (mask : BitVec 16) (s : State) (n : Nat) (u : UnitNode), s.accepts req (Reg.synTskCmd c.val) (1 + mask.toNat * 2 ^ 16) = true ∧ s.flag (Fld.synTskStatusBusy c.val) = false ∧ s.ctlBarred c.val 1 = false ∧ mask ≠ 0#16 ∧ (List.findIdx? (fun v => v.handle == s.get (Fld.synTskHandleHandle c.val)) (s.ctx c.val).units = some n) ∧ (s.ctx c.val).units[n]? = some u ∧ (3 ≤ 1 → popCount 16 mask.toNat = 1 ∧ u.casement = false)) ∧
    (∃ (req : Requester) (c : CtxId) (mask : BitVec 16) (s : State) (n : Nat) (u : UnitNode), s.accepts req (Reg.synTskCmd c.val) (2 + mask.toNat * 2 ^ 16) = true ∧ s.flag (Fld.synTskStatusBusy c.val) = false ∧ s.ctlBarred c.val 2 = false ∧ mask ≠ 0#16 ∧ (List.findIdx? (fun v => v.handle == s.get (Fld.synTskHandleHandle c.val)) (s.ctx c.val).units = some n) ∧ (s.ctx c.val).units[n]? = some u ∧ (3 ≤ 2 → popCount 16 mask.toNat = 1 ∧ u.casement = false)) ∧
    (∃ (req : Requester) (c : CtxId) (mask : BitVec 16) (s : State) (n : Nat) (u : UnitNode), s.accepts req (Reg.synTskCmd c.val) (3 + mask.toNat * 2 ^ 16) = true ∧ s.flag (Fld.synTskStatusBusy c.val) = false ∧ s.ctlBarred c.val 3 = false ∧ mask ≠ 0#16 ∧ (List.findIdx? (fun v => v.handle == s.get (Fld.synTskHandleHandle c.val)) (s.ctx c.val).units = some n) ∧ (s.ctx c.val).units[n]? = some u ∧ (3 ≤ 3 → popCount 16 mask.toNat = 1 ∧ u.casement = false)) ∧
    (∃ (req : Requester) (c : CtxId) (mask : BitVec 16) (s : State) (n : Nat) (u : UnitNode), s.accepts req (Reg.synTskCmd c.val) (4 + mask.toNat * 2 ^ 16) = true ∧ s.flag (Fld.synTskStatusBusy c.val) = false ∧ s.ctlBarred c.val 4 = false ∧ mask ≠ 0#16 ∧ (List.findIdx? (fun v => v.handle == s.get (Fld.synTskHandleHandle c.val)) (s.ctx c.val).units = some n) ∧ (s.ctx c.val).units[n]? = some u ∧ (3 ≤ 4 → popCount 16 mask.toNat = 1 ∧ u.casement = false)) ∧
    (∃ (req : Requester) (c : CtxId) (mask : BitVec 16) (s : State), s.accepts req (Reg.synTskCmd c.val) (0 + mask.toNat * 2 ^ 16) = true ∧ s.flag (Fld.synTskStatusBusy c.val) = true) ∧
    (∃ (req : Requester) (c : CtxId) (mask : BitVec 16) (s : State), s.accepts req (Reg.synTskCmd c.val) (0 + mask.toNat * 2 ^ 16) = true ∧ s.flag (Fld.synTskStatusBusy c.val) = false ∧ s.ctxState c.val = ctxIdle) ∧
    (∃ (req : Requester) (c : CtxId) (mask : BitVec 16) (s : State), s.accepts req (Reg.synTskCmd c.val) (4 + mask.toNat * 2 ^ 16) = true ∧ s.flag (Fld.synTskStatusBusy c.val) = true) ∧
    (∃ (req : Requester) (c : CtxId) (mask : BitVec 16) (s : State), s.accepts req (Reg.synTskCmd c.val) (4 + mask.toNat * 2 ^ 16) = true ∧ s.flag (Fld.synTskStatusBusy c.val) = false ∧ s.ctxState c.val = ctxIdle) :=
  ⟨⟨tWord (0*2^24+2^40+1), ctlS ctlT, ctlT, pickO (List.findIdx? (fun v => v.handle == BitVec.toNat ((ctlT).reg (qRegA (tWord (0*2^24+2^40+1))))) ((ctlS ctlT).ctx (ctlT).ctx).units) (by decide +kernel), pickO ((ctlS ctlT).ctx (ctlT).ctx).units[pickO (List.findIdx? (fun v => v.handle == BitVec.toNat ((ctlT).reg (qRegA (tWord (0*2^24+2^40+1))))) ((ctlS ctlT).ctx (ctlT).ctx).units) (by decide +kernel)]? (by decide +kernel), executes_of _ _ _ _ (by decide +kernel), by decide +kernel, by decide +kernel, (And.intro (pickO_eq _ (by decide +kernel)) (pickO_eq _ (by decide +kernel))), by decide +kernel⟩,
   ⟨tWord (1*2^24+2^40+0xffff), ctlS ctlT, ctlT, pickO (List.findIdx? (fun v => v.handle == BitVec.toNat ((ctlT).reg (qRegA (tWord (1*2^24+2^40+0xffff))))) ((ctlS ctlT).ctx (ctlT).ctx).units) (by decide +kernel), pickO ((ctlS ctlT).ctx (ctlT).ctx).units[pickO (List.findIdx? (fun v => v.handle == BitVec.toNat ((ctlT).reg (qRegA (tWord (1*2^24+2^40+0xffff))))) ((ctlS ctlT).ctx (ctlT).ctx).units) (by decide +kernel)]? (by decide +kernel), executes_of _ _ _ _ (by decide +kernel), by decide +kernel, by decide +kernel, (And.intro (pickO_eq _ (by decide +kernel)) (pickO_eq _ (by decide +kernel))), by decide +kernel⟩,
   ⟨tWord (2*2^24+2^40+2), ctlS ctlT, ctlT, pickO (List.findIdx? (fun v => v.handle == BitVec.toNat ((ctlT).reg (qRegA (tWord (2*2^24+2^40+2))))) ((ctlS ctlT).ctx (ctlT).ctx).units) (by decide +kernel), pickO ((ctlS ctlT).ctx (ctlT).ctx).units[pickO (List.findIdx? (fun v => v.handle == BitVec.toNat ((ctlT).reg (qRegA (tWord (2*2^24+2^40+2))))) ((ctlS ctlT).ctx (ctlT).ctx).units) (by decide +kernel)]? (by decide +kernel), executes_of _ _ _ _ (by decide +kernel), by decide +kernel, by decide +kernel, (And.intro (pickO_eq _ (by decide +kernel)) (pickO_eq _ (by decide +kernel))), by decide +kernel⟩,
   ⟨tWord (3*2^24+2^40+2*2^34+2), ctlS ctlT2, ctlT2, pickO (List.findIdx? (fun v => v.handle == BitVec.toNat ((ctlT2).reg (qRegA (tWord (3*2^24+2^40+2*2^34+2))))) ((ctlS ctlT2).ctx (ctlT2).ctx).units) (by decide +kernel), pickO ((ctlS ctlT2).ctx (ctlT2).ctx).units[pickO (List.findIdx? (fun v => v.handle == BitVec.toNat ((ctlT2).reg (qRegA (tWord (3*2^24+2^40+2*2^34+2))))) ((ctlS ctlT2).ctx (ctlT2).ctx).units) (by decide +kernel)]? (by decide +kernel), executes_of _ _ _ _ (by decide +kernel), by decide +kernel, by decide +kernel, (And.intro (pickO_eq _ (by decide +kernel)) (pickO_eq _ (by decide +kernel))), by decide +kernel⟩,
   ⟨tWord (4*2^24+2^40+2*2^34+2), ctlS ctlT2, ctlT2, pickO (List.findIdx? (fun v => v.handle == BitVec.toNat ((ctlT2).reg (qRegA (tWord (4*2^24+2^40+2*2^34+2))))) ((ctlS ctlT2).ctx (ctlT2).ctx).units) (by decide +kernel), pickO ((ctlS ctlT2).ctx (ctlT2).ctx).units[pickO (List.findIdx? (fun v => v.handle == BitVec.toNat ((ctlT2).reg (qRegA (tWord (4*2^24+2^40+2*2^34+2))))) ((ctlS ctlT2).ctx (ctlT2).ctx).units) (by decide +kernel)]? (by decide +kernel), executes_of _ _ _ _ (by decide +kernel), by decide +kernel, by decide +kernel, (And.intro (pickO_eq _ (by decide +kernel)) (pickO_eq _ (by decide +kernel))), by decide +kernel⟩,
   ⟨tWord (1*2^24), by decide +kernel⟩,
   ⟨tWord (2*2^24), by decide +kernel⟩,
   ⟨tWord (1*2^24), by decide +kernel⟩,
   ⟨tWord (1*2^24), by decide +kernel⟩,
   ⟨tWord (1*2^24), by decide +kernel⟩,
   by refine ⟨.svc, 0, 1, hoS, _, _, ?_, ?_, ?_, ?_, pickO_eq _ (by decide +kernel), pickO_eq _ (by decide +kernel), ?_⟩ <;> decide +kernel,
   by refine ⟨.svc, 0, 0xffff, hoS, _, _, ?_, ?_, ?_, ?_, pickO_eq _ (by decide +kernel), pickO_eq _ (by decide +kernel), ?_⟩ <;> decide +kernel,
   by refine ⟨.svc, 0, 1, hoS, _, _, ?_, ?_, ?_, ?_, pickO_eq _ (by decide +kernel), pickO_eq _ (by decide +kernel), ?_⟩ <;> decide +kernel,
   by refine ⟨.svc, 0, 2, hoS, _, _, ?_, ?_, ?_, ?_, pickO_eq _ (by decide +kernel), pickO_eq _ (by decide +kernel), ?_⟩ <;> decide +kernel,
   by refine ⟨.svc, 0, 1, hoS, _, _, ?_, ?_, ?_, ?_, pickO_eq _ (by decide +kernel), pickO_eq _ (by decide +kernel), ?_⟩ <;> decide +kernel,
   ⟨.svc, 0, 1, puts hoS [(Fld.synTskStatusBusy 0, 1)], by decide +kernel⟩,
   ⟨.svc, 0, 1, stops [119] (State.reset.put Fld.timStatusPllLock 1), by decide +kernel⟩,
   ⟨.svc, 0, 1, puts hoS [(Fld.synTskStatusBusy 0, 1)], by decide +kernel⟩,
   ⟨.svc, 0, 1, stops [119] (State.reset.put Fld.timStatusPllLock 1), by decide +kernel⟩⟩
end

section
open Control
theorem witness_TaskControlTakesEffect :
    (∃ (s : State), (∀ o ∈ s.taskOps, s.tick < o.due)) ∧
    (∃ (s : State) (o : TaskOp) (j : Nat) (d : TaskDecl), SoleOp s o j d ∧ o.func = 0 ∧ d.phase = TaskPhase.notStarted ∧ s.ctxState o.ctx ≠ ctxDraining ∧ s.task? d.core d.slot = none) ∧
    (∃ (s : State) (o : TaskOp) (j : Nat) (d : TaskDecl) (t : Task), SoleOp s o j d ∧ o.func = 1 ∧ d.phase = TaskPhase.live ∧ s.task? d.core d.slot = some t) ∧
    (∃ (s : State) (o : TaskOp) (j : Nat) (d : TaskDecl) (t : Task), SoleOp s o j d ∧ o.func = 2 ∧ d.phase = TaskPhase.live ∧ s.task? d.core d.slot = some t ∧ t.ctx = o.ctx ∧ (t.state = TState.ready ∨ t.state = TState.waiting ∨ t.state = TState.stopped) ∧ s.recordPlace o.ctx d.saveArea = true) ∧
    (∃ (s : State) (o : TaskOp) (j : Nat) (d : TaskDecl) (t : Task), SoleOp s o j d ∧ o.func = 3 ∧ d.phase = TaskPhase.live ∧ s.task? d.core d.slot = some t ∧ t.ctx = o.ctx ∧ s.recordPlace o.ctx o.addr = true ∧ s.inCode o.ctx o.addr recordBytes = false) ∧
    (∃ (core : CoreId) (slot : SlotId) (s : State) (t : Task), s.task? core.val slot.val = some t) :=
  ⟨⟨{ opS 0 [] .live with taskOps := [⟨0, none, 0, 0, 1, 0, 5⟩] }, by decide +kernel⟩,
   ⟨opS 0 [] .notStarted, ⟨0, none, 0, 0, 1, 0, 0⟩, 0, { dec0 with phase := .notStarted }, ⟨by decide +kernel, by decide +kernel, by decide +kernel, by decide +kernel, by decide +kernel, by decide +kernel, by decide +kernel, ⟨by decide +kernel, ⟨by decide +kernel, by decide +kernel⟩⟩⟩, by decide +kernel⟩,
   ⟨opS 1 [(0, ctlT)] .live, ⟨0, none, 1, 0, 1, 0, 0⟩, 0, { dec0 with phase := .live }, _, ⟨by decide +kernel, by decide +kernel, by decide +kernel, by decide +kernel, by decide +kernel, by decide +kernel, by decide +kernel, ⟨by decide +kernel, ⟨by decide +kernel, by decide +kernel⟩⟩⟩, by decide +kernel, by decide +kernel, pickO_eq _ (by decide +kernel)⟩,
   ⟨opS 2 [(0, ctlT)] .live, ⟨0, none, 2, 0, 1, 0, 0⟩, 0, { dec0 with phase := .live }, _, ⟨by decide +kernel, by decide +kernel, by decide +kernel, by decide +kernel, by decide +kernel, by decide +kernel, by decide +kernel, ⟨by decide +kernel, ⟨by decide +kernel, by decide +kernel⟩⟩⟩, by decide +kernel, by decide +kernel, pickO_eq _ (by decide +kernel), by decide +kernel⟩,
   ⟨opS 3 [(0, ctlT)] .live 0x1000020000, ⟨0, none, 3, 0, 1, 0x1000020000, 0⟩, 0, { dec0 with phase := .live }, _, ⟨by decide +kernel, by decide +kernel, by decide +kernel, by decide +kernel, by decide +kernel, by decide +kernel, by decide +kernel, ⟨by decide +kernel, ⟨by decide +kernel, by decide +kernel⟩⟩⟩, by decide +kernel, by decide +kernel, pickO_eq _ (by decide +kernel), by decide +kernel⟩,
   ⟨0, 0, tState, _, pickO_eq _ (by decide +kernel)⟩⟩
end

section
open Sends
theorem witness_GroupsLandAndCreditsReturn :
    (∃ (s : State) (i : Nat) (g : Machine.Group) (k : Nat) (e : Endpoint), s.flag Fld.timStatusPllLock = true ∧ s.cores.groups[i]? = some g ∧ g.dst = Dest.ring k ∧ s.portsClosed (k / 256) = false ∧ s.groupPath g = MeshPath.through ∧ s.linked k g.ctx = true ∧ s.mayLand i k g = true ∧ s.ep? k = some e) ∧
    (∃ (s : State) (i : Nat) (g : Machine.Group) (k : Nat), s.cores.groups[i]? = some g ∧ g.dst = Dest.ring k ∧ s.portsClosed (k / 256) = false ∧ s.groupPath g = MeshPath.through ∧ s.linked k g.ctx = false) ∧
    (∃ (s : State) (i : Nat) (g : Machine.Group) (k p : Nat), s.cores.groups[i]? = some g ∧ g.dst = Dest.ring k ∧ s.portsClosed (k / 256) = false ∧ s.groupPath g = MeshPath.shut ∧ g.part = some p) ∧
    (∃ (core : CoreId) (ep : EpId) (count layer : Nat) (s : State) (e : Endpoint), s.flag Fld.timStatusPllLock = true ∧ s.portsClosed core.val = false ∧ s.flag (Fld.strCfgEn (epKey core.val ep.val)) = true ∧ s.flag (Fld.strPeerRemote (epKey core.val ep.val)) = true ∧ s.flag (Fld.strCfgDir (epKey core.val ep.val)) = false ∧ s.ep? (epKey core.val ep.val) = some e ∧ e.sources = [] ∧ ((s.ctx (s.get (Fld.strCfgContext (epKey core.val ep.val)))).priv = true ∨ layer ≤ e.layer) ∧ s.ringRoom (epKey core.val ep.val) count = true) ∧
    (∃ (core : CoreId) (ep : EpId) (s : State) (e : Endpoint), s.flag Fld.timStatusPllLock = true ∧ s.ep? (epKey core.val ep.val) = some e) ∧
    (∃ (core : CoreId) (ep : EpId) (s : State), s.flag (Fld.strCfgEn (epKey core.val ep.val)) = true ∧ s.flag (Fld.strPeerRemote (epKey core.val ep.val)) = true) ∧
    (∃ (s : State) (i : Nat) (c : Credit) (e : Endpoint) (j : Nat), s.cores.credits[i]? = some c ∧ s.portsClosed (c.dst / 256) = false ∧ s.flag (Fld.strCfgEn c.dst) = true ∧ s.ep? c.dst = some e ∧ (List.findIdx? (fun x => x == Peer.here c.src) e.peers = some j)) ∧
    (∃ (s : State) (i : Nat) (c : Credit), s.cores.credits[i]? = some c ∧ s.portsClosed (c.dst / 256) = false ∧ s.flag (Fld.strCfgEn c.dst) = false) ∧
    (∃ (s : State) (i : Nat) (c : Credit), s.cores.credits[i]? = some c ∧ s.portsClosed (c.dst / 256) = true) ∧
    (∃ (core : CoreId) (ep : EpId) (peer b : Nat) (s : State) (e : Endpoint), s.flag Fld.timStatusPllLock = true ∧ s.portsClosed core.val = false ∧ s.flag (Fld.strCfgEn (epKey core.val ep.val)) = true ∧ s.ep? (epKey core.val ep.val) = some e ∧ e.peers[peer]? = some (Peer.away b)) ∧
    (∃ (core : CoreId) (ep : EpId) (s : State), s.portsClosed core.val = false ∧ s.flag (Fld.strCfgEn (epKey core.val ep.val)) = false) :=
  ⟨by refine ⟨tLand, 0, tGrp, 1, _, ?_, ?_, ?_, ?_, ?_, ?_, ?_, pickO_eq _ (by decide +kernel)⟩ <;> decide +kernel,
   ⟨puts tLand [(Fld.strCfgEn 1, 0)], 0, tGrp, 1, by decide +kernel⟩,
   ⟨tShut, 0, { tGrp with part := some 1 }, 1, 1, by decide +kernel⟩,
   by refine ⟨0, 1, 1, 0, tRem, _, ?_, ?_, ?_, ?_, ?_, pickO_eq _ (by decide +kernel), ?_⟩ <;> decide +kernel,
   ⟨0, 2, tRem, _, by decide +kernel, pickO_eq _ (by decide +kernel)⟩,
   ⟨0, 2, tRem, by decide +kernel⟩,
   ⟨tCrd, 0, _, _, _, pickO_eq _ (by decide +kernel), by decide +kernel, by decide +kernel, pickO_eq _ (by decide +kernel), pickO_eq _ (by decide +kernel)⟩,
   ⟨puts tCrd [(Fld.strCfgEn 2, 0)], 0, _, pickO_eq _ (by decide +kernel), by decide +kernel⟩,
   ⟨closed, 0, _, pickO_eq _ (by decide +kernel), by decide +kernel⟩,
   ⟨0, 2, 0, 8, tRem, _, by decide +kernel, by decide +kernel, by decide +kernel, pickO_eq _ (by decide +kernel), by decide +kernel⟩,
   ⟨0, 3, puts land0 [(Fld.strCfgEn 3, 0)], by decide +kernel⟩⟩
end

section
open Landing
theorem witness_EndpointsAndEngines :
    (∃ (req : Requester) (core : CoreId) (ep : EpId) (c : CtxId) (v : BitVec 26) (s : State), s.accepts req (Reg.strCfg (epKey core.val ep.val)) (strWord c v) = true ∧ s.flag (Fld.strCfgEn (epKey core.val ep.val)) = false ∧ s.setupBad (epKey core.val ep.val) (strWord c v) = false ∧ v.getLsbD 0 = true ∧ v.getLsbD 3 = true) ∧
    (∃ (req : Requester) (core : CoreId) (ep : EpId) (c : CtxId) (v : BitVec 26) (s : State), s.accepts req (Reg.strCfg (epKey core.val ep.val)) (strWord c v) = true ∧ s.flag (Fld.strCfgEn (epKey core.val ep.val)) = false ∧ s.setupBad (epKey core.val ep.val) (strWord c v) = false ∧ v.getLsbD 0 = true ∧ v.getLsbD 3 = false ∧ (s.strEnable req (epKey core.val ep.val) (strWord c v)).sourceOk (epKey core.val ep.val) = true) ∧
    (∃ (req : Requester) (core : CoreId) (ep : EpId) (c : CtxId) (v : BitVec 26) (s : State), s.accepts req (Reg.strCfg (epKey core.val ep.val)) (strWord c v) = true ∧ s.flag (Fld.strCfgEn (epKey core.val ep.val)) = false ∧ s.setupBad (epKey core.val ep.val) (strWord c v) = false ∧ v.getLsbD 0 = true ∧ v.getLsbD 3 = false ∧ (s.strEnable req (epKey core.val ep.val) (strWord c v)).sourceOk (epKey core.val ep.val) = false) ∧
    (∃ (req : Requester) (core : CoreId) (ep : EpId) (c : CtxId) (v : BitVec 26) (s : State), s.accepts req (Reg.strCfg (epKey core.val ep.val)) (strWord c v) = true ∧ s.flag (Fld.strCfgEn (epKey core.val ep.val)) = true) ∧
    (∃ (req : Requester) (core : CoreId) (ep : EpId) (c : CtxId) (v : BitVec 26) (s : State), s.accepts req (Reg.strCfg (epKey core.val ep.val)) (strWord c v) = true ∧ s.flag (Fld.strCfgEn (epKey core.val ep.val)) = false ∧ s.setupBad (epKey core.val ep.val) (strWord c v) = true ∧ v.getLsbD 0 = true) ∧
    (∃ (req : Requester) (core : CoreId) (ep : EpId) (v : BitVec 32) (s : State), s.accepts req (Reg.strCfg (epKey core.val ep.val)) v.toNat = true ∧ s.flag (Fld.strCfgEn (epKey core.val ep.val)) = true ∧ v.getLsbD 0 = false ∧ v.toNat + 1 = s.rd (Reg.strCfg (epKey core.val ep.val))) ∧
    (∃ (req : Requester) (core : CoreId) (ep : EpId) (v : BitVec 32) (s : State), s.accepts req (Reg.strCfg (epKey core.val ep.val)) v.toNat = true ∧ s.flag (Fld.strCfgEn (epKey core.val ep.val)) = true ∧ v.getLsbD 0 = false ∧ v.toNat + 1 ≠ s.rd (Reg.strCfg (epKey core.val ep.val))) :=
  ⟨⟨.svc, 0, 2, 0, 9, offS, by decide +kernel⟩,
   ⟨.svc, 0, 1, 0, 1, offS, by decide +kernel⟩,
   ⟨.svc, 0, 1, 0, 0x21, offS, by decide +kernel⟩,
   ⟨.svc, 0, 1, 0, 0x21, puts offS [(Fld.strCfgEn 1, 1)], by decide +kernel⟩,
   ⟨.svc, 0, 1, 0, 0x31, offS, by decide +kernel⟩,
   ⟨.svc, 0, 1, 0x00, puts offS [(Fld.strCfgEn 1, 1)], by decide +kernel⟩,
   ⟨.svc, 0, 2, 0x18, stops [0,119] tStr, by decide +kernel⟩⟩
end

section
open Engines
theorem witness_EndpointsAndEngines_2 :
    (∃ (core : CoreId) (ep : EpId) (s : State) (seg : Seg) (j ends : Nat), EngineAt s (epKey core.val ep.val) seg j ends ∧ upperTier (seg.addr + 4096 * j) = true ∧ s.engineRoom (epKey core.val ep.val) false = true ∧ s.coreReach ((s.tileStop (s.get (Fld.strCfgContext (epKey core.val ep.val))) (seg.addr + 4096 * j) core.val).getD core.val) core.val = true) ∧
    (∃ (core : CoreId) (ep : EpId) (s : State) (seg : Seg) (j ends : Nat), EngineAt s (epKey core.val ep.val) seg j ends ∧ upperTier (seg.addr + 4096 * j) = true ∧ s.engineRoom (epKey core.val ep.val) false = false) ∧
    (∃ (core : CoreId) (ep : EpId) (s : State) (f : Nat), s.flag Fld.timStatusPllLock = true ∧ s.linked (epKey core.val ep.val) (s.get (Fld.strCfgContext (epKey core.val ep.val))) = true ∧ s.linked f (s.get (Fld.strCfgContext (epKey core.val ep.val))) = true ∧ s.flag (Fld.strCfgDir f) = true ∧ s.ctxState (s.get (Fld.strCfgContext (epKey core.val ep.val))) ≠ ctxFaulted ∧ (s.epD (epKey core.val ep.val)).fwd = some f ∧ f ≠ epKey core.val ep.val ∧ (s.epD (epKey core.val ep.val)).forwarded + s.epGrain (epKey core.val ep.val) ≤ (s.epD (epKey core.val ep.val)).carried / s.epGrain (epKey core.val ep.val) * s.epGrain (epKey core.val ep.val) ∧ s.room f (s.epGrain (epKey core.val ep.val)) = true ∧ (s.epD f).node = none ∧ (s.epD f).route = [[0]] ∧ (∃ d, (s.epD f).peers = [Peer.here d] ∧ s.coreReach (f / 256) (d / 256) = true)) ∧
    (∃ (core : CoreId) (ep : EpId) (s : State), (s.epD (epKey core.val ep.val)).fwd = none) :=
  ⟨⟨0, 1, fe 0, (pickO ((fe 0).srcTile (epKey ↑(0) ↑(1)) ((fe 0).epD (epKey ↑(0) ↑(1))).fetched) (by decide +kernel)).1, (pickO ((fe 0).srcTile (epKey ↑(0) ↑(1)) ((fe 0).epD (epKey ↑(0) ↑(1))).fetched) (by decide +kernel)).2.1, (pickO ((fe 0).srcTile (epKey ↑(0) ↑(1)) ((fe 0).epD (epKey ↑(0) ↑(1))).fetched) (by decide +kernel)).2.2, by constructor <;> decide +kernel, by decide +kernel⟩,
   ⟨0, 1, fe 4, (pickO ((fe 4).srcTile (epKey ↑(0) ↑(1)) ((fe 4).epD (epKey ↑(0) ↑(1))).fetched) (by decide +kernel)).1, (pickO ((fe 4).srcTile (epKey ↑(0) ↑(1)) ((fe 4).epD (epKey ↑(0) ↑(1))).fetched) (by decide +kernel)).2.1, (pickO ((fe 4).srcTile (epKey ↑(0) ↑(1)) ((fe 4).epD (epKey ↑(0) ↑(1))).fetched) (by decide +kernel)).2.2, by constructor <;> decide +kernel, by decide +kernel⟩,
   by refine ⟨0, 1, puts (chS 0) [(Fld.strRingLen 257, 3)], 2, ?_, ?_, ?_, ?_, ?_, ?_, ?_, ?_, ?_, ?_, ?_, ⟨257, by decide +kernel, by decide +kernel⟩⟩ <;> decide +kernel,
   ⟨0, 1, tStr, by decide +kernel⟩⟩
end

section
open Fabric
theorem witness_FabricRequestsAndLineReads :
    (∃ (i : Issue) (s : State) (t : Task) (w : State), Executes rldSpec i s t ∧ gaddr i t % 8 = 0 ∧ t.regPoison (qRegA i) = false ∧ s.older ↑i.core ↑i.slot = false ∧ s.flag (Fld.vblCtxCtrlCache t.ctx) = false ∧ s.far (gaddr i t / 2 ^ 44) = false ∧ w = fabricAt i s t) ∧
    (∃ (i : Issue) (s : State) (t : Task) (w : State), Executes atomSpec i s t ∧ ((gaddr i t % if qFuncOf i = 0 ∨ qFuncOf i = 2 then 4 else 8) = 0) ∧ t.regPoison (qRegA i) = false ∧ t.regPoison (qRegB i) = false ∧ (qFuncOf i = 4 → t.regPoison (qRegD i) = false) ∧ s.older ↑i.core ↑i.slot = false ∧ w = fabricAt i s t) ∧
    (∃ (i : Issue) (s : State) (t : Task) (w : State), Executes leaseAcqSpec i s t ∧ gaddr i t % 32 = 0 ∧ 1 ≤ BitVec.toNat (t.reg (qRegB i)) ∧ BitVec.toNat (t.reg (qRegB i)) < 2 ^ 36 ∧ t.regPoison (qRegA i) = false ∧ t.regPoison (qRegB i) = false ∧ s.older ↑i.core ↑i.slot = false ∧ w = (fabricAt i s t).staleAcquires ↑i.core ↑i.slot) ∧
    (∃ (i : Issue) (s : State) (t : Task) (w : State), Executes leaseRelSpec i s t ∧ gaddr i t % 32 = 0 ∧ t.regPoison (qRegA i) = false ∧ s.older ↑i.core ↑i.slot = false ∧ w = fabricAt i s t) ∧
    (∃ (i : Issue) (s : State) (t : Task) (y : Staged), Executes rldSpec i s t ∧ gaddr i t % 8 = 0 ∧ t.regPoison (qRegA i) = false ∧ s.older ↑i.core ↑i.slot = false ∧ s.flag (Fld.vblCtxCtrlCache t.ctx) = true ∧ s.staged? (↑i.core) t.ctx (2 ^ 64 + gaddr i t / 4096 * 4096) = some y) ∧
    (∃ (i : Issue) (s : State) (t : Task) (u : State), Executes rldSpec i s t ∧ gaddr i t % 8 = 0 ∧ t.regPoison (qRegA i) = false ∧ s.older ↑i.core ↑i.slot = false ∧ (s.flag (Fld.vblCtxCtrlCache t.ctx) = true ∨ s.far (gaddr i t / 2 ^ 44) = true) ∧ (s.flag (Fld.vblCtxCtrlCache t.ctx) = true → s.staged? (↑i.core) t.ctx (2 ^ 64 + gaddr i t / 4096 * 4096) = none) ∧ u = ((s.turn i).lineRead (↑i.core) (↑i.slot) t.ctx (qRegD i) (gaddr i t)).vblPump ∧ poisonLeaves (s.turn i) (Next.stay u) = false) ∧
    (∃ (s : State) (core c a : Nat) (r : Req) (ws : List (Nat × Nat × Nat × Nat)), s.vbl.reqs = [r] ∧ r.ctx = c ∧ r.addr = a / 4096 * 4096 ∧ r.use = ReqFor.line core ws) ∧
    (∃ (s : State), s.vbl.reqs = [] ∧ s.vbl.batches = []) :=
  ⟨by refine ⟨fw, nrS, fT (2^44+0x1008), _, executes_of _ _ _ _ (by decide +kernel), ?_, ?_, ?_, ?_, ?_, rfl⟩ <;> decide +kernel,
   by refine ⟨tWord (1*2^40 + 2*2^34 + 3*2^28 + 4*2^24), fS 0x1008, fT 0x1008, _, executes_of _ _ _ _ (by decide +kernel), ?_, ?_, ?_, ?_, ?_, rfl⟩ <;> decide +kernel,
   by refine ⟨fwB, fS 0x1020 (2^36-1), fT 0x1020 (2^36-1), _, executes_of _ _ _ _ (by decide +kernel), ?_, ?_, ?_, ?_, ?_, ?_, rfl⟩ <;> decide +kernel,
   ⟨fw, fS 0x1020, fT 0x1020, _, executes_of _ _ _ _ (by decide +kernel), by decide +kernel, by decide +kernel, by decide +kernel, rfl⟩,
   by refine ⟨fw, lnS 0x1000, fT 0x1000, _, executes_of _ _ _ _ (by decide +kernel), ?_, ?_, ?_, ?_, pickO_eq _ (by decide +kernel)⟩ <;> decide +kernel,
   by refine ⟨fw, lnS 0x2FF8, fT 0x2FF8, _, executes_of _ _ _ _ (by decide +kernel), ?_, ?_, ?_, ?_, ?_, rfl, ?_⟩ <;> decide +kernel,
   ⟨{ tState with vbl.reqs := [rq (.line 0 [(0,1,2,3)])] }, 0, 0, 0x1008, rq (.line 0 [(0,1,2,3)]), [(0,1,2,3)], by decide +kernel⟩,
   ⟨tState, by decide +kernel⟩⟩
end

section
open Fabric
theorem witness_FabricPosts :
    (∃ (i : Issue) (s : State) (t : Task), Executes rstSpec i s t ∧ gaddr i t % 8 = 0 ∧ t.regPoison (qRegA i) = false ∧ t.regPoison (qRegB i) = false ∧ s.queued ↑i.core < 256 ∧ s.far (gaddr i t / 2 ^ 44) = false) ∧
    (∃ (i : Issue) (s : State) (t : Task), Executes rstSpec i s t ∧ gaddr i t % 8 = 0 ∧ t.regPoison (qRegA i) = false ∧ t.regPoison (qRegB i) = false ∧ s.queued ↑i.core < 256 ∧ s.far (gaddr i t / 2 ^ 44) = true) ∧
    (∃ (s : State) (core slot c a : Nat) (bs : List Byte) (b : Batch), s.vbl.batches = [b] ∧ b.ctx = c ∧ b.dst = a / 2 ^ 44 ∧ b.closed = false ∧ a = b.addr + b.data.length ∧ b.data.length + bs.length < 65536 ∧ b.tasks = [(core, slot)]) ∧
    (∃ (s : State), s.vbl.batches = []) ∧
    (∃ (i : Issue) (s : State) (t : Task), Executes doorbellSpec i s t ∧ gaddr i t % 8 = 0 ∧ t.regPoison (qRegA i) = false ∧ t.regPoison (qRegB i) = false ∧ s.queued ↑i.core < 256) ∧
    (∃ (i : Issue) (s : State) (t : Task), Executes doorbellSpec i s t ∧ gaddr i t % 8 = 0 ∧ t.regPoison (qRegA i) = false ∧ t.regPoison (qRegB i) = false ∧ 256 ≤ s.queued ↑i.core) ∧
    (∃ (i : Issue) (s : State) (t : Task), Executes invSpec i s t ∧ t.regPoison (qRegA i) = false ∧ t.regPoison (qRegB i) = false ∧ s.older ↑i.core ↑i.slot = false) ∧
    (∃ (s : State) (core c : Nat) (p : Pool), s.cores.pools = [(64 * core + c, p)] ∧ c < 64 ∧ (∀ y ∈ p.tiles, y.holders = [])) :=
  ⟨⟨fwS, nrS, fT (2^44+0x1008), executes_of _ _ _ _ (by decide +kernel), by decide +kernel⟩,
   ⟨fwS, fS (2^44*3+8), fT (2^44*3+8), executes_of _ _ _ _ (by decide +kernel), by decide +kernel⟩,
   ⟨{ tState with vbl.batches := [⟨0, [(0,0)], false, 3, 2^44*3+8, [1], 0⟩] }, 0, 0, 0, 2^44*3+9, [4], ⟨0, [(0,0)], false, 3, 2^44*3+8, [1], 0⟩, by decide +kernel⟩,
   ⟨tState, by decide +kernel⟩,
   ⟨fwS, fS (2^44*3+8), fT (2^44*3+8), executes_of _ _ _ _ (by decide +kernel), by decide +kernel⟩,
   ⟨fwS, { fS (2^44*3+8) with vbl.reqs := List.replicate 256 (rq (.bell 0)) }, fT (2^44*3+8), executes_of _ _ _ _ (by decide +kernel), by decide +kernel⟩,
   ⟨fwS, lnS (0x1000), fT (0x1000), executes_of _ _ _ _ (by decide +kernel), by decide +kernel⟩,
   ⟨{ lnS (0x1000) with cores.pools := [(0, lnPool)] }, 0, 0, lnPool, by decide +kernel⟩⟩
end

section
open Fabric
theorem witness_FabricOutcomesAndTimers :
    (∃ (s : State) (num core slot sd : Nat) (t : Task) (status : Nat) (r : Req), s.req? num = some r ∧ r.use = ReqFor.load core slot sd ∧ s.task? core slot = some t ∧ t.request = some num ∧ t.state = TState.ready ∧ status ≠ 5) ∧
    (∃ (s : State) (num core slot sd func : Nat) (t : Task) (status : Nat) (r : Req), s.req? num = some r ∧ r.use = ReqFor.atom core slot sd func ∧ s.task? core slot = some t ∧ t.request = some num ∧ t.state = TState.ready ∧ status ≠ 5) ∧
    (∃ (s : State) (num core slot sd : Nat) (t : Task) (status : Nat) (r : Req), s.req? num = some r ∧ r.use = ReqFor.acquire core slot sd ∧ s.task? core slot = some t ∧ t.request = some num ∧ t.state = TState.ready ∧ status ≠ 6) ∧
    (∃ (s : State) (num core slot sd : Nat) (t : Task) (r : Req), s.req? num = some r ∧ r.use = ReqFor.acquire core slot sd ∧ s.task? core slot = some t ∧ t.request = some num ∧ t.state = TState.ready) ∧
    (∃ (s : State), s.flag Fld.timStatusPllLock = true ∧ s.vbl.breaks = [] ∧ s.trp.refused = [] ∧ (∀ r ∈ s.vbl.reqs, r.first ≠ none)) ∧
    (∃ (num : Nat) (s : State) (t : Nat) (r : Req), s.flag Fld.timStatusPllLock = true ∧ s.req? num = some r ∧ r.first = some t ∧ r.ptype ≠ 6 ∧ r.resends < 3 ∧ t + 500000 * (r.resends + 1) ≤ s.tick) ∧
    (∃ (num : Nat) (s : State) (t : Nat) (r : Req), s.req? num = some r ∧ r.first = some t ∧ s.tick < t + 500000 * (r.resends + 1)) ∧
    (∃ (num : Nat) (s : State) (t : Nat) (r : Req), s.req? num = some r ∧ r.first = some t ∧ r.ptype ≠ 6 ∧ t + 2000000 ≤ s.tick) ∧
    (∃ (num : Nat) (s : State) (t : Nat) (r : Req), s.req? num = some r ∧ r.first = some t ∧ s.tick < t + 2000000) ∧
    (∃ (num : Nat) (s : State) (core slot sd : Nat) (r : Req) (t : Nat) (k : Task) (w : State), s.req? num = some r ∧ r.again = some t ∧ r.use = ReqFor.acquire core slot sd ∧ t ≤ s.tick ∧ s.task? core slot = some k ∧ k.ctx = r.ctx ∧ k.state = TState.waiting ∧ k.wait = some Wait.lease ∧ s.runs r.ctx = true ∧ w = (s.setTask core slot { k with request := some num }).closeFor r.ctx r.dst) ∧
    (∃ (num : Nat) (s : State) (core slot sd : Nat) (r : Req) (t : Nat), s.req? num = some r ∧ r.again = some t ∧ r.use = ReqFor.acquire core slot sd ∧ s.tick < t) :=
  ⟨⟨rS (.load 0 0 2), 5, 0, 0, 2, rT, 0, _, pickO_eq _ (by decide +kernel), by decide +kernel⟩,
   ⟨rS (.atom 0 0 2 0), 5, 0, 0, 2, 0, rT, 0, _, pickO_eq _ (by decide +kernel), by decide +kernel⟩,
   ⟨rS (.acquire 0 0 2), 5, 0, 0, 2, rT, 7, _, pickO_eq _ (by decide +kernel), by decide +kernel⟩,
   ⟨rS (.acquire 0 0 2), 5, 0, 0, 2, rT, _, pickO_eq _ (by decide +kernel), by decide +kernel⟩,
   ⟨{ tState with vbl.batches := [⟨0, [(0,0)], false, 3, 2^44*3+8, [1], 0⟩, ⟨0, [(0,0)], false, 3, 2^44*3+8, [1], 1⟩], tick := 1 }, by decide +kernel⟩,
   ⟨5, rS (.load 0 0 2) (some 0) 2 1500000, 0, _, by decide +kernel, pickO_eq _ (by decide +kernel), by decide +kernel⟩,
   ⟨5, rS (.load 0 0 2) (some 0) 2 1499999, 0, _, pickO_eq _ (by decide +kernel), by decide +kernel⟩,
   ⟨5, rS (.load 0 0 2) (some 0) 2 2000000, 0, _, pickO_eq _ (by decide +kernel), by decide +kernel⟩,
   ⟨5, rS (.load 0 0 2) (some 0) 2 1999999, 0, _, pickO_eq _ (by decide +kernel), by decide +kernel⟩,
   by refine ⟨5, lS 50, 0, 0, 2, _, _, _, _, pickO_eq _ (by decide +kernel), pickO_eq _ (by decide +kernel), ?_, ?_, pickO_eq _ (by decide +kernel), ?_, ?_, ?_, ?_, rfl⟩ <;> decide +kernel,
   ⟨5, lS 49, 0, 0, 2, _, _, pickO_eq _ (by decide +kernel), pickO_eq _ (by decide +kernel), by decide +kernel⟩⟩
end

section
open Serving
theorem witness_TransportReceivesAndTimers :
    (∃ (s : State) (p : Nat) (b : List Byte) (rest : List (Nat × List Byte)), s.trp.inbox = (p, b) :: rest ∧ (PacketIn.of b).ok = false) ∧
    (∃ (s : State) (p : Nat) (b : List Byte) (rest : List (Nat × List Byte)), s.trp.inbox = (p, b) :: rest ∧ (PacketIn.of b).ok = true ∧ (s.lifetime < (PacketIn.of b).age ∨ (PacketIn.of b).hops = 255)) ∧
    (∃ (s : State) (p : Nat) (b : List Byte) (rest : List (Nat × List Byte)), s.trp.inbox = (p, b) :: rest ∧ (PacketIn.of b).ok = true ∧ (PacketIn.of b).age ≤ s.lifetime ∧ (PacketIn.of b).hops ≠ 255 ∧ (s.flag Fld.vblNodeValid = false ∨ (PacketIn.of b).dst ≠ s.ownNode)) ∧
    (∃ (s : State) (p : Nat) (b : List Byte) (rest : List (Nat × List Byte)), s.trp.inbox = (p, b) :: rest ∧ (PacketIn.of b).ok = true ∧ (PacketIn.of b).age ≤ s.lifetime ∧ (PacketIn.of b).hops ≠ 255 ∧ s.flag Fld.vblNodeValid = true ∧ (PacketIn.of b).dst = s.ownNode ∧ (PacketIn.of b).pt = ptTAck) ∧
    (∃ (s : State) (p : Nat) (b : List Byte) (rest : List (Nat × List Byte)), s.flag Fld.timStatusPllLock = true ∧ s.trp.inbox = (p, b) :: rest ∧ (PacketIn.of b).ok = true ∧ (PacketIn.of b).age ≤ s.lifetime ∧ (PacketIn.of b).hops ≠ 255 ∧ s.flag Fld.vblNodeValid = true ∧ (PacketIn.of b).dst = s.ownNode ∧ (PacketIn.of b).pt ≠ ptTAck ∧ s.trp.rx.get? (PacketIn.of b).src = none ∧ (PacketIn.of b).syn = true ∧ List.length s.trp.rx < connLimit ∧ (PacketIn.of b).tseq = 0 ∧ (PacketIn.of b).last = true) ∧
    (∃ (s : State) (a : TAck) (rest : List TAck) (x : TxConn), s.flag Fld.timStatusPllLock = true ∧ restful s ∧ s.trp.acks = a :: rest ∧ a.reset = false ∧ s.txConn a.src = some x ∧ x.gen = a.gen ∧ x.msgs = [] ∧ x.todo = [] ∧ x.wait = []) ∧
    (∃ (s : State) (a : TAck) (rest : List TAck), s.trp.acks = a :: rest ∧ s.txConn a.src = none) ∧
    (∃ (node : BitVec 20) (s : State) (x : TxConn), s.flag Fld.timStatusPllLock = true ∧ restful s ∧ s.txConn node.toNat = some x ∧ s.hasPath node.toNat = true ∧ x.msgs = [] ∧ x.wait = [] ∧ (∃ p ∈ x.unacked, p.first + s.lifetime * 250 ≤ s.tick)) ∧
    (∃ (node : BitVec 20) (s : State), s.connFailed node.toNat = false) ∧
    (∃ (node : BitVec 20) (cls : Fin 4) (s : State) (n t : Nat) (x : RxConn), s.trp.rx.get? node.toNat = some x ∧ x.unack.getD cls.val (0, 0) = (n, t) ∧ n ≠ 0 ∧ t + 500 ≤ s.tick) ∧
    (∃ (node : BitVec 20) (cls : Fin 4) (s : State) (x : RxConn), s.trp.rx.get? node.toNat = some x ∧ (x.unack.getD cls.val (0, 0)).1 = 0) ∧
    (∃ (node : BitVec 20) (cls : Fin 4) (s : State) (p : SentPacket) (l : List SentPacket) (x : TxConn), s.txConn node.toNat = some x ∧ x.unacked = p :: l ∧ p.cls = cls.val ∧ p.last + p.rto * 250 ≤ s.tick) ∧
    (∃ (s : State) (k : Transit) (rest : List Transit), s.trp.transit = k :: rest ∧ (s.lifetime < (PacketIn.of k.bytes).age + s.ageOf k ∨ 254 ≤ (PacketIn.of k.bytes).hops)) ∧
    (∃ (s : State) (k : Transit) (rest : List Transit), s.trp.transit = k :: rest ∧ (PacketIn.of k.bytes).age + s.ageOf k ≤ s.lifetime ∧ (PacketIn.of k.bytes).hops < 254 ∧ s.pathPort (PacketIn.of k.bytes).src (PacketIn.of k.bytes).dst (PacketIn.of k.bytes).cls = none) ∧
    (∃ (s : State) (k : Transit) (rest : List Transit) (p : Nat), s.trp.transit = k :: rest ∧ (PacketIn.of k.bytes).age + s.ageOf k ≤ s.lifetime ∧ (PacketIn.of k.bytes).hops < 254 ∧ s.pathPort (PacketIn.of k.bytes).src (PacketIn.of k.bytes).dst (PacketIn.of k.bytes).cls = some p) ∧
    (∃ (node : BitVec 20) (s : State) (x : RxConn), s.trp.rx.get? node.toNat = some x ∧ x.held = [] ∧ x.parts = [] ∧ (∀ u ∈ x.unack, u.1 = 0) ∧ x.idle + 500 * s.lifetime ≤ s.tick) ∧
    (∃ (node : BitVec 20) (s : State) (x : TxConn), s.txConn node.toNat = some x ∧ x.unacked = [] ∧ x.todo = [] ∧ x.msgs = [] ∧ x.wait = [] ∧ x.idle + 500 * s.lifetime ≤ s.tick ∧ s.trp.full = []) ∧
    (∃ (node : BitVec 20) (s : State) (t : Nat) (x : TxConn), s.txConn node.toNat = some x ∧ x.isOpen = false ∧ x.used.get? x.gen = some t ∧ x.wait = [] ∧ x.todo = []) :=
  ⟨⟨inbox [], 7, [], [], by decide +kernel⟩,
   ⟨inbox (hopped (pkt 1 1 1) 255 0), 7, hopped (pkt 1 1 1) 255 0, [], by decide +kernel⟩,
   ⟨inbox (pkt 1 2 1), 7, pkt 1 2 1, [], by decide +kernel⟩,
   ⟨inbox (pkt 0x41 1 1 [] 20), 7, pkt 0x41 1 1 [] 20, [], by decide +kernel⟩,
   ⟨inbox (pkt 2 1 3 [1,2,3,4,5,6,7,8]), 7, pkt 2 1 3 [1,2,3,4,5,6,7,8], [], by decide +kernel⟩,
   ⟨txS (tx [sp (2^32-1) 0, sp 0 0, sp 1 0]) 5 [⟨2, 9, 1, 1, false⟩], ⟨2, 9, 1, 1, false⟩, [], _, by decide +kernel, (And.intro (by decide +kernel) (And.intro (by decide +kernel) (And.intro (by decide +kernel) (And.intro (by decide +kernel) (by decide +kernel))))), by decide +kernel, by decide +kernel, pickO_eq _ (by decide +kernel), by decide +kernel⟩,
   ⟨txS (tx []) 5 [⟨3, 9, 1, 1, false⟩], pickO (txS (tx []) 5 [⟨3, 9, 1, 1, false⟩]).trp.acks.head? (by decide +kernel), (txS (tx []) 5 [⟨3, 9, 1, 1, false⟩]).trp.acks.tail, by decide +kernel⟩,
   ⟨2, txS (tx [sp 0 0]) (250*32000), tx [sp 0 0], by decide +kernel, (And.intro (by decide +kernel) (And.intro (by decide +kernel) (And.intro (by decide +kernel) (And.intro (by decide +kernel) (by decide +kernel))))), by decide +kernel⟩,
   ⟨2, txS (tx [sp 0 0]) (250*1000-1), by decide +kernel⟩,
   ⟨2, 1, rxS (rx [(0,0),(3,10),(0,0),(0,0)]) 510, 3, 10, _, pickO_eq _ (by decide +kernel), by decide +kernel⟩,
   ⟨2, 0, rxS (rx [(0,0),(3,10),(0,0),(0,0)]) 510, _, pickO_eq _ (by decide +kernel), by decide +kernel⟩,
   ⟨2, 1, txS (tx [sp 0 10 100]) 25010, sp 0 10 100, [], _, pickO_eq _ (by decide +kernel), by decide +kernel⟩,
   ⟨trS (hopped (pkt 1 2 1) 254 3), ⟨7, 0, hopped (pkt 1 2 1) 254 3⟩, [], by decide +kernel⟩,
   ⟨trS (hopped (pkt 1 9 1) 253 3), ⟨7, 0, hopped (pkt 1 9 1) 253 3⟩, [], by decide +kernel⟩,
   ⟨trS (hopped (pkt 1 2 1) 253 3), ⟨7, 0, hopped (pkt 1 2 1) 253 3⟩, [], 40, by decide +kernel, by decide +kernel, by decide +kernel, pathPort_one (by decide +kernel)⟩,
   ⟨2, rxS (rx [(0,0),(0,10),(0,0),(0,0)]) (500*32000), _, pickO_eq _ (by decide +kernel), by decide +kernel⟩,
   ⟨2, txS (tx []) (500*32000), _, pickO_eq _ (by decide +kernel), by decide +kernel⟩,
   ⟨2, txS { tx [] with isOpen := false, used := [(9, 5)]} 500004, 5, _, pickO_eq _ (by decide +kernel), by decide +kernel⟩⟩
end

section
open Serving
theorem witness_ReadsAndWritesServed :
    (∃ (s : State) (m : RxMsg) (rest : List RxMsg) (t : Target), firstMsg s 1 m rest ∧ s.reqCheck m.copy m.job 1 m.addr m.opnd [] = Except.ok t ∧ keepsClass s m t.window) ∧
    (∃ (s : State) (m : RxMsg) (rest : List RxMsg), s.vbl.inbox = m :: rest ∧ m.ptype = 1 ∧ s.behind m = true) ∧
    (∃ (s : State) (m : RxMsg) (rest : List RxMsg) (t : Target) (w : State), firstMsg s 1 m rest ∧ s.reqCheck m.copy m.job 1 m.addr m.opnd [] = Except.ok t ∧ (¬keepsClass s m t.window) ∧ w = (s.took rest).bump Fld.vblExDemotedCount ∧ (w.spaceRead t.ctx t.addr m.opnd).2 = false) ∧
    (∃ (s : State) (m : RxMsg) (rest : List RxMsg) (e : Nat), firstMsg s 1 m rest ∧ s.reqCheck m.copy m.job 1 m.addr m.opnd [] = Except.error e) ∧
    (∃ (s : State) (m : RxMsg) (rest : List RxMsg) (w c a : Nat) (u : State), firstMsg s 2 m rest ∧ m.status = 0 ∧ m.data.length = m.opnd ∧ s.winFind m.copy (m.addr % 2 ^ 44) = some w ∧ keepsClass s m w ∧ c = s.get (Fld.winTgtContext w) ∧ a = s.get64 (Reg.winTarget w) % 2 ^ 44 + (m.addr % 2 ^ 44 - s.get64 (Reg.winBase w) % 2 ^ 44) ∧ u = (s.took rest).spaceWrite c a m.data ∧ u.awaited c a m.data.length = []) ∧
    (∃ (s : State) (m : RxMsg) (rest : List RxMsg) (w c a : Nat) (u : State), firstMsg s 2 m rest ∧ m.status = 0 ∧ m.data.length = m.opnd ∧ s.winFind m.copy (m.addr % 2 ^ 44) = some w ∧ keepsClass s m w ∧ c = s.get (Fld.winTgtContext w) ∧ a = s.get64 (Reg.winTarget w) % 2 ^ 44 + (m.addr % 2 ^ 44 - s.get64 (Reg.winBase w) % 2 ^ 44) ∧ u = (s.took rest).spaceWrite c a m.data ∧ u.awaited c a m.data.length ≠ []) ∧
    (∃ (s : State) (m : RxMsg) (rest : List RxMsg), firstMsg s 2 m rest ∧ m.status ≠ 0) ∧
    (∃ (s : State) (m : RxMsg) (data : List Byte), m.src = s.ownNode ∧ data.length ≤ 256) :=
  ⟨⟨inS (ms 1 0x1008 16), ms 1 0x1008 16, [], _, (And.intro (by decide +kernel) (And.intro (by decide +kernel) (by decide +kernel))), pickOk_eq _ (by decide +kernel), by unfold keepsClass; decide +kernel⟩,
   ⟨{ inS (ms 1 0x1008 16) with vbl.blocked := [ms 1 0x1000 8] }, ms 1 0x1008 16, [], by decide +kernel⟩,
   ⟨inS (ms 1 0x1008 16 [] 0), ms 1 0x1008 16 [] 0, [], _, _, (And.intro (by decide +kernel) (And.intro (by decide +kernel) (by decide +kernel))), pickOk_eq _ (by decide +kernel), by unfold keepsClass; decide +kernel, rfl, by decide +kernel⟩,
   ⟨inS (ms 1 0x2FF8 16), ms 1 0x2FF8 16, [], _, (And.intro (by decide +kernel) (And.intro (by decide +kernel) (by decide +kernel))), pickErr_eq _ (by decide +kernel)⟩,
   ⟨inS (ms 2 0x1008 3 [1,2,3]), ms 2 0x1008 3 [1,2,3], [], 2, _, _, _, (And.intro (by decide +kernel) (And.intro (by decide +kernel) (by decide +kernel))), by decide +kernel, by decide +kernel, by decide +kernel, by unfold keepsClass; decide +kernel, rfl, rfl, rfl, by decide +kernel⟩,
   ⟨ackS (ms 2 0x1008 3 [1,2,3]), ms 2 0x1008 3 [1,2,3], [], 2, _, _, _, (And.intro (by decide +kernel) (And.intro (by decide +kernel) (by decide +kernel))), by decide +kernel, by decide +kernel, by decide +kernel, by unfold keepsClass; decide +kernel, rfl, rfl, rfl, by decide +kernel⟩,
   ⟨inS (ms 2 0x1008 3 [1,2,3] 1 1), ms 2 0x1008 3 [1,2,3] 1 1, [], (And.intro (by decide +kernel) (And.intro (by decide +kernel) (by decide +kernel))), by decide +kernel⟩,
   ⟨inS (ms 2 0x1008 3 [1,2,3] 1 1), { ms 2 0x1008 3 [1,2,3] 1 1 with src := 1 }, [5], by decide +kernel⟩⟩
end

section
open Serving
theorem witness_AtomicsAndLeasesServed :
    (∃ (s : State) (m : RxMsg) (rest : List RxMsg) (t : Target), firstMsg s 3 m rest ∧ Applies (s.took rest) m t) ∧
    (∃ (s : State) (m : RxMsg) (rest : List RxMsg) (e : Reply1) (w : State × Nat), firstMsg s 3 m rest ∧ s.cached m = some e ∧ w = ((s.took rest).bump Fld.vblRcacheHitCount).demoted m) ∧
    (∃ (s : State) (m : RxMsg) (rest : List RxMsg) (t : Target), firstMsg s 3 m rest ∧ s.cached m = none ∧ s.reqCheck m.copy m.job 3 m.addr m.opnd m.data = Except.ok t ∧ s.cacheFull = true) ∧
    (∃ (s : State) (m : RxMsg) (rest : List RxMsg) (t : Target), firstMsg s 3 m rest ∧ s.cached m = none ∧ s.reqCheck m.copy m.job 3 m.addr m.opnd m.data = Except.ok t ∧ s.cacheFull = false ∧ keepsClass s m t.window ∧ s.mem.poisoned (s.key t.ctx t.addr / 64) = true) ∧
    (∃ (s : State) (m : RxMsg) (rest : List RxMsg) (t : Target) (l : Lock) (r : Lock × Nat × Nat), firstMsg s 4 m rest ∧ Applies (s.took rest) m t ∧ leAt m.data 0 1 = 0 ∧ l = Lock.of (s.spaceRead t.ctx t.addr 32).1 ∧ r = l.acquire (m.src + leAt m.data 1 1 % 64 * 2 ^ 20) (leAt m.data 4 4) m.opnd s.tick) ∧
    (∃ (s : State) (m : RxMsg) (rest : List RxMsg) (t : Target) (l : Lock) (r : Lock × Nat), firstMsg s 4 m rest ∧ Applies (s.took rest) m t ∧ leAt m.data 0 1 = 1 ∧ l = Lock.of (s.spaceRead t.ctx t.addr 32).1 ∧ r = l.release (m.src + leAt m.data 1 1 % 64 * 2 ^ 20) (leAt m.data 4 4)) ∧
    (∃ (l : Lock), l.state = 0) ∧
    (∃ (l : Lock) (tick : Nat), l.state = 1 ∧ tick < l.expiry) ∧
    (∃ (l : Lock) (tick : Nat), (l.state = 1 ∧ l.expiry ≤ tick ∨ l.state = 2)) ∧
    (∃ (l : Lock) (owner : Nat), l.state = 1 ∧ l.owner = owner) ∧
    (∃ (l : Lock) (owner : Nat), (l.state ≠ 1 ∨ l.owner ≠ owner)) :=
  ⟨⟨mem8 0x8000000000000005 (inS (atm 0 7 0x8000000000000005)), atm 0 7 0x8000000000000005, [], pickOk (((mem8 0x8000000000000005 (inS (atm 0 7 0x8000000000000005))).took ([])).reqCheck (atm 0 7 0x8000000000000005).copy (atm 0 7 0x8000000000000005).job (atm 0 7 0x8000000000000005).ptype (atm 0 7 0x8000000000000005).addr (atm 0 7 0x8000000000000005).opnd (atm 0 7 0x8000000000000005).data) (by decide +kernel), (And.intro (by decide +kernel) (And.intro (by decide +kernel) (by decide +kernel))), ⟨by decide +kernel, pickOk_eq _ (by decide +kernel), by decide +kernel, by decide +kernel, by unfold keepsClass; decide +kernel⟩⟩,
   ⟨{ inS (atm 1 2 3) with vbl.cache := [ch (atm 1 2 3)] }, atm 1 2 3, [], ch (atm 1 2 3), _, (And.intro (by decide +kernel) (And.intro (by decide +kernel) (by decide +kernel))), by decide +kernel, rfl⟩,
   ⟨{ inS (atm 1 2 3) with vbl.cache := List.replicate 1000000 { ch (atm 1 2 3) with mid := 1} }, atm 1 2 3, [], _, (And.intro (by decide +kernel) (And.intro (by decide +kernel) (by decide +kernel))), cached_replicate _ _ _ _ (by decide +kernel), pickOk_eq _ (by decide +kernel), cacheFull_replicate _ _ _ (by decide +kernel) (by decide +kernel)⟩,
   ⟨let s := inS (atm 1 2 3); {s with mem := s.mem.setPoison (s.key 0 0x1000002008 / 64)}, atm 1 2 3, [], _, (And.intro (by decide +kernel) (And.intro (by decide +kernel) (by decide +kernel))), by decide +kernel, pickOk_eq _ (by decide +kernel), by decide +kernel, by unfold keepsClass; decide +kernel, by decide +kernel⟩,
   ⟨lck ⟨0,0,0,0,0,0⟩ (lea 0 3 5 1000), lea 0 3 5 1000, [], pickOk (((lck ⟨0,0,0,0,0,0⟩ (lea 0 3 5 1000)).took ([])).reqCheck (lea 0 3 5 1000).copy (lea 0 3 5 1000).job (lea 0 3 5 1000).ptype (lea 0 3 5 1000).addr (lea 0 3 5 1000).opnd (lea 0 3 5 1000).data) (by decide +kernel), _, _, (And.intro (by decide +kernel) (And.intro (by decide +kernel) (by decide +kernel))), ⟨by decide +kernel, pickOk_eq _ (by decide +kernel), by decide +kernel, by decide +kernel, by unfold keepsClass; decide +kernel⟩, by decide +kernel, rfl, rfl⟩,
   ⟨lck ⟨2+3*2^20,1,5,200,0,0⟩ (lea 1 3 5 0), lea 1 3 5 0, [], pickOk (((lck ⟨2+3*2^20,1,5,200,0,0⟩ (lea 1 3 5 0)).took ([])).reqCheck (lea 1 3 5 0).copy (lea 1 3 5 0).job (lea 1 3 5 0).ptype (lea 1 3 5 0).addr (lea 1 3 5 0).opnd (lea 1 3 5 0).data) (by decide +kernel), _, _, (And.intro (by decide +kernel) (And.intro (by decide +kernel) (by decide +kernel))), ⟨by decide +kernel, pickOk_eq _ (by decide +kernel), by decide +kernel, by decide +kernel, by unfold keepsClass; decide +kernel⟩, by decide +kernel, rfl, rfl⟩,
   ⟨⟨1, 0, 2, 3, 4, 5⟩, by decide +kernel⟩,
   ⟨⟨1, 1, 2, 31, 4, 5⟩, 30, by decide +kernel⟩,
   ⟨⟨1, 1, 2, 31, 4, 5⟩, 31, by decide +kernel⟩,
   ⟨⟨1, 1, 2, 31, 4, 5⟩, 1, by decide +kernel⟩,
   ⟨⟨1, 1, 2, 31, 4, 5⟩, 2, by decide +kernel⟩⟩
end

section
open Serving
theorem witness_InvalidationsBellsAndResponses :
    (∃ (s : State) (m : RxMsg) (rest : List RxMsg) (c : Nat), firstMsg s 5 m rest ∧ c < 64 ∧ (∀ k < 64, s.ctxState k ≠ ctxIdle ∧ s.jobOf k = m.job ↔ k = c)) ∧
    (∃ (s : State) (m : RxMsg) (rest : List RxMsg) (c : CtxId), firstMsg s 6 m rest ∧ m.src ≠ s.ownNode ∧ m.addr = s.ownNode * 2 ^ 44 + 17592185978880 + 64 * c.val ∧ s.jobOf c.val = m.job) ∧
    (∃ (s : State) (m : RxMsg) (rest : List RxMsg) (c : CtxId), firstMsg s 6 m rest ∧ m.src ≠ s.ownNode ∧ m.addr = s.ownNode * 2 ^ 44 + 17592185978880 + 64 * c.val + 8 ∧ s.jobOf c.val = m.job) ∧
    (∃ (s : State) (m : RxMsg) (rest : List RxMsg), firstMsg s 6 m rest ∧ m.src ≠ s.ownNode ∧ m.addr % 8 ≠ 0) ∧
    (∃ (s : State) (m : RxMsg) (rest : List RxMsg) (c : CtxId) (d : Nat), firstMsg s 6 m rest ∧ m.src ≠ s.ownNode ∧ d < 8 ∧ m.addr = s.ownNode * 2 ^ 44 + 17592185978880 + 64 * c.val + 8 * d ∧ s.jobOf c.val ≠ m.job) ∧
    (∃ (s : State) (m : RxMsg) (rest : List RxMsg) (num : Nat), firstMsg s 64 m rest ∧ (s.took rest).asker m = some num) ∧
    (∃ (s : State) (m : RxMsg) (rest : List RxMsg), firstMsg s 64 m rest ∧ (s.took rest).asker m = none) :=
  ⟨⟨inS (ms 5 0x1000 64), ms 5 0x1000 64, [], 0, (And.intro (by decide +kernel) (And.intro (by decide +kernel) (by decide +kernel))), by decide +kernel⟩,
   ⟨inS (ms 6 0xFFFFFFF0000 5), ms 6 0xFFFFFFF0000 5, [], 0, (And.intro (by decide +kernel) (And.intro (by decide +kernel) (by decide +kernel))), by decide +kernel⟩,
   ⟨inS (ms 6 0xFFFFFFF0008 5), ms 6 0xFFFFFFF0008 5, [], 0, (And.intro (by decide +kernel) (And.intro (by decide +kernel) (by decide +kernel))), by decide +kernel⟩,
   ⟨inS (ms 6 0xFFFFFFF0004 5), ms 6 0xFFFFFFF0004 5, [], (And.intro (by decide +kernel) (And.intro (by decide +kernel) (by decide +kernel))), by decide +kernel⟩,
   ⟨inS (ms 6 0xFFFFFFF0078 5), ms 6 0xFFFFFFF0078 5, [], 1, 7, (And.intro (by decide +kernel) (And.intro (by decide +kernel) (by decide +kernel))), by decide +kernel⟩,
   ⟨rspS (rsp 3 9 0), rsp 3 9 0, [], 5, (And.intro (by decide +kernel) (And.intro (by decide +kernel) (by decide +kernel))), by decide +kernel⟩,
   ⟨rspS (rsp 3 8 9), rsp 3 8 9, [], (And.intro (by decide +kernel) (And.intro (by decide +kernel) (by decide +kernel))), by decide +kernel⟩⟩
end

section
open Clocks
theorem witness_ArmedSwitches :
    (∃ (req : Requester) (s : State), s.accepts req Reg.netTblCtrl 2 = true ∧ s.flag Fld.netTblStatusArmed = false ∧ s.tick + 2048 ≤ s.get64 Reg.netSwitchTick) ∧
    (∃ (req : Requester) (s : State), s.accepts req Reg.netTblCtrl 2 = true ∧ s.flag Fld.netTblStatusArmed = false ∧ s.get64 Reg.netSwitchTick < s.tick + 2048) ∧
    (∃ (req : Requester) (s : State), s.accepts req Reg.netTblCtrl 2 = true ∧ s.flag Fld.netTblStatusArmed = true) ∧
    (∃ (req : Requester) (s : State), s.accepts req Reg.vblTblCtrl 2 = true ∧ s.flag Fld.vblTblStatusArmed = false ∧ s.tick + 2048 ≤ s.get64 Reg.vblSwitchTick) ∧
    (∃ (req : Requester) (s : State), s.accepts req Reg.vblTblCtrl 2 = true ∧ s.flag Fld.vblTblStatusArmed = false ∧ s.get64 Reg.vblSwitchTick < s.tick + 2048) ∧
    (∃ (req : Requester) (s : State), s.accepts req Reg.vblTblCtrl 2 = true ∧ s.flag Fld.vblTblStatusArmed = true) ∧
    (∃ (s : State), s.flag Fld.netTblStatusArmed = true ∧ s.get64 Reg.netSwitchTick ≤ s.tick) ∧
    (∃ (s : State), (s.flag Fld.netTblStatusArmed = false ∨ s.tick < s.get64 Reg.netSwitchTick)) ∧
    (∃ (s : State), s.flag Fld.vblTblStatusArmed = true ∧ s.get64 Reg.vblSwitchTick ≤ s.tick) ∧
    (∃ (s : State), (s.flag Fld.vblTblStatusArmed = false ∨ s.tick < s.get64 Reg.vblSwitchTick)) ∧
    (∃ (req : Requester) (v : BitVec 32) (s : State), s.accepts req Reg.timCtrl v.toNat = true ∧ v.getLsbD 30 = true ∧ v.getLsbD 31 = false ∧ s.flag Fld.timStatusDivArmed = false ∧ s.tick + 2048 ≤ s.get64 Reg.timDivTick) ∧
    (∃ (req : Requester) (v : BitVec 32) (s : State), s.accepts req Reg.timCtrl v.toNat = true ∧ v.getLsbD 30 = true ∧ v.getLsbD 31 = false ∧ s.flag Fld.timStatusDivArmed = false ∧ s.get64 Reg.timDivTick < s.tick + 2048) ∧
    (∃ (s w : State), s.flag Fld.timStatusDivArmed = true ∧ s.get64 Reg.timDivTick ≤ s.tick ∧ (w = if s.get Fld.timStatusDiv = 0 ∧ s.get Fld.timCtrlDivNext = 1 then s.vcoreMove 680 else s)) ∧
    (∃ (s : State) (r v : Nat), r < 384 ∧ s.vcore r = some v) ∧
    (∃ (v : Vcore) (tick : Nat), v.at_ ≤ tick ∧ v.start ≤ v.goal) ∧
    (∃ (s : State), (s.flag Fld.timStatusDivArmed = false ∨ s.tick < s.get64 Reg.timDivTick)) :=
  ⟨⟨.svc, swS Reg.netSwitchTick 2148, by decide +kernel⟩,
   ⟨.svc, swS Reg.netSwitchTick 2147, by decide +kernel⟩,
   ⟨.svc, puts (swS Reg.netSwitchTick 2147) [(Fld.netTblStatusArmed, 1)], by decide +kernel⟩,
   ⟨.svc, swS Reg.vblSwitchTick 2148, by decide +kernel⟩,
   ⟨.svc, swS Reg.vblSwitchTick 2147, by decide +kernel⟩,
   ⟨.svc, puts (swS Reg.vblSwitchTick 2147) [(Fld.vblTblStatusArmed, 1)], by decide +kernel⟩,
   ⟨puts (swS Reg.netSwitchTick 100) [(Fld.netTblStatusArmed, 1)], by decide +kernel⟩,
   ⟨puts (swS Reg.netSwitchTick 101) [(Fld.netTblStatusArmed, 1)], by decide +kernel⟩,
   ⟨puts (swS Reg.vblSwitchTick 100) [(Fld.vblTblStatusArmed, 1)], by decide +kernel⟩,
   ⟨puts (swS Reg.vblSwitchTick 101) [(Fld.vblTblStatusArmed, 1)], by decide +kernel⟩,
   ⟨.svc, 0x40020000, swS Reg.timDivTick 2148, by decide +kernel⟩,
   ⟨.svc, 0x40020000, swS Reg.timDivTick 2147, by decide +kernel⟩,
   ⟨puts (swS Reg.timDivTick 100) [(Fld.timStatusDivArmed, 1), (Fld.timCtrlDivNext, 1)], _, by decide +kernel, by decide +kernel, rfl⟩,
   ⟨vcS, 5, 700, by decide +kernel⟩,
   ⟨⟨680, 750, 10⟩, 60, by decide +kernel⟩,
   ⟨puts (swS Reg.timDivTick 101) [(Fld.timStatusDivArmed, 1), (Fld.timCtrlDivNext, 1)], by decide +kernel⟩⟩
end

section
open Clocks
theorem witness_TimeUnitStates :
    (∃ (req : Requester) (v : BitVec 32) (s : State), s.accepts req Reg.timCtrl v.toNat = true ∧ v.getLsbD 31 = true ∧ v.getLsbD 16 = true ∧ v.getLsbD 1 = false ∧ s.anyRunning = false ∧ s.tick ≤ s.get64 Reg.timSet) ∧
    (∃ (req : Requester) (v : BitVec 32) (s : State), s.accepts req Reg.timCtrl v.toNat = true ∧ v.getLsbD 31 = true ∧ v.getLsbD 16 = false ∧ field v.toNat 0 2 ≠ 3 ∧ field v.toNat 2 7 < 80 ∧ (portDir (field v.toNat 2 7)).isSome = true ∧ s.portState (field v.toNat 2 7) = portActive) ∧
    (∃ (req : Requester) (v : BitVec 32) (s : State), s.accepts req Reg.timCtrl v.toNat = true ∧ v.getLsbD 31 = true ∧ (field v.toNat 0 2 = 3 ∨ v.getLsbD 16 = true ∧ field v.toNat 0 2 = 2)) ∧
    (∃ (s : State), s.get Fld.timCtrlRefSel = 2 ∧ s.tim.refLost = false ∧ s.isMaster = false ∧ s.tim.own = 2) ∧
    (∃ (src : Fin 3) (s : State), src.val = s.get Fld.timCtrlRefSel ∧ s.tim.refLost = false ∧ s.isMaster = true ∧ src ≠ 1) ∧
    (∃ (s : State), s.get Fld.timCtrlRefSel = 2 ∧ s.tim.own = 3 ∧ s.tim.lost = false) ∧
    (∃ (s : State), s.flag Fld.timStatusPllLock = true ∧ s.isMaster = false ∧ s.tim.marker + 3 * 65536 ≤ s.tick ∧ s.tim.own = 2) ∧
    (∃ (s : State), s.tick < s.tim.marker + 3 * 65536) ∧
    (∃ (s : State), s.flag Fld.timStatusPllLock = true ∧ s.tim.own = 3 ∧ s.tim.since + 250000 ≤ s.tick) ∧
    (∃ (s : State), s.tick < s.tim.since + 250000) :=
  ⟨⟨.svc, 0x80010000, noRun 100, by decide +kernel⟩,
   ⟨.svc, 0x80000000 + 40*4, puts (noRun 100) [(Fld.lnkStatusState 40, 5)], by decide +kernel⟩,
   ⟨.svc, 0x80000003, noRun 100, by decide +kernel⟩,
   ⟨tm 2 2, by decide +kernel⟩,
   ⟨0, tm 2 0 1, by decide +kernel⟩,
   ⟨tm 3 2 0 false true, by decide +kernel⟩,
   ⟨tm 2 0 0 false false 196608, by decide +kernel⟩,
   ⟨tm 2 0 0 false false 196607, by decide +kernel⟩,
   ⟨tm 3 0 0 false false 250007 7, by decide +kernel⟩,
   ⟨tm 3 0 0 false false 250006 7, by decide +kernel⟩⟩
end

section
open Clocks
theorem witness_MeshPackets :
    (∃ (p : MeshPacket) (s : State), Sendable s p ∧ s.meshRefuses p = false) ∧
    (∃ (p : MeshPacket) (s : State) (src : Nat), Sendable s p ∧ s.meshRefuses p = true ∧ src = s.fromStop p.src) ∧
    (∃ (i : Nat) (s : State) (f : Flit) (d q : Nat), (SentNext s i f d q (outKey d f.plane (if f.dstPort = 0 then 0 else 8 + f.dstPort))) ∧ f.at_ = d ∧ s.meshExit f (d, q) = MeshExit.deliver ∧ (f.dstPort ≠ 0 ∨ f.transom = true ∨ f.part.isSome = true ∧ s.partAt d = f.part) ∧ f.idx = 0 ∧ f.total = 1 ∧ s.mesh.rx.getD (f.key d) { next := 0, got := [], skipped := [] } = { next := q, got := [], skipped := [] }) ∧
    (∃ (i : Nat) (s : State) (f : Flit) (d q dir n : Nat), SentNext s i f d q (outKey f.at_ (s.crossNet f dir) (1 + dir)) ∧ s.meshExit f (d, q) = MeshExit.cross dir ∧ dir < 4 ∧ neighbour f.at_ dir = some n) ∧
    (∃ (i : Nat) (s : State) (f : Flit) (d q dir n : Nat) (b : Fin 4), SentNext s i f d q (outKey f.at_ (s.crossNet f dir) (1 + dir)) ∧ s.meshExit f (d, q) = MeshExit.cross dir ∧ dir < 4 ∧ neighbour f.at_ dir = some n ∧ b.val = dir ∧ f.fails = 0 ∧ s.mesh.replays.get? (16 * f.at_ + 4 * s.crossNet f dir + dir) = none) ∧
    (∃ (i : Nat) (s : State) (f g : Flit) (o : Nat), s.mesh.flits[i]? = some f ∧ s.stopOut f.at_ = false ∧ f.hops ≤ 48 ∧ f.admitted = true ∧ f.transom = false ∧ f.cls ≠ 0 ∧ s.flitOuts f = [o] ∧ g ∈ s.bidders f.at_ o ∧ (g.cls = 0 ∧ 0 < (s.meshOut o).ex.tokens ∨ f.transit = true ∧ g.cls ≠ 0 ∧ g.transit = false ∧ 4 ≤ List.count true (s.meshOut o).recent)) ∧
    (∃ (i : Nat) (s : State) (f : Flit), s.flag Fld.timStatusPllLock = true ∧ s.mesh.flits[i]? = some f ∧ (s.stopOut f.at_ = true ∨ 48 < f.hops) ∧ (f.cargo = Cargo.done ∨ f.cargo = Cargo.druter)) :=
  ⟨⟨mp, up tState, by constructor <;> decide +kernel, by decide +kernel⟩,
   ⟨{ mp with dst := .core 2 }, up tState, _, by constructor <;> decide +kernel, by decide +kernel, rfl⟩,
   ⟨0, mf (fl 1), fl 1, 1, 0, by constructor <;> decide +kernel, by decide +kernel⟩,
   ⟨0, mf (fl 0), fl 0, 1, 0, 0, 1, by constructor <;> decide +kernel, by decide +kernel⟩,
   ⟨0, mf (fl 0), fl 0, 1, 0, 0, 1, 0, by constructor <;> decide +kernel, by decide +kernel⟩,
   ⟨1, mfs [{ fl 0 with cls := 0 }, fl 0], fl 0, { fl 0 with cls := 0 }, 1, by decide +kernel⟩,
   ⟨0, mf { fl 0 with hops := 49 }, { fl 0 with hops := 49 }, by decide +kernel⟩⟩
end

section
open Clocks
theorem witness_MergeNodes :
    (∃ (s : State) (i : Nat) (g : Machine.Group) (n : Nat) (right : Bool), s.cores.groups[i]? = some g ∧ g.dst = Dest.node n right ∧ s.groupPath g = MeshPath.through ∧ (s.flag (Fld.mrgNodeLoEn n) = false ∨ s.get (Fld.mrgNodeHiContext n) ≠ g.ctx ∨ s.flag (Fld.mrgNodeLoType n) ≠ g.int32)) ∧
    (∃ (s : State) (g : Machine.Group) (n : Nat), s.cores.groups = [g] ∧ g.dst = Dest.node n false ∧ s.groupPath g = MeshPath.through ∧ s.flag (Fld.mrgNodeLoEn n) = true ∧ s.get (Fld.mrgNodeHiContext n) = g.ctx ∧ s.flag (Fld.mrgNodeLoType n) = g.int32 ∧ s.cores.merges = []) ∧
    (∃ (s : State) (l r : Machine.Group) (n k : Nat) (a b : List Byte), s.flag Fld.timStatusPllLock = true ∧ s.cores.groups = [r] ∧ r.dst = Dest.node n true ∧ s.groupPath r = MeshPath.through ∧ s.flag (Fld.mrgNodeLoEn n) = true ∧ s.get (Fld.mrgNodeHiContext n) = r.ctx ∧ s.flag (Fld.mrgNodeLoType n) = r.int32 ∧ s.cores.merges = [(n, some l, none)] ∧ l.int32 = r.int32 ∧ s.nodeOut n = Dest.ring k ∧ l.data = some a ∧ r.data = some b) ∧
    (∃ (req : Requester) (core : CoreId) (node : SlotId) (v : BitVec 32) (s : State), s.accepts req (Reg.mrgNodeLo (16 * core.val + node.val)) v.toNat = true ∧ v.getLsbD 31 = true ∧ s.flag (Fld.mrgNodeLoEn (16 * core.val + node.val)) = false ∧ s.nodeRefuses core.val node.val v.toNat = false) ∧
    (∃ (req : Requester) (core : CoreId) (node : SlotId) (v : BitVec 32) (s : State), s.accepts req (Reg.mrgNodeLo (16 * core.val + node.val)) v.toNat = true ∧ v.getLsbD 31 = true ∧ s.flag (Fld.mrgNodeLoEn (16 * core.val + node.val)) = false ∧ s.nodeRefuses core.val node.val v.toNat = true) ∧
    (∃ (req : Requester) (core : CoreId) (node : SlotId) (v : BitVec 32) (s : State), s.accepts req (Reg.mrgNodeLo (16 * core.val + node.val)) v.toNat = true ∧ v.getLsbD 31 = true ∧ s.flag (Fld.mrgNodeLoEn (16 * core.val + node.val)) = true) :=
  ⟨⟨mg [gr true [] true] [], 0, gr true [] true, 5, true, by decide +kernel⟩,
   ⟨mg [gr false] [], gr false, 5, by decide +kernel⟩,
   by refine ⟨ring5 0 [(5, some (gr false), none)] false, gr false, gr true (leBytes 8 0x3f800000C0000000), 5, 9, _, _, ?_, ?_, ?_, ?_, ?_, ?_, ?_, ?_, ?_, ?_, pickO_eq _ (by decide +kernel), pickO_eq _ (by decide +kernel)⟩ <;> decide +kernel,
   ⟨.svc, 0, 3, 0x80000000, nd, by decide +kernel⟩,
   ⟨.svc, 0, 3, 0x80000010, nd, by decide +kernel⟩,
   ⟨.svc, 0, 3, 0x80000010, puts nd [(Fld.mrgNodeLoEn 3, 1)], by decide +kernel⟩⟩
end

section
open Ports
theorem witness_PortsTrainAndCarryFlits :
    (∃ (req : Requester) (p : PortId) (v : BitVec 32) (s : State), s.accepts req (Reg.lnkCtrl p.val) v.toNat = true ∧ s.flag (Fld.lnkCtrlEn p.val) = false ∧ v.getLsbD 0 = true ∧ (v.getLsbD 1 = true → portDir p.val = none) ∧ s.bootHold = false) ∧
    (∃ (req : Requester) (p : PortId) (v : BitVec 32) (s : State), s.accepts req (Reg.lnkCtrl p.val) v.toNat = true ∧ s.flag (Fld.lnkCtrlEn p.val) = true ∧ v.getLsbD 0 = false ∧ v.getLsbD 1 = s.ethPort p.val ∧ (v.getLsbD 1 = true → portDir p.val = none)) ∧
    (∃ (req : Requester) (p : PortId) (v : BitVec 32) (s : State), s.accepts req (Reg.lnkCtrl p.val) v.toNat = true ∧ s.flag (Fld.lnkCtrlEn p.val) = true ∧ v.getLsbD 0 = true ∧ v.getLsbD 1 = false ∧ s.ethPort p.val = false ∧ v.getLsbD 3 = true ∧ s.portState p.val = 5) ∧
    (∃ (p : PortId) (s : State), s.flag Fld.timStatusPllLock = true ∧ s.portState p.val = 1 ∧ s.stopOut (edgeStop (portSite p.val) 0) = false) ∧
    (∃ (p : PortId) (s : State), s.stopOut (edgeStop (portSite p.val) 0) = true) ∧
    (∃ (p : PortId) (s : State), s.flag Fld.timStatusPllLock = true ∧ s.portState p.val = 2 ∧ s.ethPort p.val = false) ∧
    (∃ (p : PortId) (s : State), s.flag Fld.timStatusPllLock = true ∧ s.portState p.val = 2 ∧ s.ethPort p.val = true) ∧
    (∃ (p : PortId) (s : State), s.flag Fld.timStatusPllLock = true ∧ s.portState p.val = 3) ∧
    (∃ (p : PortId) (b : List Byte) (uncorr : Nat) (s : State), s.flag Fld.timStatusPllLock = true ∧ GoodInit s p.val b uncorr ∧ (InitIn.of (FlitIn.of b).payload).version = 1 ∧ ((∃ d, portDir p.val = some d ∧ (InitIn.of (FlitIn.of b).payload).role = 0 ∧ (InitIn.of (FlitIn.of b).payload).dir = oppositeDir d) ∨ portDir p.val = none ∧ ((InitIn.of (FlitIn.of b).payload).role = 2 ∨ (InitIn.of (FlitIn.of b).payload).role = 3))) ∧
    (∃ (p : PortId) (b : List Byte) (uncorr : Nat) (s : State) (r : Nat), s.flag Fld.timStatusPllLock = true ∧ GoodInit s p.val b uncorr ∧ ((InitIn.of (FlitIn.of b).payload).version ≠ 1 ∧ r = 1 ∨ ((InitIn.of (FlitIn.of b).payload).version = 1 ∧ ∃ d, portDir p.val = some d ∧ ((InitIn.of (FlitIn.of b).payload).role ≠ 0 ∧ r = 2 ∨ (InitIn.of (FlitIn.of b).payload).role = 0 ∧ (InitIn.of (FlitIn.of b).payload).dir ≠ oppositeDir d ∧ r = 3)) ∨ (InitIn.of (FlitIn.of b).payload).version = 1 ∧ portDir p.val = none ∧ (InitIn.of (FlitIn.of b).payload).role ≠ 2 ∧ (InitIn.of (FlitIn.of b).payload).role ≠ 3 ∧ r = 2)) ∧
    (∃ (p : PortId) (s : State), s.flag Fld.timStatusPllLock = true ∧ 2 ≤ s.portState p.val ∧ s.portState p.val ≤ 4 ∧ (((s.port p.val).since + if s.portState p.val = 2 then 50000000 else 250000) ≤ s.tick)) ∧
    (∃ (p : PortId) (s : State), s.flag Fld.timStatusPllLock = true ∧ s.portState p.val = 6) ∧
    (∃ (p : PortId) (s : State), s.flag Fld.timStatusPllLock = true ∧ s.portState p.val = 6 ∧ (s.port p.val).since + 25000000 ≤ s.tick) ∧
    (∃ (p : PortId) (s : State), s.portState p.val = 6 ∧ s.tick < (s.port p.val).since + 25000000) ∧
    (∃ (p : PortId) (s : State), s.flag Fld.timStatusPllLock = true ∧ s.portState p.val = 5) ∧
    (∃ (p : PortId) (b : List Byte) (uncorr : Nat) (s : State) (part : List Byte), s.flag Fld.timStatusPllLock = true ∧ GoodFlit s p.val b uncorr 1 ∧ (FlitIn.of b).nak = false ∧ s.flag (Fld.lnkCtrlShut p.val) = false ∧ (FlitIn.of b).seq = (s.port p.val).expect ∧ (s.port p.val).parts.getD (FlitIn.of b).cls none = some part) ∧
    (∃ (p : PortId) (b : List Byte) (uncorr : Nat) (s : State), s.flag Fld.timStatusPllLock = true ∧ GoodFlit s p.val b uncorr 1 ∧ (FlitIn.of b).nak = false ∧ s.flag (Fld.lnkCtrlShut p.val) = false ∧ (FlitIn.of b).seq ≠ (s.port p.val).expect ∧ (s.port p.val).nakSent = false) ∧
    (∃ (p : PortId) (b : List Byte) (uncorr : Nat) (s : State), s.flitsPass p.val = true ∧ (uncorr ≠ 0 ∨ (FlitIn.of b).crcOk = false)) ∧
    (∃ (p : PortId) (b : List Byte) (uncorr : Nat) (s : State), s.flag Fld.timStatusPllLock = true ∧ GoodFlit s p.val b uncorr 0 ∧ (FlitIn.of b).nak = true ∧ ((s.port p.val).ackTo (FlitIn.of b).ack s.tick).kept ≠ []) ∧
    (∃ (p : PortId) (s : State), s.flag Fld.timStatusPllLock = true ∧ s.flitsPass p.val = true ∧ (s.port p.val).kept ≠ [] ∧ (s.port p.val).ackTick + 4000 ≤ s.tick) ∧
    (∃ (p : PortId) (s : State), s.tick < (s.port p.val).ackTick + 4000) ∧
    (∃ (p : PortId) (s : State), s.flag Fld.timStatusPllLock = true ∧ s.flitsPass p.val = true ∧ s.tick % 65536 = 0 ∧ (s.port p.val).timeAt ≠ some s.tick) ∧
    (∃ (p : PortId) (b : List Byte) (uncorr : Nat) (s : State), s.flag Fld.timStatusPllLock = true ∧ GoodFlit s p.val b uncorr 2 ∧ leAt (FlitIn.of b).payload 0 1 = 2 ∧ (s.port p.val).echo = none) ∧
    (∃ (p : PortId) (b : List Byte) (uncorr : Nat) (s : State) (tx : Nat) (st : TimeStamp), s.flag Fld.timStatusPllLock = true ∧ GoodFlit s p.val b uncorr 2 ∧ leAt (FlitIn.of b).payload 0 1 = 2 ∧ (s.port p.val).echo = some (tx, st) ∧ (TimeIn.of (FlitIn.of b).payload).echoSeq = (s.port p.val).xseq ∧ (TimeIn.of (FlitIn.of b).payload).echoTx = tx) ∧
    (∃ (p : PortId) (b : List Byte) (s : State), s.ethPort p.val = true ∧ s.portState p.val = portActive ∧ s.flag (Fld.lnkCtrlShut p.val) = false ∧ (s.wrap64 (Reg.lnkRxFlits p.val)).frameOk p.val b = false) :=
  ⟨⟨.svc, 0, 1, portS 0, by decide +kernel⟩,
   ⟨.svc, 0, 0, portS 5 .empty 0 9 [(Fld.lnkCtrlEn 0, 1)], by decide +kernel⟩,
   ⟨.svc, 0, 9, portS 5 pK 0 9 [(Fld.lnkCtrlEn 0, 1)], by decide +kernel⟩,
   ⟨0, portS 1 pK 0 9, by decide +kernel⟩,
   ⟨0, tState, by decide +kernel⟩,
   ⟨0, portS 2 pK 0 9, by decide +kernel⟩,
   ⟨19, portS 2 { pK with fails := 2 } 19 9 [(Fld.lnkCtrlMode 19, 1)], by decide +kernel⟩,
   ⟨0, portS 3 pK 0 9, by decide +kernel⟩,
   ⟨0, initB 1 0 0, 0, portS 4 pK 0 9, by decide +kernel, by constructor <;> decide +kernel, by decide +kernel⟩,
   ⟨0, initB 2 0 0, 0, portS 4 pK 0 9, 1, by decide +kernel, by constructor <;> decide +kernel, by decide +kernel⟩,
   ⟨0, portS 2 { pK with fails := 1 } 0 50000001, by decide +kernel⟩,
   ⟨0, portS 6 pK 0 9, by decide +kernel⟩,
   ⟨0, portS 6 pK 0 25000001, by decide +kernel⟩,
   ⟨0, portS 6 pK 0 25000000, by decide +kernel⟩,
   ⟨0, portS 5 pK 0 9 [(Fld.timCtrlParent, 3)], by decide +kernel⟩,
   ⟨0, dat 0, 0, portS 5 { pK with nakSent := true } 0 9, [], by decide +kernel, by constructor <;> decide +kernel, by decide +kernel⟩,
   ⟨0, dat 1, 0, portS 5 pK 0 9, by decide +kernel, by constructor <;> decide +kernel, by decide +kernel⟩,
   ⟨0, dat 1, 2, portS 5 pK 0 9, by decide +kernel⟩,
   ⟨0, mkFlit .empty 0 0 255 0 true [], 0, portS 5 pK 0 9, by decide +kernel, by constructor <;> decide +kernel, by decide +kernel⟩,
   ⟨0, portS 5 pK 0 4005, by decide +kernel⟩,
   ⟨0, portS 5 pK 0 4004, by decide +kernel⟩,
   ⟨0, portS 5 { pK with xseq := 65535, stamp := some ⟨3, 400, 500⟩ } 0 65536, by decide +kernel⟩,
   ⟨0, timB .empty 3 1000 none, 0, portS 5 pK 0 9, by decide +kernel, by constructor <;> decide +kernel, by decide +kernel⟩,
   ⟨0, timB .empty 3 1000 (some ⟨7, 900, 950⟩), 0, portS 5 { pK with xseq := 7, echo := some (900, ⟨6, 800, 851⟩)} 0 9, 900, ⟨6, 800, 851⟩, by decide +kernel, by constructor <;> decide +kernel, by decide +kernel⟩,
   ⟨19, [1,2,3], ethS, by decide +kernel⟩⟩
end

section
open Registers
theorem witness_EmptyQueueTicks :
    (∃ (s : State), s.pending = [] ∧ s.flag Fld.timStatusPllLock = false) ∧
    (∃ (s : State), s.pending = [] ∧ s.flag Fld.timStatusPllLock = true) ∧
    (∃ (s : State) (c : Nat), s.ctxState c = ctxHeld ∧ (s.ctx c).tear = none) :=
  ⟨⟨{ State.reset with pending := [] }, by decide +kernel⟩,
   ⟨{ up tState with tim := { Tim.empty with hold := 2 } }, by decide +kernel⟩,
   ⟨puts tState [(Fld.ctxStatusState 0, 5)], 0, by decide +kernel⟩⟩
end

section
open Registers
theorem witness_InstructionChecksAndFaults :
    (∃ (core : CoreId) (slot : SlotId) (words : BitVec 128) (s : State) (t : Task), s.task? core.val slot.val = some t ∧ t.run = none ∧ s.hasTurn core.val slot.val = true ∧ opDefined (field (words.toNat % 2 ^ 64) 56 8) = false ∧ s.pcBad t.ctx t.pc.toNat (wordExt (words.toNat % 2 ^ 64)) = false) ∧
    (∃ (core : CoreId) (slot : SlotId) (word : BitVec 64) (s : State) (t : Task), s.task? core.val slot.val = some t ∧ t.run = none ∧ s.hasTurn core.val slot.val = true ∧ s.pcBad t.ctx t.pc.toNat (wordExt word.toNat) = true) ∧
    (∃ (words : BitVec 128), opDefined (field (words.toNat % 2 ^ 64) 56 8) = true) ∧
    (∃ (s : State) (core slot k : Nat) (t : Task), s.task? core slot = some t ∧ 2 ≤ k ∧ k ≤ 9 ∧ s.faultSpreads t.ctx t.leaf = false ∧ s.raised = []) :=
  ⟨⟨0, 0, BitVec.ofNat 128 (0x2f * 2^56 + 7 * 2^64), tState, tTask, by decide +kernel⟩,
   ⟨0, 0, 5, tWith pcTask, pcTask, by decide +kernel⟩,
   ⟨BitVec.ofNat 128 (2 * 2^56), by decide +kernel⟩,
   ⟨tState, 0, 0, 5, tTask, by decide +kernel⟩⟩
end

section
open Registers
theorem witness_RegisterReadsAndWrites :
    (∃ (req : Requester) (addr : BitVec 40) (s : State) (l : Loc) (fs : List FieldSpec), RegAt s req addr l fs ∧ regIsLow l = false ∧ regIsHigh l = false) ∧
    (∃ (req : Requester) (addr : BitVec 40) (s : State) (l : Loc) (fs : List FieldSpec), RegAt s req addr l fs ∧ regIsLow l = true) ∧
    (∃ (req : Requester) (addr : BitVec 40) (s : State) (l : Loc) (fs : List FieldSpec) (w : Word32), RegAt s req addr l fs ∧ regIsLow l = false ∧ regIsHigh l = true ∧ s.ctrl.shadows.get? (wideKey req (addr.toNat - 4)) = some w) ∧
    (∃ (req : Requester) (addr : BitVec 40) (s : State) (l : Loc) (fs : List FieldSpec), RegAt s req addr l fs ∧ regIsLow l = false ∧ regIsHigh l = true ∧ s.ctrl.shadows.get? (wideKey req (addr.toNat - 4)) = none) ∧
    (∃ (addr : BitVec 40) (s : State), s.svc.power = 2 ∧ s.flag Fld.timStatusPllLock = true ∧ addr.toNat % 4 ≠ 0) ∧
    (∃ (req : Requester) (addr : BitVec 40) (s : State), s.svc.power = 2 ∧ s.flag Fld.timStatusPllLock = true ∧ addr.toNat % 4 = 0 ∧ s.accessRefused req addr.toNat = false ∧ locate addr.toNat = none) ∧
    (∃ (fs : List FieldSpec) (f : FieldSpec), (List.Pairwise (fun a b => a.lo + a.w ≤ b.lo ∨ b.lo + b.w ≤ a.lo) fs) ∧ f ∈ fs) :=
  ⟨⟨.svc, ra Reg.timStatus, on, pickO (locate (ra Reg.timStatus).toNat) (by decide +kernel), pickO (regFields (pickO (locate (ra Reg.timStatus).toNat) (by decide +kernel)).blk (pickO (locate (ra Reg.timStatus).toNat) (by decide +kernel)).off) (by decide +kernel), ⟨by decide +kernel, by decide +kernel, by decide +kernel, by decide +kernel, pickO_eq _ (by decide +kernel), pickO_eq _ (by decide +kernel)⟩, by decide +kernel⟩,
   ⟨.svc, ra Reg.timSet, on.put64 Reg.timSet 0x123456789, pickO (locate (ra Reg.timSet).toNat) (by decide +kernel), pickO (regFields (pickO (locate (ra Reg.timSet).toNat) (by decide +kernel)).blk (pickO (locate (ra Reg.timSet).toNat) (by decide +kernel)).off) (by decide +kernel), ⟨by decide +kernel, by decide +kernel, by decide +kernel, by decide +kernel, pickO_eq _ (by decide +kernel), pickO_eq _ (by decide +kernel)⟩, by decide +kernel⟩,
   ⟨.svc, ra (Reg.timSet+4), { shad with ctrl.regs := shad.ctrl.regs}, pickO (locate (ra (Reg.timSet+4)).toNat) (by decide +kernel), pickO (regFields (pickO (locate (ra (Reg.timSet+4)).toNat) (by decide +kernel)).blk (pickO (locate (ra (Reg.timSet+4)).toNat) (by decide +kernel)).off) (by decide +kernel), _, ⟨by decide +kernel, by decide +kernel, by decide +kernel, by decide +kernel, pickO_eq _ (by decide +kernel), pickO_eq _ (by decide +kernel)⟩, by decide +kernel, by decide +kernel, pickO_eq _ (by decide +kernel)⟩,
   ⟨.svc, ra (Reg.timSet+4), on.put64 Reg.timSet 0x123456789, pickO (locate (ra (Reg.timSet+4)).toNat) (by decide +kernel), pickO (regFields (pickO (locate (ra (Reg.timSet+4)).toNat) (by decide +kernel)).blk (pickO (locate (ra (Reg.timSet+4)).toNat) (by decide +kernel)).off) (by decide +kernel), ⟨by decide +kernel, by decide +kernel, by decide +kernel, by decide +kernel, pickO_eq _ (by decide +kernel), pickO_eq _ (by decide +kernel)⟩, by decide +kernel⟩,
   ⟨ra (Reg.timSet+2), on, by decide +kernel⟩,
   ⟨.svc, ra (96*0x200000000 + 0x1FF000000), on, by decide +kernel⟩,
   ⟨[⟨0,4,.rw,0⟩, ⟨4,4,.w1c,0⟩, ⟨8,8,.ro,0⟩], ⟨4,4,.w1c,0⟩, by decide +kernel⟩⟩
end

section
open Writes
theorem witness_RegisterReadsAndWrites_2 :
    (∃ (req : Requester) (core : CoreId) (addr : BitVec 40) (v : BitVec 32) (x : WriteSides) (s : State) (l : Loc) (fs : List FieldSpec), WritableAt s req addr v l fs ∧ Alone x ∧ addr.toNat = Reg.corePrio core.val) ∧
    (∃ (req req' r : Requester) (core : CoreId) (addr : BitVec 40) (v v' : BitVec 32) (x : WriteSides) (s : State) (l : Loc) (fs : List FieldSpec), WritableAt s req addr v l fs ∧ WritableAt s req' addr v' l fs ∧ RegAt s r addr l fs ∧ addr.toNat = Reg.corePrio core.val ∧ x.readers = [r] ∧ x.also = [(req', v')]) ∧
    (∃ (req : Requester) (core : CoreId) (addr : BitVec 40) (x : WriteSides) (s : State) (l : Loc) (fs : List FieldSpec), WritableAt s req addr (1#32) l fs ∧ Alone x ∧ addr.toNat = Reg.coreCntCtrl core.val) ∧
    (∃ (req : Requester) (addr : BitVec 40) (v : BitVec 32) (x : WriteSides) (s : State) (l : Loc) (fs : List FieldSpec), WritableAt s req addr v l fs ∧ Alone x ∧ regIsLow l = true ∧ ((fs.any fun f => f.acc == Access.rw) = true) ∧ s.wideLocked l = false) ∧
    (∃ (req : Requester) (addr : BitVec 40) (v : BitVec 32) (x : WriteSides) (s : State) (l : Loc) (fs lows : List FieldSpec) (w : Word32), WritableAt s req addr v l fs ∧ Alone x ∧ regIsLow l = false ∧ regIsHigh l = true ∧ ((fs.any fun f => f.acc == Access.rw) = true) ∧ s.wideLocked l = false ∧ regFields l.blk (l.off - 4) = some lows ∧ s.ctrl.staged.get? (wideKey req (addr.toNat - 4)) = some w) ∧
    (∃ (req : Requester) (addr : BitVec 40) (v : BitVec 32) (x : WriteSides) (s : State) (l : Loc) (fs : List FieldSpec), WritableAt s req addr v l fs ∧ Alone x ∧ regIsLow l = false ∧ regIsHigh l = true ∧ ((fs.any fun f => f.acc == Access.rw) = true) ∧ s.wideLocked l = false ∧ s.ctrl.staged.get? (wideKey req (addr.toNat - 4)) = none) ∧
    (∃ (addr : BitVec 40) (x : WriteSides) (s : State), Alone x ∧ s.svc.power = 2 ∧ s.flag Fld.timStatusPllLock = true ∧ addr.toNat % 4 ≠ 0) ∧
    (∃ (req : Requester) (addr : BitVec 40) (x : WriteSides) (s : State), Alone x ∧ s.svc.power = 2 ∧ s.flag Fld.timStatusPllLock = true ∧ addr.toNat % 4 = 0 ∧ s.accessRefused req addr.toNat = false ∧ locate addr.toNat = none) ∧
    (∃ (req : Requester) (addr : BitVec 40) (x : WriteSides) (s : State) (l : Loc) (fs : List FieldSpec), Alone x ∧ RegAt s req addr l fs ∧ s.mayWriteLoc req l = false) :=
  ⟨⟨.svc, 0, ra (Reg.corePrio 0), 0x01020304, sides, on, pickO (locate (ra (Reg.corePrio 0)).toNat) (by decide +kernel), pickO (regFields (pickO (locate (ra (Reg.corePrio 0)).toNat) (by decide +kernel)).blk (pickO (locate (ra (Reg.corePrio 0)).toNat) (by decide +kernel)).off) (by decide +kernel), ⟨⟨by decide +kernel, by decide +kernel, by decide +kernel, by decide +kernel, pickO_eq _ (by decide +kernel), pickO_eq _ (by decide +kernel)⟩, by decide +kernel, by decide +kernel⟩, (And.intro (by decide +kernel) (by decide +kernel)), by decide +kernel⟩,
   ⟨.svc, .sup 0, .svc, 0, ra (Reg.corePrio 0), 0x01020304, 0x55, ⟨false, false, [.svc], [(.sup 0, 0x55)]⟩, way (stops [0, 238] on) 0 238, pickO (locate (ra (Reg.corePrio 0)).toNat) (by decide +kernel), pickO (regFields (pickO (locate (ra (Reg.corePrio 0)).toNat) (by decide +kernel)).blk (pickO (locate (ra (Reg.corePrio 0)).toNat) (by decide +kernel)).off) (by decide +kernel), ⟨⟨by decide +kernel, by decide +kernel, by decide +kernel, by decide +kernel, pickO_eq _ (by decide +kernel), pickO_eq _ (by decide +kernel)⟩, by decide +kernel, by decide +kernel⟩, ⟨⟨by decide +kernel, by decide +kernel, by decide +kernel, by decide +kernel, pickO_eq _ (by decide +kernel), pickO_eq _ (by decide +kernel)⟩, by decide +kernel, by decide +kernel⟩, ⟨by decide +kernel, by decide +kernel, by decide +kernel, by decide +kernel, pickO_eq _ (by decide +kernel), pickO_eq _ (by decide +kernel)⟩, by decide +kernel⟩,
   ⟨.svc, 0, ra (Reg.coreCntCtrl 0), sides, on, pickO (locate (ra (Reg.coreCntCtrl 0)).toNat) (by decide +kernel), pickO (regFields (pickO (locate (ra (Reg.coreCntCtrl 0)).toNat) (by decide +kernel)).blk (pickO (locate (ra (Reg.coreCntCtrl 0)).toNat) (by decide +kernel)).off) (by decide +kernel), ⟨⟨by decide +kernel, by decide +kernel, by decide +kernel, by decide +kernel, pickO_eq _ (by decide +kernel), pickO_eq _ (by decide +kernel)⟩, by decide +kernel, by decide +kernel⟩, (And.intro (by decide +kernel) (by decide +kernel)), by decide +kernel⟩,
   ⟨.svc, ra Reg.timSet, 0x55, sides, on, pickO (locate (ra Reg.timSet).toNat) (by decide +kernel), pickO (regFields (pickO (locate (ra Reg.timSet).toNat) (by decide +kernel)).blk (pickO (locate (ra Reg.timSet).toNat) (by decide +kernel)).off) (by decide +kernel), ⟨⟨by decide +kernel, by decide +kernel, by decide +kernel, by decide +kernel, pickO_eq _ (by decide +kernel), pickO_eq _ (by decide +kernel)⟩, by decide +kernel, by decide +kernel⟩, (And.intro (by decide +kernel) (by decide +kernel)), by decide +kernel⟩,
   by refine ⟨.svc, ra (Reg.timSet+4), 0x66, sides, stag, pickO (locate (ra (Reg.timSet+4)).toNat) (by decide +kernel), pickO (regFields (pickO (locate (ra (Reg.timSet+4)).toNat) (by decide +kernel)).blk (pickO (locate (ra (Reg.timSet+4)).toNat) (by decide +kernel)).off) (by decide +kernel), _, _, ⟨⟨by decide +kernel, by decide +kernel, by decide +kernel, by decide +kernel, pickO_eq _ (by decide +kernel), pickO_eq _ (by decide +kernel)⟩, by decide +kernel, by decide +kernel⟩, (And.intro (by decide +kernel) (by decide +kernel)), ?_, ?_, ?_, ?_, pickO_eq _ (by decide +kernel), pickO_eq _ (by decide +kernel)⟩ <;> decide +kernel,
   ⟨.svc, ra (Reg.timSet+4), 0x66, sides, on, pickO (locate (ra (Reg.timSet+4)).toNat) (by decide +kernel), pickO (regFields (pickO (locate (ra (Reg.timSet+4)).toNat) (by decide +kernel)).blk (pickO (locate (ra (Reg.timSet+4)).toNat) (by decide +kernel)).off) (by decide +kernel), ⟨⟨by decide +kernel, by decide +kernel, by decide +kernel, by decide +kernel, pickO_eq _ (by decide +kernel), pickO_eq _ (by decide +kernel)⟩, by decide +kernel, by decide +kernel⟩, (And.intro (by decide +kernel) (by decide +kernel)), by decide +kernel⟩,
   ⟨ra (Reg.timSet+3), sides, on, (And.intro (by decide +kernel) (by decide +kernel)), by decide +kernel⟩,
   ⟨.svc, ra (96*0x200000000 + 0x1FF000000), sides, on, (And.intro (by decide +kernel) (by decide +kernel)), by decide +kernel⟩,
   ⟨.part 3, ra Reg.timSet, sides, on, pickO (locate (ra Reg.timSet).toNat) (by decide +kernel), pickO (regFields (pickO (locate (ra Reg.timSet).toNat) (by decide +kernel)).blk (pickO (locate (ra Reg.timSet).toNat) (by decide +kernel)).off) (by decide +kernel), (And.intro (by decide +kernel) (by decide +kernel)), ⟨by decide +kernel, by decide +kernel, by decide +kernel, by decide +kernel, pickO_eq _ (by decide +kernel), pickO_eq _ (by decide +kernel)⟩, by decide +kernel⟩⟩
end

section
open Writes
theorem witness_CounterClears :
    (∃ (req : Requester) (c : CtxId) (s : State), s.accepts req (Reg.lvrCntCtrl c.val) 1 = true) ∧
    (∃ (req : Requester) (s : State), s.accepts req Reg.lvrFailClr 1 = true) ∧
    (∃ (req : Requester) (s : State), s.accepts req Reg.netCntCtrl 1 = true) ∧
    (∃ (req : Requester) (c : CtxId) (s : State), s.accepts req (Reg.migCntCtrl c.val) 1 = true) ∧
    (∃ (req : Requester) (s : State), s.accepts req Reg.migErrClr 1 = true) ∧
    (∃ (req : Requester) (p : PortId) (s : State), s.accepts req (Reg.lnkCntCtrl p.val) 1 = true) ∧
    (∃ (req : Requester) (s : State), s.accepts req Reg.trpCntCtrl 1 = true) ∧
    (∃ (req : Requester) (s : State), s.accepts req Reg.vblCntCtrl 1 = true) ∧
    (∃ (req : Requester) (c : CtxId) (s : State), s.accepts req (Reg.colCntCtrl c.val) 1 = true) ∧
    (∃ (req : Requester) (p : PartId) (s : State), s.accepts req (Reg.shtCtrl p.val) 2 = true) ∧
    (∃ (req : Requester) (s : State), s.accepts req Reg.shtModCtrl 1 = true) ∧
    (∃ (req : Requester) (s : State), s.accepts req Reg.evcCntCtrl 1 = true) ∧
    (∃ (req : Requester) (s : State), s.accepts req Reg.relCntCtrl 1 = true) ∧
    (∃ (req : Requester) (s : State), s.accepts req Reg.pwrCntCtrl 1 = true) :=
  ⟨⟨.svc, 5, on.put64 (Reg.lvrHoldTicks 5) 0x1234567890, by decide +kernel⟩,
   ⟨.svc, puts on [(Fld.lvrSigFailsCount, 4)], by decide +kernel⟩,
   ⟨.svc, puts on [(Fld.netLinkErrRetry 255, 4), (Fld.netLostCount, 8)], by decide +kernel⟩,
   ⟨.svc, 63, on.put64 (Reg.migStall1 63 + 40) 0x1234567890, by decide +kernel⟩,
   ⟨.svc, puts on [(Fld.migCeT2Count, 4)], by decide +kernel⟩,
   ⟨.svc, 0, on.put64 (Reg.lnkRxFlits 0) 0x1234567890, by decide +kernel⟩,
   ⟨.svc, puts on [(Fld.trpDupCount, 4)], by decide +kernel⟩,
   ⟨.svc, puts on [(Fld.vblLateRspCount, 4)], by decide +kernel⟩,
   ⟨.svc, 63, on.put64 (Reg.colWaitTicks 63) 0x1234567890, by decide +kernel⟩,
   ⟨.svc, 31, puts on [(Fld.shtMisuseCount 31, 4)], by decide +kernel⟩,
   ⟨.svc, puts on [(Fld.shtModMisuseCount, 4)], by decide +kernel⟩,
   ⟨.svc, puts on [(Fld.evcMaskedCount, 4)], by decide +kernel⟩,
   ⟨.svc, puts on [(Fld.relDeferredCount, 4)], by decide +kernel⟩,
   ⟨.svc, puts on [(Fld.pwrRCntFloors 383, 4)], by decide +kernel⟩⟩
end

section
open Checks
theorem witness_MismatchesAndScans :
    (∃ (m : Mismatch) (s : State) (pos : Nat) (w : State), Mismatched s m pos ∧ m.x2eq0 = true ∧ m.x3eq0 = true ∧ m.second = none ∧ ((s.counted m).unclean pos).chargeTransient pos ↑m.a = (w, false)) ∧
    (∃ (m : Mismatch) (s : State) (pos : Nat) (w : State), Mismatched s m pos ∧ m.x2eq0 = false ∧ m.x2eq3 = true ∧ ((s.counted m).unclean pos).chargeTransient pos ↑m.a = (w, false)) ∧
    (∃ (m : Mismatch) (s : State) (pos : Nat) (w : State), Mismatched s m pos ∧ m.x2eq0 = false ∧ m.x2eq3 = true ∧ ((s.counted m).unclean pos).chargeTransient pos ↑m.a = (w, true)) ∧
    (∃ (m : Mismatch) (s : State) (pos : Nat), Mismatched s m pos ∧ m.x2eq0 = true ∧ m.x3eq0 = false ∧ m.ok3 = true) ∧
    (∃ (m : Mismatch) (s : State) (pos : Nat), Mismatched s m pos ∧ m.second = none ∧ m.x2eq0 = false ∧ m.x2eq3 = false) ∧
    (∃ (s : State) (pos a : Nat), (s.position pos).bad.contains a = false) ∧
    (∃ (i : Nat), i < 64) ∧
    (∃ (pos : PosId) (s : State), s.flag (Fld.ptcPosStatSuspect ↑pos) = true ∧ 60 * max 1 (s.get Fld.relObsCfgCleanHours) ≤ s.get (Fld.ptcPosTimeClean ↑pos)) ∧
    (∃ (pos : PosId) (s : State), s.flag (Fld.ptcPosStatSuspect ↑pos) = false) ∧
    (∃ (pos : PosId) (s : State), s.flag (Fld.ptcPosStatFailed ↑pos) = false ∧ (s.serves ↑pos).isSome = true ∧ s.scanPeriod ↑pos ≤ s.get (Fld.ptcPosTimeSinceScan ↑pos)) ∧
    (∃ (pos : PosId) (s : State), s.get (Fld.ptcPosTimeSinceScan ↑pos) < s.scanPeriod ↑pos) ∧
    (∃ (req : Requester) (v : BitVec 32) (s : State), s.accepts req Reg.relScanReq v.toNat = true ∧ v.getLsbD 9 = false ∧ 319 < v.toNat % 512) ∧
    (∃ (req : Requester) (v : BitVec 32) (s : State), s.accepts req Reg.relScanReq v.toNat = true ∧ v.getLsbD 9 = false ∧ v.toNat % 512 ≤ 319 ∧ s.flag (Fld.ptcPosStatFailed (v.toNat % 512)) = true) ∧
    (∃ (req : Requester) (v : BitVec 32) (s : State), s.accepts req Reg.relScanReq v.toNat = true ∧ v.getLsbD 9 = false ∧ v.toNat % 512 ≤ 319 ∧ s.flag (Fld.ptcPosStatFailed (v.toNat % 512)) = false ∧ s.testPending (v.toNat % 512) = true) ∧
    (∃ (req : Requester) (v : BitVec 32) (s : State), s.accepts req Reg.relScanReq v.toNat = true ∧ v.getLsbD 9 = false ∧ v.toNat % 512 ≤ 319 ∧ s.flag (Fld.ptcPosStatFailed (v.toNat % 512)) = false ∧ s.testPending (v.toNat % 512) = false) ∧
    (∃ (req : Requester) (v : BitVec 32) (s : State), s.accepts req Reg.relScanReq v.toNat = true ∧ v.getLsbD 9 = true ∧ v.toNat % 512 ≤ 319 ∧ s.flag (Fld.ptcPosStatFailed (v.toNat % 512)) = false ∧ s.testPending (v.toNat % 512) = false) ∧
    (∃ (pos : PosId) (s : State) (k p : Nat) (t : PosTest), (List.find? (fun t => t.pos == ↑pos) s.rel.tests = some t) ∧ s.serves ↑pos = some k ∧ s.freePos (↑pos / 5) = some p ∧ t.deferred = none ∧ s.applyBarred (↑pos / 5) = false ∧ s.atBoundary t (coreOf (↑pos / 5) k) = true ∧ t.held = []) ∧
    (∃ (pos : PosId) (s : State), (List.find? (fun t => t.pos == ↑pos) s.rel.tests = none)) ∧
    (∃ (req : Requester) (c : CtxId) (v : BitVec 32) (s : State), s.accepts req (Reg.relCtxCtrl c.val) v.toNat = true ∧ v.getLsbD 8 = true ∧ v.toNat % 8 ≤ 4 ∧ s.ctxUsed c.val = true ∧ s.forceResult c.val ≠ 0) ∧
    (∃ (req : Requester) (c : CtxId) (v : BitVec 32) (s : State) (t : PosTest) (core : Nat), s.accepts req (Reg.relCtxCtrl c.val) v.toNat = true ∧ v.getLsbD 8 = true ∧ v.toNat % 8 ≤ 4 ∧ s.ctxUsed c.val = true ∧ s.forceResult c.val = 0 ∧ s.forcible c.val = [(t, core)]) ∧
    (∃ (n : PaneId) (x : ScanResult) (s : State) (r : PosRun), (List.find? (fun r => r.pos / 5 == n.val && !r.calib) s.rel.runs = some r) ∧ s.svc.testEn = false ∧ ↑x.arrays = 512 ∧ ↑x.banksUp = 64 ∧ x.macros = true) ∧
    (∃ (n : PaneId) (x : ScanResult) (s : State) (r : PosRun), (List.find? (fun r => r.pos / 5 == n.val && !r.calib) s.rel.runs = some r) ∧ s.svc.testEn = false ∧ (¬(↑x.arrays = 512 ∧ ↑x.banksUp = 64 ∧ x.macros = true))) ∧
    (∃ (s : State), s.raised = []) ∧
    (∃ (r : RegionId) (s : State) (t : PosRun), s.svc.testEn = false ∧ r.val % 6 ≠ 5 ∧ (List.find? (fun t => t.pos == 5 * (r.val / 6) + r.val % 6 && t.calib) s.rel.runs = some t)) :=
  ⟨⟨mm true true false false, rel [(Fld.relObsCfgTransientLimit, 2)], 0, ((((rel [(Fld.relObsCfgTransientLimit, 2)]).counted (mm true true false false)).unclean (0)).chargeTransient (0) ↑(mm true true false false).a).1, ⟨by decide +kernel, by decide +kernel⟩, by decide +kernel⟩,
   ⟨mm false true true false, rel [(Fld.relObsCfgTransientLimit, 2)], 0, ((((rel [(Fld.relObsCfgTransientLimit, 2)]).counted (mm false true true false)).unclean (0)).chargeTransient (0) ↑(mm false true true false).a).1, ⟨by decide +kernel, by decide +kernel⟩, by decide +kernel⟩,
   ⟨mm false true true false, rel [(Fld.relObsCfgTransientLimit, 1)], 0, ((((rel [(Fld.relObsCfgTransientLimit, 1)]).counted (mm false true true false)).unclean (0)).chargeTransient (0) ↑(mm false true true false).a).1, ⟨by decide +kernel, by decide +kernel⟩, by decide +kernel⟩,
   ⟨mm true false false true, rel, 0, ⟨by decide +kernel, by decide +kernel⟩, by decide +kernel⟩,
   ⟨mm false true false true, rel, 0, ⟨by decide +kernel, by decide +kernel⟩, by decide +kernel⟩,
   ⟨rel, 0, 511, by decide +kernel⟩,
   ⟨63, by decide +kernel⟩,
   ⟨0, rel [(Fld.ptcPosStatSuspect 0, 1), (Fld.ptcPosTimeClean 0, 60), (Fld.relObsCfgCleanHours, 0)], by decide +kernel⟩,
   ⟨0, rel, by decide +kernel⟩,
   ⟨0, rel [(Fld.ptcPosTimeSinceScan 0, 65535)], by decide +kernel⟩,
   ⟨0, rel, by decide +kernel⟩,
   ⟨.svc, 320, rel, by decide +kernel⟩,
   ⟨.svc, 319, rel [(Fld.ptcPosStatFailed 319, 1)], by decide +kernel⟩,
   ⟨.svc, 3, { rel with rel.tests := [⟨3, false, [], none, []⟩] }, by decide +kernel⟩,
   ⟨.svc, 3, rel, by decide +kernel⟩,
   ⟨.svc, 0x203, rel, by decide +kernel⟩,
   ⟨0, gen1, 0, 4, _, pickO_eq _ (by decide +kernel), by decide +kernel⟩,
   ⟨0, rel, by decide +kernel⟩,
   ⟨.svc, 0, 0x102, rel, by decide +kernel⟩,
   ⟨.svc, 0, 0x102, forS, tst (some 2), 0, by decide +kernel⟩,
   ⟨0, sr 512 64 true, run0 false, _, pickO_eq _ (by decide +kernel), by decide +kernel⟩,
   ⟨0, sr 511 64 true, run0 false, _, pickO_eq _ (by decide +kernel), by decide +kernel⟩,
   ⟨run0 false, by decide +kernel⟩,
   ⟨4, run0 true, _, by decide +kernel, by decide +kernel, pickO_eq _ (by decide +kernel)⟩⟩
end

section
open Checks
theorem witness_SubstitutionSwitch :
    (∃ (req : Requester) (n : PaneId) (s : State), s.accepts req (Reg.pswCtrl n.val) 3 = true ∧ s.pswReason n.val false ≠ 0) ∧
    (∃ (req : Requester) (n : PaneId) (s : State), s.accepts req (Reg.pswCtrl n.val) 3 = true ∧ s.pswReason n.val false = 0 ∧ s.pswChanged n.val = []) ∧
    (∃ (req : Requester) (n : PaneId) (s : State) (k : Nat), s.accepts req (Reg.pswCtrl n.val) 3 = true ∧ s.pswReason n.val false = 0 ∧ s.pswChanged n.val = [k]) ∧
    (∃ (req : Requester) (n : PaneId) (s : State), s.accepts req (Reg.pswCtrl n.val) 1 = true ∧ s.pswReason n.val true ≠ 0) ∧
    (∃ (req : Requester) (n : PaneId) (s : State) (k p : Nat), s.accepts req (Reg.pswCtrl n.val) 1 = true ∧ s.pswReason n.val true = 0 ∧ s.pswChanged n.val = [k] ∧ p = field (s.rd (Reg.pswNext n.val)) (4 * k) 4 ∧ s.regState (6 * n.val + p) ≠ regSagged) ∧
    (∃ (s : State) (n k p since : Nat), s.rel.moving = [(n, k, p, since)] ∧ s.copying n p = true) ∧
    (∃ (n : PaneId) (s : State) (k p since : Nat), s.rel.moving.get? n.val = some (k, p, since) ∧ s.copying n.val p = true ∧ since + 250000 ≤ s.tick) ∧
    (∃ (n : PaneId) (s : State) (k p since : Nat), s.rel.moving.get? n.val = some (k, p, since) ∧ s.tick < since + 250000) ∧
    (∃ (n : PaneId) (s : State) (k p since : Nat), s.rel.moving.get? n.val = some (k, p, since) ∧ s.serves (5 * n.val + p) = some k) ∧
    (∃ (n : PaneId) (s : State) (k p since : Nat), s.rel.moving.get? n.val = some (k, p, since) ∧ s.serves (5 * n.val + p) = none) ∧
    (∃ (n : PaneId) (s : State), s.rel.moving.get? n.val = none) ∧
    (∃ (k p : Nat), k < 4 ∧ p < 16) :=
  ⟨⟨.svc, 0, psw 0x3215, by decide +kernel⟩,
   ⟨.svc, 0, psw 0x3210, by decide +kernel⟩,
   ⟨.svc, 0, psw 0x3214, 0, by decide +kernel⟩,
   ⟨.svc, 0, psw 0x3204, by decide +kernel⟩,
   ⟨.svc, 0, psw 0x3410, 2, _, by decide +kernel, by decide +kernel, by decide +kernel, rfl, by decide +kernel⟩,
   ⟨mov 9, 0, 2, 4, 5, by decide +kernel⟩,
   ⟨0, mov 250005, 2, 4, 5, by decide +kernel⟩,
   ⟨0, mov 250004, 2, 4, 5, by decide +kernel⟩,
   ⟨0, { mov 9 with rel.moving := [(0, (2, 2, 5))] }, 2, 2, 5, by decide +kernel⟩,
   ⟨0, mov 9, 2, 4, 5, by decide +kernel⟩,
   ⟨0, rel, by decide +kernel⟩,
   ⟨3, 15, by decide +kernel⟩⟩
end

section
open Staging
theorem witness_StagingPoolAndMemoryErrors :
    (∃ (core : CoreId) (s : State) (slot : Nat) (rest : List Nat) (t : Task) (want : List (Nat × Bool)) (p : Pool), s.cores.stageQueue.getD core.val [] = slot :: rest ∧ s.task? core.val slot = some t ∧ t.state = TState.waiting ∧ t.wait = some (Wait.tiles want) ∧ (s.pool core.val t.ctx).reserve (s.stageTiles t.ctx) (some slot) want = some p) ∧
    (∃ (core : CoreId) (s : State) (slot : Nat) (rest : List Nat) (t : Task) (want : List (Nat × Bool)), s.cores.stageQueue.getD core.val [] = slot :: rest ∧ s.task? core.val slot = some t ∧ t.state = TState.waiting ∧ t.wait = some (Wait.tiles want) ∧ (s.pool core.val t.ctx).reserve (s.stageTiles t.ctx) (some slot) want = none) ∧
    (∃ (p : Pool) (limit k : Nat) (want : List (Nat × Bool)) (q : Pool), p.reserve limit (some k) want = some q) ∧
    (∃ (core : CoreId) (c : CtxId) (s : State) (a : Nat) (rest : List Nat) (q p : Pool), (s.pool core.val c.val).ahead = a :: rest ∧ q = { s.pool core.val c.val with ahead := rest } ∧ q.reserve (s.stageTiles c.val) none [(a, false)] = some p) ∧
    (∃ (core : CoreId) (c : CtxId) (tile : BitVec 32) (s : State) (o : Nat), (((s.pool core.val c.val).tiles.any fun y => y.addr == tile.toNat * 4096 && !y.landed) = true) ∧ region (tile.toNat * 4096) = Region.t2 o ∧ s.chanUp (s.t2Key (s.partOf c.val) o).1 = true) ∧
    (∃ (core : CoreId) (c : CtxId) (tile : BitVec 32) (data : List Byte) (s : State) (i o : Nat) (r : Req), (((s.pool core.val c.val).tiles.any fun y => y.addr == tile.toNat * 4096 && !y.landed) = true) ∧ region (tile.toNat * 4096) = Region.t3 i o ∧ (List.find? (fun q => q.ctx == c.val && q.use == ReqFor.engine (EngineRead.stage core.val (tile.toNat * 4096)) && q.first.isSome) s.vbl.reqs = some r) ∧ r.dst ≠ s.ownNode ∧ data.length = 4096) ∧
    (∃ (s : State) (core c a : Nat) (y : Staged), (List.find? (fun y => y.addr == a && !y.landed) (s.pool core c).tiles = some y) ∧ c < 64) ∧
    (∃ (core : CoreId) (c : CtxId) (tile : BitVec 32) (k : Nat) (s : State) (i o : Nat) (r : Req), (((s.pool core.val c.val).tiles.any fun y => y.addr == tile.toNat * 4096 && !y.landed) = true) ∧ region (tile.toNat * 4096) = Region.t3 i o ∧ (List.find? (fun q => q.ctx == c.val && q.use == ReqFor.engine (EngineRead.stage core.val (tile.toNat * 4096)) && q.first.isSome) s.vbl.reqs = some r) ∧ r.dst ≠ s.ownNode ∧ k ≠ 5) ∧
    (∃ (p : PartId) (tile : BitVec 32) (s : State), s.flag Fld.timStatusPllLock = true ∧ s.lvrs = [] ∧ s.vbl.late = [] ∧ s.mem.acks.contains (p.val, tile.toNat) = true ∧ (((s.copiesOf p.val tile.toNat).any fun y => !y.2.holders.isEmpty) = false)) ∧
    (∃ (p : PartId) (tile : BitVec 32) (s : State) (m : RxMsg) (cls : Nat), s.lvrs = [] ∧ s.vbl.late = [(m, cls, [(p.val, tile.toNat)])] ∧ s.mem.acks = [(p.val, tile.toNat)] ∧ (((s.copiesOf p.val tile.toNat).any fun y => !y.2.holders.isEmpty) = false)) ∧
    (∃ (p : PartId) (tile : BitVec 32) (s : State), s.lvrs = [] ∧ s.vbl.late = [] ∧ (((s.copiesOf p.val tile.toNat).any fun y => !y.2.holders.isEmpty) = true)) ∧
    (∃ (f : EccFinding) (s : State), f.ctx = none ∧ s.flag Fld.migScrubEn = true ∧ (f.mem.code = 2 → s.chanUp ↑f.unit = true) ∧ s.mem.poisoned (eccSector f) = false ∧ f.ue = true) ∧
    (∃ (f : EccFinding) (c : CtxId) (s : State), f.ctx = some c ∧ (f.mem.code = 2 → s.chanUp ↑f.unit = true) ∧ f.ue = true ∧ (s.mem.poisoned (eccSector f) = false ∨ f.write = true)) ∧
    (∃ (f : EccFinding) (s : State), (f.ctx = none → s.flag Fld.migScrubEn = true) ∧ (f.mem.code = 2 → s.chanUp ↑f.unit = true) ∧ s.mem.poisoned (eccSector f) = false ∧ f.ue = false) ∧
    (∃ (f : EccFinding) (s : State), s.mem.poisoned (eccSector f) = true ∧ (f.ctx = none ∨ f.write = false ∨ f.ue = false)) ∧
    (∃ (f : EccFinding) (s : State), f.mem.code = 2 ∧ s.chanUp ↑f.unit = false) ∧
    (∃ (f : EccFinding) (s : State), f.ctx = none ∧ s.flag Fld.migScrubEn = false) ∧
    (∃ (m : ChanId) (s : State), s.flag Fld.timStatusPllLock = true ∧ s.chanUp ↑m = true) ∧
    (∃ (m : ChanId) (s : State), s.chanUp ↑m = false) :=
  ⟨by refine ⟨0, stg [cp 0x20000005000 true], 0, [], wT, [(0x20000001000, true)], _, ?_, ?_, ?_, ?_, pickO_eq _ (by decide +kernel)⟩ <;> decide +kernel,
   ⟨0, stg [cp 0x20000005000 false, cp 0x20000006000 false [] 1], 0, [], wT, [(0x20000001000, true)], by decide +kernel⟩,
   ⟨⟨[cp 0x20000005000 true, cp 0x20000006000 true [] 1, cp 0x20000001000 true [] 2], []⟩, 3, 5, [(0x20000001000, true), (0x20000007000, false), (0x20000001000, false)], _, pickO_eq _ (by decide +kernel)⟩,
   ⟨0, 0, stg [cp 0x20000005000 true, cp 0x20000006000 true [] 1] [0x20000001000, 0x20000002000], 0x20000001000, [0x20000002000], _, _, by decide +kernel, rfl, pickO_eq _ (by decide +kernel)⟩,
   ⟨0, 0, 0x20000001, stg [cp 0x20000001000 false], 0x1000, by decide +kernel⟩,
   ⟨0, 0, 0x80000001, List.replicate 4096 7, t3S, 0, 0x1000, eng, by decide +kernel⟩,
   ⟨stg [cp 0x20000001000 false], 0, 0, 0x20000001000, cp 0x20000001000 false, by decide +kernel⟩,
   ⟨0, 0, 0x80000001, 1, t3S, 0, 0x1000, eng, by decide +kernel⟩,
   ⟨0, 1, ackS [], by decide +kernel⟩,
   ⟨0, 1, { ackS [] with mem.acks := [(0, 1)], vbl.late := [(wrM, 1, [(0, 1)])] }, wrM, 1, by decide +kernel⟩,
   ⟨0, 1, ackS [3], by decide +kernel⟩,
   ⟨ef .t2 true none, stg [] [] [(Fld.migScrubEn, 1)], by decide +kernel⟩,
   ⟨ef .acc true (some 0), 0, stg [], by decide +kernel⟩,
   ⟨ef .t0 false (some 0), stg [], by decide +kernel⟩,
   ⟨ef .t0 false none, psn (ef .t0 false none) (stg [] [] [(Fld.migScrubEn, 1)]), by decide +kernel⟩,
   ⟨ef .t2 true none, stg [] [] [(Fld.migScrubEn, 1), (Fld.migChanUpUp, 0)], by decide +kernel⟩,
   ⟨ef .t0 true none, puts (stg []) [(Fld.migScrubEn, 0)], by decide +kernel⟩,
   ⟨15, stg [], by decide +kernel⟩,
   ⟨15, stg [] [] [(Fld.migChanUpUp, 0x7FFF)], by decide +kernel⟩⟩
end

section
open Staging
theorem witness_MigrationRing :
    (∃ (req : Requester) (c : CtxId) (v : BitVec 32) (s w : State), s.accepts req (Reg.migRingCtrl c.val) v.toNat = true ∧ s.flag (Fld.migRingCtrlEn c.val) = false ∧ w = s.put (Fld.migRingCtrlSizeLog2 c.val) (v.toNat % 32) ∧ w.migRingOk c.val = true) ∧
    (∃ (req : Requester) (c : CtxId) (v : BitVec 32) (s w : State), s.accepts req (Reg.migRingCtrl c.val) v.toNat = true ∧ s.flag (Fld.migRingCtrlEn c.val) = false ∧ w = s.put (Fld.migRingCtrlSizeLog2 c.val) (v.toNat % 32) ∧ w.migRingOk c.val = false) ∧
    (∃ (req : Requester) (c : CtxId) (v : BitVec 32) (s : State), s.accepts req (Reg.migRingTail c.val) v.toNat = true) ∧
    (∃ (c : CtxId) (s : State) (cmd : MigCmd) (w : State), MigNext s c.val cmd ∧ cmd.op = 1 ∧ s.migRefused c.val cmd = none ∧ cmd.tiles = 1 ∧ upperTier cmd.src = true ∧ upperTier cmd.dst = true ∧ w = s.put (Fld.migRingStatusBusy c.val) 1 ∧ w.moveRefused c.val cmd.src cmd.dst = none) ∧
    (∃ (c : CtxId) (s : State) (cmd : MigCmd) (st : Nat), MigNext s c.val cmd ∧ cmd.op ≠ 2 ∧ cmd.op ≠ 3 ∧ s.migRefused c.val cmd = some st) ∧
    (∃ (c : CtxId) (s : State) (cmd : MigCmd), MigNext s c.val cmd ∧ cmd.op = 2 ∧ cmd.ok = true) ∧
    (∃ (c : CtxId) (s : State) (cmd : MigCmd), MigNext s c.val cmd ∧ cmd.op = 3 ∧ cmd.ok = true) ∧
    (∃ (c : CtxId) (s : State), s.migCmd c.val = none) ∧
    (∃ (st : Nat), st < 256) ∧
    (∃ (s : State) (c : CtxId) (compl : Nat), compl = leAt (s.mem.bytes (s.key c.val (s.get64 (Reg.migRingBase c.val) % 2 ^ 44 + 64 * s.get (Fld.migRingHeadHead c.val))) 64) 24 8 % 2 ^ 44 ∧ compl ≠ 0 ∧ compl % 8 = 0 ∧ upperTier compl = true ∧ s.mapped c.val compl 8 = true) :=
  ⟨⟨.svc, 0, 0x80000005, mig 17 0 [], _, by decide +kernel, by decide +kernel, rfl, by decide +kernel⟩,
   ⟨.svc, 0, 0x80000005, (mig 17 0 []).put64 (Reg.migRingBase 0) 0x1000000200, _, by decide +kernel, by decide +kernel, rfl, by decide +kernel⟩,
   ⟨.svc, 0, 0xfff, mig 17 0 [], by decide +kernel⟩,
   by refine ⟨0, mcpy, pickO (mcpy.migCmd 0) (by decide +kernel), _, ⟨pickO_eq _ _, by decide +kernel⟩, ?_, ?_, ?_, ?_, ?_, rfl, ?_⟩ <;> decide +kernel,
   ⟨0, mig 1 1 (cpy 0x1000006001 0x1000008000 1), pickO ((mig 1 1 (cpy 0x1000006001 0x1000008000 1)).migCmd 0) (by decide +kernel), 1, ⟨pickO_eq _ _, by decide +kernel⟩, by decide +kernel⟩,
   ⟨0, mdrop, pickO (mdrop.migCmd 0) (by decide +kernel), ⟨pickO_eq _ _, by decide +kernel⟩, by decide +kernel⟩,
   ⟨0, mfen, pickO (mfen.migCmd 0) (by decide +kernel), ⟨pickO_eq _ _, by decide +kernel⟩, by decide +kernel⟩,
   ⟨0, mig 0 1 [], by decide +kernel⟩,
   ⟨255, by decide +kernel⟩,
   ⟨mcpy, 0, _, rfl, by decide +kernel⟩⟩
end

section
open Manifests
theorem witness_WeightsVerified :
    (∃ (s t : State) (c ring : Nat) (man : Reply) (m : List Byte), s.takeManifest c ring man = (t, Except.ok m)) ∧
    (∃ (c : CtxId) (man : Reply) (s : State) (ring : Nat) (d : LvrCmd) (u : State) (m : List Byte) (x : State × LvrJob), ManifestIn s c 1 ring d man u ∧ u.takeManifest c.val ring man = (u, Except.ok m) ∧ u.lvrState c.val 1 = true ∧ (u.listed c.val d m).eraseDups.length = (u.listed c.val d m).length ∧ u.loadFits c.val d m (u.listed c.val d m) = true ∧ x = u.askPages c.val (lvrJob ring (s.lvrDesc c.val ring) m (u.listed c.val d m) (u.placed c.val m (u.listed c.val d m)))) ∧
    (∃ (c : CtxId) (man : Reply) (s : State) (ring : Nat) (d : LvrCmd) (u t : State) (st : Nat), ManifestIn s c 1 ring d man u ∧ u.takeManifest c.val ring man = (t, Except.error st)) :=
  ⟨⟨sgLoad, sgLoad, 0, 0, .ok sgMan, sgMan, by decide +kernel⟩,
   by refine ⟨0, .ok sgMan, reads sgLoad, 0, cmd sgLoad, arrived erM (reads sgLoad) 0 (cmd sgLoad) (.ok sgMan), sgMan, _, arrived_in 7 (by decide +kernel) (by decide +kernel) (by decide +kernel) (by decide +kernel) (by decide +kernel), ?_, ?_, ?_, ?_, rfl⟩ <;> decide +kernel,
   ⟨0, .status 3, reads sgLoad, 0, cmd sgLoad, arrived erM (reads sgLoad) 0 (cmd sgLoad) (.status 3), arrived erM (reads sgLoad) 0 (cmd sgLoad) (.status 3), 15, arrived_in 7 (by decide +kernel) (by decide +kernel) (by decide +kernel) (by decide +kernel) (by decide +kernel), by decide +kernel⟩⟩
end

section
open Louvre
theorem witness_WeightsVerified_2 :
    (∃ (j k : LvrJob) (i : Nat) (reply : Reply) (data : List Byte), j.check false i reply = Fetched.chunk k data) ∧
    (∃ (j k : LvrJob) (i : Nat) (reply : Reply), j.check true i reply = Fetched.page k) ∧
    (∃ (c : CtxId) (page : Bool) (i : Nat) (reply : Reply) (s : State) (r : Req) (j k : LvrJob) (w : State) (x : State × LvrJob), EngineAnswers s c (EngineRead.load page i) reply r w ∧ (s.lvr c.val).load = some j ∧ j.check page i reply = Fetched.page k ∧ x = w.askChunks c.val k i) ∧
    (∃ (c : CtxId) (page : Bool) (i : Nat) (reply : Reply) (s : State) (r : Req) (j k : LvrJob) (data : List Byte) (w : State), EngineAnswers s c (EngineRead.load page i) reply r w ∧ (s.lvr c.val).load = some j ∧ j.check page i reply = Fetched.chunk k data) ∧
    (∃ (c : CtxId) (page : Bool) (i : Nat) (reply : Reply) (s : State) (r : Req) (j k : LvrJob) (n : Nat) (w : State) (x : State × LvrJob), EngineAnswers s c (EngineRead.load page i) reply r w ∧ (s.lvr c.val).load = some j ∧ j.check page i reply = Fetched.miss k n ∧ n < 4 ∧ x = State.askJob c.val (w, k) page i) ∧
    (∃ (c : CtxId) (page : Bool) (i : Nat) (reply : Reply) (s : State) (r : Req) (j k : LvrJob) (n : Nat) (w : State), EngineAnswers s c (EngineRead.load page i) reply r w ∧ (s.lvr c.val).load = some j ∧ j.check page i reply = Fetched.miss k n ∧ 4 ≤ n) ∧
    (∃ (c : CtxId) (page : Bool) (i : Nat) (reply : Reply) (s : State) (r : Req) (j : LvrJob) (st : Nat) (w : State), EngineAnswers s c (EngineRead.load page i) reply r w ∧ (s.lvr c.val).load = some j ∧ j.check page i reply = Fetched.refused st) ∧
    (∃ (c : CtxId) (page : Bool) (i : Nat) (reply : Reply) (s : State) (r : Req) (v : Swap) (k : LvrJob) (data : List Byte) (w : State), EngineAnswers s c (EngineRead.swap page i) reply r w ∧ (s.lvr c.val).swap = some v ∧ v.fin = none ∧ v.job.check page i reply = Fetched.chunk k data) ∧
    (∃ (c : CtxId) (s : State) (j : LvrJob), (s.lvr c.val).load = some j ∧ (s.unanswered c.val (List.map (fun x => x.2) j.asked) = true)) ∧
    (∃ (c : CtxId) (s : State) (j : LvrJob), (s.lvr c.val).load = some j ∧ (s.unanswered c.val (List.map (fun x => x.2) j.asked) = false)) ∧
    (∃ (c : CtxId) (s : State) (ring t : Nat), (s.lvr c.val).load = none ∧ (s.lvr c.val).reading = some (ring, t) ∧ (LvrCmd.of (s.lvrDesc c.val ring)).op = 1 ∧ s.unanswered c.val [t] = true) ∧
    (∃ (c : CtxId) (s : State) (w : Swap), (s.lvr c.val).swap = some w ∧ w.fin = none ∧ (s.unanswered c.val (List.map (fun x => x.2) w.job.asked) = true)) ∧
    (∃ (c : CtxId) (s : State), (s.lvr c.val).load = none ∧ (s.lvr c.val).reading = none) :=
  ⟨⟨ldJob, chOf ldJob (.ok d16), 0, .ok d16, d16, by decide +kernel⟩,
   ⟨ldJob, pgOf ldJob (.ok (sha384 d16)), 0, .ok (sha384 d16), by decide +kernel⟩,
   ⟨0, true, 0, .ok (sha384 d16), ld ldJob true, er (.load true 0), ldJob, pgOf ldJob (.ok (sha384 d16)), _, _, ⟨by decide +kernel, by decide +kernel, rfl⟩, by decide +kernel, by decide +kernel, rfl⟩,
   ⟨0, false, 0, .ok d16, ld ldJob, er (.load false 0), ldJob, chOf ldJob (.ok d16), d16, _, ⟨by decide +kernel, by decide +kernel, rfl⟩, by decide +kernel⟩,
   ⟨0, false, 0, .ok [1], ld ldJob, er (.load false 0), ldJob, (ms ldJob).1, (ms ldJob).2, _, _, ⟨by decide +kernel, by decide +kernel, rfl⟩, by decide +kernel, by decide +kernel, by decide +kernel, rfl⟩,
   ⟨0, false, 0, .ok [1], ld (ldJob [(0, 3)]), er (.load false 0), ldJob [(0, 3)], (ms (ldJob [(0, 3)])).1, (ms (ldJob [(0, 3)])).2, _, ⟨by decide +kernel, by decide +kernel, rfl⟩, by decide +kernel⟩,
   ⟨0, false, 0, .status 3, ld ldJob, er (.load false 0), ldJob, 15, _, ⟨by decide +kernel, by decide +kernel, rfl⟩, by decide +kernel⟩,
   ⟨0, false, 0, .ok d16, ask (.swap false 0) (lvSwap swl), er (.swap false 0), swl, chOf ldJob (.ok d16), d16, _, ⟨by decide +kernel, by decide +kernel, rfl⟩, by decide +kernel⟩,
   ⟨0, lateT, ldJob, by decide +kernel⟩,
   ⟨0, ld ldJob, ldJob, by decide +kernel⟩,
   ⟨0, { lvRing [(0, 1, 1)] { Lvr.empty with reading := some (0, 7) } with tick := 7 + 60 * 250000000 }, 0, 7, by decide +kernel⟩,
   ⟨0, { lvSwap swl with tick := 7 + 60 * 250000000 }, swl, by decide +kernel⟩,
   ⟨0, tOn, by decide +kernel⟩⟩
end

section
open Louvre
theorem witness_LouvreRingAndSwaps :
    (∃ (req : Requester) (c : CtxId) (v : BitVec 32) (s w : State), s.accepts req (Reg.lvrDescCtrl c.val) v.toNat = true ∧ s.flag (Fld.lvrDescCtrlEn c.val) = false ∧ w = s.put (Fld.lvrDescCtrlSizeLog2 c.val) (v.toNat % 32) ∧ w.lvrRingOk c.val = true) ∧
    (∃ (req : Requester) (c : CtxId) (v : BitVec 32) (s w : State), s.accepts req (Reg.lvrDescCtrl c.val) v.toNat = true ∧ s.flag (Fld.lvrDescCtrlEn c.val) = false ∧ w = s.put (Fld.lvrDescCtrlSizeLog2 c.val) (v.toNat % 32) ∧ w.lvrRingOk c.val = false) ∧
    (∃ (req : Requester) (c : CtxId) (v : BitVec 32) (s : State), s.accepts req (Reg.lvrDescTail c.val) v.toNat = true) ∧
    (∃ (c : CtxId) (s : State) (ring : Nat) (d : LvrCmd) (st : Nat), s.lvrNext c.val = some (ring, d) ∧ (s.lvrTake c.val ring).lvrRefused c.val d = some st ∧ d.op = 1) ∧
    (∃ (c : CtxId) (s : State) (ring : Nat) (d : LvrCmd) (st : Nat), s.lvrNext c.val = some (ring, d) ∧ (s.lvrTake c.val ring).lvrRefused c.val d = some st ∧ d.op = 2) ∧
    (∃ (c : CtxId) (s : State) (ring : Nat) (d : LvrCmd) (st : Nat), s.lvrNext c.val = some (ring, d) ∧ (s.lvrTake c.val ring).lvrRefused c.val d = some st ∧ d.op = 3) ∧
    (∃ (c : CtxId) (s : State) (ring : Nat) (d : LvrCmd) (st : Nat), s.lvrNext c.val = some (ring, d) ∧ (s.lvrTake c.val ring).lvrRefused c.val d = some st ∧ d.op = 4) ∧
    (∃ (c : CtxId) (s : State) (ring : Nat) (d : LvrCmd) (w : State), LvrStarts s c.val ring d w ∧ d.op = 1) ∧
    (∃ (c : CtxId) (s : State) (ring : Nat) (d : LvrCmd) (w : State), LvrStarts s c.val ring d w ∧ d.op = 2) ∧
    (∃ (c : CtxId) (s : State) (ring : Nat) (d : LvrCmd) (w : State), LvrStarts s c.val ring d w ∧ d.op = 4) ∧
    (∃ (c : CtxId) (s : State) (ring : Nat) (d : LvrCmd) (w : State), LvrStarts s c.val ring d w ∧ d.op = 3 ∧ w.lvrState c.val 3 = true ∧ w.writePorts c.val d.a1 ≠ [] ∧ d.count ≤ 256 ∧ bitAt d.flags 2 = false ∧ w.lvrPoison c.val d.a0 (4096 * d.count) = []) ∧
    (∃ (c : CtxId) (s : State) (ring : Nat) (d : LvrCmd) (w : State), LvrStarts s c.val ring d w ∧ d.op = 3 ∧ w.lvrState c.val 3 = true ∧ w.writePorts c.val d.a1 = []) ∧
    (∃ (c : CtxId) (s : State) (i : Nat), (s.lvr c.val).reading = none ∧ (s.ctx c.val).tear = none ∧ (s.lvr c.val).load = none ∧ s.flag (Fld.lvrDescCtrlEn c.val) = true ∧ s.ctxState c.val ≠ ctxIdle ∧ s.ctxState c.val ≠ ctxFaulted ∧ (s.lvr c.val).swap = none ∧ (s.lvrQueue c.val).head? = some i) ∧
    (∃ (c : CtxId) (s : State) (i : Nat), (s.lvr c.val).reading = none ∧ (s.ctx c.val).tear = none ∧ (s.lvr c.val).load = none ∧ s.flag (Fld.lvrDescCtrlEn c.val) = true ∧ s.ctxState c.val ≠ ctxIdle ∧ s.ctxState c.val ≠ ctxFaulted ∧ s.swapWaits c.val = true ∧ (List.find? (fun i => (LvrCmd.of (s.lvrDesc c.val i)).op == 3) (s.lvrQueue c.val) = some i)) ∧
    (∃ (c : CtxId) (s : State), s.lvrNext c.val = none ∧ (s.lvr c.val).reading = none) ∧
    (∃ (s : State) (c : CtxId) (ring st : Nat), st < 256 ∧ (s.lvr c.val).ended = [] ∧ s.get (Fld.lvrDescHeadHead c.val) = ring) ∧
    (∃ (c : CtxId) (s : State) (w : Swap), (s.lvr c.val).swap = some w ∧ s.ctxState c.val = ctxRunning ∧ s.holdsAt c.val ((s.ctx c.val).gen + 1) = true ∧ s.allHeld c.val = true ∧ w.job.wantChunks ≠ [] ∧ s.flag Fld.timStatusPllLock = true) ∧
    (∃ (c : CtxId) (s : State) (w : Swap), (s.lvr c.val).swap = some w ∧ s.ctxState c.val = ctxRunning ∧ s.holdsAt c.val ((s.ctx c.val).gen + 1) = true ∧ s.allHeld c.val = true ∧ w.job.wantChunks = []) ∧
    (∃ (c : CtxId) (s : State), s.holdsAt c.val ((s.ctx c.val).gen + 1) = false) ∧
    (∃ (s : State) (c : CtxId) (buf a : Nat), buf % 4096 = 0 ∧ a % 4096 = 0 ∧ upperTier buf = true ∧ upperTier a = true ∧ s.mapped c.val buf 4096 = true ∧ s.mapped c.val a 4096 = true ∧ (s.key c.val buf + 4096 ≤ s.key c.val a ∨ s.key c.val a + 4096 ≤ s.key c.val buf)) ∧
    (∃ (c : CtxId) (s : State) (w : Swap) (t : State) (v : Swap), (s.lvr c.val).swap = some w ∧ w.fin = none ∧ w.phase = 4 ∧ s.exchangeAll c.val w = (t, v) ∧ v.back = none ∧ bitAt (LvrCmd.of v.job.desc).flags 1 = true) ∧
    (∃ (c : CtxId) (s : State) (w : Swap) (t : State) (v : Swap), (s.lvr c.val).swap = some w ∧ w.fin = none ∧ w.phase = 4 ∧ s.exchangeAll c.val w = (t, v) ∧ v.back = none ∧ bitAt (LvrCmd.of v.job.desc).flags 1 = false) ∧
    (∃ (c : CtxId) (s : State) (w : Swap) (t : State) (v : Swap) (st : Nat), (s.lvr c.val).swap = some w ∧ w.fin = none ∧ w.phase = 4 ∧ s.exchangeAll c.val w = (t, v) ∧ v.back = some st) ∧
    (∃ (req : Requester) (c : CtxId) (s : State) (w : Swap), s.accepts req (Reg.lvrSwapCmd c.val) 1 = true ∧ (s.lvr c.val).swap = some w ∧ w.phase = 5 ∧ w.fin = none) ∧
    (∃ (req : Requester) (c : CtxId) (s : State) (w : Swap), s.accepts req (Reg.lvrSwapCmd c.val) 2 = true ∧ (s.lvr c.val).swap = some w ∧ w.phase = 5 ∧ w.fin = none) ∧
    (∃ (req : Requester) (c : CtxId) (s : State), (∀ (w : Swap), (s.lvr c.val).swap = some w → w.phase ≠ 5) ∧ s.accepts req (Reg.lvrSwapCmd c.val) 1 = true) ∧
    (∃ (req : Requester) (c : CtxId) (s : State), (∀ (w : Swap), (s.lvr c.val).swap = some w → w.phase ≠ 5) ∧ s.accepts req (Reg.lvrSwapCmd c.val) 2 = true) ∧
    (∃ (c : CtxId) (s : State) (w : Swap), (s.lvr c.val).swap = some w ∧ w.phase = 5 ∧ w.fin = none ∧ w.since + secondsOf (s.get (Fld.lvrTimeoutHoldS c.val)) ≤ s.tick) ∧
    (∃ (c : CtxId) (s : State) (w : Swap), (s.lvr c.val).swap = some w ∧ w.phase = 5 ∧ w.fin = none ∧ s.tick < w.since + secondsOf (s.get (Fld.lvrTimeoutHoldS c.val))) ∧
    (∃ (c : CtxId) (s : State), (s.lvr c.val).swap = none) :=
  ⟨⟨.svc, 0, 0x80000004, en0, _, by decide +kernel, by decide +kernel, rfl, by decide +kernel⟩,
   ⟨.svc, 0, 0x80000004, en0.put64 (Reg.lvrDescBase 0) 0x1000004040, _, by decide +kernel, by decide +kernel, rfl, by decide +kernel⟩,
   ⟨.svc, 0, 5, tOn, by decide +kernel⟩,
   ⟨0, f1bad, 0, cmd f1bad, 1, by decide +kernel⟩,
   ⟨0, f2bad, 0, cmd f2bad, 1, by decide +kernel⟩,
   ⟨0, f3bad, 0, cmd f3bad, 1, by decide +kernel⟩,
   ⟨0, f4bad, 0, cmd f4bad, 1, by decide +kernel⟩,
   ⟨0, f1g, 0, cmd f1g, (f1g).lvrTake (↑(0)) (0), ⟨by decide +kernel, rfl, by decide +kernel⟩, by decide +kernel⟩,
   ⟨0, f2g, 0, cmd f2g, (f2g).lvrTake (↑(0)) (0), ⟨by decide +kernel, rfl, by decide +kernel⟩, by decide +kernel⟩,
   ⟨0, f4, 0, cmd f4, (f4).lvrTake (↑(0)) (0), ⟨by decide +kernel, rfl, by decide +kernel⟩, by decide +kernel⟩,
   ⟨0, f3p, 0, cmd f3p, (f3p).lvrTake (↑(0)) (0), ⟨by decide +kernel, rfl, by decide +kernel⟩, by decide +kernel⟩,
   ⟨0, f3, 0, cmd f3, (f3).lvrTake (↑(0)) (0), ⟨by decide +kernel, rfl, by decide +kernel⟩, by decide +kernel⟩,
   ⟨0, runL f4, 0, by decide +kernel⟩,
   ⟨0, runL wb2, 1, by decide +kernel⟩,
   ⟨0, tOn, by decide +kernel⟩,
   ⟨f4, 0, 0, 7, by decide +kernel⟩,
   ⟨0, lvSwap h1, h1, by decide +kernel⟩,
   ⟨0, lvSwap (swS 2), (swS 2), by decide +kernel⟩,
   ⟨0, tOn, by decide +kernel⟩,
   ⟨exS, 0, 0x1000008000, 0x4000, by decide +kernel⟩,
   ⟨0, lvSwap ex4h, ex4h, ((lvSwap ex4h).exchangeAll 0 ex4h).1, ((lvSwap ex4h).exchangeAll 0 ex4h).2, by decide +kernel⟩,
   ⟨0, lvSwap ex4, ex4, ((lvSwap ex4).exchangeAll 0 ex4).1, ((lvSwap ex4).exchangeAll 0 ex4).2, by decide +kernel⟩,
   ⟨0, lvSwap ex4b, ex4b, ((lvSwap ex4b).exchangeAll 0 ex4b).1, ((lvSwap ex4b).exchangeAll 0 ex4b).2, 14, by decide +kernel⟩,
   ⟨.svc, 0, sw5, swS 5, by decide +kernel⟩,
   ⟨.svc, 0, sw5, swS 5, by decide +kernel⟩,
   ⟨.svc, 0, tOn, by decide +kernel⟩,
   ⟨.svc, 0, tOn, by decide +kernel⟩,
   ⟨0, swT (5 + 60 * 250000000), swS 5, by decide +kernel⟩,
   ⟨0, (swT (4 + 250000000)).put (Fld.lvrTimeoutHoldS 0) 1, swS 5, by decide +kernel⟩,
   ⟨0, tOn, by decide +kernel⟩⟩
end

section
open Manifests
theorem witness_LouvreRingAndSwaps_2 :
    (∃ (c : CtxId) (man : Reply) (s : State) (ring : Nat) (d : LvrCmd) (u : State) (m : List Byte) (t : State) (x : State × LvrJob), ManifestIn s c 2 ring d man u ∧ u.takeManifest c.val ring man = (u, Except.ok m) ∧ u.lvrState c.val 2 = true ∧ (u.listed c.val d m).eraseDups.length = (u.listed c.val d m).length ∧ u.swapRefused c.val d m (u.listed c.val d m) = none ∧ u.swapBufOk c.val (4096 * swapTiles m (u.listed c.val d m)) = true ∧ (t = (u.lvrWrite c.val (u.get64 (Reg.lvrManBase c.val) % 2 ^ 44 + 8388608) m fun x => false).1) ∧ x = t.askPages c.val (lvrJob ring (s.lvrDesc c.val ring) m (u.listed c.val d m) (listTensors m (u.listed c.val d m)))) ∧
    (∃ (c : CtxId) (man : Reply) (s : State) (ring : Nat) (d : LvrCmd) (u : State) (m : List Byte) (st : Nat), ManifestIn s c 2 ring d man u ∧ u.takeManifest c.val ring man = (u, Except.ok m) ∧ u.lvrState c.val 2 = true ∧ (u.listed c.val d m).eraseDups.length = (u.listed c.val d m).length ∧ u.swapRefused c.val d m (u.listed c.val d m) = some st) :=
  ⟨by refine ⟨0, .ok sgMan, reads sgSwap, 0, cmd sgSwap, arrived erM (reads sgSwap) 0 (cmd sgSwap) (.ok sgMan), sgMan, _, _, arrived_in 7 (by decide +kernel) (by decide +kernel) (by decide +kernel) (by decide +kernel) (by decide +kernel), ?_, ?_, ?_, ?_, ?_, rfl, rfl⟩ <;> decide +kernel,
   ⟨0, .ok sgMan, sgMis, 0, cmd sgSwap, arrived erM sgMis 0 (cmd sgSwap) (.ok sgMan), sgMan, 9, arrived_in 7 (by decide +kernel) (by decide +kernel) (by decide +kernel) (by decide +kernel) (by decide +kernel), by decide +kernel⟩⟩
end

section
open Collectives
theorem witness_CollectiveStepsRun :
    (∃ (i : Issue) (s : State) (t : Task) (w : State) (m : Coll), CollMember i s t w m ∧ ((List.filter (fun k => k.endedAs.isNone) w.coll.insts).length < 64) ∧ m.need ≤ (w.scratchFree t.ctx).length ∧ poisonLeaves w (Next.stay (w.collStart (cxOf i 144 t) m)) = false) ∧
    (∃ (i : Issue) (s : State) (t : Task) (w : State) (m : Coll), CollMember i s t w m ∧ (64 ≤ (List.filter (fun k => k.endedAs.isNone) w.coll.insts).length ∨ (w.scratchFree t.ctx).length < m.need)) ∧
    (∃ (s : State) (i : Coll) (dir : Nat) (m : RxMsg) (w : State), collIn s m w ∧ m.collDim = 3 ∧ m.collStep = 0 ∧ collOf w m i dir ∧ List.take 22 m.data = List.take 22 i.readyData) ∧
    (∃ (s : State) (i : Coll) (dir : Nat) (m : RxMsg) (w : State), collIn s m w ∧ m.collDim = 3 ∧ m.collStep = 0 ∧ collOf w m i dir ∧ List.take 22 m.data ≠ List.take 22 i.readyData) ∧
    (∃ (s : State) (c : Nat) (m : RxMsg) (w : State), collIn s m w ∧ m.collDim = 3 ∧ m.collStep = 0 ∧ w.collFor m = none ∧ w.collCtx m = some c) ∧
    (∃ (s : State) (m : RxMsg) (w : State), collIn s m w ∧ m.collDim = 3 ∧ m.collStep = 0 ∧ w.collFor m = none ∧ w.collCtx m = none) ∧
    (∃ (s : State), s.takeMsg ptColl = none) ∧
    (∃ (core : CoreId) (slot : SlotId) (s : State) (t : Task) (i : Coll) (w : State), s.task? core.val slot.val = some t ∧ t.state = TState.waiting ∧ t.wait = some Wait.coll ∧ (List.find? (fun i => i.ctx == t.ctx && i.leaf == t.leaf && i.task == t.num && i.endedAs.isNone) s.coll.insts = some i) ∧ s.runs t.ctx = true ∧ s.flag Fld.timStatusPllLock = true ∧ i.launched = false ∧ s.tick % 2 ^ i.stepLog2 = 0 ∧ ((if i.step = 0 then List.all i.nbrs fun n => i.ready.contains n.1 else List.all i.nbrs fun n => decide (i.step ≤ i.dones.getD n.1 0)) = true) ∧ s.collPoison i (i.cx core.val slot.val t) = none ∧ i.lastLaunch = none ∧ w = (s.collWaited core.val slot.val).noteIssue core.val slot.val) ∧
    (∃ (core : CoreId) (slot : SlotId) (s : State) (t : Task), s.task? core.val slot.val = some t ∧ t.wait ≠ some Wait.coll) ∧
    (∃ (s : State) (i : Coll) (dir : Nat) (m : RxMsg) (w : State), collIn s m w ∧ m.collDim ≠ 3 ∧ collOf w m i dir ∧ dir / 2 = m.collDim ∧ (m.collStep = i.step ∨ i.launched = true ∧ m.collStep = i.step + 1)) ∧
    (∃ (s : State) (i : Coll) (dir : Nat) (m : RxMsg) (w : State), collIn s m w ∧ m.collDim ≠ 3 ∧ collOf w m i dir ∧ dir / 2 = m.collDim ∧ m.collStep ≠ i.step ∧ (i.launched = true → m.collStep ≠ i.step + 1)) ∧
    (∃ (s : State) (i : Coll) (dir : Nat) (m : RxMsg) (w : State), collIn s m w ∧ m.collDim = 3 ∧ m.collStep = 1 ∧ collOf w m i dir ∧ m.opnd = i.step) ∧
    (∃ (s : State) (i : Coll) (dir : Nat) (m : RxMsg) (w : State), collIn s m w ∧ m.collDim = 3 ∧ m.collStep = 1 ∧ collOf w m i dir ∧ i.step + 1 < m.opnd) ∧
    (∃ (s : State) (i : Coll) (q : Nat) (data : List Byte) (n : Nat) (p : Word32) (v : Word32 × Bool), (pieceOf data).1[n]? = some p ∧ (s.readW i q)[n]? = some v) :=
  ⟨⟨clIss, clOne, tk, (clOne.turn clIss), mOf clIss clOne, ⟨executes_of _ _ _ _ (by decide +kernel), by decide +kernel, okUnit (by decide +kernel), ⟨_, pickOk_eq _ (by decide +kernel), by decide +kernel, by decide +kernel⟩, ⟨by decide +kernel, by decide +kernel⟩, okUnit (by decide +kernel), ⟨by decide +kernel, by decide +kernel, by decide +kernel⟩⟩, by decide +kernel⟩,
   ⟨clIss, noRoom, tk, (noRoom.turn clIss), mOf clIss noRoom, ⟨executes_of _ _ _ _ (by decide +kernel), by decide +kernel, okUnit (by decide +kernel), ⟨_, pickOk_eq _ (by decide +kernel), by decide +kernel, by decide +kernel⟩, ⟨by decide +kernel, by decide +kernel⟩, okUnit (by decide +kernel), ⟨by decide +kernel, by decide +kernel, by decide +kernel⟩⟩, by decide +kernel⟩,
   ⟨rdy, inst, 0, (pickO ((rdy).takeMsg ptColl) (by decide +kernel)).1, (pickO ((rdy).takeMsg ptColl) (by decide +kernel)).2, by unfold collIn; decide +kernel, by decide +kernel, by decide +kernel, by unfold collOf; decide +kernel, by decide +kernel⟩,
   ⟨rdyB, inst, 0, (pickO ((rdyB).takeMsg ptColl) (by decide +kernel)).1, (pickO ((rdyB).takeMsg ptColl) (by decide +kernel)).2, by unfold collIn; decide +kernel, by decide +kernel, by decide +kernel, by unfold collOf; decide +kernel, by decide +kernel⟩,
   ⟨rdyC, 0, (pickO ((rdyC).takeMsg ptColl) (by decide +kernel)).1, (pickO ((rdyC).takeMsg ptColl) (by decide +kernel)).2, by unfold collIn; decide +kernel, by decide +kernel⟩,
   ⟨rdyD, (pickO ((rdyD).takeMsg ptColl) (by decide +kernel)).1, (pickO ((rdyD).takeMsg ptColl) (by decide +kernel)).2, by unfold collIn; decide +kernel, by decide +kernel⟩,
   ⟨clState, by decide +kernel⟩,
   by refine ⟨0, 0, ln inst, _, _, _, pickO_eq _ (by decide +kernel), ?_, ?_, pickO_eq _ (by decide +kernel), ?_, ?_, ?_, ?_, ?_, ?_, ?_, rfl⟩ <;> decide +kernel,
   ⟨0, 0, clState, _, pickO_eq _ (by decide +kernel), by decide +kernel⟩,
   ⟨sd (run1 inst) 0 [1,2,3], run1 inst, 0, (pickO ((sd (run1 inst) 0 [1,2,3]).takeMsg ptColl) (by decide +kernel)).1, (pickO ((sd (run1 inst) 0 [1,2,3]).takeMsg ptColl) (by decide +kernel)).2, by unfold collIn; decide +kernel, by decide +kernel, by unfold collOf; decide +kernel, by decide +kernel⟩,
   ⟨sd (run1 inst) 2 [1,2,3], run1 inst, 0, (pickO ((sd (run1 inst) 2 [1,2,3]).takeMsg ptColl) (by decide +kernel)).1, (pickO ((sd (run1 inst) 2 [1,2,3]).takeMsg ptColl) (by decide +kernel)).2, by unfold collIn; decide +kernel, by decide +kernel, by unfold collOf; decide +kernel, by decide +kernel⟩,
   ⟨dn (run1 inst) 0, run1 inst, 0, (pickO ((dn (run1 inst) 0).takeMsg ptColl) (by decide +kernel)).1, (pickO ((dn (run1 inst) 0).takeMsg ptColl) (by decide +kernel)).2, by unfold collIn; decide +kernel, by decide +kernel, by decide +kernel, by unfold collOf; decide +kernel, by decide +kernel⟩,
   ⟨dn inst 5, inst, 0, (pickO ((dn inst 5).takeMsg ptColl) (by decide +kernel)).1, (pickO ((dn inst 5).takeMsg ptColl) (by decide +kernel)).2, by unfold collIn; decide +kernel, by decide +kernel, by decide +kernel, by unfold collOf; decide +kernel, by decide +kernel⟩,
   ⟨clRun inst, inst, 0, [0,0,128,63, 1,1,1,1,1,1,1,1], 0, 0x3f800000#32, _, by decide +kernel, pickO_eq _ (by decide +kernel)⟩⟩
end

section
open Collectives
theorem witness_CollectivesEndOnce :
    (∃ (s : State) (i : Coll) (dir : Nat) (m : RxMsg) (w : State), collIn s m w ∧ m.collDim = 3 ∧ m.collStep = 2 ∧ collOf w m i dir) ∧
    (∃ (s : State) (c : Nat) (m : RxMsg) (w : State), collIn s m w ∧ m.collDim = 3 ∧ m.collStep = 2 ∧ w.collFor m = none ∧ w.collCtx m = some c ∧ ((w.coll.kept.any fun k => k.job == m.job && k.num == m.collNum) = false) ∧ w.collAhead c m.collNum = true ∧ w.coll.kept.length < 64) ∧
    (∃ (c : CtxId) (num : BitVec 32) (s : State) (i : Coll), (List.find? (fun i => i.ctx == c.val && i.num == num.toNat && i.endedAs.isNone) s.coll.insts = some i) ∧ i.progress + i.timeoutS * 250000000 ≤ s.tick) ∧
    (∃ (c : CtxId) (num : BitVec 32) (s : State) (i : Coll), (List.find? (fun i => i.ctx == c.val && i.num == num.toNat && i.endedAs.isNone) s.coll.insts = some i) ∧ s.tick < i.progress + i.timeoutS * 250000000) ∧
    (∃ (s : State) (node : Nat) (path : Bool) (m : Msg) (rest : List (Nat × Bool × Msg)) (i : Coll) (dir : Nat) (w : State), s.coll.back = (node, path, m) :: rest ∧ w = { s with coll := { s.coll with back := rest } } ∧ (List.find? (fun i => i.launched && i.endedAs.isNone && i.same m) s.coll.insts = some i) ∧ (List.find? (fun n => n.2 == node) i.nbrs = some (dir, node)) ∧ (path = false ∨ i.resent.contains dir = true)) ∧
    (∃ (s : State) (node : Nat) (m : Msg) (rest : List (Nat × Bool × Msg)) (i : Coll) (dir : Nat) (w : State), s.coll.back = (node, true, m) :: rest ∧ (w = { s with coll := { s.coll with back := List.filter (fun b => !(b.1 == node && i.same b.2.2)) rest } }) ∧ (List.find? (fun i => i.launched && i.endedAs.isNone && i.same m) s.coll.insts = some i) ∧ (List.find? (fun n => n.2 == node) i.nbrs = some (dir, node)) ∧ i.resent.contains dir = false ∧ s.txConn node = none) ∧
    (∃ (s : State), s.coll.back = []) ∧
    (∃ (s : State) (i : Coll) (reason core slot : Nat) (t : Task), s.collTask i = some (core, slot, t) ∧ s.task? core slot = some t ∧ reason < 2 ^ 8 ∧ i.ctx < 64) :=
  ⟨⟨ab, inst, 0, (pickO ((ab).takeMsg ptColl) (by decide +kernel)).1, (pickO ((ab).takeMsg ptColl) (by decide +kernel)).2, by unfold collIn; decide +kernel, by decide +kernel, by decide +kernel, by unfold collOf; decide +kernel⟩,
   ⟨ab2, 0, (pickO ((ab2).takeMsg ptColl) (by decide +kernel)).1, (pickO ((ab2).takeMsg ptColl) (by decide +kernel)).2, by unfold collIn; decide +kernel, by decide +kernel⟩,
   ⟨0, (BitVec.ofNat 32 inst.num), late, inst, by decide +kernel⟩,
   ⟨0, (BitVec.ofNat 32 inst.num), clRun inst, inst, by decide +kernel⟩,
   ⟨bk false (run1 inst), nd, false, ⟨some (true, 0), ptColl, 2, 7, collBlock inst.num 0 0 0, [1]⟩, [], run1 inst, 0, _, by decide +kernel, rfl, by decide +kernel⟩,
   ⟨bk true (run1 inst), nd, ⟨some (true, 0), ptColl, 2, 7, collBlock inst.num 0 0 0, [1]⟩, [], run1 inst, 0, _, by decide +kernel, rfl, by decide +kernel⟩,
   ⟨clState, by decide +kernel⟩,
   ⟨clRun inst, inst, 5, 0, 0, (pickO ((clRun inst).collTask (inst)) (by decide +kernel)).2.2, by decide +kernel⟩⟩
end

section
open Contexts
theorem witness_ContextCommands :
    (∃ (req : Requester) (c : CtxId) (s : State), CtxTakes s req c 1 false ∧ s.ctxState c.val = ctxIdle ∧ s.loadOk c.val = true ∧ s.riseHeld c.val = false) ∧
    (∃ (req : Requester) (c : CtxId) (s : State), CtxTakes s req c 1 false ∧ s.ctxState c.val = ctxIdle ∧ s.loadOk c.val = false) ∧
    (∃ (req : Requester) (c : CtxId) (s : State), CtxTakes s req c 2 false ∧ s.ctxState c.val = ctxLoading ∧ s.lvrIdle c.val = true) ∧
    (∃ (req : Requester) (c : CtxId) (s : State), CtxTakes s req c 2 false ∧ s.ctxState c.val = ctxLoading ∧ s.lvrIdle c.val = false) ∧
    (∃ (req : Requester) (c : CtxId) (s : State), CtxTakes s req c 3 false ∧ s.ctxState c.val = ctxReady ∧ (s.ctx c.val).startAt = none ∧ s.get64 (Reg.ctxStartTick c.val) = 0) ∧
    (∃ (req : Requester) (c : CtxId) (s : State), CtxTakes s req c 3 false ∧ s.ctxState c.val = ctxReady ∧ (s.ctx c.val).startAt = none ∧ s.tick + 2048 ≤ s.get64 (Reg.ctxStartTick c.val)) ∧
    (∃ (req : Requester) (c : CtxId) (s : State), CtxTakes s req c 3 false ∧ s.ctxState c.val = ctxReady ∧ (s.ctx c.val).startAt = none ∧ s.get64 (Reg.ctxStartTick c.val) ≠ 0 ∧ s.get64 (Reg.ctxStartTick c.val) < s.tick + 2048) ∧
    (∃ (req : Requester) (c : CtxId) (s : State), CtxTakes s req c 3 false ∧ s.ctxState c.val = ctxReady ∧ (s.ctx c.val).startAt ≠ none) ∧
    (∃ (req : Requester) (c : CtxId) (retain : Bool) (s : State), CtxTakes s req c 4 retain ∧ s.ctxState c.val = ctxRunning) ∧
    (∃ (req : Requester) (c : CtxId) (retain : Bool) (s : State), CtxTakes s req c 5 retain ∧ s.ctxState c.val ≠ ctxIdle ∧ s.riseHeld c.val = false) ∧
    (∃ (req : Requester) (c : CtxId) (retain : Bool) (s : State) (cmd : Nat) (i : Instr) (from_ : Nat), (cmd, i) ∈ ctxCommands req c retain ∧ CtxTakes s req c cmd (retain && decide (4 ≤ cmd)) ∧ from_ = [ctxIdle, ctxLoading, ctxReady, ctxRunning].getD (cmd - 1) ctxIdle ∧ (if cmd = 5 then s.ctxState c.val = ctxIdle else s.ctxState c.val ≠ from_)) ∧
    (∃ (req : Requester) (c : CtxId) (retain : Bool) (s : State) (cmd : Nat) (i : Instr), (cmd, i) ∈ ctxCommands req c retain ∧ s.accepts req (Reg.ctxCmd c.val) (cmd + (retain && decide (4 ≤ cmd)).toNat * 2 ^ 8) = true ∧ (s.flag Fld.svcStatusDruterDown = true ∨ s.riseWaits c.val = true ∨ s.tearing c.val = true ∨ s.flag (Fld.ctxStatusBusy c.val) = true ∧ cmd ≠ 5)) ∧
    (∃ (c : CtxId) (s : State) (t : Nat), (s.ctx c.val).startAt = some t ∧ s.ctxState c.val = ctxReady ∧ s.riseWaits c.val = false ∧ t ≤ s.tick) ∧
    (∃ (c : CtxId) (s : State) (t : Nat), (s.ctx c.val).startAt = some t ∧ s.tick < t) ∧
    (∃ (c : CtxId) (s : State), s.drainDone c.val = true) ∧
    (∃ (c : CtxId) (s : State), s.drainDone c.val = false) :=
  ⟨⟨.svc, 1, ldS, by constructor <;> decide +kernel, by decide +kernel⟩,
   ⟨.svc, 1, ldS.put64 (Reg.ctxImage 1) 0x3001, by constructor <;> decide +kernel, by decide +kernel⟩,
   ⟨.svc, 1, puts ldS [(Fld.ctxStatusState 1, 1)], by constructor <;> decide +kernel, by decide +kernel⟩,
   ⟨.svc, 1, puts ldS [(Fld.ctxStatusState 1, 1), (Fld.lvrDescTailTail 1, 1)], by constructor <;> decide +kernel, by decide +kernel⟩,
   ⟨.svc, 1, rdy, by constructor <;> decide +kernel, by decide +kernel⟩,
   ⟨.svc, 1, rdy.put64 (Reg.ctxStartTick 1) 2148, by constructor <;> decide +kernel, by decide +kernel⟩,
   ⟨.svc, 1, rdy.put64 (Reg.ctxStartTick 1) 2147, by constructor <;> decide +kernel, by decide +kernel⟩,
   ⟨.svc, 1, rdy.setCtx 1 { Context.empty with startAt := some 5 }, by constructor <;> decide +kernel, by decide +kernel⟩,
   ⟨.svc, 0, true, tOn, by constructor <;> decide +kernel, by decide +kernel⟩,
   ⟨.svc, 0, true, tOn, by constructor <;> decide +kernel, by decide +kernel⟩,
   ⟨.svc, 0, true, tOn, 1, .ctxLoad .svc 0, 0, by decide +kernel, by constructor <;> decide +kernel, by decide +kernel⟩,
   ⟨.svc, 1, true, puts ldS [(Fld.svcStatusDruterDown, 1)], 5, .ctxKill .svc 1 true, by decide +kernel⟩,
   ⟨0, { (puts tOn [(Fld.ctxStatusState 0, 2)]).setCtx 0 { tCtx with startAt := some 90, tasks := [decl], units := [tUnit] } with tick := 90 }, 90, by decide +kernel⟩,
   ⟨0, { (puts tOn [(Fld.ctxStatusState 0, 2)]).setCtx 0 { tCtx with startAt := some 91 } with tick := 90 }, 91, by decide +kernel⟩,
   ⟨1, puts ldS [(Fld.ctxStatusState 1, 4)], by decide +kernel⟩,
   ⟨0, puts tOn [(Fld.ctxStatusState 0, 4)], by decide +kernel⟩⟩
end

section
open Contexts
theorem witness_BindingTeardownAndPartitions :
    (∃ (c : CtxId) (img : Reply) (s x : State) (i : Reply) (r : Nat), Binds s c ∧ s.readImage c.val img = (x, i) ∧ bindResult i x.ownCoords x.torus = r + 1) ∧
    (∃ (r : Nat), r < 16) ∧
    (∃ (s : State) (c : CtxId) (g : Nat), g = s.get64 (Reg.ctxImage c.val) ∧ g / 2 ^ 44 ≠ s.ownNode ∧ (s.closeFor c.val (g / 2 ^ 44)).hasPath (g / 2 ^ 44) = false) ∧
    (∃ (s : State) (c : CtxId) (img : Reply) (b : List Byte) (g : Nat), g = s.get64 (Reg.ctxImage c.val) ∧ g / 2 ^ 44 ≠ s.ownNode ∧ img = Reply.ok b ∧ (s.closeFor c.val (g / 2 ^ 44)).hasPath (g / 2 ^ 44) = true ∧ (s.closeFor c.val (g / 2 ^ 44)).ownNode = s.ownNode) ∧
    (∃ (c : CtxId) (img : Reply) (plan : BindPlan) (s x : State) (b : List Byte) (us : List ImgUnit) (here : List Nat) (w : State), Binds s c ∧ s.readImage c.val img = (x, Reply.ok b) ∧ bindResult (Reply.ok b) x.ownCoords x.torus = 0 ∧ imgUnits b = some us ∧ here = leavesHere b us x.ownCoords x.torus ∧ plan.fits = true ∧ imgT2Slice b ≤ x.get (Fld.shtT2SizeTiles (x.partOf c.val)) ∧ x.sharesBad c.val (imgShares b) = false ∧ x.dupBad c.val (bindMembers b here plan) = false ∧ x.planOk c.val b us here plan = true ∧ w = { x.setCtx c.val (x.bindCtx c.val b us here plan) with oldHandles := x.oldHandles.put c.val (x.oldHandles.getD c.val [] ++ plan.handles) }) ∧
    (∃ (c : CtxId) (s : State), s.ctxState c.val ≠ ctxLoading) ∧
    (∃ (s : State) (c : Nat) (t : Tear), (s.ctx c).tear = some t ∧ t.endIn = 0) ∧
    (∃ (u : Member) (k : Nat), u.t0Bytes % 64 = 0 ∧ u.t0Bytes ≤ 2 ^ 26 ∧ u.base0 = 0 ∧ k < u.t0Bytes) ∧
    (∃ (req : Requester) (p : PartId) (v : BitVec 32) (s : State), Sizes s req p v ∧ s.slicesBad p.val (v.toNat % 2 ^ 25) = false) ∧
    (∃ (req : Requester) (p : PartId) (v : BitVec 32) (s : State), Sizes s req p v ∧ s.slicesBad p.val (v.toNat % 2 ^ 25) = true) ∧
    (∃ (req : Requester) (p : PartId) (v : BitVec 32) (s : State), s.accepts req (Reg.shtT2Size p.val) v.toNat = true ∧ s.partBusy p.val = true) ∧
    (∃ (req : Requester) (p : PartId) (v : BitVec 32) (s : State), s.accepts req (Reg.shtT2Size p.val) v.toNat = true ∧ s.partBusy p.val = false ∧ s.partActive p.val = true) ∧
    (∃ (req : Requester) (p : PartId) (s : State), s.accepts req (Reg.shtCtrl p.val) 1 = true ∧ s.flag (Fld.shtStatusResetting p.val) = true) ∧
    (∃ (req : Requester) (p : PartId) (s : State), s.accepts req (Reg.shtCtrl p.val) 1 = true ∧ s.flag (Fld.shtStatusResetting p.val) = false) ∧
    (∃ (p : PartId) (s : State), s.ctxsOf p.val = [] ∧ s.flag (Fld.shtStatusResetting p.val) = true ∧ s.resets.contains p.val = false ∧ s.get (Fld.shtT2SizeTiles p.val) ≠ 0) ∧
    (∃ (p : PartId) (s : State), s.flag (Fld.shtStatusZeroing p.val) = true ∧ s.flag (Fld.shtStatusResetting p.val) = false) ∧
    (∃ (p : PartId) (s : State), s.flag (Fld.shtStatusZeroing p.val) = true ∧ s.flag (Fld.shtStatusResetting p.val) = true) ∧
    (∃ (p : PartId) (s : State), s.flag (Fld.shtStatusZeroing p.val) = false) ∧
    (∃ (s : State) (p : PartId) (h k : Nat), h < 16 ∧ stackKey (s.slotChan h) (4096 * s.sliceBase p.val h) ≤ k ∧ k < stackKey (s.slotChan h) (4096 * s.sliceBase p.val h) + 4096 * s.get (Fld.shtT2SizeTiles p.val)) :=
  ⟨⟨1, .status 3, bsy, (bsy.readImage 1 (.status 3)).1, (bsy.readImage 1 (.status 3)).2, 3, by constructor <;> decide +kernel, by decide +kernel⟩,
   ⟨15, by decide +kernel⟩,
   ⟨bsy0.put64 (Reg.ctxImage 1) (2^44*3), 1, _, rfl, by decide +kernel⟩,
   ⟨bsy, 1, .ok [], [], _, rfl, by decide +kernel⟩,
   by refine ⟨1, .ok img1, pl1, bs2, (bs2.readImage 1 (.ok img1)).1, img1, us1, [0], _, by constructor <;> decide +kernel, ?_, ?_, ?_, ?_, ?_, ?_, ?_, ?_, ?_, rfl⟩ <;> decide +kernel,
   ⟨0, tOn, by decide +kernel⟩,
   ⟨tOn.setCtx 0 { tCtx with tear := some ⟨false, some 0, 0⟩ }, 0, ⟨false, some 0, 0⟩, by decide +kernel⟩,
   ⟨⟨0, 0, 0, 0, 0x10000, 0x10000, [], 0⟩, 101, by decide +kernel⟩,
   ⟨.svc, 2, 64, pt [], ⟨by decide +kernel, ⟨by decide +kernel, by decide +kernel⟩⟩, by decide +kernel⟩,
   ⟨.svc, 2, 25165825, pt [], ⟨by decide +kernel, ⟨by decide +kernel, by decide +kernel⟩⟩, by decide +kernel⟩,
   ⟨.svc, 2, 64, pt [(Fld.shtStatusZeroing 2, 1)], by decide +kernel⟩,
   ⟨.svc, 3, 64, pt [(Fld.ctxCfgValid 0, 1)], by decide +kernel⟩,
   ⟨.svc, 3, pt [(Fld.shtStatusResetting 3, 1)], by decide +kernel⟩,
   ⟨.svc, 3, pt [], by decide +kernel⟩,
   ⟨2, pt [(Fld.shtStatusResetting 2, 1), (Fld.shtT2SizeTiles 2, 4)], by decide +kernel⟩,
   ⟨2, pt [(Fld.shtStatusZeroing 2, 1), (Fld.shtT2SizeTiles 2, 4)], by decide +kernel⟩,
   ⟨2, pt [(Fld.shtStatusZeroing 2, 1), (Fld.shtStatusResetting 2, 1), (Fld.shtT2SizeTiles 2, 4)], by decide +kernel⟩,
   ⟨2, pt [], by decide +kernel⟩,
   ⟨pt [(Fld.shtT2SizeTiles 2, 4)], 2, 0, stackKey ((pt [(Fld.shtT2SizeTiles 2, 4)]).slotChan 0) 0 + 100, by decide +kernel⟩⟩
end

section
open Bringing
theorem witness_StoreAndBringUp :
    (∃ (s : State) (w : SMap (List Byte)) (rest : List (SMap (List Byte))) (slot : Nat), s.svc.writes = w :: rest ∧ StoreTakes s slot) ∧
    (∃ (s : State) (w : SMap (List Byte)) (rest : List (SMap (List Byte))) (slot : Nat), s.svc.writes = w :: rest ∧ StoreTakes s slot) ∧
    (∃ (s : State) (slot : Nat), StoreTakes s slot ∧ (s.newest = none ∨ ∃ k r, s.newest = some (k, r) ∧ k < 512)) ∧
    (∃ (s : State), s.rises = []) ∧
    (∃ (s : State), s.rises ≠ [] ∧ s.bootStored = 65535) ∧
    (∃ (s w : State), s.rises ≠ [] ∧ s.bootStored ≠ 65535 ∧ s.storeCommit [(secBoot, leBytes 2 (s.bootStored + 1))] = (w, true)) ∧
    (∃ (s : State), s.bootHold = false) ∧
    (∃ (s : State), s.bootHold = true ∧ (∀ p ∈ allPorts, s.flag (Fld.lnkCtrlEn p) = false)) ∧
    (∃ (s : State) (p : Nat), s.bootHold = true ∧ (List.filter (fun p => s.flag (Fld.lnkCtrlEn p)) allPorts = [p])) ∧
    (∃ (s w : State) (wrapped : Bool), s.svc.power = 2 ∧ s.svc.testEn = false ∧ s.get Fld.svcStatusPhase ≠ phaseReady ∧ s.get Fld.svcStatusPhase ≠ phaseFailed ∧ s.raiseBoot = (w, false, wrapped)) ∧
    (∃ (plan : BringPlan) (s w : State) (wrapped : Bool) (t : State) (joined : List Nat) (v : State), s.svc.power = 2 ∧ s.svc.testEn = false ∧ s.get Fld.svcStatusPhase ≠ phaseReady ∧ s.get Fld.svcStatusPhase ≠ phaseFailed ∧ s.raiseBoot = (w, true, wrapped) ∧ (s.stopBoot == some s.bootStored) = false ∧ { w with bootHold := wrapped }.loadKeys.bringPanes s.isWarm plan = (t, joined) ∧ t.elect joined = some v) ∧
    (∃ (plan : BringPlan) (s w : State) (wrapped : Bool) (t : State) (joined : List Nat), s.svc.power = 2 ∧ s.svc.testEn = false ∧ s.get Fld.svcStatusPhase ≠ phaseReady ∧ s.get Fld.svcStatusPhase ≠ phaseFailed ∧ s.raiseBoot = (w, true, wrapped) ∧ (s.stopBoot == some s.bootStored) = false ∧ { w with bootHold := wrapped }.loadKeys.bringPanes s.isWarm plan = (t, joined) ∧ t.elect joined = none) ∧
    (∃ (s : State), s.get Fld.svcStatusPhase = phaseReady) :=
  ⟨⟨{ tOn with svc.writes := [[(3, [1])], []] }, [(3, [1])], [[]], 0, by decide +kernel, ⟨by decide +kernel, storeRoom _ (by decide +kernel)⟩⟩,
   ⟨st1 300 7 5 [[(3, [1])], []], [(3, [1])], [[]], 0, by decide +kernel, ⟨by decide +kernel, storeRoom _ (by decide +kernel)⟩⟩,
   ⟨st1 300 7 5 [], 0, ⟨by decide +kernel, storeRoom _ (by decide +kernel)⟩, Or.inr ⟨_, _, pickO_eq _ (by decide +kernel), by decide +kernel⟩⟩,
   ⟨tOn, by decide +kernel⟩,
   ⟨{ st1 3 7 0xFFFF [] with rises := [.load 1] }, by decide +kernel⟩,
   ⟨{ st1 3 7 5 [] with rises := [.load 1] }, (({ st1 3 7 5 [] with rises := [.load 1] }).storeCommit [(secBoot, leBytes 2 (({ st1 3 7 5 [] with rises := [.load 1] }).bootStored + 1))]).1, by decide +kernel⟩,
   ⟨tOn, by decide +kernel⟩,
   ⟨{ tOn with bootHold := true }, by decide +kernel⟩,
   ⟨{ puts tOn [(Fld.lnkCtrlEn 3, 1)] with bootHold := true }, 3, by decide +kernel⟩,
   ⟨bmx, bmx.raiseBoot.1, false, by decide +kernel⟩,
   by refine ⟨bpl allPanes, bm, bm.raiseBoot.1, false, (brP (bpl allPanes)).1, (brP (bpl allPanes)).2, pickO ((brP (bpl allPanes)).1.elect (brP (bpl allPanes)).2) (by decide +kernel), ?_, ?_, ?_, ?_, ?_, ?_, rfl, pickO_eq _ _⟩ <;> decide +kernel,
   by refine ⟨bpl [], bm, bm.raiseBoot.1, false, (brP (bpl [])).1, (brP (bpl [])).2, ?_, ?_, ?_, ?_, ?_, ?_, rfl, ?_⟩ <;> decide +kernel,
   ⟨puts bm [(Fld.svcStatusPhase, 6)], by decide +kernel⟩⟩
end

section
open Events
theorem witness_EventsRoutedAndFiled :
    (∃ (src : BitVec 16) (s : State) (e : Event), (List.find? (fun x => x.src == src.toNat) s.raised = some e) ∧ s.intakeOut src.toNat = false ∧ s.lost.get? src.toNat = none) ∧
    (∃ (src : BitVec 16) (s : State) (e : Event) (n t : Nat), (List.find? (fun x => x.src == src.toNat) s.raised = some e) ∧ s.intakeOut src.toNat = false ∧ s.lost.get? src.toNat = some (n, t)) ∧
    (∃ (src : BitVec 16) (s : State), (List.find? (fun x => x.src == src.toNat) s.raised = none ∨ s.intakeOut src.toNat = true)) ∧
    (∃ (s : State) (e : Event), e.part < 32 ∧ s.flag (Fld.evcPartQEn e.part) = true) ∧
    (∃ (s : State) (e : Event) (n : Nat), (32 ≤ e.part ∨ s.flag (Fld.evcPartQEn e.part) = false) ∧ n = field (s.rd (Reg.evcSrc (e.src / 8))) (4 * (e.src % 8)) 4) ∧
    (∃ (s : State) (q : QueueId), s.gdis = false ∧ s.flag (Fld.evcQCtrlEn ↑q) = false) ∧
    (∃ (s : State), s.gdis = true ∧ 4096 ≤ s.evcHeld) ∧
    (∃ (s : State) (q : QueueId), QueueTakes s ↑q) :=
  ⟨⟨21, { q0 with raised := [{ e1 with src := 20 }, e1, e1] }, e1, by decide +kernel⟩,
   ⟨21, { q0 with raised := [e1], lost := [(21, (3, 5))] }, e1, 3, 5, by decide +kernel⟩,
   ⟨21, q0, by decide +kernel⟩,
   ⟨q0, e1, by decide +kernel⟩,
   ⟨q0, { e1 with part := 255 }, _, by decide +kernel, rfl⟩,
   ⟨q0, 3, by decide +kernel⟩,
   ⟨{ q0 [(Fld.evcCtrlGdis, 1)] with evc.qs := [(2, { EvcQ.empty with held := List.replicate 4096 e1 })] }, by decide +kernel⟩,
   ⟨q0, 2, ⟨⟨by decide +kernel, ⟨by decide +kernel, by decide +kernel⟩⟩, ⟨by decide +kernel, ⟨by decide +kernel, by decide +kernel⟩⟩, by decide +kernel, ⟨by decide +kernel, by decide +kernel⟩, by decide +kernel⟩⟩⟩
end

section
open Events
theorem witness_EventQueuesAndAlarms :
    (∃ (req : Requester) (v : BitVec 32) (s : State), s.accepts req Reg.evcCtrl v.toNat = true ∧ v.toNat % 2 = 1) ∧
    (∃ (req : Requester) (v : BitVec 32) (s : State), s.accepts req Reg.evcCtrl v.toNat = true ∧ v.toNat % 2 = 0) ∧
    (∃ (req : Requester) (q : QueueId) (v : BitVec 32) (s w : State), s.accepts req (Reg.evcQCtrl ↑q) (enableWord v) = true ∧ s.flag (Fld.evcQCtrlEn ↑q) = false ∧ s.ringFits (↑q) (bitAt (enableWord v) 30) (field (enableWord v) 16 4) = true ∧ w = ((((((s.put (Fld.evcQCtrlSevNow ↑q) (field (enableWord v) 24 4)).put (Fld.evcQCtrlKind ↑q) (bitAt (enableWord v) 30).toNat).put (Fld.evcQCtrlSizeLog2 ↑q) (field (enableWord v) 16 4)).put (Fld.evcQHeadIndex ↑q) 0).put (Fld.evcQTailIndex ↑q) 0).put (Fld.evcQStatFault ↑q) 0).put (Fld.evcQCtrlEn ↑q) 1) ∧
    (∃ (req : Requester) (q : QueueId) (v : BitVec 32) (s : State), s.accepts req (Reg.evcQCtrl ↑q) (enableWord v) = true ∧ s.flag (Fld.evcQCtrlEn ↑q) = false ∧ s.ringFits (↑q) (bitAt (enableWord v) 30) (field (enableWord v) 16 4) = false) ∧
    (∃ (req : Requester) (q : QueueId) (v : BitVec 32) (s : State), s.accepts req (Reg.evcQHead ↑q) v.toNat = true ∧ v.toNat < 2 ^ 16 ∧ s.evqCount ↑q < (s.get (Fld.evcQTailIndex ↑q) + 65536 - v.toNat) % 65536) ∧
    (∃ (req : Requester) (q : QueueId) (v : BitVec 32) (s : State) (n : Nat), s.accepts req (Reg.evcQHead ↑q) v.toNat = true ∧ v.toNat < 2 ^ 16 ∧ (s.get (Fld.evcQTailIndex ↑q) + 65536 - v.toNat) % 65536 ≤ s.evqCount ↑q ∧ n = (v.toNat + 65536 - s.get (Fld.evcQHeadIndex ↑q)) % 65536) ∧
    (∃ (req : Requester) (q : QueueId) (s : State), s.accepts req (Reg.evcQDone ↑q) 1 = true ∧ s.flag (Fld.evcQStatSignalled ↑q) = false) ∧
    (∃ (req : Requester) (q : QueueId) (s w : State), s.accepts req (Reg.evcQDone ↑q) 1 = true ∧ s.flag (Fld.evcQStatSignalled ↑q) = true ∧ w = (s.put (Fld.evcQStatSignalled ↑q) 0).resample ↑q) ∧
    (∃ (q : QueueId) (s : State), (s.evq ↑q).timer = some 0 ∧ s.gdis = false) ∧
    (∃ (q : QueueId) (s : State), ((s.evq ↑q).timer ≠ some 0 ∨ s.gdis = true)) ∧
    (∃ (q : QueueId) (s : State), (s.evq ↑q).ack = some 0 ∧ s.flag (Fld.evcQStatSignalled ↑q) = true ∧ s.gdis = false) ∧
    (∃ (q : QueueId) (s : State), ((s.evq ↑q).ack ≠ some 0 ∨ s.flag (Fld.evcQStatSignalled ↑q) = false ∨ s.gdis = true)) ∧
    (∃ (a : Fin 8) (raw : Bool) (n : Fin 65536) (s : State), n ≠ 0 ∧ (raw != s.flag (Fld.evcAlmCfgPol a.val)) = s.flag (Fld.evcAlmStatTaken a.val)) ∧
    (∃ (a : Fin 8) (raw : Bool) (n : Fin 65536) (s : State), n ≠ 0 ∧ (raw != s.flag (Fld.evcAlmCfgPol a.val)) ≠ s.flag (Fld.evcAlmStatTaken a.val) ∧ s.evc.alarms.getD a.val 0 + n.val < max 1 (s.get (Fld.evcAlmCfgFilter a.val))) ∧
    (∃ (a : Fin 8) (raw : Bool) (n : Fin 65536) (s : State), n ≠ 0 ∧ (raw != s.flag (Fld.evcAlmCfgPol a.val)) ≠ s.flag (Fld.evcAlmStatTaken a.val) ∧ max 1 (s.get (Fld.evcAlmCfgFilter a.val)) ≤ s.evc.alarms.getD a.val 0 + n.val) ∧
    (∃ (s : State) (q : QueueId) (t us : Nat), s.nextTarget (↑q) (s.get (Fld.evcQTgtLast ↑q)) = some t ∧ t ≤ 3 ∧ us = s.get (Fld.evcQAckValue ↑q)) ∧
    (∃ (s : State) (q : QueueId), s.nextTarget (↑q) (s.get (Fld.evcQTgtLast ↑q)) = none) ∧
    (∃ (s : State) (q : QueueId), s.get (Fld.evcQTgtEn ↑q) = 0) :=
  ⟨⟨.svc, 1, q0, by decide +kernel⟩,
   ⟨.svc, 0, { q0 [(Fld.evcCtrlGdis, 1)] with evc.qs := [(2, { EvcQ.empty with held := List.replicate 3 e1 }), (4, { EvcQ.empty with held := List.replicate 3 e1 })] }, by decide +kernel⟩,
   ⟨.svc, 2, 0x80040000, puts q0 [(Fld.evcQCtrlEn 2, 0), (Fld.evcQTailIndex 2, 9)], _, by decide +kernel, by decide +kernel, by decide +kernel, rfl⟩,
   ⟨.svc, 2, 0x80040000, (puts q0 [(Fld.evcQCtrlEn 2, 0), (Fld.evcQTailIndex 2, 9)]).put64 (Reg.evcQBase 2) 0x1004, by decide +kernel⟩,
   ⟨.svc, 2, 4, qr 5 9, by decide +kernel⟩,
   ⟨.svc, 2, 9, qr 5 9, _, by decide +kernel, by decide +kernel, by decide +kernel, rfl⟩,
   ⟨.svc, 2, qr 5 9, by decide +kernel⟩,
   ⟨.svc, 2, qr 5 9 [(Fld.evcQStatSignalled 2, 1), (Fld.evcQTgtEn 2, 3)], _, by decide +kernel, by decide +kernel, rfl⟩,
   ⟨2, tm (some 0) none [(Fld.evcQTgtEn 2, 3)], by decide +kernel⟩,
   ⟨2, tm (some 1) none, by decide +kernel⟩,
   ⟨2, tm none (some 0) [(Fld.evcQTgtEn 2, 3), (Fld.evcQStatSignalled 2, 1)], by decide +kernel⟩,
   ⟨2, tm none (some 0) [(Fld.evcQTgtEn 2, 3)], by decide +kernel⟩,
   ⟨3, false, 5, al [(Fld.evcAlmCfgPol 3, 0)] 4, by decide +kernel⟩,
   ⟨3, true, 5, al [(Fld.evcAlmCfgFilter 3, 10)] 4, by decide +kernel⟩,
   ⟨3, true, 6, al [(Fld.evcAlmCfgFilter 3, 10)] 4, by decide +kernel⟩,
   ⟨(q0 [(Fld.evcQTgtEn 2, 0xFF), (Fld.svcStatusSupValid, 15)]).wr Reg.svcSup 0, 2, _, _, pickO_eq _ (by decide +kernel), by decide +kernel, rfl⟩,
   ⟨q0, 2, by decide +kernel⟩,
   ⟨qr 5 9, 2, by decide +kernel⟩⟩
end

section
open Power
theorem witness_RegionsSwitch :
    (∃ (req : Requester) (r : RegionId) (s : State), s.accepts req (Reg.pwrRCtrl r.val) 1 = true ∧ RampsNow s r.val) ∧
    (∃ (req : Requester) (r : RegionId) (s : State), s.accepts req (Reg.pwrRCtrl r.val) 1 = true ∧ s.regState r.val = regOff ∧ (¬RampsNow s r.val)) ∧
    (∃ (req : Requester) (r : RegionId) (s : State), s.accepts req (Reg.pwrRCtrl r.val) 1 = true ∧ s.regState r.val = regShutting) ∧
    (∃ (req : Requester) (r : RegionId) (s : State), s.accepts req (Reg.pwrRCtrl r.val) 1 = true ∧ (s.regState r.val = regOn ∨ s.regState r.val = regRamping)) ∧
    (∃ (req : Requester) (r : RegionId) (s : State), s.accepts req (Reg.pwrRCtrl r.val) 1 = true ∧ s.regState r.val = regSagged) ∧
    (∃ (req : Requester) (r : RegionId) (s w : State), s.accepts req (Reg.pwrRCtrl r.val) 0 = true ∧ (s.regState r.val = regOn ∨ s.regState r.val = regRamping) ∧ w = (((s.put (Fld.pwrRCtrlEn r.val) 0).put (Fld.pwrRStatPendingOn r.val) 0).regEnter r.val regShutting).rampNext) ∧
    (∃ (req : Requester) (r : RegionId) (s w : State), s.accepts req (Reg.pwrRCtrl r.val) 0 = true ∧ (s.regState r.val = regOff ∨ s.regState r.val = regShutting) ∧ w = (s.put (Fld.pwrRCtrlEn r.val) 0).put (Fld.pwrRStatPendingOn r.val) 0) ∧
    (∃ (req : Requester) (r : RegionId) (s : State), s.accepts req (Reg.pwrRCtrl r.val) 0 = true ∧ s.regState r.val = regSagged) ∧
    (∃ (r : RegionId) (s : State), s.regState r.val = regRamping) ∧
    (∃ (r : RegionId) (s : State), s.regState r.val ≠ regRamping) ∧
    (∃ (r : RegionId) (s : State), s.regState r.val = regShutting) ∧
    (∃ (r : RegionId) (s : State), s.regState r.val ≠ regShutting) ∧
    (∃ (st : Nat), st < 8) ∧
    (∃ (s : State) (r : RegionId), s.powered r.val = false ∧ s.flag Fld.timStatusDivArmed = true ∧ s.get Fld.timCtrlDivNext = 0) ∧
    (∃ (s : State) (r : RegionId), s.powered r.val = false ∧ (s.flag Fld.timStatusDivArmed = false ∨ s.get Fld.timCtrlDivNext ≠ 0)) ∧
    (∃ (s : State), (∀ r ∈ allRegions, s.flag (Fld.pwrRStatPendingOn r) = false)) ∧
    (∃ (r : RegionId) (s : State), (s.regState r.val = regOn ∨ s.regState r.val = regRamping)) ∧
    (∃ (r : RegionId) (s : State), s.regState r.val ≠ regOn ∧ s.regState r.val ≠ regRamping) :=
  ⟨⟨.svc, 0, rgS regOff, by decide +kernel, ⟨by decide +kernel, by decide +kernel, by decide +kernel⟩⟩,
   ⟨.svc, 0, { rgS regOff with pwr.offWait := [0] }, by decide +kernel, by decide +kernel, fun h => absurd h.waited (by decide +kernel)⟩,
   ⟨.svc, 0, rgS regShutting, by decide +kernel⟩,
   ⟨.svc, 0, rgS regOn, by decide +kernel⟩,
   ⟨.svc, 0, rgS regSagged, by decide +kernel⟩,
   ⟨.svc, 5, puts (stops [0] tOn) [(Fld.pwrRStatState 5, regOn)], _, by decide +kernel, by decide +kernel, rfl⟩,
   ⟨.svc, 0, rgS regOff [(Fld.pwrRStatPendingOn 0, 1)], _, by decide +kernel, by decide +kernel, rfl⟩,
   ⟨.svc, 0, rgS regSagged, by decide +kernel⟩,
   ⟨0, rgS regRamping, by decide +kernel⟩,
   ⟨0, rgS regOn, by decide +kernel⟩,
   ⟨0, rgS regShutting, by decide +kernel⟩,
   ⟨0, rgS regOn, by decide +kernel⟩,
   ⟨7, by decide +kernel⟩,
   ⟨puts (rgS regOff) [(Fld.timStatusDivArmed, 1)], 0, by decide +kernel⟩,
   ⟨rgS regOff, 0, by decide +kernel⟩,
   ⟨rgS regOff, by decide +kernel⟩,
   ⟨0, rgS regOn, by decide +kernel⟩,
   ⟨0, rgS regOff, by decide +kernel⟩⟩
end

section
open Power
theorem witness_PowerFaultsAndSupplies :
    (∃ (r : RegionId) (s : State) (t : Nat), s.pwr.floorAt.get? r.val = some t ∧ s.regState r.val = regOn ∧ t + 2500 ≤ s.tick) ∧
    (∃ (r : RegionId) (s : State), (s.pwr.floorAt.get? r.val = none ∨ s.regState r.val ≠ regOn)) ∧
    (∃ (r : RegionId) (s : State) (t : Nat), s.pwr.floorAt.get? r.val = some t ∧ s.tick < t + 2500) ∧
    (∃ (r : RegionId) (step : Option (BitVec 16)) (s w : State), s.regState r.val = regOn ∧ (w = ((s.put (Fld.pwrRStatCapped r.val) 1).bump Fld.pwrCfaultsCount).raiseMod (srcRegion r.val) 3073 4 (r.val + (if step = none then 1 else 2) * 2 ^ 8 + s.get (Fld.pwrRRconEstimate r.val) * 2 ^ 16 + s.get (Fld.pwrRRconBaseline r.val) * 2 ^ 32) (step.elim 0 fun x => x.toNat))) ∧
    (∃ (r : RegionId) (s : State), s.regState r.val ≠ regOn) ∧
    (∃ (temp : BitVec 16) (s : State), 1680 ≤ tempOf temp.toNat ∧ s.svc.power = 2) ∧
    (∃ (temp : BitVec 16), tempOf temp.toNat < 1680) ∧
    (∃ (x : InputSample) (s : State), s.svc.power ≠ 0 ∧ x.volts.toNat < 3400) ∧
    (∃ (x : InputSample) (s w : State), s.svc.power ≠ 0 ∧ 3400 ≤ x.volts.toNat ∧ x.low = false ∧ x.well = false ∧ x.sunk = false ∧ x.beyond = false ∧ w = (s.busRegs x).inputCap x ∧ w.flag Fld.pwrStatusInputCap = false ∧ w.flag Fld.pwrStatusCoolCap = false) ∧
    (∃ (x : InputSample) (s w : State), s.svc.power ≠ 0 ∧ 3400 ≤ x.volts.toNat ∧ x.low = true ∧ (x.sunk = true ∨ x.beyond = true) ∧ w = (s.busRegs x).inputCap x ∧ w.flag Fld.pwrStatusInputLow = false ∧ w.flag Fld.pwrStatusInputCap = false ∧ w.flag Fld.pwrStatusCoolCap = false) ∧
    (∃ (x : InputSample) (s : State), x.uneven = false ∧ s.pwr.pairs = false ∧ (1400 < x.amps.toNat ∨ 56000 < x.watts.toNat)) ∧
    (∃ (s : State), s.svc.power = 0) ∧
    (∃ (s : State), s.svc.power ≠ 2) ∧
    (∃ (x : CoolantSample) (s w : State), s.svc.power = 2 ∧ (w = List.foldl (fun w k => w.coolJudge k (coolHolds x k) 1000) (s.coolRegs x) [1, 2, 3, 5])) ∧
    (∃ (s : State) (kind ms : Nat), s.pwr.coolMs.getD kind 0 + 1 = ms ∧ s.pwr.coolIn.contains kind = false) ∧
    (∃ (s : State), s.svc.power = 0) ∧
    (∃ (s : State), s.svc.power ≠ 0) ∧
    (∃ (s : State) (cause : Nat), s.svc.offDue = some cause) ∧
    (∃ (s : State), s.svc.offDue = none) ∧
    (∃ (s : State), 1 < s.svc.power) ∧
    (∃ (x : CoolantSample) (s : State), s.svc.power = 1 ∧ coolHolds x 1 = false ∧ coolHolds x 2 = false ∧ coolHolds x 5 = false) ∧
    (∃ (x : CoolantSample) (s : State), s.svc.power = 1 ∧ coolHolds x 1 = true ∧ s.pwr.coolIn = []) ∧
    (∃ (x : CoolantSample) (s : State), s.svc.power = 1 ∧ coolHolds x 1 = true ∧ s.pwr.coolIn ≠ []) ∧
    (∃ (x : CoolantSample) (s : State), s.svc.power = 0 ∧ coolHolds x 1 = false ∧ coolHolds x 2 = false ∧ coolHolds x 5 = false) :=
  ⟨⟨0, sag 0 100, 100, by decide +kernel⟩,
   ⟨0, rgS regOn, by decide +kernel⟩,
   ⟨0, sag 0 101, 101, by decide +kernel⟩,
   ⟨0, none, rgS regOn, _, by decide +kernel, rfl⟩,
   ⟨0, rgS regOff, by decide +kernel⟩,
   ⟨1680, rgS regOn, by decide +kernel⟩,
   ⟨1679, by decide +kernel⟩,
   ⟨inp 3399 1 1 1 1 false false false false false, tOn, by decide +kernel⟩,
   by refine ⟨inp 3400 1 1 1 1 false false false false false, tOn, _, ?_, ?_, ?_, ?_, ?_, ?_, rfl, ?_⟩ <;> decide +kernel,
   by refine ⟨inp 3400 1 1 1 1 true false true false false, tOn, _, ?_, ?_, ?_, ?_, rfl, ?_⟩ <;> decide +kernel,
   ⟨inp 4800 1401 1 1 1 true false true false false, tOn, by decide +kernel⟩,
   ⟨{ tOn with svc.power := 0 }, by decide +kernel⟩,
   ⟨{ tOn with svc.power := 3 }, by decide +kernel⟩,
   ⟨cl 800 120 130 120 130, tOn, _, by decide +kernel, rfl⟩,
   ⟨{ tOn with pwr.coolMs := [(1, 999)], pwr.coolIn := [2] }, 1, 1000, by decide +kernel⟩,
   ⟨{ tOn with svc.power := 0 }, by decide +kernel⟩,
   ⟨tOn, by decide +kernel⟩,
   ⟨{ tOn with svc.offDue := some 5 }, 5, by decide +kernel⟩,
   ⟨tOn, by decide +kernel⟩,
   ⟨tOn, by decide +kernel⟩,
   ⟨cl 800 120 130 120 130, { tOn with svc.power := 1, pwr.coolIn := [1] }, by decide +kernel⟩,
   ⟨cl 10 120 130 120 130, { tOn with svc.power := 1 }, by decide +kernel⟩,
   ⟨cl 10 120 130 120 130, { tOn with svc.power := 1, pwr.coolIn := [2] }, by decide +kernel⟩,
   ⟨cl 800 120 130 120 130, { tOn with svc.power := 0 }, by decide +kernel⟩⟩
end

section
open Management
theorem witness_ManagementRequests :
    (∃ (m : MgmtMsg) (s : State) (op : Nat) (i : Instr), mgmtCommand m op i ∧ s.svc.power ≠ 0 ∧ s.mgmtTaken m.src = false) ∧
    (∃ (m : MgmtMsg) (s : State) (op : Nat) (i : Instr), mgmtCommand m op i ∧ s.svc.power ≠ 0 ∧ s.mgmtTaken m.src = true ∧ (m.rsvd ≠ 0#64 ∨ 1200 < m.data.length)) ∧
    (∃ (m : MgmtMsg) (s : State) (op : Nat) (i : Instr), mgmtCommand m op i ∧ s.svc.power = 0) ∧
    (∃ (op : Byte) (m : MgmtMsg) (s : State), MgmtTakes s m ∧ (op = 0#8 ∨ 10#8 < op)) ∧
    (∃ (m : MgmtMsg) (s : State), s.svc.power ≠ 0 ∧ s.mgmtTaken m.src = false) ∧
    (∃ (m : MgmtMsg) (s : State), MgmtTakes s m) ∧
    (∃ (m : MgmtMsg) (s : State) (first : Nat), MgmtTakes s m ∧ first = max (s.svc.logged - s.svc.log.length) m.arg1.toNat) ∧
    (∃ (m : MgmtMsg) (s : State), MgmtTakes s m ∧ s.wedged m = true) ∧
    (∃ (m : MgmtMsg) (s : State) (p : Nat), MgmtTakes s m ∧ s.wedged m = false ∧ p = m.arg0.toNat % 32 ∧ s.accepts Requester.svc (Reg.shtCtrl p) 1 = true) ∧
    (∃ (m : MgmtMsg) (s : State), MgmtTakes s m) ∧
    (∃ (m : MgmtMsg) (s : State), MgmtTakes s m) ∧
    (∃ (m : MgmtMsg) (s : State), MgmtTakes s m ∧ 319 < m.arg0.toNat % 512) ∧
    (∃ (m : MgmtMsg) (s : State), MgmtTakes s m ∧ m.arg0.toNat % 512 ≤ 319 ∧ s.svc.testEn = true) ∧
    (∃ (m : MgmtMsg) (s : State), MgmtTakes s m ∧ m.arg0.toNat % 512 ≤ 319 ∧ s.svc.testEn = false ∧ s.svc.power ≠ 2) ∧
    (∃ (m : MgmtMsg) (s : State), MgmtTakes s m ∧ m.arg0.toNat % 512 ≤ 319 ∧ s.svc.testEn = false ∧ s.svc.power = 2) ∧
    (∃ (s : State) (pos : Nat), s.coreServed pos = none ∧ s.svc.dump.length < 900) ∧
    (∃ (m : MgmtMsg) (s : State) (n : Nat), MgmtTakes s m ∧ updateSize (m.arg0.toNat % 2 ^ 16) = some n ∧ m.arg1.toNat + m.data.length ≤ n ∧ bitAt m.arg0.toNat 31 = false) ∧
    (∃ (m : MgmtMsg) (s : State) (n : Nat) (w : State), MgmtTakes s m ∧ updateSize (m.arg0.toNat % 2 ^ 16) = some n ∧ m.arg1.toNat + m.data.length ≤ n ∧ bitAt m.arg0.toNat 31 = true ∧ w = s.stages (m.arg0.toNat % 2 ^ 16) n m) ∧
    (∃ (m : MgmtMsg) (s : State) (n : Nat), MgmtTakes s m ∧ updateSize (m.arg0.toNat % 2 ^ 16) = some n ∧ n < m.arg1.toNat + m.data.length) ∧
    (∃ (m : MgmtMsg) (s : State), MgmtTakes s m ∧ updateSize (m.arg0.toNat % 2 ^ 16) = none) ∧
    (∃ (m : MgmtMsg) (s : State), MgmtTakes s m) ∧
    (∃ (m : MgmtMsg) (s : State), MgmtTakes s m ∧ s.svc.restart ≠ none) ∧
    (∃ (m : MgmtMsg) (s : State), MgmtTakes s m ∧ s.svc.restart = none ∧ s.get Fld.svcStatusPhase ≠ phaseReady) ∧
    (∃ (m : MgmtMsg) (s : State), MgmtTakes s m ∧ s.svc.restart = none ∧ s.get Fld.svcStatusPhase = phaseReady) ∧
    (∃ (m : MgmtMsg) (s : State), MgmtTakes s m ∧ s.wedged m = true) ∧
    (∃ (m : MgmtMsg) (s : State), MgmtTakes s m ∧ s.wedged m = false ∧ (s.trp.tx ≠ [] ∨ s.trp.rx ≠ [])) ∧
    (∃ (m : MgmtMsg) (s : State), MgmtTakes s m ∧ s.wedged m = false ∧ s.trp.tx = [] ∧ s.trp.rx = []) :=
  ⟨⟨mm 0 0 [] false (udp 0x98), sv, 1, .telemetry (mm 0 0 [] false (udp 0x98)), Or.inl ⟨rfl, rfl⟩, by decide +kernel⟩,
   ⟨{ mm 0 0 with rsvd := 1 }, sv, 5, .powerOff { mm 0 0 with rsvd := 1 }, Or.inr (Or.inr (Or.inr (Or.inr (Or.inl ⟨rfl, rfl⟩)))), by decide +kernel⟩,
   ⟨mm 0 0, { sv with svc.power := 0 }, 4, .moduleReset (mm 0 0), Or.inr (Or.inr (Or.inr (Or.inl ⟨rfl, rfl⟩))), by decide +kernel⟩,
   ⟨11, mm 0 0, sv, by constructor <;> decide +kernel, by decide +kernel⟩,
   ⟨mm 0 0 [] false (udp 0x98), sv, by decide +kernel⟩,
   ⟨mm 0 0, sv, by constructor <;> decide +kernel⟩,
   ⟨mm 0 0, lg, _, by constructor <;> decide +kernel, rfl⟩,
   ⟨mm 3 0 [] true, sv, by constructor <;> decide +kernel, by decide +kernel⟩,
   ⟨mm 34 0, sv, _, by constructor <;> decide +kernel, by decide +kernel, rfl, by decide +kernel⟩,
   ⟨mm 1 0, sv, by constructor <;> decide +kernel⟩,
   ⟨mm 1 0, sv, by constructor <;> decide +kernel⟩,
   ⟨mm 320 0, sv, by constructor <;> decide +kernel, by decide +kernel⟩,
   ⟨mm 319 0, { sv with svc.testEn := true }, by constructor <;> decide +kernel, by decide +kernel⟩,
   ⟨mm 319 0, { sv with svc.power := 3 }, by constructor <;> decide +kernel, by decide +kernel⟩,
   ⟨mm 0 0, sv, by constructor <;> decide +kernel, by decide +kernel⟩,
   ⟨sv, 4, by decide +kernel⟩,
   ⟨mm 7 5 [1,2], sv, 88, by constructor <;> decide +kernel, by decide +kernel⟩,
   ⟨mm (2^31+4) 0 [1], sv, 21, _, by constructor <;> decide +kernel, by decide +kernel, by decide +kernel, by decide +kernel, rfl⟩,
   ⟨mm 4 21 [1], sv, 21, by constructor <;> decide +kernel, by decide +kernel⟩,
   ⟨mm 5 21 [1], sv, by constructor <;> decide +kernel, by decide +kernel⟩,
   ⟨mm 5 21 [1], sv, by constructor <;> decide +kernel⟩,
   ⟨mm 5 21 [1], { sv with svc.restart := some (3, 1) }, by constructor <;> decide +kernel, by decide +kernel⟩,
   ⟨mm 5 21 [1], sv, by constructor <;> decide +kernel, by decide +kernel⟩,
   ⟨mm 5 21 [1], sv [(Fld.svcStatusPhase, 6)], by constructor <;> decide +kernel, by decide +kernel⟩,
   ⟨mm 5 21 [1], { sv with svc.power := 3 }, by constructor <;> decide +kernel, by decide +kernel⟩,
   ⟨mm 5 21 [1], { sv with trp.rx := [(2, ⟨9, [0,2,0,0], [], [], [], 0⟩)] }, by constructor <;> decide +kernel, by decide +kernel⟩,
   ⟨mm 0x1FFFFF 0xFFFFFFFFFF [1], sv, by constructor <;> decide +kernel, by decide +kernel⟩⟩
end

section
open Management
theorem witness_ServiceControllerWatches :
    (∃ (s : State), s.svc.power = 0) ∧
    (∃ (s : State), (s.svc.power = 1 ∨ s.svc.power = 3)) ∧
    (∃ (x : Telemetry) (s : State), s.svc.power = 2 ∧ x.regions = [] ∧ (∀ p < 320, s.serves p = none) ∧ (s.svc.ms + 1) % 3600000 ≠ 0 ∧ s.get Fld.svcStatusPhase ≠ phaseReady) ∧
    (∃ (s : State), s.get Fld.svcStatusPhase = phaseReady ∧ s.tick = s.svc.lastTick ∧ 1 ≤ s.svc.stalls) ∧
    (∃ (s : State), s.get Fld.svcStatusPhase = phaseReady ∧ s.tick ≠ s.svc.lastTick) ∧
    (∃ (s : State), s.get Fld.svcStatusPhase = phaseReady ∧ s.svc.stalls < 2 ∧ 9 ≤ s.svc.unread) ∧
    (∃ (req : Requester) (v : BitVec 32) (s : State), s.accepts req Reg.svcBeat v.toNat = true ∧ v.toNat % 2 ^ 16 ≠ s.get Fld.svcBeatSeq) ∧
    (∃ (req : Requester) (v : BitVec 32) (s : State), s.accepts req Reg.svcBeat v.toNat = true ∧ v.toNat % 2 ^ 16 = s.get Fld.svcBeatSeq) ∧
    (∃ (s : State), WatchdogDue s ∧ ((List.filter (fun t => decide (s.svc.ms < t + 600000)) s.svc.restarts).length < 3)) ∧
    (∃ (s : State), WatchdogDue s ∧ (3 ≤ (List.filter (fun t => decide (s.svc.ms < t + 600000)) s.svc.restarts).length)) ∧
    (∃ (s : State), (¬WatchdogDue s)) ∧
    (∃ (s : State), s.svc.power = 0) ∧
    (∃ (v : Byte) (s : State), s.svc.power ≠ 0 ∧ s.chainAddr = BitVec.toNat v) ∧
    (∃ (v : Byte) (s : State), s.svc.power ≠ 0 ∧ s.chainAddr ≠ BitVec.toNat v) ∧
    (∃ (s : State), s.svc.power ≠ 0) ∧
    (∃ (s : State), s.svc.power = 0) ∧
    (∃ (s : State), s.svc.power = 0) ∧
    (∃ (b : List Byte) (s : State), s.svc.power ≠ 0 ∧ sillGood b = false) ∧
    (∃ (b : List Byte) (s : State), s.svc.power ≠ 0 ∧ sillGood b = true ∧ leAt b 0 1 = sillReq ∧ leAt b 1 1 ≠ s.chainAddr) ∧
    (∃ (b : List Byte) (wedged : Bool) (s : State) (op : Nat) (m : MgmtMsg), s.svc.power ≠ 0 ∧ sillGood b = true ∧ leAt b 0 1 = sillReq ∧ leAt b 1 1 = s.chainAddr ∧ s.chainAddr ≠ 255 ∧ parseMgmt (List.take (b.length - 12) (List.drop 8 b)) wedged = some (op, m)) ∧
    (∃ (b : List Byte) (s : State), s.svc.power ≠ 0 ∧ sillGood b = true ∧ (leAt b 0 1 = sillRsp ∨ leAt b 0 1 = sillBeat ∨ leAt b 0 1 = sillChange)) ∧
    (∃ (s : State), s.svc.power ≠ 0 ∧ s.chainAddr ≠ 255 ∧ s.mgmtPeer 0 = none) ∧
    (∃ (s : State), s.svc.power ≠ 0 ∧ s.chainAddr ≠ 255 ∧ s.mgmtPeer 0 ≠ none) ∧
    (∃ (s : State), (s.svc.power = 0 ∨ s.chainAddr = 255)) :=
  ⟨⟨{ sv with svc.power := 0 }, by decide +kernel⟩,
   ⟨{ sv with svc.power := 1 }, by decide +kernel⟩,
   ⟨te, { tState with svc.ms := 5 }, by decide +kernel⟩,
   ⟨{ rr with tick := 9, svc.lastTick := 9, svc.stalls := 1 }, by decide +kernel⟩,
   ⟨{ rr with tick := 9, svc.lastTick := 8, svc.stalls := 1 }, by decide +kernel⟩,
   ⟨{ rr with tick := 9, svc.lastTick := 8, svc.unread := 9 }, by decide +kernel⟩,
   ⟨.sup 1, 0xFFF1, stops [254] sv, by decide +kernel⟩,
   ⟨.sup 0, 0x0000, stops [254] { sv with svc.beat := 9 }, by decide +kernel⟩,
   ⟨wd 2, ⟨⟨by decide +kernel, ⟨by decide +kernel, by decide +kernel⟩⟩, by decide +kernel⟩, by decide +kernel⟩,
   ⟨wd 3, ⟨⟨by decide +kernel, ⟨by decide +kernel, by decide +kernel⟩⟩, by decide +kernel⟩, by decide +kernel⟩,
   ⟨wd 3 999, fun h => absurd h.late (by decide +kernel)⟩,
   ⟨{ sv with svc.power := 0 }, by decide +kernel⟩,
   ⟨3, sv, by decide +kernel⟩,
   ⟨4, sv, by decide +kernel⟩,
   ⟨sv, by decide +kernel⟩,
   ⟨{ sv with svc.power := 0 }, by decide +kernel⟩,
   ⟨{ sv with svc.power := 0 }, by decide +kernel⟩,
   ⟨(fr 3 3 0 0).set 0 2, sv, by decide +kernel⟩,
   ⟨fr 3 4 0 0, sv, by decide +kernel⟩,
   ⟨fr 3 3 0 0 (rq 8), false, sv, 8, mm 0 0, by decide +kernel⟩,
   ⟨fr 4 3 0 0 (rq 8), sv, by decide +kernel⟩,
   ⟨{ sv with svc.store := [], svc.worst := 3 }, by decide +kernel⟩,
   ⟨{ sv with svc.worst := 3 }, by decide +kernel⟩,
   ⟨{ sv with svc.power := 0 }, by decide +kernel⟩⟩
end

section
open Contexts
theorem witness_SubstitutionRegistersGuarded :
    (∃ (req : Requester) (n : PaneId) (addr : BitVec 40) (x : WriteSides) (s : State), Alone x ∧ s.svc.power = 2 ∧ s.flag Fld.timStatusPllLock = true ∧ isService req = false ∧ s.accessRefused req addr.toNat = false ∧ (addr.toNat = Reg.pswNext n.val ∨ addr.toNat = Reg.pswCtrl n.val)) ∧
    (∃ (req : Requester) (n : PaneId) (s : State), s.svc.power = 2 ∧ s.flag Fld.timStatusPllLock = true ∧ isService req = false ∧ s.accessRefused req (Reg.pswCtrl n.val) = false) ∧
    (∃ (req : Requester) (n : PaneId) (addr : BitVec 40) (v : BitVec 32) (x : WriteSides) (s : State), Alone x ∧ s.svc.power = 2 ∧ s.flag Fld.timStatusPllLock = true ∧ isService req = true ∧ s.accessRefused req addr.toNat = false ∧ addr.toNat = Reg.pswNext n.val ∧ v.toNat < 2 ^ 16) :=
  ⟨⟨.host 5, 0, BitVec.ofNat 40 (Reg.pswNext 0), ⟨false, false, [], []⟩, pathS, (And.intro (by decide +kernel) (by decide +kernel)), by decide +kernel⟩,
   ⟨.part 5, 0, pathS, by decide +kernel⟩,
   ⟨.svc, 0, BitVec.ofNat 40 (Reg.pswNext 0), 0x4321, ⟨false, false, [], []⟩, stops [0] (ctlS []), (And.intro (by decide +kernel) (by decide +kernel)), by decide +kernel⟩⟩
end

section
open Contexts
theorem witness_LateLaunchesCounted :
    (∃ (i : Issue) (s : State) (t : Task), Executes atLaunchSpec i s t ∧ t.regPoison (wordField i 40 6) = false ∧ BitVec.toNat (t.reg (wordField i 40 6)) ≤ s.tick) ∧
    (∃ (i : Issue) (s : State) (t : Task), Executes atLaunchSpec i s t ∧ t.regPoison (wordField i 40 6) = false ∧ s.tick < BitVec.toNat (t.reg (wordField i 40 6))) :=
  ⟨⟨tWord (2^40), { tState with tick := 7 }, tTask, executes_of _ _ _ _ (by decide +kernel), by decide +kernel⟩,
   ⟨tWord 0, { tState with tick := 4 }, tTask, executes_of _ _ _ _ (by decide +kernel), by decide +kernel⟩⟩
end

section
open Contexts
theorem witness_ConverterStartsOnTwoPairs :
    (∃ (s : State), s.svc.power ≤ 1) ∧
    (∃ (x : CoolantSample) (s : State), s.svc.power ≤ 1 ∧ coolHolds x 1 = false ∧ coolHolds x 2 = false ∧ coolHolds x 5 = false) ∧
    (∃ (s : State), s.svc.power ≠ 0) :=
  ⟨⟨pw 0, by decide +kernel⟩,
   ⟨cs 1200, pw 0, by decide +kernel⟩,
   ⟨pw 2, by decide +kernel⟩⟩
end

end Sys2Proof.Tests
end

/-! # Reads and writes of control space (R10 to R13, R57, R99)

The fields that a write leaves, the path of one read and of one write through the checks, and the registers of a core's block. -/

namespace Sys2Proof.Machine
open Sys2Proof

/-! ## Fields after a write (R12) -/

/-- One step of `written`: what a write of `v` over a register that held `old` does to one field of the value `a` built so far. -/
def writeField (old v a : Nat) (f : FieldSpec) : Nat :=
  match f.acc with
  | .rw => setField a f.lo f.w (field v f.lo f.w)
  | .w1c => setField a f.lo f.w (field old f.lo f.w - (field old f.lo f.w &&& field v f.lo f.w))
  | .ro => a
  | .wo => a

/-- The value of a field after a write of `v` over `old`, by its access type. -/
def fieldAfter (old v : Nat) (f : FieldSpec) : Nat :=
  match f.acc with
  | .rw => field v f.lo f.w
  | .w1c => field old f.lo f.w - (field old f.lo f.w &&& field v f.lo f.w)
  | _ => field old f.lo f.w

/-- Two fields share no bit. -/
def FieldsApart (f g : FieldSpec) : Prop := f.lo + f.w ≤ g.lo ∨ g.lo + g.w ≤ f.lo

theorem written_eq_foldl (fs : List FieldSpec) (old v : Nat) : written fs old v = fs.foldl (writeField old v) old := rfl

theorem fieldAfter_lt (old v : Nat) (f : FieldSpec) : fieldAfter old v f < 2 ^ f.w := by
  unfold fieldAfter
  split
  · exact field_lt ..
  · exact (Nat.sub_le _ _).trans_lt (field_lt ..)
  · exact field_lt ..

theorem field_setField_apart {f g : FieldSpec} (n v : Nat) (h : FieldsApart f g) :
    field (setField n f.lo f.w v) g.lo g.w = field n g.lo g.w :=
  h.elim (field_setField_above n f.lo f.w v g.lo g.w) (field_setField_below n f.lo f.w v g.lo g.w)

theorem field_writeField_apart {f g : FieldSpec} (old v a : Nat) (h : FieldsApart f g) :
    field (writeField old v a f) g.lo g.w = field a g.lo g.w := by
  unfold writeField
  split
  · exact field_setField_apart a _ h
  · exact field_setField_apart a _ h
  · rfl
  · rfl

theorem field_writeField_same {old a : Nat} (v : Nat) (f : FieldSpec) (h : field a f.lo f.w = field old f.lo f.w) :
    field (writeField old v a f) f.lo f.w = fieldAfter old v f := by
  have hlt := fieldAfter_lt old v f
  cases hf : f.acc <;> simp only [writeField, fieldAfter, hf] at hlt ⊢
  case rw => rw [field_setField_same, Nat.mod_eq_of_lt hlt]
  case w1c => rw [field_setField_same, Nat.mod_eq_of_lt hlt]
  case ro => exact h
  case wo => exact h

theorem field_foldl_writeField_apart {g : FieldSpec} (old v : Nat) : ∀ (fs : List FieldSpec) (a : Nat),
    (∀ f ∈ fs, FieldsApart f g) → field (fs.foldl (writeField old v) a) g.lo g.w = field a g.lo g.w
  | [], _, _ => rfl
  | f :: fs, a, h => by
    rw [List.foldl_cons, field_foldl_writeField_apart old v fs _ fun x hx => h x (List.mem_cons_of_mem _ hx),
      field_writeField_apart old v a (h f List.mem_cons_self)]

/-- Each step sets its own field and leaves those before and behind it, so the field ends as its access type says. -/
theorem field_foldl_writeField {f : FieldSpec} {old : Nat} (v : Nat) : ∀ (fs : List FieldSpec) (a : Nat),
    fs.Pairwise FieldsApart → f ∈ fs → field a f.lo f.w = field old f.lo f.w →
    field (fs.foldl (writeField old v) a) f.lo f.w = fieldAfter old v f
  | g :: fs, a, hp, hf, ha => by
    obtain ⟨hg, hfs⟩ := List.pairwise_cons.1 hp
    rw [List.foldl_cons]
    rcases List.mem_cons.1 hf with rfl | hf
    · rw [field_foldl_writeField_apart old v fs _ fun x hx => (hg x hx).symm, field_writeField_same v f ha]
    · exact field_foldl_writeField v fs _ hfs hf ((field_writeField_apart old v a (hg f hf)).trans ha)

theorem field_written {fs : List FieldSpec} {f : FieldSpec} (old v : Nat) (hp : fs.Pairwise FieldsApart) (hf : f ∈ fs) :
    field (written fs old v) f.lo f.w = fieldAfter old v f := by
  rw [written_eq_foldl, field_foldl_writeField v fs old hp hf rfl]

/-- One RW field over the whole register takes the value written. -/
theorem written_whole (n old : Nat) (v : BitVec 32) (h : old < 2 ^ 32) : written [⟨0, 32, .rw, n⟩] old v.toNat = v.toNat := by
  have hv := v.isLt
  simp [written, setField_eq, field, Nat.mod_one]
  omega

/-! ## 64-bit counters set to zero -/

theorem State.rd_put64_zero (s : State) (a b : Nat) : (s.put64 a 0).rd b = if b = a ∨ b = a + 4 then 0 else s.rd b := by
  unfold State.put64
  rw [State.rd_wr, State.rd_wr]
  by_cases h1 : b = a + 4 <;> by_cases h2 : b = a <;> simp [h1, h2]

theorem State.rd_clear64 (b : Nat) : ∀ (as : List Nat) (s : State),
    (s.clear64 as).rd b = if ∃ a ∈ as, b = a ∨ b = a + 4 then 0 else s.rd b
  | [], s => by simp [State.clear64]
  | a :: as, s => by
    have ih := State.rd_clear64 b as (s.put64 a 0)
    rw [State.rd_put64_zero] at ih
    rw [show s.clear64 (a :: as) = (s.put64 a 0).clear64 as from rfl, ih]
    by_cases h1 : ∃ x ∈ as, b = x ∨ b = x + 4 <;> by_cases h2 : b = a ∨ b = a + 4 <;> simp [h1, h2]

theorem State.clear64_regs : ∀ (as : List Nat) (s : State), { s.clear64 as with ctrl.regs := s.ctrl.regs } = s
  | [], _ => rfl
  | a :: as, s => congrArg (fun u : State => { u with ctrl.regs := s.ctrl.regs }) (State.clear64_regs as (s.put64 a 0))

/-- A command whose whole effect is to zero 64-bit counters clears them. -/
theorem clears_of_clear64 {cmd : Instr} {s : State} {as : List Nat} (h : exec cmd s = .next (s.clear64 as)) :
    Clears cmd s [] as := by
  refine ⟨s.clear64 as, h, by simp, fun a ha => ?_, fun a _ hne => ?_, State.clear64_regs as s⟩
  · have hlow : ∃ b ∈ as, a = b ∨ a = b + 4 := ⟨a, ha, .inl rfl⟩
    have hhigh : ∃ b ∈ as, a + 4 = b ∨ a + 4 = b + 4 := ⟨a, ha, .inr rfl⟩
    rw [State.get64, State.rd_clear64, State.rd_clear64, if_pos hlow, if_pos hhigh, Nat.zero_mul]
  · rw [State.rd_clear64, if_neg]
    rintro ⟨b, hb, hab⟩
    exact hab.elim (hne b hb).1 (hne b hb).2

/-! ## The path of one read and of one write (R10, R11, R57) -/

section
variable {s : State} {req : Requester} {addr : BitVec 40} {v : BitVec 32} {l : Loc} {fs : List FieldSpec} {x : WriteSides}

theorem exec_reg64LowRead (req : Requester) (addr : BitVec 40) (s : State) :
    exec (.reg64LowRead req addr) s = .next (s.readCtrl req addr.toNat) := rfl

theorem exec_registerWrite (req : Requester) (addr : BitVec 40) (v : BitVec 32) (x : WriteSides) (s : State) :
    exec (.registerWrite req addr v x) s = .next (s.clockAccess addr.toNat x.readers ((req, v) :: x.also) x) := rfl

theorem exec_registerWrite_alone (hx : Alone x) :
    exec (.registerWrite req addr v x) s = .next (s.writeCtrl req addr.toNat v.toNat x) := by
  obtain ⟨hr, ha⟩ := hx
  rw [exec_registerWrite, hr, ha]
  rfl

theorem RegAt.readCtrl_eq (h : RegAt s req addr l fs) : s.readCtrl req addr.toNat = s.readReg req l fs addr.toNat := by
  simp [State.readCtrl, h.power, h.clocks, h.aligned, h.reached, h.place, h.fields]

theorem readCtrl_misaligned (hp : s.svc.power = 2) (hc : s.flag Fld.timStatusPllLock = true) (ha : addr.toNat % 4 ≠ 0) :
    s.readCtrl req addr.toNat = (s.misuse req).answers addr 0 := by
  simp [State.readCtrl, hp, hc, ha, State.emit, State.answers]

theorem readCtrl_unassigned (hp : s.svc.power = 2) (hc : s.flag Fld.timStatusPllLock = true) (ha : addr.toNat % 4 = 0)
    (hr : s.accessRefused req addr.toNat = false) (hl : locate addr.toNat = none) :
    s.readCtrl req addr.toNat = s.answers addr 0 := by
  simp [State.readCtrl, hp, hc, ha, hr, hl, State.emit, State.answers]

/-- A read that captures nothing and takes no capture answers the register's value. -/
theorem readReg_live (hlow : regIsLow l = false)
    (hhigh : regIsHigh l = true → SMap.get? s.ctrl.shadows (wideKey req (addr.toNat - 4)) = none) :
    s.readReg req l fs addr.toNat = s.answers addr (s.view l fs addr.toNat) := by
  cases h : regIsHigh l
  case false => simp [State.readReg, hlow, h, State.emit, State.answers]
  case true => simp [State.readReg, hlow, h, hhigh h, State.emit, State.answers]

theorem readReg_low (hlow : regIsLow l = true) :
    s.readReg req l fs addr.toNat = { s.answers addr (s.view l fs addr.toNat) with
      ctrl.shadows := SMap.put s.ctrl.shadows (wideKey req addr.toNat) (BitVec.ofNat 32 (s.look (addr.toNat + 4))) } := by
  simp [State.readReg, hlow, State.emit, State.answers]

theorem readReg_captured {w : Word32} (hlow : regIsLow l = false) (hhigh : regIsHigh l = true)
    (hw : SMap.get? s.ctrl.shadows (wideKey req (addr.toNat - 4)) = some w) :
    s.readReg req l fs addr.toNat =
      { s.answers addr w.toNat with ctrl.shadows := SMap.del s.ctrl.shadows (wideKey req (addr.toNat - 4)) } := by
  simp [State.readReg, hlow, hhigh, hw, State.emit, State.answers]

theorem WritableAt.writeCtrl_eq (h : WritableAt s req addr v l fs) :
    s.writeCtrl req addr.toNat v.toNat x = s.regWrite req l fs addr.toNat v.toNat x := by
  simp [State.writeCtrl, State.write, h.power, h.clocks, h.aligned, h.reached, h.place, h.fields, h.writer, h.bits]

theorem writeCtrl_misaligned (hp : s.svc.power = 2) (hc : s.flag Fld.timStatusPllLock = true) (ha : addr.toNat % 4 ≠ 0) :
    s.writeCtrl req addr.toNat v.toNat x = s.misuse req := by
  simp [State.writeCtrl, hp, hc, ha]

theorem writeCtrl_unassigned (hp : s.svc.power = 2) (hc : s.flag Fld.timStatusPllLock = true) (ha : addr.toNat % 4 = 0)
    (hr : s.accessRefused req addr.toNat = false) (hl : locate addr.toNat = none) :
    s.writeCtrl req addr.toNat v.toNat x = s.misuse req := by
  simp [State.writeCtrl, State.write, hp, hc, ha, hr, hl]

theorem RegAt.writeCtrl_forbidden (h : RegAt s req addr l fs) (hw : s.mayWriteLoc req l = false) :
    s.writeCtrl req addr.toNat v.toNat x = s.misuse req := by
  simp [State.writeCtrl, State.write, h.power, h.clocks, h.aligned, h.reached, h.place, h.fields, hw]

theorem regWrite_wide (addr v : Nat) (h : regIsLow l = true ∨ regIsHigh l = true) :
    s.regWrite req l fs addr v x = s.wideWrite req l fs addr v := by
  simp [State.regWrite, h]

theorem wideWrite_low (addr v : Nat) (hlow : regIsLow l = true) (hrw : (fs.any fun f => f.acc == .rw) = true)
    (hfree : s.wideLocked l = false) :
    s.wideWrite req l fs addr v =
      { s with ctrl.staged := SMap.put s.ctrl.staged (wideKey req addr) (BitVec.ofNat 32 v) } := by
  simp only [State.wideWrite, hrw, hfree, hlow, Bool.not_true, Bool.false_eq_true, if_false, if_true]

theorem wideWrite_staged {lows : List FieldSpec} {w : Word32} (addr v : Nat) (hlow : regIsLow l = false)
    (hrw : (fs.any fun f => f.acc == .rw) = true) (hfree : s.wideLocked l = false)
    (hlows : regFields l.blk (l.off - 4) = some lows) (hw : SMap.get? s.ctrl.staged (wideKey req (addr - 4)) = some w) :
    s.wideWrite req l fs addr v =
      ({ s with ctrl.staged := SMap.del s.ctrl.staged (wideKey req (addr - 4)) }.poke lows (addr - 4) w.toNat).poke fs addr v := by
  simp only [State.wideWrite, hrw, hfree, hlow, hlows, hw, Bool.not_true, Bool.false_eq_true, if_false]

theorem wideWrite_unstaged (addr v : Nat) (hlow : regIsLow l = false) (hrw : (fs.any fun f => f.acc == .rw) = true)
    (hfree : s.wideLocked l = false) (hw : SMap.get? s.ctrl.staged (wideKey req (addr - 4)) = none) :
    s.wideWrite req l fs addr v = s.poke fs addr v := by
  simp only [State.wideWrite, hrw, hfree, hlow, hw, Bool.not_true, Bool.false_eq_true, if_false]

theorem State.rd_poke (s : State) (fs : List FieldSpec) (a b v : Nat) :
    (s.poke fs a v).rd b = if b = a then written fs (s.rd a) v % 2 ^ 32 else s.rd b := State.rd_wr ..

/-- An assigned, aligned address has room for a low half below it. -/
theorem RegAt.four_le (h : RegAt s req addr l fs) : 4 ≤ addr.toNat := by
  have hne : addr.toNat ≠ 0 := by
    intro h0
    have hl := h.place
    rw [h0, show locate 0 = none from rfl] at hl
    cases hl
  have := h.aligned
  omega

end

/-! ## The registers of a core's block (R99, R591) -/

theorem coreOf_paneOf_slotOf (core : CoreId) : coreOf (paneOf core) (slotOf core) = core := by
  have := core.isLt
  unfold coreOf paneOf slotOf
  omega

theorem locate_core (core : CoreId) {off : Nat} (h : off < 0x1000000) :
    locate (Block.base .core core + off) = some ⟨.core, core, off⟩ := by
  have hcore := coreOf_paneOf_slotOf core
  have hpane : paneOf core < 64 := by
    have := core.isLt
    unfold paneOf
    omega
  have hslot : slotOf core = 0 ∨ slotOf core = 1 ∨ slotOf core = 2 ∨ slotOf core = 3 := by
    unfold slotOf
    omega
  have hagent : (Block.base .core core + off) / 0x200000000 = paneOf core := by
    simp only [Block.base, blockBase]
    omega
  have hblk : (Block.base .core core + off) / 0x1000000 % 512 = 4 + slotOf core := by
    simp only [Block.base, blockBase]
    omega
  have hoff : (Block.base .core core + off) % 0x1000000 = off := by
    simp only [Block.base, blockBase]
    omega
  simp only [locate, hagent, hblk, hoff, hpane, if_true]
  rcases hslot with hs | hs | hs | hs <;> rw [hs] at hcore ⊢ <;> simp only [hcore]

/-- The block number of R590 in a control-space address. -/
def blockNumber (addr : Nat) : Nat := addr / 0x1000000 % 512

theorem blockNumber_blockBase (a b : Nat) {off : Nat} (hb : b < 512) (ho : off < 0x1000000) :
    blockNumber (blockBase a b + off) = b := by
  unfold blockNumber blockBase
  omega

theorem slotOf_lt (core : Nat) : slotOf core < 4 := by
  unfold slotOf
  omega

theorem blockNumber_corePrio (core : Nat) : blockNumber (Reg.corePrio core) = 4 + slotOf core :=
  blockNumber_blockBase _ _ (by have := slotOf_lt core; omega) (by decide)

theorem blockNumber_netLink (d : Nat) : blockNumber (Reg.netLink d) = 12 := by
  have := slotOf_lt d
  simp only [Reg.netLink, Block.base, Nat.add_assoc]
  exact blockNumber_blockBase _ 12 (by decide) (by omega)

theorem blockNumber_netRt (i : Nat) : blockNumber (Reg.netRt i) = 13 := by
  have := slotOf_lt (i / 128)
  simp only [Reg.netRt, Block.base, Nat.add_assoc]
  exact blockNumber_blockBase _ 13 (by decide) (by omega)

theorem corePrio_ne_of_blockNumber (core : Nat) {a : Nat} (h : blockNumber a < 4 ∨ 8 ≤ blockNumber a) : a ≠ Reg.corePrio core := by
  rintro rfl
  have := slotOf_lt core
  rw [blockNumber_corePrio] at h
  omega

/-! ## What the checks of an access read -/

theorem State.stopOut_congr {s u : State} (d : Nat) (h : u.rd (Reg.netLink d) = s.rd (Reg.netLink d)) : u.stopOut d = s.stopOut d := by
  simp only [State.stopOut, State.flag, State.get, Fld.netLinkOut, h]

/-- Whether an access is refused hangs on the stops out of service, the route tables and the supervisors' panes alone. -/
theorem State.accessRefused_congr {s u : State} (req : Requester) (addr : Nat) (hlink : ∀ d, u.rd (Reg.netLink d) = s.rd (Reg.netLink d))
    (hrt : ∀ i, u.rd (Reg.netRt i) = s.rd (Reg.netRt i)) (hcopy : u.rd Reg.netTblCtrl = s.rd Reg.netTblCtrl)
    (hsup : u.rd Reg.svcSup = s.rd Reg.svcSup) : u.accessRefused req addr = s.accessRefused req addr := by
  have hstop : ∀ d, u.stopOut d = s.stopOut d := fun d => State.stopOut_congr d (hlink d)
  have hblock : ∀ d, u.blockStop d = s.blockStop d := fun d => by simp only [State.blockStop, hstop]
  have hagent : ∀ a d, u.agentStop a d = s.agentStop a d := fun a d => by simp only [State.agentStop, hblock]
  have hroute : ∀ c i d, u.route c i d = s.route c i d := fun c i d => by simp only [State.route, hrt]
  have hentry : u.entryStop req = s.entryStop req := by
    cases req <;> simp only [State.entryStop, State.svcStop, State.supPane, hstop, hblock, hsup]
  have hactive : u.netCopy = s.netCopy := by simp only [State.netCopy, State.get, Fld.netTblCtrlActive, hcopy]
  simp only [State.accessRefused, hstop, hagent, hroute, hentry, hactive]

section
variable {s u : State} {req : Requester} {core : CoreId} {addr : BitVec 40} {v : BitVec 32} {l : Loc} {fs : List FieldSpec}
  {x : WriteSides}

theorem RegAt.core_loc {off : Nat} (h : RegAt s req addr l fs) (ho : off < 0x1000000) (ha : addr.toNat = Block.base .core core + off) :
    l = ⟨.core, core, off⟩ := by
  have hl := h.place
  rw [ha, locate_core core ho] at hl
  exact (Option.some.inj hl).symm

theorem RegAt.corePrio_loc (h : RegAt s req addr l fs) (ha : addr.toNat = Reg.corePrio core) : l = ⟨.core, core, 4⟩ :=
  h.core_loc (by decide) ha

theorem RegAt.corePrio_fields (h : RegAt s req addr l fs) (ha : addr.toNat = Reg.corePrio core) : fs = [⟨0, 32, .rw, 0⟩] := by
  have hf := h.fields
  rw [h.corePrio_loc ha] at hf
  exact (Option.some.inj hf).symm

/-- A write of CORE_PRIO may come after anything that changes no other register. -/
theorem WritableAt.of_rd_eq (h : WritableAt s req addr v l fs) (ha : addr.toNat = Reg.corePrio core)
    (hsvc : u.svc = s.svc) (hrd : ∀ a, a ≠ Reg.corePrio core → u.rd a = s.rd a) : WritableAt u req addr v l fs where
  power := hsvc ▸ h.power
  clocks := by
    have hlock : u.rd Reg.timStatus = s.rd Reg.timStatus := hrd _ (corePrio_ne_of_blockNumber core (.inr (by decide)))
    rw [← h.clocks]
    simp only [State.flag, State.get, Fld.timStatusPllLock, hlock]
  aligned := h.aligned
  reached := by
    rw [← h.reached]
    apply State.accessRefused_congr
    · exact fun d => hrd _ (corePrio_ne_of_blockNumber core (.inr (by rw [blockNumber_netLink]; decide)))
    · exact fun i => hrd _ (corePrio_ne_of_blockNumber core (.inr (by rw [blockNumber_netRt]; decide)))
    · exact hrd _ (corePrio_ne_of_blockNumber core (.inr (by decide)))
    · exact hrd _ (corePrio_ne_of_blockNumber core (.inl (by decide)))
  place := h.place
  fields := h.fields
  writer := by
    have hw := h.writer
    rw [h.corePrio_loc ha] at hw ⊢
    exact hw
  bits := h.bits

theorem WritableAt.writeCtrl_corePrio (h : WritableAt s req addr v l fs) (ha : addr.toNat = Reg.corePrio core) :
    s.writeCtrl req addr.toNat v.toNat x = s.wr (Reg.corePrio core) v.toNat := by
  rw [h.writeCtrl_eq, h.corePrio_fields ha, h.corePrio_loc ha, ha]
  exact congrArg (s.wr _) (written_whole 0 _ v (s.rd_lt _))

theorem WritableAt.writeCtrl_coreCntCtrl (h : WritableAt s req addr 1#32 l fs) (ha : addr.toNat = Reg.coreCntCtrl core) :
    s.writeCtrl req addr.toNat (1#32).toNat x = s.clear64 [Reg.coreIssue core, Reg.coreYield core, Reg.coreAbusy core] := by
  rw [h.writeCtrl_eq, h.core_loc (by decide) ha]
  rfl

/-- Two writes of CORE_PRIO, one after the other: the second stays. -/
theorem WritableAt.writeCtrl_twice {req' : Requester} {v' : BitVec 32} (h : WritableAt s req addr v l fs)
    (h' : WritableAt s req' addr v' l fs) (ha : addr.toNat = Reg.corePrio core) :
    (s.writeCtrl req addr.toNat v.toNat x).writeCtrl req' addr.toNat v'.toNat x =
      (s.wr (Reg.corePrio core) v.toNat).wr (Reg.corePrio core) v'.toNat := by
  have h2 : WritableAt (s.wr (Reg.corePrio core) v.toNat) req' addr v' l fs := h'.of_rd_eq ha rfl fun a hne => s.rd_wr_ne _ hne
  rw [h.writeCtrl_corePrio ha, h2.writeCtrl_corePrio ha]

end

/-- R13: of two writers the one of the lower place writes first, and on a tie the one that is named first. -/
theorem State.insertWriter_two (s : State) (w w' : Requester × BitVec 32) :
    s.insertWriter w' (s.insertWriter w []) = if s.writerRank w'.1 < s.writerRank w.1 then [w', w] else [w, w'] := rfl

/-- One read and two writes in one clock: the read sees the state before both. -/
theorem State.clockAccess_two (s : State) (a : Nat) (r : Requester) (w w' : Requester × BitVec 32) (x : WriteSides) :
    s.clockAccess a [r] [w, w'] x = if s.writerRank w'.1 < s.writerRank w.1
      then ((s.readCtrl r a).writeCtrl w'.1 a w'.2.toNat x).writeCtrl w.1 a w.2.toNat x
      else ((s.readCtrl r a).writeCtrl w.1 a w.2.toNat x).writeCtrl w'.1 a w'.2.toNat x := by
  simp only [State.clockAccess, List.foldl_cons, List.foldl_nil, State.insertWriter_two]
  split <;> rfl

/-! ## The obligation's clauses -/

section
variable {s : State} {req req' r : Requester} {core : CoreId} {addr : BitVec 40} {v v' : BitVec 32} {l : Loc} {fs : List FieldSpec}
  {x : WriteSides}

theorem RegAt.exec_read_live (h : RegAt s req addr l fs) (hlow : regIsLow l = false)
    (hhigh : regIsHigh l = true → SMap.get? s.ctrl.shadows (wideKey req (addr.toNat - 4)) = none) :
    exec (.reg64LowRead req addr) s = .next (s.answers addr (s.view l fs addr.toNat)) := by
  rw [exec_reg64LowRead, h.readCtrl_eq, readReg_live hlow hhigh]

theorem RegAt.exec_read_low (h : RegAt s req addr l fs) (hlow : regIsLow l = true) :
    ∃ u, exec (.reg64LowRead req addr) s = .next u ∧ { u with ctrl.shadows := s.ctrl.shadows } = s.answers addr (s.view l fs addr.toNat) ∧
      SMap.get? u.ctrl.shadows (wideKey req addr.toNat) = some (BitVec.ofNat 32 (s.look (addr.toNat + 4))) ∧
      ∀ k, k ≠ wideKey req addr.toNat → SMap.get? u.ctrl.shadows k = SMap.get? s.ctrl.shadows k := by
  refine ⟨_, by rw [exec_reg64LowRead, h.readCtrl_eq, readReg_low hlow], rfl, SMap.get?_put_same .., fun k hk => ?_⟩
  exact SMap.get?_put_ne _ _ hk

theorem RegAt.exec_read_captured {w : Word32} (h : RegAt s req addr l fs) (hlow : regIsLow l = false) (hhigh : regIsHigh l = true)
    (hw : SMap.get? s.ctrl.shadows (wideKey req (addr.toNat - 4)) = some w) :
    ∃ u, exec (.reg64LowRead req addr) s = .next u ∧ { u with ctrl.shadows := s.ctrl.shadows } = s.answers addr w.toNat ∧
      SMap.get? u.ctrl.shadows (wideKey req (addr.toNat - 4)) = none ∧
      ∀ k, k ≠ wideKey req (addr.toNat - 4) → SMap.get? u.ctrl.shadows k = SMap.get? s.ctrl.shadows k := by
  refine ⟨_, by rw [exec_reg64LowRead, h.readCtrl_eq, readReg_captured hlow hhigh hw], rfl, ?_, fun k hk => ?_⟩
  · exact (SMap.get?_del ..).trans (if_pos rfl)
  · exact (SMap.get?_del ..).trans (if_neg hk)

theorem WritableAt.exec_write_corePrio (h : WritableAt s req addr v l fs) (hx : Alone x) (ha : addr.toNat = Reg.corePrio core) :
    ∃ u, exec (.registerWrite req addr v x) s = .next u ∧ u.rd (Reg.corePrio core) = v.toNat ∧
      (∀ a, a ≠ Reg.corePrio core → u.rd a = s.rd a) ∧ { u with ctrl.regs := s.ctrl.regs } = s := by
  refine ⟨_, by rw [exec_registerWrite_alone hx, h.writeCtrl_corePrio ha], ?_, fun a hne => s.rd_wr_ne _ hne, rfl⟩
  rw [State.rd_wr_same, Nat.mod_eq_of_lt v.isLt]

/-- Both writes pass the checks in the state that the read leaves, and the last in R13's order stays. -/
theorem WritableAt.exec_write_clock (h : WritableAt s req addr v l fs) (h' : WritableAt s req' addr v' l fs) (hr : RegAt s r addr l fs)
    (ha : addr.toNat = Reg.corePrio core) (hreaders : x.readers = [r]) (halso : x.also = [(req', v')]) :
    ∃ u, exec (.registerWrite req addr v x) s = .next u ∧
      u.out = s.out ++ [.readValue addr.toNat (BitVec.ofNat 32 (s.view l fs addr.toNat))] ∧
      u.rd (Reg.corePrio core) = if s.writerRank req' < s.writerRank req then v.toNat else v'.toNat := by
  have hloc := h.corePrio_loc ha
  have hread : s.readCtrl r addr.toNat = s.answers addr (s.view l fs addr.toNat) := by
    rw [hr.readCtrl_eq, readReg_live (by rw [hloc]; rfl) fun hh => by rw [hloc] at hh; cases hh]
  have hafter := h.of_rd_eq (u := s.answers addr (s.view l fs addr.toNat)) ha rfl fun _ _ => rfl
  have hafter' := h'.of_rd_eq (u := s.answers addr (s.view l fs addr.toNat)) ha rfl fun _ _ => rfl
  rw [exec_registerWrite, hreaders, halso, State.clockAccess_two, hread]
  by_cases hrank : s.writerRank req' < s.writerRank req
  · refine ⟨_, by rw [if_pos hrank, hafter'.writeCtrl_twice hafter ha], rfl, ?_⟩
    rw [State.rd_wr_same, if_pos hrank, Nat.mod_eq_of_lt v.isLt]
  · refine ⟨_, by rw [if_neg hrank, hafter.writeCtrl_twice hafter' ha], rfl, ?_⟩
    rw [State.rd_wr_same, if_neg hrank, Nat.mod_eq_of_lt v'.isLt]

theorem WritableAt.exec_write_coreCntCtrl (h : WritableAt s req addr 1#32 l fs) (hx : Alone x)
    (ha : addr.toNat = Reg.coreCntCtrl core) :
    Clears (.registerWrite req addr 1#32 x) s [] [Reg.coreIssue core, Reg.coreYield core, Reg.coreAbusy core] :=
  clears_of_clear64 (by rw [exec_registerWrite_alone hx, h.writeCtrl_coreCntCtrl ha])

theorem WritableAt.exec_write_low (h : WritableAt s req addr v l fs) (hx : Alone x) (hlow : regIsLow l = true)
    (hrw : (fs.any fun f => f.acc == .rw) = true) (hfree : s.wideLocked l = false) :
    exec (.registerWrite req addr v x) s =
      .next { s with ctrl.staged := SMap.put s.ctrl.staged (wideKey req addr.toNat) (BitVec.ofNat 32 v.toNat) } := by
  rw [exec_registerWrite_alone hx, h.writeCtrl_eq, regWrite_wide _ _ (.inl hlow), wideWrite_low _ _ hlow hrw hfree]

theorem WritableAt.exec_write_high_staged {lows : List FieldSpec} {w : Word32} (h : WritableAt s req addr v l fs) (hx : Alone x)
    (hlow : regIsLow l = false) (hhigh : regIsHigh l = true) (hrw : (fs.any fun f => f.acc == .rw) = true)
    (hfree : s.wideLocked l = false) (hlows : regFields l.blk (l.off - 4) = some lows)
    (hw : SMap.get? s.ctrl.staged (wideKey req (addr.toNat - 4)) = some w) :
    ∃ u, exec (.registerWrite req addr v x) s = .next u ∧ SMap.get? u.ctrl.staged (wideKey req (addr.toNat - 4)) = none ∧
      u.rd addr.toNat = written fs (s.rd addr.toNat) v.toNat % 2 ^ 32 ∧
      u.rd (addr.toNat - 4) = written lows (s.rd (addr.toNat - 4)) w.toNat % 2 ^ 32 ∧
      ∀ a, a ≠ addr.toNat → a ≠ addr.toNat - 4 → u.rd a = s.rd a := by
  have hne : addr.toNat ≠ addr.toNat - 4 := by
    have := h.four_le
    omega
  refine ⟨_, by rw [exec_registerWrite_alone hx, h.writeCtrl_eq, regWrite_wide _ _ (.inr hhigh),
    wideWrite_staged _ _ hlow hrw hfree hlows hw], (SMap.get?_del ..).trans (if_pos rfl), ?_, ?_, fun a h1 h2 => ?_⟩
  · rw [State.rd_poke, if_pos rfl, State.rd_poke, if_neg hne]
    rfl
  · rw [State.rd_poke, if_neg hne.symm, State.rd_poke, if_pos rfl]
    rfl
  · rw [State.rd_poke, if_neg h1, State.rd_poke, if_neg h2]
    rfl

theorem WritableAt.exec_write_high_unstaged (h : WritableAt s req addr v l fs) (hx : Alone x)
    (hlow : regIsLow l = false) (hhigh : regIsHigh l = true) (hrw : (fs.any fun f => f.acc == .rw) = true)
    (hfree : s.wideLocked l = false) (hw : SMap.get? s.ctrl.staged (wideKey req (addr.toNat - 4)) = none) :
    exec (.registerWrite req addr v x) s = .next (s.wr addr.toNat (written fs (s.rd addr.toNat) v.toNat)) := by
  rw [exec_registerWrite_alone hx, h.writeCtrl_eq, regWrite_wide _ _ (.inr hhigh), wideWrite_unstaged _ _ hlow hrw hfree hw]
  rfl

end

/-- Settles O39: each clause is the path of one access through the checks, with the law of the table or register that it changes. -/
theorem registerReadsAndWrites : Obligations.RegisterReadsAndWrites := by
  unfold Obligations.RegisterReadsAndWrites
  refine ⟨?live, ?low, ?captured, ?uncaptured, ?readMisaligned, ?readUnassigned, ?fields, ?corePrio, ?oneClock, ?counters,
    ?writeLow, ?writeHigh, ?writeUnstaged, ?writeMisaligned, ?writeUnassigned, ?forbidden⟩
  case live => exact fun _ _ _ _ _ h hlow hhigh => h.exec_read_live hlow fun hh => by rw [hhigh] at hh; cases hh
  case low => exact fun _ _ _ _ _ h => h.exec_read_low
  case captured => exact fun _ _ _ _ _ _ h => h.exec_read_captured
  case uncaptured => exact fun _ _ _ _ _ h hlow _ hnone => h.exec_read_live hlow fun _ => hnone
  case readMisaligned =>
    exact fun req addr s hp hc ha => by rw [exec_reg64LowRead, readCtrl_misaligned hp hc ha]
  case readUnassigned =>
    exact fun req addr s hp hc ha hr hl => by rw [exec_reg64LowRead, readCtrl_unassigned hp hc ha hr hl]
  case fields => exact fun fs old v f hp hf => field_written old v hp hf
  case corePrio => exact fun _ _ _ _ _ _ _ _ h => h.exec_write_corePrio
  case oneClock => exact fun _ _ _ _ _ _ _ _ _ _ _ h => h.exec_write_clock
  case counters => exact fun _ _ _ _ _ _ _ h => h.exec_write_coreCntCtrl
  case writeLow => exact fun _ _ _ _ _ _ _ h => h.exec_write_low
  case writeHigh => exact fun _ _ _ _ _ _ _ _ _ h => h.exec_write_high_staged
  case writeUnstaged => exact fun _ _ _ _ _ _ _ h => h.exec_write_high_unstaged
  case writeMisaligned =>
    exact fun req addr v x s hx hp hc ha => by rw [exec_registerWrite_alone hx, writeCtrl_misaligned hp hc ha]
  case writeUnassigned =>
    exact fun req addr v x s hx hp hc ha hr hl => by rw [exec_registerWrite_alone hx, writeCtrl_unassigned hp hc ha hr hl]
  case forbidden =>
    exact fun req addr v x s l fs hx h hw => by rw [exec_registerWrite_alone hx, h.writeCtrl_forbidden hw]

end Sys2Proof.Machine

/-! # UNIT.QUERY (R27, R29, R185)

The fields of an issued word, the bytes that a write of tensor space leaves, the capability record's length, and what each selector
answers. -/

namespace Sys2Proof.Machine
open Sys2Proof

/-! ## Fields of an issued word -/

/-- A field below the opcode is the body's own (R129). -/
theorem field_issueBits (i : Issue) (op lo w : Nat) (h : lo + w ≤ 56) : field (issueBits i op) lo w = wordField i lo w := by
  have e : issueBits i op = i.body.toNat + 2 ^ lo * (2 ^ w * (op * 2 ^ (56 - (lo + w)))) := by
    have hp : (2 : Nat) ^ 56 = 2 ^ lo * 2 ^ w * 2 ^ (56 - (lo + w)) := by rw [← pow_add, ← pow_add]; congr 1; omega
    rw [issueBits, hp]
    ring
  rw [wordField, field, field, e, Nat.shiftRight_eq_div_pow, Nat.shiftRight_eq_div_pow,
    Nat.add_mul_div_left _ _ (Nat.two_pow_pos lo), Nat.add_mul_mod_self_left]

@[simp] theorem cxOf_sa (i : Issue) (op : Nat) (t : Task) : (cxOf i op t).sa = qRegA i := field_issueBits i op 40 6 (by decide)
@[simp] theorem cxOf_sb (i : Issue) (op : Nat) (t : Task) : (cxOf i op t).sb = qRegB i := field_issueBits i op 34 6 (by decide)
@[simp] theorem cxOf_sd (i : Issue) (op : Nat) (t : Task) : (cxOf i op t).sd = qRegD i := field_issueBits i op 28 6 (by decide)
@[simp] theorem cxOf_qfunc (i : Issue) (op : Nat) (t : Task) : (cxOf i op t).qfunc = qFuncOf i :=
  field_issueBits i op 24 4 (by decide)

theorem Cx.clean_ok {x : Cx} {r : Nat} (kind : Nat) (h : x.t.regPoison r = false) : x.clean kind r = .ok () := by
  rw [Cx.clean, h]
  rfl

/-! ## The bytes that a write of tensor space leaves (R240, R244) -/

/-- The piece lies in the range of `n` bytes from `a`, and its bytes in one page: that of `a`, or one that it begins. -/
structure PieceOf (a n : Nat) (p : Nat × Nat) : Prop where
  low : a ≤ p.1
  high : p.1 + p.2 ≤ a + n
  page : ∀ m, m < p.2 → (p.1 + m) / 4096 = p.1 / 4096
  start : p.1 = a ∨ p.1 / 4096 ≠ a / 4096 ∧ p.1 % 4096 = 0

theorem pieceOf_of_mem {a n : Nat} {p : Nat × Nat} (h : p ∈ pieces a n) : PieceOf a n p := by
  unfold pieces at h
  split at h
  · cases h
  next hn =>
    obtain ⟨i, hi, rfl⟩ := List.mem_map.1 h
    have hi := List.mem_range.1 hi
    simp only [← min_def_lt]
    obtain rfl | h0 := Nat.eq_zero_or_pos i
    · simp only [if_true]
      constructor <;> dsimp only <;> omega
    · simp only [Nat.ne_of_gt h0, if_false]
      constructor <;> dsimp only <;> omega

/-- The pieces cover the range. -/
theorem exists_mem_pieces {a n j : Nat} (h : j < n) : ∃ p ∈ pieces a n, p.1 ≤ a + j ∧ a + j < p.1 + p.2 := by
  have hi : (a + j) / 4096 - a / 4096 < (a + n - 1) / 4096 - a / 4096 + 1 := by omega
  unfold pieces
  rw [if_neg (by omega)]
  refine ⟨_, List.mem_map_of_mem (List.mem_range.2 hi), ?_⟩
  dsimp only
  split <;> split <;> omega

/-- Each byte of a piece lies where the write's page-by-page layout puts it. -/
theorem PieceOf.byteKey_eq {a n : Nat} {p : Nat × Nat} (h : PieceOf a n p) (s : State) (c : Nat) {m : Nat} (hm : m < p.2) :
    s.byteKey c a (p.1 - a + m) = s.key c p.1 + m := by
  have hlow := h.low
  have hpage := h.page m hm
  have e : a + (p.1 - a + m) = p.1 + m := by omega
  unfold State.byteKey
  rw [e, hpage]
  rcases h.start with hs | ⟨hne, hal⟩
  · rw [hs, if_pos rfl]
    omega
  · have e1 : p.1 / 4096 * 4096 = p.1 := by omega
    have e2 : (p.1 + m) % 4096 = m := by omega
    rw [if_neg hne, e1, e2]

/-- Memory after one piece of a write of `bs` at `a`. -/
def State.storePiece (s : State) (c a : Nat) (bs : List Byte) (pz : Nat → Bool) (m : Memory) (p : Nat × Nat) : Memory :=
  m.store (s.key c p.1) ((bs.drop (p.1 - a)).take p.2) fun q => pz (p.1 / 64 + (q - s.key c p.1 / 64))

/-- A write of tensor space changes memory alone: piece by piece, at keys that do not depend on memory. -/
theorem State.twrite_eq (s : State) (c a : Nat) (bs : List Byte) (pz : Nat → Bool) :
    s.twrite c a bs pz = { s with mem := (pieces a bs.length).foldl (s.storePiece c a bs pz) s.mem } := by
  unfold State.twrite
  generalize pieces a bs.length = ps
  induction ps generalizing s with
  | nil => rfl
  | cons p ps ih => exact ih _

theorem State.byte_storePiece (s : State) (c : Nat) {a : Nat} {bs : List Byte} (pz : Nat → Bool) (m : Memory) {p : Nat × Nat}
    (h : PieceOf a bs.length p) (k : Nat) :
    (s.storePiece c a bs pz m p).byte k =
      if s.key c p.1 ≤ k ∧ k < s.key c p.1 + p.2 then bs.getD (p.1 - a + (k - s.key c p.1)) 0#8 else m.byte k := by
  have hlow := h.low
  have hhigh := h.high
  have hlen : ((bs.drop (p.1 - a)).take p.2).length = p.2 := by rw [List.length_take, List.length_drop]; omega
  rw [State.storePiece, Memory.byte_store, hlen]
  split
  · next hk =>
    have hlt : k - s.key c p.1 < p.2 := by omega
    simp [List.getD_eq_getElem?_getD, hlt, Memory.unwritten]
  · rfl

/-- After any pieces of a write a byte lies in none of them and is as before, or holds a byte of the data that belongs there. -/
theorem State.byte_foldl_storePiece (s : State) (c a : Nat) (bs : List Byte) (pz : Nat → Bool) (k : Nat) :
    ∀ (ps : List (Nat × Nat)) (m : Memory), (∀ p ∈ ps, PieceOf a bs.length p) →
    (∃ j, j < bs.length ∧ s.byteKey c a j = k ∧ (ps.foldl (s.storePiece c a bs pz) m).byte k = bs.getD j 0#8) ∨
    (∀ p ∈ ps, ¬ (s.key c p.1 ≤ k ∧ k < s.key c p.1 + p.2)) ∧ (ps.foldl (s.storePiece c a bs pz) m).byte k = m.byte k
  | [], _, _ => .inr ⟨by simp, rfl⟩
  | p :: ps, m, h => by
    obtain ⟨hp, hps⟩ := List.forall_mem_cons.1 h
    rw [List.foldl_cons]
    rcases State.byte_foldl_storePiece s c a bs pz k ps (s.storePiece c a bs pz m p) hps with hj | ⟨hout, he⟩
    · exact .inl hj
    · rw [s.byte_storePiece c pz m hp] at he
      split at he
      · next hk =>
        obtain ⟨hlow, hhigh⟩ := And.intro hp.low hp.high
        refine .inl ⟨p.1 - a + (k - s.key c p.1), by omega, ?_, he⟩
        rw [hp.byteKey_eq s c (by omega)]
        omega
      · next hk => exact .inr ⟨List.forall_mem_cons.2 ⟨hk, hout⟩, he⟩

/-- A write leaves every byte that none of its own bytes lies at. -/
theorem State.byte_twrite_out (s : State) (c a : Nat) (bs : List Byte) (pz : Nat → Bool) {k : Nat}
    (h : ∀ j, j < bs.length → s.byteKey c a j ≠ k) : (s.twrite c a bs pz).mem.byte k = s.mem.byte k := by
  rw [State.twrite_eq]
  rcases s.byte_foldl_storePiece c a bs pz k _ s.mem fun _ => pieceOf_of_mem with ⟨j, hj, hk, _⟩ | ⟨_, he⟩
  · exact absurd hk (h j hj)
  · exact he

/-- Where no two bytes of a write lie at one place, each byte reads as written. -/
theorem State.byte_twrite_in (s : State) (c a : Nat) (bs : List Byte) (pz : Nat → Bool) {j : Nat}
    (hinj : ∀ j k, j < bs.length → k < bs.length → s.byteKey c a j = s.byteKey c a k → j = k) (hj : j < bs.length) :
    (s.twrite c a bs pz).mem.byte (s.byteKey c a j) = bs.getD j 0#8 := by
  rw [State.twrite_eq]
  rcases s.byte_foldl_storePiece c a bs pz (s.byteKey c a j) _ s.mem fun _ => pieceOf_of_mem with ⟨i, hi, hk, he⟩ | ⟨hout, _⟩
  · rw [← hinj i j hi hj hk]
    rw [← hinj i j hi hj hk] at he
    exact he
  · obtain ⟨p, hp, hlow, hhigh⟩ := exists_mem_pieces (a := a) hj
    have hpa := (pieceOf_of_mem hp).low
    have hkey := (pieceOf_of_mem hp).byteKey_eq s c (m := a + j - p.1) (by omega)
    rw [show p.1 - a + (a + j - p.1) = j by omega] at hkey
    exact absurd ⟨by omega, by omega⟩ (hout p hp)

theorem State.modTask_with_mem (s : State) (m : Memory) (core slot : Nat) (f : Task → Task) :
    ({ s with mem := m } : State).modTask core slot f = { s.modTask core slot f with mem := m } := by
  have e : ({ s with mem := m } : State).task? core slot = s.task? core slot := rfl
  unfold State.modTask
  rw [e]
  split <;> rfl

theorem State.put64_with_mem (s : State) (m : Memory) (addr v : Nat) :
    ({ s with mem := m } : State).put64 addr v = { s.put64 addr v with mem := m } := rfl

theorem State.wrap64_with_mem (s : State) (m : Memory) (addr n : Nat) :
    ({ s with mem := m } : State).wrap64 addr n = { s.wrap64 addr n with mem := m } := by
  have e : ({ s with mem := m } : State).get64 addr = s.get64 addr := rfl
  rw [State.wrap64, State.wrap64, e, State.put64_with_mem]

theorem State.noteIssue_with_mem (s : State) (m : Memory) (core slot : Nat) :
    ({ s with mem := m } : State).noteIssue core slot = { s.noteIssue core slot with mem := m } := by
  have e : ({ s with mem := m } : State).prioOf core slot = s.prioOf core slot := rfl
  unfold State.noteIssue
  rw [e, State.wrap64_with_mem]

/-- A retirement neither reads nor writes memory. -/
theorem State.retire_with_mem (s : State) (m : Memory) (i : Issue) (ext : Bool) :
    ({ s with mem := m } : State).retire i ext = { s.retire i ext with mem := m } := by
  rw [State.retire, State.modTask_with_mem, State.noteIssue_with_mem]
  rfl

theorem State.retire_mem (s : State) (i : Issue) (ext : Bool) : (s.retire i ext).mem = s.mem := by
  have h := congrArg State.mem (s.retire_with_mem s.mem i ext)
  exact h

/-! ## The capability record (R29 to R31) -/

@[simp] theorem length_leBytes : ∀ k n : Nat, (leBytes k n).length = k
  | 0, _ => rfl
  | k + 1, n => congrArg (· + 1) (length_leBytes k (n / 256))

@[simp] theorem length_capEntry (code : Nat) : (capEntry code).length = 16 := by
  unfold capEntry
  split
  · exact List.length_replicate
  · simp

/-- The record is 512 bytes long (R29). -/
theorem Context.length_caps (x : Context) : x.caps.length = 512 := by
  delta Context.caps
  simp only [List.length_append, length_leBytes, List.length_flatMap, length_capEntry, List.map_const',
    List.length_range, List.sum_replicate]
  rfl

/-! ## Mapped addresses (R240 to R243) -/

section
variable {s u : State}

theorem State.apertureTable_congr (hctxs : u.ctxs = s.ctxs) (hregs : u.ctrl.regs = s.ctrl.regs) (c : Nat) :
    u.apertureTable c = s.apertureTable c := by
  have hctx : u.ctx c = s.ctx c := by rw [State.ctx, State.ctx, hctxs]
  have hbase : u.get64 (Reg.migAptBase c) = s.get64 (Reg.migAptBase c) := by simp only [State.get64, State.rd, hregs]
  rw [State.apertureTable, State.apertureTable, hctx, hbase]

/-- The definition is unfolded as a function, before it has its arguments: where the kernel compares it with its body it would otherwise
evaluate the table that the body matches on. -/
theorem State.aperture_congr (htable : ∀ c, u.apertureTable c = s.apertureTable c) (hmem : u.mem = s.mem) (c n : Nat) :
    u.aperture c n = s.aperture c n := by
  have body : ∀ f, f = @State.aperture → f u c n = f s c n := by
    intro f hf
    delta State.aperture at hf
    rw [hf]
    beta_reduce
    rw [htable, hmem]
  exact body _ rfl

theorem State.place_congr (hctxs : u.ctxs = s.ctxs) (hregs : u.ctrl.regs = s.ctrl.regs) (hmem : u.mem = s.mem) (c a : Nat) :
    u.place c a = s.place c a := by
  have hctx : u.ctx c = s.ctx c := by rw [State.ctx, State.ctx, hctxs]
  have hapt : u.aperture c = s.aperture c :=
    funext (State.aperture_congr (State.apertureTable_congr hctxs hregs) hmem c)
  rw [State.place, State.place, hctx, hapt]

/-- Which addresses are mapped is read from contexts, control registers and memory alone. -/
theorem State.mapped_congr (hctxs : u.ctxs = s.ctxs) (hregs : u.ctrl.regs = s.ctrl.regs) (hmem : u.mem = s.mem) (c a n : Nat) :
    u.mapped c a n = s.mapped c a n := by
  have hplace : u.place c = s.place c := funext (State.place_congr hctxs hregs hmem c)
  rw [State.mapped, State.mapped, hplace]

end

theorem State.mapped_turn (s : State) (i : Issue) (c a n : Nat) : (s.turn i).mapped c a n = s.mapped c a n :=
  have hctxs : (s.turn i).ctxs = s.ctxs := rfl
  have hregs : (s.turn i).ctrl.regs = s.ctrl.regs := rfl
  have hmem : (s.turn i).mem = s.mem := rfl
  State.mapped_congr hctxs hregs hmem c a n

/-! ## What each selector answers (R185) -/

section
variable {x : Cx} {s : State}

theorem unitQueryBody_self (h : x.qfunc = 0) :
    unitQueryBody x s = .ok (.retire (x.putS s x.sd ((s.ctx x.c).selfHandle x.t.leaf) false)) := by simp only [unitQueryBody, h]
theorem unitQueryBody_parent (h : x.qfunc = 1) : unitQueryBody x s = x.query s fun k u => some (k.parentOf u) := by
  simp only [unitQueryBody, h]
theorem unitQueryBody_child (h : x.qfunc = 2) : unitQueryBody x s = x.query s fun k u => k.child u (x.s x.sb) := by
  simp only [unitQueryBody, h]
theorem unitQueryBody_dims (h : x.qfunc = 3) :
    unitQueryBody x s = x.query s fun _ u => some (u.d0 + u.d1 * 2 ^ 21 + u.d2 * 2 ^ 42) := by simp only [unitQueryBody, h]
theorem unitQueryBody_index (h : x.qfunc = 4) :
    unitQueryBody x s = x.query s fun _ u => some (u.childIndex + u.depth * 2 ^ 32) := by simp only [unitQueryBody, h]
theorem unitQueryBody_leaf (h : x.qfunc = 5) : unitQueryBody x s = .ok (.retire (x.putS s x.sd x.t.leaf false)) := by
  simp only [unitQueryBody, h]
theorem unitQueryBody_leaves (h : x.qfunc = 6) : unitQueryBody x s = x.query s fun _ u => some u.leaves := by
  simp only [unitQueryBody, h]
theorem unitQueryBody_caps (h : x.qfunc = 7) : unitQueryBody x s = x.queryCaps s := by simp only [unitQueryBody, h]

/-- A selector whose handle names a unit, and whose operands are clean, writes its value. -/
theorem Cx.query_ok {f : Context → UnitNode → Option Nat} {k : Context} {u : UnitNode} {v : Nat}
    (hu : s.unit? x.c (x.s x.sa) = some (k, u)) (hf : f k u = some v) (ha : x.t.regPoison x.sa = false)
    (hb : x.qfunc = 2 → x.t.regPoison x.sb = false) : x.query s f = .ok (.retire (x.putS s x.sd v false)) := by
  unfold Cx.query
  simp only [hu, hf, Cx.clean_ok 6 ha]
  by_cases h2 : x.qfunc = 2
  · simp only [h2, Cx.clean_ok 2 (hb h2)]
    rfl
  · have h2 : (x.qfunc == 2) = false := by simpa using h2
    rw [h2]
    rfl

/-- CAPS with an address that the record fits at, and that is clean, writes the record there. -/
theorem Cx.queryCaps_ok (hal : x.s x.sa % 64 = 0) (hlow : inT0 (x.s x.sa) = true) (hhigh : inT0 (x.s x.sa + 511) = true)
    (hmap : s.mapped x.c (x.s x.sa) 512 = true) (ha : x.t.regPoison x.sa = false) :
    x.queryCaps s = .ok (.retire (s.twrite x.c (x.s x.sa) (s.ctx x.c).caps fun _ => false)) := by
  unfold Cx.queryCaps
  simp only [hal, hlow, hhigh, hmap, Cx.clean_ok 1 ha]
  rfl

end

theorem Context.selfHandle_of_find {k : Context} {leaf : Nat} {u : UnitNode}
    (h : (k.units.find? fun v => !v.casement && v.leaf == leaf) = some u) : k.selfHandle leaf = u.handle := by
  rw [Context.selfHandle, h]

theorem Context.parentOf_root (k : Context) {u : UnitNode} (h : u.parent = none) : k.parentOf u = 0 := by
  rw [Context.parentOf, h]

theorem Context.parentOf_child {k : Context} {u v : UnitNode} {p : Nat} (h : u.parent = some p) (hv : k.units[p]? = some v) :
    k.parentOf u = v.handle := by
  simp only [Context.parentOf, h, hv]

section
variable {i : Issue} {s : State} {t : Task}

theorem exec_unitQuery (i : Issue) (s : State) : exec (.unitQuery i) s = issue unitQuerySpec unitQueryBody i s := rfl

/-- A body that ends with a number in SD gives that number. -/
theorem queryGives_of_body {v : Nat} (h : Executes unitQuerySpec i s t)
    (hb : unitQueryBody (cxOf i 0x84 t) (s.turn i) =
      .ok (.retire ((cxOf i 0x84 t).putS (s.turn i) (cxOf i 0x84 t).sd v false))) : queryGives i s t v := by
  rw [cxOf_sd] at hb
  exact issue_task h unitQueryBody (fun t => t.setReg (qRegD i) (BitVec.ofNat 64 v) false) hb

/-- A selector of a unit gives what its body reads of the unit that SA names. -/
theorem queryGives_of_query {f : Context → UnitNode → Option Nat} {k : Context} {u : UnitNode} {v : Nat}
    (h : Executes unitQuerySpec i s t) (hu : s.unit? t.ctx (t.reg (qRegA i)).toNat = some (k, u))
    (ha : t.regPoison (qRegA i) = false) (hb : qFuncOf i = 2 → t.regPoison (qRegB i) = false)
    (hbody : unitQueryBody (cxOf i 0x84 t) (s.turn i) = (cxOf i 0x84 t).query (s.turn i) f) (hf : f k u = some v) :
    queryGives i s t v := by
  refine queryGives_of_body h (hbody.trans (Cx.query_ok (k := k) (u := u) ?_ hf ?_ ?_))
  · rw [cxOf_sa]
    exact hu
  · rwa [cxOf_sa]
  · rwa [cxOf_sb, cxOf_qfunc]

/-- CAPS retires with the record written at the address that SA holds. -/
theorem exec_unitQuery_caps (h : Executes unitQuerySpec i s t) (hq : qFuncOf i = 7) (hal : (t.reg (qRegA i)).toNat % 64 = 0)
    (hlow : inT0 (t.reg (qRegA i)).toNat = true) (hhigh : inT0 ((t.reg (qRegA i)).toNat + 511) = true)
    (hmap : s.mapped t.ctx (t.reg (qRegA i)).toNat 512 = true) (ha : t.regPoison (qRegA i) = false) :
    exec (.unitQuery i) s =
      .next (((s.turn i).twrite t.ctx (t.reg (qRegA i)).toNat (s.ctx t.ctx).caps fun _ => false).retire i false) := by
  have hs : (cxOf i 0x84 t).s (cxOf i 0x84 t).sa = (t.reg (qRegA i)).toNat := by rw [cxOf_sa]; rfl
  rw [← hs] at hal hlow hhigh hmap ⊢
  have hb := (unitQueryBody_caps (s := s.turn i) ((cxOf_qfunc i 0x84 t).trans hq)).trans
    (Cx.queryCaps_ok hal hlow hhigh ((s.mapped_turn i ..).trans hmap) (by rwa [cxOf_sa]))
  exact issue_retire h unitQueryBody hb (poisonLeaves_same _ _ (by rw [State.twrite_eq]; rfl))

end

/-- Settles O15: a selector of a unit reads the unit that SA names, SELF and LEAF the task's own; CAPS is one write of tensor space,
whose bytes lie page by page. -/
theorem unitQuerySelectors : Obligations.UnitQuerySelectors := by
  unfold Obligations.UnitQuerySelectors
  refine ⟨?self, ?leaf, ?unit, ?caps⟩
  case self =>
    intro i s t u h hq hu
    rw [← Context.selfHandle_of_find hu]
    exact queryGives_of_body h (unitQueryBody_self ((cxOf_qfunc ..).trans hq))
  case leaf => exact fun i s t h hq => queryGives_of_body h (unitQueryBody_leaf ((cxOf_qfunc ..).trans hq))
  case unit =>
    intro i s t k u h hu ha
    have gives {n : Nat} (hq : qFuncOf i = n) (hn : n ≠ 2) {f : Context → UnitNode → Option Nat} {v : Nat} :=
      queryGives_of_query (f := f) (v := v) h hu ha fun h2 => absurd (hq.symm.trans h2) hn
    refine ⟨fun hq hr => ?root, fun p v hq hp hv => ?parent, fun c hq hc hb => ?child, fun hq => ?dims, fun hq => ?index,
      fun hq => ?leaves⟩
    case root =>
      exact gives hq (by decide) (unitQueryBody_parent ((cxOf_qfunc ..).trans hq)) (congrArg some (k.parentOf_root hr))
    case parent =>
      exact gives hq (by decide) (unitQueryBody_parent ((cxOf_qfunc ..).trans hq))
        (congrArg some (Context.parentOf_child hp hv))
    case child =>
      refine queryGives_of_query h hu ha (fun _ => hb) (unitQueryBody_child ((cxOf_qfunc ..).trans hq)) ?_
      rw [cxOf_sb]
      exact hc
    case dims => exact gives hq (by decide) (unitQueryBody_dims ((cxOf_qfunc ..).trans hq)) rfl
    case index => exact gives hq (by decide) (unitQueryBody_index ((cxOf_qfunc ..).trans hq)) rfl
    case leaves => exact gives hq (by decide) (unitQueryBody_leaves ((cxOf_qfunc ..).trans hq)) rfl
  case caps =>
    intro i s t h hq hal hlow hhigh hmap ha
    have hlen := (s.ctx t.ctx).length_caps
    refine ⟨_, exec_unitQuery_caps h hq hal hlow hhigh hmap ha, ?frame, fun k hk => ?outside, fun hinj j hj => ?inside⟩
    case frame =>
      rw [State.twrite_eq, State.retire_with_mem]
      exact ((s.turn i).retire_with_mem s.mem i false).symm
    case outside =>
      rw [State.retire_mem]
      exact (s.turn i).byte_twrite_out _ _ _ _ (by rw [hlen]; exact hk)
    case inside =>
      rw [State.retire_mem]
      exact (s.turn i).byte_twrite_in _ _ _ _ (by rw [hlen]; exact hinj) (hlen ▸ hj)

end Sys2Proof.Machine

/-! # Regions (R535, R536, R538 to R541, R544, R552)

What one change of a region's state leaves and sets, EN by the state in which it finds its region, and the setpoint of a region that powers up. -/

namespace Sys2Proof.Machine
open Sys2Proof

/-! ## A write that goes through -/

/-- A write of a register that is accepted is its effect, with nothing counted (R12). -/
theorem State.write_of_accepts {s : State} {req : Requester} {addr v : Nat} (h : s.accepts req addr v = true) (f : State → State) :
    s.write req addr v f = f s := by
  unfold State.accepts at h
  rw [Bool.and_eq_true, Bool.and_eq_true, Bool.and_eq_true, beq_iff_eq, Bool.not_eq_true'] at h
  obtain ⟨⟨⟨hpower, hclock⟩, hpath⟩, hreg⟩ := h
  unfold State.write
  rw [if_neg (by simp [hpower, hclock]), if_neg (by simp [hpath])]
  cases hl : locate addr with
  | none => simp [hl] at hreg
  | some l =>
    cases hf : regFields l.blk l.off with
    | none => simp [hl, hf] at hreg
    | some fs =>
      simp only [hl, hf, Bool.and_eq_true, Bool.not_eq_true'] at hreg
      simp [hf, hreg.1, hreg.2]

/-! ## Registers of regions -/

/-- Two states agree on the registers of every block but number `b` of R590. -/
def SameRegsBut (b : Nat) (s u : State) : Prop := ∀ a, blockNumber a ≠ b → u.rd a = s.rd a

theorem SameRegsBut.of_ctrl {b : Nat} {s u : State} (h : u.ctrl = s.ctrl) : SameRegsBut b s u := fun a _ => by
  unfold State.rd
  rw [h]

theorem SameRegsBut.trans {b : Nat} {s u w : State} (h : SameRegsBut b s u) (k : SameRegsBut b u w) : SameRegsBut b s w :=
  fun a ha => (k a ha).trans (h a ha)

theorem SameRegsBut.put {b : Nat} {s u : State} (h : SameRegsBut b s u) (f : Fld) (v : Nat) (hf : blockNumber f.addr = b) :
    SameRegsBut b s (u.put f v) := fun a ha => by
  rw [State.rd_put_ne u f v fun e => ha ((congrArg blockNumber e).trans hf)]
  exact h a ha

theorem SameRegsBut.get {b : Nat} {s u : State} (h : SameRegsBut b s u) (f : Fld) (hf : blockNumber f.addr ≠ b) : u.get f = s.get f := by
  unfold State.get
  rw [h _ hf]

theorem SameRegsBut.foldl {b : Nat} {α : Type} {f : State → α → State} (hf : ∀ u x, SameRegsBut b u (f u x)) :
    ∀ (l : List α) (s : State), SameRegsBut b s (l.foldl f s)
  | [], _ => fun _ _ => rfl
  | x :: l, s => (hf s x).trans (SameRegsBut.foldl hf l (f s x))

/-- The block of every region's registers (R590). -/
def pwrBlock : Nat := 1

theorem blockNumber_pwrRCtrl (r : Nat) : blockNumber (Reg.pwrRCtrl r) = pwrBlock := by
  simp only [Reg.pwrRCtrl, Block.base, Nat.add_assoc]
  exact blockNumber_blockBase _ 1 (by decide) (by omega)

theorem blockNumber_pwrRStat (r : Nat) : blockNumber (Reg.pwrRStat r) = pwrBlock := by
  simp only [Reg.pwrRStat, Block.base, Nat.add_assoc]
  exact blockNumber_blockBase _ 1 (by decide) (by omega)

theorem pwrRStat_ne_pwrRCtrl (q r : Nat) : Reg.pwrRStat q ≠ Reg.pwrRCtrl r := by
  simp only [Reg.pwrRStat, Reg.pwrRCtrl, Block.base, blockBase]
  omega

/-! ## A region's state beside EN and PENDING_ON -/

@[simp] theorem State.regState_put_en (s : State) (r q v : Nat) : (s.put (Fld.pwrRCtrlEn r) v).regState q = s.regState q :=
  State.get_put_ne s _ _ v (pwrRStat_ne_pwrRCtrl q r)

@[simp] theorem State.regState_put_pendingOn (s : State) (r q v : Nat) :
    (s.put (Fld.pwrRStatPendingOn r) v).regState q = s.regState q :=
  State.get_put_beside s _ _ v (le_refl 32) (.inr (by decide : 0 + 3 ≤ 31))

@[simp] theorem State.ramping_put_en (s : State) (r v : Nat) : (s.put (Fld.pwrRCtrlEn r) v).ramping = s.ramping := by
  unfold State.ramping
  simp only [State.regState_put_en]

theorem State.powered_eq (s : State) (r : Nat) : s.powered r = (s.regState r == regRamping || s.regState r == regOn) := rfl

/-! ## A region changes its state (R538, R539) -/

/-- Of the state, a region that enters a state changes the setpoints alone. -/
theorem State.vcoreEnter_frame (s : State) (r st : Nat) : ∃ m, s.vcoreEnter r st = { s with pwr.vcore := m } := by
  unfold State.vcoreEnter State.vcoreStart
  split
  · split
    · exact ⟨_, rfl⟩
    · split <;> exact ⟨_, rfl⟩
  · exact ⟨_, rfl⟩

theorem State.vcoreEnter_mem (s : State) (r st : Nat) : (s.vcoreEnter r st).mem = s.mem := by
  obtain ⟨m, hm⟩ := s.vcoreEnter_frame r st
  rw [hm]

theorem State.vcoreEnter_tick (s : State) (r st : Nat) : (s.vcoreEnter r st).tick = s.tick := by
  obtain ⟨m, hm⟩ := s.vcoreEnter_frame r st
  rw [hm]

theorem State.vcoreEnter_ctrl (s : State) (r st : Nat) : (s.vcoreEnter r st).ctrl = s.ctrl := by
  obtain ⟨m, hm⟩ := s.vcoreEnter_frame r st
  rw [hm]

/-- What `regEnter` does before it reports the pace. -/
theorem State.regEnter_eq (s : State) (r st : Nat) : s.regEnter r st =
    (({ s.vcoreEnter r st with pwr.floorAt := SMap.del s.pwr.floorAt r } : State).put (Fld.pwrRStatState r) st).paceReport r := rfl

theorem State.regEnter_regState (s : State) (r : Nat) {st : Nat} (h : st < 8) : (s.regEnter r st).regState r = st := by
  rw [State.regEnter_eq]
  refine (State.get_put_beside _ (Fld.pwrRStatPace r) (Fld.pwrRStatState r) _ (by decide : 24 + 5 ≤ 32) (.inr (by decide : 0 + 3 ≤ 24))).trans ?_
  exact (State.get_put_same _ (Fld.pwrRStatState r) st (by decide : 0 + 3 ≤ 32)).trans (Nat.mod_eq_of_lt h)

/-- PACE is 0 in every state but ON (R538). -/
theorem State.regEnter_pace (s : State) (r : Nat) {st : Nat} (h : st < 8) (hon : st ≠ regOn) :
    (s.regEnter r st).get (Fld.pwrRStatPace r) = 0 := by
  rw [State.regEnter_eq]
  generalize ({ s.vcoreEnter r st with pwr.floorAt := SMap.del s.pwr.floorAt r } : State) = w
  have hst : (w.put (Fld.pwrRStatState r) st).regState r = st :=
    (State.get_put_same w (Fld.pwrRStatState r) st (by decide : 0 + 3 ≤ 32)).trans (Nat.mod_eq_of_lt h)
  unfold State.paceReport
  rw [hst, if_neg (by simpa using hon)]
  exact State.get_put_same _ (Fld.pwrRStatPace r) 0 (by decide : 24 + 5 ≤ 32)

theorem State.regEnter_mem (s : State) (r st : Nat) : (s.regEnter r st).mem = s.mem := by
  rw [State.regEnter_eq, State.paceReport, State.put_mem, State.put_mem]
  exact s.vcoreEnter_mem r st

theorem State.regEnter_tick (s : State) (r st : Nat) : (s.regEnter r st).tick = s.tick := by
  rw [State.regEnter_eq, State.paceReport, State.put_tick, State.put_tick]
  exact s.vcoreEnter_tick r st

theorem State.regEnter_pwr_vcore (s : State) (r st : Nat) : (s.regEnter r st).pwr.vcore = (s.vcoreEnter r st).pwr.vcore := rfl

theorem State.regEnter_sameRegs (s : State) (r st : Nat) : SameRegsBut pwrBlock s (s.regEnter r st) := by
  rw [State.regEnter_eq]
  exact ((SameRegsBut.of_ctrl (s.vcoreEnter_ctrl r st)).put _ _ (blockNumber_pwrRStat r)).put _ _ (blockNumber_pwrRStat r)

/-! ## The VCORE setpoint (R535) -/

theorem State.vcore_of_down {s : State} {r : Nat} (h : s.powered r = false) : s.vcore r = none := by
  simp [State.vcore, h]

theorem State.vcore_of_powered {s : State} {r : Nat} (h : s.powered r = true) : s.vcore r =
    some ((SMap.get? s.pwr.vcore r).elim (vcoreAt (s.get Fld.timStatusDiv)) fun v => v.now s.tick) := by
  unfold State.vcore
  rw [h]
  cases SMap.get? s.pwr.vcore r <;> rfl

theorem Vcore.now_settled (v at_ tick : Nat) : (Vcore.mk v v at_).now tick = v := by
  simp [Vcore.now]

theorem State.vcoreStart_armed {s : State} (r : Nat) (ha : s.flag Fld.timStatusDivArmed = true) (hn : s.get Fld.timCtrlDivNext = 0) :
    SMap.get? (s.vcoreStart r).pwr.vcore r = some ⟨750, 750, s.tick⟩ := by
  unfold State.vcoreStart
  rw [if_pos (by simp [ha, hn])]
  exact SMap.get?_put_same _ r _

theorem State.vcoreStart_unarmed {s : State} (r : Nat) (h : s.flag Fld.timStatusDivArmed = false ∨ s.get Fld.timCtrlDivNext ≠ 0) :
    SMap.get? (s.vcoreStart r).pwr.vcore r = none := by
  unfold State.vcoreStart
  rw [if_neg (by rcases h with h | h <;> simp [h])]
  exact (SMap.get?_del _ r r).trans (if_pos rfl)

/-- A region that begins to ramp has the setpoint from which it starts. -/
theorem State.vcore_regEnter_ramping {s : State} {r : Nat} (h : s.powered r = false) : (s.regEnter r regRamping).vcore r =
    some ((SMap.get? (s.vcoreStart r).pwr.vcore r).elim (vcoreAt (s.get Fld.timStatusDiv)) fun v => v.now s.tick) := by
  have hp : (s.regEnter r regRamping).powered r = true := by
    rw [State.powered_eq, State.regEnter_regState s r (by decide)]
    rfl
  have hv : (s.regEnter r regRamping).pwr.vcore = (s.vcoreStart r).pwr.vcore := by
    rw [State.regEnter_pwr_vcore, State.vcoreEnter, h]
    rfl
  rw [State.vcore_of_powered hp, hv, State.regEnter_tick, (s.regEnter_sameRegs r regRamping).get Fld.timStatusDiv (by decide)]

theorem State.vcore_regEnter_down (s : State) (r : Nat) {st : Nat} (h : st < 8) (hon : st ≠ regOn) (hramp : st ≠ regRamping) :
    (s.regEnter r st).vcore r = none := by
  apply State.vcore_of_down
  rw [State.powered_eq, State.regEnter_regState s r h]
  simp [hon, hramp]

/-! ## EN (R539 to R541, R552) -/

theorem rampsNow_iff (s : State) (r : Nat) :
    (s.regState r == regOff && !s.pwr.offWait.contains r && decide (s.ramping < 16)) = true ↔ RampsNow s r := by
  rw [Bool.and_eq_true, Bool.and_eq_true, beq_iff_eq, Bool.not_eq_true', decide_eq_true_eq]
  exact ⟨fun ⟨⟨hoff, hwait⟩, hturn⟩ => ⟨hoff, hwait, hturn⟩, fun h => ⟨⟨h.off, h.waited⟩, h.turn⟩⟩

theorem rampsNow_put_en (s : State) (r v : Nat) : RampsNow (s.put (Fld.pwrRCtrlEn r) v) r ↔ RampsNow s r := by
  rw [← rampsNow_iff, ← rampsNow_iff, State.regState_put_en, State.ramping_put_en, State.put_pwr]

theorem State.regWant_of_rampsNow {s : State} {r : Nat} (h : RampsNow s r) : s.regWant r = s.regEnter r regRamping :=
  if_pos ((rampsNow_iff s r).2 h)

theorem State.regWant_of_not_rampsNow {s : State} {r : Nat} (h : ¬RampsNow s r) : s.regWant r = s.put (Fld.pwrRStatPendingOn r) 1 :=
  if_neg (mt (rampsNow_iff s r).1 h)

theorem State.enSet_eq (s : State) (r : Nat) : s.enSet r =
    if s.regState r == regOff || s.regState r == regShutting then (s.put (Fld.pwrRCtrlEn r) 1).regWant r
    else s.put (Fld.pwrRCtrlEn r) 1 := by
  simp only [State.enSet, State.regState_put_en]

theorem State.enSet_of_down {s : State} {r : Nat} (h : s.regState r = regOff ∨ s.regState r = regShutting) :
    s.enSet r = (s.put (Fld.pwrRCtrlEn r) 1).regWant r := by
  rw [State.enSet_eq, if_pos (by simpa using h)]

theorem State.enSet_of_powered {s : State} {r : Nat} (h : s.regState r = regOn ∨ s.regState r = regRamping) :
    s.enSet r = s.put (Fld.pwrRCtrlEn r) 1 := by
  rw [State.enSet_eq, if_neg (by rcases h with h | h <;> simp [h, regOn, regRamping, regOff, regShutting])]

/-- EN of a region that cannot ramp at once latches PENDING_ON (R540, R541). -/
theorem State.enSet_pends {s : State} {r : Nat} (h : s.regState r = regOff ∨ s.regState r = regShutting) (hn : ¬RampsNow s r) :
    s.enSet r = (s.put (Fld.pwrRCtrlEn r) 1).put (Fld.pwrRStatPendingOn r) 1 := by
  rw [State.enSet_of_down h, State.regWant_of_not_rampsNow (mt (rampsNow_put_en s r 1).1 hn)]

theorem State.enClear_eq (s : State) (r : Nat) : s.enClear r =
    if s.regState r == regOn || s.regState r == regRamping then
      (((s.put (Fld.pwrRCtrlEn r) 0).put (Fld.pwrRStatPendingOn r) 0).regEnter r regShutting).rampNext
    else (s.put (Fld.pwrRCtrlEn r) 0).put (Fld.pwrRStatPendingOn r) 0 := by
  simp only [State.enClear, State.regState_put_en, State.regState_put_pendingOn]

theorem State.enClear_of_powered {s : State} {r : Nat} (h : s.regState r = regOn ∨ s.regState r = regRamping) :
    s.enClear r = (((s.put (Fld.pwrRCtrlEn r) 0).put (Fld.pwrRStatPendingOn r) 0).regEnter r regShutting).rampNext := by
  rw [State.enClear_eq, if_pos (by simpa using h)]

theorem State.enClear_of_down {s : State} {r : Nat} (h : s.regState r = regOff ∨ s.regState r = regShutting) :
    s.enClear r = (s.put (Fld.pwrRCtrlEn r) 0).put (Fld.pwrRStatPendingOn r) 0 := by
  rw [State.enClear_eq, if_neg (by rcases h with h | h <;> simp [h, regOn, regRamping, regOff, regShutting])]

theorem State.pwrCtrl_set {s : State} {r : Nat} (req : Requester) (h : s.regState r ≠ regSagged) : s.pwrCtrl req r 1 = s.enSet r :=
  if_neg (by simpa using h)

theorem State.pwrCtrl_clear {s : State} {r : Nat} (req : Requester) (h : s.regState r ≠ regSagged) :
    s.pwrCtrl req r 0 = if r % 6 = 5 then (s.enClear r).paneOut (r / 6) else s.enClear r := by
  refine (if_neg (by simpa using h)).trans ?_
  by_cases h5 : r % 6 = 5 <;> simp [h5, bitAt]

theorem State.pwrCtrl_sagged {s : State} {r : Nat} (req : Requester) (v : Nat) (h : s.regState r = regSagged) :
    s.pwrCtrl req r v = if bitAt v 0 then s.misuse req else s := if_pos (by simpa using h)

theorem ne_regSagged {st : Nat} (h : (st = regOn ∨ st = regRamping) ∨ st = regOff ∨ st = regShutting) : st ≠ regSagged := by
  rcases h with (rfl | rfl) | rfl | rfl <;> decide

section
variable {req : Requester} {r : RegionId} {s : State}

theorem exec_pwrEnSet (h : s.accepts req (Reg.pwrRCtrl r) 1 = true) : exec (.pwrEnSet req r) s = .next (s.pwrCtrl req r 1) :=
  congrArg Host.Outcome.next (State.write_of_accepts h _)

theorem exec_pwrEnClear (h : s.accepts req (Reg.pwrRCtrl r) 0 = true) : exec (.pwrEnClear req r) s = .next (s.pwrCtrl req r 0) :=
  congrArg Host.Outcome.next (State.write_of_accepts h _)

/-- EN of a region that is not SAGGED takes its effect (R539, R552). -/
theorem exec_pwrEnSet_live (h : s.accepts req (Reg.pwrRCtrl r) 1 = true) (hs : s.regState r ≠ regSagged) :
    exec (.pwrEnSet req r) s = .next (s.enSet r) := by
  rw [exec_pwrEnSet h, State.pwrCtrl_set req hs]

/-- Clearing EN of a region that is not SAGGED; that of a pane-common region takes its pane out of service (R63). -/
theorem exec_pwrEnClear_live {w : State} (h : s.accepts req (Reg.pwrRCtrl r) 0 = true) (hs : s.regState r ≠ regSagged)
    (hw : s.enClear r = w) : exec (.pwrEnClear req r) s = .next (if r.val % 6 = 5 then w.paneOut (r / 6) else w) := by
  rw [exec_pwrEnClear h, State.pwrCtrl_clear req hs, hw]

end

/-! ## Ramps, droops and heat -/

theorem State.rampNext_of_none {s : State} (h : ∀ r, r ∈ allRegions → s.flag (Fld.pwrRStatPendingOn r) = false) : s.rampNext = s := by
  unfold State.rampNext
  rw [List.filter_eq_nil_iff.2 fun r hr => by simp [h r hr]]
  rfl

theorem State.droopTrip_of_powered {s : State} {r : Nat} (floor : Bool) (h : s.regState r = regOn ∨ s.regState r = regRamping) :
    s.droopTrip r floor = if floor = true ∧ SMap.get? s.pwr.floorAt r = none then
      ({ s.bump (Fld.pwrRCntDroops r) with pwr.floorAt := SMap.put s.pwr.floorAt r s.tick } : State).bump (Fld.pwrRCntFloors r)
      else s.bump (Fld.pwrRCntDroops r) := by
  unfold State.droopTrip
  rw [if_neg (by rcases h with h | h <;> simp [h])]
  cases floor <;> cases hf : SMap.get? s.pwr.floorAt r <;> simp [State.bump, hf]

theorem thermalPace_cool {t : Int} (h : t < 1440) : thermalPace t = 16 := if_pos h

theorem thermalPace_hot {t : Int} (h : 1440 ≤ t) : (thermalPace t : Int) = max 4 (16 - (t - 1440) / 8) := by
  unfold thermalPace
  rw [if_neg (by omega)]
  omega

/-- Settles O54: EN by the state of its region, and each event of a region by the one state in which it counts. -/
theorem regionsSwitch : Obligations.RegionsSwitch := by
  unfold Obligations.RegionsSwitch
  refine ⟨?setRamps, ?setOffPends, ?setShuttingPends, ?setPowered, ?setSagged, ?clearPowered, ?clearDown, ?clearSagged, ?rampDone,
    ?rampIdle, ?shutdownDone, ?shutdownIdle, fun r s => rfl, ?enter, ?setpoint, fun s => State.rampNext_of_none, ?droop, ?droopIdle,
    fun r s => rfl, fun r temp s => rfl, fun t => ⟨thermalPace_cool, thermalPace_hot⟩⟩
  case setRamps =>
    intro req r s h hr
    rw [exec_pwrEnSet_live h (ne_regSagged (.inr (.inl hr.off))), State.enSet_of_down (.inl hr.off),
      State.regWant_of_rampsNow ((rampsNow_put_en s r 1).2 hr)]
  case setOffPends =>
    intro req r s h hoff hr
    rw [exec_pwrEnSet_live h (ne_regSagged (.inr (.inl hoff))), State.enSet_pends (.inl hoff) hr]
  case setShuttingPends =>
    intro req r s h hshut
    have hr : ¬RampsNow s r := fun hr => absurd (hshut.symm.trans hr.off) (by decide)
    rw [exec_pwrEnSet_live h (ne_regSagged (.inr (.inr hshut))), State.enSet_pends (.inr hshut) hr]
  case setPowered =>
    intro req r s h hon
    rw [exec_pwrEnSet_live h (ne_regSagged (.inl hon)), State.enSet_of_powered hon]
  case setSagged => exact fun req r s h hs => (exec_pwrEnSet h).trans (congrArg _ (State.pwrCtrl_sagged req 1 hs))
  case clearPowered =>
    exact fun req r s w h hon hw => exec_pwrEnClear_live h (ne_regSagged (.inl hon)) ((State.enClear_of_powered hon).trans hw.symm)
  case clearDown =>
    exact fun req r s w h hoff hw => exec_pwrEnClear_live h (ne_regSagged (.inr hoff)) ((State.enClear_of_down hoff).trans hw.symm)
  case clearSagged => exact fun req r s h hs => (exec_pwrEnClear h).trans (congrArg _ (State.pwrCtrl_sagged req 0 hs))
  case rampDone => exact fun r s h => congrArg Host.Outcome.next (if_neg (by simp [h]))
  case rampIdle => exact fun r s h => congrArg Host.Outcome.next (if_pos (by simpa using h))
  case shutdownDone => exact fun r s h => congrArg Host.Outcome.next (if_neg (by simp [h]))
  case shutdownIdle => exact fun r s h => congrArg Host.Outcome.next (if_pos (by simpa using h))
  case enter =>
    exact fun s r st h => ⟨s.regEnter_regState r h, s.regEnter_pace r h, s.regEnter_mem r st, s.vcore_regEnter_down r h⟩
  case setpoint =>
    intro s r hdown
    refine ⟨fun ha hn => ?_, fun hn => ?_⟩
    · rw [State.vcore_regEnter_ramping hdown, State.vcoreStart_armed r ha hn]
      exact congrArg some (Vcore.now_settled 750 s.tick s.tick)
    · rw [State.vcore_regEnter_ramping hdown, State.vcoreStart_unarmed r hn, vcoreAt]
      simp only [Option.elim_none, beq_iff_eq]
  case droop => exact fun r floor s h => congrArg Host.Outcome.next (State.droopTrip_of_powered floor h)
  case droopIdle => exact fun r floor s hon hramp => congrArg Host.Outcome.next (if_pos (by simp [hon, hramp]))

end Sys2Proof.Machine

/-! # The substitution switch (R56 to R61, R99)

What a change of a slot's position does to the registers, each outcome of an APPLY, and the ends of a MIGRATE. -/

namespace Sys2Proof.Machine
open Sys2Proof

/-! ## Regions that the switch turns on and off -/

theorem SameRegsBut.ite {b : Nat} {s u w : State} {c : Prop} [Decidable c] (h : SameRegsBut b s u) (k : SameRegsBut b s w) :
    SameRegsBut b s (if c then u else w) := by
  split
  · exact h
  · exact k

theorem State.rampNext_sameRegs (s : State) : SameRegsBut pwrBlock s s.rampNext := by
  unfold State.rampNext
  exact SameRegsBut.foldl (fun u r => .ite (u.regEnter_sameRegs r regRamping) (.of_ctrl rfl)) _ s

theorem State.enClear_sameRegs (s : State) (r : Nat) : SameRegsBut pwrBlock s (s.enClear r) := by
  have hputs : SameRegsBut pwrBlock s ((s.put (Fld.pwrRCtrlEn r) 0).put (Fld.pwrRStatPendingOn r) 0) :=
    ((SameRegsBut.of_ctrl rfl).put _ _ (blockNumber_pwrRCtrl r)).put _ _ (blockNumber_pwrRStat r)
  rw [State.enClear_eq]
  exact .ite ((hputs.trans (State.regEnter_sameRegs _ r regShutting)).trans (State.rampNext_sameRegs _)) hputs

theorem State.regOnNow_sameRegs (s : State) (r : Nat) : SameRegsBut pwrBlock s (s.regOnNow r) := by
  have hwait : SameRegsBut pwrBlock s { s with pwr.offWait := s.pwr.offWait.filter (· != r) } := SameRegsBut.of_ctrl rfl
  exact ((hwait.put _ _ (blockNumber_pwrRCtrl r)).put _ _ (blockNumber_pwrRStat r)).trans (State.regEnter_sameRegs _ r regOn)

/-! ## Registers of the switch -/

theorem blockNumber_pswMap (n : Nat) : blockNumber (Reg.pswMap n) = 3 := blockNumber_blockBase n 3 (by decide) (by decide)

theorem blockNumber_pswStatus (n : Nat) : blockNumber (Reg.pswStatus n) = 3 := blockNumber_blockBase n 3 (by decide) (by decide)

/-- The registers of a core lie in the block of its slot, one of 4 to 7 (R590). -/
theorem blockNumber_core (core : Nat) {off : Nat} (h : off < 0x1000000) : blockNumber (Block.base .core core + off) = 4 + slotOf core :=
  blockNumber_blockBase _ _ (by have := slotOf_lt core; omega) h

theorem pswMap_ne_core (n core : Nat) {off : Nat} (h : off < 0x1000000) : Reg.pswMap n ≠ Block.base .core core + off := fun e => by
  have hblock := congrArg blockNumber e
  rw [blockNumber_pswMap, blockNumber_core core h] at hblock
  omega

theorem pswMap_ne_pswStatus (m n : Nat) : Reg.pswMap m ≠ Reg.pswStatus n := by
  simp only [Reg.pswMap, Reg.pswStatus, Block.base, blockBase]
  omega

theorem State.serves_congr {s u : State} (h : ∀ n, u.rd (Reg.pswMap n) = s.rd (Reg.pswMap n)) (pos : Nat) : u.serves pos = s.serves pos := by
  unfold State.serves
  rw [h]

theorem State.regState_put_pswStatus (s : State) {f : Fld} {n : Nat} (v r : Nat) (hf : f.addr = Reg.pswStatus n) :
    (s.put f v).regState r = s.regState r := by
  refine State.get_put_ne s f _ v fun e => ?_
  have hblock := congrArg blockNumber (e.trans hf)
  rw [show blockNumber (Fld.pwrRStatState r).addr = pwrBlock from blockNumber_pwrRStat r, blockNumber_pswStatus] at hblock
  exact absurd hblock (by decide)

/-! ## A slot joins a position (R53, R58, R99) -/

/-- The counters that R99 starts again with a core. -/
def coreCounters (core : Nat) : List Nat := [Reg.coreIssue core, Reg.coreYield core, Reg.coreAbusy core]

/-- The counters of a slot's core have started again, and MAP names the slot's new position. -/
def State.slotMapped (s : State) (n k p : Nat) : State :=
  (s.clear64 (coreCounters (coreOf n k))).wr (Reg.pswMap n)
    (setField ((s.clear64 (coreCounters (coreOf n k))).rd (Reg.pswMap n)) (4 * k) 4 p)

/-- After a copy, all else that joining a slot does is to switch regions. -/
theorem State.joinSlot_copied_sameRegs (s : State) (n k p : Nat) : SameRegsBut pwrBlock (s.slotMapped n k p) (s.joinSlot n k p true) := by
  have on : SameRegsBut pwrBlock (s.slotMapped n k p) (if p < 5 && (s.slotMapped n k p).regState (6 * n + p) != regSagged
      then (s.slotMapped n k p).regOnNow (6 * n + p) else s.slotMapped n k p) :=
    .ite (State.regOnNow_sameRegs _ _) (.of_ctrl rfl)
  exact .ite (on.trans (State.enClear_sameRegs _ _)) on

theorem pswMap_ne_coreCounters {n core a : Nat} (h : a ∈ coreCounters core) : Reg.pswMap n ≠ a ∧ Reg.pswMap n ≠ a + 4 := by
  simp only [coreCounters, List.mem_cons, List.not_mem_nil, or_false] at h
  rcases h with rfl | rfl | rfl
  · exact ⟨pswMap_ne_core n core (off := 0x10) (by decide), pswMap_ne_core n core (off := 0x14) (by decide)⟩
  · exact ⟨pswMap_ne_core n core (off := 0x18) (by decide), pswMap_ne_core n core (off := 0x1C) (by decide)⟩
  · exact ⟨pswMap_ne_core n core (off := 0x20) (by decide), pswMap_ne_core n core (off := 0x24) (by decide)⟩

theorem State.rd_slotMapped_pswMap (s : State) (n p : Nat) {k : Nat} (hk : k < 4) :
    (s.slotMapped n k p).rd (Reg.pswMap n) = setField (s.rd (Reg.pswMap n)) (4 * k) 4 p := by
  have hclear : (s.clear64 (coreCounters (coreOf n k))).rd (Reg.pswMap n) = s.rd (Reg.pswMap n) := by
    rw [State.rd_clear64, if_neg]
    rintro ⟨a, ha, e | e⟩
    · exact (pswMap_ne_coreCounters ha).1 e
    · exact (pswMap_ne_coreCounters ha).2 e
  rw [State.slotMapped, hclear, State.rd_wr_same, Nat.mod_eq_of_lt (setField_lt (s.rd_lt _) (by omega))]

theorem State.get64_slotMapped_counter (s : State) (n k p : Nat) {a : Nat} (ha : a ∈ coreCounters (coreOf n k)) :
    (s.slotMapped n k p).get64 a = 0 := by
  obtain ⟨hlow, hhigh⟩ := pswMap_ne_coreCounters (n := n) ha
  rw [State.get64, State.slotMapped, State.rd_wr_ne _ _ hlow.symm, State.rd_wr_ne _ _ hhigh.symm, State.rd_clear64, State.rd_clear64,
    if_pos ⟨a, ha, .inl rfl⟩, if_pos ⟨a, ha, .inr rfl⟩,
    Nat.zero_mul]

theorem blockNumber_coreCounters {core a : Nat} (h : a ∈ coreCounters core) : blockNumber a ≠ pwrBlock ∧ blockNumber (a + 4) ≠ pwrBlock := by
  have live {off : Nat} (ho : off < 0x1000000) : blockNumber (Block.base .core core + off) ≠ pwrBlock := by
    rw [blockNumber_core core ho, pwrBlock]
    omega
  simp only [coreCounters, List.mem_cons, List.not_mem_nil, or_false] at h
  rcases h with rfl | rfl | rfl
  · exact ⟨live (off := 0x10) (by decide), live (off := 0x14) (by decide)⟩
  · exact ⟨live (off := 0x18) (by decide), live (off := 0x1C) (by decide)⟩
  · exact ⟨live (off := 0x20) (by decide), live (off := 0x24) (by decide)⟩

/-- A joined slot's counters read 0 (R99). -/
theorem State.get64_joinSlot_counter (s : State) (n k p : Nat) {a : Nat} (ha : a ∈ coreCounters (coreOf n k)) :
    (s.joinSlot n k p true).get64 a = 0 := by
  obtain ⟨hlow, hhigh⟩ := blockNumber_coreCounters ha
  have hregs := s.joinSlot_copied_sameRegs n k p
  rw [State.get64, hregs _ hlow, hregs _ hhigh]
  exact s.get64_slotMapped_counter n k p ha

theorem State.rd_joinSlot_pswMap (s : State) (n p : Nat) {k : Nat} (hk : k < 4) :
    (s.joinSlot n k p true).rd (Reg.pswMap n) = setField (s.rd (Reg.pswMap n)) (4 * k) 4 p := by
  rw [s.joinSlot_copied_sameRegs n k p _ (by rw [blockNumber_pswMap]; decide), s.rd_slotMapped_pswMap n p hk]

/-! ## APPLY (R56, R58 to R61) -/

section
variable {s : State} {n : Nat}

theorem State.pswApply_refused {migrate : Bool} (done : Bool) (h : s.pswReason n migrate ≠ 0) :
    s.pswApply n migrate done = ((s.put (Fld.pswStatusRefused n) 1).put (Fld.pswStatusReason n) (s.pswReason n migrate)).misuseMod :=
  if_pos (by simpa using h)

theorem State.pswApply_unchanged {migrate : Bool} (done : Bool) (h : s.pswReason n migrate = 0) (hc : s.pswChanged n = []) :
    s.pswApply n migrate done = s.put (Fld.pswStatusDone n) 1 := by
  simp [State.pswApply, h, hc]

theorem State.pswApply_replace {k : Nat} (done : Bool) (h : s.pswReason n false = 0) (hc : s.pswChanged n = [k]) :
    s.pswApply n false done = (s.joinSlot n k (field (s.rd (Reg.pswNext n)) (4 * k) 4) false).pswDone n := by
  simp [State.pswApply, h, hc]

/-- The pane is BUSY with a move of one slot. -/
def State.moveBegun (s : State) (n k p : Nat) : State :=
  ({ s with rel.moving := SMap.put s.rel.moving n (k, p, s.tick) } : State).put (Fld.pswStatusBusy n) 1

theorem State.regState_moveBegun (s : State) (n k p r : Nat) : (s.moveBegun n k p).regState r = s.regState r :=
  State.regState_put_pswStatus _ 1 r rfl

theorem State.pswApply_migrate {k p : Nat} (h : s.pswReason n true = 0) (hc : s.pswChanged n = [k])
    (hp : p = field (s.rd (Reg.pswNext n)) (4 * k) 4) (hr : s.regState (6 * n + p) ≠ regSagged) :
    s.pswApply n true false = (s.moveBegun n k p).enSet (6 * n + p) ∧
      s.pswApply n true true = ((s.moveBegun n k p).joinSlot n k p true).pswDone n := by
  subst hp
  have hlive := (State.regState_moveBegun s n k (field (s.rd (Reg.pswNext n)) (4 * k) 4) _).trans_ne hr
  simp only [State.moveBegun] at hlive
  constructor <;> simp [State.pswApply, h, hc, hlive, State.moveBegun]

/-! ## The ends of a MIGRATE (R58 to R61) -/

theorem State.moveEnds_copied {k p since : Nat} (h : SMap.get? s.rel.moving n = some (k, p, since)) :
    s.moveEnds n true = (s.joinSlot n k p true).pswDone n := by
  simp [State.moveEnds, h]

theorem State.moveEnds_failed {k p since : Nat} (h : SMap.get? s.rel.moving n = some (k, p, since)) :
    s.moveEnds n false = ((s.put (Fld.pswStatusCopyFail n) 1).joinSlot n k p false).pswDone n := by
  simp [State.moveEnds, h]

/-- The move has stopped, and the slot stays where it is (R61). -/
def State.moveStopped (s : State) (n : Nat) : State :=
  (((({ s with rel.moving := SMap.del s.rel.moving n } : State).put (Fld.pswStatusBusy n) 0).put (Fld.pswStatusCopyFail n) 1).put
    (Fld.pswStatusRefused n) 1).put (Fld.pswStatusReason n) 7

theorem State.serves_moveStopped (s : State) (n pos : Nat) : (s.moveStopped n).serves pos = s.serves pos := by
  refine State.serves_congr (fun m => ?_) pos
  have hne := pswMap_ne_pswStatus m n
  unfold State.moveStopped
  rw [State.rd_put_ne _ _ _ hne, State.rd_put_ne _ _ _ hne, State.rd_put_ne _ _ _ hne, State.rd_put_ne _ _ _ hne]
  rfl

theorem State.newPosFail_of_moving {k p since : Nat} (h : SMap.get? s.rel.moving n = some (k, p, since)) :
    s.newPosFail n = if (s.serves (5 * n + p)).isNone then (s.moveStopped n).enClear (6 * n + p) else s.moveStopped n := by
  rw [← s.serves_moveStopped n]
  unfold State.newPosFail
  rw [h]
  rfl

theorem State.newPosFail_of_still (h : SMap.get? s.rel.moving n = none) : s.newPosFail n = s := by
  unfold State.newPosFail
  rw [h]

theorem State.copyFail_of_still (h : SMap.get? s.rel.moving n = none) : s.copyFail n = s := by
  unfold State.copyFail
  rw [h]

theorem State.copyFail_early {k p since : Nat} (h : SMap.get? s.rel.moving n = some (k, p, since)) (ht : s.tick < since + 250000) :
    s.copyFail n = s := by
  simp only [State.copyFail, h]
  refine if_neg fun hdue => ?_
  obtain ⟨-, hlate⟩ := Bool.and_eq_true_iff.1 hdue
  exact absurd (of_decide_eq_true hlate) (Nat.not_le.2 ht)

/-- A copy whose source has been silent for 1 ms ends as a REPLACE (R59). -/
theorem State.copyFail_due {k p since : Nat} (h : SMap.get? s.rel.moving n = some (k, p, since)) (hc : s.copying n p = true)
    (ht : since + 250000 ≤ s.tick) : s.copyFail n = ((s.moveEnds n false).movesGo n).vblPump := by
  unfold State.copyFail
  rw [h]
  exact if_pos (by simp [ticksPerMs, hc, ht])

/-- A copy that runs ends in this tick or goes on (log entry 41). -/
theorem State.copyTick_one {k p since : Nat} (h : s.rel.moving = [(n, (k, p, since))]) (hc : s.copying n p = true) :
    s.copyTick = { s with draws := s.draws + 1 } ∨
      s.copyTick = (((({ s with draws := s.draws + 1 } : State).moveEnds n true).movesGo n)).vblPump := by
  unfold State.copyTick
  rw [h, List.foldl_cons, List.foldl_nil, if_neg (by simp [hc])]
  by_cases hpick : Config.pick s.draws % 2 == 0
  · exact .inr (if_pos hpick)
  · exact .inl (if_neg hpick)

end

section
variable {req : Requester} {n : PaneId} {s : State}

theorem exec_pswApplyReplace (h : s.accepts req (Reg.pswCtrl n) 3 = true) :
    exec (.pswApplyReplace req n) s = .next ((s.pswApply n false true).movesGo n).vblPump :=
  congrArg (fun u : State => Host.Outcome.next u.vblPump) (State.write_of_accepts h _)

theorem exec_pswApplyMigrate (done : Bool) (h : s.accepts req (Reg.pswCtrl n) 1 = true) :
    exec (.pswApplyMigrate req n done) s = .next ((s.pswApply n true done).movesGo n) :=
  congrArg Host.Outcome.next (State.write_of_accepts h _)

theorem exec_copyFail (n : PaneId) (s : State) : exec (.copyFail n) s = .next (s.clocked (s.copyFail n)) := rfl

theorem exec_migrateNewPositionFail (n : PaneId) (s : State) :
    exec (.migrateNewPositionFail n) s = .next (s.clocked ((s.newPosFail n).movesGo n)) := rfl

end

theorem State.clocked_self (s : State) : s.clocked s = s := ite_self s

/-- Settles O42: each outcome of an APPLY, each end of a MIGRATE, and the registers that a joined slot leaves. -/
theorem substitutionSwitch : Obligations.SubstitutionSwitch := by
  unfold Obligations.SubstitutionSwitch
  refine ⟨?replaceRefused, ?replaceNone, ?replaceOne, ?migrateRefused, ?migrateOne, ?copyTick, ?copyFails, ?copyWaits, ?newFailsServing,
    ?newFailsFree, ?still, ?joined⟩
  case replaceRefused =>
    intro req n s h hr
    rw [exec_pswApplyReplace h, State.pswApply_refused true hr]
  case replaceNone =>
    intro req n s h hr hc
    rw [exec_pswApplyReplace h, State.pswApply_unchanged true hr hc]
  case replaceOne =>
    intro req n s k h hr hc
    rw [exec_pswApplyReplace h, State.pswApply_replace true hr hc]
  case migrateRefused =>
    intro req n done s h hr
    rw [exec_pswApplyMigrate done h, State.pswApply_refused done hr]
  case migrateOne =>
    intro req n s k p h hr hc hp hlive
    obtain ⟨hbegins, hends⟩ := State.pswApply_migrate hr hc hp hlive
    rw [exec_pswApplyMigrate false h, exec_pswApplyMigrate true h, hbegins, hends]
    exact ⟨rfl, rfl⟩
  case copyTick =>
    intro s n k p since hm hc w
    have hw : SMap.get? w.rel.moving n = some (k, p, since) := by
      rw [show w.rel.moving = [(n, (k, p, since))] from hm]
      exact lookup_cons_same n _ _
    rw [← show w.moveEnds n true = (w.joinSlot n k p true).pswDone n from State.moveEnds_copied hw]
    exact State.copyTick_one hm hc
  case copyFails =>
    intro n s k p since hm hc ht
    rw [exec_copyFail, State.copyFail_due hm hc ht, State.moveEnds_failed hm]
  case copyWaits =>
    intro n s k p since hm ht
    rw [exec_copyFail, State.copyFail_early hm ht, State.clocked_self]
  case newFailsServing =>
    intro n s k p since hm hs
    rw [exec_migrateNewPositionFail, State.newPosFail_of_moving hm, if_neg (by simp [hs]), State.moveStopped]
  case newFailsFree =>
    intro n s k p since hm hs
    rw [exec_migrateNewPositionFail, State.newPosFail_of_moving hm, if_pos (by simp [hs]), State.moveStopped]
  case still =>
    intro n s hm
    rw [exec_copyFail, State.copyFail_of_still hm, exec_migrateNewPositionFail, State.newPosFail_of_still hm, State.clocked_self]
    exact ⟨rfl, rfl⟩
  case joined =>
    intro s n k p hk _
    exact ⟨s.rd_joinSlot_pswMap n p hk, s.get64_joinSlot_counter n k p (.head _), s.get64_joinSlot_counter n k p (.tail _ (.head _)),
      s.get64_joinSlot_counter n k p (.tail _ (.tail _ (.head _)))⟩

end Sys2Proof.Machine

/-! # Where a TIME flit carries its record (R361, R363)

A flit lists FREED before its payload, so the payload begins at byte 20 where the port counts freed buffers for four classes; the statement
about ports lets the port's list have any length. -/

namespace Sys2Proof.Machine
open Sys2Proof

theorem exec_timeFlitSend {s : State} (p : PortId) (frac : Byte) (hlock : s.flag Fld.timStatusPllLock = true) :
    exec (.timeFlitSend p frac) s = .next (s.timeSend p frac.toNat) := congrArg Host.Outcome.next (if_pos hlock)

theorem State.port_setPort (s : State) (p : Nat) (x : Port) : (s.setPort p x).port p = x := SMap.getD_putD_same _ _ _ _

/-- The TIME flit of a tick that sends one: its header is the port's, its payload the record (R348, R363). -/
theorem State.timeSend_out {s : State} {p : Nat} (frac : Nat) (hpass : s.flitsPass p = true) (htick : s.tick % 65536 = 0)
    (hnew : (s.port p).timeAt ≠ some s.tick) : (s.timeSend p frac).out = s.out ++ [.flit p (mkFlit (s.port p) 2 0 255 0 false
      (timePayload (s.get Fld.timStatusState) (((s.port p).xseq + 1) % 2 ^ 16) (s.tick * 256 + frac) (s.port p).stamp))] := by
  unfold State.timeSend
  rw [if_neg (by simp [hpass, htick, hnew, markerTicks])]
  simp only [State.port_setPort]
  rfl

/-- A module with lock whose port 0 is ACTIVE and counts freed buffers for no class. -/
def freedlessPort : State :=
  { (State.reset.put Fld.timStatusPllLock 1).put (Fld.lnkStatusState 0) 5 with ports := [(0, { Port.empty with freed := [] })] }

/-- Refutes O31: the clause of TIME_FLIT_SEND has the record at byte 20 of the flit in every state. The port of `freedlessPort`, ACTIVE with
an empty list of FREED counts, sends its record from byte 12, and byte 20 is then the low byte of the tick, 0, where the record begins with
its subtype, 2. No port comes by such a list after reset; the statement asks nothing of it. -/
theorem not_portsTrainAndCarryFlits : ¬ Obligations.PortsTrainAndCarryFlits := by
  unfold Obligations.PortsTrainAndCarryFlits
  rintro ⟨-, -, -, -, -, -, -, -, -, -, -, -, -, -, -, -, -, -, -, -, -, timeSend, -⟩
  have hlock : freedlessPort.flag Fld.timStatusPllLock = true := by decide +kernel
  have hpass : freedlessPort.flitsPass 0 = true := by decide +kernel
  have hnew : (freedlessPort.port 0).timeAt ≠ some freedlessPort.tick := by decide +kernel
  obtain ⟨u, b, hu, hout, -, hrecord⟩ := timeSend 0 0 freedlessPort hlock hpass rfl hnew
  rw [exec_timeFlitSend 0 0 hlock] at hu
  cases hu
  have hsent := (State.timeSend_out 0 hpass rfl hnew).symm.trans hout
  obtain rfl : _ = b := by simpa using hsent
  exact absurd (congrArg List.head? hrecord) (by decide +kernel)

end Sys2Proof.Machine

/-! # Waiting tasks wake, and aged slots issue first (R77, R94, R203, R262, R340)

The end of a wait touches registers and staging queues alone, so the woken task is the only one that changes; a stall ends in three
registers that lie apart; and the slots that the ageing limit names join those that issue first. -/

namespace Sys2Proof.Machine
open Sys2Proof

/-! ## Writes beside a 64-bit counter (R11) -/

theorem State.get64_put64_apart (s : State) {a b : Nat} (v : Nat) (h : b + 8 ≤ a ∨ a + 8 ≤ b) : (s.put64 a v).get64 b = s.get64 b := by
  rw [State.get64, State.rd_put64_ne _ _ (by omega) (by omega), State.rd_put64_ne _ _ (by omega) (by omega)]
  rfl

theorem State.get64_put_apart (s : State) (f : Fld) (v : Nat) {b : Nat} (h : f.addr + 4 ≤ b ∨ b + 8 ≤ f.addr) :
    (s.put f v).get64 b = s.get64 b := by
  rw [State.get64, State.rd_put_ne _ _ _ (by omega), State.rd_put_ne _ _ _ (by omega)]
  rfl

theorem State.get64_wrap64 (s : State) (a n : Nat) : (s.wrap64 a n).get64 a = (s.get64 a + n) % 2 ^ 64 := by
  rw [State.wrap64, State.get64_put64, Nat.mod_mod]

/-! ## A stall is counted (R262, R276) -/

/-- What `p` tells of a state hangs on no control register. -/
def BlindToRegs {α : Type} (p : State → α) : Prop := ∀ u a v, p (State.wr u a v) = p u

theorem BlindToRegs.put {α : Type} {p : State → α} (h : BlindToRegs p) (s : State) (f : Fld) (v : Nat) : p (s.put f v) = p s := h ..

theorem BlindToRegs.wrap64 {α : Type} {p : State → α} (h : BlindToRegs p) (s : State) (a n : Nat) : p (s.wrap64 a n) = p s :=
  (h ..).trans (h ..)

theorem BlindToRegs.ite_put {α : Type} {p : State → α} (h : BlindToRegs p) (q : Prop) [Decidable q] (s : State) (f : Fld) (v : Nat) :
    p (if q then s.put f v else s) = p s := by
  split
  · exact h.put ..
  · rfl

section
variable (s : State) (c ticks : Nat) {codes : Nat}

/-- A stall with a cause is counted in ticks, under its highest code, and in both fields of MIG_CAUSE. -/
theorem State.countStall_of_cause (hne : codes ≠ 0) : ∃ seen,
    s.countStall c codes ticks = (((s.wrap64 (Reg.migStallTicks c) ticks).wrap64 (stallReg c (Nat.log2 codes + 1))).put
      (Fld.migCauseLast c) (Nat.log2 codes + 1)).put (Fld.migCauseSeen c) seen := by
  unfold State.countStall
  exact ⟨_, if_neg (by simpa using hne)⟩

theorem State.apply_countStall {α : Type} {p : State → α} (codes : Nat) (h : BlindToRegs p) : p (s.countStall c codes ticks) = p s := by
  by_cases hc : codes = 0
  · subst hc
    exact h.wrap64 ..
  · obtain ⟨seen, e⟩ := s.countStall_of_cause c ticks hc
    rw [e, h.put, h.put, h.wrap64, h.wrap64]

theorem State.get_countStall_causeLast (hne : codes ≠ 0) (hlt : codes < 64) :
    (s.countStall c codes ticks).get (Fld.migCauseLast c) = Nat.log2 codes + 1 := by
  have hlog : Nat.log2 codes < 6 := (Nat.log2_lt hne).2 hlt
  obtain ⟨seen, h⟩ := s.countStall_of_cause c ticks hne
  rw [h, State.get_put_beside _ _ _ _ (by decide : 0 + 6 ≤ 32) (.inl (by decide : 0 + 6 ≤ 8)),
    State.get_put_same _ _ _ (by decide : 8 + 3 ≤ 32)]
  exact Nat.mod_eq_of_lt (by change _ < 2 ^ 3; omega)

theorem State.get64_countStall_stallReg (hne : codes ≠ 0) (hlt : codes < 64) :
    (s.countStall c codes ticks).get64 (stallReg c (Nat.log2 codes + 1)) = (s.get64 (stallReg c (Nat.log2 codes + 1)) + 1) % 2 ^ 64 := by
  have hlog : Nat.log2 codes < 6 := (Nat.log2_lt hne).2 hlt
  have hbehind : Reg.migCause c + 4 ≤ stallReg c (Nat.log2 codes + 1) := by
    simp only [stallReg, Reg.migCause, Reg.migStall1]
    omega
  have hbefore : stallReg c (Nat.log2 codes + 1) + 8 ≤ Reg.migStallTicks c := by
    simp only [stallReg, Reg.migStallTicks, Reg.migStall1]
    omega
  obtain ⟨seen, h⟩ := s.countStall_of_cause c ticks hne
  rw [h, State.get64_put_apart _ _ _ (.inl hbehind), State.get64_put_apart _ _ _ (.inl hbehind), State.get64_wrap64, State.wrap64,
    State.get64_put64_apart _ _ (.inl hbefore)]

end

/-! ## The end of a wait (R94, R262) -/

section
variable {s : State} {core slot : Nat} {t : Task}

/-- The end of a wait changes registers and the staging queues, and nothing else. -/
theorem State.apply_endWait {α : Type} {p : State → α} (s : State) (core slot codes : Nat) (h : BlindToRegs p)
    (hstage : ∀ u a b, p (State.leaveStage u a b) = p u) : p (s.endWait core slot codes) = p s := by
  unfold State.endWait
  split
  · rfl
  · split
    · rfl
    · next t _ _ w _ =>
      have hcount : p (if s.isStall core w then s.countStall t.ctx (t.causes ||| s.extraCauses codes) (s.tick - t.waitStart) else s) = p s := by
        split
        · exact s.apply_countStall _ _ _ h
        · rfl
      refine (hstage ..).trans (Eq.trans ?_ hcount)
      split
      · exact h.wrap64 ..
      · rfl

@[simp] theorem State.endWait_tasks (s : State) (core slot codes : Nat) : (s.endWait core slot codes).cores.tasks = s.cores.tasks :=
  s.apply_endWait (p := (·.cores.tasks)) core slot codes (fun _ _ _ => rfl) fun _ _ _ => rfl

@[simp] theorem State.endWait_mem (s : State) (core slot codes : Nat) : (s.endWait core slot codes).mem = s.mem :=
  s.apply_endWait core slot codes (fun _ _ _ => rfl) fun _ _ _ => rfl

@[simp] theorem State.endWait_ctxs (s : State) (core slot codes : Nat) : (s.endWait core slot codes).ctxs = s.ctxs :=
  s.apply_endWait core slot codes (fun _ _ _ => rfl) fun _ _ _ => rfl

@[simp] theorem State.endWait_task? (s : State) (core slot codes : Nat) : (s.endWait core slot codes).task? core slot = s.task? core slot :=
  congrArg (SMap.get? · (taskKey core slot)) (s.endWait_tasks core slot codes)

/-- A wait on tiles is a stall (R261). -/
theorem State.endWait_tiles {l : List (Nat × Bool)} (codes : Nat) (ht : s.task? core slot = some t) (hw : t.wait = some (.tiles l)) :
    s.endWait core slot codes =
      (s.countStall t.ctx (t.causes ||| s.extraCauses codes) (s.tick - t.waitStart)).leaveStage core slot := by
  unfold State.endWait
  rw [ht]
  dsimp only
  rw [hw]
  rfl

/-! ## A task wakes (R94, R200, R203) -/

/-- A task whose wait `w` is over: READY on the instruction that waited; a wait for a buffer keeps its turn (R200). -/
def Task.woken (t : Task) (w : Wait) : Task :=
  { t with state := .ready, wait := match w with | .buffer b => some (.buffer b) | _ => none }

/-- What a task wakes on: it waits with `w`, its context's tasks issue, and the wait is over. -/
structure WakesOn (s : State) (core slot : Nat) (t : Task) (w : Wait) : Prop where
  task : s.task? core slot = some t
  waiting : t.state = .waiting
  wait : t.wait = some w
  runs : s.runs t.ctx = true
  isOver : s.waitOver core slot t w = true

variable {w : Wait}

theorem WakesOn.wake (h : WakesOn s core slot t w) (codes : Nat) (hne : w ≠ .threshold) :
    s.wake core slot codes = (s.endWait core slot codes).setTask core slot (t.woken w) := by
  have hmod := State.modTask_of (s.endWait core slot codes) ((s.endWait_task? core slot codes).trans h.task)
  have hover := h.isOver
  unfold State.wake
  rw [h.task]
  dsimp only
  rw [h.wait]
  dsimp only
  rw [if_neg (by simp [h.waiting, h.runs, h.isOver])]
  cases w with
  | threshold => exact absurd rfl hne
  | launch _ => cases hover
  | barrier _ => cases hover
  | lease => cases hover
  | coll => cases hover
  | buffer b => exact (hmod _).trans (congrArg (fun x => State.setTask _ core slot { t with state := .ready, wait := x }) h.wait)
  | latch => exact hmod _
  | inject => exact hmod _
  | tiles _ => exact hmod _
  | streamTiles => exact hmod _
  | reissue _ => exact hmod _
  | collRoom _ => exact hmod _

theorem WakesOn.wake_threshold (h : WakesOn s core slot t .threshold) (codes : Nat) :
    s.wake core slot codes = ((s.endWait core slot codes).completeWait core slot).passThreshold core slot := by
  unfold State.wake
  rw [h.task]
  dsimp only
  rw [h.wait]
  exact if_neg (by simp [h.waiting, h.runs, h.isOver])

/-! ## A threshold is passed (R203, R204) -/

theorem State.completeWait_of (h : s.task? core slot = some t) :
    s.completeWait core slot = (s.setTask core slot t.resumed).noteIssue core slot :=
  congrArg (State.noteIssue · core slot) ((s.modTask_modTask core slot ..).trans (State.modTask_of s h _))

theorem State.apply_noteIssue {α : Type} {p : State → α} (s : State) (core slot : Nat) (h : BlindToRegs p)
    (hlast : ∀ (u : State) m, p { u with cores.lastIssue := m } = p u) : p (s.noteIssue core slot) = p s :=
  (hlast ..).trans (h.wrap64 ..)

theorem State.task?_noteIssue (s : State) (core slot : Nat) : (s.noteIssue core slot).task? core slot = s.task? core slot :=
  s.apply_noteIssue (p := (·.task? core slot)) core slot (fun _ _ _ => rfl) fun _ _ => rfl

theorem State.noteIssue_mem (s : State) (core slot : Nat) : (s.noteIssue core slot).mem = s.mem :=
  s.apply_noteIssue core slot (fun _ _ _ => rfl) fun _ _ => rfl

/-- The count of a generation changes registers, contexts and staging pools, and nothing else. -/
theorem State.apply_thrUpdate {α : Type} {p : State → α} (s : State) (c : Nat) (h : BlindToRegs p)
    (hctx : ∀ u k x, p (State.setCtx u k x) = p u) (hpool : ∀ u core k q, p (State.setPool u core k q) = p u) : p (s.thrUpdate c) = p s := by
  unfold State.thrUpdate
  exact List.foldlRecOn (motive := fun u => p u = p s) _ _ ((h.ite_put ..).trans (hctx ..)) fun u hu core _ => (hpool u core ..).trans hu

/-- A passed threshold changes registers, contexts, staging pools and the layers of endpoints, and nothing else. -/
theorem State.apply_passThreshold {α : Type} {p : State → α} (s : State) (core slot : Nat) (h : BlindToRegs p)
    (hctx : ∀ u k x, p (State.setCtx u k x) = p u) (hpool : ∀ u core k q, p (State.setPool u core k q) = p u)
    (heps : ∀ (u : State) e, p { u with cores.eps := e } = p u) : p (s.passThreshold core slot) = p s := by
  unfold State.passThreshold
  split
  · rfl
  · refine (State.apply_thrUpdate _ _ h hctx hpool).trans ((hpool ..).trans ((heps ..).trans ?_))
    split
    · exact hctx ..
    · rfl

theorem State.task?_passThreshold (s : State) (core slot : Nat) : (s.passThreshold core slot).task? core slot = s.task? core slot :=
  s.apply_passThreshold (p := (·.task? core slot)) core slot (fun _ _ _ => rfl) (fun _ _ _ => rfl) (fun _ _ _ _ => rfl) fun _ _ => rfl

theorem State.passThreshold_mem (s : State) (core slot : Nat) : (s.passThreshold core slot).mem = s.mem :=
  s.apply_passThreshold core slot (fun _ _ _ => rfl) (fun _ _ _ => rfl) (fun _ _ _ _ => rfl) fun _ _ => rfl

end

/-! ## Slots past the ageing limit (R77) -/

theorem bitAt_toNat {n : Nat} (v : BitVec n) (k : Nat) : bitAt v.toNat k = v.getLsbD k := by
  rw [BitVec.getLsbD, Nat.testBit_eq_decide_div_mod_eq, bitAt, Nat.shiftRight_eq_div_pow]
  rfl

/-- The named ready slots of a core that join those that issue first. -/
def State.aged (s : State) (core : Nat) (slots : BitVec 16) : List Nat :=
  (setBits 16 slots.toNat).filter fun k => !(SMap.getD s.cores.first core []).contains k && s.slotReady core k

def State.issueAged (s : State) (core : Nat) (slots : BitVec 16) : State :=
  { s with cores.first := SMap.putD s.cores.first core (SMap.getD s.cores.first core [] ++ s.aged core slots) [] }

section
variable {s : State} {core : Nat} {slots : BitVec 16}

theorem State.mem_aged {k : Nat} : k ∈ s.aged core slots ↔
    (k < 16 ∧ slots.getLsbD k = true) ∧ k ∉ SMap.getD s.cores.first core [] ∧ s.slotReady core k = true := by
  simp only [State.aged, setBits, bitAt_toNat, List.mem_filter, List.mem_range, Bool.and_eq_true, Bool.not_eq_true', List.contains_eq_mem,
    decide_eq_false_iff_not]

theorem State.mem_first_issueAged {k : Nat} : k ∈ SMap.getD (s.issueAged core slots).cores.first core [] ↔
    k ∈ SMap.getD s.cores.first core [] ∨ (k < 16 ∧ slots.getLsbD k = true ∧ s.slotReady core k = true) := by
  rw [State.issueAged, SMap.getD_putD_same, List.mem_append, State.mem_aged]
  tauto

/-- The lowest of the ready slots that the command names issues next where no other slot goes first. -/
theorem State.chosen_issueAged {k : Nat} (hfirst : SMap.getD s.cores.first core [] = []) (hk : k < 16) (hnamed : slots.getLsbD k = true)
    (hready : s.slotReady core k = true) (hlow : ∀ j, j < k → slots.getLsbD j = true → s.slotReady core j = false) :
    (s.issueAged core slots).chosen core = some k := by
  have hfind : (s.aged core slots).find? (s.slotReady core) = some k := by
    simp only [State.aged, setBits, hfirst, List.contains_nil, Bool.not_false, Bool.true_and, List.find?_filter, bitAt_toNat]
    refine List.find?_range_eq_some.2 ⟨by simp [hnamed, hready], List.mem_range.2 hk, fun j hj => ?_⟩
    cases hj' : slots.getLsbD j
    · rfl
    · simp [hlow j hj hj']
  have e : SMap.getD (s.issueAged core slots).cores.first core [] = s.aged core slots := by
    rw [State.issueAged, SMap.getD_putD_same, hfirst, List.nil_append]
  unfold State.chosen
  rw [e, show (s.issueAged core slots).slotReady core = s.slotReady core from rfl, hfind]

end

/-! ## The two commands under lock and without (R340) -/

section
variable {s : State}

theorem exec_taskWake (core : CoreId) (slot : SlotId) (codes : BitVec 6) (hlock : s.flag Fld.timStatusPllLock = true) :
    exec (.taskWake core slot codes) s = .next (s.wake core slot codes.toNat) := congrArg Host.Outcome.next (if_pos hlock)

theorem exec_taskWake_unlocked (core : CoreId) (slot : SlotId) (codes : BitVec 6) (hlock : s.flag Fld.timStatusPllLock = false) :
    exec (.taskWake core slot codes) s = .next s := congrArg Host.Outcome.next (if_neg (by simp [hlock]))

theorem exec_ageLimitIssue (core : CoreId) (slots : BitVec 16) (hlock : s.flag Fld.timStatusPllLock = true) :
    exec (.ageLimitIssue core slots) s = .next (s.issueAged core slots) := congrArg Host.Outcome.next (if_pos hlock)

end

/-- Settles O12: a wake is the end of the wait and one write of the task, which for a THRESHOLD has moved past it; the slots that the
ageing limit names stand behind those that issue first already, in ascending order. -/
theorem waitingTasksWakeAndAge : Obligations.WaitingTasksWakeAndAge := by
  unfold Obligations.WaitingTasksWakeAndAge
  refine ⟨?ready, ?threshold, ?stall, ?still, ?aged, ?lowest⟩
  case ready =>
    intro core slot codes s t w ht hs hw hr ho hne hlock
    have hwake := WakesOn.wake ⟨ht, hs, hw, hr, ho⟩ codes.toNat hne
    refine ⟨_, (exec_taskWake core slot codes hlock).trans (congrArg _ hwake), ?_, ?_, ?_, fun k hk => ?_⟩
    · exact State.task?_setTask ..
    · rw [State.setTask_mem, State.endWait_mem]
    · rw [State.setTask_ctxs, State.endWait_ctxs]
    · rw [State.setTask_tasks, State.endWait_tasks, SMap.get?_put_ne _ _ hk]
  case threshold =>
    intro core slot codes s t ht hs hw hr ho hlock
    have hwake := WakesOn.wake_threshold ⟨ht, hs, hw, hr, ho⟩ codes.toNat
    have hended := (s.endWait_task? core slot codes.toNat).trans ht
    refine ⟨_, (exec_taskWake core slot codes hlock).trans (congrArg _ hwake), ?_, ?_⟩
    · rw [State.task?_passThreshold, State.completeWait_of hended, State.task?_noteIssue, State.task?_setTask]
    · rw [State.passThreshold_mem, State.completeWait_of hended, State.noteIssue_mem, State.setTask_mem, State.endWait_mem]
  case stall =>
    rintro core slot codes s t l n ht hs hw hr ho hlock rfl hne hlt -
    have hwake := WakesOn.wake ⟨ht, hs, hw, hr, ho⟩ codes.toNat nofun
    rw [State.endWait_tiles codes.toNat ht hw] at hwake
    exact ⟨_, (exec_taskWake core slot codes hlock).trans (congrArg _ hwake), s.get_countStall_causeLast t.ctx _ hne hlt,
      s.get64_countStall_stallReg t.ctx _ hne hlt⟩
  case still => exact fun core slot codes s hlock => exec_taskWake_unlocked core slot codes hlock
  case aged =>
    intro core slots s hlock
    exact ⟨_, exec_ageLimitIssue core slots hlock, rfl, fun k => State.mem_first_issueAged, fun n hn => SMap.getD_putD_ne _ _ _ _ hn⟩
  case lowest =>
    intro core slots s k hlock hfirst hk hnamed hready hlow
    exact ⟨_, exec_ageLimitIssue core slots hlock, State.chosen_issueAged hfirst hk hnamed hready hlow⟩

end Sys2Proof.Machine

/-! # Checks of an issued word, and the task that one of them stops (R96, R128, R137 to R140)

Every instruction row issues through one front end, so each check of R139 is settled once, over any row and whatever its body does. An
exception writes the task, raises one event and recounts the context's generation; where no other task of the context waits in common with
it, that is all. -/

namespace Sys2Proof.Machine
open Sys2Proof

/-! ## The first check that fails decides the end (R137, R139) -/

section
variable {sp : OpSpec} {s : State} {x : Cx}

theorem frontEnd_badPc (hpc : s.pcBad x.c x.t.pc.toNat (wordExt x.word) = true) : frontEnd sp s x = some (.error badPc) := if_pos hpc

/-- Cause 1 does not arise. -/
theorem frontEnd_of_pc (hpc : s.pcBad x.c x.t.pc.toNat (wordExt x.word) = false) : frontEnd sp s x =
    if wordExt x.word != sp.ext then some (.error (.ill 3 false))
    else if !sp.rsvd x.word x.ext then some (.error (.ill 4 false))
    else if !sp.enum x.word x.ext then some (.error rsvdEnum)
    else if x.t.predPoison (wordPred x.word) then some (.error (.poison 3 2 (wordPred x.word)))
    else if x.t.pred (wordPred x.word) == wordPneg x.word then some (.ok (.retire s))
    else none := if_neg (by simp [hpc])

theorem frontEnd_wrongExt (hpc : s.pcBad x.c x.t.pc.toNat (wordExt x.word) = false) (hext : wordExt x.word ≠ sp.ext) :
    frontEnd sp s x = some (.error (.ill 3 false)) := by
  rw [frontEnd_of_pc hpc, if_pos (by simpa using hext)]

theorem frontEnd_reservedField (hpc : s.pcBad x.c x.t.pc.toNat (wordExt x.word) = false) (hext : wordExt x.word = sp.ext)
    (hrsvd : sp.rsvd x.word x.ext = false) : frontEnd sp s x = some (.error (.ill 4 false)) := by
  rw [frontEnd_of_pc hpc, if_neg (by simp [hext]), if_pos (by simp [hrsvd])]

theorem frontEnd_reservedValue (hpc : s.pcBad x.c x.t.pc.toNat (wordExt x.word) = false) (hext : wordExt x.word = sp.ext)
    (hrsvd : sp.rsvd x.word x.ext = true) (henum : sp.enum x.word x.ext = false) : frontEnd sp s x = some (.error rsvdEnum) := by
  rw [frontEnd_of_pc hpc, if_neg (by simp [hext]), if_neg (by simp [hrsvd]), if_pos (by simp [henum])]

/-- Causes 1 to 5 do not arise, so only the guard is left. -/
theorem frontEnd_of_wellEncoded (hpc : s.pcBad x.c x.t.pc.toNat (wordExt x.word) = false) (hext : wordExt x.word = sp.ext)
    (hrsvd : sp.rsvd x.word x.ext = true) (henum : sp.enum x.word x.ext = true) : frontEnd sp s x =
    if x.t.predPoison (wordPred x.word) then some (.error (.poison 3 2 (wordPred x.word)))
    else if x.t.pred (wordPred x.word) == wordPneg x.word then some (.ok (.retire s))
    else none := by
  rw [frontEnd_of_pc hpc, if_neg (by simp [hext]), if_neg (by simp [hrsvd]), if_neg (by simp [henum])]

theorem frontEnd_poisonedGuard (hpc : s.pcBad x.c x.t.pc.toNat (wordExt x.word) = false) (hext : wordExt x.word = sp.ext)
    (hrsvd : sp.rsvd x.word x.ext = true) (henum : sp.enum x.word x.ext = true) (hpoison : x.t.predPoison (wordPred x.word) = true) :
    frontEnd sp s x = some (.error (.poison 3 2 (wordPred x.word))) :=
  (frontEnd_of_wellEncoded hpc hext hrsvd henum).trans (if_pos hpoison)

theorem frontEnd_guardFails (hpc : s.pcBad x.c x.t.pc.toNat (wordExt x.word) = false) (hext : wordExt x.word = sp.ext)
    (hrsvd : sp.rsvd x.word x.ext = true) (henum : sp.enum x.word x.ext = true) (hclean : x.t.predPoison (wordPred x.word) = false)
    (hguard : x.t.pred (wordPred x.word) = wordPneg x.word) : frontEnd sp s x = some (.ok (.retire s)) :=
  (frontEnd_of_wellEncoded hpc hext hrsvd henum).trans ((if_neg (by simp [hclean])).trans (if_pos (beq_iff_eq.2 hguard)))

end

/-! ## What an issue does once its end is known -/

/-- The slot of a task whose turn it is gives up its turn, and the instruction ends as `run` says. -/
theorem issueRaw_of_turn {core slot word ext : Nat} {run : Cx → State → Chk Next} {s : State} {t : Task} {r : Chk Next}
    (ht : s.task? core slot = some t) (hrun : t.run = none) (hturn : s.hasTurn core slot = true)
    (hr : run ⟨core, slot, t.ctx, word, ext, t⟩ (s.dropFirst core slot) = r) (hne : r ≠ .error .hold) :
    issueRaw core slot word ext run s = (s.dropFirst core slot).conclude ⟨core, slot, t.ctx, word, ext, t⟩ r := by
  subst hr
  simp only [issueRaw, ht, hrun, hturn, Option.isSome_none, Bool.not_true, Bool.or_self, Bool.false_eq_true, if_false]

theorem State.conclude_ill (s : State) (x : Cx) (k : Nat) :
    s.conclude x (.error (.ill k false)) = (s.noteIssue x.core x.slot).taskFault x.core x.slot k x.word x.ext := rfl

theorem State.conclude_poison (s : State) (x : Cx) (kind file index : Nat) : s.conclude x (.error (.poison kind file index)) =
    (s.noteIssue x.core x.slot).poisonFault x.core x.slot kind file index x.word x.ext := rfl

/-- An instruction that retires with no effect only moves its task past it. -/
theorem State.conclude_retire_unchanged (s : State) {i : Issue} {op : Nat} (t : Task) {ext : Bool} (hext : wordExt (issueBits i op) = ext) :
    s.conclude (cxOf i op t) (.ok (.retire s)) = s.retire i ext := by
  have hsent := poisonLeaves_same s (.retire s) rfl
  simp only [State.conclude, guardRemote, hsent, Bool.false_eq_true, if_false, State.advance, State.noteRetire, State.modTask_modTask,
    State.retire, Task.past, cxOf, hext]
  cases ext <;> rfl

/-! ## Every instruction row issues through the front end -/

/-- The row's command issues a word of the row's form, with some body. -/
def IssuesAs (r : (Issue → Instr) × OpSpec) : Prop := ∃ body, ∀ i s, exec (r.1 i) s = issue r.2 body i s

theorem issuesAs_of_mem_instructionRows : ∀ r ∈ instructionRows, IssuesAs r := by
  unfold instructionRows scalarRows vectorRows otherRows
  repeat refine List.forall_mem_cons.2 ⟨⟨_, fun _ _ => rfl⟩, ?_⟩
  exact List.forall_mem_nil _

section
variable {r : (Issue → Instr) × OpSpec} {i : Issue} {s : State} {t : Task}

/-- An end that the front end decides is the instruction's end, whatever the row's body. -/
theorem IssuesAs.exec_of_frontEnd {e : Chk Next} (hr : IssuesAs r) (h : CanIssue i s t)
    (hf : frontEnd r.2 (s.turn i) (cxOf i r.2.op t) = some e) (hne : e ≠ .error .hold) :
    exec (r.1 i) s = .next ((s.turn i).conclude (cxOf i r.2.op t) e) := by
  obtain ⟨body, hexec⟩ := hr
  have hend : (frontEnd r.2 (s.turn i) (cxOf i r.2.op t)).getD (body (cxOf i r.2.op t) (s.turn i)) = e := by rw [hf, Option.getD_some]
  rw [hexec]
  exact congrArg Host.Outcome.next (issueRaw_of_turn h.task h.between h.turn hend hne)

theorem IssuesAs.faults_of_frontEnd {k : Nat} (hr : IssuesAs r) (h : CanIssue i s t)
    (hf : frontEnd r.2 (s.turn i) (cxOf i r.2.op t) = some (.error (.ill k false))) : Faults (r.1 i) i r.2.op k s :=
  hr.exec_of_frontEnd h hf nofun

end

/-! ## Words that never execute (R138, R139) -/

section
variable {core : CoreId} {slot : SlotId} {s : State} {t : Task}

theorem exec_undefOp_of_defined {words : BitVec 128} (hdef : opDefined (field (words.toNat % 2 ^ 64) 56 8) = true) :
    exec (.undefOp core slot words) s = .next s := congrArg Host.Outcome.next (if_pos hdef)

theorem exec_undefOp_of_reserved {words : BitVec 128} (ht : s.task? core slot = some t) (hrun : t.run = none)
    (hturn : s.hasTurn core slot = true) (hdef : opDefined (field (words.toNat % 2 ^ 64) 56 8) = false)
    (hpc : s.pcBad t.ctx t.pc.toNat (wordExt (words.toNat % 2 ^ 64)) = false) :
    exec (.undefOp core slot words) s = .next (((s.dropFirst core slot).noteIssue core slot).taskFault core slot 2
      (words.toNat % 2 ^ 64) (words.toNat / 2 ^ 64)) := by
  have hissue := issueRaw_of_turn (ext := words.toNat / 2 ^ 64) (r := .error (.ill 2 false))
    (run := fun x s => .error (if s.pcBad x.c x.t.pc.toNat (wordExt x.word) then badPc else .ill 2 false)) ht hrun hturn
    (congrArg Except.error (if_neg (Bool.eq_false_iff.1 hpc))) nofun
  exact congrArg Host.Outcome.next ((if_neg (Bool.eq_false_iff.1 hdef)).trans hissue)

theorem exec_badPc {word : BitVec 64} (ht : s.task? core slot = some t) (hrun : t.run = none) (hturn : s.hasTurn core slot = true)
    (hpc : s.pcBad t.ctx t.pc.toNat (wordExt word.toNat) = true) : exec (.badPc core slot word) s =
      .next (((s.dropFirst core slot).noteIssue core slot).taskFault core slot 1 word.toNat 0) := by
  change execBadPc core slot word s = _
  simp only [execBadPc, ht, hpc, if_true]
  exact congrArg Host.Outcome.next (issueRaw_of_turn ht hrun hturn rfl nofun)

end

/-! ## A fault that stays with its task (R140, R147, R205) -/

/-- Whether a task's fault spreads is read from the context's units and from the tasks that wait. -/
theorem State.faultSpreads_false_of {s u : State} {c leaf : Nat} (hunits : (u.ctx c).units = (s.ctx c).units)
    (htasks : ∀ p ∈ u.cores.tasks, p ∈ s.cores.tasks ∨ p.2.state ≠ .waiting) (h : s.faultSpreads c leaf = false) :
    u.faultSpreads c leaf = false := by
  simp only [State.faultSpreads, State.tasksOf, List.any_eq_false, List.mem_filter] at h ⊢
  rintro p ⟨hp, hc⟩
  rcases htasks p hp with hold | hidle
  · rw [hunits]
    exact h p ⟨hold, hc⟩
  · simp [hidle]

theorem State.ctx_setCtx (s : State) (c : Nat) (x : Context) : (s.setCtx c x).ctx c = x := SMap.getD_putD_same ..

theorem State.thrUpdate_units (s : State) (c : Nat) : ((s.thrUpdate c).ctx c).units = (s.ctx c).units := by
  unfold State.thrUpdate
  refine List.foldlRecOn (motive := fun u : State => (u.ctx c).units = (s.ctx c).units) _ _ ?_ fun u hu core _ => hu
  refine (BlindToRegs.ite_put (p := fun u : State => (u.ctx c).units) (fun _ _ _ => rfl) ..).trans ?_
  rw [State.ctx_setCtx]

theorem State.thrUpdate_tasks (s : State) (c : Nat) : (s.thrUpdate c).cores.tasks = s.cores.tasks :=
  s.apply_thrUpdate (p := (·.cores.tasks)) c (fun _ _ _ => rfl) (fun _ _ _ => rfl) fun _ _ _ _ => rfl

theorem State.thrUpdate_mem (s : State) (c : Nat) : (s.thrUpdate c).mem = s.mem :=
  s.apply_thrUpdate c (fun _ _ _ => rfl) (fun _ _ _ => rfl) fun _ _ _ _ => rfl

theorem State.thrUpdate_raised (s : State) (c : Nat) : (s.thrUpdate c).raised = s.raised :=
  s.apply_thrUpdate c (fun _ _ _ => rfl) (fun _ _ _ => rfl) fun _ _ _ _ => rfl

/-- A source that holds no record takes one (R488). -/
theorem State.raiseCtx_of_none {s : State} (h : s.raised = []) (src code sev c w2 w3 : Nat) : s.raiseCtx src code sev c w2 w3 =
    { s with raised := [⟨s.tick, src, code, c, s.partOf c, sev, BitVec.ofNat 64 w2, BitVec.ofNat 64 w3⟩] } := by
  simp [State.raiseCtx, State.raise, h]

/-- The task that an exception with a cause other than BAD_PC stops (R140). -/
def Task.illegal (t : Task) (k word ext : Nat) : Task :=
  { t with
    state := .faulted
    stopCause := 1
    illCause := k
    wait := none
    run := none
    faultWord := BitVec.ofNat 64 word
    faultExt := BitVec.ofNat 64 (if wordExt word then ext else 0) }

section
variable {s : State} {core slot k : Nat} {t : Task}

/-- The machine once a task has stopped with such a cause and its event is raised, its context's generation not yet recounted. -/
def State.illegalRaised (s : State) (core slot k word ext : Nat) (t : Task) : State :=
  (s.setTask core slot (t.illegal k word ext)).raiseCtx (srcTask core slot) 0x0100 3 t.ctx word (k * 2 ^ 48 + slot * 2 ^ 44 + t.pc.toNat)

theorem State.illegalRaised_of_none (hraised : s.raised = []) (word ext : Nat) : s.illegalRaised core slot k word ext t =
    { s.setTask core slot (t.illegal k word ext) with
      raised := [⟨s.tick, srcTask core slot, 0x0100, t.ctx, s.partOf t.ctx, 3, BitVec.ofNat 64 word,
        BitVec.ofNat 64 (k * 2 ^ 48 + slot * 2 ^ 44 + t.pc.toNat)⟩] } :=
  State.raiseCtx_of_none (s := s.setTask core slot (t.illegal k word ext)) hraised ..

theorem State.taskFault_illegal (ht : s.task? core slot = some t) (hk : 2 ≤ k) (word ext : Nat) :
    s.taskFault core slot k word ext =
      if ((s.illegalRaised core slot k word ext t).thrUpdate t.ctx).faultSpreads t.ctx t.leaf then
        ((s.illegalRaised core slot k word ext t).thrUpdate t.ctx).faultCtx t.ctx 1 t.leaf
      else (s.illegalRaised core slot k word ext t).thrUpdate t.ctx := by
  have hread : (k == 1) = false := by simp; omega
  have hhandle : (k == 0) = false := by simp; omega
  have hother : (k != 1) = true := by simp; omega
  simp only [State.taskFault, ht, hread, hhandle, hother, Bool.false_and, Bool.not_false, Bool.true_and, Bool.and_true, if_true,
    Bool.false_eq_true, if_false]
  rfl

/-- The stopped task does not wait, so its own fault adds no reason to spread. -/
theorem State.taskFault_of_stays (ht : s.task? core slot = some t) (hk : 2 ≤ k) (hstays : s.faultSpreads t.ctx t.leaf = false)
    (hraised : s.raised = []) (word ext : Nat) :
    s.taskFault core slot k word ext = (s.illegalRaised core slot k word ext t).thrUpdate t.ctx := by
  rw [State.taskFault_illegal ht hk, if_neg]
  rw [Bool.not_eq_true]
  refine State.faultSpreads_false_of ?_ (fun p hp => ?_) hstays
  · rw [State.thrUpdate_units, State.illegalRaised_of_none hraised]
    rfl
  · rw [State.thrUpdate_tasks, State.illegalRaised_of_none hraised] at hp
    rcases SMap.mem_put hp with rfl | hold
    · exact .inr nofun
    · exact .inl hold

end

/-- Settles O37: the rows share one front end, whose checks are taken in turn; a fault that stays with its task is one write of the task and
one event, and the recount of the generation touches neither. -/
theorem instructionChecksAndFaults : Obligations.InstructionChecksAndFaults := by
  unfold Obligations.InstructionChecksAndFaults
  refine ⟨?checks, ?undefOp, ?badPc, ?definedOp, ?faulted⟩
  case checks =>
    intro r hmem i s t h w
    have hr := issuesAs_of_mem_instructionRows r hmem
    refine ⟨fun hpc => ?pc, fun hpc => ⟨fun hext => ?ext, fun hext => ⟨fun hrsvd => ?field, fun hrsvd => ⟨fun henum => ?value,
      fun henum => ⟨fun hpoison => ?poison, fun hclean hguard => ?guard⟩⟩⟩⟩⟩
    case pc => exact hr.faults_of_frontEnd h (frontEnd_badPc hpc)
    case ext => exact hr.faults_of_frontEnd h (frontEnd_wrongExt hpc hext)
    case field => exact hr.faults_of_frontEnd h (frontEnd_reservedField hpc hext hrsvd)
    case value => exact hr.faults_of_frontEnd h (frontEnd_reservedValue hpc hext hrsvd henum)
    case poison => exact hr.exec_of_frontEnd h (frontEnd_poisonedGuard hpc hext hrsvd henum hpoison) nofun
    case guard =>
      rw [hr.exec_of_frontEnd h (frontEnd_guardFails hpc hext hrsvd henum hclean hguard) nofun, State.conclude_retire_unchanged _ _ hext]
  case undefOp => exact fun core slot words s t ht hrun hturn hdef hpc => exec_undefOp_of_reserved ht hrun hturn hdef hpc
  case badPc => exact fun core slot word s t ht hrun hturn hpc => exec_badPc ht hrun hturn hpc
  case definedOp => exact fun core slot words s hdef => exec_undefOp_of_defined hdef
  case faulted =>
    intro s core slot k word ext t ht hk _ hstays hraised
    have hslot : (s.taskFault core slot k word ext).task? core slot = some (t.illegal k word ext) := by
      rw [State.taskFault_of_stays ht hk hstays hraised, State.task?, State.thrUpdate_tasks, State.illegalRaised_of_none hraised]
      exact State.task?_setTask ..
    have hmem : (s.taskFault core slot k word ext).mem = s.mem := by
      rw [State.taskFault_of_stays ht hk hstays hraised, State.thrUpdate_mem, State.illegalRaised_of_none hraised]
      rfl
    have hevent : (s.taskFault core slot k word ext).raised = [⟨s.tick, srcTask core slot, 0x0100, t.ctx, s.partOf t.ctx, 3,
        BitVec.ofNat 64 word, BitVec.ofNat 64 (k * 2 ^ 48 + slot * 2 ^ 44 + t.pc.toNat)⟩] := by
      rw [State.taskFault_of_stays ht hk hstays hraised, State.thrUpdate_raised, State.illegalRaised_of_none hraised]
    exact ⟨_, hslot, rfl, rfl, rfl, rfl, rfl, rfl, rfl, rfl, rfl, rfl, rfl, hmem, _, hevent, rfl, rfl, rfl, rfl, rfl, rfl⟩

end Sys2Proof.Machine

/-! # Form S: registers, predicates, scalar memory, branches and flags (R130, R137, R143, R183)

The fields of an issued word as the statements name them, the operand B, and one rule for each shape of scalar body: an instruction that
computes a register, a predicate or nothing retires with its task so changed. -/

namespace Sys2Proof.Machine
open Sys2Proof

/-! ## Fields and operands of an issued word -/

theorem bitAt_issueBits (i : Issue) (op : Nat) {k : Nat} (h : k < 56) : bitAt (issueBits i op) k = i.body.getLsbD k :=
  (congrArg (· == 1) (field_issueBits i op k 1 h)).trans (bitAt_toNat i.body k)

@[simp] theorem cxOf_core (i : Issue) (op : Nat) (t : Task) : (cxOf i op t).core = i.core := rfl
@[simp] theorem cxOf_slot (i : Issue) (op : Nat) (t : Task) : (cxOf i op t).slot = i.slot := rfl
@[simp] theorem cxOf_c (i : Issue) (op : Nat) (t : Task) : (cxOf i op t).c = t.ctx := rfl
@[simp] theorem cxOf_word (i : Issue) (op : Nat) (t : Task) : (cxOf i op t).word = issueBits i op := rfl
@[simp] theorem cxOf_ext (i : Issue) (op : Nat) (t : Task) : (cxOf i op t).ext = i.ext.toNat := rfl
@[simp] theorem cxOf_t (i : Issue) (op : Nat) (t : Task) : (cxOf i op t).t = t := rfl
@[simp] theorem cxOf_s (i : Issue) (op : Nat) (t : Task) (k : Nat) : (cxOf i op t).s k = (t.reg k).toNat := rfl
@[simp] theorem cxOf_dst (i : Issue) (op : Nat) (t : Task) : (cxOf i op t).dst = dstOf i := field_issueBits i op 42 6 (by decide)
@[simp] theorem cxOf_srcA (i : Issue) (op : Nat) (t : Task) : (cxOf i op t).srcA = srcAOf i := field_issueBits i op 36 6 (by decide)
@[simp] theorem cxOf_srcB (i : Issue) (op : Nat) (t : Task) : (cxOf i op t).srcB = srcBOf i := field_issueBits i op 30 6 (by decide)
@[simp] theorem cxOf_immf (i : Issue) (op : Nat) (t : Task) : (cxOf i op t).immf = immForm i := bitAt_issueBits i op (by decide)

theorem ofNat_toNat_self {w : Nat} (v : BitVec w) : BitVec.ofNat w v.toNat = v := by rw [BitVec.ofNat_toNat, BitVec.setWidth_eq]

theorem toSigned_eq (w n : Nat) : toSigned w n = (BitVec.ofNat w n).toInt := by
  rw [BitVec.toInt_eq_toNat_cond, BitVec.toNat_ofNat]
  rfl

theorem ofSigned_eq (w : Nat) (z : Int) : ofSigned w z = (BitVec.ofInt w z).toNat := (BitVec.toNat_ofInt z).symm

theorem toSigned_toNat {w : Nat} (v : BitVec w) : toSigned w v.toNat = v.toInt := by
  rw [toSigned_eq, ofNat_toNat_self]

theorem ofNat_ofSigned (w : Nat) (z : Int) : BitVec.ofNat w (ofSigned w z) = BitVec.ofInt w z := by
  rw [ofSigned_eq, ofNat_toNat_self]

/-- The low bits of an issued word are the body's. -/
theorem ofNat_issueBits (i : Issue) (op : Nat) {w : Nat} (h : w ≤ 56) : BitVec.ofNat w (issueBits i op) = i.body.setWidth w := by
  have e := field_issueBits i op 0 w (by omega)
  rw [wordField, field, field, Nat.shiftRight_zero, Nat.shiftRight_zero] at e
  apply BitVec.eq_of_toNat_eq
  rw [BitVec.toNat_ofNat, BitVec.toNat_setWidth, e]

theorem cxOf_imm36 (i : Issue) (op : Nat) (t : Task) : (cxOf i op t).imm36 = (i.body.setWidth 36).toInt := by
  rw [Cx.imm36, toSigned_eq, cxOf_word, ofNat_issueBits i op (by decide)]

theorem ofInt_imm36 (i : Issue) (op : Nat) (t : Task) (w : Nat) :
    BitVec.ofInt w (cxOf i op t).imm36 = (i.body.setWidth 36).signExtend w := by
  rw [cxOf_imm36]
  rfl

/-- The address that a memory form computes (R183). -/
@[simp] theorem cxOf_addr (i : Issue) (op : Nat) (t : Task) : (cxOf i op t).addr = memAddr i t := by
  rw [Cx.addr, ofSigned_eq, BitVec.ofInt_add, ofInt_imm36, cxOf_srcA, cxOf_s, BitVec.ofInt_natCast, ofNat_toNat_self]
  rfl

@[simp] theorem cxOf_opB (i : Issue) (op : Nat) (t : Task) : (cxOf i op t).opB = (operandB i t).toNat := by
  rw [Cx.opB, operandB, cxOf_immf, cxOf_srcB, cxOf_s, ofSigned_eq, ofInt_imm36]
  cases immForm i <;> rfl

@[simp] theorem cxOf_opBPoison (i : Issue) (op : Nat) (t : Task) : (cxOf i op t).opBPoison = operandBPoison i t := by
  rw [Cx.opBPoison, cxOf_immf, cxOf_srcB]
  rfl

/-! ## Scalar results -/

/-- The body retires with its task changed by `f`, and changes nothing else. -/
def ChangesTask (op : Nat) (body : Cx → State → Chk Next) (f : Issue → Task → Task) : Prop :=
  ∀ i t (s : State), ∃ g : Task → Task, g t = f i t ∧ body (cxOf i op t) s = .ok (.retire (s.modTask i.core i.slot g))

theorem ChangesTask.retiresWith {op : Issue → Instr} {sp : OpSpec} {body : Cx → State → Chk Next} {f : Issue → Task → Task}
    (hbody : ChangesTask sp.op body f) (hexec : ∀ i s, exec (op i) s = issue sp body i s) : RetiresWith op sp f := by
  intro i s t h
  obtain ⟨g, hg, hb⟩ := hbody i t (s.turn i)
  rw [hexec, issue_task h body g hb, hg]

theorem changesTask_aluBody (op : Nat) {f : Nat → Nat → Nat} {g : Word64 → Word64 → Word64}
    (hfg : ∀ a b : Word64, BitVec.ofNat 64 (f a.toNat b.toNat) = g a b) : ChangesTask op (aluBody f) (aluResult g) := by
  intro i t s
  refine ⟨_, ?_, rfl⟩
  simp only [cxOf_dst, cxOf_srcA, cxOf_s, cxOf_opB, cxOf_opBPoison, cxOf_t, hfg]
  rfl

theorem changesTask_cmpBody (op : Nat) {f : Nat → Nat → Bool} {g : Word64 → Word64 → Bool}
    (hfg : ∀ a b : Word64, f a.toNat b.toNat = g a b) : ChangesTask op (cmpBody f) (compareResult g) := by
  intro i t s
  refine ⟨_, ?_, rfl⟩
  simp only [cxOf_dst, cxOf_srcA, cxOf_s, cxOf_opB, cxOf_opBPoison, cxOf_t, hfg]
  rfl

theorem changesTask_predBody (op : Nat) (f : Bool → Bool → Bool) : ChangesTask op (predBody f) (logicResult f) := by
  intro i t s
  refine ⟨_, ?_, rfl⟩
  simp only [cxOf_dst, cxOf_srcA, cxOf_srcB, cxOf_t]
  rfl

theorem changesTask_movBody (op : Nat) :
    ChangesTask op movBody fun i t => t.setReg (dstOf i) (t.reg (srcAOf i)) (t.regPoison (srcAOf i)) := by
  intro i t s
  refine ⟨_, ?_, rfl⟩
  simp only [cxOf_dst, cxOf_srcA, cxOf_s, cxOf_t, ofNat_toNat_self]

theorem changesTask_ldiBody (op : Nat) : ChangesTask op ldiBody fun i t => t.setReg (dstOf i) i.ext false := by
  intro i t s
  refine ⟨_, ?_, rfl⟩
  simp only [cxOf_dst, cxOf_ext, ofNat_toNat_self]

/-- To retire with the task as it is is to retire. -/
theorem State.retire_putTask_self {s : State} {i : Issue} {t : Task} (h : s.task? i.core i.slot = some t) (ext : Bool) :
    (s.putTask i t).retire i ext = s.retire i ext := by
  rw [State.retire, State.retire, State.putTask, State.modTask_setTask, State.modTask_of s h]

theorem retiresWith_nop : RetiresWith .nop ⟨0x01, false, rsvdNone, enumAny⟩ fun _ t => t := by
  intro i s t h
  rw [State.retire_putTask_self (s := s.turn i) h.task]
  exact issue_retire h (fun _ s => .ok (.retire s)) rfl (poisonLeaves_same _ _ rfl)

/-! ## Arithmetic of 64-bit words -/

theorem ofNat_sub_mod (a b : Word64) : BitVec.ofNat 64 ((a.toNat + 2 ^ 64 - b.toNat) % 2 ^ 64) = a - b := by
  apply BitVec.eq_of_toNat_eq
  rw [BitVec.toNat_ofNat, BitVec.toNat_sub]
  omega

theorem ofNat_sra64 (a b : Word64) : BitVec.ofNat 64 (sra64 a.toNat b.toNat) = a.sshiftRight (b.toNat % 64) := by
  rw [sra64, ofNat_ofSigned, toSigned_toNat, BitVec.sshiftRight_eq, Int.shiftRight_eq_div_pow]

theorem toSigned_le (a b : Word64) : toSigned 64 a.toNat ≤ toSigned 64 b.toNat ↔ a.sle b = true := by
  rw [toSigned_toNat, toSigned_toNat, BitVec.sle_iff_toInt_le]

theorem toSigned_lt (a b : Word64) : toSigned 64 a.toNat < toSigned 64 b.toNat ↔ a.slt b = true := by
  rw [toSigned_toNat, toSigned_toNat, BitVec.slt_iff_toInt_lt]

/-- Settles O1: each row's body changes its task alone, and the arithmetic on naturals modulo 2^64 is that of 64-bit words. -/
theorem registerAndPredicateResults : Obligations.RegisterAndPredicateResults := by
  unfold Obligations.RegisterAndPredicateResults
  refine ⟨?add, ?sub, ?mul, ?and, ?or, ?xor, ?shl, ?shr, ?sra, ?min, ?max, ?nop, ?mov, ?ldi, ?cmpEq, ?cmpLt, ?cmpLtu, ?pand, ?por,
    ?pxor, ?p0⟩
  case add => exact (changesTask_aluBody _ fun a b => by rw [← BitVec.toNat_add, ofNat_toNat_self]).retiresWith fun _ _ => rfl
  case sub => exact (changesTask_aluBody _ ofNat_sub_mod).retiresWith fun _ _ => rfl
  case mul => exact (changesTask_aluBody _ fun a b => by rw [← BitVec.toNat_mul, ofNat_toNat_self]).retiresWith fun _ _ => rfl
  case and => exact (changesTask_aluBody _ fun a b => by rw [← BitVec.toNat_and, ofNat_toNat_self]).retiresWith fun _ _ => rfl
  case or => exact (changesTask_aluBody _ fun a b => by rw [← BitVec.toNat_or, ofNat_toNat_self]).retiresWith fun _ _ => rfl
  case xor => exact (changesTask_aluBody _ fun a b => by rw [← BitVec.toNat_xor, ofNat_toNat_self]).retiresWith fun _ _ => rfl
  case shl => exact (changesTask_aluBody _ fun a b => by rw [← BitVec.toNat_shiftLeft, ofNat_toNat_self]).retiresWith fun _ _ => rfl
  case shr => exact (changesTask_aluBody _ fun a b => by rw [← BitVec.toNat_ushiftRight, ofNat_toNat_self]).retiresWith fun _ _ => rfl
  case sra => exact (changesTask_aluBody _ ofNat_sra64).retiresWith fun _ _ => rfl
  case min =>
    refine (changesTask_aluBody _ fun a b => ?_).retiresWith fun _ _ => rfl
    simp only [toSigned_le, apply_ite (BitVec.ofNat 64), ofNat_toNat_self]
  case max =>
    refine (changesTask_aluBody _ fun a b => ?_).retiresWith fun _ _ => rfl
    simp only [toSigned_le, apply_ite (BitVec.ofNat 64), ofNat_toNat_self]
  case nop => exact retiresWith_nop
  case mov => exact (changesTask_movBody _).retiresWith fun _ _ => rfl
  case ldi => exact (changesTask_ldiBody _).retiresWith fun _ _ => rfl
  case cmpEq =>
    refine (changesTask_cmpBody _ fun a b => ?_).retiresWith fun _ _ => rfl
    rw [Bool.eq_iff_iff, beq_iff_eq, beq_iff_eq, BitVec.toNat_inj]
  case cmpLt => exact (changesTask_cmpBody _ fun a b => by simp only [toSigned_lt, Bool.decide_eq_true]).retiresWith fun _ _ => rfl
  case cmpLtu => exact (changesTask_cmpBody _ fun a b => by rw [BitVec.ult_eq_decide]).retiresWith fun _ _ => rfl
  case pand => exact (changesTask_predBody _ _).retiresWith fun _ _ => rfl
  case por => exact (changesTask_predBody _ _).retiresWith fun _ _ => rfl
  case pxor => exact (changesTask_predBody _ _).retiresWith fun _ _ => rfl
  case p0 => exact fun t v pz => ⟨rfl, rfl⟩

end Sys2Proof.Machine

/-! # Scalar memory, branches, flags and HALT (R8, R144, R147, R183, R243, R244)

What an instruction reads at an aligned address of T0 or T1 and what its store leaves there, and the ends of an instruction that jumps. -/

namespace Sys2Proof.Machine
open Sys2Proof

/-! ## Reads and writes in place (R243, R244) -/

theorem lowerTiles_of_upper {a : Nat} (n : Nat) (h : upperTier a = true) : lowerTiles a n = [] := by simp [lowerTiles, h]

section
variable {s : State} {core c a n : Nat}

theorem State.tread_upper (h0 : 0 < n) (hpage : a % 4096 + n ≤ 4096) (hup : upperTier a = true) :
    s.tread core c a n = s.mem.bytes (s.key c a) n := by
  simp [State.tread, pieces_page a n h0 hpage, State.pageRead, hup]

theorem State.tpoison_upper (h0 : 0 < n) (hpage : a % 4096 + n ≤ 4096) (hup : upperTier a = true) :
    s.tpoison core c a n = s.mem.anyPoison (s.key c a) n := by
  simp [State.tpoison, pieces_page a n h0 hpage, State.pagePoison, hup]

@[simp] theorem State.stageFits_nil (s : State) (c : Nat) : s.stageFits c [] = true := rfl
@[simp] theorem State.needStaged_nil (s : State) (x : Cx) : s.needStaged x [] = .ok () := rfl
@[simp] theorem State.useStaged_nil (s : State) (core slot c : Nat) : s.useStaged core slot c [] = s := rfl
@[simp] theorem need_true (e : Stop) : need true e = .ok () := rfl

end

@[simp] theorem State.turn_mem (s : State) (i : Issue) : (s.turn i).mem = s.mem := rfl
@[simp] theorem State.turn_out (s : State) (i : Issue) : (s.turn i).out = s.out := rfl
@[simp] theorem State.key_turn (s : State) (i : Issue) (c a : Nat) : (s.turn i).key c a = s.key c a := rfl
@[simp] theorem State.task?_turn (s : State) (i : Issue) (core slot : Nat) : (s.turn i).task? core slot = s.task? core slot := rfl
@[simp] theorem State.writable_turn (s : State) (i : Issue) (c a n : Nat) : (s.turn i).writable c a n = s.writable c a n := rfl
@[simp] theorem State.older_turn (s : State) (i : Issue) (core slot : Nat) : (s.turn i).older core slot = s.older core slot := rfl

@[simp] theorem chk_bind_ok {α β : Type} (a : α) (f : α → Chk β) : (Except.ok a : Chk α) >>= f = f a := rfl

/-- What a body needs of an address that it reads or writes in place. -/
structure InPlace (x : Cx) (s : State) (n : Nat) : Prop where
  aligned : x.addr % n = 0
  mapped : s.mapped x.c x.addr n = true
  upper : upperTier x.addr = true
  clean : x.t.regPoison x.srcA = false

section
variable {i : Issue} {s : State} {t : Task} {x : Cx}

theorem Readable.inPlace {n : Nat} (h : Readable i s t n) (op : Nat) : InPlace (cxOf i op t) (s.turn i) n where
  aligned := by rw [cxOf_addr, h.aligned]
  mapped := by rw [cxOf_addr, cxOf_c, State.mapped_turn, h.mapped]
  upper := by rw [cxOf_addr, h.upper]
  clean := by rw [cxOf_srcA, cxOf_t, h.clean]

/-- A range of 8 or 64 bytes that is aligned lies in one page. -/
theorem page_of_aligned {a n : Nat} (hn : n ∣ 4096) (h : a % n = 0) : a % 4096 + n ≤ 4096 := by
  obtain ⟨k, hk⟩ := hn
  have ha : a % 4096 = n * (a / n % k) := by rw [hk, Nat.mod_mul, h, Nat.zero_add]
  have hpos : 0 < k := Nat.pos_of_ne_zero fun h0 => by rw [h0] at hk; omega
  calc a % 4096 + n = n * (a / n % k + 1) := by rw [ha]; ring
    _ ≤ n * k := Nat.mul_le_mul_left n (Nat.mod_lt _ hpos)
    _ = 4096 := hk.symm

theorem InPlace.tread {n : Nat} (h : InPlace x s n) (hn : n ∣ 4096) : s.tread x.core x.c x.addr n = s.mem.bytes (s.key x.c x.addr) n :=
  State.tread_upper (Nat.pos_of_dvd_of_pos hn (by decide)) (page_of_aligned hn h.aligned) h.upper

theorem InPlace.tpoison {n : Nat} (h : InPlace x s n) (hn : n ∣ 4096) :
    s.tpoison x.core x.c x.addr n = s.mem.anyPoison (s.key x.c x.addr) n :=
  State.tpoison_upper (Nat.pos_of_dvd_of_pos hn (by decide)) (page_of_aligned hn h.aligned) h.upper

theorem InPlace.twrite {n : Nat} (h : InPlace x s n) (hn : n ∣ 4096) {bs : List Byte} (hbs : bs.length = n) (pz : Nat → Bool) :
    s.twrite x.c x.addr bs pz =
      { s with mem := s.mem.store (s.key x.c x.addr) bs fun q => pz (x.addr / 64 + (q - s.key x.c x.addr / 64)) } := by
  subst hbs
  exact s.twrite_page x.c x.addr bs pz (Nat.pos_of_dvd_of_pos hn (by decide)) (page_of_aligned hn h.aligned)

/-- LD.S of an address in place reads it and changes its register alone. -/
theorem ldSBody_inPlace (h : InPlace x s 8) : ldSBody x s = .ok (.retire (x.putS s x.dst
    (ofLe (s.mem.bytes (s.key x.c x.addr) 8)) (s.mem.anyPoison (s.key x.c x.addr) 8))) := by
  simp only [ldSBody, h.aligned, h.mapped, h.clean, h.tread (by decide), h.tpoison (by decide), lowerTiles_of_upper 8 h.upper,
    List.map_nil, State.stageFits_nil, State.needStaged_nil, State.useStaged_nil, beq_self_eq_true, Bool.and_self, Bool.not_false,
    need_true, chk_bind_ok]

/-- Memory reads back the bytes of a store, and elsewhere what it held. -/
theorem Memory.bytes_store_same (m : Memory) (key : Nat) (bs : List Byte) (pz : Nat → Bool) :
    (m.store key bs pz).bytes key bs.length = bs := by
  rw [Memory.bytes_eq]
  apply List.ext_getElem
  · simp
  · intro j hj _
    have hlt : j < bs.length := by simpa using hj
    simp [Memory.byte_store_in _ _ _ _ _ hlt, hlt]

/-- A body that ends with a write of a scalar register. -/
theorem issue_putS {sp : OpSpec} {body : Cx → State → Chk Next} {k v : Nat} {pz : Bool} (h : Executes sp i s t)
    (hb : body (cxOf i sp.op t) (s.turn i) = .ok (.retire ((cxOf i sp.op t).putS (s.turn i) k v pz))) :
    issue sp body i s = .next (((s.turn i).putTask i (t.setReg k (BitVec.ofNat 64 v) pz)).retire i sp.ext) :=
  issue_task h body (fun u => u.setReg k (BitVec.ofNat 64 v) pz) hb

/-- A body that ends with a store of `n` bytes in place: memory reads back the bytes there and is as it was elsewhere, and all else
is a retirement. -/
theorem issue_store {sp : OpSpec} {body : Cx → State → Chk Next} {n : Nat} {bs : List Byte} {pz : Nat → Bool}
    (h : Executes sp i s t) (hr : Readable i s t n) (hn : n ∣ 4096) (hbs : bs.length = n)
    (hb : body (cxOf i sp.op t) (s.turn i) = .ok (.retire ((s.turn i).twrite t.ctx (memAddr i t) bs pz))) :
    ∃ u, issue sp body i s = .next u ∧ u.mem.bytes (s.key t.ctx (memAddr i t)) n = bs ∧
      (∀ a, a < s.key t.ctx (memAddr i t) ∨ s.key t.ctx (memAddr i t) + n ≤ a → u.mem.byte a = s.mem.byte a) ∧
      { u with mem := s.mem } = (s.turn i).retire i sp.ext := by
  have hw := (hr.inPlace sp.op).twrite hn hbs pz
  simp only [cxOf_addr, cxOf_c, State.key_turn, State.turn_mem] at hw
  rw [hw] at hb
  refine ⟨_, issue_retire h body hb (poisonLeaves_same _ _ rfl), ?_, fun a ha => ?_, ?_⟩
  · rw [State.retire_mem, ← hbs]
    exact Memory.bytes_store_same ..
  · rw [State.retire_mem]
    exact Memory.byte_store_out _ _ (by rw [hbs]; exact ha)
  · rw [State.retire_with_mem]
    exact ((s.turn i).retire_with_mem s.mem i sp.ext).symm

theorem State.needWritable_ok {c a n align : Nat} (hal : a % align = 0) (hmap : s.mapped c a n = true) (hw : s.writable c a n = true) :
    s.needWritable c a n align = .ok () := by
  simp [State.needWritable, hal, hmap, hw]

theorem stSBody_inPlace (h : InPlace x s 8) (hw : s.writable x.c x.addr 8 = true) : stSBody x s =
    .ok (.retire (s.twrite x.c x.addr (leBytes 8 (x.s x.dst)) fun _ => x.t.regPoison x.dst)) := by
  simp only [stSBody, State.needWritable_ok h.aligned h.mapped hw, h.clean, Bool.not_false, need_true, chk_bind_ok]

end

/-- Settles O2: an aligned range of eight bytes lies in one page, so a load is one read of memory and a store one write. -/
theorem scalarLoadAndStore : Obligations.ScalarLoadAndStore := by
  unfold Obligations.ScalarLoadAndStore
  refine ⟨fun i s t h hr => ?load, fun i s t h hw => ?store⟩
  case load =>
    refine issue_putS (body := ldSBody) h ((ldSBody_inPlace (hr.inPlace _)).trans ?_)
    rw [cxOf_addr, cxOf_dst]
    rfl
  case store =>
    refine issue_store (body := stSBody) (pz := fun _ => t.regPoison (dstOf i)) h hw.toReadable (by decide) (length_leBytes ..) ?_
    refine (stSBody_inPlace (hw.inPlace _) (by rw [cxOf_addr]; exact hw.writable)).trans ?_
    rw [cxOf_addr, cxOf_dst]
    rfl

/-! ## Branches (R183) -/

section
variable {i : Issue} {s : State} {t : Task}

theorem State.conclude_jump {s' : State} {pc : Nat} (x : Cx) (h : poisonLeaves s (.jump s' pc) = false) :
    s.conclude x (.ok (.jump s' pc)) =
      ((s'.modTask x.core x.slot fun t => { t with pc := BitVec.ofNat 44 pc }).noteRetire x.core x.slot).noteIssue x.core x.slot := by
  simp only [State.conclude, guardRemote, h, Bool.false_eq_true, if_false]

theorem State.conclude_stay {s' : State} (x : Cx) (h : poisonLeaves s (.stay s') = false) :
    s.conclude x (.ok (.stay s')) = s'.noteIssue x.core x.slot := by
  simp only [State.conclude, guardRemote, h, Bool.false_eq_true, if_false]

/-- An instruction whose body jumps from the state before it retires with its PC at the target. -/
theorem issue_jump {sp : OpSpec} {body : Cx → State → Chk Next} {pc : Nat} (h : Executes sp i s t)
    (hb : body (cxOf i sp.op t) (s.turn i) = .ok (.jump (s.turn i) pc)) :
    issue sp body i s = .next (branched i s t (BitVec.ofNat 44 pc)) := by
  rw [issue_body h body hb nofun, State.conclude_jump _ (poisonLeaves_same (s.turn i) (.jump (s.turn i) pc) rfl),
    cxOf_core, cxOf_slot, State.noteRetire,
    State.modTask_modTask, State.modTask_of (s.turn i) h.task]
  rfl

theorem brBody_relative {x : Cx} (h : x.immf = true) : brBody x s =
    .ok (.jump s (((x.t.pc.toNat : Int) + 8 * x.imm36) % ((2 ^ 44 : Nat) : Int)).toNat) := if_pos h

theorem brBody_register {x : Cx} (h : x.immf = false) (hclean : x.t.regPoison x.srcB = false) :
    brBody x s = .ok (.jump s (x.s x.srcB % 2 ^ 44)) := by
  simp [brBody, h, hclean]

theorem ofNat_relative (i : Issue) (op : Nat) (t : Task) :
    BitVec.ofNat 44 (((t.pc.toNat : Int) + 8 * (cxOf i op t).imm36) % ((2 ^ 44 : Nat) : Int)).toNat =
      t.pc + 8#44 * (i.body.setWidth 36).signExtend 44 := by
  refine (ofNat_ofSigned 44 _).trans ?_
  rw [BitVec.ofInt_add, BitVec.ofInt_mul, ofInt_imm36, BitVec.ofInt_natCast, ofNat_toNat_self]
  rfl

/-! ## Instructions that wait for the older ones (R144, R147) -/

theorem flagsRdBody_ready {x : Cx} (h : s.older x.core x.slot = false) :
    flagsRdBody x s = .ok (.retire (x.putS s x.dst x.t.flags.toNat false)) := by
  simp [flagsRdBody, h]

theorem flagsClrBody_ready {x : Cx} (h : s.older x.core x.slot = false) : flagsClrBody x s =
    .ok (.retire (s.modTask x.core x.slot fun t => { t with flags := t.flags &&& ~~~ BitVec.ofNat 16 (x.f 0 6) })) := by
  simp [flagsClrBody, h]

/-- The state that HALT leaves before it retires. -/
def State.halted (s : State) (x : Cx) : State :=
  ((s.modTask x.core x.slot fun t => { t with state := .halted, stopCause := 6 }).closeBatches x.core x.slot).thrUpdate x.c

theorem haltBody_ready {x : Cx} (h : s.older x.core x.slot = false) : haltBody x s = .ok (.retire (s.halted x)) := by
  simp [haltBody, h, State.halted]

theorem State.thrUpdate_out (s : State) (c : Nat) : (s.thrUpdate c).out = s.out :=
  s.apply_thrUpdate c (fun _ _ _ => rfl) (fun _ _ _ => rfl) fun _ _ _ _ => rfl

theorem State.task?_retire {s : State} {i : Issue} {t : Task} (h : s.task? i.core i.slot = some t) (ext : Bool) :
    (s.retire i ext).task? i.core i.slot = some (t.past ext) := by
  rw [State.retire, State.task?_noteIssue, State.modTask_of s h, State.task?_setTask]

theorem State.task?_halted {x : Cx} (h : s.task? x.core x.slot = some t) :
    (s.halted x).task? x.core x.slot = some { t with state := .halted, stopCause := 6 } := by
  rw [State.halted, State.modTask_of s h, State.task?, State.thrUpdate_tasks]
  exact State.task?_setTask ..

theorem State.halted_mem {x : Cx} (h : s.task? x.core x.slot = some t) : (s.halted x).mem = s.mem := by
  rw [State.halted, State.modTask_of s h, State.thrUpdate_mem]
  rfl

theorem State.halted_out {x : Cx} (h : s.task? x.core x.slot = some t) : (s.halted x).out = s.out := by
  rw [State.halted, State.modTask_of s h, State.thrUpdate_out]
  rfl

end

/-- Settles O3: a branch is a jump of a task that nothing else changes; HALT changes its task and the context's count of generations. -/
theorem branchesFlagsAndHalt : Obligations.BranchesFlagsAndHalt := by
  unfold Obligations.BranchesFlagsAndHalt
  refine ⟨fun i s t h hf => ?relative, fun i s t h hf hclean => ?register, fun i s t h hold => ?flagsRd, fun i s t h hold => ?flagsClr,
    fun i s t h hold => ?halt⟩
  case relative =>
    rw [← ofNat_relative i brSpec.op t]
    exact issue_jump (body := brBody) h (brBody_relative (by rw [cxOf_immf, hf]))
  case register =>
    have hpc : BitVec.ofNat 44 ((t.reg (srcBOf i)).toNat % 2 ^ 44) = (t.reg (srcBOf i)).setWidth 44 := by
      rw [← BitVec.toNat_setWidth, ofNat_toNat_self]
    rw [← hpc]
    refine issue_jump (body := brBody) h ((brBody_register (by rw [cxOf_immf, hf]) (by rw [cxOf_srcB]; exact hclean)).trans ?_)
    rw [cxOf_srcB, cxOf_s]
  case flagsRd =>
    rw [← BitVec.ofNat_toNat]
    refine issue_putS (body := flagsRdBody) h ((flagsRdBody_ready hold).trans ?_)
    rw [cxOf_dst]
    rfl
  case flagsClr =>
    have himm : (cxOf i 0x1B t).f 0 6 = (i.body.setWidth 6).toNat := by
      rw [BitVec.toNat_setWidth]
      exact field_issueBits i 0x1B 0 6 (by decide)
    refine issue_task h flagsClrBody (fun u => { u with flags := u.flags &&& ~~~ ((i.body.setWidth 6).setWidth 16) })
      ((flagsClrBody_ready hold).trans ?_)
    rw [himm, BitVec.ofNat_toNat]
    rfl
  case halt =>
    have ht := State.task?_halted (s := s.turn i) (x := cxOf i 0x17 t) h.task
    refine ⟨_, _, issue_retire h haltBody (haltBody_ready hold) (poisonLeaves_same _ _ (State.halted_out h.task)),
      State.task?_retire ht _, rfl, rfl, rfl, rfl, rfl, rfl, rfl, rfl, ?_⟩
    rw [State.retire_mem]
    exact State.halted_mem h.task

end Sys2Proof.Machine

/-! # Tile descriptors (R183, R249, R252, R255)

Register fields of six bits that name one of 32 descriptors, and each descriptor instruction as one change of its task or one store. -/

namespace Sys2Proof.Machine
open Sys2Proof

/-! ## Register numbers and the staging that begins -/

/-- A field of six bits whose top bit is 0 holds its value modulo 32. -/
theorem field_mod_32 {w lo : Nat} (h : rsvdT lo w = true) : field w lo 6 % 32 = field w lo 6 := by
  have htop : (w >>> lo) / 32 % 2 ≠ 1 := by
    simpa [rsvdT, bitAt, Nat.shiftRight_add, Nat.shiftRight_eq_div_pow w, pow_add, Nat.div_div_eq_div_mul] using h
  rw [field]
  omega

theorem State.beginAhead_of_noAhead (s : State) (x : Cx) {d : Nat} (poisoned : Bool) (h : noAhead d) : s.beginAhead x d poisoned = s := by
  refine if_pos ?_
  rcases h with h | h <;> simp [Desc.of, Desc.stream, h]

theorem descSelector_isSome {n : Nat} (h : n < 9) : (descSelector n).isSome = true := by
  interval_cases n <;> rfl

theorem descSelector_reserved {n : Nat} (h : 9 ≤ n) : descSelector n = none := by
  obtain ⟨m, rfl⟩ := Nat.exists_eq_add_of_le' h
  rfl

/-! ## The bodies -/

section
variable {i : Issue} {s : State} {t : Task} {x : Cx}

/-- A body that ends with a write of a descriptor register. -/
theorem issue_putDesc {sp : OpSpec} {body : Cx → State → Chk Next} {k v : Nat} {pz : Bool} (h : Executes sp i s t)
    (hb : body (cxOf i sp.op t) (s.turn i) = .ok (.retire ((s.turn i).modTask i.core i.slot fun u => u.setDesc k v pz))) :
    issue sp body i s = .next (((s.turn i).putTask i (t.setDesc k v pz)).retire i sp.ext) :=
  issue_task h body (fun u => u.setDesc k v pz) hb

theorem tdLdBody_inPlace (h : InPlace x s 64) (hnone : noAhead (ofLe (s.mem.bytes (s.key x.c x.addr) 64))) : tdLdBody x s =
    .ok (.retire (s.modTask x.core x.slot fun t => t.setDesc (x.dst % 32) (ofLe (s.mem.bytes (s.key x.c x.addr) 64))
      (s.mem.anyPoison (s.key x.c x.addr) 64))) := by
  simp only [tdLdBody, h.aligned, h.mapped, h.clean, h.tread (by decide), h.tpoison (by decide), lowerTiles_of_upper 64 h.upper,
    List.map_nil, State.stageFits_nil, State.needStaged_nil, State.useStaged_nil, beq_self_eq_true, Bool.and_self, Bool.not_false,
    need_true, chk_bind_ok, State.beginAhead_of_noAhead _ x _ hnone]

theorem tdStBody_inPlace (h : InPlace x s 64) (hw : s.writable x.c x.addr 64 = true) : tdStBody x s =
    .ok (.retire (s.twrite x.c x.addr (leBytes 64 (x.t.desc (x.dst % 32))) fun _ => x.t.descPoison (x.dst % 32))) := by
  simp only [tdStBody, State.needWritable_ok h.aligned h.mapped hw, h.clean, Bool.not_false, need_true, chk_bind_ok]

theorem tdSetBody_noAhead {lo w : Nat} (hsel : descSelector (x.f 0 8) = some (lo, w))
    (hnone : noAhead (setField (x.t.desc (x.dst % 32)) lo w (x.s x.srcA))) : tdSetBody x s =
    .ok (.retire (s.modTask x.core x.slot fun t => t.setDesc (x.dst % 32) (setField (x.t.desc (x.dst % 32)) lo w (x.s x.srcA))
      (x.t.descPoison (x.dst % 32) || x.t.regPoison x.srcA))) := by
  simp only [tdSetBody, hsel, State.beginAhead_of_noAhead _ x _ hnone, ite_self]

theorem tdGetBody_of {lo w : Nat} (hsel : descSelector (x.f 0 8) = some (lo, w)) : tdGetBody x s =
    .ok (.retire (x.putS s x.dst (field (x.t.desc (x.srcA % 32)) lo w) (x.t.descPoison (x.srcA % 32)))) := by
  simp only [tdGetBody, hsel]

/-- BASE moves by whole tiles modulo 2^44 (R252). -/
theorem ofSigned_advance (i : Issue) (op : Nat) (t : Task) (d : Nat) :
    ofSigned 44 ((field d 0 44 : Int) + (cxOf i op t).imm36 * 4096) =
      (BitVec.ofNat 44 d + 4096#44 * (i.body.setWidth 36).signExtend 44).toNat := by
  have hbase : BitVec.ofNat 44 (field d 0 44) = BitVec.ofNat 44 d := by
    rw [field, Nat.shiftRight_zero, ← BitVec.toNat_ofNat, ofNat_toNat_self]
  rw [ofSigned_eq, BitVec.ofInt_add, BitVec.ofInt_mul, ofInt_imm36, BitVec.ofInt_natCast, hbase, BitVec.mul_comm]
  rfl

end

/-- DST of a word that names a descriptor register. -/
theorem dst_mod_32 (i : Issue) (op : Nat) (t : Task) (h : rsvdT 42 (issueBits i op) = true) : (cxOf i op t).dst % 32 = dstOf i :=
  (field_mod_32 h).trans (cxOf_dst i op t)

theorem srcA_mod_32 (i : Issue) (op : Nat) (t : Task) (h : rsvdT 36 (issueBits i op) = true) : (cxOf i op t).srcA % 32 = srcAOf i :=
  (field_mod_32 h).trans (cxOf_srcA i op t)

theorem selector_eq (i : Issue) (op : Nat) (t : Task) {p : Nat × Nat} (h : descSelector (wordField i 0 8) = some p) :
    descSelector ((cxOf i op t).f 0 8) = some p := (congrArg descSelector (field_issueBits i op 0 8 (by decide))).trans h

/-- Settles O4: each row changes its descriptor or scalar register, or makes one store in place; a descriptor that is not AHEAD begins
no staging. -/
theorem descriptorInstructions : Obligations.DescriptorInstructions := by
  unfold Obligations.DescriptorInstructions
  refine ⟨fun i s t h hr hnone => ?load, fun i s t h hw => ?store, fun i s t lo w h hsel hnone => ?set, fun i s t lo w h hsel => ?get,
    fun i s t h => ?adv, fun n hn => descSelector_isSome hn, fun n hn => descSelector_reserved hn⟩
  case load =>
    have hdst := dst_mod_32 i 0x20 t (Bool.and_eq_true_iff.1 h.reserved).2
    refine issue_putDesc (body := tdLdBody) h ((tdLdBody_inPlace (hr.inPlace _) ?_).trans ?_)
    · rw [cxOf_addr]
      exact hnone
    · rw [cxOf_addr, hdst]
      rfl
  case store =>
    have hdst := dst_mod_32 i 0x21 t (Bool.and_eq_true_iff.1 h.reserved).2
    refine issue_store (body := tdStBody) (pz := fun _ => t.descPoison (dstOf i)) h hw.toReadable (by decide) (length_leBytes ..) ?_
    refine (tdStBody_inPlace (hw.inPlace _) (by rw [cxOf_addr]; exact hw.writable)).trans ?_
    rw [cxOf_addr, hdst]
    rfl
  case set =>
    have hdst := dst_mod_32 i 0x22 t (Bool.and_eq_true_iff.1 h.reserved).2
    refine issue_putDesc (body := tdSetBody) h ((tdSetBody_noAhead (selector_eq i 0x22 t hsel) ?_).trans ?_)
    · rw [hdst, cxOf_srcA]
      exact hnone
    · rw [hdst, cxOf_srcA]
      rfl
  case get =>
    have hsrc := srcA_mod_32 i 0x23 t (Bool.and_eq_true_iff.1 h.reserved).2
    refine issue_putS (body := tdGetBody) h ((tdGetBody_of (selector_eq i 0x23 t hsel)).trans ?_)
    rw [hsrc, cxOf_dst]
    rfl
  case adv =>
    have hdst := dst_mod_32 i tdAdvSpec.op t (Bool.and_eq_true_iff.1 (Bool.and_eq_true_iff.1 h.reserved).1).2
    rw [← ofSigned_advance i 0x24 t]
    refine issue_task h tdAdvBody (fun u => u.setDesc (dstOf i) (setField (t.desc (dstOf i)) 0 44
      (ofSigned 44 ((field (t.desc (dstOf i)) 0 44 : Int) + (cxOf i 0x24 t).imm36 * 4096))) (u.descPoison (dstOf i))) ?_
    simp only [tdAdvBody]
    rw [hdst]
    rfl

end Sys2Proof.Machine

/-! # Every command completes (R150, R184, R211)

Each arm of `exec` answers a next state, but for a TASK.CTL word of another row; and each arm's own law says that it keeps the queue. -/

namespace Sys2Proof.Machine
open Sys2Proof

/-- Whatever a command answers keeps the queue of waiting commands and the canonical forms: each arm has its law under Laws/. -/
theorem exec_keeps (s : State) : ∀ c : Instr, OutKeeps s (exec c s)
  | .nop .. => execNop_keeps _ _ .rfl
  | .add .. => execAdd_keeps _ _ .rfl
  | .sub .. => execSub_keeps _ _ .rfl
  | .mul .. => execMul_keeps _ _ .rfl
  | .and .. => execAnd_keeps _ _ .rfl
  | .or .. => execOr_keeps _ _ .rfl
  | .xor .. => execXor_keeps _ _ .rfl
  | .shl .. => execShl_keeps _ _ .rfl
  | .shr .. => execShr_keeps _ _ .rfl
  | .sra .. => execSra_keeps _ _ .rfl
  | .min .. => execMin_keeps _ _ .rfl
  | .max .. => execMax_keeps _ _ .rfl
  | .mov .. => execMov_keeps _ _ .rfl
  | .ldi .. => execLdi_keeps _ _ .rfl
  | .cmpEq .. => execCmpEq_keeps _ _ .rfl
  | .cmpLt .. => execCmpLt_keeps _ _ .rfl
  | .cmpLtu .. => execCmpLtu_keeps _ _ .rfl
  | .pand .. => execPand_keeps _ _ .rfl
  | .por .. => execPor_keeps _ _ .rfl
  | .pxor .. => execPxor_keeps _ _ .rfl
  | .br .. => execBr_keeps _ _ .rfl
  | .halt .. => execHalt_keeps _ _ .rfl
  | .ldS .. => execLdS_keeps _ _ .rfl
  | .stS .. => execStS_keeps _ _ .rfl
  | .flagsRd .. => execFlagsRd_keeps _ _ .rfl
  | .flagsClr .. => execFlagsClr_keeps _ _ .rfl
  | .tdLd .. => execTdLd_keeps _ _ .rfl
  | .tdSt .. => execTdSt_keeps _ _ .rfl
  | .tdSet .. => execTdSet_keeps _ _ .rfl
  | .tdGet .. => execTdGet_keeps _ _ .rfl
  | .tdAdv .. => execTdAdv_keeps _ _ .rfl
  | .mma .. => execMma_keeps _ _ .rfl
  | .mmaCsr .. => execMmaCsr_keeps _ _ .rfl
  | .spvalid .. => execSpvalid_keeps _ _ .rfl
  | .vadd .. => execVadd_keeps _ _ .rfl
  | .vsub .. => execVsub_keeps _ _ .rfl
  | .vmul .. => execVmul_keeps _ _ .rfl
  | .vfma .. => execVfma_keeps _ _ .rfl
  | .vdiv .. => execVdiv_keeps _ _ .rfl
  | .vmin .. => execVmin_keeps _ _ .rfl
  | .vmax .. => execVmax_keeps _ _ .rfl
  | .vsqrt .. => execVsqrt_keeps _ _ .rfl
  | .vfunc .. => execVfunc_keeps _ _ .rfl
  | .vcmp .. => execVcmp_keeps _ _ .rfl
  | .vsel .. => execVsel_keeps _ _ .rfl
  | .vld .. => execVld_keeps _ _ .rfl
  | .vst .. => execVst_keeps _ _ .rfl
  | .vrng .. => execVrng_keeps _ _ .rfl
  | .vredSum .. => execVredSum_keeps _ _ .rfl
  | .vredMax .. => execVredMax_keeps _ _ .rfl
  | .vredMin .. => execVredMin_keeps _ _ .rfl
  | .vnorm .. => execVnorm_keeps _ _ .rfl
  | .vsoftmax .. => execVsoftmax_keeps _ _ .rfl
  | .vaccRd .. => execVaccRd_keeps _ _ .rfl
  | .vaccWr .. => execVaccWr_keeps _ _ .rfl
  | .cvt .. => execCvt_keeps _ _ .rfl
  | .tcopy .. => execTcopy_keeps _ _ .rfl
  | .tfill .. => execTfill_keeps _ _ .rfl
  | .gatherDl .. => execGatherDl_keeps _ _ _ .rfl
  | .scatter .. => execScatter_keeps _ _ .rfl
  | .accOut .. => execAccOut_keeps _ _ .rfl
  | .resumableUnit .. => execResumableUnit_keeps _ _ _ _ .rfl
  | .streamSend .. => execStreamSend_keeps _ _ .rfl
  | .streamRecv .. => execStreamRecv_keeps _ _ .rfl
  | .latchWait .. => execLatchWait_keeps _ _ .rfl
  | .latchSig .. => execLatchSig_keeps _ _ .rfl
  | .bufAlloc .. => execBufAlloc_keeps _ _ .rfl
  | .bufFree .. => execBufFree_keeps _ _ .rfl
  | .streamInj .. => execStreamInj_keeps _ _ .rfl
  | .barrier .. => execBarrier_keeps _ _ .rfl
  | .threshold .. => execThreshold_keeps _ _ .rfl
  | .atLaunch .. => execAtLaunch_keeps _ _ .rfl
  | .tickRd .. => execTickRd_keeps _ _ .rfl
  | .unitQuery .. => execUnitQuery_keeps _ _ .rfl
  | .taskCtlStart .. => execTaskCtlStart_keeps _ _ .rfl
  | .taskCtlStop .. => execTaskCtlStop_keeps _ _ .rfl
  | .taskCtlPreempt .. => execTaskCtlPreempt_keeps _ _ .rfl
  | .taskCtlSave .. => execTaskCtlSave_keeps _ _ .rfl
  | .taskCtlRestore .. => execTaskCtlRestore_keeps _ _ .rfl
  | .collSum .. => execCollSum_keeps _ _ .rfl
  | .leaseAcq .. => execLeaseAcq_keeps _ _ .rfl
  | .leaseRel .. => execLeaseRel_keeps _ _ .rfl
  | .atom .. => execAtom_keeps _ _ .rfl
  | .rld .. => execRld_keeps _ _ .rfl
  | .rst .. => execRst_keeps _ _ .rfl
  | .inv .. => execInv_keeps _ _ .rfl
  | .doorbell .. => execDoorbell_keeps _ _ .rfl
  | .taskWake .. => execTaskWake_keeps _ _ _ _ .rfl
  | .ageLimitIssue .. => execAgeLimitIssue_keeps _ _ _ .rfl
  | .mmaCheckMismatch .. => execMmaCheckMismatch_keeps _ _ .rfl
  | .pswApplyMigrate .. => execPswApplyMigrate_keeps _ _ _ _ .rfl
  | .pswApplyReplace .. => execPswApplyReplace_keeps _ _ _ .rfl
  | .copyFail .. => execCopyFail_keeps _ _ .rfl
  | .migrateNewPositionFail .. => execMigrateNewPositionFail_keeps _ _ .rfl
  | .groupLand .. => execGroupLand_keeps _ _ .rfl
  | .creditArrive .. => execCreditArrive_keeps _ _ .rfl
  | .fetchEngineFetch .. => execFetchEngineFetch_keeps _ _ _ .rfl
  | .chainForward .. => execChainForward_keeps _ _ _ .rfl
  | .mergeFlitArrive .. => execMergeFlitArrive_keeps _ _ .rfl
  | .thresholdRelease .. => execThresholdRelease_keeps _ _ .rfl
  | .barrierRelease .. => execBarrierRelease_keeps _ _ _ .rfl
  | .launchTick .. => execLaunchTick_keeps _ _ .rfl
  | .taskCtlEffect .. => execTaskCtlEffect_keeps _ _ .rfl
  | .parkedTaskRestore .. => execParkedTaskRestore_keeps _ _ _ .rfl
  | .deadlock .. => execDeadlock_keeps _ _ .rfl
  | .strCfgEnable .. => execStrCfgEnable_keeps _ _ _ _ _ _ .rfl
  | .strCfgDisable .. => execStrCfgDisable_keeps _ _ _ _ _ .rfl
  | .synTskStart .. => execSynTskStart_keeps _ _ _ _ .rfl
  | .synTskStop .. => execSynTskStop_keeps _ _ _ _ .rfl
  | .synTskPreempt .. => execSynTskPreempt_keeps _ _ _ _ .rfl
  | .synTskSave .. => execSynTskSave_keeps _ _ _ _ .rfl
  | .synTskRestore .. => execSynTskRestore_keeps _ _ _ _ .rfl
  | .stageReserve .. => execStageReserve_keeps _ _ _ .rfl
  | .stageComplete .. => execStageComplete_keeps _ _ _ _ _ _ .rfl
  | .t2WriteAck .. => execT2WriteAck_keeps _ _ _ .rfl
  | .t2Lost .. => execT2Lost_keeps _ _ .rfl
  | .patrolScrub .. => execPatrolScrub_keeps _ _ .rfl
  | .migRingEnable .. => execMigRingEnable_keeps _ _ _ _ .rfl
  | .migRingTailWrite .. => execMigRingTailWrite_keeps _ _ _ _ .rfl
  | .migCopy .. => execMigCopy_keeps _ _ _ _ .rfl
  | .migDrop .. => execMigDrop_keeps _ _ .rfl
  | .migFence .. => execMigFence_keeps _ _ .rfl
  | .migCntClear .. => execMigCntClear_keeps _ _ _ .rfl
  | .migErrClear .. => execMigErrClear_keeps _ _ .rfl
  | .lvrDescEnable .. => execLvrDescEnable_keeps _ _ _ _ .rfl
  | .lvrDescTailWrite .. => execLvrDescTailWrite_keeps _ _ _ _ .rfl
  | .lvrLoad .. => execLvrLoad_keeps _ _ _ .rfl
  | .lvrSwap .. => execLvrSwap_keeps _ _ _ .rfl
  | .lvrWriteBack .. => execLvrWriteBack_keeps _ _ _ .rfl
  | .lvrFence .. => execLvrFence_keeps _ _ .rfl
  | .lvrChunkVerify .. => execLvrChunkVerify_keeps _ _ _ _ _ _ .rfl
  | .lvrFetchTimeout .. => execLvrFetchTimeout_keeps _ _ _ .rfl
  | .swapHold .. => execSwapHold_keeps _ _ .rfl
  | .swapExchangeDone .. => execSwapExchangeDone_keeps _ _ .rfl
  | .swapCommit .. => execSwapCommit_keeps _ _ _ .rfl
  | .swapRollback .. => execSwapRollback_keeps _ _ _ .rfl
  | .swapTimeout .. => execSwapTimeout_keeps _ _ .rfl
  | .lvrCntClear .. => execLvrCntClear_keeps _ _ _ .rfl
  | .lvrFailClear .. => execLvrFailClear_keeps _ _ .rfl
  | .meshFlitArrive .. => execMeshFlitArrive_keeps _ _ .rfl
  | .netTblArm .. => execNetTblArm_keeps _ _ .rfl
  | .netTblSwitch => execNetTblSwitch_keeps _ .rfl
  | .mrgNodeEnable .. => execMrgNodeEnable_keeps _ _ _ _ _ .rfl
  | .netCntClear .. => execNetCntClear_keeps _ _ .rfl
  | .timAcquire .. => execTimAcquire_keeps _ _ _ .rfl
  | .timDivArm .. => execTimDivArm_keeps _ _ _ .rfl
  | .divChange => execDivChange_keeps _ .rfl
  | .refFail .. => execRefFail_keeps _ _ .rfl
  | .refReturn .. => execRefReturn_keeps _ _ .rfl
  | .pllLockLoss => execPllLockLoss_keeps _ .rfl
  | .timeFlitSend .. => execTimeFlitSend_keeps _ _ _ .rfl
  | .timeFlitReceive .. => execTimeFlitReceive_keeps _ _ _ _ _ _ .rfl
  | .markerLoss => execMarkerLoss_keeps _ .rfl
  | .holdoverExpiry => execHoldoverExpiry_keeps _ .rfl
  | .lnkEnable .. => execLnkEnable_keeps _ _ _ _ .rfl
  | .lnkDisable .. => execLnkDisable_keeps _ _ _ _ .rfl
  | .lnkRetrain .. => execLnkRetrain_keeps _ _ _ _ .rfl
  | .lightDetect .. => execLightDetect_keeps _ _ .rfl
  | .lossOfLight .. => execLossOfLight_keeps _ _ .rfl
  | .pmdTrainDone .. => execPmdTrainDone_keeps _ _ .rfl
  | .alignDone .. => execAlignDone_keeps _ _ .rfl
  | .initFlitReceive .. => execInitFlitReceive_keeps _ _ _ _ _ .rfl
  | .trainTimeout .. => execTrainTimeout_keeps _ _ .rfl
  | .retrainDone .. => execRetrainDone_keeps _ _ .rfl
  | .retrainTimeout .. => execRetrainTimeout_keeps _ _ .rfl
  | .dataFlitReceive .. => execDataFlitReceive_keeps _ _ _ _ _ .rfl
  | .nakReceive .. => execNakReceive_keeps _ _ _ _ _ .rfl
  | .ackTimeout .. => execAckTimeout_keeps _ _ .rfl
  | .lnkCntClear .. => execLnkCntClear_keeps _ _ _ .rfl
  | .ethFrameReceive .. => execEthFrameReceive_keeps _ _ _ .rfl
  | .transportPacketReceive => execTransportPacketReceive_keeps _ .rfl
  | .tAckTimer .. => execTAckTimer_keeps _ _ _ .rfl
  | .tAckReceive => execTAckReceive_keeps _ .rfl
  | .rtoExpiry .. => execRtoExpiry_keeps _ _ _ .rfl
  | .connectionFail .. => execConnectionFail_keeps _ _ .rfl
  | .connIdleEvict .. => execConnIdleEvict_keeps _ _ _ .rfl
  | .trpCntClear .. => execTrpCntClear_keeps _ _ .rfl
  | .transitForward => execTransitForward_keeps _ .rfl
  | .rdReceive => execRdReceive_keeps _ .rfl
  | .wrReceive => execWrReceive_keeps _ .rfl
  | .atomicReceive => execAtomicReceive_keeps _ .rfl
  | .leaseReceive => execLeaseReceive_keeps _ .rfl
  | .invReceive => execInvReceive_keeps _ .rfl
  | .doorbellReceive => execDoorbellReceive_keeps _ .rfl
  | .rspReceive => execRspReceive_keeps _ .rfl
  | .requestResend .. => execRequestResend_keeps _ _ .rfl
  | .outcomeUnknown .. => execOutcomeUnknown_keeps _ _ .rfl
  | .leaseRetry .. => execLeaseRetry_keeps _ _ .rfl
  | .rcacheExpiry => execRcacheExpiry_keeps _ .rfl
  | .hingeHoldExpiry .. => execHingeHoldExpiry_keeps _ _ _ .rfl
  | .vblTblArm .. => execVblTblArm_keeps _ _ .rfl
  | .vblTblSwitch => execVblTblSwitch_keeps _ .rfl
  | .vblCntClear .. => execVblCntClear_keeps _ _ .rfl
  | .collReadyReceive => execCollReadyReceive_keeps _ .rfl
  | .collStepLaunch .. => execCollStepLaunch_keeps _ _ _ .rfl
  | .collStepDataReceive => execCollStepDataReceive_keeps _ .rfl
  | .collDoneReceive => execCollDoneReceive_keeps _ .rfl
  | .collAbortReceive => execCollAbortReceive_keeps _ .rfl
  | .collTimeout .. => execCollTimeout_keeps _ _ _ .rfl
  | .collStepResend => execCollStepResend_keeps _ .rfl
  | .colCntClear .. => execColCntClear_keeps _ _ _ .rfl
  | .ctxLoad .. => execCtxLoad_keeps _ _ _ .rfl
  | .bindingDone .. => execBindingDone_keeps _ _ _ _ .rfl
  | .ctxSeal .. => execCtxSeal_keeps _ _ _ .rfl
  | .ctxStart .. => execCtxStart_keeps _ _ _ .rfl
  | .ctxStartTick .. => execCtxStartTick_keeps _ _ .rfl
  | .ctxDrain .. => execCtxDrain_keeps _ _ _ _ .rfl
  | .drainComplete .. => execDrainComplete_keeps _ _ .rfl
  | .ctxKill .. => execCtxKill_keeps _ _ _ _ .rfl
  | .bootCommitDone => execBootCommitDone_keeps _ .rfl
  | .shtReset .. => execShtReset_keeps _ _ _ .rfl
  | .shtClear .. => execShtClear_keeps _ _ _ .rfl
  | .shtModClear .. => execShtModClear_keeps _ _ .rfl
  | .shtT2SizeWrite .. => execShtT2SizeWrite_keeps _ _ _ _ .rfl
  | .t2ZeroingDone .. => execT2ZeroingDone_keeps _ _ .rfl
  | .eventReport .. => execEventReport_keeps _ _ .rfl
  | .coalesceTimeout .. => execCoalesceTimeout_keeps _ _ .rfl
  | .evcGdisWrite .. => execEvcGdisWrite_keeps _ _ _ .rfl
  | .evcQueueEnable .. => execEvcQueueEnable_keeps _ _ _ _ .rfl
  | .evcHeadWrite .. => execEvcHeadWrite_keeps _ _ _ _ .rfl
  | .evcDone .. => execEvcDone_keeps _ _ _ .rfl
  | .targetTimeout .. => execTargetTimeout_keeps _ _ .rfl
  | .alarm .. => execAlarm_keeps _ _ _ _ .rfl
  | .evcCntClear .. => execEvcCntClear_keeps _ _ .rfl
  | .scanDue .. => execScanDue_keeps _ _ _ .rfl
  | .scanRequest .. => execScanRequest_keeps _ _ _ _ .rfl
  | .calibRequest .. => execCalibRequest_keeps _ _ _ _ .rfl
  | .stepBoundaryMigrate .. => execStepBoundaryMigrate_keeps _ _ .rfl
  | .scanComplete .. => execScanComplete_keeps _ _ _ .rfl
  | .calibComplete .. => execCalibComplete_keeps _ _ _ .rfl
  | .relForce .. => execRelForce_keeps _ _ _ _ .rfl
  | .suspectClear .. => execSuspectClear_keeps _ _ .rfl
  | .relCntClear .. => execRelCntClear_keeps _ _ .rfl
  | .pwrEnSet .. => execPwrEnSet_keeps _ _ _ .rfl
  | .pwrEnClear .. => execPwrEnClear_keeps _ _ _ .rfl
  | .rampDone .. => execRampDone_keeps _ _ .rfl
  | .shutdownDone .. => execShutdownDone_keeps _ _ .rfl
  | .minOffExpiry .. => execMinOffExpiry_keeps _ _ .rfl
  | .droopTrip .. => execDroopTrip_keeps _ _ _ .rfl
  | .droopRecover .. => execDroopRecover_keeps _ _ .rfl
  | .regionSag .. => execRegionSag_keeps _ _ .rfl
  | .contactFault .. => execContactFault_keeps _ _ _ _ .rfl
  | .thermHigh .. => execThermHigh_keeps _ _ _ .rfl
  | .thermTrip .. => execThermTrip_keeps _ _ _ .rfl
  | .inputSupervision .. => execInputSupervision_keeps _ _ .rfl
  | .coolantSupervision .. => execCoolantSupervision_keeps _ _ .rfl
  | .powerCablePull .. => execPowerCablePull_keeps _ _ .rfl
  | .powerOn .. => execPowerOn_keeps _ _ _ .rfl
  | .powerOffSequence => execPowerOffSequence_keeps _ .rfl
  | .pwrCntClear .. => execPwrCntClear_keeps _ _ .rfl
  | .telemetry .. => execTelemetry_keeps _ _ .rfl
  | .logRead .. => execLogRead_keeps _ _ .rfl
  | .partReset .. => execPartReset_keeps _ _ .rfl
  | .moduleReset .. => execModuleReset_keeps _ _ .rfl
  | .powerOff .. => execPowerOff_keeps _ _ .rfl
  | .dump .. => execDump_keeps _ _ .rfl
  | .storeUpdate .. => execStoreUpdate_keeps _ _ .rfl
  | .status .. => execStatus_keeps _ _ .rfl
  | .druterRestart .. => execDruterRestart_keeps _ _ .rfl
  | .assign .. => execAssign_keeps _ _ .rfl
  | .telemetryPass .. => execTelemetryPass_keeps _ _ .rfl
  | .sillEnum .. => execSillEnum_keeps _ _ .rfl
  | .sillFrameForward .. => execSillFrameForward_keeps _ _ _ _ .rfl
  | .sillLinkChange => execSillLinkChange_keeps _ .rfl
  | .beat => execBeat_keeps _ .rfl
  | .storeCommit .. => execStoreCommit_keeps _ _ .rfl
  | .svcBeatWrite .. => execSvcBeatWrite_keeps _ _ _ .rfl
  | .druterWatchdog => execDruterWatchdog_keeps _ .rfl
  | .bringUp .. => execBringUp_keeps _ _ .rfl
  | .bootWrapHoldExpiry => execBootWrapHoldExpiry_keeps _ .rfl
  | .testEnChange .. => execTestEnChange_keeps _ _ .rfl
  | .reg64LowRead .. => execReg64LowRead_keeps _ _ _ .rfl
  | .registerWrite .. => execRegisterWrite_keeps _ _ _ _ _ .rfl
  | .undefOp .. => execUndefOp_keeps _ _ _ _ .rfl
  | .badPc .. => execBadPc_keeps _ _ _ _ .rfl
  | .quietTimeExpiry .. => execQuietTimeExpiry_keeps _ _ .rfl
  | .mgmtBadRequest .. => execMgmtBadRequest_keeps _ _ _ .rfl

/-- A command that is no TASK.CTL row answers a next state. -/
theorem exec_next_of_not_taskCtl {c : Instr} (s : State) (h : c.taskCtl = none) : ∃ t, exec c s = .next t := by
  cases c
  case taskCtlStart | taskCtlStop | taskCtlPreempt | taskCtlSave | taskCtlRestore => cases h
  all_goals exact ⟨_, rfl⟩

theorem exec_eq_taskCtl {c : Instr} {f : Nat} {i : Issue} (s : State) (h : c.taskCtl = some (f, i)) : exec c s = taskCtl f i s := by
  cases c
  case taskCtlStart | taskCtlStop | taskCtlPreempt | taskCtlSave | taskCtlRestore =>
    cases h
    rfl
  all_goals cases h

theorem wellFormed_of_taskCtl {c : Instr} {f : Nat} {i : Issue} (h : c.taskCtl = some (f, i)) : WellFormed c = taskCtlForm f i := by
  rw [WellFormed, h]

theorem wellFormed_of_not_taskCtl {c : Instr} (h : c.taskCtl = none) : WellFormed c = true := by
  rw [WellFormed, h]

theorem taskCtl_illFormed {f : Nat} {i : Issue} (s : State) (h : taskCtlForm f i = false) : taskCtl f i s = .fault .illFormed := by
  rw [taskCtl, h]
  rfl

theorem taskCtl_next {f : Nat} {i : Issue} (s : State) (h : taskCtlForm f i = true) : ∃ t, taskCtl f i s = .next t := by
  rw [taskCtl, h]
  exact ⟨_, rfl⟩

/-- Settles O36: a row other than TASK.CTL has one outcome, and a TASK.CTL row two, by the FUNC of its word. -/
theorem wellFormedCommandsComplete : Obligations.WellFormedCommandsComplete := by
  unfold Obligations.WellFormedCommandsComplete
  intro c s
  have hkeeps : (∃ t, exec c s = .next t) → ∃ t, exec c s = .next t ∧ t.pending = s.pending := fun ⟨t, ht⟩ =>
    ⟨t, ht, (exec_keeps s c t ht).queue⟩
  cases h : c.taskCtl with
  | none =>
    rw [wellFormed_of_not_taskCtl h]
    exact ⟨fun _ => hkeeps (exec_next_of_not_taskCtl s h), nofun⟩
  | some p =>
    rw [wellFormed_of_taskCtl h]
    rw [exec_eq_taskCtl s h] at hkeeps ⊢
    exact ⟨fun hform => hkeeps (taskCtl_next s hform), taskCtl_illFormed s⟩

end Sys2Proof.Machine

/-! # Frames of register instructions (R96, R137, R140, R143, R153, R183)

Only an instruction that retires counts a task's instruction as retired: whatever stops or holds it leaves the count of every task. A body
that writes only registers edits its own task, within the frame of its register file. -/

namespace Sys2Proof.Machine
open Sys2Proof

/-! ## What a context's fault leaves of tasks (R97, R147, R465) -/

section
variable (s : State) (c : Nat)

@[simp] theorem State.raiseCtx_tasks (src code sev ctx w2 w3 : Nat) : (s.raiseCtx src code sev ctx w2 w3).cores.tasks = s.cores.tasks := by
  unfold State.raiseCtx State.raise
  split
  · rfl
  · split <;> rfl

@[simp] theorem State.twrite_tasks (a : Nat) (bs : List Byte) (pz : Nat → Bool) : (s.twrite c a bs pz).cores.tasks = s.cores.tasks := by
  rw [State.twrite_eq]

@[simp] theorem State.collEnd_tasks (i : Coll) (reason node : Nat) : (s.collEnd i reason node).cores.tasks = s.cores.tasks :=
  State.raiseCtx_tasks ..

@[simp] theorem State.collEndCtx_tasks : (s.collEndCtx c).cores.tasks = s.cores.tasks :=
  List.foldlRecOn (motive := fun u : State => u.cores.tasks = s.cores.tasks) _ _ rfl fun u hu i _ => (u.collEnd_tasks i 2 _).trans hu

@[simp] theorem State.migEnd_tasks (status done poisoned : Nat) : (s.migEnd c status done poisoned).cores.tasks = s.cores.tasks := by
  unfold State.migEnd
  simp [apply_ite (fun u : State => u.cores.tasks)]

@[simp] theorem State.migAbort_tasks : (s.migAbort c).cores.tasks = s.cores.tasks := by
  unfold State.migAbort
  split
  · exact State.migEnd_tasks ..
  · rfl

@[simp] theorem State.setLvr_tasks (l : Lvr) : (s.setLvr c l).cores.tasks = s.cores.tasks := rfl

@[simp] theorem State.lvrEnd_tasks (ring status chunks poisoned : Nat) :
    (s.lvrEnd c ring status chunks poisoned).cores.tasks = s.cores.tasks := by
  unfold State.lvrEnd
  simp [apply_ite (fun u : State => u.cores.tasks)]

@[simp] theorem State.dropReads_tasks (q : EngineRead → Bool) : (s.dropReads c q).cores.tasks = s.cores.tasks := rfl

@[simp] theorem State.lvrAbort_tasks : (s.lvrAbort c).cores.tasks = s.cores.tasks := by
  unfold State.lvrAbort
  dsimp only
  split <;> split <;> split <;> simp

@[simp] theorem State.setCtx_tasks (x : Context) : (s.setCtx c x).cores.tasks = s.cores.tasks := rfl

@[simp] theorem State.wr_tasks (a n : Nat) : (s.wr a n).cores.tasks = s.cores.tasks := rfl

@[simp] theorem State.put_tasks (f : Fld) (n : Nat) : (s.put f n).cores.tasks = s.cores.tasks := rfl

@[simp] theorem State.discardGroups_tasks : (s.discardGroups c).cores.tasks = s.cores.tasks := rfl

@[simp] theorem State.dropRequests_tasks : (s.dropRequests c).cores.tasks = s.cores.tasks := rfl

@[simp] theorem State.raiseInc_tasks : (s.raiseInc c).cores.tasks = s.cores.tasks := by
  have hbreaks : ∀ u : State, u.cores.tasks = s.cores.tasks →
      (if u.vbl.breaks.contains c then u else { u with vbl.breaks := u.vbl.breaks ++ [c] }).cores.tasks = s.cores.tasks := by
    intro u hu
    split <;> exact hu
  exact hbreaks _ (s.wr_tasks ..)

@[simp] theorem State.enterFaulted_tasks (cause ordinal : Nat) : (s.enterFaulted c cause ordinal).cores.tasks = s.cores.tasks := by
  rw [State.enterFaulted, State.raiseCtx_tasks, State.setCtx_tasks, State.raiseInc_tasks, State.put_tasks, State.put_tasks]

/-- A task of the context that has no STOP_CAUSE yet records one. -/
def Task.stopIn (c cause : Nat) (t : Task) : Task := if t.ctx == c && t.stopCause == 0 then { t with stopCause := cause } else t

theorem State.markStopped_tasks (cause : Nat) :
    (s.markStopped c cause).cores.tasks = s.cores.tasks.map fun p => (p.1, p.2.stopIn c cause) := by
  unfold State.markStopped Task.stopIn
  refine List.map_congr_left fun p _ => ?_
  split <;> rfl

@[simp] theorem State.contain_tasks (cause ordinal : Nat) : (s.contain c cause ordinal).cores.tasks = (s.markFaulted c).cores.tasks := by
  rw [State.contain, State.dropRequests_tasks, State.lvrAbort_tasks, State.migAbort_tasks, State.discardGroups_tasks,
    State.collEndCtx_tasks]
  simp only [State.markFaulted]
  split <;> split <;> simp only [State.put_tasks, State.setCtx_tasks, State.markStopped_tasks]

end

/-! ## Stops, holds and waits retire nothing -/

/-- Instructions that the task of a slot has retired (R219). -/
def State.retiredAt (s : State) (core slot : Nat) : Option Nat := (s.task? core slot).map (·.retired)

section
variable {s u : State}

/-- No task's count of retired instructions differs. -/
structure SameRetired (s u : State) : Prop where
  count : ∀ core slot, u.retiredAt core slot = s.retiredAt core slot

theorem SameRetired.refl (s : State) : SameRetired s s := ⟨fun _ _ => rfl⟩

theorem SameRetired.trans {w : State} (h : SameRetired s u) (k : SameRetired u w) : SameRetired s w :=
  ⟨fun core slot => (k.count core slot).trans (h.count core slot)⟩

theorem SameRetired.of_tasks (h : u.cores.tasks = s.cores.tasks) : SameRetired s u := ⟨fun core slot => by
  rw [State.retiredAt, State.retiredAt, State.task?, State.task?, h]⟩

theorem SameRetired.ite {w : State} {p : Prop} [Decidable p] (h : SameRetired s u) (k : SameRetired s w) :
    SameRetired s (if p then u else w) := by
  split
  · exact h
  · exact k

theorem SMap.get?_map {α β : Type} (m : SMap α) (f : α → β) (k : Nat) :
    SMap.get? (m.map fun p => (p.1, f p.2)) k = (SMap.get? m k).map f := by
  induction m with
  | nil => rfl
  | cons p m ih =>
    rw [List.map_cons, SMap.get?, SMap.get?, List.lookup_cons, List.lookup_cons]
    cases hk : k == p.1
    · exact ih
    · rfl

theorem Task.stopIn_retired (c cause : Nat) (t : Task) : (t.stopIn c cause).retired = t.retired := by
  unfold Task.stopIn
  split <;> rfl

theorem sameRetired_markStopped (s : State) (c cause : Nat) : SameRetired s (s.markStopped c cause) := ⟨fun core slot => by
  rw [State.retiredAt, State.task?, State.markStopped_tasks, SMap.get?_map, Option.map_map]
  exact congrArg (Option.map · _) (funext fun t => t.stopIn_retired c cause)⟩

/-- An edit of a task that keeps its count keeps every count. -/
theorem sameRetired_setTask {core slot : Nat} {t v : Task} (ht : s.task? core slot = some t) (hv : v.retired = t.retired) :
    SameRetired s (s.setTask core slot v) := ⟨fun a b => by
  rw [State.retiredAt, State.retiredAt, State.task?, State.setTask_tasks, SMap.get?_put]
  by_cases hk : taskKey a b = taskKey core slot
  · rw [if_pos hk, State.task?, hk, ← State.task?, ht, Option.map_some, Option.map_some, hv]
  · rw [if_neg hk, State.task?]⟩

theorem sameRetired_modTask (s : State) (core slot : Nat) {f : Task → Task} (hf : ∀ t, (f t).retired = t.retired) :
    SameRetired s (s.modTask core slot f) := by
  unfold State.modTask
  split
  next t ht => exact sameRetired_setTask ht (hf t)
  · exact .refl s

theorem sameRetired_noteIssue (s : State) (core slot : Nat) : SameRetired s (s.noteIssue core slot) :=
  .of_tasks (s.apply_noteIssue (p := (·.cores.tasks)) core slot (fun _ _ _ => rfl) fun _ _ => rfl)

theorem sameRetired_faultCtx (s : State) (c cause ordinal : Nat) : SameRetired s (s.faultCtx c cause ordinal) := by
  have hcontain : SameRetired s (s.contain c cause ordinal) :=
    (sameRetired_markStopped s c 4).trans (.of_tasks (State.contain_tasks ..))
  exact .ite (.refl s) (.ite (hcontain.trans (.of_tasks (State.put_tasks ..))) (hcontain.trans (.of_tasks (State.enterFaulted_tasks ..))))

theorem sameRetired_taskFault (s : State) (core slot cause word ext : Nat) : SameRetired s (s.taskFault core slot cause word ext) := by
  unfold State.taskFault
  split
  · exact .refl s
  next t ht =>
    have hrecorded : ∀ v : Task, v.retired = t.retired → ∀ src code w2 w3,
        SameRetired s (((s.setTask core slot v).raiseCtx src code 3 t.ctx w2 w3).thrUpdate t.ctx) := fun v hv src code w2 w3 =>
      (sameRetired_setTask ht hv).trans ((SameRetired.of_tasks (State.raiseCtx_tasks ..)).trans (.of_tasks (State.thrUpdate_tasks ..)))
    dsimp only
    exact .ite ((hrecorded _ (by rfl) _ _ _ _).trans (sameRetired_faultCtx ..)) (hrecorded _ (by rfl) _ _ _ _)

theorem sameRetired_poisonFault (s : State) (core slot kind file index word ext : Nat) :
    SameRetired s (s.poisonFault core slot kind file index word ext) := by
  unfold State.poisonFault
  split
  · exact .refl s
  next t ht =>
    exact ((sameRetired_setTask ht (by rfl)).trans (.of_tasks (State.raiseCtx_tasks ..))).trans (sameRetired_faultCtx ..)

@[simp] theorem State.wrap64_tasks (s : State) (a n : Nat) : (s.wrap64 a n).cores.tasks = s.cores.tasks :=
  BlindToRegs.wrap64 (p := (·.cores.tasks)) (fun _ _ _ => rfl) s a n

@[simp] theorem State.closeBatches_tasks (s : State) (core slot : Nat) : (s.closeBatches core slot).cores.tasks = s.cores.tasks := rfl

@[simp] theorem State.queueStage_tasks (s : State) (core slot : Nat) (w : Wait) :
    (s.queueStage core slot w).cores.tasks = s.cores.tasks := by
  cases w <;> rfl

theorem sameRetired_taskWait (s : State) (core slot : Nat) (w : Wait) : SameRetired s (s.taskWait core slot w) := by
  have hwaits : SameRetired s (s.modTask core slot fun t => { t with
      state := .waiting, wait := some w, waitStart := s.tick, causes := 0 }) := sameRetired_modTask s core slot fun _ => rfl
  refine (hwaits.trans (.of_tasks (State.queueStage_tasks _ core slot w))).trans
    (.trans (.of_tasks ?_) (.of_tasks (State.wrap64_tasks ..)))
  split
  · exact State.closeBatches_tasks ..
  · exact State.closeBatches_tasks ..
  · rfl

/-- Whatever keeps an instruction from its end retires no instruction. -/
theorem sameRetired_conclude_error (s : State) (x : Cx) (e : Stop) : SameRetired s (s.conclude x (.error e)) := by
  have hissued : ∀ u : State, u.cores.tasks = s.cores.tasks → SameRetired s (u.noteIssue x.core x.slot) := fun u hu =>
    (SameRetired.of_tasks hu).trans (sameRetired_noteIssue ..)
  cases e with
  | ill cause mis =>
    cases mis
    · exact (hissued s rfl).trans (sameRetired_taskFault ..)
    · exact (hissued (s.misusePart (s.partOf x.c)) rfl).trans (sameRetired_taskFault ..)
  | handle => exact (hissued s rfl).trans (sameRetired_taskFault ..)
  | poison k f i => exact (hissued s rfl).trans (sameRetired_poisonFault ..)
  | overrun ep n taken =>
    refine ((hissued s rfl).trans ((SameRetired.of_tasks (State.raiseCtx_tasks ..)).trans (.of_tasks (State.put_tasks ..)))).trans
      (sameRetired_faultCtx ..)
  | wait w => exact sameRetired_taskWait ..
  | hold => exact .refl s

end

/-! ## An instruction that retires ended without a stop -/

theorem eq_retire_of_frontEnd {sp : OpSpec} {s : State} {x : Cx} {n : Next} (h : frontEnd sp s x = some (.ok n)) : n = .retire s := by
  unfold frontEnd badPc rsvdEnum at h
  split_ifs at h with hpc hext hrsvd henum hpoison hguard
  all_goals cases h
  rfl

/-- What a stop or a hold leaves has retired nothing; otherwise the instruction has come to its end. -/
theorem issueRaw_ends {core slot : Nat} {s : State} {t : Task} (ht : s.task? core slot = some t) (word ext : Nat)
    (run : Cx → State → Chk Next) : SameRetired s (issueRaw core slot word ext run s) ∨
      ∃ n, run ⟨core, slot, t.ctx, word, ext, t⟩ (s.dropFirst core slot) = .ok n ∧
        issueRaw core slot word ext run s = (s.dropFirst core slot).conclude ⟨core, slot, t.ctx, word, ext, t⟩ (.ok n) := by
  simp only [issueRaw, ht]
  split_ifs
  · exact .inl (.refl s)
  · split
    next => exact .inl (.of_tasks (by unfold State.markHeld; split <;> rfl))
    next r hr =>
      cases hend : run ⟨core, slot, t.ctx, word, ext, t⟩ (s.dropFirst core slot) with
      | error e => exact .inl (.trans (u := s.dropFirst core slot) (.of_tasks rfl) (sameRetired_conclude_error _ _ e))
      | ok n => exact .inr ⟨n, rfl, rfl⟩

/-- The end of an instruction that has retired: its guard did not hold, or its body ended. -/
theorem ended_of_retired {sp : OpSpec} {body : Cx → State → Chk Next} {i : Issue} {s u : State} {t v : Task}
    (hu : issue sp body i s = .next u) (ht : s.task? i.core i.slot = some t) (hv : u.task? i.core i.slot = some v)
    (hretired : v.retired = t.retired + 1) :
    ∃ n, (n = .retire (s.turn i) ∨ body (cxOf i sp.op t) (s.turn i) = .ok n) ∧ u = (s.turn i).conclude (cxOf i sp.op t) (.ok n) := by
  obtain rfl : issueWord sp i.core i.slot (issueBits i sp.op) i.ext.toNat body s = u := by injection hu
  rcases issueRaw_ends ht (issueBits i sp.op) i.ext.toNat fun x s => (frontEnd sp s x).getD (body x s) with hsame | ⟨n, hn, hend⟩
  · have hcount := hsame.count i.core i.slot
    rw [State.retiredAt, State.retiredAt, ht, ← issueWord, hv, Option.map_some, Option.map_some, hretired] at hcount
    simp at hcount
  · refine ⟨n, ?_, hend⟩
    cases hfront : frontEnd sp (s.turn i) (cxOf i sp.op t) with
    | none => exact .inr ((congrArg (Option.getD · _) hfront).symm.trans hn)
    | some e =>
      obtain rfl : e = .ok n := (congrArg (Option.getD · _) hfront).symm.trans hn
      exact .inl (eq_retire_of_frontEnd hfront)

/-! ## Edits of one task -/

/-- An end that edits the instruction's own task alone, into one of which `F` holds. -/
inductive EditEnd (F : Task → Prop) (x : Cx) (s : State) : Next → Prop
  | same : EditEnd F x s (.retire s)
  | jump (pc : Nat) : EditEnd F x s (.jump s pc)
  | edit (g : Task → Task) (h : F (g x.t)) : EditEnd F x s (.retire (s.modTask x.core x.slot g))

/-- Every end of the body edits its task within the frame. -/
def EditsTask (F : Cx → Task → Prop) (body : Cx → State → Chk Next) : Prop := ∀ x s n, body x s = .ok n → EditEnd (F x) x s n

/-- The task has retired an instruction and goes on at a PC. -/
def Task.retiredTo (t : Task) (pc : BitVec 44) : Task := { t with pc := pc, retired := t.retired + 1 }

/-- A frame holds of the task as it is, and names neither the PC nor the count of instructions. -/
structure Frame (F : Task → Prop) (t : Task) : Prop where
  self : F t
  onward : ∀ v pc, F v → F (v.retiredTo pc)

theorem EditEnd.out {F : Task → Prop} {x : Cx} {s : State} {n : Next} (h : EditEnd F x s n) (ht : s.task? x.core x.slot = some x.t) :
    n.state.out = s.out := by
  cases h with
  | same => rfl
  | jump pc => rfl
  | edit g hg => rw [Next.state, State.modTask_of s ht, State.setTask_out]

/-- The PC past an instruction of the word. -/
def Task.pcPast (t : Task) (word : Nat) : BitVec 44 := t.pc + BitVec.ofNat 44 (if wordExt word then 16 else 8)

theorem EditEnd.conclude {F : Task → Prop} {x : Cx} {s : State} {n : Next} (h : EditEnd F x s n) (hF : Frame F x.t)
    (ht : s.task? x.core x.slot = some x.t) :
    ∃ v, F v ∧ s.conclude x (.ok n) = (s.setTask x.core x.slot v).noteIssue x.core x.slot := by
  have hstays := poisonLeaves_same s n (h.out ht)
  simp only [State.conclude, guardRemote, hstays, Bool.false_eq_true, if_false]
  cases h with
  | same =>
    refine ⟨x.t.retiredTo (x.t.pcPast x.word), hF.onward _ _ hF.self, ?_⟩
    simp only [State.advance, State.noteRetire, State.modTask_of s ht, State.modTask_setTask]
    rfl
  | jump pc =>
    refine ⟨x.t.retiredTo (BitVec.ofNat 44 pc), hF.onward _ _ hF.self, ?_⟩
    simp only [State.noteRetire, State.modTask_of s ht, State.modTask_setTask]
    rfl
  | edit g hg =>
    refine ⟨(g x.t).retiredTo ((g x.t).pcPast x.word), hF.onward _ _ hg, ?_⟩
    simp only [State.advance, State.noteRetire, State.modTask_of s ht, State.modTask_setTask]
    rfl

theorem State.rd_noteIssue_ne (s : State) (core slot : Nat) {a : Nat} (h : a ≠ Reg.coreIssue core) (h' : a ≠ Reg.coreIssue core + 4) :
    (s.noteIssue core slot).rd a = s.rd a := by
  have hlast : ∀ (u : State) m, { u with cores.lastIssue := m }.rd a = u.rd a := fun _ _ => rfl
  exact (hlast ..).trans (State.rd_put64_ne _ _ h h')

theorem sameBut_noteIssue_setTask {i : Issue} (s : State) (v : Task) :
    SameBut i s (((s.turn i).setTask i.core i.slot v).noteIssue i.core i.slot) where
  mem a := by rw [State.noteIssue_mem]; rfl
  regs a ha ha' := State.rd_noteIssue_ne _ _ _ ha ha'
  tasks core slot hne := by
    have hkey : taskKey core slot ≠ taskKey i.core i.slot := fun h => hne (by
      unfold taskKey at h
      exact Prod.ext (Fin.ext (show core.val = i.core.val by omega)) (Fin.ext (show slot.val = i.slot.val by omega)))
    rw [State.task?, State.apply_noteIssue (p := (·.cores.tasks)) _ _ _ (fun _ _ _ => rfl) fun _ _ => rfl]
    exact SMap.get?_put_ne _ _ hkey
  ctxs := State.apply_noteIssue (p := (·.ctxs)) _ _ _ (fun _ _ _ => rfl) fun _ _ => rfl
  eps := State.apply_noteIssue (p := (·.cores.eps)) _ _ _ (fun _ _ _ => rfl) fun _ _ => rfl
  sent := State.apply_noteIssue (p := (·.out)) _ _ _ (fun _ _ _ => rfl) fun _ _ => rfl
  events := State.apply_noteIssue (p := (·.raised)) _ _ _ (fun _ _ _ => rfl) fun _ _ => rfl

/-- A row whose body edits its task within a frame: once the instruction has retired, the task is within the frame, and the rest is the
same. -/
theorem frame_of_retired {sp : OpSpec} {body : Cx → State → Chk Next} {F : Cx → Task → Prop} (hbody : EditsTask F body)
    {i : Issue} {s u : State} {t v : Task} (hF : Frame (F (cxOf i sp.op t)) t) (hu : issue sp body i s = .next u)
    (ht : s.task? i.core i.slot = some t) (hv : u.task? i.core i.slot = some v) (hretired : v.retired = t.retired + 1) :
    SameBut i s u ∧ F (cxOf i sp.op t) v := by
  obtain ⟨n, hn, rfl⟩ := ended_of_retired hu ht hv hretired
  have hedit : EditEnd (F (cxOf i sp.op t)) (cxOf i sp.op t) (s.turn i) n := by
    rcases hn with rfl | hn
    · exact .same
    · exact hbody _ _ _ hn
  obtain ⟨w, hw, hend⟩ := hedit.conclude hF ht
  rw [cxOf_core, cxOf_slot] at hend
  rw [hend] at hv ⊢
  have hwv : w = v := by
    rw [State.task?_noteIssue] at hv
    exact Option.some.inj ((State.task?_setTask ..).symm.trans hv)
  exact ⟨sameBut_noteIssue_setTask s w, hwv ▸ hw⟩

/-! ## Scalar instructions -/

/-- A scalar result leaves the vector registers, the descriptors and every register and predicate but those of its number. -/
structure ScalarFrame (d : Nat) (t v : Task) : Prop where
  vectors : v.v = t.v
  poisons : v.vPoison = t.vPoison
  descs : v.t = t.t
  ctx : v.ctx = t.ctx
  state : v.state = t.state
  others : ∀ k, k ≠ d → v.reg k = t.reg k ∧ v.regPoison k = t.regPoison k ∧ v.pred k = t.pred k

theorem frame_scalar (d : Nat) (t : Task) : Frame (ScalarFrame d t) t where
  self := ⟨rfl, rfl, rfl, rfl, rfl, fun _ _ => ⟨rfl, rfl, rfl⟩⟩
  onward _ _ h := ⟨h.vectors, h.poisons, h.descs, h.ctx, h.state, h.others⟩

theorem bitAt_eq_testBit (n k : Nat) : bitAt n k = n.testBit k := by
  rw [Nat.testBit_eq_decide_div_mod_eq, bitAt, Nat.shiftRight_eq_div_pow]
  rfl

theorem bitAt_eq_field (n k : Nat) : bitAt n k = (field n k 1 == 1) := rfl

theorem bitAt_setBit_ne (n : Nat) (b : Bool) {i k : Nat} (h : k ≠ i) : bitAt (setBit n i b) k = bitAt n k := by
  rw [bitAt_eq_field, bitAt_eq_field, setBit]
  rcases Nat.lt_or_gt_of_ne h with hlt | hgt
  · rw [field_setField_below _ _ _ _ _ _ hlt]
  · rw [field_setField_above _ _ _ _ _ _ hgt]

/-- Rewriting bit `i` of a mask leaves the mask's other bits. -/
theorem bitAt_maskBit_ne {w : Nat} (m : BitVec w) (b : Bool) {i k : Nat} (h : k ≠ i) :
    bitAt (BitVec.ofNat w (setBit m.toNat i b)).toNat k = bitAt m.toNat k := by
  rw [BitVec.toNat_ofNat, bitAt_eq_testBit, Nat.testBit_mod_two_pow, ← bitAt_eq_testBit, bitAt_setBit_ne _ _ h]
  by_cases hk : k < w
  · simp [hk]
  · simp [hk, bitAt_toNat, BitVec.getLsbD_of_ge m k (by omega)]

theorem scalarFrame_setReg (d : Nat) (t : Task) (v : Word64) (pz : Bool) : ScalarFrame d t (t.setReg d v pz) :=
  ⟨rfl, rfl, rfl, rfl, rfl, fun _ h => ⟨SMap.getD_putD_ne _ _ _ _ h, bitAt_maskBit_ne _ _ h, rfl⟩⟩

theorem scalarFrame_setPred (d : Nat) (t : Task) (v pz : Bool) : ScalarFrame d t (t.setPred d v pz) := by
  unfold Task.setPred
  split
  · exact (frame_scalar d t).self
  · exact ⟨rfl, rfl, rfl, rfl, rfl, fun k h => ⟨rfl, rfl, congrArg (k == 0 || ·) (bitAt_maskBit_ne _ _ h)⟩⟩

theorem scalarFrame_flags (d : Nat) (t : Task) (f : Flags) : ScalarFrame d t { t with flags := f } :=
  ⟨rfl, rfl, rfl, rfl, rfl, fun _ _ => ⟨rfl, rfl, rfl⟩⟩

/-- The body edits its task within the frame of a scalar result. -/
def ScalarBody (body : Cx → State → Chk Next) : Prop := EditsTask (fun x => ScalarFrame x.dst x.t) body

theorem scalarBody_retire_edit {edit : Cx → Task → Task} (h : ∀ x, ScalarFrame x.dst x.t (edit x x.t)) :
    ScalarBody fun x s => .ok (.retire (s.modTask x.core x.slot (edit x))) := by
  intro x s n hn
  cases hn
  exact .edit _ (h x)

theorem scalarBody_alu (f : Nat → Nat → Nat) : ScalarBody (aluBody f) :=
  scalarBody_retire_edit fun _ => scalarFrame_setReg ..

theorem scalarBody_cmp (f : Nat → Nat → Bool) : ScalarBody (cmpBody f) :=
  scalarBody_retire_edit fun _ => scalarFrame_setPred ..

theorem scalarBody_pred (f : Bool → Bool → Bool) : ScalarBody (predBody f) :=
  scalarBody_retire_edit fun _ => scalarFrame_setPred ..

theorem scalarBody_mov : ScalarBody movBody := scalarBody_retire_edit fun _ => scalarFrame_setReg ..

theorem scalarBody_ldi : ScalarBody ldiBody := scalarBody_retire_edit fun _ => scalarFrame_setReg ..

theorem scalarBody_nop : ScalarBody fun _ s => .ok (.retire s) := by
  intro x s n hn
  cases hn
  exact .same

theorem chk_need_bind {α : Type} {p : Bool} {e : Stop} {f : Unit → Chk α} {a : α} (h : (need p e >>= f) = .ok a) : f () = .ok a := by
  cases p
  · cases h
  · exact h

theorem scalarBody_br : ScalarBody brBody := by
  intro x s n hn
  unfold brBody at hn
  split at hn
  · cases hn
    exact .jump _
  · cases chk_need_bind hn
    exact .jump _

theorem scalarBody_flagsRd : ScalarBody flagsRdBody := by
  intro x s n hn
  cases chk_need_bind hn
  exact .edit _ (scalarFrame_setReg ..)

theorem scalarBody_flagsClr : ScalarBody flagsClrBody := by
  intro x s n hn
  cases chk_need_bind hn
  exact .edit _ (scalarFrame_flags ..)

/-- The row issues with a body of the kind. -/
def RowIssues (P : (Cx → State → Chk Next) → Prop) (r : (Issue → Instr) × OpSpec) : Prop :=
  ∃ body, (∀ i s, exec (r.1 i) s = issue r.2 body i s) ∧ P body

theorem scalarRows_issue : ∀ r ∈ scalarRows, RowIssues ScalarBody r := by
  unfold scalarRows
  refine List.forall_mem_cons.2 ⟨⟨_, fun _ _ => rfl, scalarBody_nop⟩, ?_⟩
  iterate 11 refine List.forall_mem_cons.2 ⟨⟨_, fun _ _ => rfl, scalarBody_alu _⟩, ?_⟩
  refine List.forall_mem_cons.2 ⟨⟨_, fun _ _ => rfl, scalarBody_mov⟩, ?_⟩
  refine List.forall_mem_cons.2 ⟨⟨_, fun _ _ => rfl, scalarBody_ldi⟩, ?_⟩
  iterate 3 refine List.forall_mem_cons.2 ⟨⟨_, fun _ _ => rfl, scalarBody_cmp _⟩, ?_⟩
  iterate 3 refine List.forall_mem_cons.2 ⟨⟨_, fun _ _ => rfl, scalarBody_pred _⟩, ?_⟩
  refine List.forall_mem_cons.2 ⟨⟨_, fun _ _ => rfl, scalarBody_br⟩, ?_⟩
  refine List.forall_mem_cons.2 ⟨⟨_, fun _ _ => rfl, scalarBody_flagsRd⟩, ?_⟩
  refine List.forall_mem_cons.2 ⟨⟨_, fun _ _ => rfl, scalarBody_flagsClr⟩, ?_⟩
  exact List.forall_mem_nil _

/-! ## Vector instructions -/

/-- A vector result leaves the scalar registers and predicates, the descriptors and every vector register but that of its number. -/
structure VectorFrame (d : Nat) (t v : Task) : Prop where
  scalars : v.s = t.s
  preds : v.p = t.p
  descs : v.t = t.t
  ctx : v.ctx = t.ctx
  state : v.state = t.state
  others : ∀ k, k ≠ d → v.vreg k = t.vreg k ∧ v.vregPoison k = t.vregPoison k

theorem frame_vector (d : Nat) (t : Task) : Frame (VectorFrame d t) t where
  self := ⟨rfl, rfl, rfl, rfl, rfl, fun _ _ => ⟨rfl, rfl⟩⟩
  onward _ _ h := ⟨h.scalars, h.preds, h.descs, h.ctx, h.state, h.others⟩

theorem vectorFrame_setVreg (d : Nat) (t : Task) (v : BitVec 32768) (pz : Nat) : VectorFrame d t (t.setVreg d v pz) :=
  ⟨rfl, rfl, rfl, rfl, rfl, fun _ h =>
    ⟨SMap.getD_putD_ne _ _ _ _ h, congrArg BitVec.toNat (SMap.getD_putD_ne _ _ _ _ h)⟩⟩

theorem VectorFrame.flags {d : Nat} {t v : Task} (h : VectorFrame d t v) (f : Flags) : VectorFrame d t { v with flags := f } :=
  ⟨h.scalars, h.preds, h.descs, h.ctx, h.state, h.others⟩

/-- The body edits its task within the frame of a vector result. -/
def VectorBody (body : Cx → State → Chk Next) : Prop := EditsTask (fun x => VectorFrame x.vd x.t) body

theorem editEnd_putV (x : Cx) (s : State) (ls : List Word32) (pz : Nat) :
    EditEnd (VectorFrame x.vd x.t) x s (.retire (x.putV s x.vd ls pz)) := .edit _ (vectorFrame_setVreg ..)

theorem Cx.putFlags_putV (x : Cx) (s : State) (ls : List Word32) (pz : Nat) (f : Flags) : x.putFlags (x.putV s x.vd ls pz) f =
    s.modTask x.core x.slot fun t => { t.setVreg x.vd (vectorOf ls) pz with flags := t.flags ||| f } :=
  State.modTask_modTask ..

theorem editEnd_putFlags_putV (x : Cx) (s : State) (ls : List Word32) (pz : Nat) (f : Flags) :
    EditEnd (VectorFrame x.vd x.t) x s (.retire (x.putFlags (x.putV s x.vd ls pz) f)) := by
  rw [Cx.putFlags_putV]
  exact .edit _ ((vectorFrame_setVreg ..).flags _)

theorem vectorBody_lane (int : Cx → Bool) (sb : Nat) (useC : Bool) (f : Cx → Word32 → Word32 → Word32 → Flagged Word32) :
    VectorBody (laneBody int sb useC f) := by
  intro x s n hn
  cases hn
  exact editEnd_putFlags_putV ..

theorem vectorBody_unary (f : Cx → Word32 → Flagged Word32) : VectorBody (unaryBody f) := by
  intro x s n hn
  cases hn
  exact editEnd_putFlags_putV ..

theorem vectorBody_vrng : VectorBody vrngBody := by
  intro x s n hn
  cases chk_need_bind hn
  exact editEnd_putV ..

theorem vectorBody_red (f : Cx → List Word32 → Flagged Word32) : VectorBody (redBody f) := by
  intro x s n hn
  cases chk_need_bind hn
  exact editEnd_putFlags_putV ..

theorem vectorBody_segment (useS : Cx → Bool) (f : Cx → List Word32 → Flagged (List Word32)) : VectorBody (segmentBody useS f) := by
  intro x s n hn
  cases chk_need_bind hn
  exact editEnd_putFlags_putV ..

theorem vectorBody_vaccRd : VectorBody vaccRdBody := by
  intro x s n hn
  cases chk_need_bind hn
  exact editEnd_putV ..

theorem vectorRows_issue : ∀ r ∈ vectorRows, RowIssues VectorBody r := by
  unfold vectorRows
  iterate 7 refine List.forall_mem_cons.2 ⟨⟨_, fun _ _ => rfl, vectorBody_lane _ _ _ _⟩, ?_⟩
  iterate 2 refine List.forall_mem_cons.2 ⟨⟨_, fun _ _ => rfl, vectorBody_unary _⟩, ?_⟩
  iterate 2 refine List.forall_mem_cons.2 ⟨⟨_, fun _ _ => rfl, vectorBody_lane _ _ _ _⟩, ?_⟩
  refine List.forall_mem_cons.2 ⟨⟨_, fun _ _ => rfl, vectorBody_vrng⟩, ?_⟩
  iterate 3 refine List.forall_mem_cons.2 ⟨⟨_, fun _ _ => rfl, vectorBody_red _⟩, ?_⟩
  iterate 2 refine List.forall_mem_cons.2 ⟨⟨_, fun _ _ => rfl, vectorBody_segment _ _⟩, ?_⟩
  refine List.forall_mem_cons.2 ⟨⟨_, fun _ _ => rfl, vectorBody_vaccRd⟩, ?_⟩
  exact List.forall_mem_nil _

@[simp] theorem cxOf_vd (i : Issue) (op : Nat) (t : Task) : (cxOf i op t).vd = vdOf i := field_issueBits i op 42 5 (by decide)

/-- Settles O38: only an end without a stop retires an instruction, and such an end of these rows is an edit of the task within the frame
of its register file. -/
theorem registerInstructionFrames : Obligations.RegisterInstructionFrames := by
  unfold Obligations.RegisterInstructionFrames
  refine ⟨fun r hr i s u t v hu ht hv hretired => ?scalar, fun r hr i s u t v hu ht hv hretired => ?vector⟩
  case scalar =>
    obtain ⟨body, hexec, hbody⟩ := scalarRows_issue r hr
    obtain ⟨hbut, hframe⟩ := frame_of_retired hbody (frame_scalar _ _) ((hexec i s).symm.trans hu) ht hv hretired
    rw [cxOf_dst, cxOf_t] at hframe
    exact ⟨hbut, hframe.vectors, hframe.poisons, hframe.descs, hframe.ctx, hframe.state, hframe.others⟩
  case vector =>
    obtain ⟨body, hexec, hbody⟩ := vectorRows_issue r hr
    obtain ⟨hbut, hframe⟩ := frame_of_retired hbody (frame_vector _ _) ((hexec i s).symm.trans hu) ht hv hretired
    rw [cxOf_vd, cxOf_t] at hframe
    exact ⟨hbut, hframe.scalars, hframe.preds, hframe.descs, hframe.ctx, hframe.state, hframe.others⟩

end Sys2Proof.Machine

/-! # Vectors lane by lane (R47, R153, R159)

A vector register is the list of its lanes, and an element-wise instruction maps the numbers of the lanes to flagged results. -/

namespace Sys2Proof.Machine
open Sys2Proof

/-! ## Lanes of a register -/

theorem lanesOf_eq (v : BitVec 32768) : lanesOf v = (List.range 1024).map (lane v) := rfl

theorem ofLe_leBytes_append (bs : List Byte) : ∀ k n, ofLe (leBytes k n ++ bs) = n % 256 ^ k + 256 ^ k * ofLe bs
  | 0, n => by simp [leBytes, Nat.mod_one]
  | k + 1, n => by
    have hmod : n % 256 ^ (k + 1) = n % 2 ^ 8 + 256 * (n / 256 % 256 ^ k) := by
      rw [pow_succ', Nat.mod_mul]; rfl
    rw [leBytes, List.cons_append, ofLe, ofLe_leBytes_append bs k, BitVec.toNat_ofNat, hmod, pow_succ']
    ring

theorem ofLe_words_shift : ∀ (ls : List Word32) (l : Nat),
    BitVec.ofNat 32 (ofLe (ls.flatMap fun w => leBytes 4 w.toNat) >>> (32 * l)) = ls.getD l 0#32
  | [], l => by simp [ofLe]
  | w :: ls, l => by
    have hw : w.toNat % 256 ^ 4 = w.toNat := Nat.mod_eq_of_lt w.isLt
    rw [List.flatMap_cons, ofLe_leBytes_append, hw]
    cases l with
    | zero =>
      have := w.isLt
      apply BitVec.eq_of_toNat_eq
      rw [BitVec.toNat_ofNat, Nat.mul_zero, Nat.shiftRight_zero, List.getD_cons_zero]
      omega
    | succ l =>
      have hdrop : (w.toNat + 256 ^ 4 * ofLe (ls.flatMap fun w => leBytes 4 w.toNat)) >>> 32 =
          ofLe (ls.flatMap fun w => leBytes 4 w.toNat) := by
        have := w.isLt
        rw [Nat.shiftRight_eq_div_pow]
        omega
      rw [show 32 * (l + 1) = 32 + 32 * l by ring, Nat.shiftRight_add, hdrop, ofLe_words_shift ls l, List.getD_cons_succ]

theorem lane_ofNat (n : Nat) {l : Nat} (h : l < 1024) : lane (BitVec.ofNat 32768 n) l = BitVec.ofNat 32 (n >>> (32 * l)) := by
  apply BitVec.eq_of_getLsbD_eq
  intro k hk
  have hin : 32 * l + k < 32768 := by omega
  rw [lane, BitVec.getLsbD_extractLsb', BitVec.getLsbD_ofNat, BitVec.getLsbD_ofNat, Nat.testBit_shiftRight, decide_eq_true hk,
    decide_eq_true hin, Bool.true_and, Bool.true_and]

/-- Lane `l` of a register made of lanes; 0 past the last. -/
theorem lane_vectorOf (ls : List Word32) {l : Nat} (h : l < 1024) : lane (vectorOf ls) l = ls.getD l 0#32 :=
  (lane_ofNat _ h).trans (ofLe_words_shift ls l)

theorem lane_vectorOf_map (f : Nat → Word32) {l : Nat} (h : l < 1024) : lane (vectorOf ((List.range 1024).map f)) l = f l := by
  rw [lane_vectorOf _ h, List.getD_eq_getElem _ _ (by simpa using h), List.getElem_map, List.getElem_range]

/-! ## Fields of form V -/

@[simp] theorem cxOf_va (i : Issue) (op : Nat) (t : Task) : (cxOf i op t).va = vaOf i := field_issueBits i op 37 5 (by decide)
@[simp] theorem cxOf_vb (i : Issue) (op : Nat) (t : Task) : (cxOf i op t).vb = vbOf i := field_issueBits i op 32 5 (by decide)
@[simp] theorem cxOf_vc (i : Issue) (op : Nat) (t : Task) : (cxOf i op t).vc = vcOf i := field_issueBits i op 27 5 (by decide)
@[simp] theorem cxOf_vsreg (i : Issue) (op : Nat) (t : Task) : (cxOf i op t).vsreg = wordField i 20 6 :=
  field_issueBits i op 20 6 (by decide)
@[simp] theorem cxOf_vimmf (i : Issue) (op : Nat) (t : Task) : (cxOf i op t).vimmf = i.body.getLsbD 26 := bitAt_issueBits i op (by decide)
@[simp] theorem cxOf_sat (i : Issue) (op : Nat) (t : Task) : (cxOf i op t).sat = i.body.getLsbD 47 := bitAt_issueBits i op (by decide)
@[simp] theorem cxOf_vfunc (i : Issue) (op : Nat) (t : Task) : (cxOf i op t).vfunc = wordField i 16 4 :=
  field_issueBits i op 16 4 (by decide)
@[simp] theorem cxOf_imm16 (i : Issue) (op : Nat) (t : Task) : (cxOf i op t).imm16 = (i.body.setWidth 16).toNat := by
  rw [BitVec.toNat_setWidth]
  exact field_issueBits i op 0 16 (by decide)

/-- Bit `k` of a field of `w` bits. -/
theorem bitAt_field (n lo w k : Nat) : bitAt (field n lo w) k = (decide (k < w) && bitAt n (lo + k)) := by
  rw [bitAt_eq_testBit, bitAt_eq_testBit, field, Nat.testBit_mod_two_pow, Nat.testBit_shiftRight]

theorem bitAt_vfunc (i : Issue) (k : Nat) : bitAt (wordField i 16 4) k = (decide (k < 4) && vfuncBit i k) := by
  rw [wordField, bitAt_field, bitAt_toNat]
  rfl

@[simp] theorem cxOf_typ (i : Issue) (op : Nat) (t : Task) : (cxOf i op t).typ = vfuncBit i 0 := by
  rw [Cx.typ, cxOf_vfunc, bitAt_vfunc]
  rfl

/-! ## Operand b -/

theorem cxOf_immLane (i : Issue) (op : Nat) (t : Task) (int : Bool) : (cxOf i op t).immLane int =
    if int then (i.body.setWidth 16).signExtend 32 else (i.body.setWidth 16).setWidth 32 <<< 16 := by
  cases int
  · apply BitVec.eq_of_toNat_eq
    have := (i.body.setWidth 16).isLt
    rw [Cx.immLane, cxOf_imm16, if_neg Bool.false_ne_true, if_neg Bool.false_ne_true, BitVec.toNat_ofNat, BitVec.toNat_shiftLeft,
      BitVec.toNat_setWidth 32, Nat.shiftLeft_eq, Nat.mod_eq_of_lt (a := (i.body.setWidth 16).toNat) (by omega)]
  · rw [Cx.immLane, if_pos rfl, if_pos rfl, cxOf_imm16, ofNat_ofSigned, toSigned_toNat]
    rfl

theorem replicate_eq_map_range {α : Type} (n : Nat) (a : α) : List.replicate n a = (List.range n).map fun _ => a := by
  rw [List.map_const', List.length_range]

theorem cxOf_opLanes (i : Issue) (op : Nat) (t : Task) (int : Bool) (sb : Nat) :
    (cxOf i op t).opLanes int sb = ((List.range 1024).map (laneB i t int sb), laneBPoison i t sb) := by
  unfold Cx.opLanes laneB laneBPoison
  simp only [cxOf_vimmf, cxOf_vfunc, bitAt_vfunc, cxOf_vsreg, cxOf_vb, cxOf_immLane, cxOf_s, cxOf_t, replicate_eq_map_range, lanesOf_eq,
    BitVec.ofNat_toNat]
  split_ifs <;> rfl

/-! ## One flagged result for each lane -/

theorem sequence_map_fst {α : Type} (f : Nat → Flagged α) (ks : List Nat) : (Flagged.sequence (ks.map f)).1 = ks.map fun l => (f l).1 :=
  List.map_map

theorem sequence_map_snd {α : Type} (f : Nat → Flagged α) (ks : List Nat) :
    (Flagged.sequence (ks.map f)).2 = ks.foldl (fun a l => a ||| (f l).2) 0#16 := List.foldl_map

theorem map_zip_zip {α β γ δ : Type} (a : Nat → α) (b : Nat → β) (c : Nat → γ) (g : α → β → γ → δ) (ks : List Nat) :
    (((ks.map a).zip (ks.map b)).zip (ks.map c)).map (fun p => g p.1.1 p.1.2 p.2) = ks.map fun l => g (a l) (b l) (c l) := by
  rw [List.zip_map', List.zip_map', List.map_map]
  rfl

/-- A body that writes VD and raises flags retires with its task so changed. -/
theorem issue_putFlags_putV {sp : OpSpec} {body : Cx → State → Chk Next} {i : Issue} {s : State} {t : Task}
    {ls : List Word32} {pz : Nat} {f : Flags} (h : Executes sp i s t)
    (hb : body (cxOf i sp.op t) (s.turn i) = .ok (.retire ((cxOf i sp.op t).putFlags
      ((cxOf i sp.op t).putV (s.turn i) (cxOf i sp.op t).vd ls pz) f))) :
    issue sp body i s = .next (((s.turn i).putTask i { t.setVreg (vdOf i) (vectorOf ls) pz with
      flags := t.flags ||| f }).retire i sp.ext) := by
  rw [Cx.putFlags_putV, cxOf_vd] at hb
  exact issue_task h body _ hb

theorem writesLanes_of_body {op : Issue → Instr} {sp : OpSpec} {body : Cx → State → Chk Next} {pz : Issue → Task → Nat}
    {f : Issue → Task → Nat → Flagged Word32} (hexec : ∀ i s, exec (op i) s = issue sp body i s) (hext : sp.ext = false)
    (hbody : ∀ i t s, body (cxOf i sp.op t) s =
      let r := Flagged.sequence ((List.range 1024).map (f i t))
      .ok (.retire ((cxOf i sp.op t).putFlags ((cxOf i sp.op t).putV s (cxOf i sp.op t).vd r.1 (pz i t)) r.2))) :
    WritesLanes op sp pz f := by
  intro i s t h
  refine ⟨vectorOf ((List.range 1024).map fun l => (f i t l).1), fun l hl => lane_vectorOf_map _ hl, ?_⟩
  rw [hexec, issue_putFlags_putV h (hbody i t _), hext, sequence_map_fst, sequence_map_snd]

theorem writesLanes_unary {op : Issue → Instr} {sp : OpSpec} {g : Cx → Word32 → Flagged Word32}
    {f : Issue → Task → Nat → Flagged Word32}
    (hexec : ∀ i s, exec (op i) s = issue sp (unaryBody g) i s) (hext : sp.ext = false)
    (hf : ∀ i t l, g (cxOf i sp.op t) (lane (t.vreg (vaOf i)) l) = f i t l) :
    WritesLanes op sp (fun i t => t.vregPoison (vaOf i)) f := by
  refine writesLanes_of_body hexec hext fun i t s => ?_
  have hmap : (lanesOf (t.vreg (vaOf i))).map (g (cxOf i sp.op t)) = (List.range 1024).map (f i t) := by
    rw [lanesOf_eq, List.map_map, ← funext (hf i t)]
    rfl
  simp only [unaryBody, cxOf_va, cxOf_t, hmap]

/-- The poisoned sectors of a lane-wise result; `useC` says whether VC is an operand. -/
def sectorsABC (useC : Bool) (sb : Nat) (i : Issue) (t : Task) : Nat := sectorsAB sb i t ||| if useC then t.vregPoison (vcOf i) else 0

/-- Operand c of a lane; 0 where VC is not an operand. -/
def laneC (useC : Bool) (i : Issue) (t : Task) (l : Nat) : Word32 := if useC then lane (t.vreg (vcOf i)) l else 0#32

theorem laneBody_eq (int : Cx → Bool) (sb : Nat) (useC : Bool) (g : Cx → Word32 → Word32 → Word32 → Flagged Word32)
    (x : Cx) (s : State) : laneBody int sb useC g x s =
      let r := Flagged.sequence ((((lanesOf (x.t.vreg x.va)).zip (x.opLanes (int x) sb).1).zip
        (if useC then lanesOf (x.t.vreg x.vc) else List.replicate 1024 0#32)).map fun p => g x p.1.1 p.1.2 p.2)
      .ok (.retire (x.putFlags (x.putV s x.vd r.1 (x.t.vregPoison x.va ||| (x.opLanes (int x) sb).2 |||
        if useC then x.t.vregPoison x.vc else 0)) r.2)) := rfl

theorem laneC_false (i : Issue) (t : Task) : laneC false i t = fun _ => 0#32 := rfl

theorem laneC_true (i : Issue) (t : Task) : laneC true i t = lane (t.vreg (vcOf i)) := rfl

theorem writesLanes_laneBody {op : Issue → Instr} {sp : OpSpec} {int : Cx → Bool} {sb : Nat} {useC : Bool}
    {g : Cx → Word32 → Word32 → Word32 → Flagged Word32} {f : Issue → Task → Nat → Flagged Word32}
    (hexec : ∀ i s, exec (op i) s = issue sp (laneBody int sb useC g) i s) (hext : sp.ext = false)
    (hf : ∀ i t l, g (cxOf i sp.op t) (lane (t.vreg (vaOf i)) l) (laneB i t (int (cxOf i sp.op t)) sb l) (laneC useC i t l) = f i t l) :
    WritesLanes op sp (sectorsABC useC sb) f := by
  refine writesLanes_of_body hexec hext fun i t s => ?_
  have hc : (if useC then lanesOf (t.vreg (vcOf i)) else List.replicate 1024 0#32) = (List.range 1024).map (laneC useC i t) := by
    cases useC
    · rw [if_neg Bool.false_ne_true, replicate_eq_map_range, laneC_false]
    · rw [if_pos rfl, lanesOf_eq, laneC_true]
  have hmap : (((lanesOf (t.vreg (vaOf i))).zip ((List.range 1024).map (laneB i t (int (cxOf i sp.op t)) sb))).zip
      ((List.range 1024).map (laneC useC i t))).map (fun p => g (cxOf i sp.op t) p.1.1 p.1.2 p.2) = (List.range 1024).map (f i t) := by
    rw [lanesOf_eq, map_zip_zip, funext (hf i t)]
  rw [laneBody_eq, cxOf_opLanes, cxOf_t, cxOf_va, cxOf_vc, hc, hmap, sectorsABC, sectorsAB]

/-- Without VC the results are of VA and operand b. -/
theorem writesLanes_ab {op : Issue → Instr} {sp : OpSpec} {int : Cx → Bool} {sb : Nat}
    {g : Cx → Word32 → Word32 → Word32 → Flagged Word32} {f : Issue → Task → Nat → Flagged Word32}
    (hexec : ∀ i s, exec (op i) s = issue sp (laneBody int sb false g) i s) (hext : sp.ext = false)
    (hf : ∀ i t l, g (cxOf i sp.op t) (lane (t.vreg (vaOf i)) l) (laneB i t (int (cxOf i sp.op t)) sb l) 0#32 = f i t l) :
    WritesLanes op sp (sectorsAB sb) f := by
  have hpz : sectorsABC false sb = sectorsAB sb := funext fun i => funext fun t => Nat.or_zero _
  rw [← hpz]
  exact writesLanes_laneBody hexec hext hf

/-- With VC they are of all three. -/
theorem writesLanes_abc {op : Issue → Instr} {sp : OpSpec} {int : Cx → Bool} {sb : Nat}
    {g : Cx → Word32 → Word32 → Word32 → Flagged Word32} {f : Issue → Task → Nat → Flagged Word32}
    (hexec : ∀ i s, exec (op i) s = issue sp (laneBody int sb true g) i s) (hext : sp.ext = false)
    (hf : ∀ i t l, g (cxOf i sp.op t) (lane (t.vreg (vaOf i)) l) (laneB i t (int (cxOf i sp.op t)) sb l)
      (lane (t.vreg (vcOf i)) l) = f i t l) :
    WritesLanes op sp (fun i t => sectorsAB sb i t ||| t.vregPoison (vcOf i)) f := by
  have hpz : sectorsABC true sb = fun i t => sectorsAB sb i t ||| t.vregPoison (vcOf i) := funext fun i => funext fun t => rfl
  rw [← hpz]
  exact writesLanes_laneBody hexec hext hf

/-! ## Integer lanes -/

theorem i32_eq (w : Word32) : i32 w = w.toInt := toSigned_toNat w

/-- A clamped result is the nearest end of the range, or the integer itself (R124). -/
theorem clampInt_32 (z : Int) : clampInt 32 z =
    if z < -(2 ^ 31) then (-(2 ^ 31), true) else if 2 ^ 31 - 1 < z then (2 ^ 31 - 1, true) else (z, false) := by
  have hrange : ((2 ^ (32 - 1) : Nat) : Int) = 2 ^ 31 := rfl
  simp only [clampInt, hrange, gt_iff_lt]
  split_ifs
  · omega
  all_goals rfl

theorem int32Result_eq (i : Issue) (op : Nat) (t : Task) (z : Int) : int32Result (cxOf i op t).sat z = intLane i z := by
  unfold int32Result intLane
  rw [cxOf_sat, clampInt_32]
  cases i.body.getLsbD 47
  · simp [ofNat_ofSigned, Flags.none]
  · simp only [ofNat_ofSigned, Bool.not_true, Bool.false_eq_true, if_false, if_true]
    split_ifs <;> rfl

theorem i32_lt (a b : Word32) : (i32 a < i32 b) = (a.slt b = true) := by
  rw [i32_eq, i32_eq, BitVec.slt_iff_toInt_lt]

theorem arithLane_eq (fp : Word32 → Word32 → Flagged Word32) (int : Int → Int → Int) (i : Issue) (op : Nat) (t : Task) (l : Nat)
    (c : Word32) : arithLane fp int (cxOf i op t) (lane (t.vreg (vaOf i)) l) (laneB i t ((cxOf i op t).typ) 1 l) c =
      arithResult fp int i t l := by
  simp only [arithLane, arithResult, cxOf_typ, int32Result_eq, i32_eq]

theorem pickLane_eq (larger : Bool) (i : Issue) (op : Nat) (t : Task) (l : Nat) (c : Word32) :
    pickLane larger (cxOf i op t) (lane (t.vreg (vaOf i)) l) (laneB i t ((cxOf i op t).typ) 1 l) c = pickResult larger i t l := by
  simp only [pickLane, pickResult, i32Pick, cxOf_typ, i32_lt]
  rfl

theorem vcmpInt_eq (i : Issue) (op : Nat) (t : Task) : vcmpInt (cxOf i op t) = vfuncBit i 2 := by
  rw [vcmpInt, cxOf_vfunc, bitAt_vfunc]
  rfl

/-- The relation of VCMP is the low bits of FUNC. -/
theorem relation_eq (i : Issue) : wordField i 16 4 % 4 = wordField i 16 2 := Nat.mod_mod_of_dvd _ (by decide)

/-- Settles O5: each row maps the numbers of the lanes, and the model's arithmetic of a lane is the statement's. -/
theorem elementwiseVectorResults : Obligations.ElementwiseVectorResults := by
  unfold Obligations.ElementwiseVectorResults
  refine ⟨?vadd, ?vsub, ?vmul, ?vfma, ?vdiv, ?vmin, ?vmax, ?vsqrt, ?vfunc, ?vcmp, ?vsel⟩
  case vadd => exact writesLanes_ab (fun _ _ => rfl) rfl fun i t l => arithLane_eq ..
  case vsub => exact writesLanes_ab (fun _ _ => rfl) rfl fun i t l => arithLane_eq ..
  case vmul => exact writesLanes_ab (fun _ _ => rfl) rfl fun i t l => arithLane_eq ..
  case vfma => exact writesLanes_abc (fun _ _ => rfl) rfl fun i t l => rfl
  case vdiv => exact writesLanes_ab (fun _ _ => rfl) rfl fun i t l => rfl
  case vmin => exact writesLanes_ab (fun _ _ => rfl) rfl fun i t l => pickLane_eq ..
  case vmax => exact writesLanes_ab (fun _ _ => rfl) rfl fun i t l => pickLane_eq ..
  case vsqrt => exact writesLanes_unary (fun _ _ => rfl) rfl fun i t l => rfl
  case vfunc => exact writesLanes_unary (fun _ _ => rfl) rfl fun i t l => by rw [cxOf_vfunc]
  case vcmp => exact writesLanes_ab (fun _ _ => rfl) rfl fun i t l => by rw [vcmpInt_eq, cxOf_vfunc, relation_eq]; rfl
  case vsel => exact writesLanes_abc (fun _ _ => rfl) rfl fun i t l => rfl

end Sys2Proof.Machine

/-! # Segments, masks of sectors, and whole vectors (R153, R162 to R168)

A list of `m` pieces of one length is cut and joined piece by piece; a mask of 64 sectors is read bit by bit. -/

namespace Sys2Proof.Machine
open Sys2Proof

/-! ## Pieces of one length -/

section
variable {α : Type} {l m : Nat}

/-- Cutting `m * l` elements into pieces of `l` gives the `m` pieces in turn. -/
theorem chunks_eq_map_range (hl : 0 < l) : ∀ (m fuel : Nat) (as : List α), as.length = m * l → m < fuel →
    chunks l fuel as = (List.range m).map fun k => (as.drop (k * l)).take l
  | 0, fuel + 1, as, hlen, _ => by
    have : as = [] := List.eq_nil_of_length_eq_zero (by omega)
    simp [chunks, this]
  | m + 1, fuel + 1, as, hlen, hfuel => by
    have hne : as.isEmpty = false := by
      cases as
      · simp only [List.length_nil] at hlen
        nlinarith
      · rfl
    have hrest : (as.drop l).length = m * l := by
      rw [List.length_drop, hlen]
      have : (m + 1) * l = m * l + l := by ring
      omega
    rw [chunks, hne, if_neg Bool.false_ne_true, chunks_eq_map_range hl m fuel _ hrest (by omega), List.range_succ_eq_map, List.map_cons,
      Nat.zero_mul, List.drop_zero, List.map_map]
    refine congrArg _ (List.map_congr_left fun k _ => ?_)
    rw [List.drop_drop, Function.comp, Nat.succ_mul, Nat.add_comm]

theorem zipIdx_map_range (f : Nat → α) (n : Nat) : ((List.range n).map f).zipIdx = (List.range n).map fun k => (f k, k) :=
  List.ext_getElem (by simp) fun k _ _ => by simp

/-- A piece of a list of lanes. -/
theorem take_drop_map_range (f : Nat → α) {n a : Nat} (h : a + l ≤ n) :
    (((List.range n).map f).drop a).take l = (List.range l).map fun j => f (a + j) :=
  List.ext_getElem (by simp; omega) fun k _ _ => by simp

/-- Element `j` of piece `k` of pieces joined. -/
theorem getD_flatten_map_range (f : Nat → List α) (hf : ∀ k, k < m → (f k).length = l) {k j : Nat} (hk : k < m)
    (hj : j < l) (d : α) : ((List.range m).map f).flatten.getD (k * l + j) d = (f k).getD j d := by
  induction m generalizing f k with
  | zero => omega
  | succ m ih =>
    rw [List.range_succ_eq_map, List.map_cons, List.flatten_cons, List.map_map]
    cases k with
    | zero => rw [Nat.zero_mul, Nat.zero_add, List.getD_append _ _ _ _ (by rw [hf 0 (by omega)]; exact hj)]
    | succ k =>
      have h0 := hf 0 (by omega)
      have hidx : (k + 1) * l + j - l = k * l + j := by
        rw [Nat.succ_mul]
        omega
      rw [List.getD_append_right _ _ _ _ (by rw [h0, Nat.succ_mul]; omega), h0, hidx]
      exact ih (f ∘ Nat.succ) (fun n hn => hf (n + 1) (by omega)) (by omega)

theorem length_flatten_map_range (f : Nat → List α) (hf : ∀ k, k < m → (f k).length = l) :
    ((List.range m).map f).flatten.length = m * l := by
  rw [List.length_flatten, List.map_map, List.map_congr_left (f := List.length ∘ f) (g := fun _ => l)
    fun k hk => hf k (List.mem_range.1 hk)]
  simp

end

/-! ## Masks of sectors -/

/-- The mask with bit `q` where `b q` holds, below `n`. -/
def maskOf (n : Nat) (b : Nat → Bool) : Nat := (List.range n).foldl (fun a q => if b q then a + 2 ^ q else a) 0

theorem maskOf_succ (n : Nat) (b : Nat → Bool) : maskOf (n + 1) b = if b n then maskOf n b + 2 ^ n else maskOf n b := by
  rw [maskOf, List.range_succ, List.foldl_append]
  rfl

theorem maskOf_lt (b : Nat → Bool) : ∀ n, maskOf n b < 2 ^ n
  | 0 => Nat.one_pos
  | n + 1 => by
    have := maskOf_lt b n
    rw [maskOf_succ, pow_succ]
    split <;> omega

theorem bitAt_maskOf (b : Nat → Bool) : ∀ (n : Nat) {q : Nat}, q < n → bitAt (maskOf n b) q = b q
  | n + 1, q, h => by
    have hlt := maskOf_lt b n
    rw [maskOf_succ, bitAt_eq_testBit]
    rcases Nat.lt_succ_iff_lt_or_eq.1 h with hq | rfl
    · have ih := bitAt_maskOf b n hq
      rw [bitAt_eq_testBit] at ih
      split
      · rw [Nat.add_comm, Nat.testBit_two_pow_add_gt hq, ih]
      · exact ih
    · split
      next hb => rw [Nat.add_comm, Nat.testBit_two_pow_add_eq, Nat.testBit_lt_two_pow hlt, hb]; rfl
      next hb => rw [Nat.testBit_lt_two_pow hlt, Bool.eq_false_iff.2 hb]

theorem lanePoison_eq_maskOf {ps : List Bool} (h : ps.length = 1024) :
    lanePoison ps = maskOf 64 fun q => ((ps.drop (q * 16)).take 16).any id := by
  rw [lanePoison, chunks_eq_map_range (by decide) 64 65 ps h (by decide), zipIdx_map_range]
  exact List.foldl_map

/-- A sector is poisoned where one of its 16 lanes is. -/
theorem bitAt_lanePoison {ps : List Bool} (h : ps.length = 1024) {q : Nat} (hq : q < 64) :
    bitAt (lanePoison ps) q = true ↔ ∃ l, l < 1024 ∧ l / 16 = q ∧ ps.getD l false = true := by
  rw [lanePoison_eq_maskOf h, bitAt_maskOf _ 64 hq, List.any_eq_true]
  constructor
  · rintro ⟨b, hb, hid⟩
    obtain ⟨k, hk, rfl⟩ := List.mem_iff_getElem.1 hb
    simp only [List.length_take, List.length_drop, h] at hk
    refine ⟨q * 16 + k, by omega, by omega, ?_⟩
    rw [List.getD_eq_getElem _ _ (by omega)]
    simpa using hid
  · rintro ⟨l, hl, rfl, hp⟩
    rw [List.getD_eq_getElem _ _ (by omega)] at hp
    refine ⟨true, List.mem_iff_getElem.2 ⟨l % 16, by simp [h]; omega, ?_⟩, rfl⟩
    rw [List.getElem_take, List.getElem_drop, ← hp]
    congr 1
    omega

/-! ## Segments of VA (R164) -/

@[simp] theorem cxOf_segLen (i : Issue) (op : Nat) (t : Task) : (cxOf i op t).segLen = segLenOf i := by
  have himm : (cxOf i op t).imm16 = wordField i 0 16 := field_issueBits i op 0 16 (by decide)
  simp only [Cx.segLen, segLenOf, himm, beq_iff_eq]

theorem segOk_two_pow {e : Nat} (h : e ≤ 10) : segOk (2 ^ e) = true := by
  have : 2 ^ e ≤ 2 ^ 10 := Nat.pow_le_pow_right (by decide) h
  simp only [segOk, Nat.log2_two_pow, BEq.rfl, Bool.and_true, decide_eq_true_eq]
  exact this

/-- What is no power of two up to 1,024 is no length of a segment. -/
theorem segOk_eq_false {l : Nat} (h : ∀ e, e ≤ 10 → l ≠ 2 ^ e) : segOk l = false := by
  rw [Bool.eq_false_iff]
  intro hok
  simp only [segOk, Bool.and_eq_true, decide_eq_true_eq, beq_iff_eq] at hok
  obtain ⟨hle, heq⟩ := hok
  have hlog : 2 ^ Nat.log2 l ≤ 2 ^ 10 := heq ▸ hle
  exact h _ ((Nat.pow_le_pow_iff_right (by decide)).1 hlog) heq

theorem two_pow_mul_segments {e : Nat} (h : e ≤ 10) : 1024 / 2 ^ e * 2 ^ e = 1024 :=
  Nat.div_mul_cancel (Nat.pow_dvd_pow 2 h)

/-- Some lane of segment `k` of VA lies in a poisoned sector, as the model reads it. -/
def segPoisonedB (i : Issue) (t : Task) (l k : Nat) : Bool :=
  (List.range 64).any fun q => bitAt (t.vregPoison (vaOf i)) q && k * l < 16 * q + 16 && 16 * q < k * l + l

theorem segPoisonedB_iff (i : Issue) (t : Task) (l k : Nat) : segPoisonedB i t l k = true ↔ segPoisoned i t l k := by
  simp only [segPoisonedB, segPoisoned, List.any_eq_true, List.mem_range, Bool.and_eq_true, decide_eq_true_eq, and_assoc]

theorem cxOf_segments (i : Issue) (op : Nat) (t : Task) {e : Nat} (he : e ≤ 10) (hlen : segLenOf i = 2 ^ e) :
    (cxOf i op t).segments = (List.range (1024 / 2 ^ e)).map fun k =>
      (segmentsOf (2 ^ e) (t.vreg (vaOf i)) k, segPoisonedB i t (2 ^ e) k) := by
  have hm := two_pow_mul_segments he
  have hcount : 1024 / 2 ^ e < 1025 := Nat.lt_succ_of_le (Nat.div_le_self ..)
  rw [Cx.segments, cxOf_segLen, hlen, cxOf_va, cxOf_t, lanesOf_eq,
    chunks_eq_map_range (Nat.two_pow_pos e) _ 1025 _ (by rw [List.length_map, List.length_range, hm]) hcount,
    zipIdx_map_range, List.map_map]
  refine List.map_congr_left fun k hk => ?_
  have hin : k * 2 ^ e + 2 ^ e ≤ 1024 := by
    have := Nat.mul_le_mul_right (2 ^ e) (Nat.succ_le_of_lt (List.mem_range.1 hk))
    rwa [hm, Nat.succ_mul] at this
  rw [Function.comp, take_drop_map_range _ hin]
  rfl

/-! ## Reductions (R165) -/

theorem redBody_eq (f : Cx → List Word32 → Flagged Word32) {x : Cx} (s : State) (h : segOk x.segLen = true) : redBody f x s =
    let rs := x.segments.map fun g => (f x g.1, g.2)
    let r := Flagged.sequence (rs.map (·.1))
    let pad := 1024 - rs.length
    .ok (.retire (x.putFlags (x.putV s x.vd (r.1 ++ List.replicate pad 0#32)
      (lanePoison (rs.map (·.2) ++ List.replicate pad false))) r.2)) := by
  rw [redBody, h]
  rfl

theorem redBody_badShape (f : Cx → List Word32 → Flagged Word32) {x : Cx} (s : State) (h : segOk x.segLen = false) :
    redBody f x s = .error badShape := by
  rw [redBody, h]
  rfl

theorem getD_map_range_append_replicate {α : Type} (f : Nat → α) {m n l : Nat} (d : α) :
    ((List.range m).map f ++ List.replicate n d).getD l d = if l < m then f l else d := by
  split
  next h =>
    rw [List.getD_append _ _ _ _ (by simpa using h), List.getD_eq_getElem _ _ (by simpa using h), List.getElem_map, List.getElem_range]
  next h =>
    rw [List.getD_append_right _ _ _ _ (by simpa using h), List.getD_eq_getElem?_getD, List.getElem?_replicate]
    split <;> rfl

theorem writesReductions_of_segments {op : Issue → Instr} {sp : OpSpec} {g : Cx → List Word32 → Flagged Word32}
    {f : Issue → List Word32 → Flagged Word32} (hexec : ∀ i s, exec (op i) s = issue sp (redBody g) i s) (hext : sp.ext = false)
    (hf : ∀ i t ls, g (cxOf i sp.op t) ls = f i ls) : WritesReductions op sp f := by
  intro i s t e h he hlen
  have hm : 1024 / 2 ^ e ≤ 1024 := Nat.div_le_self ..
  have hseg : (cxOf i sp.op t).segments.map (fun w => (g (cxOf i sp.op t) w.1, w.2)) = (List.range (1024 / 2 ^ e)).map fun k =>
      (f i (segmentsOf (2 ^ e) (t.vreg (vaOf i)) k), segPoisonedB i t (2 ^ e) k) := by
    rw [cxOf_segments i sp.op t he hlen, List.map_map, funext (hf i t)]
    rfl
  have hbody := redBody_eq g (s.turn i) (x := cxOf i sp.op t) (by rw [cxOf_segLen, hlen, segOk_two_pow he])
  simp only [hseg, List.map_map, List.length_map, List.length_range, Function.comp_def, sequence_map_fst, sequence_map_snd] at hbody
  have hend := issue_putFlags_putV h hbody
  rw [hext, ← hexec] at hend
  refine ⟨_, _, fun k hk => ?_, fun k hk hk' => ?_, fun q hq => ?_, hend⟩
  · rw [lane_vectorOf _ (by omega), getD_map_range_append_replicate, if_pos hk]
  · rw [lane_vectorOf _ hk', getD_map_range_append_replicate, if_neg (by omega)]
  · rw [bitAt_lanePoison (by simp; omega) hq]
    simp only [getD_map_range_append_replicate]
    constructor
    · rintro ⟨k, _, hkq, hp⟩
      split at hp
      next hk => exact ⟨k, hk, hkq, (segPoisonedB_iff ..).1 hp⟩
      next => cases hp
    · rintro ⟨k, hk, hkq, hp⟩
      exact ⟨k, by omega, hkq, by rw [if_pos hk]; exact (segPoisonedB_iff ..).2 hp⟩

end Sys2Proof.Machine

/-! # Segments rewritten, groups, draws and accumulator tiles (R162, R163, R166 to R168) -/

namespace Sys2Proof.Machine
open Sys2Proof

/-! ## VNORM and VSOFTMAX keep the length of a segment (R166, R167) -/

theorem Flagged.then_fst {α β : Type} (a : Flagged α) (f : α → Flagged β) : (a.then f).1 = (f a.1).1 := rfl

theorem length_mapLanes (f : Word32 → Flagged Word32) (ls : List Word32) : (mapLanes f ls).1.length = ls.length := by
  rw [mapLanes, Flagged.sequence, List.length_map, List.length_map]

theorem length_normSegment (rms : Bool) (eps : Word32) (ls : List Word32) : (normSegment rms eps ls).1.length = ls.length := by
  cases rms
  · simp only [normSegment, Bool.false_eq_true, if_false, Flagged.then_fst, length_mapLanes]
  · simp only [normSegment, if_true, Flagged.then_fst, length_mapLanes]

theorem length_softSegment (c : Option Word32) (ls : List Word32) : (softSegment c ls).1.length = ls.length := by
  cases c <;> simp only [softSegment, Flagged.then_fst, length_mapLanes]

/-! ## Whole segments rewritten -/

theorem segmentBody_eq (useS : Cx → Bool) (f : Cx → List Word32 → Flagged (List Word32)) {x : Cx} (s : State)
    (h : segOk x.segLen = true) : segmentBody useS f x s =
      let rs := x.segments.map fun g => (f x g.1, g.2 || (useS x && x.t.regPoison x.vsreg))
      let r := Flagged.sequence (rs.map (·.1))
      .ok (.retire (x.putFlags (x.putV s x.vd r.1.flatten (lanePoison (rs.flatMap fun g => List.replicate x.segLen g.2))) r.2)) := by
  rw [segmentBody, h]
  rfl

/-- A sector of VD is poisoned where it meets a poisoned segment. -/
theorem bitAt_lanePoison_segments {e : Nat} (he : e ≤ 10) (b : Nat → Bool) {q : Nat} (hq : q < 64) :
    bitAt (lanePoison ((List.range (1024 / 2 ^ e)).flatMap fun k => List.replicate (2 ^ e) (b k))) q = true ↔
      ∃ k, k < 1024 / 2 ^ e ∧ k * 2 ^ e < 16 * q + 16 ∧ 16 * q < k * 2 ^ e + 2 ^ e ∧ b k = true := by
  have hm := two_pow_mul_segments he
  have hl := Nat.two_pow_pos e
  generalize 2 ^ e = l at hm hl ⊢
  generalize 1024 / l = m at hm ⊢
  have hpieces : ∀ k, k < m → (List.replicate l (b k)).length = l := fun k _ => List.length_replicate
  have hlane : ∀ k j, k < m → j < l → ((List.range m).map fun k => List.replicate l (b k)).flatten.getD (k * l + j) false = b k :=
    fun k j hk hj => by
      rw [getD_flatten_map_range _ hpieces hk hj, List.getD_eq_getElem _ _ (by simpa using hj), List.getElem_replicate]
  rw [List.flatMap_def, bitAt_lanePoison ((length_flatten_map_range _ hpieces).trans hm) hq]
  constructor
  · rintro ⟨n, hn, hnq, hp⟩
    have hk : n / l < m := Nat.div_lt_of_lt_mul (by rw [Nat.mul_comm, hm]; exact hn)
    have hj := Nat.mod_lt n hl
    have hsplit := Nat.div_add_mod' n l
    rw [← hsplit, hlane _ _ hk hj] at hp
    exact ⟨n / l, hk, by omega, by omega, hp⟩
  · rintro ⟨k, hk, h1, h2, hp⟩
    have hin : k * l + l ≤ 1024 := by
      rw [← hm, ← Nat.succ_mul]
      exact Nat.mul_le_mul_right l hk
    refine ⟨k * l + (16 * q - k * l), by omega, by omega, ?_⟩
    rw [hlane _ _ hk (by omega), hp]

theorem writesSegments_of_body {op : Issue → Instr} {sp : OpSpec} {useS : Cx → Bool} {uses : Issue → Bool}
    {g : Cx → List Word32 → Flagged (List Word32)} {f : Issue → Word32 → List Word32 → Flagged (List Word32)}
    (hexec : ∀ i s, exec (op i) s = issue sp (segmentBody useS g) i s) (hext : sp.ext = false)
    (huses : ∀ i s t, Executes sp i s t → useS (cxOf i sp.op t) = uses i)
    (hf : ∀ i s t ls, Executes sp i s t → g (cxOf i sp.op t) ls = f i ((t.reg (wordField i 20 6)).setWidth 32) ls)
    (hlength : ∀ i c ls, (f i c ls).1.length = ls.length) : WritesSegments op sp uses f := by
  intro i s t e h he hlen sc out
  have hm := two_pow_mul_segments he
  have hl := Nat.two_pow_pos e
  let poisoned (k : Nat) : Bool := segPoisonedB i t (2 ^ e) k || (uses i && t.regPoison (wordField i 20 6))
  have hout : ∀ k, k < 1024 / 2 ^ e → (out k).1.length = 2 ^ e := fun k _ => by
    rw [hlength, segmentsOf, List.length_map, List.length_range]
  have hseg : (cxOf i sp.op t).segments.map (fun w => (g (cxOf i sp.op t) w.1,
      w.2 || (useS (cxOf i sp.op t) && (cxOf i sp.op t).t.regPoison (cxOf i sp.op t).vsreg))) =
      (List.range (1024 / 2 ^ e)).map fun k => (out k, poisoned k) := by
    rw [cxOf_segments i sp.op t he hlen, List.map_map, huses i s t h, cxOf_vsreg, cxOf_t, funext fun ls => hf i s t ls h]
    rfl
  have hbody := segmentBody_eq useS g (s.turn i) (x := cxOf i sp.op t) (by rw [cxOf_segLen, hlen, segOk_two_pow he])
  simp only [hseg, List.map_map, List.flatMap_map, cxOf_segLen, hlen, Function.comp_def, sequence_map_fst, sequence_map_snd] at hbody
  have hend := issue_putFlags_putV h hbody
  rw [hext, ← hexec] at hend
  refine ⟨_, _, fun k j hk hj => ?_, fun q hq => ?_, hend⟩
  · have hlane : k * 2 ^ e + j < 1024 := by
      have := Nat.mul_le_mul_right (2 ^ e) (Nat.succ_le_of_lt hk)
      rw [hm, Nat.succ_mul] at this
      omega
    rw [lane_vectorOf _ hlane, getD_flatten_map_range _ hout hk hj]
  · rw [bitAt_lanePoison_segments he _ hq]
    simp only [poisoned, Bool.or_eq_true, Bool.and_eq_true, segPoisonedB_iff]

/-! ## VLD and VRNG (R162, R163) -/

/-- A body that writes VD and nothing else. -/
theorem issue_putV {sp : OpSpec} {body : Cx → State → Chk Next} {i : Issue} {s : State} {t : Task} {ls : List Word32} {pz : Nat}
    (h : Executes sp i s t)
    (hb : body (cxOf i sp.op t) (s.turn i) = .ok (.retire ((cxOf i sp.op t).putV (s.turn i) (cxOf i sp.op t).vd ls pz))) :
    issue sp body i s = .next (((s.turn i).putTask i (t.setVreg (vdOf i) (vectorOf ls) pz)).retire i sp.ext) := by
  rw [cxOf_vd] at hb
  exact issue_task h body _ hb

theorem vldBody_eq {x : Cx} {s : State} (hcheck : vldCheck x s = .ok ()) (hstage : (x.opnd x.vc).stage = []) :
    vldBody x s = .ok (.retire (x.putV s x.vd ((List.range 1024).map fun l => (x.vldLane s l).1)
      (lanePoison ((List.range 1024).map fun l => (x.vldLane s l).2)))) := by
  simp only [vldBody, hcheck, chk_bind_ok, hstage, State.useStaged_nil, List.map_map, Function.comp_def]

theorem bitAt_lanePoison_map (b : Nat → Bool) {q : Nat} (hq : q < 64) :
    bitAt (lanePoison ((List.range 1024).map b)) q = true ↔ ∃ l, l < 1024 ∧ l / 16 = q ∧ b l = true := by
  rw [bitAt_lanePoison (by rw [List.length_map, List.length_range]) hq]
  refine exists_congr fun l => and_congr_right fun hl => ?_
  rw [List.getD_eq_getElem _ _ (by rw [List.length_map, List.length_range]; exact hl), List.getElem_map, List.getElem_range]

/-- FUNC of two values is its bit 0. -/
theorem vfunc_eq_one {i : Issue} {op : Nat} (h : funcOf (issueBits i op) < 2) (t : Task) : ((cxOf i op t).vfunc == 1) = vfuncBit i 0 := by
  have hlt : wordField i 16 4 < 2 := (field_issueBits i op 16 4 (by decide)) ▸ h
  have hbit := bitAt_vfunc i 0
  rw [cxOf_vfunc]
  interval_cases wordField i 16 4 <;> exact hbit

theorem vrngBody_eq {x : Cx} {s : State} (h : x.t.regPoison x.vsreg = false) : vrngBody x s =
    .ok (.retire (x.putV s x.vd ((List.range 1024).map fun l =>
      let u := srDraw (BitVec.ofNat 64 (s.get64 (Reg.ctxSeed x.c))) x.t.leaf ((x.s x.vsreg + l) % 2 ^ 48)
      if x.vfunc == 1 then BitVec.ofNat 32 u else (f32Round (.num false u (-24))).1) 0)) := by
  simp only [vrngBody, h, Bool.not_false, need_true, chk_bind_ok, Nat.mod_add_mod]

/-! ## Accumulator tiles (R85, R152, R168) -/

theorem ofLe_drop : ∀ (k : Nat) (bs : List Byte), ofLe (bs.drop k) = ofLe bs / 256 ^ k
  | 0, bs => by simp
  | k + 1, [] => by simp [ofLe]
  | k + 1, b :: bs => by
    have := b.isLt
    rw [List.drop_succ_cons, ofLe_drop k bs, ofLe, pow_succ', ← Nat.div_div_eq_div_mul]
    congr 1
    omega

theorem ofLe_take : ∀ (k : Nat) (bs : List Byte), ofLe (bs.take k) = ofLe bs % 256 ^ k
  | 0, bs => by simp [ofLe, Nat.mod_one]
  | k + 1, [] => by simp [ofLe]
  | k + 1, b :: bs => by
    have := b.isLt
    have hquot : (b.toNat + 256 * ofLe bs) / 256 = ofLe bs := by omega
    have hrem : (b.toNat + 256 * ofLe bs) % 256 = b.toNat := by omega
    rw [List.take_succ_cons, ofLe, ofLe, ofLe_take k bs, pow_succ', Nat.mod_mul, hquot, hrem]

/-- Bytes within bytes. -/
theorem Memory.bytes_sub (m : Memory) (key : Nat) {n off w : Nat} (h : off + w ≤ n) :
    ((m.bytes key n).drop off).take w = m.bytes (key + off) w := by
  rw [Memory.bytes_eq, Memory.bytes_eq, take_drop_map_range _ h]
  simp only [Nat.add_assoc]

/-- The 32-bit word at `4 * l` of a run of bytes. -/
theorem ofNat_shift_bytes (m : Memory) (key : Nat) {n l : Nat} (h : 4 * l + 4 ≤ n) :
    BitVec.ofNat 32 (ofLe (m.bytes key n) >>> (32 * l)) = BitVec.ofNat 32 (ofLe (m.bytes (key + 4 * l) 4)) := by
  rw [← Memory.bytes_sub m key h, ofLe_take, ofLe_drop, Nat.shiftRight_eq_div_pow, pow_mul 2 32 l, pow_mul 256 4 l]
  apply BitVec.eq_of_toNat_eq
  rw [BitVec.toNat_ofNat, BitVec.toNat_ofNat]
  exact (Nat.mod_mod _ _).symm

theorem cxOf_accImm (i : Issue) (op : Nat) (t : Task) : (cxOf i op t).accImm = wordField i 0 11 := field_issueBits i op 0 11 (by decide)

theorem cxOf_accLanes (i : Issue) (op : Nat) (t : Task) (s : State) (k : Nat) : (cxOf i op t).accLanes s k =
    (List.range 1024).map fun l => BitVec.ofNat 32 (ofLe (s.mem.bytes (accBase i t k + 4 * l) 4)) :=
  List.map_congr_left fun l hl => ofNat_shift_bytes _ _ (by have := List.mem_range.1 hl; omega)

theorem vaccRdBody_eq {x : Cx} {s : State} (h : x.accImm < x.t.accCount) : vaccRdBody x s =
    .ok (.retire (x.putV s x.vd (x.accLanes s x.accImm) (maskOf 64 (x.accPoison s x.accImm)))) := by
  rw [vaccRdBody, decide_eq_true h]
  rfl

theorem vaccWrBody_eq {x : Cx} {s : State} (h : x.accImm < x.t.accCount) : vaccWrBody x s =
    .ok (.retire (x.putAcc s x.accImm (lanesOf (x.t.vreg x.va)) (bitAt (x.t.vregPoison x.va)))) := by
  rw [vaccWrBody, decide_eq_true h]
  rfl

/-- The bytes of a list of lanes. -/
def laneBytes (ls : List Word32) : List Byte := ls.flatMap fun w => leBytes 4 w.toNat

theorem length_laneBytes (ls : List Word32) : (laneBytes ls).length = 4 * ls.length := by
  induction ls with
  | nil => rfl
  | cons w ls ih =>
    rw [laneBytes, List.flatMap_cons, List.length_append, length_leBytes, ← laneBytes, ih, List.length_cons]
    ring

section
variable {i : Issue} {t : Task} {k : Nat} {ls : List Word32} {pz : Nat → Bool}

/-- Memory once the tile has been written. -/
def accStored (m : Memory) (i : Issue) (t : Task) (k : Nat) (ls : List Word32) (pz : Nat → Bool) : Memory :=
  m.store (accBase i t k) (laneBytes ls) fun q => pz (q - accBase i t k / 64)

theorem accBase_sector (i : Issue) (t : Task) (k : Nat) : accBase i t k = 64 * (accBase i t k / 64) := by
  unfold accBase accKey
  omega

theorem accStored_lane (m : Memory) (hls : ls.length = 1024) {l : Nat} (hl : l < 1024) :
    BitVec.ofNat 32 (ofLe ((accStored m i t k ls pz).bytes (accBase i t k + 4 * l) 4)) = ls.getD l 0#32 := by
  have hlen : (laneBytes ls).length = 4096 := by rw [length_laneBytes, hls]
  have hsame := Memory.bytes_store_same m (accBase i t k) (laneBytes ls) fun q => pz (q - accBase i t k / 64)
  rw [hlen] at hsame
  rw [← ofNat_shift_bytes _ _ (n := 4096) (by omega), accStored, hsame]
  exact ofLe_words_shift ls l

theorem accStored_poisoned (m : Memory) (hls : ls.length = 1024) {q : Nat} (hq : q < 64) :
    (accStored m i t k ls pz).poisoned (accBase i t k / 64 + q) = pz q := by
  have hlen : (laneBytes ls).length = 4096 := by rw [length_laneBytes, hls]
  have hbase := accBase_sector i t k
  have hwhole : wholeSector (accBase i t k) 4096 (accBase i t k / 64 + q) = true := by
    simp only [wholeSector, Bool.and_eq_true, decide_eq_true_eq]
    omega
  rw [accStored, Memory.poisoned_store _ _ _ _ _ (by omega), hlen, if_pos (by omega), hwhole, Nat.add_sub_cancel_left]
  simp

theorem accStored_byte (m : Memory) (hls : ls.length = 1024) {a : Nat} (ha : a < accBase i t k ∨ accBase i t k + 4096 ≤ a) :
    (accStored m i t k ls pz).byte a = m.byte a :=
  Memory.byte_store_out _ _ (by rw [length_laneBytes, hls]; exact ha)

end

theorem cxOf_putAcc (i : Issue) (op : Nat) (t : Task) (s : State) (k : Nat) (ls : List Word32) (pz : Nat → Bool) :
    (cxOf i op t).putAcc s k ls pz = { s with mem := accStored s.mem i t k ls pz } := rfl

/-- A body that ends with the write of a tile of the window. -/
theorem issue_accStored {sp : OpSpec} {body : Cx → State → Chk Next} {i : Issue} {s : State} {t : Task} {k : Nat} {ls : List Word32}
    {pz : Nat → Bool} (h : Executes sp i s t) (hls : ls.length = 1024)
    (hb : body (cxOf i sp.op t) (s.turn i) = .ok (.retire { s.turn i with mem := accStored (s.turn i).mem i t k ls pz })) :
    ∃ u, issue sp body i s = .next u ∧
      (∀ l, l < 1024 → BitVec.ofNat 32 (ofLe (u.mem.bytes (accBase i t k + 4 * l) 4)) = ls.getD l 0#32) ∧
      (∀ q, q < 64 → u.mem.poisoned (accBase i t k / 64 + q) = pz q) ∧
      (∀ a, a < accBase i t k ∨ accBase i t k + 4096 ≤ a → u.mem.byte a = s.mem.byte a) ∧
      { u with mem := s.mem } = (s.turn i).retire i sp.ext := by
  refine ⟨_, issue_retire h body hb (poisonLeaves_same _ _ rfl), fun l hl => ?_, fun q hq => ?_, fun a ha => ?_, ?_⟩
  · rw [State.retire_mem]
    exact accStored_lane s.mem hls hl
  · rw [State.retire_mem]
    exact accStored_poisoned s.mem hls hq
  · rw [State.retire_mem]
    exact accStored_byte s.mem hls ha
  · rw [State.retire_with_mem]
    exact ((s.turn i).retire_with_mem s.mem i sp.ext).symm

theorem length_lanesOf (v : BitVec 32768) : (lanesOf v).length = 1024 := by rw [lanesOf_eq, List.length_map, List.length_range]

theorem getD_lanesOf (v : BitVec 32768) {l : Nat} (h : l < 1024) : (lanesOf v).getD l 0#32 = lane v l := by
  rw [List.getD_eq_getElem _ _ (by rw [length_lanesOf]; exact h)]
  simp only [lanesOf_eq, List.getElem_map, List.getElem_range]

/-! ## Extremes of a segment (R43, R165) -/

theorem segExtreme_eq (larger : Bool) (x : Cx) (ls : List Word32) : segExtreme larger x ls =
    if x.typ then (ls.tail.foldl (i32Pick larger) (ls.headD 0#32), 0#16) else (f32Extreme larger ls, 0#16) := by
  cases ls <;> rfl

theorem i32Pick_true : i32Pick true = fun a b => if a.slt b then b else a := by
  funext a b
  simp only [i32Pick, if_true, i32_lt]

theorem i32Pick_false : i32Pick false = fun a b => if b.slt a then b else a := by
  funext a b
  simp only [i32Pick, Bool.false_eq_true, if_false, i32_lt]

theorem vstBody_eq {x : Cx} {s : State} {a : Unit} (h : vstCheck x s = .ok a) : vstBody x s =
    .ok (.retire (x.putFlags (s.putGroup x (x.opnd x.vc) 1025 ((x.vstElems s).map (·.1)))
      ((x.vstElems s).foldl (fun f p => f ||| p.2) 0#16))) := by
  rw [vstBody, h]
  rfl

/-- Settles O6: a segmented instruction maps the segments in turn, a group or a tile the numbers of the lanes. -/
theorem segmentedVectorsAndTransfers : Obligations.SegmentedVectorsAndTransfers := by
  unfold Obligations.SegmentedVectorsAndTransfers
  refine ⟨?redSum, ?redMax, ?redMin, ?norm, ?softmax, fun i s t h hl => ?badShape, fun i s t h hcheck hstage => ?vld, ?vst,
    fun i s t h hclean => ?vrng, fun i s t h hin => ?vaccRd, fun i s t h hin => ?vaccWr⟩
  case redSum =>
    refine writesReductions_of_segments (fun _ _ => rfl) rfl fun i t ls => ?_
    simp only [segSum, cxOf_typ, int32Result_eq, i32_eq]
  case redMax =>
    refine writesReductions_of_segments (fun _ _ => rfl) rfl fun i t ls => ?_
    rw [segExtreme_eq, cxOf_typ, i32Pick_true]
  case redMin =>
    refine writesReductions_of_segments (fun _ _ => rfl) rfl fun i t ls => ?_
    rw [segExtreme_eq, cxOf_typ, i32Pick_false]
  case norm =>
    refine writesSegments_of_body (fun _ _ => rfl) rfl (fun i s t h => rfl) (fun i s t ls h => ?_) fun i c ls => length_normSegment ..
    rw [vfunc_eq_one (decide_eq_true_iff.1 h.enum), Cx.sregF32, cxOf_vsreg, cxOf_s, BitVec.ofNat_toNat]
  case softmax =>
    refine writesSegments_of_body (fun _ _ => rfl) rfl (fun i s t h => vfunc_eq_one (decide_eq_true_iff.1 h.enum) t) (fun i s t ls h => ?_)
      fun i c ls => length_softSegment ..
    rw [vfunc_eq_one (decide_eq_true_iff.1 h.enum), Cx.sregF32, cxOf_vsreg, cxOf_s, BitVec.ofNat_toNat]
  case badShape =>
    have hbad := redBody_badShape segSum (s.turn i) (x := cxOf i 0x50 t) (by rw [cxOf_segLen]; exact segOk_eq_false hl)
    exact (issue_body h _ hbad nofun).trans (congrArg _ (State.conclude_ill _ (cxOf i 0x50 t) 8))
  case vld =>
    rw [← cxOf_vc i 0x4B t] at hstage
    refine ⟨_, _, fun l hl => lane_vectorOf_map _ hl, fun q hq => bitAt_lanePoison_map _ hq, ?_⟩
    exact issue_putV h (vldBody_eq hcheck hstage)
  case vst => exact fun i s t a h hcheck hsent => issue_retire h vstBody (vstBody_eq hcheck) hsent
  case vrng =>
    have hbody := vrngBody_eq (s := s.turn i) (x := cxOf i 0x4D t) (by rw [cxOf_vsreg]; exact hclean)
    rw [vfunc_eq_one (op := 0x4D) (decide_eq_true_iff.1 h.enum) t, cxOf_vsreg, cxOf_s] at hbody
    exact ⟨_, fun l hl => lane_vectorOf_map _ hl, issue_putV h hbody⟩
  case vaccRd =>
    have hbody := vaccRdBody_eq (s := s.turn i) (x := cxOf i 0x55 t) (by rw [cxOf_accImm]; exact hin)
    rw [cxOf_accImm, cxOf_accLanes] at hbody
    exact ⟨_, _, fun l hl => lane_vectorOf_map _ hl, fun q hq => bitAt_maskOf _ 64 hq, issue_putV h hbody⟩
  case vaccWr =>
    have hbody := vaccWrBody_eq (s := s.turn i) (x := cxOf i 0x56 t) (by rw [cxOf_accImm]; exact hin)
    rw [cxOf_accImm, cxOf_putAcc, cxOf_va] at hbody
    obtain ⟨u, hend, hlanes, hrest⟩ := issue_accStored h (length_lanesOf _) hbody
    exact ⟨u, hend, fun l hl => (hlanes l hl).trans (getD_lanesOf _ hl), hrest⟩

end Sys2Proof.Machine

/-! # Matrix and conversion instructions (R154 to R157, R169, R170)

Operands in memory and in place give no stream links and no waits, so every check passes by what the statement says of the operands; and
nothing that such an instruction does adds to what the module has sent. -/

namespace Sys2Proof.Machine
open Sys2Proof

/-! ## Checks of operands in memory -/

theorem Opnd.mapped_turn (o : Opnd) (s : State) (i : Issue) (c : Nat) : o.mapped (s.turn i) c = o.mapped s c := by
  simp only [Opnd.mapped, State.mapped_turn]

theorem Opnd.writable_turn (o : Opnd) (s : State) (i : Issue) (c : Nat) : o.writable (s.turn i) c = o.writable s c := by
  simp only [Opnd.writable, State.writable_turn]

section
variable {x : Cx} {s : State} {r code : Nat}

theorem MemSource.turn (h : MemSource x s r code) (i : Issue) : MemSource x (s.turn i) r code :=
  { h with mapped := (Opnd.mapped_turn ..).trans h.mapped }

theorem MemDest.turn (h : MemDest x s r code) (i : Issue) : MemDest x (s.turn i) r code :=
  { h with mapped := (Opnd.mapped_turn ..).trans h.mapped, writable := (Opnd.writable_turn ..).trans h.writable }

theorem descCheck_eq (x : Cx) (s : State) (r role : Nat) : descCheck s x r role =
    (need (x.opnd r).d.valid badDesc >>= fun _ =>
      need (!(x.opnd r).d.stream || (role == 1 && (x.opnd r).d.place == 0) || role == 2) badDesc >>= fun _ =>
      need ((x.opnd r).mapped s x.c) badDesc >>= fun _ =>
      if role == 2 || role == 3 then need ((x.opnd r).writable s x.c) (.ill 6 true) else .ok ()) := rfl

theorem MemSource.descCheck (h : MemSource x s r code) {role : Nat} (hrole : (role == 2 || role == 3) = false) :
    descCheck s x r role = .ok () := by
  simp only [descCheck_eq, h.valid, h.memory, h.mapped, hrole, Bool.not_false, Bool.true_or, need_true, chk_bind_ok, Bool.false_eq_true,
    if_false]

theorem MemDest.descCheck (h : MemDest x s r code) (role : Nat) : descCheck s x r role = .ok () := by
  simp only [descCheck_eq, h.valid, h.memory, h.mapped, h.writable, Bool.not_false, Bool.true_or, need_true, chk_bind_ok, ite_self]

theorem MemSource.fmtCheck (h : MemSource x s r code) : fmtCheck x r code = .ok () := by
  have hformat : (Desc.of (x.t.desc r)).fmt = code := h.format
  rw [Machine.fmtCheck, hformat, BEq.rfl, need_true]

theorem MemDest.fmtCheck (h : MemDest x s r code) : fmtCheck x r code = .ok () := by
  have hformat : (Desc.of (x.t.desc r)).fmt = code := h.format
  rw [Machine.fmtCheck, hformat, BEq.rfl, need_true]

/-- An operand in memory gives no link. -/
theorem Cx.link_memory (h : (x.opnd r).d.stream = false) (out : Bool) (n : Nat) : x.link s r out n = .ok [] := by
  simp only [Cx.link, h, Bool.not_false, if_true]

theorem mapM_link_memory (out : Bool) : ∀ ps : List (Nat × Nat), (∀ p ∈ ps, (x.opnd p.1).d.stream = false) →
    ps.mapM (fun p => x.link s p.1 out p.2) = .ok (ps.map fun _ => [])
  | [], _ => rfl
  | p :: ps, h => by
    rw [List.mapM_cons, Cx.link_memory (h p List.mem_cons_self), mapM_link_memory out ps fun q hq => h q (List.mem_cons_of_mem _ hq)]
    rfl

theorem Cx.links_memory {ins outs : List (Nat × Nat)} (hins : ∀ p ∈ ins, (x.opnd p.1).d.stream = false)
    (houts : ∀ p ∈ outs, (x.opnd p.1).d.stream = false) : x.links s ins outs = .ok [] := by
  simp only [Cx.links, mapM_link_memory false ins hins, mapM_link_memory true outs houts, chk_bind_ok]
  simp

@[simp] theorem State.linkRules_nil (s : State) : s.linkRules [] = .ok () := rfl

@[simp] theorem State.needFilled_nil (s : State) : s.needFilled [] = .ok () := rfl

@[simp] theorem State.needRoom_nil (s : State) : s.needRoom [] = .ok () := rfl

theorem descPoisons_clean {rs : List Nat} (h : ∀ r ∈ rs, x.t.descPoison r = false) : descPoisons x rs = .ok () := by
  have hnone : rs.find? x.t.descPoison = none := List.find?_eq_none.2 fun r hr => by simp [h r hr]
  rw [descPoisons, hnone]

end

/-! ## Effects that send nothing -/

section
variable (s : State) (x : Cx)

theorem foldl_out {α : Type} {f : State → α → State} (hf : ∀ u a, (f u a).out = u.out) (ls : List α) :
    (ls.foldl f s).out = s.out :=
  List.foldlRecOn (motive := fun u : State => u.out = s.out) _ _ rfl fun u hu a _ => (hf u a).trans hu

theorem State.modTask_out (core slot : Nat) (f : Task → Task) : (s.modTask core slot f).out = s.out := by
  unfold State.modTask
  split
  · rfl
  · rfl

theorem State.twrite_out (c a : Nat) (bs : List Byte) (pz : Nat → Bool) : (s.twrite c a bs pz).out = s.out := by
  rw [State.twrite_eq]

theorem State.writeBits_out (c a bit w : Nat) (codes : List (Nat × Bool)) : (s.writeBits c a bit w codes).out = s.out :=
  State.twrite_out ..

theorem State.pokes_out (c : Nat) (ps : List Poke) : (s.pokes c ps).out = s.out :=
  foldl_out s (fun u _ => u.twrite_out ..) _

theorem Opnd.writeTile_out (o : Opnd) (c a b : Nat) (rows : List (List (Nat × Bool))) : (o.writeTile c a b rows s).out = s.out := by
  unfold Opnd.writeTile
  dsimp only
  split
  · exact State.writeBits_out ..
  · exact foldl_out s (fun u _ => u.writeBits_out ..) _

theorem State.putTiles_out (o : Opnd) (codes : List (List (Nat × Bool))) : (s.putTiles x o none codes).out = s.out :=
  foldl_out s (fun u _ => Opnd.writeTile_out u ..) _

theorem Cx.emit_out (o : Opnd) (src : Option Fmt) (rows : List (List Elem)) : (x.emit s o none src rows).1.out = s.out :=
  (State.putTiles_out ..).trans (State.pokes_out ..)

theorem Cx.putResult_out (acc m n : Nat) (wide : Bool) (rows : List (List Elem)) : (x.putResult s acc m n wide rows).out = s.out :=
  foldl_out s (fun u t => by dsimp only; split <;> rfl) _

theorem State.wrap64_out (a n : Nat) : (s.wrap64 a n).out = s.out := BlindToRegs.wrap64 (p := State.out) (fun _ _ _ => rfl) s a n

theorem State.chargeSamples_out (c core : Nat) (bs : List FragBlock) : (s.chargeSamples c core bs).out = s.out := by
  rw [State.chargeSamples, State.setCtx_out, State.wrap64_out]

theorem State.chargeSecond_out (c core : Nat) (bs : List FragBlock) : (s.chargeSecond c core bs).out = s.out := by
  unfold State.chargeSecond
  split
  · exact State.wrap64_out ..
  · split
    · exact State.chargeSamples_out ..
    · rfl

theorem State.chargeSum_out (core pos : Nat) (b : FragBlock) : (s.chargeSum core pos b).out = s.out := by
  unfold State.chargeSum
  split
  · rfl
  · exact State.wrap64_out ..

theorem State.chargeSums_out (c core : Nat) (bs : List FragBlock) : (s.chargeSums c core bs).out = s.out := by
  unfold State.chargeSums
  split
  · split
    · exact foldl_out s (fun u b => u.chargeSum_out ..) _
    · rfl
  · rfl

theorem State.chargeArrays_out (c core : Nat) (bs : List FragBlock) : (s.chargeArrays c core bs).out = s.out :=
  (State.chargeSums_out ..).trans ((State.chargeSecond_out ..).trans (State.wrap64_out ..))

theorem Cx.raiseFlags_nil_out (f : Flags) : (x.raiseFlags s [] f).out = s.out := State.modTask_out ..

theorem State.finishLinks_nil : s.finishLinks [] = s := rfl

theorem Cx.mmaFinish_out (m n : Nat) (r : List (List Elem) × Flags) (blocks : List FragBlock) :
    (x.mmaFinish s [] m n r blocks).out = s.out := by
  unfold Cx.mmaFinish
  dsimp only
  rw [Cx.raiseFlags_nil_out, State.finishLinks_nil]
  split
  · exact (Cx.emit_out ..).trans ((State.chargeArrays_out ..).trans (Cx.putResult_out ..))
  · exact (State.chargeArrays_out ..).trans (Cx.putResult_out ..)

end

/-! ## Operands in place need no staging -/

theorem mmaStage_eq_nil {x : Cx} (ha : (x.opnd x.ta).stage = []) (hb : (x.opnd x.tb).stage = []) : x.mmaStage = [] := by
  rw [Cx.mmaStage, ha, hb, List.append_nil]

theorem csrStage_eq_nil {x : Cx} (ha : (x.opnd x.ta).stage = []) (hb : (x.opnd x.tb).stage = []) (he : (x.opnd x.te).stage = [])
    (hp : (x.opnd x.tf).stage = []) : x.csrStage = [] := by
  simp only [Cx.csrStage, ha, hb, he, hp, List.append_nil]

/-! ## The checks of the four instructions pass -/

section
variable {x : Cx} {s : State}

/-- A check that is made only where the instruction has a destination, and passes there, is no check. -/
theorem ite_check {p : Bool} {r : Chk Unit} (h : p = true → r = .ok ()) {α : Type} (k : Chk α) :
    (if p then (r >>= fun _ => k) else k) = k := by
  cases p
  · rfl
  · rw [if_pos rfl, h rfl, chk_bind_ok]

/-- The operands that are read, then the destination where the instruction has one. -/
theorem descPoisons_ok {rs : List Nat} {out : Bool} (hrs : ∀ r ∈ rs, x.t.descPoison r = false)
    (hout : out = true → x.t.descPoison x.td = false) : descPoisons x (rs ++ if out then [x.td] else []) = .ok () := by
  refine descPoisons_clean fun r hr => ?_
  rcases List.mem_append.1 hr with hr | hr
  · exact hrs r hr
  · cases out
    · cases hr
    · exact List.mem_singleton.1 hr ▸ hout rfl

theorem links_ok {ins : List (Nat × Nat)} {out : Bool} {n : Nat} (hins : ∀ p ∈ ins, (x.opnd p.1).d.stream = false)
    (hout : out = true → (x.opnd x.td).d.stream = false) : x.links s ins (if out then [(x.td, n)] else []) = .ok [] := by
  refine Cx.links_memory hins fun p hp => ?_
  cases out
  · cases hp
  · exact List.mem_singleton.1 hp ▸ hout rfl

theorem mmaCheck_memory (ha : MemSource x s x.ta x.afmt) (hb : MemSource x s x.tb x.bfmt)
    (hd : x.mmaOut = true → MemDest x s x.td x.dfmt) (hf : x.mmaFormats (x.opnd x.ta) (x.opnd x.tb) = true)
    (hshape : ((x.opnd x.ta).d.rows ≤ 256 && (x.opnd x.tb).d.rows ≤ 256 && (x.opnd x.ta).d.cols ≤ 8192 &&
      (x.opnd x.ta).d.cols == (x.opnd x.tb).d.cols &&
      (!x.mmaOut || ((x.opnd x.td).d.rows == (x.opnd x.ta).d.rows && (x.opnd x.td).d.cols == (x.opnd x.tb).d.rows))) = true)
    (hacc : x.mmaAccOk (x.opnd x.ta).d.rows (x.opnd x.tb).d.rows = true) : mmaCheck x s = .ok [] := by
  have hstage := mmaStage_eq_nil ha.upper hb.upper
  have hdesc := ite_check (α := List Link) fun ho => (hd ho).descCheck 2
  have hfmt := ite_check (α := List Link) fun ho => (hd ho).fmtCheck
  have hlinks := fun n => links_ok (s := s) (n := n) (ins := [(x.ta, (x.opnd x.ta).count), (x.tb, (x.opnd x.tb).count)])
    (by simp [ha.memory, hb.memory]) fun ho => (hd ho).memory
  have hpoison := descPoisons_ok (rs := [x.ta, x.tb]) (by simp [ha.clean, hb.clean]) fun ho => (hd ho).clean
  simp only [mmaCheck, ha.descCheck (role := 1) rfl, hb.descCheck (role := 1) rfl, hdesc, ha.fmtCheck, hb.fmtCheck, hfmt, hf, hshape, hacc,
    hlinks, hpoison, hstage, need_true, chk_bind_ok, State.stageFits_nil, Bool.and_true, State.linkRules_nil, State.needFilled_nil,
    State.needStaged_nil, State.needRoom_nil]

theorem mmaCsrCheck_memory (ha : MemSource x s x.ta x.afmt) (hb : MemSource x s x.tb x.bfmt)
    (he : MemSource x s x.te (x.opnd x.te).d.fmt) (hp : MemSource x s x.tf (x.opnd x.tf).d.fmt)
    (hd : x.mmaOut = true → MemDest x s x.td x.dfmt)
    (hf : (csrValueOk (x.opnd x.ta) && (x.opnd x.te).f == .int32 && (x.opnd x.tf).f == .int32 &&
      x.mmaFormats (x.opnd x.ta) (x.opnd x.tb)) = true)
    (hshape : (csrShapeOk (x.opnd x.ta) (x.opnd x.te) (x.opnd x.tf) && (x.opnd x.tb).d.rows ≤ 256 && (x.opnd x.tb).d.cols ≤ 8192 &&
      (!x.mmaOut || ((x.opnd x.td).d.rows == (x.opnd x.tf).elems - 2 && (x.opnd x.td).d.cols == (x.opnd x.tb).d.rows))) = true)
    (hacc : x.mmaAccOk ((x.opnd x.tf).elems - 2) (x.opnd x.tb).d.rows = true) : mmaCsrCheck x s = .ok [] := by
  have hstage := csrStage_eq_nil ha.upper hb.upper he.upper hp.upper
  have hdesc := ite_check (α := List Link) fun ho => (hd ho).descCheck 2
  have hfmt := ite_check (α := List Link) fun ho => (hd ho).fmtCheck
  have hlinks := fun n => links_ok (s := s) (n := n) (ins := [(x.tb, (x.opnd x.tb).count)]) (by simp [hb.memory]) fun ho => (hd ho).memory
  have hpoison := descPoisons_ok (rs := [x.ta, x.tb, x.te, x.tf]) (by simp [ha.clean, hb.clean, he.clean, hp.clean]) fun ho => (hd ho).clean
  simp only [mmaCsrCheck, ha.descCheck (role := 0) rfl, hb.descCheck (role := 1) rfl, he.descCheck (role := 0) rfl,
    hp.descCheck (role := 0) rfl, hdesc, ha.fmtCheck, hb.fmtCheck, hfmt, hf, hshape, hacc, hlinks, hpoison, hstage, need_true, chk_bind_ok,
    State.stageFits_nil, Bool.and_true, State.linkRules_nil, State.needFilled_nil, State.needStaged_nil, State.needRoom_nil]

theorem accOutCheck_memory (hd : MemDest x s x.td x.dfmt) (hf : ((x.afmt == 1 || x.afmt == 11) && emitFormatOk x (x.opnd x.td).f) = true)
    (hshape : ((x.opnd x.td).d.rows ≤ 256 && (x.opnd x.td).d.cols ≤ 256 : Bool) = true)
    (hacc : x.acc + accTiles (x.opnd x.td).d.rows (x.opnd x.td).d.cols ≤ x.t.accCount) : accOutCheck x s = .ok [] := by
  have hlinks := fun n => Cx.links_memory (x := x) (s := s) (ins := []) (outs := [(x.td, n)]) (by simp) (by simp [hd.memory])
  have hpoison := descPoisons_clean (x := x) (rs := [x.td]) (by simp [hd.clean])
  simp only [accOutCheck, hd.descCheck, hd.fmtCheck, hf, hshape, decide_eq_true hacc, hlinks, hpoison, need_true, chk_bind_ok,
    State.linkRules_nil, State.needRoom_nil]

theorem cvtCheck_memory (ha : MemSource x s x.ta x.afmt) (hd : MemDest x s x.td x.dfmt)
    (hf : (convKind (x.opnd x.ta).f (x.opnd x.td).f != .illegal && (x.rnd != 1 || (x.opnd x.td).f.srTarget)) = true)
    (hshape : ((x.opnd x.ta).d.rows == (x.opnd x.td).d.rows && (x.opnd x.ta).d.cols == (x.opnd x.td).d.cols &&
      (x.opnd x.td).count ≤ 256 && mxColsOk (x.opnd x.td)) = true) : cvtCheck x s = .ok [] := by
  have hlinks := Cx.links_memory (x := x) (s := s) (ins := [(x.ta, (x.opnd x.ta).count)]) (outs := [(x.td, (x.opnd x.td).count)])
    (by simp [ha.memory]) (by simp [hd.memory])
  have hpoison := descPoisons_clean (x := x) (rs := [x.ta, x.td]) (by simp [ha.clean, hd.clean])
  simp only [cvtCheck, ha.descCheck (role := 1) rfl, hd.descCheck, ha.fmtCheck, hd.fmtCheck, hf, hshape, hlinks, hpoison, ha.upper,
    need_true, chk_bind_ok, State.stageFits_nil, Bool.and_true, State.linkRules_nil, State.needFilled_nil, State.needStaged_nil,
    State.needRoom_nil]

end

/-! ## Elements of a product (R38 to R41, R153) -/

section
variable {fa fb : Fmt} {c : Nat → Nat → Word32 × Bool} {as : List ARow} {bs : List (List Elem)} {i j : Nat} {a : ARow} {b : List Elem}

theorem getElem?_mmaRows (idst : Bool) (ha : as[i]? = some a) (hb : bs[j]? = some b) :
    ∃ row, (mmaRows fa fb idst c as bs).1[i]? = some row ∧
      row[j]? = some
        (let w := if idst then mmaInt fa fb (c i j).1 a b else mmaFloat (blockK fa fb) (c i j).1 a b
        ⟨w.1.toNat, if idst then .ofInt (toSigned 32 w.1.toNat) else f32Val w.1, a.poison || b.any (·.poison) || (c i j).2⟩) := by
  simp only [mmaRows, List.getElem?_map, List.getElem?_zipIdx, ha, hb, Option.map_some, Nat.zero_add, Option.some.injEq, exists_eq_left']

end

/-! ## Instructions that retire with what their checks found -/

/-- A body that checks and then runs retires with what `run` says. -/
theorem retiresAs_of_body {α : Type} {op : Issue → Instr} {sp : OpSpec} {body : Cx → State → Chk Next}
    {check : Cx → State → Chk α} {run : Cx → State → α → State} (hexec : ∀ i s, exec (op i) s = issue sp body i s)
    (hbody : ∀ x s, body x s = check x s >>= fun a => .ok (.retire (run x s a))) : RetiresAs op sp check run := by
  intro i s t a h hcheck hsent
  rw [hexec]
  refine issue_retire h body ?_ hsent
  rw [hbody, hcheck, chk_bind_ok]

theorem retiresAs_mma : RetiresAs .mma mmaSpec mmaCheck mmaRun := retiresAs_of_body (fun _ _ => rfl) fun _ _ => rfl

theorem retiresAs_mmaCsr : RetiresAs .mmaCsr mmaCsrSpec mmaCsrCheck mmaCsrRun := retiresAs_of_body (fun _ _ => rfl) fun _ _ => rfl

theorem retiresAs_accOut : RetiresAs .accOut accOutSpec accOutCheck accOutRun := retiresAs_of_body (fun _ _ => rfl) fun _ _ => rfl

theorem retiresAs_cvt : RetiresAs .cvt cvtSpec cvtCheck cvtRun := retiresAs_of_body (fun _ _ => rfl) fun _ _ => rfl

theorem mmaRun_out {x : Cx} (s : State) (ha : (x.opnd x.ta).stage = []) (hb : (x.opnd x.tb).stage = []) : (mmaRun x s []).out = s.out := by
  rw [mmaRun, mmaStage_eq_nil ha hb, State.useStaged_nil]
  exact Cx.mmaFinish_out ..

theorem mmaCsrRun_out {x : Cx} (s : State) (ha : (x.opnd x.ta).stage = []) (hb : (x.opnd x.tb).stage = [])
    (he : (x.opnd x.te).stage = []) (hp : (x.opnd x.tf).stage = []) : (mmaCsrRun x s []).out = s.out := by
  rw [mmaCsrRun, csrStage_eq_nil ha hb he hp, State.useStaged_nil]
  exact Cx.mmaFinish_out ..

theorem accOutRun_out (x : Cx) (s : State) : (accOutRun x s []).out = s.out := (Cx.raiseFlags_nil_out ..).trans (Cx.emit_out ..)

theorem cvtRun_out {x : Cx} (s : State) (ha : (x.opnd x.ta).stage = []) : (cvtRun x s []).out = s.out := by
  rw [cvtRun, Cx.raiseFlags_nil_out, State.finishLinks_nil, ha, State.useStaged_nil]
  exact Cx.emit_out ..

theorem destShape_ok {out : Bool} {r m c n : Nat} (h : out = true → r = m ∧ c = n) : (!out || (r == m && c == n)) = true := by
  cases out
  · rfl
  · obtain ⟨rfl, rfl⟩ := h rfl
    simp

/-- Settles O7: operands in memory pass every check with no link, and what the instructions do with them sends nothing. -/
theorem matrixAndConversionResults : Obligations.MatrixAndConversionResults := by
  unfold Obligations.MatrixAndConversionResults
  refine ⟨retiresAs_mma, retiresAs_mmaCsr, retiresAs_accOut, retiresAs_cvt, ?mma, ?mmaCsr, ?accOut, ?cvt,
    fun fa fb c as bs i j a b ha hb => ?float, fun fa fb c as bs i j a b ha hb => ?int⟩
  case mma =>
    intro i s t h x a b d ha hb hd hf hm hn hk hkk hout hacc
    have hshape := destShape_ok hout
    have hcheck : mmaCheck x (s.turn i) = .ok [] := mmaCheck_memory (ha.turn i) (hb.turn i) (fun ho => (hd ho).turn i) hf
      (by rw [hshape, decide_eq_true hm, decide_eq_true hn, decide_eq_true hk, beq_iff_eq.2 hkk]; rfl) hacc
    exact retiresAs_mma i s t [] h hcheck (poisonLeaves_same _ _ (mmaRun_out _ ha.upper hb.upper))
  case mmaCsr =>
    intro i s t h x a b d ci pt ha hb he hp hd hv hci hpt hf hcsr hn hk hout hacc
    have hshape := destShape_ok hout
    have hcheck : mmaCsrCheck x (s.turn i) = .ok [] := mmaCsrCheck_memory (ha.turn i) (hb.turn i) (he.turn i) (hp.turn i)
      (fun ho => (hd ho).turn i) (by rw [hv, hf, hci, hpt]; rfl)
      (by rw [hcsr, hshape, decide_eq_true hn, decide_eq_true hk]; rfl) hacc
    exact retiresAs_mmaCsr i s t [] h hcheck (poisonLeaves_same _ _ (mmaCsrRun_out _ ha.upper hb.upper he.upper hp.upper))
  case accOut =>
    intro i s t h x d hd hsrc hf hm hn hacc
    have hcheck : accOutCheck x (s.turn i) = .ok [] := accOutCheck_memory (hd.turn i)
      (by rw [Bool.and_eq_true, Bool.or_eq_true, beq_iff_eq, beq_iff_eq]; exact ⟨hsrc, hf⟩)
      (by rw [Bool.and_eq_true, decide_eq_true_eq, decide_eq_true_eq]; exact ⟨hm, hn⟩) hacc
    exact retiresAs_accOut i s t [] h hcheck (poisonLeaves_same _ _ (accOutRun_out ..))
  case cvt =>
    intro i s t h x a d ha hd hkind hrnd hr hc hcount hmx
    have hcheck : cvtCheck x (s.turn i) = .ok [] := cvtCheck_memory (ha.turn i) (hd.turn i)
      (by rw [Bool.and_eq_true, Bool.or_eq_true, bne_iff_ne, bne_iff_ne]; exact ⟨hkind, hrnd⟩)
      (by rw [Bool.and_eq_true, Bool.and_eq_true, Bool.and_eq_true, beq_iff_eq, beq_iff_eq, decide_eq_true_eq]
          exact ⟨⟨⟨hr, hc⟩, hcount⟩, hmx⟩)
    exact retiresAs_cvt i s t [] h hcheck (poisonLeaves_same _ _ (cvtRun_out _ ha.upper))
  case float =>
    obtain ⟨row, hrow, he⟩ := getElem?_mmaRows (fa := fa) (fb := fb) (c := c) false ha hb
    exact ⟨row, _, hrow, he, rfl, rfl⟩
  case int =>
    obtain ⟨row, hrow, he⟩ := getElem?_mmaRows (fa := fa) (fb := fb) (c := c) true ha hb
    exact ⟨row, _, hrow, he, rfl⟩

end Sys2Proof.Machine

/-! # Resumable instructions (R158, R171 to R176, R182, R217)

The first unit of an instruction and each that follows end alike: the slot's turn is over, the unit's effect is the state that follows, and
the instruction goes on or is over by its count of units. -/

namespace Sys2Proof.Machine
open Sys2Proof

/-! ## A unit that is ready runs -/

theorem runUnit_ok {x : Cx} {us : Units} {s : State} {u : Nat} {band : GatherBand} {r : Effect} (hready : unitReady x us s u = .ok ())
    (hunit : us.kind.unit x s (x.unitLinks us) u band = .ok r) : runUnit x us s u band = .ok (.stay (unitEnd x us u r)) := by
  simp only [runUnit, hready, hunit, chk_bind_ok]

theorem startsUnits_of_startUnits {op : Issue → Instr} {sp : OpSpec} {check : Cx → State → Chk Units} {regs : Cx → List Nat}
    {own : Cx → Chk Unit} {counts : Bool} {band : GatherBand}
    (hexec : ∀ i s, exec (op i) s = issue sp (startUnits check regs own counts band) i s) :
    StartsUnits op sp check regs own counts band := by
  intro i s t us r h x hcheck u s1 hready hunit hsent
  have hbody : startUnits check regs own counts band x (s.turn i) = .ok (.stay (unitEnd x us u r)) := by
    rw [startUnits, hcheck, chk_bind_ok]
    exact runUnit_ok hready hunit
  rw [hexec, issue_body h _ hbody nofun, State.conclude_stay _ hsent, cxOf_core, cxOf_slot]

theorem State.clocked_of_hasTurn {s u : State} {core slot : Nat} (h : s.hasTurn core slot = true) : s.clocked u = u :=
  if_pos (Bool.and_eq_true_iff.1 h).1

theorem State.nextUnit_ok {s : State} {core slot : Nat} {band : GatherBand} {t : Task} {r : Run} {us : Units} {e : Effect}
    (ht : s.task? core slot = some t) (hrun : t.run = some r) (hturn : s.hasTurn core slot = true)
    (hunits : unitsOf ⟨core, slot, t.ctx, r.word.toNat, r.ext.toNat, t⟩ = some us)
    (hready : unitReady ⟨core, slot, t.ctx, r.word.toNat, r.ext.toNat, t⟩ us (s.dropFirst core slot) r.done = .ok ())
    (hunit : us.kind.unit ⟨core, slot, t.ctx, r.word.toNat, r.ext.toNat, t⟩ (s.dropFirst core slot)
      (Cx.unitLinks ⟨core, slot, t.ctx, r.word.toNat, r.ext.toNat, t⟩ us) r.done band = .ok e)
    (hsent : poisonLeaves (s.dropFirst core slot)
      (.stay (unitEnd ⟨core, slot, t.ctx, r.word.toNat, r.ext.toNat, t⟩ us r.done e)) = false) :
    s.nextUnit core slot band =
      (unitEnd ⟨core, slot, t.ctx, r.word.toNat, r.ext.toNat, t⟩ us r.done e).noteIssue core slot := by
  simp only [State.nextUnit, ht, hrun, hturn, Bool.not_true, Bool.false_eq_true, if_false, hunits, runUnit_ok hready hunit]
  exact State.conclude_stay _ hsent

/-! ## PROGRESS (R173, R174) -/

/-- The task with other descriptors. -/
def Task.withDescs (t : Task) (d : SMap (BitVec 512)) (pz : BitVec 32) : Task := { t with t := d, tPoison := pz }

/-- The task with another run. -/
def Task.withRun (t : Task) (r : Option Run) : Task := { t with run := r }

section
variable (t : Task) (d : SMap (BitVec 512)) (pz : BitVec 32) (r : Option Run) (pc : BitVec 44)

@[simp] theorem Task.withDescs_t : (t.withDescs d pz).t = d := rfl
@[simp] theorem Task.withDescs_pc : (t.withDescs d pz).pc = t.pc := rfl
@[simp] theorem Task.withDescs_retired : (t.withDescs d pz).retired = t.retired := rfl
@[simp] theorem Task.withRun_t : (t.withRun r).t = t.t := rfl
@[simp] theorem Task.withRun_pc : (t.withRun r).pc = t.pc := rfl
@[simp] theorem Task.withRun_retired : (t.withRun r).retired = t.retired := rfl
@[simp] theorem Task.withRun_run : (t.withRun r).run = r := rfl
@[simp] theorem Task.retiredTo_t : (t.retiredTo pc).t = t.t := rfl
@[simp] theorem Task.retiredTo_pc : (t.retiredTo pc).pc = pc := rfl
@[simp] theorem Task.retiredTo_retired : (t.retiredTo pc).retired = t.retired + 1 := rfl
@[simp] theorem Task.retiredTo_run : (t.retiredTo pc).run = t.run := rfl

end

/-- The task with PROGRESS of a descriptor set. -/
def Task.progressed (t : Task) (r v : Nat) : Task := t.setDesc r (setField (t.desc r) 288 32 v) (t.descPoison r)

theorem Task.progressed_eq (t : Task) (r v : Nat) : t.progressed r v =
    t.withDescs (SMap.putD t.t r (BitVec.ofNat 512 (setField (t.desc r) 288 32 v)) 0#512)
      (BitVec.ofNat 32 (setBit t.tPoison.toNat r (t.descPoison r))) := rfl

theorem toNat_ofNat_setField {w lo n : Nat} (d : BitVec w) (v : Nat) (h : lo + n ≤ w) :
    (BitVec.ofNat w (setField d.toNat lo n v)).toNat = setField d.toNat lo n v := by
  rw [BitVec.toNat_ofNat, Nat.mod_eq_of_lt (setField_lt d.isLt h)]

/-- A task whose descriptors are those with PROGRESS set shows it. -/
theorem Task.progress_of_progressed {t u : Task} {r v : Nat} (hu : u.t = (t.progressed r v).t) (hv : v < 2 ^ 32) :
    (Desc.of (u.desc r)).progress = v := by
  have hdesc : u.desc r = setField (t.desc r) 288 32 v := by
    rw [Task.desc, hu, Task.progressed_eq, Task.withDescs_t, SMap.getD_putD_same]
    exact toNat_ofNat_setField _ _ (by decide)
  rw [hdesc]
  exact (field_setField_same ..).trans (Nat.mod_eq_of_lt hv)

/-- The task of a run with one unit more completed and units left, PROGRESS showing `p`. -/
def Task.oneUnitMore (t : Task) (r : Run) (p : Nat) : Task :=
  (t.progressed (field r.word.toNat 42 5) p).withRun (some { r with done := r.done + 1, sending := none })

/-- The task once the last unit of its run has retired. -/
def Task.unitsOver (t : Task) (r : Run) : Task :=
  ((t.progressed (field r.word.toNat 42 5) 0).withRun none).retiredTo (t.pcPast r.word.toNat)

theorem Task.pcPast_eq (t : Task) (w : Nat) : t.pcPast w = t.pc + (if wordExt w then 16#44 else 8#44) :=
  congrArg (t.pc + ·) (apply_ite ..)

section
variable {s : State} {core slot : Nat} {t : Task} {r : Run}

theorem State.unitDone_left (ht : s.task? core slot = some t) (hrun : t.run = some r) (h : r.done + 1 < r.units) :
    s.unitDone core slot = s.setTask core slot (t.oneUnitMore r (field r.word.toNat 56 8 * 2 ^ 24 + (r.done + 1))) := by
  simp only [State.unitDone, ht, hrun, h, if_true, State.putProgress, State.modTask_of s ht, State.modTask_setTask, Task.oneUnitMore,
    Task.withRun, Task.progressed]

theorem State.unitDone_last (ht : s.task? core slot = some t) (hrun : t.run = some r) (h : r.units ≤ r.done + 1) :
    s.unitDone core slot = s.setTask core slot (t.unitsOver r) := by
  simp only [State.unitDone, ht, hrun, Nat.not_lt.2 h, if_false, State.putProgress, State.advance, State.noteRetire, State.modTask_of s ht,
    State.modTask_setTask, Task.unitsOver, Task.pcPast, Task.retiredTo, Task.withRun,
    Task.progressed, Task.setDesc]

end

/-- Settles O8: every row starts its units alike, a unit that follows runs as the first, and its end is one write of the task. -/
theorem resumableInstructionsRunUnits : Obligations.ResumableInstructionsRunUnits := by
  unfold Obligations.ResumableInstructionsRunUnits
  refine ⟨startsUnits_of_startUnits fun _ _ => rfl, startsUnits_of_startUnits fun _ _ => rfl, startsUnits_of_startUnits fun _ _ => rfl,
    fun band => startsUnits_of_startUnits fun _ _ => rfl, startsUnits_of_startUnits fun _ _ => rfl, ?next,
    fun s core slot t r ht hrun hleft hunits => ?left, fun s core slot t r ht hrun hlast => ?last⟩
  case next =>
    intro core slot band s t r us e ht hrun hturn x hunits hready hunit hsent
    have hclocked := s.clocked_of_hasTurn (u := s.nextUnit core slot band) hturn
    exact congrArg Host.Outcome.next (hclocked.trans (State.nextUnit_ok ht hrun hturn hunits hready hunit hsent))
  case left =>
    have hop : field r.word.toNat 56 8 < 2 ^ 8 := Nat.mod_lt _ (by decide)
    have hp : field r.word.toNat 56 8 * 2 ^ 24 + (r.done + 1) < 2 ^ 32 := by omega
    rw [State.unitDone_left ht hrun hleft]
    generalize field r.word.toNat 56 8 * 2 ^ 24 + (r.done + 1) = p at hp ⊢
    refine ⟨_, State.task?_setTask .., ?_, ?_, ?_, Task.progress_of_progressed (t := t) ?_ hp⟩
    · rw [Task.oneUnitMore, Task.withRun_pc, Task.progressed_eq, Task.withDescs_pc]
    · rw [Task.oneUnitMore, Task.withRun_retired, Task.progressed_eq, Task.withDescs_retired]
    · rw [Task.oneUnitMore, Task.withRun_run]
    · rw [Task.oneUnitMore, Task.withRun_t]
  case last =>
    rw [State.unitDone_last ht hrun hlast]
    refine ⟨_, State.task?_setTask .., ?_, ?_, ?_, Task.progress_of_progressed (t := t) ?_ (Nat.two_pow_pos 32)⟩
    · rw [Task.unitsOver, Task.retiredTo_run, Task.withRun_run]
    · rw [Task.unitsOver, Task.retiredTo_retired, Task.withRun_retired, Task.progressed_eq, Task.withDescs_retired]
    · rw [Task.unitsOver, Task.retiredTo_pc, Task.pcPast_eq]
    · rw [Task.unitsOver, Task.retiredTo_t, Task.withRun_t]

end Sys2Proof.Machine

/-! # Waits, and launches that are late (R93, R209, R210)

An instruction that waits is one write of its task and a yield counted. A late launch is counted in a register of the wafer block, which
lies above every core's. -/

namespace Sys2Proof.Machine
open Sys2Proof

/-! ## A task that waits (R93) -/

/-- The task as it waits with `w` since a tick. -/
def Task.waitingFor (t : Task) (w : Wait) (tick : Nat) : Task :=
  { t with state := .waiting, wait := some w, waitStart := tick, causes := 0 }

@[simp] theorem State.turn_tick (s : State) (i : Issue) : (s.turn i).tick = s.tick := rfl

section
variable {s : State} {core slot : Nat} {t : Task} (w : Wait)

/-- A wait writes its task, counts the yield, and changes no other register. -/
theorem State.taskWait_of (h : s.task? core slot = some t) : ∃ q : State,
    s.taskWait core slot w = q.wrap64 (Reg.coreYield core) ∧ q.ctrl = s.ctrl ∧ q.mem = s.mem ∧
      q.cores.tasks = SMap.put s.cores.tasks (taskKey core slot) (t.waitingFor w s.tick) := by
  refine ⟨_, rfl, ?_⟩
  rw [State.modTask_of s h]
  cases w <;> exact ⟨rfl, rfl, rfl⟩

theorem State.task?_taskWait (h : s.task? core slot = some t) :
    (s.taskWait core slot w).task? core slot = some (t.waitingFor w s.tick) := by
  obtain ⟨q, hq, -, -, htasks⟩ := State.taskWait_of w h
  rw [hq, State.task?, State.wrap64_tasks, htasks, SMap.get?_put_same]

theorem State.taskWait_mem (h : s.task? core slot = some t) : (s.taskWait core slot w).mem = s.mem := by
  obtain ⟨q, hq, -, hmem, -⟩ := State.taskWait_of w h
  rw [hq]
  exact (BlindToRegs.wrap64 (p := State.mem) (fun _ _ _ => rfl) q _ _).trans hmem

theorem State.rd_eq_of_ctrl {s u : State} (h : u.ctrl = s.ctrl) (a : Nat) : u.rd a = s.rd a := by rw [State.rd, State.rd, h]

theorem State.get64_taskWait_coreYield (h : s.task? core slot = some t) :
    (s.taskWait core slot w).get64 (Reg.coreYield core) = (s.get64 (Reg.coreYield core) + 1) % 2 ^ 64 := by
  obtain ⟨q, hq, hctrl, -, -⟩ := State.taskWait_of w h
  rw [hq, State.get64_wrap64, State.get64, State.get64, State.rd_eq_of_ctrl hctrl, State.rd_eq_of_ctrl hctrl]

theorem State.get_taskWait (h : s.task? core slot = some t) {f : Fld} (hlow : f.addr ≠ Reg.coreYield core)
    (hhigh : f.addr ≠ Reg.coreYield core + 4) : (s.taskWait core slot w).get f = s.get f := by
  obtain ⟨q, hq, hctrl, -, -⟩ := State.taskWait_of w h
  rw [hq, State.get, State.wrap64, State.rd_put64_ne q _ hlow hhigh, State.rd_eq_of_ctrl hctrl]
  rfl

end

/-- An instruction whose body waits ends with the wait of its task. -/
theorem issue_wait {sp : OpSpec} {body : Cx → State → Chk Next} {i : Issue} {s : State} {t : Task} {w : Wait} (h : Executes sp i s t)
    (hb : body (cxOf i sp.op t) (s.turn i) = .error (.wait w)) : issue sp body i s = .next ((s.turn i).taskWait i.core i.slot w) := by
  rw [issue_body h body hb nofun]
  rfl

/-! ## Registers of the wafer block lie above those of the cores (R591 to R594) -/

theorem Block.base_core_lt (core : CoreId) {off : Nat} (h : off < 0x1000000) : Block.base .core core + off < blockBase 64 0 := by
  have hcore := core.isLt
  have hslot := slotOf_lt core
  have hpane : paneOf core < 64 := by
    simp only [paneOf]
    omega
  simp only [Block.base, blockBase]
  omega

theorem ne_core_of_le {a : Nat} (h : blockBase 64 0 ≤ a) (core : CoreId) {off : Nat} (ho : off < 0x1000000) :
    a ≠ Block.base .core core + off := by
  have hlow := Block.base_core_lt core ho
  omega

theorem le_synLate (c : Nat) : blockBase 64 0 ≤ Reg.synLate c := by
  simp only [Reg.synLate, Block.base, blockBase]
  omega

/-! ## AT.LAUNCH (R209, R210) -/

section
variable {x : Cx} {s : State}

theorem atLaunchBody_late (hclean : x.t.regPoison x.sa = false) (h : x.s x.sa ≤ s.tick) :
    atLaunchBody x s = .ok (.retire (s.wrap (Fld.synLateCount x.c))) := by
  simp [atLaunchBody, Cx.clean_ok 5 hclean, h]

theorem atLaunchBody_early (hclean : x.t.regPoison x.sa = false) (h : s.tick < x.s x.sa) :
    atLaunchBody x s = .error (.wait (.launch (x.s x.sa))) := by
  simp only [atLaunchBody, Cx.clean_ok 5 hclean, need, chk_bind_ok, decide_eq_false (Nat.not_le.2 h)]
  rfl

variable {i : Issue} {t : Task}

theorem exec_atLaunch (i : Issue) (s : State) : exec (.atLaunch i) s = issue atLaunchSpec atLaunchBody i s := rfl

theorem exec_atLaunch_early (h : Executes atLaunchSpec i s t) (hclean : t.regPoison (qRegA i) = false)
    (htick : s.tick < (t.reg (qRegA i)).toNat) :
    exec (.atLaunch i) s = .next ((s.turn i).taskWait i.core i.slot (.launch (t.reg (qRegA i)).toNat)) := by
  refine (exec_atLaunch i s).trans (issue_wait h ?_)
  rw [atLaunchBody_early (by simpa using hclean) (by simpa using htick), cxOf_sa]
  rfl

theorem exec_atLaunch_late (h : Executes atLaunchSpec i s t) (hclean : t.regPoison (qRegA i) = false)
    (htick : (t.reg (qRegA i)).toNat ≤ s.tick) :
    exec (.atLaunch i) s = .next (((s.turn i).wrap (Fld.synLateCount t.ctx)).retire i false) :=
  (exec_atLaunch i s).trans (issue_retire h _ (atLaunchBody_late (by simpa using hclean) (by simpa using htick))
    (poisonLeaves_same _ _ rfl))

end

/-- Settles O59: a late launch is one count beside the retirement; an early one is a wait, which touches no register of the wafer block. -/
theorem lateLaunchesCounted : Obligations.LateLaunchesCounted := by
  unfold Obligations.LateLaunchesCounted
  refine ⟨fun i s t h hclean htick => exec_atLaunch_late h hclean htick, fun s c => ?counted, fun i s t h hclean htick => ?early⟩
  case counted => exact State.get_put_same _ _ _ (by decide : 0 + 32 ≤ 32)
  case early =>
    have ht : (s.turn i).task? i.core i.slot = some t := h.task
    refine ⟨_, _, exec_atLaunch_early h hclean htick, State.task?_taskWait _ ht, rfl, rfl, rfl, rfl, ?_⟩
    exact State.get_taskWait _ ht (ne_core_of_le (le_synLate _) i.core (off := 0x18) (by decide))
      (ne_core_of_le (le_synLate _) i.core (off := 0x1C) (by decide))

end Sys2Proof.Machine

/-! # Streams and buffers (R188 to R202, R327)

Each body is a row of checks, taken in turn, and one effect; an effect on an endpoint is one write of its counters. -/

namespace Sys2Proof.Machine
open Sys2Proof

/-! ## Endpoints -/

section
variable {s : State} {k : Nat} {e : Endpoint}

theorem State.epD_of (h : s.ep? k = some e) : s.epD k = e := by rw [State.epD, h, Option.getD_some]

theorem State.modEp_of (h : s.ep? k = some e) (f : Endpoint → Endpoint) : s.modEp k f = s.setEp k (f e) := by rw [State.modEp, h]

theorem State.ep?_setEp (s : State) (k : Nat) (e : Endpoint) : (s.setEp k e).ep? k = some e := SMap.get?_put_same ..

theorem State.ep?_modEp (h : s.ep? k = some e) (f : Endpoint → Endpoint) : (s.modEp k f).ep? k = some (f e) := by
  rw [State.modEp_of h, State.ep?_setEp]

/-- A change of an endpoint changes nothing but the endpoints. -/
theorem State.apply_modEp {α : Type} {p : State → α} (s : State) (k : Nat) (f : Endpoint → Endpoint)
    (h : ∀ u j e, p (State.setEp u j e) = p u) : p (s.modEp k f) = p s := by
  unfold State.modEp
  split
  · exact h ..
  · rfl

end

/-! ## Fields of form Q (R132, R184) -/

@[simp] theorem cxOf_hnd (i : Issue) (op : Nat) (t : Task) : (cxOf i op t).hnd = wordField i 46 4 := field_issueBits i op 46 4 (by decide)
@[simp] theorem cxOf_imm24 (i : Issue) (op : Nat) (t : Task) : (cxOf i op t).imm24 = countOf i := field_issueBits i op 0 24 (by decide)

theorem countOk_of_fits {i : Issue} (h : countFits i) (op : Nat) (t : Task) : (cxOf i op t).countOk = true := by
  obtain ⟨hlow, hhigh⟩ := h
  simp [Cx.countOk, hlow, hhigh]

theorem need_false (e : Stop) : need false e = .error e := rfl

theorem chk_bind_error {α β : Type} (e : Stop) (f : α → Chk β) : (Except.error e : Chk α) >>= f = .error e := rfl

/-! ## A send of one group (R189, R190, R197) -/

theorem retiresAs_streamSend : RetiresAs .streamSend streamSendSpec
    (fun x s => x.sendCheck s false (fun _ => true) fun e n => .latch e true n) (fun x s k => x.sendRun s false k) :=
  retiresAs_of_body (fun _ _ => rfl) fun _ _ => rfl

theorem retiresAs_streamInj : RetiresAs .streamInj streamInjSpec
    (fun x s => x.sendCheck s true s.sideReady .inject) (fun x s k => x.sendRun s (x.qfunc == 1) k) :=
  retiresAs_of_body (fun _ _ => rfl) fun _ _ => rfl

/-- The group that a send of one whole group to a ring puts on its way (R190). -/
def State.groupTo (s : State) (k n d layer : Nat) (int32 : Bool) (ts : List (List Byte × List Nat)) : Group :=
  ⟨some k, s.get (Fld.strCfgContext k), .ring d, k / 256, s.partAt (k / 256), s.netCopy, false, n, layer, int32,
    some (joinTiles ts).1, (joinTiles ts).2⟩

section
variable {s : State} {k n d : Nat} {e : Endpoint}

theorem Endpoint.goesTo_single (hroute : e.route = [[0]]) (i : Nat) : e.goesTo i = [0] := by
  rw [Endpoint.goesTo, hroute, List.length_singleton, Nat.mod_one]
  rfl

theorem Endpoint.spend_single (hroute : e.route = [[0]]) (hpeers : e.peers = [.here d]) (n : Nat) :
    e.spend n = { e with carried := e.carried + n, used := [e.used.getD 0 0 + n] } := by
  simp [Endpoint.spend, hpeers, Endpoint.dealt, Endpoint.goesTo_single hroute]

/-- A send of one whole group on a link with one consumer within reach is one group on its way, spent at the endpoint. -/
theorem State.send_single {ts : List (List Byte × List Nat)} (int32 : Bool) (he : s.ep? k = some e) (hnode : e.node = none)
    (hroute : e.route = [[0]]) (hpeers : e.peers = [.here d]) (hreach : s.coreReach (k / 256) (d / 256) = true)
    (hn : n = s.epGrain k) (hts : ts.length = n) :
    s.send k int32 ts = (s.modEp k (·.spend n)).putGroups [s.groupTo k n d e.layer int32 ts] := by
  have hpos : 0 < n := hn ▸ Nat.succ_pos _
  have hcut : ceilDiv n n = 1 := by
    rw [ceilDiv]
    exact Nat.div_eq_of_lt_le (by omega) (by omega)
  have hdeals : e.deals = false := by simp [Endpoint.deals, hroute]
  have hreached : s.sendRefused k [s.groupTo k n d e.layer int32 ts] = none := by
    simp [State.sendRefused, State.epD_of he, hpeers, State.groupTo, Dest.stop, hreach]
  unfold State.send State.sendGroups
  simp only [State.epD_of he, hdeals, hts, ← hn, Bool.false_eq_true, if_false, hcut, hnode, Endpoint.goesTo_single hroute, hpeers]
  simp only [List.range_one, List.map_cons, List.map_nil, Nat.zero_mul, Nat.sub_zero, Nat.lt_irrefl, if_false, List.flatMap_cons,
    List.flatMap_nil, List.filterMap_cons, List.filterMap_nil, List.getElem?_cons_zero, List.drop_zero,
    List.take_of_length_le hts.le, List.append_nil]
  rw [State.groupTo] at hreached
  rw [hreached]
  rfl

end
/-- Settles O9: a send runs where its checks pass; one of a whole group to the one consumer of its link is one group on its way. -/
theorem streamSends : Obligations.StreamSends := by
  unfold Obligations.StreamSends
  refine ⟨retiresAs_streamSend, retiresAs_streamInj, ?_⟩
  intro s k n int32 ts d e he hnode hroute hpeers hreach hn hts
  rw [State.send_single int32 he hnode hroute hpeers hreach hn hts]
  refine ⟨e.spend n, State.ep?_modEp he _, rfl, by rw [Endpoint.spend_single hroute hpeers], ?_⟩
  rw [State.modEp_of he]
  rfl

end Sys2Proof.Machine

/-! # Receives, signals and waits on latches (R192 to R194) -/

namespace Sys2Proof.Machine
open Sys2Proof

section
variable {x : Cx} {s : State} {k : Nat}

/-! ## What the bodies end with -/

theorem streamRecvBody_ok (hc : x.countOk = true) (hk : s.needEndpoint x x.hnd false = .ok k) (hn : x.imm24 = s.epGrain k)
    (hm : s.mapped x.c (s.ringAddr x.c k (s.epD k).head) (4096 * x.imm24) = true) (hf : x.imm24 ≤ (s.epD k).filled) :
    streamRecvBody x s = .ok (.retire (x.putS (s.takeTiles k x.imm24) x.sd (s.ringAddr x.c k (s.epD k).head) false)) := by
  simp only [streamRecvBody, hc, hk, hm, decide_eq_true hf, beq_iff_eq.2 hn, Bool.and_self, need_true, chk_bind_ok]

theorem streamRecvBody_wait (hc : x.countOk = true) (hk : s.needEndpoint x x.hnd false = .ok k) (hn : x.imm24 = s.epGrain k)
    (hm : s.mapped x.c (s.ringAddr x.c k (s.epD k).head) (4096 * x.imm24) = true) (hf : (s.epD k).filled < x.imm24) :
    streamRecvBody x s = .error (.wait (.latch (k % 256) false x.imm24)) := by
  simp only [streamRecvBody, hc, hk, hm, decide_eq_false (Nat.not_le.2 hf), beq_iff_eq.2 hn, Bool.and_self, need_true, need_false,
    chk_bind_ok, chk_bind_error]

theorem latchWaitBody_ok (hc : x.countOk = true) (hk : s.needEndpoint x x.hnd (x.qfunc == 1) = .ok k)
    (hb : x.imm24 ≤ if x.qfunc == 1 then s.linkB k else s.ringB k) (hl : s.latchAt k (x.qfunc == 1) x.imm24 = true) :
    latchWaitBody x s = .ok (.retire s) := by
  simp only [latchWaitBody, hc, hk, hl, decide_eq_true hb, need_true, chk_bind_ok]

theorem latchWaitBody_wait (hc : x.countOk = true) (hk : s.needEndpoint x x.hnd (x.qfunc == 1) = .ok k)
    (hb : x.imm24 ≤ if x.qfunc == 1 then s.linkB k else s.ringB k) (hl : s.latchAt k (x.qfunc == 1) x.imm24 = false) :
    latchWaitBody x s = .error (.wait (.latch (k % 256) (x.qfunc == 1) x.imm24)) := by
  simp only [latchWaitBody, hc, hk, hl, decide_eq_true hb, need_true, need_false, chk_bind_ok, chk_bind_error]

theorem latchSigBody_release (hq : x.qfunc = 1) (hc : x.countOk = true) (hk : s.needEndpoint x x.hnd false = .ok k)
    (hold : s.older x.core x.slot = false) (hn : x.imm24 ≤ (s.epD k).taken) :
    latchSigBody x s = .ok (.retire (s.release k x.imm24)) := by
  simp [latchSigBody, hq, hc, hk, hold, hn]

theorem latchSigBody_overrun (hq : x.qfunc = 1) (hc : x.countOk = true) (hk : s.needEndpoint x x.hnd false = .ok k)
    (hold : s.older x.core x.slot = false) (hn : (s.epD k).taken < x.imm24) :
    latchSigBody x s = .error (.overrun (k % 256) x.imm24 (s.epD k).taken) := by
  simp [latchSigBody, hq, hc, hk, hold, decide_eq_false (Nat.not_le.2 hn), need_false, chk_bind_error]

theorem latchSigBody_announce (hq : x.qfunc = 0) (hc : x.countOk = true) (hk : s.needEndpoint x x.hnd true = .ok k)
    (hinj : s.notInj k = true) (hg : x.imm24 % s.epGrain k = 0) (hold : s.older x.core x.slot = false) (hr : s.room k x.imm24 = true) :
    latchSigBody x s = .ok (.retire (s.sendGroups k x.imm24 false none)) := by
  simp [latchSigBody, hq, hc, hk, hinj, hg, hold, hr]

end

/-! ## Takes and releases (R192, R194, R301) -/

section
variable {s : State} {k n : Nat} {e : Endpoint}

theorem State.takeTiles_of (h : s.ep? k = some e) : s.takeTiles k n =
    s.setEp k { e with filled := e.filled - n, taken := e.taken + n, head := (e.head + n) % s.epRing k } := State.modEp_of h _

/-- A take changes nothing but the endpoints. -/
theorem State.task?_takeTiles (s : State) (k n core slot : Nat) : (s.takeTiles k n).task? core slot = s.task? core slot :=
  s.apply_modEp (p := (·.task? core slot)) k _ fun _ _ _ => rfl

theorem State.takeTiles_out (s : State) (k n : Nat) : (s.takeTiles k n).out = s.out := s.apply_modEp (p := State.out) k _ fun _ _ _ => rfl

/-- What leaves is a credit, which carries no data. -/
def Out.IsCredit (o : Out) : Prop := ∃ ep source count, o = .credit ep source count

/-- The credits that leave for producers on other modules (R194). -/
theorem State.giveCredit_out (s : State) (k i n : Nat) : ∃ l : List Out, (s.giveCredit k i n).out = s.out ++ l ∧ ∀ o ∈ l, o.IsCredit := by
  unfold State.giveCredit
  split
  · exact ⟨[], (List.append_nil _).symm, nofun⟩
  · refine ⟨_, rfl, fun o ho => ?_⟩
    split at ho
    · split at ho
      · exact ⟨_, _, _, List.mem_singleton.1 ho⟩
      · cases ho
    · obtain ⟨q, -, hq⟩ := List.mem_filterMap.1 ho
      split at hq
      · exact ⟨_, _, _, (Option.some.inj hq).symm⟩
      · cases hq

theorem State.release_out (s : State) (k n : Nat) : ∃ l : List Out, (s.release k n).out = s.out ++ l ∧ ∀ o ∈ l, o.IsCredit := by
  have hmod : ∀ (u : State) j f, (u.modEp j f).out = u.out := fun u j f => u.apply_modEp (p := State.out) j f fun _ _ _ => rfl
  unfold State.release
  dsimp only
  split
  · unfold State.giveChained
    dsimp only
    split
    · exact ⟨[], by rw [hmod, hmod, List.append_nil], nofun⟩
    · obtain ⟨l, hl, hcredit⟩ := State.giveCredit_out _ k _ _
      exact ⟨l, by rw [hmod, hl, hmod, hmod], hcredit⟩
  · obtain ⟨l, hl, hcredit⟩ := State.giveCredit_out _ k _ n
    exact ⟨l, by rw [hl, hmod], hcredit⟩

theorem poisonLeaves_of_credits {u : State} {l : List Out} (hout : u.out = s.out ++ l) (hl : ∀ o ∈ l, o.IsCredit) :
    poisonLeaves s (.retire u) = false := by
  rw [poisonLeaves, Next.state, hout, List.drop_left, List.any_eq_false]
  intro o ho
  obtain ⟨_, _, _, rfl⟩ := hl o ho
  exact Bool.false_ne_true

/-- A release of tiles of an endpoint outside a chain gives their credits at once (R194). -/
theorem State.release_unchained (he : s.ep? k = some e) (hfwd : e.fwd = none) : s.release k n =
    (s.modEp k fun e => { e with taken := e.taken - n }).giveCredit k (e.carried - (e.part + e.filled + e.taken)) n := by
  unfold State.release
  simp only [State.epD_of he, hfwd, Option.isSome_none, Bool.false_eq_true, if_false]

theorem State.giveCredit_of_pos (s : State) (k i : Nat) (hn : 0 < n) : (s.giveCredit k i n).cores =
    { s.cores with credits := s.cores.credits ++ s.creditsFor k i n } := by
  unfold State.giveCredit
  rw [if_neg (by simpa using hn.ne')]

end

/-! ## What a slot's turn leaves as it is (R77) -/

section
variable (s : State) (i : Issue) (k n : Nat)

@[simp] theorem State.needEndpoint_turn (x : Cx) (h : Nat) (out : Bool) : (s.turn i).needEndpoint x h out = s.needEndpoint x h out := rfl
@[simp] theorem State.epD_turn : (s.turn i).epD k = s.epD k := rfl
@[simp] theorem State.epGrain_turn : (s.turn i).epGrain k = s.epGrain k := rfl
@[simp] theorem State.ringB_turn : (s.turn i).ringB k = s.ringB k := rfl
@[simp] theorem State.linkB_turn : (s.turn i).linkB k = s.linkB k := rfl
@[simp] theorem State.free_turn : (s.turn i).free k = s.free k := rfl
@[simp] theorem State.room_turn : (s.turn i).room k n = s.room k n := rfl
@[simp] theorem State.notInj_turn : (s.turn i).notInj k = s.notInj k := rfl
@[simp] theorem State.ringAddr_turn (c : Nat) : (s.turn i).ringAddr c k n = s.ringAddr c k n := rfl

end

/-! ## The commands -/

section
variable {i : Issue} {s : State} {t : Task} {k : Nat}

theorem exec_streamRecv (i : Issue) (s : State) : exec (.streamRecv i) s = issue streamRecvSpec streamRecvBody i s := rfl
theorem exec_latchWait (i : Issue) (s : State) : exec (.latchWait i) s = issue latchWaitSpec latchWaitBody i s := rfl
theorem exec_latchSig (i : Issue) (s : State) : exec (.latchSig i) s = issue latchSigSpec latchSigBody i s := rfl

theorem needEndpoint_of_names {op : Nat} {out : Bool} (h : namesEndpoint i op s t out k) :
    (s.turn i).needEndpoint (cxOf i op t) (cxOf i op t).hnd out = .ok k := by
  rw [cxOf_hnd]
  exact h

/-- What STREAM.RECV finds before it looks at FILLED: its operands fit the endpoint that it names (R184, R187, R192, R243). -/
structure RecvFits (i : Issue) (s : State) (t : Task) (k : Nat) : Prop where
  count : countFits i
  names : namesEndpoint i 0x71 s t false k
  group : countOf i = s.epGrain k
  mapped : s.mapped t.ctx (s.ringAddr t.ctx k (s.epD k).head) (4096 * countOf i) = true

theorem exec_streamRecv_ok (h : Executes streamRecvSpec i s t) (hfits : RecvFits i s t k) (hf : countOf i ≤ (s.epD k).filled) :
    exec (.streamRecv i) s = .next ((((s.turn i).takeTiles k (countOf i)).putTask i
      (t.setReg (wordField i 28 6) (BitVec.ofNat 64 (s.ringAddr t.ctx k (s.epD k).head)) false)).retire i false) := by
  have hb := streamRecvBody_ok (x := cxOf i 0x71 t) (s := s.turn i) (countOk_of_fits hfits.count _ _) (needEndpoint_of_names hfits.names)
    (by simpa using hfits.group) (by simpa [State.mapped_turn] using hfits.mapped) (by simpa using hf)
  have ht : ((s.turn i).takeTiles k (countOf i)).task? i.core i.slot = some t := (State.task?_takeTiles ..).trans h.task
  rw [cxOf_imm24, cxOf_sd, Cx.putS, cxOf_core, cxOf_slot, State.modTask_of _ ht] at hb
  exact (exec_streamRecv i s).trans (issue_retire h _ hb (poisonLeaves_same _ _ (State.takeTiles_out ..)))

theorem exec_streamRecv_wait (h : Executes streamRecvSpec i s t) (hfits : RecvFits i s t k) (hf : (s.epD k).filled < countOf i) :
    exec (.streamRecv i) s = .next ((s.turn i).taskWait i.core i.slot (.latch (k % 256) false (countOf i))) := by
  have hb := streamRecvBody_wait (x := cxOf i 0x71 t) (s := s.turn i) (countOk_of_fits hfits.count _ _) (needEndpoint_of_names hfits.names)
    (by simpa using hfits.group) (by simpa [State.mapped_turn] using hfits.mapped) (by simpa using hf)
  rw [cxOf_imm24] at hb
  exact (exec_streamRecv i s).trans (issue_wait h hb)

theorem exec_latchWait_ok (h : Executes latchWaitSpec i s t) (hc : countFits i) (hk : namesEndpoint i 0x72 s t (wordField i 24 4 == 1) k)
    (hb : countOf i ≤ if wordField i 24 4 = 1 then s.linkB k else s.ringB k)
    (hl : countOf i ≤ if wordField i 24 4 = 1 then s.free k else (s.epD k).filled) :
    exec (.latchWait i) s = .next ((s.turn i).retire i false) := by
  have hbody := latchWaitBody_ok (x := cxOf i 0x72 t) (s := s.turn i) (k := k) (countOk_of_fits hc _ _) (by simpa [qFuncOf] using needEndpoint_of_names hk)
    (by simpa [qFuncOf] using hb) (by simpa [State.latchAt, qFuncOf] using hl)
  exact (exec_latchWait i s).trans (issue_retire h _ hbody (poisonLeaves_same _ _ rfl))

theorem exec_latchWait_wait (h : Executes latchWaitSpec i s t) (hq : wordField i 24 4 = 0) (hc : countFits i)
    (hk : namesEndpoint i 0x72 s t false k) (hb : countOf i ≤ s.ringB k) (hl : (s.epD k).filled < countOf i) :
    exec (.latchWait i) s = .next ((s.turn i).taskWait i.core i.slot (.latch (k % 256) false (countOf i))) := by
  have hq : (cxOf i 0x72 t).qfunc = 0 := (cxOf_qfunc ..).trans hq
  have hbody := latchWaitBody_wait (x := cxOf i 0x72 t) (s := s.turn i) (k := k) (countOk_of_fits hc _ _) (by simpa [hq] using needEndpoint_of_names hk)
    (by simpa [hq] using hb) (by simpa [State.latchAt, hq] using hl)
  rw [hq, cxOf_imm24] at hbody
  exact (exec_latchWait i s).trans (issue_wait h hbody)

theorem exec_latchSig_release (h : Executes latchSigSpec i s t) (hq : wordField i 24 4 = 1) (hc : countFits i)
    (hk : namesEndpoint i 0x73 s t false k) (hold : s.older i.core i.slot = false) (hn : countOf i ≤ (s.epD k).taken) :
    exec (.latchSig i) s = .next (((s.turn i).release k (countOf i)).retire i false) := by
  have hbody := latchSigBody_release (x := cxOf i 0x73 t) (s := s.turn i) (k := k) ((cxOf_qfunc ..).trans hq) (countOk_of_fits hc _ _)
    (needEndpoint_of_names hk) (by simpa using hold) (by simpa using hn)
  rw [cxOf_imm24] at hbody
  obtain ⟨l, hout, hcredits⟩ := (s.turn i).release_out k (countOf i)
  exact (exec_latchSig i s).trans (issue_retire h _ hbody (poisonLeaves_of_credits hout hcredits))

theorem exec_latchSig_overrun (h : Executes latchSigSpec i s t) (hq : wordField i 24 4 = 1) (hc : countFits i)
    (hk : namesEndpoint i 0x73 s t false k) (hold : s.older i.core i.slot = false) (hn : (s.epD k).taken < countOf i) :
    exec (.latchSig i) s = .next
      (((((s.turn i).noteIssue i.core i.slot).raiseCtx (srcTask i.core i.slot) 0x0103 3 t.ctx
        (k % 256 + i.slot * 2 ^ 8 + countOf i * 2 ^ 24) (s.epD k).taken).put (Fld.strLatchOverrun (epKey i.core (k % 256))) 1).faultCtx
          t.ctx 5 t.leaf) := by
  have hbody := latchSigBody_overrun (x := cxOf i 0x73 t) (s := s.turn i) (k := k) ((cxOf_qfunc ..).trans hq) (countOk_of_fits hc _ _)
    (needEndpoint_of_names hk) (by simpa using hold) (by simpa using hn)
  rw [cxOf_imm24] at hbody
  exact (exec_latchSig i s).trans (issue_body h _ hbody nofun)

theorem exec_latchSig_announce (h : Executes latchSigSpec i s t) (hq : wordField i 24 4 = 0) (hc : countFits i)
    (hk : namesEndpoint i 0x73 s t true k) (hinj : s.notInj k = true) (hg : countOf i % s.epGrain k = 0)
    (hold : s.older i.core i.slot = false) (hr : s.room k (countOf i) = true)
    (hsent : poisonLeaves (s.turn i) (.retire ((s.turn i).sendGroups k (countOf i) false none)) = false) :
    exec (.latchSig i) s = .next (((s.turn i).sendGroups k (countOf i) false none).retire i false) := by
  have hbody := latchSigBody_announce (x := cxOf i 0x73 t) (s := s.turn i) (k := k) ((cxOf_qfunc ..).trans hq) (countOk_of_fits hc _ _)
    (needEndpoint_of_names hk) (by simpa using hinj) (by simpa using hg) (by simpa using hold) (by simpa using hr)
  rw [cxOf_imm24] at hbody
  exact (exec_latchSig i s).trans (issue_retire h _ hbody hsent)

end

/-- Settles O10: each body's checks lead to one take, release, announcement or wait; a release's output is credits, which carry no data. -/
theorem streamReceivesSignalsAndWaits : Obligations.StreamReceivesSignalsAndWaits := by
  unfold Obligations.StreamReceivesSignalsAndWaits
  refine ⟨fun i s t k h hc hk hn hm hf => exec_streamRecv_ok h ⟨hc, hk, hn, hm⟩ hf, fun s k n e he => ?taken,
    fun i s t k h hc hk hb hl => exec_latchWait_ok h hc hk hb hl,
    fun i s t k h hq hc hk hold hn => exec_latchSig_release h hq hc hk hold hn,
    fun i s t k h hq hc hk hinj hg hold hr hsent => exec_latchSig_announce h hq hc hk hinj hg hold hr hsent,
    fun s k n e he hfwd hn => ?released, fun i s t k h hc hk hn hm hf => exec_streamRecv_wait h ⟨hc, hk, hn, hm⟩ hf,
    fun i s t k h hq hc hk hb hl => exec_latchWait_wait h hq hc hk hb hl, fun s core slot t ep free n ht => ?waits,
    fun i s t k h hq hc hk hold hn => exec_latchSig_overrun h hq hc hk hold hn⟩
  case taken =>
    rw [State.takeTiles_of he]
    exact ⟨_, State.ep?_setEp .., rfl, rfl, rfl⟩
  case released =>
    have hcores := (s.modEp k fun e => { e with taken := e.taken - n }).giveCredit_of_pos k
      (e.carried - (e.part + e.filled + e.taken)) hn
    rw [State.release_unchained he hfwd]
    refine ⟨{ e with taken := e.taken - n }, ?_, rfl, rfl, ?_⟩
    · rw [State.ep?, hcores]
      exact State.ep?_modEp he _
    · rw [hcores, State.apply_modEp (p := (·.cores.credits)) s k _ fun _ _ _ => rfl]
  case waits =>
    exact ⟨_, _, rfl, State.task?_taskWait _ ht, rfl, rfl, rfl, rfl, State.get64_taskWait_coreYield _ ht, State.taskWait_mem _ ht⟩

end Sys2Proof.Machine

/-! # Buffer pools (R200 to R202) -/

namespace Sys2Proof.Machine
open Sys2Proof

/-! ## BUF.ALLOC (R200) -/

/-- The state in which buffer `j` belongs to a slot, its generation raised and one free value drawn (R200). -/
def State.bufTaken (s : State) (j : Nat) (b : Buffer) (slot : Nat) : State :=
  { s with cores.buffers := s.cores.buffers.set j { b with owner := .slot slot, gen := b.gen + 1 }, draws := s.draws + 1 }

section
variable {x : Cx} {s : State}

/-- Some place of a list that is not empty is drawn. -/
theorem getElem?_draw {α : Type} {l : List α} (h : l ≠ []) (n : Nat) : ∃ a ∈ l, l[n % l.length]? = some a := by
  have hlt : n % l.length < l.length := Nat.mod_lt _ (List.length_pos_iff.2 h)
  exact ⟨_, List.getElem_mem hlt, List.getElem?_eq_getElem hlt⟩

theorem State.buffer_of_free {c core : Nat} {t1 : Bool} {j : Nat} (h : j ∈ s.freeBuffers c core t1) :
    ∃ b, s.cores.buffers[j]? = some b :=
  ⟨_, List.getElem?_eq_getElem (List.mem_range.1 (List.mem_filter.1 h).1)⟩

theorem bufAllocBody_ok (hfree : s.freeBuffers x.c x.core (x.qfunc == 1) ≠ [])
    (hqueue : s.bufferQueue x.c x.core x.slot (x.qfunc == 1) = false) :
    ∃ j b, j ∈ s.freeBuffers x.c x.core (x.qfunc == 1) ∧ s.cores.buffers[j]? = some b ∧
      bufAllocBody x s = .ok (.retire (x.putS ((s.bufTaken j b x.slot).modTask x.core x.slot fun t => { t with wait := none }) x.sd
        (b.addr + (b.gen + 1).toNat * 2 ^ 44) false)) := by
  obtain ⟨j, hj, hdraw⟩ := getElem?_draw hfree (Config.pick s.draws)
  obtain ⟨b, hb⟩ := State.buffer_of_free hj
  refine ⟨j, b, hj, hb, ?_⟩
  simp only [bufAllocBody, hdraw, hqueue, Bool.not_false, need_true, chk_bind_ok, hb]
  rfl

theorem bufAllocBody_wait (hfree : s.freeBuffers x.c x.core (x.qfunc == 1) = []) :
    bufAllocBody x s = .error (.wait (.buffer (x.qfunc == 1))) := by
  simp only [bufAllocBody, hfree, List.getElem?_nil]

/-! ## BUF.FREE (R201, R202) -/

/-- An event changes the records that its source holds, and those it has lost (R488). -/
theorem State.raiseCtx_eq (s : State) (src code sev c w2 w3 : Nat) :
    ∃ r l, s.raiseCtx src code sev c w2 w3 = { s with raised := r, lost := l } := by
  unfold State.raiseCtx State.raise
  split
  · exact ⟨_, s.lost, rfl⟩
  · split
    · exact ⟨s.raised, _, rfl⟩
    · exact ⟨s.raised, _, rfl⟩

theorem State.raiseCtx_out (s : State) (src code sev c w2 w3 : Nat) : (s.raiseCtx src code sev c w2 w3).out = s.out := by
  obtain ⟨r, l, h⟩ := s.raiseCtx_eq src code sev c w2 w3
  rw [h]

theorem State.partOf_raiseCtx (s : State) (src code sev c w2 w3 d : Nat) : (s.raiseCtx src code sev c w2 w3).partOf d = s.partOf d := by
  obtain ⟨r, l, h⟩ := s.raiseCtx_eq src code sev c w2 w3
  rw [h]
  rfl

theorem bufFreeBody_ok {j : Nat} (hclean : x.t.regPoison x.sa = false) (h : s.bufCheck x.c x.core x.slot (x.s x.sa) = .ok j) :
    bufFreeBody x s =
      .ok (.retire { s with cores.buffers := s.cores.buffers.modify j fun b => { b with owner := .free } }) := by
  simp only [bufFreeBody, Cx.clean_ok 1 hclean, chk_bind_ok, h]

theorem bufFreeBody_misuse {kind : Nat} (hclean : x.t.regPoison x.sa = false)
    (h : s.bufCheck x.c x.core x.slot (x.s x.sa) = .error kind) : bufFreeBody x s = .ok (.retire
      ((s.raiseCtx (srcTask x.core x.slot) 0x0104 2 x.c (x.s x.sa) (kind + x.slot * 2 ^ 8)).misusePart (s.partOf x.c))) := by
  simp only [bufFreeBody, Cx.clean_ok 1 hclean, chk_bind_ok, h, State.partOf_raiseCtx]

end

section
variable {i : Issue} {s : State} {t : Task}

theorem exec_bufAlloc (i : Issue) (s : State) : exec (.bufAlloc i) s = issue bufAllocSpec bufAllocBody i s := rfl
theorem exec_bufFree (i : Issue) (s : State) : exec (.bufFree i) s = issue bufFreeSpec bufFreeBody i s := rfl

@[simp] theorem State.freeBuffers_turn (s : State) (i : Issue) (c core : Nat) (t1 : Bool) :
    (s.turn i).freeBuffers c core t1 = s.freeBuffers c core t1 := rfl
@[simp] theorem State.bufferQueue_turn (s : State) (i : Issue) (c core slot : Nat) (t1 : Bool) :
    (s.turn i).bufferQueue c core slot t1 = s.bufferQueue c core slot t1 := rfl
@[simp] theorem State.bufCheck_turn (s : State) (i : Issue) (c core slot token : Nat) :
    (s.turn i).bufCheck c core slot token = s.bufCheck c core slot token := rfl

theorem exec_bufAlloc_ok (h : Executes bufAllocSpec i s t) (hfree : s.freeBuffers t.ctx i.core (qFuncOf i == 1) ≠ [])
    (hqueue : s.bufferQueue t.ctx i.core i.slot (qFuncOf i == 1) = false) :
    ∃ j b, j ∈ s.freeBuffers t.ctx i.core (qFuncOf i == 1) ∧ s.cores.buffers[j]? = some b ∧
      exec (.bufAlloc i) s = .next ((((s.turn i).bufTaken j b i.slot).putTask i ({ t with wait := none }.setReg (qRegD i)
        (BitVec.ofNat 64 (b.addr + (b.gen + 1).toNat * 2 ^ 44)) false)).retire i false) := by
  obtain ⟨j, b, hj, hb, hbody⟩ := bufAllocBody_ok (x := cxOf i 0x74 t) (s := s.turn i) (by simpa using hfree) (by simpa using hqueue)
  refine ⟨j, b, by simpa using hj, hb, ?_⟩
  have ht : ((s.turn i).bufTaken j b i.slot).task? i.core i.slot = some t := h.task
  rw [cxOf_sd, Cx.putS, cxOf_core, cxOf_slot, State.modTask_modTask, State.modTask_of _ ht] at hbody
  exact (exec_bufAlloc i s).trans (issue_retire h _ hbody (poisonLeaves_same _ _ rfl))

theorem exec_bufAlloc_wait (h : Executes bufAllocSpec i s t) (hfree : s.freeBuffers t.ctx i.core (qFuncOf i == 1) = []) :
    exec (.bufAlloc i) s = .next ((s.turn i).taskWait i.core i.slot (.buffer (qFuncOf i == 1))) := by
  have hbody := bufAllocBody_wait (x := cxOf i 0x74 t) (s := s.turn i) (by simpa using hfree)
  rw [cxOf_qfunc] at hbody
  exact (exec_bufAlloc i s).trans (issue_wait h hbody)

theorem exec_bufFree_ok {j : Nat} (h : Executes bufFreeSpec i s t) (hclean : t.regPoison (qRegA i) = false)
    (hj : s.bufCheck t.ctx i.core i.slot (t.reg (qRegA i)).toNat = .ok j) : exec (.bufFree i) s =
      .next ({ s.turn i with cores.buffers := s.cores.buffers.modify j fun b => { b with owner := .free } }.retire i false) :=
  (exec_bufFree i s).trans (issue_retire h _ (bufFreeBody_ok (by simpa using hclean) (by simpa using hj)) (poisonLeaves_same _ _ rfl))

theorem exec_bufFree_misuse {kind : Nat} (h : Executes bufFreeSpec i s t) (hclean : t.regPoison (qRegA i) = false)
    (hkind : s.bufCheck t.ctx i.core i.slot (t.reg (qRegA i)).toNat = .error kind) :
    exec (.bufFree i) s = .next ((((s.turn i).raiseCtx (srcTask i.core i.slot) 0x0104 2 t.ctx (t.reg (qRegA i)).toNat
      (kind + i.slot * 2 ^ 8)).misusePart (s.partOf t.ctx)).retire i false) := by
  have hbody := bufFreeBody_misuse (x := cxOf i 0x75 t) (s := s.turn i) (by simpa using hclean) (by simpa using hkind)
  rw [cxOf_sa] at hbody
  exact (exec_bufFree i s).trans (issue_retire h _ hbody (poisonLeaves_same _ _ (State.raiseCtx_out ..)))

end

/-- Settles O11: a buffer that is drawn lies in the pool's free ones; a token has one finding, and each finding one effect. -/
theorem bufferAllocationAndFree : Obligations.BufferAllocationAndFree := by
  unfold Obligations.BufferAllocationAndFree
  exact ⟨fun i s t h hfree hqueue => exec_bufAlloc_ok h hfree hqueue, fun i s t h hfree => exec_bufAlloc_wait h hfree,
    fun i s t j h hclean hj => exec_bufFree_ok h hclean hj, fun i s t kind h hclean hkind => exec_bufFree_misuse h hclean hkind⟩

end Sys2Proof.Machine

/-! # Thresholds, barriers and timed launch (R203 to R210, R345)

A release completes the waits of tasks in slots that lie apart, one after the other, so each of them ends as one write of its task; what
each completion does beside that (`passThreshold`, `passBarrier`) touches no task. -/

namespace Sys2Proof.Machine
open Sys2Proof

/-! ## What the bodies end with -/

section
variable {x : Cx} {s : State}

theorem thresholdBody_pass (hp : (s.ctx x.c).priv = false) (hd : s.drained x.core x.slot x.c = true)
    (hh : s.heldTask x.c x.core x.slot = false) :
    thresholdBody x s = .ok (.retire ((s.closeBatches x.core x.slot).passThreshold x.core x.slot)) := by
  simp only [thresholdBody, hp, hd, hh, Bool.not_false, Bool.and_self, need_true, chk_bind_ok]

theorem thresholdBody_wait
    (h : (s.ctx x.c).priv = true ∨ s.drained x.core x.slot x.c = false ∨ s.heldTask x.c x.core x.slot = true) :
    thresholdBody x s = .error (.wait .threshold) := by
  have hneed : (!(s.ctx x.c).priv && s.drained x.core x.slot x.c && !s.heldTask x.c x.core x.slot) = false := by
    rcases h with h | h | h <;> simp [h]
  simp only [thresholdBody, hneed, need_false, chk_bind_error]

theorem barrierBody_wait {n : Nat} (hn : ((s.ctx x.c).units.findIdx? fun u => u.handle == x.s x.sa && u.casement && u.leaf ≤ x.t.leaf &&
    x.t.leaf < u.leaf + u.leaves) = some n) (hclean : x.t.regPoison x.sa = false) :
    barrierBody x s = .error (.wait (.barrier n)) := by
  simp only [barrierBody, hn, Cx.clean_ok 6 hclean, chk_bind_ok]

theorem State.passThreshold_out (s : State) (core slot : Nat) : (s.passThreshold core slot).out = s.out :=
  s.apply_passThreshold core slot (fun _ _ _ => rfl) (fun _ _ _ => rfl) (fun _ _ _ _ => rfl) fun _ _ => rfl

theorem State.passThreshold_tasks (s : State) (core slot : Nat) : (s.passThreshold core slot).cores.tasks = s.cores.tasks :=
  s.apply_passThreshold (p := (·.cores.tasks)) core slot (fun _ _ _ => rfl) (fun _ _ _ => rfl) (fun _ _ _ _ => rfl) fun _ _ => rfl

/-- A barrier that is passed changes its context's declarations, and nothing else. -/
theorem State.apply_passBarrier {α : Type} {p : State → α} (n : Nat) (s : State) (core slot : Nat)
    (h : ∀ u c k, p (State.setCtx u c k) = p u) : p (s.passBarrier n core slot) = p s := by
  unfold State.passBarrier
  split
  · rfl
  · split
    · exact h ..
    · rfl

end

/-- A change of a task changes nothing but the tasks. -/
theorem State.apply_modTask {α : Type} {p : State → α} (s : State) (core slot : Nat) (f : Task → Task)
    (h : ∀ u a b t, p (State.setTask u a b t) = p u) : p (s.modTask core slot f) = p s := by
  unfold State.modTask
  split
  · exact h ..
  · rfl

/-- A wait that completes changes its task, registers, and the core's place of the last issue. -/
theorem State.apply_completeWait {α : Type} {p : State → α} (s : State) (core slot : Nat) (h : BlindToRegs p)
    (htask : ∀ u a b t, p (State.setTask u a b t) = p u) (hlast : ∀ (u : State) m, p { u with cores.lastIssue := m } = p u) :
    p (s.completeWait core slot) = p s :=
  (State.apply_noteIssue _ core slot h hlast).trans ((State.apply_modTask _ _ _ _ htask).trans (s.apply_modTask _ _ _ htask))

theorem State.completeWait_mem (s : State) (core slot : Nat) : (s.completeWait core slot).mem = s.mem :=
  s.apply_completeWait core slot (fun _ _ _ => rfl) (fun _ _ _ _ => rfl) fun _ _ => rfl

/-! ## Waits that complete together (R204, R208, R209) -/

/-- Applied to `a`, `f` completes the wait of the task at the key of `a`, if there is one, and changes no other task. -/
def CompletesAt {α : Type} (f : State → α → State) (key : α → Nat) : Prop := ∀ u a k,
  SMap.get? (f u a).cores.tasks k = if k = key a then (SMap.get? u.cores.tasks k).map Task.resumed else SMap.get? u.cores.tasks k

theorem completesAt_completeWait {α : Type} (core slot : α → Nat) :
    CompletesAt (fun u a => State.completeWait u (core a) (slot a)) fun a => taskKey (core a) (slot a) := by
  intro u a k
  dsimp only
  cases ht : u.task? (core a) (slot a) with
  | none =>
    have hsame : (u.completeWait (core a) (slot a)).cores.tasks = u.cores.tasks := by
      simp only [State.completeWait, State.noteRetire, State.modTask, ht]
      exact u.apply_noteIssue (p := (·.cores.tasks)) (core a) (slot a) (fun _ _ _ => rfl) fun _ _ => rfl
    rw [hsame]
    split
    next hk => rw [hk, ← State.task?, ht, Option.map_none]
    · rfl
  | some t =>
    rw [State.completeWait_of ht, State.apply_noteIssue (p := (·.cores.tasks)) _ _ _ (fun _ _ _ => rfl) fun _ _ => rfl,
      State.setTask_tasks, SMap.get?_put]
    split
    next hk => rw [hk, ← State.task?, ht, Option.map_some]
    · rfl

theorem CompletesAt.foldl {α : Type} {f : State → α → State} {key : α → Nat} (h : CompletesAt f key) (k : Nat) :
    ∀ (l : List α) (s : State), (l.map key).Nodup → SMap.get? (l.foldl f s).cores.tasks k =
      if k ∈ l.map key then (SMap.get? s.cores.tasks k).map Task.resumed else SMap.get? s.cores.tasks k
  | [], s, _ => by simp
  | a :: l, s, hnodup => by
    obtain ⟨hnot, hrest⟩ := List.nodup_cons.1 (List.map_cons ▸ hnodup)
    rw [List.foldl_cons, h.foldl k l _ hrest, h s a k]
    by_cases hk : k = key a
    · subst hk
      simp [hnot]
    · simp [hk]

theorem foldl_mem {α : Type} {f : State → α → State} (hf : ∀ u a, (f u a).mem = u.mem) (l : List α) (s : State) :
    (l.foldl f s).mem = s.mem := List.foldlRecOn (motive := fun u : State => u.mem = s.mem) l f rfl fun u hu a _ => (hf u a).trans hu

/-! ## The collector (R204, R208) -/

section
variable {s : State} {c : Nat} {p : TaskDecl → Bool} {w : Wait} {tickAt : Nat → Nat} {after : State → Nat → Nat → State}

theorem State.collect_names {g : Nat} (hnone : ((s.ctx c).releases.find? fun r => r.wait == w) = none) (hg : g = s.voteGen c p w)
    (h0 : g ≠ 0) (harrived : s.arrived c p w g = true) : s.collect c p w tickAt after =
      { s with draws := s.draws + 1 }.setCtx c { s.ctx c with
        releases := (s.ctx c).releases ++ [Release.mk w g (tickAt (s.lastArrival c p w g))] } := by
  subst hg
  unfold State.collect
  simp only [hnone]
  exact if_neg (by simp [h0, harrived])

theorem State.collect_releases {r : Release} (hsome : ((s.ctx c).releases.find? fun r => r.wait == w) = some r) (hdue : r.tick ≤ s.tick) :
    s.collect c p w tickAt after =
      (s.setCtx c { s.ctx c with releases := (s.ctx c).releases.filter fun r => r.wait != w }).releaseAll c p w r.gen after := by
  unfold State.collect
  simp only [hsome]
  exact if_neg (Nat.not_lt.2 hdue)

/-- The tasks that a release completes are those that wait for it (R204, R208). -/
theorem State.mem_voters_setCtx {l : List Release} {g : Nat} {d : TaskDecl} (hd : d ∈ (s.ctx c).tasks) (hp : p d = true)
    (hw : s.waitsAt d w = true) (hg : d.passed w + 1 = g) :
    d ∈ (s.setCtx c { s.ctx c with releases := l }).voters c p w g := by
  have hwaits : (s.setCtx c { s.ctx c with releases := l }).waitsAt d w = true := hw
  rw [State.voters, State.ctx_setCtx]
  simp [hd, hp, hwaits, hg]

theorem State.nodup_voters_setCtx {l : List Release} {g : Nat} (h : slotsApart s c) :
    (((s.setCtx c { s.ctx c with releases := l }).voters c p w g).map fun d => taskKey d.core d.slot).Nodup := by
  refine List.Nodup.sublist ?_ h
  rw [State.voters, State.ctx_setCtx]
  exact (List.filter_sublist.trans List.filter_sublist).map _

theorem State.releaseAll_mem (g : Nat) (hmem : ∀ u core slot, (after u core slot).mem = u.mem) :
    (s.releaseAll c p w g after).mem = s.mem := by
  rw [State.releaseAll]
  refine foldl_mem (fun u d => ?_) _ s
  rw [hmem, State.completeWait_mem]

/-- At the release tick every task that waits has completed its instruction, and memory is as it was. -/
theorem State.collect_resumes {r : Release} (hsome : ((s.ctx c).releases.find? fun r => r.wait == w) = some r) (hdue : r.tick ≤ s.tick)
    (hapart : slotsApart s c) (htasks : ∀ u core slot, (after u core slot).cores.tasks = u.cores.tasks)
    (hmem : ∀ u core slot, (after u core slot).mem = u.mem) :
    (s.collect c p w tickAt after).mem = s.mem ∧ ∀ d t, d ∈ (s.ctx c).tasks → p d = true → s.waitsAt d w = true →
      d.passed w + 1 = r.gen → s.task? d.core d.slot = some t →
      (s.collect c p w tickAt after).task? d.core d.slot = some t.resumed := by
  rw [State.collect_releases hsome hdue]
  refine ⟨?_, fun d t hd hp hw hg ht => ?_⟩
  · rw [State.releaseAll_mem _ hmem]
    rfl
  · have hcomplete : CompletesAt (fun u (d : TaskDecl) => after (u.completeWait d.core d.slot) d.core d.slot)
        fun d => taskKey d.core d.slot := by
      intro u d k
      have hwait := completesAt_completeWait (·.core) (·.slot) u d k
      dsimp only at hwait ⊢
      rw [htasks, hwait]
    rw [State.task?, State.releaseAll, hcomplete.foldl _ _ _ (State.nodup_voters_setCtx hapart),
      if_pos (List.mem_map_of_mem (State.mem_voters_setCtx hd hp hw hg))]
    exact congrArg (Option.map Task.resumed) ht

end

/-- A task that waits in its slot counts for its threshold, and for the barrier of a casement above it. -/
theorem State.waitsAt_iff {s : State} {d : TaskDecl} {w : Wait} : s.waitsAt d w = true ↔
    d.phase = .live ∧ ∃ t, s.task? d.core d.slot = some t ∧ t.state = .waiting ∧ t.wait = some w := by
  unfold State.waitsAt
  cases s.task? d.core d.slot <;> simp

theorem State.liveDecl_of_waitsAt {s : State} {d : TaskDecl} {w : Wait} (h : s.waitsAt d w = true) : s.liveDecl d = true := by
  obtain ⟨hphase, t, ht, hstate, -⟩ := State.waitsAt_iff.1 h
  simp [State.liveDecl, hphase, ht, hstate]

theorem State.startedDecl_of_waitsAt {s : State} {d : TaskDecl} {w : Wait} (h : s.waitsAt d w = true) : s.startedDecl d = true := by
  obtain ⟨hphase, t, ht, hstate, -⟩ := State.waitsAt_iff.1 h
  simp [State.startedDecl, hphase, ht, hstate]

/-! ## Release ticks -/

theorem State.le_thresholdTick (s : State) (last : Nat) : s.tick ≤ s.thresholdTick last := Nat.le_add_right ..

/-- The tick lies no later than 192 ticks after the last vote, unless they are over. -/
theorem State.thresholdTick_le (s : State) (last : Nat) : s.thresholdTick last ≤ max s.tick (last + 192) := by
  unfold State.thresholdTick
  split
  · exact Nat.le_max_left ..
  next h =>
    have hdraw : Config.pick s.draws % (last + 193 - s.tick) < last + 193 - s.tick := Nat.mod_lt _ (by omega)
    omega

theorem State.le_barrierTick (s : State) {c node : Nat} {u : UnitNode} (hu : (s.ctx c).units[node]? = some u) (last : Nat) :
    s.tick ≤ s.barrierTick c node last ∧ last + 192 + 250 * u.hops ≤ s.barrierTick c node last := by
  rw [State.barrierTick, hu, Option.elim_some, UnitNode.lead]
  omega

/-! ## Launches of a core (R209, R210) -/

section
variable {s : State} {core : CoreId} {k : Nat} {t : Task}

/-- The launch of a slot is due: its task waits for a tick that has begun, and its context's tasks issue. -/
def State.launchDue (s : State) (core k : Nat) : Bool :=
  match s.task? core k with
  | some t => t.state == .waiting && s.runs t.ctx && (match t.wait with | some (.launch v) => decide (v ≤ s.tick) | _ => false)
  | none => false

theorem State.launchDue_iff {core : Nat} : s.launchDue core k = true ↔
    ∃ t v, s.task? core k = some t ∧ t.state = .waiting ∧ s.runs t.ctx = true ∧ t.wait = some (.launch v) ∧ v ≤ s.tick := by
  unfold State.launchDue
  cases s.task? core k with
  | none => simp
  | some t =>
    simp only [Bool.and_eq_true, beq_iff_eq]
    constructor
    · rintro ⟨⟨hstate, hruns⟩, hwait⟩
      split at hwait
      next v hv => exact ⟨t, v, rfl, hstate, hruns, hv, by simpa using hwait⟩
      · cases hwait
    · rintro ⟨_, v, ⟨rfl⟩, hstate, hruns, hv, hdue⟩
      simp [hstate, hruns, hv, hdue]

/-- The due launches of a core complete. -/
def State.launched (s : State) (core : Nat) : State :=
  ((List.range 16).filter (s.launchDue core)).foldl (fun s k => s.completeWait core k) s

theorem State.launchTick_eq (s : State) (core : Nat) : s.launchTick core = { s.launched core with
    cores.first := SMap.putD (s.launched core).cores.first core ((List.range 16).filter (s.launchDue core) ++
      (SMap.getD (s.launched core).cores.first core []).filter fun k => !((List.range 16).filter (s.launchDue core)).contains k) [] } :=
  rfl

/-- Launches change tasks, counts of issue, and places of the last issue. -/
theorem State.apply_launched {α : Type} {p : State → α} (s : State) (core : Nat) (h : BlindToRegs p)
    (htask : ∀ u a b t, p (State.setTask u a b t) = p u) (hlast : ∀ (u : State) m, p { u with cores.lastIssue := m } = p u) :
    p (s.launched core) = p s :=
  List.foldlRecOn (motive := fun u : State => p u = p s) _ _ rfl fun u hu k _ => (u.apply_completeWait core k h htask hlast).trans hu

theorem State.task?_launched (ht : s.task? core k = some t) (hk : k < 16) (hdue : s.launchDue core k = true) :
    (s.launched core).task? core k = some t.resumed := by
  have hinj : Function.Injective (taskKey core.val) := fun a b h => Nat.add_left_cancel h
  have hnodup : (((List.range 16).filter (s.launchDue core)).map (taskKey core.val)).Nodup :=
    (List.nodup_range.filter _).map hinj
  have hmem : k ∈ (List.range 16).filter (s.launchDue core) := List.mem_filter.2 ⟨List.mem_range.2 hk, hdue⟩
  have hcomplete : CompletesAt (fun u k => State.completeWait u core k) (taskKey core.val) :=
    completesAt_completeWait (fun _ => core.val) id
  rw [State.task?, State.launched, hcomplete.foldl _ _ _ hnodup, if_pos (List.mem_map_of_mem hmem)]
  exact congrArg (Option.map Task.resumed) ht

/-- A register of the wafer block keeps its value. -/
theorem State.rd_launched (s : State) (core : CoreId) {a : Nat} (ha : blockBase 64 0 ≤ a) : (s.launched core).rd a = s.rd a := by
  refine List.foldlRecOn (motive := fun u : State => u.rd a = s.rd a) _ _ rfl fun u hu k _ => ?_
  rw [State.completeWait, State.rd_noteIssue_ne _ _ _ (ne_core_of_le ha core (off := 0x10) (by decide))
    (ne_core_of_le ha core (off := 0x14) (by decide)), State.noteRetire,
    State.apply_modTask (p := (·.rd a)) _ _ _ _ fun _ _ _ _ => rfl, State.apply_modTask (p := (·.rd a)) _ _ _ _ fun _ _ _ _ => rfl, hu]

theorem le_ctxStatus (c : Nat) : blockBase 64 0 ≤ Reg.ctxStatus c := by
  simp only [Reg.ctxStatus, Block.base, blockBase]
  omega

theorem State.runs_congr {s u : State} {c : Nat} (hctxs : u.ctxs = s.ctxs) (hrises : u.rises = s.rises)
    (hstate : u.get (Fld.ctxStatusState c) = s.get (Fld.ctxStatusState c)) : u.runs c = s.runs c := by
  have hfault : u.faultWaits c = s.faultWaits c := by rw [State.faultWaits, State.faultWaits, hrises]
  have hctx : u.ctxState c = s.ctxState c := by
    rw [State.ctxState, State.ctxState, State.tearing, State.tearing, State.ctx, State.ctx, hctxs, hstate]
  rw [State.runs, State.runs, hfault, hctx]

theorem State.runs_launched (s : State) (core : CoreId) (c : Nat) : (s.launched core).runs c = s.runs c :=
  State.runs_congr (s.apply_launched core (fun _ _ _ => rfl) (fun _ _ _ _ => rfl) fun _ _ => rfl)
    (s.apply_launched core (fun _ _ _ => rfl) (fun _ _ _ _ => rfl) fun _ _ => rfl)
    (congrArg (field · 16 3) (s.rd_launched core (le_ctxStatus c)))

theorem State.launchTick_mem (s : State) (core : Nat) : (s.launchTick core).mem = s.mem :=
  s.apply_launched (p := State.mem) core (fun _ _ _ => rfl) (fun _ _ _ _ => rfl) fun _ _ => rfl

theorem State.task?_launchTick (ht : s.task? core k = some t) (hk : k < 16) (hdue : s.launchDue core k = true) :
    (s.launchTick core).task? core k = some t.resumed := State.task?_launched ht hk hdue

/-- The lowest slot whose launch is due issues next (R209). -/
theorem State.chosen_launchTick (ht : s.task? core k = some t) (hk : k < 16) (hdue : s.launchDue core k = true)
    (hfree : t.request = none ∧ t.run = none ∧ slotIn s.cores.held core k = false)
    (hlow : ∀ j, j < k → s.launchDue core j = false) : (s.launchTick core).chosen core = some k := by
  obtain ⟨hrequest, hrun, hheld⟩ := hfree
  have hruns : (s.launched core).runs t.ctx = true := by
    obtain ⟨t', -, ht', -, hruns, -⟩ := State.launchDue_iff.1 hdue
    rw [ht] at ht'
    rw [State.runs_launched, Option.some.inj ht']
    exact hruns
  have hready : (s.launchTick core).slotReady core k = true := by
    have hheld' : (s.launchTick core).cores.held = s.cores.held :=
      s.apply_launched (p := (·.cores.held)) core (fun _ _ _ => rfl) (fun _ _ _ _ => rfl) fun _ _ => rfl
    have htaskReady : (s.launchTick core).taskReady t.resumed = true := by
      rw [State.taskReady, show (s.launchTick core).runs t.resumed.ctx = true from hruns]
      simp [Task.resumed, hrequest, hrun]
    rw [State.slotReady, State.task?_launchTick ht hk hdue]
    simp only [htaskReady, hheld', hheld, Bool.not_false, Bool.and_self]
  have hfirst : ((List.range 16).filter (s.launchDue core)).find? ((s.launchTick core).slotReady core) = some k := by
    rw [List.find?_filter]
    exact List.find?_range_eq_some.2 ⟨by simp [hdue, hready], List.mem_range.2 hk, fun j hj => by simp [hlow j hj]⟩
  have hlist : SMap.getD (s.launchTick core).cores.first core [] = (List.range 16).filter (s.launchDue core) ++
      (SMap.getD (s.launched core).cores.first core []).filter fun k => !((List.range 16).filter (s.launchDue core)).contains k := by
    rw [State.launchTick_eq, SMap.getD_putD_same]
  rw [State.chosen, hlist, List.find?_append, hfirst]
  rfl

end

/-! ## The commands -/

section
variable {i : Issue} {s : State} {t : Task}

@[simp] theorem State.ctx_turn (s : State) (i : Issue) (c : Nat) : (s.turn i).ctx c = s.ctx c := rfl

theorem State.mergeRoot_congr {s u : State} (h : u.ctrl = s.ctrl) : ∀ fuel n, u.mergeRoot fuel n = s.mergeRoot fuel n
  | 0, _ => rfl
  | fuel + 1, n => by
    have hout : u.nodeOut n = s.nodeOut n := by
      simp only [State.nodeOut, State.flag, State.get, State.rd_eq_of_ctrl h]
      rfl
    rw [State.mergeRoot, State.mergeRoot, hout]
    split
    · rfl
    · exact State.mergeRoot_congr h fuel _

theorem State.mergeRoot_turn (s : State) (i : Issue) (fuel : Nat) : (s.turn i).mergeRoot fuel = s.mergeRoot fuel :=
  funext fun n => State.mergeRoot_congr (s := s) (u := s.turn i) rfl fuel n

theorem State.bound_turn (s : State) (i : Issue) (k : Nat) : (s.turn i).bound k = s.bound k := by
  funext d
  cases d with
  | ring r => rfl
  | node n right => rw [State.bound, State.mergeRoot_turn, State.bound]

theorem State.inbound_turn (s : State) (i : Issue) (k layer : Nat) : (s.turn i).inbound k layer = s.inbound k layer := by
  rw [State.inbound, State.inbound, State.bound_turn, State.mergeRoot_turn]
  generalize s.mergeRoot 4096 = root
  generalize s.bound k = bound
  rfl

@[simp] theorem State.drained_turn (s : State) (i : Issue) (core slot c : Nat) :
    (s.turn i).drained core slot c = s.drained core slot c := by
  simp only [State.drained, State.inbound_turn]
  rfl

@[simp] theorem State.heldTask_turn (s : State) (i : Issue) (c core slot : Nat) :
    (s.turn i).heldTask c core slot = s.heldTask c core slot := rfl

theorem exec_threshold (i : Issue) (s : State) : exec (.threshold i) s = issue thresholdSpec thresholdBody i s := rfl
theorem exec_barrier (i : Issue) (s : State) : exec (.barrier i) s = issue barrierSpec barrierBody i s := rfl
theorem exec_tickRd (i : Issue) (s : State) : exec (.tickRd i) s = issue tickRdSpec tickRdBody i s := rfl

theorem exec_threshold_pass (h : Executes thresholdSpec i s t) (hp : (s.ctx t.ctx).priv = false)
    (hd : s.drained i.core i.slot t.ctx = true) (hh : s.heldTask t.ctx i.core i.slot = false) :
    exec (.threshold i) s = .next ((((s.turn i).closeBatches i.core i.slot).passThreshold i.core i.slot).retire i false) :=
  (exec_threshold i s).trans (issue_retire h _ (thresholdBody_pass (by simpa using hp) (by simpa using hd) (by simpa using hh))
    (poisonLeaves_same _ _ ((State.passThreshold_out ..).trans (State.closeBatches_out ..))))

theorem exec_threshold_wait (h : Executes thresholdSpec i s t)
    (hw : (s.ctx t.ctx).priv = true ∨ s.drained i.core i.slot t.ctx = false ∨ s.heldTask t.ctx i.core i.slot = true) :
    exec (.threshold i) s = .next ((s.turn i).taskWait i.core i.slot .threshold) :=
  (exec_threshold i s).trans (issue_wait h (thresholdBody_wait (by simpa using hw)))

theorem exec_barrier_wait {n : Nat} (h : Executes barrierSpec i s t) (hn : ((s.ctx t.ctx).units.findIdx? fun u =>
      u.handle == (t.reg (qRegA i)).toNat && u.casement && u.leaf ≤ t.leaf && t.leaf < u.leaf + u.leaves) = some n)
    (hclean : t.regPoison (qRegA i) = false) : exec (.barrier i) s = .next ((s.turn i).taskWait i.core i.slot (.barrier n)) := by
  refine (exec_barrier i s).trans (issue_wait h (barrierBody_wait ?_ (by simpa using hclean)))
  rw [cxOf_sa]
  exact hn

theorem exec_tickRd_eq (h : Executes tickRdSpec i s t) : exec (.tickRd i) s =
    .next (((s.turn i).putTask i (t.setReg (qRegD i) (BitVec.ofNat 64 s.tick) false)).retire i false) := by
  have hmod : BitVec.ofNat 64 (s.tick % 2 ^ 64) = BitVec.ofNat 64 s.tick := BitVec.eq_of_toNat_eq (by simp)
  have hb : tickRdBody (cxOf i 0x83 t) (s.turn i) = .ok (.retire ((cxOf i 0x83 t).putS (s.turn i) (qRegD i) (s.tick % 2 ^ 64) false)) := by
    rw [tickRdBody, cxOf_sd, State.turn_tick]
  rw [exec_tickRd, issue_putS h hb, hmod]
  rfl

theorem exec_thresholdRelease {c : CtxId} (hlock : s.flag Fld.timStatusPllLock = true) (hp : (s.ctx c).priv = true)
    (hruns : s.runs c = true) (hheld : s.holdsAt c ((s.ctx c).gen + 1) = false) : exec (.thresholdRelease c) s =
      .next (s.collect c s.liveDecl .threshold s.thresholdTick State.passThreshold) :=
  congrArg Host.Outcome.next ((if_pos hlock).trans (if_pos (by simp [hp, hruns, hheld])))

theorem exec_barrierRelease {c : CtxId} (node : Nat) (hlock : s.flag Fld.timStatusPllLock = true) (hruns : s.runs c = true) :
    exec (.barrierRelease c node) s = .next (s.collect c (fun d => s.under c node d && s.startedDecl d) (.barrier node)
      (s.barrierTick c node) (State.passBarrier node)) :=
  congrArg Host.Outcome.next ((if_pos hlock).trans (if_pos hruns))

theorem exec_launchTick (core : CoreId) (hlock : s.flag Fld.timStatusPllLock = true) :
    exec (.launchTick core) s = .next (s.launchTick core) := congrArg Host.Outcome.next (if_pos hlock)

end

/-- Settles O13: a collector names its tick once all have arrived, and at that tick completes the wait of each of the tasks in their own
slots; the due launches of a core stand before the slots that issue first. -/
theorem synchronisationAndReleases : Obligations.SynchronisationAndReleases := by
  unfold Obligations.SynchronisationAndReleases
  refine ⟨fun i s t h hp hd hh => exec_threshold_pass h hp hd hh, fun i s t h hw => exec_threshold_wait h hw,
    fun i s t n h hn hclean => ?barrier, fun i s t h hclean htick => exec_atLaunch_early h hclean htick,
    fun i s t h => exec_tickRd_eq h, fun c s g hlock hp hruns hheld hnone hg h0 harrived => ?named,
    fun c s r hlock hp hruns hheld hsome hdue hapart => ?released, ?barrierNamed,
    fun c node s r hlock hruns hsome hdue hapart => ?barrierReleased,
    fun core s k t v hlock hk ht hstate hruns hrequest hrun hheld hwait hv hlow => ?launched⟩
  case barrier =>
    have ht : (s.turn i).task? i.core i.slot = some t := h.task
    exact ⟨_, _, exec_barrier_wait h hn hclean, State.task?_taskWait _ ht, rfl, rfl, rfl, rfl, State.taskWait_mem _ ht⟩
  case named =>
    refine ⟨_, _, (exec_thresholdRelease hlock hp hruns hheld).trans (congrArg _ (State.collect_names hnone hg h0 harrived)), ?_,
      s.le_thresholdTick _, s.thresholdTick_le _, rfl, rfl⟩
    rw [State.ctx_setCtx]
  case released =>
    have hresumes := State.collect_resumes (p := s.liveDecl) (tickAt := s.thresholdTick) hsome hdue hapart
      State.passThreshold_tasks State.passThreshold_mem
    exact ⟨_, exec_thresholdRelease hlock hp hruns hheld, hresumes.1, fun d t hd hw => hresumes.2 d t hd (State.liveDecl_of_waitsAt hw) hw⟩
  case barrierNamed =>
    intro c node s g n hlock hruns hn hnone p hg h0 harrived
    obtain ⟨hnow, hlead⟩ := s.le_barrierTick hn (s.lastArrival c p (.barrier node) g)
    refine ⟨_, _, (exec_barrierRelease node hlock hruns).trans (congrArg _ (State.collect_names hnone hg h0 harrived)), ?_, hnow, hlead,
      rfl, rfl⟩
    rw [State.ctx_setCtx]
  case barrierReleased =>
    have hresumes := State.collect_resumes (p := fun d => s.under c node d && s.startedDecl d) (tickAt := s.barrierTick c node) hsome hdue
      hapart (fun u core slot => State.apply_passBarrier (p := (·.cores.tasks)) node u core slot fun _ _ _ => rfl)
      fun u core slot => State.apply_passBarrier node u core slot fun _ _ _ => rfl
    exact ⟨_, exec_barrierRelease node hlock hruns, hresumes.1, fun d t hd hunder hw =>
      hresumes.2 d t hd (by simp [hunder, State.startedDecl_of_waitsAt hw]) hw⟩
  case launched =>
    have hdue : s.launchDue core k = true := State.launchDue_iff.2 ⟨t, v, ht, hstate, hruns, hwait, hv⟩
    have hbelow : ∀ j, j < k → s.launchDue core j = false := fun j hj => Bool.eq_false_iff.2 fun h => by
      obtain ⟨w, x, hw, hwaiting, -, hx, hle⟩ := State.launchDue_iff.1 h
      exact absurd (hlow j w hj hw hwaiting x hx) (Nat.not_lt.2 hle)
    exact ⟨_, exec_launchTick core hlock, State.task?_launchTick ht hk hdue,
      State.chosen_launchTick ht hk hdue ⟨hrequest, hrun, hheld⟩ hbelow, State.launchTick_mem ..⟩

end Sys2Proof.Machine

/-! # Deadlocks, and what a context's fault discards (R97, R218 to R220, R465)

The engines that end with ABORTED write completion words, registers and events; none of that puts back a group, a batch or a running sum. -/

namespace Sys2Proof.Machine
open Sys2Proof

/-! ## The monitor (R218 to R220) -/

section
variable {s : State} {c : Nat}

theorem State.deadlock_trips (harmed : s.dlmArmed c = true) (hmark : (s.ctx c).dlmMark = s.dlmMark c)
    (hcount : s.dlmLimit c ≤ (s.ctx c).dlmCount) : s.deadlock c =
      ((s.put (Fld.synDlmStatTripped c) 1).raiseCtx srcCtx 0x0105 3 c
        (((s.tasksOf c).filter fun p => p.2.blocked).length +
          (least? (((s.tasksOf c).filter fun p => p.2.blocked).map fun p => p.2.leaf)).getD 0 * 2 ^ 32) (s.waitCounts c)).faultCtx c 4
        ((least? (((s.tasksOf c).filter fun p => p.2.blocked).map fun p => p.2.leaf)).getD 0) := by
  unfold State.deadlock
  exact if_neg (by simp [harmed, hmark, hcount])

theorem State.deadlock_unarmed (harmed : s.dlmArmed c = false) : s.deadlock c = s := by
  unfold State.deadlock
  exact if_pos (by simp [harmed])

theorem State.dlmCount_dlmTick (s : State) (c : Nat) : ((s.dlmTick c).ctx c).dlmCount =
    if !s.dlmArmed c then 0 else if (s.ctx c).dlmMark == s.dlmMark c then (s.ctx c).dlmCount + 1 else 1 := by
  rw [State.dlmTick, State.ctx_setCtx]

end

/-! ## What is in flight -/

/-- Groups on their way, batches of a port, and the collective sums that run. -/
def State.flying (s : State) := (s.cores.groups, s.vbl.batches, s.coll.insts)

section
variable (s : State) (c : Nat)

@[simp] theorem State.raiseCtx_flying (src code sev ctx w2 w3 : Nat) : (s.raiseCtx src code sev ctx w2 w3).flying = s.flying := by
  obtain ⟨r, l, h⟩ := s.raiseCtx_eq src code sev ctx w2 w3
  rw [h]
  rfl

@[simp] theorem State.put_flying (f : Fld) (n : Nat) : (s.put f n).flying = s.flying := rfl
@[simp] theorem State.setLvr_flying (l : Lvr) : (s.setLvr c l).flying = s.flying := rfl
@[simp] theorem State.setCtx_flying (x : Context) : (s.setCtx c x).flying = s.flying := rfl
@[simp] theorem State.dropReads_flying (q : EngineRead → Bool) : (s.dropReads c q).flying = s.flying := rfl

@[simp] theorem State.twrite_flying (a : Nat) (bs : List Byte) (pz : Nat → Bool) : (s.twrite c a bs pz).flying = s.flying := by
  rw [State.twrite_eq]
  rfl

@[simp] theorem State.migEnd_flying (status done poisoned : Nat) : (s.migEnd c status done poisoned).flying = s.flying := by
  have hmigs : ({ s with migs := SMap.del s.migs c } : State).flying = s.flying := rfl
  unfold State.migEnd
  simp [apply_ite State.flying, hmigs]

@[simp] theorem State.migAbort_flying : (s.migAbort c).flying = s.flying := by
  unfold State.migAbort
  split
  · exact State.migEnd_flying ..
  · rfl

@[simp] theorem State.lvrEnd_flying (ring status chunks poisoned : Nat) : (s.lvrEnd c ring status chunks poisoned).flying = s.flying := by
  unfold State.lvrEnd
  simp [apply_ite State.flying]

@[simp] theorem State.lvrAbort_flying : (s.lvrAbort c).flying = s.flying := by
  unfold State.lvrAbort
  dsimp only
  split <;> split <;> split <;> simp

@[simp] theorem State.raiseInc_flying : (s.raiseInc c).flying = s.flying := by
  have hbreaks : ∀ u : State, u.flying = s.flying →
      (if u.vbl.breaks.contains c then u else { u with vbl.breaks := u.vbl.breaks ++ [c] }).flying = s.flying := by
    intro u hu
    split <;> exact hu
  exact hbreaks _ rfl

@[simp] theorem State.enterFaulted_flying (cause ordinal : Nat) : (s.enterFaulted c cause ordinal).flying = s.flying := by
  rw [State.enterFaulted, State.raiseCtx_flying, State.setCtx_flying, State.raiseInc_flying, State.put_flying, State.put_flying]

theorem State.deferRise_flying (r : Rise) : (s.deferRise r).flying = s.flying := by
  rw [State.deferRise, State.put_flying]
  rfl
theorem State.deferRise_tasks (r : Rise) : (s.deferRise r).cores.tasks = s.cores.tasks := by
  rw [State.deferRise, State.put_tasks]

/-- Nothing of the context is in flight. -/
def State.grounded (s : State) (c : Nat) : Prop :=
  (∀ g, g ∈ s.cores.groups → g.ctx ≠ c) ∧ (∀ b, b ∈ s.vbl.batches → b.ctx ≠ c) ∧ ∀ i, i ∈ s.coll.insts → i.ctx ≠ c

theorem State.flying_eq_iff {s u : State} : u.flying = s.flying ↔
    u.cores.groups = s.cores.groups ∧ u.vbl.batches = s.vbl.batches ∧ u.coll.insts = s.coll.insts := by
  simp only [State.flying, Prod.mk.injEq]

theorem State.grounded_congr {s u : State} {c : Nat} (h : u.flying = s.flying) (hs : s.grounded c) : u.grounded c := by
  obtain ⟨hgroups, hbatches, hinsts⟩ := State.flying_eq_iff.1 h
  rw [State.grounded, hgroups, hbatches, hinsts]
  exact hs

/-- A filter of the elements that are not of the context leaves none of it. -/
theorem ne_of_mem_filter_bne {α : Type} {l : List α} {f : α → Nat} {c : Nat} {a : α} (h : a ∈ l.filter fun a => f a != c) : f a ≠ c := by
  simpa using (List.mem_filter.1 h).2

theorem State.grounded_dropRequests {s u : State} {c : Nat} (hu : u.flying = ((s.collEndCtx c).discardGroups c).flying) :
    (u.dropRequests c).grounded c := by
  obtain ⟨hgroups, -, hinsts⟩ := State.flying_eq_iff.1 hu
  refine ⟨fun g hg => ?_, fun b hb => ne_of_mem_filter_bne (f := Batch.ctx) hb, fun i hi => ?_⟩
  · have hg : g ∈ u.cores.groups := hg
    rw [hgroups] at hg
    exact ne_of_mem_filter_bne (f := Group.ctx) hg
  · have hi : i ∈ u.coll.insts := hi
    rw [hinsts] at hi
    exact ne_of_mem_filter_bne (f := Coll.ctx) hi

theorem State.grounded_contain (cause ordinal : Nat) : (s.contain c cause ordinal).grounded c :=
  State.grounded_dropRequests (by rw [State.lvrAbort_flying, State.migAbort_flying])

/-! ## A context's fault (R97, R147, R465) -/

theorem State.get_raiseCtx (src code sev ctx w2 w3 : Nat) (f : Fld) : (s.raiseCtx src code sev ctx w2 w3).get f = s.get f := by
  obtain ⟨r, l, h⟩ := s.raiseCtx_eq src code sev ctx w2 w3
  rw [h]
  rfl

theorem State.get_setCtx (x : Context) (f : Fld) : (s.setCtx c x).get f = s.get f := rfl

theorem State.get_raiseInc_ne {f : Fld} (h : f.addr ≠ Reg.vblInc c) : (s.raiseInc c).get f = s.get f := by
  unfold State.raiseInc
  dsimp only
  split <;> exact congrArg (field · f.lo f.w) (State.rd_wr_ne _ _ h)

theorem State.get_enterFaulted_state (c : CtxId) (cause ordinal : Nat) :
    (s.enterFaulted c cause ordinal).get (Fld.ctxStatusState c) = ctxFaulted := by
  have hne : (Fld.ctxStatusState c).addr ≠ Reg.vblInc c := by
    have hc := c.isLt
    simp only [Fld.ctxStatusState, Reg.ctxStatus, Reg.vblInc, Block.base, blockBase]
    omega
  rw [State.enterFaulted, State.get_raiseCtx, State.get_setCtx, State.get_raiseInc_ne _ _ hne,
    State.get_put_beside _ _ _ _ (by decide : 31 + 1 ≤ 32) (.inr (by decide : 16 + 3 ≤ 31)),
    State.get_put_same _ _ _ (by decide : 16 + 3 ≤ 32)]
  rfl

theorem State.faultWaits_deferRise (cause ordinal : Nat) : (s.deferRise (.fault c cause ordinal)).faultWaits c = true := by
  simp [State.faultWaits, State.deferRise, State.put, State.wr]

variable {s : State} {c : CtxId} {cause ordinal : Nat}

/-- A context that faults is contained; then its state changes, or its incarnation waits (R596). -/
theorem State.faultCtx_of (hidle : s.ctxState c ≠ ctxIdle) (hfaulted : s.ctxState c ≠ ctxFaulted) (hwaits : s.faultWaits c = false) :
    s.faultCtx c cause ordinal = if (s.contain c cause ordinal).riseHeld c
      then (s.contain c cause ordinal).deferRise (.fault c cause ordinal) else (s.contain c cause ordinal).enterFaulted c cause ordinal := by
  unfold State.faultCtx
  exact if_neg (by simp [hidle, hfaulted, hwaits])

theorem State.task_contain {k : Nat} {t : Task} (c : Nat) (ht : SMap.get? s.cores.tasks k = some t) :
    SMap.get? (s.contain c cause ordinal).cores.tasks k = some (if t.ctx = c ∧ t.stopCause = 0 then { t with stopCause := 4 } else t) := by
  rw [State.contain_tasks, State.markFaulted, State.markStopped_tasks, SMap.get?_map, ht, Option.map_some, Task.stopIn]
  simp only [Bool.and_eq_true, beq_iff_eq]

end

/-- Settles O14: containment discards what is in flight and marks the tasks; what follows it changes the state or lets the rise wait. -/
theorem deadlocksAndContextFaults : Obligations.DeadlocksAndContextFaults := by
  unfold Obligations.DeadlocksAndContextFaults
  refine ⟨fun c s harmed hmark hcount => ?trips, fun c s harmed => ?unarmed, fun s c harmed hmark => ?counts,
    fun s c harmed hmark => ?restarts, fun s c harmed => ?stands, fun s c cause ordinal hidle hfaulted hwaits => ?faults⟩
  case trips => exact congrArg (fun u => Host.Outcome.next (s.clocked u)) (State.deadlock_trips harmed hmark hcount)
  case unarmed =>
    refine (congrArg (fun u => Host.Outcome.next (s.clocked u)) (State.deadlock_unarmed harmed)).trans (congrArg _ ?_)
    exact s.clocked_self
  case counts => simp [State.dlmCount_dlmTick, harmed, hmark]
  case restarts => simp [State.dlmCount_dlmTick, harmed, hmark]
  case stands => simp [State.dlmCount_dlmTick, harmed]
  case faults =>
    have hground := State.grounded_contain s c cause ordinal
    have htask := fun k t => State.task_contain (s := s) (cause := cause) (ordinal := ordinal) (k := k) (t := t) c.val
    dsimp only
    rw [State.faultCtx_of hidle hfaulted hwaits]
    split
    · obtain ⟨hgroups, hbatches, hinsts⟩ := State.grounded_congr (State.deferRise_flying _ _) hground
      refine ⟨.inr (State.faultWaits_deferRise ..), hgroups, hbatches, hinsts, fun k t ht => ?_⟩
      rw [State.deferRise_tasks]
      exact htask k t ht
    · obtain ⟨hgroups, hbatches, hinsts⟩ := State.grounded_congr (State.enterFaulted_flying _ c cause ordinal) hground
      refine ⟨.inl (State.get_enterFaulted_state ..), hgroups, hbatches, hinsts, fun k t ht => ?_⟩
      rw [State.enterFaulted_tasks]
      exact htask k t ht

end Sys2Proof.Machine

/-! # Task-control requests (R211, R212, R223) -/

namespace Sys2Proof.Machine
open Sys2Proof

/-! ## TASK.CTL (R211, R212) -/

section
variable {x : Cx} {s : State} {f n : Nat} {u : UnitNode}

/-- What SAVE and RESTORE need beside the unit: one task, a core-unit, and a record's bytes in mapped memory (R212). -/
structure RecordOk (x : Cx) (s : State) (u : UnitNode) : Prop where
  one : popCount 16 x.imm24 = 1
  leaf : u.casement = false
  mapped : s.mapped x.c (x.s x.sb) recordBytes = true
  clean : x.t.regPoison x.sb = false

/-- Every check of TASK.CTL passes: the operation is queued for its release lead. -/
theorem taskCtlBody_ok (hmask : x.imm24 ≠ 0) (hn : ((s.ctx x.c).units.findIdx? fun u => u.handle == x.s x.sa) = some n)
    (hu : (s.ctx x.c).units[n]? = some u) (hclean : x.t.regPoison x.sa = false)
    (hself : 2 ≤ f → (bitAt x.imm24 x.t.num && u.leaf ≤ x.t.leaf && x.t.leaf < u.leaf + u.leaves) = false)
    (hf : f < 5) (hrecord : 3 ≤ f → RecordOk x s u) :
    taskCtlBody f x s = .ok (.retire { s with taskOps := s.taskOps ++ [⟨x.c, some x.t.leaf, f, n, x.imm24, x.s x.sb, s.tick + u.lead⟩] }) := by
  have hany : (x.imm24 != 0) = true := bne_iff_ne.2 hmask
  have hother : (!((bitAt x.imm24 x.t.num && u.leaf ≤ x.t.leaf && x.t.leaf < u.leaf + u.leaves) && 2 ≤ f)) = true := by
    by_cases h : 2 ≤ f
    · rw [hself h]
      rfl
    · simp [h]
  by_cases h : 3 ≤ f
  · obtain ⟨hone, hleaf, hmap, hb⟩ := hrecord h
    have hisRecord : (f == 3 || f == 4) = true := by
      simp only [Bool.or_eq_true, beq_iff_eq]
      omega
    simp [taskCtlBody, hisRecord, hany, hone, hmap, hn, hu, hother, hleaf, Cx.clean_ok _ hclean, Cx.clean_ok _ hb, need_true, chk_bind_ok]
  · have hnoRecord : (f == 3 || f == 4) = false := by
      simp only [Bool.or_eq_false_iff, beq_eq_false_iff_ne]
      omega
    simp [taskCtlBody, hnoRecord, hany, hn, hu, hother, Cx.clean_ok _ hclean, need_true, chk_bind_ok]

end

theorem taskCtl_of_form {f : Nat} {i : Issue} (h : qFuncOf i = f) (s : State) : taskCtl f i s = issue taskCtlSpec (taskCtlBody f) i s := by
  have hform : taskCtlForm f i = true := by simpa [taskCtlForm, qFuncOf, wordField] using .inl h
  rw [taskCtl, hform]
  rfl

theorem queuesOp_of {op : Issue → Instr} {f : Nat} (hop : ∀ i s, exec (op i) s = taskCtl f i s) (hf : f < 5) : queuesOp op f := by
  intro i s t n u h hfunc hmask hunit hclean hself hrecord
  have hrecord' : 3 ≤ f → RecordOk (cxOf i 0x85 t) (s.turn i) u := fun h3 => by
    obtain ⟨hone, hleaf, hmap, hb⟩ := hrecord h3
    exact ⟨by rw [cxOf_imm24]; exact hone, hleaf, by simpa [State.mapped_turn] using hmap, by simpa using hb⟩
  have hbody := taskCtlBody_ok (x := cxOf i 0x85 t) (s := s.turn i) (by rw [cxOf_imm24]; exact hmask) (by rw [cxOf_sa]; exact hunit.1) hunit.2
    (by simpa using hclean) (by rw [cxOf_imm24]; exact hself) hf hrecord'
  rw [hop, taskCtl_of_form hfunc]
  refine (issue_retire h _ hbody (poisonLeaves_same _ _ rfl)).trans ?_
  simp only [cxOf_imm24, cxOf_sb]
  rfl

theorem illFormed_of {op : Issue → Instr} {f : Nat} (hop : ∀ i, (op i).taskCtl = some (f, i)) (i : Issue) (s : State)
    (h : WellFormed (op i) = false) : exec (op i) s = .fault .illFormed := by
  rw [wellFormed_of_taskCtl (hop i)] at h
  rw [exec_eq_taskCtl s (hop i), taskCtl_illFormed s h]

/-! ## SYN_TSK_CMD (R223) -/

section
variable {cmd : Requester → CtxId → BitVec 16 → Instr} {f : Nat}

theorem State.synCmd_ok {s : State} {c mask n : Nat} {u : UnitNode} (hf : f < 5) (hfree : s.flag (Fld.synTskStatusBusy c) = false)
    (hbar : s.ctlBarred c f = false) (hmask : mask ≠ 0)
    (hn : ((s.ctx c).units.findIdx? fun v => v.handle == s.get (Fld.synTskHandleHandle c)) = some n) (hu : (s.ctx c).units[n]? = some u)
    (hrecord : 3 ≤ f → popCount 16 mask = 1 ∧ u.casement = false) : s.synCmd c f mask = { s.put (Fld.synTskStatusBusy c) 1 with
      taskOps := s.taskOps ++ [⟨c, none, f, n, mask, s.get64 (Reg.synTskAddr c) % 2 ^ 44, s.tick + u.lead⟩] } := by
  have hcheck : s.synCheck c f mask = .ok n := by
    by_cases h : 3 ≤ f
    · obtain ⟨hone, hleaf⟩ := hrecord h
      simp [State.synCheck, Nat.not_le.2 hf, hbar, hmask, hn, hu, hone, hleaf]
    · simp [State.synCheck, Nat.not_le.2 hf, hbar, hmask, hn, h]
  rw [State.synCmd, hfree, hcheck]
  dsimp only
  rw [hu]
  rfl

theorem hostQueues_of (hcmd : ∀ req c mask s, exec (cmd req c mask) s = .next (s.synWrite req c f mask.toNat)) (hf : f < 5) :
    hostQueues cmd f := by
  intro req c mask s n u hacc hfree hbar hmask hn hu hrecord
  have hmask' : mask.toNat ≠ 0 := fun h => hmask (BitVec.eq_of_toNat_eq h)
  rw [hcmd, State.synWrite, State.write_of_accepts hacc, State.synCmd_ok hf hfree hbar hmask' hn hu hrecord]
  rfl

theorem hostRefuses_of (hcmd : ∀ req c mask s, exec (cmd req c mask) s = .next (s.synWrite req c f mask.toNat)) (hf : f < 5) :
    hostRefuses cmd f := by
  refine ⟨fun req c mask s hacc hbusy => ?_, fun req c mask s hacc hfree hidle => ?_⟩
  · rw [hcmd, State.synWrite, State.write_of_accepts hacc, State.synCmd, hbusy]
    rfl
  · have hcheck : s.synCheck c f mask.toNat = .error resBadState := by
      simp [State.synCheck, Nat.not_le.2 hf, State.ctlBarred, hidle]
    rw [hcmd, State.synWrite, State.write_of_accepts hacc, State.synCmd, hfree, hcheck]
    rfl

end

/-- Settles O16: the five functions share one body and one command, and a function's word is what sets them apart. -/
theorem taskControlRequests : Obligations.TaskControlRequests := by
  unfold Obligations.TaskControlRequests
  have hexec : ∀ {cmd : Requester → CtxId → BitVec 16 → Instr} {f : Nat},
      (∀ req c mask s, exec (cmd req c mask) s = .next (s.synWrite req c f mask.toNat)) → f < 5 → hostQueues cmd f ∧ hostRefuses cmd f :=
    fun hcmd hf => ⟨hostQueues_of hcmd hf, hostRefuses_of hcmd hf⟩
  have hstart := hexec (cmd := .synTskStart) (f := 0) (fun _ _ _ _ => rfl) (by decide)
  have hstop := hexec (cmd := .synTskStop) (f := 1) (fun _ _ _ _ => rfl) (by decide)
  have hpreempt := hexec (cmd := .synTskPreempt) (f := 2) (fun _ _ _ _ => rfl) (by decide)
  have hsave := hexec (cmd := .synTskSave) (f := 3) (fun _ _ _ _ => rfl) (by decide)
  have hrestore := hexec (cmd := .synTskRestore) (f := 4) (fun _ _ _ _ => rfl) (by decide)
  exact ⟨queuesOp_of (fun _ _ => rfl) (by decide), queuesOp_of (fun _ _ => rfl) (by decide), queuesOp_of (fun _ _ => rfl) (by decide),
    queuesOp_of (fun _ _ => rfl) (by decide), queuesOp_of (fun _ _ => rfl) (by decide),
    illFormed_of (fun _ => rfl), illFormed_of (fun _ => rfl), illFormed_of (fun _ => rfl), illFormed_of (fun _ => rfl),
    illFormed_of (fun _ => rfl),
    hstart.1, hstop.1, hpreempt.1, hsave.1, hrestore.1, hstart.2, hstop.2, hpreempt.2, hsave.2, hrestore.2⟩

end Sys2Proof.Machine

/-! # Task control takes effect (R145, R146, R149, R211, R212)

An operation that is alone applies to the one task it selects. What follows the task's own change (the count of generations, the host's
status) touches neither tasks nor memory, so each clause comes from the change of that task. -/

namespace Sys2Proof.Machine
open Sys2Proof

/-! ## The keys of T0 and T1 hang on the contexts alone (R240) -/

theorem upperTier_iff {a : Nat} : upperTier a = true ↔ a < 0x3000000000 := by
  unfold upperTier region
  split_ifs <;> simp <;> omega

theorem State.key_upper {s u : State} (hctxs : u.ctxs = s.ctxs) (c : Nat) {a : Nat} (h : upperTier a = true) : u.key c a = s.key c a := by
  have hctx : u.ctx c = s.ctx c := by rw [State.ctx, State.ctx, hctxs]
  unfold upperTier at h
  unfold State.key
  cases hr : region a <;> simp_all

theorem lt_of_mem_pieces {a n : Nat} {p : Nat × Nat} (h : p ∈ pieces a n) : p.1 < a + n := by
  unfold pieces at h
  split at h
  · cases h
  · obtain ⟨i, hi, rfl⟩ := List.mem_map.1 h
    have hi := List.mem_range.1 hi
    dsimp only
    split <;> omega

/-- A write to T0 and T1 leaves the same memory in two states whose contexts and memories are alike. -/
theorem State.twrite_mem_congr {s u : State} (hctxs : u.ctxs = s.ctxs) (hmem : u.mem = s.mem) (c : Nat) {a : Nat} {bs : List Byte}
    (pz : Nat → Bool) (hup : ∀ k, k < a + bs.length → upperTier k = true) : (u.twrite c a bs pz).mem = (s.twrite c a bs pz).mem := by
  rw [State.twrite_eq, State.twrite_eq]
  dsimp only
  rw [hmem]
  refine List.foldl_ext _ _ _ fun m p hp => ?_
  rw [State.storePiece, State.storePiece, State.key_upper hctxs c (hup p.1 (lt_of_mem_pieces hp))]

theorem length_flatMap_leBytes (n k : Nat) (f : Nat → Nat) : ((List.range n).flatMap fun i => leBytes k (f i)).length = n * k := by
  simp [List.length_flatMap]

theorem length_recHead (t : Task) (slot prio tick crc : Nat) : (t.recHead slot prio tick crc).length = 64 := by
  unfold Task.recHead
  simp only [List.length_append, length_leBytes]

theorem length_recRegs (t : Task) : t.recRegs.length = recordBytes - 64 := by
  unfold Task.recRegs
  simp only [List.length_append, length_leBytes, length_flatMap_leBytes]
  rfl

theorem length_record (t : Task) (slot prio tick : Nat) : (t.record slot prio tick).length = recordBytes := by
  unfold Task.record
  rw [List.length_append, length_recHead, length_recRegs]
  rfl

theorem upper_of_recordPlace {s : State} {c a : Nat} (h : s.recordPlace c a = true) {k : Nat} (hk : k < a + recordBytes) :
    upperTier k = true := by
  simp only [State.recordPlace, Bool.and_eq_true] at h
  obtain ⟨⟨-, hlast⟩, -⟩ := h
  have hlast := upperTier_iff.1 hlast
  exact upperTier_iff.2 (by omega)

/-! ## A task that is stopped (R98, R211) -/

section
variable {s : State} {core slot : Nat} {t : Task} (codes : Nat)

theorem Task.stop_state (h : t.state = .ready ∨ t.state = .waiting ∨ t.state = .stopped) : t.stop.state = .stopped := by
  unfold Task.stop
  split
  · rfl
  next hn => rcases h with h | h | h <;> simp_all

/-- A stop changes its task, batches, registers and staging queues. -/
theorem State.stopTask_of (ht : s.task? core slot = some t) : (t.stop = t ∧ s.stopTask core slot codes = s) ∨
    s.stopTask core slot codes = ((s.closeBatches core slot).endWait core slot codes).setTask core slot t.stop := by
  unfold State.stopTask
  rw [ht]
  dsimp only
  by_cases h : t.state = .ready ∨ t.state = .waiting
  · rw [if_pos (by simpa using h)]
    have hwaited : ((s.closeBatches core slot).endWait core slot codes).task? core slot = some t := (State.endWait_task? ..).trans ht
    refine .inr ((State.modTask_of _ hwaited _).trans ?_)
    simp [Task.stop, h]
  · rw [if_neg (by simpa using h)]
    exact .inl ⟨if_neg h, rfl⟩

theorem State.apply_stopTask {α : Type} {p : State → α} (ht : s.task? core slot = some t) (h : BlindToRegs p)
    (hstage : ∀ u a b, p (State.leaveStage u a b) = p u) (hclose : ∀ u a b, p (State.closeBatches u a b) = p u)
    (htask : ∀ u a b t, p (State.setTask u a b t) = p u) : p (s.stopTask core slot codes) = p s := by
  rcases State.stopTask_of codes ht with ⟨-, e⟩ | e
  · rw [e]
  · rw [e, htask, State.apply_endWait _ _ _ _ h hstage, hclose]

theorem State.stopTask_mem (ht : s.task? core slot = some t) : (s.stopTask core slot codes).mem = s.mem :=
  State.apply_stopTask codes ht (fun _ _ _ => rfl) (fun _ _ _ => rfl) (fun _ _ _ => rfl) fun _ _ _ _ => rfl

theorem State.stopTask_ctxs (ht : s.task? core slot = some t) : (s.stopTask core slot codes).ctxs = s.ctxs :=
  State.apply_stopTask codes ht (fun _ _ _ => rfl) (fun _ _ _ => rfl) (fun _ _ _ => rfl) fun _ _ _ _ => rfl

theorem State.stopTask_taskOps (ht : s.task? core slot = some t) : (s.stopTask core slot codes).taskOps = s.taskOps :=
  State.apply_stopTask codes ht (fun _ _ _ => rfl) (fun _ _ _ => rfl) (fun _ _ _ => rfl) fun _ _ _ _ => rfl

theorem State.stopTask_tick (ht : s.task? core slot = some t) : (s.stopTask core slot codes).tick = s.tick :=
  State.apply_stopTask codes ht (fun _ _ _ => rfl) (fun _ _ _ => rfl) (fun _ _ _ => rfl) fun _ _ _ _ => rfl

theorem State.task?_stopTask (ht : s.task? core slot = some t) : (s.stopTask core slot codes).task? core slot = some t.stop := by
  rcases State.stopTask_of codes ht with ⟨hsame, e⟩ | e
  · rw [e, ht, hsame]
  · rw [e, State.task?_setTask]

/-- Registers of the cores lie below those that count a stall. -/
theorem State.rd_countStall_low (s : State) (c ticks : Nat) {a : Nat} (ha : a < blockBase 96 0) : (s.countStall c codes ticks).rd a = s.rd a := by
  have hticks : a < Reg.migStallTicks c := lt_of_lt_of_le ha (by simp only [Reg.migStallTicks, Block.base, blockBase]; omega)
  have hstall : a < stallReg c (Nat.log2 codes + 1) :=
    lt_of_lt_of_le ha (by simp only [stallReg, Reg.migStall1, Block.base, blockBase]; omega)
  have hcause : a < Reg.migCause c := lt_of_lt_of_le ha (by simp only [Reg.migCause, Block.base, blockBase]; omega)
  have hfirst : (s.wrap64 (Reg.migStallTicks c) ticks).rd a = s.rd a := State.rd_put64_ne _ _ (by omega) (by omega)
  by_cases hc : codes = 0
  · subst hc
    exact hfirst
  · obtain ⟨seen, e⟩ := s.countStall_of_cause c ticks hc
    rw [e, State.rd_put_ne _ (Fld.migCauseSeen c) _ (Nat.ne_of_lt hcause), State.rd_put_ne _ (Fld.migCauseLast c) _ (Nat.ne_of_lt hcause),
      State.wrap64, State.rd_put64_ne _ _ (by omega) (by omega), hfirst]

theorem State.rd_endWait_low (s : State) (core slot : Nat) {a : Nat} (ha : a < blockBase 96 0) : (s.endWait core slot codes).rd a = s.rd a := by
  unfold State.endWait
  split
  · rfl
  next t _ =>
    split
    · rfl
    next w _ =>
      have hcol : a < Reg.colWaitTicks t.ctx := lt_of_lt_of_le ha (by simp only [Reg.colWaitTicks, Block.base, blockBase]; omega)
      have hcount : (if s.isStall core w then s.countStall t.ctx (t.causes ||| s.extraCauses codes) (s.tick - t.waitStart) else s).rd a =
          s.rd a := by
        split
        · exact s.rd_countStall_low _ _ _ ha
        · rfl
      have hcoll : ∀ (u : State) n, (if w == .coll then u.wrap64 (Reg.colWaitTicks t.ctx) n else u).rd a = u.rd a := by
        intro u n
        split
        · exact State.rd_put64_ne _ _ (by omega) (by omega)
        · rfl
      exact (hcoll _ _).trans hcount

theorem State.prio_stopTask {d : TaskDecl} (ht : s.task? d.core slot = some t) (hcore : d.core < 256) :
    (s.stopTask d.core slot codes).prio d.core slot = s.prio d.core slot := by
  have hlow : Reg.corePrio d.core < blockBase 96 0 :=
    lt_trans (Block.base_core_lt ⟨d.core, hcore⟩ (off := 4) (by decide)) (by decide)
  rcases State.stopTask_of codes ht with ⟨-, e⟩ | e
  · rw [e]
  · rw [e, State.prio, State.prio]
    exact congrArg (field · (2 * slot) 2) (State.rd_endWait_low codes (s.closeBatches d.core slot) d.core slot hlow)

/-! ## A record is written (R146, R148) -/

/-- The record that a stopped task's slot gives is the one that its state before the stop gives. -/
theorem State.writeRecord_stopTask {c a : Nat} {d : TaskDecl} (ht : s.task? d.core d.slot = some t) (hcore : d.core < 256)
    (hplace : s.recordPlace c a = true) : ((s.stopTask d.core d.slot codes).writeRecord c a d.core d.slot t.stop).mem =
      (s.twrite c a (t.stop.record d.slot (s.prio d.core d.slot) s.tick) fun _ => false).mem := by
  rw [State.writeRecord, State.prio_stopTask codes ht hcore, State.stopTask_tick codes ht]
  refine State.twrite_mem_congr (State.stopTask_ctxs codes ht) (State.stopTask_mem codes ht) c _ fun k hk => ?_
  rw [length_record] at hk
  exact upper_of_recordPlace hplace hk

end

/-! ## One task's operation (R211) -/

section
variable {s : State} {c i codes a : Nat} {d : TaskDecl} {t : Task}

theorem State.modDecl_tasks (s : State) (c i : Nat) (f : TaskDecl → TaskDecl) : (s.modDecl c i f).cores.tasks = s.cores.tasks := rfl

theorem State.ctx_modDecl_tasks (s : State) (c i : Nat) (f : TaskDecl → TaskDecl) :
    ((s.modDecl c i f).ctx c).tasks = (s.ctx c).tasks.modify i f := by
  rw [State.modDecl, State.ctx_setCtx]

theorem State.ctlStart_notStarted (hphase : d.phase = .notStarted) (hdrain : s.ctxState c ≠ ctxDraining)
    (ht : s.task? d.core d.slot = none) : s.ctlStart c i d = (s.beginTask c i d, resOk) := by
  unfold State.ctlStart
  rw [hphase]
  exact if_neg (by simp [hdrain, ht])

theorem State.writeRecord_ctxs (s : State) (c a core slot : Nat) (t : Task) : (s.writeRecord c a core slot t).ctxs = s.ctxs := by
  rw [State.writeRecord, State.twrite_eq]

theorem State.writeRecord_taskOps (s : State) (c a core slot : Nat) (t : Task) :
    (s.writeRecord c a core slot t).taskOps = s.taskOps := by
  rw [State.writeRecord, State.twrite_eq]

theorem State.task?_writeRecord (s : State) (c a core slot : Nat) (t : Task) (k l : Nat) :
    (s.writeRecord c a core slot t).task? k l = s.task? k l := by
  rw [State.task?, State.writeRecord, State.twrite_tasks, State.task?]

/-- A record of the stopped task is written: its task stays in its slot. -/
structure SavedAs (s : State) (c a : Nat) (d : TaskDecl) (t : Task) (u : State) : Prop where
  mem : u.mem = (s.twrite c a (t.stop.record d.slot (s.prio d.core d.slot) s.tick) fun _ => false).mem
  task : u.task? d.core d.slot = some t.stop
  ctxs : u.ctxs = s.ctxs
  ops : u.taskOps = s.taskOps

theorem State.savedAs_writeRecord (ht : s.task? d.core d.slot = some t) (hcore : d.core < 256) (hplace : s.recordPlace c a = true) :
    SavedAs s c a d t ((s.stopTask d.core d.slot codes).writeRecord c a d.core d.slot t.stop) where
  mem := State.writeRecord_stopTask codes ht hcore hplace
  task := (State.task?_writeRecord ..).trans (State.task?_stopTask codes ht)
  ctxs := (State.writeRecord_ctxs ..).trans (State.stopTask_ctxs codes ht)
  ops := (State.writeRecord_taskOps ..).trans (State.stopTask_taskOps codes ht)

theorem State.ctlPreempt_live (hphase : d.phase = .live) (ht : s.task? d.core d.slot = some t)
    (hstate : t.state = .ready ∨ t.state = .waiting ∨ t.state = .stopped) (hcore : d.core < 256)
    (hplace : s.recordPlace c d.saveArea = true) : ∃ u, SavedAs s c d.saveArea d t u ∧
      s.ctlPreempt c i d codes = ((u.dropTask d.core d.slot).modDecl c i fun d => { d with phase := .parked }, resOk) :=
  ⟨_, State.savedAs_writeRecord (codes := codes) ht hcore hplace, by
    simp [State.ctlPreempt, hphase, State.task?_stopTask codes ht, Task.stop_state hstate]⟩

theorem State.task?_dropTask (s : State) (core slot : Nat) : (s.dropTask core slot).task? core slot = none :=
  (SMap.get?_del ..).trans (if_pos rfl)

theorem State.ctx_dropTask (s : State) (core slot k : Nat) : (s.dropTask core slot).ctx k = s.ctx k := rfl

theorem State.ctlSave_live (hphase : d.phase = .live) (ht : s.task? d.core d.slot = some t) (hplace : s.recordPlace c a = true)
    (hcode : s.inCode c a recordBytes = false) (hcore : d.core < 256) :
    ∃ u, SavedAs s c a d t u ∧ s.ctlSave c d a codes = (u, resOk) :=
  ⟨_, State.savedAs_writeRecord (codes := codes) ht hcore hplace, by
    simp [State.ctlSave, hphase, hplace, hcode, State.task?_stopTask codes ht]⟩

/-- Endpoints and buffers that follow their task leave what `p` tells, which hangs on neither. -/
theorem State.apply_retag {α : Type} {p : State → α} (s : State) (c core old new : Nat) (h : BlindToRegs p)
    (hbuf : ∀ (u : State) b, p { u with cores.buffers := b } = p u) : p (s.retag c core old new) = p s := by
  unfold State.retag
  split
  · rfl
  · exact List.foldlRecOn (motive := fun u : State => p u = p s) _ _ (hbuf ..) fun u hu k _ => (h.put ..).trans hu

/-- The task that a restore begins with: a START lets it go on. -/
def Task.restored (t : Task) (start : Bool) : Task := if start && t.state == .stopped then { t with state := .ready } else t

/-- A restore changes its task, its declaration's phase, registers and buffers. -/
theorem State.restoreTask_of (h : restores s c d a t) (start : Bool) : ∃ u : State,
    s.restoreTask c i d a start = (u.modDecl c i fun d => { d with phase := .live }, resOk) ∧
      u.cores.tasks = SMap.put s.cores.tasks (taskKey d.core d.slot) (t.restored start) ∧ u.mem = s.mem ∧ u.ctxs = s.ctxs ∧
      u.taskOps = s.taskOps := by
  obtain ⟨hplace, hfree, hpoison, hrecord, htask⟩ := h
  have keeps : ∀ {α : Type} {p : State → α} (hp : BlindToRegs p) (hbuf : ∀ (u : State) b, p { u with cores.buffers := b } = p u)
      (u : State) (q : Bool) (old v : Nat), p (if q then (u.wr (Reg.corePrio d.core) v).retag c d.core old d.slot
        else u.wr (Reg.corePrio d.core) v) = p u := by
    intro α p hp hbuf u q old v
    split
    · exact (State.apply_retag _ _ _ _ _ hp hbuf).trans (hp ..)
    · exact hp ..
  unfold State.restoreTask
  simp only [hplace, hfree, hpoison, hrecord, htask, Option.isSome_none, Bool.not_true, Bool.or_false, Bool.false_eq_true, if_false]
  exact ⟨_, rfl, keeps (p := (·.cores.tasks)) (fun _ _ _ => rfl) (fun _ _ => rfl) .., keeps (p := State.mem) (fun _ _ _ => rfl) (fun _ _ => rfl) ..,
    keeps (p := State.ctxs) (fun _ _ _ => rfl) (fun _ _ => rfl) .., keeps (p := State.taskOps) (fun _ _ _ => rfl) (fun _ _ => rfl) ..⟩

end

section
variable {s : State} {o : TaskOp} {j codes : Nat} {d : TaskDecl}

theorem State.ctlOne_start (hd : (s.ctx o.ctx).tasks[j]? = some d) (hf : o.func = 0) : s.ctlOne o j codes = s.ctlStart o.ctx j d := by
  rw [State.ctlOne, hd]
  dsimp only
  rw [hf]
  rfl

theorem State.ctlOne_stop (hd : (s.ctx o.ctx).tasks[j]? = some d) (hf : o.func = 1) (hphase : d.phase = .live) :
    s.ctlOne o j codes = (s.stopTask d.core d.slot codes, resOk) := by
  rw [State.ctlOne, hd]
  dsimp only
  rw [hf, hphase]
  rfl

theorem State.ctlOne_preempt (hd : (s.ctx o.ctx).tasks[j]? = some d) (hf : o.func = 2) :
    s.ctlOne o j codes = s.ctlPreempt o.ctx j d codes := by
  rw [State.ctlOne, hd]
  dsimp only
  rw [hf]
  rfl

theorem State.ctlOne_save (hd : (s.ctx o.ctx).tasks[j]? = some d) (hf : o.func = 3) :
    s.ctlOne o j codes = s.ctlSave o.ctx d o.addr codes := by
  rw [State.ctlOne, hd]
  dsimp only
  rw [hf]
  rfl

theorem State.ctlOne_restore (hd : (s.ctx o.ctx).tasks[j]? = some d) (hf : o.func = 4) :
    s.ctlOne o j codes = s.restoreTask o.ctx j d o.addr false := by
  rw [State.ctlOne, hd]
  dsimp only
  rw [hf]
  rfl

end

/-! ## An operation that is alone (R212, R214) -/

/-- The operations are taken from the queue. -/
def State.withoutOps (s : State) : State := { s with taskOps := [] }

theorem State.recordPlace_withoutOps (s : State) (c a : Nat) : s.withoutOps.recordPlace c a = s.recordPlace c a := by
  rw [State.recordPlace, State.recordPlace, State.mapped_congr (s := s) (u := s.withoutOps) rfl rfl rfl]

theorem State.tread_withoutOps (s : State) (core c a n : Nat) : s.withoutOps.tread core c a n = s.tread core c a n := rfl
theorem State.tpoison_withoutOps (s : State) (core c a n : Nat) : s.withoutOps.tpoison core c a n = s.tpoison core c a n := rfl

theorem SavedAs.mem_withoutOps {s u : State} {c a : Nat} {d : TaskDecl} {t : Task} (h : SavedAs s.withoutOps c a d t u) :
    u.mem = (s.twrite c a (t.stop.record d.slot (s.prio d.core d.slot) s.tick) fun _ => false).mem := by
  have hprio : s.withoutOps.prio d.core d.slot = s.prio d.core d.slot := rfl
  have htick : s.withoutOps.tick = s.tick := rfl
  rw [h.mem, hprio, htick]
  generalize t.stop.record d.slot (s.prio d.core d.slot) s.tick = bs
  rw [State.twrite_eq, State.twrite_eq]
  rfl

theorem restores_withoutOps {s : State} {c a : Nat} {d : TaskDecl} {t : Task} (h : restores s c d a t) : restores s.withoutOps c d a t := by
  unfold restores
  rw [State.recordPlace_withoutOps, State.tread_withoutOps, State.tpoison_withoutOps]
  exact h

/-- The next operation takes effect. -/
def State.effect (s : State) (codes : Nat) : State :=
  match s.nextOp with
  | none => s
  | some j =>
    match s.taskOps[j]? with
    | none => s
    | some o => ({ s with taskOps := s.taskOps.eraseIdx j }).ctlApply o codes

theorem exec_taskCtlEffect (codes : BitVec 6) (s : State) : exec (.taskCtlEffect codes) s = .next (s.clocked (s.effect codes.toNat)) := rfl

theorem State.effect_none {s : State} (h : s.nextOp = none) (codes : Nat) : s.effect codes = s := by rw [State.effect, h]

theorem TaskOp.before_self (o : TaskOp) : o.before o = false := by
  cases h : o.issuer <;> simp [TaskOp.before, h]

theorem State.nextOp_none {s : State} (h : ∀ o ∈ s.taskOps, s.tick < o.due) : s.nextOp = none := by
  refine List.foldlRecOn (motive := fun best : Option Nat => best = none) _ _ rfl fun best hbest p hp => ?_
  have hlate : s.opReady p.1 = false := by simp [State.opReady, Nat.not_le.2 (h p.1 (List.fst_mem_of_mem_zipIdx hp))]
  simp [hlate, hbest]

/-- What a finished operation leaves: the count of generations, and the host's status. -/
theorem State.apply_ctlResult {α : Type} {p : State → α} (s : State) (o : TaskOp) (r : Nat) (h : BlindToRegs p) :
    p (s.ctlResult o r) = p s := by
  unfold State.ctlResult
  split
  · rfl
  · exact (h.put ..).trans (h.put ..)

theorem State.apply_finish {α : Type} {p : State → α} (s : State) (o : TaskOp) (h : BlindToRegs p)
    (hctx : ∀ u k x, p (State.setCtx u k x) = p u) (hpool : ∀ u core k q, p (State.setPool u core k q) = p u) :
    p ((s.thrUpdate o.ctx).ctlResult o resOk) = p s :=
  (State.apply_ctlResult _ o resOk h).trans (s.apply_thrUpdate o.ctx h hctx hpool)

theorem State.ctx_thrUpdate_tasks (s : State) (c : Nat) : ((s.thrUpdate c).ctx c).tasks = (s.ctx c).tasks := by
  unfold State.thrUpdate
  refine List.foldlRecOn (motive := fun u : State => (u.ctx c).tasks = (s.ctx c).tasks) _ _ ?_ fun u hu core _ => hu
  refine (BlindToRegs.ite_put (p := fun u : State => (u.ctx c).tasks) (fun _ _ _ => rfl) ..).trans ?_
  rw [State.ctx_setCtx]

section
variable {s : State} {o : TaskOp} {j : Nat} {d : TaskDecl} {u : State}

theorem SoleOp.nextOp (h : SoleOp s o j d) : s.nextOp = some 0 := by
  have hready : s.opReady o = true := by simp [State.opReady, h.due, h.retired, h.ops, TaskOp.before_self]
  simp [State.nextOp, h.ops, hready]

/-- The operation applies to the declaration that it selects, and ends well. -/
theorem SoleOp.exec_effect (h : SoleOp s o j d) (codes : BitVec 6) (hone : s.withoutOps.ctlOne o j codes.toNat = (u, resOk)) :
    exec (.taskCtlEffect codes) s = .next ((u.thrUpdate o.ctx).ctlResult o resOk) := by
  have hfirst : s.taskOps[0]? = some o := by rw [h.ops]; rfl
  have herase : s.taskOps.eraseIdx 0 = [] := by rw [h.ops]; rfl
  have hbar : s.withoutOps.ctlBarred o.ctx o.func = false := h.taken
  have hsel : s.withoutOps.selected o = [j] := h.selects
  have happly : s.withoutOps.ctlApply o codes.toNat = (u.thrUpdate o.ctx).ctlResult o resOk := by
    simp only [State.ctlApply, hbar, hsel, List.foldl_cons, List.foldl_nil, hone]
    rfl
  rw [exec_taskCtlEffect, State.effect, h.nextOp]
  dsimp only
  rw [hfirst]
  dsimp only
  rw [herase, ← State.withoutOps, happly, State.clocked, h.clocks]
  rfl

/-- The state in which one task's operation ends. -/
theorem SoleOp.leaves (h : SoleOp s o j d) (codes : BitVec 6)
    (hone : s.withoutOps.ctlOne o j codes.toNat = (u, resOk)) (hops : u.taskOps = []) :
    ∃ w : State, exec (.taskCtlEffect codes) s = .next w ∧ w.taskOps = [] ∧ w.mem = u.mem ∧ w.cores.tasks = u.cores.tasks ∧
      (w.ctx o.ctx).tasks = (u.ctx o.ctx).tasks :=
  ⟨_, h.exec_effect codes hone, (State.apply_finish u o (p := State.taskOps) (fun _ _ _ => rfl) (fun _ _ _ => rfl) fun _ _ _ _ => rfl).trans hops,
    State.apply_finish u o (fun _ _ _ => rfl) (fun _ _ _ => rfl) fun _ _ _ _ => rfl,
    State.apply_finish u o (p := (·.cores.tasks)) (fun _ _ _ => rfl) (fun _ _ _ => rfl) fun _ _ _ _ => rfl,
    (State.apply_ctlResult _ o resOk (p := fun w => (w.ctx o.ctx).tasks) fun _ _ _ => rfl).trans (State.ctx_thrUpdate_tasks u o.ctx)⟩

end

/-! ## A parked task is restored (R211) -/

/-- Context `c` restores the task that waits for the slot, once that is EMPTY. -/
def State.restoreParked (core slot : Nat) (s : State) (c : Nat) : State :=
  match (s.ctx c).tasks.findIdx? fun d => d.core == core && d.slot == slot && d.phase == .restoring with
  | none => s
  | some i =>
    match (s.ctx c).tasks[i]? with
    | none => s
    | some d =>
      if (s.task? core slot).isSome || s.ctlBarred c 0 then s
      else
        let r := s.restoreTask c i d d.saveArea true
        r.1.ctlFailed ⟨c, some d.leaf, 0, 0, 0, 0, 0⟩ d.num r.2

theorem exec_parkedTaskRestore (core : CoreId) (slot : SlotId) (s : State) :
    exec (.parkedTaskRestore core slot) s = .next (s.clocked ((s.ctxs.map (·.1)).foldl (State.restoreParked core slot) s)) := rfl

section
variable {s : State} {core slot c : Nat}

theorem State.restoreParked_taken {t : Task} (ht : s.task? core slot = some t) (c : Nat) : s.restoreParked core slot c = s := by
  unfold State.restoreParked
  split
  · rfl
  · split
    · rfl
    · exact if_pos (by simp [ht])

theorem foldl_restoreParked_taken {t : Task} (ht : s.task? core slot = some t) (l : List Nat) :
    l.foldl (State.restoreParked core slot) s = s :=
  List.foldlRecOn (motive := fun u => u = s) l _ rfl fun u hu c _ => by rw [hu, State.restoreParked_taken ht]

/-- A context none of whose tasks waits for the slot changes nothing. -/
theorem State.restoreParked_other (h : ∀ d ∈ (s.ctx c).tasks, ¬ (d.core = core ∧ d.slot = slot ∧ d.phase = .restoring)) :
    s.restoreParked core slot c = s := by
  have hnone : ((s.ctx c).tasks.findIdx? fun d => d.core == core && d.slot == slot && d.phase == .restoring) = none :=
    List.findIdx?_eq_none_iff.2 fun d hd => by simpa [and_assoc] using h d hd
  rw [State.restoreParked, hnone]

theorem foldl_restoreParked_other {l : List Nat}
    (h : ∀ e ∈ l, ∀ d ∈ (s.ctx e).tasks, ¬ (d.core = core ∧ d.slot = slot ∧ d.phase = .restoring)) :
    l.foldl (State.restoreParked core slot) s = s :=
  List.foldlRecOn (motive := fun u => u = s) l _ rfl fun u hu e he => by rw [hu, State.restoreParked_other (h e he)]

/-- The one context that has a task for the slot decides, wherever it stands among the contexts. -/
theorem foldl_restoreParked {l : List Nat} {t : Task} (hc : c ∈ l)
    (hother : ∀ e, e ≠ c → ∀ d ∈ (s.ctx e).tasks, ¬ (d.core = core ∧ d.slot = slot ∧ d.phase = .restoring))
    (ht : (s.restoreParked core slot c).task? core slot = some t) :
    l.foldl (State.restoreParked core slot) s = s.restoreParked core slot c := by
  obtain ⟨before, after, rfl, hbefore⟩ := List.eq_append_cons_of_mem hc
  rw [List.foldl_append, List.foldl_cons, foldl_restoreParked_other fun e he => hother e (ne_of_mem_of_not_mem he hbefore),
    foldl_restoreParked_taken ht]

theorem State.restoreParked_of {i : Nat} {d : TaskDecl} {t : Task}
    (hi : ((s.ctx c).tasks.findIdx? fun d => d.core == core && d.slot == slot && d.phase == .restoring) = some i)
    (hd : (s.ctx c).tasks[i]? = some d) (hbar : s.ctlBarred c 0 = false) (h : restores s c d d.saveArea t) :
    (s.restoreParked core slot c).mem = s.mem ∧ (s.restoreParked core slot c).task? core slot = some (t.restored true) ∧
      (((s.restoreParked core slot c).ctx c).tasks[i]?).map (·.phase) = some .live := by
  obtain ⟨hlt, hfound, -⟩ := List.findIdx?_eq_some_iff_getElem.1 hi
  obtain ⟨hcore, hslot⟩ : d.core = core ∧ d.slot = slot := by
    rw [← Option.some.inj ((List.getElem?_eq_getElem hlt).symm.trans hd)]
    simp only [Bool.and_eq_true, beq_iff_eq] at hfound
    exact hfound.1
  obtain ⟨u, hrestore, htasks, hmem, hctxs, -⟩ := State.restoreTask_of (i := i) h true
  have hfree : s.task? core slot = none := by rw [← hcore, ← hslot, h.2.1]
  have heq : s.restoreParked core slot c = u.modDecl c i fun d => { d with phase := .live } := by
    rw [State.restoreParked, hi]
    dsimp only
    rw [hd]
    dsimp only
    rw [hfree, hbar, hrestore]
    rfl
  refine ⟨?_, ?_, ?_⟩
  · rw [heq]
    exact hmem
  · rw [heq, State.task?, State.modDecl_tasks, htasks, hcore, hslot, SMap.get?_put_same]
  · have hctx : u.ctx c = s.ctx c := by rw [State.ctx, State.ctx, hctxs]
    rw [heq, State.ctx_modDecl_tasks, hctx, List.getElem?_modify, hd]
    simp

end

/-- Settles O17: what one operation leaves is what its one task's change leaves; a parked task is restored by its own context alone. -/
theorem taskControlTakesEffect : Obligations.TaskControlTakesEffect := by
  unfold Obligations.TaskControlTakesEffect
  refine ⟨fun codes s h => ?early, fun codes s o j d h hf hphase hdrain ht => ?start, fun codes s o j d t h hf hphase ht => ?stop,
    fun codes s o j d t h hf hphase ht _ hstate hplace => ?preempt, fun codes s o j d t h hf hphase ht _ hplace hcode => ?save,
    fun codes s o j d t h hf hrestores => ?restore, fun core slot s c i d t hlock hc hi hother hd hbar hrestores => ?parked,
    fun core slot s t ht => ?taken⟩
  case early => rw [exec_taskCtlEffect, State.effect_none (State.nextOp_none h), State.clocked_self]
  case start =>
    have hone := (State.ctlOne_start (s := s.withoutOps) (codes := codes.toNat) h.decl hf).trans (State.ctlStart_notStarted hphase hdrain ht)
    obtain ⟨w, hw, hops, hmem, htasks, -⟩ := h.leaves codes hone rfl
    refine ⟨w, hw, hops, hmem, ?_⟩
    rw [State.task?, htasks]
    exact SMap.get?_put_same ..
  case stop =>
    have ht' : s.withoutOps.task? d.core d.slot = some t := ht
    obtain ⟨w, hw, hops, hmem, htasks, -⟩ := h.leaves codes (State.ctlOne_stop h.decl hf hphase) (State.stopTask_taskOps _ ht')
    refine ⟨w, hw, hops, hmem.trans (State.stopTask_mem _ ht'), ?_⟩
    rw [State.task?, htasks]
    exact State.task?_stopTask _ ht'
  case preempt =>
    have ht' : s.withoutOps.task? d.core d.slot = some t := ht
    have hplace' : s.withoutOps.recordPlace o.ctx d.saveArea = true := (s.recordPlace_withoutOps ..).trans hplace
    obtain ⟨u, hsaved, hpreempt⟩ := State.ctlPreempt_live (i := j) (codes := codes.toNat) hphase ht' hstate h.known.2.1 hplace'
    obtain ⟨w, hw, hops, hmem, htasks, hdecls⟩ := h.leaves codes ((State.ctlOne_preempt (s := s.withoutOps) h.decl hf).trans hpreempt) hsaved.ops
    have hctx : u.ctx o.ctx = s.ctx o.ctx := by
      rw [State.ctx, hsaved.ctxs]
      rfl
    refine ⟨w, hw, hops, ?_, ?_, hmem.trans hsaved.mem_withoutOps⟩
    · rw [State.task?, htasks]
      exact u.task?_dropTask d.core d.slot
    · rw [hdecls, State.ctx_modDecl_tasks, State.ctx_dropTask, hctx, List.getElem?_modify, h.decl]
      simp
  case save =>
    have ht' : s.withoutOps.task? d.core d.slot = some t := ht
    have hplace' : s.withoutOps.recordPlace o.ctx o.addr = true := (s.recordPlace_withoutOps ..).trans hplace
    obtain ⟨u, hsaved, hsave⟩ := State.ctlSave_live (codes := codes.toNat) hphase ht' hplace' hcode h.known.2.1
    obtain ⟨w, hw, hops, hmem, htasks, -⟩ := h.leaves codes ((State.ctlOne_save (s := s.withoutOps) h.decl hf).trans hsave) hsaved.ops
    refine ⟨w, hw, hops, ?_, hmem.trans hsaved.mem_withoutOps⟩
    rw [State.task?, htasks]
    exact hsaved.task
  case restore =>
    obtain ⟨u, hone, htasks', hmem', -, hops'⟩ := State.restoreTask_of (i := j) (restores_withoutOps hrestores) false
    obtain ⟨w, hw, hops, hmem, htasks, -⟩ := h.leaves codes ((State.ctlOne_restore (s := s.withoutOps) h.decl hf).trans hone) hops'
    refine ⟨w, hw, hops, hmem.trans hmem', ?_⟩
    rw [State.task?, htasks, State.modDecl_tasks, htasks', SMap.get?_put_same]
    simp [Task.restored]
  case parked =>
    obtain ⟨hmem, htask, hlive⟩ := State.restoreParked_of hi hd hbar hrestores
    refine ⟨_, (exec_parkedTaskRestore core slot s).trans (congrArg _ ((if_pos hlock).trans (foldl_restoreParked hc hother htask))),
      hmem, ?_, hlive⟩
    rw [htask]
    simp [Task.restored]
  case taken =>
    rw [exec_parkedTaskRestore, foldl_restoreParked_taken ht, State.clocked_self]

end Sys2Proof.Machine

/-! # Groups land, credits return (R190, R194, R195, R222, R328, R397)

After tiles have landed, takes are released, chains give credits and units retire. None of that touches memory or what an endpoint counts
of its ring, so those come from the landing alone. -/

namespace Sys2Proof.Machine
open Sys2Proof

/-! ## What settles after a landing (R111, R217, R251, R301) -/

/-- What an endpoint counts of its ring: FILLED, the part of a group, the tail, tiles received, and tiles landed far away. -/
def Endpoint.counters (e : Endpoint) := (e.filled, e.part, e.tail, e.carried, e.landedFar)

/-- Memory, and what each endpoint counts of its ring. -/
def State.ringCounts (s : State) := (s.mem, fun k => (s.ep? k).map Endpoint.counters)

theorem State.ringCounts_iff {s u : State} :
    u.ringCounts = s.ringCounts ↔ u.mem = s.mem ∧ ∀ k, (u.ep? k).map Endpoint.counters = (s.ep? k).map Endpoint.counters := by
  rw [State.ringCounts, State.ringCounts, Prod.mk.injEq, funext_iff]

theorem ringCounts_foldl {α : Type} {f : State → α → State} (hf : ∀ u a, (f u a).ringCounts = u.ringCounts) (l : List α) (s : State) :
    (l.foldl f s).ringCounts = s.ringCounts :=
  List.foldlRecOn (motive := fun u : State => u.ringCounts = s.ringCounts) l f rfl fun u hu a _ => (hf u a).trans hu

section
variable (s : State) (k : Nat)

theorem State.ep?_modEp_eq (f : Endpoint → Endpoint) (j : Nat) :
    (s.modEp k f).ep? j = if j = k then (s.ep? j).map f else s.ep? j := by
  cases h : s.ep? k with
  | none =>
    have hsame : s.modEp k f = s := by rw [State.modEp, h]
    rw [hsame]
    split
    next hj => rw [hj, h, Option.map_none]
    · rfl
  | some e =>
    rw [State.modEp_of h, State.ep?, State.setEp, SMap.get?_put]
    split
    next hj => rw [hj, h, Option.map_some]
    · rfl

theorem State.modEp_ringCounts {f : Endpoint → Endpoint} (hf : ∀ e, (f e).counters = e.counters) : (s.modEp k f).ringCounts = s.ringCounts := by
  refine State.ringCounts_iff.2 ⟨s.apply_modEp (p := State.mem) k f fun _ _ _ => rfl, fun j => ?_⟩
  rw [State.ep?_modEp_eq]
  split
  · rw [Option.map_map]
    exact congrArg (Option.map · _) (funext hf)
  · rfl

theorem State.modTask_ringCounts (core slot : Nat) (f : Task → Task) : (s.modTask core slot f).ringCounts = s.ringCounts :=
  s.apply_modTask (p := State.ringCounts) core slot f fun _ _ _ _ => rfl

theorem State.slotFlags_ringCounts (core slot : Nat) (f : Flags) : (s.slotFlags core slot f).ringCounts = s.ringCounts :=
  s.modTask_ringCounts ..

theorem State.giveCredit_ringCounts (i n : Nat) : (s.giveCredit k i n).ringCounts = s.ringCounts := by
  unfold State.giveCredit
  split <;> rfl

theorem State.giveChained_ringCounts : (s.giveChained k).ringCounts = s.ringCounts := by
  unfold State.giveChained
  dsimp only
  split
  · rfl
  · refine (State.modEp_ringCounts _ _ ?_).trans (State.giveCredit_ringCounts ..)
    exact fun _ => rfl

theorem State.release_ringCounts (n : Nat) : (s.release k n).ringCounts = s.ringCounts := by
  unfold State.release
  dsimp only
  split
  · refine (State.giveChained_ringCounts ..).trans ((State.modEp_ringCounts _ _ ?_).trans (State.modEp_ringCounts _ _ ?_))
    · exact fun _ => rfl
    · exact fun _ => rfl
  · refine (State.giveCredit_ringCounts ..).trans (State.modEp_ringCounts _ _ ?_)
    exact fun _ => rfl

theorem State.settle_ringCounts : (s.settle k).ringCounts = s.ringCounts := by
  unfold State.settle
  dsimp only
  rw [ringCounts_foldl fun u (o : Nat × Nat × Nat) => u.release_ringCounts o.2.1 o.2.2,
    ringCounts_foldl fun u (o : Nat × Nat × Flags) => u.slotFlags_ringCounts ..]
  exact s.modEp_ringCounts k fun _ => rfl

theorem State.unitDone_ringCounts (core slot : Nat) : (s.unitDone core slot).ringCounts = s.ringCounts := by
  unfold State.unitDone
  split
  · rfl
  · split
    · rfl
    · dsimp only
      split
      · rw [State.modTask_ringCounts, State.putProgress, State.modTask_ringCounts]
      · rw [State.noteRetire, State.modTask_ringCounts, State.advance, State.modTask_ringCounts, State.modTask_ringCounts, State.putProgress,
          State.modTask_ringCounts]

theorem State.settleUnits_ringCounts : (s.settleUnits k).ringCounts = s.ringCounts := by
  refine ringCounts_foldl (fun u slot => ?_) _ s
  split
  · rfl
  · split
    · rfl
    · split
      · rfl
      · split
        · dsimp only
          split
          · exact u.unitDone_ringCounts ..
          · rw [State.modTask_ringCounts, State.unitDone_ringCounts]
        · rfl

theorem State.settleSend_ringCounts : (s.settleSend k).ringCounts = s.ringCounts := by
  unfold State.settleSend
  dsimp only
  rw [ringCounts_foldl State.giveChained_ringCounts, State.settleUnits_ringCounts, State.settle_ringCounts]

end

/-! ## A group enters its ring (R190, R194) -/

section
variable {s : State} {k : Nat} {e : Endpoint}

/-- The ring with the group's tiles, if it has data. -/
def State.ringWith (s : State) (k : Nat) (g : Group) : State :=
  match g.data with
  | some bs => s.fillRing k bs g.poison
  | none => s

theorem State.apply_fillRing {α : Type} {p : State → α} (s : State) (k : Nat) (bs : List Byte) (pz : List Nat)
    (h : ∀ (u : State) m, p { u with mem := m } = p u) : p (s.fillRing k bs pz) = p s :=
  List.foldlRecOn (motive := fun u : State => p u = p s) _ _ rfl fun u hu _ _ => (h u _).trans hu

theorem State.apply_ringWith {α : Type} {p : State → α} (s : State) (k : Nat) (g : Group)
    (h : ∀ (u : State) m, p { u with mem := m } = p u) : p (s.ringWith k g) = p s := by
  unfold State.ringWith
  split
  · exact s.apply_fillRing k _ _ h
  · rfl

/-- What an endpoint counts after `n` tiles came (R190). -/
def Endpoint.received (e : Endpoint) (grain ring n : Nat) : Endpoint :=
  { e with part := (e.part + n) % grain, filled := e.filled + (e.part + n) / grain * grain, tail := (e.tail + n) % ring, carried := e.carried + n }

theorem Endpoint.counters_iff {e f : Endpoint} : f.counters = e.counters ↔
    f.filled = e.filled ∧ f.part = e.part ∧ f.tail = e.tail ∧ f.carried = e.carried ∧ f.landedFar = e.landedFar := by
  simp only [Endpoint.counters, Prod.mk.injEq]

theorem State.landGroup_ringCounts (s : State) (k : Nat) (g : Group) :
    (s.landGroup k g).ringCounts = ((s.ringWith k g).countTiles k g.count).ringCounts := by
  unfold State.landGroup
  dsimp only
  split
  · exact State.settleSend_ringCounts ..
  · exact ringCounts_foldl State.settleSend_ringCounts _ _

/-- A landing writes the ring and counts the tiles. -/
theorem State.landGroup_of (he : s.ep? k = some e) (g : Group) : (s.landGroup k g).mem = (s.ringWith k g).mem ∧
    ∃ f, (s.landGroup k g).ep? k = some f ∧ f.counters = (e.received (s.epGrain k) (s.epRing k) g.count).counters := by
  obtain ⟨hmem, heps⟩ := State.ringCounts_iff.1 (s.landGroup_ringCounts k g)
  have hring : (s.ringWith k g).ep? k = some e := (s.apply_ringWith (p := (·.ep? k)) k g fun _ _ => rfl).trans he
  have hgrain : (s.ringWith k g).epGrain k = s.epGrain k := s.apply_ringWith (p := (·.epGrain k)) k g fun _ _ => rfl
  have hlen : (s.ringWith k g).epRing k = s.epRing k := s.apply_ringWith (p := (·.epRing k)) k g fun _ _ => rfl
  refine ⟨hmem.trans (State.apply_modEp (p := State.mem) _ _ _ fun _ _ _ => rfl), ?_⟩
  have hk := heps k
  rw [State.countTiles, State.ep?_modEp hring, hgrain, hlen, Option.map_some] at hk
  exact Option.map_eq_some_iff.1 hk

/-- The state with other groups on their way. -/
def State.withGroups (s : State) (l : List Group) : State := { s with cores.groups := l }

/-- The groups on their way do not bear on a ring's bytes. -/
theorem State.ringWith_withGroups (s : State) (k : Nat) (g : Group) (l : List Group) :
    (s.withGroups l).ringWith k g = (s.ringWith k g).withGroups l := by
  unfold State.ringWith
  split
  · exact List.foldl_hom (fun u : State => u.withGroups l) fun _ _ => rfl
  · rfl

end

theorem State.ringWith_mem (s : State) (k : Nat) (g : Group) (l : List Group) : ((s.ringWith k g).withGroups l).mem =
    (match g.data with | some bs => (s.fillRing k bs g.poison).mem | none => s.mem) := by
  unfold State.ringWith
  cases g.data <;> rfl

/-! ## GROUP_LAND (R195, R222, R328, R397) -/

section
variable {s : State} {i k : Nat} {g : Group}

theorem exec_groupLand_flight (i : Nat) (s : State) : exec (.groupLand (.flight i)) s = .next (s.clocked (s.groupLand i)) := rfl

theorem exec_groupLand_arrive (core : CoreId) (ep : EpId) (source count layer : Nat) (data : Option (List Byte)) (s : State) :
    exec (.groupLand (.arrive core ep source count layer data)) s =
      .next (s.clocked (s.groupArrive (epKey core ep) source count layer data)) := rfl
theorem exec_groupLand_report (core : CoreId) (ep : EpId) (peer n : Nat) (s : State) :
    exec (.groupLand (.report core ep peer n)) s = .next (s.clocked (s.groupReport (epKey core ep) peer n)) := rfl
theorem exec_groupLand_noPath (core : CoreId) (ep : EpId) (s : State) :
    exec (.groupLand (.noPath core ep)) s = .next (s.clocked (s.groupNoPath (epKey core ep))) := rfl

/-- A group that may land leaves its place, or what is left of it there. -/
theorem State.groupLand_lands (hg : s.cores.groups[i]? = some g) (hdst : g.dst = .ring k) (hports : s.portsClosed (k / 256) = false)
    (hpath : s.groupPath g = .through) (hlinked : s.linked k g.ctx = true) (hmay : s.mayLand i k g = true) :
    ∃ l, s.groupLand i = (s.withGroups l).landGroup k (g.split (s.landing k g)).1 := by
  unfold State.groupLand
  simp only [hg, hdst, hports, hpath, hlinked, hmay, Bool.false_eq_true, Bool.not_true, if_false]
  split
  · exact ⟨_, rfl⟩
  · exact ⟨_, rfl⟩

theorem State.groupLand_unlinked (hg : s.cores.groups[i]? = some g) (hdst : g.dst = .ring k) (hports : s.portsClosed (k / 256) = false)
    (hpath : s.groupPath g = .through) (hlinked : s.linked k g.ctx = false) :
    s.groupLand i = (s.dropGroup i).misusePart (s.partOf (s.get (Fld.strCfgContext k))) := by
  simp [State.groupLand, hg, hdst, hports, hpath, hlinked]

theorem State.groupLand_shut {p : Nat} (hg : s.cores.groups[i]? = some g) (hdst : g.dst = .ring k)
    (hports : s.portsClosed (k / 256) = false) (hpath : s.groupPath g = .shut) (hpart : g.part = some p) :
    s.groupLand i = ((s.dropGroup i).bump Fld.netShutDropCount).misusePart p := by
  simp [State.groupLand, hg, hdst, hports, hpath, State.groupShut, hpart]

theorem epKey_div (core : Nat) (ep : EpId) : epKey core ep / 256 = core := by
  have hep := ep.isLt
  simp only [epKey]
  omega

theorem State.groupArrive_lands {e : Endpoint} {source count layer : Nat} {data : Option (List Byte)}
    (hports : s.portsClosed (k / 256) = false) (hen : s.flag (Fld.strCfgEn k) = true) (hremote : s.flag (Fld.strPeerRemote k) = true)
    (hdir : s.flag (Fld.strCfgDir k) = false) (he : s.ep? k = some e) (hsources : e.sources = [])
    (hlayer : (s.ctx (s.get (Fld.strCfgContext k))).priv = true ∨ layer ≤ e.layer) (hroom : s.ringRoom k count = true) :
    ∃ g : Group, g.count = count ∧ s.groupArrive k source count layer data = s.landGroup k g := by
  have htakes : s.ringTakes k none layer count = true := by simp [State.ringTakes, State.epD_of he, hsources, hlayer, hroom]
  unfold State.groupArrive
  simp only [hports, hen, hremote, hdir, State.epD_of he, hsources, htakes, List.isEmpty_nil, Bool.true_or, Bool.and_self, Bool.not_true,
    Bool.false_and, Bool.or_self, Bool.false_eq_true, if_false, if_true]
  exact ⟨_, rfl, rfl⟩

theorem State.groupReport_of {e : Endpoint} {peer n : Nat} (he : s.ep? k = some e) : (s.groupReport k peer n).mem = s.mem ∧
    ∃ f, (s.groupReport k peer n).ep? k = some f ∧ f.landedFar = e.landedFar.modify peer fun m => min (e.dealt 0 e.carried peer) (m + n) := by
  obtain ⟨hmem, heps⟩ := State.ringCounts_iff.1 (State.settleSend_ringCounts (s.modEp k fun e => { e with
    landedFar := e.landedFar.modify peer fun m => min (e.dealt 0 e.carried peer) (m + n) }) k)
  have hk := heps k
  rw [State.ep?_modEp he, Option.map_some] at hk
  obtain ⟨f, hf, hcounters⟩ := Option.map_eq_some_iff.1 hk
  obtain ⟨-, -, -, -, hlanded⟩ := Endpoint.counters_iff.1 hcounters
  exact ⟨hmem.trans (State.apply_modEp (p := State.mem) _ _ _ fun _ _ _ => rfl), f, hf, hlanded⟩

theorem State.groupNoPath_faults (hen : s.flag (Fld.strCfgEn k) = true) (hremote : s.flag (Fld.strPeerRemote k) = true) :
    s.groupNoPath k = s.faultCtx (s.get (Fld.strCfgContext k)) 6 (s.leafOn (s.get (Fld.strCfgContext k)) (k / 256)) := by
  unfold State.groupNoPath
  exact if_pos (by simp [hen, hremote])

end

/-! ## CREDIT_ARRIVE (R194, R222, R60) -/

section
variable {s : State} {i k : Nat} {c : Credit} {e : Endpoint}

theorem exec_creditArrive_flight (i : Nat) (s : State) : exec (.creditArrive (.flight i)) s = .next (s.clocked (s.creditArrive i)) := rfl
theorem exec_creditArrive_away (core : CoreId) (ep : EpId) (peer n : Nat) (s : State) :
    exec (.creditArrive (.away core ep peer n)) s = .next (s.clocked (s.creditAway (epKey core ep) peer n)) := rfl

theorem State.creditArrive_frees {j : Nat} (hc : s.cores.credits[i]? = some c) (hports : s.portsClosed (c.dst / 256) = false)
    (hen : s.flag (Fld.strCfgEn c.dst) = true) (he : s.ep? c.dst = some e) (hj : (e.peers.findIdx? (· == .here c.src)) = some j) :
    s.creditArrive i = ({ s with cores.credits := s.cores.credits.eraseIdx i } : State).setEp c.dst
      { e with used := e.used.modify j fun n => n - c.count } := by
  have htaken : ({ s with cores.credits := s.cores.credits.eraseIdx i } : State).ep? c.dst = some e := he
  have hflag : ({ s with cores.credits := s.cores.credits.eraseIdx i } : State).flag (Fld.strCfgEn c.dst) = true := hen
  simp [State.creditArrive, hc, hports, hflag, State.epD_of htaken, hj, State.restoreFree, State.modEp_of htaken]

theorem State.creditArrive_off (hc : s.cores.credits[i]? = some c) (hports : s.portsClosed (c.dst / 256) = false)
    (hen : s.flag (Fld.strCfgEn c.dst) = false) : s.creditArrive i =
      ({ s with cores.credits := s.cores.credits.eraseIdx i } : State).misusePart (s.partOf (s.get (Fld.strCfgContext c.dst))) := by
  have hflag : ({ s with cores.credits := s.cores.credits.eraseIdx i } : State).flag (Fld.strCfgEn c.dst) = false := hen
  simp only [State.creditArrive, hc, hports, hflag, Bool.not_false, Bool.false_eq_true, if_false, if_true]
  rfl

theorem State.creditArrive_closed (hc : s.cores.credits[i]? = some c) (hports : s.portsClosed (c.dst / 256) = true) :
    s.creditArrive i = s := by
  simp [State.creditArrive, hc, hports]

theorem State.creditAway_frees {peer b n : Nat} (hports : s.portsClosed (k / 256) = false) (hen : s.flag (Fld.strCfgEn k) = true)
    (he : s.ep? k = some e) (hpeer : e.peers[peer]? = some (.away b)) : s.creditAway k peer n = s.restoreFree k peer n := by
  simp [State.creditAway, hports, hen, State.epD_of he, hpeer]

theorem State.creditAway_off {peer n : Nat} (hports : s.portsClosed (k / 256) = false) (hen : s.flag (Fld.strCfgEn k) = false) :
    s.creditAway k peer n = s.misusePart (s.partOf (s.get (Fld.strCfgContext k))) := by
  simp [State.creditAway, hports, hen]

/-- FREE rises by the credit, to the ring's length at most (R189). -/
theorem State.frees_restoreFree {peer b n : Nat} (he : s.ep? k = some e) (hpeer : e.peers[peer]? = some (.away b)) :
    ((s.restoreFree k peer n).frees k)[peer]? = some (b - (e.used.getD peer 0 - n)) := by
  have hep : (s.restoreFree k peer n).epD k = { e with used := e.used.modify peer fun u => u - n } := State.epD_of (State.ep?_modEp he _)
  have hused : (e.used.modify peer fun u => u - n).getD peer 0 = e.used.getD peer 0 - n := by
    rw [List.getD_eq_getElem?_getD, List.getD_eq_getElem?_getD, List.getElem?_modify]
    cases e.used[peer]? <;> simp
  rw [State.frees, hep, List.getElem?_map, List.getElem?_zipIdx, hpeer, Option.map_some, Option.map_some, Nat.zero_add, hused]
  rfl

end

/-- Settles O18: a landing is one write of the ring and one count; what settles after it touches neither. -/
theorem groupsLandAndCreditsReturn : Obligations.GroupsLandAndCreditsReturn := by
  unfold Obligations.GroupsLandAndCreditsReturn
  refine ⟨fun s i g k e hlock hg hdst hports hpath hlinked hmay he => ?lands, fun s i g k hg hdst hports hpath hlinked => ?unlinked,
    fun s i g k p hg hdst hports hpath hpart => ?shut,
    fun core ep source count layer data s e hlock hports hen hremote hdir he hsources hlayer hroom => ?arrives,
    fun core ep peer n s e hlock he => ?reports, fun core ep s hen hremote => ?noPath, fun s i c e j hc hports hen he hj => ?credit,
    fun s i c hc hports hen => ?creditOff, fun s i c hc hports => ?creditWaits,
    fun core ep peer n b s e hlock hports hen he hpeer => ?away, fun core ep peer n s hports hen => ?awayOff⟩
  case lands =>
    obtain ⟨l, hland⟩ := State.groupLand_lands hg hdst hports hpath hlinked hmay
    have he' : (s.withGroups l).ep? k = some e := he
    obtain ⟨hmem, f, hf, hcounters⟩ := State.landGroup_of he' (g.split (s.landing k g)).1
    obtain ⟨hfilled, hpart, htail, hcarried, -⟩ := Endpoint.counters_iff.1 hcounters
    refine ⟨_, _, f, rfl, (exec_groupLand_flight i s).trans (congrArg _ ((if_pos hlock).trans hland)), hf, hfilled, hpart, htail, hcarried, ?_⟩
    rw [hmem, State.ringWith_withGroups]
    exact State.ringWith_mem ..
  case unlinked => rw [exec_groupLand_flight, State.groupLand_unlinked hg hdst hports hpath hlinked]
  case shut => rw [exec_groupLand_flight, State.groupLand_shut hg hdst hports hpath hpart]
  case arrives =>
    have hports' : s.portsClosed (epKey core ep / 256) = false := by rwa [epKey_div]
    obtain ⟨g, hcount, harrive⟩ := State.groupArrive_lands (source := source) (data := data) hports' hen hremote hdir he hsources hlayer hroom
    obtain ⟨-, f, hf, hcounters⟩ := State.landGroup_of he g
    obtain ⟨hfilled, -, -, hcarried, -⟩ := Endpoint.counters_iff.1 hcounters
    rw [hcount] at hfilled hcarried
    exact ⟨_, f, (exec_groupLand_arrive ..).trans (congrArg _ ((if_pos hlock).trans harrive)), hf, hfilled, hcarried⟩
  case reports =>
    obtain ⟨hmem, f, hf, hlanded⟩ := State.groupReport_of (peer := peer) (n := n) he
    exact ⟨_, f, (exec_groupLand_report ..).trans (congrArg _ (if_pos hlock)), hf, hlanded, hmem⟩
  case noPath => rw [exec_groupLand_noPath, State.groupNoPath_faults hen hremote, epKey_div]
  case credit => rw [exec_creditArrive_flight, State.creditArrive_frees hc hports hen he hj]
  case creditOff => rw [exec_creditArrive_flight, State.creditArrive_off hc hports hen]
  case creditWaits => rw [exec_creditArrive_flight, State.creditArrive_closed hc hports, State.clocked_self]
  case away =>
    have hports' : s.portsClosed (epKey core ep / 256) = false := by rwa [epKey_div]
    exact ⟨_, (exec_creditArrive_away ..).trans (congrArg _ ((if_pos hlock).trans (State.creditAway_frees hports' hen he hpeer))),
      State.apply_modEp (p := State.mem) _ _ _ fun _ _ _ => rfl, State.frees_restoreFree he hpeer⟩
  case awayOff =>
    have hports' : s.portsClosed (epKey core ep / 256) = false := by rwa [epKey_div]
    rw [exec_creditArrive_away, State.creditAway_off hports' hen]

end Sys2Proof.Machine

/-! # Every step keeps canonical forms (R240, R241, R267)

A step is a tick or a command, and the laws under Laws/ say of both that they keep the canonical forms. -/

namespace Sys2Proof.Machine
open Sys2Proof

theorem Keeps.inv {s t : State} (h : Keeps s t) (hinv : s.Inv) : t.Inv :=
  have ⟨hmem, hctrl⟩ := hinv
  ⟨h.mem hmem, h.ctrl hctrl⟩

theorem step_idle {s : State} (h : s.pending = []) : step s = .next s.tickPass := by
  rw [step, h]

theorem step_pending {s : State} {c : Instr} {rest : List Instr} (h : s.pending = c :: rest) :
    step s = exec c { s with pending := rest } := by
  rw [step, h]

/-- Settles O35: a step is a tick of the clock or the command at the front of the queue, and each keeps the canonical forms. -/
theorem everyStepKeepsCanonicalForms : Obligations.EveryStepKeepsCanonicalForms := by
  unfold Obligations.EveryStepKeepsCanonicalForms
  intro s t hinv hstep
  cases hp : s.pending with
  | nil =>
    rw [step_idle hp] at hstep
    cases hstep
    exact Keeps.inv (State.tickPass_keeps s .rfl) hinv
  | cons c rest =>
    rw [step_pending hp] at hstep
    exact (exec_keeps { s with pending := rest } c t hstep).inv hinv

end Sys2Proof.Machine

/-! # Counters set to zero (R276, R310, R311, R336, R384, R385, R419, R448, R457, R503, R527, R553)

A field or a 64-bit counter that is set to zero clears no bit back to one elsewhere, so what an earlier write has cleared stays clear,
whichever registers the fields share. -/

namespace Sys2Proof.Machine
open Sys2Proof

/-! ## A field set to zero only takes bits away -/

theorem setField_zero_le (n lo w : Nat) : setField n lo w 0 ≤ n := by simp [setField]

theorem field_eq_zero_iff {n lo w : Nat} : field n lo w = 0 ↔ ∀ k, k < w → bitAt n (lo + k) = false := by
  constructor
  · intro h k hk
    have hbit := bitAt_field n lo w k
    rw [h, decide_eq_true hk, Bool.true_and] at hbit
    rw [← hbit, bitAt_eq_testBit, Nat.zero_testBit]
  · intro h
    refine Nat.eq_of_testBit_eq fun k => ?_
    rw [← bitAt_eq_testBit, bitAt_field, Nat.zero_testBit]
    by_cases hk : k < w
    · rw [h k hk, Bool.and_false]
    · rw [decide_eq_false hk, Bool.false_and]

theorem bitAt_setField_zero {n k : Nat} (lo w : Nat) (h : bitAt n k = false) : bitAt (setField n lo w 0) k = false := by
  rcases Nat.lt_or_ge k lo with hlow | hlow
  · rw [bitAt_eq_field, field_setField_below _ _ _ _ _ _ hlow]
    exact h
  rcases Nat.lt_or_ge k (lo + w) with hin | hhigh
  · have hzero : field (setField n lo w 0) lo w = 0 := by rw [field_setField_same, Nat.zero_mod]
    have hbit := field_eq_zero_iff.1 hzero (k - lo) (by omega)
    rwa [Nat.add_sub_cancel' hlow] at hbit
  · rw [bitAt_eq_field, field_setField_above _ _ _ _ _ _ hhigh]
    exact h

theorem field_setField_zero {n lo' w' : Nat} (lo w : Nat) (h : field n lo' w' = 0) : field (setField n lo w 0) lo' w' = 0 :=
  field_eq_zero_iff.2 fun k hk => bitAt_setField_zero lo w (field_eq_zero_iff.1 h k hk)

/-! ## Cleared states -/

section
variable {s u : State} {fs : List Fld} {as : List Nat}

/-- `u` is `s` with fields and 64-bit counters set to zero. -/
structure Cleared (s u : State) (fs : List Fld) (as : List Nat) : Prop where
  fields : ∀ f, f ∈ fs → u.get f = 0
  counters : ∀ a, a ∈ as → u.rd a = 0 ∧ u.rd (a + 4) = 0
  others : ∀ a, (∀ f, f ∈ fs → f.addr ≠ a) → (∀ b, b ∈ as → a ≠ b ∧ a ≠ b + 4) → u.rd a = s.rd a
  rest : { u with ctrl.regs := s.ctrl.regs } = s

theorem State.rd_put_zero (u : State) (f : Fld) (b : Nat) :
    (u.put f 0).rd b = if b = f.addr then setField (u.rd b) f.lo f.w 0 else u.rd b := by
  rw [State.put, State.rd_wr]
  split
  · next h => rw [h, Nat.mod_eq_of_lt ((setField_zero_le ..).trans_lt (u.rd_lt _))]
  · rfl

theorem State.get_put_zero_same (u : State) (f : Fld) : (u.put f 0).get f = 0 := by
  rw [State.get, State.rd_put_zero, if_pos rfl, field_setField_same, Nat.zero_mod]

theorem State.get_put_zero {g : Fld} (f : Fld) (h : u.get g = 0) : (u.put f 0).get g = 0 := by
  rw [State.get, State.rd_put_zero]
  split
  · exact field_setField_zero _ _ h
  · exact h

theorem State.rd_put_zero_of_zero {b : Nat} (f : Fld) (h : u.rd b = 0) : (u.put f 0).rd b = 0 := by
  rw [State.rd_put_zero, h, ite_eq_right_iff]
  exact fun _ => Nat.le_zero.1 (setField_zero_le ..)

theorem State.get_put64_zero {g : Fld} (a : Nat) (h : u.get g = 0) : (u.put64 a 0).get g = 0 := by
  rw [State.get, State.rd_put64_zero]
  split
  · simp [field]
  · exact h

theorem Cleared.refl (s : State) : Cleared s s [] [] := ⟨by simp, by simp, fun _ _ _ => rfl, rfl⟩

theorem Cleared.put (h : Cleared s u fs as) (f : Fld) : Cleared s (u.put f 0) (fs ++ [f]) as where
  fields g hg := by
    rcases List.mem_append.1 hg with hg | hg
    · exact State.get_put_zero f (h.fields g hg)
    · rw [List.mem_singleton.1 hg, State.get_put_zero_same]
  counters a ha := (h.counters a ha).imp (State.rd_put_zero_of_zero f) (State.rd_put_zero_of_zero f)
  others a hf ha := by
    rw [State.rd_put_ne _ _ _ (hf f (by simp)).symm]
    exact h.others a (fun g hg => hf g (List.mem_append_left _ hg)) ha
  rest := h.rest

theorem Cleared.put64 (h : Cleared s u fs as) (a : Nat) : Cleared s (u.put64 a 0) fs (as ++ [a]) where
  fields g hg := State.get_put64_zero a (h.fields g hg)
  counters b hb := by
    rw [State.rd_put64_zero, State.rd_put64_zero, ite_eq_left_iff, ite_eq_left_iff]
    rcases List.mem_append.1 hb with hb | hb
    · exact (h.counters b hb).imp (fun e _ => e) (fun e _ => e)
    · rw [List.mem_singleton.1 hb]
      exact ⟨fun hne => absurd (.inl rfl) hne, fun hne => absurd (.inr rfl) hne⟩
  others b hf ha := by
    have ⟨hlow, hhigh⟩ := ha a (by simp)
    rw [State.rd_put64_ne _ _ hlow hhigh]
    exact h.others b hf fun c hc => ha c (List.mem_append_left _ hc)
  rest := h.rest

theorem Cleared.clearAll (h : Cleared s u fs as) (gs : List Fld) : Cleared s (u.clearAll gs) (fs ++ gs) as := by
  induction gs generalizing u fs with
  | nil => rwa [List.append_nil]
  | cons g gs ih =>
    rw [List.append_cons]
    exact ih (h.put g)

theorem Cleared.clear64 (h : Cleared s u fs as) (bs : List Nat) : Cleared s (u.clear64 bs) fs (as ++ bs) := by
  induction bs generalizing u as with
  | nil => rwa [List.append_nil]
  | cons b bs ih =>
    rw [List.append_cons]
    exact ih (h.put64 b)

/-- A command whose accepted write clears fields and counters, and does nothing else, clears them. -/
theorem clears_of_write {cmd : Instr} {req : Requester} {addr v : Nat} {f : State → State}
    (hexec : exec cmd s = .next (s.write req addr v f)) (haccepts : s.accepts req addr v = true) (h : Cleared s (f s) fs as) :
    Clears cmd s fs as := by
  rw [State.write_of_accepts haccepts] at hexec
  refine ⟨f s, hexec, h.fields, fun a ha => ?_, h.others, h.rest⟩
  obtain ⟨hlow, hhigh⟩ := h.counters a ha
  rw [State.get64, hlow, hhigh, Nat.zero_mul]

end

/-- Settles O40: each command is one write of its register, which sets the counters to zero one by one. -/
theorem counterClears : Obligations.CounterClears := by
  unfold Obligations.CounterClears
  have zero := Cleared.refl
  exact ⟨fun _ _ s h => clears_of_write rfl h ((zero s).clear64 _),
    fun _ s h => clears_of_write rfl h ((zero s).clearAll _),
    fun _ s h => clears_of_write rfl h (((zero s).clearAll _).clearAll _),
    fun _ _ s h => clears_of_write rfl h (((zero s).clear64 _).put _),
    fun _ s h => clears_of_write rfl h ((zero s).clearAll _),
    fun _ _ s h => clears_of_write rfl h (((zero s).clear64 _).clearAll _),
    fun _ s h => clears_of_write rfl h ((zero s).clearAll _),
    fun _ s h => clears_of_write rfl h ((zero s).clearAll _),
    fun _ _ s h => clears_of_write rfl h (((zero s).clearAll _).clear64 _),
    fun _ _ s h => clears_of_write rfl h ((zero s).put _),
    fun _ s h => clears_of_write rfl h ((zero s).put _),
    fun _ s h => clears_of_write rfl h ((zero s).clearAll _),
    fun _ s h => clears_of_write rfl h ((zero s).clearAll _),
    fun _ s h => clears_of_write rfl h (((zero s).clearAll _).clearAll _)⟩

end Sys2Proof.Machine

/-! # The migration engine's ring (R273 to R276)

A command that ends forgets its run, writes its completion word, and sets three fields of two registers that lie apart; what the copy of a
tile within T0 and T1 reads and writes hangs on the contexts and memory alone. -/

namespace Sys2Proof.Machine
open Sys2Proof

/-! ## The ring's registers (R276) -/

theorem bitAt_setBit_same (n i : Nat) (b : Bool) : bitAt (setBit n i b) i = b := by
  rw [bitAt_eq_field, setBit, field_setField_same]
  cases b <;> rfl

theorem migRingHead_ne_migRingStatus (c : Nat) : Reg.migRingHead c ≠ Reg.migRingStatus c := by
  simp only [Reg.migRingHead, Reg.migRingStatus]
  omega

theorem migRingCtrl_ne_migRingStatus (c : Nat) : Reg.migRingCtrl c ≠ Reg.migRingStatus c := by
  simp only [Reg.migRingCtrl, Reg.migRingStatus]
  omega

theorem migRingCtrl_ne_migRingHead (c : Nat) : Reg.migRingCtrl c ≠ Reg.migRingHead c := by
  simp only [Reg.migRingCtrl, Reg.migRingHead]
  omega

theorem migRingTail_ne_migRingCtrl (c : Nat) : Reg.migRingTail c ≠ Reg.migRingCtrl c := by
  simp only [Reg.migRingTail, Reg.migRingCtrl]
  omega

section
variable (s : State) (c : Nat)

theorem State.migSize_pos : 0 < s.migSize c := Nat.two_pow_pos _

/-- A ring has at most 4,096 commands, so an index of it fits the 12 bits of HEAD. -/
theorem State.migSize_le : s.migSize c ≤ 2 ^ 12 := by
  refine Nat.pow_le_pow_right (by decide) ?_
  split_ifs <;> omega

theorem State.get_put_migRingHead {n : Nat} (u : State) (h : n < s.migSize c) :
    (u.put (Fld.migRingHeadHead c) n).get (Fld.migRingHeadHead c) = n :=
  (State.get_put_same _ _ _ (by decide : 0 + 12 ≤ 32)).trans (Nat.mod_eq_of_lt (h.trans_le (s.migSize_le c)))

/-! ## Enabling the ring (R276) -/

/-- The ring once EN has found it in order: HEAD takes TAIL's value. -/
def State.ringOn : State :=
  (s.put (Fld.migRingCtrlEn c) 1).put (Fld.migRingHeadHead c) (s.get (Fld.migRingTailTail c) % s.migSize c)

theorem State.migRingCtrl_enable (req : Requester) (v : Nat) (hoff : s.flag (Fld.migRingCtrlEn c) = false) :
    s.migRingCtrl req c (setBit v 31 true) =
      if (s.put (Fld.migRingCtrlSizeLog2 c) (v % 32)).migRingOk c then (s.put (Fld.migRingCtrlSizeLog2 c) (v % 32)).ringOn c
      else (s.put (Fld.migRingCtrlSizeLog2 c) (v % 32)).misuse req := by
  have hsize : field (setBit v 31 true) 0 5 = v % 32 := field_setField_below _ _ _ _ _ _ (by decide)
  unfold State.migRingCtrl
  rw [hsize, bitAt_setBit_same, hoff]
  dsimp only
  cases (s.put (Fld.migRingCtrlSizeLog2 c) (v % 32)).migRingOk c <;> rfl

theorem State.flag_ringOn : (s.ringOn c).flag (Fld.migRingCtrlEn c) = true := by
  rw [State.flag, State.ringOn, State.get_put_ne _ _ _ _ (migRingCtrl_ne_migRingHead c),
    State.get_put_same _ _ _ (by decide : 31 + 1 ≤ 32)]
  rfl

theorem State.get_ringOn_head : (s.ringOn c).get (Fld.migRingHeadHead c) = s.get (Fld.migRingTailTail c) % s.migSize c :=
  s.get_put_migRingHead c _ (Nat.mod_lt _ (s.migSize_pos c))

theorem State.ringOn_mem : (s.ringOn c).mem = s.mem := by
  rw [State.ringOn, State.put_mem, State.put_mem]

/-! ## A command ends (R274) -/

/-- Where the command at HEAD wants its completion word. -/
def State.migCompl : Nat :=
  leAt (s.mem.bytes (s.key c (s.get64 (Reg.migRingBase c) % 2 ^ 44 + 64 * s.get (Fld.migRingHeadHead c))) 64) 24 8 % 2 ^ 44

/-- The engine's run is over, and its completion word is written where the command names a place for one. -/
def State.migReported (word : Nat) : State :=
  let u : State := { s with migs := SMap.del s.migs c }
  if s.migCompl c != 0 && s.migCompl c % 8 == 0 && upperTier (s.migCompl c) && u.mapped c (s.migCompl c) 8 then
    u.twrite c (s.migCompl c) (leBytes 8 word) fun _ => false else u

/-- The command has ended: its completion word, its status, and HEAD past it. -/
def State.migEnded (status done poisoned : Nat) : State :=
  (((s.migReported c (status + done * 2 ^ 8 + poisoned * 2 ^ 32)).put (Fld.migRingStatusLastStatus c) status).put
    (Fld.migRingStatusBusy c) 0).put (Fld.migRingHeadHead c) ((s.get (Fld.migRingHeadHead c) + 1) % s.migSize c)

theorem State.migReported_ctrl (word : Nat) : (s.migReported c word).ctrl = s.ctrl := by
  unfold State.migReported
  dsimp only
  split
  · rw [State.twrite_eq]
  · rfl

/-- The size of the ring is read after STATUS has been written, which does not hold it. -/
theorem State.migEnd_eq_ite (status done poisoned : Nat) : s.migEnd c status done poisoned =
    if bitAt (leAt (s.mem.bytes (s.key c (s.get64 (Reg.migRingBase c) % 2 ^ 44 + 64 * s.get (Fld.migRingHeadHead c))) 64) 1 1) 0 then
      (s.migEnded c status done poisoned).raiseCtx srcMig 0x0312 0 c (status + done * 2 ^ 8 + poisoned * 2 ^ 32)
        (s.get (Fld.migRingHeadHead c))
    else s.migEnded c status done poisoned := by
  have hsize : (((s.migReported c (status + done * 2 ^ 8 + poisoned * 2 ^ 32)).put (Fld.migRingStatusLastStatus c) status).put
      (Fld.migRingStatusBusy c) 0).get (Fld.migRingCtrlSizeLog2 c) = s.get (Fld.migRingCtrlSizeLog2 c) := by
    rw [State.get_put_ne _ _ _ _ (migRingCtrl_ne_migRingStatus c), State.get_put_ne _ _ _ _ (migRingCtrl_ne_migRingStatus c),
      State.get, State.rd, State.migReported_ctrl]
    rfl
  unfold State.migEnded State.migSize
  rw [← hsize]
  unfold State.migEnd State.migReported State.migCompl
  with_reducible rfl

/-- A command's end is that, and an event where the command asks for one. -/
theorem State.migEnd_eq (status done poisoned : Nat) :
    ∃ r l, s.migEnd c status done poisoned = { s.migEnded c status done poisoned with raised := r, lost := l } := by
  rw [State.migEnd_eq_ite]
  generalize s.migEnded c status done poisoned = u
  split
  · exact State.raiseCtx_eq ..
  · exact ⟨u.raised, u.lost, rfl⟩

theorem State.get_migEnd (status done poisoned : Nat) (f : Fld) :
    (s.migEnd c status done poisoned).get f = (s.migEnded c status done poisoned).get f := by
  obtain ⟨r, l, h⟩ := s.migEnd_eq c status done poisoned
  rw [h]
  generalize s.migEnded c status done poisoned = u
  rfl

theorem State.mem_migEnd (status done poisoned : Nat) :
    (s.migEnd c status done poisoned).mem = (s.migReported c (status + done * 2 ^ 8 + poisoned * 2 ^ 32)).mem := by
  obtain ⟨r, l, h⟩ := s.migEnd_eq c status done poisoned
  rw [h]
  simp only [State.migEnded, State.put_mem]

theorem State.get_migEnd_lastStatus {status : Nat} (done poisoned : Nat) (h : status < 256) :
    (s.migEnd c status done poisoned).get (Fld.migRingStatusLastStatus c) = status := by
  rw [State.get_migEnd, State.migEnded, State.get_put_ne _ _ _ _ (migRingHead_ne_migRingStatus c).symm,
    State.get_put_beside _ _ _ _ (by decide : 31 + 1 ≤ 32) (.inr (by decide : 0 + 8 ≤ 31)),
    State.get_put_same _ _ _ (by decide : 0 + 8 ≤ 32)]
  exact Nat.mod_eq_of_lt h

theorem State.flag_migEnd_busy (status done poisoned : Nat) :
    (s.migEnd c status done poisoned).flag (Fld.migRingStatusBusy c) = false := by
  rw [State.flag, State.get_migEnd, State.migEnded, State.get_put_ne _ _ _ _ (migRingHead_ne_migRingStatus c).symm,
    State.get_put_same _ _ _ (by decide : 31 + 1 ≤ 32)]
  rfl

theorem State.get_migEnd_head (status done poisoned : Nat) :
    (s.migEnd c status done poisoned).get (Fld.migRingHeadHead c) = (s.get (Fld.migRingHeadHead c) + 1) % s.migSize c := by
  rw [State.get_migEnd]
  exact s.get_put_migRingHead c _ (Nat.mod_lt _ (s.migSize_pos c))

theorem State.mapped_migs (m : SMap MigRun) (a n : Nat) : ({ s with migs := m } : State).mapped c a n = s.mapped c a n :=
  have hctxs : ({ s with migs := m } : State).ctxs = s.ctxs := rfl
  have hregs : ({ s with migs := m } : State).ctrl.regs = s.ctrl.regs := rfl
  have hmem : ({ s with migs := m } : State).mem = s.mem := rfl
  State.mapped_congr hctxs hregs hmem c a n

/-- The completion word lies within one page, so it is one store of its eight bytes. -/
theorem State.mem_migReported (word : Nat) (hne : s.migCompl c ≠ 0) (hal : s.migCompl c % 8 = 0) (hup : upperTier (s.migCompl c) = true)
    (hmap : s.mapped c (s.migCompl c) 8 = true) :
    (s.migReported c word).mem = s.mem.store (s.key c (s.migCompl c)) (leBytes 8 word) fun _ => false := by
  unfold State.migReported
  generalize s.migCompl c = a at *
  have hpage : a % 4096 + (leBytes 8 word).length ≤ 4096 := by
    rw [length_leBytes]
    exact page_of_aligned (by decide) hal
  dsimp only
  rw [State.mapped_migs, if_pos (by simp [hne, hal, hup, hmap]), State.twrite_page _ _ _ _ _ (by simp) hpage]
  rfl

section
variable {s c} (status done poisoned : Nat)

theorem State.bytes_migEnd (hne : s.migCompl c ≠ 0) (hal : s.migCompl c % 8 = 0) (hup : upperTier (s.migCompl c) = true)
    (hmap : s.mapped c (s.migCompl c) 8 = true) : (s.migEnd c status done poisoned).mem.bytes (s.key c (s.migCompl c)) 8 =
      leBytes 8 (status + done * 2 ^ 8 + poisoned * 2 ^ 32) := by
  rw [State.mem_migEnd, s.mem_migReported c _ hne hal hup hmap]
  generalize status + done * 2 ^ 8 + poisoned * 2 ^ 32 = word
  have hsame := Memory.bytes_store_same s.mem (s.key c (s.migCompl c)) (leBytes 8 word) fun _ => false
  rwa [length_leBytes] at hsame

theorem State.byte_migEnd_out (hne : s.migCompl c ≠ 0) (hal : s.migCompl c % 8 = 0) (hup : upperTier (s.migCompl c) = true)
    (hmap : s.mapped c (s.migCompl c) 8 = true) (a : Nat) (ha : a < s.key c (s.migCompl c) ∨ s.key c (s.migCompl c) + 8 ≤ a) :
    (s.migEnd c status done poisoned).mem.byte a = s.mem.byte a := by
  rw [State.mem_migEnd, s.mem_migReported c _ hne hal hup hmap]
  exact Memory.byte_store_out _ _ (by rwa [length_leBytes])

end

end

/-! ## Moving a tile within T0 and T1 (R274) -/

section
variable (s : State) (c : Nat)

theorem region_of_upperTier {a : Nat} (h : upperTier a = true) : (∃ u o, region a = .t0 u o) ∨ ∃ u o, region a = .t1 u o := by
  unfold upperTier at h
  cases hr : region a with
  | t0 u o => exact .inl ⟨u, o, rfl⟩
  | t1 u o => exact .inr ⟨u, o, rfl⟩
  | t2 o => simp [hr] at h
  | t3 i o => simp [hr] at h
  | hole => simp [hr] at h

/-- The poisoned sectors of the tile at a key. -/
def State.tilePoison (key : Nat) : List Nat := (List.range 64).filter fun q => s.mem.poisoned (key / 64 + q)

theorem State.migRead_upper {src : Nat} (reply : Reply) (h : upperTier src = true) :
    s.migRead c src reply = (s, .ok (s.mem.bytes (s.key c src) 4096, s.tilePoison (s.key c src))) := by
  rcases region_of_upperTier h with ⟨u, o, hr⟩ | ⟨u, o, hr⟩ <;> simp only [State.migRead, State.engineRead, hr] <;> rfl

theorem State.engineWrite_upper {dst : Nat} (bs : List Byte) (pz : List Nat) (h : upperTier dst = true) :
    s.engineWrite c dst bs pz = some (s.twrite c dst bs fun q => pz.contains (q - dst / 64)) := by
  rcases region_of_upperTier h with ⟨u, o, hr⟩ | ⟨u, o, hr⟩ <;> simp only [State.engineWrite, hr]

theorem State.migMove_upper {src dst : Nat} (reply : Reply) (hsrc : upperTier src = true) (hdst : upperTier dst = true) :
    s.migMove c src dst reply = .on (({ s with draws := s.draws + 1 } : State).twrite c dst (s.mem.bytes (s.key c src) 4096)
      fun q => (s.tilePoison (s.key c src)).contains (q - dst / 64)) (s.tilePoison (s.key c src)).length none := by
  have hwrite := State.engineWrite_upper { s with draws := s.draws + 1 } c (s.mem.bytes (s.key c src) 4096)
    (s.tilePoison (s.key c src)) hdst
  unfold State.migMove
  rw [s.migRead_upper c reply hsrc]
  rcases region_of_upperTier hdst with ⟨u, o, hr⟩ | ⟨u, o, hr⟩ <;> simp only [hr, hwrite]

variable {s c} {cmd : MigCmd} {n : Nat} {replies : List Reply} {r : MigRun}

theorem State.migGo_done (hdone : r.done = cmd.tiles) (hacks : r.acks = []) :
    State.migGo c cmd n replies r s = s.migEnd c 0 r.done r.poisoned := by
  unfold State.migGo
  rw [if_pos (beq_iff_eq.2 hdone), hacks]
  rfl

theorem State.migGo_on {u : State} {p : Nat} {ack : Option (Nat × Nat)} (hmore : r.done ≠ cmd.tiles)
    (hreach : s.moveRefused c (cmd.src + 4096 * r.done) (cmd.dst + 4096 * r.done) = none)
    (hmove : s.migMove c (cmd.src + 4096 * r.done) (cmd.dst + 4096 * r.done) (replies.headD (.ok [])) = .on u p ack) :
    State.migGo c cmd (n + 1) replies r s =
      State.migGo c cmd n (replies.drop 1) ⟨r.done + 1, r.poisoned + p, r.acks ++ ack.toList⟩ u := by
  rw [State.migGo, if_neg (by simpa using hmore)]
  simp only [hreach, hmove]

/-- A COPY of one tile within T0 and T1 moves it and ends. -/
theorem State.migGo_one (htiles : cmd.tiles = 1) (hsrc : upperTier cmd.src = true) (hdst : upperTier cmd.dst = true)
    (hreach : s.moveRefused c cmd.src cmd.dst = none) :
    State.migGo c cmd (n + 1) replies ⟨0, 0, []⟩ s =
      (({ s with draws := s.draws + 1 } : State).twrite c cmd.dst (s.mem.bytes (s.key c cmd.src) 4096)
        fun q => (s.tilePoison (s.key c cmd.src)).contains (q - cmd.dst / 64)).migEnd c 0 1 (s.tilePoison (s.key c cmd.src)).length := by
  have hmore : (⟨0, 0, []⟩ : MigRun).done ≠ cmd.tiles := by
    rw [htiles]
    decide
  rw [State.migGo_on hmore hreach (s.migMove_upper c _ hsrc hdst), State.migGo_done htiles.symm rfl]
  simp only [Nat.mul_zero, Nat.add_zero, Nat.zero_add]

end

/-! ## The commands at HEAD (R273) -/

section
variable {s : State} {c : CtxId} {cmd : MigCmd}

theorem exec_migCopy (c : CtxId) (n : Nat) (replies : List Reply) (s : State) :
    exec (.migCopy c n replies) s = .next (s.clocked (s.migCopy c n replies).vblPump) := rfl

theorem State.migCopy_none (n : Nat) (replies : List Reply) (h : s.migCmd c = none) : s.migCopy c n replies = s := by
  rw [State.migCopy, h]

theorem MigNext.migCopy_starts (h : MigNext s c cmd) (n : Nat) (replies : List Reply) (hop : cmd.op = 1) (hok : s.migRefused c cmd = none) :
    s.migCopy c n replies = State.migGo c cmd n replies ⟨0, 0, []⟩ (s.put (Fld.migRingStatusBusy c) 1) := by
  rw [State.migCopy, h.head]
  simp only [hop, h.fresh, hok]
  rfl

theorem MigNext.migCopy_refused {st : Nat} (h : MigNext s c cmd) (n : Nat) (replies : List Reply) (h2 : cmd.op ≠ 2) (h3 : cmd.op ≠ 3)
    (hbad : s.migRefused c cmd = some st) : s.migCopy c n replies = s.migEnd c st 0 0 := by
  rw [State.migCopy, h.head]
  simp only [h.fresh, hbad]
  exact if_neg (by simp [h2, h3])

theorem MigNext.exec_migDrop (h : MigNext s c cmd) (hop : cmd.op = 2) (hok : cmd.ok = true) :
    exec (.migDrop c) s = .next (s.clocked ((s.migDropRange c cmd.src cmd.tiles).migEnd c 0 cmd.tiles 0)) := by
  change execMigDrop c s = _
  rw [execMigDrop, h.head]
  simp only [hop, hok]
  rfl

theorem MigNext.exec_migFence (h : MigNext s c cmd) (hop : cmd.op = 3) (hok : cmd.ok = true) :
    exec (.migFence c) s = .next (s.clocked (s.migEnd c 0 0 0)) := by
  change execMigFence c s = _
  rw [execMigFence, h.head]
  simp only [hop, hok]
  rfl

theorem exec_migDrop_none (h : s.migCmd c = none) : exec (.migDrop c) s = .next s := by
  change execMigDrop c s = _
  rw [execMigDrop, h, State.clocked_self]

theorem exec_migFence_none (h : s.migCmd c = none) : exec (.migFence c) s = .next s := by
  change execMigFence c s = _
  rw [execMigFence, h, State.clocked_self]

theorem exec_migRingEnable {req : Requester} {v : BitVec 32} (h : s.accepts req (Reg.migRingCtrl c) v.toNat = true)
    (hoff : s.flag (Fld.migRingCtrlEn c) = false) : exec (.migRingEnable req c v) s =
      .next (if (s.put (Fld.migRingCtrlSizeLog2 c) (v.toNat % 32)).migRingOk c then
          (s.put (Fld.migRingCtrlSizeLog2 c) (v.toNat % 32)).ringOn c
        else (s.put (Fld.migRingCtrlSizeLog2 c) (v.toNat % 32)).misuse req) :=
  congrArg Host.Outcome.next ((State.write_of_accepts h _).trans (s.migRingCtrl_enable c req v.toNat hoff))

theorem exec_migRingTailWrite {req : Requester} {v : BitVec 32} (h : s.accepts req (Reg.migRingTail c) v.toNat = true) :
    exec (.migRingTailWrite req c v) s = .next (s.put (Fld.migRingTailTail c) (v.toNat % 4096)) :=
  congrArg Host.Outcome.next (State.write_of_accepts h _)

end

/-- Settles O44: each command's effect on tiles, and then one end of a command for all of them. -/
theorem migrationRing : Obligations.MigrationRing := by
  unfold Obligations.MigrationRing
  refine ⟨fun req c v s w h hoff hw => ⟨fun hok => ?enabled, fun hbad => ?refused⟩, fun req c v s h => exec_migRingTailWrite h,
    fun c n replies s cmd w h hop hok htiles hsrc hdst hw hreach => ?copied, fun c n replies s cmd st h h2 h3 hbad => ?bad,
    fun c s cmd h hop hok => h.exec_migDrop hop hok, fun c s cmd h hop hok => h.exec_migFence hop hok,
    fun c n replies s h => ⟨?none, exec_migDrop_none h, exec_migFence_none h⟩,
    fun s c st done pz hst => ⟨s.get_migEnd_lastStatus c done pz hst, s.flag_migEnd_busy c st done pz, s.get_migEnd_head c st done pz⟩,
    fun s c st done pz compl hcompl hne hal hup hmap => ?word⟩
  case enabled =>
    subst hw
    refine ⟨(s.put (Fld.migRingCtrlSizeLog2 c) (v.toNat % 32)).ringOn c, by rw [exec_migRingEnable h hoff, if_pos hok],
      State.flag_ringOn _ c, ?_, by rw [State.ringOn_mem, State.put_mem]⟩
    rw [State.get_ringOn_head, State.get_put_ne _ _ _ _ (migRingTail_ne_migRingCtrl c)]
  case refused =>
    subst hw
    rw [exec_migRingEnable h hoff, if_neg (ne_true_of_eq_false hbad)]
  case copied =>
    subst hw
    have hkey : (s.put (Fld.migRingStatusBusy c) 1).key c cmd.src = s.key c cmd.src := State.key_upper (s.put_ctxs _ 1) c hsrc
    rw [exec_migCopy, h.migCopy_starts _ _ hop hok, State.migGo_one htiles hsrc hdst hreach, hkey, State.tilePoison, State.put_mem]
  case bad => rw [exec_migCopy, h.migCopy_refused n replies h2 h3 hbad]
  case none => rw [exec_migCopy, State.migCopy_none n replies h]
  case word =>
    have hplace : compl = s.migCompl c := hcompl
    rw [hplace] at hne hal hup hmap ⊢
    exact ⟨State.bytes_migEnd st done pz hne hal hup hmap, State.byte_migEnd_out st done pz hne hal hup hmap⟩

end Sys2Proof.Machine

/-! # Staging pools (R255 to R258, R397)

A reservation evicts no tile that it wants, and gives each tile that it adds the next place that no kept tile has. -/

namespace Sys2Proof.Machine
open Sys2Proof

/-! ## Copies that make room (R257) -/

section
variable {α : Type} (q : α → Bool)

theorem dropFirstN_sublist : ∀ (n : Nat) (l : List α), (dropFirstN q n l).Sublist l
  | _, [] => by simp [dropFirstN]
  | 0, a :: l => by simp [dropFirstN]
  | n + 1, a :: l => by
    rw [dropFirstN]
    split
    · exact (dropFirstN_sublist n l).cons a
    · exact (dropFirstN_sublist (n + 1) l).cons_cons a

variable {q} in
theorem mem_dropFirstN {a : α} (hq : q a = false) : ∀ (n : Nat) (l : List α), a ∈ l → a ∈ dropFirstN q n l
  | _, [], h => by simp at h
  | 0, b :: l, h => by simpa [dropFirstN] using h
  | n + 1, b :: l, h => by
    rw [dropFirstN]
    rcases List.mem_cons.1 h with rfl | h
    · simp [hq]
    · split
      · exact mem_dropFirstN hq n l h
      · exact List.mem_cons_of_mem _ (mem_dropFirstN hq (n + 1) l h)

/-- Where enough members satisfy the test, as many leave as are asked to. -/
theorem length_dropFirstN : ∀ (n : Nat) (l : List α), n ≤ (l.filter q).length → (dropFirstN q n l).length + n = l.length
  | n, [], h => by simpa [dropFirstN] using h
  | 0, a :: l, _ => by simp [dropFirstN]
  | n + 1, a :: l, h => by
    rw [dropFirstN]
    rw [List.filter_cons] at h
    split
    · next ha =>
      rw [if_pos ha, List.length_cons] at h
      have ih := length_dropFirstN n l (by omega)
      rw [List.length_cons]
      omega
    · next ha =>
      rw [if_neg ha] at h
      have ih := length_dropFirstN (n + 1) l h
      rw [List.length_cons, List.length_cons]
      omega

end

/-! ## Free places -/

/-- The places below as many as are used and wanted together that are not used. -/
def freePlaces (used : List Nat) (n : Nat) : List Nat := (List.range (used.length + n)).filter fun k => !used.contains k

section
variable (used : List Nat) (n : Nat)

theorem freePlaces_nodup : (freePlaces used n).Nodup := List.nodup_range.filter _

theorem lt_of_mem_freePlaces {used : List Nat} {n k : Nat} (h : k ∈ freePlaces used n) : k < used.length + n :=
  List.mem_range.1 (List.mem_filter.1 h).1

theorem not_mem_of_mem_freePlaces {used : List Nat} {n k : Nat} (h : k ∈ freePlaces used n) : k ∉ used := by
  simpa using (List.mem_filter.1 h).2

/-- No more places are taken than are used, so as many are free as are wanted. -/
theorem le_length_freePlaces : n ≤ (freePlaces used n).length := by
  have htaken : ((List.range (used.length + n)).filter used.contains).length ≤ used.length :=
    (List.subperm_of_subset (List.nodup_range.filter _) fun k hk => by simpa using (List.mem_filter.1 hk).2).length_le
  have hsplit := (List.filter_append_perm used.contains (List.range (used.length + n))).length_eq
  rw [List.length_append, List.length_range] at hsplit
  unfold freePlaces
  omega

theorem map_getD_zipIdx {l : List Nat} {new : List Nat} (h : new.length ≤ l.length) :
    new.zipIdx.map (fun x => l.getD x.2 0) = l.take new.length := by
  refine List.ext_getElem (by simpa using h) fun i hi _ => ?_
  have hlt : i < new.length := by simpa using hi
  simp [List.getD_eq_getElem?_getD, List.getElem?_eq_getElem (hlt.trans_le h)]

end

/-! ## A reservation (R256) -/

/-- A copy that a slot's instruction holds, and keeps where it asks for PLACE 1. -/
def Staged.heldBy (y : Staged) (k : Nat) (want : List (Nat × Bool)) : Staged :=
  { y with
    holders := if y.holders.contains k then y.holders else y.holders ++ [k]
    pins := if (want.any fun w => w.2 && w.1 == y.addr) && !y.pins.contains k then y.pins ++ [k] else y.pins }

theorem Staged.mem_holders_heldBy (y : Staged) (k : Nat) (want : List (Nat × Bool)) : k ∈ (y.heldBy k want).holders := by
  unfold Staged.heldBy
  dsimp only
  split
  · next h => simpa using h
  · simp

/-- The tiles that a reservation names, each once. -/
def wantedTiles (want : List (Nat × Bool)) : List Nat := (want.map (·.1)).eraseDups

theorem mem_wantedTiles {want : List (Nat × Bool)} {w : Nat × Bool} (h : w ∈ want) : w.1 ∈ wantedTiles want :=
  List.mem_eraseDups.2 (List.mem_map_of_mem h)

section
variable (p : Pool) (limit k : Nat) (want : List (Nat × Bool))

/-- The tiles that stay in the pool when room is made for those that are missing. -/
def Pool.kept : List Staged :=
  dropFirstN (p.evictable limit (wantedTiles want)) (p.tiles.length + (p.missing (wantedTiles want)).length - limit) p.tiles

/-- The tiles that join the pool, each in a place of its own. -/
def Pool.fresh : List Staged :=
  (p.missing (wantedTiles want)).zipIdx.map fun x =>
    Staged.heldBy ⟨x.1, (freePlaces ((p.kept limit want).map (·.place)) (p.missing (wantedTiles want)).length).getD x.2 0, [], [], false,
      false⟩ k want

variable {p limit k want} {q : Pool}

/-- What a reservation finds and leaves: evictable copies make room for what is missing, and the wanted tiles are held. -/
theorem Pool.reserve_some (h : p.reserve limit (some k) want = some q) :
    p.tiles.length + (p.missing (wantedTiles want)).length ≤ limit + (p.tiles.filter (p.evictable limit (wantedTiles want))).length ∧
    q.tiles = ((p.kept limit want).filter fun y => !(wantedTiles want).contains y.addr) ++
      ((p.kept limit want).filter fun y => (wantedTiles want).contains y.addr).map (fun y => y.heldBy k want) ++ p.fresh limit k want := by
  unfold Pool.reserve at h
  dsimp only at h
  split at h
  · cases h
  · next hroom =>
    cases h
    exact ⟨Nat.not_lt.1 hroom, rfl⟩

theorem Pool.length_kept (h : p.reserve limit (some k) want = some q) :
    (p.kept limit want).length + (p.missing (wantedTiles want)).length ≤ limit := by
  obtain ⟨hroom, -⟩ := Pool.reserve_some h
  have hev := List.length_filter_le (p.evictable limit (wantedTiles want)) p.tiles
  have hlen : (p.kept limit want).length + (p.tiles.length + (p.missing (wantedTiles want)).length - limit) = p.tiles.length :=
    length_dropFirstN _ _ _ (by omega)
  omega

theorem Pool.map_place_fresh : (p.fresh limit k want).map (·.place) =
    (freePlaces ((p.kept limit want).map (·.place)) (p.missing (wantedTiles want)).length).take (p.missing (wantedTiles want)).length := by
  rw [← map_getD_zipIdx (le_length_freePlaces ..), Pool.fresh, List.map_map]
  rfl

/-- The places of a pool after a reservation: those of the tiles that stay, and free ones. -/
theorem Pool.places_reserve (h : p.reserve limit (some k) want = some q) : (q.tiles.map (·.place)).Perm
    ((p.kept limit want).map (·.place) ++ (freePlaces ((p.kept limit want).map (·.place)) (p.missing (wantedTiles want)).length).take
      (p.missing (wantedTiles want)).length) := by
  obtain ⟨-, htiles⟩ := Pool.reserve_some h
  have hold : (((p.kept limit want).filter fun y => (wantedTiles want).contains y.addr).map (fun y => y.heldBy k want)).map (·.place) =
      ((p.kept limit want).filter fun y => (wantedTiles want).contains y.addr).map (·.place) := by
    rw [List.map_map]
    rfl
  rw [htiles, List.map_append, List.map_append, hold, Pool.map_place_fresh, ← List.map_append]
  refine List.Perm.append_right _ (List.Perm.map _ (List.perm_append_comm.trans ?_))
  exact List.filter_append_perm (fun y : Staged => (wantedTiles want).contains y.addr) _

/-- A wanted tile that lies in the pool is not evicted, and one that does not is added; either way the slot holds it. -/
theorem Pool.reserve_holds (h : p.reserve limit (some k) want = some q) {w : Nat × Bool} (hw : w ∈ want) :
    ∃ y, y ∈ q.tiles ∧ y.addr = w.1 ∧ k ∈ y.holders := by
  obtain ⟨-, htiles⟩ := Pool.reserve_some h
  have hwanted := mem_wantedTiles hw
  rw [htiles]
  by_cases hin : ∃ y ∈ p.tiles, y.addr = w.1
  · obtain ⟨y, hy, haddr⟩ := hin
    have hcontains : (wantedTiles want).contains y.addr = true := by simpa [haddr] using hwanted
    have hstays : y ∈ p.kept limit want := mem_dropFirstN (by simp [Pool.evictable, haddr, hwanted]) _ _ hy
    refine ⟨y.heldBy k want, ?_, haddr, y.mem_holders_heldBy k want⟩
    exact List.mem_append_left _ (List.mem_append_right _ (List.mem_map_of_mem (List.mem_filter.2 ⟨hstays, hcontains⟩)))
  · have hmissing : w.1 ∈ p.missing (wantedTiles want) := List.mem_filter.2 ⟨hwanted, by simpa using hin⟩
    obtain ⟨i, hi, he⟩ := List.mem_iff_getElem.1 hmissing
    refine ⟨_, List.mem_append_right _ (List.mem_map_of_mem (List.mk_mem_zipIdx_iff_getElem?.2 (List.getElem?_eq_getElem hi))), he,
      Staged.mem_holders_heldBy ..⟩

theorem Pool.length_reserve (h : p.reserve limit (some k) want = some q) : q.tiles.length ≤ limit := by
  have hperm := (Pool.places_reserve h).length_eq
  have hkept := Pool.length_kept h
  simp only [List.length_map, List.length_append, List.length_take] at hperm
  omega

theorem Pool.nodup_reserve (h : p.reserve limit (some k) want = some q) (hnodup : (p.tiles.map (·.place)).Nodup) :
    (q.tiles.map (·.place)).Nodup := by
  rw [(Pool.places_reserve h).nodup_iff, List.nodup_append']
  refine ⟨((dropFirstN_sublist ..).map _).nodup hnodup, (List.take_sublist ..).nodup (freePlaces_nodup ..), fun x hx hfree => ?_⟩
  exact not_mem_of_mem_freePlaces (List.mem_of_mem_take hfree) hx

theorem Pool.place_lt_reserve (h : p.reserve limit (some k) want = some q) (hlt : ∀ y, y ∈ p.tiles → y.place < limit) :
    ∀ y, y ∈ q.tiles → y.place < limit := by
  intro y hy
  have hplace := (Pool.places_reserve h).mem_iff.1 (List.mem_map_of_mem hy)
  rcases List.mem_append.1 hplace with hkept | hfree
  · obtain ⟨x, hx, he⟩ := List.mem_map.1 hkept
    exact he ▸ hlt x ((dropFirstN_sublist ..).mem hx)
  · have hbound := lt_of_mem_freePlaces (List.mem_of_mem_take hfree)
    rw [List.length_map] at hbound
    exact hbound.trans_le (Pool.length_kept h)

end

end Sys2Proof.Machine

/-! # Staging, acknowledgement and memory errors (R255 to R258, R266 to R272, R397)

What a command of the staging engine does is one of a few named operations; what it notes of stalls touches tasks alone, and an error's
count and event touch neither memory nor what the error's context is. -/

namespace Sys2Proof.Machine
open Sys2Proof

/-! ## Noting stalls changes tasks alone (R262) -/

section
variable (s : State) (core c : Nat)

theorem State.noteStage_eq (slot : Nat) : ∃ ts, s.noteStage core slot = { s with cores.tasks := ts } := by
  unfold State.noteStage
  split
  · split
    · exact ⟨_, rfl⟩
    · exact ⟨s.cores.tasks, rfl⟩
  · exact ⟨s.cores.tasks, rfl⟩

theorem State.noteCore_eq : ∃ ts, s.noteCore core = { s with cores.tasks := ts } :=
  List.foldlRecOn (motive := fun u : State => ∃ ts, u = { s with cores.tasks := ts }) _ _ ⟨s.cores.tasks, rfl⟩ fun u hu k _ => by
    obtain ⟨ts, rfl⟩ := hu
    exact State.noteStage_eq { s with cores.tasks := ts } core k

/-! ## The engine serves a reservation (R255, R256) -/

variable {s core c} {slot a limit : Nat} {rest : List Nat} {t : Task} {want : List (Nat × Bool)} {p q : Pool}

theorem exec_stageReserve_task (core : CoreId) (s : State) :
    exec (.stageReserve core none) s = .next (s.clocked ((s.reserveHead core).noteCore core).vblPump) := rfl

theorem exec_stageReserve_ahead (core : CoreId) (c : CtxId) (s : State) :
    exec (.stageReserve core (some c)) s = .next (s.clocked (s.reserveAhead core c).vblPump) := rfl

theorem State.reserveHead_some (hqueue : SMap.getD s.cores.stageQueue core [] = slot :: rest) (htask : s.task? core slot = some t)
    (hstate : t.state = .waiting) (hwait : t.wait = some (.tiles want))
    (hp : (s.pool core t.ctx).reserve (s.stageTiles t.ctx) (some slot) want = some p) : s.reserveHead core =
      ((s.requestT3 core t.ctx ((s.pool core t.ctx).missing ((want.map (·.1)).eraseDups))).setPool core t.ctx p).leaveStage core slot := by
  unfold State.reserveHead
  simp only [hqueue, htask, hstate, hwait, hp]

theorem State.reserveHead_none (hqueue : SMap.getD s.cores.stageQueue core [] = slot :: rest) (htask : s.task? core slot = some t)
    (hstate : t.state = .waiting) (hwait : t.wait = some (.tiles want))
    (hp : (s.pool core t.ctx).reserve (s.stageTiles t.ctx) (some slot) want = none) : s.reserveHead core = s := by
  unfold State.reserveHead
  simp only [hqueue, htask, hstate, hwait, hp]

theorem State.reserveAhead_some (hahead : (s.pool core c).ahead = a :: rest) (hq : q = { s.pool core c with ahead := rest })
    (hp : q.reserve (s.stageTiles c) none [(a, false)] = some p) : s.reserveAhead core c =
      ((s.setPool core c q).requestT3 core c ((s.pool core c).missing [a])).setPool core c p := by
  subst hq
  have hlimit : (s.setPool core c { s.pool core c with ahead := rest }).stageTiles c = s.stageTiles c := rfl
  unfold State.reserveAhead
  simp only [hahead, hlimit, hp]

end

/-! ## A tile returns (R255, R266) -/

section
variable {s : State} {core c a o : Nat} {reply : Reply}

theorem exec_stageComplete (core : CoreId) (c : CtxId) (tile : BitVec 32) (found : List EccAt) (reply : Reply) (s : State) :
    exec (.stageComplete core c tile found reply) s = .next (s.clocked (s.stageComplete core c (tile.toNat * 4096) found reply)) := rfl

/-- A tile of a channel in service comes from its stack with its poison. -/
theorem State.t2Deliver_up (ho : o % 4096 = 0) (hup : s.chanUp (s.t2Key (s.partOf c) o).1 = true) : s.t2Deliver c o [] =
    (s, s.mem.bytes (s.t2Key (s.partOf c) o).2 4096,
      (List.range 64).filter fun q => s.mem.poisoned (((s.t2Key (s.partOf c) o).2 + 64 * q) / 64)) := by
  have htile : o / 4096 * 4096 = o := Nat.div_mul_cancel (Nat.dvd_of_mod_eq_zero ho)
  simp only [State.t2Deliver, htile, State.t2Read, hup, Bool.not_true, Bool.false_eq_true, if_false, if_true, List.foldl_nil]

theorem mod_of_region_t2 (ha : a % 4096 = 0) (h : region a = .t2 o) : o % 4096 = 0 := by
  unfold region at h
  split_ifs at h
  have ho := Region.t2.inj h
  omega

theorem State.stageComplete_t2 (hwaits : ((s.pool core c).tiles.any fun y => y.addr == a && !y.landed) = true) (ha : a % 4096 = 0)
    (hreg : region a = .t2 o) (hup : s.chanUp (s.t2Key (s.partOf c) o).1 = true) : s.stageComplete core c a [] reply =
      (s.noteCore core).landCopy core c a (s.mem.bytes (s.t2Key (s.partOf c) o).2 4096)
        ((List.range 64).filter fun q => s.mem.poisoned (((s.t2Key (s.partOf c) o).2 + 64 * q) / 64)) := by
  obtain ⟨ts, hnote⟩ := s.noteCore_eq core
  have hdeliver := State.t2Deliver_up (s := { s with cores.tasks := ts }) (mod_of_region_t2 ha hreg) hup
  unfold State.stageComplete
  rw [hwaits, hnote]
  simp only [Bool.not_true, Bool.false_eq_true, if_false, hreg, hdeliver]
  rfl

theorem State.stageComplete_t3 {i : Nat} {found : List EccAt}
    (hwaits : ((s.pool core c).tiles.any fun y => y.addr == a && !y.landed) = true) (hreg : region a = .t3 i o) :
    s.stageComplete core c a found reply = (s.noteCore core).engineReply c (.stage core a) reply := by
  unfold State.stageComplete
  rw [hwaits]
  simp only [Bool.not_true, Bool.false_eq_true, if_false, hreg]

variable {e : EngineRead} {r : Req}

theorem State.engineReply_ok {data : List Byte}
    (hreq : (s.vbl.reqs.find? fun q => q.ctx == c && q.use == .engine e && q.first.isSome) = some r) (hfar : r.dst ≠ s.ownNode) :
    s.engineReply c e (.ok data) = ((s.dropReq r.num).engineAnswer c e (.ok data)).vblPump := by
  unfold State.engineReply
  simp only [hreq, beq_iff_eq, if_neg hfar]

theorem State.engineReply_status {k : Nat}
    (hreq : (s.vbl.reqs.find? fun q => q.ctx == c && q.use == .engine e && q.first.isSome) = some r) (hfar : r.dst ≠ s.ownNode) :
    s.engineReply c e (.status k) = (((s.outcome r k).dropReq r.num).engineAnswer c e (.status k)).vblPump := by
  unfold State.engineReply
  simp only [hreq, beq_iff_eq, if_neg hfar]

theorem State.stageAnswer_ok {data : List Byte} (h : data.length = 4096) : s.stageAnswer core c a (.ok data) =
    ({ s with draws := s.draws + 1 } : State).landCopy core c a data [] := by
  have hbytes : (data ++ List.replicate 4096 0#8).take 4096 = data := List.take_left' h
  simp only [State.stageAnswer, State.replyBytes, hbytes]

theorem State.replyBytes_status {n k : Nat} (h : k ≠ 5) : s.replyBytes n (.status k) = .error k := by
  unfold State.replyBytes
  split
  · next hk => cases hk
  · next hk => cases hk
  · next hk =>
    cases hk
    exact absurd rfl h
  · next hk =>
    cases hk
    rfl

theorem State.stageAnswer_status {k : Nat} (h : k ≠ 5) :
    s.stageAnswer core c a (.status k) = (s.endStage core c a).faultCtx c 6 (s.leafOn c core) := by
  rw [State.stageAnswer, State.replyBytes_status h]

theorem State.leafOn_congr {u : State} (h : u.ctxs = s.ctxs) : u.leafOn c core = s.leafOn c core := by
  rw [State.leafOn, State.leafOn, State.ctx, State.ctx, h]

theorem State.raiseCtx_ctxs (u : State) (src code sev d w2 w3 : Nat) : (u.raiseCtx src code sev d w2 w3).ctxs = u.ctxs := by
  obtain ⟨raised, lost, h⟩ := u.raiseCtx_eq src code sev d w2 w3
  rw [h]

/-- An outcome counts and reports, and changes no context (R394, R422). -/
theorem State.outcome_ctxs (u : State) (r : Req) (k : Nat) : (u.outcome r k).ctxs = u.ctxs := by
  unfold State.outcome
  dsimp only
  split_ifs <;> simp only [State.raiseCtx_ctxs, State.bump_ctxs]

/-- The first copy of a tile that waits for it takes the tile (R255). -/
theorem State.landCopy_of_find {data : List Byte} {pz : List Nat} {y : Staged}
    (h : (s.pool core c).tiles.find? (fun y => y.addr == a && !y.landed) = some y) : s.landCopy core c a data pz =
      (s.twrite c (s.stageAddr core c y.place) data fun q => pz.contains (q - s.stageAddr core c y.place / 64)).setPool core c
        { s.pool core c with tiles := (s.pool core c).tiles.map fun y =>
          if y.addr == a && !y.landed then { y with landed := true } else y } := by
  unfold State.landCopy
  simp only [h]

theorem State.pool_setPool (u : State) (p : Pool) : (u.setPool core c p).pool core c = p := SMap.getD_putD_same ..

end

/-! ## A T2 write is acknowledged (R258) -/

section
variable {s : State} {p tile : Nat}

/-- The pools without the copies of a partition's T2 tile. -/
def State.poolsWithout (s : State) (p tile : Nat) : SMap Pool :=
  (s.cores.pools.map fun (q : Nat × Pool) =>
    if s.partOf (q.1 % 64) == p then
      (q.1, { q.2 with tiles := q.2.tiles.filter fun y => y.addr != 0x20000000000 + 4096 * tile }) else q).filter
    fun q => q.2 != ⟨[], []⟩

/-- The write of a T2 tile has been acknowledged. -/
def State.t2Acked (s : State) (p tile : Nat) : State :=
  { s with cores.pools := s.poolsWithout p tile, mem.acks := s.mem.acks.filter fun a => a != (p, tile) }

theorem State.t2Ack_free (hacks : s.mem.acks.contains (p, tile) = true)
    (hfree : ((s.copiesOf p tile).any fun y => !y.2.holders.isEmpty) = false) : s.t2Ack p tile = s.t2Acked p tile := by
  unfold State.t2Ack
  rw [if_neg (by rw [hacks, hfree]; decide)]
  rfl

theorem State.t2Ack_held (hheld : ((s.copiesOf p tile).any fun y => !y.2.holders.isEmpty) = true) : s.t2Ack p tile = s := by
  unfold State.t2Ack
  rw [if_pos (by rw [hheld, Bool.or_true])]

theorem State.not_awaited_t2Acked : (s.t2Acked p tile).mem.acks.contains (p, tile) = false := by
  simp [State.t2Acked]

theorem State.copiesOf_t2Acked : (s.t2Acked p tile).copiesOf p tile = [] := by
  refine List.flatMap_eq_nil_iff.2 fun q hq => ?_
  obtain ⟨x, -, rfl⟩ := List.mem_map.1 (List.mem_filter.1 hq).1
  have hpart : ∀ k, (s.t2Acked p tile).partOf k = s.partOf k := fun _ => rfl
  by_cases hx : s.partOf (x.1 % 64) == p
  · rw [if_pos hx, hpart, if_pos hx, List.map_eq_nil_iff, List.filter_filter]
    simp
  · rw [if_neg hx, hpart, if_neg hx]

theorem State.lateGo_nil (h : s.vbl.late = []) : s.lateGo = s := by
  unfold State.lateGo
  rw [h, List.filter_nil, List.filter_nil, List.foldl_nil, ← h]

/-- A write from the fabric that waits for no tile any more is answered. -/
theorem State.lateGo_one {m : RxMsg} {cls : Nat} {ks : List (Nat × Nat)} (h : s.vbl.late = [(m, cls, ks)])
    (hacks : ks.any s.mem.acks.contains = false) :
    s.lateGo = (({ s with vbl.late := [] } : State).respond m cls 0 0 []).vblPump := by
  have hwaits : s.vbl.late.filter (fun w => w.2.2.any s.mem.acks.contains) = [] := by
    rw [h, List.filter_cons_of_neg (by simp [hacks]), List.filter_nil]
  have hdue : s.vbl.late.filter (fun w => !w.2.2.any s.mem.acks.contains) = [(m, cls, ks)] := by
    rw [h, List.filter_cons_of_pos (by simp [hacks]), List.filter_nil]
  unfold State.lateGo
  rw [hwaits, hdue, List.foldl_cons, List.foldl_nil, vOk]

theorem exec_t2WriteAck (p : PartId) (tile : BitVec 32) (h : s.lvrs = []) :
    exec (.t2WriteAck p tile) s = .next (s.clocked (s.t2Ack p tile.toNat).lateGo) := by
  change execT2WriteAck p tile s = _
  rw [execT2WriteAck, h]
  rfl

end

/-! ## Errors of memories (R266 to R272) -/

section
variable {s : State} {f : EccFinding}

theorem exec_patrolScrub_access {c : CtxId} (hctx : f.ctx = some c) : exec (.patrolScrub f) s =
    .next (s.clocked (s.eccFound f.mem.code f.unit.val f.off.toNat f.ue c f.write)) := by
  change execPatrolScrub f s = _
  rw [execPatrolScrub, hctx]

theorem exec_patrolScrub_scrubber (hctx : f.ctx = none) (hen : s.flag Fld.migScrubEn = true) : exec (.patrolScrub f) s =
    .next (s.clocked (s.eccFound f.mem.code f.unit.val f.off.toNat f.ue 0xFF false)) := by
  change execPatrolScrub f s = _
  rw [execPatrolScrub, hctx]
  simp only [hen, if_true]

theorem exec_patrolScrub_off (hctx : f.ctx = none) (hen : s.flag Fld.migScrubEn = false) : exec (.patrolScrub f) s = .next s := by
  change execPatrolScrub f s = _
  rw [execPatrolScrub, hctx]
  simp only [hen, Bool.false_eq_true, if_false, State.clocked_self]

variable {who : Nat} {write : Bool}

/-- Nothing is logged on a lost channel, and in a poisoned sector only what a partial write finds uncorrectable (R266, R269). -/
def State.silent (s : State) (f : EccFinding) (write : Bool) : Bool :=
  (f.mem.code == 2 && !s.chanUp f.unit.val) || (s.mem.poisoned (eccSector f) && !(write && f.ue))

theorem State.not_silent (hup : f.mem.code = 2 → s.chanUp f.unit.val = true)
    (h : s.mem.poisoned (eccSector f) = false ∨ (write && f.ue) = true) : s.silent f write = false := by
  rw [State.silent, Bool.or_eq_false_iff, Bool.and_eq_false_iff, Bool.and_eq_false_iff, beq_eq_false_iff_ne, Bool.not_eq_false',
    Bool.not_eq_false']
  exact ⟨or_iff_not_imp_left.2 fun hmem => hup (not_not.1 hmem), h⟩

theorem State.silent_of_poisoned (hq : s.mem.poisoned (eccSector f) = true) (h : (write && f.ue) = false) : s.silent f write = true := by
  rw [State.silent, hq, h, Bool.not_false, Bool.and_self, Bool.or_true]

theorem State.silent_of_down (hmem : f.mem.code = 2) (hdown : s.chanUp f.unit.val = false) : s.silent f write = true := by
  rw [State.silent, hmem, hdown]
  rfl

theorem State.eccFound_silent (h : s.silent f write = true) : s.eccFound f.mem.code f.unit.val f.off.toNat f.ue who write = s := by
  unfold State.eccFound
  exact if_pos h

theorem exec_patrolScrub_silent (hscrub : s.silent f false = true) (haccess : f.ctx ≠ none → s.silent f f.write = true) :
    exec (.patrolScrub f) s = .next s := by
  cases hctx : f.ctx with
  | none =>
    cases hen : s.flag Fld.migScrubEn with
    | false => exact exec_patrolScrub_off hctx hen
    | true => rw [exec_patrolScrub_scrubber hctx hen, State.eccFound_silent hscrub, State.clocked_self]
  | some c => rw [exec_patrolScrub_access hctx, State.eccFound_silent (haccess (by simp [hctx])), State.clocked_self]

theorem State.eccFound_ce (h : s.silent f write = false) (hue : f.ue = false) :
    s.eccFound f.mem.code f.unit.val f.off.toNat f.ue who write = s.bump (ceField f.mem.code) := by
  unfold State.eccFound
  refine (if_neg (ne_true_of_eq_false h)).trans (if_pos ?_)
  rw [hue]
  rfl

theorem ueField_ne_ctxCfg (mem : Nat) (c : CtxId) : Reg.ctxCfg c ≠ (ueField mem).addr := by
  have hcfg : blockBase 96 49 ≤ Reg.ctxCfg c := by
    simp only [Reg.ctxCfg, Block.base]
    omega
  have hue : (ueField mem).addr < blockBase 96 49 := by
    unfold ueField
    split <;> decide
  omega

theorem State.eccFound_ue {part : Nat} (h : s.silent f write = false) (hue : f.ue = true)
    (hpart : (if who == 0xFF then 0xFF else (({ s with mem := s.mem.setPoison (eccSector f) } : State).bump (ueField f.mem.code)).partOf who) =
      part) :
    s.eccFound f.mem.code f.unit.val f.off.toNat f.ue who write = s.ueSeen f who part write := by
  subst hpart
  unfold State.eccFound
  refine (if_neg (ne_true_of_eq_false h)).trans (if_neg ?_)
  rw [hue]
  decide

theorem partOf_ueSeen (c : CtxId) : (if (c : Nat) == 0xFF then 0xFF else
    (({ s with mem := s.mem.setPoison (eccSector f) } : State).bump (ueField f.mem.code)).partOf c) = s.partOf c := by
  have hc : ((c : Nat) == 0xFF) = false := beq_false_of_ne (by omega)
  rw [hc, if_neg Bool.false_ne_true, State.partOf, State.bump, State.get_put_ne _ _ _ _ (ueField_ne_ctxCfg _ c)]
  rfl

theorem State.raise_mem (u : State) (src code sev ctx part w2 w3 : Nat) : (u.raise src code sev ctx part w2 w3).mem = u.mem := by
  unfold State.raise
  split
  · rfl
  · split <;> rfl

theorem State.poisoned_ueSeen (part : Nat) : (s.ueSeen f who part write).mem.poisoned (eccSector f) = true := by
  rw [State.ueSeen, State.raise_mem, State.bump_mem]
  change (setRange _ _ _ _).contains _ = true
  rw [mem_setRange]
  simp

end

/-! ## A stack is lost (R266) -/

section
variable {s : State}

theorem State.chanUp_eq {m : Nat} (h : m < 16) : s.chanUp m = bitAt (s.get Fld.migChanUpUp) m := by
  have hbit := bitAt_field (s.rd Reg.migChanUp) 0 16 m
  rw [decide_eq_true h, Bool.true_and, Nat.zero_add] at hbit
  exact hbit.symm

theorem State.chanUp_put {m : Nat} (h : m < 16) (v : Nat) : (s.put Fld.migChanUpUp v).chanUp m = bitAt v m := by
  have hbit := bitAt_field v 0 16 m
  rw [decide_eq_true h, Bool.true_and, Nat.zero_add] at hbit
  rw [State.chanUp_eq h, State.get_put_same _ _ _ (by decide)]
  exact hbit

theorem State.chanUp_raiseMod (m src code sev w2 w3 : Nat) : (s.raiseMod src code sev w2 w3).chanUp m = s.chanUp m := by
  unfold State.raiseMod State.raise
  split
  · rfl
  · split <;> rfl

theorem State.raiseMod_of_none (h : s.raised = []) (src code sev w2 w3 : Nat) : (s.raiseMod src code sev w2 w3).raised =
    [⟨s.tick, src, code, 0xFF, 0xFF, sev, BitVec.ofNat 64 w2, BitVec.ofNat 64 w3⟩] := by
  simp [State.raiseMod, State.raise, h]

/-- A channel goes out of service. -/
def State.chanLost (s : State) (m : Nat) : State := s.put Fld.migChanUpUp (setBit (s.get Fld.migChanUpUp) m false)

theorem exec_t2Lost_up {m : ChanId} (hlock : s.flag Fld.timStatusPllLock = true) (h : s.chanUp m = true) : exec (.t2Lost m) s =
    .next ((s.chanLost m).raiseMod (srcEdge (chanEdge m)) 0x0311 4 m 0) := by
  change execT2Lost m s = _
  rw [execT2Lost, State.clocked, if_pos hlock, if_pos h]
  rfl

theorem exec_t2Lost_down {m : ChanId} (h : s.chanUp m = false) : exec (.t2Lost m) s = .next s := by
  change execT2Lost m s = _
  rw [execT2Lost, if_neg (ne_true_of_eq_false h), State.clocked_self]

end

/-- Settles O43: each command's path through the engine, with the law of the reservation, of the acknowledgement or of the error. -/
theorem stagingPoolAndMemoryErrors : Obligations.StagingPoolAndMemoryErrors := by
  unfold Obligations.StagingPoolAndMemoryErrors
  refine ⟨fun core s slot rest t want p hqueue htask hstate hwait hp => ?reserves,
    fun core s slot rest t want hqueue htask hstate hwait hp => ?full,
    fun p q limit k want h => ⟨fun w hw => Pool.reserve_holds h hw, fun _ => Pool.length_reserve h, Pool.nodup_reserve h,
      Pool.place_lt_reserve h⟩,
    fun core c s a rest q p hahead hq hp => ?ahead, fun core c tile reply s o hwaits hreg hup => ?fromT2,
    fun core c tile found data s i o r hwaits hreg hreq hfar hlen => ?fromT3, fun s core c a data pz y h _ => ?lands,
    fun core c tile found k s i o r hwaits hreg hreq hfar hk => ?refused, fun p tile s hlock hlvrs hlate hacks hfree => ?acked,
    fun p tile s m cls hlvrs hlate hacks hfree => ?answered, fun p tile s hlvrs hlate hheld => ?held,
    fun f s hctx hen hup hq hue => ?scrubUe, fun f c s hctx hup hue hq => ?accessUe, fun f s hen hup hq hue => ?ce,
    fun f s hq hquiet => ?poisoned, fun f s hmem hdown => ?lostChannel, fun f s hctx hen => exec_patrolScrub_off hctx hen,
    fun f who part write s => State.poisoned_ueSeen part, fun m s hlock hup => ?lost, fun m s hdown => exec_t2Lost_down hdown⟩
  case reserves => rw [exec_stageReserve_task, State.reserveHead_some hqueue htask hstate hwait hp]
  case full => rw [exec_stageReserve_task, State.reserveHead_none hqueue htask hstate hwait hp]
  case ahead => rw [exec_stageReserve_ahead, State.reserveAhead_some hahead hq hp]
  case fromT2 => rw [exec_stageComplete, State.stageComplete_t2 hwaits (Nat.mul_mod_left ..) hreg hup]
  case fromT3 =>
    obtain ⟨ts, hnote⟩ := s.noteCore_eq core
    rw [exec_stageComplete, State.stageComplete_t3 hwaits hreg, hnote,
      State.engineReply_ok (s := { s with cores.tasks := ts }) hreq hfar, State.engineAnswer, State.stageAnswer_ok hlen]
    rfl
  case lands =>
    rw [State.landCopy_of_find h]
    refine ⟨rfl, ?_⟩
    rw [State.pool_setPool]
    have hmatch : (y.addr == a && !y.landed) = true := List.find?_some (p := fun y : Staged => y.addr == a && !y.landed) h
    exact List.mem_map.2 ⟨y, List.mem_of_find?_eq_some h, if_pos hmatch⟩
  case refused =>
    have hleaf : ∀ ts, ((({ s with cores.tasks := ts } : State).outcome r k).dropReq r.num).leafOn c core = s.leafOn c core := fun ts =>
      State.leafOn_congr (State.outcome_ctxs { s with cores.tasks := ts } r k)
    obtain ⟨ts, hnote⟩ := s.noteCore_eq core
    rw [exec_stageComplete, State.stageComplete_t3 hwaits hreg, hnote,
      State.engineReply_status (s := { s with cores.tasks := ts }) hreq hfar, State.engineAnswer, State.stageAnswer_status hk, hleaf ts]
  case acked =>
    refine ⟨s.t2Acked p tile.toNat, ?_, s.not_awaited_t2Acked, s.copiesOf_t2Acked, rfl⟩
    rw [exec_t2WriteAck p tile hlvrs, State.t2Ack_free hacks hfree, State.lateGo_nil (s := s.t2Acked p tile.toNat) hlate,
      State.clocked, if_pos hlock]
  case answered =>
    have hack : s.t2Ack p tile.toNat = s.t2Acked p tile.toNat := State.t2Ack_free (by simp [hacks]) hfree
    have hnone : (s.t2Acked p tile.toNat).mem.acks = [] := by simp [State.t2Acked, hacks]
    rw [exec_t2WriteAck p tile hlvrs, hack, State.lateGo_one (s := s.t2Acked p tile.toNat) hlate (by simp [hnone])]
  case held => rw [exec_t2WriteAck p tile hlvrs, State.t2Ack_held hheld, State.lateGo_nil hlate, State.clocked_self]
  case scrubUe =>
    rw [exec_patrolScrub_scrubber hctx hen, State.eccFound_ue (State.not_silent hup (.inl hq)) hue rfl]
    rfl
  case accessUe =>
    have hseen : s.silent f f.write = false := State.not_silent hup (hq.imp_right fun hw => by rw [hw, hue]; rfl)
    rw [exec_patrolScrub_access hctx, State.eccFound_ue hseen hue (partOf_ueSeen c)]
  case ce =>
    have hseen : ∀ write, s.silent f write = false := fun _ => State.not_silent hup (.inl hq)
    cases hctx : f.ctx with
    | none => rw [exec_patrolScrub_scrubber hctx (hen hctx), State.eccFound_ce (hseen _) hue]
    | some c => rw [exec_patrolScrub_access hctx, State.eccFound_ce (hseen _) hue]
  case poisoned =>
    refine exec_patrolScrub_silent (State.silent_of_poisoned hq rfl) fun hctx => State.silent_of_poisoned hq ?_
    rcases hquiet with hnone | hread | hce
    · exact absurd hnone hctx
    · rw [hread, Bool.false_and]
    · rw [hce, Bool.and_false]
  case lostChannel => exact exec_patrolScrub_silent (State.silent_of_down hmem hdown) fun _ => State.silent_of_down hmem hdown
  case lost =>
    refine ⟨_, ⟨s.tick, srcEdge (chanEdge m), 0x0311, 0xFF, 0xFF, 4, BitVec.ofNat 64 m, BitVec.ofNat 64 0⟩, exec_t2Lost_up hlock hup, ?_,
      fun k hk hne => ?_, ?_, fun hraised => ⟨State.raiseMod_of_none (s := s.chanLost m) hraised .., rfl, rfl, rfl⟩⟩
    · rw [State.chanUp_raiseMod, State.chanLost, State.chanUp_put m.isLt, bitAt_setBit_same]
    · rw [State.chanUp_raiseMod, State.chanLost, State.chanUp_put hk, bitAt_setBit_ne _ _ hne, ← State.chanUp_eq hk]
    · rw [State.raiseMod, State.raise_mem, State.chanLost, State.put_mem]

end Sys2Proof.Machine

/-! # Invalidations, doorbells and responses (R392, R409, R412, R418)

A message that stands first is acted on alone; what a doorbell does hangs on its status and on the number in its address. -/

namespace Sys2Proof.Machine
open Sys2Proof

/-! ## The first message -/

section
variable {s : State} {m : RxMsg} {rest : List RxMsg} {pt : Nat}

/-- A first message of the type that is awaited, behind none of its source, is taken and acted on. -/
theorem State.serve_of_firstMsg (h : firstMsg s pt m rest) (act : RxMsg → State → State) : s.serve pt act = act m (s.took rest) := by
  obtain ⟨hin, hpt, hfree⟩ := h
  have htake : s.takeMsg pt = some (m, s.took rest) := by
    simp only [State.takeMsg, hin, hpt, beq_self_eq_true, if_true]
    rfl
  have hgo : (s.took rest).behind m = false := hfree
  simp only [State.serve, htake, hgo, Bool.false_eq_true, if_false]

/-! ## INV (R409) -/

/-- A test that holds of one number below a bound picks it out. -/
theorem filter_range_eq_singleton {n c : Nat} {p : Nat → Bool} (hc : c < n) (h : ∀ k, k < n → (p k = true ↔ k = c)) :
    (List.range n).filter p = [c] := by
  have hsame : (List.range n).filter p = (List.range n).filter (· == c) :=
    List.filter_congr fun k hk => Bool.eq_iff_iff.2 ((h k (List.mem_range.1 hk)).trans beq_iff_eq.symm)
  rw [hsame, List.filter_beq, List.count_eq_one_of_mem List.nodup_range (List.mem_range.2 hc)]
  rfl

theorem exec_invReceive_one {c : Nat} (h : firstMsg s ptInv m rest) (hc : c < 64)
    (hjob : ∀ k, k < 64 → (s.ctxState k ≠ ctxIdle ∧ s.jobOf k = m.job ↔ k = c)) : exec .invReceive s =
      .next (s.clocked ((((s.took rest).invDrop c m.addr m.opnd).respond m m.cls 0 0 []).vblPump)) := by
  have hone : (List.range 64).filter (fun k => (s.took rest).ctxState k != ctxIdle && (s.took rest).jobOf k == m.job) = [c] := by
    refine filter_range_eq_singleton hc fun k hk => ?_
    rw [Bool.and_eq_true, bne_iff_ne, beq_iff_eq]
    exact hjob k hk
  change execInvReceive s = _
  rw [execInvReceive, State.invReceive, State.serve_of_firstMsg h, hone]
  rfl

/-! ## Doorbells (R418) -/

/-- What a doorbell of another module does. -/
def State.bellRung (s : State) (m : RxMsg) : State :=
  if s.bellStatus m != vOk then s.refuseReq m (s.bellStatus m)
  else if m.addr % 64 / 8 == 0 then s.lvrTail ((m.addr % 2 ^ 44 - bellPage) / 64) m.opnd
  else s.migTail ((m.addr % 2 ^ 44 - bellPage) / 64) m.opnd

/-- The address of doorbell `d` of a context lies in the doorbell page, 64 bytes to a context (R418). -/
theorem bell_address {n c d a : Nat} (hc : c < 64) (hd : d < 8) (h : a = n * 2 ^ 44 + bellPage + 64 * c + 8 * d) :
    a % 2 ^ 44 = bellPage + 64 * c + 8 * d ∧ a / 2 ^ 44 = n ∧ a % 64 / 8 = d := by
  unfold bellPage at h ⊢
  omega

theorem State.bellStatus_misaligned (h : m.addr % 8 ≠ 0) : s.bellStatus m = vBad := by
  have hoff : m.addr % 2 ^ 44 % 8 ≠ 0 := by omega
  rw [State.bellStatus, if_pos (bne_iff_ne.2 hoff)]

theorem State.bellStatus_address {c d : Nat} (hc : c < 64) (hd : d < 8) (h : m.addr = s.ownNode * 2 ^ 44 + bellPage + 64 * c + 8 * d) :
    s.bellStatus m = if s.jobOf c ≠ m.job then vDenied else if 2 ≤ d then vBad else vOk := by
  obtain ⟨hoff, hnode, -⟩ := bell_address hc hd h
  have hal : (bellPage + 64 * c + 8 * d) % 8 = 0 := by
    unfold bellPage
    omega
  have hpage : inBellPage (bellPage + 64 * c + 8 * d) = true := by
    rw [inBellPage, Bool.and_eq_true, decide_eq_true_eq, decide_eq_true_eq]
    omega
  have hctx : (bellPage + 64 * c + 8 * d - bellPage) / 64 = c := by omega
  have hnum : (bellPage + 64 * c + 8 * d) % 64 / 8 = d := by
    unfold bellPage
    omega
  simp only [State.bellStatus, hoff, hnode, hal, hpage, hctx, hnum, bne_self_eq_false, Bool.not_true, Bool.or_self, Bool.false_eq_true,
    if_false, bne_iff_ne]

/-- A doorbell of another module rings; no request of the module itself is behind it. -/
theorem exec_doorbellReceive_far (h : firstMsg s ptDoorbell m rest) (hsrc : m.src ≠ ((s.took rest).bellRung m).ownNode) :
    exec .doorbellReceive s = .next (s.clocked ((s.took rest).bellRung m)) := by
  change execDoorbellReceive s = _
  rw [execDoorbellReceive, State.doorbellReceive, State.serve_of_firstMsg h]
  exact congrArg (fun u => Host.Outcome.next (s.clocked u)) (if_pos (bne_iff_ne.2 hsrc))

theorem State.bellRung_refused {st : Nat} (h : s.bellStatus m = st) (hst : st ≠ vOk) : s.bellRung m = s.refuseReq m st := by
  rw [State.bellRung, h, if_pos (bne_iff_ne.2 hst)]

/-- Doorbell 0 of a context writes LVR_DESC_TAIL and doorbell 1 MIG_RING_TAIL. -/
theorem State.bellRung_address {c d : Nat} (hc : c < 64) (hd : d < 2) (h : m.addr = s.ownNode * 2 ^ 44 + bellPage + 64 * c + 8 * d)
    (hjob : s.jobOf c = m.job) : s.bellRung m = if d = 0 then s.lvrTail c m.opnd else s.migTail c m.opnd := by
  have hd8 : d < 8 := by omega
  obtain ⟨hoff, -, hnum⟩ := bell_address hc hd8 h
  have hok : s.bellStatus m = vOk := by
    rw [State.bellStatus_address hc hd8 h, if_neg (not_not.2 hjob), if_neg (by omega)]
  have hctx : (bellPage + 64 * c + 8 * d - bellPage) / 64 = c := by omega
  rw [State.bellRung, hok, hoff, hnum, hctx, if_neg (by decide)]
  simp only [beq_iff_eq]

theorem State.ownNode_put {f : Fld} (v : Nat) (h : f.addr ≠ Reg.vblNode) : (s.put f v).ownNode = s.ownNode :=
  s.get_put_ne f _ v h.symm

theorem State.ownNode_raiseMod (u : State) (src code sev w2 w3 : Nat) : (u.raiseMod src code sev w2 w3).ownNode = u.ownNode := by
  unfold State.raiseMod State.raise
  split
  · rfl
  · split <;> rfl

theorem State.ownNode_refuseReq (st : Nat) : (s.refuseReq m st).ownNode = s.ownNode := by
  rw [State.refuseReq, State.countRefusal, State.ownNode_raiseMod]
  exact State.ownNode_put _ (by decide)

theorem State.ownNode_lvrTail {c : Nat} (v : Nat) (hc : c < 64) : (s.lvrTail c v).ownNode = s.ownNode := by
  refine State.ownNode_put _ ?_
  simp only [Fld.lvrDescTailTail, Reg.lvrDescTail, Reg.vblNode, Block.base, blockBase]
  omega

theorem State.ownNode_migTail {c : Nat} (v : Nat) (hc : c < 64) : (s.migTail c v).ownNode = s.ownNode := by
  refine State.ownNode_put _ ?_
  simp only [Fld.migRingTailTail, Reg.migRingTail, Reg.vblNode, Block.base, blockBase]
  omega

/-- A doorbell that is refused changes no tail. -/
theorem exec_doorbellReceive_refused {st : Nat} (h : firstMsg s ptDoorbell m rest) (hsrc : m.src ≠ s.ownNode) (hbad : s.bellStatus m = st)
    (hst : st ≠ vOk) : exec .doorbellReceive s = .next (s.clocked ((s.took rest).refuseReq m st)) := by
  have hrung : (s.took rest).bellRung m = (s.took rest).refuseReq m st := State.bellRung_refused hbad hst
  rw [exec_doorbellReceive_far h (by rwa [hrung, State.ownNode_refuseReq]), hrung]

/-- A doorbell in order writes the tail that its number names. -/
theorem exec_doorbellReceive_tail {c : CtxId} {d : Nat} (h : firstMsg s ptDoorbell m rest) (hsrc : m.src ≠ s.ownNode) (hd : d < 2)
    (ha : m.addr = s.ownNode * 2 ^ 44 + bellPage + 64 * c + 8 * d) (hjob : s.jobOf c = m.job) : exec .doorbellReceive s =
      .next (s.clocked (if d = 0 then (s.took rest).lvrTail c m.opnd else (s.took rest).migTail c m.opnd)) := by
  have hrung := State.bellRung_address (s := s.took rest) c.isLt hd ha hjob
  have hnode : ((s.took rest).bellRung m).ownNode = s.ownNode := by
    rw [hrung]
    split
    · exact State.ownNode_lvrTail _ c.isLt
    · exact State.ownNode_migTail _ c.isLt
  rw [exec_doorbellReceive_far h (by rwa [hnode]), hrung]

/-! ## Responses (R392, R412) -/

theorem exec_rspReceive_answers {num : Nat} (h : firstMsg s ptRsp m rest) (hnum : (s.took rest).asker m = some num) :
    exec .rspReceive s = .next (s.clocked ((((s.took rest).finish num (if leAt m.block 3 1 < 9 then leAt m.block 3 1 else 2)
      (leAt m.block 8 8) m.data).retireMsg m.src (leAt m.block 0 2)).vblPump)) := by
  have hstatus : (if 9 ≤ leAt m.block 3 1 then vBad else leAt m.block 3 1) = if leAt m.block 3 1 < 9 then leAt m.block 3 1 else 2 := by
    rw [← ite_not]
    simp only [not_le]
    rfl
  change execRspReceive s = _
  rw [execRspReceive, State.rspReceive, State.serve_of_firstMsg h, hnum]
  simp only [hstatus]

theorem exec_rspReceive_stray (h : firstMsg s ptRsp m rest) (hnone : (s.took rest).asker m = none) :
    exec .rspReceive s = .next (s.clocked ((s.took rest).bump Fld.vblLateRspCount)) := by
  change execRspReceive s = _
  rw [execRspReceive, State.rspReceive, State.serve_of_firstMsg h, hnone]

end

/-- Settles O26: each kind of message taken as the first one, a doorbell by its status. -/
theorem invalidationsBellsAndResponses : Obligations.InvalidationsBellsAndResponses := by
  unfold Obligations.InvalidationsBellsAndResponses
  refine ⟨fun s m rest c h hc hjob => exec_invReceive_one h hc hjob, fun s m rest c h hsrc ha hjob => ?weights,
    fun s m rest c h hsrc ha hjob => ?tiles, fun s m rest h hsrc hal => ?misaligned, fun s m rest c d h hsrc hd ha hjob => ?denied,
    fun s m rest num h hnum => exec_rspReceive_answers h hnum, fun s m rest h hnone => exec_rspReceive_stray h hnone⟩
  case weights =>
    have hbell : m.addr = s.ownNode * 2 ^ 44 + bellPage + 64 * c + 8 * 0 := by simpa only [bellPage, Nat.mul_zero, Nat.add_zero] using ha
    rw [exec_doorbellReceive_tail h hsrc (by decide) hbell hjob, if_pos rfl]
  case tiles =>
    have hbell : m.addr = s.ownNode * 2 ^ 44 + bellPage + 64 * c + 8 * 1 := by simpa only [bellPage] using ha
    rw [exec_doorbellReceive_tail h hsrc (by decide) hbell hjob, if_neg (by decide)]
  case misaligned => exact exec_doorbellReceive_refused h hsrc (State.bellStatus_misaligned hal) (by decide)
  case denied =>
    have hstatus : s.bellStatus m = vDenied := by rw [State.bellStatus_address c.isLt hd ha, if_pos hjob]
    exact exec_doorbellReceive_refused h hsrc hstatus (by decide)

end Sys2Proof.Machine

/-! # Manifests, pages and chunks (R285, R286, R293, R295, R296)

What arrives for Louvre is checked by the answer's bytes alone. The outcome of a read counts in the context's own registers of the endpoint,
which hold nothing that Louvre reads, so the descriptor is still what it was when the answer is taken. -/

namespace Sys2Proof.Machine
open Sys2Proof

/-! ## What a descriptor hangs on (R288) -/

/-- The block of every context's registers of the Virbael endpoint (R590). -/
def vblcBlock : Nat := 42

/-- Two states hold the same for Louvre: they differ in no register but those of the endpoint's contexts, and alike are their memory, their
contexts and what Louvre holds. -/
structure LouvreSame (s u : State) : Prop where
  regs : SameRegsBut vblcBlock s u
  mem : u.mem = s.mem
  ctxs : u.ctxs = s.ctxs
  lvrs : u.lvrs = s.lvrs

section
variable {s u : State}

theorem LouvreSame.refl (s : State) : LouvreSame s s := ⟨fun _ _ => rfl, rfl, rfl, rfl⟩

theorem LouvreSame.bump (h : LouvreSame s u) {f : Fld} (hf : blockNumber f.addr = vblcBlock) : LouvreSame s (u.bump f) :=
  ⟨h.regs.put f _ hf, h.mem, h.ctxs, h.lvrs⟩

theorem LouvreSame.raiseCtx (h : LouvreSame s u) (src code sev c w2 w3 : Nat) : LouvreSame s (u.raiseCtx src code sev c w2 w3) := by
  obtain ⟨raised, lost, hu⟩ := u.raiseCtx_eq src code sev c w2 w3
  rw [hu]
  exact ⟨h.regs, h.mem, h.ctxs, h.lvrs⟩

/-- The counters of a request's outcome are registers of its context. -/
theorem blockNumber_vblc {c off : Nat} (hc : c < 64) (ho : off < 0x20) : blockNumber (Block.base .vblc c + off) = vblcBlock := by
  simp only [Block.base, Nat.add_assoc]
  exact blockNumber_blockBase _ 42 (by decide) (by omega)

theorem LouvreSame.outcome {r : Req} (hr : r.ctx < 64) (k : Nat) : LouvreSame s (s.outcome r k) := by
  have counted {f : Fld} (hf : blockNumber f.addr = vblcBlock) : LouvreSame s (s.bump f) := (LouvreSame.refl s).bump hf
  have denied := counted (f := Fld.vblDeniedCount r.ctx) (blockNumber_vblc hr (by decide))
  have unreach := counted (f := Fld.vblUnreachCount r.ctx) (blockNumber_vblc hr (by decide))
  have unknown := counted (f := Fld.vblUnknownCount r.ctx) (blockNumber_vblc hr (by decide))
  unfold State.outcome
  dsimp only
  split_ifs
  · exact .refl s
  · exact denied.raiseCtx ..
  · exact denied
  · exact unreach.raiseCtx ..
  · exact unreach
  · exact unknown.raiseCtx ..
  · exact .refl s

theorem LouvreSame.lvr (h : LouvreSame s u) (c : Nat) : u.lvr c = s.lvr c := by
  rw [State.lvr, State.lvr, h.lvrs]

theorem blockNumber_lvr {c off : Nat} (hc : c < 64) (ho : off < 0x80) : blockNumber (Block.base .lvr c + off) = 28 := by
  simp only [Block.base, Nat.add_assoc]
  exact blockNumber_blockBase _ 28 (by decide) (by omega)

theorem blockNumber_sht {p off : Nat} (hp : p < 32) (ho : off < 0x40) : blockNumber (Block.base .sht p + off) = 48 := by
  simp only [Block.base, Nat.add_assoc]
  exact blockNumber_blockBase _ 48 (by decide) (by omega)

theorem blockNumber_ctx {c off : Nat} (hc : c < 64) (ho : off < 0x40) : blockNumber (Block.base .ctx c + off) = 49 := by
  simp only [Block.base, Nat.add_assoc]
  exact blockNumber_blockBase _ 49 (by decide) (by omega)

/-- Where T2 lies is said by the slot map and the partition's slice (R264, R265, R453). -/
theorem LouvreSame.t2Key (h : LouvreSame s u) {p : Nat} (hp : p < 32) (o : Nat) : u.t2Key p o = s.t2Key p o := by
  have hmap0 : u.rd Reg.migSlotMap0 = s.rd Reg.migSlotMap0 := h.regs _ (by decide)
  have hmap1 : u.rd Reg.migSlotMap1 = s.rd Reg.migSlotMap1 := h.regs _ (by decide)
  have hslot : u.slotChan = s.slotChan := by
    funext k
    rw [State.slotChan, State.slotChan, hmap0, hmap1]
  have hbase : u.get (Fld.shtT2BaseTiles p) = s.get (Fld.shtT2BaseTiles p) :=
    h.regs.get _ ((blockNumber_sht hp (by decide)).trans_ne (by decide))
  have hsize : u.get (Fld.shtT2SizeTiles p) = s.get (Fld.shtT2SizeTiles p) :=
    h.regs.get _ ((blockNumber_sht hp (by decide)).trans_ne (by decide))
  simp only [State.t2Key, State.sliceBase, hslot, hbase, hsize]

theorem LouvreSame.partOf (h : LouvreSame s u) {c : Nat} (hc : c < 64) : u.partOf c = s.partOf c :=
  h.regs.get _ ((blockNumber_ctx hc (by decide)).trans_ne (by decide))

theorem LouvreSame.key (h : LouvreSame s u) {c : Nat} (hc : c < 64) (a : Nat) : u.key c a = s.key c a := by
  have hctx : u.ctx c = s.ctx c := by rw [State.ctx, State.ctx, h.ctxs]
  have ht2 (o : Nat) : u.t2Key (s.partOf c) o = s.t2Key (s.partOf c) o := h.t2Key (field_lt _ 0 5) o
  simp only [State.key, hctx, h.partOf hc, ht2]

theorem LouvreSame.lvrDesc (h : LouvreSame s u) {c : Nat} (hc : c < 64) (ring : Nat) : u.lvrDesc c ring = s.lvrDesc c ring := by
  have hlow : u.rd (Reg.lvrDescBase c) = s.rd (Reg.lvrDescBase c) :=
    h.regs _ ((blockNumber_lvr hc (by decide)).trans_ne (by decide))
  have hhigh : u.rd (Reg.lvrDescBase c + 4) = s.rd (Reg.lvrDescBase c + 4) :=
    h.regs _ ((blockNumber_lvr (off := 4) hc (by decide)).trans_ne (by decide))
  rw [State.lvrDesc, State.lvrDesc, h.mem, h.key hc, State.get64, State.get64, hlow, hhigh]

end

/-! ## The answer to a read of an engine (R389, R397) -/

section
variable {s w u : State} {c : CtxId} {e : EngineRead} {reply : Reply} {r : Req}

theorem EngineAnswers.engineReply (h : EngineAnswers s c e reply r w) :
    s.engineReply c e reply = (w.engineAnswer c e reply).vblPump := by
  rw [h.ended]
  cases reply with
  | ok data => exact State.engineReply_ok h.sent h.far
  | status k => exact State.engineReply_status h.sent h.far
  | poisoned data =>
    unfold State.engineReply
    simp only [h.sent, beq_iff_eq, if_neg h.far]

theorem EngineAnswers.louvreSame (h : EngineAnswers s c e reply r w) : LouvreSame s w := by
  have hfound := List.find?_some h.sent
  rw [Bool.and_eq_true, Bool.and_eq_true, beq_iff_eq] at hfound
  obtain ⟨⟨hctx, -⟩, -⟩ := hfound
  have hsame (k : Nat) : LouvreSame s (s.outcome r k) := LouvreSame.outcome (hctx ▸ c.isLt) k
  rw [h.ended]
  cases reply with
  | ok data => exact ⟨fun _ _ => rfl, rfl, rfl, rfl⟩
  | status k => exact ⟨(hsame k).regs, (hsame k).mem, (hsame k).ctxs, (hsame k).lvrs⟩
  | poisoned data => exact ⟨fun _ _ => rfl, rfl, rfl, rfl⟩

end

/-! ## Manifests (R285) -/

section
variable {s t u w : State} {c ring : Nat} {man : Reply} {m : List Byte} {d : LvrCmd}

/-- A manifest that is taken came clean, and its header, key, signature and tables have passed; nothing is counted. -/
theorem State.takeManifest_ok (h : s.takeManifest c ring man = (t, .ok m)) :
    t = s ∧ ∃ data k, man = .ok data ∧ m = (data ++ List.replicate (manTotal data) 0#8).take (manTotal data) ∧
      manHeaderOk data = true ∧ s.keySlot c (manKey m) = some k ∧ s.sigOk k m = true ∧ manTablesOk m = true := by
  unfold State.takeManifest at h
  dsimp only at h
  split at h
  · next data =>
    split at h
    · cases h
    · next hheader =>
      split at h
      · cases h
      · next k hkey =>
        split at h
        · cases h
        · next hsig =>
          split at h
          · cases h
          · next htables =>
            cases h
            simp only [Bool.not_true, Bool.false_or, Bool.not_eq_true', Bool.not_eq_false] at hheader hsig htables
            exact ⟨rfl, data, k, rfl, rfl, hheader, hkey, hsig, htables⟩
  · simp only [Bool.not_false, Bool.true_or, if_true] at h
    split at h
    · cases h
    · split at h <;> cases h
  · cases h
  · cases h

/-- The manifest's answer goes to the operation of the descriptor that reads it. -/
theorem State.manifestAnswer_of_reading {tick : Nat} (hread : (w.lvr c).reading = some (ring, tick))
    (hd : d = LvrCmd.of (w.lvrDesc c ring)) : w.manifestAnswer c ring man =
      if d.op == 1 then w.loadManifest c ring d man else if d.op == 2 then w.swapManifest c ring d man else w := by
  unfold State.manifestAnswer
  rw [hread, ← hd]
  simp

theorem State.loadManifest_error {st : Nat} (hu : u = (w.readRest c d man).setLvr c { w.lvr c with reading := none })
    (h : u.takeManifest c ring man = (t, .error st)) : w.loadManifest c ring d man = t.lvrEnd c ring st 0 0 := by
  unfold State.loadManifest
  simp only [← hu, h]

/-- A LOAD whose manifest fits the context asks for its pages (R296). -/
theorem State.loadManifest_fits (hu : u = (w.readRest c d man).setLvr c { w.lvr c with reading := none })
    (h : u.takeManifest c ring man = (u, .ok m)) (hstate : u.lvrState c 1 = true)
    (hdup : (u.listed c d m).eraseDups.length = (u.listed c d m).length) (hfits : u.loadFits c d m (u.listed c d m) = true)
    {x : State × LvrJob} (hx : x = u.askPages c (lvrJob ring (w.lvrDesc c ring) m (u.listed c d m) (u.placed c m (u.listed c d m)))) :
    w.loadManifest c ring d man = x.1.loadGo c x.2 := by
  unfold State.loadManifest
  simp only [← hu, h, hstate, hdup, hfits, ← hx, Bool.not_true, Bool.false_eq_true, bne_self_eq_false, if_false]

end

section
variable {s u : State} {c : CtxId} {op ring : Nat} {man : Reply} {d : LvrCmd}

/-- The engine's answer reaches Louvre with the descriptor as the state before held it. -/
theorem ManifestIn.engineReply (h : ManifestIn s c op ring d man u) : ∃ w : State,
    u = (w.readRest c d man).setLvr c { w.lvr c with reading := none } ∧ w.lvrDesc c ring = s.lvrDesc c ring ∧
      s.engineReply c (.manifest ring) man = (if op == 1 then w.loadManifest c ring d man
        else if op == 2 then w.swapManifest c ring d man else w).vblPump := by
  obtain ⟨t, hread⟩ := h.reading
  obtain ⟨r, w, hans, hu⟩ := h.here
  have hdesc : w.lvrDesc c ring = s.lvrDesc c ring := hans.louvreSame.lvrDesc c.isLt ring
  refine ⟨w, hu, hdesc, ?_⟩
  have hanswer := State.manifestAnswer_of_reading (man := man) (d := d) (by rw [hans.louvreSame.lvr, hread]) (by rw [hdesc, h.desc])
  rw [hans.engineReply, State.engineAnswer, hanswer, h.code]

theorem ManifestIn.exec_lvrLoad (h : ManifestIn s c 1 ring d man u) : ∃ w : State,
    u = (w.readRest c d man).setLvr c { w.lvr c with reading := none } ∧ w.lvrDesc c ring = s.lvrDesc c ring ∧
      exec (.lvrLoad c man) s = .next (s.clocked (w.loadManifest c ring d man).vblPump) := by
  obtain ⟨t, hread⟩ := h.reading
  obtain ⟨w, hu, hdesc, hreply⟩ := h.engineReply
  refine ⟨w, hu, hdesc, ?_⟩
  change execLvrLoad c man s = _
  simp only [execLvrLoad, State.lvrLoad, hread, ← h.desc, h.code, hreply, beq_self_eq_true, if_true]

end

/-! ## Pages and chunks (R286) -/

section
variable {j k : LvrJob} {i : Nat} {reply : Reply} {data : List Byte}

theorem cleanBytes_eq_some : cleanBytes reply = some data ↔ reply = .ok data := by
  cases reply <;> simp [cleanBytes]

/-- A chunk is taken where its bytes are clean and their digest is its leaf. -/
theorem LvrJob.check_chunk (h : j.check false i reply = .chunk k data) : reply = .ok data ∧ data.length = chunkLen j.man i ∧
    sha384 data = chunkDigest (SMap.getD j.pages (i / 1024) []) i ∧ k = { j with asked := SMap.del j.asked (2 * i) } := by
  simp only [LvrJob.check, Bool.false_eq_true, if_false] at h
  split at h
  · cases h
  · split at h
    · cases h
    · cases h
    · cases h
    · next bytes _ _ hclean =>
      split at h
      · next hok =>
        cases h
        rw [Bool.and_eq_true, beq_iff_eq, beq_iff_eq] at hok
        exact ⟨cleanBytes_eq_some.1 hclean, hok.1, hok.2, rfl⟩
      · cases h

/-- A page is kept where its bytes are clean and their digest is the manifest's. -/
theorem LvrJob.check_page (h : j.check true i reply = .page k) : ∃ data, reply = .ok data ∧ data.length = pageLen j.man i ∧
    sha384 data = pageDigest j.man i ∧ SMap.get? k.pages i = some data := by
  simp only [LvrJob.check, if_true] at h
  split at h
  · cases h
  · split at h
    · cases h
    · cases h
    · cases h
    · next bytes _ _ hclean =>
      split at h
      · next hok =>
        cases h
        rw [Bool.and_eq_true, beq_iff_eq, beq_iff_eq] at hok
        exact ⟨bytes, cleanBytes_eq_some.1 hclean, hok.1, hok.2, SMap.get?_put_same _ _ _⟩
      · cases h

end

section
variable {s w : State} {c : CtxId} {page : Bool} {i : Nat} {reply : Reply} {r : Req}

theorem EngineAnswers.exec_verify_load (h : EngineAnswers s c (.load page i) reply r w) :
    exec (.lvrChunkVerify c .load page i reply) s = .next (s.clocked (w.loadArrive c page i reply).vblPump) :=
  congrArg (fun u => Host.Outcome.next (s.clocked u)) h.engineReply

theorem EngineAnswers.exec_verify_swap (h : EngineAnswers s c (.swap page i) reply r w) :
    exec (.lvrChunkVerify c .swap page i reply) s = .next (s.clocked (w.swapArrive c page i reply).vblPump) :=
  congrArg (fun u => Host.Outcome.next (s.clocked u)) h.engineReply

/-! ## No answer (R293) -/

variable {j : LvrJob}

theorem exec_lvrFetchTimeout_load (h : (s.lvr c).load = some j) : exec (.lvrFetchTimeout c false) s =
    .next (s.clocked (if s.unanswered c (j.asked.map (·.2)) then s.loadEnd c j 15 else s)) := by
  change execLvrFetchTimeout c false s = _
  simp only [execLvrFetchTimeout, h, Bool.false_eq_true, if_false]

theorem exec_lvrFetchTimeout_manifest (h : (s.lvr c).load = none) :
    exec (.lvrFetchTimeout c false) s = .next (s.clocked (s.manifestTimeout c 1)) := by
  change execLvrFetchTimeout c false s = _
  simp only [execLvrFetchTimeout, h, Bool.false_eq_true, if_false]

theorem State.manifestTimeout_idle (op : Nat) (h : (s.lvr c).reading = none) : s.manifestTimeout c op = s := by
  unfold State.manifestTimeout
  rw [h]

theorem State.manifestTimeout_late {ring t op : Nat} (h : (s.lvr c).reading = some (ring, t)) (hop : (LvrCmd.of (s.lvrDesc c ring)).op = op)
    (hlate : s.unanswered c [t] = true) : s.manifestTimeout c op =
      ((s.dropReads c EngineRead.ofManifest).setLvr c { s.lvr c with reading := none }).lvrEnd c ring 15 0 0 := by
  unfold State.manifestTimeout
  simp only [h, hop, hlate, bne_self_eq_false, Bool.not_true, Bool.or_self, Bool.false_eq_true, if_false]

theorem exec_lvrFetchTimeout_swap {v : Swap} (h : (s.lvr c).swap = some v) (hfin : v.fin = none)
    (hlate : s.unanswered c (v.job.asked.map (·.2)) = true) :
    exec (.lvrFetchTimeout c true) s = .next (s.clocked (s.swapFail c v 15)) := by
  change execLvrFetchTimeout c true s = _
  simp only [execLvrFetchTimeout, h, hfin, hlate, Option.isSome_none, Bool.not_true, Bool.or_self, Bool.false_eq_true, if_true, if_false]

end

/-- Settles O45: the checks of what arrives, then each answer as Louvre takes it. -/
theorem weightsVerified : Obligations.WeightsVerified := by
  unfold Obligations.WeightsVerified
  refine ⟨fun s t c ring man m h => State.takeManifest_ok h, fun j k i reply data h => LvrJob.check_chunk h,
    fun j k i reply h => LvrJob.check_page h, fun c man s ring d u m x h hman hstate hdup hfits hx => ?fits,
    fun c man s ring d u t st h hman => ?bad, fun c page i reply s r w j k x h hj hcheck hx => ?page,
    fun c page i reply s r w j k data h hj hcheck => ?chunk, fun c page i reply s r w j k n x h hj hcheck hn hx => ?again,
    fun c page i reply s r w j k n h hj hcheck hn => ?fourth, fun c page i reply s r w j st h hj hcheck => ?refused,
    fun c page i reply s r w v k data h hv hfin hcheck => ?swapChunk, fun c s j hj hlate => ?late, fun c s j hj hearly => ?early,
    fun c s ring t hload hread hop hlate => ?manifestLate, fun c s w hw hfin hlate => exec_lvrFetchTimeout_swap hw hfin hlate,
    fun c s hload hread => ?idle⟩
  case fits =>
    obtain ⟨w, hu, hdesc, hexec⟩ := h.exec_lvrLoad
    rw [← hdesc] at hx
    rw [hexec, State.loadManifest_fits hu hman hstate hdup hfits hx]
  case bad =>
    obtain ⟨w, hu, -, hexec⟩ := h.exec_lvrLoad
    rw [hexec, State.loadManifest_error hu hman]
  case page =>
    rw [h.exec_verify_load]
    simp only [State.loadArrive, h.louvreSame.lvr, hj, hcheck, hx]
  case chunk =>
    rw [h.exec_verify_load]
    simp only [State.loadArrive, h.louvreSame.lvr, hj, hcheck]
  case again =>
    rw [h.exec_verify_load]
    simp only [State.loadArrive, h.louvreSame.lvr, hj, hcheck, hx, hn, if_true, State.hashMiss]
  case fourth =>
    rw [h.exec_verify_load]
    simp only [State.loadArrive, h.louvreSame.lvr, hj, hcheck, if_neg (Nat.not_lt.2 hn)]
  case refused =>
    rw [h.exec_verify_load]
    simp only [State.loadArrive, h.louvreSame.lvr, hj, hcheck]
  case swapChunk =>
    rw [h.exec_verify_swap]
    simp only [State.swapArrive, h.louvreSame.lvr, hv, hfin, hcheck, Option.isSome_none, Bool.false_eq_true, if_false]
  case late => rw [exec_lvrFetchTimeout_load hj, if_pos hlate]
  case early => rw [exec_lvrFetchTimeout_load hj, if_neg (ne_true_of_eq_false hearly), State.clocked_self]
  case manifestLate => rw [exec_lvrFetchTimeout_manifest hload, State.manifestTimeout_late hread hop hlate]
  case idle => rw [exec_lvrFetchTimeout_manifest hload, State.manifestTimeout_idle 1 hread, State.clocked_self]

end Sys2Proof.Machine

/-! # Louvre's ring and its SWAPs (R288 to R292, R303 to R307, R310)

The start of a descriptor is one step that LOAD, SWAP, WRITE_BACK and FENCE share, and so is its end: a completion word, three fields of
LVR_STATUS, and HEAD past what has ended. The exchange of a tile within T0 and T1 is two stores that lie apart. -/

namespace Sys2Proof.Machine
open Sys2Proof

/-! ## The ring's registers (R288, R310) -/

theorem lvrDescCtrl_ne_lvrDescHead (c : Nat) : Reg.lvrDescCtrl c ≠ Reg.lvrDescHead c := by
  simp only [Reg.lvrDescCtrl, Reg.lvrDescHead]
  omega

theorem lvrDescTail_ne_lvrDescCtrl (c : Nat) : Reg.lvrDescTail c ≠ Reg.lvrDescCtrl c := by
  simp only [Reg.lvrDescTail, Reg.lvrDescCtrl]
  omega

theorem lvrDescCtrl_ne_lvrStatus (c : Nat) : Reg.lvrDescCtrl c ≠ Reg.lvrStatus c := by
  simp only [Reg.lvrDescCtrl, Reg.lvrStatus]
  omega

theorem lvrDescHead_ne_lvrStatus (c : Nat) : Reg.lvrDescHead c ≠ Reg.lvrStatus c := by
  simp only [Reg.lvrDescHead, Reg.lvrStatus]
  omega

theorem ctxStatus_ne_lvrStatus {c : Nat} (hc : c < 64) : Reg.ctxStatus c ≠ Reg.lvrStatus c := by
  simp only [Reg.ctxStatus, Reg.lvrStatus, Block.base, blockBase]
  omega

@[simp] theorem State.get_setLvr (s : State) (c : Nat) (l : Lvr) (f : Fld) : (s.setLvr c l).get f = s.get f := rfl

@[simp] theorem State.setLvr_mem (s : State) (c : Nat) (l : Lvr) : (s.setLvr c l).mem = s.mem := rfl

@[simp] theorem State.lvr_put (s : State) (f : Fld) (v c : Nat) : (s.put f v).lvr c = s.lvr c := rfl

@[simp] theorem State.lvr_setLvr (s : State) (c : Nat) (l : Lvr) : (s.setLvr c l).lvr c = l := SMap.getD_putD_same ..

section
variable (s : State) (c : Nat)

theorem State.lvrSize_pos : 0 < s.lvrSize c := Nat.two_pow_pos _

/-- A ring has at most 4,096 descriptors, so an index of it fits the 12 bits of HEAD. -/
theorem State.lvrSize_le : s.lvrSize c ≤ 2 ^ 12 := by
  refine Nat.pow_le_pow_right (by decide) ?_
  split_ifs <;> omega

theorem State.get_put_lvrDescHead {n : Nat} (u : State) (h : n < s.lvrSize c) :
    (u.put (Fld.lvrDescHeadHead c) n).get (Fld.lvrDescHeadHead c) = n :=
  (State.get_put_same _ _ _ (by decide : 0 + 12 ≤ 32)).trans (Nat.mod_eq_of_lt (h.trans_le (s.lvrSize_le c)))

/-- The ring once EN has found it in order: HEAD takes TAIL's value, and no descriptor has been started. -/
def State.lvrRingOn : State :=
  let head := s.get (Fld.lvrDescTailTail c) % s.lvrSize c
  let u := (s.put (Fld.lvrDescCtrlEn c) 1).put (Fld.lvrDescHeadHead c) head
  u.setLvr c { u.lvr c with next := head, ended := [] }

theorem State.lvrDescCtrl_enable (req : Requester) (v : Nat) (hoff : s.flag (Fld.lvrDescCtrlEn c) = false) :
    s.lvrDescCtrl req c (setBit v 31 true) =
      if (s.put (Fld.lvrDescCtrlSizeLog2 c) (v % 32)).lvrRingOk c then (s.put (Fld.lvrDescCtrlSizeLog2 c) (v % 32)).lvrRingOn c
      else (s.put (Fld.lvrDescCtrlSizeLog2 c) (v % 32)).misuse req := by
  have hsize : field (setBit v 31 true) 0 5 = v % 32 := field_setField_below _ _ _ _ _ _ (by decide)
  unfold State.lvrDescCtrl
  simp only [hsize, bitAt_setBit_same, hoff, Bool.false_eq_true, if_true, if_false]
  by_cases hok : (s.put (Fld.lvrDescCtrlSizeLog2 c) (v % 32)).lvrRingOk c = true
  · rw [if_pos hok, if_neg (by simp [hok]), State.lvrRingOn]
  · rw [if_neg hok, if_pos (by simpa using hok)]

theorem State.get_lvrRingOn (f : Fld) : (s.lvrRingOn c).get f = ((s.put (Fld.lvrDescCtrlEn c) 1).put (Fld.lvrDescHeadHead c)
    (s.get (Fld.lvrDescTailTail c) % s.lvrSize c)).get f := by
  rw [State.lvrRingOn, State.get_setLvr]

theorem State.lvrRingOn_mem : (s.lvrRingOn c).mem = s.mem := by
  rw [State.lvrRingOn, State.setLvr_mem, State.put_mem, State.put_mem]

theorem State.flag_lvrRingOn : (s.lvrRingOn c).flag (Fld.lvrDescCtrlEn c) = true := by
  rw [State.flag, State.get_lvrRingOn, State.get_put_ne _ _ _ _ (lvrDescCtrl_ne_lvrDescHead c),
    State.get_put_same _ _ _ (by decide : 31 + 1 ≤ 32)]
  rfl

theorem State.get_lvrRingOn_head :
    (s.lvrRingOn c).get (Fld.lvrDescHeadHead c) = s.get (Fld.lvrDescTailTail c) % s.lvrSize c := by
  rw [State.get_lvrRingOn, s.get_put_lvrDescHead c _ (Nat.mod_lt _ (s.lvrSize_pos c))]

end

section
variable {s w : State} {c : CtxId} {req : Requester} {v : BitVec 32}

theorem exec_lvrDescEnable (h : s.accepts req (Reg.lvrDescCtrl c) v.toNat = true) (hoff : s.flag (Fld.lvrDescCtrlEn c) = false)
    (hw : w = s.put (Fld.lvrDescCtrlSizeLog2 c) (v.toNat % 32)) :
    exec (.lvrDescEnable req c v) s = .next (if w.lvrRingOk c then w.lvrRingOn c else w.misuse req) := by
  subst hw
  exact congrArg Host.Outcome.next ((State.write_of_accepts h _).trans (s.lvrDescCtrl_enable c req v.toNat hoff))

theorem exec_lvrDescTailWrite (h : s.accepts req (Reg.lvrDescTail c) v.toNat = true) :
    exec (.lvrDescTailWrite req c v) s = .next (s.put (Fld.lvrDescTailTail c) (v.toNat % 4096)) :=
  congrArg Host.Outcome.next (State.write_of_accepts h _)

end

/-! ## A descriptor ends (R291, R292) -/

/-- HEAD passes the descriptor at HEAD and stops, where no other has ended. -/
theorem headPast_single (size fuel ring : Nat) : headPast size (fuel + 2) ring [ring] = ((ring + 1) % size, []) := by
  simp [headPast]

section
variable (s : State) (c ring : Nat)

/-- The completion word is written where the descriptor names a place for one. -/
def State.lvrWord (word : Nat) : State :=
  let compl := leAt (s.lvrDesc c ring) 48 8
  if compl != 0 && compl < 2 ^ 44 && compl % 8 == 0 && upperTier compl && s.mapped c compl 8 then
    s.twrite c compl (leBytes 8 word) fun _ => false else s

/-- LVR_STATUS once a descriptor has ended. -/
def State.lvrReport (status : Nat) : State :=
  let u := s.put (Fld.lvrStatusLastStatus c) status
  let l := u.lvr c
  let u := u.put (Fld.lvrStatusBusy c) (if l.reading.isSome || l.load.isSome || l.swap.isSome then 1 else 0)
  if l.swap.isSome then u else u.put (Fld.lvrStatusPhase c) 0

theorem State.lvrWord_eq (word : Nat) : ∃ m, s.lvrWord c ring word = { s with mem := m } := by
  unfold State.lvrWord
  dsimp only
  split
  · exact ⟨_, State.twrite_eq ..⟩
  · exact ⟨s.mem, rfl⟩

theorem State.get_lvrReport_ne (status : Nat) {f : Fld} (h : f.addr ≠ Reg.lvrStatus c) : (s.lvrReport c status).get f = s.get f := by
  have put_ne (u : State) (g : Fld) (v : Nat) (hg : g.addr = Reg.lvrStatus c) : (u.put g v).get f = u.get f :=
    State.get_put_ne _ _ _ _ (hg ▸ h)
  unfold State.lvrReport
  dsimp only
  split
  · rw [put_ne _ _ _ rfl, put_ne _ _ _ rfl]
  · rw [put_ne _ _ _ rfl, put_ne _ _ _ rfl, put_ne _ _ _ rfl]

theorem State.get_lvrReport_lastStatus {status : Nat} (h : status < 256) :
    (s.lvrReport c status).get (Fld.lvrStatusLastStatus c) = status := by
  have hset : (s.put (Fld.lvrStatusLastStatus c) status).get (Fld.lvrStatusLastStatus c) = status :=
    (State.get_put_same _ _ _ (by decide : 0 + 8 ≤ 32)).trans (Nat.mod_eq_of_lt h)
  have busy (u : State) (v : Nat) : (u.put (Fld.lvrStatusBusy c) v).get (Fld.lvrStatusLastStatus c) = u.get (Fld.lvrStatusLastStatus c) :=
    State.get_put_beside _ _ _ _ (by decide : 31 + 1 ≤ 32) (.inr (by decide : 0 + 8 ≤ 31))
  have phase (u : State) (v : Nat) : (u.put (Fld.lvrStatusPhase c) v).get (Fld.lvrStatusLastStatus c) = u.get (Fld.lvrStatusLastStatus c) :=
    State.get_put_beside _ _ _ _ (by decide : 24 + 3 ≤ 32) (.inr (by decide : 0 + 8 ≤ 24))
  unfold State.lvrReport
  dsimp only
  split
  · rw [busy, hset]
  · rw [phase, busy, hset]

/-- HEAD passes a descriptor that has ended, and those behind it that ended before it. -/
def State.lvrPassed (l : Lvr) : State :=
  let (head, ended) := headPast (s.lvrSize c) 4096 (s.get (Fld.lvrDescHeadHead c)) (ring :: l.ended)
  (s.put (Fld.lvrDescHeadHead c) head).setLvr c { l with ended := ended }

/-- A descriptor's end is a completion word, LVR_STATUS, HEAD, and an event where the descriptor asks for one. -/
theorem State.lvrEnd_eq_ite {status chunks poisoned word : Nat} {u : State}
    (hword : word = status + chunks % 2 ^ 24 * 2 ^ 8 + poisoned % 2 ^ 32 * 2 ^ 32)
    (hu : u = ((s.lvrWord c ring word).lvrReport c status).lvrPassed c ring
      (((s.lvrWord c ring word).put (Fld.lvrStatusLastStatus c) status).lvr c)) :
    s.lvrEnd c ring status chunks poisoned =
      if bitAt (leAt (s.lvrDesc c ring) 1 1) 0 then u.raiseCtx srcLouvre 0x0402 0 c word ring else u := by
  rw [hu, hword]
  unfold State.lvrEnd State.lvrPassed State.lvrReport State.lvrWord
  with_reducible rfl

/-- Registers after a descriptor has ended that stood at HEAD, with none behind it ended. -/
theorem State.get_lvrEnd (status chunks poisoned : Nat) (hended : (s.lvr c).ended = []) (hhead : s.get (Fld.lvrDescHeadHead c) = ring)
    (f : Fld) : ∃ m, (s.lvrEnd c ring status chunks poisoned).get f =
      ((({ s with mem := m } : State).lvrReport c status).put (Fld.lvrDescHeadHead c) ((ring + 1) % s.lvrSize c)).get f := by
  obtain ⟨m, hm⟩ := s.lvrWord_eq c ring (status + chunks % 2 ^ 24 * 2 ^ 8 + poisoned % 2 ^ 32 * 2 ^ 32)
  have hsize : (({ s with mem := m } : State).lvrReport c status).lvrSize c = s.lvrSize c := by
    rw [State.lvrSize, State.get_lvrReport_ne _ _ _ (lvrDescCtrl_ne_lvrStatus c)]
    rfl
  have hring : (({ s with mem := m } : State).lvrReport c status).get (Fld.lvrDescHeadHead c) = ring := by
    rw [State.get_lvrReport_ne _ _ _ (lvrDescHead_ne_lvrStatus c)]
    exact hhead
  have hnone : ((({ s with mem := m } : State).put (Fld.lvrStatusLastStatus c) status).lvr c).ended = [] := hended
  refine ⟨m, ?_⟩
  rw [s.lvrEnd_eq_ite c ring rfl rfl, hm]
  generalize ({ s with mem := m } : State) = w at *
  rw [State.lvrPassed, hsize, hring, hnone, headPast_single (s.lvrSize c) 4094 ring]
  dsimp only
  split
  · rw [State.get_raiseCtx, State.get_setLvr]
  · rw [State.get_setLvr]

theorem State.get_lvrEnd_lastStatus {status : Nat} (chunks poisoned : Nat) (hst : status < 256) (hended : (s.lvr c).ended = [])
    (hhead : s.get (Fld.lvrDescHeadHead c) = ring) :
    (s.lvrEnd c ring status chunks poisoned).get (Fld.lvrStatusLastStatus c) = status := by
  obtain ⟨m, h⟩ := s.get_lvrEnd c ring status chunks poisoned hended hhead (Fld.lvrStatusLastStatus c)
  rw [h, State.get_put_ne _ _ _ _ (lvrDescHead_ne_lvrStatus c).symm, State.get_lvrReport_lastStatus _ _ hst]

theorem State.get_lvrEnd_head (status chunks poisoned : Nat) (hended : (s.lvr c).ended = [])
    (hhead : s.get (Fld.lvrDescHeadHead c) = ring) :
    (s.lvrEnd c ring status chunks poisoned).get (Fld.lvrDescHeadHead c) = (ring + 1) % s.lvrSize c := by
  obtain ⟨m, h⟩ := s.get_lvrEnd c ring status chunks poisoned hended hhead (Fld.lvrDescHeadHead c)
  rw [h, s.get_put_lvrDescHead c _ (Nat.mod_lt _ (s.lvrSize_pos c))]

end

/-! ## A descriptor starts (R288 to R291) -/

section
variable {s w : State} {c : CtxId} {ring st : Nat} {d : LvrCmd}

/-- The ring is open: it runs, in a context that is in use, and no LOAD nor read of a manifest holds it up (R291, R293). -/
theorem State.lvrNext_open (hread : (s.lvr c).reading = none) (htear : (s.ctx c).tear = none) (hload : (s.lvr c).load = none)
    (hen : s.flag (Fld.lvrDescCtrlEn c) = true) (hidle : s.ctxState c ≠ ctxIdle) (hfault : s.ctxState c ≠ ctxFaulted) :
    s.lvrNext c = (if (s.lvr c).swap.isNone then (s.lvrQueue c).head?
      else if s.swapWaits c then (s.lvrQueue c).find? fun i => (LvrCmd.of (s.lvrDesc c i)).op == 3 else none).map
        fun i => (i, LvrCmd.of (s.lvrDesc c i)) := by
  unfold State.lvrNext
  dsimp only
  rw [if_neg (by simp [hread, htear, hload, hen, hidle, hfault])]

theorem State.reading_of_lvrNext (h : s.lvrNext c = some (ring, d)) : (s.lvr c).reading = none := by
  unfold State.lvrNext at h
  dsimp only at h
  split at h
  · cases h
  · next hopen =>
    simp only [Bool.or_eq_true, not_or, Option.isSome_iff_ne_none, not_not] at hopen
    exact hopen.2

theorem State.desc_of_lvrNext (h : s.lvrNext c = some (ring, d)) : d = LvrCmd.of (s.lvrDesc c ring) := by
  unfold State.lvrNext at h
  dsimp only at h
  split at h
  · cases h
  · obtain ⟨i, -, hi⟩ := Option.map_eq_some_iff.1 h
    cases hi
    rfl

theorem State.swap_of_swapWaits (h : s.swapWaits c = true) : (s.lvr c).swap.isNone = false := by
  unfold State.swapWaits at h
  cases hswap : (s.lvr c).swap with
  | none => simp [hswap] at h
  | some v => rfl

theorem State.lvrStart_refused (phase : Nat) (h : (s.lvrTake c ring).lvrRefused c d = some st) :
    s.lvrStart c ring d phase = (s.lvrTake c ring).lvrEnd c ring st 0 0 := by
  unfold State.lvrStart
  simp only [h]

theorem LvrStarts.lvrStart (h : LvrStarts s c ring d w) (phase : Nat) :
    (s.lvrStart c ring d phase).vblPump = w.readsManifest c ring d phase := by
  obtain ⟨-, rfl, hfits⟩ := h
  unfold State.lvrStart State.readsManifest
  simp only [hfits]

theorem exec_lvrLoad_starts (man : Reply) (h : s.lvrNext c = some (ring, d)) (hop : d.op = 1) :
    exec (.lvrLoad c man) s = .next (s.clocked (s.lvrStart c ring d 0).vblPump) := by
  change execLvrLoad c man s = _
  simp only [execLvrLoad, State.lvrLoad, State.reading_of_lvrNext h, State.loadStart, h, hop, bne_self_eq_false, Bool.false_eq_true,
    if_false]

theorem exec_lvrSwap_starts (man : Reply) (h : s.lvrNext c = some (ring, d)) (hop : d.op = 2) :
    exec (.lvrSwap c man) s = .next (s.clocked (s.lvrStart c ring d 1).vblPump) := by
  change execLvrSwap c man s = _
  simp only [execLvrSwap, State.lvrSwap, State.reading_of_lvrNext h, State.swapStart, h, hop, bne_self_eq_false, Bool.false_eq_true,
    if_false]

theorem exec_lvrLoad_none (man : Reply) (h : s.lvrNext c = none) (hread : (s.lvr c).reading = none) :
    exec (.lvrLoad c man) s = .next (s.clocked s.vblPump) := by
  change execLvrLoad c man s = _
  simp only [execLvrLoad, State.lvrLoad, hread, State.loadStart, h]

theorem exec_lvrSwap_none (man : Reply) (h : s.lvrNext c = none) (hread : (s.lvr c).reading = none) :
    exec (.lvrSwap c man) s = .next (s.clocked s.vblPump) := by
  change execLvrSwap c man s = _
  simp only [execLvrSwap, State.lvrSwap, hread, State.swapStart, h]

theorem exec_lvrFence_none (h : s.lvrNext c = none) : exec (.lvrFence c) s = .next s := by
  change execLvrFence c s = _
  simp only [execLvrFence, h, State.clocked_self]

theorem exec_lvrFence_refused (h : s.lvrNext c = some (ring, d)) (hop : d.op = 4)
    (hbad : (s.lvrTake c ring).lvrRefused c d = some st) :
    exec (.lvrFence c) s = .next (s.clocked ((s.lvrTake c ring).lvrEnd c ring st 0 0)) := by
  change execLvrFence c s = _
  rw [execLvrFence, h]
  simp only [hop, hbad]
  rfl

theorem LvrStarts.exec_lvrFence (h : LvrStarts s c ring d w) (hop : d.op = 4) :
    exec (.lvrFence c) s = .next (s.clocked (w.lvrEnd c ring (if w.lvrState c 4 = true then 0 else 5) 0 0)) := by
  obtain ⟨hnext, rfl, hfits⟩ := h
  change execLvrFence c s = _
  rw [execLvrFence, hnext]
  simp only [hop, hfits]
  rfl

/-! ## WRITE_BACK (R307) -/

theorem exec_lvrWriteBack_none (replies : List Reply) (h : s.lvrNext c = none) : exec (.lvrWriteBack c replies) s = .next s := by
  change execLvrWriteBack c replies s = _
  simp only [execLvrWriteBack, State.lvrWriteBack, h, State.clocked_self]

theorem exec_lvrWriteBack_refused (replies : List Reply) (h : s.lvrNext c = some (ring, d)) (hop : d.op = 3)
    (hbad : (s.lvrTake c ring).lvrRefused c d = some st) :
    exec (.lvrWriteBack c replies) s = .next (s.clocked ((s.lvrTake c ring).lvrEnd c ring st 0 0)) := by
  change execLvrWriteBack c replies s = _
  simp only [execLvrWriteBack, State.lvrWriteBack, h, hop, hbad, bne_self_eq_false, Bool.false_eq_true, if_false]

/-- A WRITE_BACK in order sends its shard, where some port reaches the node. -/
theorem LvrStarts.exec_lvrWriteBack (h : LvrStarts s c ring d w) (hop : d.op = 3) (hstate : w.lvrState c 3 = true)
    (replies : List Reply) : exec (.lvrWriteBack c replies) s = .next (s.clocked (if w.writePorts c d.a1 = [] then w.lvrEnd c ring 15 0 0
      else w.lvrSend c ring d (w.writePorts c d.a1) (shardChunks d) replies)) := by
  obtain ⟨hnext, rfl, hfits⟩ := h
  change execLvrWriteBack c replies s = _
  simp only [execLvrWriteBack, State.lvrWriteBack, hnext, hop, hfits, hstate, bne_self_eq_false, Bool.false_eq_true, Bool.not_true,
    if_false, List.isEmpty_iff]

theorem State.ok_of_lvrRefused (h : w.lvrRefused c d = none) : d.ok = true := by
  unfold State.lvrRefused at h
  split at h
  · cases h
  · next hok => simpa using hok

/-- A WRITE_BACK in its format sends a tile at least (R289). -/
theorem LvrCmd.count_pos_of_ok {b : List Byte} (hop : (LvrCmd.of b).op = 3) (hok : (LvrCmd.of b).ok = true) :
    1 ≤ (LvrCmd.of b).count := by
  change leAt b 0 1 = 3 at hop
  change 1 ≤ leAt b 4 4
  unfold LvrCmd.of at hok
  simp only [hop, Bool.and_eq_true, decide_eq_true_eq] at hok
  obtain ⟨-, ⟨⟨⟨-, hpos⟩, -⟩, -⟩, -⟩ := hok
  exact hpos

/-- A shard of at most 1 MiB is one chunk. -/
theorem shardChunks_one (hpos : 1 ≤ d.count) (hle : d.count ≤ 256) : shardChunks d = [(0, d.a0, 4096 * d.count)] := by
  have hchunks : ceilDiv (4096 * d.count) (2 ^ 20) = 1 := by
    unfold ceilDiv
    omega
  have hlen : min (2 ^ 20) (4096 * d.count) = 4096 * d.count := by omega
  simp only [shardChunks, hchunks, hlen, List.range_one, List.map_cons, List.map_nil, Nat.zero_mul, Nat.add_zero, Nat.sub_zero]

/-- A clean shard of one chunk is sent, and its doorbell rung after it. -/
theorem State.lvrSend_one {ports : List Nat} (hchunks : shardChunks d = [(0, d.a0, 4096 * d.count)]) (hhash : bitAt d.flags 2 = false)
    (hclean : w.lvrPoison c d.a0 (4096 * d.count) = []) : w.lvrSend c ring d ports (shardChunks d) [] =
      ((w.emit (.chunk ports.head? (w.jobOf c) d.a1 (w.lvrRead c d.a0 (4096 * d.count)))).emit
        (.ring (w.jobOf c) d.a2 d.arg)).lvrEnd c ring 0 1 0 := by
  have hport : ports[0 % ports.length]? = ports.head? := by
    rw [Nat.zero_mod, List.head?_eq_getElem?]
  rw [State.lvrSend, hchunks]
  simp only [State.sendChunks, hclean, hport, List.isEmpty_nil, Bool.not_true, Bool.false_eq_true, if_false, List.headD_nil, Nat.sub_self,
    Nat.add_zero, State.lvrSent, hhash]
  rfl

end

/-! ## SWAP: phase 1 (R303, R305) -/

section
variable {u w : State} {c ring : Nat} {man : Reply} {m : List Byte} {d : LvrCmd}

theorem State.swapManifest_refused {st : Nat} (hu : u = (w.readRest c d man).setLvr c { w.lvr c with reading := none })
    (h : u.takeManifest c ring man = (u, .ok m)) (hstate : u.lvrState c 2 = true)
    (hdup : (u.listed c d m).eraseDups.length = (u.listed c d m).length) (hbad : u.swapRefused c d m (u.listed c d m) = some st) :
    w.swapManifest c ring d man = u.lvrEnd c ring st 0 0 := by
  unfold State.swapManifest
  simp only [← hu, h, hstate, hdup, hbad, Bool.not_true, Bool.false_eq_true, bne_self_eq_false, if_false]

/-- A SWAP whose checks pass keeps its manifest, asks for its pages and enters phase 1. -/
theorem State.swapManifest_begins (hu : u = (w.readRest c d man).setLvr c { w.lvr c with reading := none })
    (h : u.takeManifest c ring man = (u, .ok m)) (hstate : u.lvrState c 2 = true)
    (hdup : (u.listed c d m).eraseDups.length = (u.listed c d m).length) (hok : u.swapRefused c d m (u.listed c d m) = none)
    (hbuf : u.swapBufOk c (4096 * swapTiles m (u.listed c d m)) = true) {t : State} {x : State × LvrJob}
    (ht : t = (u.lvrWrite c (u.get64 (Reg.lvrManBase c) % 2 ^ 44 + 8388608) m fun _ => false).1)
    (hx : x = t.askPages c (lvrJob ring (w.lvrDesc c ring) m (u.listed c d m) (listTensors m (u.listed c d m)))) :
    w.swapManifest c ring d man = x.1.setLvr c { x.1.lvr c with
      swap := some (swapBegun x.2 (if bitAt d.arg 16 then none else some (d.arg % 65536))) } := by
  unfold State.swapManifest
  simp only [← hu, h, hstate, hdup, hok, hbuf, ← ht, ← hx, Bool.not_true, Bool.false_eq_true, bne_self_eq_false, if_false]
  rfl

end

theorem ManifestIn.exec_lvrSwap {s u : State} {c : CtxId} {ring : Nat} {man : Reply} {d : LvrCmd} (h : ManifestIn s c 2 ring d man u) :
    ∃ w : State, u = (w.readRest c d man).setLvr c { w.lvr c with reading := none } ∧ w.lvrDesc c ring = s.lvrDesc c ring ∧
      exec (.lvrSwap c man) s = .next (s.clocked (w.swapManifest c ring d man).vblPump) := by
  obtain ⟨t, hread⟩ := h.reading
  obtain ⟨w, hu, hdesc, hreply⟩ := h.engineReply
  refine ⟨w, hu, hdesc, ?_⟩
  change execLvrSwap c man s = _
  simp only [execLvrSwap, State.lvrSwap, hread, ← h.desc, h.code, hreply, beq_self_eq_true, if_true]
  rfl

/-! ## SWAP: phase 3 (R304) -/

section
variable {s : State} {c : CtxId} {w : Swap}

/-- The context is HELD, and no task waits to pass its threshold (R304). -/
def State.ctxHolds (s : State) (c : Nat) : State :=
  (s.setCtx c { s.ctx c with releases := (s.ctx c).releases.filter fun r => r.wait != .threshold }).put (Fld.ctxStatusState c) ctxHeld

theorem exec_swapHold (h : (s.lvr c).swap = some w) (hstate : s.ctxState c = ctxRunning)
    (hgen : s.holdsAt c ((s.ctx c).gen + 1) = true) (hall : s.allHeld c = true) : exec (.swapHold c) s =
      .next (s.clocked (if w.job.wantChunks.isEmpty then (s.ctxHolds c).startExchange c { w with phase := 3 }
        else (s.ctxHolds c).setSwap c { w with phase := 3 })) := by
  change execSwapHold c s = _
  simp only [execSwapHold, State.swapHold, h, hstate, hgen, hall, beq_self_eq_true, Bool.true_or, Bool.and_self, if_true]
  rfl

theorem exec_swapHold_early (h : s.holdsAt c ((s.ctx c).gen + 1) = false) : exec (.swapHold c) s = .next s := by
  have hsame : s.swapHold c = s := by
    unfold State.swapHold
    split
    · rfl
    · exact if_neg (by simp [h])
  change execSwapHold c s = _
  rw [execSwapHold, hsame, State.clocked_self]

theorem State.lvr_setSwap (s : State) (c : Nat) (w : Swap) : (s.setSwap c w).lvr c = { s.lvr c with swap := some w } := by
  rw [State.setSwap, State.lvr_put, State.lvr_setLvr]

theorem State.get_setSwap_ne (s : State) (w : Swap) {c : Nat} {f : Fld} (h : f.addr ≠ Reg.lvrStatus c) :
    (s.setSwap c w).get f = s.get f := by
  rw [State.setSwap, State.get_put_ne _ _ _ _ h, State.get_setLvr]

theorem State.get_setSwap_phase (s : State) (c : Nat) {w : Swap} (h : w.phase < 8) :
    (s.setSwap c w).get (Fld.lvrStatusPhase c) = w.phase := by
  rw [State.setSwap, State.get_put_same _ _ _ (by decide : 24 + 3 ≤ 32)]
  exact Nat.mod_eq_of_lt h

theorem State.setSwap_mem (s : State) (c : Nat) (w : Swap) : (s.setSwap c w).mem = s.mem := by
  rw [State.setSwap, State.put_mem, State.setLvr_mem]

theorem State.get_ctxHolds_state (s : State) (c : Nat) : (s.ctxHolds c).get (Fld.ctxStatusState c) = ctxHeld := by
  rw [State.ctxHolds, State.get_put_same _ _ _ (by decide : 16 + 3 ≤ 32)]
  rfl

theorem State.ctxHolds_mem (s : State) (c : Nat) : (s.ctxHolds c).mem = s.mem := by
  rw [State.ctxHolds, State.put_mem]
  rfl

/-! ## The exchange (R305) -/

theorem Memory.bytes_store_apart (m : Memory) {key k n : Nat} {bs : List Byte} (pz : Nat → Bool)
    (h : k + n ≤ key ∨ key + bs.length ≤ k) : (m.store key bs pz).bytes k n = m.bytes k n := by
  rw [Memory.bytes_eq, Memory.bytes_eq]
  refine List.map_congr_left fun i hi => Memory.byte_store_out m pz ?_
  have hi := List.mem_range.1 hi
  omega

theorem State.place_upper {s u : State} (hctxs : u.ctxs = s.ctxs) (c : Nat) {a : Nat} (h : upperTier a = true) :
    u.place c a = s.place c a := by
  have hctx : u.ctx c = s.ctx c := by rw [State.ctx, State.ctx, hctxs]
  rcases region_of_upperTier h with ⟨k, o, hr⟩ | ⟨k, o, hr⟩ <;> simp only [State.place, hr, hctx]

/-- A page of T0 and T1 is mapped by the contexts alone. -/
theorem State.mapped_page {s u : State} (hctxs : u.ctxs = s.ctxs) (c : Nat) {a : Nat} (hal : a % 4096 = 0) (hup : upperTier a = true) :
    u.mapped c a 4096 = s.mapped c a 4096 := by
  have hin (b : Nat) (hb : b ≤ a + 4096 - 1) : u.place c b = s.place c b :=
    State.place_upper hctxs c (upperTier_iff.2 (by have := upperTier_iff.1 hup; omega))
  have hall : ∀ q ∈ sectorsOf a 4096, (u.place c (if 64 * q < a then a else 64 * q)).isSome =
      (s.place c (if 64 * q < a then a else 64 * q)).isSome := fun q hq => by
    obtain ⟨-, hhigh⟩ := mem_sectorsOf hq
    rw [hin _ (by split <;> omega)]
  have hsame : ((sectorsOf a 4096).all fun q => (u.place c (if 64 * q < a then a else 64 * q)).isSome) =
      (sectorsOf a 4096).all fun q => (s.place c (if 64 * q < a then a else 64 * q)).isSome := by
    rw [Bool.eq_iff_iff, List.all_eq_true, List.all_eq_true]
    exact forall₂_congr fun q hq => by rw [hall q hq]
  rw [State.mapped, State.mapped, hsame, hin _ le_rfl]

theorem State.lvrRead_page (s : State) (c : Nat) {a : Nat} (hal : a % 4096 = 0) (hup : upperTier a = true) :
    s.lvrRead c a 4096 = s.mem.bytes (s.key c a) 4096 := by
  unfold State.lvrRead
  rw [pieces_page a 4096 (by decide) (by omega)]
  rcases region_of_upperTier hup with ⟨k, o, hr⟩ | ⟨k, o, hr⟩ <;> simp [hr]

theorem State.lvrWrite_page (s : State) (c : Nat) {a : Nat} {bs : List Byte} (pz : Nat → Bool) (hlen : bs.length = 4096)
    (hal : a % 4096 = 0) (hup : upperTier a = true) (hmap : s.mapped c a 4096 = true) :
    ∃ q, (s.lvrWrite c a bs pz).1 = { s with mem := s.mem.store (s.key c a) bs q } := by
  have hwrite : (s.lvrWrite c a bs pz).1 = s.twrite c a bs pz := by
    have htake : bs.take 4096 = bs := List.take_of_length_le hlen.le
    unfold State.lvrWrite
    rw [hlen, pieces_page a 4096 (by decide) (by omega)]
    rcases region_of_upperTier hup with ⟨k, o, hr⟩ | ⟨k, o, hr⟩ <;> simp [hr, hmap, htake]
  exact ⟨_, hwrite.trans (s.twrite_page c a bs pz (by omega) (by omega))⟩

/-- The exchange of a page of T0 and T1 is a store at its key and one at the buffer's. -/
theorem State.exchange_page (s : State) (c : Nat) {buf a : Nat} (hbuf : buf % 4096 = 0) (ha : a % 4096 = 0) (hupBuf : upperTier buf = true)
    (hup : upperTier a = true) (hmapBuf : s.mapped c buf 4096 = true) (hmap : s.mapped c a 4096 = true) :
    ∃ p q, (s.exchange c buf 4096 [a]).1.ctxs = s.ctxs ∧ (s.exchange c buf 4096 [a]).1.mem =
      (s.mem.store (s.key c a) (s.mem.bytes (s.key c buf) 4096) p).store (s.key c buf) (s.mem.bytes (s.key c a) 4096) q := by
  unfold State.exchange
  dsimp only [List.headD_cons, List.foldl_cons, List.foldl_nil]
  rw [s.lvrRead_page c hbuf hupBuf, s.lvrRead_page c ha hup]
  generalize hdraw : ({ s with draws := s.draws + 1 } : State) = t
  have hctxs : t.ctxs = s.ctxs := by rw [← hdraw]
  have hmem : t.mem = s.mem := by rw [← hdraw]
  obtain ⟨p, hp⟩ := t.lvrWrite_page c (fun q => (s.lvrPoison c buf 4096).contains (q - a / 64 + buf / 64))
    (s.mem.length_bytes (s.key c buf) 4096) ha hup ((State.mapped_page hctxs c ha hup).trans hmap)
  rw [hp]
  generalize hstored : ({ t with mem := t.mem.store (t.key c a) (s.mem.bytes (s.key c buf) 4096) p } : State) = v
  have hctxsV : v.ctxs = s.ctxs := by rw [← hstored, ← hctxs]
  obtain ⟨q, hq⟩ := v.lvrWrite_page c (fun q => (s.lvrPoison c a 4096).contains (q - buf / 64 + a / 64))
    (s.mem.length_bytes (s.key c a) 4096) hbuf hupBuf ((State.mapped_page hctxsV c hbuf hupBuf).trans hmapBuf)
  rw [hq]
  refine ⟨p, q, hctxsV, ?_⟩
  rw [State.key_upper hctxsV c hupBuf, ← hstored, State.key_upper hctxs c hup, hmem]

/-- The exchange puts the new bytes in place and the old ones in the buffer, where the two lie apart. -/
theorem State.lvrRead_exchange (s : State) (c : Nat) {buf a : Nat} (hbuf : buf % 4096 = 0) (ha : a % 4096 = 0)
    (hupBuf : upperTier buf = true) (hup : upperTier a = true) (hmapBuf : s.mapped c buf 4096 = true) (hmap : s.mapped c a 4096 = true)
    (hapart : s.key c buf + 4096 ≤ s.key c a ∨ s.key c a + 4096 ≤ s.key c buf) :
    (s.exchange c buf 4096 [a]).1.lvrRead c a 4096 = s.lvrRead c buf 4096 ∧
      (s.exchange c buf 4096 [a]).1.lvrRead c buf 4096 = s.lvrRead c a 4096 := by
  obtain ⟨p, q, hctxs, hmem⟩ := s.exchange_page c hbuf ha hupBuf hup hmapBuf hmap
  have hlen (key : Nat) : (s.mem.bytes key 4096).length = 4096 := s.mem.length_bytes key 4096
  have hsame (m : Memory) (k key : Nat) (pz : Nat → Bool) :
      (m.store k (s.mem.bytes key 4096) pz).bytes k 4096 = s.mem.bytes key 4096 := by
    have hread := Memory.bytes_store_same m k (s.mem.bytes key 4096) pz
    rwa [hlen] at hread
  rw [(s.exchange c buf 4096 [a]).1.lvrRead_page c ha hup, (s.exchange c buf 4096 [a]).1.lvrRead_page c hbuf hupBuf,
    s.lvrRead_page c ha hup, s.lvrRead_page c hbuf hupBuf, hmem, State.key_upper hctxs c hup, State.key_upper hctxs c hupBuf]
  refine ⟨?_, hsame _ _ _ _⟩
  rw [Memory.bytes_store_apart _ _ (by rw [hlen]; exact hapart.symm), hsame]

end

/-! ## SWAP: phases 4 and 5 (R305, R306) -/

section
variable {s t : State} {c : CtxId} {w v : Swap} {req : Requester}

/-- Once the exchange is done, a SWAP with HOLD waits in phase 5, and one without is released. -/
theorem exec_swapExchangeDone (h : (s.lvr c).swap = some w) (hfin : w.fin = none) (hphase : w.phase = 4)
    (hx : s.exchangeAll c w = (t, v)) (hback : v.back = none) : exec (.swapExchangeDone c) s =
      .next (s.clocked (if bitAt (LvrCmd.of v.job.desc).flags 1 then t.setSwap c { v with phase := 5, since := t.tick }
        else t.swapRelease c v (if v.lost then 3 else 0))) := by
  change execSwapExchangeDone c s = _
  simp only [execSwapExchangeDone, State.swapDone, h, hfin, hphase, hx, hback, bne_self_eq_false, Bool.false_eq_true, if_false]

/-- Once the bytes are back, the SWAP is released with the status that sent them back. -/
theorem exec_swapExchangeDone_back {st : Nat} (h : (s.lvr c).swap = some w) (hfin : w.fin = none) (hphase : w.phase = 4)
    (hx : s.exchangeAll c w = (t, v)) (hback : v.back = some st) :
    exec (.swapExchangeDone c) s = .next (s.clocked (t.swapRelease c v st)) := by
  change execSwapExchangeDone c s = _
  simp only [execSwapExchangeDone, State.swapDone, h, hfin, hphase, hx, hback, bne_self_eq_false, Bool.false_eq_true, if_false]

theorem exec_swapCommit (h : s.accepts req (Reg.lvrSwapCmd c) 1 = true) : exec (.swapCommit req c) s = .next (s.swapCmd req c 1) :=
  congrArg Host.Outcome.next (State.write_of_accepts h _)

theorem exec_swapRollback (h : s.accepts req (Reg.lvrSwapCmd c) 2 = true) : exec (.swapRollback req c) s = .next (s.swapCmd req c 2) :=
  congrArg Host.Outcome.next (State.write_of_accepts h _)

theorem State.swapCmd_commit (h : (s.lvr c).swap = some w) (hphase : w.phase = 5) (hfin : w.fin = none) :
    s.swapCmd req c 1 = s.swapRelease c w (if w.lost then 3 else 0) := by
  simp [State.swapCmd, h, hphase, hfin]

theorem State.swapCmd_rollback (h : (s.lvr c).swap = some w) (hphase : w.phase = 5) (hfin : w.fin = none) :
    s.swapCmd req c 2 = s.setSwap c { w with phase := 4, back := some 14 } := by
  simp [State.swapCmd, h, hphase, hfin]

/-- COMMIT and ROLLBACK outside phase 5 are counted. -/
theorem State.swapCmd_outside {cmd : Nat} (h0 : cmd ≠ 0) (h3 : cmd ≠ 3) (h : ∀ w, (s.lvr c).swap = some w → w.phase ≠ 5) :
    s.swapCmd req c cmd = s.misusePart (s.partOf c) := by
  unfold State.swapCmd
  split
  · exact absurd rfl h0
  · exact absurd rfl h3
  · cases hswap : (s.lvr c).swap with
    | none => rfl
    | some w => exact if_pos (by simp [h w hswap])

theorem exec_swapTimeout (h : (s.lvr c).swap = some w) (hphase : w.phase = 5) (hfin : w.fin = none) :
    exec (.swapTimeout c) s = .next (s.clocked (if s.tick < w.since + secondsOf (s.get (Fld.lvrTimeoutHoldS c)) then s
      else (s.raiseCtx srcLouvre 0x0404 2 c (manStep w.job.man) w.job.ring).setSwap c { w with phase := 4, back := some 15 })) := by
  change execSwapTimeout c s = _
  simp only [execSwapTimeout, h, hphase, hfin, bne_self_eq_false, Option.isSome_none, Bool.or_self, Bool.false_or, decide_eq_true_eq]

theorem exec_swap_none (h : (s.lvr c).swap = none) :
    exec (.swapTimeout c) s = .next s ∧ exec (.swapHold c) s = .next s ∧ exec (.swapExchangeDone c) s = .next s := by
  change execSwapTimeout c s = _ ∧ execSwapHold c s = _ ∧ execSwapExchangeDone c s = _
  simp only [execSwapTimeout, execSwapHold, execSwapExchangeDone, State.swapHold, State.swapDone, h, State.clocked_self, and_self]

end

/-- Settles O46: the ring's registers, the start and the end of a descriptor, then a SWAP phase by phase. -/
theorem louvreRingAndSwaps : Obligations.LouvreRingAndSwaps := by
  unfold Obligations.LouvreRingAndSwaps
  refine ⟨fun req c v s w h hoff hw => ⟨fun hok => ?enabled, fun hbad => ?refused⟩, fun req c v s h => exec_lvrDescTailWrite h,
    fun c s ring d st h hbad => ⟨fun man hop => ?loadBad, fun man hop => ?swapBad,
      fun replies hop => exec_lvrWriteBack_refused replies h hop hbad, fun hop => exec_lvrFence_refused h hop hbad⟩,
    fun c man s ring d w h => ⟨fun hop => ?loadReads, fun hop => ?swapReads⟩, fun c s ring d w h hop => h.exec_lvrFence hop,
    fun c s ring d w h hop hstate hports hcount hhash hclean => ?sent, fun c s ring d w replies h hop hstate hports => ?noPort,
    fun c s hread htear hload hen hidle hfault => ⟨fun hswap i hi => ?front, fun i hwaits hi => ?behind⟩,
    fun c man replies s h hread => ⟨exec_lvrLoad_none man h hread, exec_lvrSwap_none man h hread, exec_lvrWriteBack_none replies h,
      exec_lvrFence_none h⟩,
    fun s c ring st n pz hst hended hhead => ⟨s.get_lvrEnd_lastStatus c ring n pz hst hended hhead,
      s.get_lvrEnd_head c ring st n pz hended hhead⟩,
    fun c man s ring d u m t x h hman hstate hdup hok hbuf ht hx => ?begins,
    fun c man s ring d u m st h hman hstate hdup hbad => ?mismatch,
    fun c s w h hstate hgen hall hwant hlock => ?holds, fun c s w h hstate hgen hall hwant => ?exchanges,
    fun c s h => exec_swapHold_early h,
    fun s c buf a hbuf ha hupBuf hup hmapBuf hmap hapart => s.lvrRead_exchange c hbuf ha hupBuf hup hmapBuf hmap hapart,
    fun c s w t v h hfin hphase hx hback => ⟨fun hhold => ?waits, fun hhold => ?releases⟩,
    fun c s w t v st h hfin hphase hx hback => exec_swapExchangeDone_back h hfin hphase hx hback,
    fun req c s w h hswap hphase hfin => ?commit,
    fun req c s w h hswap hphase hfin => ?rollback, fun req c s hout => ⟨fun h => ?commitOut, fun h => ?rollbackOut⟩,
    fun c s w h hphase hfin => ⟨fun hlate => ?late, fun hearly => ?early⟩, fun c s h => exec_swap_none h⟩
  case enabled =>
    refine ⟨w.lvrRingOn c, by rw [exec_lvrDescEnable h hoff hw, if_pos hok], w.flag_lvrRingOn c, ?_, ?_, ?_, ?_⟩
    · rw [State.get_lvrRingOn_head, hw, State.get_put_ne _ _ _ _ (lvrDescTail_ne_lvrDescCtrl c)]
    · rw [State.lvrRingOn, State.lvr_setLvr, hw, State.get_put_ne _ _ _ _ (lvrDescTail_ne_lvrDescCtrl c)]
    · rw [State.lvrRingOn, State.lvr_setLvr]
    · rw [State.lvrRingOn_mem, hw, State.put_mem]
  case refused => rw [exec_lvrDescEnable h hoff hw, if_neg (ne_true_of_eq_false hbad)]
  case loadBad => rw [exec_lvrLoad_starts man h hop, State.lvrStart_refused 0 hbad]
  case swapBad => rw [exec_lvrSwap_starts man h hop, State.lvrStart_refused 1 hbad]
  case loadReads => rw [exec_lvrLoad_starts man h.next hop, h.lvrStart]
  case swapReads => rw [exec_lvrSwap_starts man h.next hop, h.lvrStart]
  case sent =>
    have hdesc : d = LvrCmd.of (s.lvrDesc c ring) := State.desc_of_lvrNext h.next
    have hpos : 1 ≤ d.count := by
      have hok := State.ok_of_lvrRefused h.fits
      rw [hdesc] at hop hok ⊢
      exact LvrCmd.count_pos_of_ok hop hok
    rw [h.exec_lvrWriteBack hop hstate, if_neg hports, State.lvrSend_one (shardChunks_one hpos hcount) hhash hclean]
  case noPort => rw [h.exec_lvrWriteBack hop hstate, if_pos hports]
  case front =>
    rw [State.lvrNext_open hread htear hload hen hidle hfault, hswap, Option.isNone_none, if_pos rfl, hi]
    rfl
  case behind =>
    rw [State.lvrNext_open hread htear hload hen hidle hfault, if_neg (ne_true_of_eq_false (State.swap_of_swapWaits hwaits)),
      if_pos hwaits, hi]
    rfl
  case begins =>
    obtain ⟨w, hu, hdesc, hexec⟩ := h.exec_lvrSwap
    rw [← hdesc] at hx
    rw [hexec, State.swapManifest_begins hu hman hstate hdup hok hbuf ht hx]
  case mismatch =>
    obtain ⟨w, hu, -, hexec⟩ := h.exec_lvrSwap
    rw [hexec, State.swapManifest_refused hu hman hstate hdup hbad]
  case holds =>
    refine ⟨(s.ctxHolds c).setSwap c { w with phase := 3 }, ?_, ?_, ?_, State.get_setSwap_phase _ c (by decide : 3 < 8), ?_⟩
    · rw [exec_swapHold h hstate hgen hall, if_neg (by simpa using hwant), State.clocked, if_pos hlock]
    · rw [State.get_setSwap_ne _ _ (ctxStatus_ne_lvrStatus c.isLt), State.get_ctxHolds_state]
    · rw [State.lvr_setSwap]
    · rw [State.setSwap_mem, State.ctxHolds_mem]
  case exchanges => rw [exec_swapHold h hstate hgen hall, hwant, List.isEmpty_nil, if_pos rfl, State.ctxHolds]
  case waits => rw [exec_swapExchangeDone h hfin hphase hx hback, if_pos hhold]
  case releases => rw [exec_swapExchangeDone h hfin hphase hx hback, if_neg (ne_true_of_eq_false hhold)]
  case commit => rw [exec_swapCommit h, State.swapCmd_commit hswap hphase hfin]
  case rollback => rw [exec_swapRollback h, State.swapCmd_rollback hswap hphase hfin]
  case commitOut => rw [exec_swapCommit h, State.swapCmd_outside (by decide) (by decide) hout]
  case rollbackOut => rw [exec_swapRollback h, State.swapCmd_outside (by decide) (by decide) hout]
  case late => rw [exec_swapTimeout h hphase hfin, if_neg (Nat.not_lt.2 hlate)]
  case early => rw [exec_swapTimeout h hphase hfin, if_pos hearly, State.clocked_self]

end Sys2Proof.Machine

/-! # Records routed and filed (R484, R488, R489, R491, R492)

A record that its queue takes at once is one store in the ring; the signal and the level source that may follow it touch neither memory, nor
TAIL, nor what waits in the pending store. -/

namespace Sys2Proof.Machine
open Sys2Proof

/-! ## Counters that saturate -/

theorem State.get_bump (s : State) (f : Fld) (n : Nat) (h : f.lo + f.w ≤ 32) : (s.bump f n).get f = min (s.get f + n) (2 ^ f.w - 1) := by
  have hpos := Nat.two_pow_pos f.w
  rw [State.bump, State.get_put_same _ _ _ h, Nat.mod_eq_of_lt (by split <;> omega)]
  split <;> omega

theorem State.get_bump_ne (s : State) (f g : Fld) (n : Nat) (h : g.addr ≠ f.addr) : (s.bump f n).get g = s.get g := State.get_put_ne s f g _ h

/-! ## EVENT_REPORT (R312, R488) -/

section
variable {s : State} {e : Event}

theorem exec_eventReport (src : BitVec 16) (s : State) : exec (.eventReport src) s = .next (s.clocked (s.eventReport src.toNat)) := rfl

theorem State.eventReport_none {src : Nat} (h : (s.raised.find? fun x => x.src == src) = none ∨ s.intakeOut src = true) :
    s.eventReport src = s := by
  unfold State.eventReport
  split
  · rfl
  · next e he =>
    rcases h with h | h
    · rw [h] at he
      contradiction
    · exact if_pos h

theorem State.eventReport_some {src : Nat} (h : (s.raised.find? fun x => x.src == src) = some e) (hin : s.intakeOut src = false)
    (hlost : SMap.get? s.lost src = none) : s.eventReport src = (({ s with raised := s.raised.erase e } : State).evcRoute e).evcFlow := by
  simp only [State.eventReport, h, hin, hlost, Bool.false_eq_true, if_false]

theorem State.eventReport_lost {src n t : Nat} (h : (s.raised.find? fun x => x.src == src) = some e) (hin : s.intakeOut src = false)
    (hlost : SMap.get? s.lost src = some (n, t)) : s.eventReport src =
      ((({ s with raised := s.raised.erase e, lost := SMap.del s.lost src } : State).raiseMod src 1 2
        (n % 2 ^ 32 + 2 ^ 35) t).evcRoute e).evcFlow := by
  simp only [State.eventReport, h, hin, hlost, Bool.false_eq_true, if_false]

/-! ## The queue of a record (R489) -/

theorem State.evcRoute_part (hpart : e.part < 32) (hen : s.flag (Fld.evcPartQEn e.part) = true) :
    s.evcRoute e = s.evcFile (s.get (Fld.evcPartQQ e.part)) e := by
  simp [State.evcRoute, State.evcQueue, hpart, hen]

theorem State.evcRoute_source {n : Nat} (h : 32 ≤ e.part ∨ s.flag (Fld.evcPartQEn e.part) = false)
    (hn : n = field (s.rd (Reg.evcSrc (e.src / 8))) (4 * (e.src % 8)) 4) :
    s.evcRoute e = if 8 ≤ n then s.evcFile (n - 8) e else s.bump Fld.evcMaskedCount := by
  have hno : ¬ (decide (e.part < 32) && s.flag (Fld.evcPartQEn e.part)) = true := by
    rw [Bool.and_eq_true, decide_eq_true_eq]
    rintro ⟨hpart, hen⟩
    exact h.elim (Nat.not_le.2 hpart) (ne_false_of_eq_true hen)
  rw [State.evcRoute, State.evcQueue, if_neg hno, ← hn]
  dsimp only
  by_cases hqueue : 8 ≤ n
  · rw [if_pos hqueue, if_pos hqueue]
  · rw [if_neg hqueue, if_neg hqueue]

end

/-! ## A record is dropped (R492) -/

section
variable (s : State) (q : Nat) (e : Event)

theorem State.evq_setEvq (x : EvcQ) : (s.setEvq q x).evq q = x := SMap.getD_putD_same ..

@[simp] theorem State.evq_put (f : Fld) (v : Nat) : (s.put f v).evq q = s.evq q := rfl

theorem State.evcFile_off (hgdis : s.gdis = false) (hoff : s.flag (Fld.evcQCtrlEn q) = false) : s.evcFile q e = s.evcDrop q e :=
  if_pos (by rw [hgdis, hoff]; rfl)

theorem State.evcFile_full (hgdis : s.gdis = true) (hfull : 4096 ≤ s.evcHeld) : s.evcFile q e = s.evcDrop q e := by
  simp [State.evcFile, hgdis, hfull]

theorem evcQDrop_ne_evcDropped : Reg.evcQDrop q ≠ Reg.evcDropped := by
  simp only [Reg.evcQDrop, Reg.evcDropped, Block.base]
  omega

theorem State.get_evcDrop : (s.evcDrop q e).get (Fld.evcQDropCount q) =
    min (s.get (Fld.evcQDropCount q) + 1) (2 ^ (Fld.evcQDropCount q).w - 1) :=
  (State.get_bump_ne _ _ _ _ (evcQDrop_ne_evcDropped q)).trans (State.get_bump _ _ _ (by decide : 0 + 32 ≤ 32))

theorem State.lost_evcDrop : ((s.evcDrop q e).evq q).lost = (s.evq q).lost + 1 := by
  rw [State.evcDrop, State.evq, State.bump_evc, State.bump_evc, ← State.evq, State.evq_setEvq]

theorem State.evcDrop_mem : (s.evcDrop q e).mem = s.mem := by
  rw [State.evcDrop, State.bump_mem, State.bump_mem, State.setEvq_mem]

/-! ## What follows a written record (R494 to R496) -/

/-- What the filing of a record shows in: memory, TAIL of its queue, and the records that wait for the queue. -/
def State.filed (s : State) (q : Nat) := (s.mem, s.get (Fld.evcQTailIndex q), (s.evq q).held)

theorem State.filed_setEvq {x : EvcQ} (h : x.held = (s.evq q).held) : (s.setEvq q x).filed q = s.filed q := by
  rw [State.filed, State.evq_setEvq, h]
  rfl

theorem State.filed_put {f : Fld} (v : Nat) (h : Reg.evcQTail q ≠ f.addr) : (s.put f v).filed q = s.filed q := by
  rw [State.filed, State.get_put_ne _ _ _ _ h]
  rfl

@[simp] theorem State.filed_emit (o : Out) : (s.emit o).filed q = s.filed q := rfl

@[simp] theorem State.filed_addReq (c : Nat) (use : ReqFor) (pt cls job addr opnd : Nat) (data : List Byte) :
    (s.addReq c use pt cls job addr opnd data).filed q = s.filed q := rfl

theorem evcQTail_ne_evcQStat : Reg.evcQTail q ≠ Reg.evcQStat q := by
  simp only [Reg.evcQTail, Reg.evcQStat]
  omega

theorem evcQTail_ne_evcQTgt : Reg.evcQTail q ≠ Reg.evcQTgt q := by
  simp only [Reg.evcQTail, Reg.evcQTgt]
  omega

theorem State.filed_foldl_svcLog (l : List (Event × Bool)) : (l.foldl (fun u r => u.svcLog r.1) s).filed q = s.filed q :=
  List.foldlRecOn (motive := fun u : State => u.filed q = s.filed q) l _ rfl fun _ hu _ _ => hu

theorem State.filed_logQueue : (s.logQueue q).filed q = s.filed q := by
  have hlog := s.filed_foldl_svcLog q ((s.evq q).ring.filter fun r => !r.2)
  refine (State.filed_setEvq _ q ?_).trans hlog
  exact (congrArg (fun x => x.2.2) hlog).symm

theorem State.filed_evcSignal : (s.evcSignal q).filed q = s.filed q := by
  have hput (u : State) (v : Nat) : (u.put (Fld.evcQStatSignalled q) v).filed q = u.filed q := u.filed_put q v (evcQTail_ne_evcQStat q)
  unfold State.evcSignal
  dsimp only
  split
  · rw [State.filed_setEvq _ _ (by rw [State.evq_put]), hput]
  · next t _ =>
    rw [apply_ite (State.filed · q), State.filed_emit, State.filed_addReq, ite_self, apply_ite (State.filed · q), State.filed_logQueue, ite_self,
      State.filed_put _ _ _ (evcQTail_ne_evcQTgt q), hput, State.filed_setEvq _ _ (by rfl)]

theorem State.filed_evcJudge : (s.evcJudge q).filed q = s.filed q := by
  unfold State.evcJudge
  dsimp only
  split
  · exact s.filed_evcSignal q
  · rfl

/-- A level source of the controller's own raises its record in the controller. -/
theorem State.filed_levelRaise {src : Nat} (h : src < 0x10000) : (s.levelRaise src).filed q = s.filed q := by
  unfold State.levelRaise
  split
  · rfl
  · split
    · rfl
    · rfl

theorem State.filed_evcWritten (hq : q < 8) : (s.evcWritten q e).filed q = (s.mem, (s.get (Fld.evcQTailIndex q) + 1) % 2 ^ 16, (s.evq q).held) := by
  have htail (u : State) (hmem : u.mem = s.mem) (hctrl : u.ctrl = (s.put (Fld.evcQTailIndex q) (s.get (Fld.evcQTailIndex q) + 1)).ctrl)
      (hqs : u.evc.qs = s.evc.qs) : u.filed q = (s.mem, (s.get (Fld.evcQTailIndex q) + 1) % 2 ^ 16, (s.evq q).held) := by
    have hget : u.get (Fld.evcQTailIndex q) = (s.get (Fld.evcQTailIndex q) + 1) % 2 ^ 16 := by
      rw [State.get, State.rd_eq_of_ctrl hctrl]
      exact State.get_put_same _ _ _ (by decide : 0 + 16 ≤ 32)
    rw [State.filed, hmem, hget, State.evq, hqs, State.evq]
  unfold State.evcWritten
  dsimp only
  rw [State.filed_evcJudge, State.filed_levelRaise _ _ (by omega), State.filed_setEvq]
  · split <;> exact htail _ rfl rfl rfl
  · rfl

/-! ## A queue that takes a record (R491) -/

/-- A queue writes nothing where no record waits for it. -/
theorem State.evcDrain_idle (fuel : Nat) (h : (s.evq q).held = []) : s.evcDrain fuel q = s := by
  cases fuel with
  | zero => rfl
  | succ fuel =>
    simp only [State.evcDrain, h]
    exact ite_self s

/-- A ring in a T1 slice in service takes a record as one store. -/
theorem State.evcPut_slice (hkind : s.flag (Fld.evcQCtrlKind q) = false)
    (hup : s.fenced (field (s.get64 (Reg.evcQBase q)) 29 8) = false) :
    s.evcPut q e = ({ s with mem := s.mem.store (s.tailKey q) e.bytes fun _ => false } : State).evcWritten q e := by
  simp only [State.evcPut, hkind, hup, Bool.false_eq_true, if_false]
  rfl

/-- A queue that can take its one held record writes it. -/
theorem State.evcDrain_one {s : State} {q : Nat} {e : Event} (fuel : Nat) (hgdis : s.gdis = false) (hen : s.flag (Fld.evcQCtrlEn q) = true)
    (hfault : s.flag (Fld.evcQStatFault q) = false) (hwriting : (s.evq q).writing = none) (hroom : s.evqCount q < s.evqSize q)
    (hheld : (s.evq q).held = [e]) (hlost : (s.evq q).lost = 0) :
    s.evcDrain (fuel + 1) q = ((s.setEvq q { s.evq q with held := [] }).evcPut q e).evcDrain fuel q := by
  simp [State.evcDrain, hgdis, hen, hfault, hwriting, Nat.not_le.2 hroom, hheld, hlost]

/-- A queue that is on, and whose pending store does not stop the record, writes it behind those that wait. -/
theorem State.evcFile_pump {s : State} {q : Nat} (e : Event) (hen : s.flag (Fld.evcQCtrlEn q) = true) (hgdis : s.gdis = false)
    (hheld : (s.evq q).held = []) (hwriting : (s.evq q).writing = none) (hfault : s.flag (Fld.evcQStatFault q) = false)
    (hroom : s.evqCount q < s.evqSize q) : s.evcFile q e = (s.setEvq q { s.evq q with held := [e] }).evcPump q := by
  simp [State.evcFile, hen, hgdis, hheld, hwriting, hfault, hroom]

theorem QueueTakes.filed_evcFile {s : State} {q : Nat} (h : QueueTakes s q) (hq : q < 8) (e : Event) :
    (s.evcFile q e).filed q = (s.mem.store (s.tailKey q) e.bytes fun _ => false, (s.get (Fld.evcQTailIndex q) + 1) % 2 ^ 16, []) := by
  obtain ⟨⟨hen, hfault, hgdis⟩, ⟨hheld, hwriting, hlost⟩, hroom, ⟨hkind, hup⟩, -⟩ := h
  rw [State.evcFile_pump e hen hgdis hheld hwriting hfault hroom]
  set w := s.setEvq q { s.evq q with held := [e] } with hw
  have hx : w.evq q = { s.evq q with held := [e] } := s.evq_setEvq q _
  have hwrite : ((w.setEvq q { w.evq q with held := [] }).evcPut q e).filed q =
      (s.mem.store (s.tailKey q) e.bytes fun _ => false, (s.get (Fld.evcQTailIndex q) + 1) % 2 ^ 16, []) := by
    rw [State.evcPut_slice (w.setEvq q _) q e hkind hup, State.filed_evcWritten _ _ _ hq]
    exact congrArg (fun x : EvcQ => (_, _, x.held)) (w.evq_setEvq q _)
  rw [State.evcPump, State.evcDrain_one (s := w) _ hgdis hen hfault (by rw [hx, hwriting]) hroom (by rw [hx]) (by rw [hx, hlost]),
    State.evcDrain_idle, hwrite]
  exact congrArg (fun x => x.2.2) hwrite

theorem Event.length_bytes (e : Event) : e.bytes.length = 32 := by
  simp only [Event.bytes, List.length_append, length_leBytes]

end

/-- Settles O52: what an accepted report does is its route, and a queue that takes a record stores it, after which nothing touches memory or
TAIL. -/
theorem eventsRoutedAndFiled : Obligations.EventsRoutedAndFiled := by
  unfold Obligations.EventsRoutedAndFiled
  refine ⟨fun src s e he hin hlost => ?accepted, fun src s e n t he hin hlost => ?lostBefore, fun src s h => ?nothing,
    fun s e hpart hen => State.evcRoute_part hpart hen, fun s e n h hn => State.evcRoute_source h hn,
    fun s q e hgdis hoff => s.evcFile_off q e hgdis hoff,
    fun s q e hgdis hfull => s.evcFile_full q e hgdis hfull,
    fun s q e => ⟨?dropped, s.lost_evcDrop q e, s.evcDrop_mem q e⟩, fun s q e h => ?taken, fun e => ⟨e.length_bytes, ?tick, ?word2, ?word3⟩⟩
  case accepted => rw [exec_eventReport, State.eventReport_some he hin hlost]
  case lostBefore => rw [exec_eventReport, State.eventReport_lost he hin hlost]
  case nothing => rw [exec_eventReport, State.eventReport_none h, State.clocked_self]
  case dropped =>
    rw [State.get_evcDrop]
    generalize 2 ^ (Fld.evcQDropCount q).w = k
    split <;> omega
  case taken =>
    have hfiled := h.filed_evcFile q.isLt e
    refine ⟨congrArg (fun x => x.2.1) hfiled, fun i b hb => ?_⟩
    obtain ⟨hi, hget⟩ := List.getElem?_eq_some_iff.1 hb
    have hmem : (s.evcFile q e).mem = s.mem.store (s.tailKey q) e.bytes fun _ => false := congrArg Prod.fst hfiled
    rw [hmem, Memory.byte_store_in _ _ _ _ _ hi, List.getD_eq_getElem _ _ hi, hget]
  case tick =>
    rw [Event.bytes, List.append_assoc, List.append_assoc]
    exact List.take_left' (length_leBytes ..)
  case word2 =>
    rw [Event.bytes, List.append_assoc, List.drop_left' (by rw [List.length_append, length_leBytes, length_leBytes])]
    exact List.take_left' (length_leBytes ..)
  case word3 => exact List.drop_left' (by simp only [List.length_append, length_leBytes])

end Sys2Proof.Machine

/-! # Merge nodes (R326, R327, R335)

A node that has one group of a side holds it; the other side's group makes it send their sum. A set-up that is accepted has no reserved bit,
so what the node stores of it is the word itself. -/

namespace Sys2Proof.Machine
open Sys2Proof

/-! ## Words added one by one (R327) -/

theorem leAt_flatMap_leBytes (f : Nat → Nat) {n w : Nat} (h : w < n) :
    leAt ((List.range n).flatMap fun i => leBytes 4 (f i)) (4 * w) 4 = f w % 2 ^ 32 := by
  obtain ⟨k, rfl⟩ : ∃ k, n = w + (k + 1) := ⟨n - w - 1, by omega⟩
  have hlen : ((List.range w).flatMap fun i => leBytes 4 (f i)).length = 4 * w := by rw [length_flatMap_leBytes, Nat.mul_comm]
  rw [leAt, List.range_add, List.flatMap_append, List.drop_left' hlen, List.range_succ_eq_map, List.map_cons, List.flatMap_cons,
    List.take_left' (length_leBytes ..), Nat.add_zero, ← List.append_nil (leBytes 4 (f w)), ofLe_leBytes_append]
  simp [ofLe]

theorem length_addWords (int32 : Bool) (a b : List Byte) : (addWords int32 a b).length = a.length / 4 * 4 := length_flatMap_leBytes ..

theorem leAt_addWords (int32 : Bool) (a b : List Byte) {w : Nat} (h : w < a.length / 4) : leAt (addWords int32 a b) (4 * w) 4 =
    if int32 then (leAt a (4 * w) 4 + leAt b (4 * w) 4) % 2 ^ 32
    else (f32Add (BitVec.ofNat 32 (leAt a (4 * w) 4)) (BitVec.ofNat 32 (leAt b (4 * w) 4))).1.toNat := by
  refine (leAt_flatMap_leBytes _ h).trans ?_
  cases int32
  · exact Nat.mod_eq_of_lt (BitVec.isLt _)
  · exact Nat.mod_mod ..

/-! ## A group reaches a node (R327) -/

section
variable {s : State} {g l r : Group} {n k : Nat} {right : Bool}

theorem exec_mergeFlitArrive (i : Nat) (s : State) : exec (.mergeFlitArrive i) s = .next (s.clocked (s.mergeArrive i)) := rfl

theorem State.mergeArrive_misfit {i : Nat} (hg : s.cores.groups[i]? = some g) (hdst : g.dst = .node n right) (hpath : s.groupPath g = .through)
    (h : s.flag (Fld.mrgNodeLoEn n) = false ∨ s.get (Fld.mrgNodeHiContext n) ≠ g.ctx ∨ s.flag (Fld.mrgNodeLoType n) ≠ g.int32) :
    s.mergeArrive i = (s.dropGroup i).bump (Fld.shtMisuseCount (s.partOf g.ctx)) (8 * g.count) := by
  have hmisfit : (!s.flag (Fld.mrgNodeLoEn n) || s.get (Fld.mrgNodeHiContext n) != g.ctx || s.flag (Fld.mrgNodeLoType n) != g.int32) = true := by
    simpa [or_assoc] using h
  simp only [State.mergeArrive, hg, hdst, hpath]
  exact if_pos hmisfit

/-- The groups that a node's two sides hold. -/
def State.nodeHeld (s : State) (n : Nat) : Option Group × Option Group := SMap.getD s.cores.merges n (none, none)

/-- Those groups with one more of a side. -/
def heldWith (held : Option Group × Option Group) (right : Bool) (g : Group) : Option Group × Option Group :=
  if right then (held.1, some g) else (some g, held.2)

/-- The one group on its way enters a node that it fits and whose side is free. -/
theorem State.mergeArrive_fits (hg : s.cores.groups = [g]) (hdst : g.dst = .node n right) (hpath : s.groupPath g = .through)
    (hen : s.flag (Fld.mrgNodeLoEn n) = true) (hctx : s.get (Fld.mrgNodeHiContext n) = g.ctx) (htype : s.flag (Fld.mrgNodeLoType n) = g.int32)
    (hfree : (if right then (s.nodeHeld n).2 else (s.nodeHeld n).1) = none) : s.mergeArrive 0 =
      State.mergeAll { s with cores.groups := [], cores.merges := SMap.put s.cores.merges n (heldWith (s.nodeHeld n) right g) } := by
  have hfirst : s.groupBehind 0 g = false := by rw [State.groupBehind, List.take_zero, List.any_nil]
  have hget : s.cores.groups[0]? = some g := by rw [hg]; rfl
  unfold State.nodeHeld at hfree
  simp only [State.mergeArrive, hget, hdst, hpath, hen, hctx, htype, hfirst, hfree, Bool.not_true, bne_self_eq_false, Bool.or_self,
    Bool.false_eq_true, if_false, Option.isSome_none]
  rw [State.dropGroup, hg]
  rfl

theorem State.mergeAll_one {x : Option Group × Option Group} (h : s.cores.merges = [(n, x)]) : s.mergeAll = s.mergeAt n := by
  rw [State.mergeAll, h, List.map_cons, List.map_nil, List.foldl_cons, List.foldl_nil]

/-- A node that waits for its right side sends nothing. -/
theorem State.mergeAt_waits (h : SMap.get? s.cores.merges n = some (some l, none)) : s.mergeAt n = s := by simp only [State.mergeAt, h]

/-- A node with both sides whose output is a ring sends their sum, and both sides have their credits back. -/
theorem State.mergeAt_sends (h : SMap.get? s.cores.merges n = some (some l, some r)) (hout : s.nodeOut n = .ring k) :
    ∃ credits, s.mergeAt n = { s with
      cores.merges := SMap.del s.cores.merges n
      cores.spent := credits
      cores.groups := s.cores.groups ++ [s.combine n l r] } := by
  simp only [State.mergeAt, h, hout, Bool.not_true, Bool.false_eq_true, if_false]
  exact ⟨_, rfl⟩

end

/-! ## Setting EN (R335) -/

theorem setBit_of_bitAt {n i : Nat} (h : bitAt n i = true) : setBit n i true = n := by
  have hfield : field n i 1 = 1 := by
    rw [bitAt_eq_field, beq_iff_eq] at h
    exact h
  rw [setBit, setField_eq]
  conv_rhs => rw [field_split n i 1, hfield]
  rfl

theorem rsvdSet_of_accepts {s : State} {req : Requester} {addr v : Nat} {l : Loc} {fs : List FieldSpec} (h : s.accepts req addr v = true)
    (hl : locate addr = some l) (hfs : regFields l.blk l.off = some fs) : rsvdSet fs v = false := by
  unfold State.accepts at h
  simp only [hl, hfs, Bool.and_eq_true, Bool.not_eq_true'] at h
  exact h.2.2

section
variable (core : CoreId) (node : SlotId)

theorem locate_mrgNodeLo : locate (Reg.mrgNodeLo (16 * core + node)) = some ⟨.mrg, 16 * core + node, 0⟩ := by
  have hcore := coreOf_paneOf_slotOf core
  have hpane : paneOf core < 64 := by
    have := core.isLt
    unfold paneOf
    omega
  have hslot := slotOf_lt core
  have hnode := node.isLt
  have hdiv : (16 * (core : Nat) + node) / 16 = core := by omega
  have haddr : Reg.mrgNodeLo (16 * core + node) = blockBase (paneOf core) 14 + (0x80 * slotOf core + 8 * node) := by
    simp only [Reg.mrgNodeLo, Block.base, hdiv]
    omega
  have hagent : (blockBase (paneOf core) 14 + (0x80 * slotOf core + 8 * node)) / 0x200000000 = paneOf core := by
    simp only [blockBase]
    omega
  have hblk : (blockBase (paneOf core) 14 + (0x80 * slotOf core + 8 * node)) / 0x1000000 % 512 = 14 :=
    blockNumber_blockBase _ 14 (by decide) (by omega)
  have hoff : (blockBase (paneOf core) 14 + (0x80 * slotOf core + 8 * node)) % 0x1000000 = 0x80 * slotOf core + 8 * node := by
    simp only [blockBase]
    omega
  have hside : (0x80 * slotOf core + 8 * (node : Nat)) / 0x80 = slotOf core := by omega
  have hin : 0x80 * slotOf core + 8 * (node : Nat) < 0x200 := by omega
  rw [haddr]
  simp only [locate, hagent, hblk, hoff, hpane, hside, hcore, hin, if_true]
  congr 2 <;> omega

/-- What a set-up with EN stores, and what it stores where EN is refused. -/
theorem mrgNodeWord {s : State} {req : Requester} {v : BitVec 32} (h : s.accepts req (Reg.mrgNodeLo (16 * core + node)) v.toNat = true) :
    v.toNat &&& 0xFFC0FFFF = v.toNat := by
  have hrsvd := rsvdSet_of_accepts h (locate_mrgNodeLo core node) rfl
  rw [rsvdSet, bne_eq_false_iff_eq, Nat.mod_eq_of_lt v.isLt] at hrsvd
  exact hrsvd

theorem mrgNodeWord_off {v : BitVec 32} (hen : v.getLsbD 31 = true) (h : v.toNat &&& 0xFFC0FFFF = v.toNat) :
    v.toNat &&& 0x7FC0FFFF = v.toNat - 2 ^ 31 := by
  have hmask : v.toNat &&& 0x7FC0FFFF = v.toNat % 2 ^ 31 := by
    rw [← Nat.and_two_pow_sub_one_eq_mod, show (0x7FC0FFFF : Nat) = 0xFFC0FFFF &&& (2 ^ 31 - 1) by decide, ← Nat.and_assoc, h]
  have hlt := v.isLt
  have hbit : v.toNat / 2 ^ 31 % 2 = 1 := by
    rw [← bitAt_toNat, bitAt, Nat.shiftRight_eq_div_pow, beq_iff_eq] at hen
    exact hen
  rw [hmask]
  omega

theorem exec_mrgNodeEnable {s : State} {req : Requester} {v : BitVec 32} (h : s.accepts req (Reg.mrgNodeLo (16 * core + node)) v.toNat = true)
    (hen : v.getLsbD 31 = true) : exec (.mrgNodeEnable req core node v) s = .next (s.nodeWrite req core node v.toNat) := by
  have hword : setBit v.toNat 31 true = v.toNat := setBit_of_bitAt (by rw [bitAt_toNat, hen])
  change execMrgNodeEnable req core node v s = _
  rw [execMrgNodeEnable, hword]
  exact congrArg _ (State.write_of_accepts h _)

variable (s : State) (req : Requester) {v : Nat}

theorem State.nodeWrite_on (hbit : bitAt v 31 = true) (hon : s.flag (Fld.mrgNodeLoEn (16 * core + node)) = true) :
    s.nodeWrite req core node v = s := by
  simp only [State.nodeWrite, hon, hbit, if_true]

theorem State.nodeWrite_refused (hbit : bitAt v 31 = true) (hoff : s.flag (Fld.mrgNodeLoEn (16 * core + node)) = false)
    (hrefuse : s.nodeRefuses core node v = true) : s.nodeWrite req core node v =
      (s.wr (Reg.mrgNodeLo (16 * core + node)) (v &&& 0x7FC0FFFF)).misuse req := by
  simp only [State.nodeWrite, hoff, hbit, hrefuse, Bool.false_eq_true, Bool.and_self, if_false, if_true]

theorem State.nodeWrite_stores (hoff : s.flag (Fld.mrgNodeLoEn (16 * core + node)) = false) (hrefuse : s.nodeRefuses core node v = false) :
    s.nodeWrite req core node v = (s.wr (Reg.mrgNodeLo (16 * core + node)) (v &&& 0xFFC0FFFF)).nodeFresh (16 * core + node) := by
  simp only [State.nodeWrite, hoff, hrefuse, Bool.false_eq_true, Bool.and_false, if_false]

end

/-- Settles O30: one group enters one node, whose two sides make one sum; a write of EN is one write of the node's register. -/
theorem mergeNodes : Obligations.MergeNodes := by
  unfold Obligations.MergeNodes
  refine ⟨fun s i g n right hg hdst hpath h => ?misfit, fun s g n hg hdst hpath hen hctx htype hnone => ?held,
    fun s l r n k hlock hg hdst hpath hen hctx htype hheld hsame hout a b ha hb => ?sum,
    fun req core node v s h hbit hoff hok => ?stored, fun req core node v s h hbit hoff hrefuse => ?refused,
    fun req core node v s h hbit hon => ?on⟩
  case misfit => rw [exec_mergeFlitArrive, State.mergeArrive_misfit hg hdst hpath h]
  case held =>
    have hempty : s.nodeHeld n = (none, none) := by rw [State.nodeHeld, hnone]; rfl
    rw [exec_mergeFlitArrive, State.mergeArrive_fits hg hdst hpath hen hctx htype (by rw [hempty]; rfl), hempty, hnone]
    rw [State.mergeAll_one (n := n) (x := (some g, none)) rfl, State.mergeAt_waits (l := g) (SMap.get?_put_same ..)]
    rfl
  case sum =>
    have hleft : s.nodeHeld n = (some l, none) := by
      rw [State.nodeHeld, hheld, SMap.getD, SMap.get?, lookup_cons_same, Option.getD_some]
    have hboth : heldWith (s.nodeHeld n) true r = (some l, some r) := by rw [hleft]; rfl
    have hput : SMap.put s.cores.merges n (some l, some r) = [(n, some l, some r)] := by rw [hheld]; simp [SMap.put]
    have hfits := State.mergeArrive_fits hg hdst hpath hen hctx htype (by rw [hleft]; rfl)
    rw [hboth, hput, State.mergeAll_one rfl] at hfits
    obtain ⟨credits, hsends⟩ := State.mergeAt_sends (s := { s with cores.groups := [], cores.merges := [(n, some l, some r)] })
      (lookup_cons_same n (some l, some r) []) hout
    refine ⟨_, s.combine n l r, addWords l.int32 a b, (exec_mergeFlitArrive 0 s).trans (congrArg _ ((if_pos hlock).trans (hfits.trans hsends))),
      ?_, rfl, hout, ?_, rfl, length_addWords .., fun w hw => ?_⟩
    · simp [SMap.del]
    · simp only [State.combine, ha, hb]
    · rw [leAt_addWords _ _ _ hw, hsame]
  case stored =>
    refine ⟨_, exec_mrgNodeEnable core node h hbit, ?_⟩
    rw [State.nodeWrite_stores core node s req hoff hok, mrgNodeWord core node h]
    exact ⟨(s.rd_wr_same _ _).trans (Nat.mod_eq_of_lt v.isLt), rfl, fun a ha => s.rd_wr_ne _ ha⟩
  case refused =>
    rw [exec_mrgNodeEnable core node h hbit, State.nodeWrite_refused core node s req ((bitAt_toNat v 31).trans hbit) hoff hrefuse,
      mrgNodeWord_off hbit (mrgNodeWord core node h)]
  case on => rw [exec_mrgNodeEnable core node h hbit, State.nodeWrite_on core node s req ((bitAt_toNat v 31).trans hbit) hon]

end Sys2Proof.Machine

/-! # Packets enter the mesh (R312, R314, R316, R321)

Each flit of a packet of one destination takes one of the three networks, so the packet's flits are as many as its length says, and their
bytes are its bytes in turn. -/

namespace Sys2Proof.Machine
open Sys2Proof

/-! ## Lists cut at one place -/

/-- A list of numbers of which one alone has an image. -/
theorem filterMap_range_one {α : Type} {f : Nat → Option α} {n k : Nat} {a : α} (hk : k < n) (ha : f k = some a)
    (hne : ∀ j, j ≠ k → f j = none) : (List.range n).filterMap f = [a] := by
  obtain ⟨m, rfl⟩ : ∃ m, n = k + (m + 1) := ⟨n - k - 1, by omega⟩
  have hbefore : (List.range k).filterMap f = [] := List.filterMap_eq_nil_iff.2 fun j hj => hne j (List.mem_range.1 hj).ne
  have hafter : ((List.range m).map Nat.succ |>.map (k + ·)).filterMap f = [] := by
    simp only [List.filterMap_eq_nil_iff, List.mem_map]
    rintro _ ⟨_, ⟨j, -, rfl⟩, rfl⟩
    exact hne _ (by omega)
  rw [List.range_add, List.filterMap_append, hbefore, List.range_succ_eq_map, List.map_cons, Nat.add_zero, List.filterMap_cons_some ha, hafter,
    List.nil_append]

/-- Pieces of one length put together. -/
theorem flatMap_range_pieces {α : Type} (l : List α) (u : Nat) : ∀ n, ((List.range n).flatMap fun i => (l.drop (u * i)).take u) = l.take (u * n)
  | 0 => by simp
  | n + 1 => by
    rw [List.range_succ, List.flatMap_append, flatMap_range_pieces l u n, List.flatMap_singleton, Nat.mul_succ, List.take_add]

/-! ## The planes of flits (R314, R335) -/

theorem flitPlane_lt {alt : Nat} (planes total i : Nat) (h : alt < 2) : flitPlane planes total i alt < 2 := by
  unfold flitPlane
  split
  · decide
  · decide
  · split
    · exact h
    · exact Nat.mod_lt _ (by decide)

theorem State.nextPlane_lt (s : State) (port : Nat) : s.nextPlane port < 2 := by
  unfold State.nextPlane
  split
  · omega
  · exact Nat.mod_lt _ (by decide)

/-! ## The shaper at the source (R334) -/

/-- What a message's turn at the source's shaper leaves as it is: the flits, the sequence numbers, and every register but a counter. -/
structure SameNet (s u : State) : Prop where
  flits : u.mesh.flits = s.mesh.flits
  tx : u.mesh.tx = s.mesh.tx
  regs : ∀ a, a ≠ Reg.netExSrcHeld → u.rd a = s.rd a

theorem State.letIn_sameNet (s : State) (port : Nat) (ex : Bool) : SameNet s (s.letIn port ex).1 := by
  unfold State.letIn
  split
  · exact ⟨rfl, rfl, fun _ _ => rfl⟩
  · split
    · next u hu =>
      have htoken : s.takeToken port = some u := by
        split at hu
        · contradiction
        · exact hu
      unfold State.takeToken at htoken
      dsimp only at htoken
      split at htoken
      · contradiction
      · rw [← Option.some.inj htoken]
        exact ⟨rfl, rfl, fun _ _ => rfl⟩
    · exact ⟨rfl, rfl, fun a ha => s.rd_put_ne Fld.netExSrcHeldCount _ ha⟩

theorem netLink_ne_netExSrcHeld (d : Nat) : Reg.netLink d ≠ Reg.netExSrcHeld := fun h =>
  absurd ((blockNumber_netLink d).symm.trans (congrArg blockNumber h)) (by decide)

theorem SameNet.fromStop {s u : State} (h : SameNet s u) (from_ : MeshFrom) : u.fromStop from_ = s.fromStop from_ := by
  have hstop : ∀ d, u.stopOut d = s.stopOut d := fun d => State.stopOut_congr d (h.regs _ (netLink_ne_netExSrcHeld d))
  cases from_ <;> simp only [State.fromStop, State.svcStop, hstop]

theorem SameNet.netCopy {s u : State} (h : SameNet s u) : u.netCopy = s.netCopy := by
  rw [State.netCopy, State.get, h.regs _ (by decide)]
  rfl

/-! ## The flits of a packet of one destination (R314, R316) -/

section
variable {s : State} {p : MeshPacket}

/-- The state once a flow's next sequence number is taken. -/
def State.numbered (s : State) (k : Nat) : State := { s with mesh.tx := SMap.put s.mesh.tx k (SMap.getD s.mesh.tx k 0 + 1) }

theorem State.meshSeqs_one (s : State) (d k : Nat) : s.meshSeqs [(d, k)] = (s.numbered k, [(d, SMap.getD s.mesh.tx k 0)]) := rfl

/-- The flits of a packet with these planes. -/
def meshFlits (p : MeshPacket) (src cls copy : Nat) (stamp : Option Nat) (admitted : Bool) (m : Nat × Nat) (plane : Nat → Nat) : List Flit :=
  (List.range p.flits).map fun i => meshFlit p src cls copy stamp admitted i (plane i) [m]

theorem meshFlits_data (src cls copy : Nat) (stamp : Option Nat) (admitted : Bool) (m : Nat × Nat) (plane : Nat → Nat) :
    (meshFlits p src cls copy stamp admitted m plane).flatMap (·.data) = p.data.take (p.unit * p.flits) := by
  rw [meshFlits, List.flatMap_map]
  exact flatMap_range_pieces ..

theorem State.meshQueue_one (s : State) (p : MeshPacket) (cls : Nat) (stamp : Option Nat) (admitted : Bool) (m : Nat × Nat) :
    ∃ plane, (s.meshQueue p cls stamp admitted [m]).mesh.tx = s.mesh.tx ∧ (s.meshQueue p cls stamp admitted [m]).mesh.flits =
      s.mesh.flits ++ meshFlits p (s.fromStop p.src) cls s.netCopy stamp admitted m plane := by
  let plane (i : Nat) : Nat := if p.transom then 2 else
    flitPlane (s.route s.netCopy (s.fromStop p.src) m.1).2 p.flits i (s.nextPlane (portKey (s.fromStop p.src) p.src.port))
  have hplane (i : Nat) : plane i < 3 := by
    have := flitPlane_lt (s.route s.netCopy (s.fromStop p.src) m.1).2 p.flits i (s.nextPlane_lt (portKey (s.fromStop p.src) p.src.port))
    simp only [plane]
    split <;> omega
  refine ⟨plane, rfl, congrArg (s.mesh.flits ++ ·) ?_⟩
  rw [meshFlits, List.map_eq_flatMap]
  refine congrArg (fun f => (List.range p.flits).flatMap f) (funext fun i => ?_)
  refine filterMap_range_one (hplane i) ?_ fun j hj => ?_
  · simp [plane]
  · have hne : (plane i == j) = false := beq_false_of_ne hj.symm
    simp only [plane] at hne
    simp [hne]

/-! ## A packet enters or is refused (R314, R321) -/

theorem exec_meshEnter (p : MeshPacket) (s : State) : exec (.meshFlitArrive (.enter p)) s = .next (s.clocked (s.meshEnter p)) := rfl

/-- The stop that a packet of one destination goes to. -/
def State.packetStop (s : State) (p : MeshPacket) : Nat := s.toStop (s.fromStop p.src) p.dst

/-- Key of its sequence numbers. -/
def State.packetKey (s : State) (p : MeshPacket) : Nat :=
  meshKey (s.fromStop p.src) p.src.port (s.packetStop p) p.dst.port (s.meshClass p) p.transom

/-- Its message's turn at the source's shaper. -/
def State.packetTurn (s : State) (p : MeshPacket) : State × Bool :=
  s.letIn (portKey (s.fromStop p.src) p.src.port) (s.meshClass p == 0 && !p.transom)

theorem Sendable.targets (h : Sendable s p) : s.packetTargets p = [s.packetStop p] := by
  rw [State.packetTargets, h.plain]
  rfl

theorem Sendable.meshEnter_refused (h : Sendable s p) (hrefuse : s.meshRefuses p = true) : s.meshEnter p =
    ((s.raiseMod (srcPane (paneOf (s.fromStop p.src))) 0x0501 2
      (netWord (s.fromStop p.src) (s.packetStop p) false p.sent p.transom) 0).bump Fld.netUnreachCount).cargoLost p.cargo := by
  simp only [State.meshEnter, h.lawful, h.up, hrefuse, h.targets, h.plain, Bool.not_true, Bool.or_self, Bool.false_eq_true, if_false, if_true,
    List.isEmpty_nil, List.headD_cons]

theorem Sendable.meshEnter_sent (h : Sendable s p) (hok : s.meshRefuses p = false) : s.meshEnter p =
    ((s.packetTurn p).1.numbered (s.packetKey p)).meshQueue p (s.meshClass p) (s.stampOf p) (s.packetTurn p).2
      [(s.packetStop p, SMap.getD (s.packetTurn p).1.mesh.tx (s.packetKey p) 0)] := by
  simp only [State.meshEnter, h.lawful, h.up, hok, h.targets, Bool.not_true, Bool.or_self, Bool.false_eq_true, if_false, List.map_cons, List.map_nil,
    State.meshSeqs_one]
  rfl

/-- A packet that its source sends: its flits join the others, stamped, with the next sequence number of its flow. -/
theorem Sendable.meshEnter_flits (h : Sendable s p) (hok : s.meshRefuses p = false) :
    SMap.get? (s.meshEnter p).mesh.tx (s.packetKey p) = some (SMap.getD s.mesh.tx (s.packetKey p) 0 + 1) ∧
      ∃ plane, (s.meshEnter p).mesh.flits = s.mesh.flits ++
        meshFlits p (s.fromStop p.src) (s.meshClass p) s.netCopy (s.stampOf p) (s.packetTurn p).2
          (s.packetStop p, SMap.getD s.mesh.tx (s.packetKey p) 0) plane := by
  have hnet : SameNet s (s.packetTurn p).1 := s.letIn_sameNet ..
  rw [h.meshEnter_sent hok, ← hnet.tx, ← hnet.netCopy, ← hnet.fromStop, ← hnet.flits]
  obtain ⟨plane, htx, hflits⟩ := State.meshQueue_one ((s.packetTurn p).1.numbered (s.packetKey p)) p (s.meshClass p)
    (s.stampOf p) (s.packetTurn p).2 (s.packetStop p, SMap.getD (s.packetTurn p).1.mesh.tx (s.packetKey p) 0)
  rw [htx]
  exact ⟨SMap.get?_put_same .., plane, hflits⟩

/-- A packet that needs no token of the source's shaper is let in. -/
theorem State.packetTurn_free (hfree : p.transom = true ∨ s.meshClass p ≠ 0) : (s.packetTurn p).2 = true := by
  have hex : (s.meshClass p == 0 && !p.transom) = false := by
    rcases hfree with h | h
    · rw [h, Bool.not_true, Bool.and_false]
    · rw [beq_false_of_ne h, Bool.false_and]
  rw [State.packetTurn, hex]
  rfl

end

end Sys2Proof.Machine

/-! # Flits on the mesh (R314 to R316, R318 to R322, R328, R331)

A flit of one destination that its output sends has one exit, so what its stop does is one delivery, one copy across, or one replay; what else
the mesh holds stays where it is. -/

namespace Sys2Proof.Machine
open Sys2Proof

/-! ## What a delivery leaves as it is -/

/-- An event changes the records that its source holds, and those it has lost (R488). -/
theorem State.raiseMod_eq (s : State) (src code sev w2 w3 : Nat) :
    ∃ r l, s.raiseMod src code sev w2 w3 = { s with raised := r, lost := l } := by
  unfold State.raiseMod State.raise
  split
  · exact ⟨_, s.lost, rfl⟩
  · split
    · exact ⟨s.raised, _, rfl⟩
    · exact ⟨s.raised, _, rfl⟩

/-- A view of the state that no destination's record and no output bears on. -/
def BlindToRx {α : Type} (p : State → α) : Prop := ∀ (u : State) rx out, p { u with mesh.rx := rx, out := out } = p u

theorem State.apply_meshRx {α : Type} {p : State → α} (hp : BlindToRx p) (s : State) (f : Flit) (d : Nat) (change : MeshRx → MeshRx) :
    p (s.meshRx f d change) = p s :=
  List.foldlRecOn (motive := fun u : State => p u = p s) _ _ (hp s _ s.out) fun u hu _ _ => (hp u u.mesh.rx _).trans hu

/-! ## A packet is lost (R322) -/

section
variable {s : State} {f g : Flit} {ms : List (Nat × Nat)}

/-- What a lost packet leaves of a flit: its flits for the members that lose it go. -/
def Flit.without (f : Flit) (ms : List (Nat × Nat)) (g : Flit) : Option Flit :=
  if !f.sameFlow g then some g
  else if (g.members.filter fun m => !ms.contains m).isEmpty then none
  else some { g with members := g.members.filter fun m => !ms.contains m }

theorem State.apply_meshGone {α : Type} {p : State → α} (hp : BlindToRx p) (s : State) (f : Flit) (ms : List (Nat × Nat)) :
    p (s.meshGone f ms) = p { s with mesh.flits := s.mesh.flits.filterMap (f.without ms) } :=
  List.foldlRecOn (motive := fun u : State => p u = _) ms _ rfl fun u hu m _ => (u.apply_meshRx hp f m.1 _).trans hu

theorem Flit.not_mem_of_without {k : Flit} (h : f.without ms g = some k) (hflow : f.sameFlow k = true) : ∀ m ∈ k.members, m ∉ ms := by
  unfold Flit.without at h
  split at h
  · next hother =>
    rw [Option.some.inj h, hflow] at hother
    contradiction
  · split at h
    · contradiction
    · intro m hm
      rw [← Option.some.inj h] at hm
      simpa using (List.mem_filter.1 hm).2

theorem State.cargoLost_of_done {c : Cargo} (h : c = .done ∨ c = .druter) : s.cargoLost c = s := by
  rcases h with rfl | rfl <;> rfl

theorem State.meshLost_of_done (hcargo : f.cargo = .done ∨ f.cargo = .druter) (stop : Nat) :
    (s.meshLost f ms stop).get Fld.netLostCount = min (s.get Fld.netLostCount + 1) (2 ^ 32 - 1) ∧
      (s.meshLost f ms stop).mesh.flits = s.mesh.flits.filterMap (f.without ms) := by
  rw [State.meshLost, State.cargoLost_of_done hcargo, State.get_bump _ _ _ (by decide : 0 + 32 ≤ 32)]
  obtain ⟨r, l, hraise⟩ := (s.meshGone f ms).raiseMod_eq (srcPane (paneOf stop)) 0x0500 2
    (netWord f.src ((ms.map (·.1)).headD 0) f.multi f.cls f.transom) stop
  rw [hraise]
  refine ⟨congrArg (fun n => min (n + 1) (2 ^ 32 - 1)) ?_, ?_⟩
  · exact s.apply_meshGone (p := (·.get Fld.netLostCount)) (fun _ _ _ => rfl) f ms
  · exact s.apply_meshGone (p := (·.mesh.flits)) (fun _ _ _ => rfl) f ms

end

/-! ## Whether a flit goes on (R318, R319, R322) -/

section
variable {s : State} {i : Nat} {f : Flit} {d q o : Nat} {bad : Option Nat}

theorem exec_meshHop (i : Nat) (bad : Option (Fin 4)) (s : State) :
    exec (.meshFlitArrive (.hop i bad)) s = .next (s.clocked (s.meshHop i (bad.map (·.val)))) := rfl

theorem State.meshHop_lost (hf : s.mesh.flits[i]? = some f) (h : s.stopOut f.at_ = true ∨ 48 < f.hops) :
    s.meshHop i bad = s.meshLost f f.members f.at_ := by
  have hlost : (s.stopOut f.at_ || decide (hopsMax < f.hops)) = true := by
    rw [Bool.or_eq_true, decide_eq_true_eq]
    exact h
  simp only [State.meshHop, hf]
  exact if_pos hlost

/-- The flit stands where its stop may send it on (R318, R322, R334). -/
theorem State.meshHop_here (hf : s.mesh.flits[i]? = some f) (hup : s.stopOut f.at_ = false) (hhops : f.hops ≤ 48) (hin : f.admitted = true) :
    s.meshHop i bad = if !s.chanHead i f || !s.roomAhead f then s
      else if ((s.flitOuts f).filterMap fun o => (s.outTakes f o).map ((o, ·))).length != (s.flitOuts f).length then s.holdLink i f
      else { s with
        mesh.outs := ((s.flitOuts f).filterMap fun o => (s.outTakes f o).map ((o, ·))).foldl
          (fun m (t : Nat × MeshPort) => SMap.put m t.1 t.2) s.mesh.outs }.meshSend i f bad := by
  have hlost : ¬ (s.stopOut f.at_ || decide (hopsMax < f.hops)) = true := by
    rw [hup, Bool.false_or, decide_eq_true_eq]
    exact Nat.not_lt.2 hhops
  simp only [State.meshHop, hf, hin, if_neg hlost, Bool.not_true, Bool.false_eq_true, if_false]

/-- A flit whose one output does not send it next stays where it is; only an EX flit is counted. -/
theorem State.meshHop_waits (hf : s.mesh.flits[i]? = some f) (hup : s.stopOut f.at_ = false) (hhops : f.hops ≤ 48) (hin : f.admitted = true)
    (hcls : f.cls ≠ 0) (hout : s.flitOuts f = [o]) (hnot : s.outTakes f o = none) : s.meshHop i bad = s := by
  have hhold : s.holdLink i f = s := by
    rw [State.holdLink, beq_false_of_ne hcls]
    rfl
  rw [State.meshHop_here hf hup hhops hin, hout, List.filterMap_cons_none (by rw [hnot]; rfl), hhold]
  exact ite_self s

/-- The state with other records of the outputs. -/
def State.withOuts (s : State) (outs : SMap MeshPort) : State := { s with mesh.outs := outs }

/-- A flit that its output sends goes; only the output's record has changed. -/
theorem SentNext.meshHop (h : SentNext s i f d q o) (bad : Option Nat) : ∃ outs, s.meshHop i bad = (s.withOuts outs).meshSend i f bad := by
  obtain ⟨x, hx⟩ := Option.isSome_iff_exists.1 h.sends
  have htaken : [o].filterMap (fun o => (s.outTakes f o).map ((o, ·))) = [(o, x)] := by
    rw [List.filterMap_cons_some (by rw [hx]; rfl), List.filterMap_nil]
  rw [State.meshHop_here h.there h.up h.hops h.admitted, h.output, htaken, h.first, h.room]
  exact ⟨_, rfl⟩

/-! ## The turns of an output (R319, R334) -/

/-- While an EX flit has a token, no other flit is sent (R334). -/
theorem MeshPort.meshTakes_ex {x : MeshPort} {bids : List Flit} {g : Flit} (hg : g ∈ bids) (hex : g.cls = 0) (htoken : 0 < x.ex.tokens)
    (hcls : f.cls ≠ 0) : x.meshTakes bids f = none := by
  have hbid : (bids.any (·.cls == 0) && decide (0 < x.ex.tokens)) = true := by
    rw [decide_eq_true htoken, Bool.and_true, List.any_eq_true]
    exact ⟨g, hg, beq_iff_eq.2 hex⟩
  have hturn : x.exTurn bids f = false := by rw [MeshPort.exTurn, beq_false_of_ne hcls, Bool.false_and]
  rw [MeshPort.meshTakes, if_pos hbid, hturn]
  rfl

/-- While an own copy waits and four of the last fifteen clocks went to transit copies, no transit copy is sent (R319). -/
theorem MeshPort.meshTakes_barred {x : MeshPort} {bids : List Flit} {g : Flit} (hg : g ∈ bids) (hgcls : g.cls ≠ 0) (hown : g.transit = false)
    (hrecent : 4 ≤ x.recent.count true) (hcls : f.cls ≠ 0) (htransit : f.transit = true) : x.meshTakes bids f = none := by
  have hturn : x.exTurn bids f = false := by rw [MeshPort.exTurn, beq_false_of_ne hcls, Bool.false_and]
  have hwaits : ((bids.filter (·.cls != 0)).any (!·.transit)) = true := by
    rw [List.any_eq_true]
    exact ⟨g, List.mem_filter.2 ⟨hg, bne_iff_ne.2 hgcls⟩, by rw [hown]; rfl⟩
  unfold MeshPort.meshTakes
  split
  · rw [hturn]
    rfl
  · simp only [beq_false_of_ne hcls, hwaits, htransit, decide_eq_true hrecent, Bool.and_self, Bool.false_eq_true, if_false, if_true]

end

/-! ## A flit of one destination leaves its stop (R315, R320) -/

section
variable {s : State} {i : Nat} {f : Flit} {d q dir n : Nat}

/-- The state with other flits between stops. -/
def State.withFlits (s : State) (l : List Flit) : State := { s with mesh.flits := l }

/-- The members of a flit that go one way at its stop. -/
def State.meshHere (s : State) (f : Flit) (e : MeshExit) : List (Nat × Nat) := f.members.filter fun m => s.meshExit f m == e

/-- The members whose copy a link spoils. -/
def State.meshSpoilt (s : State) (f : Flit) : Option Nat → List (Nat × Nat)
  | some dir => s.meshHere f (.cross dir)
  | none => []

/-- The copies of a flit that cross. -/
def State.meshCopies (s : State) (f : Flit) (bad : Option Nat) : List Flit :=
  (List.range 4).filterMap fun dir => if bad == some dir then none else s.copyAcross f dir

/-- A flit that nothing discards leaves its place to its copies and is delivered (R315). -/
theorem State.meshSend_kept (i : Nat) (bad : Option Nat) (hlost : s.meshHere f .lost = []) (hshut : s.meshHere f .shut = []) :
    s.meshSend i f bad = (s.meshHere f .deliver).foldl (fun u m => u.meshArrive f m)
      (let r := s.meshStay f bad (s.meshSpoilt f bad)
      { r.1 with mesh.flits := r.1.mesh.flits.take i ++ r.2 ++ r.1.mesh.flits.drop (i + 1) ++ s.meshCopies f bad }) := by
  unfold State.meshHere at hlost hshut
  simp only [State.meshSend, hlost, hshut, List.isEmpty_nil, if_true]
  cases bad <;> rfl

theorem State.meshHere_one (hone : f.members = [(d, q)]) (e : MeshExit) :
    s.meshHere f e = if s.meshExit f (d, q) = e then [(d, q)] else [] := by
  simp only [State.meshHere, hone, List.filter_cons, List.filter_nil, beq_iff_eq]

theorem State.meshHere_ne (hone : f.members = [(d, q)]) {e : MeshExit} (hexit : s.meshExit f (d, q) ≠ e) : s.meshHere f e = [] := by
  rw [State.meshHere_one hone, if_neg hexit]

theorem State.copyAcross_of (hone : f.members = [(d, q)]) (hexit : s.meshExit f (d, q) = .cross dir) (hn : neighbour f.at_ dir = some n) :
    s.copyAcross f dir = some (s.meshCross f n dir) := by
  have hhere : (f.members.filter fun m => s.meshExit f m == .cross dir) = f.members :=
    (State.meshHere_one hone _).trans ((if_pos hexit).trans hone.symm)
  have hsome : f.members.isEmpty = false := by rw [hone]; rfl
  rw [State.copyAcross, hhere, hn, hsome]
  rfl

theorem State.copyAcross_ne {b : Nat} (hone : f.members = [(d, q)]) (hexit : s.meshExit f (d, q) ≠ .cross b) : s.copyAcross f b = none := by
  have hhere : (f.members.filter fun m => s.meshExit f m == .cross b) = [] := State.meshHere_ne hone hexit
  rw [State.copyAcross, hhere]
  rfl

/-- A flit for its stop's port is delivered there. -/
theorem State.meshSend_deliver (hone : f.members = [(d, q)]) (hexit : s.meshExit f (d, q) = .deliver) :
    s.meshSend i f none = (s.withFlits (s.mesh.flits.eraseIdx i)).meshArrive f (d, q) := by
  have hcopies : s.meshCopies f none = [] := List.filterMap_eq_nil_iff.2 fun b _ => State.copyAcross_ne hone (by simp [hexit])
  rw [State.meshSend_kept i none (State.meshHere_ne hone (by simp [hexit])) (State.meshHere_ne hone (by simp [hexit])),
    State.meshHere_one hone, if_pos hexit, hcopies, List.eraseIdx_eq_take_drop_succ]
  simp only [State.meshStay, Option.bind_none, List.append_nil, List.foldl_cons, List.foldl_nil, State.withFlits]

/-- A flit that crosses in good order is copied to the next stop. -/
theorem State.meshSend_cross (hone : f.members = [(d, q)]) (hexit : s.meshExit f (d, q) = .cross dir) (hdir : dir < 4)
    (hn : neighbour f.at_ dir = some n) :
    s.meshSend i f none = s.withFlits (s.mesh.flits.eraseIdx i ++ [s.meshCross f n dir]) := by
  have hcopies : s.meshCopies f none = [s.meshCross f n dir] :=
    filterMap_range_one hdir (State.copyAcross_of hone hexit hn) fun b hb => State.copyAcross_ne hone (by simp [hexit, hb.symm])
  rw [State.meshSend_kept i none (State.meshHere_ne hone (by simp [hexit])) (State.meshHere_ne hone (by simp [hexit])),
    State.meshHere_ne hone (by simp [hexit]), hcopies, List.eraseIdx_eq_take_drop_succ]
  simp only [State.meshStay, Option.bind_none, List.append_nil, List.foldl_nil, State.withFlits]

/-- A flit that its link spoils stays in its place, as its replay leaves it. -/
theorem State.meshSend_spoilt (hone : f.members = [(d, q)]) (hexit : s.meshExit f (d, q) = .cross dir) (hn : neighbour f.at_ dir = some n) :
    s.meshSend i f (some dir) = { (s.meshReplay f n dir).1 with mesh.flits := (s.meshReplay f n dir).1.mesh.flits.take i ++
      [{ (s.meshReplay f n dir).2 with members := f.members }] ++ (s.meshReplay f n dir).1.mesh.flits.drop (i + 1) } := by
  have hcopies : s.meshCopies f (some dir) = [] := List.filterMap_eq_nil_iff.2 fun b _ => by
    by_cases hb : dir = b
    · simp [hb]
    · simpa [hb] using State.copyAcross_ne hone (by simp [hexit, hb])
  rw [State.meshSend_kept i _ (State.meshHere_ne hone (by simp [hexit])) (State.meshHere_ne hone (by simp [hexit])),
    State.meshHere_ne hone (by simp [hexit]), hcopies]
  rw [State.meshSpoilt, State.meshHere_one hone, if_pos hexit, ← hone]
  have hsome : f.members.isEmpty = false := by rw [hone]; rfl
  simp only [State.meshStay, Option.bind_some, hn, Option.map_some, hsome, Bool.false_eq_true, if_false, List.append_nil, List.foldl_nil]

/-- The first replay of a link, of a flit that has not failed there: it is counted and dated, and fences nothing (R315). -/
theorem State.meshReplay_first (hfails : f.fails = 0) (hnone : SMap.get? s.mesh.replays (16 * f.at_ + 4 * s.crossNet f dir + dir) = none) :
    ∃ log, s.meshReplay f n dir =
      ({ s.bump (Fld.netLinkErrRetry n) with mesh.replays := log }, { f with fails := 1 }) := by
  have hlog : SMap.getD (s.bump (Fld.netLinkErrRetry n)).mesh.replays (16 * f.at_ + 4 * s.crossNet f dir + dir) [] = [] := by
    rw [State.bump_mesh, SMap.getD, hnone, Option.getD_none]
  unfold State.meshReplay
  simp only [hlog, hfails, List.filter_nil, List.nil_append, List.length_singleton]
  exact ⟨_, if_neg (by decide)⟩

end

/-! ## A flit arrives (R316, R328) -/

section
variable {s : State} {f : Flit} {d q : Nat}

theorem assemble_one (seq : Nat) (data : List Byte) (poison : List Nat) :
    assemble seq 1 [⟨seq, 0, 1, data, poison⟩] = (seq, data, poison) := by
  simp [assemble]

/-- The one flit of the packet that comes next is delivered at once. -/
theorem MeshRx.drain_next (q : Nat) (data : List Byte) (poison : List Nat) :
    MeshRx.drain 2 ⟨q, [⟨q, 0, 1, data, poison⟩], []⟩ [] = ([(q, data, poison)], ⟨q + 1, [], []⟩) := by
  simp [MeshRx.drain, assemble_one]

/-- A packet of one flit that comes next in its flow is delivered (R316). -/
theorem State.meshArrive_next (hport : f.dstPort ≠ 0 ∨ f.transom = true ∨ (f.part.isSome = true ∧ s.partAt d = f.part)) (hidx : f.idx = 0)
    (htotal : f.total = 1) (hrx : SMap.getD s.mesh.rx (f.key d) ⟨0, [], []⟩ = ⟨q, [], []⟩) :
    s.meshArrive f (d, q) = ({ s with mesh.rx := SMap.putD s.mesh.rx (f.key d) ⟨q + 1, [], []⟩ ⟨0, [], []⟩ } : State).emit
      (.mesh f.src d f.cls q f.data f.poison) := by
  have hopen : (f.dstPort == 0 && !f.transom && (f.part.isNone || s.partAt d != f.part)) = false := by
    rcases hport with h | h | ⟨hsome, hpart⟩
    · simp [h]
    · simp [h]
    · simp [hpart, hsome]
  unfold State.meshArrive
  simp only [hopen, State.meshRx, hrx, hidx, htotal, List.contains_nil, Nat.lt_irrefl, decide_false, Bool.or_self, Bool.false_eq_true, if_false,
    List.nil_append, List.length_singleton, List.length_nil, Nat.reduceAdd, MeshRx.drain_next, List.foldl_cons, List.foldl_nil]

end

/-- Settles O29: a packet that enters is its list of flits, and a flit that goes is one exit of its stop; what waits or is lost goes no
further. -/
theorem meshPackets : Obligations.MeshPackets := by
  unfold Obligations.MeshPackets
  refine ⟨fun p s h hok => ?enters, fun p s src h hrefuse hsrc => ?refused, fun i s f d q h _ hexit hport hidx htotal hrx => ?delivered,
    fun i s f d q dir n h hexit hdir hn => ⟨?crosses, fun b hb hfails hnone => ?replayed⟩,
    fun i s f g o bad hf hup hhops hin hnet hcls hout hg hturn => ?waits, fun i s f hlock hf hlost hcargo => ?lost⟩
  case enters =>
    obtain ⟨htx, plane, hflits⟩ := h.meshEnter_flits hok
    refine ⟨_, _, (exec_meshEnter p s).trans (congrArg _ (if_pos h.clocks)), hflits, ?_, htx, meshFlits_data .., fun f hf => ?_⟩
    · rw [meshFlits, List.length_map, List.length_range]
    · obtain ⟨i, -, rfl⟩ := List.mem_map.1 hf
      exact ⟨rfl, rfl, rfl, rfl, rfl, rfl, rfl, State.packetTurn_free⟩
  case refused =>
    rw [exec_meshEnter, State.clocked, if_pos h.clocks, h.meshEnter_refused hrefuse, hsrc]
    rfl
  case delivered =>
    obtain ⟨outs, hgoes⟩ := h.meshHop none
    rw [State.meshSend_deliver (s := s.withOuts outs) h.one hexit,
      State.meshArrive_next (s := (s.withOuts outs).withFlits _) hport hidx htotal hrx] at hgoes
    exact ⟨_, (exec_meshHop i none s).trans (congrArg _ ((if_pos h.clocks).trans hgoes)), rfl, rfl⟩
  case crosses =>
    obtain ⟨outs, hgoes⟩ := h.meshHop none
    rw [State.meshSend_cross (s := s.withOuts outs) h.one hexit hdir hn] at hgoes
    refine ⟨_, _, (exec_meshHop i none s).trans (congrArg _ ((if_pos h.clocks).trans hgoes)), rfl, rfl, rfl, rfl, rfl, rfl, rfl, ?_⟩
    simp [State.meshCross]
  case replayed =>
    obtain ⟨outs, hgoes⟩ := h.meshHop (some dir)
    obtain ⟨log, hreplay⟩ := State.meshReplay_first (s := s.withOuts outs) (n := n) hfails hnone
    rw [State.meshSend_spoilt (s := s.withOuts outs) h.one hexit hn, hreplay] at hgoes
    obtain ⟨hi, -⟩ := List.getElem?_eq_some_iff.1 h.there
    subst hb
    refine ⟨_, (exec_meshHop i (some b) s).trans (congrArg _ ((if_pos h.clocks).trans hgoes)), ?_,
      State.get_bump (s.withOuts outs) (Fld.netLinkErrRetry n) 1 (by decide : 0 + 16 ≤ 32)⟩
    rw [List.set_eq_take_append_cons_drop, if_pos hi]
    exact List.append_assoc ..
  case waits =>
    have hnot : s.outTakes f o = none := by
      rw [State.outTakes, hnet]
      rcases hturn with ⟨hex, htoken⟩ | ⟨htransit, hgcls, hown, hrecent⟩
      · exact MeshPort.meshTakes_ex hg hex htoken hcls
      · exact MeshPort.meshTakes_barred hg hgcls hown hrecent hcls htransit
    rw [exec_meshHop, State.meshHop_waits hf hup hhops hin hcls hout hnot, State.clocked_self]
  case lost =>
    obtain ⟨hcount, hflits⟩ := State.meshLost_of_done (s := s) (ms := f.members) hcargo f.at_
    refine ⟨_, (exec_meshHop i none s).trans (congrArg _ ((if_pos hlock).trans (State.meshHop_lost hf hlost))), hcount, fun g hg hflow => ?_⟩
    rw [hflits] at hg
    obtain ⟨h, -, hwithout⟩ := List.mem_filterMap.1 hg
    exact Flit.not_mem_of_without hwithout hflow

end Sys2Proof.Machine

/-! # The time unit (R339 to R349)

A change of the module's own state writes STATE and may leave an event; the counter, memory and the rest of the unit stay. A write of TIM_CTRL
with ACQUIRE is its fields, stored first, and then an acquisition that reads them. -/

namespace Sys2Proof.Machine
open Sys2Proof

/-! ## The module's own state (R347, R354) -/

section
variable (s : State)

theorem State.timEnter_eq (new : Nat) :
    ∃ r l, s.timEnter new = { { s with tim.own := new }.timReport with raised := r, lost := l } := by
  unfold State.timEnter
  dsimp only
  split
  · exact ⟨_, _, rfl⟩
  · exact State.raiseMod_eq ..

@[simp] theorem State.timEnter_tim (new : Nat) : (s.timEnter new).tim = { s.tim with own := new } := by
  obtain ⟨r, l, h⟩ := s.timEnter_eq new
  rw [h]
  rfl

@[simp] theorem State.timEnter_tick (new : Nat) : (s.timEnter new).tick = s.tick := by
  obtain ⟨r, l, h⟩ := s.timEnter_eq new
  rw [h]
  rfl

@[simp] theorem State.timEnter_mem (new : Nat) : (s.timEnter new).mem = s.mem := by
  obtain ⟨r, l, h⟩ := s.timEnter_eq new
  rw [h]
  rfl

theorem State.isMaster_of_ctrl {s u : State} (h : u.ctrl = s.ctrl) : u.isMaster = s.isMaster := by
  rw [State.isMaster, State.isMaster, State.flag, State.flag, State.get, State.get, State.rd_eq_of_ctrl h]

/-- A master reports its own state. -/
theorem State.get_timEnter_state {s : State} (new : Nat) (hmaster : s.isMaster = true) :
    (s.timEnter new).get Fld.timStatusState = new % 2 ^ 3 := by
  obtain ⟨r, l, h⟩ := s.timEnter_eq new
  rw [h]
  refine (State.get_put_same _ Fld.timStatusState _ (by decide)).trans ?_
  exact congrArg (· % 2 ^ 3) (if_pos ((State.isMaster_of_ctrl rfl).trans hmaster))

/-! ## The tick (R343, R346, R348, R349) -/

theorem State.timDone_eq : s.timDone = s ∨ s.timDone = s.timEnter timAligned := (ite_eq_or_eq ..).symm

@[simp] theorem State.timDone_tick : s.timDone.tick = s.tick := by
  rcases s.timDone_eq with h | h
  · rw [h]
  · rw [h, State.timEnter_tick]

@[simp] theorem State.timDone_hold : s.timDone.tim.hold = s.tim.hold := by
  rcases s.timDone_eq with h | h
  · rw [h]
  · rw [h, State.timEnter_tim]

@[simp] theorem State.timDone_mem : s.timDone.mem = s.mem := by
  rcases s.timDone_eq with h | h
  · rw [h]
  · rw [h, State.timEnter_mem]

theorem State.timCorrect_mem (off : Int) : (s.timCorrect off).mem = s.mem := by
  unfold State.timCorrect
  split
  · rw [State.timDone_mem]
    dsimp only
    split <;> rfl
  split
  · exact (State.timEnter_mem ..).trans (State.put_mem ..)
  · exact State.timDone_mem ..

theorem State.timExchange_mem (off delay : Int) : (s.timExchange off delay).mem = s.mem := by
  unfold State.timExchange
  dsimp only
  split
  · split
    · rfl
    split
    · rfl
    · exact State.timCorrect_mem ..
  split
  · exact State.timCorrect_mem ..
  · rfl

theorem State.timDue_mem : s.timDue.mem = s.mem := by
  unfold State.timDue
  split
  · exact State.timExchange_mem ..
  · rfl

theorem State.timTick_mem : s.timTick.mem = s.mem := by
  unfold State.timTick
  rw [State.timDone_mem]
  dsimp only
  split <;> exact s.timDue_mem

variable {s}

theorem State.timDue_none (hdue : s.tim.due = none) : s.timDue = s := by
  rw [State.timDue, hdue]

/-- With no exchange due and no hold the counter rises, and wraps at 2^64. -/
theorem State.timTick_rises (hdue : s.tim.due = none) (hfree : s.tim.hold = 0) : s.timTick.tick = (s.tick + 1) % 2 ^ 64 := by
  unfold State.timTick
  simp only [State.timDue_none hdue, State.timDone_tick, hfree, beq_self_eq_true, if_true]

/-- A counter that is held stands, and its hold goes on. -/
theorem State.timTick_held (hdue : s.tim.due = none) (hhold : s.tim.hold ≠ 0) :
    s.timTick.tick = s.tick ∧ s.timTick.tim.hold = s.tim.hold - 1 := by
  unfold State.timTick
  simp only [State.timDue_none hdue, State.timDone_tick, State.timDone_hold, beq_false_of_ne hhold, Bool.false_eq_true, if_false, and_self]

theorem State.tickPass_unlocked (hlock : s.flag Fld.timStatusPllLock = false) : s.tickPass = s := by
  rw [State.tickPass, hlock, Bool.not_false, if_pos rfl]

theorem State.tickPass_locked (hlock : s.flag Fld.timStatusPllLock = true) : s.tickPass =
    ((List.range 64).foldl State.ctxTick s.timTick.meshTick.copyTick.noteStalls).portTick.vblPump.relPump.evcTick := by
  rw [State.tickPass, hlock, Bool.not_true, if_neg Bool.false_ne_true]

/-! ## A tick of a context (R310) -/

variable {c : Nat}

theorem State.tearTick_none (h : (s.ctx c).tear = none) : s.tearTick c = s := by
  rw [State.tearTick, h]

theorem State.tear_dlmTick : ((s.dlmTick c).ctx c).tear = (s.ctx c).tear := by
  rw [State.dlmTick, State.ctx_setCtx]

theorem State.ctxTick_held (hheld : s.ctxState c = ctxHeld) (htear : (s.ctx c).tear = none) :
    s.ctxTick c = (s.wrap64 (Reg.lvrHoldTicks c)).dlmTick c := by
  have hstill : (((s.wrap64 (Reg.lvrHoldTicks c)).dlmTick c).ctx c).tear = none := by
    rw [State.tear_dlmTick, State.ctx, State.wrap64, State.put64_ctxs]
    exact htear
  simp only [State.ctxTick, hheld, beq_self_eq_true, if_true, State.tearTick_none hstill]

end

/-- Settles O33: a tick is the time unit's own one and then each block's; the counter rises or is held, and no exchange touches memory. -/
theorem emptyQueueTicks : Obligations.EmptyQueueTicks := by
  unfold Obligations.EmptyQueueTicks
  refine ⟨fun s hidle hlock => ?stands, fun s hidle hlock => ⟨?passes, ?rises, ?held, s.timTick_mem⟩, fun s => ?mesh, fun s c => ?context⟩
  case stands => rw [step_idle hidle, State.tickPass_unlocked hlock]
  case passes => rw [step_idle hidle, State.tickPass_locked hlock]
  case rises => exact State.timTick_rises
  case held => exact State.timTick_held
  case mesh => simp only [State.meshTick, beq_iff_eq]
  case context => exact State.ctxTick_held

end Sys2Proof.Machine

/-! # Acquisition, and the loss of a reference or of the markers (R340, R342, R347, R349) -/

namespace Sys2Proof.Machine
open Sys2Proof

/-! ## What a write of TIM_CTRL leaves (R12, R339, R342, R347) -/

/-- The register that counts a requester's misuse (R12). -/
def misuseReg : Requester → Nat
  | .part p => Reg.shtMisuse p
  | .svc | .sup _ | .host _ => Reg.shtModMisuse

theorem misuseReg_bounds (req : Requester) : blockBase 96 48 ≤ misuseReg req ∧ misuseReg req < blockBase 96 49 := by
  cases req with
  | part p =>
    have := p.isLt
    simp only [misuseReg, Reg.shtMisuse, Block.base, blockBase]
    omega
  | svc | sup i | host job => exact (by decide : blockBase 96 48 ≤ Reg.shtModMisuse ∧ Reg.shtModMisuse < blockBase 96 49)

/-- The counter, the module's own state, the contexts, and every register but those listed are as they were. -/
structure TimEdit (regs : List Nat) (s u : State) : Prop where
  tick : u.tick = s.tick
  own : u.tim.own = s.tim.own
  ctxs : u.ctxs = s.ctxs
  rd : ∀ a, a ∉ regs → u.rd a = s.rd a

namespace TimEdit
variable {regs more : List Nat} {s u w : State}

theorem refl : TimEdit regs s s := ⟨rfl, rfl, rfl, fun _ _ => rfl⟩

theorem trans (h : TimEdit regs s u) (k : TimEdit regs u w) : TimEdit regs s w :=
  ⟨k.tick.trans h.tick, k.own.trans h.own, k.ctxs.trans h.ctxs, fun a ha => (k.rd a ha).trans (h.rd a ha)⟩

theorem mono (h : TimEdit regs s u) (hsub : regs ⊆ more) : TimEdit more s u :=
  ⟨h.tick, h.own, h.ctxs, fun a ha => h.rd a fun hr => ha (hsub hr)⟩

theorem ite {c : Prop} [Decidable c] (h : TimEdit regs s u) (k : TimEdit regs s w) : TimEdit regs s (if c then u else w) := by
  split
  · exact h
  · exact k

theorem put (s : State) (f : Fld) (v : Nat) (hf : f.addr ∈ regs) : TimEdit regs s (s.put f v) :=
  ⟨rfl, rfl, rfl, fun _ ha => State.rd_put_ne s f v fun e => ha (e ▸ hf)⟩

theorem misuse (s : State) (req : Requester) (hreg : misuseReg req ∈ regs) : TimEdit regs s (s.misuse req) := by
  cases req with
  | part p => exact put _ (Fld.shtMisuseCount p) _ hreg
  | svc | sup i | host job => exact put _ Fld.shtModMisuseCount _ hreg

theorem raiseMod (s : State) (src code sev w2 w3 : Nat) : TimEdit regs s (s.raiseMod src code sev w2 w3) := by
  obtain ⟨r, l, h⟩ := s.raiseMod_eq src code sev w2 w3
  rw [h]
  exact ⟨rfl, rfl, rfl, fun _ _ => rfl⟩

theorem setRefLost (s : State) (b : Bool) : TimEdit regs s { s with tim.refLost := b } := ⟨rfl, rfl, rfl, fun _ _ => rfl⟩

theorem refLost (s : State) : TimEdit regs s s.refLost := (setRefLost s true).trans (raiseMod ..)

theorem vcoreMove (s : State) (goal : Nat) : TimEdit regs s (s.vcoreMove goal) := ⟨rfl, rfl, rfl, fun _ _ => rfl⟩

theorem armDiv (s : State) (hstatus : Reg.timStatus ∈ regs) : TimEdit regs s s.armDiv := by
  have harmed : TimEdit regs s (s.put Fld.timStatusDivArmed 1) := put s _ _ hstatus
  unfold State.armDiv
  extract_lets t armed
  split
  · exact (put s Fld.timStatusDivLate 1 hstatus).trans (raiseMod ..)
  · exact ite (harmed.trans (vcoreMove ..)) harmed

theorem get (h : TimEdit regs s u) (f : Fld) (hf : f.addr ∉ regs) : u.get f = s.get f := by
  rw [State.get, State.get, h.rd _ hf]

theorem anyRunning (h : TimEdit regs s u) (hregs : ∀ c, Reg.ctxStatus c ∉ regs) : u.anyRunning = s.anyRunning := by
  have hstate : ∀ c, u.ctxState c = s.ctxState c := fun c => by
    rw [State.ctxState, State.ctxState, State.tearing, State.tearing, State.ctx, State.ctx, h.ctxs,
      h.get (Fld.ctxStatusState c) (hregs c)]
  simp only [State.anyRunning, hstate]

end TimEdit

/-- The registers that a write of TIM_CTRL may change. -/
def timCtrlRegs (req : Requester) : List Nat := [Reg.timCtrl, Reg.timStatus, misuseReg req]

section
variable (req : Requester)

theorem ctxStatus_not_mem_timCtrlRegs (c : Nat) : Reg.ctxStatus c ∉ timCtrlRegs req := by
  have hmisuse := misuseReg_bounds req
  simp only [timCtrlRegs, List.mem_cons, List.not_mem_nil, or_false, Reg.ctxStatus, Reg.timCtrl, Reg.timStatus, Block.base, blockBase] at hmisuse ⊢
  omega

theorem lnkStatus_not_mem_timCtrlRegs {p : Nat} (hp : p < 80) : Reg.lnkStatus p ∉ timCtrlRegs req := by
  have hmisuse := misuseReg_bounds req
  simp only [timCtrlRegs, List.mem_cons, List.not_mem_nil, or_false, Reg.lnkStatus, Reg.timCtrl, Reg.timStatus, Block.base, portBase,
    blockBase] at hmisuse ⊢
  omega

theorem timSet_not_mem_timCtrlRegs : Reg.timSet ∉ timCtrlRegs req ∧ Reg.timSet + 4 ∉ timCtrlRegs req := by
  have hmisuse := misuseReg_bounds req
  simp only [timCtrlRegs, List.mem_cons, List.not_mem_nil, or_false, Reg.timSet, Reg.timCtrl, Reg.timStatus, Block.base, blockBase] at hmisuse ⊢
  omega

end

/-! ## Acquisition (R347, R349) -/

/-- What an acquisition finds after the fields of TIM_CTRL have been stored. -/
structure Acquires (s w : State) (v : Nat) : Prop where
  tick : w.tick = s.tick
  own : w.tim.own = s.tim.own
  set : w.get64 Reg.timSet = s.get64 Reg.timSet
  running : w.anyRunning = s.anyRunning
  port : ∀ p, p < 80 → w.portState p = s.portState p
  master : w.isMaster = bitAt v 16
  ref : w.get Fld.timCtrlRefSel = field v 0 2
  parent : w.get Fld.timCtrlParent = field v 2 7

theorem Acquires.of_timEdit {s w : State} {req : Requester} {v : Nat} (h : TimEdit (timCtrlRegs req) s w) (master : w.isMaster = bitAt v 16)
    (ref : w.get Fld.timCtrlRefSel = field v 0 2) (parent : w.get Fld.timCtrlParent = field v 2 7) : Acquires s w v where
  tick := h.tick
  own := h.own
  set := by
    obtain ⟨hlow, hhigh⟩ := timSet_not_mem_timCtrlRegs req
    rw [State.get64, State.get64, h.rd _ hlow, h.rd _ hhigh]
  running := h.anyRunning (ctxStatus_not_mem_timCtrlRegs req)
  port _ hp := h.get _ (lnkStatus_not_mem_timCtrlRegs req hp)
  master := master
  ref := ref
  parent := parent

/-- The fields of TIM_CTRL that an acquisition reads, as a write stores them. -/
def State.putTimCtrl (s : State) (v : Nat) : State :=
  ((s.put Fld.timCtrlMaster (field v 16 1)).put Fld.timCtrlParent (field v 2 7)).put Fld.timCtrlRefSel (field v 0 2)

theorem State.isMaster_putTimCtrl (s : State) (v : Nat) : (s.putTimCtrl v).isMaster = bitAt v 16 := by
  rw [State.isMaster, State.flag, State.putTimCtrl, State.get_put_beside _ _ _ _ (by decide) (by decide),
    State.get_put_beside _ _ _ _ (by decide) (by decide), State.get_put_same _ _ _ (by decide)]
  exact congrArg (· == 1) (Nat.mod_eq_of_lt (field_lt v 16 1))

theorem State.ref_putTimCtrl (s : State) (v : Nat) : (s.putTimCtrl v).get Fld.timCtrlRefSel = field v 0 2 :=
  (State.get_put_same _ _ _ (by decide)).trans (Nat.mod_eq_of_lt (field_lt v 0 2))

theorem State.parent_putTimCtrl (s : State) (v : Nat) : (s.putTimCtrl v).get Fld.timCtrlParent = field v 2 7 := by
  rw [State.putTimCtrl, State.get_put_beside _ _ _ _ (by decide) (by decide), State.get_put_same _ _ _ (by decide)]
  exact Nat.mod_eq_of_lt (field_lt v 2 7)

theorem TimEdit.putTimCtrl {regs : List Nat} (s : State) (v : Nat) (hctrl : Reg.timCtrl ∈ regs) : TimEdit regs s (s.putTimCtrl v) :=
  ((put s Fld.timCtrlMaster _ hctrl).trans (put _ Fld.timCtrlParent _ hctrl)).trans (put _ Fld.timCtrlRefSel _ hctrl)

/-- A write of TIM_CTRL with ACQUIRE stores the fields, and acquires with them. -/
theorem State.timCtrl_acquire (s : State) (req : Requester) {v : Nat} (hbit : bitAt v 31 = true) :
    ∃ w, s.timCtrl req v = w.acquire ∧ Acquires s w v := by
  unfold State.timCtrl
  extract_lets armed old counted divided stored src chosen reported ready
  have hstored : TimEdit (timCtrlRegs req) s stored := by
    have hcounted : TimEdit (timCtrlRegs req) s counted := .ite (.misuse s req (by simp [timCtrlRegs])) .refl
    have hdivided : TimEdit (timCtrlRegs req) s divided :=
      .ite hcounted (hcounted.trans (.put counted Fld.timCtrlDivNext _ (.head _)))
    exact hdivided.trans (.putTimCtrl divided v (.head _))
  have hmaster : stored.isMaster = bitAt v 16 := divided.isMaster_putTimCtrl v
  have href : stored.get Fld.timCtrlRefSel = field v 0 2 := divided.ref_putTimCtrl v
  have hparent : stored.get Fld.timCtrlParent = field v 2 7 := divided.parent_putTimCtrl v
  clear_value stored
  have hready : TimEdit [Reg.timStatus] stored ready := by
    have hchosen : TimEdit [Reg.timStatus] stored chosen := .ite .refl (.ite (.refLost stored) (.setRefLost stored false))
    have hreported : TimEdit [Reg.timStatus] stored reported := hchosen.trans (.put chosen Fld.timStatusState _ (.head _))
    exact .ite (hreported.trans (.armDiv reported (.head _))) hreported
  have hfield : ∀ f : Fld, f.addr = Reg.timCtrl → ready.get f = stored.get f := fun f hf => hready.get f (by rw [hf]; decide)
  refine ⟨ready, if_pos hbit, .of_timEdit (hstored.trans (hready.mono (by simp [timCtrlRegs]))) ?_ ?_ ?_⟩
  · exact (congrArg (· == 1) (hfield Fld.timCtrlMaster rfl)).trans hmaster
  · exact (hfield Fld.timCtrlRefSel rfl).trans href
  · exact (hfield Fld.timCtrlParent rfl).trans hparent

section
variable {s : State}

theorem exec_timAcquire {req : Requester} {v : BitVec 32} (h : s.accepts req Reg.timCtrl v.toNat = true) (hbit : v.getLsbD 31 = true) :
    ∃ w, exec (.timAcquire req v) s = .next w.acquire ∧ Acquires s w v.toNat := by
  have hset : bitAt v.toNat 31 = true := (bitAt_toNat v 31).trans hbit
  obtain ⟨w, hw, hacquires⟩ := s.timCtrl_acquire req hset
  refine ⟨w, ?_, hacquires⟩
  change execTimAcquire req v s = _
  rw [execTimAcquire, setBit_of_bitAt hset, State.write_of_accepts h, hw]

theorem State.acquire_refused (hrefused : s.acquireRefused = true) : s.acquire = s.timRefuse := if_pos hrefused

/-- A master as its acquisition begins: the counter at `t`, with no correction under way. -/
def State.counterAt (s : State) (t : Nat) : State := { s with tick := t, tim := { s.tim with slew := 0, hold := 0, lost := false } }

theorem State.counterAt_tick (s : State) (t : Nat) : (s.counterAt t).tick = t := rfl

theorem State.isMaster_counterAt (s : State) (t : Nat) : (s.counterAt t).isMaster = s.isMaster := State.isMaster_of_ctrl rfl

theorem State.acquire_master (hmaster : s.isMaster = true) (href : s.get Fld.timCtrlRefSel < 2) (hidle : s.anyRunning = false)
    (hset : s.tick ≤ s.get64 Reg.timSet) : s.acquire = (s.counterAt (s.get64 Reg.timSet)).timEnter timAligned := by
  have hgoes : s.acquireRefused = false := by
    simp only [State.acquireRefused, hmaster, if_true, Bool.or_eq_false_iff, beq_eq_false_iff_ne]
    omega
  simp [State.acquire, hgoes, hmaster, hidle, Nat.not_lt.2 hset, State.counterAt]

theorem State.acquire_parent (hslave : s.isMaster = false) (href : s.get Fld.timCtrlRefSel ≠ 3) (hp : s.get Fld.timCtrlParent < 80)
    (hdir : (portDir (s.get Fld.timCtrlParent)).isSome = true) (hactive : s.portState (s.get Fld.timCtrlParent) = portActive) : s.acquire =
      { s with tim := { s.tim with count := 0, offsets := 0, slew := 0, hold := 0, lost := false, marker := s.tick } }.timEnter
        timAcquiring := by
  have hgoes : s.acquireRefused = false := by
    simp [State.acquireRefused, hslave, href, hactive, hp, hdir]
  simp [State.acquire, hgoes, hslave]

theorem field_ref_lt {v : Nat} (h : bitAt v 1 = false) : field v 0 2 < 2 := by
  simp only [bitAt, Nat.shiftRight_eq_div_pow, beq_eq_false_iff_ne] at h
  simp only [field, Nat.shiftRight_zero]
  omega

/-! ## References and markers (R342, R347) -/

theorem State.refLost_tim (s : State) : s.refLost.tim = { s.tim with refLost := true } := by
  obtain ⟨r, l, h⟩ := State.raiseMod_eq { s with tim.refLost := true } srcTime 0x0600 2 (s.get Fld.timCtrlRefSel) 0
  rw [State.refLost, h]

/-- The reference in use fails; a module on LINK that is ALIGNED has lost its timing. -/
theorem State.refFail_used {src : Nat} (hsrc : src = s.get Fld.timCtrlRefSel) (hok : s.tim.refLost = false) (hext : src ≠ 1) :
    s.refFail src = if s.isMaster = false ∧ src = 2 ∧ s.tim.own = 2 then { s.refLost with tim.since := s.tick }.timEnter timHoldover
      else s.refLost := by
  have hlost : TimEdit [] s s.refLost := .refLost s
  have hmaster : s.refLost.isMaster = s.isMaster := congrArg (· == 1) (hlost.get Fld.timCtrlMaster List.not_mem_nil)
  simp only [State.refFail, beq_false_of_ne hext, Bool.false_eq_true, if_false, ← hsrc, bne_self_eq_false, hok, Bool.or_self, hmaster,
    hlost.own, hlost.tick, Bool.and_eq_true, Bool.not_eq_true', beq_iff_eq, timAligned, and_assoc]

theorem State.refReturn_link (hlink : s.get Fld.timCtrlRefSel = 2) (hown : s.tim.own = 3) (htiming : s.tim.lost = false) :
    s.refReturn 2 = { s with tim.refLost := false }.timEnter timAligned := by
  simp [State.refReturn, hlink, State.timBack, hown, timHoldover, htiming]

theorem State.markerLoss_aligned (hslave : s.isMaster = false) (hlate : s.tim.marker + 3 * 65536 ≤ s.tick) (hown : s.tim.own = 2) :
    s.markerLoss = { s with tim.lost := true, tim.since := s.tick }.timEnter timHoldover := by
  simp [State.markerLoss, State.timLost, hslave, markerTicks, Nat.not_lt.2 hlate, hown, timAligned]

theorem State.markerLoss_early (h : s.tick < s.tim.marker + 3 * 65536) : s.markerLoss = s := by
  simp [State.markerLoss, markerTicks, h]

theorem State.holdoverExpiry_late (hown : s.tim.own = 3) (hlate : s.tim.since + 250000 ≤ s.tick) :
    s.holdoverExpiry = s.timEnter timUnaligned := by
  simp [State.holdoverExpiry, hown, timHoldover, ticksPerMs, hlate]

theorem State.holdoverExpiry_early (h : s.tick < s.tim.since + 250000) : s.holdoverExpiry = s := by
  simp [State.holdoverExpiry, ticksPerMs, Nat.not_le.2 h]

theorem exec_refFail (src : Fin 3) : exec (.refFail src) s = .next (s.refFail src) := rfl
theorem exec_refReturn (src : Fin 3) : exec (.refReturn src) s = .next (s.refReturn src) := rfl
theorem exec_markerLoss : exec .markerLoss s = .next (s.clocked s.markerLoss) := rfl
theorem exec_holdoverExpiry : exec .holdoverExpiry s = .next (s.clocked s.holdoverExpiry) := rfl

end

/-- Settles O28: an acquisition by the fields that its write stores, and each loss and return as one change of the module's own state. -/
theorem timeUnitStates : Obligations.TimeUnitStates := by
  unfold Obligations.TimeUnitStates
  refine ⟨fun req v s hacc hbit hmaster href hidle hset => ?master, fun req v s hacc hbit hslave href hp hdir hactive => ?measures,
    fun req v s hacc hbit hbad => ?refused, fun s hlink hok hslave hown => ?linkFails, fun src s hsrc hok hmaster hext => ?masterFails,
    fun s hlink hown htiming => ?returns, fun s hlock hslave hlate hown => ?markersLost, fun s h => ?markersCome,
    fun s hlock hown hlate => ?expires, fun s h => ?holds, fun s => ?lockLost⟩
  case master =>
    obtain ⟨w, hexec, h⟩ := exec_timAcquire hacc hbit
    have hw : w.isMaster = true := h.master.trans ((bitAt_toNat v 16).trans hmaster)
    have hsel : w.get Fld.timCtrlRefSel < 2 := by
      rw [h.ref]
      exact field_ref_lt ((bitAt_toNat v 1).trans href)
    rw [State.acquire_master hw hsel (h.running.trans hidle) (by rwa [h.tick, h.set]), h.set] at hexec
    refine ⟨_, hexec, ?_, State.get_timEnter_state timAligned ((w.isMaster_counterAt _).trans hw), ?_⟩
    · rw [State.timEnter_tim, timAligned]
    · rw [State.timEnter_tick, State.counterAt_tick]
  case measures =>
    obtain ⟨w, hexec, h⟩ := exec_timAcquire hacc hbit
    rw [State.acquire_parent (h.master.trans ((bitAt_toNat v 16).trans hslave)) (by rwa [h.ref]) (by rwa [h.parent]) (by rwa [h.parent])
      (by rw [h.parent, h.port _ hp, hactive])] at hexec
    refine ⟨_, hexec, ?_, ?_, ?_⟩
    · rw [State.timEnter_tim, timAcquiring]
    · rw [State.timEnter_tim]
    · rw [State.timEnter_tick, h.tick]
  case refused =>
    obtain ⟨w, hexec, h⟩ := exec_timAcquire hacc hbit
    have hrefused : w.acquireRefused = true := by
      rw [State.acquireRefused, h.ref, h.master, bitAt_toNat]
      rcases hbad with hbad | ⟨hmaster, hbad⟩
      · simp [hbad]
      · simp [hbad, hmaster]
    rw [State.acquire_refused hrefused] at hexec
    refine ⟨_, hexec, ?_, ?_, (State.put_tick ..).trans h.tick⟩
    · exact congrArg (· == 1) (State.get_put_same w Fld.timStatusRefused 1 (by decide))
    · rw [State.timRefuse, State.put_tim, h.own]
  case linkFails =>
    have hlost : TimEdit [] s s.refLost := .refLost s
    refine ⟨_, (exec_refFail 2).trans (congrArg _ ((State.refFail_used hlink.symm hok (by decide)).trans
      (if_pos ⟨hslave, rfl, hown⟩))), ?_⟩
    simp [State.refLost_tim, hlost.tick, timHoldover]
  case masterFails =>
    rw [exec_refFail, State.refFail_used hsrc hok fun e => hext (Fin.ext e), hmaster, if_neg (by simp), State.refLost, hsrc]
  case returns =>
    rw [exec_refReturn]
    refine ⟨_, congrArg _ (State.refReturn_link hlink hown htiming), ?_⟩
    simp [timAligned]
  case markersLost =>
    rw [exec_markerLoss, State.clocked, if_pos hlock, State.markerLoss_aligned hslave hlate hown]
    exact ⟨_, rfl, by simp [timHoldover]⟩
  case markersCome => rw [exec_markerLoss, State.markerLoss_early h, State.clocked_self]
  case expires =>
    rw [exec_holdoverExpiry, State.clocked, if_pos hlock, State.holdoverExpiry_late hown hlate]
    exact ⟨_, rfl, by simp [timUnaligned]⟩
  case holds => rw [exec_holdoverExpiry, State.holdoverExpiry_early h, State.clocked_self]
  case lockLost =>
    have hoff : (s.put Fld.timStatusPllLock 0).flag Fld.timStatusPllLock = false := by
      rw [State.flag, State.get_put_same s Fld.timStatusPllLock 0 (by decide), Nat.zero_mod]
      rfl
    refine ⟨s.put Fld.timStatusPllLock 0, rfl, hoff, rfl, fun a ha => ?_, State.tickPass_unlocked hoff⟩
    exact State.rd_put_ne s _ 0 ha

end Sys2Proof.Machine

/-! # The front of the queue, and the state after reset (R11, R462, R466)

A command is taken from the front of the queue, and no word spells one (log entry 9). After reset nothing is stored, so that every register reads
its reset value and memory reads as unwritten (log entry 2).
-/
namespace Sys2Proof.Machine
open Sys2Proof

theorem step_cons (c : Instr) (s : State) : step { s with pending := c :: s.pending } = exec c s := step_pending rfl

theorem State.withFetchWord_self (s : State) (nbits w : Nat) : s.withFetchWord nbits w = s := by
  rw [State.withFetchWord, decodeTableWord]

/-- Settles O32: the queue's front is what a step runs, and the decoder spells no command. -/
theorem frontCommandRuns : Obligations.FrontCommandRuns := by
  unfold Obligations.FrontCommandRuns
  exact ⟨step_cons, State.withFetchWord_self⟩

/-! ## The state after reset -/

theorem State.rd_reset (a : Nat) : State.reset.rd a = regReset a % 2 ^ 32 := by
  rw [State.rd, State.reset, SMap.getD, SMap.get?, List.lookup_nil, Option.getD_none, BitVec.toNat_ofNat]

theorem locate_ctx {c off : Nat} (hc : c < 64) (ho : off < 0x40) : locate (Block.base .ctx c + off) = some ⟨.ctx, c, off⟩ := by
  have hagent : (Block.base .ctx c + off) / 0x200000000 = 96 := by
    simp only [Block.base, blockBase]
    omega
  have hoff : (Block.base .ctx c + off) % 0x1000000 = 0x40 * c + off := by
    simp only [Block.base, blockBase]
    omega
  have hblk : (Block.base .ctx c + off) / 0x1000000 % 512 = 49 := blockNumber_ctx hc ho
  have hin : 0x40 * c + off < 0x1000 := by omega
  simp only [locate, hagent, hoff, hblk, hin]
  norm_num
  omega

theorem State.ctxState_reset {c : Nat} (hc : c < 64) : State.reset.ctxState c = ctxIdle := by
  have hword : State.reset.rd (Reg.ctxStatus c) = 0 := by
    rw [State.rd_reset, regReset, Reg.ctxStatus, locate_ctx hc (by decide)]
    rfl
  have htear : State.reset.tearing c = false := rfl
  rw [State.ctxState, htear, State.get, Fld.ctxStatusState, hword]
  rfl

theorem Memory.byte_reset (a : Nat) : State.reset.mem.byte a = 0#8 := rfl

theorem Memory.anyPoison_reset (a n : Nat) : State.reset.mem.anyPoison a n = false :=
  List.any_eq_false.2 fun q _ => by simp [Memory.poisoned, State.reset]

/-- Settles O34: nothing is stored after reset, so each reading is the value that stands for an absent entry. -/
theorem resetState : Obligations.ResetState := by
  unfold Obligations.ResetState
  exact ⟨⟨rfl, rfl⟩, rfl, State.rd_reset, fun a => ⟨Memory.byte_reset a, Memory.anyPoison_reset a 1⟩, fun _ _ => rfl, fun _ => rfl, rfl,
    fun _ => State.ctxState_reset, rfl⟩

end Sys2Proof.Machine

/-! # The store, and the loss of power (R548, R550, R551, R563, R568, R578)

What the store's own operations and the service controller's events leave as it is, what remains of a module after a module reset, a power-off
or a pulled cable, and the start of the converter layer.
-/
namespace Sys2Proof.Machine
open Sys2Proof

/-! ## What the store's operations leave (R283, R563, R572) -/

/-- The registers that show the store, and the key slots. -/
def storeRegs : List Nat := [Reg.svcStore, Reg.svcStoreStat, Reg.lvrKeyState] ++ (List.range 16).map Reg.lvrKeyId

/-- Only the store, the key slots, their registers, and what the service controller logs and raises, may differ. -/
structure StoreEdit (s u : State) : Prop where
  out : u.out = s.out
  tick : u.tick = s.tick
  power : u.svc.power = s.svc.power
  dump : u.svc.dump = s.svc.dump
  testEn : u.svc.testEn = s.svc.testEn
  rd : ∀ a, a ∉ storeRegs → u.rd a = s.rd a

namespace StoreEdit
variable {s u w : State}

theorem refl : StoreEdit s s := ⟨rfl, rfl, rfl, rfl, rfl, fun _ _ => rfl⟩

theorem trans (h : StoreEdit s u) (k : StoreEdit u w) : StoreEdit s w :=
  ⟨k.out.trans h.out, k.tick.trans h.tick, k.power.trans h.power, k.dump.trans h.dump, k.testEn.trans h.testEn,
    fun a ha => (k.rd a ha).trans (h.rd a ha)⟩

theorem foldl {α : Type} {f : State → α → State} : ∀ (l : List α) (s : State), (∀ u, ∀ x ∈ l, StoreEdit u (f u x)) → StoreEdit s (l.foldl f s)
  | [], _, _ => refl
  | x :: l, s, hf => (hf s x List.mem_cons_self).trans (foldl l (f s x) fun u y hy => hf u y (List.mem_cons_of_mem x hy))

/-- Any change of the store's own fields of the service controller. -/
theorem svc (s : State) (x : Svc) (hpower : x.power = s.svc.power) (hdump : x.dump = s.svc.dump) (htest : x.testEn = s.svc.testEn) :
    StoreEdit s { s with svc := x } := ⟨rfl, rfl, hpower, hdump, htest, fun _ _ => rfl⟩

theorem wr (s : State) {a : Nat} (v : Nat) (ha : a ∈ storeRegs) : StoreEdit s (s.wr a v) :=
  ⟨rfl, rfl, rfl, rfl, rfl, fun _ hb => State.rd_wr_ne s v fun e => hb (e ▸ ha)⟩

theorem put (s : State) {f : Fld} (v : Nat) (hf : f.addr ∈ storeRegs) : StoreEdit s (s.put f v) := wr s _ hf

theorem get (h : StoreEdit s u) (f : Fld) (hf : f.addr ∉ storeRegs) : u.get f = s.get f := by
  rw [State.get, State.get, h.rd _ hf]

theorem svcRaise (s : State) (code sev w2 w3 : Nat) : StoreEdit s (s.svcRaise code sev w2 w3) := by
  obtain ⟨r, l, h⟩ := s.raiseMod_eq srcSvc code sev w2 w3
  rw [State.svcRaise, h]
  exact ⟨rfl, rfl, rfl, rfl, rfl, fun _ _ => rfl⟩

theorem storeReport (s : State) : StoreEdit s s.storeReport :=
  (put s _ (by simp [storeRegs, Fld.svcStoreSeq])).trans <| (put _ _ (by simp [storeRegs, Fld.svcStoreStatBank])).trans <|
    (put _ _ (by simp [storeRegs, Fld.svcStoreStatErased])).trans <| put _ _ (by simp [storeRegs, Fld.svcStoreStatBusy])

theorem program (s : State) (k : Nat) (r : Option StoreRec) : StoreEdit s (s.program k r) := svc s _ rfl rfl rfl

theorem eraseOld (bank : Nat) : ∀ (fuel : Nat) (s : State), StoreEdit s (State.eraseOld fuel bank s)
  | 0, _ => refl
  | fuel + 1, s => by
    unfold State.eraseOld
    split
    · exact refl
    · split
      · next k _ => exact (svc s { s.svc with store := SMap.del s.svc.store k } rfl rfl rfl).trans (eraseOld bank fuel _)
      · exact refl

theorem loadKeys (s : State) : StoreEdit s s.loadKeys := by
  unfold State.loadKeys
  split
  · exact refl
  · refine foldl _ s fun u i hi => ?_
    have hid : Reg.lvrKeyId i ∈ storeRegs := List.mem_append_right _ (List.mem_map.2 ⟨i, hi, rfl⟩)
    exact ((wr u _ hid).trans (wr _ _ (by simp [storeRegs]))).trans ⟨rfl, rfl, rfl, rfl, rfl, fun _ _ => rfl⟩

theorem storeCommit (s : State) (w : SMap (List Byte)) : StoreEdit s (s.storeCommit w).1 := by
  unfold State.storeCommit
  extract_lets seq bank
  split
  · exact svcRaise ..
  · split
    · exact svcRaise ..
    · extract_lets programmed erased loaded
      have hkeys : StoreEdit erased loaded := by
        unfold loaded
        split
        · exact loadKeys _
        · exact refl
      exact (((program ..).trans (eraseOld ..)).trans hkeys).trans (storeReport _)

theorem storeFlush (s : State) : StoreEdit s s.storeFlush :=
  ((svc s { s.svc with writes := [] } rfl rfl rfl).trans (foldl _ _ fun u w _ => storeCommit u w)).trans (storeReport _)

theorem stopRecord (s : State) (cause : Nat) : StoreEdit s (s.stopRecord cause) := (storeFlush s).trans (storeCommit _ _)

end StoreEdit

/-! ## What is left of the wafer (R548, R551, R568) -/

section
variable {s : State}

@[simp] theorem State.storeReport_svc (s : State) : s.storeReport.svc = s.svc := by simp [State.storeReport]
@[simp] theorem State.storeReport_mem (s : State) : s.storeReport.mem = s.mem := by simp [State.storeReport]
@[simp] theorem State.storeReport_ctxs (s : State) : s.storeReport.ctxs = s.ctxs := by simp [State.storeReport]
@[simp] theorem State.storeReport_cores (s : State) : s.storeReport.cores = s.cores := by simp [State.storeReport]

@[simp] theorem State.resetKeep_mem (x : Svc) (phase : Nat) : (s.resetKeep x phase).mem = State.reset.mem := by
  simp [State.resetKeep, State.waferReset]

@[simp] theorem State.resetKeep_ctxs (x : Svc) (phase : Nat) : (s.resetKeep x phase).ctxs = [] := by
  simp [State.resetKeep, State.waferReset, State.reset]

@[simp] theorem State.resetKeep_cores (x : Svc) (phase : Nat) : (s.resetKeep x phase).cores = State.reset.cores := by
  simp [State.resetKeep, State.waferReset]

@[simp] theorem State.resetKeep_svc (x : Svc) (phase : Nat) : (s.resetKeep x phase).svc = x := by
  simp [State.resetKeep, State.waferReset]

theorem State.get_resetKeep_phase (x : Svc) {phase : Nat} (h : phase < 16) : (s.resetKeep x phase).get Fld.svcStatusPhase = phase := by
  rw [State.resetKeep, (StoreEdit.storeReport _).get _ (by decide), State.get_put_same _ _ _ (by decide)]
  exact Nat.mod_eq_of_lt h

theorem State.get_resetKeep_restarts (x : Svc) (phase : Nat) : (s.resetKeep x phase).get Fld.svcWdtRestarts = s.get Fld.svcWdtRestarts := by
  rw [State.resetKeep, (StoreEdit.storeReport _).get _ (by decide), State.get_put_ne _ _ _ _ (by decide), State.get_put_same _ _ _ (by decide)]
  exact Nat.mod_eq_of_lt (field_lt ..)

theorem State.powerOff_eq (cause : Nat) : s.powerOff cause =
    (s.stopRecord cause).resetKeep { (s.stopRecord cause).svc.afterReset with power := 3, offDue := none, cold := false } phaseOff := rfl

theorem State.moduleReset_eq (cause : Nat) (cold : Bool) : s.moduleReset cause cold =
    (s.stopRecord cause).resetKeep { (s.stopRecord cause).svc.afterReset with cold := cold }
      (if (s.stopRecord cause).svc.power == 2 then phaseBoot else phaseOff) := rfl

/-- The store as a pulled cable leaves it: what waited is written, or the slot of a write under way is used up (R563). -/
def State.lastWrite (s : State) (finishes : Bool) : State :=
  if finishes then s.storeFlush
  else if s.svc.writes.isEmpty then s
  else match (s.erased s.writeBank).head? with
    | some slot => s.program (256 * s.writeBank + slot) none
    | none => s

theorem State.lastWrite_edit (s : State) (finishes : Bool) : StoreEdit s (s.lastWrite finishes) := by
  unfold State.lastWrite
  split
  · exact .storeFlush s
  · split
    · exact .refl
    · split
      · exact .program ..
      · exact .refl

theorem State.lastWrite_idle (finishes : Bool) (h : s.svc.writes = []) : (s.lastWrite finishes).svc = s.svc := by
  unfold State.lastWrite
  split
  · rw [State.storeFlush, h, List.foldl_nil, State.storeReport_svc]
    exact congrArg (fun l => { s.svc with writes := l }) h.symm
  · rw [h]
    rfl

theorem State.cablePull_eq (finishes : Bool) : s.cablePull finishes =
    ((s.lastWrite finishes).waferReset (s.lastWrite finishes).svc.unplugged).put Fld.svcStatusPhase phaseOff := rfl

end

/-! ## POWER_CABLE_PULL and POWER_ON (R548, R550, R578) -/

section
variable {s : State}

theorem exec_powerCablePull (finishes : Bool) (h : s.svc.power ≠ 0) : exec (.powerCablePull finishes) s = .next (s.cablePull finishes) :=
  congrArg _ (if_neg (by simpa using h))

theorem exec_powerCablePull_off (finishes : Bool) (h : s.svc.power = 0) : exec (.powerCablePull finishes) s = .next s :=
  congrArg _ (if_pos (by simpa using h))

theorem exec_powerOn (x : CoolantSample) (pairs : Bool) : exec (.powerOn x pairs) s = .next (s.powerOn x pairs) := rfl

/-- The service controller once it has power. -/
def State.awake (s : State) : State :=
  if s.svc.power == 0 then (({ s with svc.power := 1 } : State).put Fld.svcStatusPhase phaseBoot).storeReport else s

theorem State.awake_off (h : s.svc.power = 0) : s.awake = (({ s with svc.power := 1 } : State).put Fld.svcStatusPhase phaseBoot).storeReport :=
  if_pos (by simpa using h)

theorem State.awake_on (h : s.svc.power ≠ 0) : s.awake = s := if_neg (by simpa using h)

theorem State.awake_power (h : s.svc.power ≤ 1) : s.awake.svc.power = 1 := by
  by_cases hoff : s.svc.power = 0
  · rw [State.awake_off hoff, State.storeReport_svc, State.put_svc]
  · rw [State.awake_on hoff]
    omega

theorem coolHolds_none {x : CoolantSample} (h1 : coolHolds x 1 = false) (h2 : coolHolds x 2 = false) (h5 : coolHolds x 5 = false) :
    [1, 2, 5].find? (coolHolds x) = none := by
  rw [List.find?_eq_none]
  simp [h1, h2, h5]

/-- What the coolant and the busbar pairs decide, once the service controller has power (R550, R578). -/
def State.judgeStart (s : State) (x : CoolantSample) (pairs : Bool) : State :=
  match [1, 2, 5].find? (coolHolds x) with
  | some k =>
    if s.pwr.coolIn.isEmpty then
      let s := { s.coolRegs x with pwr.coolIn := [k] }
      s.svcRaise 0x0C05 (if k == 5 then 4 else 3) (k + s.rd Reg.pwrCoolF * 2 ^ 16) (s.rd Reg.pwrCoolT)
    else s
  | none => if pairs then { s with svc.power := 2, pwr.coolIn := [] } else s

theorem State.powerOn_eq (x : CoolantSample) (pairs : Bool) : s.powerOn x pairs = if 1 < s.svc.power then s else s.awake.judgeStart x pairs := by
  unfold State.powerOn State.judgeStart State.awake
  generalize [1, 2, 5].find? (coolHolds x) = found
  cases found <;> rfl

theorem coolHolds_flow {x : CoolantSample} (h : coolHolds x 1 = true) : [1, 2, 5].find? (coolHolds x) = some 1 := by
  simp [h]

theorem State.powerOn_running (x : CoolantSample) (pairs : Bool) (h : 1 < s.svc.power) : s.powerOn x pairs = s := by
  rw [State.powerOn_eq, if_pos h]

theorem State.powerOn_starts (x : CoolantSample) (pairs : Bool) (h : s.svc.power ≤ 1) : s.powerOn x pairs = s.awake.judgeStart x pairs := by
  rw [State.powerOn_eq, if_neg (by omega)]

/-- A kind of coolant that is out of its limits is said once, and the module waits (R550). -/
theorem State.judgeStart_cool {x : CoolantSample} {k : Nat} (pairs : Bool) (hk : [1, 2, 5].find? (coolHolds x) = some k) :
    s.judgeStart x pairs = if s.pwr.coolIn.isEmpty then
      ({ s.coolRegs x with pwr.coolIn := [k] } : State).svcRaise 0x0C05 (if k == 5 then 4 else 3)
        (k + (s.coolRegs x).rd Reg.pwrCoolF * 2 ^ 16) ((s.coolRegs x).rd Reg.pwrCoolT)
      else s := by
  have hrd : ∀ (u : State) a, ({ u with pwr.coolIn := [k] } : State).rd a = u.rd a := fun u a => State.rd_eq_of_ctrl rfl a
  simp only [State.judgeStart, hk, hrd]

theorem State.judgeStart_flows {x : CoolantSample} (pairs : Bool) (hk : [1, 2, 5].find? (coolHolds x) = none) :
    s.judgeStart x pairs = if pairs then { s with svc.power := 2, pwr.coolIn := [] } else s := by
  simp only [State.judgeStart, hk]

theorem State.coolIn_svc (l : List Nat) : ({ s with pwr.coolIn := l } : State).svc = s.svc := rfl

@[simp] theorem State.coolRegs_svc (x : CoolantSample) : (s.coolRegs x).svc = s.svc := by
  rw [State.coolRegs, State.wr_svc, State.wr_svc]

theorem State.judgeStart_power (x : CoolantSample) : (s.judgeStart x false).svc.power = s.svc.power := by
  cases hk : [1, 2, 5].find? (coolHolds x) with
  | none =>
    rw [State.judgeStart_flows false hk]
    rfl
  | some k =>
    rw [State.judgeStart_cool false hk]
    split
    · rw [(StoreEdit.svcRaise ..).power, State.coolIn_svc, State.coolRegs_svc]
    · rfl

theorem State.powerOn_waits (x : CoolantSample) (h : s.svc.power ≤ 1) : (s.powerOn x false).svc.power = 1 := by
  rw [State.powerOn_starts x false h]
  exact (State.judgeStart_power x).trans (State.awake_power h)

end

/-- Settles O60: without both pairs the sequence only wakes the service controller; a pulled cable leaves the store alone of the module. -/
theorem converterStartsOnTwoPairs : Obligations.ConverterStartsOnTwoPairs := by
  unfold Obligations.ConverterStartsOnTwoPairs
  refine ⟨fun x s h => ⟨_, exec_powerOn x false, State.powerOn_waits x h⟩, fun x s h h1 h2 h5 => ⟨_, exec_powerOn x true, ?_⟩,
    fun finishes s h => ⟨_, exec_powerCablePull finishes h, by rw [State.cablePull_eq]; rfl, by rw [State.cablePull_eq]; rfl⟩⟩
  rw [State.powerOn_starts x true h, State.judgeStart_flows true (coolHolds_none h1 h2 h5)]
  exact ⟨rfl, rfl⟩
end Sys2Proof.Machine

/-! # Faults of regions, the bus and the coolant (R533, R537, R542, R544, R546, R548 to R551, R554, R578) -/

namespace Sys2Proof.Machine
open Sys2Proof

/-! ## Sags, contact faults and trips (R537, R542, R549) -/

section
variable {s : State} {r : RegionId}

theorem exec_regionSag (r : RegionId) (s : State) : exec (.regionSag r) s = .next (s.regionSag r) := rfl

theorem State.regionSag_due {t : Nat} (hfloor : SMap.get? s.pwr.floorAt r = some t) (hon : s.regState r = regOn) (hlate : t + 2500 ≤ s.tick) :
    s.regionSag r = if r.val % 6 = 5 then (s.sagged r t).paneOut (r / 6) else ((s.sagged r t).posSagged (5 * (r / 6) + r % 6)).evcFlow := by
  have hgo : (s.regState r != regOn || decide (s.tick < t + 2500)) = false := by simp [hon, hlate]
  simp only [State.regionSag, hfloor, hgo, Bool.false_eq_true, if_false, beq_iff_eq]
  rfl

theorem State.regionSag_high (h : SMap.get? s.pwr.floorAt r = none) : s.regionSag r = s := by
  simp only [State.regionSag, h]

theorem State.regionSag_stays {t : Nat} (hfloor : SMap.get? s.pwr.floorAt r = some t) (h : s.regState r ≠ regOn ∨ s.tick < t + 2500) :
    s.regionSag r = s := by
  have hstay : (s.regState r != regOn || decide (s.tick < t + 2500)) = true := by simpa using h
  simp only [State.regionSag, hfloor, hstay, if_true]

theorem exec_contactFault (r : RegionId) (step : Option (BitVec 16)) (never : Bool) (s : State) :
    exec (.contactFault r step never) s = .next (s.contactFault r (step.map (·.toNat)) never) := rfl

theorem State.contactFault_off (step : Option Nat) (never : Bool) (h : s.regState r ≠ regOn) : s.contactFault r step never = s :=
  if_pos (by simpa using h)

/-- The record of a contact fault (R542). -/
def State.contactRaised (s : State) (r : RegionId) (step : Option (BitVec 16)) : State :=
  ((s.put (Fld.pwrRStatCapped r) 1).bump Fld.pwrCfaultsCount).raiseMod (srcRegion r) 0x0C01 4
    (r + (if step = none then 1 else 2) * 2 ^ 8 + s.get (Fld.pwrRRconEstimate r) * 2 ^ 16 + s.get (Fld.pwrRRconBaseline r) * 2 ^ 32)
    (step.elim 0 (·.toNat))

theorem State.get_capped_rcon (f : Fld) (hf : f.addr = Reg.pwrRRcon r) :
    ((s.put (Fld.pwrRStatCapped r) 1).bump Fld.pwrCfaultsCount).get f = s.get f := by
  have hr := r.isLt
  rw [State.get_bump_ne _ _ _ _ ?_, State.get_put_ne _ _ _ _ ?_]
  all_goals
    simp only [hf, Fld.pwrRStatCapped, Fld.pwrCfaultsCount, Reg.pwrRRcon, Reg.pwrRStat, Reg.pwrCfaults, Block.base, blockBase]
    omega

theorem State.contactFault_on (step : Option (BitVec 16)) (never : Bool) (h : s.regState r = regOn) :
    s.contactFault r (step.map (·.toNat)) never = if r.val % 6 = 5 then (s.contactRaised r step).evcFlow
      else ((s.contactRaised r step).testDue (5 * (r / 6) + r % 6) true never).evcFlow := by
  unfold State.contactFault
  rw [if_neg (by simp [h])]
  simp only [State.get_capped_rcon (Fld.pwrRRconEstimate r) rfl, State.get_capped_rcon (Fld.pwrRRconBaseline r) rfl]
  have hkind : (if (step.map (·.toNat)).isSome then 2 else 1) = if step = none then 1 else 2 := by cases step <;> rfl
  have hvolts : (step.map (·.toNat)).getD 0 = step.elim 0 (·.toNat) := by cases step <;> rfl
  rw [hkind, hvolts, apply_ite State.evcFlow]
  simp only [beq_iff_eq]
  rfl

theorem exec_thermTrip (r : RegionId) (temp : BitVec 16) (s : State) : exec (.thermTrip r temp) s = .next (s.thermTrip r temp.toNat) := rfl

theorem State.thermTrip_cool {temp : Nat} (h : tempOf temp < 1680) : s.thermTrip r temp = s :=
  if_pos (by simp [h])

theorem State.thermTrip_hot {temp : Nat} (h : 1680 ≤ tempOf temp) (hpower : s.svc.power = 2) :
    s.thermTrip r temp = ((((((s.put (Fld.pwrRTel1Temp r) temp).paceReport r).thermReport).raiseMod (srcRegion r) 0x0C04 4
      (r + temp * 2 ^ 16) 0).abortAll).offDue 5).evcFlow :=
  if_neg (by simp [h, hpower])

end

/-! ## The bus (R533, R548) -/

section
variable {s w : State} {x : InputSample}

theorem exec_inputSupervision (x : InputSample) (s : State) : exec (.inputSupervision x) s = .next (s.inputSample x) := rfl

theorem State.inputSample_off (x : InputSample) (h : s.svc.power = 0) : s.inputSample x = s := if_pos (by simpa using h)

theorem State.inputSample_collapse (hon : s.svc.power ≠ 0) (hvolts : x.volts.toNat < 3400) : s.inputSample x = s.cablePull x.finishes := by
  rw [State.inputSample, if_neg (by simpa using hon), if_pos hvolts]

/-- What INPUT_LOW follows from: the bus below its limit, or back above it. -/
def State.lowReport (s : State) (x : InputSample) : State :=
  if x.low && !s.flag Fld.pwrStatusInputLow then
    (s.put Fld.pwrStatusInputLow 1).svcRaise 0x0C02 4 (x.volts.toNat + x.amps.toNat * 2 ^ 16) 0
  else if x.well && !x.low then s.put Fld.pwrStatusInputLow 0 else s

/-- The power-off that a bus below its limit asks for (R533). -/
def State.sunkOff (s : State) (x : InputSample) : State := if x.sunk || x.beyond then s.offDue 4 else s

/-- A millisecond under a pace cap is counted (R554). -/
def State.capCount (s : State) : State :=
  if s.flag Fld.pwrStatusInputCap || s.flag Fld.pwrStatusCoolCap then s.bump Fld.pwrCapMsCount else s

theorem State.inputSample_holds (hon : s.svc.power ≠ 0) (hvolts : 3400 ≤ x.volts.toNat) :
    s.inputSample x = ((((s.busRegs x).inputCap x).lowReport x).sunkOff x).capCount.evcFlow := by
  rw [State.inputSample, if_neg (by simpa using hon), if_neg (by omega)]
  rfl

theorem State.lowReport_steady (hlow : x.low = false) (hwell : x.well = false) : s.lowReport x = s := by
  simp [State.lowReport, hlow, hwell]

theorem State.lowReport_low (hlow : x.low = true) (hseen : s.flag Fld.pwrStatusInputLow = false) :
    s.lowReport x = (s.put Fld.pwrStatusInputLow 1).svcRaise 0x0C02 4 (x.volts.toNat + x.amps.toNat * 2 ^ 16) 0 :=
  if_pos (by simp [hlow, hseen])

theorem State.sunkOff_steady (hsunk : x.sunk = false) (hbeyond : x.beyond = false) : s.sunkOff x = s := if_neg (by simp [hsunk, hbeyond])

theorem State.sunkOff_due (h : x.sunk = true ∨ x.beyond = true) : s.sunkOff x = s.offDue 4 := if_pos (by simpa using h)

theorem State.capCount_free (hin : s.flag Fld.pwrStatusInputCap = false) (hcool : s.flag Fld.pwrStatusCoolCap = false) : s.capCount = s :=
  if_neg (by simp [hin, hcool])

theorem State.offDue_eq (s : State) (cause : Nat) : ∃ d, s.offDue cause = { s with svc.offDue := d } := by
  unfold State.offDue
  split
  · exact ⟨s.svc.offDue, rfl⟩
  · exact ⟨some cause, rfl⟩

theorem State.get_offDue (cause : Nat) (f : Fld) : (s.offDue cause).get f = s.get f := by
  obtain ⟨d, hd⟩ := s.offDue_eq cause
  rw [hd]
  rfl

/-- INPUT_LOW and its record leave the flags of the pace caps. -/
theorem State.flag_inputLow (f : Fld) (cause code sev w2 w3 v : Nat) (haddr : f.addr = Reg.pwrStatus) (hbit : f.lo + f.w ≤ 31) :
    (((s.put Fld.pwrStatusInputLow v).svcRaise code sev w2 w3).offDue cause).flag f = s.flag f := by
  have hregs : f.addr ∉ storeRegs := by
    rw [haddr]
    decide
  rw [State.flag, State.get_offDue, (StoreEdit.svcRaise ..).get f hregs, State.get_put_beside _ _ _ _ (by decide) (Or.inr hbit), State.flag]

theorem foldl_view {α β : Type} {p : State → β} {f : State → α → State} (hf : ∀ u a, p (f u a) = p u) (l : List α) (s : State) :
    p (l.foldl f s) = p s := by
  induction l generalizing s with
  | nil => rfl
  | cons a l ih => exact (ih _).trans (hf s a)

theorem BlindToRegs.paceAll {α : Type} {p : State → α} (h : BlindToRegs p) (s : State) : p s.paceAll = p s := by
  rw [State.paceAll, foldl_view (f := State.paceReport) fun u r => h.put u ..]
  exact h.put ..

theorem State.paceAll_pwr (s : State) : s.paceAll.pwr = s.pwr := BlindToRegs.paceAll (p := State.pwr) (fun _ _ _ => rfl) s

theorem State.svcRaise_pwr (s : State) (code sev w2 w3 : Nat) : (s.svcRaise code sev w2 w3).pwr = s.pwr := by
  obtain ⟨r, l, h⟩ := s.raiseMod_eq srcSvc code sev w2 w3
  rw [State.svcRaise, h]
  rfl

theorem State.levelRaise_pwr (s : State) (src : Nat) : (s.levelRaise src).pwr = s.pwr := by
  unfold State.levelRaise
  split
  · rfl
  · split
    · rfl
    · split
      · rfl
      · exact State.svcRaise_pwr ..

/-- A sample past a limit lowers the common pace by one a millisecond, to 1 at the least (R533). -/
theorem State.inPace_inputCap (hpast : 1400 < x.amps.toNat ∨ 56000 < x.watts.toNat) :
    (s.inputCap x).pwr.inPace = max 1 (s.pwr.inPace - 1) := by
  unfold State.inputCap
  extract_lets past pairs p below rises falling capped ms pace free pwr moved
  have hpastTrue : past = true := by simpa [past] using hpast
  have hbelow : below = false := by
    have hover : ¬ (x.amps.toNat ≤ 1350 ∧ x.watts.toNat ≤ 54000) := by omega
    simp only [below, Bool.and_eq_false_iff, decide_eq_false_iff_not]
    tauto
  have hfalling : falling = true := by simp [falling, hpastTrue, hbelow]
  have hcapped : capped.pwr = s.pwr := by
    unfold capped
    split
    · exact State.put_pwr ..
    · rfl
  have hpace : pace = max 1 (s.pwr.inPace - 1) := by rw [← hcapped]; exact if_pos hfalling
  have hmoved : moved.pwr.inPace = pace := rfl
  rw [State.levelRaise_pwr, State.paceAll_pwr, ← hpace, ← hmoved]
  split
  · rw [State.put_pwr]
  · rfl

end

/-! ## The coolant (R546) -/

section
variable {s : State}

theorem exec_coolantSupervision (x : CoolantSample) (s : State) : exec (.coolantSupervision x) s = .next (s.coolSample x) := rfl

theorem State.coolSample_still (x : CoolantSample) (h : s.svc.power ≠ 2) : s.coolSample x = s := if_pos (by simpa using h)

theorem State.coolSample_running (x : CoolantSample) (h : s.svc.power = 2) {w : State}
    (hw : w = [1, 2, 3, 5].foldl (fun w k => State.coolJudge w k (coolHolds x k) 1000) (s.coolRegs x)) :
    s.coolSample x = (((w.coolJudge 4 w.coolSpread 1).coolFree x).paceAll).evcFlow := by
  rw [State.coolSample, if_neg (by simp [h]), hw]

theorem State.coolJudge_passes (kind ms : Nat) : (s.coolJudge kind false ms).pwr.coolIn = s.pwr.coolIn.filter (· != kind) := rfl

theorem State.coolJudge_enters {kind ms : Nat} (hms : SMap.getD s.pwr.coolMs kind 0 + 1 = ms) (hout : s.pwr.coolIn.contains kind = false) :
    s.coolJudge kind true ms = ({ s with pwr.coolMs := SMap.put s.pwr.coolMs kind ms } : State).coolEnter kind := by
  unfold State.coolJudge
  rw [if_neg (by decide)]
  simp only [hms, Nat.min_self, hout, beq_self_eq_true, Bool.not_false, Bool.and_self, if_true]

theorem State.coolEnter_cap (s : State) : (s.coolEnter 1).flag Fld.pwrStatusCoolCap = true :=
  congrArg (· == 1) (State.get_put_same _ Fld.pwrStatusCoolCap 1 (by decide))

theorem State.svcRaise_offDue (s : State) (code sev w2 w3 : Nat) : (s.svcRaise code sev w2 w3).svc.offDue = s.svc.offDue := by
  obtain ⟨r, l, h⟩ := s.raiseMod_eq srcSvc code sev w2 w3
  rw [State.svcRaise, h]
  rfl

theorem exec_powerOffSequence (s : State) {cause : Nat} (h : s.svc.offDue = some cause) : exec .powerOffSequence s = .next (s.powerOff cause) := by
  show Host.Outcome.next _ = _
  rw [h]

theorem exec_powerOffSequence_none (h : s.svc.offDue = none) : exec .powerOffSequence s = .next s := by
  show Host.Outcome.next _ = _
  rw [h]

theorem State.coolEnter_off (h : s.svc.offDue = none) : (s.coolEnter 5).svc.offDue = some 6 := by
  unfold State.coolEnter
  extract_lets pwr entered raised
  have hraised : raised.svc.offDue = none := (State.svcRaise_offDue ..).trans h
  rw [if_neg (by decide), if_pos (by decide), State.offDue, hraised]
  rfl

end
/-- Settles O55: each fault, sample and power sequence by the lemma that says what it leaves. -/
theorem powerFaultsAndSupplies : Obligations.PowerFaultsAndSupplies := by
  unfold Obligations.PowerFaultsAndSupplies
  refine ⟨fun r s t hfloor hon hlate => ?sag, fun r s h => ?sagNot, fun r s t hfloor hsoon => ?sagEarly, fun r step never s w hon hw => ?contact,
    fun r step never s h => ?contactOff, fun r temp s hhot hpower => ?trip, fun r temp s hcool => ?tripNot,
    fun x s hon hvolts => ?collapse, fun x s w hon hvolts hlow hwell hsunk hbeyond hw hin hcool => ?steady,
    fun x s w hon hvolts hlow hsunk hw hseen hin hcool => ?sinks, fun x s _ _ hpast => State.inPace_inputCap hpast, fun x s h => ?busOff,
    fun x s h => ?coolOff, fun x s w h hw => ?coolant, fun s kind ms => State.coolJudge_passes kind ms,
    fun s kind ms hms hout => State.coolJudge_enters hms hout, fun s => ⟨State.coolEnter_cap s, State.coolEnter_off⟩,
    fun finishes s => exec_powerCablePull_off finishes, fun finishes s h => ⟨_, exec_powerCablePull finishes h, ?pulled⟩,
    fun s cause => exec_powerOffSequence s, fun s => exec_powerOffSequence_none, fun s cause => ?powerOff,
    fun x pairs s h => ?running, fun x pairs s h h1 h2 h5 => ?starts, fun x pairs s h h1 hin => ?tells, fun x pairs s h h1 hin => ?told,
    fun x s h h1 h2 h5 => ?wakes⟩
  case sag => rw [exec_regionSag, State.regionSag_due hfloor hon hlate]
  case sagNot =>
    rw [exec_regionSag]
    cases hfloor : SMap.get? s.pwr.floorAt r with
    | none => rw [State.regionSag_high hfloor]
    | some t => rw [State.regionSag_stays hfloor (Or.inl (h.resolve_left (by simp [hfloor])))]
  case sagEarly => rw [exec_regionSag, State.regionSag_stays hfloor (Or.inr hsoon)]
  case contact => rw [exec_contactFault, State.contactFault_on step never hon, hw, State.contactRaised]
  case contactOff => rw [exec_contactFault, State.contactFault_off _ never h]
  case trip => rw [exec_thermTrip, State.thermTrip_hot hhot hpower]
  case tripNot => rw [exec_thermTrip, State.thermTrip_cool hcool]
  case collapse => rw [exec_inputSupervision, State.inputSample_collapse hon hvolts]
  case steady =>
    rw [exec_inputSupervision, State.inputSample_holds hon hvolts, ← hw, State.lowReport_steady hlow hwell, State.sunkOff_steady hsunk hbeyond,
      State.capCount_free hin hcool]
  case sinks =>
    rw [exec_inputSupervision, State.inputSample_holds hon hvolts, ← hw, State.lowReport_low hlow hseen, State.sunkOff_due hsunk,
      State.capCount_free]
    · rwa [State.flag_inputLow _ _ _ _ _ _ _ rfl (by decide)]
    · rwa [State.flag_inputLow _ _ _ _ _ _ _ rfl (by decide)]
  case busOff => rw [exec_inputSupervision, State.inputSample_off x h]
  case coolOff => rw [exec_coolantSupervision, State.coolSample_still x h]
  case coolant => rw [exec_coolantSupervision, State.coolSample_running x h hw]
  case pulled =>
    rw [State.cablePull_eq]
    refine ⟨rfl, rfl, rfl, rfl, rfl, ?_, (s.lastWrite_edit finishes).out, fun hidle => ?_⟩
    · exact State.get_put_same _ _ _ (by decide)
    · rw [State.put_svc]
      exact congrArg Svc.unplugged (State.lastWrite_idle finishes hidle)
  case powerOff =>
    rw [State.powerOff_eq]
    refine ⟨by rw [State.resetKeep_svc], by rw [State.resetKeep_svc], State.resetKeep_mem .., State.resetKeep_ctxs ..,
      State.get_resetKeep_phase _ (by decide), ?_⟩
    rw [State.get_resetKeep_restarts, (StoreEdit.stopRecord s cause).get _ (by decide)]
  case running => rw [exec_powerOn, State.powerOn_running x pairs h]
  case starts =>
    rw [exec_powerOn, State.powerOn_starts x pairs (by omega), State.awake_on (by omega), State.judgeStart_flows pairs (coolHolds_none h1 h2 h5)]
  case tells =>
    rw [exec_powerOn, State.powerOn_starts x pairs (by omega), State.awake_on (by omega), State.judgeStart_cool pairs (coolHolds_flow h1), hin]
    rfl
  case told =>
    rw [exec_powerOn, State.powerOn_starts x pairs (by omega), State.awake_on (by omega), State.judgeStart_cool pairs (coolHolds_flow h1),
      if_neg (by simpa using hin)]
  case wakes =>
    rw [exec_powerOn, State.powerOn_starts x false (by omega), State.judgeStart_flows false (coolHolds_none h1 h2 h5), if_neg (by decide),
      State.awake_off h]

end Sys2Proof.Machine

/-! # Commits of the store, BOOT and bring-up (R414, R563, R566, R596) -/

namespace Sys2Proof.Machine
open Sys2Proof

/-! ## The newest record (R563) -/

/-- The better of the best record so far and that of a slot, as the newest record is sought. -/
def newerOf (best : Option (Nat × StoreRec)) (p : Nat × StoreSlot) : Option (Nat × StoreRec) :=
  match p.2.record, best with
  | some r, some (_, b) => if b.seq < r.seq then some (p.1, r) else best
  | some r, none => some (p.1, r)
  | none, _ => best

theorem State.newest_eq (s : State) : s.newest = s.svc.store.foldl newerOf none := rfl

/-- Every record of the slots lies below a bound, and so does the best one so far. -/
def Below (n : Nat) (best : Option (Nat × StoreRec)) : Prop := ∀ p ∈ best, p.2.seq < n

/-- Every record of the slots lies below the bound. -/
def AllBelow (n : Nat) (l : SMap StoreSlot) : Prop := ∀ q ∈ l, ∀ b, q.2.record = some b → b.seq < n

theorem below_newerOf {n : Nat} {best : Option (Nat × StoreRec)} {p : Nat × StoreSlot} :
    Below n (newerOf best p) ↔ Below n best ∧ ∀ b, p.2.record = some b → b.seq < n := by
  obtain ⟨k, order, record⟩ := p
  cases record with
  | none => simp [newerOf]
  | some r =>
    cases best with
    | none => simp [newerOf, Below]
    | some q =>
      simp only [newerOf]
      split
      · next hlt =>
        simp only [Below, Option.mem_some_iff, Option.some.injEq, forall_eq']
        exact ⟨fun h => ⟨by omega, h⟩, And.right⟩
      · next hle =>
        simp only [Below, Option.mem_some_iff, Option.some.injEq, forall_eq']
        exact ⟨fun h => ⟨h, by omega⟩, And.left⟩

theorem below_foldl_newerOf {n : Nat} (l : SMap StoreSlot) (best : Option (Nat × StoreRec)) :
    Below n (l.foldl newerOf best) ↔ Below n best ∧ AllBelow n l := by
  induction l generalizing best with
  | nil => simp [AllBelow]
  | cons p l ih =>
    rw [List.foldl_cons, ih, below_newerOf, and_assoc]
    simp only [AllBelow, List.forall_mem_cons]

/-- A record of the store that is newer than every other one. -/
def IsNewest (store : SMap StoreSlot) (k : Nat) (r : StoreRec) : Prop :=
  ∃ order l₁ l₂, store = l₁ ++ (k, ⟨order, some r⟩) :: l₂ ∧ AllBelow r.seq (l₁ ++ l₂)

theorem newerOf_newer {k order : Nat} {r : StoreRec} {best : Option (Nat × StoreRec)} (h : Below r.seq best) :
    newerOf best (k, ⟨order, some r⟩) = some (k, r) := by
  cases best with
  | none => rfl
  | some p => exact if_pos (h p rfl)

theorem newerOf_older {k : Nat} {r : StoreRec} {q : Nat × StoreSlot} (h : ∀ b, q.2.record = some b → b.seq < r.seq) :
    newerOf (some (k, r)) q = some (k, r) := by
  unfold newerOf
  split
  · next b _ _ hb he =>
    cases he
    exact if_neg (by have := h b hb; omega)
  · next he => cases he
  · rfl

theorem foldl_newerOf_older {k : Nat} {r : StoreRec} : ∀ (l : SMap StoreSlot), AllBelow r.seq l →
    l.foldl newerOf (some (k, r)) = some (k, r)
  | [], _ => rfl
  | q :: l, h => by
    rw [List.foldl_cons, newerOf_older (h q List.mem_cons_self), foldl_newerOf_older l fun p hp => h p (List.mem_cons_of_mem q hp)]

theorem IsNewest.newest {s : State} {k : Nat} {r : StoreRec} (h : IsNewest s.svc.store k r) : s.newest = some (k, r) := by
  obtain ⟨order, l₁, l₂, hstore, hless⟩ := h
  have hfirst : Below r.seq (l₁.foldl newerOf none) :=
    (below_foldl_newerOf l₁ none).2 ⟨fun _ h => (nomatch h), fun q hq => hless q (List.mem_append_left l₂ hq)⟩
  rw [State.newest_eq, hstore, List.foldl_append, List.foldl_cons, newerOf_newer hfirst,
    foldl_newerOf_older l₂ fun q hq => hless q (List.mem_append_right l₁ hq)]

/-- SEQ of the record that a commit writes (R563). -/
def State.nextSeq (s : State) : Nat := match s.newest with | some (_, r) => r.seq + 1 | none => 1

theorem State.below_nextSeq (s : State) : AllBelow s.nextSeq s.svc.store := by
  refine ((below_foldl_newerOf _ none).1 ?_).2
  rw [← State.newest_eq, State.nextSeq]
  split
  · next k r h =>
    rw [h]
    rintro p ⟨⟩
    exact Nat.lt_succ_self _
  · next h =>
    rw [h]
    exact fun _ h => nomatch h

theorem AllBelow.sublist {n : Nat} {l m : SMap StoreSlot} (h : AllBelow n m) (hsub : l.Sublist m) : AllBelow n l :=
  fun q hq => h q (hsub.subset hq)

theorem IsNewest.put {store : SMap StoreSlot} (k order : Nat) {r : StoreRec} (h : AllBelow r.seq store) :
    IsNewest (SMap.put store k ⟨order, some r⟩) k r := by
  refine ⟨order, store.filter (·.1 < k), store.filter (k < ·.1), by simp [SMap.put], fun q hq => h q ?_⟩
  rw [List.mem_append, List.mem_filter, List.mem_filter] at hq
  exact hq.elim And.left And.left

theorem IsNewest.del {store : SMap StoreSlot} {k j : Nat} {r : StoreRec} (h : IsNewest store k r) (hne : j ≠ k) :
    IsNewest (SMap.del store j) k r := by
  obtain ⟨order, l₁, l₂, rfl, hless⟩ := h
  refine ⟨order, SMap.del l₁ j, SMap.del l₂ j, ?_, hless.sublist ?_⟩
  · have hkeep : k < j ∨ j < k := by omega
    simp [SMap.del, List.filter_append, hkeep]
  · exact List.filter_sublist.append List.filter_sublist

/-! ## A commit (R563) -/

/-- The older of two slots of a bank. -/
def olderOf (o : Option (Nat × Nat)) (p : Nat × StoreSlot) : Option (Nat × Nat) :=
  match o with
  | some (_, a) => if p.2.order < a then some (p.1, p.2.order) else o
  | none => some (p.1, p.2.order)

theorem olderOf_key {bank : Nat} {o : Option (Nat × Nat)} {p : Nat × StoreSlot} (ho : ∀ x ∈ o, x.1 / 256 = bank) (hp : p.1 / 256 = bank) :
    ∀ x ∈ olderOf o p, x.1 / 256 = bank := by
  unfold olderOf
  split
  · split
    · rintro x ⟨⟩
      exact hp
    · exact ho
  · rintro x ⟨⟩
    exact hp

theorem foldl_olderOf_key {bank : Nat} : ∀ (l : SMap StoreSlot) (o : Option (Nat × Nat)), (∀ x ∈ o, x.1 / 256 = bank) →
    (∀ p ∈ l, p.1 / 256 = bank) → ∀ x ∈ l.foldl olderOf o, x.1 / 256 = bank
  | [], _, ho, _ => ho
  | p :: l, o, ho, hl => foldl_olderOf_key l (olderOf o p) (olderOf_key ho (hl p List.mem_cons_self)) fun q hq => hl q (List.mem_cons_of_mem p hq)

theorem State.oldestSlot_bank {s : State} {bank k : Nat} (h : s.oldestSlot bank = some k) : k / 256 = bank := by
  obtain ⟨x, hx, rfl⟩ := Option.map_eq_some_iff.1 h
  refine foldl_olderOf_key (s.svc.store.filter fun p => p.1 / 256 == bank) none (fun _ h => nomatch h) (fun p hp => ?_) x hx
  simpa using (List.mem_filter.1 hp).2

theorem IsNewest.eraseOld {k bank : Nat} {r : StoreRec} (hne : k / 256 ≠ bank) : ∀ (fuel : Nat) (s : State), IsNewest s.svc.store k r →
    IsNewest (State.eraseOld fuel bank s).svc.store k r
  | 0, _, h => h
  | fuel + 1, s, h => by
    unfold State.eraseOld
    split
    · exact h
    · split
      · next j hj =>
        refine IsNewest.eraseOld hne fuel _ (h.del fun e => hne ?_)
        rw [← e, State.oldestSlot_bank hj]
      · exact h

theorem State.loadKeys_svc (s : State) : s.loadKeys.svc = s.svc := by
  unfold State.loadKeys
  split
  · rfl
  · refine foldl_view (p := State.svc) (fun u i => ?_) _ s
    simp only [State.wr_svc]

theorem State.erased_lt {s : State} {bank slot : Nat} (h : (s.erased bank).head? = some slot) : slot < 256 :=
  List.mem_range.1 (List.mem_filter.1 (List.mem_of_mem_head? h)).1

theorem State.writeBank_le (s : State) : s.writeBank ≤ 1 := by
  unfold State.writeBank
  split <;> omega

/-- The state once a slot holds the record: old slots are erased, and the key slots follow a changed KEYS section. -/
def State.withRecord (s : State) (slot : Nat) (w : SMap (List Byte)) : State :=
  let u := State.eraseOld 256 (1 - s.writeBank) (s.program (256 * s.writeBank + slot) (some ⟨s.nextSeq, s.freshSections w⟩))
  (if (SMap.get? w secKeys).isSome then u.loadKeys else u).storeReport

theorem StoreTakes.storeCommit {s : State} {slot : Nat} (h : StoreTakes s slot) (w : SMap (List Byte)) :
    s.storeCommit w = (s.withRecord slot w, true) := by
  have hroom : ¬ 0xFFFFFFFF < s.nextSeq := by
    unfold State.nextSeq
    split
    · next k r hr =>
      have := h.room k r hr
      omega
    · decide
  unfold State.storeCommit
  simp only [h.erased]
  exact if_neg hroom

/-- The record that a commit writes is the newest one, in the erased slot of the other bank. -/
theorem StoreTakes.newest_withRecord {s : State} {slot : Nat} (h : StoreTakes s slot) (w : SMap (List Byte)) :
    (s.withRecord slot w).newest = some (256 * s.writeBank + slot, ⟨s.nextSeq, s.freshSections w⟩) := by
  have hslot := State.erased_lt h.erased
  have hbank := s.writeBank_le
  have hput : IsNewest (s.program (256 * s.writeBank + slot) (some ⟨s.nextSeq, s.freshSections w⟩)).svc.store (256 * s.writeBank + slot)
      ⟨s.nextSeq, s.freshSections w⟩ := .put _ _ s.below_nextSeq
  refine IsNewest.newest ?_
  rw [State.withRecord, State.storeReport_svc, apply_ite State.svc, State.loadKeys_svc, ite_self]
  exact hput.eraseOld (by omega) 256 _

/-! ## The commands (R414, R563, R566, R596) -/

section
variable {s : State}

theorem exec_storeCommit (ok : Bool) (s : State) : exec (.storeCommit ok) s = .next (s.storeStep ok).evcFlow := rfl

theorem State.storeStep_ok {w : SMap (List Byte)} {rest : List (SMap (List Byte))} (h : s.svc.writes = w :: rest) :
    s.storeStep true = (State.storeCommit { s with svc.writes := rest } w).1.storeReport := by
  simp only [State.storeStep, h, if_true]

theorem StoreTakes.storeStep_fails {slot : Nat} (h : StoreTakes s slot) {w : SMap (List Byte)} {rest : List (SMap (List Byte))}
    (hwrites : s.svc.writes = w :: rest) : s.storeStep false = ((s.program (256 * s.writeBank + slot) none).svcRaise 0x0D04 3
      (failWord (256 * s.writeBank + slot) s.nextSeq) 1).storeReport := by
  simp only [State.storeStep, hwrites, h.erased, Bool.false_eq_true, if_false]
  rfl

theorem exec_bootCommitDone (s : State) : exec .bootCommitDone s = .next s.bootCommit := rfl

theorem State.bootCommit_idle (h : s.rises = []) : s.bootCommit = s := if_pos (by simp [h])

theorem State.bootCommit_wraps (h : s.rises ≠ []) (hboot : s.bootStored = 0xFFFF) : s.bootCommit = s.moduleReset 7 false := by
  rw [State.bootCommit, if_neg (by simpa using h), if_pos (by simpa using hboot)]

theorem State.bootCommit_rises {w : State} (h : s.rises ≠ []) (hboot : s.bootStored ≠ 0xFFFF)
    (hw : s.storeCommit [(secBoot, leBytes 2 (s.bootStored + 1))] = (w, true)) :
    s.bootCommit = ((w.put Fld.vblBootBoot w.bootStored).applyRises).evcFlow := by
  rw [State.bootCommit, if_neg (by simpa using h), if_neg (by simpa using hboot), hw]
  rfl

theorem exec_bootWrapHoldExpiry (s : State) : exec .bootWrapHoldExpiry s = .next (s.clocked s.holdExpiry) := rfl

/-- The ports that train once the hold ends. -/
def State.enabledPorts (s : State) : List Nat := allPorts.filter fun p => s.flag (Fld.lnkCtrlEn p)

theorem State.holdExpiry_free (h : s.bootHold = false) : s.holdExpiry = s := if_pos (by simp [h])

theorem State.holdExpiry_held (h : s.bootHold = true) : s.holdExpiry = s.enabledPorts.foldl (fun s p =>
    (s.portEnter p portDetect).modPort p fun x => { x with fails := 0 }) { s with bootHold := false } := if_neg (by simp [h])

theorem exec_bringUp (plan : BringPlan) (s : State) : exec (.bringUp plan) s = .next (s.bringUp plan) := rfl

theorem State.bringUp_ready (plan : BringPlan) (h : s.get Fld.svcStatusPhase = phaseReady) : s.bringUp plan = s := if_pos (by simp [h])

/-- Bring-up begins: the converter layer runs, no test is asked for, and the module is neither up nor failed (R566). -/
structure BringsUp (s : State) : Prop where
  power : s.svc.power = 2
  test : s.svc.testEn = false
  ready : s.get Fld.svcStatusPhase ≠ phaseReady
  failed : s.get Fld.svcStatusPhase ≠ phaseFailed

theorem BringsUp.goes (h : BringsUp s) : (s.svc.power != 2 || s.svc.testEn || s.get Fld.svcStatusPhase == phaseReady ||
    s.get Fld.svcStatusPhase == phaseFailed) = false := by
  simp [h.power, h.test, h.ready, h.failed]

theorem BringsUp.bringUp_uncommitted {w : State} {wrapped : Bool} (h : BringsUp s) (plan : BringPlan) (hboot : s.raiseBoot = (w, false, wrapped)) :
    s.bringUp plan = w.put Fld.svcStatusPhase phaseFailed := by
  rw [State.bringUp, h.goes, if_neg (by decide), hboot]
  rfl

theorem BringsUp.bringUp_elects {w t v : State} {wrapped : Bool} {plan : BringPlan} {joined : List Nat} (h : BringsUp s)
    (hboot : s.raiseBoot = (w, true, wrapped)) (hstop : (s.stopBoot == some s.bootStored) = false)
    (hpanes : ({ w with bootHold := wrapped } : State).loadKeys.bringPanes s.isWarm plan = (t, joined)) (helect : t.elect joined = some v) :
    s.bringUp plan = v.bringReady s.isWarm joined plan := by
  rw [State.bringUp, h.goes, if_neg (by decide), hboot, hstop]
  simp only [Bool.not_true, Bool.false_eq_true, if_false, hpanes, helect]

theorem BringsUp.bringUp_unsupervised {w t : State} {wrapped : Bool} {plan : BringPlan} {joined : List Nat} (h : BringsUp s)
    (hboot : s.raiseBoot = (w, true, wrapped)) (hstop : (s.stopBoot == some s.bootStored) = false)
    (hpanes : ({ w with bootHold := wrapped } : State).loadKeys.bringPanes s.isWarm plan = (t, joined)) (helect : t.elect joined = none) :
    s.bringUp plan = t.put Fld.svcStatusPhase phaseFailed := by
  rw [State.bringUp, h.goes, if_neg (by decide), hboot, hstop]
  simp only [Bool.not_true, Bool.false_eq_true, if_false, hpanes, helect]

end

/-- Settles O51: the commit by the invariant that its record stays the newest while old slots are erased; the rest by the branch each case
takes. -/
theorem storeAndBringUp : Obligations.StoreAndBringUp := by
  unfold Obligations.StoreAndBringUp
  refine ⟨fun s w rest slot hwrites _ => ?commits, fun s w rest slot hwrites htakes => ?fails, fun s w slot htakes _ => ?newest,
    fun s h => ?idle, fun s h hboot => ?wraps, fun s w h hboot hw => ?rises, fun s h => ?free, fun s h hports => ?noPort,
    fun s p h hport => ?onePort, fun plan s w wrapped hpower htest hready hfailed hboot => ?uncommitted,
    fun plan s w wrapped t joined v hpower htest hready hfailed hboot hstop hpanes helect => ?elects,
    fun plan s w wrapped t joined hpower htest hready hfailed hboot hstop hpanes helect => ?unsupervised, fun plan s h => ?ready⟩
  case commits => rw [exec_storeCommit, State.storeStep_ok hwrites]
  case fails =>
    rw [exec_storeCommit, htakes.storeStep_fails hwrites]
    rfl
  case newest =>
    rw [htakes.storeCommit]
    exact ⟨rfl, _, _, htakes.newest_withRecord w, rfl, rfl, rfl⟩
  case idle => rw [exec_bootCommitDone, State.bootCommit_idle h]
  case wraps => rw [exec_bootCommitDone, State.bootCommit_wraps h hboot]
  case rises => rw [exec_bootCommitDone, State.bootCommit_rises h hboot hw]
  case free => rw [exec_bootWrapHoldExpiry, State.holdExpiry_free h, State.clocked_self]
  case noPort =>
    have hnone : s.enabledPorts = [] := List.filter_eq_nil_iff.2 fun p hp => by simp [hports p hp]
    rw [exec_bootWrapHoldExpiry, State.holdExpiry_held h, hnone, List.foldl_nil]
  case onePort =>
    have hone : s.enabledPorts = [p] := hport
    rw [exec_bootWrapHoldExpiry, State.holdExpiry_held h, hone, List.foldl_cons, List.foldl_nil]
  case uncommitted => rw [exec_bringUp, BringsUp.bringUp_uncommitted ⟨hpower, htest, hready, hfailed⟩ plan hboot]
  case elects => rw [exec_bringUp, BringsUp.bringUp_elects ⟨hpower, htest, hready, hfailed⟩ hboot hstop hpanes helect]
  case unsupervised => rw [exec_bringUp, BringsUp.bringUp_unsupervised ⟨hpower, htest, hready, hfailed⟩ hboot hstop hpanes helect]
  case ready => rw [exec_bringUp, State.bringUp_ready plan h]

end Sys2Proof.Machine

/-! # Management requests (R547, R556, R558 to R560, R564, R568 to R570, R572) -/

namespace Sys2Proof.Machine
open Sys2Proof

theorem field_low (n w : Nat) : field n 0 w = n % 2 ^ w := by rw [field, Nat.shiftRight_zero]

section
variable {s : State} {m : MgmtMsg}

/-! ## Requests that are dropped or malformed (R558, R559) -/

/-- What each operation runs, by OP. -/
def mgmtEffect : Nat → State → MgmtMsg → State × MgmtAns
  | 1 => State.opTelemetry
  | 2 => State.opLogRead
  | 3 => State.opPartReset
  | 4 => State.opModuleReset
  | 5 => State.opPowerOff
  | 6 => State.opDump
  | 7 => State.opStoreUpdate
  | 8 => State.opStatus
  | 9 => State.opDruterRestart
  | _ => State.opAssign

theorem exec_mgmtCommand {op : Nat} {i : Instr} (h : mgmtCommand m op i) : exec i s = .next (s.mgmtOp op m (mgmtEffect op)) := by
  unfold mgmtCommand at h
  rcases h with ⟨rfl, rfl⟩ | ⟨rfl, rfl⟩ | ⟨rfl, rfl⟩ | ⟨rfl, rfl⟩ | ⟨rfl, rfl⟩ | ⟨rfl, rfl⟩ | ⟨rfl, rfl⟩ | ⟨rfl, rfl⟩ | ⟨rfl, rfl⟩ | ⟨rfl, rfl⟩ <;> rfl

theorem State.mgmtOp_off {f : State → MgmtMsg → State × MgmtAns} (op : Nat) (h : s.svc.power = 0) : s.mgmtOp op m f = s := if_pos (by simp [h])

theorem State.mgmtOp_unlisted {f : State → MgmtMsg → State × MgmtAns} (op : Nat) (hon : s.svc.power ≠ 0) (h : s.mgmtTaken m.src = false) :
    s.mgmtOp op m f = s.bump Fld.svcMgmtDropCount := by
  rw [State.mgmtOp, if_neg (by simpa using hon), if_pos (by simp [h])]

theorem State.mgmtOp_malformed {f : State → MgmtMsg → State × MgmtAns} (op : Nat) (hon : s.svc.power ≠ 0) (htaken : s.mgmtTaken m.src = true)
    (h : m.rsvd ≠ 0#64 ∨ 1200 < m.data.length) : s.mgmtOp op m f = s.mgmtAnswer m s.chainAddr op (answerOf stBad) := by
  rw [State.mgmtOp, if_neg (by simpa using hon), if_neg (by simp [htaken]), if_pos (by simpa using h)]
  rfl

theorem MgmtTakes.mgmtOp {f : State → MgmtMsg → State × MgmtAns} (h : MgmtTakes s m) (op : Nat) :
    s.mgmtOp op m f = (f s m).1.mgmtAnswer m s.chainAddr op (f s m).2 := by
  have hsize := h.size
  rw [State.mgmtOp, if_neg (by simpa using h.power), if_neg (by simp [h.taken]), if_neg (by simp [h.rsvd, hsize])]

theorem exec_mgmtBadRequest (op : Byte) : exec (.mgmtBadRequest op m) s = .next (s.mgmtBad op.toNat m) := rfl

theorem State.mgmtBad_unlisted (op : Nat) (hon : s.svc.power ≠ 0) (h : s.mgmtTaken m.src = false) :
    s.mgmtBad op m = s.bump Fld.svcMgmtDropCount := by
  rw [State.mgmtBad, if_neg (by simpa using hon), if_pos (by simp [h])]

theorem MgmtTakes.mgmtBad {op : Byte} (h : MgmtTakes s m) (hop : op = 0#8 ∨ 10#8 < op) :
    s.mgmtBad op.toNat m = s.mgmtAnswer m s.chainAddr op.toNat (answerOf stBad) := by
  have hrsvd : (op.toNat == 0 || decide (10 < op.toNat)) = true := by
    rcases hop with rfl | hop
    · rfl
    · have : 10 < op.toNat := hop
      simp [this]
  rw [State.mgmtBad, if_neg (by simpa using h.power), if_neg (by simp [h.taken]), if_pos (by rw [Bool.or_assoc, hrsvd, Bool.or_true])]
  rfl

/-! ## The operations (R556, R560, R564, R568 to R570) -/

/-- A request that is taken answers what its operation answers, out of the state that the operation leaves. -/
theorem MgmtTakes.exec_eq {op : Nat} {i : Instr} {t : State} {a : MgmtAns} (h : MgmtTakes s m) (hi : mgmtCommand m op i)
    (heffect : mgmtEffect op s m = (t, a)) : exec i s = s.mgmtDone t m op a := by
  rw [exec_mgmtCommand hi, h.mgmtOp, heffect, State.mgmtDone]

theorem State.opPartReset_wedged (h : s.wedged m = true) : s.opPartReset m = (s.moduleReset 2 false, answerOf stWedged) := if_pos h

theorem State.opPartReset_accepted (h : s.wedged m = false) (haccepts : s.accepts .svc (Reg.shtCtrl (m.arg0.toNat % 32)) 1 = true) :
    s.opPartReset m = (s.partReset (m.arg0.toNat % 32), answerOf stOk) := by
  rw [State.opPartReset, if_neg (by simp [h]), field_low]
  exact congrArg (·, answerOf stOk) (State.write_of_accepts haccepts _)

theorem State.opDump_eq : s.opDump m = if 319 < m.arg0.toNat % 512 then (s, answerOf stBad) else if s.svc.testEn then (s, answerOf stBusy)
    else if s.svc.power != 2 then (s, answerOf stRefused) else (s.dump (m.arg0.toNat % 512), answerOf stOk) := by
  rw [State.opDump, field_low]
  rfl

/-- A position that serves no slot is copied without task slots, and no context faults (R570). -/
theorem State.dump_idle {pos : Nat} (hcore : s.coreServed pos = none) (hroom : s.svc.dump.length < 900) :
    ∃ d, (s.dump pos).svc.dump = s.svc.dump ++ [d] ∧ d.pos = pos ∧ pos ∈ (s.dump pos).svc.stopped ∧ (s.dump pos).mem = s.mem ∧
      (s.dump pos).ctrl = s.ctrl := by
  unfold State.dump
  simp only [hcore, if_neg (Nat.not_le.2 hroom)]
  refine ⟨_, rfl, rfl, ?_, trivial, trivial⟩
  split
  · next h => simpa using h
  · exact List.mem_append_right _ (List.mem_singleton_self pos)

theorem State.opStoreUpdate_none (h : updateSize (m.arg0.toNat % 2 ^ 16) = none) : s.opStoreUpdate m = (s, answerOf stRefused) := by
  rw [State.opStoreUpdate, field_low]
  simp only [h]
  rfl

theorem State.opStoreUpdate_long {n : Nat} (h : updateSize (m.arg0.toNat % 2 ^ 16) = some n) (hlong : n < m.arg1.toNat + m.data.length) :
    s.opStoreUpdate m = (s, answerOf stBad) := by
  rw [State.opStoreUpdate, field_low]
  simp only [h, hlong, if_true]
  rfl

theorem State.opStoreUpdate_fits {n : Nat} (h : updateSize (m.arg0.toNat % 2 ^ 16) = some n) (hfits : m.arg1.toNat + m.data.length ≤ n) :
    s.opStoreUpdate m = (if bitAt m.arg0.toNat 31 then
      ({ s.stages (m.arg0.toNat % 2 ^ 16) n m with svc.stage := [] } : State).storeWrite (s.stages (m.arg0.toNat % 2 ^ 16) n m).svc.stage
      else s.stages (m.arg0.toNat % 2 ^ 16) n m, answerOf stOk) := by
  rw [State.opStoreUpdate, field_low]
  simp only [h, if_neg (Nat.not_lt.2 hfits)]
  split <;> rfl

theorem State.opDruterRestart_busy (h : s.svc.restart ≠ none) : s.opDruterRestart m = (s, answerOf stBusy) :=
  if_pos (Option.isSome_iff_ne_none.2 h)

theorem State.opDruterRestart_refused (h : s.svc.restart = none) (hphase : s.get Fld.svcStatusPhase ≠ phaseReady) :
    s.opDruterRestart m = (s, answerOf stRefused) := by
  rw [State.opDruterRestart, if_neg (by simp [h]), if_pos (by simpa using hphase)]
  rfl

theorem State.opDruterRestart_runs (h : s.svc.restart = none) (hphase : s.get Fld.svcStatusPhase = phaseReady) :
    s.opDruterRestart m = (s.druterRestart 2, answerOf stOk) := by
  rw [State.opDruterRestart, if_neg (by simp [h]), if_neg (by simp [hphase])]
  rfl

theorem State.opAssign_wedged (h : s.wedged m = true) : s.opAssign m = (s.moduleReset 2 false, answerOf stWedged) := if_pos h

theorem State.opAssign_open (h : s.wedged m = false) (hopen : s.trp.tx ≠ [] ∨ s.trp.rx ≠ []) : s.opAssign m = (s, answerOf stRefused) := by
  rw [State.opAssign, if_neg (by simp [h]), if_pos (by simpa using hopen)]
  rfl

theorem State.opAssign_closed (h : s.wedged m = false) (htx : s.trp.tx = []) (hrx : s.trp.rx = []) : s.opAssign m =
    (((s.put Fld.vblNodeNode (m.arg0.toNat % 2 ^ 20)).put Fld.vblNodeValid 1).wr Reg.vblTorus (m.arg1.toNat % 2 ^ 32), answerOf stOk) := by
  rw [State.opAssign, if_neg (by simp [h]), if_neg (by simp [htx, hrx]), field_low]
  rfl

theorem State.moduleReset_wafer (cause : Nat) (cold : Bool) : (s.moduleReset cause cold).mem = State.reset.mem ∧
    (s.moduleReset cause cold).ctxs = [] ∧ (s.moduleReset cause cold).cores = State.reset.cores ∧ (s.moduleReset cause cold).svc.cold = cold := by
  rw [State.moduleReset_eq]
  exact ⟨State.resetKeep_mem .., State.resetKeep_ctxs .., State.resetKeep_cores .., congrArg Svc.cold (State.resetKeep_svc ..)⟩

theorem State.moduleReset_running (cause : Nat) (cold : Bool) (h : s.svc.power = 2) :
    (s.moduleReset cause cold).get Fld.svcStatusPhase = phaseBoot ∧ (s.moduleReset cause cold).svc.power = 2 := by
  have hpower : (s.stopRecord cause).svc.power = 2 := (StoreEdit.stopRecord s cause).power.trans h
  rw [State.moduleReset_eq, if_pos (by simp [hpower])]
  exact ⟨State.get_resetKeep_phase _ (by decide), (congrArg Svc.power (State.resetKeep_svc ..)).trans hpower⟩

end

/-- Settles O56: each request by what its operation answers. -/
theorem managementRequests : Obligations.ManagementRequests := by
  unfold Obligations.ManagementRequests
  have part : ∀ m, mgmtCommand m 3 (.partReset m) := fun m => by simp [mgmtCommand]
  have dump : ∀ m, mgmtCommand m 6 (.dump m) := fun m => by simp [mgmtCommand]
  have update : ∀ m, mgmtCommand m 7 (.storeUpdate m) := fun m => by simp [mgmtCommand]
  have restart : ∀ m, mgmtCommand m 9 (.druterRestart m) := fun m => by simp [mgmtCommand]
  have assign : ∀ m, mgmtCommand m 10 (.assign m) := fun m => by simp [mgmtCommand]
  refine ⟨fun m s op i hi hon h => ?dropped, fun m s op i hi hon htaken h => ?malformed, fun m s op i hi h => ?unpowered,
    fun op m s h hop => ?reserved, fun op m s hon h => ?reservedDropped, fun m s h => h.exec_eq (by simp [mgmtCommand]) rfl,
    fun m s first h hfirst => h.exec_eq (by simp [mgmtCommand]) (by rw [hfirst]; rfl),
    fun m s h hw => h.exec_eq (part m) (State.opPartReset_wedged hw),
    fun m s p h hw hp hacc => ?partReset, fun m s h => h.exec_eq (by simp [mgmtCommand]) rfl, fun m s h => h.exec_eq (by simp [mgmtCommand]) rfl,
    fun m s h hpos => h.exec_eq (dump m) (State.opDump_eq.trans (if_pos hpos)),
    fun m s h hpos htest => h.exec_eq (dump m) ?dumpTest, fun m s h hpos htest hpower => h.exec_eq (dump m) ?dumpPower,
    fun m s h hpos htest hpower => h.exec_eq (dump m) ?dumpRuns, fun s pos => State.dump_idle,
    fun m s n h hsize hfits hbit => h.exec_eq (update m) ?stages, fun m s n w h hsize hfits hbit hw => h.exec_eq (update m) ?writes,
    fun m s n h hsize hlong => h.exec_eq (update m) (State.opStoreUpdate_long hsize hlong),
    fun m s h hsize => h.exec_eq (update m) (State.opStoreUpdate_none hsize), fun m s h => h.exec_eq (by simp [mgmtCommand]) rfl,
    fun m s h hr => h.exec_eq (restart m) (State.opDruterRestart_busy (m := m) hr),
    fun m s h hr hphase => h.exec_eq (restart m) (State.opDruterRestart_refused (m := m) hr hphase),
    fun m s h hr hphase => h.exec_eq (restart m) (State.opDruterRestart_runs (m := m) hr hphase),
    fun m s h hw => h.exec_eq (assign m) (State.opAssign_wedged hw), fun m s h hw hopen => h.exec_eq (assign m) (State.opAssign_open hw hopen),
    fun m s h hw htx hrx => h.exec_eq (assign m) (State.opAssign_closed hw htx hrx), fun s cause cold => ?reset⟩
  case dropped => rw [exec_mgmtCommand hi, State.mgmtOp_unlisted op hon h]
  case malformed =>
    rw [exec_mgmtCommand hi, State.mgmtOp_malformed op hon htaken h]
    rfl
  case unpowered => rw [exec_mgmtCommand hi, State.mgmtOp_off op h]
  case reserved =>
    rw [exec_mgmtBadRequest, h.mgmtBad hop]
    rfl
  case reservedDropped => rw [exec_mgmtBadRequest, State.mgmtBad_unlisted _ hon h]
  case partReset =>
    subst hp
    exact h.exec_eq (part m) (State.opPartReset_accepted hw hacc)
  case dumpTest => exact State.opDump_eq.trans (by rw [if_neg (by omega), if_pos htest])
  case dumpPower => exact State.opDump_eq.trans (by rw [if_neg (by omega), if_neg (by simp [htest]), if_pos (by simpa using hpower)])
  case dumpRuns => exact State.opDump_eq.trans (by rw [if_neg (by omega), if_neg (by simp [htest]), if_neg (by simp [hpower])])
  case stages => exact (State.opStoreUpdate_fits hsize hfits).trans (by rw [if_neg (by simp [hbit])])
  case writes =>
    subst hw
    exact (State.opStoreUpdate_fits hsize hfits).trans (by rw [if_pos hbit])
  case reset =>
    obtain ⟨hmem, hctxs, hcores, hcold⟩ := s.moduleReset_wafer cause cold
    exact ⟨hmem, hctxs, hcores, hcold, State.moduleReset_running cause cold⟩

end Sys2Proof.Machine

/-! # What the event controller's own course leaves (R491 to R499)

After a happening the controller files its records and signals its queues. That changes memory, its own registers, none of which lies at a
multiple of 0x80, the requests, the log and what leaves the module.
-/
namespace Sys2Proof.Machine
open Sys2Proof

/-- A state that differs in what the event controller changes of itself. -/
structure EvcEdit (s u : State) : Prop where
  rd : ∀ a, a % 0x80 = 0 → u.rd a = s.rd a
  svc : u.svc = { s.svc with log := u.svc.log, logged := u.svc.logged, worst := u.svc.worst }
  out : ∃ more, u.out = s.out ++ more

namespace EvcEdit
variable {s u w : State}

theorem same (hctrl : u.ctrl = s.ctrl) (hsvc : u.svc = s.svc) (hout : u.out = s.out) : EvcEdit s u :=
  ⟨fun a _ => State.rd_eq_of_ctrl hctrl a, by rw [hsvc], [], by rw [hout, List.append_nil]⟩

theorem refl : EvcEdit s s := same rfl rfl rfl

theorem trans (h : EvcEdit s u) (k : EvcEdit u w) : EvcEdit s w := by
  refine ⟨fun a ha => (k.rd a ha).trans (h.rd a ha), ?_, ?_⟩
  · rw [k.svc, h.svc]
  · obtain ⟨m, hm⟩ := h.out
    obtain ⟨n, hn⟩ := k.out
    exact ⟨m ++ n, by rw [hn, hm, List.append_assoc]⟩

theorem setEvc (s : State) (x : Evc) : EvcEdit s { s with evc := x } := same rfl rfl rfl
theorem setVbl (s : State) (x : Vbl) : EvcEdit s { s with vbl := x } := same rfl rfl rfl
theorem setMem (s : State) (x : Memory) : EvcEdit s { s with mem := x } := same rfl rfl rfl

theorem ite {c : Prop} [Decidable c] (h : EvcEdit s u) (k : EvcEdit s w) : EvcEdit s (if c then u else w) := by
  split
  · exact h
  · exact k

theorem foldl {α : Type} {f : State → α → State} (hf : ∀ u x, EvcEdit u (f u x)) (l : List α) (s : State) : EvcEdit s (l.foldl f s) :=
  List.foldlRecOn (motive := EvcEdit s) l _ refl fun u hu x _ => hu.trans (hf u x)

theorem put (s : State) (f : Fld) (v : Nat) (hf : f.addr % 0x80 ≠ 0) : EvcEdit s (s.put f v) :=
  ⟨fun a ha => State.rd_put_ne s f v fun e => hf (e ▸ ha), rfl, [], by rw [State.put_out, List.append_nil]⟩

theorem setEvq (s : State) (q : Nat) (x : EvcQ) : EvcEdit s (s.setEvq q x) := same rfl rfl rfl

theorem emit (s : State) (o : Out) : EvcEdit s (s.emit o) := ⟨fun _ _ => rfl, rfl, [o], rfl⟩

theorem svcLog (s : State) (e : Event) : EvcEdit s (s.svcLog e) := ⟨fun _ _ => rfl, rfl, [], (List.append_nil _).symm⟩

theorem raiseMod (s : State) (src code sev w2 w3 : Nat) : EvcEdit s (s.raiseMod src code sev w2 w3) := by
  obtain ⟨r, l, h⟩ := s.raiseMod_eq src code sev w2 w3
  rw [h]
  exact same rfl rfl rfl

theorem svcRaise (s : State) (code sev w2 w3 : Nat) : EvcEdit s (s.svcRaise code sev w2 w3) := (raiseMod ..).trans (svcLog ..)

theorem evqReg {off : Nat} (q : Nat) (h : off < 0x80) (hne : off ≠ 0) : (Block.base .evq q + off) % 0x80 ≠ 0 := by
  simp only [Block.base, blockBase]
  omega

theorem putStat (s : State) (q v : Nat) : EvcEdit s (s.put (Fld.evcQStatSignalled q) v) := put _ _ _ (evqReg q (by decide) (by decide))

/-! ## Signals (R495 to R497) -/

theorem logQueue (s : State) (q : Nat) : EvcEdit s (s.logQueue q) := (foldl (fun u (r : Event × Bool) => svcLog u r.1) _ s).trans (setEvq ..)

theorem evcSignal (s : State) (q : Nat) : EvcEdit s (s.evcSignal q) := by
  unfold State.evcSignal
  dsimp only
  split
  · exact (putStat ..).trans (setEvq ..)
  · next t _ =>
    have htgt : ∀ u : State, EvcEdit u (u.put (Fld.evcQTgtLast q) t) := fun u => put _ _ _ (evqReg q (by decide) (by decide))
    have hlogged : ∀ u : State, EvcEdit u (if t == 4 then u.logQueue q else u) := fun u => ite (logQueue u q) refl
    exact ((((setEvq ..).trans (putStat ..)).trans (htgt _)).trans (hlogged _)).trans (ite (emit ..) (setVbl ..))

theorem evcJudge (s : State) (q : Nat) : EvcEdit s (s.evcJudge q) := ite (evcSignal s q) refl

theorem levelRaise (s : State) (src : Nat) : EvcEdit s (s.levelRaise src) := by
  unfold State.levelRaise
  refine ite refl ?_
  split
  · exact refl
  · exact ite ((setEvc ..).trans (setEvc ..)) ((setEvc ..).trans (svcRaise ..))

/-! ## Records (R491 to R493) -/

theorem evcWritten (s : State) (q : Nat) (e : Event) : EvcEdit s (s.evcWritten q e) := by
  unfold State.evcWritten
  extract_lets tail moved evc levelled x now filed
  have hmoved : EvcEdit s moved := put _ _ _ (evqReg q (by decide) (by decide))
  have hlevelled : EvcEdit moved levelled := by
    unfold levelled
    split
    · exact setEvc ..
    · exact refl
  exact (((hmoved.trans hlevelled).trans (setEvq ..)).trans (levelRaise ..)).trans (evcJudge ..)

theorem putFault (s : State) (q v : Nat) : EvcEdit s (s.put (Fld.evcQStatFault q) v) := put _ _ _ (evqReg q (by decide) (by decide))

theorem evcFail (s : State) (q : Nat) (e : Event) : EvcEdit s (s.evcFail q e) := by
  unfold State.evcFail
  exact ((setEvq ..).trans (putFault ..)).trans (setEvc ..)

theorem evcPut (s : State) (q : Nat) (e : Event) : EvcEdit s (s.evcPut q e) := by
  unfold State.evcPut
  exact ite ((setEvq ..).trans (setVbl ..)) (ite (evcFail ..) ((setMem ..).trans (evcWritten ..)))

theorem evcDrain (q : Nat) : ∀ (fuel : Nat) (s : State), EvcEdit s (s.evcDrain fuel q)
  | 0, _ => refl
  | fuel + 1, s => by
    unfold State.evcDrain
    refine ite refl ?_
    split
    · exact refl
    · exact ite (((setEvq ..).trans (evcPut ..)).trans (evcDrain q fuel _)) (((setEvq ..).trans (evcPut ..)).trans (evcDrain q fuel _))

theorem evcPump (s : State) (q : Nat) : EvcEdit s (s.evcPump q) := evcDrain q _ s

theorem evcDrop (s : State) (q : Nat) (e : Event) : EvcEdit s (s.evcDrop q e) := by
  have hcount : ∀ u : State, EvcEdit u (u.bump (Fld.evcQDropCount q)) := fun u => put _ _ _ (evqReg q (by decide) (by decide))
  have htotal : ∀ u : State, EvcEdit u (u.bump Fld.evcDroppedCount) := fun u => put _ _ _ (by decide)
  unfold State.evcDrop
  exact ((setEvq ..).trans (hcount _)).trans (htotal _)

theorem evcFile (s : State) (q : Nat) (e : Event) : EvcEdit s (s.evcFile q e) := by
  unfold State.evcFile
  exact ite (evcDrop ..) (ite (evcDrop ..) ((setEvq ..).trans (evcPump ..)))

theorem evcRoute (s : State) (e : Event) : EvcEdit s (s.evcRoute e) := by
  unfold State.evcRoute
  split
  · exact evcFile ..
  · exact put _ _ _ (by decide)

theorem evcSettle : ∀ (fuel : Nat) (s : State), EvcEdit s (s.evcSettle fuel)
  | 0, _ => refl
  | fuel + 1, s => by
    unfold State.evcSettle
    split
    · exact refl
    · exact ((setEvc ..).trans (evcRoute ..)).trans (evcSettle fuel _)

theorem evcEnded (s : State) : EvcEdit s s.evcEnded := by
  unfold State.evcEnded
  refine (setVbl ..).trans (foldl (fun u d => ?_) _ _)
  refine ite refl ?_
  split
  · exact refl
  · exact ite (((setEvq ..).trans (setEvq ..)).trans (evcPump ..))
      (ite (((setEvq ..).trans (evcWritten ..)).trans (evcPump ..)) ((setEvq ..).trans (evcFail ..)))

theorem supCheck (s : State) : EvcEdit s s.supCheck := foldl (fun _ _ => ite (ite (evcSignal ..) refl) (evcJudge ..)) _ s

theorem evcFlow (s : State) : EvcEdit s s.evcFlow := ((evcEnded s).trans (supCheck _)).trans (evcSettle ..)

theorem get (h : EvcEdit s u) (f : Fld) (hf : f.addr % 0x80 = 0) : u.get f = s.get f := by
  rw [State.get, State.get, h.rd _ hf]

end EvcEdit
end Sys2Proof.Machine

/-! # The service controller's watches (R547, R555, R557, R561, R562, R569, R588) -/

namespace Sys2Proof.Machine
open Sys2Proof

/-! ## Telemetry passes (R547, R557) -/

section
variable {s : State} {x : Telemetry}

theorem exec_telemetryPass (x : Telemetry) (s : State) : exec (.telemetryPass x) s = .next (s.telemetryPass x) := rfl

theorem State.telemetryPass_off (h : s.svc.power = 0) : s.telemetryPass x = s := if_pos (by simp [h])

/-- A millisecond of the service controller passes. -/
def State.msPassed (s : State) : State := { s with svc.ms := s.svc.ms + 1 }

theorem State.telemetryPass_waits (h : s.svc.power = 1 ∨ s.svc.power = 3) : s.telemetryPass x = s.msPassed := by
  have hon : s.svc.power ≠ 0 ∧ s.svc.power ≠ 2 := by omega
  rw [State.telemetryPass, if_neg (by simpa using hon.1)]
  exact if_pos (by simpa using hon.2)

theorem State.thermReport_edit (s : State) : ∃ u : State, EvcEdit u s.thermReport ∧ u.svc = s.svc ∧ ∀ a, a ≠ Reg.pwrStatus → u.rd a = s.rd a := by
  refine ⟨_, EvcEdit.levelRaise .., ?_, fun a ha => ?_⟩
  · rw [State.put_svc, State.put_svc]
  · rw [State.rd_put_ne _ _ _ ha, State.rd_put_ne _ _ _ ha]

theorem State.thermReport_ms (s : State) : s.thermReport.svc.ms = s.svc.ms := by
  obtain ⟨u, hedit, hsvc, -⟩ := s.thermReport_edit
  rw [hedit.svc, ← hsvc]

theorem State.get_thermReport (f : Fld) (hf : f.addr % 0x80 = 0) (hne : f.addr ≠ Reg.pwrStatus) : s.thermReport.get f = s.get f := by
  obtain ⟨u, hedit, -, hrd⟩ := s.thermReport_edit
  rw [hedit.get f hf, State.get, State.get, hrd _ hne]

theorem State.tickCheck_down (readable : Bool) (h : s.get Fld.svcStatusPhase ≠ phaseReady) : s.tickCheck readable = s := if_pos (by simpa using h)

/-- A pass with nothing to sample, no position in service and the module not ready. -/
theorem State.telemetryPass_quiet (h : s.svc.power = 2) (hregions : x.regions = []) (hserves : ∀ p, p < 320 → s.serves p = none)
    (hhour : (s.svc.ms + 1) % 3600000 ≠ 0) (hphase : s.get Fld.svcStatusPhase ≠ phaseReady) :
    s.telemetryPass x = s.msPassed.thermReport.evcFlow := by
  have hserved : ((List.range 320).filter fun p => (s.msPassed.thermReport.serves p).isSome) = [] := by
    rw [List.filter_eq_nil_iff]
    intro p hp
    obtain ⟨u, hedit, -, hrd⟩ := s.msPassed.thermReport_edit
    have hmap : ∀ n, s.msPassed.thermReport.rd (Reg.pswMap n) = s.rd (Reg.pswMap n) := fun n => by
      rw [hedit.rd _ (by simp only [Reg.pswMap, Block.base, blockBase]; omega), hrd _ (by simp only [Reg.pswMap, Reg.pwrStatus, Block.base, blockBase]; omega)]
      exact State.rd_eq_of_ctrl rfl _
    rw [State.serves_congr hmap, hserves p (List.mem_range.1 hp)]
    decide
  have hms : s.msPassed.thermReport.svc.ms = s.svc.ms + 1 := s.msPassed.thermReport_ms
  have hdown : s.msPassed.thermReport.get Fld.svcStatusPhase ≠ phaseReady := by
    rw [State.get_thermReport _ (by decide) (by decide)]
    exact hphase
  unfold State.telemetryPass
  extract_lets svc passed reported served hourly counter counted settled
  have hreported : reported = s.msPassed.thermReport := by
    unfold reported
    rw [hregions]
    rfl
  have hnone : served = reported := by
    unfold served
    rw [hreported, hserved, List.foldl_nil]
  have hwritten : hourly = served := if_neg (by rw [hnone, hreported, hms]; simpa using hhour)
  have hsettled : settled = s.msPassed.thermReport := by
    unfold settled
    rw [hwritten, hnone, hreported, if_neg (by simpa using hdown)]
  rw [if_neg (by simp [h]), if_neg (by simp [passed, svc, h])]
  rw [hsettled, State.tickCheck_down _ hdown]

end
end Sys2Proof.Machine

/-! # Watchdogs, the chain and the final obligation of the service controller (R547, R557, R561, R562, R569, R588) -/

namespace Sys2Proof.Machine
open Sys2Proof

/-! ## The tick stands still (R557) -/

section
variable {s : State}

/-- What a pass that reads TIM_TICK keeps of it. -/
def State.tickRead (s : State) (stalls : Nat) : State := { s with svc.unread := 0, svc.stalls := stalls, svc.lastTick := s.tick }

/-- A pass that could not read TIM_TICK. -/
def State.tickUnread (s : State) : State := { s with svc.unread := s.svc.unread + 1 }

/-- A module whose tick has stood still over two passes, or could not be read over ten, is reset. -/
def State.tickJudge (s : State) : State := if 2 ≤ s.svc.stalls || 10 ≤ s.svc.unread then s.moduleReset 3 false else s

theorem State.tickCheck_read (h : s.get Fld.svcStatusPhase = phaseReady) :
    s.tickCheck true = (s.tickRead (if s.tick == s.svc.lastTick then s.svc.stalls + 1 else 0)).tickJudge := if_neg (by simp [h])

theorem State.tickCheck_unread (h : s.get Fld.svcStatusPhase = phaseReady) : s.tickCheck false = s.tickUnread.tickJudge := if_neg (by simp [h])

theorem State.tickJudge_stuck (h : 2 ≤ s.svc.stalls ∨ 10 ≤ s.svc.unread) : s.tickJudge = s.moduleReset 3 false := if_pos (by simpa using h)

theorem State.tickJudge_fine (h : s.svc.stalls < 2) (hu : s.svc.unread < 10) : s.tickJudge = s := if_neg (by simp [h, hu])

theorem State.tickCheck_stands (h : s.get Fld.svcStatusPhase = phaseReady) (htick : s.tick = s.svc.lastTick) (hstalls : 1 ≤ s.svc.stalls) :
    s.tickCheck true = (s.tickRead (s.svc.stalls + 1)).moduleReset 3 false := by
  rw [State.tickCheck_read h, if_pos (by simpa using htick), State.tickJudge_stuck (.inl (Nat.succ_le_succ hstalls))]

theorem State.tickCheck_runs (h : s.get Fld.svcStatusPhase = phaseReady) (htick : s.tick ≠ s.svc.lastTick) :
    s.tickCheck true = s.tickRead 0 := by
  rw [State.tickCheck_read h, if_neg (by simpa using htick), State.tickJudge_fine (by simp [State.tickRead]) (by simp [State.tickRead])]

theorem State.tickCheck_lost (h : s.get Fld.svcStatusPhase = phaseReady) (hunread : 9 ≤ s.svc.unread) :
    s.tickCheck false = s.tickUnread.moduleReset 3 false := by
  rw [State.tickCheck_unread h, State.tickJudge_stuck (.inr (Nat.succ_le_succ hunread))]

/-! ## Samples of a region (R547) -/

theorem State.regionSample_rd (x : RegionSample) {a : Nat} (hcon : a ≠ Reg.pwrRRcon x.r.val) (hstat : a ≠ Reg.pwrRStat x.r.val) :
    (s.regionSample x).rd a = ((s.wr (Reg.pwrRTel0 x.r.val) (x.vsense.toNat + x.current.toNat * 2 ^ 16)).wr (Reg.pwrRTel1 x.r.val)
      (x.stretch.toNat * 2 ^ 8 + x.temp.toNat * 2 ^ 16)).rd a := by
  have hpace : ∀ (u : State) (p : Pwr), (({ u with pwr := p } : State).paceReport x.r.val).rd a = u.rd a := fun u p => by
    rw [State.paceReport, State.rd_put_ne _ _ _ hstat]
    exact State.rd_eq_of_ctrl rfl a
  rw [State.regionSample, hpace, State.rd_put_ne _ _ _ hcon]

theorem State.regionSample_tel0 (x : RegionSample) :
    (s.regionSample x).rd (Reg.pwrRTel0 x.r.val) = x.vsense.toNat + x.current.toNat * 2 ^ 16 := by
  rw [State.regionSample_rd x (by simp [Reg.pwrRTel0, Reg.pwrRRcon]) (by simp [Reg.pwrRTel0, Reg.pwrRStat]),
    State.rd_wr_ne _ _ (by simp [Reg.pwrRTel0, Reg.pwrRTel1]), State.rd_wr_same]
  have hv := x.vsense.isLt
  have hc := x.current.isLt
  omega

theorem State.regionSample_tel1 (x : RegionSample) :
    (s.regionSample x).rd (Reg.pwrRTel1 x.r.val) = x.stretch.toNat * 2 ^ 8 + x.temp.toNat * 2 ^ 16 := by
  rw [State.regionSample_rd x (by simp [Reg.pwrRTel1, Reg.pwrRRcon]) (by simp [Reg.pwrRTel1, Reg.pwrRStat]), State.rd_wr_same]
  have hs := x.stretch.isLt
  have ht := x.temp.isLt
  omega

theorem State.regionSample_fields (x : RegionSample) : (s.regionSample x).get (Fld.pwrRTel1Temp x.r) = x.temp.toNat ∧
    (s.regionSample x).get (Fld.pwrRTel0Vsense x.r) = x.vsense.toNat ∧ (s.regionSample x).get (Fld.pwrRTel0Current x.r) = x.current.toNat := by
  have hs := x.stretch.isLt
  have ht := x.temp.isLt
  have hv := x.vsense.isLt
  have hc := x.current.isLt
  refine ⟨?_, ?_, ?_⟩
  · rw [State.get, show (Fld.pwrRTel1Temp x.r).addr = Reg.pwrRTel1 x.r from rfl, State.regionSample_tel1]
    change field _ 16 16 = _
    rw [field, Nat.shiftRight_eq_div_pow]
    omega
  · rw [State.get, show (Fld.pwrRTel0Vsense x.r).addr = Reg.pwrRTel0 x.r from rfl, State.regionSample_tel0]
    change field _ 0 16 = _
    rw [field_low]
    omega
  · rw [State.get, show (Fld.pwrRTel0Current x.r).addr = Reg.pwrRTel0 x.r from rfl, State.regionSample_tel0]
    change field _ 16 16 = _
    rw [field, Nat.shiftRight_eq_div_pow]
    omega

/-! ## Druter's watchdog (R569) -/

/-- Druter's count starts again. -/
def State.beatReset (s : State) : State := { s with svc.beat := 0 }

theorem exec_svcBeatWrite {req : Requester} {v : BitVec 32} (h : s.accepts req Reg.svcBeat v.toNat = true) :
    exec (.svcBeatWrite req v) s =
      .next ((if v.toNat % 2 ^ 16 != s.get Fld.svcBeatSeq then s.beatReset else s).put Fld.svcBeatSeq (v.toNat % 2 ^ 16)) := by
  change Host.Outcome.next (s.write req Reg.svcBeat v.toNat fun s => s.beatWrite v.toNat) = _
  rw [State.write_of_accepts h, State.beatWrite, field_low]
  rfl

theorem exec_druterWatchdog : exec .druterWatchdog s = .next s.watchdog := rfl

theorem State.watchdog_early (h : ¬WatchdogDue s) : s.watchdog = s := by
  refine if_pos ?_
  by_contra hnot
  simp only [Bool.or_eq_true, bne_iff_ne, decide_eq_true_eq, not_or, not_not, Bool.not_eq_true, Nat.not_lt, Option.isSome_eq_false_iff,
    Option.isNone_iff_eq_none] at hnot
  obtain ⟨⟨⟨hphase, hdown⟩, hrestart⟩, hlate⟩ := hnot
  exact h ⟨⟨hphase, hdown, hrestart⟩, hlate⟩

theorem State.watchdog_due (h : WatchdogDue s) : s.watchdog =
    if 3 ≤ (s.svc.restarts.filter fun t => s.svc.ms < t + 600000).length then
      ((s.put Fld.svcStatusDruterDown 1).put Fld.svcStatusSupValid 0).evcFlow
    else s.druterRestart 1 := by
  obtain ⟨⟨hphase, hdown, hrestart⟩, hlate⟩ := h
  refine if_neg ?_
  simp only [hphase, hdown, hrestart, bne_self_eq_false, Option.isSome_none, Bool.or_self, Bool.false_or, decide_eq_true_eq]
  omega

/-- Druter as a restart leaves it, before the event controller's own course. -/
def State.druterHalted (s : State) (cause : Nat) : State :=
  { (s.put Fld.svcStatusDruterDown 1).bump Fld.svcWdtRestarts with
    svc.restart := some (s.svc.ms, cause), svc.restarts := s.svc.restarts ++ [s.svc.ms], svc.beat := 0 }

theorem State.druterRestart_eq (cause : Nat) : s.druterRestart cause = (s.druterHalted cause).evcFlow := rfl

theorem State.druterRestart_leaves (cause : Nat) : (s.druterRestart cause).flag Fld.svcStatusDruterDown = true ∧
    (s.druterRestart cause).svc.restart = some (s.svc.ms, cause) ∧ (s.druterRestart cause).svc.beat = 0 := by
  have hedit := EvcEdit.evcFlow (s.druterHalted cause)
  rw [State.druterRestart_eq]
  refine ⟨?_, by rw [hedit.svc]; rfl, by rw [hedit.svc]; rfl⟩
  rw [State.flag, hedit.get _ (by decide), beq_iff_eq]
  change ((s.put Fld.svcStatusDruterDown 1).bump Fld.svcWdtRestarts).get Fld.svcStatusDruterDown = 1
  rw [State.get_bump_ne _ _ _ _ (by decide), State.get_put_same _ _ _ (by decide)]
  rfl

end
end Sys2Proof.Machine

/-! # The sill chain, BEAT and TEST_EN (R555, R561, R562, R588) -/

namespace Sys2Proof.Machine
open Sys2Proof

/-! ## ENUM (R561, R564) -/

section
variable {s : State}

/-- ENUM as a module passes it down when its own address is `a`. -/
def enumFrame (a : Nat) : Out := .sill false (sillFrame sillEnum 255 a (min 255 (a + 1)) [])

theorem State.enumDown_eq : s.enumDown = s.emit (enumFrame s.chainAddr) := rfl

/-- The module takes its address on the chain and tells the module below. -/
def State.readdressed (s : State) (v : Nat) : State := (s.put Fld.svcStatusChainAddr v).enumDown

theorem exec_sillEnum (v : Byte) : exec (.sillEnum v) s = .next (s.sillEnumIn v.toNat) := rfl

theorem State.sillEnumIn_off (v : Nat) (h : s.svc.power = 0) : s.sillEnumIn v = s.emit (.sill false (sillFrame sillEnum 255 255 v [])) :=
  if_pos (by simp [h])

theorem State.sillEnumIn_same {v : Nat} (h : s.svc.power ≠ 0) (hv : s.chainAddr = v) : s.sillEnumIn v = s.readdressed v :=
  (if_neg (by simpa using h)).trans (if_pos (by simpa using hv))

theorem State.sillEnumIn_changed {v : Nat} (h : s.svc.power ≠ 0) (hv : s.chainAddr ≠ v) : s.sillEnumIn v =
    ((((s.readdressed v).emit (.sill true (sillFrame sillChange 255 v 0 []))).keepAddr v).svcRaise 0x0D03 0 (s.chainAddr + v * 2 ^ 8) 0).evcFlow :=
  (if_neg (by simpa using h)).trans (if_neg (by simpa using hv))

theorem State.chainAddr_put {v : Nat} (hv : v < 256) : (s.put Fld.svcStatusChainAddr v).chainAddr = v := by
  rw [State.chainAddr, State.get_put_same _ _ _ (by decide)]
  exact Nat.mod_eq_of_lt hv

theorem State.readdressed_eq {v : Nat} (hv : v < 256) : s.readdressed v = (s.put Fld.svcStatusChainAddr v).emit (enumFrame v) := by
  rw [State.readdressed, State.enumDown_eq, State.chainAddr_put hv]

theorem StoreEdit.storeWrite (s : State) (w : SMap (List Byte)) : StoreEdit s (s.storeWrite w) :=
  (StoreEdit.svc s { s.svc with writes := s.svc.writes ++ [w] } rfl rfl rfl).trans (.storeReport _)

theorem StoreEdit.keepAddr (s : State) (a : Nat) : StoreEdit s (s.keepAddr a) := StoreEdit.storeWrite s _

theorem State.chainAddr_emit (o : Out) : (s.emit o).chainAddr = s.chainAddr := rfl

/-- A module that gets another address says so upwards, after it passed ENUM down. -/
theorem State.sillEnumIn_leaves {v : Nat} (h : s.svc.power ≠ 0) (hlt : v < 256) (hv : s.chainAddr ≠ v) : (s.sillEnumIn v).chainAddr = v ∧
    ∃ more, (s.sillEnumIn v).out = s.out ++ [enumFrame v, .sill true (sillFrame sillChange 255 v 0 [])] ++ more := by
  rw [State.sillEnumIn_changed h hv, State.readdressed_eq hlt]
  generalize hsaid : ((s.put Fld.svcStatusChainAddr v).emit (enumFrame v)).emit (.sill true (sillFrame sillChange 255 v 0 [])) = said
  have haddr : said.chainAddr = v := by
    rw [← hsaid, State.chainAddr_emit, State.chainAddr_emit, State.chainAddr_put hlt]
  have hout : said.out = s.out ++ [enumFrame v, .sill true (sillFrame sillChange 255 v 0 [])] := by
    rw [← hsaid, State.emit, State.emit, State.put_out, List.append_assoc, List.singleton_append]
  have hkeep := StoreEdit.keepAddr said v
  have hflow := (EvcEdit.svcRaise (said.keepAddr v) 0x0D03 0 (s.chainAddr + v * 2 ^ 8) 0).trans (.evcFlow _)
  constructor
  · exact (hflow.get _ (by decide)).trans ((hkeep.get _ (by decide)).trans haddr)
  · obtain ⟨more, hmore⟩ := hflow.out
    exact ⟨more, by rw [hmore, hkeep.out, hout]⟩

theorem exec_sillLinkChange : exec .sillLinkChange s = .next (if s.svc.power == 0 then s else s.enumDown) := rfl

/-! ## Frames (R561) -/

theorem exec_sillFrameForward (fromUp : Bool) (b : List Byte) (wedged : Bool) :
    exec (.sillFrameForward fromUp b wedged) s = .next (s.sillIn fromUp b wedged) := rfl

theorem State.sillIn_off (fromUp : Bool) (b : List Byte) (wedged : Bool) (h : s.svc.power = 0) :
    s.sillIn fromUp b wedged = s.emit (.sill (!fromUp) b) := if_pos (by simp [h])

theorem State.sillIn_bad (fromUp : Bool) {b : List Byte} (wedged : Bool) (h : s.svc.power ≠ 0) (hbad : sillGood b = false) :
    s.sillIn fromUp b wedged = s := (if_neg (by simpa using h)).trans (if_pos (by simp [hbad]))

theorem State.sillIn_up {b : List Byte} (wedged : Bool) (h : s.svc.power ≠ 0) (hgood : sillGood b = true)
    (htype : leAt b 0 1 = sillRsp ∨ leAt b 0 1 = sillBeat ∨ leAt b 0 1 = sillChange) : s.sillIn false b wedged = s.emit (.sill true b) := by
  rw [State.sillIn, if_neg (by simpa using h), if_neg (by simp [hgood])]
  refine (if_neg (by decide)).trans (if_pos ?_)
  rw [Bool.or_eq_true, Bool.or_eq_true, beq_iff_eq, beq_iff_eq, beq_iff_eq, or_assoc]
  exact htype

/-- A REQ frame for another module goes on. -/
theorem State.sillIn_passes {b : List Byte} (wedged : Bool) (h : s.svc.power ≠ 0) (hgood : sillGood b = true) (htype : leAt b 0 1 = sillReq)
    (hdst : leAt b 1 1 ≠ s.chainAddr) : s.sillIn true b wedged = s.emit (.sill false b) := by
  rw [State.sillIn, if_neg (by simpa using h), if_neg (by simp [hgood]), if_pos rfl]
  simp only [htype]
  rw [if_neg (by decide), if_neg (by decide), if_neg (by simp [hdst])]

/-- A REQ frame for this module is run. -/
theorem State.sillIn_takes {b : List Byte} {wedged : Bool} {op : Nat} {m : MgmtMsg} (h : s.svc.power ≠ 0) (hgood : sillGood b = true)
    (htype : leAt b 0 1 = sillReq) (hdst : leAt b 1 1 = s.chainAddr) (haddr : s.chainAddr ≠ 255)
    (hparse : parseMgmt ((b.drop 8).take (b.length - 12)) wedged = some (op, m)) : s.sillIn true b wedged = s.mgmtRun op m := by
  rw [State.sillIn, if_neg (by simpa using h), if_neg (by simp [hgood]), if_pos rfl]
  simp only [htype]
  rw [if_neg (by decide), if_neg (by decide), if_pos (by simp [hdst, haddr]), hparse]

/-! ## BEAT (R562) -/

/-- The frame of a BEAT goes up, and what was worst is forgotten. -/
def State.beaten (s : State) : State :=
  ({ s with svc.worst := 0 } : State).emit (.sill true (sillFrame sillBeat 255 s.chainAddr 0 s.beatBytes))

theorem exec_beat : exec .beat s = .next s.beat := rfl

theorem State.beat_silent (h : s.svc.power = 0 ∨ s.chainAddr = 255) : s.beat = s := if_pos (by simpa using h)

theorem State.beat_goes (h : s.svc.power ≠ 0) (haddr : s.chainAddr ≠ 255) :
    s.beat = if (s.mgmtPeer 0).isSome then s.beaten.emit (.beat s.beatBytes) else s.beaten := if_neg (by simp [h, haddr])

end

/-- Settles O57: each clause is its command's branch; what the event controller does afterwards touches neither the phase nor the chain address. -/
theorem serviceControllerWatches : Obligations.ServiceControllerWatches := by
  unfold Obligations.ServiceControllerWatches
  refine ⟨?off, ?waits, ?quiet, fun s => State.tickCheck_stands, fun s => State.tickCheck_runs, fun s hphase _ => State.tickCheck_lost hphase,
    fun s x => State.regionSample_fields x, ?beatNew, ?beatSame, ?restarts, ?halted, ?early, fun s cause => State.druterRestart_leaves cause,
    ?enumOff, ?enumSame, ?enumNew, ?link, ?linkOff, ?frameOff, ?frameBad, ?reqOn, ?reqOwn, ?rises, ?beatChain, ?beatPeer, ?beatNone,
    fun _ => rfl, fun _ => rfl⟩
  case off =>
    intro x s h
    rw [exec_telemetryPass, State.telemetryPass_off h]
  case waits =>
    intro x s h
    rw [exec_telemetryPass, State.telemetryPass_waits h]
    rfl
  case quiet =>
    intro x s h hregions hserves hhour hphase
    rw [exec_telemetryPass, State.telemetryPass_quiet h hregions hserves hhour hphase]
    rfl
  case beatNew =>
    intro req v s h hv
    rw [exec_svcBeatWrite h, if_pos (by simpa using hv)]
    rfl
  case beatSame =>
    intro req v s h hv
    rw [exec_svcBeatWrite h, if_neg (by simpa using hv)]
  case restarts =>
    intro s h hfew
    rw [exec_druterWatchdog, State.watchdog_due h, if_neg (by omega)]
  case halted =>
    intro s h hmany
    rw [exec_druterWatchdog, State.watchdog_due h, if_pos hmany]
  case early =>
    intro s h
    rw [exec_druterWatchdog, State.watchdog_early h]
  case enumOff =>
    intro v s h
    rw [exec_sillEnum, State.sillEnumIn_off _ h]
  case enumSame =>
    intro v s h hv
    rw [exec_sillEnum, State.sillEnumIn_same h hv]
    rfl
  case enumNew =>
    intro v s h hv
    exact ⟨_, exec_sillEnum v, State.sillEnumIn_leaves h v.isLt hv⟩
  case link =>
    intro s h
    rw [exec_sillLinkChange, if_neg (by simpa using h)]
    rfl
  case linkOff =>
    intro s h
    rw [exec_sillLinkChange, if_pos (by simpa using h)]
  case frameOff =>
    intro fromUp b wedged s h
    rw [exec_sillFrameForward, State.sillIn_off _ _ _ h]
  case frameBad =>
    intro fromUp b wedged s h hbad
    rw [exec_sillFrameForward, State.sillIn_bad _ _ h hbad]
  case reqOn =>
    intro b wedged s h hgood htype hdst
    rw [exec_sillFrameForward, State.sillIn_passes _ h hgood htype hdst]
  case reqOwn =>
    intro b wedged s op m h hgood htype hdst haddr hparse
    rw [exec_sillFrameForward, State.sillIn_takes h hgood htype hdst haddr hparse]
  case rises =>
    intro b wedged s h hgood htype
    rw [exec_sillFrameForward, State.sillIn_up _ h hgood htype]
  case beatChain =>
    intro s h haddr hpeer
    rw [exec_beat, State.beat_goes h haddr, if_neg (by simp [hpeer])]
    rfl
  case beatPeer =>
    intro s h haddr hpeer
    rw [exec_beat, State.beat_goes h haddr, if_pos (by simpa [Option.isSome_iff_ne_none] using hpeer)]
    rfl
  case beatNone =>
    intro s h
    rw [exec_beat, State.beat_silent h]

end Sys2Proof.Machine

/-! # Queues, signals and alarm lines of the event controller (R491 to R493, R495 to R497, R499 to R502) -/

namespace Sys2Proof.Machine
open Sys2Proof

section
variable {s : State}

theorem State.put_mod (f : Fld) (v : Nat) : s.put f (v % 2 ^ f.w) = s.put f v := by
  rw [State.put, State.put, setField_eq, setField_eq, Nat.mod_mod]

theorem State.put_congr {f : Fld} {v w : Nat} (h : v % 2 ^ f.w = w % 2 ^ f.w) : s.put f v = s.put f w := by
  rw [← State.put_mod, h, State.put_mod]

/-! ## GDIS (R492, R499) -/

theorem State.gdis_put (v : Nat) : (s.put Fld.evcCtrlGdis v).gdis = decide (v % 2 = 1) := by
  rw [State.gdis, State.flag, State.get_put_same _ _ _ (by decide)]
  rfl

/-- A queue when GDIS clears: it writes what it holds and is judged, or discards it where it is off. -/
def State.queueReopened (s : State) (q : Nat) : State :=
  if s.flag (Fld.evcQCtrlEn q) then (s.evcPump q).evcJudge q
  else (s.evq q).held.foldl (fun w e => w.evcDrop q e) (s.setEvq q { s.evq q with held := [] })

theorem State.gdisWrite_set {v : Nat} (h : v % 2 = 1) : s.gdisWrite v = s.put Fld.evcCtrlGdis 1 := by
  rw [State.gdisWrite, if_pos (by simp [State.gdis_put, h])]
  exact State.put_congr h

theorem State.gdisWrite_clear {v : Nat} (h : v % 2 = 0) :
    s.gdisWrite v = (allQueues.foldl State.queueReopened (s.put Fld.evcCtrlGdis 0)).evcFlow := by
  rw [State.gdisWrite, if_neg (by simp [State.gdis_put, h]), State.put_congr (w := 0) h]
  rfl

theorem exec_evcGdisWrite {req : Requester} {v : BitVec 32} (h : s.accepts req Reg.evcCtrl v.toNat = true) :
    exec (.evcGdisWrite req v) s = .next (s.gdisWrite v.toNat) := congrArg Host.Outcome.next (State.write_of_accepts h _)

/-! ## A queue is set up (R491, R493, R502) -/

/-- SEV_NOW, KIND and SIZE_LOG2 of a queue that is off, as a write of EVC_Qn_CTRL leaves them. -/
def State.queueShaped (s : State) (q w : Nat) : State :=
  ((s.put (Fld.evcQCtrlSevNow q) (field w 24 4)).put (Fld.evcQCtrlKind q) (bitAt w 30).toNat).put (Fld.evcQCtrlSizeLog2 q) (field w 16 4)

/-- An empty ring with EN set. -/
def State.queueEmptied (s : State) (q : Nat) : State :=
  (((s.put (Fld.evcQHeadIndex q) 0).put (Fld.evcQTailIndex q) 0).put (Fld.evcQStatFault q) 0).put (Fld.evcQCtrlEn q) 1

theorem bitAt_enableWord (v : BitVec 32) : bitAt (enableWord v) 31 = true := by
  rw [enableWord, bitAt, setBit, beq_iff_eq]
  exact (field_setField_same v.toNat 31 1 1).trans rfl

theorem State.ringFits_put {f : Fld} {q : Nat} (v : Nat) (kind : Bool) (n : Nat) (hf : f.addr = Reg.evcQCtrl q) :
    (s.put f v).ringFits q kind n = s.ringFits q kind n := by
  have hlow : (s.put f v).rd (Reg.evcQBase q) = s.rd (Reg.evcQBase q) :=
    State.rd_put_ne _ _ _ (by rw [hf]; simp [Reg.evcQBase, Reg.evcQCtrl])
  have hhigh : (s.put f v).rd (Reg.evcQBase q + 4) = s.rd (Reg.evcQBase q + 4) :=
    State.rd_put_ne _ _ _ (by rw [hf]; simp [Reg.evcQBase, Reg.evcQCtrl])
  rw [State.ringFits, State.ringFits, State.get64, State.get64, hlow, hhigh]

theorem State.ringFits_shaped (q w : Nat) (kind : Bool) (n : Nat) : (s.queueShaped q w).ringFits q kind n = s.ringFits q kind n :=
  (State.ringFits_put _ _ _ rfl).trans ((State.ringFits_put _ _ _ rfl).trans (State.ringFits_put _ _ _ rfl))

theorem State.evq_shaped (q w : Nat) : (s.queueShaped q w).evq q = s.evq q := by simp only [State.queueShaped, State.evq_put]

theorem State.evqCtrlWrite_off {q : Nat} (req : Requester) (v : BitVec 32) (hoff : s.flag (Fld.evcQCtrlEn q) = false) :
    s.evqCtrlWrite req q (enableWord v) =
      if s.ringFits q (bitAt (enableWord v) 30) (field (enableWord v) 16 4) then
        ((((s.queueShaped q (enableWord v)).queueEmptied q).setEvq q (s.evq q).restarted).evcPump q).evcFlow
      else (s.queueShaped q (enableWord v)).misuse req := by
  have hen : (s.put (Fld.evcQCtrlSevNow q) (field (enableWord v) 24 4)).flag (Fld.evcQCtrlEn q) = false := by
    rw [State.flag, State.get_put_beside _ _ _ _ (by simp [Fld.evcQCtrlSevNow]) (by simp [Fld.evcQCtrlSevNow, Fld.evcQCtrlEn])]
    exact hoff
  unfold State.evqCtrlWrite
  extract_lets kind size sev changed shaped
  rw [if_neg (by simpa [sev] using hen), if_neg (by simp [bitAt_enableWord])]
  change (if !(s.queueShaped q (enableWord v)).ringFits q kind size then (s.queueShaped q (enableWord v)).misuse req else
    ((((s.queueShaped q (enableWord v)).queueEmptied q).setEvq q ((s.queueShaped q (enableWord v)).evq q).restarted).evcPump q).evcFlow) = _
  rw [State.ringFits_shaped, State.evq_shaped]
  cases s.ringFits q kind size
  · rw [if_pos (by decide), if_neg (by decide)]
  · rw [if_neg (by decide), if_pos (by decide)]

theorem exec_evcQueueEnable {req : Requester} {q : QueueId} {v : BitVec 32} (h : s.accepts req (Reg.evcQCtrl q) (enableWord v) = true) :
    exec (.evcQueueEnable req q v) s = .next (s.evqCtrlWrite req q (enableWord v)) := congrArg Host.Outcome.next (State.write_of_accepts h _)

/-! ## HEAD (R491) -/

theorem exec_evcHeadWrite {req : Requester} {q : QueueId} {v : BitVec 32} (h : s.accepts req (Reg.evcQHead q) v.toNat = true) :
    exec (.evcHeadWrite req q v) s = .next (s.evqHeadWrite req q v.toNat) := congrArg Host.Outcome.next (State.write_of_accepts h _)

theorem State.evqHeadWrite_past {q v : Nat} (req : Requester) (hv : v < 2 ^ 16)
    (h : s.evqCount q < (s.get (Fld.evcQTailIndex q) + 0x10000 - v) % 0x10000) : s.evqHeadWrite req q v = s.misuse req := by
  rw [State.evqHeadWrite, Nat.mod_eq_of_lt (show v < 0x10000 from hv), if_pos h]

theorem State.evqHeadWrite_within {q v : Nat} (req : Requester) (hv : v < 2 ^ 16)
    (h : (s.get (Fld.evcQTailIndex q) + 0x10000 - v) % 0x10000 ≤ s.evqCount q) : s.evqHeadWrite req q v =
      (((s.setEvq q { s.evq q with ring := (s.evq q).ring.drop ((v + 0x10000 - s.get (Fld.evcQHeadIndex q)) % 0x10000) }).put
        (Fld.evcQHeadIndex q) v).evcPump q).evcFlow := by
  rw [State.evqHeadWrite, Nat.mod_eq_of_lt (show v < 0x10000 from hv), if_neg (by omega)]

/-! ## DONE and the timers (R495, R497) -/

theorem exec_evcDone {req : Requester} {q : QueueId} (h : s.accepts req (Reg.evcQDone q) 1 = true) :
    exec (.evcDone req q) s = .next (s.evqDone q) := congrArg Host.Outcome.next (State.write_of_accepts h _)

theorem State.evqDone_idle {q : Nat} (h : s.flag (Fld.evcQStatSignalled q) = false) :
    s.evqDone q = ((s.put (Fld.evcQStatSignalled q) 0).resample q).evcFlow := by
  rw [State.evqDone, h]
  rfl

/-- A queue whose signal has been taken: it counts anew, and is due where records are left. -/
def State.signalTaken (s : State) (q : Nat) : State :=
  s.setEvq q { s.evq q with count := 0, timer := none, due := decide (0 < s.evqCount q), ack := none }

theorem State.evqDone_signalled {q : Nat} (h : s.flag (Fld.evcQStatSignalled q) = true) :
    s.evqDone q = ((((s.put (Fld.evcQStatSignalled q) 0).resample q).signalTaken q).evcJudge q).evcFlow := by
  rw [State.evqDone, h]
  rfl

theorem exec_coalesceTimeout (q : QueueId) : exec (.coalesceTimeout q) s = .next (s.clocked (s.coalesce q)) := rfl
theorem exec_targetTimeout (q : QueueId) : exec (.targetTimeout q) s = .next (s.clocked (s.targetTimeout q)) := rfl

theorem State.coalesce_runs {q : Nat} (h : (s.evq q).timer = some 0) (hg : s.gdis = false) :
    s.coalesce q = ((s.setEvq q { s.evq q with timer := none, due := true }).evcJudge q).evcFlow := if_pos (by simp [h, hg])

theorem State.coalesce_waits {q : Nat} (h : (s.evq q).timer ≠ some 0 ∨ s.gdis = true) : s.coalesce q = s :=
  if_neg (by simp only [Bool.and_eq_true, beq_iff_eq, Bool.not_eq_true']; rintro ⟨ht, hg⟩; simp [ht, hg] at h)

theorem State.targetTimeout_runs {q : Nat} (h : (s.evq q).ack = some 0) (hs : s.flag (Fld.evcQStatSignalled q) = true) (hg : s.gdis = false) :
    s.targetTimeout q = (((s.evcRaise srcEvc 4 2 (q + s.get (Fld.evcQTgtLast q) * 2 ^ 8) (s.get (Fld.evcQTailIndex q))).bump
      (Fld.evcQRedeliverCount q)).evcSignal q).evcFlow := if_pos (by simp [h, hs, hg])

theorem State.targetTimeout_waits {q : Nat} (h : (s.evq q).ack ≠ some 0 ∨ s.flag (Fld.evcQStatSignalled q) = false ∨ s.gdis = true) :
    s.targetTimeout q = s :=
  if_neg (by simp only [Bool.and_eq_true, beq_iff_eq, Bool.not_eq_true']; rintro ⟨⟨ht, hs⟩, hg⟩; simp [ht, hs, hg] at h)

/-! ## Alarm lines (R500, R501) -/

theorem exec_alarm (a : Fin 8) (raw : Bool) (n : Fin 65536) : exec (.alarm a raw n) s = .next (s.clocked (s.alarm a raw n)) := rfl

theorem State.get_almRaw_beside {a : Nat} (raw : Bool) {g : Fld} (h : g.lo + g.w ≤ 31) : (s.almRaw a raw).get g = s.get g :=
  State.get_put_beside _ _ _ _ (by simp [Fld.evcAlmStatRaw]) (.inr h)

theorem State.get_almRaw_ne {a : Nat} (raw : Bool) {g : Fld} (h : g.addr ≠ Reg.evcAlmStat a) : (s.almRaw a raw).get g = s.get g :=
  State.get_put_ne _ _ _ _ h

theorem State.get_setEvc (x : Evc) (g : Fld) : ({ s with evc := x } : State).get g = s.get g := rfl

theorem State.get_almTake {a : Nat} (raw : Bool) {g : Fld} (h : g.addr ≠ Reg.evcAlmStat a) : (s.almTake a raw).get g = s.get g := by
  rw [State.almTake, State.get_put_ne _ _ _ _ h, State.get_setEvc, State.get_almRaw_ne raw h]

theorem State.alarm_unseen (a : Nat) (raw : Bool) : s.alarm a raw 0 = s := rfl

/-- The level shown is the one taken: a change that did not last is a glitch. -/
theorem State.alarm_steady {a n : Nat} {raw : Bool} (hn : n ≠ 0) (h : (raw != s.flag (Fld.evcAlmCfgPol a)) = s.flag (Fld.evcAlmStatTaken a)) :
    s.alarm a raw n = if SMap.getD s.evc.alarms a 0 = 0 then s.almRaw a raw
      else ({ s.almRaw a raw with evc.alarms := SMap.del s.evc.alarms a } : State).bump (Fld.evcAlmGlitchCount a) := by
  have htaken : (s.almRaw a raw).flag (Fld.evcAlmStatTaken a) = s.flag (Fld.evcAlmStatTaken a) := by
    rw [State.flag, State.get_almRaw_beside raw (by simp [Fld.evcAlmStatTaken])]
    rfl
  unfold State.alarm
  extract_lets active run rawed
  rw [if_neg (by simpa using hn), if_pos (by rw [beq_iff_eq]; exact h.trans htaken.symm)]
  simp only [beq_iff_eq]
  rfl

/-- Another level than the one taken, so far in too few clocks. -/
theorem State.alarm_rising {a n : Nat} {raw : Bool} (hn : n ≠ 0) (h : (raw != s.flag (Fld.evcAlmCfgPol a)) ≠ s.flag (Fld.evcAlmStatTaken a))
    (hrun : SMap.getD s.evc.alarms a 0 + n < max 1 (s.get (Fld.evcAlmCfgFilter a))) :
    s.alarm a raw n = { s.almRaw a raw with evc.alarms := SMap.put s.evc.alarms a (SMap.getD s.evc.alarms a 0 + n) } := by
  have htaken : (s.almRaw a raw).flag (Fld.evcAlmStatTaken a) = s.flag (Fld.evcAlmStatTaken a) := by
    rw [State.flag, State.get_almRaw_beside raw (by simp [Fld.evcAlmStatTaken])]
    rfl
  have hfilter : (s.almRaw a raw).get (Fld.evcAlmCfgFilter a) = s.get (Fld.evcAlmCfgFilter a) :=
    State.get_almRaw_ne raw (by simp [Fld.evcAlmCfgFilter, Reg.evcAlmCfg, Reg.evcAlmStat])
  unfold State.alarm
  extract_lets active run rawed
  rw [if_neg (by simpa using hn), if_neg (by rw [beq_iff_eq]; exact fun e => h (e.trans htaken)), if_pos (by rw [← hfilter] at hrun; exact hrun)]
  rfl

/-- The new level has lasted for FILTER clocks. -/
theorem State.alarm_taken {a n : Nat} {raw : Bool} (hn : n ≠ 0) (h : (raw != s.flag (Fld.evcAlmCfgPol a)) ≠ s.flag (Fld.evcAlmStatTaken a))
    (hrun : max 1 (s.get (Fld.evcAlmCfgFilter a)) ≤ SMap.getD s.evc.alarms a 0 + n) :
    s.alarm a raw n = if s.flag (Fld.evcAlmCfgEn a) = false then s.almTake a raw
      else if s.flag (Fld.evcAlmCfgMode a) = true then ((s.almTake a raw).levelRaise (srcAlarm a)).evcFlow
      else ((s.almTake a raw).evcRaise (srcAlarm a) 3 (min (s.get (Fld.evcAlmCfgSev a)) 4)
        (a + (raw != s.flag (Fld.evcAlmCfgPol a)).toNat * 2 ^ 8) (s.get (Fld.evcAlmGlitchCount a))).evcFlow := by
  have htaken : (s.almRaw a raw).flag (Fld.evcAlmStatTaken a) = s.flag (Fld.evcAlmStatTaken a) := by
    rw [State.flag, State.get_almRaw_beside raw (by simp [Fld.evcAlmStatTaken])]
    rfl
  have hfilter : (s.almRaw a raw).get (Fld.evcAlmCfgFilter a) = s.get (Fld.evcAlmCfgFilter a) :=
    State.get_almRaw_ne raw (by simp [Fld.evcAlmCfgFilter, Reg.evcAlmCfg, Reg.evcAlmStat])
  have hcfg : ∀ g : Fld, g.addr = Reg.evcAlmCfg a → (s.almTake a raw).get g = s.get g := fun g hg =>
    State.get_almTake raw (by rw [hg]; simp [Reg.evcAlmCfg, Reg.evcAlmStat])
  have hglitch : (s.almTake a raw).get (Fld.evcAlmGlitchCount a) = s.get (Fld.evcAlmGlitchCount a) :=
    State.get_almTake raw (by simp [Fld.evcAlmGlitchCount, Reg.evcAlmGlitch, Reg.evcAlmStat])
  rw [State.flag, State.flag, ← hcfg (Fld.evcAlmCfgEn a) rfl, ← hcfg (Fld.evcAlmCfgMode a) rfl, ← hcfg (Fld.evcAlmCfgSev a) rfl, ← hglitch]
  unfold State.alarm
  extract_lets active run rawed _ taken
  rw [if_neg (by simpa using hn), if_neg (by rw [beq_iff_eq]; exact fun e => h (e.trans htaken)), if_neg (by rw [← hfilter] at hrun; exact Nat.not_lt.2 hrun)]
  simp only [Bool.not_eq_true']
  rfl

/-! ## Signals (R495, R496) -/

theorem State.evcSignal_told {q t : Nat} (h : s.nextTarget q (s.get (Fld.evcQTgtLast q)) = some t) (ht : t ≤ 3) :
    s.evcSignal q = (((s.setEvq q ((s.evq q).told (s.get (Fld.evcQAckValue q)))).put (Fld.evcQStatSignalled q) 1).put
      (Fld.evcQTgtLast q) t).emit (.signal q t) := by
  unfold State.evcSignal
  have hlog : (t == 4) = false := beq_false_of_ne (by omega)
  have hsup : t < 5 := by omega
  simp only [h, hlog, hsup, EvcQ.told, usTicks, beq_iff_eq, Bool.false_eq_true, if_true, if_false]

theorem State.evcSignal_pending {q : Nat} (h : s.nextTarget q (s.get (Fld.evcQTgtLast q)) = none) :
    s.evcSignal q = (s.put (Fld.evcQStatSignalled q) 0).setEvq q { s.evq q with due := true, ack := none } := by
  unfold State.evcSignal
  rw [h]

theorem State.evcJudge_masked {q : Nat} (h : s.get (Fld.evcQTgtEn q) = 0) : s.evcJudge q = s := if_neg (by simp [h])

end

/-- Settles O53: each clause is a branch of its command, read at the fields that the branch has not yet changed. -/
theorem eventQueuesAndAlarms : Obligations.EventQueuesAndAlarms := by
  unfold Obligations.EventQueuesAndAlarms
  refine ⟨?gdisSet, ?gdisClear, ?enabled, ?refused, ?headPast, ?headWithin, ?doneIdle, ?doneSignalled, ?coalesces, ?coalesceWaits, ?timesOut, ?timeWaits,
    ?unseen, ?steady, ?rising, ?taken, fun s q t us hnext ht hus => hus ▸ State.evcSignal_told hnext ht, fun s q h => State.evcSignal_pending h,
    fun s q h => State.evcJudge_masked h⟩
  case gdisSet =>
    intro req v s h hv
    rw [exec_evcGdisWrite h, State.gdisWrite_set hv]
  case gdisClear =>
    intro req v s h hv
    rw [exec_evcGdisWrite h, State.gdisWrite_clear hv]
    rfl
  case enabled =>
    intro req q v s w h hoff hfits hw
    rw [exec_evcQueueEnable h, State.evqCtrlWrite_off req v hoff, if_pos hfits, hw]
    rfl
  case refused =>
    intro req q v s h hoff hfits
    rw [exec_evcQueueEnable h, State.evqCtrlWrite_off req v hoff, if_neg (by simp [hfits])]
    rfl
  case headPast =>
    intro req q v s h hv hpast
    rw [exec_evcHeadWrite h, State.evqHeadWrite_past req hv hpast]
  case headWithin =>
    intro req q v s n h hv hwithin hn
    rw [exec_evcHeadWrite h, State.evqHeadWrite_within req hv hwithin, hn]
  case doneIdle =>
    intro req q s h hidle
    rw [exec_evcDone h, State.evqDone_idle hidle]
  case doneSignalled =>
    intro req q s w h hsignalled hw
    rw [exec_evcDone h, State.evqDone_signalled hsignalled, hw]
    rfl
  case coalesces =>
    intro q s h hg
    rw [exec_coalesceTimeout, State.coalesce_runs h hg]
  case coalesceWaits =>
    intro q s h
    rw [exec_coalesceTimeout, State.coalesce_waits h, State.clocked_self]
  case timesOut =>
    intro q s h hs hg
    rw [exec_targetTimeout, State.targetTimeout_runs h hs hg]
  case timeWaits =>
    intro q s h
    rw [exec_targetTimeout, State.targetTimeout_waits h, State.clocked_self]
  case unseen =>
    intro a raw s
    rw [exec_alarm]
    exact congrArg _ ((congrArg _ (State.alarm_unseen a raw)).trans (State.clocked_self s))
  case steady =>
    intro a raw n s hn h
    rw [exec_alarm, State.alarm_steady (Fin.val_ne_of_ne hn) h]
  case rising =>
    intro a raw n s hn h hrun
    rw [exec_alarm, State.alarm_rising (Fin.val_ne_of_ne hn) h hrun]
  case taken =>
    intro a raw n s hn h hrun
    rw [exec_alarm, State.alarm_taken (Fin.val_ne_of_ne hn) h hrun]

end Sys2Proof.Machine

/-! # Commands of a context (R462 to R464, R466, R569) -/

namespace Sys2Proof.Machine
open Sys2Proof

section
variable {s : State}

theorem blockBase_ctx_ne_vbl (c i : Nat) : Reg.vblInc i ≠ Reg.ctxStatus c := by
  simp only [Reg.vblInc, Reg.ctxStatus, Block.base, blockBase]
  omega

/-! ## One command (R462) -/

/-- What a command does that may be given now. -/
def State.ctxDoes (s : State) (c cmd : Nat) (retain : Bool) : State :=
  match cmd with
  | 1 => s.ctxLoad c
  | 2 => s.ctxSeal c
  | 3 => s.ctxStart c
  | 4 => s.ctxDrain c retain
  | _ => s.ctxKill c retain

theorem State.ctxCmd_blocked {c : CtxId} {cmd : Nat} (retain : Bool) (hlow : 0 < cmd) (hhigh : cmd ≤ 5)
    (h : s.flag Fld.svcStatusDruterDown = true ∨ s.riseWaits c = true ∨ s.tearing c = true ∨ (s.flag (Fld.ctxStatusBusy c) = true ∧ cmd ≠ 5)) :
    s.ctxCmd c cmd retain = s.result c 3 := by
  refine (if_neg (by simpa using hlow.ne')).trans ((if_neg (by omega)).trans (if_pos ?_))
  simp only [Bool.or_eq_true, Bool.and_eq_true, bne_iff_ne, or_assoc]
  exact h

theorem CtxTakes.ctxCmd_eq {req : Requester} {c : CtxId} {cmd : Nat} {r retain : Bool} (h : CtxTakes s req c cmd r) (hlow : 0 < cmd) (hhigh : cmd ≤ 5) :
    s.ctxCmd c cmd retain = s.ctxDoes c cmd retain := by
  obtain ⟨-, hdruter, hsettled, hwhole, hfree⟩ := h
  have hclear : ¬(s.flag Fld.svcStatusDruterDown || s.riseWaits c || s.tearing c || (s.flag (Fld.ctxStatusBusy c) && cmd != 5)) = true := by
    rcases hfree with hfree | hfree <;> simp [hdruter, hsettled, hwhole, hfree]
  exact (if_neg (by simpa using hlow.ne')).trans ((if_neg (by omega)).trans (if_neg hclear))

/-- The write of CTX_CMD that each of the five commands is. -/
theorem exec_ctxCommand {req : Requester} {c : CtxId} {cmd : Nat} {retain : Bool} {i : Instr} (hi : (cmd, i) ∈ ctxCommands req c retain)
    (h : s.accepts req (Reg.ctxCmd c) (cmd + (retain && 4 ≤ cmd).toNat * 2 ^ 8) = true) :
    exec i s = .next (s.ctxCmd c cmd (retain && 4 ≤ cmd)) ∧ 0 < cmd ∧ cmd ≤ 5 := by
  simp only [ctxCommands, List.mem_cons, Prod.mk.injEq, List.not_mem_nil, or_false] at hi
  rcases hi with ⟨rfl, rfl⟩ | ⟨rfl, rfl⟩ | ⟨rfl, rfl⟩ | ⟨rfl, rfl⟩ | ⟨rfl, rfl⟩ <;>
    simp only [Nat.reduceLeDiff, decide_false, decide_true, Bool.and_false, Bool.and_true] at h ⊢ <;>
    exact ⟨congrArg Host.Outcome.next (State.write_of_accepts h _), by decide, by decide⟩

theorem CtxTakes.exec_eq {req : Requester} {c : CtxId} {cmd : Nat} {retain : Bool} {i : Instr} (h : CtxTakes s req c cmd (retain && 4 ≤ cmd))
    (hi : (cmd, i) ∈ ctxCommands req c retain) : exec i s = .next (s.ctxDoes c cmd (retain && 4 ≤ cmd)) := by
  obtain ⟨hexec, hlow, hhigh⟩ := exec_ctxCommand hi h.accepted
  rw [hexec, h.ctxCmd_eq hlow hhigh]

theorem CtxTakes.exec_load {req : Requester} {c : CtxId} (h : CtxTakes s req c 1 false) : exec (.ctxLoad req c) s = .next (s.ctxLoad c) :=
  CtxTakes.exec_eq (retain := false) h (by simp [ctxCommands])

theorem CtxTakes.exec_seal {req : Requester} {c : CtxId} (h : CtxTakes s req c 2 false) : exec (.ctxSeal req c) s = .next (s.ctxSeal c) :=
  CtxTakes.exec_eq (retain := false) h (by simp [ctxCommands])

theorem CtxTakes.exec_start {req : Requester} {c : CtxId} (h : CtxTakes s req c 3 false) : exec (.ctxStart req c) s = .next (s.ctxStart c) :=
  CtxTakes.exec_eq (retain := false) h (by simp [ctxCommands])

theorem CtxTakes.exec_drain {req : Requester} {c : CtxId} {retain : Bool} (h : CtxTakes s req c 4 retain) :
    exec (.ctxDrain req c retain) s = .next (s.ctxDrain c retain) := by
  have hi : (4, Instr.ctxDrain req c retain) ∈ ctxCommands req c retain := by simp [ctxCommands]
  have hexec := CtxTakes.exec_eq (cmd := 4) (retain := retain) (by simpa using h) hi
  simpa [State.ctxDoes] using hexec

theorem CtxTakes.exec_kill {req : Requester} {c : CtxId} {retain : Bool} (h : CtxTakes s req c 5 retain) :
    exec (.ctxKill req c retain) s = .next (s.ctxKill c retain) := by
  have hi : (5, Instr.ctxKill req c retain) ∈ ctxCommands req c retain := by simp [ctxCommands]
  have hexec := CtxTakes.exec_eq (cmd := 5) (retain := retain) (by simpa using h) hi
  simpa [State.ctxDoes] using hexec

/-! ## The commands in their states (R462, R463, R464, R466) -/

theorem State.riseHeld_result (c : CtxId) (r : Nat) : (s.result c r).riseHeld c = s.riseHeld c := by
  rw [State.riseHeld, State.riseHeld, State.result, State.rd_put_ne _ _ _ (blockBase_ctx_ne_vbl c c), State.put_rises]

theorem State.ctxLoad_enters {c : CtxId} (hidle : s.ctxState c = ctxIdle) (hok : s.loadOk c = true) (hheld : s.riseHeld c = false) :
    s.ctxLoad c = ((s.result c 0).enterLoading c).vblPump := by
  rw [State.ctxLoad, if_neg (by simp [hidle]), if_neg (by simp [hok])]
  refine if_neg ?_
  change ¬(s.result c 0).riseHeld c = true
  rw [State.riseHeld_result, hheld]
  decide

theorem State.ctxLoad_bad {c : CtxId} (hidle : s.ctxState c = ctxIdle) (hok : s.loadOk c = false) : s.ctxLoad c = s.result c 2 :=
  (if_neg (by simp [hidle])).trans (if_pos (by simp [hok]))

theorem State.ctxSeal_ready {c : CtxId} (hstate : s.ctxState c = ctxLoading) (hidle : s.lvrIdle c = true) :
    s.ctxSeal c = (s.result c 0).put (Fld.ctxStatusState c) ctxReady := (if_neg (by simp [hstate])).trans (if_neg (by simp [hidle]))

theorem State.ctxSeal_busy {c : CtxId} (hstate : s.ctxState c = ctxLoading) (hidle : s.lvrIdle c = false) : s.ctxSeal c = s.result c 3 :=
  (if_neg (by simp [hstate])).trans (if_pos (by simp [hidle]))

/-- A START of a READY context that has no start tick yet (R463). -/
theorem State.ctxStart_ready {c : CtxId} (hstate : s.ctxState c = ctxReady) (hnone : (s.ctx c).startAt = none) : s.ctxStart c =
    if s.get64 (Reg.ctxStartTick c) != 0 && s.get64 (Reg.ctxStartTick c) < s.tick + armLead then s.result c 4
    else (s.result c 0).setCtx c { s.ctx c with
      startAt := some (if s.get64 (Reg.ctxStartTick c) == 0 then s.tick + armLead else s.get64 (Reg.ctxStartTick c)) } :=
  if_neg (by simp [hstate, hnone])

theorem State.ctxStart_next {c : CtxId} (hstate : s.ctxState c = ctxReady) (hnone : (s.ctx c).startAt = none)
    (hzero : s.get64 (Reg.ctxStartTick c) = 0) :
    s.ctxStart c = (s.result c 0).setCtx c { s.ctx c with startAt := some (s.tick + 2048) } := by
  rw [State.ctxStart_ready hstate hnone, hzero]
  exact if_neg (by simp)

theorem State.ctxStart_named {c : CtxId} (hstate : s.ctxState c = ctxReady) (hnone : (s.ctx c).startAt = none)
    (hfar : s.tick + 2048 ≤ s.get64 (Reg.ctxStartTick c)) :
    s.ctxStart c = (s.result c 0).setCtx c { s.ctx c with startAt := some (s.get64 (Reg.ctxStartTick c)) } := by
  have hne : (s.get64 (Reg.ctxStartTick c) == 0) = false := beq_false_of_ne (by omega)
  rw [State.ctxStart_ready hstate hnone, hne, if_neg Bool.false_ne_true]
  refine if_neg ?_
  rw [Bool.and_eq_true, decide_eq_true_eq, not_and, armLead]
  omega

theorem State.ctxStart_close {c : CtxId} (hstate : s.ctxState c = ctxReady) (hnone : (s.ctx c).startAt = none)
    (hzero : s.get64 (Reg.ctxStartTick c) ≠ 0) (hnear : s.get64 (Reg.ctxStartTick c) < s.tick + 2048) : s.ctxStart c = s.result c 4 := by
  rw [State.ctxStart_ready hstate hnone]
  exact if_pos (by simp [armLead, hzero, hnear])

theorem State.ctxStart_again {c : CtxId} (h : s.ctxState c ≠ ctxReady ∨ (s.ctx c).startAt ≠ none) : s.ctxStart c = s.result c 1 :=
  if_pos (by simpa [Option.isSome_iff_ne_none] using h)

theorem State.ctxDrain_running {c : CtxId} (retain : Bool) (hstate : s.ctxState c = ctxRunning) : s.ctxDrain c retain =
    ((s.result c 0).put (Fld.ctxStatusState c) ctxDraining).setCtx c { s.ctx c with retain := retain } := if_neg (by simp [hstate])

theorem State.riseHeld_markStopped (c : CtxId) (d cause : Nat) : (s.markStopped d cause).riseHeld c = s.riseHeld c := rfl

theorem State.ctxKill_tears {c : CtxId} (retain : Bool) (hstate : s.ctxState c ≠ ctxIdle) (hheld : s.riseHeld c = false) :
    s.ctxKill c retain = ((s.result c 0).markStopped c 5).tearDown c retain := by
  rw [State.ctxKill, if_neg (by simpa using hstate)]
  refine if_neg ?_
  change ¬((s.result c 0).markStopped c 5).riseHeld c = true
  rw [State.riseHeld_markStopped, State.riseHeld_result, hheld]
  decide

/-- The state that a command starts from. -/
def fromState (cmd : Nat) : Nat := [ctxIdle, ctxLoading, ctxReady, ctxRunning].getD (cmd - 1) ctxIdle

/-- A command given in another state than its own. -/
theorem State.ctxDoes_elsewhere {c : CtxId} {cmd : Nat} (retain : Bool) (hlow : 0 < cmd) (hhigh : cmd ≤ 5)
    (h : if cmd = 5 then s.ctxState c = ctxIdle else s.ctxState c ≠ fromState cmd) : s.ctxDoes c cmd retain = s.result c 1 := by
  match cmd, hlow, hhigh, h with
  | 1, _, _, h => exact if_pos (bne_iff_ne.2 h)
  | 2, _, _, h => exact if_pos (bne_iff_ne.2 h)
  | 3, _, _, h => exact State.ctxStart_again (.inl h)
  | 4, _, _, h => exact if_pos (bne_iff_ne.2 h)
  | 5, _, _, h => exact if_pos (beq_iff_eq.2 h)

/-! ## The start tick and the drain (R463, R464) -/

theorem exec_ctxStartTick (c : CtxId) : exec (.ctxStartTick c) s = .next (s.clocked (s.startTick c)) := rfl

/-- The context as its start tick leaves it, before its tasks start. -/
def State.ctxRuns (s : State) (c : Nat) : State := (s.put (Fld.ctxStatusState c) ctxRunning).setCtx c { s.ctx c with startAt := none }

theorem State.startTick_runs {c : CtxId} {t : Nat} (hat : (s.ctx c).startAt = some t) (hstate : s.ctxState c = ctxReady) (hwaits : s.riseWaits c = false)
    (ht : t ≤ s.tick) : s.startTick c =
      (((s.ctx c).tasks.zipIdx.filter fun d => d.1.initial).foldl (fun s d => (s.ctlStart c d.2 d.1).1) (s.ctxRuns c)).thrUpdate c := by
  have htasks : ((s.ctxRuns c).ctx c).tasks = (s.ctx c).tasks := by rw [State.ctxRuns, State.ctx_setCtx]
  simp only [State.startTick, hat]
  rw [if_neg (by simp [hstate, hwaits, ht])]
  change ((((s.ctxRuns c).ctx c).tasks.zipIdx.filter fun d => d.1.initial).foldl (fun s d => (s.ctlStart c d.2 d.1).1) (s.ctxRuns c)).thrUpdate c = _
  rw [htasks]

theorem State.startTick_early {c : CtxId} {t : Nat} (hat : (s.ctx c).startAt = some t) (ht : s.tick < t) : s.startTick c = s := by
  simp only [State.startTick, hat]
  exact if_pos (by simp [ht])

theorem exec_drainComplete (c : CtxId) : exec (.drainComplete c) s =
    .next (s.clocked (if s.drainDone c then s.teardown c (s.ctx c).retain else s)) := rfl

end

/-- Settles O49: each clause is the command's branch for the state that it names. -/
theorem contextCommands : Obligations.ContextCommands := by
  unfold Obligations.ContextCommands
  refine ⟨?load, ?loadBad, ?seals, ?sealBusy, ?startNext, ?startNamed, ?startClose, ?startAgain, ?drain, ?kill, ?elsewhere, ?blocked, ?starts, ?early,
    ?drained, ?draining⟩
  case load =>
    intro req c s h hidle hok hheld
    rw [h.exec_load, State.ctxLoad_enters hidle hok hheld]
  case loadBad =>
    intro req c s h hidle hok
    rw [h.exec_load, State.ctxLoad_bad hidle hok]
  case seals =>
    intro req c s h hstate hidle
    rw [h.exec_seal, State.ctxSeal_ready hstate hidle]
  case sealBusy =>
    intro req c s h hstate hidle
    rw [h.exec_seal, State.ctxSeal_busy hstate hidle]
  case startNext =>
    intro req c s h hstate hnone hzero
    rw [h.exec_start, State.ctxStart_next hstate hnone hzero]
  case startNamed =>
    intro req c s h hstate hnone hfar
    rw [h.exec_start, State.ctxStart_named hstate hnone hfar]
  case startClose =>
    intro req c s h hstate hnone hzero hnear
    rw [h.exec_start, State.ctxStart_close hstate hnone hzero hnear]
  case startAgain =>
    intro req c s h _ hsome
    rw [h.exec_start, State.ctxStart_again (.inr hsome)]
  case drain =>
    intro req c retain s h hstate
    rw [h.exec_drain, State.ctxDrain_running retain hstate]
  case kill =>
    intro req c retain s h hstate hheld
    rw [h.exec_kill, State.ctxKill_tears retain hstate hheld]
  case elsewhere =>
    intro req c retain s cmd i from_ hi h hfrom hstate
    obtain ⟨-, hlow, hhigh⟩ := exec_ctxCommand hi h.accepted
    rw [hfrom] at hstate
    rw [h.exec_eq hi, State.ctxDoes_elsewhere _ hlow hhigh hstate]
  case blocked =>
    intro req c retain s cmd i hi haccepted h
    obtain ⟨hexec, hlow, hhigh⟩ := exec_ctxCommand hi haccepted
    rw [hexec, State.ctxCmd_blocked _ hlow hhigh h]
  case starts =>
    intro c s t hat hstate hwaits ht
    rw [exec_ctxStartTick, State.startTick_runs hat hstate hwaits ht]
    rfl
  case early =>
    intro c s t hat ht
    rw [exec_ctxStartTick, State.startTick_early hat ht, State.clocked_self]
  case drained =>
    intro c s h
    rw [exec_drainComplete, if_pos h]
  case draining =>
    intro c s h
    rw [exec_drainComplete, if_neg (by simp [h]), State.clocked_self]

end Sys2Proof.Machine

/-! # Zeroed memory (R456, R466) -/

namespace Sys2Proof.Machine
open Sys2Proof

/-- A byte that reads zero, in a sector without poison. -/
def Memory.ClearAt (m : Memory) (k : Nat) : Prop := m.byte k = 0#8 ∧ m.poisoned (k / 64) = false

section
variable {m : Memory} {k key n : Nat}

theorem Memory.byte_zero_in (h : key ≤ k) (hlt : k < key + n) : (m.zero key n).byte k = 0#8 := by
  rw [Memory.byte_zero, if_pos ⟨h, hlt⟩]
  rfl

theorem Memory.byte_zero_keeps (h : m.byte k = 0#8) : (m.zero key n).byte k = 0#8 := by
  rw [Memory.byte_zero, h]
  exact ite_self _

theorem Memory.poisoned_zero (q : Nat) : (m.zero key n).poisoned q = (m.poisoned q && (decide (q < key / 64) || decide ((key + n) / 64 ≤ q))) := by
  unfold Memory.poisoned Memory.zero
  rw [Bool.eq_iff_iff]
  simp only [List.contains_iff_mem, List.mem_filter, Bool.and_eq_true]

theorem Memory.ClearAt.zero (h : m.ClearAt k) (key n : Nat) : (m.zero key n).ClearAt k := by
  obtain ⟨hbyte, hpoison⟩ := h
  exact ⟨Memory.byte_zero_keeps hbyte, by rw [Memory.poisoned_zero, hpoison, Bool.false_and]⟩

theorem Memory.clearAt_zero (hkey : key % 64 = 0) (hn : n % 64 = 0) (h : key ≤ k) (hlt : k < key + n) : (m.zero key n).ClearAt k := by
  have hlow : ¬k / 64 < key / 64 := by omega
  have hhigh : ¬(key + n) / 64 ≤ k / 64 := by omega
  exact ⟨Memory.byte_zero_in h hlt, by rw [Memory.poisoned_zero]; simp [hlow, hhigh]⟩

theorem Memory.ClearAt.anyPoison (h : m.ClearAt k) : m.anyPoison k 1 = false := by
  simpa [Memory.anyPoison, sectorsOf] using h.2

/-- A range that is among those that are zeroed. -/
theorem Memory.clearAt_foldl {keyOf : Nat → Nat} {l : List Nat} {h : Nat} (hmem : h ∈ l) (hkey : keyOf h % 64 = 0) (hn : n % 64 = 0)
    (hk : keyOf h ≤ k) (hlt : k < keyOf h + n) : (l.foldl (fun (m : Memory) i => m.zero (keyOf i) n) m).ClearAt k := by
  obtain ⟨before, after, rfl⟩ := List.append_of_mem hmem
  rw [List.foldl_append, List.foldl_cons]
  exact List.foldlRecOn (motive := fun m => Memory.ClearAt m k) after _ (Memory.clearAt_zero hkey hn hk hlt) fun m hm i _ => hm.zero _ _

/-! ## A member's share (R456) -/

theorem Memory.byte_zeroShare_keeps {u : Member} {t1 : Bool} {off len : Nat} (h : m.byte k = 0#8) : (m.zeroShare u t1 off len).byte k = 0#8 :=
  Memory.byte_zero_keeps (Memory.byte_zero_keeps h)

/-- The T0 share of a member that lies at the start of its core's tier. -/
theorem Memory.byte_zeroShare {u : Member} (hsize : u.t0Bytes ≤ 2 ^ 26) (hbase : u.base0 = 0) (hk : k < u.t0Bytes) :
    (m.zeroShare u false 0 u.t0Bytes).byte (coreKey false u.core k) = 0#8 := by
  have hphys : u.phys false 0 = 0 := by simp [Member.phys, hbase]
  have hkey : coreKey false u.core k = coreKey false u.core 0 + k := by simp [coreKey]
  have hmin : min u.t0Bytes (2 ^ 26 - 0) = u.t0Bytes := by omega
  simp only [Memory.zeroShare, hphys, tierBytes, Bool.false_eq_true, if_false, hmin]
  exact Memory.byte_zero_keeps (Memory.byte_zero_in (by omega) (by omega))

theorem Memory.byte_zeroMember {u : Member} (hsize : u.t0Bytes ≤ 2 ^ 26) (hbase : u.base0 = 0) (hk : k < u.t0Bytes) :
    (m.zeroMember u).byte (coreKey false u.core k) = 0#8 :=
  List.foldlRecOn (motive := fun m : Memory => m.byte (coreKey false u.core k) = 0#8) u.areas _
    (Memory.byte_zeroShare_keeps (Memory.byte_zeroShare hsize hbase hk)) fun _ hm _ _ => Memory.byte_zeroShare_keeps hm

/-! ## The slices of a partition (R456) -/

theorem State.zeroSlices_clears {s : State} {p h : Nat} (hh : h < 16) (hk : stackKey (s.slotChan h) (4096 * s.sliceBase p h) ≤ k)
    (hlt : k < stackKey (s.slotChan h) (4096 * s.sliceBase p h) + 4096 * s.get (Fld.shtT2SizeTiles p)) : (s.zeroSlices p).mem.ClearAt k :=
  Memory.clearAt_foldl (keyOf := fun h => stackKey (s.slotChan h) (4096 * s.sliceBase p h)) (List.mem_range.2 hh)
    (by simp only [stackKey]; omega) (by omega) hk hlt

end
end Sys2Proof.Machine

/-! # Binding, teardown and partitions (R414, R453, R456, R462, R466, R467, R472, R477, R480) -/

namespace Sys2Proof.Machine
open Sys2Proof

/-! ## LOADING (R414, R462) -/

section
variable {s : State}

/-- The registers of a fresh context, before its incarnation rises. -/
def State.loadingRegs (s : State) (c : Nat) : State :=
  ((((s.put (Fld.ctxStatusState c) ctxLoading).put (Fld.ctxStatusBusy c) 1).put (Fld.ctxStatusBind c) 0).put (Fld.relCtxMismatchCount c) 0).put
    (Fld.relCtxUnresolvedCount c) 0

/-- And once it has risen. -/
def State.loadingRisen (s : State) (c : Nat) : State := ((s.loadingRegs c).raiseInc c).wr (Reg.ctxFault c) 0 |>.put (Fld.synThrGenGen c) 0

/-- What the binder holds for a fresh context: its T2, its privilege, and the draw of its samples. -/
def State.freshCtx (s : State) (c : Nat) : Context :=
  { Context.empty with t2Bytes := 16 * 4096 * s.get (Fld.shtT2SizeTiles (s.partOf c)), priv := s.flag (Fld.ctxOptPriv c), sampleDraw := s.draws }

theorem State.setDraws_rd (n a : Nat) : ({ s with draws := n } : State).rd a = s.rd a := rfl

theorem State.enterLoading_eq (c : Nat) : s.enterLoading c =
    ({ s.loadingRisen c with draws := (s.loadingRisen c).draws + 256 } : State).setCtx c ((s.loadingRisen c).freshCtx c) := rfl

theorem State.setCtx_rd (c : Nat) (x : Context) (a : Nat) : (s.setCtx c x).rd a = s.rd a := rfl

theorem State.enterLoading_rd (c a : Nat) : (s.enterLoading c).rd a = (s.loadingRisen c).rd a := by
  rw [State.enterLoading_eq, State.setCtx_rd, State.setDraws_rd]

theorem State.rd_raiseInc (c : Nat) : (s.raiseInc c).rd (Reg.vblInc c) =
    ((s.rd (Reg.vblInc c) % 2 ^ 16 + 1) % 2 ^ 16 + s.get Fld.vblBootBoot * 2 ^ 16) % 2 ^ 32 := by
  have hbreaks : ∀ (u : State) (x : Vbl), ({ u with vbl := x } : State).rd (Reg.vblInc c) = u.rd (Reg.vblInc c) := fun _ _ => rfl
  unfold State.raiseInc
  extract_lets n risen
  split
  · exact State.rd_wr_same ..
  · rw [hbreaks]
    exact State.rd_wr_same ..

theorem State.rd_raiseInc_ne {c a : Nat} (h : a ≠ Reg.vblInc c) : (s.raiseInc c).rd a = s.rd a := by
  have hbreaks : ∀ (u : State) (x : Vbl), ({ u with vbl := x } : State).rd a = u.rd a := fun _ _ => rfl
  unfold State.raiseInc
  extract_lets n risen
  split
  · exact State.rd_wr_ne _ _ h
  · rw [hbreaks]
    exact State.rd_wr_ne _ _ h

theorem State.raiseInc_mem (c : Nat) : (s.raiseInc c).mem = s.mem := by
  have hbreaks : ∀ (u : State) (x : Vbl), ({ u with vbl := x } : State).mem = u.mem := fun _ _ => rfl
  unfold State.raiseInc
  extract_lets n risen
  split
  · exact State.wr_mem ..
  · rw [hbreaks]
    exact State.wr_mem ..

theorem State.loadingRisen_mem (c : Nat) : (s.loadingRisen c).mem = s.mem := by
  rw [State.loadingRisen, State.put_mem, State.wr_mem, State.raiseInc_mem, State.loadingRegs, State.put_mem, State.put_mem, State.put_mem, State.put_mem,
    State.put_mem]

theorem State.enterLoading_mem (c : Nat) : (s.enterLoading c).mem = s.mem := by
  rw [State.enterLoading_eq, State.setCtx_mem]
  exact State.loadingRisen_mem c

theorem State.rd_loadingRegs_inc (c : CtxId) : (s.loadingRegs c).rd (Reg.vblInc c) = s.rd (Reg.vblInc c) := by
  have hc := c.isLt
  rw [State.loadingRegs, State.rd_put_ne, State.rd_put_ne, State.rd_put_ne, State.rd_put_ne, State.rd_put_ne] <;>
    simp only [Reg.vblInc, Fld.ctxStatusState, Fld.ctxStatusBusy, Fld.ctxStatusBind, Fld.relCtxMismatchCount, Fld.relCtxUnresolvedCount, Reg.ctxStatus,
      Reg.relCtxMismatch, Reg.relCtxUnresolved, Block.base, blockBase] <;> omega

theorem State.get_loadingRisen (c : CtxId) {f : Fld} (hf : f.addr = Reg.ctxStatus c) : (s.loadingRisen c).get f =
    (((s.put (Fld.ctxStatusState c) ctxLoading).put (Fld.ctxStatusBusy c) 1).put (Fld.ctxStatusBind c) 0).get f := by
  have hc := c.isLt
  have hgen : f.addr ≠ Reg.synThrGen c := by rw [hf]; simp only [Reg.ctxStatus, Reg.synThrGen, Block.base, blockBase]; omega
  have hfault : f.addr ≠ Reg.ctxFault c := by rw [hf]; simp [Reg.ctxStatus, Reg.ctxFault]
  have hinc : f.addr ≠ Reg.vblInc c := by rw [hf]; exact (blockBase_ctx_ne_vbl c c).symm
  have hmis : f.addr ≠ Reg.relCtxMismatch c := by rw [hf]; simp only [Reg.ctxStatus, Reg.relCtxMismatch, Block.base, blockBase]; omega
  have hunr : f.addr ≠ Reg.relCtxUnresolved c := by rw [hf]; simp only [Reg.ctxStatus, Reg.relCtxUnresolved, Block.base, blockBase]; omega
  rw [State.loadingRisen, State.get_put_ne _ _ _ _ hgen, State.get, State.rd_wr_ne _ _ hfault, State.rd_raiseInc_ne hinc, ← State.get, State.loadingRegs,
    State.get_put_ne _ _ _ _ hunr, State.get_put_ne _ _ _ _ hmis]

theorem State.enterLoading_get (c : Nat) (f : Fld) : (s.enterLoading c).get f = (s.loadingRisen c).get f := by
  rw [State.get, State.get, State.enterLoading_rd]

theorem State.enterLoading_state (c : CtxId) : (s.enterLoading c).get (Fld.ctxStatusState c) = ctxLoading := by
  rw [State.enterLoading_get, State.get_loadingRisen c rfl, State.get_put_beside, State.get_put_beside, State.get_put_same] <;>
    simp [Fld.ctxStatusState, Fld.ctxStatusBusy, Fld.ctxStatusBind, ctxLoading]

theorem State.enterLoading_busy (c : CtxId) : (s.enterLoading c).flag (Fld.ctxStatusBusy c) = true := by
  rw [State.flag, State.enterLoading_get, State.get_loadingRisen c rfl, State.get_put_beside, State.get_put_same] <;>
    simp [Fld.ctxStatusBusy, Fld.ctxStatusBind]

theorem State.enterLoading_fault (c : CtxId) : (s.enterLoading c).rd (Reg.ctxFault c) = 0 := by
  have hc := c.isLt
  have hgen : Reg.ctxFault c ≠ Reg.synThrGen c := by simp only [Reg.ctxFault, Reg.synThrGen, Block.base, blockBase]; omega
  rw [State.enterLoading_rd, State.loadingRisen, State.rd_put_ne _ _ _ hgen, State.rd_wr_same]
  rfl

theorem State.enterLoading_inc (c : CtxId) : (s.enterLoading c).rd (Reg.vblInc c) % 2 ^ 16 = (s.rd (Reg.vblInc c) + 1) % 2 ^ 16 := by
  have hc := c.isLt
  have hgen : Reg.vblInc c ≠ Reg.synThrGen c := by simp only [Reg.vblInc, Reg.synThrGen, Block.base, blockBase]; omega
  have hfault : Reg.vblInc c ≠ Reg.ctxFault c := by simp only [Reg.vblInc, Reg.ctxFault, Block.base, blockBase]; omega
  rw [State.enterLoading_rd, State.loadingRisen, State.rd_put_ne _ _ _ hgen, State.rd_wr_ne _ _ hfault, State.rd_raiseInc, State.rd_loadingRegs_inc]
  omega

theorem State.enterLoading_ctx (c : Nat) : (s.enterLoading c).ctx c = (s.loadingRisen c).freshCtx c := by
  rw [State.enterLoading_eq, State.ctx_setCtx]

/-! ## Binding (R389, R462, R472, R477) -/

theorem exec_bindingDone (c : CtxId) (img : Reply) (plan : BindPlan) : exec (.bindingDone c img plan) s = .next (s.clocked (s.bindDone c img plan)) := rfl

theorem State.bindDone_stale {c : Nat} (img : Reply) (plan : BindPlan) (h : s.ctxState c ≠ ctxLoading) : s.bindDone c img plan = s :=
  if_pos (by simp [h])

theorem Binds.judged {c : CtxId} (h : Binds s c) :
    ¬(s.ctxState c != ctxLoading || !s.flag (Fld.ctxStatusBusy c) || (s.ctx c).bound || s.riseWaits c) = true := by
  obtain ⟨hloading, hbusy, hunbound, hsettled⟩ := h
  simp [hloading, hbusy, hunbound, hsettled]

theorem Binds.bindDone_refused {c : CtxId} {img : Reply} {plan : BindPlan} {x : State} {i : Reply} {r : Nat} (h : Binds s c)
    (hread : s.readImage c img = (x, i)) (hr : bindResult i x.ownCoords x.torus = r + 1) : s.bindDone c img plan = x.bindRefused c (r + 1) := by
  rw [State.bindDone, if_neg h.judged, hread]
  dsimp only
  rw [hr]
  cases i <;> rfl

/-- A context bound to its units, with the handles that it has had. -/
def State.boundTo (s : State) (c : Nat) (b : List Byte) (us : List ImgUnit) (here : List Nat) (plan : BindPlan) : State :=
  { s.setCtx c (s.bindCtx c b us here plan) with oldHandles := SMap.put s.oldHandles c (SMap.getD s.oldHandles c [] ++ plan.handles) }

/-- Its code, its registers and its places. -/
def State.bindFinished (s : State) (c : Nat) (b : List Byte) (here : List Nat) (plan : BindPlan) : State :=
  ((((s.bindBytes c b here plan).bindRegs c b here plan).saveTake (s.ctx c).members).put (Fld.ctxStatusBusy c) 0).vblPump

theorem Binds.bindDone_bound {c : CtxId} {img : Reply} {plan : BindPlan} {x : State} {b : List Byte} {us : List ImgUnit} {here : List Nat} (h : Binds s c)
    (hread : s.readImage c img = (x, .ok b)) (hr : bindResult (.ok b) x.ownCoords x.torus = 0) (hunits : imgUnits b = some us)
    (hhere : here = leavesHere b us x.ownCoords x.torus) (hfits : plan.fits = true) (hslice : imgT2Slice b ≤ x.get (Fld.shtT2SizeTiles (x.partOf c)))
    (hshares : x.sharesBad c (imgShares b) = false) (hdup : x.dupBad c (bindMembers b here plan) = false) (hplan : x.planOk c b us here plan = true) :
    s.bindDone c img plan = (x.boundTo c b us here plan).bindFinished c b here plan := by
  subst hhere
  rw [State.bindDone, if_neg h.judged, hread]
  dsimp only
  rw [hr]
  simp only [hunits]
  rw [if_neg (by simp [hfits, hslice, hshares, hdup]), if_neg (by simp [hplan])]
  rfl

/-- The context is IDLE again, with the reason in BIND. -/
theorem State.bindRefused_leaves (c : CtxId) {r : Nat} (hr : r < 16) : (s.bindRefused c r).get (Fld.ctxStatusState c) = ctxIdle ∧
    (s.bindRefused c r).flag (Fld.ctxStatusBusy c) = false ∧ (s.bindRefused c r).get (Fld.ctxStatusBind c) = r ∧
    SMap.get? (s.bindRefused c r).ctxs c = none ∧ (s.bindRefused c r).mem = s.mem := by
  have hctxs : ∀ (u : State) (l : SMap Context) (f : Fld), ({ u with ctxs := l } : State).get f = u.get f := fun _ _ _ => rfl
  have hget : ∀ f : Fld, (s.bindRefused c r).get f =
      (((s.put (Fld.ctxStatusState c) ctxIdle).put (Fld.ctxStatusBusy c) 0).put (Fld.ctxStatusBind c) r).get f := fun f => hctxs _ _ f
  have hmem : ∀ (u : State) (l : SMap Context), ({ u with ctxs := l } : State).mem = u.mem := fun _ _ => rfl
  refine ⟨?_, ?_, ?_, ?_, ?_⟩
  · rw [hget, State.get_put_beside, State.get_put_beside, State.get_put_same] <;>
      simp [Fld.ctxStatusState, Fld.ctxStatusBusy, Fld.ctxStatusBind, ctxIdle]
  · rw [State.flag, hget, State.get_put_beside, State.get_put_same] <;> simp [Fld.ctxStatusBusy, Fld.ctxStatusBind]
  · rw [hget, State.get_put_same _ _ _ (by simp [Fld.ctxStatusBind])]
    exact Nat.mod_eq_of_lt (Nat.lt_trans hr (by simp [Fld.ctxStatusBind]))
  · exact (SMap.get?_del ..).trans (if_pos rfl)
  · rw [State.bindRefused, hmem, State.put_mem, State.put_mem, State.put_mem]

/-! ### The image (R389, R470) -/

theorem State.addReq_ctrl (c : Nat) (use : ReqFor) (pt cls job addr opnd : Nat) (data : List Byte) :
    (s.addReq c use pt cls job addr opnd data).ctrl = s.ctrl := rfl

theorem State.flushBatches_ctrl : s.flushBatches.ctrl = s.ctrl := foldl_view (fun _ _ => State.addReq_ctrl ..) _ _

theorem State.closeFor_ctrl (c d : Nat) : (s.closeFor c d).ctrl = s.ctrl := State.flushBatches_ctrl

theorem State.closeFor_ownNode (c d : Nat) : (s.closeFor c d).ownNode = s.ownNode := by
  rw [State.ownNode, State.ownNode, State.get, State.get, State.rd_eq_of_ctrl (State.closeFor_ctrl c d)]

/-- The number of bytes that an answer to the read of the image has. -/
def replySize : Reply → Nat
  | .ok b => b.length
  | .poisoned b => b.length
  | .status _ => 0

theorem State.readImage_far {c : Nat} {img : Reply} (h : s.get64 (Reg.ctxImage c) / 2 ^ 44 ≠ s.ownNode) :
    s.readImage c img = s.readGlobal c (s.get64 (Reg.ctxImage c)) (replySize img) img := by
  cases img <;> exact if_pos (bne_iff_ne.2 h)

theorem State.readGlobal_cut {c g n : Nat} (reply : Reply) (hfar : g / 2 ^ 44 ≠ s.ownNode) (h : (s.closeFor c (g / 2 ^ 44)).hasPath (g / 2 ^ 44) = false) :
    (s.readGlobal c g n reply).2 = .status vUnreach := by
  rw [State.readGlobal, State.closeFor_ownNode, if_neg (by simpa using hfar), h, if_neg Bool.false_ne_true]

theorem State.readGlobal_goes {c g n : Nat} (reply : Reply) (hfar : g / 2 ^ 44 ≠ s.ownNode) (h : (s.closeFor c (g / 2 ^ 44)).hasPath (g / 2 ^ 44) = true) :
    s.readGlobal c g n reply = ((s.closeFor c (g / 2 ^ 44)).emit (.fetch ((s.closeFor c (g / 2 ^ 44)).jobOf c) g n), reply) := by
  rw [State.readGlobal, State.closeFor_ownNode, if_neg (by simpa using hfar), if_pos h]

/-! ## Teardown (R466) -/

theorem State.tearTick_ends {c : Nat} {t : Tear} (h : (s.ctx c).tear = some t) (hend : t.endIn = 0) :
    s.tearTick c = (if t.zeroIn = some 0 then s.zeroGrants c else s).tearEnd c t.retain := by
  simp only [State.tearTick, h, hend, beq_iff_eq]
  rfl

end
end Sys2Proof.Machine

/-! # T2 sizes, partition resets and zeroing (R453, R456, R467, R480) -/

namespace Sys2Proof.Machine
open Sys2Proof

section
variable {s : State}

/-! ## SHT_T2_SIZE (R452, R453) -/

theorem exec_shtT2SizeWrite {req : Requester} {p : PartId} {v : BitVec 32} (h : s.accepts req (Reg.shtT2Size p) v.toNat = true) :
    exec (.shtT2SizeWrite req p v) s = .next (s.t2SizeWrite p v.toNat) := congrArg Host.Outcome.next (State.write_of_accepts h _)

theorem State.t2SizeWrite_busy {p : Nat} (v : Nat) (h : s.partBusy p = true) : s.t2SizeWrite p v = s.shtRefuse p 6 := if_pos h

theorem State.t2SizeWrite_active {p : Nat} (v : Nat) (hbusy : s.partBusy p = false) (h : s.partActive p = true) : s.t2SizeWrite p v = s.shtRefuse p 2 :=
  (if_neg (by simp [hbusy])).trans (if_pos h)

/-- The effect of a T2 size that is taken: from 0, the slices are zeroed. -/
def State.t2Sized (s : State) (p n : Nat) : State :=
  if s.get (Fld.shtT2SizeTiles p) == 0 && n != 0 then (s.put (Fld.shtT2SizeTiles p) n).put (Fld.shtStatusZeroing p) 1
  else s.put (Fld.shtT2SizeTiles p) n

theorem Sizes.t2SizeWrite_eq {req : Requester} {p : PartId} {v : BitVec 32} (h : Sizes s req p v) : s.t2SizeWrite p v.toNat =
    if s.slicesBad p (v.toNat % 2 ^ 25) then s.shtRefuse p 3 else s.t2Sized p (v.toNat % 2 ^ 25) := by
  obtain ⟨-, hbusy, hactive⟩ := h
  rw [← field_low, State.t2SizeWrite]
  generalize field v.toNat 0 25 = n
  rw [State.shtWrite, if_neg (by simp [hbusy]), if_neg (by simp [hactive])]
  cases s.slicesBad p n
  · rw [if_neg Bool.false_ne_true, if_neg (by decide), if_neg Bool.false_ne_true]
    rfl
  · rw [if_pos rfl, if_pos (by decide), if_pos rfl]

theorem shtT2Size_ne_status (p : Nat) : Reg.shtT2Size p ≠ Reg.shtStatus p := by simp [Reg.shtT2Size, Reg.shtStatus]

theorem State.t2Sized_tiles (p n : Nat) : (s.t2Sized p n).get (Fld.shtT2SizeTiles p) = n % 2 ^ 25 := by
  have hsize : ∀ m, (s.put (Fld.shtT2SizeTiles p) m).get (Fld.shtT2SizeTiles p) = m % 2 ^ 25 := fun m =>
    State.get_put_same _ _ _ (by simp [Fld.shtT2SizeTiles])
  unfold State.t2Sized
  split
  · rw [State.get_put_ne _ _ _ _ (shtT2Size_ne_status p), hsize]
  · exact hsize n

theorem State.t2Sized_zeroes {p n : Nat} (h : s.get (Fld.shtT2SizeTiles p) = 0) (hn : n ≠ 0) : (s.t2Sized p n).flag (Fld.shtStatusZeroing p) = true := by
  rw [State.t2Sized, if_pos (by simp [h, hn]), State.flag, State.get_put_same _ _ _ (by simp [Fld.shtStatusZeroing])]
  rfl

theorem State.t2Sized_mem (p n : Nat) : (s.t2Sized p n).mem = s.mem := by
  unfold State.t2Sized
  split
  · rw [State.put_mem, State.put_mem]
  · rw [State.put_mem]

/-! ## RESET of a partition (R467, R480) -/

theorem exec_shtReset {req : Requester} {p : PartId} (h : s.accepts req (Reg.shtCtrl p) 1 = true) : exec (.shtReset req p) s = .next (s.partReset p) :=
  congrArg Host.Outcome.next (State.write_of_accepts h _)

/-- With no context left the reset clears RETAINED, and the slices are zeroed. -/
theorem State.resetGoes_zeroes {p : Nat} (hnone : s.ctxsOf p = []) (hresetting : s.flag (Fld.shtStatusResetting p) = true)
    (hdone : s.resets.contains p = false) (htiles : s.get (Fld.shtT2SizeTiles p) ≠ 0) :
    s.resetGoes p = (s.put (Fld.shtStatusRetained p) 0).put (Fld.shtStatusZeroing p) 1 := by
  have htiles' : (s.put (Fld.shtStatusRetained p) 0).get (Fld.shtT2SizeTiles p) ≠ 0 := by
    rw [State.get_put_ne _ _ _ _ (shtT2Size_ne_status p)]
    exact htiles
  have hactive : s.partActive p = false := by rw [State.partActive, hnone, List.any_nil]
  rw [State.resetGoes, hdone, Bool.false_and, if_neg Bool.false_ne_true]
  dsimp only
  rw [hnone, hresetting, hdone, hactive, if_neg (by simp), if_pos (by simpa using htiles')]

/-! ## T2_ZEROING_DONE (R456, R480) -/

theorem exec_t2ZeroingDone (p : PartId) : exec (.t2ZeroingDone p) s = .next (s.clocked (s.zeroingDone p)) := rfl

theorem State.zeroSlices_get (p : Nat) (f : Fld) : (s.zeroSlices p).get f = s.get f := rfl

/-- The slices are zeroed, and the partition says so. -/
def State.zeroed (s : State) (p : Nat) : State := (s.zeroSlices p).put (Fld.shtStatusZeroing p) 0

theorem State.zeroed_resetting (p : Nat) : (s.zeroed p).flag (Fld.shtStatusResetting p) = s.flag (Fld.shtStatusResetting p) := by
  rw [State.zeroed, State.flag, State.get_put_beside _ _ _ _ (by simp [Fld.shtStatusZeroing]) (by simp [Fld.shtStatusZeroing, Fld.shtStatusResetting]),
    State.zeroSlices_get]
  rfl

theorem State.zeroingDone_idle {p : Nat} (h : s.flag (Fld.shtStatusZeroing p) = false) : s.zeroingDone p = s := if_pos (by simp [h])

theorem State.zeroingDone_ends {p : Nat} (h : s.flag (Fld.shtStatusZeroing p) = true) (hreset : s.flag (Fld.shtStatusResetting p) = false) :
    s.zeroingDone p = s.zeroed p := by
  refine (if_neg (by simp [h])).trans (if_neg ?_)
  change ¬(s.zeroed p).flag (Fld.shtStatusResetting p) = true
  rw [State.zeroed_resetting, hreset]
  decide

theorem State.zeroingDone_resets {p : Nat} (h : s.flag (Fld.shtStatusZeroing p) = true) (hreset : s.flag (Fld.shtStatusResetting p) = true) :
    s.zeroingDone p = ((s.zeroed p).put (Fld.shtStatusResetting p) 0).raise srcCtx 0x0A02 0 0xFF p p (16 * s.get (Fld.shtT2SizeTiles p)) := by
  have htiles : (s.zeroed p).get (Fld.shtT2SizeTiles p) = s.get (Fld.shtT2SizeTiles p) := by
    rw [State.zeroed, State.get_put_ne _ _ _ _ (shtT2Size_ne_status p), State.zeroSlices_get]
  refine (if_neg (by simp [h])).trans ((if_pos ?_).trans ?_)
  · change (s.zeroed p).flag (Fld.shtStatusResetting p) = true
    rw [State.zeroed_resetting, hreset]
  · rw [← htiles]
    rfl

end

/-- Settles O50: the registers a LOAD writes are read back one by one; a binding follows its branches; zeroing is kept by what is zeroed after. -/
theorem bindingTeardownAndPartitions : Obligations.BindingTeardownAndPartitions := by
  unfold Obligations.BindingTeardownAndPartitions
  refine ⟨?loads, ?refused, fun x c r hr => State.bindRefused_leaves c hr, ?image, ?bound, ?stale, fun s c t h hend => State.tearTick_ends h hend,
    fun m u k _ hsize hbase hk => Memory.byte_zeroMember hsize hbase hk, ?sized, ?slices, ?notIdle, ?resetRuns, ?resetBegins,
    fun p s hnone hresetting hdone htiles => State.resetGoes_zeroes hnone hresetting hdone htiles, ?zeroed, ?zeroedReset, ?idle, ?cleared⟩
  case loads =>
    intro s c
    refine ⟨State.enterLoading_state c, State.enterLoading_busy c, State.enterLoading_fault c, State.enterLoading_inc c, ?_, ?_, State.enterLoading_mem c⟩
    · rw [State.enterLoading_ctx]
      rfl
    · rw [State.enterLoading_ctx]
      rfl
  case refused =>
    intro c img plan s x i r h hread hr
    rw [exec_bindingDone, h.bindDone_refused hread hr]
  case image =>
    intro s c img g hg hfar
    subst hg
    refine ⟨fun hcut => ?_, fun b himg hpath _ => ?_⟩
    · rw [State.readImage_far hfar, State.readGlobal_cut img hfar hcut]
    · rw [himg, State.readImage_far hfar, State.readGlobal_goes _ hfar hpath]
      rfl
  case bound =>
    intro c img plan s x b us here w h hread hr hunits hhere hfits hslice hshares hdup hplan hw
    rw [exec_bindingDone, h.bindDone_bound hread hr hunits hhere hfits hslice hshares hdup hplan, hw]
    rfl
  case stale =>
    intro c img plan s h
    rw [exec_bindingDone, State.bindDone_stale img plan h, State.clocked_self]
  case sized =>
    intro req p v s h hslices
    refine ⟨_, exec_shtT2SizeWrite h.accepted, ?_⟩
    rw [h.t2SizeWrite_eq, hslices, if_neg Bool.false_ne_true]
    exact ⟨(State.t2Sized_tiles ..).trans (Nat.mod_mod ..), fun hold hnew => State.t2Sized_zeroes hold hnew, State.t2Sized_mem ..⟩
  case slices =>
    intro req p v s h hslices
    rw [exec_shtT2SizeWrite h.accepted, h.t2SizeWrite_eq, if_pos hslices]
    rfl
  case notIdle =>
    intro req p v s h
    rw [exec_shtT2SizeWrite h]
    refine ⟨fun hbusy => ?_, fun hbusy hactive => ?_⟩
    · rw [State.t2SizeWrite_busy _ hbusy]
      rfl
    · rw [State.t2SizeWrite_active _ hbusy hactive]
      rfl
  case resetRuns =>
    intro req p s h hresetting
    rw [exec_shtReset h, State.partReset, if_pos hresetting]
  case resetBegins =>
    intro req p s h hresetting
    rw [exec_shtReset h, State.partReset, if_neg (by simp [hresetting])]
  case zeroed =>
    intro p s h hreset
    rw [exec_t2ZeroingDone, State.zeroingDone_ends h hreset]
    rfl
  case zeroedReset =>
    intro p s h hreset
    rw [exec_t2ZeroingDone, State.zeroingDone_resets h hreset]
    rfl
  case idle =>
    intro p s h
    rw [exec_t2ZeroingDone, State.zeroingDone_idle h, State.clocked_self]
  case cleared =>
    intro s p h k hh hk hlt
    have hclear := State.zeroSlices_clears hh hk hlt
    exact ⟨hclear.1, hclear.anyPoison⟩

end Sys2Proof.Machine

/-! # Collectives: their markers, and how they end (R427, R437, R441 to R444) -/

namespace Sys2Proof.Machine
open Sys2Proof

/-! ## A marker while the clocks stand still (R340, R437) -/

/-- A READY whose collective number no running collective and no context has. -/
def strayReady : RxMsg := ⟨1, 0, 0, ptColl, 1, 0, 0, 0, collBlock 0 0 3 0, []⟩

/-- A module as reset leaves it, its root PLL without lock, with the stray READY first in its inbox. -/
def strayState : State := { State.reset with vbl.inbox := [strayReady] }

/-- Refutes O47: its clause for a stray READY that no context of the module owns does not ask for PLL_LOCK, while the wafer's clocks stand
still without it: at `strayState` the command leaves the message in the inbox. -/
theorem not_collectiveStepsRun : ¬ Obligations.CollectiveStepsRun := by
  unfold Obligations.CollectiveStepsRun
  intro h
  obtain ⟨-, -, -, -, -, hstray, -⟩ := h
  have hnext := hstray strayState strayReady { strayState with vbl.inbox := [] } rfl (by decide) (by decide) rfl rfl
  have hstill : exec .collReadyReceive strayState = .next strayState := rfl
  have hinbox : strayState.vbl.inbox = [] := by
    rw [hstill] at hnext
    injection hnext with hstate
    exact congrArg (fun u : State => u.vbl.inbox) hstate
  exact absurd hinbox (by decide)

/-! ## The task of a collective that ends (R441, R444) -/

section
variable {s : State}

theorem State.task?_modTask {core slot : Nat} {t : Task} (h : s.task? core slot = some t) (f : Task → Task) :
    (s.modTask core slot f).task? core slot = some (f t) := by rw [State.modTask_of s h, State.task?_setTask]

theorem State.modTask_coll (core slot : Nat) (f : Task → Task) : (s.modTask core slot f).coll = s.coll := by
  unfold State.modTask
  split
  · exact State.setTask_coll ..
  · rfl

theorem State.modTask_ctrl (core slot : Nat) (f : Task → Task) : (s.modTask core slot f).ctrl = s.ctrl := by
  unfold State.modTask
  split
  · exact State.setTask_ctrl ..
  · rfl

theorem State.get_of_ctrl {u : State} (h : u.ctrl = s.ctrl) (f : Fld) : u.get f = s.get f := by
  rw [State.get, State.get, State.rd_eq_of_ctrl h]

/-- A task whose collective instruction retires with a word in s63 (R440, R444). -/
def Task.collRetired (t : Task) (word w63 : Nat) : Task :=
  let r := field word 42 5
  let t := (t.setDesc r (setField (t.desc r) 288 32 0) (t.descPoison r)).setReg 63 (BitVec.ofNat 64 w63) false
  { t with state := if t.state == .waiting then .ready else t.state, wait := none
           pc := t.pc + BitVec.ofNat 44 (if wordExt word then 16 else 8), retired := t.retired + 1 }

theorem State.collRetire_eq (core slot word w63 : Nat) : s.collRetire core slot word w63 = s.modTask core slot fun t => t.collRetired word w63 := by
  simp only [State.collRetire, State.putProgress, State.putS63, State.advance, State.noteRetire, State.modTask_modTask]
  rfl

theorem Task.collRetired_reg (t : Task) (word w63 : Nat) : (t.collRetired word w63).reg 63 = BitVec.ofNat 64 w63 :=
  SMap.getD_putD_same ..

/-- The collective's waiting task, once its wait is counted: at most its count of ticks and the start of its wait have changed (R439). -/
theorem State.collWaited_edit {core slot : Nat} {t : Task} (h : s.task? core slot = some t) :
    (∃ v, (s.collWaited core slot).task? core slot = some v ∧ v.retired = t.retired) ∧ (s.collWaited core slot).coll = s.coll ∧
      ∀ f : Fld, f.addr ≠ Reg.colWaitTicks t.ctx → f.addr ≠ Reg.colWaitTicks t.ctx + 4 → (s.collWaited core slot).get f = s.get f := by
  have htask : (s.wrap64 (Reg.colWaitTicks t.ctx) (s.tick - t.waitStart)).task? core slot = some t := by
    rw [State.task?, State.wrap64_tasks]
    exact h
  unfold State.collWaited
  simp only [h]
  split
  · exact ⟨⟨t, h, rfl⟩, rfl, fun _ _ _ => rfl⟩
  · refine ⟨⟨_, State.task?_modTask htask _, rfl⟩, (State.modTask_coll ..).trans (State.put64_coll ..), fun f hlow hhigh => ?_⟩
    rw [State.get_of_ctrl (State.modTask_ctrl ..), State.get, State.get, State.wrap64, State.rd_put64_ne _ _ hlow hhigh]

/-! ## The collective that ends (R441, R448) -/

/-- The collective has left, its ABORT goes to its neighbours, and its number has passed. -/
def State.collLeft (s : State) (i : Coll) (reason node : Nat) : State :=
  { s.setCtx i.ctx { s.ctx i.ctx with
      collSeqs := SMap.put (s.ctx i.ctx).collSeqs i.seqKey ((SMap.getD (s.ctx i.ctx).collSeqs i.seqKey 0 + 1) % 4096) } with
    coll.insts := s.coll.insts.filter fun k => !(k.job == i.job && k.num == i.num)
    coll.out := s.coll.out ++ i.nbrs.map fun (n : Nat × Nat) => (n.2, i.abortMsg reason node)
    coll.ends := s.coll.ends + 1 }

theorem State.collLeft_insts (i : Coll) (reason node : Nat) :
    (s.collLeft i reason node).coll.insts = s.coll.insts.filter fun k => !(k.job == i.job && k.num == i.num) := rfl

theorem State.collLeft_ends (i : Coll) (reason node : Nat) : (s.collLeft i reason node).coll.ends = s.coll.ends + 1 := rfl

theorem State.get_collLeft (i : Coll) (reason node : Nat) (f : Fld) : (s.collLeft i reason node).get f = s.get f := State.get_of_ctrl rfl f

theorem State.raiseCtx_coll (src code sev c w2 w3 : Nat) : (s.raiseCtx src code sev c w2 w3).coll = s.coll := by
  obtain ⟨r, l, h⟩ := s.raiseCtx_eq src code sev c w2 w3
  rw [h]

/-- An ended collective leaves, and is counted as an abort with its reason. -/
theorem State.collEnd_edit (i : Coll) {reason : Nat} (node : Nat) (hreason : reason < 2 ^ 8) :
    (s.collEnd i reason node).coll.insts = s.coll.insts.filter (fun k => !(k.job == i.job && k.num == i.num)) ∧
    (s.collEnd i reason node).coll.ends = s.coll.ends + 1 ∧
    (s.collEnd i reason node).get (Fld.colAbortsCount i.ctx) = min (s.get (Fld.colAbortsCount i.ctx) + 1) (2 ^ 32 - 1) ∧
    (s.collEnd i reason node).get (Fld.colStatusLastReason i.ctx) = reason := by
  have hbumped : s.collEnd i reason node = ((((s.collLeft i reason node).put (Fld.colStatusLastStatus i.ctx) 2).put (Fld.colStatusLastReason i.ctx)
      reason).bump (Fld.colAbortsCount i.ctx)).raiseCtx srcColl 0x0901 2 i.ctx (i.num + reason * 2 ^ 32 + i.step * 2 ^ 40) node := rfl
  have hcoll : (s.collEnd i reason node).coll = (s.collLeft i reason node).coll := by
    rw [hbumped, State.raiseCtx_coll, State.bump_coll, State.put_coll, State.put_coll]
  refine ⟨by rw [hcoll, State.collLeft_insts], by rw [hcoll, State.collLeft_ends], ?_, ?_⟩
  · rw [hbumped, State.get_raiseCtx, State.get_bump _ _ _ (by simp [Fld.colAbortsCount]), State.get_put_ne, State.get_put_ne, State.get_collLeft] <;>
      simp [Fld.colAbortsCount, Fld.colStatusLastReason, Fld.colStatusLastStatus, Reg.colAborts, Reg.colStatus]
  · rw [hbumped, State.get_raiseCtx, State.get_bump_ne _ _ _ _ (by simp [Fld.colAbortsCount, Fld.colStatusLastReason, Reg.colAborts, Reg.colStatus]),
      State.get_put_same _ _ _ (by simp [Fld.colStatusLastReason])]
    exact Nat.mod_eq_of_lt hreason

theorem Task.setDesc_retired (t : Task) (i v : Nat) (poisoned : Bool) : (t.setDesc i v poisoned).retired = t.retired := rfl

theorem Task.setReg_retired (t : Task) (i : Nat) (v : Word64) (poisoned : Bool) : (t.setReg i v poisoned).retired = t.retired := rfl

theorem Task.collRetired_retired (t : Task) (word w63 : Nat) : (t.collRetired word w63).retired = t.retired + 1 := by
  simp only [Task.collRetired, Task.setReg_retired, Task.setDesc_retired]

theorem Task.collRetired_wait (t : Task) (word w63 : Nat) : (t.collRetired word w63).wait = none := rfl

/-- The task of a collective is a task of its context. -/
theorem State.collTask_ctx {i : Coll} {core slot : Nat} {t : Task} (h : s.collTask i = some (core, slot, t)) : t.ctx = i.ctx := by
  unfold State.collTask at h
  obtain ⟨p, hp, he⟩ := Option.map_eq_some_iff.1 h
  have hfound := List.find?_some hp
  simp only [Prod.mk.injEq] at he
  obtain ⟨-, -, rfl⟩ := he
  simp only [Bool.and_eq_true, beq_iff_eq] at hfound
  exact hfound.1.1.1

theorem collWord_aborted (reason own : Nat) : collWord 2 reason own 0 = 2 + reason * 2 ^ 8 + own % 2 ^ 24 * 2 ^ 16 := by
  rw [collWord, Nat.zero_min, Nat.zero_mul, Nat.add_zero]

theorem State.collAbort_eq {i : Coll} {reason node core slot : Nat} {t : Task} (h : s.collTask i = some (core, slot, t)) :
    s.collAbort i reason node =
      ((s.collWaited core slot).collEnd i reason node).modTask core slot fun t => t.collRetired i.word.toNat (collWord 2 reason i.dropped 0) := by
  rw [← State.collRetire_eq]
  simp only [State.collAbort, h]

theorem State.collAbort_leaves {i : Coll} {reason node core slot : Nat} {t : Task} (h : s.collTask i = some (core, slot, t))
    (ht : s.task? core slot = some t) (hreason : reason < 2 ^ 8) :
    (∀ k, k ∈ (s.collAbort i reason node).coll.insts → ¬(k.job = i.job ∧ k.num = i.num)) ∧
    (s.collAbort i reason node).coll.ends = s.coll.ends + 1 ∧
    (s.collAbort i reason node).get (Fld.colAbortsCount i.ctx) = min (s.get (Fld.colAbortsCount i.ctx) + 1) (2 ^ 32 - 1) ∧
    (s.collAbort i reason node).get (Fld.colStatusLastReason i.ctx) = reason ∧
    ∃ v, (s.collAbort i reason node).task? core slot = some v ∧ v.retired = t.retired + 1 ∧ v.wait = none ∧
      v.reg 63 = BitVec.ofNat 64 (2 + reason * 2 ^ 8 + i.dropped % 2 ^ 24 * 2 ^ 16) := by
  obtain ⟨⟨v, hv, hretired⟩, hcoll, hget⟩ := State.collWaited_edit ht
  obtain ⟨hinsts, hends, haborts, hlast⟩ := (s.collWaited core slot).collEnd_edit i node hreason
  have htask : ((s.collWaited core slot).collEnd i reason node).task? core slot = some v := by
    rw [State.task?, State.collEnd_tasks]
    exact hv
  have hctx := State.collTask_ctx h
  rw [State.collAbort_eq h, State.modTask_coll, State.get_of_ctrl (State.modTask_ctrl ..), State.get_of_ctrl (State.modTask_ctrl ..)]
  refine ⟨fun k hk => ?_, ?_, ?_, hlast, _, State.task?_modTask htask _, ?_, Task.collRetired_wait .., ?_⟩
  · rw [hinsts, List.mem_filter] at hk
    have hkept := hk.2
    rintro ⟨hjob, hnum⟩
    simp [hjob, hnum] at hkept
  · rw [hends, hcoll]
  · rw [haborts, hget] <;> simp [hctx, Fld.colAbortsCount, Reg.colAborts, Reg.colWaitTicks]
  · rw [Task.collRetired_retired, hretired]
  · rw [Task.collRetired_reg, collWord_aborted]

end
end Sys2Proof.Machine

/-! # ABORTs, timeouts and resends of collectives (R437, R441 to R443) -/

namespace Sys2Proof.Machine
open Sys2Proof

section
variable {s w : State} {m : RxMsg} {i : Coll} {dir : Nat}

/-! ## ABORT (R437, R441) -/

theorem exec_collAbortReceive : exec .collAbortReceive s = .next (s.clocked s.collAbortIn) := rfl

/-- An ABORT that stands first in the inbox. -/
theorem State.takeMark_abort (h : collIn s m w) (hdim : m.collDim = 3) (hkind : m.collStep = 2) : s.takeMark (fun k => k == 2) = some (m, w) := by
  unfold State.takeMark
  rw [show s.takeMsg ptColl = some (m, w) from h]
  exact if_pos (by simp [hdim, hkind])

theorem State.collAbortIn_ends (h : collIn s m w) (hdim : m.collDim = 3) (hkind : m.collStep = 2) (hof : collOf w m i dir) :
    s.collAbortIn = (w.collAbort i (leAt m.data 0 1) (leAt m.data 4 4 % 2 ^ 20)).vblPump := by
  unfold State.collAbortIn
  rw [State.takeMark_abort h hdim hkind]
  dsimp only
  rw [show w.collFor m = some (i, dir) from hof]

/-- The ABORT of a number that is still to come is kept. -/
def State.collKeep (s : State) (k : KeptAbort) : State := { s with coll.kept := s.coll.kept ++ [k] }

theorem State.collAbortIn_kept {c : Nat} (h : collIn s m w) (hdim : m.collDim = 3) (hkind : m.collStep = 2) (hfor : w.collFor m = none)
    (hctx : w.collCtx m = some c) (hnew : (w.coll.kept.any fun k => k.job == m.job && k.num == m.collNum) = false)
    (hahead : w.collAhead c m.collNum = true) (hroom : w.coll.kept.length < 64) :
    s.collAbortIn = w.collKeep ⟨m.job, m.collNum, leAt m.data 0 1, leAt m.data 4 4 % 2 ^ 20⟩ := by
  unfold State.collAbortIn
  rw [State.takeMark_abort h hdim hkind]
  dsimp only
  rw [hfor]
  dsimp only
  rw [hctx]
  dsimp only
  rw [hnew, if_neg Bool.false_ne_true, if_pos (by simp [hahead, hroom])]
  rfl

/-! ## TIMEOUT_S (R442) -/

theorem exec_collTimeout (c : CtxId) (num : BitVec 32) : exec (.collTimeout c num) s = .next (s.clocked (s.collTimeout c num.toNat)) := rfl

theorem State.ownNode_raiseCtx (src code sev c w2 w3 : Nat) : (s.raiseCtx src code sev c w2 w3).ownNode = s.ownNode := State.get_raiseCtx ..

theorem State.collTimeout_ends {c num : Nat} (hfound : (s.coll.insts.find? fun i => i.ctx == c && i.num == num && i.endedAs.isNone) = some i)
    (hlate : i.progress + i.timeoutS * 250000000 ≤ s.tick) : s.collTimeout c num =
      ((s.raiseCtx srcColl 0x0900 3 c (num + i.step % 2 ^ 16 * 2 ^ 32) i.progress).collAbort i 1 s.ownNode).vblPump := by
  unfold State.collTimeout
  rw [hfound]
  dsimp only
  rw [if_neg (by rw [ticksPerSecond]; omega), State.ownNode_raiseCtx]

theorem State.collTimeout_runs {c num : Nat} (hfound : (s.coll.insts.find? fun i => i.ctx == c && i.num == num && i.endedAs.isNone) = some i)
    (hearly : s.tick < i.progress + i.timeoutS * 250000000) : s.collTimeout c num = s := by
  unfold State.collTimeout
  rw [hfound]
  exact if_pos hearly

/-! ## Data that came back (R443) -/

theorem exec_collStepResend : exec .collStepResend s = .next (s.clocked s.collResend) := rfl

/-- What a failed connection handed back, from another list. -/
def State.setBack (s : State) (l : List (Nat × Bool × Msg)) : State := { s with coll.back := l }

variable {node : Nat} {path : Bool} {msg : Msg} {rest : List (Nat × Bool × Msg)}

theorem State.collResend_lost (hback : s.coll.back = (node, path, msg) :: rest)
    (hfound : (s.coll.insts.find? fun i => i.launched && i.endedAs.isNone && i.same msg) = some i)
    (hnbr : (i.nbrs.find? fun n => n.2 == node) = some (dir, node)) (h : path = false ∨ i.resent.contains dir = true) :
    s.collResend = ((s.setBack rest).collAbort i 5 (s.setBack rest).ownNode).vblPump := by
  unfold State.collResend
  rw [hback]
  dsimp only
  rw [hfound]
  dsimp only
  rw [hnbr]
  dsimp only
  rw [if_pos (by simpa using h)]
  rfl

/-- The collective with a direction marked as sent again. -/
def Coll.resends (i : Coll) (dir : Nat) : Coll := { i with resent := i.resent ++ [dir] }

/-- The collective's data of a direction goes out again, whole. -/
def State.collAgainOut (s : State) (i : Coll) (dir : Nat) : State :=
  (s.collPost (((s.collSends (i.resends dir)).filter fun p => p.1 == dir).flatMap fun p => (i.resends dir).dataMsgs p.1 p.2)).setColl (i.resends dir)

theorem State.collResend_again (hback : s.coll.back = (node, true, msg) :: rest)
    (hfound : (s.coll.insts.find? fun i => i.launched && i.endedAs.isNone && i.same msg) = some i)
    (hnbr : (i.nbrs.find? fun n => n.2 == node) = some (dir, node)) (hfirst : i.resent.contains dir = false) (hconn : s.txConn node = none) :
    s.collResend =
      ((s.setBack (rest.filter fun (b : Nat × Bool × Msg) => !(b.1 == node && i.same b.2.2))).collAgainOut i dir).vblPump := by
  have hconn' : ∀ l, (s.setBack l).txConn node = none := fun _ => hconn
  unfold State.collResend
  rw [hback]
  dsimp only
  rw [hfound]
  dsimp only
  rw [hnbr]
  dsimp only
  rw [if_neg (by rw [hfirst]; decide)]
  have hnone := hconn' (rest.filter fun (b : Nat × Bool × Msg) => !(b.1 == node && i.same b.2.2))
  unfold State.setBack at hnone
  dsimp only at hnone
  rw [hnone]
  rfl

theorem State.collResend_none (hback : s.coll.back = []) : s.collResend = s := by
  unfold State.collResend
  rw [hback]

end

/-- Settles O48: each command's branch; the last clause follows the ended collective and its task through every write of `collAbort`. -/
theorem collectivesEndOnce : Obligations.CollectivesEndOnce := by
  unfold Obligations.CollectivesEndOnce
  refine ⟨?aborts, ?keeps, ?timeouts, ?lost, ?again, ?none, fun s i reason node core slot t htask ht hreason _ => State.collAbort_leaves htask ht hreason⟩
  case aborts =>
    intro s m w i dir h hdim hkind hof
    rw [exec_collAbortReceive, State.collAbortIn_ends h hdim hkind hof]
  case keeps =>
    intro s m w c h hdim hkind hfor hctx hnew hahead hroom
    rw [exec_collAbortReceive, State.collAbortIn_kept h hdim hkind hfor hctx hnew hahead hroom]
    rfl
  case timeouts =>
    intro c num s i hfound
    refine ⟨fun hlate => ?_, fun hearly => ?_⟩
    · rw [exec_collTimeout, State.collTimeout_ends hfound hlate]
    · rw [exec_collTimeout, State.collTimeout_runs hfound hearly, State.clocked_self]
  case lost =>
    intro s node path m rest i dir w hback hw hfound hnbr h
    rw [exec_collStepResend, State.collResend_lost hback hfound hnbr h, hw]
    rfl
  case again =>
    intro s node m rest i dir w hback hw hfound hnbr hfirst hconn
    rw [exec_collStepResend, State.collResend_again hback hfound hnbr hfirst hconn, hw]
    rfl
  case none =>
    intro s hback
    rw [exec_collStepResend, State.collResend_none hback, State.clocked_self]

end Sys2Proof.Machine

/-! # Requests of the fabric instructions (R390, R391, R405 to R408, R410, R415, R418) -/

namespace Sys2Proof.Machine
open Sys2Proof

/-! ## How the instructions end (R76, R391) -/

section
variable {i : Issue} {s : State} {t : Task} {sp : OpSpec} {body : Cx → State → Chk Next}

/-- An instruction whose body leaves its task at it. -/
theorem issue_stay {u : State} (h : Executes sp i s t) (hb : body (cxOf i sp.op t) (s.turn i) = .ok (.stay u))
    (hp : poisonLeaves (s.turn i) (.stay u) = false) : issue sp body i s = .next (u.noteIssue i.core i.slot) := by
  rw [issue_body h body hb nofun, State.conclude_stay _ hp]
  rfl

/-- An instruction with an unresolved hazard leaves its slot held back. -/
theorem issue_hold (h : Executes sp i s t) (hb : body (cxOf i sp.op t) (s.turn i) = .error .hold) :
    issue sp body i s = .next (s.markHeld i.core i.slot) := by
  have hfront := frontEnd_none h (s.dropFirst i.core i.slot) rfl
  have hbetween := h.between
  have hturn := h.turn
  unfold State.turn cxOf at hb
  unfold cxOf at hfront
  unfold issue issueWord issueRaw
  rw [h.task]
  simp only [hbetween, hturn, hfront, hb, Option.isSome_none, Bool.not_true, Bool.or_self, Bool.false_eq_true, if_false, Option.getD_none]

theorem State.flag_turn (f : Fld) : (s.turn i).flag f = s.flag f := rfl

/-- Which destinations are near follows from the control registers alone (R404). -/
theorem State.near_of_ctrl {u : State} (h : u.ctrl = s.ctrl) (d : Nat) : u.near d = s.near d := by
  have hrd : u.rd = s.rd := funext fun a => State.rd_eq_of_ctrl h a
  have hentry : u.entryOf d = s.entryOf d := by unfold State.entryOf; rw [hrd]
  have hports (e : Nat) : u.entryPorts e = s.entryPorts e := by unfold State.entryPorts; rw [hrd]
  unfold State.near State.coords State.torus State.ownCoords State.flag State.get
  rw [hentry, hrd]
  simp only [hports]

theorem State.far_turn (d : Nat) : (s.turn i).far d = s.far d := by
  rw [State.far, State.far, State.near_of_ctrl (s := s) (u := s.turn i) rfl d]

theorem State.staged?_turn (core c a : Nat) : (s.turn i).staged? core c a = s.staged? core c a := rfl

/-! ## RLD, ATOM and leases (R390, R391, R410, R415) -/

theorem exec_rld : exec (.rld i) s = issue rldSpec rldBody i s := rfl
theorem exec_atom : exec (.atom i) s = issue atomSpec atomBody i s := rfl
theorem exec_leaseAcq : exec (.leaseAcq i) s = issue leaseAcqSpec leaseAcqBody i s := rfl
theorem exec_leaseRel : exec (.leaseRel i) s = issue leaseRelSpec leaseRelBody i s := rfl
theorem exec_rst : exec (.rst i) s = issue rstSpec rstBody i s := rfl
theorem exec_doorbell : exec (.doorbell i) s = issue doorbellSpec doorbellBody i s := rfl
theorem exec_inv : exec (.inv i) s = issue invSpec invBody i s := rfl

/-- The line of the read cache that an RLD reads, from its address on. -/
def rldLine (i : Issue) (t : Task) : Nat := lineKey (gaddr i t) + gaddr i t % 4096

theorem rldBody_hit (op : Nat) {y : Staged} (hal : gaddr i t % 8 = 0) (hclean : t.regPoison (qRegA i) = false)
    (hold : s.older i.core i.slot = false) (hcache : s.flag (Fld.vblCtxCtrlCache t.ctx) = true)
    (hit : s.staged? i.core t.ctx (lineKey (gaddr i t)) = some y) : rldBody (cxOf i op t) (s.turn i) =
      .ok (.retire (((s.turn i).useStaged i.core i.slot t.ctx [(lineKey (gaddr i t), false)]).modTask i.core i.slot
        (withStatus (qRegD i) (ofLe ((s.turn i).pageRead i.core t.ctx (rldLine i t) 8))
          (if (s.turn i).pagePoison i.core t.ctx (rldLine i t) 8 then vPoisoned else vOk)
          ((s.turn i).pagePoison i.core t.ctx (rldLine i t) 8)))) := by
  unfold rldLine gaddr at *
  simp only [rldBody, cxOf_s, cxOf_sa, cxOf_sd, cxOf_c, cxOf_core, cxOf_slot, State.older_turn, State.flag_turn, State.staged?_turn,
    Cx.clean_ok (x := cxOf i op t) 1 hclean, hold, hal, hcache, hit, beq_self_eq_true, Bool.not_false, need_true, chk_bind_ok, if_true]

/-- An RLD that misses reads the line, or its 8 bytes. -/
theorem rldBody_miss (op : Nat) (hal : gaddr i t % 8 = 0) (hclean : t.regPoison (qRegA i) = false) (hold : s.older i.core i.slot = false)
    (hmiss : s.flag (Fld.vblCtxCtrlCache t.ctx) = true → s.staged? i.core t.ctx (lineKey (gaddr i t)) = none) :
    rldBody (cxOf i op t) (s.turn i) =
      if s.flag (Fld.vblCtxCtrlCache t.ctx) || s.far (gaddr i t / 2 ^ 44) then
        .ok (.stay ((s.turn i).lineRead i.core i.slot t.ctx (qRegD i) (gaddr i t)).vblPump)
      else .ok (.stay (((fabricAt i s t).asking i t (.load i.core i.slot (qRegD i)) 1 8 8 []).hold i.core i.slot
        (fabricAt i s t).vbl.nextNum).vblPump) := by
  have hnone : (if s.flag (Fld.vblCtxCtrlCache t.ctx) = true then s.staged? i.core t.ctx (lineKey (gaddr i t)) else none) = none := by
    split
    · next hcache => exact hmiss hcache
    · rfl
  unfold gaddr at hal hnone
  simp only [rldBody, cxOf_s, cxOf_sa, cxOf_sd, cxOf_c, cxOf_core, cxOf_slot, State.older_turn, State.flag_turn, State.far_turn, State.staged?_turn,
    Cx.clean_ok (x := cxOf i op t) 1 hclean, hold, hal, hnone, beq_self_eq_true, Bool.not_false, need_true, chk_bind_ok]
  rfl

theorem atomBody_asks (op : Nat) (hal : gaddr i t % (if qFuncOf i = 0 ∨ qFuncOf i = 2 then 4 else 8) = 0)
    (hclean : t.regPoison (qRegA i) = false) (hopnd : t.regPoison (qRegB i) = false) (hcmp : qFuncOf i = 4 → t.regPoison (qRegD i) = false)
    (hold : s.older i.core i.slot = false) : atomBody (cxOf i op t) (s.turn i) =
      .ok (.stay (((fabricAt i s t).asking i t (.atom i.core i.slot (qRegD i) (qFuncOf i)) 3 16 (t.reg (qRegB i)).toNat
        (leBytes 8 (qFuncOf i) ++ leBytes 8 (if qFuncOf i = 4 then (t.reg (qRegD i)).toNat else 0))).hold i.core i.slot
          (fabricAt i s t).vbl.nextNum).vblPump) := by
  unfold gaddr at hal
  have hdst (k : Chk Next) (h : qFuncOf i = 4) : ((cxOf i op t).clean 8 (qRegD i) >>= fun _ => k) = k := by
    rw [Cx.clean_ok 8 (hcmp h), chk_bind_ok]
  simp only [atomBody, cxOf_s, cxOf_sa, cxOf_sb, cxOf_sd, cxOf_qfunc, cxOf_c, cxOf_core, cxOf_slot, State.older_turn,
    Cx.clean_ok (x := cxOf i op t) 1 hclean, Cx.clean_ok (x := cxOf i op t) 8 hopnd, hold, hal, Bool.or_eq_true, beq_iff_eq,
    beq_self_eq_true, Bool.not_false, need_true, chk_bind_ok]
  split
  · next h => rw [hdst _ h]; rfl
  · rfl

theorem leaseAcqBody_asks (op : Nat) (hal : gaddr i t % 32 = 0) (hlow : 1 ≤ (t.reg (qRegB i)).toNat) (hhigh : (t.reg (qRegB i)).toNat < 2 ^ 36)
    (hclean : t.regPoison (qRegA i) = false) (hterm : t.regPoison (qRegB i) = false) (hold : s.older i.core i.slot = false) :
    leaseAcqBody (cxOf i op t) (s.turn i) =
      .ok (.stay ((((fabricAt i s t).staleAcquires i.core i.slot).asking i t (.acquire i.core i.slot (qRegD i)) 4 16 (t.reg (qRegB i)).toNat
        (leaseData 0 t.ctx (((fabricAt i s t).staleAcquires i.core i.slot).rd (Reg.vblInc t.ctx)))).hold i.core i.slot
          ((fabricAt i s t).staleAcquires i.core i.slot).vbl.nextNum).vblPump) := by
  unfold gaddr at hal
  simp only [leaseAcqBody, cxOf_s, cxOf_sa, cxOf_sb, cxOf_sd, cxOf_c, cxOf_core, cxOf_slot, State.older_turn,
    Cx.clean_ok (x := cxOf i op t) 1 hclean, Cx.clean_ok (x := cxOf i op t) 8 hterm, hold, hal, hlow, hhigh, decide_true, Bool.and_self,
    beq_self_eq_true, Bool.not_false, need_true, chk_bind_ok]
  rfl

theorem leaseRelBody_asks (op : Nat) (hal : gaddr i t % 32 = 0) (hclean : t.regPoison (qRegA i) = false) (hold : s.older i.core i.slot = false) :
    leaseRelBody (cxOf i op t) (s.turn i) =
      .ok (.stay (((fabricAt i s t).asking i t (.release i.core i.slot (qRegD i)) 4 16 0
        (leaseData 1 t.ctx ((fabricAt i s t).rd (Reg.vblInc t.ctx)))).hold i.core i.slot (fabricAt i s t).vbl.nextNum).vblPump) := by
  unfold gaddr at hal
  simp only [leaseRelBody, cxOf_s, cxOf_sa, cxOf_sd, cxOf_c, cxOf_core, cxOf_slot, State.older_turn,
    Cx.clean_ok (x := cxOf i op t) 1 hclean, hold, hal, beq_self_eq_true, Bool.not_false, need_true, chk_bind_ok]
  rfl

/-! ## RST, DOORBELL and INV (R390, R405, R408, R418) -/

/-- Closing a batch changes no register, so neither the class nor the job of a request. -/
theorem State.closeFor_reqClass (u : State) (c d k n : Nat) (bulk : Bool) : (u.closeFor c d).reqClass k n bulk = u.reqClass k n bulk := by
  unfold State.reqClass State.flag State.get
  rw [State.rd_eq_of_ctrl (State.closeFor_ctrl c d)]

theorem State.closeFor_jobOf (u : State) (c d k : Nat) : (u.closeFor c d).jobOf k = u.jobOf k := by
  unfold State.jobOf State.get
  rw [State.rd_eq_of_ctrl (State.closeFor_ctrl c d)]

theorem rstBody_posts (op : Nat) (hal : gaddr i t % 8 = 0) (hclean : t.regPoison (qRegA i) = false) (hdata : t.regPoison (qRegB i) = false)
    (hroom : s.queued i.core < 256) : rstBody (cxOf i op t) (s.turn i) =
      if s.far (gaddr i t / 2 ^ 44) then
        .ok (.retire ((s.turn i).hinge i.core i.slot t.ctx (gaddr i t) (leBytes 8 (t.reg (qRegB i)).toNat)).vblPump)
      else .ok (.retire ((fabricAt i s t).asking i t (.store i.core) 2 8 8 (leBytes 8 (t.reg (qRegB i)).toNat)).vblPump) := by
  have hturn : (s.turn i).queued i.core < 256 := hroom
  unfold State.asking fabricAt
  rw [State.closeFor_reqClass, State.closeFor_jobOf]
  unfold gaddr at *
  simp only [rstBody, cxOf_s, cxOf_sa, cxOf_sb, cxOf_c, cxOf_core, cxOf_slot, State.far_turn,
    Cx.clean_ok (x := cxOf i op t) 1 hclean, Cx.clean_ok (x := cxOf i op t) 8 hdata, hal, hturn, decide_true, beq_self_eq_true, need_true, chk_bind_ok]
  rfl

theorem doorbellBody_posts (op : Nat) (hal : gaddr i t % 8 = 0) (hclean : t.regPoison (qRegA i) = false) (hdata : t.regPoison (qRegB i) = false)
    (hroom : s.queued i.core < 256) : doorbellBody (cxOf i op t) (s.turn i) =
      .ok (.retire ((fabricAt i s t).asking i t (.bell i.core) 6 8 (t.reg (qRegB i)).toNat []).vblPump) := by
  have hturn : (s.turn i).queued i.core < 256 := hroom
  unfold State.asking fabricAt
  rw [State.closeFor_reqClass, State.closeFor_jobOf]
  unfold gaddr at *
  simp only [doorbellBody, cxOf_s, cxOf_sa, cxOf_sb, cxOf_c, cxOf_core,
    Cx.clean_ok (x := cxOf i op t) 1 hclean, Cx.clean_ok (x := cxOf i op t) 8 hdata, hal, hturn, decide_true, beq_self_eq_true, need_true, chk_bind_ok]
  rfl

theorem doorbellBody_full (op : Nat) (hal : gaddr i t % 8 = 0) (hclean : t.regPoison (qRegA i) = false) (hdata : t.regPoison (qRegB i) = false)
    (hfull : 256 ≤ s.queued i.core) : doorbellBody (cxOf i op t) (s.turn i) = .error .hold := by
  have hturn : ¬ (s.turn i).queued i.core < 256 := Nat.not_lt.2 hfull
  unfold gaddr at hal
  simp only [doorbellBody, cxOf_s, cxOf_sa, cxOf_sb, cxOf_core, Cx.clean_ok (x := cxOf i op t) 1 hclean, Cx.clean_ok (x := cxOf i op t) 8 hdata,
    hal, hturn, decide_false, beq_self_eq_true, need_true, need_false, chk_bind_ok, chk_bind_error]

theorem invBody_drops (op : Nat) (hclean : t.regPoison (qRegA i) = false) (hlen : t.regPoison (qRegB i) = false)
    (hold : s.older i.core i.slot = false) : invBody (cxOf i op t) (s.turn i) =
      .ok (.retire ((s.turn i).invDrop t.ctx (gaddr i t) (t.reg (qRegB i)).toNat)) := by
  simp only [invBody, cxOf_s, cxOf_sa, cxOf_sb, cxOf_c, cxOf_core, cxOf_slot, State.older_turn,
    Cx.clean_ok (x := cxOf i op t) 1 hclean, Cx.clean_ok (x := cxOf i op t) 8 hlen, hold, Bool.not_false, need_true, chk_bind_ok]
  rfl

end
end Sys2Proof.Machine

/-! # Line reads (R405 to R407) -/

namespace Sys2Proof.Machine
open Sys2Proof

section
variable {i : Issue} {s : State} {t : Task}

/-- A line of the read cache lies beyond tensor space (R407). -/
theorem upperTier_rldLine : upperTier (rldLine i t) = false := by
  rw [Bool.eq_false_iff, ne_eq, upperTier_iff, rldLine, lineKey]
  omega

theorem rldLine_mod : rldLine i t % 4096 = gaddr i t % 4096 := by
  rw [rldLine, lineKey]
  omega

theorem staged?_rldLine (u : State) (core c : Nat) : u.staged? core c (rldLine i t) = u.staged? core c (lineKey (gaddr i t)) := by
  have hline : rldLine i t / 4096 * 4096 = lineKey (gaddr i t) / 4096 * 4096 := by
    rw [rldLine, lineKey]
    omega
  rw [State.staged?, State.staged?, hline]

/-- The bytes of a line that the core has staged are those of its copy (R407). -/
theorem State.pageRead_rldLine {u : State} {core c : Nat} {y : Staged} (n : Nat) (hit : u.staged? core c (lineKey (gaddr i t)) = some y) :
    u.pageRead core c (rldLine i t) n = u.mem.bytes (u.key c (u.stageAddr core c y.place + gaddr i t % 4096)) n := by
  simp only [State.pageRead, upperTier_rldLine, staged?_rldLine, hit, rldLine_mod, Bool.false_eq_true, if_false]

theorem State.pagePoison_rldLine {u : State} {core c : Nat} {y : Staged} (n : Nat) (hit : u.staged? core c (lineKey (gaddr i t)) = some y) :
    u.pagePoison core c (rldLine i t) n = u.mem.anyPoison (u.key c (u.stageAddr core c y.place + gaddr i t % 4096)) n := by
  simp only [State.pagePoison, upperTier_rldLine, staged?_rldLine, hit, rldLine_mod, Bool.false_eq_true, if_false]

theorem State.useStaged_one (u : State) (core slot c : Nat) (q : Nat × Bool) : ∃ p, u.useStaged core slot c [q] = u.setPool core c p := ⟨_, rfl⟩

/-- An RLD that hits retires at once with the line's data (R407). -/
theorem rld_hit {y : Staged} (h : Executes rldSpec i s t) (hal : gaddr i t % 8 = 0) (hclean : t.regPoison (qRegA i) = false)
    (hold : s.older i.core i.slot = false) (hcache : s.flag (Fld.vblCtxCtrlCache t.ctx) = true)
    (hit : s.staged? i.core t.ctx (lineKey (gaddr i t)) = some y) {k v : Nat} {bad : Bool}
    (hk : k = s.key t.ctx (s.stageAddr i.core t.ctx y.place + gaddr i t % 4096)) (hv : v = ofLe (s.mem.bytes k 8))
    (hbad : bad = s.mem.anyPoison k 8) :
    exec (.rld i) s = .next ((((s.turn i).useStaged i.core i.slot t.ctx [(lineKey (gaddr i t), false)]).putTask i
      ((t.setReg (qRegD i) (BitVec.ofNat 64 v) bad).setReg 63 (if bad then 5#64 else 0#64) false)).retire i false) := by
  have hitTurn : (s.turn i).staged? i.core t.ctx (lineKey (gaddr i t)) = some y := hit
  have hread : (s.turn i).pageRead i.core t.ctx (rldLine i t) 8 = s.mem.bytes k 8 := by
    rw [hk]
    exact State.pageRead_rldLine 8 hitTurn
  have hpoison : (s.turn i).pagePoison i.core t.ctx (rldLine i t) 8 = bad := by
    rw [hbad, hk]
    exact State.pagePoison_rldLine 8 hitTurn
  have hstatus : BitVec.ofNat 64 (if bad then vPoisoned else vOk) = if bad then 5#64 else 0#64 := by cases bad <;> rfl
  have hbody := rldBody_hit rldSpec.op hal hclean hold hcache hit
  rw [hread, hpoison, ← hv] at hbody
  obtain ⟨p, hp⟩ := (s.turn i).useStaged_one i.core i.slot t.ctx (lineKey (gaddr i t), false)
  rw [hp] at hbody ⊢
  have htask : ((s.turn i).setPool i.core t.ctx p).task? i.core i.slot = some t := h.task
  rw [State.modTask_of _ htask, withStatus, hstatus] at hbody
  exact (exec_rld).trans (issue_retire h rldBody hbody (poisonLeaves_same _ _ rfl))

theorem rld_miss {u : State} (h : Executes rldSpec i s t) (hal : gaddr i t % 8 = 0) (hclean : t.regPoison (qRegA i) = false)
    (hold : s.older i.core i.slot = false) (hline : s.flag (Fld.vblCtxCtrlCache t.ctx) = true ∨ s.far (gaddr i t / 2 ^ 44) = true)
    (hmiss : s.flag (Fld.vblCtxCtrlCache t.ctx) = true → s.staged? i.core t.ctx (lineKey (gaddr i t)) = none)
    (hu : u = ((s.turn i).lineRead i.core i.slot t.ctx (qRegD i) (gaddr i t)).vblPump)
    (hp : poisonLeaves (s.turn i) (.stay u) = false) : exec (.rld i) s = .next (u.noteIssue i.core i.slot) := by
  have hbody := rldBody_miss rldSpec.op hal hclean hold hmiss
  rw [if_pos (by simpa using hline), ← hu] at hbody
  exact exec_rld.trans (issue_stay h hbody hp)

end

/-! ## The read of a line (R405, R406) -/

section
variable {s : State} {core slot c sd a : Nat}

theorem State.modTask_vbl (f : Task → Task) : (s.modTask core slot f).vbl = s.vbl := by
  unfold State.modTask
  split <;> rfl

theorem State.modReq_reqs (num : Nat) (f : Req → Req) :
    (s.modReq num f).vbl.reqs = s.vbl.reqs.map fun r => if r.num == num then f r else r := rfl

theorem State.addReq_reqs (use : ReqFor) (pt cls job opnd : Nat) (data : List Byte) : (s.addReq c use pt cls job a opnd data).vbl.reqs =
    s.vbl.reqs ++ [⟨s.vbl.nextNum, c, use, a / 2 ^ 44, pt, cls, job, a, opnd, data, none, 0, none⟩] := rfl

/-- A line read of the context that is outstanding takes the further waiter (R406). -/
theorem State.lineRead_joins {r : Req} {k : Nat} {ws : List (Nat × Nat × Nat × Nat)} (hreqs : s.vbl.reqs = [r]) (hctx : r.ctx = c)
    (haddr : r.addr = a / 4096 * 4096) (huse : r.use = .line k ws) :
    (s.lineRead core slot c sd a).vbl.reqs = [{ r with use := .line k (ws ++ [(core, slot, sd, a % 4096)]) }] := by
  unfold State.lineRead
  simp only [hreqs, hctx, haddr, huse, List.find?_cons, beq_self_eq_true, Bool.and_self]
  rw [State.hold, State.modTask_vbl, State.modReq_reqs, hreqs]
  simp only [huse, hctx, haddr, List.map_cons, List.map_nil, beq_self_eq_true, if_true]

/-- Without an open batch, closing one changes nothing. -/
theorem State.closeFor_idle {u : State} (c d : Nat) (h : u.vbl.batches = []) : u.closeFor c d = u := by
  have hsame : ∀ l, l = u.vbl.batches → ({ u with vbl.batches := l } : State) = u := by
    rintro _ rfl
    rfl
  unfold State.closeFor State.flushBatches
  simp only [h, List.map_nil, List.filter_nil, List.foldl_nil]
  exact hsame [] h.symm

theorem State.lineRead_starts (hreqs : s.vbl.reqs = []) (hbatches : s.vbl.batches = []) :
    (s.lineRead core slot c sd a).vbl.reqs = [⟨s.vbl.nextNum, c, .line core [(core, slot, sd, a % 4096)], a / 4096 * 4096 / 2 ^ 44, 1,
      s.reqClass c 4096 false, s.jobOf c, a / 4096 * 4096, 4096, [], none, 0, none⟩] := by
  unfold State.lineRead
  simp only [hreqs, List.find?_nil, State.closeFor_idle c _ hbatches]
  rw [State.hold, State.modTask_vbl, State.addReq_reqs, hreqs]
  rfl

end

/-- Settles O20: each instruction ends as its body does, and a line read looks at the outstanding requests first. -/
theorem fabricRequestsAndLineReads : Obligations.FabricRequestsAndLineReads := by
  unfold Obligations.FabricRequestsAndLineReads
  refine ⟨?rld, ?atom, ?acquire, ?release, ?hit, ?miss, ?joins, ?starts⟩
  case rld =>
    intro i s t w h hal hclean hold hcache hnear hw hp
    subst hw
    have hbody := rldBody_miss rldSpec.op hal hclean hold (fun hc => absurd (hc.symm.trans hcache) Bool.noConfusion)
    rw [hcache, hnear] at hbody
    exact exec_rld.trans (issue_stay h hbody hp)
  case atom =>
    intro i s t w h hal hclean hopnd hcmp hold hw hp
    subst hw
    exact exec_atom.trans (issue_stay h (atomBody_asks _ hal hclean hopnd hcmp hold) hp)
  case acquire =>
    intro i s t w h hal hlow hhigh hclean hterm hold hw hp
    subst hw
    exact exec_leaseAcq.trans (issue_stay h (leaseAcqBody_asks _ hal hlow hhigh hclean hterm hold) hp)
  case release =>
    intro i s t w h hal hclean hold hw hp
    subst hw
    exact exec_leaseRel.trans (issue_stay h (leaseRelBody_asks _ hal hclean hold) hp)
  case hit => exact fun i s t y h hal hclean hold hcache hit => rld_hit h hal hclean hold hcache hit rfl rfl rfl
  case miss => exact fun i s t h hal hclean hold hline hmiss u hu hp => rld_miss h hal hclean hold hline hmiss hu hp
  case joins => exact fun s core slot c sd a r ws hreqs hctx haddr huse => State.lineRead_joins hreqs hctx haddr huse
  case starts => exact fun s core slot c sd a hreqs hbatches => State.lineRead_starts hreqs hbatches

end Sys2Proof.Machine

/-! # Posted requests, the hinge and INV (R390, R391, R404, R405, R408, R418) -/

namespace Sys2Proof.Machine
open Sys2Proof

/-! ## The hinge (R405) -/

section
variable {s : State} {core slot c a : Nat} {bs : List Byte}

/-- A store that follows its batch's last byte joins it. -/
theorem State.hinge_joins {b : Batch} (hbatches : s.vbl.batches = [b]) (hctx : b.ctx = c) (hdst : b.dst = a / 2 ^ 44) (hopen : b.closed = false)
    (hnext : a = b.addr + b.data.length) (hroom : b.data.length + bs.length < 65536) (htasks : b.tasks = [(core, slot)]) :
    s.hinge core slot c a bs = { s with vbl.batches := [{ b with data := b.data ++ bs }] } := by
  have hfits : (b.ctx == c && b.dst == a / 2 ^ 44 && !b.closed && a == b.addr + b.data.length && b.data.length < 65536) = true := by
    simp only [hctx, hdst, hopen, ← hnext, beq_self_eq_true, Bool.and_self, Bool.not_false, Bool.true_and, decide_eq_true_eq]
    omega
  have htask : b.tasks.contains (core, slot) = true := by simp [htasks]
  have hclosed : decide (65536 ≤ b.data.length + bs.length) = b.closed := by
    rw [hopen, decide_eq_false_iff_not]
    omega
  unfold State.hinge
  simp only [hbatches, List.any_cons, List.any_nil, List.map_cons, List.map_nil, hfits, Bool.or_false, if_true, htask, hclosed]

/-- A store that no batch takes begins one. -/
theorem State.hinge_begins (hbatches : s.vbl.batches = []) :
    s.hinge core slot c a bs = { s with vbl.batches := [⟨c, [(core, slot)], false, a / 2 ^ 44, a, bs, s.tick⟩] } := by
  unfold State.hinge
  simp only [State.closeFor_idle c _ hbatches, hbatches, List.any_nil, Bool.false_eq_true, if_false, List.nil_append]

end

/-! ## INV (R408) -/

section
variable {s : State} {core c g n : Nat} {p : Pool}

/-- The copies of a context that INV of a global range drops. -/
def State.invHits (s : State) (c g n a : Nat) : Bool :=
  match s.copyGlobal c a with
  | some b => n != 0 && b < g + n && g < b + 4096
  | none => false

theorem State.invDrop_eq : s.invDrop c g n =
    (s.cores.pools.filter fun q => q.1 % 64 == c).foldl (fun u q => u.dropCopies (q.1 / 64) c (s.invHits c g n)) s := rfl

theorem State.dropCopies_out (u : State) (k : Nat) (which : Nat → Bool) : (u.dropCopies k c which).out = u.out := rfl

theorem State.invDrop_out : (s.invDrop c g n).out = s.out := by
  rw [State.invDrop_eq]
  exact foldl_view (p := State.out) (fun u (q : Nat × Pool) => u.dropCopies_out (q.1 / 64) _) _ _

/-- Copies that no task holds leave the pool at once. -/
theorem State.dropCopies_idle {which : Nat → Bool} (hidle : ∀ y, y ∈ (s.pool core c).tiles → y.holders = []) :
    (s.dropCopies core c which).pool core c =
      { s.pool core c with tiles := (s.pool core c).tiles.filter fun y => !which y.addr } := by
  have hkeep : ((s.pool core c).tiles.filterMap fun y =>
      if !which y.addr then some y else if y.holders.isEmpty then none else some { y with stale := true }) =
        (s.pool core c).tiles.filter fun y => !which y.addr := by
    rw [← List.filterMap_eq_filter]
    refine List.filterMap_congr fun y hy => ?_
    rw [hidle y hy]
    exact (congrFun (Option.guard_def fun z : Staged => !which z.addr) y).symm
  unfold State.dropCopies
  rw [State.pool_setPool, hkeep]

end

/-- Settles O21: each instruction ends as its body does, and INV drops the copies pool by pool. -/
theorem fabricPosts : Obligations.FabricPosts := by
  unfold Obligations.FabricPosts
  refine ⟨?near, ?far, ?joins, ?begins, ?bell, ?full, ?inv, ?drops⟩
  case near =>
    intro i s t h hal hclean hdata hroom hnear hp
    have hbody := rstBody_posts rstSpec.op hal hclean hdata hroom
    rw [hnear] at hbody
    exact exec_rst.trans (issue_retire h rstBody hbody hp)
  case far =>
    intro i s t h hal hclean hdata hroom hfar hp
    have hbody := rstBody_posts rstSpec.op hal hclean hdata hroom
    rw [hfar] at hbody
    exact exec_rst.trans (issue_retire h rstBody hbody hp)
  case joins => exact fun s core slot c a bs b hbs hctx hdst hopen hnext hroom htasks => State.hinge_joins hbs hctx hdst hopen hnext hroom htasks
  case begins => exact fun s core slot c a bs hbs => State.hinge_begins hbs
  case bell =>
    intro i s t h hal hclean hdata hroom hp
    exact exec_doorbell.trans (issue_retire h doorbellBody (doorbellBody_posts _ hal hclean hdata hroom) hp)
  case full =>
    intro i s t h hal hclean hdata hfull
    exact exec_doorbell.trans (issue_hold h (doorbellBody_full _ hal hclean hdata hfull))
  case inv =>
    intro i s t h hclean hlen hold
    exact exec_inv.trans (issue_retire h invBody (invBody_drops _ hclean hlen hold) (poisonLeaves_same _ _ State.invDrop_out))
  case drops =>
    intro s core c g n p hpools hc hidle
    have hpool : s.pool core c = p := by
      simp [State.pool, hpools, poolKey, SMap.getD, SMap.get?]
    rw [State.invDrop_eq, hpools]
    have hmine : ((64 * core + c) % 64 == c) = true := by simp; omega
    have hcore : (64 * core + c) / 64 = core := by omega
    simp only [List.filter_cons, hmine, if_true, List.filter_nil, List.foldl_cons, List.foldl_nil, hcore]
    rw [State.dropCopies_idle (by rw [hpool]; exact hidle), hpool]
    rfl

end Sys2Proof.Machine

/-! # Outcomes and timers of requests (R405, R412, R416) -/

namespace Sys2Proof.Machine
open Sys2Proof

/-- An engine's read is outstanding under the number that the endpoint gives out next; a batch to a node without a path has closed, and one of
the read's context is open. -/
def collidedState : State :=
  { ((State.reset.put Fld.timStatusPllLock 1).put (Fld.ctxStatusState 1) ctxRunning) with
    vbl.reqs := [⟨0, 1, .engine (.stage 0 0), 5, 1, 1, 0, 0, 4096, [], some 0, 0, none⟩]
    vbl.nextNum := 0
    vbl.batches := [⟨0, [(0, 0)], true, 5, 5 * 2 ^ 44, [], 0⟩, ⟨1, [(0, 0)], false, 7, 7 * 2 ^ 44, [], 0⟩] }

/-- The store that the closed batch sends is UNREACHABLE, and its outcome goes to the read of the same number: the read's context faults, and
its open batch is dropped. -/
theorem collidedState_expiry : exec (.hingeHoldExpiry 0 0) collidedState = .next (collidedState.hingeExpiry 0 0) ∧
    (collidedState.hingeExpiry 0 0).vbl.batches = [] :=
  ⟨rfl, rfl⟩

/-- Refutes O22: its clause for the hinge keeps every open batch whose HOLD ticks have not passed, but does not ask that the outstanding
requests have other numbers than the next one; at `collidedState` the batch to node 7 is open, is not due, and is lost. -/
theorem not_fabricOutcomesAndTimers : ¬ Obligations.FabricOutcomesAndTimers := by
  unfold Obligations.FabricOutcomesAndTimers
  intro h
  obtain ⟨-, -, -, -, hexpiry, -⟩ := h
  have hsent : ∀ r, r ∈ collidedState.vbl.reqs → r.first ≠ none := by simp [collidedState]
  obtain ⟨u, hu, hkept⟩ := hexpiry 0 0 collidedState rfl rfl rfl hsent
  obtain ⟨hnext, hnone⟩ := collidedState_expiry
  obtain rfl : collidedState.hingeExpiry 0 0 = u := by
    rw [hnext] at hu
    exact Host.Outcome.next.inj hu
  rw [hnone] at hkept
  exact absurd (congrArg List.length hkept) (by decide)

end Sys2Proof.Machine

/-! # Packets taken in, acknowledgements and the timers of the transport (R369, R372 to R378, R385, R396, R397) -/

namespace Sys2Proof.Machine
open Sys2Proof

theorem State.clocked_locked {s : State} (h : s.flag Fld.timStatusPllLock = true) (u : State) : s.clocked u = u := if_pos h

/-! ## Packets (R372, R373, R378) -/

section
variable {s : State} {p : Nat} {b : List Byte} {rest : List (Nat × List Byte)}

theorem exec_transportPacketReceive {u : State} (h : s.packetIn = (u, none)) : exec .transportPacketReceive s = .next (s.clocked u) := by
  unfold exec execTransportPacketReceive
  rw [h]

section
variable (hinbox : s.trp.inbox = (p, b) :: rest)
include hinbox

theorem State.packetIn_bad (hbad : (PacketIn.of b).ok = false) :
    s.packetIn = (({ s with trp.inbox := rest } : State).bump Fld.trpBadPktCount, none) := by
  unfold State.packetIn
  simp only [hinbox, hbad, Bool.not_false, if_true]

theorem State.packetIn_old (hok : (PacketIn.of b).ok = true) (hold : s.lifetime < (PacketIn.of b).age ∨ (PacketIn.of b).hops = 255) :
    s.packetIn = (({ s with trp.inbox := rest } : State).bump (Fld.lnkAgeDropCount p), none) := by
  have hlife : ({ s with trp.inbox := rest } : State).lifetime = s.lifetime := rfl
  have hdrop : (decide (s.lifetime < (PacketIn.of b).age) || (PacketIn.of b).hops == 255) = true := by simpa using hold
  unfold State.packetIn
  simp only [hinbox, hok, Bool.not_true, Bool.false_eq_true, if_false, hlife, hdrop, if_true]

section
variable (hok : (PacketIn.of b).ok = true) (hage : (PacketIn.of b).age ≤ s.lifetime) (hhops : (PacketIn.of b).hops ≠ 255)
include hok hage hhops

/-- What becomes of a packet that passes the checks on its header, its age and its hops (R378). -/
theorem State.packetIn_checked : s.packetIn =
    if !s.flag Fld.vblNodeValid || (PacketIn.of b).dst != s.ownNode then
      ({ s with trp.inbox := rest, trp.transit := s.trp.transit ++ [⟨p, s.tick, b⟩] }, none)
    else if (PacketIn.of b).pt == ptTAck then ({ s with trp.inbox := rest, trp.acks := s.trp.acks ++
      [⟨(PacketIn.of b).src, (PacketIn.of b).gen, (PacketIn.of b).aclass, leAt (PacketIn.of b).block 8 4, (PacketIn.of b).reset⟩] }, none)
    else ((({ s with trp.inbox := rest } : State).fromPeer (PacketIn.of b) b).1,
      if (({ s with trp.inbox := rest } : State).fromPeer (PacketIn.of b) b).2 then some (PacketIn.of b).src else none) := by
  have hlife : ({ s with trp.inbox := rest } : State).lifetime = s.lifetime := rfl
  have hkeep : (decide (s.lifetime < (PacketIn.of b).age) || (PacketIn.of b).hops == 255) = false := by simpa [hage] using hhops
  unfold State.packetIn
  simp only [hinbox, hok, Bool.not_true, Bool.false_eq_true, if_false, hlife, hkeep]
  rfl

/-- A packet for another node goes to transit (R376). -/
theorem State.packetIn_transit (hnode : s.flag Fld.vblNodeValid = false ∨ (PacketIn.of b).dst ≠ s.ownNode) :
    s.packetIn = ({ s with trp.inbox := rest, trp.transit := s.trp.transit ++ [⟨p, s.tick, b⟩] }, none) :=
  (State.packetIn_checked hinbox hok hage hhops).trans (if_pos (by simpa using hnode))

section
variable (hvalid : s.flag Fld.vblNodeValid = true) (hdst : (PacketIn.of b).dst = s.ownNode)
include hvalid hdst

theorem State.packetIn_tAck (hpt : (PacketIn.of b).pt = ptTAck) : s.packetIn = ({ s with trp.inbox := rest, trp.acks := s.trp.acks ++
    [⟨(PacketIn.of b).src, (PacketIn.of b).gen, (PacketIn.of b).aclass, leAt (PacketIn.of b).block 8 4, (PacketIn.of b).reset⟩] }, none) :=
  (State.packetIn_checked hinbox hok hage hhops).trans ((if_neg (by simp [hvalid, hdst])).trans (if_pos (beq_iff_eq.2 hpt)))

theorem State.packetIn_peer (hpt : (PacketIn.of b).pt ≠ ptTAck) {u : State}
    (hu : ({ s with trp.inbox := rest } : State).fromPeer (PacketIn.of b) b = (u, false)) : s.packetIn = (u, none) := by
  rw [State.packetIn_checked hinbox hok hage hhops, if_neg (by simp [hvalid, hdst]), if_neg (by simpa using hpt), hu]
  rfl

end
end
end

/-- A class has two bits (R371). -/
theorem PacketIn.cls_lt : (PacketIn.of b).cls < 4 := by
  have h : (PacketIn.of b).cls = field (leAt b 4 4) 20 2 := rfl
  rw [h, field]
  omega

/-- The first message of a connection that is one packet long, as the endpoint receives it. -/
def PacketIn.whole (k : PacketIn) (s : State) : RxMsg :=
  ⟨k.src, k.mid, k.gen, k.pt, k.cls, k.job, s.winCopy, (s.newPart k).status, k.block, k.data⟩

/-- A message of one packet that arrives in its turn goes to the endpoint whole (R372). -/
theorem State.deliver_whole {k : PacketIn} {x : RxConn} (d : Nat) (hlast : k.last = true) (hparts : x.parts = []) : s.deliver d x k =
    ({ s with vbl.inbox := s.vbl.inbox ++ [{ k.whole s with src := d, gen := x.gen }] },
      { x with next := x.next.set k.cls ((k.tseq + 1) % 2 ^ 32), parts := [], idle := s.tick }) := by
  unfold State.deliver
  simp only [hlast, hparts, List.find?_nil, Option.getD_none, List.filter_nil, if_true]
  rfl

theorem State.drainHeld_nil {d cls : Nat} {x : RxConn} (hheld : x.held = []) : ∀ n, State.drainHeld d cls n (s, x) = (s, x)
  | 0 => rfl
  | n + 1 => by
    unfold State.drainHeld
    simp only [hheld, List.find?_nil]

/-- The first packet of a connection that its source opens, the whole of a message: it is delivered, and awaits its acknowledgement (R372,
R373). -/
theorem State.fromPeer_opens {k : PacketIn} (hnew : SMap.get? s.trp.rx k.src = none) (hsyn : k.syn = true) (hroom : s.trp.rx.length < connLimit)
    (htseq : k.tseq = 0) (hlast : k.last = true) (hcls : k.cls < 4) :
    s.fromPeer k b = (({ s with vbl.inbox := s.vbl.inbox ++ [k.whole s] } : State).setRx k.src
      ⟨k.gen, [0, 0, 0, 0].set k.cls 1, [], [], [(0, 0), (0, 0), (0, 0), (0, 0)].set k.cls (1, s.tick), s.tick⟩, false) := by
  have hnext : ([0, 0, 0, 0] : List Nat).getD k.cls 0 = 0 := by
    interval_cases k.cls <;> rfl
  have hunack : ([(0, 0), (0, 0), (0, 0), (0, 0)] : List (Nat × Nat)).getD k.cls (0, 0) = (0, 0) := by
    interval_cases k.cls <;> rfl
  have hdue : ([(0, 0), (0, 0), (0, 0), (0, 0)].set k.cls (1, s.tick)).getD k.cls (0, 0) = (1, s.tick) := by
    interval_cases k.cls <;> rfl
  unfold State.fromPeer State.inSequence
  simp only [hnew, hsyn, Bool.not_true, Bool.false_eq_true, if_false, Nat.not_le.2 hroom, freshRx, hnext, htseq, beq_self_eq_true, if_true,
    RxConn.taken, hunack, State.deliver_whole _ hlast, State.drainHeld_nil]
  unfold State.ackDue
  rw [State.setRx, SMap.get?_put_same]
  simp only [hdue, Nat.reduceLeDiff, if_false]
  rfl

end

end Sys2Proof.Machine

/-! # Connections and what a node passes on (R369, R372 to R377, R385, R396, R397) -/

namespace Sys2Proof.Machine
open Sys2Proof

/-! ## A connection with nothing to send -/

section
variable {s : State} {d : Nat} {x : TxConn}

theorem State.txConn_setTx : (s.setTx d x).txConn d = some x := SMap.get?_put_same ..

/-- The open of a generation changes nothing else of its connection (R375). -/
theorem State.tryOpen_eq (s : State) (x : TxConn) : ∃ o, s.tryOpen x = { x with isOpen := o } := by
  unfold State.tryOpen
  split
  · exact ⟨x.isOpen, rfl⟩
  · split
    · split
      · exact ⟨true, rfl⟩
      · exact ⟨x.isOpen, rfl⟩
    · exact ⟨true, rfl⟩

/-- A generation whose last use is known opens once the quiet time has passed since (R374, R375). -/
theorem State.tryOpen_used {t : Nat} (hclosed : x.isOpen = false) (hused : SMap.get? x.used x.gen = some t) :
    s.tryOpen x = { x with isOpen := s.quietSince t } := by
  unfold State.tryOpen
  rw [hclosed, hused]
  dsimp only
  cases s.quietSince t
  · simp [← hclosed]
  · rfl

/-- A connection without a waiting message or a segment to send does no more than open. -/
theorem State.connPump_quiet (h : s.txConn d = some x) (hwait : x.wait = []) (htodo : x.todo = []) : s.connPump d = s.setTx d (s.tryOpen x) := by
  obtain ⟨o, ho⟩ := s.tryOpen_eq x
  have hwait' : (s.tryOpen x).wait = [] := by rw [ho]; exact hwait
  have htodo' : (s.tryOpen x).todo = [] := by rw [ho]; exact htodo
  unfold State.connPump
  rw [h]
  simp only [hwait', htodo', List.length_nil, State.assignIds, State.sendSegs]

/-- With nothing that waits, the endpoint and the collective engine do nothing. -/
theorem State.vblPump_restful (h : restful s) : s.vblPump = s := by
  obtain ⟨hreqs, hbatches, hbreaks, hout, hrefused⟩ := h
  have hrefused' : ({ s with trp.refused := [] } : State) = s := by rw [← hrefused]
  have hout' : ({ s with coll.out := [] } : State) = s := by rw [← hout]
  have hbreaks' : ({ s with vbl.breaks := [] } : State) = s := by rw [← hbreaks]
  have hbatches' : ({ s with vbl.batches := [] } : State) = s := by rw [← hbatches]
  have hflush : s.collFlush = s := by
    rw [State.collFlush, hout, List.foldl_nil, hout']
  have hlease : s.releaseLeases = s := by
    rw [State.releaseLeases, hbreaks, List.foldl_nil, hbreaks']
  have hbatch : s.flushBatches = s := by
    rw [State.flushBatches, hbatches, List.filter_nil, List.filter_nil, List.foldl_nil, hbatches']
  rw [State.vblPump, hrefused, List.foldl_nil, hrefused', hflush, hlease, hbatch, hreqs]
  rfl

theorem State.restful_setTx (h : restful s) : restful (s.setTx d x) := h

/-! ## Acknowledgement (R373) -/

theorem exec_tAckReceive : exec .tAckReceive s = .next (s.clocked s.tAckReceive) := rfl

theorem State.tAckReceive_stray {a : TAck} {rest : List TAck} (hacks : s.trp.acks = a :: rest) (hnone : s.txConn a.src = none) :
    s.tAckReceive = { s with trp.acks := rest } := by
  have hnone' : ({ s with trp.acks := rest } : State).txConn a.src = none := hnone
  unfold State.tAckReceive
  rw [hacks]
  dsimp only
  rw [hnone']

/-- A T_ACK of a connection without a message takes the packets that it covers, and leaves the others' order. -/
theorem State.ackPackets_idle {a : TAck} (h : s.txConn a.src = some x) (hgen : x.gen = a.gen) (hmsgs : x.msgs = []) (htodo : x.todo = [])
    (hwait : x.wait = []) : ∃ y, s.ackPackets a = ((s.setTx a.src y).setTx a.src ((s.setTx a.src y).tryOpen y), []) ∧
      y.unacked.map (fun p => (p.cls, p.tseq)) =
        (x.unacked.filter fun p => !(p.cls == a.cls && seqBelow p.tseq a.next)).map fun p => (p.cls, p.tseq) := by
  unfold State.ackPackets
  simp only [h, hgen, bne_self_eq_false, Bool.false_eq_true, if_false, hmsgs, List.filter_nil, List.foldl_nil, List.map_nil]
  refine ⟨_, Prod.ext (State.connPump_quiet State.txConn_setTx hwait htodo) rfl, ?_⟩
  dsimp only
  split
  · rw [List.map_map]
    refine List.map_congr_left fun p _ => ?_
    dsimp only [Function.comp]
    split <;> rfl
  · rfl

theorem State.tAckReceive_takes {a : TAck} {rest : List TAck} (hrest : restful s) (hacks : s.trp.acks = a :: rest) (hreset : a.reset = false)
    (h : s.txConn a.src = some x) (hgen : x.gen = a.gen) (hmsgs : x.msgs = []) (htodo : x.todo = []) (hwait : x.wait = []) :
    ∃ y, s.tAckReceive.trp.acks = rest ∧ s.tAckReceive.txConn a.src = some y ∧
      y.unacked.map (fun p => (p.cls, p.tseq)) =
        (x.unacked.filter fun p => !(p.cls == a.cls && seqBelow p.tseq a.next)).map fun p => (p.cls, p.tseq) := by
  have h' : ({ s with trp.acks := rest } : State).txConn a.src = some x := h
  obtain ⟨y, hy, hcovered⟩ := State.ackPackets_idle h' hgen hmsgs htodo hwait
  have heq : s.tAckReceive = (({ s with trp.acks := rest } : State).setTx a.src y).setTx a.src
      ((({ s with trp.acks := rest } : State).setTx a.src y).tryOpen y) := by
    unfold State.tAckReceive
    rw [hacks]
    dsimp only
    rw [h']
    simp only [hreset, Bool.false_eq_true, if_false, hy, List.foldl_nil]
    exact State.vblPump_restful hrest
  obtain ⟨o, ho⟩ := State.tryOpen_eq (({ s with trp.acks := rest } : State).setTx a.src y) y
  rw [heq, ho]
  exact ⟨_, rfl, State.txConn_setTx, hcovered⟩

/-! ## Failure (R377) -/

theorem exec_connectionFail_node (node : BitVec 20) : exec (.connectionFail node) s =
    .next (s.clocked (if s.connFailed node.toNat then s.failConn node.toNat true else s)) := rfl

theorem State.connFailed_old (h : s.txConn d = some x) (hold : ∃ p, p ∈ x.unacked ∧ p.first + s.lifetime * 250 ≤ s.tick) :
    s.connFailed d = true := by
  obtain ⟨p, hp, hdue⟩ := hold
  have hany : (x.unacked.any fun u => u.first + s.lifetime * ticksPerUs ≤ s.tick) = true := List.any_eq_true.2 ⟨p, hp, decide_eq_true hdue⟩
  unfold State.connFailed
  rw [h]
  dsimp only
  rw [hany, Bool.true_or]

/-- The connection that opens after one has failed on which no message was held (R375, R377). -/
def TxConn.reopened (x : TxConn) (tick : Nat) : TxConn :=
  { x with gen := (x.gen + 1) % 16, isOpen := false, syn := true, tseq := [0, 0, 0, 0], unacked := [], todo := [], msgs := [], wait := []
           retired := [], used := SMap.put x.used x.gen tick, idle := tick }

theorem State.handBack_idle (h : s.txConn d = some x) (hmsgs : x.msgs = []) (hwait : x.wait = []) :
    s.handBack d true = ((s.setTx d (x.reopened s.tick)).setTx d ((s.setTx d (x.reopened s.tick)).tryOpen (x.reopened s.tick)), []) := by
  have hpump := State.connPump_quiet (s := s.setTx d (x.reopened s.tick)) (x := x.reopened s.tick) State.txConn_setTx rfl rfl
  unfold State.handBack
  rw [h]
  simp only [hmsgs, hwait, List.map_nil, List.filter_nil, List.nil_append, if_true]
  rw [← hpump]
  rfl

/-- A give-up counts, and raises its event. -/
theorem State.giveUp_eq (h : s.txConn d = some x) : ∃ r l, s.giveUp d = { s.bump Fld.trpGiveupCount with raised := r, lost := l } := by
  unfold State.giveUp
  rw [h]
  exact State.raiseMod_eq ..

theorem State.readsBack_idle (hreqs : s.vbl.reqs = []) (path : Bool) : s.readsBack d path = s := by
  rw [State.readsBack, hreqs]
  rfl

theorem State.failConn_idle (hrest : restful s) (h : s.txConn d = some x) (hpath : s.hasPath d = true) (hmsgs : x.msgs = []) (hwait : x.wait = []) :
    ∃ y, (s.failConn d true).txConn d = some y ∧ y.gen = (x.gen + 1) % 16 ∧ y.unacked = [] ∧ y.syn = true ∧
      (s.failConn d true).get Fld.trpGiveupCount = min (s.get Fld.trpGiveupCount + 1) (2 ^ 32 - 1) := by
  obtain ⟨r, l, hgive⟩ := State.giveUp_eq h
  have hconn : (s.giveUp d).txConn d = some x := by rw [hgive]; exact h
  have hcount : (s.giveUp d).get Fld.trpGiveupCount = min (s.get Fld.trpGiveupCount + 1) (2 ^ 32 - 1) := by
    rw [hgive]
    exact State.get_bump s Fld.trpGiveupCount 1 (by decide)
  have hcalm : restful (s.giveUp d) := by rw [hgive]; exact hrest
  obtain ⟨o, ho⟩ := State.tryOpen_eq ((s.giveUp d).setTx d (x.reopened (s.giveUp d).tick)) (x.reopened (s.giveUp d).tick)
  have hback := State.handBack_idle hconn hmsgs hwait
  rw [ho] at hback
  have heq : s.failConn d true = (((s.giveUp d).setTx d (x.reopened (s.giveUp d).tick)).setTx d
      { x.reopened (s.giveUp d).tick with isOpen := o }) := by
    unfold State.failConn
    simp only [if_true, hpath, hback, List.foldl_nil]
    rw [State.readsBack_idle (State.restful_setTx (State.restful_setTx hcalm)).1]
    exact State.vblPump_restful (State.restful_setTx (State.restful_setTx hcalm))
  rw [heq]
  exact ⟨_, State.txConn_setTx, rfl, rfl, rfl, hcount⟩

/-! ## Timers (R369, R373, R374) -/

theorem exec_tAckTimer (node : BitVec 20) (cls : Fin 4) : exec (.tAckTimer node cls) s = .next (s.clocked (s.tAckTimer node.toNat cls.val)) := rfl

theorem State.tAckTimer_due {r : RxConn} {cls n t : Nat} (h : SMap.get? s.trp.rx d = some r) (hfirst : r.unack.getD cls (0, 0) = (n, t))
    (hn : n ≠ 0) (hdue : t + 500 ≤ s.tick) : s.tAckTimer d cls =
      (s.setRx d { r with unack := r.unack.set cls (0, 0) }).sendTAck d r.gen cls (r.next.getD cls 0) false := by
  have hnow : (n != 0 && decide (t + 2 * ticksPerUs ≤ s.tick)) = true := Bool.and_eq_true_iff.2 ⟨by simpa using hn, decide_eq_true hdue⟩
  unfold State.tAckTimer State.ackClass
  simp only [h, hfirst, hnow, if_true]

theorem State.tAckTimer_none {r : RxConn} {cls : Nat} (h : SMap.get? s.trp.rx d = some r) (hfirst : (r.unack.getD cls (0, 0)).1 = 0) :
    s.tAckTimer d cls = s := by
  unfold State.tAckTimer
  simp only [h, hfirst, bne_self_eq_false, Bool.false_and, Bool.false_eq_true, if_false]

theorem exec_rtoExpiry (node : BitVec 20) (cls : Fin 4) : exec (.rtoExpiry node cls) s = .next (s.clocked (s.rtoExpiry node.toNat cls.val)) := rfl

theorem State.rtoExpiry_due {cls : Nat} {p : SentPacket} {l : List SentPacket} (h : s.txConn d = some x) (holdest : x.unacked = p :: l) (hcls : p.cls = cls)
    (hdue : p.last + p.rto * 250 ≤ s.tick) : s.rtoExpiry d cls = ((s.setTx d { x with
      unacked := { p with last := s.tick, rto := min (2 * p.rto) (16 * max 1 (s.get Fld.trpRtoRto)) } :: l }).bump
        Fld.trpRetxCount).sendPacket s.ownNode d cls p.job p.bytes := by
  unfold State.rtoExpiry
  simp only [h, holdest, List.findIdx?_cons, hcls, beq_self_eq_true, if_true, List.getElem?_cons_zero, ticksPerUs, Nat.not_lt.2 hdue, if_false,
    List.set_cons_zero]
  rfl

theorem exec_connIdleEvict (send : Bool) (node : BitVec 20) :
    exec (.connIdleEvict send node) s = .next (s.clocked (s.connEvict send node.toNat)) := rfl

theorem State.quietSince_of {t : Nat} (h : t + 500 * s.lifetime ≤ s.tick) : s.quietSince t = true := by
  rw [State.quietSince, State.quiet, ticksPerUs, decide_eq_true_eq]
  omega

theorem State.connEvict_receive {r : RxConn} (h : SMap.get? s.trp.rx d = some r) (hheld : r.held = []) (hparts : r.parts = [])
    (hunack : ∀ u, u ∈ r.unack → u.1 = 0) (hidle : r.idle + 500 * s.lifetime ≤ s.tick) :
    s.connEvict false d = { s with trp.rx := SMap.del s.trp.rx d } := by
  have hall : (r.unack.all fun u => u.1 == 0) = true := by simpa using hunack
  unfold State.connEvict
  simp only [h, hheld, hparts, hall, State.quietSince_of hidle, List.isEmpty_nil, Bool.and_self, Bool.false_eq_true, if_false, if_true]

theorem State.connEvict_send (h : s.txConn d = some x) (hunacked : x.unacked = []) (htodo : x.todo = []) (hmsgs : x.msgs = [])
    (hwait : x.wait = []) (hidle : x.idle + 500 * s.lifetime ≤ s.tick) (hfull : s.trp.full = []) :
    s.connEvict true d = { s with trp.tx := SMap.del s.trp.tx d } := by
  unfold State.connEvict
  simp only [h, hunacked, htodo, hmsgs, hwait, State.quietSince_of hidle, List.isEmpty_nil, Bool.and_self, if_true, hfull]

theorem exec_quietTimeExpiry (node : BitVec 20) : exec (.quietTimeExpiry node) s = .next (s.clocked (s.connPump node.toNat)) := rfl

end

/-! ## Transit (R376, R396, R397) -/

section
variable {s : State} {k : Transit} {rest : List Transit}

theorem exec_transitForward : exec .transitForward s = .next (s.clocked s.transitForward) := rfl

theorem State.transitForward_old (h : s.trp.transit = k :: rest)
    (hold : s.lifetime < (PacketIn.of k.bytes).age + s.ageOf k ∨ 254 ≤ (PacketIn.of k.bytes).hops) :
    s.transitForward = ({ s with trp.transit := rest } : State).bump (Fld.lnkAgeDropCount k.port) := by
  have hlife : ({ s with trp.transit := rest } : State).lifetime = s.lifetime := rfl
  have hage : ({ s with trp.transit := rest } : State).ageOf k = s.ageOf k := rfl
  have hdrop : (decide (s.lifetime < (PacketIn.of k.bytes).age + s.ageOf k) || decide (255 ≤ (PacketIn.of k.bytes).hops + 1)) = true := by
    simpa using hold
  unfold State.transitForward
  simp only [h, hlife, hage, hdrop, if_true]

/-- The port of a flow follows from the control registers alone (R395). -/
theorem State.pathPort_of_ctrl {u : State} (h : u.ctrl = s.ctrl) {src dst cls : Nat} : u.pathPort src dst cls = s.pathPort src dst cls := by
  have hrd : u.rd = s.rd := funext fun a => State.rd_eq_of_ctrl h a
  have hget : u.get = s.get := funext fun f => by rw [State.get, State.get, hrd]
  have hopen : u.portOpen = s.portOpen := by
    funext p
    rw [State.portOpen, State.portOpen, State.portState, State.portState, State.flag, State.flag, hget]
  have hdir : u.dirPorts = s.dirPorts := by
    funext d
    rw [State.dirPorts, State.dirPorts, hopen]
  have htorus : u.torus = s.torus := by rw [State.torus, State.torus, hget]
  have hcoords (d : Nat) : u.coords d = s.coords d := by rw [State.coords, State.coords, htorus]
  have hown : u.ownCoords = s.ownCoords := by rw [State.ownCoords, State.ownCoords, hget]
  have hdirOf (d : Nat) : u.torusDir d = s.torusDir d := by rw [State.torusDir, State.torusDir, htorus, hcoords, hown]
  have hports (d : Nat) : u.torusPorts d = s.torusPorts d := by rw [State.torusPorts, State.torusPorts, htorus, hdirOf, hdir]
  have hentry (d : Nat) : u.entryOf d = s.entryOf d := by rw [State.entryOf, State.entryOf, hrd]
  have hentries : u.entryPorts = s.entryPorts := by
    funext e
    rw [State.entryPorts, State.entryPorts, hrd]
  have hflag : u.flag = s.flag := by
    funext f
    rw [State.flag, State.flag, hget]
  have hall (d : Nat) : u.pathPorts d = s.pathPorts d := by
    unfold State.pathPorts
    rw [hports, hentry, hentries, hopen, hflag, hget, hports]
  exact congrArg (fun l : List Nat => l[crc32c (Config.flowBytes src dst cls) % l.length]?) (hall dst)

/-- A transit packet that is neither too old nor too far goes on along its flow (R376, R396). -/
theorem State.transitForward_young (h : s.trp.transit = k :: rest) (hage : (PacketIn.of k.bytes).age + s.ageOf k ≤ s.lifetime)
    (hhops : (PacketIn.of k.bytes).hops < 254) {o : Option Nat}
    (hpath : s.pathPort (PacketIn.of k.bytes).src (PacketIn.of k.bytes).dst (PacketIn.of k.bytes).cls = o) :
    s.transitForward = o.elim (({ s with trp.transit := rest } : State).bump Fld.vblFwdDropCount) fun p =>
      ({ s with trp.transit := rest } : State).portSend p (PacketIn.of k.bytes).dst (PacketIn.of k.bytes).cls
        (if (s.portOwner p).isSome then (PacketIn.of k.bytes).job else 0) (s.portOwner p)
        (k.bytes.take 19 ++ leBytes 1 ((PacketIn.of k.bytes).hops + 1) ++
          leBytes 2 ((PacketIn.of k.bytes).age + s.ageOf k) ++ k.bytes.drop 22) := by
  have hlife' : ({ s with trp.transit := rest } : State).lifetime = s.lifetime := rfl
  have hage' : ({ s with trp.transit := rest } : State).ageOf k = s.ageOf k := rfl
  have howner (p : Nat) : ({ s with trp.transit := rest } : State).portOwner p = s.portOwner p := rfl
  have hctrl : ({ s with trp.transit := rest } : State).ctrl = s.ctrl := rfl
  have hpath' (src dst cls : Nat) := State.pathPort_of_ctrl hctrl (src := src) (dst := dst) (cls := cls)
  have hkeep : (decide (s.lifetime < (PacketIn.of k.bytes).age + s.ageOf k) || decide (255 ≤ (PacketIn.of k.bytes).hops + 1)) = false := by
    simp only [Bool.or_eq_false_iff, decide_eq_false_iff_not]
    omega
  unfold State.transitForward
  simp only [h, hlife', hage', hkeep, Bool.false_eq_true, if_false, hpath', hpath, howner]
  cases o <;> rfl

end
end Sys2Proof.Machine

/-! # Transport receives and timers (R369, R372 to R378, R385, R396, R397) -/

namespace Sys2Proof.Machine
open Sys2Proof

/-- The transport takes in the first message of a connection that its source opens (R372, R373, R378). -/
theorem transportPacketReceive_opens {s : State} {p : Nat} {b : List Byte} {rest : List (Nat × List Byte)}
    (hlock : s.flag Fld.timStatusPllLock = true) (hinbox : s.trp.inbox = (p, b) :: rest) (hok : (PacketIn.of b).ok = true)
    (hage : (PacketIn.of b).age ≤ s.lifetime) (hhops : (PacketIn.of b).hops ≠ 255) (hvalid : s.flag Fld.vblNodeValid = true)
    (hdst : (PacketIn.of b).dst = s.ownNode) (hpt : (PacketIn.of b).pt ≠ ptTAck) (hnew : SMap.get? s.trp.rx (PacketIn.of b).src = none)
    (hsyn : (PacketIn.of b).syn = true) (hroom : s.trp.rx.length < connLimit) (htseq : (PacketIn.of b).tseq = 0)
    (hlast : (PacketIn.of b).last = true) :
    ∃ u m x, exec .transportPacketReceive s = .next u ∧ u.trp.inbox = rest ∧ u.vbl.inbox = s.vbl.inbox ++ [m] ∧
      m.src = (PacketIn.of b).src ∧ m.mid = (PacketIn.of b).mid ∧ m.ptype = (PacketIn.of b).pt ∧ m.data = (PacketIn.of b).data ∧
      m.block = (PacketIn.of b).block ∧ SMap.get? u.trp.rx (PacketIn.of b).src = some x ∧ x.gen = (PacketIn.of b).gen ∧
      x.next.getD (PacketIn.of b).cls 0 = 1 := by
  have hnew' : SMap.get? ({ s with trp.inbox := rest } : State).trp.rx (PacketIn.of b).src = none := hnew
  have hroom' : ({ s with trp.inbox := rest } : State).trp.rx.length < connLimit := hroom
  have hcls : (PacketIn.of b).cls < 4 := PacketIn.cls_lt
  have hopens := State.fromPeer_opens (b := b) hnew' hsyn hroom' htseq hlast hcls
  have hin := State.packetIn_peer hinbox hok hage hhops hvalid hdst hpt hopens
  refine ⟨_, (PacketIn.of b).whole { s with trp.inbox := rest }, _,
    (exec_transportPacketReceive hin).trans (congrArg _ (State.clocked_locked hlock _)), rfl, rfl, rfl, rfl, rfl, rfl, rfl,
    SMap.get?_put_same .., rfl, ?_⟩
  simp [List.getD, hcls]

/-- Settles O23: the checks of R378 in their order, then each timer on the connection that it is for. -/
theorem transportReceivesAndTimers : Obligations.TransportReceivesAndTimers := by
  unfold Obligations.TransportReceivesAndTimers
  refine ⟨?bad, ?old, ?transit, ?ack, ?opens, ?takes, ?stray, ?fails, ?sound, ?ackTimer, ?ackIdle, ?rto, ?tooOld, ?noPath, ?onward,
    ?evictReceive, ?evictSend, ?quiet⟩
  case bad => exact fun s p b rest hinbox hbad => exec_transportPacketReceive (State.packetIn_bad hinbox hbad)
  case old => exact fun s p b rest hinbox hok hold => exec_transportPacketReceive (State.packetIn_old hinbox hok hold)
  case transit =>
    exact fun s p b rest hinbox hok hage hhops hnode => exec_transportPacketReceive (State.packetIn_transit hinbox hok hage hhops hnode)
  case ack =>
    exact fun s p b rest hinbox hok hage hhops hvalid hdst hpt =>
      exec_transportPacketReceive (State.packetIn_tAck hinbox hok hage hhops hvalid hdst hpt)
  case opens =>
    exact fun s p b rest hlock hinbox hok hage hhops hvalid hdst hpt hnew hsyn hroom htseq hlast =>
      transportPacketReceive_opens hlock hinbox hok hage hhops hvalid hdst hpt hnew hsyn hroom htseq hlast
  case takes =>
    intro s a rest x hlock hrest hacks hreset hconn hgen hmsgs htodo hwait
    obtain ⟨y, hleft, hy, hcovered⟩ := State.tAckReceive_takes hrest hacks hreset hconn hgen hmsgs htodo hwait
    exact ⟨_, y, exec_tAckReceive.trans (congrArg _ (State.clocked_locked hlock _)), hleft, hy, hcovered⟩
  case stray =>
    intro s a rest hacks hnone
    rw [exec_tAckReceive, State.tAckReceive_stray hacks hnone]
  case fails =>
    intro node s x hlock hrest hconn hpath hmsgs hwait hold
    obtain ⟨y, hy, hgen, hunacked, hsyn, hcount⟩ := State.failConn_idle hrest hconn hpath hmsgs hwait
    refine ⟨_, y, ?_, hy, hgen, hunacked, hsyn, hcount⟩
    rw [exec_connectionFail_node, State.connFailed_old hconn hold, if_pos rfl, State.clocked_locked hlock]
  case sound =>
    intro node s hsound
    rw [exec_connectionFail_node, hsound, if_neg Bool.false_ne_true, State.clocked_self]
  case ackTimer =>
    intro node cls s x n t hrx hfirst hn hdue
    rw [exec_tAckTimer, State.tAckTimer_due hrx hfirst hn hdue]
  case ackIdle =>
    intro node cls s x hrx hnone
    rw [exec_tAckTimer, State.tAckTimer_none hrx hnone, State.clocked_self]
  case rto =>
    intro node cls s x p l hconn holdest hcls hdue
    rw [exec_rtoExpiry, State.rtoExpiry_due hconn holdest hcls hdue]
  case tooOld =>
    intro s k rest htransit hold
    rw [exec_transitForward, State.transitForward_old htransit hold]
  case noPath =>
    intro s k rest htransit hage hhops hpath
    rw [exec_transitForward, State.transitForward_young htransit hage hhops hpath]
    rfl
  case onward =>
    intro s k rest p htransit hage hhops hpath
    rw [exec_transitForward, State.transitForward_young htransit hage hhops hpath]
    rfl
  case evictReceive =>
    intro node s x hrx hheld hparts hunack hidle
    rw [exec_connIdleEvict, State.connEvict_receive hrx hheld hparts hunack hidle]
  case evictSend =>
    intro node s x hconn hunacked htodo hmsgs hwait hidle hfull
    rw [exec_connIdleEvict, State.connEvict_send hconn hunacked htodo hmsgs hwait hidle hfull]
  case quiet =>
    intro node s x t hconn hclosed hused hwait htodo
    have hquiet : s.quietSince t = decide (t + 500 * s.lifetime ≤ s.tick) := by
      rw [State.quietSince, State.quiet, ticksPerUs, decide_eq_decide]
      omega
    rw [exec_quietTimeExpiry, State.connPump_quiet hconn hwait htodo, State.tryOpen_used hclosed hused, hquiet]

end Sys2Proof.Machine

/-! # Reads and writes served (R258, R393, R399, R400, R402) -/

namespace Sys2Proof.Machine
open Sys2Proof

section
variable {s : State} {m : RxMsg} {rest : List RxMsg}

/-! ## What every kind of request shares -/

/-- A first message behind one of its source that waits for the reply cache waits too (R393). -/
theorem State.serve_behind {pt : Nat} (hin : s.vbl.inbox = m :: rest) (hpt : m.ptype = pt) (hbehind : s.behind m = true)
    (act : RxMsg → State → State) : s.serve pt act = { s with vbl.inbox := rest, vbl.blocked := s.vbl.blocked ++ [m] } := by
  have hwaits : ({ s with vbl.inbox := rest } : State).behind m = true := hbehind
  unfold State.serve State.takeMsg
  rw [hin]
  simp only [hpt, beq_self_eq_true, if_true, hwaits]

/-- A window that accepts EX, or a request in another class, keeps the class of the answer (R399). -/
theorem State.servedClass_kept {window : Nat} (h : keepsClass s m window) : s.servedClass m window = (s, m.cls) := by
  have hkeep : (m.cls == 0 && !s.flag (Fld.winKeyExpress window)) = false := by
    rcases h with hcls | hex
    · rw [beq_false_of_ne hcls, Bool.false_and]
    · rw [hex, Bool.not_true, Bool.and_false]
  exact if_neg (ne_true_of_eq_false hkeep)

/-- An EX request at a window that does not accept EX is demoted (R399). -/
theorem State.servedClass_demoted {window : Nat} (h : ¬ keepsClass s m window) :
    s.servedClass m window = (s.bump Fld.vblExDemotedCount, 1) := by
  unfold keepsClass at h
  exact if_pos (by simpa using h)

/-- A refusal counts, saturating, and changes no memory (R400, R422). -/
theorem State.refuseReq_mem (e : Nat) : (s.refuseReq m e).mem = s.mem := by
  rw [State.refuseReq, State.countRefusal, State.raiseMod, State.raise_mem, State.bump_mem]

theorem State.get_raiseMod (src code sev w2 w3 : Nat) (f : Fld) : (s.raiseMod src code sev w2 w3).get f = s.get f := by
  obtain ⟨r, l, h⟩ := s.raiseMod_eq src code sev w2 w3
  rw [h]
  rfl

theorem State.refuseReq_count (e : Nat) :
    (s.refuseReq m e).get Fld.vblRxDeniedCount = min (s.get Fld.vblRxDeniedCount + 1) (2 ^ 32 - 1) := by
  rw [State.refuseReq, State.countRefusal, State.get_raiseMod]
  exact State.get_bump s Fld.vblRxDeniedCount 1 (by decide)

/-- An answer to the module itself joins its inbox, behind what waits there (R389). -/
theorem State.respond_own {cls status result : Nat} {data : List Byte} (hsrc : m.src = s.ownNode) (hlen : data.length ≤ 256) :
    s.respond m cls status result data = { s with vbl.inbox := s.vbl.inbox ++ [⟨m.src, 0, 0, 0x40, cls, m.job, 0, 0,
      leBytes 2 m.mid ++ leBytes 1 m.gen ++ leBytes 1 status ++ leBytes 4 0 ++ leBytes 8 result, data⟩] } := by
  unfold State.respond
  simp only [Nat.not_lt.2 hlen, if_false, hsrc, beq_self_eq_true, if_true]
  rfl

theorem State.took_reqCheck (copy job pt addr opnd : Nat) (data : List Byte) :
    (s.took rest).reqCheck copy job pt addr opnd data = s.reqCheck copy job pt addr opnd data := by
  have hown : (s.took rest).ownNode = s.ownNode := rfl
  have hfind (off : Nat) : (s.took rest).winFind copy off = s.winFind copy off := rfl
  have hlow (a : Nat) : (s.took rest).winLow a = s.winLow a := rfl
  have hget (f : Fld) : (s.took rest).get f = s.get f := rfl
  have hstate (c : Nat) : (s.took rest).ctxState c = s.ctxState c := rfl
  have hmapped (c a n : Nat) := State.mapped_congr (u := s.took rest) (s := s) rfl rfl rfl c a n
  have hcode (c a n : Nat) : (s.took rest).inCode c a n = s.inCode c a n := rfl
  unfold State.reqCheck State.winCheck
  simp only [hown, hfind, hlow, hget, hstate, hmapped, hcode]

theorem State.took_spaceRead (c a n : Nat) : (s.took rest).spaceRead c a n = s.spaceRead c a n := rfl

/-! ## RD (R399, R402) -/

/-- The answer to a read that passed its checks, in a class. -/
def State.readAnswer (s : State) (m : RxMsg) (t : Target) (cls : Nat) : State :=
  if (s.spaceRead t.ctx t.addr m.opnd).2 then s.respond m cls vPoisoned 0 []
  else s.respond m cls vOk 0 (s.spaceRead t.ctx t.addr m.opnd).1

theorem exec_rdReceive : exec .rdReceive s = .next (s.clocked s.rdReceive) := rfl

theorem State.rdReceive_ok {t : Target} (h : firstMsg s ptRd m rest) (hcheck : s.reqCheck m.copy m.job ptRd m.addr m.opnd [] = .ok t) :
    s.rdReceive = (((s.took rest).servedClass m t.window).1.readAnswer m t ((s.took rest).servedClass m t.window).2).vblPump := by
  rw [State.rdReceive, State.serve_of_firstMsg h, State.took_reqCheck, hcheck]
  rfl

theorem State.rdReceive_refused {e : Nat} (h : firstMsg s ptRd m rest)
    (hcheck : s.reqCheck m.copy m.job ptRd m.addr m.opnd [] = .error e) : s.rdReceive = ((s.took rest).deny m e).vblPump := by
  rw [State.rdReceive, State.serve_of_firstMsg h, State.took_reqCheck, hcheck]

/-! ## WR (R258, R400) -/

theorem exec_wrReceive : exec .wrReceive s = .next (s.clocked s.wrReceive) := rfl

theorem State.wrReceive_refused (h : firstMsg s ptWr m rest) (hstatus : m.status ≠ vOk) :
    s.wrReceive = ((s.took rest).deny m m.status).vblPump := by
  rw [State.wrReceive, State.serve_of_firstMsg h, if_pos (bne_iff_ne.2 hstatus)]

/-- A write that passed its checks when its first packet arrived writes its bytes at the window's target (R400). -/
theorem State.wrReceive_ok {w : Nat} (h : firstMsg s ptWr m rest) (hstatus : m.status = 0) (hlen : m.data.length = m.opnd)
    (hwin : s.winFind m.copy (m.addr % 2 ^ 44) = some w) (hkeep : keepsClass s m w) {c a : Nat} (hc : c = s.get (Fld.winTgtContext w))
    (ha : a = s.get64 (Reg.winTarget w) % 2 ^ 44 + (m.addr % 2 ^ 44 - s.get64 (Reg.winBase w) % 2 ^ 44)) :
    s.wrReceive = ((s.took rest).spaceWrite c a m.data).wrDone m m.cls
      (((s.took rest).spaceWrite c a m.data).awaited c a m.data.length) := by
  have hwin' : (s.took rest).winFind m.copy (m.addr % 2 ^ 44) = some w := hwin
  have hkeep' : keepsClass (s.took rest) m w := hkeep
  have hok : ¬ (m.status != vOk) = true := by simp [hstatus, vOk]
  have hwhole : ¬ (m.data.length != m.opnd) = true := by simp [hlen]
  subst hc ha
  rw [State.wrReceive, State.serve_of_firstMsg h, if_neg hok, if_neg hwhole, hwin']
  dsimp only
  rw [State.servedClass_kept hkeep']
  rfl

theorem State.wrDone_now (cls : Nat) : s.wrDone m cls [] = (s.respond m cls 0 0 []).vblPump := rfl

theorem State.wrDone_late {cls : Nat} {acks : List (Nat × Nat)} (h : acks ≠ []) :
    s.wrDone m cls acks = { s with vbl.late := s.vbl.late ++ [(m, cls, acks)] } :=
  if_neg (by simpa using h)

end

/-- Settles O24: each request is taken as the first message, checked, and answered in the class that its window gives. -/
theorem readsAndWritesServed : Obligations.ReadsAndWritesServed := by
  unfold Obligations.ReadsAndWritesServed
  refine ⟨?read, ?behind, ?demoted, ?readRefused, ?write, ?writeRefused, fun s m e => ⟨State.refuseReq_mem e, State.refuseReq_count e⟩,
    fun s m cls status result data hsrc hlen => State.respond_own hsrc hlen⟩
  case read =>
    intro s m rest t h hcheck hkeep
    have hkeep' : keepsClass (s.took rest) m t.window := hkeep
    rw [exec_rdReceive, State.rdReceive_ok h hcheck, State.servedClass_kept hkeep', State.readAnswer, State.took_spaceRead]
    rfl
  case behind =>
    intro s m rest hin hpt hbehind
    rw [exec_rdReceive, State.rdReceive, State.serve_behind (pt := ptRd) hin hpt hbehind]
  case demoted =>
    intro s m rest t w h hcheck hkeep hw hclean
    have hkeep' : ¬ keepsClass (s.took rest) m t.window := hkeep
    rw [exec_rdReceive, State.rdReceive_ok h hcheck, State.servedClass_demoted hkeep', ← hw, State.readAnswer, hclean,
      if_neg Bool.false_ne_true]
    rfl
  case readRefused =>
    intro s m rest e h hcheck
    rw [exec_rdReceive, State.rdReceive_refused h hcheck]
  case write =>
    intro s m rest w c a h hstatus hlen hwin hkeep hc ha u hu
    rw [exec_wrReceive, State.wrReceive_ok h hstatus hlen hwin hkeep hc ha, ← hu]
    refine ⟨fun hnone => ?_, fun hlate => ?_⟩
    · rw [hnone, State.wrDone_now]
    · rw [State.wrDone_late hlate]
  case writeRefused =>
    intro s m rest h hstatus
    rw [exec_wrReceive, State.wrReceive_refused h hstatus]

end Sys2Proof.Machine

/-! # Atomics and leases served (R402, R403, R410, R411, R413, R415) -/

namespace Sys2Proof.Machine
open Sys2Proof

/-! ## Bytes of a word of tensor space -/

/-- The pieces of a range no longer than a page are together no longer than it. -/
theorem sum_pieces_le {a n : Nat} (h : n ≤ 4096) : ((pieces a n).map (·.2)).sum ≤ n := by
  unfold pieces
  split
  · exact Nat.zero_le n
  next hn =>
    have hcount : (a + n - 1) / 4096 - a / 4096 = 0 ∨ (a + n - 1) / 4096 - a / 4096 = 1 := by omega
    rcases hcount with hone | htwo
    · rw [hone]
      simp only [Nat.zero_add, List.range_one, List.map_cons, List.map_nil, List.sum_cons, List.sum_nil, if_true]
      split <;> omega
    · rw [htwo]
      simp only [Nat.reduceAdd, List.range_succ, List.range_zero, List.nil_append, List.cons_append, List.map_cons, List.map_nil, List.sum_cons,
        List.sum_nil, if_true, Nat.one_ne_zero, if_false, Nat.add_zero]
      split <;> split <;> omega

theorem State.length_t2Read (s : State) (p o n : Nat) : (s.t2Read p o n).1.length = n := by
  unfold State.t2Read
  dsimp only
  split
  · exact Memory.length_bytes ..
  · rw [List.length_map, List.length_range]

theorem State.length_spaceRead_le (s : State) (c a : Nat) {n : Nat} (h : n ≤ 4096) : (s.spaceRead c a n).1.length ≤ n := by
  refine le_trans ?_ (sum_pieces_le (a := a) h)
  unfold State.spaceRead
  simp only [List.length_flatMap, List.map_map]
  refine List.sum_le_sum fun p _ => ?_
  dsimp only [Function.comp]
  split
  · exact (State.length_t2Read ..).le
  · exact (Memory.length_bytes ..).le
  · exact (Memory.length_bytes ..).le
  · exact Nat.zero_le _
  · exact Nat.zero_le _

theorem ofLe_lt {bs : List Byte} {k : Nat} (h : bs.length ≤ k) : ofLe bs < 256 ^ k := by
  have htake := ofLe_take k bs
  rw [List.take_of_length_le h] at htake
  rw [htake]
  exact Nat.mod_lt _ (Nat.pow_pos (by decide))

theorem RxMsg.opnd_lt (m : RxMsg) : m.opnd < 2 ^ 64 :=
  ofLe_lt (k := 8) (by rw [List.length_take]; exact Nat.min_le_left ..)

/-! ## The word of an ATOMIC (R410) -/

theorem toSigned_le_iff (a b : Nat) : toSigned 64 a ≤ toSigned 64 b ↔ (BitVec.ofNat 64 a).sle (BitVec.ofNat 64 b) = true := by
  rw [toSigned_eq, toSigned_eq, BitVec.sle_iff_toInt_le]

/-- Two words of 64 bits with one signed value are equal. -/
theorem eq_of_toSigned_eq {a b : Nat} (ha : a < 2 ^ 64) (hb : b < 2 ^ 64) (h : toSigned 64 a = toSigned 64 b) : a = b := by
  rw [toSigned_eq, toSigned_eq, BitVec.toInt_inj] at h
  have hmod := congrArg BitVec.toNat h
  rwa [BitVec.toNat_ofNat, BitVec.toNat_ofNat, Nat.mod_eq_of_lt ha, Nat.mod_eq_of_lt hb] at hmod

/-- The larger of two words of 64 bits, signed. -/
theorem signedMax_eq {old opnd : Nat} (ha : old < 2 ^ 64) (hb : opnd < 2 ^ 64) : (if toSigned 64 old ≥ toSigned 64 opnd then old else opnd) =
    if (BitVec.ofNat 64 old).sle (BitVec.ofNat 64 opnd) then opnd else old := by
  rw [← if_congr (toSigned_le_iff old opnd) rfl rfl]
  rcases lt_trichotomy (toSigned 64 old) (toSigned 64 opnd) with hlt | heq | hgt
  · rw [if_neg (not_le.2 hlt), if_pos hlt.le]
  · rw [eq_of_toSigned_eq ha hb heq, ite_self]
  · rw [if_pos hgt.le, if_neg (not_le.2 hgt)]

theorem atomNew_eq (func cmp : Nat) {old opnd : Nat} (ha : old < 2 ^ 64) (hb : opnd < 2 ^ 64) :
    atomNew func old opnd cmp = atomicWord func old opnd cmp := by
  match func with
  | 0 => exact ((BitVec.toNat_add ..).trans (by rw [BitVec.toNat_ofNat, BitVec.toNat_ofNat, ← Nat.add_mod]; rfl)).symm
  | 1 => exact ((BitVec.toNat_add ..).trans (by rw [BitVec.toNat_ofNat, BitVec.toNat_ofNat, ← Nat.add_mod]; rfl)).symm
  | 2 => rfl
  | 3 => rfl
  | 4 => exact if_congr beq_iff_eq rfl rfl
  | 5 => exact if_congr (toSigned_le_iff old opnd) rfl rfl
  | n + 6 => exact signedMax_eq ha hb

/-! ## The reply cache (R411) -/

section
variable {s : State} {m : RxMsg} {rest : List RxMsg} {t : Target} {apply : State → Target → Nat → State}

theorem State.serveOnce_cached {e : Reply1} {w : State × Nat} (h : s.cached m = some e) (hw : w = (s.bump Fld.vblRcacheHitCount).demoted m) :
    s.serveOnce m apply = w.1.respond m w.2 e.status e.result [] := by
  unfold State.serveOnce
  rw [← hw, h]

theorem State.serveOnce_full (hfresh : s.cached m = none) (hcheck : s.reqCheck m.copy m.job m.ptype m.addr m.opnd m.data = .ok t)
    (hfull : s.cacheFull = true) :
    s.serveOnce m apply = ({ s with vbl.blocked := s.vbl.blocked ++ [m] } : State).bump Fld.vblRcacheFullCount := by
  unfold State.serveOnce
  rw [hfresh]
  dsimp only
  rw [hcheck]
  exact if_pos hfull

/-- A request with room in the cache is executed in its own class, unless its sector is poisoned (R399, R402). -/
theorem State.serveOnce_room (hfresh : s.cached m = none) (hcheck : s.reqCheck m.copy m.job m.ptype m.addr m.opnd m.data = .ok t)
    (hroom : s.cacheFull = false) (hkeep : keepsClass s m t.window) :
    s.serveOnce m apply = if s.mem.poisoned (s.key t.ctx t.addr / 64) then s.respond m m.cls vPoisoned 0 [] else apply s t m.cls := by
  unfold State.serveOnce
  rw [hfresh]
  dsimp only
  rw [hcheck]
  dsimp only
  rw [hroom, if_neg Bool.false_ne_true, State.servedClass_kept hkeep]

theorem State.serveOnce_applies (h : Applies s m t) : s.serveOnce m apply = apply s t m.cls := by
  rw [State.serveOnce_room h.fresh h.checked h.room h.cls, h.clean, if_neg Bool.false_ne_true]

/-- Writing memory takes no time. -/
theorem State.spaceWrite_tick (c a : Nat) (bs : List Byte) : (s.spaceWrite c a bs).tick = s.tick := by
  unfold State.spaceWrite
  refine foldl_view (p := State.tick) (fun u p => ?_) _ _
  dsimp only
  split
  · unfold State.t2Write
    dsimp only
    split <;> rfl
  · rw [State.twrite_eq]
  · rw [State.twrite_eq]
  · rfl
  · rfl

/-! ## ATOMIC (R403, R410) -/

theorem exec_atomicReceive : exec .atomicReceive s = .next (s.clocked s.atomicReceive) := rfl

theorem State.atomicReceive_first (h : firstMsg s ptAtomic m rest) :
    s.atomicReceive = ((s.took rest).serveOnce m fun u t cls => u.applyAtomic m t cls).vblPump := by
  rw [State.atomicReceive, State.serve_of_firstMsg h]

theorem State.applyAtomic_eq {cls func old : Nat} (hfunc : func = leAt m.data 0 1)
    (hold : old = ofLe (s.spaceRead t.ctx t.addr (atomicWidth func)).1) : s.applyAtomic m t cls =
      (s.spaceWrite t.ctx t.addr (leBytes (atomicWidth func) (atomicWord func old m.opnd (leAt m.data 8 8)))).applied m cls vOk old := by
  have hwidth : (if func == 0 || func == 2 then 4 else 8) = atomicWidth func := by simp [atomicWidth]
  have hlong : atomicWidth func ≤ 8 := by
    unfold atomicWidth
    split <;> decide
  have hword : old < 2 ^ 64 := by
    rw [hold]
    exact ofLe_lt (k := 8) (le_trans (s.length_spaceRead_le _ _ (le_trans hlong (by decide))) hlong)
  unfold State.applyAtomic
  dsimp only
  rw [← hfunc, hwidth, ← hold, atomNew_eq func _ hword m.opnd_lt]

/-! ## LEASE (R413, R415) -/

theorem exec_leaseReceive : exec .leaseReceive s = .next (s.clocked s.leaseReceive) := rfl

theorem State.leaseReceive_first (h : firstMsg s ptLease m rest) :
    s.leaseReceive = ((s.took rest).serveOnce m fun u t cls => u.applyLease m t cls).vblPump := by
  rw [State.leaseReceive, State.serve_of_firstMsg h]

/-- A lock that a lease leaves as it was is not written. -/
def State.lockWrite (s : State) (t : Target) (old new : Lock) : State := if new = old then s else s.spaceWrite t.ctx t.addr new.bytes

theorem State.applyLease_acquire {cls : Nat} {l : Lock} {r : Lock × Nat × Nat} (hop : leAt m.data 0 1 = 0)
    (hl : l = Lock.of (s.spaceRead t.ctx t.addr 32).1)
    (hr : r = l.acquire (m.src + leAt m.data 1 1 % 64 * 2 ^ 20) (leAt m.data 4 4) m.opnd s.tick) :
    s.applyLease m t cls = (s.lockWrite t l r.1).applied m cls r.2.1 r.2.2 := by
  subst hl hr
  simp only [State.applyLease, hop, beq_self_eq_true, if_true, State.lockWrite, beq_iff_eq, ownerWord]

theorem State.applyLease_release {cls : Nat} {l : Lock} {r : Lock × Nat} (hop : leAt m.data 0 1 = 1)
    (hl : l = Lock.of (s.spaceRead t.ctx t.addr 32).1) (hr : r = l.release (m.src + leAt m.data 1 1 % 64 * 2 ^ 20) (leAt m.data 4 4)) :
    s.applyLease m t cls = (s.lockWrite t l r.1).applied m cls r.2 0 := by
  subst hl hr
  simp only [State.applyLease, hop, Nat.reduceBEq, Bool.false_eq_true, if_false, State.lockWrite, beq_iff_eq, ownerWord]

end

/-! ## The table of R415 -/

section
variable {l : Lock} {owner inc len tick : Nat}

theorem Lock.acquire_free (h : l.state = 0) :
    l.acquire owner inc len tick = (⟨owner, 1, inc, (tick + len) % 2 ^ 64, l.owner, l.inc⟩, 0, 0) :=
  if_pos (beq_iff_eq.2 h)

theorem Lock.acquire_live (h : l.state = 1) (hlive : tick < l.expiry) : l.acquire owner inc len tick =
    if l.owner ≠ owner then (l, 6, l.expiry)
    else if l.inc = inc then ({ l with expiry := (tick + len) % 2 ^ 64 }, 0, 0)
    else (⟨owner, 1, inc, (tick + len) % 2 ^ 64, l.owner, l.inc⟩, 7, l.owner) := by
  unfold Lock.acquire
  simp only [h, Nat.reduceBEq, Bool.false_eq_true, if_false, hlive, decide_true, Bool.and_self, if_true, beq_iff_eq, ne_eq, ite_not]
  rfl

theorem Lock.acquire_lapsed (h : (l.state = 1 ∧ l.expiry ≤ tick) ∨ l.state = 2) :
    l.acquire owner inc len tick = (⟨owner, 1, inc, (tick + len) % 2 ^ 64, l.owner, l.inc⟩, 7, l.owner) := by
  have hheld : ¬ (l.state == 0) = true := by
    rcases h with ⟨h, -⟩ | h <;> simp [h]
  have hlapsed : ¬ (l.state == 1 && decide (tick < l.expiry)) = true := by
    rcases h with ⟨h, hover⟩ | h
    · simp [h, hover]
    · simp [h]
  exact (if_neg hheld).trans (if_neg hlapsed)

theorem Lock.release_own (h : l.state = 1) (howner : l.owner = owner) :
    l.release owner inc = if l.inc = inc then (⟨0, 0, 0, 0, 0, 0⟩, 0) else ({ l with state := 2 }, 0) := by
  unfold Lock.release
  simp only [h, howner, beq_self_eq_true, Bool.and_self, if_true, beq_iff_eq]
  rfl

theorem Lock.release_other (h : l.state ≠ 1 ∨ l.owner ≠ owner) : l.release owner inc = (l, 8) :=
  if_neg (by simpa [imp_iff_not_or] using h)

end

/-- Settles O25: a request goes through the reply cache, then its operation acts at the target; the table of R415 is cut by its states. -/
theorem atomicsAndLeasesServed : Obligations.AtomicsAndLeasesServed := by
  unfold Obligations.AtomicsAndLeasesServed
  refine ⟨?applied, ?kept, ?full, ?poisoned, fun s => rfl, ?acquires, ?releases, fun l owner inc len tick h => Lock.acquire_free h,
    fun l owner inc len tick h hlive => Lock.acquire_live h hlive, fun l owner inc len tick h => Lock.acquire_lapsed h,
    fun l owner inc h howner => Lock.release_own h howner, fun l owner inc h => Lock.release_other h⟩
  case applied =>
    intro s m rest t h ha func old w
    have hatomic := State.applyAtomic_eq (s := s.took rest) (m := m) (t := t) (cls := m.cls) (func := func) (old := old) rfl rfl
    have htick : w.tick = s.tick := State.spaceWrite_tick ..
    rw [exec_atomicReceive, State.atomicReceive_first h, State.serveOnce_applies ha, hatomic, State.applied]
    change _ = Host.Outcome.next (s.clocked ((({ w with vbl.cache := w.vbl.cache ++ [⟨m.src, m.mid, m.gen, 0, old, s.tick⟩] } : State).respond m
      m.cls 0 old []).vblPump))
    rw [← htick]
    rfl
  case kept =>
    intro s m rest e w h hkept hw
    have hkept' : (s.took rest).cached m = some e := hkept
    rw [exec_atomicReceive, State.atomicReceive_first h, State.serveOnce_cached hkept' hw]
  case full =>
    intro s m rest t h hfresh hcheck hfull
    have hfresh' : (s.took rest).cached m = none := hfresh
    have hfull' : (s.took rest).cacheFull = true := hfull
    have hcheck' : (s.took rest).reqCheck m.copy m.job m.ptype m.addr m.opnd m.data = .ok t := by
      obtain ⟨-, hpt, -⟩ := h
      rw [State.took_reqCheck, hpt, hcheck]
    rw [exec_atomicReceive, State.atomicReceive_first h, State.serveOnce_full hfresh' hcheck' hfull']
    rfl
  case poisoned =>
    intro s m rest t h hfresh hcheck hroom hkeep hbad
    have hfresh' : (s.took rest).cached m = none := hfresh
    have hroom' : (s.took rest).cacheFull = false := hroom
    have hkeep' : keepsClass (s.took rest) m t.window := hkeep
    have hbad' : (s.took rest).mem.poisoned ((s.took rest).key t.ctx t.addr / 64) = true := hbad
    have hcheck' : (s.took rest).reqCheck m.copy m.job m.ptype m.addr m.opnd m.data = .ok t := by
      obtain ⟨-, hpt, -⟩ := h
      rw [State.took_reqCheck, hpt, hcheck]
    rw [exec_atomicReceive, State.atomicReceive_first h, State.serveOnce_room hfresh' hcheck' hroom' hkeep', hbad', if_pos rfl]
    rfl
  case acquires =>
    intro s m rest t l r h ha hop hl hr
    refine ⟨_, rfl, ?_⟩
    rw [exec_leaseReceive, State.leaseReceive_first h, State.serveOnce_applies ha, State.applyLease_acquire (s := s.took rest) hop hl hr]
    rfl
  case releases =>
    intro s m rest t l r h ha hop hl hr
    refine ⟨_, rfl, ?_⟩
    rw [exec_leaseReceive, State.leaseReceive_first h, State.serveOnce_applies ha, State.applyLease_release (s := s.took rest) hop hl hr]
    rfl

end Sys2Proof.Machine
